-- ==== Sys2Proof/Word.lean ====
section
/-! DEFINITION. The word types of the model: a byte, a 32-bit register dword and a 64-bit qword (R6, R7). -/

namespace Sys2Proof

/-- Eight bits. -/
abbrev Byte := BitVec 8

/-- A register dword, 32 bits (R8). -/
abbrev Word := BitVec 32

/-- A register qword, 64 bits (R391). -/
abbrev DWord := BitVec 64

end Sys2Proof
end

