-- ==== Sys2Proof/Syntax.lean ====
section
/-! DEFINITION. The commands of the block: one constructor per row of the opcode table, with the operands that the row's
event carries. An operand that the spec does not derive from the state, such as an elapsed time, an error met or data from
outside, is the environment's. -/

namespace Sys2Proof

/-- A command of the block. -/
inductive Instr where
  /-- TICK (R18). -/
  | tick
  /-- TICK_UNIT_START (R21). -/
  | tickUnitStart
  /-- TICK_IN_EDGE (R22). -/
  | tickInEdge (dt : Nat)
  /-- SUBSTITUTE_TICK (R23). -/
  | substituteTick
  /-- TABLES_READY (R37). -/
  | tablesReady (j dt : Nat)
  /-- DEADLINE_GUARD (R28). -/
  | deadlineGuard (n : Nat)
  /-- LANE_BLOCK (R43). -/
  | laneBlock (i slot : Nat) (block : BitVec 34)
  /-- SOF (R58). -/
  | sof (g vc counter : Nat)
  /-- SOL (R58). -/
  | sol (g : Nat)
  /-- EOL (R46). -/
  | eol (g : Nat)
  /-- EOF (R58). -/
  | eof (g vc : Nat)
  /-- CSI2_LONG_PACKET (R52). -/
  | csi2LongPacket (g vc dt ecc : Nat) (crcOk : Bool) (payload : List Byte)
  /-- CSI2_LINE_START (R52). -/
  | csi2LineStart (g vc number : Nat)
  /-- STAGE_SEGMENT (R65). -/
  | stageSegment
  /-- ATTEMPT_START (R119). -/
  | attemptStart (e : Nat)
  /-- QUEUE_FULL (R128). -/
  | queueFull (e dt : Nat)
  /-- BQ_ROOM_RESUME (R128). -/
  | bqRoomResume (e : Nat)
  /-- MEASURE_DONE (R163). -/
  | measureDone (e dt ce : Nat)
  /-- CODE_PASS_DONE (R120). -/
  | codePassDone (e dt ce : Nat)
  /-- ECLIPSE_PASS_START (R167). -/
  | eclipsePassStart (e : Nat)
  /-- ECLIPSE_PASS_DONE (R135). -/
  | eclipsePassDone (e dt : Nat)
  /-- VERIFY_DONE (R184). -/
  | verifyDone (e dt segFail : Nat) (flips : List Nat) (ecc : List (Nat × Bool))
  /-- GUARD_SWITCH (R138). -/
  | guardSwitch (j n t : Nat)
  /-- PXE_PARITY (R140). -/
  | pxeParity (e : Nat)
  /-- BQ_UNCORRECTABLE (R129). -/
  | bqUncorrectable (e ce : Nat)
  /-- ENT_PARITY (R140). -/
  | entParity (e : Nat)
  /-- ECLIPSE_FAULT (R140). -/
  | eclipseFault (e : Nat)
  /-- MIR_FAULT (R140). -/
  | mirFault (e : Nat)
  /-- ENGINE_STALL (R140). -/
  | engineStall (unit e : Nat)
  /-- ENGINE_RESET_DONE (R141). -/
  | engineResetDone (unit e dt : Nat)
  /-- CAPACITY_RECOMPUTE (R267). -/
  | capacityRecompute
  /-- PLAYBACK_BAND (R187). -/
  | playbackBand (e dt : Nat)
  /-- DEVELOP_BAND (R208). -/
  | developBand
  /-- HEVC_PICTURE (R220). -/
  | hevcPicture (o dt ring flow0 flow1 want : Nat) (sets timing slices : List (List Byte))
  /-- MONITOR_PICTURE (R227). -/
  | monitorPicture (flow0 flow1 : Nat)
  /-- MULTICAST_DELIVER (R279). -/
  | multicastDeliver (k : Nat)
  /-- SEQ_DISPATCH (R243). -/
  | seqDispatch (t : Nat) (par : Bool)
  /-- CONT (R236). -/
  | cont (t par : Nat)
  /-- JUMP (R236). -/
  | jump (t par : Nat)
  /-- BR_NEG (R236). -/
  | brNeg (t par : Nat)
  /-- BR_ZERO (R236). -/
  | brZero (t par : Nat)
  /-- BR_COND (R236). -/
  | brCond (t par : Nat)
  /-- CALL (R236). -/
  | call (t par : Nat)
  /-- RET (R236). -/
  | ret (t par : Nat)
  /-- END (R236). -/
  | seqEnd (t par : Nat)
  /-- WAIT_RELEASE (R237). -/
  | waitRelease (t : Nat)
  /-- SEQ_TIMER_EXPIRE (R237). -/
  | seqTimerExpire (t : Nat)
  /-- HANDLER_FORCED_END (R245). -/
  | handlerForcedEnd (t : Nat)
  /-- SEQ_HOST_EVENT (R251). -/
  | seqHostEvent (v : Nat)
  /-- CELL_TRANSFER (R253). -/
  | cellTransfer (input output cls owner addr : Nat) (write : Bool) (bytes : List Byte) (ecc : Nat)
  /-- RESEQ_GAP (R256). -/
  | reseqGap (input output cls : Nat)
  /-- EGRESS_GRANT (R258). -/
  | egressGrant (egr : Nat)
  /-- POOL_REQUEST (R275). -/
  | poolRequest (size cls owner port dests : Nat)
  /-- POOL_FREE (R278). -/
  | poolFree (ptr owner port : Nat)
  /-- AUDIT_EPOCH_END (R282). -/
  | auditEpochEnd
  /-- MAG_PRESENT_N_CHANGE (R288). -/
  | magPresentNChange (p : Nat) (low : Bool) (carrier : Nat × List Byte × List Byte × List Nat)
  /-- MAG_PRESENT (R288). -/
  | magPresent (p : Nat)
  /-- MAG_REMOVED (R330). -/
  | magRemoved (p : Nat)
  /-- CHUNK_CHECK (R310). -/
  | chunkCheck (str : Nat) (bad : Bool)
  /-- STRIPE_PROGRAM (R317). -/
  | stripeProgram (p : Nat)
  /-- FLUSH_TIMEOUT (R317). -/
  | flushTimeout (p : Nat)
  /-- PROGRAM_DONE (R321). -/
  | programDone (p die dt : Nat) (fail : Option Nat)
  /-- ERASE_DONE (R321). -/
  | eraseDone (p dt : Nat) (fail : Bool)
  /-- STATUS_TIMEOUT (R316). -/
  | statusTimeout (p die dt : Nat)
  /-- CODEWORD_READ (R302). -/
  | codewordRead (p ppa c step bits : Nat)
  /-- RELOCATE_BLOCK (R326). -/
  | relocateBlock (p : Nat)
  /-- RETENTION_SCAN (R328). -/
  | retentionScan (p : Nat) (found : List (Nat × Nat × Nat × Nat))
  /-- CHECKPOINT (R346). -/
  | checkpoint (p : Nat)
  /-- POWER_ON_RESET (R364). -/
  | powerOnReset (role bootSrc : Nat) (testEn : Bool)
  /-- EXTERNAL_RESET (R364). -/
  | externalReset (low role bootSrc : Nat) (testEn : Bool)
  /-- INTERNAL_RESET (R364). -/
  | internalReset
  /-- PCIE_RESET (R366). -/
  | pcieReset (perst : Bool) (low : Nat)
  /-- POWER_LOSS (R331). -/
  | powerLoss (port : Option Nat)
  /-- SUPPLY_OUT_OF_RANGE (R580). -/
  | supplyOutOfRange
  /-- BOOT_ROM_START (R376). -/
  | bootRomStart (train1 train2 : Bool) (gib ranks : Nat) (badA badB : Bool)
  /-- BOOT_WATCHDOG_EXPIRY (R379). -/
  | bootWatchdogExpiry
  /-- READY_TIMEOUT (R379). -/
  | readyTimeout
  /-- READY (R380). -/
  | ready
  /-- LOAD (R371). -/
  | load (readOk : Bool)
  /-- REBOOT (R396). -/
  | reboot
  /-- TWILIGHT_ENTER (R385). -/
  | twilightEnter
  /-- BBX_READ (R395). -/
  | bbxRead
  /-- ECHO (R395). -/
  | echo (i : Nat)
  /-- BAD_ACCESS (R390). -/
  | badAccess
  /-- BAR0_RC_READ (R9). -/
  | bar0RcRead (off : Nat)
  /-- SDT_NOW_LOW_READ (R492). -/
  | sdtNowLowRead
  /-- SQ_TAIL_DOORBELL (R403). -/
  | sqTailDoorbell (q t : Nat)
  /-- CQ_HEAD_DOORBELL (R404). -/
  | cqHeadDoorbell (q h : Nat)
  /-- ADMIN_ENABLE (R400). -/
  | adminEnable
  /-- ADMIN_DISABLE (R401). -/
  | adminDisable
  /-- SQ_FETCH (R412). -/
  | sqFetch (admin : Bool)
  /-- COMPLETION_POST (R419). -/
  | completionPost
  /-- CQ_AGG_TIMEOUT (R398). -/
  | cqAggTimeout (q : Nat)
  /-- IDENTIFY (R431). -/
  | identify (sq cid : Nat)
  /-- CREATE_SQ (R414). -/
  | createSq (sq cid : Nat)
  /-- CREATE_CQ (R414). -/
  | createCq (sq cid : Nat)
  /-- DELETE_SQ (R416). -/
  | deleteSq (sq cid : Nat)
  /-- DELETE_CQ (R417). -/
  | deleteCq (sq cid : Nat)
  /-- GET_LOG (R433). -/
  | getLog (sq cid : Nat)
  /-- SET_FEATURE (R432). -/
  | setFeature (sq cid : Nat)
  /-- GET_FEATURE (R432). -/
  | getFeature (sq cid : Nat)
  /-- ASYNC_EVENT_REQUEST (R423). -/
  | asyncEventRequest (sq cid : Nat)
  /-- ABORT (R461). -/
  | abort (sq cid : Nat)
  /-- FW_LOAD (R435). -/
  | fwLoad (sq cid : Nat)
  /-- WRITE (R436). -/
  | write (sq cid : Nat) (readback : Bool)
  /-- WRITE_AND_ACTIVATE (R436). -/
  | writeAndActivate (sq cid : Nat) (readback : Bool)
  /-- RAISE_FLOOR (R436). -/
  | raiseFloor (sq cid : Nat)
  /-- UCODE_LOAD (R437). -/
  | ucodeLoad (sq cid : Nat)
  /-- STEP (R438). -/
  | step (sq cid : Nat)
  /-- SLEW (R438). -/
  | slew (sq cid : Nat)
  /-- POWER_SET_OFF (R484). -/
  | powerSetOff (sq cid : Nat)
  /-- POWER_SET_ON (R485). -/
  | powerSetOn (sq cid : Nat)
  /-- QUIESCE_DONE (R484). -/
  | quiesceDone (k dt : Nat)
  /-- QUIESCE_TIMEOUT (R484). -/
  | quiesceTimeout (k : Nat)
  /-- FAULT_CLEAR (R440). -/
  | faultClear (sq cid : Nat)
  /-- BLACKBOX_READ (R441). -/
  | blackboxRead (sq cid : Nat) (ecc : List (Nat × Bool))
  /-- BLACKBOX_CLEAR (R442). -/
  | blackboxClear (sq cid : Nat)
  /-- CONSTELLATION_ENUM (R523). -/
  | constellationEnum (sq cid : Nat)
  /-- CONSTELLATION_SEVERITY (R539). -/
  | constellationSeverity (sq cid : Nat)
  /-- CONTEXT_CREATE (R444). -/
  | contextCreate (sq cid : Nat)
  /-- CONTEXT_DESTROY (R446). -/
  | contextDestroy (sq cid : Nat)
  /-- CAPTURE_ARM (R449). -/
  | captureArm (sq cid : Nat)
  /-- CAPTURE_START_AT_TICK (R450). -/
  | captureStartAtTick (sq cid : Nat)
  /-- CAPTURE_STOP_AT_TICK (R451). -/
  | captureStopAtTick (sq cid : Nat)
  /-- CLIP_OPEN (R448). -/
  | clipOpen (sq cid : Nat)
  /-- CLIP_CLOSE (R452). -/
  | clipClose (sq cid : Nat)
  /-- CLIP_DELETE (R453). -/
  | clipDelete (sq cid : Nat)
  /-- MAG_MOUNT (R290). -/
  | magMount (sq cid : Nat) (found : List (Nat × Nat × Nat × Nat))
  /-- MAG_UNMOUNT (R332). -/
  | magUnmount (sq cid : Nat)
  /-- MAG_FORMAT (R455). -/
  | magFormat (sq cid : Nat)
  /-- MAG_SCAN (R456). -/
  | magScan (sq cid : Nat) (found : List (Nat × Nat × Nat × Nat))
  /-- PLAYBACK_DECODE (R457). -/
  | playbackDecode (sq cid : Nat)
  /-- READ_UNITS (R458). -/
  | readUnits (sq cid : Nat) (steps : List Nat)
  /-- DMA_RUN (R459). -/
  | dmaRun (sq cid : Nat)
  /-- BUF_RECLAIM (R284). -/
  | bufReclaim (sq cid : Nat)
  /-- DMA_MOVE (R473). -/
  | dmaMove (ch : Nat) (ecc : List (Nat × Bool))
  /-- DMA_FILL (R473). -/
  | dmaFill (ch : Nat)
  /-- DMA_CMP (R473). -/
  | dmaCmp (ch : Nat) (ecc : List (Nat × Bool))
  /-- DMA_LOOP (R473). -/
  | dmaLoop (ch : Nat)
  /-- DMA_WAIT (R474). -/
  | dmaWait (ch : Nat)
  /-- DMA_EVENT_RELEASE (R474). -/
  | dmaEventRelease (v : Nat)
  /-- WAIT_TIMEOUT (R473). -/
  | waitTimeout (ch : Nat)
  /-- DMA_SIGNAL (R474). -/
  | dmaSignal (ch : Nat)
  /-- DMA_END (R475). -/
  | dmaEnd (ch : Nat)
  /-- DMA_ARM (R479). -/
  | dmaArm (ch : Nat) (v : Bool)
  /-- DMA_EVENT_SET (R474). -/
  | dmaEventSet (mask : Nat)
  /-- DRAM_SCRUB (R466). -/
  | dramScrub (c : Nat) (found : List (Nat × Bool))
  /-- MR4_READ (R467). -/
  | mr4Read (c : Nat) (codes : List Nat)
  /-- PPS_IN_EDGE (R491). -/
  | ppsInEdge (dt : Nat)
  /-- PPS_OUT_SECOND (R491). -/
  | ppsOutSecond
  /-- PTP_SYNC (R489). -/
  | ptpSync (e dt seqId t1 : Nat) (twoStep : Bool)
  /-- PTP_ANNOUNCE (R495). -/
  | ptpAnnounce (e dt : Nat) (a : List Nat)
  /-- PTP_DELAY_REQ (R495). -/
  | ptpDelayReq (e dt seqId : Nat)
  /-- PTP_DELAY_RESP (R495). -/
  | ptpDelayResp (e dt seqId t4 : Nat)
  /-- ANNOUNCE_TIMEOUT (R495). -/
  | announceTimeout (e dt : Nat)
  /-- TIME_UNLOCK_TIMEOUT (R489). -/
  | timeUnlockTimeout
  /-- ETH_FRAME_RX (R508). -/
  | ethFrameRx (e : Nat) (fcsOk : Bool) (frame : List Byte)
  /-- ETH_FRAME_TX (R501). -/
  | ethFrameTx (e : Nat)
  /-- SHAPER_REFILL (R503). -/
  | shaperRefill
  /-- GATE_INTERVAL_END (R502). -/
  | gateIntervalEnd (e : Nat)
  /-- GCL_ACTIVATE (R502). -/
  | gclActivate (e : Nat)
  /-- ETH_GCL_COMMIT (R502). -/
  | ethGclCommit (e : Nat)
  /-- SHAPER_RESET (R504). -/
  | shaperReset (i : Nat)
  /-- PORT_DOWN (R499). -/
  | portDown (e : Nat) (localFault remoteFault blockLock : Bool)
  /-- PORT_UP (R499). -/
  | portUp (e : Nat)
  /-- ETH_HOLD_EXPIRY (R510). -/
  | ethHoldExpiry (e : Nat)
  /-- LANES_ALIGNED (R521). -/
  | lanesAligned (p : Nat)
  /-- LINK_INIT_SEND (R521). -/
  | linkInitSend (p : Nat)
  /-- LINK_INIT (R521). -/
  | linkInit (p : Nat)
  /-- LINK_LOSS (R521). -/
  | linkLoss (p why lanes : Nat)
  /-- LINK_HOLD_EXPIRY (R522). -/
  | linkHoldExpiry (p : Nat)
  /-- MISWIRED_RETRY (R521). -/
  | miswiredRetry (p : Nat)
  /-- FLIT_RX (R518). -/
  | flitRx (p : Nat) (raw : List Byte)
  /-- REPLAY_TIMEOUT (R519). -/
  | replayTimeout (p : Nat)
  /-- ENUM (R523). -/
  | enum (p : Nat)
  /-- ENUM_DONE (R523). -/
  | enumDone (p : Nat)
  /-- ENUM_ENTRY (R523). -/
  | enumEntry (p : Nat)
  /-- ENUM_TIMEOUT (R523). -/
  | enumTimeout (p : Nat)
  /-- REASSIGN (R525). -/
  | reassign (p : Nat)
  /-- TICK_BROADCAST (R531). -/
  | tickBroadcast
  /-- TICK_MESSAGE (R533). -/
  | tickMessage (p : Nat)
  /-- WORKER_SUBSTITUTE_TICK (R534). -/
  | workerSubstituteTick
  /-- STATE (R537). -/
  | state (p : Nat)
  /-- START (R538). -/
  | start (p : Nat)
  /-- START_ACK (R538). -/
  | startAck (p : Nat)
  /-- SEVERITY (R539). -/
  | severity (p : Nat)
  /-- SEVERITY_ACK (R539). -/
  | severityAck (p : Nat)
  /-- SEVERITY_TIMEOUT (R539). -/
  | severityTimeout
  /-- FAULT (R540). -/
  | fault (p : Nat)
  /-- FF_READ (R541). -/
  | ffRead (p : Nat)
  /-- FF_DATA (R541). -/
  | ffData (p : Nat)
  /-- RELAY_ENABLE (R528). -/
  | relayEnable (e v : Nat)
  /-- RELAY_ADMIT (R528). -/
  | relayAdmit (p : Nat)
  /-- RELAY_GRANT (R528). -/
  | relayGrant (p : Nat)
  /-- TIME_FLIT_SEND (R529). -/
  | timeFlitSend (p : Nat)
  /-- SYNC (R529). -/
  | sync (p : Nat)
  /-- REQ (R529). -/
  | req (p : Nat)
  /-- RESP (R529). -/
  | resp (p : Nat)
  /-- FAULT_STATUS_CLEAR (R549). -/
  | faultStatusClear (j v : Nat)
  /-- WDOG_SERVICE (R553). -/
  | wdogService (i : Nat)
  /-- WDOG_WARNING (R553). -/
  | wdogWarning (i : Nat)
  /-- WDOG_EXPIRY (R553). -/
  | wdogExpiry (i : Nat)
  /-- TWINKLE_TOGGLE (R554). -/
  | twinkleToggle
  /-- TWINKLE_RESUME (R554). -/
  | twinkleResume
  /-- INT_SOURCE_FIRE (R559). -/
  | intSourceFire (id : Nat) (line : Bool)
  /-- INT_CLAIM (R559). -/
  | intClaim (core : Nat)
  /-- INT_COMPLETE (R559). -/
  | intComplete (core id : Nat) (nothing : Bool)
  /-- INT_HOST_ACK (R562). -/
  | intHostAck (id : Nat)
  /-- HOST_SOURCE_ENABLE (R562). -/
  | hostSourceEnable (id : Nat) (en : Bool) (prio : Nat)
  /-- BBX_ENTRY_WRITE (R567). -/
  | bbxEntryWrite
  /-- TEMP_SAMPLE (R595). -/
  | tempSample (celsius : Int)
  /-- REGISTER_WRITE (R432). -/
  | registerWrite (bar2 : Bool) (off : Nat) (qword : Bool) (v : Nat)
  /-- ATTEMPT_COMPLETE (R120). -/
  | attemptComplete (e dt : Nat)
  /-- PCIE_LINK_UP (R368). -/
  | pcieLinkUp (rise dt : Nat)
  /-- PTP_FOLLOW_UP (R495). -/
  | ptpFollowUp (e dt seqId t1 : Nat)
  /-- PTP_INTERVAL_EXPIRY (R495). -/
  | ptpIntervalExpiry (e dt kind : Nat)
  /-- SLEW_END (R438). -/
  | slewEnd
  /-- PCIE_AER_ERROR (R545). -/
  | pcieAerError (uncorrectable : Bool) (status : Nat)
  /-- CONTROL_SRAM_ERROR (R545). -/
  | controlSramError (uncorrectable : Bool) (addr : Nat)
  /-- INT_SRC_SETTING (R556). -/
  | intSrcSetting (id v : Nat)
  /-- CORE_SLEEP (R558). -/
  | coreSleep (i : Nat)
  /-- TICK_OUT_FALL (R493). -/
  | tickOutFall
  /-- PPS_OUT_FALL (R491). -/
  | ppsOutFall
  deriving DecidableEq, Repr

end Sys2Proof
end

