-- ==== Sys2Proof/Decode.lean ====
section
/-! DEFINITION. The word decoder. No row of the opcode table has bits, so no word spells a command: commands come from outside
the block, one at a time, with their operands. -/

namespace Sys2Proof

/-- The command that a word of `nbits` bits spells: none, since the table gives no row any bits. -/
def decodeTableWord (_nbits _w : Nat) : Option Instr := none

end Sys2Proof
end

