-- ==== Sys2Proof/Config.lean ====
section
/-! DEFINITION. What an implementation fixes and the free values: constants without a body, so that no proof can see what
they are (log entries name each). -/

namespace Sys2Proof.Config
open Sys2Proof

/-- A value the spec leaves open, drawn fresh at each use (the argument is State's own counter of draws). -/
opaque free : Nat → Nat

/-- The unique device number, ID_UID0 to ID_UID3 (R392): from OTP. -/
opaque uid : Nat → Word

/-- MAC address dwords of the Ethernet ports (R512): from OTP. -/
opaque mac : Nat → Word

/-- Vendor key hashes of the four OTP slots (R374). -/
opaque vendorKeyHash : Nat → List Byte

/-- Customer microcode key hash (R247). -/
opaque customerKeyHash : List Byte

/-- SHA-384 (FIPS 180-4), which the spec cites without restating it. -/
opaque sha384 : List Byte → List Byte

/-- ECDSA P-384 verification (FIPS 186-5) of a signature by a public key over a digest. -/
opaque ecdsaVerify : List Byte → List Byte → List Byte → Bool

/-- Clear challenge number n (R442). -/
opaque challenge : Nat → List Byte

/-- State byte of a context record in log page 0x05, whose encoding the spec does not give: 0 idle, 1 a capture context with an open clip,
2 armed, 3 running (R433). -/
opaque ctxState : Nat → Nat

/-- Vendor diagnostic opcodes the firmware identifies, bit i for 0xC0 + i (R410, R431). -/
opaque vendorOpcodes : Nat

/-- Rate adjustment the servo takes after a measurement: draw number, present ppb, measured ns (R489). -/
opaque servoPpb : Nat → Int → Int → Int

/-- Rate of a TIME_SET SLEW in ppb before the limit of 500 ppm (R438). -/
opaque slewPpb : Nat → Nat

/-- Quality fields of this clock's own PTP data set: class, accuracy, variance, identity (R495). -/
opaque ptpQuality : Nat → List Nat

/-- Whether the part is of grade ZB9160-FI, junction up to 105 °C, rather than ZB9160-FC, up to 95 °C (R1). -/
opaque industrialGrade : Bool

/-- Severity code of a JESD209-5B MR4 report: above 85 degrees, and beyond the refresh ranges (R467). -/
opaque mr4Above85 : Nat → Bool
opaque mr4Beyond : Nat → Bool

/-- Index of the DRAM region, in units of its buffer size, where firmware would place pool p (R274). -/
opaque poolPlace : Nat → Nat

/-- What a word of the sequencer stores that no customer image has loaded holds: micro-words, nano-words (R234, R246). -/
opaque emptyMicro : Nat → Nat
opaque emptyNano : Nat → Nat

/-- Samples of a scaler's output picture (R217), whose filter coefficients the spec does not give: output format (0 is 4:2:0, 1 is
4:2:2), crop left, top, width and height, output width and height, then the 10-bit planes of the developed frame row by row with
its width; the samples in the order in which they are sent. -/
opaque scaled : List Nat → Nat → List Nat → List Nat

/-- general_level_idc and tier of an HEVC stream by the Annex A of H.265, which the spec cites: profile, width, height, picture
rate numerator and denominator, bit rate in 0.1 Mbit/s, CPB bits; 0 where no level up to 6.2 is met (R224). -/
opaque hevcLevel : List Nat → Nat

end Sys2Proof.Config
end

