-- ==== Sys2Proof/Machine/Bits.lean ====
section
/-! DEFINITION. Bit fields, byte order and small arithmetic helpers that every unit uses (R4 to R7). -/

namespace Sys2Proof.Machine
open Sys2Proof

/-- Field [lo + len - 1 : lo] of a number (R6). -/
def bits (n lo len : Nat) : Nat := (n >>> lo) % 2 ^ len

/-- Bit `i` of a number. -/
def bit (n i : Nat) : Bool := n.testBit i

/-- Field [lo + len - 1 : lo] of a dword. -/
def fld (w : Word) (lo len : Nat) : Nat := bits w.toNat lo len

/-- A dword from a number, modulo 2 to the 32. -/
def word (n : Nat) : Word := BitVec.ofNat 32 n

/-- The number of a truth value. -/
def b2n (b : Bool) : Nat := if b then 1 else 0

/-- A mask of `len` ones starting at bit `lo`, as a dword. -/
def maskW (lo len : Nat) : Word := word ((2 ^ len - 1) <<< lo)

/-- A dword with one field replaced. -/
def setFld (w : Word) (lo len v : Nat) : Word :=
  (w &&& ~~~(maskW lo len)) ||| (word ((v % 2 ^ len) <<< lo))

/-- A number with bit `i` set or cleared. -/
def putBit (n i : Nat) (b : Bool) : Nat :=
  if n.testBit i = b then n else n ^^^ (2 ^ i)

/-- The low half of a 64-bit quantity. -/
def lo32 (n : Nat) : Word := word n

/-- The high half of a 64-bit quantity. -/
def hi32 (n : Nat) : Word := word (n >>> 32)

/-- Addition that saturates at 0xFFFF_FFFF, the rule of every RC counter. -/
def satAdd32 (a b : Nat) : Nat := min (a + b) 0xFFFFFFFF

/-- The `k` little-endian bytes of a number (R7). -/
def leBytes : Nat → Nat → List Byte
  | 0, _ => []
  | k + 1, n => BitVec.ofNat 8 n :: leBytes k (n / 256)

/-- The number that little-endian bytes spell (R7). -/
def leNat : List Byte → Nat
  | [] => 0
  | b :: r => b.toNat + 256 * leNat r

/-- `len` bytes of a list from offset `off`, padded with zeros. -/
def slice (l : List Byte) (off len : Nat) : List Byte :=
  let t := (l.drop off).take len
  t ++ List.replicate (len - t.length) 0

/-- The little-endian number in bytes [off, off + len) of a structure. -/
def rd (l : List Byte) (off len : Nat) : Nat := leNat (slice l off len)

/-- Bytes cut or padded with zeros to an exact length. -/
def padTo (len : Nat) (l : List Byte) : List Byte := slice l 0 len

/-- `k` zero bytes. -/
def zeros (k : Nat) : List Byte := List.replicate k 0

/-- The 32-bit words of a byte string. -/
def wordsOf (l : List Byte) : Nat → List Word
  | 0 => []
  | k + 1 => word (rd l 0 4) :: wordsOf (l.drop 4) k

/-- Rounding up division; a zero divisor gives 0. -/
def ceilDiv (a b : Nat) : Nat := if b = 0 then 0 else (a + b - 1) / b

/-- The smallest element of a list by a key, the earlier one on a tie. -/
def argMin {α : Type} (key : α → Nat) : List α → Option α
  | [] => none
  | x :: r =>
    match argMin key r with
    | none => some x
    | some y => if key y < key x then some y else some x

/-- The largest element of a list by a key, the earlier one on a tie. -/
def argMax {α : Type} (key : α → Nat) : List α → Option α
  | [] => none
  | x :: r =>
    match argMax key r with
    | none => some x
    | some y => if key x < key y then some y else some x

/-- Sum of a list by a key. -/
def sumBy {α : Type} (f : α → Nat) (l : List α) : Nat := l.foldl (fun a x => a + f x) 0

/-- Replace the first element that satisfies `p` by its image. -/
def modifyFirst {α : Type} (p : α → Bool) (f : α → α) : List α → List α
  | [] => []
  | x :: r => if p x then f x :: r else x :: modifyFirst p f r

/-- Insert a number into a strictly rising list, once. -/
def insertNat (n : Nat) : List Nat → List Nat
  | [] => [n]
  | x :: r => if n < x then n :: x :: r else if n = x then x :: r else x :: insertNat n r

/-- CRC register step over one bit of input, reflected form with polynomial `p`. -/
def crcBits (p : Nat) : Nat → Nat → Nat
  | 0, c => c
  | k + 1, c => crcBits p k (if c % 2 = 1 then (c / 2) ^^^ p else c / 2)

/-- CRC-32C (Castagnoli, reflected polynomial 0x82F6_3B78) continued from `seed` over bytes, as R75 defines it: initial
value and final inversion all ones, a seed being the CRC of the bytes before. -/
def crc32c (seed : Nat) (l : List Byte) : Nat :=
  (l.foldl (fun c b => crcBits 0x82F63B78 8 (c ^^^ b.toNat)) (seed ^^^ 0xFFFFFFFF)) ^^^ 0xFFFFFFFF

/-- One bit step of the CRC-16 of R46, most significant bit first. -/
def crc16Bits : Nat → Nat → Nat
  | 0, c => c
  | k + 1, c => crc16Bits k (if c % 65536 / 32768 = 1 then ((c * 2) % 65536) ^^^ 0x1021 else (c * 2) % 65536)

/-- CRC-16 (R46, R76). -/
def crc16 (l : List Byte) : Nat := l.foldl (fun c b => crc16Bits 8 (c ^^^ (256 * b.toNat))) 0xFFFF

end Sys2Proof.Machine
end

