-- ==== Sys2Proof/Machine/RegMap.lean ====
section
/-! DEFINITION. Register maps (R8 to R10): the offset, reset value and access of every dword of the feature blocks and of
the BAR0 registers that hold a value of their own. -/

namespace Sys2Proof.Machine
open Sys2Proof

/-- A register dword, or an array of them: bits that take writes, bits that a 1 clears, bits that a 1 sets or acts on
without being kept, and whether a read clears it. -/
structure RegRow where
  off : Nat
  stride : Nat := 4
  cnt : Nat := 1
  reset : Nat := 0
  rw : Nat := 0
  w1c : Nat := 0
  act : Nat := 0
  rc : Bool := false
  deriving DecidableEq, Repr

namespace Reg

/-- Read-only dwords. -/
def ro (off : Nat) (reset : Nat := 0) (cnt : Nat := 1) (stride : Nat := 4) : RegRow := { off, stride, cnt, reset }

/-- Dwords that take writes under a mask. -/
def rw (off mask reset : Nat) (cnt : Nat := 1) (stride : Nat := 4) : RegRow := { off, stride, cnt, reset, rw := mask }

/-- Read-clear counters. -/
def rc (off : Nat) (cnt : Nat := 1) (stride : Nat := 4) : RegRow := { off, stride, cnt, rc := true }

/-- The two dwords of a 64-bit register that takes writes. -/
def rw64 (off mask : Nat) (cnt : Nat := 1) (stride : Nat := 8) : List RegRow :=
  [{ off, stride, cnt, rw := mask % 4294967296 }, { off := off + 4, stride, cnt, rw := mask / 4294967296 }]

/-- The two dwords of a read-only 64-bit register. -/
def ro64 (off : Nat) (cnt : Nat := 1) (stride : Nat := 8) : List RegRow :=
  [{ off, stride, cnt }, { off := off + 4, stride, cnt }]

end Reg

open Reg

/-- Feature 0x01: SDT_ and TCK_, also BAR0 from 0x5000 (R511). -/
def rowsTime : List RegRow :=
  ro64 0x000 ++
  [ro 0x008, rw 0x00C 0x01FF0007 0x00640000, ro 0x010, ro 0x014] ++ ro64 0x018 ++
  [rc 0x020, rw 0x100 0x00000007 0, rw 0x104 0xFFFFFFFF 0x00180001, rw 0x108 0xFFFFFF01 0x0A000000] ++
  rw64 0x110 0xFFFFFFFFFFFFFFFF ++ [ro 0x118, ro 0x11C] ++ ro64 0x120 ++ ro64 0x128 ++ [ro 0x130]

/-- Feature 0x21: ETH_ (R512). -/
def rowsEth : List RegRow :=
  [rw 0x00 0xB8003FFF 0x200005F2 2 0x100, ro 0x04 0 2 0x100, rw 0x08 0x0001FFFF 0x7D0 2 0x100,
   rw 0x0C 0x000000FF 0 2 0x100, rw 0x10 0xC0FFFFFF 0x80100000 8 4, rw 0x110 0xC0FFFFFF 0x80100000 8 4,
   rw 0x30 0x000001FF 1 2 0x100, { off := 0x34, stride := 0x100, cnt := 2, act := 1 }] ++
  rw64 0x38 0xFFFFFFFFFFFFFFFF 2 0x100 ++
  [rw 0x40 0xC0FF0FFF 0x007F0DED 2 0x100, rw 0x44 0x0000FFFF 0x8080 2 0x100, rw 0x48 0xFFFFFFFF 0 2 0x100,
   ro 0x4C 0 2 0x100, rw 0x50 0xFFFFFFFF 0 2 0x100, ro 0x58 0 2 0x100, ro 0x5C 0 2 0x100,
   rc 0x60 2 0x100, rc 0x64 2 0x100, rc 0x68 2 0x100, rc 0x6C 2 0x100, rc 0x70 2 0x100,
   { off := 0x1000, stride := 0x400, cnt := 2, reset := 0xFF0F4240, rw := 0xFFFFFFFF },
   rw 0x1004 0xFFFFFFFF 0 255 4, rw 0x1404 0xFFFFFFFF 0 255 4,
   rw 0x10000 0xFFFFFFFF 0 4096 16, rw 0x10004 0xFFFFFFFF 0 4096 16, ro 0x10008 0 4096 16,
   { off := 0x1000C, stride := 16, cnt := 4096, rw := 0x40000000, act := 0x80000000 },
   rw 0x20000 0xFFFFFFFF 0 4096 16, rw 0x20004 0xFFFFFFFF 0 4096 16, ro 0x20008 0 4096 16, rc 0x2000C 4096 16]

/-- Feature 0x22: LNK_ (R543). -/
def rowsLnk : List RegRow :=
  [rw 0x00 0x8001FFFF 0x7D0 4 0x100, ro 0x04 0 4 0x100, ro 0x08 0 4 0x100, ro 0x0C 0 4 0x100, ro 0x10 0 4 0x100,
   ro 0x14 0 4 0x100, rw 0x18 0xFFFFFFFF 0 4 0x100, ro 0x1C 0 4 0x100, rc 0x20 4 0x100, rc 0x24 4 0x100,
   rc 0x28 4 0x100, rc 0x2C 4 0x100, rc 0x30 4 0x100, ro 0x800, rw 0x804 0x000003FF 0x64, ro 0x808, rc 0x80C,
   ro 0x810, ro 0x814, rw 0x820 0x81FFFFFF 0 2 4, rw 0x828 0x00000007 0 2 4]

/-- Feature 0x1A: FAB_ (R285). -/
def rowsFab : List RegRow :=
  [rc 0x000, rc 0x004, ro 0x010 0 7 4, rw 0x100 0xFFC03FFF 0 8 16, rw 0x104 0xFF803FFF 0 8 16, rc 0x108 8 16,
   rc 0x10C 8 16]

/-- Feature 0x1B: POOL_ (R285). -/
def rowsPool : List RegRow :=
  ro64 0x00 4 0x40 ++
  [ro 0x08 0 4 0x40, ro 0x0C 0 4 0x40, ro 0x10 0 4 0x40, { off := 0x14, stride := 0x40, cnt := 4, w1c := 0xF },
   ro 0x18 0 4 0x40, ro 0x1C 0 4 0x40, rc 0x20 4 0x40, ro 0x100]

/-- Feature 0x1E: DRC_ (R487). -/
def rowsDrc : List RegRow :=
  [ro 0x00 0 4 0x40, rw 0x04 0xFF 0x18 4 0x40, rc 0x08 4 0x40, rc 0x0C 4 0x40] ++ ro64 0x10 4 0x40 ++
  [rc 0x18 4 0x40, rc 0x1C 4 0x40]

/-- Feature 0x1F: DMA_ (R487). -/
def rowsDma : List RegRow :=
  [rw 0x00 0x3 2 32 0x40, { off := 0x04, stride := 0x40, cnt := 32, w1c := 0x10000 }] ++ ro64 0x08 32 0x40 ++
  rw64 0x10 0xFFFFFFFFFFFFFFFF 32 0x40 ++ rw64 0x18 0xFFFFFFFFFFFFFFFF 32 0x40 ++
  rw64 0x20 0xFFFFFFFFFFFFFFFF 32 0x40 ++ [rw 0x28 1 0 32 0x40] ++ rw64 0x30 0xFFFFFFFFFFFFFFFF 32 0x40 ++
  [rc 0x38 32 0x40] ++ ro64 0x800 ++
  [{ off := 0x808, act := 0xFFFFFF00 }, { off := 0x80C, act := 0xFFFFFFFF }]

/-- Feature 0x20: PWR_ (R487). -/
def rowsPwr : List RegRow :=
  [ro 0x00 0, ro 0x04 0x30] ++ ro64 0x08 ++ [ro 0x10 0 5 4, rc 0x24]

/-- Feature 0x10: PRM_ (R69). -/
def rowsPrm : List RegRow :=
  [rw 0x000 0x0000FF33 0x00000E00] ++ rw64 0x008 0xFFFFFFFFFFFFFFFF ++ ro64 0x010 ++
  [rw 0x020 0x0000071F 0x00000010 4 4, rw 0x030 0x0000FFFF 0, { off := 0x040, w1c := 0x1FFF }, rc 0x080 13 4,
   ro 0x0E0 0 4 4]

/-- Feature 0x11: PXE_ (R144). -/
def rowsPxe : List RegRow :=
  [ro 0x00 0 24 0x40, ro 0x04 0 24 0x40, ro 0x08 0 24 0x40, rw 0x0C 0x000001FF 0x000001FF 24 0x40, rc 0x10 24 0x40]

/-- Feature 0x12: BQ_ (R144). -/
def rowsBq : List RegRow := [ro 0x00 0 24 0x20, rc 0x04 24 0x20, rc 0x08 24 0x20, rc 0x0C 24 0x20]

/-- Feature 0x13: ENT_ (R144). -/
def rowsEnt : List RegRow :=
  [ro 0x00 0 24 0x40, ro 0x04 0 24 0x40, ro 0x08 0 24 0x40, rc 0x0C 24 0x40, rc 0x10 24 0x40]

/-- Feature 0x14: ACB_ allowance units (R177). -/
def rowsAcbUnit : List RegRow :=
  [ro 0x00 0 24 0x40, ro 0x04 0 24 0x40, ro 0x08 0 24 0x40, ro 0x0C 0 24 0x40, ro 0x10 0 24 0x40, ro 0x14 0 24 0x40,
   ro 0x18 0 24 0x40, rc 0x1C 24 0x40]

/-- Feature 0x15: ACB_ streams (R177). -/
def rowsAcbStream : List RegRow :=
  [rw 0x00 0xF0FFC007 0 64 0x40, rw 0x04 0xFFFFFFFF 0 64 0x40, rw 0x08 0xFFFFFFFF 0 64 0x40, rw 0x0C 0x007FFFFF 0x1000 64 0x40,
   ro 0x10 0 64 0x40, ro 0x14 0 64 0x40, ro 0x18 0 64 0x40, rc 0x1C 64 0x40, rc 0x20 64 0x40]

/-- Feature 0x16: MIR_ (R205). -/
def rowsMir : List RegRow :=
  [ro 0x00 0 24 0x40, ro 0x04 0 24 0x40, ro 0x08 0 24 0x40, rw 0x0C 1 1 24 0x40, rc 0x10 24 0x40, rc 0x14 24 0x40, rc 0x18 24 0x40,
   rc 0x1C 24 0x40, rc 0x20 24 0x40, rc 0x24 24 0x40]

/-- Feature 0x17: PRX_ (R232). -/
def rowsPrx : List RegRow :=
  [ro 0x000, rw 0x004 0xFF0F203F 0x01010000, rw 0x008 0x0000007F 1, rw 0x00C 0x0000FFFF 0, rw 0x010 0xFFFFFFFF 0x10001000,
   rw 0x014 0x0000FFFF 0x1000, rw 0x020 0xFFFFFFFF 0x1000, rw 0x024 0xFFFFFFFF 0, rw 0x028 0xFFFFFFFF 0x1000, rw 0x02C 0xFFFFFFFF 0,
   rw 0x030 0x0000FFFF 0x1000, ro 0x040, rc 0x0F0, ro 0x0F4,
   rw 0x100 0xFFFFFF7F 0 2 0x40, rw 0x104 0x0000FFFF 0 2 0x40, rw 0x108 0xFFFFFFFF 0 2 0x40, rw 0x10C 0xFFFFFFFF 0 2 0x40,
   rw 0x110 0xFFFFFFFF 0 2 0x40, rw 0x114 0x00000FFF 0 2 0x40, rw 0x118 0xFFFFFFFF 0 2 0x40, ro 0x11C 0 2 0x40, rc 0x120 2 0x40,
   rc 0x124 2 0x40, rc 0x128 2 0x40, rw 0x180 0x80FEC07F 0, rw 0x188 0xFFFFFFFF 0, rw 0x18C 0xFFFFFFFF 0, rw 0x190 0xFFFFFFFF 0]

/-- Feature 0x18: the 3D LUT (R215): 35,937 node words and their CRC, kept by the developer itself. -/
def rowsLut : List RegRow := [ro 0 0 71875]

/-- Feature 0x19: SEQ_ (R251). -/
def rowsSeq : List RegRow :=
  [ro 0x00, ro 0x04, rw 0x20 0xFFFFFFFF 0 8 4, { off := 0x40, act := 0x1F07 }, rc 0x44, rc 0x48, rc 0x4C]

/-- Feature 0x1C: FLH_ (R333). -/
def rowsFlh : List RegRow :=
  [rw 0x00 0x007F03FF 0x003C01F4, ro 0x04, ro 0x08 0 2 4, ro 0x10 0 2 4, ro 0x18 0x78, { off := 0x1C, w1c := 0x1F }, rc 0x20]

/-- Feature 0x1D: MAG_ (R333). -/
def rowsMag : List RegRow :=
  [ro 0x00 0 2 0x100, ro 0x04 0 2 0x100, ro 0x08 0 2 0x100, ro 0x10 0 4 4, ro 0x110 0 4 4, rc 0x20 2 0x100, rc 0x24 2 0x100,
   rc 0x28 2 0x100, rc 0x2C 2 0x100, rc 0x30 2 0x100]

end Sys2Proof.Machine
end

