-- ==== Sys2Proof/Machine/AhrCode.lean ====
section
/-! DEFINITION. The Ahnys raw bitstream, encoder side (R70 to R114, R125, R126, R131 to R133, R604): markers, check values,
planes, prediction, motion search, residuals, classes, tables, rANS, stuffing and eclipse payloads. -/

namespace Sys2Proof.Machine
open Sys2Proof

/-! ### Geometry and planes (R89 to R93) -/

/-- Format of a band, or of a tile's whole frame height: CFA, bit depth, width in positions, rows. -/
structure BandGeo where
  cfa : Nat
  depth : Nat
  width : Nat
  rows : Nat
  deriving DecidableEq, Repr

/-- Photosites of each position. -/
def compsOf (cfa : Nat) : Nat := if cfa = 6 then 3 else 1

/-- Photosites of a row. -/
def BandGeo.line (g : BandGeo) : Nat := g.width * compsOf g.cfa

/-- Photosites of a band, N of R111. -/
def BandGeo.count (g : BandGeo) : Nat := g.rows * g.line

/-- Whether the pattern is one of 2 × 2 quads. -/
def BandGeo.quads (g : BandGeo) : Bool := decide (g.cfa ≤ 4)

/-- Plane width and height (R93). -/
def BandGeo.pw (g : BandGeo) : Nat := if g.quads then g.width / 2 else g.width

def BandGeo.ph (g : BandGeo) : Nat := if g.quads then g.rows / 2 else g.rows

/-- Plane numbers of a pattern (R89). -/
def BandGeo.planes (g : BandGeo) : List Nat := if g.quads then [0, 1, 2, 3] else if g.cfa = 6 then [0, 2, 3] else [0]

/-- Row and column in the quad of the sample of each separated plane (R55, R89, R90). -/
def quadPos (cfa plane : Nat) : Nat × Nat :=
  let t : List (Nat × Nat) :=
    match cfa with
    | 0 => [(0, 1), (1, 0), (0, 0), (1, 1)]
    | 1 => [(0, 0), (1, 1), (0, 1), (1, 0)]
    | 2 => [(1, 1), (0, 0), (1, 0), (0, 1)]
    | 3 => [(1, 0), (0, 1), (1, 1), (0, 0)]
    | _ => [(0, 1), (1, 1), (0, 0), (1, 0)]
  t.getD plane (0, 0)

/-- Index of the photosite behind sample (y, x) of a separated plane. -/
def BandGeo.index (g : BandGeo) (plane y x : Nat) : Nat :=
  if g.quads then
    let q := quadPos g.cfa plane
    (2 * y + q.1) * g.width + 2 * x + q.2
  else if g.cfa = 6 then (y * g.width + x) * 3 + (if plane = 0 then 1 else if plane = 2 then 0 else 2)
  else y * g.width + x

/-- Sample (y, x) of a plane, separated or lifted (R89). -/
def BandGeo.sample (g : BandGeo) (src : Array Nat) (lifted : Bool) (plane y x : Nat) : Int :=
  let at_ : Nat → Int := fun p => (src.getD (g.index p y x) 0 : Int)
  if !lifted ∨ g.cfa = 5 then at_ plane
  else
    let green : Int := if g.cfa ≤ 3 then (at_ 0 + at_ 1) / 2 else at_ 0
    if plane = 0 then green
    else if plane = 1 then (if g.cfa = 4 then at_ 1 - green else at_ 1 - at_ 0)
    else at_ plane - green

/-- A plane in raster order. -/
def BandGeo.plane (g : BandGeo) (src : Array Nat) (lifted : Bool) (plane : Nat) : Array Int :=
  ((List.range (g.pw * g.ph)).map (fun i => g.sample src lifted plane (i / g.pw) (i % g.pw))).toArray

/-- The photosite values, in the order of the separated planes, that lifted samples give back (R91). -/
def unlift (cfa : Nat) (p0 p1 p2 p3 : Int) (plane : Nat) : Int :=
  if cfa ≤ 3 then
    let g1 := p0 - p1 / 2
    match plane with
    | 0 => g1
    | 1 => g1 + p1
    | 2 => p2 + p0
    | _ => p3 + p0
  else
    match plane with
    | 0 => p0
    | 1 => p1 + p0
    | 2 => p2 + p0
    | _ => p3 + p0

/-- Plane `p` of a list that holds the planes by their numbers. -/
def planeOf (ps : List (Nat × Array Int)) (p : Nat) : Array Int :=
  match ps.find? (fun e => decide (e.1 = p)) with
  | some e => e.2
  | none => #[]

/-- The photosites, in the order of R77, that reconstructed planes give. -/
def BandGeo.combine (g : BandGeo) (lifted : Bool) (ps : List (Nat × Array Int)) : List Int :=
  let q0 := planeOf ps 0
  let q1 := planeOf ps 1
  let q2 := planeOf ps 2
  let q3 := planeOf ps 3
  let val : Nat → Nat → Int := fun p i =>
    if lifted ∧ g.cfa ≠ 5 then unlift g.cfa (q0.getD i 0) (q1.getD i 0) (q2.getD i 0) (q3.getD i 0) p
    else (planeOf ps p).getD i 0
  (List.range g.count).map (fun k =>
    if g.quads then
      let y := k / g.width
      let x := k % g.width
      let p := ([0, 1, 2, 3].find? (fun p => decide (quadPos g.cfa p = (y % 2, x % 2)))).getD 0
      val p (y / 2 * g.pw + x / 2)
    else if g.cfa = 6 then val (match k % 3 with
      | 0 => 2
      | 1 => 0
      | _ => 3) (k / 3)
    else val 0 k)

/-- Range of a plane (R92). -/
def planeLow (b plane : Nat) (lifted : Bool) : Int := if lifted ∧ plane ≠ 0 then -(2 ^ b - 1) else 0

def planeHigh (b : Nat) : Int := 2 ^ b - 1

/-- Neutral value of a plane (R92). -/
def neutralOf (b plane : Nat) (lifted : Bool) : Int := if lifted ∧ plane ≠ 0 then 0 else 2 ^ (b - 1)

/-- A value clamped to a range. -/
def clampInt (lo hi x : Int) : Int := if x < lo then lo else if hi < x then hi else x

/-! ### Blocks and prediction (R93 to R99) -/

/-- Blocks of a plane, a row and a column count (R93). -/
def BandGeo.blockCols (g : BandGeo) : Nat := g.pw / 16

def BandGeo.blocks (g : BandGeo) : Nat := g.blockCols * ceilDiv g.ph 16

/-- First row, first column and height of block `k`. -/
def BandGeo.blockAt (g : BandGeo) (k : Nat) : Nat × Nat × Nat :=
  let y := k / g.blockCols * 16
  (y, k % g.blockCols * 16, min 16 (g.ph - y))

/-- Positions of a block in raster order. -/
def rasterOf (h : Nat) : List (Nat × Nat) := (List.range (16 * h)).map (fun i => (i / 16, i % 16))

/-- Positions of a block in the order of its 4 × 4 groups (R101). -/
def groupOrder (h : Nat) : List (Nat × Nat) :=
  ((List.range (ceilDiv h 4)).map (fun gy => ((List.range 4).map (fun gx =>
    (List.range (4 * min 4 (h - 4 * gy))).map (fun i => (4 * gy + i / 4, 4 * gx + i % 4)))).flatten)).flatten

/-- The spatial modes (R97), before the clamp. -/
def spatial (mode : Nat) (a b c d : Int) : Int :=
  match mode with
  | 0 => if max a b ≤ c then min a b else if c ≤ min a b then max a b else a + b - c
  | 1 => a
  | 2 => b
  | 3 => a + b - c
  | 4 => (a + b) / 2
  | 5 => d
  | 6 => a + (d - c) / 2
  | _ => (a + b + c + d + 2) / 4

/-- Spatial prediction of the sample at (y, x) of a plane `pw` wide from the samples in `p` (R96, R97). -/
def predictAt (pw b plane : Nat) (lifted : Bool) (p : Array Int) (mode y x : Nat) : Int :=
  let at_ : Nat → Nat → Int := fun y x => p.getD (y * pw + x) 0
  if y = 0 ∧ x = 0 then neutralOf b plane lifted
  else
    let hasA := decide (0 < x)
    let hasB := decide (0 < y)
    let hasD := hasB && decide (x + 1 < pw) && (decide (y % 16 = 0) || decide (x % 16 ≠ 15))
    let a0 := at_ y (x - 1)
    let b0 := at_ (y - 1) x
    let a := if hasA then a0 else b0
    let b' := if hasB then b0 else a
    let c := if hasA && hasB then at_ (y - 1) (x - 1) else b'
    let d := if hasD then at_ (y - 1) (x + 1) else b'
    clampInt (planeLow b plane lifted) (planeHigh b) (spatial mode a b' c d)

/-- Mode of a block with its vector, which only MODE 8 uses. -/
structure BlockMode where
  mode : Nat := 0
  vx : Int := 0
  vy : Int := 0
  deriving DecidableEq, Repr

/-- The reference of a temporal band: the planes of its tile over the whole frame height, their size, and the plane row at
which the band begins (R98, R99). -/
structure RefPlanes where
  planes : List (Nat × Array Int)
  w : Nat
  h : Nat
  y0 : Nat

/-- The reference planes that a tile's photosites give in a band's domain (R98). -/
def refPlanes (g : BandGeo) (height bandNo : Nat) (lifted : Bool) (src : Array Nat) : RefPlanes :=
  let t : BandGeo := { g with rows := height }
  { planes := t.planes.map (fun p => (p, t.plane src lifted p)), w := t.pw, h := t.ph,
    y0 := if g.quads then 16 * bandNo else 32 * bandNo }

/-- Temporal prediction (R99). -/
def RefPlanes.at_ (r : RefPlanes) (plane y x : Nat) (vy vx : Int) : Int :=
  let yy := (clampInt 0 ((r.h : Int) - 1) ((r.y0 + y : Nat) + vy)).toNat
  let xx := (clampInt 0 ((r.w : Int) - 1) ((x : Int) + vx)).toNat
  (planeOf r.planes plane).getD (yy * r.w + xx) 0

/-- The prediction of a sample under its block's mode. -/
def predictMode (g : BandGeo) (lifted : Bool) (ref : Option RefPlanes) (plane : Nat) (p : Array Int) (m : BlockMode) (y x : Nat) : Int :=
  if m.mode = 8 then
    match ref with
    | some r => r.at_ plane y x m.vy m.vx
    | none => 0
  else predictAt g.pw g.depth plane lifted p m.mode y x

/-! ### Mode decision and motion search (R125, R131 to R133) -/

/-- Sum of absolute residuals of block `k` of a plane under a mode, from source samples. -/
def sadOf (g : BandGeo) (lifted : Bool) (ref : Option RefPlanes) (plane : Nat) (p : Array Int) (k : Nat) (m : BlockMode) : Nat :=
  let o := g.blockAt k
  sumBy (fun q => (p.getD ((o.1 + q.1) * g.pw + o.2.1 + q.2) 0 - predictMode g lifted ref plane p m (o.1 + q.1) (o.2.1 + q.2)).natAbs)
    (rasterOf o.2.2)

/-- Whether a vector lies in the range of R95. -/
def vecOk (v : Int × Int) : Bool := decide (-64 ≤ v.1 ∧ v.1 ≤ 64 ∧ -32 ≤ v.2 ∧ v.2 ≤ 32)

/-- Keep the better of the vectors tried in order; a later one wins only at strictly lower cost (R131). -/
def bestVec (cost : Int × Int → Nat) : Option ((Int × Int) × Nat) → List (Int × Int) → Option ((Int × Int) × Nat)
  | best, [] => best
  | none, v :: r => bestVec cost (some (v, cost v)) r
  | some (w, c), v :: r => bestVec cost (if cost v < c then some (v, cost v) else some (w, c)) r

/-- The vector search of a plane-0 block over its candidates, then around the best of them (R131). -/
def searchVec (cost : Int × Int → Nat) (cands : List (Int × Int)) : (Int × Int) × Nat :=
  match bestVec cost none cands with
  | none => ((0, 0), cost (0, 0))
  | some (v, c) =>
    let ring := (List.range 81).filterMap (fun i =>
      let w : Int × Int := (v.1 + (i % 9 : Nat) - 4, v.2 + (i / 9 : Nat) - 4)
      if i ≠ 40 ∧ vecOk w then some w else none)
    (bestVec cost (some (v, c)) ring).getD (v, c)

/-- Vector of a block where its mode is 8. -/
def BlockMode.vec (m : BlockMode) : Option (Int × Int) := if m.mode = 8 then some (m.vx, m.vy) else none

/-- What the motion search of a band takes from elsewhere: the plane-0 modes of the same band in frame n − 1, those of the
previous band of the tile, and the global vector (R131). -/
structure Motion where
  last : List BlockMode := []
  above : List BlockMode := []
  global : Int × Int := (0, 0)
  deriving DecidableEq, Repr

/-- Candidates of block `k` of plane 0, `done` being the modes of the blocks before it in the band (R131). -/
def Motion.cands (mo : Motion) (cols k : Nat) (done : List BlockMode) : List (Int × Int) :=
  let get : List BlockMode → Nat → Option (Int × Int) := fun l i => (l[i]?).bind BlockMode.vec
  let last := (mo.above.length / cols - 1) * cols
  let up : Nat → Option (Int × Int) := fun j => if k < cols then get mo.above (last + j) else get done (k - k % cols - cols + j)
  let left := if k % cols = 0 then none else get done (k - 1)
  let upRight := if k % cols + 1 < cols then up (k % cols + 1) else none
  ([some (0, 0), get mo.last k, left, up (k % cols), upRight, some mo.global].filterMap id)

/-- The lowest spatial mode that a mask allows with the lowest sum (R125). -/
def bestSpatial (mask : Nat) (cost : Nat → Nat) : Nat × Nat :=
  match argMin (fun m => cost m) ((List.range 8).filter (fun m => bit mask m)) with
  | some m => (m, cost m)
  | none => (0, cost 0)

/-- Mode of a block from the vector found for its position (R125, R132). -/
def decideMode (g : BandGeo) (lifted : Bool) (ref : Option RefPlanes) (mask plane : Nat) (p : Array Int) (k : Nat)
    (v : Option (Int × Int)) : BlockMode :=
  let s := bestSpatial mask (fun m => sadOf g lifted ref plane p k { mode := m })
  match v with
  | some w =>
    let t : BlockMode := { mode := 8, vx := w.1, vy := w.2 }
    if bit mask 8 ∧ sadOf g lifted ref plane p k t < s.2 then t else { mode := s.1 }
  | none => { mode := s.1 }

/-- Modes of plane 0 and the vectors found, block by block. -/
def planeZero (g : BandGeo) (lifted : Bool) (ref : Option RefPlanes) (mask : Nat) (mo : Motion) (p : Array Int) :
    Nat → List BlockMode × List (Option (Int × Int))
  | 0 => ([], [])
  | k + 1 =>
    let r := planeZero g lifted ref mask mo p k
    let v : Option (Int × Int) :=
      match ref with
      | some _ => some (searchVec (fun w => sadOf g lifted ref 0 p k { mode := 8, vx := w.1, vy := w.2 }) (mo.cands g.blockCols k r.1)).1
      | none => none
    (r.1 ++ [decideMode g lifted ref mask 0 p k v], r.2 ++ [v])

/-- Modes of every block of a band, plane by plane (R125). -/
def bandModes (g : BandGeo) (lifted : Bool) (ref : Option RefPlanes) (mask : Nat) (mo : Motion) (src : Array Nat) :
    List (Nat × List BlockMode) :=
  let z := planeZero g lifted ref mask mo (g.plane src lifted 0) g.blocks
  g.planes.map (fun pl =>
    if pl = 0 then (0, z.1)
    else
      let p := g.plane src lifted pl
      (pl, (List.range g.blocks).map (fun k => decideMode g lifted ref mask pl p k (z.2.getD k none))))

/-- Mean of a sum of vectors, rounded to the nearest integer with halves away from zero (R133). -/
def roundMean (sum : Int) (n : Nat) : Int :=
  let m : Nat := (2 * sum.natAbs + n) / (2 * n)
  if sum < 0 then -(m : Int) else m

/-- Global vector from the count and sums of the MODE 8 blocks of plane 0 (R133). -/
def globalVec (n : Nat) (sx sy : Int) : Int × Int :=
  if n < 16 then (0, 0) else (clampInt (-64) 64 (roundMean sx n), clampInt (-32) 32 (roundMean sy n))

/-! ### Residuals, classes and contexts (R101 to R106) -/

/-- The lift of four values and its inverse (R102). -/
def lift4 (e0 e1 e2 e3 : Int) : Int × Int × Int × Int :=
  let h0 := e0 - e1
  let l0 := e1 + h0 / 2
  let h1 := e2 - e3
  let l1 := e3 + h1 / 2
  let lh := l0 - l1
  (l1 + lh / 2, lh, h0, h1)

def unlift4 (ll lh h0 h1 : Int) : Int × Int × Int × Int :=
  let l1 := ll - lh / 2
  let l0 := lh + l1
  let e1 := l0 - h0 / 2
  let e3 := l1 - h1 / 2
  (h0 + e1, e1, h1 + e3, e3)

/-- Apply a transform of four values at four places of a block. -/
def at4 (f : Int → Int → Int → Int → Int × Int × Int × Int) (b : Array Int) (i0 i1 i2 i3 : Nat) : Array Int :=
  let r := f (b.getD i0 0) (b.getD i1 0) (b.getD i2 0) (b.getD i3 0)
  (((b.setIfInBounds i0 r.1).setIfInBounds i1 r.2.1).setIfInBounds i2 r.2.2.1).setIfInBounds i3 r.2.2.2

/-- Transform every row of every group of a block `h` rows high. -/
def rowPass (f : Int → Int → Int → Int → Int × Int × Int × Int) (h : Nat) (b : Array Int) : Array Int :=
  (List.range (4 * h)).foldl (fun b i => at4 f b (4 * i) (4 * i + 1) (4 * i + 2) (4 * i + 3)) b

/-- Transform every column of every group of four rows; a shorter group is skipped (R102). -/
def colPass (f : Int → Int → Int → Int → Int × Int × Int × Int) (h : Nat) (b : Array Int) : Array Int :=
  (List.range (16 * (h / 4))).foldl (fun b i =>
    let o := i / 16 * 64 + i % 16
    at4 f b o (o + 16) (o + 32) (o + 48)) b

/-- Lift the residuals of a block, 16 to a row (R101, R102). -/
def liftBlock (h : Nat) (b : Array Int) : Array Int := colPass lift4 h (rowPass lift4 h b)

/-- Inverse lift of a block. -/
def unliftBlock (h : Nat) (b : Array Int) : Array Int := rowPass unlift4 h (colPass unlift4 h b)

/-- Quantisation of a residual (R103). -/
def quantise (delta : Nat) (r : Int) : Int :=
  let q : Nat := (r.natAbs + delta) / (2 * delta + 1)
  if r < 0 then -(q : Int) else q

/-- Mapping of a coded value to u (R104), and back. -/
def mapU (v : Int) : Nat := if 0 ≤ v then 2 * v.toNat else 2 * v.natAbs - 1

def unmapU (u : Nat) : Int := if u % 2 = 0 then (u / 2 : Nat) else -((u / 2 + 1 : Nat) : Int)

/-- Class of u (R104). -/
def classU (u : Nat) : Nat := if u = 0 then 0 else Nat.log2 u + 1

/-- Suffix bits of a class (R105). -/
def sufBits (c : Nat) : Nat := c - 1

/-- A class symbol with its context and its suffix. -/
structure Sym where
  ctx : Nat
  cls : Nat
  suf : Nat
  deriving DecidableEq, Repr

/-- Context of a symbol from the classes at the left and above in its block (R106). -/
def ctxOf (plane : Nat) (cls : Array Nat) (y x : Nat) : Nat :=
  let l := if x = 0 then 0 else cls.getD (16 * y + x - 1) 0
  let t := if y = 0 then 0 else cls.getD (16 * (y - 1) + x) 0
  16 * plane + min 15 ((l + t + 1) / 2)

/-- Symbols of a block from the values at its positions, in an order of positions (R104 to R106). -/
def blockSyms (plane : Nat) (vals : Array Int) : List (Nat × Nat) → Array Nat → List Sym
  | [], _ => []
  | (y, x) :: r, cls =>
    let u := mapU (vals.getD (16 * y + x) 0)
    let c := classU u
    { ctx := ctxOf plane cls y x, cls := c, suf := u % 2 ^ sufBits c } ::
      blockSyms plane vals r (cls.setIfInBounds (16 * y + x) c)

/-- Sixteen values to a row, all zero. -/
def zeroVals (h : Nat) : Array Int := (List.replicate (16 * h) (0 : Int)).toArray

/-- Form the values of block `k` of a plane: lifted residuals at δ = 0, quantised ones above, with the reconstruction written
into `rec` (R101 to R103). -/
def formBlock (g : BandGeo) (delta : Nat) (ref : Option RefPlanes) (plane : Nat) (src rec_ : Array Int) (k : Nat) (m : BlockMode) :
    Array Int × Array Int :=
  let o := g.blockAt k
  let lifted := decide (delta = 0)
  let r := (rasterOf o.2.2).foldl (fun (st : Array Int × Array Int) q =>
    let y := o.1 + q.1
    let x := o.2.1 + q.2
    let i := y * g.pw + x
    let pr := predictMode g lifted ref plane st.2 m y x
    let res := src.getD i 0 - pr
    if delta = 0 then (st.1.setIfInBounds (16 * q.1 + q.2) res, st.2.setIfInBounds i (src.getD i 0))
    else
      let v := quantise delta res
      (st.1.setIfInBounds (16 * q.1 + q.2) v, st.2.setIfInBounds i (clampInt 0 (planeHigh g.depth) (pr + v * (2 * delta + 1)))))
    (zeroVals o.2.2, rec_)
  (if delta = 0 then liftBlock o.2.2 r.1 else r.1, r.2)

/-- Symbols of the blocks of a plane in coding order. -/
def planeSyms (g : BandGeo) (delta : Nat) (ref : Option RefPlanes) (plane : Nat) (src : Array Int) :
    Nat → List BlockMode → Array Int → List Sym
  | _, [], _ => []
  | k, m :: r, rec_ =>
    let f := formBlock g delta ref plane src rec_ k m
    let h := (g.blockAt k).2.2
    blockSyms plane f.1 (if delta = 0 then groupOrder h else rasterOf h) (List.replicate (16 * h) 0).toArray ++
      planeSyms g delta ref plane src (k + 1) r f.2

/-- What an attempt forms: the modes of its blocks by plane, and its symbols in coding order (R94, R118). -/
structure Formed where
  modes : List (Nat × List BlockMode) := []
  syms : List Sym := []
  deriving DecidableEq, Repr

/-- Form an attempt of a band at δ (R118, R125). -/
def formBand (g : BandGeo) (delta : Nat) (ref : Option RefPlanes) (mask : Nat) (mo : Motion) (src : Array Nat) : Formed :=
  let lifted := decide (delta = 0)
  let modes := bandModes g lifted ref mask mo src
  let syms := (modes.map (fun e =>
    let p := g.plane src lifted e.1
    planeSyms g delta ref e.1 p 0 e.2 p)).flatten
  { modes := modes, syms := syms }

/-! ### Records, side and suffix sections (R95, R105, R126) -/

/-- Fields packed least significant bit first: the number they spell and its bits. -/
def packFields : List (Nat × Nat) → Nat × Nat
  | [] => (0, 0)
  | (v, w) :: r =>
    let p := packFields r
    (v % 2 ^ w + 2 ^ w * p.1, w + p.2)

/-- Packed fields as bytes, the last padded with zeros. -/
def packBytes (l : List (Nat × Nat)) : List Byte :=
  let p := packFields l
  leBytes (ceilDiv p.2 8) p.1

/-- A signed number in `w` bits, two's complement. -/
def twos (w : Nat) (v : Int) : Nat := (v % (2 ^ w : Nat)).toNat

/-- The signed number that `w` bits spell. -/
def untwos (w n : Nat) : Int := if n < 2 ^ (w - 1) then n else (n : Int) - (2 ^ w : Nat)

/-- Fields of a block's mode (R95). -/
def modeFields (m : BlockMode) : List (Nat × Nat) :=
  if m.mode = 8 then [(8, 4), (twos 8 m.vx, 8), (twos 7 m.vy, 7)] else [(m.mode, 4)]

/-- Side section before stuffing (R95). -/
def sideBytes (f : Formed) : List Byte := packBytes ((f.modes.map (fun e => (e.2.map modeFields).flatten)).flatten)

/-- Suffix section before stuffing (R105). -/
def suffixBytes (f : Formed) : List Byte := packBytes (f.syms.map (fun s => (s.suf, sufBits s.cls)))

/-- Symbols of each block of a band in order: 16 to a row. -/
def BandGeo.symsPerBlock (g : BandGeo) (k : Nat) : Nat := 16 * (g.blockAt k).2.2

/-- Record fields of the blocks of a plane (R126). -/
def recordFields (g : BandGeo) : Nat → List BlockMode → List Sym → List (Nat × Nat) × List Sym
  | _, [], ss => ([], ss)
  | k, m :: r, ss =>
    let n := g.symsPerBlock k
    let here := ((ss.take n).map (fun s => [(s.cls, 5), (s.suf, sufBits s.cls)])).flatten
    let rest := recordFields g (k + 1) r (ss.drop n)
    (modeFields m ++ here ++ rest.1, rest.2)

/-- Record fields of every plane. -/
def planesFields (g : BandGeo) : List (Nat × List BlockMode) → List Sym → List (Nat × Nat)
  | [], _ => []
  | e :: r, ss =>
    let p := recordFields g 0 e.2 ss
    p.1 ++ planesFields g r p.2

/-- Bits of an attempt's record stream. -/
def Formed.bits (f : Formed) : Nat :=
  sumBy (fun e => sumBy (fun m => if m.mode = 8 then 19 else 4) e.2) f.modes + sumBy (fun s => 5 + sufBits s.cls) f.syms

/-- Queue words of an attempt: its descriptor word and its records (R126). -/
def Formed.wordCount (f : Formed) : Nat := 1 + ceilDiv f.bits 64

/-- The 64-bit words of a number, the lowest first. -/
def words64 (n : Nat) : Nat → List Nat
  | 0 => []
  | k + 1 => n % 2 ^ 64 :: words64 (n / 2 ^ 64) k

/-- The words an attempt writes to the band queue (R126). -/
def Formed.words (g : BandGeo) (f : Formed) (frame stream delta tile band : Nat) : List Nat :=
  (2 ^ 32 * (frame % 65536) + 2 ^ 26 * stream + 2 ^ 21 * delta + 2 ^ 16 * tile + band) ::
    words64 (packFields (planesFields g f.modes f.syms)).1 (ceilDiv f.bits 64)

/-! ### Tables (R81 to R84, R604) -/

/-- Frequencies of the 32 classes. -/
abbrev Freqs := List Nat

/-- Default table of an activity bucket (R83). -/
def defaultFreqs (k : Nat) : Freqs :=
  let f : Nat → Nat := fun s => if s = k then 0 else max 1 (512 >>> ((if s < k then k - s else s - k) - 1))
  let rest := sumBy f (List.range 32)
  (List.range 32).map (fun s => if s = k then 4096 - rest else f s)

/-- Default tables of the 64 contexts. -/
def defaultTables : List Freqs := (List.range 64).map (fun c => defaultFreqs (c % 16))

/-- Flat table (R84). -/
def flatFreqs : Freqs := List.replicate 32 128

def flatTables : List Freqs := List.replicate 64 flatFreqs

/-- An explicit table from its leading frequencies: the last class takes the remainder (R82). -/
def explicitFreqs (lead : List Nat) : Freqs :=
  let l := lead ++ [4096 - sumBy id lead]
  l ++ List.replicate (32 - l.length) 0

/-- Highest class counted, plus 1; 0 where none is. -/
def topClass (h : List Nat) : Nat := ((List.range 32).filter (fun s => decide (0 < h.getD s 0))).foldl (fun _ s => s + 1) 0

/-- Table of one context from its histogram row (R604 steps 1 and 2). -/
def contextTable (k : Nat) (h : List Nat) : Freqs :=
  let tot := sumBy id h
  if tot = 0 then defaultFreqs k
  else explicitFreqs ((List.range (topClass h - 1)).map (fun s => max 1 (4064 * h.getD s 0 / tot)))

/-- Tables of a frame from its histogram: row c is context c (R604). -/
def buildTables (hist : List (List Nat)) : List Freqs := (List.range 64).map (fun c => contextTable (c % 16) (hist.getD c []))

/-- Kinds of R81. -/
inductive TableKind where
  | default | explicit | same | flat
  deriving DecidableEq, Repr

/-- Kind under which the device writes the table of context `c` (R604 steps 3 to 5). -/
def tableKind (ts : List Freqs) (c : Nat) : TableKind :=
  let t := ts.getD c []
  if 0 < c ∧ t = ts.getD (c - 1) [] then .same
  else if t = defaultFreqs (c % 16) then .default
  else .explicit

/-- Classes that an explicit table spells: up to its highest nonzero one. -/
def explicitCount (t : Freqs) : Nat := topClass t

/-- Descriptor and frequencies of one context (R81, R82). -/
def tableEntry (ts : List Freqs) (c : Nat) : List Byte :=
  match tableKind ts c with
  | .default => [0x00]
  | .same => [0x80]
  | .flat => [0xC0]
  | .explicit =>
    let t := ts.getD c []
    let n := explicitCount t
    BitVec.ofNat 8 (0x40 + n) :: packBytes ((t.take (n - 1)).map (fun f => (f, 12)))

/-- The table section; empty where every context takes its default table (R81, R604). -/
def tableSection (ts : List Freqs) : List Byte :=
  if (List.range 64).all (fun c => decide (ts.getD c [] = defaultFreqs (c % 16))) then []
  else
    let body := ((List.range 64).map (tableEntry ts)).flatten
    body ++ leBytes 4 (crc32c 0 body)

/-- Cumulative frequency of a class (R107). -/
def cumOf (f : Freqs) (s : Nat) : Nat := sumBy id (f.take s)

/-! ### rANS (R107 to R109) -/

/-- The states and the words pushed, last pushed first. -/
structure RansEnc where
  x : List Nat := List.replicate 8 0x10000
  out : List Nat := []
  deriving DecidableEq, Repr

/-- Replace element `i` of a list. -/
def setAt {α : Type} : List α → Nat → α → List α
  | [], _, _ => []
  | _ :: r, 0, v => v :: r
  | a :: r, i + 1, v => a :: setAt r i v

/-- Encode one symbol; none where the table gives it no frequency. -/
def RansEnc.put (e : RansEnc) (t : Freqs) (i s : Nat) : Option RansEnc :=
  let f := t.getD s 0
  if f = 0 then none
  else
    let x := e.x.getD (i % 8) 0
    let x1 := if f * 2 ^ 20 ≤ x then x / 65536 else x
    let out := if f * 2 ^ 20 ≤ x then x % 65536 :: e.out else e.out
    some { x := setAt e.x (i % 8) (4096 * (x1 / f) + x1 % f + cumOf t s), out := out }

/-- Encode symbols from the last to the first, `i` being the index of the head (R109). -/
def ransEncode (ts : List Freqs) : Nat → List Sym → Option RansEnc
  | _, [] => some {}
  | i, s :: r =>
    match ransEncode ts (i + 1) r with
    | none => none
    | some e => e.put (ts.getD s.ctx []) i s.cls

/-- The rANS section before stuffing. -/
def ransBytes (ts : List Freqs) (syms : List Sym) : Option (List Byte) :=
  (ransEncode ts 0 syms).map (fun e => (e.x.map (leBytes 4)).flatten ++ (e.out.map (leBytes 2)).flatten)

/-! ### Stuffing (R72) -/

/-- Stuff one section, `z` zeros having gone before: its stored bytes and the zeros at its end. -/
def stuffSec : Nat → List Byte → List Byte × Nat
  | z, [] => ([], z)
  | z, b :: r =>
    if b = 0 then
      if z = 1 then
        let t := stuffSec 0 r
        (0 :: 0x5A :: t.1, t.2)
      else
        let t := stuffSec 1 r
        (0 :: t.1, t.2)
    else
      let t := stuffSec 0 r
      (b :: t.1, t.2)

/-- The stored side, rANS and suffix sections of a band (R72). -/
structure Sections where
  side : List Byte
  data : List Byte
  suffix : List Byte
  deriving DecidableEq, Repr

def stuffSections (side data suffix : List Byte) : Sections :=
  let a := stuffSec 0 side
  let b := stuffSec a.2 data
  let c := stuffSec b.2 suffix
  { side := a.1, data := b.1, suffix := c.1 }

/-- Stored size of a band with its marker and header (R87). -/
def Sections.size (s : Sections) : Nat := 28 + s.side.length + s.data.length + s.suffix.length

/-- The sections of an attempt under a table set; none where a symbol has no frequency (R120). -/
def Formed.sections (f : Formed) (ts : List Freqs) : Option Sections :=
  (ransBytes ts f.syms).map (fun d => stuffSections (sideBytes f) d (suffixBytes f))

/-! ### Check values (R75 to R79) -/

/-- Photosites as bytes, two each (R77). -/
def photoBytes (l : List Nat) : List Byte := (l.map (leBytes 2)).flatten

/-- Source check value of a band (R77). -/
def sourceCheck (frame tile band : Nat) (l : List Nat) : Nat :=
  crc32c ((frame ^^^ (512 * tile + band)) % 2 ^ 32) (photoBytes l)

/-- Tile source check value (R78). -/
def tileCheck (frame tile : Nat) (checks : List Nat) : Nat :=
  crc32c ((frame ^^^ (0x4000 + tile)) % 2 ^ 32) ((checks.map (leBytes 4)).flatten)

/-! ### Eclipse bands (R111 to R113) -/

/-- Eclipse payload at depth `e`. -/
def eclipseBytes (b e : Nat) (l : List Nat) : List Byte := packBytes (l.map (fun v => (v >>> e, b - e)))

/-- Eclipse cost of `n` photosites (R113). -/
def eclipseCost (n b e : Nat) : Nat := 28 + ceilDiv (n * (b - e)) 8

/-- Reconstruction of an eclipse value (R112). -/
def unEclipse (e v : Nat) : Nat := if e = 0 then v else v * 2 ^ e + 2 ^ (e - 1)

/-! ### Segments (R70, R80, R85 to R88) -/

/-- A segment marker (R70). -/
def marker (type : Nat) : List Byte := [0x00, 0x00, 0xA5, BitVec.ofNat 8 type]

/-- Fields of a band header (R87). -/
structure BandHead where
  band : Nat
  tile : Nat
  eclipse : Bool
  flat : Bool := false
  delta : Nat := 0
  depth : Nat := 0
  flags : Nat := 0
  rows : Nat
  check : Nat
  dataLen : Nat := 0
  suffixLen : Nat := 0
  sideLen : Nat := 0
  deriving DecidableEq, Repr

/-- The 24 bytes of a band header (R87). -/
def BandHead.bytes (h : BandHead) : List Byte :=
  let l := leBytes 2 h.band ++ leBytes 1 h.tile ++ leBytes 1 (b2n h.eclipse + 4 * b2n h.flat) ++ leBytes 1 h.delta ++
    leBytes 1 h.depth ++ leBytes 1 h.flags ++ leBytes 1 h.rows ++ leBytes 4 h.check ++ leBytes 4 h.dataLen ++
    leBytes 4 h.suffixLen ++ leBytes 2 h.sideLen
  l ++ leBytes 2 (crc16 l)

/-- A band segment of sections, its lengths filled in. -/
def bandSegment (h : BandHead) (s : Sections) : List Byte :=
  marker 3 ++ { h with dataLen := s.data.length, suffixLen := s.suffix.length, sideLen := s.side.length }.bytes ++ s.side ++ s.data ++ s.suffix

/-- Tile segment (R86). -/
def tileSegment (tile bands x width : Nat) : List Byte :=
  let l := leBytes 1 tile ++ [0] ++ leBytes 2 bands ++ leBytes 2 x ++ leBytes 2 width ++ zeros 2
  marker 2 ++ l ++ leBytes 2 (crc16 l)

/-- What a frame header says (R80). -/
structure FrameHead where
  minor : Nat := 0
  frame : Nat
  stamp : List Byte
  width : Nat
  height : Nat
  cfa : Nat
  depth : Nat
  mode : Nat
  temporal : Bool := false
  anchor : Nat := 1
  distance : Nat := 0
  ceiling : Nat := 0
  budget : Nat := 0
  stream : Nat := 0
  tableLen : Nat := 0
  /-- Tile widths, then source checks and bytes of the tiles. -/
  tileW : List Nat
  checks : List Nat := []
  tileBytes : List Nat := []
  deriving DecidableEq, Repr

/-- Frame number that a temporal frame refers to (R80). -/
def FrameHead.refFrame (h : FrameHead) : Nat := if h.temporal then (2 ^ 32 + h.frame - 1) % 2 ^ 32 else h.frame

/-- The frame header's bytes, without marker (R80). -/
def FrameHead.bytes (h : FrameHead) : List Byte :=
  let n := h.tileW.length
  let tab := (List.range n).map (fun t => leBytes 2 (sumBy id (h.tileW.take t)) ++ leBytes 2 (h.tileW.getD t 0) ++
    leBytes 4 (h.checks.getD t 0) ++ leBytes 4 (h.tileBytes.getD t 0) ++ zeros 4)
  let l := leBytes 1 1 ++ leBytes 1 h.minor ++ leBytes 2 (68 + 16 * n) ++ leBytes 4 h.frame ++ padTo 16 h.stamp ++
    leBytes 2 h.width ++ leBytes 2 h.height ++ leBytes 1 h.cfa ++ leBytes 1 h.depth ++ leBytes 1 h.mode ++ leBytes 1 n ++
    leBytes 1 (b2n h.temporal + 2 * b2n (decide (h.tableLen ≠ 0))) ++ leBytes 1 h.anchor ++ leBytes 1 h.distance ++
    leBytes 1 h.ceiling ++ leBytes 4 h.refFrame ++ leBytes 4 h.budget ++ leBytes 2 h.stream ++ zeros 2 ++
    leBytes 4 h.tableLen ++ zeros 12 ++ tab.flatten
  l ++ leBytes 4 (crc32c 0 l)

/-- A metadata item (R85). -/
def metaItem (tag : Nat) (data : List Byte) : List Byte := leBytes 2 tag ++ leBytes 2 data.length ++ data

/-- A metadata segment of items (R85). -/
def metaSegment (items : List Byte) : List Byte := marker 0x10 ++ leBytes 4 items.length ++ items ++ leBytes 4 (crc32c 0 items)

/-- Frame trailer's fields (R88). -/
structure Trailer where
  frame : Nat
  flags : Nat := 0
  bands : Nat := 0
  eclipse : Nat := 0
  recoded : Nat := 0
  fallback : Nat := 0
  bytes_ : Nat := 0
  deltaBands : Nat := 0
  deriving DecidableEq, Repr

/-- The 24 bytes of a trailer (R88). -/
def Trailer.bytes (t : Trailer) : List Byte :=
  let l := leBytes 4 t.frame ++ leBytes 4 t.flags ++ leBytes 2 t.bands ++ leBytes 2 t.eclipse ++ leBytes 2 t.recoded ++
    leBytes 2 t.fallback ++ leBytes 4 t.bytes_ ++ leBytes 2 t.deltaBands
  l ++ leBytes 2 (crc16 l)

end Sys2Proof.Machine
end

