-- ==== Sys2Proof/Machine/AhrRead.lean ====
section
/-! DEFINITION. The Ahnys raw bitstream, decoder side (R73 to R115, R192 to R198, R608): what a decoder reads, in which order
it checks, and how it conceals. -/

namespace Sys2Proof.Machine
open Sys2Proof

/-! Condition codes (R204). -/
namespace Cond
def version : Nat := 0x01
def frameHeader : Nat := 0x02
def table : Nat := 0x03
def metadata : Nat := 0x04
def tileHeader : Nat := 0x05
def tileCheck : Nat := 0x06
def bandHeader : Nat := 0x07
def marker : Nat := 0x08
def stuffing : Nat := 0x09
def length : Nat := 0x0A
def sideRange : Nat := 0x0B
def illegalClass : Nat := 0x0C
def ransState : Nat := 0x0D
def ransUnderrun : Nat := 0x0E
def sampleRange : Nat := 0x0F
def sourceCheck : Nat := 0x10
def trailer : Nat := 0x11
def bandMissing : Nat := 0x12
def media : Nat := 0x13
end Cond

/-! ### Headers -/

/-- The band header that 24 bytes spell, if it passes its CRC and every field lies within its values (R87). -/
def parseBandHead (b : Nat) (height tiles bands : Nat) (l : List Byte) : Option BandHead :=
  let coding := rd l 3 1
  let h : BandHead :=
    { band := rd l 0 2, tile := rd l 2 1, eclipse := bit coding 0, flat := bit coding 2, delta := rd l 4 1, depth := rd l 5 1,
      flags := rd l 6 1, rows := rd l 7 1, check := rd l 8 4, dataLen := rd l 12 4, suffixLen := rd l 16 4, sideLen := rd l 20 2 }
  let okk := decide (24 ≤ l.length) && decide (rd l 22 2 = crc16 (l.take 22)) && decide (coding % 4 < 2) && decide (h.band < bands) &&
    decide (h.tile < tiles) && decide (h.rows = min 32 (height - 32 * h.band)) &&
    (if h.eclipse then !h.flat && decide (h.delta = 0) && decide (h.depth + 4 ≤ b) && decide (h.suffixLen = 0) && decide (h.sideLen = 0)
     else decide (h.delta ≤ 31) && decide (h.depth = 0))
  if okk then some h else none

/-- Whole stored length of a band (R87, R113). -/
def BandHead.total (h : BandHead) : Nat := 28 + h.sideLen + h.dataLen + h.suffixLen

/-- The frame header that bytes after the marker spell (R80): the header, or the condition it meets. -/
def parseFrameHead (l : List Byte) : Except Nat FrameHead :=
  let n := rd l 31 1
  let len := 68 + 16 * n
  let ctrl := rd l 32 1
  let ws := (List.range n).map (fun t => rd l (64 + 16 * t + 2) 2)
  let h : FrameHead :=
    { minor := rd l 1 1, frame := rd l 4 4, stamp := slice l 8 16, width := rd l 24 2, height := rd l 26 2, cfa := rd l 28 1,
      depth := rd l 29 1, mode := rd l 30 1, temporal := bit ctrl 0, anchor := rd l 33 1, distance := rd l 34 1, ceiling := rd l 35 1,
      budget := rd l 40 4, stream := rd l 44 2, tableLen := rd l 48 4, tileW := ws,
      checks := (List.range n).map (fun t => rd l (64 + 16 * t + 4) 4), tileBytes := (List.range n).map (fun t => rd l (64 + 16 * t + 8) 4) }
  if l.length < 68 ∨ rd l 0 1 ≠ 1 then .error (if l.length < 68 then Cond.frameHeader else Cond.version)
  else
    let okk := decide (rd l 2 2 = len) && decide (len ≤ l.length) && decide (rd l (len - 4) 4 = crc32c 0 (l.take (len - 4))) &&
      decide (64 ≤ h.width ∧ h.width ≤ 32768 ∧ h.width % 64 = 0) && decide (16 ≤ h.height ∧ h.height ≤ 16384) &&
      (decide (4 < h.cfa) || decide (h.height % 2 = 0)) && decide (h.cfa ≤ 6) && decide (8 ≤ h.depth ∧ h.depth ≤ 16) && decide (h.mode ≤ 3) &&
      decide (1 ≤ n ∧ n ≤ 24) && decide (1 ≤ h.anchor ∧ h.anchor ≤ 8) &&
      (if h.temporal then decide (1 ≤ h.distance ∧ h.distance ≤ h.anchor - 1) else decide (h.distance = 0)) &&
      decide (rd l 36 4 = h.refFrame) && (bit ctrl 1 == decide (h.tableLen ≠ 0)) &&
      ws.all (fun w => decide (64 ≤ w ∧ w ≤ 4096 ∧ w % 64 = 0)) && decide (sumBy id ws = h.width) &&
      (List.range n).all (fun t => decide (rd l (64 + 16 * t) 2 = sumBy id (ws.take t)))
    if okk then .ok h else .error Cond.frameHeader

/-- Format of tile `t`'s band `k`. -/
def FrameHead.geo (h : FrameHead) (t k : Nat) : BandGeo :=
  { cfa := h.cfa, depth := h.depth, width := h.tileW.getD t 0, rows := min 32 (h.height - 32 * k) }

/-- Bands of each tile (R86). -/
def FrameHead.bands (h : FrameHead) : Nat := ceilDiv h.height 32

/-- Whether two frames have the same geometry (R98). -/
def FrameHead.sameGeo (a b : FrameHead) : Bool :=
  decide (a.width = b.width) && decide (a.height = b.height) && decide (a.cfa = b.cfa) && decide (a.depth = b.depth) && decide (a.tileW = b.tileW)

/-- Read the table of one context: the table and the bytes it took (R81, R82). -/
def readContext (c : Nat) (prev : Freqs) (l : List Byte) : Option (Freqs × Nat) :=
  match l with
  | [] => none
  | d :: r =>
    let kind := d.toNat / 64
    let n := d.toNat % 64
    match kind with
    | 0 => if n = 0 then some (defaultFreqs (c % 16), 1) else none
    | 1 =>
      let len := ceilDiv (12 * (n - 1)) 8
      let v := leNat (r.take len)
      let lead := (List.range (n - 1)).map (fun i => bits v (12 * i) 12)
      if 1 ≤ n ∧ n ≤ 32 ∧ len ≤ r.length ∧ sumBy id lead ≤ 4095 then some (explicitFreqs lead, 1 + len) else none
    | 2 => if n = 0 ∧ c ≠ 0 then some (prev, 1) else none
    | _ => if n = 0 then some (flatFreqs, 1) else none

/-- Read the descriptors of contexts from `c` on. -/
def readContexts : Nat → Nat → Freqs → List Byte → Option (List Freqs × List Byte)
  | 0, _, _, l => some ([], l)
  | k + 1, c, prev, l =>
    match readContext c prev l with
    | none => none
    | some (t, n) => (readContexts k (c + 1) t (l.drop n)).map (fun r => (t :: r.1, r.2))

/-- The tables of a table section; none under a TABLE condition (R82). -/
def parseTables (l : List Byte) : Option (List Freqs) :=
  if l.length < 4 ∨ rd l (l.length - 4) 4 ≠ crc32c 0 (l.take (l.length - 4)) then none
  else
    match readContexts 64 0 [] (l.take (l.length - 4)) with
    | some (ts, []) => some ts
    | _ => none

/-- Whether the items of a metadata segment fill it exactly (R85). -/
def itemsOk : Nat → List Byte → Bool
  | _, [] => true
  | 0, _ => false
  | k + 1, l => decide (4 ≤ l.length) && decide (4 + rd l 2 2 ≤ l.length) && itemsOk k (l.drop (4 + rd l 2 2))

/-- A metadata segment body: the length it takes after its marker, and whether it is free of a METADATA condition. -/
def parseMeta (l : List Byte) : Nat × Bool :=
  let n := rd l 0 4
  (8 + n, decide (4 ≤ n ∧ n ≤ 262144) && decide (8 + n ≤ l.length) && decide (rd l (4 + n) 4 = crc32c 0 (slice l 4 n)) &&
    itemsOk (n / 4 + 1) (slice l 4 n))

/-- Whether 12 bytes are the tile header of tile `t` (R86). -/
def tileHeadOk (h : FrameHead) (t : Nat) (l : List Byte) : Bool := decide (l.take 12 = (tileSegment t h.bands (sumBy id (h.tileW.take t)) (h.tileW.getD t 0)).drop 4)

/-- Whether a tile header passes its CRC (R193). -/
def tileCrcOk (l : List Byte) : Bool := decide (12 ≤ l.length) && decide (rd l 10 2 = crc16 (l.take 10))

/-- The trailer that 24 bytes spell, where its CRC passes and its frame number matches (R88). -/
def parseTrailer (frame : Nat) (l : List Byte) : Option Trailer :=
  if 24 ≤ l.length ∧ rd l 22 2 = crc16 (l.take 22) ∧ rd l 0 4 = frame then
    some { frame := frame, flags := rd l 4 4, bands := rd l 8 2, eclipse := rd l 10 2, recoded := rd l 12 2, fallback := rd l 14 2,
           bytes_ := rd l 16 4, deltaBands := rd l 20 2 }
  else none

/-! ### Stuffed sections (R73) -/

/-- Remove stuffing from one section, `z` zeros having gone before: its content and the zeros at its end; none under a
STUFFING condition. -/
def unstuffSec : Nat → List Byte → Option (List Byte × Nat)
  | z, [] => some ([], z)
  | z, [b] => if b = 0 ∧ z = 1 then none else some ([b], if b = 0 then 1 else 0)
  | z, b :: c :: r =>
    if b = 0 ∧ z = 1 then
      if c = 0x5A then (unstuffSec 0 r).map (fun t => (b :: t.1, t.2)) else none
    else (unstuffSec (if b = 0 then 1 else 0) (c :: r)).map (fun t => (b :: t.1, t.2))

/-- Content of the three sections of a band. -/
def unstuffSections (s : Sections) : Option Sections :=
  match unstuffSec 0 s.side with
  | none => none
  | some a =>
    match unstuffSec a.2 s.data with
    | none => none
    | some b => (unstuffSec b.2 s.suffix).map (fun c => { side := a.1, data := b.1, suffix := c.1 })

/-! ### Side section (R95) -/

/-- Read the mode of one block at bit `pos`: the mode and the bits it took, or SIDE_RANGE. -/
def readMode (temporal : Bool) (v pos : Nat) : Except Nat (BlockMode × Nat) :=
  let m := bits v pos 4
  if m < 8 then .ok ({ mode := m }, 4)
  else if m = 8 ∧ temporal then
    let vx := untwos 8 (bits v (pos + 4) 8)
    let vy := untwos 7 (bits v (pos + 12) 7)
    if vecOk (vx, vy) then .ok ({ mode := 8, vx := vx, vy := vy }, 19) else .error Cond.sideRange
  else .error Cond.sideRange

/-- Read the modes of `k` blocks. -/
def readModes (temporal : Bool) (v : Nat) : Nat → Nat → Except Nat (List BlockMode × Nat)
  | 0, pos => .ok ([], pos)
  | k + 1, pos =>
    match readMode temporal v pos with
    | .error e => .error e
    | .ok (m, n) =>
      match readModes temporal v k (pos + n) with
      | .error e => .error e
      | .ok (ms, p) => .ok (m :: ms, p)

/-! ### Symbols (R104 to R108) -/

/-- The reader of a band's rANS and suffix sections. -/
structure SymReader where
  x : List Nat
  words : List Nat
  suffix : Nat
  sufLen : Nat
  pos : Nat := 0
  idx : Nat := 0

/-- Class whose slots cover `slot`, with its cumulative frequency. -/
def classAt : Freqs → Nat → Nat → Nat → Nat × Nat
  | [], s, c, _ => (s, c)
  | f :: r, s, c, slot => if slot < c + f then (s, c) else classAt r (s + 1) (c + f) slot

/-- Read one symbol under a table (R105, R108, R608 step 5): its class and u. -/
def SymReader.next (q : SymReader) (b : Nat) (t : Freqs) : Except Nat ((Nat × Nat) × SymReader) :=
  let j := q.idx % 8
  let x := q.x.getD j 0
  let sc := classAt t 0 0 (x % 4096)
  let y := t.getD sc.1 0 * (x / 4096) + x % 4096 - sc.2
  let fin : Nat → List Nat → Except Nat ((Nat × Nat) × SymReader) := fun z ws =>
    if b + 4 < sc.1 then .error Cond.illegalClass
    else
      let n := sufBits sc.1
      if 8 * q.sufLen < q.pos + n then .error Cond.length
      else
        let u := if sc.1 = 0 then 0 else if sc.1 = 1 then 1 else 2 ^ n + bits q.suffix q.pos n
        .ok ((sc.1, u), { q with x := setAt q.x j z, words := ws, pos := q.pos + n, idx := q.idx + 1 })
  if y < 0x10000 then
    match q.words with
    | [] => .error Cond.ransUnderrun
    | w :: r => fin (65536 * y + w) r
  else fin y q.words

/-- Read the symbols of a block: its values at their positions. -/
def readBlock (b : Nat) (ts : List Freqs) (plane : Nat) : List (Nat × Nat) → Array Nat → Array Int → SymReader →
    Except Nat (Array Int × SymReader)
  | [], _, vals, q => .ok (vals, q)
  | (y, x) :: r, cls, vals, q =>
    match q.next b (ts.getD (ctxOf plane cls y x) []) with
    | .error e => .error e
    | .ok (cu, q1) =>
      readBlock b ts plane r (cls.setIfInBounds (16 * y + x) cu.1) (vals.setIfInBounds (16 * y + x) (unmapU cu.2)) q1

/-- Rebuild the samples of a block from its values, in raster order (R101 to R103, R110). -/
def rebuild (g : BandGeo) (delta : Nat) (ref : Option RefPlanes) (plane : Nat) (m : BlockMode) (oy ox : Nat) (vals : Array Int) :
    List (Nat × Nat) → Array Int → Except Nat (Array Int)
  | [], p => .ok p
  | (dy, dx) :: r, p =>
    let lifted := decide (delta = 0)
    let y := oy + dy
    let x := ox + dx
    let pr := predictMode g lifted ref plane p m y x
    let v := vals.getD (16 * dy + dx) 0
    let s := if delta = 0 then pr + v else clampInt 0 (planeHigh g.depth) (pr + v * (2 * delta + 1))
    if delta = 0 ∧ (s < planeLow g.depth plane true ∨ planeHigh g.depth < s) then .error Cond.sampleRange
    else rebuild g delta ref plane m oy ox vals r (p.setIfInBounds (y * g.pw + x) s)

/-- Decode the blocks of a plane from block `k` on. -/
def decodeBlocks (g : BandGeo) (delta : Nat) (ref : Option RefPlanes) (ts : List Freqs) (plane : Nat) :
    Nat → List BlockMode → Array Int → SymReader → Except Nat (Array Int × SymReader)
  | _, [], p, q => .ok (p, q)
  | k, m :: r, p, q =>
    let o := g.blockAt k
    let h := o.2.2
    match readBlock g.depth ts plane (if delta = 0 then groupOrder h else rasterOf h) (List.replicate (16 * h) 0).toArray (zeroVals h) q with
    | .error e => .error e
    | .ok (vals, q1) =>
      match rebuild g delta ref plane m o.1 o.2.1 (if delta = 0 then unliftBlock h vals else vals) (rasterOf h) p with
      | .error e => .error e
      | .ok p1 => decodeBlocks g delta ref ts plane (k + 1) r p1 q1

/-- Decode the planes of a band, each with its own part of the modes. -/
def decodePlanes (g : BandGeo) (delta : Nat) (ref : Option RefPlanes) (ts : List Freqs) :
    List Nat → List BlockMode → SymReader → Except Nat (List (Nat × Array Int) × SymReader)
  | [], _, q => .ok ([], q)
  | pl :: r, ms, q =>
    match decodeBlocks g delta ref ts pl 0 (ms.take g.blocks) (List.replicate (g.pw * g.ph) (0 : Int)).toArray q with
    | .error e => .error e
    | .ok (p, q1) =>
      match decodePlanes g delta ref ts r (ms.drop g.blocks) q1 with
      | .error e => .error e
      | .ok (ps, q2) => .ok ((pl, p) :: ps, q2)

/-- 16-bit words of a byte string. -/
def words16 : List Byte → List Nat
  | a :: b :: r => (a.toNat + 256 * b.toNat) :: words16 r
  | _ => []

/-- Checks after the last symbol (R608 step 6). -/
def SymReader.endCheck (q : SymReader) : Option Nat :=
  if q.x.any (fun v => decide (v ≠ 0x10000)) then some Cond.ransState
  else if q.words ≠ [] then some Cond.length
  else if ceilDiv q.pos 8 ≠ q.sufLen then some Cond.length
  else none

/-- Decode a predictive band after its header (R608 steps 2 to 7): its photosites, or the condition that damages it. -/
def decodePredictive (g : BandGeo) (frame : Nat) (h : BandHead) (temporal : Bool) (ref : Option RefPlanes) (ts : List Freqs)
    (stored : Sections) : Except Nat (List Nat) :=
  match unstuffSections stored with
  | none => .error Cond.stuffing
  | some s =>
    match readModes temporal (leNat s.side) (g.blocks * g.planes.length) 0 with
    | .error e => .error e
    | .ok (modes, sideBits) =>
      if s.side.length ≠ ceilDiv sideBits 8 then .error Cond.length
      else if s.data.length < 32 ∨ s.data.length % 2 = 1 then .error Cond.length
      else
        let x := (List.range 8).map (fun j => rd s.data (4 * j) 4)
        if x.any (fun v => decide (v < 0x10000)) then .error Cond.ransState
        else
          let q : SymReader := { x := x, words := words16 (s.data.drop 32), suffix := leNat s.suffix, sufLen := s.suffix.length }
          match decodePlanes g h.delta ref ts g.planes modes q with
          | .error e => .error e
          | .ok (ps, q1) =>
            match q1.endCheck with
            | some e => .error e
            | none =>
              let photos := g.combine (decide (h.delta = 0)) ps
              if h.delta = 0 ∧ photos.any (fun v => decide (v < 0 ∨ planeHigh g.depth < v)) then .error Cond.sampleRange
              else
                let out := photos.map Int.toNat
                if h.delta = 0 ∧ sourceCheck frame h.tile h.band out ≠ h.check then .error Cond.sourceCheck else .ok out

/-- Decode an eclipse band after its header (R111, R112, R608). -/
def decodeEclipse (g : BandGeo) (frame : Nat) (h : BandHead) (payload : List Byte) : Except Nat (List Nat) :=
  let w := g.depth - h.depth
  if h.dataLen ≠ ceilDiv (g.count * w) 8 ∨ payload.length ≠ h.dataLen then .error Cond.length
  else
    let v := leNat payload
    let out := (List.range g.count).map (fun i => unEclipse h.depth (bits v (w * i) w))
    if h.depth = 0 ∧ sourceCheck frame h.tile h.band out ≠ h.check then .error Cond.sourceCheck else .ok out

/-- Decode a band from the bytes after its header (R115, R608). `ts` is none under a TABLE condition. -/
def decodeBand (g : BandGeo) (frame : Nat) (h : BandHead) (temporal : Bool) (ref : Option RefPlanes) (ts : Option (List Freqs))
    (body : List Byte) : Except Nat (List Nat) :=
  if h.eclipse then decodeEclipse g frame h (body.take h.dataLen)
  else
    let s : Sections := { side := body.take h.sideLen, data := (body.drop h.sideLen).take h.dataLen,
                          suffix := (body.drop (h.sideLen + h.dataLen)).take h.suffixLen }
    if h.flat then decodePredictive g frame h temporal ref flatTables s
    else
      match ts with
      | some t => decodePredictive g frame h temporal ref t s
      | none => .error Cond.table

/-! ### Concealment by interpolation (R198) -/

/-- Nearest good row of the same phase above row `y`, at most `k` steps away. -/
def goodAbove (good : Nat → Bool) (step y : Nat) : Nat → Option Nat
  | 0 => none
  | k + 1 =>
    if y < step then none
    else if good (y - step) then some (y - step) else goodAbove good step (y - step) k

/-- Nearest good row of the same phase below row `y`. -/
def goodBelow (good : Nat → Bool) (height step y : Nat) : Nat → Option Nat
  | 0 => none
  | k + 1 =>
    if height ≤ y + step then none
    else if good (y + step) then some (y + step) else goodBelow good height step (y + step) k

/-- METHOD of a row's interpolation: 1 both sides, 2 above, 3 below, 4 neither (R203). -/
def interpMethod : Option Nat → Option Nat → Nat
  | some _, some _ => 1
  | some _, none => 2
  | none, some _ => 3
  | none, none => 4

/-- One photosite of a row interpolated between the good rows above and below (R198). -/
def interpAt (b : Nat) (p : Nat → Nat → Nat) (up down : Option Nat) (y x : Nat) : Nat :=
  match up, down with
  | some ya, some yb => (p ya x * (yb - y) + p yb x * (y - ya) + (yb - ya) / 2) / (yb - ya)
  | some ya, none => p ya x
  | none, some yb => p yb x
  | none, none => 2 ^ (b - 1)

/-- Fill one band of a tile by interpolation: its photosites and its METHOD, the lowest that applied (R198, R203). -/
def interpBand (cfa b line height bandNo rows : Nat) (good : Nat → Bool) (p : Nat → Nat → Nat) : List Nat × Nat :=
  let step := if cfa ≤ 4 then 2 else 1
  let ys := (List.range rows).map (fun r =>
    let y := 32 * bandNo + r
    (y, goodAbove good step y height, goodBelow good height step y height))
  ((ys.map (fun e => (List.range line).map (fun x => interpAt b p e.2.1 e.2.2 e.1 x))).flatten,
   ys.foldl (fun m e => min m (interpMethod e.2.1 e.2.2)) 4)

end Sys2Proof.Machine
end

