-- ==== Sys2Proof/Machine/UnitsCodec.lean ====
section
/-! DEFINITION. State of the prism, the codec engines and the frames in work (02 to 06). Every field's initial value is its
reset value. -/

namespace Sys2Proof.Machine
open Sys2Proof

/-! ### Prism (R40 to R69) -/

/-- A control block that a lane has received, with the data of its lane before it (R45). -/
structure LaneCtl where
  code : Nat
  arg : Nat
  /-- Block time of its arrival. -/
  slot : Nat
  data : List Byte
  deriving DecidableEq, Repr

/-- One sensor lane (R43, R44). -/
structure Lane where
  /-- The last 23 scrambled payload bits, the newest at bit 0. -/
  scr : Nat := 0
  locked : Bool := false
  /-- Consecutive valid headers while unlocked. -/
  good : Nat := 0
  /-- Validity of the last 64 headers, newest first. -/
  seen : List Bool := []
  /-- Data received since the last control block. -/
  data : List Byte := []
  /-- Control blocks not yet received on every lane of the group. -/
  queue : List LaneCtl := []
  /-- A TRAIN block has arrived since SKEW_ERR. -/
  trained : Bool := true
  deriving DecidableEq, Repr

/-- A control block received on every lane of a group. -/
structure GroupMsg where
  code : Nat
  args : List Nat
  data : List (List Byte)
  deriving DecidableEq, Repr

/-- A lane group (R47 to R49). -/
structure Group where
  aligned : Bool := false
  /-- SKEW_ERR since the last training. -/
  skewed : Bool := false
  /-- What the prism has received and not yet acted on. -/
  inbox : List GroupMsg := []
  deriving DecidableEq, Repr

/-- An input and virtual channel (R58). -/
structure Source where
  /-- An SOF has come in the capture window. -/
  sof : Bool := false
  /-- Rows go to the frame that the window opened. -/
  open_ : Bool := false
  /-- A second SOF came: what follows in the window is discarded. -/
  discard : Bool := false
  /-- Sensor frame counter of the SOF. -/
  counter : Nat := 0
  /-- CSI-2 rows since the SOF. -/
  rows : Nat := 0
  /-- Row number of the SLVS line that a SOL began. -/
  line : Option Nat := none
  /-- Last CSI-2 line-start number, and whether it differed from the row count (R52). -/
  lineNo : Nat := 0
  lineOff : Bool := false
  deriving DecidableEq, Repr

/-- A line segment on its way to staging (R65). -/
structure Segment where
  stream : Nat
  frame : Nat
  tile : Nat
  row : Nat
  bytes : List Byte
  /-- Bytes that have left the staging FIFO. -/
  done : Nat := 0
  deriving DecidableEq, Repr

/-- The prism. -/
structure Prism where
  lanes : List Lane := List.replicate 64 {}
  groups : List Group := List.replicate 4 {}
  /-- Inputs, by 32 × input + virtual channel. -/
  sources : Tbl Source := []
  /-- Segments waiting for a write port, oldest first. -/
  segs : List Segment := []
  /-- Segments in the staging FIFOs, oldest first, by write port. -/
  fifos : List (List Segment) := List.replicate 4 []
  deriving DecidableEq, Repr

/-! ### Frames in work -/

/-- A row of a tile's band in its staged buffer (R60, R67). -/
inductive RowState where
  | absent
  /-- Its segment is on its way: bytes not yet written to DRAM. -/
  | coming (left : Nat)
  /-- It cannot arrive whole and waits for the row it copies. -/
  | bad
  | whole
  | filled
  deriving DecidableEq, Repr

/-- Where a band stands in its sequence (R118 to R123, R184). -/
inductive BandPhase where
  /-- No attempt is in the queue or being formed. -/
  | waiting
  /-- The pixel engine forms an attempt. -/
  | forming
  /-- An attempt is complete in the band queue. -/
  | queued
  /-- The measure pass runs. -/
  | measuring
  /-- The chosen coding waits for its code pass, or the code pass runs. -/
  | codeWait | coding
  /-- Sent to the eclipse path; its pass has not started; its pass runs. -/
  | eclipseWait | eclipsing
  /-- Coded; verification waits or runs. -/
  | coded | verifying
  /-- Passed, and not handed over yet (R123). -/
  | passed
  | handed
  deriving DecidableEq, Repr

/-- Why a band is to be formed (R118, R121, R140): its first or second attempt, or again after a rewind, uncounted. -/
inductive Due where
  | first | second | again
  deriving DecidableEq, Repr

/-- A band in work. -/
structure Band where
  phase : BandPhase := .waiting
  due : Due := .first
  /-- Pool 2 buffers that stage it; their rows. -/
  bufs : List Nat := []
  rows : List RowState := []
  /-- INGEST_FILLED (R67). -/
  filled : Bool := false
  /-- Developer hold (R208). -/
  hold : Bool := false
  /-- Staged buffers released (R15). -/
  released : Bool := false
  /-- First SOURCE_CHECK computed; the latest coding pass read a source that no longer gives it (R179, R465). -/
  check : Option Nat := none
  mismatch : Bool := false
  /-- Attempts formed on the δ path (R118). -/
  attempts : Nat := 0
  delta : Nat := 0
  /-- δ of the first attempt. -/
  delta1 : Nat := 0
  /-- The handler of its band start has ended, with this δ request (R244). -/
  decided : Option (Option Nat) := none
  formed : Option Formed := none
  flat : Bool := false
  /-- Eclipse depth, and whether it is fixed (R167). -/
  depth : Nat := 0
  depthSet : Bool := false
  /-- CAUSE of ENT_LAST (R145): 0, 1 predictive, 2 to 4 eclipse, 5 fallback, 6 uncompressed. -/
  cause : Nat := 0
  /-- Pass of R184 under way. -/
  pass : Nat := 0
  /-- The allowance unit has computed for it; its limit L(i) and allowance A(i) (R158). -/
  allowed : Bool := false
  limit : Int := 0
  allow : Nat := 0
  flags : Nat := 0
  /-- Size of pass 0 (R184). -/
  size : Nat := 0
  /-- The band as written, marker first. -/
  bytes : List Byte := []
  /-- Reference buffers from pool 2 (R134). -/
  refBufs : List Nat := []
  /-- A decision event of it waits for its handler (R243). -/
  asked : Bool := false
  deriving DecidableEq, Repr

/-- A tile of a frame in work. -/
structure Tile where
  engine : Nat
  width : Nat
  bands : List Band
  /-- T of R154; 0 in modes 0 and 3. -/
  budget : Nat := 0
  spent : Nat := 16
  marginUsed : Bool := false
  exhausted : Bool := false
  /-- δ of the most recent attempt in this frame (R162). -/
  lastDelta : Option Nat := none
  /-- k of R162. -/
  lastK : Nat := 0
  /-- A weight the customer policy supplied (R155). -/
  weight : Option Nat := none
  /-- M_t (R147). -/
  margin : Nat := 0
  deriving DecidableEq, Repr

/-- A frame of a capture stream in work, from its tick to its hand-over. -/
structure Work where
  frame : Nat
  stamp : List Byte
  /-- Sidereal instant of its tick. -/
  at_ : Nat
  cfa : Nat
  depth : Nat
  mode : Nat
  budget : Nat
  temporal : Bool
  distance : Nat
  /-- An SOF has opened it, and its counter. -/
  sof : Bool := false
  counter : Nat := 0
  /-- Its capture window has closed. -/
  closed : Bool := false
  /-- Its coding has ended: it is handed over or dropped. -/
  gone : Bool := false
  /-- Dropped before coding (R61, R269): staged at most. -/
  skip : Bool := false
  /-- It is one of those that R268 drops. -/
  capacity : Bool := false
  /-- Tables, once ready; the default tables in the cases of R38. -/
  tables : Option (List Freqs) := none
  r38 : Bool := true
  /-- Budgets are divided (R154). -/
  divided : Bool := false
  /-- The first band of it has started an attempt or an eclipse pass (R100). -/
  begun : Bool := false
  /-- The frame a fallback move made (R175). -/
  moved : Bool := false
  tiles : List Tile
  globals : List (Int × Int) := []
  /-- Embedded packets in arrival order (R607). -/
  embedded : List (List Byte) := []
  /-- Customer metadata items by thread: tag and bytes of each, oldest first (R241). -/
  custom : Tbl (List (Nat × List Byte)) := []
  /-- Segments that failed once under R183 and were written again. -/
  segFails : Nat := 0
  /-- The frame is to be developed (R207), and was skipped (R209). -/
  develop : Bool := false
  skipped : Bool := false
  deriving DecidableEq, Repr

/-- What a frame leaves for later frames (R37, R38, R133, R155, R162). -/
structure Past where
  frame : Nat
  coded : Bool
  uncompressed : Bool := false
  tileW : List Nat := []
  /-- Symbol counts by 32 × context + class. -/
  hist : Tbl Nat := []
  /-- By tile: bytes as a weight, eclipse bands, δ of the last attempt. -/
  weights : List Nat := []
  eclipses : List Nat := []
  deltas : List Nat := []
  /-- By tile: count and sums of the MODE 8 vectors of plane 0. -/
  vectors : List (Nat × Int × Int) := []
  /-- By tile and band: plane-0 modes of the final predictive coding. -/
  modes : List (List (List BlockMode)) := []
  deriving DecidableEq, Repr

/-! ### Engines -/

/-- A band by stream, frame, tile and number. -/
structure BandRef where
  stream : Nat
  frame : Nat
  tile : Nat
  band : Nat
  deriving DecidableEq, Repr

/-- A pixel engine (R118, R128, R140). -/
structure PixEngine where
  job : Option BandRef := none
  /-- ATTEMPT of PXE_STATUS: 1 first, 2 second, 3 repeat. -/
  kind : Nat := 0
  startAt : Nat := 0
  /-- Words of the attempt written to the band queue. -/
  written : Nat := 0
  /-- Global vector in use (PXE_GVEC). -/
  gvec : Int × Int := (0, 0)
  /-- Frame of the band being formed (PXE_FRAME). -/
  frame : Nat := 0
  /-- Recovery since this crystal instant (R141). -/
  fault : Option Nat := none
  /-- Instant of the last fault plus 1; 0 none (R142). -/
  lastFault : Nat := 0
  deriving DecidableEq, Repr

/-- Pass of an entropy engine. -/
inductive EntPass where
  | idle | measure | code | eclipse
  deriving DecidableEq, Repr

/-- An entropy engine (R107 to R113, R120). -/
structure EntEngine where
  job : Option BandRef := none
  pass : EntPass := .idle
  startAt : Nat := 0
  /-- ENT_LAST. -/
  last : Nat := 0
  fault : Option Nat := none
  lastFault : Nat := 0
  deriving DecidableEq, Repr

/-- A mirror decoder (R178 to R187). -/
structure MirEngine where
  job : Option BandRef := none
  startAt : Nat := 0
  /-- MIR_LAST. -/
  last : Nat := 0
  maxErr : Nat := 0
  /-- A playback band in progress: playback context, frame, tile and band. -/
  play : Option BandRef := none
  fault : Option Nat := none
  lastFault : Nat := 0
  deriving DecidableEq, Repr

/-- An attempt in a band queue (R127): its words, and whether all are written. -/
structure BqEntry where
  ref : BandRef
  words : Nat
  complete : Bool
  deriving DecidableEq, Repr

/-- An allowance unit's registers (R177). -/
structure Allow where
  exhausted : Bool := false
  marginUsed : Bool := false
  stream : Nat := 0
  tile : Nat := 0
  delta : Nat := 0
  band : Nat := 0
  budget : Nat := 0
  spent : Nat := 0
  reserve : Nat := 0
  limit : Nat := 0
  allow : Nat := 0
  req : Nat := 0
  /-- Surplus S(i) of the last computation, signed (R156). -/
  surplus : Int := 0
  /-- The last computation was for a frame of mode 0 or 3, which has no tile budgets. -/
  free : Bool := false
  deriving DecidableEq, Repr

/-- The frame that a playback decodes (R189 to R201). Keys are 512 × tile + band. -/
structure PlayFrame where
  /-- One of the frames requested, rather than one decoded into the kept reconstruction only (R190). -/
  wanted : Bool
  bytes : List Byte
  /-- Absent byte runs: offset and length (R192). -/
  absent : List (Nat × Nat) := []
  head : FrameHead
  /-- Tables; none under a TABLE condition. -/
  tables : Option (List Freqs) := none
  /-- Reference in use: 0 none, 1 the kept reconstruction, 2 the neutral reference (R199, R200). -/
  ref : Nat := 0
  concealedRef : Bool := false
  tainted : Bool := false
  /-- Where the decoder reads next, and whether it scans (R193). -/
  pos : Nat
  scan : Bool := false
  /-- Key of the first band that may come next (R194). -/
  next : Nat := 0
  /-- The band found at `pos`, to be decoded. -/
  found : Option BandHead := none
  ended : Bool := false
  /-- Photosites and SOURCE_CHECK of the bands decoded without damage; conditions of the damaged ones. -/
  good : Tbl (List Nat) := []
  checks : Tbl Nat := []
  damaged : Tbl Nat := []
  /-- Conditions found, newest first: code, tile, band. -/
  conds : List (Nat × Nat × Nat) := []
  flagsOr : Nat := 0
  trailer : Option Nat := none
  deriving DecidableEq, Repr

/-- A kept reconstruction (R189): its header, its photosites by band, and whether it carries a flag of R201. -/
structure Kept where
  head : FrameHead
  photos : Tbl (List Nat) := []
  marred : Bool := false
  deriving DecidableEq, Repr

/-- A PLAYBACK_DECODE in progress (R186 to R203, R457). -/
structure Play where
  ctx : Nat
  sq : Nat
  cid : Nat
  /-- Frames before the first one requested that are still to be decoded (R190). -/
  pre : Nat := 0
  /-- Frames requested that have been dealt with, and those output with their bytes. -/
  done : Nat := 0
  outs : Nat := 0
  outBytes : Nat := 0
  kept : Option Kept := none
  cur : Option PlayFrame := none
  /-- What R202 asks about the frames so far. -/
  marred : Bool := false
  refMissing : Bool := false
  /-- The ABORT that has named it: it stops at the next frame boundary, and the ABORT completes after it (R461). -/
  abortBy : Option (Nat × Nat) := none
  deriving DecidableEq, Repr

/-- The codec: one of each engine per index. -/
structure Codec where
  pxe : List PixEngine := List.replicate 24 {}
  ent : List EntEngine := List.replicate 24 {}
  mir : List MirEngine := List.replicate 24 {}
  acb : List Allow := List.replicate 24 {}
  /-- Band queues, oldest attempt first. -/
  bq : List (List BqEntry) := List.replicate 24 []
  /-- Playbacks in progress, oldest first. -/
  plays : List Play := []
  deriving DecidableEq, Repr

/-! ### Sequencer (R233 to R251) -/

/-- What a decision event decides (R243). -/
inductive Decision where
  | bandStart (r : BandRef)
  | measure (r : BandRef) (size : Nat)
  | overshoot (r : BandRef) (size x : Nat)
  | eclipse (r : BandRef) (fresh : Bool)
  | statistics (stream frame : Nat)
  deriving DecidableEq, Repr

/-- An event on a thread's queue. -/
structure SeqEvent where
  op : Nat
  arg : Nat
  ref : Option BandRef := none
  dec : Option Decision := none
  /-- Posted by POST or SEQ_HOST_EVENT: on the post queue of 8 entries (R242). -/
  posted : Bool := false
  deriving DecidableEq, Repr

/-- The requests of a handler (R240, R244). -/
structure Requests where
  allow : Option Nat := none
  delta : Option Nat := none
  delta2 : Option Nat := none
  depth : Option Nat := none
  weights : Tbl (Option Nat) := []
  deriving DecidableEq, Repr

/-- A thread unit (R233). -/
structure SeqThread where
  regs : List Word := List.replicate 16 0
  neg : Bool := false
  zero : Bool := false
  carry : Bool := false
  divz : Bool := false
  stack : List Nat := []
  /-- Address of the next micro-word while a handler runs. -/
  pc : Option Nat := none
  events : List SeqEvent := []
  /-- The event whose handler runs. -/
  cur : Option SeqEvent := none
  /-- Micro-words and waiting clocks of the handler so far (R245). -/
  count : Nat := 0
  /-- Crystal instant from which it waits; none while it does not. -/
  waitAt : Option Nat := none
  /-- Crystal instant at which the timer of condition 5 expires. -/
  timer : Option Nat := none
  expired : Bool := false
  /-- Customer flags (R242). -/
  flags : List Bool := [false, false, false, false]
  req : Requests := {}
  /-- TAG of the open metadata item, with the stream and frame it belongs to (R241). -/
  item : Option (Nat × Nat × Nat) := none
  /-- The band, or the frame, of its last event that had one. -/
  ref : Option BandRef := none
  deriving DecidableEq, Repr

/-- The codec sequencer. Vendor words and entries are not known outside the firmware: only the customer window is held. -/
structure Sequencer where
  threads : List SeqThread := List.replicate 25 {}
  loaded : Bool := false
  version : Nat := 0
  /-- Customer micro-words and nano-words by address; unlisted: empty. -/
  micro : Tbl Nat := []
  nano : Tbl Nat := []
  /-- Dispatch entries 0xF0 to 0xFF; none: the vendor stub that ends at once. -/
  dispatch : List (Option Nat) := List.replicate 16 none
  deriving DecidableEq, Repr

end Sys2Proof.Machine
end

