-- ==== Sys2Proof/Machine/UnitsCapture.lean ====
section
/-! DEFINITION. Stream contexts and capture runs (R444 to R453). -/

namespace Sys2Proof.Machine
open Sys2Proof

/-- What a context is for (R444). -/
inductive CtxKind where
  | capture
  /-- A tile context of the capture stream. -/
  | tile (frameCtx : Nat) (tile : Nat)
  /-- An output of the proxy context. -/
  | output (proxyCtx : Nat) (out : Nat)
  | proxy | playback | flow | mirror | hostRing
  deriving DecidableEq, Repr

/-- A context in use. -/
structure Ctx where
  kind : CtxKind
  /-- Stream index of a capture context. -/
  stream : Nat := 0
  /-- Creation stamp bits [47:16] (R433). -/
  stamp : Nat := 0
  /-- The parameter block it was created with. -/
  params : List Byte := []
  /-- Packets made by a flow (R507). -/
  packets : Nat := 0
  deriving DecidableEq, Repr

/-- A frame that the codec has finished, or a dropped one, on its way to the media in frame order. -/
structure OutFrame where
  frame : Nat
  stamp : List Byte
  /-- DROP_REASON (R354); 0 for a coded frame. -/
  reason : Nat := 0
  mode : Nat := 0
  bytes : List Byte := []
  flags : Nat := 0
  tiles : Nat := 0
  eclipse : Nat := 0
  fallback : Nat := 0
  /-- Bytes that it occupies in modes 2 and 3 (R308, R354); 0 in the others. -/
  slot : Nat := 0
  /-- Sidereal instant of its tick. -/
  at_ : Nat := 0
  deriving DecidableEq, Repr

/-- A frame that the flash engine has taken into the clip's stream and that the watermark has not passed (R308, R319). -/
structure Taken where
  frame : Nat
  stamp : List Byte
  reason : Nat
  flags : Nat
  tiles : Nat
  eclipse : Nat
  fallback : Nat
  offset : Nat
  len : Nat
  crc : Nat
  at_ : Nat
  deriving DecidableEq, Repr

/-- State of a capture run (R449 to R451). -/
inductive RunState where
  | idle | armed | running
  deriving DecidableEq, Repr

/-- A capture stream (R444, R445, R448 to R452). -/
structure Cap where
  ctx : Nat
  input : Nat := 0
  vc : Nat := 0
  left : Nat := 0
  top : Nat := 0
  width : Nat := 64
  height : Nat := 16
  anchor : Nat := 1
  erGiven : Bool := false
  /-- Tile widths in photosites and pixel engine of each tile (R62, R63). -/
  tileW : List Nat := [64]
  engines : List Nat := [0]
  run : RunState := .idle
  /-- A run has been made under the open clip (R449). -/
  hadRun : Bool := false
  /-- Start pending: tick, then queue and command ID (R450); queue 2^32 for a start that a worker took by message (R538). -/
  start : Option (Nat × Nat × Nat) := none
  /-- Stop pending: tick M, then queue and command ID (R451). -/
  stop : Option (Nat × Nat × Nat) := none
  /-- Capture has stopped and the last frames are still to be committed. -/
  draining : Bool := false
  first : Nat := 0
  last : Nat := 0
  /-- Clip open: port choice 0, 1 or 2, and CLIP_ID (R448). -/
  clip : Option (Nat × Nat) := none
  stopReason : Nat := 0
  /-- First frame of the fallback move; none while the configured mode is in force (R175). -/
  moved : Option Nat := none
  /-- Frames of every 16 dropped (R268). -/
  dropJ : Nat := 0
  /-- Frames in work, oldest first. -/
  works : List Work := []
  /-- What the last frames left, oldest first, at most three. -/
  past : List Past := []
  /-- Finished frames that the flash engine has not taken, oldest first. -/
  outq : List OutFrame := []
  /-- Frames taken into the stream and not passed by the watermark, oldest first; how many have been taken in all. -/
  taken : List Taken := []
  takenCnt : Nat := 0
  /-- Bytes of the stream so far, and those of them that are in no chunk yet. -/
  bytes : Nat := 0
  cut : List Byte := []
  /-- Chunks cut, and mismatches of the next one (R310). -/
  chunks : Nat := 0
  tries : Nat := 0
  /-- Frames taken from the one that holds the first byte in no chunk on: number, stream offset, whether coded. -/
  starts : List (Nat × Nat × Bool) := []
  /-- Frames that the watermark has passed. -/
  passed : Nat := 0
  /-- Frames since the last anchor; the next frame prepared is an anchor (R100). -/
  sinceAnchor : Nat := 0
  forceAnchor : Bool := true
  deriving DecidableEq, Repr

end Sys2Proof.Machine
end

