-- ==== Sys2Proof/Machine/UnitsFabric.lean ====
section
/-! DEFINITION. State of the fabric, the buffer pools, DRAM, DMA and the power domains (09, 15). Every field's initial value
is its reset value. -/

namespace Sys2Proof.Machine
open Sys2Proof

/-- The tile row whose bytes a staging cell carries (R65). -/
structure SegRef where
  stream : Nat
  frame : Nat
  tile : Nat
  row : Nat
  deriving DecidableEq, Repr

/-- A 256-byte cell as a unit hands it to the fabric (R253, R255). -/
structure FabCell where
  input : Nat
  output : Nat
  cls : Nat
  owner : Nat
  /-- DRAM address it reads or writes, where its output is a DRAM port. -/
  addr : Nat
  write : Bool
  bytes : List Byte
  /-- Set on a cell of a real-time write port. -/
  seg : Option SegRef := none
  deriving DecidableEq, Repr

/-- A cell under way with its sequence number (R255). -/
structure SeqCell where
  cell : FabCell
  seq : Nat
  deriving DecidableEq, Repr

/-- A transfer held by a quiescing domain (R484). -/
structure HeldCell where
  domain : Nat
  cell : FabCell
  deriving DecidableEq, Repr

/-- An analysis record waiting at its session's destination (R272, R273). -/
structure MirrorRecord where
  session : Nat
  /-- Pool 0 buffer that holds the copy. -/
  buf : Nat
  bytes : List Byte
  deriving DecidableEq, Repr

/-- Fabric (R252 to R258, R270 to R273). -/
structure Fabric where
  /-- Next sequence number given at an input, by input, output and class. -/
  seqIn : Tbl Nat := []
  /-- Next sequence number released at an output, by input, output and class. -/
  seqOut : Tbl Nat := []
  /-- Cells that wait in a resequencer for a missing number. -/
  waiting : List SeqCell := []
  /-- Cells lost to an uncorrectable error whose number has not been skipped yet. -/
  lost : List SeqCell := []
  /-- Class pointers of the egresses: C1, C2, C3 of each (R258). -/
  egr : List (List Nat) := List.replicate 7 [0, 0, 0]
  /-- Units waiting at the PCI Express egress, oldest first: queue and class (R258). -/
  pcieQ : List (Nat × Nat) := []
  held : List HeldCell := []
  mirror : List MirrorRecord := []
  /-- Records made by each session (SEQ of R273). -/
  mirSeq : List Nat := List.replicate 8 0
  /-- Sessions enabled by a context of kind 4. -/
  mirCtx : List Nat := List.replicate 8 0
  /-- Transfers that completed to their source with an error and were repeated (R256). -/
  repeats : Nat := 0
  deriving DecidableEq, Repr

/-- An allocated buffer (R275 to R284). -/
structure Buf where
  owner : Nat
  cls : Nat
  /-- Destinations still to deliver (R279); 0 for a buffer with one owner. -/
  refs : Nat := 0
  /-- Epoch of its last touch (R282). -/
  touched : Nat := 0
  /-- Reported since its last touch. -/
  reported : Bool := false
  deriving DecidableEq, Repr

/-- One buffer pool (R274). -/
structure Pool where
  base : Nat := 0
  /-- Allocated buffers by index. -/
  alloc : Tbl (Option Buf) := []
  /-- The reserve Qp (R266). -/
  reserve : Nat := 0
  /-- The C0 need that admission has granted (R266). -/
  need : Nat := 0
  lastCode : Nat := 0
  lastPort : Nat := 0
  lastTag : Nat := 0
  lastPtr : Nat := 0
  deriving DecidableEq, Repr

/-- The four pools and the leak auditor (R274 to R284). -/
structure Pools where
  pool : List Pool := List.replicate 4 {}
  /-- Rotating pointer over the requesting ports (R276). -/
  ptr : List Nat := [0, 0, 0, 0]
  epoch : Nat := 0
  epochTicks : Nat := 0
  epochFrom : Nat := 0
  /-- Configured by firmware (R274). -/
  ready : Bool := false
  deriving DecidableEq, Repr

/-- A DRAM controller (R462 to R469). -/
structure DramCtl where
  trained : Bool := false
  ranks : Nat := 0
  mr4 : Nat := 0
  capGiB : Nat := 0
  refresh2x : Bool := false
  /-- Consecutive reads of 85 degrees or below. -/
  cool : Nat := 0
  /-- MR4 beyond the refresh ranges (source + 2 persists). -/
  beyond : Bool := false
  lastUe : Nat := 0
  scrubAt : Nat := 0
  mr4At : Nat := 0
  /-- Blocks whose next read is uncorrectable (R465), by block number. -/
  bad : List Nat := []
  /-- Write queue, oldest first: block number and 64 bytes with their enables (R468). -/
  wq : List (Nat × List (Option Byte)) := []
  deriving DecidableEq, Repr

/-- A real-time write port (R65, R469). -/
structure WritePort where
  /-- Bytes in the staging FIFO. -/
  level : Nat := 0
  panic : Bool := false
  /-- Crystal instant PANIC rose. -/
  panicAt : Nat := 0
  deriving DecidableEq, Repr

/-- STATE of DMA_CH_STATUS. -/
inductive DmaState where
  | idle | running | waiting | stopping
  deriving DecidableEq, Repr

/-- One DMA channel (R470 to R479). -/
structure DmaCh where
  state : DmaState := .idle
  prog : Nat := 0
  index : Nat := 0
  srcCont : Nat := 0
  dstCont : Nat := 0
  /-- Loop counters; 0 is idle. -/
  counters : List Nat := [0, 0, 0, 0]
  bytes : Nat := 0
  miscompare : Bool := false
  cmpOffset : Nat := 0xFFFFFFFFFFFFFFFF
  cmpIndex : Nat := 0xFFFF
  waitMask : Nat := 0
  signalMask : Nat := 0
  shadowLate : Bool := false
  /-- DMA_RUN command of the running program: queue and command ID. -/
  cmd : Option (Nat × Nat) := none
  /-- DMA_RUN command of the armed shadow set. -/
  armCmd : Option (Nat × Nat) := none
  /-- Event waited for, whether the wait keeps the flag (PEEK), whether it is released, and instant of its timeout. -/
  waitEvent : Nat := 0
  waitPeek : Bool := false
  released : Bool := false
  waitUntil : Option Nat := none
  deriving DecidableEq, Repr

/-- A POWER_SET in progress (R484, R486). -/
structure PowerOp where
  domain : Nat
  /-- Switch off (true) or take a level at the next tick (false, R483). -/
  off : Bool
  level : Nat
  sq : Nat
  cid : Nat
  /-- Crystal instant at which the quiesce timeout ends. -/
  until_ : Nat
  deriving DecidableEq, Repr

/-- Power domains and clock levels (R481 to R487). -/
structure Power where
  /-- PWR_STATE: bit d of the 38 domains. -/
  on : BitVec 38 := 0x3000000000
  quiescing : BitVec 38 := 0
  level : List Nat := List.replicate 38 0
  ops : List PowerOp := []
  deriving DecidableEq, Repr

/-- Pins, the supply and what lies outside the block's registers. -/
structure Pins where
  magPwrEn : List Bool := [false, false]
  deriving DecidableEq, Repr

end Sys2Proof.Machine
end

