-- ==== Sys2Proof/Machine/UnitsFlash.lean ====
section
/-! DEFINITION. State of the magazine ports, the carriers and the volumes (10, 11). Every field's initial value is its reset
value. -/

namespace Sys2Proof.Machine
open Sys2Proof

/-- The magazine descriptor (R292) as read. -/
structure Geo where
  dies : Nat := 16
  cePerCh : Nat := 1
  cell : Nat := 3
  flags : Nat := 0
  planes : Nat := 1
  blocks : Nat := 1
  pages : Nat := 3
  pageBytes : Nat := 18592
  tProg : Nat := 0
  tBers : Nat := 0
  tR : Nat := 0
  endurance : Nat := 0
  readDisturb : Nat := 0
  retention : Nat := 1
  serial : List Byte := List.replicate 16 0x20
  deriving DecidableEq, Repr

/-- What lies outside the device: a carrier with its EEPROM, dies and media (R287 to R298). -/
structure Carrier where
  id : Nat
  /-- The two copies of the descriptor. -/
  desc0 : List Byte
  desc1 : List Byte
  /-- Parameter page: page bytes, pages per block, blocks per die, planes (R293). -/
  param : List Nat
  /-- Every die is identical and programs a whole word line at once (R293). -/
  supported : Bool := true
  /-- Training fails on some channel (R295). -/
  trainFails : Bool := false
  /-- Interface: MODE as MAG_IF and rate in MT/s. -/
  ifMode : Nat := 3
  ifRate : Nat := 3600
  /-- Factory bad blocks: die and block (R323). -/
  factoryBad : List (Nat × Nat) := []
  /-- Programmed pages by PPA, 18,592 bytes each; an unlisted page is erased. -/
  pages : Tbl (List Byte) := []
  deriving DecidableEq, Repr

/-- A superblock's entry (R348). -/
structure SbEntry where
  state : Nat := 0
  kind : Nat := 0
  liveMask : Nat := 0
  eraseCount : Nat := 0
  readCount : Nat := 0
  firstSeq : Nat := 0xFFFFFFFF
  wlUsed : Nat := 0
  liveUnits : Nat := 0
  deriving DecidableEq, Repr

/-- A bad-block entry (R349). -/
structure BadBlock where
  die : Nat
  flags : Nat
  block : Nat
  spare : Nat
  deriving DecidableEq, Repr

/-- An extent (R355). -/
structure Extent where
  first : Nat
  count : Nat
  lua : Nat
  deriving DecidableEq, Repr

/-- A clip: its directory entry (R351) with the records and extents of its log, oldest first. -/
structure Clip where
  id : Nat
  state : Nat := 1
  stream : Nat := 0
  mode : Nat := 0
  cfa : Nat := 0
  depth : Nat := 0
  tiles : Nat := 0
  width : Nat := 0
  height : Nat := 0
  rateN : Nat := 0
  rateD : Nat := 0
  first : Nat := 0
  last : Nat := 0
  indexed : Nat := 0
  dropped : Nat := 0
  bytes : Nat := 0
  slot : Nat := 0
  flags : Nat := 0
  peer : Nat := 0
  lastLog : Nat := 0xFFFFFFFFFFFFFFFF
  indexedUnits : Nat := 0
  logUnits : Nat := 0
  openStamp : List Byte := List.replicate 16 0
  closeStamp : List Byte := List.replicate 16 0
  label : List Byte := List.replicate 16 0
  /-- Frame records of 64 bytes (R353), and how many of them the log holds. -/
  recs : List (List Byte) := []
  recsLogged : Nat := 0
  /-- Capture extents, and how many of them the log holds. -/
  exts : List Extent := []
  extsLogged : Nat := 0
  /-- Proxy records and extents of the two encoders, and how many the log holds (R357). -/
  proxyRecs : List (List Byte) := []
  proxyRecsLogged : Nat := 0
  proxyExts : List (Nat × Extent) := []
  proxyExtsLogged : Nat := 0
  /-- Bytes of the two proxy streams so far. -/
  proxyBytes : List Nat := [0, 0]
  deriving DecidableEq, Repr

/-- A mounted volume as the engine holds it (R336 to R363). -/
structure Volume where
  id : Nat := 0
  gen : Nat := 0
  seq : Nat := 0
  mounts : Nat := 0
  formatStamp : List Byte := List.replicate 16 0
  descFlags : Nat := 0
  proxyPct : Nat := 5
  /-- Superblocks by g * 8,192 + b. -/
  sbs : Tbl SbEntry := []
  bads : List BadBlock := []
  reloc : List (Nat × Nat) := []
  clips : List Clip := []
  /-- Table units of the three newest generations: generation, superblock key, units (R346). -/
  tables : List (Nat × Nat × Nat) := []
  /-- Header copies: index of the current block (0 to 3) and next word line (R343). -/
  headers : List (Nat × Nat) := [(0, 0), (0, 0), (0, 0), (0, 0)]
  /-- Erase counts of blocks by die * 8,192 + block (R324), and read counts since erase (R329). -/
  erases : Tbl Nat := []
  reads : Tbl Nat := []
  /-- MIRROR_GEN of the newest image, and the slot that holds it plus 1 (R358). -/
  mirrorGen : Nat := 0
  mirrorSlot : Nat := 0
  /-- Word line that the next retention visit of each superblock reads (R328). -/
  visit : Tbl Nat := []
  deriving DecidableEq, Repr

/-- A chunk that has been placed and is not committed yet (R308, R319). -/
structure Chunk where
  stream : Nat
  /-- Chunk number in the clip's stream. -/
  no : Nat
  /-- Pool 2 buffer that holds it. -/
  buf : Nat
  deriving DecidableEq, Repr

/-- A unit placed in a program stripe: user bytes and what its header says beside the LUA (R340). -/
structure StripeUnit where
  user : List Byte
  kind : Nat := 2
  unit : Nat := 0
  clip : Nat := 0
  frame : Nat := 0
  start : Nat := 0
  check : Nat := 0
  /-- Stream and chunk number of a capture unit. -/
  chunk : Option (Nat × Nat) := none
  /-- ORIGIN_LUA of a relocated unit; none where it is this LUA (R340, R350). -/
  origin : Option Nat := none
  deriving DecidableEq, Repr

/-- A program stripe (R304, R307): filled, or waiting to be programmed, while `seq` is none, then in programming. -/
structure Stripe where
  group : Nat
  sb : Nat
  wl : Nat
  kind : Nat
  /-- WRITE_SEQ once it is issued. -/
  seq : Option Nat := none
  units : List StripeUnit := []
  /-- Live dies of its superblock in increasing number. -/
  dies : List Nat
  /-- Dies whose status is still to be read. -/
  waiting : List Nat := []
  /-- Data positions that failed and are programmed again elsewhere (R321). -/
  lost : List Nat := []
  /-- Crystal instant at which a last chunk of a frame entered it, plus 1 (R317). -/
  lastAt : Nat := 0
  /-- STAMP of its markers. -/
  stamp : Nat := 0
  deriving DecidableEq, Repr

/-- One magazine port (R287 to R333). -/
structure MagPort where
  /-- Carrier seated, by its id. -/
  seated : Option Nat := none
  /-- Crystal instant at which MAG_PRESENT_N took its present level. -/
  lineAt : Nat := 0
  present : Bool := false
  powered : Bool := false
  mounted : Bool := false
  readOnly : Bool := false
  mountErr : Nat := 0
  /-- FULL of MAG_STATUS (R325). -/
  full : Bool := false
  geo : Geo := {}
  failedDies : List Nat := []
  closed : List Nat := []
  vol : Volume := {}
  /-- Chunks placed and not committed, oldest first. -/
  chunks : List Chunk := []
  /-- Units to be programmed again (R321), with their group. -/
  redo : List (Nat × StripeUnit) := []
  /-- Stripe under fill of kind 1, and the group that takes the next (R324). -/
  fill : Option Stripe := none
  nextGroup : Nat := 0
  /-- Stripes in programming, oldest first. -/
  programs : List Stripe := []
  /-- Members being erased: die and block. -/
  erasing : List (Nat × Nat) := []
  /-- Program failures of dies: die, block and crystal instant; status timeouts by die. -/
  failures : List (Nat × Nat × Nat) := []
  timeouts : Tbl Nat := []
  /-- Blocks that meet a trigger of R326: die, block, and whether the trigger was step 3 or 4. -/
  relocDue : List (Nat × Nat × Bool) := []
  /-- Largest number of operations in flight in this tick interval, and in the last one. -/
  peak : Nat := 0
  peakShown : Nat := 0
  /-- Crystal instants of the last retention visit (R328) and of the last checkpoint (R346). -/
  scanAt : Nat := 0
  ckptAt : Nat := 0
  deriving DecidableEq, Repr

end Sys2Proof.Machine
end

