-- ==== Sys2Proof/Machine/UnitsHost.lean ====
section
/-! DEFINITION. State of the host window, queues, boot controller, fault collector, interrupt controller and event
recorder (12, 13, 14, 18). Every field's initial value is its reset value. -/

namespace Sys2Proof.Machine
open Sys2Proof

/-- STATE of ID_BOOT_STATUS (R386), in the order of its encoding. -/
inductive BootState where
  | romInit | hostWait | loading | fwStart | ready | twilight
  deriving DecidableEq, Repr

/-- The image of an attempt (R386): A, B, host, none. -/
inductive Image where
  | a | b | host | none
  deriving DecidableEq, Repr

/-- What a reset was caused by, the CODE of a KIND 4 entry (R564). -/
inductive ResetCause where
  | powerOn | external | bootWdog | readyTimeout | reboot | twilightEnter | activate
  deriving DecidableEq, Repr

/-- One attempt of the latest sequence, a byte of ID_BOOT_ATTEMPTS (R386). -/
structure Attempt where
  image : Image := .none
  cause : Nat := 0
  deriving DecidableEq, Repr

/-- Boot controller, straps and OTP (R364 to R386). -/
structure Boot where
  /-- STATE (R386). -/
  state : BootState := .romInit
  /-- ROLE as sampled (R369). -/
  role : Nat := 0
  /-- BOOT_SRC as sampled (R369). -/
  bootSrc : Nat := 0
  /-- TEST_EN as sampled (R584). -/
  testEn : Bool := false
  /-- TWILIGHT_REASON (R382). -/
  reason : Nat := 0
  /-- IMAGE field: the running or tried image. -/
  image : Image := .a
  /-- DRAM_OK. -/
  dramOk : Bool := false
  /-- IMAGE_VERSION of the running image. -/
  fwVersion : Nat := 0
  /-- SECURITY_VERSION of the running image. -/
  secVersion : Nat := 0
  /-- Attempts of the latest sequence, oldest first (R386). -/
  attempts : List Attempt := []
  /-- The sequence shown is complete: the next attempt starts a new one. -/
  newSequence : Bool := true
  /-- Cause of the last reset, written as a KIND 4 entry by the boot ROM. -/
  cause : ResetCause := .powerOn
  /-- The boot ROM has not yet run since the reset. -/
  fresh : Bool := true
  /-- An internal reset that is to be performed, with its instant (R379, R396). -/
  resetDue : Option (ResetCause × Nat) := none
  /-- Instant the boot watchdog was last serviced; none while it is stopped (R379). -/
  wdogAt : Option Nat := none
  /-- Instant of hand-over while the READY timer runs (R379). -/
  readyTimer : Option Nat := none
  /-- PCI Express link is up (R368). -/
  linkUp : Bool := false
  deriving DecidableEq, Repr

/-- OTP (R374): what every reset keeps. The key hashes themselves are constants of Config. -/
structure Otp where
  /-- Revoke fuses of the four vendor slots. -/
  revoked : List Bool := [false, false, false, false]
  /-- Blown fuses of the anti-rollback counter, 0 to 64. -/
  floor : Nat := 0
  /-- Whether a customer microcode key hash is programmed (R247). -/
  customerKey : Bool := false
  deriving DecidableEq, Repr

/-- The boot control record of the black-box header (R375, R563), as its copies spell it. -/
structure BootRecord where
  failed : Nat := 0
  exclA : Bool := false
  exclB : Bool := false
  inProgress : Image := .none
  causes : List Nat := [0, 0, 0]
  writes : Nat := 0
  deriving DecidableEq, Repr

/-- One mailbox (R393). -/
structure Mailbox where
  code : Byte := 0
  tag : Byte := 0
  rsvd : List Byte := [0, 0]
  args : List Byte := List.replicate 28 0
  status : Nat := 0
  tagEcho : Byte := 0
  data : List Byte := List.replicate 28 0
  busy : Bool := false
  done : Bool := false
  late : Bool := false
  deriving DecidableEq, Repr

/-- A submission queue (R399, R402, R414). -/
structure Sq where
  base : Nat
  size : Nat
  head : Nat := 0
  tail : Nat := 0
  high : Bool := false
  burst : Nat := 1
  cq : Nat := 0
  /-- SQ_BAD_DOORBELL (R406). -/
  bad : Bool := false
  /-- DELETE_SQ is waiting for this queue's commands (R416). -/
  deleting : Bool := false
  deriving DecidableEq, Repr

/-- A completion queue or the head side of a host ring (R399, R402, R414, R447). -/
structure Cq where
  base : Nat
  size : Nat
  head : Nat := 0
  tail : Nat := 0
  phase : Bool := true
  ien : Bool := true
  vector : Nat := 0
  aggTime : Nat := 0
  aggCount : Nat := 0
  /-- CQ_BAD_DOORBELL (R407). -/
  bad : Bool := false
  /-- Entries posted since the vector was last sent (R398). -/
  unsent : Nat := 0
  /-- Start of the aggregation interval (R398). -/
  aggFrom : Nat := 0
  /-- A host ring's payload slots (R447); none for a completion queue. -/
  ring : Option Nat := none
  /-- SLOT_LOG2 of a host ring. -/
  slotLog2 : Nat := 0
  /-- Units delivered to a host ring (SEQ of R447). -/
  units : Nat := 0
  deriving DecidableEq, Repr

/-- Phase of a command in flight. -/
inductive CmdPhase where
  /-- Fetched, not yet started (FENCE or order, R411). -/
  | fetched
  /-- Started: its row may run. -/
  | started
  /-- Its work goes on and completes later. -/
  | running
  /-- Past its completion stage: its completion waits to be posted. -/
  | completing
  deriving DecidableEq, Repr

/-- A command in flight (R409). -/
structure Cmd where
  sq : Nat
  cid : Nat
  opcode : Nat
  flags : Nat
  target : Nat
  dataAddr : Nat
  dataLen : Nat
  cdw : List Nat
  phase : CmdPhase := .fetched
  deriving DecidableEq, Repr

/-- A completion at its completion stage or in the holding store (R413, R419). -/
structure Compl where
  sq : Nat
  cid : Nat
  cq : Nat
  status : Nat
  result : Nat
  detail : Bool
  retry : Bool
  deriving DecidableEq, Repr

/-- An async event (R425). -/
structure AsyncEvent where
  type : Nat
  sub : Nat
  arg : Nat
  deriving DecidableEq, Repr

/-- A log record with its page data (R433), newest first in its page. -/
structure LogPage where
  records : List (List Byte) := []
  lost : Nat := 0
  discarded : Nat := 0
  deriving DecidableEq, Repr

/-- BAR2's MSI-X table entry (R397). -/
structure MsixEntry where
  addr : Nat := 0
  data : Nat := 0
  masked : Bool := true
  pba : Bool := false
  deriving DecidableEq, Repr

/-- Queues, mailboxes and commands (R388 to R425). -/
structure HostIf where
  mbx : List Mailbox := List.replicate 4 {}
  mbxIe : Bool := false
  sqs : Tbl (Option Sq) := []
  cqs : Tbl (Option Cq) := []
  /-- Commands in flight, oldest fetched first. -/
  cmds : List Cmd := []
  /-- Completions at their completion stage, oldest first (R421). -/
  stage : List Compl := []
  /-- The holding store, oldest first (R419). -/
  held : List Compl := []
  /-- PEAK of ID_HOLD. -/
  heldPeak : Nat := 0
  /-- Fetching stopped by a full holding store (R421). -/
  holdStop : Bool := false
  /-- Last SQ served by the round robin (R412), high and normal. -/
  rrHigh : Nat := 0
  rrNorm : Nat := 0
  /-- Entries left of the turn of the SQ being served (R412). -/
  turnLeft : Nat := 0
  turnSq : Nat := 0
  /-- Admin set-up registers (R399). -/
  admSqBase : Nat := 0
  admCqBase : Nat := 0
  admSize : Word := 0
  admEn : Bool := false
  admRdy : Bool := false
  admCfgErr : Bool := false
  /-- Outstanding ASYNC_EVENT_REQUEST commands, oldest first (R423). -/
  aer : List Nat := []
  /-- Events that wait (R424), oldest first. -/
  events : List AsyncEvent := []
  /-- Events lost since the last overflow event (R424). -/
  eventsLost : Nat := 0
  /-- Qword writes whose lower dword waits for the upper one (R391), by offset. -/
  qwLow : Tbl Nat := []
  /-- Upper half of SDT_NOW latched by a dword read of its lower half (R492). -/
  sdtLatch : Option Word := none
  msix : List MsixEntry := List.replicate 64 {}
  badAccess : Nat := 0
  stray : Nat := 0
  /-- Log pages 0x01, 0x02, 0x04 and 0x06 (R433). -/
  logError : LogPage := {}
  logEvent : LogPage := {}
  logAudit : LogPage := {}
  logDropped : LogPage := {}
  /-- Log page 0x07: the number of challenges drawn so far (R442). -/
  challenge : Nat := 0
  /-- Log page 0x08: the newest admission refusal (R434). -/
  admission : Option (List Byte) := none
  deriving DecidableEq, Repr

/-- Fault collector (R545 to R550, R569). -/
structure Flt where
  /-- FLT_STATUS: bit s is the status of source s. -/
  status : BitVec 600 := 0
  faCnt : Nat := 0
  lastClass : Nat := 0
  lastSrc : Nat := 0
  lastArg : Nat := 0
  lastTime : Nat := 0
  /-- Severity table received (R539, R547); none: fixed classes. -/
  severity : Option (List Nat) := none
  /-- Instant of each source's last main-ring entry, plus 1; 0 none (R550). -/
  entryAt : Tbl Nat := []
  /-- Occurrences suppressed since that entry (R550). -/
  suppressed : Tbl Nat := []
  /-- Sources whose cause persists by the environment's report (temperature, MR4). -/
  causes : List Nat := []
  deriving DecidableEq, Repr

/-- One control core (R557, R569). -/
structure CtlCore where
  awake : Bool := false
  powered : Bool := false
  /-- Current level plus 1; 0 while idle. -/
  level : Nat := 0
  /-- Priority of the most urgent active source when the level was last computed. -/
  current : Nat := 0
  lastId : Nat := 0
  /-- Instant of the last service of the runtime watchdog; none while stopped (R553). -/
  wdogAt : Option Nat := none
  warning : Bool := false
  expired : Bool := false
  deriving DecidableEq, Repr

/-- Interrupt controller (R555 to R562). -/
structure Intr where
  /-- LEVEL_BITS of INT_SPLIT. -/
  levelBits : Nat := 8
  /-- Settings by ID: EN, HOST, SENSE, mask, PRIORITY as INT_SRC lays a halfword out. -/
  setting : Tbl Nat := []
  pending : List Nat := []
  /-- Active sources with the core each is active on. -/
  active : List (Nat × Nat) := []
  /-- Repeat marks (R559). -/
  repeats : List Nat := []
  /-- Level sources asserted by their unit. -/
  asserted : List Nat := []
  /-- Offers made by the last arbitration: source and core (R558). -/
  offers : List (Nat × Nat) := []
  cores : List CtlCore := List.replicate 4 {}
  spurious : Nat := 0
  badComplete : Nat := 0
  deriving DecidableEq, Repr

/-- MODE of FLT_TWINKLE (R569). -/
inductive TwkMode where
  | low | run | twilight
  deriving DecidableEq, Repr

/-- TWINKLE (R554). -/
structure Twinkle where
  mode : TwkMode := .low
  level : Bool := false
  /-- Instant of the next edge while it runs. -/
  nextEdge : Nat := 0
  /-- Instant at which it stops or stopped. -/
  stopAt : Option Nat := none
  /-- Instant of its first edge after the last stopping cause ended. -/
  resumeAt : Option Nat := none
  deriving DecidableEq, Repr

/-- A region of the black box (R563). -/
inductive BbxRegion where
  | first | boot | main
  deriving DecidableEq, Repr

/-- An entry that waits in the recorder's write queue (R567): its first 56 bytes. -/
structure BbxItem where
  region : BbxRegion
  body : List Byte
  deriving DecidableEq, Repr

/-- Event recorder (R563 to R569). -/
structure Bbx where
  queue : List BbxItem := []
  /-- Entries written to each region since it was last cleared (ENTRY_NO). -/
  firstNo : Nat := 0
  bootNo : Nat := 0
  mainNo : Nat := 0
  lostCnt : Nat := 0
  /-- Entries lost since the last KIND 14 entry. -/
  lostSince : Nat := 0
  mramCe : Nat := 0
  mirrorGen : List Nat := [0, 0]
  /-- Instant at which MRAM may take the next entry. -/
  readyAt : Nat := 0
  deriving DecidableEq, Repr

end Sys2Proof.Machine
end

