-- ==== Sys2Proof/Machine/UnitsNet.lean ====
section
/-! DEFINITION. State of sidereal time, the tick unit, the Ethernet ports and the Rudun links (01, 16, 17). Every field's
initial value is its reset value. -/

namespace Sys2Proof.Machine
open Sys2Proof

/-- An offset being added by TIME_SET SLEW (R438). -/
structure Slew where
  /-- Crystal instant at which it began. -/
  from_ : Nat
  /-- The whole offset, units of 2^-32 s. -/
  offset : Int
  /-- Rate in use, ppb, at most 500,000. -/
  ppb : Nat
  deriving DecidableEq, Repr

/-- The sidereal timebase (R488 to R492). -/
structure Sidereal where
  /-- The counter without a slew in progress, units of 2^-32 s. -/
  und : Nat := 0
  /-- Fraction of one unit, in 10^-18. -/
  frac : Nat := 0
  /-- Rate adjustment of the servo, signed ppb (SDT_FREQ). -/
  ppb : Int := 0
  slew : Option Slew := none
  set : Bool := false
  locked : Bool := false
  /-- Consecutive measurements within 100 ns (R489). -/
  good : Nat := 0
  /-- The next measurement is the first after a change to unlocked (R490). -/
  firstAfter : Bool := true
  /-- SDT_OFFSET, signed ns. -/
  offset : Int := 0
  /-- Crystal instant of the last measurement. -/
  measuredAt : Nat := 0
  /-- SDT_PPS_IN. -/
  ppsIn : Nat := 0
  /-- PPS_OUT rose at this crystal instant; none while low. -/
  ppsOut : Option Nat := none
  /-- Last integer second at which PPS_OUT rose. -/
  ppsSecond : Nat := 0
  /-- LOCKED was 0 at some instant of the current tick interval (R489). -/
  unlockedSeen : Bool := true
  deriving DecidableEq, Repr

/-- What issues the next tick. -/
inductive TickMode where
  /-- The schedule of R18 (sources 0 and 2; tick 0 of every role). -/
  | schedule
  /-- TICK_IN edges (R22). -/
  | edges
  /-- The first edge after a change to source 1 (R494). -/
  | firstEdge
  /-- Substitute ticks every P (R23, R534, the worker's start of R21). -/
  | holdover
  /-- The source is retaken and its first tick awaited (R24 rules 3 to 5). -/
  | retaken
  /-- Tick messages followed (R533). -/
  | messages
  deriving DecidableEq, Repr

/-- A TICK message (R531). -/
structure TickMsg where
  n : Nat
  t : Nat
  rateN : Nat
  rateD : Nat
  deriving DecidableEq, Repr

/-- The tick unit (R16 to R25, R493, R494, R533 to R535). Instants are sidereal, units of 2^-32 s. -/
structure TickUnit where
  running : Bool := false
  /-- Tick 0 has been issued. -/
  begun : Bool := false
  /-- TCK_NOW. -/
  now : Nat := 0
  mode : TickMode := .schedule
  /-- TCK_LAST. -/
  last : Nat := 0
  /-- The previous tick as the windows measure it (R438). -/
  prev : Nat := 0
  /-- TCK_NEXT. -/
  next : Nat := 0
  /-- Schedule index of the next tick (R494). -/
  index : Nat := 0
  /-- TCK_ORIGIN_TICK. -/
  k0 : Nat := 0
  /-- Rate in force N, D: a write of TCK_RATE takes effect with the next tick. -/
  rateN : Nat := 24
  rateD : Nat := 1
  /-- Holdover schedule: base instant and number of periods to the next tick. -/
  holdBase : Nat := 0
  holdK : Nat := 1
  /-- HOLDOVER of TCK_STATUS. -/
  holdover : Bool := false
  /-- Edges counted toward retaking (R24). -/
  count : Nat := 0
  /-- Last edge counted, and last edge accepted, crystal ns plus 1; 0 none. -/
  countedAt : Nat := 0
  acceptedAt : Nat := 0
  /-- Sidereal instant of the edge counted last. -/
  countedSid : Nat := 0
  /-- TICK_OUT rises or rose at this crystal instant; none: low. -/
  outAt : Option Nat := none
  /-- Worker: FOLLOWING and MISMATCH of LNK_TICK_STATUS (R535). -/
  following : Bool := false
  mismatch : Bool := false
  /-- Worker: the messages to be followed, in order. -/
  msgs : List TickMsg := []
  /-- Manager: the tick number broadcast last, plus 1 (R531). -/
  sent : Nat := 0
  /-- Crystal instant of the last tick. -/
  lastClk : Nat := 0
  deriving DecidableEq, Repr

/-- Announce data compared by the best master clock algorithm (R495): priority1, class, accuracy, variance, priority2,
identity, steps removed. -/
abbrev Announce := List Nat

/-- PTP ordinary clock of one Ethernet port (R495 to R497). -/
structure PtpPort where
  /-- portState as IEEE 1588-2019 numbers it. -/
  portState : Nat := 0
  /-- Best foreign master. -/
  best : Option Announce := none
  /-- Origin and arrival of the Sync that awaits its Follow_Up, and its sequence number. -/
  syncAt : Option (Nat × Nat) := none
  /-- t2 - t1 of the last complete Sync, ns. -/
  t21 : Option Int := none
  /-- Time of the Delay_Req sent, and its sequence number. -/
  reqAt : Option (Nat × Nat) := none
  seqId : Nat := 0
  /-- Mean path delay estimate, ns; none before the first Delay_Resp. -/
  delay : Option Int := none
  deriving DecidableEq, Repr

/-- A unit that waits in an Ethernet egress queue. -/
structure EthUnit where
  /-- Flow context; none for a relayed frame. -/
  flow : Option Nat
  /-- The payload is the whole frame, as for an analysis record (R273). -/
  raw : Bool := false
  /-- Frame length from destination address to FCS. -/
  len : Nat
  /-- Crystal instant of enqueue. -/
  at_ : Nat
  /-- DEADLINE of its flow, µs; 0 none. -/
  deadline : Nat
  /-- RTP timestamp and marker (R230, R507). -/
  rtp : Nat
  marker : Bool
  /-- Payload type of an RTP packet (R230). -/
  pt : Nat := 0
  /-- An ST 2110-20 packet: two bytes of extended sequence number come before the payload (R507). -/
  ext : Bool := false
  /-- Payload after the flow's headers. -/
  payload : List Byte
  deriving DecidableEq, Repr

/-- One Ethernet egress queue (R500, R509). -/
structure EthQueue where
  units : List EthUnit := []
  deriving DecidableEq, Repr

/-- A gate-control bank (R502): its dwords as GATES and INTERVAL ns, how many of them form the list, and the base time. -/
structure GateList where
  entries : List (Nat × Nat) := [(0xFF, 1000000)]
  count : Nat := 1
  base : Nat := 0
  deriving DecidableEq, Repr

/-- One Ethernet port (R498 to R502, R510). -/
structure EthPort where
  up : Bool := false
  held : Bool := false
  blockLock : Bool := false
  localFault : Bool := false
  remoteFault : Bool := false
  /-- Crystal instant the hold ends. -/
  holdUntil : Nat := 0
  /-- Counts as down under R280. -/
  down : Bool := true
  queues : List EthQueue := List.replicate 8 {}
  /-- Class queue served last by the round robin (R258), by class 1 to 3. -/
  rr : List Nat := [0, 0, 0, 0]
  gcl : GateList := {}
  /-- Committed list waiting for activation, with its instant (R502). -/
  gclNext : Option (GateList × Nat) := none
  /-- The unit that the egress scheduler granted and that is to be sent (R258). -/
  granted : Option EthUnit := none
  ptp : PtpPort := {}
  deriving DecidableEq, Repr

/-- A shaper or policer bucket: its tokens in thousandths of a bit so that RATE times 1 µs is exact (R503). -/
structure Bucket where
  /-- Millibits in the bucket: 8,000 per byte. -/
  mb : Nat := 0
  deriving DecidableEq, Repr

/-- States of a link port (R521), encoded as LNK_STATUS.STATE. -/
inductive LinkState where
  | off | training | init | up | held | miswired
  deriving DecidableEq, Repr

/-- A flit kept for replay (R519): header fields and payload. -/
structure Flit where
  type : Nat
  cls : Nat
  last : Bool
  seq : Nat
  dest : Nat
  src : Nat
  target : Nat
  payload : List Byte
  deriving DecidableEq, Repr

/-- A control message (R542) as received, with the port it came through and its source. -/
structure LinkMsg where
  port : Nat
  src : Nat
  code : Nat
  body : List Byte
  /-- Sidereal time of its arrival. -/
  at_ : Nat
  deriving DecidableEq, Repr

/-- One Rudun link port (R516 to R522). -/
structure LinkPort where
  state : LinkState := .off
  laneLock : Nat := 0
  peerDev : Nat := 0
  peerEnum : Bool := false
  peerUid : List Word := [0, 0, 0, 0]
  peerPort : Nat := 0
  peerRole : Nat := 0
  /-- The peer's LINK_INIT has arrived in this INIT. -/
  gotInit : Bool := false
  /-- Subtree of the worker below a down port: its ID to its LAST (R523). -/
  subId : Nat := 0
  subLast : Nat := 0
  subEnum : Bool := false
  /-- Next SEQ to send, last SEQ acknowledged by the peer, next SEQ expected. -/
  txSeq : Nat := 0
  txAck : Nat := 4095
  rxNext : Nat := 0
  nakSent : Bool := false
  nakDue : Bool := false
  /-- Replay buffer, oldest first (R519). -/
  replay : List Flit := []
  replays : Nat := 0
  ackAt : Nat := 0
  /-- Credits held: control, C1, C2, C3 (R520). -/
  credit : List Nat := [0, 0, 0, 0]
  /-- Crystal instant from which something waits for a credit, plus 1; 0 nothing waits (R544). -/
  creditAt : Nat := 0
  /-- Credits to return to the peer, by pool, and the pool whose turn it is. -/
  owed : List Nat := [0, 0, 0, 0]
  owedTurn : Nat := 0
  /-- TICK messages, other control flits and cells that wait. -/
  tickQ : List Flit := []
  ctrlQ : List Flit := []
  cellQ : List Flit := []
  /-- Bytes collected of control messages in progress, by source (R542). -/
  parts : Tbl (List Byte) := []
  holdUntil : Nat := 0
  lastFlitAt : Nat := 0
  /-- Former UID of the peer, for a return within the hold (R522). -/
  formerUid : List Word := [0, 0, 0, 0]
  /-- Posted SUBTYPE 2 and not yet SUBTYPE 3 (R522). -/
  downPosted : Bool := false
  /-- Last round of TIME flits: t1, t2, t3, t4 (R529). -/
  t1 : Nat := 0
  t2 : Nat := 0
  t3 : Nat := 0
  /-- Enumeration through this port began at this instant, plus 1; 0 none (R523). -/
  enumAt : Nat := 0
  /-- Crystal instants: when the port became MISWIRED, when LINK_INIT is sent next, when the next TIME round begins. -/
  retryAt : Nat := 0
  initAt : Nat := 0
  timeAt : Nat := 0
  deriving DecidableEq, Repr

/-- What the manager keeps of a worker (R525, R537 to R541). -/
structure Worker where
  id : Nat
  parent : Nat
  parentPort : Nat
  depth : Nat
  uid : List Byte
  last : Nat := 0
  reachable : Bool := true
  armed : Nat := 0
  tickStatus : Nat := 0
  /-- SEVERITY_ACK outstanding. -/
  sevWait : Bool := false
  /-- The last severity table sent to it (R539). -/
  sev : Option (List Nat) := none
  deriving DecidableEq, Repr

/-- A broadcast start in progress on the manager (R538). -/
structure Broadcast where
  token : Nat
  n : Nat
  sq : Nat
  cid : Nat
  /-- START_ACKs in time: worker and STATUS. -/
  acks : List (Nat × Nat) := []
  deriving DecidableEq, Repr

/-- A relay rate (R528): manager side, by worker and port. -/
structure RelayRate where
  dev : Nat
  port : Nat
  rate : Nat
  deriving DecidableEq, Repr

/-- The links as a whole (R513 to R544). -/
structure Links where
  ports : List LinkPort := List.replicate 4 {}
  enumerated : Bool := false
  id : Nat := 0
  depth : Nat := 0
  last : Nat := 0
  /-- Messages accepted and kept, oldest first (R526, R542). -/
  inbox : List LinkMsg := []
  workers : List Worker := []
  /-- Next free ID while enumerating (R523). -/
  enumNext : Nat := 0
  /-- Port handled now while enumerating, plus 1; 0 idle. -/
  enumPort : Nat := 0
  /-- Port and source through which this worker's ENUM came. -/
  enumFrom : Nat := 0
  /-- The CONSTELLATION_ENUM command in progress. -/
  enumCmd : Option (Nat × Nat) := none
  unassigned : Nat := 0
  bcast : List Broadcast := []
  bcastFailed : Nat := 0
  bcastFirst : Nat := 0
  token : Nat := 0
  /-- CONSTELLATION_SEVERITY in progress: its command, instant and target. -/
  sevCmd : Option (Nat × Nat) := none
  sevAt : Nat := 0
  sevTarget : Nat := 0
  sevToken : Nat := 0
  /-- Workers that CONSTELLATION_SEVERITY found out of reach. -/
  sevMissed : Nat := 0
  /-- Relay rates admitted by the manager. -/
  relays : List RelayRate := []
  /-- Worker: relay writes that await a grant, by port: the command. -/
  relayWait : List (Nat × Nat × Nat) := []
  /-- FAULT bookkeeping of a worker by source: instant of the last, and number not sent (R540). -/
  faultAt : Tbl Nat := []
  faultHeld : Tbl Nat := []
  /-- FIRST was lost at a hold expiry (R541): the FAULT body that carried it. -/
  firstLost : Option (List Byte) := none
  /-- Manager: bytes of relayed frames under way, by source and port (R527). -/
  relayRx : Tbl (List Byte) := []
  /-- Last offset measured on the up port, signed ns (LNK_OFFSET). -/
  offset : Int := 0
  /-- Largest absolute offset of the interval (R544). -/
  offsetMax : Nat := 0
  deriving DecidableEq, Repr

end Sys2Proof.Machine
end

