-- ==== Sys2Proof/Machine/UnitsProxy.lean ====
section
/-! DEFINITION. State of the proxy path (07): developer settings, developed frames, LUT banks, outputs and access units on their
way to their destinations. Every field's initial value is its reset value. -/

namespace Sys2Proof.Machine
open Sys2Proof

/-- Developer settings as a tick latches them (R210, R215): PRX_BLACK, PRX_WB_RG, PRX_WB_B, PRX_MTX0 to 4 and the LUT bank. -/
structure DevSet where
  black : Word := 0
  wbRg : Word := 0x10001000
  wbB : Word := 0x1000
  mtx : List Word := [0x1000, 0, 0x1000, 0, 0x1000]
  bank : Nat := 0
  deriving DecidableEq, Repr

/-- A frame to be developed (R207 to R211), kept until every output has taken it. -/
structure DevFrame where
  stream : Nat
  frame : Nat
  stamp : List Byte
  /-- Sidereal instant of its tick. -/
  at_ : Nat
  /-- Its number among the developed frames of the run. -/
  index : Nat
  settings : DevSet
  cfa : Nat
  depth : Nat
  height : Nat
  tileW : List Nat
  /-- Photosites of the bands that the developer has read, by 1,024 × tile + band. -/
  read : Tbl (List Nat) := []
  /-- Every band has been read. -/
  whole : Bool := false
  /-- Skipped for every output (R209). -/
  skipped : Bool := false
  /-- Outputs that have still to take it: 0 and 1 HEVC, 2 monitor. -/
  outs : List Nat := []
  deriving DecidableEq, Repr

/-- One output (R207, R220, R223, R228). -/
structure ProxyOut where
  /-- Pictures that it has made in this run. -/
  pictures : Nat := 0
  /-- A destination has dropped an access unit since (R220). -/
  dropped : Bool := false
  /-- Rows of the previous picture of the monitor, as parts of a delivery (R209). -/
  last : List (List Byte) := []
  /-- Bits in the coded picture buffer, and the sidereal instant at which it was reckoned (R223). -/
  cpb : Nat := 0
  cpbAt : Nat := 0
  deriving DecidableEq, Repr

/-- A destination of an access unit or picture (R229). -/
inductive ProxyDest where
  /-- Egress flow context on Ethernet port `port`. -/
  | eth (port flow : Nat)
  /-- Host receive ring. -/
  | ring (id : Nat)
  /-- The magazine proxy region. -/
  | magazine
  deriving DecidableEq, Repr

/-- An access unit or picture in its multicast buffers, with the destinations that have not ended (R229, R279). -/
structure Delivery where
  out : Nat
  frame : Nat
  /-- Sidereal instant of the tick whose time is the RTP timestamp (R230). -/
  at_ : Nat
  idr : Bool
  /-- Pool and buffers that hold it. -/
  pool : Nat
  bufs : List Nat
  /-- NAL units of an access unit (R218), or SRD headers and data of a monitor picture (R227). -/
  parts : List (List Byte)
  dests : List ProxyDest
  deriving DecidableEq, Repr

/-- The proxy path. -/
structure Proxy where
  latched : DevSet := {}
  /-- LUT banks: 287,496 node bytes each; none holds the identity (R215). -/
  luts : List (Option (List Byte)) := [none, none]
  bank : Nat := 0
  lutPending : Bool := false
  /-- First frame of the source's run; none before a run. -/
  runFirst : Option Nat := none
  /-- Developed frames of the run, skipped ones included. -/
  developed : Nat := 0
  frames : List DevFrame := []
  outs : List ProxyOut := List.replicate 3 {}
  deliveries : List Delivery := []
  /-- Host rings and flows that destinations named last, by output: ring ID, then flow context IDs. -/
  named : Tbl (List Nat) := []
  /-- The context has been destroyed: outputs stop at the next tick (R446). -/
  stopping : Bool := false
  /-- PRX_LAT. -/
  lat : Nat := 0
  deriving DecidableEq, Repr

end Sys2Proof.Machine
end

