-- ==== Sys2Proof/Machine/State.lean ====
section
/-! DEFINITION. The state of the ZB9160: plain data, every register, buffer, counter, mode and pin that the spec gives the
block, and the queue of the commands that wait. -/

namespace Sys2Proof.Machine
open Sys2Proof

/-- Why the machine stops. -/
inductive Fault where
  /-- A supply other than VDD_AON left its range with RESET_N high: the spec leaves behaviour undefined until the next
  power-on or external reset (R580). Raised by every command but those two resets. Safe. -/
  | undefinedUntilReset
  deriving DecidableEq, Repr

/-- Why a command has no meaning. -/
inductive Refusal where
  /-- The command is not modelled yet. Raised by arms of exec only. Safe. -/
  | notModelled (mnemonic : String)
  deriving DecidableEq, Repr

/-- What left the device, newest first in State: the model's own record of its outputs. -/
inductive Emission where
  /-- An MSI-X message (R397). -/
  | msix (vector : Nat)
  /-- The value a BAR0 read returned. -/
  | bar0 (off value : Nat)
  /-- An Ethernet frame on a port's PHY. -/
  | eth (port : Nat) (frame : List Byte)
  /-- A PTP message of a port: message type as IEEE 1588 numbers it, sequence number, time carried. -/
  | ptp (port type seqId time : Nat)
  /-- A flit on a link: its type, class, LAST, SEQ, ACK, NAK, credits returned, and the rest. -/
  | flit (port : Nat) (flit : Flit) (ack : Nat) (nak : Bool) (crdPool crdCount : Nat)
  /-- A claim word read by a control core (R559). -/
  | claim (core word : Nat)
  deriving DecidableEq, Repr

/-- Memories that keep bytes by address, each in canonical form. -/
structure Mem where
  /-- Host memory as the device reaches it over PCI Express; an unlisted byte reads 0. -/
  host : List Host.Cell := []
  /-- DRAM (R463); an unlisted byte reads 0. -/
  dram : List Host.Cell := []
  /-- Octal SPI NOR (R370); an unlisted byte reads 0xFF. -/
  nor : List Host.Cell := []
  /-- MRAM entries of 64 bytes (R563); an unlisted entry reads as at manufacture. -/
  mram : Tbl (List Byte) := []
  /-- Magazine carriers that have been seated, by their number, with their EEPROMs and media (R287, R298). -/
  carriers : List Carrier := []
  deriving DecidableEq, Repr

/-- The device. -/
structure Dev where
  /-- Crystal time since power-on, ns. -/
  clk : Nat := 0
  /-- Draws made so far from Config.free: the model's own field. -/
  free : Nat := 0
  /-- Behaviour is undefined until a power-on or external reset (R580). -/
  undef : Bool := false
  /-- Power has been lost and has not returned (R331). -/
  off : Bool := false
  /-- SEQ of the next event stamp (R12). -/
  seq : Nat := 0
  /-- Registers that hold a value of their own, by feature and offset; unlisted: the reset value. -/
  regs : Tbl Word := []
  /-- Statistics counters of the current interval, by snapshot offset (R31). -/
  stats : Tbl Nat := []
  /-- The snapshot bank shown and the hidden copy (R34), by offset. -/
  snap : Tbl Word := []
  snapHidden : Tbl Word := []
  boot : Boot := {}
  otp : Otp := {}
  /-- The staged image (R435): its bytes by offset; none discarded. -/
  staged : Option (List Host.Cell) := none
  host : HostIf := {}
  flt : Flt := {}
  intr : Intr := {}
  twk : Twinkle := {}
  bbx : Bbx := {}
  sid : Sidereal := {}
  tick : TickUnit := {}
  eth : List EthPort := List.replicate 2 {}
  /-- Crystal instant of the last refill of the buckets (R503). -/
  refillAt : Nat := 0
  shapers : Tbl Bucket := []
  policers : Tbl Bucket := []
  link : Links := {}
  fab : Fabric := {}
  pools : Pools := {}
  dram : List DramCtl := List.replicate 4 {}
  wports : List WritePort := List.replicate 4 {}
  dma : List DmaCh := List.replicate 32 {}
  dmaEvents : Nat := 0
  power : Power := {}
  pins : Pins := {}
  ctxs : Tbl (Option Ctx) := []
  /-- Capture streams by stream index (R444). -/
  caps : Tbl (Option Cap) := []
  prism : Prism := {}
  codec : Codec := {}
  seqr : Sequencer := {}
  proxy : Proxy := {}
  mags : List MagPort := List.replicate 2 {}
  /-- What left the device, newest first: the model's own field. -/
  sent : List Emission := []
  deriving DecidableEq, Repr

/-- The block without its command queue. -/
structure Mach where
  dev : Dev := {}
  mem : Mem := {}
  deriving DecidableEq, Repr

/-- The state of the block: the machine and the commands that wait, first in, first out. -/
structure State where
  m : Mach := {}
  pending : List Instr := []
  deriving DecidableEq, Repr

/-- The machine right after a power-on reset with straps ROLE 00 and BOOT_SRC 00. -/
def State.reset : State := {}

end Sys2Proof.Machine
end

