-- ==== Sys2Proof/Machine/Ops.lean ====
section
/-! DEFINITION. The named operations over the machine that every unit uses: registers, statistics, time, event stamps,
completions, async events and the black-box queue. -/

namespace Sys2Proof.Machine
open Sys2Proof

/-- Replace element `i` of a list by its image. -/
def modAt {α : Type} : List α → Nat → (α → α) → List α
  | [], _, _ => []
  | x :: r, 0, f => f x :: r
  | x :: r, i + 1, f => x :: modAt r i f

/-- `f` where `c` holds, nothing otherwise: a step whose condition does not hold changes nothing. -/
def onlyIf {α : Type} (c : Bool) (f : α → α) (x : α) : α := if c then f x else x

/-- `f` on a value that is present. -/
def withSome {α β : Type} (o : Option α) (f : α → β → β) (x : β) : β :=
  match o with
  | some a => f a x
  | none => x

/-! ### Changing one unit -/

/-- Change the host unit alone. -/
def Dev.onHost (d : Dev) (f : HostIf → HostIf) : Dev := { d with host := f d.host }

/-- Change the boot unit alone. -/
def Dev.onBoot (d : Dev) (f : Boot → Boot) : Dev := { d with boot := f d.boot }

/-- Change the flt unit alone. -/
def Dev.onFlt (d : Dev) (f : Flt → Flt) : Dev := { d with flt := f d.flt }

/-- Change the intr unit alone. -/
def Dev.onIntr (d : Dev) (f : Intr → Intr) : Dev := { d with intr := f d.intr }

/-- Change the twk unit alone. -/
def Dev.onTwk (d : Dev) (f : Twinkle → Twinkle) : Dev := { d with twk := f d.twk }

/-- Change the bbx unit alone. -/
def Dev.onBbx (d : Dev) (f : Bbx → Bbx) : Dev := { d with bbx := f d.bbx }

/-- Change the sid unit alone. -/
def Dev.onSid (d : Dev) (f : Sidereal → Sidereal) : Dev := { d with sid := f d.sid }

/-- Change the tick unit alone. -/
def Dev.onTick (d : Dev) (f : TickUnit → TickUnit) : Dev := { d with tick := f d.tick }

/-- Change the link unit alone. -/
def Dev.onLink (d : Dev) (f : Links → Links) : Dev := { d with link := f d.link }

/-- Change the fab unit alone. -/
def Dev.onFab (d : Dev) (f : Fabric → Fabric) : Dev := { d with fab := f d.fab }

/-- Change the pools unit alone. -/
def Dev.onPools (d : Dev) (f : Pools → Pools) : Dev := { d with pools := f d.pools }

/-- Change the power unit alone. -/
def Dev.onPower (d : Dev) (f : Power → Power) : Dev := { d with power := f d.power }

/-- Change element `i` of eth alone. -/
def Dev.onEth (d : Dev) (i : Nat) (f : EthPort → EthPort) : Dev := { d with eth := modAt d.eth i f }

/-- Change element `i` of dram alone. -/
def Dev.onDram (d : Dev) (i : Nat) (f : DramCtl → DramCtl) : Dev := { d with dram := modAt d.dram i f }

/-- Change element `i` of wports alone. -/
def Dev.onWport (d : Dev) (i : Nat) (f : WritePort → WritePort) : Dev := { d with wports := modAt d.wports i f }

/-- Change element `i` of dma alone. -/
def Dev.onDma (d : Dev) (i : Nat) (f : DmaCh → DmaCh) : Dev := { d with dma := modAt d.dma i f }

/-- Change link port `p` alone. -/
def Dev.onPort (d : Dev) (p : Nat) (f : LinkPort → LinkPort) : Dev := d.onLink (fun l => { l with ports := modAt l.ports p f })

/-- Change pool `p` alone. -/
def Dev.onPool (d : Dev) (p : Nat) (f : Pool → Pool) : Dev := d.onPools (fun l => { l with pool := modAt l.pool p f })

/-- Change the prism alone. -/
def Dev.onPrism (d : Dev) (f : Prism → Prism) : Dev := { d with prism := f d.prism }

/-- Change the codec alone. -/
def Dev.onCodec (d : Dev) (f : Codec → Codec) : Dev := { d with codec := f d.codec }

/-- Change the sequencer alone. -/
def Dev.onSeq (d : Dev) (f : Sequencer → Sequencer) : Dev := { d with seqr := f d.seqr }

/-- Change the proxy path alone. -/
def Dev.onProxy (d : Dev) (f : Proxy → Proxy) : Dev := { d with proxy := f d.proxy }

/-- Change magazine port `m` alone. -/
def Dev.onMag (d : Dev) (m : Nat) (f : MagPort → MagPort) : Dev := { d with mags := modAt d.mags m f }

/-- Magazine port `m`. -/
def Dev.mag (d : Dev) (m : Nat) : MagPort := d.mags.getD m {}

/-- Link port `p`. -/
def Dev.port (d : Dev) (p : Nat) : LinkPort := d.link.ports.getD p {}

/-- Ethernet port `p`. -/
def Dev.ethPort (d : Dev) (p : Nat) : EthPort := d.eth.getD p {}

/-- Pool `p`. -/
def Dev.poolAt (d : Dev) (p : Nat) : Pool := d.pools.pool.getD p {}

/-- DMA channel `c`. -/
def Dev.dmaCh (d : Dev) (c : Nat) : DmaCh := d.dma.getD c {}

/-- Control core `c`. -/
def Intr.core (n : Intr) (c : Nat) : CtlCore := n.cores.getD c {}

/-- Change control core `c` alone. -/
def Dev.onCore (d : Dev) (c : Nat) (f : CtlCore → CtlCore) : Dev := d.onIntr (fun n => { n with cores := modAt n.cores c f })

/-- Whether power domain `i` is on (PWR_STATE). -/
def Dev.powered (d : Dev) (i : Nat) : Bool := d.power.on.getLsbD i

/-- Whether power domain `i` quiesces (R484). -/
def Dev.quiescing (d : Dev) (i : Nat) : Bool := d.power.quiescing.getLsbD i

/-- Whether an engine of power domain `i` takes new work: on and not quiescing (R484). -/
def Dev.takesWork (d : Dev) (i : Nat) : Bool := d.powered i && !d.quiescing i

/-! ### Registers -/

/-- The register rows of a feature block (R432). -/
def rowsOf (feat : Nat) : List RegRow :=
  match feat with
  | 0x01 => rowsTime
  | 0x10 => rowsPrm
  | 0x11 => rowsPxe
  | 0x12 => rowsBq
  | 0x13 => rowsEnt
  | 0x14 => rowsAcbUnit
  | 0x15 => rowsAcbStream
  | 0x16 => rowsMir
  | 0x17 => rowsPrx
  | 0x18 => rowsLut
  | 0x19 => rowsSeq
  | 0x1A => rowsFab
  | 0x1B => rowsPool
  | 0x1C => rowsFlh
  | 0x1D => rowsMag
  | 0x1E => rowsDrc
  | 0x1F => rowsDma
  | 0x20 => rowsPwr
  | 0x21 => rowsEth
  | 0x22 => rowsLnk
  | _ => []

/-- Whether a row holds the dword at `off`. -/
def RegRow.has (r : RegRow) (off : Nat) : Bool :=
  decide (r.off ≤ off) && decide ((off - r.off) % r.stride = 0) && decide ((off - r.off) / r.stride < r.cnt)

/-- The row of a dword; none where no register stands (R10). -/
def rowAt (feat off : Nat) : Option RegRow := (rowsOf feat).find? (fun r => r.has off)

/-- Key of a register in the file. -/
def regKey (feat off : Nat) : Nat := 2 ^ 20 * feat + off % 2 ^ 20

/-- What an unlisted register reads as: its reset value (R8), 0 where none stands (R10). -/
def regDefault (key : Nat) : Word :=
  match rowAt (key / 2 ^ 20) (key % 2 ^ 20) with
  | some r => word r.reset
  | none => 0

/-- The dword held for a register. -/
def Dev.reg (d : Dev) (feat off : Nat) : Word := Tbl.get regDefault d.regs (regKey feat off)

/-- Hold a dword for a register. -/
def Dev.setReg (d : Dev) (feat off : Nat) (v : Word) : Dev :=
  { d with regs := Tbl.set regDefault d.regs (regKey feat off) v }

/-- The number in a 64-bit register. -/
def Dev.reg64 (d : Dev) (feat off : Nat) : Nat := (d.reg feat off).toNat + 2 ^ 32 * (d.reg feat (off + 4)).toNat

/-- Hold a number in a 64-bit register. -/
def Dev.setReg64 (d : Dev) (feat off : Nat) (v : Nat) : Dev :=
  (d.setReg feat off (lo32 v)).setReg feat (off + 4) (hi32 v)

/-- Add to a saturating counter register. -/
def Dev.bump (d : Dev) (feat off : Nat) (n : Nat := 1) : Dev :=
  d.setReg feat off (word (satAdd32 (d.reg feat off).toNat n))

/-- Set one bit of a register. -/
def Dev.setBit (d : Dev) (feat off i : Nat) (b : Bool) : Dev :=
  d.setReg feat off (setFld (d.reg feat off) i 1 (b2n b))

/-! ### Statistics (R31 to R36) -/

/-- Add to a statistics counter of the current interval. -/
def Dev.count (d : Dev) (off : Nat) (n : Nat := 1) : Dev :=
  { d with stats := Tbl.set (fun _ => 0) d.stats off (Tbl.get (fun _ => 0) d.stats off + n) }

/-- A statistics counter of the current interval. -/
def Dev.stat (d : Dev) (off : Nat) : Nat := Tbl.get (fun _ => 0) d.stats off

/-- Raise a maximum kept for a level quantity (R33). -/
def Dev.countMax (d : Dev) (off v : Nat) : Dev :=
  if d.stat off < v then { d with stats := Tbl.set (fun _ => 0) d.stats off v } else d

/-- Offset of a counter in tile record t (R36). -/
def tileStat (t c : Nat) : Nat := 0x7100 + 64 * t + c

/-- Offset of a counter in capture-stream record s (R36). -/
def streamStat (s c : Nat) : Nat := 0x7800 + 64 * s + c

/-! ### Free values -/

/-- Draw a value that the spec leaves open. -/
def Dev.drawn (d : Dev) : Nat := Config.free d.free

/-- The state after a draw. -/
def Dev.afterDraw (d : Dev) : Dev := { d with free := d.free + 1 }

/-! ### Time (R488 to R492) -/

/-- What a slew in progress has added at crystal instant `clk`, units of 2^-32 s. -/
def Slew.added (w : Slew) (clk : Nat) : Int :=
  let part : Nat := 2 ^ 32 * ((clk - w.from_) * w.ppb) / 10 ^ 18
  if part ≥ w.offset.natAbs then w.offset else if w.offset < 0 then - (part : Int) else (part : Int)

/-- The sidereal counter, units of 2^-32 s (SDT_NOW). -/
def Dev.sdt (d : Dev) : Nat :=
  match d.sid.slew with
  | none => d.sid.und
  | some w => ((d.sid.und : Int) + w.added d.clk).toNat

/-- Units of 10^-18 of 2^-32 s that the counter gains each crystal nanosecond. -/
def Sidereal.perNs (t : Sidereal) : Nat := 2 ^ 32 * ((10 ^ 9 + t.ppb).toNat)

/-- Let `dt` ns of the crystal pass. -/
def Dev.advance (d : Dev) (dt : Nat) : Dev :=
  let acc := d.sid.frac + dt * d.sid.perNs
  { d with clk := d.clk + dt, sid := { d.sid with und := d.sid.und + acc / 10 ^ 18, frac := acc % 10 ^ 18 } }

/-- Let time pass until a crystal instant, if it is still ahead. -/
def Dev.advanceTo (d : Dev) (t : Nat) : Dev := if d.clk < t then d.advance (t - d.clk) else d

/-- Crystal nanoseconds until the counter reaches sidereal instant `t`, without a slew; 0 if it has. -/
def Dev.nsUntil (d : Dev) (t : Nat) : Nat :=
  let now := d.sdt
  if t ≤ now then 0
  else
    let need := 10 ^ 18 * (t - now) - d.sid.frac
    let per := match d.sid.slew with
      | none => d.sid.perNs
      | some w => if w.offset < 0 then d.sid.perNs - 2 ^ 32 * w.ppb else d.sid.perNs + 2 ^ 32 * w.ppb
    ceilDiv need per

/-- Let time pass until a sidereal instant, if it is still ahead. -/
def Dev.advanceToSid (d : Dev) (t : Nat) : Dev := d.advance (d.nsUntil t)

/-- Units of 2^-32 s in a number of nanoseconds. -/
def unitsOfNs (ns : Nat) : Nat := 2 ^ 32 * ns / 10 ^ 9

/-- Nanoseconds, rounded to the nearest, in a number of units of 2^-32 s (the 1 ns resolution of R600). -/
def nsOfUnits (u : Nat) : Nat := (2 ^ 31 + 10 ^ 9 * u) / 2 ^ 32

/-! ### Event stamps (R12 to R14) -/

/-- DEVICE of every stamp: the enumerated ID, 0 otherwise (R12, R524). -/
def Dev.deviceId (d : Dev) : Nat := if d.link.enumerated then d.link.id else 0

/-- FRAME of every stamp (R12, R21). -/
def Dev.frameNow (d : Dev) : Nat := if d.tick.begun then d.tick.now else 0

/-- The 16 bytes of an event stamp made now (R12). -/
def Dev.stamp (d : Dev) : List Byte :=
  leBytes 16 (2 ^ 64 * (d.sdt % 2 ^ 64) + 2 ^ 32 * d.frameNow + 2 ^ 20 * d.deviceId + d.seq)

/-- SEQ increments for each stamped record and wraps from 0xF_FFFF to 0 (R12). -/
def Dev.stamped (d : Dev) : Dev := { d with seq := (d.seq + 1) % 2 ^ 20 }

/-- TIME bits [47:16] (R14). -/
def Dev.stamp32 (d : Dev) : Nat := bits d.sdt 16 32

/-! ### Captures -/

/-- Capture stream `s`. -/
def Dev.cap (d : Dev) (s : Nat) : Option Cap := Tbl.get (fun _ => none) d.caps s

/-- Put capture stream `s`. -/
def Dev.setCap (d : Dev) (s : Nat) (c : Option Cap) : Dev := { d with caps := Tbl.set (fun _ => none) d.caps s c }

/-- Change capture stream `s` where there is one. -/
def Dev.modCap (d : Dev) (s : Nat) (f : Cap → Cap) : Dev :=
  match d.cap s with
  | some c => d.setCap s (some (f c))
  | none => d

/-- The capture streams in use, by rising index. -/
def Dev.streams (d : Dev) : List (Nat × Cap) := d.caps.filterMap (fun e => e.2.map (fun c => (e.1, c)))

/-- Whether a stream is armed or running. -/
def Cap.active (c : Cap) : Bool := decide (c.run ≠ .idle)

/-- Whether any capture context is armed or running. -/
def Dev.anyCapture (d : Dev) : Bool := d.streams.any (fun e => e.2.active)

/-! ### Black-box queue (R550, R564 to R567) -/

/-- The first 56 bytes of an entry (R564). -/
def bbxBody (stamp : List Byte) (kind cls code arg : Nat) (data : List Byte) : List Byte :=
  stamp ++ leBytes 1 kind ++ leBytes 1 cls ++ leBytes 2 code ++ leBytes 4 arg ++ padTo 32 data

/-- Entries the first-fault region holds or will hold (R566). -/
def Dev.firstCount (d : Dev) : Nat :=
  min 256 (d.bbx.firstNo + (d.bbx.queue.filter (fun e => decide (e.region = .first))).length)

/-- Queue an entry; one that finds the queue full is lost and counted (R567). -/
def Dev.bbxPut (d : Dev) (region : BbxRegion) (body : List Byte) : Dev :=
  if d.bbx.queue.length < 64 then
    { d with bbx := { d.bbx with queue := d.bbx.queue ++ [{ region := region, body := body }] } }
  else
    { d with bbx := { d.bbx with lostCnt := satAdd32 d.bbx.lostCnt 1, lostSince := d.bbx.lostSince + 1 } }

/-- Make a stamped entry of the recorder (R564). -/
def Dev.record (d : Dev) (region : BbxRegion) (kind cls code arg : Nat) (data : List Byte := []) : Dev :=
  (d.bbxPut region (bbxBody d.stamp kind cls code arg data)).stamped

/-! ### Completions (R413, R429, R433) -/

namespace Status
def ok : Nat := 0x0000
def okPartial : Nat := 0x0001
def invalidOpcode : Nat := 0x0101
def invalidField : Nat := 0x0102
def invalidQueue : Nat := 0x0103
def busyQuiesce : Nat := 0x0201
def alreadyComplete : Nat := 0x0202
def aborted : Nat := 0x0203
def ctxExhausted : Nat := 0x0301
def poolEmpty : Nat := 0x0302
def admissionDenied : Nat := 0x0303
def poolDoubleFree : Nat := 0x0401
def poolNotOwner : Nat := 0x0402
def poolBadPointer : Nat := 0x0403
def magNotMounted : Nat := 0x0501
def magWriteProtected : Nat := 0x0502
def magFull : Nat := 0x0503
def magUncorrectable : Nat := 0x0504
def magRemoved : Nat := 0x0505
def signatureBad : Nat := 0x0601
def rollbackRefused : Nat := 0x0602
def linkDown : Nat := 0x0701
def refMissing : Nat := 0x0801
def streamDamaged : Nat := 0x0802
def minimalMode : Nat := 0x0F01
end Status

/-- RETRY of a status (R428). -/
def retryOf (status : Nat) : Bool := [0x0201, 0x0203, 0x0301, 0x0302, 0x0701].contains status

/-- What an error log record says beside the status (R433). -/
structure ErrInfo where
  field : Nat := 0xFFFF
  bit : Nat := 0
  needed : Nat := 0
  available : Nat := 0
  deriving DecidableEq, Repr

/-- Put a record at the head of a log page that keeps `cap` of them (R433). -/
def LogPage.put (p : LogPage) (cap : Nat) (r : List Byte) : LogPage :=
  if p.records.length < cap then { p with records := r :: p.records }
  else { p with records := r :: p.records.take (cap - 1), lost := p.lost + 1 }

/-- A command in flight. -/
def Dev.cmd (d : Dev) (sq cid : Nat) : Option Cmd :=
  d.host.cmds.find? (fun c => decide (c.sq = sq) && decide (c.cid = cid) && decide (c.phase ≠ .completing))

/-- Change a command in flight. -/
def Dev.modCmd (d : Dev) (sq cid : Nat) (f : Cmd → Cmd) : Dev :=
  let here : Cmd → Bool := fun c => decide (c.sq = sq) && decide (c.cid = cid) && decide (c.phase ≠ .completing)
  { d with host := { d.host with cmds := modifyFirst here f d.host.cmds } }

/-- The CQ a submission queue completes to. -/
def Dev.cqOf (d : Dev) (sq : Nat) : Nat :=
  match Tbl.get (fun _ => none) d.host.sqs sq with
  | some q => q.cq
  | none => 0

/-- End a command: its completion enters the completion stage, with an error log record where the status asks for one. -/
def Dev.complete (d : Dev) (sq cid status : Nat) (result : Nat := 0) (e : ErrInfo := {}) : Dev :=
  match d.cmd sq cid with
  | none => d
  | some c =>
    let bad := decide (status ≠ 0 ∧ status ≠ 1)
    let rec_ := d.stamp ++ leBytes 2 sq ++ leBytes 2 cid ++ leBytes 1 c.opcode ++ [0] ++ leBytes 2 status ++
      leBytes 2 e.field ++ leBytes 1 e.bit ++ zeros 5 ++ leBytes 8 e.needed ++ leBytes 8 e.available ++ zeros 16
    let d1 := d.modCmd sq cid (fun c => { c with phase := .completing })
    let done : Compl := { sq := sq, cid := cid, cq := d.cqOf sq, status := status, result := result % 2 ^ 32,
                          detail := bad, retry := retryOf status }
    let log := if bad then d1.host.logError.put 256 rec_ else d1.host.logError
    let d2 := { d1 with host := { d1.host with stage := d1.host.stage ++ [done], logError := log } }
    if bad then d2.stamped else d2

/-- Complete the newest way for an event completion, which sets DETAIL when the event log holds it (R425). -/
def Dev.completeEvent (d : Dev) (cid result : Nat) : Dev :=
  let d1 := d.modCmd 0 cid (fun c => { c with phase := .completing })
  let done : Compl := { sq := 0, cid := cid, cq := 0, status := 0, result := result, detail := true, retry := false }
  { d1 with host := { d1.host with stage := d1.host.stage ++ [done] } }

/-! ### Async events (R423 to R425) -/

/-- RESULT of an event (R425). -/
def AsyncEvent.result (e : AsyncEvent) : Nat := (2 ^ 24 * e.type + 2 ^ 16 * e.sub + e.arg % 2 ^ 16) % 2 ^ 32

/-- An event ends the oldest outstanding request, or waits, or is counted as lost (R424); it enters the event log. -/
def Dev.postEvent (d : Dev) (type sub arg : Nat) : Dev :=
  let e : AsyncEvent := { type := type, sub := sub, arg := arg % 2 ^ 16 }
  let log := d.host.logEvent.put 1024 (d.stamp ++ leBytes 4 e.result ++ zeros 12)
  let d0 := Dev.stamped { d with host := { d.host with logEvent := log } }
  match d0.host.aer with
  | cid :: rest => Dev.completeEvent { d0 with host := { d0.host with aer := rest } } cid e.result
  | [] =>
    if d0.host.events.contains e then d0
    else if d0.host.events.length < 64 then { d0 with host := { d0.host with events := d0.host.events ++ [e] } }
    else { d0 with host := { d0.host with eventsLost := d0.host.eventsLost + 1 } }

/-- Record an output of the device. -/
def Dev.emit (d : Dev) (e : Emission) : Dev := { d with sent := e :: d.sent }

/-- Send an MSI-X vector, or set its pending bit while its entry is masked (R397). -/
def Dev.msix (d : Dev) (v : Nat) : Dev :=
  match d.host.msix[v]? with
  | none => d
  | some t =>
    if t.masked then
      let tbl := modAt d.host.msix v (fun t => { t with pba := true })
      { d with host := { d.host with msix := tbl } }
    else d.emit (.msix v)

end Sys2Proof.Machine
end

