-- ==== Sys2Proof/Machine/Intr.lean ====
section
/-! DEFINITION. The interrupt controller (R555 to R562): firing, arbitration, claims, completions, host sources. -/

namespace Sys2Proof.Machine
open Sys2Proof

/-- Reset setting of a source (R569): zero, and for the host sources HOST with their fixed sense. -/
def intrDefault (id : Nat) : Nat :=
  if id = 1012 ∨ id = 1013 then 0x5000
  else if 1008 ≤ id ∧ id ≤ 1015 then 0x4000
  else 0

/-- Setting halfword of a source. -/
def Intr.set (n : Intr) (id : Nat) : Nat := Tbl.get intrDefault n.setting id

def Intr.en (n : Intr) (id : Nat) : Bool := bit (n.set id) 15
def Intr.sense (n : Intr) (id : Nat) : Nat := bits (n.set id) 12 2
def Intr.mask (n : Intr) (id : Nat) : Nat := bits (n.set id) 8 4
def Intr.prio (n : Intr) (id : Nat) : Nat := bits (n.set id) 0 8

/-- Level of a priority (R557). -/
def Intr.levelOf (n : Intr) (prio : Nat) : Nat := prio >>> (8 - n.levelBits)

/-- Rank of a priority (R557). -/
def Intr.rankOf (n : Intr) (prio : Nat) : Nat := prio % 2 ^ (8 - n.levelBits)

/-- Order of urgency: highest level, then highest rank, then lowest ID (R557). -/
def Intr.urgency (n : Intr) (id : Nat) : Nat :=
  1024 * (256 * n.levelOf (n.prio id) + n.rankOf (n.prio id)) + (1023 - id)

/-- The core a pending source is offered to, and whether it must be woken (R558). -/
def Intr.choose (n : Intr) (id : Nat) : Nat × Bool :=
  let inMask := (List.range 4).filter (fun c => bit (n.mask id) c && (n.core c).powered)
  let awake := inMask.filter (fun c => (n.core c).awake)
  match argMin (fun c => (n.core c).level) awake with
  | some c => (c, false)
  | none =>
    match inMask with
    | c :: _ => (c, true)
    | [] => (0, false)

/-- Offer every pending core source anew (R558); host sources go to no core (R561). -/
def Intr.arbitrateFrom (n : Intr) : List Nat → Intr
  | [] => n
  | id :: r =>
    let ch := n.choose id
    let n1 := if ch.2 then { n with cores := modAt n.cores ch.1 (fun c => { c with awake := true }) } else n
    Intr.arbitrateFrom { n1 with offers := n1.offers ++ [(id, ch.1)] } r

/-- An arbitration over every pending source (R558). -/
def Intr.arbitrate (n : Intr) : Intr :=
  Intr.arbitrateFrom { n with offers := [] } (n.pending.filter (fun id => decide (id < 1008)))

/-- Whether a source is active on some core. -/
def Intr.isActive (n : Intr) (id : Nat) : Bool := n.active.any (fun e => decide (e.1 = id))

/-- A source that is enabled fires: pending, a repeat mark while it is active, merged while it is pending (R559). -/
def Intr.fire (n : Intr) (id : Nat) : Intr :=
  if !n.en id then n
  else if n.isActive id then
    if n.asserted.contains id then n else { n with repeats := insertNat id n.repeats }
  else if n.pending.contains id then n
  else { n with pending := insertNat id n.pending }.arbitrate

/-- A level source is asserted (R556). -/
def Intr.assert (n : Intr) (id : Nat) : Intr :=
  if n.asserted.contains id then n else { n with asserted := insertNat id n.asserted }.fire id

/-- A level source is de-asserted: a pending state not yet claimed clears, but for a host source, which stays pending
until it is acknowledged (R560, R562). -/
def Intr.deassert (n : Intr) (id : Nat) : Intr :=
  let n1 := { n with asserted := n.asserted.filter (fun x => decide (x ≠ id)) }
  if n.asserted.contains id && decide (id < 1008) then
    { n1 with pending := n1.pending.filter (fun x => decide (x ≠ id)) }.arbitrate
  else n1

/-- Put a level source at a level. -/
def Intr.level (n : Intr) (id : Nat) (b : Bool) : Intr := if b then n.assert id else n.deassert id

/-- The most urgent source offered to a core. -/
def Intr.best (n : Intr) (core : Nat) : Option Nat :=
  argMax n.urgency ((n.offers.filter (fun o => decide (o.2 = core))).map (fun o => o.1))

/-- Recompute a core's current level from its active sources (R557, R560). -/
def Intr.relevel (n : Intr) (core : Nat) : Intr :=
  let act := (n.active.filter (fun e => decide (e.2 = core))).map (fun e => e.1)
  let top := argMax n.prio act
  let cores := modAt n.cores core (fun c =>
    match top with
    | some id => { c with level := n.levelOf (n.prio id) + 1, current := n.prio id }
    | none => { c with level := 0, current := 0 })
  { n with cores := cores }

/-- A claim by a core: the source claimed, if any, and the controller after it (R559). -/
def Intr.claim (n : Intr) (core : Nat) : Option Nat × Intr :=
  match n.best core with
  | none => (none, { n with spurious := satAdd32 n.spurious 1 })
  | some id =>
    let n1 := { n with pending := n.pending.filter (fun x => decide (x ≠ id)), active := n.active ++ [(id, core)] }
    let n2 := { n1 with cores := modAt n1.cores core (fun c => { c with lastId := id }) }
    (some id, (n2.relevel core).arbitrate)

/-- A completion by a core (R559, R560): a source not active there is counted; a level source is sampled again; a repeat
mark becomes pending; a cleared EN re-pends nothing. -/
def Intr.finish (n : Intr) (core id : Nat) (nothing : Bool) : Intr :=
  if n.active.contains (id, core) then
    let n0 := if nothing then { n with spurious := satAdd32 n.spurious 1 } else n
    let n1 := { n0 with active := n0.active.filter (fun e => decide (e ≠ (id, core))) }
    let again := n1.en id && (n1.asserted.contains id || n1.repeats.contains id)
    let n2 := { n1 with repeats := n1.repeats.filter (fun x => decide (x ≠ id)) }
    let n3 := if again then { n2 with pending := insertNat id n2.pending } else n2
    (n3.relevel core).arbitrate
  else { n with badComplete := satAdd32 n.badComplete 1 }

/-- A new setting of a source by firmware (R556, R560): a change of SENSE clears pending, a cleared EN clears pending, and
an arbitration follows. -/
def Intr.configure (n : Intr) (id v : Nat) : Intr :=
  let old := n.set id
  let n1 := { n with setting := Tbl.set intrDefault n.setting id (v % 2 ^ 16) }
  let senseNew := decide (bits old 12 2 ≠ bits v 12 2)
  let clear := senseNew || !bit v 15
  let n2 := if clear then { n1 with pending := n1.pending.filter (fun x => decide (x ≠ id)) } else n1
  n2.arbitrate

/-- Pending host sources, bit i for source 1,008 + i (INT_HOST_PENDING). -/
def Intr.hostPending (n : Intr) : List Nat := n.pending.filter (fun id => decide (1008 ≤ id))

/-- An interrupt event of the device reaches the controller; vector 63 goes out when the set of pending host sources
becomes non-empty (R562). -/
def Dev.fireInt (d : Dev) (id : Nat) : Dev :=
  let d1 := d.onIntr (fun n => n.fire id)
  if d.intr.hostPending.isEmpty && !d1.intr.hostPending.isEmpty then d1.msix 63 else d1

end Sys2Proof.Machine
end

