-- ==== Sys2Proof/Machine/LinkTx.lean ====
section
/-! DEFINITION. Sending on the Rudun links (R517 to R520, R526, R542): messages cut into flits, credits, the replay buffer. -/

namespace Sys2Proof.Machine
open Sys2Proof

/-- Offset of a counter in link-port record p (R544). -/
def linkStat (p c : Nat) : Nat := 0x8C00 + 128 * p + c

/-- Cut bytes into payloads of 256 bytes with a fuel of flits; LAST marks the last (R542). -/
def cutFlits (mk : Bool → List Byte → Flit) : Nat → List Byte → List Flit
  | 0, _ => []
  | k + 1, l => if l.length ≤ 256 then [mk true l] else mk false (l.take 256) :: cutFlits mk k (l.drop 256)

/-- The flits of a control message (R542): CODE, a reserved byte, LENGTH, then the body. -/
def ctrlFlits (dest src code : Nat) (body : List Byte) : List Flit :=
  cutFlits (fun lst p => { type := 2, cls := 2, last := lst, seq := 0, dest := dest, src := src, target := 0, payload := p })
    8 (leBytes 1 code ++ [0] ++ leBytes 2 body.length ++ body)

/-- The credit pool a flit takes (R520). -/
def Flit.pool (f : Flit) : Nat := if f.type = 2 then 0 else f.cls

/-- Credits the port returns with its next flit, and the port after it: the pools take turns (R520). -/
def LinkPort.giveCredit (p : LinkPort) : Nat × Nat × LinkPort :=
  let t := p.owedTurn
  let n := min 31 (p.owed.getD t 0)
  (t, n, { p with owed := modAt p.owed t (fun x => x - n), owedTurn := (t + 1) % 4 })

/-- Put one flit on the wire with the link's present ACK, NAK and credits. -/
def Dev.wireFlit (d : Dev) (p : Nat) (f : Flit) : Dev :=
  let port := d.port p
  let g := port.giveCredit
  let port1 := { g.2.2 with nakDue := false, nakSent := port.nakSent || port.nakDue }
  let d1 := (d.onPort p (fun _ => port1)).count (linkStat p 0x00)
  d1.emit (.flit p f ((4095 + port.rxNext) % 4096) port.nakDue g.1 g.2.1)

/-- Send a CELL or CONTROL flit: it takes the next SEQ and a credit, and waits in the replay buffer (R519, R520). -/
def Dev.sendFlit (d : Dev) (p : Nat) (f : Flit) : Dev :=
  let port := d.port p
  let f1 := { f with seq := port.txSeq }
  let start := if port.replay.isEmpty then d.clk else port.ackAt
  let port1 := { port with txSeq := (port.txSeq + 1) % 4096, replay := port.replay ++ [f1], ackAt := start,
                           credit := modAt port.credit f.pool (fun x => x - 1) }
  let d1 := (d.onPort p (fun _ => port1)).wireFlit p f1
  let d2 := if f.type = 1 then d1.count (linkStat p (0x08 + 8 * f.cls)) else
    if f.last then d1.count (linkStat p 0x30) else d1
  d2.countMax (linkStat p 0x78) port1.replay.length

/-- The next queued flit that may be sent, and the port without it: TICK first, then other control, each against its
credits, four of the control credits being kept for TICK (R520). -/
def LinkPort.nextCtrl (p : LinkPort) : Option (Flit × LinkPort) :=
  if p.replay.length ≥ 128 then none
  else
    match p.tickQ with
    | f :: r => if p.credit.getD 0 0 > 0 then some (f, { p with tickQ := r }) else none
    | [] =>
      match p.ctrlQ with
      | f :: r => if p.credit.getD 0 0 > 4 then some (f, { p with ctrlQ := r }) else none
      | [] => none

/-- Whether something waits on an UP port for a credit. -/
def LinkPort.starved (p : LinkPort) : Bool :=
  decide (p.state = .up) && ((!p.tickQ.isEmpty && decide (p.credit.getD 0 0 = 0)) || (!p.ctrlQ.isEmpty && decide (p.credit.getD 0 0 ≤ 4)) ||
    p.cellQ.any (fun f => decide (p.credit.getD f.cls 0 = 0)))

/-- Time that a port waits for credit is counted (R544). -/
def Dev.noteCredit (d : Dev) (p : Nat) : Dev :=
  let q := d.port p
  if q.starved then (if q.creditAt = 0 then d.onPort p (fun q => { q with creditAt := d.clk + 1 }) else d)
  else if q.creditAt = 0 then d
  else (d.count (linkStat p 0x58) (d.clk + 1 - q.creditAt)).onPort p (fun q => { q with creditAt := 0 })

/-- Send what control flits the port may send, at most `k`. -/
def Dev.pumpLink (d : Dev) (p : Nat) : Nat → Dev
  | 0 => d.noteCredit p
  | k + 1 =>
    if (d.port p).state = .up then
      match (d.port p).nextCtrl with
      | some (f, port) => ((d.onPort p (fun _ => port)).sendFlit p f).pumpLink p k
      | none => d.noteCredit p
    else d.noteCredit p

/-- Whether a port takes flits to send: UP, or held with its queues kept (R522). -/
def LinkPort.carries (p : LinkPort) : Bool := decide (p.state = .up) || decide (p.state = .held)

/-- Queue the flits of a message on a port, TICK messages before all others, and send what may be sent; a port that is
neither UP nor held carries nothing. -/
def Dev.queueMsg (d : Dev) (p : Nat) (dest src code : Nat) (body : List Byte) : Dev :=
  if !(d.port p).carries then d else
  let fs := ctrlFlits dest src code body
  let d1 := d.onPort p (fun q => if code = 6 then { q with tickQ := q.tickQ ++ fs } else { q with ctrlQ := q.ctrlQ ++ fs })
  d1.pumpLink p 32

/-- Whether a down port leads to device `dev` (R523, R526). -/
def LinkPort.leadsTo (p : LinkPort) (dev : Nat) : Bool :=
  p.subEnum && decide (p.subId ≤ dev) && decide (dev ≤ p.subLast)

/-- Ports that are down ports in the role (R513). -/
def Dev.downPorts (d : Dev) : List Nat :=
  if d.boot.role = 1 then [0, 1, 2, 3] else if d.boot.role = 2 then [1, 2, 3] else []

/-- The port a message for `dest` leaves by: the down port of its subtree, else the up port of a worker (R526). -/
def Dev.route (d : Dev) (dest : Nat) : Option Nat :=
  match d.downPorts.find? (fun p => (d.port p).leadsTo dest) with
  | some p => some p
  | none => if d.boot.role = 2 then some 0 else none

/-- Send a message to a device (R526); one that has no way is counted where the device is a manager. -/
def Dev.sendMsg (d : Dev) (dest code : Nat) (body : List Byte) : Dev :=
  match d.route dest with
  | some p => d.queueMsg p dest d.deviceId code body
  | none => d

/-- Send a copy on every UP or held down port toward enumerated workers (R526). -/
def Dev.broadcastOn (d : Dev) (src code : Nat) (body : List Byte) : List Nat → Dev
  | [] => d
  | p :: r =>
    let q := d.port p
    if q.subEnum && q.carries then
      (d.queueMsg p 0xFFF src code body).broadcastOn src code body r
    else d.broadcastOn src code body r

/-- Broadcast a message down the tree (R526). -/
def Dev.broadcast (d : Dev) (code : Nat) (body : List Byte) : Dev := d.broadcastOn d.deviceId code body d.downPorts

end Sys2Proof.Machine
end

