-- ==== Sys2Proof/Machine/FaultOps.lean ====
section
/-! DEFINITION. The fault collector's shared operation: raising a fault (R545 to R550), and what it drives: the record, the
interrupt sources, the async events, TWINKLE and the FAULT message of a worker. -/

namespace Sys2Proof.Machine
open Sys2Proof

/-- Fixed class of a fault source (R545, R68): 1 CE, 2 UC, 3 FA; 0 for a reserved number, which is never raised. -/
def fixedClass (s : Nat) : Nat :=
  if s < 13 then (if s = 1 ∨ s = 2 ∨ s = 11 ∨ s = 12 then 2 else 1)
  else if 16 ≤ s ∧ s < 400 then
    match (s - 16) % 16 with
    | 1 | 7 => 1
    | 9 => 3
    | 0 | 2 | 3 | 4 | 5 | 6 | 8 => 2
    | _ => 0
  else if s = 400 ∨ s = 401 ∨ s = 402 then 2
  else if s = 403 then 1
  else if s = 416 then 2
  else if 417 ≤ s ∧ s < 425 then 2
  else if 432 ≤ s ∧ s < 464 then
    match (s - 432) % 16 with
    | 0 | 1 | 2 => 1
    | 3 | 5 | 6 => 2
    | 4 => 3
    | _ => 0
  else if 464 ≤ s ∧ s < 480 then
    match (s - 464) % 4 with
    | 0 => 1
    | 1 => 2
    | 2 => 3
    | _ => 0
  else if s = 480 ∨ s = 481 then 1
  else if 488 ≤ s ∧ s < 492 then 3
  else if s = 492 then 1
  else if s = 493 then 3
  else if s = 494 then 1
  else if s = 495 then 2
  else if s = 496 then 3
  else if s = 497 then 1
  else if s = 498 then 2
  else if 504 ≤ s ∧ s < 516 then 1
  else 0

/-- Class in effect (R547): the severity table received, else the fixed class. -/
def Flt.classOf (f : Flt) (s : Nat) : Nat :=
  match f.severity with
  | some t => t.getD s 0
  | none => fixedClass s

/-- Whether some set status bit has class in effect `c` (R548). -/
def Flt.anyClass (f : Flt) (c : Nat) : Bool :=
  (List.range 600).any (fun s => f.status.getLsbD s && decide (f.classOf s = c))

/-- Number of status bits set (FLT_SUMMARY [9:0]). -/
def Flt.setCount (f : Flt) : Nat := ((List.range 600).filter (fun s => f.status.getLsbD s)).length

/-- Whether any runtime watchdog is expired (R553). -/
def Intr.anyExpired (n : Intr) : Bool := n.cores.any (fun c => c.expired)

/-- Whether a cause that stops TWINKLE is present (R554). -/
def Dev.twinkleCause (d : Dev) : Bool := d.flt.anyClass 3 || d.intr.anyExpired

/-- Stop TWINKLE at an instant within 10 µs of a cause, which the spec does not fix (R554). -/
def Dev.stopTwinkle (d : Dev) : Dev :=
  if d.twk.mode = .low then d
  else
    match d.twk.stopAt with
    | some _ => d.onTwk (fun t => { t with resumeAt := none })
    | none => (d.onTwk (fun t => { t with stopAt := some (d.clk + d.drawn % 10001) })).afterDraw

/-- FAULT message of a worker to the manager (R540): severity 1 at most once per source per second. -/
def Dev.faultMsg (d : Dev) (src cls : Nat) (first : Bool) (stamp : List Byte) : Dev :=
  if d.boot.role = 2 ∧ d.link.enumerated ∧ 1 ≤ cls then
    let last := Tbl.get (fun _ => 0) d.link.faultAt src
    let held := Tbl.get (fun _ => 0) d.link.faultHeld src
    if cls = 1 ∧ last ≠ 0 ∧ d.clk < 10 ^ 9 + (last - 1) then
      d.onLink (fun l => { l with faultHeld := Tbl.set (fun _ => 0) l.faultHeld src (held + 1) })
    else
      let d1 := d.onLink (fun l => { l with faultAt := Tbl.set (fun _ => 0) l.faultAt src (d.clk + 1),
                                            faultHeld := Tbl.set (fun _ => 0) l.faultHeld src 0 })
      d1.sendMsg 0 0x0C (stamp ++ leBytes 2 src ++ leBytes 1 cls ++ leBytes 1 (b2n first) ++ leBytes 2 (min held 0xFFFF))
  else d

/-- The entries of a fault occurrence (R550, R566): at most one main-ring entry per source and millisecond, and with it the
first-fault entry of a UC or FA fault while that region holds fewer than 256. -/
def Dev.faultEntry (d : Dev) (src cls arg : Nat) : Dev :=
  let last := Tbl.get (fun _ => 0) d.flt.entryAt src
  let supp := Tbl.get (fun _ => 0) d.flt.suppressed src
  if last ≠ 0 ∧ d.clk < 10 ^ 6 + (last - 1) then
    (d.onFlt (fun f => { f with suppressed := Tbl.set (fun _ => 0) f.suppressed src (supp + 1) })).faultMsg src cls false d.stamp
  else
    let body := bbxBody d.stamp 1 cls src arg (leBytes 4 (min supp 15) ++ leBytes 1 (fixedClass src))
    let taken := decide (d.bbx.queue.length < 64)
    let toFirst := taken && decide (2 ≤ cls) && decide (d.firstCount < 256)
    let isFirst := toFirst && decide (d.firstCount = 0)
    let d1 := d.onFlt (fun f => { f with entryAt := Tbl.set (fun _ => 0) f.entryAt src (d.clk + 1),
                                         suppressed := Tbl.set (fun _ => 0) f.suppressed src 0 })
    let d2 := d1.bbxPut .main body
    let d3 := if toFirst then d2.bbxPut .first body else d2
    (d3.faultMsg src cls isFirst d.stamp).stamped

/-- Raise fault source `src` with its ARG, by its class in effect (R546). A reserved number is never raised (R545). -/
def Dev.raise (d : Dev) (src arg : Nat) : Dev :=
  if fixedClass src = 0 then d
  else
    let cls := d.flt.classOf src
    let d1 := d.onFlt (fun f => { f with lastClass := cls, lastSrc := src, lastArg := arg % 2 ^ 32, lastTime := d.sdt,
                                         status := if cls = 0 then f.status else f.status ||| BitVec.twoPow 600 src })
    let d2 := match cls with
      | 1 => d1.count 0x7060
      | 2 => d1.count 0x7068
      | 3 => d1.onFlt (fun f => { f with faCnt := satAdd32 f.faCnt 1 })
      | _ => d1
    let d3 := d2.faultEntry src cls (arg % 2 ^ 32)
    match cls with
    | 2 => d3.postEvent 0x02 1 src
    | 3 => (d3.postEvent 0x02 2 src).stopTwinkle
    | _ => d3

/-- Level sources whose level the collector, the watchdogs and the recorder give (R555, R561), with that level. -/
def Dev.levels (d : Dev) : List (Nat × Bool) :=
  [(604, (d.intr.core 0).warning), (605, (d.intr.core 1).warning), (606, (d.intr.core 2).warning),
   (607, (d.intr.core 3).warning),
   (608, d.flt.anyClass 1), (609, d.flt.anyClass 2), (610, d.flt.anyClass 3),
   (1008, d.flt.anyClass 1), (1009, d.flt.anyClass 2), (1010, d.flt.anyClass 3),
   (1011, match d.twk.stopAt with
      | some t => decide (t ≤ d.clk)
      | none => false),
   (1014, decide (256 ≤ d.bbx.firstNo)), (1015, decide (0 < d.bbx.lostCnt))]

/-- Apply the level sources to the interrupt controller. -/
def Intr.applyLevels (n : Intr) (l : List (Nat × Bool)) : Intr := l.foldl (fun n e => n.level e.1 e.2) n

/-- What the always-on domain does of itself after every command: level sources follow their causes, a pending host source
is signalled (R562), and the return of TWINKLE is scheduled when its last stopping cause has ended (R554). -/
def Dev.settle (d : Dev) : Dev :=
  let n := d.intr.applyLevels d.levels
  let d1 := { d with intr := n }
  let d2 := if d.intr.hostPending.isEmpty && !n.hostPending.isEmpty then d1.msix 63 else d1
  match d2.twk.stopAt, d2.twk.resumeAt with
  | some _, none =>
    if d2.twinkleCause then d2
    else (d2.onTwk (fun t => { t with resumeAt := some (d2.clk + d2.drawn % 1000001) })).afterDraw
  | _, _ => d2

/-- A command's effect in every state but the one that R580 leaves undefined; without power nothing happens. -/
def live (f : Mach → Mach) (s : State) : Host.Outcome State Fault Refusal :=
  if s.m.dev.undef then .fault .undefinedUntilReset
  else if s.m.dev.off then .next s
  else .next { s with m := { f s.m with dev := (f s.m).dev.settle } }

/-- A command whose effect lies in the device alone, its memories untouched. -/
def liveDev (f : Dev → Dev) (s : State) : Host.Outcome State Fault Refusal :=
  live (fun m => { m with dev := f m.dev }) s

end Sys2Proof.Machine
end

