-- ==== Sys2Proof/Machine/Operands.lean ====
section
/-! DEFINITION. Operand forms: bytes of host memory, DRAM, SPI NOR and MRAM, the data buffer of a command, and running a
command that has started (R409 to R411, R427 to R430). -/

namespace Sys2Proof.Machine
open Sys2Proof

/-- What an unlisted byte of host memory or DRAM reads as. -/
def byteZero (_ : Nat) : Byte := 0

/-- What an unlisted byte of SPI NOR reads as: erased. -/
def byteOnes (_ : Nat) : Byte := 0xFF

/-- 60 bytes with their CRC-32C, as an entry of the recorder (R563, R564). -/
def withCrc (l : List Byte) : List Byte := let b := padTo 60 l; b ++ leBytes 4 (crc32c 0 b)

/-- The black-box header as at manufacture: no clear yet (R563). -/
def headerEntry : List Byte :=
  withCrc ([0x5A, 0x42, 0x42, 0x31, 1, 0, 0, 0] ++ leBytes 4 (Config.uid 0).toNat ++ leBytes 4 (Config.uid 1).toNat ++
    leBytes 4 (Config.uid 2).toNat ++ leBytes 4 (Config.uid 3).toNat)

/-- The CRC-32C of 60 zero bytes, the check value of an empty boot control record. -/
def crcOfZeros : Nat := 0x5A0B0531

/-- What an unlisted MRAM entry reads as, the contents at manufacture: the header, two copies of an empty boot control
record, and empty entries. -/
def entryDflt (x : Nat) : List Byte :=
  if x = 0 then headerEntry
  else if x = 1 ∨ x = 2 then zeros 60 ++ leBytes 4 crcOfZeros
  else zeros 64

/-- `len` bytes from address `a`. -/
def readBytes (dflt : Nat → Byte) (t : List Host.Cell) (a : Nat) : Nat → List Byte
  | 0 => []
  | k + 1 => Tbl.get dflt t a :: readBytes dflt t (a + 1) k

/-- Write bytes from address `a` on. -/
def writeBytes (dflt : Nat → Byte) (t : List Host.Cell) (a : Nat) : List Byte → List Host.Cell
  | [] => t
  | b :: r => writeBytes dflt (Tbl.set dflt t a b) (a + 1) r

/-- Whether a host access lies in the 64-bit host address space; one that does not fails (R430). -/
def hostOk (a len : Nat) : Bool := decide (a + len ≤ 2 ^ 64)

/-- Read host memory. -/
def Mem.hostRead (m : Mem) (a len : Nat) : List Byte := readBytes byteZero m.host a len

/-- Write host memory. -/
def Mem.hostWrite (m : Mem) (a : Nat) (l : List Byte) : Mem := { m with host := writeBytes byteZero m.host a l }

/-- MRAM entry `x` (R563). -/
def Mem.entry (m : Mem) (x : Nat) : List Byte := Tbl.get entryDflt m.mram x

/-- Write MRAM entry `x` in one transaction (R565). -/
def Mem.setEntry (m : Mem) (x : Nat) (l : List Byte) : Mem :=
  { m with mram := Tbl.set entryDflt m.mram x l }

/-! ### The data buffer of a command (R409, R430) -/

/-- DATA_KIND of a command. -/
def Cmd.dataKind (c : Cmd) : Nat := c.flags % 4

/-- FENCE of a command. -/
def Cmd.fence (c : Cmd) : Bool := bit c.flags 2

/-- Command dword `i`. -/
def Cmd.dw (c : Cmd) (i : Nat) : Nat := c.cdw.getD i 0

/-- Two command dwords as one 64-bit number. -/
def Cmd.dw64 (c : Cmd) (i : Nat) : Nat := c.dw i + 2 ^ 32 * c.dw (i + 1)

/-- The page addresses of a page list for `len` bytes (R430). -/
def Mem.pages (m : Mem) (c : Cmd) (len : Nat) : List Nat :=
  (List.range (ceilDiv len 4096)).map (fun i => rd (m.hostRead (c.dataAddr + 8 * i) 8) 0 8)

/-- Whether the buffer of a command can take or give `len` bytes. -/
def Mem.dataOk (m : Mem) (c : Cmd) (len : Nat) : Bool :=
  if c.dataKind = 1 then decide (len ≤ c.dataLen) && hostOk c.dataAddr len
  else if c.dataKind = 2 then
    decide (len ≤ c.dataLen) && hostOk c.dataAddr (8 * ceilDiv len 4096) &&
      (m.pages c len).all (fun p => decide (p % 4096 = 0) && hostOk p 4096)
  else decide (len = 0)

/-- Read bytes over a list of pages. -/
def Mem.readPages (m : Mem) (len : Nat) : List Nat → List Byte
  | [] => []
  | p :: r => m.hostRead p (min len 4096) ++ m.readPages (len - 4096) r

/-- Write bytes over a list of pages. -/
def Mem.writePages (m : Mem) (l : List Byte) : List Nat → Mem
  | [] => m
  | p :: r => (m.hostWrite p (l.take 4096)).writePages (l.drop 4096) r

/-- The first `len` bytes of a command's data. -/
def Mem.dataIn (m : Mem) (c : Cmd) (len : Nat) : List Byte :=
  if c.dataKind = 2 then m.readPages len (m.pages c len) else m.hostRead c.dataAddr len

/-- Write a command's output; bytes beyond it stay (R430). -/
def Mem.dataOut (m : Mem) (c : Cmd) (l : List Byte) : Mem :=
  if c.dataKind = 2 then m.writePages l (m.pages c l.length) else m.hostWrite c.dataAddr l

/-! ### Starting and running commands (R410, R411, R426, R427) -/

/-- The opcodes of R426 with whether twilight mode serves them. -/
def opcodes : List (Nat × Bool) :=
  [(0x00, true), (0x01, true), (0x02, true), (0x03, true), (0x04, true), (0x05, true), (0x06, false), (0x07, true),
   (0x08, true), (0x09, true), (0x10, true), (0x11, true), (0x12, false), (0x18, true), (0x19, false), (0x20, false),
   (0x21, true), (0x22, false), (0x28, false), (0x29, false), (0x40, false), (0x41, false), (0x48, false),
   (0x49, false), (0x4A, false), (0x50, false), (0x51, false), (0x52, false), (0x58, true), (0x59, true),
   (0x5A, false), (0x5B, false), (0x60, false), (0x61, true), (0x68, false), (0x69, false)]

/-- Checks 1 and 2 of R427 and the reserved codes of DATA_KIND and of the action and operation fields: the status of the
first that fails. -/
def Dev.startCheck (d : Dev) (c : Cmd) : Option (Nat × ErrInfo) :=
  let admin := decide (c.opcode < 0x40)
  let vendor := decide (0xC0 ≤ c.opcode)
  if vendor then
    if Config.vendorOpcodes.testBit (c.opcode - 0xC0) then none else some (Status.invalidOpcode, { field := 0 })
  else if decide (c.sq % 0x10000 = 0) != admin then some (Status.invalidOpcode, { field := 0 })
  else
    match opcodes.find? (fun o => decide (o.1 = c.opcode)) with
    | none => some (Status.invalidOpcode, { field := 0 })
    | some o =>
      if (c.opcode = 0x28 ∨ c.opcode = 0x29) ∧ d.boot.role ≠ 1 then some (Status.invalidOpcode, { field := 0 })
      else if d.boot.state = .twilight ∧ !o.2 then some (Status.minimalMode, { field := 0 })
      else if c.dataKind = 3 then some (Status.invalidField, { field := 1 })
      else if c.opcode = 0x11 ∧ c.dw 0 % 4 = 3 then some (Status.invalidField, { field := 32 })
      else if c.opcode = 0x18 ∧ 2 ≤ c.dw 0 % 4 then some (Status.invalidField, { field := 32 })
      else none

/-- Start the fetched commands of an SQ that may start, in fetch order: one with FENCE only when every earlier command of
its SQ has completed (R411). `before` says that an earlier command of the SQ is still in flight. -/
def Dev.startList (d : Dev) (sq : Nat) (before : Bool) : List Cmd → Dev
  | [] => d
  | c :: r =>
    if c.sq ≠ sq then d.startList sq before r
    else
      match c.phase with
      | .fetched =>
        if c.fence && before then d
        else
          let d1 := d.modCmd sq c.cid (fun x => { x with phase := .started })
          match d.startCheck c with
          | some e => (d1.complete sq c.cid e.1 0 e.2).startList sq true r
          | none => d1.startList sq true r
      | _ => d.startList sq true r

/-- Start what may start of an SQ. -/
def Dev.startReady (d : Dev) (sq : Nat) : Dev := d.startList sq false d.host.cmds

/-- Run the command in flight that (sq, cid) names, if it has started and carries this opcode. -/
def runCmd (sq cid op : Nat) (f : Cmd → Mach → Mach) (m : Mach) : Mach :=
  match m.dev.cmd sq cid with
  | none => m
  | some c => if c.phase = .started ∧ c.opcode = op then f c m else m

/-- Change the device alone. -/
def onDev (f : Dev → Dev) (m : Mach) : Mach := { m with dev := f m.dev }

/-- End a command from a meaning over the whole machine. -/
def Mach.complete (m : Mach) (c : Cmd) (status : Nat) (result : Nat := 0) (e : ErrInfo := {}) : Mach :=
  { m with dev := m.dev.complete c.sq c.cid status result e }

/-- Refuse a command for the field at byte `field` of its entry. -/
def Mach.refuse (m : Mach) (c : Cmd) (field : Nat) : Mach := m.complete c Status.invalidField 0 { field := field }

/-- The admission report of a refusal with ADMISSION_DENIED (R434). -/
def Dev.noteDenied (d : Dev) (check stream needed available : Nat) : Dev :=
  let rep := leBytes 4 check ++ leBytes 4 stream ++ leBytes 8 needed ++ leBytes 8 available ++ zeros 8 ++ d.stamp ++ zeros 16
  Dev.stamped { d with host := { d.host with admission := some rep } }

/-- Stream index of an admission that belongs to no capture stream (R434). -/
def noStream : Nat := 0xFFFFFFFF

/-- Refuse a command with ADMISSION_DENIED, with its report (R434). -/
def Mach.deny (m : Mach) (c : Cmd) (check stream : Nat) (needed : Nat := 0) (available : Nat := 0) : Mach :=
  Mach.complete { m with dev := m.dev.noteDenied check stream needed available } c Status.admissionDenied 0
    { needed := needed, available := available }

/-- Leave a command running: it completes later. -/
def Dev.keepRunning (d : Dev) (c : Cmd) : Dev := d.modCmd c.sq c.cid (fun x => { x with phase := .running })

end Sys2Proof.Machine
end

