-- ==== Sys2Proof/Machine/Queues.lean ====
section
/-! DEFINITION. Queues (R397 to R425): doorbells, admin set-up, fetching, posting completions, aggregation, creation and
deletion of queues, async event requests and ABORT's bookkeeping. -/

namespace Sys2Proof.Machine
open Sys2Proof

/-- Submission queue `q`. -/
def Dev.sq (d : Dev) (q : Nat) : Option Sq := Tbl.get (fun _ => none) d.host.sqs q

/-- Completion queue, or head side of the host ring, `q`. -/
def Dev.cq (d : Dev) (q : Nat) : Option Cq := Tbl.get (fun _ => none) d.host.cqs q

def Dev.setSq (d : Dev) (q : Nat) (v : Option Sq) : Dev :=
  d.onHost (fun h => { h with sqs := Tbl.set (fun _ => none) h.sqs q v })

def Dev.setCq (d : Dev) (q : Nat) (v : Option Cq) : Dev :=
  d.onHost (fun h => { h with cqs := Tbl.set (fun _ => none) h.cqs q v })

/-- Queues run in READY and in twilight mode (R383, R400). -/
def Dev.queuesServed (d : Dev) : Bool := decide (d.boot.state = .ready ∨ d.boot.state = .twilight)

/-- `a - b` modulo `s`. -/
def ringDiff (a b s : Nat) : Nat := (a + s - b % s) % s

/-- An entry in a record whose encoding the spec does not give: KIND, CODE and ARG are free (R407, R420). -/
def Dev.recordOpen (d : Dev) : Dev :=
  let k := d.drawn
  let d1 := d.afterDraw
  let c := d1.drawn
  let d2 := d1.afterDraw
  let a := d2.drawn
  d2.afterDraw.record .main (k % 256) 0xFF (c % 65536) (a % 2 ^ 32)

/-- An SQ tail doorbell (R403, R405, R406). -/
def Dev.sqDoorbell (d : Dev) (q t : Nat) : Dev :=
  match d.sq q with
  | none => d.onHost (fun h => { h with stray := satAdd32 h.stray 1 })
  | some s =>
    if s.bad || s.deleting then d
    else if t < s.size ∧ ringDiff s.tail s.head s.size ≤ ringDiff t s.head s.size then
      (d.setSq q (some { s with tail := t })).fireInt (16 + q)
    else ((d.setSq q (some { s with bad := true })).fireInt (16 + q)).postEvent 0x01 0 q

/-- Whether a CQ is full (R402). -/
def Cq.full (c : Cq) : Bool := decide ((c.tail + 1) % c.size = c.head)

/-- The 16 bytes of a CQ entry (R413). -/
def cqEntry (result stamp cid sqHead status : Nat) (detail retry held phase : Bool) (sq : Nat) : List Byte :=
  leBytes 4 result ++ leBytes 4 stamp ++ leBytes 4 (2 ^ 16 * cid + sqHead % 2 ^ 16) ++
  leBytes 4 (2 ^ 16 * status + 2 ^ 9 * b2n detail + 2 ^ 10 * b2n retry + 2 ^ 11 * b2n held + 2 ^ 8 * b2n phase + sq % 256)

/-- An entry has been posted to a CQ: its vector goes out at once, after AGG_COUNT + 1 entries, or later (R398). -/
def Dev.cqPosted (d : Dev) (q : Nat) (c : Cq) : Dev :=
  if !c.ien then d.setCq q (some { c with unsent := c.unsent + 1 })
  else if c.aggTime = 0 ∨ c.aggCount < c.unsent + 1 then
    (d.setCq q (some { c with unsent := 0 })).msix c.vector
  else d.setCq q (some { c with unsent := c.unsent + 1, aggFrom := if c.unsent = 0 then d.clk else c.aggFrom })

/-- Forget a command whose completion has been posted or held, and let later ones of its SQ start (R411). -/
def Dev.retire (d : Dev) (sq cid : Nat) : Dev :=
  let here : Cmd → Bool := fun c => decide (c.sq = sq) && decide (c.cid = cid) && decide (c.phase = .completing)
  let d1 := d.onHost (fun h => { h with cmds := h.cmds.eraseP here })
  d1.startReady sq

/-- DELETE_SQ ends after the last command of its queue (R416). -/
def Dev.endDelete (d : Dev) (sq : Nat) : Dev :=
  match d.sq sq with
  | none => d
  | some s =>
    if s.deleting && !(d.host.cmds.any (fun c => decide (c.sq = sq))) then
      let d1 := d.setSq sq none
      match d1.host.cmds.find? (fun c => decide (c.opcode = 0x03 ∧ c.target = sq ∧ c.phase = .running)) with
      | some c => d1.complete c.sq c.cid Status.ok
      | none => d1
    else d

/-- Write one completion into its CQ (R408, R413). -/
def Mach.writeCqe (m : Mach) (c : Cq) (e : Compl) (held : Bool) : Mach :=
  let head := match m.dev.sq e.sq with
    | some s => s.head
    | none => 0
  let bytes := cqEntry e.result m.dev.stamp32 e.cid head e.status e.detail e.retry held c.phase e.sq
  let tail := (c.tail + 1) % c.size
  let c1 := { c with tail := tail, phase := if tail = 0 then !c.phase else c.phase }
  { dev := m.dev.cqPosted e.cq c1, mem := m.mem.hostWrite (c.base + 16 * c.tail) bytes }

/-- Whether a CQ holds completions in the holding store. -/
def Dev.hasHeld (d : Dev) (q : Nat) : Bool := d.host.held.any (fun e => decide (e.cq = q))

/-- A completion enters the holding store; its CQ's first one posts CQ_BACKLOG (R419 to R421). -/
def Dev.hold (d : Dev) (e : Compl) : Dev :=
  let first := !d.hasHeld e.cq
  let d1 := d.onHost (fun h => { h with held := h.held ++ [e], heldPeak := max h.heldPeak (h.held.length + 1),
                                        holdStop := h.holdStop || decide (4096 ≤ h.held.length + 1) })
  if first then (if e.cq = 0 then d1.recordOpen else d1.postEvent 0x01 2 e.cq) else d1

/-- Whether a completion at its stage can leave it now (R419, R421). -/
def Dev.canPost (d : Dev) (e : Compl) : Bool :=
  match d.cq e.cq with
  | none => true
  | some c => c.bad || (!c.full && !d.hasHeld e.cq) || decide (d.host.held.length < 4096)

/-- Post the oldest completion that can leave its stage (COMPLETION_POST). -/
def Mach.postCompletion (m : Mach) : Mach :=
  match m.dev.host.stage.find? (fun e => m.dev.canPost e) with
  | none => m
  | some e =>
    let m0 : Mach := { m with dev := m.dev.onHost (fun h => { h with stage := h.stage.erase e }) }
    let m1 : Mach :=
      match m0.dev.cq e.cq with
      | none => m0
      | some c =>
        if c.bad then
          let n := satAdd32 m0.dev.host.logError.discarded 1
          { m0 with dev := m0.dev.onHost (fun h => { h with logError := { h.logError with discarded := n } }) }
        else if !c.full && !m0.dev.hasHeld e.cq then m0.writeCqe c e false
        else { m0 with dev := m0.dev.hold e }
    { m1 with dev := (m1.dev.retire e.sq e.cid).endDelete e.sq }

/-- Write a CQ's held completions into the slots that a head doorbell freed, at most `k` (R419). -/
def Mach.drainHeld (m : Mach) (q : Nat) : Nat → Mach
  | 0 => m
  | k + 1 =>
    match m.dev.cq q, m.dev.host.held.find? (fun e => decide (e.cq = q)) with
    | some c, some e =>
      if c.full then m
      else
        let m1 : Mach := { m with dev := m.dev.onHost (fun h => { h with held := h.held.erase e }) }
        Mach.drainHeld (m1.writeCqe c e true) q k
    | _, _ => m

/-- Fetching resumes when the holding store holds fewer than 3,584 entries (R421). -/
def Dev.holdResume (d : Dev) : Dev :=
  if d.host.held.length < 3584 then d.onHost (fun h => { h with holdStop := false }) else d

/-- Entries left unread at a head doorbell start a new aggregation interval (R398). -/
def Dev.reaggregate (d : Dev) (q : Nat) : Dev :=
  match d.cq q with
  | none => d
  | some c =>
    let unread := ringDiff c.tail c.head c.size
    if unread = 0 then d.setCq q (some { c with unsent := 0 })
    else if c.ien && (decide (c.aggTime = 0) || decide (c.aggCount < unread)) then
      (d.setCq q (some { c with unsent := 0 })).msix c.vector
    else d.setCq q (some { c with unsent := unread, aggFrom := d.clk })

/-- A CQ head doorbell, or a host ring's (R404, R405, R407, R447). -/
def Mach.cqDoorbell (m : Mach) (q h : Nat) : Mach :=
  match m.dev.cq q with
  | none => { m with dev := m.dev.onHost (fun x => { x with stray := satAdd32 x.stray 1 }) }
  | some c =>
    if c.bad then m
    else if h < c.size ∧ ringDiff h c.head c.size ≤ ringDiff c.tail c.head c.size then
      if h = c.head then { m with dev := m.dev.fireInt (272 + q) }
      else
        let d1 := ((m.dev.setCq q (some { c with head := h })).reaggregate q).fireInt (272 + q)
        let m1 := Mach.drainHeld { m with dev := d1 } q 4096
        { m1 with dev := m1.dev.holdResume }
    else
      let d1 := (m.dev.setCq q (some { c with bad := true })).fireInt (272 + q)
      { m with dev := if q = 0 then d1.recordOpen else d1.postEvent 0x01 1 q }

/-- EN of the admin queue takes effect (R400). -/
def Dev.adminActivate (d : Dev) : Dev :=
  let h := d.host
  let sqN := fld h.admSize 0 13
  let cqN := fld h.admSize 16 13
  let okk := decide (h.admSqBase % 4096 = 0 ∧ h.admCqBase % 4096 = 0 ∧ 2 ≤ sqN ∧ sqN ≤ 4096 ∧ 2 ≤ cqN ∧ cqN ≤ 4096)
  if !d.queuesServed || !h.admEn || h.admRdy then d
  else if okk then
    let d1 := d.setSq 0 (some { base := h.admSqBase, size := sqN, cq := 0 })
    let d2 := d1.setCq 0 (some { base := h.admCqBase, size := cqN })
    d2.onHost (fun h => { h with admRdy := true, admCfgErr := false })
  else d.onHost (fun h => { h with admCfgErr := true })

/-- EN of the admin queue goes to 1 (R400). -/
def Dev.adminEnable (d : Dev) : Dev :=
  if d.host.admEn then d else ((d.onHost (fun h => { h with admEn := true })).fireInt 10).adminActivate

/-- Commands of SQs for which `p` holds run on, and their completions go nowhere (R401, R418). -/
def HostIf.orphan (h : HostIf) (p : Nat → Bool) : HostIf :=
  let ren : Nat → Nat := fun q => if p q then q + 0x10000 * (1 + q / 0x10000) else q
  let keep := h.cmds.filter (fun c => !(p c.sq && decide (c.opcode = 0x08)))
  { h with cmds := (keep.filter (fun c => !(p c.sq && decide (c.phase = .completing)))).map (fun c => { c with sq := ren c.sq }),
           stage := h.stage.filter (fun e => !p e.sq), held := h.held.filter (fun e => !p e.cq),
           aer := if p 0 then [] else h.aer }

/-- EN of the admin queue goes to 0 (R401). -/
def Dev.adminDisable (d : Dev) : Dev :=
  if !d.host.admEn then d
  else
    let d1 := d.onHost (fun h => (h.orphan (fun q => decide (q = 0))))
    let d2 := (d1.setSq 0 none).setCq 0 none
    ((d2.onHost (fun h => { h with admEn := false, admRdy := false, admCfgErr := false })).fireInt 10).holdResume

/-- Number of commands of a kind fetched and not completed (R412). -/
def Dev.inFlight (d : Dev) (admin : Bool) : Nat :=
  (d.host.cmds.filter (fun c => decide (c.sq % 0x10000 = 0) == admin)).length

/-- Whether an SQ may be fetched from now (R406, R407, R412, R416, R421). -/
def Dev.fetchable (d : Dev) (q : Nat) : Bool :=
  match d.sq q with
  | none => false
  | some s =>
    decide (s.head ≠ s.tail) && !s.bad && !s.deleting &&
    (match d.cq s.cq with
      | some c => !c.bad
      | none => false) &&
    !(d.host.holdStop && d.hasHeld s.cq)

/-- The I/O SQ served next: high-priority queues before normal ones, each kind in increasing ID from the last served, a
turn lasting up to BURST entries (R412). -/
def Dev.nextIo (d : Dev) : Option Nat :=
  let ids := ((d.host.sqs.map (fun e => e.1)).filter (fun q => decide (0 < q) && decide (q < 256))).filter d.fetchable
  let isHigh : Nat → Bool := fun q => match d.sq q with
    | some s => s.high
    | none => false
  let hi := ids.filter isHigh
  let lo := ids.filter (fun q => !isHigh q)
  let pick : List Nat → Nat → Option Nat := fun l last =>
    match l.find? (fun q => decide (last < q)) with
    | some q => some q
    | none => l.head?
  let cur := d.host.turnSq
  if d.host.turnLeft ≠ 0 ∧ ids.contains cur ∧ (isHigh cur || hi.isEmpty) then some cur
  else
    match pick hi d.host.rrHigh with
    | some q => some q
    | none => pick lo d.host.rrNorm

/-- Bookkeeping of the round robin after an entry of SQ `q` (R412). -/
def Dev.served (d : Dev) (q : Nat) (s : Sq) : Dev :=
  let left := if d.host.turnSq = q ∧ d.host.turnLeft ≠ 0 then d.host.turnLeft - 1 else s.burst - 1
  d.onHost (fun h => { h with turnSq := q, turnLeft := left, rrHigh := if s.high then q else h.rrHigh,
                              rrNorm := if s.high then h.rrNorm else q })

/-- The command that a 64-byte SQ entry spells (R409). -/
def parseEntry (q : Nat) (b : List Byte) : Cmd :=
  { sq := q, cid := rd b 2 2, opcode := rd b 0 1, flags := rd b 1 1, target := rd b 4 4, dataAddr := rd b 16 8,
    dataLen := rd b 24 4, cdw := (List.range 8).map (fun i => rd b (32 + 4 * i) 4) }

/-- Fetch one entry of SQ `q` and start what may start (R409 to R412). -/
def Mach.fetch (m : Mach) (q : Nat) (s : Sq) : Mach :=
  let c := parseEntry q (m.mem.hostRead (s.base + 64 * s.head) 64)
  let d1 := m.dev.setSq q (some { s with head := (s.head + 1) % s.size })
  let dup := d1.host.cmds.any (fun x => decide (x.sq = q) && decide (x.cid = c.cid))
  if dup then
    let e : Compl := { sq := q, cid := c.cid, cq := s.cq, status := Status.invalidField, result := 0, detail := true,
                       retry := false }
    let rec_ := d1.stamp ++ leBytes 2 q ++ leBytes 2 c.cid ++ leBytes 1 c.opcode ++ [0] ++ leBytes 2 Status.invalidField ++
      leBytes 2 2 ++ zeros 38
    let d2 := d1.onHost (fun h => { h with stage := h.stage ++ [e], logError := h.logError.put 256 rec_ })
    { m with dev := d2.stamped }
  else
    { m with dev := (d1.onHost (fun h => { h with cmds := h.cmds ++ [c] })).startReady q }

/-- The device fetches a submission entry: of the admin SQ, or of the I/O SQ whose turn it is (R412). -/
def Mach.sqFetch (m : Mach) (admin : Bool) : Mach :=
  let limit := if admin then 64 else 1024
  if m.dev.queuesServed && decide (m.dev.inFlight admin < limit) then
    let q := if admin then (if m.dev.fetchable 0 then some 0 else none) else m.dev.nextIo
    match q with
    | none => m
    | some q =>
      match m.dev.sq q with
      | none => m
      | some s => if admin then m.fetch q s else { m with dev := m.dev.served q s }.fetch q s
  else m

/-- AGG_TIME has passed since the first unsignalled entry (R398). -/
def Dev.aggTimeout (d : Dev) (q : Nat) : Dev :=
  match d.cq q with
  | none => d
  | some c =>
    if c.ien && decide (0 < c.unsent) then
      ((d.advanceTo (c.aggFrom + 1000 * c.aggTime)).setCq q (some { c with unsent := 0 })).msix c.vector
    else d

/-! ### Queue commands (R414 to R417, R423) -/

/-- CREATE_CQ (R414, R415, R447). -/
def Mach.createCq (m : Mach) (c : Cmd) : Mach :=
  let n := c.dw 0 % 2 ^ 17
  let vec := bits (c.dw 1) 0 6
  if c.target = 0 ∨ 255 < c.target ∨ (m.dev.cq c.target).isSome then m.complete c Status.invalidQueue 0 { field := 4 }
  else if c.dataKind ≠ 1 then m.refuse c 1
  else if c.dataAddr % 4096 ≠ 0 then m.refuse c 16
  else if n < 2 ∨ 65536 < n then m.refuse c 32
  else if c.dataLen ≠ 16 * n then m.refuse c 24
  else if vec = 0 ∨ vec = 63 then m.refuse c 36
  else
    let q : Cq := { base := c.dataAddr, size := n, ien := bit (c.dw 1) 8, vector := vec,
                    aggTime := bits (c.dw 2) 8 8, aggCount := bits (c.dw 2) 0 8 }
    Mach.complete { m with dev := m.dev.setCq c.target (some q) } c Status.ok

/-- CREATE_SQ (R414, R415). -/
def Mach.createSq (m : Mach) (c : Cmd) : Mach :=
  let n := c.dw 0 % 2 ^ 17
  let burst := bits (c.dw 1) 8 4
  let cq := bits (c.dw 1) 0 8
  let cqOk := match m.dev.cq cq with
    | some q => decide (cq ≠ 0) && q.ring.isNone
    | none => false
  if c.target = 0 ∨ 255 < c.target ∨ (m.dev.sq c.target).isSome then m.complete c Status.invalidQueue 0 { field := 4 }
  else if !cqOk then m.complete c Status.invalidQueue 0 { field := 36 }
  else if c.dataKind ≠ 1 then m.refuse c 1
  else if c.dataAddr % 4096 ≠ 0 then m.refuse c 16
  else if n < 2 ∨ 65536 < n then m.refuse c 32
  else if c.dataLen ≠ 64 * n then m.refuse c 24
  else if burst = 0 ∨ 8 < burst then m.refuse c 36
  else
    let q : Sq := { base := c.dataAddr, size := n, high := bit (c.dw 1) 12, burst := burst, cq := cq }
    Mach.complete { m with dev := m.dev.setSq c.target (some q) } c Status.ok

/-- End with ABORTED the commands of an SQ that were fetched and not started (R416). -/
def Dev.abortFetched (d : Dev) (sq : Nat) : List Cmd → Dev
  | [] => d
  | c :: r =>
    if c.sq = sq ∧ c.phase = .fetched then (d.complete sq c.cid Status.aborted).abortFetched sq r
    else d.abortFetched sq r

/-- DELETE_SQ (R416, R417). -/
def Mach.deleteSq (m : Mach) (c : Cmd) : Mach :=
  match m.dev.sq c.target with
  | none => m.complete c Status.invalidQueue 0 { field := 4 }
  | some s =>
    if c.target = 0 ∨ s.deleting then m.complete c Status.invalidQueue 0 { field := 4 }
    else
      let d1 := (m.dev.setSq c.target (some { s with deleting := true })).abortFetched c.target m.dev.host.cmds
      { m with dev := (d1.keepRunning c).endDelete c.target }

/-- DELETE_CQ (R417). -/
def Mach.deleteCq (m : Mach) (c : Cmd) : Mach :=
  let bound := m.dev.host.sqs.any (fun e => match e.2 with
    | some s => decide (s.cq = c.target)
    | none => false)
  match m.dev.cq c.target with
  | none => m.complete c Status.invalidQueue 0 { field := 4 }
  | some q =>
    if c.target = 0 ∨ q.ring.isSome ∨ bound then m.complete c Status.invalidQueue 0 { field := 4 }
    else
      let d1 := (m.dev.setCq c.target none).onHost (fun h => { h with held := h.held.filter (fun e => decide (e.cq ≠ c.target)) })
      Mach.complete { m with dev := d1.holdResume } c Status.ok

/-- ASYNC_EVENT_REQUEST (R423, R424): the oldest waiting event ends it, or it waits. A freed entry takes the overflow
event. -/
def Dev.asyncRequest (d : Dev) (c : Cmd) : Dev :=
  if 16 ≤ d.host.aer.length then d.complete c.sq c.cid Status.invalidField 0 { field := 0 }
  else
    match d.host.events with
    | e :: r =>
      let lostEv : AsyncEvent := { type := 0x08, sub := 0, arg := min d.host.eventsLost 0xFFFF }
      let d1 := d.onHost (fun h => { h with events := if h.eventsLost = 0 then r else r ++ [lostEv], eventsLost := 0 })
      let rec_ := d.stamp ++ leBytes 4 lostEv.result ++ zeros 12
      let d2 := if d.host.eventsLost = 0 then d1
        else (d1.onHost (fun h => { h with logEvent := h.logEvent.put 1024 rec_ })).stamped
      d2.completeEvent c.cid e.result
    | [] => (d.keepRunning c).onHost (fun h => { h with aer := h.aer ++ [c.cid] })

end Sys2Proof.Machine
end

