-- ==== Sys2Proof/Machine/Flags.lean ====
section
/-! DEFINITION. Status registers whose value is computed from the state of their unit (R386, R511, R512, R543, R285, R487,
R569). -/

namespace Sys2Proof.Machine
open Sys2Proof

/-- A signed number as a dword. -/
def sword (x : Int) : Word := BitVec.ofInt 32 x

/-- A signed number as a dword, saturating. -/
def satWord (x : Int) : Word := sword (max (-2147483648) (min 2147483647 x))

/-- Flags as a number, the first at bit `lo`. -/
def flagsAt (lo : Nat) : List Bool → Nat
  | [] => 0
  | b :: r => b2n b * 2 ^ lo + flagsAt (lo + 1) r

/-- STATE encoding of ID_BOOT_STATUS. -/
def BootState.code : BootState → Nat
  | .romInit => 0
  | .hostWait => 1
  | .loading => 2
  | .fwStart => 3
  | .ready => 4
  | .twilight => 5

/-- IMAGE encoding. -/
def Image.code : Image → Nat
  | .a => 0
  | .b => 1
  | .host => 2
  | .none => 3

/-- LNK_STATUS.STATE encoding (R543). -/
def LinkState.code : LinkState → Nat
  | .off => 0
  | .training => 1
  | .init => 2
  | .up => 3
  | .held => 4
  | .miswired => 5

/-- DMA_CH_STATUS.STATE encoding (R487). -/
def DmaState.code : DmaState → Nat
  | .idle => 0
  | .running => 1
  | .waiting => 2
  | .stopping => 3

/-- The tick source in use (R16). -/
def Dev.tickSource (d : Dev) : Nat := fld (d.reg 0x01 0x100) 0 3

/-- DISCIPLINE in use (R489). -/
def Dev.discipline (d : Dev) : Nat := fld (d.reg 0x01 0x00C) 0 3

/-- Computed registers of feature 0x01 (R511). -/
def Dev.timeWord (d : Dev) (off : Nat) : Option Word :=
  let q : Nat → Option Word := fun v => some (if off % 8 = 0 then lo32 v else hi32 v)
  match off with
  | 0x000 | 0x004 => q d.sdt
  | 0x008 => some (word (2 ^ 31 * b2n d.sid.set + 2 ^ 30 * b2n d.sid.locked + d.discipline))
  | 0x010 => some (satWord d.sid.offset)
  | 0x014 => some (sword d.sid.ppb)
  | 0x018 | 0x01C => q d.sid.ppsIn
  | 0x118 => some (word d.tick.k0)
  | 0x11C => some (word (if d.tick.begun then d.tick.now else 0))
  | 0x120 | 0x124 => q d.tick.last
  | 0x128 | 0x12C => q d.tick.next
  | 0x130 => some (word (2 ^ 31 * b2n d.tick.running + 2 ^ 30 * b2n d.tick.holdover + min d.tick.count 8))
  | _ => none

/-- Computed registers of feature 0x21 (R512). -/
def Dev.ethWord (d : Dev) (off : Nat) : Option Word :=
  let e := off / 0x100
  let p := d.ethPort e
  if off < 0x200 then
    match off % 0x100 with
    | 0x04 => some (word (flagsAt 26 [p.gclNext.isSome, p.remoteFault, p.localFault, p.blockLock, p.held, p.up]))
    | 0x4C => some (word (2 ^ 28 * p.ptp.portState))
    | 0x58 => some (Config.mac (2 * e))
    | 0x5C => some (Config.mac (2 * e + 1) &&& 0xFFFF)
    | _ => none
  else if 0x10000 ≤ off ∧ off < 0x20000 ∧ off % 16 = 8 then
    some (word ((Tbl.get (fun _ => {}) d.shapers ((off - 0x10000) / 16)).mb / 8000))
  else if 0x20000 ≤ off ∧ off < 0x30000 ∧ off % 16 = 8 then
    some (word ((Tbl.get (fun _ => {}) d.policers ((off - 0x20000) / 16)).mb / 8000))
  else none

/-- Computed registers of feature 0x22 (R543). -/
def Dev.lnkWord (d : Dev) (off : Nat) : Option Word :=
  if off < 0x400 then
    let n := off / 0x100
    let p := d.port n
    match off % 0x100 with
    | 0x04 => some (word (2 ^ 29 * p.state.code + 2 ^ 28 * b2n (decide (d.boot.role = 2 ∧ n = 0)) + 2 ^ 24 * p.laneLock +
                2 ^ 12 * p.peerDev))
    | 0x08 => some (p.peerUid.getD 0 0)
    | 0x0C => some (p.peerUid.getD 1 0)
    | 0x10 => some (p.peerUid.getD 2 0)
    | 0x14 => some (p.peerUid.getD 3 0)
    | 0x1C => some (if d.boot.role = 2 ∧ n = 0 then satWord d.link.offset else 0)
    | _ => none
  else
    match off with
    | 0x800 => some (word (2 ^ 28 * d.link.depth + 2 ^ 16 * d.link.last + 2 ^ 15 * b2n d.link.enumerated + d.link.id))
    | 0x808 => some (word (flagsAt 29 [d.tick.mismatch, decide (d.boot.role = 2) && d.tick.holdover, d.tick.following]))
    | 0x810 => some (word d.link.unassigned)
    | 0x814 => some (word (2 ^ 16 * d.link.bcastFailed + d.link.bcastFirst))
    | _ => none

/-- Sizes and counts of the pools (R274). -/
def poolSize (p : Nat) : Nat := match p with
  | 0 => 256
  | 1 => 4096
  | 2 => 65536
  | _ => 1048576

def poolCount (p : Nat) : Nat := match p with
  | 0 => 1048576
  | 1 => 262144
  | 2 => 65536
  | _ => 2048

/-- Free buffers of a pool. -/
def Dev.poolFree (d : Dev) (p : Nat) : Nat := poolCount p - (d.poolAt p).alloc.length

/-- Buffers of a pool held by C1 to C3. -/
def Dev.poolNonC0 (d : Dev) (p : Nat) : Nat :=
  ((d.poolAt p).alloc.filter (fun e => match e.2 with
    | some b => decide (b.cls ≠ 0)
    | none => false)).length

/-- Buffer `i` of pool `p`, where it is allocated. -/
def Dev.buf (d : Dev) (p i : Nat) : Option Buf := Tbl.get (fun _ => none) (d.poolAt p).alloc i

/-- Put buffer `i` of pool `p`. -/
def Dev.setBuf (d : Dev) (p i : Nat) (b : Option Buf) : Dev :=
  d.onPool p (fun q => { q with alloc := Tbl.set (fun _ => none) q.alloc i b })

/-- Computed registers of feature 0x1B (R285). -/
def Dev.poolWord (d : Dev) (off : Nat) : Option Word :=
  if off = 0x100 then some (word d.pools.epoch)
  else if 0x100 < off then none
  else
    let n := off / 0x40
    let p := d.poolAt n
    match off % 0x40 with
    | 0x00 => some (lo32 p.base)
    | 0x04 => some (hi32 p.base)
    | 0x08 => some (word (if d.pools.ready then d.poolFree n else 0))
    | 0x0C => some (word p.reserve)
    | 0x10 => some (word (d.poolNonC0 n))
    | 0x18 => some (word (2 ^ 28 * p.lastCode + 2 ^ 21 * p.lastPort + p.lastTag))
    | 0x1C => some (word p.lastPtr)
    | _ => none

/-- Computed registers of feature 0x1A (R285). -/
def Dev.fabWord (d : Dev) (off : Nat) : Option Word :=
  if 0x010 ≤ off ∧ off < 0x02C then
    let e := d.fab.egr.getD ((off - 0x010) / 4) [0, 0, 0]
    some (word (2 ^ 12 * e.getD 2 0 + e.getD 1 0 * 2 ^ 6 + e.getD 0 0))
  else none

/-- Computed registers of feature 0x1E (R487). -/
def Dev.drcWord (d : Dev) (off : Nat) : Option Word :=
  let c := d.dram.getD (off / 0x40) {}
  match off % 0x40 with
  | 0x00 => some (word (2 ^ 31 * b2n c.trained + 2 ^ 30 * b2n c.refresh2x + 2 ^ 29 * b2n (d.wports.any (fun w => w.panic)) +
              2 ^ 16 * c.ranks + 2 ^ 8 * c.mr4 + c.capGiB))
  | 0x10 => some (lo32 c.lastUe)
  | 0x14 => some (hi32 c.lastUe)
  | _ => none

/-- Computed registers of feature 0x1F (R487). -/
def Dev.dmaWord (d : Dev) (off : Nat) : Option Word :=
  if off < 0x800 then
    let c := d.dmaCh (off / 0x40)
    match off % 0x40 with
    | 0x04 => some (word (2 ^ 30 * c.state.code + 2 ^ 16 * b2n c.shadowLate + c.index))
    | 0x08 => some (lo32 c.prog)
    | 0x0C => some (hi32 c.prog)
    | _ => none
  else
    match off with
    | 0x800 | 0x808 => some (lo32 d.dmaEvents)
    | 0x804 | 0x80C => some (hi32 d.dmaEvents)
    | _ => none

/-- Computed registers of feature 0x20 (R487). -/
def Dev.pwrWord (d : Dev) (off : Nat) : Option Word :=
  match off with
  | 0x00 => some (lo32 d.power.on.toNat)
  | 0x04 => some (hi32 d.power.on.toNat)
  | 0x08 => some (lo32 d.power.quiescing.toNat)
  | 0x0C => some (hi32 d.power.quiescing.toNat)
  | _ =>
    if 0x10 ≤ off ∧ off < 0x24 then
      let j := (off - 0x10) / 4
      some (word (sumBy (fun i => d.power.level.getD (8 * j + i) 0 * 2 ^ (4 * i)) (List.range 8)))
    else none

/-- FLT_, BBX_ and INT_ registers, by BAR0 offset (R569). -/
def Dev.alwaysOnWord (d : Dev) (off : Nat) : Word :=
  match off with
  | 0x3000 => word d.intr.levelBits
  | 0x3010 => word (sumBy (fun id => 2 ^ (id - 1008)) d.intr.hostPending)
  | 0x3020 => word d.intr.spurious
  | 0x3024 => word d.intr.badComplete
  | 0x4000 => word (flagsAt 29 [d.flt.anyClass 1, d.flt.anyClass 2, d.flt.anyClass 3] + d.flt.setCount)
  | 0x4004 =>
    let stopped := match d.twk.stopAt with
      | some t => decide (t ≤ d.clk)
      | none => false
    let mode := match d.twk.mode with
      | .low => 0
      | .run => 1
      | .twilight => 2
    word (flagsAt 28 [d.twk.level, stopped && d.intr.anyExpired, stopped && d.flt.anyClass 3, stopped] + mode)
  | 0x4008 =>
    let c := d.intr.cores
    word (flagsAt 20 (c.map (fun x => x.expired)) + flagsAt 16 (c.map (fun x => x.warning)) + 10)
  | 0x400C => word d.flt.faCnt
  | 0x4010 => word (2 ^ 30 * d.flt.lastClass + d.flt.lastSrc)
  | 0x4014 => word d.flt.lastArg
  | 0x4018 => lo32 d.flt.lastTime
  | 0x401C => hi32 d.flt.lastTime
  | 0x4800 => word (2 ^ 31 * b2n (decide (256 ≤ d.bbx.firstNo)) + 2 ^ 30 * b2n (decide (64 ≤ d.bbx.queue.length)) +
                min 256 d.bbx.firstNo)
  | 0x4804 => if d.bbx.mainNo = 0 then 0xFFFFFFFF else word (d.bbx.mainNo - 1)
  | 0x4808 => if d.bbx.bootNo = 0 then 0xFFFFFFFF else word (d.bbx.bootNo - 1)
  | 0x480C => word d.bbx.queue.length
  | 0x4810 => word d.bbx.lostCnt
  | 0x4814 => word d.bbx.mramCe
  | 0x4818 => word (d.bbx.mirrorGen.getD 0 0)
  | 0x481C => word (d.bbx.mirrorGen.getD 1 0)
  | _ =>
    if 0x3040 ≤ off ∧ off < 0x3050 then
      let c := d.intr.core ((off - 0x3040) / 4)
      word (2 ^ 31 * b2n c.awake + 2 ^ 30 * b2n c.powered + 2 ^ 24 * b2n (c.powered && decide (c.level = 0)) + 2 ^ 16 * c.current + c.lastId)
    else if 0x3100 ≤ off ∧ off < 0x3180 then
      let j := (off - 0x3100) / 4
      word (sumBy (fun id => if id / 32 = j then 2 ^ (id % 32) else 0) d.intr.pending)
    else if 0x3180 ≤ off ∧ off < 0x3200 then
      let j := (off - 0x3180) / 4
      word (sumBy (fun e => if e.1 / 32 = j then 2 ^ (e.1 % 32) else 0) d.intr.active)
    else if 0x3800 ≤ off ∧ off < 0x4000 then
      let j := (off - 0x3800) / 4
      word (d.intr.set (2 * j) + 2 ^ 16 * d.intr.set (2 * j + 1))
    else if 0x4100 ≤ off ∧ off < 0x414C then
      word (bits d.flt.status.toNat (32 * ((off - 0x4100) / 4)) 32)
    else if 0x4200 ≤ off ∧ off < 0x4298 then
      let j := (off - 0x4200) / 4
      word (sumBy (fun i => if 16 * j + i < 600 then d.flt.classOf (16 * j + i) * 4 ^ i else 0) (List.range 16))
    else 0

end Sys2Proof.Machine
end

