-- ==== Sys2Proof/Machine/Bar0.lean ====
section
/-! DEFINITION. BAR0 and BAR2 (R388 to R400, R491, R492, R549, R561, R562): reads, writes, mailboxes. -/

namespace Sys2Proof.Machine
open Sys2Proof

/-- Mailbox `i`. -/
def Dev.mailbox (d : Dev) (i : Nat) : Mailbox := d.host.mbx.getD i {}

/-- Change mailbox `i`. -/
def Dev.onMbx (d : Dev) (i : Nat) (f : Mailbox → Mailbox) : Dev := d.onHost (fun h => { h with mbx := modAt h.mbx i f })

/-- The 64 bytes of a mailbox (R393). -/
def Mailbox.bytes (b : Mailbox) : List Byte :=
  [b.code, b.tag] ++ padTo 2 b.rsvd ++ padTo 28 b.args ++ leBytes 2 b.status ++ [b.tagEcho, 0] ++ padTo 28 b.data

/-- Answer a mailbox: STATUS, TAG_ECHO and DATA, then BUSY and DONE in one clock (R394). -/
def Dev.answer (d : Dev) (i status : Nat) (data : List Byte) : Dev :=
  let d1 := d.onMbx i (fun b => { b with status := status, tagEcho := b.tag, data := padTo 28 data, busy := false, done := true })
  if d1.host.mbxIe then d1.msix 63 else d1

/-- Whether the table of R395 serves a code on mailbox `i`. -/
def codeServed (i code : Nat) : Bool :=
  decide (code = 0x20) || (decide (i = 0) && [1, 2, 3].contains code) || (decide (i = 1) && decide (code = 0x10))

/-- A ring of mailbox `i` that no row of R395 serves is answered at once; before DRAM training it is held (R395). -/
def Dev.answerUnknown (d : Dev) (i : Nat) : Dev :=
  let b := d.mailbox i
  if b.busy && decide (d.boot.state ≠ .romInit) && !codeServed i b.code.toNat then d.answer i Status.invalidOpcode []
  else d

/-- A ring of mailbox `i` (R394). -/
def Dev.ring (d : Dev) (i : Nat) : Dev :=
  if (d.mailbox i).busy then d.onMbx i (fun b => { b with late := true })
  else ((d.onMbx i (fun b => { b with busy := true })).fireInt (4 + i)).answerUnknown i

/-- Whether mailbox `i` waits with this code and may be served (R395). -/
def Dev.mbxWaits (d : Dev) (i code : Nat) : Bool :=
  let b := d.mailbox i
  b.busy && decide (b.code.toNat = code) && codeServed i code && decide (d.boot.state ≠ .romInit)

/-- Acknowledgement of a host source (R562). -/
def Dev.hostAck (d : Dev) (id : Nat) : Dev :=
  if 1008 ≤ id ∧ id ≤ 1015 ∧ d.intr.pending.contains id then
    let n := { d.intr with pending := d.intr.pending.filter (fun x => decide (x ≠ id)) }
    let again := n.en id && n.asserted.contains id && decide (id ≠ 1012 ∧ id ≠ 1013)
    let n1 := if again then { n with pending := insertNat id n.pending } else n
    let d1 := { d with intr := n1 }
    if n1.hostPending.isEmpty then d1 else d1.msix 63
  else d.onIntr (fun n => { n with badComplete := satAdd32 n.badComplete 1 })

/-- New EN and PRIORITY of a host source (R561, R562): a cleared EN clears pending; a set EN pends an asserted level. -/
def Intr.hostSetting (n : Intr) (id v : Nat) : Intr :=
  let s := 256 * (n.set id % 2 ^ 15 / 256) + v % 256 + (if bit v 15 then 2 ^ 15 else 0)
  let was := n.en id
  let n1 := { n with setting := Tbl.set intrDefault n.setting id s }
  if !bit v 15 then { n1 with pending := n1.pending.filter (fun x => decide (x ≠ id)) }
  else if !was && n1.asserted.contains id && decide (id ≠ 1012 ∧ id ≠ 1013) then { n1 with pending := insertNat id n1.pending }
  else n1

/-- Whether the cause of a fault source persists (R545, R549): the environment's reports and the watchdogs. -/
def Dev.persists (d : Dev) (s : Nat) : Bool :=
  d.flt.causes.contains s || (decide (488 ≤ s) && decide (s < 492) && (d.intr.core (s - 488)).expired) ||
  (decide (421 ≤ s) && decide (s < 425) && d.pools.ready && decide (d.poolFree (s - 421) = 0))

/-- Clear fault status bits whose cause no longer persists (R549). -/
def Dev.clearFaults (d : Dev) (srcs : List Nat) : Dev :=
  let gone := srcs.filter (fun s => !d.persists s)
  d.onFlt (fun f => { f with status := gone.foldl (fun st s => st &&& ~~~(BitVec.twoPow 600 s)) f.status })

/-- Write of one dword to a mailbox's host half (R394). -/
def Mailbox.write (b : Mailbox) (o v : Nat) : Mailbox :=
  if b.busy then b
  else
    let bs := leBytes 4 v
    match o with
    | 0 => { b with code := bs.getD 0 0, tag := bs.getD 1 0, rsvd := (bs.drop 2).take 2 }
    | _ => { b with args := (b.args.take (o - 4)) ++ bs ++ b.args.drop o }

/-- The DB_ registers that set up the admin queue (R399, R400, R391). -/
def Dev.writeAdm (d : Dev) (off v : Nat) : Dev :=
  match off with
  | 0x2800 | 0x2808 => if d.host.admEn then d else d.onHost (fun h => { h with qwLow := Tbl.set (fun _ => 0) h.qwLow off v })
  | 0x2804 =>
    if d.host.admEn then d
    else d.onHost (fun h => { h with admSqBase := 2 ^ 32 * v + Tbl.get (fun _ => 0) h.qwLow 0x2800 })
  | 0x280C =>
    if d.host.admEn then d
    else d.onHost (fun h => { h with admCqBase := 2 ^ 32 * v + Tbl.get (fun _ => 0) h.qwLow 0x2808 })
  | 0x2810 => if d.host.admEn then d else d.onHost (fun h => { h with admSize := word v &&& 0x1FFF1FFF })
  | 0x2814 => if bit v 0 then d.adminEnable else d.adminDisable
  | _ => d

/-- Effect of writing one aligned dword to BAR0 (R9, R10, R388, R390). -/
def Mach.bar0Write (m : Mach) (off v : Nat) : Mach :=
  let d := m.dev
  if 0x1000 ≤ off ∧ off < 0x1100 then
    let o := off % 0x40
    if o < 32 then onDev (fun d => d.onMbx ((off - 0x1000) / 0x40) (fun b => b.write o v)) m else m
  else if off = 0x1100 then
    onDev (fun d => [0, 1, 2, 3].foldl (fun d i => if bit v i then d.ring i else d) d) m
  else if off = 0x1108 then
    onDev (fun d => [0, 1, 2, 3].foldl (fun d i => if bit v i then d.onMbx i (fun b => { b with done := false }) else d) d) m
  else if off = 0x110C then
    onDev (fun d => [0, 1, 2, 3].foldl (fun d i => if bit v i then d.onMbx i (fun b => { b with late := false }) else d) d) m
  else if off = 0x1110 then onDev (fun d => d.onHost (fun h => { h with mbxIe := bit v 0 })) m
  else if 0x2000 ≤ off ∧ off < 0x2800 then
    let q := (off - 0x2000) / 8
    if off % 8 = 0 then onDev (fun d => d.sqDoorbell q (v % 65536)) m else m.cqDoorbell q (v % 65536)
  else if 0x2800 ≤ off ∧ off < 0x2818 then onDev (fun d => d.writeAdm off v) m
  else if off = 0x3014 then onDev (fun d => d.hostAck (v % 1024)) m
  else if 0x3FE0 ≤ off ∧ off < 0x3FF0 then
    let id := 1008 + (off - 0x3FE0) / 2
    onDev (fun d => d.onIntr (fun n => (n.hostSetting id (v % 65536)).hostSetting (id + 1) (v / 65536))) m
  else if 0x4100 ≤ off ∧ off < 0x414C then
    let j := (off - 0x4100) / 4
    let srcs := (List.range 32).filter (fun i => bit v i && decide (32 * j + i < 600))
    { m with dev := d.clearFaults (srcs.map (fun i => 32 * j + i)) }
  else m

/-- Effect of writing one aligned dword to the MSI-X table of BAR2 (R397): clearing a mask sends a pending message. -/
def Dev.bar2Write (d : Dev) (off v : Nat) : Dev :=
  let i := off / 16
  if 64 ≤ i then d
  else
    let upd : (MsixEntry → MsixEntry) → Dev := fun f => d.onHost (fun h => { h with msix := modAt h.msix i f })
    match off % 16 with
    | 0 => upd (fun e => { e with addr := 2 ^ 32 * (e.addr / 2 ^ 32) + v })
    | 4 => upd (fun e => { e with addr := 2 ^ 32 * v + e.addr % 2 ^ 32 })
    | 8 => upd (fun e => { e with data := v })
    | 12 =>
      let d1 := upd (fun e => { e with masked := bit v 0 })
      match d.host.msix[i]? with
      | some e =>
        if e.pba && !bit v 0 then
          (d1.onHost (fun h => { h with msix := modAt h.msix i (fun e => { e with pba := false }) })).msix i
        else d1
      | none => d1
    | _ => d

/-- ID_BOOT_STATUS (R386). -/
def Dev.bootStatus (d : Dev) (failed : Nat) : Word :=
  let b := d.boot
  word (2 ^ 28 * b.state.code + 2 ^ 16 * b.reason + 2 ^ 14 * b.role + 2 ^ 12 * b.bootSrc +
    2 ^ 11 * b2n (decide (b.role = 3) || b.testEn) + 2 ^ 9 * b.image.code + 2 ^ 8 * b2n b.dramOk +
    min failed 2 * 2 ^ 4)

/-- ID_BOOT_ATTEMPTS (R386). -/
def Boot.attemptsWord (b : Boot) : Word :=
  let byteOf : Attempt → Nat := fun a => 0x80 + a.image.code * 16 + a.cause
  word (leNat ((b.attempts.take 3).map (fun a => BitVec.ofNat 8 (byteOf a))))

/-- One dword of BAR0 as a read returns it (R388). The failure count of the boot control record is read from MRAM. -/
def Mach.bar0Word (m : Mach) (off : Nat) : Word :=
  let d := m.dev
  if off < 0x1000 then
    match off with
    | 0x00 => 0x91601F2E
    | 0x04 => 0x00000100
    | 0x08 => if d.boot.state = .ready then 1 else 0
    | 0x0C => word d.deviceId
    | 0x10 => d.bootStatus (rd (m.mem.entry 1) 0 1)
    | 0x14 => d.boot.attemptsWord
    | 0x18 => word d.boot.fwVersion
    | 0x1C => word (2 ^ 8 * d.boot.secVersion + d.otp.floor)
    | 0x20 => 0x00FF3F04
    | 0x24 => 0x00001000
    | 0x28 => 0x00010000
    | 0x2C => word (2 ^ 16 * d.host.heldPeak + d.host.held.length)
    | 0x30 => Config.uid 0
    | 0x34 => Config.uid 1
    | 0x38 => Config.uid 2
    | 0x3C => Config.uid 3
    | 0x40 => word d.host.badAccess
    | _ => 0
  else if off < 0x1100 then word (rd (d.mailbox ((off - 0x1000) / 0x40)).bytes (off % 0x40) 4)
  else if off < 0x2000 then
    match off with
    | 0x1104 => word (flagsAt 0 (d.host.mbx.map (fun b => b.busy)))
    | 0x1108 => word (flagsAt 0 (d.host.mbx.map (fun b => b.done)))
    | 0x110C => word (flagsAt 0 (d.host.mbx.map (fun b => b.late)))
    | 0x1110 => word (b2n d.host.mbxIe)
    | _ => 0
  else if off < 0x2800 then
    let q := (off - 0x2000) / 8
    if off % 8 = 0 then (match d.sq q with
      | some s => word s.tail
      | none => 0)
    else (match d.cq q with
      | some c => word c.head
      | none => 0)
  else if off < 0x3000 then
    let sqBad : Nat → Bool := fun q => match d.sq q with
      | some s => s.bad
      | none => false
    let cqBad : Nat → Bool := fun q => match d.cq q with
      | some c => c.bad
      | none => false
    match off with
    | 0x2800 => lo32 d.host.admSqBase
    | 0x2804 => hi32 d.host.admSqBase
    | 0x2808 => lo32 d.host.admCqBase
    | 0x280C => hi32 d.host.admCqBase
    | 0x2810 => d.host.admSize
    | 0x2814 => word (b2n d.host.admEn)
    | 0x2818 => word (flagsAt 0 [d.host.admRdy, sqBad 0 || cqBad 0, d.host.admCfgErr])
    | 0x2860 => word d.host.stray
    | _ =>
      if 0x2820 ≤ off ∧ off < 0x2840 then word (flagsAt 0 ((List.range 32).map (fun i => sqBad (32 * ((off - 0x2820) / 4) + i))))
      else if 0x2840 ≤ off ∧ off < 0x2860 then
        word (flagsAt 0 ((List.range 32).map (fun i => cqBad (32 * ((off - 0x2840) / 4) + i))))
      else 0
  else if off < 0x5000 then d.alwaysOnWord off
  else if off < 0x6000 then (d.timeWord (off - 0x5000)).getD (d.reg 0x01 (off - 0x5000))
  else if off < 0x7000 then d.reg 0 off
  else Tbl.get (fun _ => 0) d.snap off

/-- What a BAR0 read of one dword changes: RC counters clear, ID_HOLD's PEAK restarts, SDT_NOW's lower half latches the
upper one (R9, R392, R492). SDT_PPS_REJECT_CNT reads as RO here (R511). -/
def Dev.bar0ReadEffect (d : Dev) (off : Nat) : Dev :=
  match off with
  | 0x2C => d.onHost (fun h => { h with heldPeak := h.held.length })
  | 0x40 => d.onHost (fun h => { h with badAccess := 0 })
  | 0x2860 => d.onHost (fun h => { h with stray := 0 })
  | 0x3020 => d.onIntr (fun n => { n with spurious := 0 })
  | 0x3024 => d.onIntr (fun n => { n with badComplete := 0 })
  | 0x400C => d.onFlt (fun f => { f with faCnt := 0 })
  | 0x4810 => d.onBbx (fun b => { b with lostCnt := 0 })
  | 0x4814 => d.onBbx (fun b => { b with mramCe := 0 })
  | 0x5000 => d.onHost (fun h => { h with sdtLatch := some (hi32 d.sdt) })
  | 0x5004 => d.onHost (fun h => { h with sdtLatch := none })
  | _ => d

/-- A dword read of BAR0: its value leaves the device, then its effect (R391). -/
def Mach.bar0Read (m : Mach) (off : Nat) : Mach :=
  let v := match off, m.dev.host.sdtLatch with
    | 0x5004, some w => w
    | _, _ => m.bar0Word off
  { m with dev := (m.dev.emit (.bar0 off v.toNat)).bar0ReadEffect off }

/-- BAR0 accesses complete only while the PCI Express link is up (R389). -/
def Dev.barReachable (d : Dev) : Bool := d.boot.linkUp

/-! ### Meanings -/

/-- BAD_ACCESS: an access outside R390 is discarded and counted. -/
def execBadAccess (s : State) : Host.Outcome State Fault Refusal :=
  liveDev (fun d => onlyIf d.barReachable (fun d => d.onHost (fun h => { h with badAccess := satAdd32 h.badAccess 1 })) d) s

/-- BAR0_RC_READ: a dword read at an offset of BAR0; a read-clear field returns its value and clears (R9). -/
def execBar0RcRead (off : Nat) (s : State) : Host.Outcome State Fault Refusal :=
  live (fun m => onlyIf (m.dev.barReachable && decide (off % 4 = 0 ∧ off < 0x10000)) (fun m => m.bar0Read off) m) s

/-- SDT_NOW_LOW_READ: a dword read of SDT_NOW's lower half latches the upper half (R492). -/
def execSdtNowLowRead (s : State) : Host.Outcome State Fault Refusal :=
  live (fun m => onlyIf m.dev.barReachable (fun m => m.bar0Read 0x5000) m) s

/-- SQ_TAIL_DOORBELL (R403, R405, R406). -/
def execSqTailDoorbell (q t : Nat) (s : State) : Host.Outcome State Fault Refusal :=
  liveDev (fun d => onlyIf (d.barReachable && decide (q < 256 ∧ t < 65536)) (fun d => d.sqDoorbell q t) d) s

/-- CQ_HEAD_DOORBELL (R404, R405, R407, R419). -/
def execCqHeadDoorbell (q h : Nat) (s : State) : Host.Outcome State Fault Refusal :=
  live (fun m => onlyIf (m.dev.barReachable && decide (q < 256 ∧ h < 65536)) (fun m => m.cqDoorbell q h) m) s

/-- ADMIN_ENABLE: a write of EN = 1 (R400). -/
def execAdminEnable (s : State) : Host.Outcome State Fault Refusal :=
  liveDev (fun d => onlyIf d.barReachable Dev.adminEnable d) s

/-- ADMIN_DISABLE: a write of EN = 0 (R401). -/
def execAdminDisable (s : State) : Host.Outcome State Fault Refusal :=
  liveDev (fun d => onlyIf d.barReachable Dev.adminDisable d) s

/-- REGISTER_WRITE: a write of a dword, or of a qword as its two dwords from the lower one up (R390, R391, R405), to BAR0
or to the MSI-X table of BAR2; an access of another shape is BAD_ACCESS. -/
def execRegisterWrite (bar2 : Bool) (off : Nat) (qword : Bool) (v : Nat) (s : State) : Host.Outcome State Fault Refusal :=
  live (fun m =>
    if !m.dev.barReachable then m
    else if bar2 then
      onDev (fun d => if qword then (d.bar2Write off (v % 2 ^ 32)).bar2Write (off + 4) (v / 2 ^ 32 % 2 ^ 32)
                      else d.bar2Write off (v % 2 ^ 32)) m
    else if off % (if qword then 8 else 4) ≠ 0 ∨ 0x10000 ≤ off then
      onDev (fun d => d.onHost (fun h => { h with badAccess := satAdd32 h.badAccess 1 })) m
    else if qword then (m.bar0Write off (v % 2 ^ 32)).bar0Write (off + 4) (v / 2 ^ 32 % 2 ^ 32)
    else m.bar0Write off (v % 2 ^ 32)) s

/-- FAULT_STATUS_CLEAR: a write of 1s to FLT_STATUSj (R549). -/
def execFaultStatusClear (j v : Nat) (s : State) : Host.Outcome State Fault Refusal :=
  live (fun m => onlyIf (m.dev.barReachable && decide (j < 19)) (fun m => m.bar0Write (0x4100 + 4 * j) v) m) s

/-- INT_HOST_ACK: acknowledgement of a host source (R562). -/
def execIntHostAck (id : Nat) (s : State) : Host.Outcome State Fault Refusal :=
  liveDev (fun d => onlyIf d.barReachable (fun d => d.hostAck (id % 1024)) d) s

/-- HOST_SOURCE_ENABLE: a write of a host source's EN and PRIORITY (R561, R562). -/
def execHostSourceEnable (id : Nat) (en : Bool) (prio : Nat) (s : State) : Host.Outcome State Fault Refusal :=
  liveDev (fun d => onlyIf (d.barReachable && decide (1008 ≤ id ∧ id ≤ 1015))
    (fun d => d.onIntr (fun n => n.hostSetting id (2 ^ 15 * b2n en + prio % 256))) d) s

/-- ECHO: mailbox `i` answers OK with DATA equal to ARGS (R395). -/
def execEcho (i : Nat) (s : State) : Host.Outcome State Fault Refusal :=
  liveDev (fun d => onlyIf (decide (i < 4) && d.mbxWaits i 0x20) (fun d => d.answer i Status.ok (d.mailbox i).args) d) s

/-- The black-box bytes of `count` entries from entry `first` (R563). -/
def Mem.entries (m : Mem) (first : Nat) : Nat → List Byte
  | 0 => []
  | k + 1 => padTo 64 (m.entry first) ++ m.entries (first + 1) k

/-- BBX_READ: mailbox 1 copies black-box entries to host memory (R395). -/
def execBbxRead (s : State) : Host.Outcome State Fault Refusal :=
  live (fun m => onlyIf (m.dev.mbxWaits 1 0x10) (fun m =>
    let a := (m.dev.mailbox 1).args
    let first := rd a 0 4
    let count := rd a 4 4
    let addr := rd a 8 8
    if count = 0 ∨ 4096 < count ∨ 131072 < first + count ∨ addr % 64 ≠ 0 ∨ !hostOk addr (64 * count) then
      { m with dev := m.dev.answer 1 Status.invalidField [] }
    else
      { dev := m.dev.answer 1 Status.ok [], mem := m.mem.hostWrite addr (m.mem.entries first count) }) m) s

/-- SQ_FETCH (R409 to R412). -/
def execSqFetch (admin : Bool) (s : State) : Host.Outcome State Fault Refusal :=
  live (fun m => m.sqFetch admin) s

/-- COMPLETION_POST (R413, R419 to R421). -/
def execCompletionPost (s : State) : Host.Outcome State Fault Refusal :=
  live Mach.postCompletion s

/-- CQ_AGG_TIMEOUT (R398). -/
def execCqAggTimeout (q : Nat) (s : State) : Host.Outcome State Fault Refusal :=
  liveDev (fun d => d.aggTimeout q) s

/-- CREATE_SQ (R414, R415). -/
def execCreateSq (sq cid : Nat) (s : State) : Host.Outcome State Fault Refusal :=
  live (runCmd sq cid 0x01 (fun c m => m.createSq c)) s

/-- CREATE_CQ (R414, R415). -/
def execCreateCq (sq cid : Nat) (s : State) : Host.Outcome State Fault Refusal :=
  live (runCmd sq cid 0x02 (fun c m => m.createCq c)) s

/-- DELETE_SQ (R416). -/
def execDeleteSq (sq cid : Nat) (s : State) : Host.Outcome State Fault Refusal :=
  live (runCmd sq cid 0x03 (fun c m => m.deleteSq c)) s

/-- DELETE_CQ (R417). -/
def execDeleteCq (sq cid : Nat) (s : State) : Host.Outcome State Fault Refusal :=
  live (runCmd sq cid 0x04 (fun c m => m.deleteCq c)) s

/-- ASYNC_EVENT_REQUEST (R423, R424). -/
def execAsyncEventRequest (sq cid : Nat) (s : State) : Host.Outcome State Fault Refusal :=
  live (runCmd sq cid 0x08 (fun c => onDev (fun d => d.asyncRequest c))) s

end Sys2Proof.Machine
end

