-- ==== Sys2Proof/Machine/Memory.lean ====
section
/-! DEFINITION. DRAM (R463 to R469): address map, write queue and forwarding, inline ECC, scrub, refresh, and the commands of
the controllers. -/

namespace Sys2Proof.Machine
open Sys2Proof

/-- Bytes of DRAM that can be addressed: 31/32 of the installed capacity (R463). -/
def Dev.dramUsable (d : Dev) : Nat := 2 ^ 30 * sumBy (fun c => c.capGiB) d.dram * 31 / 32

/-- Controller of an address: bits [12:11] (R463). -/
def dramCtlOf (a : Nat) : Nat := bits a 11 2

/-- A block's queued bytes, if the controller's write queue holds it (R468). -/
def DramCtl.queued (c : DramCtl) (blk : Nat) : Option (List (Option Byte)) :=
  (c.wq.find? (fun e => decide (e.1 = blk))).map (fun e => e.2)

/-- One byte of DRAM: from the write queue, else from the array (R468). -/
def Mach.dramByte (m : Mach) (a : Nat) : Byte :=
  match (m.dev.dram.getD (dramCtlOf a) {}).queued (a / 64) with
  | some l => ((l.getD (a % 64) none)).getD (Tbl.get byteZero m.mem.dram a)
  | none => Tbl.get byteZero m.mem.dram a

/-- `len` bytes of DRAM. -/
def Mach.dramBytes (m : Mach) (a : Nat) : Nat → List Byte
  | 0 => []
  | k + 1 => m.dramByte a :: m.dramBytes (a + 1) k

/-- The block numbers that a range touches. -/
def blocksOf (a len : Nat) : List Nat :=
  if len = 0 then [] else (List.range ((a + len - 1) / 64 - a / 64 + 1)).map (fun i => a / 64 + i)

/-- Reads served wholly or partly from a write queue are counted (R468). -/
def Dev.countForward (d : Dev) : List Nat → Dev
  | [] => d
  | b :: r =>
    let c := dramCtlOf (64 * b)
    let hit := ((d.dram.getD c {}).queued b).isSome
    (if hit then d.bump 0x1E (0x40 * c + 0x18) else d).countForward r

/-- Whether some block of a range is uncorrectable. -/
def Dev.badBlock (d : Dev) (bs : List Nat) : Option Nat :=
  bs.find? (fun b => (d.dram.getD (dramCtlOf (64 * b)) {}).bad.contains b)

/-- A corrected block (R465). -/
def Dev.dramCorrected (d : Dev) (a : Nat) : Dev :=
  let c := dramCtlOf a
  ((d.count 0x7040).bump 0x1E (0x40 * c + 0x08)).raise (464 + 4 * c) (bits a 6 32)

/-- An uncorrectable block: poisoned until it is wholly written (R465). -/
def Dev.dramUncorrectable (d : Dev) (a : Nat) : Dev :=
  let c := dramCtlOf a
  let d1 := d.onDram c (fun x => { x with lastUe := a / 64 * 64, bad := insertNat (a / 64) x.bad })
  (d1.bump 0x1E (0x40 * c + 0x0C)).raise (465 + 4 * c) (bits a 6 32)

/-- Apply the ECC errors that a read of a range found: address and whether it is uncorrectable. -/
def Dev.eccFound (d : Dev) (l : List (Nat × Bool)) : Dev :=
  l.foldl (fun d e => if e.2 then d.dramUncorrectable e.1 else d.dramCorrected e.1) d

/-- Drain the oldest entry of a write queue into the array. -/
def drainOne (mem : List Host.Cell) (e : Nat × List (Option Byte)) : List Host.Cell :=
  (List.range 64).foldl (fun t i => match e.2.getD i none with
    | some b => Tbl.set byteZero t (64 * e.1 + i) b
    | none => t) mem

/-- Merge bytes for one block into the write queue: the newest bytes win; a full queue drains its oldest entry (R468).
A block wholly written loses its poison; a part written keeps it (R465). -/
def Mach.queueBlock (m : Mach) (blk : Nat) (l : List (Option Byte)) : Mach :=
  let ci := dramCtlOf (64 * blk)
  let c := m.dev.dram.getD ci {}
  let whole := l.all (fun b => b.isSome)
  let bad := if whole then c.bad.filter (fun b => decide (b ≠ blk)) else c.bad
  match c.queued blk with
  | some old =>
    let new := List.zipWith (fun o n => match n with
      | some b => some b
      | none => o) old l
    { m with dev := m.dev.onDram ci (fun c => { c with bad := bad, wq := modifyFirst (fun e => decide (e.1 = blk)) (fun e => (e.1, new)) c.wq }) }
  | none =>
    if c.wq.length < 64 then
      { m with dev := m.dev.onDram ci (fun c => { c with bad := bad, wq := c.wq ++ [(blk, l)] }) }
    else
      let mem := match c.wq with
        | e :: _ => drainOne m.mem.dram e
        | [] => m.mem.dram
      { dev := m.dev.onDram ci (fun c => { c with bad := bad, wq := c.wq.drop 1 ++ [(blk, l)] }), mem := { m.mem with dram := mem } }

/-- Write bytes to DRAM block by block. -/
def Mach.dramWriteBlocks (m : Mach) (a : Nat) (l : List Byte) : List Nat → Mach
  | [] => m
  | b :: r =>
    let ent := (List.range 64).map (fun i => if 64 * b + i < a then none else l[64 * b + i - a]?)
    (m.queueBlock b ent).dramWriteBlocks a l r

/-- Write bytes to DRAM. -/
def Mach.dramWrite (m : Mach) (a : Nat) (l : List Byte) : Mach := m.dramWriteBlocks a l (blocksOf a l.length)

/-- Read bytes of DRAM: forwarded reads are counted; a poisoned block gives none after R465's report. -/
def Mach.dramRead (m : Mach) (a len : Nat) : Option (List Byte) × Mach :=
  let bs := blocksOf a len
  match m.dev.badBlock bs with
  | some b => (none, { m with dev := m.dev.dramUncorrectable (64 * b) })
  | none => (some (m.dramBytes a len), { m with dev := m.dev.countForward bs })

/-! ### Meanings -/

/-- DRAM_SCRUB: controller `c` reads its whole space, every DRC_SCRUB.HOURS hours, and applies R465 to what it finds, here
the errors that the environment names (R466). -/
def execDramScrub (c : Nat) (found : List (Nat × Bool)) (s : State) : Host.Outcome State Fault Refusal :=
  liveDev (fun d => onlyIf (decide (c < 4) && (d.dram.getD c {}).trained && d.takesWork (20 + c)) (fun d =>
    let hours := fld (d.reg 0x1E (0x40 * c + 0x04)) 0 8
    let d1 := d.advanceTo ((d.dram.getD c {}).scrubAt + 10 ^ 9 * (3600 * hours))
    let here := found.filter (fun e => decide (dramCtlOf e.1 = c) && decide (e.1 < d.dramUsable))
    (d1.onDram c (fun x => { x with scrubAt := d1.clk })).eccFound here) d) s

/-- MR4_READ: controller `c` reads MR4 of every device, every 4 ms, and doubles or halves its refresh rate; `codes` are the
devices' reports (R467). -/
def execMr4Read (c : Nat) (codes : List Nat) (s : State) : Host.Outcome State Fault Refusal :=
  liveDev (fun d => onlyIf (decide (c < 4) && (d.dram.getD c {}).trained && d.takesWork (20 + c)) (fun d =>
    let x := d.dram.getD c {}
    let d1 := d.advanceTo (4000000 + x.mr4At)
    let hot := codes.any Config.mr4Above85
    let beyond := codes.any Config.mr4Beyond
    let cool := if hot then 0 else x.cool + 1
    let top := codes.foldl max 0
    let d2 := d1.onDram c (fun y => { y with mr4At := d1.clk, mr4 := top % 256, cool := cool, beyond := beyond,
                                             refresh2x := hot || (y.refresh2x && decide (cool < 2)) })
    let src := 466 + 4 * c
    if beyond then
      (d2.onFlt (fun f => { f with causes := insertNat src f.causes })).raise src top
    else d2.onFlt (fun f => { f with causes := f.causes.filter (fun z => decide (z ≠ src)) })) d) s

end Sys2Proof.Machine
end

