-- ==== Sys2Proof/Machine/Boot.lean ====
section
/-! DEFINITION. Start-up (R369 to R387): the boot control record, image checks, the boot ROM, twilight mode, the mailbox
services LOAD, REBOOT and TWILIGHT_ENTER, the boot timers and READY. -/

namespace Sys2Proof.Machine
open Sys2Proof

/-! ### The boot control record (R375, R563) -/

/-- IN_PROGRESS encoding: 0 none, 1 A, 2 B, 3 host. -/
def Image.progress : Image → Nat
  | .none => 0
  | .a => 1
  | .b => 2
  | .host => 3

def progressImage (n : Nat) : Image := match n with
  | 1 => .a
  | 2 => .b
  | 3 => .host
  | _ => .none

/-- The 64 bytes of a copy. -/
def BootRecord.bytes (r : BootRecord) : List Byte :=
  withCrc (leBytes 1 r.failed ++ leBytes 1 (b2n r.exclA + 2 * b2n r.exclB) ++ leBytes 1 r.inProgress.progress ++ [0] ++
    leBytes 1 (r.causes.getD 0 0) ++ leBytes 1 (r.causes.getD 1 0) ++ leBytes 1 (r.causes.getD 2 0) ++ [0] ++ leBytes 4 r.writes)

/-- Whether 64 bytes carry their CRC. -/
def crcOk (l : List Byte) : Bool := decide (rd l 60 4 = crc32c 0 (l.take 60))

/-- The record that a copy spells, if its CRC passes. -/
def parseRecord (l : List Byte) : Option BootRecord :=
  if crcOk l then
    some { failed := rd l 0 1, exclA := bit (rd l 1 1) 0, exclB := bit (rd l 1 1) 1, inProgress := progressImage (rd l 2 1),
           causes := [rd l 4 1, rd l 5 1, rd l 6 1], writes := rd l 8 4 }
  else none

/-- Write the record to both copies; WRITES increments at each write. -/
def Mach.putRecord (m : Mach) (r : BootRecord) : Mach :=
  let b := BootRecord.bytes { r with writes := (r.writes + 1) % 2 ^ 32 }
  { m with mem := (m.mem.setEntry 1 b).setEntry 2 b }

/-- The record in force: of two valid copies the one written later; none where both fail (R375). -/
def Mem.record (m : Mem) : Option BootRecord :=
  match parseRecord (m.entry 1), parseRecord (m.entry 2) with
  | some a, some b => if a.writes < b.writes then some b else some a
  | some a, none => some a
  | none, some b => some b
  | none, none => none

/-! ### Images (R372, R373) -/

/-- Result of checking an image: the cause of the failure (R381), or its versions and slot. -/
inductive ImageCheck where
  | bad (cause : Nat)
  | good (imageVersion securityVersion : Nat)
  deriving DecidableEq, Repr

/-- The ordered checks of R373 on an image held in DRAM, for the strapped role. -/
def checkImage (otp : Otp) (role : Nat) (img : List Byte) : ImageCheck :=
  let plen := rd img 16 4
  let entry := rd img 20 4
  let slot := rd img 24 1
  let mask := rd img 25 1
  let fmt := decide (img.take 4 = [0x5A, 0x46, 0x57, 0x31]) && decide (rd img 4 2 = 1 ∧ rd img 6 2 = 1) &&
    decide (rd img 8 4 ≤ 64) && decide (64 ≤ plen ∧ plen ≤ 33553920 ∧ plen % 64 = 0) &&
    decide (entry < plen ∧ entry % 4 = 0) && decide (slot ≤ 3) && decide (mask < 8) && bit mask role &&
    decide (slice img 26 6 = zeros 6) && decide (slice img 48 208 = zeros 208) && decide (256 + plen + 193 ≤ img.length)
  let key := slice img (256 + plen) 97
  if !fmt then .bad 1
  else if Config.sha384 key ≠ Config.vendorKeyHash slot ∨ otp.revoked.getD slot true then .bad 2
  else if !Config.ecdsaVerify key (slice img (256 + plen + 97) 96) (Config.sha384 (img.take (256 + plen + 97))) then .bad 2
  else if rd img 8 4 < otp.floor then .bad 3
  else .good (rd img 12 4) (rd img 8 4)

/-- Base of an image slot in SPI NOR (R370). -/
def Image.norBase : Image → Nat
  | .b => 0x02000000
  | _ => 0

/-- The image in an SPI NOR slot, as its header gives its length. -/
def Mem.norImage (m : Mem) (i : Image) : List Byte :=
  let base := i.norBase
  let plen := rd (readBytes byteOnes m.nor (base + 16) 4) 0 4
  readBytes byteOnes m.nor base (if plen ≤ 33553920 then 256 + plen + 193 else 256)

/-! ### Twilight mode and hand-over -/

/-- Domains on in twilight mode: all but 0 to 7, 14 to 19 and 28 to 31 (R481). -/
def twilightDomains : BitVec 38 := BitVec.ofNat 38 0x3F0FF03F00

/-- Enter twilight mode (R378, R381 to R384). -/
def Mach.enterTwilight (m : Mach) (r : BootRecord) (reason : Nat) : Mach :=
  let m1 := m.putRecord { failed := 0, exclA := false, exclB := false, inProgress := .none, causes := r.causes, writes := r.writes }
  let d1 : Dev := { m1.dev with
    boot := { m1.dev.boot with state := .twilight, reason := reason, image := .none, fwVersion := 0, secVersion := 0,
                               wdogAt := none, readyTimer := none, newSequence := true, fresh := false },
    twk := { m1.dev.twk with mode := .twilight, nextEdge := 50000000 + m1.dev.clk },
    power := { m1.dev.power with on := twilightDomains } }
  let d2 := d1.record .boot 3 0xFF reason 0 (leBytes 4 d1.boot.attemptsWord.toNat)
  { m1 with dev := d2.adminActivate }

/-- Hand over to an image that passed its checks: the attempt is recorded as in progress, both timers start, and the
control cores run (R376, R379). -/
def Mach.handOver (m : Mach) (r : BootRecord) (img : Image) (ver sec : Nat) : Mach :=
  let m1 := m.putRecord { r with inProgress := img }
  let d := m1.dev
  let atts := (d.boot.attempts ++ [({ image := img, cause := 0 } : Attempt)]).take 3
  let d1 : Dev := { d with
    boot := { d.boot with state := .fwStart, reason := 0, image := img, fwVersion := ver, secVersion := sec,
                          wdogAt := some d.clk, readyTimer := some d.clk, attempts := atts, newSequence := false,
                          fresh := false },
    power := { d.power with on := d.power.on ||| BitVec.ofNat 38 0xF00000000 },
    intr := { d.intr with cores := d.intr.cores.map (fun c => { c with awake := true, powered := true }) },
    twk := { d.twk with mode := .low, level := false, stopAt := none, resumeAt := none } }
  { m1 with dev := d1.record .boot 2 0xFF r.failed (img.code % 3) (leBytes 4 0 ++ leBytes 4 ver) }

/-- An attempt failed its load or its checks: an SPI image is excluded, the count rises, the attempt is recorded (R377). -/
def Mach.failAttempt (m : Mach) (r : BootRecord) (img : Image) (cause ver : Nat) : Mach × BootRecord :=
  let r1 := { r with failed := r.failed + 1, exclA := r.exclA || decide (img = .a), exclB := r.exclB || decide (img = .b),
                     inProgress := .none, causes := modAt r.causes r.failed (fun _ => cause) }
  let d := m.dev
  let atts := (d.boot.attempts ++ [({ image := img, cause := cause } : Attempt)]).take 3
  let d1 := (d.onBoot (fun b => { b with attempts := atts, newSequence := false })).record .boot 2 0xFF r.failed
    (img.code % 3) (leBytes 4 cause ++ leBytes 4 ver)
  let m1 := Mach.putRecord { m with dev := d1 } r1
  (m1, { r1 with writes := (r1.writes + 1) % 2 ^ 32 })

/-- Twilight reason when a sequence has run out of attempts (R378): causes of its failures, the last of them last. -/
def failReason (causes : List Nat) : Nat :=
  if causes.all (fun c => decide (1 ≤ c ∧ c ≤ 4)) then 1
  else if (causes.filter (fun c => decide (5 ≤ c))).getLast? = some 6 then 3
  else 2

/-- The SPI image of attempt `c`: order A, B, A, skipping an excluded image (R377). -/
def spiChoice (r : BootRecord) : Option Image :=
  let first : Image := if r.failed % 2 = 0 then .a else .b
  let other : Image := if r.failed % 2 = 0 then .b else .a
  let excl : Image → Bool := fun i => if i = .a then r.exclA else r.exclB
  if !excl first then some first else if !excl other then some other else none

/-- Wait for a host image (R371). -/
def Mach.hostWait (m : Mach) : Mach :=
  { m with dev := m.dev.onBoot (fun b => { b with state := .hostWait, image := .host, fresh := false }) }

/-- The attempts of R377 from a record, at most `k` loads: `bad i` says that the read of image i fails. -/
def Mach.attempts (m : Mach) (r : BootRecord) (again : Image) (badA badB : Bool) : Nat → Mach
  | 0 => m.enterTwilight r (failReason (r.causes.take r.failed))
  | k + 1 =>
    if 3 ≤ r.failed then m.enterTwilight r (failReason (r.causes.take 3))
    else if m.dev.boot.bootSrc = 1 ∨ again = .host then m.hostWait
    else
      let choice := match again with
        | .a => some Image.a
        | .b => some Image.b
        | _ => spiChoice r
      match choice with
      | none => if m.dev.boot.bootSrc = 2 then m.hostWait else m.enterTwilight r (failReason (r.causes.take r.failed))
      | some i =>
        let img := m.mem.norImage i
        let res := if (if i = .a then badA else badB) then ImageCheck.bad 4 else checkImage m.dev.otp m.dev.boot.role img
        match res with
        | .good ver sec => m.handOver r i ver sec
        | .bad cause =>
          let x := m.failAttempt r i cause (if cause = 4 ∨ cause = 1 then 0 else rd img 12 4)
          x.1.attempts x.2 .none badA badB k

/-- Seed of sidereal time: the TIME of the newest valid entry, rounded up to a whole second, plus 1 s; 0 with none (R488). -/
def Mem.seed (m : Mem) : Nat :=
  let times := m.mram.filterMap (fun e =>
    if 64 ≤ e.1 ∧ rd e.2 16 1 ≠ 0 ∧ crcOk e.2 then some (rd e.2 8 8) else none)
  match argMax (fun t => t) times with
  | none => 0
  | some t => 2 ^ 32 * (ceilDiv t (2 ^ 32) + 1)

/-- Outcome of the reads and of training that the environment decides (R370, R376): whether the first and the second DRAM
training pass, capacity in GiB and rank count of each controller, and whether the read of image A or B fails. -/
def Mach.bootRom (m : Mach) (train1 train2 : Bool) (gib ranks : Nat) (badA badB : Bool) : Mach :=
  let d0 : Dev := { m.dev with sid := { m.dev.sid with und := m.mem.seed, frac := 0, slew := none } }
  let cause := d0.boot.cause
  let code := match cause with
    | .powerOn => 0
    | .external => 1
    | .bootWdog => 2
    | .readyTimeout => 3
    | .reboot => 4
    | .twilightEnter => 5
    | .activate => 6
  let d1 := d0.record .boot 4 0xFF code 0
  let ok := (train1 || train2) && [8, 12, 16].contains gib && decide (1 ≤ ranks ∧ ranks ≤ 2)
  let d2 : Dev := if ok then
      { d1 with boot := { d1.boot with dramOk := true },
                dram := d1.dram.map (fun c => { c with trained := true, capGiB := gib, ranks := if ranks = 2 then 15 else 0 }) }
    else d1
  let m1 : Mach := { m with dev := d2.onBoot (fun b => { b with fresh := false }) }
  match m1.mem.record with
  | none => m1.enterTwilight {} 5
  | some r =>
    let m3 := m1.putRecord r
    let r := { r with writes := (r.writes + 1) % 2 ^ 32 }
    let out : Mach :=
      if !ok then m3.enterTwilight r 4
      else if d2.boot.bootSrc = 3 ∨ d2.boot.role = 3 ∨ d2.boot.testEn then m3.enterTwilight r 6
      else if cause = .twilightEnter then m3.enterTwilight r 7
      else if r.inProgress ≠ .none then
        if cause = .bootWdog ∨ cause = .readyTimeout then
          let k := if cause = .bootWdog then 5 else 6
          let atts := (d2.boot.attempts.take r.failed) ++ [({ image := r.inProgress, cause := k } : Attempt)]
          let m4 : Mach := { m3 with dev := m3.dev.onBoot (fun b => { b with attempts := atts, newSequence := false }) }
          let r1 := { r with failed := r.failed + 1, inProgress := .none, causes := modAt r.causes r.failed (fun _ => k) }
          (m4.putRecord r1).attempts { r1 with writes := (r1.writes + 1) % 2 ^ 32 } .none badA badB 4
        else
          let m4 : Mach := { m3 with dev := m3.dev.onBoot (fun b => { b with attempts := b.attempts.take r.failed }) }
          m4.attempts r r.inProgress badA badB 4
      else
        let m4 : Mach := { m3 with dev := m3.dev.onBoot (fun b => if r.failed = 0 then { b with attempts := [] } else b) }
        m4.attempts r .none badA badB 4
    { out with dev := [0, 1, 2, 3].foldl Dev.answerUnknown out.dev }

/-- BOOT_ROM_START (R369, R370, R373 to R378, R381, R382, R384, R386, R488). -/
def execBootRomStart (train1 train2 : Bool) (gib ranks : Nat) (badA badB : Bool) (s : State) : Host.Outcome State Fault Refusal :=
  live (fun m => onlyIf (m.dev.boot.fresh && decide (m.dev.boot.state = .romInit))
    (fun m => m.bootRom train1 train2 gib ranks badA badB) m) s

/-- BOOT_WATCHDOG_EXPIRY: 500 ms after its last service the boot watchdog asks for an internal reset (R379, R380). -/
def execBootWatchdogExpiry (s : State) : Host.Outcome State Fault Refusal :=
  liveDev (fun d =>
    match d.boot.wdogAt with
    | none => d
    | some t =>
      let d1 := d.advanceTo (500000000 + t)
      d1.onBoot (fun b => { b with wdogAt := none, readyTimer := none, resetDue := some (.bootWdog, d1.clk) })) s

/-- READY_TIMEOUT: 2 s after hand-over without READY an internal reset is due (R379, R380). -/
def execReadyTimeout (s : State) : Host.Outcome State Fault Refusal :=
  liveDev (fun d =>
    match d.boot.readyTimer with
    | none => d
    | some t =>
      let d1 := d.advanceTo (2000000000 + t)
      d1.onBoot (fun b => { b with wdogAt := none, readyTimer := none, resetDue := some (.readyTimeout, d1.clk) })) s

/-- Base of pool `p` (R274): where firmware places it, if that keeps the four regions apart and inside DRAM; else one after the
other from address 0, the largest buffers first. -/
def Dev.poolBase (d : Dev) (p : Nat) : Nat :=
  let at_ : Nat → Nat := fun p => Config.poolPlace p * poolSize p
  let stop : Nat → Nat := fun p => at_ p + poolSize p * poolCount p
  let apart := (List.range 4).all (fun i => decide (stop i ≤ d.dramUsable) &&
    (List.range i).all (fun j => decide (stop i ≤ at_ j) || decide (stop j ≤ at_ i)))
  if apart then at_ p
  else match p with
    | 0 => 7 * 2 ^ 30
    | 1 => 6 * 2 ^ 30
    | 2 => 2 ^ 31
    | _ => 0

/-- Place the pools at configuration (R274). -/
def Dev.placePools (d : Dev) : Dev :=
  let pl : Nat → Pool := fun p =>
    { base := d.poolBase p, reserve := poolCount p / 8 }
  d.onPools (fun q => { q with pool := (List.range 4).map pl, ready := true, epochFrom := d.clk })

/-- Firmware enables every link port of a manager or worker (R543). -/
def Dev.enableLinks (d : Dev) : Dev :=
  if d.boot.role = 1 ∨ d.boot.role = 2 then
    [0, 1, 2, 3].foldl (fun d p => (d.setReg 0x22 (0x100 * p) (d.reg 0x22 (0x100 * p) ||| 0x80000000)).onPort p
      (fun q => { q with state := .training })) d
  else d

/-- READY (R380, R381, R481, R543, R553, R554). -/
def execReady (s : State) : Host.Outcome State Fault Refusal :=
  live (fun m => onlyIf (decide (m.dev.boot.state = .fwStart) && m.dev.tick.running && m.dev.boot.resetDue.isNone) (fun m =>
    let w := match m.mem.record with
      | some r => r.writes
      | none => 0
    let m1 := m.putRecord { writes := w }
    let d := m1.dev
    let d1 : Dev := { d with
      boot := { d.boot with state := .ready, wdogAt := none, readyTimer := none, newSequence := true },
      power := { d.power with on := BitVec.allOnes 38, level := List.replicate 38 0 },
      intr := { d.intr with cores := d.intr.cores.map (fun c => { c with wdogAt := some d.clk }) },
      twk := { d.twk with mode := .run, level := false, nextEdge := 500000 + d.clk, stopAt := none, resumeAt := none },
      dram := d.dram.map (fun c => { c with scrubAt := d.clk, mr4At := d.clk }) }
    let d2 := (d1.placePools.enableLinks).record .main 5 0xFF 0 d1.boot.fwVersion
    { m1 with dev := d2.adminActivate }) m) s

/-- LOAD: mailbox 0 offers a host image (R371, R373, R377, R384, R395); `readOk` says whether the read over PCI Express
succeeds. -/
def execLoad (readOk : Bool) (s : State) : Host.Outcome State Fault Refusal :=
  live (fun m => onlyIf (m.dev.mbxWaits 0 1) (fun m =>
    let a := (m.dev.mailbox 0).args
    let addr := rd a 0 8
    let len := rd a 8 4
    let st := m.dev.boot.state
    if st ≠ .hostWait ∧ st ≠ .twilight then { m with dev := m.dev.answer 0 Status.busyQuiesce [] }
    else if addr % 4096 ≠ 0 ∨ len < 513 ∨ 33554369 < len then { m with dev := m.dev.answer 0 Status.invalidField [] }
    else
      let img := m.mem.hostRead addr len
      let res := if !readOk || !hostOk addr len then ImageCheck.bad 4
        else if 256 + rd img 16 4 + 193 ≠ len then ImageCheck.bad 1 else checkImage m.dev.otp m.dev.boot.role img
      let r := (m.mem.record).getD {}
      match res with
      | .good ver sec =>
        let m1 : Mach := if st = .twilight then { m with dev := m.dev.onBoot (fun b => { b with attempts := [] }) } else m
        let m2 := m1.handOver r .host ver sec
        { m2 with dev := m2.dev.answer 0 Status.ok [] }
      | .bad cause =>
        let status := match cause with
          | 2 => Status.signatureBad
          | 3 => Status.rollbackRefused
          | _ => Status.invalidField
        if st = .twilight then { m with dev := m.dev.answer 0 status (leBytes 1 cause) }
        else
          let x := m.failAttempt r .host cause (if cause = 4 ∨ cause = 1 then 0 else rd img 12 4)
          let m1 : Mach := { x.1 with dev := x.1.dev.answer 0 status (leBytes 1 cause) }
          if 3 ≤ x.2.failed then m1.enterTwilight x.2 (failReason (x.2.causes.take 3)) else m1) m) s

/-- REBOOT: mailbox 0 asks for an internal reset (R395, R396). -/
def execReboot (s : State) : Host.Outcome State Fault Refusal :=
  liveDev (fun d => onlyIf (d.mbxWaits 0 2) (fun d =>
    if d.boot.state = .ready ∧ d.anyCapture then d.answer 0 Status.admissionDenied []
    else (d.answer 0 Status.ok []).onBoot (fun b => { b with resetDue := some (.reboot, 10000000 + d.clk) })) d) s

/-- TWILIGHT_ENTER: mailbox 0 asks for twilight mode with reason 0x07 (R385, R395, R396). -/
def execTwilightEnter (s : State) : Host.Outcome State Fault Refusal :=
  liveDev (fun d => onlyIf (d.mbxWaits 0 3) (fun d =>
    if d.boot.state = .ready ∧ d.anyCapture then d.answer 0 Status.admissionDenied []
    else (d.answer 0 Status.ok []).onBoot (fun b => { b with resetDue := some (.twilightEnter, 10000000 + d.clk) })) d) s

end Sys2Proof.Machine
end

