-- ==== Sys2Proof/Machine/Dma.lean ====
section
/-! DEFINITION. DMA (R470 to R479, R459): channel programs, events, hand-over. -/

namespace Sys2Proof.Machine
open Sys2Proof

/-- A DMA instruction (R472). -/
structure DmaInstr where
  op : Nat
  mode : Nat
  len : Nat
  src : Nat
  dst : Nat
  deriving DecidableEq, Repr

def parseDma (b : List Byte) : DmaInstr :=
  { op := rd b 0 1, mode := rd b 1 1, len := rd b 2 4, src := rd b 6 5, dst := rd b 11 5 }

/-- Host address of a DMA address, where it is one (R471). -/
def Dev.dmaHost (d : Dev) (ch a : Nat) : Nat := d.reg64 0x1F (0x40 * ch + 0x30) + a % 0x8000000000

/-- Where a range of DMA addresses lies: DRAM (true), host memory (false), or nowhere (R471). -/
def Dev.dmaTarget (d : Dev) (ch a len : Nat) : Option Bool :=
  if a + len ≤ d.dramUsable then some true
  else if 0x8000000000 ≤ a ∧ a + len ≤ 0x10000000000 ∧ hostOk (d.dmaHost ch a) len then some false
  else none

/-- Read a range of DMA addresses; none on an access error (R471). -/
def Mach.dmaRead (m : Mach) (ch a len : Nat) : Option (List Byte) × Mach :=
  match m.dev.dmaTarget ch a len with
  | some true => m.dramRead a len
  | some false => (some (m.mem.hostRead (m.dev.dmaHost ch a) len), m)
  | none => (none, m)

/-- Write a range of DMA addresses; the flag says whether it was accessible. -/
def Mach.dmaWrite (m : Mach) (ch a : Nat) (l : List Byte) : Bool × Mach :=
  match m.dev.dmaTarget ch a l.length with
  | some true => (true, m.dramWrite a l)
  | some false => (true, { m with mem := m.mem.hostWrite (m.dev.dmaHost ch a) l })
  | none => (false, m)

/-- Completion status of a program's CODE (R477). -/
def dmaStatus (code : Nat) : Nat :=
  if code = 0 ∨ code = 2 ∨ code = 5 then Status.ok else if code = 1 then Status.aborted else Status.invalidField

/-- The status word (R477). -/
def DmaCh.statusWord (c : DmaCh) (code : Nat) : Nat := 2 ^ 24 * code + 2 ^ 23 * b2n c.miscompare + c.index % 4096

/-- Write back the header at the end of a program, then give the program up with OWN = 0 (R475). -/
def Mach.dmaWriteBack (m : Mach) (ch : Nat) (code : Nat) : Mach :=
  let c := m.dev.dmaCh ch
  let body := leBytes 4 (c.statusWord code) ++ leBytes 8 c.bytes ++ leBytes 8 c.cmpOffset ++ leBytes 2 c.cmpIndex
  let m1 := (m.dmaWrite ch (c.prog + 4) body).2
  (m1.dmaWrite ch c.prog (leBytes 4 0)).2

/-- End the running program: write back, count, signal, complete its DMA_RUN (R459, R475, R477). No hand-over yet. -/
def Mach.dmaFinish (m : Mach) (ch code : Nat) : Mach :=
  let c := m.dev.dmaCh ch
  let m1 := m.dmaWriteBack ch code
  let d1 := m1.dev.onDma ch (fun x => { x with state := .idle, cmd := none, waitUntil := none, released := false })
  let d2 := (d1.bump 0x1F (0x40 * ch + 0x38)).fireInt (528 + ch)
  let d3 := match c.cmd with
    | some k => d2.complete k.1 k.2 (dmaStatus code) (c.statusWord code)
    | none => d2
  { m1 with dev := d3 }

/-- A channel arrives at instruction `idx`: an index of 4,096, an address that cannot be read or a reserved OP ends the
program (R471 to R473). The flag says that the program goes on. -/
def Mach.dmaArrive (m : Mach) (ch idx : Nat) : Option Nat × Mach :=
  let m1 : Mach := { m with dev := m.dev.onDma ch (fun x => { x with state := .running, index := idx, waitUntil := none, released := false }) }
  if 4096 ≤ idx then (some 3, m1)
  else
    match m1.dmaRead ch ((m1.dev.dmaCh ch).prog + 32 + 16 * idx) 16 with
    | (none, m2) => (some 4, m2)
    | (some b, m2) =>
      let i := parseDma b
      if i.op = 0 ∨ 7 < i.op ∨ bit i.mode 7 then (some 3, m2) else (none, m2)

/-- Start the program at an address on an idle channel with its masks (R475). The code is the end it meets at once. -/
def Mach.dmaBegin (m : Mach) (ch prog wmask smask : Nat) (cmd : Option (Nat × Nat)) : Option Nat × Mach :=
  let fresh : DmaCh := { state := .running, prog := prog, waitMask := wmask, signalMask := smask, cmd := cmd }
  let m1 : Mach := { m with dev := m.dev.onDma ch (fun x => { fresh with shadowLate := x.shadowLate, armCmd := x.armCmd }) }
  match m1.dmaRead ch prog 4 with
  | (none, m2) => (some 4, m2)
  | (some b, m2) => if bit (leNat b) 31 then m2.dmaArrive ch 0 else (some 6, m2)

/-- Hand-over: an armed shadow set is copied, ARM clears and its program starts (R478), at most `k` in a row. -/
def Mach.dmaHandOver (m : Mach) (ch : Nat) : Nat → Mach
  | 0 => m
  | k + 1 =>
    let r := 0x40 * ch
    if bit (m.dev.reg 0x1F (r + 0x28)).toNat 0 && decide ((m.dev.dmaCh ch).state = .idle) then
      let c := m.dev.dmaCh ch
      let d1 := (m.dev.setReg 0x1F (r + 0x28) 0).onDma ch (fun x => { x with armCmd := none })
      match Mach.dmaBegin { m with dev := d1 } ch (d1.reg64 0x1F (r + 0x10)) (d1.reg64 0x1F (r + 0x18)) (d1.reg64 0x1F (r + 0x20)) c.armCmd with
      | (none, m1) => m1
      | (some code, m1) => (m1.dmaFinish ch code).dmaHandOver ch k
    else m

/-- End a program and hand over, but for one that ended by ABORTED (R478). -/
def Mach.dmaEnd (m : Mach) (ch code : Nat) : Mach :=
  let m1 := m.dmaFinish ch code
  if code = 1 then m1 else m1.dmaHandOver ch 2

/-- Go on at instruction `idx`. -/
def Mach.dmaGo (m : Mach) (ch idx : Nat) : Mach :=
  match m.dmaArrive ch idx with
  | (none, m1) => m1
  | (some code, m1) => m1.dmaEnd ch code

/-- The instruction that a running channel stands at. -/
def Mach.dmaCur (m : Mach) (ch : Nat) : Option DmaInstr :=
  let c := m.dev.dmaCh ch
  if c.state = .running then ((m.dmaRead ch (c.prog + 32 + 16 * c.index) 16).1).map parseDma else none

/-- Addresses of an instruction, continuation addresses taken where its MODE asks (R473). -/
def DmaCh.srcOf (c : DmaCh) (i : DmaInstr) : Nat := if bit i.mode 2 then c.srcCont else i.src
def DmaCh.dstOf (c : DmaCh) (i : DmaInstr) : Nat := if bit i.mode 3 then c.dstCont else i.dst

/-- Whether a fixed address keeps its rule (R473). -/
def fixedOk (fixed : Bool) (a len : Nat) : Bool := !fixed || decide (a % 8 = 0 ∧ len % 8 = 0)

/-- Bytes that a source gives: a fixed address is read as 8 bytes again and again. -/
def Mach.dmaSource (m : Mach) (ch a len : Nat) (fixed : Bool) : Option (List Byte) × Mach :=
  if fixed then
    match m.dmaRead ch a 8 with
    | (some b, m1) => (some ((List.range len).map (fun i => b.getD (i % 8) 0)), m1)
    | (none, m1) => (none, m1)
  else m.dmaRead ch a len

/-- Write bytes to a destination: a fixed address keeps the last 8. -/
def Mach.dmaDest (m : Mach) (ch a : Nat) (l : List Byte) (fixed : Bool) : Bool × Mach :=
  if fixed then m.dmaWrite ch a (l.drop (l.length - 8)) else m.dmaWrite ch a l

/-- Address after the last byte of an access. -/
def afterRange (a len : Nat) (fixed : Bool) : Nat := (if fixed then a + 8 else a + len) % 2 ^ 40

/-- Run the current instruction of a channel, if it carries this OP and the channel's domain works. -/
def dmaStep (ch op : Nat) (f : DmaInstr → Mach → Mach) (m : Mach) : Mach :=
  match m.dmaCur ch with
  | some i => if ch < 32 ∧ i.op = op ∧ m.dev.powered (24 + ch / 8) then f i m else m
  | none => m

/-- DMA MOVE (R473). -/
def Mach.dmaMove (m : Mach) (ch : Nat) (i : DmaInstr) (ecc : List (Nat × Bool)) : Mach :=
  let c := m.dev.dmaCh ch
  let src := c.srcOf i
  let dst := c.dstOf i
  let sf := bit i.mode 0
  let df := bit i.mode 1
  let here := ecc.filter (fun e => decide (src ≤ e.1 ∧ e.1 < src + i.len))
  if i.len = 0 ∨ !fixedOk sf src i.len ∨ !fixedOk df dst i.len then m.dmaEnd ch 3
  else
    let m0 : Mach := { m with dev := m.dev.eccFound here }
    match m0.dmaSource ch src i.len sf with
    | (none, m1) => m1.dmaEnd ch 4
    | (some b, m1) =>
      match m1.dmaDest ch dst b df with
      | (false, m2) => m2.dmaEnd ch 4
      | (true, m2) =>
        let d := m2.dev.onDma ch (fun x => { x with bytes := (x.bytes + i.len) % 2 ^ 64, srcCont := afterRange src i.len sf, dstCont := afterRange dst i.len df })
        Mach.dmaGo { m2 with dev := d } ch (c.index + 1)

/-- DMA FILL (R473). -/
def Mach.dmaFill (m : Mach) (ch : Nat) (i : DmaInstr) : Mach :=
  let c := m.dev.dmaCh ch
  let dst := c.dstOf i
  let df := bit i.mode 1
  if i.len % 4 ≠ 0 ∨ dst % 4 ≠ 0 ∨ !fixedOk df dst i.len then m.dmaEnd ch 3
  else
    let pat := leBytes 4 i.src
    match m.dmaDest ch dst ((List.range i.len).map (fun k => pat.getD (k % 4) 0)) df with
    | (false, m1) => m1.dmaEnd ch 4
    | (true, m1) =>
      let d := m1.dev.onDma ch (fun x => { x with bytes := (x.bytes + i.len) % 2 ^ 64, dstCont := afterRange dst i.len df })
      Mach.dmaGo { m1 with dev := d } ch (c.index + 1)

/-- Offset of the first difference of two byte strings. -/
def firstDiff : List Byte → List Byte → Nat → Option Nat
  | a :: r, b :: q, k => if a = b then firstDiff r q (k + 1) else some k
  | _, _, _ => none

/-- DMA CMP (R473). -/
def Mach.dmaCmp (m : Mach) (ch : Nat) (i : DmaInstr) (ecc : List (Nat × Bool)) : Mach :=
  let c := m.dev.dmaCh ch
  let src := c.srcOf i
  let dst := c.dstOf i
  let sf := bit i.mode 0
  let df := bit i.mode 1
  let inside : Nat × Bool → Bool := fun e => decide (src ≤ e.1 ∧ e.1 < src + i.len) || decide (dst ≤ e.1 ∧ e.1 < dst + i.len)
  if !fixedOk sf src i.len ∨ !fixedOk df dst i.len then m.dmaEnd ch 3
  else
    let m0 : Mach := { m with dev := m.dev.eccFound (ecc.filter inside) }
    match m0.dmaSource ch src i.len sf with
    | (none, m1) => m1.dmaEnd ch 4
    | (some a, m1) =>
      match m1.dmaSource ch dst i.len df with
      | (none, m2) => m2.dmaEnd ch 4
      | (some b, m2) =>
        let diff := firstDiff a b 0
        let first := diff.isSome && decide (c.cmpIndex = 0xFFFF)
        let d := m2.dev.onDma ch (fun x =>
          { x with bytes := (x.bytes + i.len) % 2 ^ 64, srcCont := afterRange src i.len sf, dstCont := afterRange dst i.len df,
                   miscompare := x.miscompare || diff.isSome,
                   cmpOffset := if first then diff.getD 0 else x.cmpOffset, cmpIndex := if first then c.index else x.cmpIndex })
        let m3 : Mach := { m2 with dev := d }
        if diff.isSome && bit i.mode 4 then m3.dmaEnd ch 5 else m3.dmaGo ch (c.index + 1)

/-- DMA LOOP (R473). -/
def Mach.dmaLoop (m : Mach) (ch : Nat) (i : DmaInstr) : Mach :=
  let c := m.dev.dmaCh ch
  let n := i.mode % 4
  let target := i.dst % 4096
  if i.len = 0 ∨ c.index ≤ target then m.dmaEnd ch 3
  else
    let old := c.counters.getD n 0
    let now := (if old = 0 then i.len else old) - 1
    let m1 : Mach := { m with dev := m.dev.onDma ch (fun x => { x with counters := modAt x.counters n (fun _ => now) }) }
    m1.dmaGo ch (if 0 < now then target else c.index + 1)

/-- Whether an event names one that a WAIT may name (R474). -/
def waitable (v : Nat) : Bool := decide (v < 2) || decide (8 ≤ v ∧ v < 64)

/-- DMA WAIT (R473, R474): a set flag ends it at once. -/
def Mach.dmaWait (m : Mach) (ch : Nat) (i : DmaInstr) : Mach :=
  let c := m.dev.dmaCh ch
  let v := i.dst % 64
  if !waitable v ∨ !bit c.waitMask v then m.dmaEnd ch 3
  else if 8 ≤ v ∧ bit m.dev.dmaEvents v then
    let ev := if bit i.mode 5 then m.dev.dmaEvents else putBit m.dev.dmaEvents v false
    Mach.dmaGo { m with dev := { m.dev with dmaEvents := ev } } ch (c.index + 1)
  else
    let until_ := if i.len = 0 then none else some (m.dev.clk + 1000 * i.len)
    { m with dev := m.dev.onDma ch (fun x => { x with state := .waiting, waitEvent := v, waitPeek := bit i.mode 5, released := false, waitUntil := until_ }) }

/-- Channels that wait on event `v`, lowest number first. -/
def Dev.waitersOn (d : Dev) (v : Nat) : List Nat :=
  (List.range 32).filter (fun c => decide ((d.dmaCh c).state = .waiting ∧ (d.dmaCh c).waitEvent = v) && !(d.dmaCh c).released)

/-- Event flag `v` is set: the lowest-numbered channel that waits on it is released, and the flag clears unless that WAIT
peeks; with none waiting the flag stays set (R474). -/
def Dev.setEvent (d : Dev) (v : Nat) : Dev :=
  match d.waitersOn v with
  | [] => { d with dmaEvents := putBit d.dmaEvents v true }
  | c :: _ =>
    let d1 := d.onDma c (fun x => { x with released := true })
    { d1 with dmaEvents := putBit d.dmaEvents v (d.dmaCh c).waitPeek }

/-- One occurrence of event 0 or 1 releases every channel waiting on it (R474). -/
def Dev.eventOccurs (d : Dev) (v : Nat) : Dev :=
  (d.waitersOn v).foldl (fun d c => d.onDma c (fun x => { x with released := true })) d

/-- DMA SIGNAL (R473, R474). -/
def Mach.dmaSignal (m : Mach) (ch : Nat) (i : DmaInstr) : Mach :=
  let c := m.dev.dmaCh ch
  let v := i.dst % 64
  if v < 8 ∨ !bit c.signalMask v then m.dmaEnd ch 3
  else
    let d1 := if bit m.dev.dmaEvents v then m.dev else m.dev.setEvent v
    let d2 := if bit i.mode 6 then d1.fireInt (528 + ch) else d1
    Mach.dmaGo { m with dev := d2 } ch (c.index + 1)

/-- A write of ARM (R478, R479): 1 on an idle channel hands over; 0 withdraws the set, and an armed DMA_RUN with it. -/
def Mach.dmaArm (m : Mach) (ch : Nat) (v : Bool) : Mach :=
  if v then
    Mach.dmaHandOver { m with dev := m.dev.setReg 0x1F (0x40 * ch + 0x28) 1 } ch 2
  else
    let d1 := (m.dev.setReg 0x1F (0x40 * ch + 0x28) 0).onDma ch (fun x => { x with armCmd := none })
    match (m.dev.dmaCh ch).armCmd with
    | some k => { m with dev := d1.complete k.1 k.2 Status.aborted 0 }
    | none => { m with dev := d1 }

/-! ### Meanings -/

/-- DMA_MOVE: `ecc` names the blocks of the source found in error while it is read. -/
def execDmaMove (ch : Nat) (ecc : List (Nat × Bool)) (s : State) : Host.Outcome State Fault Refusal :=
  live (dmaStep ch 1 (fun i m => m.dmaMove ch i ecc)) s

def execDmaFill (ch : Nat) (s : State) : Host.Outcome State Fault Refusal :=
  live (dmaStep ch 2 (fun i m => m.dmaFill ch i)) s

/-- DMA_CMP: `ecc` names the blocks found in error while both ranges are read. -/
def execDmaCmp (ch : Nat) (ecc : List (Nat × Bool)) (s : State) : Host.Outcome State Fault Refusal :=
  live (dmaStep ch 3 (fun i m => m.dmaCmp ch i ecc)) s

def execDmaLoop (ch : Nat) (s : State) : Host.Outcome State Fault Refusal :=
  live (dmaStep ch 4 (fun i m => m.dmaLoop ch i)) s

def execDmaWait (ch : Nat) (s : State) : Host.Outcome State Fault Refusal :=
  live (dmaStep ch 5 (fun i m => m.dmaWait ch i)) s

def execDmaSignal (ch : Nat) (s : State) : Host.Outcome State Fault Refusal :=
  live (dmaStep ch 6 (fun i m => m.dmaSignal ch i)) s

/-- DMA_END: the program ends with OK, writes back and hands over (R475, R478). -/
def execDmaEnd (ch : Nat) (s : State) : Host.Outcome State Fault Refusal :=
  live (dmaStep ch 7 (fun _ m => m.dmaEnd ch 0)) s

/-- DMA_EVENT_RELEASE: the channels released by event `v` go on (R474). -/
def execDmaEventRelease (v : Nat) (s : State) : Host.Outcome State Fault Refusal :=
  live (fun m => (List.range 32).foldl (fun m c =>
    let x := m.dev.dmaCh c
    if x.state = .waiting ∧ x.released ∧ x.waitEvent = v then m.dmaGo c (x.index + 1) else m) m) s

/-- WAIT_TIMEOUT: a WAIT whose timeout expires ends its program (R473). -/
def execWaitTimeout (ch : Nat) (s : State) : Host.Outcome State Fault Refusal :=
  live (fun m =>
    match (m.dev.dmaCh ch).waitUntil with
    | some t =>
      if (m.dev.dmaCh ch).state = .waiting ∧ !(m.dev.dmaCh ch).released then
        Mach.dmaEnd { m with dev := m.dev.advanceTo t } ch 2
      else m
    | none => m) s

/-- DMA_ARM: a write of a channel's ARM (R479), carried by SET_FEATURE. -/
def execDmaArm (ch : Nat) (v : Bool) (s : State) : Host.Outcome State Fault Refusal :=
  live (fun m => onlyIf (decide (ch < 32) && m.dev.powered (24 + ch / 8)) (fun m => m.dmaArm ch v) m) s

/-- DMA_EVENT_SET: a write of DMA_EVENT_SET sets flags 8 to 63 (R474). -/
def execDmaEventSet (mask : Nat) (s : State) : Host.Outcome State Fault Refusal :=
  liveDev (fun d => (List.range 64).foldl (fun d v => if 8 ≤ v ∧ bit mask v ∧ !bit d.dmaEvents v then d.setEvent v else d) d) s

/-- DMA_RUN (R459, R478): on an idle channel the program starts; on a running one it is armed in the shadow set. -/
def execDmaRun (sq cid : Nat) (s : State) : Host.Outcome State Fault Refusal :=
  live (runCmd sq cid 0x68 (fun c m =>
    let ch := c.target
    let prog := c.dw64 0
    if 32 ≤ ch then m.refuse c 4
    else if prog % 32 ≠ 0 ∨ 2 ^ 40 ≤ prog then m.refuse c 32
    else if !m.dev.takesWork (24 + ch / 8) then m.refuse c 4
    else
      let r := 0x40 * ch
      let armed := bit (m.dev.reg 0x1F (r + 0x28)).toNat 0
      let d := m.dev.keepRunning c
      if (m.dev.dmaCh ch).state = .idle then
        match Mach.dmaBegin { m with dev := d } ch prog (d.reg64 0x1F (r + 0x18)) (d.reg64 0x1F (r + 0x20)) (some (sq, cid)) with
        | (none, m1) => m1
        | (some code, m1) => m1.dmaEnd ch code
      else if armed then m.refuse c 4
      else
        let d1 := (d.setReg64 0x1F (r + 0x10) prog).setReg 0x1F (r + 0x28) 1
        { m with dev := d1.onDma ch (fun x => { x with armCmd := some (sq, cid) }) })) s

end Sys2Proof.Machine
end

