-- ==== Sys2Proof/Machine/Time.lean ====
section
/-! DEFINITION. Sidereal time (R438, R488 to R492) and PTP (R495 to R497): steps, slews, the servo, PPS, PTP messages. -/

namespace Sys2Proof.Machine
open Sys2Proof

/-- A sidereal instant moved by a step. -/
def shift (t : Nat) (delta : Int) : Nat := ((t : Int) + delta).toNat

/-- Every instant that the tick unit will act on later moves with a step; recorded instants stay (R438). -/
def TickUnit.shifted (t : TickUnit) (delta : Int) : TickUnit :=
  { t with next := shift t.next delta, prev := shift t.prev delta, holdBase := shift t.holdBase delta,
           countedSid := shift t.countedSid delta, msgs := t.msgs.map (fun x => { x with t := shift x.t delta }) }

/-- Move sidereal time by a step, with its KIND 9 entry (R438, R490, R494). -/
def Dev.stepBy (d : Dev) (delta : Int) : Dev :=
  let before := d.sdt
  let after := shift before delta
  let origin := d.reg64 0x01 0x110
  let d1 := { d with sid := { d.sid with und := after, slew := none }, tick := d.tick.shifted delta }
  let d2 := d1.setReg64 0x01 0x110 (((origin : Int) + delta) % (2 ^ 64 : Int)).toNat
  d2.record .main 9 0xFF 0 0 (leBytes 8 before ++ leBytes 8 after)

/-- Limit of the servo and of a slew: 500 ppm (R438, R489). -/
def clampPpb (x : Int) : Int := max (-500000) (min 500000 x)

/-- A change to unlocked posts its event (R489). -/
def Dev.unlock (d : Dev) : Dev :=
  if d.sid.locked then
    (d.onSid (fun t => { t with locked := false, good := 0, firstAfter := true, unlockedSeen := true })).postEvent 0x06 1 0
  else d

/-- A measured offset, in ns, feeds the servo (R489, R490). -/
def Dev.measure (d : Dev) (off : Int) : Dev :=
  let first := d.sid.firstAfter
  let d0 := d.onSid (fun t => { t with offset := off, measuredAt := d.clk, firstAfter := false })
  let d1 :=
    if first && decide (1000000 < off.natAbs) && !d.anyCapture then
      (d0.stepBy (-(2 ^ 32 * off / 10 ^ 9))).onSid (fun t => { t with set := true })
    else
      let ppb := clampPpb (Config.servoPpb d0.free d0.sid.ppb off)
      (d0.onSid (fun t => { t with ppb := ppb })).afterDraw
  let near := decide (off.natAbs ≤ 100)
  let d2 := d1.onSid (fun t => { t with good := if near then t.good + 1 else 0 })
  if d2.sid.locked then (if 1000 < off.natAbs then d2.unlock else d2)
  else if 16 ≤ d2.sid.good then
    let d3 := d2.onSid (fun t => { t with locked := true, set := true })
    if d2.sid.set then d3 else d3.record .main 9 0xFF 0 0 (leBytes 8 d3.sdt ++ leBytes 8 d3.sdt)
  else d2

/-! ### TIME_SET (R438) -/

/-- Conditions on TIME_SET that both operations share: not on a worker, and not under DISCIPLINE 1 or 2. -/
def Dev.timeSetRefused (d : Dev) : Bool := decide (d.boot.role = 2) || decide (d.discipline = 1 ∨ d.discipline = 2)

/-- STEP: TIME_SET STEP (R438, R490). -/
def execStep (sq cid : Nat) (s : State) : Host.Outcome State Fault Refusal :=
  live (runCmd sq cid 0x18 (fun c m =>
    if c.dw 0 % 4 ≠ 0 then m
    else if m.dev.timeSetRefused then m.refuse c 32
    else if m.dev.anyCapture then m.deny c 13 noStream
    else
      let target : Nat := 2 ^ 32 * c.dw 3 + c.dw 2
      let d := (m.dev.stepBy ((target : Int) - m.dev.sdt)).onSid (fun t => { t with set := true })
      Mach.complete { m with dev := d } c Status.ok)) s

/-- SLEW: TIME_SET SLEW adds a signed offset at up to 500 ppm; a newer one replaces an unfinished one (R438). -/
def execSlew (sq cid : Nat) (s : State) : Host.Outcome State Fault Refusal :=
  live (runCmd sq cid 0x18 (fun c m =>
    if c.dw 0 % 4 ≠ 1 then m
    else if m.dev.timeSetRefused then m.refuse c 32
    else
      let raw : Nat := 2 ^ 32 * c.dw 3 + c.dw 2
      let off : Int := if raw < 2 ^ 63 then raw else (raw : Int) - 2 ^ 64
      let now := m.dev.sdt
      let ppb := 1 + Config.slewPpb m.dev.free % 500000
      let first := !m.dev.sid.set
      let d := (m.dev.onSid (fun t => { t with und := now, set := true, slew := some { from_ := m.dev.clk, offset := off, ppb := ppb } })).afterDraw
      let d1 := if first then d.record .main 9 0xFF 0 0 (leBytes 8 now ++ leBytes 8 now) else d
      Mach.complete { m with dev := d1 } c Status.ok)) s

/-- Crystal nanoseconds a slew takes. -/
def Slew.duration (w : Slew) : Nat := ceilDiv (10 ^ 18 * w.offset.natAbs) (2 ^ 32 * w.ppb)

/-- SLEW_END: the whole offset has been added and the counter returns to its undisturbed rate (R438). -/
def execSlewEnd (s : State) : Host.Outcome State Fault Refusal :=
  liveDev (fun d =>
    match d.sid.slew with
    | none => d
    | some w =>
      let d1 := d.advanceTo (w.from_ + w.duration)
      d1.onSid (fun t => { t with und := shift t.und w.offset, slew := none })) s

/-! ### PPS (R491) -/

/-- Signed distance of an instant from the nearest integer second, ns. -/
def fromSecond (t : Nat) : Int :=
  let f := t % 2 ^ 32
  if f < 2 ^ 31 then (nsOfUnits f : Int) else (nsOfUnits f : Int) - 10 ^ 9

/-- PPS_IN_EDGE: a rising edge `dt` ns after the previous command (R491, R474). -/
def execPpsInEdge (dt : Nat) (s : State) : Host.Outcome State Fault Refusal :=
  liveDev (fun d =>
    let d0 := d.advance dt
    let off := fromSecond d0.sdt
    let disc := decide (d0.discipline = 3)
    if disc && decide (100000 < off.natAbs) then d0.bump 0x01 0x020
    else
      let d1 := (((d0.onSid (fun t => { t with ppsIn := d0.sdt })).eventOccurs 1).fireInt 9).fireInt 1013
      if disc then d1.measure off else d1) s

/-- Next integer second at which PPS_OUT rises, as a number of seconds. -/
def Dev.nextSecond (d : Dev) : Nat :=
  let up := ceilDiv d.sdt (2 ^ 32)
  if up = d.sid.ppsSecond ∧ d.sid.ppsSecond ≠ 0 then up + 1 else up

/-- PPS_OUT_SECOND: PPS_OUT rises at the next integer second; it is held low while SET is 0 (R491). -/
def execPpsOutSecond (s : State) : Host.Outcome State Fault Refusal :=
  liveDev (fun d =>
    let n := d.nextSecond
    let d1 := d.advanceToSid (2 ^ 32 * n)
    d1.onSid (fun t => { t with ppsSecond := n, ppsOut := if t.set then some d1.clk else none })) s

/-- PPS_OUT_FALL: PPS_OUT falls PPS_WIDTH ms after it rose (R491). -/
def execPpsOutFall (s : State) : Host.Outcome State Fault Refusal :=
  liveDev (fun d =>
    match d.sid.ppsOut with
    | none => d
    | some t =>
      (d.advanceTo (t + 1000000 * fld (d.reg 0x01 0x00C) 16 9)).onSid (fun t => { t with ppsOut := none })) s

/-- TIME_UNLOCK_TIMEOUT: no measurement for 3 s (R489). -/
def execTimeUnlockTimeout (s : State) : Host.Outcome State Fault Refusal :=
  liveDev (fun d => onlyIf d.sid.locked (fun d => (d.advanceTo (3000000000 + d.sid.measuredAt)).unlock) d) s

/-! ### PTP (R495 to R497) -/

/-- Change the PTP clock of port `e`. -/
def Dev.onPtp (d : Dev) (e : Nat) (f : PtpPort → PtpPort) : Dev := d.onEth e (fun p => { p with ptp := f p.ptp })

/-- ETH_PTP_CFG.ROLE of port `e` (R496). -/
def Dev.ptpRole (d : Dev) (e : Nat) : Nat := fld (d.reg 0x21 (0x100 * e + 0x40)) 30 2

/-- Whether port `e` exists, is up, powered, and runs a PTP clock. -/
def Dev.ptpRuns (d : Dev) (e : Nat) : Bool :=
  decide (e < 2) && d.takesWork (18 + e) && (d.ethPort e).up && decide (d.ptpRole e ≠ 0)

/-- Whether port `e` steers time as a slave (R489): UNCALIBRATED or SLAVE. -/
def Dev.ptpSlave (d : Dev) (e : Nat) : Bool :=
  d.ptpRuns e && decide (d.discipline = e + 1) && decide (8 ≤ (d.ethPort e).ptp.portState)

/-- ETH_PTP_ASYM, signed ns. -/
def Dev.ptpAsym (d : Dev) (e : Nat) : Int := (d.reg 0x21 (0x100 * e + 0x48)).toInt

/-- A complete Sync measurement: t2 - t1 in ns, with the delay estimate where there is one (R489, R497). -/
def Dev.ptpMeasured (d : Dev) (e t1 t2 : Nat) : Dev :=
  let t21 : Int := (nsOfUnits t2 : Int) - nsOfUnits t1
  let d1 := d.onPtp e (fun p => { p with t21 := some t21, syncAt := none })
  match (d.ethPort e).ptp.delay with
  | some dl => (d1.onPtp e (fun p => { p with portState := 9 })).measure (t21 - dl)
  | none => d1

/-- PTP_SYNC: a Sync arrives `dt` ns after the previous command; a one-step Sync carries its origin time `t1`, a two-step
Sync waits for its Follow_Up (R489, R495). -/
def execPtpSync (e dt seqId t1 : Nat) (twoStep : Bool) (s : State) : Host.Outcome State Fault Refusal :=
  liveDev (fun d =>
    let d0 := d.advance dt
    if !d0.ptpSlave e then d0
    else if twoStep then d0.onPtp e (fun p => { p with syncAt := some (seqId, d0.sdt) })
    else d0.ptpMeasured e t1 d0.sdt) s

/-- PTP_FOLLOW_UP: the precise origin time of the Sync with this sequence number (R495). -/
def execPtpFollowUp (e dt seqId t1 : Nat) (s : State) : Host.Outcome State Fault Refusal :=
  liveDev (fun d =>
    let d0 := d.advance dt
    match (d0.ethPort e).ptp.syncAt with
    | some (q, t2) => if d0.ptpSlave e ∧ q = seqId then d0.ptpMeasured e t1 t2 else d0
    | none => d0) s

/-- PTP_DELAY_RESP: the receipt time `t4` of this port's Delay_Req completes the path delay estimate (R495, R497). -/
def execPtpDelayResp (e dt seqId t4 : Nat) (s : State) : Host.Outcome State Fault Refusal :=
  liveDev (fun d =>
    let d0 := d.advance dt
    match (d0.ethPort e).ptp.reqAt, (d0.ethPort e).ptp.t21 with
    | some (q, t3), some t21 =>
      if d0.ptpSlave e ∧ q = seqId then
        let t43 : Int := (nsOfUnits t4 : Int) - nsOfUnits t3
        d0.onPtp e (fun p => { p with delay := some ((t21 + t43) / 2 + d0.ptpAsym e), reqAt := none })
      else d0
    | _, _ => d0) s

/-- PTP_DELAY_REQ: a Delay_Req is timestamped and answered in master state (R495, R496). -/
def execPtpDelayReq (e dt seqId : Nat) (s : State) : Host.Outcome State Fault Refusal :=
  liveDev (fun d =>
    let d0 := d.advance dt
    if d0.ptpRuns e && decide ((d0.ethPort e).ptp.portState = 6) then d0.emit (.ptp e 9 seqId d0.sdt) else d0) s

/-- Lower is better, field by field: the default best master clock comparison (R495). -/
def announceBetter : Announce → Announce → Bool
  | a :: r, b :: q => if a < b then true else if b < a then false else announceBetter r q
  | _, _ => false

/-- This clock's own data set on port `e`. -/
def Dev.ownAnnounce (d : Dev) (e : Nat) : Announce :=
  let p := d.reg 0x21 (0x100 * e + 0x44)
  let q := Config.ptpQuality e
  [fld p 8 8, q.getD 0 0, q.getD 1 0, q.getD 2 0, fld p 0 8, q.getD 3 0, 0]

/-- The state of a port after best master selection (R495, R496): master only, slave only, or by comparison. -/
def Dev.ptpSelect (d : Dev) (e : Nat) : Dev :=
  let p := (d.ethPort e).ptp
  let st :=
    match d.ptpRole e with
    | 0 => 3
    | 2 => 6
    | 3 => if p.best.isSome then (if 8 ≤ p.portState then p.portState else 8) else 4
    | _ =>
      match p.best with
      | some a => if announceBetter a (d.ownAnnounce e) then (if 8 ≤ p.portState then p.portState else 8) else 6
      | none => p.portState
  d.onPtp e (fun p => { p with portState := st })

/-- PTP_ANNOUNCE: an Announce feeds best master selection (R495). -/
def execPtpAnnounce (e dt : Nat) (a : List Nat) (s : State) : Host.Outcome State Fault Refusal :=
  liveDev (fun d =>
    let d0 := d.advance dt
    if d0.ptpRuns e && decide (d0.ptpRole e ≠ 2) then
      (d0.onPtp e (fun p =>
        match p.best with
        | some b => if announceBetter b a then p else { p with best := some a }
        | none => { p with best := some a })).ptpSelect e
    else d0) s

/-- ANNOUNCE_TIMEOUT: no Announce within the receipt timeout: the port forgets its master and selects again (R495). -/
def execAnnounceTimeout (e dt : Nat) (s : State) : Host.Outcome State Fault Refusal :=
  liveDev (fun d =>
    let d0 := d.advance dt
    if d0.ptpRuns e && decide (d0.ptpRole e ≠ 2) then
      let d1 := d0.onPtp e (fun p => { p with best := none, syncAt := none, reqAt := none })
      if d0.ptpRole e = 1 then d1.onPtp e (fun p => { p with portState := 6 }) else d1.ptpSelect e
    else d0) s

/-- PTP_INTERVAL_EXPIRY: a message interval elapses (R495): `kind` 0 Sync with its Follow_Up and 1 Announce in master state,
2 Delay_Req as a slave. -/
def execPtpIntervalExpiry (e dt kind : Nat) (s : State) : Host.Outcome State Fault Refusal :=
  liveDev (fun d =>
    let d0 := d.advance dt
    let p := (d0.ethPort e).ptp
    let next := d0.onPtp e (fun p => { p with seqId := (p.seqId + 1) % 65536 })
    if !d0.ptpRuns e then d0
    else if kind = 0 ∧ p.portState = 6 then (next.emit (.ptp e 0 p.seqId 0)).emit (.ptp e 8 p.seqId d0.sdt)
    else if kind = 1 ∧ p.portState = 6 then next.emit (.ptp e 11 p.seqId 0)
    else if kind = 2 ∧ d0.ptpSlave e then
      (next.onPtp e (fun q => { q with reqAt := some (p.seqId, d0.sdt) })).emit (.ptp e 1 p.seqId d0.sdt)
    else d0) s

end Sys2Proof.Machine
end

