-- ==== Sys2Proof/Machine/Eth.lean ====
section
/-! DEFINITION. Ethernet (R447, R498 to R510): host rings, egress queues, gates, shapers and policers, frames, port loss. -/

namespace Sys2Proof.Machine
open Sys2Proof

/-! ### Host rings (R447) -/

/-- Write bytes into a ring's region from a byte position, wrapping. -/
def Mem.ringWrite (m : Mem) (base size pos : Nat) (l : List Byte) : Mem :=
  let first := size - pos
  (m.hostWrite (base + pos) (l.take first)).hostWrite base (l.drop first)

/-- Deliver a unit to host ring `q`: payload first, then its header; the flag says whether it fitted (R447). -/
def Mach.ringDeliver (m : Mach) (q source : Nat) (payload : List Byte) : Bool × Mach :=
  match m.dev.cq q with
  | none => (false, m)
  | some c =>
    let slot := 2 ^ c.slotLog2
    let need := ceilDiv (16 + payload.length) slot
    let used := ringDiff c.tail c.head c.size
    if c.ring.isNone || c.bad || decide (c.size - 1 - used < need) then (false, m)
    else
      let hdr := leBytes 4 payload.length ++ leBytes 2 source ++ [0, 0] ++ leBytes 4 m.dev.stamp32 ++ leBytes 3 c.units ++
        leBytes 1 (b2n c.phase)
      let pos := c.tail * slot
      let total := c.size * slot
      let mem1 := m.mem.ringWrite c.base total ((pos + 16) % total) payload
      let mem2 := mem1.ringWrite c.base total pos hdr
      let tail := c.tail + need
      let c1 := { c with tail := tail % c.size, phase := if c.size ≤ tail then !c.phase else c.phase, units := (c.units + 1) % 2 ^ 24 }
      (true, { dev := m.dev.cqPosted q c1, mem := mem2 })

/-! ### Flows (R506) -/

/-- Context `id`. -/
def Dev.ctx (d : Dev) (id : Nat) : Option Ctx := Tbl.get (fun _ => none) d.ctxs id

/-- Put context `id`. -/
def Dev.setCtx (d : Dev) (id : Nat) (c : Option Ctx) : Dev := { d with ctxs := Tbl.set (fun _ => none) d.ctxs id c }

/-- The flows in use by rising context ID: DIR, PORT and the rest are read from the parameter block. -/
def Dev.flows (d : Dev) : List (Nat × Ctx) :=
  d.ctxs.filterMap (fun e => match e.2 with
    | some c => if c.kind = .flow then some (e.1, c) else none
    | none => none)

def Ctx.flowDir (c : Ctx) : Nat := rd c.params 0 1
def Ctx.flowPort (c : Ctx) : Nat := rd c.params 1 1
def Ctx.flowQueue (c : Ctx) : Nat := rd c.params 2 1
/-- SHAPER or POLICER number. -/
def Ctx.flowBucket (c : Ctx) : Nat := rd c.params 4 2
def Ctx.flowDeadline (c : Ctx) : Nat := rd c.params 6 2
def Ctx.flowRtp (c : Ctx) : Bool := bit (rd c.params 3 1) 1
def Ctx.hdrLen (c : Ctx) : Nat := rd c.params 20 1

/-! ### Egress queues (R500, R509, R510) -/

/-- Offset of a counter in the record of queue `q` of port `e` (R509). -/
def ethStat (e q c : Nat) : Nat := 0x8A00 + 32 * (8 * e + q) + c

/-- CLASS of queue `q` of port `e`. -/
def Dev.qClass (d : Dev) (e q : Nat) : Nat := fld (d.reg 0x21 (0x100 * e + 0x10 + 4 * q)) 30 2

/-- LIMIT of queue `q` of port `e`. -/
def Dev.qLimit (d : Dev) (e q : Nat) : Nat := fld (d.reg 0x21 (0x100 * e + 0x10 + 4 * q)) 0 24

/-- Bytes waiting in a queue. -/
def EthQueue.depth (q : EthQueue) : Nat := sumBy (fun u => u.len) q.units

/-- Change queue `q` of port `e`. -/
def Dev.onQueue (d : Dev) (e q : Nat) (f : EthQueue → EthQueue) : Dev :=
  d.onEth e (fun p => { p with queues := modAt p.queues q f })

/-- Queue `q` of port `e`. -/
def Dev.queue (d : Dev) (e q : Nat) : EthQueue := (d.ethPort e).queues.getD q {}

/-- Enqueue a unit: the reason of R281 when it is dropped (1 port down, 2 over the limit, 6 powered off), 0 when it is
taken (R280, R500, R510). -/
def Dev.ethEnqueue (d : Dev) (e q : Nat) (u : EthUnit) : Nat × Dev :=
  let p := d.ethPort e
  let drop : Dev := d.count (ethStat e q 0x08)
  if !d.powered (18 + e) then (6, drop)
  else if p.down then (1, drop)
  else if d.qLimit e q < (d.queue e q).depth + u.len then (2, drop)
  else (0, (d.onQueue e q (fun x => { x with units := x.units ++ [u] })).countMax (ethStat e q 0x10) ((d.queue e q).depth + u.len))

/-! ### Gates (R501, R502) -/

/-- The entries that form the list. -/
def GateList.list (g : GateList) : List (Nat × Nat) := g.entries.take g.count

/-- Cycle of a gate list, ns. -/
def GateList.cycle (g : GateList) : Nat := sumBy (fun x => x.2) g.list

/-- Gates in effect at an offset within the cycle, and ns until the interval ends. -/
def gateAt : List (Nat × Nat) → Nat → Nat × Nat
  | [], _ => (0, 0)
  | (g, i) :: r, t => if t < i then (g, i - t) else gateAt r (t - i)

/-- Offset of an instant within the cycle, ns. -/
def GateList.phase (g : GateList) (t : Nat) : Nat := (nsOfUnits t - nsOfUnits g.base) % max 1 g.cycle

/-- ns for which the gate of queue `q` stays open from an offset on, at most the rest of one cycle and the next. -/
def openFor (q : Nat) : List (Nat × Nat) → Nat → Nat
  | [], _ => 0
  | (g, i) :: r, t =>
    if i ≤ t then openFor q r (t - i) else if bit g q then (i - t) + openRun q r else 0
where
  openRun (q : Nat) : List (Nat × Nat) → Nat
    | [] => 0
    | (g, i) :: r => if bit g q then i + openRun q r else 0

/-- Longest run of open intervals of a queue over a list taken twice round, ns. -/
def longestOpen (q : Nat) : List (Nat × Nat) → Nat → Nat → Nat
  | [], run, best => max run best
  | (g, i) :: r, run, best => if bit g q then longestOpen q r (run + i) best else longestOpen q r 0 (max run best)

/-- Line time of a frame with its 20 bytes of preamble and gap, ns (R498, R501). -/
def Dev.lineTime (d : Dev) (e len : Nat) : Nat :=
  let fast := bit (d.reg 0x21 (0x100 * e)).toNat 29
  if fast then ceilDiv ((len + 20) * 8) 25 else ceilDiv ((len + 20) * 8) 10

/-! ### Shapers (R503, R504) -/

/-- A shaper or policer bucket. -/
def Dev.bucket (d : Dev) (policer : Bool) (i : Nat) : Bucket :=
  Tbl.get (fun _ => {}) (if policer then d.policers else d.shapers) i

def Dev.setBucket (d : Dev) (policer : Bool) (i : Nat) (b : Bucket) : Dev :=
  if policer then { d with policers := Tbl.set (fun _ => {}) d.policers i b }
  else { d with shapers := Tbl.set (fun _ => {}) d.shapers i b }

/-- Register offset of a shaper or policer (R512). -/
def bucketReg (policer : Bool) (i : Nat) : Nat := (if policer then 0x20000 else 0x10000) + 16 * i

/-- Reset a shaper's bucket: BURST where RESET_FULL is 1, 0 otherwise (R504). -/
def Dev.resetShaper (d : Dev) (i : Nat) : Dev :=
  let full := bit (d.reg 0x21 (bucketReg false i + 0xC)).toNat 30
  d.setBucket false i { mb := if full then 8000 * (d.reg 0x21 (bucketReg false i + 4)).toNat else 0 }

/-- Shapers of the egress flows of a port. -/
def Dev.portShapers (d : Dev) (e : Nat) : List Nat :=
  (d.flows.filter (fun f => decide (f.2.flowDir = 0 ∧ f.2.flowPort = e ∧ f.2.flowBucket ≠ 0xFFFF))).map (fun f => f.2.flowBucket)

/-- One refill of one bucket: RATE times 1 µs, at most BURST (R503). -/
def Dev.refill (d : Dev) (policer : Bool) (i : Nat) : Dev :=
  let rate := (d.reg 0x21 (bucketReg policer i)).toNat
  let burst := (d.reg 0x21 (bucketReg policer i + 4)).toNat
  let b := d.bucket policer i
  d.setBucket policer i { mb := min (b.mb + rate) (8000 * burst) }

/-- Numbers of the buckets whose RATE register is not at reset. -/
def Dev.ratedBuckets (d : Dev) (policer : Bool) : List Nat :=
  let lo := regKey 0x21 (bucketReg policer 0)
  (d.regs.filter (fun e => decide (lo ≤ e.1 ∧ e.1 < 0x10000 + lo ∧ (e.1 - lo) % 16 = 0))).map (fun e => (e.1 - lo) / 16)

/-! ### Scheduling and sending (R258, R501, R507, R527) -/

/-- Length in bytes of the frame a flow makes of a payload, FCS included. -/
def Ctx.frameLen (c : Ctx) (payload : Nat) : Nat := c.hdrLen + (if c.flowRtp then 12 else 0) + payload + 4

/-- Whether the head frame of a queue may be granted now (R501). -/
def Dev.qEligible (d : Dev) (e q : Nat) : Bool :=
  match (d.queue e q).units with
  | [] => false
  | u :: _ =>
    let g := (d.ethPort e).gcl
    let openNs := openFor q (g.list ++ g.list) (g.phase d.sdt)
    let tokens := match u.flow with
      | none => true
      | some f => match d.ctx f with
        | none => true
        | some c => decide (c.flowBucket = 0xFFFF) || decide (8000 * u.len ≤ (d.bucket false c.flowBucket).mb)
    tokens && decide (d.lineTime e u.len ≤ openNs)

/-- Discard the head frame of a queue where no open interval can ever hold it (R501). -/
def Dev.dropUnsendable (d : Dev) (e q : Nat) : Dev :=
  match (d.queue e q).units with
  | [] => d
  | u :: r =>
    let l := (d.ethPort e).gcl.list
    if longestOpen q (l ++ l) 0 0 < d.lineTime e u.len then
      ((d.onQueue e q (fun x => { x with units := r })).bump 0x21 (0x100 * e + 0x6C)).count (ethStat e q 0x08)
    else d

/-- First number at or after a pointer, with wrap over 64, for which `p` holds (R258). -/
def rrFind (ptr : Nat) (p : Nat → Bool) : Option Nat := ((List.range 64).map (fun i => (ptr + i) % 64)).find? p

/-- Class pointer of an egress. -/
def Dev.egrPtr (d : Dev) (egr cls : Nat) : Nat := (d.fab.egr.getD egr [0, 0, 0]).getD (cls - 1) 0

/-- Move a class pointer past the queue served (R258). -/
def Dev.egrServed (d : Dev) (egr cls q : Nat) : Dev :=
  d.onFab (fun f => { f with egr := modAt f.egr egr (fun l => modAt l (cls - 1) (fun _ => (q + 1) % 64)) })

/-- Grant one frame of an Ethernet port to the highest class with an eligible queue (R258). -/
def Dev.ethGrant (d : Dev) (e : Nat) : Dev :=
  let d := (List.range 8).foldl (fun d q => d.dropUnsendable e q) d
  if !(d.ethPort e).up ∨ (d.ethPort e).granted.isSome ∨ !d.takesWork (18 + e) then d
  else
    let pick : Nat → Option Nat := fun cls =>
      rrFind (d.egrPtr e cls) (fun q => decide (q < 8) && decide (d.qClass e q = cls) && d.qEligible e q)
    match ([1, 2, 3].filterMap (fun cls => (pick cls).map (fun q => (cls, q)))).head? with
    | none => d
    | some (cls, q) =>
      match (d.queue e q).units with
      | [] => d
      | u :: r =>
        let d1 := d.onEth e (fun p => { p with granted := some u, queues := modAt p.queues q (fun x => { x with units := r }) })
        (d1.count (ethStat e q 0x00)).egrServed e cls q

/-- 16-bit ones' complement sum of big-endian words, for the IPv4 header checksum (R507). -/
def onesSum : List Byte → Nat
  | a :: b :: r => 256 * a.toNat + b.toNat + onesSum r
  | [a] => 256 * a.toNat
  | [] => 0

/-- Two big-endian bytes. -/
def be16 (n : Nat) : List Byte := [BitVec.ofNat 8 (n / 256), BitVec.ofNat 8 n]

/-- Four big-endian bytes. -/
def be32 (n : Nat) : List Byte := be16 (n / 65536) ++ be16 (n % 65536)

/-- Replace bytes of a list from an offset on. -/
def patch (l : List Byte) (off : Nat) (b : List Byte) : List Byte := l.take off ++ b ++ l.drop (off + b.length)

/-- The frame of a flow around a payload (R507): template, IPv4 length, identification 0, DF, checksum, UDP length and
checksum 0, and with RTP its 12-byte header. -/
def Ctx.buildFrame (c : Ctx) (rtp : Nat) (marker : Bool) (pt : Nat) (payload : List Byte) : List Byte :=
  let hl := c.hdrLen
  let tpl := slice c.params 64 hl
  let ssrc := rd c.params 16 4
  let rtpHdr := if c.flowRtp then
      [0x80, BitVec.ofNat 8 (128 * b2n marker + pt % 128)] ++ be16 (c.packets % 65536) ++ be32 rtp ++ be32 ssrc
    else []
  let body := rtpHdr ++ payload
  let ip := hl - 28
  let t1 := patch tpl (ip + 2) (be16 (28 + body.length))
  let t2 := patch t1 (ip + 4) [0, 0, 0x40, 0]
  let t3 := patch t2 (ip + 10) [0, 0]
  let sum := onesSum (slice t3 ip 20)
  let fold := sum % 65536 + sum / 65536
  let fold2 := fold % 65536 + fold / 65536
  let t4 := patch t3 (ip + 10) (be16 (65535 - fold2))
  let t5 := patch t4 (hl - 4) (be16 (8 + body.length) ++ [0, 0])
  t5 ++ body

/-- Cells of a relayed frame (R527). -/
def relayCells (cls dest src target : Nat) (frame : List Byte) : List Flit :=
  cutFlits (fun lst p => { type := 1, cls := cls, last := lst, seq := 0, dest := dest, src := src, target := target, payload := p })
    (frame.length / 256 + 1) frame

/-- Send the granted frame of a port: from its template, to the PHY, or to the manager, at
RATE, where the port is relayed (R527). -/
def Dev.ethTransmit (d : Dev) (e : Nat) : Dev :=
  match (d.ethPort e).granted with
  | none => d
  | some u =>
    let d1 := d.onEth e (fun p => { p with granted := none })
    let made := match u.flow with
      | none => (u.payload, d1)
      | some f =>
        match d1.ctx f with
        | none => (u.payload, d1)
        | some c =>
          let frame := if u.raw then u.payload else c.buildFrame u.rtp u.marker u.pt ((if u.ext then be16 (c.packets / 65536 % 65536) else []) ++ u.payload)
          let d2 := d1.setCtx f (some { c with packets := (c.packets + 1) % 2 ^ 32 })
          let d3 := if c.flowBucket = 0xFFFF then d2
            else d2.setBucket false c.flowBucket { mb := (d2.bucket false c.flowBucket).mb - 8000 * u.len }
          (frame, d3)
    let d4 := made.2
    let relay := decide (d4.boot.role = 2) && bit (d4.reg 0x22 (0x820 + 4 * e)).toNat 31
    if relay then
      let cls := match u.flow.bind d4.ctx with
        | some c => d4.qClass e c.flowQueue
        | none => 3
      let rate := fld (d4.reg 0x22 (0x820 + 4 * e)) 0 25
      ((d4.advance (ceilDiv (8000000 * u.len) rate)).onPort 0 (fun p =>
        { p with cellQ := p.cellQ ++ relayCells cls 0 d4.deviceId e made.1 })).noteCredit 0
    else (d4.advance (d4.lineTime e u.len)).emit (.eth e made.1)

/-! ### Ports (R499, R510) -/

/-- Discard the frames of a port whose DEADLINE has passed (R510). -/
def Dev.dropLate (d : Dev) (e : Nat) : Dev :=
  (List.range 8).foldl (fun d q =>
    let us := (d.queue e q).units
    let late : EthUnit → Bool := fun u => decide (u.deadline ≠ 0) && decide (u.at_ + 1000 * u.deadline < d.clk)
    let n := (us.filter late).length
    ((d.onQueue e q (fun x => { x with units := us.filter (fun u => !late u) })).bump 0x21 (0x100 * e + 0x6C) n).count (ethStat e q 0x08) n) d

/-- The hold of a port expires (R510). -/
def Dev.ethExpire (d : Dev) (e : Nat) : Dev :=
  let n := sumBy (fun q => q.units.length) (d.ethPort e).queues
  let d1 := (List.range 8).foldl (fun d q => (d.count (ethStat e q 0x08) (d.queue e q).units.length).onQueue e q (fun x => { x with units := [] })) d
  let d2 := (d1.bump 0x21 (0x100 * e + 0x68) n).onEth e (fun p => { p with held := false, down := true })
  (d2.raise (513 + 2 * e) e).postEvent 0x07 0 e

/-! ### Meanings -/

/-- PORT_DOWN: a port without block lock or with a fault for 100 µs goes down and its hold starts (R499, R510). -/
def execPortDown (e : Nat) (localFault remoteFault blockLock : Bool) (s : State) : Host.Outcome State Fault Refusal :=
  liveDev (fun d => onlyIf (decide (e < 2) && (d.ethPort e).up) (fun d =>
    let hold := fld (d.reg 0x21 (0x100 * e + 0x08)) 0 17
    let d1 := d.onEth e (fun p => { p with up := false, held := true, holdUntil := d.clk + 1000 * hold, localFault := localFault, remoteFault := remoteFault, blockLock := blockLock })
    let d2 := d1.raise (512 + 2 * e) e
    if hold = 0 then d2.ethExpire e else d2) d) s

/-- PORT_UP: 10 ms of block lock without a fault (R499, R510). -/
def execPortUp (e : Nat) (s : State) : Host.Outcome State Fault Refusal :=
  liveDev (fun d => onlyIf (decide (e < 2) && !(d.ethPort e).up && d.takesWork (18 + e) && bit (d.reg 0x21 (0x100 * e)).toNat 31) (fun d =>
    let p := d.ethPort e
    let d0 := if p.held ∧ p.holdUntil ≤ d.clk then d.ethExpire e else d
    let inHold := (d0.ethPort e).held
    let d1 := d0.onEth e (fun p => { p with up := true, held := false, down := false, blockLock := true, localFault := false, remoteFault := false })
    let d2 := (d1.portShapers e).foldl Dev.resetShaper d1
    if inHold then (d2.bump 0x21 (0x100 * e + 0x64)).dropLate e else d2.postEvent 0x07 1 e) d) s

/-- ETH_HOLD_EXPIRY (R510). -/
def execEthHoldExpiry (e : Nat) (s : State) : Host.Outcome State Fault Refusal :=
  liveDev (fun d => onlyIf (decide (e < 2) && (d.ethPort e).held) (fun d =>
    (d.advanceTo (d.ethPort e).holdUntil).ethExpire e) d) s

/-- SHAPER_REFILL: every 1 µs each shaper and policer gains RATE tokens up to BURST (R503 to R505). -/
def execShaperRefill (s : State) : Host.Outcome State Fault Refusal :=
  liveDev (fun d =>
    let d1 := d.advanceTo (1000 + d.refillAt)
    let d2 : Dev := { d1 with refillAt := d1.clk }
    let d3 := (d2.ratedBuckets false).foldl (fun d i => d.refill false i) d2
    (d3.ratedBuckets true).foldl (fun d i => d.refill true i) d3) s

/-- SHAPER_RESET: a write of 1 to a shaper's RESET bit (R504). -/
def execShaperReset (i : Nat) (s : State) : Host.Outcome State Fault Refusal :=
  liveDev (fun d => onlyIf (decide (i < 4096)) (fun d => d.resetShaper i) d) s

/-- GATE_INTERVAL_END: the interval in effect on a port ends and the next entry's gates take effect (R502). -/
def execGateIntervalEnd (e : Nat) (s : State) : Host.Outcome State Fault Refusal :=
  liveDev (fun d => onlyIf (decide (e < 2)) (fun d =>
    let g := (d.ethPort e).gcl
    let left := (gateAt g.list (g.phase d.sdt)).2
    d.advanceToSid (d.sdt + ceilDiv (2 ^ 32 * left) (10 ^ 9))) d) s

/-- The dwords of a port's inactive bank. -/
def Dev.bankOf (d : Dev) (e : Nat) : List (Nat × Nat) :=
  (List.range 256).map (fun i =>
    let w := d.reg 0x21 (0x1000 + 0x400 * e + 4 * i)
    (fld w 24 8, fld w 0 24))

/-- The list that a commit would take (R502). -/
def Dev.gclInactive (d : Dev) (e : Nat) : GateList :=
  { entries := d.bankOf e, count := fld (d.reg 0x21 (0x100 * e + 0x30)) 0 9, base := d.reg64 0x21 (0x100 * e + 0x38) }

/-- Whether a list may be committed: no interval of 0, a cycle of at most 1 s (R502). -/
def GateList.ok (g : GateList) : Bool := g.list.all (fun x => decide (0 < x.2)) && decide (0 < g.cycle ∧ g.cycle ≤ 1000000000)

/-- Commit the inactive bank: the list becomes active at the first BASE + m × cycle at least 100 µs later; a second commit
replaces the first (R502). -/
def Dev.gclCommit (d : Dev) (e : Nat) : Dev :=
  let g := d.gclInactive e
  if g.ok then
    let soonest := d.sdt + ceilDiv (100000 * 2 ^ 32) (10 ^ 9)
    let k := if soonest ≤ g.base then 0 else ceilDiv (10 ^ 9 * (soonest - g.base)) (2 ^ 32 * g.cycle)
    d.onEth e (fun p => { p with gclNext := some (g, g.base + ceilDiv (2 ^ 32 * (k * g.cycle)) (10 ^ 9)) })
  else d

/-- ETH_GCL_COMMIT (R502). -/
def execEthGclCommit (e : Nat) (s : State) : Host.Outcome State Fault Refusal :=
  liveDev (fun d => onlyIf (decide (e < 2) && d.powered (18 + e)) (fun d => d.gclCommit e) d) s

/-- GCL_ACTIVATE: a committed list becomes active; the list it replaces is the inactive bank from then on (R502). -/
def execGclActivate (e : Nat) (s : State) : Host.Outcome State Fault Refusal :=
  liveDev (fun d =>
    match (d.ethPort e).gclNext with
    | none => d
    | some (g, t) =>
      let old := (d.ethPort e).gcl
      let d1 := (d.advanceToSid t).onEth e (fun p => { p with gcl := g, gclNext := none })
      (List.range 256).foldl (fun d i =>
        let x := old.entries.getD i (0, 0)
        d.setReg 0x21 (0x1000 + 0x400 * e + 4 * i) (word (2 ^ 24 * x.1 + x.2))) d1) s

/-- ETH_FRAME_TX: the granted frame of a port is built and sent or relayed (R501, R507, R527). -/
def execEthFrameTx (e : Nat) (s : State) : Host.Outcome State Fault Refusal :=
  liveDev (fun d => onlyIf (decide (e < 2)) (fun d => d.ethTransmit e) d) s

/-- Fields of an ingress frame, 802.1Q tag or not: destination, VLAN ID, EtherType offset. -/
def frameTag (f : List Byte) : Bool := decide (slice f 12 2 = [0x81, 0x00])

/-- Big-endian number of bytes. -/
def beNat (l : List Byte) : Nat := l.foldl (fun n b => 256 * n + b.toNat) 0

/-- Whether an ingress flow matches a frame (R506, R508). -/
def Ctx.matchesFrame (c : Ctx) (f : List Byte) : Bool :=
  let m := rd c.params 2 1
  let tag := frameTag f
  let ip := if tag then 18 else 14
  let ihl := (beNat (slice f ip 1) % 16) * 4
  let isIp := decide (slice f (ip - 2) 2 = [0x08, 0x00])
  let isUdp := isIp && decide (slice f (ip + 9) 1 = [0x11])
  (!bit m 0 || decide (slice f 0 6 = slice c.params 16 6)) &&
  (!bit m 1 || (tag && decide (beNat (slice f 14 2) % 4096 = rd c.params 22 2 % 4096))) &&
  (!bit m 2 || (isIp && decide (beNat (slice f (ip + 16) 4) = rd c.params 24 4))) &&
  (!bit m 3 || (isUdp && decide (beNat (slice f (ip + ihl + 2) 2) = rd c.params 28 2)))

/-- Whether a frame is a PTP message of R495: UDP ports 319 and 320 to 224.0.1.129. -/
def isPtpFrame (f : List Byte) : Bool :=
  let ip := if frameTag f then 18 else 14
  let ihl := (beNat (slice f ip 1) % 16) * 4
  decide (slice f (ip - 2) 2 = [0x08, 0x00]) && decide (slice f (ip + 9) 1 = [0x11]) &&
  decide (beNat (slice f (ip + 16) 4) = 0xE0000181) &&
  (decide (beNat (slice f (ip + ihl + 2) 2) = 319) || decide (beNat (slice f (ip + ihl + 2) 2) = 320))

/-- ETH_FRAME_RX: a received frame, from destination address on, without its FCS (R498, R505, R508). -/
def execEthFrameRx (e : Nat) (fcsOk : Bool) (frame : List Byte) (s : State) : Host.Outcome State Fault Refusal :=
  live (fun m => onlyIf (decide (e < 2) && (m.dev.ethPort e).up && m.dev.takesWork (18 + e)) (fun m =>
    let typ := if frameTag frame then slice frame 16 2 else slice frame 12 2
    let drop : Mach := { m with dev := m.dev.bump 0x21 (0x100 * e + 0x70) }
    if !fcsOk then drop
    else if typ = [0x88, 0x08] then { m with dev := m.dev.bump 0x21 (0x100 * e + 0x60) }
    else if isPtpFrame frame then m
    else
      match m.dev.flows.find? (fun f => decide (f.2.flowDir = 1 ∧ f.2.flowPort = e) && f.2.matchesFrame frame) with
      | some (_, c) =>
        let pol := c.flowBucket
        let ring := rd c.params 6 1
        let len := frame.length + 4
        if pol = 0xFFFF then (m.ringDeliver ring 4 frame).2
        else if 8000 * len ≤ (m.dev.bucket true pol).mb then
          let d := m.dev.setBucket true pol { mb := (m.dev.bucket true pol).mb - 8000 * len }
          (Mach.ringDeliver { m with dev := d } ring 4 frame).2
        else { m with dev := m.dev.bump 0x21 (bucketReg true pol + 0xC) }
      | none =>
        let ring := fld (m.dev.reg 0x21 (0x100 * e + 0x0C)) 0 8
        if ring = 0 then drop else (m.ringDeliver ring 4 frame).2) m) s

end Sys2Proof.Machine
end

