-- ==== Sys2Proof/Machine/LinkRx.lean ====
section
/-! DEFINITION. Receiving on the Rudun links (R514, R517 to R522, R526 to R528, R542): flits, credits, replays, the state of
a port, hold and loss. -/

namespace Sys2Proof.Machine
open Sys2Proof

/-! ### Flits (R517 to R520) -/

/-- A flit as 272 bytes carry it. -/
structure RxFlit where
  flit : Flit
  ack : Nat
  nak : Bool
  crdPool : Nat
  crdCount : Nat
  crcGood : Bool
  deriving DecidableEq, Repr

/-- Read the header, payload and check of 272 bytes (R517). -/
def parseFlit (raw : List Byte) : RxFlit :=
  let h := rd raw 0 12
  let f : Flit := { type := bits h 92 4, cls := bits h 90 2, last := bit h 89, seq := bits h 76 12, dest := bits h 44 12,
                    src := bits h 32 12, target := bits h 18 14, payload := slice raw 12 (min 256 (bits h 9 9)) }
  { flit := f, ack := bits h 64 12, nak := bit h 63, crdPool := bits h 61 2, crdCount := bits h 56 5,
    crcGood := decide (rd raw 268 4 = crc32c 0 (slice raw 0 268)) }

/-- Whether the class is the one the type allows (R517, R518). -/
def Flit.classOk (f : Flit) : Bool :=
  match f.type with
  | 0 => decide (f.cls = 0)
  | 1 => decide (1 ≤ f.cls)
  | 2 => decide (f.cls = 2)
  | 3 => decide (f.cls = 0)
  | _ => false

/-- Whether a flit takes a sequence number. -/
def Flit.numbered (f : Flit) : Bool := decide (f.type = 1 ∨ f.type = 2)

/-- Whether a LINK_INIT message: it acts on one hop, outside the sequence. -/
def Flit.isInit (f : Flit) : Bool := decide (f.type = 2) && decide (rd f.payload 0 1 = 1)

/-- Modulo-4,096 distance from `a` to `b`. -/
def seqDiff (a b : Nat) : Nat := (b + 4096 - a % 4096) % 4096

/-- Drop from the replay buffer what an ACK acknowledges; progress restarts the count and the timer (R519). -/
def LinkPort.acked (p : LinkPort) (ack clk : Nat) : LinkPort :=
  let keep := p.replay.filter (fun f => decide (2048 ≤ seqDiff f.seq ack))
  if keep.length < p.replay.length then { p with replay := keep, replays := 0, ackAt := clk, txAck := ack } else p

/-- Send again every flit that is not acknowledged, from the oldest (R519). -/
def Dev.replay (d : Dev) (p : Nat) : Dev :=
  let q := d.port p
  if q.replay.isEmpty then d
  else
    let d1 := (d.onPort p (fun q => { q with replays := q.replays + 1, ackAt := d.clk })).bump 0x22 (0x100 * p + 0x20)
    let d2 := d1.count (linkStat p 0x40) q.replay.length
    q.replay.foldl (fun d f => d.wireFlit p f) d2

/-- Send an IDLE flit that carries a due NAK, an acknowledgement or credits (R517 to R520). -/
def Dev.idleFlit (d : Dev) (p : Nat) : Dev :=
  let q := d.port p
  d.wireFlit p { type := 0, cls := 0, last := false, seq := (4095 + q.txSeq) % 4096, dest := 0, src := d.deviceId, target := 0, payload := [] }

/-- Discard a flit (R518). -/
def Dev.badFlit (d : Dev) (p : Nat) : Dev :=
  let d1 := ((d.bump 0x22 (0x100 * p + 0x24)).count (linkStat p 0x48)).onPort p (fun q => if q.nakSent then q else { q with nakDue := true })
  if (d1.port p).nakDue then d1.idleFlit p else d1

/-- Credits freed at the receiver are owed to the peer (R520). -/
def Dev.oweCredit (d : Dev) (p pool : Nat) : Dev := d.onPort p (fun q => { q with owed := modAt q.owed pool (· + 1) })

/-! ### Messages and cells that are kept (R526, R527, R542) -/

/-- A complete control message is kept for its row; a reserved code is discarded and counted (R542). -/
def Dev.keepMsg (d : Dev) (p src : Nat) (bytes : List Byte) : Dev :=
  let code := rd bytes 0 1
  let d1 := d.count (linkStat p 0x38)
  if code = 0 ∨ 0x10 < code then d1.bump 0x22 (0x100 * p + 0x30)
  else
    let msg : LinkMsg := { port := p, src := src, code := code, body := slice bytes 4 (min 1024 (rd bytes 2 2)), at_ := d.sdt }
    d1.onLink (fun l => { l with inbox := l.inbox ++ [msg] })

/-- Collect a control flit for this device; a TICK message may come between the flits of another (R520, R542). -/
def Dev.keepCtrl (d : Dev) (p : Nat) (f : Flit) : Dev :=
  let part := Tbl.get (fun _ => []) (d.port p).parts f.src
  let set : List Byte → Dev := fun l => d.onPort p (fun q => { q with parts := Tbl.set (fun _ => []) q.parts f.src l })
  if f.last && decide (rd f.payload 0 1 = 6) && decide (f.payload.length = 20) then d.keepMsg p f.src f.payload
  else if f.last then (set []).keepMsg p f.src (part ++ f.payload)
  else set (part ++ f.payload)

/-- A cell for this device: on a manager, part of a frame relayed to its Ethernet port TARGET, which joins queue
LNK_RELAY_Q of that port when complete (R527). -/
def Dev.keepCell (d : Dev) (f : Flit) : Dev :=
  if d.boot.role = 1 ∧ f.target < 2 then
    let key := 2 * f.src + f.target
    let part := Tbl.get (fun _ => []) d.link.relayRx key ++ f.payload
    let put : List Byte → Dev := fun l => d.onLink (fun x => { x with relayRx := Tbl.set (fun _ => []) x.relayRx key l })
    if f.last then
      let u : EthUnit := { flow := none, len := part.length + 4, at_ := d.clk, deadline := 0, rtp := 0, marker := false, payload := part }
      ((put []).ethEnqueue f.target (fld (d.reg 0x22 (0x828 + 4 * f.target)) 0 3) u).2
    else put part
  else d

/-- Put a flit to be forwarded into the queue of port `q` (R526). -/
def Dev.forwardOn (d : Dev) (q : Nat) (f : Flit) : Dev :=
  if !(d.port q).carries then d
  else if f.type = 1 then (d.onPort q (fun x => { x with cellQ := x.cellQ ++ [f] })).noteCredit q
  else
    let tick := decide (rd f.payload 0 1 = 6) && f.last
    (d.onPort q (fun x => if tick then { x with tickQ := x.tickQ ++ [f] } else { x with ctrlQ := x.ctrlQ ++ [f] })).pumpLink q 32

/-- Copies of a broadcast on every down port toward enumerated workers (R526). -/
def Dev.copyDown (d : Dev) (f : Flit) : Dev :=
  d.downPorts.foldl (fun d q => if (d.port q).subEnum then d.forwardOn q f else d) d

/-- Deliver or forward an accepted CELL or CONTROL flit (R526). -/
def Dev.deliver (d : Dev) (p : Nat) (f : Flit) : Dev :=
  let ctrl := decide (f.type = 2)
  let mine := decide (f.dest = d.deviceId) && (d.link.enumerated || decide (d.boot.role = 1))
  if ctrl && (mine || (decide (d.boot.role = 2 ∧ p = 0) && !d.link.enumerated)) then d.keepCtrl p f
  else if ctrl && decide (f.dest = 0xFFF) then (d.keepCtrl p f).copyDown f
  else if mine then d.keepCell f
  else
    match d.route f.dest with
    | some q => d.forwardOn q f
    | none => d.bump 0x22 (0x100 * p + 0x30)

/-- A flit received on an UP port (R518 to R520). -/
def Dev.flitUp (d : Dev) (p : Nat) (x : RxFlit) : Dev :=
  let f := x.flit
  let q := d.port p
  if !x.crcGood || !f.classOk || (f.numbered && decide (f.seq ≠ q.rxNext)) then d.badFlit p
  else
    let d1 := d.onPort p (fun q =>
      let q1 := q.acked x.ack d.clk
      { q1 with lastFlitAt := d.clk, credit := modAt q1.credit x.crdPool (· + x.crdCount) })
    let d2 := d1.count (linkStat p 0x08)
    let d3 := if x.nak then d2.replay p else d2
    let d4 :=
      if f.numbered then
        let d5 := d3.onPort p (fun q => { q with rxNext := (q.rxNext + 1) % 4096, nakSent := false, nakDue := false })
        let d6 := (if f.type = 1 then d5.count (linkStat p 0x28) else d5).oweCredit p f.pool
        (d6.deliver p f).idleFlit p
      else if f.type = 3 then
        let msg : LinkMsg := { port := p, src := f.src, code := 0x100 + rd f.payload 0 1, body := f.payload, at_ := d.sdt }
        d3.onLink (fun l => { l with inbox := l.inbox ++ [msg] })
      else d3
    d4.pumpLink p 32

/-! ### Port state (R514, R521, R522) -/

/-- Whether a peer with this role and port makes a valid link with port `p` (R514). -/
def Dev.pairing (d : Dev) (p peerRole peerPort : Nat) : Bool :=
  if d.boot.role = 2 ∧ p = 0 then
    decide (peerRole = 1 ∧ peerPort < 4) || decide (peerRole = 2 ∧ 1 ≤ peerPort ∧ peerPort < 4)
  else decide (peerRole = 2 ∧ peerPort = 0)

/-- Whether port `p` may run: its EN is set and its power domain takes work. -/
def Dev.linkOn (d : Dev) (p : Nat) : Bool := bit (d.reg 0x22 (0x100 * p)).toNat 31 && d.takesWork (14 + p)

/-- Workers whose path begins at manager port `p`: those reached through a worker of depth 1 on that port (R522, R525). -/
def Links.below (l : Links) (p : Nat) : List Nat :=
  (l.workers.filter (fun w =>
    l.workers.any (fun t => decide (t.parent = 0) && decide (t.parentPort = p) && decide (t.id ≤ w.id) && decide (w.id ≤ t.last)))).map
    (fun w => w.id)

/-- The body of the FAULT with FIRST = 1 among queued flits, if one waits there (R541). -/
def firstIn (l : List Flit) : Option (List Byte) :=
  (l.find? (fun f => decide (rd f.payload 0 1 = 0x0C) && decide (rd f.payload 23 1 = 1))).map (fun f => slice f.payload 4 22)

/-- The hold of port `p` expires: queues and the replay buffer are flushed and counted, the link counts as down, the event
goes out, and what lies below is unreachable (R522, R528, R540, R541). -/
def Dev.linkExpire (d : Dev) (p : Nat) : Dev :=
  let q := d.port p
  let n := q.cellQ.length + q.replay.length
  let lost := firstIn (q.ctrlQ ++ q.replay)
  let gone := if d.boot.role = 1 then d.link.below p else []
  let d1 := (d.bump 0x22 (0x100 * p + 0x2C) n).count (linkStat p 0x50) n
  let d2 := d1.onPort p (fun q => { q with state := if q.laneLock = 15 then .init else .training, tickQ := [], ctrlQ := [], cellQ := [],
                                           replay := [], replays := 0, parts := [], gotInit := false, downPosted := true })
  let d3 := d2.onLink (fun l => { l with
    workers := l.workers.map (fun w => if gone.contains w.id then { w with reachable := false } else w),
    relays := l.relays.filter (fun r => !gone.contains r.dev),
    firstLost := match lost with
      | some b => some b
      | none => l.firstLost })
  (d3.raise (505 + 2 * p) p).postEvent 0x07 2 p

/-- A link leaves UP: it is held, and a hold of 0 expires at once (R521, R522). -/
def Dev.linkHold (d : Dev) (p lanes : Nat) : Dev :=
  let hold := fld (d.reg 0x22 (0x100 * p)) 0 17
  let d1 := d.onPort p (fun q => { q with state := .held, laneLock := lanes, holdUntil := d.clk + 1000 * hold, formerUid := q.peerUid, gotInit := false })
  let d2 := d1.raise (504 + 2 * p) p
  if hold = 0 then d2.linkExpire p else d2

/-- Switch a port off: EN cleared or its domain off; an UP or held link ends as at a hold expiry (R521). -/
def Dev.linkOff (d : Dev) (p : Nat) : Dev :=
  let d1 := if (d.port p).carries then d.linkExpire p else d
  d1.onPort p (fun q => { q with state := .off, laneLock := 0 })

/-- Switch a port on: its lanes begin to train (R521). -/
def Dev.linkTrain (d : Dev) (p : Nat) : Dev :=
  if (d.port p).state = .off ∧ d.linkOn p then d.onPort p (fun q => { q with state := .training }) else d

/-- Take the oldest kept message with a code that came through port `p`, and the links without it. -/
def takeMsg (p code : Nat) : List LinkMsg → Option (LinkMsg × List LinkMsg)
  | [] => none
  | x :: r =>
    if x.port = p ∧ x.code = code then some (x, r)
    else (takeMsg p code r).map (fun y => (y.1, x :: y.2))

/-- Act on the oldest kept message with a code from port `p`; without one nothing happens. -/
def onMsg (p code : Nat) (f : LinkMsg → Dev → Dev) (d : Dev) : Dev :=
  match takeMsg p code d.link.inbox with
  | none => d
  | some (x, r) => f x (d.onLink (fun l => { l with inbox := r }))

/-- Unique device number as 16 bytes, least significant first. -/
def uidBytes : List Byte :=
  leBytes 4 (Config.uid 0).toNat ++ leBytes 4 (Config.uid 1).toNat ++ leBytes 4 (Config.uid 2).toNat ++ leBytes 4 (Config.uid 3).toNat

/-- Body of LINK_INIT (R542). -/
def Dev.initBody (d : Dev) (p : Nat) : List Byte :=
  leBytes 1 d.boot.role ++ leBytes 1 p ++ leBytes 2 (2 ^ 15 * b2n d.link.enumerated + d.link.id) ++ uidBytes ++ leBytes 2 (d.port p).rxNext

/-- The port comes UP anew: credits start full and sequences at 0 (R519, R520). -/
def LinkPort.fresh (q : LinkPort) (clk : Nat) : LinkPort :=
  { q with state := .up, txSeq := 0, txAck := 4095, rxNext := 0, nakSent := false, nakDue := false, replay := [], replays := 0,
           credit := [16, 128, 64, 32], owed := [0, 0, 0, 0], owedTurn := 0, parts := [], lastFlitAt := clk, ackAt := clk, timeAt := clk }

/-- Number of capture contexts armed or running (R537). -/
def Dev.activeCount (d : Dev) : Nat := (d.streams.filter (fun e => e.2.active)).length

/-- LNK_TICK_STATUS bits [31:29]. -/
def Dev.tickStatus (d : Dev) : Nat := b2n d.tick.following * 4 + b2n d.tick.holdover * 2 + b2n d.tick.mismatch

/-- A worker reports its count to the manager (R537). -/
def Dev.sendState (d : Dev) : Dev :=
  if d.boot.role = 2 ∧ d.link.enumerated then d.sendMsg 0 7 (leBytes 1 d.activeCount ++ leBytes 1 d.tickStatus) else d

/-- Send a severity table to a device (R539). -/
def Dev.sendSeverity (d : Dev) (dest token : Nat) (t : List Nat) : Dev :=
  d.sendMsg dest 0x0A (leBytes 2 token ++ t.map (fun s => BitVec.ofNat 8 s))

/-- The manager readmits the workers below port `p` whose path and UID match: REASSIGN and their last severity table
(R525, R539). -/
def Dev.readmit (d : Dev) (p : Nat) : Dev :=
  let back := d.link.below p
  let back := (d.link.workers.filter (fun w => back.contains w.id && !w.reachable))
  let d1 := d.onLink (fun l => { l with workers := l.workers.map (fun w => if back.any (fun b => decide (b.id = w.id)) then { w with reachable := true, sevWait := false } else w) })
  back.foldl (fun d w =>
    let d2 := d.sendMsg w.id 5 (leBytes 2 w.id ++ leBytes 2 w.last ++ leBytes 1 w.depth ++ padTo 16 w.uid)
    match w.sev with
    | some t => d2.sendSeverity w.id 0xFFFF t
    | none => d2) d1

/-- The port comes UP after a LINK_INIT of a valid pair. -/
def Dev.linkUp (d : Dev) (p : Nat) (back : Bool) (rxNext : Nat) : Dev :=
  if back then
    let d1 := (d.onPort p (fun q =>
      let q1 := q.acked ((4095 + rxNext) % 4096) d.clk
      { q1 with state := .up, lastFlitAt := d.clk, ackAt := d.clk, replays := 0 })).bump 0x22 (0x100 * p + 0x28)
    let d2 := d1.count (linkStat p 0x40) (d1.port p).replay.length
    ((d1.port p).replay.foldl (fun d f => d.wireFlit p f) d2).pumpLink p 64
  else
    let posted := (d.port p).downPosted
    let d1 := d.onPort p (fun q => { q.fresh d.clk with downPosted := false })
    let d2 := if posted then d1.postEvent 0x07 3 p else d1
    if d.boot.role = 1 then d2.readmit p else d2

end Sys2Proof.Machine
end

