-- ==== Sys2Proof/Machine/Link.lean ====
section
/-! DEFINITION. The Rudun links (R513 to R544): port state, flits, enumeration, readmission, severities, fault roll-up,
relays and time alignment. -/

namespace Sys2Proof.Machine
open Sys2Proof

/-! ### Port state (R521, R522) -/

/-- LANES_ALIGNED: all four lanes lock and align. -/
def execLanesAligned (p : Nat) (s : State) : Host.Outcome State Fault Refusal :=
  liveDev (fun d => onlyIf (decide (p < 4) && d.linkOn p) (fun d =>
    match (d.port p).state with
    | .training => d.onPort p (fun q => { q with state := .init, laneLock := 15, gotInit := false, initAt := d.clk })
    | .held => d.onPort p (fun q => { q with laneLock := 15, initAt := d.clk })
    | _ => d) d) s

/-- LINK_INIT_SEND: every 10 µs in INIT, or on a held link whose lanes have aligned again, LINK_INIT goes out (R521, R522). -/
def execLinkInitSend (p : Nat) (s : State) : Host.Outcome State Fault Refusal :=
  liveDev (fun d =>
    let q := d.port p
    onlyIf (decide (p < 4) && decide (q.laneLock = 15) && (decide (q.state = .init) || decide (q.state = .held))) (fun d =>
      let d1 := (d.advanceTo q.initAt).onPort p (fun q => { q with initAt := 10000 + max q.initAt d.clk })
      let f : Flit := { type := 2, cls := 2, last := true, seq := 0, dest := 0, src := d.deviceId, target := 0,
                        payload := leBytes 1 1 ++ [0] ++ leBytes 2 24 ++ d1.initBody p }
      d1.wireFlit p f) d) s

/-- LINK_INIT: the peer's message validates the pairing and moves the port to UP or MISWIRED, or ends a hold (R514, R521,
R522, R529). -/
def execLinkInit (p : Nat) (s : State) : Host.Outcome State Fault Refusal :=
  liveDev (onMsg p 1 (fun x d =>
    let role := rd x.body 0 1
    let peerPort := rd x.body 1 1
    let enumId := rd x.body 2 2
    let uid := wordsOf (slice x.body 4 16) 4
    let rxNext := rd x.body 20 2 % 4096
    let q := d.port p
    let first := decide (q.peerUid = [0, 0, 0, 0])
    let late := decide (q.holdUntil ≤ d.clk)
    let same := decide (uid = q.formerUid)
    let heldNow := decide (q.state = .held)
    let d0 := if heldNow && (late || !same) then d.linkExpire p else d
    let back := heldNow && !late && same
    let note : LinkPort → LinkPort := fun q =>
      { q with peerDev := enumId % 4096, peerEnum := bit enumId 15, peerUid := uid, peerPort := peerPort, peerRole := role,
               gotInit := true, subEnum := q.subEnum && same }
    if back then (d0.onPort p note).linkUp p true rxNext
    else if (d0.port p).state ≠ .init then d0
    else if d0.pairing p role peerPort then
      let d1 := (d0.onPort p note).linkUp p false rxNext
      if first && decide (d.boot.role = 2 ∧ p = 0) then d1.setReg 0x01 0x00C (setFld (d1.reg 0x01 0x00C) 0 3 4) else d1
    else (d0.onPort p note).onPort p (fun q => { q with state := .miswired, retryAt := 100000000 + d.clk }))) s

/-- LINK_LOSS: a lane loses block lock (`lanes` still locked), eight replays brought no progress, or 10 µs passed without an
accepted flit (R521). -/
def execLinkLoss (p why lanes : Nat) (s : State) : Host.Outcome State Fault Refusal :=
  liveDev (fun d =>
    let q := d.port p
    onlyIf (decide (p < 4) && decide (q.state = .up)) (fun d =>
      match why with
      | 0 => if lanes % 16 = 15 then d else d.linkHold p (lanes % 16)
      | 1 => if 8 ≤ q.replays then d.linkHold p 0 else d
      | _ => (d.advanceTo (10000 + q.lastFlitAt)).linkHold p 0) d) s

/-- LINK_HOLD_EXPIRY (R522). -/
def execLinkHoldExpiry (p : Nat) (s : State) : Host.Outcome State Fault Refusal :=
  liveDev (fun d => onlyIf (decide (p < 4) && decide ((d.port p).state = .held)) (fun d =>
    (d.advanceTo (d.port p).holdUntil).linkExpire p) d) s

/-- MISWIRED_RETRY: the port retrains every 100 ms and checks the pairing again (R521). -/
def execMiswiredRetry (p : Nat) (s : State) : Host.Outcome State Fault Refusal :=
  liveDev (fun d => onlyIf (decide (p < 4) && decide ((d.port p).state = .miswired)) (fun d =>
    (d.advanceTo (d.port p).retryAt).onPort p (fun q => { q with state := .training, laneLock := 0 })) d) s

/-- FLIT_RX: 272 bytes arrive on a port (R517 to R520, R526). -/
def execFlitRx (p : Nat) (raw : List Byte) (s : State) : Host.Outcome State Fault Refusal :=
  liveDev (fun d => onlyIf (decide (p < 4)) (fun d =>
    let x := parseFlit raw
    let q := d.port p
    let starting := decide (q.state = .init) || (decide (q.state = .held) && decide (q.laneLock = 15))
    if starting then
      if x.crcGood && x.flit.classOk && x.flit.isInit then d.keepMsg p x.flit.src x.flit.payload else d
    else if q.state = .up then (if x.crcGood && x.flit.isInit then d else d.flitUp p x)
    else d) d) s

/-- REPLAY_TIMEOUT: ACK has not advanced for 4 µs while flits are outstanding (R519). -/
def execReplayTimeout (p : Nat) (s : State) : Host.Outcome State Fault Refusal :=
  liveDev (fun d =>
    let q := d.port p
    onlyIf (decide (p < 4) && decide (q.state = .up) && !q.replay.isEmpty && decide (q.replays < 8)) (fun d =>
      (d.advanceTo (4000 + q.ackAt)).replay p) d) s

/-! ### Enumeration and readmission (R443, R523 to R525) -/

/-- Largest ID in a worker's subtree: the IDs of a subtree are consecutive, so it ends before the next worker that is not
deeper (R523). -/
def lastOf (ws : List Worker) (w : Worker) (next : Nat) : Nat :=
  match argMin (fun x => x.id) (ws.filter (fun x => decide (w.id < x.id) && decide (x.depth ≤ w.depth))) with
  | some x => x.id - 1
  | none => next - 1

/-- One entry of CONSTELLATION_ENUM (R443). -/
def enumEntry (id parent port depth : Nat) (uid : List Byte) : List Byte :=
  leBytes 2 id ++ leBytes 2 parent ++ leBytes 1 port ++ leBytes 1 depth ++ [0, 0] ++ padTo 8 uid

/-- All entries in ID order, the manager's own first (R524). -/
def Links.entries (l : Links) (ids : Nat) : List Byte :=
  enumEntry 0 0xFFF 0xFF 0 (slice uidBytes 0 8) ++
  ((List.range ids).filterMap (fun i => (l.workers.find? (fun w => decide (w.id = i + 1))).map
    (fun w => enumEntry w.id w.parent w.parentPort w.depth w.uid))).flatten

/-- Whether port `p` may be enumerated through now: UP and its peer not yet handled. -/
def Dev.enumerable (d : Dev) (p : Nat) : Bool := decide ((d.port p).state = .up)

/-- Send ENUM through the next UP down port from `from_` on; none when no port is left or the IDs are used up (R523,
R524). -/
def Dev.enumNextPort (d : Dev) (from_ : Nat) : Option Dev :=
  if 0xFFF < d.link.enumNext ∨ 8 ≤ d.link.depth then none
  else
    (d.downPorts.find? (fun p => decide (from_ ≤ p) && d.enumerable p)).map (fun p =>
      let base := d.link.enumNext
      let d1 := (d.onPort p (fun q => { q with enumAt := d.clk + 1, subId := base, subLast := base, subEnum := true })).onLink
        (fun l => { l with enumPort := p + 1 })
      d1.queueMsg p base d.deviceId 2 (leBytes 2 base ++ leBytes 1 (d.link.depth + 1)))

/-- Peers on the device's own UP down ports that were left without an ID. -/
def Dev.leftOut (d : Dev) : Nat := (d.downPorts.filter (fun p => decide ((d.port p).state = .up) && !(d.port p).subEnum)).length

/-- The enumeration under this device is complete: a worker returns ENUM_DONE, the manager completes its command (R523,
R524, R443). -/
def Mach.enumFinish (m : Mach) : Mach :=
  let next := m.dev.link.enumNext
  let d := m.dev.onLink (fun l => { l with enumPort := 0, last := next - 1 })
  if d.boot.role = 2 then { m with dev := d.queueMsg 0 d.link.enumFrom d.deviceId 3 (leBytes 2 next) }
  else
    let left := d.leftOut
    let d1 := d.onLink (fun l => { l with unassigned := left, enumCmd := none,
                                          workers := l.workers.map (fun w => { w with last := lastOf l.workers w next }) })
    match d.link.enumCmd with
    | none => { m with dev := d1 }
    | some (sq, cid) =>
      match d1.cmd sq cid with
      | none => { m with dev := d1 }
      | some c =>
        let out := d1.link.entries (next - 1)
        if m.mem.dataOk c out.length then
          let mem := m.mem.dataOut c out
          { dev := d1.complete sq cid (if left = 0 then Status.ok else Status.okPartial) (d1.link.workers.length + 1), mem := mem }
        else { m with dev := d1.complete sq cid Status.invalidField 0 { field := 24 } }

/-- Handle the next down port, or finish. -/
def Mach.enumGo (m : Mach) (from_ : Nat) : Mach :=
  match m.dev.enumNextPort from_ with
  | some d => { m with dev := d }
  | none => m.enumFinish

/-- CONSTELLATION_ENUM (R443, R523, R524). -/
def execConstellationEnum (sq cid : Nat) (s : State) : Host.Outcome State Fault Refusal :=
  live (runCmd sq cid 0x28 (fun c m =>
    if m.dev.anyCapture || m.dev.link.workers.any (fun w => w.reachable && decide (0 < w.armed)) then
      m.deny c 13 noStream
    else
      let d := (m.dev.onLink (fun l => { l with enumerated := true, id := 0, depth := 0, enumNext := 1, workers := [], relays := [], enumCmd := some (sq, cid) })).keepRunning c
      let d1 := d.downPorts.foldl (fun d p => d.onPort p (fun q => { q with subEnum := false, enumAt := 0 })) d
      Mach.enumGo { m with dev := d1 } 0)) s

/-- ENUM: a worker takes BASE as its ID, sends its entry and enumerates its down ports (R523, R524). -/
def execEnum (p : Nat) (s : State) : Host.Outcome State Fault Refusal :=
  live (fun m =>
    match takeMsg p 2 m.dev.link.inbox with
    | none => m
    | some (x, r) =>
      if m.dev.boot.role ≠ 2 ∨ p ≠ 0 then { m with dev := m.dev.onLink (fun l => { l with inbox := r }) }
      else
        let base := rd x.body 0 2
        let depth := rd x.body 2 1
        let d := m.dev.onLink (fun l => { l with inbox := r, enumerated := true, id := base, last := base, depth := depth,
                                                 enumFrom := x.src, enumNext := base + 1 })
        let d1 := d.downPorts.foldl (fun d p => d.onPort p (fun q => { q with subEnum := false, enumAt := 0 })) d
        let d2 := d1.sendMsg 0 4 (enumEntry base x.src (d1.port 0).peerPort depth (slice uidBytes 0 8))
        Mach.enumGo { m with dev := d2 } 1) s

/-- ENUM_DONE: the next free ID returns and the next port is handled (R523). -/
def execEnumDone (p : Nat) (s : State) : Host.Outcome State Fault Refusal :=
  live (fun m =>
    match takeMsg p 3 m.dev.link.inbox with
    | none => m
    | some (x, r) =>
      let d := m.dev.onLink (fun l => { l with inbox := r })
      if d.link.enumPort ≠ p + 1 then { m with dev := d }
      else
        let next := rd x.body 0 2
        let base := d.link.enumNext
        let d1 := (d.onLink (fun l => { l with enumNext := next })).onPort p (fun q =>
          { q with enumAt := 0, subId := base, subLast := next - 1, subEnum := decide (base < next), peerDev := base, peerEnum := true })
        Mach.enumGo { m with dev := d1 } (p + 1)) s

/-- ENUM_ENTRY: the manager records a worker's entry (R523). -/
def execEnumEntry (p : Nat) (s : State) : Host.Outcome State Fault Refusal :=
  liveDev (onMsg p 4 (fun x d => onlyIf (decide (d.boot.role = 1)) (fun d =>
    let id := rd x.body 0 2
    let w : Worker := { id := id, parent := rd x.body 2 2, parentPort := rd x.body 4 1, depth := rd x.body 5 1, uid := slice x.body 8 8 }
    d.onLink (fun l => { l with workers := l.workers.filter (fun v => decide (v.id ≠ id)) ++ [w] })) d)) s

/-- ENUM_TIMEOUT: no ENUM_DONE within 100 ms: the port counts as not UP, and the entries that came through it fall (R523). -/
def execEnumTimeout (p : Nat) (s : State) : Host.Outcome State Fault Refusal :=
  live (fun m => onlyIf (decide (m.dev.link.enumPort = p + 1)) (fun m =>
    let base := m.dev.link.enumNext
    let d := (m.dev.advanceTo (100000000 + ((m.dev.port p).enumAt - 1))).onPort p (fun q => { q with enumAt := 0, subEnum := false })
    let d1 := d.onLink (fun l => { l with workers := l.workers.filter (fun w => decide (w.id < base)) })
    Mach.enumGo { m with dev := d1 } (p + 1)) m) s

/-- Ask the manager for a relay rate (R528). -/
def Dev.askRelay (d : Dev) (e : Nat) (en : Bool) (rate : Nat) : Dev :=
  d.sendMsg 0 0x0F (leBytes 1 e ++ leBytes 1 (b2n en) ++ leBytes 4 rate)

/-- RATE of LNK_RELAY `e`. -/
def Dev.relayRate (d : Dev) (e : Nat) : Nat := fld (d.reg 0x22 (0x820 + 4 * e)) 0 25

/-- Whether LNK_RELAY `e` is enabled. -/
def Dev.relayOn (d : Dev) (e : Nat) : Bool := bit (d.reg 0x22 (0x820 + 4 * e)).toNat 31

/-- What a worker does at readmission: its STATE, its relay requests, and a FIRST that was lost (R528, R537, R541). -/
def Dev.readmitted (d : Dev) : Dev :=
  let d1 := d.sendState
  let d2 := [0, 1].foldl (fun d e => if d.relayOn e then d.askRelay e true (d.relayRate e) else d) d1
  match d2.link.firstLost with
  | some b => (d2.sendMsg 0 0x0C b).onLink (fun l => { l with firstLost := none })
  | none => d2

/-- REASSIGN: a worker whose number matches takes its former ID, LAST and depth (R525). -/
def execReassign (p : Nat) (s : State) : Host.Outcome State Fault Refusal :=
  liveDev (onMsg p 5 (fun x d => onlyIf (decide (d.boot.role = 2) && decide (slice x.body 5 8 = slice uidBytes 0 8)) (fun d =>
    let id := rd x.body 0 2
    let last := rd x.body 2 2
    let d1 := d.onLink (fun l => { l with enumerated := true, id := id, last := last, depth := rd x.body 4 1 })
    let d2 := d1.downPorts.foldl (fun d p => d.onPort p (fun q =>
      if q.peerEnum && !q.subEnum && decide (id < q.peerDev) && decide (q.peerDev ≤ last) then { q with subEnum := true, subId := q.peerDev, subLast := q.peerDev } else q)) d1
    d2.readmitted) d)) s

/-! ### State, severities and faults (R537, R539 to R541) -/

/-- STATE: the manager records a worker's count (R537). -/
def execState (p : Nat) (s : State) : Host.Outcome State Fault Refusal :=
  liveDev (onMsg p 7 (fun x d =>
    d.onLink (fun l => { l with workers := l.workers.map (fun w =>
      if w.id = x.src then { w with armed := rd x.body 0 1, tickStatus := rd x.body 1 1 } else w) }))) s

/-- The severity exchange of a command is over: LINK_DOWN for a named worker that did not answer, or the count of workers
not reached (R443, R539). -/
def Dev.severityEnd (d : Dev) : Dev :=
  match d.link.sevCmd with
  | none => d
  | some (sq, cid) =>
    let silent := (d.link.workers.filter (fun w => w.sevWait)).length
    let n := silent + d.link.sevMissed
    let d1 := d.onLink (fun l => { l with sevCmd := none, sevMissed := 0, workers := l.workers.map (fun w => { w with sevWait := false }) })
    if d.link.sevTarget = 0xFFF then d1.complete sq cid (if n = 0 then Status.ok else Status.okPartial) n
    else d1.complete sq cid (if n = 0 then Status.ok else Status.linkDown)

/-- CONSTELLATION_SEVERITY (R443, R539). -/
def execConstellationSeverity (sq cid : Nat) (s : State) : Host.Outcome State Fault Refusal :=
  live (runCmd sq cid 0x29 (fun c m =>
    let data := (m.mem.dataIn c 600)
    let table := data.map (fun b => b.toNat)
    if c.dataLen ≠ 600 ∨ !m.mem.dataOk c 600 then m.refuse c 24
    else if table.any (fun v => decide (3 < v)) then m.refuse c 16
    else if 0xFFF < c.target then m.refuse c 4
    else if c.target = 0 then
      Mach.complete { m with dev := m.dev.onFlt (fun f => { f with severity := some table }) } c Status.ok
    else
      let dests := m.dev.link.workers.filter (fun w => decide (c.target = 0xFFF) || decide (w.id = c.target))
      let near := dests.filter (fun w => w.reachable)
      let token := m.dev.link.sevToken
      let missed := dests.length - near.length + (if c.target ≠ 0xFFF ∧ dests.isEmpty then 1 else 0)
      let mark : Worker → Worker := fun w =>
        if dests.any (fun t => decide (t.id = w.id)) then { w with sev := some table, sevWait := w.reachable } else w
      let d := m.dev.onLink (fun l => { l with sevCmd := some (sq, cid), sevAt := m.dev.clk, sevTarget := c.target,
                                               sevToken := (token + 1) % 0xFFFF, sevMissed := missed,
                                               workers := l.workers.map mark })
      let d1 := if c.target = 0xFFF then d.broadcast 0x0A (leBytes 2 token ++ data) else if near.isEmpty then d else d.sendSeverity c.target token table
      let d2 := d1.keepRunning c
      { m with dev := if near.isEmpty then d2.severityEnd else d2 })) s

/-- SEVERITY: a device replaces its whole table and answers (R539, R547). -/
def execSeverity (p : Nat) (s : State) : Host.Outcome State Fault Refusal :=
  liveDev (onMsg p 0x0A (fun x d =>
    let table := (slice x.body 2 600).map (fun b => b.toNat % 4)
    (d.onFlt (fun f => { f with severity := some table })).sendMsg 0 0x0B (slice x.body 0 2))) s

/-- SEVERITY_ACK: the manager records the answer; with the last one the command completes (R539). -/
def execSeverityAck (p : Nat) (s : State) : Host.Outcome State Fault Refusal :=
  liveDev (onMsg p 0x0B (fun x d =>
    if d.link.sevCmd.isNone ∨ rd x.body 0 2 = 0xFFFF ∨ (rd x.body 0 2 + 1) % 0xFFFF ≠ d.link.sevToken then d
    else
      let d1 := d.onLink (fun l => { l with workers := l.workers.map (fun w => if w.id = x.src then { w with sevWait := false } else w) })
      if d1.link.workers.any (fun w => w.sevWait) then d1 else d1.severityEnd)) s

/-- SEVERITY_TIMEOUT: a worker that has not answered within 10 ms counts as not reached (R539). -/
def execSeverityTimeout (s : State) : Host.Outcome State Fault Refusal :=
  liveDev (fun d => onlyIf d.link.sevCmd.isSome (fun d => (d.advanceTo (10000000 + d.link.sevAt)).severityEnd) d) s

/-- FAULT: the manager records a worker's fault with the worker's stamp, posts its event, and collects the first-fault
region on FIRST (R540, R541). -/
def execFault (p : Nat) (s : State) : Host.Outcome State Fault Refusal :=
  liveDev (onMsg p 0x0C (fun x d => onlyIf (decide (d.boot.role = 1)) (fun d =>
    let src := rd x.body 16 2
    let sev := rd x.body 18 1
    let d1 := d.bbxPut .main (bbxBody (slice x.body 0 16) 1 sev src 0 (leBytes 4 (min 15 (rd x.body 20 2)) ++ leBytes 1 (fixedClass src)))
    let d2 := if sev = 2 then d1.postEvent 0x02 1 src else if sev = 3 then d1.postEvent 0x02 2 src else d1
    if rd x.body 19 1 % 2 = 1 then
      (d2.sendMsg x.src 0x0D (leBytes 2 d2.link.token)).onLink (fun l => { l with token := (l.token + 1) % 65536 })
    else d2) d)) s

/-- Cut entries into FF_DATA bodies of at most 15 (R541, R542). -/
def ffBodies (token : List Byte) : Nat → List (List Byte) → List (List Byte)
  | 0, _ => []
  | k + 1, l => if l.isEmpty then [] else
      (token ++ leBytes 1 (min 15 l.length) ++ (l.take 15).flatten) :: ffBodies token k (l.drop 15)

/-- FF_READ: a worker returns its first-fault entries (R541). -/
def execFfRead (p : Nat) (s : State) : Host.Outcome State Fault Refusal :=
  live (fun m =>
    match takeMsg p 0x0D m.dev.link.inbox with
    | none => m
    | some (x, r) =>
      let d := m.dev.onLink (fun l => { l with inbox := r })
      let es := (List.range (min 256 d.bbx.firstNo)).map (fun i => m.mem.entry (64 + i))
      { m with dev := (ffBodies (slice x.body 0 2) 18 es).foldl (fun d b => d.sendMsg 0 0x0E b) d }) s

/-- Insert an entry by its stamp, earlier stamps first (R13). -/
def insertByStamp (e : List Byte) : List (List Byte) → List (List Byte)
  | [] => [e]
  | x :: r => if rd e 0 16 < rd x 0 16 then e :: x :: r else x :: insertByStamp e r

/-- FF_DATA: the manager copies the entries into its main ring in stamp order, each with the worker's stamp (R541). -/
def execFfData (p : Nat) (s : State) : Host.Outcome State Fault Refusal :=
  liveDev (onMsg p 0x0E (fun x d =>
    let n := min 15 (rd x.body 2 1)
    let es := (List.range n).foldl (fun l i => insertByStamp (slice x.body (3 + 64 * i) 64) l) []
    es.foldl (fun d e => d.bbxPut .main (e.take 56)) d)) s

/-! ### Relays (R527, R528) -/

/-- A write of LNK_RELAY `e` (R528): EN = 1 asks the manager and waits for its answer, with the command that wrote it if
there is one; EN = 0 releases the rate. The flag says whether the write goes on waiting. -/
def Dev.relayWrite (d : Dev) (e v : Nat) (c : Option (Nat × Nat)) : Bool × Dev :=
  let off := 0x820 + 4 * e
  if bit v 31 then
    if !d.link.enumerated || !(d.port 0).carries then
      (false, withSome c (fun c d => d.complete c.1 c.2 Status.linkDown) d)
    else
      let d1 := d.setReg 0x22 off (word (v % 2 ^ 25))
      let d2 := d1.askRelay e true (v % 2 ^ 25)
      let w := match c with
        | some (sq, cid) => (e, sq, cid)
        | none => (e, 0, 2 ^ 32)
      (true, d2.onLink (fun l => { l with relayWait := l.relayWait.filter (fun y => decide (y.1 ≠ e)) ++ [w] }))
  else
    let d1 := d.setReg 0x22 off (word (v % 2 ^ 25))
    (false, d1.askRelay e false (v % 2 ^ 25))

/-- RELAY_ENABLE: a write of LNK_RELAY outside a command (R528). -/
def execRelayEnable (e v : Nat) (s : State) : Host.Outcome State Fault Refusal :=
  liveDev (fun d => onlyIf (decide (e < 2) && decide (d.boot.role = 2)) (fun d => (d.relayWrite e (v % 2 ^ 32) none).2) d) s

/-- Workers on the path from the manager down to `id`, `id` among them: each is the top of a link of the path. -/
def Links.path (l : Links) (id : Nat) : List Nat := (l.workers.filter (fun w => decide (w.id ≤ id) && decide (id ≤ w.last))).map (fun w => w.id)

/-- Sum of the admitted rates that cross the link above worker `id`, kbit/s. -/
def Links.rateAbove (l : Links) (id : Nat) : Nat := sumBy (fun r => r.rate) (l.relays.filter (fun r => (l.path r.dev).contains id))

/-- RELAY_ADMIT: the manager grants a rate only within 10.0 GB/s on every link of the path and 0.8 of the port's speed
(R528). -/
def execRelayAdmit (p : Nat) (s : State) : Host.Outcome State Fault Refusal :=
  liveDev (onMsg p 0x0F (fun x d => onlyIf (decide (d.boot.role = 1)) (fun d =>
    let e := rd x.body 0 1
    let en := decide (rd x.body 1 1 = 1)
    let rate := rd x.body 2 4
    let others := d.link.relays.filter (fun r => !(decide (r.dev = x.src) && decide (r.port = e)))
    let l1 : Links := { d.link with relays := others ++ [{ dev := x.src, port := e, rate := rate }] }
    let speed := if bit (d.reg 0x21 (0x100 * e)).toNat 29 then 25000000 else 10000000
    let fits := (l1.path x.src).all (fun w => decide (l1.rateAbove w ≤ 80000000)) &&
      decide (10 * sumBy (fun r => r.rate) (l1.relays.filter (fun r => decide (r.port = e))) ≤ 8 * speed) && decide (e < 2)
    let ok := !en || fits
    let d1 := d.onLink (fun l => { l with relays := if en && fits then l1.relays else others })
    d1.sendMsg x.src 0x10 (leBytes 1 e ++ leBytes 2 (if ok then Status.ok else Status.admissionDenied))) d)) s

/-- RELAY_GRANT: the write completes; a refusal at readmission clears EN and is recorded (R528). -/
def execRelayGrant (p : Nat) (s : State) : Host.Outcome State Fault Refusal :=
  liveDev (onMsg p 0x10 (fun x d =>
    let e := rd x.body 0 1
    let granted := decide (rd x.body 1 2 = 0)
    let off := 0x820 + 4 * e
    match d.link.relayWait.find? (fun w => decide (w.1 = e)) with
    | some (_, sq, cid) =>
      let d1 := d.onLink (fun l => { l with relayWait := l.relayWait.filter (fun w => decide (w.1 ≠ e)) })
      let d2 := d1.setBit 0x22 off 31 granted
      let more := d2.link.relayWait.any (fun w => decide (w.2 = (sq, cid)))
      if granted then (if more then d2 else d2.complete sq cid Status.ok) else (d2.noteDenied 13 noStream 0 0).complete sq cid Status.admissionDenied
    | none =>
      if granted || !d.relayOn e then d
      else (d.setBit 0x22 off 31 false).record .main 11 0xFF d.deviceId 2)) s

/-! ### Time alignment (R529, R530) -/

/-- A TIME flit: what it is (0 SYNC, 1 REQ, 2 RESP) and the time it carries. -/
def Dev.timeFlit (d : Dev) (p kind t : Nat) : Dev :=
  d.wireFlit p { type := 3, cls := 0, last := true, seq := (4095 + (d.port p).txSeq) % 4096, dest := 0, src := d.deviceId, target := 0,
                 payload := leBytes 8 kind ++ leBytes 8 t }

/-- TIME_FLIT_SEND: every 1 ms the upper end of an UP link sends SYNC with t1 (R529). -/
def execTimeFlitSend (p : Nat) (s : State) : Host.Outcome State Fault Refusal :=
  liveDev (fun d => onlyIf (d.downPorts.contains p && decide ((d.port p).state = .up)) (fun d =>
    let d1 := (d.advanceTo (1000000 + (d.port p).timeAt))
    (d1.onPort p (fun q => { q with timeAt := d1.clk })).timeFlit p 0 d1.sdt) d) s

/-- SYNC: the lower end records t2 and sends REQ with t3 (R529). -/
def execSync (p : Nat) (s : State) : Host.Outcome State Fault Refusal :=
  liveDev (onMsg p 0x100 (fun x d => onlyIf (decide (d.boot.role = 2 ∧ p = 0)) (fun d =>
    (d.onPort p (fun q => { q with t1 := rd x.body 8 8, t2 := x.at_, t3 := d.sdt })).timeFlit p 1 d.sdt) d)) s

/-- REQ: the upper end records t4 and returns RESP with it (R529). -/
def execReq (p : Nat) (s : State) : Host.Outcome State Fault Refusal :=
  liveDev (onMsg p 0x101 (fun x d => onlyIf (d.downPorts.contains p) (fun d => d.timeFlit p 2 x.at_) d)) s

/-- A signed dword as an integer. -/
def Word.int (w : Word) : Int := w.toInt

/-- RESP: the lower end takes its offset and feeds the servo under DISCIPLINE 4 (R529). -/
def execResp (p : Nat) (s : State) : Host.Outcome State Fault Refusal :=
  liveDev (onMsg p 0x102 (fun x d => onlyIf (decide (d.boot.role = 2 ∧ p = 0)) (fun d =>
    let q := d.port p
    let t4 : Int := rd x.body 8 8
    let raw : Int := 10 ^ 9 * (((q.t2 : Int) - q.t1) - (t4 - q.t3)) / 2 ^ 33
    let off := raw - Word.int (d.reg 0x22 (0x100 * p + 0x18))
    let d1 := d.onLink (fun l => { l with offset := off, offsetMax := max l.offsetMax off.natAbs })
    if d.discipline = 4 then d1.measure off else d1) d)) s

end Sys2Proof.Machine
end

