-- ==== Sys2Proof/Machine/Pools.lean ====
section
/-! DEFINITION. Buffer pools and the leak auditor (R274 to R284, R460): requests, frees, multicast copies, epochs, reclaim. -/

namespace Sys2Proof.Machine
open Sys2Proof

/-- Offset of a counter in pool record p (R286). -/
def poolStat (p c : Nat) : Nat := 0x8800 + 64 * p + c

/-- The smallest index from `k` on that a table does not list. -/
def firstFree {α : Type} : Tbl α → Nat → Nat
  | [], k => k
  | (a, _) :: r, k => if a = k then firstFree r (k + 1) else k

/-- The pool that serves a size (R275). -/
def poolFor (size : Nat) : Option Nat :=
  if size ≤ 256 then some 0 else if size ≤ 4096 then some 1 else if size ≤ 65536 then some 2
  else if size ≤ 1048576 then some 3 else none

/-- Record an error of a pool: its bit, the requester and the index (R278, R285). -/
def Dev.poolError (d : Dev) (p code port owner idx : Nat) : Dev :=
  let bitNo := match code with
    | 0 => 0
    | 1 => 1
    | 2 => 2
    | _ => 3
  (d.setBit 0x1B (0x40 * p + 0x14) bitNo true).onPool p (fun q => { q with lastCode := code, lastPort := port % 128, lastTag := owner % 16384, lastPtr := idx })

/-- Value of POOL_LAST_ERR. -/
def Dev.poolLastErr (d : Dev) (p : Nat) : Nat :=
  let q := d.poolAt p
  2 ^ 28 * q.lastCode + 2 ^ 21 * q.lastPort + q.lastTag

/-- A request for one buffer of pool `p`: the index granted, or none for POOL_EMPTY (R276, R277). -/
def Dev.poolGrant (d : Dev) (p cls owner port refs : Nat) : Option Nat × Dev :=
  let free := d.poolFree p
  let res := (d.poolAt p).reserve
  let grant : Option Nat × Dev :=
    let i := firstFree (d.poolAt p).alloc 0
    let d1 := d.setBuf p i (some { owner := owner % 16384, cls := cls, refs := refs, touched := d.pools.epoch })
    let d2 := d1.onPools (fun q => { q with ptr := modAt q.ptr p (fun _ => (port + 1) % 128) })
    let d3 := d2.count (poolStat p 0x10)
    let d4 := if cls = 0 ∧ free ≤ res then d3.count (poolStat p 0x20) else d3
    (some i, d4.countMax (poolStat p 0x08) ((d4.poolAt p).alloc.length))
  if cls = 0 then
    if 0 < free then grant
    else (none, ((d.poolError p 3 port owner (d.drawn % 2 ^ 21)).afterDraw).raise (421 + p) port)
  else if res + 1 ≤ free then grant
  else (none, d.count (poolStat p 0x18))

/-- POOL_REQUEST: a request names a size, a class, an owner tag and a fabric port; `dests` is the number of destinations of
a multicast buffer, 0 for a buffer with one owner (R275 to R277, R279). -/
def execPoolRequest (size cls owner port dests : Nat) (s : State) : Host.Outcome State Fault Refusal :=
  liveDev (fun d => onlyIf (d.pools.ready && decide (cls < 4) && decide (dests ≤ 8)) (fun d =>
    match poolFor size with
    | none => d
    | some p => (d.poolGrant p cls owner port dests).2) d) s

/-- Pool and buffer a pointer names, where it is a buffer's first byte (R278). -/
def Dev.bufAt (d : Dev) (a : Nat) : Option (Nat × Nat) :=
  (List.range 4).findSome? (fun p =>
    let base := (d.poolAt p).base
    if d.pools.ready ∧ base ≤ a ∧ a < base + poolSize p * poolCount p ∧ (a - base) % poolSize p = 0 then some (p, (a - base) / poolSize p)
    else none)

/-- Pool and buffer that an address lies in. -/
def Dev.bufOver (d : Dev) (a : Nat) : Option (Nat × Nat) :=
  (List.range 4).findSome? (fun p =>
    let base := (d.poolAt p).base
    if d.pools.ready ∧ base ≤ a ∧ a < base + poolSize p * poolCount p then some (p, (a - base) / poolSize p) else none)

/-- The pool that a bad pointer is charged to: the region it lies in, else one the spec does not name. -/
def Dev.badPool (d : Dev) (a : Nat) : Nat × Dev :=
  match d.bufOver a with
  | some (p, _) => (p, d)
  | none => (d.drawn % 4, d.afterDraw)

/-- A free or reclaim names a bad pointer (R278). -/
def Dev.badPointer (d : Dev) (a owner port : Nat) : Dev :=
  let (p, d0) := d.badPool a
  let d1 := (d0.poolError p 2 port owner 0x1FFFFF).count (poolStat p 0x38)
  d1.raise (417 + p) (d1.poolLastErr p)

/-- POOL_FREE: the free of a pointer by a context through a fabric port is checked and applied, or rejected (R278). -/
def execPoolFree (ptr owner port : Nat) (s : State) : Host.Outcome State Fault Refusal :=
  liveDev (fun d => onlyIf d.pools.ready (fun d =>
    match d.bufAt ptr with
    | none => d.badPointer ptr owner port
    | some (p, i) =>
      match d.buf p i with
      | none =>
        let d1 := (d.poolError p 0 port owner i).count (poolStat p 0x28)
        d1.raise (417 + p) (d1.poolLastErr p)
      | some b =>
        if b.owner = owner then d.setBuf p i none
        else
          let d1 := (d.poolError p 1 port owner i).count (poolStat p 0x30)
          d1.raise (417 + p) (d1.poolLastErr p)) d) s

/-- A fabric transfer touches the buffer that its address lies in (R282). -/
def Dev.touch (d : Dev) (a : Nat) : Dev :=
  match d.bufOver a with
  | none => d
  | some (p, i) =>
    match d.buf p i with
    | none => d
    | some b => d.setBuf p i (some { b with touched := d.pools.epoch, reported := false })

/-- A destination delivered or dropped its copy: the count falls and the buffer frees at 0 with no owner check (R279). -/
def Dev.copyDone (d : Dev) (p i : Nat) : Dev :=
  match d.buf p i with
  | none => d
  | some b => if b.refs ≤ 1 then d.setBuf p i none else d.setBuf p i (some { b with refs := b.refs - 1 })

/-- Report one buffer to the audit log page (R283, R433). -/
def Dev.auditReport (d : Dev) (p i : Nat) (b : Buf) : Dev :=
  let r := d.stamp ++ leBytes 1 p ++ [0] ++ leBytes 2 b.owner ++ leBytes 4 i ++ leBytes 4 d.pools.epoch ++ zeros 4
  let d1 := (d.onHost (fun h => { h with logAudit := h.logAudit.put 4096 r })).stamped
  (d1.bump 0x1B (0x40 * p + 0x20)).setBuf p i (some { b with reported := true })

/-- AUDIT_EPOCH_END: at 4,096 ticks or 10 s, buffers untouched in this epoch and the one before are reported once (R282,
R283). -/
def execAuditEpochEnd (s : State) : Host.Outcome State Fault Refusal :=
  liveDev (fun d => onlyIf d.pools.ready (fun d =>
    let d0 := if 4096 ≤ d.pools.epochTicks then d else d.advanceTo (10000000000 + d.pools.epochFrom)
    let stale : List (Nat × Nat × Buf) := ((List.range 4).map (fun p => (d0.poolAt p).alloc.filterMap (fun e => match e.2 with
      | some b => if b.touched + 1 < d0.pools.epoch ∧ !b.reported then some (p, e.1, b) else none
      | none => none))).flatten
    let d1 := stale.foldl (fun d x => d.auditReport x.1 x.2.1 x.2.2) d0
    let d2 := if stale.isEmpty then d1 else d1.postEvent 0x05 0 d1.pools.epoch
    d2.onPools (fun q => { q with epoch := (q.epoch + 1) % 2 ^ 32, epochTicks := 0, epochFrom := d2.clk })) d) s

/-- BUF_RECLAIM (R284, R460). -/
def execBufReclaim (sq cid : Nat) (s : State) : Host.Outcome State Fault Refusal :=
  live (runCmd sq cid 0x69 (fun c m =>
    let a := c.dw64 0
    if 16383 < c.target then m.refuse c 4
    else
      match m.dev.bufAt a with
      | none => Mach.complete { m with dev := m.dev.badPointer a c.target 118 } c Status.poolBadPointer
      | some (p, i) =>
        match m.dev.buf p i with
        | none => m.complete c Status.poolNotOwner
        | some b =>
          if b.owner ≠ c.target then m.complete c Status.poolNotOwner
          else if !b.reported then m.complete c Status.busyQuiesce
          else Mach.complete { m with dev := m.dev.setBuf p i none } c Status.ok)) s

end Sys2Proof.Machine
end

