-- ==== Sys2Proof/Machine/Prism.lean ====
section
/-! DEFINITION. The sensor ports and the prism (R40 to R69): lanes, groups, lines, rows, staging and filling. -/

namespace Sys2Proof.Machine
open Sys2Proof

/-! ### Configuration -/

/-- MODE of PRM_MODE: 0 off, 1 SLVS, 2 CSI-2 (R40). -/
def Dev.prmMode (d : Dev) : Nat := fld (d.reg 0x10 0x000) 0 2

/-- SLVS group count (R40). -/
def Dev.prmGroups (d : Dev) : Nat := 2 ^ fld (d.reg 0x10 0x000) 4 2

/-- Whether lane `i` is enabled in effect: its mask bit in a port mode, and its quarter powered (R41, R69). -/
def Dev.laneOn (d : Dev) (i : Nat) : Bool :=
  decide (d.prmMode ≠ 0) && decide (i < 64) && bit (d.reg64 0x10 0x008) i && d.powered (28 + i / 16)

/-- First lane and number of lanes of input `g` (R41). -/
def Dev.inputSpan (d : Dev) (g : Nat) : Nat × Nat :=
  if d.prmMode = 1 then (if g < d.prmGroups then (64 * g / d.prmGroups, 64 / d.prmGroups) else (0, 0))
  else if d.prmMode = 2 then (if g < 4 then (16 * g, 16) else (0, 0))
  else (0, 0)

/-- Enabled lanes of input `g`, in order. -/
def Dev.inputLanes (d : Dev) (g : Nat) : List Nat :=
  ((List.range (d.inputSpan g).2).map (fun i => (d.inputSpan g).1 + i)).filter d.laneOn

/-- Group of a lane in SLVS mode (R41). -/
def Dev.groupOf (d : Dev) (i : Nat) : Nat := i * d.prmGroups / 64

/-- CFA pattern and wire depth of input `g` (R55). -/
def Dev.inFmt (d : Dev) (g : Nat) : Nat × Nat :=
  let w := d.reg 0x10 (0x020 + 4 * g)
  (fld w 8 3, fld w 0 5)

/-- Lane `i`. -/
def Dev.lane (d : Dev) (i : Nat) : Lane := d.prism.lanes.getD i {}

/-- Group `g`. -/
def Dev.group (d : Dev) (g : Nat) : Group := d.prism.groups.getD g {}

def Dev.onLane (d : Dev) (i : Nat) (f : Lane → Lane) : Dev := d.onPrism (fun p => { p with lanes := modAt p.lanes i f })

def Dev.onGroup (d : Dev) (g : Nat) (f : Group → Group) : Dev := d.onPrism (fun p => { p with groups := modAt p.groups g f })

/-- Whether lane `i` reads locked in PRM_LANE_LOCK: locked and, for SLVS, its group aligned (R69). -/
def Dev.laneLocked (d : Dev) (i : Nat) : Bool :=
  d.laneOn i && (decide (d.prmMode = 2) || ((d.lane i).locked && (d.group (d.groupOf i)).aligned))

/-- Computed registers of feature 0x10 (R69). -/
def Dev.prmWord (d : Dev) (off : Nat) : Option Word :=
  if off = 0x010 ∨ off = 0x014 then
    let base := if off = 0x010 then 0 else 32
    some (word (flagsAt 0 ((List.range 32).map (fun i => d.laneLocked (base + i)))))
  else if 0x0E0 ≤ off ∧ off < 0x0F0 then
    let w := d.wports.getD ((off - 0x0E0) / 4) {}
    some (word (2 ^ 31 * b2n w.panic + w.level))
  else none

/-- A sensor-side event: its counter and bit, and its fault with the input and a detail (R68, R545). -/
def Dev.prmEvent (d : Dev) (j input detail : Nat) (n : Nat := 1) : Dev :=
  ((d.bump 0x10 (0x080 + 4 * j) n).setBit 0x10 0x040 j true).raise j (2 ^ 24 * input + detail % 2 ^ 24)

/-! ### Lane blocks (R43 to R49) -/

/-- Descramble 32 payload bits, the first sent being bit 0, from the last 23 scrambled bits (R43): the bits and the new
history. -/
def descramble (payload hist : Nat) : Nat × Nat :=
  (List.range 32).foldl (fun (a : Nat × Nat) i =>
    let b := bit payload i
    let o := (b != bit a.2 17) != bit a.2 22
    (a.1 + b2n o * 2 ^ i, (2 * a.2 + b2n b) % 2 ^ 23)) (0, hist)

/-- Lock loss of a lane or skew of a group: what was received is dropped and the group is no longer aligned (R44, R48). -/
def Dev.misalign (d : Dev) (g : Nat) : Dev :=
  let d1 := (d.inputLanes g).foldl (fun d i => d.onLane i (fun l => { l with queue := [], data := [] })) d
  let d2 := d1.onGroup g (fun x => { x with aligned := false })
  d2.onPrism (fun p => { p with sources := p.sources.map (fun e => if e.1 / 32 = g then (e.1, { e.2 with line := none }) else e) })

/-- Track the lock of a lane by the validity of a header (R44). -/
def Dev.laneHeader (d : Dev) (i : Nat) (valid : Bool) : Dev :=
  let l := d.lane i
  if l.locked then
    let seen := (valid :: l.seen).take 64
    if 16 ≤ (seen.filter (fun v => !v)).length then
      let g := d.groupOf i
      ((d.onLane i (fun l => { l with locked := false, good := 0, seen := [] })).misalign g).prmEvent 1 g i
    else d.onLane i (fun l => { l with seen := seen })
  else
    let good := if valid then l.good + 1 else 0
    d.onLane i (fun l => { l with good := good, locked := decide (64 ≤ good), seen := if 64 ≤ good then List.replicate 64 true else [] })

/-- What must agree in the control blocks of one block slot: every code, and the argument but for EOL and TRAIN (R45). -/
def LaneCtl.key (c : LaneCtl) : Nat × Nat := (c.code, if c.code = 0x55 then 0 else c.arg)

/-- Drop the head of a lane's queue. -/
def Dev.dropCtl (d : Dev) (i : Nat) : Dev := d.onLane i (fun l => { l with queue := l.queue.drop 1 })

/-- SKEW_ERR: the group does not align and must be trained (R48, R49). -/
def Dev.skewError (d : Dev) (g last : Nat) : Dev :=
  let d1 := (d.misalign g).onGroup g (fun x => { x with skewed := true })
  let d2 := (d.inputLanes g).foldl (fun d i => d.onLane i (fun l => { l with trained := false })) d1
  d2.prmEvent 2 g last

/-- Form messages of a group from the control blocks that every enabled lane has received (R48); those of different slots
are dropped, the earliest first. -/
def Dev.formMsgs (d : Dev) (g : Nat) : Nat → Dev
  | 0 => d
  | k + 1 =>
    let lanes := d.inputLanes g
    let heads : List (Nat × LaneCtl) := lanes.filterMap (fun i => ((d.lane i).queue.head?).map (fun c => (i, c)))
    if heads.length < lanes.length then d
    else
      match argMin (fun (e : Nat × LaneCtl) => e.2.slot) heads, argMax (fun (e : Nat × LaneCtl) => e.2.slot) heads with
      | some first, some last =>
        let same := heads.all (fun e => decide (e.2.key = first.2.key))
        if !same then (d.dropCtl first.1).formMsgs g k
        else if 8 < last.2.slot - first.2.slot ∧ (first.2.code = 0x33 ∨ first.2.code = 0x4B) then d.skewError g last.1
        else
          let msg : GroupMsg := { code := first.2.code, args := heads.map (fun e => e.2.arg), data := heads.map (fun e => e.2.data) }
          let d1 := lanes.foldl (fun d i => d.dropCtl i) d
          (d1.onGroup g (fun x => { x with aligned := true, inbox := x.inbox ++ [msg] })).formMsgs g k
      | _, _ => d

/-- A control block reaches lane `i` (R45, R48, R49). -/
def Dev.laneControl (d : Dev) (i slot code arg : Nat) : Dev :=
  let g := d.groupOf i
  let l := d.lane i
  let grp := d.group g
  let lanes := d.inputLanes g
  if code = 0x1E then d
  else if code = 0x2D then
    let d1 := d.onLane i (fun l => { l with trained := true, data := [] })
    if grp.skewed && lanes.all (fun j => (d1.lane j).trained) then d1.onGroup g (fun x => { x with skewed := false }) else d1
  else
    let clear := d.onLane i (fun l => { l with data := [] })
    let start := decide (code = 0x33 ∨ code = 0x4B)
    if !(lanes.all (fun j => (d.lane j).locked)) then clear
    else if !grp.aligned && (grp.skewed || (!start && decide (l.queue = []))) then clear
    else
      let c : LaneCtl := { code := code, arg := arg, slot := slot, data := l.data }
      (clear.onLane i (fun l => { l with queue := l.queue ++ [c] })).formMsgs g 64

/-- A 34-bit block of lane `i` in block time `slot` (R43 to R45). -/
def Dev.laneBlock (d : Dev) (i slot : Nat) (block : Nat) : Dev :=
  let header := block % 4
  let (p, hist) := descramble (block / 4 % 2 ^ 32) (d.lane i).scr
  let valid := decide (header = 1 ∨ header = 2)
  let d1 := (d.onLane i (fun l => { l with scr := hist })).laneHeader i valid
  let code := p % 256
  let known := [0x1E, 0x2D, 0x33, 0x4B, 0x55, 0x66].contains code
  if !valid || (decide (header = 2) && !known) then d1.prmEvent 0 (d.groupOf i) i
  else if !(d1.lane i).locked then d1
  else if header = 1 then d1.onLane i (fun l => { l with data := l.data ++ leBytes 4 p })
  else d1.laneControl i slot code (p / 256)

/-- LANE_BLOCK: lane `i` delivers the block of block time `slot`; a lane that is not enabled reads unlocked (R41, R43). -/
def execLaneBlock (i slot : Nat) (block : BitVec 34) (s : State) : Host.Outcome State Fault Refusal :=
  liveDev (fun d => onlyIf (decide (d.prmMode = 1) && d.laneOn i) (fun d => d.laneBlock i slot block.toNat) d) s

/-! ### Frames and rows (R57 to R61, R67) -/

/-- The capture streams that window input `g` on channel `vc`. -/
def Dev.onSource (d : Dev) (g vc : Nat) : List (Nat × Cap) := d.streams.filter (fun e => decide (e.2.input = g ∧ e.2.vc = vc))

/-- The frame whose capture window is open. -/
def Cap.current (c : Cap) (now : Nat) : Option Work := c.works.find? (fun w => decide (w.frame = now) && !w.closed)

/-- Change frame `n` of a stream. -/
def Dev.modWork (d : Dev) (s n : Nat) (f : Work → Work) : Dev :=
  d.modCap s (fun c => { c with works := modifyFirst (fun w => decide (w.frame = n)) f c.works })

/-- Frame `n` of a stream in work. -/
def Dev.work (d : Dev) (s n : Nat) : Option Work :=
  match d.cap s with
  | some c => c.works.find? (fun w => decide (w.frame = n))
  | none => none

/-- Change band `k` of tile `t`. -/
def Work.modBand (w : Work) (t k : Nat) (f : Band → Band) : Work :=
  { w with tiles := modAt w.tiles t (fun x => { x with bands := modAt x.bands k f }) }

def Dev.modBand (d : Dev) (s n t k : Nat) (f : Band → Band) : Dev := d.modWork s n (fun w => w.modBand t k f)

def Dev.modTile (d : Dev) (s n t : Nat) (f : Tile → Tile) : Dev :=
  d.modWork s n (fun w => { w with tiles := modAt w.tiles t f })

/-- Photosites per row of a tile. -/
def Work.line (w : Work) (t : Nat) : Nat := (w.tiles.getD t { engine := 0, width := 0, bands := [] }).width * compsOf w.cfa

def Work.tile (w : Work) (t : Nat) : Tile := w.tiles.getD t { engine := 0, width := 0, bands := [] }

def Work.band (w : Work) (t k : Nat) : Band := (w.tile t).bands.getD k {}

/-- Owner tag of a tile's buffers: its tile context (R444). -/
def Dev.tileCtx (d : Dev) (s t : Nat) : Nat :=
  match d.cap s with
  | none => 0
  | some c =>
    match d.ctxs.find? (fun e => match e.2 with
      | some x => decide (x.kind = .tile c.ctx t)
      | none => false) with
    | some e => e.1
    | none => c.ctx

/-- Bytes of a band and the buffers that take them (R64). -/
def Work.bandBytes (w : Work) (t k : Nat) : Nat := w.line t * 2 * (w.band t k).rows.length

/-- Take `k` buffers of pool 2 in class C0: those granted. -/
def Dev.grantMany (d : Dev) (owner port : Nat) : Nat → List Nat × Dev
  | 0 => ([], d)
  | k + 1 =>
    match d.poolGrant 2 0 owner port 0 with
    | (some i, d1) => let (l, d2) := d1.grantMany owner port k; (i :: l, d2)
    | (none, d1) => ([], d1)

/-- Free buffers of pool 2. -/
def Dev.freeMany (d : Dev) (l : List Nat) : Dev := l.foldl (fun d i => d.setBuf 2 i none) d

/-- Give band `k` its staging buffers, if it has none yet (R64); what the pool refuses is asked for again later (R277). -/
def Dev.stageBufs (d : Dev) (s n t k : Nat) : Dev :=
  match d.work s n with
  | none => d
  | some w =>
    let b := w.band t k
    let need := ceilDiv (w.bandBytes t k) 65536
    if need ≤ b.bufs.length ∨ b.released then d
    else
      let (l, d1) := d.grantMany (d.tileCtx s t) (32 + (w.tile t).engine / 6) (need - b.bufs.length)
      let got := b.bufs ++ l
      d1.modBand s n t k (fun b => { b with bufs := got })

/-- DRAM address of byte `o` of a list of pool 2 buffers. -/
def Dev.bufAddr (d : Dev) (bufs : List Nat) (o : Nat) : Option Nat :=
  (bufs[o / 65536]?).map (fun i => (d.poolAt 2).base + 65536 * i + o % 65536)

/-- Write bytes from offset `o` of a list of buffers, buffer by buffer. -/
def Mach.bufWrite (m : Mach) (bufs : List Nat) (o : Nat) (l : List Byte) : Nat → Mach
  | 0 => m
  | k + 1 =>
    if l.isEmpty then m
    else
      let n := min l.length (65536 - o % 65536)
      let m1 := match m.dev.bufAddr bufs o with
        | some a => m.dramWrite a (l.take n)
        | none => m
      m1.bufWrite bufs (o + n) (l.drop n) k

/-- Read bytes from offset `o` of a list of buffers; a missing buffer reads zeros. -/
def Mach.bufRead (m : Mach) (bufs : List Nat) (o len : Nat) : Nat → List Byte
  | 0 => []
  | k + 1 =>
    if len = 0 then []
    else
      let n := min len (65536 - o % 65536)
      let here := match m.dev.bufAddr bufs o with
        | some a => m.dramBytes a n
        | none => zeros n
      here ++ m.bufRead bufs (o + n) (len - n) k

/-- State of row `y` of a tile. -/
def Work.row (w : Work) (t y : Nat) : RowState := (w.band t (y / 32)).rows.getD (y % 32) .absent

def Dev.setRow (d : Dev) (s n t y : Nat) (r : RowState) : Dev :=
  d.modBand s n t (y / 32) (fun b => { b with rows := modAt b.rows (y % 32) (fun _ => r) })

/-- Rows of a frame. -/
def Work.height (w : Work) : Nat := sumBy (fun b => b.rows.length) (w.tile 0).bands

/-- Fill row `y` of a tile if it is bad and its source is there, then the rows that wait for it (R67). -/
def Mach.fillFrom (m : Mach) (s n t y : Nat) : Nat → Mach
  | 0 => m
  | k + 1 =>
    match m.dev.work s n with
    | none => m
    | some w =>
      let src := w.row t (y - 2)
      let ready := decide (y < 2) || decide (src = .whole) || decide (src = .filled)
      if w.height ≤ y ∨ w.row t y ≠ .bad ∨ !ready then m
      else
        let len := 2 * w.line t
        let bytes :=
          if y < 2 then
            let v := fld (m.dev.reg 0x10 0x030) 0 16 % 2 ^ w.depth
            ((List.range (w.line t)).map (fun _ => leBytes 2 v)).flatten
          else m.bufRead (w.band t ((y - 2) / 32)).bufs (len * ((y - 2) % 32)) len 16
        let d1 := m.dev.stageBufs s n t (y / 32)
        let bufs := match d1.work s n with
          | some w => (w.band t (y / 32)).bufs
          | none => []
        let m1 := Mach.bufWrite { m with dev := d1 } bufs (len * (y % 32)) bytes 16
        let d2 := (m1.dev.setRow s n t y .filled).modBand s n t (y / 32) (fun b => { b with filled := true })
        Mach.fillFrom { m1 with dev := d2 } s n t (y + 2) k

/-- A row of a tile cannot arrive whole: it is filled as soon as its source is there (R67). -/
def Mach.badRow (m : Mach) (s n t y : Nat) : Mach :=
  Mach.fillFrom { m with dev := m.dev.setRow s n t y .bad } s n t y 16384

/-- A row of every tile cannot arrive whole. -/
def Mach.badLine (m : Mach) (s n y tiles : Nat) : Mach :=
  (List.range tiles).foldl (fun m t => m.badRow s n t y) m

/-- A row of a tile is whole in DRAM: rows that copy it are filled (R67). -/
def Mach.rowWhole (m : Mach) (s n t y : Nat) : Mach :=
  Mach.fillFrom { m with dev := m.dev.setRow s n t y .whole } s n t (y + 2) 16384

/-! ### Lines (R58, R59) -/

/-- State of an input and channel. -/
def Dev.source (d : Dev) (g vc : Nat) : Source := Tbl.get (fun _ => {}) d.prism.sources (32 * g + vc)

def Dev.modSource (d : Dev) (g vc : Nat) (f : Source → Source) : Dev :=
  d.onPrism (fun p => { p with sources := Tbl.set (fun _ => {}) p.sources (32 * g + vc) (f (d.source g vc)) })

/-- The streams of an input with an open frame. -/
def Dev.openOn (d : Dev) (g vc : Nat) : List (Nat × Cap × Work) :=
  (d.onSource g vc).filterMap (fun e =>
    match e.2.current d.tick.now with
    | some w => if w.sof ∧ d.tick.begun then some (e.1, e.2, w) else none
    | none => none)

/-- An SOF on an input: it opens frame n of the streams there, or is SOF_EXTRA (R58). -/
def Dev.sofAt (d : Dev) (g vc counter : Nat) : Dev :=
  if (d.source g vc).sof then
    (d.modSource g vc (fun x => { x with discard := true, line := none })).prmEvent 7 g 0
  else
    let d1 := d.modSource g vc (fun x => { x with sof := true, open_ := true, discard := false, counter := counter, rows := 0, line := none })
    (d1.onSource g vc).foldl (fun d e =>
      match e.2.current d.tick.now with
      | some w => d.modWork e.1 w.frame (fun w => { w with sof := true, counter := counter })
      | none => d) d1

/-- Why row `y` of an input is not taken: discarded after a second SOF, or extra (R58, R59). -/
inductive RowFate where
  | taken | discarded | extra
  deriving DecidableEq, Repr

/-- The fate of row `y` as sent. -/
def Dev.rowFate (d : Dev) (g vc y : Nat) : RowFate :=
  let x := d.source g vc
  let open_ := d.openOn g vc
  if x.open_ && x.discard then .discarded
  else if !x.open_ || open_.isEmpty then .extra
  else if open_.all (fun e => decide (e.2.1.top + e.2.1.height ≤ y)) then .extra
  else .taken

/-- Window row of row `y` as sent in the first window of the input that holds it. -/
def Dev.windowRow (d : Dev) (g vc y : Nat) : Nat :=
  match (d.openOn g vc).find? (fun e => decide (e.2.1.top ≤ y ∧ y < e.2.1.top + e.2.1.height)) with
  | some e => y - e.2.1.top
  | none => y

/-- Cut a row of a window into its tile segments (R57, R62, R65). -/
def segments (s n y comps : Nat) (row : List Nat) : Nat → List Nat → List Segment
  | _, [] => []
  | t, w :: r =>
    { stream := s, frame := n, tile := t, row := y, bytes := ((row.take (w * comps)).map (leBytes 2)).flatten } ::
      segments s n y comps (row.drop (w * comps)) (t + 1) r

/-- A line of photosites is placed as row `y` of one stream's frame; `none` for a line that failed a check (R58, R68). -/
def Mach.placeRow (m : Mach) (s : Nat) (c : Cap) (w : Work) (y : Nat) (line : Option (List Nat)) : Mach :=
  if y < c.top ∨ c.top + c.height ≤ y then m
  else
    let r := y - c.top
    let comps := compsOf w.cfa
    if w.row 0 r ≠ .absent then m
    else
      match line with
      | none => m.badLine s w.frame r w.tiles.length
      | some l =>
        let row := (l.drop (c.left * comps)).take (c.width * comps)
        if row.length < c.width * comps then m.badLine s w.frame r w.tiles.length
        else
          let segs := segments s w.frame r comps row 0 c.tileW
          let d1 := segs.foldl (fun d g => d.setRow s w.frame g.tile r (.coming g.bytes.length)) m.dev
          { m with dev := d1.onPrism (fun p => { p with segs := p.segs ++ segs }) }

/-- Place a line in every open frame of its input. -/
def Mach.placeLine (m : Mach) (g vc y : Nat) (line : Option (List Nat)) : Mach :=
  (m.dev.openOn g vc).foldl (fun m e => m.placeRow e.1 e.2.1 e.2.2 y line) m

/-- Whether a line is shorter than some window of its input that it belongs to (R68). -/
def Dev.tooShort (d : Dev) (g vc y len : Nat) : Bool :=
  (d.openOn g vc).any (fun e =>
    decide (e.2.1.top ≤ y ∧ y < e.2.1.top + e.2.1.height) &&
    decide (len < (e.2.1.left + e.2.1.width) * compsOf e.2.2.cfa))

/-! ### SLVS rows -/

/-- Take the oldest message of a group where it carries this code. -/
def Dev.takeGroup (d : Dev) (g code : Nat) : Option (GroupMsg × Dev) :=
  match (d.group g).inbox with
  | x :: r => if x.code = code then some (x, d.onGroup g (fun y => { y with inbox := r })) else none
  | [] => none

/-- The photosites of a line from its lanes' bytes (R47). -/
def lanePhotos (b : Nat) (data : List (List Byte)) : List Nat :=
  let nums := (data.map leNat).toArray
  let per := ((data.map (fun l => l.length * 8 / b)).foldl min ((data.getD 0 []).length * 8 / b))
  let n := data.length
  (List.range (n * per)).map (fun k => bits (nums.getD (k % n) 0) (b * (k / n)) b)

/-- Whether input `g` can carry a CSI-2 packet on channel `vc`. -/
def Dev.csiOn (d : Dev) (g vc : Nat) : Bool :=
  decide (d.prmMode = 2) && decide (g < 4) && decide (vc < 32) && !(d.inputLanes g).isEmpty

/-- SOF: in SLVS mode the oldest start of frame of group `g`; in CSI-2 mode a frame start packet with its frame number
(R52, R58). -/
def execSof (g vc counter : Nat) (s : State) : Host.Outcome State Fault Refusal :=
  liveDev (fun d =>
    if d.prmMode = 1 then
      match d.takeGroup g 0x33 with
      | some (x, d1) => d1.sofAt g 0 (x.args.getD 0 0)
      | none => d
    else if d.csiOn g vc then d.sofAt g vc (counter % 65536)
    else d) s

/-- SOL: the oldest start of line of group `g` places the data that follow, or is ROWS_EXTRA (R58, R59). -/
def execSol (g : Nat) (s : State) : Host.Outcome State Fault Refusal :=
  liveDev (fun d =>
    match d.takeGroup g 0x4B with
    | none => d
    | some (x, d1) =>
      let y := x.args.getD 0 0 % 2 ^ 14
      match d1.rowFate g 0 y with
      | .taken => d1.modSource g 0 (fun z => { z with line := some y })
      | .discarded => d1.modSource g 0 (fun z => { z with line := none })
      | .extra => (d1.modSource g 0 (fun z => { z with line := none })).prmEvent 6 g y) s

/-- EOL: the oldest end of line of group `g` checks the CRC of every lane and the length, and places the row (R46, R47,
R68). -/
def execEol (g : Nat) (s : State) : Host.Outcome State Fault Refusal :=
  live (fun m =>
    match m.dev.takeGroup g 0x55 with
    | none => m
    | some (x, d1) =>
      match (d1.source g 0).line with
      | none => { m with dev := d1 }
      | some y =>
        let d2 := d1.modSource g 0 (fun z => { z with line := none })
        let row := d2.windowRow g 0 y
        let good := (List.zipWith (fun a l => decide (a % 65536 = crc16 l)) x.args x.data).all id
        let even := x.data.all (fun l => decide (l.length = (x.data.getD 0 []).length))
        let photos := lanePhotos (d2.inFmt g).2 x.data
        if !good then Mach.placeLine { m with dev := d2.prmEvent 3 g row } g 0 y none
        else if !even then Mach.placeLine { m with dev := d2.prmEvent 4 g row } g 0 y none
        else if d2.tooShort g 0 y photos.length then
          Mach.placeLine { m with dev := d2.prmEvent 4 g row } g 0 y (some photos)
        else Mach.placeLine { m with dev := d2 } g 0 y (some photos)) s

/-- EOF: the oldest end of frame of group `g`, or a CSI-2 frame end packet, ends the lines of the open frame (R58). -/
def execEof (g vc : Nat) (s : State) : Host.Outcome State Fault Refusal :=
  liveDev (fun d =>
    let close : Dev → Nat → Dev := fun d vc => d.modSource g vc (fun x => { x with open_ := false, line := none })
    if d.prmMode = 1 then
      match d.takeGroup g 0x66 with
      | some (_, d1) => close d1 0
      | none => d
    else if d.csiOn g vc then close d vc
    else d) s

/-! ### CSI-2 (R51 to R53) -/

/-- Depth of a RAW data type (R52). -/
def rawDepth (dt : Nat) : Option Nat :=
  match dt with
  | 0x2A => some 8
  | 0x2B => some 10
  | 0x2C => some 12
  | 0x2D => some 14
  | 0x2E => some 16
  | _ => none

/-- Photosites of RAW10, RAW12 and RAW14: `k` high bytes, then their low bits packed least significant bit first. -/
def rawGroups (b k : Nat) : Nat → List Byte → List Nat
  | 0, _ => []
  | n + 1, l =>
    let low := k * (b - 8) / 8
    let v := leNat ((l.drop k).take low)
    if l.length < k + low then []
    else (List.range k).map (fun i => (l.getD i 0).toNat * 2 ^ (b - 8) + bits v ((b - 8) * i) (b - 8)) ++
      rawGroups b k n (l.drop (k + low))

/-- Photosites of 16-bit data, high byte first. -/
def raw16 : List Byte → List Nat
  | a :: b :: r => (256 * a.toNat + b.toNat) :: raw16 r
  | _ => []

/-- Photosites of RGB888, sent B, G, R: R, G, B of each position. -/
def rgb888 : List Byte → List Nat
  | b :: g :: r :: rest => r.toNat :: g.toNat :: b.toNat :: rgb888 rest
  | _ => []

/-- Photosites of a long packet of a data type at a format (R52); none where the type does not fit the format. -/
def csiPhotos (cfa b dt : Nat) (l : List Byte) : Option (List Nat) :=
  match dt with
  | 0x24 => if cfa = 6 ∧ b = 8 then some (rgb888 l) else none
  | 0x30 =>
    if cfa = 6 ∧ 9 ≤ b then
      let v := leNat l
      some ((List.range (l.length * 8 / b)).map (fun i => bits v (b * i) b))
    else none
  | _ =>
    if cfa = 6 ∨ rawDepth dt ≠ some b then none
    else if b = 8 then some (l.map (fun x => x.toNat))
    else if b = 16 then some (raw16 l)
    else if b = 12 then some (rawGroups 12 2 l.length l)
    else some (rawGroups b 4 l.length l)

/-- Data types accepted in long packets (R52). -/
def csiLong (dt : Nat) : Bool := decide (dt = 0x12 ∨ dt = 0x24 ∨ dt = 0x30) || (rawDepth dt).isSome

/-- A CSI-2 image row takes the next place after the SOF. -/
def Dev.nextRow (d : Dev) (g vc : Nat) : Dev := d.modSource g vc (fun x => { x with rows := x.rows + 1 })

/-- CSI2_LONG_PACKET: a long packet of type `dt` on channel `vc` of port `g`; `ecc` is 0 for a good header, 1 corrected, 2
uncorrectable; `crcOk` says whether its payload CRC passes (R52, R53). -/
def execCsi2LongPacket (g vc dt ecc : Nat) (crcOk : Bool) (payload : List Byte) (s : State) : Host.Outcome State Fault Refusal :=
  live (fun m =>
    let d := m.dev
    if !d.csiOn g vc then m
    else if ecc = 2 then { m with dev := (d.nextRow g vc).prmEvent 9 g 0 }
    else
      let d0 := if ecc = 1 then d.prmEvent 8 g 0 else d
      if !csiLong dt then { m with dev := d0.prmEvent 10 g dt }
      else if dt = 0x12 then
        if !crcOk then { m with dev := d0.prmEvent 3 g 0xFFFFFF }
        else
          { m with dev := (d0.openOn g vc).foldl (fun d e =>
              if (d.source g vc).open_ ∧ !(d.source g vc).discard then
                d.modWork e.1 e.2.2.frame (fun w => { w with embedded := w.embedded ++ [payload] })
              else d) d0 }
      else
        let y := (d0.source g vc).rows
        let fate := d0.rowFate g vc y
        let d1 := d0.nextRow g vc
        let row := d1.windowRow g vc y
        let fmt := d1.inFmt g
        match fate with
        | .discarded => { m with dev := d1 }
        | .extra => { m with dev := d1.prmEvent 6 g 0xFFFFFF }
        | .taken =>
          if !crcOk then Mach.placeLine { m with dev := d1.prmEvent 3 g row } g vc y none
          else
            match csiPhotos fmt.1 fmt.2 dt payload with
            | none => Mach.placeLine { m with dev := d1.prmEvent 4 g row } g vc y none
            | some l =>
              if d1.tooShort g vc y l.length then Mach.placeLine { m with dev := d1.prmEvent 4 g row } g vc y (some l)
              else Mach.placeLine { m with dev := d1 } g vc y (some l)) s

/-- CSI2_LINE_START: a line-start packet's line number is checked against the row count (R52); the spec gives a difference
no reaction, so State alone holds the outcome. -/
def execCsi2LineStart (g vc number : Nat) (s : State) : Host.Outcome State Fault Refusal :=
  liveDev (fun d => onlyIf (d.csiOn g vc) (fun d =>
    d.modSource g vc (fun x => { x with lineNo := number % 65536, lineOff := decide (number % 65536 ≠ (x.rows + 1) % 65536) })) d) s

/-! ### Staging (R65, R66) -/

/-- Bytes held in the FIFO of port `p`. -/
def Prism.level (p : Prism) (port : Nat) : Nat := sumBy (fun g => g.bytes.length - g.done) (p.fifos.getD port [])

/-- Write port of a segment: that of its tile's pixel engine (R65). -/
def Dev.segPort (d : Dev) (g : Segment) : Nat :=
  match d.work g.stream g.frame with
  | some w => (w.tile g.tile).engine / 6
  | none => 0

/-- Show a FIFO's level, and raise or clear PANIC by it (R65). -/
def Dev.fifoLevel (d : Dev) (p : Nat) : Dev :=
  let lv := d.prism.level p
  let w := d.wports.getD p {}
  let panic := decide (196608 ≤ lv) || (w.panic && decide (131072 ≤ lv))
  let d1 := d.onWport p (fun x => { x with level := lv, panic := panic, panicAt := if panic && !w.panic then d.clk else x.panicAt })
  if panic && !w.panic then d1.count 0x7048 else d1

/-- STAGE_SEGMENT: the oldest line segment enters the staging FIFO of its write port, or overflows it (R65, R66). -/
def execStageSegment (s : State) : Host.Outcome State Fault Refusal :=
  live (fun m =>
    match m.dev.prism.segs with
    | [] => m
    | g :: r =>
      let d := m.dev.onPrism (fun p => { p with segs := r })
      let p := d.segPort g
      let input := match d.cap g.stream with
        | some c => c.input
        | none => 0
      if 262144 < d.prism.level p + g.bytes.length then
        Mach.badRow { m with dev := d.prmEvent 11 input p } g.stream g.frame g.tile g.row
      else
        let d1 := (d.onPrism (fun x => { x with fifos := modAt x.fifos p (fun l => l ++ [g]) })).fifoLevel p
        { m with dev := d1.stageBufs g.stream g.frame g.tile (g.row / 32) }) s

/-- The next cell of a write port: the oldest bytes of its FIFO, up to a 256-byte boundary of DRAM (R65, R253). -/
def Dev.nextCell (d : Dev) (p : Nat) : Option FabCell :=
  match d.prism.fifos.getD p [] with
  | [] => none
  | g :: _ =>
    match d.work g.stream g.frame with
    | none => none
    | some w =>
      let o := 2 * w.line g.tile * (g.row % 32) + g.done
      match d.bufAddr (w.band g.tile (g.row / 32)).bufs o with
      | none => none
      | some a =>
        let n := min (256 - a % 256) (g.bytes.length - g.done)
        some { input := 32 + p, output := 8 * bits a 11 2 + bits a 8 3, cls := 0, owner := d.tileCtx g.stream g.tile, addr := a,
               write := true, bytes := (g.bytes.drop g.done).take n,
               seg := some { stream := g.stream, frame := g.frame, tile := g.tile, row := g.row } }

/-- The FIFO of port `p` gives up `n` bytes of its oldest segment. -/
def Dev.fifoTook (d : Dev) (p n : Nat) : Dev :=
  (d.onPrism (fun x => { x with fifos := modAt x.fifos p (fun l =>
    match l with
    | [] => []
    | g :: r => if g.bytes.length ≤ g.done + n then r else { g with done := g.done + n } :: r) })).fifoLevel p

/-- A FIFO's oldest segment has no cell to send: the pool is asked again for its buffers (R277), or its frame is no longer in
work and it is discarded. -/
def Dev.stuckSegment (d : Dev) (p : Nat) : Dev :=
  match d.prism.fifos.getD p [] with
  | [] => d
  | g :: _ =>
    match d.work g.stream g.frame with
    | some _ => d.stageBufs g.stream g.frame g.tile (g.row / 32)
    | none => d.fifoTook p g.bytes.length

/-! ### Release of staged buffers (R15, R67, R134, R208) -/

/-- Every row of a band is whole or filled in DRAM (R119). -/
def Band.staged (b : Band) : Bool :=
  !b.rows.isEmpty && b.rows.all (fun r => decide (r = .whole) || decide (r = .filled))

/-- Whether a band has passed verification, stored with VERIFY_FALLBACK or not. -/
def Band.passedOver (b : Band) : Bool := decide (b.phase = .passed) || decide (b.phase = .handed)

/-- Whether tile `t` of frame `n` is complete, or the frame is not, or no longer, to be coded (R134). -/
def Cap.tileComplete (c : Cap) (now n t : Nat) : Bool :=
  match c.works.find? (fun w => decide (w.frame = n)) with
  | some w => w.gone || (w.tile t).bands.all (fun b => decide (b.phase = .handed))
  | none => !(decide (c.run = .running) && !c.draining && decide (n = (now + 1) % 2 ^ 32))

/-- Whether the buffers of band `k` of a tile are free to go: it has passed, or its frame is not coded; the next band is whole
or filled; no developer hold is on it; and no frame needs it as a reference any more. -/
def Cap.releasable (c : Cap) (now : Nat) (w : Work) (t k : Nat) : Bool :=
  let b := w.band t k
  let next := decide ((w.tile t).bands.length ≤ k + 1) || (w.band t (k + 1)).staged || (w.gone && w.closed)
  !b.released && !b.hold && next && (b.passedOver || (w.gone && w.closed)) &&
    (decide (c.anchor = 1) || c.tileComplete now ((w.frame + 1) % 2 ^ 32) t)

/-- Release what may be released of the frames of a stream, and forget the frames that hold nothing any more. -/
def Dev.sweep (d : Dev) (s : Nat) : Dev :=
  match d.cap s with
  | none => d
  | some c =>
    let free : List Nat := (c.works.map (fun w => ((List.range w.tiles.length).map (fun t =>
      ((List.range (w.tile t).bands.length).map (fun k =>
        if c.releasable d.tick.now w t k then (w.band t k).bufs ++ (w.band t k).refBufs else [])).flatten)).flatten)).flatten
    let upd : Work → Work := fun w =>
      { w with tiles := (List.range w.tiles.length).map (fun t =>
          let x := w.tile t
          { x with bands := (List.range x.bands.length).map (fun k =>
              let b := w.band t k
              if c.releasable d.tick.now w t k then { b with released := true, bufs := [], refBufs := [] } else b) }) }
    let done : Work → Bool := fun w => w.gone && w.closed && w.tiles.all (fun t => t.bands.all (fun b => b.released))
    (d.freeMany free).modCap s (fun c => { c with works := (c.works.map upd).filter (fun w => !done w) })

/-- Bytes of a row have been written to DRAM; the row is whole when all of them have. -/
def Mach.segWritten (m : Mach) (r : SegRef) (n : Nat) : Mach :=
  match m.dev.work r.stream r.frame with
  | none => m
  | some w =>
    match w.row r.tile r.row with
    | .coming left =>
      if left ≤ n then onDev (fun d => d.sweep r.stream) (m.rowWhole r.stream r.frame r.tile r.row)
      else { m with dev := m.dev.setRow r.stream r.frame r.tile r.row (.coming (left - n)) }
    | _ => m

/-- Bytes of a row are lost on the way to DRAM. -/
def Mach.segLost (m : Mach) (r : SegRef) : Mach :=
  match m.dev.work r.stream r.frame with
  | none => m
  | some w =>
    match w.row r.tile r.row with
    | .coming _ => m.badRow r.stream r.frame r.tile r.row
    | _ => m

end Sys2Proof.Machine
end

