-- ==== Sys2Proof/Machine/Rate.lean ====
section
/-! DEFINITION. Rate control (R146 to R177): costs, frame sizes, tile budgets, the allowance units, the δ search and the
measure-pass decision; and the instants that frame work is placed by (R18, R25, R28, R136, R137). -/

namespace Sys2Proof.Machine
open Sys2Proof

/-! ### Tick instants (R17, R18, R25, R28) -/

/-- Nominal period P, units of 2^-32 s (R17). -/
def TickUnit.period (t : TickUnit) : Nat := 2 ^ 32 * t.rateD / max 1 t.rateN

/-- A number of thousandths of P, units of 2^-32 s. -/
def TickUnit.permille (t : TickUnit) (k : Nat) : Nat := 2 ^ 32 * (k * t.rateD) / (1000 * max 1 t.rateN)

/-- The schedule instant of index `j` (R18, R494). -/
def Dev.schedAt (d : Dev) (j : Nat) : Nat := d.reg64 0x01 0x110 + 2 ^ 32 * (j * d.tick.rateD) / max 1 d.tick.rateN

/-- The earliest instant at which the tick `k` after the last one can be issued (R28): scheduled under sources 0 and 2,
otherwise at 0.999 P each. -/
def Dev.tickAhead (d : Dev) (k : Nat) : Nat :=
  if k = 0 then d.tick.prev
  else if d.tick.mode = .schedule then d.schedAt (d.tick.index + (k - 1))
  else d.tick.prev + d.tick.permille (999 * k)

/-- The instant taken for tick n + 2 of frame `n` (R28). -/
def Dev.tickTwo (d : Dev) (n : Nat) : Nat := d.tickAhead ((2 ^ 32 + (n + 2) - d.tick.now) % 2 ^ 32)

/-! ### Clocks and bounds (R116, R117, R485) -/

/-- fPE of pixel engine `e` in MHz, by the level of its domain (R29, R482). -/
def Dev.fPe (d : Dev) (e : Nat) : Nat :=
  match d.power.level.getD (e / 4) 0 with
  | 0 => 520
  | 1 => 500
  | 2 => 400
  | _ => 260

/-- Nanoseconds that a number of clocks at `mhz` takes, rounded up. -/
def nsOfClocks (clocks mhz : Nat) : Nat := ceilDiv (1000 * clocks) mhz

/-! ### Geometry -/

/-- Photosites of band `k` of tile `t`, N of R111. -/
def Work.photos (w : Work) (t k : Nat) : Nat := w.line t * (w.band t k).rows.length

/-- Photosites of a tile's largest band. -/
def Work.photosMax (w : Work) (t : Nat) : Nat := ((List.range (w.tile t).bands.length).map (w.photos t)).foldl max 0

/-- Format of a band. -/
def Work.geo (w : Work) (t k : Nat) : BandGeo :=
  { cfa := w.cfa, depth := w.depth, width := (w.tile t).width, rows := (w.band t k).rows.length }

/-- Cost of band `k` at depth `e` (R113). -/
def Work.cost (w : Work) (t k e : Nat) : Nat := eclipseCost (w.photos t k) w.depth e

/-! ### Stream configuration (R146, R177) -/

/-- ACB_CFG of a stream. -/
def Dev.acbCfg (d : Dev) (s : Nat) : Word := d.reg 0x15 (0x40 * s)

/-- DELTA_CEILING. -/
def Dev.ceiling (d : Dev) (s : Nat) : Nat := fld (d.acbCfg s) 14 5

/-- POLICY: the customer's microcode decides. -/
def Dev.policy (d : Dev) (s : Nat) : Bool := bit (d.acbCfg s).toNat 2

/-- META_MAX. -/
def Dev.metaMax (d : Dev) (s : Nat) : Nat := fld (d.reg 0x15 (0x40 * s + 0x0C)) 0 23

/-- Reserve depth e_r at wire depth `b`: as given, else b - 4 (R146). -/
def Dev.reserveDepth (d : Dev) (s b : Nat) : Nat :=
  match d.cap s with
  | some c => if c.erGiven then fld (d.acbCfg s) 19 5 else b - 4
  | none => b - 4

/-- Frame overhead H_f (R148). -/
def overhead (tiles tableLen metaMax : Nat) : Nat := 4 + (68 + 16 * tiles) + tableLen + metaMax + 28

/-- Photosites of the bands of a tile `line` photosites wide and `height` rows high. -/
def bandCounts (line height : Nat) : List Nat :=
  (List.range (ceilDiv height 32)).map (fun k => line * min 32 (height - 32 * k))

/-- Photosites of the bands of every tile of a window. -/
def gridCounts (cfa height : Nat) (tileW : List Nat) : List (List Nat) :=
  tileW.map (fun w => bandCounts (w * compsOf cfa) height)

/-- TABLE_LEN that admission takes (R148). -/
def admissionTable (mode : Nat) : Nat := if mode = 3 then 0 else 3076

/-- Worst-case frame size W_f (R150). -/
def worstFrame (grid : List (List Nat)) (b mode metaMax : Nat) : Nat :=
  overhead grid.length (admissionTable mode) metaMax + sumBy (fun l => 16 + sumBy (fun n => eclipseCost n b 0) l) grid

/-- Minimum budget B_min (R150). -/
def minBudget (grid : List (List Nat)) (b er mode metaMax : Nat) : Nat :=
  overhead grid.length (admissionTable mode) metaMax +
    sumBy (fun l => 16 + sumBy (fun n => eclipseCost n b er) l + (l.map (fun n => eclipseCost n b 0)).foldl max 0) grid

/-! ### Tile budgets (R154, R155) -/

/-- Add one to the first `k` numbers. -/
def addOnes : Nat → List Nat → List Nat
  | 0, l => l
  | _, [] => []
  | k + 1, x :: r => (x + 1) :: addOnes k r

/-- Budgets of the tiles from their reserves and weights: the surplus shared by weight, the rest one byte each (R154). -/
def tileBudgets (f hf : Nat) (reserves weights : List Nat) : List Nat :=
  let ds := f - hf - sumBy (fun r => 16 + r) reserves
  let total := max 1 (sumBy id weights)
  let shares := weights.map (fun w => ds * w / total)
  addOnes (ds - sumBy id shares) (List.zipWith (fun r s => 16 + r + s) reserves shares)

/-- Weights in force: below 1 counts as 1; all zero as supplied gives the photosite counts (R155). -/
def weightsOf (photos supplied : List Nat) : List Nat :=
  if supplied.all (fun w => decide (w = 0)) then photos else supplied.map (fun w => max 1 w)

/-! ### The allowance unit (R156 to R161) -/

/-- Reserve of a tile from band `k` on: costs at e_r and the unused margin (R156). -/
def Work.reserve (w : Work) (t k er : Nat) : Nat :=
  sumBy (fun i => if k ≤ i then w.cost t i er else 0) (List.range (w.tile t).bands.length) +
    (if (w.tile t).marginUsed then 0 else (w.tile t).margin)

/-- Surplus S(k) (R156). -/
def Work.surplus (w : Work) (t k er : Nat) : Int := ((w.tile t).budget : Int) - (w.tile t).spent - w.reserve t k er

/-- N_rem(k) (R159). -/
def Work.remaining (w : Work) (t k : Nat) : Nat :=
  sumBy (fun i => if k ≤ i then w.photos t i else 0) (List.range (w.tile t).bands.length)

/-- Allowance that the default policy requests (R159). -/
def Work.defaultAllow (w : Work) (t k er : Nat) : Int :=
  (w.cost t k er : Int) + Int.fdiv (w.surplus t k er * w.photos t k) (max 1 (w.remaining t k))

/-- The allowance after the hardware clamp (R160, R171). -/
def clampAllow (cer c0 : Nat) (s limit req : Int) : Nat :=
  if s < 0 then cer else (max (cer : Int) (min req (min limit c0))).toNat

/-- Whether the modes of a frame have tile budgets (R154). -/
def Work.budgeted (w : Work) : Bool := decide (w.mode = 1 ∨ w.mode = 2)

/-- Change allowance unit `e`. -/
def Dev.onAcb (d : Dev) (e : Nat) (f : Allow → Allow) : Dev := d.onCodec (fun c => { c with acb := modAt c.acb e f })

/-- Count a request that the hardware changed (R160, R166, R168). -/
def Dev.countClamp (d : Dev) (e : Nat) (changed : Bool) : Dev := if changed then d.bump 0x14 (0x40 * e + 0x1C) else d

/-- The computation of R158 for a band: S, L, the reserve and exhaustion. -/
def Dev.allowUnit (d : Dev) (r : BandRef) : Dev :=
  match d.work r.stream r.frame with
  | none => d
  | some w =>
    let e := (w.tile r.tile).engine
    let er := d.reserveDepth r.stream w.depth
    let c0 := w.cost r.tile r.band 0
    if !w.budgeted then
      let d1 := d.modBand r.stream r.frame r.tile r.band (fun b => { b with allowed := true, limit := c0, allow := c0 })
      d1.onAcb e (fun a => { a with stream := r.stream, tile := r.tile, band := r.band, spent := (w.tile r.tile).spent, limit := c0,
                                    allow := c0, surplus := 0, free := true })
    else
      let s := w.surplus r.tile r.band er
      let cer := w.cost r.tile r.band er
      let lim : Int := if s < 0 then cer else s + cer
      let last := decide (r.band + 1 = (w.tile r.tile).bands.length)
      let ex := (w.tile r.tile).exhausted || decide (s < 0) || (decide (s ≤ 0) && !last)
      let d1 := d.modBand r.stream r.frame r.tile r.band (fun b => { b with allowed := true, limit := lim })
      let d2 := d1.modTile r.stream r.frame r.tile (fun t => { t with exhausted := ex })
      d2.onAcb e (fun a => { a with exhausted := ex, marginUsed := (w.tile r.tile).marginUsed, stream := r.stream, tile := r.tile,
                                    band := r.band, budget := (w.tile r.tile).budget, spent := (w.tile r.tile).spent,
                                    reserve := w.reserve r.tile r.band er, limit := lim.toNat, surplus := s,
                                    free := false })

/-- The allowance of a band, from the request or the default policy (R159, R160). -/
def Dev.allowSet (d : Dev) (r : BandRef) (req : Option Nat) : Dev :=
  match d.work r.stream r.frame with
  | none => d
  | some w =>
    if !w.budgeted then d
    else
      let e := (w.tile r.tile).engine
      let er := d.reserveDepth r.stream w.depth
      let s := w.surplus r.tile r.band er
      let want : Int := match req with
        | some x => x
        | none => w.defaultAllow r.tile r.band er
      let a := clampAllow (w.cost r.tile r.band er) (w.cost r.tile r.band 0) s (w.band r.tile r.band).limit want
      let d1 := d.modBand r.stream r.frame r.tile r.band (fun b => { b with allow := a })
      (d1.onAcb e (fun x => { x with allow := a, req := want.toNat })).countClamp e (decide (want ≠ a))

/-! ### δ and depth (R162 to R168) -/

/-- LG[δ] = round(16 log2(2 δ + 1)) (R165). -/
def lgTable : List Nat :=
  [0, 25, 37, 45, 51, 55, 59, 63, 65, 68, 70, 72, 74, 76, 78, 79, 81, 82, 83, 85, 86, 87, 88, 89, 90, 91, 92, 93, 93, 94, 95, 96]

/-- X of the δ search (R165). -/
def excess (size allow photos : Nat) : Nat := ceilDiv (160 * (size - allow)) photos

/-- δ' of a second attempt (R165). -/
def deltaSearch (x d1 ceiling : Nat) : Nat :=
  match (List.range (ceiling + 1)).find? (fun d => decide (d1 < d) && decide (lgTable.getD d1 0 + x ≤ lgTable.getD d 0)) with
  | some d => d
  | none => ceiling

/-- Row of the measure-pass decision (R163). `second` says that a second attempt is open but for the forecast. -/
def measureRow (size allow c0 mode : Nat) (second forecast : Bool) : Nat :=
  if size ≤ allow then 1
  else if c0 ≤ allow ∨ mode = 0 then 2
  else if second then (if forecast then 3 else 4)
  else 5

/-- Eclipse depth of the default policy (R167). -/
def Work.defaultDepth (w : Work) (t k er allow : Nat) : Nat :=
  if !w.budgeted then 0
  else
    match (List.range (er + 1)).find? (fun e => decide (w.cost t k e ≤ allow)) with
    | some e => e
    | none => er

/-! ### The guard (R136, R137) -/

/-- Whether a band counts in U: neither passed nor sent to the eclipse path (R136). -/
def Band.inU (b : Band) : Bool :=
  match b.phase with
  | .passed | .handed => false
  | .eclipseWait | .eclipsing => false
  | .coded | .verifying => decide (b.cause < 2) && decide (b.pass < 2)
  | _ => true

/-- U of a tile. -/
def Work.unpassed (w : Work) (t : Nat) : Nat :=
  sumBy (fun k => if (w.band t k).inU then w.photos t k else 0) (List.range (w.tile t).bands.length)

/-- The switch instant S of a tile in units of 2^-32 s times 10^9, so that nanoseconds are exact (R136). -/
def Dev.switchAt (d : Dev) (w : Work) (t : Nat) : Int :=
  (10 ^ 9 * d.tickTwo w.frame : Nat) - (2 ^ 32 * (60000 + (w.unpassed t - 40000) + (w.photosMax t - 131072)) : Nat)

/-- Largest band of any tile on engine `e` (N' of R137). -/
def Dev.photosOn (d : Dev) (e : Nat) : Nat :=
  ((d.streams.map (fun x => x.2.works.map (fun w =>
    ((List.range w.tiles.length).map (fun t => if (w.tile t).engine = e then w.photosMax t else 0)).foldl max 0))).flatten).foldl max 0

/-- Whether work that takes `quarters` quarter clocks at 2 fPE, started now, ends by S (R137). -/
def Dev.endsBy (d : Dev) (w : Work) (t quarters : Nat) : Bool :=
  let f := 10 ^ 6 * (8 * d.fPe (w.tile t).engine)
  decide (((10 ^ 9 * d.sdt * f + 10 ^ 9 * (2 ^ 32 * quarters) : Nat) : Int) ≤ d.switchAt w t * f)

/-- Forecast of an attempt of band `k` (R137). -/
def Dev.forecast (d : Dev) (w : Work) (t k : Nat) : Bool :=
  d.endsBy w t (1024 + (11 * w.photos t k + 3 * d.photosOn (w.tile t).engine))

/-- Forecast of the repeat of an eclipse band (R137). -/
def Dev.forecastEclipse (d : Dev) (w : Work) (t k : Nat) : Bool :=
  d.endsBy w t (832 + (w.photos t k + 3 * d.photosOn (w.tile t).engine))

end Sys2Proof.Machine
end

