-- ==== Sys2Proof/Machine/Codec.lean ====
section
/-! DEFINITION. The codec pipelines (R118 to R143, R178 to R185): what the engines take next, band queues, attempts, decisions,
eclipse passes, verification, hand-over and the end of a frame. -/

namespace Sys2Proof.Machine
open Sys2Proof

namespace Flag
def eclipse : Nat := 0x01
def guard_ : Nat := 0x02
def budget : Nat := 0x04
def recoded : Nat := 0x08
def deltaRaised : Nat := 0x10
def fallback : Nat := 0x20
def filled : Nat := 0x40
end Flag

/-! ### Access -/

def Dev.pix (d : Dev) (e : Nat) : PixEngine := d.codec.pxe.getD e {}
def Dev.entE (d : Dev) (e : Nat) : EntEngine := d.codec.ent.getD e {}
def Dev.mirE (d : Dev) (e : Nat) : MirEngine := d.codec.mir.getD e {}
def Dev.onPix (d : Dev) (e : Nat) (f : PixEngine → PixEngine) : Dev := d.onCodec (fun c => { c with pxe := modAt c.pxe e f })
def Dev.onEnt (d : Dev) (e : Nat) (f : EntEngine → EntEngine) : Dev := d.onCodec (fun c => { c with ent := modAt c.ent e f })
def Dev.onMir (d : Dev) (e : Nat) (f : MirEngine → MirEngine) : Dev := d.onCodec (fun c => { c with mir := modAt c.mir e f })

/-- The words in band queue `e` (BQ_COUNT, R128). -/
def Dev.bqCount (d : Dev) (e : Nat) : Nat := sumBy (fun x => x.words) (d.codec.bq.getD e [])

def Dev.onBq (d : Dev) (e : Nat) (f : List BqEntry → List BqEntry) : Dev := d.onCodec (fun c => { c with bq := modAt c.bq e f })

/-- The band that a reference names. -/
def Dev.bandOf (d : Dev) (r : BandRef) : Option (Work × Band) :=
  match d.work r.stream r.frame with
  | some w => if r.tile < w.tiles.length ∧ r.band < (w.tile r.tile).bands.length then some (w, w.band r.tile r.band) else none
  | none => none

def Dev.onBand (d : Dev) (r : BandRef) (f : Band → Band) : Dev := d.modBand r.stream r.frame r.tile r.band f

/-- Engine of a band's tile. -/
def Dev.engineOf (d : Dev) (r : BandRef) : Nat :=
  match d.work r.stream r.frame with
  | some w => (w.tile r.tile).engine
  | none => 0

/-- ARG of a codec fault: stream and band (R545). -/
def BandRef.arg (r : BandRef) : Nat := 2 ^ 16 * r.stream + r.band % 512

/-- Order of service: earliest deadline guard, then lower stream, then lower band (R143). -/
def Dev.serveKey (d : Dev) (r : BandRef) : Nat :=
  let age := (2 ^ 32 + d.tick.now - r.frame) % 2 ^ 32
  1024 * ((2 ^ 32 - age) * 64 + r.stream) + r.band

/-- Every tile that engine `e` serves, with its frame. -/
def Dev.tilesOn (d : Dev) (e : Nat) : List (Nat × Work × Nat) :=
  (d.streams.map (fun x => (x.2.works.map (fun w =>
    (List.range w.tiles.length).filterMap (fun t => if (w.tile t).engine = e ∧ !w.skip then some (x.1, w, t) else none))).flatten)).flatten

/-! ### References (R98, R99, R133, R134) -/

/-- What frame `n` of a stream left. -/
def Dev.pastOf (d : Dev) (s n : Nat) : Option Past :=
  match d.cap s with
  | some c => c.past.find? (fun p => decide (p.frame = n))
  | none => none

/-- The frame before `n`. -/
def prevFrame (n k : Nat) : Nat := (2 ^ 32 + n - k) % 2 ^ 32

/-- Whether band `k` of a tile of a frame has passed; a frame no longer in work counts as passed (R134). -/
def Dev.hasPassed (d : Dev) (s n t k : Nat) : Bool :=
  match d.work s n with
  | some w => w.gone || (w.band t k).passedOver
  | none => true

/-- The buffers that hold a band's reconstruction as a reference (R134). -/
def Dev.refOf (d : Dev) (s n t k : Nat) : List Nat :=
  match d.work s n with
  | some w => let b := w.band t k; if b.refBufs.isEmpty then b.bufs else b.refBufs
  | none => []

/-- Bands that reach from a band: r of R134. -/
def refReach (cfa : Nat) : Nat := if cfa ≤ 4 then 2 else 1

/-- Whether the reference bands of a band of a temporal frame are available (R134). -/
def Dev.refReady (d : Dev) (s : Nat) (w : Work) (t k : Nat) : Bool :=
  !w.temporal ||
  (List.range (w.tile t).bands.length).all (fun i =>
    decide (i + refReach w.cfa < k) || decide (k + refReach w.cfa < i) || d.hasPassed s (prevFrame w.frame 1) t i)

/-- 16-bit little-endian photosites of bytes. -/
def photosOf : List Byte → List Nat
  | a :: b :: r => (a.toNat + 256 * b.toNat) :: photosOf r
  | _ => []

/-- The staged photosites of a band (R57). -/
def Mach.bandPhotos (m : Mach) (w : Work) (t k : Nat) : List Nat :=
  photosOf (m.bufRead (w.band t k).bufs 0 (w.bandBytes t k) 64)

/-- A block of a band's staged source that reads as uncorrectable (R465). -/
def Dev.sourceBad (d : Dev) (w : Work) (t k : Nat) : Option Nat :=
  let len := w.bandBytes t k
  (List.range (ceilDiv len 65536)).findSome? (fun i =>
    match d.bufAddr (w.band t k).bufs (65536 * i) with
    | some a => d.badBlock (blocksOf a (min 65536 (len - 65536 * i)))
    | none => none)

/-- A pass reads a band's staged source: its check value, whether it still gives the first one, and the reports of DRAM
(R179, R465). -/
def Mach.readSource (m : Mach) (r : BandRef) (w : Work) (b : Band) (src : List Nat) : Nat × Bool × Dev :=
  let now := sourceCheck w.frame r.tile r.band src
  let bad := m.dev.sourceBad w r.tile r.band
  let d := match bad with
    | some blk => m.dev.dramUncorrectable (64 * blk)
    | none => m.dev
  (b.check.getD now, bad.isSome || decide (b.check.getD now ≠ now), d)

/-- The reference planes of a band of a temporal frame (R98). -/
def Mach.reference (m : Mach) (s : Nat) (w : Work) (t k : Nat) (lifted : Bool) : Option RefPlanes :=
  if !w.temporal then none
  else
    let all := (List.range (w.tile t).bands.length).map (fun i =>
      if i + refReach w.cfa < k ∨ k + refReach w.cfa < i then List.replicate (w.photos t i) 0
      else photosOf (m.bufRead (m.dev.refOf s (prevFrame w.frame 1) t i) 0 (w.bandBytes t i) 64))
    some (refPlanes (w.geo t k) w.height k lifted all.flatten.toArray)

/-- Plane-0 modes of a final predictive band; none for any other (R131, R133). -/
def Band.planeModes (b : Band) : List BlockMode :=
  if b.cause < 2 ∧ b.pass < 2 then
    match b.formed with
    | some f => (f.modes.find? (fun e => decide (e.1 = 0))).map (fun e => e.2) |>.getD []
    | none => []
  else []

/-- What the motion search of a band takes from elsewhere (R131). -/
def Dev.motion (d : Dev) (s : Nat) (w : Work) (t k : Nat) : Motion :=
  let n1 := prevFrame w.frame 1
  let last := match d.work s n1 with
    | some p => (p.band t k).planeModes
    | none => match d.pastOf s n1 with
      | some p => (p.modes.getD t []).getD k []
      | none => []
  { last := last, above := if k = 0 then [] else (w.band t (k - 1)).planeModes, global := w.globals.getD t (0, 0) }

/-! ### Band queue (R121, R127 to R130) -/

/-- Drop the words of bands of a tile from a band on (R121). -/
def Dev.bqRewind (d : Dev) (r : BandRef) : Dev :=
  d.onBq (d.engineOf r) (fun l => l.filter (fun x =>
    !(decide (x.ref.stream = r.stream ∧ x.ref.frame = r.frame ∧ x.ref.tile = r.tile) && decide (r.band ≤ x.ref.band))))

/-- Drop or release the words of one band. -/
def Dev.bqDrop (d : Dev) (r : BandRef) : Dev := d.onBq (d.engineOf r) (fun l => l.filter (fun x => decide (x.ref ≠ r)))

/-- Stop whatever forms or reads a band in the pixel and entropy engines. -/
def Dev.stopBand (d : Dev) (r : BandRef) : Dev :=
  let e := d.engineOf r
  let d1 := if (d.pix e).job = some r then d.onPix e (fun p => { p with job := none, written := 0 }) else d
  if (d1.entE e).job = some r then d1.onEnt e (fun p => { p with job := none, pass := .idle }) else d1

/-- Send a band to the eclipse path, or a repeat to its fallback (R138, R184). -/
def Dev.toEclipse (d : Dev) (r : BandRef) (cause : Nat) : Dev :=
  let d1 := (d.stopBand r).bqDrop r
  d1.onBand r (fun b =>
    if b.pass = 0 then { b with phase := .eclipseWait, cause := cause, asked := false }
    else { b with phase := .eclipseWait, pass := 2, asked := false })

/-- Send to the eclipse path the bands of a tile whose phase satisfies `p`, from band `from_` on. -/
def Dev.divert (d : Dev) (s n t from_ cause : Nat) (p : BandPhase → Bool) : Dev :=
  match d.work s n with
  | none => d
  | some w =>
    (List.range (w.tile t).bands.length).foldl (fun d k =>
      if from_ ≤ k ∧ p (w.band t k).phase then d.toEclipse { stream := s, frame := n, tile := t, band := k } cause else d) d

/-- Phases before the measure pass ends (R169). -/
def BandPhase.unmeasured : BandPhase → Bool
  | .waiting | .forming | .queued | .measuring => true
  | _ => false

/-- Phases before the final coding pass begins (R28). -/
def BandPhase.uncoded : BandPhase → Bool
  | .waiting | .forming | .queued | .measuring | .codeWait => true
  | _ => false

/-- The computation of R158 with its exhaustion (R169). -/
def Dev.allowCompute (d : Dev) (r : BandRef) : Dev :=
  let d1 := d.allowUnit r
  match d1.work r.stream r.frame with
  | some w => if (w.tile r.tile).exhausted ∧ w.budgeted then d1.divert r.stream r.frame r.tile (r.band + 1) 2 BandPhase.unmeasured else d1
  | none => d1

/-! ### Decision events (R243, R244) -/

/-- Post an event on a thread's queue. -/
def Dev.seqPost (d : Dev) (thread : Nat) (e : SeqEvent) : Dev :=
  d.onSeq (fun q => { q with threads := modAt q.threads thread (fun t => { t with events := t.events ++ [e] }) })

/-- Ask the customer's handler for a decision on a band, which is held until the handler ends. -/
def Dev.askBand (d : Dev) (r : BandRef) (op arg : Nat) (dec : Decision) : Dev :=
  (d.onBand r (fun b => { b with asked := true })).seqPost (d.engineOf r) { op := op, arg := arg % 2 ^ 32, ref := some r, dec := some dec }

/-- Tell the customer's handler of an event that decides nothing. -/
def Dev.tellBand (d : Dev) (r : BandRef) (op arg : Nat) : Dev :=
  if d.policy r.stream then d.seqPost (d.engineOf r) { op := op, arg := arg % 2 ^ 32, ref := some r } else d

/-! ### What an engine takes next (R119, R123, R139, R143) -/

/-- The band of a tile that the pixel engine may form: the first not yet formed, and repeats. -/
def Dev.tileAttempts (d : Dev) (s : Nat) (w : Work) (t : Nat) : List BandRef :=
  let ks := List.range (w.tile t).bands.length
  let mk : Nat → BandRef := fun k => { stream := s, frame := w.frame, tile := t, band := k }
  let first := ks.find? (fun k => let b := w.band t k; decide (b.pass = 0) && (decide (b.phase = .waiting) || decide (b.phase = .forming)))
  let main := match first with
    | some k => let b := w.band t k; if b.phase = .waiting ∧ b.staged ∧ d.refReady s w t k then [mk k] else []
    | none => []
  main ++ (ks.filter (fun k => let b := w.band t k; decide (b.pass ≠ 0) && decide (b.phase = .waiting))).map mk

/-- The band that pixel engine `e` forms next. -/
def Dev.nextAttempt (d : Dev) (e : Nat) : Option BandRef :=
  argMin d.serveKey (((d.tilesOn e).map (fun x => d.tileAttempts x.1 x.2.1 x.2.2)).flatten)

/-- Phases that still need the entropy engine. -/
def BandPhase.needsEnt : BandPhase → Bool
  | .waiting | .forming | .queued | .measuring | .codeWait | .coding | .eclipseWait | .eclipsing => true
  | _ => false

/-- Whether a pass of a band can start in the entropy engine. -/
def Band.entReady (b : Band) : Bool :=
  !b.asked && (decide (b.phase = .queued) || decide (b.phase = .codeWait) || (decide (b.phase = .eclipseWait) && b.staged))

/-- The bands of a tile whose pass may start: the first not yet coded, and repeats (R123). -/
def Dev.tilePasses (s : Nat) (w : Work) (t : Nat) : List BandRef :=
  let ks := List.range (w.tile t).bands.length
  let mk : Nat → BandRef := fun k => { stream := s, frame := w.frame, tile := t, band := k }
  if !w.divided then []
  else
    let first := ks.find? (fun k => let b := w.band t k; decide (b.pass = 0) && b.phase.needsEnt)
    let main := match first with
      | some k => if (w.band t k).entReady then [mk k] else []
      | none => []
    main ++ (ks.filter (fun k => let b := w.band t k; decide (b.pass ≠ 0) && b.entReady)).map mk

/-- The band that entropy engine `e` takes next. -/
def Dev.nextPass (d : Dev) (e : Nat) : Option BandRef :=
  argMin d.serveKey (((d.tilesOn e).map (fun x => Dev.tilePasses x.1 x.2.1 x.2.2)).flatten)

/-- The band that mirror decoder `e` verifies next (R178). -/
def Dev.nextVerify (d : Dev) (e : Nat) : Option BandRef :=
  argMin d.serveKey (((d.tilesOn e).map (fun x =>
    ((List.range (x.2.1.tile x.2.2).bands.length).filter (fun k => decide ((x.2.1.band x.2.2 k).phase = .coded))).map
      (fun k => ({ stream := x.1, frame := x.2.1.frame, tile := x.2.2, band := k } : BandRef)))).flatten)

/-- An idle entropy engine starts a measure or code pass that is next; an eclipse pass has its own command. -/
def Dev.entPump (d : Dev) (e : Nat) : Dev :=
  let x := d.entE e
  if x.job.isSome ∨ x.fault.isSome ∨ !d.takesWork (e / 4) then d
  else
    match d.nextPass e with
    | none => d
    | some r =>
      match d.bandOf r with
      | none => d
      | some (_, b) =>
        match b.phase with
        | .queued => (d.onBand r (fun b => { b with phase := .measuring })).onEnt e (fun x => { x with job := some r, pass := .measure, startAt := d.clk })
        | .codeWait => (d.onBand r (fun b => { b with phase := .coding })).onEnt e (fun x => { x with job := some r, pass := .code, startAt := d.clk })
        | _ => d

/-- An idle mirror decoder starts a verification; a playback band in progress stops for it (R187). -/
def Dev.mirPump (d : Dev) (e : Nat) : Dev :=
  let x := d.mirE e
  if x.job.isSome ∨ x.fault.isSome ∨ !d.takesWork (e / 4) then d
  else
    match d.nextVerify e with
    | none => d
    | some r =>
      let d1 := if x.play.isSome then d.bump 0x16 (0x40 * e + 0x24) else d
      (d1.onBand r (fun b => { b with phase := .verifying })).onMir e (fun x => { x with job := some r, play := none, startAt := d.clk })

/-- Let the engines of an index take what is next. -/
def Dev.pump (d : Dev) (e : Nat) : Dev := (d.entPump e).mirPump e

/-- Let every engine take what is next. -/
def Dev.pumpAll (d : Dev) : Dev := (List.range 24).foldl (fun d e => d.pump e) d

/-- Let the engines of a frame's tiles take what is next. -/
def Dev.pumpWork (d : Dev) (w : Work) : Dev := w.tiles.foldl (fun d t => d.pump t.engine) d

/-- Let time pass to the end of work that began at `start`: `dt` ns, and at most its bound (R117). -/
def Dev.workEnds (d : Dev) (start dt bound : Nat) : Dev := d.advanceTo (start + min dt bound)

/-! ### Attempts (R118 to R121, R128) -/

/-- Words that an attempt writes before it ends: all of them, or 16,383 (R128). -/
def Band.wordsTarget (b : Band) : Nat :=
  match b.formed with
  | some f => min f.wordCount 16383
  | none => 0

/-- δ of a first attempt (R162, R240). -/
def Dev.firstDelta (d : Dev) (r : BandRef) (w : Work) (req : Option Nat) : Nat × Bool :=
  if w.mode ≠ 2 then (0, false)
  else
    let c := d.ceiling r.stream
    match req with
    | some q => (min q c, decide (c < q))
    | none =>
      let t := w.tile r.tile
      let last := match t.lastDelta with
        | some x => x
        | none =>
          if w.r38 then 0
          else match d.pastOf r.stream (prevFrame w.frame 2) with
            | some p => p.deltas.getD r.tile 0
            | none => 0
      (min c (last - t.lastK), false)

/-- Start the attempt of a band that is due. -/
def Mach.startAttempt (m : Mach) (r : BandRef) (req : Option Nat) : Mach :=
  match m.dev.bandOf r with
  | none => m
  | some (w, b) =>
    let e := (w.tile r.tile).engine
    let fresh := decide (b.due = .first) && decide (b.pass = 0)
    let (df, changed) := m.dev.firstDelta r w req
    let delta := if fresh then df else b.delta
    let src := m.bandPhotos w r.tile r.band
    let f := formBand (w.geo r.tile r.band) delta (m.reference r.stream w r.tile r.band (decide (delta = 0)))
      (fld (m.dev.reg 0x11 (0x40 * e + 0x0C)) 0 9) (m.dev.motion r.stream w r.tile r.band) src.toArray
    let (check, off, dr) := m.readSource r w b src
    let counted := decide (b.due ≠ .again) && decide (b.pass = 0)
    let kind := if b.pass ≠ 0 ∨ b.due = .again then 3 else if b.due = .second then 2 else 1
    let d := dr.countClamp e changed
    let room := 16384 - d.bqCount e
    let n := min (min f.wordCount 16383) room
    let d1 := d.onBand r (fun b => { b with phase := .forming, delta := delta, formed := some f, check := some check, mismatch := off, asked := false,
                                            delta1 := if fresh then delta else b.delta1,
                                            attempts := if counted then b.attempts + 1 else b.attempts })
    let d2 := d1.onBq e (fun l => l ++ [{ ref := r, words := n, complete := false }])
    let d3 := d2.onPix e (fun p => { p with job := some r, kind := kind, startAt := d.clk, written := n,
                                            gvec := if w.temporal then w.globals.getD r.tile (0, 0) else (0, 0), frame := w.frame })
    let d4 := (d3.modWork r.stream r.frame (fun w => { w with begun := true })).modTile r.stream r.frame r.tile (fun t => { t with lastDelta := some delta })
    { m with dev := d4.onAcb e (fun a => { a with delta := delta, stream := r.stream, tile := r.tile }) }

/-- Let pixel engine `e` start the attempt that is next, if it may (R119, R137, R138). -/
def Mach.attemptStart (m : Mach) (e : Nat) : Mach :=
  let d := m.dev
  if (d.pix e).job.isSome ∨ (d.pix e).fault.isSome ∨ !d.takesWork (e / 4) then m
  else
    match d.nextAttempt e with
    | none => m
    | some r =>
      match d.bandOf r with
      | none => m
      | some (w, b) =>
        if b.asked then m
        else if !d.forecast w r.tile r.band then { m with dev := (d.toEclipse r 3).pump e }
        else if d.policy r.stream ∧ b.due = .first ∧ b.pass = 0 ∧ b.decided = none then
          { m with dev := d.askBand r 0xF0 r.band (.bandStart r) }
        else m.startAttempt r (b.decided.getD none)

/-- More room: a stalled attempt writes on (R128). -/
def Dev.bqResume (d : Dev) (e : Nat) : Dev :=
  match (d.pix e).job with
  | none => d
  | some r =>
    match d.bandOf r with
    | none => d
    | some (_, b) =>
      let n := min (b.wordsTarget - (d.pix e).written) (16384 - d.bqCount e)
      (d.onPix e (fun p => { p with written := p.written + n, startAt := if n = 0 then p.startAt else d.clk })).onBq e
        (fun l => modifyFirst (fun x => decide (x.ref = r)) (fun x => { x with words := x.words + n }) l)

/-- The pixel engine ends an attempt: samples and busy time are counted (R36). -/
def Dev.pixEnds (d : Dev) (e dt : Nat) (r : BandRef) (w : Work) (b : Band) : Dev :=
  let bound := nsOfClocks (ceilDiv (w.photos r.tile r.band) 2) (d.fPe e)
  let d1 := d.workEnds (d.pix e).startAt dt bound
  let d2 := (d1.count (tileStat e 0x00) (w.photos r.tile r.band)).count (tileStat e 0x38) (d1.clk - (d.pix e).startAt)
  let d3 := if b.due = .second ∧ b.pass = 0 then d2.count (tileStat e 0x18) else d2
  d3.onPix e (fun p => { p with job := none, written := 0 })

/-- The attempt of pixel engine `e` is written completely (R120 step 3). -/
def Dev.attemptComplete (d : Dev) (e dt : Nat) : Dev :=
  match (d.pix e).job with
  | none => d
  | some r =>
    match d.bandOf r with
    | none => d
    | some (w, b) =>
      match b.formed with
      | none => d
      | some f =>
        if f.wordCount ≤ 16383 ∧ (d.pix e).written = f.wordCount ∧ (d.pix e).fault = none then
          let d1 := (d.pixEnds e dt r w b).onBq e (fun l => modifyFirst (fun x => decide (x.ref = r)) (fun x => { x with complete := true }) l)
          (d1.onBand r (fun b => { b with phase := .queued })).pump e
        else d

/-- The attempt of pixel engine `e` would exceed the queue (R128, R164). -/
def Dev.queueFull (d : Dev) (e dt : Nat) : Dev :=
  match (d.pix e).job with
  | none => d
  | some r =>
    match d.bandOf r with
    | none => d
    | some (w, b) =>
      match b.formed with
      | none => d
      | some f =>
        if 16383 < f.wordCount ∧ (d.pix e).written = 16383 ∧ (d.pix e).fault = none then
          (((d.pixEnds e dt r w b).bump 0x12 (0x20 * e + 0x0C)).toEclipse r 2).pump e
        else d

/-! ### Measure pass (R120, R158, R163 to R166) -/

/-- Sizes of a formed band under the frame tables and the flat table (R120). -/
def sizesOf (w : Work) (f : Formed) : Option Nat × Option Nat :=
  ((w.tables.bind (fun ts => f.sections ts)).map Sections.size, (f.sections flatTables).map Sections.size)

/-- The smaller size, and whether it is that of the flat table; the frame table wins a tie (R120). -/
def smallerSize : Option Nat × Option Nat → Nat × Bool
  | (some a, some b) => if a ≤ b then (a, false) else (b, true)
  | (some a, none) => (a, false)
  | (none, some b) => (b, true)
  | (none, none) => (0, true)

/-- Band-queue words that a pass read with a corrected error (R129). -/
def Dev.bqCorrected (d : Dev) (e ce : Nat) (r : BandRef) : Dev :=
  if ce = 0 then d
  else ((d.bump 0x12 (0x20 * e + 0x04) ce).count (tileStat e 0x30) ce).raise (16 + 16 * e + 1) r.arg

/-- Later bands of a tile formed ahead start anew after a write rewind to band `r` (R121). -/
def Dev.rewindAfter (d : Dev) (r : BandRef) (uncounted : Bool) : Dev :=
  match d.work r.stream r.frame with
  | none => d
  | some w =>
    let later := (List.range (w.tile r.tile).bands.length).filter (fun k =>
      decide (r.band < k) && decide ((w.band r.tile k).pass = 0) &&
      (decide ((w.band r.tile k).phase = .forming) || decide ((w.band r.tile k).phase = .queued) || decide ((w.band r.tile k).phase = .measuring)))
    let d1 := later.foldl (fun d k =>
      let q : BandRef := { r with band := k }
      (d.stopBand q).onBand q (fun b =>
        if uncounted then { b with phase := .waiting, due := .again }
        else { b with phase := .waiting, due := .first, attempts := 0, decided := none })) d
    d1.bqRewind r

/-- A second attempt at δ' (R165, R166). -/
def Dev.secondAttempt (d : Dev) (r : BandRef) (x : Nat) (req : Option Nat) : Dev :=
  match d.bandOf r with
  | none => d
  | some (_, b) =>
    let e := d.engineOf r
    let c := d.ceiling r.stream
    let d2 := match req with
      | some q => max (b.delta + 1) (min q c)
      | none => deltaSearch x b.delta c
    let changed := match req with
      | some q => decide (q ≠ d2)
      | none => false
    let dv := (d.rewindAfter r false).onBand r (fun b => { b with phase := .waiting, due := .second, delta := d2, asked := false })
    (dv.countClamp e changed).pump e

/-- The sequencer's decision after the measure pass (R163). -/
def Dev.measureDecided (d : Dev) (r : BandRef) (size : Nat) (req : Option Nat) : Dev :=
  let d0 := (d.onBand r (fun b => { b with asked := false })).allowSet r req
  match d0.bandOf r with
  | none => d0
  | some (w, b) =>
    let e := d0.engineOf r
    let c := d0.ceiling r.stream
    let second := decide (b.attempts = 1) && w.budgeted && decide (b.delta < c)
    match measureRow size b.allow (w.cost r.tile r.band 0) w.mode second (d0.forecast w r.tile r.band) with
    | 1 =>
      let flat := match b.formed with
        | some f => (smallerSize (sizesOf w f)).2
        | none => true
      (d0.onBand r (fun b => { b with phase := .codeWait, flat := flat })).pump e
    | 3 =>
      let x := excess size b.allow (w.photos r.tile r.band)
      if d0.policy r.stream then d0.askBand r 0xF2 x (.overshoot r size x) else d0.secondAttempt r x none
    | 4 => (d0.toEclipse r 3).pump e
    | _ => (d0.toEclipse r 2).pump e

/-- The measure pass of entropy engine `e` ends; `ce` words were corrected (R120, R158, R163). -/
def Dev.measureDone (d : Dev) (e dt ce : Nat) : Dev :=
  match (d.entE e).job with
  | none => d
  | some r =>
    match d.bandOf r with
    | none => d
    | some (w, b) =>
      match b.formed with
      | none => d
      | some f =>
        if (d.entE e).pass ≠ .measure ∨ (d.entE e).fault.isSome then d
        else
          let d1 := d.workEnds (d.entE e).startAt dt (nsOfClocks (ceilDiv (w.photos r.tile r.band) 4 + 64) (2 * d.fPe e))
          let d2 := ((d1.bqCorrected e ce r).bump 0x13 (0x40 * e + 0x0C)).count (tileStat e 0x10)
          let d3 := d2.onEnt e (fun x => { x with job := none, pass := .idle })
          if b.pass ≠ 0 then (d3.onBand r (fun b => { b with phase := .codeWait })).pump e
          else
            let size := (smallerSize (sizesOf w f)).1
            let d4 := d3.allowCompute r
            if d4.policy r.stream then (d4.askBand r 0xF1 size (.measure r size)).pump e
            else d4.measureDecided r size none

/-! ### Code and eclipse passes (R111, R120, R124, R135, R167, R172, R184) -/

/-- ENT_LAST of a band that the entropy engine has finished (R144, R145). -/
def entLast (b : Band) (band : Nat) (eclipse : Bool) : Nat :=
  let cause := if 2 ≤ b.pass then 5 else b.cause % 8
  2 ^ 29 * cause + 2 ^ 27 * min b.attempts 2 + 2 ^ 22 * (b.depth % 32) + 2 ^ 17 * (b.delta % 32) + 2 ^ 16 * b2n (b.flat && !eclipse) +
    2 ^ 15 * b2n eclipse + band % 512

/-- Flags of a band's final coding (R87, R172, R184). -/
def Band.wantFlags (b : Band) (mode : Nat) : Nat :=
  let fill := if b.filled then Flag.filled else 0
  let rec_ := if 2 ≤ b.attempts then Flag.recoded else 0
  if 2 ≤ b.pass then Flag.fallback + rec_ + fill
  else
    match b.cause with
    | 0 | 1 => rec_ + fill + (if mode = 1 ∧ 0 < b.delta then Flag.deltaRaised else 0)
    | 2 => Flag.eclipse + Flag.budget + rec_ + fill
    | 3 | 4 => Flag.eclipse + Flag.guard_ + rec_ + fill
    | _ => fill

/-- A coded band is written into the stream's chunk buffers, and its size charged to the tile in pass 0 (R124, R156). -/
def Dev.stored (d : Dev) (r : BandRef) (bytes : List Byte) (flags k : Nat) : Dev :=
  match d.bandOf r with
  | none => d
  | some (_, b) =>
    let d1 := d.onBand r (fun b =>
      if b.pass = 0 then { b with phase := .coded, bytes := bytes, size := bytes.length, flags := flags }
      else { b with phase := .coded, bytes := bytes })
    if b.pass = 0 then
      d1.modTile r.stream r.frame r.tile (fun t => { t with spent := t.spent + bytes.length, lastK := k })
    else d1

/-- The code pass of entropy engine `e` ends (R120 steps 5 and 6). -/
def Dev.codeDone (d : Dev) (e dt ce : Nat) : Dev :=
  match (d.entE e).job with
  | none => d
  | some r =>
    match d.bandOf r with
    | none => d
    | some (w, b) =>
      match b.formed with
      | none => d
      | some f =>
        if (d.entE e).pass ≠ .code ∨ (d.entE e).fault.isSome then d
        else
          let ts := if b.flat then flatTables else w.tables.getD flatTables
          match f.sections ts, ransBytes ts f.syms with
          | some sec, some rans =>
            let n := w.photos r.tile r.band
            let bound := nsOfClocks (max (ceilDiv n 2) (ceilDiv (8 * rans.length) 16) + 80) (2 * d.fPe e)
            let b1 : Band := { b with cause := if 2 ≤ b.attempts then 1 else 0, depth := 0 }
            let head : BandHead := { band := r.band, tile := r.tile, eclipse := false, flat := b.flat, delta := b.delta,
                                     flags := b1.wantFlags w.mode, rows := b.rows.length, check := b.check.getD 0 }
            let bytes := bandSegment head sec
            let d1 := ((d.workEnds (d.entE e).startAt dt bound).bqCorrected e ce r).bqDrop r
            let d2 := d1.onBand r (fun b => { b with cause := b1.cause, depth := 0 })
            let d3 := d2.stored r bytes (b1.wantFlags w.mode) (b2n (decide (4 * bytes.length ≤ 3 * b.allow)))
            (d3.onEnt e (fun x => { x with job := none, pass := .idle, last := entLast b1 r.band false })).pump e
          | _, _ => d

/-- Start the eclipse pass of a band at its depth (R167). -/
def Mach.startEclipse (m : Mach) (r : BandRef) : Mach :=
  match m.dev.bandOf r with
  | none => m
  | some (w, b) =>
    let (check, off, dr) := m.readSource r w b (m.bandPhotos w r.tile r.band)
    let e := (w.tile r.tile).engine
    let d1 := dr.onBand r (fun b => { b with phase := .eclipsing, check := some check, mismatch := off, asked := false, depthSet := true,
                                             depth := if 2 ≤ b.pass then 0 else b.depth })
    let d2 := d1.modWork r.stream r.frame (fun w => { w with begun := true })
    { m with dev := d2.onEnt e (fun x => { x with job := some r, pass := .eclipse, startAt := d2.clk }) }

/-- The depth of an eclipse band is fixed, by request or by the default policy, and its pass starts (R167, R168). -/
def Mach.eclipseDecided (m : Mach) (r : BandRef) (fresh : Bool) (allow depth : Option Nat) : Mach :=
  let d0 := if fresh then m.dev.allowSet r allow else m.dev
  match d0.bandOf r with
  | none => { m with dev := d0 }
  | some (w, b) =>
    let dflt := w.defaultDepth r.tile r.band (d0.reserveDepth r.stream w.depth) b.allow
    let e := match depth with
      | some q => if w.mode ≠ 0 ∧ q + 4 ≤ w.depth ∧ ((w.cost r.tile r.band q : Nat) : Int) ≤ b.limit then q else dflt
      | none => dflt
    let changed := match depth with
      | some q => decide (q ≠ e)
      | none => false
    let d1 := (d0.onBand r (fun b => { b with depth := e, depthSet := true, asked := false })).countClamp (d0.engineOf r) changed
    if (d1.entE (d1.engineOf r)).job.isSome then { m with dev := d1 } else Mach.startEclipse { m with dev := d1 } r

/-- Let entropy engine `e` start the eclipse pass that is next (R139, R158, R167, R184). -/
def Mach.eclipseStart (m : Mach) (e : Nat) : Mach :=
  let d := m.dev
  if (d.entE e).job.isSome ∨ (d.entE e).fault.isSome ∨ !d.takesWork (e / 4) then m
  else
    match d.nextPass e with
    | none => m
    | some r =>
      match d.bandOf r with
      | none => m
      | some (w, b) =>
        if b.phase ≠ .eclipseWait ∨ b.asked then m
        else if b.pass = 1 ∧ !d.forecastEclipse w r.tile r.band then
          Mach.startEclipse { m with dev := d.onBand r (fun b => { b with pass := 2 }) } r
        else if b.pass ≠ 0 ∨ b.depthSet ∨ b.cause = 6 then m.startEclipse r
        else
          let fresh := !b.allowed
          let d1 := if fresh then d.allowCompute r else d
          if d1.policy r.stream then { m with dev := d1.askBand r 0xF3 b.cause (.eclipse r fresh) }
          else Mach.eclipseDecided { m with dev := d1 } r fresh none none

/-- The eclipse pass of entropy engine `e` ends (R111, R135). -/
def Mach.eclipseDone (m : Mach) (e dt : Nat) : Mach :=
  let d := m.dev
  match (d.entE e).job with
  | none => m
  | some r =>
    match d.bandOf r with
    | none => m
    | some (w, b) =>
      if (d.entE e).pass ≠ .eclipse ∨ (d.entE e).fault.isSome then m
      else
        let n := w.photos r.tile r.band
        let payload := eclipseBytes w.depth b.depth (m.bandPhotos w r.tile r.band)
        let flags := b.wantFlags w.mode
        let head : BandHead := { band := r.band, tile := r.tile, eclipse := true, depth := b.depth, flags := flags, rows := b.rows.length,
                                 check := b.check.getD 0, dataLen := payload.length }
        let d1 := d.workEnds (d.entE e).startAt dt (nsOfClocks (ceilDiv n 8 + 64) (2 * d.fPe e))
        let d2 := d1.stored r (marker 3 ++ head.bytes ++ payload) flags 0
        { m with dev := (d2.onEnt e (fun x => { x with job := none, pass := .idle, last := entLast b r.band true })).pump e }

end Sys2Proof.Machine
end

