-- ==== Sys2Proof/Machine/Verify.lean ====
section
/-! DEFINITION. Mirror verification (R178 to R185, R606), hand-over and the end of a frame (R70, R80 to R88, R607), dropped
frames (R100, R171, R185), tables and tile budgets (R37, R154, R155, R604), the deadline guard (R28, R136 to R138) and the
recovery of engine faults (R140 to R142). -/

namespace Sys2Proof.Machine
open Sys2Proof

/-! ### What a verification pass finds (R180, R606) -/

/-- The outcome of a verification pass: its condition and whether the error bound failed, both clear for a pass that passes;
with the largest error and the photosites decoded. -/
structure Verdict where
  cond : Nat := 0
  bound : Bool := false
  maxErr : Nat := 0
  photos : List Nat := []
  deriving DecidableEq, Repr

/-- Bits of stored bytes turned over by the environment: bit `p` is bit `p % 8` of byte `p / 8`. -/
def flipBits (l : List Byte) (flips : List Nat) : List Byte :=
  flips.foldl (fun l p => modAt l (p / 8) (fun b => b ^^^ (1 <<< (p % 8)))) l

/-- Largest absolute difference of two lists of photosites. -/
def maxDiff (a b : List Nat) : Nat := (List.zipWith (fun x y => max x y - min x y) a b).foldl max 0

/-- Error that a band may have: δ, or half the step of its eclipse depth (R180). -/
def BandHead.errorBound (h : BandHead) : Nat :=
  if h.eclipse then (if h.depth = 0 then 0 else 2 ^ (h.depth - 1)) else h.delta

/-- The verification checks in the order of R606, over the band as stored and as the engine wrote it. -/
def Mach.verdict (m : Mach) (r : BandRef) (w : Work) (b : Band) (stored : List Byte) : Verdict :=
  let bands := (w.tile r.tile).bands.length
  if stored.take 4 ≠ marker 3 then { cond := Cond.marker }
  else
    match parseBandHead w.depth w.height w.tiles.length bands (stored.drop 4) with
    | none => { cond := Cond.bandHeader }
    | some h =>
      if slice stored 4 8 ≠ slice b.bytes 4 8 ∨ slice stored 16 10 ≠ slice b.bytes 16 10 then { cond := Cond.bandHeader }
      else if b.pass = 1 ∧ stored.length ≠ b.size then { cond := Cond.length }
      else
        let ref := m.reference r.stream w r.tile r.band (decide (h.delta = 0))
        match decodeBand (w.geo r.tile r.band) w.frame h w.temporal ref w.tables (stored.drop 28) with
        | .error c => { cond := c }
        | .ok photos =>
          if h.errorBound = 0 then { cond := if b.mismatch then Cond.sourceCheck else 0, photos := photos }
          else
            let src := m.bandPhotos w r.tile r.band
            let (_, off, _) := m.readSource r w b src
            let err := maxDiff photos src
            if b.mismatch || off then { cond := Cond.sourceCheck, maxErr := err, photos := photos }
            else { bound := decide (h.errorBound < err), maxErr := err, photos := photos }

/-- Whether a pass leaves a reconstruction that differs from its source (δ > 0 or e > 0). -/
def Band.lossy (b : Band) : Bool :=
  decide (b.pass < 2) && (if b.cause < 2 then decide (0 < b.delta) else decide (0 < b.depth))

/-! ### Dropped frames (R100, R171, R185, R269) -/

/-- Report and record a frame dropped: event, black box, log page, counter (R61, R171, R185, R269, R433). -/
def Dev.reportDrop (d : Dev) (s n reason : Nat) : Dev :=
  let d1 := d.postEvent 0x04 0 s
  let rec_ := d1.stamp ++ leBytes 4 n ++ leBytes 1 s ++ leBytes 1 reason ++ zeros 10
  let d2 := (d1.onHost (fun h => { h with logDropped := h.logDropped.put 1024 rec_ })).stamped
  (d2.record .main 6 0xFF s n (leBytes 1 reason)).count (streamStat s 0x20)

/-- Bytes of a frame's slot: B in mode 2, W_f in mode 3, none in the others (R151, R308, R354). -/
def Dev.slotBytes (d : Dev) (s : Nat) (w : Work) : Nat :=
  let budget := if w.budget = 0 then (d.reg 0x15 (0x40 * s + 0x04)).toNat else w.budget
  if w.mode = 2 then budget
  else if w.mode = 3 then worstFrame (gridCounts w.cfa w.height (w.tiles.map (fun t => t.width))) w.depth 3 (d.metaMax s)
  else 0

/-- A dropped frame's place among the finished ones. -/
def Dev.droppedOut (d : Dev) (s : Nat) (w : Work) (reason : Nat) : OutFrame :=
  { frame := w.frame, stamp := w.stamp, reason := reason, mode := w.mode, tiles := w.tiles.length, slot := d.slotBytes s w, at_ := w.at_ }

/-- Put a frame among the finished ones in frame order. -/
def Cap.putOut (c : Cap) (f : OutFrame) : Cap :=
  let key : OutFrame → Nat := fun x => (2 ^ 32 + x.frame - c.first) % 2 ^ 32
  { c with outq := c.outq.filter (fun x => decide (key x < key f)) ++ [f] ++ c.outq.filter (fun x => decide (key f < key x)) }

/-- Keep what a frame leaves, the last three frames at most. -/
def Cap.putPast (c : Cap) (p : Past) : Cap :=
  let l := c.past ++ [p]
  { c with past := l.drop (l.length - 3) }

/-- Stop every engine that works on a frame. -/
def Dev.stopWork (d : Dev) (s : Nat) (w : Work) : Dev :=
  (List.range w.tiles.length).foldl (fun d t =>
    (List.range (w.tile t).bands.length).foldl (fun d k =>
      let r : BandRef := { stream := s, frame := w.frame, tile := t, band := k }
      let d1 := (d.stopBand r).bqDrop r
      let e := (w.tile t).engine
      if (d1.mirE e).job = some r then d1.onMir e (fun x => { x with job := none }) else d1) d) d

/-! ### Tables and tile budgets (R37, R38, R154, R155, R604) -/

/-- Frame budget F of a work (R154). -/
def Dev.frameBudget (d : Dev) (s : Nat) (w : Work) : Nat :=
  if w.mode = 2 then w.budget else (d.reg 0x15 (0x40 * s + 0x04)).toNat

/-- TABLE_LEN of a frame (R148). -/
def Work.tableBytes (w : Work) : List Byte :=
  if w.mode = 3 then []
  else match w.tables with
    | some ts => tableSection ts
    | none => []

/-- Photosites of each tile. -/
def Work.tilePhotos (w : Work) : List Nat :=
  (List.range w.tiles.length).map (fun t => sumBy (w.photos t) (List.range (w.tile t).bands.length))

/-- Weights of the default policy: the bytes of frame n - 2, or the photosites in the cases of R38 (R155). -/
def Dev.defaultWeights (d : Dev) (s : Nat) (w : Work) : List Nat :=
  if w.r38 then w.tilePhotos
  else match d.pastOf s (prevFrame w.frame 2) with
    | some p => p.weights
    | none => w.tilePhotos

/-- Divide the budget of a frame over its tiles by weight (R154). -/
def Dev.divide (d : Dev) (s n : Nat) (weights : List Nat) : Dev :=
  match d.work s n with
  | none => d
  | some w =>
    if !w.budgeted then d.modWork s n (fun w => { w with divided := true })
    else
      let er := d.reserveDepth s w.depth
      let margin : Nat → Nat := fun t => ((List.range (w.tile t).bands.length).map (fun k => w.cost t k 0)).foldl max 0
      let reserves := (List.range w.tiles.length).map (fun t =>
        sumBy (fun k => w.cost t k er) (List.range (w.tile t).bands.length) + margin t)
      let hf := overhead w.tiles.length w.tableBytes.length (d.metaMax s)
      let ts := tileBudgets (d.frameBudget s w) hf reserves (weightsOf w.tilePhotos weights)
      d.modWork s n (fun w => { w with divided := true, tiles := (List.range w.tiles.length).map (fun t =>
        { w.tile t with budget := ts.getD t 0, margin := margin t }) })

/-- The customer's weights where the handler wrote them, the default ones elsewhere (R240, R244). -/
def Dev.mixWeights (d : Dev) (s : Nat) (w : Work) (req : Tbl (Option Nat)) : List Nat :=
  let dflt := d.defaultWeights s w
  (List.range w.tiles.length).map (fun t =>
    match Tbl.get (fun _ => none) req t with
    | some x => x
    | none => dflt.getD t 0)

/-- The histogram of a past frame as rows by context. -/
def Past.rows (p : Past) : List (List Nat) :=
  (List.range 64).map (fun c => (List.range 32).map (fun k => Tbl.get (fun _ => 0) p.hist (32 * c + k)))

/-- The sequencer has built the tables of the frame in work that waits for them, and the budgets are divided, or the
customer's handler is asked for weights (R37, R154, R243, R604). -/
def Dev.tablesReady (d : Dev) (s dt : Nat) : Dev :=
  match (d.cap s).bind (fun c => c.works.find? (fun w => w.tables.isNone && !w.skip && !w.gone)) with
  | none => d
  | some w =>
    let d0 := d.advanceTo (d.tick.lastClk + min dt 20000)
    let ts := if w.r38 then defaultTables
      else match d0.pastOf s (prevFrame w.frame 2) with
        | some p => buildTables p.rows
        | none => defaultTables
    let d1 := d0.modWork s w.frame (fun w => { w with tables := some ts })
    let n := w.frame
    if w.budgeted ∧ d1.policy s then
      d1.seqPost 24 { op := 0xF7, arg := w.tiles.length, ref := some { stream := s, frame := n, tile := 0, band := 0 },
                      dec := some (.statistics s n) }
    else (d1.divide s n (d1.defaultWeights s w)).pumpAll

/-! ### Anchors after a drop (R100) -/

/-- Make the first frame whose coding has not begun an anchor; the frames after it count from it. -/
def rebase : List Work → List Work × Option Nat
  | [] => ([], none)
  | w :: r =>
    if !w.begun && !w.skip then
      let a : Work := { w with temporal := false, distance := 0, r38 := true, globals := w.globals.map (fun _ => (0, 0)),
                               tables := w.tables.map (fun _ => defaultTables) }
      let later := r.map (fun x => if x.temporal then { x with distance := (2 ^ 32 + x.frame - w.frame) % 2 ^ 32 } else x)
      (a :: later, some w.frame)
    else let (l, f) := rebase r; (w :: l, f)

/-- After a drop of a frame whose coding had begun (R100). -/
def Dev.anchorNext (d : Dev) (s : Nat) : Dev :=
  match d.cap s with
  | none => d
  | some c =>
    let (l, f) := rebase c.works
    match f with
    | none => d.setCap s (some { c with forceAnchor := true })
    | some n =>
      let dist := match l.getLast? with
        | some x => if x.temporal then x.distance else 0
        | none => 0
      let d1 := d.setCap s (some { c with works := l, sinceAnchor := dist })
      match d1.work s n with
      | some w => if w.divided then d1.divide s n (d1.defaultWeights s w) else d1
      | none => d1

/-- A frame is dropped after its coding began: its engines stop, its slot is recorded as dropped, and what it staged goes as
R15 lets it (R100, R171, R185, R310). -/
def Dev.dropWork (d : Dev) (s n reason : Nat) : Dev :=
  match d.work s n with
  | none => d
  | some w =>
    let d1 := (d.stopWork s w).modWork s n (fun w => { w with skip := true, gone := true })
    let d2 := (d1.reportDrop s n reason).modCap s (fun c =>
      (c.putOut (d.droppedOut s w reason)).putPast
        { frame := n, coded := false })
    ((d2.anchorNext s).sweep s).pumpAll

/-! ### The end of a frame (R70, R80 to R88, R607) -/

/-- Customer metadata segments by thread (R241, R607). -/
def Work.customSegs (w : Work) : List (List Byte) :=
  w.custom.map (fun e => metaSegment ((e.2.map (fun i => metaItem i.1 i.2)).flatten))

/-- Segments of embedded packets: each holds as many items as fit in 262,144 bytes. -/
def embeddedSegs : List Byte → List (List Byte) → List (List Byte)
  | cur, [] => if cur.isEmpty then [] else [metaSegment cur]
  | cur, p :: r =>
    let it := metaItem 0x0002 p
    if cur.isEmpty ∨ cur.length + it.length ≤ 262144 then embeddedSegs (cur ++ it) r
    else metaSegment cur :: embeddedSegs it r

/-- The metadata segments of a frame in the order they are tried (R607). -/
def Work.metaSegs (w : Work) : List (List Byte) :=
  (if w.sof then [metaSegment (metaItem 0x0001 (leBytes 4 (w.counter % 2 ^ 24)))] else []) ++ embeddedSegs [] w.embedded ++ w.customSegs

/-- Segments that pass both limits, and how many did not (R149, R607). -/
def takeMeta (limit : Nat) : Nat → Nat → List (List Byte) → List (List Byte) × Nat
  | _, _, [] => ([], 0)
  | n, used, s :: r =>
    if n < 16 ∧ used + s.length ≤ limit then let (l, k) := takeMeta limit (n + 1) (used + s.length) r; (s :: l, k)
    else let (l, k) := takeMeta limit n used r; (l, k + 1)

/-- Final coding of a band is predictive with δ > 0. -/
def Band.deltaBand (b : Band) : Bool := decide (b.cause < 2 ∧ b.pass < 2 ∧ 0 < b.delta)

/-- The bands of a frame in the order of R70. -/
def Work.allBands (w : Work) : List Band := (w.tiles.map (fun t => t.bands)).flatten

/-- The bytes of a coded frame (R70). -/
def Dev.frameBytes (d : Dev) (s : Nat) (w : Work) (c : Cap) (metas : List (List Byte)) : List Byte × Trailer :=
  let tab := w.tableBytes
  let widths := w.tiles.map (fun t => t.width)
  let tiles := (List.range w.tiles.length).map (fun t =>
    let x := w.tile t
    tileSegment t x.bands.length (sumBy id (widths.take t)) x.width ++ (x.bands.map (fun b => b.bytes)).flatten)
  let head : FrameHead :=
    { frame := w.frame, stamp := w.stamp, width := sumBy id widths, height := w.height, cfa := w.cfa, depth := w.depth, mode := w.mode,
      temporal := w.temporal, anchor := c.anchor, distance := w.distance, ceiling := d.ceiling s,
      budget := if w.mode = 2 then w.budget else 0, stream := s, tableLen := tab.length, tileW := widths,
      checks := (List.range w.tiles.length).map (fun t => tileCheck w.frame t ((w.tile t).bands.map (fun b => b.check.getD 0))),
      tileBytes := tiles.map (fun l => l.length) }
  let body := marker 1 ++ head.bytes ++ tab ++ metas.flatten ++ tiles.flatten
  let bs := w.allBands
  let has : Nat → Nat := fun f => (bs.filter (fun b => decide (b.flags &&& f ≠ 0))).length
  let tr : Trailer :=
    { frame := w.frame, flags := bs.foldl (fun a b => a ||| b.flags) 0, bands := bs.length, eclipse := has Flag.eclipse,
      recoded := has Flag.recoded, fallback := has Flag.fallback, bytes_ := body.length + 28,
      deltaBands := (bs.filter Band.deltaBand).length }
  (body ++ marker 4 ++ tr.bytes, tr)

/-- Count the class symbols of a band's final predictive coding (R604). -/
def countSyms (h : Tbl Nat) (b : Band) : Tbl Nat :=
  if b.cause < 2 ∧ b.pass < 2 then
    match b.formed with
    | some f => f.syms.foldl (fun h s => Tbl.set (fun _ => 0) h (32 * s.ctx + s.cls) (Tbl.get (fun _ => 0) h (32 * s.ctx + s.cls) + 1)) h
    | none => h
  else h

/-- Sum of the MODE 8 vectors of plane 0 of a tile: count, x, y (R133). -/
def Tile.vectorSum (t : Tile) : Nat × Int × Int :=
  ((t.bands.map (fun b => b.planeModes)).flatten).foldl (fun a m => if m.mode = 8 then (a.1 + 1, a.2.1 + m.vx, a.2.2 + m.vy) else a) (0, 0, 0)

/-- What a coded frame leaves for later ones (R37, R131, R133, R155, R162). -/
def Work.leaves (w : Work) : Past :=
  { frame := w.frame, coded := true, uncompressed := decide (w.mode = 3), tileW := w.tiles.map (fun t => t.width),
    hist := w.allBands.foldl countSyms [],
    weights := (List.range w.tiles.length).map (fun t =>
      16 + sumBy (fun k => let b := w.band t k; if 2 ≤ b.cause ∨ 2 ≤ b.pass then w.cost t k 0 else b.bytes.length)
        (List.range (w.tile t).bands.length)),
    eclipses := w.tiles.map (fun t => (t.bands.filter (fun b => decide (b.flags &&& Flag.eclipse ≠ 0))).length),
    deltas := w.tiles.map (fun t => t.lastDelta.getD 0),
    vectors := w.tiles.map Tile.vectorSum,
    modes := w.tiles.map (fun t => t.bands.map Band.planeModes) }

/-- Every band of every tile has been handed over: the frame is written and goes to the media (R27, R123). -/
def Dev.finishFrame (d : Dev) (s n : Nat) : Dev :=
  match d.work s n, d.cap s with
  | some w, some c =>
    if w.gone ∨ !(w.allBands.all (fun b => decide (b.phase = .handed))) then d
    else
      let (metas, lost) := takeMeta (d.metaMax s) 0 0 w.metaSegs
      let (bytes, tr) := d.frameBytes s w c metas
      let out : OutFrame := { frame := n, stamp := w.stamp, mode := w.mode, bytes := bytes, flags := tr.flags, tiles := w.tiles.length,
                              eclipse := tr.eclipse, fallback := tr.fallback, slot := d.slotBytes s w, at_ := w.at_ }
      let d1 := if lost = 0 then d else d.bump 0x15 (0x40 * s + 0x20) lost
      let d2 := d1.modCap s (fun c => (c.putOut out).putPast w.leaves)
      let d3 := (d2.modWork s n (fun w => { w with gone := true })).count (streamStat s 0x00) bytes.length
      let d4 := d3.count (streamStat s 0x08)
      if tr.flags = 0 then d4 else d4.count (streamStat s 0x18)
  | _, _ => d

/-- Hand over the passed bands of a tile in order (R123), counting each (R36). -/
def Dev.handOver (d : Dev) (r : BandRef) : Nat → Dev
  | 0 => d
  | k + 1 =>
    match d.work r.stream r.frame with
    | none => d
    | some w =>
      match (List.range (w.tile r.tile).bands.length).find? (fun i => decide ((w.band r.tile i).phase ≠ .handed)) with
      | none => d
      | some i =>
        let b := w.band r.tile i
        if b.phase ≠ .passed then d
        else
          let e := (w.tile r.tile).engine
          let d1 := (d.onBand { r with band := i } (fun b => { b with phase := .handed })).count (tileStat e 0x08)
          let d2 := if b.flags &&& Flag.eclipse ≠ 0 then d1.count (tileStat e 0x20) else d1
          (if b.deltaBand then d2.count (streamStat r.stream 0x30) else d2).handOver r k

/-! ### VERIFY_DONE (R181 to R185) -/

/-- A band is stored with VERIFY_FALLBACK: charge the margin, or overrun it (R170, R171). The second value says that the frame
is to be dropped. -/
def Dev.chargeFallback (d : Dev) (r : BandRef) (w : Work) (b : Band) : Dev × Bool :=
  let e := (w.tile r.tile).engine
  let again := (w.tile r.tile).marginUsed
  let d1 := d.modTile r.stream r.frame r.tile (fun t => { t with spent := t.spent + w.cost r.tile r.band 0 - b.size, marginUsed := true })
  let d2 := (d1.bump 0x16 (0x40 * e + 0x14)).count (streamStat r.stream 0x28)
  let d3 := d2.onAcb e (fun a => if a.stream = r.stream ∧ a.tile = r.tile then { a with marginUsed := true } else a)
  if w.budgeted ∧ again then
    ((d3.bump 0x15 (0x40 * r.stream + 0x1C)).raise 400 (2 ^ 16 * r.stream + r.tile), decide (w.mode = 2))
  else (d3, false)

/-- Buffers for the reconstruction of a lossy band where the stream uses references; none while the pool refuses (R134, R182,
R277). -/
def Dev.refBuffers (d : Dev) (r : BandRef) (w : Work) (b : Band) : Option (List Nat) × Dev :=
  let uses := match d.cap r.stream with
    | some c => decide (1 < c.anchor)
    | none => false
  if uses && b.lossy then
    let need := ceilDiv (w.bandBytes r.tile r.band) 65536
    let (l, d1) := d.grantMany (d.tileCtx r.stream r.tile) (36 + (w.tile r.tile).engine) need
    if l.length < need then (none, d1.freeMany l) else (some l, d1)
  else (some [], d)

/-- MIR_LAST of a pass. -/
def mirLast (r : BandRef) (pass : Nat) (v : Verdict) : Nat :=
  2 ^ 31 * b2n (decide (v.cond = 0) && !v.bound) + 2 ^ 29 * (pass % 4) + 2 ^ 24 * (v.cond % 32) + 2 ^ 23 * b2n v.bound +
    2 ^ 17 * (r.stream % 64) + 2 ^ 12 * (r.tile % 32) + r.band % 512

/-- A band passes. -/
def Mach.bandPass (m : Mach) (r : BandRef) (w : Work) (b : Band) (stored : List Byte) (photos : List Nat) (refs : List Nat) : Mach :=
  let d1 := m.dev.onBand r (fun b => { b with phase := .passed, bytes := stored, refBufs := refs,
                                              flags := b.wantFlags w.mode, cause := if 2 ≤ b.pass then 5 else b.cause })
  let (d2, drop) := if 2 ≤ b.pass then d1.chargeFallback r w b else (d1, false)
  if drop then { m with dev := d2.dropWork r.stream r.frame 2 }
  else
    let d3 := (d2.handOver r 512).finishFrame r.stream r.frame
    let m1 := Mach.bufWrite { m with dev := d3 } refs 0 (if refs.isEmpty then [] else photoBytes photos) 64
    { m1 with dev := (m1.dev.sweep r.stream).pumpAll }

/-- A pass fails: the next pass of R184, or the drop of R185. -/
def Dev.bandFail (d : Dev) (r : BandRef) (b : Band) : Dev :=
  let e := d.engineOf r
  let d1 := ((d.bump 0x16 (0x40 * e + 0x10)).count (tileStat e 0x28)).tellBand r 0xF4 b.pass
  match b.pass with
  | 0 =>
    let d2 := d1.raise (16 + 16 * e + 7) r.arg
    (d2.onBand r (fun b =>
      if b.cause < 2 then { b with pass := 1, phase := .waiting, due := .again }
      else { b with pass := 1, phase := .eclipseWait })).pump e
  | 1 => ((d1.raise (16 + 16 * e + 8) r.arg).onBand r (fun b => { b with pass := 2, phase := .eclipseWait })).pump e
  | 2 => (d1.onBand r (fun b => { b with pass := 3, phase := .eclipseWait })).pump e
  | _ => ((d1.bump 0x16 (0x40 * e + 0x18)).raise 401 r.frame).dropWork r.stream r.frame 3

/-- Clocks that the verification of a band takes at most (R117). -/
def Work.verifyClocks (w : Work) (r : BandRef) (b : Band) : Nat :=
  let n := w.photos r.tile r.band
  if b.cause < 2 ∧ b.pass < 2 then max (ceilDiv n 2) (ceilDiv (8 * rd b.bytes 16 4) 16) + 80 else ceilDiv n 8 + 64

/-- Verification of the band in mirror decoder `e` ends after `dt` ns. `flips` are bits of the stored band that the
environment has turned over, `ecc` the DRAM errors that its reads met, and `segFail` how often a frame, table, metadata, tile or
end segment of its frame failed the check of R183. -/
def Mach.verifyDone (m : Mach) (e dt segFail : Nat) (flips : List Nat) (ecc : List (Nat × Bool)) : Mach :=
  match (m.dev.mirE e).job with
  | none => m
  | some r =>
    match m.dev.bandOf r with
    | none => m
    | some (w, b) =>
      if (m.dev.mirE e).fault.isSome then m
      else
        let d0 := (m.dev.workEnds (m.dev.mirE e).startAt dt (nsOfClocks (w.verifyClocks r b) (2 * m.dev.fPe e))).eccFound ecc
        let stored := flipBits b.bytes flips
        let v := Mach.verdict { m with dev := d0 } r w b stored
        let pass := decide (v.cond = 0) && !v.bound
        match if pass then d0.refBuffers r w b else (some [], d0) with
        | (none, d1) => { m with dev := d1 }
        | (some refs, d1) =>
          let d2 := d1.onMir e (fun x => { x with job := none, last := mirLast r b.pass v,
                                                  maxErr := if b.lossy && !v.photos.isEmpty then v.maxErr else x.maxErr })
          let d3 := if segFail = 0 then d2 else d2.modWork r.stream r.frame (fun w => { w with segFails := w.segFails + 1 })
          if 2 ≤ segFail then
            { m with dev := ((d3.bump 0x16 (0x40 * e + 0x18)).raise 401 r.frame).dropWork r.stream r.frame 3 }
          else if pass then Mach.bandPass { m with dev := d3 } r w b stored v.photos refs
          else { m with dev := d3.bandFail r b }

/-! ### The guard (R28, R136, R138) -/

/-- Bands still counted in U and not in an attempt (R138). -/
def Band.divertable (b : Band) : Bool :=
  match b.phase with
  | .waiting => true
  | _ => false

/-- Send to the eclipse path every band of a tile that satisfies `p`. -/
def Dev.divertBands (d : Dev) (s n t cause : Nat) (p : Band → Bool) : Dev :=
  match d.work s n with
  | none => d
  | some w =>
    (List.range (w.tile t).bands.length).foldl (fun d k =>
      if p (w.band t k) then d.toEclipse { stream := s, frame := n, tile := t, band := k } cause else d) d

/-- Instant of the deadline guard of frame `n` (R28). -/
def Dev.guardAt (d : Dev) (n : Nat) : Nat := d.tickTwo n - unitsOfNs 60000

/-- The switch instant of a tile of frame `n`: every band counted in U and not in an attempt goes to the eclipse path
(R138). -/
def Dev.guardSwitch (d : Dev) (s n t : Nat) : Dev :=
  match d.work s n with
  | none => d
  | some w =>
    if w.skip ∨ w.gone ∨ w.mode = 3 ∨ w.tiles.length ≤ t ∨ w.unpassed t = 0 then d
    else
      let at_ := (d.switchAt w t).toNat / 10 ^ 9
      let d1 := d.advanceToSid at_
      let cause := if d1.sdt < d1.guardAt n then 3 else 4
      ((d1.divertBands s n t cause Band.divertable)).pump (w.tile t).engine

/-- The deadline guard of frame `n`: every band that has not begun its final coding pass goes to the eclipse path (R28). -/
def Dev.deadlineGuard (d : Dev) (n : Nat) : Dev :=
  let d1 := d.advanceToSid (d.guardAt n)
  let d2 := d1.streams.foldl (fun d x =>
    match d.work x.1 n with
    | none => d
    | some w =>
      if w.skip ∨ w.gone ∨ w.mode = 3 then d
      else
        (List.range w.tiles.length).foldl (fun d t =>
          let left := ((w.tile t).bands.filter Band.inU).length
          let r : BandRef := { stream := x.1, frame := n, tile := t, band := 0 }
          let d2 := if left = 0 then d else d.tellBand r 0xF5 left
          d2.divertBands x.1 n t 4 (fun b => b.phase.uncoded)) d) d1
  d2.pumpAll

/-! ### Engine faults (R140 to R142) -/

/-- Whether a second fault comes within 10 ms of the last one, which is kept as its instant plus 1 (R142). -/
def secondFault (last clk : Nat) : Bool := decide (last ≠ 0) && decide (clk < 10000000 + (last - 1))

/-- A fault of an engine of index `e`: its source, and the additional one of a second fault within 10 ms, whose bands go to the
eclipse path (R140, R142). -/
def Dev.engineFault (d : Dev) (e k : Nat) (r : BandRef) (second : Bool) : Dev :=
  let d1 := d.raise (16 + 16 * e + k) r.arg
  if second then
    let d2 := d1.raise (16 + 16 * e + 9) r.arg
    (d2.tilesOn e).foldl (fun d x => if x.2.1.mode = 3 then d else d.divert x.1 x.2.1.frame x.2.2 0 3 BandPhase.uncoded) d2
  else d1

/-- A pixel-engine fault: reset, write rewind, and the attempt is formed again (R140). -/
def Dev.pixFault (d : Dev) (e k : Nat) : Dev :=
  match (d.pix e).job with
  | none => d
  | some r =>
    let x := d.pix e
    let d1 := (d.bqDrop r).onBand r (fun b => { b with phase := .waiting, due := .again })
    let d2 := d1.onPix e (fun x => { x with job := none, written := 0, fault := some d.clk, lastFault := d.clk + 1 })
    (d2.bump 0x11 (0x40 * e + 0x10)).engineFault e k r (secondFault x.lastFault d.clk)

/-- An uncorrectable band-queue word met by the measure or code pass of engine `e`: that band and the following ones are formed
again (R129, R140). -/
def Dev.bqFault (d : Dev) (e : Nat) : Dev :=
  match (d.entE e).job with
  | none => d
  | some r =>
    let x := d.entE e
    if x.pass ≠ .measure ∧ x.pass ≠ .code then d
    else
      let d1 := (d.rewindAfter r true).onBand r (fun b => { b with phase := .waiting, due := .again })
      let d2 := d1.onEnt e (fun x => { x with job := none, pass := .idle, fault := some d.clk, lastFault := d.clk + 1 })
      let d3 := ((d2.bqRewind r).bump 0x12 (0x20 * e + 0x08)).bump 0x13 (0x40 * e + 0x10)
      d3.engineFault e 2 r (secondFault x.lastFault d.clk)

/-- An entropy-engine fault in a measure or code pass, or in an eclipse pass: the pass runs again (R140). -/
def Dev.entFault (d : Dev) (e k : Nat) : Dev :=
  match (d.entE e).job with
  | none => d
  | some r =>
    let x := d.entE e
    let d1 := d.onBand r (fun b =>
      match x.pass with
      | .measure => { b with phase := .queued }
      | .code => { b with phase := .codeWait }
      | _ => { b with phase := .eclipseWait })
    let d2 := d1.onEnt e (fun x => { x with job := none, pass := .idle, fault := some d.clk, lastFault := d.clk + 1 })
    (d2.bump 0x13 (0x40 * e + 0x10)).engineFault e k r (secondFault x.lastFault d.clk)

/-- A mirror-decoder fault: verification runs again, and only that run counts; a playback band is decoded again later (R140,
R181). -/
def Dev.mirFault (d : Dev) (e k : Nat) : Dev :=
  let x := d.mirE e
  let reset : Dev → Dev := fun d => (d.onMir e (fun x => { x with job := none, play := none, fault := some d.clk, lastFault := d.clk + 1 })).bump 0x13 (0x40 * e + 0x10)
  match x.job, x.play with
  | some r, _ => (reset (d.onBand r (fun b => { b with phase := .coded }))).engineFault e k r (secondFault x.lastFault d.clk)
  | none, some r => (reset d).engineFault e k r (secondFault x.lastFault d.clk)
  | none, none => d

/-- The reset of an engine completes and it takes work again, within 40 µs of the fault (R141). -/
def Dev.engineReset (d : Dev) (unit e dt : Nat) : Dev :=
  let since := match unit with
    | 0 => (d.pix e).fault
    | 1 => (d.entE e).fault
    | _ => (d.mirE e).fault
  match since with
  | none => d
  | some t =>
    let d1 := d.advanceTo (t + min dt 40000)
    let d2 := match unit with
      | 0 => d1.onPix e (fun x => { x with fault := none })
      | 1 => d1.onEnt e (fun x => { x with fault := none })
      | _ => d1.onMir e (fun x => { x with fault := none })
    d2.pump e

end Sys2Proof.Machine
end

