-- ==== Sys2Proof/Machine/CodecCmd.lean ====
section
/-! DEFINITION. The commands of the codec pipelines (R118 to R145, R163 to R185) and the computed registers of features 0x11 to
0x16 (R144, R177, R205). -/

namespace Sys2Proof.Machine
open Sys2Proof

/-! ### Computed registers -/

/-- Fields that name a band, at their places. -/
def BandRef.fields (r : Option BandRef) (stream tile band : Nat) : Nat :=
  match r with
  | some r => r.stream % 64 * 2 ^ stream + r.tile % 32 * 2 ^ tile + r.band % 512 * 2 ^ band
  | none => 0

/-- Computed registers of feature 0x11 (R144). -/
def Dev.pxeWord (d : Dev) (off : Nat) : Option Word :=
  let p := d.pix (off / 0x40)
  match off % 0x40 with
  | 0x00 => some (word (2 ^ 31 * b2n p.job.isSome + 2 ^ 30 * b2n p.fault.isSome + BandRef.fields p.job 16 9 0 +
              2 ^ 14 * (if p.job.isSome then p.kind % 4 else 0)))
  | 0x04 => some (word p.frame)
  | 0x08 => some (word (2 ^ 8 * twos 7 p.gvec.2 + twos 8 p.gvec.1))
  | _ => none

/-- Computed registers of feature 0x12 (R144). -/
def Dev.bqWord (d : Dev) (off : Nat) : Option Word := if off % 0x20 = 0 then some (word (d.bqCount (off / 0x20))) else none

/-- PASS of ENT_STATUS. -/
def EntPass.num : EntPass → Nat
  | .idle => 0
  | .measure => 1
  | .code => 2
  | .eclipse => 3

/-- ENT_SLACK: S - t in ns for the oldest frame that entropy engine `e` holds (R136, R144). -/
def Dev.slack (d : Dev) (e : Nat) : Nat :=
  let held := (d.tilesOn e).filter (fun x => !x.2.1.gone)
  match argMin (fun (x : Nat × Work × Nat) => d.serveKey { stream := x.1, frame := x.2.1.frame, tile := x.2.2, band := 0 }) held with
  | none => 0
  | some x =>
    let left := d.switchAt x.2.1 x.2.2 - (10 ^ 9 * d.sdt : Nat)
    if left ≤ 0 then 0 else min (left.toNat / 2 ^ 32) 0xFFFFFFFF

/-- Computed registers of feature 0x13 (R144). -/
def Dev.entWord (d : Dev) (off : Nat) : Option Word :=
  let e := off / 0x40
  let x := d.entE e
  match off % 0x40 with
  | 0x00 => some (word (2 ^ 31 * b2n x.job.isSome + 2 ^ 30 * b2n x.fault.isSome + 2 ^ 28 * x.pass.num + BandRef.fields x.job 22 17 8))
  | 0x04 => some (word x.last)
  | 0x08 => some (word (d.slack e))
  | _ => none

/-- Computed registers of feature 0x14 (R177). -/
def Dev.acbWord (d : Dev) (off : Nat) : Option Word :=
  let a := d.codec.acb.getD (off / 0x40) {}
  let orFree : Nat → Option Word := fun n => some (if a.free then 0xFFFFFFFF else word n)
  match off % 0x40 with
  | 0x00 => some (word (2 ^ 31 * b2n a.exhausted + 2 ^ 30 * b2n a.marginUsed + 2 ^ 24 * (a.stream % 64) + 2 ^ 19 * (a.tile % 32) +
              2 ^ 14 * (a.delta % 32) + a.band % 512))
  | 0x04 => orFree a.budget
  | 0x08 => some (word a.spent)
  | 0x0C => orFree a.reserve
  | 0x10 => orFree a.limit
  | 0x14 => some (word a.allow)
  | 0x18 => some (word a.req)
  | _ => none

/-- Photosites of the bands of a stream's tiles at its input's format. -/
def Dev.capGrid (d : Dev) (c : Cap) : List (List Nat) := gridCounts (d.inFmt c.input).1 c.height c.tileW

/-- MODE in effect of a stream: 2 once it has been moved (R175). -/
def Dev.modeNow (d : Dev) (s : Nat) : Nat :=
  match d.cap s with
  | some c => if c.moved.isSome then 2 else fld (d.acbCfg s) 0 2
  | none => fld (d.acbCfg s) 0 2

/-- B_min of a stream at the format of its input (R150). -/
def Dev.capMin (d : Dev) (s : Nat) (c : Cap) (mode : Nat) : Nat :=
  minBudget (d.capGrid c) (d.inFmt c.input).2 (d.reserveDepth s (d.inFmt c.input).2) mode (d.metaMax s)

/-- W_f of a stream at the format of its input (R150). -/
def Dev.capWorst (d : Dev) (s : Nat) (c : Cap) (mode : Nat) : Nat := worstFrame (d.capGrid c) (d.inFmt c.input).2 mode (d.metaMax s)

/-- Computed registers of feature 0x15 (R177). -/
def Dev.acbStreamWord (d : Dev) (off : Nat) : Option Word :=
  let s := off / 0x40
  let mode := fld (d.acbCfg s) 0 2
  match off % 0x40 with
  | 0x10 => some (match d.cap s with
      | some c => word (d.capMin s c mode)
      | none => 0)
  | 0x14 => some (match d.cap s with
      | some c => word (d.capWorst s c mode)
      | none => 0)
  | 0x18 => some (word (2 ^ 31 * b2n ((d.cap s).any (fun c => c.moved.isSome)) + (if (d.cap s).isSome then d.modeNow s else 0)))
  | _ => none

/-- Computed registers of feature 0x16 (R205). -/
def Dev.mirWord (d : Dev) (off : Nat) : Option Word :=
  let x := d.mirE (off / 0x40)
  match off % 0x40 with
  | 0x00 =>
    let job := if x.job.isSome then 1 else if x.play.isSome then 2 else 0
    some (word (2 ^ 31 * b2n (decide (job ≠ 0)) + 2 ^ 30 * b2n x.fault.isSome + 2 ^ 28 * job +
      (if job = 1 then BandRef.fields x.job 22 17 8 else BandRef.fields x.play 22 17 8)))
  | 0x04 => some (word x.last)
  | 0x08 => some (word (min x.maxErr 0xFFFF))
  | _ => none

/-! ### Commands -/

/-- ATTEMPT_START: pixel engine `e` starts the attempt that is next, where R119 and the forecast permit; a refused band goes to
the eclipse path (R119, R138). -/
def execAttemptStart (e : Nat) (s : State) : Host.Outcome State Fault Refusal := live (fun m => m.attemptStart e) s

/-- ATTEMPT_COMPLETE: the attempt that pixel engine `e` forms is written completely, and the measure pass starts (R120). -/
def execAttemptComplete (e dt : Nat) (s : State) : Host.Outcome State Fault Refusal := liveDev (fun d => d.attemptComplete e dt) s

/-- QUEUE_FULL: the attempt of pixel engine `e` would exceed the band queue and ends as an overshoot (R128, R164). -/
def execQueueFull (e dt : Nat) (s : State) : Host.Outcome State Fault Refusal := liveDev (fun d => d.queueFull e dt) s

/-- BQ_ROOM_RESUME: a release has made room and pixel engine `e`, stalled on the full queue, writes on (R128). -/
def execBqRoomResume (e : Nat) (s : State) : Host.Outcome State Fault Refusal := liveDev (fun d => d.bqResume e) s

/-- MEASURE_DONE: the measure pass of entropy engine `e` ends, `ce` words having been corrected (R120, R129, R163). -/
def execMeasureDone (e dt ce : Nat) (s : State) : Host.Outcome State Fault Refusal := liveDev (fun d => d.measureDone e dt ce) s

/-- CODE_PASS_DONE: the code pass of entropy engine `e` ends, `ce` words having been corrected (R120, R129). -/
def execCodePassDone (e dt ce : Nat) (s : State) : Host.Outcome State Fault Refusal := liveDev (fun d => d.codeDone e dt ce) s

/-- ECLIPSE_PASS_START: entropy engine `e` starts the eclipse pass that is next, its depth fixed from the allowance (R158,
R167). -/
def execEclipsePassStart (e : Nat) (s : State) : Host.Outcome State Fault Refusal := live (fun m => m.eclipseStart e) s

/-- ECLIPSE_PASS_DONE: the eclipse pass of entropy engine `e` ends (R135). -/
def execEclipsePassDone (e dt : Nat) (s : State) : Host.Outcome State Fault Refusal := live (fun m => m.eclipseDone e dt) s

/-- VERIFY_DONE: verification by mirror decoder `e` ends (R123, R170, R171, R180 to R185). -/
def execVerifyDone (e dt segFail : Nat) (flips : List Nat) (ecc : List (Nat × Bool)) (s : State) : Host.Outcome State Fault Refusal :=
  live (fun m => m.verifyDone e dt segFail flips ecc) s

/-- TABLES_READY: the tables of the oldest frame of stream `j` that waits for them are ready, at most 20 µs after its tick, and
its budgets are divided (R37, R154, R604). -/
def execTablesReady (j dt : Nat) (s : State) : Host.Outcome State Fault Refusal := liveDev (fun d => d.tablesReady j dt) s

/-- GUARD_SWITCH: the switch instant of tile `t` of frame `n` of stream `j` (R136, R138). -/
def execGuardSwitch (j n t : Nat) (s : State) : Host.Outcome State Fault Refusal := liveDev (fun d => d.guardSwitch j n t) s

/-- DEADLINE_GUARD: tick n + 2 - 60 µs of frame `n` (R28). -/
def execDeadlineGuard (n : Nat) (s : State) : Host.Outcome State Fault Refusal :=
  liveDev (fun d => onlyIf (d.streams.any (fun x => (d.work x.1 n).isSome)) (fun d => d.deadlineGuard n) d) s

/-- PXE_PARITY: pixel engine `e` meets a parity error in the attempt it forms (R140). -/
def execPxeParity (e : Nat) (s : State) : Host.Outcome State Fault Refusal := liveDev (fun d => d.pixFault e 0) s

/-- BQ_UNCORRECTABLE: a pass of entropy engine `e` reads an uncorrectable band-queue word, `ce` words having been corrected
before it (R129, R140). -/
def execBqUncorrectable (e ce : Nat) (s : State) : Host.Outcome State Fault Refusal :=
  liveDev (fun d =>
    match (d.entE e).job with
    | some r => if (d.entE e).pass = .measure ∨ (d.entE e).pass = .code then (d.bqCorrected e ce r).bqFault e else d
    | none => d) s

/-- ENT_PARITY: entropy engine `e` meets a parity error in a measure or code pass (R140). -/
def execEntParity (e : Nat) (s : State) : Host.Outcome State Fault Refusal :=
  liveDev (fun d => onlyIf (decide ((d.entE e).pass = .measure ∨ (d.entE e).pass = .code)) (fun d => d.entFault e 3) d) s

/-- ECLIPSE_FAULT: entropy engine `e` meets a fault in an eclipse pass (R140). -/
def execEclipseFault (e : Nat) (s : State) : Host.Outcome State Fault Refusal :=
  liveDev (fun d => onlyIf (decide ((d.entE e).pass = .eclipse)) (fun d => d.entFault e 4) d) s

/-- MIR_FAULT: mirror decoder `e` meets a datapath fault in a verification (R140, R181). -/
def execMirFault (e : Nat) (s : State) : Host.Outcome State Fault Refusal := liveDev (fun d => d.mirFault e 5) s

/-- ENGINE_STALL: pixel engine (unit 0), entropy engine (1) or mirror decoder (2) `e` makes no progress for 8 µs with work
pending, which is treated as a parity error of it (R140). -/
def execEngineStall (unit e : Nat) (s : State) : Host.Outcome State Fault Refusal :=
  liveDev (fun d =>
    let busy := match unit with
      | 0 => (d.pix e).job.isSome
      | 1 => (d.entE e).job.isSome
      | _ => (d.mirE e).job.isSome || (d.mirE e).play.isSome
    if !busy then d
    else
      let d1 := d.advance 8000
      match unit with
      | 0 => d1.pixFault e 6
      | 1 => d1.entFault e 6
      | _ => d1.mirFault e 6) s

/-- ENGINE_RESET_DONE: the reset of pixel engine (unit 0), entropy engine (1) or mirror decoder (2) `e` is complete and the
interrupted work resumes (R141). -/
def execEngineResetDone (unit e dt : Nat) (s : State) : Host.Outcome State Fault Refusal :=
  liveDev (fun d => d.engineReset unit e dt) s

end Sys2Proof.Machine
end

