-- ==== Sys2Proof/Machine/Develop.lean ====
section
/-! DEFINITION. The developer chain (R211 to R216) on one frame: normalise, black and white balance, demosaic, matrix, 3D LUT and
colour conversion. -/

namespace Sys2Proof.Machine
open Sys2Proof

/-- A signed 16-bit field. -/
def s16 (w : Word) (lo : Nat) : Int := let v := fld w lo 16; if v < 32768 then v else (v : Int) - 65536

/-- Clamp to 16 bits. -/
def clamp16 (x : Int) : Nat := (max 0 (min 65535 x)).toNat

/-- Colour of a position of a 2 × 2 pattern: 0 R, 1 G, 2 B (R55); pattern 4 takes the places of pattern 0 (R213). -/
def bayerColor (cfa y x : Nat) : Nat :=
  let q := y % 2 * 2 + x % 2
  let r := match cfa with
    | 1 => 1
    | 2 => 2
    | 3 => 3
    | _ => 0
  if q = r then 0 else if q = 3 - r then 2 else 1

/-- Mirror a coordinate into [0, n) (R212). -/
def mirrored (n : Nat) (x : Int) : Nat := if x < 0 then (-x).toNat else if (n : Int) ≤ x then (2 * ((n : Int) - 1) - x).toNat else x.toNat

/-- Photosite at (y, x) of a frame, by its bands: tile widths in positions, and photosites read. -/
def DevFrame.photosite (f : DevFrame) (y x comp : Nat) : Nat :=
  let rec find : List Nat → Nat → Nat → Nat × Nat × Nat
    | [], t, x => (t, x, 0)
    | w :: r, t, x => if x < w then (t, x, w) else find r (t + 1) (x - w)
  let (t, lx, w) := find f.tileW 0 x
  let n := compsOf f.cfa
  (Tbl.get (fun _ => []) f.read (1024 * t + y / 32)).getD (y % 32 * (w * n) + lx * n + comp) 0

/-- Width of the frame in positions. -/
def DevFrame.width (f : DevFrame) : Nat := sumBy id f.tileW

/-- The balanced value of a photosite of colour `c` (R211). -/
def DevFrame.balance (f : DevFrame) (p c : Nat) : Nat :=
  let p16 := p * 2 ^ (16 - f.depth)
  let gain := match c with
    | 0 => fld f.settings.wbRg 0 16
    | 1 => fld f.settings.wbRg 16 16
    | _ => fld f.settings.wbB 0 16
  min 65535 ((2048 + (p16 - fld f.settings.black 0 16) * gain) / 4096)

/-- The balanced mosaic of patterns 0 to 5. A pattern 4 quad is taken in the places of pattern 0: W as the green of the B row. -/
def DevFrame.mosaic (f : DevFrame) (y x : Int) : Int :=
  let yy := mirrored f.height y
  let xx := mirrored f.width x
  let src := if f.cfa = 4 ∧ yy % 2 = 1 then (if xx % 2 = 0 then xx + 1 else xx - 1) else xx
  let c := if f.cfa = 5 then 1 else bayerColor f.cfa yy xx
  (f.balance (f.photosite yy src 0) c : Nat)

/-- Green at an R or B position (R212). -/
def DevFrame.greenAt (f : DevFrame) (y x : Int) : Int :=
  let p := f.mosaic
  let gh : Int := ((p y (x - 1) - p y (x + 1)).natAbs + (2 * p y x - p y (x - 2) - p y (x + 2)).natAbs : Nat)
  let gv : Int := ((p (y - 1) x - p (y + 1) x).natAbs + (2 * p y x - p (y - 2) x - p (y + 2) x).natAbs : Nat)
  let eh := Int.fdiv (p y (x - 1) + p y (x + 1)) 2 + Int.fdiv (2 * p y x - p y (x - 2) - p y (x + 2)) 4
  let ev := Int.fdiv (p (y - 1) x + p (y + 1) x) 2 + Int.fdiv (2 * p y x - p (y - 2) x - p (y + 2) x) 4
  if gh < gv then eh else if gv < gh then ev else Int.fdiv (eh + ev) 2

/-- Colour of a position after mirroring. -/
def DevFrame.colorAt (f : DevFrame) (y x : Int) : Nat := bayerColor f.cfa (mirrored f.height y) (mirrored f.width x)

/-- Green at any position. -/
def DevFrame.green (f : DevFrame) (y x : Int) : Int := if f.colorAt y x = 1 then f.mosaic y x else f.greenAt y x

/-- Colour minus green at a position that has the colour. -/
def DevFrame.diff (f : DevFrame) (y x : Int) : Int := f.mosaic y x - f.green y x

/-- R, G, B at a position (R212, R213). -/
def DevFrame.rgb (f : DevFrame) (yn xn : Nat) : List Nat :=
  let y : Int := yn
  let x : Int := xn
  if f.cfa = 5 then [clamp16 (f.mosaic y x), clamp16 (f.mosaic y x), clamp16 (f.mosaic y x)]
  else if f.cfa = 6 then (List.range 3).map (fun c => f.balance (f.photosite yn xn c) c)
  else
    let g := f.green y x
    let own := f.colorAt y x
    let diag := g + Int.fdiv (f.diff (y - 1) (x - 1) + f.diff (y - 1) (x + 1) + f.diff (y + 1) (x - 1) + f.diff (y + 1) (x + 1)) 4
    let pair : Nat → Int := fun c =>
      if f.colorAt y (x + 1) = c then g + Int.fdiv (f.diff y (x - 1) + f.diff y (x + 1)) 2
      else g + Int.fdiv (f.diff (y - 1) x + f.diff (y + 1) x) 2
    let one : Nat → Int := fun c => if own = c then f.mosaic y x else if own = 1 then pair c else diag
    [clamp16 (one 0), clamp16 g, clamp16 (one 2)]

/-- The matrix stage (R211). -/
def DevSet.matrix (s : DevSet) (i : List Nat) : List Nat :=
  let m : Nat → Int := fun k => s16 (s.mtx.getD (k / 2) 0) (16 * (k % 2))
  (List.range 3).map (fun r => clamp16 (Int.fdiv (2048 + (m (3 * r) * (i.getD 0 0 : Nat) + m (3 * r + 1) * (i.getD 1 0 : Nat) + m (3 * r + 2) * (i.getD 2 0 : Nat))) 4096))

/-- Output `c` of a LUT node (R214, R215); without a loaded LUT, the identity. -/
def lutNode (lut : Option (List Byte)) (n : List Nat) (c : Nat) : Nat :=
  match lut with
  | some l => bits (rd l (8 * (n.getD 0 0 + 33 * n.getD 1 0 + 1089 * n.getD 2 0)) 8) (16 * c) 12
  | none => (4095 * n.getD c 0 * 2 + 32) / 64

/-- Step a node by one on an axis. -/
def stepNode (n : List Nat) (a : Nat) : List Nat := modAxis n a
where
  modAxis : List Nat → Nat → List Nat
    | [], _ => []
    | x :: r, 0 => (x + 1) :: r
    | x :: r, k + 1 => x :: modAxis r k

/-- Tetrahedral interpolation (R214). -/
def lutAt (lut : Option (List Byte)) (v : List Nat) : List Nat :=
  let idx := v.map (fun x => x / 2048)
  let frac : Nat → Nat := fun a => v.getD a 0 % 2048
  let order := ([0, 1, 2] : List Nat).mergeSort (fun a b => decide (frac b ≤ frac a))
  let a1 := order.getD 0 0
  let a2 := order.getD 1 1
  let f1 := frac a1
  let f2 := frac a2
  let f3 := frac (order.getD 2 2)
  let q1 := stepNode idx a1
  let q2 := stepNode q1 a2
  let q3 := idx.map (fun x => x + 1)
  (List.range 3).map (fun c =>
    (1024 + (lutNode lut idx c * (2048 - f1) + lutNode lut q1 c * (f1 - f2) + lutNode lut q2 c * (f2 - f3) + lutNode lut q3 c * f3)) / 2048)

/-- Nearest integer to a quotient, a half rounded up. -/
def nearest (a : Int) (b : Nat) : Int := Int.fdiv (2 * a + b) (2 * b)

/-- 10-bit Y, Cb, Cr of 12-bit R', G', B' (R216): BT.2020 where `wide`, else BT.709. -/
def ycbcr (wide : Bool) (v : List Nat) : List Nat :=
  let r : Int := v.getD 0 0
  let g : Int := v.getD 1 0
  let b : Int := v.getD 2 0
  let y := if wide then 2627 * r + 6780 * g + 593 * b else 2126 * r + 7152 * g + 722 * b
  let kb := if wide then 18814 else 18556
  let kr := if wide then 14746 else 15748
  let c : Int → Nat := fun x => (max 0 (min 1023 x)).toNat
  [c (64 + nearest (876 * y) (4095 * 10000)), c (512 + nearest (896 * (10000 * b - y)) (4095 * kb)),
   c (512 + nearest (896 * (10000 * r - y)) (4095 * kr))]

/-- The developed picture: Y, Cb, Cr of every position, row by row. -/
def DevFrame.picture (f : DevFrame) (lut : Option (List Byte)) (wide : Bool) : List Nat :=
  ((List.range f.height).map (fun y => ((List.range f.width).map (fun x =>
    ycbcr wide (lutAt lut (f.settings.matrix (f.rgb y x))))).flatten)).flatten

end Sys2Proof.Machine
end

