-- ==== Sys2Proof/Machine/Reserve.lean ====
section
/-! DEFINITION. Media bytes per frame of a stream and the pool reserves of the admitted streams (R17, R152, R266, R449). -/

namespace Sys2Proof.Machine
open Sys2Proof

/-- N and D of the configured tick rate: TCK_RATE, and on a worker the rate it follows (R17, R536). -/
def Dev.rate (d : Dev) : Nat × Nat :=
  if d.boot.role = 2 then (d.tick.rateN, d.tick.rateD)
  else (fld (d.reg 0x01 0x104) 16 16, fld (d.reg 0x01 0x104) 0 16)

/-- Media bytes of one frame of a stream, X of R152 and R266: W_f, A_f or B of its mode in effect (R175). -/
def Dev.mediaBytes (d : Dev) (s : Nat) (c : Cap) : Nat :=
  let mode := fld (d.acbCfg s) 0 2
  let b := (d.reg 0x15 (0x40 * s + 0x04)).toNat
  let fb := (d.reg 0x15 (0x40 * s + 0x08)).toNat
  if c.moved.isSome then (if mode = 2 ∧ b ≤ fb then b else fb)
  else if mode = 1 ∨ mode = 2 then b
  else d.capWorst s c mode

/-- Photosites of a frame of a stream. -/
def Dev.capPhotos (d : Dev) (c : Cap) : Nat := c.width * compsOf (d.inFmt c.input).1 * c.height

/-- Streams that admission has let in: armed, running, or with frames still to commit. -/
def Dev.admitted (d : Dev) : List (Nat × Cap) := d.streams.filter (fun e => e.2.active || e.2.draining)

/-- Staged buffers per frame of a stream (R64, R266). -/
def Dev.stagedBufs (d : Dev) (c : Cap) : Nat :=
  sumBy (fun t => sumBy (fun n => ceilDiv (2 * n) 65536) t) (d.capGrid c)

/-- Pool 2 need of a stream (R266). -/
def Dev.needPool2 (d : Dev) (s : Nat) (c : Cap) : Nat :=
  let mode := d.modeNow s
  let h := (if 1 < c.anchor then 3 else 2) + b2n (decide (1 < c.anchor ∧ (mode = 1 ∨ mode = 2)))
  let k := ceilDiv (d.mediaBytes s c) 65536 + 1
  let (n, dd) := d.rate
  let fc := (3 * dd * 1000 + 10 * n) / max 1 (dd * 1000) + 1
  d.stagedBufs c * h + k * fc

/-- The C0 need of some streams in pool `p` (R266). -/
def Dev.poolNeed (d : Dev) (l : List (Nat × Cap)) (p : Nat) : Nat :=
  match p with
  | 0 => 64 * l.length
  | 1 => 32 * l.length
  | 2 => sumBy (fun e => d.needPool2 e.1 e.2) l
  | _ => 0

/-- Reserve what an admission grants (R266, R449). -/
def Dev.reservePools (d : Dev) (l : List (Nat × Cap)) : Dev :=
  (List.range 4).foldl (fun d p =>
    let n := d.poolNeed l p
    d.onPool p (fun q => { q with need := n, reserve := max (poolCount p / 8) n })) d

/-- The reserves of the streams that are still admitted: those of a run that has ended are given back. -/
def Dev.reserveAgain (d : Dev) : Dev := d.reservePools d.admitted

end Sys2Proof.Machine
end

