-- ==== Sys2Proof/Machine/Faults.lean ====
section
/-! DEFINITION. Faults, watchdogs, TWINKLE, the interrupt controller and the event recorder (R440 to R442, R545 to R569,
R595). -/

namespace Sys2Proof.Machine
open Sys2Proof

/-! ### Reports of units (R545, R595) -/

/-- PCIE_AER_ERROR: a correctable or uncorrectable error that AER reports (sources 497 and 498). -/
def execPcieAerError (uncorrectable : Bool) (status : Nat) (s : State) : Host.Outcome State Fault Refusal :=
  liveDev (fun d => d.raise (if uncorrectable then 498 else 497) status) s

/-- CONTROL_SRAM_ERROR: sources 492 and 493. -/
def execControlSramError (uncorrectable : Bool) (addr : Nat) (s : State) : Host.Outcome State Fault Refusal :=
  liveDev (fun d => d.raise (if uncorrectable then 493 else 492) addr) s

/-- TEMP_SAMPLE: a junction temperature in °C. Source 496 is raised at the first sample above the grade's highest
temperature and its cause ends with a sample at least 3 °C below it (R595). -/
def execTempSample (celsius : Int) (s : State) : Host.Outcome State Fault Refusal :=
  liveDev (fun d =>
    let top : Int := if Config.industrialGrade then 105 else 95
    if d.flt.causes.contains 496 then
      if celsius ≤ top - 3 then d.onFlt (fun f => { f with causes := f.causes.filter (fun x => decide (x ≠ 496)) }) else d
    else if top < celsius then
      (d.onFlt (fun f => { f with causes := insertNat 496 f.causes })).raise 496 (celsius % (2 ^ 32 : Int)).toNat
    else d) s

/-! ### Runtime watchdogs and TWINKLE (R553, R554) -/

/-- WDOG_SERVICE: the firmware of a core services its watchdog; service ends a warning and an expiry (R553). -/
def execWdogService (i : Nat) (s : State) : Host.Outcome State Fault Refusal :=
  liveDev (fun d => onlyIf (d.intr.core i).wdogAt.isSome (fun d =>
    d.onCore i (fun c => { c with wdogAt := some d.clk, warning := false, expired := false })) d) s

/-- WDOG_WARNING: 5 ms without service (R553). -/
def execWdogWarning (i : Nat) (s : State) : Host.Outcome State Fault Refusal :=
  liveDev (fun d =>
    match (d.intr.core i).wdogAt with
    | none => d
    | some t =>
      if (d.intr.core i).warning then d
      else (d.advanceTo (5000000 + t)).onCore i (fun c => { c with warning := true })) s

/-- WDOG_EXPIRY: 10 ms without service: source 488 + i, and TWINKLE stops (R553, R554). -/
def execWdogExpiry (i : Nat) (s : State) : Host.Outcome State Fault Refusal :=
  liveDev (fun d =>
    match (d.intr.core i).wdogAt with
    | none => d
    | some t =>
      if (d.intr.core i).expired then d
      else
        let d1 := (d.advanceTo (10000000 + t)).onCore i (fun c => { c with warning := true, expired := true })
        (d1.raise (488 + i) i).stopTwinkle) s

/-- Half period of TWINKLE, ns. -/
def TwkMode.half : TwkMode → Nat
  | .twilight => 50000000
  | _ => 500000

/-- TWINKLE_TOGGLE: the next edge is due; a stopped pin holds its last level (R554). -/
def execTwinkleToggle (s : State) : Host.Outcome State Fault Refusal :=
  liveDev (fun d =>
    let due := d.twk.nextEdge
    let stopped := match d.twk.stopAt with
      | some t => decide (t ≤ due)
      | none => false
    onlyIf (decide (d.twk.mode ≠ .low) && !stopped) (fun d =>
      (d.advanceTo due).onTwk (fun t => { t with level := !t.level, nextEdge := due + t.mode.half })) d) s

/-- TWINKLE_RESUME: the first edge after the last stopping cause ended, opposite the held level (R554). -/
def execTwinkleResume (s : State) : Host.Outcome State Fault Refusal :=
  liveDev (fun d =>
    match d.twk.resumeAt with
    | none => d
    | some r =>
      if d.twinkleCause then d
      else (d.advanceTo r).onTwk (fun t => { t with level := !t.level, nextEdge := max r d.clk + t.mode.half, stopAt := none, resumeAt := none })) s

/-! ### Interrupt controller (R555 to R562) -/

/-- Whether a source ID is assigned (R555). -/
def idAssigned (id : Nat) : Bool :=
  decide (id ≤ 10) || (decide (16 ≤ id) && decide (id ≤ 611)) || (decide (1008 ≤ id) && decide (id ≤ 1015))

/-- Whether a source is of the event kind: its unit signals it with a pulse (R555). -/
def idEvent (id : Nat) : Bool :=
  decide (id ≤ 559) || decide (id = 589 ∨ id = 590 ∨ id = 601) || decide (id = 1012 ∨ id = 1013)

/-- INT_SOURCE_FIRE: an event source fires, or the line of a level source takes a level, seen through its sense (R556,
R559). -/
def execIntSourceFire (id : Nat) (line : Bool) (s : State) : Host.Outcome State Fault Refusal :=
  liveDev (fun d => onlyIf (idAssigned id) (fun d =>
    if idEvent id then d.fireInt id
    else if d.intr.sense id = 0 then d.onIntr (fun n => n.level id line)
    else
      let was := d.intr.asserted.contains id
      let edge := match d.intr.sense id with
        | 1 => !was && line
        | 2 => was && !line
        | _ => was != line
      let d1 := d.onIntr (fun n => { n with asserted := if line then insertNat id n.asserted else n.asserted.filter (fun x => decide (x ≠ id)) })
      if edge then d1.fireInt id else d1) d) s

/-- INT_CLAIM: an awake core claims its most urgent offered source and reads the claim word (R559). -/
def execIntClaim (core : Nat) (s : State) : Host.Outcome State Fault Refusal :=
  liveDev (fun d => onlyIf (decide (core < 4) && (d.intr.core core).powered && (d.intr.core core).awake) (fun d =>
    let r := d.intr.claim core
    let w := match r.1 with
      | some id => 2 ^ 31 + id
      | none => 0
    Dev.emit { d with intr := r.2 } (.claim core w)) d) s

/-- INT_COMPLETE: a core completes a source, with NOTHING where it found no cause (R559, R560). -/
def execIntComplete (core id : Nat) (nothing : Bool) (s : State) : Host.Outcome State Fault Refusal :=
  liveDev (fun d => onlyIf (decide (core < 4)) (fun d => d.onIntr (fun n => n.finish core id nothing)) d) s

/-- INT_SRC_SETTING: firmware writes the setting of a core source (R555, R556, R560); an enabled level source that is
asserted pends. -/
def execIntSrcSetting (id v : Nat) (s : State) : Host.Outcome State Fault Refusal :=
  liveDev (fun d => onlyIf (decide (id < 1008) && idAssigned id) (fun d =>
    d.onIntr (fun n =>
      let n1 := n.configure id (v % 2 ^ 14 + (if bit v 15 then 2 ^ 15 else 0))
      if n1.en id && decide (n1.sense id = 0) && n1.asserted.contains id && !n1.isActive id && !n1.pending.contains id then
        Intr.arbitrate { n1 with pending := insertNat id n1.pending }
      else n1)) d) s

/-- CORE_SLEEP: a core leaves the choice and an arbitration takes place (R558). -/
def execCoreSleep (i : Nat) (s : State) : Host.Outcome State Fault Refusal :=
  liveDev (fun d => onlyIf (decide (i < 4) && (d.intr.core i).powered) (fun d =>
    (d.onCore i (fun c => { c with awake := false })).onIntr Intr.arbitrate) d) s

/-! ### Event recorder (R563 to R568) -/

/-- MRAM index of the next entry of a region, with its ENTRY_NO; none where the first-fault region is full (R563, R566). -/
def Bbx.place (b : Bbx) : BbxRegion → Option (Nat × Nat)
  | .first => if b.firstNo < 256 then some (64 + b.firstNo, b.firstNo) else none
  | .boot => some (320 + b.bootNo % 256, b.bootNo)
  | .main => some (576 + b.mainNo % 130496, b.mainNo)

/-- Count an entry written to a region. -/
def Bbx.wrote (b : Bbx) : BbxRegion → Bbx
  | .first => { b with firstNo := b.firstNo + 1 }
  | .boot => { b with bootNo := b.bootNo + 1 }
  | .main => { b with mainNo := b.mainNo + 1 }

/-- Write one queued entry to MRAM (R565). -/
def Mach.bbxWrite (m : Mach) (e : BbxItem) : Mach :=
  match m.dev.bbx.place e.region with
  | none => m
  | some (x, no) => { dev := m.dev.onBbx (fun b => b.wrote e.region), mem := m.mem.setEntry x (withCrc (padTo 56 e.body ++ leBytes 4 no)) }

/-- Write a list of entries. -/
def Mach.bbxAll (m : Mach) : List BbxItem → Mach
  | [] => m
  | e :: r => (m.bbxWrite e).bbxAll r

/-- Write the whole queue: an external or internal reset waits for it (R567). -/
def Mach.bbxDrain (m : Mach) : Mach :=
  Mach.bbxAll { m with dev := m.dev.onBbx (fun b => { b with queue := [] }) } m.dev.bbx.queue

/-- BBX_ENTRY_WRITE: MRAM takes the oldest queued entry, one every 2 µs; after losses one KIND 14 entry carries their count
(R567). -/
def execBbxEntryWrite (s : State) : Host.Outcome State Fault Refusal :=
  live (fun m =>
    match m.dev.bbx.queue with
    | [] => m
    | e :: r =>
      let d := m.dev.advanceTo m.dev.bbx.readyAt
      let d1 := d.onBbx (fun b => { b with queue := r, readyAt := 2000 + d.clk })
      let m1 := Mach.bbxWrite { m with dev := d1 } e
      let n := m1.dev.bbx.lostSince
      if n = 0 then m1
      else { m1 with dev := (m1.dev.onBbx (fun b => { b with lostSince := 0 })).record .main 14 0xFF 0 n }) s

/-- Number of the named sources still set. -/
def Flt.stillSet (f : Flt) (srcs : List Nat) : Nat := (srcs.filter (fun s => f.status.getLsbD s)).length

/-- FAULT_CLEAR (R440, R549). -/
def execFaultClear (sq cid : Nat) (s : State) : Host.Outcome State Fault Refusal :=
  live (runCmd sq cid 0x20 (fun c m =>
    if c.target = 0xFFFFFFFF ∨ c.target < 600 then
      let srcs := if c.target = 0xFFFFFFFF then List.range 600 else [c.target]
      let d := m.dev.clearFaults srcs
      Mach.complete { m with dev := d } c Status.ok (d.flt.stillSet srcs)
    else m.refuse c 4)) s

/-- BLACKBOX_READ (R441): `ecc` names entries whose MRAM words are found in error while they are read, and whether
uncorrectably (sources 494 and 495). -/
def execBlackboxRead (sq cid : Nat) (ecc : List (Nat × Bool)) (s : State) : Host.Outcome State Fault Refusal :=
  live (runCmd sq cid 0x21 (fun c m =>
    let first := c.dw 0
    let count := c.dw 1
    if 131071 < first then m.refuse c 32
    else if count = 0 ∨ 131072 < first + count then m.refuse c 36
    else if c.dataLen < 64 * count then m.refuse c 24
    else if !m.mem.dataOk c (64 * count) then m.refuse c 16
    else
      let found := ecc.filter (fun e => decide (first ≤ e.1) && decide (e.1 < first + count))
      let d := found.foldl (fun d e =>
        if e.2 then d.raise 495 e.1
        else (d.onBbx (fun b => { b with mramCe := satAdd32 b.mramCe 1 })).raise 494 e.1) m.dev
      let m1 : Mach := { dev := d, mem := m.mem.dataOut c (m.mem.entries first count) }
      m1.complete c Status.ok)) s

/-- Which key signed a clear: 0 to 3 an unrevoked vendor slot, 4 the customer key; none where no key hash matches (R442). -/
def Otp.clearKey (o : Otp) (key : List Byte) : Option Nat :=
  let h := Config.sha384 key
  match (List.range 4).find? (fun i => !o.revoked.getD i true && decide (Config.vendorKeyHash i = h)) with
  | some i => some i
  | none => if o.customerKey ∧ Config.customerKeyHash = h then some 4 else none

/-- Entries of a region. -/
def inRegion (mask x : Nat) : Bool :=
  (bit mask 0 && decide (64 ≤ x) && decide (x < 320)) || (bit mask 1 && decide (320 ≤ x) && decide (x < 576)) ||
  (bit mask 2 && decide (576 ≤ x) && decide (x < 131072))

/-- Empty regions: every entry 0, ENTRY_NO from 0 (R568); the header counts the clear and keeps its stamp (R563). -/
def Mach.bbxClear (m : Mach) (mask : Nat) : Mach :=
  let h := m.mem.entry 0
  let h1 := h.take 24 ++ leBytes 4 (rd h 24 4 + 1) ++ m.dev.stamp
  let mem : Mem := { m.mem with mram := Tbl.drop (inRegion mask) m.mem.mram }
  let d := m.dev.stamped.onBbx (fun b =>
    { b with firstNo := if bit mask 0 then 0 else b.firstNo, bootNo := if bit mask 1 then 0 else b.bootNo,
             mainNo := if bit mask 2 then 0 else b.mainNo })
  { dev := d, mem := mem.setEntry 0 (withCrc (padTo 60 h1)) }

/-- BLACKBOX_CLEAR (R442, R568). -/
def execBlackboxClear (sq cid : Nat) (s : State) : Host.Outcome State Fault Refusal :=
  live (runCmd sq cid 0x22 (fun c m =>
    let old := m.dev.host.challenge
    let m0 : Mach := { m with dev := m.dev.onHost (fun h => { h with challenge := old + 1 }) }
    let mask := c.dw 0 % 8
    if mask = 0 then m0.refuse c 32
    else if c.dataLen < 193 then m0.refuse c 24
    else if !m.mem.dataOk c 193 then m0.refuse c 16
    else
      let data := m.mem.dataIn c 193
      let key := data.take 97
      let msg := uidBytes ++ padTo 32 (Config.challenge old) ++ leBytes 4 (c.dw 0)
      match m.dev.otp.clearKey key with
      | none => m0.complete c Status.signatureBad
      | some k =>
        if Config.ecdsaVerify key (data.drop 97) (Config.sha384 msg) then
          let m1 := m0.bbxClear mask
          let m2 : Mach := { m1 with dev := m1.dev.record .main 12 0xFF mask k }
          m2.complete c Status.ok
        else m0.complete c Status.signatureBad)) s

end Sys2Proof.Machine
end

