-- ==== Sys2Proof/Machine/FlashCode.lean ====
section
/-! DEFINITION. Bytes on the media (R75, R76, R291 to R307, R336 to R358): markers, scrambler, LDPC parity, die parity, unit
headers, the volume header, tables and log units, and how they are read back. -/

namespace Sys2Proof.Machine
open Sys2Proof

/-! ### Descriptor (R291 to R294) -/

/-- Whether a descriptor copy passes its CRC and carries the MAGIC (R292). -/
def descGood (l : List Byte) : Bool := decide (rd l 124 4 = crc32c 0 (l.take 124)) && decide (slice l 0 4 = [0x48, 0x4D, 0x44, 0x31])

/-- The fields of a descriptor. -/
def parseGeo (l : List Byte) : Geo :=
  { dies := rd l 6 1, cePerCh := rd l 7 1, cell := rd l 8 1, flags := rd l 9 1, planes := rd l 10 1, blocks := rd l 12 2,
    pages := rd l 14 2, pageBytes := rd l 16 4, tProg := rd l 20 4, tBers := rd l 24 4, tR := rd l 28 4, endurance := rd l 32 4,
    readDisturb := rd l 36 4, retention := rd l 40 2, serial := slice l 44 16 }

/-- Whether every field lies within its values (R292). -/
def Geo.inRange (g : Geo) (version : Nat) : Bool :=
  let perCe := g.dies / (16 * g.cePerCh)
  decide (version = 1) && decide (16 ≤ g.dies ∧ g.dies ≤ 128 ∧ g.dies % 16 = 0) && decide (1 ≤ g.cePerCh ∧ g.cePerCh ≤ 8) &&
  decide (g.cell = 3 ∨ g.cell = 4) && decide (g.planes = 1 ∨ g.planes = 2 ∨ g.planes = 4) &&
  decide (1 ≤ g.blocks ∧ g.blocks ≤ 8192) && decide (1 ≤ g.pages ∧ g.pages ≤ 4096 ∧ g.pages % g.cell = 0) &&
  decide (18592 ≤ g.pageBytes) && decide (1 ≤ g.retention ∧ g.retention ≤ 8760) &&
  decide (g.dies % (16 * g.cePerCh) = 0) && decide (perCe = 1 ∨ perCe = 2 ∨ perCe = 4)

/-- FLAGS.WRITE_PROTECT and FLAGS.PSLC. -/
def Geo.protected_ (g : Geo) : Bool := bit g.flags 0
def Geo.pslc (g : Geo) : Bool := bit g.flags 1

/-- Number of groups. -/
def Geo.groups (g : Geo) : Nat := g.dies / 16

/-- Bits per cell of superblock `b` of a group: native in the system area (R294, R342). -/
def Geo.kOf (g : Geo) (grp b : Nat) : Nat := if g.pslc ∧ ¬(grp = 0 ∧ b ≤ 5 * g.planes) then 1 else g.cell

/-- Word lines per block at `k` bits per cell. -/
def Geo.wordLines (g : Geo) (k : Nat) : Nat := g.pages / max 1 k

/-- SPARE_BASE (R337). -/
def Geo.spareBase (g : Geo) : Nat := g.planes * (97 * g.blocks / (100 * max 1 g.planes))

/-- Superblock numbers of a group. -/
def Geo.sbNumbers (g : Geo) : List Nat := (List.range (g.spareBase / max 1 g.planes)).map (fun i => i * g.planes)

/-- Key of superblock `b` of group `grp`. -/
def sbKey (grp b : Nat) : Nat := 8192 * grp + b

/-- Data units of a stripe with `l` live dies at `k` bits per cell (R336). -/
def Geo.unitsOf (g : Geo) (l k : Nat) : Nat := (l - 1) * g.planes * k * 4

/-- LUA of a position (R336). -/
def luaOf (grp b w j : Nat) : Nat := 1024 * (4096 * (8192 * grp + b) + w) + j

/-- Group, superblock, word line and position of an LUA. -/
def luaParts (a : Nat) : Nat × Nat × Nat × Nat := (a / 2 ^ 35, a / 2 ^ 22 % 8192, a / 1024 % 4096, a % 1024)

/-- PPA (R296). -/
def ppaOf (die block page : Nat) : Nat := 2 ^ 25 * die + 4096 * block + page

/-! ### Scrambler (R299) -/

/-- One step: the output bit and the next state. -/
def lfsr (s : Nat) : Nat × Nat :=
  let fb := (s ^^^ (s >>> 2) ^^^ (s >>> 3) ^^^ (s >>> 5)) % 2
  (s % 2, s / 2 + fb * 32768)

/-- Eight steps: a keystream byte, least significant bit first. -/
def lfsrByte : Nat → Nat → Nat → Nat × Nat
  | 0, _, s => (0, s)
  | k + 1, i, s =>
    let (o, s1) := lfsr s
    let (r, s2) := lfsrByte k (i + 1) s1
    (o * 2 ^ i + r, s2)

/-- Scramble or descramble bytes from a state; the state after them. -/
def scramble : List Byte → Nat → List Byte × Nat
  | [], s => ([], s)
  | b :: r, s =>
    let (k, s1) := lfsrByte 8 0 s
    let (t, s2) := scramble r s1
    ((b ^^^ BitVec.ofNat 8 k) :: t, s2)

/-- Seed of a page. -/
def scrSeed (ppa : Nat) : Nat := let s := (ppa % 65536) ^^^ 0xACE1; if s = 0 then 0xFFFF else s

/-! ### LDPC parity (R300, R301) -/

/-- Segment `j` of the information bits. -/
def ldpcSeg (info j : Nat) : Nat := (info >>> (1031 * j)) % 2 ^ 1031

/-- The segment whose element r is element (r + t) mod 1,031. -/
def ldpcRot (u t : Nat) : Nat := let t := t % 1031; (u >>> t) ||| ((u % 2 ^ t) <<< (1031 - t))

/-- Sum s[i] of block row `i`. -/
def ldpcRow (info i : Nat) : Nat := (List.range 32).foldl (fun a j => a ^^^ ldpcRot (ldpcSeg info j) (i * j)) 0

/-- The 4,124 parity bits as one number. -/
def ldpcParity (info : Nat) : Nat :=
  let p0 := ldpcRow info 0
  let p1 := ldpcRow info 1 ^^^ p0
  let p2 := ldpcRow info 2 ^^^ p1
  let p3 := ldpcRow info 3 ^^^ p2
  p0 + 2 ^ 1031 * p1 + 2 ^ 2062 * p2 + 2 ^ 3093 * p3

/-- Codeword of 4,640 bytes from its 4,124 scrambled bytes (R297). -/
def codeword (l : List Byte) : List Byte := let d := padTo 4124 l; d ++ leBytes 516 (ldpcParity (leNat d))

/-- Whether a codeword satisfies every parity check. -/
def codewordOk (l : List Byte) : Bool := decide (slice l 4124 516 = leBytes 516 (ldpcParity (leNat (slice l 0 4124))))

/-! ### Pages (R297, R298, R306) -/

/-- A page marker (R298). -/
structure Marker where
  ppa : Nat
  stamp : Nat
  tag : Nat
  seq : Nat
  kind : Nat
  pos : Nat
  lua : Nat
  deriving DecidableEq, Repr

/-- The 32 bytes of a marker. -/
def Marker.bytes (k : Marker) : List Byte :=
  let b := [0x48, 0x56, 0x50, 0x4D] ++ leBytes 4 k.ppa ++ leBytes 4 k.stamp ++ leBytes 4 k.tag ++ leBytes 4 k.seq ++
    leBytes 1 k.kind ++ leBytes 1 (k.pos % 16) ++ [0, 0] ++ leBytes 4 k.lua ++ [0, 0]
  b ++ leBytes 2 (crc16 b)

/-- The marker of a page, where its MAGIC and MARKER_CRC are good. -/
def parseMarker (l : List Byte) : Option Marker :=
  if slice l 0 4 = [0x48, 0x56, 0x50, 0x4D] ∧ rd l 30 2 = crc16 (slice l 0 30) then
    some { ppa := rd l 4 4, stamp := rd l 8 4, tag := rd l 12 4, seq := rd l 16 4, kind := rd l 20 1, pos := rd l 21 1 % 16, lua := rd l 24 4 }
  else none

/-- Four codewords of a page from its units (user and metadata, 4,124 bytes each), scrambled in order. -/
def pageWords : List (List Byte) → Nat → List Byte
  | [], _ => []
  | u :: r, s =>
    let (b, s1) := scramble (padTo 4124 u) s
    codeword b ++ pageWords r s1

/-- The 18,592 bytes of a data page. -/
def pageBytes (k : Marker) (units : List (List Byte)) : List Byte := k.bytes ++ pageWords units (scrSeed k.ppa)

/-- XOR of byte lists of one length. -/
def xorBytes (a b : List Byte) : List Byte := List.zipWith (· ^^^ ·) a b

/-- The parity page of data pages (R306). -/
def parityPage (k : Marker) (pages : List (List Byte)) : List Byte :=
  k.bytes ++ (pages.map (fun p => slice p 32 18560)).foldl xorBytes (zeros 18560)

/-- Descrambled bytes of codewords 0 to `c` of a page: the unit in codeword `c` (user and metadata). -/
def unitAt (page : List Byte) (ppa : Nat) : Nat → List Byte
  | c =>
    let all := ((List.range (c + 1)).map (fun i => slice page (32 + 4640 * i) 4124)).flatten
    slice (scramble all (scrSeed ppa)).1 (4124 * c) 4124

/-! ### Units (R340, R341) -/

/-- A unit header (R340); UNIT_CRC is over the user bytes and the 24 bytes before it. -/
def unitHeader (user : List Byte) (kind unit clip frame start check origin : Nat) : List Byte :=
  let h := leBytes 1 kind ++ leBytes 5 unit ++ leBytes 2 clip ++ leBytes 4 frame ++ leBytes 2 start ++ [0, 0] ++ leBytes 4 check ++ leBytes 4 origin
  h ++ leBytes 4 (crc32c 0 (padTo 4096 user ++ h))

/-- A pad unit (R341). -/
def padUnit : StripeUnit := { user := zeros 4096 }

/-- The 4,124 bytes of a unit at an LUA. -/
def StripeUnit.bytes (u : StripeUnit) (lua : Nat) : List Byte :=
  padTo 4096 u.user ++ unitHeader u.user u.kind u.unit u.clip u.frame u.start u.check (u.origin.getD lua % 2 ^ 32)

/-- Whether UNIT_CRC holds. -/
def unitCrcOk (u : List Byte) : Bool := decide (rd u 4120 4 = crc32c 0 (slice u 0 4096 ++ slice u 4096 24))

/-- Chunk check value (R79). -/
def chunkCheck (volId lua frame : Nat) (bytes : List Byte) : Nat :=
  crc32c ((volId % 2 ^ 32) ^^^ (lua % 2 ^ 32) ^^^ (65536 * (frame % 65536) + frame / 65536 % 65536)) bytes

/-! ### Positions (R305, R339) -/

/-- Block of a member: the spare that the bad-block table gives, else the block itself (R337). -/
def Volume.member (v : Volume) (die block : Nat) : Nat :=
  match v.bads.find? (fun x => decide (x.die = die) && decide (x.block = block) && decide (x.spare ≠ 0xFFFF)) with
  | some x => x.spare
  | none => block

/-- Live dies of a group under a mask. -/
def liveDies (grp mask : Nat) : List Nat := ((List.range 16).filter (fun i => bit mask i)).map (fun i => 16 * grp + i)

/-- PPA and codeword of data position `j` of word line `w` of superblock `b` (R339). -/
def Volume.place (v : Volume) (g : Geo) (b w : Nat) (dies : List Nat) (k j : Nat) : Nat × Nat :=
  let t := j / 4
  let pl := t % g.planes
  let t1 := t / g.planes
  let p := t1 % max 1 k
  let x := t1 / max 1 k
  let parity := (b + w) % max 1 dies.length
  let pos := if x < parity then x else x + 1
  let die := dies.getD pos 0
  (ppaOf die (v.member die (b + pl)) (k * w + p), j % 4)

/-- Entry of a superblock. -/
def Volume.sb (v : Volume) (key : Nat) : SbEntry := Tbl.get (fun _ => {}) v.sbs key

/-- Put the entry of a superblock. -/
def Volume.setSb (v : Volume) (key : Nat) (e : SbEntry) : Volume := { v with sbs := Tbl.set (fun _ => {}) v.sbs key e }

/-- Resolve an LUA through the relocation map (R350). -/
def Volume.resolve (v : Volume) (a : Nat) : Nat :=
  match v.reloc.find? (fun e => decide (e.1 = a - a % 4)) with
  | some e => e.2 + a % 4
  | none => a

/-- Whether an LUA names a position of R339. -/
def Volume.positionOk (v : Volume) (g : Geo) (a : Nat) : Bool :=
  let (grp, b, w, j) := luaParts a
  let e := v.sb (sbKey grp b)
  let k := g.kOf grp b
  decide (grp < g.groups) && decide (b < g.spareBase) && decide (b % max 1 g.planes = 0) && decide (w < g.wordLines k) &&
  decide (j < g.unitsOf (liveDies grp e.liveMask).length k)

/-- PPA and codeword of an LUA. -/
def Volume.ppaOfLua (v : Volume) (g : Geo) (a : Nat) : Nat × Nat :=
  let (grp, b, w, j) := luaParts a
  v.place g b w (liveDies grp (v.sb (sbKey grp b)).liveMask) (g.kOf grp b) j

/-! ### Volume structures (R344, R345, R348 to R353) -/

/-- A table pointer. -/
structure TablePtr where
  lua : Nat
  units : Nat
  crc : Nat
  deriving DecidableEq, Repr

def TablePtr.bytes (p : TablePtr) : List Byte := leBytes 8 p.lua ++ leBytes 4 p.units ++ leBytes 4 p.crc

def SbEntry.bytes (e : SbEntry) : List Byte :=
  leBytes 1 e.state ++ leBytes 1 e.kind ++ leBytes 2 e.liveMask ++ leBytes 4 e.eraseCount ++ leBytes 4 e.readCount ++
  leBytes 4 e.firstSeq ++ leBytes 2 e.wlUsed ++ [0, 0] ++ leBytes 4 e.liveUnits

def parseSb (l : List Byte) : SbEntry :=
  { state := rd l 0 1, kind := rd l 1 1, liveMask := rd l 2 2, eraseCount := rd l 4 4, readCount := rd l 8 4, firstSeq := rd l 12 4,
    wlUsed := rd l 16 2, liveUnits := rd l 20 4 }

def BadBlock.bytes (x : BadBlock) : List Byte := leBytes 1 x.die ++ leBytes 1 x.flags ++ leBytes 2 x.block ++ leBytes 2 x.spare ++ [0, 0]

def parseBad (l : List Byte) : BadBlock := { die := rd l 0 1, flags := rd l 1 1, block := rd l 2 2, spare := rd l 4 2 }

def Clip.entry (c : Clip) : List Byte :=
  leBytes 2 c.id ++ leBytes 1 c.state ++ leBytes 1 c.stream ++ leBytes 1 c.mode ++ leBytes 1 c.cfa ++ leBytes 1 c.depth ++ leBytes 1 c.tiles ++
  leBytes 2 c.width ++ leBytes 2 c.height ++ leBytes 2 c.rateN ++ leBytes 2 c.rateD ++ leBytes 4 c.first ++ leBytes 4 c.last ++
  leBytes 4 c.indexed ++ leBytes 4 c.dropped ++ leBytes 8 c.bytes ++ leBytes 4 c.slot ++ leBytes 1 c.flags ++ [0, 0, 0] ++ leBytes 8 c.peer ++
  leBytes 8 c.lastLog ++ leBytes 8 c.indexedUnits ++ leBytes 4 c.logUnits ++ [0, 0, 0, 0] ++ padTo 16 c.openStamp ++ padTo 16 c.closeStamp ++ padTo 16 c.label

def parseClip (l : List Byte) : Clip :=
  { id := rd l 0 2, state := rd l 2 1, stream := rd l 3 1, mode := rd l 4 1, cfa := rd l 5 1, depth := rd l 6 1, tiles := rd l 7 1,
    width := rd l 8 2, height := rd l 10 2, rateN := rd l 12 2, rateD := rd l 14 2, first := rd l 16 4, last := rd l 20 4,
    indexed := rd l 24 4, dropped := rd l 28 4, bytes := rd l 32 8, slot := rd l 40 4, flags := rd l 44 1, peer := rd l 48 8,
    lastLog := rd l 56 8, indexedUnits := rd l 64 8, logUnits := rd l 72 4, openStamp := slice l 80 16, closeStamp := slice l 96 16, label := slice l 112 16 }

/-- Cut bytes into pieces of `n`, at most `k` of them, each padded. -/
def piecesOf (n : Nat) : Nat → List Byte → List (List Byte)
  | 0, _ => []
  | k + 1, l => padTo n l :: piecesOf n k (l.drop n)

/-- A table: its header and entries, padded to whole units (R345). -/
def tableUnits (type gen size : Nat) (entries : List (List Byte)) : List (List Byte) :=
  let b := leBytes 2 type ++ [0, 0] ++ leBytes 4 entries.length ++ leBytes 4 size ++ leBytes 4 gen ++ entries.flatten
  piecesOf 4096 (ceilDiv b.length 4096) b

/-- Pointer to table units at an LUA. -/
def tablePtr (lua : Nat) (units : List (List Byte)) : TablePtr := { lua := lua, units := units.length, crc := crc32c 0 units.flatten }

/-- The volume header (R344). -/
def Volume.header (v : Volume) (g : Geo) (seq : Nat) (ptrs : List TablePtr) (stamp : List Byte) (wear : List Byte) : List Byte :=
  let h := [0x48, 0x56, 0x48, 0x44, 1, 0, 0, 0] ++ leBytes 8 v.id ++ leBytes 8 v.gen ++ leBytes 4 seq ++ leBytes 4 v.mounts ++
    padTo 16 v.formatStamp ++ padTo 16 stamp ++ leBytes 1 g.dies ++ leBytes 1 g.planes ++ leBytes 1 g.cell ++ leBytes 1 v.descFlags ++
    leBytes 2 g.blocks ++ leBytes 2 g.pages ++ leBytes 4 g.pageBytes ++ leBytes 2 g.spareBase ++ leBytes 1 v.proxyPct ++ [0] ++
    padTo 16 g.serial ++ (ptrs.map TablePtr.bytes).flatten ++ padTo 64 wear
  let b := padTo 4092 h
  b ++ leBytes 4 (crc32c 0 b)

/-- Whether 4,096 bytes are a volume header whose HEADER_CRC passes. -/
def headerGood (l : List Byte) : Bool := decide (slice l 0 4 = [0x48, 0x56, 0x48, 0x44]) && decide (rd l 4092 4 = crc32c 0 (slice l 0 4092))

/-- Table pointer `i` of a header. -/
def headerPtr (l : List Byte) (i : Nat) : TablePtr := { lua := rd l (96 + 16 * i) 8, units := rd l (104 + 16 * i) 4, crc := rd l (108 + 16 * i) 4 }

/-- A clip log unit (R352): 64-byte header, then records; LOG_CRC is over both without itself. -/
def logUnit (clip type count prev seq encoder : Nat) (stamp : List Byte) (recs : List Byte) : List Byte :=
  let h := [0x48, 0x56, 0x43, 0x4C] ++ leBytes 2 clip ++ leBytes 1 type ++ leBytes 1 count ++ leBytes 8 prev ++ leBytes 4 seq ++
    leBytes 1 encoder ++ [0, 0, 0] ++ padTo 16 stamp ++ zeros 20
  let body := padTo 4032 recs
  h ++ leBytes 4 (crc32c 0 (h ++ body)) ++ body

/-- Whether a unit is a log unit of a clip with a good LOG_CRC. -/
def logGood (clip : Nat) (u : List Byte) : Bool :=
  decide (slice u 0 4 = [0x48, 0x56, 0x43, 0x4C]) && decide (rd u 4 2 = clip) &&
  decide (rd u 60 4 = crc32c 0 (slice u 0 60 ++ slice u 64 4032))

def Extent.bytes (e : Extent) : List Byte := leBytes 5 e.first ++ leBytes 3 e.count ++ leBytes 8 e.lua

def parseExtent (l : List Byte) : Extent := { first := rd l 0 5, count := rd l 5 3, lua := rd l 8 8 }

/-- A frame record (R353). -/
def frameRecord (frame flags index reason tiles bytes offset crc eclipse fallback : Nat) (stamp : List Byte) : List Byte :=
  leBytes 4 frame ++ leBytes 4 flags ++ leBytes 1 index ++ leBytes 1 reason ++ leBytes 1 tiles ++ [0] ++ leBytes 4 bytes ++ leBytes 8 offset ++
  leBytes 4 crc ++ leBytes 2 eclipse ++ leBytes 2 fallback ++ padTo 16 stamp ++ zeros 16

/-- The LUA `n` positions after another of its superblock, `per` data units to a word line. -/
def luaAdd (per a n : Nat) : Nat :=
  let (grp, b, w, j) := luaParts a
  let pos := w * per + j + n
  luaOf grp b (pos / max 1 per) (pos % max 1 per)

/-- Add a stream unit placed at an LUA to extents: it joins the last run or begins one (R355). -/
def addUnit (per : Nat) (exts : List Extent) (unit lua : Nat) : List Extent :=
  match exts.getLast? with
  | none => [{ first := unit, count := 1, lua := lua }]
  | some e =>
    if unit = e.first + e.count ∧ lua = luaAdd per e.lua e.count then exts.dropLast ++ [{ e with count := e.count + 1 }]
    else exts ++ [{ first := unit, count := 1, lua := lua }]

/-- LUA of a stream unit through a clip's extents, `per` giving the data units per word line of a superblock (R355). -/
def Clip.luaOfUnit (c : Clip) (per : Nat → Nat → Nat) (unit : Nat) : Option Nat :=
  (c.exts.find? (fun e => decide (e.first ≤ unit) && decide (unit < e.first + e.count))).map (fun e =>
    luaAdd (per (luaParts e.lua).1 (luaParts e.lua).2.1) e.lua (unit - e.first))

end Sys2Proof.Machine
end

