-- ==== Sys2Proof/Machine/Seq.lean ====
section
/-! DEFINITION. The codec sequencer (R233 to R251, R437): micro-words and nano-words of the customer window, threads, events,
requests, and the loading of a customer image. The vendor microcode is the default policy, which the pipelines apply at once. -/

namespace Sys2Proof.Machine
open Sys2Proof

/-! ### Words (R234 to R240) -/

/-- Thread `t`. -/
def Dev.thread (d : Dev) (t : Nat) : SeqThread := d.seqr.threads.getD t {}

def Dev.onThread (d : Dev) (t : Nat) (f : SeqThread → SeqThread) : Dev := d.onSeq (fun q => { q with threads := modAt q.threads t f })

/-- The micro-word at an address. -/
def Dev.micro (d : Dev) (a : Nat) : Nat :=
  match d.seqr.micro.find? (fun e => decide (e.1 = a)) with
  | some e => e.2
  | none => Config.emptyMicro a % 2 ^ 20

/-- The nano-word at an address. -/
def Dev.nano (d : Dev) (a : Nat) : Nat :=
  match d.seqr.nano.find? (fun e => decide (e.1 = a)) with
  | some e => e.2
  | none => Config.emptyNano a % 2 ^ 160

def microNano (w : Nat) : Nat := bits w 10 10
def microWait (w : Nat) : Nat := bits w 5 5
def microNext (w : Nat) : Nat := bits w 0 5
def nanoTarget (w : Nat) : Nat := bits w 147 13
def nanoSlot (w i : Nat) : Nat := bits w (54 * i) 54
def slotOp (s : Nat) : Nat := bits s 49 5
def slotA (s : Nat) : Nat := bits s 43 6
def slotB (s : Nat) : Nat := bits s 37 6
def slotDst (s : Nat) : Nat := bits s 32 5
def slotImm (s : Nat) : Nat := bits s 0 32

/-- A signed number modulo 2^32. -/
def mod32 (x : Int) : Nat := (x % (2 ^ 32 : Nat)).toNat

/-- Result of an operation with the flags it names: CARRY, NEG, DIVZ (R238). -/
structure SlotResult where
  value : Nat
  carry : Option Bool := none
  neg : Option Bool := none
  divz : Option Bool := none
  deriving DecidableEq, Repr

/-- The operation of a slot on its operands; `dv` is the divisor register of MULDIV (R238). -/
def slotRun (op a b dv : Nat) : Option SlotResult :=
  match op with
  | 1 => some { value := (a + b) % 2 ^ 32, carry := some (decide (2 ^ 32 ≤ a + b)) }
  | 2 =>
    let v := (a + 2 ^ 32 - b) % 2 ^ 32
    some { value := v, carry := some (decide (a < b)), neg := some (bit v 31) }
  | 3 => some { value := a * b % 2 ^ 32 }
  | 4 => some (if b = 0 then { value := 0xFFFFFFFF, divz := some true } else { value := a / b, divz := some false })
  | 5 => some { value := min a b }
  | 6 => some { value := max a b }
  | 7 => some { value := a &&& b }
  | 8 => some { value := a ||| b }
  | 9 => some { value := a ^^^ b }
  | 10 => some { value := (a <<< (b % 32)) % 2 ^ 32 }
  | 11 => some { value := a >>> (b % 32) }
  | 12 => some { value := a }
  | 13 => some { value := a - b }
  | 14 =>
    some (if dv = 0 then { value := 0xFFFFFFFF, divz := some true }
      else { value := min (a * b / dv) 0xFFFFFFFF, divz := some false })
  | _ => none

/-! ### Hardware operands (R239) -/

/-- The tile that a thread's operands refer to: that of its band, or on the frame thread the one that r14 names. -/
def SeqThread.tileRef (x : SeqThread) (t : Nat) : Option BandRef :=
  x.ref.map (fun r => if t = 24 then { r with tile := (x.regs.getD 14 0).toNat % 32 } else r)

/-- Whether a tile operand of the frame thread reads 0 (R239). -/
def frameZero (t sel : Nat) : Bool := decide (t = 24) && decide (17 ≤ sel ∧ sel ≤ 33)

/-- Selectors 17 to 39 for a band of a frame in work. -/
def Dev.bandOperand (d : Dev) (r : BandRef) (w : Work) (sel : Nat) : Nat :=
  let b := w.band r.tile r.band
  let x := w.tile r.tile
  let er := d.reserveDepth r.stream w.depth
  let sizes := match b.formed with
    | some f => sizesOf w f
    | none => (none, none)
  let orNone : Option Nat → Nat := fun o => o.getD 0xFFFFFFFF
  let orFree : Nat → Nat := fun n => if w.budgeted then n % 2 ^ 32 else 0xFFFFFFFF
  match sel with
  | 17 => r.band
  | 18 => w.photos r.tile r.band
  | 19 => w.remaining r.tile r.band
  | 20 => x.spent
  | 21 => orFree (w.reserve r.tile r.band er)
  | 22 => if w.budgeted then mod32 (w.surplus r.tile r.band er) else 0
  | 23 => orFree (mod32 (if b.allowed then b.limit else w.surplus r.tile r.band er + (w.cost r.tile r.band er : Int)))
  | 24 => w.cost r.tile r.band er
  | 25 => w.cost r.tile r.band 0
  | 26 => orNone sizes.1
  | 27 => orNone sizes.2
  | 28 => b.delta1
  | 29 => (x.lastDelta.getD (match d.pastOf r.stream (prevFrame w.frame 2) with
      | some p => if w.r38 then 0 else p.deltas.getD r.tile 0
      | none => 0))
  | 30 => d.ceiling r.stream
  | 31 => w.mode
  | 32 => if 2 ≤ b.attempts then 2 else 1
  | 33 => orFree x.budget
  | 34 => w.frame
  | 35 => (d.defaultWeights r.stream w).getD r.tile 0
  | 36 => if w.r38 then 0 else match d.pastOf r.stream (prevFrame w.frame 2) with
      | some p => p.eclipses.getD r.tile 0
      | none => 0
  | 37 => d.slack x.engine
  | 38 => 2 ^ 8 * (r.stream % 64) + r.tile % 32
  | 39 => b2n x.exhausted + 2 * b2n x.marginUsed + 4 * b2n w.r38
  | _ => 0

/-- Operand `sel` of thread `t`; `imm` is the slot's immediate (R239). -/
def Dev.operand (d : Dev) (t sel imm : Nat) : Nat :=
  let x := d.thread t
  if sel < 16 then (x.regs.getD sel 0).toNat
  else if sel = 63 then imm
  else if sel = 16 then (match x.cur with
    | some e => e.arg
    | none => 0)
  else if 40 ≤ sel ∧ sel < 48 then (d.reg 0x19 (0x20 + 4 * (sel - 40))).toNat
  else if frameZero t sel then 0
  else
    match x.tileRef t with
    | none => 0
    | some r =>
      match d.work r.stream r.frame with
      | some w => d.bandOperand r w sel % 2 ^ 32
      | none => if sel = 34 then r.frame else if sel = 17 then r.band else if sel = 38 then 2 ^ 8 * (r.stream % 64) + r.tile % 32 else 0

/-! ### Metadata (R241) -/

/-- The frame whose metadata a thread's words go to: that of its band, or the next one in work once that has ended. -/
def Dev.metaFrame (d : Dev) (x : SeqThread) : Option (Nat × Nat) :=
  match x.ref with
  | none => none
  | some r =>
    match d.work r.stream r.frame with
    | some w =>
      if !w.gone then some (r.stream, r.frame)
      else ((d.cap r.stream).bind (fun c => c.works.find? (fun v => !v.gone))).map (fun v => (r.stream, v.frame))
    | none => ((d.cap r.stream).bind (fun c => c.works.find? (fun v => !v.gone))).map (fun v => (r.stream, v.frame))

/-- Bytes of a thread's items in a frame. -/
def Dev.metaUsed (d : Dev) (t s n : Nat) : Nat :=
  match d.work s n with
  | some w => sumBy (fun i => i.2.length) (Tbl.get (fun _ => []) w.custom t)
  | none => 4096

/-- Whether a thread's item has room for one more word (condition 4). -/
def Dev.metaRoom (d : Dev) (t : Nat) : Bool :=
  match d.metaFrame (d.thread t) with
  | some (s, n) => decide (d.metaUsed t s n + 4 ≤ 4096)
  | none => false

/-- Add an item, or append bytes to the last one, of thread `t` in a frame. -/
def Dev.onItems (d : Dev) (t s n : Nat) (f : List (Nat × List Byte) → List (Nat × List Byte)) : Dev :=
  d.modWork s n (fun w => { w with custom := Tbl.set (fun _ => []) w.custom t (f (Tbl.get (fun _ => []) w.custom t)) })

/-- META_TAG: an item opens with a TAG of 0x8000 or above (R240). -/
def Dev.metaTag (d : Dev) (t v : Nat) : Dev :=
  let tag := v % 65536
  let d1 := if tag < 0x8000 then d.bump 0x19 0x4C else d
  let tag1 := if tag < 0x8000 then 0x8000 + tag else tag
  match d1.metaFrame (d1.thread t) with
  | none => d1
  | some (s, n) => (d1.onItems t s n (fun l => l ++ [(tag1, [])])).onThread t (fun x => { x with item := some (tag1, s, n) })

/-- META_WORD: four bytes go to the open item, or to one of the same TAG of the next frame (R241). -/
def Dev.metaWord (d : Dev) (t v : Nat) : Dev :=
  match (d.thread t).item, d.metaFrame (d.thread t) with
  | some (tag, s0, n0), some (s, n) =>
    let d1 := if s0 = s ∧ n0 = n then d
      else (d.onItems t s n (fun l => l ++ [(tag, [])])).onThread t (fun x => { x with item := some (tag, s, n) })
    d1.onItems t s n (fun l => modAt l (l.length - 1) (fun i => (i.1, i.2 ++ leBytes 4 v)))
  | _, _ => d

/-! ### Events (R242, R243) -/

/-- Entries of a thread's post queue. -/
def SeqThread.posted (x : SeqThread) : Nat := (x.events.filter (fun e => e.posted)).length

/-- Post a customer event on a thread; a full queue drops it (R242). -/
def Dev.postCustomer (d : Dev) (t v arg : Nat) : Dev :=
  if 8 ≤ (d.thread t).posted then d.bump 0x19 0x48
  else d.seqPost t { op := 0xF8 + v % 8, arg := arg % 2 ^ 32, posted := true }

/-- POST by thread `t` (R242). -/
def Dev.post (d : Dev) (t v : Nat) : Dev :=
  let n := bits v 8 5
  let dest := if 25 ≤ n then t else n
  if bit v 16 then d.onThread dest (fun x => { x with flags := modAt x.flags (bits v 17 2) (fun _ => true) })
  else d.postCustomer dest v v

/-! ### Conditions (R237) -/

/-- Whether condition `c` of R237 holds for thread `t`. -/
def Dev.condition (d : Dev) (t c : Nat) : Bool :=
  let x := d.thread t
  let w := x.ref.bind (fun r => (d.work r.stream r.frame).map (fun w => (r, w)))
  match c with
  | 0 => true
  | 1 => match w with
    | some (r, w) => (w.band r.tile r.band).allowed
    | none => false
  | 2 => true
  | 3 => match w with
    | some (_, w) => w.tables.isSome
    | none => false
  | 4 => d.metaRoom t
  | 5 => x.expired
  | 6 => decide (x.posted < 8)
  | _ => if 28 ≤ c then x.flags.getD (c - 28) false else false

/-! ### Decisions (R243, R244) -/

/-- Apply the requests of a handler to the decision that it was asked for; a request not written takes the default (R244). -/
def Mach.decided (m : Mach) (dec : Decision) (q : Requests) : Mach :=
  let asked : BandRef → Bool := fun r =>
    match m.dev.bandOf r with
    | some (w, b) => b.asked && !w.gone
    | none => false
  match dec with
  | .bandStart r =>
    if asked r then Mach.attemptStart { m with dev := m.dev.onBand r (fun b => { b with asked := false, decided := some q.delta }) } (m.dev.engineOf r)
    else m
  | .measure r size => if asked r then { m with dev := (m.dev.measureDecided r size q.allow).pump (m.dev.engineOf r) } else m
  | .overshoot r _ x => if asked r then { m with dev := m.dev.secondAttempt r x q.delta2 } else m
  | .eclipse r fresh =>
    if asked r then
      let m1 := m.eclipseDecided r fresh q.allow q.depth
      { m1 with dev := m1.dev.pump (m.dev.engineOf r) }
    else m
  | .statistics s n =>
    match m.dev.work s n with
    | none => m
    | some w =>
      if w.divided ∨ w.gone then m
      else
        let zero := (List.range w.tiles.length).filter (fun t => decide (Tbl.get (fun _ => none) q.weights t = some 0))
        let d1 := zero.foldl (fun d t => d.countClamp (w.tile t).engine true) m.dev
        { m with dev := (d1.divide s n (d1.mixWeights s w q.weights)).pumpAll }

/-- The requests left after a decision has taken its own: one written by another handler waits for the next computation
(R161, R244). -/
def Requests.after (q : Requests) : Decision → Requests
  | .bandStart _ => { q with delta := none }
  | .measure _ _ => { q with allow := none }
  | .overshoot _ _ _ => { q with delta2 := none }
  | .eclipse _ fresh => { q with depth := none, allow := if fresh then none else q.allow }
  | .statistics _ _ => { q with weights := [] }

/-- The handler of thread `t` ends; `forced` discards its requests (R244, R245). -/
def Mach.endHandler (m : Mach) (t : Nat) (forced : Bool) : Mach :=
  let x := m.dev.thread t
  let q : Requests := if forced then {} else x.req
  let left : Requests := match x.cur.bind (fun e => e.dec) with
    | some dec => q.after dec
    | none => q
  let d1 := m.dev.onThread t (fun x => { x with pc := none, cur := none, count := 0, waitAt := none, stack := [], req := left })
  let d2 := if forced then (d1.bump 0x19 0x44).raise 403 t else d1
  match x.cur.bind (fun e => e.dec) with
  | some dec => Mach.decided { m with dev := d2 } dec q
  | none => { m with dev := d2 }

/-- Micro-words, and clocks spent waiting, that the handler of a thread may take (R245). -/
def SeqThread.limit (x : SeqThread) (t : Nat) : Nat :=
  match x.cur.bind (fun e => e.dec) with
  | some _ => if t = 24 then 4096 else 40
  | none => 4096

/-- A store word fetched with a parity error ends the handler (R235, R245). -/
def Mach.storeParity (m : Mach) (t addr : Nat) : Mach := Mach.endHandler { m with dev := m.dev.raise 402 addr } t true

/-! ### Executing a micro-word (R236 to R240) -/

/-- Write the result of a slot (R240). -/
def Dev.writeDst (d : Dev) (t dst v : Nat) : Dev :=
  if dst < 16 then d.onThread t (fun x => { x with regs := modAt x.regs dst (fun _ => word v) })
  else
    match dst with
    | 16 => d.onThread t (fun x => { x with req := { x.req with allow := some v } })
    | 17 => d.onThread t (fun x => { x with req := { x.req with delta := some v } })
    | 18 => d.onThread t (fun x => { x with req := { x.req with delta2 := some v } })
    | 19 => d.onThread t (fun x => { x with req := { x.req with depth := some v } })
    | 20 =>
      if t = 24 then
        d.onThread t (fun x =>
          let w := Tbl.set (fun _ => none) x.req.weights ((x.regs.getD 14 0).toNat % 32) (some v)
          { x with req := { x.req with weights := w } })
      else d
    | 21 => d.metaTag t v
    | 22 => d.metaWord t v
    | 23 => d.post t v
    | _ => d

/-- The slots that execute: operands are read before either writes, and slot 1 wins a destination that both name (R238). -/
def Dev.slotResults (d : Dev) (t nano : Nat) : List (Nat × Nat × SlotResult) :=
  let one : Nat → Option (Nat × Nat × SlotResult) := fun i =>
    let s := nanoSlot nano i
    let dv := ((d.thread t).regs.getD (slotImm s % 16) 0).toNat
    (slotRun (slotOp s) (d.operand t (slotA s) (slotImm s)) (d.operand t (slotB s) (slotImm s)) dv).map (fun r => (i, slotDst s, r))
  match one 0, one 1 with
  | some a, some b => if a.2.1 = b.2.1 then [b] else [a, b]
  | some a, none => [a]
  | none, some b => [b]
  | none, none => []

/-- Set the flags of thread `t` from a result (R238). -/
def SeqThread.setFlags (x : SeqThread) (r : SlotResult) : SeqThread :=
  { x with zero := decide (r.value = 0), carry := r.carry.getD x.carry, neg := r.neg.getD x.neg, divz := r.divz.getD x.divz }

/-- Execute a nano-word on thread `t` (R238). -/
def Dev.runNano (d : Dev) (t nano : Nat) : Dev :=
  let s0 := nanoSlot nano 0
  let s1 := nanoSlot nano 1
  let flagSlot := if bit nano 146 then s1 else s0
  let dv := ((d.thread t).regs.getD (slotImm flagSlot % 16) 0).toNat
  let flagRes := slotRun (slotOp flagSlot) (d.operand t (slotA flagSlot) (slotImm flagSlot)) (d.operand t (slotB flagSlot) (slotImm flagSlot)) dv
  let d1 := (d.slotResults t nano).foldl (fun d r => d.writeDst t r.2.1 r.2.2.value) d
  match flagRes with
  | some r => d1.onThread t (fun x => x.setFlags r)
  | none => d1

/-- Whether a nano-word appends to a metadata item. -/
def nanoMeta (nano : Nat) : Bool :=
  [0, 1].any (fun i => decide (slotOp (nanoSlot nano i) ≠ 0) && decide (slotDst (nanoSlot nano i) = 22))

/-- Whether the micro-word at which thread `t` stands may execute now (R237, R241). -/
def Dev.wordReady (d : Dev) (t w : Nat) : Bool :=
  (decide (microNext w = 4) || d.condition t (microWait w)) && (!nanoMeta (d.nano (microNano w)) || d.metaRoom t)

/-- A wait that ends clears the customer flag it waited for, and the timer (R237). -/
def Dev.waitEnds (d : Dev) (t w : Nat) : Dev :=
  let c := microWait w
  if microNext w = 4 then d
  else d.onThread t (fun x =>
    { x with flags := if 28 ≤ c then modAt x.flags (c - 28) (fun _ => false) else x.flags,
             expired := if c = 5 then false else x.expired, timer := if c = 5 then none else x.timer })

/-- Execute the micro-word at address `a`: its nano-word, then the next address (R236). -/
def Mach.runWord (m : Mach) (t a : Nat) : Mach :=
  let w := m.dev.micro a
  let nano := m.dev.nano (microNano w)
  let d1 := ((m.dev.waitEnds t w).runNano t nano).onThread t (fun x => { x with count := x.count + 1, waitAt := none })
  let x := d1.thread t
  let target := nanoTarget nano
  let goto_ : Nat → Mach := fun n => { m with dev := d1.onThread t (fun x => { x with pc := some (n % 2 ^ 13) }) }
  match microNext w with
  | 1 => goto_ target
  | 2 => goto_ (if x.neg then target else a + 1)
  | 3 => goto_ (if x.zero then target else a + 1)
  | 4 => goto_ (if m.dev.condition t (microWait w) then target else a + 1)
  | 5 =>
    if 4 ≤ x.stack.length then Mach.endHandler { m with dev := d1 } t true
    else { m with dev := d1.onThread t (fun x => { x with stack := (a + 1) :: x.stack, pc := some target }) }
  | 6 =>
    match x.stack with
    | [] => Mach.endHandler { m with dev := d1 } t true
    | p :: r => { m with dev := d1.onThread t (fun x => { x with stack := r, pc := some p }) }
  | 7 => Mach.endHandler { m with dev := d1 } t false
  | _ => goto_ (a + 1)

/-- A word that cannot execute yet waits; a wait on condition 5 loads the timer from r15 (R237). -/
def Dev.startWait (d : Dev) (t w : Nat) : Dev :=
  match (d.thread t).waitAt with
  | some _ => d
  | none => d.onThread t (fun x =>
    { x with waitAt := some d.clk,
             timer := if microWait w = 5 then some (d.clk + (x.regs.getD 15 0).toNat) else x.timer,
             expired := if microWait w = 5 then false else x.expired })

/-- A thread issues the micro-word at which it stands, whose NEXT is `next`; `par` says whether the micro-word (1) or its
nano-word (2) is fetched with a parity error (R235, R236). -/
def Mach.issue (m : Mach) (t next par : Nat) : Mach :=
  let x := m.dev.thread t
  match x.pc with
  | none => m
  | some a =>
    let w := m.dev.micro a
    if microNext w ≠ next ∨ x.limit t ≤ x.count ∨ x.waitAt.isSome then m
    else if par = 1 then m.storeParity t a
    else if par = 2 then m.storeParity t (microNano w)
    else if microWait w = 5 ∧ next ≠ 4 then { m with dev := m.dev.startWait t w }
    else if m.dev.wordReady t w then m.runWord t a
    else { m with dev := m.dev.startWait t w }

/-! ### Commands -/

/-- SEQ_DISPATCH: thread `t` takes its next event and starts the handler that the dispatch table names; an entry that no image
has loaded points to a stub that ends at once (R243, R250). `par` says that the first micro-word has a parity error (R235). -/
def execSeqDispatch (t : Nat) (par : Bool) (s : State) : Host.Outcome State Fault Refusal :=
  live (fun m =>
    let x := m.dev.thread t
    match x.pc, x.events with
    | none, e :: r =>
      let entry := m.dev.seqr.dispatch.getD (e.op - 0xF0) none
      let d1 := m.dev.onThread t (fun x => { x with events := r, cur := some e, pc := entry, count := 0, waitAt := none, stack := [],
                                                    ref := match e.ref with
                                                      | some q => some q
                                                      | none => x.ref })
      match entry with
      | none => Mach.endHandler { m with dev := d1 } t false
      | some a => if par then Mach.storeParity { m with dev := d1 } t a else { m with dev := d1 }
    | _, _ => m) s

/-- CONT: the micro-word's nano-word executes and the next address follows (R236). -/
def execCont (t par : Nat) (s : State) : Host.Outcome State Fault Refusal := live (fun m => m.issue t 0 par) s

/-- JUMP: the nano-word executes and TARGET follows (R236). -/
def execJump (t par : Nat) (s : State) : Host.Outcome State Fault Refusal := live (fun m => m.issue t 1 par) s

/-- BR_NEG: TARGET follows where NEG is 1 after the word (R236). -/
def execBrNeg (t par : Nat) (s : State) : Host.Outcome State Fault Refusal := live (fun m => m.issue t 2 par) s

/-- BR_ZERO: TARGET follows where ZERO is 1 after the word (R236). -/
def execBrZero (t par : Nat) (s : State) : Host.Outcome State Fault Refusal := live (fun m => m.issue t 3 par) s

/-- BR_COND: TARGET follows where the condition WAIT is true now (R236). -/
def execBrCond (t par : Nat) (s : State) : Host.Outcome State Fault Refusal := live (fun m => m.issue t 4 par) s

/-- CALL: the next address is pushed and TARGET follows; a full stack ends the handler (R236, R245). -/
def execCall (t par : Nat) (s : State) : Host.Outcome State Fault Refusal := live (fun m => m.issue t 5 par) s

/-- RET: the call stack is popped; an empty one ends the handler (R236, R245). -/
def execRet (t par : Nat) (s : State) : Host.Outcome State Fault Refusal := live (fun m => m.issue t 6 par) s

/-- END: the handler ends and its requests are applied (R236, R244). -/
def execSeqEnd (t par : Nat) (s : State) : Host.Outcome State Fault Refusal := live (fun m => m.issue t 7 par) s

/-- WAIT_RELEASE: the micro-word at which thread `t` waits executes, its condition having become true; the clocks of the wait
count (R237, R245). -/
def execWaitRelease (t : Nat) (s : State) : Host.Outcome State Fault Refusal :=
  live (fun m =>
    let x := m.dev.thread t
    match x.pc, x.waitAt with
    | some a, some from_ =>
      let n := x.count + (m.dev.clk - from_)
      if m.dev.wordReady t (m.dev.micro a) ∧ n < x.limit t then
        Mach.runWord { m with dev := m.dev.onThread t (fun x => { x with count := n }) } t a
      else m
    | _, _ => m) s

/-- SEQ_TIMER_EXPIRE: the timer of thread `t` expires (R237). -/
def execSeqTimerExpire (t : Nat) (s : State) : Host.Outcome State Fault Refusal :=
  liveDev (fun d =>
    match (d.thread t).timer with
    | some at_ => (d.advanceTo at_).onThread t (fun x => { x with timer := none, expired := true })
    | none => d) s

/-- HANDLER_FORCED_END: the handler of thread `t` passes its limit of micro-words, the clocks of a wait counted (R245). -/
def execHandlerForcedEnd (t : Nat) (s : State) : Host.Outcome State Fault Refusal :=
  live (fun m =>
    let x := m.dev.thread t
    match x.pc, x.waitAt with
    | some _, some from_ => Mach.endHandler { m with dev := m.dev.advanceTo (from_ + (x.limit t - x.count)) } t true
    | some _, none => if x.limit t ≤ x.count then m.endHandler t true else m
    | none, _ => m) s

/-- A write of SEQ_HOST_EVENT: customer opcode 0xF8 + value on a thread, EVENT_ARG from SEQ_PARAM7 (R242, R251). -/
def Dev.hostEvent (d : Dev) (v : Nat) : Dev :=
  if 24 < bits v 8 5 then d else d.postCustomer (bits v 8 5) v (d.reg 0x19 0x3C).toNat

/-- SEQ_HOST_EVENT: a host write posts a customer event (R251). -/
def execSeqHostEvent (v : Nat) (s : State) : Host.Outcome State Fault Refusal := liveDev (fun d => d.hostEvent v) s

/-- Computed registers of feature 0x19 (R251). -/
def Dev.seqWord (d : Dev) (off : Nat) : Option Word :=
  match off with
  | 0x00 => some (word (2 ^ 31 * b2n d.seqr.loaded + flagsAt 0 (d.seqr.threads.map (fun t => t.pc.isSome))))
  | 0x04 => some (word (if d.seqr.loaded then d.seqr.version else 0))
  | _ => none

/-! ### UCODE_LOAD (R246 to R250, R437) -/

/-- Layout fields of a customer image. -/
structure Ucode where
  version : Nat
  microBase : Nat
  microCount : Nat
  nanoBase : Nat
  nanoCount : Nat
  mask : Nat
  dispatch : List Nat
  micro : List Nat
  nano : List Nat
  deriving DecidableEq, Repr

/-- The image that bytes spell, read by its counts (R246). -/
def parseUcode (l : List Byte) : Ucode :=
  let mc := rd l 14 2
  let nc := rd l 18 2
  { version := rd l 8 4, microBase := rd l 12 2, microCount := mc, nanoBase := rd l 16 2, nanoCount := nc, mask := rd l 20 2,
    dispatch := (List.range 16).map (fun k => rd l (64 + 2 * k) 2),
    micro := (List.range mc).map (fun i => rd l (96 + 4 * i) 4),
    nano := (List.range nc).map (fun i => rd l (96 + 4 * mc + 20 * i) 20) }

/-- Bytes that the signature covers: all before it. -/
def Ucode.signed (u : Ucode) : Nat := 96 + 4 * u.microCount + 20 * u.nanoCount + 97

/-- Whether every layout field lies within its values (R246, R249). -/
def Ucode.layoutOk (u : Ucode) (l : List Byte) : Bool :=
  decide (l.take 4 = [0x5A, 0x53, 0x51, 0x31]) && decide (rd l 4 2 = 1) && decide (rd l 6 2 = 0) &&
  decide (0x1C00 ≤ u.microBase ∧ u.microBase ≤ 0x1FFF ∧ 1 ≤ u.microCount ∧ u.microBase + u.microCount ≤ 0x2000) &&
  decide (0x380 ≤ u.nanoBase ∧ u.nanoBase ≤ 0x3FF ∧ 1 ≤ u.nanoCount ∧ u.nanoBase + u.nanoCount ≤ 0x400) &&
  decide (slice l 22 42 = zeros 42) && decide (l.length = u.signed + 96) &&
  u.micro.all (fun w => decide (w < 2 ^ 20)) && u.dispatch.all (fun w => decide (w < 2 ^ 13))

/-- Whether an address lies in the customer's micro window. -/
def inWindow (a : Nat) : Bool := decide (0x1C00 ≤ a ∧ a ≤ 0x1FFF)

/-- Whether a micro-word uses no reserved encoding and names a customer nano-word (R236, R237, R249). -/
def microOk (w : Nat) : Bool :=
  decide (microNext w < 8) && (decide (microWait w < 7) || decide (28 ≤ microWait w)) &&
  decide (0x380 ≤ microNano w ∧ microNano w ≤ 0x3FF)

/-- Whether a slot uses no reserved encoding (R238 to R240, R249). -/
def slotOk (s : Nat) : Bool :=
  let selOk : Nat → Bool := fun x => decide (x < 48) || decide (x = 63)
  decide (slotOp s < 15) && selOk (slotA s) && selOk (slotB s) && (decide (slotDst s < 24) || decide (slotDst s = 31))

/-- Whether a nano-word uses no reserved encoding (R238, R249). -/
def nanoOk (w : Nat) : Bool := decide (bits w 108 38 = 0) && slotOk (nanoSlot w 0) && slotOk (nanoSlot w 1)

/-- The remaining checks of R249: TARGETs and dispatch entries that are used, and the word at 0x1FFF. -/
def Ucode.flowOk (u : Ucode) : Bool :=
  u.micro.all (fun w =>
    let uses := [1, 2, 3, 4, 5].contains (microNext w)
    let nano := if u.nanoBase ≤ microNano w then u.nano.getD (microNano w - u.nanoBase) 0 else 0
    !uses || inWindow (nanoTarget nano)) &&
  (List.range 16).all (fun k => !bit u.mask k || inWindow (u.dispatch.getD k 0)) &&
  (decide (u.microBase + u.microCount ≠ 0x2000) || !([0, 2, 3, 4, 5].contains (microNext (u.micro.getD (u.microCount - 1) 0))))

/-- The checks of R249. -/
def Ucode.ok (u : Ucode) (l : List Byte) : Bool := u.layoutOk l && u.micro.all microOk && u.nano.all nanoOk && u.flowOk

/-- Whether the signature of an image passes (R247). -/
def Ucode.signatureOk (u : Ucode) (enrolled : Bool) (l : List Byte) : Bool :=
  let key := slice l (u.signed - 97) 97
  enrolled && decide (Config.sha384 key = Config.customerKeyHash) &&
  Config.ecdsaVerify key (slice l u.signed 96) (Config.sha384 (l.take u.signed))

/-- Install a window (R250). -/
def Dev.installUcode (d : Dev) (u : Ucode) : Dev :=
  d.onSeq (fun q => { q with loaded := true, version := u.version,
                             micro := (List.range u.microCount).map (fun i => (u.microBase + i, u.micro.getD i 0)),
                             nano := (List.range u.nanoCount).map (fun i => (u.nanoBase + i, u.nano.getD i 0)),
                             dispatch := (List.range 16).map (fun k => if bit u.mask k then some (u.dispatch.getD k 0) else none) })

/-- UCODE_LOAD (R247, R249, R250, R437). -/
def execUcodeLoad (sq cid : Nat) (s : State) : Host.Outcome State Fault Refusal :=
  live (runCmd sq cid 0x12 (fun c m =>
    if c.dataKind = 0 ∨ c.dataLen = 0 ∨ !m.mem.dataOk c c.dataLen then m.refuse c 24
    else if m.dev.streams.any (fun x => m.dev.policy x.1 && x.2.active) then m.deny c 13 noStream
    else
      let l := m.mem.dataIn c c.dataLen
      let u := parseUcode l
      if !u.signatureOk m.dev.otp.customerKey l then m.complete c Status.signatureBad
      else if !u.ok l then m.refuse c 24
      else Mach.complete { m with dev := m.dev.installUcode u } c Status.ok)) s

end Sys2Proof.Machine
end

