-- ==== Sys2Proof/Machine/Volume.lean ====
section
/-! DEFINITION. The volume of a magazine port (R304 to R307, R319, R324, R326, R336 to R358): pages of a carrier, superblocks,
program stripes, structures, checkpoints, clip logs, reads and the black-box mirror. -/

namespace Sys2Proof.Machine
open Sys2Proof

/-! ### Carriers and pages -/

/-- Carrier `id`. -/
def Mem.carrier (m : Mem) (id : Nat) : Option Carrier := m.carriers.find? (fun c => decide (c.id = id))

/-- Keep a carrier. -/
def Mem.putCarrier (m : Mem) (c : Carrier) : Mem :=
  if m.carriers.any (fun x => decide (x.id = c.id)) then
    { m with carriers := modifyFirst (fun x => decide (x.id = c.id)) (fun _ => c) m.carriers }
  else { m with carriers := m.carriers ++ [c] }

/-- The carrier seated at port `p`. -/
def Mach.carrierAt (m : Mach) (p : Nat) : Option Carrier := (m.dev.mag p).seated.bind m.mem.carrier

/-- What an unlisted page reads as: erased. -/
def pageNone (_ : Nat) : List Byte := []

/-- The page at a PPA; empty while it is erased. -/
def Mach.page (m : Mach) (p ppa : Nat) : List Byte :=
  match m.carrierAt p with
  | some c => Tbl.get pageNone c.pages ppa
  | none => []

/-- Change the carrier seated at port `p`. -/
def Mach.onCarrier (m : Mach) (p : Nat) (f : Carrier → Carrier) : Mach :=
  match m.carrierAt p with
  | some c => { m with mem := m.mem.putCarrier (f c) }
  | none => m

/-- Program pages. -/
def Mach.programPages (m : Mach) (p : Nat) (l : List (Nat × List Byte)) : Mach :=
  m.onCarrier p (fun c => { c with pages := l.foldl (fun t e => Tbl.set pageNone t e.1 e.2) c.pages })

/-- Offset of a counter in the record of port `p` (R335). -/
def magStat (p c : Nat) : Nat := 0x8900 + 128 * p + c

/-- Change the volume of port `p`. -/
def Dev.onVol (d : Dev) (p : Nat) (f : Volume → Volume) : Dev := d.onMag p (fun q => { q with vol := f q.vol })

/-- Erase a block with a pass status: it counts and its read count clears (R324, R329). -/
def Mach.eraseBlock (m : Mach) (p die block : Nat) : Mach :=
  let key := 8192 * die + block
  let m1 := m.onCarrier p (fun c => { c with pages := Tbl.drop (fun a => decide (a / 4096 = key)) c.pages })
  let d1 := m1.dev.onVol p (fun v =>
    { v with erases := Tbl.set (fun _ => 0) v.erases key (Tbl.get (fun _ => 0) v.erases key + 1),
             reads := Tbl.set (fun _ => 0) v.reads key 0 })
  { m1 with dev := d1.count (magStat p 0x28) }

/-! ### Superblocks (R304, R324, R337, R338) -/

/-- LIVE_MASK of a group now. -/
def MagPort.mask (q : MagPort) (grp : Nat) : Nat := flagsAt 0 ((List.range 16).map (fun i => !q.failedDies.contains (16 * grp + i)))

/-- Groups that are not closed. -/
def MagPort.openGroups (q : MagPort) : List Nat := (List.range q.geo.groups).filter (fun g => !q.closed.contains g)

/-- Members of a superblock: die and block of each plane. -/
def MagPort.members (q : MagPort) (grp b mask : Nat) : List (Nat × Nat) :=
  ((liveDies grp mask).map (fun die => (List.range q.geo.planes).map (fun pl => (die, q.vol.member die (b + pl))))).flatten

/-- Wear of a superblock: the highest erase count among its members (R324). -/
def MagPort.wear (q : MagPort) (grp b : Nat) : Nat :=
  ((q.members grp b 0xFFFF).map (fun e => Tbl.get (fun _ => 0) q.vol.erases (8192 * e.1 + e.2))).foldl max 0

/-- Free superblocks of a group. -/
def MagPort.freeSbs (q : MagPort) (grp : Nat) : List Nat :=
  q.geo.sbNumbers.filter (fun b => decide ((q.vol.sb (sbKey grp b)).state = 0))

/-- A spare block of a die and plane that no entry uses (R337). -/
def Volume.spareFor (v : Volume) (g : Geo) (die plane : Nat) : Option Nat :=
  ((List.range (g.blocks - g.spareBase)).map (fun i => g.spareBase + i)).find? (fun s =>
    decide (s % max 1 g.planes = plane) && !(v.bads.any (fun x => decide (x.die = die) && (decide (x.spare = s) || decide (x.block = s)))))

/-- Put an entry in the bad-block table, sorted by die and block (R349). -/
def putBad (x : BadBlock) : List BadBlock → List BadBlock
  | [] => [x]
  | y :: r =>
    if x.die = y.die ∧ x.block = y.block then { x with flags := x.flags ||| y.flags } :: r
    else if 8192 * x.die + x.block < 8192 * y.die + y.block then x :: y :: r
    else y :: putBad x r

/-- List a block as bad under `flags`, with a spare where one is left and is asked for. The Bool says that the place of the
superblock it belongs to has a good block. -/
def Volume.retire (v : Volume) (g : Geo) (die block flags : Nat) (give : Bool) : Volume × Bool :=
  match if give then v.spareFor g die (block % max 1 g.planes) else none with
  | some s => ({ v with bads := putBad { die := die, flags := flags, block := block, spare := s } v.bads }, true)
  | none => ({ v with bads := putBad { die := die, flags := flags, block := block, spare := 0xFFFF } v.bads }, false)

/-- The places of a superblock whose block is bad without a spare, or worn out (R324, R337). -/
def MagPort.badPlaces (q : MagPort) (grp b mask : Nat) : List (Nat × Nat × Nat) :=
  ((liveDies grp mask).map (fun die => (List.range q.geo.planes).filterMap (fun pl =>
    let blk := b + pl
    let now := q.vol.member die blk
    let worn := decide (0 < q.geo.endurance) && decide (q.geo.endurance ≤ Tbl.get (fun _ => 0) q.vol.erases (8192 * die + now))
    match q.vol.bads.find? (fun x => decide (x.die = die) && decide (x.block = blk)) with
    | some x => if x.spare = 0xFFFF then some (die, blk, x.flags) else if worn then some (die, blk, x.flags ||| 4) else none
    | none => if worn then some (die, blk, 4) else none))).flatten

/-- Give every bad place of a superblock a spare; none where one finds no spare. -/
def MagPort.mend (q : MagPort) : List (Nat × Nat × Nat) → Volume → Option Volume
  | [], v => some v
  | (die, blk, fl) :: r, v =>
    match v.retire q.geo die blk fl true with
    | (v1, true) => q.mend r v1
    | (_, false) => none

/-- Allocate the free superblock of lowest wear, then lowest number, of a group for a KIND; one that cannot be made whole is
retired (R324, R337, R338). At most `k` are tried. -/
def MagPort.allocSb (q : MagPort) (grp kind : Nat) : Nat → Option Nat × MagPort
  | 0 => (none, q)
  | k + 1 =>
    match argMin (fun b => q.wear grp b) (q.freeSbs grp) with
    | none => (none, q)
    | some b =>
      let key := sbKey grp b
      let e := q.vol.sb key
      let mask := q.mask grp
      match q.mend (q.badPlaces grp b mask) q.vol with
      | none => ({ q with vol := q.vol.setSb key { e with state := 4 } }).allocSb grp kind k
      | some v =>
        let e1 : SbEntry := { e with state := 1, kind := kind, liveMask := mask, firstSeq := 0xFFFFFFFF, wlUsed := 0, liveUnits := 0,
                                     readCount := 0, eraseCount := q.wear grp b + 1 }
        (some b, { q with vol := v.setSb key e1 })

/-- Stripes of a superblock that are placed and not finished. -/
def MagPort.placedOn (q : MagPort) (grp b : Nat) : Nat :=
  let here : Stripe → Bool := fun s => decide (s.group = grp) && decide (s.sb = b)
  (q.programs.filter here).length + (match q.fill with
    | some s => b2n (here s)
    | none => 0)

/-- Word lines of a superblock. -/
def MagPort.lines (q : MagPort) (grp b : Nat) : Nat := q.geo.wordLines (q.geo.kOf grp b)

/-- The open superblock of a KIND in a group with a free word line. -/
def MagPort.openSb (q : MagPort) (grp kind need : Nat) : Option Nat :=
  q.geo.sbNumbers.find? (fun b =>
    let e := q.vol.sb (sbKey grp b)
    decide (e.state = 1) && decide (e.kind = kind) && decide (e.wlUsed + q.placedOn grp b + need ≤ q.lines grp b))

/-- Data units of one word line of a superblock, by its LIVE_MASK. -/
def MagPort.perLine (q : MagPort) (grp b : Nat) : Nat :=
  q.geo.unitsOf (liveDies grp (q.vol.sb (sbKey grp b)).liveMask).length (q.geo.kOf grp b)

/-! ### Program stripes (R297, R298, R304 to R307) -/

/-- The pages of a program stripe with its die parity: PPA and bytes of each. -/
def MagPort.stripePages (q : MagPort) (x : Stripe) (seq stamp : Nat) : List (Nat × List Byte) :=
  let g := q.geo
  let k := g.kOf x.group x.sb
  let l := x.dies.length
  let par := (x.sb + x.wl) % max 1 l
  let tag := q.vol.id % 2 ^ 32
  let unitB : Nat → List Byte := fun j => ((x.units[j]?).getD padUnit).bytes (luaOf x.group x.sb x.wl j)
  let at_ : Nat → Nat → Nat → Nat := fun pos pl p =>
    let die := x.dies.getD pos 0
    ppaOf die (q.vol.member die (x.sb + pl)) (k * x.wl + p)
  let data : Nat → Nat → Nat → Nat × List Byte := fun i pl p =>
    let pos := if i < par then i else i + 1
    let j := ((i * k + p) * g.planes + pl) * 4
    let mk : Marker := { ppa := at_ pos pl p, stamp := stamp, tag := tag, seq := seq, kind := x.kind, pos := pos,
                         lua := luaOf x.group x.sb x.wl j % 2 ^ 32 }
    (mk.ppa, pageBytes mk [unitB j, unitB (j + 1), unitB (j + 2), unitB (j + 3)])
  ((List.range g.planes).map (fun pl => ((List.range k).map (fun p =>
    let ds := (List.range (l - 1)).map (fun i => data i pl p)
    let mk : Marker := { ppa := at_ par pl p, stamp := stamp, tag := tag, seq := seq, kind := 2, pos := par, lua := 0xFFFFFFFF }
    ds ++ [(mk.ppa, parityPage mk (ds.map (fun e => e.2)))])).flatten)).flatten

/-- Whether a unit holds data rather than padding. -/
def StripeUnit.isData (u : StripeUnit) : Bool := decide (u.kind ≠ 2)

/-- Program one stripe at once, every status a pass: structures, relocation, the mirror. -/
def Mach.putStripe (m : Mach) (p grp b w kind : Nat) (units : List StripeUnit) : Mach :=
  let q := m.dev.mag p
  let key := sbKey grp b
  let e := q.vol.sb key
  let seq := (q.vol.seq + 1) % 2 ^ 32
  let per := q.perLine grp b
  let x : Stripe := { group := grp, sb := b, wl := w, kind := kind, dies := liveDies grp e.liveMask, units := units }
  let m1 := m.programPages p (q.stripePages x seq m.dev.stamp32)
  let e1 := { e with firstSeq := if e.wlUsed = 0 then seq else e.firstSeq, wlUsed := max e.wlUsed (w + 1),
                     liveUnits := e.liveUnits + (units.filter StripeUnit.isData).length }
  let d1 := m1.dev.onVol p (fun v => { v.setSb key e1 with seq := seq })
  let d2 := (d1.count (magStat p 0x20)).count (magStat p 0x10) (4096 * (units.filter StripeUnit.isData).length)
  { m1 with dev := (d2.count (magStat p 0x18) (per - units.length)).bump 0x1D (0x100 * p + 0x30) (per - units.length) }

/-- Program units at consecutive positions from word line `w` of a superblock, at most `k` stripes. -/
def Mach.putStripes (m : Mach) (p grp b w kind : Nat) (units : List StripeUnit) : Nat → Mach
  | 0 => m
  | k + 1 =>
    if units.isEmpty then m
    else
      let per := max 1 ((m.dev.mag p).perLine grp b)
      (m.putStripe p grp b w kind (units.take per)).putStripes p grp b (w + 1) kind (units.drop per) k

/-- Find the place for `n` units at consecutive positions of a superblock of a KIND in a group, ending a superblock too short
for them and erasing a new one: superblock and word line. -/
def Mach.reserve (m : Mach) (p kind grp n : Nat) : Option (Nat × Nat) × Mach :=
  let q := m.dev.mag p
  let need : MagPort → Nat → Nat := fun q b => ceilDiv n (max 1 (q.perLine grp b))
  match q.geo.sbNumbers.find? (fun b => let e := q.vol.sb (sbKey grp b); decide (e.state = 1) && decide (e.kind = kind)) with
  | some b =>
    let e := q.vol.sb (sbKey grp b)
    if e.wlUsed + need q b ≤ q.lines grp b then (some (b, e.wlUsed), m)
    else
      let q1 := { q with vol := q.vol.setSb (sbKey grp b) { e with state := 2 } }
      match q1.allocSb grp kind 8192 with
      | (none, q2) => (none, { m with dev := m.dev.onMag p (fun _ => q2) })
      | (some b2, q2) =>
        let m1 : Mach := { m with dev := m.dev.onMag p (fun _ => q2) }
        (if need q2 b2 ≤ q2.lines grp b2 then some (b2, 0) else none,
         (q2.members grp b2 (q2.mask grp)).foldl (fun m e => m.eraseBlock p e.1 e.2) m1)
  | none =>
    match q.allocSb grp kind 8192 with
    | (none, q2) => (none, { m with dev := m.dev.onMag p (fun _ => q2) })
    | (some b2, q2) =>
      let m1 : Mach := { m with dev := m.dev.onMag p (fun _ => q2) }
      (if need q2 b2 ≤ q2.lines grp b2 then some (b2, 0) else none,
       (q2.members grp b2 (q2.mask grp)).foldl (fun m e => m.eraseBlock p e.1 e.2) m1)

/-- The first of some groups that has a place for `n` units. -/
def Mach.reserveIn (m : Mach) (p kind n : Nat) : List Nat → Option (Nat × Nat × Nat) × Mach
  | [] => (none, m)
  | grp :: r =>
    match m.reserve p kind grp n with
    | (some (b, w), m1) => (some (grp, b, w), m1)
    | (none, m1) => m1.reserveIn p kind n r

/-- Write units of a KIND at once: LUA of the first. -/
def Mach.writeUnits (m : Mach) (p kind : Nat) (units : List StripeUnit) : Option Nat × Mach :=
  match m.reserveIn p kind units.length (m.dev.mag p).openGroups with
  | (none, m1) => (none, m1)
  | (some (grp, b, w), m1) => (some (luaOf grp b w 0), m1.putStripes p grp b w kind units units.length)

/-! ### Reading (R302, R306, R341) -/

/-- Whether a codeword of a stored page satisfies its parity checks. -/
def cwGood (page : List Byte) (c : Nat) : Bool := !page.isEmpty && codewordOk (slice page (32 + 4640 * c) 4640)

/-- Superblock and plane of a block of a die: where the bad-block table puts it, else its own number. -/
def Volume.placeOf (v : Volume) (g : Geo) (die block : Nat) : Nat × Nat :=
  let home := match v.bads.find? (fun x => decide (x.die = die) && decide (x.spare = block)) with
    | some x => x.block
    | none => block
  (home - home % max 1 g.planes, home % max 1 g.planes)

/-- A page rebuilt from the other pages of its plane and page number (R306). -/
def Mach.rebuilt (m : Mach) (p ppa : Nat) : Option (List Byte) :=
  let q := m.dev.mag p
  let die := ppa / 2 ^ 25
  let (b, pl) := q.vol.placeOf q.geo die (ppa / 4096 % 8192)
  let e := q.vol.sb (sbKey (die / 16) b)
  let others := (liveDies (die / 16) e.liveMask).filter (fun x => decide (x ≠ die))
  let pages := others.map (fun x => m.page p (ppaOf x (q.vol.member x (b + pl)) (ppa % 4096)))
  if pages.isEmpty ∨ pages.any (fun x => x.isEmpty) then none
  else some (zeros 32 ++ (pages.map (fun x => slice x 32 18560)).foldl xorBytes (zeros 18560))

/-- The unit in codeword `c` of a page and the step at which it is read: 1 to 3 as the environment says, 4 rebuilt from
parity; none when no step succeeds (R302). -/
def Mach.readCw (m : Mach) (p ppa c step : Nat) : Option (List Byte) × Nat :=
  let page := m.page p ppa
  if step ≤ 3 ∧ cwGood page c then (some (unitAt page ppa c), max 1 step)
  else if step ≤ 4 then
    match m.rebuilt p ppa with
    | some pg => if cwGood pg c then (some (unitAt pg ppa c), 4) else (none, 5)
    | none => (none, 5)
  else (none, 5)

/-- The unit at an LUA. -/
def Mach.readUnit (m : Mach) (p lua step : Nat) : Option (List Byte) × Nat :=
  let q := m.dev.mag p
  let (ppa, c) := q.vol.ppaOfLua q.geo lua
  m.readCw p ppa c step

/-- A codeword read has ended: counters, the uncorrectable report, and the triggers of R326. `bits` is its corrected-bit count,
`tries` the retry reads of step 2. -/
def Dev.codewordEnd (d : Dev) (p ppa step bits : Nat) : Dev :=
  let q := d.mag p
  let die := ppa / 2 ^ 25
  let blk := ppa / 4096 % 8192
  let key := 8192 * die + blk
  let n := Tbl.get (fun _ => 0) q.vol.reads key + 1
  let d1 := ((d.count (magStat p 0x30)).count (magStat p 0x40) bits).onVol p (fun v => { v with reads := Tbl.set (fun _ => 0) v.reads key n })
  let d2 := match step with
    | 1 => d1.count (magStat p 0x38)
    | 2 => d1.count (magStat p 0x48)
    | 3 => d1.count (magStat p 0x50)
    | 4 => d1.count (magStat p 0x58)
    | _ => ((((d1.count (magStat p 0x60)).bump 0x1D (0x100 * p + 0x28)).setBit 0x1C 0x1C 2 true).raise (432 + 16 * p + 6) ppa)
  let pct := fld (d.reg 0x1C 0) 16 7
  let due := decide (120 * pct < 100 * bits) || decide (2 ≤ step) ||
    (decide (0 < q.geo.readDisturb) && decide (q.geo.readDisturb ≤ n))
  if due ∧ !(q.relocDue.any (fun x => decide (x.1 = die) && decide (x.2.1 = blk))) then
    d2.onMag p (fun q => { q with relocDue := q.relocDue ++ [(die, blk, decide (3 ≤ step))] })
  else d2

/-! ### Records and logs (R351 to R355) -/

/-- What the clip's entry says of the records that its log holds. -/
def Clip.logged (c : Clip) : Clip :=
  let recs := c.recs.take c.recsLogged
  let last := recs.getLast?.getD []
  { c with indexed := recs.length, last := if recs.isEmpty then c.first else rd last 0 4,
           dropped := (recs.filter (fun r => bit (rd r 8 1) 0)).length, bytes := if recs.isEmpty then 0 else rd last 16 8 + rd last 12 4,
           indexedUnits := sumBy (fun e => e.count) (c.exts.take c.extsLogged) }

/-- Change clip `id` of a volume. -/
def Volume.onClip (v : Volume) (id : Nat) (f : Clip → Clip) : Volume :=
  { v with clips := modifyFirst (fun c => decide (c.id = id)) f v.clips }

/-- Clip `id`. -/
def Volume.clip (v : Volume) (id : Nat) : Option Clip := v.clips.find? (fun c => decide (c.id = id))

/-- Cut a list into runs of `n`, at most `k` of them. -/
def runsOf {α : Type} (n : Nat) : Nat → List α → List (List α)
  | 0, _ => []
  | k + 1, l => if l.isEmpty then [] else l.take n :: runsOf n k (l.drop n)

/-- Log units that a clip has to write: TYPE, ENCODER and records of each; only whole ones unless `all`. -/
def Clip.dueLogs (c : Clip) (all : Bool) : List (Nat × Nat × List (List Byte)) :=
  let keep : Nat → List (List (List Byte)) → List (List (List Byte)) := fun n l => l.filter (fun r => all || decide (r.length = n))
  let recs := keep 63 (runsOf 63 65536 (c.recs.drop c.recsLogged))
  let exts := keep 252 (runsOf 252 65536 ((c.exts.drop c.extsLogged).map Extent.bytes))
  let pr := keep 63 (runsOf 63 65536 (c.proxyRecs.drop c.proxyRecsLogged))
  let pe : Nat → List (List (List Byte)) := fun e =>
    keep 252 (runsOf 252 65536 (((c.proxyExts.drop c.proxyExtsLogged).filter (fun x => decide (x.1 = e))).map (fun x => x.2.bytes)))
  recs.map (fun r => (1, 0, r)) ++ exts.map (fun r => (2, 0, r)) ++
    (if all then pr.map (fun r => (3, 0, r)) ++ (pe 0).map (fun r => (4, 0, r)) ++ (pe 1).map (fun r => (4, 1, r)) else [])

/-- Units of clip logs from LUA `at_` on, each naming the one before (R352). -/
def Clip.logUnits_ (c : Clip) (stamp : List Byte) (per at_ : Nat) : List (Nat × Nat × List (List Byte)) → List StripeUnit × Clip
  | [] => ([], c)
  | (ty, enc, recs) :: r =>
    let u : StripeUnit := { user := logUnit c.id ty recs.length c.lastLog c.logUnits enc stamp recs.flatten, kind := 3, clip := c.id,
                            start := 0xFFFF }
    let c1 := { c with lastLog := at_, logUnits := c.logUnits + 1,
                       recsLogged := if ty = 1 then c.recsLogged + recs.length else c.recsLogged,
                       extsLogged := if ty = 2 then c.extsLogged + recs.length else c.extsLogged,
                       proxyRecsLogged := if ty = 3 then c.proxyRecsLogged + recs.length else c.proxyRecsLogged,
                       proxyExtsLogged := if ty = 4 then c.proxyExts.length else c.proxyExtsLogged }
    let (us, c2) := c1.logUnits_ stamp per (luaAdd per at_ 1) r
    (u :: us, c2)

/-- Write the log units that a clip of port `p` has due (R353). -/
def Mach.writeLogs (m : Mach) (p id : Nat) (all : Bool) : Mach :=
  match (m.dev.mag p).vol.clip id with
  | none => m
  | some c =>
    let due := c.dueLogs all
    if due.isEmpty then m
    else
      match m.reserveIn p 3 due.length (m.dev.mag p).openGroups with
      | (none, m1) => m1
      | (some (grp, b, w), m1) =>
        let (units, c1) := c.logUnits_ m1.dev.stamp ((m1.dev.mag p).perLine grp b) (luaOf grp b w 0) due
        let m2 := m1.putStripes p grp b w 3 units units.length
        { m2 with dev := (m2.dev.onVol p (fun v => v.onClip id (fun _ => c1))).stamped }

/-! ### Checkpoints (R343 to R346, R348 to R350) -/

/-- The good header blocks of copy `c`: those of its four that no entry lists as bad (R342). -/
def MagPort.headerBlocks (q : MagPort) (c : Nat) : List Nat :=
  ((List.range 4).map (fun i => i * q.geo.planes)).filter (fun b => !(q.vol.bads.any (fun x => decide (x.die = 4 * c) && decide (x.block = b))))

/-- Program the header on the next word line of copy `c` (R343). -/
def Mach.putHeader (m : Mach) (p : Nat) (hdr : List Byte) (c : Nat) : Mach :=
  let q := m.dev.mag p
  let blks := q.headerBlocks c
  let (idx, wl) := q.vol.headers.getD c (0, 0)
  let full := decide (q.geo.wordLines q.geo.cell ≤ wl)
  let idx1 := if full then (idx + 1) % max 1 blks.length else idx
  let wl1 := if full then 0 else wl
  let blk := blks.getD idx1 0
  let m1 := if full then m.eraseBlock p (4 * c) blk else m
  let u : StripeUnit := { user := hdr, kind := 3, start := 0xFFFF }
  let pages := (List.range q.geo.cell).map (fun i =>
    let mk : Marker := { ppa := ppaOf (4 * c) blk (q.geo.cell * wl1 + i), stamp := m.dev.stamp32, tag := q.vol.id % 2 ^ 32, seq := 0, kind := 3,
                         pos := 0, lua := 0xFFFFFFFF }
    (mk.ppa, pageBytes mk (List.replicate 4 (u.bytes 0xFFFFFFFF))))
  let m2 := m1.programPages p pages
  { m2 with dev := m2.dev.onVol p (fun v => { v with headers := modAt v.headers c (fun _ => (idx1, wl1 + 1)) }) }

/-- Wear summary of the header. -/
def MagPort.wearSummary (q : MagPort) : List Byte :=
  ((List.range 8).map (fun grp =>
    if q.geo.groups ≤ grp then zeros 8
    else
      let w := q.geo.sbNumbers.map (fun b => q.wear grp b)
      let st := if q.closed.contains grp then 3 else if (q.failedDies.any (fun x => decide (x / 16 = grp))) then 2 else 1
      leBytes 2 (w.foldl min (w.getD 0 0)) ++ leBytes 2 (w.foldl max 0) ++ leBytes 2 (q.freeSbs grp).length ++ leBytes 1 st ++ [0])).flatten

/-- Superblocks that a checkpoint frees: full, no live unit (R348); and the tables of generations that are no longer among
the three newest stop counting (R346). -/
def Volume.freeUnused (v : Volume) : Volume :=
  let old := v.tables.filter (fun t => decide (t.1 + 3 ≤ v.gen))
  let v1 := old.foldl (fun v t => let e := v.sb t.2.1; v.setSb t.2.1 { e with liveUnits := e.liveUnits - t.2.2 }) v
  let v2 := { v1 with tables := v1.tables.filter (fun t => decide (v.gen < t.1 + 3)) }
  (v2.sbs.filter (fun e => decide (e.2.state = 2) && decide (e.2.liveUnits = 0))).foldl (fun v e =>
    v.setSb e.1 { e.2 with state := 0, kind := 0, wlUsed := 0 }) v2

/-- The superblock entry that a checkpoint writes: its wear and highest read count now; a superblock with stripes still in
programming is written as open, so that the mount scan finds them (R329, R348, R359). -/
def MagPort.sbShown (q : MagPort) (grp b : Nat) : SbEntry :=
  let e := q.vol.sb (sbKey grp b)
  let busy := q.programs.any (fun x => x.seq.isSome && decide (x.group = grp) && decide (x.sb = b))
  let read := ((q.members grp b 0xFFFF).map (fun e => Tbl.get (fun _ => 0) q.vol.reads (8192 * e.1 + e.2))).foldl max 0
  { e with state := if busy ∧ e.state = 2 then 1 else e.state, eraseCount := q.wear grp b, readCount := read }

/-- The superblock table's entries in increasing group and number (R348). -/
def MagPort.sbEntries (q : MagPort) : List (List Byte) :=
  ((List.range q.geo.groups).map (fun grp => q.geo.sbNumbers.map (fun b => (q.sbShown grp b).bytes))).flatten

/-- The five tables of a volume (R345, R348 to R351): superblocks, bad blocks, relocation map, directory. -/
def MagPort.tableList (q : MagPort) : List (List (List Byte)) :=
  let v := q.vol
  let gen := v.gen % 2 ^ 32
  let clipEntry : Clip → List Byte := fun c => (if c.state = 1 then c.logged else c).entry
  [tableUnits 1 gen 24 q.sbEntries, tableUnits 2 gen 8 (v.bads.map BadBlock.bytes), tableUnits 3 gen 8 (v.bads.map BadBlock.bytes),
   tableUnits 4 gen 16 (v.reloc.map (fun e => leBytes 8 e.1 ++ leBytes 8 e.2)), tableUnits 5 gen 128 (v.clips.map clipEntry)]

/-- Write a checkpoint (R346): the tables, bad-block table B in another superblock and group than A where there is one, then
header copies 0 to 3. A volume that finds no free superblock for it keeps its last one. -/
def Mach.checkpoint (m : Mach) (p : Nat) : Mach :=
  let q0 := m.dev.mag p
  if !q0.mounted ∨ q0.readOnly then m
  else
    let before := q0.vol.seq
    let q := { q0 with vol := { q0.vol.freeUnused with gen := q0.vol.gen + 1 } }
    let m0 : Mach := { m with dev := m.dev.onMag p (fun _ => q) }
    let sizes := q.tableList.map List.length
    let main := sumBy id sizes - sizes.getD 2 0
    let grps := q.openGroups
    match m0.reserveIn p 3 main grps with
    | (none, _) => m
    | (some (g1, b1, w1), m1) =>
      let key1 := sbKey g1 b1
      let per1 := max 1 ((m1.dev.mag p).perLine g1 b1)
      let m1a : Mach := { m1 with dev := m1.dev.onVol p (fun v => v.setSb key1 { v.sb key1 with wlUsed := w1 + ceilDiv main per1 }) }
      let full := onDev (fun d => d.onVol p (fun v => v.setSb key1 { v.sb key1 with state := 2 })) m1a
      let others := grps.filter (fun g => decide (g ≠ g1))
      match (if others.isEmpty then full.reserveIn p 3 (sizes.getD 2 0) grps else m1a.reserveIn p 3 (sizes.getD 2 0) others) with
      | (none, _) => m
      | (some (g2, b2, w2), m2) =>
        let key2 := sbKey g2 b2
        let per2 := max 1 ((m2.dev.mag p).perLine g2 b2)
        let gen := q.vol.gen
        let put : Volume → Nat → Nat → Volume := fun v key n =>
          let e := v.sb key
          { v.setSb key { e with liveUnits := e.liveUnits + n } with tables := v.tables ++ [(gen, key, n)] }
        let last1 := (before + ceilDiv main per1) % 2 ^ 32
        let d3 := m2.dev.onVol p (fun v =>
          let v1 := put (put v key1 main) key2 (sizes.getD 2 0)
          let e1 := v1.sb key1
          let v2 := v1.setSb key1 { e1 with firstSeq := if w1 = 0 then (before + 1) % 2 ^ 32 else e1.firstSeq }
          let e2 := v2.sb key2
          v2.setSb key2 { e2 with firstSeq := if w2 = 0 then (last1 + 1) % 2 ^ 32 else e2.firstSeq,
                                  wlUsed := w2 + ceilDiv (sizes.getD 2 0) per2 })
        let q3 := d3.mag p
        let ts := q3.tableList
        let unit : List Byte → StripeUnit := fun b => { user := b, kind := 3, start := 0xFFFF }
        let tA := ts.getD 0 []
        let tB := ts.getD 1 []
        let tC := ts.getD 3 []
        let tD := ts.getD 4 []
        let at1 := luaOf g1 b1 w1 0
        let ptrs := [tablePtr at1 tA, tablePtr (luaAdd per1 at1 tA.length) tB, tablePtr (luaOf g2 b2 w2 0) (ts.getD 2 []),
                     tablePtr (luaAdd per1 at1 (tA.length + tB.length)) tC, tablePtr (luaAdd per1 at1 (tA.length + tB.length + tC.length)) tD]
        let hdr := q3.vol.header q3.geo before ptrs d3.stamp q3.wearSummary
        let entries := (q3.vol.sb key1, q3.vol.sb key2)
        let m3 : Mach := { m2 with dev := d3 }
        let m4 := m3.putStripes p g1 b1 w1 3 ((tA ++ tB ++ tC ++ tD).map unit) main
        let m5 := m4.putStripes p g2 b2 w2 3 ((ts.getD 2 []).map unit) (sizes.getD 2 0)
        let d5 := m5.dev.onMag p (fun q => { q with vol := (q.vol.setSb key1 entries.1).setSb key2 entries.2, ckptAt := m5.dev.clk })
        [0, 1, 2, 3].foldl (fun m c => m.putHeader p hdr c) { m5 with dev := d5.stamped }

/-- A grown bad block is listed, and the superblock it is in takes no more word lines (R321, R338, R346). -/
def Dev.growBad (d : Dev) (p die block : Nat) (spare : Bool) : Bool × Dev :=
  let q := d.mag p
  let (v, good) := q.vol.retire q.geo die block 2 spare
  (good, d.onVol p (fun _ => v))

/-! ### The black-box mirror (R358) -/

/-- Mirror the black box into the slot that does not hold the newest image. -/
def Mach.mirrorBlackBox (m : Mach) (p : Nat) : Mach :=
  let q := m.dev.mag p
  if q.readOnly ∨ !q.mounted then m
  else
    let slot := if q.vol.mirrorSlot = 1 then 1 else 0
    let b := (4 + slot) * q.geo.planes
    let key := sbKey 0 b
    let image := m.mem.entries 0 131072
    let gen := q.vol.mirrorGen + 1
    let h := [0x48, 0x56, 0x42, 0x42] ++ leBytes 4 gen ++ m.dev.stamp ++ leBytes 2 m.dev.deviceId ++ [0, 0] ++ leBytes 4 131072 ++
      leBytes 4 (crc32c 0 image)
    let hb := padTo 4092 h
    let unit : List Byte → StripeUnit := fun u => { user := u, kind := 5, start := 0xFFFF }
    let units := unit (hb ++ leBytes 4 (crc32c 0 hb)) :: (piecesOf 4096 2048 image).map unit
    let m1 := (q.members 0 b (q.mask 0)).foldl (fun m e => m.eraseBlock p e.1 e.2) m
    let m2 := onDev (fun d => d.onVol p (fun v => v.setSb key { v.sb key with state := 3, kind := 5, liveMask := q.mask 0, wlUsed := 0 })) m1
    let m3 := m2.putStripes p 0 b 0 5 units units.length
    let d3 := m3.dev.onVol p (fun v => { v with mirrorGen := gen, mirrorSlot := slot + 1 })
    let d4 := d3.onBbx (fun x => { x with mirrorGen := modAt x.mirrorGen p (fun _ => gen) })
    { m3 with dev := d4.stamped.record .main 13 0xFF p gen }

end Sys2Proof.Machine
end

