-- ==== Sys2Proof/Machine/Flash.lean ====
section
/-! DEFINITION. The flash engine (R287 to R289, R308 to R333): chunks, program stripes, commits, failures, removal, relocation,
and the registers FLH_, MAG_ and CMT_. -/

namespace Sys2Proof.Machine
open Sys2Proof

/-! ### Rates (R311, R312) -/

/-- Data dies of a group: 15 if healthy, 14 degraded, 0 closed. -/
def MagPort.dataDies (q : MagPort) (grp : Nat) : Nat :=
  if q.closed.contains grp then 0 else 15 - (q.failedDies.filter (fun x => decide (x / 16 = grp))).length

/-- k of the data superblocks. -/
def Geo.kData (g : Geo) : Nat := if g.pslc then 1 else g.cell

/-- W_mag in bytes per second, before eligibility: its numerator and denominator, for a channel rate in MT/s. -/
def MagPort.rateOf (q : MagPort) (mt : Nat) : Nat :=
  let g := q.geo
  let k := g.kData
  let num := 10 ^ 9 * (16384 * (g.planes * k) * g.pages)
  let den := max 1 (g.tProg * g.pages + g.tBers * k)
  let perCh := g.dies / 16
  let cap := 16384 * (10 ^ 5 * (8 * mt))
  let capDen := max 1 (18592 * perCh)
  let dies := sumBy q.dataDies (List.range g.groups)
  if num * capDen ≤ cap * den then num * dies / den else cap * dies / capDen

/-- Whether a magazine admits C0 contexts (R312). -/
def MagPort.eligible (q : MagPort) : Bool :=
  q.mounted && !q.readOnly && !q.geo.protected_ && decide (q.geo.tProg ≤ 2000000 ∧ q.geo.tBers ≤ 2000000 ∧ q.geo.tR ≤ 100000)

/-- W_mag of port `p` in bytes per second: 0 where it admits none. -/
def Mach.wMag (m : Mach) (p : Nat) : Nat :=
  let q := m.dev.mag p
  if q.eligible then q.rateOf (match m.carrierAt p with
    | some c => c.ifRate
    | none => 0) else 0

/-! ### Streams and the watermark (R308, R319, R334, R353) -/

/-- Port choice of a stream's open clip: 0, 1, or 2 for both; none without a clip. -/
def Cap.choice (c : Cap) : Option Nat := c.clip.map (fun x => x.1)

/-- Whether a stream records to port `p`, or to it alone. -/
def Cap.recordsTo (c : Cap) (p : Nat) : Bool := decide (c.choice = some p) || decide (c.choice = some 2)

/-- Field of CMT_STATUS of a stream. -/
def Dev.setCmt (d : Dev) (s lo len v : Nat) : Dev :=
  let off := 0x600C + 16 * s
  d.setReg 0 off (setFld (d.reg 0 off) lo len v)

/-- Whether chunk `no` of stream `s` is still held by a port. -/
def Dev.chunkHeld (d : Dev) (s no : Nat) : Bool :=
  d.mags.any (fun q => q.chunks.any (fun x => decide (x.stream = s) && decide (x.no = no)))

/-- Whether a frame taken is committed or dropped (R319). -/
def Dev.frameDone (d : Dev) (s : Nat) (c : Cap) (t : Taken) : Bool :=
  decide (t.reason ≠ 0) || decide (t.len = 0) ||
  (decide ((t.offset + t.len - 1) / 65536 < c.chunks) &&
    (List.range ((t.offset + t.len - 1) / 65536 - t.offset / 65536 + 1)).all (fun i => !d.chunkHeld s (t.offset / 65536 + i)))

/-- The record of a frame taken (R353). -/
def Taken.record (t : Taken) : List Byte :=
  frameRecord t.frame t.flags (b2n (decide (t.reason ≠ 0))) t.reason t.tiles t.len t.offset (if t.reason = 0 then t.crc else 0)
    t.eclipse t.fallback t.stamp

/-- The watermark of a stream passes a frame: its record, the CMT_ record, and the end of a run that it completes (R263, R319,
R334, R451). -/
def Mach.passFrame (m : Mach) (s : Nat) (c : Cap) (t : Taken) (rest : List Taken) : Mach :=
  let d1 := m.dev.setCap s (some { c with taken := rest, passed := c.passed + 1 })
  let d2 := (d1.setReg 0 (0x6000 + 16 * s) (word t.frame)).setReg 0 (0x6004 + 16 * s) (word d1.stamp32)
  let d3 := (if t.reason = 0 then d2.bump 0 (0x6008 + 16 * s) else d2).setCmt s 31 1 1
  let due := t.at_ + 3 * d3.tick.period + unitsOfNs 10000000
  let d4 := if t.reason = 0 ∧ due < d3.sdt then d3.record .main 7 0xFF s t.frame (leBytes 8 (nsOfUnits (d3.sdt - due))) else d3
  let id := (c.clip.map (fun x => x.2)).getD 0
  let m1 := (List.range 2).foldl (fun m p =>
    if c.recordsTo p ∧ (m.dev.mag p).mounted then
      Mach.writeLogs { m with dev := m.dev.onVol p (fun v => v.onClip id (fun x => { x with recs := x.recs ++ [t.record] })) } p id false
    else m) { m with dev := d4 }
  if c.draining ∧ t.frame = c.last then
    let d5 := (m1.dev.modCap s (fun c => { c with run := .idle, draining := false, stop := none })).reserveAgain
    match c.stop with
    | some (_, sq, cid) => { m1 with dev := (d5.complete sq cid Status.ok t.frame).sendState }
    | none => { m1 with dev := d5.sendState }
  else m1

/-- Let the watermark of a stream pass every frame that is committed or dropped, at most `k`. -/
def Mach.advanceMark (m : Mach) (s : Nat) : Nat → Mach
  | 0 => m
  | k + 1 =>
    match m.dev.cap s with
    | none => m
    | some c =>
      match c.taken with
      | t :: r => if m.dev.frameDone s c t then (m.passFrame s c t r).advanceMark s k else m
      | [] => m

/-- Let every watermark advance. -/
def Mach.advanceMarks (m : Mach) : Mach := m.dev.streams.foldl (fun m e => m.advanceMark e.1 e.2.taken.length) m

/-- Take the finished frames of a stream that come next in frame order into its stream of bytes, at most `k` (R308, R354). -/
def Dev.takeFrames (d : Dev) (s : Nat) : Nat → Dev
  | 0 => d
  | k + 1 =>
    match d.cap s with
    | none => d
    | some c =>
      match c.outq with
      | f :: r =>
        if f.frame ≠ (c.first + c.takenCnt) % 2 ^ 32 ∨ c.clip.isNone then d
        else
          let len := if f.reason = 0 then f.bytes.length else f.slot
          let room := max f.slot len
          let t : Taken := { frame := f.frame, stamp := f.stamp, reason := f.reason, flags := f.flags, tiles := f.tiles, eclipse := f.eclipse,
                             fallback := f.fallback, offset := c.bytes, len := len, crc := crc32c 0 f.bytes, at_ := f.at_ }
          let starts := if room = 0 then c.starts else c.starts ++ [(f.frame, c.bytes, decide (f.reason = 0))]
          let cut := c.cut ++ padTo room f.bytes
          (d.setCap s (some { c with outq := r, taken := c.taken ++ [t], takenCnt := c.takenCnt + 1, bytes := c.bytes + room, cut := cut,
                                     starts := starts })).takeFrames s k
      | [] => d

/-! ### Placing units (R309, R317, R321, R324) -/

/-- The group that takes the next stripe: in rotation, one that is open and has a word line or a superblock beyond the two kept
for relocation (R324, R325). -/
def MagPort.stripeGroup (q : MagPort) : Option Nat :=
  let n := max 1 q.geo.groups
  ((List.range n).map (fun i => (q.nextGroup + i) % n)).find? (fun g =>
    !q.closed.contains g && ((q.openSb g 1 1).isSome || decide (2 < (q.freeSbs g).length)))

/-- The units to be programmed again that a stripe of a group takes first: those of the group and of closed groups (R321). -/
def MagPort.redoFor (q : MagPort) (grp : Nat) : List (Nat × StripeUnit) × List (Nat × StripeUnit) :=
  q.redo.partition (fun e => decide (e.1 = grp) || q.closed.contains e.1)

/-- Open a stripe to be filled, with the units that must be programmed again at its head. -/
def MagPort.openFill (q : MagPort) : MagPort :=
  match q.fill with
  | some _ => q
  | none =>
    match q.stripeGroup with
    | none => q
    | some grp =>
      let (ob, q1) := match q.openSb grp 1 1 with
        | some b => (some b, q)
        | none =>
          let full := { q with vol := q.geo.sbNumbers.foldl (fun v b =>
            let e := v.sb (sbKey grp b)
            if e.state = 1 ∧ e.kind = 1 ∧ q.placedOn grp b = 0 then v.setSb (sbKey grp b) { e with state := 2 } else v) q.vol }
          match full.allocSb grp 1 8192 with
          | (some b, q2) => (some b, { q2 with erasing := q2.erasing ++ q2.members grp b (q2.mask grp) })
          | (none, q2) => (none, q2)
      match ob with
      | none => q1
      | some b =>
        let e := q1.vol.sb (sbKey grp b)
        let (mine, others) := q1.redoFor grp
        let n := q1.perLine grp b
        let x : Stripe := { group := grp, sb := b, wl := e.wlUsed + q1.placedOn grp b, kind := 1, dies := liveDies grp e.liveMask,
                            units := (mine.take n).map (fun e => e.2) }
        { q1 with fill := some x, nextGroup := grp + 1, redo := mine.drop n ++ others }

/-- Move a full stripe to those that wait to be programmed. -/
def MagPort.closeFull (q : MagPort) : MagPort :=
  match q.fill with
  | some x => if q.perLine x.group x.sb ≤ x.units.length then { q with fill := none, programs := q.programs ++ [x] } else q
  | none => q

/-- Place a unit in the stripe under fill: its LUA, none where no group can take a stripe. `lastAt` marks the last chunk of a
frame. -/
def MagPort.placeUnit (q : MagPort) (u : StripeUnit) (lastAt : Nat) : Option Nat × MagPort :=
  let q1 := (q.openFill.closeFull).openFill
  match q1.fill with
  | none => (none, q1)
  | some x =>
    let x1 := { x with units := x.units ++ [u], lastAt := if x.lastAt = 0 then lastAt else x.lastAt }
    (some (luaOf x.group x.sb x.wl x.units.length), ({ q1 with fill := some x1 }).closeFull)

/-- Place the units of a chunk in order (R309). -/
def MagPort.placeAll (q : MagPort) (lastAt : Nat) : List StripeUnit → MagPort
  | [] => q
  | u :: r => (q.placeUnit u lastAt).2.placeAll lastAt r

/-- The frame that holds stream byte `o`. -/
def frameAt (starts : List (Nat × Nat × Bool)) (o : Nat) : Nat :=
  match (starts.filter (fun e => decide (e.2.1 ≤ o))).getLast? with
  | some e => e.1
  | none => 0

/-- FRAME_START of the unit at stream byte `o` (R340). -/
def startIn (starts : List (Nat × Nat × Bool)) (o : Nat) : Nat :=
  match starts.find? (fun e => decide (o ≤ e.2.1 ∧ e.2.1 < 4096 + o) && e.2.2) with
  | some e => e.2.1 - o
  | none => 0xFFFF

/-- The next chunk of a stream, where its 65,536 bytes are there, or the last bytes of a run that has ended (R308). -/
def Cap.nextChunk (c : Cap) : Option (List Byte) :=
  if 65536 ≤ c.cut.length then some (c.cut.take 65536)
  else if c.draining ∧ 0 < c.takenCnt ∧ (c.first + c.takenCnt - 1) % 2 ^ 32 = c.last ∧ !c.cut.isEmpty then some (padTo 65536 c.cut)
  else none

/-- Port of the next chunk: the clip's, or by the chunk's parity for a striped clip, whose other magazine takes all once one is
gone (R309, R330). -/
def Dev.chunkPort (d : Dev) (c : Cap) : Nat :=
  match c.choice with
  | some 2 => let p := c.chunks % 2; if (d.mag p).mounted then p else 1 - p
  | some p => p
  | none => 0

/-- Drop the frames of a stream that satisfy `p`, taken and not passed (R310, R330). -/
def Dev.dropTaken (d : Dev) (s reason : Nat) (p : Taken → Bool) : Dev :=
  match d.cap s with
  | none => d
  | some c =>
    let hit := c.taken.filter (fun t => decide (t.reason = 0) && p t)
    let d1 := d.modCap s (fun c => { c with taken := c.taken.map (fun t => if t.reason = 0 ∧ p t then { t with reason := reason } else t) })
    hit.foldl (fun d t => d.reportDrop s t.frame reason) d1

/-- A chunk leaves the stream: what follows it comes next. -/
def Cap.chunkGone (c : Cap) : Cap :=
  let base := 65536 * (c.chunks + 1)
  let old := c.starts.filter (fun e => decide (e.2.1 ≤ base))
  { c with cut := c.cut.drop 65536, chunks := c.chunks + 1, tries := 0,
           starts := old.drop (old.length - 1) ++ c.starts.filter (fun e => decide (base < e.2.1)) }

/-- CHUNK_CHECK: the check value of the next chunk of stream `s` is compared; `bad` is a mismatch (R308 to R310). -/
def execChunkCheck (s : Nat) (bad : Bool) (st : State) : Host.Outcome State Fault Refusal :=
  live (fun m =>
    let d := match m.dev.cap s with
      | some c => m.dev.takeFrames s c.outq.length
      | none => m.dev
    match d.cap s with
    | none => m
    | some c =>
      let p := d.chunkPort c
      let q := d.mag p
      match c.nextChunk with
      | none => Mach.advanceMark { m with dev := d } s c.taken.length
      | some bytes =>
        if !q.mounted ∨ q.readOnly ∨ !d.takesWork (8 + p) then { m with dev := d }
        else
          let lo := 65536 * c.chunks
          let over_ : Taken → Bool := fun t => decide (0 < t.len ∧ t.offset < 65536 + lo ∧ lo < t.offset + t.len)
          if bad ∧ c.tries < 2 then
            let d1 := ((d.modCap s (fun c => { c with tries := c.tries + 1 })).bump 0x1C 0x20).count 0x7058
            { m with dev := d1.fireInt (587 + p) }
          else if bad then
            let d1 := ((d.setBit 0x1C 0x1C 0 true).raise (432 + 16 * p + 5) s).fireInt (587 + p)
            let d2 := (d1.dropTaken s 5 over_).modCap s Cap.chunkGone
            let d3 := d2.onMag p (fun q => q.placeAll 0 (List.replicate 16 padUnit))
            Mach.advanceMarks { m with dev := (d3.count (magStat p 0x18) 16).bump 0x1D (0x100 * p + 0x30) 16 }
          else
            match d.poolGrant 2 0 c.ctx (64 + 4 * p + c.chunks % 4) 0 with
            | (none, d1) => { m with dev := d1 }
            | (some buf, d1) =>
              let q1 := ((d1.mag p).openFill.closeFull).openFill
              match q1.fill with
              | none => { m with dev := (d1.setBuf 2 buf none).onMag p (fun _ => q1) }
              | some x =>
                let lua := luaOf x.group x.sb x.wl x.units.length
                let f := frameAt c.starts lo
                let chk := chunkCheck q1.vol.id lua f bytes
                let clip := (c.clip.map (fun x => x.2)).getD 0
                let units : List StripeUnit := (List.range 16).map (fun i =>
                  { user := slice bytes (4096 * i) 4096, kind := 1, unit := c.chunks * 16 + i, clip := clip, frame := frameAt c.starts (lo + 4096 * i),
                    start := startIn c.starts (lo + 4096 * i), check := chk, chunk := some (s, c.chunks) })
                let ends := c.taken.any (fun t => decide (0 < t.len ∧ (t.offset + t.len - 1) / 65536 = c.chunks))
                let q2 := { q1.placeAll (if ends then d1.clk + 1 else 0) units with
                  chunks := q1.chunks ++ [{ stream := s, no := c.chunks, buf := buf }] }
                { m with dev := (d1.onMag p (fun _ => q2)).modCap s Cap.chunkGone }) st

/-! ### Programming (R307, R314, R317, R318) -/

/-- Operations in flight of a port: dies in programming and members in erase. -/
def MagPort.inFlight (q : MagPort) : Nat := sumBy (fun x => x.waiting.length) q.programs + q.erasing.length

/-- Keep the peak of operations in flight. -/
def MagPort.notePeak (q : MagPort) : MagPort := { q with peak := max q.peak q.inFlight }

/-- Issue the oldest stripe that waits and whose superblock is erased: its WRITE_SEQ, and a program on every live die. -/
def Dev.issueStripe (d : Dev) (p : Nat) : Dev :=
  let q := d.mag p
  let erased : Stripe → Bool := fun x => !((q.members x.group x.sb (flagsAt 0 (List.replicate 16 true))).any (fun e => q.erasing.contains e))
  match q.programs.find? (fun x => x.seq.isNone && erased x) with
  | none => d
  | some x =>
    let seq := (q.vol.seq + 1) % 2 ^ 32
    let key := sbKey x.group x.sb
    let e := q.vol.sb key
    let v := { q.vol.setSb key { e with firstSeq := if x.wl = 0 then seq else e.firstSeq } with seq := seq }
    let x1 := { x with seq := some seq, waiting := x.dies, stamp := d.stamp32 }
    d.onMag p (fun q => MagPort.notePeak { q with vol := v, programs := modifyFirst (fun y => decide (y = x)) (fun _ => x1) q.programs })

/-- STRIPE_PROGRAM: the oldest full stripe of port `p` is programmed with its die parity (R305 to R307, R317). -/
def execStripeProgram (p : Nat) (s : State) : Host.Outcome State Fault Refusal :=
  liveDev (fun d => onlyIf (decide (p < 2) && (d.mag p).mounted && d.takesWork (8 + p)) (fun d => d.issueStripe p) d) s

/-- FLUSH_TIMEOUT: a stripe with the last chunk of a frame, FLUSH_US after it entered, is padded and programmed (R317). -/
def execFlushTimeout (p : Nat) (s : State) : Host.Outcome State Fault Refusal :=
  liveDev (fun d => onlyIf (decide (p < 2) && (d.mag p).mounted && d.takesWork (8 + p)) (fun d =>
    match (d.mag p).fill with
    | none => d
    | some x =>
      if x.lastAt = 0 then d
      else
        let us := fld (d.reg 0x1C 0) 0 10
        let d1 := d.advanceTo (x.lastAt - 1 + 1000 * us)
        let n := (d.mag p).perLine x.group x.sb - x.units.length
        let x1 := { x with units := x.units ++ List.replicate n padUnit }
        let d2 := d1.onMag p (fun q => ({ q with fill := some x1 }).closeFull)
        ((d2.count (magStat p 0x18) n).bump 0x1D (0x100 * p + 0x30) n).issueStripe p) d) s

/-- Data positions of a stripe that lie on a die, in one plane or in all. -/
def MagPort.unitsOn (q : MagPort) (x : Stripe) (die : Nat) (plane : Option Nat) : List Nat :=
  let k := q.geo.kOf x.group x.sb
  let par := (x.sb + x.wl) % max 1 x.dies.length
  let pos := (x.dies.findIdx? (fun y => decide (y = die))).getD 16
  if pos = par ∨ x.dies.length ≤ pos then []
  else
    let i := if pos < par then pos else pos - 1
    ((List.range k).map (fun pg => ((List.range q.geo.planes).map (fun pl =>
      if plane = none ∨ plane = some pl then (List.range 4).map (fun c => ((i * k + pg) * q.geo.planes + pl) * 4 + c) else [])).flatten)).flatten

/-- Units of some positions of a stripe that have data. -/
def Stripe.dataAt (x : Stripe) (l : List Nat) : List StripeUnit := l.filterMap (fun j => (x.units[j]?).bind (fun u => if u.isData then some u else none))

/-- A stripe whose every status has been read: its superblock, extents, counters, and what it commits (R319, R335, R355). -/
def Mach.stripeDone (m : Mach) (p : Nat) (x : Stripe) : Mach :=
  let q := m.dev.mag p
  let key := sbKey x.group x.sb
  let e := q.vol.sb key
  let per := q.perLine x.group x.sb
  let good := (List.range x.units.length).filter (fun j => !x.lost.contains j)
  let data := good.filter (fun j => ((x.units[j]?).map StripeUnit.isData).getD false)
  let wl := max e.wlUsed (x.wl + 1)
  let e1 := { e with wlUsed := wl, liveUnits := e.liveUnits + data.length,
                     state := if e.state = 1 ∧ q.lines x.group x.sb ≤ wl then 2 else e.state }
  let v1 := data.foldl (fun v j =>
    match x.units[j]? with
    | some u => v.onClip u.clip (fun c =>
        { c with exts := c.exts.take c.extsLogged ++ addUnit per (c.exts.drop c.extsLogged) u.unit (luaOf x.group x.sb x.wl j) })
    | none => v) (q.vol.setSb key e1)
  let rest := q.programs.filter (fun y => decide (y.seq ≠ x.seq))
  let pending : Chunk → Bool := fun ch =>
    let mine : StripeUnit → Bool := fun u => decide (u.chunk = some (ch.stream, ch.no))
    rest.any (fun y => y.units.any mine) || q.redo.any (fun e => mine e.2) || (match q.fill with
      | some y => y.units.any mine
      | none => false)
  let freed := q.chunks.filter (fun ch => !pending ch)
  let d1 := m.dev.onMag p (fun q => { q with vol := v1, programs := rest, chunks := q.chunks.filter pending })
  let d2 := freed.foldl (fun d ch => d.setBuf 2 ch.buf none) d1
  let d3 := (d2.count (magStat p 0x20)).count (magStat p 0x00) (4096 * data.length)
  Mach.advanceMarks { m with dev := d3.fireInt (587 + p) }

/-! ### Stopping captures (R322, R325, R330, R450, R451) -/

/-- Captures that record to port `p` stop, with STOP_REASON and the status of their pending commands. `lose` says that what is in
work is lost: then only those that record to no other port stop (R322, R325, R330). -/
def Dev.stopOn (d : Dev) (p reason status : Nat) (lose : Bool) : Dev :=
  let before := d.activeCount
  let out := d.streams.foldl (fun d e =>
    match d.cap e.1 with
    | none => d
    | some c =>
      if (if lose then decide (c.choice = some p) else c.recordsTo p) = false ∨ (!c.active ∧ !c.draining) then d
      else
        let s := e.1
        let mark := (d.reg 0 (0x6000 + 16 * s)).toNat
        let d1 := match c.start with
          | some (_, sq, cid) => d.complete sq cid status 0xFFFFFFFF
          | none => d
        let d2 := match c.stop with
          | some (_, sq, cid) => d1.complete sq cid status mark
          | none => d1
        let running := decide (c.run = .running)
        let keep := running && !lose
        let d3 := (d2.modCap s (fun c =>
          { c with start := none, stop := none, stopReason := reason, run := if keep then .running else .idle, draining := keep,
                   last := if keep ∧ !c.draining then d.tick.now else c.last })).setCmt s 25 3 reason
        let d3 := d3.postEvent 0x04 2 s
        if lose then
          let d4 := c.works.foldl (fun d w => d.stopWork s w) d3
          let bufs : List Nat := (c.works.map (fun w => (w.tiles.map (fun t => (t.bands.map (fun b => b.bufs ++ b.refBufs)).flatten)).flatten)).flatten
          (d4.freeMany bufs).modCap s (fun c => { c with works := [], outq := [], taken := [], cut := [], starts := [] })
        else d3) d
  if out.activeCount = before then out else out.reserveAgain.sendState

/-- No group can take programs: captures stop with MAG_FULL, and chunks that can no longer be programmed are lost (R322). -/
def Dev.noGroupLeft (d : Dev) (p : Nat) : Dev :=
  let q := d.mag p
  let gone := q.chunks
  let d1 := d.stopOn p 3 Status.magFull true
  let d2 := gone.foldl (fun d ch => d.setBuf 2 ch.buf none) d1
  let d3 := (d2.onMag p (fun q => { q with chunks := [], redo := [], fill := none, programs := [], full := true })).postEvent 0x03 4 p
  d3.streams.foldl (fun d e =>
    if e.2.choice = some 2 then
      d.dropTaken e.1 7 (fun t => gone.any (fun ch => decide (ch.stream = e.1 ∧ t.offset < 65536 * (ch.no + 1) ∧ 65536 * ch.no < t.offset + t.len)))
    else d) d3

/-! ### Failures (R321, R322) -/

/-- Take the units of a stripe that is not in programming back, to be placed anew. -/
def MagPort.recall (q : MagPort) (x : Stripe) : MagPort :=
  { q with redo := q.redo ++ (x.units.filter StripeUnit.isData).map (fun u => (x.group, u)) }

/-- End every open superblock of a group at its last programmed word line: stripes placed and not in programming give their
units back (R338). -/
def MagPort.endOpen (q : MagPort) (grp : Nat) : MagPort :=
  let idle := q.programs.filter (fun x => decide (x.group = grp) && x.seq.isNone)
  let q1 := (idle.foldl MagPort.recall { q with programs := q.programs.filter (fun x => !(decide (x.group = grp) && x.seq.isNone)) })
  let q2 := match q1.fill with
    | some x => if x.group = grp then ({ q1 with fill := none }).recall x else q1
    | none => q1
  { q2 with vol := q2.geo.sbNumbers.foldl (fun v b =>
      let e := v.sb (sbKey grp b)
      if e.state = 1 then v.setSb (sbKey grp b) { e with state := 2 } else v) q2.vol }

/-- The programs of a die that a stripe still waits for, or part of them, have failed: its units go to a later stripe. -/
def MagPort.failUnits (q : MagPort) (x : Stripe) (l : List Nat) : MagPort :=
  let q1 := { q with redo := q.redo ++ (x.dataAt l).map (fun u => (x.group, u)) }
  { q1 with programs := modifyFirst (fun y => decide (y.seq = x.seq)) (fun y => { y with lost := y.lost ++ l }) q1.programs }

/-- A die has failed: it is marked, its group degraded or closed, its pending units redirected; a checkpoint follows (R321, R322,
R338, R346). -/
def Mach.dieFail (m : Mach) (p die : Nat) : Mach :=
  let q := m.dev.mag p
  let grp := die / 16
  if q.failedDies.contains die ∨ !q.mounted then m
  else
    let second := q.failedDies.any (fun x => decide (x / 16 = grp))
    let q1 := { q with failedDies := insertNat die q.failedDies, closed := if second then insertNat grp q.closed else q.closed }
    let q2 := q1.endOpen grp
    let busy := q2.programs.filter (fun x => x.waiting.contains die)
    let q3 := busy.foldl (fun q x => q.failUnits x (q.unitsOn x die none)) q2
    let q4 := { q3 with programs := q3.programs.map (fun x => { x with waiting := x.waiting.filter (fun y => decide (y ≠ die)) }),
                        erasing := q3.erasing.filter (fun e => decide (e.1 ≠ die)) }
    let d1 := m.dev.onMag p (fun _ => q4)
    let src := 432 + 16 * p + (if second then 4 else 3)
    let d2 := d1.onFlt (fun f => { f with causes := insertNat src f.causes })
    let d3 := if second then (((d2.raise src grp).postEvent 0x03 3 p).setBit 0x1C 0x1C 4 true)
      else (((d2.raise src die).postEvent 0x03 2 p).setBit 0x1C 0x1C 3 true)
    let d4 := if (d3.mag p).openGroups.isEmpty then d3.noGroupLeft p else d3
    let done := ((d4.mag p).programs.filter (fun x => x.seq.isSome && x.waiting.isEmpty))
    let m1 := done.foldl (fun m x => m.stripeDone p x) { m with dev := d4 }
    m1.checkpoint p

/-- A program failure of a die's block: four blocks of one die within a second fail the die (R321). -/
def Mach.noteFailure (m : Mach) (p die block : Nat) : Mach :=
  let now := m.dev.clk
  let q := m.dev.mag p
  let l := (q.failures.filter (fun e => decide (now < 10 ^ 9 + e.2.2))) ++ [(die, block, now)]
  let m1 : Mach := { m with dev := m.dev.onMag p (fun q => { q with failures := l }) }
  let blocks := ((l.filter (fun e => decide (e.1 = die))).map (fun e => e.2.1)).eraseDups
  if 4 ≤ blocks.length then m1.dieFail p die else m1

/-- PROGRAM_DONE: the program status of die `die` is read `dt` ns after the previous command, for its oldest stripe: a pass, or a
FAIL of the block in one plane, which is retired and whose units are programmed again (R294, R321, R346). -/
def execProgramDone (p die dt : Nat) (fail : Option Nat) (s : State) : Host.Outcome State Fault Refusal :=
  live (fun m => onlyIf (decide (p < 2) && (m.dev.mag p).mounted) (fun m =>
    let d := m.dev.advance dt
    let q := d.mag p
    match q.programs.find? (fun x => x.seq.isSome && x.waiting.contains die) with
    | none => { m with dev := d }
    | some x =>
      let bad : Option Nat := fail.map (fun pl => x.sb + pl % max 1 q.geo.planes)
      let badBlk := bad.map (fun b => q.vol.member die b)
      let pages := (q.stripePages x (x.seq.getD 0) x.stamp).filter (fun e =>
        decide (e.1 / 2 ^ 25 = die) && decide (some (e.1 / 4096 % 8192) ≠ badBlk))
      let m1 := Mach.programPages { m with dev := d } p pages
      let x1 := { x with waiting := x.waiting.filter (fun y => decide (y ≠ die)) }
      let d1 := m1.dev.onMag p (fun q => { q with programs := modifyFirst (fun y => decide (y.seq = x.seq)) (fun _ => x1) q.programs })
      let m2 : Mach := match bad, badBlk with
        | some b, some blk =>
          let ppa := ppaOf die blk (q.geo.kOf x.group x.sb * x.wl)
          let d2 := ((d1.bump 0x1D (0x100 * p + 0x20)).count (magStat p 0x68)).setBit 0x1C 0x1C 1 true
          let d3 := (d2.raise (432 + 16 * p + 1) ppa).onMag p (fun q => (q.failUnits x1 (q.unitsOn x1 die (some (b - x.sb)))).endOpen x.group)
          let d4 := (d3.growBad p die b false).2
          Mach.noteFailure (Mach.checkpoint { m1 with dev := d4 } p) p die blk
        | _, _ => { m1 with dev := d1 }
      match (m2.dev.mag p).programs.find? (fun y => decide (y.seq = x.seq)) with
      | some y => if y.waiting.isEmpty then m2.stripeDone p y else m2
      | none => m2) m) s

/-- ERASE_DONE: the erase status of the oldest member in erase is read; a FAIL retires it and takes a spare, without which its
superblock is retired and its stripes placed anew (R321, R324, R329, R337, R346). -/
def execEraseDone (p dt : Nat) (fail : Bool) (s : State) : Host.Outcome State Fault Refusal :=
  live (fun m => onlyIf (decide (p < 2) && (m.dev.mag p).mounted) (fun m =>
    let d := m.dev.advance dt
    match (d.mag p).erasing with
    | [] => { m with dev := d }
    | (die, blk) :: r =>
      let d1 := d.onMag p (fun q => { q with erasing := r })
      if !fail then Mach.eraseBlock { m with dev := d1 } p die blk
      else
        let q := d1.mag p
        let (b, pl) := q.vol.placeOf q.geo die blk
        let d2 := ((d1.bump 0x1D (0x100 * p + 0x24)).setBit 0x1C 0x1C 1 true).raise (432 + 16 * p + 2) (ppaOf die blk 0)
        let v1 : Volume := { q.vol with bads := if blk = b + pl then q.vol.bads else putBad { die := die, flags := 2, block := blk, spare := 0xFFFF } q.vol.bads }
        let (good, d3) := (d2.onVol p (fun _ => v1)).growBad p die (b + pl) true
        let q3 := d3.mag p
        if good then Mach.checkpoint { m with dev := d3.onMag p (fun q => { q with erasing := q.erasing ++ [(die, q3.vol.member die (b + pl))] }) } p
        else
          let key := sbKey (die / 16) b
          let d4 := d3.onMag p (fun q =>
            let q1 := q.endOpen (die / 16)
            { q1 with vol := q1.vol.setSb key { q1.vol.sb key with state := 4 } })
          Mach.checkpoint { m with dev := d4 } p) m) s

/-- STATUS_TIMEOUT: an operation of a die shows no completion within twice its limit, for the third time a die failure (R316,
R321). -/
def execStatusTimeout (p die dt : Nat) (s : State) : Host.Outcome State Fault Refusal :=
  live (fun m => onlyIf (decide (p < 2) && (m.dev.mag p).mounted) (fun m =>
    let d := m.dev.advance dt
    let q := d.mag p
    let busy := q.programs.any (fun x => x.waiting.contains die) || q.erasing.any (fun e => decide (e.1 = die))
    if !busy then { m with dev := d }
    else
      let n := Tbl.get (fun _ => 0) q.timeouts die + 1
      let m1 : Mach := { m with dev := d.onMag p (fun q => { q with timeouts := Tbl.set (fun _ => 0) q.timeouts die n }) }
      if 3 ≤ n then m1.dieFail p die else m1) m) s

/-! ### Carriers (R287 to R289, R330) -/

/-- A carrier as the environment describes it when it is seated: its descriptor copies, and numbers: the parameter page's four,
whether its dies are supported (0 they are not), whether training fails, interface mode and rate, then its factory bad blocks
by die * 8,192 + block. Numbers left out keep their values. -/
def Carrier.seatedWith (c : Carrier) (desc0 desc1 : List Byte) (env : List Nat) : Carrier :=
  let bad := (env.drop 8).map (fun k => (k / 8192, k % 8192))
  { c with desc0 := desc0, desc1 := desc1, param := env.take 4, supported := decide (env.getD 4 (b2n c.supported) ≠ 0),
           trainFails := decide (env.getD 5 (b2n c.trainFails) ≠ 0), ifMode := env.getD 6 c.ifMode, ifRate := env.getD 7 c.ifRate,
           factoryBad := if env.length ≤ 8 then c.factoryBad else bad }

/-- MAG_PRESENT_N_CHANGE: the line of port `p` changes; low means that a carrier, which the environment describes, is seated
(R288). A carrier known by its number keeps its media. -/
def execMagPresentNChange (p : Nat) (low : Bool) (carrier : Nat × List Byte × List Byte × List Nat) (s : State) :
    Host.Outcome State Fault Refusal :=
  live (fun m => onlyIf (decide (p < 2)) (fun m =>
    let (id, desc0, desc1, env) := carrier
    let base : Carrier := (m.mem.carrier id).getD { id := id, desc0 := desc0, desc1 := desc1, param := [] }
    let mem := if low then m.mem.putCarrier (base.seatedWith desc0 desc1 env) else m.mem
    { dev := m.dev.onMag p (fun q => { q with seated := if low then some id else none, lineAt := m.dev.clk }), mem := mem }) m) s

/-- MAG_PRESENT: after 100 ms of low the carrier of port `p` is reported present (R288). -/
def execMagPresent (p : Nat) (s : State) : Host.Outcome State Fault Refusal :=
  liveDev (fun d => onlyIf (decide (p < 2) && (d.mag p).seated.isSome && !(d.mag p).present) (fun d =>
    let d1 := d.advanceTo (100000000 + (d.mag p).lineAt)
    ((d1.onMag p (fun q => { q with present := true })).postEvent 0x03 0 p).fireInt (587 + p)) d) s

/-- Forget what a port holds of a carrier; MAG_PWR_EN falls (R289, R330). -/
def Dev.magOff (d : Dev) (p : Nat) : Dev :=
  let q := d.mag p
  let d1 := q.chunks.foldl (fun d ch => d.setBuf 2 ch.buf none) d
  let keep : MagPort := { seated := q.seated, lineAt := q.lineAt, present := q.present, mountErr := q.mountErr, peak := q.peak, peakShown := q.peakShown }
  let d2 := (d1.onMag p (fun _ => keep)).onFlt (fun f => { f with causes := f.causes.filter (fun x => decide (x ≠ 432 + 16 * p + 3 ∧ x ≠ 432 + 16 * p + 4)) })
  { d2 with pins := { d2.pins with magPwrEn := modAt d2.pins.magPwrEn p (fun _ => false) } }

/-- Removal of the carrier of port `p`: operations end, contexts that record only there stop, frames of striped contexts with
bytes there are dropped (R289, R330). -/
def Mach.remove (m : Mach) (p : Nat) : Mach :=
  let gone := (m.dev.mag p).chunks
  let d1 := m.dev.stopOn p 2 Status.magRemoved true
  let d2 := (d1.magOff p).onMag p (fun q => { q with present := false, seated := none })
  let d3 := d2.streams.foldl (fun d e =>
    if e.2.choice = some 2 then
      d.dropTaken e.1 7 (fun t => gone.any (fun ch => decide (ch.stream = e.1 ∧ t.offset < 65536 * (ch.no + 1) ∧ 65536 * ch.no < t.offset + t.len)))
    else d) d2
  Mach.advanceMarks { m with dev := (d3.postEvent 0x03 1 p).fireInt (587 + p) }

/-- MAG_REMOVED: after 10 µs of high the carrier of port `p` is removed (R288, R289, R330). -/
def execMagRemoved (p : Nat) (s : State) : Host.Outcome State Fault Refusal :=
  live (fun m => onlyIf (decide (p < 2) && (m.dev.mag p).seated.isNone && (m.dev.mag p).present) (fun m =>
    Mach.remove { m with dev := m.dev.advanceTo (10000 + (m.dev.mag p).lineAt) } p) m) s

/-! ### Reads, relocation, retention (R302, R326, R328, R350) -/

/-- CODEWORD_READ: a read of codeword `c` of a page of port `p` ends at a step with a corrected-bit count (R302, R303, R326). -/
def execCodewordRead (p ppa c step bits : Nat) (s : State) : Host.Outcome State Fault Refusal :=
  live (fun m => onlyIf (decide (p < 2 ∧ c < 4) && (m.dev.mag p).mounted && m.dev.takesWork (8 + p)) (fun m =>
    let (_, at_) := m.readCw p ppa c step
    { m with dev := m.dev.codewordEnd p ppa at_ bits }) m) s

/-- Whether a unit belongs to a live clip (R348). -/
def Volume.liveUnit (v : Volume) (u : List Byte) : Bool :=
  let kind := rd u 4096 1
  (decide (kind = 1) || decide (kind = 3) || decide (kind = 4)) && (v.clip (rd u 4102 2)).isSome

/-- The unit that bytes spell, to be written elsewhere with its header as first written, ORIGIN_LUA too (R340, R350). -/
def unitOf (u : List Byte) : StripeUnit :=
  { user := slice u 0 4096, kind := rd u 4096 1, unit := rd u 4097 5, clip := rd u 4102 2, frame := rd u 4104 4, start := rd u 4108 2,
    check := rd u 4112 4, origin := some (rd u 4116 4) }

/-- Pages of a block with live units: origin LUA of the page, and its four units. -/
def Mach.livePages (m : Mach) (p die block : Nat) : List (Nat × List (List Byte)) :=
  let q := m.dev.mag p
  match m.carrierAt p with
  | none => []
  | some c =>
    (c.pages.filter (fun e => decide (e.1 / 4096 = 8192 * die + block))).filterMap (fun e =>
      match parseMarker (slice e.2 0 32) with
      | some hd =>
        if hd.kind = 2 then none
        else
          let us := (List.range 4).map (fun i => ((m.readCw p e.1 i 1).1).getD (zeros 4124))
          if us.any q.vol.liveUnit then
            let (b, _) := q.vol.placeOf q.geo die block
            let lua := luaOf (die / 16) b (hd.lua / 1024 % 4096) (hd.lua % 1024)
            some (lua, us)
          else none
      | none => none)

/-- Relocate a block (R326, R350): its live pages go to a KIND 6 superblock, the map switches at a checkpoint, then the block is
freed, or retired where its trigger was step 3 or 4. -/
def Mach.relocate (m : Mach) (p die block : Nat) (bad : Bool) : Mach :=
  let q := m.dev.mag p
  let pages := m.livePages p die block
  let units := (pages.map (fun e => e.2)).flatten
  let (out, m1) := if units.isEmpty then (some 0, m) else m.writeUnits p 6 (units.map unitOf)
  match out with
  | none => m
  | some base =>
    let per := (m1.dev.mag p).perLine (luaParts base).1 (luaParts base).2.1
    let origin : Nat → Nat := fun a => match q.vol.reloc.find? (fun e => decide (e.2 = a)) with
      | some e => e.1
      | none => a
    let new := (List.range pages.length).map (fun i => (origin (pages.getD i (0, [])).1, luaAdd per base (4 * i)))
    let keep := q.vol.reloc.filter (fun e => !(new.any (fun x => decide (x.1 = e.1))))
    let sorted := (keep ++ new).mergeSort (fun a b => decide (a.1 ≤ b.1))
    let (b, _) := q.vol.placeOf q.geo die block
    let key := sbKey (die / 16) b
    let d1 := m1.dev.onVol p (fun v =>
      let e := v.sb key
      { v.setSb key { e with liveUnits := e.liveUnits - units.length } with reloc := sorted })
    let d2 := if bad then (d1.growBad p die block false).2 else d1
    let m2 := Mach.checkpoint { m1 with dev := d2.bump 0x1D (0x100 * p + 0x2C) } p
    onDev (fun d => d.onMag p (fun q => { q with relocDue := q.relocDue.filter (fun x => !(decide (x.1 = die) && decide (x.2.1 = block))) })) m2

/-- RELOCATE_BLOCK: the oldest block of port `p` that meets a trigger of R326 is relocated. -/
def execRelocateBlock (p : Nat) (s : State) : Host.Outcome State Fault Refusal :=
  live (fun m => onlyIf (decide (p < 2) && (m.dev.mag p).mounted && !(m.dev.mag p).readOnly) (fun m =>
    match (m.dev.mag p).relocDue with
    | (die, block, bad) :: _ => m.relocate p die block bad
    | [] => m) m) s

/-- Written superblocks: keys of those with programmed word lines. -/
def Volume.written (v : Volume) : List (Nat × SbEntry) := v.sbs.filter (fun e => decide (0 < e.2.wlUsed) && decide (e.2.state = 1 ∨ e.2.state = 2))

/-- The pages of a word line of a superblock, first plane only or all. -/
def MagPort.linePages (q : MagPort) (key : Nat) (e : SbEntry) (wl : Nat) (planes pages : Nat) : List Nat :=
  let grp := key / 8192
  let b := key % 8192
  ((liveDies grp e.liveMask).map (fun die => ((List.range planes).map (fun pl => (List.range pages).map (fun i =>
    ppaOf die (q.vol.member die (b + pl)) (q.geo.kOf grp b * wl + i)))).flatten)).flatten

/-- Read pages in class C3: `found` gives the codewords that need more than a clean first step: PPA, codeword, step, bits. -/
def Mach.scanPages (m : Mach) (p : Nat) (found : List (Nat × Nat × Nat × Nat)) (ppas : List Nat) : Mach :=
  ppas.foldl (fun m ppa => (List.range 4).foldl (fun m c =>
    let (step, bits) := match found.find? (fun f => decide (f.1 = ppa) && decide (f.2.1 = c)) with
      | some f => (f.2.2.1, f.2.2.2)
      | none => (1, 0)
    let (_, at_) := m.readCw p ppa c step
    { m with dev := m.dev.codewordEnd p ppa at_ bits }) m) m

/-- RETENTION_SCAN: one word line of every written block of port `p` is read, every RETENTION_SCAN hours, the line advancing at
each visit (R326, R328). -/
def execRetentionScan (p : Nat) (found : List (Nat × Nat × Nat × Nat)) (s : State) : Host.Outcome State Fault Refusal :=
  live (fun m => onlyIf (decide (p < 2) && (m.dev.mag p).mounted && m.dev.takesWork (8 + p)) (fun m =>
    let q := m.dev.mag p
    let d1 := m.dev.advanceTo (q.scanAt + 10 ^ 9 * (3600 * q.geo.retention))
    let ppas := (q.vol.written.map (fun e =>
      q.linePages e.1 e.2 (Tbl.get (fun _ => 0) q.vol.visit e.1 % e.2.wlUsed) q.geo.planes (q.geo.kOf (e.1 / 8192) (e.1 % 8192)))).flatten
    let visits := q.vol.written.foldl (fun t e => Tbl.set (fun _ => 0) t e.1 (Tbl.get (fun _ => 0) t e.1 + 1)) q.vol.visit
    let d2 := d1.onMag p (fun q => { q with scanAt := d1.clk, vol := { q.vol with visit := visits } })
    Mach.scanPages { m with dev := d2 } p found ppas) m) s

/-- CHECKPOINT: while a clip is open on port `p`, a checkpoint every second (R346). -/
def execCheckpoint (p : Nat) (s : State) : Host.Outcome State Fault Refusal :=
  live (fun m => onlyIf (decide (p < 2) && (m.dev.mag p).mounted && (m.dev.mag p).vol.clips.any (fun c => decide (c.state = 1))) (fun m =>
    Mach.checkpoint { m with dev := m.dev.advanceTo (10 ^ 9 + (m.dev.mag p).ckptAt) } p) m) s

/-! ### Registers (R333) -/

/-- Computed registers of feature 0x1C. -/
def Mach.flhWord (m : Mach) (off : Nat) : Option Word :=
  match off with
  | 0x04 => some (word (2 ^ 16 * (sumBy (fun q => q.peakShown) m.dev.mags % 2 ^ 14) + sumBy (fun q => q.inFlight) m.dev.mags % 2 ^ 14))
  | 0x08 => some (word (m.wMag 0 / 10 ^ 6))
  | 0x0C => some (word (m.wMag 1 / 10 ^ 6))
  | _ => none

/-- Computed registers of feature 0x1D. -/
def Mach.magWord (m : Mach) (off : Nat) : Option Word :=
  let p := off / 0x100
  let q := m.dev.mag p
  let g := q.geo
  match off % 0x100 with
  | 0x00 =>
    some (word (2 ^ 31 * b2n q.present + 2 ^ 30 * b2n q.powered + 2 ^ 29 * b2n q.mounted + 2 ^ 28 * b2n (q.mounted && q.readOnly) +
      2 ^ 27 * b2n (q.powered && g.protected_) + 2 ^ 26 * b2n (!q.failedDies.isEmpty) + 2 ^ 25 * b2n q.eligible + 2 ^ 24 * b2n q.full +
      2 ^ 16 * q.mountErr + 2 ^ 8 * (q.failedDies.length % 256) + flagsAt 0 ((List.range 8).map (fun i => q.closed.contains i))))
  | 0x04 => if q.powered then some (word (2 ^ 24 * (g.dies - 1) + 2 ^ 16 * g.planes + 2 ^ 12 * g.kData + 2 ^ 8 * g.cePerCh +
      g.dies / (16 * max 1 g.cePerCh) * 2 ^ 4)) else some 0
  | 0x08 =>
    match m.carrierAt p with
    | some c => if q.powered then some (word (2 ^ 30 * c.ifMode + c.ifRate % 2 ^ 12)) else some 0
    | none => some 0
  | 0x10 | 0x14 | 0x18 | 0x1C =>
    let j := (off % 0x100 - 0x10) / 4
    some (word (flagsAt 0 ((List.range 32).map (fun i => q.failedDies.contains (32 * j + i)))))
  | _ => none

end Sys2Proof.Machine
end

