-- ==== Sys2Proof/Machine/Mount.lean ====
section
/-! DEFINITION. Mounting and formatting a magazine (R290 to R295, R323, R327, R332, R342, R347, R359 to R362, R454 to R456, R458):
the steps of MAG_MOUNT, the choice of a header, the mount scan, and the commands MAG_MOUNT, MAG_UNMOUNT, MAG_FORMAT, MAG_SCAN and
READ_UNITS. -/

namespace Sys2Proof.Machine
open Sys2Proof

/-! ### Power and identification (R290 to R295) -/

/-- Drive MAG_PWR_EN of port `p`. -/
def Dev.magPwr (d : Dev) (p : Nat) (on : Bool) : Dev :=
  { d with pins := { d.pins with magPwrEn := modAt d.pins.magPwrEn p (fun _ => on) } }

/-- Steps 1 to 5 of R290: power on, 10 ms, the descriptor, the parameter pages and training. The geometry, or MOUNT_ERR; a
failed copy raises its CE fault. -/
def Mach.magIdentify (m : Mach) (p : Nat) : Except Nat Geo × Mach :=
  let d0 := m.dev.magPwr p true
  let d1 := (d0.advance 10000000).onMag p (fun q => { q with powered := true })
  let m1 : Mach := { m with dev := d1 }
  match m.carrierAt p with
  | none => (.error (if (m.dev.mag p).present then 6 else 1), m1)
  | some c =>
    let good0 := descGood c.desc0
    let good1 := descGood c.desc1
    if !good0 && !good1 then (.error 1, m1)
    else
      let l := if good0 then c.desc0 else c.desc1
      let g := parseGeo l
      let m2 : Mach := if good0 && good1 then m1 else { m1 with dev := d1.raise (432 + 16 * p) 0 }
      if !g.inRange (rd l 4 2) then (.error 3, m2)
      else if !m2.dev.takesWork (8 + p) ∨ c.param ≠ [g.pageBytes, g.pages, g.blocks, g.planes] then (.error 2, m2)
      else if !c.supported then (.error 3, m2)
      else if 2 ^ 45 < g.dies * g.blocks * g.pages * g.pageBytes then (.error 5, m2)
      else if c.trainFails then (.error 4, m2)
      else (.ok g, m2)

/-- A refused mount or format: MAG_PWR_EN low, MOUNT_ERR shown, and the completion with it in RESULT (R290, R454). -/
def Mach.refuseMount (m : Mach) (c : Cmd) (p err status : Nat) : Mach :=
  let d := m.dev.magOff p
  Mach.complete { m with dev := d.onMag p (fun q => { q with mountErr := err }) } c status err

/-- Status of a refusal with a MOUNT_ERR: removal is told apart (R290). -/
def mountStatus (err : Nat) : Nat := if err = 6 then Status.magRemoved else Status.magNotMounted

/-! ### Headers and tables (R343 to R351) -/

/-- The marker of a page of the carrier at port `p`. -/
def Mach.markerAt (m : Mach) (p ppa : Nat) : Option Marker := parseMarker (slice (m.page p ppa) 0 32)

/-- Word lines of a header block up to the first marker that fails (R347). -/
def Mach.headerLines (m : Mach) (p die blk k : Nat) : Nat → Nat → List (List Byte)
  | _, 0 => []
  | w, n + 1 =>
    match m.markerAt p (ppaOf die blk (k * w)) with
    | none => []
    | some _ =>
      let page := m.page p (ppaOf die blk (k * w))
      let u := slice (unitAt page (ppaOf die blk (k * w)) 0) 0 4096
      (if cwGood page 0 then [u] else []) ++ m.headerLines p die blk k (w + 1) n

/-- Every header of the four copies whose HEADER_CRC passes (R347). -/
def Mach.headersOf (m : Mach) (p : Nat) (g : Geo) : List (List Byte) :=
  (((List.range 4).map (fun c => ((List.range 4).map (fun i => m.headerLines p (4 * c) (i * g.planes) g.cell 0 (g.wordLines g.cell))).flatten)).flatten).filter
    headerGood

/-- The page of a group whose codeword 0 is at an LUA, by its marker: the newest of its kind (R298). -/
def Mach.pageOfLua (m : Mach) (p tag lua : Nat) : Option Nat :=
  match m.carrierAt p with
  | none => none
  | some c =>
    let hits := c.pages.filter (fun e => match parseMarker (slice e.2 0 32) with
      | some k => decide (e.1 / 2 ^ 25 / 16 = lua / 2 ^ 35) && decide (k.lua = lua % 2 ^ 32) && decide (k.tag = tag) && decide (k.kind ≠ 2) &&
          decide (k.ppa = e.1)
      | none => false)
    (argMax (fun e : Nat × List Byte => (parseMarker (slice e.2 0 32)).elim 0 Marker.seq) hits).map (fun e => e.1)

/-- The unit at an LUA, found by markers. -/
def Mach.seekUnit (m : Mach) (p tag lua : Nat) : Option (List Byte) :=
  match m.pageOfLua p tag (lua - lua % 4) with
  | none => none
  | some ppa =>
    let page := m.page p ppa
    if cwGood page (lua % 4) then some (slice (unitAt page ppa (lua % 4)) 0 4096) else none

/-- `n` units at consecutive positions from an LUA on (R345). -/
def Mach.seekUnits (m : Mach) (p tag : Nat) : Nat → Nat → Option (List (List Byte))
  | _, 0 => some []
  | lua, n + 1 =>
    match m.seekUnit p tag lua with
    | none => none
    | some u =>
      let next := if lua % 4 ≠ 3 ∨ (m.pageOfLua p tag (lua + 1)).isSome then lua + 1 else 1024 * (lua / 1024 + 1)
      match m.seekUnits p tag next n with
      | some r => some (u :: r)
      | none => none

/-- Entries of a table of a header: none where its CRC or its table header fails (R345, R347). -/
def Mach.tableOf (m : Mach) (p : Nat) (hdr : List Byte) (i size : Nat) : Option (List (List Byte)) :=
  let ptr := headerPtr hdr i
  match m.seekUnits p (rd hdr 8 4) ptr.lua ptr.units with
  | none => none
  | some us =>
    let b := us.flatten
    let n := rd b 4 4
    if crc32c 0 b = ptr.crc ∧ rd b 0 2 = i + 1 ∧ rd b 8 4 = size ∧ rd b 12 4 = rd hdr 16 4 ∧ 16 + n * size ≤ b.length then
      some ((List.range n).map (fun j => slice b (16 + j * size) size))
    else none

/-- The tables of a header, where a mount can use it: superblocks, bad blocks, relocation map, clips. -/
def Mach.tablesOf (m : Mach) (p : Nat) (hdr : List Byte) :
    Option (List (List Byte) × List (List Byte) × List (List Byte) × List (List Byte)) :=
  let bads := match m.tableOf p hdr 1 8 with
    | some t => some t
    | none => m.tableOf p hdr 2 8
  match m.tableOf p hdr 0 24, bads, m.tableOf p hdr 3 16, m.tableOf p hdr 4 128 with
  | some a, some b, some c, some e => some (a, b, c, e)
  | _, _, _, _ => none

/-- Whether a header's geometry is the descriptor's (R347). -/
def headerGeoOk (h : List Byte) (g : Geo) : Bool :=
  decide (rd h 64 1 = g.dies) && decide (rd h 65 1 = g.planes) && decide (rd h 66 1 = g.cell) && decide (rd h 68 2 = g.blocks) &&
  decide (rd h 70 2 = g.pages) && decide (rd h 72 4 = g.pageBytes) && decide (rd h 76 2 = g.spareBase)

/-- The header that a mount uses: of the highest GENERATION whose tables pass (R347). -/
def Mach.chooseHeader (m : Mach) (p : Nat) (g : Geo) : Option (List Byte) :=
  argMax (fun h => rd h 16 8) ((m.headersOf p g).filter (fun h => (m.tablesOf p h).isSome))

/-! ### Building the volume (R321, R348 to R358) -/

/-- Records of a log unit: `n` of `size` bytes. -/
def logRecords (u : List Byte) (size : Nat) : List (List Byte) := (List.range (rd u 7 1)).map (fun i => slice u (64 + i * size) size)

/-- Follow a clip's log chain from its newest unit, at most `k` units: the units, oldest first (R352). -/
def Mach.logChain (m : Mach) (p tag : Nat) (v : Volume) (clip : Nat) : Nat → Nat → List (List Byte)
  | _, 0 => []
  | lua, k + 1 =>
    if lua = 0xFFFFFFFFFFFFFFFF then []
    else
      match m.seekUnit p tag (v.resolve lua) with
      | none => []
      | some u => if logGood clip u then m.logChain p tag v clip (rd u 8 8) k ++ [u] else []

/-- A clip of the directory with the records and extents of its log. -/
def Mach.loadClip (m : Mach) (p tag : Nat) (v : Volume) (e : List Byte) : Clip :=
  let c := parseClip e
  let us := m.logChain p tag v c.id c.lastLog c.logUnits
  let of_ : Nat → Nat → List (List Byte) := fun ty size => ((us.filter (fun u => decide (rd u 6 1 = ty))).map (fun u => logRecords u size)).flatten
  let recs := of_ 1 64
  let exts := (of_ 2 16).map parseExtent
  let pr := of_ 3 32
  let pe : List (Nat × Extent) := ((us.filter (fun u => decide (rd u 6 1 = 4))).map (fun u => (logRecords u 16).map (fun r => (rd u 20 1, parseExtent r)))).flatten
  { c with recs := recs, recsLogged := recs.length, exts := exts, extsLogged := exts.length, proxyRecs := pr, proxyRecsLogged := pr.length,
           proxyExts := pe, proxyExtsLogged := pe.length }

/-- The volume that a header and its tables give, superblocks in table order. -/
def Mach.loadVolume (m : Mach) (p : Nat) (g : Geo) (hdr : List Byte) (older : List (List Byte))
    (ts : List (List Byte) × List (List Byte) × List (List Byte) × List (List Byte)) : Volume :=
  let (sbs, bads, reloc, clips) := ts
  let tag := rd hdr 8 4
  let n := max 1 g.sbNumbers.length
  let keyed := (List.range sbs.length).map (fun i => (sbKey (i / n) (i % n * g.planes), parseSb (sbs.getD i [])))
  let v0 : Volume := { id := rd hdr 8 8, gen := rd hdr 16 8, seq := rd hdr 24 4, mounts := rd hdr 28 4, formatStamp := slice hdr 32 16,
                       descFlags := rd hdr 67 1, proxyPct := rd hdr 78 1, bads := bads.map parseBad,
                       reloc := reloc.map (fun e => (rd e 0 8, rd e 8 8)) }
  let v1 := keyed.foldl (fun v e => v.setSb e.1 (if 4 < e.2.state then { e.2 with state := 4 } else e.2)) v0
  let blocks := (keyed.map (fun e => ((liveDies (e.1 / 8192) 0xFFFF).map (fun die =>
    (List.range g.planes).map (fun pl => (8192 * die + v1.member die (e.1 % 8192 + pl), e.2)))).flatten)).flatten
  let erases := blocks.foldl (fun t e => Tbl.set (fun _ => 0) t e.1 e.2.eraseCount) []
  let reads := blocks.foldl (fun t e => Tbl.set (fun _ => 0) t e.1 e.2.readCount) []
  let tabs : List (Nat × Nat × Nat) := (older.map (fun h =>
    let ptr := headerPtr h
    let key : Nat → Nat := fun i => (ptr i).lua / 2 ^ 22
    let main := (ptr 0).units + (ptr 1).units + (ptr 3).units + (ptr 4).units
    [(rd h 16 8, key 0, main), (rd h 16 8, key 2, (ptr 2).units)])).flatten
  let v2 : Volume := { v1 with erases := erases, reads := reads, tables := tabs }
  { v2 with clips := (clips.filter (fun e => decide (rd e 2 1 = 1 ∨ rd e 2 1 = 2))).map (fun e => m.loadClip p tag v2 e) }

/-- Dies that the volume records as failed: those missing from the LIVE_MASK of a superblock in use (R338). -/
def Volume.failedDies (v : Volume) (g : Geo) : List Nat :=
  (List.range g.dies).filter (fun die => v.sbs.any (fun e =>
    decide (e.1 / 8192 = die / 16) && decide (e.2.state = 1 ∨ e.2.state = 2) && !bit e.2.liveMask (die % 16)))

/-- The newest mirror image of the two slots: MIRROR_GEN and slot plus 1 (R358). -/
def Mach.mirrorAt (m : Mach) (p : Nat) (g : Geo) (v : Volume) : Nat × Nat :=
  [0, 1].foldl (fun best slot =>
    match m.seekUnit p (v.id % 2 ^ 32) (luaOf 0 ((4 + slot) * g.planes) 0 0) with
    | some u =>
      if slice u 0 4 = [0x48, 0x56, 0x42, 0x42] ∧ rd u 4092 4 = crc32c 0 (slice u 0 4092) ∧ best.1 < rd u 4 4 then (rd u 4 4, slot + 1) else best
    | none => best) (0, 0)

/-! ### The mount scan (R359, R360) -/

/-- A superblock that was written after the checkpoint, with the WRITE_SEQ and KIND its first page shows. -/
structure ScanSb where
  key : Nat
  seq : Nat
  kind : Nat
  deriving DecidableEq, Repr

/-- The first data page of word line `w` of a superblock. -/
def MagPort.firstPage (q : MagPort) (key mask w : Nat) : Nat :=
  let grp := key / 8192
  let b := key % 8192
  let dies := liveDies grp mask
  let par := (b + w) % max 1 dies.length
  let die := dies.getD (if par = 0 then 1 else 0) 0
  ppaOf die (q.vol.member die b) (q.geo.kOf grp b * w)

/-- The superblocks of R359, in the order in which they were first written. -/
def Mach.scanSbs (m : Mach) (p : Nat) (hdrSeq : Nat) : List ScanSb :=
  let q := m.dev.mag p
  let tag := q.vol.id % 2 ^ 32
  let all := ((List.range q.geo.groups).map (fun grp => q.geo.sbNumbers.map (fun b => sbKey grp b))).flatten
  let hits := all.filterMap (fun key =>
    let e := q.vol.sb key
    let mask := if e.state = 1 then e.liveMask else q.mask (key / 8192)
    match m.markerAt p (q.firstPage key mask 0) with
    | some k =>
      if e.state = 1 then some { key := key, seq := k.seq, kind := e.kind }
      else if e.state = 0 ∧ k.tag = tag ∧ k.seq ≠ e.firstSeq then some { key := key, seq := k.seq, kind := k.kind }
      else none
    | none => if e.state = 1 then some { key := key, seq := hdrSeq, kind := e.kind } else none)
  let rank : ScanSb → Nat := fun x => (2 ^ 32 + x.seq - hdrSeq % 2 ^ 32) % 2 ^ 32
  hits.mergeSort (fun a b => decide (rank a ≤ rank b))

/-- Whether word line `w` of a superblock is complete (R360). -/
def Mach.lineComplete (m : Mach) (p key : Nat) (e : SbEntry) (w : Nat) : Bool :=
  let q := m.dev.mag p
  let grp := key / 8192
  let b := key % 8192
  let ppas := q.linePages key e w q.geo.planes (q.geo.kOf grp b)
  let marks := ppas.map (fun a => (a, m.markerAt p a))
  let first := match marks with
    | (_, some k) :: _ => k.seq
    | _ => 0
  marks.all (fun x => match x.2 with
    | some k => decide (k.ppa = x.1) && decide (k.seq = first) && decide (k.tag = q.vol.id % 2 ^ 32) && decide (1 ≤ k.kind ∧ k.kind ≤ 6)
    | none => false)

/-- Complete word lines of a superblock from `w` on, at most `n`. -/
def Mach.linesFrom (m : Mach) (p key : Nat) (e : SbEntry) : Nat → Nat → Nat
  | w, 0 => w
  | w, n + 1 => if m.lineComplete p key e w then m.linesFrom p key e (w + 1) n else w

/-- Scan one superblock: it becomes full at its last complete word line; the WRITE_SEQ and LUA range of its new word lines. -/
def Mach.scanSb (m : Mach) (p : Nat) (x : ScanSb) : Mach × List (Nat × Nat × Nat) :=
  let q := m.dev.mag p
  let grp := x.key / 8192
  let b := x.key % 8192
  let e := q.vol.sb x.key
  let e1 : SbEntry := if e.state = 1 then e
    else { e with state := 1, kind := x.kind, liveMask := q.mask grp, firstSeq := x.seq, wlUsed := 0, liveUnits := 0, eraseCount := e.eraseCount + 1 }
  let n := m.linesFrom p x.key e1 e1.wlUsed (q.lines grp b - e1.wlUsed)
  let e2 := { e1 with state := 2, wlUsed := n }
  let seqs := (List.range (n - e1.wlUsed)).map (fun i =>
    let w := e1.wlUsed + i
    ((m.markerAt p (q.firstPage x.key e1.liveMask w)).elim 0 Marker.seq, x.key, w))
  ({ m with dev := m.dev.onVol p (fun v => v.setSb x.key e2) }, if x.kind = 1 then seqs else [])

/-! ### Rebuilding the clips that were open (R361) -/

/-- A unit found by the scan: its bytes (user and header) and LUA. -/
abbrev FoundUnit := List Byte × Nat

/-- The data units of new word lines in WRITE_SEQ order. -/
def Mach.foundUnits (m : Mach) (p : Nat) (lines : List (Nat × Nat × Nat)) : List FoundUnit :=
  let q := m.dev.mag p
  (lines.map (fun l =>
    let grp := l.2.1 / 8192
    let b := l.2.1 % 8192
    (List.range (q.perLine grp b)).filterMap (fun j =>
      let lua := luaOf grp b l.2.2 j
      match (m.readUnit p lua 1).1 with
      | some u => if unitCrcOk u ∧ rd u 4096 1 = 1 ∧ rd u 4116 4 = lua % 2 ^ 32 then some (u, lua) else none
      | none => none))).flatten

/-- A clip's extents with the units found that it did not index. -/
def Clip.addFound (c : Clip) (per : Nat → Nat → Nat) (us : List FoundUnit) : Clip :=
  let mine := us.filter (fun u => decide (rd u.1 4102 2 = c.id))
  let known : Nat → Bool := fun n => c.exts.any (fun e => decide (e.first ≤ n ∧ n < e.first + e.count))
  let exts := mine.foldl (fun l u =>
    let n := rd u.1 4097 5
    if known n then l
    else l.take c.extsLogged ++ addUnit (per (luaParts u.2).1 (luaParts u.2).2.1) (l.drop c.extsLogged) n u.2) c.exts
  { c with exts := exts, indexedUnits := sumBy (fun e => e.count) exts }

/-- Stream unit `n` of a clip on port `p`, where it lies there and passes R341. -/
def Mach.clipUnit (m : Mach) (p : Nat) (c : Clip) (n : Nat) : Option (List Byte) :=
  let q := m.dev.mag p
  match c.luaOfUnit q.perLine n with
  | none => none
  | some a =>
    match (m.readUnit p (q.vol.resolve a) 1).1 with
    | some u => if unitCrcOk u ∧ rd u 4102 2 = c.id ∧ rd u 4097 5 = n ∧ rd u 4116 4 = a % 2 ^ 32 then some u else none
    | none => none

/-- Stream unit `n` of a clip, on its port or on the mounted peer of a striped clip. -/
def Mach.streamUnit (m : Mach) (p : Nat) (c : Clip) (n : Nat) : Option (List Byte) :=
  let peer := m.dev.mag (1 - p)
  if bit c.flags 0 ∧ n / 16 % 2 ≠ b2n (bit c.flags 1) then
    if peer.mounted ∧ peer.vol.id = c.peer then
      match peer.vol.clip c.id with
      | some pc => m.clipUnit (1 - p) pc n
      | none => none
    else none
  else m.clipUnit p c n

/-- Whether a unit of a clip lies on a peer that is not mounted. -/
def Mach.unitAway (m : Mach) (p : Nat) (c : Clip) (n : Nat) : Bool :=
  let peer := m.dev.mag (1 - p)
  bit c.flags 0 && decide (n / 16 % 2 ≠ b2n (bit c.flags 1)) && !(peer.mounted && decide (peer.vol.id = c.peer))

/-- Frame starts of a clip at or past stream byte `from_`, up to unit `stop`. -/
def Mach.clipStarts (m : Mach) (p : Nat) (c : Clip) (from_ stop : Nat) : List Nat :=
  (List.range (stop + 1 - from_ / 4096)).filterMap (fun i =>
    let n := from_ / 4096 + i
    match m.streamUnit p c n with
    | some u =>
      let s := rd u 4108 2
      if s = 0xFFFF ∨ 4096 * n + s < from_ then none else some (4096 * n + s)
    | none => none)

/-- Stream bytes [a, b) of a clip; none where a unit that should be there is missing. -/
def Mach.clipBytes (m : Mach) (p : Nat) (c : Clip) (a b : Nat) : Option (List Byte) :=
  let us := (List.range ((b + 4095) / 4096 - a / 4096)).map (fun i =>
    let n := a / 4096 + i
    if m.unitAway p c n then some (zeros 4096) else (m.streamUnit p c n).map (fun u => slice u 0 4096))
  if us.any Option.isNone then none else some (slice ((us.map (fun u => u.getD [])).flatten) (a % 4096) (b - a))

/-- The trailer of a frame whose bytes are given: the one whose FRAME_BYTES ends there (R361). -/
def trailerIn (frame : Nat) (l : List Byte) : Option Trailer :=
  (List.range (l.length - 27)).findSome? (fun i =>
    if slice l i 4 = marker 4 then
      match parseTrailer frame (slice l (i + 4) 24) with
      | some t => if t.bytes_ = i + 28 then some t else none
      | none => none
    else none)

/-- What the scan makes of the bytes from one frame start to the next: the record of a recovered frame (R361 step 2). -/
def Mach.recoverAt (m : Mach) (p : Nat) (c : Clip) (a b : Nat) (away : Bool) : Option (List Byte) :=
  match m.clipBytes p c a b with
  | none => none
  | some l =>
    match parseFrameHead (l.drop 4) with
    | .error _ => none
    | .ok h =>
      let index := 2 + (if away then 4 else 0)
      match trailerIn h.frame l with
      | some t => some (frameRecord h.frame t.flags index 0 h.tileW.length t.bytes_ a (crc32c 0 (l.take t.bytes_)) t.eclipse t.fallback h.stamp)
      | none => if away then some (frameRecord h.frame 0 index 0 h.tileW.length (b - a) a (crc32c 0 l) 0 0 h.stamp) else none

/-- Records between two recovered frames: the missing numbers, with the stream bytes that failed (R354, R361 step 3). -/
def missingRecs (c : Clip) (away : Bool) (prev next offset : Nat) (lost : List (Nat × Nat)) : List (List Byte) :=
  let n := (2 ^ 32 + next - prev - 1) % 2 ^ 32
  (List.range n).map (fun i =>
    let f := (prev + 1 + i) % 2 ^ 32
    let (o, len) := if c.slot ≠ 0 then (offset - c.slot * (n - i), c.slot) else lost.getD i (offset, 0)
    frameRecord f 0 (1 + (if away then 4 else 0)) 6 c.tiles len o 0 0 0 (zeros 16))

/-- Records of the frames that the scan finds, with those between them; `lost` holds the failed byte runs since the last
recovered frame. -/
def Mach.recoverAll (m : Mach) (p : Nat) (c : Clip) (away : Bool) : Nat → List (Nat × Nat) → List (Nat × Nat) → List (List Byte)
  | _, _, [] => []
  | prev, lost, (a, b) :: r =>
    match m.recoverAt p c a b away with
    | some rec_ =>
      missingRecs c away prev (rd rec_ 0 4) a lost ++ [rec_] ++ m.recoverAll p c away (rd rec_ 0 4) [] r
    | none => m.recoverAll p c away prev (lost ++ [(a, b - a)]) r

/-- Rebuild the index of a clip that was open (R361), as closed and recovered. -/
def Mach.rebuildClip (m : Mach) (p : Nat) (us : List FoundUnit) (stamp : List Byte) (c0 : Clip) : Clip :=
  if c0.state ≠ 1 then c0
  else
    let q := m.dev.mag p
    let c := c0.addFound q.perLine us
    let m1 : Mach := { m with dev := m.dev.onVol p (fun v => v.onClip c.id (fun _ => c)) }
    let last := c.recs.getLast?.getD []
    let end_ := if c.recs.isEmpty then 0 else rd last 16 8 + rd last 12 4
    let top := (c.exts.map (fun e => e.first + e.count)).foldl max 0
    let starts := m1.clipStarts p c end_ top
    let bounds := (starts.drop 1) ++ [4096 * top]
    let away := bit c.flags 0 && !((m.dev.mag (1 - p)).mounted && decide ((m.dev.mag (1 - p)).vol.id = c.peer))
    let prev := if c.recs.isEmpty then (2 ^ 32 + c.first - 1) % 2 ^ 32 else rd last 0 4
    let recs := c.recs ++ m1.recoverAll p c away prev [] (starts.zip bounds)
    let c1 : Clip := { c with recs := recs, state := 2, closeStamp := stamp,
                              flags := c.flags ||| 4 ||| (if away then 8 else 0) }
    let full := { c1 with recsLogged := recs.length, extsLogged := c1.exts.length }
    { full.logged with recsLogged := c0.recsLogged, extsLogged := c0.extsLogged }

/-- What the scan leaves of the open clips: in memory only for a read-only mount, otherwise with their log units written (R361,
R362). -/
def Mach.recoverClips (m : Mach) (p : Nat) (us : List FoundUnit) : Mach :=
  let q := m.dev.mag p
  let stamp := m.dev.stamp
  let open_ := q.vol.clips.filter (fun c => decide (c.state = 1))
  let clips := q.vol.clips.map (m.rebuildClip p us stamp)
  let live := us.filter (fun u => q.vol.clips.any (fun c => decide (c.id = rd u.1 4102 2)))
  let v1 := live.foldl (fun v u => let e := v.sb (u.2 / 2 ^ 22); v.setSb (u.2 / 2 ^ 22) { e with liveUnits := e.liveUnits + 1 }) q.vol
  let m1 : Mach := { m with dev := m.dev.onVol p (fun _ => { v1 with clips := clips }) }
  if open_.isEmpty then m1
  else
    let m2 := if q.readOnly then m1 else open_.foldl (fun m c => m.writeLogs p c.id true) m1
    { m2 with dev := m2.dev.stamped }

/-! ### Commands -/

/-- The largest WRITE_SEQ that the pages of the volume carry after a checkpoint's (R307). -/
def Mach.newestSeq (m : Mach) (p : Nat) (tag hdrSeq : Nat) : Nat :=
  match m.carrierAt p with
  | none => hdrSeq
  | some c =>
    let ahead := c.pages.filterMap (fun e => match parseMarker (slice e.2 0 32) with
      | some k =>
        let n := (2 ^ 32 + k.seq - hdrSeq % 2 ^ 32) % 2 ^ 32
        if k.tag = tag ∧ n < 2 ^ 31 ∧ k.lua ≠ 0xFFFFFFFF then some n else none
      | none => none)
    (hdrSeq + ahead.foldl max 0) % 2 ^ 32

/-- The port of a command's TARGET that a magazine command may use. -/
def Cmd.port (c : Cmd) : Nat := c.target

/-- Step 6 of R290: choose the header, load and scan the volume; then the checkpoint and the mirror of a writable mount, and the
retention sample (R327, R346, R347, R358 to R362). -/
def Mach.mountVolume (m : Mach) (p : Nat) (g : Geo) (ro : Bool) (found : List (Nat × Nat × Nat × Nat)) : Option Mach :=
  match m.chooseHeader p g with
  | none => none
  | some hdr =>
    match m.tablesOf p hdr with
    | none => none
    | some ts =>
      if rd hdr 4 1 ≠ 1 ∨ !headerGeoOk hdr g then none
      else
        let gen := rd hdr 16 8
        let newest := (m.headersOf p g).filter (fun h => decide (gen < rd h 16 8 + 3 ∧ rd h 16 8 ≤ gen))
        let older := newest.foldl (fun l h => if l.any (fun x => decide (rd x 16 8 = rd h 16 8)) then l else l ++ [h]) ([] : List (List Byte))
        let v := m.loadVolume p g hdr older ts
        let mg := m.mirrorAt p g v
        let closed := (List.range g.groups).filter (fun grp => decide (rd hdr (176 + 8 * grp + 6) 1 = 3))
        let v1 : Volume := { v with mirrorGen := mg.1, mirrorSlot := mg.2, mounts := if ro then v.mounts else v.mounts + 1 }
        let d1 := m.dev.onMag p (fun q => { q with mounted := true, readOnly := ro, mountErr := 0, full := false, geo := g,
                                                   failedDies := v.failedDies g, closed := closed, vol := v1,
                                                   scanAt := m.dev.clk, ckptAt := m.dev.clk })
        let src := 432 + 16 * p
        let d2 := d1.onFlt (fun f =>
          let l := if (v.failedDies g).isEmpty then f.causes else insertNat (src + 3) f.causes
          { f with causes := if closed.isEmpty then l else insertNat (src + 4) l })
        let m1 : Mach := { m with dev := d2 }
        let m2 := (m1.scanSbs p (rd hdr 24 4)).foldl (fun acc x =>
          let r := acc.1.scanSb p x
          (r.1, acc.2 ++ r.2)) (m1, ([] : List (Nat × Nat × Nat)))
        let lines := m2.2.mergeSort (fun a b => decide ((2 ^ 32 + a.1 - rd hdr 24 4) % 2 ^ 32 ≤ (2 ^ 32 + b.1 - rd hdr 24 4) % 2 ^ 32))
        let seq := m2.1.newestSeq p (v.id % 2 ^ 32) (rd hdr 24 4)
        let m3 := onDev (fun d => d.onVol p (fun v => { v with seq := seq })) m2.1
        let m4 := m3.recoverClips p (m3.foundUnits p lines)
        let q := m4.dev.mag p
        let sample := (q.vol.written.map (fun e => q.linePages e.1 e.2 (q.vol.mounts % max 1 e.2.wlUsed) 1 1)).flatten
        let m5 := if ro then m4 else (m4.checkpoint p).mirrorBlackBox p
        some (m5.scanPages p found sample)

/-- MAG_MOUNT (R290, R332, R383, R454): `found` says which codewords of the retention sample needed more than step 1 of R302. -/
def execMagMount (sq cid : Nat) (found : List (Nat × Nat × Nat × Nat)) (s : State) : Host.Outcome State Fault Refusal :=
  live (runCmd sq cid 0x58 (fun c m =>
    let p := c.port
    let ro := bit (c.dw 0) 0
    let twilight := decide (m.dev.boot.state = .twilight)
    if 1 < p then m.refuse c 4
    else if twilight ∧ (!ro ∨ m.dev.boot.reason = 4) then m.complete c Status.minimalMode
    else
      let q := m.dev.mag p
      if q.mounted then
        if q.readOnly = ro then m.complete c Status.ok (q.vol.id % 2 ^ 32) else m.deny c 13 noStream
      else
        match m.magIdentify p with
        | (.error err, m1) => m1.refuseMount c p err (mountStatus err)
        | (.ok g, m1) =>
          if g.protected_ ∧ !ro then m1.refuseMount c p 0 Status.magWriteProtected
          else
            match m1.mountVolume p g ro found with
            | none => m1.refuseMount c p 7 Status.magNotMounted
            | some m2 => m2.complete c Status.ok ((m2.dev.mag p).vol.id % 2 ^ 32))) s

/-- MAG_UNMOUNT: queued work ends, the volume structures are written, and the carrier is powered off (R329, R332, R346, R454). -/
def execMagUnmount (sq cid : Nat) (s : State) : Host.Outcome State Fault Refusal :=
  live (runCmd sq cid 0x59 (fun c m =>
    let p := c.port
    let q := m.dev.mag p
    if 1 < p then m.refuse c 4
    else if !q.mounted then m.complete c Status.magNotMounted
    else if m.dev.streams.any (fun e => e.2.recordsTo p ∧ (e.2.clip.isSome ∨ e.2.active)) then m.deny c 13 noStream
    else
      let m1 := m.checkpoint p
      Mach.complete { m1 with dev := m1.dev.magOff p } c Status.ok)) s

/-- Blocks of R323 and their spares. -/
def Carrier.badTable (c : Carrier) (g : Geo) : List BadBlock :=
  let v : Volume := c.factoryBad.foldl (fun v e =>
    if e.2 < g.spareBase then v else { v with bads := putBad { die := e.1, flags := 1, block := e.2, spare := 0xFFFF } v.bads }) {}
  (c.factoryBad.foldl (fun v e => if e.2 < g.spareBase then (v.retire g e.1 e.2 1 true).1 else v) v).bads

/-- MAG_FORMAT: steps 1 to 5 of R290, the scan of R323, the system area and generation 1; the magazine stays mounted for writing
(R342, R455). -/
def execMagFormat (sq cid : Nat) (s : State) : Host.Outcome State Fault Refusal :=
  live (runCmd sq cid 0x5A (fun c m =>
    let p := c.port
    if 1 < p then m.refuse c 4
    else if c.dw 1 ≠ 0x464D5441 then m.refuse c 36
    else if 50 < c.dw 2 % 256 then m.refuse c 40
    else if (m.dev.mag p).mounted then m.deny c 13 noStream
    else if !(m.dev.mag p).present then m.complete c Status.magNotMounted
    else
      match m.magIdentify p with
      | (.error err, m1) => m1.refuseMount c p err (mountStatus err)
      | (.ok g, m1) =>
        if g.protected_ then m1.refuseMount c p 0 Status.magWriteProtected
        else
          match m1.carrierAt p with
          | none => m1.refuseMount c p 6 Status.magRemoved
          | some car =>
            let bads := car.badTable g
            let q0 : MagPort := { m1.dev.mag p with geo := g, vol := { bads := bads } }
            if [0, 1, 2, 3].any (fun i => (q0.headerBlocks i).isEmpty) then m1.refuseMount c p 0 Status.magUncorrectable
            else
              let d := m1.dev
              let lo := d.drawn
              let hi := d.afterDraw.drawn
              let d1 := d.afterDraw.afterDraw
              let id := (lo % (2 ^ 32 - 1) + 1) + 2 ^ 32 * (hi % 2 ^ 32)
              let wiped : Carrier := { car with pages := [] }
              let sys := (List.range 6).map (fun i => sbKey 0 (i * g.planes))
              let bad : Nat → Nat → Bool := fun grp b => (liveDies grp 0xFFFF).any (fun die => (List.range g.planes).any (fun pl =>
                bads.any (fun x => decide (x.die = die) && decide (x.block = b + pl) && decide (x.spare = 0xFFFF))))
              let v0 : Volume := { id := id, formatStamp := d1.stamp, descFlags := g.flags, proxyPct := c.dw 2 % 256, bads := bads }
              let v1 := sys.foldl (fun v k => v.setSb k { state := 3, kind := 3, liveMask := 0xFFFF }) v0
              let v2 := ((List.range g.groups).map (fun grp => g.sbNumbers.map (fun b => (grp, b)))).flatten.foldl (fun v e =>
                if bad e.1 e.2 ∧ !sys.contains (sbKey e.1 e.2) then v.setSb (sbKey e.1 e.2) { state := 4 } else v) v1
              let d2 := d1.stamped.onMag p (fun q => { q with mounted := true, readOnly := false, mountErr := 0, full := false, geo := g,
                                                              failedDies := [], closed := [], vol := v2, scanAt := d1.clk, ckptAt := d1.clk })
              let m2 : Mach := { m1 with dev := d2, mem := m1.mem.putCarrier wiped }
              let m3 := m2.checkpoint p
              m3.complete c Status.ok (id % 2 ^ 32))) s

/-- Relocate every block of port `p` that is due, at most `k`; how many. -/
def Mach.relocateDue (m : Mach) (p : Nat) : Nat → Nat × Mach
  | 0 => (0, m)
  | k + 1 =>
    match (m.dev.mag p).relocDue with
    | [] => (0, m)
    | (die, block, bad) :: _ =>
      let m1 := m.relocate p die block bad
      let (n, m2) := m1.relocateDue p k
      (n + 1, m2)

/-- MAG_SCAN: the sample of R327, or every written word line, in C3; blocks of R326 are relocated (R456). -/
def execMagScan (sq cid : Nat) (found : List (Nat × Nat × Nat × Nat)) (s : State) : Host.Outcome State Fault Refusal :=
  live (runCmd sq cid 0x5B (fun c m =>
    let p := c.port
    let q := m.dev.mag p
    if 1 < p then m.refuse c 4
    else if !q.mounted then m.complete c Status.magNotMounted
    else
      let ppas := if bit (c.dw 0) 0 then
          (q.vol.written.map (fun e => ((List.range e.2.wlUsed).map (fun w =>
            q.linePages e.1 e.2 w q.geo.planes (q.geo.kOf (e.1 / 8192) (e.1 % 8192)))).flatten)).flatten
        else (q.vol.written.map (fun e => q.linePages e.1 e.2 (q.vol.mounts % max 1 e.2.wlUsed) 1 1)).flatten
      let before := m.dev.stat (magStat p 0x60)
      let m1 := m.scanPages p found ppas
      let status := if before < m1.dev.stat (magStat p 0x60) then Status.magUncorrectable else Status.ok
      let n := (m1.dev.mag p).relocDue.length
      if q.readOnly then m1.complete c status n
      else
        let (k, m2) := m1.relocateDue p n
        m2.complete c status k)) s

/-- READ_UNITS: units at consecutive LUAs with their headers and status words (R458); `steps` is the step of R302 at which each
decodes, 1 where it is not given. The header of an uncorrectable unit is free. -/
def execReadUnits (sq cid : Nat) (steps : List Nat) (s : State) : Host.Outcome State Fault Refusal :=
  live (runCmd sq cid 0x61 (fun c m =>
    let p := c.dw 0 % 2
    let q := m.dev.mag p
    let n := c.dw 3
    let first := c.dw64 1
    let luas := (List.range n).map (fun i => first + i)
    let at_ : Nat → Nat := fun a => if bit (c.dw 0) 8 then q.vol.resolve a else a
    if !q.mounted then m.complete c Status.magNotMounted
    else if n = 0 ∨ 4096 < n then m.refuse c 44
    else if !(luas.all (fun a => q.vol.positionOk q.geo a)) then m.refuse c 36
    else if !m.mem.dataOk c (4128 * n) then m.refuse c 24
    else
      let reads := (List.range n).map (fun i => m.readUnit p (at_ (first + i)) (steps.getD i 1))
      let code : Nat → Nat := fun st => match st with
        | 1 => 0
        | 2 | 3 => 1
        | 4 => 2
        | _ => 3
      let unit : Nat → List Byte := fun i => match (reads.getD i (none, 5)).1 with
        | some u => u
        | none => zeros 4096 ++ leBytes 28 (Config.free (m.dev.free + i))
      let bytes := ((List.range n).map (fun i => unit i ++ leBytes 4 (code (reads.getD i (none, 5)).2))).flatten
      let d1 := (List.range n).foldl (fun d i =>
        let (ppa, _) := q.vol.ppaOfLua q.geo (at_ (first + i))
        d.codewordEnd p ppa (reads.getD i (none, 1)).2 0) { m.dev with free := m.dev.free + n }
      let status := if reads.any (fun r => r.1.isNone) then Status.magUncorrectable else Status.ok
      Mach.complete { dev := d1, mem := m.mem.dataOut c bytes } c status)) s

end Sys2Proof.Machine
end

