-- ==== Sys2Proof/Machine/Admission.lean ====
section
/-! DEFINITION. Admission (R29, R30, R49, R50, R54, R152, R153, R264 to R266, R311 to R313, R434, R605): the checks in increasing
CHECK number, demand on magazines, and what an admission reserves. -/

namespace Sys2Proof.Machine
open Sys2Proof

/-! ### Rates and sizes (R17, R152, R264) -/

/-- Bytes per second of `x` bytes per frame, rounded up. -/
def Dev.perSecond (d : Dev) (x : Nat) : Nat := ceilDiv (x * d.rate.1) (max 1 d.rate.2)

/-- MB/s of bytes per second, rounded up. -/
def toMB (x : Nat) : Nat := ceilDiv x 1000000

/-- Photosites per frame of tile `t`. -/
def Dev.tilePhotosOf (d : Dev) (c : Cap) (t : Nat) : Nat := c.tileW.getD t 0 * compsOf (d.inFmt c.input).1 * c.height

/-- Source reads that a stream makes per photosite: attempts, the temporal reference, the re-read of bound verification (R264). -/
def Dev.capReads (d : Dev) (s : Nat) (c : Cap) : Nat :=
  let mode := d.modeNow s
  1 + b2n (decide (1 < c.anchor)) + b2n (decide (mode = 1 ∨ mode = 2))

/-- C0 DRAM bytes per frame of a stream (R264). -/
def Dev.dramBytesOf (d : Dev) (s : Nat) (c : Cap) : Nat :=
  2 * d.capPhotos c * (1 + d.capReads s c) + 3 * d.mediaBytes s c

/-! ### Demand on the magazines (R267, R313, R325) -/

/-- Twice the media bytes per frame that a stream brings to port `p`: halved for a striped stream whose other magazine is
mounted. -/
def Dev.mediaTwice (d : Dev) (s : Nat) (c : Cap) (p : Nat) : Nat :=
  if !c.recordsTo p then 0
  else
    let x := d.mediaBytes s c * (16 - c.dropJ)
    if c.choice = some 2 ∧ (d.mag (1 - p)).mounted then x / 16 else 2 * x / 16

/-- C0 demand on port `p` of some streams, bytes per second. -/
def Dev.demand (d : Dev) (l : List (Nat × Cap)) (p : Nat) : Nat :=
  ceilDiv (sumBy (fun e => d.mediaTwice e.1 e.2 p) l * d.rate.1) (2 * max 1 d.rate.2)

/-- The admitted streams with a stream that asks, as it would be. -/
def Dev.withStream (d : Dev) (s : Nat) (c : Cap) : List (Nat × Cap) := (d.admitted.filter (fun e => decide (e.1 ≠ s))) ++ [(s, c)]

/-- Data bytes of a program stripe of a group (R313). -/
def MagPort.stripeBytes (q : MagPort) (grp : Nat) : Nat := 4096 * (q.dataDies grp * q.geo.planes * q.geo.kData * 4)

/-- The rate that a magazine must take: its demand, or a stripe per flush time where that is more (R313). -/
def Dev.magNeeds (d : Dev) (l : List (Nat × Cap)) (p : Nat) : Nat :=
  let q := d.mag p
  let u := ((List.range q.geo.groups).map q.stripeBytes).foldl max 0
  max (d.demand l p) (ceilDiv (1000000 * u) (max 1 (fld (d.reg 0x1C 0) 0 10)))

/-- Data bytes of the free superblocks of a magazine beyond the two of each group kept for relocation (R325). -/
def MagPort.freeForC0 (q : MagPort) : Nat :=
  sumBy (fun grp => ((q.freeSbs grp).length - 2) * q.stripeBytes grp * q.geo.wordLines q.geo.kData) q.openGroups

/-- Whether a magazine is under the threshold of R325 for some streams. -/
def Dev.magLow (d : Dev) (l : List (Nat × Cap)) (p : Nat) : Bool :=
  let q := d.mag p
  let two := ceilDiv (2 * d.demand l p * d.rate.2) (max 1 d.rate.1)
  decide (q.freeForC0 < two + sumBy q.stripeBytes q.openGroups)

/-! ### The checks (R434) -/

/-- A check that failed: NEEDED and AVAILABLE. -/
abbrev Short := Option (Nat × Nat)

/-- CHECK 1: the largest W_e against the load limit (R29, R30). -/
def Dev.checkEngines (d : Dev) (l : List (Nat × Cap)) : Short :=
  let (n, dd) := d.rate
  let load : Nat → Nat := fun e => sumBy (fun x => sumBy (fun t => if x.2.engines.getD t 24 = e then d.tilePhotosOf x.2 t else 0)
    (List.range x.2.tileW.length)) l
  let lim := min (85 * 999 * dd * 10000 / max 1 n) (999 * dd * 1000000 / max 1 n - 100000)
  let fits : Nat → Bool := fun e => decide (load e = 0) || (d.powered (e / 4) &&
    decide (100 * (1000 * load e * n) ≤ 1000000 * (999 * (85 * (2 * d.fPe e)) * dd)) &&
    decide (1000 * load e * n + 100000 * (2 * d.fPe e) * n ≤ 1000000 * (999 * (2 * d.fPe e) * dd)))
  let we : Nat → Nat := fun e => if load e = 0 then 0 else if d.powered (e / 4) then ceilDiv (1000 * load e) (2 * d.fPe e) else 2 ^ 64 - 1
  if (List.range 24).all fits then none else some (((List.range 24).map we).foldl max 0, lim)

/-- Rows and photosites per line that the windows of an input ask of the sensor (R50). -/
def Dev.inputRead (d : Dev) (l : List (Nat × Cap)) (g : Nat) : Nat × Nat :=
  let on := l.filter (fun e => decide (e.2.input = g))
  ((on.map (fun e => e.2.top + e.2.height)).foldl max 0, (on.map (fun e => (e.2.left + e.2.width) * compsOf (d.inFmt g).1)).foldl max 0)

/-- Bits per second of a sensor lane (R69). -/
def Dev.laneRate (d : Dev) : Nat := 50000000 * fld (d.reg 0x10 0x000) 8 8

/-- CHECK 2: SLVS lane time of the stream's input (R50). -/
def Dev.checkSlvs (d : Dev) (l : List (Nat × Cap)) (g : Nat) : Short :=
  let lanes := (d.inputLanes g).length
  if d.prmMode ≠ 1 ∨ lanes = 0 then none
  else
    let (h, w) := d.inputRead l g
    let bits_ := (h * (ceilDiv (w * (d.inFmt g).2) (32 * lanes) + 2) + 2) * 34
    let (n, dd) := d.rate
    if 1000 * bits_ * n ≤ 999 * dd * d.laneRate then none
    else some (ceilDiv (10 ^ 9 * bits_) (max 1 d.laneRate), 999 * dd * 1000000 / max 1 n)

/-- CHECK 3: CSI-2 port time of the stream's input (R54). -/
def Dev.checkCsi (d : Dev) (l : List (Nat × Cap)) (g : Nat) : Short :=
  let lanes := (d.inputLanes g).length
  if d.prmMode ≠ 2 ∨ lanes = 0 then none
  else
    let (h, w) := d.inputRead l g
    let bits_ := h * (w * (d.inFmt g).2 + 64)
    let (n, dd) := d.rate
    if 100000 * bits_ * n ≤ 95 * 999 * dd * lanes * d.laneRate then none
    else some (ceilDiv (10 ^ 9 * bits_) (max 1 (lanes * d.laneRate)), 95 * 999 * dd * 10000 / max 1 n)

/-- CHECK 4: an SLVS group is aligned (R49). -/
def Dev.checkAligned (d : Dev) (g : Nat) : Short :=
  if d.prmMode ≠ 1 ∨ (d.inputLanes g).isEmpty ∨ (d.group g).aligned then none
  else some ((d.inputLanes g).length, ((d.inputLanes g).filter (fun i => (d.lane i).locked)).length)

/-- CHECK 5: the C0 DRAM demand (R264). -/
def Dev.checkDram (d : Dev) (l : List (Nat × Cap)) : Short :=
  let x := sumBy (fun e => d.dramBytesOf e.1 e.2) l
  if x * d.rate.1 ≤ 218400000000 * d.rate.2 then none else some (toMB (d.perSecond x), 218400)

/-- Bytes per frame of the busiest fabric port, each block's C0 traffic being spread evenly over its ports (R252, R265). -/
def Dev.portBytes (d : Dev) (l : List (Nat × Cap)) : Nat :=
  let onEngines : (Nat → Bool) → (Nat → Cap → Nat → Nat) → Nat := fun p f =>
    sumBy (fun x => sumBy (fun t => if p (x.2.engines.getD t 24) then f x.1 x.2 t else 0) (List.range x.2.tileW.length)) l
  let staged : Nat → Cap → Nat → Nat := fun _ c t => 2 * d.tilePhotosOf c t
  let share : Nat → Cap → Nat → Nat := fun s c t => d.mediaBytes s c * d.tilePhotosOf c t / max 1 (d.capPhotos c)
  let wr := (List.range 4).map (fun p => onEngines (fun e => decide (e / 6 = p)) staged)
  let rd_ := (List.range 24).map (fun e => onEngines (fun x => decide (x = e)) (fun s c t => staged s c t * d.capReads s c + share s c t))
  let cw := (List.range 24).map (fun e => onEngines (fun x => decide (x = e)) share)
  let dramIn := sumBy (fun x => 2 * d.capPhotos x.2 + d.mediaBytes x.1 x.2) l / 32
  let dramOut := sumBy (fun x => 2 * d.capPhotos x.2 * d.capReads x.1 x.2 + 2 * d.mediaBytes x.1 x.2) l / 32
  let mags := (List.range 2).map (fun p => sumBy (fun x => d.mediaTwice x.1 x.2 p) l / 8)
  (wr ++ rd_ ++ cw ++ [dramIn, dramOut] ++ mags).foldl max 0

/-- CHECK 6: the C0 rate of every fabric port (R265). -/
def Dev.checkPorts (d : Dev) (l : List (Nat × Cap)) : Short :=
  let x := d.portBytes l
  if x * d.rate.1 ≤ 24000000000 * d.rate.2 then none else some (toMB (d.perSecond x), 24000)

/-- CHECK 7: the pools' reserves (R266). -/
def Dev.checkPools (d : Dev) (l : List (Nat × Cap)) : Short :=
  (List.range 4).findSome? (fun p =>
    let have_ := poolCount p - d.poolNonC0 p
    if d.poolNeed l p ≤ have_ then none else some (d.poolNeed l p, have_))

/-- Ports to which a stream brings demand. -/
def Cap.ports (c : Cap) : List Nat := [0, 1].filter c.recordsTo

/-- CHECK 8: the magazines of the stream are eligible (R312). -/
def Dev.checkEligible (d : Dev) (c : Cap) : Short := if c.ports.all (fun p => (d.mag p).eligible) then none else some (0, 0)

/-- CHECK 9: media rate of every magazine of the stream (R313). -/
def Mach.checkMedia (m : Mach) (l : List (Nat × Cap)) (c : Cap) : Short :=
  c.ports.findSome? (fun p =>
    let need := m.dev.magNeeds l p
    if need ≤ m.wMag p then none else some (toMB need, m.wMag p / 1000000))

/-- CHECK 10: budgets and the reserve depth of the stream (R153). -/
def Dev.checkBudget (d : Dev) (s : Nat) (c : Cap) : Short :=
  let mode := fld (d.acbCfg s) 0 2
  let b := (d.inFmt c.input).2
  let er := d.reserveDepth s b
  let budget := (d.reg 0x15 (0x40 * s + 0x04)).toNat
  let fb := (d.reg 0x15 (0x40 * s + 0x08)).toNat
  if (mode = 1 ∨ mode = 2) ∧ budget < d.capMin s c mode then some (d.capMin s c mode, budget)
  else if fb ≠ 0 ∧ fb < d.capMin s c 2 then some (d.capMin s c 2, fb)
  else if b - 4 < er then some (er, b - 4)
  else none

/-- CHECK 12: a customer policy needs a loaded window (R250). -/
def Dev.checkWindow (d : Dev) (s : Nat) : Short := if d.policy s ∧ !d.seqr.loaded then some (0, 0) else none

/-- CHECK 13 at CAPTURE_ARM: the sensor port, and on a worker its ticks and time (R536, R605). -/
def Dev.portReady (d : Dev) (c : Cap) : Bool :=
  (match d.prmMode with
    | 1 => decide (c.input < d.prmGroups ∧ c.vc = 0) && !(d.inputLanes c.input).isEmpty
    | 2 => !(d.inputLanes c.input).isEmpty
    | _ => false) &&
  (decide (d.boot.role ≠ 2) || (d.link.enumerated && d.tick.following && !d.tick.holdover && !d.tick.mismatch && d.sid.locked))

/-- The first check that fails for a stream: CHECK, NEEDED and AVAILABLE. `arm` adds the checks that CAPTURE_ARM alone makes,
`state` says that the conditions of CHECK 13 hold (R434, R605). -/
def Mach.admission (m : Mach) (s : Nat) (c : Cap) (arm state : Bool) : Option (Nat × Nat × Nat) :=
  let d := m.dev
  let l := d.withStream s c
  let checks : List (Nat × Short) :=
    [(1, d.checkEngines l), (2, d.checkSlvs l c.input), (3, d.checkCsi l c.input), (4, if arm then d.checkAligned c.input else none),
     (5, d.checkDram l), (6, d.checkPorts l), (7, d.checkPools l), (8, d.checkEligible c), (9, m.checkMedia l c), (10, d.checkBudget s c),
     (12, if arm then d.checkWindow s else none), (13, if state then none else some (0, 0))]
  checks.findSome? (fun x => x.2.map (fun y => (x.1, y.1, y.2)))

/-- Whether the streams in force would pass their engine check at other clock levels (R439). -/
def Dev.levelsAdmit (d : Dev) (levels : List Nat) : Bool :=
  (Dev.checkEngines { d with power := { d.power with level := levels } } d.admitted).isNone

/-! ### Proxy admission (R224, R226) -/

/-- Base of the registers of output `o` in feature 0x17. -/
def outBase (o : Nat) : Nat := if o = 2 then 0x180 else 0x100 + 0x40 * o

/-- K of an output (R232). -/
def Dev.outK (d : Dev) (o : Nat) : Nat := fld (d.reg 0x17 (outBase o)) 0 7

/-- DIV of the proxy path. -/
def Dev.proxyDiv (d : Dev) : Nat := fld (d.reg 0x17 0x008) 0 7

/-- Output width and height of an output. -/
def Dev.outSize (d : Dev) (o : Nat) : Nat × Nat :=
  let w := d.reg 0x17 (outBase o + 0x10)
  (fld w 0 16, fld w 16 16)

/-- The level word of an HEVC stream: level and tier (R224). -/
def Dev.hevcLevel (d : Dev) (o : Nat) : Nat :=
  let (w, h) := d.outSize o
  let (n, dd) := d.rate
  Config.hevcLevel [fld (d.reg 0x17 (outBase o)) 30 1, w, h, n, dd * d.proxyDiv * d.outK o, fld (d.reg 0x17 (outBase o + 0x14)) 0 12,
    (d.reg 0x17 (outBase o + 0x18)).toNat]

/-- The first limit of the proxy path that a configuration passes over: NEEDED and AVAILABLE in luma samples per second (R224,
R226). -/
def Dev.checkProxy (d : Dev) (c : Cap) (outs : List Nat) : Short :=
  let (n, dd) := d.rate
  let input := d.capPhotos c * n / max 1 (dd * d.proxyDiv)
  let pics : Nat → Nat := fun o => dd * d.proxyDiv * d.outK o
  let luma : Nat → Nat := fun o => (d.outSize o).1 * (d.outSize o).2 * n / max 1 (pics o)
  let hevc := outs.filter (fun o => decide (o < 2))
  let sum := sumBy luma hevc
  if d.capPhotos c * n > 18000000000 * dd * d.proxyDiv then some (input, 18000000000)
  else if 1061683200 < sum then some (sum, 1061683200)
  else if hevc.any (fun o => decide (4096 < (d.outSize o).1 ∨ 2160 < (d.outSize o).2 ∨ 120 * pics o < n)) then some (sum, 1061683200)
  else if outs.contains 2 && decide (1920 < (d.outSize 2).1 ∨ 1080 < (d.outSize 2).2 ∨ 60 * pics 2 < n) then some (luma 2, 124416000)
  else if !(d.takesWork 6 && d.takesWork 7) then some (sum, 0)
  else if hevc.any (fun o => decide (d.hevcLevel o = 0)) then some (sum, 0)
  else none

/-! ### Registers (R333) -/

/-- FLH_DEMAND of a port. -/
def Dev.demandWord (d : Dev) (p : Nat) : Word := word (d.demand d.admitted p / 1000000)

end Sys2Proof.Machine
end

