-- ==== Sys2Proof/Machine/Fabric.lean ====
section
/-! DEFINITION. The fabric (R252 to R273): cells, resequencing, analysis mirroring, egress grants. -/

namespace Sys2Proof.Machine
open Sys2Proof

/-- Power domain of the block at a fabric port (R252, R481); none for the codec sequencer, which no domain lists. -/
def portDomain (p : Nat) : Option Nat :=
  if p < 32 then some (20 + p / 8)
  else if p < 36 then some (28 + (p - 32))
  else if p < 60 then some ((p - 36) / 4)
  else if p = 60 then none
  else if p = 61 then some 7
  else if p < 64 then some 6
  else if p < 68 then some 8
  else if p < 72 then some 9
  else if p < 74 then some (18 + (p - 72))
  else if p < 78 then some (14 + (p - 74))
  else if p < 82 then some 37
  else if p < 114 then some (24 + (p - 82) / 8)
  else if p < 118 then some (32 + (p - 114))
  else some 36

/-- Whether a cell may be sent: both ports carry a block, the class exists, C0 never leaves by an external egress (R259), and
a DRAM cell takes the port of its address (R252). -/
def FabCell.legal (c : FabCell) : Bool :=
  decide (c.input ≤ 118) && decide (c.output ≤ 118) && decide (c.cls < 4) && decide (c.bytes.length ≤ 256) &&
  !(decide (c.cls = 0) && decide (72 ≤ c.output) && decide (c.output < 82)) &&
  (decide (32 ≤ c.output) || decide (c.output = 8 * dramCtlOf c.addr + bits c.addr 8 3))

/-- Key of the counters of an input, output and class (R255). -/
def FabCell.key (c : FabCell) : Nat := (128 * c.input + c.output) * 4 + c.cls

/-! ### Analysis mirroring (R270 to R273) -/

/-- FAB_MIR_CFG of a session. -/
def Dev.mirCfg (d : Dev) (k : Nat) : Word := d.reg 0x1A (0x100 + 16 * k)

/-- Whether session `k` copies a cell seen at a port in a direction (R270). -/
def Dev.mirrors (d : Dev) (k : Nat) (c : FabCell) (port dir : Nat) : Bool :=
  let w := d.mirCfg k
  let wantDir := fld w 28 2
  bit w.toNat 31 && bit (fld w 24 4) c.cls && (decide (wantDir = 2) || decide (wantDir = dir)) &&
  (if bit w.toNat 30 then decide (fld w 0 14 = c.owner) else decide (fld w 0 14 = port))

/-- Bytes of a cell that a session's records keep (R285). -/
def truncOf (t : Nat) : Nat := if t = 0 then 256 else t

/-- Header and bytes of a record (R273). -/
def Dev.mirRecord (d : Dev) (k : Nat) (c : FabCell) (port dir : Nat) : List Byte :=
  let keep := min (truncOf (fld (d.reg 0x1A (0x104 + 16 * k)) 23 9)) c.bytes.length
  let cut := decide (keep < c.bytes.length)
  d.stamp ++ leBytes 1 k ++ leBytes 1 port ++ leBytes 1 (128 * dir + b2n cut * 64 + c.cls) ++ [0] ++ leBytes 2 (c.owner % 16384) ++
    leBytes 2 keep ++ leBytes 4 (d.fab.mirSeq.getD k 0) ++ zeros 4 ++ c.bytes.take keep

/-- Copy a cell for one session, or drop the copy (R271, R272). -/
def Dev.mirrorOne (d : Dev) (k : Nat) (c : FabCell) (port dir : Nat) : Dev :=
  let rec_ := d.mirRecord k c port dir
  let d1 := (d.onFab (fun f => { f with mirSeq := modAt f.mirSeq k (fun n => (n + 1) % 2 ^ 32) })).stamped
  let dropped : Dev → Dev := fun d => (d.bump 0x1A (0x10C + 16 * k)).count 0x7078
  if 256 ≤ (d.fab.mirror.filter (fun r => decide (r.session = k))).length then dropped d1
  else
    match d1.poolGrant 0 3 (d1.fab.mirCtx.getD k 0) port 0 with
    | (none, d2) => dropped d2
    | (some i, d2) => d2.onFab (fun f => { f with mirror := f.mirror ++ [{ session := k, buf := i, bytes := rec_ }] })

/-- Copies of a cell seen at a port in a direction, for every session. -/
def Dev.mirror (d : Dev) (c : FabCell) (port dir : Nat) : Dev :=
  (List.range 8).foldl (fun d k => if d.mirrors k c port dir then d.mirrorOne k c port dir else d) d

/-- The oldest record whose session has destination `dest` (0 and 1 Ethernet, 2 host ring). -/
def Dev.nextRecord (d : Dev) (dest : Nat) : Option MirrorRecord :=
  d.fab.mirror.find? (fun r => decide (fld (d.mirCfg r.session) 22 2 = dest))

/-- Take a record out of its queue and free its buffer. -/
def Dev.takeRecord (d : Dev) (r : MirrorRecord) : Dev :=
  (d.onFab (fun f => { f with mirror := f.mirror.erase r })).setBuf 0 r.buf none

/-- Move the oldest record for an Ethernet port into the queue of the session's flow, as one frame of EtherType 0x88B5
(R273). -/
def Dev.mirrorToEth (d : Dev) (e : Nat) : Dev :=
  match d.nextRecord e with
  | none => d
  | some r =>
    let f := fld (d.reg 0x1A (0x104 + 16 * r.session)) 0 14
    let d1 := d.takeRecord r
    match d1.ctx f with
    | none => (d1.bump 0x1A (0x10C + 16 * r.session)).count 0x7078
    | some c =>
      let frame := slice c.params 64 12 ++ [0x88, 0xB5] ++ r.bytes
      let u : EthUnit := { flow := some f, raw := true, len := frame.length + 4, at_ := d.clk, deadline := 0, rtp := 0, marker := false, payload := frame }
      match d1.ethEnqueue e c.flowQueue u with
      | (0, d2) => d2.bump 0x1A (0x108 + 16 * r.session)
      | (_, d2) => (d2.bump 0x1A (0x10C + 16 * r.session)).count 0x7078

/-- Deliver the oldest record for a host ring as one ring entry (R273, R447). -/
def Mach.mirrorToRing (m : Mach) : Mach :=
  match m.dev.nextRecord 2 with
  | none => m
  | some r =>
    let ring := fld (m.dev.reg 0x1A (0x104 + 16 * r.session)) 0 14
    match m.ringDeliver ring 3 r.bytes with
    | (true, m1) => { m1 with dev := (m1.dev.takeRecord r).bump 0x1A (0x108 + 16 * r.session) }
    | (false, _) => m

/-! ### Cells (R253 to R257) -/

/-- A cell leaves its resequencer: a DRAM write stores its bytes, a PCI Express cell joins an egress queue (its `addr` names
the queue), and an egress copy is made (R252, R258, R270, R282). -/
def Mach.cellOut (m : Mach) (c : FabCell) : Mach :=
  let d := m.dev.mirror c c.output 1
  if c.output < 32 then
    let m1 : Mach := { m with dev := d.touch c.addr }
    if c.write then
      let m2 := m1.dramWrite c.addr c.bytes
      match c.seg with
      | some r => m2.segWritten r c.bytes.length
      | none => m2
    else (m1.dramRead c.addr c.bytes.length).2
  else if 78 ≤ c.output ∧ c.output < 82 then
    { m with dev := d.onFab (fun f => { f with pcieQ := f.pcieQ ++ [(c.addr % 64, c.cls)] }) }
  else { m with dev := d }

/-- Release in sequence what waits in the resequencer of an input, output and class, at most `k` cells (R255). -/
def Mach.reseq (m : Mach) (key : Nat) : Nat → Mach
  | 0 => m
  | k + 1 =>
    let due := Tbl.get (fun _ => 0) m.dev.fab.seqOut key
    match m.dev.fab.waiting.find? (fun w => decide (w.cell.key = key) && decide (w.seq = due)) with
    | none => m
    | some w =>
      let d := m.dev.onFab (fun f => { f with waiting := f.waiting.erase w, seqOut := Tbl.set (fun _ => 0) f.seqOut key ((due + 1) % 1024) })
      (Mach.cellOut { m with dev := d } w.cell).reseq key k

/-- A cell crosses the fabric: it takes its number, and `ecc` says whether an error was corrected (1) or lost it (2)
(R255, R256). -/
def Mach.cell (m : Mach) (c : FabCell) (ecc : Nat) : Mach :=
  let key := c.key
  let d := m.dev.mirror c c.input 0
  let seq := Tbl.get (fun _ => 0) d.fab.seqIn key
  let d1 := d.onFab (fun f => { f with seqIn := Tbl.set (fun _ => 0) f.seqIn key ((seq + 1) % 1024) })
  let d2 := if ecc = 1 then d1.bump 0x1A 0x000 else d1
  if ecc = 2 then { m with dev := d2.onFab (fun f => { f with lost := f.lost ++ [{ cell := c, seq := seq }] }) }
  else
    let m1 : Mach := { m with dev := d2.onFab (fun f => { f with waiting := f.waiting ++ [{ cell := c, seq := seq }] }) }
    m1.reseq key (m1.dev.fab.waiting.length)

/-- A cell for an output: one for a quiescing domain is held, one for a domain that is off completes to its source without
delivery (R484). -/
def Mach.cellTo (m : Mach) (c : FabCell) (ecc : Nat) : Mach :=
  match portDomain c.output with
  | none => m.cell c ecc
  | some dom =>
    if !m.dev.powered dom then
      match c.seg with
      | some r => m.segLost r
      | none => m
    else if m.dev.quiescing dom then
      { m with dev := m.dev.onFab (fun f => { f with held := f.held ++ [{ domain := dom, cell := c }] }) }
    else m.cell c ecc

/-- CELL_TRANSFER: a cell from an input to an output (R253 to R256). A real-time write port sends its oldest staged bytes to
the DRAM port of their address, whatever the operands beside the input and `ecc` say (R65). -/
def execCellTransfer (input output cls owner addr : Nat) (write : Bool) (bytes : List Byte) (ecc : Nat) (s : State) :
    Host.Outcome State Fault Refusal :=
  live (fun m =>
    if 32 ≤ input ∧ input < 36 then
      match m.dev.nextCell (input - 32) with
      | some c => Mach.cellTo { m with dev := m.dev.fifoTook (input - 32) c.bytes.length } c ecc
      | none => { m with dev := m.dev.stuckSegment (input - 32) }
    else
      let c : FabCell := { input, output, cls, owner, addr, write, bytes }
      if c.legal then m.cellTo c ecc else m) s

/-- RESEQ_GAP: after 1,024 clocks a missing number is skipped and counted, a UC fault is raised, and the source repeats its
transfer (R256). -/
def execReseqGap (input output cls : Nat) (s : State) : Host.Outcome State Fault Refusal :=
  live (fun m =>
    let key := (128 * input + output) * 4 + cls
    let due := Tbl.get (fun _ => 0) m.dev.fab.seqOut key
    match m.dev.fab.lost.find? (fun w => decide (w.cell.key = key) && decide (w.seq = due)) with
    | none => m
    | some w =>
      let d := (m.dev.advance 1024).onFab (fun f => { f with lost := f.lost.erase w, repeats := f.repeats + 1, seqOut := Tbl.set (fun _ => 0) f.seqOut key ((due + 1) % 1024) })
      let d1 := (d.bump 0x1A 0x004).raise 416 output
      let m1 := Mach.reseq { m with dev := d1 } key d1.fab.waiting.length
      m1.cell w.cell 0) s

/-! ### Egress (R258) -/

/-- The first cell of class `cls` that waits on link port `p`. -/
def LinkPort.firstCell (q : LinkPort) (cls : Nat) : Option Flit := q.cellQ.find? (fun f => decide (f.cls = cls))

/-- Grant one cell on link port `p`, after the control messages: the highest class that has a cell and a credit (R258,
R520). -/
def Dev.linkGrant (d : Dev) (p : Nat) : Dev :=
  let d := d.pumpLink p 32
  let q := d.port p
  if q.state ≠ .up ∨ 128 ≤ q.replay.length ∨ !d.takesWork (14 + p) then d
  else
    match [1, 2, 3].filterMap (fun cls => if 0 < q.credit.getD cls 0 then (q.firstCell cls).map (fun f => (cls, f)) else none) with
    | [] => d
    | (cls, f) :: _ =>
      let d1 := d.onPort p (fun q => { q with cellQ := q.cellQ.erase f })
      ((d1.sendFlit p f).egrServed (2 + p) cls (cls - 1)).noteCredit p

/-- Grant one TLP on PCI Express: the highest class, then the first queue at or after its pointer; analysis records are C3
(R258, R273). -/
def Mach.pcieGrant (m : Mach) : Mach :=
  let d := m.dev
  let pick := [1, 2, 3].filterMap (fun cls =>
    (rrFind (d.egrPtr 6 cls) (fun q => d.fab.pcieQ.contains (q, cls))).map (fun q => (q, cls)))
  match pick with
  | (q, cls) :: _ => { m with dev := (d.onFab (fun f => { f with pcieQ := f.pcieQ.erase (q, cls) })).egrServed 6 cls q }
  | [] => m.mirrorToRing

/-- EGRESS_GRANT: the scheduler of an egress grants one unit (R258). -/
def execEgressGrant (egr : Nat) (s : State) : Host.Outcome State Fault Refusal :=
  live (fun m =>
    if egr < 2 then { m with dev := (m.dev.mirrorToEth egr).ethGrant egr }
    else if egr < 6 then { m with dev := m.dev.linkGrant (egr - 2) }
    else if egr = 6 then m.pcieGrant
    else m) s

end Sys2Proof.Machine
end

