-- ==== Sys2Proof/Machine/Context.lean ====
section
/-! DEFINITION. CONTEXT_CREATE and CONTEXT_DESTROY (R444 to R447, R506). -/

namespace Sys2Proof.Machine
open Sys2Proof

/-- Bytes of the parameter block of a kind (R444, R445, R506). -/
def paramLen (kind : Nat) : Nat := if kind = 0 ∨ kind = 3 then 128 else 64

/-- Contexts in use. -/
def Dev.ctxUsed (d : Dev) : Nat := d.ctxs.length

/-- The contexts of the hardware (R444). -/
def ctxTotal : Nat := 16384

/-- Contexts in use of a kind. -/
def Dev.ctxOf (d : Dev) (p : Ctx → Bool) : List (Nat × Ctx) :=
  d.ctxs.filterMap (fun e => match e.2 with
    | some c => if p c then some (e.1, c) else none
    | none => none)

/-- Take the lowest free context ID for a context. -/
def Dev.newCtx (d : Dev) (c : Ctx) : Nat × Dev :=
  let i := firstFree d.ctxs 0
  (i, d.setCtx i (some { c with stamp := d.stamp32 }))

/-! ### Capture parameter block (R56, R62, R63, R445) -/

/-- Tile widths in units of 64 photosites: given, or split from the left (R63). -/
def tileUnits (l : List Byte) : List Nat :=
  let t := rd l 2 1
  if bit (rd l 3 1) 0 then (List.range t).map (fun i => rd l (32 + i) 1)
  else
    let u := rd l 8 2 / 64
    (List.range t).map (fun i => u / t + b2n (decide (i < u % t)))

/-- Pixel engine of each tile: given, or its own number (R63). -/
def tileEngines (l : List Byte) : List Nat :=
  (List.range (rd l 2 1)).map (fun i => if bit (rd l 3 1) 1 then rd l (56 + i) 1 else i)

/-- No number stands twice. -/
def allDifferent : List Nat → Bool
  | [] => true
  | x :: r => !r.contains x && allDifferent r

/-- Whether a window fits R56 for the pattern of its input. -/
def windowOk (l : List Byte) (cfa : Nat) : Bool :=
  let w := rd l 8 2
  let h := rd l 10 2
  decide (w % 64 = 0 ∧ 64 ≤ w ∧ w ≤ 32768 ∧ 16 ≤ h ∧ h ≤ 16384) &&
  (decide (4 < cfa) || decide (rd l 4 2 % 2 = 0 ∧ rd l 6 2 % 2 = 0 ∧ h % 2 = 0))

/-- Whether a tile grid fits R62. -/
def gridOk (l : List Byte) : Bool :=
  let u := tileUnits l
  u.all (fun x => decide (1 ≤ x ∧ x ≤ 64)) && decide (64 * sumBy id u = rd l 8 2) && (tileEngines l).all (fun e => decide (e < 24)) &&
    allDifferent (tileEngines l)

/-- Whether a capture parameter block is within its values (R445). -/
def captureOk (l : List Byte) (cfa : Nat) : Bool :=
  decide (rd l 0 1 ≤ 3 ∧ rd l 1 1 ≤ 31 ∧ 1 ≤ rd l 2 1 ∧ rd l 2 1 ≤ 24 ∧ 1 ≤ rd l 12 1 ∧ rd l 12 1 ≤ 8) && windowOk l cfa && gridOk l &&
  (!(bit (rd l 3 1) 2) || decide (bits (rd l 16 4) 19 5 ≤ 12)) && decide (rd l 28 4 % 2 ^ 23 ≤ 4194496)

/-- The capture stream that a parameter block describes (R445). -/
def capOf (ctx : Nat) (l : List Byte) : Cap :=
  { ctx := ctx, input := rd l 0 1, vc := rd l 1 1, left := rd l 4 2, top := rd l 6 2, width := rd l 8 2, height := rd l 10 2,
    anchor := rd l 12 1, erGiven := bit (rd l 3 1) 2, tileW := (tileUnits l).map (· * 64), engines := tileEngines l }

/-- The lowest stream index that no capture stream has. -/
def Dev.freeStream (d : Dev) : Nat := firstFree d.caps 0

/-- Create a capture context: frame context, tile contexts, stream, and its ACB_ configuration (R444, R445). -/
def Dev.createCapture (d : Dev) (l : List Byte) : Nat × Nat × Dev :=
  let s := d.freeStream
  let (i, d1) := d.newCtx { kind := .capture, stream := s, params := l }
  let d2 := (List.range (rd l 2 1)).foldl (fun d t => (d.newCtx { kind := .tile i t, stream := s }).2) d1
  let w := d2.setCap s (some (capOf i l))
  let cfg := (word (rd l 16 4)) &&& 0xF0FFC007
  (i, s, (((w.setReg 0x15 (0x40 * s) cfg).setReg 0x15 (0x40 * s + 4) (word (rd l 20 4))).setReg 0x15 (0x40 * s + 8) (word (rd l 24 4))).setReg
    0x15 (0x40 * s + 0xC) (word (rd l 28 4 % 2 ^ 23)))

/-! ### Flow parameter block (R506) -/

/-- Whether a flow parameter block is within its values, its shaper or policer free, and a shaper's BURST at least MAX_FRAME of its
port (R503, R506). -/
def Dev.flowOk (d : Dev) (l : List Byte) : Bool :=
  let dir := rd l 0 1
  let b := rd l 4 2
  let rate := rd l 8 4
  decide (dir ≤ 1 ∧ rd l 1 1 ≤ 1 ∧ (b < 4096 ∨ b = 0xFFFF) ∧ 1 ≤ rate ∧ rate ≤ 25000000) &&
  (decide (dir = 1) || decide (rd l 2 1 ≤ 7 ∧ (rd l 20 1 = 42 ∨ rd l 20 1 = 46))) &&
  (decide (b = 0xFFFF) || !(d.flows.any (fun f => decide (f.2.flowDir = dir ∧ f.2.flowBucket = b)))) &&
  (decide (dir = 1 ∨ b = 0xFFFF) || decide (fld (d.reg 0x21 (0x100 * rd l 1 1)) 0 14 ≤ rd l 12 4))

/-- Create a flow: its bucket takes RATE, BURST and, for a shaper, RESET_FULL, and is reset (R504, R506). -/
def Dev.createFlow (d : Dev) (l : List Byte) : Nat × Dev :=
  let (i, d1) := d.newCtx { kind := .flow, params := l }
  let b := rd l 4 2
  let policer := decide (rd l 0 1 = 1)
  if b = 0xFFFF then (i, d1)
  else
    let off := bucketReg policer b
    let d2 := (d1.setReg 0x21 off (word (rd l 8 4))).setReg 0x21 (off + 4) (word (rd l 12 4))
    if policer then (i, d2.setBucket true b {})
    else (i, (d2.setReg 0x21 (off + 0xC) (word (2 ^ 30 * bits (rd l 3 1) 0 1))).resetShaper b)

/-! ### Host ring parameter block (R447) -/

/-- Whether a host ring parameter block is within its values. -/
def Dev.ringOk (d : Dev) (l : List Byte) : Bool :=
  let base := rd l 0 8
  let id := rd l 8 1
  let lg := rd l 9 1
  let slots := rd l 12 4
  let v := rd l 11 1
  decide (base % 4096 = 0 ∧ 1 ≤ id ∧ 12 ≤ lg ∧ lg ≤ 22 ∧ 2 ≤ slots ∧ slots ≤ 65536 ∧ 1 ≤ v ∧ v ≤ 62) && hostOk base (slots * 2 ^ lg) &&
    (d.cq id).isNone

/-- Create a host ring (R447). -/
def Dev.createRing (d : Dev) (l : List Byte) : Nat × Dev :=
  let (i, d1) := d.newCtx { kind := .hostRing, params := l }
  let q : Cq := { base := rd l 0 8, size := rd l 12 4, ien := bit (rd l 10 1) 0, vector := rd l 11 1, aggTime := rd l 16 1,
                  aggCount := rd l 17 1, ring := some i, slotLog2 := rd l 9 1 }
  (i, d1.setCq (rd l 8 1) (some q))

/-- The host ring of a context. -/
def Dev.ringOf (d : Dev) (id : Nat) : Option Nat :=
  match d.ctx id with
  | some c => if c.kind = .hostRing then some (rd c.params 8 1) else none
  | none => none

/-! ### Proxy context (R206, R224, R226, R444) -/

/-- Crop window of an output on a stream's frame: left, top, width and height; a zero width or height means the whole frame (R217,
R232). -/
def Dev.outCrop (d : Dev) (width height o : Nat) : Nat × Nat × Nat × Nat :=
  let xy := d.reg 0x17 (outBase o + 8)
  let wh := d.reg 0x17 (outBase o + 0xC)
  if fld wh 0 16 = 0 ∨ fld wh 16 16 = 0 then (0, 0, width, height) else (fld xy 0 16, fld xy 16 16, fld wh 0 16, fld wh 16 16)

/-- Whether an output's window lies in the frame and is scaled down by at most 16 (R217). -/
def Dev.scalerOk (d : Dev) (width height o : Nat) : Bool :=
  let (x, y, w, h) := d.outCrop width height o
  let (ow, oh) := d.outSize o
  decide (x + w ≤ width ∧ y + h ≤ height ∧ 0 < ow ∧ 0 < oh ∧ ow ≤ w ∧ oh ≤ h ∧ w ≤ 16 * ow ∧ h ≤ 16 * oh)

/-- Outputs that a proxy parameter block enables. -/
def proxyOuts (l : List Byte) : List Nat := [0, 1, 2].filter (fun o => bit (rd l 1 1) o)

/-- Create a proxy context with the contexts of its outputs; PRX_ENC_LEVEL shows the level of each HEVC stream (R224). -/
def Dev.createProxy (d : Dev) (l : List Byte) : Nat × Dev :=
  let (i, d1) := d.newCtx { kind := .proxy, stream := rd l 0 1, params := l }
  let d2 := (proxyOuts l).foldl (fun d o => (d.newCtx { kind := .output i o, stream := rd l 0 1 }).2) d1
  (i, d2.onProxy (fun p => { p with stopping := false, runFirst := none, developed := 0, frames := [], named := [],
                                    outs := List.replicate 3 {} }))

/-- The proxy context, where there is one. -/
def Dev.proxyCtx (d : Dev) : Option (Nat × Ctx) := (d.ctxOf (fun c => decide (c.kind = .proxy))).head?

/-! ### The commands -/

/-- Whether a POWER_SET is in progress, for which an admission waits (R486). -/
def Dev.powerMoves (d : Dev) : Bool := !d.power.ops.isEmpty

/-- Contexts that a create takes, its kind's contexts in use, and its kind's limit (R444). -/
def Dev.ctxNeeds (d : Dev) (kind : Nat) (l : List Byte) : Nat × Nat × Nat :=
  let n : (Ctx → Bool) → Nat := fun p => (d.ctxOf p).length
  match kind with
  | 0 => (rd l 2 1 + 1, n (fun c => decide (c.kind = .capture)), 64)
  | 1 => (1 + (proxyOuts l).length, n (fun c => decide (c.kind = .proxy)), 1)
  | 2 => (1, n (fun c => decide (c.kind = .playback)), 24)
  | 3 => (1, n (fun c => decide (c.kind = .flow)), 8192)
  | 4 => (1, n (fun c => decide (c.kind = .mirror)), 8)
  | _ => (1, n (fun c => decide (c.kind = .hostRing)), 255)

/-- Whether the parameter block of a kind is within its values. -/
def Dev.paramsOk (d : Dev) (kind : Nat) (l : List Byte) : Bool :=
  match kind with
  | 0 => captureOk l (d.inFmt (rd l 0 1)).1
  | 1 => decide (rd l 0 1 < 64) && decide (rd l 0 1 = fld (d.reg 0x17 4) 0 6) && (match d.cap (rd l 0 1) with
      | some c => (proxyOuts l).all (d.scalerOk c.width c.height)
      | none => true)
  | 2 => (d.ringOf (rd l 0 2)).isSome
  | 3 => d.flowOk l
  | 4 => decide (rd l 0 1 < 8) && !(d.ctxOf (fun c => decide (c.kind = .mirror ∧ rd c.params 0 1 = rd l 0 1))).any (fun _ => true)
  | 5 => d.ringOk l
  | _ => false

/-- Create a context of a kind: its ID, its stream index and the device after it. -/
def Dev.createKind (d : Dev) (kind : Nat) (l : List Byte) : Nat × Nat × Dev :=
  match kind with
  | 0 => d.createCapture l
  | 1 => let (i, d1) := d.createProxy l; (i, 0, d1)
  | 2 => let (i, d1) := d.newCtx { kind := .playback, params := l }; (i, 0, d1)
  | 3 => let (i, d1) := d.createFlow l; (i, 0, d1)
  | 4 =>
    let (i, d1) := d.newCtx { kind := .mirror, params := l }
    let k := rd l 0 1
    (i, 0, (d1.setBit 0x1A (0x100 + 16 * k) 31 true).onFab (fun f => { f with mirCtx := modAt f.mirCtx k (fun _ => i) }))
  | _ => let (i, d1) := d.createRing l; (i, 0, d1)

/-- CONTEXT_CREATE (R224, R226, R444 to R447, R506). -/
def execContextCreate (sq cid : Nat) (s : State) : Host.Outcome State Fault Refusal :=
  live (runCmd sq cid 0x40 (fun c m =>
    let kind := c.dw 0 % 8
    let len := paramLen kind
    if kind = 1 ∧ m.dev.powerMoves then m
    else if 5 < kind then m.refuse c 32
    else if c.dataKind = 0 ∨ c.dataLen < len then m.refuse c 24
    else if !m.mem.dataOk c len then m.refuse c 16
    else
      let l := m.mem.dataIn c len
      let d := m.dev
      let (need, used, limit) := d.ctxNeeds kind l
      if !d.paramsOk kind l then m.refuse c 16
      else if ctxTotal - d.ctxUsed < need ∨ limit < used + 1 then m.complete c Status.ctxExhausted (ctxTotal - d.ctxUsed)
      else if kind = 1 ∧ (d.cap (rd l 0 1)).isNone then m.deny c 13 noStream
      else
        let short : Short := if kind = 1 then (d.cap (rd l 0 1)).bind (fun x => d.checkProxy x (proxyOuts l)) else none
        match short with
        | some (n, a) => m.deny c 11 noStream n a
        | none =>
          let (i, x, d1) := d.createKind kind l
          let d2 := if kind = 1 then (proxyOuts l).foldl (fun d o =>
            if o < 2 then d.setReg 0x17 (outBase o + 0x1C) (word (d.hevcLevel o)) else d) d1 else d1
          Mach.complete { m with dev := d2 } c Status.ok (x * 2 ^ 16 + i))) s

/-- Whether something names host ring `r`, whose context is `id` (R446). -/
def Dev.ringNamed (d : Dev) (id r : Nat) : Bool :=
  (d.proxyCtx.isSome && d.proxy.named.any (fun e => e.2.take 1 = [r])) ||
  (d.ctxOf (fun c => decide (c.kind = .playback ∧ rd c.params 0 2 = id))).any (fun _ => true) ||
  (List.range 8).any (fun k => let w := d.mirCfg k
    bit w.toNat 31 && decide (fld w 22 2 = 2 ∧ fld (d.reg 0x1A (0x104 + 16 * k)) 0 14 = r))

/-- Whether a context may not be destroyed now: the stream index of the report (R446). -/
def Dev.ctxBusy (d : Dev) (id : Nat) (x : Ctx) : Option Nat :=
  match x.kind with
  | .capture =>
    let used := match d.cap x.stream with
      | some c => c.active || c.draining || c.clip.isSome
      | none => false
    let source := match d.proxyCtx with
      | some p => decide (p.2.stream = x.stream)
      | none => false
    if used || source then some x.stream else none
  | .hostRing => if d.ringNamed id (rd x.params 8 1) then some noStream else none
  | _ => none

/-- Queued PLAYBACK_DECODE commands of a context complete with ABORTED (R446). -/
def Dev.abortPlayback (d : Dev) (id : Nat) : Dev :=
  d.host.cmds.foldl (fun d c => if c.opcode = 0x60 ∧ c.target = id ∧ c.phase ≠ .completing then d.complete c.sq c.cid Status.aborted else d) d

/-- What a context leaves when it is freed. -/
def Dev.dropKind (d : Dev) (id : Nat) (x : Ctx) : Dev :=
  match x.kind with
  | .capture => d.setCap x.stream none
  | .proxy => d.onProxy (fun p => { p with stopping := true })
  | .playback =>
    let d1 := d.abortPlayback id
    d1.onCodec (fun c => { c with plays := c.plays.filter (fun x => decide (x.ctx ≠ id)), mir := c.mir.map (fun e => match e.play with
      | some r => if r.stream = id then { e with play := none } else e
      | none => e) })
  | .mirror =>
    let k := rd x.params 0 1
    (d.setBit 0x1A (0x100 + 16 * k) 31 false).onFab (fun f => { f with mirCtx := modAt f.mirCtx k (fun _ => 0) })
  | .hostRing => d.setCq (rd x.params 8 1) none
  | _ => d

/-- Free a context and those that belong to it. -/
def Dev.freeCtx (d : Dev) (id : Nat) : Dev :=
  { d with ctxs := d.ctxs.filter (fun e => match e.2 with
      | some x => decide (e.1 ≠ id) && (match x.kind with
        | .tile f _ => decide (f ≠ id)
        | .output f _ => decide (f ≠ id)
        | _ => true)
      | none => true) }

/-- CONTEXT_DESTROY (R446). -/
def execContextDestroy (sq cid : Nat) (s : State) : Host.Outcome State Fault Refusal :=
  live (runCmd sq cid 0x41 (fun c m =>
    match m.dev.ctx c.target with
    | none => m.refuse c 4
    | some x =>
      match x.kind with
      | .tile _ _ => m.refuse c 4
      | .output _ _ => m.refuse c 4
      | _ =>
        match m.dev.ctxBusy c.target x with
        | some st => m.deny c 13 st
        | none => Mach.complete { m with dev := (m.dev.dropKind c.target x).freeCtx c.target } c Status.ok)) s

end Sys2Proof.Machine
end

