-- ==== Sys2Proof/Machine/Capture.lean ====
section
/-! DEFINITION. Clips and capture runs (R448 to R453, R538), and the fallback that a loss of capacity asks for (R174 to R176, R267,
R268). -/

namespace Sys2Proof.Machine
open Sys2Proof

/-- Run a command on the capture stream whose frame context TARGET names; any other TARGET is refused. -/
def onCapture (c : Cmd) (m : Mach) (f : Nat → Cap → Mach) : Mach :=
  match m.dev.ctx c.target with
  | none => m.refuse c 4
  | some x =>
    match x.kind, m.dev.cap x.stream with
    | .capture, some cap => f x.stream cap
    | _, _ => m.refuse c 4

/-! ### Clips (R351, R363, R448, R452, R453) -/

/-- Ports of a magazine choice. -/
def choicePorts (ch : Nat) : List Nat := if ch = 2 then [0, 1] else [ch]

/-- Clip IDs of the directories of some ports. -/
def Dev.clipIds (d : Dev) (ports : List Nat) : List Nat := (ports.map (fun p => (d.mag p).vol.clips.map (fun c => c.id))).flatten

/-- The CLIP_ID of a new clip: the lowest unused above the highest, or the lowest unused where the highest is 65,535 (R448). -/
def newClipId (used : List Nat) : Option Nat :=
  let top := used.foldl max 0
  if top < 65535 then some (top + 1) else ((List.range 65535).map (· + 1)).find? (fun i => !used.contains i)

/-- Put a clip into the directory, in increasing CLIP_ID (R351). -/
def addClip (x : Clip) : List Clip → List Clip
  | [] => [x]
  | c :: r => if x.id < c.id then x :: c :: r else c :: addClip x r

/-- The format fields of a clip entry as a stream stands (R351). -/
def Dev.clipFormat (d : Dev) (s : Nat) (c : Cap) (x : Clip) : Clip :=
  let mode := fld (d.acbCfg s) 0 2
  let (cfa, depth) := d.inFmt c.input
  { x with mode := mode, cfa := cfa, depth := depth, tiles := c.tileW.length, width := c.width, height := c.height, rateN := d.rate.1,
           rateD := d.rate.2,
           slot := if mode = 2 then (d.reg 0x15 (0x40 * s + 0x04)).toNat else if mode = 3 then d.capWorst s c 3 else 0 }

/-- A stream with no run yet under a clip. -/
def Cap.opened (c : Cap) (clip : Nat × Nat) : Cap :=
  { c with clip := some clip, run := .idle, hadRun := false, start := none, stop := none, draining := false, stopReason := 0, moved := none,
           dropJ := 0, works := [], past := [], outq := [], taken := [], takenCnt := 0, bytes := 0, cut := [], chunks := 0, tries := 0,
           starts := [], passed := 0, sinceAnchor := 0, forceAnchor := true }

/-- Change the open clip of a stream on every mounted magazine that holds it. -/
def Dev.onOpenClip (d : Dev) (s : Nat) (f : Nat → Clip → Clip) : Dev :=
  match (d.cap s).bind (fun c => c.clip) with
  | none => d
  | some (ch, id) =>
    (choicePorts ch).foldl (fun d p => if (d.mag p).mounted then d.onVol p (fun v => v.onClip id (f p)) else d) d

/-- CLIP_OPEN (R448). -/
def execClipOpen (sq cid : Nat) (s : State) : Host.Outcome State Fault Refusal :=
  live (runCmd sq cid 0x50 (fun c m => onCapture c m (fun st cap =>
    let ch := c.dw 0 % 4
    let ports := choicePorts ch
    let d := m.dev
    if ch = 3 then m.refuse c 32
    else if cap.clip.isSome then m.deny c 13 st
    else if !(ports.all (fun p => (d.mag p).mounted)) then m.complete c Status.magNotMounted
    else if ports.any (fun p => (d.mag p).readOnly || (d.mag p).geo.protected_) then m.complete c Status.magWriteProtected
    else
      match newClipId (d.clipIds ports) with
      | none => m.complete c Status.magFull
      | some id =>
        let cap1 := cap.opened (ch, id)
        if ports.any (d.magLow (d.withStream st cap1)) then m.complete c Status.magFull
        else
          match m.admission st cap1 false true with
          | some (k, n, a) => m.deny c k st n a
          | none =>
            let entry : Nat → Clip := fun p => d.clipFormat st cap1
              { id := id, stream := st, openStamp := d.stamp, label := (List.range 4).flatMap (fun i => leBytes 4 (c.dw (2 + i))),
                flags := if ch = 2 then 1 + 2 * p else 0, peer := if ch = 2 then (d.mag (1 - p)).vol.id else 0 }
            let d1 := ports.foldl (fun d p => d.onVol p (fun v => { v with clips := addClip (entry p) v.clips })) (d.setCap st (some cap1))
            let cmt := if ch = 2 then 2 ^ 30 + 2 ^ 29 else 2 ^ 30 + 2 ^ 28 * ch
            let o := 0x6000 + 16 * st
            let d2 := (((d1.setReg 0 o 0).setReg 0 (o + 4) 0).setReg 0 (o + 8) 0).setReg 0 (o + 12) (word cmt)
            let m1 := ports.foldl (fun m p => m.checkpoint p) { m with dev := d2.stamped }
            m1.complete c Status.ok id))) s

/-- CLIP_CLOSE (R176, R452). -/
def execClipClose (sq cid : Nat) (s : State) : Host.Outcome State Fault Refusal :=
  live (runCmd sq cid 0x51 (fun c m => onCapture c m (fun st cap =>
    match cap.clip with
    | none => m.deny c 13 st
    | some (ch, id) =>
      if cap.active || cap.draining then m.deny c 13 st
      else
        let ports := (choicePorts ch).filter (fun p => (m.dev.mag p).mounted)
        let m1 := ports.foldl (fun m p => m.writeLogs p id true) m
        let stamp := m1.dev.stamp
        let d1 := (m1.dev.onOpenClip st (fun _ x => { x with state := 2, closeStamp := stamp })).stamped
        let m2 := ports.foldl (fun m p => (m.checkpoint p).mirrorBlackBox p) { m1 with dev := d1 }
        let d2 := (m2.dev.modCap st (fun c => { c with clip := none, moved := none, dropJ := 0, past := [] })).setCmt st 30 1 0
        Mach.complete { m2 with dev := d2 } c Status.ok cap.passed))) s

/-- LUAs of the units of extents on port `p`. -/
def MagPort.extentLuas (q : MagPort) (l : List Extent) : List Nat :=
  l.flatMap (fun e => (List.range e.count).map (fun i => luaAdd (q.perLine (luaParts e.lua).1 (luaParts e.lua).2.1) e.lua i))

/-- LUAs of a clip's log units from its newest on, at most `k`. -/
def Mach.logLuas (m : Mach) (p clip : Nat) : Nat → Nat → List Nat
  | _, 0 => []
  | lua, k + 1 =>
    if lua = 0xFFFFFFFFFFFFFFFF then []
    else
      match (m.readUnit p ((m.dev.mag p).vol.resolve lua) 1).1 with
      | some u => if logGood clip u then lua :: m.logLuas p clip (rd u 8 8) k else [lua]
      | none => [lua]

/-- LUAs of every unit of a clip on port `p`: stream units, proxy units and log units. -/
def Mach.clipLuas (m : Mach) (p : Nat) (x : Clip) : List Nat :=
  let q := m.dev.mag p
  q.extentLuas x.exts ++ q.extentLuas (x.proxyExts.map (fun e => e.2)) ++ m.logLuas p x.id x.lastLog x.logUnits

/-- Lower LIVE_UNITS of the superblocks that hold some LUAs (R363). -/
def Volume.unlive (v : Volume) (luas : List Nat) : Volume :=
  luas.foldl (fun v a =>
    let r := v.resolve a
    let key := sbKey (luaParts r).1 (luaParts r).2.1
    let e := v.sb key
    v.setSb key { e with liveUnits := e.liveUnits - 1 }) v

/-- Remove a clip from the directory, with the relocation entries of pages that hold units of it alone (R363). -/
def Mach.dropClip (m : Mach) (p : Nat) (x : Clip) : Mach :=
  let v := (m.dev.mag p).vol
  let mine := m.clipLuas p x
  let others := ((v.clips.filter (fun c => decide (c.id ≠ x.id))).flatMap (m.clipLuas p)).map (fun a => a - a % 4)
  let pages := (mine.map (fun a => a - a % 4)).filter (fun a => !others.contains a)
  onDev (fun d => d.onVol p (fun v =>
    let v1 := v.unlive mine
    { v1 with clips := v1.clips.filter (fun c => decide (c.id ≠ x.id)), reloc := v1.reloc.filter (fun e => !pages.contains e.1) })) m

/-- Whether a command in flight plays back or reads a clip of port `p` (R363). -/
def Mach.clipInUse (m : Mach) (p : Nat) (x : Clip) : Bool :=
  let q := m.dev.mag p
  let luas := (m.clipLuas p x).map q.vol.resolve
  m.dev.host.cmds.any (fun c => decide (c.phase ≠ .completing) &&
    ((decide (c.opcode = 0x60) && decide (c.dw 0 % 4 = 0 ∧ bits (c.dw 0) 8 1 = p ∧ c.dw 1 % 65536 = x.id)) ||
     (decide (c.opcode = 0x61) && decide (c.dw 0 % 2 = p) && luas.any (fun a =>
        decide (c.dw64 1 ≤ a ∧ a < c.dw64 1 + c.dw 3)))))

/-- CLIP_DELETE (R363, R453). -/
def execClipDelete (sq cid : Nat) (s : State) : Host.Outcome State Fault Refusal :=
  live (runCmd sq cid 0x52 (fun c m =>
    let p := c.target
    let q := m.dev.mag p
    if 1 < p then m.refuse c 4
    else if !q.mounted then m.complete c Status.magNotMounted
    else
      match q.vol.clip (c.dw 0 % 65536) with
      | none => m.refuse c 32
      | some x =>
        if q.readOnly || q.geo.protected_ then m.complete c Status.magWriteProtected
        else if x.state = 1 then m.deny c 13 noStream
        else if m.clipInUse p x then m.complete c Status.busyQuiesce
        else ((m.dropClip p x).checkpoint p).complete c Status.ok)) s

/-! ### Arming, starting and stopping (R449 to R451) -/

/-- CAPTURE_ARM (R449, R605). -/
def execCaptureArm (sq cid : Nat) (s : State) : Host.Outcome State Fault Refusal :=
  live (runCmd sq cid 0x48 (fun c m => onCapture c m (fun st cap =>
    let d := m.dev
    let state := cap.clip.isSome && !cap.hadRun && !cap.active && !cap.draining && d.portReady cap
    if d.powerMoves then m
    else
    match m.admission st cap true state with
    | some (k, n, a) => m.deny c k st n a
    | none =>
      let d1 := (d.onOpenClip st (fun _ x => d.clipFormat st cap x)).reservePools (d.withStream st cap)
      let d2 := (d1.modCap st (fun c => { c with run := .armed })).sendState
      Mach.complete { m with dev := d2 } c Status.ok))) s

/-- The ticks from now to tick `n`, as the comparison of R450 takes them. -/
def Dev.ticksTo (d : Dev) (n : Nat) : Nat := (2 ^ 32 + n - d.tick.now % 2 ^ 32) % 2 ^ 32

/-- The instant that the test of R450 takes for the tick `k` after the current one: tick 0 itself is still to be issued before it. -/
def Dev.tickInstant (d : Dev) (k : Nat) : Nat := d.tickAhead (if d.tick.begun then k else k + 1)

/-- Whether tick `n` is ahead by at least `lead` of the schedule (R450, R538). -/
def Dev.isAhead (d : Dev) (n lead : Nat) : Bool :=
  let k := d.ticksTo n
  decide (1 ≤ k ∧ k ≤ 2 ^ 31) && decide (d.sdt + lead ≤ d.tickInstant k)

/-- The first tick that is ahead. -/
def Dev.firstAhead (d : Dev) (lead : Nat) : Nat :=
  let at_ : Nat → Nat := fun i => (d.tick.now + i + 1) % 2 ^ 32
  match (List.range 16).find? (fun i => d.isAhead (at_ i) lead) with
  | some i => at_ i
  | none => at_ 16

/-- Queue number of a start that no command of this device carries (R538). -/
def noQueue : Nat := 2 ^ 32

/-- CAPTURE_START_AT_TICK (R450, R538). -/
def execCaptureStartAtTick (sq cid : Nat) (s : State) : Host.Outcome State Fault Refusal :=
  live (runCmd sq cid 0x49 (fun c m => onCapture c m (fun st cap =>
    let d := m.dev
    let late := bit (c.dw 1) 0
    let bcast := bit (c.dw 1) 1
    let lead := if bcast then unitsOfNs 2000000 else unitsOfNs 100000
    if bcast ∧ d.boot.role ≠ 1 then m.refuse c 36
    else if cap.run ≠ .armed ∨ cap.start.isSome then m.deny c 13 st
    else if !d.isAhead (c.dw 0) lead ∧ !late then m.complete c Status.invalidField d.tick.now { field := 32 }
    else
      let n := if d.isAhead (c.dw 0) lead then c.dw 0 else d.firstAhead lead
      let d1 := (d.modCap st (fun x => { x with start := some (n, sq, cid) })).keepRunning c
      if bcast then
        let tok := (d1.link.token + 1) % 65536
        let d2 := d1.onLink (fun l => { l with token := tok, bcast := l.bcast ++ [{ token := tok, n := n, sq := sq, cid := cid }] })
        { m with dev := d2.broadcast 8 (leBytes 4 n ++ leBytes 2 tok) }
      else { m with dev := d1 }))) s

/-- An armed context is disarmed: what its admission reserved is given back, and the manager is told (R449, R537). -/
def Dev.disarm (d : Dev) (s : Nat) : Dev :=
  (d.modCap s (fun c => { c with run := .idle, start := none })).reserveAgain.sendState

/-- CAPTURE_STOP_AT_TICK (R451). -/
def execCaptureStopAtTick (sq cid : Nat) (s : State) : Host.Outcome State Fault Refusal :=
  live (runCmd sq cid 0x4A (fun c m => onCapture c m (fun st cap =>
    let d := m.dev
    let n := c.dw 0
    let k := d.ticksTo n
    let stop := if 1 ≤ k ∧ k ≤ 2 ^ 31 then n else (d.tick.now + 1) % 2 ^ 32
    let wait := Mach.mk ((d.modCap st (fun x => { x with stop := some (stop, sq, cid) })).keepRunning c) m.mem
    if cap.stop.isSome then m.refuse c 0
    else
      match cap.run, cap.start with
      | .idle, _ => m.deny c 13 st
      | .armed, none => Mach.complete { m with dev := d.disarm st } c Status.ok 0xFFFFFFFF
      | .armed, some (t, q, i) =>
        let gap := (2 ^ 32 + n - t) % 2 ^ 32
        if gap = 0 ∨ 2 ^ 31 < gap then
          Mach.complete { m with dev := (d.complete q i Status.aborted).disarm st } c Status.ok 0xFFFFFFFF
        else wait
      | .running, _ => if cap.draining then m.deny c 13 st else wait))) s

/-! ### Broadcast starts (R538) -/

/-- START: a worker takes a broadcast start on its armed contexts, and answers. -/
def execStart (p : Nat) (s : State) : Host.Outcome State Fault Refusal :=
  liveDev (onMsg p 8 (fun g d =>
    if d.boot.role ≠ 2 ∨ !d.link.enumerated then d
    else
      let n := rd g.body 0 4
      let armed := d.streams.filter (fun e => decide (e.2.run = .armed) && e.2.start.isNone)
      let ok := d.isAhead n (unitsOfNs 100000)
      let d1 := if ok then armed.foldl (fun d e => d.modCap e.1 (fun c => { c with start := some (n, noQueue, 0) })) d else d
      let status := if ok ∨ armed.isEmpty then Status.ok else Status.admissionDenied
      d1.sendMsg 0 9 (slice g.body 4 2 ++ leBytes 1 (if ok then armed.length else 0) ++ leBytes 2 status))) s

/-- START_ACK: the manager keeps a worker's answer that comes by N - 100 µs. -/
def execStartAck (p : Nat) (s : State) : Host.Outcome State Fault Refusal :=
  liveDev (onMsg p 9 (fun g d =>
    if d.boot.role ≠ 1 then d
    else d.onLink (fun l => { l with bcast := l.bcast.map (fun b =>
      if b.token = rd g.body 0 2 ∧ g.at_ + unitsOfNs 100000 ≤ d.tickInstant (d.ticksTo b.n) then
        { b with acks := b.acks ++ [(g.src, rd g.body 3 2)] }
      else b) }))) s

/-- A broadcast start ends at its tick: the status of the command, LNK_BCAST, and an entry for each worker that refused or did not
answer (R538). -/
def Dev.bcastEnd (d : Dev) (b : Broadcast) : Dev :=
  let bad := (d.link.workers.filter (fun w => w.reachable && !(b.acks.contains (w.id, Status.ok)))).map (fun w => w.id)
  let d1 := d.onLink (fun l => { l with bcast := l.bcast.filter (fun x => decide (x.token ≠ b.token)), bcastFailed := bad.length,
                                        bcastFirst := bad.headD 0 })
  let d2 := bad.foldl (fun d w => d.record .main 11 0xFF w 1) d1
  d2.complete b.sq b.cid (if bad.isEmpty then Status.ok else Status.okPartial) b.n

/-! ### Loss of capacity (R174, R175, R267, R268) -/

/-- PRECEDENCE of a stream (R173). -/
def Dev.precedence (d : Dev) (s : Nat) : Nat := fld (d.acbCfg s) 28 4

/-- FALLBACK_BUDGET of a stream (R173). -/
def Dev.fallbackBudget (d : Dev) (s : Nat) : Nat := (d.reg 0x15 (0x40 * s + 0x08)).toNat

/-- Whether the demand on a magazine fits its rate. -/
def Mach.fits (m : Mach) (p : Nat) : Bool := decide (m.dev.demand m.dev.admitted p ≤ m.wMag p)

/-- Streams of a precedence level that record to port `p` and take frames still. -/
def Dev.levelStreams (d : Dev) (p level : Nat) : List Nat :=
  (d.streams.filter (fun e => e.2.active && !e.2.draining && e.2.recordsTo p && decide (d.precedence e.1 = level))).map (fun e => e.1)

/-- The number of the next tick. -/
def Dev.nextTick (d : Dev) : Nat := if d.tick.begun then (d.tick.now + 1) % 2 ^ 32 else 0

/-- A stream moves to its fallback budget from the next tick on (R175). -/
def Dev.moveStream (d : Dev) (s : Nat) : Dev :=
  match d.cap s with
  | none => d
  | some c =>
    if c.moved.isSome ∨ d.fallbackBudget s = 0 then d
    else
      let n := d.nextTick
      ((d.setCap s (some { c with moved := some n })).postEvent 0x04 1 s).record .main 8 0xFF s n (leBytes 4 (d.fallbackBudget s))

/-- Give every stream of a level the same `j` of every 16 frames to drop (R268). -/
def Dev.dropStreams (d : Dev) (l : List Nat) (j : Nat) : Dev :=
  l.foldl (fun d s => d.modCap s (fun c => { c with dropJ := max c.dropJ j })) d

/-- Apply R174 to one level of one magazine: the move, then drops in steps. -/
def Mach.easeLevel (m : Mach) (p level : Nat) : Mach :=
  let l := m.dev.levelStreams p level
  if m.fits p ∨ l.isEmpty then m
  else
    let m1 : Mach := { m with dev := l.foldl (fun d s => d.moveStream s) m.dev }
    if m1.fits p then m1
    else
      let try_ : Nat → Mach := fun j => { m1 with dev := m1.dev.dropStreams l j }
      match ((List.range 16).map (· + 1)).find? (fun j => (try_ j).fits p) with
      | some j => try_ j
      | none => try_ 16

/-- CAPACITY_RECOMPUTE: demand against rate on each mounted magazine, by rising precedence (R174, R267, R268). -/
def execCapacityRecompute (s : State) : Host.Outcome State Fault Refusal :=
  live (fun m => [0, 1].foldl (fun m p =>
    if (m.dev.mag p).mounted then (List.range 16).foldl (fun m level => m.easeLevel p level) m else m) m) s

end Sys2Proof.Machine
end

