-- ==== Sys2Proof/Machine/Tick.lean ====
section
/-! DEFINITION. The tick unit (R16 to R25, R493, R494), what happens at a tick (R26, R31 to R38, R58 to R61, R100, R133, R175, R207 to
R210, R215, R268, R269, R282, R325, R450, R451, R483), and tick messages (R531 to R535). -/

namespace Sys2Proof.Machine
open Sys2Proof

/-! ### The schedule (R18, R21, R494) -/

/-- The schedule index of the first instant at or after `t` (R494). -/
def Dev.schedFrom (d : Dev) (t : Nat) : Nat :=
  ceilDiv ((t - d.reg64 0x01 0x110) * max 1 d.tick.rateN) (2 ^ 32 * max 1 d.tick.rateD)

/-- Place the next tick on the schedule, not before `t`, with number `n` (R21, R494). -/
def Dev.placeTick (d : Dev) (t n : Nat) : Dev :=
  let j := d.schedFrom t
  d.onTick (fun k => { k with mode := .schedule, index := j, k0 := (2 ^ 32 + n - j % 2 ^ 32) % 2 ^ 32, next := d.schedAt j })

/-- A write of the tick source, rate or origin takes effect (R494). -/
def Dev.retime (d : Dev) (newSource : Bool) : Dev :=
  let w := d.reg 0x01 0x104
  let d1 := d.onTick (fun k => { k with rateN := fld w 16 16, rateD := fld w 0 16 })
  if !d1.tick.running then d1
  else if !d1.tick.begun then d1.placeTick d1.sdt 0
  else if d1.tickSource = 1 then
    d1.onTick (fun k =>
      if newSource then
        { k with mode := .firstEdge, holdover := false, count := 0, countedAt := 0, next := k.prev + k.period }
      else { k with holdBase := k.prev, holdK := 1, next := k.prev + k.period })
  else
    let d2 := d1.onTick (fun k => { k with holdover := false, count := 0, countedAt := 0 })
    d2.placeTick (max d2.sdt (d2.tick.prev + d2.tick.permille 999)) ((d2.tick.now + 1) % 2 ^ 32)

/-- TICK_UNIT_START: firmware starts the stopped unit at 24 frames per second, before READY (R21). -/
def execTickUnitStart (s : State) : Host.Outcome State Fault Refusal :=
  liveDev (fun d => onlyIf (decide (d.boot.state = .fwStart) && !d.tick.running) (fun d =>
    let d1 := ((d.setReg 0x01 0x100 (if d.boot.role = 2 then 3 else 0)).setReg 0x01 0x104 0x00180001).onTick (fun _ =>
      { running := true, rateN := 24, rateD := 1, prev := d.sdt, lastClk := d.clk })
    (d1.onSid (fun t => { t with unlockedSeen := !t.locked })).placeTick d.sdt 0) d) s

/-! ### Snapshots (R31 to R36) -/

/-- Power domain of the snapshot record at an offset; none for a record that is always latched (R35, R36). -/
def statDomain (off : Nat) : Option Nat :=
  if 0x7100 ≤ off ∧ off < 0x7700 then some ((off - 0x7100) / 64 / 4)
  else if 0x8900 ≤ off ∧ off < 0x8A00 then some (8 + (off - 0x8900) / 128)
  else if 0x8A00 ≤ off ∧ off < 0x8C00 then some (18 + (off - 0x8A00) / 256)
  else if 0x8C00 ≤ off ∧ off < 0x8E00 then some (14 + (off - 0x8C00) / 128)
  else none

/-- SNP_VALID: tiles, magazine ports, Ethernet ports and link ports whose domain is on. -/
def Dev.snpValid (d : Dev) : Nat :=
  flagsAt 0 ((List.range 24).map (fun t => d.powered (t / 4)) ++ [8, 9, 18, 19, 14, 15, 16, 17].map d.powered)

/-- A signed number as 64 bits. -/
def twos64 (x : Int) : Nat := (x % (2 ^ 64 : Int)).toNat

/-- Age in ns of the head frame of a queue. -/
def Dev.headAge (d : Dev) (e q : Nat) : Nat :=
  match (d.queue e q).units with
  | u :: _ => min (d.clk - u.at_) 0xFFFFFFFF
  | [] => 0

/-- The level quantities as they are latched now, each with its snapshot offset (R33, R285, R335, R509, R544). -/
def Dev.levelStats (d : Dev) : List (Nat × Nat) :=
  (List.range 4).flatMap (fun p => [(poolStat p 0x00, (d.poolAt p).alloc.length),
    (poolStat p 0x08, max (d.stat (poolStat p 0x08)) (d.poolAt p).alloc.length)]) ++
  (List.range 2).flatMap (fun p => [(magStat p 0x70, (d.mag p).inFlight), (magStat p 0x78, max (d.mag p).peak (d.mag p).inFlight)]) ++
  (List.range 2).flatMap (fun e => (List.range 8).flatMap (fun q =>
    let depth := (d.queue e q).depth
    let before := (Tbl.get (fun _ => 0) d.snap (ethStat e q 0x18)).toNat
    [(ethStat e q 0x10, depth % 2 ^ 32 + 2 ^ 32 * (max (d.stat (ethStat e q 0x10)) depth)),
     (ethStat e q 0x18, d.headAge e q + 2 ^ 32 * max before (d.headAge e q))])) ++
  (List.range 4).flatMap (fun p =>
    let up := decide (d.boot.role = 2 ∧ p = 0)
    [(linkStat p 0x60, if up then twos64 d.link.offset else 0), (linkStat p 0x68, if up then max d.link.offsetMax d.link.offset.natAbs else 0),
     (linkStat p 0x70, (d.port p).replay.length), (linkStat p 0x78, max (d.stat (linkStat p 0x78)) (d.port p).replay.length)])

/-- Put a 64-bit counter into a snapshot. -/
def snapPut (t : Tbl Word) (e : Nat × Nat) : Tbl Word :=
  Tbl.set (fun _ => 0) (Tbl.set (fun _ => 0) t e.1 (lo32 e.2)) (e.1 + 4) (hi32 e.2)

/-- Time that has been waited for credit so far in this interval is counted in it (R544). -/
def Dev.creditTime (d : Dev) : Dev :=
  (List.range 4).foldl (fun d p =>
    let c := (d.port p).creditAt
    if c = 0 then d else (d.count (linkStat p 0x58) (d.clk + 1 - c)).onPort p (fun q => { q with creditAt := d.clk + 1 })) d

/-- The maxima of the new interval start from the present levels (R33). -/
def Dev.restartStats (d : Dev) : Dev :=
  let d1 := { d with stats := [] }
  let d2 := (List.range 4).foldl (fun d p => d.countMax (poolStat p 0x08) (d.poolAt p).alloc.length) d1
  let d3 := (List.range 2).foldl (fun d e => (List.range 8).foldl (fun d q => d.countMax (ethStat e q 0x10) (d.queue e q).depth) d) d2
  let d4 := (List.range 4).foldl (fun d p => d.countMax (linkStat p 0x78) (d.port p).replay.length) d3
  { d4 with mags := d4.mags.map (fun q => { q with peakShown := max q.peak q.inFlight, peak := q.inFlight }),
            link := { d4.link with offsetMax := d4.link.offset.natAbs } }

/-- Latch every statistic into the hidden copy and switch to it (R31 to R36). `n` and `t` are the tick that closes the interval. -/
def Dev.latch (d : Dev) (n t : Nat) (sub late : Bool) : Dev :=
  let d0 := d.creditTime
  let levels := d0.levelStats
  let counters := d0.stats.filter (fun e => !(levels.any (fun l => decide (l.1 = e.1))))
  let lit := (counters ++ levels).filter (fun e => match statDomain e.1 with
    | some k => d0.powered k
    | none => true)
  let status := flagsAt 3 [sub, late, d0.sid.unlockedSeen] + d0.tickSource
  let seq := (Tbl.get (fun _ => 0) d0.snap 0x7000) + 1
  let words : List (Nat × Word) := [(0x7000, seq), (0x7004, word n), (0x7008, lo32 t), (0x700C, hi32 t),
    (0x7010, word (nsOfUnits (t - d0.tick.prev))), (0x7014, word status), (0x7018, word d0.snpValid)]
  let hidden := words.foldl (fun x e => Tbl.set (fun _ => 0) x e.1 e.2) (lit.foldl snapPut [])
  Dev.restartStats { d0 with snap := hidden, snapHidden := d0.snap, sid := { d0.sid with unlockedSeen := !d0.sid.locked } }

/-! ### Closing a frame (R58 to R61, R269) -/

/-- Inputs and channels of the running streams. -/
def Dev.usedInputs (d : Dev) : List (Nat × Nat) :=
  ((d.streams.filter (fun e => decide (e.2.run = .running))).map (fun e => (e.2.input, e.2.vc))).eraseDups

/-- Rows of a frame that have not arrived (R60). -/
def Work.missing (w : Work) : List Nat := (List.range w.height).filter (fun y => decide (w.row 0 y = .absent))

/-- Close the frame of a stream: fill what is missing, or drop a frame without SOF or one that loses its turn to capacity. -/
def Mach.closeFrame (m : Mach) (s n : Nat) : Mach :=
  match m.dev.work s n, m.dev.cap s with
  | some w, some c =>
    if w.closed then m
    else
      let miss := if w.sof then w.missing else []
      let m1 := miss.foldl (fun m y => m.badLine s n y w.tiles.length) m
      let d1 := match miss with
        | y :: _ => m1.dev.prmEvent 5 c.input y miss.length
        | [] => m1.dev
      let lost := !w.sof && !w.gone
      let d2 := d1.modWork s n (fun w => { w with closed := true, skip := w.skip || lost, gone := w.gone || lost })
      let d3 := if w.capacity || lost then
          (d2.reportDrop s n (if w.capacity then 4 else 1)).modCap s (fun c =>
            (c.putOut (m.dev.droppedOut s w (if w.capacity then 4 else 1))).putPast { frame := n, coded := false })
        else d2
      { m1 with dev := d3.sweep s }
  | _, _ => m

/-- Close the capture window of frame `n` of every stream (R26, R60, R61). -/
def Mach.closeWindow (m : Mach) (n : Nat) : Mach :=
  let dark := m.dev.usedInputs.filter (fun i => !(m.dev.source i.1 i.2).sof)
  let d1 := dark.foldl (fun d i => d.prmEvent 12 i.1 0) m.dev
  let m1 := d1.streams.foldl (fun m e => m.closeFrame e.1 n) { m with dev := d1 }
  { m1 with dev := m1.dev.onPrism (fun p => { p with sources := [] }) }

/-! ### Opening a frame (R37, R38, R62, R100, R133, R175, R207, R268) -/

/-- Whether frame `n` is one of those of every 16 that are dropped (R268). -/
def Cap.dropsFrame (c : Cap) (n : Nat) : Bool := decide ((n + 1) * c.dropJ / 16 ≠ n * c.dropJ / 16)

/-- MODE and budget with which the frames of a stream are coded now (R146, R174, R175). -/
def Dev.frameMode (d : Dev) (s : Nat) (c : Cap) : Nat × Nat :=
  let mode := fld (d.acbCfg s) 0 2
  let b := (d.reg 0x15 (0x40 * s + 0x04)).toNat
  let fb := d.fallbackBudget s
  if c.moved.isSome then (2, if mode = 2 ∧ b ≤ fb then b else fb) else (mode, if mode = 2 then b else 0)

/-- Whether frame `n` was coded, or is still to be coded, with a tile grid (R100). -/
def Cap.codedBefore (c : Cap) (n : Nat) (tileW : List Nat) : Bool :=
  match c.works.find? (fun w => decide (w.frame = n)) with
  | some w => !w.skip && decide (w.tiles.map (fun t => t.width) = tileW)
  | none => c.past.any (fun p => decide (p.frame = n) && p.coded && decide (p.tileW = tileW))

/-- What frame `n` - 2 leaves for frame `n`, unless a case of R38 applies. -/
def Cap.useful (c : Cap) (n : Nat) (anchor : Bool) : Option Past :=
  if anchor ∨ n = c.first ∨ n = (c.first + 1) % 2 ^ 32 then none
  else c.past.find? (fun p => decide (p.frame = prevFrame n 2) && p.coded && !p.uncompressed && decide (p.tileW = c.tileW))

/-- The developed-frame number of frame `n` of a stream, where it is to be developed (R207). -/
def Dev.developNo (d : Dev) (s : Nat) (c : Cap) (n : Nat) : Option Nat :=
  match d.proxyCtx with
  | some (_, x) =>
    let k := (2 ^ 32 + n - c.first) % 2 ^ 32
    if x.stream = s ∧ k % max 1 d.proxyDiv = 0 then some (k / max 1 d.proxyDiv) else none
  | none => none

/-- Whether output `o` runs: its context and its EN bit. -/
def Dev.outOn (d : Dev) (o : Nat) : Bool :=
  bit (d.reg 0x17 (outBase o)).toNat 31 && (match d.proxyCtx with
    | some (_, x) => (proxyOuts x.params).contains o
    | none => false)

/-- Empty bands of a tile: rows absent, in mode 3 waiting for the eclipse path (R114). -/
def freshBands (height mode : Nat) (hold : Bool) : List Band :=
  (List.range (ceilDiv height 32)).map (fun k =>
    let b : Band := { rows := List.replicate (min 32 (height - 32 * k)) .absent, hold := hold }
    if mode = 3 then { b with phase := .eclipseWait, cause := 6 } else b)

/-- Open frame `n` of a running stream at sidereal instant `t`. -/
def Dev.openFrame (d : Dev) (n t s : Nat) (c : Cap) : Dev :=
  let (cfa, depth) := d.inFmt c.input
  let (mode, budget) := d.frameMode s c
  let no := d.developNo s c n
  let cut := c.dropsFrame n
  let anchor := decide (c.anchor ≤ c.sinceAnchor + 1) || c.forceAnchor || !c.codedBefore (prevFrame n 1) c.tileW
  let dist := if anchor then 0 else c.sinceAnchor + 1
  let old := c.useful n anchor
  let bands := freshBands c.height mode no.isSome
  let vec : Nat → Int × Int := fun i => match old with
    | some p => let v := p.vectors.getD i (0, 0, 0); globalVec v.1 v.2.1 v.2.2
    | none => (0, 0)
  let w : Work :=
    { frame := n, stamp := d.stamp, at_ := t, cfa := cfa, depth := depth, mode := mode, budget := budget, temporal := !anchor,
      distance := dist, skip := cut, gone := cut, capacity := cut, tables := if mode = 3 then some defaultTables else none,
      r38 := old.isNone, divided := decide (mode = 3), moved := c.moved.isSome,
      tiles := (List.range c.tileW.length).map (fun i => { engine := c.engines.getD i 0, width := c.tileW.getD i 0, bands := bands }),
      globals := (List.range c.tileW.length).map vec, develop := no.isSome }
  let d1 := d.stamped.setCap s (some { c with works := c.works ++ [w], sinceAnchor := dist, forceAnchor := cut })
  match no with
  | none => d1
  | some i =>
    let outs := [0, 1, 2].filter (fun o => d.outOn o && decide (i % max 1 (d.outK o) = 0))
    let f : DevFrame := { stream := s, frame := n, stamp := w.stamp, at_ := t, index := i, settings := d.proxy.latched, cfa := cfa,
                          depth := depth, height := c.height, tileW := c.tileW, outs := outs }
    d1.onProxy (fun p => { p with frames := p.frames ++ [f], developed := i + 1 })

/-! ### The proxy path at a tick (R208 to R210, R215, R446) -/

/-- Developer settings are latched, a loaded LUT becomes active, and outputs of a destroyed context stop. -/
def Dev.latchProxy (d : Dev) : Dev :=
  let bank := if d.proxy.lutPending then 1 - d.proxy.bank else d.proxy.bank
  let r := d.reg 0x17
  d.onProxy (fun p =>
    { p with bank := bank, lutPending := false, frames := if p.stopping then [] else p.frames, stopping := false,
             latched := { black := r 0x0C, wbRg := r 0x10, wbB := r 0x14, mtx := (List.range 5).map (fun j => r (0x20 + 4 * j)), bank := bank } })

/-- Skip a developed frame for every output (R209). -/
def Dev.skipDeveloped (d : Dev) (s n : Nat) : Dev :=
  let hit : DevFrame → Bool := fun f => decide (f.stream = s ∧ f.frame = n) && !f.whole && !f.skipped
  if d.proxy.frames.any hit then
    (d.onProxy (fun p => { p with frames := p.frames.map (fun f => if hit f then { f with skipped := true } else f) })).bump 0x17 0x0F0
  else d

/-- Developer holds of frame `n` end, and a frame not read whole is skipped; so is a frame of a window without SOF. -/
def Dev.endHolds (d : Dev) (n : Nat) : Dev :=
  let noHold : Work → Work := fun w =>
    { w with tiles := w.tiles.map (fun t => { t with bands := t.bands.map (fun b => { b with hold := false }) }) }
  d.streams.foldl (fun d e =>
    match d.work e.1 n with
    | some _ => (d.skipDeveloped e.1 n).modWork e.1 n noHold
    | none => d.skipDeveloped e.1 n) d

/-- A frame that its window left without SOF, or that was dropped before it closed, is skipped for the outputs when it is not
staged (R61, R209). -/
def Dev.skipUnstaged (d : Dev) (n : Nat) : Dev :=
  d.streams.foldl (fun d e =>
    match d.work e.1 n with
    | some w => if w.sof then d
      else (d.skipDeveloped e.1 n).modWork e.1 n (fun w =>
        { w with tiles := w.tiles.map (fun t => { t with bands := t.bands.map (fun b => { b with hold := false }) }) })
    | none => d) d

/-! ### Captures at a tick (R325, R450, R451) -/

/-- Captures on a magazine under its threshold stop (R325). -/
def Dev.stopFull (d : Dev) : Dev :=
  [0, 1].foldl (fun d p =>
    let l := d.streams.filter (fun e => e.2.recordsTo p && (e.2.active && !e.2.draining))
    if (d.mag p).mounted && !l.isEmpty && d.magLow d.admitted p then
      ((d.stopOn p 3 Status.magFull false).onMag p (fun q => { q with full := true })).postEvent 0x03 4 p
    else d) d

/-- Stops due at tick `n` (R451). -/
def Dev.stopsAt (d : Dev) (n : Nat) : Dev :=
  d.streams.foldl (fun d e =>
    match e.2.stop with
    | none => d
    | some (t, sq, cid) =>
      if t ≠ n ∨ e.2.draining then d
      else
        match e.2.run with
        | .running =>
          ((d.modCap e.1 (fun c => { c with draining := true, last := prevFrame n 1, stopReason := 1 })).setCmt e.1 25 3 1).postEvent 0x04 2 e.1
        | .armed =>
          if e.2.start.isSome then d
          else (((d.modCap e.1 (fun c => { c with stop := none })).disarm e.1)).complete sq cid Status.ok 0xFFFFFFFF
        | .idle => d) d

/-- Starts due at tick `n` (R450, R538). -/
def Dev.startsAt (d : Dev) (n : Nat) : Dev :=
  let d1 := d.streams.foldl (fun d e =>
    match e.2.run, e.2.start with
    | .armed, some (t, sq, cid) =>
      if t ≠ n then d
      else
        let d1 := (d.modCap e.1 (fun c => { c with run := .running, hadRun := true, start := none, first := n, forceAnchor := true,
                                                   sinceAnchor := 0 })).onOpenClip e.1 (fun _ x => { x with first := n })
        let d2 := if (d1.proxyCtx.map (fun p => p.2.stream)) = some e.1 then
            d1.onProxy (fun p => { p with runFirst := some n, developed := 0, outs := List.replicate 3 {} }) else d1
        if d2.link.bcast.any (fun b => decide (b.sq = sq ∧ b.cid = cid ∧ b.n = n)) then d2 else d2.complete sq cid Status.ok n
    | _, _ => d) d
  (d1.link.bcast.filter (fun b => decide (b.n = n))).foldl (fun d b => d.bcastEnd b) d1

/-- Clock levels of codec groups that wait for the tick (R483). -/
def Dev.takeLevels (d : Dev) : Dev :=
  (d.power.ops.filter (fun o => !o.off)).foldl (fun d o =>
    (d.onPower (fun p => { p with level := modAt p.level o.domain (fun _ => o.level), ops := p.ops.erase o })).complete o.sq o.cid Status.ok) d

/-! ### Issuing a tick -/

/-- The tick unit's registers after tick `n` at `t`: the mode in which the next tick comes, and its instant. -/
def Dev.tickTaken (d : Dev) (n t : Nat) (mode : TickMode) : Dev :=
  let d1 := d.onTick (fun k => { k with begun := true, now := n, last := t, prev := t, mode := mode, lastClk := d.clk })
  match mode with
  | .schedule => d1.onTick (fun k => { k with index := k.index + 1, next := d1.schedAt (k.index + 1) })
  | .messages =>
    d1.onTick (fun k => { k with next := match k.msgs with
      | x :: _ => x.t
      | [] => t + k.period })
  | _ => d1.onTick (fun k => { k with next := t + k.period })

/-- Tick `n` is issued at sidereal instant `t`, which the clock has reached: `sub` marks a substitute tick, `late` an interval
lengthened under R24 or R535. Everything that happens at a tick happens here, in this order. -/
def Mach.issueTick (m : Mach) (n t : Nat) (sub late : Bool) (mode : TickMode) : Mach :=
  let old := m.dev.tick.now
  let was := m.dev.tick.begun
  let d1 := (m.dev.latch n t sub late)
  let d2 := (if was then d1.stopFull else d1).stopsAt n
  let m3 := if was then Mach.closeWindow { m with dev := d2 } old else { m with dev := d2 }
  let d3 := if was then m3.dev.skipUnstaged old else m3.dev
  let d4 := (d3.takeLevels.tickTaken n t mode).latchProxy.endHolds (prevFrame n 2)
  let d5 := d4.startsAt n
  let run := d5.streams.filter (fun e => decide (e.2.run = .running) && !e.2.draining)
  let d6 := run.foldl (fun d e => match d.cap e.1 with
    | some c => d.openFrame n t e.1 c
    | none => d) d5
  let d7 := (d6.streams.foldl (fun d e => d.sweep e.1) d6).pumpAll
  let d8 := (run.filter (fun e => d7.policy e.1)).foldl (fun d e =>
    d.seqPost 24 { op := 0xF6, arg := n, ref := some { stream := e.1, frame := n, tile := 0, band := 0 } }) d7
  let d9 := ((d8.onPools (fun p => { p with epochTicks := p.epochTicks + 1 })).eventOccurs 0).onTick (fun k =>
    { k with outAt := some (d8.clk + fld (d8.reg 0x01 0x108) 8 16) })
  { m3 with dev := (d9.fireInt 8).fireInt 1012 }

/-- The number of the next tick. -/
def TickUnit.nextNo (k : TickUnit) : Nat := if k.begun then (k.now + 1) % 2 ^ 32 else 0

/-- How ticks come after one of the schedule: sources 0 and 2 stay with it, source 1 waits for its first edge, and a worker runs
its own start (R21, R494). -/
def Dev.afterSchedule (d : Dev) : TickMode :=
  match d.tickSource with
  | 1 => .firstEdge
  | 3 => .holdover
  | _ => .schedule

/-- Run on own periods from instant `t` on, the next tick one period later. -/
def TickUnit.runFree (k : TickUnit) (t : Nat) : TickUnit := { k with holdBase := t, holdK := 1 }

/-- The instant of the next tick of the unit's own periods. -/
def TickUnit.freeNext (k : TickUnit) : Nat := k.holdBase + 2 ^ 32 * (k.holdK * k.rateD) / max 1 k.rateN

/-- A worker follows a tick message at its instant (R533, R535). -/
def Mach.followMsg (m : Mach) (x : TickMsg) (rest : List TickMsg) : Mach :=
  let d := m.dev.advanceToSid x.t
  let k := d.tick
  let late := k.holdover && decide (k.prev + k.period < x.t)
  let d1 := d.onTick (fun k => { k with msgs := rest, rateN := x.rateN, rateD := x.rateD })
  let m1 := Mach.issueTick { m with dev := d1 } x.n x.t false late .messages
  let d2 := m1.dev.onTick (fun k => { k with following := true, holdover := false, mismatch := false })
  { m1 with dev := if k.holdover then d2.postEvent 0x06 2 0 else d2 }

/-- TICK: the tick unit issues the tick that its schedule, or the message that it follows, places next (R18, R533). -/
def execTick (s : State) : Host.Outcome State Fault Refusal :=
  live (fun m =>
    let k := m.dev.tick
    if !k.running then m
    else if k.mode = .schedule then
      let d := m.dev.advanceToSid k.next
      let m1 := Mach.issueTick { m with dev := d } k.nextNo k.next false false d.afterSchedule
      { m1 with dev := if m1.dev.tick.mode = .holdover then m1.dev.onTick (fun x => x.runFree k.next) else m1.dev }
    else
      match k.msgs with
      | x :: r => if m.dev.tickSource = 3 then m.followMsg x r else m
      | [] => m) s

/-- A substitute tick under source 1, at `t` (R23, R24): `late` under step 5 of R24. -/
def Mach.substitute (m : Mach) (t : Nat) (late : Bool) : Mach :=
  let d := m.dev.advanceToSid t
  let entering := !d.tick.holdover
  let d1 := d.onTick (fun k =>
    if entering || late then { k.runFree t with holdover := true, count := 0, countedAt := 0 } else { k with holdK := k.holdK + 1 })
  let n := d.tick.nextNo
  let m1 := Mach.issueTick { m with dev := d1 } n t true late .holdover
  { m1 with dev := if entering then (m1.dev.raise 480 n).postEvent 0x06 0 0 else m1.dev }

/-- SUBSTITUTE_TICK (R23, R24, R494). -/
def execSubstituteTick (s : State) : Host.Outcome State Fault Refusal :=
  live (fun m =>
    let k := m.dev.tick
    if !k.running || !k.begun || decide (m.dev.tickSource ≠ 1) then m
    else
      match k.mode with
      | .edges => m.substitute (k.prev + k.permille 1001) false
      | .firstEdge => m.substitute (k.prev + 2 * k.period) false
      | .holdover => m.substitute k.freeNext false
      | .retaken => m.substitute (k.prev + 2 * k.period) true
      | .schedule => m
      | .messages => m) s

/-! ### TICK_IN (R22 to R24, R493, R494, R600) -/

/-- Whether an edge now is part of an accepted or counted one (R22). -/
def Dev.bounces (d : Dev) : Bool :=
  let near : Nat → Bool := fun a => decide (a ≠ 0 ∧ d.clk ≤ a - 1 + 100)
  near d.tick.acceptedAt || near d.tick.countedAt

/-- Where instant `t` lies against the window that begins `lo` and ends `hi` thousandths of P after the previous tick, at the 1 ns
of R600. -/
def Dev.inWindow (d : Dev) (t lo hi : Nat) : Ordering :=
  let e := nsOfUnits t
  if e < nsOfUnits (d.tick.prev + d.tick.permille lo) then .lt
  else if nsOfUnits (d.tick.prev + d.tick.permille hi) < e then .gt
  else .eq

/-- An edge is taken as a tick (R16, R22, R24). -/
def Mach.acceptEdge (m : Mach) (late : Bool) : Mach :=
  let d := m.dev.onTick (fun k => { k with acceptedAt := m.dev.clk + 1, holdover := false, count := 0, countedAt := 0 })
  Mach.issueTick { m with dev := d } d.tick.nextNo d.sdt false late .edges

/-- An edge in holdover is counted toward retaking the source (R24). -/
def Mach.countEdge (m : Mach) : Mach :=
  let d := m.dev
  let k := d.tick
  let gap := nsOfUnits (d.sdt - k.countedSid)
  let evenly := decide (k.countedAt ≠ 0 ∧ nsOfUnits (k.permille 999) ≤ gap ∧ gap ≤ nsOfUnits (k.permille 1001))
  let n := if evenly then k.count + 1 else 1
  let d1 := d.onTick (fun k => { k with count := n, countedAt := d.clk + 1, countedSid := d.sdt })
  if n < 8 then { m with dev := d1 }
  else
    let d2 := (d1.onTick (fun k => { k with mode := .retaken })).postEvent 0x06 2 0
    if d2.inWindow d2.sdt 999 2000 = .eq then Mach.acceptEdge { m with dev := d2 } true else { m with dev := d2 }

/-- TICK_IN_EDGE: an edge of the selected kind, `dt` ns after the previous command. -/
def execTickInEdge (dt : Nat) (s : State) : Host.Outcome State Fault Refusal :=
  live (fun m =>
    let d := m.dev.advance dt
    let m1 : Mach := { m with dev := d }
    let k := d.tick
    if !k.running || !k.begun || decide (d.tickSource ≠ 1) || d.bounces then m1
    else
      match k.mode with
      | .edges =>
        match d.inWindow d.sdt 999 1001 with
        | .lt => { m1 with dev := d.count 0x7070 }
        | .eq => m1.acceptEdge false
        | .gt => m1
      | .firstEdge =>
        match d.inWindow d.sdt 999 2000 with
        | .lt => { m1 with dev := d.count 0x7070 }
        | .eq => m1.acceptEdge false
        | .gt => m1
      | .holdover => m1.countEdge
      | .retaken => if d.inWindow d.sdt 999 2000 = .eq then m1.acceptEdge true else m1
      | .schedule => m1
      | .messages => m1) s

/-- TICK_OUT_FALL: TICK_OUT falls OUT_WIDTH µs after it rose (R493). -/
def execTickOutFall (s : State) : Host.Outcome State Fault Refusal :=
  liveDev (fun d => withSome d.tick.outAt (fun t d =>
    (d.advanceTo (t + 1000 * fld (d.reg 0x01 0x108) 24 8)).onTick (fun k => { k with outAt := none })) d) s

/-! ### Tick messages (R531 to R535) -/

/-- LNK_TICK_LEAD in units of 2^-32 s. -/
def Dev.tickLead (d : Dev) : Nat := unitsOfNs (1000 * fld (d.reg 0x22 0x804) 0 10)

/-- TICK_BROADCAST: the manager sends the message of the next tick, or under source 1 of the tick just issued (R531). -/
def execTickBroadcast (s : State) : Host.Outcome State Fault Refusal :=
  liveDev (fun d =>
    let k := d.tick
    let send : Nat → Nat → Dev → Dev := fun n t d =>
      if k.sent = n + 1 then d
      else (d.onTick (fun k => { k with sent := n + 1 })).broadcast 6 (leBytes 4 n ++ leBytes 8 t ++ leBytes 2 k.rateN ++ leBytes 2 k.rateD)
    if d.boot.role ≠ 1 ∨ !k.running then d
    else if k.mode = .schedule then send k.nextNo k.next (d.advanceToSid (k.next - d.tickLead))
    else if k.begun then send k.now (k.prev + d.tickLead) d
    else d) s

/-- The tick before the one that a new message is for: number, instant and rate, by the messages that wait, the last tick, or
tick 0 where it is still to come. -/
def TickUnit.before (k : TickUnit) : Nat × Nat × Nat × Nat :=
  match k.msgs.getLast? with
  | some x => (x.n, x.t, x.rateN, x.rateD)
  | none => if k.begun then (k.now, k.prev, k.rateN, k.rateD) else (0, k.next, k.rateN, k.rateD)

/-- TICK_MESSAGE: a worker takes a tick message: late, followed, of another schedule, or outside the window (R533, R535). -/
def execTickMessage (p : Nat) (s : State) : Host.Outcome State Fault Refusal :=
  liveDev (onMsg p 6 (fun g d =>
    let x : TickMsg := { n := rd g.body 0 4, t := rd g.body 4 8, rateN := rd g.body 12 2, rateD := rd g.body 14 2 }
    let k := d.tick
    if d.tickSource ≠ 3 ∨ !k.running then d
    else if x.t < g.at_ then d.bump 0x22 0x80C
    else
      let (n, t, rn, rd_) := k.before
      let per : Nat → Nat := fun c => 2 ^ 32 * (c * x.rateD) / (1000 * max 1 x.rateN)
      let same := decide (x.n = (n + 1) % 2 ^ 32 ∧ x.rateN = rn ∧ x.rateD = rd_) && (k.following || k.holdover || !k.msgs.isEmpty)
      if same then
        if t + per 999 ≤ x.t ∧ x.t ≤ t + per 2000 then
          d.onTick (fun k => { k with msgs := k.msgs ++ [x], next := if k.msgs.isEmpty then x.t else k.next })
        else d
      else if d.anyCapture then d.onTick (fun k => { k with mismatch := true })
      else
        let (t0, _) := if k.begun then (k.prev, 0) else (k.next, 0)
        if t0 + per 999 ≤ x.t then
          (d.onTick (fun k => { k with msgs := [x], next := if k.begun then x.t else k.next })).record .main 10 0xFF 0 x.n
            (leBytes 2 x.rateN ++ leBytes 2 x.rateD ++ leBytes 8 x.t)
        else d)) s

/-- WORKER_SUBSTITUTE_TICK: no message for the next tick has come by a period after the last: a worker ticks on its own; a worker
that followed enters holdover (R21, R534). -/
def execWorkerSubstituteTick (s : State) : Host.Outcome State Fault Refusal :=
  live (fun m =>
    let k := m.dev.tick
    if !k.running || !k.begun || decide (m.dev.tickSource ≠ 3) || !k.msgs.isEmpty then m
    else
      let entering := k.following
      let t := if k.mode = .holdover then k.freeNext else k.prev + k.period
      let d := m.dev.advanceToSid t
      let d1 := d.onTick (fun k =>
        let k1 := if k.mode = .holdover then { k with holdK := k.holdK + 1 } else k.runFree t
        { k1 with holdover := k.holdover || entering, following := false })
      let n := k.nextNo
      let m1 := Mach.issueTick { m with dev := d1 } n t d1.tick.holdover false .holdover
      { m1 with dev := if entering then (m1.dev.raise 481 n).postEvent 0x06 0 0 else m1.dev }) s

end Sys2Proof.Machine
end

