-- ==== Sys2Proof/Machine/Proxy.lean ====
section
/-! DEFINITION. The proxy path at work (R206 to R231, R273, R279 to R281, R357): developing bands, HEVC access units, monitor pictures,
and their delivery to every destination. -/

namespace Sys2Proof.Machine
open Sys2Proof

/-- Whether the outputs run: the source is armed or running (R206). -/
def Dev.sourceRuns (d : Dev) (s : Nat) : Bool :=
  match d.cap s with
  | some c => c.active
  | none => false

/-- Developed frames leave once every output has taken them. -/
def Dev.sweepProxy (d : Dev) : Dev :=
  d.onProxy (fun p => { p with frames := p.frames.filter (fun f => !(f.outs.isEmpty && (f.whole || f.skipped))) })

/-- Change the developed frame of stream `s` and number `n`. -/
def Dev.onFrame (d : Dev) (s n : Nat) (f : DevFrame → DevFrame) : Dev :=
  d.onProxy (fun p => { p with frames := modifyFirst (fun x => decide (x.stream = s ∧ x.frame = n)) f p.frames })

/-- The bands of a frame in the order in which the developer reads them: row order across all tiles (R208). -/
def Work.readOrder (w : Work) : List (Nat × Nat) :=
  ((List.range (ceilDiv w.height 32)).map (fun k => (List.range w.tiles.length).map (fun t => (t, k)))).flatten

/-- DEVELOP_BAND: the developer reads the next staged band of the oldest frame it has not read whole; the developer hold of the
band ends (R208, R211). -/
def execDevelopBand (s : State) : Host.Outcome State Fault Refusal :=
  live (fun m =>
    let d := m.dev
    match d.proxy.frames.find? (fun f => !f.whole && !f.skipped) with
    | none => m
    | some f =>
      match d.work f.stream f.frame with
      | none => m
      | some w =>
        let order := w.readOrder
        match order.find? (fun r => !(f.read.any (fun e => decide (e.1 = 1024 * r.1 + r.2)))) with
        | none => m
        | some (t, k) =>
          let b := w.band t k
          if !d.takesWork 7 || !b.staged || !b.hold then m
          else
            let px := m.bandPhotos w t k
            let last := decide (f.read.length + 1 = order.length)
            let d1 := d.onFrame f.stream f.frame (fun f => { f with read := Tbl.ins f.read (1024 * t + k) px, whole := last })
            let d2 := (d1.modBand f.stream f.frame t k (fun b => { b with hold := false })).sweep f.stream
            { m with dev := d2.sweepProxy }) s

/-! ### Buffers and destinations (R229, R276, R279) -/

/-- Grant `k` multicast buffers of pool `p`, all or none (R276, R279). -/
def Dev.grantAll (d : Dev) (p owner port refs : Nat) : Nat → Option (List Nat) × Dev
  | 0 => (some [], d)
  | k + 1 =>
    match d.poolGrant p 1 owner port refs with
    | (none, d1) => (none, d1)
    | (some i, d1) =>
      match d1.grantAll p owner port refs k with
      | (some l, d2) => (some (i :: l), d2)
      | (none, d2) => (none, d2.setBuf p i none)

/-- Pool and number of buffers for a unit of delivery: one buffer of the smallest pool that holds it, or several of pool 3. -/
def bufsFor (bytes : Nat) : Nat × Nat :=
  match poolFor bytes with
  | some p => (p, 1)
  | none => (3, ceilDiv bytes 1048576)

/-- The context that owns the buffers of output `o` (R444). -/
def Dev.outCtx (d : Dev) (o : Nat) : Nat :=
  match (d.ctxOf (fun c => match c.kind with
    | .output _ x => decide (x = o)
    | _ => false)).head? with
  | some e => e.1
  | none => 0

/-- Change output `o`. -/
def Dev.onOut (d : Dev) (o : Nat) (f : ProxyOut → ProxyOut) : Dev := d.onProxy (fun p => { p with outs := modAt p.outs o f })

/-- A destination has dropped a copy of output `o` (R220, R281): PRX_DROP_CNT counts those of the HEVC streams. -/
def Dev.outDropped (d : Dev) (o : Nat) : Dev :=
  let d1 := d.onOut o (fun x => { x with dropped := true })
  if o < 2 then d1.bump 0x17 (outBase o + 0x28) else d1

/-- Put a unit of delivery into buffers for its destinations; without a buffer it is dropped. -/
def Dev.sendOut (d : Dev) (v : Delivery) : Dev :=
  if v.dests.isEmpty then d
  else
    let (p, n) := bufsFor (sumBy List.length v.parts)
    match d.grantAll p (d.outCtx v.out) (if v.out = 2 then 63 else 62) v.dests.length n with
    | (none, d1) => d1.outDropped v.out
    | (some l, d1) => d1.onProxy (fun q => { q with deliveries := q.deliveries ++ [{ v with pool := p, bufs := l }] })

/-- The destinations that the DEST bits of an HEVC output name, with the ring and flows given (R229). -/
def hevcDests (bits_ ring flow0 flow1 : Nat) : List ProxyDest :=
  (if bit bits_ 0 then [.eth 0 flow0] else []) ++ (if bit bits_ 1 then [.eth 1 flow1] else []) ++
    (if bit bits_ 2 then [.ring ring] else []) ++ (if bit bits_ 3 then [.magazine] else [])

/-- The first frame that an output has still to take. -/
def Dev.nextFor (d : Dev) (o : Nat) : Option DevFrame := d.proxy.frames.find? (fun f => f.outs.contains o)

/-- An output has taken a frame. -/
def Dev.took (d : Dev) (o : Nat) (f : DevFrame) : Dev :=
  (d.onFrame f.stream f.frame (fun f => { f with outs := f.outs.filter (fun x => decide (x ≠ o)) })).sweepProxy

/-! ### HEVC (R218 to R225) -/

/-- Emulation prevention of an H.265 NAL unit: 03 goes between two zero bytes and a byte up to 3. `z` counts the zeros before. -/
def preventEmulation (z : Nat) : List Byte → List Byte
  | [] => []
  | b :: r =>
    let n := if b = 0 then 1 else 0
    if z = 2 ∧ b.toNat ≤ 3 then 3 :: b :: preventEmulation n r
    else b :: preventEmulation (if b = 0 then z + 1 else 0) r

/-- The identifier of the user data (R225). -/
def seiUuid : List Byte := [0xE7, 0x5A, 0x91, 0x60, 0x2B, 0x4C, 0x11, 0xE8, 0x9A, 0x3D, 0x05, 0xC4, 0x7F, 0x16, 0xA0, 0xB2]

/-- The user data of an access unit: identifier, frame number, event stamp (R225). -/
def seiData (frame : Nat) (stamp : List Byte) : List Byte := seiUuid ++ leBytes 4 frame ++ padTo 16 stamp

/-- The prefix SEI NAL unit that carries it. -/
def seiNal (frame : Nat) (stamp : List Byte) : List Byte :=
  [0x4E, 0x01] ++ preventEmulation 0 ([5, 36] ++ seiData frame stamp ++ [0x80])

/-- An access unit in the byte-stream format of Annex B (R218). -/
def annexB (nals : List (List Byte)) : List Byte := (nals.map (fun n => [0, 0, 0, 1] ++ n)).flatten

/-- Bits that R of an HEVC output brings from one sidereal instant to another (R222). -/
def Dev.cpbGain (d : Dev) (o from_ till : Nat) : Nat := 100000 * fld (d.reg 0x17 (outBase o + 0x14)) 0 12 * (till - from_) / 2 ^ 32

/-- Size of the CPB of an output in bits. -/
def Dev.cpbSize (d : Dev) (o : Nat) : Nat := (d.reg 0x17 (outBase o + 0x18)).toNat

/-- Bits in the CPB of an output at the tick of a frame (R223): full when a run begins. -/
def Dev.cpbAt (d : Dev) (o : Nat) (f : DevFrame) : Nat :=
  let x := d.proxy.outs.getD o {}
  if x.pictures = 0 then d.cpbSize o else min (d.cpbSize o) (x.cpb + d.cpbGain o x.cpbAt f.at_)

/-- Whether the next picture of an output is IDR (R220). -/
def Dev.nextIdr (d : Dev) (o : Nat) : Bool :=
  let x := d.proxy.outs.getD o {}
  let period := fld (d.reg 0x17 (outBase o + 4)) 0 16
  decide (x.pictures = 0) || (decide (0 < period) && decide (x.pictures % max 1 period = 0)) ||
    (bit (d.reg 0x17 (outBase o)).toNat 27 && x.dropped)

/-- µs from tick `n` + 1 to now (PRX_LAT). -/
def Dev.sinceNextTick (d : Dev) (f : DevFrame) : Nat :=
  let next := if d.tick.now = (f.frame + 1) % 2 ^ 32 then d.tick.prev else f.at_ + d.tick.period
  nsOfUnits (d.sdt - next) / 1000

/-- HEVC_PICTURE: output `o` finishes the picture of its next developed frame `dt` ns after the previous command. The environment
gives the ring and flows of its destinations, the bits that the picture would take, and the coded content: parameter sets, HRD
messages and slices (R218 to R225, R229). A skipped frame gives no access unit (R209). -/
def execHevcPicture (o dt ring flow0 flow1 want : Nat) (sets timing slices : List (List Byte)) (s : State) :
    Host.Outcome State Fault Refusal :=
  liveDev (fun d0 => onlyIf (decide (o < 2)) (fun d0 =>
    let d := d0.advance dt
    match d.nextFor o with
    | none => d
    | some f =>
      if f.skipped then d.took o f
      else if !f.whole || !d.takesWork 6 || !d.outOn o || !d.sourceRuns f.stream then d
      else
        let idr := d.nextIdr o
        let nals := (if idr then sets else []) ++ timing ++ [seiNal f.frame f.stamp] ++ slices
        let room := d.cpbAt o f
        let size := 8 * (annexB nals).length
        let dests := hevcDests (fld (d.reg 0x17 (outBase o)) 16 4) ring flow0 flow1
        let d1 := (d.took o f).onOut o (fun x =>
          { x with pictures := x.pictures + 1, dropped := if idr then false else x.dropped, cpb := room - size, cpbAt := f.at_ })
        let d2 := if room < want then d1.bump 0x17 (outBase o + 0x20) else d1
        let d3 := (d2.bump 0x17 (outBase o + 0x24)).onProxy (fun p =>
          { p with lat := d.sinceNextTick f, named := Tbl.set (fun _ => []) p.named o [ring, flow0, flow1] })
        d3.sendOut { out := o, frame := f.frame, at_ := f.at_, idr := idr, pool := 0, bufs := [], parts := nals, dests := dests }) d0) s

/-! ### Monitor (R227, R228) -/

/-- Big-endian bytes of 10-bit samples, four to five octets (R227). -/
def pack10 : List Nat → List Byte
  | a :: b :: c :: e :: r =>
    let v := 1024 * (1024 * (1024 * (a % 1024) + b % 1024) + c % 1024) + e % 1024
    (leBytes 5 v).reverse ++ pack10 r
  | _ => []

/-- SRD header of ST 2110-20: length, row number, offset, of a progressive picture. -/
def srdHeader (len row off : Nat) : List Byte := be16 len ++ be16 (row % 32768) ++ be16 (off % 32768)

/-- The rows of a monitor picture of `w` × `h` as SRDs of at most `most` octets each. -/
def srdsOf (w h most : Nat) (samples : List Nat) : List (List Byte) :=
  let per := max 1 (most / 5)
  ((List.range h).map (fun y =>
    let row := pack10 ((samples.drop (2 * w * y)).take (2 * w))
    (List.range (ceilDiv (w / 2) per)).map (fun i =>
      let data := (row.drop (5 * per * i)).take (5 * per)
      srdHeader data.length y (2 * per * i) ++ data))).flatten

/-- Octets of an SRD on a port: 1,200, or what MAX_FRAME leaves, in whole pixel groups (R227, R507). -/
def Dev.srdMost (d : Dev) (dests : List ProxyDest) : Nat :=
  dests.foldl (fun n x => match x with
    | .eth e f => match d.ctx f with
      | some c => min n (fld (d.reg 0x21 (0x100 * e)) 0 14 - c.hdrLen - 16 - 8)
      | none => n
    | _ => n) 1200

/-- MONITOR_PICTURE: the monitor output sends the picture of its next developed frame, or repeats the previous one with the timestamp
of its own tick for a skipped frame (R209, R227, R228). -/
def execMonitorPicture (flow0 flow1 : Nat) (s : State) : Host.Outcome State Fault Refusal :=
  liveDev (fun d =>
    match d.nextFor 2 with
    | none => d
    | some f =>
      if !(f.whole || f.skipped) || !d.takesWork 6 || !d.outOn 2 || !d.sourceRuns f.stream then d
      else
        let dests := hevcDests (fld (d.reg 0x17 0x180) 14 2) 0 flow0 flow1
        let old := (d.proxy.outs.getD 2 {}).last
        let (ow, oh) := d.outSize 2
        let parts :=
          if f.skipped then old
          else
            let (x, y, w, h) := d.outCrop f.width f.height 2
            let planes := f.picture (d.proxy.luts.getD f.settings.bank none) (bit (d.reg 0x17 0x004).toNat 13)
            let out := Config.scaled [1, x, y, w, h, ow, oh] f.width planes
            srdsOf ow oh (d.srdMost dests) ((List.range (2 * ow * oh)).map (fun i => out.getD i 0))
        let d1 := (d.took 2 f).onOut 2 (fun x => { x with pictures := x.pictures + 1, last := parts })
        let d2 := d1.onProxy (fun p => { p with named := Tbl.set (fun _ => []) p.named 2 [0, flow0, flow1] })
        if parts.isEmpty then d2
        else d2.sendOut { out := 2, frame := f.frame, at_ := f.at_, idr := false, pool := 0, bufs := [], parts := parts, dests := dests }) s

/-! ### Delivery (R229 to R231, R279 to R281) -/

/-- RTP timestamp of a sidereal instant (R230). -/
def rtpTime (t : Nat) : Nat := 90000 * t / 2 ^ 32 % 2 ^ 32

/-- Fragmentation units of an H.265 NAL unit after its header (RFC 7798), at most `k`; `s` marks the first. -/
def fragments (hdr : List Byte) (type most : Nat) : Nat → Bool → List Byte → List (List Byte)
  | 0, _, _ => []
  | k + 1, s, l =>
    let room := max 1 (most - 3)
    let part := l.take room
    let rest := l.drop room
    let fu : Byte := BitVec.ofNat 8 (128 * b2n s + b2n rest.isEmpty * 64 + type)
    (hdr ++ [fu] ++ part) :: (if rest.isEmpty then [] else fragments hdr type most k false rest)

/-- RTP payloads of a NAL unit: one packet, or fragmentation units (R230). -/
def nalPackets (most : Nat) (nal : List Byte) : List (List Byte) :=
  if nal.length ≤ most then [nal]
  else
    let h := rd nal 0 1
    let type := h / 2 % 64
    let hdr : List Byte := [BitVec.ofNat 8 (h &&& 0x81 ||| 98), nal.getD 1 0]
    fragments hdr type most nal.length true (nal.drop 2)

/-- The Ethernet units of a delivery on port `e` through flow `f` (R230, R507). -/
def Dev.ethUnits (d : Dev) (v : Delivery) (e fid : Nat) (c : Ctx) : List EthUnit :=
  let most := fld (d.reg 0x21 (0x100 * e)) 0 14 - c.hdrLen - 16
  let mon := decide (v.out = 2)
  let pl := if mon then v.parts else (v.parts.map (nalPackets most)).flatten
  let pt := if mon then fld (d.reg 0x17 0x180) 17 7 else fld (d.reg 0x17 (outBase v.out)) 20 7
  (List.range pl.length).map (fun i =>
    let p := pl.getD i []
    { flow := some fid, len := c.frameLen (p.length + (if mon then 2 else 0)), at_ := d.clk, deadline := c.flowDeadline,
      rtp := rtpTime v.at_, marker := decide (i + 1 = pl.length), pt := pt, ext := mon, payload := p })

/-- Deliver to an Ethernet port: the whole unit joins the flow's queue, or none of it (R280): the reason of R281. -/
def Dev.deliverEth (d : Dev) (v : Delivery) (e fid : Nat) : Nat × Dev :=
  match d.ctx fid with
  | none => (1, d)
  | some c =>
    let us := d.ethUnits v e fid c
    let total := sumBy (fun u => u.len) us
    let q := c.flowQueue
    let drop := d.count (ethStat e q 0x08) us.length
    if !d.powered (18 + e) then (6, drop)
    else if (d.ethPort e).down then (1, drop)
    else if d.qLimit e q < (d.queue e q).depth + total then (2, drop)
    else (0, us.foldl (fun d u => (d.ethEnqueue e q u).2) d)

/-- Superblocks of the proxy region, and how many of them PROXY_PCT allows (R357). -/
def MagPort.proxyRegion (q : MagPort) : Nat × Nat :=
  let used := (q.vol.sbs.filter (fun e => decide (e.2.kind = 4) && decide (e.2.state = 1 ∨ e.2.state = 2))).length
  (used, q.geo.sbNumbers.length * q.geo.groups * q.vol.proxyPct / 100)

/-- The group whose superblocks take `n` units of the proxy region: one with room in its open superblock, else one that may begin
another while two stay free (R325, R357). -/
def MagPort.proxyGroup (q : MagPort) (n : Nat) : Option Nat :=
  let need : Nat → Nat → Nat := fun g b => ceilDiv n (max 1 (q.perLine g b))
  let inOpen : Nat → Bool := fun g => (q.geo.sbNumbers.any (fun b =>
    let e := q.vol.sb (sbKey g b)
    decide (e.state = 1) && decide (e.kind = 4) && decide (e.wlUsed + need g b ≤ q.lines g b)))
  match q.openGroups.find? inOpen with
  | some g => some g
  | none =>
    let (used, most) := q.proxyRegion
    if most < used + 1 then none else q.openGroups.find? (fun g => decide (2 < (q.freeSbs g).length))

/-- The units of an access unit from unit `u` of its proxy stream on: it begins a unit, and zero bytes, as Annex B allows, fill its
last one. -/
def proxyUnits (clip frame u : Nat) (bytes : List Byte) : List StripeUnit :=
  (List.range (ceilDiv bytes.length 4096)).map (fun i =>
    { user := slice bytes (4096 * i) 4096, kind := 4, unit := u + i, clip := clip, frame := frame, start := if i = 0 then 0 else 0xFFFF })

/-- The clip of a volume after an access unit: its type 3 record and the extents of its units (R355, R357). -/
def Clip.addAccessUnit (c : Clip) (e frame len per lua n : Nat) (idr : Bool) : Clip :=
  let at_ := c.proxyBytes.getD e 0
  let record := leBytes 4 frame ++ leBytes 1 e ++ leBytes 1 (b2n idr) ++ [0, 0] ++ leBytes 8 at_ ++ leBytes 4 len ++ zeros 12
  let new := c.proxyExts.drop c.proxyExtsLogged
  let mine := (new.filter (fun x => decide (x.1 = e))).map (fun x => x.2)
  let grown := (List.range n).foldl (fun l i => addUnit per l (at_ / 4096 + i) (luaAdd per lua i)) mine
  { c with proxyRecs := c.proxyRecs ++ [record], proxyBytes := modAt c.proxyBytes e (fun x => x + 4096 * n),
           proxyExts := c.proxyExts.take c.proxyExtsLogged ++ new.filter (fun x => decide (x.1 ≠ e)) ++ grown.map (fun x => (e, x)) }

/-- Deliver to the magazine that holds the source's open clip, the PHASE 0 one of a striped clip (R231, R357): the reason of R281. -/
def Mach.deliverMag (m : Mach) (v : Delivery) : Nat × Mach :=
  let d := m.dev
  let clip := (d.proxyCtx.bind (fun x => d.cap x.2.stream)).bind (fun c => c.clip)
  match clip with
  | none => (4, m)
  | some (choice, id) =>
    let p := if choice = 1 then 1 else 0
    let q := d.mag p
    if !d.powered (8 + p) then (6, m)
    else
      match q.vol.clip id with
      | none => (4, m)
      | some c =>
        let bytes := annexB v.parts
        let units := proxyUnits id v.frame (c.proxyBytes.getD v.out 0 / 4096) bytes
        if !q.mounted ∨ q.readOnly then (4, m)
        else
          match q.proxyGroup units.length with
          | none => (5, m)
          | some g =>
            match m.reserve p 4 g units.length with
            | (none, m1) => (5, m1)
            | (some (b, w), m1) =>
              let per := (m1.dev.mag p).perLine g b
              let m2 := m1.putStripes p g b w 4 units units.length
              let upd : Clip → Clip := fun c => c.addAccessUnit v.out v.frame bytes.length per (luaOf g b w 0) units.length v.idr
              (0, { m2 with dev := m2.dev.onVol p (fun x => x.onClip id upd) })

/-- Deliver to one destination: the reason of R281, 0 where it delivered. -/
def Mach.deliver (m : Mach) (v : Delivery) : ProxyDest → Nat × Mach
  | .eth e f => let (r, d) := m.dev.deliverEth v e f; (r, { m with dev := d })
  | .ring id => match m.ringDeliver id (1 + v.out) (annexB v.parts) with
    | (true, m1) => (0, m1)
    | (false, m1) => (3, m1)
  | .magazine => m.deliverMag v

/-- Number of a destination in the order in which an output names them (R229). -/
def ProxyDest.code : ProxyDest → Nat
  | .eth e _ => e
  | .ring _ => 2
  | .magazine => 3

/-- Whether transfers to a destination are held: its domain quiesces (R484). -/
def Dev.destHeld (d : Dev) (v : Delivery) : Nat → Bool
  | 0 => d.quiescing 18
  | 1 => d.quiescing 19
  | 3 => match (d.proxyCtx.bind (fun x => d.cap x.2.stream)).bind (fun c => c.clip) with
    | some (1, _) => d.quiescing 9
    | some _ => d.quiescing 8
    | none => false
  | _ => v.dests.isEmpty

/-- MULTICAST_DELIVER: destination `k` (0 and 1 the Ethernet ports, 2 the host ring, 3 the magazine) delivers or drops the oldest
unit that waits for it, and its buffers' reference counts fall (R279, R280). -/
def execMulticastDeliver (k : Nat) (s : State) : Host.Outcome State Fault Refusal :=
  live (fun m =>
    let here : Delivery → Bool := fun v => v.dests.any (fun x => decide (x.code = k))
    match m.dev.proxy.deliveries.find? here with
    | none => m
    | some v =>
      match v.dests.find? (fun x => decide (x.code = k)) with
      | none => m
      | some x =>
        if m.dev.destHeld v k then m
        else
        let (reason, m1) := m.deliver v x
        let rest : Delivery := { v with dests := v.dests.erase x }
        let d1 := v.bufs.foldl (fun d i => d.copyDone v.pool i) m1.dev
        let d2 := d1.onProxy (fun p =>
          { p with deliveries := (modifyFirst here (fun _ => rest) p.deliveries).filter (fun v => !v.dests.isEmpty) })
        { m1 with dev := if reason = 0 then d2 else d2.outDropped v.out }) s

/-! ### Registers (R232) -/

/-- Computed registers of feature 0x17. -/
def Dev.prxWord (d : Dev) (off : Nat) : Option Word :=
  let p := d.proxy
  match off with
  | 0x000 =>
    let busy : Nat → Bool := fun o => (d.nextFor o).any (fun f => f.whole)
    some (word (2 ^ 31 * b2n (p.frames.any (fun f => !f.whole && !f.skipped && !f.read.isEmpty)) + 2 ^ 30 * b2n (busy 0) +
      2 ^ 29 * b2n (busy 1) + 2 ^ 28 * b2n (d.outOn 2) + 2 ^ 27 * b2n p.lutPending + 2 ^ 26 * (p.bank % 2)))
  | 0x040 => some (word (match p.luts.getD p.bank none with
    | some l => crc32c 0 l
    | none => 0))
  | 0x0F4 => some (word p.lat)
  | _ => none

end Sys2Proof.Machine
end

