-- ==== Sys2Proof/Machine/Playback.lean ====
section
/-! DEFINITION. Playback (R186 to R204, R457): reading coded frames, finding their segments, decoding bands in idle mirror decoders,
concealment, output frames and decode status records. -/

namespace Sys2Proof.Machine
open Sys2Proof

/-! ### Coded bytes (R79, R192, R341) -/

/-- The 16 units of chunk `k` of a clip as read: user bytes, none where absent (R192). A unit that no step decodes, or a failed chunk
check value, makes the whole chunk absent; a rejected unit is absent alone (R341). -/
def Mach.clipChunk (m : Mach) (p : Nat) (c : Clip) (k : Nat) : List (Option (List Byte)) :=
  let away := bit c.flags 0 && decide (k % 2 ≠ b2n (bit c.flags 1))
  let pp := if away then 1 - p else p
  let q := m.dev.mag pp
  let there := !away || (q.mounted && decide (q.vol.id = c.peer))
  let none16 : List (Option (List Byte)) := List.replicate 16 none
  match (if there then (if away then q.vol.clip c.id else some c) else none) with
  | none => none16
  | some cc =>
    let lua : Nat → Option Nat := fun i => cc.luaOfUnit q.perLine (16 * k + i)
    let raw : Nat → Option (List Byte) := fun i => (lua i).bind (fun a => (m.readUnit pp (q.vol.resolve a) 1).1)
    let dead := (List.range 16).any (fun i => (lua i).isSome && (raw i).isNone)
    let us := (List.range 16).map (fun i => m.clipUnit pp cc (16 * k + i))
    if dead then none16
    else if us.any Option.isNone then us.map (fun u => u.map (fun x => slice x 0 4096))
    else
      let head := (us.getD 0 none).getD []
      let bytes := (us.map (fun u => slice (u.getD []) 0 4096)).flatten
      let want := chunkCheck q.vol.id ((lua 0).getD 0) (rd head 4104 4) bytes
      if rd head 4112 4 = want then us.map (fun u => u.map (fun x => slice x 0 4096)) else none16

/-- Stream bytes [a, a + len) of a clip, with the runs of it that are absent. -/
def Mach.clipRange (m : Mach) (p : Nat) (c : Clip) (a len : Nat) : List Byte × List (Nat × Nat) :=
  let k0 := a / 65536
  let n := (65535 + (a + len)) / 65536 - k0
  let us := ((List.range n).map (fun i => m.clipChunk p c (k0 + i))).flatten
  let bytes := (us.map (fun u => u.getD (zeros 4096))).flatten
  let base := 65536 * k0
  let gaps := (List.range us.length).filterMap (fun i =>
    if (us.getD i none).isSome then none
    else
      let lo := max a (base + 4096 * i)
      let hi := min (a + len) (base + 4096 * (i + 1))
      if lo < hi then some (lo - a, hi - lo) else none)
  (slice bytes (a - base) len, gaps)

/-- Whether some byte of [a, a + n) is absent. -/
def overlaps (gaps : List (Nat × Nat)) (a n : Nat) : Bool := gaps.any (fun g => decide (g.1 < a + n) && decide (a < g.1 + g.2))

/-! ### Frames of a command -/

/-- Clip of a PLAYBACK_DECODE with SOURCE 0. -/
def Mach.playClip (m : Mach) (c : Cmd) : Option Clip := (m.dev.mag (bits (c.dw 0) 8 1)).vol.clip (c.dw 1 % 65536)

/-- The frame record of a frame of the clip (R353). -/
def Mach.playRecord (m : Mach) (c : Cmd) (n : Nat) : Option (List Byte) :=
  match m.playClip c with
  | some x => x.recs[(2 ^ 32 + n - x.first) % 2 ^ 32]?
  | none => none

/-- Number of the frame that a playback of a clip takes next. -/
def Play.number (pl : Play) (c : Cmd) : Nat := (2 ^ 32 + c.dw 2 + pl.done - pl.pre) % 2 ^ 32

/-- Coded bytes of the frame that a playback takes next, with absent runs; none for a frame recorded as dropped (R191). -/
def Mach.playBytes (m : Mach) (pl : Play) (c : Cmd) : Option (List Byte × List (Nat × Nat)) :=
  match c.dw 0 % 4 with
  | 0 =>
    match m.playClip c, m.playRecord c (pl.number c) with
    | some x, some r => if bit (rd r 8 1) 0 then none else some (m.clipRange (bits (c.dw 0) 8 1) x (rd r 16 8) (rd r 12 4))
    | _, _ => some ([], [])
  | src =>
    let at_ := c.dw64 4 + 16 * pl.done
    let read : Nat → Nat → List Byte := fun a n =>
      if src = 1 then (if hostOk a n then m.mem.hostRead a n else []) else readBytes byteZero m.mem.dram a n
    let e := read at_ 16
    some (read (rd e 0 8) (rd e 8 4), [])

/-- Bytes of an output frame (R188). -/
def FrameHead.outBytes (h : FrameHead) : Nat := 2 * h.width * h.height * compsOf h.cfa

/-! ### Finding segments (R70, R74, R85, R86, R193 to R195) -/

/-- A valid segment at a position. -/
inductive Seg where
  | tile (ok : Bool)
  | band (h : BandHead)
  | fin (flags : Nat)
  | bad
  deriving DecidableEq, Repr

/-- Bands of the whole frame. -/
def FrameHead.total (h : FrameHead) : Nat := h.tileW.length * h.bands

/-- Key of the band that stands `i`-th in the order of R70. -/
def FrameHead.key (h : FrameHead) (i : Nat) : Nat := 512 * (i / max 1 h.bands) + i % max 1 h.bands

/-- Place of a band in the order of R70. -/
def FrameHead.place (h : FrameHead) (key : Nat) : Nat := key / 512 * h.bands + key % 512

/-- The segment that is valid at `pos` (R74, R193, R194). -/
def PlayFrame.segAt (f : PlayFrame) (pos : Nat) : Seg :=
  let l := f.bytes.drop pos
  if slice l 0 3 ≠ [0x00, 0x00, 0xA5] ∨ overlaps f.absent pos 4 then .bad
  else
    match rd l 3 1 with
    | 2 =>
      let t := rd l 4 1
      if tileCrcOk (l.drop 4) && !overlaps f.absent pos 16 then .tile (tileHeadOk f.head t (l.drop 4)) else .bad
    | 3 =>
      match parseBandHead f.head.depth f.head.height f.head.tileW.length f.head.bands (l.drop 4) with
      | some b =>
        if f.next ≤ 512 * b.tile + b.band ∧ pos + b.total + 28 ≤ f.bytes.length ∧ !overlaps f.absent pos 28 then .band b else .bad
      | none => .bad
    | 4 =>
      match parseTrailer f.head.frame (l.drop 4) with
      | some t => if overlaps f.absent pos 28 then .bad else .fin t.flags
      | none => .bad
    | _ => .bad

/-- Note a condition. -/
def PlayFrame.note (f : PlayFrame) (code tile band : Nat) : PlayFrame := { f with conds := (code, tile, band) :: f.conds }

/-- A band is damaged, under the first condition met. -/
def PlayFrame.damage (f : PlayFrame) (key code : Nat) : PlayFrame :=
  if f.damaged.any (fun e => decide (e.1 = key)) then f
  else { f with damaged := Tbl.ins f.damaged key code }.note code (key / 512) (key % 512)

/-- Bands from place `i` up to place `j` are missing (R194, R195). -/
def PlayFrame.missing (f : PlayFrame) (i j : Nat) : PlayFrame :=
  (List.range (j - i)).foldl (fun f k => f.damage (f.head.key (i + k)) Cond.bandMissing) f

/-- What stands at a position that holds no valid segment, where the decoder does not scan yet: the conditions met, and whether the
frame ends there. -/
def PlayFrame.refuse (f : PlayFrame) : PlayFrame :=
  let l := f.bytes.drop f.pos
  let expected := f.head.place f.next
  if f.bytes.length ≤ f.pos then { (f.note Cond.trailer 0xFF 0xFFFF) with ended := true }
  else if overlaps f.absent f.pos 28 ∧ expected < f.head.total then
    { (f.damage (f.head.key expected) Cond.media) with scan := true, pos := f.pos + 1 }
  else if slice l 0 3 ≠ [0x00, 0x00, 0xA5] then { f with scan := true, pos := f.pos + 1 }
  else
    match rd l 3 1 with
    | 2 => { (f.note Cond.tileHeader (rd l 4 1) 0xFFFF) with pos := f.pos + 16 }
    | 3 =>
      let g := if expected < f.head.total then f.damage (f.head.key expected) Cond.bandHeader else f.note Cond.bandHeader 0xFF 0xFFFF
      { g with scan := true, pos := f.pos + 1 }
    | 4 =>
      if f.head.total ≤ expected then { (f.note Cond.trailer 0xFF 0xFFFF) with ended := true }
      else { f with scan := true, pos := f.pos + 1 }
    | _ => { (f.note Cond.marker 0xFF 0xFFFF) with scan := true, pos := f.pos + 1 }

/-- Go on to the next band or to the end of the frame, by at most `k` positions. -/
def PlayFrame.walk (f : PlayFrame) : Nat → PlayFrame
  | 0 => { f with ended := true }
  | k + 1 =>
    if f.ended then f
    else
      match f.segAt f.pos with
      | .band b => { f with scan := false, found := some b }
      | .tile ok =>
        let g := if ok then f else f.note Cond.tileHeader (rd (f.bytes.drop f.pos) 4 1) 0xFFFF
        PlayFrame.walk { g with scan := false, pos := f.pos + 16 } k
      | .fin flags => { f with ended := true, trailer := some flags }
      | .bad =>
        if f.bytes.length ≤ f.pos then { (f.note Cond.trailer 0xFF 0xFFFF) with ended := true }
        else if f.scan then PlayFrame.walk { f with pos := f.pos + 1 } k
        else f.refuse.walk k

/-- Metadata segments and others before the first tile, at most `k` (R70, R85): a segment under a METADATA condition is ignored. -/
def PlayFrame.skipMeta (f : PlayFrame) : Nat → PlayFrame
  | 0 => f
  | k + 1 =>
    let l := f.bytes.drop f.pos
    if slice l 0 4 = marker 0x10 then
      let (n, good) := parseMeta (l.drop 4)
      if good && !overlaps f.absent f.pos (4 + n) then PlayFrame.skipMeta { f with pos := f.pos + 4 + n } k
      else
        let g := f.note Cond.metadata 0xFF 0xFFFF
        if f.pos + 4 + n ≤ f.bytes.length ∧ 12 ≤ n then PlayFrame.skipMeta { g with pos := f.pos + 4 + n } k
        else { g with scan := true, pos := f.pos + 1 }
    else f

/-! ### Beginning a frame (R80 to R84, R189, R196, R199 to R201) -/

/-- The header of a frame, or the condition that damages it. -/
def playHead (bytes : List Byte) (gaps : List (Nat × Nat)) : Except Nat FrameHead :=
  if slice bytes 0 4 ≠ marker 1 ∨ overlaps gaps 0 72 then .error Cond.frameHeader
  else
    match parseFrameHead (bytes.drop 4) with
    | .error e => .error e
    | .ok h => if overlaps gaps 0 (72 + 16 * h.tileW.length) then .error Cond.frameHeader else .ok h

/-- A frame whose header is good: its tables, its reference in use, and the first band. -/
def beginFrame (kept : Option Kept) (wanted : Bool) (bytes : List Byte) (gaps : List (Nat × Nat)) (h : FrameHead) : PlayFrame :=
  let at_ := 72 + 16 * h.tileW.length
  let section_ := slice bytes at_ h.tableLen
  let tables := if h.tableLen = 0 then some defaultTables
    else if overlaps gaps at_ h.tableLen ∨ bytes.length < at_ + h.tableLen then none else parseTables section_
  let same := match kept with
    | some k => k.head.sameGeo h
    | none => false
  let avail := match kept with
    | some k => same && decide (k.head.frame = h.refFrame)
    | none => false
  let marred := match kept with
    | some k => same && k.marred
    | none => false
  let f : PlayFrame :=
    { wanted := wanted, bytes := bytes, absent := gaps, head := h, tables := tables, pos := at_ + h.tableLen,
      ref := if h.temporal then (if same then 1 else 2) else 0, concealedRef := h.temporal && !avail, tainted := h.temporal && marred }
  let f1 := if tables.isNone then f.note Cond.table 0xFF 0xFFFF else f
  (f1.skipMeta 17).walk (bytes.length + 1)

/-! ### Decoding a band (R98, R115, R192, R608) -/

/-- Reference planes of a band: the kept reconstruction, or the neutral reference. -/
def PlayFrame.planes (f : PlayFrame) (kept : Option Kept) (t k : Nat) (lifted : Bool) : Option RefPlanes :=
  let g := f.head.geo t k
  let line := f.head.tileW.getD t 0 * compsOf f.head.cfa
  let whole : Kept → List Nat := fun x => ((List.range f.head.bands).map (fun i => Tbl.get (fun _ => []) x.photos (512 * t + i))).flatten
  match f.ref, kept with
  | 0, _ => none
  | 1, some x => some (refPlanes g f.head.height k lifted (whole x).toArray)
  | _, _ => some (refPlanes g f.head.height k lifted (List.replicate (line * f.head.height) (2 ^ (f.head.depth - 1))).toArray)

/-- The band found is decoded, and the decoder goes on. -/
def PlayFrame.decodeFound (f : PlayFrame) (kept : Option Kept) : PlayFrame :=
  match f.found with
  | none => f
  | some b =>
    let key := 512 * b.tile + b.band
    let i := f.head.place key
    let f0 := (f.missing (f.head.place f.next) i)
    let f1 := { f0 with found := none, next := f.head.key (i + 1) }
    let out := if overlaps f.absent f.pos b.total then .error Cond.media
      else decodeBand (f.head.geo b.tile b.band) f.head.frame b f.head.temporal (f.planes kept b.tile b.band (decide (b.delta = 0))) f.tables
        (slice f.bytes (f.pos + 28) (b.total - 28))
    let after := f.pos + b.total
    match out with
    | .ok px =>
      let f2 := { f1 with good := Tbl.ins f1.good key px, checks := Tbl.ins f1.checks key b.check, flagsOr := f1.flagsOr ||| b.flags, pos := after }
      f2.walk (f.bytes.length + 1)
    | .error e =>
      let f2 := f1.damage key e
      let f3 := match f2.segAt after with
        | .bad => { f2 with scan := true, pos := f.pos + 1 }
        | _ => { f2 with pos := after }
      f3.walk (f.bytes.length + 1)

/-! ### Ending a frame (R78, R88, R189, R196 to R203) -/

/-- Whether a row lies in a band of a tile that decoded without damage. -/
def PlayFrame.goodRow (f : PlayFrame) (t y : Nat) : Bool := f.good.any (fun e => decide (e.1 = 512 * t + y / 32))

/-- A damaged band concealed: its photosites and METHOD (R197, R198). -/
def PlayFrame.conceal (f : PlayFrame) (kept : Option Kept) (key : Nat) : List Nat × Nat :=
  let t := key / 512
  let k := key % 512
  let line := f.head.tileW.getD t 0 * compsOf f.head.cfa
  match f.ref, kept with
  | 1, some x => (Tbl.get (fun _ => []) x.photos key, 0)
  | _, _ => interpBand f.head.cfa f.head.depth line f.head.height k (f.head.geo t k).rows (f.goodRow t)
      (fun y x => (Tbl.get (fun _ => []) f.good (512 * t + y / 32)).getD (y % 32 * line + x) 0)

/-- Output bytes of a reconstruction, in full-frame raster order (R188). -/
def frameOut (h : FrameHead) (photos : Tbl (List Nat)) : List Byte :=
  let n := compsOf h.cfa
  ((List.range h.height).map (fun y => ((List.range h.tileW.length).map (fun t =>
    let line := h.tileW.getD t 0 * n
    let band := Tbl.get (fun _ => []) photos (512 * t + y / 32)
    ((List.range line).map (fun x => leBytes 2 (band.getD (y % 32 * line + x) 0))).flatten)).flatten)).flatten

/-- The 64 bytes of a decode status record (R203). -/
def statusRecord (frame flags frameFlags refUsed total concealed temporal records : Nat) (conds : List (Nat × Nat × Nat)) (stamp : List Byte) :
    List Byte :=
  let first := conds.getLast?.getD (0, 0xFF, 0xFFFF)
  let l := leBytes 4 frame ++ leBytes 4 flags ++ leBytes 4 frameFlags ++ leBytes 4 refUsed ++ leBytes 2 total ++ leBytes 2 concealed ++
    leBytes 2 temporal ++ leBytes 2 (min conds.length 0xFFFF) ++ leBytes 1 first.1 ++ leBytes 1 first.2.1 ++ leBytes 2 first.2.2 ++
    leBytes 2 records ++ [0, 0] ++ padTo 16 stamp ++ zeros 12
  l ++ leBytes 4 (crc32c 0 l)

/-- Write part of a command's output from byte `off` of its buffer on (R430, R457). -/
def Mem.dataPut (m : Mem) (c : Cmd) (off : Nat) (l : List Byte) : Mem :=
  if c.dataKind = 2 then
    let pages := m.pages c c.dataLen
    (List.range ((4095 + (off + l.length)) / 4096 - off / 4096)).foldl (fun m i =>
      let pg := off / 4096 + i
      let lo := max off (4096 * pg)
      let hi := min (off + l.length) (4096 * (pg + 1))
      m.hostWrite (pages.getD pg 0 + (lo - 4096 * pg)) (slice l (lo - off) (hi - lo))) m
  else m.hostWrite (c.dataAddr + off) l

/-- Send a status record to the context's host ring, with the band records that follow it (R203, R447). -/
def Mach.sendStatus (m : Mach) (ctx : Nat) (bytes : List Byte) : Mach :=
  let ring := ((m.dev.ctx ctx).map (fun x => rd x.params 0 2)).bind m.dev.ringOf
  let m1 : Mach := match ring with
    | some r => (m.ringDeliver r 5 bytes).2
    | none => m
  { m1 with dev := m1.dev.stamped }

/-- Change the playback of a command. -/
def Dev.onPlay (d : Dev) (sq cid : Nat) (f : Play → Play) : Dev :=
  d.onCodec (fun c => { c with plays := modifyFirst (fun x => decide (x.sq = sq ∧ x.cid = cid)) f c.plays })

/-- Write an output frame, if it is one that was requested. -/
def Mach.putFrame (m : Mach) (pl : Play) (c : Cmd) (bytes : List Byte) : Mach :=
  { dev := m.dev.onPlay pl.sq pl.cid (fun x => { x with outs := x.outs + 1, outBytes := x.outBytes + bytes.length }),
    mem := m.mem.dataPut c pl.outBytes bytes }

/-- One frame requested, or one before it, has been dealt with. -/
def Play.frameDone (pl : Play) : Play := if pl.pre = 0 then { pl with done := pl.done + 1, cur := none } else { pl with pre := pl.pre - 1, cur := none }

/-- A decoded frame ends: concealment, output, status record, and the kept reconstruction (R188, R189, R195 to R203). `e` is the
decoder whose counter takes the concealed bands. -/
def Mach.endFrame (m : Mach) (e : Nat) (pl : Play) (c : Cmd) (f0 : PlayFrame) : Mach :=
  let f1 := f0.missing (f0.head.place f0.next) f0.head.total
  let h := f1.head
  let badTiles := (List.range h.tileW.length).filter (fun t =>
    let ks := List.range h.bands
    ks.all (fun k => f1.goodRow t (32 * k)) &&
      decide (tileCheck h.frame t (ks.map (fun k => Tbl.get (fun _ => 0) f1.checks (512 * t + k))) ≠ h.checks.getD t 0))
  let f := badTiles.foldl (fun f t => f.note Cond.tileCheck t 0xFFFF) f1
  let hidden := f.damaged.map (fun x => (x.1, x.2, f.conceal pl.kept x.1))
  let photos := hidden.foldl (fun p x => Tbl.ins p x.1 x.2.2.1) f.good
  let has : Nat → Bool := fun code => f.conds.any (fun x => decide (x.1 = code))
  let marred := f.concealedRef || f.tainted || !f.damaged.isEmpty
  let flags := flagsAt 0 [!f.damaged.isEmpty, false, false, false, f.concealedRef, f.tainted, has Cond.trailer, has Cond.tileHeader,
    has Cond.tileCheck, has Cond.metadata]
  let refNo := match f.ref, pl.kept with
    | 0, _ => h.frame
    | 1, some k => k.head.frame
    | _, _ => 0xFFFFFFFF
  let temporal := (hidden.filter (fun x => decide (x.2.2.2 = 0))).length
  let records := (hidden.map (fun x => leBytes 1 (x.1 / 512) ++ leBytes 1 x.2.1 ++ leBytes 2 (x.1 % 512) ++ leBytes 1 x.2.2.2 ++ zeros 3 ++
    leBytes 4 (if x.2.2.2 = 0 then refNo else h.frame) ++ zeros 4)).flatten
  let d1 := (m.dev.bump 0x16 (0x40 * e + 0x20) hidden.length).onPlay pl.sq pl.cid (fun x =>
    { x with kept := some { head := h, photos := photos, marred := marred }, marred := x.marred || (f.wanted && !f.damaged.isEmpty),
             refMissing := x.refMissing || (f.wanted && (f.concealedRef || f.tainted)) })
  let m1 : Mach := { m with dev := d1 }
  let m2 := if f.wanted then
      (m1.putFrame pl c (frameOut h photos)).sendStatus pl.ctx (statusRecord h.frame flags (f.trailer.getD f.flagsOr) refNo h.total hidden.length temporal
        hidden.length f.conds d1.stamp ++ records)
    else m1
  { m2 with dev := m2.dev.onPlay pl.sq pl.cid Play.frameDone }

/-- A frame that is not decoded: dropped, or its header damaged under `cond` (R191, R196). -/
def Mach.skipFrame (m : Mach) (pl : Play) (c : Cmd) (cond : Option Nat) : Mach :=
  let wanted := decide (pl.pre = 0)
  let clip := decide (c.dw 0 % 4 = 0)
  let number := if clip then pl.number c else m.dev.drawn % 2 ^ 32
  let d0 := if clip then m.dev else m.dev.afterDraw
  let m0 : Mach := { m with dev := d0.onPlay pl.sq pl.cid (fun x => { x with marred := x.marred || (wanted && cond.isSome) }) }
  let conds : List (Nat × Nat × Nat) := match cond with
    | some e => [(e, 0xFF, 0xFFFF)]
    | none => []
  let rec_ : Nat → Nat → Nat → List Byte := fun flags ref total => statusRecord number flags 0 ref total 0 0 0 conds d0.stamp
  let m1 :=
    if !wanted then m0
    else
      match cond, pl.kept with
      | none, _ => m0.sendStatus pl.ctx (rec_ 8 0xFFFFFFFF 0)
      | some _, some k => (m0.putFrame pl c (frameOut k.head k.photos)).sendStatus pl.ctx (rec_ 2 k.head.frame k.head.total)
      | some _, none => m0.sendStatus pl.ctx (rec_ 4 0xFFFFFFFF 0)
  { m1 with dev := m1.dev.onPlay pl.sq pl.cid Play.frameDone }

/-! ### Running a playback -/

/-- A playback ends with a status; RESULT is the number of frames output (R202, R457). -/
def Mach.endPlay (m : Mach) (pl : Play) (c : Cmd) (status : Nat) : Mach :=
  let d := m.dev.onCodec (fun x => { x with plays := x.plays.filter (fun p => !decide (p.sq = pl.sq ∧ p.cid = pl.cid)) })
  let m1 := Mach.complete { m with dev := d } c status pl.outs
  onDev (withSome pl.abortBy (fun k d => d.complete k.1 k.2 Status.ok)) m1

/-- Status by R202. -/
def Play.status (pl : Play) : Nat := if pl.marred then Status.streamDamaged else if pl.refMissing then Status.refMissing else Status.ok

/-- Whether an output frame of `bytes` still fits the buffer; SOURCE 0 was checked at start (R457). -/
def Play.fits (pl : Play) (c : Cmd) (bytes : Nat) : Bool :=
  decide (c.dw 0 % 4 = 0) || (decide (c.dataKind = 1 ∨ c.dataKind = 2) && decide (pl.outBytes + bytes ≤ c.dataLen))

/-- Let a playback go on until a band is to be decoded or it ends, over at most `k` frames. `e` is the decoder that worked for it. -/
def Mach.runPlay (m : Mach) (sq cid e : Nat) : Nat → Mach
  | 0 => m
  | k + 1 =>
    match m.dev.cmd sq cid, m.dev.codec.plays.find? (fun x => decide (x.sq = sq ∧ x.cid = cid)) with
    | some c, some pl =>
      match pl.cur with
      | some f => if f.found.isSome then m else (m.endFrame e pl c f).runPlay sq cid e k
      | none =>
        let clip := decide (c.dw 0 % 4 = 0)
        if pl.abortBy.isSome then m.endPlay pl c Status.aborted
        else if pl.done = c.dw 3 % 65536 then m.endPlay pl c pl.status
        else if clip && !(m.dev.mag (bits (c.dw 0) 8 1)).mounted then m.endPlay pl c Status.magRemoved
        else
          match m.playBytes pl c with
          | none => (m.skipFrame pl c none).runPlay sq cid e k
          | some (bytes, gaps) =>
            match playHead bytes gaps with
            | .error cond =>
              let size := match pl.kept with
                | some x => x.head.outBytes
                | none => 0
              if !pl.fits c size then m.endPlay pl c Status.invalidField else (m.skipFrame pl c (some cond)).runPlay sq cid e k
            | .ok h =>
              if !pl.fits c h.outBytes then m.endPlay pl c Status.invalidField
              else
                let f := beginFrame pl.kept (decide (pl.pre = 0)) bytes gaps h
                Mach.runPlay { m with dev := m.dev.onPlay sq cid (fun x => { x with cur := some f }) } sq cid e k
    | _, _ => m

/-- Whether mirror decoder `e` may take a playback band (R187). -/
def Dev.mirFree (d : Dev) (e : Nat) : Bool :=
  let x := d.mirE e
  decide (e < 24) && x.job.isNone && x.fault.isNone && d.takesWork (e / 4) && bit (d.reg 0x16 (0x40 * e + 0x0C)).toNat 0 && (d.nextVerify e).isNone

/-- The band that a playback is to decode next. -/
def Play.band (pl : Play) : Option BandRef :=
  match pl.cur with
  | some f => f.found.map (fun b => { stream := pl.ctx, frame := f.head.frame, tile := b.tile, band := b.band })
  | none => none

/-- The oldest playback whose next band no decoder has. -/
def Dev.playWaiting (d : Dev) : Option (Play × BandRef) :=
  (d.codec.plays.filterMap (fun p => p.band.map (fun r => (p, r)))).find? (fun x =>
    !(d.codec.mir.any (fun y => match y.play with
      | some r => decide (r.stream = x.1.ctx)
      | none => false)))

/-- Idle mirror decoders take playback bands. -/
def Dev.playPump (d : Dev) : Dev :=
  (List.range 24).foldl (fun d e =>
    if d.mirFree e && (d.mirE e).play.isNone then
      match d.playWaiting with
      | some (_, r) => d.onMir e (fun x => { x with play := some r, startAt := d.clk })
      | none => d
    else d) d

/-- Frames that the first one requested needs before it: ANCHOR_DISTANCE, where the anchor is in the clip (R190). -/
def Mach.preRoll (m : Mach) (c : Cmd) : Nat :=
  match m.playClip c, m.playRecord c (c.dw 2) with
  | some x, some r =>
    if c.dw 0 % 4 ≠ 0 ∨ bit (rd r 8 1) 0 then 0
    else
      let (bytes, gaps) := m.clipRange (bits (c.dw 0) 8 1) x (rd r 16 8) (rd r 12 4)
      match playHead bytes gaps with
      | .ok h => if h.temporal ∧ h.distance ≤ (2 ^ 32 + c.dw 2 - x.first) % 2 ^ 32 then h.distance else 0
      | .error _ => 0
  | _, _ => 0

/-- Bytes of an output frame of a clip. -/
def Clip.frameSize (x : Clip) : Nat := 2 * x.width * x.height * compsOf x.cfa

/-- PLAYBACK_DECODE (R186, R190, R457). -/
def execPlaybackDecode (sq cid : Nat) (s : State) : Host.Outcome State Fault Refusal :=
  live (runCmd sq cid 0x60 (fun c m =>
    let src := c.dw 0 % 4
    let p := bits (c.dw 0) 8 1
    let q := m.dev.mag p
    let n := c.dw 3 % 65536
    let isPlay := match m.dev.ctx c.target with
      | some x => decide (x.kind = .playback)
      | none => false
    let earlier := (m.dev.host.cmds.takeWhile (fun x => !decide (x.sq = sq ∧ x.cid = cid))).any (fun x =>
      decide (x.opcode = 0x60 ∧ x.target = c.target ∧ x.phase ≠ .completing))
    let badList := decide (src = 1) && !hostOk (c.dw64 4) (16 * n)
    if earlier then m
    else if !isPlay then m.refuse c 4
    else if src = 3 then m.refuse c 32
    else if n = 0 then m.refuse c 44
    else if badList then m.refuse c 48
    else
      let start : Mach → Mach := fun m =>
        let pl : Play := { ctx := c.target, sq := sq, cid := cid, pre := m.preRoll c }
        let d := (m.dev.keepRunning c).onCodec (fun x => { x with plays := x.plays ++ [pl] })
        onDev Dev.playPump (Mach.runPlay { m with dev := d } sq cid 0 (2 * (n + 8) + 2))
      if src ≠ 0 then start m
      else if !q.mounted then m.complete c Status.magNotMounted
      else
        match m.playClip c with
        | none => m.refuse c 36
        | some x =>
          if x.recs.length < (2 ^ 32 + c.dw 2 - x.first) % 2 ^ 32 + n then m.refuse c 40
          else if c.dataKind = 0 ∨ c.dataLen < n * x.frameSize then m.refuse c 24
          else if !m.mem.dataOk c (n * x.frameSize) then m.refuse c 16
          else start m)) s

/-- PLAYBACK_BAND: mirror decoder `e`, idle of verification, decodes a playback band to its end `dt` ns after the previous command:
the one in progress, or else the next (R187, R193 to R203). -/
def execPlaybackBand (e dt : Nat) (s : State) : Host.Outcome State Fault Refusal :=
  live (fun m =>
    if !m.dev.mirFree e then m
    else
      let d := m.dev.advance dt
      let mine := (d.mirE e).play.bind (fun r => (d.codec.plays.find? (fun p => decide (p.ctx = r.stream) && p.band.isSome)))
      let next : Option Play := match mine with
        | some p => some p
        | none => d.playWaiting.map (fun x => x.1)
      match next with
      | none => { m with dev := d }
      | some pl =>
        let d1 := (d.bump 0x16 (0x40 * e + 0x1C)).onMir e (fun x => { x with play := none })
        let d2 := d1.onPlay pl.sq pl.cid (fun p => { p with cur := p.cur.map (fun f => PlayFrame.decodeFound f p.kept) })
        onDev Dev.playPump (Mach.runPlay { m with dev := d2 } pl.sq pl.cid e (2 * (65536 + 8) + 2))) s

end Sys2Proof.Machine
end

