-- ==== Sys2Proof/Machine/Power.lean ====
section
/-! DEFINITION. POWER_SET (R439, R481 to R487): refusals, quiescing, switching domains off and on, and clock levels. -/

namespace Sys2Proof.Machine
open Sys2Proof

/-! ### What a domain holds (R144, R177, R205, R232, R333, R481, R485) -/

/-- The power domain that a register block dword belongs to; none in the always-on domain. -/
def regDomain (feat off : Nat) : Option Nat :=
  match feat with
  | 0x11 | 0x13 | 0x14 | 0x16 => some (off / 0x100)
  | 0x12 => some (off / 0x80)
  | 0x17 => some (if off < 0x100 then 7 else 6)
  | 0x18 => some 7
  | 0x1D => some (8 + off / 0x100)
  | 0x1E => some (20 + off / 0x40)
  | 0x1F => if off < 0x800 then some (24 + off / 0x200) else none
  | 0x21 => if off < 0x200 then some (18 + off / 0x100) else if 0x1000 ≤ off ∧ off < 0x1800 then some (18 + (off - 0x1000) / 0x400) else none
  | 0x22 => if off < 0x400 then some (14 + off / 0x100) else none
  | _ => none

/-- Change elements `lo` to `lo + n - 1` of a list. -/
def resetRange {α : Type} (x : α) (lo n : Nat) (l : List α) : List α := (List.range n).foldl (fun l i => modAt l (lo + i) (fun _ => x)) l

/-- The units of a domain go to their reset state when it is switched off (R485). -/
def Dev.resetUnits (d : Dev) (k : Nat) : Dev :=
  if k < 6 then
    d.onCodec (fun c => { c with pxe := resetRange {} (4 * k) 4 c.pxe, ent := resetRange {} (4 * k) 4 c.ent, mir := resetRange {} (4 * k) 4 c.mir,
                                 acb := resetRange {} (4 * k) 4 c.acb, bq := resetRange [] (4 * k) 4 c.bq })
  else if k = 6 then d.onProxy (fun p => { p with outs := List.replicate 3 {}, lat := 0 })
  else if k = 7 then d.onProxy (fun p => { p with luts := [none, none], bank := 0, lutPending := false, latched := {}, frames := [] })
  else if 14 ≤ k ∧ k < 18 then d.linkOff (k - 14)
  else if k = 18 ∨ k = 19 then d.onEth (k - 18) (fun _ => {})
  else if 24 ≤ k ∧ k < 28 then { d with dma := resetRange {} (8 * (k - 24)) 8 d.dma }
  else if 28 ≤ k ∧ k < 32 then
    let mask := d.reg64 0x10 0x008
    let d1 := d.setReg64 0x10 0x008 (mask - ((mask >>> (16 * (k - 28))) % 65536) <<< (16 * (k - 28)))
    d1.onPrism (fun p => { p with lanes := resetRange {} (16 * (k - 28)) 16 p.lanes })
  else if 32 ≤ k ∧ k < 36 then d.onCore (k - 32) (fun _ => {})
  else d

/-- A domain is switched off: its registers and counters go to their reset values (R485). -/
def Dev.switchOff (d : Dev) (k : Nat) : Dev :=
  let d1 := d.resetUnits k
  let d2 : Dev := { d1 with regs := d1.regs.filter (fun e => decide (regDomain (e.1 / 2 ^ 20) (e.1 % 2 ^ 20) ≠ some k)),
                            stats := d1.stats.filter (fun e => decide (statDomain e.1 ≠ some k)) }
  d2.onPower (fun p => { p with on := p.on &&& ~~~(BitVec.twoPow 38 k), quiescing := p.quiescing &&& ~~~(BitVec.twoPow 38 k),
                                level := modAt p.level k (fun _ => 0) })

/-- A domain is switched on at a clock level. -/
def Dev.switchOn (d : Dev) (k level : Nat) : Dev :=
  let d1 := d.onPower (fun p => { p with on := p.on ||| BitVec.twoPow 38 k, level := modAt p.level k (fun _ => level) })
  if 32 ≤ k ∧ k < 36 then d1.onCore (k - 32) (fun x => { x with powered := true, awake := true }) else d1

/-! ### Refusals (R439, R481, R482) -/

/-- Highest clock level of a domain (R481). -/
def topLevel (k : Nat) : Nat := if k < 6 then 3 else if k < 8 then 1 else 0

/-- Whether switching a domain off is refused with ADMISSION_DENIED (R481). -/
def Dev.offDenied (d : Dev) (k : Nat) : Bool :=
  let c0 := d.admitted
  if k < 6 then c0.any (fun e => e.2.engines.any (fun x => decide (x / 4 = k)))
  else if k < 8 then d.proxyCtx.isSome
  else if k < 10 then (d.mag (k - 8)).mounted
  else if k < 14 then (d.mag ((k - 10) / 2)).mounted
  else if k < 18 then (d.port (k - 14)).carries
  else if k < 20 then
    d.flows.any (fun f => decide (f.2.flowPort = k - 18)) ||
      (d.proxyCtx.isSome && ([0, 1].any (fun o => d.outOn o && bit (d.reg 0x17 (outBase o)).toNat (16 + (k - 18))) ||
        (d.outOn 2 && bit (d.reg 0x17 0x180).toNat (14 + (k - 18)))))
  else if k < 24 then true
  else if k < 28 then false
  else if k < 32 then c0.any (fun e => (d.inputLanes e.2.input).any (fun i => decide (i / 16 = k - 28)))
  else false

/-- The checks of POWER_SET on its fields: the entry byte of the first that fails (R439, R482). -/
def powerField (c : Cmd) : Option Nat :=
  let us := c.dw 1
  if 37 < c.target ∨ c.target = 36 ∨ c.target = 37 ∨ c.target = 32 then some 4
  else if topLevel c.target < bits (c.dw 0) 4 4 then some 32
  else if 10000 < us then some 36
  else none

/-- Run a POWER_SET with STATE `on` when no other one on its domain is in progress (R486). -/
def powerCmd (sq cid : Nat) (on : Bool) (f : Cmd → Nat → Mach → Mach) (m : Mach) : Mach :=
  runCmd sq cid 0x19 (fun c m =>
    if bit (c.dw 0) 0 ≠ on ∨ m.dev.power.ops.any (fun o => decide (o.domain = c.target)) then m
    else
      match powerField c with
      | some f => m.refuse c f
      | none => f c c.target m) m

/-- POWER_SET_OFF: STATE 0. The domain starts to quiesce, or is off already, or is refused (R439, R481, R484). -/
def execPowerSetOff (sq cid : Nat) (s : State) : Host.Outcome State Fault Refusal :=
  live (powerCmd sq cid false (fun c k m =>
    if !m.dev.powered k then m.complete c Status.ok
    else if m.dev.offDenied k then m.deny c 13 noStream
    else
      let us := if c.dw 1 = 0 then 100 else c.dw 1
      let op : PowerOp := { domain := k, off := true, level := 0, sq := sq, cid := cid, until_ := m.dev.clk + 1000 * us }
      { m with dev := (m.dev.keepRunning c).onPower (fun p =>
          { p with quiescing := p.quiescing ||| BitVec.twoPow 38 k, ops := p.ops ++ [op] }) })) s

/-- POWER_SET_ON: STATE 1. The domain is switched on within 200 µs, or takes a clock level: a codec group at the next tick (R439,
R482, R483, R485). -/
def execPowerSetOn (sq cid : Nat) (s : State) : Host.Outcome State Fault Refusal :=
  live (powerCmd sq cid true (fun c k m =>
    let d := m.dev
    let level := bits (c.dw 0) 4 4
    let now := d.power.level.getD k 0
    if !d.powered k then Mach.complete { m with dev := d.switchOn k level } c Status.ok
    else if level = now then m.complete c Status.ok
    else if k < 6 then
      let levels := modAt d.power.level k (fun _ => level)
      match Dev.checkEngines { d with power := { d.power with level := levels } } d.admitted with
      | some (n, a) => m.deny c 1 noStream n a
      | none =>
        let op : PowerOp := { domain := k, off := false, level := level, sq := sq, cid := cid, until_ := 0 }
        { m with dev := (d.keepRunning c).onPower (fun p => { p with ops := p.ops ++ [op] }) }
    else
      Mach.complete { m with dev := d.onPower (fun p => { p with level := modAt p.level k (fun _ => level) }) } c Status.ok)) s

/-! ### Draining (R484) -/

/-- Whether a quiescing domain has drained: nothing is in progress in it. -/
def Dev.drained (d : Dev) (k : Nat) : Bool :=
  if k < 6 then
    (List.range 4).all (fun i =>
      let e := 4 * k + i
      (d.pix e).job.isNone && (d.entE e).job.isNone && (d.mirE e).job.isNone && (d.mirE e).play.isNone)
  else if k = 6 then d.proxy.deliveries.isEmpty
  else if 14 ≤ k ∧ k < 18 then
    let q := d.port (k - 14)
    q.replay.isEmpty && q.ctrlQ.isEmpty && q.cellQ.isEmpty && q.tickQ.isEmpty
  else if k = 18 ∨ k = 19 then (d.ethPort (k - 18)).granted.isNone && (d.ethPort (k - 18)).queues.all (fun q => q.units.isEmpty)
  else if 24 ≤ k ∧ k < 28 then (List.range 8).all (fun i => decide ((d.dmaCh (8 * (k - 24) + i)).state = .idle))
  else if 32 ≤ k ∧ k < 36 then decide ((d.intr.core (k - 32)).level = 0)
  else true

/-- A POWER_SET in progress ends. -/
def Dev.endPower (d : Dev) (o : PowerOp) (status : Nat) : Dev :=
  (d.onPower (fun p => { p with ops := p.ops.erase o, quiescing := p.quiescing &&& ~~~(BitVec.twoPow 38 o.domain) })).complete o.sq o.cid status

/-- QUIESCE_DONE: domain `k` has drained `dt` ns after the previous command, within its timeout, and is switched off; held transfers
then find it powered off (R484). -/
def execQuiesceDone (k dt : Nat) (s : State) : Host.Outcome State Fault Refusal :=
  liveDev (fun d =>
    match d.power.ops.find? (fun o => o.off && decide (o.domain = k)) with
    | none => d
    | some o =>
      if !d.drained k ∨ o.until_ < d.clk + dt then d
      else ((d.advance dt).switchOff k).endPower o Status.ok) s

/-- QUIESCE_TIMEOUT: domain `k` has not drained within its timeout and stays on (R484). -/
def execQuiesceTimeout (k : Nat) (s : State) : Host.Outcome State Fault Refusal :=
  liveDev (fun d =>
    match d.power.ops.find? (fun o => o.off && decide (o.domain = k)) with
    | none => d
    | some o =>
      if d.drained k then d
      else ((d.advanceTo o.until_).bump 0x20 0x24).endPower o Status.busyQuiesce) s

end Sys2Proof.Machine
end

