-- ==== Sys2Proof/Machine/Features.lean ====
section
/-! DEFINITION. SET_FEATURE and GET_FEATURE (R432): the feature blocks, the checks of every field, the rules of effect. -/

namespace Sys2Proof.Machine
open Sys2Proof

/-! ### Blocks and writes -/

/-- Bytes of a feature's block, which ends after its last register; 0 for a reserved number. -/
def blockLen (feat : Nat) : Nat := (rowsOf feat).foldl (fun n r => max n (r.off + r.stride * (r.cnt - 1) + 4)) 0

/-- The dwords that a SET_FEATURE carries, from an offset of a block on. -/
structure FeatWrite where
  off : Nat
  data : List Nat
  deriving DecidableEq, Repr

/-- The dword written at an offset. -/
def FeatWrite.find (w : FeatWrite) (o : Nat) : Option Nat := if o < w.off ∨ o % 4 ≠ 0 then none else w.data[(o - w.off) / 4]?

/-- Whether the dword at an offset is covered. -/
def FeatWrite.covers (w : FeatWrite) (o : Nat) : Bool := (w.find o).isSome

/-- The dword written at an offset, 0 where none is. -/
def FeatWrite.val (w : FeatWrite) (o : Nat) : Nat := (w.find o).getD 0

/-- Whether some covered register of an array fails: registers `off + stride × i` for `i < n` whose index satisfies `bad`. -/
def FeatWrite.bad (w : FeatWrite) (n stride off : Nat) (bad : Nat → Bool) : Bool :=
  (List.range n).any (fun i => w.covers (off + stride * i) && bad i)

/-- The covered offsets. -/
def FeatWrite.offs (w : FeatWrite) : List Nat := (List.range w.data.length).map (fun i => w.off + 4 * i)

/-- A dword register after a write: RW bits take the value, W1C bits that are written 1 clear (R9). -/
def RegRow.merge (r : RegRow) (old v : Word) : Word := ((old &&& ~~~(word r.rw)) ||| (v &&& word r.rw)) &&& ~~~(v &&& word r.w1c)

/-- Whether a register takes writes at all. -/
def RegRow.writes (r : RegRow) : Bool := decide (r.rw ≠ 0 ∨ r.w1c ≠ 0 ∨ r.act ≠ 0)

/-- Whether a write to a register is discarded: a reserved tick source (R16), or the shadow set of an armed DMA channel (R479). -/
def Dev.discards (d : Dev) (feat off v : Nat) : Bool :=
  (decide (feat = 0x01 ∧ off = 0x100 ∧ d.boot.role ≠ 2) && decide (4 ≤ v % 8)) ||
  (decide (feat = 0x1F ∧ off < 0x800 ∧ 0x10 ≤ off % 0x40 ∧ off % 0x40 < 0x28) && bit (d.reg 0x1F (off / 0x40 * 0x40 + 0x28)).toNat 0)

/-- The registers as they stand after a write (R432). -/
def Dev.written (d : Dev) (feat : Nat) (w : FeatWrite) : Dev :=
  w.offs.foldl (fun n o =>
    match rowAt feat o with
    | some r =>
      if (r.rw ≠ 0 ∨ r.w1c ≠ 0) ∧ !d.discards feat o (w.val o) then n.setReg feat o (r.merge (n.reg feat o) (word (w.val o))) else n
    | none => n) d

/-- Whether a write covers a field of a unit whose power domain is off (R144, R177, R205, R232, R485). -/
def Dev.writesOff (d : Dev) (feat : Nat) (w : FeatWrite) : Bool :=
  w.offs.any (fun o =>
    match rowAt feat o, regDomain feat o with
    | some r, some k => r.writes && !d.powered k
    | _, _ => false)

/-! ### Field checks: whether a write is refused with INVALID_FIELD. `d` is the device before it, `n` the device after. -/

/-- Whether a number lies in a range. -/
def within (x lo hi : Nat) : Bool := decide (lo ≤ x) && decide (x ≤ hi)

/-- N and D of a tick rate within R17: 1 to 65,535 each and P from 400 µs to 1 s. -/
def rateFits (w : Word) : Bool :=
  let n := fld w 16 16
  let k := fld w 0 16
  decide (1 ≤ n ∧ 1 ≤ k) && decide (400 * n ≤ 1000000 * k) && decide (k ≤ n)

/-- Feature 0x01 (R16 to R19, R489, R493, R494, R536). -/
def badTime (d n : Dev) (w : FeatWrite) : Bool :=
  let worker := decide (d.boot.role = 2)
  let src := w.val 0x100 % 8
  let disc := n.discipline
  let rate := n.reg 0x01 0x104
  (w.covers 0x00C && (worker || decide (4 ≤ w.val 0x00C % 8) || !within (fld (n.reg 0x01 0x00C) 16 9) 1 500)) ||
  (w.covers 0x100 && (if worker then decide (src ≠ 3) else decide (src = 3) || (decide (src = 2) && decide (disc ≠ 1 ∧ disc ≠ 2)))) ||
  (w.covers 0x104 && (worker || !rateFits rate)) ||
  (worker && (w.covers 0x110 || w.covers 0x114)) ||
  (w.covers 0x108 && (let width := fld (n.reg 0x01 0x108) 24 8
    decide (width = 0) || decide (1000000 * fld rate 0 16 ≤ 2 * width * fld rate 16 16)))

/-- A lane mask within one input: its lowest lanes, 0 or a power of two of them (R47, R51). -/
def spanOk (mask lo len : Nat) : Bool :=
  let x := bits mask lo len
  decide (x = 0) || ([1, 2, 4, 8, 16, 32, 64].any (fun k => decide (k ≤ len ∧ x = 2 ^ k - 1)))

/-- Feature 0x10 (R40, R41, R47, R51, R55, R69). -/
def badPrism (_d n : Dev) (w : FeatWrite) : Bool :=
  let mode := n.prmMode
  let rate := fld (n.reg 0x10 0) 8 8
  let mask := n.reg64 0x10 0x008
  let lanes := w.covers 0x008 || w.covers 0x00C
  (w.covers 0 && (decide (mode = 3) || decide (fld (n.reg 0x10 0) 4 2 = 3) ||
    !(if mode = 1 then within rate 20 100 else if mode = 2 then within rate 10 90 else within rate 10 100))) ||
  (lanes && (List.range 64).any (fun i => bit mask i && !n.powered (28 + i / 16))) ||
  ((w.covers 0 || lanes) && decide (mode = 1 ∨ mode = 2) &&
    !((List.range 4).all (fun g => spanOk mask (n.inputSpan g).1 (n.inputSpan g).2))) ||
  w.bad 4 4 0x020 (fun g => !within (n.inFmt g).2 8 16 || decide ((n.inFmt g).1 = 7))

/-- Feature 0x11 (R144). -/
def badPxe (_d n : Dev) (w : FeatWrite) : Bool := w.bad 24 0x40 0x0C (fun e => decide (fld (n.reg 0x11 (0x40 * e + 0x0C)) 0 8 = 0))

/-- Feature 0x15 (R153, R177). -/
def badAcb (_d n : Dev) (w : FeatWrite) : Bool :=
  w.bad 64 0x40 0x00 (fun s => decide (12 < fld (n.acbCfg s) 19 5)) || w.bad 64 0x40 0x0C (fun s => decide (4194496 < n.metaMax s))

/-- Whether both halves of a dword are even. -/
def evenHalves (x : Word) : Bool := decide (fld x 0 1 = 0 ∧ fld x 16 1 = 0)

/-- Whether a crop or size register of an output breaks R217. -/
def badWindow (n : Dev) (w : FeatWrite) (xy wh size : Nat) : Bool :=
  (w.covers xy && !evenHalves (n.reg 0x17 xy)) || (w.covers wh && !evenHalves (n.reg 0x17 wh)) ||
  (w.covers size && decide (fld (n.reg 0x17 size) 0 3 ≠ 0 ∨ fld (n.reg 0x17 size) 16 3 ≠ 0))

/-- Feature 0x17 (R206, R217, R222, R230, R232). -/
def badProxy (_d n : Dev) (w : FeatWrite) : Bool :=
  let r := n.reg 0x17
  (w.covers 0x004 && (!([1, 14, 16, 18].contains (fld (r 0x004) 24 8)) || !([1, 9].contains (fld (r 0x004) 16 4)))) ||
  (w.covers 0x008 && !within (fld (r 0x008) 0 7) 1 64) ||
  w.bad 2 0x40 0x100 (fun o => !within (fld (r (0x100 + 0x40 * o)) 0 7) 1 64 || !within (fld (r (0x100 + 0x40 * o)) 20 7) 96 127) ||
  w.bad 2 0x40 0x114 (fun o => !within (fld (r (0x114 + 0x40 * o)) 0 12) 10 4000) ||
  (w.covers 0x180 && (!within (fld (r 0x180) 0 7) 1 64 || !within (fld (r 0x180) 17 7) 96 127)) ||
  badWindow n w 0x108 0x10C 0x110 || badWindow n w 0x148 0x14C 0x150 || badWindow n w 0x188 0x18C 0x190

/-- Feature 0x1A (R285). -/
def badFabric (_d n : Dev) (w : FeatWrite) : Bool :=
  w.bad 8 16 0x100 (fun k => let x := n.mirCfg k
    decide (fld x 28 2 = 3) || decide (fld x 22 2 = 3) || (!bit x.toNat 30 && decide (127 < fld x 0 14))) ||
  w.bad 8 16 0x104 (fun k => let t := fld (n.reg 0x1A (0x104 + 16 * k)) 23 9
    !(decide (t = 0) || within t 32 256))

/-- Feature 0x1C (R333). -/
def badFlash (_d n : Dev) (w : FeatWrite) : Bool :=
  w.covers 0 && (!within (fld (n.reg 0x1C 0) 16 7) 30 90 || !within (fld (n.reg 0x1C 0) 0 10) 100 1000)

/-- Feature 0x1F (R487). -/
def badDma (_d n : Dev) (w : FeatWrite) : Bool :=
  w.bad 32 0x40 0x00 (fun c => decide (fld (n.reg 0x1F (0x40 * c)) 0 2 = 0)) ||
  w.bad 32 0x40 0x10 (fun c => decide (w.val (0x40 * c + 0x10) % 32 ≠ 0)) ||
  w.bad 32 0x40 0x14 (fun c => decide (256 ≤ w.val (0x40 * c + 0x14))) ||
  w.bad 32 0x40 0x20 (fun c => decide (w.val (0x40 * c + 0x20) % 256 ≠ 0)) ||
  w.bad 32 0x40 0x30 (fun c => decide (w.val (0x40 * c + 0x30) % 4096 ≠ 0))

/-- Whether a four-bit two's complement number lies in a range. -/
def nibbleIn (x : Nat) (lo hi : Int) : Bool :=
  let v : Int := if x < 8 then x else (x : Int) - 16
  decide (lo ≤ v ∧ v ≤ hi)

/-- MAX_FRAME of Ethernet port `e` (R512). -/
def Dev.maxFrameOf (d : Dev) (e : Nat) : Nat := fld (d.reg 0x21 (0x100 * e)) 0 14

/-- Feature 0x21 (R495, R496, R498, R500, R502, R503, R512). -/
def badEth (d n : Dev) (w : FeatWrite) : Bool :=
  let r := n.reg 0x21
  let rates : Nat → Bool := fun base => w.bad 4096 16 base (fun i => !within (r (base + 16 * i)).toNat 1 25000000)
  w.bad 2 0x100 0x00 (fun e => let x := r (0x100 * e)
    !within (fld x 0 14) 1522 9216 || decide (fld x 27 2 = 3) || (decide (fld x 27 2 = 2) && !bit x.toNat 29)) ||
  w.bad 2 0x100 0x08 (fun e => decide (100000 < fld (r (0x100 * e + 8)) 0 17)) ||
  [0, 1].any (fun e => w.bad 8 4 (0x100 * e + 0x10) (fun q => let x := r (0x100 * e + 0x10 + 4 * q)
    decide (fld x 30 2 = 0) || decide (fld x 0 24 < 9216))) ||
  w.bad 2 0x100 0x30 (fun e => !within (fld (r (0x100 * e + 0x30)) 0 9) 1 256) ||
  w.bad 2 0x100 0x34 (fun e => bit (w.val (0x100 * e + 0x34)) 0 && !(n.gclInactive e).ok) ||
  w.bad 2 0x100 0x40 (fun e => let x := r (0x100 * e + 0x40)
    let role := fld x 30 2
    (decide (role = 1 ∨ role = 3) && (decide (n.discipline ≠ e + 1) || decide (d.boot.role = 2))) || decide (127 < fld x 16 8) ||
      !nibbleIn (fld x 8 4) (-7) 1 || !nibbleIn (fld x 4 4) (-3) 1 || !nibbleIn (fld x 0 4) (-7) 5) ||
  rates 0x10000 || rates 0x20000 ||
  d.flows.any (fun f => decide (f.2.flowDir = 0 ∧ f.2.flowBucket ≠ 0xFFFF) && w.covers (bucketReg false f.2.flowBucket + 4) &&
    decide ((r (bucketReg false f.2.flowBucket + 4)).toNat < n.maxFrameOf f.2.flowPort))

/-- Feature 0x22 (R513, R527, R536, R543). -/
def badLink (d n : Dev) (w : FeatWrite) : Bool :=
  let r := n.reg 0x22
  let role := d.boot.role
  let alone := decide (role ≠ 1 ∧ role ≠ 2)
  w.bad 4 0x100 0x00 (fun p => decide (100000 < fld (r (0x100 * p)) 0 17) || (alone && bit (r (0x100 * p)).toNat 31)) ||
  (w.covers 0x804 && (decide (role ≠ 1) || !within (fld (r 0x804) 0 10) 50 1000)) ||
  w.bad 2 4 0x820 (fun e => decide (role ≠ 2) || (bit (r (0x820 + 4 * e)).toNat 31 && !within (fld (r (0x820 + 4 * e)) 0 25) 1 25000000)) ||
  w.bad 2 4 0x828 (fun _ => decide (role ≠ 1))

/-- Whether a LUT load is refused: not the whole block, a failed CRC, or a nonzero bit outside the fields of a node word (R215). -/
def badLut (w : FeatWrite) : Bool :=
  let nodes := w.data.take 71874
  decide (w.off ≠ 0 ∨ w.data.length ≠ 71875) ||
  decide (crc32c 0 (nodes.map (leBytes 4)).flatten ≠ w.val 287496) ||
  (List.range 35937).any (fun i => decide (w.val (8 * i) &&& 0xF000F000 ≠ 0 ∨ 4096 ≤ w.val (8 * i + 4)))

/-- Whether a write is refused with INVALID_FIELD. -/
def Dev.refuses (d n : Dev) (feat : Nat) (w : FeatWrite) : Bool :=
  d.writesOff feat w ||
  (match feat with
   | 0x01 => badTime d n w
   | 0x10 => badPrism d n w
   | 0x11 => badPxe d n w
   | 0x15 => badAcb d n w
   | 0x17 => badProxy d n w
   | 0x18 => badLut w
   | 0x19 => w.covers 0x40 && decide (24 < bits (w.val 0x40) 8 5)
   | 0x1A => badFabric d n w
   | 0x1C => badFlash d n w
   | 0x1E => w.bad 4 0x40 0x04 (fun c => !within (fld (n.reg 0x1E (0x40 * c + 4)) 0 8) 1 168)
   | 0x1F => badDma d n w
   | 0x21 => badEth d n w
   | 0x22 => badLink d n w
   | _ => false)

/-! ### State checks: whether a write is refused with ADMISSION_DENIED, and the stream index of its report -/

/-- Whether a register changes. -/
def changes (d n : Dev) (feat off : Nat) : Bool := decide (d.reg feat off ≠ n.reg feat off)

/-- Feature 0x01 (R20, R494, R537). -/
def denyTime (d n : Dev) (w : FeatWrite) : Bool :=
  let regs := [0x100, 0x104, 0x110, 0x114]
  (d.anyCapture && regs.any (changes d n 0x01)) ||
  (decide (d.boot.role = 1) && regs.any w.covers && d.link.workers.any (fun x => x.reachable && decide (0 < x.armed)))

/-- Feature 0x10 (R42). -/
def denyPrism (d n : Dev) : Bool :=
  (d.anyCapture && [0x000, 0x008, 0x00C].any (changes d n 0x10)) ||
  (List.range 4).any (fun g => changes d n 0x10 (0x020 + 4 * g) && d.streams.any (fun e => e.2.active && decide (e.2.input = g)))

/-- Whether a flow or an output of the proxy context names Ethernet port `e` (R512). -/
def Dev.ethNamed (d : Dev) (e : Nat) : Bool :=
  d.flows.any (fun f => decide (f.2.flowPort = e)) ||
  (d.proxyCtx.isSome && ([0, 1].any (fun o => bit (d.reg 0x17 (outBase o)).toNat (16 + e) && d.outOn o) ||
    (bit (d.reg 0x17 0x180).toNat (14 + e) && d.outOn 2)))

/-- The fields of feature 0x17 that are not marked fixed (R210, R232). -/
def looseProxy (off : Nat) : Bool := decide (0x00C ≤ off) && decide (off < 0x034)

/-- Whether a write is refused by the state of what it configures. -/
def Dev.deniesWrite (d n : Dev) (feat : Nat) (w : FeatWrite) : Option Nat :=
  let yes : Bool → Option Nat := fun b => if b then some noStream else none
  match feat with
  | 0x01 => yes (denyTime d n w)
  | 0x10 => yes (denyPrism d n)
  | 0x15 => (d.streams.find? (fun e => e.2.active && [0, 4, 8, 12].any (fun o => w.covers (0x40 * e.1 + o)))).map (fun e => e.1)
  | 0x17 => yes (d.proxyCtx.isSome && w.offs.any (fun o => !looseProxy o && (match rowAt 0x17 o with
      | some r => r.writes
      | none => false)))
  | 0x1C => yes (w.covers 0 && d.anyCapture)
  | 0x1F => yes ((List.range 32).any (fun c => (w.covers (0x40 * c) || w.covers (0x40 * c + 0x30) || w.covers (0x40 * c + 0x34)) &&
      (decide ((d.dmaCh c).state ≠ .idle) || bit (d.reg 0x1F (0x40 * c + 0x28)).toNat 0)))
  | 0x21 => yes ([0, 1].any (fun e => d.ethNamed e && (w.covers (0x100 * e) || (List.range 8).any (fun q => w.covers (0x100 * e + 0x10 + 4 * q)))))
  | _ => none

/-! ### Rules of effect -/

/-- Do something for each covered register of an array, by rising index. -/
def FeatWrite.each {α : Type} (w : FeatWrite) (n stride off : Nat) (f : Nat → Nat → α → α) (x : α) : α :=
  (List.range n).foldl (fun x i => match w.find (off + stride * i) with
    | some v => f i v x
    | none => x) x

/-- Lanes and groups train anew when the mode, the group count or the lane rate changes, and lanes whose enable changes with their
group (R44, R49). -/
def effectPrism (d n : Dev) : Dev :=
  if changes d n 0x10 0 then n.onPrism (fun p => { p with lanes := List.replicate 64 {}, groups := List.replicate 4 {} })
  else
    let old := d.reg64 0x10 8
    let new := n.reg64 0x10 8
    ((List.range 64).filter (fun i => bit old i != bit new i)).foldl (fun x i =>
      (x.onPrism (fun p => { p with lanes := modAt p.lanes i (fun _ => {}), groups := modAt p.groups (d.groupOf i) (fun _ => {}) }))) n

/-- A cleared PLAYBACK_EN stops the playback band in progress, which is decoded again later (R187, R205). -/
def effectMirror (w : FeatWrite) (n : Dev) : Dev :=
  w.each 24 0x40 0x0C (fun e v x => if bit v 0 then x else x.onMir e (fun y => { y with play := none })) n

/-- A change of a port's PTP role: the clock starts again in the state of its role (R496). -/
def effectPtp (d : Dev) (w : FeatWrite) (n : Dev) : Dev :=
  w.each 2 0x100 0x40 (fun e _ x =>
    let x1 := if d.ptpRole e = x.ptpRole e then x
      else x.onPtp e (fun p => { p with portState := if x.ptpRole e = 0 then 3 else 4, best := none, syncAt := none, reqAt := none, t21 := none, delay := none })
    x1.ptpSelect e) n

/-- The effects of a write on features whose registers act at once. -/
def Mach.effects (m : Mach) (d : Dev) (feat : Nat) (w : FeatWrite) : Mach :=
  let n := m.dev
  match feat with
  | 0x01 =>
    let newSource := changes d n 0x01 0x100
    onDev (fun n => if newSource || [0x104, 0x110, 0x114].any w.covers then n.retime newSource else n) m
  | 0x10 => { m with dev := effectPrism d n }
  | 0x16 => { m with dev := effectMirror w n }
  | 0x18 => onDev (fun n => n.onProxy (fun p => { p with luts := modAt p.luts (1 - p.bank) (fun _ => some ((w.data.take 71874).map (leBytes 4)).flatten), lutPending := true })) m
  | 0x19 => onDev (w.each 1 4 0x40 (fun _ v x => x.hostEvent v)) m
  | 0x1F =>
    let late := onDev (fun n => (List.range 32).foldl (fun x c =>
      let armed := bit (d.reg 0x1F (0x40 * c + 0x28)).toNat 0
      let hit := (List.range 6).any (fun i => w.covers (0x40 * c + 0x10 + 4 * i))
      let x1 := if bit (w.val (0x40 * c + 4)) 16 then x.onDma c (fun y => { y with shadowLate := false }) else x
      if armed && hit then x1.onDma c (fun y => { y with shadowLate := true }) else x1) n) m
    let flags := onDev (fun x => ((List.range 64).filter (fun v => decide (8 ≤ v) && bit (w.val 0x808 + 2 ^ 32 * w.val 0x80C) v &&
      !bit x.dmaEvents v)).foldl Dev.setEvent x) late
    w.each 32 0x40 0x28 (fun c v x => x.dmaArm c (bit v 0)) flags
  | 0x21 =>
    let gates := onDev (w.each 2 0x100 0x34 (fun e v x => if bit v 0 then x.gclCommit e else x)) m
    let shapers := onDev (w.each 4096 16 0x1000C (fun i v x => if bit v 31 then x.resetShaper i else x)) gates
    onDev (effectPtp d w) shapers
  | 0x22 =>
    onDev (w.each 4 0x100 0x00 (fun p _ x =>
      let was := bit (d.reg 0x22 (0x100 * p)).toNat 31
      let is := bit (x.reg 0x22 (0x100 * p)).toNat 31
      if is && !was then x.linkTrain p else if was && !is then x.linkOff p else x)) m
  | _ => m

/-- SET_FEATURE (R432): nothing is written when a field is refused; a write of a relay on a worker ends with the manager's answer
(R528). -/
def Mach.setFeature (m : Mach) (c : Cmd) : Mach :=
  let feat := c.dw 0 % 256
  let off := c.dw 1
  let len := c.dataLen
  if blockLen feat = 0 then m.refuse c 32
  else if off % 4 ≠ 0 ∨ blockLen feat < off then m.refuse c 36
  else if len % 4 ≠ 0 ∨ blockLen feat < off + len then m.refuse c 24
  else if !m.mem.dataOk c len then m.refuse c 16
  else
    let bytes := m.mem.dataIn c len
    let w : FeatWrite := { off := off, data := (wordsOf bytes (len / 4)).map (fun x => x.toNat) }
    let d := m.dev
    let n := d.written feat w
    let relays := if feat = 0x22 then [0, 1].filter (fun e => w.covers (0x820 + 4 * e)) else []
    if d.refuses n feat w then m.refuse c 16
    else
      match d.deniesWrite n feat w with
      | some s => m.deny c 13 s
      | none =>
        if relays.any (fun e => bit (w.val (0x820 + 4 * e)) 31) && (!d.link.enumerated || !(d.port 0).carries) then m.complete c Status.linkDown
        else
          let m1 := Mach.effects { m with dev := n } d feat w
          let step : (Bool × Dev) → Nat → (Bool × Dev) := fun a e =>
            let r := a.2.relayWrite e (w.val (0x820 + 4 * e)) (some (c.sq, c.cid))
            (a.1 || r.1, r.2)
          let r := relays.foldl step (false, m1.dev)
          let m2 : Mach := { m1 with dev := r.2 }
          if r.1 then { m2 with dev := m2.dev.keepRunning c } else m2.complete c Status.ok

/-- SET_FEATURE (R432). -/
def execSetFeature (sq cid : Nat) (s : State) : Host.Outcome State Fault Refusal :=
  live (runCmd sq cid 0x06 (fun c m => m.setFeature c)) s

/-! ### GET_FEATURE -/

/-- The bytes of the active LUT, the identity where none has been loaded, with their CRC (R215). -/
def Dev.lutBytes (d : Dev) : List Byte :=
  let nodes := match d.proxy.luts.getD d.proxy.bank none with
    | some l => l
    | none => ((List.range 35937).map (fun i =>
        let at_ := [i % 33, i / 33 % 33, i / 1089]
        leBytes 8 (lutNode none at_ 0 + 2 ^ 16 * lutNode none at_ 1 + 2 ^ 32 * lutNode none at_ 2))).flatten
  nodes ++ leBytes 4 (crc32c 0 nodes)

/-- The value of a register that its unit computes; none where it holds a value of its own. -/
def Mach.unitWord (m : Mach) (feat off : Nat) : Option Word :=
  let d := m.dev
  match feat with
  | 0x01 => d.timeWord off
  | 0x10 => d.prmWord off
  | 0x11 => d.pxeWord off
  | 0x12 => d.bqWord off
  | 0x13 => d.entWord off
  | 0x14 => d.acbWord off
  | 0x15 => d.acbStreamWord off
  | 0x16 => d.mirWord off
  | 0x17 => d.prxWord off
  | 0x19 => d.seqWord off
  | 0x1A => d.fabWord off
  | 0x1B => d.poolWord off
  | 0x1C => if off = 0x10 then some (d.demandWord 0) else if off = 0x14 then some (d.demandWord 1) else m.flhWord off
  | 0x1D => m.magWord off
  | 0x1E => d.drcWord off
  | 0x1F => d.dmaWord off
  | 0x20 => d.pwrWord off
  | 0x21 => d.ethWord off
  | 0x22 => d.lnkWord off
  | _ => none

/-- The dword that a read of a feature block returns (R9, R10, R485): a unit that is off reads as at reset. -/
def Mach.featWord (m : Mach) (feat off : Nat) : Word :=
  match rowAt feat off with
  | none => 0
  | some r =>
    let on := match regDomain feat off with
      | some k => m.dev.powered k
      | none => true
    let mac := decide (feat = 0x21 ∧ off < 0x200 ∧ (off % 0x100 = 0x58 ∨ off % 0x100 = 0x5C))
    if on || mac then (m.unitWord feat off).getD (m.dev.reg feat off) else word r.reset

/-- A read clears the RC fields that it covers (R9). -/
def Dev.readClears (d : Dev) (feat : Nat) (offs : List Nat) : Dev :=
  offs.foldl (fun d o =>
    match rowAt feat o with
    | some r => if r.rc then d.setReg feat o 0 else d
    | none => d) d

/-- GET_FEATURE (R432). -/
def Mach.getFeature (m : Mach) (c : Cmd) : Mach :=
  let feat := c.dw 0 % 256
  let off := c.dw 1
  let len := c.dataLen
  if blockLen feat = 0 then m.refuse c 32
  else if off % 4 ≠ 0 ∨ blockLen feat < off then m.refuse c 36
  else if len % 4 ≠ 0 ∨ blockLen feat < off + len then m.refuse c 24
  else if !m.mem.dataOk c len then m.refuse c 16
  else
    let offs := (List.range (len / 4)).map (fun i => off + 4 * i)
    let data := if feat = 0x18 then slice m.dev.lutBytes off len else (offs.map (fun o => leBytes 4 (m.featWord feat o).toNat)).flatten
    Mach.complete { dev := m.dev.readClears feat offs, mem := m.mem.dataOut c data } c Status.ok

/-- GET_FEATURE (R432). -/
def execGetFeature (sq cid : Nat) (s : State) : Host.Outcome State Fault Refusal :=
  live (runCmd sq cid 0x07 (fun c m => m.getFeature c)) s

end Sys2Proof.Machine
end

