-- ==== Sys2Proof/Machine/Admin.lean ====
section
/-! DEFINITION. ABORT (R461, R476), IDENTIFY (R431), GET_LOG (R433, R434), FW_LOAD and FW_COMMIT (R435, R436). -/

namespace Sys2Proof.Machine
open Sys2Proof

/-! ### ABORT -/

/-- What ABORTED leaves of the output of a command that returns data: undefined bytes (R461). -/
def Mach.abortedData (m : Mach) (t : Cmd) : Mach :=
  if t.opcode ∈ [0x00, 0x05, 0x07, 0x21, 0x61] ∧ m.mem.dataOk t t.dataLen then
    { dev := m.dev.afterDraw, mem := m.mem.dataOut t (leBytes t.dataLen m.dev.drawn) }
  else m

/-- End a target that ABORT takes before its completion stage, with the effect of R461; none once it has entered that stage. -/
def Mach.abortTarget (m : Mach) (t : Cmd) : Option Mach :=
  let d := m.dev
  let me : Nat × Nat → Bool := fun k => decide (k = (t.sq, t.cid))
  let done : Dev → Option Mach := fun d => some { m with dev := d.complete t.sq t.cid Status.aborted }
  if t.phase = .fetched ∨ t.phase = .started then
    let m1 := m.abortedData t
    some { m1 with dev := (m1.dev.complete t.sq t.cid Status.aborted).startReady t.sq }
  else
    match t.opcode with
    | 0x08 => done (d.onHost (fun h => { h with aer := h.aer.filter (fun x => decide (x ≠ t.cid)) }))
    | 0x49 =>
      match d.streams.find? (fun e => e.2.start.any (fun x => me x.2)) with
      | some e => done ((d.modCap e.1 (fun c => { c with start := none })).onLink (fun l => { l with bcast := l.bcast.filter (fun b => !me (b.sq, b.cid)) }))
      | none => none
    | 0x4A =>
      match d.streams.find? (fun e => e.2.stop.any (fun x => me x.2) && e.2.active && !e.2.draining) with
      | some e => done (d.modCap e.1 (fun c => { c with stop := none }))
      | none => none
    | 0x19 => (d.power.ops.find? (fun o => me (o.sq, o.cid))).map (fun o => { m with dev := d.endPower o Status.aborted })
    | 0x68 =>
      match (List.range 32).find? (fun c => (d.dmaCh c).cmd.any me) with
      | some c => some (m.dmaEnd c 1)
      | none => ((List.range 32).find? (fun c => (d.dmaCh c).armCmd.any me)).map (fun c => m.dmaArm c false)
    | _ => none

/-- ABORT (R461). A playback ends at its next frame boundary, and its ABORT after it. -/
def Mach.abort (m : Mach) (c : Cmd) : Mach :=
  let cid := c.dw 0 % 65536
  if (m.dev.sq c.target).isNone then m.complete c Status.invalidQueue 0 { field := 4 }
  else
    match m.dev.cmd c.target cid with
    | none => m.complete c Status.alreadyComplete
    | some t =>
      if t.opcode = 0x09 then m.refuse c 32
      else if t.opcode = 0x60 ∧ t.phase = .running then
        let mark : Play → Play := fun p => if p.sq = t.sq ∧ p.cid = t.cid then { p with abortBy := some (c.sq, c.cid) } else p
        let d := (m.dev.onCodec (fun x => { x with plays := x.plays.map mark })).keepRunning c
        if m.dev.codec.plays.any (fun p => decide (p.sq = t.sq ∧ p.cid = t.cid) && p.abortBy.isNone) then { m with dev := d }
        else m.complete c Status.alreadyComplete
      else
        match m.abortTarget t with
        | some m1 => m1.complete c Status.ok
        | none => m.complete c Status.alreadyComplete

/-- ABORT (R461). -/
def execAbort (sq cid : Nat) (s : State) : Host.Outcome State Fault Refusal :=
  live (runCmd sq cid 0x09 (fun c m => m.abort c)) s

/-! ### IDENTIFY -/

/-- The 4,096 bytes of IDENTIFY (R431). -/
def Mach.identity (m : Mach) : List Byte :=
  let d := m.dev
  let rate := d.reg 0x01 0x104
  padTo 4096 (leBytes 4 (m.bar0Word 0x00).toNat ++ leBytes 4 (m.bar0Word 0x04).toNat ++ leBytes 4 (m.bar0Word 0x08).toNat ++
    leBytes 4 d.boot.fwVersion ++ uidBytes ++ leBytes 2 d.deviceId ++ leBytes 1 d.boot.role ++ leBytes 1 d.boot.state.code ++
    leBytes 2 (ctxTotal - d.ctxUsed) ++ leBytes 1 (64 - d.streams.length) ++ [0] ++ leBytes 8 d.dramUsable ++
    leBytes 8 (Config.vendorOpcodes % 2 ^ 64) ++ leBytes 2 (fld rate 16 16) ++ leBytes 2 (fld rate 0 16) ++ leBytes 4 d.frameNow)

/-- IDENTIFY (R431). -/
def execIdentify (sq cid : Nat) (s : State) : Host.Outcome State Fault Refusal :=
  live (runCmd sq cid 0x00 (fun c m =>
    if c.dataLen < 4096 then m.refuse c 24
    else if !m.mem.dataOk c 4096 then m.refuse c 16
    else Mach.complete { m with mem := m.mem.dataOut c m.identity } c Status.ok)) s

/-! ### GET_LOG -/

/-- Record of a firmware slot (R433): its versions, roles, state and the result of R373. -/
def slotRecord (otp : Otp) (role : Nat) (img : Option (List Byte)) : List Byte :=
  match img with
  | none => zeros 32
  | some l =>
    if l.take 4 = [0xFF, 0xFF, 0xFF, 0xFF] then zeros 32
    else
      let head := leBytes 4 (rd l 12 4) ++ leBytes 4 (rd l 8 4) ++ leBytes 1 (rd l 25 1)
      match checkImage otp role l with
      | .good _ _ => padTo 32 (head ++ leBytes 1 1 ++ [0])
      | .bad cause => padTo 32 (head ++ leBytes 1 2 ++ leBytes 1 cause)

/-- The staged image as its header gives its length (R435). -/
def Dev.stagedImage (d : Dev) : Option (List Byte) :=
  d.staged.map (fun t =>
    let plen := rd (readBytes byteZero t 16 4) 0 4
    readBytes byteZero t 0 (if plen ≤ 33553920 then 256 + plen + 193 else 256))

/-- Kind of a context as R444 numbers it; a tile or output counts with the context it belongs to. -/
def CtxKind.code : CtxKind → Nat
  | .capture => 0
  | .tile _ _ => 0
  | .output _ _ => 1
  | .proxy => 1
  | .playback => 2
  | .flow => 3
  | .mirror => 4
  | .hostRing => 5

/-- Record of a context (R433). -/
def Dev.ctxRecord (d : Dev) (id : Nat) (c : Ctx) : List Byte :=
  let st := if c.kind.code ≠ 0 then 0 else match d.cap c.stream with
    | some x => (match x.run with
      | .idle => b2n x.clip.isSome
      | .armed => 2
      | .running => 3)
    | none => 0
  leBytes 2 id ++ leBytes 1 c.kind.code ++ leBytes 1 c.stream ++ leBytes 1 (Config.ctxState st % 256) ++ [0, 0, 0] ++ leBytes 4 c.stamp ++ zeros 4

/-- Put a context before those created earlier. -/
def insertNewest (x : Nat × Ctx) : List (Nat × Ctx) → List (Nat × Ctx)
  | [] => [x]
  | y :: r => if y.2.stamp ≤ x.2.stamp then x :: y :: r else y :: insertNewest x r

/-- The records of a log page, newest first, and its LOST and DISCARDED; none for a reserved page (R433). -/
def Mach.logPage (m : Mach) (page : Nat) : Option (List (List Byte) × Nat × Nat) :=
  let d := m.dev
  let h := d.host
  match page with
  | 0x01 => some (h.logError.records, h.logError.lost, h.logError.discarded)
  | 0x02 => some (h.logEvent.records, h.logEvent.lost, 0)
  | 0x03 =>
    let rec_ := slotRecord d.otp d.boot.role
    some ([rec_ (some (m.mem.norImage .a)), rec_ (some (m.mem.norImage .b)), rec_ d.stagedImage], 0, 0)
  | 0x04 => some (h.logAudit.records, h.logAudit.lost, 0)
  | 0x05 => some (((d.ctxOf (fun _ => true)).foldl (fun l x => insertNewest x l) []).map (fun x => d.ctxRecord x.1 x.2), 0, 0)
  | 0x06 => some (h.logDropped.records, h.logDropped.lost, 0)
  | 0x07 => some ([padTo 64 (padTo 32 (Config.challenge h.challenge))], 0, 0)
  | 0x08 => some (h.admission.toList, 0, 0)
  | _ => none

/-- LOST and DISCARDED count since the last read of a page (R433). -/
def LogPage.wasRead (p : LogPage) : LogPage := { p with lost := 0, discarded := 0 }

/-- A page has been read. -/
def HostIf.logRead (h : HostIf) (page : Nat) : HostIf :=
  match page with
  | 0x01 => { h with logError := h.logError.wasRead }
  | 0x02 => { h with logEvent := h.logEvent.wasRead }
  | 0x04 => { h with logAudit := h.logAudit.wasRead }
  | 0x06 => { h with logDropped := h.logDropped.wasRead }
  | _ => h

/-- GET_LOG (R433, R434). -/
def execGetLog (sq cid : Nat) (s : State) : Host.Outcome State Fault Refusal :=
  live (runCmd sq cid 0x05 (fun c m =>
    let page := c.dw 0 % 256
    match m.logPage page with
    | none => m.refuse c 32
    | some (recs, lost, disc) =>
      if c.dw 1 % 64 ≠ 0 then m.refuse c 36
      else if !m.mem.dataOk c c.dataLen then m.refuse c 16
      else
        let head := leBytes 4 recs.length ++ leBytes 4 (min lost 0xFFFFFFFF) ++ leBytes 4 (min disc 0xFFFFFFFF) ++ zeros 4 ++ m.dev.stamp ++ zeros 32
        let out := slice (head ++ recs.flatten) (c.dw 1) c.dataLen
        Mach.complete { dev := m.dev.stamped.onHost (fun h => h.logRead page), mem := m.mem.dataOut c out } c Status.ok)) s

/-! ### FW_LOAD and FW_COMMIT -/

/-- FW_LOAD (R435). -/
def execFwLoad (sq cid : Nat) (s : State) : Host.Outcome State Fault Refusal :=
  live (runCmd sq cid 0x10 (fun c m =>
    let len := c.dataLen
    let off := c.dw 0
    if len < 4 ∨ 4194304 < len then m.refuse c 24
    else if 33554369 < off + len then m.refuse c 32
    else if !m.mem.dataOk c len then m.refuse c 16
    else
      let old := if bit (c.dw 1) 0 then [] else m.dev.staged.getD []
      Mach.complete { m with dev := { m.dev with staged := some (writeBytes byteZero old off (m.mem.dataIn c len)) } } c Status.ok)) s

/-- Write the staged image to a slot of SPI NOR; `readback` says whether what is read back agrees, and what the slot holds where it
does not is open (R436). The flag says that the write ended with OK. -/
def Mach.commit (m : Mach) (c : Cmd) (readback : Bool) : Bool × Mach :=
  let base := if bit (c.dw 0) 8 then Image.b.norBase else Image.a.norBase
  match m.dev.stagedImage with
  | none => (false, m.complete c Status.invalidField 0)
  | some img =>
    match checkImage m.dev.otp m.dev.boot.role img with
    | .bad 2 => (false, m.complete c Status.signatureBad)
    | .bad 3 => (false, m.complete c Status.rollbackRefused)
    | .bad _ => (false, m.complete c Status.invalidField 0)
    | .good _ _ =>
      let bytes := if readback then img else leBytes img.length m.dev.drawn
      let d := if readback then m.dev else m.dev.afterDraw
      let m1 : Mach := { dev := { d with staged := none }, mem := { m.mem with nor := writeBytes byteOnes m.mem.nor base bytes } }
      (readback, m1.complete c (if readback then Status.ok else Status.invalidField))

/-- Run an FW_COMMIT with an action. -/
def commitCmd (sq cid action : Nat) (f : Cmd → Mach → Mach) (m : Mach) : Mach :=
  runCmd sq cid 0x11 (fun c m => if c.dw 0 % 4 = action then f c m else m) m

/-- WRITE: FW_COMMIT action 0 (R436). -/
def execWrite (sq cid : Nat) (readback : Bool) (s : State) : Host.Outcome State Fault Refusal :=
  live (commitCmd sq cid 0 (fun c m => (m.commit c readback).2)) s

/-- WRITE_AND_ACTIVATE: FW_COMMIT action 1, then the internal reset of R396 (R376, R436). -/
def execWriteAndActivate (sq cid : Nat) (readback : Bool) (s : State) : Host.Outcome State Fault Refusal :=
  live (commitCmd sq cid 1 (fun c m =>
    if m.dev.anyCapture then m.deny c 13 noStream
    else
      let r := m.commit c readback
      if r.1 then onDev (fun d => d.onBoot (fun b => { b with resetDue := some (.activate, 10000000 + d.clk) })) r.2 else r.2)) s

/-- RAISE_FLOOR: FW_COMMIT action 2 (R374, R436). -/
def execRaiseFloor (sq cid : Nat) (s : State) : Host.Outcome State Fault Refusal :=
  live (commitCmd sq cid 2 (fun c m =>
    let d := m.dev
    if d.boot.state = .twilight ∨ d.boot.secVersion ≤ d.otp.floor then m.refuse c 32
    else Mach.complete { m with dev := { d with otp := { d.otp with floor := d.boot.secVersion }, staged := none } } c Status.ok)) s

end Sys2Proof.Machine
end

