-- ==== Sys2Proof/Machine/Reset.lean ====
section
/-! DEFINITION. Resets and power (R331, R364 to R368, R376, R567, R580, R583, R599). -/

namespace Sys2Proof.Machine
open Sys2Proof

/-- The straps as a rising edge of RESET_N samples them (R583): ROLE, BOOT_SRC and TEST_EN. -/
structure Straps where
  role : Nat
  bootSrc : Nat
  testEn : Bool
  deriving DecidableEq, Repr

/-- A magazine port after a reset: what is seated stays seated, and its presence is found anew (R288, R365). -/
def MagPort.unplugged (q : MagPort) (now : Nat) : MagPort := { seated := q.seated, lineAt := now }

/-- The whole device after a power-on, external or internal reset (R364, R365). OTP and what lies outside keep their state; the
recorder's counts are those of its entries in MRAM. -/
def Dev.afterReset (d : Dev) (cause : ResetCause) (straps : Option Straps) : Dev :=
  let s := straps.getD { role := d.boot.role, bootSrc := d.boot.bootSrc, testEn := d.boot.testEn }
  { ({} : Dev) with
    clk := d.clk
    free := d.free
    otp := d.otp
    sent := d.sent
    boot := { role := s.role % 4, bootSrc := s.bootSrc % 4, testEn := s.testEn, cause := cause, attempts := d.boot.attempts,
              newSequence := d.boot.newSequence }
    bbx := { firstNo := d.bbx.firstNo, bootNo := d.bbx.bootNo, mainNo := d.bbx.mainNo, readyAt := d.bbx.readyAt }
    mags := d.mags.map (fun q => q.unplugged d.clk) }

/-- Reset the device; DRAM does not keep its contents. -/
def Mach.reset (m : Mach) (cause : ResetCause) (straps : Option Straps) : Mach :=
  { dev := m.dev.afterReset cause straps, mem := { m.mem with dram := [] } }

/-- POWER_ON_RESET: VDD_AON rises; the straps are sampled when RESET_N rises (R364, R583). What waited in the recorder's queue is
lost (R567). -/
def execPowerOnReset (role bootSrc : Nat) (testEn : Bool) (s : State) : Host.Outcome State Fault Refusal :=
  .next { s with m := s.m.reset .powerOn (some { role := role, bootSrc := bootSrc, testEn := testEn }) }

/-- EXTERNAL_RESET: RESET_N is low for `low` ns; a level shorter than 2 µs is ignored (R364, R583, R599). -/
def execExternalReset (low role bootSrc : Nat) (testEn : Bool) (s : State) : Host.Outcome State Fault Refusal :=
  if s.m.dev.off then .next s
  else
    let m := onDev (fun d => d.advance low) s.m
    if low < 2000 then .next { s with m := m }
    else .next { s with m := m.bbxDrain.reset .external (some { role := role, bootSrc := bootSrc, testEn := testEn }) }

/-- INTERNAL_RESET: the reset that a watchdog, a timer, a mailbox request or FW_COMMIT has called for (R364, R379, R396). -/
def execInternalReset (s : State) : Host.Outcome State Fault Refusal :=
  live (fun m =>
    match m.dev.boot.resetDue with
    | none => m
    | some (cause, t) => (Mach.bbxDrain { m with dev := m.dev.advanceTo t }).reset cause none) s

/-- The PCI Express endpoint, doorbells, vectors and every queue after a PCIe reset (R364, R366, R401): commands run on, and their
completions are discarded. Host receive rings are contexts and stay. -/
def HostIf.pcieReset (h : HostIf) : HostIf :=
  let h1 := h.orphan (fun _ => true)
  { h1 with
    sqs := []
    cqs := h1.cqs.filter (fun e => match e.2 with
      | some q => q.ring.isSome
      | none => false)
    heldPeak := 0
    holdStop := false
    rrHigh := 0
    rrNorm := 0
    turnLeft := 0
    turnSq := 0
    admSqBase := 0
    admCqBase := 0
    admSize := 0
    admEn := false
    admRdy := false
    admCfgErr := false
    qwLow := []
    sdtLatch := none
    msix := List.replicate 64 {} }

/-- PCIE_RESET: PERST_N low for `low` ns, where a level shorter than 2 µs is ignored, or a hot reset or link down (R364, R366, R599). -/
def execPcieReset (perst : Bool) (low : Nat) (s : State) : Host.Outcome State Fault Refusal :=
  liveDev (fun d =>
    if perst ∧ low < 2000 then d.advance low
    else ((if perst then d.advance low else d).onHost HostIf.pcieReset).onBoot (fun b => { b with linkUp := false })) s

/-- PCIE_LINK_UP: with RESET_N and PERST_N high the endpoint answers configuration requests `dt` ns, at most 20 ms, after the later of
their rising edges, which falls `rise` ns after the previous command (R368). -/
def execPcieLinkUp (rise dt : Nat) (s : State) : Host.Outcome State Fault Refusal :=
  liveDev (fun d => (d.advance (rise + min dt 20000000)).onBoot (fun b => { b with linkUp := true })) s

/-- POWER_LOSS: of the device, which then holds nothing but OTP and media until its power returns, or of the magazine on a port, whose
operations end as at a removal with the carrier still seated (R331). -/
def execPowerLoss (port : Option Nat) (s : State) : Host.Outcome State Fault Refusal :=
  match port with
  | none => .next { s with m := onDev (fun d => { d with off := true }) (s.m.reset .powerOn none) }
  | some p =>
    live (fun m => onlyIf (decide (p < 2) && (m.dev.mag p).powered) (fun m =>
      let q := m.dev.mag p
      onDev (fun d => d.onMag p (fun x => { x with seated := q.seated, present := q.present })) (m.remove p)) m) s

/-- SUPPLY_OUT_OF_RANGE: a rail other than VDD_AON leaves its range while RESET_N is high; what the device does from then on is
undefined until a power-on or external reset, and MRAM entries already written survive (R580). -/
def execSupplyOutOfRange (s : State) : Host.Outcome State Fault Refusal :=
  .next { s with m := onDev (fun d => { d with undef := true }) s.m }

end Sys2Proof.Machine
end

