-- ==== Sys2Proof/Machine/Dispatch.lean ====
section
/-! DEFINITION. One arm per command: the call of its meaning. -/

namespace Sys2Proof.Machine
open Sys2Proof

def exec (i : Instr) (s : State) : Host.Outcome State Fault Refusal :=
  match i with
  | .tick => Sys2Proof.Machine.execTick s
  | .tickUnitStart => Sys2Proof.Machine.execTickUnitStart s
  | .tickInEdge dt => Sys2Proof.Machine.execTickInEdge dt s
  | .substituteTick => Sys2Proof.Machine.execSubstituteTick s
  | .tablesReady j dt => Sys2Proof.Machine.execTablesReady j dt s
  | .deadlineGuard n => Sys2Proof.Machine.execDeadlineGuard n s
  | .laneBlock k slot block => Sys2Proof.Machine.execLaneBlock k slot block s
  | .sof g vc counter => Sys2Proof.Machine.execSof g vc counter s
  | .sol g => Sys2Proof.Machine.execSol g s
  | .eol g => Sys2Proof.Machine.execEol g s
  | .eof g vc => Sys2Proof.Machine.execEof g vc s
  | .csi2LongPacket g vc dt ecc crcOk payload => Sys2Proof.Machine.execCsi2LongPacket g vc dt ecc crcOk payload s
  | .csi2LineStart g vc number => Sys2Proof.Machine.execCsi2LineStart g vc number s
  | .stageSegment => Sys2Proof.Machine.execStageSegment s
  | .attemptStart e => Sys2Proof.Machine.execAttemptStart e s
  | .queueFull e dt => Sys2Proof.Machine.execQueueFull e dt s
  | .bqRoomResume e => Sys2Proof.Machine.execBqRoomResume e s
  | .measureDone e dt ce => Sys2Proof.Machine.execMeasureDone e dt ce s
  | .codePassDone e dt ce => Sys2Proof.Machine.execCodePassDone e dt ce s
  | .eclipsePassStart e => Sys2Proof.Machine.execEclipsePassStart e s
  | .eclipsePassDone e dt => Sys2Proof.Machine.execEclipsePassDone e dt s
  | .verifyDone e dt segFail flips ecc => Sys2Proof.Machine.execVerifyDone e dt segFail flips ecc s
  | .guardSwitch j n t => Sys2Proof.Machine.execGuardSwitch j n t s
  | .pxeParity e => Sys2Proof.Machine.execPxeParity e s
  | .bqUncorrectable e ce => Sys2Proof.Machine.execBqUncorrectable e ce s
  | .entParity e => Sys2Proof.Machine.execEntParity e s
  | .eclipseFault e => Sys2Proof.Machine.execEclipseFault e s
  | .mirFault e => Sys2Proof.Machine.execMirFault e s
  | .engineStall unit e => Sys2Proof.Machine.execEngineStall unit e s
  | .engineResetDone unit e dt => Sys2Proof.Machine.execEngineResetDone unit e dt s
  | .capacityRecompute => Sys2Proof.Machine.execCapacityRecompute s
  | .playbackBand e dt => Sys2Proof.Machine.execPlaybackBand e dt s
  | .developBand => Sys2Proof.Machine.execDevelopBand s
  | .hevcPicture o dt ring flow0 flow1 want sets timing slices => Sys2Proof.Machine.execHevcPicture o dt ring flow0 flow1 want sets timing slices s
  | .monitorPicture flow0 flow1 => Sys2Proof.Machine.execMonitorPicture flow0 flow1 s
  | .multicastDeliver k => Sys2Proof.Machine.execMulticastDeliver k s
  | .seqDispatch t par => Sys2Proof.Machine.execSeqDispatch t par s
  | .cont t par => Sys2Proof.Machine.execCont t par s
  | .jump t par => Sys2Proof.Machine.execJump t par s
  | .brNeg t par => Sys2Proof.Machine.execBrNeg t par s
  | .brZero t par => Sys2Proof.Machine.execBrZero t par s
  | .brCond t par => Sys2Proof.Machine.execBrCond t par s
  | .call t par => Sys2Proof.Machine.execCall t par s
  | .ret t par => Sys2Proof.Machine.execRet t par s
  | .seqEnd t par => Sys2Proof.Machine.execSeqEnd t par s
  | .waitRelease t => Sys2Proof.Machine.execWaitRelease t s
  | .seqTimerExpire t => Sys2Proof.Machine.execSeqTimerExpire t s
  | .handlerForcedEnd t => Sys2Proof.Machine.execHandlerForcedEnd t s
  | .seqHostEvent v => Sys2Proof.Machine.execSeqHostEvent v s
  | .cellTransfer input output cls owner addr write bytes ecc => Sys2Proof.Machine.execCellTransfer input output cls owner addr write bytes ecc s
  | .reseqGap input output cls => Sys2Proof.Machine.execReseqGap input output cls s
  | .egressGrant egr => Sys2Proof.Machine.execEgressGrant egr s
  | .poolRequest size cls owner port dests => Sys2Proof.Machine.execPoolRequest size cls owner port dests s
  | .poolFree ptr owner port => Sys2Proof.Machine.execPoolFree ptr owner port s
  | .auditEpochEnd => Sys2Proof.Machine.execAuditEpochEnd s
  | .magPresentNChange p low carrier => Sys2Proof.Machine.execMagPresentNChange p low carrier s
  | .magPresent p => Sys2Proof.Machine.execMagPresent p s
  | .magRemoved p => Sys2Proof.Machine.execMagRemoved p s
  | .chunkCheck str bad => Sys2Proof.Machine.execChunkCheck str bad s
  | .stripeProgram p => Sys2Proof.Machine.execStripeProgram p s
  | .flushTimeout p => Sys2Proof.Machine.execFlushTimeout p s
  | .programDone p die dt fail => Sys2Proof.Machine.execProgramDone p die dt fail s
  | .eraseDone p dt fail => Sys2Proof.Machine.execEraseDone p dt fail s
  | .statusTimeout p die dt => Sys2Proof.Machine.execStatusTimeout p die dt s
  | .codewordRead p ppa c step bits => Sys2Proof.Machine.execCodewordRead p ppa c step bits s
  | .relocateBlock p => Sys2Proof.Machine.execRelocateBlock p s
  | .retentionScan p found => Sys2Proof.Machine.execRetentionScan p found s
  | .checkpoint p => Sys2Proof.Machine.execCheckpoint p s
  | .powerOnReset role bootSrc testEn => Sys2Proof.Machine.execPowerOnReset role bootSrc testEn s
  | .externalReset low role bootSrc testEn => Sys2Proof.Machine.execExternalReset low role bootSrc testEn s
  | .internalReset => Sys2Proof.Machine.execInternalReset s
  | .pcieReset perst low => Sys2Proof.Machine.execPcieReset perst low s
  | .powerLoss port => Sys2Proof.Machine.execPowerLoss port s
  | .supplyOutOfRange => Sys2Proof.Machine.execSupplyOutOfRange s
  | .bootRomStart train1 train2 gib ranks badA badB => Sys2Proof.Machine.execBootRomStart train1 train2 gib ranks badA badB s
  | .bootWatchdogExpiry => Sys2Proof.Machine.execBootWatchdogExpiry s
  | .readyTimeout => Sys2Proof.Machine.execReadyTimeout s
  | .ready => Sys2Proof.Machine.execReady s
  | .load readOk => Sys2Proof.Machine.execLoad readOk s
  | .reboot => Sys2Proof.Machine.execReboot s
  | .twilightEnter => Sys2Proof.Machine.execTwilightEnter s
  | .bbxRead => Sys2Proof.Machine.execBbxRead s
  | .echo k => Sys2Proof.Machine.execEcho k s
  | .badAccess => Sys2Proof.Machine.execBadAccess s
  | .bar0RcRead off => Sys2Proof.Machine.execBar0RcRead off s
  | .sdtNowLowRead => Sys2Proof.Machine.execSdtNowLowRead s
  | .sqTailDoorbell q t => Sys2Proof.Machine.execSqTailDoorbell q t s
  | .cqHeadDoorbell q h => Sys2Proof.Machine.execCqHeadDoorbell q h s
  | .adminEnable => Sys2Proof.Machine.execAdminEnable s
  | .adminDisable => Sys2Proof.Machine.execAdminDisable s
  | .sqFetch admin => Sys2Proof.Machine.execSqFetch admin s
  | .completionPost => Sys2Proof.Machine.execCompletionPost s
  | .cqAggTimeout q => Sys2Proof.Machine.execCqAggTimeout q s
  | .identify sq cid => Sys2Proof.Machine.execIdentify sq cid s
  | .createSq sq cid => Sys2Proof.Machine.execCreateSq sq cid s
  | .createCq sq cid => Sys2Proof.Machine.execCreateCq sq cid s
  | .deleteSq sq cid => Sys2Proof.Machine.execDeleteSq sq cid s
  | .deleteCq sq cid => Sys2Proof.Machine.execDeleteCq sq cid s
  | .getLog sq cid => Sys2Proof.Machine.execGetLog sq cid s
  | .setFeature sq cid => Sys2Proof.Machine.execSetFeature sq cid s
  | .getFeature sq cid => Sys2Proof.Machine.execGetFeature sq cid s
  | .asyncEventRequest sq cid => Sys2Proof.Machine.execAsyncEventRequest sq cid s
  | .abort sq cid => Sys2Proof.Machine.execAbort sq cid s
  | .fwLoad sq cid => Sys2Proof.Machine.execFwLoad sq cid s
  | .write sq cid readback => Sys2Proof.Machine.execWrite sq cid readback s
  | .writeAndActivate sq cid readback => Sys2Proof.Machine.execWriteAndActivate sq cid readback s
  | .raiseFloor sq cid => Sys2Proof.Machine.execRaiseFloor sq cid s
  | .ucodeLoad sq cid => Sys2Proof.Machine.execUcodeLoad sq cid s
  | .step sq cid => Sys2Proof.Machine.execStep sq cid s
  | .slew sq cid => Sys2Proof.Machine.execSlew sq cid s
  | .powerSetOff sq cid => Sys2Proof.Machine.execPowerSetOff sq cid s
  | .powerSetOn sq cid => Sys2Proof.Machine.execPowerSetOn sq cid s
  | .quiesceDone k dt => Sys2Proof.Machine.execQuiesceDone k dt s
  | .quiesceTimeout k => Sys2Proof.Machine.execQuiesceTimeout k s
  | .faultClear sq cid => Sys2Proof.Machine.execFaultClear sq cid s
  | .blackboxRead sq cid ecc => Sys2Proof.Machine.execBlackboxRead sq cid ecc s
  | .blackboxClear sq cid => Sys2Proof.Machine.execBlackboxClear sq cid s
  | .constellationEnum sq cid => Sys2Proof.Machine.execConstellationEnum sq cid s
  | .constellationSeverity sq cid => Sys2Proof.Machine.execConstellationSeverity sq cid s
  | .contextCreate sq cid => Sys2Proof.Machine.execContextCreate sq cid s
  | .contextDestroy sq cid => Sys2Proof.Machine.execContextDestroy sq cid s
  | .captureArm sq cid => Sys2Proof.Machine.execCaptureArm sq cid s
  | .captureStartAtTick sq cid => Sys2Proof.Machine.execCaptureStartAtTick sq cid s
  | .captureStopAtTick sq cid => Sys2Proof.Machine.execCaptureStopAtTick sq cid s
  | .clipOpen sq cid => Sys2Proof.Machine.execClipOpen sq cid s
  | .clipClose sq cid => Sys2Proof.Machine.execClipClose sq cid s
  | .clipDelete sq cid => Sys2Proof.Machine.execClipDelete sq cid s
  | .magMount sq cid found => Sys2Proof.Machine.execMagMount sq cid found s
  | .magUnmount sq cid => Sys2Proof.Machine.execMagUnmount sq cid s
  | .magFormat sq cid => Sys2Proof.Machine.execMagFormat sq cid s
  | .magScan sq cid found => Sys2Proof.Machine.execMagScan sq cid found s
  | .playbackDecode sq cid => Sys2Proof.Machine.execPlaybackDecode sq cid s
  | .readUnits sq cid steps => Sys2Proof.Machine.execReadUnits sq cid steps s
  | .dmaRun sq cid => Sys2Proof.Machine.execDmaRun sq cid s
  | .bufReclaim sq cid => Sys2Proof.Machine.execBufReclaim sq cid s
  | .dmaMove ch ecc => Sys2Proof.Machine.execDmaMove ch ecc s
  | .dmaFill ch => Sys2Proof.Machine.execDmaFill ch s
  | .dmaCmp ch ecc => Sys2Proof.Machine.execDmaCmp ch ecc s
  | .dmaLoop ch => Sys2Proof.Machine.execDmaLoop ch s
  | .dmaWait ch => Sys2Proof.Machine.execDmaWait ch s
  | .dmaEventRelease v => Sys2Proof.Machine.execDmaEventRelease v s
  | .waitTimeout ch => Sys2Proof.Machine.execWaitTimeout ch s
  | .dmaSignal ch => Sys2Proof.Machine.execDmaSignal ch s
  | .dmaEnd ch => Sys2Proof.Machine.execDmaEnd ch s
  | .dmaArm ch v => Sys2Proof.Machine.execDmaArm ch v s
  | .dmaEventSet mask => Sys2Proof.Machine.execDmaEventSet mask s
  | .dramScrub c found => Sys2Proof.Machine.execDramScrub c found s
  | .mr4Read c codes => Sys2Proof.Machine.execMr4Read c codes s
  | .ppsInEdge dt => Sys2Proof.Machine.execPpsInEdge dt s
  | .ppsOutSecond => Sys2Proof.Machine.execPpsOutSecond s
  | .ptpSync e dt seqId t1 twoStep => Sys2Proof.Machine.execPtpSync e dt seqId t1 twoStep s
  | .ptpAnnounce e dt a => Sys2Proof.Machine.execPtpAnnounce e dt a s
  | .ptpDelayReq e dt seqId => Sys2Proof.Machine.execPtpDelayReq e dt seqId s
  | .ptpDelayResp e dt seqId t4 => Sys2Proof.Machine.execPtpDelayResp e dt seqId t4 s
  | .announceTimeout e dt => Sys2Proof.Machine.execAnnounceTimeout e dt s
  | .timeUnlockTimeout => Sys2Proof.Machine.execTimeUnlockTimeout s
  | .ethFrameRx e fcsOk frame => Sys2Proof.Machine.execEthFrameRx e fcsOk frame s
  | .ethFrameTx e => Sys2Proof.Machine.execEthFrameTx e s
  | .shaperRefill => Sys2Proof.Machine.execShaperRefill s
  | .gateIntervalEnd e => Sys2Proof.Machine.execGateIntervalEnd e s
  | .gclActivate e => Sys2Proof.Machine.execGclActivate e s
  | .ethGclCommit e => Sys2Proof.Machine.execEthGclCommit e s
  | .shaperReset k => Sys2Proof.Machine.execShaperReset k s
  | .portDown e localFault remoteFault blockLock => Sys2Proof.Machine.execPortDown e localFault remoteFault blockLock s
  | .portUp e => Sys2Proof.Machine.execPortUp e s
  | .ethHoldExpiry e => Sys2Proof.Machine.execEthHoldExpiry e s
  | .lanesAligned p => Sys2Proof.Machine.execLanesAligned p s
  | .linkInitSend p => Sys2Proof.Machine.execLinkInitSend p s
  | .linkInit p => Sys2Proof.Machine.execLinkInit p s
  | .linkLoss p why lanes => Sys2Proof.Machine.execLinkLoss p why lanes s
  | .linkHoldExpiry p => Sys2Proof.Machine.execLinkHoldExpiry p s
  | .miswiredRetry p => Sys2Proof.Machine.execMiswiredRetry p s
  | .flitRx p raw => Sys2Proof.Machine.execFlitRx p raw s
  | .replayTimeout p => Sys2Proof.Machine.execReplayTimeout p s
  | .enum p => Sys2Proof.Machine.execEnum p s
  | .enumDone p => Sys2Proof.Machine.execEnumDone p s
  | .enumEntry p => Sys2Proof.Machine.execEnumEntry p s
  | .enumTimeout p => Sys2Proof.Machine.execEnumTimeout p s
  | .reassign p => Sys2Proof.Machine.execReassign p s
  | .tickBroadcast => Sys2Proof.Machine.execTickBroadcast s
  | .tickMessage p => Sys2Proof.Machine.execTickMessage p s
  | .workerSubstituteTick => Sys2Proof.Machine.execWorkerSubstituteTick s
  | .state p => Sys2Proof.Machine.execState p s
  | .start p => Sys2Proof.Machine.execStart p s
  | .startAck p => Sys2Proof.Machine.execStartAck p s
  | .severity p => Sys2Proof.Machine.execSeverity p s
  | .severityAck p => Sys2Proof.Machine.execSeverityAck p s
  | .severityTimeout => Sys2Proof.Machine.execSeverityTimeout s
  | .fault p => Sys2Proof.Machine.execFault p s
  | .ffRead p => Sys2Proof.Machine.execFfRead p s
  | .ffData p => Sys2Proof.Machine.execFfData p s
  | .relayEnable e v => Sys2Proof.Machine.execRelayEnable e v s
  | .relayAdmit p => Sys2Proof.Machine.execRelayAdmit p s
  | .relayGrant p => Sys2Proof.Machine.execRelayGrant p s
  | .timeFlitSend p => Sys2Proof.Machine.execTimeFlitSend p s
  | .sync p => Sys2Proof.Machine.execSync p s
  | .req p => Sys2Proof.Machine.execReq p s
  | .resp p => Sys2Proof.Machine.execResp p s
  | .faultStatusClear j v => Sys2Proof.Machine.execFaultStatusClear j v s
  | .wdogService k => Sys2Proof.Machine.execWdogService k s
  | .wdogWarning k => Sys2Proof.Machine.execWdogWarning k s
  | .wdogExpiry k => Sys2Proof.Machine.execWdogExpiry k s
  | .twinkleToggle => Sys2Proof.Machine.execTwinkleToggle s
  | .twinkleResume => Sys2Proof.Machine.execTwinkleResume s
  | .intSourceFire id line => Sys2Proof.Machine.execIntSourceFire id line s
  | .intClaim core => Sys2Proof.Machine.execIntClaim core s
  | .intComplete core id nothing => Sys2Proof.Machine.execIntComplete core id nothing s
  | .intHostAck id => Sys2Proof.Machine.execIntHostAck id s
  | .hostSourceEnable id en prio => Sys2Proof.Machine.execHostSourceEnable id en prio s
  | .bbxEntryWrite => Sys2Proof.Machine.execBbxEntryWrite s
  | .tempSample celsius => Sys2Proof.Machine.execTempSample celsius s
  | .registerWrite bar2 off qword v => Sys2Proof.Machine.execRegisterWrite bar2 off qword v s
  | .attemptComplete e dt => Sys2Proof.Machine.execAttemptComplete e dt s
  | .pcieLinkUp rise dt => Sys2Proof.Machine.execPcieLinkUp rise dt s
  | .ptpFollowUp e dt seqId t1 => Sys2Proof.Machine.execPtpFollowUp e dt seqId t1 s
  | .ptpIntervalExpiry e dt kind => Sys2Proof.Machine.execPtpIntervalExpiry e dt kind s
  | .slewEnd => Sys2Proof.Machine.execSlewEnd s
  | .pcieAerError uncorrectable status => Sys2Proof.Machine.execPcieAerError uncorrectable status s
  | .controlSramError uncorrectable addr => Sys2Proof.Machine.execControlSramError uncorrectable addr s
  | .intSrcSetting id v => Sys2Proof.Machine.execIntSrcSetting id v s
  | .coreSleep k => Sys2Proof.Machine.execCoreSleep k s
  | .tickOutFall => Sys2Proof.Machine.execTickOutFall s
  | .ppsOutFall => Sys2Proof.Machine.execPpsOutFall s

end Sys2Proof.Machine
end

