-- ==== Sys2Proof/Machine/Step.lean ====
section
/-! DEFINITION. The step of the block: the command at the front of the queue, or one nanosecond of idling. -/

namespace Sys2Proof.Machine
open Sys2Proof

/-- One nanosecond passes with no command (DESIGN CHOICE: the spec has no row for it); nothing else happens without power or while
behaviour is undefined. -/
def idle (s : State) : State :=
  if s.m.dev.undef || s.m.dev.off then s else { s with m := { s.m with dev := (s.m.dev.advance 1).settle } }

/-- Take the command at the front of the queue and run it with the queue's rest; an empty queue lets one nanosecond pass. -/
def step (s : State) : Host.Outcome State Fault Refusal :=
  match s.pending with
  | [] => .next (idle s)
  | c :: r => exec c { s with pending := r }

/-- The state with the command that a word spells in front of the queue: no word spells one. -/
def State.withFetchWord (s : State) (nbits w : Nat) : State :=
  match decodeTableWord nbits w with
  | some c => { s with pending := c :: s.pending }
  | none => s

end Sys2Proof.Machine
end

