-- ==== Sys2Proof/WellFormed.lean ====
section
/-! DEFINITION. Well-formed commands: operands that name a port, an engine, a channel, a queue entry or a source the device has. A meaning
is total on the others too: they name nothing. -/

namespace Sys2Proof

/-- Whether a number lies below a bound. -/
def below (n x : Nat) : Bool := decide (x < n)

/-- Whether a number that may be absent lies below a bound. -/
def belowIf (n : Nat) (x : Option Nat) : Bool := x.all (below n)

/-- Whether every operand of a command names something the device has. -/
def Instr.wf (i : Instr) : Bool :=
  match i with
  | .badAccess | .sdtNowLowRead | .adminEnable | .adminDisable | .bbxRead | .sqFetch _ | .completionPost
  | .bootWatchdogExpiry | .readyTimeout | .ready | .load _ | .reboot | .twilightEnter | .dmaEventSet _ | .slewEnd
  | .ppsInEdge _ | .ppsOutSecond | .ppsOutFall | .timeUnlockTimeout | .shaperRefill | .severityTimeout
  | .pcieAerError _ _ | .controlSramError _ _ | .tempSample _ | .twinkleToggle | .twinkleResume | .bbxEntryWrite
  | .auditEpochEnd | .stageSegment | .deadlineGuard _ | .seqHostEvent _ | .capacityRecompute | .tick | .tickUnitStart
  | .tickInEdge _ | .substituteTick | .tickOutFall | .tickBroadcast | .workerSubstituteTick | .developBand
  | .monitorPicture _ _ | .internalReset | .pcieReset _ _ | .pcieLinkUp _ _ | .supplyOutOfRange => true
  | .bar0RcRead a | .registerWrite _ a _ _ | .createSq _ a | .createCq _ a | .deleteSq _ a | .deleteCq _ a
  | .asyncEventRequest _ a | .dmaRun _ a | .step _ a | .slew _ a | .constellationEnum _ a | .constellationSeverity _ a
  | .faultClear _ a | .blackboxRead _ a _ | .blackboxClear _ a | .bufReclaim _ a | .ucodeLoad _ a | .magMount _ a _
  | .magUnmount _ a | .magFormat _ a | .magScan _ a _ | .readUnits _ a _ | .contextCreate _ a | .contextDestroy _ a
  | .clipOpen _ a | .clipClose _ a | .clipDelete _ a | .captureArm _ a | .captureStartAtTick _ a
  | .captureStopAtTick _ a | .playbackDecode _ a | .powerSetOff _ a | .powerSetOn _ a | .setFeature _ a
  | .getFeature _ a | .abort _ a | .identify _ a | .getLog _ a | .fwLoad _ a | .write _ a _ | .writeAndActivate _ a _
  | .raiseFloor _ a => below 65536 a
  | .sqTailDoorbell a b | .cqHeadDoorbell a b => below 256 a && below 65536 b
  | .faultStatusClear a _ => below 19 a
  | .intHostAck a | .intSourceFire a _ | .intSrcSetting a _ => below 1024 a
  | .hostSourceEnable a _ b => below 1024 a && below 256 b
  | .echo a | .dramScrub a _ | .mr4Read a _ | .lanesAligned a | .linkInitSend a | .linkInit a | .linkLoss a _ _
  | .linkHoldExpiry a | .miswiredRetry a | .flitRx a _ | .replayTimeout a | .enum a | .enumDone a | .enumEntry a
  | .enumTimeout a | .reassign a | .state a | .severity a | .severityAck a | .fault a | .ffRead a | .ffData a
  | .relayAdmit a | .relayGrant a | .timeFlitSend a | .sync a | .req a | .resp a | .wdogService a | .wdogWarning a
  | .wdogExpiry a | .intClaim a | .coreSleep a | .sol a | .eol a | .start a | .startAck a | .tickMessage a
  | .multicastDeliver a => below 4 a
  | .cqAggTimeout a => below 256 a
  | .bootRomStart _ _ _ a _ _ => below 3 a
  | .dmaMove a _ | .dmaFill a | .dmaCmp a _ | .dmaLoop a | .dmaWait a | .dmaSignal a | .dmaEnd a | .waitTimeout a
  | .dmaArm a _ => below 32 a
  | .dmaEventRelease a | .laneBlock a _ _ | .tablesReady a _ | .guardSwitch a _ _ | .chunkCheck a _ => below 64 a
  | .ptpSync a _ _ _ _ | .ptpFollowUp a _ _ _ | .ptpDelayResp a _ _ _ | .ptpDelayReq a _ _ | .ptpAnnounce a _ _
  | .announceTimeout a _ | .portDown a _ _ _ | .portUp a | .ethHoldExpiry a | .gateIntervalEnd a | .ethGclCommit a
  | .gclActivate a | .ethFrameTx a | .ethFrameRx a _ _ | .relayEnable a _ | .stripeProgram a | .flushTimeout a
  | .eraseDone a _ _ | .magPresentNChange a _ _ | .magPresent a | .magRemoved a | .relocateBlock a | .retentionScan a _
  | .checkpoint a | .hevcPicture a _ _ _ _ _ _ _ _ => below 2 a
  | .ptpIntervalExpiry a _ b => below 2 a && below 3 b
  | .shaperReset a => below 4096 a
  | .intComplete a b _ => below 4 a && below 1024 b
  | .poolRequest _ a _ b _ => below 4 a && below 128 b
  | .poolFree _ _ a => below 128 a
  | .cellTransfer a b c _ _ _ _ _ | .reseqGap a b c => below 128 a && below 128 b && below 4 c
  | .egressGrant a => below 7 a
  | .sof a b _ | .eof a b | .csi2LongPacket a b _ _ _ _ | .csi2LineStart a b _ => below 4 a && below 32 b
  | .attemptStart a | .attemptComplete a _ | .queueFull a _ | .bqRoomResume a | .measureDone a _ _ | .codePassDone a _ _
  | .eclipsePassStart a | .eclipsePassDone a _ | .verifyDone a _ _ _ _ | .pxeParity a | .bqUncorrectable a _
  | .entParity a | .eclipseFault a | .mirFault a | .playbackBand a _ => below 24 a
  | .engineStall a b | .engineResetDone a b _ => below 4 a && below 24 b
  | .seqDispatch a _ | .cont a _ | .jump a _ | .brNeg a _ | .brZero a _ | .brCond a _ | .call a _ | .ret a _
  | .seqEnd a _ | .waitRelease a | .seqTimerExpire a | .handlerForcedEnd a => below 25 a
  | .programDone a b _ _ | .statusTimeout a b _ => below 2 a && below 128 b
  | .codewordRead a _ b _ _ => below 2 a && below 4 b
  | .quiesceDone a _ | .quiesceTimeout a => below 38 a
  | .powerOnReset a b _ | .externalReset _ a b _ => below 4 a && below 4 b
  | .powerLoss a => belowIf 2 a

end Sys2Proof
end

