-- ==== Sys2Proof/Safety.lean ====
section
/-! DEFINITION. What claims are stated in: a live machine, a command that may run, a completion at its stage, canonical
memories, the parts of the machine and what it means that only some of them change. -/

namespace Sys2Proof.Machine
open Sys2Proof

/-- The block has power, and its behaviour is defined. -/
def State.Live (s : State) : Prop := s.m.dev.undef = false ∧ s.m.dev.off = false

/-- The queue command that (sq, cid) names is in flight, has started and carries this opcode. -/
def State.Runs (s : State) (sq cid op : Nat) (c : Cmd) : Prop :=
  s.Live ∧ s.m.dev.cmd sq cid = some c ∧ c.phase = .started ∧ c.opcode = op

/-- A completion of the command with this status and result waits at the completion stage. -/
def State.Ends (t : State) (sq cid status result : Nat) : Prop :=
  ∃ e ∈ t.m.dev.host.stage, e.sq = sq ∧ e.cid = cid ∧ e.status = status ∧ e.result = result

/-- The command is still in flight, past its start, and completes later. -/
def State.GoesOn (t : State) (sq cid : Nat) : Prop := ∃ c, t.m.dev.cmd sq cid = some c ∧ c.phase = .running

/-- Every memory that keeps cells is in canonical form. -/
def Mem.wf (m : Mem) : Bool :=
  Tbl.wf byteZero m.host && Tbl.wf byteZero m.dram && Tbl.wf byteOnes m.nor && Tbl.wf entryDflt m.mram

/-- The memories of a state are in canonical form. -/
def State.MemWf (s : State) : Prop := s.m.mem.wf = true

/-- The lists that hold one element for each port, controller or channel hold as many as the block has, and SEQ of the next
stamp fits its field (R12); the registers that hold a value of their own are in canonical form. -/
def Dev.Shape (d : Dev) : Prop :=
  d.seq < 2 ^ 20 ∧ d.eth.length = 2 ∧ d.dram.length = 4 ∧ d.wports.length = 4 ∧ d.dma.length = 32 ∧ d.mags.length = 2 ∧
    Tbl.wf regDefault d.regs = true

/-- A part of the machine, as frames name it: a unit, a piece of the host interface, the registers of a feature, a memory. -/
inductive Part where
  | clk | free | undef | off | seq | stats | snap | boot | otp | staged | mailboxes | sqs | cqs | turns | admin
  | commands | events | errorLog | logs | admission | access | msix | flt | intr | twk | bbx | sid | tick | eth
  | refillAt | shapers | policers | link | fab | pools | dram | wports | dma | dmaEvents | power | pins | ctxs
  | caps | prism | codec | seqr | proxy | mags | sent | hostMem | dramMem | nor | mram | carriers
  | feat (f : Fin 64)
  deriving DecidableEq, Repr

/-- The part reads the same in two machines. -/
def Part.same : Part → Mach → Mach → Prop
  | .clk, m, n => n.dev.clk = m.dev.clk
  | .free, m, n => n.dev.free = m.dev.free
  | .undef, m, n => n.dev.undef = m.dev.undef
  | .off, m, n => n.dev.off = m.dev.off
  | .seq, m, n => n.dev.seq = m.dev.seq
  | .stats, m, n => n.dev.stats = m.dev.stats
  | .snap, m, n => n.dev.snap = m.dev.snap ∧ n.dev.snapHidden = m.dev.snapHidden
  | .boot, m, n => n.dev.boot = m.dev.boot
  | .otp, m, n => n.dev.otp = m.dev.otp
  | .staged, m, n => n.dev.staged = m.dev.staged
  | .mailboxes, m, n => n.dev.host.mbx = m.dev.host.mbx ∧ n.dev.host.mbxIe = m.dev.host.mbxIe
  | .sqs, m, n => n.dev.host.sqs = m.dev.host.sqs
  | .cqs, m, n => n.dev.host.cqs = m.dev.host.cqs
  | .turns, m, n => n.dev.host.rrHigh = m.dev.host.rrHigh ∧ n.dev.host.rrNorm = m.dev.host.rrNorm ∧
      n.dev.host.turnLeft = m.dev.host.turnLeft ∧ n.dev.host.turnSq = m.dev.host.turnSq
  | .admin, m, n => n.dev.host.admSqBase = m.dev.host.admSqBase ∧ n.dev.host.admCqBase = m.dev.host.admCqBase ∧
      n.dev.host.admSize = m.dev.host.admSize ∧ n.dev.host.admEn = m.dev.host.admEn ∧ n.dev.host.admRdy = m.dev.host.admRdy ∧
      n.dev.host.admCfgErr = m.dev.host.admCfgErr
  | .commands, m, n => n.dev.host.cmds = m.dev.host.cmds ∧ n.dev.host.stage = m.dev.host.stage ∧ n.dev.host.held = m.dev.host.held ∧
      n.dev.host.heldPeak = m.dev.host.heldPeak ∧ n.dev.host.holdStop = m.dev.host.holdStop
  | .events, m, n => n.dev.host.aer = m.dev.host.aer ∧ n.dev.host.events = m.dev.host.events ∧
      n.dev.host.eventsLost = m.dev.host.eventsLost ∧ n.dev.host.logEvent = m.dev.host.logEvent
  | .errorLog, m, n => n.dev.host.logError = m.dev.host.logError
  | .logs, m, n => n.dev.host.logAudit = m.dev.host.logAudit ∧ n.dev.host.logDropped = m.dev.host.logDropped ∧
      n.dev.host.challenge = m.dev.host.challenge
  | .admission, m, n => n.dev.host.admission = m.dev.host.admission
  | .access, m, n => n.dev.host.qwLow = m.dev.host.qwLow ∧ n.dev.host.sdtLatch = m.dev.host.sdtLatch ∧
      n.dev.host.badAccess = m.dev.host.badAccess ∧ n.dev.host.stray = m.dev.host.stray
  | .msix, m, n => n.dev.host.msix = m.dev.host.msix
  | .flt, m, n => n.dev.flt = m.dev.flt
  | .intr, m, n => n.dev.intr = m.dev.intr
  | .twk, m, n => n.dev.twk = m.dev.twk
  | .bbx, m, n => n.dev.bbx = m.dev.bbx
  | .sid, m, n => n.dev.sid = m.dev.sid
  | .tick, m, n => n.dev.tick = m.dev.tick
  | .eth, m, n => n.dev.eth = m.dev.eth
  | .refillAt, m, n => n.dev.refillAt = m.dev.refillAt
  | .shapers, m, n => n.dev.shapers = m.dev.shapers
  | .policers, m, n => n.dev.policers = m.dev.policers
  | .link, m, n => n.dev.link = m.dev.link
  | .fab, m, n => n.dev.fab = m.dev.fab
  | .pools, m, n => n.dev.pools = m.dev.pools
  | .dram, m, n => n.dev.dram = m.dev.dram
  | .wports, m, n => n.dev.wports = m.dev.wports
  | .dma, m, n => n.dev.dma = m.dev.dma
  | .dmaEvents, m, n => n.dev.dmaEvents = m.dev.dmaEvents
  | .power, m, n => n.dev.power = m.dev.power
  | .pins, m, n => n.dev.pins = m.dev.pins
  | .ctxs, m, n => n.dev.ctxs = m.dev.ctxs
  | .caps, m, n => n.dev.caps = m.dev.caps
  | .prism, m, n => n.dev.prism = m.dev.prism
  | .codec, m, n => n.dev.codec = m.dev.codec
  | .seqr, m, n => n.dev.seqr = m.dev.seqr
  | .proxy, m, n => n.dev.proxy = m.dev.proxy
  | .mags, m, n => n.dev.mags = m.dev.mags
  | .sent, m, n => n.dev.sent = m.dev.sent
  | .hostMem, m, n => n.mem.host = m.mem.host
  | .dramMem, m, n => n.mem.dram = m.mem.dram
  | .nor, m, n => n.mem.nor = m.mem.nor
  | .mram, m, n => n.mem.mram = m.mem.mram
  | .carriers, m, n => n.mem.carriers = m.mem.carriers
  | .feat f, m, n => ∀ o, n.dev.reg f o = m.dev.reg f o

/-- No part but these changes. -/
def Mach.Only (ps : List Part) (m n : Mach) : Prop := ∀ p, p ∉ ps → p.same m n

/-- What the always-on domain does of itself after every command (R554, R562): interrupt sources, their vector, TWINKLE. -/
def settled : List Part := [.intr, .msix, .sent, .twk, .free]

/-- What a completion of a queue command changes beside that: the command, an error log record and its stamp. -/
def completed : List Part := [.commands, .errorLog, .seq] ++ settled

/-- The command completes with a next state in which `P` holds, the waiting commands as they were, and no part but `ps` and
what settles after every command changed. -/
def Yields (i : Instr) (s : State) (ps : List Part) (P : State → Prop) : Prop :=
  ∃ t, exec i s = .next t ∧ P t ∧ t.pending = s.pending ∧ s.m.Only (ps ++ settled) t.m

end Sys2Proof.Machine
end

