-- ==== Sys2Proof/Certificates/Slice0/Obligations.lean ====
section
/-! DEFINITION. The statements about the model that the provers are asked to settle. -/

open Sys2Proof Sys2Proof.Machine

/-- Each step runs the command at the front of the queue on the machine, with the queue's rest. -/
def Obligations.StepRunsFront : Prop := ∀ (c : Instr) (r : List Instr) (s : State), s.pending = c :: r →
  step s = exec c { s with pending := r }

/-- R8, R16, R21, R54, R364, R365: what State.reset holds: the registers at their reset values, no queue, stream, context or
clip, the tick unit stopped, and memories that list nothing. -/
def Obligations.ResetState : Prop := State.reset.pending = [] ∧ State.reset.Live ∧ State.reset.MemWf ∧ State.reset.m.dev.Shape ∧
  (∀ f o, State.reset.m.dev.reg f o = regDefault (regKey f o)) ∧ State.reset.m.dev.boot.state = .romInit ∧
  State.reset.m.dev.host.sqs = [] ∧ State.reset.m.dev.host.cqs = [] ∧ State.reset.m.dev.host.admEn = false ∧
  State.reset.m.dev.tick.running = false ∧ State.reset.m.dev.caps = [] ∧ State.reset.m.dev.ctxs = [] ∧
  (∀ p, p < 2 → (State.reset.m.dev.mag p).mounted = false) ∧ State.reset.m.dev.flt.status = 0 ∧ State.reset.m.dev.stats = [] ∧
  State.reset.m.mem.host = [] ∧ State.reset.m.mem.dram = []

/-- R580: every command answers a next state with the queue as it was, or is the stop of undefined behaviour; none is refused. -/
def Obligations.StopsOnlyUndefined : Prop := ∀ (c : Instr) (s : State),
  (∃ t, exec c s = .next t ∧ t.pending = s.pending) ∨ exec c s = .fault .undefinedUntilReset ∧ s.m.dev.undef = true

/-- R580: what runs while behaviour is undefined, and without power (the model's choice: without power every other command leaves
the machine as it is). -/
def Obligations.UndefinedAndPowerless : Prop := ∀ (c : Instr) (s : State),
  (∀ a b d, c ≠ .powerOnReset a b d) → (∀ a b d e, c ≠ .externalReset a b d e) → c ≠ .powerLoss none → c ≠ .supplyOutOfRange →
  (s.m.dev.undef = true → exec c s = .fault .undefinedUntilReset) ∧
  (s.m.dev.undef = false → s.m.dev.off = true → exec c s = .next s)

/-- Every step from a state with canonical memories leaves canonical memories. -/
def Obligations.MemoryStaysCanonical : Prop := ∀ s t : State, s.MemWf → step s = .next t → t.MemWf

/-- R12: every step keeps the shape of the device, and SEQ of the next stamp within its field; the crystal time never runs back. -/
def Obligations.ShapeStays : Prop := ∀ s t : State, step s = .next t → (s.m.dev.Shape → t.m.dev.Shape) ∧ s.m.dev.clk ≤ t.m.dev.clk

/-- R111, R112: an eclipse band decodes to within half a step of each photosite, and exactly at depth 0, where its SOURCE_CHECK
is checked. -/
def Obligations.EclipseRoundTrip : Prop := ∀ (g : BandGeo) (frame : Nat) (h : BandHead) (l : List Nat) (body : List Byte),
  l.length = g.count → (∀ v ∈ l, v < 2 ^ g.depth) → h.depth ≤ g.depth → body = eclipseBytes g.depth h.depth l →
  h.dataLen = ceilDiv (g.count * (g.depth - h.depth)) 8 →
  (h.depth = 0 → h.check ≠ sourceCheck frame h.tile h.band l → decodeEclipse g frame h body = .error Cond.sourceCheck) ∧
  (h.depth = 0 → h.check = sourceCheck frame h.tile h.band l → decodeEclipse g frame h body = .ok l) ∧
  (0 < h.depth → ∃ out, decodeEclipse g frame h body = .ok out ∧ out.length = l.length ∧
    ∀ i, i < l.length → out.getD i 0 = (l.getD i 0 >>> h.depth) <<< h.depth + 2 ^ (h.depth - 1) ∧
      ((out.getD i 0 : Int) - (l.getD i 0 : Int)).natAbs ≤ 2 ^ (h.depth - 1))

/-- R103: for δ above 0 the quantiser, its error, and that the decoder rebuilds from the values of a block what the encoder has
reconstructed. -/
def Obligations.NearLossless : Prop := ∀ δ : Nat, 0 < δ →
  (∀ r : Int, quantise δ r = r.sign * (((r.natAbs + δ) / (2 * δ + 1) : Nat) : Int)) ∧
  (∀ (b : Nat) (p x : Int), 0 ≤ x → x ≤ planeHigh b →
    (clampInt 0 (planeHigh b) (p + quantise δ (x - p) * (2 * δ + 1)) - x).natAbs ≤ δ) ∧
  (∀ (g : BandGeo) (ref : Option RefPlanes) (plane : Nat) (src rec_ : Array Int) (k : Nat) (m : BlockMode),
    rebuild g δ ref plane m (g.blockAt k).1 (g.blockAt k).2.1 (formBlock g δ ref plane src rec_ k m).1 (rasterOf (g.blockAt k).2.2) rec_
      = .ok (formBlock g δ ref plane src rec_ k m).2)

/-- R390, R391, R9, R492: what an access of BAR0 does, while the PCI Express link is up. R403 to R406: an SQ tail doorbell that
moves the tail on within the ring. -/
def Obligations.Bar0AccessAndTail : Prop :=
  (∀ s : State, s.Live → s.m.dev.barReachable = true →
  Yields .badAccess s [.access] (fun t => t.m.dev.host.badAccess = min (s.m.dev.host.badAccess + 1) 0xFFFFFFFF) ∧
  (∀ off, off % 4 = 0 → off < 0x10000 → off ≠ 0x5004 →
    Yields (.bar0RcRead off) s [.access, .commands, .flt, .bbx] (fun t =>
      Emission.bar0 off (s.m.bar0Word off).toNat ∈ t.m.dev.sent ∧ (off = 0x40 → t.m.dev.host.badAccess = 0) ∧
      (off = 0x2860 → t.m.dev.host.stray = 0) ∧ (off = 0x3020 → t.m.dev.intr.spurious = 0) ∧
      (off = 0x3024 → t.m.dev.intr.badComplete = 0) ∧ (off = 0x400C → t.m.dev.flt.faCnt = 0) ∧
      (off = 0x4810 → t.m.dev.bbx.lostCnt = 0) ∧ (off = 0x4814 → t.m.dev.bbx.mramCe = 0))) ∧
  Yields .sdtNowLowRead s [.access, .commands, .flt, .bbx] (fun t =>
    Emission.bar0 0x5000 (s.m.bar0Word 0x5000).toNat ∈ t.m.dev.sent ∧ t.m.dev.host.sdtLatch = some (hi32 s.m.dev.sdt))) ∧
  (∀ (s : State) (q t : Nat) (x : Sq), s.Live → s.m.dev.barReachable = true →
  q < 256 → t < 65536 → s.m.dev.sq q = some x → x.bad = false → x.deleting = false → t < x.size →
  ringDiff x.tail x.head x.size ≤ ringDiff t x.head x.size →
  Yields (.sqTailDoorbell q t) s [.sqs, .access, .commands, .events, .seq] (fun t' =>
    t'.m.dev.sq q = some { x with tail := t } ∧ t'.m.dev.host.stage = s.m.dev.host.stage ∧ t'.m.dev.host.events = s.m.dev.host.events))

/-- R404, R405: a CQ head doorbell that consumes entries, with no completion held for its queue. R400, R401: EN of the admin
queue. -/
def Obligations.CqDoorbellAndAdmin : Prop := ∀ s : State, s.Live → s.m.dev.barReachable = true →
  (∀ (q h : Nat) (c : Cq), q < 256 → h < 65536 → s.m.dev.cq q = some c → c.bad = false → h < c.size → h ≠ c.head →
    ringDiff h c.head c.size ≤ ringDiff c.tail c.head c.size → s.m.dev.hasHeld q = false →
    Yields (.cqHeadDoorbell q h) s [.cqs, .commands, .events, .access, .seq, .bbx, .hostMem] (fun t =>
      (∃ c', t.m.dev.cq q = some c' ∧ c'.head = h ∧ c'.tail = c.tail ∧ c'.base = c.base ∧ c'.size = c.size ∧ c'.bad = false) ∧
      t.m.mem = s.m.mem)) ∧
  (s.m.dev.queuesServed = true → s.m.dev.host.admEn = false → s.m.dev.host.admRdy = false →
    s.m.dev.host.admSqBase % 4096 = 0 → s.m.dev.host.admCqBase % 4096 = 0 →
    2 ≤ fld s.m.dev.host.admSize 0 13 → fld s.m.dev.host.admSize 0 13 ≤ 4096 →
    2 ≤ fld s.m.dev.host.admSize 16 13 → fld s.m.dev.host.admSize 16 13 ≤ 4096 →
    Yields .adminEnable s [.admin, .sqs, .cqs] (fun t =>
      t.m.dev.host.admEn = true ∧ t.m.dev.host.admRdy = true ∧ t.m.dev.host.admCfgErr = false ∧
      t.m.dev.sq 0 = some { base := s.m.dev.host.admSqBase, size := fld s.m.dev.host.admSize 0 13, cq := 0 } ∧
      t.m.dev.cq 0 = some { base := s.m.dev.host.admCqBase, size := fld s.m.dev.host.admSize 16 13 })) ∧
  (s.m.dev.host.admEn = true →
    Yields .adminDisable s [.admin, .sqs, .cqs, .commands, .events] (fun t =>
      t.m.dev.host.admEn = false ∧ t.m.dev.host.admRdy = false ∧ t.m.dev.host.admCfgErr = false ∧
      t.m.dev.host.sqs = Tbl.set (fun _ => none) s.m.dev.host.sqs 0 none ∧
      t.m.dev.host.cqs = Tbl.set (fun _ => none) s.m.dev.host.cqs 0 none ∧ t.m.dev.host.aer = [] ∧
      ∀ e ∈ t.m.dev.host.stage, e.sq ≠ 0))

/-- R390, R391, R394, R397: a register write. R549: a write of 1s to a fault status register. R561, R562: a host interrupt
source. -/
def Obligations.RegisterWrites : Prop := ∀ s : State, s.Live → s.m.dev.barReachable = true →
  (∀ bar2 off qword v, Yields (.registerWrite bar2 off qword v) s
      [.mailboxes, .sqs, .cqs, .admin, .commands, .events, .access, .flt, .bbx, .seq, .hostMem] (fun t =>
    (bar2 = false → (off % (if qword then 8 else 4) ≠ 0 ∨ 0x10000 ≤ off) →
      t.m.dev.host.badAccess = min (s.m.dev.host.badAccess + 1) 0xFFFFFFFF) ∧
    (bar2 = false → qword = false → off = 0x1110 → t.m.dev.host.mbxIe = bit (v % 2 ^ 32) 0) ∧
    (bar2 = false → qword = false → off = 0x2814 → t.m.dev.host.admEn = bit (v % 2 ^ 32) 0) ∧
    (bar2 = false → qword = false → off = 0x1000 → (s.m.dev.mailbox 0).busy = false → 0 < s.m.dev.host.mbx.length →
      [(t.m.dev.mailbox 0).code, (t.m.dev.mailbox 0).tag] ++ (t.m.dev.mailbox 0).rsvd = leBytes 4 (v % 2 ^ 32)))) ∧
  (∀ j v, j < 19 → Yields (.faultStatusClear j v) s
      [.mailboxes, .sqs, .cqs, .admin, .commands, .events, .access, .flt, .bbx, .seq, .hostMem] (fun t =>
    ∀ k, t.m.dev.flt.status.getLsbD k =
      (s.m.dev.flt.status.getLsbD k && !(decide (k / 32 = j) && bit v (k % 32) && !s.m.dev.persists k)))) ∧
  (∀ id, 1008 ≤ id → id ≤ 1015 → id ∉ s.m.dev.intr.pending →
    Yields (.intHostAck id) s [] (fun t => t.m.dev.intr.badComplete = min (s.m.dev.intr.badComplete + 1) 0xFFFFFFFF)) ∧
  (∀ id, 1008 ≤ id → id ≤ 1015 → id ∈ s.m.dev.intr.pending →
    Yields (.intHostAck id) s [] (fun t => t.m.dev.intr.badComplete = s.m.dev.intr.badComplete ∧
      (id = 1012 ∨ id = 1013 → id ∉ t.m.dev.intr.pending))) ∧
  (∀ id en prio, 1008 ≤ id → id ≤ 1015 →
    Yields (.hostSourceEnable id en prio) s [] (fun t => t.m.dev.intr.setting = Tbl.set intrDefault s.m.dev.intr.setting id
      (256 * (s.m.dev.intr.set id % 2 ^ 15 / 256) + prio % 256 + (if en then 2 ^ 15 else 0))))

/-- R393 to R396: the mailbox commands ECHO and BBX_READ. R409 to R412: fetching an entry. R413, R402: posting a completion.
R398: aggregation. -/
def Obligations.MailboxesAndQueues : Prop :=
  (∀ s : State, s.Live →
  (∀ i, i < 4 → s.m.dev.mbxWaits i 0x20 = true →
    Yields (.echo i) s [.mailboxes] (fun t =>
      (t.m.dev.mailbox i).status = 0 ∧ (t.m.dev.mailbox i).data = padTo 28 (s.m.dev.mailbox i).args ∧
      (t.m.dev.mailbox i).tagEcho = (s.m.dev.mailbox i).tag ∧ (t.m.dev.mailbox i).busy = false ∧ (t.m.dev.mailbox i).done = true ∧
      ∀ k, k ≠ i → t.m.dev.mailbox k = s.m.dev.mailbox k)) ∧
  (s.m.dev.mbxWaits 1 0x10 = true → ∀ first count addr, rd (s.m.dev.mailbox 1).args 0 4 = first →
    rd (s.m.dev.mailbox 1).args 4 4 = count → rd (s.m.dev.mailbox 1).args 8 8 = addr →
    0 < count → count ≤ 4096 → first + count ≤ 131072 → addr % 64 = 0 → hostOk addr (64 * count) = true →
    Yields .bbxRead s [.mailboxes, .hostMem] (fun t =>
      t.m.mem = s.m.mem.hostWrite addr (s.m.mem.entries first count) ∧ (t.m.dev.mailbox 1).status = 0 ∧
      (t.m.dev.mailbox 1).busy = false ∧ (t.m.dev.mailbox 1).done = true))) ∧
  (∀ s : State, s.Live →
  (∀ (admin : Bool) (q : Nat) (x : Sq) (c : Cmd), s.m.dev.queuesServed = true →
    s.m.dev.inFlight admin < (if admin then 64 else 1024) →
    (if admin then (if s.m.dev.fetchable 0 then some 0 else none) else s.m.dev.nextIo) = some q →
    s.m.dev.sq q = some x → c = parseEntry q (s.m.mem.hostRead (x.base + 64 * x.head) 64) →
    (∀ k ∈ s.m.dev.host.cmds, k.sq = q → k.cid ≠ c.cid) →
    Yields (.sqFetch admin) s [.sqs, .turns, .commands, .errorLog, .seq] (fun t =>
      t.m.dev.sq q = some { x with head := (x.head + 1) % x.size } ∧
      t.m.dev.host.cmds.map (fun k => { k with phase := .fetched }) =
        (s.m.dev.host.cmds ++ [c]).map (fun k => { k with phase := .fetched }))) ∧
  (∀ (e : Compl) (c : Cq), s.m.dev.host.stage.find? (fun e => s.m.dev.canPost e) = some e → s.m.dev.cq e.cq = some c →
    c.bad = false → c.full = false → s.m.dev.hasHeld e.cq = false →
    Yields .completionPost s [.sqs, .cqs, .commands, .errorLog, .events, .bbx, .seq, .hostMem] (fun t =>
      (∃ c', t.m.dev.cq e.cq = some c' ∧ c'.tail = (c.tail + 1) % c.size ∧ c'.head = c.head ∧
        c'.phase = (if (c.tail + 1) % c.size = 0 then !c.phase else c.phase)) ∧
      t.m.mem = s.m.mem.hostWrite (c.base + 16 * c.tail) (cqEntry e.result s.m.dev.stamp32 e.cid
        (match s.m.dev.sq e.sq with
          | some x => x.head
          | none => 0) e.status e.detail e.retry false c.phase e.sq))) ∧
  (∀ (q : Nat) (c : Cq), s.m.dev.cq q = some c → c.ien = true → 0 < c.unsent →
    Yields (.cqAggTimeout q) s [.clk, .sid, .cqs] (fun t =>
      t.m.dev.cq q = some { c with unsent := 0 } ∧ t.m.dev.clk = max s.m.dev.clk (c.aggFrom + 1000 * c.aggTime))))

/-- R414 to R417, R423, R424: the queue commands. -/
def Obligations.QueueCommands : Prop := ∀ (s : State) (sq cid : Nat) (c : Cmd),
  (s.Runs sq cid 0x02 c → 0 < c.target → c.target ≤ 255 → s.m.dev.cq c.target = none → c.dataKind = 1 → c.dataAddr % 4096 = 0 →
    2 ≤ c.dw 0 % 2 ^ 17 → c.dw 0 % 2 ^ 17 ≤ 65536 → c.dataLen = 16 * (c.dw 0 % 2 ^ 17) → bits (c.dw 1) 0 6 ≠ 0 →
    bits (c.dw 1) 0 6 ≠ 63 →
    Yields (.createCq sq cid) s [.cqs, .commands, .errorLog, .seq] (fun t => t.Ends sq cid Status.ok 0 ∧
      ∃ q, t.m.dev.cq c.target = some q ∧ q.base = c.dataAddr ∧ q.size = c.dw 0 % 2 ^ 17 ∧ q.head = 0 ∧ q.tail = 0 ∧
        q.phase = true ∧ q.vector = bits (c.dw 1) 0 6 ∧ q.ien = bit (c.dw 1) 8 ∧ q.aggTime = bits (c.dw 2) 8 8 ∧
        q.aggCount = bits (c.dw 2) 0 8)) ∧
  (s.Runs sq cid 0x01 c → 0 < c.target → c.target ≤ 255 → s.m.dev.sq c.target = none → bits (c.dw 1) 0 8 ≠ 0 →
    (∃ q, s.m.dev.cq (bits (c.dw 1) 0 8) = some q ∧ q.ring = none) → c.dataKind = 1 → c.dataAddr % 4096 = 0 →
    2 ≤ c.dw 0 % 2 ^ 17 → c.dw 0 % 2 ^ 17 ≤ 65536 → c.dataLen = 64 * (c.dw 0 % 2 ^ 17) → 0 < bits (c.dw 1) 8 4 →
    bits (c.dw 1) 8 4 ≤ 8 →
    Yields (.createSq sq cid) s [.sqs, .commands, .errorLog, .seq] (fun t => t.Ends sq cid Status.ok 0 ∧
      t.m.dev.sq c.target = some { base := c.dataAddr, size := c.dw 0 % 2 ^ 17, high := bit (c.dw 1) 12,
                                   burst := bits (c.dw 1) 8 4, cq := bits (c.dw 1) 0 8 })) ∧
  (s.Runs sq cid 0x04 c → c.target ≠ 0 → (∃ q, s.m.dev.cq c.target = some q ∧ q.ring = none) →
    (∀ e ∈ s.m.dev.host.sqs, ∀ x, e.2 = some x → x.cq ≠ c.target) →
    Yields (.deleteCq sq cid) s [.cqs, .commands, .errorLog, .seq] (fun t => t.Ends sq cid Status.ok 0 ∧
      t.m.dev.host.cqs = Tbl.set (fun _ => none) s.m.dev.host.cqs c.target none ∧ ∀ e ∈ t.m.dev.host.held, e.cq ≠ c.target)) ∧
  (∀ x, s.Runs sq cid 0x03 c → c.target ≠ 0 → c.target ≠ sq → s.m.dev.sq c.target = some x → x.deleting = false →
    (∀ k ∈ s.m.dev.host.cmds, k.sq ≠ c.target) → (∀ k ∈ s.m.dev.host.cmds, k.opcode = 0x03 → k.phase ≠ .running) →
    Yields (.deleteSq sq cid) s [.sqs, .commands, .errorLog, .seq] (fun t => t.Ends sq cid Status.ok 0 ∧
      t.m.dev.host.sqs = ((s.m.dev.setSq c.target (some { x with deleting := true })).setSq c.target none).host.sqs)) ∧
  (s.Runs sq cid 0x08 c → s.m.dev.host.aer.length < 16 → s.m.dev.host.events = [] →
    Yields (.asyncEventRequest sq cid) s [.events, .commands, .errorLog, .seq] (fun t => t.GoesOn sq cid ∧
      t.m.dev.host.aer = s.m.dev.host.aer ++ [c.cid]))

/-- R373, R376 to R382: how a boot sequence of an SPI strap without failures runs its image, and when it enters twilight mode. -/
def Obligations.BootRom : Prop := ∀ (s : State) (train1 train2 : Bool) (gib ranks : Nat) (badA badB : Bool), s.Live →
  s.m.dev.boot.fresh = true → s.m.dev.boot.state = .romInit →
  (∀ r, s.m.mem.record = some r → (train1 = true ∨ train2 = true) → gib ∈ [8, 12, 16] → 1 ≤ ranks → ranks ≤ 2 →
    s.m.dev.boot.bootSrc = 0 → s.m.dev.boot.role ≠ 3 → s.m.dev.boot.testEn = false → s.m.dev.boot.cause ≠ .twilightEnter →
    r.inProgress = .none → r.failed = 0 → r.exclA = false → badA = false →
    Yields (.bootRomStart train1 train2 gib ranks badA badB) s [.seq, .boot, .mailboxes, .sqs, .cqs, .admin, .bbx, .sid, .dram, .power, .mram] (fun t => t.m.dev.boot.dramOk = true ∧
      match checkImage s.m.dev.otp s.m.dev.boot.role (s.m.mem.norImage .a) with
      | .good ver sec => t.m.dev.boot.state = .fwStart ∧ t.m.dev.boot.image = .a ∧ t.m.dev.boot.fwVersion = ver ∧
          t.m.dev.boot.secVersion = sec ∧ t.m.dev.boot.wdogAt = some s.m.dev.clk ∧ t.m.dev.boot.readyTimer = some s.m.dev.clk
      | .bad _ => t.m.dev.boot.state = .twilight ∨ t.m.dev.boot.state = .fwStart ∧ t.m.dev.boot.image = .b)) ∧
  (s.m.mem.record = none →
    Yields (.bootRomStart train1 train2 gib ranks badA badB) s [.seq, .boot, .mailboxes, .sqs, .cqs, .admin, .bbx, .sid, .dram, .power, .mram] (fun t =>
      t.m.dev.boot.state = .twilight ∧ t.m.dev.boot.reason = 5 ∧ t.m.dev.power.on = twilightDomains)) ∧
  (s.m.mem.record ≠ none → train1 = false → train2 = false →
    Yields (.bootRomStart train1 train2 gib ranks badA badB) s [.seq, .boot, .mailboxes, .sqs, .cqs, .admin, .bbx, .sid, .dram, .power, .mram] (fun t =>
      t.m.dev.boot.state = .twilight ∧ t.m.dev.boot.reason = 4 ∧ t.m.dev.boot.dramOk = s.m.dev.boot.dramOk))

/-- R379, R380, R395, R396: the boot timers, READY, and the mailbox services of the boot controller. -/
def Obligations.BootServices : Prop := ∀ s : State, s.Live →
  (∀ t0, s.m.dev.boot.wdogAt = some t0 →
    Yields .bootWatchdogExpiry s [.clk, .boot, .sid] (fun t => t.m.dev.boot.wdogAt = none ∧ t.m.dev.boot.readyTimer = none ∧
      t.m.dev.boot.resetDue = some (.bootWdog, max s.m.dev.clk (500000000 + t0)))) ∧
  (∀ t0, s.m.dev.boot.readyTimer = some t0 →
    Yields .readyTimeout s [.clk, .boot, .sid] (fun t => t.m.dev.boot.wdogAt = none ∧ t.m.dev.boot.readyTimer = none ∧
      t.m.dev.boot.resetDue = some (.readyTimeout, max s.m.dev.clk (2000000000 + t0)))) ∧
  (s.m.dev.boot.state = .fwStart → s.m.dev.tick.running = true → s.m.dev.boot.resetDue = none →
    Yields .ready s [.seq, .boot, .sqs, .cqs, .admin, .bbx, .link, .pools, .dram, .power, .mram, .feat 0x22] (fun t => t.m.dev.boot.state = .ready ∧ t.m.dev.boot.wdogAt = none ∧ t.m.dev.boot.readyTimer = none ∧
      t.m.dev.power.on = BitVec.allOnes 38 ∧ t.m.dev.pools.ready = true ∧ t.m.dev.twk.mode = .run ∧
      t.m.mem = (s.m.putRecord { writes := (s.m.mem.record.map BootRecord.writes).getD 0 }).mem)) ∧
  (∀ addr len, s.m.dev.mbxWaits 0 1 = true → s.m.dev.boot.state = .hostWait → rd (s.m.dev.mailbox 0).args 0 8 = addr →
    rd (s.m.dev.mailbox 0).args 8 4 = len → addr % 4096 = 0 → 513 ≤ len → len ≤ 33554369 → hostOk addr len = true →
    Yields (.load true) s [.seq, .boot, .mailboxes, .sqs, .cqs, .admin, .bbx, .power, .mram] (fun t => (t.m.dev.mailbox 0).busy = false ∧
      (256 + rd (s.m.mem.hostRead addr len) 16 4 + 193 = len →
        match checkImage s.m.dev.otp s.m.dev.boot.role (s.m.mem.hostRead addr len) with
        | .good ver sec => t.m.dev.boot.state = .fwStart ∧ t.m.dev.boot.image = .host ∧ t.m.dev.boot.fwVersion = ver ∧
            t.m.dev.boot.secVersion = sec ∧ (t.m.dev.mailbox 0).status = 0
        | .bad _ => t.m.dev.boot.state ≠ .fwStart ∧ (t.m.dev.mailbox 0).status ≠ 0))) ∧
  (s.m.dev.mbxWaits 0 2 = true → (s.m.dev.boot.state = .ready → s.m.dev.anyCapture = false) →
    Yields .reboot s [.boot, .mailboxes] (fun t => t.m.dev.boot.resetDue = some (.reboot, 10000000 + s.m.dev.clk) ∧
      (t.m.dev.mailbox 0).status = 0 ∧ (t.m.dev.mailbox 0).done = true)) ∧
  (s.m.dev.mbxWaits 0 3 = true → (s.m.dev.boot.state = .ready → s.m.dev.anyCapture = false) →
    Yields .twilightEnter s [.boot, .mailboxes] (fun t => t.m.dev.boot.resetDue = some (.twilightEnter, 10000000 + s.m.dev.clk) ∧
      (t.m.dev.mailbox 0).status = 0 ∧ (t.m.dev.mailbox 0).done = true))

/-- R364, R365, R583, R599: what a power-on, external or internal reset leaves. -/
def Obligations.Resets : Prop := ∀ s : State,
  (∀ role bootSrc testEn, ∃ t, exec (.powerOnReset role bootSrc testEn) s = .next t ∧ t.pending = s.pending ∧
    (∀ f o, t.m.dev.reg f o = regDefault (regKey f o)) ∧ t.m.dev.boot.state = .romInit ∧ t.m.dev.boot.role = role % 4 ∧
    t.m.dev.boot.bootSrc = bootSrc % 4 ∧ t.m.dev.boot.testEn = testEn ∧ t.m.dev.boot.cause = .powerOn ∧ t.Live ∧
    t.m.dev.host = {} ∧ t.m.dev.caps = [] ∧ t.m.dev.ctxs = [] ∧ t.m.dev.otp = s.m.dev.otp ∧ t.m.mem = { s.m.mem with dram := [] }) ∧
  (∀ low role bootSrc testEn, s.m.dev.off = false → 2000 ≤ low →
    ∃ t, exec (.externalReset low role bootSrc testEn) s = .next t ∧ t.pending = s.pending ∧
    (∀ f o, t.m.dev.reg f o = regDefault (regKey f o)) ∧ t.m.dev.boot.state = .romInit ∧ t.m.dev.boot.role = role % 4 ∧
    t.m.dev.boot.cause = .external ∧ t.Live ∧ t.m.dev.host = {} ∧ t.m.dev.caps = [] ∧ t.m.dev.otp = s.m.dev.otp ∧ t.m.mem.dram = [] ∧
    t.m.mem.host = s.m.mem.host ∧ t.m.mem.nor = s.m.mem.nor ∧ t.m.mem.carriers = s.m.mem.carriers) ∧
  (∀ low role bootSrc testEn, s.m.dev.off = false → low < 2000 →
    ∃ t, exec (.externalReset low role bootSrc testEn) s = .next t ∧ t.pending = s.pending ∧ s.m.Only [.clk, .sid] t.m) ∧
  (∀ cause at_, s.Live → s.m.dev.boot.resetDue = some (cause, at_) →
    ∃ t, exec .internalReset s = .next t ∧ t.pending = s.pending ∧ (∀ f o, t.m.dev.reg f o = regDefault (regKey f o)) ∧
    t.m.dev.boot.state = .romInit ∧ t.m.dev.boot.cause = cause ∧ t.m.dev.boot.role = s.m.dev.boot.role % 4 ∧
    t.m.dev.boot.bootSrc = s.m.dev.boot.bootSrc % 4 ∧ t.m.dev.caps = [] ∧ t.m.dev.otp = s.m.dev.otp ∧ t.m.mem.dram = [])

/-- R331, R366, R368, R580: the PCI Express reset and link, power lost, and a supply out of its range. -/
def Obligations.PcieAndPower : Prop := ∀ s : State,
  (∀ perst low, s.Live → (perst = true → 2000 ≤ low) →
    Yields (.pcieReset perst low) s [.clk, .boot, .sqs, .cqs, .turns, .admin, .commands, .events, .access, .sid] (fun t => t.m.dev.host.sqs = [] ∧ t.m.dev.host.admEn = false ∧
      t.m.dev.host.admRdy = false ∧ t.m.dev.boot.linkUp = false ∧
      (∀ q c, (q, some c) ∈ t.m.dev.host.cqs → c.ring ≠ none) ∧ t.m.dev.boot.state = s.m.dev.boot.state)) ∧
  (∀ rise dt, s.Live → Yields (.pcieLinkUp rise dt) s [.clk, .boot, .sid] (fun t => t.m.dev.boot.linkUp = true ∧
      t.m.dev.clk = s.m.dev.clk + (rise + min dt 20000000))) ∧
  (∃ t, exec (.powerLoss none) s = .next t ∧ t.pending = s.pending ∧ t.m.dev.off = true ∧ t.m.dev.undef = false ∧
    t.m.dev.otp = s.m.dev.otp ∧ t.m.mem = { s.m.mem with dram := [] } ∧ ∀ f o, t.m.dev.reg f o = regDefault (regKey f o)) ∧
  (∀ p, s.Live → p < 2 → (s.m.dev.mag p).powered = true → s.m.dev.mags.length = 2 →
    Yields (.powerLoss (some p)) s (List.append [.clk, .undef, .off, .seq, .stats, .snap, .boot, .otp, .staged, .mailboxes, .sqs, .cqs, .turns, .admin, .commands, .events, .errorLog, .logs, .admission, .access, .flt, .bbx, .sid, .tick, .eth, .refillAt, .shapers, .policers, .link, .fab, .pools, .dram, .wports, .dma, .dmaEvents, .power, .pins, .ctxs, .caps, .prism, .codec, .seqr, .proxy, .mags, .dramMem, .carriers] ((List.finRange 64).map Part.feat)) (fun t => (t.m.dev.mag p).seated = (s.m.dev.mag p).seated ∧
      (t.m.dev.mag p).present = (s.m.dev.mag p).present ∧ t.m.dev.pins.magPwrEn.getD p false = false)) ∧
  (∃ t, exec .supplyOutOfRange s = .next t ∧ t.pending = s.pending ∧ t.m.dev.undef = true ∧ s.m.Only [.undef] t.m)

/-- R439, R481 to R486: POWER_SET. R484, R485: the end of quiescing, and its timeout. -/
def Obligations.PowerDomains : Prop :=
  (∀ (s : State) (sq cid : Nat) (c : Cmd), s.Runs sq cid 0x19 c →
  (∀ o ∈ s.m.dev.power.ops, o.domain ≠ c.target) → powerField c = none →
  (bit (c.dw 0) 0 = false →
    (s.m.dev.powered c.target = false →
      Yields (.powerSetOff sq cid) s [.seq, .commands, .errorLog, .admission, .power] (fun t => t.Ends sq cid Status.ok 0 ∧ t.m.dev.power = s.m.dev.power)) ∧
    (s.m.dev.powered c.target = true → s.m.dev.offDenied c.target = true →
      Yields (.powerSetOff sq cid) s [.seq, .commands, .errorLog, .admission, .power] (fun t => t.Ends sq cid Status.admissionDenied 0 ∧
        t.m.dev.power = s.m.dev.power ∧ t.m.dev.host.admission ≠ none)) ∧
    (s.m.dev.powered c.target = true → s.m.dev.offDenied c.target = false →
      Yields (.powerSetOff sq cid) s [.seq, .commands, .errorLog, .admission, .power] (fun t => t.GoesOn sq cid ∧ t.m.dev.powered c.target = true ∧
        t.m.dev.quiescing c.target = true ∧
        t.m.dev.power.ops = s.m.dev.power.ops ++
          [{ domain := c.target, off := true, level := 0, sq := sq, cid := cid,
             until_ := s.m.dev.clk + 1000 * (if c.dw 1 = 0 then 100 else c.dw 1) }]))) ∧
  (bit (c.dw 0) 0 = true → s.m.dev.powered c.target = false →
    Yields (.powerSetOn sq cid) s [.seq, .commands, .errorLog, .admission, .power] (fun t => t.Ends sq cid Status.ok 0 ∧ t.m.dev.powered c.target = true ∧
      ∀ j, j ≠ c.target → t.m.dev.powered j = s.m.dev.powered j))) ∧
  (∀ (s : State) (k : Nat) (o : PowerOp) (c : Cmd), s.Live → k < 38 →
  s.m.dev.power.ops.find? (fun o => o.off && decide (o.domain = k)) = some o → s.m.dev.cmd o.sq o.cid = some c → (o.sq ≠ 0 ∨ o.cid ∉ s.m.dev.host.aer) →
  (∀ dt, s.m.dev.drained k = true → s.m.dev.clk + dt ≤ o.until_ →
    Yields (.quiesceDone k dt) s (List.append [.clk, .seq, .stats, .commands, .events, .errorLog, .flt, .bbx, .sid, .eth, .link, .dma, .power, .prism, .codec, .proxy] ((List.finRange 64).map Part.feat)) (fun t => t.Ends o.sq o.cid Status.ok 0 ∧ t.m.dev.powered k = false ∧
      t.m.dev.quiescing k = false ∧ t.m.dev.clk = s.m.dev.clk + dt)) ∧
  (s.m.dev.drained k = false →
    Yields (.quiesceTimeout k) s [.clk, .seq, .commands, .errorLog, .sid, .power, .feat 0x20] (fun t => t.Ends o.sq o.cid Status.busyQuiesce 0 ∧
      t.m.dev.powered k = s.m.dev.powered k ∧ t.m.dev.quiescing k = false ∧ t.m.dev.clk = max s.m.dev.clk o.until_)))

/-- R466, R467: scrubbing, and the reading of MR4. R545 to R550, R595: the reports of PCI Express, the control SRAM and the
temperature sensor. -/
def Obligations.DramUpkeepAndFaultSources : Prop :=
  (∀ (s : State) (c : Nat), s.Live → s.m.dev.Shape → c < 4 →
  (s.m.dev.dram.getD c {}).trained = true → s.m.dev.takesWork (20 + c) = true →
  (∀ found, Yields (.dramScrub c found) s [.clk, .seq, .stats, .commands, .events, .flt, .bbx, .sid, .link, .dram, .feat 0x1E] (fun t =>
    t.m.dev.clk = max s.m.dev.clk ((s.m.dev.dram.getD c {}).scrubAt + 10 ^ 9 * (3600 * fld (s.m.dev.reg 0x1E (0x40 * c + 0x04)) 0 8)) ∧
    (t.m.dev.dram.getD c {}).scrubAt = t.m.dev.clk)) ∧
  (∀ codes, Yields (.mr4Read c codes) s [.clk, .seq, .stats, .commands, .events, .flt, .bbx, .sid, .link, .dram] (fun t =>
    t.m.dev.clk = max s.m.dev.clk (4000000 + (s.m.dev.dram.getD c {}).mr4At) ∧ (t.m.dev.dram.getD c {}).mr4At = t.m.dev.clk ∧
    (t.m.dev.dram.getD c {}).mr4 = codes.foldl max 0 % 256 ∧
    (codes.any Config.mr4Above85 = true → (t.m.dev.dram.getD c {}).refresh2x = true) ∧
    (codes.any Config.mr4Beyond = true → 466 + 4 * c ∈ t.m.dev.flt.causes) ∧
    (codes.any Config.mr4Beyond = false → 466 + 4 * c ∉ t.m.dev.flt.causes)))) ∧
  (∀ s : State, s.Live →
  (∀ (unc : Bool) status src, src = (if unc then 498 else 497) →
    Yields (.pcieAerError unc status) s [.seq, .stats, .commands, .events, .flt, .bbx, .link] (fun t => t.m.dev.flt.lastSrc = src ∧
      t.m.dev.flt.lastArg = status % 2 ^ 32 ∧ t.m.dev.flt.lastClass = s.m.dev.flt.classOf src ∧ t.m.dev.flt.lastTime = s.m.dev.sdt ∧
      ∀ k, k < 600 → t.m.dev.flt.status.getLsbD k = (s.m.dev.flt.status.getLsbD k ||
        (decide (k = src) && decide (s.m.dev.flt.classOf src ≠ 0))))) ∧
  (∀ (unc : Bool) addr src, src = (if unc then 493 else 492) →
    Yields (.controlSramError unc addr) s [.seq, .stats, .commands, .events, .flt, .bbx, .link] (fun t => t.m.dev.flt.lastSrc = src ∧
      t.m.dev.flt.lastArg = addr % 2 ^ 32 ∧ t.m.dev.flt.lastClass = s.m.dev.flt.classOf src ∧
      ∀ k, k < 600 → t.m.dev.flt.status.getLsbD k = (s.m.dev.flt.status.getLsbD k ||
        (decide (k = src) && decide (s.m.dev.flt.classOf src ≠ 0))))) ∧
  (∀ (celsius top : Int), top = (if Config.industrialGrade then 105 else 95) →
    Yields (.tempSample celsius) s [.seq, .stats, .commands, .events, .flt, .bbx, .link] (fun t =>
      (496 ∉ s.m.dev.flt.causes → top < celsius → 496 ∈ t.m.dev.flt.causes ∧ t.m.dev.flt.lastSrc = 496 ∧
        t.m.dev.flt.lastArg = (celsius % (2 ^ 32 : Int)).toNat) ∧
      (496 ∉ s.m.dev.flt.causes → celsius ≤ top → t.m.dev.flt = s.m.dev.flt) ∧
      (496 ∈ s.m.dev.flt.causes → celsius ≤ top - 3 → 496 ∉ t.m.dev.flt.causes) ∧
      (496 ∈ s.m.dev.flt.causes → top - 3 < celsius → t.m.dev.flt = s.m.dev.flt))))

/-- R472, R473: MOVE, FILL and CMP of accessible ranges, where the program goes on with the next instruction. -/
def Obligations.DmaData : Prop := ∀ (s : State) (ch : Nat) (i : DmaInstr), s.Live → s.m.dev.Shape → ch < 32 →
  s.m.dmaCur ch = some i → s.m.dev.powered (24 + ch / 8) = true →
  fixedOk (bit i.mode 0) ((s.m.dev.dmaCh ch).srcOf i) i.len = true → fixedOk (bit i.mode 1) ((s.m.dev.dmaCh ch).dstOf i) i.len = true →
  (∀ ecc b m1 m2, i.op = 1 → i.len ≠ 0 →
    Mach.dmaSource { s.m with dev := s.m.dev.eccFound (ecc.filter (fun e => decide ((s.m.dev.dmaCh ch).srcOf i ≤ e.1 ∧
      e.1 < (s.m.dev.dmaCh ch).srcOf i + i.len))) } ch ((s.m.dev.dmaCh ch).srcOf i) i.len (bit i.mode 0) = (some b, m1) →
    m1.dmaDest ch ((s.m.dev.dmaCh ch).dstOf i) b (bit i.mode 1) = (true, m2) →
    (m2.dmaArrive ch ((s.m.dev.dmaCh ch).index + 1)).1 = none →
    Yields (.dmaMove ch ecc) s [.seq, .stats, .commands, .events, .errorLog, .flt, .bbx, .link, .dram, .dma, .hostMem, .dramMem, .feat 0x1E, .feat 0x1F] (fun t => t.m.mem = m2.mem ∧ (t.m.dev.dmaCh ch).state = .running ∧
      (t.m.dev.dmaCh ch).index = (s.m.dev.dmaCh ch).index + 1 ∧
      (t.m.dev.dmaCh ch).bytes = ((s.m.dev.dmaCh ch).bytes + i.len) % 2 ^ 64)) ∧
  (∀ m1, i.op = 2 → i.len % 4 = 0 → (s.m.dev.dmaCh ch).dstOf i % 4 = 0 →
    s.m.dmaDest ch ((s.m.dev.dmaCh ch).dstOf i) ((List.range i.len).map (fun k => (leBytes 4 i.src).getD (k % 4) 0)) (bit i.mode 1)
      = (true, m1) →
    (m1.dmaArrive ch ((s.m.dev.dmaCh ch).index + 1)).1 = none →
    Yields (.dmaFill ch) s [.seq, .stats, .commands, .events, .errorLog, .flt, .bbx, .link, .dram, .dma, .hostMem, .dramMem, .feat 0x1E, .feat 0x1F] (fun t => t.m.mem = m1.mem ∧ (t.m.dev.dmaCh ch).state = .running ∧
      (t.m.dev.dmaCh ch).index = (s.m.dev.dmaCh ch).index + 1 ∧
      (t.m.dev.dmaCh ch).bytes = ((s.m.dev.dmaCh ch).bytes + i.len) % 2 ^ 64)) ∧
  (∀ ecc a b m1 m2, i.op = 3 →
    Mach.dmaSource { s.m with dev := s.m.dev.eccFound (ecc.filter (fun e => decide ((s.m.dev.dmaCh ch).srcOf i ≤ e.1 ∧
      e.1 < (s.m.dev.dmaCh ch).srcOf i + i.len) || decide ((s.m.dev.dmaCh ch).dstOf i ≤ e.1 ∧
      e.1 < (s.m.dev.dmaCh ch).dstOf i + i.len))) } ch ((s.m.dev.dmaCh ch).srcOf i) i.len (bit i.mode 0) = (some a, m1) →
    m1.dmaSource ch ((s.m.dev.dmaCh ch).dstOf i) i.len (bit i.mode 1) = (some b, m2) →
    (firstDiff a b 0 = none ∨ bit i.mode 4 = false) →
    (m2.dmaArrive ch ((s.m.dev.dmaCh ch).index + 1)).1 = none →
    Yields (.dmaCmp ch ecc) s [.seq, .stats, .commands, .events, .errorLog, .flt, .bbx, .link, .dram, .dma, .hostMem, .dramMem, .feat 0x1E, .feat 0x1F] (fun t => t.m.mem = s.m.mem ∧ (t.m.dev.dmaCh ch).state = .running ∧
      (t.m.dev.dmaCh ch).index = (s.m.dev.dmaCh ch).index + 1 ∧
      (t.m.dev.dmaCh ch).miscompare = ((s.m.dev.dmaCh ch).miscompare || (firstDiff a b 0).isSome)))

/-- R473, R474, R475, R477: LOOP, WAIT, SIGNAL and END. -/
def Obligations.DmaControl : Prop := ∀ (s : State) (ch : Nat) (i : DmaInstr), s.Live → s.m.dev.Shape → ch < 32 →
  s.m.dmaCur ch = some i → s.m.dev.powered (24 + ch / 8) = true →
  (∀ now, i.op = 4 → i.len ≠ 0 → i.dst % 4096 < (s.m.dev.dmaCh ch).index →
    now = (if (s.m.dev.dmaCh ch).counters.getD (i.mode % 4) 0 = 0 then i.len else (s.m.dev.dmaCh ch).counters.getD (i.mode % 4) 0) - 1 →
    (s.m.dmaArrive ch (if 0 < now then i.dst % 4096 else (s.m.dev.dmaCh ch).index + 1)).1 = none →
    Yields (.dmaLoop ch) s [.seq, .stats, .commands, .events, .errorLog, .flt, .bbx, .link, .dram, .dma, .hostMem, .dramMem, .feat 0x1E, .feat 0x1F] (fun t =>
      (t.m.dev.dmaCh ch).index = (if 0 < now then i.dst % 4096 else (s.m.dev.dmaCh ch).index + 1) ∧
      (t.m.dev.dmaCh ch).counters = modAt (s.m.dev.dmaCh ch).counters (i.mode % 4) (fun _ => now) ∧ t.m.mem = s.m.mem)) ∧
  (i.op = 5 → waitable (i.dst % 64) = true → bit (s.m.dev.dmaCh ch).waitMask (i.dst % 64) = true →
    (8 ≤ i.dst % 64 → bit s.m.dev.dmaEvents (i.dst % 64) = false) →
    Yields (.dmaWait ch) s [.seq, .stats, .commands, .events, .errorLog, .flt, .bbx, .link, .dram, .dma, .dmaEvents, .hostMem, .dramMem, .feat 0x1E, .feat 0x1F] (fun t => (t.m.dev.dmaCh ch).state = .waiting ∧ (t.m.dev.dmaCh ch).waitEvent = i.dst % 64 ∧
      (t.m.dev.dmaCh ch).index = (s.m.dev.dmaCh ch).index ∧
      (t.m.dev.dmaCh ch).waitUntil = (if i.len = 0 then none else some (s.m.dev.clk + 1000 * i.len)) ∧
      t.m.dev.dmaEvents = s.m.dev.dmaEvents)) ∧
  (i.op = 6 → 8 ≤ i.dst % 64 → bit (s.m.dev.dmaCh ch).signalMask (i.dst % 64) = true → s.m.dev.waitersOn (i.dst % 64) = [] →
    (s.m.dmaArrive ch ((s.m.dev.dmaCh ch).index + 1)).1 = none →
    Yields (.dmaSignal ch) s [.seq, .stats, .commands, .events, .errorLog, .flt, .bbx, .link, .dram, .dma, .dmaEvents, .hostMem, .dramMem, .feat 0x1E, .feat 0x1F] (fun t => t.m.dev.dmaEvents = (if bit s.m.dev.dmaEvents (i.dst % 64) then s.m.dev.dmaEvents
        else putBit s.m.dev.dmaEvents (i.dst % 64) true) ∧
      (t.m.dev.dmaCh ch).index = (s.m.dev.dmaCh ch).index + 1)) ∧
  (∀ k c, i.op = 7 → bit (s.m.dev.reg 0x1F (0x40 * ch + 0x28)).toNat 0 = false → (s.m.dev.dmaCh ch).cmd = some k →
    s.m.dev.cmd k.1 k.2 = some c → (k.1 ≠ 0 ∨ k.2 ∉ s.m.dev.host.aer) →
    Yields (.dmaEnd ch) s [.seq, .stats, .commands, .events, .errorLog, .flt, .bbx, .link, .dram, .dma, .hostMem, .dramMem, .feat 0x1E, .feat 0x1F] (fun t => (t.m.dev.dmaCh ch).state = .idle ∧
      t.Ends k.1 k.2 Status.ok ((s.m.dev.dmaCh ch).statusWord 0 % 2 ^ 32) ∧ t.m.mem = (s.m.dmaWriteBack ch 0).mem))

/-- R474, R473, R478, R479, R459: events, the end of a WAIT, arming, and DMA_RUN. -/
def Obligations.DmaStart : Prop := ∀ (s : State) (ch : Nat), s.Live → s.m.dev.Shape → ch < 32 →
  (∀ v, (s.m.dev.dmaCh ch).state = .waiting → (s.m.dev.dmaCh ch).released = true → (s.m.dev.dmaCh ch).waitEvent = v →
    (∀ k, k ≠ ch → (s.m.dev.dmaCh k).state ≠ .waiting) →
    (s.m.dmaArrive ch ((s.m.dev.dmaCh ch).index + 1)).1 = none →
    Yields (.dmaEventRelease v) s [.seq, .stats, .commands, .events, .errorLog, .flt, .bbx, .link, .dram, .dma, .hostMem, .dramMem, .feat 0x1E, .feat 0x1F] (fun t => (t.m.dev.dmaCh ch).state = .running ∧
      (t.m.dev.dmaCh ch).index = (s.m.dev.dmaCh ch).index + 1 ∧ t.m.mem = s.m.mem)) ∧
  (∀ t0 k c, (s.m.dev.dmaCh ch).state = .waiting → (s.m.dev.dmaCh ch).released = false → (s.m.dev.dmaCh ch).waitUntil = some t0 →
    bit (s.m.dev.reg 0x1F (0x40 * ch + 0x28)).toNat 0 = false → (s.m.dev.dmaCh ch).cmd = some k → s.m.dev.cmd k.1 k.2 = some c →
    (k.1 ≠ 0 ∨ k.2 ∉ s.m.dev.host.aer) →
    Yields (.waitTimeout ch) s [.clk, .seq, .stats, .commands, .events, .errorLog, .flt, .bbx, .sid, .link, .dram, .dma, .hostMem, .dramMem, .feat 0x1E, .feat 0x1F] (fun t => (t.m.dev.dmaCh ch).state = .idle ∧ t.m.dev.clk = max s.m.dev.clk t0 ∧
      t.Ends k.1 k.2 Status.ok ((s.m.dev.dmaCh ch).statusWord 2 % 2 ^ 32))) ∧
  (s.m.dev.powered (24 + ch / 8) = true → (s.m.dev.dmaCh ch).state ≠ .idle →
    Yields (.dmaArm ch true) s [.seq, .stats, .commands, .events, .errorLog, .flt, .bbx, .link, .dram, .dma, .hostMem, .dramMem, .feat 0x1E, .feat 0x1F] (fun t => t.m.dev.reg 0x1F (0x40 * ch + 0x28) = 1 ∧ t.m.mem = s.m.mem)) ∧
  (s.m.dev.powered (24 + ch / 8) = true →
    Yields (.dmaArm ch false) s [.seq, .stats, .commands, .events, .errorLog, .flt, .bbx, .link, .dram, .dma, .hostMem, .dramMem, .feat 0x1E, .feat 0x1F] (fun t => t.m.dev.reg 0x1F (0x40 * ch + 0x28) = 0 ∧ (t.m.dev.dmaCh ch).armCmd = none ∧
      t.m.mem = s.m.mem)) ∧
  (∀ mask, (∀ k, (s.m.dev.dmaCh k).state ≠ .waiting) →
    Yields (.dmaEventSet mask) s [.dma, .dmaEvents] (fun t => ∀ v, v < 64 →
      bit t.m.dev.dmaEvents v = (bit s.m.dev.dmaEvents v || (decide (8 ≤ v) && bit mask v)))) ∧
  (∀ sq cid c, s.Runs sq cid 0x68 c → (sq ≠ 0 ∨ cid ∉ s.m.dev.host.aer) → c.target = ch → c.dw64 0 % 32 = 0 → c.dw64 0 < 2 ^ 40 → s.m.dev.takesWork (24 + ch / 8) = true →
    ((s.m.dev.dmaCh ch).state = .idle →
      (s.m.dmaBegin ch (c.dw64 0) (s.m.dev.reg64 0x1F (0x40 * ch + 0x18)) (s.m.dev.reg64 0x1F (0x40 * ch + 0x20))
        (some (sq, cid))).1 = none →
      Yields (.dmaRun sq cid) s [.seq, .stats, .commands, .events, .errorLog, .flt, .bbx, .link, .dram, .dma, .hostMem, .dramMem, .feat 0x1E, .feat 0x1F] (fun t => t.GoesOn sq cid ∧ (t.m.dev.dmaCh ch).state = .running ∧
        (t.m.dev.dmaCh ch).prog = c.dw64 0 ∧ (t.m.dev.dmaCh ch).index = 0 ∧ (t.m.dev.dmaCh ch).cmd = some (sq, cid))) ∧
    ((s.m.dev.dmaCh ch).state ≠ .idle → bit (s.m.dev.reg 0x1F (0x40 * ch + 0x28)).toNat 0 = false →
      Yields (.dmaRun sq cid) s [.seq, .stats, .commands, .events, .errorLog, .flt, .bbx, .link, .dram, .dma, .hostMem, .dramMem, .feat 0x1E, .feat 0x1F] (fun t => t.GoesOn sq cid ∧ t.m.dev.reg 0x1F (0x40 * ch + 0x28) = 1 ∧
        t.m.dev.reg64 0x1F (0x40 * ch + 0x10) = c.dw64 0 ∧ (t.m.dev.dmaCh ch).armCmd = some (sq, cid))))

/-- R438: TIME_SET. R488 to R492: the counter after a STEP and during and after a slew. R489, R491: the PPS pins, and the loss of
lock. -/
def Obligations.SiderealTime : Prop :=
  (∀ s : State,
  (∀ sq cid c, s.Runs sq cid 0x18 c → c.dw 0 % 4 = 0 → s.m.dev.timeSetRefused = false → s.m.dev.anyCapture = false →
    Yields (.step sq cid) s [.seq, .commands, .errorLog, .admission, .bbx, .sid, .tick, .feat 0x01] (fun t => t.Ends sq cid Status.ok 0 ∧ t.m.dev.sdt = 2 ^ 32 * c.dw 3 + c.dw 2 ∧
      t.m.dev.sid.set = true ∧ t.m.dev.sid.slew = none)) ∧
  (∀ sq cid c, s.Runs sq cid 0x18 c → c.dw 0 % 4 = 0 → s.m.dev.timeSetRefused = false → s.m.dev.anyCapture = true →
    Yields (.step sq cid) s [.seq, .commands, .errorLog, .admission, .bbx, .sid, .tick, .feat 0x01] (fun t => t.Ends sq cid Status.admissionDenied 0 ∧ t.m.dev.sid = s.m.dev.sid)) ∧
  (∀ sq cid c, s.Runs sq cid 0x18 c → c.dw 0 % 4 = 1 → s.m.dev.timeSetRefused = false →
    Yields (.slew sq cid) s [.seq, .commands, .errorLog, .bbx, .sid] (fun t => t.Ends sq cid Status.ok 0 ∧ t.m.dev.sdt = s.m.dev.sdt ∧ t.m.dev.sid.set = true ∧
      ∃ w, t.m.dev.sid.slew = some w ∧ w.from_ = s.m.dev.clk ∧ 0 < w.ppb ∧ w.ppb ≤ 500000 ∧
        w.offset = (if 2 ^ 32 * c.dw 3 + c.dw 2 < 2 ^ 63 then ((2 ^ 32 * c.dw 3 + c.dw 2 : Nat) : Int)
          else ((2 ^ 32 * c.dw 3 + c.dw 2 : Nat) : Int) - 2 ^ 64))) ∧
  (∀ w, s.Live → s.m.dev.sid.slew = some w →
    Yields .slewEnd s [.clk, .sid] (fun t => t.m.dev.sid.slew = none ∧ t.m.dev.clk = max s.m.dev.clk (w.from_ + w.duration) ∧
      t.m.dev.sid.und = shift (s.m.dev.advanceTo (w.from_ + w.duration)).sid.und w.offset))) ∧
  (∀ s : State, s.Live →
  (∀ dt, s.m.dev.discipline ≠ 3 → Yields (.ppsInEdge dt) s [.clk, .seq, .commands, .events, .bbx, .sid, .tick, .dma, .feat 0x01] (fun t =>
    t.m.dev.sid.ppsIn = (s.m.dev.advance dt).sdt ∧ t.m.dev.clk = s.m.dev.clk + dt)) ∧
  (∀ dt, s.m.dev.discipline = 3 → 100000 < (fromSecond (s.m.dev.advance dt).sdt).natAbs → s.m.dev.Shape →
    Yields (.ppsInEdge dt) s [.clk, .seq, .commands, .events, .bbx, .sid, .tick, .dma, .feat 0x01] (fun t => t.m.dev.sid.ppsIn = s.m.dev.sid.ppsIn ∧
      t.m.dev.reg 0x01 0x020 = word (satAdd32 (s.m.dev.reg 0x01 0x020).toNat 1))) ∧
  Yields .ppsOutSecond s [.clk, .sid] (fun t => t.m.dev.sid.ppsSecond = s.m.dev.nextSecond ∧
    t.m.dev.sid.ppsOut = (if s.m.dev.sid.set then some t.m.dev.clk else none) ∧
    t.m.dev.clk = s.m.dev.clk + s.m.dev.nsUntil (2 ^ 32 * s.m.dev.nextSecond)) ∧
  (∀ t0, s.m.dev.sid.ppsOut = some t0 → Yields .ppsOutFall s [.clk, .sid] (fun t => t.m.dev.sid.ppsOut = none ∧
    t.m.dev.clk = max s.m.dev.clk (t0 + 1000000 * fld (s.m.dev.reg 0x01 0x00C) 16 9))) ∧
  (s.m.dev.sid.locked = true → Yields .timeUnlockTimeout s [.clk, .seq, .commands, .events, .sid] (fun t => t.m.dev.sid.locked = false ∧
    t.m.dev.clk = max s.m.dev.clk (3000000000 + s.m.dev.sid.measuredAt))))

/-- R489, R495 to R497: what each PTP message does on a port that is a slave, or that selects its master. -/
def Obligations.PtpMessages : Prop := ∀ (s : State) (e dt : Nat) (d : Dev), s.Live → s.m.dev.Shape → d = s.m.dev.advance dt →
  (d.ptpSlave e = true →
    (∀ seqId t1, Yields (.ptpSync e dt seqId t1 true) s [.clk, .seq, .commands, .events, .bbx, .sid, .tick, .eth, .feat 0x01] (fun t =>
      (t.m.dev.ethPort e).ptp.syncAt = some (seqId, d.sdt) ∧ t.m.dev.clk = s.m.dev.clk + dt)) ∧
    (∀ seqId t1, (d.ethPort e).ptp.delay = none → Yields (.ptpSync e dt seqId t1 false) s [.clk, .seq, .commands, .events, .bbx, .sid, .tick, .eth, .feat 0x01] (fun t =>
      (t.m.dev.ethPort e).ptp.t21 = some ((nsOfUnits d.sdt : Int) - nsOfUnits t1) ∧ (t.m.dev.ethPort e).ptp.syncAt = none)) ∧
    (∀ seqId t1 t2, (d.ethPort e).ptp.syncAt = some (seqId, t2) → (d.ethPort e).ptp.delay = none →
      Yields (.ptpFollowUp e dt seqId t1) s [.clk, .seq, .commands, .events, .bbx, .sid, .tick, .eth, .feat 0x01] (fun t =>
        (t.m.dev.ethPort e).ptp.t21 = some ((nsOfUnits t2 : Int) - nsOfUnits t1) ∧ (t.m.dev.ethPort e).ptp.syncAt = none)) ∧
    (∀ seqId t4 t3 t21, (d.ethPort e).ptp.reqAt = some (seqId, t3) → (d.ethPort e).ptp.t21 = some t21 →
      Yields (.ptpDelayResp e dt seqId t4) s [.clk, .sid, .eth] (fun t =>
        (t.m.dev.ethPort e).ptp.delay = some ((t21 + ((nsOfUnits t4 : Int) - nsOfUnits t3)) / 2 + d.ptpAsym e) ∧
        (t.m.dev.ethPort e).ptp.reqAt = none))) ∧
  (∀ seqId, d.ptpRuns e = true → (d.ethPort e).ptp.portState = 6 → Yields (.ptpDelayReq e dt seqId) s [.clk, .sid] (fun t =>
    Emission.ptp e 9 seqId d.sdt ∈ t.m.dev.sent)) ∧
  (∀ a, d.ptpRuns e = true → d.ptpRole e ≠ 2 → (d.ethPort e).ptp.best = none → Yields (.ptpAnnounce e dt a) s [.clk, .sid, .eth] (fun t =>
    (t.m.dev.ethPort e).ptp.best = some a)) ∧
  (d.ptpRuns e = true → d.ptpRole e ≠ 2 → Yields (.announceTimeout e dt) s [.clk, .sid, .eth] (fun t =>
    (t.m.dev.ethPort e).ptp.best = none ∧ (t.m.dev.ethPort e).ptp.syncAt = none ∧ (t.m.dev.ethPort e).ptp.reqAt = none ∧
    (d.ptpRole e = 1 → (t.m.dev.ethPort e).ptp.portState = 6))) ∧
  (d.ptpRuns e = true → (d.ethPort e).ptp.portState = 6 → Yields (.ptpIntervalExpiry e dt 0) s [.clk, .sid, .eth] (fun t =>
    Emission.ptp e 0 (d.ethPort e).ptp.seqId 0 ∈ t.m.dev.sent ∧ Emission.ptp e 8 (d.ethPort e).ptp.seqId d.sdt ∈ t.m.dev.sent ∧
    (t.m.dev.ethPort e).ptp.seqId = ((d.ethPort e).ptp.seqId + 1) % 65536))

/-- R499, R502 to R505, R510: an Ethernet port that loses its link or gets it back, the end of its hold, its gates, and the
buckets of its shapers. -/
def Obligations.EthPorts : Prop := ∀ (s : State) (e : Nat), s.Live → s.m.dev.Shape → e < 2 →
  (∀ lf rf bl, (s.m.dev.ethPort e).up = true → fld (s.m.dev.reg 0x21 (0x100 * e + 0x08)) 0 17 ≠ 0 →
    Yields (.portDown e lf rf bl) s [.seq, .stats, .commands, .events, .flt, .bbx, .eth, .link, .feat 0x21] (fun t => (t.m.dev.ethPort e).up = false ∧ (t.m.dev.ethPort e).held = true ∧
      (t.m.dev.ethPort e).holdUntil = s.m.dev.clk + 1000 * fld (s.m.dev.reg 0x21 (0x100 * e + 0x08)) 0 17 ∧
      (t.m.dev.ethPort e).queues = (s.m.dev.ethPort e).queues ∧ t.m.dev.flt.lastSrc = 512 + 2 * e)) ∧
  ((s.m.dev.ethPort e).up = false → (s.m.dev.ethPort e).held = true → s.m.dev.clk < (s.m.dev.ethPort e).holdUntil →
    s.m.dev.takesWork (18 + e) = true → bit (s.m.dev.reg 0x21 (0x100 * e)).toNat 31 = true →
    Yields (.portUp e) s [.seq, .stats, .commands, .events, .flt, .bbx, .eth, .shapers, .policers, .link, .feat 0x21] (fun t => (t.m.dev.ethPort e).up = true ∧ (t.m.dev.ethPort e).held = false ∧
      (t.m.dev.ethPort e).down = false ∧ ∀ q, q < 8 → ∀ u ∈ (t.m.dev.queue e q).units,
        u ∈ (s.m.dev.queue e q).units ∧ (u.deadline = 0 ∨ s.m.dev.clk ≤ u.at_ + 1000 * u.deadline))) ∧
  ((s.m.dev.ethPort e).held = true →
    Yields (.ethHoldExpiry e) s [.clk, .seq, .stats, .commands, .events, .flt, .bbx, .sid, .eth, .link, .feat 0x21] (fun t => t.m.dev.clk = max s.m.dev.clk (s.m.dev.ethPort e).holdUntil ∧
      (t.m.dev.ethPort e).held = false ∧ (t.m.dev.ethPort e).down = true ∧ ∀ q, q < 8 → (t.m.dev.queue e q).units = [])) ∧
  Yields .shaperRefill s [.clk, .sid, .refillAt, .shapers, .policers] (fun t => t.m.dev.clk = max s.m.dev.clk (s.m.dev.refillAt + 1000) ∧
    t.m.dev.refillAt = t.m.dev.clk ∧ ∀ i, i < 4096 → s.m.dev.reg 0x21 (bucketReg false i) ≠ 0 →
      0 < (s.m.dev.reg 0x21 (bucketReg false i + 4)).toNat →
      (t.m.dev.bucket false i).mb = min ((s.m.dev.bucket false i).mb + (s.m.dev.reg 0x21 (bucketReg false i)).toNat)
        (8000 * (s.m.dev.reg 0x21 (bucketReg false i + 4)).toNat)) ∧
  (∀ i, i < 4096 → Yields (.shaperReset i) s [.shapers, .policers] (fun t => t.m.dev.shapers = Tbl.set (fun _ => {}) s.m.dev.shapers i
    { mb := if bit (s.m.dev.reg 0x21 (bucketReg false i + 0xC)).toNat 30
        then 8000 * (s.m.dev.reg 0x21 (bucketReg false i + 4)).toNat else 0 })) ∧
  Yields (.gateIntervalEnd e) s [.clk, .sid] (fun t => (t.m.dev.ethPort e).gcl = (s.m.dev.ethPort e).gcl ∧
    t.m.dev.clk = (s.m.dev.advanceToSid (s.m.dev.sdt + ceilDiv (2 ^ 32 *
      (gateAt (s.m.dev.ethPort e).gcl.list ((s.m.dev.ethPort e).gcl.phase s.m.dev.sdt)).2) (10 ^ 9))).clk) ∧
  (s.m.dev.powered (18 + e) = true → (s.m.dev.gclInactive e).ok = true →
    Yields (.ethGclCommit e) s [.eth] (fun t => (t.m.dev.ethPort e).gcl = (s.m.dev.ethPort e).gcl ∧
      ∃ at_, (t.m.dev.ethPort e).gclNext = some (s.m.dev.gclInactive e, at_) ∧
        s.m.dev.sdt + ceilDiv (100000 * 2 ^ 32) (10 ^ 9) ≤ at_)) ∧
  (∀ g at_, (s.m.dev.ethPort e).gclNext = some (g, at_) →
    Yields (.gclActivate e) s [.clk, .sid, .eth, .feat 0x21] (fun t => (t.m.dev.ethPort e).gcl = g ∧ (t.m.dev.ethPort e).gclNext = none ∧
      t.m.dev.clk = (s.m.dev.advanceToSid at_).clk))

/-- R501, R507, R527: the granted frame of a port of a chip that does not relay it. R498, R505, R508: a received frame. -/
def Obligations.EthFrames : Prop := ∀ (s : State) (e : Nat), s.Live → s.m.dev.Shape → e < 2 →
  (∀ u, (s.m.dev.ethPort e).granted = some u → s.m.dev.boot.role ≠ 2 →
    (u.flow = none → Yields (.ethFrameTx e) s [.clk, .stats, .sid, .eth, .shapers, .policers, .link, .ctxs] (fun t => (t.m.dev.ethPort e).granted = none ∧
      t.m.dev.clk = s.m.dev.clk + s.m.dev.lineTime e u.len ∧ Emission.eth e u.payload ∈ t.m.dev.sent)) ∧
    (∀ f c, u.flow = some f → s.m.dev.ctx f = some c → u.raw = false → u.ext = false →
      Yields (.ethFrameTx e) s [.clk, .stats, .sid, .eth, .shapers, .policers, .link, .ctxs] (fun t => (t.m.dev.ethPort e).granted = none ∧
        t.m.dev.clk = s.m.dev.clk + s.m.dev.lineTime e u.len ∧
        Emission.eth e (c.buildFrame u.rtp u.marker u.pt u.payload) ∈ t.m.dev.sent ∧
        (c.flowBucket = 0xFFFF → t.m.dev.shapers = s.m.dev.shapers) ∧
        t.m.dev.ctx f = some { c with packets := (c.packets + 1) % 2 ^ 32 } ∧
        (c.flowBucket ≠ 0xFFFF → t.m.dev.shapers = Tbl.set (fun _ => {}) s.m.dev.shapers c.flowBucket
          { mb := (s.m.dev.bucket false c.flowBucket).mb - 8000 * u.len })))) ∧
  ((s.m.dev.ethPort e).up = true → s.m.dev.takesWork (18 + e) = true → ∀ frame,
    Yields (.ethFrameRx e false frame) s [.cqs, .shapers, .policers, .hostMem, .feat 0x21] (fun t => t.m.mem = s.m.mem ∧
      t.m.dev.reg 0x21 (0x100 * e + 0x70) = word (satAdd32 (s.m.dev.reg 0x21 (0x100 * e + 0x70)).toNat 1)) ∧
    ((if frameTag frame then slice frame 16 2 else slice frame 12 2) ≠ [0x88, 0x08] → isPtpFrame frame = false →
      (∀ f c, s.m.dev.flows.find? (fun f => decide (f.2.flowDir = 1 ∧ f.2.flowPort = e) && f.2.matchesFrame frame) = some (f, c) →
        c.flowBucket = 0xFFFF → Yields (.ethFrameRx e true frame) s [.cqs, .shapers, .policers, .hostMem, .feat 0x21] (fun t =>
          t.m.mem = (s.m.ringDeliver (rd c.params 6 1) 4 frame).2.mem ∧
          t.m.dev.host.cqs = (s.m.ringDeliver (rd c.params 6 1) 4 frame).2.dev.host.cqs)) ∧
      (∀ f c, s.m.dev.flows.find? (fun f => decide (f.2.flowDir = 1 ∧ f.2.flowPort = e) && f.2.matchesFrame frame) = some (f, c) →
        c.flowBucket ≠ 0xFFFF → (s.m.dev.bucket true c.flowBucket).mb < 8000 * (frame.length + 4) →
        Yields (.ethFrameRx e true frame) s [.cqs, .shapers, .policers, .hostMem, .feat 0x21] (fun t => t.m.mem = s.m.mem ∧
          t.m.dev.reg 0x21 (bucketReg true c.flowBucket + 0xC) =
            word (satAdd32 (s.m.dev.reg 0x21 (bucketReg true c.flowBucket + 0xC)).toNat 1)))))

/-- R514, R521, R522: the states of a link port. -/
def Obligations.LinkPorts : Prop := ∀ (s : State) (p : Nat), s.Live → p < 4 → s.m.dev.link.ports.length = 4 →
  (s.m.dev.linkOn p = true → (s.m.dev.port p).state = .training →
    Yields (.lanesAligned p) s [.link] (fun t => (t.m.dev.port p).state = .init ∧ (t.m.dev.port p).laneLock = 15 ∧
      (t.m.dev.port p).initAt = s.m.dev.clk)) ∧
  ((s.m.dev.port p).laneLock = 15 → (s.m.dev.port p).state = .init →
    Yields (.linkInitSend p) s [.clk, .stats, .sid, .link] (fun t => t.m.dev.clk = max s.m.dev.clk (s.m.dev.port p).initAt ∧
      (t.m.dev.port p).initAt = t.m.dev.clk + 10000 ∧ ∃ f ack nak pool n, Emission.flit p f ack nak pool n ∈ t.m.dev.sent ∧
        f.isInit = true ∧ f.payload.drop 4 = s.m.dev.initBody p)) ∧
  (∀ x r, takeMsg p 1 s.m.dev.link.inbox = some (x, r) → (s.m.dev.port p).state = .init →
    (s.m.dev.pairing p (rd x.body 0 1) (rd x.body 1 1) = true →
      Yields (.linkInit p) s [.seq, .stats, .commands, .events, .flt, .bbx, .link, .feat 0x01, .feat 0x22] (fun t => (t.m.dev.port p).state = .up ∧ (t.m.dev.port p).rxNext = 0 ∧
        (t.m.dev.port p).peerUid = wordsOf (slice x.body 4 16) 4 ∧ (t.m.dev.port p).peerRole = rd x.body 0 1 ∧
        (t.m.dev.port p).peerPort = rd x.body 1 1 ∧ t.m.dev.link.inbox = r)) ∧
    (s.m.dev.pairing p (rd x.body 0 1) (rd x.body 1 1) = false →
      Yields (.linkInit p) s [.seq, .stats, .commands, .events, .flt, .bbx, .link, .feat 0x01, .feat 0x22] (fun t => (t.m.dev.port p).state = .miswired ∧
        (t.m.dev.port p).retryAt = s.m.dev.clk + 100000000 ∧ t.m.dev.link.inbox = r))) ∧
  (∀ lanes, (s.m.dev.port p).state = .up → lanes % 16 ≠ 15 → fld (s.m.dev.reg 0x22 (0x100 * p)) 0 17 ≠ 0 →
    Yields (.linkLoss p 0 lanes) s [.clk, .seq, .stats, .commands, .events, .flt, .bbx, .sid, .link, .feat 0x22] (fun t => (t.m.dev.port p).state = .held ∧ (t.m.dev.port p).laneLock = lanes % 16 ∧
      (t.m.dev.port p).holdUntil = s.m.dev.clk + 1000 * fld (s.m.dev.reg 0x22 (0x100 * p)) 0 17 ∧
      (t.m.dev.port p).formerUid = (s.m.dev.port p).peerUid)) ∧
  ((s.m.dev.port p).state = .held →
    Yields (.linkHoldExpiry p) s [.clk, .seq, .stats, .commands, .events, .flt, .bbx, .sid, .link, .feat 0x22] (fun t => t.m.dev.clk = max s.m.dev.clk (s.m.dev.port p).holdUntil ∧
      (t.m.dev.port p).state = (if (s.m.dev.port p).laneLock = 15 then .init else .training) ∧
      (t.m.dev.port p).replay = [] ∧ (t.m.dev.port p).cellQ = [] ∧ (t.m.dev.port p).ctrlQ = [] ∧ (t.m.dev.port p).tickQ = [])) ∧
  ((s.m.dev.port p).state = .miswired →
    Yields (.miswiredRetry p) s [.clk, .sid, .link] (fun t => t.m.dev.clk = max s.m.dev.clk (s.m.dev.port p).retryAt ∧
      (t.m.dev.port p).state = .training ∧ (t.m.dev.port p).laneLock = 0))

/-- R517 to R520, R529: a flit that is discarded, one that is accepted, and a replay. -/
def Obligations.LinkFlits : Prop := ∀ (s : State) (p : Nat), s.Live → s.m.dev.Shape → p < 4 → s.m.dev.link.ports.length = 4 →
  (s.m.dev.port p).state = .up →
  (∀ raw, (parseFlit raw).crcGood = false →
    Yields (.flitRx p raw) s [.stats, .eth, .link, .feat 0x22] (fun t => (t.m.dev.port p).rxNext = (s.m.dev.port p).rxNext ∧
      t.m.dev.link.inbox = s.m.dev.link.inbox ∧
      t.m.dev.reg 0x22 (0x100 * p + 0x24) = word (satAdd32 (s.m.dev.reg 0x22 (0x100 * p + 0x24)).toNat 1))) ∧
  (∀ raw x, parseFlit raw = x → x.crcGood = true → x.flit.classOk = true → x.flit.numbered = true → x.flit.isInit = false →
    x.flit.seq = (s.m.dev.port p).rxNext →
    Yields (.flitRx p raw) s [.stats, .eth, .link, .feat 0x22] (fun t => (t.m.dev.port p).rxNext = ((s.m.dev.port p).rxNext + 1) % 4096 ∧
      (t.m.dev.port p).lastFlitAt = s.m.dev.clk ∧ (t.m.dev.port p).state = .up)) ∧
  (∀ raw x, parseFlit raw = x → x.crcGood = true → x.flit.type = 3 → x.flit.cls = 0 →
    Yields (.flitRx p raw) s [.stats, .eth, .link, .feat 0x22] (fun t => (t.m.dev.port p).rxNext = (s.m.dev.port p).rxNext ∧
      t.m.dev.link.inbox = s.m.dev.link.inbox ++ [{ port := p, src := x.flit.src, code := 0x100 + rd x.flit.payload 0 1,
                                                    body := x.flit.payload, at_ := s.m.dev.sdt }])) ∧
  ((s.m.dev.port p).replay ≠ [] → (s.m.dev.port p).replays < 8 →
    Yields (.replayTimeout p) s [.clk, .stats, .sid, .link, .feat 0x22] (fun t => t.m.dev.clk = max s.m.dev.clk ((s.m.dev.port p).ackAt + 4000) ∧
      (t.m.dev.port p).replays = (s.m.dev.port p).replays + 1 ∧ (t.m.dev.port p).replay = (s.m.dev.port p).replay ∧
      t.m.dev.reg 0x22 (0x100 * p + 0x20) = word (satAdd32 (s.m.dev.reg 0x22 (0x100 * p + 0x20)).toNat 1) ∧
      ∀ f ∈ (s.m.dev.port p).replay, ∃ ack nak pool n, Emission.flit p f ack nak pool n ∈ t.m.dev.sent))

/-- R443, R523 to R525: enumeration, and the readmission of a worker. -/
def Obligations.Enumeration : Prop := ∀ (s : State) (p : Nat), s.m.dev.link.ports.length = 4 → p < 4 →
  (∀ sq cid c, s.Runs sq cid 0x28 c → s.m.dev.boot.role = 1 → s.m.dev.anyCapture = false →
    (∀ w ∈ s.m.dev.link.workers, w.reachable = true → w.armed = 0) →
    (s.m.dev.downPorts.find? (fun p => decide ((s.m.dev.port p).state = .up)) = some p →
      Yields (.constellationEnum sq cid) s [.seq, .stats, .commands, .errorLog, .admission, .link, .hostMem] (fun t => t.GoesOn sq cid ∧ t.m.dev.link.enumPort = p + 1 ∧
        t.m.dev.link.enumerated = true ∧ t.m.dev.link.id = 0 ∧ (t.m.dev.port p).subEnum = true ∧ (t.m.dev.port p).subId = 1 ∧
        t.m.dev.link.workers = [])) ∧
    ((∀ q ∈ s.m.dev.downPorts, (s.m.dev.port q).state ≠ .up) → s.m.mem.dataOk c 16 = true →
      Yields (.constellationEnum sq cid) s [.seq, .stats, .commands, .errorLog, .admission, .link, .hostMem] (fun t => t.Ends sq cid Status.ok 1 ∧
        t.m.mem = s.m.mem.dataOut c (enumEntry 0 0xFFF 0xFF 0 (slice uidBytes 0 8))))) ∧
  (∀ x r, s.Live → takeMsg 0 2 s.m.dev.link.inbox = some (x, r) → s.m.dev.boot.role = 2 →
    Yields (.enum 0) s [.seq, .stats, .commands, .errorLog, .link, .hostMem] (fun t => t.m.dev.link.enumerated = true ∧ t.m.dev.link.id = rd x.body 0 2 ∧
      t.m.dev.link.depth = rd x.body 2 1 ∧ t.m.dev.link.inbox = r)) ∧
  (∀ x r, s.Live → takeMsg p 3 s.m.dev.link.inbox = some (x, r) → s.m.dev.link.enumPort = p + 1 →
    Yields (.enumDone p) s [.seq, .stats, .commands, .errorLog, .link, .hostMem] (fun t => t.m.dev.link.enumNext = rd x.body 0 2 ∧ t.m.dev.link.inbox = r ∧
      (t.m.dev.port p).subId = s.m.dev.link.enumNext ∧ (t.m.dev.port p).subLast = rd x.body 0 2 - 1 ∧
      (t.m.dev.port p).subEnum = decide (s.m.dev.link.enumNext < rd x.body 0 2))) ∧
  (∀ x r, s.Live → takeMsg p 4 s.m.dev.link.inbox = some (x, r) → s.m.dev.boot.role = 1 →
    Yields (.enumEntry p) s [.link] (fun t => t.m.dev.link.inbox = r ∧ t.m.dev.link.workers =
      s.m.dev.link.workers.filter (fun v => decide (v.id ≠ rd x.body 0 2)) ++
        [{ id := rd x.body 0 2, parent := rd x.body 2 2, parentPort := rd x.body 4 1, depth := rd x.body 5 1, uid := slice x.body 8 8 }])) ∧
  (s.Live → s.m.dev.link.enumPort = p + 1 →
    Yields (.enumTimeout p) s [.clk, .seq, .stats, .commands, .errorLog, .sid, .link, .hostMem] (fun t => (t.m.dev.port p).subEnum = false ∧
      t.m.dev.clk = max s.m.dev.clk (100000000 + ((s.m.dev.port p).enumAt - 1)) ∧
      ∀ w ∈ t.m.dev.link.workers, w.id < s.m.dev.link.enumNext)) ∧
  (∀ x r, s.Live → takeMsg p 5 s.m.dev.link.inbox = some (x, r) → s.m.dev.boot.role = 2 → slice x.body 5 8 = slice uidBytes 0 8 →
    Yields (.reassign p) s [.stats, .link] (fun t => t.m.dev.link.enumerated = true ∧ t.m.dev.link.id = rd x.body 0 2 ∧
      t.m.dev.link.last = rd x.body 2 2 ∧ t.m.dev.link.depth = rd x.body 4 1 ∧ t.m.dev.link.inbox = r))

/-- R537, R443, R539: a worker's state, and the exchange of severities. -/
def Obligations.Severities : Prop := ∀ (s : State) (p : Nat),
  (∀ x r, s.Live → takeMsg p 7 s.m.dev.link.inbox = some (x, r) →
    Yields (.state p) s [.link] (fun t => t.m.dev.link.inbox = r ∧ t.m.dev.link.workers = s.m.dev.link.workers.map (fun w =>
      if w.id = x.src then { w with armed := rd x.body 0 1, tickStatus := rd x.body 1 1 } else w))) ∧
  (∀ sq cid c, s.Runs sq cid 0x29 c → c.dataLen = 600 → s.m.mem.dataOk c 600 = true → (∀ b ∈ s.m.mem.dataIn c 600, b.toNat ≤ 3) →
    c.target ≤ 0xFFF →
    (c.target = 0 → Yields (.constellationSeverity sq cid) s [.seq, .stats, .commands, .errorLog, .flt, .link] (fun t => t.Ends sq cid Status.ok 0 ∧
      t.m.dev.flt.severity = some ((s.m.mem.dataIn c 600).map (fun b => b.toNat)))) ∧
    (c.target ≠ 0 → (∃ w ∈ s.m.dev.link.workers, (c.target = 0xFFF ∨ w.id = c.target) ∧ w.reachable = true) →
      Yields (.constellationSeverity sq cid) s [.seq, .stats, .commands, .errorLog, .flt, .link] (fun t => t.GoesOn sq cid ∧
        t.m.dev.link.sevCmd = some (sq, cid) ∧ t.m.dev.link.sevAt = s.m.dev.clk ∧ t.m.dev.flt.severity = s.m.dev.flt.severity)) ∧
    (c.target ≠ 0 → c.target ≠ 0xFFF → (∀ w ∈ s.m.dev.link.workers, w.id = c.target → w.reachable = false) →
      Yields (.constellationSeverity sq cid) s [.seq, .stats, .commands, .errorLog, .flt, .link] (fun t => t.Ends sq cid Status.linkDown 0 ∧
        t.m.dev.link.sevCmd = none))) ∧
  (∀ x r, s.Live → takeMsg p 0x0A s.m.dev.link.inbox = some (x, r) →
    Yields (.severity p) s [.stats, .flt, .link] (fun t => t.m.dev.link.inbox = r ∧
      t.m.dev.flt.severity = some ((slice x.body 2 600).map (fun b => b.toNat % 4)))) ∧
  (∀ x r k c, s.Live → takeMsg p 0x0B s.m.dev.link.inbox = some (x, r) → s.m.dev.link.sevCmd = some k →
    s.m.dev.cmd k.1 k.2 = some c → rd x.body 0 2 ≠ 0xFFFF → (rd x.body 0 2 + 1) % 0xFFFF = s.m.dev.link.sevToken →
    s.m.dev.link.sevMissed = 0 → (∀ w ∈ s.m.dev.link.workers, w.sevWait = true → w.id = x.src) →
    Yields (.severityAck p) s [.seq, .commands, .errorLog, .link] (fun t => t.Ends k.1 k.2 Status.ok 0 ∧ t.m.dev.link.sevCmd = none ∧
      t.m.dev.link.inbox = r)) ∧
  (∀ k c n, s.Live → s.m.dev.link.sevCmd = some k → s.m.dev.cmd k.1 k.2 = some c →
    n = (s.m.dev.link.workers.filter (fun w => w.sevWait)).length + s.m.dev.link.sevMissed → 0 < n → n < 2 ^ 32 →
    Yields .severityTimeout s [.clk, .seq, .commands, .errorLog, .sid, .link] (fun t => t.m.dev.clk = max s.m.dev.clk (10000000 + s.m.dev.link.sevAt) ∧
      t.m.dev.link.sevCmd = none ∧ (if s.m.dev.link.sevTarget = 0xFFF then t.Ends k.1 k.2 Status.okPartial n
        else t.Ends k.1 k.2 Status.linkDown 0)))

/-- R540, R541: the faults of workers, and their first-fault entries. R553, R554: the runtime watchdogs, and TWINKLE. -/
def Obligations.RollUpWatchdogsTwinkle : Prop :=
  (∀ (s : State) (p : Nat) (x : LinkMsg) (r : List LinkMsg), s.Live →
  (takeMsg p 0x0C s.m.dev.link.inbox = some (x, r) → s.m.dev.boot.role = 1 → s.m.dev.bbx.queue.length < 64 →
    Yields (.fault p) s [.seq, .stats, .commands, .events, .bbx, .link] (fun t => t.m.dev.link.inbox = r ∧ t.m.dev.bbx.queue = s.m.dev.bbx.queue ++
      [{ region := .main, body := bbxBody (slice x.body 0 16) 1 (rd x.body 18 1) (rd x.body 16 2) 0
            (leBytes 4 (min 15 (rd x.body 20 2)) ++ leBytes 1 (fixedClass (rd x.body 16 2))) }] ∧
      t.m.dev.link.token = (if rd x.body 19 1 % 2 = 1 then (s.m.dev.link.token + 1) % 65536 else s.m.dev.link.token))) ∧
  (takeMsg p 0x0D s.m.dev.link.inbox = some (x, r) → s.m.dev.route 0 = some 0 → (s.m.dev.port 0).state = .held →
    0 < s.m.dev.link.ports.length →
    Yields (.ffRead p) s [.stats, .link] (fun t => t.m.dev.link.inbox = r ∧ (t.m.dev.port 0).ctrlQ = (s.m.dev.port 0).ctrlQ ++
      (ffBodies (slice x.body 0 2) 18 ((List.range (min 256 s.m.dev.bbx.firstNo)).map (fun i => s.m.mem.entry (64 + i)))).flatMap
        (fun b => ctrlFlits 0 s.m.dev.deviceId 0x0E b))) ∧
  (takeMsg p 0x0E s.m.dev.link.inbox = some (x, r) → s.m.dev.bbx.queue.length + 15 ≤ 64 →
    Yields (.ffData p) s [.bbx, .link] (fun t => t.m.dev.link.inbox = r ∧ ∃ es : List (List Byte),
      es.Perm ((List.range (min 15 (rd x.body 2 1))).map (fun i => slice x.body (3 + 64 * i) 64)) ∧
      es.Pairwise (fun a b => rd a 0 16 ≤ rd b 0 16) ∧
      t.m.dev.bbx.queue = s.m.dev.bbx.queue ++ es.map (fun e => { region := .main, body := e.take 56 })))) ∧
  (∀ s : State, s.Live →
  (∀ i t0, (s.m.dev.intr.core i).wdogAt = some t0 →
    Yields (.wdogService i) s [] (fun t => (t.m.dev.intr.core i).wdogAt = some s.m.dev.clk ∧
      (t.m.dev.intr.core i).warning = false ∧ (t.m.dev.intr.core i).expired = false) ∧
    ((s.m.dev.intr.core i).warning = false → Yields (.wdogWarning i) s [.clk, .sid] (fun t =>
      t.m.dev.clk = max s.m.dev.clk (5000000 + t0) ∧ (t.m.dev.intr.core i).warning = true ∧
      (t.m.dev.intr.core i).wdogAt = some t0)) ∧
    (i < 4 → (s.m.dev.intr.core i).expired = false → Yields (.wdogExpiry i) s [.clk, .seq, .stats, .commands, .events, .flt, .bbx, .sid, .link] (fun t =>
      t.m.dev.clk = max s.m.dev.clk (10000000 + t0) ∧ (t.m.dev.intr.core i).expired = true ∧ t.m.dev.flt.lastSrc = 488 + i ∧
      (s.m.dev.twk.mode ≠ .low → s.m.dev.twk.stopAt = none →
        ∃ x, t.m.dev.twk.stopAt = some x ∧ t.m.dev.clk ≤ x ∧ x ≤ t.m.dev.clk + 10000)))) ∧
  (s.m.dev.twk.mode ≠ .low → s.m.dev.twk.stopAt = none →
    Yields .twinkleToggle s [.clk, .sid] (fun t => t.m.dev.clk = max s.m.dev.clk s.m.dev.twk.nextEdge ∧
      t.m.dev.twk.level = !s.m.dev.twk.level ∧
      t.m.dev.twk.nextEdge = s.m.dev.twk.nextEdge + (if s.m.dev.twk.mode = .twilight then 50000000 else 500000))) ∧
  (∀ r, s.m.dev.twk.resumeAt = some r → s.m.dev.twinkleCause = false →
    Yields .twinkleResume s [.clk, .sid] (fun t => t.m.dev.clk = max s.m.dev.clk r ∧ t.m.dev.twk.stopAt = none ∧
      t.m.dev.twk.level = !s.m.dev.twk.level)))

/-- R527 to R530: relays, and the time alignment of a link. -/
def Obligations.RelaysAndAlignment : Prop := ∀ (s : State) (p e : Nat), s.Live → s.m.dev.Shape → e < 2 →
  (∀ v, s.m.dev.boot.role = 2 → v < 2 ^ 32 → bit v 31 = true → s.m.dev.link.enumerated = true → (s.m.dev.port 0).carries = true →
    Yields (.relayEnable e v) s [.seq, .stats, .commands, .errorLog, .link, .feat 0x22] (fun t => t.m.dev.reg 0x22 (0x820 + 4 * e) = word (v % 2 ^ 25) ∧
      t.m.dev.link.relayWait = s.m.dev.link.relayWait.filter (fun y => decide (y.1 ≠ e)) ++ [(e, 0, 2 ^ 32)])) ∧
  (∀ v, s.m.dev.boot.role = 2 → v < 2 ^ 32 → bit v 31 = false →
    Yields (.relayEnable e v) s [.seq, .stats, .commands, .errorLog, .link, .feat 0x22] (fun t => t.m.dev.reg 0x22 (0x820 + 4 * e) = word (v % 2 ^ 25) ∧
      t.m.dev.link.relayWait = s.m.dev.link.relayWait)) ∧
  (∀ x r others, takeMsg p 0x0F s.m.dev.link.inbox = some (x, r) → s.m.dev.boot.role = 1 → e = rd x.body 0 1 →
    others = s.m.dev.link.relays.filter (fun r => !(decide (r.dev = x.src) && decide (r.port = e))) →
    Yields (.relayAdmit p) s [.stats, .link] (fun t => t.m.dev.link.inbox = r ∧ (rd x.body 1 1 ≠ 1 → t.m.dev.link.relays = others) ∧
      (rd x.body 1 1 = 1 → (t.m.dev.link.relays = others ∨
        (t.m.dev.link.relays = others ++ [{ dev := x.src, port := e, rate := rd x.body 2 4 }] ∧
          (∀ w ∈ t.m.dev.link.path x.src, t.m.dev.link.rateAbove w ≤ 80000000) ∧
          10 * sumBy (fun r => r.rate) (t.m.dev.link.relays.filter (fun r => decide (r.port = e))) ≤
            8 * (if bit (s.m.dev.reg 0x21 (0x100 * e)).toNat 29 then 25000000 else 10000000)))))) ∧
  (∀ x r sq cid c, takeMsg p 0x10 s.m.dev.link.inbox = some (x, r) → e = rd x.body 0 1 → rd x.body 1 2 = 0 →
    s.m.dev.link.relayWait = [(e, sq, cid)] → s.m.dev.cmd sq cid = some c →
    Yields (.relayGrant p) s [.seq, .commands, .errorLog, .admission, .bbx, .link, .feat 0x22] (fun t => t.Ends sq cid Status.ok 0 ∧ t.m.dev.relayOn e = true ∧
      t.m.dev.link.relayWait = [] ∧ t.m.dev.link.inbox = r)) ∧
  (s.m.dev.downPorts.contains p = true → (s.m.dev.port p).state = .up →
    Yields (.timeFlitSend p) s [.clk, .stats, .sid, .link] (fun t => t.m.dev.clk = max s.m.dev.clk (1000000 + (s.m.dev.port p).timeAt) ∧
      (t.m.dev.port p).timeAt = t.m.dev.clk ∧ ∃ f ack nak pool n, Emission.flit p f ack nak pool n ∈ t.m.dev.sent ∧ f.type = 3 ∧
        f.payload = leBytes 8 0 ++ leBytes 8 t.m.dev.sdt)) ∧
  (∀ x r, takeMsg 0 0x100 s.m.dev.link.inbox = some (x, r) → s.m.dev.boot.role = 2 → 0 < s.m.dev.link.ports.length →
    Yields (.sync 0) s [.stats, .link] (fun t => (t.m.dev.port 0).t1 = rd x.body 8 8 ∧ (t.m.dev.port 0).t2 = x.at_ ∧
      (t.m.dev.port 0).t3 = s.m.dev.sdt ∧ ∃ f ack nak pool n, Emission.flit 0 f ack nak pool n ∈ t.m.dev.sent ∧ f.type = 3 ∧
        f.payload = leBytes 8 1 ++ leBytes 8 s.m.dev.sdt)) ∧
  (∀ x r, takeMsg p 0x101 s.m.dev.link.inbox = some (x, r) → s.m.dev.downPorts.contains p = true →
    Yields (.req p) s [.stats, .link] (fun t => ∃ f ack nak pool n, Emission.flit p f ack nak pool n ∈ t.m.dev.sent ∧ f.type = 3 ∧
      f.payload = leBytes 8 2 ++ leBytes 8 x.at_)) ∧
  (∀ x r off, takeMsg 0 0x102 s.m.dev.link.inbox = some (x, r) → s.m.dev.boot.role = 2 →
    off = 10 ^ 9 * ((((s.m.dev.port 0).t2 : Int) - (s.m.dev.port 0).t1) - ((rd x.body 8 8 : Int) - (s.m.dev.port 0).t3)) / 2 ^ 33 -
      (s.m.dev.reg 0x22 0x18).toInt →
    Yields (.resp 0) s [.seq, .commands, .events, .bbx, .sid, .tick, .link, .feat 0x01] (fun t => t.m.dev.link.offset = off ∧ t.m.dev.link.inbox = r))

/-- R555, R556, R558 to R560: sources that fire, claims, completions and settings of the interrupt controller. -/
def Obligations.Interrupts : Prop := ∀ s : State, s.Live → s.m.dev.intr.cores.length = 4 →
  (∀ id line, idAssigned id = true → idEvent id = true → s.m.dev.intr.en id = true →
    Yields (.intSourceFire id line) s [] (fun t =>
      (s.m.dev.intr.isActive id = false → id ∈ t.m.dev.intr.pending) ∧
      (s.m.dev.intr.isActive id = true → id ∉ s.m.dev.intr.asserted → id ∈ t.m.dev.intr.repeats))) ∧
  (∀ id, idAssigned id = true → idEvent id = false → id < 604 → s.m.dev.intr.sense id = 0 → id ∉ s.m.dev.intr.asserted →
    Yields (.intSourceFire id true) s [] (fun t => id ∈ t.m.dev.intr.asserted ∧
      (s.m.dev.intr.en id = true → s.m.dev.intr.isActive id = false → id ∈ t.m.dev.intr.pending))) ∧
  (∀ core, core < 4 → (s.m.dev.intr.core core).powered = true → (s.m.dev.intr.core core).awake = true →
    (∀ id, s.m.dev.intr.best core = some id →
      Yields (.intClaim core) s [] (fun t => Emission.claim core (2 ^ 31 + id) ∈ t.m.dev.sent ∧
        (id, core) ∈ t.m.dev.intr.active ∧ (t.m.dev.intr.core core).lastId = id ∧ (id < 604 → id ∉ t.m.dev.intr.pending))) ∧
    (s.m.dev.intr.best core = none →
      Yields (.intClaim core) s [] (fun t => Emission.claim core 0 ∈ t.m.dev.sent ∧
        t.m.dev.intr.active = s.m.dev.intr.active ∧ t.m.dev.intr.spurious = satAdd32 s.m.dev.intr.spurious 1))) ∧
  (∀ core id nothing, core < 4 →
    Yields (.intComplete core id nothing) s [] (fun t =>
      ((id, core) ∈ s.m.dev.intr.active → (id, core) ∉ t.m.dev.intr.active ∧ t.m.dev.intr.badComplete = s.m.dev.intr.badComplete ∧
        t.m.dev.intr.spurious = (if nothing then satAdd32 s.m.dev.intr.spurious 1 else s.m.dev.intr.spurious)) ∧
      ((id, core) ∉ s.m.dev.intr.active → t.m.dev.intr.active = s.m.dev.intr.active ∧
        t.m.dev.intr.badComplete = satAdd32 s.m.dev.intr.badComplete 1))) ∧
  (∀ id v, id < 1008 → idAssigned id = true → v < 2 ^ 16 → bit v 14 = false →
    Yields (.intSrcSetting id v) s [] (fun t => t.m.dev.intr.setting = Tbl.set intrDefault s.m.dev.intr.setting id v ∧
      t.m.dev.intr.active = s.m.dev.intr.active)) ∧
  (∀ i, i < 4 → (s.m.dev.intr.core i).powered = true → s.m.dev.intr.pending = [] →
    (∀ e ∈ s.m.dev.levels, e.2 = true → e.1 ∈ s.m.dev.intr.asserted) →
    Yields (.coreSleep i) s [] (fun t => (t.m.dev.intr.core i).awake = false ∧
      (t.m.dev.intr.core i).wdogAt = (s.m.dev.intr.core i).wdogAt ∧ t.m.dev.intr.pending = []))

/-- R440, R442, R549, R563 to R568: the event recorder, and FAULT_CLEAR and BLACKBOX_CLEAR. -/
def Obligations.Recorder : Prop := ∀ s : State,
  (∀ e r x no, s.Live → s.m.dev.bbx.queue = e :: r → s.m.dev.bbx.place e.region = some (x, no) → s.m.dev.bbx.lostSince = 0 →
    Yields .bbxEntryWrite s [.clk, .seq, .bbx, .sid, .mram] (fun t => t.m.dev.clk = max s.m.dev.clk s.m.dev.bbx.readyAt ∧
      t.m.dev.bbx.readyAt = t.m.dev.clk + 2000 ∧ t.m.dev.bbx.queue = r ∧
      t.m.mem = s.m.mem.setEntry x (withCrc (padTo 56 e.body ++ leBytes 4 no)) ∧
      t.m.dev.bbx.firstNo = s.m.dev.bbx.firstNo + (if e.region = .first then 1 else 0))) ∧
  (∀ sq cid c srcs, s.Runs sq cid 0x20 c →
    (c.target < 600 ∧ srcs = [c.target] ∨ c.target = 0xFFFFFFFF ∧ srcs = List.range 600) →
    Yields (.faultClear sq cid) s [.seq, .commands, .errorLog, .flt] (fun t =>
      t.Ends sq cid Status.ok ((srcs.filter (fun k => t.m.dev.flt.status.getLsbD k)).length) ∧
      ∀ k, k < 600 → t.m.dev.flt.status.getLsbD k =
        (s.m.dev.flt.status.getLsbD k && !(decide (k ∈ srcs) && !s.m.dev.persists k)))) ∧
  (∀ sq cid c data, s.Runs sq cid 0x22 c → c.dw 0 % 8 ≠ 0 → 193 ≤ c.dataLen → s.m.mem.dataOk c 193 = true →
    s.m.mem.dataIn c 193 = data →
    Yields (.blackboxClear sq cid) s [.seq, .commands, .errorLog, .logs, .bbx, .mram] (fun t => t.m.dev.host.challenge = s.m.dev.host.challenge + 1 ∧
      (if (s.m.dev.otp.clearKey (data.take 97)).isSome = true ∧ Config.ecdsaVerify (data.take 97) (data.drop 97)
          (Config.sha384 (uidBytes ++ padTo 32 (Config.challenge s.m.dev.host.challenge) ++ leBytes 4 (c.dw 0))) = true then
        t.Ends sq cid Status.ok 0 ∧ (∀ i, 0 < i → inRegion (c.dw 0 % 8) i = true → Tbl.get entryDflt t.m.mem.mram i = entryDflt i) ∧
        (∀ i, 0 < i → inRegion (c.dw 0 % 8) i = false → Tbl.get entryDflt t.m.mem.mram i = Tbl.get entryDflt s.m.mem.mram i)
      else t.Ends sq cid Status.signatureBad 0 ∧ t.m.mem = s.m.mem)))

/-- R275 to R284, R460: requests and frees of buffers, the end of an audit epoch, and BUF_RECLAIM. -/
def Obligations.BufferPools : Prop := ∀ s : State, s.Live → s.m.dev.pools.ready = true → s.m.dev.pools.pool.length = 4 →
  (∀ size cls owner port dests p, cls < 4 → dests ≤ 8 → poolFor size = some p →
    Yields (.poolRequest size cls owner port dests) s [.seq, .stats, .commands, .events, .flt, .bbx, .link, .pools, .feat 0x1B] (fun t =>
      ((if cls = 0 then 0 else (s.m.dev.poolAt p).reserve) < s.m.dev.poolFree p →
        t.m.dev.buf p (firstFree (s.m.dev.poolAt p).alloc 0) =
          some { owner := owner % 16384, cls := cls, refs := dests, touched := s.m.dev.pools.epoch }) ∧
      (s.m.dev.poolFree p ≤ (if cls = 0 then 0 else (s.m.dev.poolAt p).reserve) →
        (t.m.dev.poolAt p).alloc = (s.m.dev.poolAt p).alloc ∧
        (cls = 0 → (t.m.dev.poolAt p).lastCode = 3 ∧ t.m.dev.flt.lastSrc = 421 + p)))) ∧
  (∀ ptr owner port p i, s.m.dev.bufAt ptr = some (p, i) →
    Yields (.poolFree ptr owner port) s [.seq, .stats, .commands, .events, .flt, .bbx, .link, .pools, .feat 0x1B] (fun t =>
      (∀ b, s.m.dev.buf p i = some b → b.owner = owner →
        (t.m.dev.poolAt p).alloc = Tbl.set (fun _ => none) (s.m.dev.poolAt p).alloc i none) ∧
      (∀ b, s.m.dev.buf p i = some b → b.owner ≠ owner → (t.m.dev.poolAt p).alloc = (s.m.dev.poolAt p).alloc ∧
        (t.m.dev.poolAt p).lastCode = 1 ∧ t.m.dev.flt.lastSrc = 417 + p) ∧
      (s.m.dev.buf p i = none → (t.m.dev.poolAt p).alloc = (s.m.dev.poolAt p).alloc ∧ (t.m.dev.poolAt p).lastCode = 0 ∧
        t.m.dev.flt.lastSrc = 417 + p))) ∧
  Yields .auditEpochEnd s [.clk, .seq, .commands, .events, .logs, .sid, .pools, .feat 0x1B] (fun t => t.m.dev.pools.epoch = (s.m.dev.pools.epoch + 1) % 2 ^ 32 ∧
    t.m.dev.pools.epochTicks = 0 ∧ t.m.dev.pools.epochFrom = t.m.dev.clk ∧
    ∀ p i b, t.m.dev.buf p i = some b → b.touched + 1 < s.m.dev.pools.epoch → b.reported = true) ∧
  (∀ sq cid c p i b, s.Runs sq cid 0x69 c → (sq ≠ 0 ∨ cid ∉ s.m.dev.host.aer) → c.target ≤ 16383 → s.m.dev.bufAt (c.dw64 0) = some (p, i) → s.m.dev.buf p i = some b →
    Yields (.bufReclaim sq cid) s [.seq, .stats, .commands, .events, .errorLog, .flt, .bbx, .link, .pools, .feat 0x1B] (fun t =>
      (b.owner = c.target → b.reported = true → t.Ends sq cid Status.ok 0 ∧
        (t.m.dev.poolAt p).alloc = Tbl.set (fun _ => none) (s.m.dev.poolAt p).alloc i none) ∧
      (b.owner = c.target → b.reported = false → t.Ends sq cid Status.busyQuiesce 0 ∧ t.m.dev.pools = s.m.dev.pools) ∧
      (b.owner ≠ c.target → t.Ends sq cid Status.poolNotOwner 0 ∧ t.m.dev.pools = s.m.dev.pools)))

/-- R253 to R256: a cell that crosses the fabric in sequence, and the gap that a lost cell leaves. R258: the classes of PCI
Express. No mirror session is enabled. -/
def Obligations.FabricCells : Prop := ∀ s : State, s.Live → s.m.dev.Shape → (∀ k, k < 8 → bit (s.m.dev.mirCfg k).toNat 31 = false) →
  (∀ (c : FabCell) dom, c.seg = none → c.legal = true → (c.input < 32 ∨ 36 ≤ c.input) → 32 ≤ c.output → portDomain c.output = some dom →
    s.m.dev.powered dom = true → s.m.dev.quiescing dom = false →
    (s.m.dev.fab.waiting = [] → Tbl.get (fun _ => 0) s.m.dev.fab.seqIn c.key = Tbl.get (fun _ => 0) s.m.dev.fab.seqOut c.key →
      Yields (.cellTransfer c.input c.output c.cls c.owner c.addr c.write c.bytes 0) s [.seq, .stats, .commands, .events, .flt, .bbx, .link, .fab, .pools, .dram, .wports, .caps, .prism, .dramMem, .feat 0x1A, .feat 0x1B, .feat 0x1E] (fun t =>
        t.m.dev.fab.seqIn = Tbl.set (fun _ => 0) s.m.dev.fab.seqIn c.key ((Tbl.get (fun _ => 0) s.m.dev.fab.seqIn c.key + 1) % 1024) ∧
        t.m.dev.fab.seqOut = Tbl.set (fun _ => 0) s.m.dev.fab.seqOut c.key ((Tbl.get (fun _ => 0) s.m.dev.fab.seqIn c.key + 1) % 1024) ∧
        t.m.dev.fab.waiting = [] ∧ t.m.dev.fab.pcieQ = s.m.dev.fab.pcieQ ++
          (if 78 ≤ c.output ∧ c.output < 82 then [(c.addr % 64, c.cls)] else []) ∧ t.m.mem = s.m.mem)) ∧
    Yields (.cellTransfer c.input c.output c.cls c.owner c.addr c.write c.bytes 2) s [.seq, .stats, .commands, .events, .flt, .bbx, .link, .fab, .pools, .dram, .wports, .caps, .prism, .dramMem, .feat 0x1A, .feat 0x1B, .feat 0x1E] (fun t =>
      t.m.dev.fab.lost = s.m.dev.fab.lost ++ [{ cell := c, seq := Tbl.get (fun _ => 0) s.m.dev.fab.seqIn c.key }] ∧
      t.m.dev.fab.seqOut = s.m.dev.fab.seqOut ∧ t.m.mem = s.m.mem)) ∧
  (∀ input output cls w, s.m.dev.fab.lost.find? (fun w => decide (w.cell.key = (128 * input + output) * 4 + cls) &&
      decide (w.seq = Tbl.get (fun _ => 0) s.m.dev.fab.seqOut ((128 * input + output) * 4 + cls))) = some w →
    w.cell.seg = none → s.m.dev.fab.waiting = [] →
    Yields (.reseqGap input output cls) s [.clk, .seq, .stats, .commands, .events, .flt, .bbx, .sid, .link, .fab, .pools, .dram, .caps, .dramMem, .feat 0x1A, .feat 0x1B, .feat 0x1E] (fun t => t.m.dev.fab.repeats = s.m.dev.fab.repeats + 1 ∧
      t.m.dev.fab.lost = s.m.dev.fab.lost.erase w ∧
      t.m.dev.reg 0x1A 4 = word (satAdd32 (s.m.dev.reg 0x1A 4).toNat 1))) ∧
  (∀ q, q < 64 → (q, 1) ∈ s.m.dev.fab.pcieQ →
    Yields (.egressGrant 6) s [.stats, .cqs, .eth, .link, .fab, .pools, .hostMem, .feat 0x1A, .feat 0x21] (fun t => ∃ r, (r, 1) ∈ s.m.dev.fab.pcieQ ∧
      t.m.dev.fab.pcieQ = s.m.dev.fab.pcieQ.erase (r, 1)))

/-- R41 to R49, R58, R59, R68: lane blocks, and what the messages of an SLVS group do. -/
def Obligations.SlvsInput : Prop := ∀ s : State, s.Live → s.m.dev.Shape → s.m.dev.prmMode = 1 →
  s.m.dev.prism.lanes.length = 64 → s.m.dev.prism.groups.length = 4 →
  (∀ i slot block, s.m.dev.laneOn i = true →
    (block.toNat % 4 = 0 ∨ block.toNat % 4 = 3 →
      Yields (.laneBlock i slot block) s [.seq, .stats, .commands, .events, .flt, .bbx, .link, .prism, .feat 0x10] (fun t =>
        t.m.dev.reg 0x10 0x080 = word (satAdd32 (s.m.dev.reg 0x10 0x080).toNat 1) ∧ bit (t.m.dev.reg 0x10 0x040).toNat 0 = true)) ∧
    (block.toNat % 4 = 1 → (s.m.dev.lane i).locked = false →
      Yields (.laneBlock i slot block) s [.seq, .stats, .commands, .events, .flt, .bbx, .link, .prism, .feat 0x10] (fun t => (t.m.dev.lane i).good = (s.m.dev.lane i).good + 1 ∧
        (t.m.dev.lane i).locked = decide (64 ≤ (s.m.dev.lane i).good + 1))) ∧
    (block.toNat % 4 = 1 → (s.m.dev.lane i).locked = true → ((s.m.dev.lane i).seen.filter (fun v => !v)).length < 16 →
      Yields (.laneBlock i slot block) s [.seq, .stats, .commands, .events, .flt, .bbx, .link, .prism, .feat 0x10] (fun t => (t.m.dev.lane i).locked = true ∧
        (t.m.dev.lane i).data = (s.m.dev.lane i).data ++
          leBytes 4 (descramble (block.toNat / 4 % 2 ^ 32) (s.m.dev.lane i).scr).1))) ∧
  (∀ g x r, g < 4 → (s.m.dev.group g).inbox = x :: r →
    (x.code = 0x33 → (s.m.dev.source g 0).sof = false →
      Yields (.sof g 0 0) s [.seq, .stats, .commands, .events, .flt, .bbx, .link, .caps, .prism, .feat 0x10] (fun t => (t.m.dev.group g).inbox = r ∧ (t.m.dev.source g 0).sof = true ∧
        (t.m.dev.source g 0).open_ = true ∧ (t.m.dev.source g 0).counter = x.args.getD 0 0 ∧
        ∀ n c w, s.m.dev.cap n = some c → c.input = g → c.vc = 0 → s.m.dev.streams = [(n, c)] →
          c.current s.m.dev.tick.now = some w → ∃ w', t.m.dev.work n w.frame = some w' ∧ w'.sof = true)) ∧
    (x.code = 0x33 → (s.m.dev.source g 0).sof = true →
      Yields (.sof g 0 0) s [.seq, .stats, .commands, .events, .flt, .bbx, .link, .caps, .prism, .feat 0x10] (fun t => (t.m.dev.group g).inbox = r ∧ (t.m.dev.source g 0).discard = true ∧
        t.m.dev.reg 0x10 0x09C = word (satAdd32 (s.m.dev.reg 0x10 0x09C).toNat 1))) ∧
    (x.code = 0x4B → s.m.dev.rowFate g 0 (x.args.getD 0 0 % 2 ^ 14) = .taken →
      Yields (.sol g) s [.seq, .stats, .commands, .events, .flt, .bbx, .link, .prism, .feat 0x10] (fun t => (t.m.dev.group g).inbox = r ∧
        (t.m.dev.source g 0).line = some (x.args.getD 0 0 % 2 ^ 14))) ∧
    (x.code = 0x4B → s.m.dev.rowFate g 0 (x.args.getD 0 0 % 2 ^ 14) = .extra →
      Yields (.sol g) s [.seq, .stats, .commands, .events, .flt, .bbx, .link, .prism, .feat 0x10] (fun t => (t.m.dev.group g).inbox = r ∧
        t.m.dev.reg 0x10 0x098 = word (satAdd32 (s.m.dev.reg 0x10 0x098).toNat 1))) ∧
    (∀ y, x.code = 0x55 → (s.m.dev.source g 0).line = some y → (s.m.dev.source g 0).open_ = true →
      ((List.zipWith (fun a l => decide (a % 65536 = crc16 l)) x.args x.data).all id = false →
        Yields (.eol g) s [.seq, .stats, .commands, .events, .flt, .bbx, .link, .pools, .dram, .caps, .prism, .dramMem, .feat 0x10, .feat 0x1B] (fun t => (t.m.dev.group g).inbox = r ∧ (t.m.dev.source g 0).line = none ∧
          t.m.dev.prism.segs = s.m.dev.prism.segs ∧ t.m.dev.reg 0x10 0x08C = word (satAdd32 (s.m.dev.reg 0x10 0x08C).toNat 1))) ∧
      (∀ n c w photos, (List.zipWith (fun a l => decide (a % 65536 = crc16 l)) x.args x.data).all id = true →
        (∀ l ∈ x.data, l.length = (x.data.getD 0 []).length) → photos = lanePhotos (s.m.dev.inFmt g).2 x.data →
        s.m.dev.tooShort g 0 y photos.length = false → s.m.dev.openOn g 0 = [(n, c, w)] → c.top ≤ y → y < c.top + c.height →
        w.row 0 (y - c.top) = .absent →
        Yields (.eol g) s [.seq, .stats, .commands, .events, .flt, .bbx, .link, .pools, .dram, .caps, .prism, .dramMem, .feat 0x10, .feat 0x1B] (fun t => (t.m.dev.group g).inbox = r ∧ (t.m.dev.source g 0).line = none ∧
          t.m.dev.prism.segs = s.m.dev.prism.segs ++ segments n w.frame (y - c.top) (compsOf w.cfa)
            ((photos.drop (c.left * compsOf w.cfa)).take (c.width * compsOf w.cfa)) 0 c.tileW))) ∧
    (x.code = 0x66 → (s.m.dev.source g 0).sof = true →
      Yields (.eof g 0) s [.prism] (fun t => (t.m.dev.group g).inbox = r ∧ (t.m.dev.source g 0).open_ = false)))

/-- R52, R53, R58: the packets of a CSI-2 port. R65, R66: line segments that enter a staging FIFO. -/
def Obligations.Csi2AndStaging : Prop := ∀ s : State, s.Live → s.m.dev.Shape →
  (∀ g vc, s.m.dev.csiOn g vc = true →
    (∀ counter, (s.m.dev.source g vc).sof = false →
      Yields (.sof g vc counter) s [.seq, .stats, .commands, .events, .flt, .bbx, .link, .caps, .prism, .feat 0x10] (fun t => (t.m.dev.source g vc).sof = true ∧ (t.m.dev.source g vc).open_ = true ∧
        (t.m.dev.source g vc).counter = counter % 65536 ∧ (t.m.dev.source g vc).rows = 0)) ∧
    ((s.m.dev.source g vc).sof = true →
      Yields (.eof g vc) s [.prism] (fun t => (t.m.dev.source g vc).open_ = false)) ∧
    (∀ dt ok payload, Yields (.csi2LongPacket g vc dt 2 ok payload) s [.seq, .stats, .commands, .events, .flt, .bbx, .link, .pools, .dram, .caps, .prism, .dramMem, .feat 0x10, .feat 0x1B] (fun t =>
      (t.m.dev.source g vc).rows = (s.m.dev.source g vc).rows + 1 ∧ t.m.mem = s.m.mem ∧
      t.m.dev.reg 0x10 0x0A4 = word (satAdd32 (s.m.dev.reg 0x10 0x0A4).toNat 1))) ∧
    (∀ dt ok payload, csiLong dt = false → Yields (.csi2LongPacket g vc dt 0 ok payload) s [.seq, .stats, .commands, .events, .flt, .bbx, .link, .pools, .dram, .caps, .prism, .dramMem, .feat 0x10, .feat 0x1B] (fun t =>
      t.m.dev.prism = s.m.dev.prism ∧ t.m.dev.reg 0x10 0x0A8 = word (satAdd32 (s.m.dev.reg 0x10 0x0A8).toNat 1))) ∧
    (∀ dt payload photos n c w, csiLong dt = true → dt ≠ 0x12 → csiPhotos (s.m.dev.inFmt g).1 (s.m.dev.inFmt g).2 dt payload = some photos →
      s.m.dev.rowFate g vc (s.m.dev.source g vc).rows = .taken → s.m.dev.openOn g vc = [(n, c, w)] →
      s.m.dev.tooShort g vc (s.m.dev.source g vc).rows photos.length = false → c.top ≤ (s.m.dev.source g vc).rows →
      w.row 0 ((s.m.dev.source g vc).rows - c.top) = .absent →
      Yields (.csi2LongPacket g vc dt 0 true payload) s [.seq, .stats, .commands, .events, .flt, .bbx, .link, .pools, .dram, .caps, .prism, .dramMem, .feat 0x10, .feat 0x1B] (fun t =>
        (t.m.dev.source g vc).rows = (s.m.dev.source g vc).rows + 1 ∧ t.m.mem = s.m.mem ∧
        t.m.dev.prism.segs = s.m.dev.prism.segs ++ segments n w.frame ((s.m.dev.source g vc).rows - c.top) (compsOf w.cfa)
          ((photos.drop (c.left * compsOf w.cfa)).take (c.width * compsOf w.cfa)) 0 c.tileW)) ∧
    (∀ number, (s.m.dev.source g vc).sof = true → Yields (.csi2LineStart g vc number) s [.prism] (fun t =>
      (t.m.dev.source g vc).lineNo = number % 65536 ∧ (t.m.dev.source g vc).rows = (s.m.dev.source g vc).rows))) ∧
  (∀ g r p, s.m.dev.prism.segs = g :: r → s.m.dev.segPort g = p → p < s.m.dev.prism.fifos.length →
    (s.m.dev.prism.level p + g.bytes.length ≤ 262144 →
      Yields .stageSegment s [.seq, .stats, .commands, .events, .flt, .bbx, .link, .pools, .dram, .wports, .caps, .prism, .dramMem, .feat 0x10, .feat 0x1B] (fun t => t.m.dev.prism.segs = r ∧ t.m.mem = s.m.mem ∧
        t.m.dev.prism.fifos = modAt s.m.dev.prism.fifos p (fun l => l ++ [g]))) ∧
    (262144 < s.m.dev.prism.level p + g.bytes.length →
      Yields .stageSegment s [.seq, .stats, .commands, .events, .flt, .bbx, .link, .pools, .dram, .wports, .caps, .prism, .dramMem, .feat 0x10, .feat 0x1B] (fun t => t.m.dev.prism.segs = r ∧ t.m.dev.prism.fifos = s.m.dev.prism.fifos ∧
        t.m.dev.reg 0x10 0x0AC = word (satAdd32 (s.m.dev.reg 0x10 0x0AC).toNat 1))))

/-- R119, R120, R128, R138, R163: attempts, and the measure pass. -/
def Obligations.Attempts : Prop := ∀ (s : State) (e : Nat), s.Live → s.m.dev.Shape →
  (∀ r w b, (s.m.dev.pix e).job = none → (s.m.dev.pix e).fault = none → s.m.dev.takesWork (e / 4) = true →
    s.m.dev.nextAttempt e = some r → s.m.dev.bandOf r = some (w, b) → (w.tile r.tile).engine = e → e < s.m.dev.codec.pxe.length →
    b.asked = false → s.m.dev.policy r.stream = false →
    Yields (.attemptStart e) s [.seq, .stats, .commands, .events, .flt, .bbx, .link, .dram, .caps, .codec, .seqr, .feat 0x14, .feat 0x16, .feat 0x1E] (fun t =>
      if s.m.dev.forecast w r.tile r.band = true then (t.m.dev.pix e).job = some r ∧ (t.m.dev.pix e).startAt = s.m.dev.clk ∧
        (t.m.dev.pix e).frame = w.frame ∧ (t.m.dev.bandOf r).map (fun x => x.2.phase) = some .forming
      else (t.m.dev.pix e).job = none ∧ (t.m.dev.bandOf r).map (fun x => x.2.phase) = some .eclipseWait)) ∧
  (∀ r w b f dt, (s.m.dev.pix e).job = some r → (s.m.dev.pix e).fault = none → s.m.dev.bandOf r = some (w, b) → b.formed = some f →
    (f.wordCount ≤ 16383 → (s.m.dev.pix e).written = f.wordCount →
      Yields (.attemptComplete e dt) s [.clk, .stats, .sid, .caps, .codec, .feat 0x16] (fun t => (t.m.dev.pix e).job = none ∧
        t.m.dev.clk = max s.m.dev.clk ((s.m.dev.pix e).startAt + min dt (nsOfClocks (ceilDiv (w.photos r.tile r.band) 2) (s.m.dev.fPe e))) ∧
        t.m.dev.codec.bq = modAt s.m.dev.codec.bq e (fun l =>
          modifyFirst (fun x => decide (x.ref = r)) (fun x => { x with complete := true }) l))) ∧
    (16383 < f.wordCount → (s.m.dev.pix e).written = 16383 →
      Yields (.queueFull e dt) s [.clk, .stats, .sid, .caps, .codec, .feat 0x12, .feat 0x16] (fun t => (t.m.dev.pix e).job = none ∧
        (t.m.dev.bandOf r).map (fun x => x.2.phase) = some .eclipseWait ∧
        t.m.dev.reg 0x12 (0x20 * e + 0x0C) = word (satAdd32 (s.m.dev.reg 0x12 (0x20 * e + 0x0C)).toNat 1)))) ∧
  (∀ r w b, (s.m.dev.pix e).job = some r → s.m.dev.bandOf r = some (w, b) →
    Yields (.bqRoomResume e) s [.codec] (fun t => (t.m.dev.pix e).job = some r ∧ (t.m.dev.pix e).written =
      (s.m.dev.pix e).written + min (b.wordsTarget - (s.m.dev.pix e).written) (16384 - s.m.dev.bqCount e))) ∧
  (∀ r w b f dt ce, (s.m.dev.entE e).job = some r → (s.m.dev.entE e).pass = .measure → (s.m.dev.entE e).fault = none →
    s.m.dev.bandOf r = some (w, b) → b.formed = some f → s.m.dev.policy r.stream = false →
    Yields (.measureDone e dt ce) s [.clk, .seq, .stats, .commands, .events, .flt, .bbx, .sid, .link, .caps, .codec, .seqr, .feat 0x12, .feat 0x13, .feat 0x14, .feat 0x16] (fun t =>
      t.m.dev.clk = max s.m.dev.clk ((s.m.dev.entE e).startAt + min dt (nsOfClocks (ceilDiv (w.photos r.tile r.band) 4 + 64) (2 * s.m.dev.fPe e))) ∧
      t.m.dev.reg 0x13 (0x40 * e + 0x0C) = word (satAdd32 (s.m.dev.reg 0x13 (0x40 * e + 0x0C)).toNat 1) ∧
      ∃ x, t.m.dev.bandOf r = some x ∧ x.2.phase ∈ [.codeWait, .coding, .waiting, .eclipseWait]))

/-- R111, R120, R135, R167: the code pass and the eclipse pass. -/
def Obligations.CodingPasses : Prop := ∀ (s : State) (e : Nat) (r : BandRef) (w : Work) (b : Band), s.Live → s.m.dev.bandOf r = some (w, b) →
  (∀ dt ce f sec rans, (s.m.dev.entE e).job = some r → (s.m.dev.entE e).fault = none → (s.m.dev.entE e).pass = .code → b.formed = some f →
    f.sections (if b.flat then flatTables else w.tables.getD flatTables) = some sec →
    ransBytes (if b.flat then flatTables else w.tables.getD flatTables) f.syms = some rans →
    Yields (.codePassDone e dt ce) s [.clk, .seq, .stats, .commands, .events, .flt, .bbx, .sid, .link, .caps, .codec, .feat 0x12, .feat 0x16] (fun t =>
      t.m.dev.clk = max s.m.dev.clk ((s.m.dev.entE e).startAt + min dt (nsOfClocks
        (max (ceilDiv (w.photos r.tile r.band) 2) (ceilDiv (8 * rans.length) 16) + 80) (2 * s.m.dev.fPe e))) ∧
      ∃ x, t.m.dev.bandOf r = some x ∧ x.2.phase ∈ [.coded, .verifying] ∧
        x.2.bytes = bandSegment { band := r.band, tile := r.tile, eclipse := false, flat := b.flat, delta := b.delta, rows := b.rows.length,
                                    flags := Band.wantFlags { b with cause := if 2 ≤ b.attempts then 1 else 0, depth := 0 } w.mode, check := b.check.getD 0 } sec)) ∧
  ((s.m.dev.entE e).job = none → (s.m.dev.entE e).fault = none → s.m.dev.takesWork (e / 4) = true → e < s.m.dev.codec.ent.length →
    s.m.dev.nextPass e = some r → (w.tile r.tile).engine = e → b.phase = .eclipseWait → b.asked = false →
    (b.pass = 2 ∨ b.pass = 0 ∧ b.depthSet = true) →
    Yields (.eclipsePassStart e) s [.seq, .stats, .commands, .events, .flt, .bbx, .link, .dram, .caps, .codec, .seqr, .feat 0x14, .feat 0x1E] (fun t => (t.m.dev.entE e).job = some r ∧ (t.m.dev.entE e).pass = .eclipse ∧
      (t.m.dev.entE e).startAt = s.m.dev.clk ∧ (t.m.dev.bandOf r).map (fun x => x.2.phase) = some .eclipsing ∧ t.m.mem = s.m.mem)) ∧
  (∀ dt, (s.m.dev.entE e).job = some r → (s.m.dev.entE e).fault = none → (s.m.dev.entE e).pass = .eclipse →
    Yields (.eclipsePassDone e dt) s [.clk, .sid, .caps, .codec, .feat 0x16] (fun t =>
      t.m.dev.clk = max s.m.dev.clk ((s.m.dev.entE e).startAt +
        min dt (nsOfClocks (ceilDiv (w.photos r.tile r.band) 8 + 64) (2 * s.m.dev.fPe e))) ∧
      ∃ x, t.m.dev.bandOf r = some x ∧ x.2.phase ∈ [.coded, .verifying] ∧ x.2.bytes.take 4 = marker 3 ∧
        x.2.bytes.drop 28 = eclipseBytes w.depth b.depth (s.m.bandPhotos w r.tile r.band)))

/-- R123, R180 to R184: verification of a band of a stream without references. R28, R37, R136, R138, R154: tables, and the guard. -/
def Obligations.VerifyAndGuard : Prop := ∀ s : State, s.Live → s.m.dev.Shape →
  (∀ e r w b c dt flips, (s.m.dev.mirE e).job = some r → (s.m.dev.mirE e).fault = none → s.m.dev.bandOf r = some (w, b) → b.pass < 2 →
    s.m.dev.cap r.stream = some c → c.anchor ≤ 1 →
    c.works.Pairwise (fun a b => a.frame ≠ b.frame) → (w.tile r.tile).engine = e →
    Yields (.verifyDone e dt 0 flips []) s [.clk, .seq, .stats, .commands, .events, .logs, .flt, .bbx, .sid, .link, .pools, .dram, .caps, .codec, .seqr, .dramMem, .feat 0x15, .feat 0x16, .feat 0x1B, .feat 0x1E] (fun t => ∃ v : Verdict,
      (t.m.dev.mirE e).last = mirLast r b.pass v ∧ ((flipBits b.bytes flips).take 4 ≠ marker 3 → v.cond = Cond.marker) ∧
      (if v.cond = 0 ∧ v.bound = false then ∀ x, t.m.dev.bandOf r = some x → x.2.phase = .passed ∨ x.2.phase = .handed
       else (t.m.dev.bandOf r).map (fun x => x.2.pass) = some (b.pass + 1) ∧
        t.m.dev.reg 0x16 (0x40 * e + 0x10) = word (satAdd32 (s.m.dev.reg 0x16 (0x40 * e + 0x10)).toNat 1)))) ∧
  (∀ j dt c w, s.m.dev.cap j = some c → c.works.find? (fun w => w.tables.isNone && !w.skip && !w.gone) = some w →
    s.m.dev.policy j = false →
    Yields (.tablesReady j dt) s [.clk, .sid, .caps, .codec, .seqr, .feat 0x16] (fun t => t.m.dev.clk = max s.m.dev.clk (s.m.dev.tick.lastClk + min dt 20000) ∧
      ∃ x, t.m.dev.work j w.frame = some x ∧ x.tables.isSome = true ∧ x.divided = true)) ∧
  (∀ j n k w, s.m.dev.work j n = some w → w.skip = false → w.gone = false → w.mode ≠ 3 → k < w.tiles.length → w.unpassed k ≠ 0 →
    Yields (.guardSwitch j n k) s [.clk, .sid, .caps, .codec, .feat 0x16] (fun t =>
      t.m.dev.clk = (s.m.dev.advanceToSid ((s.m.dev.switchAt w k).toNat / 10 ^ 9)).clk ∧
      ∀ i, i < (w.tile k).bands.length → (w.band k i).phase = .waiting →
        (t.m.dev.bandOf { stream := j, frame := n, tile := k, band := i }).map (fun x => x.2.phase) = some .eclipseWait)) ∧
  (∀ n, s.m.dev.streams.any (fun x => (s.m.dev.work x.1 n).isSome) = true →
    Yields (.deadlineGuard n) s [.clk, .sid, .caps, .codec, .seqr, .feat 0x16] (fun t => t.m.dev.clk = (s.m.dev.advanceToSid (s.m.dev.guardAt n)).clk ∧
      ∀ x ∈ s.m.dev.streams, ∀ w, s.m.dev.work x.1 n = some w → w.skip = false → w.gone = false → w.mode ≠ 3 →
        ∀ k i, k < w.tiles.length → i < (w.tile k).bands.length → (w.band k i).phase.uncoded = true →
          (t.m.dev.bandOf { stream := x.1, frame := n, tile := k, band := i }).map (fun x => x.2.phase) = some .eclipseWait))

/-- R140, R141: faults of the engines, and their resets. -/
def Obligations.EngineFaults : Prop := ∀ (s : State) (e : Nat) (r : BandRef), s.Live → s.m.dev.Shape →
  ((s.m.dev.pix e).job = some r →
    Yields (.pxeParity e) s [.seq, .stats, .commands, .events, .flt, .bbx, .link, .caps, .codec, .feat 0x11] (fun t => (t.m.dev.pix e).job = none ∧ (t.m.dev.pix e).fault = some s.m.dev.clk ∧
      t.m.dev.reg 0x11 (0x40 * e + 0x10) = word (satAdd32 (s.m.dev.reg 0x11 (0x40 * e + 0x10)).toNat 1)) ∧
    Yields (.engineStall 0 e) s [.clk, .seq, .stats, .commands, .events, .flt, .bbx, .sid, .link, .caps, .codec, .feat 0x11, .feat 0x13] (fun t => (t.m.dev.pix e).job = none ∧
      t.m.dev.clk = s.m.dev.clk + 8000 ∧ (t.m.dev.pix e).fault = some (s.m.dev.clk + 8000) ∧
      t.m.dev.reg 0x11 (0x40 * e + 0x10) = word (satAdd32 (s.m.dev.reg 0x11 (0x40 * e + 0x10)).toNat 1))) ∧
  ((s.m.dev.entE e).job = some r →
    (∀ ce, (s.m.dev.entE e).pass = .measure ∨ (s.m.dev.entE e).pass = .code →
      Yields (.bqUncorrectable e ce) s [.seq, .stats, .commands, .events, .flt, .bbx, .link, .caps, .codec, .feat 0x12, .feat 0x13] (fun t => (t.m.dev.entE e).job = none ∧ (t.m.dev.entE e).pass = .idle ∧
        (t.m.dev.entE e).fault = some s.m.dev.clk ∧
        t.m.dev.reg 0x12 (0x20 * e + 0x08) = word (satAdd32 (s.m.dev.reg 0x12 (0x20 * e + 0x08)).toNat 1)) ∧
      Yields (.entParity e) s [.seq, .stats, .commands, .events, .flt, .bbx, .link, .caps, .codec, .feat 0x13] (fun t => (t.m.dev.entE e).job = none ∧ (t.m.dev.entE e).pass = .idle ∧
        (t.m.dev.entE e).fault = some s.m.dev.clk ∧
        t.m.dev.reg 0x13 (0x40 * e + 0x10) = word (satAdd32 (s.m.dev.reg 0x13 (0x40 * e + 0x10)).toNat 1))) ∧
    ((s.m.dev.entE e).pass = .eclipse →
      Yields (.eclipseFault e) s [.seq, .stats, .commands, .events, .flt, .bbx, .link, .caps, .codec, .feat 0x13] (fun t => (t.m.dev.entE e).job = none ∧ (t.m.dev.entE e).pass = .idle ∧
        (t.m.dev.entE e).fault = some s.m.dev.clk))) ∧
  ((s.m.dev.mirE e).job = some r →
    Yields (.mirFault e) s [.seq, .stats, .commands, .events, .flt, .bbx, .link, .caps, .codec, .feat 0x13] (fun t => (t.m.dev.mirE e).job = none ∧ (t.m.dev.mirE e).play = none ∧
      (t.m.dev.mirE e).fault = some s.m.dev.clk)) ∧
  (∀ dt t0, ((s.m.dev.pix e).fault = some t0 →
      Yields (.engineResetDone 0 e dt) s [.clk, .sid, .caps, .codec, .feat 0x16] (fun t => (t.m.dev.pix e).fault = none ∧
        t.m.dev.clk = max s.m.dev.clk (t0 + min dt 40000))) ∧
    ((s.m.dev.entE e).fault = some t0 →
      Yields (.engineResetDone 1 e dt) s [.clk, .sid, .caps, .codec, .feat 0x16] (fun t => (t.m.dev.entE e).fault = none ∧
        t.m.dev.clk = max s.m.dev.clk (t0 + min dt 40000))))

/-- R236, R238 to R240, R242 to R245: dispatch, and the words of each NEXT whose condition holds and whose nano-word has empty
slots; a word whose slot 0 writes a register. -/
def Obligations.MicroWords : Prop := ∀ (s : State) (k : Nat), s.Live → s.m.dev.Shape →
  (∀ e r a, (s.m.dev.thread k).pc = none → (s.m.dev.thread k).events = e :: r → s.m.dev.seqr.dispatch.getD (e.op - 0xF0) none = some a →
    Yields (.seqDispatch k false) s [.seq, .stats, .commands, .events, .flt, .bbx, .link, .dram, .caps, .codec, .seqr, .feat 0x14, .feat 0x16, .feat 0x19, .feat 0x1E] (fun t => (t.m.dev.thread k).pc = some a ∧ (t.m.dev.thread k).cur = some e ∧
      (t.m.dev.thread k).events = r ∧ (t.m.dev.thread k).count = 0 ∧ (t.m.dev.thread k).regs = (s.m.dev.thread k).regs)) ∧
  (∀ a w n, (s.m.dev.thread k).pc = some a → (s.m.dev.thread k).waitAt = none →
    (s.m.dev.thread k).count < (s.m.dev.thread k).limit k → s.m.dev.micro a = w → s.m.dev.nano (microNano w) = n →
    (nanoSlot n 0 = 0 → nanoSlot n 1 = 0 →
      (microNext w = 0 → microWait w = 0 → Yields (.cont k 0) s [.seq, .stats, .commands, .events, .flt, .bbx, .link, .dram, .caps, .codec, .seqr, .feat 0x14, .feat 0x16, .feat 0x19, .feat 0x1E] (fun t =>
        (t.m.dev.thread k).pc = some ((a + 1) % 2 ^ 13) ∧ (t.m.dev.thread k).count = (s.m.dev.thread k).count + 1 ∧
        (t.m.dev.thread k).regs = (s.m.dev.thread k).regs)) ∧
      (microNext w = 1 → microWait w = 0 → Yields (.jump k 0) s [.seq, .stats, .commands, .events, .flt, .bbx, .link, .dram, .caps, .codec, .seqr, .feat 0x14, .feat 0x16, .feat 0x19, .feat 0x1E] (fun t => (t.m.dev.thread k).pc = some (nanoTarget n))) ∧
      (microNext w = 2 → microWait w = 0 → Yields (.brNeg k 0) s [.seq, .stats, .commands, .events, .flt, .bbx, .link, .dram, .caps, .codec, .seqr, .feat 0x14, .feat 0x16, .feat 0x19, .feat 0x1E] (fun t =>
        (t.m.dev.thread k).pc = some (if (s.m.dev.thread k).neg then nanoTarget n else (a + 1) % 2 ^ 13))) ∧
      (microNext w = 3 → microWait w = 0 → Yields (.brZero k 0) s [.seq, .stats, .commands, .events, .flt, .bbx, .link, .dram, .caps, .codec, .seqr, .feat 0x14, .feat 0x16, .feat 0x19, .feat 0x1E] (fun t =>
        (t.m.dev.thread k).pc = some (if (s.m.dev.thread k).zero then nanoTarget n else (a + 1) % 2 ^ 13))) ∧
      (microNext w = 4 → Yields (.brCond k 0) s [.seq, .stats, .commands, .events, .flt, .bbx, .link, .dram, .caps, .codec, .seqr, .feat 0x14, .feat 0x16, .feat 0x19, .feat 0x1E] (fun t =>
        (t.m.dev.thread k).pc = some (if s.m.dev.condition k (microWait w) then nanoTarget n else (a + 1) % 2 ^ 13))) ∧
      (microNext w = 5 → microWait w = 0 → (s.m.dev.thread k).stack.length < 4 → Yields (.call k 0) s [.seq, .stats, .commands, .events, .flt, .bbx, .link, .dram, .caps, .codec, .seqr, .feat 0x14, .feat 0x16, .feat 0x19, .feat 0x1E] (fun t =>
        (t.m.dev.thread k).pc = some (nanoTarget n) ∧ (t.m.dev.thread k).stack = (a + 1) :: (s.m.dev.thread k).stack)) ∧
      (∀ p r, microNext w = 6 → microWait w = 0 → (s.m.dev.thread k).stack = p :: r → Yields (.ret k 0) s [.seq, .stats, .commands, .events, .flt, .bbx, .link, .dram, .caps, .codec, .seqr, .feat 0x14, .feat 0x16, .feat 0x19, .feat 0x1E] (fun t =>
        (t.m.dev.thread k).pc = some p ∧ (t.m.dev.thread k).stack = r)) ∧
      (microNext w = 7 → microWait w = 0 → Yields (.seqEnd k 0) s [.seq, .stats, .commands, .events, .flt, .bbx, .link, .dram, .caps, .codec, .seqr, .feat 0x14, .feat 0x16, .feat 0x19, .feat 0x1E] (fun t => (t.m.dev.thread k).pc = none ∧
        (t.m.dev.thread k).cur = none ∧ (t.m.dev.thread k).stack = []))) ∧
    (∀ x, microNext w = 0 → microWait w = 0 → nanoSlot n 1 = 0 → bit n 146 = false → slotDst (nanoSlot n 0) < 16 →
      slotRun (slotOp (nanoSlot n 0)) (s.m.dev.operand k (slotA (nanoSlot n 0)) (slotImm (nanoSlot n 0)))
        (s.m.dev.operand k (slotB (nanoSlot n 0)) (slotImm (nanoSlot n 0)))
        ((s.m.dev.thread k).regs.getD (slotImm (nanoSlot n 0) % 16) 0).toNat = some x →
      Yields (.cont k 0) s [.seq, .stats, .commands, .events, .flt, .bbx, .link, .dram, .caps, .codec, .seqr, .feat 0x14, .feat 0x16, .feat 0x19, .feat 0x1E] (fun t => (t.m.dev.thread k).pc = some ((a + 1) % 2 ^ 13) ∧
        (t.m.dev.thread k).regs = modAt (s.m.dev.thread k).regs (slotDst (nanoSlot n 0)) (fun _ => word x.value) ∧
        (t.m.dev.thread k).zero = decide (x.value = 0) ∧ (t.m.dev.thread k).carry = x.carry.getD (s.m.dev.thread k).carry ∧
        (t.m.dev.thread k).neg = x.neg.getD (s.m.dev.thread k).neg ∧ (t.m.dev.thread k).divz = x.divz.getD (s.m.dev.thread k).divz)))

/-- R237, R242, R245, R251: waits, the timer, the limit of a handler and host events. R247, R249, R250, R437: UCODE_LOAD. -/
def Obligations.SequencerControl : Prop := ∀ (s : State) (k : Nat), s.Live → s.m.dev.Shape →
  (∀ a from_ w n c, (s.m.dev.thread k).pc = some a → (s.m.dev.thread k).waitAt = some from_ → s.m.dev.micro a = w →
    s.m.dev.nano (microNano w) = n → nanoSlot n 0 = 0 → nanoSlot n 1 = 0 → microNext w = 0 → s.m.dev.condition k (microWait w) = true →
    c = (s.m.dev.thread k).count + (s.m.dev.clk - from_) → c < (s.m.dev.thread k).limit k →
    Yields (.waitRelease k) s [.seq, .stats, .commands, .events, .flt, .bbx, .link, .dram, .caps, .codec, .seqr, .feat 0x14, .feat 0x16, .feat 0x19, .feat 0x1E] (fun t => (t.m.dev.thread k).pc = some ((a + 1) % 2 ^ 13) ∧
      (t.m.dev.thread k).waitAt = none ∧ (t.m.dev.thread k).count = c + 1 ∧
      (28 ≤ microWait w → (t.m.dev.thread k).flags = modAt (s.m.dev.thread k).flags (microWait w - 28) (fun _ => false)))) ∧
  (∀ at_, (s.m.dev.thread k).timer = some at_ →
    Yields (.seqTimerExpire k) s [.clk, .sid, .seqr] (fun t => t.m.dev.clk = max s.m.dev.clk at_ ∧
      (t.m.dev.thread k).timer = none ∧ (t.m.dev.thread k).expired = true)) ∧
  (∀ a from_, (s.m.dev.thread k).pc = some a → (s.m.dev.thread k).waitAt = some from_ →
    Yields (.handlerForcedEnd k) s [.clk, .seq, .stats, .commands, .events, .flt, .bbx, .sid, .link, .dram, .caps, .codec, .seqr, .feat 0x14, .feat 0x16, .feat 0x19, .feat 0x1E] (fun t => (t.m.dev.thread k).pc = none ∧ (t.m.dev.thread k).waitAt = none ∧
      t.m.dev.reg 0x19 0x44 = word (satAdd32 (s.m.dev.reg 0x19 0x44).toNat 1) ∧
      t.m.dev.clk = max s.m.dev.clk (from_ + ((s.m.dev.thread k).limit k - (s.m.dev.thread k).count)))) ∧
  (∀ v, bits v 8 5 ≤ 24 → s.m.dev.seqr.threads.length = 25 →
    Yields (.seqHostEvent v) s [.seqr, .feat 0x19] (fun t =>
      if (s.m.dev.thread (bits v 8 5)).posted < 8 then
        (t.m.dev.thread (bits v 8 5)).events = (s.m.dev.thread (bits v 8 5)).events ++
          [{ op := 0xF8 + v % 8, arg := (s.m.dev.reg 0x19 0x3C).toNat, posted := true }] ∧ t.m.dev.reg 0x19 0x48 = s.m.dev.reg 0x19 0x48
      else t.m.dev.seqr = s.m.dev.seqr ∧ t.m.dev.reg 0x19 0x48 = word (satAdd32 (s.m.dev.reg 0x19 0x48).toNat 1))) ∧
  (∀ sq cid c l, s.Runs sq cid 0x12 c → c.dataKind ≠ 0 → c.dataLen ≠ 0 → s.m.mem.dataOk c c.dataLen = true →
    s.m.dev.streams.any (fun x => s.m.dev.policy x.1 && x.2.active) = false → s.m.mem.dataIn c c.dataLen = l →
    Yields (.ucodeLoad sq cid) s [.seq, .commands, .errorLog, .admission, .seqr] (fun t =>
      if (parseUcode l).signatureOk s.m.dev.otp.customerKey l = false then
        t.Ends sq cid Status.signatureBad 0 ∧ t.m.dev.seqr = s.m.dev.seqr
      else if (parseUcode l).ok l = false then t.Ends sq cid Status.invalidField 0 ∧ t.m.dev.seqr = s.m.dev.seqr
      else t.Ends sq cid Status.ok 0 ∧ t.m.dev.seqr.loaded = true ∧ t.m.dev.seqr.version = (parseUcode l).version ∧
        t.m.dev.seqr.micro = (List.range (parseUcode l).microCount).map (fun i => ((parseUcode l).microBase + i, (parseUcode l).micro.getD i 0))))

/-- R308 to R310, R316 to R319, R321, R324, R329: chunks, program stripes and erases. -/
def Obligations.FlashWrites : Prop := ∀ (s : State) (p : Nat), s.Live → s.m.dev.Shape → p < 2 →
  (s.m.dev.mag p).mounted = true →
  (∀ str c bytes, s.m.dev.cap str = some c → c.outq = [] → s.m.dev.chunkPort c = p → c.nextChunk = some bytes →
    (s.m.dev.mag p).readOnly = false → s.m.dev.takesWork (8 + p) = true →
    (c.tries < 2 → Yields (.chunkCheck str true) s [.seq, .stats, .commands, .events, .errorLog, .logs, .flt, .bbx, .link, .pools, .caps, .mags, .carriers, .feat 0x00, .feat 0x1B, .feat 0x1C, .feat 0x1D] (fun t =>
      (t.m.dev.cap str).map (fun x => (x.tries, x.chunks)) = some (c.tries + 1, c.chunks) ∧
      (t.m.dev.mag p).chunks = (s.m.dev.mag p).chunks ∧
      t.m.dev.reg 0x1C 0x20 = word (satAdd32 (s.m.dev.reg 0x1C 0x20).toNat 1))) ∧
    (∀ buf d x, s.m.dev.poolGrant 2 0 c.ctx (64 + 4 * p + c.chunks % 4) 0 = (some buf, d) →
      (((s.m.dev.mag p).openFill.closeFull).openFill).fill = some x →
      Yields (.chunkCheck str false) s [.seq, .stats, .commands, .events, .errorLog, .logs, .flt, .bbx, .link, .pools, .caps, .mags, .carriers, .feat 0x00, .feat 0x1B, .feat 0x1C, .feat 0x1D] (fun t =>
        (t.m.dev.cap str).map (fun x => (x.tries, x.chunks, x.cut)) = some (0, c.chunks + 1, c.cut.drop 65536) ∧
        (t.m.dev.mag p).chunks = (s.m.dev.mag p).chunks ++ [{ stream := str, no := c.chunks, buf := buf }]))) ∧
  (∀ x, s.m.dev.takesWork (8 + p) = true → (s.m.dev.mag p).erasing = [] →
    (s.m.dev.mag p).programs.find? (fun x => x.seq.isNone) = some x →
    Yields (.stripeProgram p) s [.mags] (fun t => (t.m.dev.mag p).vol.seq = ((s.m.dev.mag p).vol.seq + 1) % 2 ^ 32 ∧
      ∃ y ∈ (t.m.dev.mag p).programs, y.seq = some (((s.m.dev.mag p).vol.seq + 1) % 2 ^ 32) ∧ y.waiting = x.dies ∧ y.units = x.units)) ∧
  (∀ x, s.m.dev.takesWork (8 + p) = true → (s.m.dev.mag p).fill = some x → x.lastAt ≠ 0 →
    Yields (.flushTimeout p) s [.clk, .stats, .sid, .mags, .feat 0x1D] (fun t => (t.m.dev.mag p).fill = none ∧
      t.m.dev.clk = max s.m.dev.clk (x.lastAt - 1 + 1000 * fld (s.m.dev.reg 0x1C 0) 0 10) ∧
      t.m.dev.reg 0x1D (0x100 * p + 0x30) = word (satAdd32 (s.m.dev.reg 0x1D (0x100 * p + 0x30)).toNat
        ((s.m.dev.mag p).perLine x.group x.sb - x.units.length)))) ∧
  (∀ die dt x, (s.m.dev.mag p).programs.find? (fun x => x.seq.isSome && x.waiting.contains die) = some x →
    (x.waiting.filter (fun y => decide (y ≠ die)) ≠ [] →
      Yields (.programDone p die dt none) s [.clk, .seq, .stats, .commands, .events, .errorLog, .logs, .flt, .bbx, .sid, .link, .pools, .caps, .codec, .mags, .carriers, .feat 0x00, .feat 0x1C, .feat 0x1D] (fun t => t.m.dev.clk = s.m.dev.clk + dt ∧
        ∃ y ∈ (t.m.dev.mag p).programs, y.seq = x.seq ∧ y.waiting = x.waiting.filter (fun y => decide (y ≠ die)))) ∧
    (x.waiting.filter (fun y => decide (y ≠ die)) = [] → s.m.dev.caps = [] →
      Yields (.programDone p die dt none) s [.clk, .seq, .stats, .commands, .events, .errorLog, .logs, .flt, .bbx, .sid, .link, .pools, .caps, .codec, .mags, .carriers, .feat 0x00, .feat 0x1C, .feat 0x1D] (fun t => t.m.dev.clk = s.m.dev.clk + dt ∧
        ∀ y ∈ (t.m.dev.mag p).programs, y.seq ≠ x.seq))) ∧
  (∀ dt e r, (s.m.dev.mag p).erasing = e :: r →
    Yields (.eraseDone p dt false) s [.clk, .seq, .stats, .commands, .events, .flt, .bbx, .sid, .link, .mags, .carriers, .feat 0x1C, .feat 0x1D] (fun t => (t.m.dev.mag p).erasing = r ∧ t.m.dev.clk = s.m.dev.clk + dt ∧
      Tbl.get (fun _ => 0) (t.m.dev.mag p).vol.erases (8192 * e.1 + e.2) =
        Tbl.get (fun _ => 0) (s.m.dev.mag p).vol.erases (8192 * e.1 + e.2) + 1)) ∧
  (∀ die dt, (s.m.dev.mag p).programs.any (fun x => x.waiting.contains die) = true →
    Tbl.get (fun _ => 0) (s.m.dev.mag p).timeouts die < 2 →
    Yields (.statusTimeout p die dt) s [.clk, .seq, .stats, .commands, .events, .errorLog, .logs, .flt, .bbx, .sid, .link, .pools, .caps, .codec, .mags, .carriers, .feat 0x00, .feat 0x1C, .feat 0x1D] (fun t => t.m.dev.clk = s.m.dev.clk + dt ∧
      Tbl.get (fun _ => 0) (t.m.dev.mag p).timeouts die = Tbl.get (fun _ => 0) (s.m.dev.mag p).timeouts die + 1))

/-- R288, R289, R302, R326, R328, R330, R346: carriers that come and go, reads, relocation, the retention scan and checkpoints. -/
def Obligations.Magazines : Prop := ∀ (s : State) (p : Nat), s.Live → s.m.dev.Shape → p < 2 →
  (∀ id desc0 desc1 env, Yields (.magPresentNChange p true (id, desc0, desc1, env)) s [.mags, .carriers] (fun t =>
    (t.m.dev.mag p).seated = some id ∧ (t.m.dev.mag p).lineAt = s.m.dev.clk ∧ (t.m.dev.mag p).present = (s.m.dev.mag p).present)) ∧
  (∀ e, Yields (.magPresentNChange p false e) s [.mags, .carriers] (fun t => (t.m.dev.mag p).seated = none ∧
    (t.m.dev.mag p).lineAt = s.m.dev.clk ∧ t.m.mem = s.m.mem)) ∧
  ((s.m.dev.mag p).seated.isSome = true → (s.m.dev.mag p).present = false →
    Yields (.magPresent p) s [.clk, .seq, .commands, .events, .sid, .mags] (fun t => (t.m.dev.mag p).present = true ∧
      t.m.dev.clk = max s.m.dev.clk (100000000 + (s.m.dev.mag p).lineAt))) ∧
  ((s.m.dev.mag p).seated = none → (s.m.dev.mag p).present = true →
    Yields (.magRemoved p) s [.clk, .seq, .stats, .commands, .events, .errorLog, .logs, .flt, .bbx, .sid, .link, .pools, .pins, .caps, .codec, .mags, .carriers, .feat 0x00, .feat 0x1D] (fun t => (t.m.dev.mag p).present = false ∧ (t.m.dev.mag p).mounted = false ∧
      t.m.dev.clk = max s.m.dev.clk (10000 + (s.m.dev.mag p).lineAt))) ∧
  ((s.m.dev.mag p).mounted = true →
    (∀ ppa c step bits key, c < 4 → s.m.dev.takesWork (8 + p) = true → key = 8192 * (ppa / 2 ^ 25) + ppa / 4096 % 8192 →
      Yields (.codewordRead p ppa c step bits) s [.seq, .stats, .commands, .events, .flt, .bbx, .link, .mags, .feat 0x1C, .feat 0x1D] (fun t =>
        Tbl.get (fun _ => 0) (t.m.dev.mag p).vol.reads key = Tbl.get (fun _ => 0) (s.m.dev.mag p).vol.reads key + 1 ∧
        (2 ≤ (s.m.readCw p ppa c step).2 → ∃ x ∈ (t.m.dev.mag p).relocDue, x.1 = ppa / 2 ^ 25 ∧ x.2.1 = ppa / 4096 % 8192))) ∧
    (∀ die block bad r, (s.m.dev.mag p).readOnly = false → (s.m.dev.mag p).relocDue = (die, block, bad) :: r → s.m.livePages p die block = [] →
      Yields (.relocateBlock p) s [.seq, .stats, .mags, .carriers, .feat 0x1D] (fun t =>
        (∀ x ∈ (t.m.dev.mag p).relocDue, x.1 ≠ die ∨ x.2.1 ≠ block) ∧
        t.m.dev.reg 0x1D (0x100 * p + 0x2C) = word (satAdd32 (s.m.dev.reg 0x1D (0x100 * p + 0x2C)).toNat 1))) ∧
    (∀ found, s.m.dev.takesWork (8 + p) = true → Yields (.retentionScan p found) s [.clk, .seq, .stats, .commands, .events, .flt, .bbx, .sid, .link, .mags, .feat 0x1C, .feat 0x1D] (fun t =>
      t.m.dev.clk = max s.m.dev.clk ((s.m.dev.mag p).scanAt + 10 ^ 9 * (3600 * (s.m.dev.mag p).geo.retention)) ∧
      (t.m.dev.mag p).scanAt = t.m.dev.clk)) ∧
    ((s.m.dev.mag p).vol.clips.any (fun c => decide (c.state = 1)) = true →
      Yields (.checkpoint p) s [.clk, .seq, .stats, .sid, .mags, .carriers, .feat 0x1D] (fun t => t.m.dev.clk = max s.m.dev.clk (10 ^ 9 + (s.m.dev.mag p).ckptAt) ∧
        (t.m.dev.mag p = s.m.dev.mag p ∨ (t.m.dev.mag p).vol.gen = (s.m.dev.mag p).vol.gen + 1))))

/-- R290, R332, R342, R454 to R456, R458: the magazine commands of a port. -/
def Obligations.MagazineCommands : Prop := ∀ (s : State) (sq cid : Nat) (c : Cmd) (p : Nat), s.m.dev.Shape → p < 2 →
  (sq ≠ 0 ∨ cid ∉ s.m.dev.host.aer) →
  (∀ found, s.Runs sq cid 0x58 c → c.target = p → s.m.dev.boot.state ≠ .twilight → (s.m.dev.mag p).mounted = false →
    Yields (.magMount sq cid found) s [.clk, .seq, .stats, .commands, .events, .errorLog, .admission, .flt, .bbx, .sid, .link, .pools, .pins, .mags, .carriers, .feat 0x1C, .feat 0x1D] (fun t =>
      match s.m.magIdentify p with
      | (.error err, _) => t.Ends sq cid (if err = 6 then Status.magRemoved else Status.magNotMounted) err ∧ (t.m.dev.mag p).mounted = false
      | (.ok g, m) =>
        if g.protected_ = true ∧ bit (c.dw 0) 0 = false then t.Ends sq cid Status.magWriteProtected 0 ∧ (t.m.dev.mag p).mounted = false
        else match m.mountVolume p g (bit (c.dw 0) 0) found with
          | none => t.Ends sq cid Status.magNotMounted 7 ∧ (t.m.dev.mag p).mounted = false
          | some n => t.m.mem = n.mem ∧ (t.m.dev.mag p) = n.dev.mag p)) ∧
  (s.Runs sq cid 0x59 c → c.target = p → (s.m.dev.mag p).mounted = true →
    s.m.dev.streams.any (fun e => e.2.recordsTo p ∧ (e.2.clip.isSome ∨ e.2.active)) = false →
    Yields (.magUnmount sq cid) s [.seq, .stats, .commands, .errorLog, .admission, .flt, .pools, .pins, .mags, .carriers, .feat 0x1D] (fun t => t.Ends sq cid Status.ok 0 ∧ (t.m.dev.mag p).mounted = false ∧
      (t.m.dev.mag p).present = (s.m.dev.mag p).present ∧ t.m.dev.pins.magPwrEn.getD p false = false)) ∧
  (s.Runs sq cid 0x5A c → c.target = p → c.dw 1 = 0x464D5441 → c.dw 2 % 256 ≤ 50 → (s.m.dev.mag p).mounted = false →
    (s.m.dev.mag p).present = true →
    Yields (.magFormat sq cid) s [.clk, .seq, .stats, .commands, .events, .errorLog, .admission, .flt, .bbx, .sid, .link, .pools, .pins, .mags, .carriers, .feat 0x1D] (fun t =>
      match s.m.magIdentify p with
      | (.error err, _) => t.Ends sq cid (if err = 6 then Status.magRemoved else Status.magNotMounted) err ∧ (t.m.dev.mag p).mounted = false
      | (.ok g, _) =>
        if g.protected_ = true then t.Ends sq cid Status.magWriteProtected 0 ∧ (t.m.dev.mag p).mounted = false
        else (t.m.dev.mag p).mounted = true → t.Ends sq cid Status.ok ((t.m.dev.mag p).vol.id % 2 ^ 32) ∧
          (t.m.dev.mag p).readOnly = false ∧ (t.m.dev.mag p).vol.proxyPct = c.dw 2 % 256 ∧ (t.m.dev.mag p).vol.clips = [])) ∧
  (∀ found, s.Runs sq cid 0x5B c → c.target = p → (s.m.dev.mag p).mounted = true →
    Yields (.magScan sq cid found) s [.seq, .stats, .commands, .events, .errorLog, .flt, .bbx, .link, .mags, .carriers, .feat 0x1C, .feat 0x1D] (fun t =>
      (∃ n, t.Ends sq cid Status.ok n ∨ t.Ends sq cid Status.magUncorrectable n) ∧
      ((s.m.dev.mag p).vol.written = [] → (s.m.dev.mag p).relocDue = [] → t.Ends sq cid Status.ok 0))) ∧
  (∀ steps, s.Runs sq cid 0x61 c → c.dw 0 % 2 = p → bit (c.dw 0) 8 = false → c.dw 3 = 1 → (s.m.dev.mag p).mounted = true →
    (s.m.dev.mag p).vol.positionOk (s.m.dev.mag p).geo (c.dw64 1) = true → s.m.mem.dataOk c 4128 = true →
    Yields (.readUnits sq cid steps) s [.seq, .stats, .commands, .events, .errorLog, .flt, .bbx, .link, .mags, .hostMem, .feat 0x1C, .feat 0x1D] (fun t =>
      match s.m.readUnit p (c.dw64 1) (steps.getD 0 1) with
      | (some u, at_) => t.Ends sq cid Status.ok 0 ∧
          t.m.mem = s.m.mem.dataOut c (u ++ leBytes 4 (if at_ = 1 then 0 else if at_ = 2 ∨ at_ = 3 then 1 else if at_ = 4 then 2 else 3))
      | (none, _) => t.Ends sq cid Status.magUncorrectable 0))

/-- R444 to R447, R506: the creation of a context of any kind. R446: the destruction of a context, and of the contexts that
belong to it. -/
def Obligations.Contexts : Prop :=
  (∀ (s : State) (sq cid : Nat) (c : Cmd) (kind : Nat) (l : List Byte),
  s.Runs sq cid 0x40 c → s.m.dev.Shape → Tbl.wf (fun _ => none) s.m.dev.ctxs = true → Tbl.wf (fun _ => none) s.m.dev.caps = true →
  Tbl.wf (fun _ => none) s.m.dev.host.cqs = true →
  kind = c.dw 0 % 8 → kind ≤ 5 → c.dataKind ≠ 0 → paramLen kind ≤ c.dataLen → s.m.mem.dataOk c (paramLen kind) = true →
  s.m.mem.dataIn c (paramLen kind) = l → s.m.dev.paramsOk kind l = true →
  ((s.m.dev.ctxNeeds kind l).1 ≤ 16384 - s.m.dev.ctxUsed → (s.m.dev.ctxNeeds kind l).2.1 < (s.m.dev.ctxNeeds kind l).2.2 →
    (kind = 1 → s.m.dev.powerMoves = false ∧ ∃ x, s.m.dev.cap (rd l 0 1) = some x ∧ s.m.dev.checkProxy x (proxyOuts l) = none) →
    Yields (.contextCreate sq cid) s [.seq, .cqs, .commands, .errorLog, .admission, .shapers, .policers, .fab, .ctxs, .caps, .proxy, .feat 0x15, .feat 0x17, .feat 0x1A, .feat 0x21] (fun t => ∃ i o, (∀ j, j < i → s.m.dev.ctx j ≠ none) ∧ s.m.dev.ctx i = none ∧
      t.Ends sq cid Status.ok (((if kind = 0 then s.m.dev.freeStream else 0) * 2 ^ 16 + i) % 2 ^ 32) ∧ t.m.dev.ctx i = some o ∧
      o.kind = [CtxKind.capture, .proxy, .playback, .flow, .mirror, .hostRing].getD kind .capture ∧ o.params = l ∧
      o.stamp = s.m.dev.stamp32 ∧ (∀ j x, s.m.dev.ctx j = some x → t.m.dev.ctx j = some x) ∧
      (kind = 0 → o.stream = s.m.dev.freeStream ∧ s.m.dev.cap s.m.dev.freeStream = none ∧
        t.m.dev.cap s.m.dev.freeStream = some (capOf i l)) ∧
      (kind = 3 → rd l 4 2 ≠ 0xFFFF →
        t.m.dev.reg 0x21 (bucketReg (decide (rd l 0 1 = 1)) (rd l 4 2)) = word (rd l 8 4) ∧
        t.m.dev.reg 0x21 (bucketReg (decide (rd l 0 1 = 1)) (rd l 4 2) + 4) = word (rd l 12 4)) ∧
      (kind = 5 → ∃ q, t.m.dev.cq (rd l 8 1) = some q ∧ q.base = rd l 0 8 ∧ q.size = rd l 12 4 ∧ q.ring = some i ∧
        q.slotLog2 = rd l 9 1 ∧ q.vector = rd l 11 1))) ∧
  ((kind = 1 → s.m.dev.powerMoves = false) →
    (16384 - s.m.dev.ctxUsed < (s.m.dev.ctxNeeds kind l).1 ∨ (s.m.dev.ctxNeeds kind l).2.2 ≤ (s.m.dev.ctxNeeds kind l).2.1) →
    Yields (.contextCreate sq cid) s [.seq, .cqs, .commands, .errorLog, .admission, .shapers, .policers, .fab, .ctxs, .caps, .proxy, .feat 0x15, .feat 0x17, .feat 0x1A, .feat 0x21] (fun t => t.m.dev.ctxs = s.m.dev.ctxs ∧
      t.Ends sq cid Status.ctxExhausted ((16384 - s.m.dev.ctxUsed) % 2 ^ 32)))) ∧
  (∀ (s : State) (sq cid : Nat) (c : Cmd) (x : Ctx), s.Runs sq cid 0x41 c →
  Tbl.wf (fun _ => none) s.m.dev.ctxs = true → Tbl.wf (fun _ => none) s.m.dev.caps = true → s.m.dev.ctx c.target = some x →
  ((∀ f k, x.kind ≠ .tile f k ∧ x.kind ≠ .output f k) →
    (s.m.dev.ctxBusy c.target x = none →
      Yields (.contextDestroy sq cid) s [.seq, .cqs, .commands, .errorLog, .admission, .fab, .ctxs, .caps, .codec, .proxy, .feat 0x1A] (fun t => t.Ends sq cid Status.ok 0 ∧ t.m.dev.ctx c.target = none ∧
        (∀ j o, s.m.dev.ctx j = some o → (∃ k, o.kind = .tile c.target k ∨ o.kind = .output c.target k) → t.m.dev.ctx j = none) ∧
        (∀ j o, j ≠ c.target → s.m.dev.ctx j = some o → (∀ k, o.kind ≠ .tile c.target k ∧ o.kind ≠ .output c.target k) →
          t.m.dev.ctx j = some o) ∧
        (x.kind = .capture → t.m.dev.cap x.stream = none))) ∧
    (∀ st, s.m.dev.ctxBusy c.target x = some st →
      Yields (.contextDestroy sq cid) s [.seq, .cqs, .commands, .errorLog, .admission, .fab, .ctxs, .caps, .codec, .proxy, .feat 0x1A] (fun t => t.Ends sq cid Status.admissionDenied 0 ∧
        t.m.dev.ctxs = s.m.dev.ctxs ∧ t.m.dev.caps = s.m.dev.caps))) ∧
  ((∃ f k, x.kind = .tile f k ∨ x.kind = .output f k) →
    Yields (.contextDestroy sq cid) s [.seq, .cqs, .commands, .errorLog, .admission, .fab, .ctxs, .caps, .codec, .proxy, .feat 0x1A] (fun t => t.Ends sq cid Status.invalidField 0 ∧ t.m.dev.ctxs = s.m.dev.ctxs)))

/-- R351, R363, R448, R452, R453: the commands of clips. -/
def Obligations.Clips : Prop := ∀ (s : State) (sq cid : Nat) (c : Cmd), s.m.dev.Shape → Tbl.wf (fun _ => none) s.m.dev.caps = true →
  (∀ x cap id, s.Runs sq cid 0x50 c → s.m.dev.ctx c.target = some x → x.kind = .capture → s.m.dev.cap x.stream = some cap →
    c.dw 0 % 4 ≠ 3 → cap.clip = none →
    (∀ p ∈ choicePorts (c.dw 0 % 4), (s.m.dev.mag p).mounted = true ∧ (s.m.dev.mag p).readOnly = false ∧
      (s.m.dev.mag p).geo.protected_ = false ∧
      s.m.dev.magLow (s.m.dev.withStream x.stream (cap.opened (c.dw 0 % 4, id))) p = false) →
    newClipId (s.m.dev.clipIds (choicePorts (c.dw 0 % 4))) = some id →
    s.m.admission x.stream (cap.opened (c.dw 0 % 4, id)) false true = none →
    Yields (.clipOpen sq cid) s [.seq, .stats, .commands, .errorLog, .admission, .caps, .mags, .carriers, .feat 0x00, .feat 0x1D] (fun t => t.Ends sq cid Status.ok (id % 2 ^ 32) ∧
      t.m.dev.cap x.stream = some (cap.opened (c.dw 0 % 4, id)) ∧
      ∀ p ∈ choicePorts (c.dw 0 % 4), ∃ y ∈ (t.m.dev.mag p).vol.clips, y.id = id ∧ y.stream = x.stream)) ∧
  (∀ x cap k, s.Runs sq cid 0x51 c → s.m.dev.ctx c.target = some x → x.kind = .capture → s.m.dev.cap x.stream = some cap →
    cap.clip = some k → cap.active = false → cap.draining = false →
    Yields (.clipClose sq cid) s [.seq, .stats, .commands, .errorLog, .admission, .bbx, .caps, .mags, .carriers, .feat 0x00, .feat 0x1D] (fun t => t.Ends sq cid Status.ok (cap.passed % 2 ^ 32) ∧
      (t.m.dev.cap x.stream).map (fun y => y.clip) = some none)) ∧
  (∀ p x, s.Runs sq cid 0x52 c → c.target = p → p < 2 → (s.m.dev.mag p).mounted = true →
    (s.m.dev.mag p).vol.clip (c.dw 0 % 65536) = some x → (s.m.dev.mag p).readOnly = false → (s.m.dev.mag p).geo.protected_ = false →
    (x.state = 1 → Yields (.clipDelete sq cid) s [.seq, .stats, .commands, .errorLog, .admission, .mags, .carriers, .feat 0x1D] (fun t => t.Ends sq cid Status.admissionDenied 0 ∧
      (t.m.dev.mag p).vol.clips = (s.m.dev.mag p).vol.clips)) ∧
    (x.state ≠ 1 → s.m.clipInUse p x = false → Yields (.clipDelete sq cid) s [.seq, .stats, .commands, .errorLog, .admission, .mags, .carriers, .feat 0x1D] (fun t => t.Ends sq cid Status.ok 0 ∧
      ∀ y ∈ (t.m.dev.mag p).vol.clips, y.id ≠ x.id)))

/-- R449 to R451: the arming of a capture context, its start and its stop. R538, R174, R175, R267, R268: broadcast starts, and
the recomputation of capacity. -/
def Obligations.CaptureRunsAndCapacity : Prop :=
  (∀ (s : State) (sq cid : Nat) (c : Cmd) (x : Ctx) (cap : Cap),
  Tbl.wf (fun _ => none) s.m.dev.caps = true → s.m.dev.ctx c.target = some x → x.kind = .capture → s.m.dev.cap x.stream = some cap →
  (s.Runs sq cid 0x48 c → s.m.dev.powerMoves = false →
    Yields (.captureArm sq cid) s [.seq, .stats, .commands, .errorLog, .admission, .link, .pools, .caps, .mags] (fun t =>
      match s.m.admission x.stream cap true
          (cap.clip.isSome && !cap.hadRun && !cap.active && !cap.draining && s.m.dev.portReady cap) with
      | none => t.Ends sq cid Status.ok 0 ∧ (t.m.dev.cap x.stream) = some { cap with run := .armed }
      | some _ => t.Ends sq cid Status.admissionDenied 0 ∧ t.m.dev.caps = s.m.dev.caps ∧ t.m.dev.pools = s.m.dev.pools)) ∧
  (s.Runs sq cid 0x49 c → cap.run = .armed → cap.start = none → bit (c.dw 1) 1 = false →
    (s.m.dev.isAhead (c.dw 0) (unitsOfNs 100000) = true →
      Yields (.captureStartAtTick sq cid) s [.seq, .stats, .commands, .errorLog, .admission, .link, .caps] (fun t => t.GoesOn sq cid ∧
        t.m.dev.cap x.stream = some { cap with start := some (c.dw 0, sq, cid) })) ∧
    (s.m.dev.isAhead (c.dw 0) (unitsOfNs 100000) = false → bit (c.dw 1) 0 = false →
      Yields (.captureStartAtTick sq cid) s [.seq, .stats, .commands, .errorLog, .admission, .link, .caps] (fun t =>
        t.Ends sq cid Status.invalidField (s.m.dev.tick.now % 2 ^ 32) ∧ t.m.dev.caps = s.m.dev.caps))) ∧
  (s.Runs sq cid 0x4A c → cap.stop = none →
    (cap.run = .armed → cap.start = none →
      Yields (.captureStopAtTick sq cid) s [.seq, .stats, .commands, .errorLog, .admission, .link, .pools, .caps] (fun t => t.Ends sq cid Status.ok 0xFFFFFFFF ∧
        t.m.dev.cap x.stream = some { cap with run := .idle, start := none })) ∧
    (∀ n, cap.run = .running → cap.draining = false →
      n = (if 1 ≤ s.m.dev.ticksTo (c.dw 0) ∧ s.m.dev.ticksTo (c.dw 0) ≤ 2 ^ 31 then c.dw 0 else (s.m.dev.tick.now + 1) % 2 ^ 32) →
      Yields (.captureStopAtTick sq cid) s [.seq, .stats, .commands, .errorLog, .admission, .link, .pools, .caps] (fun t => t.GoesOn sq cid ∧
        t.m.dev.cap x.stream = some { cap with stop := some (n, sq, cid) })))) ∧
  (∀ (s : State) (p : Nat), s.Live → Tbl.wf (fun _ => none) s.m.dev.caps = true →
  (∀ x r n, takeMsg p 8 s.m.dev.link.inbox = some (x, r) → s.m.dev.boot.role = 2 → s.m.dev.link.enumerated = true → n = rd x.body 0 4 →
    Yields (.start p) s [.stats, .link, .caps] (fun t => t.m.dev.link.inbox = r ∧ ∀ st cap, s.m.dev.cap st = some cap →
      t.m.dev.cap st = some (if s.m.dev.isAhead n (unitsOfNs 100000) = true ∧ cap.run = .armed ∧ cap.start = none
        then { cap with start := some (n, noQueue, 0) } else cap))) ∧
  (∀ x r, takeMsg p 9 s.m.dev.link.inbox = some (x, r) → s.m.dev.boot.role = 1 →
    Yields (.startAck p) s [.link] (fun t => t.m.dev.link.inbox = r ∧ t.m.dev.link.bcast = s.m.dev.link.bcast.map (fun b =>
      if b.token = rd x.body 0 2 ∧ x.at_ + unitsOfNs 100000 ≤ s.m.dev.tickInstant (s.m.dev.ticksTo b.n)
      then { b with acks := b.acks ++ [(x.src, rd x.body 3 2)] } else b))) ∧
  Yields .capacityRecompute s [.seq, .commands, .events, .bbx, .caps] (fun t =>
    (∀ st cap, s.m.dev.cap st = some cap → ∃ y, t.m.dev.cap st = some y ∧ cap.dropJ ≤ y.dropJ ∧
      (y.moved = cap.moved ∨ cap.moved = none ∧ s.m.dev.fallbackBudget st ≠ 0 ∧ y.moved = some s.m.dev.nextTick)) ∧
    ((∀ q, q < 2 → (s.m.dev.mag q).mounted = true → s.m.fits q = true) → t.m.dev.caps = s.m.dev.caps)))

/-- R18, R21, R26, R32, R450, R493, R494, R533: the start of the tick unit, ticks of the schedule and of messages, and TICK_OUT. -/
def Obligations.Ticks : Prop := ∀ (s : State) (k : TickUnit), s.Live → s.m.dev.Shape → s.m.dev.tick = k →
  (s.m.dev.boot.state = .fwStart → k.running = false →
    Yields .tickUnitStart s [.sid, .tick, .feat 0x01] (fun t => t.m.dev.tick.running = true ∧ t.m.dev.tick.begun = false ∧
      t.m.dev.tick.rateN = 24 ∧ t.m.dev.tick.rateD = 1 ∧ t.m.dev.tick.mode = .schedule ∧ t.m.dev.reg 0x01 0x104 = 0x00180001 ∧
      t.m.dev.reg 0x01 0x100 = (if s.m.dev.boot.role = 2 then 3 else 0))) ∧
  (k.running = true → k.mode = .schedule →
    Yields .tick s [.clk, .seq, .stats, .snap, .commands, .events, .errorLog, .logs, .flt, .bbx, .sid, .tick, .link, .pools, .dram, .dma, .power, .caps, .prism, .codec, .seqr, .proxy, .mags, .dramMem, .feat 0x00, .feat 0x10, .feat 0x16, .feat 0x17, .feat 0x1B] (fun t => t.m.dev.clk = (s.m.dev.advanceToSid k.next).clk ∧
      t.m.dev.tick.begun = true ∧ t.m.dev.tick.now = k.nextNo ∧ t.m.dev.tick.prev = k.next ∧ t.m.dev.tick.last = k.next ∧
      t.m.dev.tick.mode = (if s.m.dev.tickSource = 1 then .firstEdge else if s.m.dev.tickSource = 3 then .holdover else .schedule) ∧
      (s.m.dev.tickSource ≠ 1 → s.m.dev.tickSource ≠ 3 → t.m.dev.tick.index = k.index + 1 ∧
        t.m.dev.tick.next = s.m.dev.schedAt (k.index + 1)) ∧
      t.m.dev.tick.outAt = some (t.m.dev.clk + fld (s.m.dev.reg 0x01 0x108) 8 16) ∧
      Tbl.get (fun _ => 0) t.m.dev.snap 0x7004 = word k.nextNo ∧
      Tbl.get (fun _ => 0) t.m.dev.snap 0x7000 = Tbl.get (fun _ => 0) s.m.dev.snap 0x7000 + 1 ∧
      t.m.dev.snapHidden = s.m.dev.snap ∧ (k.begun = true → t.m.dev.prism.sources = []))) ∧
  (∀ st cap sq cid, k.running = true → k.mode = .schedule → Tbl.wf (fun _ => none) s.m.dev.caps = true →
    s.m.dev.cap st = some cap → cap.run = .armed → cap.draining = false → cap.start = some (k.nextNo, sq, cid) →
    (∀ p, p < 2 → (s.m.dev.mag p).mounted = false) →
    Yields .tick s [.clk, .seq, .stats, .snap, .commands, .events, .errorLog, .logs, .flt, .bbx, .sid, .tick, .link, .pools, .dram, .dma, .power, .caps, .prism, .codec, .seqr, .proxy, .mags, .dramMem, .feat 0x00, .feat 0x10, .feat 0x16, .feat 0x17, .feat 0x1B] (fun t => ∃ y, t.m.dev.cap st = some y ∧ y.run = .running ∧ y.first = k.nextNo ∧ y.start = none)) ∧
  (∀ x r, k.running = true → k.mode ≠ .schedule → k.msgs = x :: r → s.m.dev.tickSource = 3 →
    Yields .tick s [.clk, .seq, .stats, .snap, .commands, .events, .errorLog, .logs, .flt, .bbx, .sid, .tick, .link, .pools, .dram, .dma, .power, .caps, .prism, .codec, .seqr, .proxy, .mags, .dramMem, .feat 0x00, .feat 0x10, .feat 0x16, .feat 0x17, .feat 0x1B] (fun t => t.m.dev.clk = (s.m.dev.advanceToSid x.t).clk ∧ t.m.dev.tick.now = x.n ∧
      t.m.dev.tick.prev = x.t ∧ t.m.dev.tick.msgs = r ∧ t.m.dev.tick.rateN = x.rateN ∧ t.m.dev.tick.rateD = x.rateD ∧
      t.m.dev.tick.following = true ∧ t.m.dev.tick.holdover = false)) ∧
  (∀ t0, k.outAt = some t0 →
    Yields .tickOutFall s [.clk, .sid, .tick] (fun t => t.m.dev.tick = { k with outAt := none } ∧
      t.m.dev.clk = max s.m.dev.clk (t0 + 1000 * fld (s.m.dev.reg 0x01 0x108) 24 8)))

/-- R22 to R24: edges of TICK_IN, and substitute ticks. -/
def Obligations.TickEdges : Prop := ∀ (s : State) (k : TickUnit) (dt : Nat) (d : Dev), s.Live → s.m.dev.tick = k → k.running = true →
  k.begun = true → s.m.dev.tickSource = 1 → d = s.m.dev.advance dt →
  (d.bounces = false →
    (k.mode = .edges → d.inWindow d.sdt 999 1001 = .eq →
      Yields (.tickInEdge dt) s [.clk, .seq, .stats, .snap, .commands, .events, .errorLog, .logs, .flt, .bbx, .sid, .tick, .link, .pools, .dram, .dma, .power, .caps, .prism, .codec, .seqr, .proxy, .mags, .dramMem, .feat 0x00, .feat 0x10, .feat 0x16, .feat 0x17, .feat 0x1B] (fun t => t.m.dev.clk = s.m.dev.clk + dt ∧ t.m.dev.tick.now = k.nextNo ∧
        t.m.dev.tick.prev = d.sdt ∧ t.m.dev.tick.mode = .edges ∧ t.m.dev.tick.holdover = false ∧ t.m.dev.tick.acceptedAt = d.clk + 1)) ∧
    (k.mode = .edges → d.inWindow d.sdt 999 1001 = .lt →
      Yields (.tickInEdge dt) s [.clk, .seq, .stats, .snap, .commands, .events, .errorLog, .logs, .flt, .bbx, .sid, .tick, .link, .pools, .dram, .dma, .power, .caps, .prism, .codec, .seqr, .proxy, .mags, .dramMem, .feat 0x00, .feat 0x10, .feat 0x16, .feat 0x17, .feat 0x1B] (fun t => t.m.dev.tick = k ∧ t.m.dev.stat 0x7070 = s.m.dev.stat 0x7070 + 1)) ∧
    (k.mode = .holdover → k.countedAt = 0 →
      Yields (.tickInEdge dt) s [.clk, .seq, .stats, .snap, .commands, .events, .errorLog, .logs, .flt, .bbx, .sid, .tick, .link, .pools, .dram, .dma, .power, .caps, .prism, .codec, .seqr, .proxy, .mags, .dramMem, .feat 0x00, .feat 0x10, .feat 0x16, .feat 0x17, .feat 0x1B] (fun t =>
        t.m.dev.tick = { k with count := 1, countedAt := d.clk + 1, countedSid := d.sdt }))) ∧
  (d.bounces = true → Yields (.tickInEdge dt) s [.clk, .seq, .stats, .snap, .commands, .events, .errorLog, .logs, .flt, .bbx, .sid, .tick, .link, .pools, .dram, .dma, .power, .caps, .prism, .codec, .seqr, .proxy, .mags, .dramMem, .feat 0x00, .feat 0x10, .feat 0x16, .feat 0x17, .feat 0x1B] (fun t => t.m.dev.tick = k ∧ t.m.dev.clk = s.m.dev.clk + dt)) ∧
  (k.mode = .edges → k.holdover = false →
    Yields .substituteTick s [.clk, .seq, .stats, .snap, .commands, .events, .errorLog, .logs, .flt, .bbx, .sid, .tick, .link, .pools, .dram, .dma, .power, .caps, .prism, .codec, .seqr, .proxy, .mags, .dramMem, .feat 0x00, .feat 0x10, .feat 0x16, .feat 0x17, .feat 0x1B] (fun t => t.m.dev.clk = (s.m.dev.advanceToSid (k.prev + k.permille 1001)).clk ∧
      t.m.dev.tick.now = k.nextNo ∧ t.m.dev.tick.prev = k.prev + k.permille 1001 ∧ t.m.dev.tick.mode = .holdover ∧
      t.m.dev.tick.holdover = true ∧ t.m.dev.tick.holdBase = k.prev + k.permille 1001 ∧ t.m.dev.tick.holdK = 1 ∧
      t.m.dev.flt.lastSrc = 480)) ∧
  (k.mode = .holdover → k.holdover = true →
    Yields .substituteTick s [.clk, .seq, .stats, .snap, .commands, .events, .errorLog, .logs, .flt, .bbx, .sid, .tick, .link, .pools, .dram, .dma, .power, .caps, .prism, .codec, .seqr, .proxy, .mags, .dramMem, .feat 0x00, .feat 0x10, .feat 0x16, .feat 0x17, .feat 0x1B] (fun t => t.m.dev.tick.now = k.nextNo ∧ t.m.dev.tick.prev = k.freeNext ∧
      t.m.dev.tick.mode = .holdover ∧ t.m.dev.tick.holdover = true ∧ t.m.dev.tick.holdK = k.holdK + 1))

/-- R531, R533 to R535: tick messages of the manager, and how a worker follows them or ticks on its own. -/
def Obligations.TickMessages : Prop := ∀ (s : State) (k : TickUnit) (p : Nat), s.Live → s.m.dev.Shape → s.m.dev.tick = k → k.running = true →
  (s.m.dev.boot.role = 1 → k.mode = .schedule → k.sent ≠ k.nextNo + 1 →
    Yields .tickBroadcast s [.clk, .stats, .sid, .tick, .link] (fun t => t.m.dev.tick = { k with sent := k.nextNo + 1 } ∧
      t.m.dev.clk = (s.m.dev.advanceToSid (k.next - s.m.dev.tickLead)).clk ∧
      t.m.dev.link = ((s.m.dev.advanceToSid (k.next - s.m.dev.tickLead)).broadcast 6
        (leBytes 4 k.nextNo ++ leBytes 8 k.next ++ leBytes 2 k.rateN ++ leBytes 2 k.rateD)).link)) ∧
  (∀ g r x, s.m.dev.tickSource = 3 → takeMsg p 6 s.m.dev.link.inbox = some (g, r) →
    x = { n := rd g.body 0 4, t := rd g.body 4 8, rateN := rd g.body 12 2, rateD := rd g.body 14 2 } →
    (x.t < g.at_ → Yields (.tickMessage p) s [.seq, .bbx, .tick, .link, .feat 0x22] (fun t => t.m.dev.link.inbox = r ∧ t.m.dev.tick = k ∧
      t.m.dev.reg 0x22 0x80C = word (satAdd32 (s.m.dev.reg 0x22 0x80C).toNat 1))) ∧
    (g.at_ ≤ x.t → k.following = true → k.begun = true → k.msgs = [] → x.n = (k.now + 1) % 2 ^ 32 → x.rateN = k.rateN →
      x.rateD = k.rateD → k.prev + 2 ^ 32 * (999 * x.rateD) / (1000 * max 1 x.rateN) ≤ x.t →
      x.t ≤ k.prev + 2 ^ 32 * (2000 * x.rateD) / (1000 * max 1 x.rateN) →
      Yields (.tickMessage p) s [.seq, .bbx, .tick, .link, .feat 0x22] (fun t => t.m.dev.link.inbox = r ∧ t.m.dev.tick = { k with msgs := [x], next := x.t }))) ∧
  (k.begun = true → s.m.dev.tickSource = 3 → k.msgs = [] →
    (k.mode ≠ .holdover → k.following = true →
      Yields .workerSubstituteTick s [.clk, .seq, .stats, .snap, .commands, .events, .errorLog, .logs, .flt, .bbx, .sid, .tick, .link, .pools, .dram, .dma, .power, .caps, .prism, .codec, .seqr, .proxy, .mags, .dramMem, .feat 0x00, .feat 0x10, .feat 0x16, .feat 0x17, .feat 0x1B] (fun t => t.m.dev.clk = (s.m.dev.advanceToSid (k.prev + k.period)).clk ∧
        t.m.dev.tick.now = k.nextNo ∧ t.m.dev.tick.prev = k.prev + k.period ∧ t.m.dev.tick.mode = .holdover ∧
        t.m.dev.tick.holdover = true ∧ t.m.dev.tick.following = false ∧ t.m.dev.flt.lastSrc = 481)) ∧
    (k.mode = .holdover → k.following = false →
      Yields .workerSubstituteTick s [.clk, .seq, .stats, .snap, .commands, .events, .errorLog, .logs, .flt, .bbx, .sid, .tick, .link, .pools, .dram, .dma, .power, .caps, .prism, .codec, .seqr, .proxy, .mags, .dramMem, .feat 0x00, .feat 0x10, .feat 0x16, .feat 0x17, .feat 0x1B] (fun t => t.m.dev.tick.now = k.nextNo ∧
        t.m.dev.tick.prev = k.freeNext ∧ t.m.dev.tick.holdK = k.holdK + 1 ∧ t.m.dev.tick.holdover = k.holdover)))

/-- R208, R209, R218 to R220, R227 to R229: the developer, and the pictures of the outputs. -/
def Obligations.ProxyPictures : Prop := ∀ s : State, s.Live → s.m.dev.Shape → s.m.dev.proxy.outs.length = 3 →
  s.m.dev.proxy.frames.Pairwise (fun a b => a.stream ≠ b.stream ∨ a.frame ≠ b.frame) →
  (∀ f w tk, s.m.dev.proxy.frames.find? (fun f => !f.whole && !f.skipped) = some f → s.m.dev.work f.stream f.frame = some w →
    (∀ c, s.m.dev.cap f.stream = some c → c.works.Pairwise (fun a b => a.frame ≠ b.frame)) →
    w.readOrder.find? (fun r => !(f.read.any (fun e => decide (e.1 = 1024 * r.1 + r.2)))) = some tk →
    s.m.dev.takesWork 7 = true → (w.band tk.1 tk.2).staged = true → (w.band tk.1 tk.2).hold = true →
    Yields .developBand s [.pools, .caps, .proxy] (fun t =>
      (∀ x, t.m.dev.work f.stream f.frame = some x → (x.band tk.1 tk.2).hold = false) ∧
      (f.outs ≠ [] → ∃ g ∈ t.m.dev.proxy.frames, g.stream = f.stream ∧ g.frame = f.frame ∧
        Tbl.get (fun _ => []) g.read (1024 * tk.1 + tk.2) = s.m.bandPhotos w tk.1 tk.2 ∧
        g.whole = decide (f.read.length + 1 = w.readOrder.length)))) ∧
  (∀ o dt ring flow0 flow1 want sets timing slices d f, o < 2 → d = s.m.dev.advance dt → s.m.dev.nextFor o = some f → f.skipped = false →
    f.whole = true → s.m.dev.takesWork 6 = true → s.m.dev.outOn o = true → s.m.dev.sourceRuns f.stream = true →
    Yields (.hevcPicture o dt ring flow0 flow1 want sets timing slices) s [.clk, .seq, .stats, .commands, .events, .flt, .bbx, .sid, .link, .pools, .proxy, .feat 0x17, .feat 0x1B] (fun t => t.m.dev.clk = s.m.dev.clk + dt ∧
      (t.m.dev.proxy.outs.getD o {}).pictures = (s.m.dev.proxy.outs.getD o {}).pictures + 1 ∧
      t.m.dev.reg 0x17 (outBase o + 0x24) = word (satAdd32 (s.m.dev.reg 0x17 (outBase o + 0x24)).toNat 1) ∧
      (∀ g ∈ t.m.dev.proxy.frames, g.stream = f.stream → g.frame = f.frame → o ∉ g.outs) ∧
      (t.m.dev.proxy.deliveries = s.m.dev.proxy.deliveries ∨ ∃ v, t.m.dev.proxy.deliveries = s.m.dev.proxy.deliveries ++ [v] ∧
        v.out = o ∧ v.frame = f.frame ∧ v.at_ = f.at_ ∧ v.idr = d.nextIdr o ∧
        v.parts = (if d.nextIdr o then sets else []) ++ timing ++ [seiNal f.frame f.stamp] ++ slices ∧
        v.dests = hevcDests (fld (s.m.dev.reg 0x17 (outBase o)) 16 4) ring flow0 flow1))) ∧
  (∀ o dt ring flow0 flow1 want sets timing slices f, o < 2 → s.m.dev.nextFor o = some f → f.skipped = true →
    Yields (.hevcPicture o dt ring flow0 flow1 want sets timing slices) s [.clk, .seq, .stats, .commands, .events, .flt, .bbx, .sid, .link, .pools, .proxy, .feat 0x17, .feat 0x1B] (fun t =>
      t.m.dev.proxy.deliveries = s.m.dev.proxy.deliveries ∧ t.m.dev.proxy.outs = s.m.dev.proxy.outs ∧
      ∀ g ∈ t.m.dev.proxy.frames, g.stream = f.stream → g.frame = f.frame → o ∉ g.outs)) ∧
  (∀ flow0 flow1 f, s.m.dev.nextFor 2 = some f → (f.whole = true ∨ f.skipped = true) → s.m.dev.takesWork 6 = true →
    s.m.dev.outOn 2 = true → s.m.dev.sourceRuns f.stream = true →
    Yields (.monitorPicture flow0 flow1) s [.seq, .stats, .commands, .events, .flt, .bbx, .link, .pools, .proxy, .feat 0x17, .feat 0x1B] (fun t =>
      (t.m.dev.proxy.outs.getD 2 {}).pictures = (s.m.dev.proxy.outs.getD 2 {}).pictures + 1 ∧
      (f.skipped = true → (t.m.dev.proxy.outs.getD 2 {}).last = (s.m.dev.proxy.outs.getD 2 {}).last) ∧
      (t.m.dev.proxy.deliveries = s.m.dev.proxy.deliveries ∨ ∃ v, t.m.dev.proxy.deliveries = s.m.dev.proxy.deliveries ++ [v] ∧
        v.out = 2 ∧ v.frame = f.frame ∧ v.at_ = f.at_ ∧ v.parts = (t.m.dev.proxy.outs.getD 2 {}).last ∧
        v.dests = hevcDests (fld (s.m.dev.reg 0x17 0x180) 14 2) 0 flow0 flow1)))

/-- R279 to R281: the delivery of a unit to one of its destinations. R186, R187, R189, R196, R202, R457: the start of a playback,
and the decoding of its bands. -/
def Obligations.DeliveryAndPlayback : Prop :=
  (∀ (s : State) (k : Nat) (v : Delivery) (x : ProxyDest), s.Live → s.m.dev.Shape →
  s.m.dev.proxy.deliveries.find? (fun v => v.dests.any (fun x => decide (x.code = k))) = some v →
  v.dests.find? (fun x => decide (x.code = k)) = some x → s.m.dev.destHeld v k = false →
  Yields (.multicastDeliver k) s [.stats, .cqs, .eth, .pools, .proxy, .mags, .hostMem, .carriers, .feat 0x17, .feat 0x1D] (fun t => t.m.mem = (s.m.deliver v x).2.mem ∧
    t.m.dev.proxy.deliveries = (modifyFirst (fun v => v.dests.any (fun x => decide (x.code = k)))
      (fun _ => { v with dests := v.dests.erase x }) s.m.dev.proxy.deliveries).filter (fun v => !v.dests.isEmpty) ∧
    (v.out < 2 → t.m.dev.reg 0x17 (outBase v.out + 0x28) = (if (s.m.deliver v x).1 = 0 then s.m.dev.reg 0x17 (outBase v.out + 0x28)
      else word (satAdd32 (s.m.dev.reg 0x17 (outBase v.out + 0x28)).toNat 1))))) ∧
  (∀ s : State, s.m.dev.Shape →
  (∀ sq cid c ctx pl, s.Runs sq cid 0x60 c → s.m.dev.ctx c.target = some ctx → ctx.kind = .playback →
    (∀ k ∈ s.m.dev.host.cmds, k.opcode = 0x60 → k.sq = sq ∧ k.cid = cid) → (∀ p ∈ s.m.dev.codec.plays, p.sq ≠ sq ∨ p.cid ≠ cid) →
    pl = { ctx := c.target, sq := sq, cid := cid } →
    (∀ bytes gaps, c.dw 0 % 4 = 2 → c.dw 3 % 65536 = 1 → (c.dataKind = 1 ∨ c.dataKind = 2) → s.m.playBytes pl c = some (bytes, gaps) →
      Yields (.playbackDecode sq cid) s [.seq, .cqs, .commands, .errorLog, .codec, .hostMem, .feat 0x16] (fun t =>
        match playHead bytes gaps with
        | .error _ => t.Ends sq cid Status.streamDamaged 0 ∧ t.m.dev.codec.plays = s.m.dev.codec.plays
        | .ok h => c.dataLen < h.outBytes ∧ t.Ends sq cid Status.invalidField 0 ∨ h.outBytes ≤ c.dataLen ∧
            ((beginFrame none true bytes gaps h).found.isSome = true → t.GoesOn sq cid ∧
              t.m.dev.codec.plays = s.m.dev.codec.plays ++ [{ pl with cur := some (beginFrame none true bytes gaps h) }]))) ∧
    (c.dw 0 % 4 = 0 → c.dw 3 % 65536 ≠ 0 → (s.m.dev.mag (bits (c.dw 0) 8 1)).mounted = false →
      Yields (.playbackDecode sq cid) s [.seq, .cqs, .commands, .errorLog, .codec, .hostMem, .feat 0x16] (fun t => t.Ends sq cid Status.magNotMounted 0 ∧ t.m.mem = s.m.mem))) ∧
  (∀ e dt pl f r, s.Live → s.m.dev.mirFree e = true → (s.m.dev.mirE e).play = none → (∀ x ∈ s.m.dev.codec.mir, x.play = none) →
    s.m.dev.codec.plays.Pairwise (fun a b => a.sq ≠ b.sq ∨ a.cid ≠ b.cid) → s.m.dev.playWaiting = some (pl, r) → pl.cur = some f →
    Yields (.playbackBand e dt) s [.clk, .seq, .cqs, .commands, .errorLog, .sid, .codec, .hostMem, .feat 0x16] (fun t => t.m.dev.clk = s.m.dev.clk + dt ∧
      t.m.dev.reg 0x16 (0x40 * e + 0x1C) = word (satAdd32 (s.m.dev.reg 0x16 (0x40 * e + 0x1C)).toNat 1) ∧
      ((f.decodeFound pl.kept).found.isSome = true → ∃ p ∈ t.m.dev.codec.plays, p.sq = pl.sq ∧ p.cid = pl.cid ∧
        p.cur = some (f.decodeFound pl.kept)))))

/-- R432, R9: SET_FEATURE of the features whose registers only hold what is written, and GET_FEATURE. -/
def Obligations.FeatureBlocks : Prop := ∀ (s : State) (sq cid : Nat) (c : Cmd) (feat off len : Nat), s.m.dev.Shape →
  feat = c.dw 0 % 256 → off = c.dw 1 → len = c.dataLen → blockLen feat ≠ 0 → off % 4 = 0 → len % 4 = 0 →
  off + len ≤ blockLen feat → s.m.mem.dataOk c len = true →
  (∀ w : FeatWrite, s.Runs sq cid 0x06 c → w = { off := off, data := (wordsOf (s.m.mem.dataIn c len) (len / 4)).map (fun x => x.toNat) } →
    (s.m.dev.refuses (s.m.dev.written feat w) feat w = true →
      Yields (.setFeature sq cid) s (List.append [.seq, .stats, .commands, .events, .errorLog, .admission, .flt, .bbx, .tick, .eth, .shapers, .policers, .link, .dram, .dma, .dmaEvents, .prism, .codec, .seqr, .proxy, .hostMem, .dramMem] ((List.finRange 64).map Part.feat)) (fun t => t.Ends sq cid Status.invalidField 0 ∧ t.m.dev.regs = s.m.dev.regs)) ∧
    (∀ st, s.m.dev.refuses (s.m.dev.written feat w) feat w = false → s.m.dev.deniesWrite (s.m.dev.written feat w) feat w = some st →
      Yields (.setFeature sq cid) s (List.append [.seq, .stats, .commands, .events, .errorLog, .admission, .flt, .bbx, .tick, .eth, .shapers, .policers, .link, .dram, .dma, .dmaEvents, .prism, .codec, .seqr, .proxy, .hostMem, .dramMem] ((List.finRange 64).map Part.feat)) (fun t => t.Ends sq cid Status.admissionDenied 0 ∧ t.m.dev.regs = s.m.dev.regs)) ∧
    (s.m.dev.refuses (s.m.dev.written feat w) feat w = false → s.m.dev.deniesWrite (s.m.dev.written feat w) feat w = none →
      feat ∉ [0x01, 0x10, 0x16, 0x18, 0x19, 0x1F, 0x21, 0x22] →
      Yields (.setFeature sq cid) s (List.append [.seq, .stats, .commands, .events, .errorLog, .admission, .flt, .bbx, .tick, .eth, .shapers, .policers, .link, .dram, .dma, .dmaEvents, .prism, .codec, .seqr, .proxy, .hostMem, .dramMem] ((List.finRange 64).map Part.feat)) (fun t => t.Ends sq cid Status.ok 0 ∧
        (∀ o r, rowAt feat o = some r → w.covers o = true → (r.rw ≠ 0 ∨ r.w1c ≠ 0) →
          t.m.dev.reg feat o = r.merge (s.m.dev.reg feat o) (word (w.val o))) ∧
        (∀ o, o < 2 ^ 20 → w.covers o = false → t.m.dev.reg feat o = s.m.dev.reg feat o)))) ∧
  (s.Runs sq cid 0x07 c → feat ≠ 0x18 →
    Yields (.getFeature sq cid) s (List.append [.seq, .commands, .errorLog, .hostMem] ((List.finRange 64).map Part.feat)) (fun t => t.Ends sq cid Status.ok 0 ∧
      t.m.mem = s.m.mem.dataOut c ((List.range (len / 4)).map (fun i => leBytes 4 (s.m.featWord feat (off + 4 * i)).toNat)).flatten ∧
      (∀ i r, i < len / 4 → rowAt feat (off + 4 * i) = some r → r.rc = true → t.m.dev.reg feat (off + 4 * i) = 0) ∧
      (∀ o r, rowAt feat o = some r → r.rc = false → t.m.dev.reg feat o = s.m.dev.reg feat o)))

/-- R461: ABORT of a command that has not started, of an outstanding ASYNC_EVENT_REQUEST, and of one that is not in flight. R431,
R433: IDENTIFY and GET_LOG. -/
def Obligations.AbortsAndLogs : Prop :=
  (∀ (s : State) (sq cid : Nat) (c : Cmd), s.Runs sq cid 0x09 c → (s.m.dev.sq c.target).isSome = true →
  (∀ k, s.m.dev.cmd c.target (c.dw 0 % 65536) = some k → k.opcode ≠ 0x09 → (k.phase = .fetched ∨ k.phase = .started) →
    Yields (.abort sq cid) s [.seq, .stats, .commands, .events, .errorLog, .flt, .bbx, .link, .dram, .dma, .power, .caps, .codec, .hostMem, .dramMem, .feat 0x1E, .feat 0x1F] (fun t => t.Ends sq cid Status.ok 0 ∧ t.Ends c.target (c.dw 0 % 65536) Status.aborted 0)) ∧
  (∀ k, s.m.dev.cmd c.target (c.dw 0 % 65536) = some k → k.opcode = 0x08 → k.phase = .running →
    Yields (.abort sq cid) s [.seq, .stats, .commands, .events, .errorLog, .flt, .bbx, .link, .dram, .dma, .power, .caps, .codec, .hostMem, .dramMem, .feat 0x1E, .feat 0x1F] (fun t => t.Ends sq cid Status.ok 0 ∧ t.Ends c.target (c.dw 0 % 65536) Status.aborted 0 ∧
      t.m.dev.host.aer = s.m.dev.host.aer.filter (fun x => decide (x ≠ c.dw 0 % 65536)))) ∧
  (s.m.dev.cmd c.target (c.dw 0 % 65536) = none →
    Yields (.abort sq cid) s [.seq, .stats, .commands, .events, .errorLog, .flt, .bbx, .link, .dram, .dma, .power, .caps, .codec, .hostMem, .dramMem, .feat 0x1E, .feat 0x1F] (fun t => t.Ends sq cid Status.alreadyComplete 0))) ∧
  (∀ (s : State) (sq cid : Nat) (c : Cmd),
  (s.Runs sq cid 0x00 c → 4096 ≤ c.dataLen → s.m.mem.dataOk c 4096 = true →
    Yields (.identify sq cid) s [.seq, .commands, .errorLog, .hostMem] (fun t => t.Ends sq cid Status.ok 0 ∧ t.m.mem = s.m.mem.dataOut c s.m.identity)) ∧
  (∀ recs lost disc, s.Runs sq cid 0x05 c → s.m.logPage (c.dw 0 % 256) = some (recs, lost, disc) → c.dw 1 % 64 = 0 →
    s.m.mem.dataOk c c.dataLen = true →
    Yields (.getLog sq cid) s [.seq, .commands, .events, .errorLog, .logs, .hostMem] (fun t => t.Ends sq cid Status.ok 0 ∧ t.m.mem = s.m.mem.dataOut c
      (slice (leBytes 4 recs.length ++ leBytes 4 (min lost 0xFFFFFFFF) ++ leBytes 4 (min disc 0xFFFFFFFF) ++ zeros 4 ++ s.m.dev.stamp ++
        zeros 32 ++ recs.flatten) (c.dw 1) c.dataLen))) ∧
  (s.Runs sq cid 0x05 c → s.m.logPage (c.dw 0 % 256) = none →
    Yields (.getLog sq cid) s [.seq, .commands, .events, .errorLog, .logs, .hostMem] (fun t => t.Ends sq cid Status.invalidField 0 ∧ t.m.mem = s.m.mem)))

/-- R374, R435, R436: FW_LOAD, and the three actions of FW_COMMIT. -/
def Obligations.Firmware : Prop := ∀ (s : State) (sq cid : Nat) (c : Cmd),
  (s.Runs sq cid 0x10 c → 4 ≤ c.dataLen → c.dataLen ≤ 4194304 → c.dw 0 + c.dataLen ≤ 33554369 → s.m.mem.dataOk c c.dataLen = true →
    Yields (.fwLoad sq cid) s [.seq, .staged, .commands, .errorLog] (fun t => t.Ends sq cid Status.ok 0 ∧ t.m.dev.staged = some (writeBytes byteZero
      (if bit (c.dw 1) 0 then [] else s.m.dev.staged.getD []) (c.dw 0) (s.m.mem.dataIn c c.dataLen)))) ∧
  (∀ rb img, s.Runs sq cid 0x11 c → c.dw 0 % 4 = 0 → s.m.dev.stagedImage = some img →
    Yields (.write sq cid rb) s [.seq, .staged, .commands, .errorLog, .nor] (fun t =>
      match checkImage s.m.dev.otp s.m.dev.boot.role img with
      | .good _ _ => t.m.dev.staged = none ∧ (rb = true → t.Ends sq cid Status.ok 0 ∧
          t.m.mem.nor = writeBytes byteOnes s.m.mem.nor (if bit (c.dw 0) 8 then Image.b.norBase else Image.a.norBase) img)
      | .bad cause => t.m.mem = s.m.mem ∧ t.m.dev.staged = s.m.dev.staged ∧
          t.Ends sq cid (if cause = 2 then Status.signatureBad else if cause = 3 then Status.rollbackRefused else Status.invalidField) 0)) ∧
  (∀ img, s.Runs sq cid 0x11 c → c.dw 0 % 4 = 1 → s.m.dev.stagedImage = some img →
    (s.m.dev.anyCapture = false → Yields (.writeAndActivate sq cid true) s [.seq, .boot, .staged, .commands, .errorLog, .admission, .nor] (fun t =>
      match checkImage s.m.dev.otp s.m.dev.boot.role img with
      | .good _ _ => t.Ends sq cid Status.ok 0 ∧ t.m.dev.boot.resetDue = some (.activate, 10000000 + s.m.dev.clk)
      | .bad _ => t.m.dev.boot = s.m.dev.boot ∧ t.m.mem = s.m.mem)) ∧
    (s.m.dev.anyCapture = true → Yields (.writeAndActivate sq cid true) s [.seq, .boot, .staged, .commands, .errorLog, .admission, .nor] (fun t =>
      t.Ends sq cid Status.admissionDenied 0 ∧ t.m.mem = s.m.mem ∧ t.m.dev.staged = s.m.dev.staged))) ∧
  (s.Runs sq cid 0x11 c → c.dw 0 % 4 = 2 → s.m.dev.boot.state ≠ .twilight →
    (s.m.dev.otp.floor < s.m.dev.boot.secVersion →
      Yields (.raiseFloor sq cid) s [.seq, .otp, .staged, .commands, .errorLog] (fun t => t.Ends sq cid Status.ok 0 ∧
        t.m.dev.otp = { s.m.dev.otp with floor := s.m.dev.boot.secVersion } ∧ t.m.dev.staged = none)) ∧
    (s.m.dev.boot.secVersion ≤ s.m.dev.otp.floor →
      Yields (.raiseFloor sq cid) s [.seq, .otp, .staged, .commands, .errorLog] (fun t => t.Ends sq cid Status.invalidField 0 ∧ t.m.dev.otp = s.m.dev.otp)))

/-- R19: TCK_SOURCE by the strapped role. -/
def Obligations.TickSourceByRole : Prop := ∀ (s : State) (sq cid : Nat) (c : Cmd) (v : Nat), s.Runs sq cid 0x06 c → s.m.dev.Shape →
  c.dw 0 % 256 = 0x01 → c.dw 1 = 0x100 → c.dataLen = 4 → s.m.mem.dataOk c 4 = true → v = leNat (s.m.mem.dataIn c 4) →
  (s.m.dev.boot.role = 2 → v % 8 ≠ 3 →
    Yields (.setFeature sq cid) s (List.append [.seq, .stats, .commands, .events, .errorLog, .admission, .flt, .bbx, .tick, .eth, .shapers, .policers, .link, .dram, .dma, .dmaEvents, .prism, .codec, .seqr, .proxy, .hostMem, .dramMem] ((List.finRange 64).map Part.feat)) (fun t => t.Ends sq cid Status.invalidField 0 ∧ t.m.dev.regs = s.m.dev.regs)) ∧
  (s.m.dev.boot.role ≠ 2 → v % 8 = 3 →
    Yields (.setFeature sq cid) s (List.append [.seq, .stats, .commands, .events, .errorLog, .admission, .flt, .bbx, .tick, .eth, .shapers, .policers, .link, .dram, .dma, .dmaEvents, .prism, .codec, .seqr, .proxy, .hostMem, .dramMem] ((List.finRange 64).map Part.feat)) (fun t => t.Ends sq cid Status.invalidField 0 ∧ t.m.dev.regs = s.m.dev.regs)) ∧
  (s.m.dev.anyCapture = false → (s.m.dev.boot.role = 1 → ∀ x ∈ s.m.dev.link.workers, x.armed = 0) →
    (if s.m.dev.boot.role = 2 then v % 8 = 3 else v % 8 = 0 ∨ v % 8 = 1 ∨ v % 8 = 2 ∧ (s.m.dev.discipline = 1 ∨ s.m.dev.discipline = 2)) →
    Yields (.setFeature sq cid) s (List.append [.seq, .stats, .commands, .events, .errorLog, .admission, .flt, .bbx, .tick, .eth, .shapers, .policers, .link, .dram, .dma, .dmaEvents, .prism, .codec, .seqr, .proxy, .hostMem, .dramMem] ((List.finRange 64).map Part.feat)) (fun t => t.Ends sq cid Status.ok 0 ∧ t.m.dev.tickSource = v % 8))

/-- R441: BLACKBOX_READ. -/
def Obligations.BlackboxReads : Prop := ∀ (s : State) (sq cid : Nat) (c : Cmd) (ecc : List (Nat × Bool)), s.Runs sq cid 0x21 c →
  (c.dw 0 ≤ 131071 → 0 < c.dw 1 → c.dw 0 + c.dw 1 ≤ 131072 → 64 * c.dw 1 ≤ c.dataLen →
    s.m.mem.dataOk c (64 * c.dw 1) = true → (ecc = [] ∨ s.m.dev.host.aer = []) →
    Yields (.blackboxRead sq cid ecc) s [.seq, .stats, .commands, .events, .errorLog, .flt, .bbx, .link, .hostMem] (fun t => t.Ends sq cid Status.ok 0 ∧
      t.m.mem = s.m.mem.dataOut c (s.m.mem.entries (c.dw 0) (c.dw 1)))) ∧
  ((131071 < c.dw 0 ∨ c.dw 1 = 0 ∨ 131072 < c.dw 0 + c.dw 1) →
    Yields (.blackboxRead sq cid ecc) s [.seq, .stats, .commands, .events, .errorLog, .flt, .bbx, .link, .hostMem] (fun t => t.Ends sq cid Status.invalidField 0 ∧ t.m.mem = s.m.mem))
end

