-- ==== Sys2Proof/Laws/Sparse.lean ====
section
/-! SUPPORT. Sparse tables: a read after a write, and that every operation keeps the canonical form. -/

namespace Sys2Proof.Machine
open Sys2Proof

section
variable {α : Type} (d : Nat → α)

/-- A read of a key below every listed one gives the default. -/
theorem Tbl.get_of_below [DecidableEq α] {t : Tbl α} {lo k : Nat} (h : Tbl.wfFrom d lo t = true) (hk : k < lo) :
    Tbl.get d t k = d k := by
  induction t generalizing lo with
  | nil => rfl
  | cons e r ih =>
    obtain ⟨a, v⟩ := e
    simp only [Tbl.wfFrom, Bool.and_eq_true, decide_eq_true_eq] at h
    have : a ≠ k := by omega
    simp only [Tbl.get, this, if_false]
    exact ih h.2 (by omega)

/-- A listed form from a higher key on is one from a lower key on. -/
theorem Tbl.wfFrom_mono [DecidableEq α] {t : Tbl α} {lo lo' : Nat} (h : Tbl.wfFrom d lo t = true) (hl : lo' ≤ lo) :
    Tbl.wfFrom d lo' t = true := by
  cases t with
  | nil => rfl
  | cons e r =>
    obtain ⟨a, v⟩ := e
    simp only [Tbl.wfFrom, Bool.and_eq_true, decide_eq_true_eq] at h ⊢
    exact ⟨⟨by omega, h.1.2⟩, h.2⟩

/-- A read after an insertion. -/
theorem Tbl.get_ins (t : Tbl α) (k j : Nat) (v : α) :
    Tbl.get d (Tbl.ins t k v) j = if j = k then v else Tbl.get d t j := by
  induction t with
  | nil => simp only [Tbl.ins, Tbl.get, eq_comm]
  | cons e r ih =>
    obtain ⟨a, w⟩ := e
    simp only [Tbl.ins]
    split
    · rename_i h
      simp only [Tbl.get, eq_comm (a := j)]
    · split
      · rename_i h1 h2
        subst h2
        by_cases hj : j = k
        · simp only [Tbl.get, hj, if_true]
        · simp only [Tbl.get, hj, Ne.symm hj, if_false]
      · simp only [Tbl.get, ih]
        by_cases hj : j = k
        · subst hj
          have : a ≠ j := by omega
          simp only [this, if_false, if_true]
        · simp only [hj, if_false]

/-- A read after a deletion from a canonical table. -/
theorem Tbl.get_del [DecidableEq α] {t : Tbl α} {lo : Nat} (h : Tbl.wfFrom d lo t = true) (k j : Nat) :
    Tbl.get d (Tbl.del t k) j = if j = k then d k else Tbl.get d t j := by
  induction t generalizing lo with
  | nil => simp only [Tbl.del, Tbl.get]; split <;> simp only [*]
  | cons e r ih =>
    obtain ⟨a, w⟩ := e
    simp only [Tbl.wfFrom, Bool.and_eq_true, decide_eq_true_eq] at h
    simp only [Tbl.del]
    split
    · rename_i hk
      subst hk
      by_cases hj : j = a
      · subst hj
        simp only [if_true]
        exact Tbl.get_of_below d h.2 (Nat.lt_succ_self _)
      · simp only [Tbl.get, hj, Ne.symm hj, if_false]
    · rename_i hk
      simp only [Tbl.get, ih h.2]
      by_cases hj : j = k
      · subst hj
        simp only [hk, if_false, if_true]
      · simp only [hj, if_false]

/-- A deletion from any table leaves every other key. -/
theorem Tbl.get_del_of_ne (t : Tbl α) {k j : Nat} (hj : j ≠ k) : Tbl.get d (Tbl.del t k) j = Tbl.get d t j := by
  induction t with
  | nil => rfl
  | cons e r ih =>
    obtain ⟨a, w⟩ := e
    simp only [Tbl.del]
    split
    · rename_i hk
      subst hk
      simp only [Tbl.get, Ne.symm hj, if_false]
    · simp only [Tbl.get, ih]

/-- A write leaves every other key, whatever the table. -/
theorem Tbl.get_set_of_ne [DecidableEq α] (t : Tbl α) {k j : Nat} (v : α) (hj : j ≠ k) :
    Tbl.get d (Tbl.set d t k v) j = Tbl.get d t j := by
  unfold Tbl.set
  split
  · exact Tbl.get_del_of_ne d t hj
  · rw [Tbl.get_ins, if_neg hj]

/-- A read after a write to a canonical table. -/
theorem Tbl.get_set [DecidableEq α] {t : Tbl α} (h : Tbl.wf d t = true) (k j : Nat) (v : α) :
    Tbl.get d (Tbl.set d t k v) j = if j = k then v else Tbl.get d t j := by
  unfold Tbl.set
  split
  · rename_i hv
    rw [Tbl.get_del d h, hv]
  · exact Tbl.get_ins d t k j v

/-- An insertion of a value that is no default keeps the canonical form. -/
theorem Tbl.wfFrom_ins [DecidableEq α] {t : Tbl α} {lo k : Nat} {v : α} (h : Tbl.wfFrom d lo t = true) (hk : lo ≤ k)
    (hv : v ≠ d k) : Tbl.wfFrom d lo (Tbl.ins t k v) = true := by
  induction t generalizing lo with
  | nil => simp only [Tbl.ins, Tbl.wfFrom, Bool.and_eq_true, decide_eq_true_eq]; exact ⟨⟨hk, hv⟩, trivial⟩
  | cons e r ih =>
    obtain ⟨a, w⟩ := e
    simp only [Tbl.wfFrom, Bool.and_eq_true, decide_eq_true_eq] at h
    simp only [Tbl.ins]
    split
    · rename_i hlt
      simp only [Tbl.wfFrom, Bool.and_eq_true, decide_eq_true_eq]
      exact ⟨⟨hk, hv⟩, ⟨by omega, h.1.2⟩, h.2⟩
    · split
      · rename_i heq
        subst heq
        simp only [Tbl.wfFrom, Bool.and_eq_true, decide_eq_true_eq]
        exact ⟨⟨hk, hv⟩, h.2⟩
      · simp only [Tbl.wfFrom, Bool.and_eq_true, decide_eq_true_eq]
        exact ⟨h.1, ih h.2 (by omega)⟩

/-- A deletion keeps the canonical form. -/
theorem Tbl.wfFrom_del [DecidableEq α] {t : Tbl α} {lo : Nat} (k : Nat) (h : Tbl.wfFrom d lo t = true) :
    Tbl.wfFrom d lo (Tbl.del t k) = true := by
  induction t generalizing lo with
  | nil => rfl
  | cons e r ih =>
    obtain ⟨a, w⟩ := e
    simp only [Tbl.wfFrom, Bool.and_eq_true, decide_eq_true_eq] at h
    simp only [Tbl.del]
    split
    · exact Tbl.wfFrom_mono d h.2 (by omega)
    · simp only [Tbl.wfFrom, Bool.and_eq_true, decide_eq_true_eq]
      exact ⟨h.1, ih h.2⟩

/-- A write keeps the canonical form. -/
theorem Tbl.wf_set [DecidableEq α] {t : Tbl α} (h : Tbl.wf d t = true) (k : Nat) (v : α) :
    Tbl.wf d (Tbl.set d t k v) = true := by
  unfold Tbl.set
  split
  · exact Tbl.wfFrom_del d k h
  · rename_i hv
    exact Tbl.wfFrom_ins d h (Nat.zero_le _) hv

/-- Dropping entries keeps the canonical form. -/
theorem Tbl.wfFrom_filter [DecidableEq α] {t : Tbl α} {lo : Nat} (p : Nat × α → Bool) (h : Tbl.wfFrom d lo t = true) :
    Tbl.wfFrom d lo (t.filter p) = true := by
  induction t generalizing lo with
  | nil => rfl
  | cons e r ih =>
    obtain ⟨a, w⟩ := e
    simp only [Tbl.wfFrom, Bool.and_eq_true, decide_eq_true_eq] at h
    rw [List.filter_cons]
    split
    · simp only [Tbl.wfFrom, Bool.and_eq_true, decide_eq_true_eq]
      exact ⟨h.1, ih h.2⟩
    · exact Tbl.wfFrom_mono d (ih h.2) (by omega)

theorem Tbl.wfFrom_drop [DecidableEq α] {t : Tbl α} {lo : Nat} (p : Nat → Bool) (h : Tbl.wfFrom d lo t = true) :
    Tbl.wfFrom d lo (Tbl.drop p t) = true := Tbl.wfFrom_filter d _ h

end

/-- A byte string written keeps the canonical form. -/
theorem writeBytes_wf (dflt : Nat → Byte) (l : List Byte) (t : List Host.Cell) (a : Nat) (h : Tbl.wf dflt t = true) :
    Tbl.wf dflt (writeBytes dflt t a l) = true := by
  induction l generalizing t a with
  | nil => exact h
  | cons b r ih => exact ih _ _ (Tbl.wf_set dflt h a b)

/-- A byte string written leaves every address outside it. -/
theorem writeBytes_get_of_outside (dflt : Nat → Byte) (l : List Byte) (t : List Host.Cell) (a x : Nat)
    (h : x < a ∨ a + l.length ≤ x) : Tbl.get dflt (writeBytes dflt t a l) x = Tbl.get dflt t x := by
  induction l generalizing t a with
  | nil => rfl
  | cons b r ih =>
    simp only [List.length_cons] at h
    rw [writeBytes, ih _ _ (by omega)]
    exact Tbl.get_set_of_ne dflt t b (by omega)

/-- A byte string written reads back. -/
theorem readBytes_writeBytes (dflt : Nat → Byte) (l : List Byte) (t : List Host.Cell) (a : Nat) (h : Tbl.wf dflt t = true) :
    readBytes dflt (writeBytes dflt t a l) a l.length = l := by
  induction l generalizing t a with
  | nil => rfl
  | cons b r ih =>
    have hb : Tbl.get dflt (writeBytes dflt t a (b :: r)) a = b := by
      rw [writeBytes, writeBytes_get_of_outside dflt r _ (a + 1) a (by omega), Tbl.get_set dflt h, if_pos rfl]
    rw [List.length_cons, readBytes, hb, writeBytes, ih _ _ (Tbl.wf_set dflt h a b)]

end Sys2Proof.Machine
end

