-- ==== Sys2Proof/Laws/State.lean ====
section
/-! SUPPORT. What each update of the device reads back as, field by field, so that no proof unfolds one. -/

namespace Sys2Proof.Machine
open Sys2Proof

/-- `onHost` and every field of the device. -/
@[simp] theorem Dev.onHost_fields (d : Dev) (f : HostIf → HostIf) :
    (d.onHost f).host = f d.host ∧ (d.onHost f).clk = d.clk ∧ (d.onHost f).free = d.free ∧ (d.onHost f).undef = d.undef ∧
    (d.onHost f).off = d.off ∧ (d.onHost f).seq = d.seq ∧ (d.onHost f).regs = d.regs ∧ (d.onHost f).stats = d.stats ∧
    (d.onHost f).snap = d.snap ∧ (d.onHost f).snapHidden = d.snapHidden ∧ (d.onHost f).boot = d.boot ∧ (d.onHost f).otp = d.otp ∧
    (d.onHost f).staged = d.staged ∧ (d.onHost f).flt = d.flt ∧ (d.onHost f).intr = d.intr ∧ (d.onHost f).twk = d.twk ∧
    (d.onHost f).bbx = d.bbx ∧ (d.onHost f).sid = d.sid ∧ (d.onHost f).tick = d.tick ∧ (d.onHost f).eth = d.eth ∧
    (d.onHost f).refillAt = d.refillAt ∧ (d.onHost f).shapers = d.shapers ∧ (d.onHost f).policers = d.policers ∧
    (d.onHost f).link = d.link ∧ (d.onHost f).fab = d.fab ∧ (d.onHost f).pools = d.pools ∧ (d.onHost f).dram = d.dram ∧
    (d.onHost f).wports = d.wports ∧ (d.onHost f).dma = d.dma ∧ (d.onHost f).dmaEvents = d.dmaEvents ∧ (d.onHost f).power = d.power ∧
    (d.onHost f).pins = d.pins ∧ (d.onHost f).ctxs = d.ctxs ∧ (d.onHost f).caps = d.caps ∧ (d.onHost f).prism = d.prism ∧
    (d.onHost f).codec = d.codec ∧ (d.onHost f).seqr = d.seqr ∧ (d.onHost f).proxy = d.proxy ∧ (d.onHost f).mags = d.mags ∧
    (d.onHost f).sent = d.sent :=
  ⟨rfl, rfl, rfl, rfl, rfl, rfl, rfl, rfl, rfl, rfl, rfl, rfl, rfl, rfl, rfl, rfl, rfl, rfl, rfl, rfl, rfl, rfl, rfl, rfl, rfl, rfl, rfl, rfl, rfl, rfl, rfl, rfl, rfl, rfl, rfl, rfl, rfl, rfl, rfl, rfl⟩

/-- `onBoot` and every field of the device. -/
@[simp] theorem Dev.onBoot_fields (d : Dev) (f : Boot → Boot) :
    (d.onBoot f).boot = f d.boot ∧ (d.onBoot f).clk = d.clk ∧ (d.onBoot f).free = d.free ∧ (d.onBoot f).undef = d.undef ∧
    (d.onBoot f).off = d.off ∧ (d.onBoot f).seq = d.seq ∧ (d.onBoot f).regs = d.regs ∧ (d.onBoot f).stats = d.stats ∧
    (d.onBoot f).snap = d.snap ∧ (d.onBoot f).snapHidden = d.snapHidden ∧ (d.onBoot f).otp = d.otp ∧ (d.onBoot f).staged = d.staged ∧
    (d.onBoot f).host = d.host ∧ (d.onBoot f).flt = d.flt ∧ (d.onBoot f).intr = d.intr ∧ (d.onBoot f).twk = d.twk ∧
    (d.onBoot f).bbx = d.bbx ∧ (d.onBoot f).sid = d.sid ∧ (d.onBoot f).tick = d.tick ∧ (d.onBoot f).eth = d.eth ∧
    (d.onBoot f).refillAt = d.refillAt ∧ (d.onBoot f).shapers = d.shapers ∧ (d.onBoot f).policers = d.policers ∧
    (d.onBoot f).link = d.link ∧ (d.onBoot f).fab = d.fab ∧ (d.onBoot f).pools = d.pools ∧ (d.onBoot f).dram = d.dram ∧
    (d.onBoot f).wports = d.wports ∧ (d.onBoot f).dma = d.dma ∧ (d.onBoot f).dmaEvents = d.dmaEvents ∧ (d.onBoot f).power = d.power ∧
    (d.onBoot f).pins = d.pins ∧ (d.onBoot f).ctxs = d.ctxs ∧ (d.onBoot f).caps = d.caps ∧ (d.onBoot f).prism = d.prism ∧
    (d.onBoot f).codec = d.codec ∧ (d.onBoot f).seqr = d.seqr ∧ (d.onBoot f).proxy = d.proxy ∧ (d.onBoot f).mags = d.mags ∧
    (d.onBoot f).sent = d.sent :=
  ⟨rfl, rfl, rfl, rfl, rfl, rfl, rfl, rfl, rfl, rfl, rfl, rfl, rfl, rfl, rfl, rfl, rfl, rfl, rfl, rfl, rfl, rfl, rfl, rfl, rfl, rfl, rfl, rfl, rfl, rfl, rfl, rfl, rfl, rfl, rfl, rfl, rfl, rfl, rfl, rfl⟩

/-- `onFlt` and every field of the device. -/
@[simp] theorem Dev.onFlt_fields (d : Dev) (f : Flt → Flt) :
    (d.onFlt f).flt = f d.flt ∧ (d.onFlt f).clk = d.clk ∧ (d.onFlt f).free = d.free ∧ (d.onFlt f).undef = d.undef ∧
    (d.onFlt f).off = d.off ∧ (d.onFlt f).seq = d.seq ∧ (d.onFlt f).regs = d.regs ∧ (d.onFlt f).stats = d.stats ∧
    (d.onFlt f).snap = d.snap ∧ (d.onFlt f).snapHidden = d.snapHidden ∧ (d.onFlt f).boot = d.boot ∧ (d.onFlt f).otp = d.otp ∧
    (d.onFlt f).staged = d.staged ∧ (d.onFlt f).host = d.host ∧ (d.onFlt f).intr = d.intr ∧ (d.onFlt f).twk = d.twk ∧
    (d.onFlt f).bbx = d.bbx ∧ (d.onFlt f).sid = d.sid ∧ (d.onFlt f).tick = d.tick ∧ (d.onFlt f).eth = d.eth ∧
    (d.onFlt f).refillAt = d.refillAt ∧ (d.onFlt f).shapers = d.shapers ∧ (d.onFlt f).policers = d.policers ∧ (d.onFlt f).link = d.link ∧
    (d.onFlt f).fab = d.fab ∧ (d.onFlt f).pools = d.pools ∧ (d.onFlt f).dram = d.dram ∧ (d.onFlt f).wports = d.wports ∧
    (d.onFlt f).dma = d.dma ∧ (d.onFlt f).dmaEvents = d.dmaEvents ∧ (d.onFlt f).power = d.power ∧ (d.onFlt f).pins = d.pins ∧
    (d.onFlt f).ctxs = d.ctxs ∧ (d.onFlt f).caps = d.caps ∧ (d.onFlt f).prism = d.prism ∧ (d.onFlt f).codec = d.codec ∧
    (d.onFlt f).seqr = d.seqr ∧ (d.onFlt f).proxy = d.proxy ∧ (d.onFlt f).mags = d.mags ∧ (d.onFlt f).sent = d.sent :=
  ⟨rfl, rfl, rfl, rfl, rfl, rfl, rfl, rfl, rfl, rfl, rfl, rfl, rfl, rfl, rfl, rfl, rfl, rfl, rfl, rfl, rfl, rfl, rfl, rfl, rfl, rfl, rfl, rfl, rfl, rfl, rfl, rfl, rfl, rfl, rfl, rfl, rfl, rfl, rfl, rfl⟩

/-- `onIntr` and every field of the device. -/
@[simp] theorem Dev.onIntr_fields (d : Dev) (f : Intr → Intr) :
    (d.onIntr f).intr = f d.intr ∧ (d.onIntr f).clk = d.clk ∧ (d.onIntr f).free = d.free ∧ (d.onIntr f).undef = d.undef ∧
    (d.onIntr f).off = d.off ∧ (d.onIntr f).seq = d.seq ∧ (d.onIntr f).regs = d.regs ∧ (d.onIntr f).stats = d.stats ∧
    (d.onIntr f).snap = d.snap ∧ (d.onIntr f).snapHidden = d.snapHidden ∧ (d.onIntr f).boot = d.boot ∧ (d.onIntr f).otp = d.otp ∧
    (d.onIntr f).staged = d.staged ∧ (d.onIntr f).host = d.host ∧ (d.onIntr f).flt = d.flt ∧ (d.onIntr f).twk = d.twk ∧
    (d.onIntr f).bbx = d.bbx ∧ (d.onIntr f).sid = d.sid ∧ (d.onIntr f).tick = d.tick ∧ (d.onIntr f).eth = d.eth ∧
    (d.onIntr f).refillAt = d.refillAt ∧ (d.onIntr f).shapers = d.shapers ∧ (d.onIntr f).policers = d.policers ∧
    (d.onIntr f).link = d.link ∧ (d.onIntr f).fab = d.fab ∧ (d.onIntr f).pools = d.pools ∧ (d.onIntr f).dram = d.dram ∧
    (d.onIntr f).wports = d.wports ∧ (d.onIntr f).dma = d.dma ∧ (d.onIntr f).dmaEvents = d.dmaEvents ∧ (d.onIntr f).power = d.power ∧
    (d.onIntr f).pins = d.pins ∧ (d.onIntr f).ctxs = d.ctxs ∧ (d.onIntr f).caps = d.caps ∧ (d.onIntr f).prism = d.prism ∧
    (d.onIntr f).codec = d.codec ∧ (d.onIntr f).seqr = d.seqr ∧ (d.onIntr f).proxy = d.proxy ∧ (d.onIntr f).mags = d.mags ∧
    (d.onIntr f).sent = d.sent :=
  ⟨rfl, rfl, rfl, rfl, rfl, rfl, rfl, rfl, rfl, rfl, rfl, rfl, rfl, rfl, rfl, rfl, rfl, rfl, rfl, rfl, rfl, rfl, rfl, rfl, rfl, rfl, rfl, rfl, rfl, rfl, rfl, rfl, rfl, rfl, rfl, rfl, rfl, rfl, rfl, rfl⟩

/-- `onTwk` and every field of the device. -/
@[simp] theorem Dev.onTwk_fields (d : Dev) (f : Twinkle → Twinkle) :
    (d.onTwk f).twk = f d.twk ∧ (d.onTwk f).clk = d.clk ∧ (d.onTwk f).free = d.free ∧ (d.onTwk f).undef = d.undef ∧
    (d.onTwk f).off = d.off ∧ (d.onTwk f).seq = d.seq ∧ (d.onTwk f).regs = d.regs ∧ (d.onTwk f).stats = d.stats ∧
    (d.onTwk f).snap = d.snap ∧ (d.onTwk f).snapHidden = d.snapHidden ∧ (d.onTwk f).boot = d.boot ∧ (d.onTwk f).otp = d.otp ∧
    (d.onTwk f).staged = d.staged ∧ (d.onTwk f).host = d.host ∧ (d.onTwk f).flt = d.flt ∧ (d.onTwk f).intr = d.intr ∧
    (d.onTwk f).bbx = d.bbx ∧ (d.onTwk f).sid = d.sid ∧ (d.onTwk f).tick = d.tick ∧ (d.onTwk f).eth = d.eth ∧
    (d.onTwk f).refillAt = d.refillAt ∧ (d.onTwk f).shapers = d.shapers ∧ (d.onTwk f).policers = d.policers ∧ (d.onTwk f).link = d.link ∧
    (d.onTwk f).fab = d.fab ∧ (d.onTwk f).pools = d.pools ∧ (d.onTwk f).dram = d.dram ∧ (d.onTwk f).wports = d.wports ∧
    (d.onTwk f).dma = d.dma ∧ (d.onTwk f).dmaEvents = d.dmaEvents ∧ (d.onTwk f).power = d.power ∧ (d.onTwk f).pins = d.pins ∧
    (d.onTwk f).ctxs = d.ctxs ∧ (d.onTwk f).caps = d.caps ∧ (d.onTwk f).prism = d.prism ∧ (d.onTwk f).codec = d.codec ∧
    (d.onTwk f).seqr = d.seqr ∧ (d.onTwk f).proxy = d.proxy ∧ (d.onTwk f).mags = d.mags ∧ (d.onTwk f).sent = d.sent :=
  ⟨rfl, rfl, rfl, rfl, rfl, rfl, rfl, rfl, rfl, rfl, rfl, rfl, rfl, rfl, rfl, rfl, rfl, rfl, rfl, rfl, rfl, rfl, rfl, rfl, rfl, rfl, rfl, rfl, rfl, rfl, rfl, rfl, rfl, rfl, rfl, rfl, rfl, rfl, rfl, rfl⟩

/-- `onBbx` and every field of the device. -/
@[simp] theorem Dev.onBbx_fields (d : Dev) (f : Bbx → Bbx) :
    (d.onBbx f).bbx = f d.bbx ∧ (d.onBbx f).clk = d.clk ∧ (d.onBbx f).free = d.free ∧ (d.onBbx f).undef = d.undef ∧
    (d.onBbx f).off = d.off ∧ (d.onBbx f).seq = d.seq ∧ (d.onBbx f).regs = d.regs ∧ (d.onBbx f).stats = d.stats ∧
    (d.onBbx f).snap = d.snap ∧ (d.onBbx f).snapHidden = d.snapHidden ∧ (d.onBbx f).boot = d.boot ∧ (d.onBbx f).otp = d.otp ∧
    (d.onBbx f).staged = d.staged ∧ (d.onBbx f).host = d.host ∧ (d.onBbx f).flt = d.flt ∧ (d.onBbx f).intr = d.intr ∧
    (d.onBbx f).twk = d.twk ∧ (d.onBbx f).sid = d.sid ∧ (d.onBbx f).tick = d.tick ∧ (d.onBbx f).eth = d.eth ∧
    (d.onBbx f).refillAt = d.refillAt ∧ (d.onBbx f).shapers = d.shapers ∧ (d.onBbx f).policers = d.policers ∧ (d.onBbx f).link = d.link ∧
    (d.onBbx f).fab = d.fab ∧ (d.onBbx f).pools = d.pools ∧ (d.onBbx f).dram = d.dram ∧ (d.onBbx f).wports = d.wports ∧
    (d.onBbx f).dma = d.dma ∧ (d.onBbx f).dmaEvents = d.dmaEvents ∧ (d.onBbx f).power = d.power ∧ (d.onBbx f).pins = d.pins ∧
    (d.onBbx f).ctxs = d.ctxs ∧ (d.onBbx f).caps = d.caps ∧ (d.onBbx f).prism = d.prism ∧ (d.onBbx f).codec = d.codec ∧
    (d.onBbx f).seqr = d.seqr ∧ (d.onBbx f).proxy = d.proxy ∧ (d.onBbx f).mags = d.mags ∧ (d.onBbx f).sent = d.sent :=
  ⟨rfl, rfl, rfl, rfl, rfl, rfl, rfl, rfl, rfl, rfl, rfl, rfl, rfl, rfl, rfl, rfl, rfl, rfl, rfl, rfl, rfl, rfl, rfl, rfl, rfl, rfl, rfl, rfl, rfl, rfl, rfl, rfl, rfl, rfl, rfl, rfl, rfl, rfl, rfl, rfl⟩

/-- `onSid` and every field of the device. -/
@[simp] theorem Dev.onSid_fields (d : Dev) (f : Sidereal → Sidereal) :
    (d.onSid f).sid = f d.sid ∧ (d.onSid f).clk = d.clk ∧ (d.onSid f).free = d.free ∧ (d.onSid f).undef = d.undef ∧
    (d.onSid f).off = d.off ∧ (d.onSid f).seq = d.seq ∧ (d.onSid f).regs = d.regs ∧ (d.onSid f).stats = d.stats ∧
    (d.onSid f).snap = d.snap ∧ (d.onSid f).snapHidden = d.snapHidden ∧ (d.onSid f).boot = d.boot ∧ (d.onSid f).otp = d.otp ∧
    (d.onSid f).staged = d.staged ∧ (d.onSid f).host = d.host ∧ (d.onSid f).flt = d.flt ∧ (d.onSid f).intr = d.intr ∧
    (d.onSid f).twk = d.twk ∧ (d.onSid f).bbx = d.bbx ∧ (d.onSid f).tick = d.tick ∧ (d.onSid f).eth = d.eth ∧
    (d.onSid f).refillAt = d.refillAt ∧ (d.onSid f).shapers = d.shapers ∧ (d.onSid f).policers = d.policers ∧ (d.onSid f).link = d.link ∧
    (d.onSid f).fab = d.fab ∧ (d.onSid f).pools = d.pools ∧ (d.onSid f).dram = d.dram ∧ (d.onSid f).wports = d.wports ∧
    (d.onSid f).dma = d.dma ∧ (d.onSid f).dmaEvents = d.dmaEvents ∧ (d.onSid f).power = d.power ∧ (d.onSid f).pins = d.pins ∧
    (d.onSid f).ctxs = d.ctxs ∧ (d.onSid f).caps = d.caps ∧ (d.onSid f).prism = d.prism ∧ (d.onSid f).codec = d.codec ∧
    (d.onSid f).seqr = d.seqr ∧ (d.onSid f).proxy = d.proxy ∧ (d.onSid f).mags = d.mags ∧ (d.onSid f).sent = d.sent :=
  ⟨rfl, rfl, rfl, rfl, rfl, rfl, rfl, rfl, rfl, rfl, rfl, rfl, rfl, rfl, rfl, rfl, rfl, rfl, rfl, rfl, rfl, rfl, rfl, rfl, rfl, rfl, rfl, rfl, rfl, rfl, rfl, rfl, rfl, rfl, rfl, rfl, rfl, rfl, rfl, rfl⟩

/-- `onTick` and every field of the device. -/
@[simp] theorem Dev.onTick_fields (d : Dev) (f : TickUnit → TickUnit) :
    (d.onTick f).tick = f d.tick ∧ (d.onTick f).clk = d.clk ∧ (d.onTick f).free = d.free ∧ (d.onTick f).undef = d.undef ∧
    (d.onTick f).off = d.off ∧ (d.onTick f).seq = d.seq ∧ (d.onTick f).regs = d.regs ∧ (d.onTick f).stats = d.stats ∧
    (d.onTick f).snap = d.snap ∧ (d.onTick f).snapHidden = d.snapHidden ∧ (d.onTick f).boot = d.boot ∧ (d.onTick f).otp = d.otp ∧
    (d.onTick f).staged = d.staged ∧ (d.onTick f).host = d.host ∧ (d.onTick f).flt = d.flt ∧ (d.onTick f).intr = d.intr ∧
    (d.onTick f).twk = d.twk ∧ (d.onTick f).bbx = d.bbx ∧ (d.onTick f).sid = d.sid ∧ (d.onTick f).eth = d.eth ∧
    (d.onTick f).refillAt = d.refillAt ∧ (d.onTick f).shapers = d.shapers ∧ (d.onTick f).policers = d.policers ∧
    (d.onTick f).link = d.link ∧ (d.onTick f).fab = d.fab ∧ (d.onTick f).pools = d.pools ∧ (d.onTick f).dram = d.dram ∧
    (d.onTick f).wports = d.wports ∧ (d.onTick f).dma = d.dma ∧ (d.onTick f).dmaEvents = d.dmaEvents ∧ (d.onTick f).power = d.power ∧
    (d.onTick f).pins = d.pins ∧ (d.onTick f).ctxs = d.ctxs ∧ (d.onTick f).caps = d.caps ∧ (d.onTick f).prism = d.prism ∧
    (d.onTick f).codec = d.codec ∧ (d.onTick f).seqr = d.seqr ∧ (d.onTick f).proxy = d.proxy ∧ (d.onTick f).mags = d.mags ∧
    (d.onTick f).sent = d.sent :=
  ⟨rfl, rfl, rfl, rfl, rfl, rfl, rfl, rfl, rfl, rfl, rfl, rfl, rfl, rfl, rfl, rfl, rfl, rfl, rfl, rfl, rfl, rfl, rfl, rfl, rfl, rfl, rfl, rfl, rfl, rfl, rfl, rfl, rfl, rfl, rfl, rfl, rfl, rfl, rfl, rfl⟩

/-- `onLink` and every field of the device. -/
@[simp] theorem Dev.onLink_fields (d : Dev) (f : Links → Links) :
    (d.onLink f).link = f d.link ∧ (d.onLink f).clk = d.clk ∧ (d.onLink f).free = d.free ∧ (d.onLink f).undef = d.undef ∧
    (d.onLink f).off = d.off ∧ (d.onLink f).seq = d.seq ∧ (d.onLink f).regs = d.regs ∧ (d.onLink f).stats = d.stats ∧
    (d.onLink f).snap = d.snap ∧ (d.onLink f).snapHidden = d.snapHidden ∧ (d.onLink f).boot = d.boot ∧ (d.onLink f).otp = d.otp ∧
    (d.onLink f).staged = d.staged ∧ (d.onLink f).host = d.host ∧ (d.onLink f).flt = d.flt ∧ (d.onLink f).intr = d.intr ∧
    (d.onLink f).twk = d.twk ∧ (d.onLink f).bbx = d.bbx ∧ (d.onLink f).sid = d.sid ∧ (d.onLink f).tick = d.tick ∧
    (d.onLink f).eth = d.eth ∧ (d.onLink f).refillAt = d.refillAt ∧ (d.onLink f).shapers = d.shapers ∧
    (d.onLink f).policers = d.policers ∧ (d.onLink f).fab = d.fab ∧ (d.onLink f).pools = d.pools ∧ (d.onLink f).dram = d.dram ∧
    (d.onLink f).wports = d.wports ∧ (d.onLink f).dma = d.dma ∧ (d.onLink f).dmaEvents = d.dmaEvents ∧ (d.onLink f).power = d.power ∧
    (d.onLink f).pins = d.pins ∧ (d.onLink f).ctxs = d.ctxs ∧ (d.onLink f).caps = d.caps ∧ (d.onLink f).prism = d.prism ∧
    (d.onLink f).codec = d.codec ∧ (d.onLink f).seqr = d.seqr ∧ (d.onLink f).proxy = d.proxy ∧ (d.onLink f).mags = d.mags ∧
    (d.onLink f).sent = d.sent :=
  ⟨rfl, rfl, rfl, rfl, rfl, rfl, rfl, rfl, rfl, rfl, rfl, rfl, rfl, rfl, rfl, rfl, rfl, rfl, rfl, rfl, rfl, rfl, rfl, rfl, rfl, rfl, rfl, rfl, rfl, rfl, rfl, rfl, rfl, rfl, rfl, rfl, rfl, rfl, rfl, rfl⟩

/-- `onFab` and every field of the device. -/
@[simp] theorem Dev.onFab_fields (d : Dev) (f : Fabric → Fabric) :
    (d.onFab f).fab = f d.fab ∧ (d.onFab f).clk = d.clk ∧ (d.onFab f).free = d.free ∧ (d.onFab f).undef = d.undef ∧
    (d.onFab f).off = d.off ∧ (d.onFab f).seq = d.seq ∧ (d.onFab f).regs = d.regs ∧ (d.onFab f).stats = d.stats ∧
    (d.onFab f).snap = d.snap ∧ (d.onFab f).snapHidden = d.snapHidden ∧ (d.onFab f).boot = d.boot ∧ (d.onFab f).otp = d.otp ∧
    (d.onFab f).staged = d.staged ∧ (d.onFab f).host = d.host ∧ (d.onFab f).flt = d.flt ∧ (d.onFab f).intr = d.intr ∧
    (d.onFab f).twk = d.twk ∧ (d.onFab f).bbx = d.bbx ∧ (d.onFab f).sid = d.sid ∧ (d.onFab f).tick = d.tick ∧ (d.onFab f).eth = d.eth ∧
    (d.onFab f).refillAt = d.refillAt ∧ (d.onFab f).shapers = d.shapers ∧ (d.onFab f).policers = d.policers ∧ (d.onFab f).link = d.link ∧
    (d.onFab f).pools = d.pools ∧ (d.onFab f).dram = d.dram ∧ (d.onFab f).wports = d.wports ∧ (d.onFab f).dma = d.dma ∧
    (d.onFab f).dmaEvents = d.dmaEvents ∧ (d.onFab f).power = d.power ∧ (d.onFab f).pins = d.pins ∧ (d.onFab f).ctxs = d.ctxs ∧
    (d.onFab f).caps = d.caps ∧ (d.onFab f).prism = d.prism ∧ (d.onFab f).codec = d.codec ∧ (d.onFab f).seqr = d.seqr ∧
    (d.onFab f).proxy = d.proxy ∧ (d.onFab f).mags = d.mags ∧ (d.onFab f).sent = d.sent :=
  ⟨rfl, rfl, rfl, rfl, rfl, rfl, rfl, rfl, rfl, rfl, rfl, rfl, rfl, rfl, rfl, rfl, rfl, rfl, rfl, rfl, rfl, rfl, rfl, rfl, rfl, rfl, rfl, rfl, rfl, rfl, rfl, rfl, rfl, rfl, rfl, rfl, rfl, rfl, rfl, rfl⟩

/-- `onPools` and every field of the device. -/
@[simp] theorem Dev.onPools_fields (d : Dev) (f : Pools → Pools) :
    (d.onPools f).pools = f d.pools ∧ (d.onPools f).clk = d.clk ∧ (d.onPools f).free = d.free ∧ (d.onPools f).undef = d.undef ∧
    (d.onPools f).off = d.off ∧ (d.onPools f).seq = d.seq ∧ (d.onPools f).regs = d.regs ∧ (d.onPools f).stats = d.stats ∧
    (d.onPools f).snap = d.snap ∧ (d.onPools f).snapHidden = d.snapHidden ∧ (d.onPools f).boot = d.boot ∧ (d.onPools f).otp = d.otp ∧
    (d.onPools f).staged = d.staged ∧ (d.onPools f).host = d.host ∧ (d.onPools f).flt = d.flt ∧ (d.onPools f).intr = d.intr ∧
    (d.onPools f).twk = d.twk ∧ (d.onPools f).bbx = d.bbx ∧ (d.onPools f).sid = d.sid ∧ (d.onPools f).tick = d.tick ∧
    (d.onPools f).eth = d.eth ∧ (d.onPools f).refillAt = d.refillAt ∧ (d.onPools f).shapers = d.shapers ∧
    (d.onPools f).policers = d.policers ∧ (d.onPools f).link = d.link ∧ (d.onPools f).fab = d.fab ∧ (d.onPools f).dram = d.dram ∧
    (d.onPools f).wports = d.wports ∧ (d.onPools f).dma = d.dma ∧ (d.onPools f).dmaEvents = d.dmaEvents ∧ (d.onPools f).power = d.power ∧
    (d.onPools f).pins = d.pins ∧ (d.onPools f).ctxs = d.ctxs ∧ (d.onPools f).caps = d.caps ∧ (d.onPools f).prism = d.prism ∧
    (d.onPools f).codec = d.codec ∧ (d.onPools f).seqr = d.seqr ∧ (d.onPools f).proxy = d.proxy ∧ (d.onPools f).mags = d.mags ∧
    (d.onPools f).sent = d.sent :=
  ⟨rfl, rfl, rfl, rfl, rfl, rfl, rfl, rfl, rfl, rfl, rfl, rfl, rfl, rfl, rfl, rfl, rfl, rfl, rfl, rfl, rfl, rfl, rfl, rfl, rfl, rfl, rfl, rfl, rfl, rfl, rfl, rfl, rfl, rfl, rfl, rfl, rfl, rfl, rfl, rfl⟩

/-- `onPower` and every field of the device. -/
@[simp] theorem Dev.onPower_fields (d : Dev) (f : Power → Power) :
    (d.onPower f).power = f d.power ∧ (d.onPower f).clk = d.clk ∧ (d.onPower f).free = d.free ∧ (d.onPower f).undef = d.undef ∧
    (d.onPower f).off = d.off ∧ (d.onPower f).seq = d.seq ∧ (d.onPower f).regs = d.regs ∧ (d.onPower f).stats = d.stats ∧
    (d.onPower f).snap = d.snap ∧ (d.onPower f).snapHidden = d.snapHidden ∧ (d.onPower f).boot = d.boot ∧ (d.onPower f).otp = d.otp ∧
    (d.onPower f).staged = d.staged ∧ (d.onPower f).host = d.host ∧ (d.onPower f).flt = d.flt ∧ (d.onPower f).intr = d.intr ∧
    (d.onPower f).twk = d.twk ∧ (d.onPower f).bbx = d.bbx ∧ (d.onPower f).sid = d.sid ∧ (d.onPower f).tick = d.tick ∧
    (d.onPower f).eth = d.eth ∧ (d.onPower f).refillAt = d.refillAt ∧ (d.onPower f).shapers = d.shapers ∧
    (d.onPower f).policers = d.policers ∧ (d.onPower f).link = d.link ∧ (d.onPower f).fab = d.fab ∧ (d.onPower f).pools = d.pools ∧
    (d.onPower f).dram = d.dram ∧ (d.onPower f).wports = d.wports ∧ (d.onPower f).dma = d.dma ∧ (d.onPower f).dmaEvents = d.dmaEvents ∧
    (d.onPower f).pins = d.pins ∧ (d.onPower f).ctxs = d.ctxs ∧ (d.onPower f).caps = d.caps ∧ (d.onPower f).prism = d.prism ∧
    (d.onPower f).codec = d.codec ∧ (d.onPower f).seqr = d.seqr ∧ (d.onPower f).proxy = d.proxy ∧ (d.onPower f).mags = d.mags ∧
    (d.onPower f).sent = d.sent :=
  ⟨rfl, rfl, rfl, rfl, rfl, rfl, rfl, rfl, rfl, rfl, rfl, rfl, rfl, rfl, rfl, rfl, rfl, rfl, rfl, rfl, rfl, rfl, rfl, rfl, rfl, rfl, rfl, rfl, rfl, rfl, rfl, rfl, rfl, rfl, rfl, rfl, rfl, rfl, rfl, rfl⟩

/-- `onEth` and every field of the device. -/
@[simp] theorem Dev.onEth_fields (d : Dev) (i : Nat) (f : EthPort → EthPort) :
    (d.onEth i f).eth = modAt d.eth i f ∧ (d.onEth i f).clk = d.clk ∧ (d.onEth i f).free = d.free ∧ (d.onEth i f).undef = d.undef ∧
    (d.onEth i f).off = d.off ∧ (d.onEth i f).seq = d.seq ∧ (d.onEth i f).regs = d.regs ∧ (d.onEth i f).stats = d.stats ∧
    (d.onEth i f).snap = d.snap ∧ (d.onEth i f).snapHidden = d.snapHidden ∧ (d.onEth i f).boot = d.boot ∧ (d.onEth i f).otp = d.otp ∧
    (d.onEth i f).staged = d.staged ∧ (d.onEth i f).host = d.host ∧ (d.onEth i f).flt = d.flt ∧ (d.onEth i f).intr = d.intr ∧
    (d.onEth i f).twk = d.twk ∧ (d.onEth i f).bbx = d.bbx ∧ (d.onEth i f).sid = d.sid ∧ (d.onEth i f).tick = d.tick ∧
    (d.onEth i f).refillAt = d.refillAt ∧ (d.onEth i f).shapers = d.shapers ∧ (d.onEth i f).policers = d.policers ∧
    (d.onEth i f).link = d.link ∧ (d.onEth i f).fab = d.fab ∧ (d.onEth i f).pools = d.pools ∧ (d.onEth i f).dram = d.dram ∧
    (d.onEth i f).wports = d.wports ∧ (d.onEth i f).dma = d.dma ∧ (d.onEth i f).dmaEvents = d.dmaEvents ∧ (d.onEth i f).power = d.power ∧
    (d.onEth i f).pins = d.pins ∧ (d.onEth i f).ctxs = d.ctxs ∧ (d.onEth i f).caps = d.caps ∧ (d.onEth i f).prism = d.prism ∧
    (d.onEth i f).codec = d.codec ∧ (d.onEth i f).seqr = d.seqr ∧ (d.onEth i f).proxy = d.proxy ∧ (d.onEth i f).mags = d.mags ∧
    (d.onEth i f).sent = d.sent :=
  ⟨rfl, rfl, rfl, rfl, rfl, rfl, rfl, rfl, rfl, rfl, rfl, rfl, rfl, rfl, rfl, rfl, rfl, rfl, rfl, rfl, rfl, rfl, rfl, rfl, rfl, rfl, rfl, rfl, rfl, rfl, rfl, rfl, rfl, rfl, rfl, rfl, rfl, rfl, rfl, rfl⟩

/-- `onDram` and every field of the device. -/
@[simp] theorem Dev.onDram_fields (d : Dev) (i : Nat) (f : DramCtl → DramCtl) :
    (d.onDram i f).dram = modAt d.dram i f ∧ (d.onDram i f).clk = d.clk ∧ (d.onDram i f).free = d.free ∧ (d.onDram i f).undef = d.undef ∧
    (d.onDram i f).off = d.off ∧ (d.onDram i f).seq = d.seq ∧ (d.onDram i f).regs = d.regs ∧ (d.onDram i f).stats = d.stats ∧
    (d.onDram i f).snap = d.snap ∧ (d.onDram i f).snapHidden = d.snapHidden ∧ (d.onDram i f).boot = d.boot ∧ (d.onDram i f).otp = d.otp ∧
    (d.onDram i f).staged = d.staged ∧ (d.onDram i f).host = d.host ∧ (d.onDram i f).flt = d.flt ∧ (d.onDram i f).intr = d.intr ∧
    (d.onDram i f).twk = d.twk ∧ (d.onDram i f).bbx = d.bbx ∧ (d.onDram i f).sid = d.sid ∧ (d.onDram i f).tick = d.tick ∧
    (d.onDram i f).eth = d.eth ∧ (d.onDram i f).refillAt = d.refillAt ∧ (d.onDram i f).shapers = d.shapers ∧
    (d.onDram i f).policers = d.policers ∧ (d.onDram i f).link = d.link ∧ (d.onDram i f).fab = d.fab ∧ (d.onDram i f).pools = d.pools ∧
    (d.onDram i f).wports = d.wports ∧ (d.onDram i f).dma = d.dma ∧ (d.onDram i f).dmaEvents = d.dmaEvents ∧
    (d.onDram i f).power = d.power ∧ (d.onDram i f).pins = d.pins ∧ (d.onDram i f).ctxs = d.ctxs ∧ (d.onDram i f).caps = d.caps ∧
    (d.onDram i f).prism = d.prism ∧ (d.onDram i f).codec = d.codec ∧ (d.onDram i f).seqr = d.seqr ∧ (d.onDram i f).proxy = d.proxy ∧
    (d.onDram i f).mags = d.mags ∧ (d.onDram i f).sent = d.sent :=
  ⟨rfl, rfl, rfl, rfl, rfl, rfl, rfl, rfl, rfl, rfl, rfl, rfl, rfl, rfl, rfl, rfl, rfl, rfl, rfl, rfl, rfl, rfl, rfl, rfl, rfl, rfl, rfl, rfl, rfl, rfl, rfl, rfl, rfl, rfl, rfl, rfl, rfl, rfl, rfl, rfl⟩

/-- `onWport` and every field of the device. -/
@[simp] theorem Dev.onWport_fields (d : Dev) (i : Nat) (f : WritePort → WritePort) :
    (d.onWport i f).wports = modAt d.wports i f ∧ (d.onWport i f).clk = d.clk ∧ (d.onWport i f).free = d.free ∧
    (d.onWport i f).undef = d.undef ∧ (d.onWport i f).off = d.off ∧ (d.onWport i f).seq = d.seq ∧ (d.onWport i f).regs = d.regs ∧
    (d.onWport i f).stats = d.stats ∧ (d.onWport i f).snap = d.snap ∧ (d.onWport i f).snapHidden = d.snapHidden ∧
    (d.onWport i f).boot = d.boot ∧ (d.onWport i f).otp = d.otp ∧ (d.onWport i f).staged = d.staged ∧ (d.onWport i f).host = d.host ∧
    (d.onWport i f).flt = d.flt ∧ (d.onWport i f).intr = d.intr ∧ (d.onWport i f).twk = d.twk ∧ (d.onWport i f).bbx = d.bbx ∧
    (d.onWport i f).sid = d.sid ∧ (d.onWport i f).tick = d.tick ∧ (d.onWport i f).eth = d.eth ∧ (d.onWport i f).refillAt = d.refillAt ∧
    (d.onWport i f).shapers = d.shapers ∧ (d.onWport i f).policers = d.policers ∧ (d.onWport i f).link = d.link ∧
    (d.onWport i f).fab = d.fab ∧ (d.onWport i f).pools = d.pools ∧ (d.onWport i f).dram = d.dram ∧ (d.onWport i f).dma = d.dma ∧
    (d.onWport i f).dmaEvents = d.dmaEvents ∧ (d.onWport i f).power = d.power ∧ (d.onWport i f).pins = d.pins ∧
    (d.onWport i f).ctxs = d.ctxs ∧ (d.onWport i f).caps = d.caps ∧ (d.onWport i f).prism = d.prism ∧ (d.onWport i f).codec = d.codec ∧
    (d.onWport i f).seqr = d.seqr ∧ (d.onWport i f).proxy = d.proxy ∧ (d.onWport i f).mags = d.mags ∧ (d.onWport i f).sent = d.sent :=
  ⟨rfl, rfl, rfl, rfl, rfl, rfl, rfl, rfl, rfl, rfl, rfl, rfl, rfl, rfl, rfl, rfl, rfl, rfl, rfl, rfl, rfl, rfl, rfl, rfl, rfl, rfl, rfl, rfl, rfl, rfl, rfl, rfl, rfl, rfl, rfl, rfl, rfl, rfl, rfl, rfl⟩

/-- `onDma` and every field of the device. -/
@[simp] theorem Dev.onDma_fields (d : Dev) (i : Nat) (f : DmaCh → DmaCh) :
    (d.onDma i f).dma = modAt d.dma i f ∧ (d.onDma i f).clk = d.clk ∧ (d.onDma i f).free = d.free ∧ (d.onDma i f).undef = d.undef ∧
    (d.onDma i f).off = d.off ∧ (d.onDma i f).seq = d.seq ∧ (d.onDma i f).regs = d.regs ∧ (d.onDma i f).stats = d.stats ∧
    (d.onDma i f).snap = d.snap ∧ (d.onDma i f).snapHidden = d.snapHidden ∧ (d.onDma i f).boot = d.boot ∧ (d.onDma i f).otp = d.otp ∧
    (d.onDma i f).staged = d.staged ∧ (d.onDma i f).host = d.host ∧ (d.onDma i f).flt = d.flt ∧ (d.onDma i f).intr = d.intr ∧
    (d.onDma i f).twk = d.twk ∧ (d.onDma i f).bbx = d.bbx ∧ (d.onDma i f).sid = d.sid ∧ (d.onDma i f).tick = d.tick ∧
    (d.onDma i f).eth = d.eth ∧ (d.onDma i f).refillAt = d.refillAt ∧ (d.onDma i f).shapers = d.shapers ∧
    (d.onDma i f).policers = d.policers ∧ (d.onDma i f).link = d.link ∧ (d.onDma i f).fab = d.fab ∧ (d.onDma i f).pools = d.pools ∧
    (d.onDma i f).dram = d.dram ∧ (d.onDma i f).wports = d.wports ∧ (d.onDma i f).dmaEvents = d.dmaEvents ∧
    (d.onDma i f).power = d.power ∧ (d.onDma i f).pins = d.pins ∧ (d.onDma i f).ctxs = d.ctxs ∧ (d.onDma i f).caps = d.caps ∧
    (d.onDma i f).prism = d.prism ∧ (d.onDma i f).codec = d.codec ∧ (d.onDma i f).seqr = d.seqr ∧ (d.onDma i f).proxy = d.proxy ∧
    (d.onDma i f).mags = d.mags ∧ (d.onDma i f).sent = d.sent :=
  ⟨rfl, rfl, rfl, rfl, rfl, rfl, rfl, rfl, rfl, rfl, rfl, rfl, rfl, rfl, rfl, rfl, rfl, rfl, rfl, rfl, rfl, rfl, rfl, rfl, rfl, rfl, rfl, rfl, rfl, rfl, rfl, rfl, rfl, rfl, rfl, rfl, rfl, rfl, rfl, rfl⟩

/-- `onPort` and every field of the device. -/
@[simp] theorem Dev.onPort_fields (d : Dev) (i : Nat) (f : LinkPort → LinkPort) :
    (d.onPort i f).link = { d.link with ports := modAt d.link.ports i f } ∧ (d.onPort i f).clk = d.clk ∧ (d.onPort i f).free = d.free ∧
    (d.onPort i f).undef = d.undef ∧ (d.onPort i f).off = d.off ∧ (d.onPort i f).seq = d.seq ∧ (d.onPort i f).regs = d.regs ∧
    (d.onPort i f).stats = d.stats ∧ (d.onPort i f).snap = d.snap ∧ (d.onPort i f).snapHidden = d.snapHidden ∧
    (d.onPort i f).boot = d.boot ∧ (d.onPort i f).otp = d.otp ∧ (d.onPort i f).staged = d.staged ∧ (d.onPort i f).host = d.host ∧
    (d.onPort i f).flt = d.flt ∧ (d.onPort i f).intr = d.intr ∧ (d.onPort i f).twk = d.twk ∧ (d.onPort i f).bbx = d.bbx ∧
    (d.onPort i f).sid = d.sid ∧ (d.onPort i f).tick = d.tick ∧ (d.onPort i f).eth = d.eth ∧ (d.onPort i f).refillAt = d.refillAt ∧
    (d.onPort i f).shapers = d.shapers ∧ (d.onPort i f).policers = d.policers ∧ (d.onPort i f).fab = d.fab ∧
    (d.onPort i f).pools = d.pools ∧ (d.onPort i f).dram = d.dram ∧ (d.onPort i f).wports = d.wports ∧ (d.onPort i f).dma = d.dma ∧
    (d.onPort i f).dmaEvents = d.dmaEvents ∧ (d.onPort i f).power = d.power ∧ (d.onPort i f).pins = d.pins ∧
    (d.onPort i f).ctxs = d.ctxs ∧ (d.onPort i f).caps = d.caps ∧ (d.onPort i f).prism = d.prism ∧ (d.onPort i f).codec = d.codec ∧
    (d.onPort i f).seqr = d.seqr ∧ (d.onPort i f).proxy = d.proxy ∧ (d.onPort i f).mags = d.mags ∧ (d.onPort i f).sent = d.sent :=
  ⟨rfl, rfl, rfl, rfl, rfl, rfl, rfl, rfl, rfl, rfl, rfl, rfl, rfl, rfl, rfl, rfl, rfl, rfl, rfl, rfl, rfl, rfl, rfl, rfl, rfl, rfl, rfl, rfl, rfl, rfl, rfl, rfl, rfl, rfl, rfl, rfl, rfl, rfl, rfl, rfl⟩

/-- `onPool` and every field of the device. -/
@[simp] theorem Dev.onPool_fields (d : Dev) (i : Nat) (f : Pool → Pool) :
    (d.onPool i f).pools = { d.pools with pool := modAt d.pools.pool i f } ∧ (d.onPool i f).clk = d.clk ∧ (d.onPool i f).free = d.free ∧
    (d.onPool i f).undef = d.undef ∧ (d.onPool i f).off = d.off ∧ (d.onPool i f).seq = d.seq ∧ (d.onPool i f).regs = d.regs ∧
    (d.onPool i f).stats = d.stats ∧ (d.onPool i f).snap = d.snap ∧ (d.onPool i f).snapHidden = d.snapHidden ∧
    (d.onPool i f).boot = d.boot ∧ (d.onPool i f).otp = d.otp ∧ (d.onPool i f).staged = d.staged ∧ (d.onPool i f).host = d.host ∧
    (d.onPool i f).flt = d.flt ∧ (d.onPool i f).intr = d.intr ∧ (d.onPool i f).twk = d.twk ∧ (d.onPool i f).bbx = d.bbx ∧
    (d.onPool i f).sid = d.sid ∧ (d.onPool i f).tick = d.tick ∧ (d.onPool i f).eth = d.eth ∧ (d.onPool i f).refillAt = d.refillAt ∧
    (d.onPool i f).shapers = d.shapers ∧ (d.onPool i f).policers = d.policers ∧ (d.onPool i f).link = d.link ∧
    (d.onPool i f).fab = d.fab ∧ (d.onPool i f).dram = d.dram ∧ (d.onPool i f).wports = d.wports ∧ (d.onPool i f).dma = d.dma ∧
    (d.onPool i f).dmaEvents = d.dmaEvents ∧ (d.onPool i f).power = d.power ∧ (d.onPool i f).pins = d.pins ∧
    (d.onPool i f).ctxs = d.ctxs ∧ (d.onPool i f).caps = d.caps ∧ (d.onPool i f).prism = d.prism ∧ (d.onPool i f).codec = d.codec ∧
    (d.onPool i f).seqr = d.seqr ∧ (d.onPool i f).proxy = d.proxy ∧ (d.onPool i f).mags = d.mags ∧ (d.onPool i f).sent = d.sent :=
  ⟨rfl, rfl, rfl, rfl, rfl, rfl, rfl, rfl, rfl, rfl, rfl, rfl, rfl, rfl, rfl, rfl, rfl, rfl, rfl, rfl, rfl, rfl, rfl, rfl, rfl, rfl, rfl, rfl, rfl, rfl, rfl, rfl, rfl, rfl, rfl, rfl, rfl, rfl, rfl, rfl⟩

/-- `onPrism` and every field of the device. -/
@[simp] theorem Dev.onPrism_fields (d : Dev) (f : Prism → Prism) :
    (d.onPrism f).prism = f d.prism ∧ (d.onPrism f).clk = d.clk ∧ (d.onPrism f).free = d.free ∧ (d.onPrism f).undef = d.undef ∧
    (d.onPrism f).off = d.off ∧ (d.onPrism f).seq = d.seq ∧ (d.onPrism f).regs = d.regs ∧ (d.onPrism f).stats = d.stats ∧
    (d.onPrism f).snap = d.snap ∧ (d.onPrism f).snapHidden = d.snapHidden ∧ (d.onPrism f).boot = d.boot ∧ (d.onPrism f).otp = d.otp ∧
    (d.onPrism f).staged = d.staged ∧ (d.onPrism f).host = d.host ∧ (d.onPrism f).flt = d.flt ∧ (d.onPrism f).intr = d.intr ∧
    (d.onPrism f).twk = d.twk ∧ (d.onPrism f).bbx = d.bbx ∧ (d.onPrism f).sid = d.sid ∧ (d.onPrism f).tick = d.tick ∧
    (d.onPrism f).eth = d.eth ∧ (d.onPrism f).refillAt = d.refillAt ∧ (d.onPrism f).shapers = d.shapers ∧
    (d.onPrism f).policers = d.policers ∧ (d.onPrism f).link = d.link ∧ (d.onPrism f).fab = d.fab ∧ (d.onPrism f).pools = d.pools ∧
    (d.onPrism f).dram = d.dram ∧ (d.onPrism f).wports = d.wports ∧ (d.onPrism f).dma = d.dma ∧ (d.onPrism f).dmaEvents = d.dmaEvents ∧
    (d.onPrism f).power = d.power ∧ (d.onPrism f).pins = d.pins ∧ (d.onPrism f).ctxs = d.ctxs ∧ (d.onPrism f).caps = d.caps ∧
    (d.onPrism f).codec = d.codec ∧ (d.onPrism f).seqr = d.seqr ∧ (d.onPrism f).proxy = d.proxy ∧ (d.onPrism f).mags = d.mags ∧
    (d.onPrism f).sent = d.sent :=
  ⟨rfl, rfl, rfl, rfl, rfl, rfl, rfl, rfl, rfl, rfl, rfl, rfl, rfl, rfl, rfl, rfl, rfl, rfl, rfl, rfl, rfl, rfl, rfl, rfl, rfl, rfl, rfl, rfl, rfl, rfl, rfl, rfl, rfl, rfl, rfl, rfl, rfl, rfl, rfl, rfl⟩

/-- `onCodec` and every field of the device. -/
@[simp] theorem Dev.onCodec_fields (d : Dev) (f : Codec → Codec) :
    (d.onCodec f).codec = f d.codec ∧ (d.onCodec f).clk = d.clk ∧ (d.onCodec f).free = d.free ∧ (d.onCodec f).undef = d.undef ∧
    (d.onCodec f).off = d.off ∧ (d.onCodec f).seq = d.seq ∧ (d.onCodec f).regs = d.regs ∧ (d.onCodec f).stats = d.stats ∧
    (d.onCodec f).snap = d.snap ∧ (d.onCodec f).snapHidden = d.snapHidden ∧ (d.onCodec f).boot = d.boot ∧ (d.onCodec f).otp = d.otp ∧
    (d.onCodec f).staged = d.staged ∧ (d.onCodec f).host = d.host ∧ (d.onCodec f).flt = d.flt ∧ (d.onCodec f).intr = d.intr ∧
    (d.onCodec f).twk = d.twk ∧ (d.onCodec f).bbx = d.bbx ∧ (d.onCodec f).sid = d.sid ∧ (d.onCodec f).tick = d.tick ∧
    (d.onCodec f).eth = d.eth ∧ (d.onCodec f).refillAt = d.refillAt ∧ (d.onCodec f).shapers = d.shapers ∧
    (d.onCodec f).policers = d.policers ∧ (d.onCodec f).link = d.link ∧ (d.onCodec f).fab = d.fab ∧ (d.onCodec f).pools = d.pools ∧
    (d.onCodec f).dram = d.dram ∧ (d.onCodec f).wports = d.wports ∧ (d.onCodec f).dma = d.dma ∧ (d.onCodec f).dmaEvents = d.dmaEvents ∧
    (d.onCodec f).power = d.power ∧ (d.onCodec f).pins = d.pins ∧ (d.onCodec f).ctxs = d.ctxs ∧ (d.onCodec f).caps = d.caps ∧
    (d.onCodec f).prism = d.prism ∧ (d.onCodec f).seqr = d.seqr ∧ (d.onCodec f).proxy = d.proxy ∧ (d.onCodec f).mags = d.mags ∧
    (d.onCodec f).sent = d.sent :=
  ⟨rfl, rfl, rfl, rfl, rfl, rfl, rfl, rfl, rfl, rfl, rfl, rfl, rfl, rfl, rfl, rfl, rfl, rfl, rfl, rfl, rfl, rfl, rfl, rfl, rfl, rfl, rfl, rfl, rfl, rfl, rfl, rfl, rfl, rfl, rfl, rfl, rfl, rfl, rfl, rfl⟩

/-- `onSeq` and every field of the device. -/
@[simp] theorem Dev.onSeq_fields (d : Dev) (f : Sequencer → Sequencer) :
    (d.onSeq f).seqr = f d.seqr ∧ (d.onSeq f).clk = d.clk ∧ (d.onSeq f).free = d.free ∧ (d.onSeq f).undef = d.undef ∧
    (d.onSeq f).off = d.off ∧ (d.onSeq f).seq = d.seq ∧ (d.onSeq f).regs = d.regs ∧ (d.onSeq f).stats = d.stats ∧
    (d.onSeq f).snap = d.snap ∧ (d.onSeq f).snapHidden = d.snapHidden ∧ (d.onSeq f).boot = d.boot ∧ (d.onSeq f).otp = d.otp ∧
    (d.onSeq f).staged = d.staged ∧ (d.onSeq f).host = d.host ∧ (d.onSeq f).flt = d.flt ∧ (d.onSeq f).intr = d.intr ∧
    (d.onSeq f).twk = d.twk ∧ (d.onSeq f).bbx = d.bbx ∧ (d.onSeq f).sid = d.sid ∧ (d.onSeq f).tick = d.tick ∧ (d.onSeq f).eth = d.eth ∧
    (d.onSeq f).refillAt = d.refillAt ∧ (d.onSeq f).shapers = d.shapers ∧ (d.onSeq f).policers = d.policers ∧ (d.onSeq f).link = d.link ∧
    (d.onSeq f).fab = d.fab ∧ (d.onSeq f).pools = d.pools ∧ (d.onSeq f).dram = d.dram ∧ (d.onSeq f).wports = d.wports ∧
    (d.onSeq f).dma = d.dma ∧ (d.onSeq f).dmaEvents = d.dmaEvents ∧ (d.onSeq f).power = d.power ∧ (d.onSeq f).pins = d.pins ∧
    (d.onSeq f).ctxs = d.ctxs ∧ (d.onSeq f).caps = d.caps ∧ (d.onSeq f).prism = d.prism ∧ (d.onSeq f).codec = d.codec ∧
    (d.onSeq f).proxy = d.proxy ∧ (d.onSeq f).mags = d.mags ∧ (d.onSeq f).sent = d.sent :=
  ⟨rfl, rfl, rfl, rfl, rfl, rfl, rfl, rfl, rfl, rfl, rfl, rfl, rfl, rfl, rfl, rfl, rfl, rfl, rfl, rfl, rfl, rfl, rfl, rfl, rfl, rfl, rfl, rfl, rfl, rfl, rfl, rfl, rfl, rfl, rfl, rfl, rfl, rfl, rfl, rfl⟩

/-- `onProxy` and every field of the device. -/
@[simp] theorem Dev.onProxy_fields (d : Dev) (f : Proxy → Proxy) :
    (d.onProxy f).proxy = f d.proxy ∧ (d.onProxy f).clk = d.clk ∧ (d.onProxy f).free = d.free ∧ (d.onProxy f).undef = d.undef ∧
    (d.onProxy f).off = d.off ∧ (d.onProxy f).seq = d.seq ∧ (d.onProxy f).regs = d.regs ∧ (d.onProxy f).stats = d.stats ∧
    (d.onProxy f).snap = d.snap ∧ (d.onProxy f).snapHidden = d.snapHidden ∧ (d.onProxy f).boot = d.boot ∧ (d.onProxy f).otp = d.otp ∧
    (d.onProxy f).staged = d.staged ∧ (d.onProxy f).host = d.host ∧ (d.onProxy f).flt = d.flt ∧ (d.onProxy f).intr = d.intr ∧
    (d.onProxy f).twk = d.twk ∧ (d.onProxy f).bbx = d.bbx ∧ (d.onProxy f).sid = d.sid ∧ (d.onProxy f).tick = d.tick ∧
    (d.onProxy f).eth = d.eth ∧ (d.onProxy f).refillAt = d.refillAt ∧ (d.onProxy f).shapers = d.shapers ∧
    (d.onProxy f).policers = d.policers ∧ (d.onProxy f).link = d.link ∧ (d.onProxy f).fab = d.fab ∧ (d.onProxy f).pools = d.pools ∧
    (d.onProxy f).dram = d.dram ∧ (d.onProxy f).wports = d.wports ∧ (d.onProxy f).dma = d.dma ∧ (d.onProxy f).dmaEvents = d.dmaEvents ∧
    (d.onProxy f).power = d.power ∧ (d.onProxy f).pins = d.pins ∧ (d.onProxy f).ctxs = d.ctxs ∧ (d.onProxy f).caps = d.caps ∧
    (d.onProxy f).prism = d.prism ∧ (d.onProxy f).codec = d.codec ∧ (d.onProxy f).seqr = d.seqr ∧ (d.onProxy f).mags = d.mags ∧
    (d.onProxy f).sent = d.sent :=
  ⟨rfl, rfl, rfl, rfl, rfl, rfl, rfl, rfl, rfl, rfl, rfl, rfl, rfl, rfl, rfl, rfl, rfl, rfl, rfl, rfl, rfl, rfl, rfl, rfl, rfl, rfl, rfl, rfl, rfl, rfl, rfl, rfl, rfl, rfl, rfl, rfl, rfl, rfl, rfl, rfl⟩

/-- `onMag` and every field of the device. -/
@[simp] theorem Dev.onMag_fields (d : Dev) (i : Nat) (f : MagPort → MagPort) :
    (d.onMag i f).mags = modAt d.mags i f ∧ (d.onMag i f).clk = d.clk ∧ (d.onMag i f).free = d.free ∧ (d.onMag i f).undef = d.undef ∧
    (d.onMag i f).off = d.off ∧ (d.onMag i f).seq = d.seq ∧ (d.onMag i f).regs = d.regs ∧ (d.onMag i f).stats = d.stats ∧
    (d.onMag i f).snap = d.snap ∧ (d.onMag i f).snapHidden = d.snapHidden ∧ (d.onMag i f).boot = d.boot ∧ (d.onMag i f).otp = d.otp ∧
    (d.onMag i f).staged = d.staged ∧ (d.onMag i f).host = d.host ∧ (d.onMag i f).flt = d.flt ∧ (d.onMag i f).intr = d.intr ∧
    (d.onMag i f).twk = d.twk ∧ (d.onMag i f).bbx = d.bbx ∧ (d.onMag i f).sid = d.sid ∧ (d.onMag i f).tick = d.tick ∧
    (d.onMag i f).eth = d.eth ∧ (d.onMag i f).refillAt = d.refillAt ∧ (d.onMag i f).shapers = d.shapers ∧
    (d.onMag i f).policers = d.policers ∧ (d.onMag i f).link = d.link ∧ (d.onMag i f).fab = d.fab ∧ (d.onMag i f).pools = d.pools ∧
    (d.onMag i f).dram = d.dram ∧ (d.onMag i f).wports = d.wports ∧ (d.onMag i f).dma = d.dma ∧ (d.onMag i f).dmaEvents = d.dmaEvents ∧
    (d.onMag i f).power = d.power ∧ (d.onMag i f).pins = d.pins ∧ (d.onMag i f).ctxs = d.ctxs ∧ (d.onMag i f).caps = d.caps ∧
    (d.onMag i f).prism = d.prism ∧ (d.onMag i f).codec = d.codec ∧ (d.onMag i f).seqr = d.seqr ∧ (d.onMag i f).proxy = d.proxy ∧
    (d.onMag i f).sent = d.sent :=
  ⟨rfl, rfl, rfl, rfl, rfl, rfl, rfl, rfl, rfl, rfl, rfl, rfl, rfl, rfl, rfl, rfl, rfl, rfl, rfl, rfl, rfl, rfl, rfl, rfl, rfl, rfl, rfl, rfl, rfl, rfl, rfl, rfl, rfl, rfl, rfl, rfl, rfl, rfl, rfl, rfl⟩

/-- `onCore` and every field of the device. -/
@[simp] theorem Dev.onCore_fields (d : Dev) (i : Nat) (f : CtlCore → CtlCore) :
    (d.onCore i f).intr = { d.intr with cores := modAt d.intr.cores i f } ∧ (d.onCore i f).clk = d.clk ∧ (d.onCore i f).free = d.free ∧
    (d.onCore i f).undef = d.undef ∧ (d.onCore i f).off = d.off ∧ (d.onCore i f).seq = d.seq ∧ (d.onCore i f).regs = d.regs ∧
    (d.onCore i f).stats = d.stats ∧ (d.onCore i f).snap = d.snap ∧ (d.onCore i f).snapHidden = d.snapHidden ∧
    (d.onCore i f).boot = d.boot ∧ (d.onCore i f).otp = d.otp ∧ (d.onCore i f).staged = d.staged ∧ (d.onCore i f).host = d.host ∧
    (d.onCore i f).flt = d.flt ∧ (d.onCore i f).twk = d.twk ∧ (d.onCore i f).bbx = d.bbx ∧ (d.onCore i f).sid = d.sid ∧
    (d.onCore i f).tick = d.tick ∧ (d.onCore i f).eth = d.eth ∧ (d.onCore i f).refillAt = d.refillAt ∧
    (d.onCore i f).shapers = d.shapers ∧ (d.onCore i f).policers = d.policers ∧ (d.onCore i f).link = d.link ∧
    (d.onCore i f).fab = d.fab ∧ (d.onCore i f).pools = d.pools ∧ (d.onCore i f).dram = d.dram ∧ (d.onCore i f).wports = d.wports ∧
    (d.onCore i f).dma = d.dma ∧ (d.onCore i f).dmaEvents = d.dmaEvents ∧ (d.onCore i f).power = d.power ∧ (d.onCore i f).pins = d.pins ∧
    (d.onCore i f).ctxs = d.ctxs ∧ (d.onCore i f).caps = d.caps ∧ (d.onCore i f).prism = d.prism ∧ (d.onCore i f).codec = d.codec ∧
    (d.onCore i f).seqr = d.seqr ∧ (d.onCore i f).proxy = d.proxy ∧ (d.onCore i f).mags = d.mags ∧ (d.onCore i f).sent = d.sent :=
  ⟨rfl, rfl, rfl, rfl, rfl, rfl, rfl, rfl, rfl, rfl, rfl, rfl, rfl, rfl, rfl, rfl, rfl, rfl, rfl, rfl, rfl, rfl, rfl, rfl, rfl, rfl, rfl, rfl, rfl, rfl, rfl, rfl, rfl, rfl, rfl, rfl, rfl, rfl, rfl, rfl⟩

/-- `setReg` changes `regs` alone. -/
theorem Dev.setReg_shape (d : Dev) (feat o : Nat) (v : Word) : ∃ r : Tbl Word, d.setReg feat o v = { d with regs := r } := ⟨_, rfl⟩

/-- `setReg` and every other field of the device. -/
@[simp] theorem Dev.setReg_fields (d : Dev) (feat o : Nat) (v : Word) :
    (d.setReg feat o v).clk = d.clk ∧ (d.setReg feat o v).free = d.free ∧ (d.setReg feat o v).undef = d.undef ∧
    (d.setReg feat o v).off = d.off ∧ (d.setReg feat o v).seq = d.seq ∧ (d.setReg feat o v).stats = d.stats ∧
    (d.setReg feat o v).snap = d.snap ∧ (d.setReg feat o v).snapHidden = d.snapHidden ∧ (d.setReg feat o v).boot = d.boot ∧
    (d.setReg feat o v).otp = d.otp ∧ (d.setReg feat o v).staged = d.staged ∧ (d.setReg feat o v).host = d.host ∧
    (d.setReg feat o v).flt = d.flt ∧ (d.setReg feat o v).intr = d.intr ∧ (d.setReg feat o v).twk = d.twk ∧
    (d.setReg feat o v).bbx = d.bbx ∧ (d.setReg feat o v).sid = d.sid ∧ (d.setReg feat o v).tick = d.tick ∧
    (d.setReg feat o v).eth = d.eth ∧ (d.setReg feat o v).refillAt = d.refillAt ∧ (d.setReg feat o v).shapers = d.shapers ∧
    (d.setReg feat o v).policers = d.policers ∧ (d.setReg feat o v).link = d.link ∧ (d.setReg feat o v).fab = d.fab ∧
    (d.setReg feat o v).pools = d.pools ∧ (d.setReg feat o v).dram = d.dram ∧ (d.setReg feat o v).wports = d.wports ∧
    (d.setReg feat o v).dma = d.dma ∧ (d.setReg feat o v).dmaEvents = d.dmaEvents ∧ (d.setReg feat o v).power = d.power ∧
    (d.setReg feat o v).pins = d.pins ∧ (d.setReg feat o v).ctxs = d.ctxs ∧ (d.setReg feat o v).caps = d.caps ∧
    (d.setReg feat o v).prism = d.prism ∧ (d.setReg feat o v).codec = d.codec ∧ (d.setReg feat o v).seqr = d.seqr ∧
    (d.setReg feat o v).proxy = d.proxy ∧ (d.setReg feat o v).mags = d.mags ∧ (d.setReg feat o v).sent = d.sent := by
  obtain ⟨r, h⟩ := d.setReg_shape feat o v
  rw [h]
  exact ⟨rfl, rfl, rfl, rfl, rfl, rfl, rfl, rfl, rfl, rfl, rfl, rfl, rfl, rfl, rfl, rfl, rfl, rfl, rfl, rfl, rfl, rfl, rfl, rfl, rfl, rfl, rfl, rfl, rfl, rfl, rfl, rfl, rfl, rfl, rfl, rfl, rfl, rfl, rfl⟩

/-- `bump` changes `regs` alone. -/
theorem Dev.bump_shape (d : Dev) (feat o n : Nat) : ∃ r : Tbl Word, d.bump feat o n = { d with regs := r } := Dev.setReg_shape d feat o _

/-- `bump` and every other field of the device. -/
@[simp] theorem Dev.bump_fields (d : Dev) (feat o n : Nat) :
    (d.bump feat o n).clk = d.clk ∧ (d.bump feat o n).free = d.free ∧ (d.bump feat o n).undef = d.undef ∧ (d.bump feat o n).off = d.off ∧
    (d.bump feat o n).seq = d.seq ∧ (d.bump feat o n).stats = d.stats ∧ (d.bump feat o n).snap = d.snap ∧
    (d.bump feat o n).snapHidden = d.snapHidden ∧ (d.bump feat o n).boot = d.boot ∧ (d.bump feat o n).otp = d.otp ∧
    (d.bump feat o n).staged = d.staged ∧ (d.bump feat o n).host = d.host ∧ (d.bump feat o n).flt = d.flt ∧
    (d.bump feat o n).intr = d.intr ∧ (d.bump feat o n).twk = d.twk ∧ (d.bump feat o n).bbx = d.bbx ∧ (d.bump feat o n).sid = d.sid ∧
    (d.bump feat o n).tick = d.tick ∧ (d.bump feat o n).eth = d.eth ∧ (d.bump feat o n).refillAt = d.refillAt ∧
    (d.bump feat o n).shapers = d.shapers ∧ (d.bump feat o n).policers = d.policers ∧ (d.bump feat o n).link = d.link ∧
    (d.bump feat o n).fab = d.fab ∧ (d.bump feat o n).pools = d.pools ∧ (d.bump feat o n).dram = d.dram ∧
    (d.bump feat o n).wports = d.wports ∧ (d.bump feat o n).dma = d.dma ∧ (d.bump feat o n).dmaEvents = d.dmaEvents ∧
    (d.bump feat o n).power = d.power ∧ (d.bump feat o n).pins = d.pins ∧ (d.bump feat o n).ctxs = d.ctxs ∧
    (d.bump feat o n).caps = d.caps ∧ (d.bump feat o n).prism = d.prism ∧ (d.bump feat o n).codec = d.codec ∧
    (d.bump feat o n).seqr = d.seqr ∧ (d.bump feat o n).proxy = d.proxy ∧ (d.bump feat o n).mags = d.mags ∧
    (d.bump feat o n).sent = d.sent := by
  obtain ⟨r, h⟩ := d.bump_shape feat o n
  rw [h]
  exact ⟨rfl, rfl, rfl, rfl, rfl, rfl, rfl, rfl, rfl, rfl, rfl, rfl, rfl, rfl, rfl, rfl, rfl, rfl, rfl, rfl, rfl, rfl, rfl, rfl, rfl, rfl, rfl, rfl, rfl, rfl, rfl, rfl, rfl, rfl, rfl, rfl, rfl, rfl, rfl⟩

/-- `setBit` changes `regs` alone. -/
theorem Dev.setBit_shape (d : Dev) (feat o i : Nat) (b : Bool) : ∃ r : Tbl Word, d.setBit feat o i b = { d with regs := r } := Dev.setReg_shape d feat o _

/-- `setBit` and every other field of the device. -/
@[simp] theorem Dev.setBit_fields (d : Dev) (feat o i : Nat) (b : Bool) :
    (d.setBit feat o i b).clk = d.clk ∧ (d.setBit feat o i b).free = d.free ∧ (d.setBit feat o i b).undef = d.undef ∧
    (d.setBit feat o i b).off = d.off ∧ (d.setBit feat o i b).seq = d.seq ∧ (d.setBit feat o i b).stats = d.stats ∧
    (d.setBit feat o i b).snap = d.snap ∧ (d.setBit feat o i b).snapHidden = d.snapHidden ∧ (d.setBit feat o i b).boot = d.boot ∧
    (d.setBit feat o i b).otp = d.otp ∧ (d.setBit feat o i b).staged = d.staged ∧ (d.setBit feat o i b).host = d.host ∧
    (d.setBit feat o i b).flt = d.flt ∧ (d.setBit feat o i b).intr = d.intr ∧ (d.setBit feat o i b).twk = d.twk ∧
    (d.setBit feat o i b).bbx = d.bbx ∧ (d.setBit feat o i b).sid = d.sid ∧ (d.setBit feat o i b).tick = d.tick ∧
    (d.setBit feat o i b).eth = d.eth ∧ (d.setBit feat o i b).refillAt = d.refillAt ∧ (d.setBit feat o i b).shapers = d.shapers ∧
    (d.setBit feat o i b).policers = d.policers ∧ (d.setBit feat o i b).link = d.link ∧ (d.setBit feat o i b).fab = d.fab ∧
    (d.setBit feat o i b).pools = d.pools ∧ (d.setBit feat o i b).dram = d.dram ∧ (d.setBit feat o i b).wports = d.wports ∧
    (d.setBit feat o i b).dma = d.dma ∧ (d.setBit feat o i b).dmaEvents = d.dmaEvents ∧ (d.setBit feat o i b).power = d.power ∧
    (d.setBit feat o i b).pins = d.pins ∧ (d.setBit feat o i b).ctxs = d.ctxs ∧ (d.setBit feat o i b).caps = d.caps ∧
    (d.setBit feat o i b).prism = d.prism ∧ (d.setBit feat o i b).codec = d.codec ∧ (d.setBit feat o i b).seqr = d.seqr ∧
    (d.setBit feat o i b).proxy = d.proxy ∧ (d.setBit feat o i b).mags = d.mags ∧ (d.setBit feat o i b).sent = d.sent := by
  obtain ⟨r, h⟩ := d.setBit_shape feat o i b
  rw [h]
  exact ⟨rfl, rfl, rfl, rfl, rfl, rfl, rfl, rfl, rfl, rfl, rfl, rfl, rfl, rfl, rfl, rfl, rfl, rfl, rfl, rfl, rfl, rfl, rfl, rfl, rfl, rfl, rfl, rfl, rfl, rfl, rfl, rfl, rfl, rfl, rfl, rfl, rfl, rfl, rfl⟩

/-- `setReg64` changes `regs` alone. -/
theorem Dev.setReg64_shape (d : Dev) (feat o v : Nat) : ∃ r : Tbl Word, d.setReg64 feat o v = { d with regs := r } := by
  obtain ⟨r, h⟩ := Dev.setReg_shape d feat o (lo32 v)
  obtain ⟨q, k⟩ := Dev.setReg_shape (d.setReg feat o (lo32 v)) feat (o + 4) (hi32 v)
  exact ⟨q, by rw [Dev.setReg64, k, h]⟩

/-- `setReg64` and every other field of the device. -/
@[simp] theorem Dev.setReg64_fields (d : Dev) (feat o v : Nat) :
    (d.setReg64 feat o v).clk = d.clk ∧ (d.setReg64 feat o v).free = d.free ∧ (d.setReg64 feat o v).undef = d.undef ∧
    (d.setReg64 feat o v).off = d.off ∧ (d.setReg64 feat o v).seq = d.seq ∧ (d.setReg64 feat o v).stats = d.stats ∧
    (d.setReg64 feat o v).snap = d.snap ∧ (d.setReg64 feat o v).snapHidden = d.snapHidden ∧ (d.setReg64 feat o v).boot = d.boot ∧
    (d.setReg64 feat o v).otp = d.otp ∧ (d.setReg64 feat o v).staged = d.staged ∧ (d.setReg64 feat o v).host = d.host ∧
    (d.setReg64 feat o v).flt = d.flt ∧ (d.setReg64 feat o v).intr = d.intr ∧ (d.setReg64 feat o v).twk = d.twk ∧
    (d.setReg64 feat o v).bbx = d.bbx ∧ (d.setReg64 feat o v).sid = d.sid ∧ (d.setReg64 feat o v).tick = d.tick ∧
    (d.setReg64 feat o v).eth = d.eth ∧ (d.setReg64 feat o v).refillAt = d.refillAt ∧ (d.setReg64 feat o v).shapers = d.shapers ∧
    (d.setReg64 feat o v).policers = d.policers ∧ (d.setReg64 feat o v).link = d.link ∧ (d.setReg64 feat o v).fab = d.fab ∧
    (d.setReg64 feat o v).pools = d.pools ∧ (d.setReg64 feat o v).dram = d.dram ∧ (d.setReg64 feat o v).wports = d.wports ∧
    (d.setReg64 feat o v).dma = d.dma ∧ (d.setReg64 feat o v).dmaEvents = d.dmaEvents ∧ (d.setReg64 feat o v).power = d.power ∧
    (d.setReg64 feat o v).pins = d.pins ∧ (d.setReg64 feat o v).ctxs = d.ctxs ∧ (d.setReg64 feat o v).caps = d.caps ∧
    (d.setReg64 feat o v).prism = d.prism ∧ (d.setReg64 feat o v).codec = d.codec ∧ (d.setReg64 feat o v).seqr = d.seqr ∧
    (d.setReg64 feat o v).proxy = d.proxy ∧ (d.setReg64 feat o v).mags = d.mags ∧ (d.setReg64 feat o v).sent = d.sent := by
  obtain ⟨r, h⟩ := d.setReg64_shape feat o v
  rw [h]
  exact ⟨rfl, rfl, rfl, rfl, rfl, rfl, rfl, rfl, rfl, rfl, rfl, rfl, rfl, rfl, rfl, rfl, rfl, rfl, rfl, rfl, rfl, rfl, rfl, rfl, rfl, rfl, rfl, rfl, rfl, rfl, rfl, rfl, rfl, rfl, rfl, rfl, rfl, rfl, rfl⟩

/-- `count` changes `stats` alone. -/
theorem Dev.count_shape (d : Dev) (o n : Nat) : ∃ r : Tbl Nat, d.count o n = { d with stats := r } := ⟨_, rfl⟩

/-- `count` and every other field of the device. -/
@[simp] theorem Dev.count_fields (d : Dev) (o n : Nat) :
    (d.count o n).clk = d.clk ∧ (d.count o n).free = d.free ∧ (d.count o n).undef = d.undef ∧ (d.count o n).off = d.off ∧
    (d.count o n).seq = d.seq ∧ (d.count o n).regs = d.regs ∧ (d.count o n).snap = d.snap ∧ (d.count o n).snapHidden = d.snapHidden ∧
    (d.count o n).boot = d.boot ∧ (d.count o n).otp = d.otp ∧ (d.count o n).staged = d.staged ∧ (d.count o n).host = d.host ∧
    (d.count o n).flt = d.flt ∧ (d.count o n).intr = d.intr ∧ (d.count o n).twk = d.twk ∧ (d.count o n).bbx = d.bbx ∧
    (d.count o n).sid = d.sid ∧ (d.count o n).tick = d.tick ∧ (d.count o n).eth = d.eth ∧ (d.count o n).refillAt = d.refillAt ∧
    (d.count o n).shapers = d.shapers ∧ (d.count o n).policers = d.policers ∧ (d.count o n).link = d.link ∧ (d.count o n).fab = d.fab ∧
    (d.count o n).pools = d.pools ∧ (d.count o n).dram = d.dram ∧ (d.count o n).wports = d.wports ∧ (d.count o n).dma = d.dma ∧
    (d.count o n).dmaEvents = d.dmaEvents ∧ (d.count o n).power = d.power ∧ (d.count o n).pins = d.pins ∧ (d.count o n).ctxs = d.ctxs ∧
    (d.count o n).caps = d.caps ∧ (d.count o n).prism = d.prism ∧ (d.count o n).codec = d.codec ∧ (d.count o n).seqr = d.seqr ∧
    (d.count o n).proxy = d.proxy ∧ (d.count o n).mags = d.mags ∧ (d.count o n).sent = d.sent := by
  obtain ⟨r, h⟩ := d.count_shape o n
  rw [h]
  exact ⟨rfl, rfl, rfl, rfl, rfl, rfl, rfl, rfl, rfl, rfl, rfl, rfl, rfl, rfl, rfl, rfl, rfl, rfl, rfl, rfl, rfl, rfl, rfl, rfl, rfl, rfl, rfl, rfl, rfl, rfl, rfl, rfl, rfl, rfl, rfl, rfl, rfl, rfl, rfl⟩

/-- `setCap` changes `caps` alone. -/
theorem Dev.setCap_shape (d : Dev) (i : Nat) (c : Option Cap) : ∃ r : Tbl (Option Cap), d.setCap i c = { d with caps := r } := ⟨_, rfl⟩

/-- `setCap` and every other field of the device. -/
@[simp] theorem Dev.setCap_fields (d : Dev) (i : Nat) (c : Option Cap) :
    (d.setCap i c).clk = d.clk ∧ (d.setCap i c).free = d.free ∧ (d.setCap i c).undef = d.undef ∧ (d.setCap i c).off = d.off ∧
    (d.setCap i c).seq = d.seq ∧ (d.setCap i c).regs = d.regs ∧ (d.setCap i c).stats = d.stats ∧ (d.setCap i c).snap = d.snap ∧
    (d.setCap i c).snapHidden = d.snapHidden ∧ (d.setCap i c).boot = d.boot ∧ (d.setCap i c).otp = d.otp ∧
    (d.setCap i c).staged = d.staged ∧ (d.setCap i c).host = d.host ∧ (d.setCap i c).flt = d.flt ∧ (d.setCap i c).intr = d.intr ∧
    (d.setCap i c).twk = d.twk ∧ (d.setCap i c).bbx = d.bbx ∧ (d.setCap i c).sid = d.sid ∧ (d.setCap i c).tick = d.tick ∧
    (d.setCap i c).eth = d.eth ∧ (d.setCap i c).refillAt = d.refillAt ∧ (d.setCap i c).shapers = d.shapers ∧
    (d.setCap i c).policers = d.policers ∧ (d.setCap i c).link = d.link ∧ (d.setCap i c).fab = d.fab ∧ (d.setCap i c).pools = d.pools ∧
    (d.setCap i c).dram = d.dram ∧ (d.setCap i c).wports = d.wports ∧ (d.setCap i c).dma = d.dma ∧
    (d.setCap i c).dmaEvents = d.dmaEvents ∧ (d.setCap i c).power = d.power ∧ (d.setCap i c).pins = d.pins ∧
    (d.setCap i c).ctxs = d.ctxs ∧ (d.setCap i c).prism = d.prism ∧ (d.setCap i c).codec = d.codec ∧ (d.setCap i c).seqr = d.seqr ∧
    (d.setCap i c).proxy = d.proxy ∧ (d.setCap i c).mags = d.mags ∧ (d.setCap i c).sent = d.sent := by
  obtain ⟨r, h⟩ := d.setCap_shape i c
  rw [h]
  exact ⟨rfl, rfl, rfl, rfl, rfl, rfl, rfl, rfl, rfl, rfl, rfl, rfl, rfl, rfl, rfl, rfl, rfl, rfl, rfl, rfl, rfl, rfl, rfl, rfl, rfl, rfl, rfl, rfl, rfl, rfl, rfl, rfl, rfl, rfl, rfl, rfl, rfl, rfl, rfl⟩

/-- `emit` and every field of the device. -/
@[simp] theorem Dev.emit_fields (d : Dev) (e : Emission) :
    (d.emit e).sent = e :: d.sent ∧ (d.emit e).clk = d.clk ∧ (d.emit e).free = d.free ∧ (d.emit e).undef = d.undef ∧
    (d.emit e).off = d.off ∧ (d.emit e).seq = d.seq ∧ (d.emit e).regs = d.regs ∧ (d.emit e).stats = d.stats ∧ (d.emit e).snap = d.snap ∧
    (d.emit e).snapHidden = d.snapHidden ∧ (d.emit e).boot = d.boot ∧ (d.emit e).otp = d.otp ∧ (d.emit e).staged = d.staged ∧
    (d.emit e).host = d.host ∧ (d.emit e).flt = d.flt ∧ (d.emit e).intr = d.intr ∧ (d.emit e).twk = d.twk ∧ (d.emit e).bbx = d.bbx ∧
    (d.emit e).sid = d.sid ∧ (d.emit e).tick = d.tick ∧ (d.emit e).eth = d.eth ∧ (d.emit e).refillAt = d.refillAt ∧
    (d.emit e).shapers = d.shapers ∧ (d.emit e).policers = d.policers ∧ (d.emit e).link = d.link ∧ (d.emit e).fab = d.fab ∧
    (d.emit e).pools = d.pools ∧ (d.emit e).dram = d.dram ∧ (d.emit e).wports = d.wports ∧ (d.emit e).dma = d.dma ∧
    (d.emit e).dmaEvents = d.dmaEvents ∧ (d.emit e).power = d.power ∧ (d.emit e).pins = d.pins ∧ (d.emit e).ctxs = d.ctxs ∧
    (d.emit e).caps = d.caps ∧ (d.emit e).prism = d.prism ∧ (d.emit e).codec = d.codec ∧ (d.emit e).seqr = d.seqr ∧
    (d.emit e).proxy = d.proxy ∧ (d.emit e).mags = d.mags :=
  ⟨rfl, rfl, rfl, rfl, rfl, rfl, rfl, rfl, rfl, rfl, rfl, rfl, rfl, rfl, rfl, rfl, rfl, rfl, rfl, rfl, rfl, rfl, rfl, rfl, rfl, rfl, rfl, rfl, rfl, rfl, rfl, rfl, rfl, rfl, rfl, rfl, rfl, rfl, rfl, rfl⟩

/-- `stamped` and every field of the device. -/
@[simp] theorem Dev.stamped_fields (d : Dev) :
    (d.stamped).seq = (d.seq + 1) % 2 ^ 20 ∧ (d.stamped).clk = d.clk ∧ (d.stamped).free = d.free ∧ (d.stamped).undef = d.undef ∧
    (d.stamped).off = d.off ∧ (d.stamped).regs = d.regs ∧ (d.stamped).stats = d.stats ∧ (d.stamped).snap = d.snap ∧
    (d.stamped).snapHidden = d.snapHidden ∧ (d.stamped).boot = d.boot ∧ (d.stamped).otp = d.otp ∧ (d.stamped).staged = d.staged ∧
    (d.stamped).host = d.host ∧ (d.stamped).flt = d.flt ∧ (d.stamped).intr = d.intr ∧ (d.stamped).twk = d.twk ∧ (d.stamped).bbx = d.bbx ∧
    (d.stamped).sid = d.sid ∧ (d.stamped).tick = d.tick ∧ (d.stamped).eth = d.eth ∧ (d.stamped).refillAt = d.refillAt ∧
    (d.stamped).shapers = d.shapers ∧ (d.stamped).policers = d.policers ∧ (d.stamped).link = d.link ∧ (d.stamped).fab = d.fab ∧
    (d.stamped).pools = d.pools ∧ (d.stamped).dram = d.dram ∧ (d.stamped).wports = d.wports ∧ (d.stamped).dma = d.dma ∧
    (d.stamped).dmaEvents = d.dmaEvents ∧ (d.stamped).power = d.power ∧ (d.stamped).pins = d.pins ∧ (d.stamped).ctxs = d.ctxs ∧
    (d.stamped).caps = d.caps ∧ (d.stamped).prism = d.prism ∧ (d.stamped).codec = d.codec ∧ (d.stamped).seqr = d.seqr ∧
    (d.stamped).proxy = d.proxy ∧ (d.stamped).mags = d.mags ∧ (d.stamped).sent = d.sent :=
  ⟨rfl, rfl, rfl, rfl, rfl, rfl, rfl, rfl, rfl, rfl, rfl, rfl, rfl, rfl, rfl, rfl, rfl, rfl, rfl, rfl, rfl, rfl, rfl, rfl, rfl, rfl, rfl, rfl, rfl, rfl, rfl, rfl, rfl, rfl, rfl, rfl, rfl, rfl, rfl, rfl⟩

/-- `afterDraw` and every field of the device. -/
@[simp] theorem Dev.afterDraw_fields (d : Dev) :
    (d.afterDraw).free = d.free + 1 ∧ (d.afterDraw).clk = d.clk ∧ (d.afterDraw).undef = d.undef ∧ (d.afterDraw).off = d.off ∧
    (d.afterDraw).seq = d.seq ∧ (d.afterDraw).regs = d.regs ∧ (d.afterDraw).stats = d.stats ∧ (d.afterDraw).snap = d.snap ∧
    (d.afterDraw).snapHidden = d.snapHidden ∧ (d.afterDraw).boot = d.boot ∧ (d.afterDraw).otp = d.otp ∧ (d.afterDraw).staged = d.staged ∧
    (d.afterDraw).host = d.host ∧ (d.afterDraw).flt = d.flt ∧ (d.afterDraw).intr = d.intr ∧ (d.afterDraw).twk = d.twk ∧
    (d.afterDraw).bbx = d.bbx ∧ (d.afterDraw).sid = d.sid ∧ (d.afterDraw).tick = d.tick ∧ (d.afterDraw).eth = d.eth ∧
    (d.afterDraw).refillAt = d.refillAt ∧ (d.afterDraw).shapers = d.shapers ∧ (d.afterDraw).policers = d.policers ∧
    (d.afterDraw).link = d.link ∧ (d.afterDraw).fab = d.fab ∧ (d.afterDraw).pools = d.pools ∧ (d.afterDraw).dram = d.dram ∧
    (d.afterDraw).wports = d.wports ∧ (d.afterDraw).dma = d.dma ∧ (d.afterDraw).dmaEvents = d.dmaEvents ∧ (d.afterDraw).power = d.power ∧
    (d.afterDraw).pins = d.pins ∧ (d.afterDraw).ctxs = d.ctxs ∧ (d.afterDraw).caps = d.caps ∧ (d.afterDraw).prism = d.prism ∧
    (d.afterDraw).codec = d.codec ∧ (d.afterDraw).seqr = d.seqr ∧ (d.afterDraw).proxy = d.proxy ∧ (d.afterDraw).mags = d.mags ∧
    (d.afterDraw).sent = d.sent :=
  ⟨rfl, rfl, rfl, rfl, rfl, rfl, rfl, rfl, rfl, rfl, rfl, rfl, rfl, rfl, rfl, rfl, rfl, rfl, rfl, rfl, rfl, rfl, rfl, rfl, rfl, rfl, rfl, rfl, rfl, rfl, rfl, rfl, rfl, rfl, rfl, rfl, rfl, rfl, rfl, rfl⟩

end Sys2Proof.Machine
end

