-- ==== Sys2Proof/Laws/Frame.lean ====
section
/-! SUPPORT. Frames: what an operation may change, that it keeps the shape of the device and the canonical form of the
memories, and that crystal time never runs back; each as one relation that composes. -/

namespace Sys2Proof.Machine
open Sys2Proof

/-- Number of a part in a set of parts. -/
def Part.code : Part → Nat
  | .clk => 0
  | .free => 1
  | .undef => 2
  | .off => 3
  | .seq => 4
  | .stats => 5
  | .snap => 6
  | .boot => 7
  | .otp => 8
  | .staged => 9
  | .mailboxes => 10
  | .sqs => 11
  | .cqs => 12
  | .turns => 13
  | .admin => 14
  | .commands => 15
  | .events => 16
  | .errorLog => 17
  | .logs => 18
  | .admission => 19
  | .access => 20
  | .msix => 21
  | .flt => 22
  | .intr => 23
  | .twk => 24
  | .bbx => 25
  | .sid => 26
  | .tick => 27
  | .eth => 28
  | .refillAt => 29
  | .shapers => 30
  | .policers => 31
  | .link => 32
  | .fab => 33
  | .pools => 34
  | .dram => 35
  | .wports => 36
  | .dma => 37
  | .dmaEvents => 38
  | .power => 39
  | .pins => 40
  | .ctxs => 41
  | .caps => 42
  | .prism => 43
  | .codec => 44
  | .seqr => 45
  | .proxy => 46
  | .mags => 47
  | .sent => 48
  | .hostMem => 49
  | .dramMem => 50
  | .nor => 51
  | .mram => 52
  | .carriers => 53
  | .feat f => 64 + f.val

/-- A set of parts as one number. -/
def setOf (l : List Part) : Nat := l.foldr (fun p n => n ||| 2 ^ p.code) 0

/-- The registers of every feature. -/
def everyFeat : Nat := 2 ^ 128 - 2 ^ 64

/-- The device changes in the parts of `ps` at most, keeps its shape, and its crystal time does not run back. -/
structure Dev.Tame (ps : Nat) (d e : Dev) : Prop where
  same : ∀ p : Part, ps.testBit p.code = false → p.same { dev := d } { dev := e }
  clk : d.clk ≤ e.clk
  shape : d.Shape → e.Shape

/-- The memories change in the parts of `ps` at most and keep their canonical form. -/
structure Mem.Tame (ps : Nat) (m n : Mem) : Prop where
  same : ∀ p : Part, ps.testBit p.code = false → p.same { mem := m } { mem := n }
  wf : m.wf = true → n.wf = true

/-- Sameness of a part is transitive. -/
theorem Part.same_trans (p : Part) {a b c : Mach} (h : p.same a b) (k : p.same b c) : p.same a c := by
  cases p <;> simp_all only [Part.same, implies_true, and_self]

/-- Every part is the same as itself. -/
theorem Part.same_refl (p : Part) (a : Mach) : p.same a a := by
  cases p <;> simp only [Part.same, implies_true, and_self]

theorem Dev.Tame.refl (ps : Nat) (d : Dev) : Dev.Tame ps d d := ⟨fun p _ => p.same_refl _, Nat.le_refl _, id⟩

theorem Mem.Tame.refl (ps : Nat) (d : Mem) : Mem.Tame ps d d := ⟨fun p _ => p.same_refl _, id⟩

theorem Dev.Tame.trans {ps : Nat} {a b c : Dev} (h : Dev.Tame ps a b) (k : Dev.Tame ps b c) : Dev.Tame ps a c :=
  ⟨fun p hp => p.same_trans (h.same p hp) (k.same p hp), Nat.le_trans h.clk k.clk, fun x => k.shape (h.shape x)⟩

theorem Mem.Tame.trans {ps : Nat} {a b c : Mem} (h : Mem.Tame ps a b) (k : Mem.Tame ps b c) : Mem.Tame ps a c :=
  ⟨fun p hp => p.same_trans (h.same p hp) (k.same p hp), fun x => k.wf (h.wf x)⟩

/-- A bit clear in a set is clear in its subsets. -/
theorem testBit_of_sub {qs ps : Nat} (h : qs ||| ps = ps) {i : Nat} (hi : ps.testBit i = false) : qs.testBit i = false := by
  rw [← h, Nat.testBit_or, Bool.or_eq_false_iff] at hi
  exact hi.1

theorem Dev.Tame.mono {qs ps : Nat} {a b : Dev} (k : Dev.Tame qs a b) (h : qs ||| ps = ps) : Dev.Tame ps a b :=
  ⟨fun p hp => k.same p (testBit_of_sub h hp), k.clk, k.shape⟩

theorem Mem.Tame.mono {qs ps : Nat} {a b : Mem} (k : Mem.Tame qs a b) (h : qs ||| ps = ps) : Mem.Tame ps a b :=
  ⟨fun p hp => k.same p (testBit_of_sub h hp), k.wf⟩

/-- One more change after others. -/
theorem Dev.Tame.next {qs ps : Nat} {a b c : Dev} (k : Dev.Tame qs b c) (h : qs ||| ps = ps) (g : Dev.Tame ps a b) :
    Dev.Tame ps a c := g.trans (k.mono h)

theorem Mem.Tame.next {qs ps : Nat} {a b c : Mem} (k : Mem.Tame qs b c) (h : qs ||| ps = ps) (g : Mem.Tame ps a b) :
    Mem.Tame ps a c := g.trans (k.mono h)

theorem Dev.tame_ite {ps : Nat} {d a b : Dev} {c : Prop} [Decidable c] (h : Dev.Tame ps d a) (k : Dev.Tame ps d b) :
    Dev.Tame ps d (if c then a else b) := by split <;> assumption

theorem Mem.tame_ite {ps : Nat} {d a b : Mem} {c : Prop} [Decidable c] (h : Mem.Tame ps d a) (k : Mem.Tame ps d b) :
    Mem.Tame ps d (if c then a else b) := by split <;> assumption

theorem Mach.tame_mk_dev {ps : Nat} {d e : Dev} {m : Mem} (h : Dev.Tame ps d e) : Dev.Tame ps d (Mach.mk e m).dev := h

theorem Mach.tame_mk_mem {ps : Nat} {d : Mem} {e : Dev} {m : Mem} (h : Mem.Tame ps d m) : Mem.Tame ps d (Mach.mk e m).mem := h

theorem onDev_tame_dev {ps : Nat} {d : Dev} {f : Dev → Dev} {m : Mach} (h : Dev.Tame ps d (f m.dev)) :
    Dev.Tame ps d (onDev f m).dev := h

theorem onDev_tame_mem {ps : Nat} {d : Mem} {f : Dev → Dev} {m : Mach} (h : Mem.Tame ps d m.mem) :
    Mem.Tame ps d (onDev f m).mem := h

theorem Mach.tame_ite_dev {ps : Nat} {d : Dev} {a b : Mach} {c : Prop} [Decidable c] (h : Dev.Tame ps d a.dev)
    (k : Dev.Tame ps d b.dev) : Dev.Tame ps d (if c then a else b).dev := by split <;> assumption

theorem Mach.tame_ite_mem {ps : Nat} {d : Mem} {a b : Mach} {c : Prop} [Decidable c] (h : Mem.Tame ps d a.mem)
    (k : Mem.Tame ps d b.mem) : Mem.Tame ps d (if c then a else b).mem := by split <;> assumption

theorem Dev.tame_onlyIf {ps : Nat} {d a : Dev} {c : Bool} {f : Dev → Dev} (h : Dev.Tame ps d a) (k : Dev.Tame ps d (f a)) :
    Dev.Tame ps d (onlyIf c f a) := by unfold onlyIf; split <;> assumption

theorem Dev.tame_withSome {β : Type} {ps : Nat} {d a : Dev} {o : Option β} {f : β → Dev → Dev} (h : Dev.Tame ps d a)
    (k : ∀ x, Dev.Tame ps d (f x a)) : Dev.Tame ps d (withSome o f a) := by
  unfold withSome
  split
  · exact k _
  · exact h

/-- A fold whose every step is tame. -/
theorem Dev.tame_foldl {β : Type} {ps : Nat} {d a : Dev} {l : List β} {f : Dev → β → Dev} (h : Dev.Tame ps d a)
    (k : ∀ e x, Dev.Tame ps d e → Dev.Tame ps d (f e x)) : Dev.Tame ps d (l.foldl f a) := by
  induction l generalizing a with
  | nil => exact h
  | cons x r ih => exact ih (k _ _ h)

theorem Mem.tame_foldl {β : Type} {ps : Nat} {d a : Mem} {l : List β} {f : Mem → β → Mem} (h : Mem.Tame ps d a)
    (k : ∀ e x, Mem.Tame ps d e → Mem.Tame ps d (f e x)) : Mem.Tame ps d (l.foldl f a) := by
  induction l generalizing a with
  | nil => exact h
  | cons x r ih => exact ih (k _ _ h)

/-- A fold over machines whose every step is tame. -/
theorem Mach.tame_foldl_dev {β : Type} {ps : Nat} {d : Dev} {a : Mach} {l : List β} {f : Mach → β → Mach}
    (h : Dev.Tame ps d a.dev) (k : ∀ e x, Dev.Tame ps d e.dev → Dev.Tame ps d (f e x).dev) :
    Dev.Tame ps d (l.foldl f a).dev := by
  induction l generalizing a with
  | nil => exact h
  | cons x r ih => exact ih (k _ _ h)

theorem Mach.tame_foldl_mem {β : Type} {ps : Nat} {d : Mem} {a : Mach} {l : List β} {f : Mach → β → Mach}
    (h : Mem.Tame ps d a.mem) (k : ∀ e x, Mem.Tame ps d e.mem → Mem.Tame ps d (f e x).mem) :
    Mem.Tame ps d (l.foldl f a).mem := by
  induction l generalizing a with
  | nil => exact h
  | cons x r ih => exact ih (k _ _ h)

/-- An element replaced keeps the length of a list. -/
@[simp] theorem modAt_length {α : Type} (l : List α) (i : Nat) (f : α → α) : (modAt l i f).length = l.length := by
  induction l generalizing i with
  | nil => rfl
  | cons x r ih => cases i <;> simp [modAt, ih]

theorem Dev.tame_free {ps : Nat} {d X : Dev} {v} (hp : ps.testBit 1 = true) (h : Dev.Tame ps d X) :
    Dev.Tame ps d { X with free := v } := by
  refine ⟨fun p hq => ?_, h.clk, fun x => h.shape x⟩
  have g := h.same p hq
  cases p <;> first | exact g | exact absurd hq (by simp only [Part.code, hp]; decide)

theorem Dev.tame_undef {ps : Nat} {d X : Dev} {v} (hp : ps.testBit 2 = true) (h : Dev.Tame ps d X) :
    Dev.Tame ps d { X with undef := v } := by
  refine ⟨fun p hq => ?_, h.clk, fun x => h.shape x⟩
  have g := h.same p hq
  cases p <;> first | exact g | exact absurd hq (by simp only [Part.code, hp]; decide)

theorem Dev.tame_off {ps : Nat} {d X : Dev} {v} (hp : ps.testBit 3 = true) (h : Dev.Tame ps d X) :
    Dev.Tame ps d { X with off := v } := by
  refine ⟨fun p hq => ?_, h.clk, fun x => h.shape x⟩
  have g := h.same p hq
  cases p <;> first | exact g | exact absurd hq (by simp only [Part.code, hp]; decide)

theorem Dev.tame_seq {ps : Nat} {d X : Dev} {v} (hp : ps.testBit 4 = true)
    (hl : X.seq < 2 ^ 20 → v < 2 ^ 20) (h : Dev.Tame ps d X) :
    Dev.Tame ps d { X with seq := v } := by
  refine ⟨fun p hq => ?_, h.clk, fun x => by
    have s := h.shape x
    exact ⟨hl s.1, s.2⟩⟩
  have g := h.same p hq
  cases p <;> first | exact g | exact absurd hq (by simp only [Part.code, hp]; decide)

theorem Dev.tame_stats {ps : Nat} {d X : Dev} {v} (hp : ps.testBit 5 = true) (h : Dev.Tame ps d X) :
    Dev.Tame ps d { X with stats := v } := by
  refine ⟨fun p hq => ?_, h.clk, fun x => h.shape x⟩
  have g := h.same p hq
  cases p <;> first | exact g | exact absurd hq (by simp only [Part.code, hp]; decide)

theorem Dev.tame_snap {ps : Nat} {d X : Dev} {v} (hp : ps.testBit 6 = true) (h : Dev.Tame ps d X) :
    Dev.Tame ps d { X with snap := v } := by
  refine ⟨fun p hq => ?_, h.clk, fun x => h.shape x⟩
  have g := h.same p hq
  cases p <;> first | exact g | exact absurd hq (by simp only [Part.code, hp]; decide)

theorem Dev.tame_snapHidden {ps : Nat} {d X : Dev} {v} (hp : ps.testBit 6 = true) (h : Dev.Tame ps d X) :
    Dev.Tame ps d { X with snapHidden := v } := by
  refine ⟨fun p hq => ?_, h.clk, fun x => h.shape x⟩
  have g := h.same p hq
  cases p <;> first | exact g | exact absurd hq (by simp only [Part.code, hp]; decide)

theorem Dev.tame_boot {ps : Nat} {d X : Dev} {v} (hp : ps.testBit 7 = true) (h : Dev.Tame ps d X) :
    Dev.Tame ps d { X with boot := v } := by
  refine ⟨fun p hq => ?_, h.clk, fun x => h.shape x⟩
  have g := h.same p hq
  cases p <;> first | exact g | exact absurd hq (by simp only [Part.code, hp]; decide)

theorem Dev.tame_otp {ps : Nat} {d X : Dev} {v} (hp : ps.testBit 8 = true) (h : Dev.Tame ps d X) :
    Dev.Tame ps d { X with otp := v } := by
  refine ⟨fun p hq => ?_, h.clk, fun x => h.shape x⟩
  have g := h.same p hq
  cases p <;> first | exact g | exact absurd hq (by simp only [Part.code, hp]; decide)

theorem Dev.tame_staged {ps : Nat} {d X : Dev} {v} (hp : ps.testBit 9 = true) (h : Dev.Tame ps d X) :
    Dev.Tame ps d { X with staged := v } := by
  refine ⟨fun p hq => ?_, h.clk, fun x => h.shape x⟩
  have g := h.same p hq
  cases p <;> first | exact g | exact absurd hq (by simp only [Part.code, hp]; decide)

theorem Dev.tame_flt {ps : Nat} {d X : Dev} {v} (hp : ps.testBit 22 = true) (h : Dev.Tame ps d X) :
    Dev.Tame ps d { X with flt := v } := by
  refine ⟨fun p hq => ?_, h.clk, fun x => h.shape x⟩
  have g := h.same p hq
  cases p <;> first | exact g | exact absurd hq (by simp only [Part.code, hp]; decide)

theorem Dev.tame_intr {ps : Nat} {d X : Dev} {v} (hp : ps.testBit 23 = true) (h : Dev.Tame ps d X) :
    Dev.Tame ps d { X with intr := v } := by
  refine ⟨fun p hq => ?_, h.clk, fun x => h.shape x⟩
  have g := h.same p hq
  cases p <;> first | exact g | exact absurd hq (by simp only [Part.code, hp]; decide)

theorem Dev.tame_twk {ps : Nat} {d X : Dev} {v} (hp : ps.testBit 24 = true) (h : Dev.Tame ps d X) :
    Dev.Tame ps d { X with twk := v } := by
  refine ⟨fun p hq => ?_, h.clk, fun x => h.shape x⟩
  have g := h.same p hq
  cases p <;> first | exact g | exact absurd hq (by simp only [Part.code, hp]; decide)

theorem Dev.tame_bbx {ps : Nat} {d X : Dev} {v} (hp : ps.testBit 25 = true) (h : Dev.Tame ps d X) :
    Dev.Tame ps d { X with bbx := v } := by
  refine ⟨fun p hq => ?_, h.clk, fun x => h.shape x⟩
  have g := h.same p hq
  cases p <;> first | exact g | exact absurd hq (by simp only [Part.code, hp]; decide)

theorem Dev.tame_sid {ps : Nat} {d X : Dev} {v} (hp : ps.testBit 26 = true) (h : Dev.Tame ps d X) :
    Dev.Tame ps d { X with sid := v } := by
  refine ⟨fun p hq => ?_, h.clk, fun x => h.shape x⟩
  have g := h.same p hq
  cases p <;> first | exact g | exact absurd hq (by simp only [Part.code, hp]; decide)

theorem Dev.tame_tick {ps : Nat} {d X : Dev} {v} (hp : ps.testBit 27 = true) (h : Dev.Tame ps d X) :
    Dev.Tame ps d { X with tick := v } := by
  refine ⟨fun p hq => ?_, h.clk, fun x => h.shape x⟩
  have g := h.same p hq
  cases p <;> first | exact g | exact absurd hq (by simp only [Part.code, hp]; decide)

theorem Dev.tame_eth {ps : Nat} {d X : Dev} {v} (hp : ps.testBit 28 = true)
    (hl : X.eth.length = 2 → v.length = 2) (h : Dev.Tame ps d X) :
    Dev.Tame ps d { X with eth := v } := by
  refine ⟨fun p hq => ?_, h.clk, fun x => by
    have s := h.shape x
    exact ⟨s.1, hl (s.2.1), s.2.2.1, s.2.2.2.1, s.2.2.2.2.1, s.2.2.2.2.2.1, s.2.2.2.2.2.2⟩⟩
  have g := h.same p hq
  cases p <;> first | exact g | exact absurd hq (by simp only [Part.code, hp]; decide)

theorem Dev.tame_refillAt {ps : Nat} {d X : Dev} {v} (hp : ps.testBit 29 = true) (h : Dev.Tame ps d X) :
    Dev.Tame ps d { X with refillAt := v } := by
  refine ⟨fun p hq => ?_, h.clk, fun x => h.shape x⟩
  have g := h.same p hq
  cases p <;> first | exact g | exact absurd hq (by simp only [Part.code, hp]; decide)

theorem Dev.tame_shapers {ps : Nat} {d X : Dev} {v} (hp : ps.testBit 30 = true) (h : Dev.Tame ps d X) :
    Dev.Tame ps d { X with shapers := v } := by
  refine ⟨fun p hq => ?_, h.clk, fun x => h.shape x⟩
  have g := h.same p hq
  cases p <;> first | exact g | exact absurd hq (by simp only [Part.code, hp]; decide)

theorem Dev.tame_policers {ps : Nat} {d X : Dev} {v} (hp : ps.testBit 31 = true) (h : Dev.Tame ps d X) :
    Dev.Tame ps d { X with policers := v } := by
  refine ⟨fun p hq => ?_, h.clk, fun x => h.shape x⟩
  have g := h.same p hq
  cases p <;> first | exact g | exact absurd hq (by simp only [Part.code, hp]; decide)

theorem Dev.tame_link {ps : Nat} {d X : Dev} {v} (hp : ps.testBit 32 = true) (h : Dev.Tame ps d X) :
    Dev.Tame ps d { X with link := v } := by
  refine ⟨fun p hq => ?_, h.clk, fun x => h.shape x⟩
  have g := h.same p hq
  cases p <;> first | exact g | exact absurd hq (by simp only [Part.code, hp]; decide)

theorem Dev.tame_fab {ps : Nat} {d X : Dev} {v} (hp : ps.testBit 33 = true) (h : Dev.Tame ps d X) :
    Dev.Tame ps d { X with fab := v } := by
  refine ⟨fun p hq => ?_, h.clk, fun x => h.shape x⟩
  have g := h.same p hq
  cases p <;> first | exact g | exact absurd hq (by simp only [Part.code, hp]; decide)

theorem Dev.tame_pools {ps : Nat} {d X : Dev} {v} (hp : ps.testBit 34 = true) (h : Dev.Tame ps d X) :
    Dev.Tame ps d { X with pools := v } := by
  refine ⟨fun p hq => ?_, h.clk, fun x => h.shape x⟩
  have g := h.same p hq
  cases p <;> first | exact g | exact absurd hq (by simp only [Part.code, hp]; decide)

theorem Dev.tame_dram {ps : Nat} {d X : Dev} {v} (hp : ps.testBit 35 = true)
    (hl : X.dram.length = 4 → v.length = 4) (h : Dev.Tame ps d X) :
    Dev.Tame ps d { X with dram := v } := by
  refine ⟨fun p hq => ?_, h.clk, fun x => by
    have s := h.shape x
    exact ⟨s.1, s.2.1, hl (s.2.2.1), s.2.2.2.1, s.2.2.2.2.1, s.2.2.2.2.2.1, s.2.2.2.2.2.2⟩⟩
  have g := h.same p hq
  cases p <;> first | exact g | exact absurd hq (by simp only [Part.code, hp]; decide)

theorem Dev.tame_wports {ps : Nat} {d X : Dev} {v} (hp : ps.testBit 36 = true)
    (hl : X.wports.length = 4 → v.length = 4) (h : Dev.Tame ps d X) :
    Dev.Tame ps d { X with wports := v } := by
  refine ⟨fun p hq => ?_, h.clk, fun x => by
    have s := h.shape x
    exact ⟨s.1, s.2.1, s.2.2.1, hl (s.2.2.2.1), s.2.2.2.2.1, s.2.2.2.2.2.1, s.2.2.2.2.2.2⟩⟩
  have g := h.same p hq
  cases p <;> first | exact g | exact absurd hq (by simp only [Part.code, hp]; decide)

theorem Dev.tame_dma {ps : Nat} {d X : Dev} {v} (hp : ps.testBit 37 = true)
    (hl : X.dma.length = 32 → v.length = 32) (h : Dev.Tame ps d X) :
    Dev.Tame ps d { X with dma := v } := by
  refine ⟨fun p hq => ?_, h.clk, fun x => by
    have s := h.shape x
    exact ⟨s.1, s.2.1, s.2.2.1, s.2.2.2.1, hl (s.2.2.2.2.1), s.2.2.2.2.2.1, s.2.2.2.2.2.2⟩⟩
  have g := h.same p hq
  cases p <;> first | exact g | exact absurd hq (by simp only [Part.code, hp]; decide)

theorem Dev.tame_dmaEvents {ps : Nat} {d X : Dev} {v} (hp : ps.testBit 38 = true) (h : Dev.Tame ps d X) :
    Dev.Tame ps d { X with dmaEvents := v } := by
  refine ⟨fun p hq => ?_, h.clk, fun x => h.shape x⟩
  have g := h.same p hq
  cases p <;> first | exact g | exact absurd hq (by simp only [Part.code, hp]; decide)

theorem Dev.tame_power {ps : Nat} {d X : Dev} {v} (hp : ps.testBit 39 = true) (h : Dev.Tame ps d X) :
    Dev.Tame ps d { X with power := v } := by
  refine ⟨fun p hq => ?_, h.clk, fun x => h.shape x⟩
  have g := h.same p hq
  cases p <;> first | exact g | exact absurd hq (by simp only [Part.code, hp]; decide)

theorem Dev.tame_pins {ps : Nat} {d X : Dev} {v} (hp : ps.testBit 40 = true) (h : Dev.Tame ps d X) :
    Dev.Tame ps d { X with pins := v } := by
  refine ⟨fun p hq => ?_, h.clk, fun x => h.shape x⟩
  have g := h.same p hq
  cases p <;> first | exact g | exact absurd hq (by simp only [Part.code, hp]; decide)

theorem Dev.tame_ctxs {ps : Nat} {d X : Dev} {v} (hp : ps.testBit 41 = true) (h : Dev.Tame ps d X) :
    Dev.Tame ps d { X with ctxs := v } := by
  refine ⟨fun p hq => ?_, h.clk, fun x => h.shape x⟩
  have g := h.same p hq
  cases p <;> first | exact g | exact absurd hq (by simp only [Part.code, hp]; decide)

theorem Dev.tame_caps {ps : Nat} {d X : Dev} {v} (hp : ps.testBit 42 = true) (h : Dev.Tame ps d X) :
    Dev.Tame ps d { X with caps := v } := by
  refine ⟨fun p hq => ?_, h.clk, fun x => h.shape x⟩
  have g := h.same p hq
  cases p <;> first | exact g | exact absurd hq (by simp only [Part.code, hp]; decide)

theorem Dev.tame_prism {ps : Nat} {d X : Dev} {v} (hp : ps.testBit 43 = true) (h : Dev.Tame ps d X) :
    Dev.Tame ps d { X with prism := v } := by
  refine ⟨fun p hq => ?_, h.clk, fun x => h.shape x⟩
  have g := h.same p hq
  cases p <;> first | exact g | exact absurd hq (by simp only [Part.code, hp]; decide)

theorem Dev.tame_codec {ps : Nat} {d X : Dev} {v} (hp : ps.testBit 44 = true) (h : Dev.Tame ps d X) :
    Dev.Tame ps d { X with codec := v } := by
  refine ⟨fun p hq => ?_, h.clk, fun x => h.shape x⟩
  have g := h.same p hq
  cases p <;> first | exact g | exact absurd hq (by simp only [Part.code, hp]; decide)

theorem Dev.tame_seqr {ps : Nat} {d X : Dev} {v} (hp : ps.testBit 45 = true) (h : Dev.Tame ps d X) :
    Dev.Tame ps d { X with seqr := v } := by
  refine ⟨fun p hq => ?_, h.clk, fun x => h.shape x⟩
  have g := h.same p hq
  cases p <;> first | exact g | exact absurd hq (by simp only [Part.code, hp]; decide)

theorem Dev.tame_proxy {ps : Nat} {d X : Dev} {v} (hp : ps.testBit 46 = true) (h : Dev.Tame ps d X) :
    Dev.Tame ps d { X with proxy := v } := by
  refine ⟨fun p hq => ?_, h.clk, fun x => h.shape x⟩
  have g := h.same p hq
  cases p <;> first | exact g | exact absurd hq (by simp only [Part.code, hp]; decide)

theorem Dev.tame_mags {ps : Nat} {d X : Dev} {v} (hp : ps.testBit 47 = true)
    (hl : X.mags.length = 2 → v.length = 2) (h : Dev.Tame ps d X) :
    Dev.Tame ps d { X with mags := v } := by
  refine ⟨fun p hq => ?_, h.clk, fun x => by
    have s := h.shape x
    exact ⟨s.1, s.2.1, s.2.2.1, s.2.2.2.1, s.2.2.2.2.1, hl (s.2.2.2.2.2.1), s.2.2.2.2.2.2⟩⟩
  have g := h.same p hq
  cases p <;> first | exact g | exact absurd hq (by simp only [Part.code, hp]; decide)

theorem Dev.tame_sent {ps : Nat} {d X : Dev} {v} (hp : ps.testBit 48 = true) (h : Dev.Tame ps d X) :
    Dev.Tame ps d { X with sent := v } := by
  refine ⟨fun p hq => ?_, h.clk, fun x => h.shape x⟩
  have g := h.same p hq
  cases p <;> first | exact g | exact absurd hq (by simp only [Part.code, hp]; decide)

theorem Dev.tame_sid_tick {ps : Nat} {d X : Dev} {v0 v1} (h0 : ps.testBit 26 = true) (h1 : ps.testBit 27 = true) 
    (h : Dev.Tame ps d X) : Dev.Tame ps d { X with sid := v0, tick := v1 } :=
  Dev.tame_tick (X := { X with sid := v0 }) h1 (Dev.tame_sid h0 h)

theorem Dev.tame_link_mags {ps : Nat} {d X : Dev} {v0 v1} (h0 : ps.testBit 32 = true) (h1 : ps.testBit 47 = true) 
    (l1 : X.mags.length = 2 → v1.length = 2) (h : Dev.Tame ps d X) : Dev.Tame ps d { X with link := v0, mags := v1 } :=
  Dev.tame_mags (X := { X with link := v0 }) h1 l1 (Dev.tame_link h0 h)

theorem Dev.tame_otp_staged {ps : Nat} {d X : Dev} {v0 v1} (h0 : ps.testBit 8 = true) (h1 : ps.testBit 9 = true) 
    (h : Dev.Tame ps d X) : Dev.Tame ps d { X with otp := v0, staged := v1 } :=
  Dev.tame_staged (X := { X with otp := v0 }) h1 (Dev.tame_otp h0 h)

theorem Dev.tame_boot_dram {ps : Nat} {d X : Dev} {v0 v1} (h0 : ps.testBit 7 = true) (h1 : ps.testBit 35 = true) 
    (l1 : X.dram.length = 4 → v1.length = 4) (h : Dev.Tame ps d X) : Dev.Tame ps d { X with boot := v0, dram := v1 } :=
  Dev.tame_dram (X := { X with boot := v0 }) h1 l1 (Dev.tame_boot h0 h)

theorem Dev.tame_boot_twk_power {ps : Nat} {d X : Dev} {v0 v1 v2} (h0 : ps.testBit 7 = true) (h1 : ps.testBit 24 = true) (h2 : ps.testBit 39 = true) 
    (h : Dev.Tame ps d X) : Dev.Tame ps d { X with boot := v0, twk := v1, power := v2 } :=
  Dev.tame_power (X := { X with boot := v0, twk := v1 }) h2 (Dev.tame_twk (X := { X with boot := v0 }) h1 (Dev.tame_boot h0 h))

theorem Dev.tame_boot_intr_twk_power {ps : Nat} {d X : Dev} {v0 v1 v2 v3} (h0 : ps.testBit 7 = true) (h1 : ps.testBit 23 = true) (h2 : ps.testBit 24 = true) (h3 : ps.testBit 39 = true) 
    (h : Dev.Tame ps d X) : Dev.Tame ps d { X with boot := v0, intr := v1, twk := v2, power := v3 } :=
  Dev.tame_power (X := { X with boot := v0, intr := v1, twk := v2 }) h3 (Dev.tame_twk (X := { X with boot := v0, intr := v1 }) h2 (Dev.tame_intr (X := { X with boot := v0 }) h1 (Dev.tame_boot h0 h)))

theorem Dev.tame_boot_intr_twk_dram_power {ps : Nat} {d X : Dev} {v0 v1 v2 v3 v4} (h0 : ps.testBit 7 = true) (h1 : ps.testBit 23 = true) (h2 : ps.testBit 24 = true) (h3 : ps.testBit 35 = true) (h4 : ps.testBit 39 = true) 
    (l3 : X.dram.length = 4 → v3.length = 4) (h : Dev.Tame ps d X) : Dev.Tame ps d { X with boot := v0, intr := v1, twk := v2, dram := v3, power := v4 } :=
  Dev.tame_power (X := { X with boot := v0, intr := v1, twk := v2, dram := v3 }) h4 (Dev.tame_dram (X := { X with boot := v0, intr := v1, twk := v2 }) h3 l3 (Dev.tame_twk (X := { X with boot := v0, intr := v1 }) h2 (Dev.tame_intr (X := { X with boot := v0 }) h1 (Dev.tame_boot h0 h))))

theorem Dev.tame_snap_snapHidden_sid {ps : Nat} {d X : Dev} {v0 v1 v2} (h0 : ps.testBit 6 = true) (h1 : ps.testBit 6 = true) (h2 : ps.testBit 26 = true) 
    (h : Dev.Tame ps d X) : Dev.Tame ps d { X with snap := v0, snapHidden := v1, sid := v2 } :=
  Dev.tame_sid (X := { X with snap := v0, snapHidden := v1 }) h2 (Dev.tame_snapHidden (X := { X with snap := v0 }) h1 (Dev.tame_snap h0 h))

/-! Components of pairs -/

section
variable {α β : Type} {ps : Nat} {x : α} {y : β}

theorem Dev.Tame.of_snd {d e : Dev} {p : α × Dev} (h : p = (x, e)) (k : Dev.Tame ps d p.2) : Dev.Tame ps d e := by
  rw [h] at k; exact k

theorem Dev.Tame.of_fst {d e : Dev} {p : Dev × α} (h : p = (e, x)) (k : Dev.Tame ps d p.1) : Dev.Tame ps d e := by
  rw [h] at k; exact k

theorem Dev.Tame.of_snd_snd {d e : Dev} {p : α × β × Dev} (h : p = (x, y, e)) (k : Dev.Tame ps d p.2.2) :
    Dev.Tame ps d e := by
  rw [h] at k; exact k

theorem Mach.dev_of_snd {d : Dev} {m : Mach} {p : α × Mach} (h : p = (x, m)) (k : Dev.Tame ps d p.2.dev) :
    Dev.Tame ps d m.dev := by
  rw [h] at k; exact k

theorem Mach.dev_of_fst {d : Dev} {m : Mach} {p : Mach × α} (h : p = (m, x)) (k : Dev.Tame ps d p.1.dev) :
    Dev.Tame ps d m.dev := by
  rw [h] at k; exact k

theorem Mach.mem_of_snd {d : Mem} {m : Mach} {p : α × Mach} (h : p = (x, m)) (k : Mem.Tame ps d p.2.mem) :
    Mem.Tame ps d m.mem := by
  rw [h] at k; exact k

theorem Mach.mem_of_fst {d : Mem} {m : Mach} {p : Mach × α} (h : p = (m, x)) (k : Mem.Tame ps d p.1.mem) :
    Mem.Tame ps d m.mem := by
  rw [h] at k; exact k

end

/-- Two host interfaces agree outside the parts of `ps`. -/
structure HostIf.Same (ps : Nat) (h g : HostIf) : Prop where
  mailboxes : ps.testBit 10 = true ∨ (g.mbx = h.mbx ∧ g.mbxIe = h.mbxIe)
  sqs : ps.testBit 11 = true ∨ (g.sqs = h.sqs)
  cqs : ps.testBit 12 = true ∨ (g.cqs = h.cqs)
  turns : ps.testBit 13 = true ∨ (g.rrHigh = h.rrHigh ∧ g.rrNorm = h.rrNorm ∧ g.turnLeft = h.turnLeft ∧ g.turnSq = h.turnSq)
  admin : ps.testBit 14 = true ∨ (g.admSqBase = h.admSqBase ∧ g.admCqBase = h.admCqBase ∧ g.admSize = h.admSize ∧ g.admEn = h.admEn ∧ g.admRdy = h.admRdy ∧ g.admCfgErr = h.admCfgErr)
  commands : ps.testBit 15 = true ∨ (g.cmds = h.cmds ∧ g.stage = h.stage ∧ g.held = h.held ∧ g.heldPeak = h.heldPeak ∧ g.holdStop = h.holdStop)
  events : ps.testBit 16 = true ∨ (g.aer = h.aer ∧ g.events = h.events ∧ g.eventsLost = h.eventsLost ∧ g.logEvent = h.logEvent)
  errorLog : ps.testBit 17 = true ∨ (g.logError = h.logError)
  logs : ps.testBit 18 = true ∨ (g.logAudit = h.logAudit ∧ g.logDropped = h.logDropped ∧ g.challenge = h.challenge)
  admission : ps.testBit 19 = true ∨ (g.admission = h.admission)
  access : ps.testBit 20 = true ∨ (g.qwLow = h.qwLow ∧ g.sdtLatch = h.sdtLatch ∧ g.badAccess = h.badAccess ∧ g.stray = h.stray)
  msix : ps.testBit 21 = true ∨ (g.msix = h.msix)

theorem Dev.tame_host {ps : Nat} {d X : Dev} {v : HostIf} (hs : HostIf.Same ps X.host v) (h : Dev.Tame ps d X) :
    Dev.Tame ps d { X with host := v } := by
  refine h.trans ⟨fun p hq => ?_, Nat.le_refl _, id⟩
  cases p
  case mailboxes => exact hs.mailboxes.resolve_left (by simp only [Part.code] at hq; simp only [hq]; decide)
  case sqs => exact hs.sqs.resolve_left (by simp only [Part.code] at hq; simp only [hq]; decide)
  case cqs => exact hs.cqs.resolve_left (by simp only [Part.code] at hq; simp only [hq]; decide)
  case turns => exact hs.turns.resolve_left (by simp only [Part.code] at hq; simp only [hq]; decide)
  case admin => exact hs.admin.resolve_left (by simp only [Part.code] at hq; simp only [hq]; decide)
  case commands => exact hs.commands.resolve_left (by simp only [Part.code] at hq; simp only [hq]; decide)
  case events => exact hs.events.resolve_left (by simp only [Part.code] at hq; simp only [hq]; decide)
  case errorLog => exact hs.errorLog.resolve_left (by simp only [Part.code] at hq; simp only [hq]; decide)
  case logs => exact hs.logs.resolve_left (by simp only [Part.code] at hq; simp only [hq]; decide)
  case admission => exact hs.admission.resolve_left (by simp only [Part.code] at hq; simp only [hq]; decide)
  case access => exact hs.access.resolve_left (by simp only [Part.code] at hq; simp only [hq]; decide)
  case msix => exact hs.msix.resolve_left (by simp only [Part.code] at hq; simp only [hq]; decide)
  all_goals first | exact rfl | exact ⟨rfl, rfl⟩ | exact fun _ => rfl

theorem HostIf.Same.mono {qs ps : Nat} {a b : HostIf} (k : HostIf.Same qs a b) (h : qs ||| ps = ps) : HostIf.Same ps a b := by
  have t : ∀ i, qs.testBit i = true → ps.testBit i = true := fun i hi => by rw [← h, Nat.testBit_or, hi, Bool.true_or]
  exact ⟨k.mailboxes.imp_left (t _), k.sqs.imp_left (t _), k.cqs.imp_left (t _), k.turns.imp_left (t _), k.admin.imp_left (t _), k.commands.imp_left (t _), k.events.imp_left (t _), k.errorLog.imp_left (t _), k.logs.imp_left (t _), k.admission.imp_left (t _), k.access.imp_left (t _), k.msix.imp_left (t _)⟩

theorem Dev.tame_onHost {ps : Nat} {d X : Dev} {f : HostIf → HostIf} (hs : HostIf.Same ps X.host (f X.host))
    (h : Dev.Tame ps d X) : Dev.Tame ps d (X.onHost f) := Dev.tame_host hs h

theorem HostIf.Same.trans {ps : Nat} {a b c : HostIf} (h : HostIf.Same ps a b) (k : HostIf.Same ps b c) : HostIf.Same ps a c := by
  constructor
  · rcases h.mailboxes with x | x <;> rcases k.mailboxes with y | y <;> simp_all only [true_or, or_true, and_self]
  · rcases h.sqs with x | x <;> rcases k.sqs with y | y <;> simp_all only [true_or, or_true, and_self]
  · rcases h.cqs with x | x <;> rcases k.cqs with y | y <;> simp_all only [true_or, or_true, and_self]
  · rcases h.turns with x | x <;> rcases k.turns with y | y <;> simp_all only [true_or, or_true, and_self]
  · rcases h.admin with x | x <;> rcases k.admin with y | y <;> simp_all only [true_or, or_true, and_self]
  · rcases h.commands with x | x <;> rcases k.commands with y | y <;> simp_all only [true_or, or_true, and_self]
  · rcases h.events with x | x <;> rcases k.events with y | y <;> simp_all only [true_or, or_true, and_self]
  · rcases h.errorLog with x | x <;> rcases k.errorLog with y | y <;> simp_all only [true_or, or_true, and_self]
  · rcases h.logs with x | x <;> rcases k.logs with y | y <;> simp_all only [true_or, or_true, and_self]
  · rcases h.admission with x | x <;> rcases k.admission with y | y <;> simp_all only [true_or, or_true, and_self]
  · rcases h.access with x | x <;> rcases k.access with y | y <;> simp_all only [true_or, or_true, and_self]
  · rcases h.msix with x | x <;> rcases k.msix with y | y <;> simp_all only [true_or, or_true, and_self]

/-! ### Registers, time, and the operations that change one unit -/

/-- Keys of different features differ. -/
theorem regKey_ne {f g o q : Nat} (h : f ≠ g) : regKey f o ≠ regKey g q := by
  unfold regKey; omega

/-- A register write keeps the shape. -/
theorem Dev.setReg_keeps (d : Dev) (feat o : Nat) (v : Word) (h : d.Shape) : (d.setReg feat o v).Shape := by
  have w := Tbl.wf_set regDefault h.2.2.2.2.2.2 (regKey feat o) v
  unfold Dev.setReg
  generalize Tbl.set regDefault d.regs (regKey feat o) v = r at w
  exact ⟨h.1, h.2.1, h.2.2.1, h.2.2.2.1, h.2.2.2.2.1, h.2.2.2.2.2.1, w⟩

theorem Dev.setReg_tame {ps : Nat} {a X : Dev} {feat o : Nat} {v : Word} (h : ps.testBit (64 + feat) = true)
    (g : Dev.Tame ps a X) : Dev.Tame ps a (X.setReg feat o v) := by
  refine g.trans ⟨fun p hq => ?_, ?_, ?_⟩
  rotate_left
  · obtain ⟨r, e⟩ := X.setReg_shape feat o v
    rw [e]
  · exact Dev.setReg_keeps X feat o v
  cases p
  case feat f =>
    intro q
    have hf : f.val ≠ feat := fun e => by
      simp only [Part.code, e, h] at hq
      exact absurd hq (by decide)
    exact Tbl.get_set_of_ne _ _ _ (regKey_ne hf)
  all_goals
    obtain ⟨r, e⟩ := X.setReg_shape feat o v
    rw [e]
    first | exact rfl | exact ⟨rfl, rfl⟩ | exact ⟨rfl, rfl, rfl⟩ | exact ⟨rfl, rfl, rfl, rfl⟩ |
      exact ⟨rfl, rfl, rfl, rfl, rfl⟩ | exact ⟨rfl, rfl, rfl, rfl, rfl, rfl⟩

theorem Dev.bump_tame {ps : Nat} {a X : Dev} {feat o n : Nat} (h : ps.testBit (64 + feat) = true)
    (g : Dev.Tame ps a X) : Dev.Tame ps a (X.bump feat o n) := Dev.setReg_tame h g

theorem Dev.setBit_tame {ps : Nat} {a X : Dev} {feat o i : Nat} {b : Bool} (h : ps.testBit (64 + feat) = true)
    (g : Dev.Tame ps a X) : Dev.Tame ps a (X.setBit feat o i b) := Dev.setReg_tame h g

theorem Dev.setReg64_tame {ps : Nat} {a X : Dev} {feat o v : Nat} (h : ps.testBit (64 + feat) = true)
    (g : Dev.Tame ps a X) : Dev.Tame ps a (X.setReg64 feat o v) := Dev.setReg_tame h (Dev.setReg_tame h g)

/-- Every register bit of a feature the spec has is in `everyFeat`. -/
theorem everyFeat_testBit (f : Fin 64) : everyFeat.testBit (64 + f.val) = true := by revert f; decide

/-- A feature number is one the frames name, or no register of it is. -/
theorem Dev.setReg_every {ps : Nat} {a X : Dev} {feat o : Nat} {v : Word} (h : everyFeat ||| ps = ps)
    (g : Dev.Tame ps a X) : Dev.Tame ps a (X.setReg feat o v) := by
  refine g.trans ⟨fun p hq => ?_, ?_, ?_⟩
  rotate_left
  · obtain ⟨r, e⟩ := X.setReg_shape feat o v
    rw [e]
  · exact Dev.setReg_keeps X feat o v
  cases p
  case feat f => exact absurd (testBit_of_sub h hq) (by simp only [Part.code, everyFeat_testBit]; decide)
  all_goals
    obtain ⟨r, e⟩ := X.setReg_shape feat o v
    rw [e]
    first | exact rfl | exact ⟨rfl, rfl⟩ | exact ⟨rfl, rfl, rfl⟩ | exact ⟨rfl, rfl, rfl, rfl⟩ |
      exact ⟨rfl, rfl, rfl, rfl, rfl⟩ | exact ⟨rfl, rfl, rfl, rfl, rfl, rfl⟩

theorem Dev.tame_regs_stats {ps : Nat} {d X : Dev} {v w} (h : everyFeat ||| ps = ps) (k : ps.testBit 5 = true)
    (hw : Tbl.wf regDefault X.regs = true → Tbl.wf regDefault v = true) (g : Dev.Tame ps d X) : Dev.Tame ps d { X with regs := v, stats := w } := by
  refine Dev.tame_stats (X := { X with regs := v }) k (g.trans ⟨fun p hq => ?_, Nat.le_refl _,
    fun s => ⟨s.1, s.2.1, s.2.2.1, s.2.2.2.1, s.2.2.2.2.1, s.2.2.2.2.2.1, hw s.2.2.2.2.2.2⟩⟩)
  cases p
  case feat f => exact absurd (testBit_of_sub h hq) (by simp only [Part.code, everyFeat_testBit]; decide)
  all_goals first | exact rfl | exact ⟨rfl, rfl⟩ | exact ⟨rfl, rfl, rfl⟩ | exact ⟨rfl, rfl, rfl, rfl⟩ |
    exact ⟨rfl, rfl, rfl, rfl, rfl⟩ | exact ⟨rfl, rfl, rfl, rfl, rfl, rfl⟩

theorem Dev.advance_tame {ps : Nat} {a X : Dev} (h : setOf [.clk, .sid] ||| ps = ps) (g : Dev.Tame ps a X) (dt : Nat) :
    Dev.Tame ps a (X.advance dt) := by
  refine Dev.Tame.next ⟨fun p hq => ?_, Nat.le_add_right _ _, id⟩ h g
  cases p <;> first | exact rfl | exact ⟨rfl, rfl⟩ | exact ⟨rfl, rfl, rfl⟩ | exact ⟨rfl, rfl, rfl, rfl⟩ |
    exact ⟨rfl, rfl, rfl, rfl, rfl⟩ | exact ⟨rfl, rfl, rfl, rfl, rfl, rfl⟩ | exact fun _ => rfl | exact absurd hq (by decide)

/-! ### Memories -/

theorem Mem.wf_iff (m : Mem) : m.wf = true ↔ Tbl.wf byteZero m.host = true ∧ Tbl.wf byteZero m.dram = true ∧
    Tbl.wf byteOnes m.nor = true ∧ Tbl.wf entryDflt m.mram = true := by
  simp only [Mem.wf, Bool.and_eq_true, and_assoc]

theorem Mem.tame_host {ps : Nat} {d X : Mem} {v} (hp : ps.testBit 49 = true)
    (hw : Tbl.wf byteZero X.host = true → Tbl.wf byteZero v = true) (h : Mem.Tame ps d X) :
    Mem.Tame ps d { X with host := v } := by
  refine ⟨fun p hq => ?_, fun x => by
    have s := X.wf_iff.1 (h.wf x)
    exact (Mem.wf_iff _).2 ⟨hw (s.1), s.2.1, s.2.2.1, s.2.2.2⟩⟩
  have g := h.same p hq
  cases p <;> first | exact g | exact absurd hq (by simp only [Part.code, hp]; decide)

theorem Mem.tame_dram {ps : Nat} {d X : Mem} {v} (hp : ps.testBit 50 = true)
    (hw : Tbl.wf byteZero X.dram = true → Tbl.wf byteZero v = true) (h : Mem.Tame ps d X) :
    Mem.Tame ps d { X with dram := v } := by
  refine ⟨fun p hq => ?_, fun x => by
    have s := X.wf_iff.1 (h.wf x)
    exact (Mem.wf_iff _).2 ⟨s.1, hw (s.2.1), s.2.2.1, s.2.2.2⟩⟩
  have g := h.same p hq
  cases p <;> first | exact g | exact absurd hq (by simp only [Part.code, hp]; decide)

theorem Mem.tame_nor {ps : Nat} {d X : Mem} {v} (hp : ps.testBit 51 = true)
    (hw : Tbl.wf byteOnes X.nor = true → Tbl.wf byteOnes v = true) (h : Mem.Tame ps d X) :
    Mem.Tame ps d { X with nor := v } := by
  refine ⟨fun p hq => ?_, fun x => by
    have s := X.wf_iff.1 (h.wf x)
    exact (Mem.wf_iff _).2 ⟨s.1, s.2.1, hw (s.2.2.1), s.2.2.2⟩⟩
  have g := h.same p hq
  cases p <;> first | exact g | exact absurd hq (by simp only [Part.code, hp]; decide)

theorem Mem.tame_mram {ps : Nat} {d X : Mem} {v} (hp : ps.testBit 52 = true)
    (hw : Tbl.wf entryDflt X.mram = true → Tbl.wf entryDflt v = true) (h : Mem.Tame ps d X) :
    Mem.Tame ps d { X with mram := v } := by
  refine ⟨fun p hq => ?_, fun x => by
    have s := X.wf_iff.1 (h.wf x)
    exact (Mem.wf_iff _).2 ⟨s.1, s.2.1, s.2.2.1, hw (s.2.2.2)⟩⟩
  have g := h.same p hq
  cases p <;> first | exact g | exact absurd hq (by simp only [Part.code, hp]; decide)

theorem Mem.tame_carriers {ps : Nat} {d X : Mem} {v} (hp : ps.testBit 53 = true) (h : Mem.Tame ps d X) :
    Mem.Tame ps d { X with carriers := v } := by
  refine ⟨fun p hq => ?_, fun x => h.wf x⟩
  have g := h.same p hq
  cases p <;> first | exact g | exact absurd hq (by simp only [Part.code, hp]; decide)


end Sys2Proof.Machine
end

