-- ==== Sys2Proof/Laws/FrameOps.lean ====
section
/-! SUPPORT. What each operation of Machine/Ops.lean may change. -/

namespace Sys2Proof.Machine
open Sys2Proof

theorem Dev.onBoot_tame {ps : Nat} {B X : Dev} (hsub : setOf [.boot] ||| ps = ps)
    (hbase : Dev.Tame ps B X) (f : Boot → Boot) : Dev.Tame ps B (Dev.onBoot X f) := by
  refine Dev.Tame.next ?_ hsub hbase
  unfold Dev.onBoot
  refine Dev.tame_boot (by decide) ?_
  exact Dev.Tame.refl _ _

theorem Dev.onFlt_tame {ps : Nat} {B X : Dev} (hsub : setOf [.flt] ||| ps = ps)
    (hbase : Dev.Tame ps B X) (f : Flt → Flt) : Dev.Tame ps B (Dev.onFlt X f) := by
  refine Dev.Tame.next ?_ hsub hbase
  unfold Dev.onFlt
  refine Dev.tame_flt (by decide) ?_
  exact Dev.Tame.refl _ _

theorem Dev.onIntr_tame {ps : Nat} {B X : Dev} (hsub : setOf [.intr] ||| ps = ps)
    (hbase : Dev.Tame ps B X) (f : Intr → Intr) : Dev.Tame ps B (Dev.onIntr X f) := by
  refine Dev.Tame.next ?_ hsub hbase
  unfold Dev.onIntr
  refine Dev.tame_intr (by decide) ?_
  exact Dev.Tame.refl _ _

theorem Dev.onTwk_tame {ps : Nat} {B X : Dev} (hsub : setOf [.twk] ||| ps = ps)
    (hbase : Dev.Tame ps B X) (f : Twinkle → Twinkle) : Dev.Tame ps B (Dev.onTwk X f) := by
  refine Dev.Tame.next ?_ hsub hbase
  unfold Dev.onTwk
  refine Dev.tame_twk (by decide) ?_
  exact Dev.Tame.refl _ _

theorem Dev.onBbx_tame {ps : Nat} {B X : Dev} (hsub : setOf [.bbx] ||| ps = ps)
    (hbase : Dev.Tame ps B X) (f : Bbx → Bbx) : Dev.Tame ps B (Dev.onBbx X f) := by
  refine Dev.Tame.next ?_ hsub hbase
  unfold Dev.onBbx
  refine Dev.tame_bbx (by decide) ?_
  exact Dev.Tame.refl _ _

theorem Dev.onSid_tame {ps : Nat} {B X : Dev} (hsub : setOf [.sid] ||| ps = ps)
    (hbase : Dev.Tame ps B X) (f : Sidereal → Sidereal) : Dev.Tame ps B (Dev.onSid X f) := by
  refine Dev.Tame.next ?_ hsub hbase
  unfold Dev.onSid
  refine Dev.tame_sid (by decide) ?_
  exact Dev.Tame.refl _ _

theorem Dev.onTick_tame {ps : Nat} {B X : Dev} (hsub : setOf [.tick] ||| ps = ps)
    (hbase : Dev.Tame ps B X) (f : TickUnit → TickUnit) : Dev.Tame ps B (Dev.onTick X f) := by
  refine Dev.Tame.next ?_ hsub hbase
  unfold Dev.onTick
  refine Dev.tame_tick (by decide) ?_
  exact Dev.Tame.refl _ _

theorem Dev.onLink_tame {ps : Nat} {B X : Dev} (hsub : setOf [.link] ||| ps = ps)
    (hbase : Dev.Tame ps B X) (f : Links → Links) : Dev.Tame ps B (Dev.onLink X f) := by
  refine Dev.Tame.next ?_ hsub hbase
  unfold Dev.onLink
  refine Dev.tame_link (by decide) ?_
  exact Dev.Tame.refl _ _

theorem Dev.onFab_tame {ps : Nat} {B X : Dev} (hsub : setOf [.fab] ||| ps = ps)
    (hbase : Dev.Tame ps B X) (f : Fabric → Fabric) : Dev.Tame ps B (Dev.onFab X f) := by
  refine Dev.Tame.next ?_ hsub hbase
  unfold Dev.onFab
  refine Dev.tame_fab (by decide) ?_
  exact Dev.Tame.refl _ _

theorem Dev.onPools_tame {ps : Nat} {B X : Dev} (hsub : setOf [.pools] ||| ps = ps)
    (hbase : Dev.Tame ps B X) (f : Pools → Pools) : Dev.Tame ps B (Dev.onPools X f) := by
  refine Dev.Tame.next ?_ hsub hbase
  unfold Dev.onPools
  refine Dev.tame_pools (by decide) ?_
  exact Dev.Tame.refl _ _

theorem Dev.onPower_tame {ps : Nat} {B X : Dev} (hsub : setOf [.power] ||| ps = ps)
    (hbase : Dev.Tame ps B X) (f : Power → Power) : Dev.Tame ps B (Dev.onPower X f) := by
  refine Dev.Tame.next ?_ hsub hbase
  unfold Dev.onPower
  refine Dev.tame_power (by decide) ?_
  exact Dev.Tame.refl _ _

theorem Dev.onEth_tame {ps : Nat} {B X : Dev} (hsub : setOf [.eth] ||| ps = ps)
    (hbase : Dev.Tame ps B X) (i : Nat) (f : EthPort → EthPort) : Dev.Tame ps B (Dev.onEth X i f) := by
  refine Dev.Tame.next ?_ hsub hbase
  unfold Dev.onEth
  refine Dev.tame_eth (by decide) (by simp) ?_
  exact Dev.Tame.refl _ _

theorem Dev.onDram_tame {ps : Nat} {B X : Dev} (hsub : setOf [.dram] ||| ps = ps)
    (hbase : Dev.Tame ps B X) (i : Nat) (f : DramCtl → DramCtl) : Dev.Tame ps B (Dev.onDram X i f) := by
  refine Dev.Tame.next ?_ hsub hbase
  unfold Dev.onDram
  refine Dev.tame_dram (by decide) (by simp) ?_
  exact Dev.Tame.refl _ _

theorem Dev.onWport_tame {ps : Nat} {B X : Dev} (hsub : setOf [.wports] ||| ps = ps)
    (hbase : Dev.Tame ps B X) (i : Nat) (f : WritePort → WritePort) : Dev.Tame ps B (Dev.onWport X i f) := by
  refine Dev.Tame.next ?_ hsub hbase
  unfold Dev.onWport
  refine Dev.tame_wports (by decide) (by simp) ?_
  exact Dev.Tame.refl _ _

theorem Dev.onDma_tame {ps : Nat} {B X : Dev} (hsub : setOf [.dma] ||| ps = ps)
    (hbase : Dev.Tame ps B X) (i : Nat) (f : DmaCh → DmaCh) : Dev.Tame ps B (Dev.onDma X i f) := by
  refine Dev.Tame.next ?_ hsub hbase
  unfold Dev.onDma
  refine Dev.tame_dma (by decide) (by simp) ?_
  exact Dev.Tame.refl _ _

theorem Dev.onPort_tame {ps : Nat} {B X : Dev} (hsub : setOf [.link] ||| ps = ps)
    (hbase : Dev.Tame ps B X) (p : Nat) (f : LinkPort → LinkPort) : Dev.Tame ps B (Dev.onPort X p f) := by
  refine Dev.Tame.next ?_ hsub hbase
  unfold Dev.onPort
  refine Dev.onLink_tame (by decide) ?_ ..
  exact Dev.Tame.refl _ _

theorem Dev.onPool_tame {ps : Nat} {B X : Dev} (hsub : setOf [.pools] ||| ps = ps)
    (hbase : Dev.Tame ps B X) (p : Nat) (f : Pool → Pool) : Dev.Tame ps B (Dev.onPool X p f) := by
  refine Dev.Tame.next ?_ hsub hbase
  unfold Dev.onPool
  refine Dev.onPools_tame (by decide) ?_ ..
  exact Dev.Tame.refl _ _

theorem Dev.onPrism_tame {ps : Nat} {B X : Dev} (hsub : setOf [.prism] ||| ps = ps)
    (hbase : Dev.Tame ps B X) (f : Prism → Prism) : Dev.Tame ps B (Dev.onPrism X f) := by
  refine Dev.Tame.next ?_ hsub hbase
  unfold Dev.onPrism
  refine Dev.tame_prism (by decide) ?_
  exact Dev.Tame.refl _ _

theorem Dev.onCodec_tame {ps : Nat} {B X : Dev} (hsub : setOf [.codec] ||| ps = ps)
    (hbase : Dev.Tame ps B X) (f : Codec → Codec) : Dev.Tame ps B (Dev.onCodec X f) := by
  refine Dev.Tame.next ?_ hsub hbase
  unfold Dev.onCodec
  refine Dev.tame_codec (by decide) ?_
  exact Dev.Tame.refl _ _

theorem Dev.onSeq_tame {ps : Nat} {B X : Dev} (hsub : setOf [.seqr] ||| ps = ps)
    (hbase : Dev.Tame ps B X) (f : Sequencer → Sequencer) : Dev.Tame ps B (Dev.onSeq X f) := by
  refine Dev.Tame.next ?_ hsub hbase
  unfold Dev.onSeq
  refine Dev.tame_seqr (by decide) ?_
  exact Dev.Tame.refl _ _

theorem Dev.onProxy_tame {ps : Nat} {B X : Dev} (hsub : setOf [.proxy] ||| ps = ps)
    (hbase : Dev.Tame ps B X) (f : Proxy → Proxy) : Dev.Tame ps B (Dev.onProxy X f) := by
  refine Dev.Tame.next ?_ hsub hbase
  unfold Dev.onProxy
  refine Dev.tame_proxy (by decide) ?_
  exact Dev.Tame.refl _ _

theorem Dev.onMag_tame {ps : Nat} {B X : Dev} (hsub : setOf [.mags] ||| ps = ps)
    (hbase : Dev.Tame ps B X) (m : Nat) (f : MagPort → MagPort) : Dev.Tame ps B (Dev.onMag X m f) := by
  refine Dev.Tame.next ?_ hsub hbase
  unfold Dev.onMag
  refine Dev.tame_mags (by decide) (by simp) ?_
  exact Dev.Tame.refl _ _

theorem Dev.onCore_tame {ps : Nat} {B X : Dev} (hsub : setOf [.intr] ||| ps = ps)
    (hbase : Dev.Tame ps B X) (c : Nat) (f : CtlCore → CtlCore) : Dev.Tame ps B (Dev.onCore X c f) := by
  refine Dev.Tame.next ?_ hsub hbase
  unfold Dev.onCore
  refine Dev.onIntr_tame (by decide) ?_ ..
  exact Dev.Tame.refl _ _

theorem Dev.count_tame {ps : Nat} {B X : Dev} (hsub : setOf [.stats] ||| ps = ps)
    (hbase : Dev.Tame ps B X) (off : Nat) (n : Nat) : Dev.Tame ps B (Dev.count X off n) := by
  refine Dev.Tame.next ?_ hsub hbase
  unfold Dev.count
  refine Dev.tame_stats (by decide) ?_
  exact Dev.Tame.refl _ _

theorem Dev.countMax_tame {ps : Nat} {B X : Dev} (hsub : setOf [.stats] ||| ps = ps)
    (hbase : Dev.Tame ps B X) (off v : Nat) : Dev.Tame ps B (Dev.countMax X off v) := by
  refine Dev.Tame.next ?_ hsub hbase
  unfold Dev.countMax
  refine Dev.tame_ite ?_ ?_
  · refine Dev.tame_stats (by decide) ?_
    exact Dev.Tame.refl _ _
  · exact Dev.Tame.refl _ _

theorem Dev.afterDraw_tame {ps : Nat} {B X : Dev} (hsub : setOf [.free] ||| ps = ps)
    (hbase : Dev.Tame ps B X) : Dev.Tame ps B (Dev.afterDraw X) := by
  refine Dev.Tame.next ?_ hsub hbase
  unfold Dev.afterDraw
  refine Dev.tame_free (by decide) ?_
  exact Dev.Tame.refl _ _

theorem Dev.advanceTo_tame {ps : Nat} {B X : Dev} (hsub : setOf [.clk, .sid] ||| ps = ps)
    (hbase : Dev.Tame ps B X) (t : Nat) : Dev.Tame ps B (Dev.advanceTo X t) := by
  refine Dev.Tame.next ?_ hsub hbase
  unfold Dev.advanceTo
  refine Dev.tame_ite ?_ ?_
  · refine Dev.advance_tame (by decide) ?_ ..
    exact Dev.Tame.refl _ _
  · exact Dev.Tame.refl _ _

theorem Dev.advanceToSid_tame {ps : Nat} {B X : Dev} (hsub : setOf [.clk, .sid] ||| ps = ps)
    (hbase : Dev.Tame ps B X) (t : Nat) : Dev.Tame ps B (Dev.advanceToSid X t) := by
  refine Dev.Tame.next ?_ hsub hbase
  unfold Dev.advanceToSid
  refine Dev.advance_tame (by decide) ?_ ..
  exact Dev.Tame.refl _ _

theorem Dev.stamped_tame {ps : Nat} {B X : Dev} (hsub : setOf [.seq] ||| ps = ps)
    (hbase : Dev.Tame ps B X) : Dev.Tame ps B (Dev.stamped X) := by
  refine Dev.Tame.next ?_ hsub hbase
  unfold Dev.stamped
  refine Dev.tame_seq (by decide) (by omega) ?_
  exact Dev.Tame.refl _ _

theorem Dev.setCap_tame {ps : Nat} {B X : Dev} (hsub : setOf [.caps] ||| ps = ps)
    (hbase : Dev.Tame ps B X) (s : Nat) (c : Option Cap) : Dev.Tame ps B (Dev.setCap X s c) := by
  refine Dev.Tame.next ?_ hsub hbase
  unfold Dev.setCap
  refine Dev.tame_caps (by decide) ?_
  exact Dev.Tame.refl _ _

theorem Dev.modCap_tame {ps : Nat} {B X : Dev} (hsub : setOf [.caps] ||| ps = ps)
    (hbase : Dev.Tame ps B X) (s : Nat) (f : Cap → Cap) : Dev.Tame ps B (Dev.modCap X s f) := by
  refine Dev.Tame.next ?_ hsub hbase
  unfold Dev.modCap
  split
  · refine Dev.setCap_tame (by decide) ?_ ..
    exact Dev.Tame.refl _ _
  · exact Dev.Tame.refl _ _

theorem Dev.bbxPut_tame {ps : Nat} {B X : Dev} (hsub : setOf [.bbx] ||| ps = ps)
    (hbase : Dev.Tame ps B X) (region : BbxRegion) (body : List Byte) : Dev.Tame ps B (Dev.bbxPut X region body) := by
  refine Dev.Tame.next ?_ hsub hbase
  unfold Dev.bbxPut
  refine Dev.tame_ite ?_ ?_
  · refine Dev.tame_bbx (by decide) ?_
    exact Dev.Tame.refl _ _
  · refine Dev.tame_bbx (by decide) ?_
    exact Dev.Tame.refl _ _

theorem Dev.record_tame {ps : Nat} {B X : Dev} (hsub : setOf [.seq, .bbx] ||| ps = ps)
    (hbase : Dev.Tame ps B X) (region : BbxRegion) (kind cls code arg : Nat) (data : List Byte) : Dev.Tame ps B (Dev.record X region kind cls code arg data) := by
  refine Dev.Tame.next ?_ hsub hbase
  unfold Dev.record
  refine Dev.stamped_tame (by decide) ?_ ..
  refine Dev.bbxPut_tame (by decide) ?_ ..
  exact Dev.Tame.refl _ _

theorem Dev.modCmd_tame {ps : Nat} {B X : Dev} (hsub : setOf [.commands] ||| ps = ps)
    (hbase : Dev.Tame ps B X) (sq cid : Nat) (f : Cmd → Cmd) : Dev.Tame ps B (Dev.modCmd X sq cid f) := by
  refine Dev.Tame.next ?_ hsub hbase
  unfold Dev.modCmd
  dsimp only
  refine Dev.tame_host ?_ ?_
  · exact HostIf.Same.mk
      (.inr ⟨rfl, rfl⟩)
      (.inr rfl)
      (.inr rfl)
      (.inr ⟨rfl, rfl, rfl, rfl⟩)
      (.inr ⟨rfl, rfl, rfl, rfl, rfl, rfl⟩)
      (.inl (by decide))
      (.inr ⟨rfl, rfl, rfl, rfl⟩)
      (.inr rfl)
      (.inr ⟨rfl, rfl, rfl⟩)
      (.inr rfl)
      (.inr ⟨rfl, rfl, rfl, rfl⟩)
      (.inr rfl)
  · exact Dev.Tame.refl _ _

theorem Dev.complete_tame {ps : Nat} {B X : Dev} (hsub : setOf [.seq, .commands, .errorLog] ||| ps = ps)
    (hbase : Dev.Tame ps B X) (sq cid status : Nat) (result : Nat) (e : ErrInfo) : Dev.Tame ps B (Dev.complete X sq cid status result e) := by
  refine Dev.Tame.next ?_ hsub hbase
  unfold Dev.complete
  split
  · exact Dev.Tame.refl _ _
  · dsimp only
    refine Dev.tame_ite ?_ ?_
    · refine Dev.stamped_tame (by decide) ?_ ..
      refine Dev.tame_host ?_ ?_
      · exact HostIf.Same.mk
          (.inr ⟨rfl, rfl⟩)
          (.inr rfl)
          (.inr rfl)
          (.inr ⟨rfl, rfl, rfl, rfl⟩)
          (.inr ⟨rfl, rfl, rfl, rfl, rfl, rfl⟩)
          (.inl (by decide))
          (.inr ⟨rfl, rfl, rfl, rfl⟩)
          (.inl (by decide))
          (.inr ⟨rfl, rfl, rfl⟩)
          (.inr rfl)
          (.inr ⟨rfl, rfl, rfl, rfl⟩)
          (.inr rfl)
      · refine Dev.modCmd_tame (by decide) ?_ ..
        exact Dev.Tame.refl _ _
    · refine Dev.tame_host ?_ ?_
      · exact HostIf.Same.mk
          (.inr ⟨rfl, rfl⟩)
          (.inr rfl)
          (.inr rfl)
          (.inr ⟨rfl, rfl, rfl, rfl⟩)
          (.inr ⟨rfl, rfl, rfl, rfl, rfl, rfl⟩)
          (.inl (by decide))
          (.inr ⟨rfl, rfl, rfl, rfl⟩)
          (.inl (by decide))
          (.inr ⟨rfl, rfl, rfl⟩)
          (.inr rfl)
          (.inr ⟨rfl, rfl, rfl, rfl⟩)
          (.inr rfl)
      · refine Dev.modCmd_tame (by decide) ?_ ..
        exact Dev.Tame.refl _ _

theorem Dev.completeEvent_tame {ps : Nat} {B X : Dev} (hsub : setOf [.commands] ||| ps = ps)
    (hbase : Dev.Tame ps B X) (cid result : Nat) : Dev.Tame ps B (Dev.completeEvent X cid result) := by
  refine Dev.Tame.next ?_ hsub hbase
  unfold Dev.completeEvent
  dsimp only
  refine Dev.tame_host ?_ ?_
  · exact HostIf.Same.mk
      (.inr ⟨rfl, rfl⟩)
      (.inr rfl)
      (.inr rfl)
      (.inr ⟨rfl, rfl, rfl, rfl⟩)
      (.inr ⟨rfl, rfl, rfl, rfl, rfl, rfl⟩)
      (.inl (by decide))
      (.inr ⟨rfl, rfl, rfl, rfl⟩)
      (.inr rfl)
      (.inr ⟨rfl, rfl, rfl⟩)
      (.inr rfl)
      (.inr ⟨rfl, rfl, rfl, rfl⟩)
      (.inr rfl)
  · refine Dev.modCmd_tame (by decide) ?_ ..
    exact Dev.Tame.refl _ _

theorem Dev.postEvent_tame {ps : Nat} {B X : Dev} (hsub : setOf [.seq, .commands, .events] ||| ps = ps)
    (hbase : Dev.Tame ps B X) (type sub arg : Nat) : Dev.Tame ps B (Dev.postEvent X type sub arg) := by
  refine Dev.Tame.next ?_ hsub hbase
  unfold Dev.postEvent
  dsimp only
  split
  · refine Dev.completeEvent_tame (by decide) ?_ ..
    refine Dev.tame_host ?_ ?_
    · exact HostIf.Same.mk
        (.inr ⟨rfl, rfl⟩)
        (.inr rfl)
        (.inr rfl)
        (.inr ⟨rfl, rfl, rfl, rfl⟩)
        (.inr ⟨rfl, rfl, rfl, rfl, rfl, rfl⟩)
        (.inl (by decide))
        (.inl (by decide))
        (.inr rfl)
        (.inr ⟨rfl, rfl, rfl⟩)
        (.inr rfl)
        (.inr ⟨rfl, rfl, rfl, rfl⟩)
        (.inr rfl)
    · refine Dev.stamped_tame (by decide) ?_ ..
      refine Dev.tame_host ?_ ?_
      · exact HostIf.Same.mk
          (.inr ⟨rfl, rfl⟩)
          (.inr rfl)
          (.inr rfl)
          (.inr ⟨rfl, rfl, rfl, rfl⟩)
          (.inr ⟨rfl, rfl, rfl, rfl, rfl, rfl⟩)
          (.inl (by decide))
          (.inl (by decide))
          (.inr rfl)
          (.inr ⟨rfl, rfl, rfl⟩)
          (.inr rfl)
          (.inr ⟨rfl, rfl, rfl, rfl⟩)
          (.inr rfl)
      · exact Dev.Tame.refl _ _
  · refine Dev.tame_ite ?_ ?_
    · refine Dev.stamped_tame (by decide) ?_ ..
      refine Dev.tame_host ?_ ?_
      · exact HostIf.Same.mk
          (.inr ⟨rfl, rfl⟩)
          (.inr rfl)
          (.inr rfl)
          (.inr ⟨rfl, rfl, rfl, rfl⟩)
          (.inr ⟨rfl, rfl, rfl, rfl, rfl, rfl⟩)
          (.inl (by decide))
          (.inl (by decide))
          (.inr rfl)
          (.inr ⟨rfl, rfl, rfl⟩)
          (.inr rfl)
          (.inr ⟨rfl, rfl, rfl, rfl⟩)
          (.inr rfl)
      · exact Dev.Tame.refl _ _
    · refine Dev.tame_ite ?_ ?_
      · refine Dev.tame_host ?_ ?_
        · exact HostIf.Same.mk
            (.inr ⟨rfl, rfl⟩)
            (.inr rfl)
            (.inr rfl)
            (.inr ⟨rfl, rfl, rfl, rfl⟩)
            (.inr ⟨rfl, rfl, rfl, rfl, rfl, rfl⟩)
            (.inl (by decide))
            (.inl (by decide))
            (.inr rfl)
            (.inr ⟨rfl, rfl, rfl⟩)
            (.inr rfl)
            (.inr ⟨rfl, rfl, rfl, rfl⟩)
            (.inr rfl)
        · refine Dev.stamped_tame (by decide) ?_ ..
          refine Dev.tame_host ?_ ?_
          · exact HostIf.Same.mk
              (.inr ⟨rfl, rfl⟩)
              (.inr rfl)
              (.inr rfl)
              (.inr ⟨rfl, rfl, rfl, rfl⟩)
              (.inr ⟨rfl, rfl, rfl, rfl, rfl, rfl⟩)
              (.inl (by decide))
              (.inl (by decide))
              (.inr rfl)
              (.inr ⟨rfl, rfl, rfl⟩)
              (.inr rfl)
              (.inr ⟨rfl, rfl, rfl, rfl⟩)
              (.inr rfl)
          · exact Dev.Tame.refl _ _
      · refine Dev.tame_host ?_ ?_
        · exact HostIf.Same.mk
            (.inr ⟨rfl, rfl⟩)
            (.inr rfl)
            (.inr rfl)
            (.inr ⟨rfl, rfl, rfl, rfl⟩)
            (.inr ⟨rfl, rfl, rfl, rfl, rfl, rfl⟩)
            (.inl (by decide))
            (.inl (by decide))
            (.inr rfl)
            (.inr ⟨rfl, rfl, rfl⟩)
            (.inr rfl)
            (.inr ⟨rfl, rfl, rfl, rfl⟩)
            (.inr rfl)
        · refine Dev.stamped_tame (by decide) ?_ ..
          refine Dev.tame_host ?_ ?_
          · exact HostIf.Same.mk
              (.inr ⟨rfl, rfl⟩)
              (.inr rfl)
              (.inr rfl)
              (.inr ⟨rfl, rfl, rfl, rfl⟩)
              (.inr ⟨rfl, rfl, rfl, rfl, rfl, rfl⟩)
              (.inl (by decide))
              (.inl (by decide))
              (.inr rfl)
              (.inr ⟨rfl, rfl, rfl⟩)
              (.inr rfl)
              (.inr ⟨rfl, rfl, rfl, rfl⟩)
              (.inr rfl)
          · exact Dev.Tame.refl _ _

theorem Dev.emit_tame {ps : Nat} {B X : Dev} (hsub : setOf [.sent] ||| ps = ps)
    (hbase : Dev.Tame ps B X) (e : Emission) : Dev.Tame ps B (Dev.emit X e) := by
  refine Dev.Tame.next ?_ hsub hbase
  unfold Dev.emit
  refine Dev.tame_sent (by decide) ?_
  exact Dev.Tame.refl _ _

theorem Dev.msix_tame {ps : Nat} {B X : Dev} (hsub : setOf [.msix, .sent] ||| ps = ps)
    (hbase : Dev.Tame ps B X) (v : Nat) : Dev.Tame ps B (Dev.msix X v) := by
  refine Dev.Tame.next ?_ hsub hbase
  unfold Dev.msix
  split
  · exact Dev.Tame.refl _ _
  · refine Dev.tame_ite ?_ ?_
    · dsimp only
      refine Dev.tame_host ?_ ?_
      · exact HostIf.Same.mk
          (.inr ⟨rfl, rfl⟩)
          (.inr rfl)
          (.inr rfl)
          (.inr ⟨rfl, rfl, rfl, rfl⟩)
          (.inr ⟨rfl, rfl, rfl, rfl, rfl, rfl⟩)
          (.inr ⟨rfl, rfl, rfl, rfl, rfl⟩)
          (.inr ⟨rfl, rfl, rfl, rfl⟩)
          (.inr rfl)
          (.inr ⟨rfl, rfl, rfl⟩)
          (.inr rfl)
          (.inr ⟨rfl, rfl, rfl, rfl⟩)
          (.inl (by decide))
      · exact Dev.Tame.refl _ _
    · refine Dev.emit_tame (by decide) ?_ ..
      exact Dev.Tame.refl _ _

end Sys2Proof.Machine
end

