-- ==== Sys2Proof/Laws/FrameIntr.lean ====
section
/-! SUPPORT. What each operation of Machine/Intr.lean may change. -/

namespace Sys2Proof.Machine
open Sys2Proof

theorem Dev.fireInt_tame {ps : Nat} {B X : Dev} (hsub : setOf [.msix, .intr, .sent] ||| ps = ps)
    (hbase : Dev.Tame ps B X) (id : Nat) : Dev.Tame ps B (Dev.fireInt X id) := by
  refine Dev.Tame.next ?_ hsub hbase
  unfold Dev.fireInt
  dsimp only
  refine Dev.tame_ite ?_ ?_
  · refine Dev.msix_tame (by decide) ?_ ..
    refine Dev.onIntr_tame (by decide) ?_ ..
    exact Dev.Tame.refl _ _
  · refine Dev.onIntr_tame (by decide) ?_ ..
    exact Dev.Tame.refl _ _

end Sys2Proof.Machine
end

