-- ==== Sys2Proof/Laws/FrameLinkTx.lean ====
section
/-! SUPPORT. What each operation of Machine/LinkTx.lean may change. -/

namespace Sys2Proof.Machine
open Sys2Proof

theorem Dev.wireFlit_tame {ps : Nat} {B X : Dev} (hsub : setOf [.stats, .link, .sent] ||| ps = ps)
    (hbase : Dev.Tame ps B X) (p : Nat) (f : Flit) : Dev.Tame ps B (Dev.wireFlit X p f) := by
  refine Dev.Tame.next ?_ hsub hbase
  unfold Dev.wireFlit
  dsimp only
  refine Dev.emit_tame (by decide) ?_ ..
  refine Dev.count_tame (by decide) ?_ ..
  refine Dev.onPort_tame (by decide) ?_ ..
  exact Dev.Tame.refl _ _

theorem Dev.sendFlit_tame {ps : Nat} {B X : Dev} (hsub : setOf [.stats, .link, .sent] ||| ps = ps)
    (hbase : Dev.Tame ps B X) (p : Nat) (f : Flit) : Dev.Tame ps B (Dev.sendFlit X p f) := by
  refine Dev.Tame.next ?_ hsub hbase
  unfold Dev.sendFlit
  dsimp only
  refine Dev.countMax_tame (by decide) ?_ ..
  refine Dev.tame_ite ?_ ?_
  · refine Dev.count_tame (by decide) ?_ ..
    refine Dev.wireFlit_tame (by decide) ?_ ..
    refine Dev.onPort_tame (by decide) ?_ ..
    exact Dev.Tame.refl _ _
  · refine Dev.tame_ite ?_ ?_
    · refine Dev.count_tame (by decide) ?_ ..
      refine Dev.wireFlit_tame (by decide) ?_ ..
      refine Dev.onPort_tame (by decide) ?_ ..
      exact Dev.Tame.refl _ _
    · refine Dev.wireFlit_tame (by decide) ?_ ..
      refine Dev.onPort_tame (by decide) ?_ ..
      exact Dev.Tame.refl _ _

theorem Dev.noteCredit_tame {ps : Nat} {B X : Dev} (hsub : setOf [.stats, .link] ||| ps = ps)
    (hbase : Dev.Tame ps B X) (p : Nat) : Dev.Tame ps B (Dev.noteCredit X p) := by
  refine Dev.Tame.next ?_ hsub hbase
  unfold Dev.noteCredit
  dsimp only
  refine Dev.tame_ite ?_ ?_
  · refine Dev.tame_ite ?_ ?_
    · refine Dev.onPort_tame (by decide) ?_ ..
      exact Dev.Tame.refl _ _
    · exact Dev.Tame.refl _ _
  · refine Dev.tame_ite ?_ ?_
    · exact Dev.Tame.refl _ _
    · refine Dev.onPort_tame (by decide) ?_ ..
      refine Dev.count_tame (by decide) ?_ ..
      exact Dev.Tame.refl _ _

theorem Dev.pumpLink_tame_rec {B : Dev} (k : Nat) : ∀ (X : Dev) (p : Nat), Dev.Tame (setOf [.stats, .link, .sent]) B X →
    Dev.Tame (setOf [.stats, .link, .sent]) B (Dev.pumpLink X p k) := by
  induction k with
  | zero =>
    intro X p g
    unfold Dev.pumpLink
    refine Dev.noteCredit_tame (by decide) ?_ ..
    assumption
  | succ k ih =>
    intro X p g
    unfold Dev.pumpLink
    refine Dev.tame_ite ?_ ?_
    · split
      · apply ih
        refine Dev.sendFlit_tame (by decide) ?_ ..
        refine Dev.onPort_tame (by decide) ?_ ..
        assumption
      · refine Dev.noteCredit_tame (by decide) ?_ ..
        assumption
    · refine Dev.noteCredit_tame (by decide) ?_ ..
      assumption

theorem Dev.pumpLink_tame {ps : Nat} {B X : Dev} (hsub : setOf [.stats, .link, .sent] ||| ps = ps)
    (hbase : Dev.Tame ps B X) (p : Nat) (k : Nat) : Dev.Tame ps B (Dev.pumpLink X p k) :=
  Dev.Tame.next (Dev.pumpLink_tame_rec k _ _ (.refl _ _)) hsub hbase

theorem Dev.queueMsg_tame {ps : Nat} {B X : Dev} (hsub : setOf [.stats, .link, .sent] ||| ps = ps)
    (hbase : Dev.Tame ps B X) (p : Nat) (dest src code : Nat) (body : List Byte) : Dev.Tame ps B (Dev.queueMsg X p dest src code body) := by
  refine Dev.Tame.next ?_ hsub hbase
  unfold Dev.queueMsg
  refine Dev.tame_ite ?_ ?_
  · exact Dev.Tame.refl _ _
  · dsimp only
    refine Dev.pumpLink_tame (by decide) ?_ ..
    refine Dev.onPort_tame (by decide) ?_ ..
    exact Dev.Tame.refl _ _

theorem Dev.sendMsg_tame {ps : Nat} {B X : Dev} (hsub : setOf [.stats, .link, .sent] ||| ps = ps)
    (hbase : Dev.Tame ps B X) (dest code : Nat) (body : List Byte) : Dev.Tame ps B (Dev.sendMsg X dest code body) := by
  refine Dev.Tame.next ?_ hsub hbase
  unfold Dev.sendMsg
  split
  · refine Dev.queueMsg_tame (by decide) ?_ ..
    exact Dev.Tame.refl _ _
  · exact Dev.Tame.refl _ _

theorem Dev.broadcastOn_tame_rec {B : Dev} (k : List Nat) : ∀ (X : Dev) (src code : Nat) (body : List Byte), Dev.Tame (setOf [.stats, .link, .sent]) B X →
    Dev.Tame (setOf [.stats, .link, .sent]) B (Dev.broadcastOn X src code body k) := by
  induction k with
  | nil =>
    intro X src code body g
    unfold Dev.broadcastOn
    assumption
  | cons y r ih =>
    intro X src code body g
    unfold Dev.broadcastOn
    dsimp only
    refine Dev.tame_ite ?_ ?_
    · apply ih
      refine Dev.queueMsg_tame (by decide) ?_ ..
      assumption
    · apply ih
      assumption

theorem Dev.broadcastOn_tame {ps : Nat} {B X : Dev} (hsub : setOf [.stats, .link, .sent] ||| ps = ps)
    (hbase : Dev.Tame ps B X) (src code : Nat) (body : List Byte) (k : List Nat) : Dev.Tame ps B (Dev.broadcastOn X src code body k) :=
  Dev.Tame.next (Dev.broadcastOn_tame_rec k _ _ _ _ (.refl _ _)) hsub hbase

theorem Dev.broadcast_tame {ps : Nat} {B X : Dev} (hsub : setOf [.stats, .link, .sent] ||| ps = ps)
    (hbase : Dev.Tame ps B X) (code : Nat) (body : List Byte) : Dev.Tame ps B (Dev.broadcast X code body) := by
  refine Dev.Tame.next ?_ hsub hbase
  unfold Dev.broadcast
  refine Dev.broadcastOn_tame (by decide) ?_ ..
  exact Dev.Tame.refl _ _

end Sys2Proof.Machine
end

