-- ==== Sys2Proof/Laws/FrameFaultOps.lean ====
section
/-! SUPPORT. What each operation of Machine/FaultOps.lean may change. -/

namespace Sys2Proof.Machine
open Sys2Proof

theorem Dev.stopTwinkle_tame {ps : Nat} {B X : Dev} (hsub : setOf [.free, .twk] ||| ps = ps)
    (hbase : Dev.Tame ps B X) : Dev.Tame ps B (Dev.stopTwinkle X) := by
  refine Dev.Tame.next ?_ hsub hbase
  unfold Dev.stopTwinkle
  refine Dev.tame_ite ?_ ?_
  · exact Dev.Tame.refl _ _
  · split
    · refine Dev.onTwk_tame (by decide) ?_ ..
      exact Dev.Tame.refl _ _
    · refine Dev.afterDraw_tame (by decide) ?_ ..
      refine Dev.onTwk_tame (by decide) ?_ ..
      exact Dev.Tame.refl _ _

theorem Dev.faultMsg_tame {ps : Nat} {B X : Dev} (hsub : setOf [.stats, .link, .sent] ||| ps = ps)
    (hbase : Dev.Tame ps B X) (src cls : Nat) (first : Bool) (stamp : List Byte) : Dev.Tame ps B (Dev.faultMsg X src cls first stamp) := by
  refine Dev.Tame.next ?_ hsub hbase
  unfold Dev.faultMsg
  refine Dev.tame_ite ?_ ?_
  · dsimp only
    refine Dev.tame_ite ?_ ?_
    · refine Dev.onLink_tame (by decide) ?_ ..
      exact Dev.Tame.refl _ _
    · refine Dev.sendMsg_tame (by decide) ?_ ..
      refine Dev.onLink_tame (by decide) ?_ ..
      exact Dev.Tame.refl _ _
  · exact Dev.Tame.refl _ _

theorem Dev.faultEntry_tame {ps : Nat} {B X : Dev} (hsub : setOf [.seq, .stats, .flt, .bbx, .link, .sent] ||| ps = ps)
    (hbase : Dev.Tame ps B X) (src cls arg : Nat) : Dev.Tame ps B (Dev.faultEntry X src cls arg) := by
  refine Dev.Tame.next ?_ hsub hbase
  unfold Dev.faultEntry
  dsimp only
  refine Dev.tame_ite ?_ ?_
  · refine Dev.faultMsg_tame (by decide) ?_ ..
    refine Dev.onFlt_tame (by decide) ?_ ..
    exact Dev.Tame.refl _ _
  · refine Dev.stamped_tame (by decide) ?_ ..
    refine Dev.faultMsg_tame (by decide) ?_ ..
    refine Dev.tame_ite ?_ ?_
    · refine Dev.bbxPut_tame (by decide) ?_ ..
      refine Dev.bbxPut_tame (by decide) ?_ ..
      refine Dev.onFlt_tame (by decide) ?_ ..
      exact Dev.Tame.refl _ _
    · refine Dev.bbxPut_tame (by decide) ?_ ..
      refine Dev.onFlt_tame (by decide) ?_ ..
      exact Dev.Tame.refl _ _

theorem Dev.raise_tame {ps : Nat} {B X : Dev} (hsub : setOf [.free, .seq, .stats, .commands, .events, .flt, .twk, .bbx, .link, .sent] ||| ps = ps)
    (hbase : Dev.Tame ps B X) (src arg : Nat) : Dev.Tame ps B (Dev.raise X src arg) := by
  refine Dev.Tame.next ?_ hsub hbase
  unfold Dev.raise
  refine Dev.tame_ite ?_ ?_
  · exact Dev.Tame.refl _ _
  · dsimp only
    split
    · refine Dev.postEvent_tame (by decide) ?_ ..
      refine Dev.faultEntry_tame (by decide) ?_ ..
      split
      · refine Dev.count_tame (by decide) ?_ ..
        refine Dev.onFlt_tame (by decide) ?_ ..
        exact Dev.Tame.refl _ _
      · refine Dev.count_tame (by decide) ?_ ..
        refine Dev.onFlt_tame (by decide) ?_ ..
        exact Dev.Tame.refl _ _
      · refine Dev.onFlt_tame (by decide) ?_ ..
        refine Dev.onFlt_tame (by decide) ?_ ..
        exact Dev.Tame.refl _ _
      · refine Dev.onFlt_tame (by decide) ?_ ..
        exact Dev.Tame.refl _ _
    · refine Dev.stopTwinkle_tame (by decide) ?_ ..
      refine Dev.postEvent_tame (by decide) ?_ ..
      refine Dev.faultEntry_tame (by decide) ?_ ..
      split
      · refine Dev.count_tame (by decide) ?_ ..
        refine Dev.onFlt_tame (by decide) ?_ ..
        exact Dev.Tame.refl _ _
      · refine Dev.count_tame (by decide) ?_ ..
        refine Dev.onFlt_tame (by decide) ?_ ..
        exact Dev.Tame.refl _ _
      · refine Dev.onFlt_tame (by decide) ?_ ..
        refine Dev.onFlt_tame (by decide) ?_ ..
        exact Dev.Tame.refl _ _
      · refine Dev.onFlt_tame (by decide) ?_ ..
        exact Dev.Tame.refl _ _
    · refine Dev.faultEntry_tame (by decide) ?_ ..
      split
      · refine Dev.count_tame (by decide) ?_ ..
        refine Dev.onFlt_tame (by decide) ?_ ..
        exact Dev.Tame.refl _ _
      · refine Dev.count_tame (by decide) ?_ ..
        refine Dev.onFlt_tame (by decide) ?_ ..
        exact Dev.Tame.refl _ _
      · refine Dev.onFlt_tame (by decide) ?_ ..
        refine Dev.onFlt_tame (by decide) ?_ ..
        exact Dev.Tame.refl _ _
      · refine Dev.onFlt_tame (by decide) ?_ ..
        exact Dev.Tame.refl _ _

theorem Dev.settle_tame {ps : Nat} {B X : Dev} (hsub : setOf [.free, .msix, .intr, .twk, .sent] ||| ps = ps)
    (hbase : Dev.Tame ps B X) : Dev.Tame ps B (Dev.settle X) := by
  refine Dev.Tame.next ?_ hsub hbase
  unfold Dev.settle
  dsimp only
  split
  · refine Dev.tame_ite ?_ ?_
    · refine Dev.tame_ite ?_ ?_
      · refine Dev.msix_tame (by decide) ?_ ..
        refine Dev.tame_intr (by decide) ?_
        exact Dev.Tame.refl _ _
      · refine Dev.tame_intr (by decide) ?_
        exact Dev.Tame.refl _ _
    · refine Dev.afterDraw_tame (by decide) ?_ ..
      refine Dev.onTwk_tame (by decide) ?_ ..
      refine Dev.tame_ite ?_ ?_
      · refine Dev.msix_tame (by decide) ?_ ..
        refine Dev.tame_intr (by decide) ?_
        exact Dev.Tame.refl _ _
      · refine Dev.tame_intr (by decide) ?_
        exact Dev.Tame.refl _ _
  · refine Dev.tame_ite ?_ ?_
    · refine Dev.msix_tame (by decide) ?_ ..
      refine Dev.tame_intr (by decide) ?_
      exact Dev.Tame.refl _ _
    · refine Dev.tame_intr (by decide) ?_
      exact Dev.Tame.refl _ _

end Sys2Proof.Machine
end

