-- ==== Sys2Proof/Laws/FrameOperands.lean ====
section
/-! SUPPORT. What each operation of Machine/Operands.lean may change. -/

namespace Sys2Proof.Machine
open Sys2Proof

theorem Mem.hostWrite_tame {ps : Nat} {B X : Mem} (hsub : setOf [.hostMem] ||| ps = ps)
    (hbase : Mem.Tame ps B X) (a : Nat) (l : List Byte) : Mem.Tame ps B (Mem.hostWrite X a l) := by
  refine Mem.Tame.next ?_ hsub hbase
  unfold Mem.hostWrite
  refine Mem.tame_host (by decide) (fun w => ?_) ?_
  · exact writeBytes_wf _ _ _ _ w
  · exact Mem.Tame.refl _ _

theorem Mem.setEntry_tame {ps : Nat} {B X : Mem} (hsub : setOf [.mram] ||| ps = ps)
    (hbase : Mem.Tame ps B X) (x : Nat) (l : List Byte) : Mem.Tame ps B (Mem.setEntry X x l) := by
  refine Mem.Tame.next ?_ hsub hbase
  unfold Mem.setEntry
  refine Mem.tame_mram (by decide) (fun w => ?_) ?_
  · exact Tbl.wf_set _ w _ _
  · exact Mem.Tame.refl _ _

theorem Mem.writePages_tame_rec {B : Mem} (k : List Nat) : ∀ (X : Mem) (l : List Byte), Mem.Tame (setOf [.hostMem]) B X →
    Mem.Tame (setOf [.hostMem]) B (Mem.writePages X l k) := by
  induction k with
  | nil =>
    intro X l g
    unfold Mem.writePages
    assumption
  | cons y r ih =>
    intro X l g
    unfold Mem.writePages
    apply ih
    refine Mem.hostWrite_tame (by decide) ?_ ..
    assumption

theorem Mem.writePages_tame {ps : Nat} {B X : Mem} (hsub : setOf [.hostMem] ||| ps = ps)
    (hbase : Mem.Tame ps B X) (l : List Byte) (k : List Nat) : Mem.Tame ps B (Mem.writePages X l k) :=
  Mem.Tame.next (Mem.writePages_tame_rec k _ _ (.refl _ _)) hsub hbase

theorem Mem.dataOut_tame {ps : Nat} {B X : Mem} (hsub : setOf [.hostMem] ||| ps = ps)
    (hbase : Mem.Tame ps B X) (c : Cmd) (l : List Byte) : Mem.Tame ps B (Mem.dataOut X c l) := by
  refine Mem.Tame.next ?_ hsub hbase
  unfold Mem.dataOut
  refine Mem.tame_ite ?_ ?_
  · refine Mem.writePages_tame (by decide) ?_ ..
    exact Mem.Tame.refl _ _
  · refine Mem.hostWrite_tame (by decide) ?_ ..
    exact Mem.Tame.refl _ _

theorem Dev.startList_tame_rec {B : Dev} (k : List Cmd) : ∀ (X : Dev) (sq : Nat) (before : Bool), Dev.Tame (setOf [.seq, .commands, .errorLog]) B X →
    Dev.Tame (setOf [.seq, .commands, .errorLog]) B (Dev.startList X sq before k) := by
  induction k with
  | nil =>
    intro X sq before g
    unfold Dev.startList
    assumption
  | cons y r ih =>
    intro X sq before g
    unfold Dev.startList
    refine Dev.tame_ite ?_ ?_
    · apply ih
      assumption
    · split
      · refine Dev.tame_ite ?_ ?_
        · assumption
        · dsimp only
          split
          · apply ih
            refine Dev.complete_tame (by decide) ?_ ..
            refine Dev.modCmd_tame (by decide) ?_ ..
            assumption
          · apply ih
            refine Dev.modCmd_tame (by decide) ?_ ..
            assumption
      · apply ih
        assumption

theorem Dev.startList_tame {ps : Nat} {B X : Dev} (hsub : setOf [.seq, .commands, .errorLog] ||| ps = ps)
    (hbase : Dev.Tame ps B X) (sq : Nat) (before : Bool) (k : List Cmd) : Dev.Tame ps B (Dev.startList X sq before k) :=
  Dev.Tame.next (Dev.startList_tame_rec k _ _ _ (.refl _ _)) hsub hbase

theorem Dev.startReady_tame {ps : Nat} {B X : Dev} (hsub : setOf [.seq, .commands, .errorLog] ||| ps = ps)
    (hbase : Dev.Tame ps B X) (sq : Nat) : Dev.Tame ps B (Dev.startReady X sq) := by
  refine Dev.Tame.next ?_ hsub hbase
  unfold Dev.startReady
  refine Dev.startList_tame (by decide) ?_ ..
  exact Dev.Tame.refl _ _

theorem runCmd_tame_dev {ps : Nat} {B : Dev} {X : Mach} {sq cid op : Nat} {f : Cmd → Mach → Mach}
    (h : ∀ c, Dev.Tame ps B (f c X).dev) (g : Dev.Tame ps B X.dev) : Dev.Tame ps B (runCmd sq cid op f X).dev := by
  unfold runCmd
  split
  · exact g
  · exact Mach.tame_ite_dev (h _) g

theorem runCmd_tame_mem {ps : Nat} {B : Mem} {X : Mach} {sq cid op : Nat} {f : Cmd → Mach → Mach}
    (h : ∀ c, Mem.Tame ps B (f c X).mem) (g : Mem.Tame ps B X.mem) : Mem.Tame ps B (runCmd sq cid op f X).mem := by
  unfold runCmd
  split
  · exact g
  · exact Mach.tame_ite_mem (h _) g

theorem Mach.complete_tame_dev {ps : Nat} {B : Dev} {X : Mach} (hsub : setOf [.seq, .commands, .errorLog] ||| ps = ps)
    (hbase : Dev.Tame ps B X.dev) (c : Cmd) (status : Nat) (result : Nat) (e : ErrInfo) : Dev.Tame ps B (Mach.complete X c status result e).dev := by
  refine Dev.Tame.next ?_ hsub hbase
  unfold Mach.complete
  dsimp only
  refine Dev.complete_tame (by decide) ?_ ..
  exact Dev.Tame.refl _ _

theorem Mach.complete_tame_mem {ps : Nat} {B : Mem} {X : Mach} (hsub : setOf [] ||| ps = ps)
    (hbase : Mem.Tame ps B X.mem) (c : Cmd) (status : Nat) (result : Nat) (e : ErrInfo) : Mem.Tame ps B (Mach.complete X c status result e).mem := by
  refine Mem.Tame.next ?_ hsub hbase
  unfold Mach.complete
  dsimp only
  exact Mem.Tame.refl _ _

theorem Mach.refuse_tame_dev {ps : Nat} {B : Dev} {X : Mach} (hsub : setOf [.seq, .commands, .errorLog] ||| ps = ps)
    (hbase : Dev.Tame ps B X.dev) (c : Cmd) (field : Nat) : Dev.Tame ps B (Mach.refuse X c field).dev := by
  refine Dev.Tame.next ?_ hsub hbase
  unfold Mach.refuse
  refine Mach.complete_tame_dev (by decide) ?_ ..
  exact Dev.Tame.refl _ _

theorem Mach.refuse_tame_mem {ps : Nat} {B : Mem} {X : Mach} (hsub : setOf [] ||| ps = ps)
    (hbase : Mem.Tame ps B X.mem) (c : Cmd) (field : Nat) : Mem.Tame ps B (Mach.refuse X c field).mem := by
  refine Mem.Tame.next ?_ hsub hbase
  unfold Mach.refuse
  refine Mach.complete_tame_mem (by decide) ?_ ..
  exact Mem.Tame.refl _ _

theorem Dev.noteDenied_tame {ps : Nat} {B X : Dev} (hsub : setOf [.seq, .admission] ||| ps = ps)
    (hbase : Dev.Tame ps B X) (check stream needed available : Nat) : Dev.Tame ps B (Dev.noteDenied X check stream needed available) := by
  refine Dev.Tame.next ?_ hsub hbase
  unfold Dev.noteDenied
  dsimp only
  refine Dev.stamped_tame (by decide) ?_ ..
  refine Dev.tame_host ?_ ?_
  · exact HostIf.Same.mk
      (.inr ⟨rfl, rfl⟩)
      (.inr rfl)
      (.inr rfl)
      (.inr ⟨rfl, rfl, rfl, rfl⟩)
      (.inr ⟨rfl, rfl, rfl, rfl, rfl, rfl⟩)
      (.inr ⟨rfl, rfl, rfl, rfl, rfl⟩)
      (.inr ⟨rfl, rfl, rfl, rfl⟩)
      (.inr rfl)
      (.inr ⟨rfl, rfl, rfl⟩)
      (.inl (by decide))
      (.inr ⟨rfl, rfl, rfl, rfl⟩)
      (.inr rfl)
  · exact Dev.Tame.refl _ _

theorem Mach.deny_tame_dev {ps : Nat} {B : Dev} {X : Mach} (hsub : setOf [.seq, .commands, .errorLog, .admission] ||| ps = ps)
    (hbase : Dev.Tame ps B X.dev) (c : Cmd) (check stream : Nat) (needed : Nat) (available : Nat) : Dev.Tame ps B (Mach.deny X c check stream needed available).dev := by
  refine Dev.Tame.next ?_ hsub hbase
  unfold Mach.deny
  refine Mach.complete_tame_dev (by decide) ?_ ..
  dsimp only
  refine Dev.noteDenied_tame (by decide) ?_ ..
  exact Dev.Tame.refl _ _

theorem Mach.deny_tame_mem {ps : Nat} {B : Mem} {X : Mach} (hsub : setOf [] ||| ps = ps)
    (hbase : Mem.Tame ps B X.mem) (c : Cmd) (check stream : Nat) (needed : Nat) (available : Nat) : Mem.Tame ps B (Mach.deny X c check stream needed available).mem := by
  refine Mem.Tame.next ?_ hsub hbase
  unfold Mach.deny
  refine Mach.complete_tame_mem (by decide) ?_ ..
  dsimp only
  exact Mem.Tame.refl _ _

theorem Dev.keepRunning_tame {ps : Nat} {B X : Dev} (hsub : setOf [.commands] ||| ps = ps)
    (hbase : Dev.Tame ps B X) (c : Cmd) : Dev.Tame ps B (Dev.keepRunning X c) := by
  refine Dev.Tame.next ?_ hsub hbase
  unfold Dev.keepRunning
  refine Dev.modCmd_tame (by decide) ?_ ..
  exact Dev.Tame.refl _ _

end Sys2Proof.Machine
end

