-- ==== Sys2Proof/Laws/FrameQueues.lean ====
section
/-! SUPPORT. What each operation of Machine/Queues.lean may change. -/

namespace Sys2Proof.Machine
open Sys2Proof

theorem Dev.setSq_tame {ps : Nat} {B X : Dev} (hsub : setOf [.sqs] ||| ps = ps)
    (hbase : Dev.Tame ps B X) (q : Nat) (v : Option Sq) : Dev.Tame ps B (Dev.setSq X q v) := by
  refine Dev.Tame.next ?_ hsub hbase
  unfold Dev.setSq
  refine Dev.tame_onHost ?_ ?_
  · exact HostIf.Same.mk
      (.inr ⟨rfl, rfl⟩)
      (.inl (by decide))
      (.inr rfl)
      (.inr ⟨rfl, rfl, rfl, rfl⟩)
      (.inr ⟨rfl, rfl, rfl, rfl, rfl, rfl⟩)
      (.inr ⟨rfl, rfl, rfl, rfl, rfl⟩)
      (.inr ⟨rfl, rfl, rfl, rfl⟩)
      (.inr rfl)
      (.inr ⟨rfl, rfl, rfl⟩)
      (.inr rfl)
      (.inr ⟨rfl, rfl, rfl, rfl⟩)
      (.inr rfl)
  · exact Dev.Tame.refl _ _

theorem Dev.setCq_tame {ps : Nat} {B X : Dev} (hsub : setOf [.cqs] ||| ps = ps)
    (hbase : Dev.Tame ps B X) (q : Nat) (v : Option Cq) : Dev.Tame ps B (Dev.setCq X q v) := by
  refine Dev.Tame.next ?_ hsub hbase
  unfold Dev.setCq
  refine Dev.tame_onHost ?_ ?_
  · exact HostIf.Same.mk
      (.inr ⟨rfl, rfl⟩)
      (.inr rfl)
      (.inl (by decide))
      (.inr ⟨rfl, rfl, rfl, rfl⟩)
      (.inr ⟨rfl, rfl, rfl, rfl, rfl, rfl⟩)
      (.inr ⟨rfl, rfl, rfl, rfl, rfl⟩)
      (.inr ⟨rfl, rfl, rfl, rfl⟩)
      (.inr rfl)
      (.inr ⟨rfl, rfl, rfl⟩)
      (.inr rfl)
      (.inr ⟨rfl, rfl, rfl, rfl⟩)
      (.inr rfl)
  · exact Dev.Tame.refl _ _

theorem Dev.recordOpen_tame {ps : Nat} {B X : Dev} (hsub : setOf [.free, .seq, .bbx] ||| ps = ps)
    (hbase : Dev.Tame ps B X) : Dev.Tame ps B (Dev.recordOpen X) := by
  refine Dev.Tame.next ?_ hsub hbase
  unfold Dev.recordOpen
  dsimp only
  refine Dev.record_tame (by decide) ?_ ..
  refine Dev.afterDraw_tame (by decide) ?_ ..
  refine Dev.afterDraw_tame (by decide) ?_ ..
  refine Dev.afterDraw_tame (by decide) ?_ ..
  exact Dev.Tame.refl _ _

theorem Dev.sqDoorbell_tame {ps : Nat} {B X : Dev} (hsub : setOf [.seq, .sqs, .commands, .events, .access, .msix, .intr, .sent] ||| ps = ps)
    (hbase : Dev.Tame ps B X) (q t : Nat) : Dev.Tame ps B (Dev.sqDoorbell X q t) := by
  refine Dev.Tame.next ?_ hsub hbase
  unfold Dev.sqDoorbell
  split
  · refine Dev.tame_onHost ?_ ?_
    · exact HostIf.Same.mk
        (.inr ⟨rfl, rfl⟩)
        (.inl (by decide))
        (.inr rfl)
        (.inr ⟨rfl, rfl, rfl, rfl⟩)
        (.inr ⟨rfl, rfl, rfl, rfl, rfl, rfl⟩)
        (.inl (by decide))
        (.inl (by decide))
        (.inr rfl)
        (.inr ⟨rfl, rfl, rfl⟩)
        (.inr rfl)
        (.inl (by decide))
        (.inl (by decide))
    · exact Dev.Tame.refl _ _
  · refine Dev.tame_ite ?_ ?_
    · exact Dev.Tame.refl _ _
    · refine Dev.tame_ite ?_ ?_
      · refine Dev.fireInt_tame (by decide) ?_ ..
        refine Dev.setSq_tame (by decide) ?_ ..
        exact Dev.Tame.refl _ _
      · refine Dev.postEvent_tame (by decide) ?_ ..
        refine Dev.fireInt_tame (by decide) ?_ ..
        refine Dev.setSq_tame (by decide) ?_ ..
        exact Dev.Tame.refl _ _

theorem Dev.cqPosted_tame {ps : Nat} {B X : Dev} (hsub : setOf [.cqs, .msix, .sent] ||| ps = ps)
    (hbase : Dev.Tame ps B X) (q : Nat) (c : Cq) : Dev.Tame ps B (Dev.cqPosted X q c) := by
  refine Dev.Tame.next ?_ hsub hbase
  unfold Dev.cqPosted
  refine Dev.tame_ite ?_ ?_
  · refine Dev.setCq_tame (by decide) ?_ ..
    exact Dev.Tame.refl _ _
  · refine Dev.tame_ite ?_ ?_
    · refine Dev.msix_tame (by decide) ?_ ..
      refine Dev.setCq_tame (by decide) ?_ ..
      exact Dev.Tame.refl _ _
    · refine Dev.setCq_tame (by decide) ?_ ..
      exact Dev.Tame.refl _ _

theorem Dev.retire_tame {ps : Nat} {B X : Dev} (hsub : setOf [.seq, .commands, .errorLog] ||| ps = ps)
    (hbase : Dev.Tame ps B X) (sq cid : Nat) : Dev.Tame ps B (Dev.retire X sq cid) := by
  refine Dev.Tame.next ?_ hsub hbase
  unfold Dev.retire
  dsimp only
  refine Dev.startReady_tame (by decide) ?_ ..
  refine Dev.tame_onHost ?_ ?_
  · exact HostIf.Same.mk
      (.inr ⟨rfl, rfl⟩)
      (.inr rfl)
      (.inr rfl)
      (.inr ⟨rfl, rfl, rfl, rfl⟩)
      (.inr ⟨rfl, rfl, rfl, rfl, rfl, rfl⟩)
      (.inl (by decide))
      (.inr ⟨rfl, rfl, rfl, rfl⟩)
      (.inl (by decide))
      (.inr ⟨rfl, rfl, rfl⟩)
      (.inr rfl)
      (.inr ⟨rfl, rfl, rfl, rfl⟩)
      (.inr rfl)
  · exact Dev.Tame.refl _ _

theorem Dev.endDelete_tame {ps : Nat} {B X : Dev} (hsub : setOf [.seq, .sqs, .commands, .errorLog] ||| ps = ps)
    (hbase : Dev.Tame ps B X) (sq : Nat) : Dev.Tame ps B (Dev.endDelete X sq) := by
  refine Dev.Tame.next ?_ hsub hbase
  unfold Dev.endDelete
  split
  · exact Dev.Tame.refl _ _
  · refine Dev.tame_ite ?_ ?_
    · dsimp only
      split
      · refine Dev.complete_tame (by decide) ?_ ..
        refine Dev.setSq_tame (by decide) ?_ ..
        exact Dev.Tame.refl _ _
      · refine Dev.setSq_tame (by decide) ?_ ..
        exact Dev.Tame.refl _ _
    · exact Dev.Tame.refl _ _

theorem Mach.writeCqe_tame_dev {ps : Nat} {B : Dev} {X : Mach} (hsub : setOf [.cqs, .msix, .sent] ||| ps = ps)
    (hbase : Dev.Tame ps B X.dev) (c : Cq) (e : Compl) (held : Bool) : Dev.Tame ps B (Mach.writeCqe X c e held).dev := by
  refine Dev.Tame.next ?_ hsub hbase
  unfold Mach.writeCqe
  dsimp only
  refine Dev.cqPosted_tame (by decide) ?_ ..
  exact Dev.Tame.refl _ _

theorem Mach.writeCqe_tame_mem {ps : Nat} {B : Mem} {X : Mach} (hsub : setOf [.hostMem] ||| ps = ps)
    (hbase : Mem.Tame ps B X.mem) (c : Cq) (e : Compl) (held : Bool) : Mem.Tame ps B (Mach.writeCqe X c e held).mem := by
  refine Mem.Tame.next ?_ hsub hbase
  unfold Mach.writeCqe
  dsimp only
  refine Mem.hostWrite_tame (by decide) ?_ ..
  exact Mem.Tame.refl _ _

theorem Dev.hold_tame {ps : Nat} {B X : Dev} (hsub : setOf [.free, .seq, .commands, .events, .bbx] ||| ps = ps)
    (hbase : Dev.Tame ps B X) (e : Compl) : Dev.Tame ps B (Dev.hold X e) := by
  refine Dev.Tame.next ?_ hsub hbase
  unfold Dev.hold
  dsimp only
  refine Dev.tame_ite ?_ ?_
  · refine Dev.tame_ite ?_ ?_
    · refine Dev.recordOpen_tame (by decide) ?_ ..
      refine Dev.tame_onHost ?_ ?_
      · exact HostIf.Same.mk
          (.inr ⟨rfl, rfl⟩)
          (.inr rfl)
          (.inr rfl)
          (.inr ⟨rfl, rfl, rfl, rfl⟩)
          (.inr ⟨rfl, rfl, rfl, rfl, rfl, rfl⟩)
          (.inl (by decide))
          (.inl (by decide))
          (.inr rfl)
          (.inr ⟨rfl, rfl, rfl⟩)
          (.inr rfl)
          (.inr ⟨rfl, rfl, rfl, rfl⟩)
          (.inr rfl)
      · exact Dev.Tame.refl _ _
    · refine Dev.postEvent_tame (by decide) ?_ ..
      refine Dev.tame_onHost ?_ ?_
      · exact HostIf.Same.mk
          (.inr ⟨rfl, rfl⟩)
          (.inr rfl)
          (.inr rfl)
          (.inr ⟨rfl, rfl, rfl, rfl⟩)
          (.inr ⟨rfl, rfl, rfl, rfl, rfl, rfl⟩)
          (.inl (by decide))
          (.inl (by decide))
          (.inr rfl)
          (.inr ⟨rfl, rfl, rfl⟩)
          (.inr rfl)
          (.inr ⟨rfl, rfl, rfl, rfl⟩)
          (.inr rfl)
      · exact Dev.Tame.refl _ _
  · refine Dev.tame_onHost ?_ ?_
    · exact HostIf.Same.mk
        (.inr ⟨rfl, rfl⟩)
        (.inr rfl)
        (.inr rfl)
        (.inr ⟨rfl, rfl, rfl, rfl⟩)
        (.inr ⟨rfl, rfl, rfl, rfl, rfl, rfl⟩)
        (.inl (by decide))
        (.inl (by decide))
        (.inr rfl)
        (.inr ⟨rfl, rfl, rfl⟩)
        (.inr rfl)
        (.inr ⟨rfl, rfl, rfl, rfl⟩)
        (.inr rfl)
    · exact Dev.Tame.refl _ _

theorem Mach.postCompletion_tame_dev {ps : Nat} {B : Dev} {X : Mach} (hsub : setOf [.free, .seq, .sqs, .cqs, .commands, .events, .errorLog, .msix, .bbx, .sent] ||| ps = ps)
    (hbase : Dev.Tame ps B X.dev) : Dev.Tame ps B (Mach.postCompletion X).dev := by
  refine Dev.Tame.next ?_ hsub hbase
  unfold Mach.postCompletion
  split
  · exact Dev.Tame.refl _ _
  · dsimp only
    refine Dev.endDelete_tame (by decide) ?_ ..
    refine Dev.retire_tame (by decide) ?_ ..
    split
    · dsimp only
      refine Dev.tame_onHost ?_ ?_
      · exact HostIf.Same.mk
          (.inr ⟨rfl, rfl⟩)
          (.inl (by decide))
          (.inl (by decide))
          (.inr ⟨rfl, rfl, rfl, rfl⟩)
          (.inr ⟨rfl, rfl, rfl, rfl, rfl, rfl⟩)
          (.inl (by decide))
          (.inl (by decide))
          (.inl (by decide))
          (.inr ⟨rfl, rfl, rfl⟩)
          (.inr rfl)
          (.inr ⟨rfl, rfl, rfl, rfl⟩)
          (.inl (by decide))
      · exact Dev.Tame.refl _ _
    · refine Mach.tame_ite_dev ?_ ?_
      · dsimp only
        refine Dev.tame_onHost ?_ ?_
        · exact HostIf.Same.mk
            (.inr ⟨rfl, rfl⟩)
            (.inl (by decide))
            (.inl (by decide))
            (.inr ⟨rfl, rfl, rfl, rfl⟩)
            (.inr ⟨rfl, rfl, rfl, rfl, rfl, rfl⟩)
            (.inl (by decide))
            (.inl (by decide))
            (.inl (by decide))
            (.inr ⟨rfl, rfl, rfl⟩)
            (.inr rfl)
            (.inr ⟨rfl, rfl, rfl, rfl⟩)
            (.inl (by decide))
        · refine Dev.tame_onHost ?_ ?_
          · exact HostIf.Same.mk
              (.inr ⟨rfl, rfl⟩)
              (.inl (by decide))
              (.inl (by decide))
              (.inr ⟨rfl, rfl, rfl, rfl⟩)
              (.inr ⟨rfl, rfl, rfl, rfl, rfl, rfl⟩)
              (.inl (by decide))
              (.inl (by decide))
              (.inl (by decide))
              (.inr ⟨rfl, rfl, rfl⟩)
              (.inr rfl)
              (.inr ⟨rfl, rfl, rfl, rfl⟩)
              (.inl (by decide))
          · exact Dev.Tame.refl _ _
      · refine Mach.tame_ite_dev ?_ ?_
        · refine Mach.writeCqe_tame_dev (by decide) ?_ ..
          dsimp only
          refine Dev.tame_onHost ?_ ?_
          · exact HostIf.Same.mk
              (.inr ⟨rfl, rfl⟩)
              (.inl (by decide))
              (.inl (by decide))
              (.inr ⟨rfl, rfl, rfl, rfl⟩)
              (.inr ⟨rfl, rfl, rfl, rfl, rfl, rfl⟩)
              (.inl (by decide))
              (.inl (by decide))
              (.inl (by decide))
              (.inr ⟨rfl, rfl, rfl⟩)
              (.inr rfl)
              (.inr ⟨rfl, rfl, rfl, rfl⟩)
              (.inl (by decide))
          · exact Dev.Tame.refl _ _
        · dsimp only
          refine Dev.hold_tame (by decide) ?_ ..
          refine Dev.tame_onHost ?_ ?_
          · exact HostIf.Same.mk
              (.inr ⟨rfl, rfl⟩)
              (.inl (by decide))
              (.inl (by decide))
              (.inr ⟨rfl, rfl, rfl, rfl⟩)
              (.inr ⟨rfl, rfl, rfl, rfl, rfl, rfl⟩)
              (.inl (by decide))
              (.inl (by decide))
              (.inl (by decide))
              (.inr ⟨rfl, rfl, rfl⟩)
              (.inr rfl)
              (.inr ⟨rfl, rfl, rfl, rfl⟩)
              (.inl (by decide))
          · exact Dev.Tame.refl _ _

theorem Mach.postCompletion_tame_mem {ps : Nat} {B : Mem} {X : Mach} (hsub : setOf [.hostMem] ||| ps = ps)
    (hbase : Mem.Tame ps B X.mem) : Mem.Tame ps B (Mach.postCompletion X).mem := by
  refine Mem.Tame.next ?_ hsub hbase
  unfold Mach.postCompletion
  split
  · exact Mem.Tame.refl _ _
  · dsimp only
    split
    · dsimp only
      exact Mem.Tame.refl _ _
    · refine Mach.tame_ite_mem ?_ ?_
      · dsimp only
        exact Mem.Tame.refl _ _
      · refine Mach.tame_ite_mem ?_ ?_
        · refine Mach.writeCqe_tame_mem (by decide) ?_ ..
          dsimp only
          exact Mem.Tame.refl _ _
        · dsimp only
          exact Mem.Tame.refl _ _

theorem Mach.drainHeld_tame_dev_rec {B : Dev} (k : Nat) : ∀ (X : Mach) (q : Nat), Dev.Tame (setOf [.cqs, .commands, .msix, .sent]) B X.dev →
    Dev.Tame (setOf [.cqs, .commands, .msix, .sent]) B (Mach.drainHeld X q k).dev := by
  induction k with
  | zero =>
    intro X q g
    unfold Mach.drainHeld
    assumption
  | succ k ih_dev =>
    intro X q g
    unfold Mach.drainHeld
    split
    · refine Mach.tame_ite_dev ?_ ?_
      · assumption
      · dsimp only
        apply ih_dev
        refine Mach.writeCqe_tame_dev (by decide) ?_ ..
        dsimp only
        refine Dev.tame_onHost ?_ ?_
        · exact HostIf.Same.mk
            (.inr ⟨rfl, rfl⟩)
            (.inr rfl)
            (.inl (by decide))
            (.inr ⟨rfl, rfl, rfl, rfl⟩)
            (.inr ⟨rfl, rfl, rfl, rfl, rfl, rfl⟩)
            (.inl (by decide))
            (.inr ⟨rfl, rfl, rfl, rfl⟩)
            (.inr rfl)
            (.inr ⟨rfl, rfl, rfl⟩)
            (.inr rfl)
            (.inr ⟨rfl, rfl, rfl, rfl⟩)
            (.inl (by decide))
        · assumption
    · assumption

theorem Mach.drainHeld_tame_dev {ps : Nat} {B : Dev} {X : Mach} (hsub : setOf [.cqs, .commands, .msix, .sent] ||| ps = ps)
    (hbase : Dev.Tame ps B X.dev) (q : Nat) (k : Nat) : Dev.Tame ps B (Mach.drainHeld X q k).dev :=
  Dev.Tame.next (Mach.drainHeld_tame_dev_rec k _ _ (.refl _ _)) hsub hbase

theorem Mach.drainHeld_tame_mem_rec {B : Mem} (k : Nat) : ∀ (X : Mach) (q : Nat), Mem.Tame (setOf [.hostMem]) B X.mem →
    Mem.Tame (setOf [.hostMem]) B (Mach.drainHeld X q k).mem := by
  induction k with
  | zero =>
    intro X q g
    unfold Mach.drainHeld
    assumption
  | succ k ih_mem =>
    intro X q g
    unfold Mach.drainHeld
    split
    · refine Mach.tame_ite_mem ?_ ?_
      · assumption
      · dsimp only
        apply ih_mem
        refine Mach.writeCqe_tame_mem (by decide) ?_ ..
        dsimp only
        assumption
    · assumption

theorem Mach.drainHeld_tame_mem {ps : Nat} {B : Mem} {X : Mach} (hsub : setOf [.hostMem] ||| ps = ps)
    (hbase : Mem.Tame ps B X.mem) (q : Nat) (k : Nat) : Mem.Tame ps B (Mach.drainHeld X q k).mem :=
  Mem.Tame.next (Mach.drainHeld_tame_mem_rec k _ _ (.refl _ _)) hsub hbase

theorem Dev.holdResume_tame {ps : Nat} {B X : Dev} (hsub : setOf [.commands] ||| ps = ps)
    (hbase : Dev.Tame ps B X) : Dev.Tame ps B (Dev.holdResume X) := by
  refine Dev.Tame.next ?_ hsub hbase
  unfold Dev.holdResume
  refine Dev.tame_ite ?_ ?_
  · refine Dev.tame_onHost ?_ ?_
    · exact HostIf.Same.mk
        (.inr ⟨rfl, rfl⟩)
        (.inr rfl)
        (.inr rfl)
        (.inr ⟨rfl, rfl, rfl, rfl⟩)
        (.inr ⟨rfl, rfl, rfl, rfl, rfl, rfl⟩)
        (.inl (by decide))
        (.inr ⟨rfl, rfl, rfl, rfl⟩)
        (.inr rfl)
        (.inr ⟨rfl, rfl, rfl⟩)
        (.inr rfl)
        (.inr ⟨rfl, rfl, rfl, rfl⟩)
        (.inr rfl)
    · exact Dev.Tame.refl _ _
  · exact Dev.Tame.refl _ _

theorem Dev.reaggregate_tame {ps : Nat} {B X : Dev} (hsub : setOf [.cqs, .msix, .sent] ||| ps = ps)
    (hbase : Dev.Tame ps B X) (q : Nat) : Dev.Tame ps B (Dev.reaggregate X q) := by
  refine Dev.Tame.next ?_ hsub hbase
  unfold Dev.reaggregate
  split
  · exact Dev.Tame.refl _ _
  · dsimp only
    refine Dev.tame_ite ?_ ?_
    · refine Dev.setCq_tame (by decide) ?_ ..
      exact Dev.Tame.refl _ _
    · refine Dev.tame_ite ?_ ?_
      · refine Dev.msix_tame (by decide) ?_ ..
        refine Dev.setCq_tame (by decide) ?_ ..
        exact Dev.Tame.refl _ _
      · refine Dev.setCq_tame (by decide) ?_ ..
        exact Dev.Tame.refl _ _

theorem Mach.cqDoorbell_tame_dev {ps : Nat} {B : Dev} {X : Mach} (hsub : setOf [.free, .seq, .cqs, .commands, .events, .access, .msix, .intr, .bbx, .sent] ||| ps = ps)
    (hbase : Dev.Tame ps B X.dev) (q h : Nat) : Dev.Tame ps B (Mach.cqDoorbell X q h).dev := by
  refine Dev.Tame.next ?_ hsub hbase
  unfold Mach.cqDoorbell
  split
  · dsimp only
    refine Dev.tame_onHost ?_ ?_
    · exact HostIf.Same.mk
        (.inr ⟨rfl, rfl⟩)
        (.inr rfl)
        (.inl (by decide))
        (.inr ⟨rfl, rfl, rfl, rfl⟩)
        (.inr ⟨rfl, rfl, rfl, rfl, rfl, rfl⟩)
        (.inl (by decide))
        (.inl (by decide))
        (.inr rfl)
        (.inr ⟨rfl, rfl, rfl⟩)
        (.inr rfl)
        (.inl (by decide))
        (.inl (by decide))
    · exact Dev.Tame.refl _ _
  · refine Mach.tame_ite_dev ?_ ?_
    · exact Dev.Tame.refl _ _
    · refine Mach.tame_ite_dev ?_ ?_
      · refine Mach.tame_ite_dev ?_ ?_
        · dsimp only
          refine Dev.fireInt_tame (by decide) ?_ ..
          exact Dev.Tame.refl _ _
        · dsimp only
          refine Dev.holdResume_tame (by decide) ?_ ..
          refine Mach.drainHeld_tame_dev (by decide) ?_ ..
          dsimp only
          refine Dev.fireInt_tame (by decide) ?_ ..
          refine Dev.reaggregate_tame (by decide) ?_ ..
          refine Dev.setCq_tame (by decide) ?_ ..
          exact Dev.Tame.refl _ _
      · dsimp only
        refine Dev.tame_ite ?_ ?_
        · refine Dev.recordOpen_tame (by decide) ?_ ..
          refine Dev.fireInt_tame (by decide) ?_ ..
          refine Dev.setCq_tame (by decide) ?_ ..
          exact Dev.Tame.refl _ _
        · refine Dev.postEvent_tame (by decide) ?_ ..
          refine Dev.fireInt_tame (by decide) ?_ ..
          refine Dev.setCq_tame (by decide) ?_ ..
          exact Dev.Tame.refl _ _

theorem Mach.cqDoorbell_tame_mem {ps : Nat} {B : Mem} {X : Mach} (hsub : setOf [.hostMem] ||| ps = ps)
    (hbase : Mem.Tame ps B X.mem) (q h : Nat) : Mem.Tame ps B (Mach.cqDoorbell X q h).mem := by
  refine Mem.Tame.next ?_ hsub hbase
  unfold Mach.cqDoorbell
  split
  · dsimp only
    exact Mem.Tame.refl _ _
  · refine Mach.tame_ite_mem ?_ ?_
    · exact Mem.Tame.refl _ _
    · refine Mach.tame_ite_mem ?_ ?_
      · refine Mach.tame_ite_mem ?_ ?_
        · dsimp only
          exact Mem.Tame.refl _ _
        · dsimp only
          refine Mach.drainHeld_tame_mem (by decide) ?_ ..
          dsimp only
          exact Mem.Tame.refl _ _
      · dsimp only
        exact Mem.Tame.refl _ _

theorem Dev.adminActivate_tame {ps : Nat} {B X : Dev} (hsub : setOf [.sqs, .cqs, .admin] ||| ps = ps)
    (hbase : Dev.Tame ps B X) : Dev.Tame ps B (Dev.adminActivate X) := by
  refine Dev.Tame.next ?_ hsub hbase
  unfold Dev.adminActivate
  dsimp only
  refine Dev.tame_ite ?_ ?_
  · exact Dev.Tame.refl _ _
  · refine Dev.tame_ite ?_ ?_
    · refine Dev.tame_onHost ?_ ?_
      · exact HostIf.Same.mk
          (.inr ⟨rfl, rfl⟩)
          (.inl (by decide))
          (.inl (by decide))
          (.inr ⟨rfl, rfl, rfl, rfl⟩)
          (.inl (by decide))
          (.inr ⟨rfl, rfl, rfl, rfl, rfl⟩)
          (.inr ⟨rfl, rfl, rfl, rfl⟩)
          (.inr rfl)
          (.inr ⟨rfl, rfl, rfl⟩)
          (.inr rfl)
          (.inr ⟨rfl, rfl, rfl, rfl⟩)
          (.inr rfl)
      · refine Dev.setCq_tame (by decide) ?_ ..
        refine Dev.setSq_tame (by decide) ?_ ..
        exact Dev.Tame.refl _ _
    · refine Dev.tame_onHost ?_ ?_
      · exact HostIf.Same.mk
          (.inr ⟨rfl, rfl⟩)
          (.inl (by decide))
          (.inl (by decide))
          (.inr ⟨rfl, rfl, rfl, rfl⟩)
          (.inl (by decide))
          (.inr ⟨rfl, rfl, rfl, rfl, rfl⟩)
          (.inr ⟨rfl, rfl, rfl, rfl⟩)
          (.inr rfl)
          (.inr ⟨rfl, rfl, rfl⟩)
          (.inr rfl)
          (.inr ⟨rfl, rfl, rfl, rfl⟩)
          (.inr rfl)
      · exact Dev.Tame.refl _ _

theorem Dev.adminEnable_tame {ps : Nat} {B X : Dev} (hsub : setOf [.sqs, .cqs, .admin, .msix, .intr, .sent] ||| ps = ps)
    (hbase : Dev.Tame ps B X) : Dev.Tame ps B (Dev.adminEnable X) := by
  refine Dev.Tame.next ?_ hsub hbase
  unfold Dev.adminEnable
  refine Dev.tame_ite ?_ ?_
  · exact Dev.Tame.refl _ _
  · refine Dev.adminActivate_tame (by decide) ?_ ..
    refine Dev.fireInt_tame (by decide) ?_ ..
    refine Dev.tame_onHost ?_ ?_
    · exact HostIf.Same.mk
        (.inr ⟨rfl, rfl⟩)
        (.inl (by decide))
        (.inl (by decide))
        (.inr ⟨rfl, rfl, rfl, rfl⟩)
        (.inl (by decide))
        (.inr ⟨rfl, rfl, rfl, rfl, rfl⟩)
        (.inr ⟨rfl, rfl, rfl, rfl⟩)
        (.inr rfl)
        (.inr ⟨rfl, rfl, rfl⟩)
        (.inr rfl)
        (.inr ⟨rfl, rfl, rfl, rfl⟩)
        (.inl (by decide))
    · exact Dev.Tame.refl _ _

theorem HostIf.orphan_tame (h : HostIf) (p : Nat → Bool) :
    HostIf.Same (setOf [.commands, .events]) h (h.orphan p) :=
  HostIf.Same.mk (.inr ⟨rfl, rfl⟩) (.inr rfl) (.inr rfl) (.inr ⟨rfl, rfl, rfl, rfl⟩) (.inr ⟨rfl, rfl, rfl, rfl, rfl, rfl⟩)
    (.inl (by decide)) (.inl (by decide)) (.inr rfl) (.inr ⟨rfl, rfl, rfl⟩) (.inr rfl) (.inr ⟨rfl, rfl, rfl, rfl⟩) (.inr rfl)

theorem Dev.adminDisable_tame {ps : Nat} {B X : Dev} (hsub : setOf [.sqs, .cqs, .admin, .commands, .events, .msix, .intr, .sent] ||| ps = ps)
    (hbase : Dev.Tame ps B X) : Dev.Tame ps B (Dev.adminDisable X) := by
  refine Dev.Tame.next ?_ hsub hbase
  unfold Dev.adminDisable
  refine Dev.tame_ite ?_ ?_
  · exact Dev.Tame.refl _ _
  · dsimp only
    refine Dev.holdResume_tame (by decide) ?_ ..
    refine Dev.fireInt_tame (by decide) ?_ ..
    refine Dev.tame_onHost ?_ ?_
    · exact HostIf.Same.mk
        (.inr ⟨rfl, rfl⟩)
        (.inl (by decide))
        (.inl (by decide))
        (.inr ⟨rfl, rfl, rfl, rfl⟩)
        (.inl (by decide))
        (.inl (by decide))
        (.inl (by decide))
        (.inr rfl)
        (.inr ⟨rfl, rfl, rfl⟩)
        (.inr rfl)
        (.inr ⟨rfl, rfl, rfl, rfl⟩)
        (.inl (by decide))
    · refine Dev.setCq_tame (by decide) ?_ ..
      refine Dev.setSq_tame (by decide) ?_ ..
      refine Dev.tame_onHost ?_ ?_
      · exact (HostIf.orphan_tame ..).mono (by decide)
      · exact Dev.Tame.refl _ _

theorem Dev.served_tame {ps : Nat} {B X : Dev} (hsub : setOf [.turns] ||| ps = ps)
    (hbase : Dev.Tame ps B X) (q : Nat) (s : Sq) : Dev.Tame ps B (Dev.served X q s) := by
  refine Dev.Tame.next ?_ hsub hbase
  unfold Dev.served
  dsimp only
  refine Dev.tame_onHost ?_ ?_
  · exact HostIf.Same.mk
      (.inr ⟨rfl, rfl⟩)
      (.inr rfl)
      (.inr rfl)
      (.inl (by decide))
      (.inr ⟨rfl, rfl, rfl, rfl, rfl, rfl⟩)
      (.inr ⟨rfl, rfl, rfl, rfl, rfl⟩)
      (.inr ⟨rfl, rfl, rfl, rfl⟩)
      (.inr rfl)
      (.inr ⟨rfl, rfl, rfl⟩)
      (.inr rfl)
      (.inr ⟨rfl, rfl, rfl, rfl⟩)
      (.inr rfl)
  · exact Dev.Tame.refl _ _

theorem Mach.fetch_tame_dev {ps : Nat} {B : Dev} {X : Mach} (hsub : setOf [.seq, .sqs, .commands, .errorLog] ||| ps = ps)
    (hbase : Dev.Tame ps B X.dev) (q : Nat) (s : Sq) : Dev.Tame ps B (Mach.fetch X q s).dev := by
  refine Dev.Tame.next ?_ hsub hbase
  unfold Mach.fetch
  dsimp only
  refine Mach.tame_ite_dev ?_ ?_
  · dsimp only
    refine Dev.stamped_tame (by decide) ?_ ..
    refine Dev.tame_onHost ?_ ?_
    · exact HostIf.Same.mk
        (.inr ⟨rfl, rfl⟩)
        (.inl (by decide))
        (.inr rfl)
        (.inr ⟨rfl, rfl, rfl, rfl⟩)
        (.inr ⟨rfl, rfl, rfl, rfl, rfl, rfl⟩)
        (.inl (by decide))
        (.inr ⟨rfl, rfl, rfl, rfl⟩)
        (.inl (by decide))
        (.inr ⟨rfl, rfl, rfl⟩)
        (.inr rfl)
        (.inr ⟨rfl, rfl, rfl, rfl⟩)
        (.inr rfl)
    · refine Dev.setSq_tame (by decide) ?_ ..
      exact Dev.Tame.refl _ _
  · dsimp only
    refine Dev.startReady_tame (by decide) ?_ ..
    refine Dev.tame_onHost ?_ ?_
    · exact HostIf.Same.mk
        (.inr ⟨rfl, rfl⟩)
        (.inl (by decide))
        (.inr rfl)
        (.inr ⟨rfl, rfl, rfl, rfl⟩)
        (.inr ⟨rfl, rfl, rfl, rfl, rfl, rfl⟩)
        (.inl (by decide))
        (.inr ⟨rfl, rfl, rfl, rfl⟩)
        (.inl (by decide))
        (.inr ⟨rfl, rfl, rfl⟩)
        (.inr rfl)
        (.inr ⟨rfl, rfl, rfl, rfl⟩)
        (.inr rfl)
    · refine Dev.setSq_tame (by decide) ?_ ..
      exact Dev.Tame.refl _ _

theorem Mach.fetch_tame_mem {ps : Nat} {B : Mem} {X : Mach} (hsub : setOf [] ||| ps = ps)
    (hbase : Mem.Tame ps B X.mem) (q : Nat) (s : Sq) : Mem.Tame ps B (Mach.fetch X q s).mem := by
  refine Mem.Tame.next ?_ hsub hbase
  unfold Mach.fetch
  dsimp only
  refine Mach.tame_ite_mem ?_ ?_
  · dsimp only
    exact Mem.Tame.refl _ _
  · dsimp only
    exact Mem.Tame.refl _ _

theorem Mach.sqFetch_tame_dev {ps : Nat} {B : Dev} {X : Mach} (hsub : setOf [.seq, .sqs, .turns, .commands, .errorLog] ||| ps = ps)
    (hbase : Dev.Tame ps B X.dev) (admin : Bool) : Dev.Tame ps B (Mach.sqFetch X admin).dev := by
  refine Dev.Tame.next ?_ hsub hbase
  unfold Mach.sqFetch
  dsimp only
  refine Mach.tame_ite_dev ?_ ?_
  · split
    · exact Dev.Tame.refl _ _
    · split
      · exact Dev.Tame.refl _ _
      · refine Mach.tame_ite_dev ?_ ?_
        · refine Mach.fetch_tame_dev (by decide) ?_ ..
          exact Dev.Tame.refl _ _
        · refine Mach.fetch_tame_dev (by decide) ?_ ..
          dsimp only
          refine Dev.served_tame (by decide) ?_ ..
          exact Dev.Tame.refl _ _
  · exact Dev.Tame.refl _ _

theorem Mach.sqFetch_tame_mem {ps : Nat} {B : Mem} {X : Mach} (hsub : setOf [] ||| ps = ps)
    (hbase : Mem.Tame ps B X.mem) (admin : Bool) : Mem.Tame ps B (Mach.sqFetch X admin).mem := by
  refine Mem.Tame.next ?_ hsub hbase
  unfold Mach.sqFetch
  dsimp only
  refine Mach.tame_ite_mem ?_ ?_
  · split
    · exact Mem.Tame.refl _ _
    · split
      · exact Mem.Tame.refl _ _
      · refine Mach.tame_ite_mem ?_ ?_
        · refine Mach.fetch_tame_mem (by decide) ?_ ..
          exact Mem.Tame.refl _ _
        · refine Mach.fetch_tame_mem (by decide) ?_ ..
          dsimp only
          exact Mem.Tame.refl _ _
  · exact Mem.Tame.refl _ _

theorem Dev.aggTimeout_tame {ps : Nat} {B X : Dev} (hsub : setOf [.clk, .cqs, .msix, .sid, .sent] ||| ps = ps)
    (hbase : Dev.Tame ps B X) (q : Nat) : Dev.Tame ps B (Dev.aggTimeout X q) := by
  refine Dev.Tame.next ?_ hsub hbase
  unfold Dev.aggTimeout
  split
  · exact Dev.Tame.refl _ _
  · refine Dev.tame_ite ?_ ?_
    · refine Dev.msix_tame (by decide) ?_ ..
      refine Dev.setCq_tame (by decide) ?_ ..
      refine Dev.advanceTo_tame (by decide) ?_ ..
      exact Dev.Tame.refl _ _
    · exact Dev.Tame.refl _ _

theorem Mach.createCq_tame_dev {ps : Nat} {B : Dev} {X : Mach} (hsub : setOf [.seq, .cqs, .commands, .errorLog] ||| ps = ps)
    (hbase : Dev.Tame ps B X.dev) (c : Cmd) : Dev.Tame ps B (Mach.createCq X c).dev := by
  refine Dev.Tame.next ?_ hsub hbase
  unfold Mach.createCq
  dsimp only
  refine Mach.tame_ite_dev ?_ ?_
  · refine Mach.complete_tame_dev (by decide) ?_ ..
    exact Dev.Tame.refl _ _
  · refine Mach.tame_ite_dev ?_ ?_
    · refine Mach.refuse_tame_dev (by decide) ?_ ..
      exact Dev.Tame.refl _ _
    · refine Mach.tame_ite_dev ?_ ?_
      · refine Mach.refuse_tame_dev (by decide) ?_ ..
        exact Dev.Tame.refl _ _
      · refine Mach.tame_ite_dev ?_ ?_
        · refine Mach.refuse_tame_dev (by decide) ?_ ..
          exact Dev.Tame.refl _ _
        · refine Mach.tame_ite_dev ?_ ?_
          · refine Mach.refuse_tame_dev (by decide) ?_ ..
            exact Dev.Tame.refl _ _
          · refine Mach.tame_ite_dev ?_ ?_
            · refine Mach.refuse_tame_dev (by decide) ?_ ..
              exact Dev.Tame.refl _ _
            · refine Mach.complete_tame_dev (by decide) ?_ ..
              dsimp only
              refine Dev.setCq_tame (by decide) ?_ ..
              exact Dev.Tame.refl _ _

theorem Mach.createCq_tame_mem {ps : Nat} {B : Mem} {X : Mach} (hsub : setOf [] ||| ps = ps)
    (hbase : Mem.Tame ps B X.mem) (c : Cmd) : Mem.Tame ps B (Mach.createCq X c).mem := by
  refine Mem.Tame.next ?_ hsub hbase
  unfold Mach.createCq
  dsimp only
  refine Mach.tame_ite_mem ?_ ?_
  · refine Mach.complete_tame_mem (by decide) ?_ ..
    exact Mem.Tame.refl _ _
  · refine Mach.tame_ite_mem ?_ ?_
    · refine Mach.refuse_tame_mem (by decide) ?_ ..
      exact Mem.Tame.refl _ _
    · refine Mach.tame_ite_mem ?_ ?_
      · refine Mach.refuse_tame_mem (by decide) ?_ ..
        exact Mem.Tame.refl _ _
      · refine Mach.tame_ite_mem ?_ ?_
        · refine Mach.refuse_tame_mem (by decide) ?_ ..
          exact Mem.Tame.refl _ _
        · refine Mach.tame_ite_mem ?_ ?_
          · refine Mach.refuse_tame_mem (by decide) ?_ ..
            exact Mem.Tame.refl _ _
          · refine Mach.tame_ite_mem ?_ ?_
            · refine Mach.refuse_tame_mem (by decide) ?_ ..
              exact Mem.Tame.refl _ _
            · refine Mach.complete_tame_mem (by decide) ?_ ..
              dsimp only
              exact Mem.Tame.refl _ _

theorem Mach.createSq_tame_dev {ps : Nat} {B : Dev} {X : Mach} (hsub : setOf [.seq, .sqs, .commands, .errorLog] ||| ps = ps)
    (hbase : Dev.Tame ps B X.dev) (c : Cmd) : Dev.Tame ps B (Mach.createSq X c).dev := by
  refine Dev.Tame.next ?_ hsub hbase
  unfold Mach.createSq
  dsimp only
  refine Mach.tame_ite_dev ?_ ?_
  · refine Mach.complete_tame_dev (by decide) ?_ ..
    exact Dev.Tame.refl _ _
  · refine Mach.tame_ite_dev ?_ ?_
    · refine Mach.complete_tame_dev (by decide) ?_ ..
      exact Dev.Tame.refl _ _
    · refine Mach.tame_ite_dev ?_ ?_
      · refine Mach.refuse_tame_dev (by decide) ?_ ..
        exact Dev.Tame.refl _ _
      · refine Mach.tame_ite_dev ?_ ?_
        · refine Mach.refuse_tame_dev (by decide) ?_ ..
          exact Dev.Tame.refl _ _
        · refine Mach.tame_ite_dev ?_ ?_
          · refine Mach.refuse_tame_dev (by decide) ?_ ..
            exact Dev.Tame.refl _ _
          · refine Mach.tame_ite_dev ?_ ?_
            · refine Mach.refuse_tame_dev (by decide) ?_ ..
              exact Dev.Tame.refl _ _
            · refine Mach.tame_ite_dev ?_ ?_
              · refine Mach.refuse_tame_dev (by decide) ?_ ..
                exact Dev.Tame.refl _ _
              · refine Mach.complete_tame_dev (by decide) ?_ ..
                dsimp only
                refine Dev.setSq_tame (by decide) ?_ ..
                exact Dev.Tame.refl _ _

theorem Mach.createSq_tame_mem {ps : Nat} {B : Mem} {X : Mach} (hsub : setOf [] ||| ps = ps)
    (hbase : Mem.Tame ps B X.mem) (c : Cmd) : Mem.Tame ps B (Mach.createSq X c).mem := by
  refine Mem.Tame.next ?_ hsub hbase
  unfold Mach.createSq
  dsimp only
  refine Mach.tame_ite_mem ?_ ?_
  · refine Mach.complete_tame_mem (by decide) ?_ ..
    exact Mem.Tame.refl _ _
  · refine Mach.tame_ite_mem ?_ ?_
    · refine Mach.complete_tame_mem (by decide) ?_ ..
      exact Mem.Tame.refl _ _
    · refine Mach.tame_ite_mem ?_ ?_
      · refine Mach.refuse_tame_mem (by decide) ?_ ..
        exact Mem.Tame.refl _ _
      · refine Mach.tame_ite_mem ?_ ?_
        · refine Mach.refuse_tame_mem (by decide) ?_ ..
          exact Mem.Tame.refl _ _
        · refine Mach.tame_ite_mem ?_ ?_
          · refine Mach.refuse_tame_mem (by decide) ?_ ..
            exact Mem.Tame.refl _ _
          · refine Mach.tame_ite_mem ?_ ?_
            · refine Mach.refuse_tame_mem (by decide) ?_ ..
              exact Mem.Tame.refl _ _
            · refine Mach.tame_ite_mem ?_ ?_
              · refine Mach.refuse_tame_mem (by decide) ?_ ..
                exact Mem.Tame.refl _ _
              · refine Mach.complete_tame_mem (by decide) ?_ ..
                dsimp only
                exact Mem.Tame.refl _ _

theorem Dev.abortFetched_tame_rec {B : Dev} (k : List Cmd) : ∀ (X : Dev) (sq : Nat), Dev.Tame (setOf [.seq, .commands, .errorLog]) B X →
    Dev.Tame (setOf [.seq, .commands, .errorLog]) B (Dev.abortFetched X sq k) := by
  induction k with
  | nil =>
    intro X sq g
    unfold Dev.abortFetched
    assumption
  | cons y r ih =>
    intro X sq g
    unfold Dev.abortFetched
    refine Dev.tame_ite ?_ ?_
    · apply ih
      refine Dev.complete_tame (by decide) ?_ ..
      assumption
    · apply ih
      assumption

theorem Dev.abortFetched_tame {ps : Nat} {B X : Dev} (hsub : setOf [.seq, .commands, .errorLog] ||| ps = ps)
    (hbase : Dev.Tame ps B X) (sq : Nat) (k : List Cmd) : Dev.Tame ps B (Dev.abortFetched X sq k) :=
  Dev.Tame.next (Dev.abortFetched_tame_rec k _ _ (.refl _ _)) hsub hbase

theorem Mach.deleteSq_tame_dev {ps : Nat} {B : Dev} {X : Mach} (hsub : setOf [.seq, .sqs, .commands, .errorLog] ||| ps = ps)
    (hbase : Dev.Tame ps B X.dev) (c : Cmd) : Dev.Tame ps B (Mach.deleteSq X c).dev := by
  refine Dev.Tame.next ?_ hsub hbase
  unfold Mach.deleteSq
  split
  · refine Mach.complete_tame_dev (by decide) ?_ ..
    exact Dev.Tame.refl _ _
  · refine Mach.tame_ite_dev ?_ ?_
    · refine Mach.complete_tame_dev (by decide) ?_ ..
      exact Dev.Tame.refl _ _
    · dsimp only
      refine Dev.endDelete_tame (by decide) ?_ ..
      refine Dev.keepRunning_tame (by decide) ?_ ..
      refine Dev.abortFetched_tame (by decide) ?_ ..
      refine Dev.setSq_tame (by decide) ?_ ..
      exact Dev.Tame.refl _ _

theorem Mach.deleteSq_tame_mem {ps : Nat} {B : Mem} {X : Mach} (hsub : setOf [] ||| ps = ps)
    (hbase : Mem.Tame ps B X.mem) (c : Cmd) : Mem.Tame ps B (Mach.deleteSq X c).mem := by
  refine Mem.Tame.next ?_ hsub hbase
  unfold Mach.deleteSq
  split
  · refine Mach.complete_tame_mem (by decide) ?_ ..
    exact Mem.Tame.refl _ _
  · refine Mach.tame_ite_mem ?_ ?_
    · refine Mach.complete_tame_mem (by decide) ?_ ..
      exact Mem.Tame.refl _ _
    · dsimp only
      exact Mem.Tame.refl _ _

theorem Mach.deleteCq_tame_dev {ps : Nat} {B : Dev} {X : Mach} (hsub : setOf [.seq, .cqs, .commands, .errorLog] ||| ps = ps)
    (hbase : Dev.Tame ps B X.dev) (c : Cmd) : Dev.Tame ps B (Mach.deleteCq X c).dev := by
  refine Dev.Tame.next ?_ hsub hbase
  unfold Mach.deleteCq
  dsimp only
  split
  · refine Mach.complete_tame_dev (by decide) ?_ ..
    exact Dev.Tame.refl _ _
  · refine Mach.tame_ite_dev ?_ ?_
    · refine Mach.complete_tame_dev (by decide) ?_ ..
      exact Dev.Tame.refl _ _
    · refine Mach.complete_tame_dev (by decide) ?_ ..
      dsimp only
      refine Dev.holdResume_tame (by decide) ?_ ..
      refine Dev.tame_onHost ?_ ?_
      · exact HostIf.Same.mk
          (.inr ⟨rfl, rfl⟩)
          (.inr rfl)
          (.inl (by decide))
          (.inr ⟨rfl, rfl, rfl, rfl⟩)
          (.inr ⟨rfl, rfl, rfl, rfl, rfl, rfl⟩)
          (.inl (by decide))
          (.inr ⟨rfl, rfl, rfl, rfl⟩)
          (.inl (by decide))
          (.inr ⟨rfl, rfl, rfl⟩)
          (.inr rfl)
          (.inr ⟨rfl, rfl, rfl, rfl⟩)
          (.inr rfl)
      · refine Dev.setCq_tame (by decide) ?_ ..
        exact Dev.Tame.refl _ _

theorem Mach.deleteCq_tame_mem {ps : Nat} {B : Mem} {X : Mach} (hsub : setOf [] ||| ps = ps)
    (hbase : Mem.Tame ps B X.mem) (c : Cmd) : Mem.Tame ps B (Mach.deleteCq X c).mem := by
  refine Mem.Tame.next ?_ hsub hbase
  unfold Mach.deleteCq
  dsimp only
  split
  · refine Mach.complete_tame_mem (by decide) ?_ ..
    exact Mem.Tame.refl _ _
  · refine Mach.tame_ite_mem ?_ ?_
    · refine Mach.complete_tame_mem (by decide) ?_ ..
      exact Mem.Tame.refl _ _
    · refine Mach.complete_tame_mem (by decide) ?_ ..
      dsimp only
      exact Mem.Tame.refl _ _

theorem Dev.asyncRequest_tame {ps : Nat} {B X : Dev} (hsub : setOf [.seq, .commands, .events, .errorLog] ||| ps = ps)
    (hbase : Dev.Tame ps B X) (c : Cmd) : Dev.Tame ps B (Dev.asyncRequest X c) := by
  refine Dev.Tame.next ?_ hsub hbase
  unfold Dev.asyncRequest
  refine Dev.tame_ite ?_ ?_
  · refine Dev.complete_tame (by decide) ?_ ..
    exact Dev.Tame.refl _ _
  · split
    · dsimp only
      refine Dev.completeEvent_tame (by decide) ?_ ..
      refine Dev.tame_ite ?_ ?_
      · refine Dev.tame_onHost ?_ ?_
        · exact HostIf.Same.mk
            (.inr ⟨rfl, rfl⟩)
            (.inr rfl)
            (.inr rfl)
            (.inr ⟨rfl, rfl, rfl, rfl⟩)
            (.inr ⟨rfl, rfl, rfl, rfl, rfl, rfl⟩)
            (.inl (by decide))
            (.inl (by decide))
            (.inl (by decide))
            (.inr ⟨rfl, rfl, rfl⟩)
            (.inr rfl)
            (.inr ⟨rfl, rfl, rfl, rfl⟩)
            (.inr rfl)
        · exact Dev.Tame.refl _ _
      · refine Dev.stamped_tame (by decide) ?_ ..
        refine Dev.tame_onHost ?_ ?_
        · exact HostIf.Same.mk
            (.inr ⟨rfl, rfl⟩)
            (.inr rfl)
            (.inr rfl)
            (.inr ⟨rfl, rfl, rfl, rfl⟩)
            (.inr ⟨rfl, rfl, rfl, rfl, rfl, rfl⟩)
            (.inl (by decide))
            (.inl (by decide))
            (.inl (by decide))
            (.inr ⟨rfl, rfl, rfl⟩)
            (.inr rfl)
            (.inr ⟨rfl, rfl, rfl, rfl⟩)
            (.inr rfl)
        · refine Dev.tame_onHost ?_ ?_
          · exact HostIf.Same.mk
              (.inr ⟨rfl, rfl⟩)
              (.inr rfl)
              (.inr rfl)
              (.inr ⟨rfl, rfl, rfl, rfl⟩)
              (.inr ⟨rfl, rfl, rfl, rfl, rfl, rfl⟩)
              (.inl (by decide))
              (.inl (by decide))
              (.inl (by decide))
              (.inr ⟨rfl, rfl, rfl⟩)
              (.inr rfl)
              (.inr ⟨rfl, rfl, rfl, rfl⟩)
              (.inr rfl)
          · exact Dev.Tame.refl _ _
    · refine Dev.tame_onHost ?_ ?_
      · exact HostIf.Same.mk
          (.inr ⟨rfl, rfl⟩)
          (.inr rfl)
          (.inr rfl)
          (.inr ⟨rfl, rfl, rfl, rfl⟩)
          (.inr ⟨rfl, rfl, rfl, rfl, rfl, rfl⟩)
          (.inl (by decide))
          (.inl (by decide))
          (.inl (by decide))
          (.inr ⟨rfl, rfl, rfl⟩)
          (.inr rfl)
          (.inr ⟨rfl, rfl, rfl, rfl⟩)
          (.inr rfl)
      · refine Dev.keepRunning_tame (by decide) ?_ ..
        exact Dev.Tame.refl _ _

end Sys2Proof.Machine
end

