-- ==== Sys2Proof/Laws/FrameFlags.lean ====
section
/-! SUPPORT. What each operation of Machine/Flags.lean may change. -/

namespace Sys2Proof.Machine
open Sys2Proof

theorem Dev.setBuf_tame {ps : Nat} {B X : Dev} (hsub : setOf [.pools] ||| ps = ps)
    (hbase : Dev.Tame ps B X) (p i : Nat) (b : Option Buf) : Dev.Tame ps B (Dev.setBuf X p i b) := by
  refine Dev.Tame.next ?_ hsub hbase
  unfold Dev.setBuf
  refine Dev.onPool_tame (by decide) ?_ ..
  exact Dev.Tame.refl _ _

end Sys2Proof.Machine
end

