-- ==== Sys2Proof/Laws/FrameBar0.lean ====
section
/-! SUPPORT. What each operation of Machine/Bar0.lean may change. -/

namespace Sys2Proof.Machine
open Sys2Proof

theorem Dev.onMbx_tame {ps : Nat} {B X : Dev} (hsub : setOf [.mailboxes] ||| ps = ps)
    (hbase : Dev.Tame ps B X) (i : Nat) (f : Mailbox → Mailbox) : Dev.Tame ps B (Dev.onMbx X i f) := by
  refine Dev.Tame.next ?_ hsub hbase
  unfold Dev.onMbx
  refine Dev.tame_onHost ?_ ?_
  · exact HostIf.Same.mk
      (.inl (by decide))
      (.inr rfl)
      (.inr rfl)
      (.inr ⟨rfl, rfl, rfl, rfl⟩)
      (.inr ⟨rfl, rfl, rfl, rfl, rfl, rfl⟩)
      (.inr ⟨rfl, rfl, rfl, rfl, rfl⟩)
      (.inr ⟨rfl, rfl, rfl, rfl⟩)
      (.inr rfl)
      (.inr ⟨rfl, rfl, rfl⟩)
      (.inr rfl)
      (.inr ⟨rfl, rfl, rfl, rfl⟩)
      (.inr rfl)
  · exact Dev.Tame.refl _ _

theorem Dev.answer_tame {ps : Nat} {B X : Dev} (hsub : setOf [.mailboxes, .msix, .sent] ||| ps = ps)
    (hbase : Dev.Tame ps B X) (i status : Nat) (data : List Byte) : Dev.Tame ps B (Dev.answer X i status data) := by
  refine Dev.Tame.next ?_ hsub hbase
  unfold Dev.answer
  dsimp only
  refine Dev.tame_ite ?_ ?_
  · refine Dev.msix_tame (by decide) ?_ ..
    refine Dev.onMbx_tame (by decide) ?_ ..
    exact Dev.Tame.refl _ _
  · refine Dev.onMbx_tame (by decide) ?_ ..
    exact Dev.Tame.refl _ _

theorem Dev.answerUnknown_tame {ps : Nat} {B X : Dev} (hsub : setOf [.mailboxes, .msix, .sent] ||| ps = ps)
    (hbase : Dev.Tame ps B X) (i : Nat) : Dev.Tame ps B (Dev.answerUnknown X i) := by
  refine Dev.Tame.next ?_ hsub hbase
  unfold Dev.answerUnknown
  dsimp only
  refine Dev.tame_ite ?_ ?_
  · refine Dev.answer_tame (by decide) ?_ ..
    exact Dev.Tame.refl _ _
  · exact Dev.Tame.refl _ _

theorem Dev.ring_tame {ps : Nat} {B X : Dev} (hsub : setOf [.mailboxes, .msix, .intr, .sent] ||| ps = ps)
    (hbase : Dev.Tame ps B X) (i : Nat) : Dev.Tame ps B (Dev.ring X i) := by
  refine Dev.Tame.next ?_ hsub hbase
  unfold Dev.ring
  refine Dev.tame_ite ?_ ?_
  · refine Dev.onMbx_tame (by decide) ?_ ..
    exact Dev.Tame.refl _ _
  · refine Dev.answerUnknown_tame (by decide) ?_ ..
    refine Dev.fireInt_tame (by decide) ?_ ..
    refine Dev.onMbx_tame (by decide) ?_ ..
    exact Dev.Tame.refl _ _

theorem Dev.hostAck_tame {ps : Nat} {B X : Dev} (hsub : setOf [.msix, .intr, .sent] ||| ps = ps)
    (hbase : Dev.Tame ps B X) (id : Nat) : Dev.Tame ps B (Dev.hostAck X id) := by
  refine Dev.Tame.next ?_ hsub hbase
  unfold Dev.hostAck
  refine Dev.tame_ite ?_ ?_
  · dsimp only
    refine Dev.tame_ite ?_ ?_
    · refine Dev.tame_intr (by decide) ?_
      exact Dev.Tame.refl _ _
    · refine Dev.msix_tame (by decide) ?_ ..
      refine Dev.tame_intr (by decide) ?_
      exact Dev.Tame.refl _ _
  · refine Dev.onIntr_tame (by decide) ?_ ..
    exact Dev.Tame.refl _ _

theorem Dev.clearFaults_tame {ps : Nat} {B X : Dev} (hsub : setOf [.flt] ||| ps = ps)
    (hbase : Dev.Tame ps B X) (srcs : List Nat) : Dev.Tame ps B (Dev.clearFaults X srcs) := by
  refine Dev.Tame.next ?_ hsub hbase
  unfold Dev.clearFaults
  dsimp only
  refine Dev.onFlt_tame (by decide) ?_ ..
  exact Dev.Tame.refl _ _

theorem Dev.writeAdm_tame {ps : Nat} {B X : Dev} (hsub : setOf [.sqs, .cqs, .admin, .commands, .events, .access, .msix, .intr, .sent] ||| ps = ps)
    (hbase : Dev.Tame ps B X) (off v : Nat) : Dev.Tame ps B (Dev.writeAdm X off v) := by
  refine Dev.Tame.next ?_ hsub hbase
  unfold Dev.writeAdm
  split
  · refine Dev.tame_ite ?_ ?_
    · exact Dev.Tame.refl _ _
    · refine Dev.tame_onHost ?_ ?_
      · exact HostIf.Same.mk
          (.inr ⟨rfl, rfl⟩)
          (.inl (by decide))
          (.inl (by decide))
          (.inr ⟨rfl, rfl, rfl, rfl⟩)
          (.inl (by decide))
          (.inl (by decide))
          (.inl (by decide))
          (.inr rfl)
          (.inr ⟨rfl, rfl, rfl⟩)
          (.inr rfl)
          (.inl (by decide))
          (.inl (by decide))
      · exact Dev.Tame.refl _ _
  · refine Dev.tame_ite ?_ ?_
    · exact Dev.Tame.refl _ _
    · refine Dev.tame_onHost ?_ ?_
      · exact HostIf.Same.mk
          (.inr ⟨rfl, rfl⟩)
          (.inl (by decide))
          (.inl (by decide))
          (.inr ⟨rfl, rfl, rfl, rfl⟩)
          (.inl (by decide))
          (.inl (by decide))
          (.inl (by decide))
          (.inr rfl)
          (.inr ⟨rfl, rfl, rfl⟩)
          (.inr rfl)
          (.inl (by decide))
          (.inl (by decide))
      · exact Dev.Tame.refl _ _
  · refine Dev.tame_ite ?_ ?_
    · exact Dev.Tame.refl _ _
    · refine Dev.tame_onHost ?_ ?_
      · exact HostIf.Same.mk
          (.inr ⟨rfl, rfl⟩)
          (.inl (by decide))
          (.inl (by decide))
          (.inr ⟨rfl, rfl, rfl, rfl⟩)
          (.inl (by decide))
          (.inl (by decide))
          (.inl (by decide))
          (.inr rfl)
          (.inr ⟨rfl, rfl, rfl⟩)
          (.inr rfl)
          (.inl (by decide))
          (.inl (by decide))
      · exact Dev.Tame.refl _ _
  · refine Dev.tame_ite ?_ ?_
    · exact Dev.Tame.refl _ _
    · refine Dev.tame_onHost ?_ ?_
      · exact HostIf.Same.mk
          (.inr ⟨rfl, rfl⟩)
          (.inl (by decide))
          (.inl (by decide))
          (.inr ⟨rfl, rfl, rfl, rfl⟩)
          (.inl (by decide))
          (.inl (by decide))
          (.inl (by decide))
          (.inr rfl)
          (.inr ⟨rfl, rfl, rfl⟩)
          (.inr rfl)
          (.inl (by decide))
          (.inl (by decide))
      · exact Dev.Tame.refl _ _
  · refine Dev.tame_ite ?_ ?_
    · exact Dev.Tame.refl _ _
    · refine Dev.tame_onHost ?_ ?_
      · exact HostIf.Same.mk
          (.inr ⟨rfl, rfl⟩)
          (.inl (by decide))
          (.inl (by decide))
          (.inr ⟨rfl, rfl, rfl, rfl⟩)
          (.inl (by decide))
          (.inl (by decide))
          (.inl (by decide))
          (.inr rfl)
          (.inr ⟨rfl, rfl, rfl⟩)
          (.inr rfl)
          (.inl (by decide))
          (.inl (by decide))
      · exact Dev.Tame.refl _ _
  · refine Dev.tame_ite ?_ ?_
    · refine Dev.adminEnable_tame (by decide) ?_ ..
      exact Dev.Tame.refl _ _
    · refine Dev.adminDisable_tame (by decide) ?_ ..
      exact Dev.Tame.refl _ _
  · exact Dev.Tame.refl _ _

theorem Mach.bar0Write_tame_dev {ps : Nat} {B : Dev} {X : Mach} (hsub : setOf [.free, .seq, .mailboxes, .sqs, .cqs, .admin, .commands, .events, .access, .msix, .flt, .intr, .bbx, .sent] ||| ps = ps)
    (hbase : Dev.Tame ps B X.dev) (off v : Nat) : Dev.Tame ps B (Mach.bar0Write X off v).dev := by
  refine Dev.Tame.next ?_ hsub hbase
  unfold Mach.bar0Write
  dsimp only
  refine Mach.tame_ite_dev ?_ ?_
  · refine Mach.tame_ite_dev ?_ ?_
    · dsimp only [onDev]
      refine Dev.onMbx_tame (by decide) ?_ ..
      exact Dev.Tame.refl _ _
    · exact Dev.Tame.refl _ _
  · refine Mach.tame_ite_dev ?_ ?_
    · dsimp only [onDev]
      refine Dev.tame_foldl ?_ (fun _ _ _ => ?_)
      · exact Dev.Tame.refl _ _
      · refine Dev.tame_ite ?_ ?_
        · refine Dev.ring_tame (by decide) ?_ ..
          assumption
        · assumption
    · refine Mach.tame_ite_dev ?_ ?_
      · dsimp only [onDev]
        refine Dev.tame_foldl ?_ (fun _ _ _ => ?_)
        · exact Dev.Tame.refl _ _
        · refine Dev.tame_ite ?_ ?_
          · refine Dev.onMbx_tame (by decide) ?_ ..
            assumption
          · assumption
      · refine Mach.tame_ite_dev ?_ ?_
        · dsimp only [onDev]
          refine Dev.tame_foldl ?_ (fun _ _ _ => ?_)
          · exact Dev.Tame.refl _ _
          · refine Dev.tame_ite ?_ ?_
            · refine Dev.onMbx_tame (by decide) ?_ ..
              assumption
            · assumption
        · refine Mach.tame_ite_dev ?_ ?_
          · dsimp only [onDev]
            refine Dev.tame_onHost ?_ ?_
            · exact HostIf.Same.mk
                (.inl (by decide))
                (.inl (by decide))
                (.inl (by decide))
                (.inr ⟨rfl, rfl, rfl, rfl⟩)
                (.inl (by decide))
                (.inl (by decide))
                (.inl (by decide))
                (.inr rfl)
                (.inr ⟨rfl, rfl, rfl⟩)
                (.inr rfl)
                (.inl (by decide))
                (.inl (by decide))
            · exact Dev.Tame.refl _ _
          · refine Mach.tame_ite_dev ?_ ?_
            · refine Mach.tame_ite_dev ?_ ?_
              · dsimp only [onDev]
                refine Dev.sqDoorbell_tame (by decide) ?_ ..
                exact Dev.Tame.refl _ _
              · refine Mach.cqDoorbell_tame_dev (by decide) ?_ ..
                exact Dev.Tame.refl _ _
            · refine Mach.tame_ite_dev ?_ ?_
              · dsimp only [onDev]
                refine Dev.writeAdm_tame (by decide) ?_ ..
                exact Dev.Tame.refl _ _
              · refine Mach.tame_ite_dev ?_ ?_
                · dsimp only [onDev]
                  refine Dev.hostAck_tame (by decide) ?_ ..
                  exact Dev.Tame.refl _ _
                · refine Mach.tame_ite_dev ?_ ?_
                  · dsimp only [onDev]
                    refine Dev.onIntr_tame (by decide) ?_ ..
                    exact Dev.Tame.refl _ _
                  · refine Mach.tame_ite_dev ?_ ?_
                    · dsimp only
                      refine Dev.clearFaults_tame (by decide) ?_ ..
                      exact Dev.Tame.refl _ _
                    · exact Dev.Tame.refl _ _

theorem Mach.bar0Write_tame_mem {ps : Nat} {B : Mem} {X : Mach} (hsub : setOf [.hostMem] ||| ps = ps)
    (hbase : Mem.Tame ps B X.mem) (off v : Nat) : Mem.Tame ps B (Mach.bar0Write X off v).mem := by
  refine Mem.Tame.next ?_ hsub hbase
  unfold Mach.bar0Write
  dsimp only
  refine Mach.tame_ite_mem ?_ ?_
  · refine Mach.tame_ite_mem ?_ ?_
    · dsimp only [onDev]
      exact Mem.Tame.refl _ _
    · exact Mem.Tame.refl _ _
  · refine Mach.tame_ite_mem ?_ ?_
    · dsimp only [onDev]
      exact Mem.Tame.refl _ _
    · refine Mach.tame_ite_mem ?_ ?_
      · dsimp only [onDev]
        exact Mem.Tame.refl _ _
      · refine Mach.tame_ite_mem ?_ ?_
        · dsimp only [onDev]
          exact Mem.Tame.refl _ _
        · refine Mach.tame_ite_mem ?_ ?_
          · dsimp only [onDev]
            exact Mem.Tame.refl _ _
          · refine Mach.tame_ite_mem ?_ ?_
            · refine Mach.tame_ite_mem ?_ ?_
              · dsimp only [onDev]
                exact Mem.Tame.refl _ _
              · refine Mach.cqDoorbell_tame_mem (by decide) ?_ ..
                exact Mem.Tame.refl _ _
            · refine Mach.tame_ite_mem ?_ ?_
              · dsimp only [onDev]
                exact Mem.Tame.refl _ _
              · refine Mach.tame_ite_mem ?_ ?_
                · dsimp only [onDev]
                  exact Mem.Tame.refl _ _
                · refine Mach.tame_ite_mem ?_ ?_
                  · dsimp only [onDev]
                    exact Mem.Tame.refl _ _
                  · refine Mach.tame_ite_mem ?_ ?_
                    · dsimp only
                      exact Mem.Tame.refl _ _
                    · exact Mem.Tame.refl _ _

theorem Dev.bar2Write_tame {ps : Nat} {B X : Dev} (hsub : setOf [.msix, .sent] ||| ps = ps)
    (hbase : Dev.Tame ps B X) (off v : Nat) : Dev.Tame ps B (Dev.bar2Write X off v) := by
  refine Dev.Tame.next ?_ hsub hbase
  unfold Dev.bar2Write
  dsimp only
  refine Dev.tame_ite ?_ ?_
  · exact Dev.Tame.refl _ _
  · split
    · refine Dev.tame_onHost ?_ ?_
      · exact HostIf.Same.mk
          (.inr ⟨rfl, rfl⟩)
          (.inr rfl)
          (.inr rfl)
          (.inr ⟨rfl, rfl, rfl, rfl⟩)
          (.inr ⟨rfl, rfl, rfl, rfl, rfl, rfl⟩)
          (.inr ⟨rfl, rfl, rfl, rfl, rfl⟩)
          (.inr ⟨rfl, rfl, rfl, rfl⟩)
          (.inr rfl)
          (.inr ⟨rfl, rfl, rfl⟩)
          (.inr rfl)
          (.inr ⟨rfl, rfl, rfl, rfl⟩)
          (.inl (by decide))
      · exact Dev.Tame.refl _ _
    · refine Dev.tame_onHost ?_ ?_
      · exact HostIf.Same.mk
          (.inr ⟨rfl, rfl⟩)
          (.inr rfl)
          (.inr rfl)
          (.inr ⟨rfl, rfl, rfl, rfl⟩)
          (.inr ⟨rfl, rfl, rfl, rfl, rfl, rfl⟩)
          (.inr ⟨rfl, rfl, rfl, rfl, rfl⟩)
          (.inr ⟨rfl, rfl, rfl, rfl⟩)
          (.inr rfl)
          (.inr ⟨rfl, rfl, rfl⟩)
          (.inr rfl)
          (.inr ⟨rfl, rfl, rfl, rfl⟩)
          (.inl (by decide))
      · exact Dev.Tame.refl _ _
    · refine Dev.tame_onHost ?_ ?_
      · exact HostIf.Same.mk
          (.inr ⟨rfl, rfl⟩)
          (.inr rfl)
          (.inr rfl)
          (.inr ⟨rfl, rfl, rfl, rfl⟩)
          (.inr ⟨rfl, rfl, rfl, rfl, rfl, rfl⟩)
          (.inr ⟨rfl, rfl, rfl, rfl, rfl⟩)
          (.inr ⟨rfl, rfl, rfl, rfl⟩)
          (.inr rfl)
          (.inr ⟨rfl, rfl, rfl⟩)
          (.inr rfl)
          (.inr ⟨rfl, rfl, rfl, rfl⟩)
          (.inl (by decide))
      · exact Dev.Tame.refl _ _
    · split
      · refine Dev.tame_ite ?_ ?_
        · refine Dev.msix_tame (by decide) ?_ ..
          refine Dev.tame_onHost ?_ ?_
          · exact HostIf.Same.mk
              (.inr ⟨rfl, rfl⟩)
              (.inr rfl)
              (.inr rfl)
              (.inr ⟨rfl, rfl, rfl, rfl⟩)
              (.inr ⟨rfl, rfl, rfl, rfl, rfl, rfl⟩)
              (.inr ⟨rfl, rfl, rfl, rfl, rfl⟩)
              (.inr ⟨rfl, rfl, rfl, rfl⟩)
              (.inr rfl)
              (.inr ⟨rfl, rfl, rfl⟩)
              (.inr rfl)
              (.inr ⟨rfl, rfl, rfl, rfl⟩)
              (.inl (by decide))
          · refine Dev.tame_onHost ?_ ?_
            · exact HostIf.Same.mk
                (.inr ⟨rfl, rfl⟩)
                (.inr rfl)
                (.inr rfl)
                (.inr ⟨rfl, rfl, rfl, rfl⟩)
                (.inr ⟨rfl, rfl, rfl, rfl, rfl, rfl⟩)
                (.inr ⟨rfl, rfl, rfl, rfl, rfl⟩)
                (.inr ⟨rfl, rfl, rfl, rfl⟩)
                (.inr rfl)
                (.inr ⟨rfl, rfl, rfl⟩)
                (.inr rfl)
                (.inr ⟨rfl, rfl, rfl, rfl⟩)
                (.inl (by decide))
            · exact Dev.Tame.refl _ _
        · refine Dev.tame_onHost ?_ ?_
          · exact HostIf.Same.mk
              (.inr ⟨rfl, rfl⟩)
              (.inr rfl)
              (.inr rfl)
              (.inr ⟨rfl, rfl, rfl, rfl⟩)
              (.inr ⟨rfl, rfl, rfl, rfl, rfl, rfl⟩)
              (.inr ⟨rfl, rfl, rfl, rfl, rfl⟩)
              (.inr ⟨rfl, rfl, rfl, rfl⟩)
              (.inr rfl)
              (.inr ⟨rfl, rfl, rfl⟩)
              (.inr rfl)
              (.inr ⟨rfl, rfl, rfl, rfl⟩)
              (.inl (by decide))
          · exact Dev.Tame.refl _ _
      · refine Dev.tame_onHost ?_ ?_
        · exact HostIf.Same.mk
            (.inr ⟨rfl, rfl⟩)
            (.inr rfl)
            (.inr rfl)
            (.inr ⟨rfl, rfl, rfl, rfl⟩)
            (.inr ⟨rfl, rfl, rfl, rfl, rfl, rfl⟩)
            (.inr ⟨rfl, rfl, rfl, rfl, rfl⟩)
            (.inr ⟨rfl, rfl, rfl, rfl⟩)
            (.inr rfl)
            (.inr ⟨rfl, rfl, rfl⟩)
            (.inr rfl)
            (.inr ⟨rfl, rfl, rfl, rfl⟩)
            (.inl (by decide))
        · exact Dev.Tame.refl _ _
    · exact Dev.Tame.refl _ _

theorem Dev.bar0ReadEffect_tame {ps : Nat} {B X : Dev} (hsub : setOf [.commands, .access, .flt, .intr, .bbx] ||| ps = ps)
    (hbase : Dev.Tame ps B X) (off : Nat) : Dev.Tame ps B (Dev.bar0ReadEffect X off) := by
  refine Dev.Tame.next ?_ hsub hbase
  unfold Dev.bar0ReadEffect
  split
  · refine Dev.tame_onHost ?_ ?_
    · exact HostIf.Same.mk
        (.inr ⟨rfl, rfl⟩)
        (.inr rfl)
        (.inr rfl)
        (.inr ⟨rfl, rfl, rfl, rfl⟩)
        (.inr ⟨rfl, rfl, rfl, rfl, rfl, rfl⟩)
        (.inl (by decide))
        (.inr ⟨rfl, rfl, rfl, rfl⟩)
        (.inr rfl)
        (.inr ⟨rfl, rfl, rfl⟩)
        (.inr rfl)
        (.inl (by decide))
        (.inr rfl)
    · exact Dev.Tame.refl _ _
  · refine Dev.tame_onHost ?_ ?_
    · exact HostIf.Same.mk
        (.inr ⟨rfl, rfl⟩)
        (.inr rfl)
        (.inr rfl)
        (.inr ⟨rfl, rfl, rfl, rfl⟩)
        (.inr ⟨rfl, rfl, rfl, rfl, rfl, rfl⟩)
        (.inl (by decide))
        (.inr ⟨rfl, rfl, rfl, rfl⟩)
        (.inr rfl)
        (.inr ⟨rfl, rfl, rfl⟩)
        (.inr rfl)
        (.inl (by decide))
        (.inr rfl)
    · exact Dev.Tame.refl _ _
  · refine Dev.tame_onHost ?_ ?_
    · exact HostIf.Same.mk
        (.inr ⟨rfl, rfl⟩)
        (.inr rfl)
        (.inr rfl)
        (.inr ⟨rfl, rfl, rfl, rfl⟩)
        (.inr ⟨rfl, rfl, rfl, rfl, rfl, rfl⟩)
        (.inl (by decide))
        (.inr ⟨rfl, rfl, rfl, rfl⟩)
        (.inr rfl)
        (.inr ⟨rfl, rfl, rfl⟩)
        (.inr rfl)
        (.inl (by decide))
        (.inr rfl)
    · exact Dev.Tame.refl _ _
  · refine Dev.onIntr_tame (by decide) ?_ ..
    exact Dev.Tame.refl _ _
  · refine Dev.onIntr_tame (by decide) ?_ ..
    exact Dev.Tame.refl _ _
  · refine Dev.onFlt_tame (by decide) ?_ ..
    exact Dev.Tame.refl _ _
  · refine Dev.onBbx_tame (by decide) ?_ ..
    exact Dev.Tame.refl _ _
  · refine Dev.onBbx_tame (by decide) ?_ ..
    exact Dev.Tame.refl _ _
  · refine Dev.tame_onHost ?_ ?_
    · exact HostIf.Same.mk
        (.inr ⟨rfl, rfl⟩)
        (.inr rfl)
        (.inr rfl)
        (.inr ⟨rfl, rfl, rfl, rfl⟩)
        (.inr ⟨rfl, rfl, rfl, rfl, rfl, rfl⟩)
        (.inl (by decide))
        (.inr ⟨rfl, rfl, rfl, rfl⟩)
        (.inr rfl)
        (.inr ⟨rfl, rfl, rfl⟩)
        (.inr rfl)
        (.inl (by decide))
        (.inr rfl)
    · exact Dev.Tame.refl _ _
  · refine Dev.tame_onHost ?_ ?_
    · exact HostIf.Same.mk
        (.inr ⟨rfl, rfl⟩)
        (.inr rfl)
        (.inr rfl)
        (.inr ⟨rfl, rfl, rfl, rfl⟩)
        (.inr ⟨rfl, rfl, rfl, rfl, rfl, rfl⟩)
        (.inl (by decide))
        (.inr ⟨rfl, rfl, rfl, rfl⟩)
        (.inr rfl)
        (.inr ⟨rfl, rfl, rfl⟩)
        (.inr rfl)
        (.inl (by decide))
        (.inr rfl)
    · exact Dev.Tame.refl _ _
  · exact Dev.Tame.refl _ _

theorem Mach.bar0Read_tame_dev {ps : Nat} {B : Dev} {X : Mach} (hsub : setOf [.commands, .access, .flt, .intr, .bbx, .sent] ||| ps = ps)
    (hbase : Dev.Tame ps B X.dev) (off : Nat) : Dev.Tame ps B (Mach.bar0Read X off).dev := by
  refine Dev.Tame.next ?_ hsub hbase
  unfold Mach.bar0Read
  dsimp only
  refine Dev.bar0ReadEffect_tame (by decide) ?_ ..
  refine Dev.emit_tame (by decide) ?_ ..
  exact Dev.Tame.refl _ _

theorem Mach.bar0Read_tame_mem {ps : Nat} {B : Mem} {X : Mach} (hsub : setOf [] ||| ps = ps)
    (hbase : Mem.Tame ps B X.mem) (off : Nat) : Mem.Tame ps B (Mach.bar0Read X off).mem := by
  refine Mem.Tame.next ?_ hsub hbase
  unfold Mach.bar0Read
  dsimp only
  exact Mem.Tame.refl _ _

end Sys2Proof.Machine
end

