-- ==== Sys2Proof/Laws/FrameBoot.lean ====
section
/-! SUPPORT. What each operation of Machine/Boot.lean may change. -/

namespace Sys2Proof.Machine
open Sys2Proof

theorem Mach.putRecord_tame_dev {ps : Nat} {B : Dev} {X : Mach} (hsub : setOf [] ||| ps = ps)
    (hbase : Dev.Tame ps B X.dev) (r : BootRecord) : Dev.Tame ps B (Mach.putRecord X r).dev := by
  refine Dev.Tame.next ?_ hsub hbase
  unfold Mach.putRecord
  dsimp only
  exact Dev.Tame.refl _ _

theorem Mach.putRecord_tame_mem {ps : Nat} {B : Mem} {X : Mach} (hsub : setOf [.mram] ||| ps = ps)
    (hbase : Mem.Tame ps B X.mem) (r : BootRecord) : Mem.Tame ps B (Mach.putRecord X r).mem := by
  refine Mem.Tame.next ?_ hsub hbase
  unfold Mach.putRecord
  dsimp only
  refine Mem.setEntry_tame (by decide) ?_ ..
  refine Mem.setEntry_tame (by decide) ?_ ..
  exact Mem.Tame.refl _ _

theorem Mach.enterTwilight_tame_dev {ps : Nat} {B : Dev} {X : Mach} (hsub : setOf [.seq, .boot, .sqs, .cqs, .admin, .twk, .bbx, .power] ||| ps = ps)
    (hbase : Dev.Tame ps B X.dev) (r : BootRecord) (reason : Nat) : Dev.Tame ps B (Mach.enterTwilight X r reason).dev := by
  refine Dev.Tame.next ?_ hsub hbase
  unfold Mach.enterTwilight
  dsimp only
  refine Dev.adminActivate_tame (by decide) ?_ ..
  refine Dev.record_tame (by decide) ?_ ..
  refine Dev.tame_boot_twk_power (by decide) (by decide) (by decide) ?_
  refine Mach.putRecord_tame_dev (by decide) ?_ ..
  exact Dev.Tame.refl _ _

theorem Mach.enterTwilight_tame_mem {ps : Nat} {B : Mem} {X : Mach} (hsub : setOf [.mram] ||| ps = ps)
    (hbase : Mem.Tame ps B X.mem) (r : BootRecord) (reason : Nat) : Mem.Tame ps B (Mach.enterTwilight X r reason).mem := by
  refine Mem.Tame.next ?_ hsub hbase
  unfold Mach.enterTwilight
  dsimp only
  refine Mach.putRecord_tame_mem (by decide) ?_ ..
  exact Mem.Tame.refl _ _

theorem Mach.handOver_tame_dev {ps : Nat} {B : Dev} {X : Mach} (hsub : setOf [.seq, .boot, .intr, .twk, .bbx, .power] ||| ps = ps)
    (hbase : Dev.Tame ps B X.dev) (r : BootRecord) (img : Image) (ver sec : Nat) : Dev.Tame ps B (Mach.handOver X r img ver sec).dev := by
  refine Dev.Tame.next ?_ hsub hbase
  unfold Mach.handOver
  dsimp only
  refine Dev.record_tame (by decide) ?_ ..
  refine Dev.tame_boot_intr_twk_power (by decide) (by decide) (by decide) (by decide) ?_
  refine Mach.putRecord_tame_dev (by decide) ?_ ..
  exact Dev.Tame.refl _ _

theorem Mach.handOver_tame_mem {ps : Nat} {B : Mem} {X : Mach} (hsub : setOf [.mram] ||| ps = ps)
    (hbase : Mem.Tame ps B X.mem) (r : BootRecord) (img : Image) (ver sec : Nat) : Mem.Tame ps B (Mach.handOver X r img ver sec).mem := by
  refine Mem.Tame.next ?_ hsub hbase
  unfold Mach.handOver
  dsimp only
  refine Mach.putRecord_tame_mem (by decide) ?_ ..
  exact Mem.Tame.refl _ _

theorem Mach.failAttempt_tame_dev {ps : Nat} {B : Dev} {X : Mach} (hsub : setOf [.seq, .boot, .bbx] ||| ps = ps)
    (hbase : Dev.Tame ps B X.dev) (r : BootRecord) (img : Image) (cause ver : Nat) : Dev.Tame ps B (Mach.failAttempt X r img cause ver).1.dev := by
  refine Dev.Tame.next ?_ hsub hbase
  unfold Mach.failAttempt
  dsimp only
  refine Mach.putRecord_tame_dev (by decide) ?_ ..
  refine Mach.tame_mk_dev ?_
  refine Dev.record_tame (by decide) ?_ ..
  refine Dev.onBoot_tame (by decide) ?_ ..
  exact Dev.Tame.refl _ _

theorem Mach.failAttempt_tame_mem {ps : Nat} {B : Mem} {X : Mach} (hsub : setOf [.mram] ||| ps = ps)
    (hbase : Mem.Tame ps B X.mem) (r : BootRecord) (img : Image) (cause ver : Nat) : Mem.Tame ps B (Mach.failAttempt X r img cause ver).1.mem := by
  refine Mem.Tame.next ?_ hsub hbase
  unfold Mach.failAttempt
  dsimp only
  refine Mach.putRecord_tame_mem (by decide) ?_ ..
  refine Mach.tame_mk_mem ?_
  exact Mem.Tame.refl _ _

theorem Mach.hostWait_tame_dev {ps : Nat} {B : Dev} {X : Mach} (hsub : setOf [.boot] ||| ps = ps)
    (hbase : Dev.Tame ps B X.dev) : Dev.Tame ps B (Mach.hostWait X).dev := by
  refine Dev.Tame.next ?_ hsub hbase
  unfold Mach.hostWait
  refine Mach.tame_mk_dev ?_
  refine Dev.onBoot_tame (by decide) ?_ ..
  exact Dev.Tame.refl _ _

theorem Mach.hostWait_tame_mem {ps : Nat} {B : Mem} {X : Mach} (hsub : setOf [] ||| ps = ps)
    (hbase : Mem.Tame ps B X.mem) : Mem.Tame ps B (Mach.hostWait X).mem := by
  refine Mem.Tame.next ?_ hsub hbase
  unfold Mach.hostWait
  refine Mach.tame_mk_mem ?_
  exact Mem.Tame.refl _ _

theorem Mach.attempts_tame_dev_rec {B : Dev} (k : Nat) : ∀ (X : Mach) (r : BootRecord) (again : Image) (badA badB : Bool), Dev.Tame (setOf [.seq, .boot, .sqs, .cqs, .admin, .intr, .twk, .bbx, .power]) B X.dev →
    Dev.Tame (setOf [.seq, .boot, .sqs, .cqs, .admin, .intr, .twk, .bbx, .power]) B (Mach.attempts X r again badA badB k).dev := by
  induction k with
  | zero =>
    intro X r again badA badB g
    unfold Mach.attempts
    refine Mach.enterTwilight_tame_dev (by decide) ?_ ..
    assumption
  | succ k ih_dev =>
    intro X r again badA badB g
    unfold Mach.attempts
    refine Mach.tame_ite_dev ?_ ?_
    · refine Mach.enterTwilight_tame_dev (by decide) ?_ ..
      assumption
    · refine Mach.tame_ite_dev ?_ ?_
      · refine Mach.hostWait_tame_dev (by decide) ?_ ..
        assumption
      · dsimp only
        split
        · refine Mach.tame_ite_dev ?_ ?_
          · refine Mach.hostWait_tame_dev (by decide) ?_ ..
            assumption
          · refine Mach.enterTwilight_tame_dev (by decide) ?_ ..
            assumption
        · split
          · refine Mach.handOver_tame_dev (by decide) ?_ ..
            assumption
          · apply ih_dev
            refine Mach.failAttempt_tame_dev (by decide) ?_ ..
            assumption

theorem Mach.attempts_tame_dev {ps : Nat} {B : Dev} {X : Mach} (hsub : setOf [.seq, .boot, .sqs, .cqs, .admin, .intr, .twk, .bbx, .power] ||| ps = ps)
    (hbase : Dev.Tame ps B X.dev) (r : BootRecord) (again : Image) (badA badB : Bool) (k : Nat) : Dev.Tame ps B (Mach.attempts X r again badA badB k).dev :=
  Dev.Tame.next (Mach.attempts_tame_dev_rec k _ _ _ _ _ (.refl _ _)) hsub hbase

theorem Mach.attempts_tame_mem_rec {B : Mem} (k : Nat) : ∀ (X : Mach) (r : BootRecord) (again : Image) (badA badB : Bool), Mem.Tame (setOf [.mram]) B X.mem →
    Mem.Tame (setOf [.mram]) B (Mach.attempts X r again badA badB k).mem := by
  induction k with
  | zero =>
    intro X r again badA badB g
    unfold Mach.attempts
    refine Mach.enterTwilight_tame_mem (by decide) ?_ ..
    assumption
  | succ k ih_mem =>
    intro X r again badA badB g
    unfold Mach.attempts
    refine Mach.tame_ite_mem ?_ ?_
    · refine Mach.enterTwilight_tame_mem (by decide) ?_ ..
      assumption
    · refine Mach.tame_ite_mem ?_ ?_
      · refine Mach.hostWait_tame_mem (by decide) ?_ ..
        assumption
      · dsimp only
        split
        · refine Mach.tame_ite_mem ?_ ?_
          · refine Mach.hostWait_tame_mem (by decide) ?_ ..
            assumption
          · refine Mach.enterTwilight_tame_mem (by decide) ?_ ..
            assumption
        · split
          · refine Mach.handOver_tame_mem (by decide) ?_ ..
            assumption
          · apply ih_mem
            refine Mach.failAttempt_tame_mem (by decide) ?_ ..
            assumption

theorem Mach.attempts_tame_mem {ps : Nat} {B : Mem} {X : Mach} (hsub : setOf [.mram] ||| ps = ps)
    (hbase : Mem.Tame ps B X.mem) (r : BootRecord) (again : Image) (badA badB : Bool) (k : Nat) : Mem.Tame ps B (Mach.attempts X r again badA badB k).mem :=
  Mem.Tame.next (Mach.attempts_tame_mem_rec k _ _ _ _ _ (.refl _ _)) hsub hbase

theorem Mach.bootRom_tame_dev {ps : Nat} {B : Dev} {X : Mach} (hsub : setOf [.seq, .boot, .mailboxes, .sqs, .cqs, .admin, .msix, .intr, .twk, .bbx, .sid, .dram, .power, .sent] ||| ps = ps)
    (hbase : Dev.Tame ps B X.dev) (train1 train2 : Bool) (gib ranks : Nat) (badA badB : Bool) : Dev.Tame ps B (Mach.bootRom X train1 train2 gib ranks badA badB).dev := by
  refine Dev.Tame.next ?_ hsub hbase
  unfold Mach.bootRom
  dsimp only
  split
  · refine Mach.enterTwilight_tame_dev (by decide) ?_ ..
    refine Mach.tame_mk_dev ?_
    refine Dev.onBoot_tame (by decide) ?_ ..
    refine Dev.tame_ite ?_ ?_
    · refine Dev.tame_boot_dram (by decide) (by decide) (by simp) ?_
      refine Dev.record_tame (by decide) ?_ ..
      refine Dev.tame_sid (by decide) ?_
      exact Dev.Tame.refl _ _
    · refine Dev.record_tame (by decide) ?_ ..
      refine Dev.tame_sid (by decide) ?_
      exact Dev.Tame.refl _ _
  · refine Mach.tame_mk_dev ?_
    refine Dev.tame_foldl ?_ (fun _ _ _ => ?_)
    · refine Mach.tame_ite_dev ?_ ?_
      · refine Mach.enterTwilight_tame_dev (by decide) ?_ ..
        refine Mach.putRecord_tame_dev (by decide) ?_ ..
        refine Mach.tame_mk_dev ?_
        refine Dev.onBoot_tame (by decide) ?_ ..
        refine Dev.tame_ite ?_ ?_
        · refine Dev.tame_boot_dram (by decide) (by decide) (by simp) ?_
          refine Dev.record_tame (by decide) ?_ ..
          refine Dev.tame_sid (by decide) ?_
          exact Dev.Tame.refl _ _
        · refine Dev.record_tame (by decide) ?_ ..
          refine Dev.tame_sid (by decide) ?_
          exact Dev.Tame.refl _ _
      · refine Mach.tame_ite_dev ?_ ?_
        · refine Mach.enterTwilight_tame_dev (by decide) ?_ ..
          refine Mach.putRecord_tame_dev (by decide) ?_ ..
          refine Mach.tame_mk_dev ?_
          refine Dev.onBoot_tame (by decide) ?_ ..
          refine Dev.tame_ite ?_ ?_
          · refine Dev.tame_boot_dram (by decide) (by decide) (by simp) ?_
            refine Dev.record_tame (by decide) ?_ ..
            refine Dev.tame_sid (by decide) ?_
            exact Dev.Tame.refl _ _
          · refine Dev.record_tame (by decide) ?_ ..
            refine Dev.tame_sid (by decide) ?_
            exact Dev.Tame.refl _ _
        · refine Mach.tame_ite_dev ?_ ?_
          · refine Mach.enterTwilight_tame_dev (by decide) ?_ ..
            refine Mach.putRecord_tame_dev (by decide) ?_ ..
            refine Mach.tame_mk_dev ?_
            refine Dev.onBoot_tame (by decide) ?_ ..
            refine Dev.tame_ite ?_ ?_
            · refine Dev.tame_boot_dram (by decide) (by decide) (by simp) ?_
              refine Dev.record_tame (by decide) ?_ ..
              refine Dev.tame_sid (by decide) ?_
              exact Dev.Tame.refl _ _
            · refine Dev.record_tame (by decide) ?_ ..
              refine Dev.tame_sid (by decide) ?_
              exact Dev.Tame.refl _ _
          · refine Mach.tame_ite_dev ?_ ?_
            · refine Mach.tame_ite_dev ?_ ?_
              · refine Mach.attempts_tame_dev (by decide) ?_ ..
                refine Mach.putRecord_tame_dev (by decide) ?_ ..
                refine Mach.tame_mk_dev ?_
                refine Dev.onBoot_tame (by decide) ?_ ..
                refine Mach.putRecord_tame_dev (by decide) ?_ ..
                refine Mach.tame_mk_dev ?_
                refine Dev.onBoot_tame (by decide) ?_ ..
                refine Dev.tame_ite ?_ ?_
                · refine Dev.tame_boot_dram (by decide) (by decide) (by simp) ?_
                  refine Dev.record_tame (by decide) ?_ ..
                  refine Dev.tame_sid (by decide) ?_
                  exact Dev.Tame.refl _ _
                · refine Dev.record_tame (by decide) ?_ ..
                  refine Dev.tame_sid (by decide) ?_
                  exact Dev.Tame.refl _ _
              · refine Mach.attempts_tame_dev (by decide) ?_ ..
                refine Mach.tame_mk_dev ?_
                refine Dev.onBoot_tame (by decide) ?_ ..
                refine Mach.putRecord_tame_dev (by decide) ?_ ..
                refine Mach.tame_mk_dev ?_
                refine Dev.onBoot_tame (by decide) ?_ ..
                refine Dev.tame_ite ?_ ?_
                · refine Dev.tame_boot_dram (by decide) (by decide) (by simp) ?_
                  refine Dev.record_tame (by decide) ?_ ..
                  refine Dev.tame_sid (by decide) ?_
                  exact Dev.Tame.refl _ _
                · refine Dev.record_tame (by decide) ?_ ..
                  refine Dev.tame_sid (by decide) ?_
                  exact Dev.Tame.refl _ _
            · refine Mach.attempts_tame_dev (by decide) ?_ ..
              refine Mach.tame_mk_dev ?_
              refine Dev.onBoot_tame (by decide) ?_ ..
              refine Mach.putRecord_tame_dev (by decide) ?_ ..
              refine Mach.tame_mk_dev ?_
              refine Dev.onBoot_tame (by decide) ?_ ..
              refine Dev.tame_ite ?_ ?_
              · refine Dev.tame_boot_dram (by decide) (by decide) (by simp) ?_
                refine Dev.record_tame (by decide) ?_ ..
                refine Dev.tame_sid (by decide) ?_
                exact Dev.Tame.refl _ _
              · refine Dev.record_tame (by decide) ?_ ..
                refine Dev.tame_sid (by decide) ?_
                exact Dev.Tame.refl _ _
    · refine Dev.answerUnknown_tame (by decide) ?_ ..
      assumption

theorem Mach.bootRom_tame_mem {ps : Nat} {B : Mem} {X : Mach} (hsub : setOf [.mram] ||| ps = ps)
    (hbase : Mem.Tame ps B X.mem) (train1 train2 : Bool) (gib ranks : Nat) (badA badB : Bool) : Mem.Tame ps B (Mach.bootRom X train1 train2 gib ranks badA badB).mem := by
  refine Mem.Tame.next ?_ hsub hbase
  unfold Mach.bootRom
  dsimp only
  split
  · refine Mach.enterTwilight_tame_mem (by decide) ?_ ..
    refine Mach.tame_mk_mem ?_
    exact Mem.Tame.refl _ _
  · refine Mach.tame_mk_mem ?_
    refine Mach.tame_ite_mem ?_ ?_
    · refine Mach.enterTwilight_tame_mem (by decide) ?_ ..
      refine Mach.putRecord_tame_mem (by decide) ?_ ..
      refine Mach.tame_mk_mem ?_
      exact Mem.Tame.refl _ _
    · refine Mach.tame_ite_mem ?_ ?_
      · refine Mach.enterTwilight_tame_mem (by decide) ?_ ..
        refine Mach.putRecord_tame_mem (by decide) ?_ ..
        refine Mach.tame_mk_mem ?_
        exact Mem.Tame.refl _ _
      · refine Mach.tame_ite_mem ?_ ?_
        · refine Mach.enterTwilight_tame_mem (by decide) ?_ ..
          refine Mach.putRecord_tame_mem (by decide) ?_ ..
          refine Mach.tame_mk_mem ?_
          exact Mem.Tame.refl _ _
        · refine Mach.tame_ite_mem ?_ ?_
          · refine Mach.tame_ite_mem ?_ ?_
            · refine Mach.attempts_tame_mem (by decide) ?_ ..
              refine Mach.putRecord_tame_mem (by decide) ?_ ..
              refine Mach.tame_mk_mem ?_
              refine Mach.putRecord_tame_mem (by decide) ?_ ..
              refine Mach.tame_mk_mem ?_
              exact Mem.Tame.refl _ _
            · refine Mach.attempts_tame_mem (by decide) ?_ ..
              refine Mach.tame_mk_mem ?_
              refine Mach.putRecord_tame_mem (by decide) ?_ ..
              refine Mach.tame_mk_mem ?_
              exact Mem.Tame.refl _ _
          · refine Mach.attempts_tame_mem (by decide) ?_ ..
            refine Mach.tame_mk_mem ?_
            refine Mach.putRecord_tame_mem (by decide) ?_ ..
            refine Mach.tame_mk_mem ?_
            exact Mem.Tame.refl _ _

theorem Dev.placePools_tame {ps : Nat} {B X : Dev} (hsub : setOf [.pools] ||| ps = ps)
    (hbase : Dev.Tame ps B X) : Dev.Tame ps B (Dev.placePools X) := by
  refine Dev.Tame.next ?_ hsub hbase
  unfold Dev.placePools
  dsimp only
  refine Dev.onPools_tame (by decide) ?_ ..
  exact Dev.Tame.refl _ _

theorem Dev.enableLinks_tame {ps : Nat} {B X : Dev} (hsub : setOf [.link, .feat 0x22] ||| ps = ps)
    (hbase : Dev.Tame ps B X) : Dev.Tame ps B (Dev.enableLinks X) := by
  refine Dev.Tame.next ?_ hsub hbase
  unfold Dev.enableLinks
  refine Dev.tame_ite ?_ ?_
  · refine Dev.tame_foldl ?_ (fun _ _ _ => ?_)
    · exact Dev.Tame.refl _ _
    · refine Dev.onPort_tame (by decide) ?_ ..
      refine Dev.setReg_tame (by decide) ?_
      assumption
  · exact Dev.Tame.refl _ _

end Sys2Proof.Machine
end

