-- ==== Sys2Proof/Laws/FrameMemory.lean ====
section
/-! SUPPORT. What each operation of Machine/Memory.lean may change. -/

namespace Sys2Proof.Machine
open Sys2Proof

/-- A drained entry keeps the canonical form. -/
theorem drainOne_wf (t : List Host.Cell) (e : Nat × List (Option Byte)) (h : Tbl.wf byteZero t = true) :
    Tbl.wf byteZero (drainOne t e) = true := by
  unfold drainOne
  generalize List.range 64 = l
  induction l generalizing t with
  | nil => exact h
  | cons i r ih =>
    rw [List.foldl_cons]
    refine ih _ ?_
    split
    · exact Tbl.wf_set byteZero h _ _
    · exact h

theorem Dev.countForward_tame_rec {B : Dev} (k : List Nat) : ∀ (X : Dev), Dev.Tame (setOf [.feat 0x1E]) B X →
    Dev.Tame (setOf [.feat 0x1E]) B (Dev.countForward X k) := by
  induction k with
  | nil =>
    intro X g
    unfold Dev.countForward
    assumption
  | cons y r ih =>
    intro X g
    unfold Dev.countForward
    dsimp only
    apply ih
    refine Dev.tame_ite ?_ ?_
    · refine Dev.bump_tame (by decide) ?_
      assumption
    · assumption

theorem Dev.countForward_tame {ps : Nat} {B X : Dev} (hsub : setOf [.feat 0x1E] ||| ps = ps)
    (hbase : Dev.Tame ps B X) (k : List Nat) : Dev.Tame ps B (Dev.countForward X k) :=
  Dev.Tame.next (Dev.countForward_tame_rec k _ (.refl _ _)) hsub hbase

theorem Dev.dramCorrected_tame {ps : Nat} {B X : Dev} (hsub : setOf [.free, .seq, .stats, .commands, .events, .flt, .twk, .bbx, .link, .sent, .feat 0x1E] ||| ps = ps)
    (hbase : Dev.Tame ps B X) (a : Nat) : Dev.Tame ps B (Dev.dramCorrected X a) := by
  refine Dev.Tame.next ?_ hsub hbase
  unfold Dev.dramCorrected
  dsimp only
  refine Dev.raise_tame (by decide) ?_ ..
  refine Dev.bump_tame (by decide) ?_
  refine Dev.count_tame (by decide) ?_ ..
  exact Dev.Tame.refl _ _

theorem Dev.dramUncorrectable_tame {ps : Nat} {B X : Dev} (hsub : setOf [.free, .seq, .stats, .commands, .events, .flt, .twk, .bbx, .link, .dram, .sent, .feat 0x1E] ||| ps = ps)
    (hbase : Dev.Tame ps B X) (a : Nat) : Dev.Tame ps B (Dev.dramUncorrectable X a) := by
  refine Dev.Tame.next ?_ hsub hbase
  unfold Dev.dramUncorrectable
  dsimp only
  refine Dev.raise_tame (by decide) ?_ ..
  refine Dev.bump_tame (by decide) ?_
  refine Dev.onDram_tame (by decide) ?_ ..
  exact Dev.Tame.refl _ _

theorem Dev.eccFound_tame {ps : Nat} {B X : Dev} (hsub : setOf [.free, .seq, .stats, .commands, .events, .flt, .twk, .bbx, .link, .dram, .sent, .feat 0x1E] ||| ps = ps)
    (hbase : Dev.Tame ps B X) (l : List (Nat × Bool)) : Dev.Tame ps B (Dev.eccFound X l) := by
  refine Dev.Tame.next ?_ hsub hbase
  unfold Dev.eccFound
  refine Dev.tame_foldl ?_ (fun _ _ _ => ?_)
  · exact Dev.Tame.refl _ _
  · refine Dev.tame_ite ?_ ?_
    · refine Dev.dramUncorrectable_tame (by decide) ?_ ..
      assumption
    · refine Dev.dramCorrected_tame (by decide) ?_ ..
      assumption

theorem Mach.queueBlock_tame_dev {ps : Nat} {B : Dev} {X : Mach} (hsub : setOf [.dram] ||| ps = ps)
    (hbase : Dev.Tame ps B X.dev) (blk : Nat) (l : List (Option Byte)) : Dev.Tame ps B (Mach.queueBlock X blk l).dev := by
  refine Dev.Tame.next ?_ hsub hbase
  unfold Mach.queueBlock
  dsimp only
  split
  · dsimp only
    refine Dev.onDram_tame (by decide) ?_ ..
    exact Dev.Tame.refl _ _
  · refine Mach.tame_ite_dev ?_ ?_
    · dsimp only
      refine Dev.onDram_tame (by decide) ?_ ..
      exact Dev.Tame.refl _ _
    · dsimp only
      refine Dev.onDram_tame (by decide) ?_ ..
      exact Dev.Tame.refl _ _

theorem Mach.queueBlock_tame_mem {ps : Nat} {B : Mem} {X : Mach} (hsub : setOf [.dramMem] ||| ps = ps)
    (hbase : Mem.Tame ps B X.mem) (blk : Nat) (l : List (Option Byte)) : Mem.Tame ps B (Mach.queueBlock X blk l).mem := by
  refine Mem.Tame.next ?_ hsub hbase
  unfold Mach.queueBlock
  dsimp only
  split
  · dsimp only
    exact Mem.Tame.refl _ _
  · refine Mach.tame_ite_mem ?_ ?_
    · dsimp only
      exact Mem.Tame.refl _ _
    · dsimp only
      refine Mem.tame_dram (by decide) (fun w => ?_) ?_
      · split
        · exact drainOne_wf _ _ w
        · exact w
      · exact Mem.Tame.refl _ _

theorem Mach.dramWriteBlocks_tame_dev_rec {B : Dev} (k : List Nat) : ∀ (X : Mach) (a : Nat) (l : List Byte), Dev.Tame (setOf [.dram]) B X.dev →
    Dev.Tame (setOf [.dram]) B (Mach.dramWriteBlocks X a l k).dev := by
  induction k with
  | nil =>
    intro X a l g
    unfold Mach.dramWriteBlocks
    assumption
  | cons y r ih_dev =>
    intro X a l g
    unfold Mach.dramWriteBlocks
    dsimp only
    apply ih_dev
    refine Mach.queueBlock_tame_dev (by decide) ?_ ..
    assumption

theorem Mach.dramWriteBlocks_tame_dev {ps : Nat} {B : Dev} {X : Mach} (hsub : setOf [.dram] ||| ps = ps)
    (hbase : Dev.Tame ps B X.dev) (a : Nat) (l : List Byte) (k : List Nat) : Dev.Tame ps B (Mach.dramWriteBlocks X a l k).dev :=
  Dev.Tame.next (Mach.dramWriteBlocks_tame_dev_rec k _ _ _ (.refl _ _)) hsub hbase

theorem Mach.dramWriteBlocks_tame_mem_rec {B : Mem} (k : List Nat) : ∀ (X : Mach) (a : Nat) (l : List Byte), Mem.Tame (setOf [.dramMem]) B X.mem →
    Mem.Tame (setOf [.dramMem]) B (Mach.dramWriteBlocks X a l k).mem := by
  induction k with
  | nil =>
    intro X a l g
    unfold Mach.dramWriteBlocks
    assumption
  | cons y r ih_mem =>
    intro X a l g
    unfold Mach.dramWriteBlocks
    dsimp only
    apply ih_mem
    refine Mach.queueBlock_tame_mem (by decide) ?_ ..
    assumption

theorem Mach.dramWriteBlocks_tame_mem {ps : Nat} {B : Mem} {X : Mach} (hsub : setOf [.dramMem] ||| ps = ps)
    (hbase : Mem.Tame ps B X.mem) (a : Nat) (l : List Byte) (k : List Nat) : Mem.Tame ps B (Mach.dramWriteBlocks X a l k).mem :=
  Mem.Tame.next (Mach.dramWriteBlocks_tame_mem_rec k _ _ _ (.refl _ _)) hsub hbase

theorem Mach.dramWrite_tame_dev {ps : Nat} {B : Dev} {X : Mach} (hsub : setOf [.dram] ||| ps = ps)
    (hbase : Dev.Tame ps B X.dev) (a : Nat) (l : List Byte) : Dev.Tame ps B (Mach.dramWrite X a l).dev := by
  refine Dev.Tame.next ?_ hsub hbase
  unfold Mach.dramWrite
  refine Mach.dramWriteBlocks_tame_dev (by decide) ?_ ..
  exact Dev.Tame.refl _ _

theorem Mach.dramWrite_tame_mem {ps : Nat} {B : Mem} {X : Mach} (hsub : setOf [.dramMem] ||| ps = ps)
    (hbase : Mem.Tame ps B X.mem) (a : Nat) (l : List Byte) : Mem.Tame ps B (Mach.dramWrite X a l).mem := by
  refine Mem.Tame.next ?_ hsub hbase
  unfold Mach.dramWrite
  refine Mach.dramWriteBlocks_tame_mem (by decide) ?_ ..
  exact Mem.Tame.refl _ _

theorem Mach.dramRead_tame_dev {ps : Nat} {B : Dev} {X : Mach} (hsub : setOf [.free, .seq, .stats, .commands, .events, .flt, .twk, .bbx, .link, .dram, .sent, .feat 0x1E] ||| ps = ps)
    (hbase : Dev.Tame ps B X.dev) (a len : Nat) : Dev.Tame ps B (Mach.dramRead X a len).2.dev := by
  refine Dev.Tame.next ?_ hsub hbase
  unfold Mach.dramRead
  dsimp only
  split
  · dsimp only
    refine Dev.dramUncorrectable_tame (by decide) ?_ ..
    exact Dev.Tame.refl _ _
  · dsimp only
    refine Dev.countForward_tame (by decide) ?_ ..
    exact Dev.Tame.refl _ _

theorem Mach.dramRead_tame_mem {ps : Nat} {B : Mem} {X : Mach} (hsub : setOf [] ||| ps = ps)
    (hbase : Mem.Tame ps B X.mem) (a len : Nat) : Mem.Tame ps B (Mach.dramRead X a len).2.mem := by
  refine Mem.Tame.next ?_ hsub hbase
  unfold Mach.dramRead
  dsimp only
  split
  · dsimp only
    exact Mem.Tame.refl _ _
  · dsimp only
    exact Mem.Tame.refl _ _

end Sys2Proof.Machine
end

