-- ==== Sys2Proof/Laws/FrameDma.lean ====
section
/-! SUPPORT. What each operation of Machine/Dma.lean may change. -/

namespace Sys2Proof.Machine
open Sys2Proof

theorem Mach.dmaRead_tame_dev {ps : Nat} {B : Dev} {X : Mach} (hsub : setOf [.free, .seq, .stats, .commands, .events, .flt, .twk, .bbx, .link, .dram, .sent, .feat 0x1E] ||| ps = ps)
    (hbase : Dev.Tame ps B X.dev) (ch a len : Nat) : Dev.Tame ps B (Mach.dmaRead X ch a len).2.dev := by
  refine Dev.Tame.next ?_ hsub hbase
  unfold Mach.dmaRead
  split
  · refine Mach.dramRead_tame_dev (by decide) ?_ ..
    exact Dev.Tame.refl _ _
  · dsimp only
    exact Dev.Tame.refl _ _
  · dsimp only
    exact Dev.Tame.refl _ _

theorem Mach.dmaRead_tame_mem {ps : Nat} {B : Mem} {X : Mach} (hsub : setOf [] ||| ps = ps)
    (hbase : Mem.Tame ps B X.mem) (ch a len : Nat) : Mem.Tame ps B (Mach.dmaRead X ch a len).2.mem := by
  refine Mem.Tame.next ?_ hsub hbase
  unfold Mach.dmaRead
  split
  · refine Mach.dramRead_tame_mem (by decide) ?_ ..
    exact Mem.Tame.refl _ _
  · dsimp only
    exact Mem.Tame.refl _ _
  · dsimp only
    exact Mem.Tame.refl _ _

theorem Mach.dmaWrite_tame_dev {ps : Nat} {B : Dev} {X : Mach} (hsub : setOf [.dram] ||| ps = ps)
    (hbase : Dev.Tame ps B X.dev) (ch a : Nat) (l : List Byte) : Dev.Tame ps B (Mach.dmaWrite X ch a l).2.dev := by
  refine Dev.Tame.next ?_ hsub hbase
  unfold Mach.dmaWrite
  split
  · dsimp only
    refine Mach.dramWrite_tame_dev (by decide) ?_ ..
    exact Dev.Tame.refl _ _
  · dsimp only
    exact Dev.Tame.refl _ _
  · dsimp only
    exact Dev.Tame.refl _ _

theorem Mach.dmaWrite_tame_mem {ps : Nat} {B : Mem} {X : Mach} (hsub : setOf [.hostMem, .dramMem] ||| ps = ps)
    (hbase : Mem.Tame ps B X.mem) (ch a : Nat) (l : List Byte) : Mem.Tame ps B (Mach.dmaWrite X ch a l).2.mem := by
  refine Mem.Tame.next ?_ hsub hbase
  unfold Mach.dmaWrite
  split
  · dsimp only
    refine Mach.dramWrite_tame_mem (by decide) ?_ ..
    exact Mem.Tame.refl _ _
  · dsimp only
    refine Mem.hostWrite_tame (by decide) ?_ ..
    exact Mem.Tame.refl _ _
  · dsimp only
    exact Mem.Tame.refl _ _

theorem Mach.dmaWriteBack_tame_dev {ps : Nat} {B : Dev} {X : Mach} (hsub : setOf [.dram] ||| ps = ps)
    (hbase : Dev.Tame ps B X.dev) (ch : Nat) (code : Nat) : Dev.Tame ps B (Mach.dmaWriteBack X ch code).dev := by
  refine Dev.Tame.next ?_ hsub hbase
  unfold Mach.dmaWriteBack
  dsimp only
  refine Mach.dmaWrite_tame_dev (by decide) ?_ ..
  refine Mach.dmaWrite_tame_dev (by decide) ?_ ..
  exact Dev.Tame.refl _ _

theorem Mach.dmaWriteBack_tame_mem {ps : Nat} {B : Mem} {X : Mach} (hsub : setOf [.hostMem, .dramMem] ||| ps = ps)
    (hbase : Mem.Tame ps B X.mem) (ch : Nat) (code : Nat) : Mem.Tame ps B (Mach.dmaWriteBack X ch code).mem := by
  refine Mem.Tame.next ?_ hsub hbase
  unfold Mach.dmaWriteBack
  dsimp only
  refine Mach.dmaWrite_tame_mem (by decide) ?_ ..
  refine Mach.dmaWrite_tame_mem (by decide) ?_ ..
  exact Mem.Tame.refl _ _

theorem Mach.dmaFinish_tame_dev {ps : Nat} {B : Dev} {X : Mach} (hsub : setOf [.seq, .commands, .errorLog, .msix, .intr, .dram, .dma, .sent, .feat 0x1F] ||| ps = ps)
    (hbase : Dev.Tame ps B X.dev) (ch code : Nat) : Dev.Tame ps B (Mach.dmaFinish X ch code).dev := by
  refine Dev.Tame.next ?_ hsub hbase
  unfold Mach.dmaFinish
  dsimp only
  split
  · refine Dev.complete_tame (by decide) ?_ ..
    refine Dev.fireInt_tame (by decide) ?_ ..
    refine Dev.bump_tame (by decide) ?_
    refine Dev.onDma_tame (by decide) ?_ ..
    refine Mach.dmaWriteBack_tame_dev (by decide) ?_ ..
    exact Dev.Tame.refl _ _
  · refine Dev.fireInt_tame (by decide) ?_ ..
    refine Dev.bump_tame (by decide) ?_
    refine Dev.onDma_tame (by decide) ?_ ..
    refine Mach.dmaWriteBack_tame_dev (by decide) ?_ ..
    exact Dev.Tame.refl _ _

theorem Mach.dmaFinish_tame_mem {ps : Nat} {B : Mem} {X : Mach} (hsub : setOf [.hostMem, .dramMem] ||| ps = ps)
    (hbase : Mem.Tame ps B X.mem) (ch code : Nat) : Mem.Tame ps B (Mach.dmaFinish X ch code).mem := by
  refine Mem.Tame.next ?_ hsub hbase
  unfold Mach.dmaFinish
  dsimp only
  refine Mach.dmaWriteBack_tame_mem (by decide) ?_ ..
  exact Mem.Tame.refl _ _

theorem Mach.dmaArrive_tame_dev {ps : Nat} {B : Dev} {X : Mach} (hsub : setOf [.free, .seq, .stats, .commands, .events, .flt, .twk, .bbx, .link, .dram, .dma, .sent, .feat 0x1E] ||| ps = ps)
    (hbase : Dev.Tame ps B X.dev) (ch idx : Nat) : Dev.Tame ps B (Mach.dmaArrive X ch idx).2.dev := by
  refine Dev.Tame.next ?_ hsub hbase
  unfold Mach.dmaArrive
  dsimp only
  split
  · dsimp only
    refine Dev.onDma_tame (by decide) ?_ ..
    exact Dev.Tame.refl _ _
  · split
    · dsimp only
      refine Mach.dev_of_snd (by assumption) ?_
      refine Mach.dmaRead_tame_dev (by decide) ?_ ..
      dsimp only
      refine Dev.onDma_tame (by decide) ?_ ..
      exact Dev.Tame.refl _ _
    · split
      · dsimp only
        refine Mach.dev_of_snd (by assumption) ?_
        refine Mach.dmaRead_tame_dev (by decide) ?_ ..
        dsimp only
        refine Dev.onDma_tame (by decide) ?_ ..
        exact Dev.Tame.refl _ _
      · dsimp only
        refine Mach.dev_of_snd (by assumption) ?_
        refine Mach.dmaRead_tame_dev (by decide) ?_ ..
        dsimp only
        refine Dev.onDma_tame (by decide) ?_ ..
        exact Dev.Tame.refl _ _

theorem Mach.dmaArrive_tame_mem {ps : Nat} {B : Mem} {X : Mach} (hsub : setOf [] ||| ps = ps)
    (hbase : Mem.Tame ps B X.mem) (ch idx : Nat) : Mem.Tame ps B (Mach.dmaArrive X ch idx).2.mem := by
  refine Mem.Tame.next ?_ hsub hbase
  unfold Mach.dmaArrive
  dsimp only
  split
  · dsimp only
    exact Mem.Tame.refl _ _
  · split
    · dsimp only
      refine Mach.mem_of_snd (by assumption) ?_
      refine Mach.dmaRead_tame_mem (by decide) ?_ ..
      dsimp only
      exact Mem.Tame.refl _ _
    · split
      · dsimp only
        refine Mach.mem_of_snd (by assumption) ?_
        refine Mach.dmaRead_tame_mem (by decide) ?_ ..
        dsimp only
        exact Mem.Tame.refl _ _
      · dsimp only
        refine Mach.mem_of_snd (by assumption) ?_
        refine Mach.dmaRead_tame_mem (by decide) ?_ ..
        dsimp only
        exact Mem.Tame.refl _ _

theorem Mach.dmaBegin_tame_dev {ps : Nat} {B : Dev} {X : Mach} (hsub : setOf [.free, .seq, .stats, .commands, .events, .flt, .twk, .bbx, .link, .dram, .dma, .sent, .feat 0x1E] ||| ps = ps)
    (hbase : Dev.Tame ps B X.dev) (ch prog wmask smask : Nat) (cmd : Option (Nat × Nat)) : Dev.Tame ps B (Mach.dmaBegin X ch prog wmask smask cmd).2.dev := by
  refine Dev.Tame.next ?_ hsub hbase
  unfold Mach.dmaBegin
  dsimp only
  split
  · dsimp only
    refine Mach.dev_of_snd (by assumption) ?_
    refine Mach.dmaRead_tame_dev (by decide) ?_ ..
    dsimp only
    refine Dev.onDma_tame (by decide) ?_ ..
    exact Dev.Tame.refl _ _
  · split
    · refine Mach.dmaArrive_tame_dev (by decide) ?_ ..
      refine Mach.dev_of_snd (by assumption) ?_
      refine Mach.dmaRead_tame_dev (by decide) ?_ ..
      dsimp only
      refine Dev.onDma_tame (by decide) ?_ ..
      exact Dev.Tame.refl _ _
    · dsimp only
      refine Mach.dev_of_snd (by assumption) ?_
      refine Mach.dmaRead_tame_dev (by decide) ?_ ..
      dsimp only
      refine Dev.onDma_tame (by decide) ?_ ..
      exact Dev.Tame.refl _ _

theorem Mach.dmaBegin_tame_mem {ps : Nat} {B : Mem} {X : Mach} (hsub : setOf [] ||| ps = ps)
    (hbase : Mem.Tame ps B X.mem) (ch prog wmask smask : Nat) (cmd : Option (Nat × Nat)) : Mem.Tame ps B (Mach.dmaBegin X ch prog wmask smask cmd).2.mem := by
  refine Mem.Tame.next ?_ hsub hbase
  unfold Mach.dmaBegin
  dsimp only
  split
  · dsimp only
    refine Mach.mem_of_snd (by assumption) ?_
    refine Mach.dmaRead_tame_mem (by decide) ?_ ..
    dsimp only
    exact Mem.Tame.refl _ _
  · split
    · refine Mach.dmaArrive_tame_mem (by decide) ?_ ..
      refine Mach.mem_of_snd (by assumption) ?_
      refine Mach.dmaRead_tame_mem (by decide) ?_ ..
      dsimp only
      exact Mem.Tame.refl _ _
    · dsimp only
      refine Mach.mem_of_snd (by assumption) ?_
      refine Mach.dmaRead_tame_mem (by decide) ?_ ..
      dsimp only
      exact Mem.Tame.refl _ _

theorem Mach.dmaHandOver_tame_dev_rec {B : Dev} (k : Nat) : ∀ (X : Mach) (ch : Nat), Dev.Tame (setOf [.free, .seq, .stats, .commands, .events, .errorLog, .msix, .flt, .intr, .twk, .bbx, .link, .dram, .dma, .sent, .feat 0x1E, .feat 0x1F]) B X.dev →
    Dev.Tame (setOf [.free, .seq, .stats, .commands, .events, .errorLog, .msix, .flt, .intr, .twk, .bbx, .link, .dram, .dma, .sent, .feat 0x1E, .feat 0x1F]) B (Mach.dmaHandOver X ch k).dev := by
  induction k with
  | zero =>
    intro X ch g
    unfold Mach.dmaHandOver
    assumption
  | succ k ih_dev =>
    intro X ch g
    unfold Mach.dmaHandOver
    dsimp only
    refine Mach.tame_ite_dev ?_ ?_
    · split
      · refine Mach.dev_of_snd (by assumption) ?_
        refine Mach.dmaBegin_tame_dev (by decide) ?_ ..
        dsimp only
        refine Dev.onDma_tame (by decide) ?_ ..
        refine Dev.setReg_tame (by decide) ?_
        assumption
      · apply ih_dev
        refine Mach.dmaFinish_tame_dev (by decide) ?_ ..
        refine Mach.dev_of_snd (by assumption) ?_
        refine Mach.dmaBegin_tame_dev (by decide) ?_ ..
        dsimp only
        refine Dev.onDma_tame (by decide) ?_ ..
        refine Dev.setReg_tame (by decide) ?_
        assumption
    · assumption

theorem Mach.dmaHandOver_tame_dev {ps : Nat} {B : Dev} {X : Mach} (hsub : setOf [.free, .seq, .stats, .commands, .events, .errorLog, .msix, .flt, .intr, .twk, .bbx, .link, .dram, .dma, .sent, .feat 0x1E, .feat 0x1F] ||| ps = ps)
    (hbase : Dev.Tame ps B X.dev) (ch : Nat) (k : Nat) : Dev.Tame ps B (Mach.dmaHandOver X ch k).dev :=
  Dev.Tame.next (Mach.dmaHandOver_tame_dev_rec k _ _ (.refl _ _)) hsub hbase

theorem Mach.dmaHandOver_tame_mem_rec {B : Mem} (k : Nat) : ∀ (X : Mach) (ch : Nat), Mem.Tame (setOf [.hostMem, .dramMem]) B X.mem →
    Mem.Tame (setOf [.hostMem, .dramMem]) B (Mach.dmaHandOver X ch k).mem := by
  induction k with
  | zero =>
    intro X ch g
    unfold Mach.dmaHandOver
    assumption
  | succ k ih_mem =>
    intro X ch g
    unfold Mach.dmaHandOver
    dsimp only
    refine Mach.tame_ite_mem ?_ ?_
    · split
      · refine Mach.mem_of_snd (by assumption) ?_
        refine Mach.dmaBegin_tame_mem (by decide) ?_ ..
        dsimp only
        assumption
      · apply ih_mem
        refine Mach.dmaFinish_tame_mem (by decide) ?_ ..
        refine Mach.mem_of_snd (by assumption) ?_
        refine Mach.dmaBegin_tame_mem (by decide) ?_ ..
        dsimp only
        assumption
    · assumption

theorem Mach.dmaHandOver_tame_mem {ps : Nat} {B : Mem} {X : Mach} (hsub : setOf [.hostMem, .dramMem] ||| ps = ps)
    (hbase : Mem.Tame ps B X.mem) (ch : Nat) (k : Nat) : Mem.Tame ps B (Mach.dmaHandOver X ch k).mem :=
  Mem.Tame.next (Mach.dmaHandOver_tame_mem_rec k _ _ (.refl _ _)) hsub hbase

theorem Mach.dmaEnd_tame_dev {ps : Nat} {B : Dev} {X : Mach} (hsub : setOf [.free, .seq, .stats, .commands, .events, .errorLog, .msix, .flt, .intr, .twk, .bbx, .link, .dram, .dma, .sent, .feat 0x1E, .feat 0x1F] ||| ps = ps)
    (hbase : Dev.Tame ps B X.dev) (ch code : Nat) : Dev.Tame ps B (Mach.dmaEnd X ch code).dev := by
  refine Dev.Tame.next ?_ hsub hbase
  unfold Mach.dmaEnd
  dsimp only
  refine Mach.tame_ite_dev ?_ ?_
  · refine Mach.dmaFinish_tame_dev (by decide) ?_ ..
    exact Dev.Tame.refl _ _
  · refine Mach.dmaHandOver_tame_dev (by decide) ?_ ..
    refine Mach.dmaFinish_tame_dev (by decide) ?_ ..
    exact Dev.Tame.refl _ _

theorem Mach.dmaEnd_tame_mem {ps : Nat} {B : Mem} {X : Mach} (hsub : setOf [.hostMem, .dramMem] ||| ps = ps)
    (hbase : Mem.Tame ps B X.mem) (ch code : Nat) : Mem.Tame ps B (Mach.dmaEnd X ch code).mem := by
  refine Mem.Tame.next ?_ hsub hbase
  unfold Mach.dmaEnd
  dsimp only
  refine Mach.tame_ite_mem ?_ ?_
  · refine Mach.dmaFinish_tame_mem (by decide) ?_ ..
    exact Mem.Tame.refl _ _
  · refine Mach.dmaHandOver_tame_mem (by decide) ?_ ..
    refine Mach.dmaFinish_tame_mem (by decide) ?_ ..
    exact Mem.Tame.refl _ _

theorem Mach.dmaGo_tame_dev {ps : Nat} {B : Dev} {X : Mach} (hsub : setOf [.free, .seq, .stats, .commands, .events, .errorLog, .msix, .flt, .intr, .twk, .bbx, .link, .dram, .dma, .sent, .feat 0x1E, .feat 0x1F] ||| ps = ps)
    (hbase : Dev.Tame ps B X.dev) (ch idx : Nat) : Dev.Tame ps B (Mach.dmaGo X ch idx).dev := by
  refine Dev.Tame.next ?_ hsub hbase
  unfold Mach.dmaGo
  split
  · refine Mach.dev_of_snd (by assumption) ?_
    refine Mach.dmaArrive_tame_dev (by decide) ?_ ..
    exact Dev.Tame.refl _ _
  · refine Mach.dmaEnd_tame_dev (by decide) ?_ ..
    refine Mach.dev_of_snd (by assumption) ?_
    refine Mach.dmaArrive_tame_dev (by decide) ?_ ..
    exact Dev.Tame.refl _ _

theorem Mach.dmaGo_tame_mem {ps : Nat} {B : Mem} {X : Mach} (hsub : setOf [.hostMem, .dramMem] ||| ps = ps)
    (hbase : Mem.Tame ps B X.mem) (ch idx : Nat) : Mem.Tame ps B (Mach.dmaGo X ch idx).mem := by
  refine Mem.Tame.next ?_ hsub hbase
  unfold Mach.dmaGo
  split
  · refine Mach.mem_of_snd (by assumption) ?_
    refine Mach.dmaArrive_tame_mem (by decide) ?_ ..
    exact Mem.Tame.refl _ _
  · refine Mach.dmaEnd_tame_mem (by decide) ?_ ..
    refine Mach.mem_of_snd (by assumption) ?_
    refine Mach.dmaArrive_tame_mem (by decide) ?_ ..
    exact Mem.Tame.refl _ _

theorem Mach.dmaSource_tame_dev {ps : Nat} {B : Dev} {X : Mach} (hsub : setOf [.free, .seq, .stats, .commands, .events, .flt, .twk, .bbx, .link, .dram, .sent, .feat 0x1E] ||| ps = ps)
    (hbase : Dev.Tame ps B X.dev) (ch a len : Nat) (fixed : Bool) : Dev.Tame ps B (Mach.dmaSource X ch a len fixed).2.dev := by
  refine Dev.Tame.next ?_ hsub hbase
  unfold Mach.dmaSource
  split
  · split
    · dsimp only
      refine Mach.dev_of_snd (by assumption) ?_
      refine Mach.dmaRead_tame_dev (by decide) ?_ ..
      exact Dev.Tame.refl _ _
    · dsimp only
      refine Mach.dev_of_snd (by assumption) ?_
      refine Mach.dmaRead_tame_dev (by decide) ?_ ..
      exact Dev.Tame.refl _ _
  · refine Mach.dmaRead_tame_dev (by decide) ?_ ..
    exact Dev.Tame.refl _ _

theorem Mach.dmaSource_tame_mem {ps : Nat} {B : Mem} {X : Mach} (hsub : setOf [] ||| ps = ps)
    (hbase : Mem.Tame ps B X.mem) (ch a len : Nat) (fixed : Bool) : Mem.Tame ps B (Mach.dmaSource X ch a len fixed).2.mem := by
  refine Mem.Tame.next ?_ hsub hbase
  unfold Mach.dmaSource
  split
  · split
    · dsimp only
      refine Mach.mem_of_snd (by assumption) ?_
      refine Mach.dmaRead_tame_mem (by decide) ?_ ..
      exact Mem.Tame.refl _ _
    · dsimp only
      refine Mach.mem_of_snd (by assumption) ?_
      refine Mach.dmaRead_tame_mem (by decide) ?_ ..
      exact Mem.Tame.refl _ _
  · refine Mach.dmaRead_tame_mem (by decide) ?_ ..
    exact Mem.Tame.refl _ _

theorem Mach.dmaDest_tame_dev {ps : Nat} {B : Dev} {X : Mach} (hsub : setOf [.dram] ||| ps = ps)
    (hbase : Dev.Tame ps B X.dev) (ch a : Nat) (l : List Byte) (fixed : Bool) : Dev.Tame ps B (Mach.dmaDest X ch a l fixed).2.dev := by
  refine Dev.Tame.next ?_ hsub hbase
  unfold Mach.dmaDest
  split
  · refine Mach.dmaWrite_tame_dev (by decide) ?_ ..
    exact Dev.Tame.refl _ _
  · refine Mach.dmaWrite_tame_dev (by decide) ?_ ..
    exact Dev.Tame.refl _ _

theorem Mach.dmaDest_tame_mem {ps : Nat} {B : Mem} {X : Mach} (hsub : setOf [.hostMem, .dramMem] ||| ps = ps)
    (hbase : Mem.Tame ps B X.mem) (ch a : Nat) (l : List Byte) (fixed : Bool) : Mem.Tame ps B (Mach.dmaDest X ch a l fixed).2.mem := by
  refine Mem.Tame.next ?_ hsub hbase
  unfold Mach.dmaDest
  split
  · refine Mach.dmaWrite_tame_mem (by decide) ?_ ..
    exact Mem.Tame.refl _ _
  · refine Mach.dmaWrite_tame_mem (by decide) ?_ ..
    exact Mem.Tame.refl _ _

theorem dmaStep_tame_dev {ps : Nat} {B : Dev} {X : Mach} {ch op : Nat} {f : DmaInstr → Mach → Mach}
    (h : ∀ i, Dev.Tame ps B (f i X).dev) (g : Dev.Tame ps B X.dev) : Dev.Tame ps B (dmaStep ch op f X).dev := by
  unfold dmaStep
  split
  · exact Mach.tame_ite_dev (h _) g
  · exact g

theorem dmaStep_tame_mem {ps : Nat} {B : Mem} {X : Mach} {ch op : Nat} {f : DmaInstr → Mach → Mach}
    (h : ∀ i, Mem.Tame ps B (f i X).mem) (g : Mem.Tame ps B X.mem) : Mem.Tame ps B (dmaStep ch op f X).mem := by
  unfold dmaStep
  split
  · exact Mach.tame_ite_mem (h _) g
  · exact g

theorem Mach.dmaMove_tame_dev {ps : Nat} {B : Dev} {X : Mach} (hsub : setOf [.free, .seq, .stats, .commands, .events, .errorLog, .msix, .flt, .intr, .twk, .bbx, .link, .dram, .dma, .sent, .feat 0x1E, .feat 0x1F] ||| ps = ps)
    (hbase : Dev.Tame ps B X.dev) (ch : Nat) (i : DmaInstr) (ecc : List (Nat × Bool)) : Dev.Tame ps B (Mach.dmaMove X ch i ecc).dev := by
  refine Dev.Tame.next ?_ hsub hbase
  unfold Mach.dmaMove
  dsimp only
  refine Mach.tame_ite_dev ?_ ?_
  · refine Mach.dmaEnd_tame_dev (by decide) ?_ ..
    exact Dev.Tame.refl _ _
  · split
    · refine Mach.dmaEnd_tame_dev (by decide) ?_ ..
      refine Mach.dev_of_snd (by assumption) ?_
      refine Mach.dmaSource_tame_dev (by decide) ?_ ..
      dsimp only
      refine Dev.eccFound_tame (by decide) ?_ ..
      exact Dev.Tame.refl _ _
    · split
      · refine Mach.dmaEnd_tame_dev (by decide) ?_ ..
        refine Mach.dev_of_snd (by assumption) ?_
        refine Mach.dmaDest_tame_dev (by decide) ?_ ..
        refine Mach.dev_of_snd (by assumption) ?_
        refine Mach.dmaSource_tame_dev (by decide) ?_ ..
        dsimp only
        refine Dev.eccFound_tame (by decide) ?_ ..
        exact Dev.Tame.refl _ _
      · refine Mach.dmaGo_tame_dev (by decide) ?_ ..
        dsimp only
        refine Dev.onDma_tame (by decide) ?_ ..
        refine Mach.dev_of_snd (by assumption) ?_
        refine Mach.dmaDest_tame_dev (by decide) ?_ ..
        refine Mach.dev_of_snd (by assumption) ?_
        refine Mach.dmaSource_tame_dev (by decide) ?_ ..
        dsimp only
        refine Dev.eccFound_tame (by decide) ?_ ..
        exact Dev.Tame.refl _ _

theorem Mach.dmaMove_tame_mem {ps : Nat} {B : Mem} {X : Mach} (hsub : setOf [.hostMem, .dramMem] ||| ps = ps)
    (hbase : Mem.Tame ps B X.mem) (ch : Nat) (i : DmaInstr) (ecc : List (Nat × Bool)) : Mem.Tame ps B (Mach.dmaMove X ch i ecc).mem := by
  refine Mem.Tame.next ?_ hsub hbase
  unfold Mach.dmaMove
  dsimp only
  refine Mach.tame_ite_mem ?_ ?_
  · refine Mach.dmaEnd_tame_mem (by decide) ?_ ..
    exact Mem.Tame.refl _ _
  · split
    · refine Mach.dmaEnd_tame_mem (by decide) ?_ ..
      refine Mach.mem_of_snd (by assumption) ?_
      refine Mach.dmaSource_tame_mem (by decide) ?_ ..
      dsimp only
      exact Mem.Tame.refl _ _
    · split
      · refine Mach.dmaEnd_tame_mem (by decide) ?_ ..
        refine Mach.mem_of_snd (by assumption) ?_
        refine Mach.dmaDest_tame_mem (by decide) ?_ ..
        refine Mach.mem_of_snd (by assumption) ?_
        refine Mach.dmaSource_tame_mem (by decide) ?_ ..
        dsimp only
        exact Mem.Tame.refl _ _
      · refine Mach.dmaGo_tame_mem (by decide) ?_ ..
        dsimp only
        refine Mach.mem_of_snd (by assumption) ?_
        refine Mach.dmaDest_tame_mem (by decide) ?_ ..
        refine Mach.mem_of_snd (by assumption) ?_
        refine Mach.dmaSource_tame_mem (by decide) ?_ ..
        dsimp only
        exact Mem.Tame.refl _ _

theorem Mach.dmaFill_tame_dev {ps : Nat} {B : Dev} {X : Mach} (hsub : setOf [.free, .seq, .stats, .commands, .events, .errorLog, .msix, .flt, .intr, .twk, .bbx, .link, .dram, .dma, .sent, .feat 0x1E, .feat 0x1F] ||| ps = ps)
    (hbase : Dev.Tame ps B X.dev) (ch : Nat) (i : DmaInstr) : Dev.Tame ps B (Mach.dmaFill X ch i).dev := by
  refine Dev.Tame.next ?_ hsub hbase
  unfold Mach.dmaFill
  dsimp only
  refine Mach.tame_ite_dev ?_ ?_
  · refine Mach.dmaEnd_tame_dev (by decide) ?_ ..
    exact Dev.Tame.refl _ _
  · split
    · refine Mach.dmaEnd_tame_dev (by decide) ?_ ..
      refine Mach.dev_of_snd (by assumption) ?_
      refine Mach.dmaDest_tame_dev (by decide) ?_ ..
      exact Dev.Tame.refl _ _
    · refine Mach.dmaGo_tame_dev (by decide) ?_ ..
      dsimp only
      refine Dev.onDma_tame (by decide) ?_ ..
      refine Mach.dev_of_snd (by assumption) ?_
      refine Mach.dmaDest_tame_dev (by decide) ?_ ..
      exact Dev.Tame.refl _ _

theorem Mach.dmaFill_tame_mem {ps : Nat} {B : Mem} {X : Mach} (hsub : setOf [.hostMem, .dramMem] ||| ps = ps)
    (hbase : Mem.Tame ps B X.mem) (ch : Nat) (i : DmaInstr) : Mem.Tame ps B (Mach.dmaFill X ch i).mem := by
  refine Mem.Tame.next ?_ hsub hbase
  unfold Mach.dmaFill
  dsimp only
  refine Mach.tame_ite_mem ?_ ?_
  · refine Mach.dmaEnd_tame_mem (by decide) ?_ ..
    exact Mem.Tame.refl _ _
  · split
    · refine Mach.dmaEnd_tame_mem (by decide) ?_ ..
      refine Mach.mem_of_snd (by assumption) ?_
      refine Mach.dmaDest_tame_mem (by decide) ?_ ..
      exact Mem.Tame.refl _ _
    · refine Mach.dmaGo_tame_mem (by decide) ?_ ..
      dsimp only
      refine Mach.mem_of_snd (by assumption) ?_
      refine Mach.dmaDest_tame_mem (by decide) ?_ ..
      exact Mem.Tame.refl _ _

theorem Mach.dmaCmp_tame_dev {ps : Nat} {B : Dev} {X : Mach} (hsub : setOf [.free, .seq, .stats, .commands, .events, .errorLog, .msix, .flt, .intr, .twk, .bbx, .link, .dram, .dma, .sent, .feat 0x1E, .feat 0x1F] ||| ps = ps)
    (hbase : Dev.Tame ps B X.dev) (ch : Nat) (i : DmaInstr) (ecc : List (Nat × Bool)) : Dev.Tame ps B (Mach.dmaCmp X ch i ecc).dev := by
  refine Dev.Tame.next ?_ hsub hbase
  unfold Mach.dmaCmp
  dsimp only
  refine Mach.tame_ite_dev ?_ ?_
  · refine Mach.dmaEnd_tame_dev (by decide) ?_ ..
    exact Dev.Tame.refl _ _
  · split
    · refine Mach.dmaEnd_tame_dev (by decide) ?_ ..
      refine Mach.dev_of_snd (by assumption) ?_
      refine Mach.dmaSource_tame_dev (by decide) ?_ ..
      dsimp only
      refine Dev.eccFound_tame (by decide) ?_ ..
      exact Dev.Tame.refl _ _
    · split
      · refine Mach.dmaEnd_tame_dev (by decide) ?_ ..
        refine Mach.dev_of_snd (by assumption) ?_
        refine Mach.dmaSource_tame_dev (by decide) ?_ ..
        refine Mach.dev_of_snd (by assumption) ?_
        refine Mach.dmaSource_tame_dev (by decide) ?_ ..
        dsimp only
        refine Dev.eccFound_tame (by decide) ?_ ..
        exact Dev.Tame.refl _ _
      · refine Mach.tame_ite_dev ?_ ?_
        · refine Mach.dmaEnd_tame_dev (by decide) ?_ ..
          dsimp only
          refine Dev.onDma_tame (by decide) ?_ ..
          refine Mach.dev_of_snd (by assumption) ?_
          refine Mach.dmaSource_tame_dev (by decide) ?_ ..
          refine Mach.dev_of_snd (by assumption) ?_
          refine Mach.dmaSource_tame_dev (by decide) ?_ ..
          dsimp only
          refine Dev.eccFound_tame (by decide) ?_ ..
          exact Dev.Tame.refl _ _
        · refine Mach.dmaGo_tame_dev (by decide) ?_ ..
          dsimp only
          refine Dev.onDma_tame (by decide) ?_ ..
          refine Mach.dev_of_snd (by assumption) ?_
          refine Mach.dmaSource_tame_dev (by decide) ?_ ..
          refine Mach.dev_of_snd (by assumption) ?_
          refine Mach.dmaSource_tame_dev (by decide) ?_ ..
          dsimp only
          refine Dev.eccFound_tame (by decide) ?_ ..
          exact Dev.Tame.refl _ _

theorem Mach.dmaCmp_tame_mem {ps : Nat} {B : Mem} {X : Mach} (hsub : setOf [.hostMem, .dramMem] ||| ps = ps)
    (hbase : Mem.Tame ps B X.mem) (ch : Nat) (i : DmaInstr) (ecc : List (Nat × Bool)) : Mem.Tame ps B (Mach.dmaCmp X ch i ecc).mem := by
  refine Mem.Tame.next ?_ hsub hbase
  unfold Mach.dmaCmp
  dsimp only
  refine Mach.tame_ite_mem ?_ ?_
  · refine Mach.dmaEnd_tame_mem (by decide) ?_ ..
    exact Mem.Tame.refl _ _
  · split
    · refine Mach.dmaEnd_tame_mem (by decide) ?_ ..
      refine Mach.mem_of_snd (by assumption) ?_
      refine Mach.dmaSource_tame_mem (by decide) ?_ ..
      dsimp only
      exact Mem.Tame.refl _ _
    · split
      · refine Mach.dmaEnd_tame_mem (by decide) ?_ ..
        refine Mach.mem_of_snd (by assumption) ?_
        refine Mach.dmaSource_tame_mem (by decide) ?_ ..
        refine Mach.mem_of_snd (by assumption) ?_
        refine Mach.dmaSource_tame_mem (by decide) ?_ ..
        dsimp only
        exact Mem.Tame.refl _ _
      · refine Mach.tame_ite_mem ?_ ?_
        · refine Mach.dmaEnd_tame_mem (by decide) ?_ ..
          dsimp only
          refine Mach.mem_of_snd (by assumption) ?_
          refine Mach.dmaSource_tame_mem (by decide) ?_ ..
          refine Mach.mem_of_snd (by assumption) ?_
          refine Mach.dmaSource_tame_mem (by decide) ?_ ..
          dsimp only
          exact Mem.Tame.refl _ _
        · refine Mach.dmaGo_tame_mem (by decide) ?_ ..
          dsimp only
          refine Mach.mem_of_snd (by assumption) ?_
          refine Mach.dmaSource_tame_mem (by decide) ?_ ..
          refine Mach.mem_of_snd (by assumption) ?_
          refine Mach.dmaSource_tame_mem (by decide) ?_ ..
          dsimp only
          exact Mem.Tame.refl _ _

theorem Mach.dmaLoop_tame_dev {ps : Nat} {B : Dev} {X : Mach} (hsub : setOf [.free, .seq, .stats, .commands, .events, .errorLog, .msix, .flt, .intr, .twk, .bbx, .link, .dram, .dma, .sent, .feat 0x1E, .feat 0x1F] ||| ps = ps)
    (hbase : Dev.Tame ps B X.dev) (ch : Nat) (i : DmaInstr) : Dev.Tame ps B (Mach.dmaLoop X ch i).dev := by
  refine Dev.Tame.next ?_ hsub hbase
  unfold Mach.dmaLoop
  dsimp only
  refine Mach.tame_ite_dev ?_ ?_
  · refine Mach.dmaEnd_tame_dev (by decide) ?_ ..
    exact Dev.Tame.refl _ _
  · refine Mach.dmaGo_tame_dev (by decide) ?_ ..
    dsimp only
    refine Dev.onDma_tame (by decide) ?_ ..
    exact Dev.Tame.refl _ _

theorem Mach.dmaLoop_tame_mem {ps : Nat} {B : Mem} {X : Mach} (hsub : setOf [.hostMem, .dramMem] ||| ps = ps)
    (hbase : Mem.Tame ps B X.mem) (ch : Nat) (i : DmaInstr) : Mem.Tame ps B (Mach.dmaLoop X ch i).mem := by
  refine Mem.Tame.next ?_ hsub hbase
  unfold Mach.dmaLoop
  dsimp only
  refine Mach.tame_ite_mem ?_ ?_
  · refine Mach.dmaEnd_tame_mem (by decide) ?_ ..
    exact Mem.Tame.refl _ _
  · refine Mach.dmaGo_tame_mem (by decide) ?_ ..
    dsimp only
    exact Mem.Tame.refl _ _

theorem Mach.dmaWait_tame_dev {ps : Nat} {B : Dev} {X : Mach} (hsub : setOf [.free, .seq, .stats, .commands, .events, .errorLog, .msix, .flt, .intr, .twk, .bbx, .link, .dram, .dma, .dmaEvents, .sent, .feat 0x1E, .feat 0x1F] ||| ps = ps)
    (hbase : Dev.Tame ps B X.dev) (ch : Nat) (i : DmaInstr) : Dev.Tame ps B (Mach.dmaWait X ch i).dev := by
  refine Dev.Tame.next ?_ hsub hbase
  unfold Mach.dmaWait
  dsimp only
  refine Mach.tame_ite_dev ?_ ?_
  · refine Mach.dmaEnd_tame_dev (by decide) ?_ ..
    exact Dev.Tame.refl _ _
  · refine Mach.tame_ite_dev ?_ ?_
    · refine Mach.dmaGo_tame_dev (by decide) ?_ ..
      dsimp only
      refine Dev.tame_dmaEvents (by decide) ?_
      exact Dev.Tame.refl _ _
    · dsimp only
      refine Dev.onDma_tame (by decide) ?_ ..
      exact Dev.Tame.refl _ _

theorem Mach.dmaWait_tame_mem {ps : Nat} {B : Mem} {X : Mach} (hsub : setOf [.hostMem, .dramMem] ||| ps = ps)
    (hbase : Mem.Tame ps B X.mem) (ch : Nat) (i : DmaInstr) : Mem.Tame ps B (Mach.dmaWait X ch i).mem := by
  refine Mem.Tame.next ?_ hsub hbase
  unfold Mach.dmaWait
  dsimp only
  refine Mach.tame_ite_mem ?_ ?_
  · refine Mach.dmaEnd_tame_mem (by decide) ?_ ..
    exact Mem.Tame.refl _ _
  · refine Mach.tame_ite_mem ?_ ?_
    · refine Mach.dmaGo_tame_mem (by decide) ?_ ..
      dsimp only
      exact Mem.Tame.refl _ _
    · dsimp only
      exact Mem.Tame.refl _ _

theorem Dev.setEvent_tame {ps : Nat} {B X : Dev} (hsub : setOf [.dma, .dmaEvents] ||| ps = ps)
    (hbase : Dev.Tame ps B X) (v : Nat) : Dev.Tame ps B (Dev.setEvent X v) := by
  refine Dev.Tame.next ?_ hsub hbase
  unfold Dev.setEvent
  split
  · refine Dev.tame_dmaEvents (by decide) ?_
    exact Dev.Tame.refl _ _
  · dsimp only
    refine Dev.tame_dmaEvents (by decide) ?_
    refine Dev.onDma_tame (by decide) ?_ ..
    exact Dev.Tame.refl _ _

theorem Dev.eventOccurs_tame {ps : Nat} {B X : Dev} (hsub : setOf [.dma] ||| ps = ps)
    (hbase : Dev.Tame ps B X) (v : Nat) : Dev.Tame ps B (Dev.eventOccurs X v) := by
  refine Dev.Tame.next ?_ hsub hbase
  unfold Dev.eventOccurs
  refine Dev.tame_foldl ?_ (fun _ _ _ => ?_)
  · exact Dev.Tame.refl _ _
  · refine Dev.onDma_tame (by decide) ?_ ..
    assumption

theorem Mach.dmaSignal_tame_dev {ps : Nat} {B : Dev} {X : Mach} (hsub : setOf [.free, .seq, .stats, .commands, .events, .errorLog, .msix, .flt, .intr, .twk, .bbx, .link, .dram, .dma, .dmaEvents, .sent, .feat 0x1E, .feat 0x1F] ||| ps = ps)
    (hbase : Dev.Tame ps B X.dev) (ch : Nat) (i : DmaInstr) : Dev.Tame ps B (Mach.dmaSignal X ch i).dev := by
  refine Dev.Tame.next ?_ hsub hbase
  unfold Mach.dmaSignal
  dsimp only
  refine Mach.tame_ite_dev ?_ ?_
  · refine Mach.dmaEnd_tame_dev (by decide) ?_ ..
    exact Dev.Tame.refl _ _
  · refine Mach.dmaGo_tame_dev (by decide) ?_ ..
    dsimp only
    refine Dev.tame_ite ?_ ?_
    · refine Dev.fireInt_tame (by decide) ?_ ..
      refine Dev.tame_ite ?_ ?_
      · exact Dev.Tame.refl _ _
      · refine Dev.setEvent_tame (by decide) ?_ ..
        exact Dev.Tame.refl _ _
    · refine Dev.tame_ite ?_ ?_
      · exact Dev.Tame.refl _ _
      · refine Dev.setEvent_tame (by decide) ?_ ..
        exact Dev.Tame.refl _ _

theorem Mach.dmaSignal_tame_mem {ps : Nat} {B : Mem} {X : Mach} (hsub : setOf [.hostMem, .dramMem] ||| ps = ps)
    (hbase : Mem.Tame ps B X.mem) (ch : Nat) (i : DmaInstr) : Mem.Tame ps B (Mach.dmaSignal X ch i).mem := by
  refine Mem.Tame.next ?_ hsub hbase
  unfold Mach.dmaSignal
  dsimp only
  refine Mach.tame_ite_mem ?_ ?_
  · refine Mach.dmaEnd_tame_mem (by decide) ?_ ..
    exact Mem.Tame.refl _ _
  · refine Mach.dmaGo_tame_mem (by decide) ?_ ..
    dsimp only
    exact Mem.Tame.refl _ _

theorem Mach.dmaArm_tame_dev {ps : Nat} {B : Dev} {X : Mach} (hsub : setOf [.free, .seq, .stats, .commands, .events, .errorLog, .msix, .flt, .intr, .twk, .bbx, .link, .dram, .dma, .sent, .feat 0x1E, .feat 0x1F] ||| ps = ps)
    (hbase : Dev.Tame ps B X.dev) (ch : Nat) (v : Bool) : Dev.Tame ps B (Mach.dmaArm X ch v).dev := by
  refine Dev.Tame.next ?_ hsub hbase
  unfold Mach.dmaArm
  refine Mach.tame_ite_dev ?_ ?_
  · refine Mach.dmaHandOver_tame_dev (by decide) ?_ ..
    dsimp only
    refine Dev.setReg_tame (by decide) ?_
    exact Dev.Tame.refl _ _
  · dsimp only
    split
    · dsimp only
      refine Dev.complete_tame (by decide) ?_ ..
      refine Dev.onDma_tame (by decide) ?_ ..
      refine Dev.setReg_tame (by decide) ?_
      exact Dev.Tame.refl _ _
    · dsimp only
      refine Dev.onDma_tame (by decide) ?_ ..
      refine Dev.setReg_tame (by decide) ?_
      exact Dev.Tame.refl _ _

theorem Mach.dmaArm_tame_mem {ps : Nat} {B : Mem} {X : Mach} (hsub : setOf [.hostMem, .dramMem] ||| ps = ps)
    (hbase : Mem.Tame ps B X.mem) (ch : Nat) (v : Bool) : Mem.Tame ps B (Mach.dmaArm X ch v).mem := by
  refine Mem.Tame.next ?_ hsub hbase
  unfold Mach.dmaArm
  refine Mach.tame_ite_mem ?_ ?_
  · refine Mach.dmaHandOver_tame_mem (by decide) ?_ ..
    dsimp only
    exact Mem.Tame.refl _ _
  · dsimp only
    split
    · dsimp only
      exact Mem.Tame.refl _ _
    · dsimp only
      exact Mem.Tame.refl _ _

end Sys2Proof.Machine
end

