-- ==== Sys2Proof/Laws/FrameTime.lean ====
section
/-! SUPPORT. What each operation of Machine/Time.lean may change. -/

namespace Sys2Proof.Machine
open Sys2Proof

theorem Dev.stepBy_tame {ps : Nat} {B X : Dev} (hsub : setOf [.seq, .bbx, .sid, .tick, .feat 0x01] ||| ps = ps)
    (hbase : Dev.Tame ps B X) (delta : Int) : Dev.Tame ps B (Dev.stepBy X delta) := by
  refine Dev.Tame.next ?_ hsub hbase
  unfold Dev.stepBy
  dsimp only
  refine Dev.record_tame (by decide) ?_ ..
  refine Dev.setReg64_tame (by decide) ?_
  refine Dev.tame_sid_tick (by decide) (by decide) ?_
  exact Dev.Tame.refl _ _

theorem Dev.unlock_tame {ps : Nat} {B X : Dev} (hsub : setOf [.seq, .commands, .events, .sid] ||| ps = ps)
    (hbase : Dev.Tame ps B X) : Dev.Tame ps B (Dev.unlock X) := by
  refine Dev.Tame.next ?_ hsub hbase
  unfold Dev.unlock
  refine Dev.tame_ite ?_ ?_
  · refine Dev.postEvent_tame (by decide) ?_ ..
    refine Dev.onSid_tame (by decide) ?_ ..
    exact Dev.Tame.refl _ _
  · exact Dev.Tame.refl _ _

theorem Dev.measure_tame {ps : Nat} {B X : Dev} (hsub : setOf [.free, .seq, .commands, .events, .bbx, .sid, .tick, .feat 0x01] ||| ps = ps)
    (hbase : Dev.Tame ps B X) (off : Int) : Dev.Tame ps B (Dev.measure X off) := by
  refine Dev.Tame.next ?_ hsub hbase
  unfold Dev.measure
  dsimp only
  refine Dev.tame_ite ?_ ?_
  · refine Dev.tame_ite ?_ ?_
    · refine Dev.unlock_tame (by decide) ?_ ..
      refine Dev.onSid_tame (by decide) ?_ ..
      refine Dev.tame_ite ?_ ?_
      · refine Dev.onSid_tame (by decide) ?_ ..
        refine Dev.stepBy_tame (by decide) ?_ ..
        refine Dev.onSid_tame (by decide) ?_ ..
        exact Dev.Tame.refl _ _
      · refine Dev.afterDraw_tame (by decide) ?_ ..
        refine Dev.onSid_tame (by decide) ?_ ..
        refine Dev.onSid_tame (by decide) ?_ ..
        exact Dev.Tame.refl _ _
    · refine Dev.onSid_tame (by decide) ?_ ..
      refine Dev.tame_ite ?_ ?_
      · refine Dev.onSid_tame (by decide) ?_ ..
        refine Dev.stepBy_tame (by decide) ?_ ..
        refine Dev.onSid_tame (by decide) ?_ ..
        exact Dev.Tame.refl _ _
      · refine Dev.afterDraw_tame (by decide) ?_ ..
        refine Dev.onSid_tame (by decide) ?_ ..
        refine Dev.onSid_tame (by decide) ?_ ..
        exact Dev.Tame.refl _ _
  · refine Dev.tame_ite ?_ ?_
    · refine Dev.tame_ite ?_ ?_
      · refine Dev.onSid_tame (by decide) ?_ ..
        refine Dev.onSid_tame (by decide) ?_ ..
        refine Dev.tame_ite ?_ ?_
        · refine Dev.onSid_tame (by decide) ?_ ..
          refine Dev.stepBy_tame (by decide) ?_ ..
          refine Dev.onSid_tame (by decide) ?_ ..
          exact Dev.Tame.refl _ _
        · refine Dev.afterDraw_tame (by decide) ?_ ..
          refine Dev.onSid_tame (by decide) ?_ ..
          refine Dev.onSid_tame (by decide) ?_ ..
          exact Dev.Tame.refl _ _
      · refine Dev.record_tame (by decide) ?_ ..
        refine Dev.onSid_tame (by decide) ?_ ..
        refine Dev.onSid_tame (by decide) ?_ ..
        refine Dev.tame_ite ?_ ?_
        · refine Dev.onSid_tame (by decide) ?_ ..
          refine Dev.stepBy_tame (by decide) ?_ ..
          refine Dev.onSid_tame (by decide) ?_ ..
          exact Dev.Tame.refl _ _
        · refine Dev.afterDraw_tame (by decide) ?_ ..
          refine Dev.onSid_tame (by decide) ?_ ..
          refine Dev.onSid_tame (by decide) ?_ ..
          exact Dev.Tame.refl _ _
    · refine Dev.onSid_tame (by decide) ?_ ..
      refine Dev.tame_ite ?_ ?_
      · refine Dev.onSid_tame (by decide) ?_ ..
        refine Dev.stepBy_tame (by decide) ?_ ..
        refine Dev.onSid_tame (by decide) ?_ ..
        exact Dev.Tame.refl _ _
      · refine Dev.afterDraw_tame (by decide) ?_ ..
        refine Dev.onSid_tame (by decide) ?_ ..
        refine Dev.onSid_tame (by decide) ?_ ..
        exact Dev.Tame.refl _ _

theorem Dev.onPtp_tame {ps : Nat} {B X : Dev} (hsub : setOf [.eth] ||| ps = ps)
    (hbase : Dev.Tame ps B X) (e : Nat) (f : PtpPort → PtpPort) : Dev.Tame ps B (Dev.onPtp X e f) := by
  refine Dev.Tame.next ?_ hsub hbase
  unfold Dev.onPtp
  refine Dev.onEth_tame (by decide) ?_ ..
  exact Dev.Tame.refl _ _

theorem Dev.ptpMeasured_tame {ps : Nat} {B X : Dev} (hsub : setOf [.free, .seq, .commands, .events, .bbx, .sid, .tick, .eth, .feat 0x01] ||| ps = ps)
    (hbase : Dev.Tame ps B X) (e t1 t2 : Nat) : Dev.Tame ps B (Dev.ptpMeasured X e t1 t2) := by
  refine Dev.Tame.next ?_ hsub hbase
  unfold Dev.ptpMeasured
  dsimp only
  split
  · refine Dev.measure_tame (by decide) ?_ ..
    refine Dev.onPtp_tame (by decide) ?_ ..
    refine Dev.onPtp_tame (by decide) ?_ ..
    exact Dev.Tame.refl _ _
  · refine Dev.onPtp_tame (by decide) ?_ ..
    exact Dev.Tame.refl _ _

theorem Dev.ptpSelect_tame {ps : Nat} {B X : Dev} (hsub : setOf [.eth] ||| ps = ps)
    (hbase : Dev.Tame ps B X) (e : Nat) : Dev.Tame ps B (Dev.ptpSelect X e) := by
  refine Dev.Tame.next ?_ hsub hbase
  unfold Dev.ptpSelect
  dsimp only
  refine Dev.onPtp_tame (by decide) ?_ ..
  exact Dev.Tame.refl _ _

end Sys2Proof.Machine
end

