-- ==== Sys2Proof/Laws/FrameEth.lean ====
section
/-! SUPPORT. What each operation of Machine/Eth.lean may change. -/

namespace Sys2Proof.Machine
open Sys2Proof

theorem Mem.ringWrite_tame {ps : Nat} {B X : Mem} (hsub : setOf [.hostMem] ||| ps = ps)
    (hbase : Mem.Tame ps B X) (base size pos : Nat) (l : List Byte) : Mem.Tame ps B (Mem.ringWrite X base size pos l) := by
  refine Mem.Tame.next ?_ hsub hbase
  unfold Mem.ringWrite
  dsimp only
  refine Mem.hostWrite_tame (by decide) ?_ ..
  refine Mem.hostWrite_tame (by decide) ?_ ..
  exact Mem.Tame.refl _ _

theorem Mach.ringDeliver_tame_dev {ps : Nat} {B : Dev} {X : Mach} (hsub : setOf [.cqs, .msix, .sent] ||| ps = ps)
    (hbase : Dev.Tame ps B X.dev) (q source : Nat) (payload : List Byte) : Dev.Tame ps B (Mach.ringDeliver X q source payload).2.dev := by
  refine Dev.Tame.next ?_ hsub hbase
  unfold Mach.ringDeliver
  split
  · dsimp only
    exact Dev.Tame.refl _ _
  · dsimp only
    split
    · dsimp only
      exact Dev.Tame.refl _ _
    · dsimp only
      refine Dev.cqPosted_tame (by decide) ?_ ..
      exact Dev.Tame.refl _ _

theorem Mach.ringDeliver_tame_mem {ps : Nat} {B : Mem} {X : Mach} (hsub : setOf [.hostMem] ||| ps = ps)
    (hbase : Mem.Tame ps B X.mem) (q source : Nat) (payload : List Byte) : Mem.Tame ps B (Mach.ringDeliver X q source payload).2.mem := by
  refine Mem.Tame.next ?_ hsub hbase
  unfold Mach.ringDeliver
  split
  · dsimp only
    exact Mem.Tame.refl _ _
  · dsimp only
    split
    · dsimp only
      exact Mem.Tame.refl _ _
    · dsimp only
      refine Mem.ringWrite_tame (by decide) ?_ ..
      refine Mem.ringWrite_tame (by decide) ?_ ..
      exact Mem.Tame.refl _ _

theorem Dev.setCtx_tame {ps : Nat} {B X : Dev} (hsub : setOf [.ctxs] ||| ps = ps)
    (hbase : Dev.Tame ps B X) (id : Nat) (c : Option Ctx) : Dev.Tame ps B (Dev.setCtx X id c) := by
  refine Dev.Tame.next ?_ hsub hbase
  unfold Dev.setCtx
  refine Dev.tame_ctxs (by decide) ?_
  exact Dev.Tame.refl _ _

theorem Dev.onQueue_tame {ps : Nat} {B X : Dev} (hsub : setOf [.eth] ||| ps = ps)
    (hbase : Dev.Tame ps B X) (e q : Nat) (f : EthQueue → EthQueue) : Dev.Tame ps B (Dev.onQueue X e q f) := by
  refine Dev.Tame.next ?_ hsub hbase
  unfold Dev.onQueue
  refine Dev.onEth_tame (by decide) ?_ ..
  exact Dev.Tame.refl _ _

theorem Dev.ethEnqueue_tame {ps : Nat} {B X : Dev} (hsub : setOf [.stats, .eth] ||| ps = ps)
    (hbase : Dev.Tame ps B X) (e q : Nat) (u : EthUnit) : Dev.Tame ps B (Dev.ethEnqueue X e q u).2 := by
  refine Dev.Tame.next ?_ hsub hbase
  unfold Dev.ethEnqueue
  dsimp only
  split
  · dsimp only
    refine Dev.count_tame (by decide) ?_ ..
    exact Dev.Tame.refl _ _
  · split
    · dsimp only
      refine Dev.count_tame (by decide) ?_ ..
      exact Dev.Tame.refl _ _
    · split
      · dsimp only
        refine Dev.count_tame (by decide) ?_ ..
        exact Dev.Tame.refl _ _
      · dsimp only
        refine Dev.countMax_tame (by decide) ?_ ..
        refine Dev.onQueue_tame (by decide) ?_ ..
        exact Dev.Tame.refl _ _

theorem Dev.setBucket_tame {ps : Nat} {B X : Dev} (hsub : setOf [.shapers, .policers] ||| ps = ps)
    (hbase : Dev.Tame ps B X) (policer : Bool) (i : Nat) (b : Bucket) : Dev.Tame ps B (Dev.setBucket X policer i b) := by
  refine Dev.Tame.next ?_ hsub hbase
  unfold Dev.setBucket
  refine Dev.tame_ite ?_ ?_
  · refine Dev.tame_policers (by decide) ?_
    exact Dev.Tame.refl _ _
  · refine Dev.tame_shapers (by decide) ?_
    exact Dev.Tame.refl _ _

theorem Dev.resetShaper_tame {ps : Nat} {B X : Dev} (hsub : setOf [.shapers, .policers] ||| ps = ps)
    (hbase : Dev.Tame ps B X) (i : Nat) : Dev.Tame ps B (Dev.resetShaper X i) := by
  refine Dev.Tame.next ?_ hsub hbase
  unfold Dev.resetShaper
  dsimp only
  refine Dev.setBucket_tame (by decide) ?_ ..
  exact Dev.Tame.refl _ _

theorem Dev.refill_tame {ps : Nat} {B X : Dev} (hsub : setOf [.shapers, .policers] ||| ps = ps)
    (hbase : Dev.Tame ps B X) (policer : Bool) (i : Nat) : Dev.Tame ps B (Dev.refill X policer i) := by
  refine Dev.Tame.next ?_ hsub hbase
  unfold Dev.refill
  dsimp only
  refine Dev.setBucket_tame (by decide) ?_ ..
  exact Dev.Tame.refl _ _

theorem Dev.dropUnsendable_tame {ps : Nat} {B X : Dev} (hsub : setOf [.stats, .eth, .feat 0x21] ||| ps = ps)
    (hbase : Dev.Tame ps B X) (e q : Nat) : Dev.Tame ps B (Dev.dropUnsendable X e q) := by
  refine Dev.Tame.next ?_ hsub hbase
  unfold Dev.dropUnsendable
  split
  · exact Dev.Tame.refl _ _
  · dsimp only
    refine Dev.tame_ite ?_ ?_
    · refine Dev.count_tame (by decide) ?_ ..
      refine Dev.bump_tame (by decide) ?_
      refine Dev.onQueue_tame (by decide) ?_ ..
      exact Dev.Tame.refl _ _
    · exact Dev.Tame.refl _ _

theorem Dev.egrServed_tame {ps : Nat} {B X : Dev} (hsub : setOf [.fab] ||| ps = ps)
    (hbase : Dev.Tame ps B X) (egr cls q : Nat) : Dev.Tame ps B (Dev.egrServed X egr cls q) := by
  refine Dev.Tame.next ?_ hsub hbase
  unfold Dev.egrServed
  refine Dev.onFab_tame (by decide) ?_ ..
  exact Dev.Tame.refl _ _

theorem Dev.ethGrant_tame {ps : Nat} {B X : Dev} (hsub : setOf [.stats, .eth, .fab, .feat 0x21] ||| ps = ps)
    (hbase : Dev.Tame ps B X) (e : Nat) : Dev.Tame ps B (Dev.ethGrant X e) := by
  refine Dev.Tame.next ?_ hsub hbase
  unfold Dev.ethGrant
  dsimp only
  refine Dev.tame_ite ?_ ?_
  · refine Dev.tame_foldl ?_ (fun _ _ _ => ?_)
    · exact Dev.Tame.refl _ _
    · refine Dev.dropUnsendable_tame (by decide) ?_ ..
      assumption
  · split
    · refine Dev.tame_foldl ?_ (fun _ _ _ => ?_)
      · exact Dev.Tame.refl _ _
      · refine Dev.dropUnsendable_tame (by decide) ?_ ..
        assumption
    · split
      · refine Dev.tame_foldl ?_ (fun _ _ _ => ?_)
        · exact Dev.Tame.refl _ _
        · refine Dev.dropUnsendable_tame (by decide) ?_ ..
          assumption
      · refine Dev.egrServed_tame (by decide) ?_ ..
        refine Dev.count_tame (by decide) ?_ ..
        refine Dev.onEth_tame (by decide) ?_ ..
        refine Dev.tame_foldl ?_ (fun _ _ _ => ?_)
        · exact Dev.Tame.refl _ _
        · refine Dev.dropUnsendable_tame (by decide) ?_ ..
          assumption

theorem Dev.ethTransmit_tame {ps : Nat} {B X : Dev} (hsub : setOf [.clk, .stats, .sid, .eth, .shapers, .policers, .link, .ctxs, .sent] ||| ps = ps)
    (hbase : Dev.Tame ps B X) (e : Nat) : Dev.Tame ps B (Dev.ethTransmit X e) := by
  refine Dev.Tame.next ?_ hsub hbase
  unfold Dev.ethTransmit
  split
  · exact Dev.Tame.refl _ _
  · dsimp only
    refine Dev.tame_ite ?_ ?_
    · refine Dev.noteCredit_tame (by decide) ?_ ..
      refine Dev.onPort_tame (by decide) ?_ ..
      refine Dev.advance_tame (by decide) ?_ ..
      split
      · dsimp only
        refine Dev.onEth_tame (by decide) ?_ ..
        exact Dev.Tame.refl _ _
      · split
        · dsimp only
          refine Dev.onEth_tame (by decide) ?_ ..
          exact Dev.Tame.refl _ _
        · dsimp only
          refine Dev.tame_ite ?_ ?_
          · refine Dev.setCtx_tame (by decide) ?_ ..
            refine Dev.onEth_tame (by decide) ?_ ..
            exact Dev.Tame.refl _ _
          · refine Dev.setBucket_tame (by decide) ?_ ..
            refine Dev.setCtx_tame (by decide) ?_ ..
            refine Dev.onEth_tame (by decide) ?_ ..
            exact Dev.Tame.refl _ _
    · refine Dev.emit_tame (by decide) ?_ ..
      refine Dev.advance_tame (by decide) ?_ ..
      split
      · dsimp only
        refine Dev.onEth_tame (by decide) ?_ ..
        exact Dev.Tame.refl _ _
      · split
        · dsimp only
          refine Dev.onEth_tame (by decide) ?_ ..
          exact Dev.Tame.refl _ _
        · dsimp only
          refine Dev.tame_ite ?_ ?_
          · refine Dev.setCtx_tame (by decide) ?_ ..
            refine Dev.onEth_tame (by decide) ?_ ..
            exact Dev.Tame.refl _ _
          · refine Dev.setBucket_tame (by decide) ?_ ..
            refine Dev.setCtx_tame (by decide) ?_ ..
            refine Dev.onEth_tame (by decide) ?_ ..
            exact Dev.Tame.refl _ _

theorem Dev.dropLate_tame {ps : Nat} {B X : Dev} (hsub : setOf [.stats, .eth, .feat 0x21] ||| ps = ps)
    (hbase : Dev.Tame ps B X) (e : Nat) : Dev.Tame ps B (Dev.dropLate X e) := by
  refine Dev.Tame.next ?_ hsub hbase
  unfold Dev.dropLate
  refine Dev.tame_foldl ?_ (fun _ _ _ => ?_)
  · exact Dev.Tame.refl _ _
  · dsimp only
    refine Dev.count_tame (by decide) ?_ ..
    refine Dev.bump_tame (by decide) ?_
    refine Dev.onQueue_tame (by decide) ?_ ..
    assumption

theorem Dev.ethExpire_tame {ps : Nat} {B X : Dev} (hsub : setOf [.free, .seq, .stats, .commands, .events, .flt, .twk, .bbx, .eth, .link, .sent, .feat 0x21] ||| ps = ps)
    (hbase : Dev.Tame ps B X) (e : Nat) : Dev.Tame ps B (Dev.ethExpire X e) := by
  refine Dev.Tame.next ?_ hsub hbase
  unfold Dev.ethExpire
  dsimp only
  refine Dev.postEvent_tame (by decide) ?_ ..
  refine Dev.raise_tame (by decide) ?_ ..
  refine Dev.onEth_tame (by decide) ?_ ..
  refine Dev.bump_tame (by decide) ?_
  refine Dev.tame_foldl ?_ (fun _ _ _ => ?_)
  · exact Dev.Tame.refl _ _
  · refine Dev.onQueue_tame (by decide) ?_ ..
    refine Dev.count_tame (by decide) ?_ ..
    assumption

theorem Dev.gclCommit_tame {ps : Nat} {B X : Dev} (hsub : setOf [.eth] ||| ps = ps)
    (hbase : Dev.Tame ps B X) (e : Nat) : Dev.Tame ps B (Dev.gclCommit X e) := by
  refine Dev.Tame.next ?_ hsub hbase
  unfold Dev.gclCommit
  dsimp only
  refine Dev.tame_ite ?_ ?_
  · refine Dev.onEth_tame (by decide) ?_ ..
    exact Dev.Tame.refl _ _
  · exact Dev.Tame.refl _ _

end Sys2Proof.Machine
end

