-- ==== Sys2Proof/Laws/FrameLinkRx.lean ====
section
/-! SUPPORT. What each operation of Machine/LinkRx.lean may change. -/

namespace Sys2Proof.Machine
open Sys2Proof

theorem Dev.replay_tame {ps : Nat} {B X : Dev} (hsub : setOf [.stats, .link, .sent, .feat 0x22] ||| ps = ps)
    (hbase : Dev.Tame ps B X) (p : Nat) : Dev.Tame ps B (Dev.replay X p) := by
  refine Dev.Tame.next ?_ hsub hbase
  unfold Dev.replay
  dsimp only
  refine Dev.tame_ite ?_ ?_
  · exact Dev.Tame.refl _ _
  · refine Dev.tame_foldl ?_ (fun _ _ _ => ?_)
    · refine Dev.count_tame (by decide) ?_ ..
      refine Dev.bump_tame (by decide) ?_
      refine Dev.onPort_tame (by decide) ?_ ..
      exact Dev.Tame.refl _ _
    · refine Dev.wireFlit_tame (by decide) ?_ ..
      assumption

theorem Dev.idleFlit_tame {ps : Nat} {B X : Dev} (hsub : setOf [.stats, .link, .sent] ||| ps = ps)
    (hbase : Dev.Tame ps B X) (p : Nat) : Dev.Tame ps B (Dev.idleFlit X p) := by
  refine Dev.Tame.next ?_ hsub hbase
  unfold Dev.idleFlit
  dsimp only
  refine Dev.wireFlit_tame (by decide) ?_ ..
  exact Dev.Tame.refl _ _

theorem Dev.badFlit_tame {ps : Nat} {B X : Dev} (hsub : setOf [.stats, .link, .sent, .feat 0x22] ||| ps = ps)
    (hbase : Dev.Tame ps B X) (p : Nat) : Dev.Tame ps B (Dev.badFlit X p) := by
  refine Dev.Tame.next ?_ hsub hbase
  unfold Dev.badFlit
  dsimp only
  refine Dev.tame_ite ?_ ?_
  · refine Dev.idleFlit_tame (by decide) ?_ ..
    refine Dev.onPort_tame (by decide) ?_ ..
    refine Dev.count_tame (by decide) ?_ ..
    refine Dev.bump_tame (by decide) ?_
    exact Dev.Tame.refl _ _
  · refine Dev.onPort_tame (by decide) ?_ ..
    refine Dev.count_tame (by decide) ?_ ..
    refine Dev.bump_tame (by decide) ?_
    exact Dev.Tame.refl _ _

theorem Dev.oweCredit_tame {ps : Nat} {B X : Dev} (hsub : setOf [.link] ||| ps = ps)
    (hbase : Dev.Tame ps B X) (p pool : Nat) : Dev.Tame ps B (Dev.oweCredit X p pool) := by
  refine Dev.Tame.next ?_ hsub hbase
  unfold Dev.oweCredit
  refine Dev.onPort_tame (by decide) ?_ ..
  exact Dev.Tame.refl _ _

theorem Dev.keepMsg_tame {ps : Nat} {B X : Dev} (hsub : setOf [.stats, .link, .feat 0x22] ||| ps = ps)
    (hbase : Dev.Tame ps B X) (p src : Nat) (bytes : List Byte) : Dev.Tame ps B (Dev.keepMsg X p src bytes) := by
  refine Dev.Tame.next ?_ hsub hbase
  unfold Dev.keepMsg
  dsimp only
  refine Dev.tame_ite ?_ ?_
  · refine Dev.bump_tame (by decide) ?_
    refine Dev.count_tame (by decide) ?_ ..
    exact Dev.Tame.refl _ _
  · refine Dev.onLink_tame (by decide) ?_ ..
    refine Dev.count_tame (by decide) ?_ ..
    exact Dev.Tame.refl _ _

theorem Dev.keepCtrl_tame {ps : Nat} {B X : Dev} (hsub : setOf [.stats, .link, .feat 0x22] ||| ps = ps)
    (hbase : Dev.Tame ps B X) (p : Nat) (f : Flit) : Dev.Tame ps B (Dev.keepCtrl X p f) := by
  refine Dev.Tame.next ?_ hsub hbase
  unfold Dev.keepCtrl
  dsimp only
  refine Dev.tame_ite ?_ ?_
  · refine Dev.keepMsg_tame (by decide) ?_ ..
    exact Dev.Tame.refl _ _
  · refine Dev.tame_ite ?_ ?_
    · refine Dev.keepMsg_tame (by decide) ?_ ..
      refine Dev.onPort_tame (by decide) ?_ ..
      exact Dev.Tame.refl _ _
    · refine Dev.onPort_tame (by decide) ?_ ..
      exact Dev.Tame.refl _ _

theorem Dev.keepCell_tame {ps : Nat} {B X : Dev} (hsub : setOf [.stats, .eth, .link] ||| ps = ps)
    (hbase : Dev.Tame ps B X) (f : Flit) : Dev.Tame ps B (Dev.keepCell X f) := by
  refine Dev.Tame.next ?_ hsub hbase
  unfold Dev.keepCell
  refine Dev.tame_ite ?_ ?_
  · dsimp only
    refine Dev.tame_ite ?_ ?_
    · refine Dev.ethEnqueue_tame (by decide) ?_ ..
      refine Dev.onLink_tame (by decide) ?_ ..
      exact Dev.Tame.refl _ _
    · refine Dev.onLink_tame (by decide) ?_ ..
      exact Dev.Tame.refl _ _
  · exact Dev.Tame.refl _ _

theorem Dev.forwardOn_tame {ps : Nat} {B X : Dev} (hsub : setOf [.stats, .link, .sent] ||| ps = ps)
    (hbase : Dev.Tame ps B X) (q : Nat) (f : Flit) : Dev.Tame ps B (Dev.forwardOn X q f) := by
  refine Dev.Tame.next ?_ hsub hbase
  unfold Dev.forwardOn
  refine Dev.tame_ite ?_ ?_
  · exact Dev.Tame.refl _ _
  · refine Dev.tame_ite ?_ ?_
    · refine Dev.noteCredit_tame (by decide) ?_ ..
      refine Dev.onPort_tame (by decide) ?_ ..
      exact Dev.Tame.refl _ _
    · dsimp only
      refine Dev.pumpLink_tame (by decide) ?_ ..
      refine Dev.onPort_tame (by decide) ?_ ..
      exact Dev.Tame.refl _ _

theorem Dev.copyDown_tame {ps : Nat} {B X : Dev} (hsub : setOf [.stats, .link, .sent] ||| ps = ps)
    (hbase : Dev.Tame ps B X) (f : Flit) : Dev.Tame ps B (Dev.copyDown X f) := by
  refine Dev.Tame.next ?_ hsub hbase
  unfold Dev.copyDown
  refine Dev.tame_foldl ?_ (fun _ _ _ => ?_)
  · exact Dev.Tame.refl _ _
  · refine Dev.tame_ite ?_ ?_
    · refine Dev.forwardOn_tame (by decide) ?_ ..
      assumption
    · assumption

theorem Dev.deliver_tame {ps : Nat} {B X : Dev} (hsub : setOf [.stats, .eth, .link, .sent, .feat 0x22] ||| ps = ps)
    (hbase : Dev.Tame ps B X) (p : Nat) (f : Flit) : Dev.Tame ps B (Dev.deliver X p f) := by
  refine Dev.Tame.next ?_ hsub hbase
  unfold Dev.deliver
  dsimp only
  refine Dev.tame_ite ?_ ?_
  · refine Dev.keepCtrl_tame (by decide) ?_ ..
    exact Dev.Tame.refl _ _
  · refine Dev.tame_ite ?_ ?_
    · refine Dev.copyDown_tame (by decide) ?_ ..
      refine Dev.keepCtrl_tame (by decide) ?_ ..
      exact Dev.Tame.refl _ _
    · refine Dev.tame_ite ?_ ?_
      · refine Dev.keepCell_tame (by decide) ?_ ..
        exact Dev.Tame.refl _ _
      · split
        · refine Dev.forwardOn_tame (by decide) ?_ ..
          exact Dev.Tame.refl _ _
        · refine Dev.bump_tame (by decide) ?_
          exact Dev.Tame.refl _ _

theorem Dev.flitUp_tame {ps : Nat} {B X : Dev} (hsub : setOf [.stats, .eth, .link, .sent, .feat 0x22] ||| ps = ps)
    (hbase : Dev.Tame ps B X) (p : Nat) (x : RxFlit) : Dev.Tame ps B (Dev.flitUp X p x) := by
  refine Dev.Tame.next ?_ hsub hbase
  unfold Dev.flitUp
  dsimp only
  refine Dev.tame_ite ?_ ?_
  · refine Dev.badFlit_tame (by decide) ?_ ..
    exact Dev.Tame.refl _ _
  · refine Dev.pumpLink_tame (by decide) ?_ ..
    refine Dev.tame_ite ?_ ?_
    · refine Dev.idleFlit_tame (by decide) ?_ ..
      refine Dev.deliver_tame (by decide) ?_ ..
      refine Dev.oweCredit_tame (by decide) ?_ ..
      refine Dev.tame_ite ?_ ?_
      · refine Dev.count_tame (by decide) ?_ ..
        refine Dev.onPort_tame (by decide) ?_ ..
        refine Dev.tame_ite ?_ ?_
        · refine Dev.replay_tame (by decide) ?_ ..
          refine Dev.count_tame (by decide) ?_ ..
          refine Dev.onPort_tame (by decide) ?_ ..
          exact Dev.Tame.refl _ _
        · refine Dev.count_tame (by decide) ?_ ..
          refine Dev.onPort_tame (by decide) ?_ ..
          exact Dev.Tame.refl _ _
      · refine Dev.onPort_tame (by decide) ?_ ..
        refine Dev.tame_ite ?_ ?_
        · refine Dev.replay_tame (by decide) ?_ ..
          refine Dev.count_tame (by decide) ?_ ..
          refine Dev.onPort_tame (by decide) ?_ ..
          exact Dev.Tame.refl _ _
        · refine Dev.count_tame (by decide) ?_ ..
          refine Dev.onPort_tame (by decide) ?_ ..
          exact Dev.Tame.refl _ _
    · refine Dev.tame_ite ?_ ?_
      · refine Dev.onLink_tame (by decide) ?_ ..
        refine Dev.tame_ite ?_ ?_
        · refine Dev.replay_tame (by decide) ?_ ..
          refine Dev.count_tame (by decide) ?_ ..
          refine Dev.onPort_tame (by decide) ?_ ..
          exact Dev.Tame.refl _ _
        · refine Dev.count_tame (by decide) ?_ ..
          refine Dev.onPort_tame (by decide) ?_ ..
          exact Dev.Tame.refl _ _
      · refine Dev.tame_ite ?_ ?_
        · refine Dev.replay_tame (by decide) ?_ ..
          refine Dev.count_tame (by decide) ?_ ..
          refine Dev.onPort_tame (by decide) ?_ ..
          exact Dev.Tame.refl _ _
        · refine Dev.count_tame (by decide) ?_ ..
          refine Dev.onPort_tame (by decide) ?_ ..
          exact Dev.Tame.refl _ _

theorem Dev.linkExpire_tame {ps : Nat} {B X : Dev} (hsub : setOf [.free, .seq, .stats, .commands, .events, .flt, .twk, .bbx, .link, .sent, .feat 0x22] ||| ps = ps)
    (hbase : Dev.Tame ps B X) (p : Nat) : Dev.Tame ps B (Dev.linkExpire X p) := by
  refine Dev.Tame.next ?_ hsub hbase
  unfold Dev.linkExpire
  dsimp only
  refine Dev.postEvent_tame (by decide) ?_ ..
  refine Dev.raise_tame (by decide) ?_ ..
  refine Dev.onLink_tame (by decide) ?_ ..
  refine Dev.onPort_tame (by decide) ?_ ..
  refine Dev.count_tame (by decide) ?_ ..
  refine Dev.bump_tame (by decide) ?_
  exact Dev.Tame.refl _ _

theorem Dev.linkHold_tame {ps : Nat} {B X : Dev} (hsub : setOf [.free, .seq, .stats, .commands, .events, .flt, .twk, .bbx, .link, .sent, .feat 0x22] ||| ps = ps)
    (hbase : Dev.Tame ps B X) (p lanes : Nat) : Dev.Tame ps B (Dev.linkHold X p lanes) := by
  refine Dev.Tame.next ?_ hsub hbase
  unfold Dev.linkHold
  dsimp only
  refine Dev.tame_ite ?_ ?_
  · refine Dev.linkExpire_tame (by decide) ?_ ..
    refine Dev.raise_tame (by decide) ?_ ..
    refine Dev.onPort_tame (by decide) ?_ ..
    exact Dev.Tame.refl _ _
  · refine Dev.raise_tame (by decide) ?_ ..
    refine Dev.onPort_tame (by decide) ?_ ..
    exact Dev.Tame.refl _ _

theorem Dev.linkOff_tame {ps : Nat} {B X : Dev} (hsub : setOf [.free, .seq, .stats, .commands, .events, .flt, .twk, .bbx, .link, .sent, .feat 0x22] ||| ps = ps)
    (hbase : Dev.Tame ps B X) (p : Nat) : Dev.Tame ps B (Dev.linkOff X p) := by
  refine Dev.Tame.next ?_ hsub hbase
  unfold Dev.linkOff
  dsimp only
  refine Dev.onPort_tame (by decide) ?_ ..
  refine Dev.tame_ite ?_ ?_
  · refine Dev.linkExpire_tame (by decide) ?_ ..
    exact Dev.Tame.refl _ _
  · exact Dev.Tame.refl _ _

theorem Dev.linkTrain_tame {ps : Nat} {B X : Dev} (hsub : setOf [.link] ||| ps = ps)
    (hbase : Dev.Tame ps B X) (p : Nat) : Dev.Tame ps B (Dev.linkTrain X p) := by
  refine Dev.Tame.next ?_ hsub hbase
  unfold Dev.linkTrain
  refine Dev.tame_ite ?_ ?_
  · refine Dev.onPort_tame (by decide) ?_ ..
    exact Dev.Tame.refl _ _
  · exact Dev.Tame.refl _ _

theorem onMsg_tame {ps : Nat} {B X : Dev} {p code : Nat} {f : LinkMsg → Dev → Dev} (hsub : setOf [.link] ||| ps = ps)
    (h : ∀ x e, Dev.Tame ps B e → Dev.Tame ps B (f x e)) (g : Dev.Tame ps B X) : Dev.Tame ps B (onMsg p code f X) := by
  unfold onMsg
  split
  · exact g
  · exact h _ _ (Dev.onLink_tame hsub g _)

theorem Dev.sendState_tame {ps : Nat} {B X : Dev} (hsub : setOf [.stats, .link, .sent] ||| ps = ps)
    (hbase : Dev.Tame ps B X) : Dev.Tame ps B (Dev.sendState X) := by
  refine Dev.Tame.next ?_ hsub hbase
  unfold Dev.sendState
  refine Dev.tame_ite ?_ ?_
  · refine Dev.sendMsg_tame (by decide) ?_ ..
    exact Dev.Tame.refl _ _
  · exact Dev.Tame.refl _ _

theorem Dev.sendSeverity_tame {ps : Nat} {B X : Dev} (hsub : setOf [.stats, .link, .sent] ||| ps = ps)
    (hbase : Dev.Tame ps B X) (dest token : Nat) (t : List Nat) : Dev.Tame ps B (Dev.sendSeverity X dest token t) := by
  refine Dev.Tame.next ?_ hsub hbase
  unfold Dev.sendSeverity
  refine Dev.sendMsg_tame (by decide) ?_ ..
  exact Dev.Tame.refl _ _

theorem Dev.readmit_tame {ps : Nat} {B X : Dev} (hsub : setOf [.stats, .link, .sent] ||| ps = ps)
    (hbase : Dev.Tame ps B X) (p : Nat) : Dev.Tame ps B (Dev.readmit X p) := by
  refine Dev.Tame.next ?_ hsub hbase
  unfold Dev.readmit
  dsimp only
  refine Dev.tame_foldl ?_ (fun _ _ _ => ?_)
  · refine Dev.onLink_tame (by decide) ?_ ..
    exact Dev.Tame.refl _ _
  · split
    · refine Dev.sendSeverity_tame (by decide) ?_ ..
      refine Dev.sendMsg_tame (by decide) ?_ ..
      assumption
    · refine Dev.sendMsg_tame (by decide) ?_ ..
      assumption

theorem Dev.linkUp_tame {ps : Nat} {B X : Dev} (hsub : setOf [.seq, .stats, .commands, .events, .link, .sent, .feat 0x22] ||| ps = ps)
    (hbase : Dev.Tame ps B X) (p : Nat) (back : Bool) (rxNext : Nat) : Dev.Tame ps B (Dev.linkUp X p back rxNext) := by
  refine Dev.Tame.next ?_ hsub hbase
  unfold Dev.linkUp
  refine Dev.tame_ite ?_ ?_
  · dsimp only
    refine Dev.pumpLink_tame (by decide) ?_ ..
    refine Dev.tame_foldl ?_ (fun _ _ _ => ?_)
    · refine Dev.count_tame (by decide) ?_ ..
      refine Dev.bump_tame (by decide) ?_
      refine Dev.onPort_tame (by decide) ?_ ..
      exact Dev.Tame.refl _ _
    · refine Dev.wireFlit_tame (by decide) ?_ ..
      assumption
  · dsimp only
    refine Dev.tame_ite ?_ ?_
    · refine Dev.readmit_tame (by decide) ?_ ..
      refine Dev.tame_ite ?_ ?_
      · refine Dev.postEvent_tame (by decide) ?_ ..
        refine Dev.onPort_tame (by decide) ?_ ..
        exact Dev.Tame.refl _ _
      · refine Dev.onPort_tame (by decide) ?_ ..
        exact Dev.Tame.refl _ _
    · refine Dev.tame_ite ?_ ?_
      · refine Dev.postEvent_tame (by decide) ?_ ..
        refine Dev.onPort_tame (by decide) ?_ ..
        exact Dev.Tame.refl _ _
      · refine Dev.onPort_tame (by decide) ?_ ..
        exact Dev.Tame.refl _ _

end Sys2Proof.Machine
end

