-- ==== Sys2Proof/Laws/FrameLink.lean ====
section
/-! SUPPORT. What each operation of Machine/Link.lean may change. -/

namespace Sys2Proof.Machine
open Sys2Proof

theorem Dev.enumNextPort_tame {ps : Nat} {B X Y : Dev} {k : Nat} (hsub : setOf [.stats, .link, .sent] ||| ps = ps)
    (g : Dev.Tame ps B X) (h : X.enumNextPort k = some Y) : Dev.Tame ps B Y := by
  unfold Dev.enumNextPort at h
  split at h
  · exact absurd h (by simp)
  · obtain ⟨p, _, rfl⟩ := Option.map_eq_some_iff.1 h
    refine Dev.Tame.next ?_ hsub g
    refine Dev.queueMsg_tame (by decide) ?_ ..
    refine Dev.onLink_tame (by decide) ?_ ..
    refine Dev.onPort_tame (by decide) ?_ ..
    exact Dev.Tame.refl _ _

theorem Mach.enumFinish_tame_dev {ps : Nat} {B : Dev} {X : Mach} (hsub : setOf [.seq, .stats, .commands, .errorLog, .link, .sent] ||| ps = ps)
    (hbase : Dev.Tame ps B X.dev) : Dev.Tame ps B (Mach.enumFinish X).dev := by
  refine Dev.Tame.next ?_ hsub hbase
  unfold Mach.enumFinish
  dsimp only
  refine Mach.tame_ite_dev ?_ ?_
  · dsimp only
    refine Dev.queueMsg_tame (by decide) ?_ ..
    refine Dev.onLink_tame (by decide) ?_ ..
    exact Dev.Tame.refl _ _
  · split
    · dsimp only
      refine Dev.onLink_tame (by decide) ?_ ..
      refine Dev.onLink_tame (by decide) ?_ ..
      exact Dev.Tame.refl _ _
    · split
      · dsimp only
        refine Dev.onLink_tame (by decide) ?_ ..
        refine Dev.onLink_tame (by decide) ?_ ..
        exact Dev.Tame.refl _ _
      · refine Mach.tame_ite_dev ?_ ?_
        · dsimp only
          refine Dev.complete_tame (by decide) ?_ ..
          refine Dev.onLink_tame (by decide) ?_ ..
          refine Dev.onLink_tame (by decide) ?_ ..
          exact Dev.Tame.refl _ _
        · dsimp only
          refine Dev.complete_tame (by decide) ?_ ..
          refine Dev.onLink_tame (by decide) ?_ ..
          refine Dev.onLink_tame (by decide) ?_ ..
          exact Dev.Tame.refl _ _

theorem Mach.enumFinish_tame_mem {ps : Nat} {B : Mem} {X : Mach} (hsub : setOf [.hostMem] ||| ps = ps)
    (hbase : Mem.Tame ps B X.mem) : Mem.Tame ps B (Mach.enumFinish X).mem := by
  refine Mem.Tame.next ?_ hsub hbase
  unfold Mach.enumFinish
  dsimp only
  refine Mach.tame_ite_mem ?_ ?_
  · dsimp only
    exact Mem.Tame.refl _ _
  · split
    · dsimp only
      exact Mem.Tame.refl _ _
    · split
      · dsimp only
        exact Mem.Tame.refl _ _
      · refine Mach.tame_ite_mem ?_ ?_
        · dsimp only
          refine Mem.dataOut_tame (by decide) ?_ ..
          exact Mem.Tame.refl _ _
        · dsimp only
          exact Mem.Tame.refl _ _

theorem Mach.enumGo_tame_dev {ps : Nat} {B : Dev} {X : Mach} (hsub : setOf [.seq, .stats, .commands, .errorLog, .link, .sent] ||| ps = ps)
    (hbase : Dev.Tame ps B X.dev) (from_ : Nat) : Dev.Tame ps B (Mach.enumGo X from_).dev := by
  refine Dev.Tame.next ?_ hsub hbase
  unfold Mach.enumGo
  split
  · dsimp only
    refine Dev.enumNextPort_tame (by decide) ?_ (by assumption)
    exact Dev.Tame.refl _ _
  · refine Mach.enumFinish_tame_dev (by decide) ?_ ..
    exact Dev.Tame.refl _ _

theorem Mach.enumGo_tame_mem {ps : Nat} {B : Mem} {X : Mach} (hsub : setOf [.hostMem] ||| ps = ps)
    (hbase : Mem.Tame ps B X.mem) (from_ : Nat) : Mem.Tame ps B (Mach.enumGo X from_).mem := by
  refine Mem.Tame.next ?_ hsub hbase
  unfold Mach.enumGo
  split
  · dsimp only
    exact Mem.Tame.refl _ _
  · refine Mach.enumFinish_tame_mem (by decide) ?_ ..
    exact Mem.Tame.refl _ _

theorem Dev.askRelay_tame {ps : Nat} {B X : Dev} (hsub : setOf [.stats, .link, .sent] ||| ps = ps)
    (hbase : Dev.Tame ps B X) (e : Nat) (en : Bool) (rate : Nat) : Dev.Tame ps B (Dev.askRelay X e en rate) := by
  refine Dev.Tame.next ?_ hsub hbase
  unfold Dev.askRelay
  refine Dev.sendMsg_tame (by decide) ?_ ..
  exact Dev.Tame.refl _ _

theorem Dev.readmitted_tame {ps : Nat} {B X : Dev} (hsub : setOf [.stats, .link, .sent] ||| ps = ps)
    (hbase : Dev.Tame ps B X) : Dev.Tame ps B (Dev.readmitted X) := by
  refine Dev.Tame.next ?_ hsub hbase
  unfold Dev.readmitted
  dsimp only
  split
  · refine Dev.onLink_tame (by decide) ?_ ..
    refine Dev.sendMsg_tame (by decide) ?_ ..
    refine Dev.tame_foldl ?_ (fun _ _ _ => ?_)
    · refine Dev.sendState_tame (by decide) ?_ ..
      exact Dev.Tame.refl _ _
    · refine Dev.tame_ite ?_ ?_
      · refine Dev.askRelay_tame (by decide) ?_ ..
        assumption
      · assumption
  · refine Dev.tame_foldl ?_ (fun _ _ _ => ?_)
    · refine Dev.sendState_tame (by decide) ?_ ..
      exact Dev.Tame.refl _ _
    · refine Dev.tame_ite ?_ ?_
      · refine Dev.askRelay_tame (by decide) ?_ ..
        assumption
      · assumption

theorem Dev.severityEnd_tame {ps : Nat} {B X : Dev} (hsub : setOf [.seq, .commands, .errorLog, .link] ||| ps = ps)
    (hbase : Dev.Tame ps B X) : Dev.Tame ps B (Dev.severityEnd X) := by
  refine Dev.Tame.next ?_ hsub hbase
  unfold Dev.severityEnd
  split
  · exact Dev.Tame.refl _ _
  · dsimp only
    refine Dev.tame_ite ?_ ?_
    · refine Dev.complete_tame (by decide) ?_ ..
      refine Dev.onLink_tame (by decide) ?_ ..
      exact Dev.Tame.refl _ _
    · refine Dev.complete_tame (by decide) ?_ ..
      refine Dev.onLink_tame (by decide) ?_ ..
      exact Dev.Tame.refl _ _

theorem Dev.relayWrite_tame {ps : Nat} {B X : Dev} (hsub : setOf [.seq, .stats, .commands, .errorLog, .link, .sent, .feat 0x22] ||| ps = ps)
    (hbase : Dev.Tame ps B X) (e v : Nat) (c : Option (Nat × Nat)) : Dev.Tame ps B (Dev.relayWrite X e v c).2 := by
  refine Dev.Tame.next ?_ hsub hbase
  unfold Dev.relayWrite
  dsimp only
  split
  · split
    · dsimp only
      refine Dev.tame_withSome ?_ (fun _ => ?_)
      · exact Dev.Tame.refl _ _
      · refine Dev.complete_tame (by decide) ?_ ..
        exact Dev.Tame.refl _ _
    · dsimp only
      refine Dev.onLink_tame (by decide) ?_ ..
      refine Dev.askRelay_tame (by decide) ?_ ..
      refine Dev.setReg_tame (by decide) ?_
      exact Dev.Tame.refl _ _
  · dsimp only
    refine Dev.askRelay_tame (by decide) ?_ ..
    refine Dev.setReg_tame (by decide) ?_
    exact Dev.Tame.refl _ _

theorem Dev.timeFlit_tame {ps : Nat} {B X : Dev} (hsub : setOf [.stats, .link, .sent] ||| ps = ps)
    (hbase : Dev.Tame ps B X) (p kind t : Nat) : Dev.Tame ps B (Dev.timeFlit X p kind t) := by
  refine Dev.Tame.next ?_ hsub hbase
  unfold Dev.timeFlit
  refine Dev.wireFlit_tame (by decide) ?_ ..
  exact Dev.Tame.refl _ _

end Sys2Proof.Machine
end

