-- ==== Sys2Proof/Laws/FramePools.lean ====
section
/-! SUPPORT. What each operation of Machine/Pools.lean may change. -/

namespace Sys2Proof.Machine
open Sys2Proof

theorem Dev.poolError_tame {ps : Nat} {B X : Dev} (hsub : setOf [.pools, .feat 0x1B] ||| ps = ps)
    (hbase : Dev.Tame ps B X) (p code port owner idx : Nat) : Dev.Tame ps B (Dev.poolError X p code port owner idx) := by
  refine Dev.Tame.next ?_ hsub hbase
  unfold Dev.poolError
  dsimp only
  refine Dev.onPool_tame (by decide) ?_ ..
  refine Dev.setBit_tame (by decide) ?_
  exact Dev.Tame.refl _ _

theorem Dev.poolGrant_tame {ps : Nat} {B X : Dev} (hsub : setOf [.free, .seq, .stats, .commands, .events, .flt, .twk, .bbx, .link, .pools, .sent, .feat 0x1B] ||| ps = ps)
    (hbase : Dev.Tame ps B X) (p cls owner port refs : Nat) : Dev.Tame ps B (Dev.poolGrant X p cls owner port refs).2 := by
  refine Dev.Tame.next ?_ hsub hbase
  unfold Dev.poolGrant
  dsimp only
  split
  · split
    · dsimp only
      refine Dev.countMax_tame (by decide) ?_ ..
      refine Dev.tame_ite ?_ ?_
      · refine Dev.count_tame (by decide) ?_ ..
        refine Dev.count_tame (by decide) ?_ ..
        refine Dev.onPools_tame (by decide) ?_ ..
        refine Dev.setBuf_tame (by decide) ?_ ..
        exact Dev.Tame.refl _ _
      · refine Dev.count_tame (by decide) ?_ ..
        refine Dev.onPools_tame (by decide) ?_ ..
        refine Dev.setBuf_tame (by decide) ?_ ..
        exact Dev.Tame.refl _ _
    · dsimp only
      refine Dev.raise_tame (by decide) ?_ ..
      refine Dev.afterDraw_tame (by decide) ?_ ..
      refine Dev.poolError_tame (by decide) ?_ ..
      exact Dev.Tame.refl _ _
  · split
    · dsimp only
      refine Dev.countMax_tame (by decide) ?_ ..
      refine Dev.tame_ite ?_ ?_
      · refine Dev.count_tame (by decide) ?_ ..
        refine Dev.count_tame (by decide) ?_ ..
        refine Dev.onPools_tame (by decide) ?_ ..
        refine Dev.setBuf_tame (by decide) ?_ ..
        exact Dev.Tame.refl _ _
      · refine Dev.count_tame (by decide) ?_ ..
        refine Dev.onPools_tame (by decide) ?_ ..
        refine Dev.setBuf_tame (by decide) ?_ ..
        exact Dev.Tame.refl _ _
    · dsimp only
      refine Dev.count_tame (by decide) ?_ ..
      exact Dev.Tame.refl _ _

theorem Dev.badPool_tame {ps : Nat} {B X : Dev} (hsub : setOf [.free] ||| ps = ps)
    (hbase : Dev.Tame ps B X) (a : Nat) : Dev.Tame ps B (Dev.badPool X a).2 := by
  refine Dev.Tame.next ?_ hsub hbase
  unfold Dev.badPool
  split
  · dsimp only
    exact Dev.Tame.refl _ _
  · dsimp only
    refine Dev.afterDraw_tame (by decide) ?_ ..
    exact Dev.Tame.refl _ _

theorem Dev.badPointer_tame {ps : Nat} {B X : Dev} (hsub : setOf [.free, .seq, .stats, .commands, .events, .flt, .twk, .bbx, .link, .pools, .sent, .feat 0x1B] ||| ps = ps)
    (hbase : Dev.Tame ps B X) (a owner port : Nat) : Dev.Tame ps B (Dev.badPointer X a owner port) := by
  refine Dev.Tame.next ?_ hsub hbase
  unfold Dev.badPointer
  split
  dsimp only
  refine Dev.raise_tame (by decide) ?_ ..
  refine Dev.count_tame (by decide) ?_ ..
  refine Dev.poolError_tame (by decide) ?_ ..
  refine Dev.Tame.of_snd (by assumption) ?_
  refine Dev.badPool_tame (by decide) ?_ ..
  exact Dev.Tame.refl _ _

theorem Dev.touch_tame {ps : Nat} {B X : Dev} (hsub : setOf [.pools] ||| ps = ps)
    (hbase : Dev.Tame ps B X) (a : Nat) : Dev.Tame ps B (Dev.touch X a) := by
  refine Dev.Tame.next ?_ hsub hbase
  unfold Dev.touch
  split
  · exact Dev.Tame.refl _ _
  · split
    · exact Dev.Tame.refl _ _
    · refine Dev.setBuf_tame (by decide) ?_ ..
      exact Dev.Tame.refl _ _

theorem Dev.copyDone_tame {ps : Nat} {B X : Dev} (hsub : setOf [.pools] ||| ps = ps)
    (hbase : Dev.Tame ps B X) (p i : Nat) : Dev.Tame ps B (Dev.copyDone X p i) := by
  refine Dev.Tame.next ?_ hsub hbase
  unfold Dev.copyDone
  split
  · exact Dev.Tame.refl _ _
  · refine Dev.tame_ite ?_ ?_
    · refine Dev.setBuf_tame (by decide) ?_ ..
      exact Dev.Tame.refl _ _
    · refine Dev.setBuf_tame (by decide) ?_ ..
      exact Dev.Tame.refl _ _

theorem Dev.auditReport_tame {ps : Nat} {B X : Dev} (hsub : setOf [.seq, .logs, .pools, .feat 0x1B] ||| ps = ps)
    (hbase : Dev.Tame ps B X) (p i : Nat) (b : Buf) : Dev.Tame ps B (Dev.auditReport X p i b) := by
  refine Dev.Tame.next ?_ hsub hbase
  unfold Dev.auditReport
  dsimp only
  refine Dev.setBuf_tame (by decide) ?_ ..
  refine Dev.bump_tame (by decide) ?_
  refine Dev.stamped_tame (by decide) ?_ ..
  refine Dev.tame_onHost ?_ ?_
  · exact HostIf.Same.mk
      (.inr ⟨rfl, rfl⟩)
      (.inr rfl)
      (.inr rfl)
      (.inr ⟨rfl, rfl, rfl, rfl⟩)
      (.inr ⟨rfl, rfl, rfl, rfl, rfl, rfl⟩)
      (.inr ⟨rfl, rfl, rfl, rfl, rfl⟩)
      (.inr ⟨rfl, rfl, rfl, rfl⟩)
      (.inr rfl)
      (.inl (by decide))
      (.inr rfl)
      (.inr ⟨rfl, rfl, rfl, rfl⟩)
      (.inr rfl)
  · exact Dev.Tame.refl _ _

end Sys2Proof.Machine
end

