-- ==== Sys2Proof/Laws/FramePrism.lean ====
section
/-! SUPPORT. What each operation of Machine/Prism.lean may change. -/

namespace Sys2Proof.Machine
open Sys2Proof

theorem Dev.onLane_tame {ps : Nat} {B X : Dev} (hsub : setOf [.prism] ||| ps = ps)
    (hbase : Dev.Tame ps B X) (i : Nat) (f : Lane → Lane) : Dev.Tame ps B (Dev.onLane X i f) := by
  refine Dev.Tame.next ?_ hsub hbase
  unfold Dev.onLane
  refine Dev.onPrism_tame (by decide) ?_ ..
  exact Dev.Tame.refl _ _

theorem Dev.onGroup_tame {ps : Nat} {B X : Dev} (hsub : setOf [.prism] ||| ps = ps)
    (hbase : Dev.Tame ps B X) (g : Nat) (f : Group → Group) : Dev.Tame ps B (Dev.onGroup X g f) := by
  refine Dev.Tame.next ?_ hsub hbase
  unfold Dev.onGroup
  refine Dev.onPrism_tame (by decide) ?_ ..
  exact Dev.Tame.refl _ _

theorem Dev.prmEvent_tame {ps : Nat} {B X : Dev} (hsub : setOf [.free, .seq, .stats, .commands, .events, .flt, .twk, .bbx, .link, .sent, .feat 0x10] ||| ps = ps)
    (hbase : Dev.Tame ps B X) (j input detail : Nat) (n : Nat) : Dev.Tame ps B (Dev.prmEvent X j input detail n) := by
  refine Dev.Tame.next ?_ hsub hbase
  unfold Dev.prmEvent
  refine Dev.raise_tame (by decide) ?_ ..
  refine Dev.setBit_tame (by decide) ?_
  refine Dev.bump_tame (by decide) ?_
  exact Dev.Tame.refl _ _

theorem Dev.misalign_tame {ps : Nat} {B X : Dev} (hsub : setOf [.prism] ||| ps = ps)
    (hbase : Dev.Tame ps B X) (g : Nat) : Dev.Tame ps B (Dev.misalign X g) := by
  refine Dev.Tame.next ?_ hsub hbase
  unfold Dev.misalign
  dsimp only
  refine Dev.onPrism_tame (by decide) ?_ ..
  refine Dev.onGroup_tame (by decide) ?_ ..
  refine Dev.tame_foldl ?_ (fun _ _ _ => ?_)
  · exact Dev.Tame.refl _ _
  · refine Dev.onLane_tame (by decide) ?_ ..
    assumption

theorem Dev.laneHeader_tame {ps : Nat} {B X : Dev} (hsub : setOf [.free, .seq, .stats, .commands, .events, .flt, .twk, .bbx, .link, .prism, .sent, .feat 0x10] ||| ps = ps)
    (hbase : Dev.Tame ps B X) (i : Nat) (valid : Bool) : Dev.Tame ps B (Dev.laneHeader X i valid) := by
  refine Dev.Tame.next ?_ hsub hbase
  unfold Dev.laneHeader
  dsimp only
  refine Dev.tame_ite ?_ ?_
  · refine Dev.tame_ite ?_ ?_
    · refine Dev.prmEvent_tame (by decide) ?_ ..
      refine Dev.misalign_tame (by decide) ?_ ..
      refine Dev.onLane_tame (by decide) ?_ ..
      exact Dev.Tame.refl _ _
    · refine Dev.onLane_tame (by decide) ?_ ..
      exact Dev.Tame.refl _ _
  · refine Dev.onLane_tame (by decide) ?_ ..
    exact Dev.Tame.refl _ _

theorem Dev.dropCtl_tame {ps : Nat} {B X : Dev} (hsub : setOf [.prism] ||| ps = ps)
    (hbase : Dev.Tame ps B X) (i : Nat) : Dev.Tame ps B (Dev.dropCtl X i) := by
  refine Dev.Tame.next ?_ hsub hbase
  unfold Dev.dropCtl
  refine Dev.onLane_tame (by decide) ?_ ..
  exact Dev.Tame.refl _ _

theorem Dev.skewError_tame {ps : Nat} {B X : Dev} (hsub : setOf [.free, .seq, .stats, .commands, .events, .flt, .twk, .bbx, .link, .prism, .sent, .feat 0x10] ||| ps = ps)
    (hbase : Dev.Tame ps B X) (g last : Nat) : Dev.Tame ps B (Dev.skewError X g last) := by
  refine Dev.Tame.next ?_ hsub hbase
  unfold Dev.skewError
  dsimp only
  refine Dev.prmEvent_tame (by decide) ?_ ..
  refine Dev.tame_foldl ?_ (fun _ _ _ => ?_)
  · refine Dev.onGroup_tame (by decide) ?_ ..
    refine Dev.misalign_tame (by decide) ?_ ..
    exact Dev.Tame.refl _ _
  · refine Dev.onLane_tame (by decide) ?_ ..
    assumption

theorem Dev.formMsgs_tame_rec {B : Dev} (k : Nat) : ∀ (X : Dev) (g : Nat), Dev.Tame (setOf [.free, .seq, .stats, .commands, .events, .flt, .twk, .bbx, .link, .prism, .sent, .feat 0x10]) B X →
    Dev.Tame (setOf [.free, .seq, .stats, .commands, .events, .flt, .twk, .bbx, .link, .prism, .sent, .feat 0x10]) B (Dev.formMsgs X g k) := by
  induction k with
  | zero =>
    intro X g g
    unfold Dev.formMsgs
    assumption
  | succ k ih =>
    intro X g g
    unfold Dev.formMsgs
    dsimp only
    refine Dev.tame_ite ?_ ?_
    · assumption
    · split
      · refine Dev.tame_ite ?_ ?_
        · apply ih
          refine Dev.dropCtl_tame (by decide) ?_ ..
          assumption
        · refine Dev.tame_ite ?_ ?_
          · refine Dev.skewError_tame (by decide) ?_ ..
            assumption
          · apply ih
            refine Dev.onGroup_tame (by decide) ?_ ..
            refine Dev.tame_foldl ?_ (fun _ _ _ => ?_)
            · assumption
            · refine Dev.dropCtl_tame (by decide) ?_ ..
              assumption
      · assumption

theorem Dev.formMsgs_tame {ps : Nat} {B X : Dev} (hsub : setOf [.free, .seq, .stats, .commands, .events, .flt, .twk, .bbx, .link, .prism, .sent, .feat 0x10] ||| ps = ps)
    (hbase : Dev.Tame ps B X) (g : Nat) (k : Nat) : Dev.Tame ps B (Dev.formMsgs X g k) :=
  Dev.Tame.next (Dev.formMsgs_tame_rec k _ _ (.refl _ _)) hsub hbase

theorem Dev.laneControl_tame {ps : Nat} {B X : Dev} (hsub : setOf [.free, .seq, .stats, .commands, .events, .flt, .twk, .bbx, .link, .prism, .sent, .feat 0x10] ||| ps = ps)
    (hbase : Dev.Tame ps B X) (i slot code arg : Nat) : Dev.Tame ps B (Dev.laneControl X i slot code arg) := by
  refine Dev.Tame.next ?_ hsub hbase
  unfold Dev.laneControl
  dsimp only
  refine Dev.tame_ite ?_ ?_
  · exact Dev.Tame.refl _ _
  · refine Dev.tame_ite ?_ ?_
    · refine Dev.tame_ite ?_ ?_
      · refine Dev.onGroup_tame (by decide) ?_ ..
        refine Dev.onLane_tame (by decide) ?_ ..
        exact Dev.Tame.refl _ _
      · refine Dev.onLane_tame (by decide) ?_ ..
        exact Dev.Tame.refl _ _
    · refine Dev.tame_ite ?_ ?_
      · refine Dev.onLane_tame (by decide) ?_ ..
        exact Dev.Tame.refl _ _
      · refine Dev.tame_ite ?_ ?_
        · refine Dev.onLane_tame (by decide) ?_ ..
          exact Dev.Tame.refl _ _
        · refine Dev.formMsgs_tame (by decide) ?_ ..
          refine Dev.onLane_tame (by decide) ?_ ..
          refine Dev.onLane_tame (by decide) ?_ ..
          exact Dev.Tame.refl _ _

theorem Dev.laneBlock_tame {ps : Nat} {B X : Dev} (hsub : setOf [.free, .seq, .stats, .commands, .events, .flt, .twk, .bbx, .link, .prism, .sent, .feat 0x10] ||| ps = ps)
    (hbase : Dev.Tame ps B X) (i slot : Nat) (block : Nat) : Dev.Tame ps B (Dev.laneBlock X i slot block) := by
  refine Dev.Tame.next ?_ hsub hbase
  unfold Dev.laneBlock
  dsimp only
  refine Dev.tame_ite ?_ ?_
  · refine Dev.prmEvent_tame (by decide) ?_ ..
    refine Dev.laneHeader_tame (by decide) ?_ ..
    refine Dev.onLane_tame (by decide) ?_ ..
    exact Dev.Tame.refl _ _
  · refine Dev.tame_ite ?_ ?_
    · refine Dev.laneHeader_tame (by decide) ?_ ..
      refine Dev.onLane_tame (by decide) ?_ ..
      exact Dev.Tame.refl _ _
    · refine Dev.tame_ite ?_ ?_
      · refine Dev.onLane_tame (by decide) ?_ ..
        refine Dev.laneHeader_tame (by decide) ?_ ..
        refine Dev.onLane_tame (by decide) ?_ ..
        exact Dev.Tame.refl _ _
      · refine Dev.laneControl_tame (by decide) ?_ ..
        refine Dev.laneHeader_tame (by decide) ?_ ..
        refine Dev.onLane_tame (by decide) ?_ ..
        exact Dev.Tame.refl _ _

theorem Dev.modWork_tame {ps : Nat} {B X : Dev} (hsub : setOf [.caps] ||| ps = ps)
    (hbase : Dev.Tame ps B X) (s n : Nat) (f : Work → Work) : Dev.Tame ps B (Dev.modWork X s n f) := by
  refine Dev.Tame.next ?_ hsub hbase
  unfold Dev.modWork
  refine Dev.modCap_tame (by decide) ?_ ..
  exact Dev.Tame.refl _ _

theorem Dev.modBand_tame {ps : Nat} {B X : Dev} (hsub : setOf [.caps] ||| ps = ps)
    (hbase : Dev.Tame ps B X) (s n t k : Nat) (f : Band → Band) : Dev.Tame ps B (Dev.modBand X s n t k f) := by
  refine Dev.Tame.next ?_ hsub hbase
  unfold Dev.modBand
  refine Dev.modWork_tame (by decide) ?_ ..
  exact Dev.Tame.refl _ _

theorem Dev.modTile_tame {ps : Nat} {B X : Dev} (hsub : setOf [.caps] ||| ps = ps)
    (hbase : Dev.Tame ps B X) (s n t : Nat) (f : Tile → Tile) : Dev.Tame ps B (Dev.modTile X s n t f) := by
  refine Dev.Tame.next ?_ hsub hbase
  unfold Dev.modTile
  refine Dev.modWork_tame (by decide) ?_ ..
  exact Dev.Tame.refl _ _

theorem Dev.grantMany_tame_rec {B : Dev} (k : Nat) : ∀ (X : Dev) (owner port : Nat), Dev.Tame (setOf [.free, .seq, .stats, .commands, .events, .flt, .twk, .bbx, .link, .pools, .sent, .feat 0x1B]) B X →
    Dev.Tame (setOf [.free, .seq, .stats, .commands, .events, .flt, .twk, .bbx, .link, .pools, .sent, .feat 0x1B]) B (Dev.grantMany X owner port k).2 := by
  induction k with
  | zero =>
    intro X owner port g
    unfold Dev.grantMany
    dsimp only
    assumption
  | succ k ih =>
    intro X owner port g
    unfold Dev.grantMany
    split
    · split
      dsimp only
      refine Dev.Tame.of_snd (by assumption) ?_
      apply ih
      refine Dev.Tame.of_snd (by assumption) ?_
      refine Dev.poolGrant_tame (by decide) ?_ ..
      assumption
    · dsimp only
      refine Dev.Tame.of_snd (by assumption) ?_
      refine Dev.poolGrant_tame (by decide) ?_ ..
      assumption

theorem Dev.grantMany_tame {ps : Nat} {B X : Dev} (hsub : setOf [.free, .seq, .stats, .commands, .events, .flt, .twk, .bbx, .link, .pools, .sent, .feat 0x1B] ||| ps = ps)
    (hbase : Dev.Tame ps B X) (owner port : Nat) (k : Nat) : Dev.Tame ps B (Dev.grantMany X owner port k).2 :=
  Dev.Tame.next (Dev.grantMany_tame_rec k _ _ _ (.refl _ _)) hsub hbase

theorem Dev.freeMany_tame {ps : Nat} {B X : Dev} (hsub : setOf [.pools] ||| ps = ps)
    (hbase : Dev.Tame ps B X) (l : List Nat) : Dev.Tame ps B (Dev.freeMany X l) := by
  refine Dev.Tame.next ?_ hsub hbase
  unfold Dev.freeMany
  refine Dev.tame_foldl ?_ (fun _ _ _ => ?_)
  · exact Dev.Tame.refl _ _
  · refine Dev.setBuf_tame (by decide) ?_ ..
    assumption

theorem Dev.stageBufs_tame {ps : Nat} {B X : Dev} (hsub : setOf [.free, .seq, .stats, .commands, .events, .flt, .twk, .bbx, .link, .pools, .caps, .sent, .feat 0x1B] ||| ps = ps)
    (hbase : Dev.Tame ps B X) (s n t k : Nat) : Dev.Tame ps B (Dev.stageBufs X s n t k) := by
  refine Dev.Tame.next ?_ hsub hbase
  unfold Dev.stageBufs
  split
  · exact Dev.Tame.refl _ _
  · dsimp only
    refine Dev.tame_ite ?_ ?_
    · exact Dev.Tame.refl _ _
    · refine Dev.modBand_tame (by decide) ?_ ..
      refine Dev.grantMany_tame (by decide) ?_ ..
      exact Dev.Tame.refl _ _

theorem Mach.bufWrite_tame_dev_rec {B : Dev} (k : Nat) : ∀ (X : Mach) (bufs : List Nat) (o : Nat) (l : List Byte), Dev.Tame (setOf [.dram]) B X.dev →
    Dev.Tame (setOf [.dram]) B (Mach.bufWrite X bufs o l k).dev := by
  induction k with
  | zero =>
    intro X bufs o l g
    unfold Mach.bufWrite
    assumption
  | succ k ih_dev =>
    intro X bufs o l g
    unfold Mach.bufWrite
    refine Mach.tame_ite_dev ?_ ?_
    · assumption
    · dsimp only
      apply ih_dev
      split
      · refine Mach.dramWrite_tame_dev (by decide) ?_ ..
        assumption
      · assumption

theorem Mach.bufWrite_tame_dev {ps : Nat} {B : Dev} {X : Mach} (hsub : setOf [.dram] ||| ps = ps)
    (hbase : Dev.Tame ps B X.dev) (bufs : List Nat) (o : Nat) (l : List Byte) (k : Nat) : Dev.Tame ps B (Mach.bufWrite X bufs o l k).dev :=
  Dev.Tame.next (Mach.bufWrite_tame_dev_rec k _ _ _ _ (.refl _ _)) hsub hbase

theorem Mach.bufWrite_tame_mem_rec {B : Mem} (k : Nat) : ∀ (X : Mach) (bufs : List Nat) (o : Nat) (l : List Byte), Mem.Tame (setOf [.dramMem]) B X.mem →
    Mem.Tame (setOf [.dramMem]) B (Mach.bufWrite X bufs o l k).mem := by
  induction k with
  | zero =>
    intro X bufs o l g
    unfold Mach.bufWrite
    assumption
  | succ k ih_mem =>
    intro X bufs o l g
    unfold Mach.bufWrite
    refine Mach.tame_ite_mem ?_ ?_
    · assumption
    · dsimp only
      apply ih_mem
      split
      · refine Mach.dramWrite_tame_mem (by decide) ?_ ..
        assumption
      · assumption

theorem Mach.bufWrite_tame_mem {ps : Nat} {B : Mem} {X : Mach} (hsub : setOf [.dramMem] ||| ps = ps)
    (hbase : Mem.Tame ps B X.mem) (bufs : List Nat) (o : Nat) (l : List Byte) (k : Nat) : Mem.Tame ps B (Mach.bufWrite X bufs o l k).mem :=
  Mem.Tame.next (Mach.bufWrite_tame_mem_rec k _ _ _ _ (.refl _ _)) hsub hbase

theorem Dev.setRow_tame {ps : Nat} {B X : Dev} (hsub : setOf [.caps] ||| ps = ps)
    (hbase : Dev.Tame ps B X) (s n t y : Nat) (r : RowState) : Dev.Tame ps B (Dev.setRow X s n t y r) := by
  refine Dev.Tame.next ?_ hsub hbase
  unfold Dev.setRow
  refine Dev.modBand_tame (by decide) ?_ ..
  exact Dev.Tame.refl _ _

theorem Mach.fillFrom_tame_dev_rec {B : Dev} (k : Nat) : ∀ (X : Mach) (s n t y : Nat), Dev.Tame (setOf [.free, .seq, .stats, .commands, .events, .flt, .twk, .bbx, .link, .pools, .dram, .caps, .sent, .feat 0x1B]) B X.dev →
    Dev.Tame (setOf [.free, .seq, .stats, .commands, .events, .flt, .twk, .bbx, .link, .pools, .dram, .caps, .sent, .feat 0x1B]) B (Mach.fillFrom X s n t y k).dev := by
  induction k with
  | zero =>
    intro X s n t y g
    unfold Mach.fillFrom
    assumption
  | succ k ih_dev =>
    intro X s n t y g
    unfold Mach.fillFrom
    split
    · assumption
    · dsimp only
      refine Mach.tame_ite_dev ?_ ?_
      · assumption
      · apply ih_dev
        dsimp only
        refine Dev.modBand_tame (by decide) ?_ ..
        refine Dev.setRow_tame (by decide) ?_ ..
        refine Mach.bufWrite_tame_dev (by decide) ?_ ..
        dsimp only
        refine Dev.stageBufs_tame (by decide) ?_ ..
        assumption

theorem Mach.fillFrom_tame_dev {ps : Nat} {B : Dev} {X : Mach} (hsub : setOf [.free, .seq, .stats, .commands, .events, .flt, .twk, .bbx, .link, .pools, .dram, .caps, .sent, .feat 0x1B] ||| ps = ps)
    (hbase : Dev.Tame ps B X.dev) (s n t y : Nat) (k : Nat) : Dev.Tame ps B (Mach.fillFrom X s n t y k).dev :=
  Dev.Tame.next (Mach.fillFrom_tame_dev_rec k _ _ _ _ _ (.refl _ _)) hsub hbase

theorem Mach.fillFrom_tame_mem_rec {B : Mem} (k : Nat) : ∀ (X : Mach) (s n t y : Nat), Mem.Tame (setOf [.dramMem]) B X.mem →
    Mem.Tame (setOf [.dramMem]) B (Mach.fillFrom X s n t y k).mem := by
  induction k with
  | zero =>
    intro X s n t y g
    unfold Mach.fillFrom
    assumption
  | succ k ih_mem =>
    intro X s n t y g
    unfold Mach.fillFrom
    split
    · assumption
    · dsimp only
      refine Mach.tame_ite_mem ?_ ?_
      · assumption
      · apply ih_mem
        dsimp only
        refine Mach.bufWrite_tame_mem (by decide) ?_ ..
        dsimp only
        assumption

theorem Mach.fillFrom_tame_mem {ps : Nat} {B : Mem} {X : Mach} (hsub : setOf [.dramMem] ||| ps = ps)
    (hbase : Mem.Tame ps B X.mem) (s n t y : Nat) (k : Nat) : Mem.Tame ps B (Mach.fillFrom X s n t y k).mem :=
  Mem.Tame.next (Mach.fillFrom_tame_mem_rec k _ _ _ _ _ (.refl _ _)) hsub hbase

theorem Mach.badRow_tame_dev {ps : Nat} {B : Dev} {X : Mach} (hsub : setOf [.free, .seq, .stats, .commands, .events, .flt, .twk, .bbx, .link, .pools, .dram, .caps, .sent, .feat 0x1B] ||| ps = ps)
    (hbase : Dev.Tame ps B X.dev) (s n t y : Nat) : Dev.Tame ps B (Mach.badRow X s n t y).dev := by
  refine Dev.Tame.next ?_ hsub hbase
  unfold Mach.badRow
  refine Mach.fillFrom_tame_dev (by decide) ?_ ..
  dsimp only
  refine Dev.setRow_tame (by decide) ?_ ..
  exact Dev.Tame.refl _ _

theorem Mach.badRow_tame_mem {ps : Nat} {B : Mem} {X : Mach} (hsub : setOf [.dramMem] ||| ps = ps)
    (hbase : Mem.Tame ps B X.mem) (s n t y : Nat) : Mem.Tame ps B (Mach.badRow X s n t y).mem := by
  refine Mem.Tame.next ?_ hsub hbase
  unfold Mach.badRow
  refine Mach.fillFrom_tame_mem (by decide) ?_ ..
  dsimp only
  exact Mem.Tame.refl _ _

theorem Mach.badLine_tame_dev {ps : Nat} {B : Dev} {X : Mach} (hsub : setOf [.free, .seq, .stats, .commands, .events, .flt, .twk, .bbx, .link, .pools, .dram, .caps, .sent, .feat 0x1B] ||| ps = ps)
    (hbase : Dev.Tame ps B X.dev) (s n y tiles : Nat) : Dev.Tame ps B (Mach.badLine X s n y tiles).dev := by
  refine Dev.Tame.next ?_ hsub hbase
  unfold Mach.badLine
  refine Mach.tame_foldl_dev ?_ (fun _ _ _ => ?_)
  · exact Dev.Tame.refl _ _
  · refine Mach.badRow_tame_dev (by decide) ?_ ..
    assumption

theorem Mach.badLine_tame_mem {ps : Nat} {B : Mem} {X : Mach} (hsub : setOf [.dramMem] ||| ps = ps)
    (hbase : Mem.Tame ps B X.mem) (s n y tiles : Nat) : Mem.Tame ps B (Mach.badLine X s n y tiles).mem := by
  refine Mem.Tame.next ?_ hsub hbase
  unfold Mach.badLine
  refine Mach.tame_foldl_mem ?_ (fun _ _ _ => ?_)
  · exact Mem.Tame.refl _ _
  · refine Mach.badRow_tame_mem (by decide) ?_ ..
    assumption

theorem Mach.rowWhole_tame_dev {ps : Nat} {B : Dev} {X : Mach} (hsub : setOf [.free, .seq, .stats, .commands, .events, .flt, .twk, .bbx, .link, .pools, .dram, .caps, .sent, .feat 0x1B] ||| ps = ps)
    (hbase : Dev.Tame ps B X.dev) (s n t y : Nat) : Dev.Tame ps B (Mach.rowWhole X s n t y).dev := by
  refine Dev.Tame.next ?_ hsub hbase
  unfold Mach.rowWhole
  refine Mach.fillFrom_tame_dev (by decide) ?_ ..
  dsimp only
  refine Dev.setRow_tame (by decide) ?_ ..
  exact Dev.Tame.refl _ _

theorem Mach.rowWhole_tame_mem {ps : Nat} {B : Mem} {X : Mach} (hsub : setOf [.dramMem] ||| ps = ps)
    (hbase : Mem.Tame ps B X.mem) (s n t y : Nat) : Mem.Tame ps B (Mach.rowWhole X s n t y).mem := by
  refine Mem.Tame.next ?_ hsub hbase
  unfold Mach.rowWhole
  refine Mach.fillFrom_tame_mem (by decide) ?_ ..
  dsimp only
  exact Mem.Tame.refl _ _

theorem Dev.modSource_tame {ps : Nat} {B X : Dev} (hsub : setOf [.prism] ||| ps = ps)
    (hbase : Dev.Tame ps B X) (g vc : Nat) (f : Source → Source) : Dev.Tame ps B (Dev.modSource X g vc f) := by
  refine Dev.Tame.next ?_ hsub hbase
  unfold Dev.modSource
  refine Dev.onPrism_tame (by decide) ?_ ..
  exact Dev.Tame.refl _ _

theorem Dev.sofAt_tame {ps : Nat} {B X : Dev} (hsub : setOf [.free, .seq, .stats, .commands, .events, .flt, .twk, .bbx, .link, .caps, .prism, .sent, .feat 0x10] ||| ps = ps)
    (hbase : Dev.Tame ps B X) (g vc counter : Nat) : Dev.Tame ps B (Dev.sofAt X g vc counter) := by
  refine Dev.Tame.next ?_ hsub hbase
  unfold Dev.sofAt
  refine Dev.tame_ite ?_ ?_
  · refine Dev.prmEvent_tame (by decide) ?_ ..
    refine Dev.modSource_tame (by decide) ?_ ..
    exact Dev.Tame.refl _ _
  · dsimp only
    refine Dev.tame_foldl ?_ (fun _ _ _ => ?_)
    · refine Dev.modSource_tame (by decide) ?_ ..
      exact Dev.Tame.refl _ _
    · split
      · refine Dev.modWork_tame (by decide) ?_ ..
        assumption
      · assumption

theorem Mach.placeRow_tame_dev {ps : Nat} {B : Dev} {X : Mach} (hsub : setOf [.free, .seq, .stats, .commands, .events, .flt, .twk, .bbx, .link, .pools, .dram, .caps, .prism, .sent, .feat 0x1B] ||| ps = ps)
    (hbase : Dev.Tame ps B X.dev) (s : Nat) (c : Cap) (w : Work) (y : Nat) (line : Option (List Nat)) : Dev.Tame ps B (Mach.placeRow X s c w y line).dev := by
  refine Dev.Tame.next ?_ hsub hbase
  unfold Mach.placeRow
  refine Mach.tame_ite_dev ?_ ?_
  · exact Dev.Tame.refl _ _
  · dsimp only
    refine Mach.tame_ite_dev ?_ ?_
    · exact Dev.Tame.refl _ _
    · split
      · refine Mach.badLine_tame_dev (by decide) ?_ ..
        exact Dev.Tame.refl _ _
      · refine Mach.tame_ite_dev ?_ ?_
        · refine Mach.badLine_tame_dev (by decide) ?_ ..
          exact Dev.Tame.refl _ _
        · dsimp only
          refine Dev.onPrism_tame (by decide) ?_ ..
          refine Dev.tame_foldl ?_ (fun _ _ _ => ?_)
          · exact Dev.Tame.refl _ _
          · refine Dev.setRow_tame (by decide) ?_ ..
            assumption

theorem Mach.placeRow_tame_mem {ps : Nat} {B : Mem} {X : Mach} (hsub : setOf [.dramMem] ||| ps = ps)
    (hbase : Mem.Tame ps B X.mem) (s : Nat) (c : Cap) (w : Work) (y : Nat) (line : Option (List Nat)) : Mem.Tame ps B (Mach.placeRow X s c w y line).mem := by
  refine Mem.Tame.next ?_ hsub hbase
  unfold Mach.placeRow
  refine Mach.tame_ite_mem ?_ ?_
  · exact Mem.Tame.refl _ _
  · dsimp only
    refine Mach.tame_ite_mem ?_ ?_
    · exact Mem.Tame.refl _ _
    · split
      · refine Mach.badLine_tame_mem (by decide) ?_ ..
        exact Mem.Tame.refl _ _
      · refine Mach.tame_ite_mem ?_ ?_
        · refine Mach.badLine_tame_mem (by decide) ?_ ..
          exact Mem.Tame.refl _ _
        · dsimp only
          exact Mem.Tame.refl _ _

theorem Mach.placeLine_tame_dev {ps : Nat} {B : Dev} {X : Mach} (hsub : setOf [.free, .seq, .stats, .commands, .events, .flt, .twk, .bbx, .link, .pools, .dram, .caps, .prism, .sent, .feat 0x1B] ||| ps = ps)
    (hbase : Dev.Tame ps B X.dev) (g vc y : Nat) (line : Option (List Nat)) : Dev.Tame ps B (Mach.placeLine X g vc y line).dev := by
  refine Dev.Tame.next ?_ hsub hbase
  unfold Mach.placeLine
  refine Mach.tame_foldl_dev ?_ (fun _ _ _ => ?_)
  · exact Dev.Tame.refl _ _
  · refine Mach.placeRow_tame_dev (by decide) ?_ ..
    assumption

theorem Mach.placeLine_tame_mem {ps : Nat} {B : Mem} {X : Mach} (hsub : setOf [.dramMem] ||| ps = ps)
    (hbase : Mem.Tame ps B X.mem) (g vc y : Nat) (line : Option (List Nat)) : Mem.Tame ps B (Mach.placeLine X g vc y line).mem := by
  refine Mem.Tame.next ?_ hsub hbase
  unfold Mach.placeLine
  refine Mach.tame_foldl_mem ?_ (fun _ _ _ => ?_)
  · exact Mem.Tame.refl _ _
  · refine Mach.placeRow_tame_mem (by decide) ?_ ..
    assumption

theorem Dev.takeGroup_tame {ps : Nat} {B X Y : Dev} {k code : Nat} {x : GroupMsg} (hsub : setOf [.prism] ||| ps = ps)
    (g : Dev.Tame ps B X) (h : X.takeGroup k code = some (x, Y)) : Dev.Tame ps B Y := by
  unfold Dev.takeGroup at h
  split at h
  · split at h
    · obtain ⟨rfl, rfl⟩ := Prod.mk.inj (Option.some.inj h)
      exact Dev.onGroup_tame hsub g ..
    · exact absurd h (by simp)
  · exact absurd h (by simp)

theorem Dev.nextRow_tame {ps : Nat} {B X : Dev} (hsub : setOf [.prism] ||| ps = ps)
    (hbase : Dev.Tame ps B X) (g vc : Nat) : Dev.Tame ps B (Dev.nextRow X g vc) := by
  refine Dev.Tame.next ?_ hsub hbase
  unfold Dev.nextRow
  refine Dev.modSource_tame (by decide) ?_ ..
  exact Dev.Tame.refl _ _

theorem Dev.fifoLevel_tame {ps : Nat} {B X : Dev} (hsub : setOf [.stats, .wports] ||| ps = ps)
    (hbase : Dev.Tame ps B X) (p : Nat) : Dev.Tame ps B (Dev.fifoLevel X p) := by
  refine Dev.Tame.next ?_ hsub hbase
  unfold Dev.fifoLevel
  dsimp only
  refine Dev.tame_ite ?_ ?_
  · refine Dev.count_tame (by decide) ?_ ..
    refine Dev.onWport_tame (by decide) ?_ ..
    exact Dev.Tame.refl _ _
  · refine Dev.onWport_tame (by decide) ?_ ..
    exact Dev.Tame.refl _ _

theorem Dev.fifoTook_tame {ps : Nat} {B X : Dev} (hsub : setOf [.stats, .wports, .prism] ||| ps = ps)
    (hbase : Dev.Tame ps B X) (p n : Nat) : Dev.Tame ps B (Dev.fifoTook X p n) := by
  refine Dev.Tame.next ?_ hsub hbase
  unfold Dev.fifoTook
  refine Dev.fifoLevel_tame (by decide) ?_ ..
  refine Dev.onPrism_tame (by decide) ?_ ..
  exact Dev.Tame.refl _ _

theorem Dev.stuckSegment_tame {ps : Nat} {B X : Dev} (hsub : setOf [.free, .seq, .stats, .commands, .events, .flt, .twk, .bbx, .link, .pools, .wports, .caps, .prism, .sent, .feat 0x1B] ||| ps = ps)
    (hbase : Dev.Tame ps B X) (p : Nat) : Dev.Tame ps B (Dev.stuckSegment X p) := by
  refine Dev.Tame.next ?_ hsub hbase
  unfold Dev.stuckSegment
  split
  · exact Dev.Tame.refl _ _
  · split
    · refine Dev.stageBufs_tame (by decide) ?_ ..
      exact Dev.Tame.refl _ _
    · refine Dev.fifoTook_tame (by decide) ?_ ..
      exact Dev.Tame.refl _ _

theorem Dev.sweep_tame {ps : Nat} {B X : Dev} (hsub : setOf [.pools, .caps] ||| ps = ps)
    (hbase : Dev.Tame ps B X) (s : Nat) : Dev.Tame ps B (Dev.sweep X s) := by
  refine Dev.Tame.next ?_ hsub hbase
  unfold Dev.sweep
  split
  · exact Dev.Tame.refl _ _
  · dsimp only
    refine Dev.modCap_tame (by decide) ?_ ..
    refine Dev.freeMany_tame (by decide) ?_ ..
    exact Dev.Tame.refl _ _

theorem Mach.segWritten_tame_dev {ps : Nat} {B : Dev} {X : Mach} (hsub : setOf [.free, .seq, .stats, .commands, .events, .flt, .twk, .bbx, .link, .pools, .dram, .caps, .sent, .feat 0x1B] ||| ps = ps)
    (hbase : Dev.Tame ps B X.dev) (r : SegRef) (n : Nat) : Dev.Tame ps B (Mach.segWritten X r n).dev := by
  refine Dev.Tame.next ?_ hsub hbase
  unfold Mach.segWritten
  split
  · exact Dev.Tame.refl _ _
  · split
    · refine Mach.tame_ite_dev ?_ ?_
      · dsimp only [onDev]
        refine Dev.sweep_tame (by decide) ?_ ..
        refine Mach.rowWhole_tame_dev (by decide) ?_ ..
        exact Dev.Tame.refl _ _
      · dsimp only
        refine Dev.setRow_tame (by decide) ?_ ..
        exact Dev.Tame.refl _ _
    · exact Dev.Tame.refl _ _

theorem Mach.segWritten_tame_mem {ps : Nat} {B : Mem} {X : Mach} (hsub : setOf [.dramMem] ||| ps = ps)
    (hbase : Mem.Tame ps B X.mem) (r : SegRef) (n : Nat) : Mem.Tame ps B (Mach.segWritten X r n).mem := by
  refine Mem.Tame.next ?_ hsub hbase
  unfold Mach.segWritten
  split
  · exact Mem.Tame.refl _ _
  · split
    · refine Mach.tame_ite_mem ?_ ?_
      · dsimp only [onDev]
        refine Mach.rowWhole_tame_mem (by decide) ?_ ..
        exact Mem.Tame.refl _ _
      · dsimp only
        exact Mem.Tame.refl _ _
    · exact Mem.Tame.refl _ _

theorem Mach.segLost_tame_dev {ps : Nat} {B : Dev} {X : Mach} (hsub : setOf [.free, .seq, .stats, .commands, .events, .flt, .twk, .bbx, .link, .pools, .dram, .caps, .sent, .feat 0x1B] ||| ps = ps)
    (hbase : Dev.Tame ps B X.dev) (r : SegRef) : Dev.Tame ps B (Mach.segLost X r).dev := by
  refine Dev.Tame.next ?_ hsub hbase
  unfold Mach.segLost
  split
  · exact Dev.Tame.refl _ _
  · split
    · refine Mach.badRow_tame_dev (by decide) ?_ ..
      exact Dev.Tame.refl _ _
    · exact Dev.Tame.refl _ _

theorem Mach.segLost_tame_mem {ps : Nat} {B : Mem} {X : Mach} (hsub : setOf [.dramMem] ||| ps = ps)
    (hbase : Mem.Tame ps B X.mem) (r : SegRef) : Mem.Tame ps B (Mach.segLost X r).mem := by
  refine Mem.Tame.next ?_ hsub hbase
  unfold Mach.segLost
  split
  · exact Mem.Tame.refl _ _
  · split
    · refine Mach.badRow_tame_mem (by decide) ?_ ..
      exact Mem.Tame.refl _ _
    · exact Mem.Tame.refl _ _

end Sys2Proof.Machine
end

