-- ==== Sys2Proof/Laws/FrameFabric.lean ====
section
/-! SUPPORT. What each operation of Machine/Fabric.lean may change. -/

namespace Sys2Proof.Machine
open Sys2Proof

theorem Dev.mirrorOne_tame {ps : Nat} {B X : Dev} (hsub : setOf [.free, .seq, .stats, .commands, .events, .flt, .twk, .bbx, .link, .fab, .pools, .sent, .feat 0x1A, .feat 0x1B] ||| ps = ps)
    (hbase : Dev.Tame ps B X) (k : Nat) (c : FabCell) (port dir : Nat) : Dev.Tame ps B (Dev.mirrorOne X k c port dir) := by
  refine Dev.Tame.next ?_ hsub hbase
  unfold Dev.mirrorOne
  dsimp only
  refine Dev.tame_ite ?_ ?_
  · refine Dev.count_tame (by decide) ?_ ..
    refine Dev.bump_tame (by decide) ?_
    refine Dev.stamped_tame (by decide) ?_ ..
    refine Dev.onFab_tame (by decide) ?_ ..
    exact Dev.Tame.refl _ _
  · split
    · refine Dev.count_tame (by decide) ?_ ..
      refine Dev.bump_tame (by decide) ?_
      refine Dev.Tame.of_snd (by assumption) ?_
      refine Dev.poolGrant_tame (by decide) ?_ ..
      refine Dev.stamped_tame (by decide) ?_ ..
      refine Dev.onFab_tame (by decide) ?_ ..
      exact Dev.Tame.refl _ _
    · refine Dev.onFab_tame (by decide) ?_ ..
      refine Dev.Tame.of_snd (by assumption) ?_
      refine Dev.poolGrant_tame (by decide) ?_ ..
      refine Dev.stamped_tame (by decide) ?_ ..
      refine Dev.onFab_tame (by decide) ?_ ..
      exact Dev.Tame.refl _ _

theorem Dev.mirror_tame {ps : Nat} {B X : Dev} (hsub : setOf [.free, .seq, .stats, .commands, .events, .flt, .twk, .bbx, .link, .fab, .pools, .sent, .feat 0x1A, .feat 0x1B] ||| ps = ps)
    (hbase : Dev.Tame ps B X) (c : FabCell) (port dir : Nat) : Dev.Tame ps B (Dev.mirror X c port dir) := by
  refine Dev.Tame.next ?_ hsub hbase
  unfold Dev.mirror
  refine Dev.tame_foldl ?_ (fun _ _ _ => ?_)
  · exact Dev.Tame.refl _ _
  · refine Dev.tame_ite ?_ ?_
    · refine Dev.mirrorOne_tame (by decide) ?_ ..
      assumption
    · assumption

theorem Dev.takeRecord_tame {ps : Nat} {B X : Dev} (hsub : setOf [.fab, .pools] ||| ps = ps)
    (hbase : Dev.Tame ps B X) (r : MirrorRecord) : Dev.Tame ps B (Dev.takeRecord X r) := by
  refine Dev.Tame.next ?_ hsub hbase
  unfold Dev.takeRecord
  refine Dev.setBuf_tame (by decide) ?_ ..
  refine Dev.onFab_tame (by decide) ?_ ..
  exact Dev.Tame.refl _ _

theorem Dev.mirrorToEth_tame {ps : Nat} {B X : Dev} (hsub : setOf [.stats, .eth, .fab, .pools, .feat 0x1A] ||| ps = ps)
    (hbase : Dev.Tame ps B X) (e : Nat) : Dev.Tame ps B (Dev.mirrorToEth X e) := by
  refine Dev.Tame.next ?_ hsub hbase
  unfold Dev.mirrorToEth
  split
  · exact Dev.Tame.refl _ _
  · dsimp only
    split
    · refine Dev.count_tame (by decide) ?_ ..
      refine Dev.bump_tame (by decide) ?_
      refine Dev.takeRecord_tame (by decide) ?_ ..
      exact Dev.Tame.refl _ _
    · split
      · refine Dev.bump_tame (by decide) ?_
        refine Dev.Tame.of_snd (by assumption) ?_
        refine Dev.ethEnqueue_tame (by decide) ?_ ..
        refine Dev.takeRecord_tame (by decide) ?_ ..
        exact Dev.Tame.refl _ _
      · refine Dev.count_tame (by decide) ?_ ..
        refine Dev.bump_tame (by decide) ?_
        refine Dev.Tame.of_snd (by assumption) ?_
        refine Dev.ethEnqueue_tame (by decide) ?_ ..
        refine Dev.takeRecord_tame (by decide) ?_ ..
        exact Dev.Tame.refl _ _

theorem Mach.mirrorToRing_tame_dev {ps : Nat} {B : Dev} {X : Mach} (hsub : setOf [.cqs, .msix, .fab, .pools, .sent, .feat 0x1A] ||| ps = ps)
    (hbase : Dev.Tame ps B X.dev) : Dev.Tame ps B (Mach.mirrorToRing X).dev := by
  refine Dev.Tame.next ?_ hsub hbase
  unfold Mach.mirrorToRing
  split
  · exact Dev.Tame.refl _ _
  · dsimp only
    split
    · refine Mach.tame_mk_dev ?_
      refine Dev.bump_tame (by decide) ?_
      refine Dev.takeRecord_tame (by decide) ?_ ..
      refine Mach.dev_of_snd (by assumption) ?_
      refine Mach.ringDeliver_tame_dev (by decide) ?_ ..
      exact Dev.Tame.refl _ _
    · exact Dev.Tame.refl _ _

theorem Mach.mirrorToRing_tame_mem {ps : Nat} {B : Mem} {X : Mach} (hsub : setOf [.hostMem] ||| ps = ps)
    (hbase : Mem.Tame ps B X.mem) : Mem.Tame ps B (Mach.mirrorToRing X).mem := by
  refine Mem.Tame.next ?_ hsub hbase
  unfold Mach.mirrorToRing
  split
  · exact Mem.Tame.refl _ _
  · dsimp only
    split
    · refine Mach.tame_mk_mem ?_
      refine Mach.mem_of_snd (by assumption) ?_
      refine Mach.ringDeliver_tame_mem (by decide) ?_ ..
      exact Mem.Tame.refl _ _
    · exact Mem.Tame.refl _ _

theorem Mach.cellOut_tame_dev {ps : Nat} {B : Dev} {X : Mach} (hsub : setOf [.free, .seq, .stats, .commands, .events, .flt, .twk, .bbx, .link, .fab, .pools, .dram, .caps, .sent, .feat 0x1A, .feat 0x1B, .feat 0x1E] ||| ps = ps)
    (hbase : Dev.Tame ps B X.dev) (c : FabCell) : Dev.Tame ps B (Mach.cellOut X c).dev := by
  refine Dev.Tame.next ?_ hsub hbase
  unfold Mach.cellOut
  dsimp only
  refine Mach.tame_ite_dev ?_ ?_
  · refine Mach.tame_ite_dev ?_ ?_
    · split
      · refine Mach.segWritten_tame_dev (by decide) ?_ ..
        refine Mach.dramWrite_tame_dev (by decide) ?_ ..
        refine Mach.tame_mk_dev ?_
        refine Dev.touch_tame (by decide) ?_ ..
        refine Dev.mirror_tame (by decide) ?_ ..
        exact Dev.Tame.refl _ _
      · refine Mach.dramWrite_tame_dev (by decide) ?_ ..
        refine Mach.tame_mk_dev ?_
        refine Dev.touch_tame (by decide) ?_ ..
        refine Dev.mirror_tame (by decide) ?_ ..
        exact Dev.Tame.refl _ _
    · refine Mach.dramRead_tame_dev (by decide) ?_ ..
      refine Mach.tame_mk_dev ?_
      refine Dev.touch_tame (by decide) ?_ ..
      refine Dev.mirror_tame (by decide) ?_ ..
      exact Dev.Tame.refl _ _
  · refine Mach.tame_ite_dev ?_ ?_
    · refine Mach.tame_mk_dev ?_
      refine Dev.onFab_tame (by decide) ?_ ..
      refine Dev.mirror_tame (by decide) ?_ ..
      exact Dev.Tame.refl _ _
    · refine Mach.tame_mk_dev ?_
      refine Dev.mirror_tame (by decide) ?_ ..
      exact Dev.Tame.refl _ _

theorem Mach.cellOut_tame_mem {ps : Nat} {B : Mem} {X : Mach} (hsub : setOf [.dramMem] ||| ps = ps)
    (hbase : Mem.Tame ps B X.mem) (c : FabCell) : Mem.Tame ps B (Mach.cellOut X c).mem := by
  refine Mem.Tame.next ?_ hsub hbase
  unfold Mach.cellOut
  dsimp only
  refine Mach.tame_ite_mem ?_ ?_
  · refine Mach.tame_ite_mem ?_ ?_
    · split
      · refine Mach.segWritten_tame_mem (by decide) ?_ ..
        refine Mach.dramWrite_tame_mem (by decide) ?_ ..
        refine Mach.tame_mk_mem ?_
        exact Mem.Tame.refl _ _
      · refine Mach.dramWrite_tame_mem (by decide) ?_ ..
        refine Mach.tame_mk_mem ?_
        exact Mem.Tame.refl _ _
    · refine Mach.dramRead_tame_mem (by decide) ?_ ..
      refine Mach.tame_mk_mem ?_
      exact Mem.Tame.refl _ _
  · refine Mach.tame_ite_mem ?_ ?_
    · refine Mach.tame_mk_mem ?_
      exact Mem.Tame.refl _ _
    · refine Mach.tame_mk_mem ?_
      exact Mem.Tame.refl _ _

theorem Mach.reseq_tame_dev_rec {B : Dev} (k : Nat) : ∀ (X : Mach) (key : Nat), Dev.Tame (setOf [.free, .seq, .stats, .commands, .events, .flt, .twk, .bbx, .link, .fab, .pools, .dram, .caps, .sent, .feat 0x1A, .feat 0x1B, .feat 0x1E]) B X.dev →
    Dev.Tame (setOf [.free, .seq, .stats, .commands, .events, .flt, .twk, .bbx, .link, .fab, .pools, .dram, .caps, .sent, .feat 0x1A, .feat 0x1B, .feat 0x1E]) B (Mach.reseq X key k).dev := by
  induction k with
  | zero =>
    intro X key g
    unfold Mach.reseq
    assumption
  | succ k ih_dev =>
    intro X key g
    unfold Mach.reseq
    dsimp only
    split
    · assumption
    · apply ih_dev
      refine Mach.cellOut_tame_dev (by decide) ?_ ..
      refine Mach.tame_mk_dev ?_
      refine Dev.onFab_tame (by decide) ?_ ..
      assumption

theorem Mach.reseq_tame_dev {ps : Nat} {B : Dev} {X : Mach} (hsub : setOf [.free, .seq, .stats, .commands, .events, .flt, .twk, .bbx, .link, .fab, .pools, .dram, .caps, .sent, .feat 0x1A, .feat 0x1B, .feat 0x1E] ||| ps = ps)
    (hbase : Dev.Tame ps B X.dev) (key : Nat) (k : Nat) : Dev.Tame ps B (Mach.reseq X key k).dev :=
  Dev.Tame.next (Mach.reseq_tame_dev_rec k _ _ (.refl _ _)) hsub hbase

theorem Mach.reseq_tame_mem_rec {B : Mem} (k : Nat) : ∀ (X : Mach) (key : Nat), Mem.Tame (setOf [.dramMem]) B X.mem →
    Mem.Tame (setOf [.dramMem]) B (Mach.reseq X key k).mem := by
  induction k with
  | zero =>
    intro X key g
    unfold Mach.reseq
    assumption
  | succ k ih_mem =>
    intro X key g
    unfold Mach.reseq
    dsimp only
    split
    · assumption
    · apply ih_mem
      refine Mach.cellOut_tame_mem (by decide) ?_ ..
      refine Mach.tame_mk_mem ?_
      assumption

theorem Mach.reseq_tame_mem {ps : Nat} {B : Mem} {X : Mach} (hsub : setOf [.dramMem] ||| ps = ps)
    (hbase : Mem.Tame ps B X.mem) (key : Nat) (k : Nat) : Mem.Tame ps B (Mach.reseq X key k).mem :=
  Mem.Tame.next (Mach.reseq_tame_mem_rec k _ _ (.refl _ _)) hsub hbase

theorem Mach.cell_tame_dev {ps : Nat} {B : Dev} {X : Mach} (hsub : setOf [.free, .seq, .stats, .commands, .events, .flt, .twk, .bbx, .link, .fab, .pools, .dram, .caps, .sent, .feat 0x1A, .feat 0x1B, .feat 0x1E] ||| ps = ps)
    (hbase : Dev.Tame ps B X.dev) (c : FabCell) (ecc : Nat) : Dev.Tame ps B (Mach.cell X c ecc).dev := by
  refine Dev.Tame.next ?_ hsub hbase
  unfold Mach.cell
  dsimp only
  refine Mach.tame_ite_dev ?_ ?_
  · refine Mach.tame_mk_dev ?_
    refine Dev.onFab_tame (by decide) ?_ ..
    refine Dev.tame_ite ?_ ?_
    · refine Dev.bump_tame (by decide) ?_
      refine Dev.onFab_tame (by decide) ?_ ..
      refine Dev.mirror_tame (by decide) ?_ ..
      exact Dev.Tame.refl _ _
    · refine Dev.onFab_tame (by decide) ?_ ..
      refine Dev.mirror_tame (by decide) ?_ ..
      exact Dev.Tame.refl _ _
  · refine Mach.reseq_tame_dev (by decide) ?_ ..
    refine Mach.tame_mk_dev ?_
    refine Dev.onFab_tame (by decide) ?_ ..
    refine Dev.tame_ite ?_ ?_
    · refine Dev.bump_tame (by decide) ?_
      refine Dev.onFab_tame (by decide) ?_ ..
      refine Dev.mirror_tame (by decide) ?_ ..
      exact Dev.Tame.refl _ _
    · refine Dev.onFab_tame (by decide) ?_ ..
      refine Dev.mirror_tame (by decide) ?_ ..
      exact Dev.Tame.refl _ _

theorem Mach.cell_tame_mem {ps : Nat} {B : Mem} {X : Mach} (hsub : setOf [.dramMem] ||| ps = ps)
    (hbase : Mem.Tame ps B X.mem) (c : FabCell) (ecc : Nat) : Mem.Tame ps B (Mach.cell X c ecc).mem := by
  refine Mem.Tame.next ?_ hsub hbase
  unfold Mach.cell
  dsimp only
  refine Mach.tame_ite_mem ?_ ?_
  · refine Mach.tame_mk_mem ?_
    exact Mem.Tame.refl _ _
  · refine Mach.reseq_tame_mem (by decide) ?_ ..
    refine Mach.tame_mk_mem ?_
    exact Mem.Tame.refl _ _

theorem Mach.cellTo_tame_dev {ps : Nat} {B : Dev} {X : Mach} (hsub : setOf [.free, .seq, .stats, .commands, .events, .flt, .twk, .bbx, .link, .fab, .pools, .dram, .caps, .sent, .feat 0x1A, .feat 0x1B, .feat 0x1E] ||| ps = ps)
    (hbase : Dev.Tame ps B X.dev) (c : FabCell) (ecc : Nat) : Dev.Tame ps B (Mach.cellTo X c ecc).dev := by
  refine Dev.Tame.next ?_ hsub hbase
  unfold Mach.cellTo
  split
  · refine Mach.cell_tame_dev (by decide) ?_ ..
    exact Dev.Tame.refl _ _
  · refine Mach.tame_ite_dev ?_ ?_
    · split
      · refine Mach.segLost_tame_dev (by decide) ?_ ..
        exact Dev.Tame.refl _ _
      · exact Dev.Tame.refl _ _
    · refine Mach.tame_ite_dev ?_ ?_
      · refine Mach.tame_mk_dev ?_
        refine Dev.onFab_tame (by decide) ?_ ..
        exact Dev.Tame.refl _ _
      · refine Mach.cell_tame_dev (by decide) ?_ ..
        exact Dev.Tame.refl _ _

theorem Mach.cellTo_tame_mem {ps : Nat} {B : Mem} {X : Mach} (hsub : setOf [.dramMem] ||| ps = ps)
    (hbase : Mem.Tame ps B X.mem) (c : FabCell) (ecc : Nat) : Mem.Tame ps B (Mach.cellTo X c ecc).mem := by
  refine Mem.Tame.next ?_ hsub hbase
  unfold Mach.cellTo
  split
  · refine Mach.cell_tame_mem (by decide) ?_ ..
    exact Mem.Tame.refl _ _
  · refine Mach.tame_ite_mem ?_ ?_
    · split
      · refine Mach.segLost_tame_mem (by decide) ?_ ..
        exact Mem.Tame.refl _ _
      · exact Mem.Tame.refl _ _
    · refine Mach.tame_ite_mem ?_ ?_
      · refine Mach.tame_mk_mem ?_
        exact Mem.Tame.refl _ _
      · refine Mach.cell_tame_mem (by decide) ?_ ..
        exact Mem.Tame.refl _ _

theorem Dev.linkGrant_tame {ps : Nat} {B X : Dev} (hsub : setOf [.stats, .link, .fab, .sent] ||| ps = ps)
    (hbase : Dev.Tame ps B X) (p : Nat) : Dev.Tame ps B (Dev.linkGrant X p) := by
  refine Dev.Tame.next ?_ hsub hbase
  unfold Dev.linkGrant
  dsimp only
  refine Dev.tame_ite ?_ ?_
  · refine Dev.pumpLink_tame (by decide) ?_ ..
    exact Dev.Tame.refl _ _
  · split
    · refine Dev.pumpLink_tame (by decide) ?_ ..
      exact Dev.Tame.refl _ _
    · refine Dev.noteCredit_tame (by decide) ?_ ..
      refine Dev.egrServed_tame (by decide) ?_ ..
      refine Dev.sendFlit_tame (by decide) ?_ ..
      refine Dev.onPort_tame (by decide) ?_ ..
      refine Dev.pumpLink_tame (by decide) ?_ ..
      exact Dev.Tame.refl _ _

theorem Mach.pcieGrant_tame_dev {ps : Nat} {B : Dev} {X : Mach} (hsub : setOf [.cqs, .msix, .fab, .pools, .sent, .feat 0x1A] ||| ps = ps)
    (hbase : Dev.Tame ps B X.dev) : Dev.Tame ps B (Mach.pcieGrant X).dev := by
  refine Dev.Tame.next ?_ hsub hbase
  unfold Mach.pcieGrant
  dsimp only
  split
  · refine Mach.tame_mk_dev ?_
    refine Dev.egrServed_tame (by decide) ?_ ..
    refine Dev.onFab_tame (by decide) ?_ ..
    exact Dev.Tame.refl _ _
  · refine Mach.mirrorToRing_tame_dev (by decide) ?_ ..
    exact Dev.Tame.refl _ _

theorem Mach.pcieGrant_tame_mem {ps : Nat} {B : Mem} {X : Mach} (hsub : setOf [.hostMem] ||| ps = ps)
    (hbase : Mem.Tame ps B X.mem) : Mem.Tame ps B (Mach.pcieGrant X).mem := by
  refine Mem.Tame.next ?_ hsub hbase
  unfold Mach.pcieGrant
  dsimp only
  split
  · refine Mach.tame_mk_mem ?_
    exact Mem.Tame.refl _ _
  · refine Mach.mirrorToRing_tame_mem (by decide) ?_ ..
    exact Mem.Tame.refl _ _

end Sys2Proof.Machine
end

