-- ==== Sys2Proof/Laws/FrameRate.lean ====
section
/-! SUPPORT. What each operation of Machine/Rate.lean may change. -/

namespace Sys2Proof.Machine
open Sys2Proof

theorem Dev.onAcb_tame {ps : Nat} {B X : Dev} (hsub : setOf [.codec] ||| ps = ps)
    (hbase : Dev.Tame ps B X) (e : Nat) (f : Allow → Allow) : Dev.Tame ps B (Dev.onAcb X e f) := by
  refine Dev.Tame.next ?_ hsub hbase
  unfold Dev.onAcb
  refine Dev.onCodec_tame (by decide) ?_ ..
  exact Dev.Tame.refl _ _

theorem Dev.countClamp_tame {ps : Nat} {B X : Dev} (hsub : setOf [.feat 0x14] ||| ps = ps)
    (hbase : Dev.Tame ps B X) (e : Nat) (changed : Bool) : Dev.Tame ps B (Dev.countClamp X e changed) := by
  refine Dev.Tame.next ?_ hsub hbase
  unfold Dev.countClamp
  refine Dev.tame_ite ?_ ?_
  · refine Dev.bump_tame (by decide) ?_
    exact Dev.Tame.refl _ _
  · exact Dev.Tame.refl _ _

theorem Dev.allowUnit_tame {ps : Nat} {B X : Dev} (hsub : setOf [.caps, .codec] ||| ps = ps)
    (hbase : Dev.Tame ps B X) (r : BandRef) : Dev.Tame ps B (Dev.allowUnit X r) := by
  refine Dev.Tame.next ?_ hsub hbase
  unfold Dev.allowUnit
  split
  · exact Dev.Tame.refl _ _
  · dsimp only
    refine Dev.tame_ite ?_ ?_
    · refine Dev.onAcb_tame (by decide) ?_ ..
      refine Dev.modBand_tame (by decide) ?_ ..
      exact Dev.Tame.refl _ _
    · refine Dev.onAcb_tame (by decide) ?_ ..
      refine Dev.modTile_tame (by decide) ?_ ..
      refine Dev.modBand_tame (by decide) ?_ ..
      exact Dev.Tame.refl _ _

theorem Dev.allowSet_tame {ps : Nat} {B X : Dev} (hsub : setOf [.caps, .codec, .feat 0x14] ||| ps = ps)
    (hbase : Dev.Tame ps B X) (r : BandRef) (req : Option Nat) : Dev.Tame ps B (Dev.allowSet X r req) := by
  refine Dev.Tame.next ?_ hsub hbase
  unfold Dev.allowSet
  split
  · exact Dev.Tame.refl _ _
  · refine Dev.tame_ite ?_ ?_
    · exact Dev.Tame.refl _ _
    · dsimp only
      refine Dev.countClamp_tame (by decide) ?_ ..
      refine Dev.onAcb_tame (by decide) ?_ ..
      refine Dev.modBand_tame (by decide) ?_ ..
      exact Dev.Tame.refl _ _

end Sys2Proof.Machine
end

