-- ==== Sys2Proof/Laws/FrameCodec.lean ====
section
/-! SUPPORT. What each operation of Machine/Codec.lean may change. -/

namespace Sys2Proof.Machine
open Sys2Proof

theorem Dev.onPix_tame {ps : Nat} {B X : Dev} (hsub : setOf [.codec] ||| ps = ps)
    (hbase : Dev.Tame ps B X) (e : Nat) (f : PixEngine → PixEngine) : Dev.Tame ps B (Dev.onPix X e f) := by
  refine Dev.Tame.next ?_ hsub hbase
  unfold Dev.onPix
  refine Dev.onCodec_tame (by decide) ?_ ..
  exact Dev.Tame.refl _ _

theorem Dev.onEnt_tame {ps : Nat} {B X : Dev} (hsub : setOf [.codec] ||| ps = ps)
    (hbase : Dev.Tame ps B X) (e : Nat) (f : EntEngine → EntEngine) : Dev.Tame ps B (Dev.onEnt X e f) := by
  refine Dev.Tame.next ?_ hsub hbase
  unfold Dev.onEnt
  refine Dev.onCodec_tame (by decide) ?_ ..
  exact Dev.Tame.refl _ _

theorem Dev.onMir_tame {ps : Nat} {B X : Dev} (hsub : setOf [.codec] ||| ps = ps)
    (hbase : Dev.Tame ps B X) (e : Nat) (f : MirEngine → MirEngine) : Dev.Tame ps B (Dev.onMir X e f) := by
  refine Dev.Tame.next ?_ hsub hbase
  unfold Dev.onMir
  refine Dev.onCodec_tame (by decide) ?_ ..
  exact Dev.Tame.refl _ _

theorem Dev.onBq_tame {ps : Nat} {B X : Dev} (hsub : setOf [.codec] ||| ps = ps)
    (hbase : Dev.Tame ps B X) (e : Nat) (f : List BqEntry → List BqEntry) : Dev.Tame ps B (Dev.onBq X e f) := by
  refine Dev.Tame.next ?_ hsub hbase
  unfold Dev.onBq
  refine Dev.onCodec_tame (by decide) ?_ ..
  exact Dev.Tame.refl _ _

theorem Dev.onBand_tame {ps : Nat} {B X : Dev} (hsub : setOf [.caps] ||| ps = ps)
    (hbase : Dev.Tame ps B X) (r : BandRef) (f : Band → Band) : Dev.Tame ps B (Dev.onBand X r f) := by
  refine Dev.Tame.next ?_ hsub hbase
  unfold Dev.onBand
  refine Dev.modBand_tame (by decide) ?_ ..
  exact Dev.Tame.refl _ _

theorem Mach.readSource_tame {ps : Nat} {B : Dev} {X : Mach}
    (hsub : setOf [.free, .seq, .stats, .commands, .events, .flt, .twk, .bbx, .link, .dram, .sent, .feat 0x1E] ||| ps = ps)
    (hbase : Dev.Tame ps B X.dev) (r : BandRef) (w : Work) (b : Band) (src : List Nat) :
    Dev.Tame ps B (X.readSource r w b src).2.2 := by
  refine Dev.Tame.next ?_ hsub hbase
  unfold Mach.readSource
  dsimp only
  split
  · refine Dev.dramUncorrectable_tame (by decide) ?_ ..
    exact Dev.Tame.refl _ _
  · exact Dev.Tame.refl _ _

theorem Dev.bqRewind_tame {ps : Nat} {B X : Dev} (hsub : setOf [.codec] ||| ps = ps)
    (hbase : Dev.Tame ps B X) (r : BandRef) : Dev.Tame ps B (Dev.bqRewind X r) := by
  refine Dev.Tame.next ?_ hsub hbase
  unfold Dev.bqRewind
  refine Dev.onBq_tame (by decide) ?_ ..
  exact Dev.Tame.refl _ _

theorem Dev.bqDrop_tame {ps : Nat} {B X : Dev} (hsub : setOf [.codec] ||| ps = ps)
    (hbase : Dev.Tame ps B X) (r : BandRef) : Dev.Tame ps B (Dev.bqDrop X r) := by
  refine Dev.Tame.next ?_ hsub hbase
  unfold Dev.bqDrop
  refine Dev.onBq_tame (by decide) ?_ ..
  exact Dev.Tame.refl _ _

theorem Dev.stopBand_tame {ps : Nat} {B X : Dev} (hsub : setOf [.codec] ||| ps = ps)
    (hbase : Dev.Tame ps B X) (r : BandRef) : Dev.Tame ps B (Dev.stopBand X r) := by
  refine Dev.Tame.next ?_ hsub hbase
  unfold Dev.stopBand
  dsimp only
  refine Dev.tame_ite ?_ ?_
  · refine Dev.onEnt_tame (by decide) ?_ ..
    refine Dev.tame_ite ?_ ?_
    · refine Dev.onPix_tame (by decide) ?_ ..
      exact Dev.Tame.refl _ _
    · exact Dev.Tame.refl _ _
  · refine Dev.tame_ite ?_ ?_
    · refine Dev.onPix_tame (by decide) ?_ ..
      exact Dev.Tame.refl _ _
    · exact Dev.Tame.refl _ _

theorem Dev.toEclipse_tame {ps : Nat} {B X : Dev} (hsub : setOf [.caps, .codec] ||| ps = ps)
    (hbase : Dev.Tame ps B X) (r : BandRef) (cause : Nat) : Dev.Tame ps B (Dev.toEclipse X r cause) := by
  refine Dev.Tame.next ?_ hsub hbase
  unfold Dev.toEclipse
  dsimp only
  refine Dev.onBand_tame (by decide) ?_ ..
  refine Dev.bqDrop_tame (by decide) ?_ ..
  refine Dev.stopBand_tame (by decide) ?_ ..
  exact Dev.Tame.refl _ _

theorem Dev.divert_tame {ps : Nat} {B X : Dev} (hsub : setOf [.caps, .codec] ||| ps = ps)
    (hbase : Dev.Tame ps B X) (s n t from_ cause : Nat) (p : BandPhase → Bool) : Dev.Tame ps B (Dev.divert X s n t from_ cause p) := by
  refine Dev.Tame.next ?_ hsub hbase
  unfold Dev.divert
  split
  · exact Dev.Tame.refl _ _
  · refine Dev.tame_foldl ?_ (fun _ _ _ => ?_)
    · exact Dev.Tame.refl _ _
    · refine Dev.tame_ite ?_ ?_
      · refine Dev.toEclipse_tame (by decide) ?_ ..
        assumption
      · assumption

theorem Dev.allowCompute_tame {ps : Nat} {B X : Dev} (hsub : setOf [.caps, .codec] ||| ps = ps)
    (hbase : Dev.Tame ps B X) (r : BandRef) : Dev.Tame ps B (Dev.allowCompute X r) := by
  refine Dev.Tame.next ?_ hsub hbase
  unfold Dev.allowCompute
  dsimp only
  split
  · refine Dev.tame_ite ?_ ?_
    · refine Dev.divert_tame (by decide) ?_ ..
      refine Dev.allowUnit_tame (by decide) ?_ ..
      exact Dev.Tame.refl _ _
    · refine Dev.allowUnit_tame (by decide) ?_ ..
      exact Dev.Tame.refl _ _
  · refine Dev.allowUnit_tame (by decide) ?_ ..
    exact Dev.Tame.refl _ _

theorem Dev.seqPost_tame {ps : Nat} {B X : Dev} (hsub : setOf [.seqr] ||| ps = ps)
    (hbase : Dev.Tame ps B X) (thread : Nat) (e : SeqEvent) : Dev.Tame ps B (Dev.seqPost X thread e) := by
  refine Dev.Tame.next ?_ hsub hbase
  unfold Dev.seqPost
  refine Dev.onSeq_tame (by decide) ?_ ..
  exact Dev.Tame.refl _ _

theorem Dev.askBand_tame {ps : Nat} {B X : Dev} (hsub : setOf [.caps, .seqr] ||| ps = ps)
    (hbase : Dev.Tame ps B X) (r : BandRef) (op arg : Nat) (dec : Decision) : Dev.Tame ps B (Dev.askBand X r op arg dec) := by
  refine Dev.Tame.next ?_ hsub hbase
  unfold Dev.askBand
  refine Dev.seqPost_tame (by decide) ?_ ..
  refine Dev.onBand_tame (by decide) ?_ ..
  exact Dev.Tame.refl _ _

theorem Dev.tellBand_tame {ps : Nat} {B X : Dev} (hsub : setOf [.seqr] ||| ps = ps)
    (hbase : Dev.Tame ps B X) (r : BandRef) (op arg : Nat) : Dev.Tame ps B (Dev.tellBand X r op arg) := by
  refine Dev.Tame.next ?_ hsub hbase
  unfold Dev.tellBand
  refine Dev.tame_ite ?_ ?_
  · refine Dev.seqPost_tame (by decide) ?_ ..
    exact Dev.Tame.refl _ _
  · exact Dev.Tame.refl _ _

theorem Dev.entPump_tame {ps : Nat} {B X : Dev} (hsub : setOf [.caps, .codec] ||| ps = ps)
    (hbase : Dev.Tame ps B X) (e : Nat) : Dev.Tame ps B (Dev.entPump X e) := by
  refine Dev.Tame.next ?_ hsub hbase
  unfold Dev.entPump
  dsimp only
  refine Dev.tame_ite ?_ ?_
  · exact Dev.Tame.refl _ _
  · split
    · exact Dev.Tame.refl _ _
    · split
      · exact Dev.Tame.refl _ _
      · split
        · refine Dev.onEnt_tame (by decide) ?_ ..
          refine Dev.onBand_tame (by decide) ?_ ..
          exact Dev.Tame.refl _ _
        · refine Dev.onEnt_tame (by decide) ?_ ..
          refine Dev.onBand_tame (by decide) ?_ ..
          exact Dev.Tame.refl _ _
        · exact Dev.Tame.refl _ _

theorem Dev.mirPump_tame {ps : Nat} {B X : Dev} (hsub : setOf [.caps, .codec, .feat 0x16] ||| ps = ps)
    (hbase : Dev.Tame ps B X) (e : Nat) : Dev.Tame ps B (Dev.mirPump X e) := by
  refine Dev.Tame.next ?_ hsub hbase
  unfold Dev.mirPump
  dsimp only
  refine Dev.tame_ite ?_ ?_
  · exact Dev.Tame.refl _ _
  · split
    · exact Dev.Tame.refl _ _
    · refine Dev.onMir_tame (by decide) ?_ ..
      refine Dev.onBand_tame (by decide) ?_ ..
      refine Dev.tame_ite ?_ ?_
      · refine Dev.bump_tame (by decide) ?_
        exact Dev.Tame.refl _ _
      · exact Dev.Tame.refl _ _

theorem Dev.pump_tame {ps : Nat} {B X : Dev} (hsub : setOf [.caps, .codec, .feat 0x16] ||| ps = ps)
    (hbase : Dev.Tame ps B X) (e : Nat) : Dev.Tame ps B (Dev.pump X e) := by
  refine Dev.Tame.next ?_ hsub hbase
  unfold Dev.pump
  refine Dev.mirPump_tame (by decide) ?_ ..
  refine Dev.entPump_tame (by decide) ?_ ..
  exact Dev.Tame.refl _ _

theorem Dev.pumpAll_tame {ps : Nat} {B X : Dev} (hsub : setOf [.caps, .codec, .feat 0x16] ||| ps = ps)
    (hbase : Dev.Tame ps B X) : Dev.Tame ps B (Dev.pumpAll X) := by
  refine Dev.Tame.next ?_ hsub hbase
  unfold Dev.pumpAll
  refine Dev.tame_foldl ?_ (fun _ _ _ => ?_)
  · exact Dev.Tame.refl _ _
  · refine Dev.pump_tame (by decide) ?_ ..
    assumption

theorem Dev.workEnds_tame {ps : Nat} {B X : Dev} (hsub : setOf [.clk, .sid] ||| ps = ps)
    (hbase : Dev.Tame ps B X) (start dt bound : Nat) : Dev.Tame ps B (Dev.workEnds X start dt bound) := by
  refine Dev.Tame.next ?_ hsub hbase
  unfold Dev.workEnds
  refine Dev.advanceTo_tame (by decide) ?_ ..
  exact Dev.Tame.refl _ _

theorem Mach.startAttempt_tame_dev {ps : Nat} {B : Dev} {X : Mach} (hsub : setOf [.free, .seq, .stats, .commands, .events, .flt, .twk, .bbx, .link, .dram, .caps, .codec, .sent, .feat 0x14, .feat 0x1E] ||| ps = ps)
    (hbase : Dev.Tame ps B X.dev) (r : BandRef) (req : Option Nat) : Dev.Tame ps B (Mach.startAttempt X r req).dev := by
  refine Dev.Tame.next ?_ hsub hbase
  unfold Mach.startAttempt
  split
  · exact Dev.Tame.refl _ _
  · dsimp only
    refine Dev.onAcb_tame (by decide) ?_ ..
    refine Dev.modTile_tame (by decide) ?_ ..
    refine Dev.modWork_tame (by decide) ?_ ..
    refine Dev.onPix_tame (by decide) ?_ ..
    refine Dev.onBq_tame (by decide) ?_ ..
    refine Dev.onBand_tame (by decide) ?_ ..
    refine Dev.countClamp_tame (by decide) ?_ ..
    refine Mach.readSource_tame (by decide) ?_ ..
    exact Dev.Tame.refl _ _

theorem Mach.startAttempt_tame_mem {ps : Nat} {B : Mem} {X : Mach} (hsub : setOf [] ||| ps = ps)
    (hbase : Mem.Tame ps B X.mem) (r : BandRef) (req : Option Nat) : Mem.Tame ps B (Mach.startAttempt X r req).mem := by
  refine Mem.Tame.next ?_ hsub hbase
  unfold Mach.startAttempt
  split
  · exact Mem.Tame.refl _ _
  · dsimp only
    exact Mem.Tame.refl _ _

theorem Mach.attemptStart_tame_dev {ps : Nat} {B : Dev} {X : Mach} (hsub : setOf [.free, .seq, .stats, .commands, .events, .flt, .twk, .bbx, .link, .dram, .caps, .codec, .seqr, .sent, .feat 0x14, .feat 0x16, .feat 0x1E] ||| ps = ps)
    (hbase : Dev.Tame ps B X.dev) (e : Nat) : Dev.Tame ps B (Mach.attemptStart X e).dev := by
  refine Dev.Tame.next ?_ hsub hbase
  unfold Mach.attemptStart
  dsimp only
  refine Mach.tame_ite_dev ?_ ?_
  · exact Dev.Tame.refl _ _
  · split
    · exact Dev.Tame.refl _ _
    · split
      · exact Dev.Tame.refl _ _
      · refine Mach.tame_ite_dev ?_ ?_
        · exact Dev.Tame.refl _ _
        · refine Mach.tame_ite_dev ?_ ?_
          · dsimp only
            refine Dev.pump_tame (by decide) ?_ ..
            refine Dev.toEclipse_tame (by decide) ?_ ..
            exact Dev.Tame.refl _ _
          · refine Mach.tame_ite_dev ?_ ?_
            · dsimp only
              refine Dev.askBand_tame (by decide) ?_ ..
              exact Dev.Tame.refl _ _
            · refine Mach.startAttempt_tame_dev (by decide) ?_ ..
              exact Dev.Tame.refl _ _

theorem Mach.attemptStart_tame_mem {ps : Nat} {B : Mem} {X : Mach} (hsub : setOf [] ||| ps = ps)
    (hbase : Mem.Tame ps B X.mem) (e : Nat) : Mem.Tame ps B (Mach.attemptStart X e).mem := by
  refine Mem.Tame.next ?_ hsub hbase
  unfold Mach.attemptStart
  dsimp only
  refine Mach.tame_ite_mem ?_ ?_
  · exact Mem.Tame.refl _ _
  · split
    · exact Mem.Tame.refl _ _
    · split
      · exact Mem.Tame.refl _ _
      · refine Mach.tame_ite_mem ?_ ?_
        · exact Mem.Tame.refl _ _
        · refine Mach.tame_ite_mem ?_ ?_
          · dsimp only
            exact Mem.Tame.refl _ _
          · refine Mach.tame_ite_mem ?_ ?_
            · dsimp only
              exact Mem.Tame.refl _ _
            · refine Mach.startAttempt_tame_mem (by decide) ?_ ..
              exact Mem.Tame.refl _ _

theorem Dev.bqResume_tame {ps : Nat} {B X : Dev} (hsub : setOf [.codec] ||| ps = ps)
    (hbase : Dev.Tame ps B X) (e : Nat) : Dev.Tame ps B (Dev.bqResume X e) := by
  refine Dev.Tame.next ?_ hsub hbase
  unfold Dev.bqResume
  split
  · exact Dev.Tame.refl _ _
  · split
    · exact Dev.Tame.refl _ _
    · dsimp only
      refine Dev.onBq_tame (by decide) ?_ ..
      refine Dev.onPix_tame (by decide) ?_ ..
      exact Dev.Tame.refl _ _

theorem Dev.pixEnds_tame {ps : Nat} {B X : Dev} (hsub : setOf [.clk, .stats, .sid, .codec] ||| ps = ps)
    (hbase : Dev.Tame ps B X) (e dt : Nat) (r : BandRef) (w : Work) (b : Band) : Dev.Tame ps B (Dev.pixEnds X e dt r w b) := by
  refine Dev.Tame.next ?_ hsub hbase
  unfold Dev.pixEnds
  dsimp only
  refine Dev.onPix_tame (by decide) ?_ ..
  refine Dev.tame_ite ?_ ?_
  · refine Dev.count_tame (by decide) ?_ ..
    refine Dev.count_tame (by decide) ?_ ..
    refine Dev.count_tame (by decide) ?_ ..
    refine Dev.workEnds_tame (by decide) ?_ ..
    exact Dev.Tame.refl _ _
  · refine Dev.count_tame (by decide) ?_ ..
    refine Dev.count_tame (by decide) ?_ ..
    refine Dev.workEnds_tame (by decide) ?_ ..
    exact Dev.Tame.refl _ _

theorem Dev.attemptComplete_tame {ps : Nat} {B X : Dev} (hsub : setOf [.clk, .stats, .sid, .caps, .codec, .feat 0x16] ||| ps = ps)
    (hbase : Dev.Tame ps B X) (e dt : Nat) : Dev.Tame ps B (Dev.attemptComplete X e dt) := by
  refine Dev.Tame.next ?_ hsub hbase
  unfold Dev.attemptComplete
  split
  · exact Dev.Tame.refl _ _
  · split
    · exact Dev.Tame.refl _ _
    · split
      · exact Dev.Tame.refl _ _
      · refine Dev.tame_ite ?_ ?_
        · dsimp only
          refine Dev.pump_tame (by decide) ?_ ..
          refine Dev.onBand_tame (by decide) ?_ ..
          refine Dev.onBq_tame (by decide) ?_ ..
          refine Dev.pixEnds_tame (by decide) ?_ ..
          exact Dev.Tame.refl _ _
        · exact Dev.Tame.refl _ _

theorem Dev.queueFull_tame {ps : Nat} {B X : Dev} (hsub : setOf [.clk, .stats, .sid, .caps, .codec, .feat 0x12, .feat 0x16] ||| ps = ps)
    (hbase : Dev.Tame ps B X) (e dt : Nat) : Dev.Tame ps B (Dev.queueFull X e dt) := by
  refine Dev.Tame.next ?_ hsub hbase
  unfold Dev.queueFull
  split
  · exact Dev.Tame.refl _ _
  · split
    · exact Dev.Tame.refl _ _
    · split
      · exact Dev.Tame.refl _ _
      · refine Dev.tame_ite ?_ ?_
        · refine Dev.pump_tame (by decide) ?_ ..
          refine Dev.toEclipse_tame (by decide) ?_ ..
          refine Dev.bump_tame (by decide) ?_
          refine Dev.pixEnds_tame (by decide) ?_ ..
          exact Dev.Tame.refl _ _
        · exact Dev.Tame.refl _ _

theorem Dev.bqCorrected_tame {ps : Nat} {B X : Dev} (hsub : setOf [.free, .seq, .stats, .commands, .events, .flt, .twk, .bbx, .link, .sent, .feat 0x12] ||| ps = ps)
    (hbase : Dev.Tame ps B X) (e ce : Nat) (r : BandRef) : Dev.Tame ps B (Dev.bqCorrected X e ce r) := by
  refine Dev.Tame.next ?_ hsub hbase
  unfold Dev.bqCorrected
  refine Dev.tame_ite ?_ ?_
  · exact Dev.Tame.refl _ _
  · refine Dev.raise_tame (by decide) ?_ ..
    refine Dev.count_tame (by decide) ?_ ..
    refine Dev.bump_tame (by decide) ?_
    exact Dev.Tame.refl _ _

theorem Dev.rewindAfter_tame {ps : Nat} {B X : Dev} (hsub : setOf [.caps, .codec] ||| ps = ps)
    (hbase : Dev.Tame ps B X) (r : BandRef) (uncounted : Bool) : Dev.Tame ps B (Dev.rewindAfter X r uncounted) := by
  refine Dev.Tame.next ?_ hsub hbase
  unfold Dev.rewindAfter
  split
  · exact Dev.Tame.refl _ _
  · dsimp only
    refine Dev.bqRewind_tame (by decide) ?_ ..
    refine Dev.tame_foldl ?_ (fun _ _ _ => ?_)
    · exact Dev.Tame.refl _ _
    · refine Dev.onBand_tame (by decide) ?_ ..
      refine Dev.stopBand_tame (by decide) ?_ ..
      assumption

theorem Dev.secondAttempt_tame {ps : Nat} {B X : Dev} (hsub : setOf [.caps, .codec, .feat 0x14, .feat 0x16] ||| ps = ps)
    (hbase : Dev.Tame ps B X) (r : BandRef) (x : Nat) (req : Option Nat) : Dev.Tame ps B (Dev.secondAttempt X r x req) := by
  refine Dev.Tame.next ?_ hsub hbase
  unfold Dev.secondAttempt
  split
  · exact Dev.Tame.refl _ _
  · dsimp only
    refine Dev.pump_tame (by decide) ?_ ..
    refine Dev.countClamp_tame (by decide) ?_ ..
    refine Dev.onBand_tame (by decide) ?_ ..
    refine Dev.rewindAfter_tame (by decide) ?_ ..
    exact Dev.Tame.refl _ _

theorem Dev.measureDecided_tame {ps : Nat} {B X : Dev} (hsub : setOf [.caps, .codec, .seqr, .feat 0x14, .feat 0x16] ||| ps = ps)
    (hbase : Dev.Tame ps B X) (r : BandRef) (size : Nat) (req : Option Nat) : Dev.Tame ps B (Dev.measureDecided X r size req) := by
  refine Dev.Tame.next ?_ hsub hbase
  unfold Dev.measureDecided
  dsimp only
  split
  · refine Dev.allowSet_tame (by decide) ?_ ..
    refine Dev.onBand_tame (by decide) ?_ ..
    exact Dev.Tame.refl _ _
  · split
    · refine Dev.pump_tame (by decide) ?_ ..
      refine Dev.onBand_tame (by decide) ?_ ..
      refine Dev.allowSet_tame (by decide) ?_ ..
      refine Dev.onBand_tame (by decide) ?_ ..
      exact Dev.Tame.refl _ _
    · refine Dev.tame_ite ?_ ?_
      · refine Dev.askBand_tame (by decide) ?_ ..
        refine Dev.allowSet_tame (by decide) ?_ ..
        refine Dev.onBand_tame (by decide) ?_ ..
        exact Dev.Tame.refl _ _
      · refine Dev.secondAttempt_tame (by decide) ?_ ..
        refine Dev.allowSet_tame (by decide) ?_ ..
        refine Dev.onBand_tame (by decide) ?_ ..
        exact Dev.Tame.refl _ _
    · refine Dev.pump_tame (by decide) ?_ ..
      refine Dev.toEclipse_tame (by decide) ?_ ..
      refine Dev.allowSet_tame (by decide) ?_ ..
      refine Dev.onBand_tame (by decide) ?_ ..
      exact Dev.Tame.refl _ _
    · refine Dev.pump_tame (by decide) ?_ ..
      refine Dev.toEclipse_tame (by decide) ?_ ..
      refine Dev.allowSet_tame (by decide) ?_ ..
      refine Dev.onBand_tame (by decide) ?_ ..
      exact Dev.Tame.refl _ _

theorem Dev.measureDone_tame {ps : Nat} {B X : Dev} (hsub : setOf [.clk, .free, .seq, .stats, .commands, .events, .flt, .twk, .bbx, .sid, .link, .caps, .codec, .seqr, .sent, .feat 0x12, .feat 0x13, .feat 0x14, .feat 0x16] ||| ps = ps)
    (hbase : Dev.Tame ps B X) (e dt ce : Nat) : Dev.Tame ps B (Dev.measureDone X e dt ce) := by
  refine Dev.Tame.next ?_ hsub hbase
  unfold Dev.measureDone
  split
  · exact Dev.Tame.refl _ _
  · split
    · exact Dev.Tame.refl _ _
    · split
      · exact Dev.Tame.refl _ _
      · refine Dev.tame_ite ?_ ?_
        · exact Dev.Tame.refl _ _
        · dsimp only
          refine Dev.tame_ite ?_ ?_
          · refine Dev.pump_tame (by decide) ?_ ..
            refine Dev.onBand_tame (by decide) ?_ ..
            refine Dev.onEnt_tame (by decide) ?_ ..
            refine Dev.count_tame (by decide) ?_ ..
            refine Dev.bump_tame (by decide) ?_
            refine Dev.bqCorrected_tame (by decide) ?_ ..
            refine Dev.workEnds_tame (by decide) ?_ ..
            exact Dev.Tame.refl _ _
          · refine Dev.tame_ite ?_ ?_
            · refine Dev.pump_tame (by decide) ?_ ..
              refine Dev.askBand_tame (by decide) ?_ ..
              refine Dev.allowCompute_tame (by decide) ?_ ..
              refine Dev.onEnt_tame (by decide) ?_ ..
              refine Dev.count_tame (by decide) ?_ ..
              refine Dev.bump_tame (by decide) ?_
              refine Dev.bqCorrected_tame (by decide) ?_ ..
              refine Dev.workEnds_tame (by decide) ?_ ..
              exact Dev.Tame.refl _ _
            · refine Dev.measureDecided_tame (by decide) ?_ ..
              refine Dev.allowCompute_tame (by decide) ?_ ..
              refine Dev.onEnt_tame (by decide) ?_ ..
              refine Dev.count_tame (by decide) ?_ ..
              refine Dev.bump_tame (by decide) ?_
              refine Dev.bqCorrected_tame (by decide) ?_ ..
              refine Dev.workEnds_tame (by decide) ?_ ..
              exact Dev.Tame.refl _ _

theorem Dev.stored_tame {ps : Nat} {B X : Dev} (hsub : setOf [.caps] ||| ps = ps)
    (hbase : Dev.Tame ps B X) (r : BandRef) (bytes : List Byte) (flags k : Nat) : Dev.Tame ps B (Dev.stored X r bytes flags k) := by
  refine Dev.Tame.next ?_ hsub hbase
  unfold Dev.stored
  split
  · exact Dev.Tame.refl _ _
  · dsimp only
    refine Dev.tame_ite ?_ ?_
    · refine Dev.modTile_tame (by decide) ?_ ..
      refine Dev.onBand_tame (by decide) ?_ ..
      exact Dev.Tame.refl _ _
    · refine Dev.onBand_tame (by decide) ?_ ..
      exact Dev.Tame.refl _ _

theorem Dev.codeDone_tame {ps : Nat} {B X : Dev} (hsub : setOf [.clk, .free, .seq, .stats, .commands, .events, .flt, .twk, .bbx, .sid, .link, .caps, .codec, .sent, .feat 0x12, .feat 0x16] ||| ps = ps)
    (hbase : Dev.Tame ps B X) (e dt ce : Nat) : Dev.Tame ps B (Dev.codeDone X e dt ce) := by
  refine Dev.Tame.next ?_ hsub hbase
  unfold Dev.codeDone
  split
  · exact Dev.Tame.refl _ _
  · split
    · exact Dev.Tame.refl _ _
    · split
      · exact Dev.Tame.refl _ _
      · refine Dev.tame_ite ?_ ?_
        · exact Dev.Tame.refl _ _
        · dsimp only
          split
          · refine Dev.pump_tame (by decide) ?_ ..
            refine Dev.onEnt_tame (by decide) ?_ ..
            refine Dev.stored_tame (by decide) ?_ ..
            refine Dev.onBand_tame (by decide) ?_ ..
            refine Dev.bqDrop_tame (by decide) ?_ ..
            refine Dev.bqCorrected_tame (by decide) ?_ ..
            refine Dev.workEnds_tame (by decide) ?_ ..
            exact Dev.Tame.refl _ _
          · exact Dev.Tame.refl _ _

theorem Mach.startEclipse_tame_dev {ps : Nat} {B : Dev} {X : Mach} (hsub : setOf [.free, .seq, .stats, .commands, .events, .flt, .twk, .bbx, .link, .dram, .caps, .codec, .sent, .feat 0x1E] ||| ps = ps)
    (hbase : Dev.Tame ps B X.dev) (r : BandRef) : Dev.Tame ps B (Mach.startEclipse X r).dev := by
  refine Dev.Tame.next ?_ hsub hbase
  unfold Mach.startEclipse
  split
  · exact Dev.Tame.refl _ _
  · split
    dsimp only
    refine Dev.onEnt_tame (by decide) ?_ ..
    refine Dev.modWork_tame (by decide) ?_ ..
    refine Dev.onBand_tame (by decide) ?_ ..
    refine Dev.Tame.of_snd_snd (by assumption) ?_
    refine Mach.readSource_tame (by decide) ?_ ..
    exact Dev.Tame.refl _ _

theorem Mach.startEclipse_tame_mem {ps : Nat} {B : Mem} {X : Mach} (hsub : setOf [] ||| ps = ps)
    (hbase : Mem.Tame ps B X.mem) (r : BandRef) : Mem.Tame ps B (Mach.startEclipse X r).mem := by
  refine Mem.Tame.next ?_ hsub hbase
  unfold Mach.startEclipse
  split
  · exact Mem.Tame.refl _ _
  · split
    dsimp only
    exact Mem.Tame.refl _ _

theorem Mach.eclipseDecided_tame_dev {ps : Nat} {B : Dev} {X : Mach} (hsub : setOf [.free, .seq, .stats, .commands, .events, .flt, .twk, .bbx, .link, .dram, .caps, .codec, .sent, .feat 0x14, .feat 0x1E] ||| ps = ps)
    (hbase : Dev.Tame ps B X.dev) (r : BandRef) (fresh : Bool) (allow depth : Option Nat) : Dev.Tame ps B (Mach.eclipseDecided X r fresh allow depth).dev := by
  refine Dev.Tame.next ?_ hsub hbase
  unfold Mach.eclipseDecided
  dsimp only
  split
  · dsimp only
    refine Dev.tame_ite ?_ ?_
    · refine Dev.allowSet_tame (by decide) ?_ ..
      exact Dev.Tame.refl _ _
    · exact Dev.Tame.refl _ _
  · refine Mach.tame_ite_dev ?_ ?_
    · dsimp only
      refine Dev.countClamp_tame (by decide) ?_ ..
      refine Dev.onBand_tame (by decide) ?_ ..
      refine Dev.tame_ite ?_ ?_
      · refine Dev.allowSet_tame (by decide) ?_ ..
        exact Dev.Tame.refl _ _
      · exact Dev.Tame.refl _ _
    · refine Mach.startEclipse_tame_dev (by decide) ?_ ..
      dsimp only
      refine Dev.countClamp_tame (by decide) ?_ ..
      refine Dev.onBand_tame (by decide) ?_ ..
      refine Dev.tame_ite ?_ ?_
      · refine Dev.allowSet_tame (by decide) ?_ ..
        exact Dev.Tame.refl _ _
      · exact Dev.Tame.refl _ _

theorem Mach.eclipseDecided_tame_mem {ps : Nat} {B : Mem} {X : Mach} (hsub : setOf [] ||| ps = ps)
    (hbase : Mem.Tame ps B X.mem) (r : BandRef) (fresh : Bool) (allow depth : Option Nat) : Mem.Tame ps B (Mach.eclipseDecided X r fresh allow depth).mem := by
  refine Mem.Tame.next ?_ hsub hbase
  unfold Mach.eclipseDecided
  dsimp only
  split
  · dsimp only
    exact Mem.Tame.refl _ _
  · refine Mach.tame_ite_mem ?_ ?_
    · dsimp only
      exact Mem.Tame.refl _ _
    · refine Mach.startEclipse_tame_mem (by decide) ?_ ..
      dsimp only
      exact Mem.Tame.refl _ _

theorem Mach.eclipseStart_tame_dev {ps : Nat} {B : Dev} {X : Mach} (hsub : setOf [.free, .seq, .stats, .commands, .events, .flt, .twk, .bbx, .link, .dram, .caps, .codec, .seqr, .sent, .feat 0x14, .feat 0x1E] ||| ps = ps)
    (hbase : Dev.Tame ps B X.dev) (e : Nat) : Dev.Tame ps B (Mach.eclipseStart X e).dev := by
  refine Dev.Tame.next ?_ hsub hbase
  unfold Mach.eclipseStart
  dsimp only
  refine Mach.tame_ite_dev ?_ ?_
  · exact Dev.Tame.refl _ _
  · split
    · exact Dev.Tame.refl _ _
    · split
      · exact Dev.Tame.refl _ _
      · refine Mach.tame_ite_dev ?_ ?_
        · exact Dev.Tame.refl _ _
        · refine Mach.tame_ite_dev ?_ ?_
          · refine Mach.startEclipse_tame_dev (by decide) ?_ ..
            dsimp only
            refine Dev.onBand_tame (by decide) ?_ ..
            exact Dev.Tame.refl _ _
          · refine Mach.tame_ite_dev ?_ ?_
            · refine Mach.startEclipse_tame_dev (by decide) ?_ ..
              exact Dev.Tame.refl _ _
            · refine Mach.tame_ite_dev ?_ ?_
              · dsimp only
                refine Dev.askBand_tame (by decide) ?_ ..
                refine Dev.tame_ite ?_ ?_
                · refine Dev.allowCompute_tame (by decide) ?_ ..
                  exact Dev.Tame.refl _ _
                · exact Dev.Tame.refl _ _
              · refine Mach.eclipseDecided_tame_dev (by decide) ?_ ..
                dsimp only
                refine Dev.tame_ite ?_ ?_
                · refine Dev.allowCompute_tame (by decide) ?_ ..
                  exact Dev.Tame.refl _ _
                · exact Dev.Tame.refl _ _

theorem Mach.eclipseStart_tame_mem {ps : Nat} {B : Mem} {X : Mach} (hsub : setOf [] ||| ps = ps)
    (hbase : Mem.Tame ps B X.mem) (e : Nat) : Mem.Tame ps B (Mach.eclipseStart X e).mem := by
  refine Mem.Tame.next ?_ hsub hbase
  unfold Mach.eclipseStart
  dsimp only
  refine Mach.tame_ite_mem ?_ ?_
  · exact Mem.Tame.refl _ _
  · split
    · exact Mem.Tame.refl _ _
    · split
      · exact Mem.Tame.refl _ _
      · refine Mach.tame_ite_mem ?_ ?_
        · exact Mem.Tame.refl _ _
        · refine Mach.tame_ite_mem ?_ ?_
          · refine Mach.startEclipse_tame_mem (by decide) ?_ ..
            dsimp only
            exact Mem.Tame.refl _ _
          · refine Mach.tame_ite_mem ?_ ?_
            · refine Mach.startEclipse_tame_mem (by decide) ?_ ..
              exact Mem.Tame.refl _ _
            · refine Mach.tame_ite_mem ?_ ?_
              · dsimp only
                exact Mem.Tame.refl _ _
              · refine Mach.eclipseDecided_tame_mem (by decide) ?_ ..
                dsimp only
                exact Mem.Tame.refl _ _

theorem Mach.eclipseDone_tame_dev {ps : Nat} {B : Dev} {X : Mach} (hsub : setOf [.clk, .sid, .caps, .codec, .feat 0x16] ||| ps = ps)
    (hbase : Dev.Tame ps B X.dev) (e dt : Nat) : Dev.Tame ps B (Mach.eclipseDone X e dt).dev := by
  refine Dev.Tame.next ?_ hsub hbase
  unfold Mach.eclipseDone
  dsimp only
  split
  · exact Dev.Tame.refl _ _
  · split
    · exact Dev.Tame.refl _ _
    · refine Mach.tame_ite_dev ?_ ?_
      · exact Dev.Tame.refl _ _
      · dsimp only
        refine Dev.pump_tame (by decide) ?_ ..
        refine Dev.onEnt_tame (by decide) ?_ ..
        refine Dev.stored_tame (by decide) ?_ ..
        refine Dev.workEnds_tame (by decide) ?_ ..
        exact Dev.Tame.refl _ _

theorem Mach.eclipseDone_tame_mem {ps : Nat} {B : Mem} {X : Mach} (hsub : setOf [] ||| ps = ps)
    (hbase : Mem.Tame ps B X.mem) (e dt : Nat) : Mem.Tame ps B (Mach.eclipseDone X e dt).mem := by
  refine Mem.Tame.next ?_ hsub hbase
  unfold Mach.eclipseDone
  dsimp only
  split
  · exact Mem.Tame.refl _ _
  · split
    · exact Mem.Tame.refl _ _
    · refine Mach.tame_ite_mem ?_ ?_
      · exact Mem.Tame.refl _ _
      · dsimp only
        exact Mem.Tame.refl _ _

end Sys2Proof.Machine
end

