-- ==== Sys2Proof/Laws/FrameVerify.lean ====
section
/-! SUPPORT. What each operation of Machine/Verify.lean may change. -/

namespace Sys2Proof.Machine
open Sys2Proof

theorem Dev.reportDrop_tame {ps : Nat} {B X : Dev} (hsub : setOf [.seq, .stats, .commands, .events, .logs, .bbx] ||| ps = ps)
    (hbase : Dev.Tame ps B X) (s n reason : Nat) : Dev.Tame ps B (Dev.reportDrop X s n reason) := by
  refine Dev.Tame.next ?_ hsub hbase
  unfold Dev.reportDrop
  dsimp only
  refine Dev.count_tame (by decide) ?_ ..
  refine Dev.record_tame (by decide) ?_ ..
  refine Dev.stamped_tame (by decide) ?_ ..
  refine Dev.tame_onHost ?_ ?_
  · exact HostIf.Same.mk
      (.inr ⟨rfl, rfl⟩)
      (.inr rfl)
      (.inr rfl)
      (.inr ⟨rfl, rfl, rfl, rfl⟩)
      (.inr ⟨rfl, rfl, rfl, rfl, rfl, rfl⟩)
      (.inl (by decide))
      (.inl (by decide))
      (.inr rfl)
      (.inl (by decide))
      (.inr rfl)
      (.inr ⟨rfl, rfl, rfl, rfl⟩)
      (.inr rfl)
  · refine Dev.postEvent_tame (by decide) ?_ ..
    exact Dev.Tame.refl _ _

theorem Dev.stopWork_tame {ps : Nat} {B X : Dev} (hsub : setOf [.codec] ||| ps = ps)
    (hbase : Dev.Tame ps B X) (s : Nat) (w : Work) : Dev.Tame ps B (Dev.stopWork X s w) := by
  refine Dev.Tame.next ?_ hsub hbase
  unfold Dev.stopWork
  refine Dev.tame_foldl ?_ (fun _ _ _ => ?_)
  · exact Dev.Tame.refl _ _
  · refine Dev.tame_foldl ?_ (fun _ _ _ => ?_)
    · assumption
    · dsimp only
      refine Dev.tame_ite ?_ ?_
      · refine Dev.onMir_tame (by decide) ?_ ..
        refine Dev.bqDrop_tame (by decide) ?_ ..
        refine Dev.stopBand_tame (by decide) ?_ ..
        assumption
      · refine Dev.bqDrop_tame (by decide) ?_ ..
        refine Dev.stopBand_tame (by decide) ?_ ..
        assumption

theorem Dev.divide_tame {ps : Nat} {B X : Dev} (hsub : setOf [.caps] ||| ps = ps)
    (hbase : Dev.Tame ps B X) (s n : Nat) (weights : List Nat) : Dev.Tame ps B (Dev.divide X s n weights) := by
  refine Dev.Tame.next ?_ hsub hbase
  unfold Dev.divide
  split
  · exact Dev.Tame.refl _ _
  · refine Dev.tame_ite ?_ ?_
    · refine Dev.modWork_tame (by decide) ?_ ..
      exact Dev.Tame.refl _ _
    · dsimp only
      refine Dev.modWork_tame (by decide) ?_ ..
      exact Dev.Tame.refl _ _

theorem Dev.tablesReady_tame {ps : Nat} {B X : Dev} (hsub : setOf [.clk, .sid, .caps, .codec, .seqr, .feat 0x16] ||| ps = ps)
    (hbase : Dev.Tame ps B X) (s dt : Nat) : Dev.Tame ps B (Dev.tablesReady X s dt) := by
  refine Dev.Tame.next ?_ hsub hbase
  unfold Dev.tablesReady
  split
  · exact Dev.Tame.refl _ _
  · dsimp only
    refine Dev.tame_ite ?_ ?_
    · refine Dev.seqPost_tame (by decide) ?_ ..
      refine Dev.modWork_tame (by decide) ?_ ..
      refine Dev.advanceTo_tame (by decide) ?_ ..
      exact Dev.Tame.refl _ _
    · refine Dev.pumpAll_tame (by decide) ?_ ..
      refine Dev.divide_tame (by decide) ?_ ..
      refine Dev.modWork_tame (by decide) ?_ ..
      refine Dev.advanceTo_tame (by decide) ?_ ..
      exact Dev.Tame.refl _ _

theorem Dev.anchorNext_tame {ps : Nat} {B X : Dev} (hsub : setOf [.caps] ||| ps = ps)
    (hbase : Dev.Tame ps B X) (s : Nat) : Dev.Tame ps B (Dev.anchorNext X s) := by
  refine Dev.Tame.next ?_ hsub hbase
  unfold Dev.anchorNext
  split
  · exact Dev.Tame.refl _ _
  · split
    split
    · refine Dev.setCap_tame (by decide) ?_ ..
      exact Dev.Tame.refl _ _
    · dsimp only
      split
      · refine Dev.tame_ite ?_ ?_
        · refine Dev.divide_tame (by decide) ?_ ..
          refine Dev.setCap_tame (by decide) ?_ ..
          exact Dev.Tame.refl _ _
        · refine Dev.setCap_tame (by decide) ?_ ..
          exact Dev.Tame.refl _ _
      · refine Dev.setCap_tame (by decide) ?_ ..
        exact Dev.Tame.refl _ _

theorem Dev.dropWork_tame {ps : Nat} {B X : Dev} (hsub : setOf [.seq, .stats, .commands, .events, .logs, .bbx, .pools, .caps, .codec, .feat 0x16] ||| ps = ps)
    (hbase : Dev.Tame ps B X) (s n reason : Nat) : Dev.Tame ps B (Dev.dropWork X s n reason) := by
  refine Dev.Tame.next ?_ hsub hbase
  unfold Dev.dropWork
  split
  · exact Dev.Tame.refl _ _
  · dsimp only
    refine Dev.pumpAll_tame (by decide) ?_ ..
    refine Dev.sweep_tame (by decide) ?_ ..
    refine Dev.anchorNext_tame (by decide) ?_ ..
    refine Dev.modCap_tame (by decide) ?_ ..
    refine Dev.reportDrop_tame (by decide) ?_ ..
    refine Dev.modWork_tame (by decide) ?_ ..
    refine Dev.stopWork_tame (by decide) ?_ ..
    exact Dev.Tame.refl _ _

theorem Dev.finishFrame_tame {ps : Nat} {B X : Dev} (hsub : setOf [.stats, .caps, .feat 0x15] ||| ps = ps)
    (hbase : Dev.Tame ps B X) (s n : Nat) : Dev.Tame ps B (Dev.finishFrame X s n) := by
  refine Dev.Tame.next ?_ hsub hbase
  unfold Dev.finishFrame
  split
  · refine Dev.tame_ite ?_ ?_
    · exact Dev.Tame.refl _ _
    · split
      split
      dsimp only
      refine Dev.tame_ite ?_ ?_
      · refine Dev.count_tame (by decide) ?_ ..
        refine Dev.count_tame (by decide) ?_ ..
        refine Dev.modWork_tame (by decide) ?_ ..
        refine Dev.modCap_tame (by decide) ?_ ..
        refine Dev.tame_ite ?_ ?_
        · exact Dev.Tame.refl _ _
        · refine Dev.bump_tame (by decide) ?_
          exact Dev.Tame.refl _ _
      · refine Dev.count_tame (by decide) ?_ ..
        refine Dev.count_tame (by decide) ?_ ..
        refine Dev.count_tame (by decide) ?_ ..
        refine Dev.modWork_tame (by decide) ?_ ..
        refine Dev.modCap_tame (by decide) ?_ ..
        refine Dev.tame_ite ?_ ?_
        · exact Dev.Tame.refl _ _
        · refine Dev.bump_tame (by decide) ?_
          exact Dev.Tame.refl _ _
  · exact Dev.Tame.refl _ _

theorem Dev.handOver_tame_rec {B : Dev} (k : Nat) : ∀ (X : Dev) (r : BandRef), Dev.Tame (setOf [.stats, .caps]) B X →
    Dev.Tame (setOf [.stats, .caps]) B (Dev.handOver X r k) := by
  induction k with
  | zero =>
    intro X r g
    unfold Dev.handOver
    assumption
  | succ k ih =>
    intro X r g
    unfold Dev.handOver
    split
    · assumption
    · split
      · assumption
      · dsimp only
        refine Dev.tame_ite ?_ ?_
        · assumption
        · apply ih
          refine Dev.tame_ite ?_ ?_
          · refine Dev.count_tame (by decide) ?_ ..
            refine Dev.tame_ite ?_ ?_
            · refine Dev.count_tame (by decide) ?_ ..
              refine Dev.count_tame (by decide) ?_ ..
              refine Dev.onBand_tame (by decide) ?_ ..
              assumption
            · refine Dev.count_tame (by decide) ?_ ..
              refine Dev.onBand_tame (by decide) ?_ ..
              assumption
          · refine Dev.tame_ite ?_ ?_
            · refine Dev.count_tame (by decide) ?_ ..
              refine Dev.count_tame (by decide) ?_ ..
              refine Dev.onBand_tame (by decide) ?_ ..
              assumption
            · refine Dev.count_tame (by decide) ?_ ..
              refine Dev.onBand_tame (by decide) ?_ ..
              assumption

theorem Dev.handOver_tame {ps : Nat} {B X : Dev} (hsub : setOf [.stats, .caps] ||| ps = ps)
    (hbase : Dev.Tame ps B X) (r : BandRef) (k : Nat) : Dev.Tame ps B (Dev.handOver X r k) :=
  Dev.Tame.next (Dev.handOver_tame_rec k _ _ (.refl _ _)) hsub hbase

theorem Dev.chargeFallback_tame {ps : Nat} {B X : Dev} (hsub : setOf [.free, .seq, .stats, .commands, .events, .flt, .twk, .bbx, .link, .caps, .codec, .sent, .feat 0x15, .feat 0x16] ||| ps = ps)
    (hbase : Dev.Tame ps B X) (r : BandRef) (w : Work) (b : Band) : Dev.Tame ps B (Dev.chargeFallback X r w b).1 := by
  refine Dev.Tame.next ?_ hsub hbase
  unfold Dev.chargeFallback
  dsimp only
  split
  · dsimp only
    refine Dev.raise_tame (by decide) ?_ ..
    refine Dev.bump_tame (by decide) ?_
    refine Dev.onAcb_tame (by decide) ?_ ..
    refine Dev.count_tame (by decide) ?_ ..
    refine Dev.bump_tame (by decide) ?_
    refine Dev.modTile_tame (by decide) ?_ ..
    exact Dev.Tame.refl _ _
  · dsimp only
    refine Dev.onAcb_tame (by decide) ?_ ..
    refine Dev.count_tame (by decide) ?_ ..
    refine Dev.bump_tame (by decide) ?_
    refine Dev.modTile_tame (by decide) ?_ ..
    exact Dev.Tame.refl _ _

theorem Dev.refBuffers_tame {ps : Nat} {B X : Dev} (hsub : setOf [.free, .seq, .stats, .commands, .events, .flt, .twk, .bbx, .link, .pools, .sent, .feat 0x1B] ||| ps = ps)
    (hbase : Dev.Tame ps B X) (r : BandRef) (w : Work) (b : Band) : Dev.Tame ps B (Dev.refBuffers X r w b).2 := by
  refine Dev.Tame.next ?_ hsub hbase
  unfold Dev.refBuffers
  dsimp only
  split
  · split
    · split
      · dsimp only
        refine Dev.freeMany_tame (by decide) ?_ ..
        refine Dev.grantMany_tame (by decide) ?_ ..
        exact Dev.Tame.refl _ _
      · dsimp only
        refine Dev.grantMany_tame (by decide) ?_ ..
        exact Dev.Tame.refl _ _
    · dsimp only
      exact Dev.Tame.refl _ _
  · split
    · split
      · dsimp only
        refine Dev.freeMany_tame (by decide) ?_ ..
        refine Dev.grantMany_tame (by decide) ?_ ..
        exact Dev.Tame.refl _ _
      · dsimp only
        refine Dev.grantMany_tame (by decide) ?_ ..
        exact Dev.Tame.refl _ _
    · dsimp only
      exact Dev.Tame.refl _ _

theorem Mach.bandPass_tame_dev {ps : Nat} {B : Dev} {X : Mach} (hsub : setOf [.free, .seq, .stats, .commands, .events, .logs, .flt, .twk, .bbx, .link, .pools, .dram, .caps, .codec, .sent, .feat 0x15, .feat 0x16] ||| ps = ps)
    (hbase : Dev.Tame ps B X.dev) (r : BandRef) (w : Work) (b : Band) (stored : List Byte) (photos : List Nat) (refs : List Nat) : Dev.Tame ps B (Mach.bandPass X r w b stored photos refs).dev := by
  refine Dev.Tame.next ?_ hsub hbase
  unfold Mach.bandPass
  dsimp only
  refine Mach.tame_ite_dev ?_ ?_
  · dsimp only
    refine Dev.dropWork_tame (by decide) ?_ ..
    split
    · refine Dev.chargeFallback_tame (by decide) ?_ ..
      refine Dev.onBand_tame (by decide) ?_ ..
      exact Dev.Tame.refl _ _
    · dsimp only
      refine Dev.onBand_tame (by decide) ?_ ..
      exact Dev.Tame.refl _ _
  · dsimp only
    refine Dev.pumpAll_tame (by decide) ?_ ..
    refine Dev.sweep_tame (by decide) ?_ ..
    refine Mach.bufWrite_tame_dev (by decide) ?_ ..
    dsimp only
    refine Dev.finishFrame_tame (by decide) ?_ ..
    refine Dev.handOver_tame (by decide) ?_ ..
    split
    · refine Dev.chargeFallback_tame (by decide) ?_ ..
      refine Dev.onBand_tame (by decide) ?_ ..
      exact Dev.Tame.refl _ _
    · dsimp only
      refine Dev.onBand_tame (by decide) ?_ ..
      exact Dev.Tame.refl _ _

theorem Mach.bandPass_tame_mem {ps : Nat} {B : Mem} {X : Mach} (hsub : setOf [.dramMem] ||| ps = ps)
    (hbase : Mem.Tame ps B X.mem) (r : BandRef) (w : Work) (b : Band) (stored : List Byte) (photos : List Nat) (refs : List Nat) : Mem.Tame ps B (Mach.bandPass X r w b stored photos refs).mem := by
  refine Mem.Tame.next ?_ hsub hbase
  unfold Mach.bandPass
  dsimp only
  refine Mach.tame_ite_mem ?_ ?_
  · dsimp only
    exact Mem.Tame.refl _ _
  · dsimp only
    refine Mach.bufWrite_tame_mem (by decide) ?_ ..
    dsimp only
    exact Mem.Tame.refl _ _

theorem Dev.bandFail_tame {ps : Nat} {B X : Dev} (hsub : setOf [.free, .seq, .stats, .commands, .events, .logs, .flt, .twk, .bbx, .link, .pools, .caps, .codec, .seqr, .sent, .feat 0x16] ||| ps = ps)
    (hbase : Dev.Tame ps B X) (r : BandRef) (b : Band) : Dev.Tame ps B (Dev.bandFail X r b) := by
  refine Dev.Tame.next ?_ hsub hbase
  unfold Dev.bandFail
  dsimp only
  split
  · refine Dev.pump_tame (by decide) ?_ ..
    refine Dev.onBand_tame (by decide) ?_ ..
    refine Dev.raise_tame (by decide) ?_ ..
    refine Dev.tellBand_tame (by decide) ?_ ..
    refine Dev.count_tame (by decide) ?_ ..
    refine Dev.bump_tame (by decide) ?_
    exact Dev.Tame.refl _ _
  · refine Dev.pump_tame (by decide) ?_ ..
    refine Dev.onBand_tame (by decide) ?_ ..
    refine Dev.raise_tame (by decide) ?_ ..
    refine Dev.tellBand_tame (by decide) ?_ ..
    refine Dev.count_tame (by decide) ?_ ..
    refine Dev.bump_tame (by decide) ?_
    exact Dev.Tame.refl _ _
  · refine Dev.pump_tame (by decide) ?_ ..
    refine Dev.onBand_tame (by decide) ?_ ..
    refine Dev.tellBand_tame (by decide) ?_ ..
    refine Dev.count_tame (by decide) ?_ ..
    refine Dev.bump_tame (by decide) ?_
    exact Dev.Tame.refl _ _
  · refine Dev.dropWork_tame (by decide) ?_ ..
    refine Dev.raise_tame (by decide) ?_ ..
    refine Dev.bump_tame (by decide) ?_
    refine Dev.tellBand_tame (by decide) ?_ ..
    refine Dev.count_tame (by decide) ?_ ..
    refine Dev.bump_tame (by decide) ?_
    exact Dev.Tame.refl _ _

theorem Mach.verifyDone_tame_dev {ps : Nat} {B : Dev} {X : Mach} (hsub : setOf [.clk, .free, .seq, .stats, .commands, .events, .logs, .flt, .twk, .bbx, .sid, .link, .pools, .dram, .caps, .codec, .seqr, .sent, .feat 0x15, .feat 0x16, .feat 0x1B, .feat 0x1E] ||| ps = ps)
    (hbase : Dev.Tame ps B X.dev) (e dt segFail : Nat) (flips : List Nat) (ecc : List (Nat × Bool)) : Dev.Tame ps B (Mach.verifyDone X e dt segFail flips ecc).dev := by
  refine Dev.Tame.next ?_ hsub hbase
  unfold Mach.verifyDone
  split
  · exact Dev.Tame.refl _ _
  · split
    · exact Dev.Tame.refl _ _
    · refine Mach.tame_ite_dev ?_ ?_
      · exact Dev.Tame.refl _ _
      · dsimp only
        split
        · dsimp only
          refine Dev.Tame.of_snd (by assumption) ?_
          split
          · refine Dev.refBuffers_tame (by decide) ?_ ..
            refine Dev.eccFound_tame (by decide) ?_ ..
            refine Dev.workEnds_tame (by decide) ?_ ..
            exact Dev.Tame.refl _ _
          · dsimp only
            refine Dev.eccFound_tame (by decide) ?_ ..
            refine Dev.workEnds_tame (by decide) ?_ ..
            exact Dev.Tame.refl _ _
        · refine Mach.tame_ite_dev ?_ ?_
          · dsimp only
            refine Dev.dropWork_tame (by decide) ?_ ..
            refine Dev.raise_tame (by decide) ?_ ..
            refine Dev.bump_tame (by decide) ?_
            refine Dev.tame_ite ?_ ?_
            · refine Dev.onMir_tame (by decide) ?_ ..
              refine Dev.Tame.of_snd (by assumption) ?_
              split
              · refine Dev.refBuffers_tame (by decide) ?_ ..
                refine Dev.eccFound_tame (by decide) ?_ ..
                refine Dev.workEnds_tame (by decide) ?_ ..
                exact Dev.Tame.refl _ _
              · dsimp only
                refine Dev.eccFound_tame (by decide) ?_ ..
                refine Dev.workEnds_tame (by decide) ?_ ..
                exact Dev.Tame.refl _ _
            · refine Dev.modWork_tame (by decide) ?_ ..
              refine Dev.onMir_tame (by decide) ?_ ..
              refine Dev.Tame.of_snd (by assumption) ?_
              split
              · refine Dev.refBuffers_tame (by decide) ?_ ..
                refine Dev.eccFound_tame (by decide) ?_ ..
                refine Dev.workEnds_tame (by decide) ?_ ..
                exact Dev.Tame.refl _ _
              · dsimp only
                refine Dev.eccFound_tame (by decide) ?_ ..
                refine Dev.workEnds_tame (by decide) ?_ ..
                exact Dev.Tame.refl _ _
          · refine Mach.tame_ite_dev ?_ ?_
            · refine Mach.bandPass_tame_dev (by decide) ?_ ..
              dsimp only
              refine Dev.tame_ite ?_ ?_
              · refine Dev.onMir_tame (by decide) ?_ ..
                refine Dev.Tame.of_snd (by assumption) ?_
                split
                · refine Dev.refBuffers_tame (by decide) ?_ ..
                  refine Dev.eccFound_tame (by decide) ?_ ..
                  refine Dev.workEnds_tame (by decide) ?_ ..
                  exact Dev.Tame.refl _ _
                · dsimp only
                  refine Dev.eccFound_tame (by decide) ?_ ..
                  refine Dev.workEnds_tame (by decide) ?_ ..
                  exact Dev.Tame.refl _ _
              · refine Dev.modWork_tame (by decide) ?_ ..
                refine Dev.onMir_tame (by decide) ?_ ..
                refine Dev.Tame.of_snd (by assumption) ?_
                split
                · refine Dev.refBuffers_tame (by decide) ?_ ..
                  refine Dev.eccFound_tame (by decide) ?_ ..
                  refine Dev.workEnds_tame (by decide) ?_ ..
                  exact Dev.Tame.refl _ _
                · dsimp only
                  refine Dev.eccFound_tame (by decide) ?_ ..
                  refine Dev.workEnds_tame (by decide) ?_ ..
                  exact Dev.Tame.refl _ _
            · dsimp only
              refine Dev.bandFail_tame (by decide) ?_ ..
              refine Dev.tame_ite ?_ ?_
              · refine Dev.onMir_tame (by decide) ?_ ..
                refine Dev.Tame.of_snd (by assumption) ?_
                split
                · refine Dev.refBuffers_tame (by decide) ?_ ..
                  refine Dev.eccFound_tame (by decide) ?_ ..
                  refine Dev.workEnds_tame (by decide) ?_ ..
                  exact Dev.Tame.refl _ _
                · dsimp only
                  refine Dev.eccFound_tame (by decide) ?_ ..
                  refine Dev.workEnds_tame (by decide) ?_ ..
                  exact Dev.Tame.refl _ _
              · refine Dev.modWork_tame (by decide) ?_ ..
                refine Dev.onMir_tame (by decide) ?_ ..
                refine Dev.Tame.of_snd (by assumption) ?_
                split
                · refine Dev.refBuffers_tame (by decide) ?_ ..
                  refine Dev.eccFound_tame (by decide) ?_ ..
                  refine Dev.workEnds_tame (by decide) ?_ ..
                  exact Dev.Tame.refl _ _
                · dsimp only
                  refine Dev.eccFound_tame (by decide) ?_ ..
                  refine Dev.workEnds_tame (by decide) ?_ ..
                  exact Dev.Tame.refl _ _

theorem Mach.verifyDone_tame_mem {ps : Nat} {B : Mem} {X : Mach} (hsub : setOf [.dramMem] ||| ps = ps)
    (hbase : Mem.Tame ps B X.mem) (e dt segFail : Nat) (flips : List Nat) (ecc : List (Nat × Bool)) : Mem.Tame ps B (Mach.verifyDone X e dt segFail flips ecc).mem := by
  refine Mem.Tame.next ?_ hsub hbase
  unfold Mach.verifyDone
  split
  · exact Mem.Tame.refl _ _
  · split
    · exact Mem.Tame.refl _ _
    · refine Mach.tame_ite_mem ?_ ?_
      · exact Mem.Tame.refl _ _
      · dsimp only
        split
        · dsimp only
          exact Mem.Tame.refl _ _
        · refine Mach.tame_ite_mem ?_ ?_
          · dsimp only
            exact Mem.Tame.refl _ _
          · refine Mach.tame_ite_mem ?_ ?_
            · refine Mach.bandPass_tame_mem (by decide) ?_ ..
              dsimp only
              exact Mem.Tame.refl _ _
            · dsimp only
              exact Mem.Tame.refl _ _

theorem Dev.divertBands_tame {ps : Nat} {B X : Dev} (hsub : setOf [.caps, .codec] ||| ps = ps)
    (hbase : Dev.Tame ps B X) (s n t cause : Nat) (p : Band → Bool) : Dev.Tame ps B (Dev.divertBands X s n t cause p) := by
  refine Dev.Tame.next ?_ hsub hbase
  unfold Dev.divertBands
  split
  · exact Dev.Tame.refl _ _
  · refine Dev.tame_foldl ?_ (fun _ _ _ => ?_)
    · exact Dev.Tame.refl _ _
    · refine Dev.tame_ite ?_ ?_
      · refine Dev.toEclipse_tame (by decide) ?_ ..
        assumption
      · assumption

theorem Dev.guardSwitch_tame {ps : Nat} {B X : Dev} (hsub : setOf [.clk, .sid, .caps, .codec, .feat 0x16] ||| ps = ps)
    (hbase : Dev.Tame ps B X) (s n t : Nat) : Dev.Tame ps B (Dev.guardSwitch X s n t) := by
  refine Dev.Tame.next ?_ hsub hbase
  unfold Dev.guardSwitch
  split
  · exact Dev.Tame.refl _ _
  · refine Dev.tame_ite ?_ ?_
    · exact Dev.Tame.refl _ _
    · dsimp only
      refine Dev.pump_tame (by decide) ?_ ..
      refine Dev.divertBands_tame (by decide) ?_ ..
      refine Dev.advanceToSid_tame (by decide) ?_ ..
      exact Dev.Tame.refl _ _

theorem Dev.deadlineGuard_tame {ps : Nat} {B X : Dev} (hsub : setOf [.clk, .sid, .caps, .codec, .seqr, .feat 0x16] ||| ps = ps)
    (hbase : Dev.Tame ps B X) (n : Nat) : Dev.Tame ps B (Dev.deadlineGuard X n) := by
  refine Dev.Tame.next ?_ hsub hbase
  unfold Dev.deadlineGuard
  dsimp only
  refine Dev.pumpAll_tame (by decide) ?_ ..
  refine Dev.tame_foldl ?_ (fun _ _ _ => ?_)
  · refine Dev.advanceToSid_tame (by decide) ?_ ..
    exact Dev.Tame.refl _ _
  · split
    · assumption
    · refine Dev.tame_ite ?_ ?_
      · assumption
      · refine Dev.tame_foldl ?_ (fun _ _ _ => ?_)
        · assumption
        · refine Dev.divertBands_tame (by decide) ?_ ..
          refine Dev.tame_ite ?_ ?_
          · assumption
          · refine Dev.tellBand_tame (by decide) ?_ ..
            assumption

theorem Dev.engineFault_tame {ps : Nat} {B X : Dev} (hsub : setOf [.free, .seq, .stats, .commands, .events, .flt, .twk, .bbx, .link, .caps, .codec, .sent] ||| ps = ps)
    (hbase : Dev.Tame ps B X) (e k : Nat) (r : BandRef) (second : Bool) : Dev.Tame ps B (Dev.engineFault X e k r second) := by
  refine Dev.Tame.next ?_ hsub hbase
  unfold Dev.engineFault
  dsimp only
  refine Dev.tame_ite ?_ ?_
  · refine Dev.tame_foldl ?_ (fun _ _ _ => ?_)
    · refine Dev.raise_tame (by decide) ?_ ..
      refine Dev.raise_tame (by decide) ?_ ..
      exact Dev.Tame.refl _ _
    · refine Dev.tame_ite ?_ ?_
      · assumption
      · refine Dev.divert_tame (by decide) ?_ ..
        assumption
  · refine Dev.raise_tame (by decide) ?_ ..
    exact Dev.Tame.refl _ _

theorem Dev.pixFault_tame {ps : Nat} {B X : Dev} (hsub : setOf [.free, .seq, .stats, .commands, .events, .flt, .twk, .bbx, .link, .caps, .codec, .sent, .feat 0x11] ||| ps = ps)
    (hbase : Dev.Tame ps B X) (e k : Nat) : Dev.Tame ps B (Dev.pixFault X e k) := by
  refine Dev.Tame.next ?_ hsub hbase
  unfold Dev.pixFault
  split
  · exact Dev.Tame.refl _ _
  · dsimp only
    refine Dev.engineFault_tame (by decide) ?_ ..
    refine Dev.bump_tame (by decide) ?_
    refine Dev.onPix_tame (by decide) ?_ ..
    refine Dev.onBand_tame (by decide) ?_ ..
    refine Dev.bqDrop_tame (by decide) ?_ ..
    exact Dev.Tame.refl _ _

theorem Dev.bqFault_tame {ps : Nat} {B X : Dev} (hsub : setOf [.free, .seq, .stats, .commands, .events, .flt, .twk, .bbx, .link, .caps, .codec, .sent, .feat 0x12, .feat 0x13] ||| ps = ps)
    (hbase : Dev.Tame ps B X) (e : Nat) : Dev.Tame ps B (Dev.bqFault X e) := by
  refine Dev.Tame.next ?_ hsub hbase
  unfold Dev.bqFault
  split
  · exact Dev.Tame.refl _ _
  · dsimp only
    refine Dev.tame_ite ?_ ?_
    · exact Dev.Tame.refl _ _
    · refine Dev.engineFault_tame (by decide) ?_ ..
      refine Dev.bump_tame (by decide) ?_
      refine Dev.bump_tame (by decide) ?_
      refine Dev.bqRewind_tame (by decide) ?_ ..
      refine Dev.onEnt_tame (by decide) ?_ ..
      refine Dev.onBand_tame (by decide) ?_ ..
      refine Dev.rewindAfter_tame (by decide) ?_ ..
      exact Dev.Tame.refl _ _

theorem Dev.entFault_tame {ps : Nat} {B X : Dev} (hsub : setOf [.free, .seq, .stats, .commands, .events, .flt, .twk, .bbx, .link, .caps, .codec, .sent, .feat 0x13] ||| ps = ps)
    (hbase : Dev.Tame ps B X) (e k : Nat) : Dev.Tame ps B (Dev.entFault X e k) := by
  refine Dev.Tame.next ?_ hsub hbase
  unfold Dev.entFault
  split
  · exact Dev.Tame.refl _ _
  · dsimp only
    refine Dev.engineFault_tame (by decide) ?_ ..
    refine Dev.bump_tame (by decide) ?_
    refine Dev.onEnt_tame (by decide) ?_ ..
    refine Dev.onBand_tame (by decide) ?_ ..
    exact Dev.Tame.refl _ _

theorem Dev.mirFault_tame {ps : Nat} {B X : Dev} (hsub : setOf [.free, .seq, .stats, .commands, .events, .flt, .twk, .bbx, .link, .caps, .codec, .sent, .feat 0x13] ||| ps = ps)
    (hbase : Dev.Tame ps B X) (e k : Nat) : Dev.Tame ps B (Dev.mirFault X e k) := by
  refine Dev.Tame.next ?_ hsub hbase
  unfold Dev.mirFault
  dsimp only
  split
  · refine Dev.engineFault_tame (by decide) ?_ ..
    refine Dev.bump_tame (by decide) ?_
    refine Dev.onMir_tame (by decide) ?_ ..
    refine Dev.onBand_tame (by decide) ?_ ..
    exact Dev.Tame.refl _ _
  · refine Dev.engineFault_tame (by decide) ?_ ..
    refine Dev.bump_tame (by decide) ?_
    refine Dev.onMir_tame (by decide) ?_ ..
    exact Dev.Tame.refl _ _
  · exact Dev.Tame.refl _ _

theorem Dev.engineReset_tame {ps : Nat} {B X : Dev} (hsub : setOf [.clk, .sid, .caps, .codec, .feat 0x16] ||| ps = ps)
    (hbase : Dev.Tame ps B X) (unit e dt : Nat) : Dev.Tame ps B (Dev.engineReset X unit e dt) := by
  refine Dev.Tame.next ?_ hsub hbase
  unfold Dev.engineReset
  dsimp only
  split
  · exact Dev.Tame.refl _ _
  · refine Dev.pump_tame (by decide) ?_ ..
    split
    · refine Dev.onPix_tame (by decide) ?_ ..
      refine Dev.advanceTo_tame (by decide) ?_ ..
      exact Dev.Tame.refl _ _
    · refine Dev.onEnt_tame (by decide) ?_ ..
      refine Dev.advanceTo_tame (by decide) ?_ ..
      exact Dev.Tame.refl _ _
    · refine Dev.onMir_tame (by decide) ?_ ..
      refine Dev.advanceTo_tame (by decide) ?_ ..
      exact Dev.Tame.refl _ _

end Sys2Proof.Machine
end

