-- ==== Sys2Proof/Laws/FrameReserve.lean ====
section
/-! SUPPORT. What each operation of Machine/Reserve.lean may change. -/

namespace Sys2Proof.Machine
open Sys2Proof

theorem Dev.reservePools_tame {ps : Nat} {B X : Dev} (hsub : setOf [.pools] ||| ps = ps)
    (hbase : Dev.Tame ps B X) (l : List (Nat × Cap)) : Dev.Tame ps B (Dev.reservePools X l) := by
  refine Dev.Tame.next ?_ hsub hbase
  unfold Dev.reservePools
  refine Dev.tame_foldl ?_ (fun _ _ _ => ?_)
  · exact Dev.Tame.refl _ _
  · dsimp only
    refine Dev.onPool_tame (by decide) ?_ ..
    assumption

theorem Dev.reserveAgain_tame {ps : Nat} {B X : Dev} (hsub : setOf [.pools] ||| ps = ps)
    (hbase : Dev.Tame ps B X) : Dev.Tame ps B (Dev.reserveAgain X) := by
  refine Dev.Tame.next ?_ hsub hbase
  unfold Dev.reserveAgain
  refine Dev.reservePools_tame (by decide) ?_ ..
  exact Dev.Tame.refl _ _

end Sys2Proof.Machine
end

