-- ==== Sys2Proof/Laws/FrameFaults.lean ====
section
/-! SUPPORT. What each operation of Machine/Faults.lean may change. -/

namespace Sys2Proof.Machine
open Sys2Proof

theorem Mach.bbxWrite_tame_dev {ps : Nat} {B : Dev} {X : Mach} (hsub : setOf [.bbx] ||| ps = ps)
    (hbase : Dev.Tame ps B X.dev) (e : BbxItem) : Dev.Tame ps B (Mach.bbxWrite X e).dev := by
  refine Dev.Tame.next ?_ hsub hbase
  unfold Mach.bbxWrite
  split
  · exact Dev.Tame.refl _ _
  · dsimp only
    refine Dev.onBbx_tame (by decide) ?_ ..
    exact Dev.Tame.refl _ _

theorem Mach.bbxWrite_tame_mem {ps : Nat} {B : Mem} {X : Mach} (hsub : setOf [.mram] ||| ps = ps)
    (hbase : Mem.Tame ps B X.mem) (e : BbxItem) : Mem.Tame ps B (Mach.bbxWrite X e).mem := by
  refine Mem.Tame.next ?_ hsub hbase
  unfold Mach.bbxWrite
  split
  · exact Mem.Tame.refl _ _
  · dsimp only
    refine Mem.setEntry_tame (by decide) ?_ ..
    exact Mem.Tame.refl _ _

theorem Mach.bbxAll_tame_dev_rec {B : Dev} (k : List BbxItem) : ∀ (X : Mach), Dev.Tame (setOf [.bbx]) B X.dev →
    Dev.Tame (setOf [.bbx]) B (Mach.bbxAll X k).dev := by
  induction k with
  | nil =>
    intro X g
    unfold Mach.bbxAll
    assumption
  | cons y r ih_dev =>
    intro X g
    unfold Mach.bbxAll
    apply ih_dev
    refine Mach.bbxWrite_tame_dev (by decide) ?_ ..
    assumption

theorem Mach.bbxAll_tame_dev {ps : Nat} {B : Dev} {X : Mach} (hsub : setOf [.bbx] ||| ps = ps)
    (hbase : Dev.Tame ps B X.dev) (k : List BbxItem) : Dev.Tame ps B (Mach.bbxAll X k).dev :=
  Dev.Tame.next (Mach.bbxAll_tame_dev_rec k _ (.refl _ _)) hsub hbase

theorem Mach.bbxAll_tame_mem_rec {B : Mem} (k : List BbxItem) : ∀ (X : Mach), Mem.Tame (setOf [.mram]) B X.mem →
    Mem.Tame (setOf [.mram]) B (Mach.bbxAll X k).mem := by
  induction k with
  | nil =>
    intro X g
    unfold Mach.bbxAll
    assumption
  | cons y r ih_mem =>
    intro X g
    unfold Mach.bbxAll
    apply ih_mem
    refine Mach.bbxWrite_tame_mem (by decide) ?_ ..
    assumption

theorem Mach.bbxAll_tame_mem {ps : Nat} {B : Mem} {X : Mach} (hsub : setOf [.mram] ||| ps = ps)
    (hbase : Mem.Tame ps B X.mem) (k : List BbxItem) : Mem.Tame ps B (Mach.bbxAll X k).mem :=
  Mem.Tame.next (Mach.bbxAll_tame_mem_rec k _ (.refl _ _)) hsub hbase

theorem Mach.bbxDrain_tame_dev {ps : Nat} {B : Dev} {X : Mach} (hsub : setOf [.bbx] ||| ps = ps)
    (hbase : Dev.Tame ps B X.dev) : Dev.Tame ps B (Mach.bbxDrain X).dev := by
  refine Dev.Tame.next ?_ hsub hbase
  unfold Mach.bbxDrain
  refine Mach.bbxAll_tame_dev (by decide) ?_ ..
  dsimp only
  refine Dev.onBbx_tame (by decide) ?_ ..
  exact Dev.Tame.refl _ _

theorem Mach.bbxDrain_tame_mem {ps : Nat} {B : Mem} {X : Mach} (hsub : setOf [.mram] ||| ps = ps)
    (hbase : Mem.Tame ps B X.mem) : Mem.Tame ps B (Mach.bbxDrain X).mem := by
  refine Mem.Tame.next ?_ hsub hbase
  unfold Mach.bbxDrain
  refine Mach.bbxAll_tame_mem (by decide) ?_ ..
  dsimp only
  exact Mem.Tame.refl _ _

theorem Mach.bbxClear_tame_dev {ps : Nat} {B : Dev} {X : Mach} (hsub : setOf [.seq, .bbx] ||| ps = ps)
    (hbase : Dev.Tame ps B X.dev) (mask : Nat) : Dev.Tame ps B (Mach.bbxClear X mask).dev := by
  refine Dev.Tame.next ?_ hsub hbase
  unfold Mach.bbxClear
  dsimp only
  refine Dev.onBbx_tame (by decide) ?_ ..
  refine Dev.stamped_tame (by decide) ?_ ..
  exact Dev.Tame.refl _ _

theorem Mach.bbxClear_tame_mem {ps : Nat} {B : Mem} {X : Mach} (hsub : setOf [.mram] ||| ps = ps)
    (hbase : Mem.Tame ps B X.mem) (mask : Nat) : Mem.Tame ps B (Mach.bbxClear X mask).mem := by
  refine Mem.Tame.next ?_ hsub hbase
  unfold Mach.bbxClear
  dsimp only
  refine Mem.setEntry_tame (by decide) ?_ ..
  refine Mem.tame_mram (by decide) (fun w => ?_) ?_
  · exact Tbl.wfFrom_drop _ _ w
  · exact Mem.Tame.refl _ _

end Sys2Proof.Machine
end

