-- ==== Sys2Proof/Laws/FrameSeq.lean ====
section
/-! SUPPORT. What each operation of Machine/Seq.lean may change. -/

namespace Sys2Proof.Machine
open Sys2Proof

theorem Dev.onThread_tame {ps : Nat} {B X : Dev} (hsub : setOf [.seqr] ||| ps = ps)
    (hbase : Dev.Tame ps B X) (t : Nat) (f : SeqThread → SeqThread) : Dev.Tame ps B (Dev.onThread X t f) := by
  refine Dev.Tame.next ?_ hsub hbase
  unfold Dev.onThread
  refine Dev.onSeq_tame (by decide) ?_ ..
  exact Dev.Tame.refl _ _

theorem Dev.onItems_tame {ps : Nat} {B X : Dev} (hsub : setOf [.caps] ||| ps = ps)
    (hbase : Dev.Tame ps B X) (t s n : Nat) (f : List (Nat × List Byte) → List (Nat × List Byte)) : Dev.Tame ps B (Dev.onItems X t s n f) := by
  refine Dev.Tame.next ?_ hsub hbase
  unfold Dev.onItems
  refine Dev.modWork_tame (by decide) ?_ ..
  exact Dev.Tame.refl _ _

theorem Dev.metaTag_tame {ps : Nat} {B X : Dev} (hsub : setOf [.caps, .seqr, .feat 0x19] ||| ps = ps)
    (hbase : Dev.Tame ps B X) (t v : Nat) : Dev.Tame ps B (Dev.metaTag X t v) := by
  refine Dev.Tame.next ?_ hsub hbase
  unfold Dev.metaTag
  dsimp only
  split
  · refine Dev.tame_ite ?_ ?_
    · refine Dev.bump_tame (by decide) ?_
      exact Dev.Tame.refl _ _
    · exact Dev.Tame.refl _ _
  · refine Dev.onThread_tame (by decide) ?_ ..
    refine Dev.onItems_tame (by decide) ?_ ..
    refine Dev.tame_ite ?_ ?_
    · refine Dev.bump_tame (by decide) ?_
      exact Dev.Tame.refl _ _
    · exact Dev.Tame.refl _ _

theorem Dev.metaWord_tame {ps : Nat} {B X : Dev} (hsub : setOf [.caps, .seqr] ||| ps = ps)
    (hbase : Dev.Tame ps B X) (t v : Nat) : Dev.Tame ps B (Dev.metaWord X t v) := by
  refine Dev.Tame.next ?_ hsub hbase
  unfold Dev.metaWord
  split
  · dsimp only
    refine Dev.onItems_tame (by decide) ?_ ..
    refine Dev.tame_ite ?_ ?_
    · exact Dev.Tame.refl _ _
    · refine Dev.onThread_tame (by decide) ?_ ..
      refine Dev.onItems_tame (by decide) ?_ ..
      exact Dev.Tame.refl _ _
  · exact Dev.Tame.refl _ _

theorem Dev.postCustomer_tame {ps : Nat} {B X : Dev} (hsub : setOf [.seqr, .feat 0x19] ||| ps = ps)
    (hbase : Dev.Tame ps B X) (t v arg : Nat) : Dev.Tame ps B (Dev.postCustomer X t v arg) := by
  refine Dev.Tame.next ?_ hsub hbase
  unfold Dev.postCustomer
  refine Dev.tame_ite ?_ ?_
  · refine Dev.bump_tame (by decide) ?_
    exact Dev.Tame.refl _ _
  · refine Dev.seqPost_tame (by decide) ?_ ..
    exact Dev.Tame.refl _ _

theorem Dev.post_tame {ps : Nat} {B X : Dev} (hsub : setOf [.seqr, .feat 0x19] ||| ps = ps)
    (hbase : Dev.Tame ps B X) (t v : Nat) : Dev.Tame ps B (Dev.post X t v) := by
  refine Dev.Tame.next ?_ hsub hbase
  unfold Dev.post
  dsimp only
  refine Dev.tame_ite ?_ ?_
  · refine Dev.onThread_tame (by decide) ?_ ..
    exact Dev.Tame.refl _ _
  · refine Dev.postCustomer_tame (by decide) ?_ ..
    exact Dev.Tame.refl _ _

theorem Mach.decided_tame_dev {ps : Nat} {B : Dev} {X : Mach} (hsub : setOf [.free, .seq, .stats, .commands, .events, .flt, .twk, .bbx, .link, .dram, .caps, .codec, .seqr, .sent, .feat 0x14, .feat 0x16, .feat 0x1E] ||| ps = ps)
    (hbase : Dev.Tame ps B X.dev) (dec : Decision) (q : Requests) : Dev.Tame ps B (Mach.decided X dec q).dev := by
  refine Dev.Tame.next ?_ hsub hbase
  unfold Mach.decided
  dsimp only
  split
  · refine Mach.tame_ite_dev ?_ ?_
    · refine Mach.attemptStart_tame_dev (by decide) ?_ ..
      dsimp only
      refine Dev.onBand_tame (by decide) ?_ ..
      exact Dev.Tame.refl _ _
    · exact Dev.Tame.refl _ _
  · refine Mach.tame_ite_dev ?_ ?_
    · dsimp only
      refine Dev.pump_tame (by decide) ?_ ..
      refine Dev.measureDecided_tame (by decide) ?_ ..
      exact Dev.Tame.refl _ _
    · exact Dev.Tame.refl _ _
  · refine Mach.tame_ite_dev ?_ ?_
    · dsimp only
      refine Dev.secondAttempt_tame (by decide) ?_ ..
      exact Dev.Tame.refl _ _
    · exact Dev.Tame.refl _ _
  · refine Mach.tame_ite_dev ?_ ?_
    · dsimp only
      refine Dev.pump_tame (by decide) ?_ ..
      refine Mach.eclipseDecided_tame_dev (by decide) ?_ ..
      exact Dev.Tame.refl _ _
    · exact Dev.Tame.refl _ _
  · split
    · exact Dev.Tame.refl _ _
    · refine Mach.tame_ite_dev ?_ ?_
      · exact Dev.Tame.refl _ _
      · dsimp only
        refine Dev.pumpAll_tame (by decide) ?_ ..
        refine Dev.divide_tame (by decide) ?_ ..
        refine Dev.tame_foldl ?_ (fun _ _ _ => ?_)
        · exact Dev.Tame.refl _ _
        · refine Dev.countClamp_tame (by decide) ?_ ..
          assumption

theorem Mach.decided_tame_mem {ps : Nat} {B : Mem} {X : Mach} (hsub : setOf [] ||| ps = ps)
    (hbase : Mem.Tame ps B X.mem) (dec : Decision) (q : Requests) : Mem.Tame ps B (Mach.decided X dec q).mem := by
  refine Mem.Tame.next ?_ hsub hbase
  unfold Mach.decided
  dsimp only
  split
  · refine Mach.tame_ite_mem ?_ ?_
    · refine Mach.attemptStart_tame_mem (by decide) ?_ ..
      dsimp only
      exact Mem.Tame.refl _ _
    · exact Mem.Tame.refl _ _
  · refine Mach.tame_ite_mem ?_ ?_
    · dsimp only
      exact Mem.Tame.refl _ _
    · exact Mem.Tame.refl _ _
  · refine Mach.tame_ite_mem ?_ ?_
    · dsimp only
      exact Mem.Tame.refl _ _
    · exact Mem.Tame.refl _ _
  · refine Mach.tame_ite_mem ?_ ?_
    · dsimp only
      refine Mach.eclipseDecided_tame_mem (by decide) ?_ ..
      exact Mem.Tame.refl _ _
    · exact Mem.Tame.refl _ _
  · split
    · exact Mem.Tame.refl _ _
    · refine Mach.tame_ite_mem ?_ ?_
      · exact Mem.Tame.refl _ _
      · dsimp only
        exact Mem.Tame.refl _ _

theorem Mach.endHandler_tame_dev {ps : Nat} {B : Dev} {X : Mach} (hsub : setOf [.free, .seq, .stats, .commands, .events, .flt, .twk, .bbx, .link, .dram, .caps, .codec, .seqr, .sent, .feat 0x14, .feat 0x16, .feat 0x19, .feat 0x1E] ||| ps = ps)
    (hbase : Dev.Tame ps B X.dev) (t : Nat) (forced : Bool) : Dev.Tame ps B (Mach.endHandler X t forced).dev := by
  refine Dev.Tame.next ?_ hsub hbase
  unfold Mach.endHandler
  dsimp only
  split
  · refine Mach.decided_tame_dev (by decide) ?_ ..
    dsimp only
    refine Dev.tame_ite ?_ ?_
    · refine Dev.raise_tame (by decide) ?_ ..
      refine Dev.bump_tame (by decide) ?_
      refine Dev.onThread_tame (by decide) ?_ ..
      exact Dev.Tame.refl _ _
    · refine Dev.onThread_tame (by decide) ?_ ..
      exact Dev.Tame.refl _ _
  · dsimp only
    refine Dev.tame_ite ?_ ?_
    · refine Dev.raise_tame (by decide) ?_ ..
      refine Dev.bump_tame (by decide) ?_
      refine Dev.onThread_tame (by decide) ?_ ..
      exact Dev.Tame.refl _ _
    · refine Dev.onThread_tame (by decide) ?_ ..
      exact Dev.Tame.refl _ _

theorem Mach.endHandler_tame_mem {ps : Nat} {B : Mem} {X : Mach} (hsub : setOf [] ||| ps = ps)
    (hbase : Mem.Tame ps B X.mem) (t : Nat) (forced : Bool) : Mem.Tame ps B (Mach.endHandler X t forced).mem := by
  refine Mem.Tame.next ?_ hsub hbase
  unfold Mach.endHandler
  dsimp only
  split
  · refine Mach.decided_tame_mem (by decide) ?_ ..
    dsimp only
    exact Mem.Tame.refl _ _
  · dsimp only
    exact Mem.Tame.refl _ _

theorem Mach.storeParity_tame_dev {ps : Nat} {B : Dev} {X : Mach} (hsub : setOf [.free, .seq, .stats, .commands, .events, .flt, .twk, .bbx, .link, .dram, .caps, .codec, .seqr, .sent, .feat 0x14, .feat 0x16, .feat 0x19, .feat 0x1E] ||| ps = ps)
    (hbase : Dev.Tame ps B X.dev) (t addr : Nat) : Dev.Tame ps B (Mach.storeParity X t addr).dev := by
  refine Dev.Tame.next ?_ hsub hbase
  unfold Mach.storeParity
  refine Mach.endHandler_tame_dev (by decide) ?_ ..
  dsimp only
  refine Dev.raise_tame (by decide) ?_ ..
  exact Dev.Tame.refl _ _

theorem Mach.storeParity_tame_mem {ps : Nat} {B : Mem} {X : Mach} (hsub : setOf [] ||| ps = ps)
    (hbase : Mem.Tame ps B X.mem) (t addr : Nat) : Mem.Tame ps B (Mach.storeParity X t addr).mem := by
  refine Mem.Tame.next ?_ hsub hbase
  unfold Mach.storeParity
  refine Mach.endHandler_tame_mem (by decide) ?_ ..
  dsimp only
  exact Mem.Tame.refl _ _

theorem Dev.writeDst_tame {ps : Nat} {B X : Dev} (hsub : setOf [.caps, .seqr, .feat 0x19] ||| ps = ps)
    (hbase : Dev.Tame ps B X) (t dst v : Nat) : Dev.Tame ps B (Dev.writeDst X t dst v) := by
  refine Dev.Tame.next ?_ hsub hbase
  unfold Dev.writeDst
  refine Dev.tame_ite ?_ ?_
  · refine Dev.onThread_tame (by decide) ?_ ..
    exact Dev.Tame.refl _ _
  · split
    · refine Dev.onThread_tame (by decide) ?_ ..
      exact Dev.Tame.refl _ _
    · refine Dev.onThread_tame (by decide) ?_ ..
      exact Dev.Tame.refl _ _
    · refine Dev.onThread_tame (by decide) ?_ ..
      exact Dev.Tame.refl _ _
    · refine Dev.onThread_tame (by decide) ?_ ..
      exact Dev.Tame.refl _ _
    · refine Dev.tame_ite ?_ ?_
      · refine Dev.onThread_tame (by decide) ?_ ..
        exact Dev.Tame.refl _ _
      · exact Dev.Tame.refl _ _
    · refine Dev.metaTag_tame (by decide) ?_ ..
      exact Dev.Tame.refl _ _
    · refine Dev.metaWord_tame (by decide) ?_ ..
      exact Dev.Tame.refl _ _
    · refine Dev.post_tame (by decide) ?_ ..
      exact Dev.Tame.refl _ _
    · exact Dev.Tame.refl _ _

theorem Dev.runNano_tame {ps : Nat} {B X : Dev} (hsub : setOf [.caps, .seqr, .feat 0x19] ||| ps = ps)
    (hbase : Dev.Tame ps B X) (t nano : Nat) : Dev.Tame ps B (Dev.runNano X t nano) := by
  refine Dev.Tame.next ?_ hsub hbase
  unfold Dev.runNano
  dsimp only
  split
  · refine Dev.onThread_tame (by decide) ?_ ..
    refine Dev.tame_foldl ?_ (fun _ _ _ => ?_)
    · exact Dev.Tame.refl _ _
    · refine Dev.writeDst_tame (by decide) ?_ ..
      assumption
  · refine Dev.tame_foldl ?_ (fun _ _ _ => ?_)
    · exact Dev.Tame.refl _ _
    · refine Dev.writeDst_tame (by decide) ?_ ..
      assumption

theorem Dev.waitEnds_tame {ps : Nat} {B X : Dev} (hsub : setOf [.seqr] ||| ps = ps)
    (hbase : Dev.Tame ps B X) (t w : Nat) : Dev.Tame ps B (Dev.waitEnds X t w) := by
  refine Dev.Tame.next ?_ hsub hbase
  unfold Dev.waitEnds
  dsimp only
  refine Dev.tame_ite ?_ ?_
  · exact Dev.Tame.refl _ _
  · refine Dev.onThread_tame (by decide) ?_ ..
    exact Dev.Tame.refl _ _

theorem Mach.runWord_tame_dev {ps : Nat} {B : Dev} {X : Mach} (hsub : setOf [.free, .seq, .stats, .commands, .events, .flt, .twk, .bbx, .link, .dram, .caps, .codec, .seqr, .sent, .feat 0x14, .feat 0x16, .feat 0x19, .feat 0x1E] ||| ps = ps)
    (hbase : Dev.Tame ps B X.dev) (t a : Nat) : Dev.Tame ps B (Mach.runWord X t a).dev := by
  refine Dev.Tame.next ?_ hsub hbase
  unfold Mach.runWord
  dsimp only
  split
  · dsimp only
    refine Dev.onThread_tame (by decide) ?_ ..
    refine Dev.onThread_tame (by decide) ?_ ..
    refine Dev.runNano_tame (by decide) ?_ ..
    refine Dev.waitEnds_tame (by decide) ?_ ..
    exact Dev.Tame.refl _ _
  · dsimp only
    refine Dev.onThread_tame (by decide) ?_ ..
    refine Dev.onThread_tame (by decide) ?_ ..
    refine Dev.runNano_tame (by decide) ?_ ..
    refine Dev.waitEnds_tame (by decide) ?_ ..
    exact Dev.Tame.refl _ _
  · dsimp only
    refine Dev.onThread_tame (by decide) ?_ ..
    refine Dev.onThread_tame (by decide) ?_ ..
    refine Dev.runNano_tame (by decide) ?_ ..
    refine Dev.waitEnds_tame (by decide) ?_ ..
    exact Dev.Tame.refl _ _
  · dsimp only
    refine Dev.onThread_tame (by decide) ?_ ..
    refine Dev.onThread_tame (by decide) ?_ ..
    refine Dev.runNano_tame (by decide) ?_ ..
    refine Dev.waitEnds_tame (by decide) ?_ ..
    exact Dev.Tame.refl _ _
  · refine Mach.tame_ite_dev ?_ ?_
    · refine Mach.endHandler_tame_dev (by decide) ?_ ..
      dsimp only
      refine Dev.onThread_tame (by decide) ?_ ..
      refine Dev.runNano_tame (by decide) ?_ ..
      refine Dev.waitEnds_tame (by decide) ?_ ..
      exact Dev.Tame.refl _ _
    · dsimp only
      refine Dev.onThread_tame (by decide) ?_ ..
      refine Dev.onThread_tame (by decide) ?_ ..
      refine Dev.runNano_tame (by decide) ?_ ..
      refine Dev.waitEnds_tame (by decide) ?_ ..
      exact Dev.Tame.refl _ _
  · split
    · refine Mach.endHandler_tame_dev (by decide) ?_ ..
      dsimp only
      refine Dev.onThread_tame (by decide) ?_ ..
      refine Dev.runNano_tame (by decide) ?_ ..
      refine Dev.waitEnds_tame (by decide) ?_ ..
      exact Dev.Tame.refl _ _
    · dsimp only
      refine Dev.onThread_tame (by decide) ?_ ..
      refine Dev.onThread_tame (by decide) ?_ ..
      refine Dev.runNano_tame (by decide) ?_ ..
      refine Dev.waitEnds_tame (by decide) ?_ ..
      exact Dev.Tame.refl _ _
  · refine Mach.endHandler_tame_dev (by decide) ?_ ..
    dsimp only
    refine Dev.onThread_tame (by decide) ?_ ..
    refine Dev.runNano_tame (by decide) ?_ ..
    refine Dev.waitEnds_tame (by decide) ?_ ..
    exact Dev.Tame.refl _ _
  · dsimp only
    refine Dev.onThread_tame (by decide) ?_ ..
    refine Dev.onThread_tame (by decide) ?_ ..
    refine Dev.runNano_tame (by decide) ?_ ..
    refine Dev.waitEnds_tame (by decide) ?_ ..
    exact Dev.Tame.refl _ _

theorem Mach.runWord_tame_mem {ps : Nat} {B : Mem} {X : Mach} (hsub : setOf [] ||| ps = ps)
    (hbase : Mem.Tame ps B X.mem) (t a : Nat) : Mem.Tame ps B (Mach.runWord X t a).mem := by
  refine Mem.Tame.next ?_ hsub hbase
  unfold Mach.runWord
  dsimp only
  split
  · dsimp only
    exact Mem.Tame.refl _ _
  · dsimp only
    exact Mem.Tame.refl _ _
  · dsimp only
    exact Mem.Tame.refl _ _
  · dsimp only
    exact Mem.Tame.refl _ _
  · refine Mach.tame_ite_mem ?_ ?_
    · refine Mach.endHandler_tame_mem (by decide) ?_ ..
      dsimp only
      exact Mem.Tame.refl _ _
    · dsimp only
      exact Mem.Tame.refl _ _
  · split
    · refine Mach.endHandler_tame_mem (by decide) ?_ ..
      dsimp only
      exact Mem.Tame.refl _ _
    · dsimp only
      exact Mem.Tame.refl _ _
  · refine Mach.endHandler_tame_mem (by decide) ?_ ..
    dsimp only
    exact Mem.Tame.refl _ _
  · dsimp only
    exact Mem.Tame.refl _ _

theorem Dev.startWait_tame {ps : Nat} {B X : Dev} (hsub : setOf [.seqr] ||| ps = ps)
    (hbase : Dev.Tame ps B X) (t w : Nat) : Dev.Tame ps B (Dev.startWait X t w) := by
  refine Dev.Tame.next ?_ hsub hbase
  unfold Dev.startWait
  split
  · exact Dev.Tame.refl _ _
  · refine Dev.onThread_tame (by decide) ?_ ..
    exact Dev.Tame.refl _ _

theorem Mach.issue_tame_dev {ps : Nat} {B : Dev} {X : Mach} (hsub : setOf [.free, .seq, .stats, .commands, .events, .flt, .twk, .bbx, .link, .dram, .caps, .codec, .seqr, .sent, .feat 0x14, .feat 0x16, .feat 0x19, .feat 0x1E] ||| ps = ps)
    (hbase : Dev.Tame ps B X.dev) (t next par : Nat) : Dev.Tame ps B (Mach.issue X t next par).dev := by
  refine Dev.Tame.next ?_ hsub hbase
  unfold Mach.issue
  dsimp only
  split
  · exact Dev.Tame.refl _ _
  · refine Mach.tame_ite_dev ?_ ?_
    · exact Dev.Tame.refl _ _
    · refine Mach.tame_ite_dev ?_ ?_
      · refine Mach.storeParity_tame_dev (by decide) ?_ ..
        exact Dev.Tame.refl _ _
      · refine Mach.tame_ite_dev ?_ ?_
        · refine Mach.storeParity_tame_dev (by decide) ?_ ..
          exact Dev.Tame.refl _ _
        · refine Mach.tame_ite_dev ?_ ?_
          · dsimp only
            refine Dev.startWait_tame (by decide) ?_ ..
            exact Dev.Tame.refl _ _
          · refine Mach.tame_ite_dev ?_ ?_
            · refine Mach.runWord_tame_dev (by decide) ?_ ..
              exact Dev.Tame.refl _ _
            · dsimp only
              refine Dev.startWait_tame (by decide) ?_ ..
              exact Dev.Tame.refl _ _

theorem Mach.issue_tame_mem {ps : Nat} {B : Mem} {X : Mach} (hsub : setOf [] ||| ps = ps)
    (hbase : Mem.Tame ps B X.mem) (t next par : Nat) : Mem.Tame ps B (Mach.issue X t next par).mem := by
  refine Mem.Tame.next ?_ hsub hbase
  unfold Mach.issue
  dsimp only
  split
  · exact Mem.Tame.refl _ _
  · refine Mach.tame_ite_mem ?_ ?_
    · exact Mem.Tame.refl _ _
    · refine Mach.tame_ite_mem ?_ ?_
      · refine Mach.storeParity_tame_mem (by decide) ?_ ..
        exact Mem.Tame.refl _ _
      · refine Mach.tame_ite_mem ?_ ?_
        · refine Mach.storeParity_tame_mem (by decide) ?_ ..
          exact Mem.Tame.refl _ _
        · refine Mach.tame_ite_mem ?_ ?_
          · dsimp only
            exact Mem.Tame.refl _ _
          · refine Mach.tame_ite_mem ?_ ?_
            · refine Mach.runWord_tame_mem (by decide) ?_ ..
              exact Mem.Tame.refl _ _
            · dsimp only
              exact Mem.Tame.refl _ _

theorem Dev.hostEvent_tame {ps : Nat} {B X : Dev} (hsub : setOf [.seqr, .feat 0x19] ||| ps = ps)
    (hbase : Dev.Tame ps B X) (v : Nat) : Dev.Tame ps B (Dev.hostEvent X v) := by
  refine Dev.Tame.next ?_ hsub hbase
  unfold Dev.hostEvent
  refine Dev.tame_ite ?_ ?_
  · exact Dev.Tame.refl _ _
  · refine Dev.postCustomer_tame (by decide) ?_ ..
    exact Dev.Tame.refl _ _

theorem Dev.installUcode_tame {ps : Nat} {B X : Dev} (hsub : setOf [.seqr] ||| ps = ps)
    (hbase : Dev.Tame ps B X) (u : Ucode) : Dev.Tame ps B (Dev.installUcode X u) := by
  refine Dev.Tame.next ?_ hsub hbase
  unfold Dev.installUcode
  refine Dev.onSeq_tame (by decide) ?_ ..
  exact Dev.Tame.refl _ _

end Sys2Proof.Machine
end

