-- ==== Sys2Proof/Laws/FrameVolume.lean ====
section
/-! SUPPORT. What each operation of Machine/Volume.lean may change. -/

namespace Sys2Proof.Machine
open Sys2Proof

theorem Mem.putCarrier_tame {ps : Nat} {B X : Mem} (hsub : setOf [.carriers] ||| ps = ps)
    (hbase : Mem.Tame ps B X) (c : Carrier) : Mem.Tame ps B (Mem.putCarrier X c) := by
  refine Mem.Tame.next ?_ hsub hbase
  unfold Mem.putCarrier
  refine Mem.tame_ite ?_ ?_
  · refine Mem.tame_carriers (by decide) ?_
    exact Mem.Tame.refl _ _
  · refine Mem.tame_carriers (by decide) ?_
    exact Mem.Tame.refl _ _

theorem Mach.onCarrier_tame_dev {ps : Nat} {B : Dev} {X : Mach} (hsub : setOf [] ||| ps = ps)
    (hbase : Dev.Tame ps B X.dev) (p : Nat) (f : Carrier → Carrier) : Dev.Tame ps B (Mach.onCarrier X p f).dev := by
  refine Dev.Tame.next ?_ hsub hbase
  unfold Mach.onCarrier
  split
  · refine Mach.tame_mk_dev ?_
    exact Dev.Tame.refl _ _
  · exact Dev.Tame.refl _ _

theorem Mach.onCarrier_tame_mem {ps : Nat} {B : Mem} {X : Mach} (hsub : setOf [.carriers] ||| ps = ps)
    (hbase : Mem.Tame ps B X.mem) (p : Nat) (f : Carrier → Carrier) : Mem.Tame ps B (Mach.onCarrier X p f).mem := by
  refine Mem.Tame.next ?_ hsub hbase
  unfold Mach.onCarrier
  split
  · refine Mach.tame_mk_mem ?_
    refine Mem.putCarrier_tame (by decide) ?_ ..
    exact Mem.Tame.refl _ _
  · exact Mem.Tame.refl _ _

theorem Mach.programPages_tame_dev {ps : Nat} {B : Dev} {X : Mach} (hsub : setOf [] ||| ps = ps)
    (hbase : Dev.Tame ps B X.dev) (p : Nat) (l : List (Nat × List Byte)) : Dev.Tame ps B (Mach.programPages X p l).dev := by
  refine Dev.Tame.next ?_ hsub hbase
  unfold Mach.programPages
  refine Mach.onCarrier_tame_dev (by decide) ?_ ..
  exact Dev.Tame.refl _ _

theorem Mach.programPages_tame_mem {ps : Nat} {B : Mem} {X : Mach} (hsub : setOf [.carriers] ||| ps = ps)
    (hbase : Mem.Tame ps B X.mem) (p : Nat) (l : List (Nat × List Byte)) : Mem.Tame ps B (Mach.programPages X p l).mem := by
  refine Mem.Tame.next ?_ hsub hbase
  unfold Mach.programPages
  refine Mach.onCarrier_tame_mem (by decide) ?_ ..
  exact Mem.Tame.refl _ _

theorem Dev.onVol_tame {ps : Nat} {B X : Dev} (hsub : setOf [.mags] ||| ps = ps)
    (hbase : Dev.Tame ps B X) (p : Nat) (f : Volume → Volume) : Dev.Tame ps B (Dev.onVol X p f) := by
  refine Dev.Tame.next ?_ hsub hbase
  unfold Dev.onVol
  refine Dev.onMag_tame (by decide) ?_ ..
  exact Dev.Tame.refl _ _

theorem Mach.eraseBlock_tame_dev {ps : Nat} {B : Dev} {X : Mach} (hsub : setOf [.stats, .mags] ||| ps = ps)
    (hbase : Dev.Tame ps B X.dev) (p die block : Nat) : Dev.Tame ps B (Mach.eraseBlock X p die block).dev := by
  refine Dev.Tame.next ?_ hsub hbase
  unfold Mach.eraseBlock
  dsimp only
  refine Dev.count_tame (by decide) ?_ ..
  refine Dev.onVol_tame (by decide) ?_ ..
  refine Mach.onCarrier_tame_dev (by decide) ?_ ..
  exact Dev.Tame.refl _ _

theorem Mach.eraseBlock_tame_mem {ps : Nat} {B : Mem} {X : Mach} (hsub : setOf [.carriers] ||| ps = ps)
    (hbase : Mem.Tame ps B X.mem) (p die block : Nat) : Mem.Tame ps B (Mach.eraseBlock X p die block).mem := by
  refine Mem.Tame.next ?_ hsub hbase
  unfold Mach.eraseBlock
  dsimp only
  refine Mach.onCarrier_tame_mem (by decide) ?_ ..
  exact Mem.Tame.refl _ _

theorem Mach.putStripe_tame_dev {ps : Nat} {B : Dev} {X : Mach} (hsub : setOf [.stats, .mags, .feat 0x1D] ||| ps = ps)
    (hbase : Dev.Tame ps B X.dev) (p grp b w kind : Nat) (units : List StripeUnit) : Dev.Tame ps B (Mach.putStripe X p grp b w kind units).dev := by
  refine Dev.Tame.next ?_ hsub hbase
  unfold Mach.putStripe
  dsimp only
  refine Dev.bump_tame (by decide) ?_
  refine Dev.count_tame (by decide) ?_ ..
  refine Dev.count_tame (by decide) ?_ ..
  refine Dev.count_tame (by decide) ?_ ..
  refine Dev.onVol_tame (by decide) ?_ ..
  refine Mach.programPages_tame_dev (by decide) ?_ ..
  exact Dev.Tame.refl _ _

theorem Mach.putStripe_tame_mem {ps : Nat} {B : Mem} {X : Mach} (hsub : setOf [.carriers] ||| ps = ps)
    (hbase : Mem.Tame ps B X.mem) (p grp b w kind : Nat) (units : List StripeUnit) : Mem.Tame ps B (Mach.putStripe X p grp b w kind units).mem := by
  refine Mem.Tame.next ?_ hsub hbase
  unfold Mach.putStripe
  dsimp only
  refine Mach.programPages_tame_mem (by decide) ?_ ..
  exact Mem.Tame.refl _ _

theorem Mach.putStripes_tame_dev_rec {B : Dev} (k : Nat) : ∀ (X : Mach) (p grp b w kind : Nat) (units : List StripeUnit), Dev.Tame (setOf [.stats, .mags, .feat 0x1D]) B X.dev →
    Dev.Tame (setOf [.stats, .mags, .feat 0x1D]) B (Mach.putStripes X p grp b w kind units k).dev := by
  induction k with
  | zero =>
    intro X p grp b w kind units g
    unfold Mach.putStripes
    assumption
  | succ k ih_dev =>
    intro X p grp b w kind units g
    unfold Mach.putStripes
    refine Mach.tame_ite_dev ?_ ?_
    · assumption
    · dsimp only
      apply ih_dev
      refine Mach.putStripe_tame_dev (by decide) ?_ ..
      assumption

theorem Mach.putStripes_tame_dev {ps : Nat} {B : Dev} {X : Mach} (hsub : setOf [.stats, .mags, .feat 0x1D] ||| ps = ps)
    (hbase : Dev.Tame ps B X.dev) (p grp b w kind : Nat) (units : List StripeUnit) (k : Nat) : Dev.Tame ps B (Mach.putStripes X p grp b w kind units k).dev :=
  Dev.Tame.next (Mach.putStripes_tame_dev_rec k _ _ _ _ _ _ _ (.refl _ _)) hsub hbase

theorem Mach.putStripes_tame_mem_rec {B : Mem} (k : Nat) : ∀ (X : Mach) (p grp b w kind : Nat) (units : List StripeUnit), Mem.Tame (setOf [.carriers]) B X.mem →
    Mem.Tame (setOf [.carriers]) B (Mach.putStripes X p grp b w kind units k).mem := by
  induction k with
  | zero =>
    intro X p grp b w kind units g
    unfold Mach.putStripes
    assumption
  | succ k ih_mem =>
    intro X p grp b w kind units g
    unfold Mach.putStripes
    refine Mach.tame_ite_mem ?_ ?_
    · assumption
    · dsimp only
      apply ih_mem
      refine Mach.putStripe_tame_mem (by decide) ?_ ..
      assumption

theorem Mach.putStripes_tame_mem {ps : Nat} {B : Mem} {X : Mach} (hsub : setOf [.carriers] ||| ps = ps)
    (hbase : Mem.Tame ps B X.mem) (p grp b w kind : Nat) (units : List StripeUnit) (k : Nat) : Mem.Tame ps B (Mach.putStripes X p grp b w kind units k).mem :=
  Mem.Tame.next (Mach.putStripes_tame_mem_rec k _ _ _ _ _ _ _ (.refl _ _)) hsub hbase

theorem Mach.reserve_tame_dev {ps : Nat} {B : Dev} {X : Mach} (hsub : setOf [.stats, .mags] ||| ps = ps)
    (hbase : Dev.Tame ps B X.dev) (p kind grp n : Nat) : Dev.Tame ps B (Mach.reserve X p kind grp n).2.dev := by
  refine Dev.Tame.next ?_ hsub hbase
  unfold Mach.reserve
  dsimp only
  split
  · split
    · dsimp only
      exact Dev.Tame.refl _ _
    · split
      · dsimp only
        refine Dev.onMag_tame (by decide) ?_ ..
        exact Dev.Tame.refl _ _
      · dsimp only
        refine Mach.tame_foldl_dev ?_ (fun _ _ _ => ?_)
        · refine Mach.tame_mk_dev ?_
          refine Dev.onMag_tame (by decide) ?_ ..
          exact Dev.Tame.refl _ _
        · refine Mach.eraseBlock_tame_dev (by decide) ?_ ..
          assumption
  · split
    · dsimp only
      refine Dev.onMag_tame (by decide) ?_ ..
      exact Dev.Tame.refl _ _
    · dsimp only
      refine Mach.tame_foldl_dev ?_ (fun _ _ _ => ?_)
      · refine Mach.tame_mk_dev ?_
        refine Dev.onMag_tame (by decide) ?_ ..
        exact Dev.Tame.refl _ _
      · refine Mach.eraseBlock_tame_dev (by decide) ?_ ..
        assumption

theorem Mach.reserve_tame_mem {ps : Nat} {B : Mem} {X : Mach} (hsub : setOf [.carriers] ||| ps = ps)
    (hbase : Mem.Tame ps B X.mem) (p kind grp n : Nat) : Mem.Tame ps B (Mach.reserve X p kind grp n).2.mem := by
  refine Mem.Tame.next ?_ hsub hbase
  unfold Mach.reserve
  dsimp only
  split
  · split
    · dsimp only
      exact Mem.Tame.refl _ _
    · split
      · dsimp only
        exact Mem.Tame.refl _ _
      · dsimp only
        refine Mach.tame_foldl_mem ?_ (fun _ _ _ => ?_)
        · refine Mach.tame_mk_mem ?_
          exact Mem.Tame.refl _ _
        · refine Mach.eraseBlock_tame_mem (by decide) ?_ ..
          assumption
  · split
    · dsimp only
      exact Mem.Tame.refl _ _
    · dsimp only
      refine Mach.tame_foldl_mem ?_ (fun _ _ _ => ?_)
      · refine Mach.tame_mk_mem ?_
        exact Mem.Tame.refl _ _
      · refine Mach.eraseBlock_tame_mem (by decide) ?_ ..
        assumption

theorem Mach.reserveIn_tame_dev_rec {B : Dev} (k : List Nat) : ∀ (X : Mach) (p kind n : Nat), Dev.Tame (setOf [.stats, .mags]) B X.dev →
    Dev.Tame (setOf [.stats, .mags]) B (Mach.reserveIn X p kind n k).2.dev := by
  induction k with
  | nil =>
    intro X p kind n g
    unfold Mach.reserveIn
    dsimp only
    assumption
  | cons y r ih_dev =>
    intro X p kind n g
    unfold Mach.reserveIn
    split
    · dsimp only
      refine Mach.dev_of_snd (by assumption) ?_
      refine Mach.reserve_tame_dev (by decide) ?_ ..
      assumption
    · apply ih_dev
      refine Mach.dev_of_snd (by assumption) ?_
      refine Mach.reserve_tame_dev (by decide) ?_ ..
      assumption

theorem Mach.reserveIn_tame_dev {ps : Nat} {B : Dev} {X : Mach} (hsub : setOf [.stats, .mags] ||| ps = ps)
    (hbase : Dev.Tame ps B X.dev) (p kind n : Nat) (k : List Nat) : Dev.Tame ps B (Mach.reserveIn X p kind n k).2.dev :=
  Dev.Tame.next (Mach.reserveIn_tame_dev_rec k _ _ _ _ (.refl _ _)) hsub hbase

theorem Mach.reserveIn_tame_mem_rec {B : Mem} (k : List Nat) : ∀ (X : Mach) (p kind n : Nat), Mem.Tame (setOf [.carriers]) B X.mem →
    Mem.Tame (setOf [.carriers]) B (Mach.reserveIn X p kind n k).2.mem := by
  induction k with
  | nil =>
    intro X p kind n g
    unfold Mach.reserveIn
    dsimp only
    assumption
  | cons y r ih_mem =>
    intro X p kind n g
    unfold Mach.reserveIn
    split
    · dsimp only
      refine Mach.mem_of_snd (by assumption) ?_
      refine Mach.reserve_tame_mem (by decide) ?_ ..
      assumption
    · apply ih_mem
      refine Mach.mem_of_snd (by assumption) ?_
      refine Mach.reserve_tame_mem (by decide) ?_ ..
      assumption

theorem Mach.reserveIn_tame_mem {ps : Nat} {B : Mem} {X : Mach} (hsub : setOf [.carriers] ||| ps = ps)
    (hbase : Mem.Tame ps B X.mem) (p kind n : Nat) (k : List Nat) : Mem.Tame ps B (Mach.reserveIn X p kind n k).2.mem :=
  Mem.Tame.next (Mach.reserveIn_tame_mem_rec k _ _ _ _ (.refl _ _)) hsub hbase

theorem Mach.writeUnits_tame_dev {ps : Nat} {B : Dev} {X : Mach} (hsub : setOf [.stats, .mags, .feat 0x1D] ||| ps = ps)
    (hbase : Dev.Tame ps B X.dev) (p kind : Nat) (units : List StripeUnit) : Dev.Tame ps B (Mach.writeUnits X p kind units).2.dev := by
  refine Dev.Tame.next ?_ hsub hbase
  unfold Mach.writeUnits
  split
  · dsimp only
    refine Mach.dev_of_snd (by assumption) ?_
    refine Mach.reserveIn_tame_dev (by decide) ?_ ..
    exact Dev.Tame.refl _ _
  · dsimp only
    refine Mach.putStripes_tame_dev (by decide) ?_ ..
    refine Mach.dev_of_snd (by assumption) ?_
    refine Mach.reserveIn_tame_dev (by decide) ?_ ..
    exact Dev.Tame.refl _ _

theorem Mach.writeUnits_tame_mem {ps : Nat} {B : Mem} {X : Mach} (hsub : setOf [.carriers] ||| ps = ps)
    (hbase : Mem.Tame ps B X.mem) (p kind : Nat) (units : List StripeUnit) : Mem.Tame ps B (Mach.writeUnits X p kind units).2.mem := by
  refine Mem.Tame.next ?_ hsub hbase
  unfold Mach.writeUnits
  split
  · dsimp only
    refine Mach.mem_of_snd (by assumption) ?_
    refine Mach.reserveIn_tame_mem (by decide) ?_ ..
    exact Mem.Tame.refl _ _
  · dsimp only
    refine Mach.putStripes_tame_mem (by decide) ?_ ..
    refine Mach.mem_of_snd (by assumption) ?_
    refine Mach.reserveIn_tame_mem (by decide) ?_ ..
    exact Mem.Tame.refl _ _

theorem Dev.codewordEnd_tame {ps : Nat} {B X : Dev} (hsub : setOf [.free, .seq, .stats, .commands, .events, .flt, .twk, .bbx, .link, .mags, .sent, .feat 0x1C, .feat 0x1D] ||| ps = ps)
    (hbase : Dev.Tame ps B X) (p ppa step bits : Nat) : Dev.Tame ps B (Dev.codewordEnd X p ppa step bits) := by
  refine Dev.Tame.next ?_ hsub hbase
  unfold Dev.codewordEnd
  dsimp only
  refine Dev.tame_ite ?_ ?_
  · refine Dev.onMag_tame (by decide) ?_ ..
    split
    · refine Dev.count_tame (by decide) ?_ ..
      refine Dev.onVol_tame (by decide) ?_ ..
      refine Dev.count_tame (by decide) ?_ ..
      refine Dev.count_tame (by decide) ?_ ..
      exact Dev.Tame.refl _ _
    · refine Dev.count_tame (by decide) ?_ ..
      refine Dev.onVol_tame (by decide) ?_ ..
      refine Dev.count_tame (by decide) ?_ ..
      refine Dev.count_tame (by decide) ?_ ..
      exact Dev.Tame.refl _ _
    · refine Dev.count_tame (by decide) ?_ ..
      refine Dev.onVol_tame (by decide) ?_ ..
      refine Dev.count_tame (by decide) ?_ ..
      refine Dev.count_tame (by decide) ?_ ..
      exact Dev.Tame.refl _ _
    · refine Dev.count_tame (by decide) ?_ ..
      refine Dev.onVol_tame (by decide) ?_ ..
      refine Dev.count_tame (by decide) ?_ ..
      refine Dev.count_tame (by decide) ?_ ..
      exact Dev.Tame.refl _ _
    · refine Dev.raise_tame (by decide) ?_ ..
      refine Dev.setBit_tame (by decide) ?_
      refine Dev.bump_tame (by decide) ?_
      refine Dev.count_tame (by decide) ?_ ..
      refine Dev.onVol_tame (by decide) ?_ ..
      refine Dev.count_tame (by decide) ?_ ..
      refine Dev.count_tame (by decide) ?_ ..
      exact Dev.Tame.refl _ _
  · split
    · refine Dev.count_tame (by decide) ?_ ..
      refine Dev.onVol_tame (by decide) ?_ ..
      refine Dev.count_tame (by decide) ?_ ..
      refine Dev.count_tame (by decide) ?_ ..
      exact Dev.Tame.refl _ _
    · refine Dev.count_tame (by decide) ?_ ..
      refine Dev.onVol_tame (by decide) ?_ ..
      refine Dev.count_tame (by decide) ?_ ..
      refine Dev.count_tame (by decide) ?_ ..
      exact Dev.Tame.refl _ _
    · refine Dev.count_tame (by decide) ?_ ..
      refine Dev.onVol_tame (by decide) ?_ ..
      refine Dev.count_tame (by decide) ?_ ..
      refine Dev.count_tame (by decide) ?_ ..
      exact Dev.Tame.refl _ _
    · refine Dev.count_tame (by decide) ?_ ..
      refine Dev.onVol_tame (by decide) ?_ ..
      refine Dev.count_tame (by decide) ?_ ..
      refine Dev.count_tame (by decide) ?_ ..
      exact Dev.Tame.refl _ _
    · refine Dev.raise_tame (by decide) ?_ ..
      refine Dev.setBit_tame (by decide) ?_
      refine Dev.bump_tame (by decide) ?_
      refine Dev.count_tame (by decide) ?_ ..
      refine Dev.onVol_tame (by decide) ?_ ..
      refine Dev.count_tame (by decide) ?_ ..
      refine Dev.count_tame (by decide) ?_ ..
      exact Dev.Tame.refl _ _

theorem Mach.writeLogs_tame_dev {ps : Nat} {B : Dev} {X : Mach} (hsub : setOf [.seq, .stats, .mags, .feat 0x1D] ||| ps = ps)
    (hbase : Dev.Tame ps B X.dev) (p id : Nat) (all : Bool) : Dev.Tame ps B (Mach.writeLogs X p id all).dev := by
  refine Dev.Tame.next ?_ hsub hbase
  unfold Mach.writeLogs
  split
  · exact Dev.Tame.refl _ _
  · dsimp only
    refine Mach.tame_ite_dev ?_ ?_
    · exact Dev.Tame.refl _ _
    · split
      · refine Mach.dev_of_snd (by assumption) ?_
        refine Mach.reserveIn_tame_dev (by decide) ?_ ..
        exact Dev.Tame.refl _ _
      · refine Mach.tame_mk_dev ?_
        refine Dev.stamped_tame (by decide) ?_ ..
        refine Dev.onVol_tame (by decide) ?_ ..
        refine Mach.putStripes_tame_dev (by decide) ?_ ..
        refine Mach.dev_of_snd (by assumption) ?_
        refine Mach.reserveIn_tame_dev (by decide) ?_ ..
        exact Dev.Tame.refl _ _

theorem Mach.writeLogs_tame_mem {ps : Nat} {B : Mem} {X : Mach} (hsub : setOf [.carriers] ||| ps = ps)
    (hbase : Mem.Tame ps B X.mem) (p id : Nat) (all : Bool) : Mem.Tame ps B (Mach.writeLogs X p id all).mem := by
  refine Mem.Tame.next ?_ hsub hbase
  unfold Mach.writeLogs
  split
  · exact Mem.Tame.refl _ _
  · dsimp only
    refine Mach.tame_ite_mem ?_ ?_
    · exact Mem.Tame.refl _ _
    · split
      · refine Mach.mem_of_snd (by assumption) ?_
        refine Mach.reserveIn_tame_mem (by decide) ?_ ..
        exact Mem.Tame.refl _ _
      · refine Mach.tame_mk_mem ?_
        refine Mach.putStripes_tame_mem (by decide) ?_ ..
        refine Mach.mem_of_snd (by assumption) ?_
        refine Mach.reserveIn_tame_mem (by decide) ?_ ..
        exact Mem.Tame.refl _ _

theorem Mach.putHeader_tame_dev {ps : Nat} {B : Dev} {X : Mach} (hsub : setOf [.stats, .mags] ||| ps = ps)
    (hbase : Dev.Tame ps B X.dev) (p : Nat) (hdr : List Byte) (c : Nat) : Dev.Tame ps B (Mach.putHeader X p hdr c).dev := by
  refine Dev.Tame.next ?_ hsub hbase
  unfold Mach.putHeader
  dsimp only
  refine Dev.onVol_tame (by decide) ?_ ..
  refine Mach.programPages_tame_dev (by decide) ?_ ..
  refine Mach.tame_ite_dev ?_ ?_
  · refine Mach.eraseBlock_tame_dev (by decide) ?_ ..
    exact Dev.Tame.refl _ _
  · exact Dev.Tame.refl _ _

theorem Mach.putHeader_tame_mem {ps : Nat} {B : Mem} {X : Mach} (hsub : setOf [.carriers] ||| ps = ps)
    (hbase : Mem.Tame ps B X.mem) (p : Nat) (hdr : List Byte) (c : Nat) : Mem.Tame ps B (Mach.putHeader X p hdr c).mem := by
  refine Mem.Tame.next ?_ hsub hbase
  unfold Mach.putHeader
  dsimp only
  refine Mach.programPages_tame_mem (by decide) ?_ ..
  refine Mach.tame_ite_mem ?_ ?_
  · refine Mach.eraseBlock_tame_mem (by decide) ?_ ..
    exact Mem.Tame.refl _ _
  · exact Mem.Tame.refl _ _

theorem Mach.checkpoint_tame_dev {ps : Nat} {B : Dev} {X : Mach} (hsub : setOf [.seq, .stats, .mags, .feat 0x1D] ||| ps = ps)
    (hbase : Dev.Tame ps B X.dev) (p : Nat) : Dev.Tame ps B (Mach.checkpoint X p).dev := by
  refine Dev.Tame.next ?_ hsub hbase
  unfold Mach.checkpoint
  dsimp only
  refine Mach.tame_ite_dev ?_ ?_
  · exact Dev.Tame.refl _ _
  · split
    · exact Dev.Tame.refl _ _
    · split
      · exact Dev.Tame.refl _ _
      · refine Mach.tame_foldl_dev ?_ (fun _ _ _ => ?_)
        · refine Mach.tame_mk_dev ?_
          refine Dev.stamped_tame (by decide) ?_ ..
          refine Dev.onMag_tame (by decide) ?_ ..
          refine Mach.putStripes_tame_dev (by decide) ?_ ..
          refine Mach.putStripes_tame_dev (by decide) ?_ ..
          refine Mach.tame_mk_dev ?_
          refine Dev.onVol_tame (by decide) ?_ ..
          refine Mach.dev_of_snd (by assumption) ?_
          split
          · refine Mach.reserveIn_tame_dev (by decide) ?_ ..
            refine onDev_tame_dev ?_
            refine Dev.onVol_tame (by decide) ?_ ..
            refine Mach.tame_mk_dev ?_
            refine Dev.onVol_tame (by decide) ?_ ..
            refine Mach.dev_of_snd (by assumption) ?_
            refine Mach.reserveIn_tame_dev (by decide) ?_ ..
            refine Mach.tame_mk_dev ?_
            refine Dev.onMag_tame (by decide) ?_ ..
            exact Dev.Tame.refl _ _
          · refine Mach.reserveIn_tame_dev (by decide) ?_ ..
            refine Mach.tame_mk_dev ?_
            refine Dev.onVol_tame (by decide) ?_ ..
            refine Mach.dev_of_snd (by assumption) ?_
            refine Mach.reserveIn_tame_dev (by decide) ?_ ..
            refine Mach.tame_mk_dev ?_
            refine Dev.onMag_tame (by decide) ?_ ..
            exact Dev.Tame.refl _ _
        · refine Mach.putHeader_tame_dev (by decide) ?_ ..
          assumption

theorem Mach.checkpoint_tame_mem {ps : Nat} {B : Mem} {X : Mach} (hsub : setOf [.carriers] ||| ps = ps)
    (hbase : Mem.Tame ps B X.mem) (p : Nat) : Mem.Tame ps B (Mach.checkpoint X p).mem := by
  refine Mem.Tame.next ?_ hsub hbase
  unfold Mach.checkpoint
  dsimp only
  refine Mach.tame_ite_mem ?_ ?_
  · exact Mem.Tame.refl _ _
  · split
    · exact Mem.Tame.refl _ _
    · split
      · exact Mem.Tame.refl _ _
      · refine Mach.tame_foldl_mem ?_ (fun _ _ _ => ?_)
        · refine Mach.tame_mk_mem ?_
          refine Mach.putStripes_tame_mem (by decide) ?_ ..
          refine Mach.putStripes_tame_mem (by decide) ?_ ..
          refine Mach.tame_mk_mem ?_
          refine Mach.mem_of_snd (by assumption) ?_
          split
          · refine Mach.reserveIn_tame_mem (by decide) ?_ ..
            refine onDev_tame_mem ?_
            refine Mach.tame_mk_mem ?_
            refine Mach.mem_of_snd (by assumption) ?_
            refine Mach.reserveIn_tame_mem (by decide) ?_ ..
            refine Mach.tame_mk_mem ?_
            exact Mem.Tame.refl _ _
          · refine Mach.reserveIn_tame_mem (by decide) ?_ ..
            refine Mach.tame_mk_mem ?_
            refine Mach.mem_of_snd (by assumption) ?_
            refine Mach.reserveIn_tame_mem (by decide) ?_ ..
            refine Mach.tame_mk_mem ?_
            exact Mem.Tame.refl _ _
        · refine Mach.putHeader_tame_mem (by decide) ?_ ..
          assumption

theorem Dev.growBad_tame {ps : Nat} {B X : Dev} (hsub : setOf [.mags] ||| ps = ps)
    (hbase : Dev.Tame ps B X) (p die block : Nat) (spare : Bool) : Dev.Tame ps B (Dev.growBad X p die block spare).2 := by
  refine Dev.Tame.next ?_ hsub hbase
  unfold Dev.growBad
  dsimp only
  refine Dev.onVol_tame (by decide) ?_ ..
  exact Dev.Tame.refl _ _

theorem Mach.mirrorBlackBox_tame_dev {ps : Nat} {B : Dev} {X : Mach} (hsub : setOf [.seq, .stats, .bbx, .mags, .feat 0x1D] ||| ps = ps)
    (hbase : Dev.Tame ps B X.dev) (p : Nat) : Dev.Tame ps B (Mach.mirrorBlackBox X p).dev := by
  refine Dev.Tame.next ?_ hsub hbase
  unfold Mach.mirrorBlackBox
  dsimp only
  refine Mach.tame_ite_dev ?_ ?_
  · exact Dev.Tame.refl _ _
  · refine Mach.tame_mk_dev ?_
    refine Dev.record_tame (by decide) ?_ ..
    refine Dev.stamped_tame (by decide) ?_ ..
    refine Dev.onBbx_tame (by decide) ?_ ..
    refine Dev.onVol_tame (by decide) ?_ ..
    refine Mach.putStripes_tame_dev (by decide) ?_ ..
    refine onDev_tame_dev ?_
    refine Dev.onVol_tame (by decide) ?_ ..
    refine Mach.tame_foldl_dev ?_ (fun _ _ _ => ?_)
    · exact Dev.Tame.refl _ _
    · refine Mach.eraseBlock_tame_dev (by decide) ?_ ..
      assumption

theorem Mach.mirrorBlackBox_tame_mem {ps : Nat} {B : Mem} {X : Mach} (hsub : setOf [.carriers] ||| ps = ps)
    (hbase : Mem.Tame ps B X.mem) (p : Nat) : Mem.Tame ps B (Mach.mirrorBlackBox X p).mem := by
  refine Mem.Tame.next ?_ hsub hbase
  unfold Mach.mirrorBlackBox
  dsimp only
  refine Mach.tame_ite_mem ?_ ?_
  · exact Mem.Tame.refl _ _
  · refine Mach.tame_mk_mem ?_
    refine Mach.putStripes_tame_mem (by decide) ?_ ..
    refine onDev_tame_mem ?_
    refine Mach.tame_foldl_mem ?_ (fun _ _ _ => ?_)
    · exact Mem.Tame.refl _ _
    · refine Mach.eraseBlock_tame_mem (by decide) ?_ ..
      assumption

end Sys2Proof.Machine
end

