-- ==== Sys2Proof/Laws/FrameFlash.lean ====
section
/-! SUPPORT. What each operation of Machine/Flash.lean may change. -/

namespace Sys2Proof.Machine
open Sys2Proof

theorem Dev.setCmt_tame {ps : Nat} {B X : Dev} (hsub : setOf [.feat 0x00] ||| ps = ps)
    (hbase : Dev.Tame ps B X) (s lo len v : Nat) : Dev.Tame ps B (Dev.setCmt X s lo len v) := by
  refine Dev.Tame.next ?_ hsub hbase
  unfold Dev.setCmt
  dsimp only
  refine Dev.setReg_tame (by decide) ?_
  exact Dev.Tame.refl _ _

theorem Mach.passFrame_tame_dev {ps : Nat} {B : Dev} {X : Mach} (hsub : setOf [.seq, .stats, .commands, .errorLog, .bbx, .link, .pools, .caps, .mags, .sent, .feat 0x00, .feat 0x1D] ||| ps = ps)
    (hbase : Dev.Tame ps B X.dev) (s : Nat) (c : Cap) (t : Taken) (rest : List Taken) : Dev.Tame ps B (Mach.passFrame X s c t rest).dev := by
  refine Dev.Tame.next ?_ hsub hbase
  unfold Mach.passFrame
  dsimp only
  refine Mach.tame_ite_dev ?_ ?_
  · split
    · refine Mach.tame_mk_dev ?_
      refine Dev.sendState_tame (by decide) ?_ ..
      refine Dev.complete_tame (by decide) ?_ ..
      refine Dev.reserveAgain_tame (by decide) ?_ ..
      refine Dev.modCap_tame (by decide) ?_ ..
      refine Mach.tame_foldl_dev ?_ (fun _ _ _ => ?_)
      · refine Mach.tame_mk_dev ?_
        refine Dev.tame_ite ?_ ?_
        · refine Dev.record_tame (by decide) ?_ ..
          refine Dev.setCmt_tame (by decide) ?_ ..
          refine Dev.tame_ite ?_ ?_
          · refine Dev.bump_tame (by decide) ?_
            refine Dev.setReg_tame (by decide) ?_
            refine Dev.setReg_tame (by decide) ?_
            refine Dev.setCap_tame (by decide) ?_ ..
            exact Dev.Tame.refl _ _
          · refine Dev.setReg_tame (by decide) ?_
            refine Dev.setReg_tame (by decide) ?_
            refine Dev.setCap_tame (by decide) ?_ ..
            exact Dev.Tame.refl _ _
        · refine Dev.setCmt_tame (by decide) ?_ ..
          refine Dev.tame_ite ?_ ?_
          · refine Dev.bump_tame (by decide) ?_
            refine Dev.setReg_tame (by decide) ?_
            refine Dev.setReg_tame (by decide) ?_
            refine Dev.setCap_tame (by decide) ?_ ..
            exact Dev.Tame.refl _ _
          · refine Dev.setReg_tame (by decide) ?_
            refine Dev.setReg_tame (by decide) ?_
            refine Dev.setCap_tame (by decide) ?_ ..
            exact Dev.Tame.refl _ _
      · refine Mach.tame_ite_dev ?_ ?_
        · refine Mach.writeLogs_tame_dev (by decide) ?_ ..
          refine Mach.tame_mk_dev ?_
          refine Dev.onVol_tame (by decide) ?_ ..
          assumption
        · assumption
    · refine Mach.tame_mk_dev ?_
      refine Dev.sendState_tame (by decide) ?_ ..
      refine Dev.reserveAgain_tame (by decide) ?_ ..
      refine Dev.modCap_tame (by decide) ?_ ..
      refine Mach.tame_foldl_dev ?_ (fun _ _ _ => ?_)
      · refine Mach.tame_mk_dev ?_
        refine Dev.tame_ite ?_ ?_
        · refine Dev.record_tame (by decide) ?_ ..
          refine Dev.setCmt_tame (by decide) ?_ ..
          refine Dev.tame_ite ?_ ?_
          · refine Dev.bump_tame (by decide) ?_
            refine Dev.setReg_tame (by decide) ?_
            refine Dev.setReg_tame (by decide) ?_
            refine Dev.setCap_tame (by decide) ?_ ..
            exact Dev.Tame.refl _ _
          · refine Dev.setReg_tame (by decide) ?_
            refine Dev.setReg_tame (by decide) ?_
            refine Dev.setCap_tame (by decide) ?_ ..
            exact Dev.Tame.refl _ _
        · refine Dev.setCmt_tame (by decide) ?_ ..
          refine Dev.tame_ite ?_ ?_
          · refine Dev.bump_tame (by decide) ?_
            refine Dev.setReg_tame (by decide) ?_
            refine Dev.setReg_tame (by decide) ?_
            refine Dev.setCap_tame (by decide) ?_ ..
            exact Dev.Tame.refl _ _
          · refine Dev.setReg_tame (by decide) ?_
            refine Dev.setReg_tame (by decide) ?_
            refine Dev.setCap_tame (by decide) ?_ ..
            exact Dev.Tame.refl _ _
      · refine Mach.tame_ite_dev ?_ ?_
        · refine Mach.writeLogs_tame_dev (by decide) ?_ ..
          refine Mach.tame_mk_dev ?_
          refine Dev.onVol_tame (by decide) ?_ ..
          assumption
        · assumption
  · refine Mach.tame_foldl_dev ?_ (fun _ _ _ => ?_)
    · refine Mach.tame_mk_dev ?_
      refine Dev.tame_ite ?_ ?_
      · refine Dev.record_tame (by decide) ?_ ..
        refine Dev.setCmt_tame (by decide) ?_ ..
        refine Dev.tame_ite ?_ ?_
        · refine Dev.bump_tame (by decide) ?_
          refine Dev.setReg_tame (by decide) ?_
          refine Dev.setReg_tame (by decide) ?_
          refine Dev.setCap_tame (by decide) ?_ ..
          exact Dev.Tame.refl _ _
        · refine Dev.setReg_tame (by decide) ?_
          refine Dev.setReg_tame (by decide) ?_
          refine Dev.setCap_tame (by decide) ?_ ..
          exact Dev.Tame.refl _ _
      · refine Dev.setCmt_tame (by decide) ?_ ..
        refine Dev.tame_ite ?_ ?_
        · refine Dev.bump_tame (by decide) ?_
          refine Dev.setReg_tame (by decide) ?_
          refine Dev.setReg_tame (by decide) ?_
          refine Dev.setCap_tame (by decide) ?_ ..
          exact Dev.Tame.refl _ _
        · refine Dev.setReg_tame (by decide) ?_
          refine Dev.setReg_tame (by decide) ?_
          refine Dev.setCap_tame (by decide) ?_ ..
          exact Dev.Tame.refl _ _
    · refine Mach.tame_ite_dev ?_ ?_
      · refine Mach.writeLogs_tame_dev (by decide) ?_ ..
        refine Mach.tame_mk_dev ?_
        refine Dev.onVol_tame (by decide) ?_ ..
        assumption
      · assumption

theorem Mach.passFrame_tame_mem {ps : Nat} {B : Mem} {X : Mach} (hsub : setOf [.carriers] ||| ps = ps)
    (hbase : Mem.Tame ps B X.mem) (s : Nat) (c : Cap) (t : Taken) (rest : List Taken) : Mem.Tame ps B (Mach.passFrame X s c t rest).mem := by
  refine Mem.Tame.next ?_ hsub hbase
  unfold Mach.passFrame
  dsimp only
  refine Mach.tame_ite_mem ?_ ?_
  · split
    · refine Mach.tame_mk_mem ?_
      refine Mach.tame_foldl_mem ?_ (fun _ _ _ => ?_)
      · refine Mach.tame_mk_mem ?_
        exact Mem.Tame.refl _ _
      · refine Mach.tame_ite_mem ?_ ?_
        · refine Mach.writeLogs_tame_mem (by decide) ?_ ..
          refine Mach.tame_mk_mem ?_
          assumption
        · assumption
    · refine Mach.tame_mk_mem ?_
      refine Mach.tame_foldl_mem ?_ (fun _ _ _ => ?_)
      · refine Mach.tame_mk_mem ?_
        exact Mem.Tame.refl _ _
      · refine Mach.tame_ite_mem ?_ ?_
        · refine Mach.writeLogs_tame_mem (by decide) ?_ ..
          refine Mach.tame_mk_mem ?_
          assumption
        · assumption
  · refine Mach.tame_foldl_mem ?_ (fun _ _ _ => ?_)
    · refine Mach.tame_mk_mem ?_
      exact Mem.Tame.refl _ _
    · refine Mach.tame_ite_mem ?_ ?_
      · refine Mach.writeLogs_tame_mem (by decide) ?_ ..
        refine Mach.tame_mk_mem ?_
        assumption
      · assumption

theorem Mach.advanceMark_tame_dev_rec {B : Dev} (k : Nat) : ∀ (X : Mach) (s : Nat), Dev.Tame (setOf [.seq, .stats, .commands, .errorLog, .bbx, .link, .pools, .caps, .mags, .sent, .feat 0x00, .feat 0x1D]) B X.dev →
    Dev.Tame (setOf [.seq, .stats, .commands, .errorLog, .bbx, .link, .pools, .caps, .mags, .sent, .feat 0x00, .feat 0x1D]) B (Mach.advanceMark X s k).dev := by
  induction k with
  | zero =>
    intro X s g
    unfold Mach.advanceMark
    assumption
  | succ k ih_dev =>
    intro X s g
    unfold Mach.advanceMark
    split
    · assumption
    · split
      · refine Mach.tame_ite_dev ?_ ?_
        · apply ih_dev
          refine Mach.passFrame_tame_dev (by decide) ?_ ..
          assumption
        · assumption
      · assumption

theorem Mach.advanceMark_tame_dev {ps : Nat} {B : Dev} {X : Mach} (hsub : setOf [.seq, .stats, .commands, .errorLog, .bbx, .link, .pools, .caps, .mags, .sent, .feat 0x00, .feat 0x1D] ||| ps = ps)
    (hbase : Dev.Tame ps B X.dev) (s : Nat) (k : Nat) : Dev.Tame ps B (Mach.advanceMark X s k).dev :=
  Dev.Tame.next (Mach.advanceMark_tame_dev_rec k _ _ (.refl _ _)) hsub hbase

theorem Mach.advanceMark_tame_mem_rec {B : Mem} (k : Nat) : ∀ (X : Mach) (s : Nat), Mem.Tame (setOf [.carriers]) B X.mem →
    Mem.Tame (setOf [.carriers]) B (Mach.advanceMark X s k).mem := by
  induction k with
  | zero =>
    intro X s g
    unfold Mach.advanceMark
    assumption
  | succ k ih_mem =>
    intro X s g
    unfold Mach.advanceMark
    split
    · assumption
    · split
      · refine Mach.tame_ite_mem ?_ ?_
        · apply ih_mem
          refine Mach.passFrame_tame_mem (by decide) ?_ ..
          assumption
        · assumption
      · assumption

theorem Mach.advanceMark_tame_mem {ps : Nat} {B : Mem} {X : Mach} (hsub : setOf [.carriers] ||| ps = ps)
    (hbase : Mem.Tame ps B X.mem) (s : Nat) (k : Nat) : Mem.Tame ps B (Mach.advanceMark X s k).mem :=
  Mem.Tame.next (Mach.advanceMark_tame_mem_rec k _ _ (.refl _ _)) hsub hbase

theorem Mach.advanceMarks_tame_dev {ps : Nat} {B : Dev} {X : Mach} (hsub : setOf [.seq, .stats, .commands, .errorLog, .bbx, .link, .pools, .caps, .mags, .sent, .feat 0x00, .feat 0x1D] ||| ps = ps)
    (hbase : Dev.Tame ps B X.dev) : Dev.Tame ps B (Mach.advanceMarks X).dev := by
  refine Dev.Tame.next ?_ hsub hbase
  unfold Mach.advanceMarks
  refine Mach.tame_foldl_dev ?_ (fun _ _ _ => ?_)
  · exact Dev.Tame.refl _ _
  · refine Mach.advanceMark_tame_dev (by decide) ?_ ..
    assumption

theorem Mach.advanceMarks_tame_mem {ps : Nat} {B : Mem} {X : Mach} (hsub : setOf [.carriers] ||| ps = ps)
    (hbase : Mem.Tame ps B X.mem) : Mem.Tame ps B (Mach.advanceMarks X).mem := by
  refine Mem.Tame.next ?_ hsub hbase
  unfold Mach.advanceMarks
  refine Mach.tame_foldl_mem ?_ (fun _ _ _ => ?_)
  · exact Mem.Tame.refl _ _
  · refine Mach.advanceMark_tame_mem (by decide) ?_ ..
    assumption

theorem Dev.takeFrames_tame_rec {B : Dev} (k : Nat) : ∀ (X : Dev) (s : Nat), Dev.Tame (setOf [.caps]) B X →
    Dev.Tame (setOf [.caps]) B (Dev.takeFrames X s k) := by
  induction k with
  | zero =>
    intro X s g
    unfold Dev.takeFrames
    assumption
  | succ k ih =>
    intro X s g
    unfold Dev.takeFrames
    split
    · assumption
    · split
      · refine Dev.tame_ite ?_ ?_
        · assumption
        · dsimp only
          apply ih
          refine Dev.setCap_tame (by decide) ?_ ..
          assumption
      · assumption

theorem Dev.takeFrames_tame {ps : Nat} {B X : Dev} (hsub : setOf [.caps] ||| ps = ps)
    (hbase : Dev.Tame ps B X) (s : Nat) (k : Nat) : Dev.Tame ps B (Dev.takeFrames X s k) :=
  Dev.Tame.next (Dev.takeFrames_tame_rec k _ _ (.refl _ _)) hsub hbase

theorem Dev.dropTaken_tame {ps : Nat} {B X : Dev} (hsub : setOf [.seq, .stats, .commands, .events, .logs, .bbx, .caps] ||| ps = ps)
    (hbase : Dev.Tame ps B X) (s reason : Nat) (p : Taken → Bool) : Dev.Tame ps B (Dev.dropTaken X s reason p) := by
  refine Dev.Tame.next ?_ hsub hbase
  unfold Dev.dropTaken
  split
  · exact Dev.Tame.refl _ _
  · dsimp only
    refine Dev.tame_foldl ?_ (fun _ _ _ => ?_)
    · refine Dev.modCap_tame (by decide) ?_ ..
      exact Dev.Tame.refl _ _
    · refine Dev.reportDrop_tame (by decide) ?_ ..
      assumption

theorem Dev.issueStripe_tame {ps : Nat} {B X : Dev} (hsub : setOf [.mags] ||| ps = ps)
    (hbase : Dev.Tame ps B X) (p : Nat) : Dev.Tame ps B (Dev.issueStripe X p) := by
  refine Dev.Tame.next ?_ hsub hbase
  unfold Dev.issueStripe
  dsimp only
  split
  · exact Dev.Tame.refl _ _
  · refine Dev.onMag_tame (by decide) ?_ ..
    exact Dev.Tame.refl _ _

theorem Mach.stripeDone_tame_dev {ps : Nat} {B : Dev} {X : Mach} (hsub : setOf [.seq, .stats, .commands, .errorLog, .msix, .intr, .bbx, .link, .pools, .caps, .mags, .sent, .feat 0x00, .feat 0x1D] ||| ps = ps)
    (hbase : Dev.Tame ps B X.dev) (p : Nat) (x : Stripe) : Dev.Tame ps B (Mach.stripeDone X p x).dev := by
  refine Dev.Tame.next ?_ hsub hbase
  unfold Mach.stripeDone
  dsimp only
  refine Mach.advanceMarks_tame_dev (by decide) ?_ ..
  refine Mach.tame_mk_dev ?_
  refine Dev.fireInt_tame (by decide) ?_ ..
  refine Dev.count_tame (by decide) ?_ ..
  refine Dev.count_tame (by decide) ?_ ..
  refine Dev.tame_foldl ?_ (fun _ _ _ => ?_)
  · refine Dev.onMag_tame (by decide) ?_ ..
    exact Dev.Tame.refl _ _
  · refine Dev.setBuf_tame (by decide) ?_ ..
    assumption

theorem Mach.stripeDone_tame_mem {ps : Nat} {B : Mem} {X : Mach} (hsub : setOf [.carriers] ||| ps = ps)
    (hbase : Mem.Tame ps B X.mem) (p : Nat) (x : Stripe) : Mem.Tame ps B (Mach.stripeDone X p x).mem := by
  refine Mem.Tame.next ?_ hsub hbase
  unfold Mach.stripeDone
  dsimp only
  refine Mach.advanceMarks_tame_mem (by decide) ?_ ..
  refine Mach.tame_mk_mem ?_
  exact Mem.Tame.refl _ _

theorem Dev.stopOn_tame {ps : Nat} {B X : Dev} (hsub : setOf [.seq, .stats, .commands, .events, .errorLog, .link, .pools, .caps, .codec, .sent, .feat 0x00] ||| ps = ps)
    (hbase : Dev.Tame ps B X) (p reason status : Nat) (lose : Bool) : Dev.Tame ps B (Dev.stopOn X p reason status lose) := by
  refine Dev.Tame.next ?_ hsub hbase
  unfold Dev.stopOn
  dsimp only
  refine Dev.tame_ite ?_ ?_
  · refine Dev.tame_foldl ?_ (fun _ _ _ => ?_)
    · exact Dev.Tame.refl _ _
    · split
      · assumption
      · refine Dev.tame_ite ?_ ?_
        · assumption
        · refine Dev.tame_ite ?_ ?_
          · refine Dev.modCap_tame (by decide) ?_ ..
            refine Dev.freeMany_tame (by decide) ?_ ..
            refine Dev.tame_foldl ?_ (fun _ _ _ => ?_)
            · refine Dev.postEvent_tame (by decide) ?_ ..
              refine Dev.setCmt_tame (by decide) ?_ ..
              refine Dev.modCap_tame (by decide) ?_ ..
              split
              · refine Dev.complete_tame (by decide) ?_ ..
                split
                · refine Dev.complete_tame (by decide) ?_ ..
                  assumption
                · assumption
              · split
                · refine Dev.complete_tame (by decide) ?_ ..
                  assumption
                · assumption
            · refine Dev.stopWork_tame (by decide) ?_ ..
              assumption
          · refine Dev.postEvent_tame (by decide) ?_ ..
            refine Dev.setCmt_tame (by decide) ?_ ..
            refine Dev.modCap_tame (by decide) ?_ ..
            split
            · refine Dev.complete_tame (by decide) ?_ ..
              split
              · refine Dev.complete_tame (by decide) ?_ ..
                assumption
              · assumption
            · split
              · refine Dev.complete_tame (by decide) ?_ ..
                assumption
              · assumption
  · refine Dev.sendState_tame (by decide) ?_ ..
    refine Dev.reserveAgain_tame (by decide) ?_ ..
    refine Dev.tame_foldl ?_ (fun _ _ _ => ?_)
    · exact Dev.Tame.refl _ _
    · split
      · assumption
      · refine Dev.tame_ite ?_ ?_
        · assumption
        · refine Dev.tame_ite ?_ ?_
          · refine Dev.modCap_tame (by decide) ?_ ..
            refine Dev.freeMany_tame (by decide) ?_ ..
            refine Dev.tame_foldl ?_ (fun _ _ _ => ?_)
            · refine Dev.postEvent_tame (by decide) ?_ ..
              refine Dev.setCmt_tame (by decide) ?_ ..
              refine Dev.modCap_tame (by decide) ?_ ..
              split
              · refine Dev.complete_tame (by decide) ?_ ..
                split
                · refine Dev.complete_tame (by decide) ?_ ..
                  assumption
                · assumption
              · split
                · refine Dev.complete_tame (by decide) ?_ ..
                  assumption
                · assumption
            · refine Dev.stopWork_tame (by decide) ?_ ..
              assumption
          · refine Dev.postEvent_tame (by decide) ?_ ..
            refine Dev.setCmt_tame (by decide) ?_ ..
            refine Dev.modCap_tame (by decide) ?_ ..
            split
            · refine Dev.complete_tame (by decide) ?_ ..
              split
              · refine Dev.complete_tame (by decide) ?_ ..
                assumption
              · assumption
            · split
              · refine Dev.complete_tame (by decide) ?_ ..
                assumption
              · assumption

theorem Dev.noGroupLeft_tame {ps : Nat} {B X : Dev} (hsub : setOf [.seq, .stats, .commands, .events, .errorLog, .logs, .bbx, .link, .pools, .caps, .codec, .mags, .sent, .feat 0x00] ||| ps = ps)
    (hbase : Dev.Tame ps B X) (p : Nat) : Dev.Tame ps B (Dev.noGroupLeft X p) := by
  refine Dev.Tame.next ?_ hsub hbase
  unfold Dev.noGroupLeft
  dsimp only
  refine Dev.tame_foldl ?_ (fun _ _ _ => ?_)
  · refine Dev.postEvent_tame (by decide) ?_ ..
    refine Dev.onMag_tame (by decide) ?_ ..
    refine Dev.tame_foldl ?_ (fun _ _ _ => ?_)
    · refine Dev.stopOn_tame (by decide) ?_ ..
      exact Dev.Tame.refl _ _
    · refine Dev.setBuf_tame (by decide) ?_ ..
      assumption
  · refine Dev.tame_ite ?_ ?_
    · refine Dev.dropTaken_tame (by decide) ?_ ..
      assumption
    · assumption

theorem Mach.dieFail_tame_dev {ps : Nat} {B : Dev} {X : Mach} (hsub : setOf [.free, .seq, .stats, .commands, .events, .errorLog, .logs, .msix, .flt, .intr, .twk, .bbx, .link, .pools, .caps, .codec, .mags, .sent, .feat 0x00, .feat 0x1C, .feat 0x1D] ||| ps = ps)
    (hbase : Dev.Tame ps B X.dev) (p die : Nat) : Dev.Tame ps B (Mach.dieFail X p die).dev := by
  refine Dev.Tame.next ?_ hsub hbase
  unfold Mach.dieFail
  dsimp only
  refine Mach.tame_ite_dev ?_ ?_
  · exact Dev.Tame.refl _ _
  · refine Mach.checkpoint_tame_dev (by decide) ?_ ..
    refine Mach.tame_foldl_dev ?_ (fun _ _ _ => ?_)
    · refine Mach.tame_mk_dev ?_
      refine Dev.tame_ite ?_ ?_
      · refine Dev.noGroupLeft_tame (by decide) ?_ ..
        refine Dev.tame_ite ?_ ?_
        · refine Dev.setBit_tame (by decide) ?_
          refine Dev.postEvent_tame (by decide) ?_ ..
          refine Dev.raise_tame (by decide) ?_ ..
          refine Dev.onFlt_tame (by decide) ?_ ..
          refine Dev.onMag_tame (by decide) ?_ ..
          exact Dev.Tame.refl _ _
        · refine Dev.setBit_tame (by decide) ?_
          refine Dev.postEvent_tame (by decide) ?_ ..
          refine Dev.raise_tame (by decide) ?_ ..
          refine Dev.onFlt_tame (by decide) ?_ ..
          refine Dev.onMag_tame (by decide) ?_ ..
          exact Dev.Tame.refl _ _
      · refine Dev.tame_ite ?_ ?_
        · refine Dev.setBit_tame (by decide) ?_
          refine Dev.postEvent_tame (by decide) ?_ ..
          refine Dev.raise_tame (by decide) ?_ ..
          refine Dev.onFlt_tame (by decide) ?_ ..
          refine Dev.onMag_tame (by decide) ?_ ..
          exact Dev.Tame.refl _ _
        · refine Dev.setBit_tame (by decide) ?_
          refine Dev.postEvent_tame (by decide) ?_ ..
          refine Dev.raise_tame (by decide) ?_ ..
          refine Dev.onFlt_tame (by decide) ?_ ..
          refine Dev.onMag_tame (by decide) ?_ ..
          exact Dev.Tame.refl _ _
    · refine Mach.stripeDone_tame_dev (by decide) ?_ ..
      assumption

theorem Mach.dieFail_tame_mem {ps : Nat} {B : Mem} {X : Mach} (hsub : setOf [.carriers] ||| ps = ps)
    (hbase : Mem.Tame ps B X.mem) (p die : Nat) : Mem.Tame ps B (Mach.dieFail X p die).mem := by
  refine Mem.Tame.next ?_ hsub hbase
  unfold Mach.dieFail
  dsimp only
  refine Mach.tame_ite_mem ?_ ?_
  · exact Mem.Tame.refl _ _
  · refine Mach.checkpoint_tame_mem (by decide) ?_ ..
    refine Mach.tame_foldl_mem ?_ (fun _ _ _ => ?_)
    · refine Mach.tame_mk_mem ?_
      exact Mem.Tame.refl _ _
    · refine Mach.stripeDone_tame_mem (by decide) ?_ ..
      assumption

theorem Mach.noteFailure_tame_dev {ps : Nat} {B : Dev} {X : Mach} (hsub : setOf [.free, .seq, .stats, .commands, .events, .errorLog, .logs, .msix, .flt, .intr, .twk, .bbx, .link, .pools, .caps, .codec, .mags, .sent, .feat 0x00, .feat 0x1C, .feat 0x1D] ||| ps = ps)
    (hbase : Dev.Tame ps B X.dev) (p die block : Nat) : Dev.Tame ps B (Mach.noteFailure X p die block).dev := by
  refine Dev.Tame.next ?_ hsub hbase
  unfold Mach.noteFailure
  dsimp only
  refine Mach.tame_ite_dev ?_ ?_
  · refine Mach.dieFail_tame_dev (by decide) ?_ ..
    refine Mach.tame_mk_dev ?_
    refine Dev.onMag_tame (by decide) ?_ ..
    exact Dev.Tame.refl _ _
  · refine Mach.tame_mk_dev ?_
    refine Dev.onMag_tame (by decide) ?_ ..
    exact Dev.Tame.refl _ _

theorem Mach.noteFailure_tame_mem {ps : Nat} {B : Mem} {X : Mach} (hsub : setOf [.carriers] ||| ps = ps)
    (hbase : Mem.Tame ps B X.mem) (p die block : Nat) : Mem.Tame ps B (Mach.noteFailure X p die block).mem := by
  refine Mem.Tame.next ?_ hsub hbase
  unfold Mach.noteFailure
  dsimp only
  refine Mach.tame_ite_mem ?_ ?_
  · refine Mach.dieFail_tame_mem (by decide) ?_ ..
    refine Mach.tame_mk_mem ?_
    exact Mem.Tame.refl _ _
  · refine Mach.tame_mk_mem ?_
    exact Mem.Tame.refl _ _

theorem Dev.magOff_tame {ps : Nat} {B X : Dev} (hsub : setOf [.flt, .pools, .pins, .mags] ||| ps = ps)
    (hbase : Dev.Tame ps B X) (p : Nat) : Dev.Tame ps B (Dev.magOff X p) := by
  refine Dev.Tame.next ?_ hsub hbase
  unfold Dev.magOff
  dsimp only
  refine Dev.tame_pins (by decide) ?_
  refine Dev.onFlt_tame (by decide) ?_ ..
  refine Dev.onMag_tame (by decide) ?_ ..
  refine Dev.tame_foldl ?_ (fun _ _ _ => ?_)
  · exact Dev.Tame.refl _ _
  · refine Dev.setBuf_tame (by decide) ?_ ..
    assumption

theorem Mach.remove_tame_dev {ps : Nat} {B : Dev} {X : Mach} (hsub : setOf [.seq, .stats, .commands, .events, .errorLog, .logs, .msix, .flt, .intr, .bbx, .link, .pools, .pins, .caps, .codec, .mags, .sent, .feat 0x00, .feat 0x1D] ||| ps = ps)
    (hbase : Dev.Tame ps B X.dev) (p : Nat) : Dev.Tame ps B (Mach.remove X p).dev := by
  refine Dev.Tame.next ?_ hsub hbase
  unfold Mach.remove
  dsimp only
  refine Mach.advanceMarks_tame_dev (by decide) ?_ ..
  refine Mach.tame_mk_dev ?_
  refine Dev.fireInt_tame (by decide) ?_ ..
  refine Dev.postEvent_tame (by decide) ?_ ..
  refine Dev.tame_foldl ?_ (fun _ _ _ => ?_)
  · refine Dev.onMag_tame (by decide) ?_ ..
    refine Dev.magOff_tame (by decide) ?_ ..
    refine Dev.stopOn_tame (by decide) ?_ ..
    exact Dev.Tame.refl _ _
  · refine Dev.tame_ite ?_ ?_
    · refine Dev.dropTaken_tame (by decide) ?_ ..
      assumption
    · assumption

theorem Mach.remove_tame_mem {ps : Nat} {B : Mem} {X : Mach} (hsub : setOf [.carriers] ||| ps = ps)
    (hbase : Mem.Tame ps B X.mem) (p : Nat) : Mem.Tame ps B (Mach.remove X p).mem := by
  refine Mem.Tame.next ?_ hsub hbase
  unfold Mach.remove
  dsimp only
  refine Mach.advanceMarks_tame_mem (by decide) ?_ ..
  refine Mach.tame_mk_mem ?_
  exact Mem.Tame.refl _ _

theorem Mach.relocate_tame_dev {ps : Nat} {B : Dev} {X : Mach} (hsub : setOf [.seq, .stats, .mags, .feat 0x1D] ||| ps = ps)
    (hbase : Dev.Tame ps B X.dev) (p die block : Nat) (bad : Bool) : Dev.Tame ps B (Mach.relocate X p die block bad).dev := by
  refine Dev.Tame.next ?_ hsub hbase
  unfold Mach.relocate
  dsimp only
  split
  · exact Dev.Tame.refl _ _
  · refine onDev_tame_dev ?_
    refine Dev.onMag_tame (by decide) ?_ ..
    refine Mach.checkpoint_tame_dev (by decide) ?_ ..
    refine Mach.tame_mk_dev ?_
    refine Dev.bump_tame (by decide) ?_
    refine Dev.tame_ite ?_ ?_
    · refine Dev.growBad_tame (by decide) ?_ ..
      refine Dev.onVol_tame (by decide) ?_ ..
      split
      · dsimp only
        exact Dev.Tame.refl _ _
      · refine Mach.writeUnits_tame_dev (by decide) ?_ ..
        exact Dev.Tame.refl _ _
    · refine Dev.onVol_tame (by decide) ?_ ..
      split
      · dsimp only
        exact Dev.Tame.refl _ _
      · refine Mach.writeUnits_tame_dev (by decide) ?_ ..
        exact Dev.Tame.refl _ _

theorem Mach.relocate_tame_mem {ps : Nat} {B : Mem} {X : Mach} (hsub : setOf [.carriers] ||| ps = ps)
    (hbase : Mem.Tame ps B X.mem) (p die block : Nat) (bad : Bool) : Mem.Tame ps B (Mach.relocate X p die block bad).mem := by
  refine Mem.Tame.next ?_ hsub hbase
  unfold Mach.relocate
  dsimp only
  split
  · exact Mem.Tame.refl _ _
  · refine onDev_tame_mem ?_
    refine Mach.checkpoint_tame_mem (by decide) ?_ ..
    refine Mach.tame_mk_mem ?_
    split
    · dsimp only
      exact Mem.Tame.refl _ _
    · refine Mach.writeUnits_tame_mem (by decide) ?_ ..
      exact Mem.Tame.refl _ _

theorem Mach.scanPages_tame_dev {ps : Nat} {B : Dev} {X : Mach} (hsub : setOf [.free, .seq, .stats, .commands, .events, .flt, .twk, .bbx, .link, .mags, .sent, .feat 0x1C, .feat 0x1D] ||| ps = ps)
    (hbase : Dev.Tame ps B X.dev) (p : Nat) (found : List (Nat × Nat × Nat × Nat)) (ppas : List Nat) : Dev.Tame ps B (Mach.scanPages X p found ppas).dev := by
  refine Dev.Tame.next ?_ hsub hbase
  unfold Mach.scanPages
  refine Mach.tame_foldl_dev ?_ (fun _ _ _ => ?_)
  · exact Dev.Tame.refl _ _
  · refine Mach.tame_foldl_dev ?_ (fun _ _ _ => ?_)
    · assumption
    · split
      split
      refine Mach.tame_mk_dev ?_
      refine Dev.codewordEnd_tame (by decide) ?_ ..
      assumption

theorem Mach.scanPages_tame_mem {ps : Nat} {B : Mem} {X : Mach} (hsub : setOf [] ||| ps = ps)
    (hbase : Mem.Tame ps B X.mem) (p : Nat) (found : List (Nat × Nat × Nat × Nat)) (ppas : List Nat) : Mem.Tame ps B (Mach.scanPages X p found ppas).mem := by
  refine Mem.Tame.next ?_ hsub hbase
  unfold Mach.scanPages
  refine Mach.tame_foldl_mem ?_ (fun _ _ _ => ?_)
  · exact Mem.Tame.refl _ _
  · refine Mach.tame_foldl_mem ?_ (fun _ _ _ => ?_)
    · assumption
    · split
      split
      refine Mach.tame_mk_mem ?_
      assumption

end Sys2Proof.Machine
end

