-- ==== Sys2Proof/Laws/FrameMount.lean ====
section
/-! SUPPORT. What each operation of Machine/Mount.lean may change. -/

namespace Sys2Proof.Machine
open Sys2Proof

theorem Mach.tame_foldl_fst_dev {α β : Type} {ps : Nat} {B : Dev} {l : List α} {f : Mach × β → α → Mach × β} {z : Mach × β}
    (h : Dev.Tame ps B z.1.dev) (hs : ∀ a x, Dev.Tame ps B a.1.dev → Dev.Tame ps B (f a x).1.dev) : Dev.Tame ps B (l.foldl f z).1.dev := by
  induction l generalizing z with
  | nil => exact h
  | cons y r ih => exact ih (hs _ _ h)

theorem Mach.tame_foldl_fst_mem {α β : Type} {ps : Nat} {B : Mem} {l : List α} {f : Mach × β → α → Mach × β} {z : Mach × β}
    (h : Mem.Tame ps B z.1.mem) (hs : ∀ a x, Mem.Tame ps B a.1.mem → Mem.Tame ps B (f a x).1.mem) : Mem.Tame ps B (l.foldl f z).1.mem := by
  induction l generalizing z with
  | nil => exact h
  | cons y r ih => exact ih (hs _ _ h)

theorem Dev.magPwr_tame {ps : Nat} {B X : Dev} (hsub : setOf [.pins] ||| ps = ps)
    (hbase : Dev.Tame ps B X) (p : Nat) (on : Bool) : Dev.Tame ps B (Dev.magPwr X p on) := by
  refine Dev.Tame.next ?_ hsub hbase
  unfold Dev.magPwr
  refine Dev.tame_pins (by decide) ?_
  exact Dev.Tame.refl _ _

theorem Mach.magIdentify_tame_dev {ps : Nat} {B : Dev} {X : Mach} (hsub : setOf [.clk, .free, .seq, .stats, .commands, .events, .flt, .twk, .bbx, .sid, .link, .pins, .mags, .sent] ||| ps = ps)
    (hbase : Dev.Tame ps B X.dev) (p : Nat) : Dev.Tame ps B (Mach.magIdentify X p).2.dev := by
  refine Dev.Tame.next ?_ hsub hbase
  unfold Mach.magIdentify
  dsimp only
  split
  · dsimp only
    refine Dev.onMag_tame (by decide) ?_ ..
    refine Dev.advance_tame (by decide) ?_ ..
    refine Dev.magPwr_tame (by decide) ?_ ..
    exact Dev.Tame.refl _ _
  · split
    · dsimp only
      refine Dev.onMag_tame (by decide) ?_ ..
      refine Dev.advance_tame (by decide) ?_ ..
      refine Dev.magPwr_tame (by decide) ?_ ..
      exact Dev.Tame.refl _ _
    · split
      · split
        · dsimp only
          refine Mach.tame_ite_dev ?_ ?_
          · refine Mach.tame_mk_dev ?_
            refine Dev.onMag_tame (by decide) ?_ ..
            refine Dev.advance_tame (by decide) ?_ ..
            refine Dev.magPwr_tame (by decide) ?_ ..
            exact Dev.Tame.refl _ _
          · refine Mach.tame_mk_dev ?_
            refine Dev.raise_tame (by decide) ?_ ..
            refine Dev.onMag_tame (by decide) ?_ ..
            refine Dev.advance_tame (by decide) ?_ ..
            refine Dev.magPwr_tame (by decide) ?_ ..
            exact Dev.Tame.refl _ _
        · split
          · split
            · dsimp only
              refine Dev.onMag_tame (by decide) ?_ ..
              refine Dev.advance_tame (by decide) ?_ ..
              refine Dev.magPwr_tame (by decide) ?_ ..
              exact Dev.Tame.refl _ _
            · split
              · dsimp only
                refine Dev.onMag_tame (by decide) ?_ ..
                refine Dev.advance_tame (by decide) ?_ ..
                refine Dev.magPwr_tame (by decide) ?_ ..
                exact Dev.Tame.refl _ _
              · split
                · dsimp only
                  refine Dev.onMag_tame (by decide) ?_ ..
                  refine Dev.advance_tame (by decide) ?_ ..
                  refine Dev.magPwr_tame (by decide) ?_ ..
                  exact Dev.Tame.refl _ _
                · split
                  · dsimp only
                    refine Dev.onMag_tame (by decide) ?_ ..
                    refine Dev.advance_tame (by decide) ?_ ..
                    refine Dev.magPwr_tame (by decide) ?_ ..
                    exact Dev.Tame.refl _ _
                  · dsimp only
                    refine Dev.onMag_tame (by decide) ?_ ..
                    refine Dev.advance_tame (by decide) ?_ ..
                    refine Dev.magPwr_tame (by decide) ?_ ..
                    exact Dev.Tame.refl _ _
          · split
            · dsimp only
              refine Dev.raise_tame (by decide) ?_ ..
              refine Dev.onMag_tame (by decide) ?_ ..
              refine Dev.advance_tame (by decide) ?_ ..
              refine Dev.magPwr_tame (by decide) ?_ ..
              exact Dev.Tame.refl _ _
            · split
              · dsimp only
                refine Dev.raise_tame (by decide) ?_ ..
                refine Dev.onMag_tame (by decide) ?_ ..
                refine Dev.advance_tame (by decide) ?_ ..
                refine Dev.magPwr_tame (by decide) ?_ ..
                exact Dev.Tame.refl _ _
              · split
                · dsimp only
                  refine Dev.raise_tame (by decide) ?_ ..
                  refine Dev.onMag_tame (by decide) ?_ ..
                  refine Dev.advance_tame (by decide) ?_ ..
                  refine Dev.magPwr_tame (by decide) ?_ ..
                  exact Dev.Tame.refl _ _
                · split
                  · dsimp only
                    refine Dev.raise_tame (by decide) ?_ ..
                    refine Dev.onMag_tame (by decide) ?_ ..
                    refine Dev.advance_tame (by decide) ?_ ..
                    refine Dev.magPwr_tame (by decide) ?_ ..
                    exact Dev.Tame.refl _ _
                  · dsimp only
                    refine Dev.raise_tame (by decide) ?_ ..
                    refine Dev.onMag_tame (by decide) ?_ ..
                    refine Dev.advance_tame (by decide) ?_ ..
                    refine Dev.magPwr_tame (by decide) ?_ ..
                    exact Dev.Tame.refl _ _
      · split
        · dsimp only
          refine Mach.tame_ite_dev ?_ ?_
          · refine Mach.tame_mk_dev ?_
            refine Dev.onMag_tame (by decide) ?_ ..
            refine Dev.advance_tame (by decide) ?_ ..
            refine Dev.magPwr_tame (by decide) ?_ ..
            exact Dev.Tame.refl _ _
          · refine Mach.tame_mk_dev ?_
            refine Dev.raise_tame (by decide) ?_ ..
            refine Dev.onMag_tame (by decide) ?_ ..
            refine Dev.advance_tame (by decide) ?_ ..
            refine Dev.magPwr_tame (by decide) ?_ ..
            exact Dev.Tame.refl _ _
        · split
          · split
            · dsimp only
              refine Dev.onMag_tame (by decide) ?_ ..
              refine Dev.advance_tame (by decide) ?_ ..
              refine Dev.magPwr_tame (by decide) ?_ ..
              exact Dev.Tame.refl _ _
            · split
              · dsimp only
                refine Dev.onMag_tame (by decide) ?_ ..
                refine Dev.advance_tame (by decide) ?_ ..
                refine Dev.magPwr_tame (by decide) ?_ ..
                exact Dev.Tame.refl _ _
              · split
                · dsimp only
                  refine Dev.onMag_tame (by decide) ?_ ..
                  refine Dev.advance_tame (by decide) ?_ ..
                  refine Dev.magPwr_tame (by decide) ?_ ..
                  exact Dev.Tame.refl _ _
                · split
                  · dsimp only
                    refine Dev.onMag_tame (by decide) ?_ ..
                    refine Dev.advance_tame (by decide) ?_ ..
                    refine Dev.magPwr_tame (by decide) ?_ ..
                    exact Dev.Tame.refl _ _
                  · dsimp only
                    refine Dev.onMag_tame (by decide) ?_ ..
                    refine Dev.advance_tame (by decide) ?_ ..
                    refine Dev.magPwr_tame (by decide) ?_ ..
                    exact Dev.Tame.refl _ _
          · split
            · dsimp only
              refine Dev.raise_tame (by decide) ?_ ..
              refine Dev.onMag_tame (by decide) ?_ ..
              refine Dev.advance_tame (by decide) ?_ ..
              refine Dev.magPwr_tame (by decide) ?_ ..
              exact Dev.Tame.refl _ _
            · split
              · dsimp only
                refine Dev.raise_tame (by decide) ?_ ..
                refine Dev.onMag_tame (by decide) ?_ ..
                refine Dev.advance_tame (by decide) ?_ ..
                refine Dev.magPwr_tame (by decide) ?_ ..
                exact Dev.Tame.refl _ _
              · split
                · dsimp only
                  refine Dev.raise_tame (by decide) ?_ ..
                  refine Dev.onMag_tame (by decide) ?_ ..
                  refine Dev.advance_tame (by decide) ?_ ..
                  refine Dev.magPwr_tame (by decide) ?_ ..
                  exact Dev.Tame.refl _ _
                · split
                  · dsimp only
                    refine Dev.raise_tame (by decide) ?_ ..
                    refine Dev.onMag_tame (by decide) ?_ ..
                    refine Dev.advance_tame (by decide) ?_ ..
                    refine Dev.magPwr_tame (by decide) ?_ ..
                    exact Dev.Tame.refl _ _
                  · dsimp only
                    refine Dev.raise_tame (by decide) ?_ ..
                    refine Dev.onMag_tame (by decide) ?_ ..
                    refine Dev.advance_tame (by decide) ?_ ..
                    refine Dev.magPwr_tame (by decide) ?_ ..
                    exact Dev.Tame.refl _ _

theorem Mach.magIdentify_tame_mem {ps : Nat} {B : Mem} {X : Mach} (hsub : setOf [] ||| ps = ps)
    (hbase : Mem.Tame ps B X.mem) (p : Nat) : Mem.Tame ps B (Mach.magIdentify X p).2.mem := by
  refine Mem.Tame.next ?_ hsub hbase
  unfold Mach.magIdentify
  dsimp only
  split
  · dsimp only
    exact Mem.Tame.refl _ _
  · split
    · dsimp only
      exact Mem.Tame.refl _ _
    · split
      · split
        · dsimp only
          refine Mach.tame_ite_mem ?_ ?_
          · refine Mach.tame_mk_mem ?_
            exact Mem.Tame.refl _ _
          · refine Mach.tame_mk_mem ?_
            exact Mem.Tame.refl _ _
        · split
          · split
            · dsimp only
              exact Mem.Tame.refl _ _
            · split
              · dsimp only
                exact Mem.Tame.refl _ _
              · split
                · dsimp only
                  exact Mem.Tame.refl _ _
                · split
                  · dsimp only
                    exact Mem.Tame.refl _ _
                  · dsimp only
                    exact Mem.Tame.refl _ _
          · split
            · dsimp only
              exact Mem.Tame.refl _ _
            · split
              · dsimp only
                exact Mem.Tame.refl _ _
              · split
                · dsimp only
                  exact Mem.Tame.refl _ _
                · split
                  · dsimp only
                    exact Mem.Tame.refl _ _
                  · dsimp only
                    exact Mem.Tame.refl _ _
      · split
        · dsimp only
          refine Mach.tame_ite_mem ?_ ?_
          · refine Mach.tame_mk_mem ?_
            exact Mem.Tame.refl _ _
          · refine Mach.tame_mk_mem ?_
            exact Mem.Tame.refl _ _
        · split
          · split
            · dsimp only
              exact Mem.Tame.refl _ _
            · split
              · dsimp only
                exact Mem.Tame.refl _ _
              · split
                · dsimp only
                  exact Mem.Tame.refl _ _
                · split
                  · dsimp only
                    exact Mem.Tame.refl _ _
                  · dsimp only
                    exact Mem.Tame.refl _ _
          · split
            · dsimp only
              exact Mem.Tame.refl _ _
            · split
              · dsimp only
                exact Mem.Tame.refl _ _
              · split
                · dsimp only
                  exact Mem.Tame.refl _ _
                · split
                  · dsimp only
                    exact Mem.Tame.refl _ _
                  · dsimp only
                    exact Mem.Tame.refl _ _

theorem Mach.refuseMount_tame_dev {ps : Nat} {B : Dev} {X : Mach} (hsub : setOf [.seq, .commands, .errorLog, .flt, .pools, .pins, .mags] ||| ps = ps)
    (hbase : Dev.Tame ps B X.dev) (c : Cmd) (p err status : Nat) : Dev.Tame ps B (Mach.refuseMount X c p err status).dev := by
  refine Dev.Tame.next ?_ hsub hbase
  unfold Mach.refuseMount
  dsimp only
  refine Mach.complete_tame_dev (by decide) ?_ ..
  refine Mach.tame_mk_dev ?_
  refine Dev.onMag_tame (by decide) ?_ ..
  refine Dev.magOff_tame (by decide) ?_ ..
  exact Dev.Tame.refl _ _

theorem Mach.refuseMount_tame_mem {ps : Nat} {B : Mem} {X : Mach} (hsub : setOf [] ||| ps = ps)
    (hbase : Mem.Tame ps B X.mem) (c : Cmd) (p err status : Nat) : Mem.Tame ps B (Mach.refuseMount X c p err status).mem := by
  refine Mem.Tame.next ?_ hsub hbase
  unfold Mach.refuseMount
  dsimp only
  refine Mach.complete_tame_mem (by decide) ?_ ..
  refine Mach.tame_mk_mem ?_
  exact Mem.Tame.refl _ _

theorem Mach.scanSb_tame_dev {ps : Nat} {B : Dev} {X : Mach} (hsub : setOf [.mags] ||| ps = ps)
    (hbase : Dev.Tame ps B X.dev) (p : Nat) (x : ScanSb) : Dev.Tame ps B (Mach.scanSb X p x).1.dev := by
  refine Dev.Tame.next ?_ hsub hbase
  unfold Mach.scanSb
  dsimp only
  refine Dev.onVol_tame (by decide) ?_ ..
  exact Dev.Tame.refl _ _

theorem Mach.scanSb_tame_mem {ps : Nat} {B : Mem} {X : Mach} (hsub : setOf [] ||| ps = ps)
    (hbase : Mem.Tame ps B X.mem) (p : Nat) (x : ScanSb) : Mem.Tame ps B (Mach.scanSb X p x).1.mem := by
  refine Mem.Tame.next ?_ hsub hbase
  unfold Mach.scanSb
  dsimp only
  exact Mem.Tame.refl _ _

theorem Mach.recoverClips_tame_dev {ps : Nat} {B : Dev} {X : Mach} (hsub : setOf [.seq, .stats, .mags, .feat 0x1D] ||| ps = ps)
    (hbase : Dev.Tame ps B X.dev) (p : Nat) (us : List FoundUnit) : Dev.Tame ps B (Mach.recoverClips X p us).dev := by
  refine Dev.Tame.next ?_ hsub hbase
  unfold Mach.recoverClips
  dsimp only
  refine Mach.tame_ite_dev ?_ ?_
  · refine Mach.tame_mk_dev ?_
    refine Dev.onVol_tame (by decide) ?_ ..
    exact Dev.Tame.refl _ _
  · refine Mach.tame_mk_dev ?_
    refine Dev.stamped_tame (by decide) ?_ ..
    refine Mach.tame_ite_dev ?_ ?_
    · refine Mach.tame_mk_dev ?_
      refine Dev.onVol_tame (by decide) ?_ ..
      exact Dev.Tame.refl _ _
    · refine Mach.tame_foldl_dev ?_ (fun _ _ _ => ?_)
      · refine Mach.tame_mk_dev ?_
        refine Dev.onVol_tame (by decide) ?_ ..
        exact Dev.Tame.refl _ _
      · refine Mach.writeLogs_tame_dev (by decide) ?_ ..
        assumption

theorem Mach.recoverClips_tame_mem {ps : Nat} {B : Mem} {X : Mach} (hsub : setOf [.carriers] ||| ps = ps)
    (hbase : Mem.Tame ps B X.mem) (p : Nat) (us : List FoundUnit) : Mem.Tame ps B (Mach.recoverClips X p us).mem := by
  refine Mem.Tame.next ?_ hsub hbase
  unfold Mach.recoverClips
  dsimp only
  refine Mach.tame_ite_mem ?_ ?_
  · refine Mach.tame_mk_mem ?_
    exact Mem.Tame.refl _ _
  · refine Mach.tame_mk_mem ?_
    refine Mach.tame_ite_mem ?_ ?_
    · refine Mach.tame_mk_mem ?_
      exact Mem.Tame.refl _ _
    · refine Mach.tame_foldl_mem ?_ (fun _ _ _ => ?_)
      · refine Mach.tame_mk_mem ?_
        exact Mem.Tame.refl _ _
      · refine Mach.writeLogs_tame_mem (by decide) ?_ ..
        assumption

theorem Mach.mountVolume_tame_dev {ps : Nat} {B : Dev} {X Y : Mach} {p : Nat} {g : Geo} {ro : Bool} {found : List (Nat × Nat × Nat × Nat)}
    (hsub : setOf [.free, .seq, .stats, .commands, .events, .flt, .twk, .bbx, .link, .mags, .sent, .feat 0x1C, .feat 0x1D] ||| ps = ps) (hb : Dev.Tame ps B X.dev) (h : X.mountVolume p g ro found = some Y) : Dev.Tame ps B Y.dev := by
  refine Dev.Tame.next ?_ hsub hb
  clear hsub hb
  unfold Mach.mountVolume at h
  split at h
  · exact absurd h (by simp)
  split at h
  · exact absurd h (by simp)
  split at h
  · exact absurd h (by simp)
  extract_lets gen newest older v mg closed v1 d1 src d2 m1 m2 lines seq m3 m4 q sample m5 at h
  obtain rfl := Option.some.inj h
  have s1 : Dev.Tame (setOf [.free, .seq, .stats, .commands, .events, .flt, .twk, .bbx, .link, .mags, .sent, .feat 0x1C, .feat 0x1D]) X.dev d1 := Dev.onMag_tame (X := X.dev) (by decide) (.refl _ _) ..
  have s2 : Dev.Tame (setOf [.free, .seq, .stats, .commands, .events, .flt, .twk, .bbx, .link, .mags, .sent, .feat 0x1C, .feat 0x1D]) X.dev d2 := Dev.onFlt_tame (X := d1) (by decide) s1 ..
  have t1 : Dev.Tame (setOf [.free, .seq, .stats, .commands, .events, .flt, .twk, .bbx, .link, .mags, .sent, .feat 0x1C, .feat 0x1D]) X.dev m1.dev := s2
  clear_value m1
  have t2 : Dev.Tame (setOf [.free, .seq, .stats, .commands, .events, .flt, .twk, .bbx, .link, .mags, .sent, .feat 0x1C, .feat 0x1D]) X.dev m2.1.dev :=
    Mach.tame_foldl_fst_dev (l := m1.scanSbs p _) t1 (fun a x ha => Mach.scanSb_tame_dev (by decide) ha ..)
  clear_value m2
  have t3 : Dev.Tame (setOf [.free, .seq, .stats, .commands, .events, .flt, .twk, .bbx, .link, .mags, .sent, .feat 0x1C, .feat 0x1D]) X.dev m3.dev :=
    onDev_tame_dev (m := m2.1) (Dev.onVol_tame (by decide) t2 ..)
  clear_value m3
  have t4 : Dev.Tame (setOf [.free, .seq, .stats, .commands, .events, .flt, .twk, .bbx, .link, .mags, .sent, .feat 0x1C, .feat 0x1D]) X.dev m4.dev := Mach.recoverClips_tame_dev (by decide) t3 ..
  clear_value m4
  have t5 : Dev.Tame (setOf [.free, .seq, .stats, .commands, .events, .flt, .twk, .bbx, .link, .mags, .sent, .feat 0x1C, .feat 0x1D]) X.dev m5.dev :=
    Mach.tame_ite_dev t4 (Mach.mirrorBlackBox_tame_dev (by decide) (Mach.checkpoint_tame_dev (by decide) t4 ..) ..)
  exact Mach.scanPages_tame_dev (by decide) t5 ..

theorem Mach.mountVolume_tame_mem {ps : Nat} {B : Mem} {X Y : Mach} {p : Nat} {g : Geo} {ro : Bool} {found : List (Nat × Nat × Nat × Nat)}
    (hsub : setOf [.carriers] ||| ps = ps) (hb : Mem.Tame ps B X.mem) (h : X.mountVolume p g ro found = some Y) : Mem.Tame ps B Y.mem := by
  refine Mem.Tame.next ?_ hsub hb
  clear hsub hb
  unfold Mach.mountVolume at h
  split at h
  · exact absurd h (by simp)
  split at h
  · exact absurd h (by simp)
  split at h
  · exact absurd h (by simp)
  extract_lets gen newest older v mg closed v1 d1 src d2 m1 m2 lines seq m3 m4 q sample m5 at h
  obtain rfl := Option.some.inj h
  have t1 : Mem.Tame (setOf [.carriers]) X.mem m1.mem := .refl _ _
  clear_value m1
  have t2 : Mem.Tame (setOf [.carriers]) X.mem m2.1.mem :=
    Mach.tame_foldl_fst_mem (l := m1.scanSbs p _) t1 (fun a x ha => Mach.scanSb_tame_mem (by decide) ha ..)
  clear_value m2
  have t3 : Mem.Tame (setOf [.carriers]) X.mem m3.mem := t2
  clear_value m3
  have t4 : Mem.Tame (setOf [.carriers]) X.mem m4.mem := Mach.recoverClips_tame_mem (by decide) t3 ..
  clear_value m4
  have t5 : Mem.Tame (setOf [.carriers]) X.mem m5.mem :=
    Mach.tame_ite_mem t4 (Mach.mirrorBlackBox_tame_mem (by decide) (Mach.checkpoint_tame_mem (by decide) t4 ..) ..)
  exact Mach.scanPages_tame_mem (by decide) t5 ..

theorem Mach.relocateDue_tame_dev_rec {B : Dev} (k : Nat) : ∀ (X : Mach) (p : Nat), Dev.Tame (setOf [.seq, .stats, .mags, .feat 0x1D]) B X.dev →
    Dev.Tame (setOf [.seq, .stats, .mags, .feat 0x1D]) B (Mach.relocateDue X p k).2.dev := by
  induction k with
  | zero =>
    intro X p g
    unfold Mach.relocateDue
    dsimp only
    assumption
  | succ k ih_dev =>
    intro X p g
    unfold Mach.relocateDue
    split
    · dsimp only
      assumption
    · dsimp only
      apply ih_dev
      refine Mach.relocate_tame_dev (by decide) ?_ ..
      assumption

theorem Mach.relocateDue_tame_dev {ps : Nat} {B : Dev} {X : Mach} (hsub : setOf [.seq, .stats, .mags, .feat 0x1D] ||| ps = ps)
    (hbase : Dev.Tame ps B X.dev) (p : Nat) (k : Nat) : Dev.Tame ps B (Mach.relocateDue X p k).2.dev :=
  Dev.Tame.next (Mach.relocateDue_tame_dev_rec k _ _ (.refl _ _)) hsub hbase

theorem Mach.relocateDue_tame_mem_rec {B : Mem} (k : Nat) : ∀ (X : Mach) (p : Nat), Mem.Tame (setOf [.carriers]) B X.mem →
    Mem.Tame (setOf [.carriers]) B (Mach.relocateDue X p k).2.mem := by
  induction k with
  | zero =>
    intro X p g
    unfold Mach.relocateDue
    dsimp only
    assumption
  | succ k ih_mem =>
    intro X p g
    unfold Mach.relocateDue
    split
    · dsimp only
      assumption
    · dsimp only
      apply ih_mem
      refine Mach.relocate_tame_mem (by decide) ?_ ..
      assumption

theorem Mach.relocateDue_tame_mem {ps : Nat} {B : Mem} {X : Mach} (hsub : setOf [.carriers] ||| ps = ps)
    (hbase : Mem.Tame ps B X.mem) (p : Nat) (k : Nat) : Mem.Tame ps B (Mach.relocateDue X p k).2.mem :=
  Mem.Tame.next (Mach.relocateDue_tame_mem_rec k _ _ (.refl _ _)) hsub hbase

end Sys2Proof.Machine
end

