-- ==== Sys2Proof/Laws/FrameContext.lean ====
section
/-! SUPPORT. What each operation of Machine/Context.lean may change. -/

namespace Sys2Proof.Machine
open Sys2Proof

theorem Dev.newCtx_tame {ps : Nat} {B X : Dev} (hsub : setOf [.ctxs] ||| ps = ps)
    (hbase : Dev.Tame ps B X) (c : Ctx) : Dev.Tame ps B (Dev.newCtx X c).2 := by
  refine Dev.Tame.next ?_ hsub hbase
  unfold Dev.newCtx
  dsimp only
  refine Dev.setCtx_tame (by decide) ?_ ..
  exact Dev.Tame.refl _ _

theorem Dev.createCapture_tame {ps : Nat} {B X : Dev} (hsub : setOf [.ctxs, .caps, .feat 0x15] ||| ps = ps)
    (hbase : Dev.Tame ps B X) (l : List Byte) : Dev.Tame ps B (Dev.createCapture X l).2.2 := by
  refine Dev.Tame.next ?_ hsub hbase
  unfold Dev.createCapture
  dsimp only
  refine Dev.setReg_tame (by decide) ?_
  refine Dev.setReg_tame (by decide) ?_
  refine Dev.setReg_tame (by decide) ?_
  refine Dev.setReg_tame (by decide) ?_
  refine Dev.setCap_tame (by decide) ?_ ..
  refine Dev.tame_foldl ?_ (fun _ _ _ => ?_)
  · refine Dev.newCtx_tame (by decide) ?_ ..
    exact Dev.Tame.refl _ _
  · refine Dev.newCtx_tame (by decide) ?_ ..
    assumption

theorem Dev.createFlow_tame {ps : Nat} {B X : Dev} (hsub : setOf [.shapers, .policers, .ctxs, .feat 0x21] ||| ps = ps)
    (hbase : Dev.Tame ps B X) (l : List Byte) : Dev.Tame ps B (Dev.createFlow X l).2 := by
  refine Dev.Tame.next ?_ hsub hbase
  unfold Dev.createFlow
  split
  dsimp only
  split
  · dsimp only
    refine Dev.Tame.of_snd (by assumption) ?_
    refine Dev.newCtx_tame (by decide) ?_ ..
    exact Dev.Tame.refl _ _
  · split
    · dsimp only
      refine Dev.setBucket_tame (by decide) ?_ ..
      refine Dev.setReg_tame (by decide) ?_
      refine Dev.setReg_tame (by decide) ?_
      refine Dev.Tame.of_snd (by assumption) ?_
      refine Dev.newCtx_tame (by decide) ?_ ..
      exact Dev.Tame.refl _ _
    · dsimp only
      refine Dev.resetShaper_tame (by decide) ?_ ..
      refine Dev.setReg_tame (by decide) ?_
      refine Dev.setReg_tame (by decide) ?_
      refine Dev.setReg_tame (by decide) ?_
      refine Dev.Tame.of_snd (by assumption) ?_
      refine Dev.newCtx_tame (by decide) ?_ ..
      exact Dev.Tame.refl _ _

theorem Dev.createRing_tame {ps : Nat} {B X : Dev} (hsub : setOf [.cqs, .ctxs] ||| ps = ps)
    (hbase : Dev.Tame ps B X) (l : List Byte) : Dev.Tame ps B (Dev.createRing X l).2 := by
  refine Dev.Tame.next ?_ hsub hbase
  unfold Dev.createRing
  split
  dsimp only
  refine Dev.setCq_tame (by decide) ?_ ..
  refine Dev.Tame.of_snd (by assumption) ?_
  refine Dev.newCtx_tame (by decide) ?_ ..
  exact Dev.Tame.refl _ _

theorem Dev.createProxy_tame {ps : Nat} {B X : Dev} (hsub : setOf [.ctxs, .proxy] ||| ps = ps)
    (hbase : Dev.Tame ps B X) (l : List Byte) : Dev.Tame ps B (Dev.createProxy X l).2 := by
  refine Dev.Tame.next ?_ hsub hbase
  unfold Dev.createProxy
  split
  dsimp only
  refine Dev.onProxy_tame (by decide) ?_ ..
  refine Dev.tame_foldl ?_ (fun _ _ _ => ?_)
  · refine Dev.Tame.of_snd (by assumption) ?_
    refine Dev.newCtx_tame (by decide) ?_ ..
    exact Dev.Tame.refl _ _
  · refine Dev.newCtx_tame (by decide) ?_ ..
    assumption

theorem Dev.createKind_tame {ps : Nat} {B X : Dev} (hsub : setOf [.cqs, .shapers, .policers, .fab, .ctxs, .caps, .proxy, .feat 0x15, .feat 0x1A, .feat 0x21] ||| ps = ps)
    (hbase : Dev.Tame ps B X) (kind : Nat) (l : List Byte) : Dev.Tame ps B (Dev.createKind X kind l).2.2 := by
  refine Dev.Tame.next ?_ hsub hbase
  unfold Dev.createKind
  split
  · refine Dev.createCapture_tame (by decide) ?_ ..
    exact Dev.Tame.refl _ _
  · split
    dsimp only
    refine Dev.Tame.of_snd (by assumption) ?_
    refine Dev.createProxy_tame (by decide) ?_ ..
    exact Dev.Tame.refl _ _
  · split
    dsimp only
    refine Dev.Tame.of_snd (by assumption) ?_
    refine Dev.newCtx_tame (by decide) ?_ ..
    exact Dev.Tame.refl _ _
  · split
    dsimp only
    refine Dev.Tame.of_snd (by assumption) ?_
    refine Dev.createFlow_tame (by decide) ?_ ..
    exact Dev.Tame.refl _ _
  · split
    dsimp only
    refine Dev.onFab_tame (by decide) ?_ ..
    refine Dev.setBit_tame (by decide) ?_
    refine Dev.Tame.of_snd (by assumption) ?_
    refine Dev.newCtx_tame (by decide) ?_ ..
    exact Dev.Tame.refl _ _
  · split
    dsimp only
    refine Dev.Tame.of_snd (by assumption) ?_
    refine Dev.createRing_tame (by decide) ?_ ..
    exact Dev.Tame.refl _ _

theorem Dev.abortPlayback_tame {ps : Nat} {B X : Dev} (hsub : setOf [.seq, .commands, .errorLog] ||| ps = ps)
    (hbase : Dev.Tame ps B X) (id : Nat) : Dev.Tame ps B (Dev.abortPlayback X id) := by
  refine Dev.Tame.next ?_ hsub hbase
  unfold Dev.abortPlayback
  refine Dev.tame_foldl ?_ (fun _ _ _ => ?_)
  · exact Dev.Tame.refl _ _
  · refine Dev.tame_ite ?_ ?_
    · refine Dev.complete_tame (by decide) ?_ ..
      assumption
    · assumption

theorem Dev.dropKind_tame {ps : Nat} {B X : Dev} (hsub : setOf [.seq, .cqs, .commands, .errorLog, .fab, .caps, .codec, .proxy, .feat 0x1A] ||| ps = ps)
    (hbase : Dev.Tame ps B X) (id : Nat) (x : Ctx) : Dev.Tame ps B (Dev.dropKind X id x) := by
  refine Dev.Tame.next ?_ hsub hbase
  unfold Dev.dropKind
  split
  · refine Dev.setCap_tame (by decide) ?_ ..
    exact Dev.Tame.refl _ _
  · refine Dev.onProxy_tame (by decide) ?_ ..
    exact Dev.Tame.refl _ _
  · dsimp only
    refine Dev.onCodec_tame (by decide) ?_ ..
    refine Dev.abortPlayback_tame (by decide) ?_ ..
    exact Dev.Tame.refl _ _
  · dsimp only
    refine Dev.onFab_tame (by decide) ?_ ..
    refine Dev.setBit_tame (by decide) ?_
    exact Dev.Tame.refl _ _
  · refine Dev.setCq_tame (by decide) ?_ ..
    exact Dev.Tame.refl _ _
  · exact Dev.Tame.refl _ _

theorem Dev.freeCtx_tame {ps : Nat} {B X : Dev} (hsub : setOf [.ctxs] ||| ps = ps)
    (hbase : Dev.Tame ps B X) (id : Nat) : Dev.Tame ps B (Dev.freeCtx X id) := by
  refine Dev.Tame.next ?_ hsub hbase
  unfold Dev.freeCtx
  refine Dev.tame_ctxs (by decide) ?_
  exact Dev.Tame.refl _ _

end Sys2Proof.Machine
end

