-- ==== Sys2Proof/Laws/FrameCapture.lean ====
section
/-! SUPPORT. What each operation of Machine/Capture.lean may change. -/

namespace Sys2Proof.Machine
open Sys2Proof

theorem onCapture_tame_dev {ps : Nat} {B : Dev} {X : Mach} {c : Cmd} {f : Nat → Cap → Mach}
    (hsub : setOf [.commands, .errorLog, .seq] ||| ps = ps) (h : ∀ s k, Dev.Tame ps B (f s k).dev)
    (g : Dev.Tame ps B X.dev) : Dev.Tame ps B (onCapture c X f).dev := by
  unfold onCapture
  split
  · exact Mach.refuse_tame_dev hsub g ..
  · split
    · exact h _ _
    · exact Mach.refuse_tame_dev hsub g ..

theorem onCapture_tame_mem {ps : Nat} {B : Mem} {X : Mach} {c : Cmd} {f : Nat → Cap → Mach}
    (hsub : setOf [] ||| ps = ps) (h : ∀ s k, Mem.Tame ps B (f s k).mem)
    (g : Mem.Tame ps B X.mem) : Mem.Tame ps B (onCapture c X f).mem := by
  unfold onCapture
  split
  · exact Mach.refuse_tame_mem hsub g ..
  · split
    · exact h _ _
    · exact Mach.refuse_tame_mem hsub g ..

theorem Dev.onOpenClip_tame {ps : Nat} {B X : Dev} (hsub : setOf [.mags] ||| ps = ps)
    (hbase : Dev.Tame ps B X) (s : Nat) (f : Nat → Clip → Clip) : Dev.Tame ps B (Dev.onOpenClip X s f) := by
  refine Dev.Tame.next ?_ hsub hbase
  unfold Dev.onOpenClip
  split
  · exact Dev.Tame.refl _ _
  · refine Dev.tame_foldl ?_ (fun _ _ _ => ?_)
    · exact Dev.Tame.refl _ _
    · refine Dev.tame_ite ?_ ?_
      · refine Dev.onVol_tame (by decide) ?_ ..
        assumption
      · assumption

theorem Mach.dropClip_tame_dev {ps : Nat} {B : Dev} {X : Mach} (hsub : setOf [.mags] ||| ps = ps)
    (hbase : Dev.Tame ps B X.dev) (p : Nat) (x : Clip) : Dev.Tame ps B (Mach.dropClip X p x).dev := by
  refine Dev.Tame.next ?_ hsub hbase
  unfold Mach.dropClip
  dsimp only
  refine onDev_tame_dev ?_
  refine Dev.onVol_tame (by decide) ?_ ..
  exact Dev.Tame.refl _ _

theorem Mach.dropClip_tame_mem {ps : Nat} {B : Mem} {X : Mach} (hsub : setOf [] ||| ps = ps)
    (hbase : Mem.Tame ps B X.mem) (p : Nat) (x : Clip) : Mem.Tame ps B (Mach.dropClip X p x).mem := by
  refine Mem.Tame.next ?_ hsub hbase
  unfold Mach.dropClip
  dsimp only
  refine onDev_tame_mem ?_
  exact Mem.Tame.refl _ _

theorem Dev.disarm_tame {ps : Nat} {B X : Dev} (hsub : setOf [.stats, .link, .pools, .caps, .sent] ||| ps = ps)
    (hbase : Dev.Tame ps B X) (s : Nat) : Dev.Tame ps B (Dev.disarm X s) := by
  refine Dev.Tame.next ?_ hsub hbase
  unfold Dev.disarm
  refine Dev.sendState_tame (by decide) ?_ ..
  refine Dev.reserveAgain_tame (by decide) ?_ ..
  refine Dev.modCap_tame (by decide) ?_ ..
  exact Dev.Tame.refl _ _

theorem Dev.bcastEnd_tame {ps : Nat} {B X : Dev} (hsub : setOf [.seq, .commands, .errorLog, .bbx, .link] ||| ps = ps)
    (hbase : Dev.Tame ps B X) (b : Broadcast) : Dev.Tame ps B (Dev.bcastEnd X b) := by
  refine Dev.Tame.next ?_ hsub hbase
  unfold Dev.bcastEnd
  dsimp only
  refine Dev.complete_tame (by decide) ?_ ..
  refine Dev.tame_foldl ?_ (fun _ _ _ => ?_)
  · refine Dev.onLink_tame (by decide) ?_ ..
    exact Dev.Tame.refl _ _
  · refine Dev.record_tame (by decide) ?_ ..
    assumption

theorem Dev.moveStream_tame {ps : Nat} {B X : Dev} (hsub : setOf [.seq, .commands, .events, .bbx, .caps] ||| ps = ps)
    (hbase : Dev.Tame ps B X) (s : Nat) : Dev.Tame ps B (Dev.moveStream X s) := by
  refine Dev.Tame.next ?_ hsub hbase
  unfold Dev.moveStream
  split
  · exact Dev.Tame.refl _ _
  · refine Dev.tame_ite ?_ ?_
    · exact Dev.Tame.refl _ _
    · dsimp only
      refine Dev.record_tame (by decide) ?_ ..
      refine Dev.postEvent_tame (by decide) ?_ ..
      refine Dev.setCap_tame (by decide) ?_ ..
      exact Dev.Tame.refl _ _

theorem Dev.dropStreams_tame {ps : Nat} {B X : Dev} (hsub : setOf [.caps] ||| ps = ps)
    (hbase : Dev.Tame ps B X) (l : List Nat) (j : Nat) : Dev.Tame ps B (Dev.dropStreams X l j) := by
  refine Dev.Tame.next ?_ hsub hbase
  unfold Dev.dropStreams
  refine Dev.tame_foldl ?_ (fun _ _ _ => ?_)
  · exact Dev.Tame.refl _ _
  · refine Dev.modCap_tame (by decide) ?_ ..
    assumption

theorem Mach.easeLevel_tame_dev {ps : Nat} {B : Dev} {X : Mach} (hsub : setOf [.seq, .commands, .events, .bbx, .caps] ||| ps = ps)
    (hbase : Dev.Tame ps B X.dev) (p level : Nat) : Dev.Tame ps B (Mach.easeLevel X p level).dev := by
  refine Dev.Tame.next ?_ hsub hbase
  unfold Mach.easeLevel
  dsimp only
  refine Mach.tame_ite_dev ?_ ?_
  · exact Dev.Tame.refl _ _
  · refine Mach.tame_ite_dev ?_ ?_
    · refine Mach.tame_mk_dev ?_
      refine Dev.tame_foldl ?_ (fun _ _ _ => ?_)
      · exact Dev.Tame.refl _ _
      · refine Dev.moveStream_tame (by decide) ?_ ..
        assumption
    · split
      · refine Mach.tame_mk_dev ?_
        refine Dev.dropStreams_tame (by decide) ?_ ..
        refine Dev.tame_foldl ?_ (fun _ _ _ => ?_)
        · exact Dev.Tame.refl _ _
        · refine Dev.moveStream_tame (by decide) ?_ ..
          assumption
      · refine Mach.tame_mk_dev ?_
        refine Dev.dropStreams_tame (by decide) ?_ ..
        refine Dev.tame_foldl ?_ (fun _ _ _ => ?_)
        · exact Dev.Tame.refl _ _
        · refine Dev.moveStream_tame (by decide) ?_ ..
          assumption

theorem Mach.easeLevel_tame_mem {ps : Nat} {B : Mem} {X : Mach} (hsub : setOf [] ||| ps = ps)
    (hbase : Mem.Tame ps B X.mem) (p level : Nat) : Mem.Tame ps B (Mach.easeLevel X p level).mem := by
  refine Mem.Tame.next ?_ hsub hbase
  unfold Mach.easeLevel
  dsimp only
  refine Mach.tame_ite_mem ?_ ?_
  · exact Mem.Tame.refl _ _
  · refine Mach.tame_ite_mem ?_ ?_
    · refine Mach.tame_mk_mem ?_
      exact Mem.Tame.refl _ _
    · split
      · refine Mach.tame_mk_mem ?_
        exact Mem.Tame.refl _ _
      · refine Mach.tame_mk_mem ?_
        exact Mem.Tame.refl _ _

end Sys2Proof.Machine
end

