-- ==== Sys2Proof/Laws/FrameTick.lean ====
section
/-! SUPPORT. What each operation of Machine/Tick.lean may change. -/

namespace Sys2Proof.Machine
open Sys2Proof

theorem Dev.placeTick_tame {ps : Nat} {B X : Dev} (hsub : setOf [.tick] ||| ps = ps)
    (hbase : Dev.Tame ps B X) (t n : Nat) : Dev.Tame ps B (Dev.placeTick X t n) := by
  refine Dev.Tame.next ?_ hsub hbase
  unfold Dev.placeTick
  dsimp only
  refine Dev.onTick_tame (by decide) ?_ ..
  exact Dev.Tame.refl _ _

theorem Dev.retime_tame {ps : Nat} {B X : Dev} (hsub : setOf [.tick] ||| ps = ps)
    (hbase : Dev.Tame ps B X) (newSource : Bool) : Dev.Tame ps B (Dev.retime X newSource) := by
  refine Dev.Tame.next ?_ hsub hbase
  unfold Dev.retime
  dsimp only
  refine Dev.tame_ite ?_ ?_
  · refine Dev.onTick_tame (by decide) ?_ ..
    exact Dev.Tame.refl _ _
  · refine Dev.tame_ite ?_ ?_
    · refine Dev.placeTick_tame (by decide) ?_ ..
      refine Dev.onTick_tame (by decide) ?_ ..
      exact Dev.Tame.refl _ _
    · refine Dev.tame_ite ?_ ?_
      · refine Dev.onTick_tame (by decide) ?_ ..
        refine Dev.onTick_tame (by decide) ?_ ..
        exact Dev.Tame.refl _ _
      · refine Dev.placeTick_tame (by decide) ?_ ..
        refine Dev.onTick_tame (by decide) ?_ ..
        refine Dev.onTick_tame (by decide) ?_ ..
        exact Dev.Tame.refl _ _

theorem Dev.creditTime_tame {ps : Nat} {B X : Dev} (hsub : setOf [.stats, .link] ||| ps = ps)
    (hbase : Dev.Tame ps B X) : Dev.Tame ps B (Dev.creditTime X) := by
  refine Dev.Tame.next ?_ hsub hbase
  unfold Dev.creditTime
  refine Dev.tame_foldl ?_ (fun _ _ _ => ?_)
  · exact Dev.Tame.refl _ _
  · dsimp only
    refine Dev.tame_ite ?_ ?_
    · assumption
    · refine Dev.onPort_tame (by decide) ?_ ..
      refine Dev.count_tame (by decide) ?_ ..
      assumption

theorem Dev.restartStats_tame {ps : Nat} {B X : Dev} (hsub : setOf [.stats, .link, .mags] ||| ps = ps)
    (hbase : Dev.Tame ps B X) : Dev.Tame ps B (Dev.restartStats X) := by
  refine Dev.Tame.next ?_ hsub hbase
  unfold Dev.restartStats
  dsimp only
  refine Dev.tame_link_mags (by decide) (by decide) (by simp) ?_
  refine Dev.tame_foldl ?_ (fun _ _ _ => ?_)
  · refine Dev.tame_foldl ?_ (fun _ _ _ => ?_)
    · refine Dev.tame_foldl ?_ (fun _ _ _ => ?_)
      · refine Dev.tame_stats (by decide) ?_
        exact Dev.Tame.refl _ _
      · refine Dev.countMax_tame (by decide) ?_ ..
        assumption
    · refine Dev.tame_foldl ?_ (fun _ _ _ => ?_)
      · assumption
      · refine Dev.countMax_tame (by decide) ?_ ..
        assumption
  · refine Dev.countMax_tame (by decide) ?_ ..
    assumption

theorem Dev.latch_tame {ps : Nat} {B X : Dev} (hsub : setOf [.stats, .snap, .sid, .link, .mags] ||| ps = ps)
    (hbase : Dev.Tame ps B X) (n t : Nat) (sub late : Bool) : Dev.Tame ps B (Dev.latch X n t sub late) := by
  refine Dev.Tame.next ?_ hsub hbase
  unfold Dev.latch
  dsimp only
  refine Dev.restartStats_tame (by decide) ?_ ..
  refine Dev.tame_snap_snapHidden_sid (by decide) (by decide) (by decide) ?_
  refine Dev.creditTime_tame (by decide) ?_ ..
  exact Dev.Tame.refl _ _

theorem Mach.closeFrame_tame_dev {ps : Nat} {B : Dev} {X : Mach} (hsub : setOf [.free, .seq, .stats, .commands, .events, .logs, .flt, .twk, .bbx, .link, .pools, .dram, .caps, .sent, .feat 0x10, .feat 0x1B] ||| ps = ps)
    (hbase : Dev.Tame ps B X.dev) (s n : Nat) : Dev.Tame ps B (Mach.closeFrame X s n).dev := by
  refine Dev.Tame.next ?_ hsub hbase
  unfold Mach.closeFrame
  split
  · refine Mach.tame_ite_dev ?_ ?_
    · exact Dev.Tame.refl _ _
    · dsimp only
      refine Dev.sweep_tame (by decide) ?_ ..
      refine Dev.tame_ite ?_ ?_
      · refine Dev.modCap_tame (by decide) ?_ ..
        refine Dev.reportDrop_tame (by decide) ?_ ..
        refine Dev.modWork_tame (by decide) ?_ ..
        split
        · refine Dev.prmEvent_tame (by decide) ?_ ..
          refine Mach.tame_foldl_dev ?_ (fun _ _ _ => ?_)
          · exact Dev.Tame.refl _ _
          · refine Mach.badLine_tame_dev (by decide) ?_ ..
            assumption
        · refine Mach.tame_foldl_dev ?_ (fun _ _ _ => ?_)
          · exact Dev.Tame.refl _ _
          · refine Mach.badLine_tame_dev (by decide) ?_ ..
            assumption
      · refine Dev.modWork_tame (by decide) ?_ ..
        split
        · refine Dev.prmEvent_tame (by decide) ?_ ..
          refine Mach.tame_foldl_dev ?_ (fun _ _ _ => ?_)
          · exact Dev.Tame.refl _ _
          · refine Mach.badLine_tame_dev (by decide) ?_ ..
            assumption
        · refine Mach.tame_foldl_dev ?_ (fun _ _ _ => ?_)
          · exact Dev.Tame.refl _ _
          · refine Mach.badLine_tame_dev (by decide) ?_ ..
            assumption
  · exact Dev.Tame.refl _ _

theorem Mach.closeFrame_tame_mem {ps : Nat} {B : Mem} {X : Mach} (hsub : setOf [.dramMem] ||| ps = ps)
    (hbase : Mem.Tame ps B X.mem) (s n : Nat) : Mem.Tame ps B (Mach.closeFrame X s n).mem := by
  refine Mem.Tame.next ?_ hsub hbase
  unfold Mach.closeFrame
  split
  · refine Mach.tame_ite_mem ?_ ?_
    · exact Mem.Tame.refl _ _
    · dsimp only
      refine Mach.tame_foldl_mem ?_ (fun _ _ _ => ?_)
      · exact Mem.Tame.refl _ _
      · refine Mach.badLine_tame_mem (by decide) ?_ ..
        assumption
  · exact Mem.Tame.refl _ _

theorem Mach.closeWindow_tame_dev {ps : Nat} {B : Dev} {X : Mach} (hsub : setOf [.free, .seq, .stats, .commands, .events, .logs, .flt, .twk, .bbx, .link, .pools, .dram, .caps, .prism, .sent, .feat 0x10, .feat 0x1B] ||| ps = ps)
    (hbase : Dev.Tame ps B X.dev) (n : Nat) : Dev.Tame ps B (Mach.closeWindow X n).dev := by
  refine Dev.Tame.next ?_ hsub hbase
  unfold Mach.closeWindow
  dsimp only
  refine Dev.onPrism_tame (by decide) ?_ ..
  refine Mach.tame_foldl_dev ?_ (fun _ _ _ => ?_)
  · refine Mach.tame_mk_dev ?_
    refine Dev.tame_foldl ?_ (fun _ _ _ => ?_)
    · exact Dev.Tame.refl _ _
    · refine Dev.prmEvent_tame (by decide) ?_ ..
      assumption
  · refine Mach.closeFrame_tame_dev (by decide) ?_ ..
    assumption

theorem Mach.closeWindow_tame_mem {ps : Nat} {B : Mem} {X : Mach} (hsub : setOf [.dramMem] ||| ps = ps)
    (hbase : Mem.Tame ps B X.mem) (n : Nat) : Mem.Tame ps B (Mach.closeWindow X n).mem := by
  refine Mem.Tame.next ?_ hsub hbase
  unfold Mach.closeWindow
  dsimp only
  refine Mach.tame_foldl_mem ?_ (fun _ _ _ => ?_)
  · refine Mach.tame_mk_mem ?_
    exact Mem.Tame.refl _ _
  · refine Mach.closeFrame_tame_mem (by decide) ?_ ..
    assumption

theorem Dev.openFrame_tame {ps : Nat} {B X : Dev} (hsub : setOf [.seq, .caps, .proxy] ||| ps = ps)
    (hbase : Dev.Tame ps B X) (n t s : Nat) (c : Cap) : Dev.Tame ps B (Dev.openFrame X n t s c) := by
  refine Dev.Tame.next ?_ hsub hbase
  unfold Dev.openFrame
  split
  split
  dsimp only
  split
  · refine Dev.setCap_tame (by decide) ?_ ..
    refine Dev.stamped_tame (by decide) ?_ ..
    exact Dev.Tame.refl _ _
  · refine Dev.onProxy_tame (by decide) ?_ ..
    refine Dev.setCap_tame (by decide) ?_ ..
    refine Dev.stamped_tame (by decide) ?_ ..
    exact Dev.Tame.refl _ _

theorem Dev.latchProxy_tame {ps : Nat} {B X : Dev} (hsub : setOf [.proxy] ||| ps = ps)
    (hbase : Dev.Tame ps B X) : Dev.Tame ps B (Dev.latchProxy X) := by
  refine Dev.Tame.next ?_ hsub hbase
  unfold Dev.latchProxy
  dsimp only
  refine Dev.onProxy_tame (by decide) ?_ ..
  exact Dev.Tame.refl _ _

theorem Dev.skipDeveloped_tame {ps : Nat} {B X : Dev} (hsub : setOf [.proxy, .feat 0x17] ||| ps = ps)
    (hbase : Dev.Tame ps B X) (s n : Nat) : Dev.Tame ps B (Dev.skipDeveloped X s n) := by
  refine Dev.Tame.next ?_ hsub hbase
  unfold Dev.skipDeveloped
  dsimp only
  refine Dev.tame_ite ?_ ?_
  · refine Dev.bump_tame (by decide) ?_
    refine Dev.onProxy_tame (by decide) ?_ ..
    exact Dev.Tame.refl _ _
  · exact Dev.Tame.refl _ _

theorem Dev.endHolds_tame {ps : Nat} {B X : Dev} (hsub : setOf [.caps, .proxy, .feat 0x17] ||| ps = ps)
    (hbase : Dev.Tame ps B X) (n : Nat) : Dev.Tame ps B (Dev.endHolds X n) := by
  refine Dev.Tame.next ?_ hsub hbase
  unfold Dev.endHolds
  dsimp only
  refine Dev.tame_foldl ?_ (fun _ _ _ => ?_)
  · exact Dev.Tame.refl _ _
  · split
    · refine Dev.modWork_tame (by decide) ?_ ..
      refine Dev.skipDeveloped_tame (by decide) ?_ ..
      assumption
    · refine Dev.skipDeveloped_tame (by decide) ?_ ..
      assumption

theorem Dev.skipUnstaged_tame {ps : Nat} {B X : Dev} (hsub : setOf [.caps, .proxy, .feat 0x17] ||| ps = ps)
    (hbase : Dev.Tame ps B X) (n : Nat) : Dev.Tame ps B (Dev.skipUnstaged X n) := by
  refine Dev.Tame.next ?_ hsub hbase
  unfold Dev.skipUnstaged
  refine Dev.tame_foldl ?_ (fun _ _ _ => ?_)
  · exact Dev.Tame.refl _ _
  · split
    · refine Dev.tame_ite ?_ ?_
      · assumption
      · refine Dev.modWork_tame (by decide) ?_ ..
        refine Dev.skipDeveloped_tame (by decide) ?_ ..
        assumption
    · assumption

theorem Dev.stopFull_tame {ps : Nat} {B X : Dev} (hsub : setOf [.seq, .stats, .commands, .events, .errorLog, .link, .pools, .caps, .codec, .mags, .sent, .feat 0x00] ||| ps = ps)
    (hbase : Dev.Tame ps B X) : Dev.Tame ps B (Dev.stopFull X) := by
  refine Dev.Tame.next ?_ hsub hbase
  unfold Dev.stopFull
  refine Dev.tame_foldl ?_ (fun _ _ _ => ?_)
  · exact Dev.Tame.refl _ _
  · dsimp only
    refine Dev.tame_ite ?_ ?_
    · refine Dev.postEvent_tame (by decide) ?_ ..
      refine Dev.onMag_tame (by decide) ?_ ..
      refine Dev.stopOn_tame (by decide) ?_ ..
      assumption
    · assumption

theorem Dev.stopsAt_tame {ps : Nat} {B X : Dev} (hsub : setOf [.seq, .stats, .commands, .events, .errorLog, .link, .pools, .caps, .sent, .feat 0x00] ||| ps = ps)
    (hbase : Dev.Tame ps B X) (n : Nat) : Dev.Tame ps B (Dev.stopsAt X n) := by
  refine Dev.Tame.next ?_ hsub hbase
  unfold Dev.stopsAt
  refine Dev.tame_foldl ?_ (fun _ _ _ => ?_)
  · exact Dev.Tame.refl _ _
  · split
    · assumption
    · refine Dev.tame_ite ?_ ?_
      · assumption
      · split
        · refine Dev.postEvent_tame (by decide) ?_ ..
          refine Dev.setCmt_tame (by decide) ?_ ..
          refine Dev.modCap_tame (by decide) ?_ ..
          assumption
        · refine Dev.tame_ite ?_ ?_
          · assumption
          · refine Dev.complete_tame (by decide) ?_ ..
            refine Dev.disarm_tame (by decide) ?_ ..
            refine Dev.modCap_tame (by decide) ?_ ..
            assumption
        · assumption

theorem Dev.startsAt_tame {ps : Nat} {B X : Dev} (hsub : setOf [.seq, .commands, .errorLog, .bbx, .link, .caps, .proxy, .mags] ||| ps = ps)
    (hbase : Dev.Tame ps B X) (n : Nat) : Dev.Tame ps B (Dev.startsAt X n) := by
  refine Dev.Tame.next ?_ hsub hbase
  unfold Dev.startsAt
  dsimp only
  refine Dev.tame_foldl ?_ (fun _ _ _ => ?_)
  · refine Dev.tame_foldl ?_ (fun _ _ _ => ?_)
    · exact Dev.Tame.refl _ _
    · split
      · refine Dev.tame_ite ?_ ?_
        · assumption
        · refine Dev.tame_ite ?_ ?_
          · refine Dev.tame_ite ?_ ?_
            · refine Dev.onProxy_tame (by decide) ?_ ..
              refine Dev.onOpenClip_tame (by decide) ?_ ..
              refine Dev.modCap_tame (by decide) ?_ ..
              assumption
            · refine Dev.onOpenClip_tame (by decide) ?_ ..
              refine Dev.modCap_tame (by decide) ?_ ..
              assumption
          · refine Dev.complete_tame (by decide) ?_ ..
            refine Dev.tame_ite ?_ ?_
            · refine Dev.onProxy_tame (by decide) ?_ ..
              refine Dev.onOpenClip_tame (by decide) ?_ ..
              refine Dev.modCap_tame (by decide) ?_ ..
              assumption
            · refine Dev.onOpenClip_tame (by decide) ?_ ..
              refine Dev.modCap_tame (by decide) ?_ ..
              assumption
      · assumption
  · refine Dev.bcastEnd_tame (by decide) ?_ ..
    assumption

theorem Dev.takeLevels_tame {ps : Nat} {B X : Dev} (hsub : setOf [.seq, .commands, .errorLog, .power] ||| ps = ps)
    (hbase : Dev.Tame ps B X) : Dev.Tame ps B (Dev.takeLevels X) := by
  refine Dev.Tame.next ?_ hsub hbase
  unfold Dev.takeLevels
  refine Dev.tame_foldl ?_ (fun _ _ _ => ?_)
  · exact Dev.Tame.refl _ _
  · refine Dev.complete_tame (by decide) ?_ ..
    refine Dev.onPower_tame (by decide) ?_ ..
    assumption

theorem Dev.tickTaken_tame {ps : Nat} {B X : Dev} (hsub : setOf [.tick] ||| ps = ps)
    (hbase : Dev.Tame ps B X) (n t : Nat) (mode : TickMode) : Dev.Tame ps B (Dev.tickTaken X n t mode) := by
  refine Dev.Tame.next ?_ hsub hbase
  unfold Dev.tickTaken
  dsimp only
  split
  · refine Dev.onTick_tame (by decide) ?_ ..
    refine Dev.onTick_tame (by decide) ?_ ..
    exact Dev.Tame.refl _ _
  · refine Dev.onTick_tame (by decide) ?_ ..
    refine Dev.onTick_tame (by decide) ?_ ..
    exact Dev.Tame.refl _ _
  · refine Dev.onTick_tame (by decide) ?_ ..
    refine Dev.onTick_tame (by decide) ?_ ..
    exact Dev.Tame.refl _ _

theorem Mach.issueTick_tame_dev {ps : Nat} {B : Dev} {X : Mach} (hsub : setOf [.free, .seq, .stats, .snap, .commands, .events, .errorLog, .logs, .msix, .flt, .intr, .twk, .bbx, .sid, .tick, .link, .pools, .dram, .dma, .power, .caps, .prism, .codec, .seqr, .proxy, .mags, .sent, .feat 0x00, .feat 0x10, .feat 0x16, .feat 0x17, .feat 0x1B] ||| ps = ps)
    (hbase : Dev.Tame ps B X.dev) (n t : Nat) (sub late : Bool) (mode : TickMode) : Dev.Tame ps B (Mach.issueTick X n t sub late mode).dev := by
  refine Dev.Tame.next ?_ hsub hbase
  unfold Mach.issueTick
  dsimp only
  refine Dev.fireInt_tame (by decide) ?_ ..
  refine Dev.fireInt_tame (by decide) ?_ ..
  refine Dev.onTick_tame (by decide) ?_ ..
  refine Dev.eventOccurs_tame (by decide) ?_ ..
  refine Dev.onPools_tame (by decide) ?_ ..
  refine Dev.tame_foldl ?_ (fun _ _ _ => ?_)
  · refine Dev.pumpAll_tame (by decide) ?_ ..
    refine Dev.tame_foldl ?_ (fun _ _ _ => ?_)
    · refine Dev.tame_foldl ?_ (fun _ _ _ => ?_)
      · refine Dev.startsAt_tame (by decide) ?_ ..
        refine Dev.endHolds_tame (by decide) ?_ ..
        refine Dev.latchProxy_tame (by decide) ?_ ..
        refine Dev.tickTaken_tame (by decide) ?_ ..
        refine Dev.takeLevels_tame (by decide) ?_ ..
        refine Dev.tame_ite ?_ ?_
        · refine Dev.skipUnstaged_tame (by decide) ?_ ..
          refine Mach.tame_ite_dev ?_ ?_
          · refine Mach.closeWindow_tame_dev (by decide) ?_ ..
            refine Mach.tame_mk_dev ?_
            refine Dev.stopsAt_tame (by decide) ?_ ..
            refine Dev.tame_ite ?_ ?_
            · refine Dev.stopFull_tame (by decide) ?_ ..
              refine Dev.latch_tame (by decide) ?_ ..
              exact Dev.Tame.refl _ _
            · refine Dev.latch_tame (by decide) ?_ ..
              exact Dev.Tame.refl _ _
          · refine Mach.tame_mk_dev ?_
            refine Dev.stopsAt_tame (by decide) ?_ ..
            refine Dev.tame_ite ?_ ?_
            · refine Dev.stopFull_tame (by decide) ?_ ..
              refine Dev.latch_tame (by decide) ?_ ..
              exact Dev.Tame.refl _ _
            · refine Dev.latch_tame (by decide) ?_ ..
              exact Dev.Tame.refl _ _
        · refine Mach.tame_ite_dev ?_ ?_
          · refine Mach.closeWindow_tame_dev (by decide) ?_ ..
            refine Mach.tame_mk_dev ?_
            refine Dev.stopsAt_tame (by decide) ?_ ..
            refine Dev.tame_ite ?_ ?_
            · refine Dev.stopFull_tame (by decide) ?_ ..
              refine Dev.latch_tame (by decide) ?_ ..
              exact Dev.Tame.refl _ _
            · refine Dev.latch_tame (by decide) ?_ ..
              exact Dev.Tame.refl _ _
          · refine Mach.tame_mk_dev ?_
            refine Dev.stopsAt_tame (by decide) ?_ ..
            refine Dev.tame_ite ?_ ?_
            · refine Dev.stopFull_tame (by decide) ?_ ..
              refine Dev.latch_tame (by decide) ?_ ..
              exact Dev.Tame.refl _ _
            · refine Dev.latch_tame (by decide) ?_ ..
              exact Dev.Tame.refl _ _
      · split
        · refine Dev.openFrame_tame (by decide) ?_ ..
          assumption
        · assumption
    · refine Dev.sweep_tame (by decide) ?_ ..
      assumption
  · refine Dev.seqPost_tame (by decide) ?_ ..
    assumption

theorem Mach.issueTick_tame_mem {ps : Nat} {B : Mem} {X : Mach} (hsub : setOf [.dramMem] ||| ps = ps)
    (hbase : Mem.Tame ps B X.mem) (n t : Nat) (sub late : Bool) (mode : TickMode) : Mem.Tame ps B (Mach.issueTick X n t sub late mode).mem := by
  refine Mem.Tame.next ?_ hsub hbase
  unfold Mach.issueTick
  dsimp only
  refine Mach.tame_ite_mem ?_ ?_
  · refine Mach.closeWindow_tame_mem (by decide) ?_ ..
    refine Mach.tame_mk_mem ?_
    exact Mem.Tame.refl _ _
  · refine Mach.tame_mk_mem ?_
    exact Mem.Tame.refl _ _

theorem Mach.followMsg_tame_dev {ps : Nat} {B : Dev} {X : Mach} (hsub : setOf [.clk, .free, .seq, .stats, .snap, .commands, .events, .errorLog, .logs, .msix, .flt, .intr, .twk, .bbx, .sid, .tick, .link, .pools, .dram, .dma, .power, .caps, .prism, .codec, .seqr, .proxy, .mags, .sent, .feat 0x00, .feat 0x10, .feat 0x16, .feat 0x17, .feat 0x1B] ||| ps = ps)
    (hbase : Dev.Tame ps B X.dev) (x : TickMsg) (rest : List TickMsg) : Dev.Tame ps B (Mach.followMsg X x rest).dev := by
  refine Dev.Tame.next ?_ hsub hbase
  unfold Mach.followMsg
  dsimp only
  refine Dev.tame_ite ?_ ?_
  · refine Dev.postEvent_tame (by decide) ?_ ..
    refine Dev.onTick_tame (by decide) ?_ ..
    refine Mach.issueTick_tame_dev (by decide) ?_ ..
    refine Mach.tame_mk_dev ?_
    refine Dev.onTick_tame (by decide) ?_ ..
    refine Dev.advanceToSid_tame (by decide) ?_ ..
    exact Dev.Tame.refl _ _
  · refine Dev.onTick_tame (by decide) ?_ ..
    refine Mach.issueTick_tame_dev (by decide) ?_ ..
    refine Mach.tame_mk_dev ?_
    refine Dev.onTick_tame (by decide) ?_ ..
    refine Dev.advanceToSid_tame (by decide) ?_ ..
    exact Dev.Tame.refl _ _

theorem Mach.followMsg_tame_mem {ps : Nat} {B : Mem} {X : Mach} (hsub : setOf [.dramMem] ||| ps = ps)
    (hbase : Mem.Tame ps B X.mem) (x : TickMsg) (rest : List TickMsg) : Mem.Tame ps B (Mach.followMsg X x rest).mem := by
  refine Mem.Tame.next ?_ hsub hbase
  unfold Mach.followMsg
  dsimp only
  refine Mach.issueTick_tame_mem (by decide) ?_ ..
  refine Mach.tame_mk_mem ?_
  exact Mem.Tame.refl _ _

theorem Mach.substitute_tame_dev {ps : Nat} {B : Dev} {X : Mach} (hsub : setOf [.clk, .free, .seq, .stats, .snap, .commands, .events, .errorLog, .logs, .msix, .flt, .intr, .twk, .bbx, .sid, .tick, .link, .pools, .dram, .dma, .power, .caps, .prism, .codec, .seqr, .proxy, .mags, .sent, .feat 0x00, .feat 0x10, .feat 0x16, .feat 0x17, .feat 0x1B] ||| ps = ps)
    (hbase : Dev.Tame ps B X.dev) (t : Nat) (late : Bool) : Dev.Tame ps B (Mach.substitute X t late).dev := by
  refine Dev.Tame.next ?_ hsub hbase
  unfold Mach.substitute
  dsimp only
  refine Dev.tame_ite ?_ ?_
  · refine Dev.postEvent_tame (by decide) ?_ ..
    refine Dev.raise_tame (by decide) ?_ ..
    refine Mach.issueTick_tame_dev (by decide) ?_ ..
    refine Mach.tame_mk_dev ?_
    refine Dev.onTick_tame (by decide) ?_ ..
    refine Dev.advanceToSid_tame (by decide) ?_ ..
    exact Dev.Tame.refl _ _
  · refine Mach.issueTick_tame_dev (by decide) ?_ ..
    refine Mach.tame_mk_dev ?_
    refine Dev.onTick_tame (by decide) ?_ ..
    refine Dev.advanceToSid_tame (by decide) ?_ ..
    exact Dev.Tame.refl _ _

theorem Mach.substitute_tame_mem {ps : Nat} {B : Mem} {X : Mach} (hsub : setOf [.dramMem] ||| ps = ps)
    (hbase : Mem.Tame ps B X.mem) (t : Nat) (late : Bool) : Mem.Tame ps B (Mach.substitute X t late).mem := by
  refine Mem.Tame.next ?_ hsub hbase
  unfold Mach.substitute
  dsimp only
  refine Mach.issueTick_tame_mem (by decide) ?_ ..
  refine Mach.tame_mk_mem ?_
  exact Mem.Tame.refl _ _

theorem Mach.acceptEdge_tame_dev {ps : Nat} {B : Dev} {X : Mach} (hsub : setOf [.free, .seq, .stats, .snap, .commands, .events, .errorLog, .logs, .msix, .flt, .intr, .twk, .bbx, .sid, .tick, .link, .pools, .dram, .dma, .power, .caps, .prism, .codec, .seqr, .proxy, .mags, .sent, .feat 0x00, .feat 0x10, .feat 0x16, .feat 0x17, .feat 0x1B] ||| ps = ps)
    (hbase : Dev.Tame ps B X.dev) (late : Bool) : Dev.Tame ps B (Mach.acceptEdge X late).dev := by
  refine Dev.Tame.next ?_ hsub hbase
  unfold Mach.acceptEdge
  dsimp only
  refine Mach.issueTick_tame_dev (by decide) ?_ ..
  refine Mach.tame_mk_dev ?_
  refine Dev.onTick_tame (by decide) ?_ ..
  exact Dev.Tame.refl _ _

theorem Mach.acceptEdge_tame_mem {ps : Nat} {B : Mem} {X : Mach} (hsub : setOf [.dramMem] ||| ps = ps)
    (hbase : Mem.Tame ps B X.mem) (late : Bool) : Mem.Tame ps B (Mach.acceptEdge X late).mem := by
  refine Mem.Tame.next ?_ hsub hbase
  unfold Mach.acceptEdge
  dsimp only
  refine Mach.issueTick_tame_mem (by decide) ?_ ..
  refine Mach.tame_mk_mem ?_
  exact Mem.Tame.refl _ _

theorem Mach.countEdge_tame_dev {ps : Nat} {B : Dev} {X : Mach} (hsub : setOf [.free, .seq, .stats, .snap, .commands, .events, .errorLog, .logs, .msix, .flt, .intr, .twk, .bbx, .sid, .tick, .link, .pools, .dram, .dma, .power, .caps, .prism, .codec, .seqr, .proxy, .mags, .sent, .feat 0x00, .feat 0x10, .feat 0x16, .feat 0x17, .feat 0x1B] ||| ps = ps)
    (hbase : Dev.Tame ps B X.dev) : Dev.Tame ps B (Mach.countEdge X).dev := by
  refine Dev.Tame.next ?_ hsub hbase
  unfold Mach.countEdge
  dsimp only
  refine Mach.tame_ite_dev ?_ ?_
  · refine Mach.tame_mk_dev ?_
    refine Dev.onTick_tame (by decide) ?_ ..
    exact Dev.Tame.refl _ _
  · refine Mach.tame_ite_dev ?_ ?_
    · refine Mach.acceptEdge_tame_dev (by decide) ?_ ..
      refine Mach.tame_mk_dev ?_
      refine Dev.postEvent_tame (by decide) ?_ ..
      refine Dev.onTick_tame (by decide) ?_ ..
      refine Dev.onTick_tame (by decide) ?_ ..
      exact Dev.Tame.refl _ _
    · refine Mach.tame_mk_dev ?_
      refine Dev.postEvent_tame (by decide) ?_ ..
      refine Dev.onTick_tame (by decide) ?_ ..
      refine Dev.onTick_tame (by decide) ?_ ..
      exact Dev.Tame.refl _ _

theorem Mach.countEdge_tame_mem {ps : Nat} {B : Mem} {X : Mach} (hsub : setOf [.dramMem] ||| ps = ps)
    (hbase : Mem.Tame ps B X.mem) : Mem.Tame ps B (Mach.countEdge X).mem := by
  refine Mem.Tame.next ?_ hsub hbase
  unfold Mach.countEdge
  dsimp only
  refine Mach.tame_ite_mem ?_ ?_
  · refine Mach.tame_mk_mem ?_
    exact Mem.Tame.refl _ _
  · refine Mach.tame_ite_mem ?_ ?_
    · refine Mach.acceptEdge_tame_mem (by decide) ?_ ..
      refine Mach.tame_mk_mem ?_
      exact Mem.Tame.refl _ _
    · refine Mach.tame_mk_mem ?_
      exact Mem.Tame.refl _ _

end Sys2Proof.Machine
end

