-- ==== Sys2Proof/Laws/FrameProxy.lean ====
section
/-! SUPPORT. What each operation of Machine/Proxy.lean may change. -/

namespace Sys2Proof.Machine
open Sys2Proof

theorem Dev.sweepProxy_tame {ps : Nat} {B X : Dev} (hsub : setOf [.proxy] ||| ps = ps)
    (hbase : Dev.Tame ps B X) : Dev.Tame ps B (Dev.sweepProxy X) := by
  refine Dev.Tame.next ?_ hsub hbase
  unfold Dev.sweepProxy
  refine Dev.onProxy_tame (by decide) ?_ ..
  exact Dev.Tame.refl _ _

theorem Dev.onFrame_tame {ps : Nat} {B X : Dev} (hsub : setOf [.proxy] ||| ps = ps)
    (hbase : Dev.Tame ps B X) (s n : Nat) (f : DevFrame → DevFrame) : Dev.Tame ps B (Dev.onFrame X s n f) := by
  refine Dev.Tame.next ?_ hsub hbase
  unfold Dev.onFrame
  refine Dev.onProxy_tame (by decide) ?_ ..
  exact Dev.Tame.refl _ _

theorem Dev.grantAll_tame_rec {B : Dev} (k : Nat) : ∀ (X : Dev) (p owner port refs : Nat), Dev.Tame (setOf [.free, .seq, .stats, .commands, .events, .flt, .twk, .bbx, .link, .pools, .sent, .feat 0x1B]) B X →
    Dev.Tame (setOf [.free, .seq, .stats, .commands, .events, .flt, .twk, .bbx, .link, .pools, .sent, .feat 0x1B]) B (Dev.grantAll X p owner port refs k).2 := by
  induction k with
  | zero =>
    intro X p owner port refs g
    unfold Dev.grantAll
    dsimp only
    assumption
  | succ k ih =>
    intro X p owner port refs g
    unfold Dev.grantAll
    split
    · dsimp only
      refine Dev.Tame.of_snd (by assumption) ?_
      refine Dev.poolGrant_tame (by decide) ?_ ..
      assumption
    · split
      · dsimp only
        refine Dev.Tame.of_snd (by assumption) ?_
        apply ih
        refine Dev.Tame.of_snd (by assumption) ?_
        refine Dev.poolGrant_tame (by decide) ?_ ..
        assumption
      · dsimp only
        refine Dev.setBuf_tame (by decide) ?_ ..
        refine Dev.Tame.of_snd (by assumption) ?_
        apply ih
        refine Dev.Tame.of_snd (by assumption) ?_
        refine Dev.poolGrant_tame (by decide) ?_ ..
        assumption

theorem Dev.grantAll_tame {ps : Nat} {B X : Dev} (hsub : setOf [.free, .seq, .stats, .commands, .events, .flt, .twk, .bbx, .link, .pools, .sent, .feat 0x1B] ||| ps = ps)
    (hbase : Dev.Tame ps B X) (p owner port refs : Nat) (k : Nat) : Dev.Tame ps B (Dev.grantAll X p owner port refs k).2 :=
  Dev.Tame.next (Dev.grantAll_tame_rec k _ _ _ _ _ (.refl _ _)) hsub hbase

theorem Dev.onOut_tame {ps : Nat} {B X : Dev} (hsub : setOf [.proxy] ||| ps = ps)
    (hbase : Dev.Tame ps B X) (o : Nat) (f : ProxyOut → ProxyOut) : Dev.Tame ps B (Dev.onOut X o f) := by
  refine Dev.Tame.next ?_ hsub hbase
  unfold Dev.onOut
  refine Dev.onProxy_tame (by decide) ?_ ..
  exact Dev.Tame.refl _ _

theorem Dev.outDropped_tame {ps : Nat} {B X : Dev} (hsub : setOf [.proxy, .feat 0x17] ||| ps = ps)
    (hbase : Dev.Tame ps B X) (o : Nat) : Dev.Tame ps B (Dev.outDropped X o) := by
  refine Dev.Tame.next ?_ hsub hbase
  unfold Dev.outDropped
  dsimp only
  refine Dev.tame_ite ?_ ?_
  · refine Dev.bump_tame (by decide) ?_
    refine Dev.onOut_tame (by decide) ?_ ..
    exact Dev.Tame.refl _ _
  · refine Dev.onOut_tame (by decide) ?_ ..
    exact Dev.Tame.refl _ _

theorem Dev.sendOut_tame {ps : Nat} {B X : Dev} (hsub : setOf [.free, .seq, .stats, .commands, .events, .flt, .twk, .bbx, .link, .pools, .proxy, .sent, .feat 0x17, .feat 0x1B] ||| ps = ps)
    (hbase : Dev.Tame ps B X) (v : Delivery) : Dev.Tame ps B (Dev.sendOut X v) := by
  refine Dev.Tame.next ?_ hsub hbase
  unfold Dev.sendOut
  refine Dev.tame_ite ?_ ?_
  · exact Dev.Tame.refl _ _
  · split
    split
    · refine Dev.outDropped_tame (by decide) ?_ ..
      refine Dev.Tame.of_snd (by assumption) ?_
      refine Dev.grantAll_tame (by decide) ?_ ..
      exact Dev.Tame.refl _ _
    · refine Dev.onProxy_tame (by decide) ?_ ..
      refine Dev.Tame.of_snd (by assumption) ?_
      refine Dev.grantAll_tame (by decide) ?_ ..
      exact Dev.Tame.refl _ _

theorem Dev.took_tame {ps : Nat} {B X : Dev} (hsub : setOf [.proxy] ||| ps = ps)
    (hbase : Dev.Tame ps B X) (o : Nat) (f : DevFrame) : Dev.Tame ps B (Dev.took X o f) := by
  refine Dev.Tame.next ?_ hsub hbase
  unfold Dev.took
  refine Dev.sweepProxy_tame (by decide) ?_ ..
  refine Dev.onFrame_tame (by decide) ?_ ..
  exact Dev.Tame.refl _ _

theorem Dev.deliverEth_tame {ps : Nat} {B X : Dev} (hsub : setOf [.stats, .eth] ||| ps = ps)
    (hbase : Dev.Tame ps B X) (v : Delivery) (e fid : Nat) : Dev.Tame ps B (Dev.deliverEth X v e fid).2 := by
  refine Dev.Tame.next ?_ hsub hbase
  unfold Dev.deliverEth
  split
  · dsimp only
    exact Dev.Tame.refl _ _
  · dsimp only
    split
    · dsimp only
      refine Dev.count_tame (by decide) ?_ ..
      exact Dev.Tame.refl _ _
    · split
      · dsimp only
        refine Dev.count_tame (by decide) ?_ ..
        exact Dev.Tame.refl _ _
      · split
        · dsimp only
          refine Dev.count_tame (by decide) ?_ ..
          exact Dev.Tame.refl _ _
        · dsimp only
          refine Dev.tame_foldl ?_ (fun _ _ _ => ?_)
          · exact Dev.Tame.refl _ _
          · refine Dev.ethEnqueue_tame (by decide) ?_ ..
            assumption

theorem Mach.deliverMag_tame_dev {ps : Nat} {B : Dev} {X : Mach} (hsub : setOf [.stats, .mags, .feat 0x1D] ||| ps = ps)
    (hbase : Dev.Tame ps B X.dev) (v : Delivery) : Dev.Tame ps B (Mach.deliverMag X v).2.dev := by
  refine Dev.Tame.next ?_ hsub hbase
  unfold Mach.deliverMag
  dsimp only
  split
  · dsimp only
    exact Dev.Tame.refl _ _
  · split
    · split
      · dsimp only
        exact Dev.Tame.refl _ _
      · split
        · dsimp only
          exact Dev.Tame.refl _ _
        · split
          · dsimp only
            exact Dev.Tame.refl _ _
          · split
            · dsimp only
              exact Dev.Tame.refl _ _
            · split
              · dsimp only
                refine Mach.dev_of_snd (by assumption) ?_
                refine Mach.reserve_tame_dev (by decide) ?_ ..
                exact Dev.Tame.refl _ _
              · dsimp only
                refine Dev.onVol_tame (by decide) ?_ ..
                refine Mach.putStripes_tame_dev (by decide) ?_ ..
                refine Mach.dev_of_snd (by assumption) ?_
                refine Mach.reserve_tame_dev (by decide) ?_ ..
                exact Dev.Tame.refl _ _
    · split
      · dsimp only
        exact Dev.Tame.refl _ _
      · split
        · dsimp only
          exact Dev.Tame.refl _ _
        · split
          · dsimp only
            exact Dev.Tame.refl _ _
          · split
            · dsimp only
              exact Dev.Tame.refl _ _
            · split
              · dsimp only
                refine Mach.dev_of_snd (by assumption) ?_
                refine Mach.reserve_tame_dev (by decide) ?_ ..
                exact Dev.Tame.refl _ _
              · dsimp only
                refine Dev.onVol_tame (by decide) ?_ ..
                refine Mach.putStripes_tame_dev (by decide) ?_ ..
                refine Mach.dev_of_snd (by assumption) ?_
                refine Mach.reserve_tame_dev (by decide) ?_ ..
                exact Dev.Tame.refl _ _

theorem Mach.deliverMag_tame_mem {ps : Nat} {B : Mem} {X : Mach} (hsub : setOf [.carriers] ||| ps = ps)
    (hbase : Mem.Tame ps B X.mem) (v : Delivery) : Mem.Tame ps B (Mach.deliverMag X v).2.mem := by
  refine Mem.Tame.next ?_ hsub hbase
  unfold Mach.deliverMag
  dsimp only
  split
  · dsimp only
    exact Mem.Tame.refl _ _
  · split
    · split
      · dsimp only
        exact Mem.Tame.refl _ _
      · split
        · dsimp only
          exact Mem.Tame.refl _ _
        · split
          · dsimp only
            exact Mem.Tame.refl _ _
          · split
            · dsimp only
              exact Mem.Tame.refl _ _
            · split
              · dsimp only
                refine Mach.mem_of_snd (by assumption) ?_
                refine Mach.reserve_tame_mem (by decide) ?_ ..
                exact Mem.Tame.refl _ _
              · dsimp only
                refine Mach.putStripes_tame_mem (by decide) ?_ ..
                refine Mach.mem_of_snd (by assumption) ?_
                refine Mach.reserve_tame_mem (by decide) ?_ ..
                exact Mem.Tame.refl _ _
    · split
      · dsimp only
        exact Mem.Tame.refl _ _
      · split
        · dsimp only
          exact Mem.Tame.refl _ _
        · split
          · dsimp only
            exact Mem.Tame.refl _ _
          · split
            · dsimp only
              exact Mem.Tame.refl _ _
            · split
              · dsimp only
                refine Mach.mem_of_snd (by assumption) ?_
                refine Mach.reserve_tame_mem (by decide) ?_ ..
                exact Mem.Tame.refl _ _
              · dsimp only
                refine Mach.putStripes_tame_mem (by decide) ?_ ..
                refine Mach.mem_of_snd (by assumption) ?_
                refine Mach.reserve_tame_mem (by decide) ?_ ..
                exact Mem.Tame.refl _ _

theorem Mach.deliver_tame_dev {ps : Nat} {B : Dev} {X : Mach} (hsub : setOf [.stats, .cqs, .msix, .eth, .mags, .sent, .feat 0x1D] ||| ps = ps)
    (hbase : Dev.Tame ps B X.dev) (v : Delivery) (k : ProxyDest) : Dev.Tame ps B (Mach.deliver X v k).2.dev := by
  refine Dev.Tame.next ?_ hsub hbase
  unfold Mach.deliver
  split
  · split
    dsimp only
    refine Dev.Tame.of_snd (by assumption) ?_
    refine Dev.deliverEth_tame (by decide) ?_ ..
    exact Dev.Tame.refl _ _
  · split
    · dsimp only
      refine Mach.dev_of_snd (by assumption) ?_
      refine Mach.ringDeliver_tame_dev (by decide) ?_ ..
      exact Dev.Tame.refl _ _
    · dsimp only
      refine Mach.dev_of_snd (by assumption) ?_
      refine Mach.ringDeliver_tame_dev (by decide) ?_ ..
      exact Dev.Tame.refl _ _
  · refine Mach.deliverMag_tame_dev (by decide) ?_ ..
    exact Dev.Tame.refl _ _

theorem Mach.deliver_tame_mem {ps : Nat} {B : Mem} {X : Mach} (hsub : setOf [.hostMem, .carriers] ||| ps = ps)
    (hbase : Mem.Tame ps B X.mem) (v : Delivery) (k : ProxyDest) : Mem.Tame ps B (Mach.deliver X v k).2.mem := by
  refine Mem.Tame.next ?_ hsub hbase
  unfold Mach.deliver
  split
  · split
    dsimp only
    exact Mem.Tame.refl _ _
  · split
    · dsimp only
      refine Mach.mem_of_snd (by assumption) ?_
      refine Mach.ringDeliver_tame_mem (by decide) ?_ ..
      exact Mem.Tame.refl _ _
    · dsimp only
      refine Mach.mem_of_snd (by assumption) ?_
      refine Mach.ringDeliver_tame_mem (by decide) ?_ ..
      exact Mem.Tame.refl _ _
  · refine Mach.deliverMag_tame_mem (by decide) ?_ ..
    exact Mem.Tame.refl _ _

end Sys2Proof.Machine
end

