-- ==== Sys2Proof/Laws/FramePlayback.lean ====
section
/-! SUPPORT. What each operation of Machine/Playback.lean may change. -/

namespace Sys2Proof.Machine
open Sys2Proof

theorem Mem.dataPut_tame {ps : Nat} {B X : Mem} (hsub : setOf [.hostMem] ||| ps = ps)
    (hbase : Mem.Tame ps B X) (c : Cmd) (off : Nat) (l : List Byte) : Mem.Tame ps B (Mem.dataPut X c off l) := by
  refine Mem.Tame.next ?_ hsub hbase
  unfold Mem.dataPut
  refine Mem.tame_ite ?_ ?_
  · dsimp only
    refine Mem.tame_foldl ?_ (fun _ _ _ => ?_)
    · exact Mem.Tame.refl _ _
    · refine Mem.hostWrite_tame (by decide) ?_ ..
      assumption
  · refine Mem.hostWrite_tame (by decide) ?_ ..
    exact Mem.Tame.refl _ _

theorem Mach.sendStatus_tame_dev {ps : Nat} {B : Dev} {X : Mach} (hsub : setOf [.seq, .cqs, .msix, .sent] ||| ps = ps)
    (hbase : Dev.Tame ps B X.dev) (ctx : Nat) (bytes : List Byte) : Dev.Tame ps B (Mach.sendStatus X ctx bytes).dev := by
  refine Dev.Tame.next ?_ hsub hbase
  unfold Mach.sendStatus
  dsimp only
  refine Dev.stamped_tame (by decide) ?_ ..
  split
  · refine Mach.ringDeliver_tame_dev (by decide) ?_ ..
    exact Dev.Tame.refl _ _
  · exact Dev.Tame.refl _ _

theorem Mach.sendStatus_tame_mem {ps : Nat} {B : Mem} {X : Mach} (hsub : setOf [.hostMem] ||| ps = ps)
    (hbase : Mem.Tame ps B X.mem) (ctx : Nat) (bytes : List Byte) : Mem.Tame ps B (Mach.sendStatus X ctx bytes).mem := by
  refine Mem.Tame.next ?_ hsub hbase
  unfold Mach.sendStatus
  dsimp only
  split
  · refine Mach.ringDeliver_tame_mem (by decide) ?_ ..
    exact Mem.Tame.refl _ _
  · exact Mem.Tame.refl _ _

theorem Dev.onPlay_tame {ps : Nat} {B X : Dev} (hsub : setOf [.codec] ||| ps = ps)
    (hbase : Dev.Tame ps B X) (sq cid : Nat) (f : Play → Play) : Dev.Tame ps B (Dev.onPlay X sq cid f) := by
  refine Dev.Tame.next ?_ hsub hbase
  unfold Dev.onPlay
  refine Dev.onCodec_tame (by decide) ?_ ..
  exact Dev.Tame.refl _ _

theorem Mach.putFrame_tame_dev {ps : Nat} {B : Dev} {X : Mach} (hsub : setOf [.codec] ||| ps = ps)
    (hbase : Dev.Tame ps B X.dev) (pl : Play) (c : Cmd) (bytes : List Byte) : Dev.Tame ps B (Mach.putFrame X pl c bytes).dev := by
  refine Dev.Tame.next ?_ hsub hbase
  unfold Mach.putFrame
  refine Mach.tame_mk_dev ?_
  refine Dev.onPlay_tame (by decide) ?_ ..
  exact Dev.Tame.refl _ _

theorem Mach.putFrame_tame_mem {ps : Nat} {B : Mem} {X : Mach} (hsub : setOf [.hostMem] ||| ps = ps)
    (hbase : Mem.Tame ps B X.mem) (pl : Play) (c : Cmd) (bytes : List Byte) : Mem.Tame ps B (Mach.putFrame X pl c bytes).mem := by
  refine Mem.Tame.next ?_ hsub hbase
  unfold Mach.putFrame
  refine Mach.tame_mk_mem ?_
  refine Mem.dataPut_tame (by decide) ?_ ..
  exact Mem.Tame.refl _ _

theorem Mach.endFrame_tame_dev {ps : Nat} {B : Dev} {X : Mach} (hsub : setOf [.seq, .cqs, .msix, .codec, .sent, .feat 0x16] ||| ps = ps)
    (hbase : Dev.Tame ps B X.dev) (e : Nat) (pl : Play) (c : Cmd) (f0 : PlayFrame) : Dev.Tame ps B (Mach.endFrame X e pl c f0).dev := by
  refine Dev.Tame.next ?_ hsub hbase
  unfold Mach.endFrame
  dsimp only
  refine Dev.onPlay_tame (by decide) ?_ ..
  refine Mach.tame_ite_dev ?_ ?_
  · refine Mach.sendStatus_tame_dev (by decide) ?_ ..
    refine Mach.putFrame_tame_dev (by decide) ?_ ..
    refine Mach.tame_mk_dev ?_
    refine Dev.onPlay_tame (by decide) ?_ ..
    refine Dev.bump_tame (by decide) ?_
    exact Dev.Tame.refl _ _
  · refine Mach.tame_mk_dev ?_
    refine Dev.onPlay_tame (by decide) ?_ ..
    refine Dev.bump_tame (by decide) ?_
    exact Dev.Tame.refl _ _

theorem Mach.endFrame_tame_mem {ps : Nat} {B : Mem} {X : Mach} (hsub : setOf [.hostMem] ||| ps = ps)
    (hbase : Mem.Tame ps B X.mem) (e : Nat) (pl : Play) (c : Cmd) (f0 : PlayFrame) : Mem.Tame ps B (Mach.endFrame X e pl c f0).mem := by
  refine Mem.Tame.next ?_ hsub hbase
  unfold Mach.endFrame
  dsimp only
  refine Mach.tame_ite_mem ?_ ?_
  · refine Mach.sendStatus_tame_mem (by decide) ?_ ..
    refine Mach.putFrame_tame_mem (by decide) ?_ ..
    refine Mach.tame_mk_mem ?_
    exact Mem.Tame.refl _ _
  · refine Mach.tame_mk_mem ?_
    exact Mem.Tame.refl _ _

theorem Mach.skipFrame_tame_dev {ps : Nat} {B : Dev} {X : Mach} (hsub : setOf [.free, .seq, .cqs, .msix, .codec, .sent] ||| ps = ps)
    (hbase : Dev.Tame ps B X.dev) (pl : Play) (c : Cmd) (cond : Option Nat) : Dev.Tame ps B (Mach.skipFrame X pl c cond).dev := by
  refine Dev.Tame.next ?_ hsub hbase
  unfold Mach.skipFrame
  dsimp only
  refine Dev.onPlay_tame (by decide) ?_ ..
  refine Mach.tame_ite_dev ?_ ?_
  · refine Mach.tame_mk_dev ?_
    refine Dev.onPlay_tame (by decide) ?_ ..
    refine Dev.tame_ite ?_ ?_
    · exact Dev.Tame.refl _ _
    · refine Dev.afterDraw_tame (by decide) ?_ ..
      exact Dev.Tame.refl _ _
  · split
    · refine Mach.sendStatus_tame_dev (by decide) ?_ ..
      refine Mach.tame_mk_dev ?_
      refine Dev.onPlay_tame (by decide) ?_ ..
      refine Dev.tame_ite ?_ ?_
      · exact Dev.Tame.refl _ _
      · refine Dev.afterDraw_tame (by decide) ?_ ..
        exact Dev.Tame.refl _ _
    · refine Mach.sendStatus_tame_dev (by decide) ?_ ..
      refine Mach.putFrame_tame_dev (by decide) ?_ ..
      refine Mach.tame_mk_dev ?_
      refine Dev.onPlay_tame (by decide) ?_ ..
      refine Dev.tame_ite ?_ ?_
      · exact Dev.Tame.refl _ _
      · refine Dev.afterDraw_tame (by decide) ?_ ..
        exact Dev.Tame.refl _ _
    · refine Mach.sendStatus_tame_dev (by decide) ?_ ..
      refine Mach.tame_mk_dev ?_
      refine Dev.onPlay_tame (by decide) ?_ ..
      refine Dev.tame_ite ?_ ?_
      · exact Dev.Tame.refl _ _
      · refine Dev.afterDraw_tame (by decide) ?_ ..
        exact Dev.Tame.refl _ _

theorem Mach.skipFrame_tame_mem {ps : Nat} {B : Mem} {X : Mach} (hsub : setOf [.hostMem] ||| ps = ps)
    (hbase : Mem.Tame ps B X.mem) (pl : Play) (c : Cmd) (cond : Option Nat) : Mem.Tame ps B (Mach.skipFrame X pl c cond).mem := by
  refine Mem.Tame.next ?_ hsub hbase
  unfold Mach.skipFrame
  dsimp only
  refine Mach.tame_ite_mem ?_ ?_
  · refine Mach.tame_mk_mem ?_
    exact Mem.Tame.refl _ _
  · split
    · refine Mach.sendStatus_tame_mem (by decide) ?_ ..
      refine Mach.tame_mk_mem ?_
      exact Mem.Tame.refl _ _
    · refine Mach.sendStatus_tame_mem (by decide) ?_ ..
      refine Mach.putFrame_tame_mem (by decide) ?_ ..
      refine Mach.tame_mk_mem ?_
      exact Mem.Tame.refl _ _
    · refine Mach.sendStatus_tame_mem (by decide) ?_ ..
      refine Mach.tame_mk_mem ?_
      exact Mem.Tame.refl _ _

theorem Mach.endPlay_tame_dev {ps : Nat} {B : Dev} {X : Mach} (hsub : setOf [.seq, .commands, .errorLog, .codec] ||| ps = ps)
    (hbase : Dev.Tame ps B X.dev) (pl : Play) (c : Cmd) (status : Nat) : Dev.Tame ps B (Mach.endPlay X pl c status).dev := by
  refine Dev.Tame.next ?_ hsub hbase
  unfold Mach.endPlay
  dsimp only
  refine onDev_tame_dev ?_
  refine Dev.tame_withSome ?_ (fun _ => ?_)
  · refine Mach.complete_tame_dev (by decide) ?_ ..
    refine Mach.tame_mk_dev ?_
    refine Dev.onCodec_tame (by decide) ?_ ..
    exact Dev.Tame.refl _ _
  · refine Dev.complete_tame (by decide) ?_ ..
    refine Mach.complete_tame_dev (by decide) ?_ ..
    refine Mach.tame_mk_dev ?_
    refine Dev.onCodec_tame (by decide) ?_ ..
    exact Dev.Tame.refl _ _

theorem Mach.endPlay_tame_mem {ps : Nat} {B : Mem} {X : Mach} (hsub : setOf [] ||| ps = ps)
    (hbase : Mem.Tame ps B X.mem) (pl : Play) (c : Cmd) (status : Nat) : Mem.Tame ps B (Mach.endPlay X pl c status).mem := by
  refine Mem.Tame.next ?_ hsub hbase
  unfold Mach.endPlay
  dsimp only
  refine onDev_tame_mem ?_
  refine Mach.complete_tame_mem (by decide) ?_ ..
  refine Mach.tame_mk_mem ?_
  exact Mem.Tame.refl _ _

theorem Mach.runPlay_tame_dev_rec {B : Dev} (k : Nat) : ∀ (X : Mach) (sq cid e : Nat), Dev.Tame (setOf [.free, .seq, .cqs, .commands, .errorLog, .msix, .codec, .sent, .feat 0x16]) B X.dev →
    Dev.Tame (setOf [.free, .seq, .cqs, .commands, .errorLog, .msix, .codec, .sent, .feat 0x16]) B (Mach.runPlay X sq cid e k).dev := by
  induction k with
  | zero =>
    intro X sq cid e g
    unfold Mach.runPlay
    assumption
  | succ k ih_dev =>
    intro X sq cid e g
    unfold Mach.runPlay
    split
    · split
      · refine Mach.tame_ite_dev ?_ ?_
        · assumption
        · apply ih_dev
          refine Mach.endFrame_tame_dev (by decide) ?_ ..
          assumption
      · dsimp only
        refine Mach.tame_ite_dev ?_ ?_
        · refine Mach.endPlay_tame_dev (by decide) ?_ ..
          assumption
        · refine Mach.tame_ite_dev ?_ ?_
          · refine Mach.endPlay_tame_dev (by decide) ?_ ..
            assumption
          · refine Mach.tame_ite_dev ?_ ?_
            · refine Mach.endPlay_tame_dev (by decide) ?_ ..
              assumption
            · split
              · apply ih_dev
                refine Mach.skipFrame_tame_dev (by decide) ?_ ..
                assumption
              · split
                · refine Mach.tame_ite_dev ?_ ?_
                  · refine Mach.endPlay_tame_dev (by decide) ?_ ..
                    assumption
                  · apply ih_dev
                    refine Mach.skipFrame_tame_dev (by decide) ?_ ..
                    assumption
                · refine Mach.tame_ite_dev ?_ ?_
                  · refine Mach.endPlay_tame_dev (by decide) ?_ ..
                    assumption
                  · apply ih_dev
                    refine Mach.tame_mk_dev ?_
                    refine Dev.onPlay_tame (by decide) ?_ ..
                    assumption
    · assumption

theorem Mach.runPlay_tame_dev {ps : Nat} {B : Dev} {X : Mach} (hsub : setOf [.free, .seq, .cqs, .commands, .errorLog, .msix, .codec, .sent, .feat 0x16] ||| ps = ps)
    (hbase : Dev.Tame ps B X.dev) (sq cid e : Nat) (k : Nat) : Dev.Tame ps B (Mach.runPlay X sq cid e k).dev :=
  Dev.Tame.next (Mach.runPlay_tame_dev_rec k _ _ _ _ (.refl _ _)) hsub hbase

theorem Mach.runPlay_tame_mem_rec {B : Mem} (k : Nat) : ∀ (X : Mach) (sq cid e : Nat), Mem.Tame (setOf [.hostMem]) B X.mem →
    Mem.Tame (setOf [.hostMem]) B (Mach.runPlay X sq cid e k).mem := by
  induction k with
  | zero =>
    intro X sq cid e g
    unfold Mach.runPlay
    assumption
  | succ k ih_mem =>
    intro X sq cid e g
    unfold Mach.runPlay
    split
    · split
      · refine Mach.tame_ite_mem ?_ ?_
        · assumption
        · apply ih_mem
          refine Mach.endFrame_tame_mem (by decide) ?_ ..
          assumption
      · dsimp only
        refine Mach.tame_ite_mem ?_ ?_
        · refine Mach.endPlay_tame_mem (by decide) ?_ ..
          assumption
        · refine Mach.tame_ite_mem ?_ ?_
          · refine Mach.endPlay_tame_mem (by decide) ?_ ..
            assumption
          · refine Mach.tame_ite_mem ?_ ?_
            · refine Mach.endPlay_tame_mem (by decide) ?_ ..
              assumption
            · split
              · apply ih_mem
                refine Mach.skipFrame_tame_mem (by decide) ?_ ..
                assumption
              · split
                · refine Mach.tame_ite_mem ?_ ?_
                  · refine Mach.endPlay_tame_mem (by decide) ?_ ..
                    assumption
                  · apply ih_mem
                    refine Mach.skipFrame_tame_mem (by decide) ?_ ..
                    assumption
                · refine Mach.tame_ite_mem ?_ ?_
                  · refine Mach.endPlay_tame_mem (by decide) ?_ ..
                    assumption
                  · apply ih_mem
                    refine Mach.tame_mk_mem ?_
                    assumption
    · assumption

theorem Mach.runPlay_tame_mem {ps : Nat} {B : Mem} {X : Mach} (hsub : setOf [.hostMem] ||| ps = ps)
    (hbase : Mem.Tame ps B X.mem) (sq cid e : Nat) (k : Nat) : Mem.Tame ps B (Mach.runPlay X sq cid e k).mem :=
  Mem.Tame.next (Mach.runPlay_tame_mem_rec k _ _ _ _ (.refl _ _)) hsub hbase

theorem Dev.playPump_tame {ps : Nat} {B X : Dev} (hsub : setOf [.codec] ||| ps = ps)
    (hbase : Dev.Tame ps B X) : Dev.Tame ps B (Dev.playPump X) := by
  refine Dev.Tame.next ?_ hsub hbase
  unfold Dev.playPump
  refine Dev.tame_foldl ?_ (fun _ _ _ => ?_)
  · exact Dev.Tame.refl _ _
  · refine Dev.tame_ite ?_ ?_
    · split
      · refine Dev.onMir_tame (by decide) ?_ ..
        assumption
      · assumption
    · assumption

end Sys2Proof.Machine
end

