-- ==== Sys2Proof/Laws/FramePower.lean ====
section
/-! SUPPORT. What each operation of Machine/Power.lean may change. -/

namespace Sys2Proof.Machine
open Sys2Proof

@[simp] theorem resetRange_length {α : Type} (x : α) (lo n : Nat) (l : List α) : (resetRange x lo n l).length = l.length := by
  unfold resetRange
  generalize List.range n = r
  induction r generalizing l with
  | nil => rfl
  | cons i r ih => rw [List.foldl_cons, ih, modAt_length]

theorem Dev.resetUnits_tame {ps : Nat} {B X : Dev} (hsub : setOf [.free, .seq, .stats, .commands, .events, .flt, .intr, .twk, .bbx, .eth, .link, .dma, .prism, .codec, .proxy, .sent, .feat 0x10, .feat 0x22] ||| ps = ps)
    (hbase : Dev.Tame ps B X) (k : Nat) : Dev.Tame ps B (Dev.resetUnits X k) := by
  refine Dev.Tame.next ?_ hsub hbase
  unfold Dev.resetUnits
  refine Dev.tame_ite ?_ ?_
  · refine Dev.onCodec_tame (by decide) ?_ ..
    exact Dev.Tame.refl _ _
  · refine Dev.tame_ite ?_ ?_
    · refine Dev.onProxy_tame (by decide) ?_ ..
      exact Dev.Tame.refl _ _
    · refine Dev.tame_ite ?_ ?_
      · refine Dev.onProxy_tame (by decide) ?_ ..
        exact Dev.Tame.refl _ _
      · refine Dev.tame_ite ?_ ?_
        · refine Dev.linkOff_tame (by decide) ?_ ..
          exact Dev.Tame.refl _ _
        · refine Dev.tame_ite ?_ ?_
          · refine Dev.onEth_tame (by decide) ?_ ..
            exact Dev.Tame.refl _ _
          · refine Dev.tame_ite ?_ ?_
            · refine Dev.tame_dma (by decide) (by simp) ?_
              exact Dev.Tame.refl _ _
            · refine Dev.tame_ite ?_ ?_
              · dsimp only
                refine Dev.onPrism_tame (by decide) ?_ ..
                refine Dev.setReg64_tame (by decide) ?_
                exact Dev.Tame.refl _ _
              · refine Dev.tame_ite ?_ ?_
                · refine Dev.onCore_tame (by decide) ?_ ..
                  exact Dev.Tame.refl _ _
                · exact Dev.Tame.refl _ _

theorem Dev.switchOff_tame {ps : Nat} {B X : Dev} (hsub : (setOf [.free, .seq, .stats, .commands, .events, .flt, .intr, .twk, .bbx, .eth, .link, .dma, .power, .prism, .codec, .proxy, .sent, .feat 0x10, .feat 0x22] ||| everyFeat) ||| ps = ps)
    (hbase : Dev.Tame ps B X) (k : Nat) : Dev.Tame ps B (Dev.switchOff X k) := by
  refine Dev.Tame.next ?_ hsub hbase
  unfold Dev.switchOff
  dsimp only
  refine Dev.onPower_tame (by decide) ?_ ..
  refine Dev.tame_regs_stats (by decide) (by decide) (fun w => ?_) ?_
  · exact Tbl.wfFrom_filter _ _ w
  · refine Dev.resetUnits_tame (by decide) ?_ ..
    exact Dev.Tame.refl _ _

theorem Dev.switchOn_tame {ps : Nat} {B X : Dev} (hsub : setOf [.intr, .power] ||| ps = ps)
    (hbase : Dev.Tame ps B X) (k level : Nat) : Dev.Tame ps B (Dev.switchOn X k level) := by
  refine Dev.Tame.next ?_ hsub hbase
  unfold Dev.switchOn
  dsimp only
  refine Dev.tame_ite ?_ ?_
  · refine Dev.onCore_tame (by decide) ?_ ..
    refine Dev.onPower_tame (by decide) ?_ ..
    exact Dev.Tame.refl _ _
  · refine Dev.onPower_tame (by decide) ?_ ..
    exact Dev.Tame.refl _ _

theorem powerCmd_tame_dev {ps : Nat} {B : Dev} {X : Mach} {sq cid : Nat} {on : Bool} {f : Cmd → Nat → Mach → Mach}
    (hsub : setOf [.commands, .errorLog, .seq] ||| ps = ps) (h : ∀ c k, Dev.Tame ps B (f c k X).dev)
    (g : Dev.Tame ps B X.dev) : Dev.Tame ps B (powerCmd sq cid on f X).dev := by
  unfold powerCmd
  refine runCmd_tame_dev (fun c => Mach.tame_ite_dev g ?_) g
  split
  · exact Mach.refuse_tame_dev hsub g ..
  · exact h _ _

theorem powerCmd_tame_mem {ps : Nat} {B : Mem} {X : Mach} {sq cid : Nat} {on : Bool} {f : Cmd → Nat → Mach → Mach}
    (hsub : setOf [] ||| ps = ps) (h : ∀ c k, Mem.Tame ps B (f c k X).mem)
    (g : Mem.Tame ps B X.mem) : Mem.Tame ps B (powerCmd sq cid on f X).mem := by
  unfold powerCmd
  refine runCmd_tame_mem (fun c => Mach.tame_ite_mem g ?_) g
  split
  · exact Mach.refuse_tame_mem hsub g ..
  · exact h _ _

theorem Dev.endPower_tame {ps : Nat} {B X : Dev} (hsub : setOf [.seq, .commands, .errorLog, .power] ||| ps = ps)
    (hbase : Dev.Tame ps B X) (o : PowerOp) (status : Nat) : Dev.Tame ps B (Dev.endPower X o status) := by
  refine Dev.Tame.next ?_ hsub hbase
  unfold Dev.endPower
  refine Dev.complete_tame (by decide) ?_ ..
  refine Dev.onPower_tame (by decide) ?_ ..
  exact Dev.Tame.refl _ _

end Sys2Proof.Machine
end

