-- ==== Sys2Proof/Laws/FrameFeatures.lean ====
section
/-! SUPPORT. What each operation of Machine/Features.lean may change. -/

namespace Sys2Proof.Machine
open Sys2Proof

theorem Dev.tame_foldl_snd {α β : Type} {ps : Nat} {B : Dev} {l : List α} {f : β × Dev → α → β × Dev} {z : β × Dev}
    (h : Dev.Tame ps B z.2) (hs : ∀ a x, Dev.Tame ps B a.2 → Dev.Tame ps B (f a x).2) : Dev.Tame ps B (l.foldl f z).2 := by
  induction l generalizing z with
  | nil => exact h
  | cons y r ih => exact ih (hs _ _ h)

theorem FeatWrite.each_induct {α : Type} {P : α → Prop} {w : FeatWrite} {n stride off : Nat} {f : Nat → Nat → α → α} {x : α} (h : P x)
    (hs : ∀ i v y, P y → P (f i v y)) : P (w.each n stride off f x) := by
  unfold FeatWrite.each
  generalize List.range n = r
  induction r generalizing x with
  | nil => exact h
  | cons i r ih =>
    rw [List.foldl_cons]
    refine ih ?_
    split
    · exact hs _ _ _ h
    · exact h

theorem Dev.tame_each {ps : Nat} {B X : Dev} {w : FeatWrite} {n stride off : Nat} {f : Nat → Nat → Dev → Dev} (h : Dev.Tame ps B X)
    (hs : ∀ i v y, Dev.Tame ps B y → Dev.Tame ps B (f i v y)) : Dev.Tame ps B (w.each n stride off f X) :=
  FeatWrite.each_induct (P := Dev.Tame ps B) h hs

theorem Mach.tame_each_dev {ps : Nat} {B : Dev} {X : Mach} {w : FeatWrite} {n stride off : Nat} {f : Nat → Nat → Mach → Mach}
    (h : Dev.Tame ps B X.dev) (hs : ∀ i v (y : Mach), Dev.Tame ps B y.dev → Dev.Tame ps B (f i v y).dev) :
    Dev.Tame ps B (w.each n stride off f X).dev :=
  FeatWrite.each_induct (P := fun y : Mach => Dev.Tame ps B y.dev) h hs

theorem Mach.tame_each_mem {ps : Nat} {B : Mem} {X : Mach} {w : FeatWrite} {n stride off : Nat} {f : Nat → Nat → Mach → Mach}
    (h : Mem.Tame ps B X.mem) (hs : ∀ i v (y : Mach), Mem.Tame ps B y.mem → Mem.Tame ps B (f i v y).mem) :
    Mem.Tame ps B (w.each n stride off f X).mem :=
  FeatWrite.each_induct (P := fun y : Mach => Mem.Tame ps B y.mem) h hs

theorem Dev.written_tame {ps : Nat} {B X : Dev} (hsub : (setOf [] ||| everyFeat) ||| ps = ps)
    (hbase : Dev.Tame ps B X) (feat : Nat) (w : FeatWrite) : Dev.Tame ps B (Dev.written X feat w) := by
  refine Dev.Tame.next ?_ hsub hbase
  unfold Dev.written
  refine Dev.tame_foldl ?_ (fun _ _ _ => ?_)
  · exact Dev.Tame.refl _ _
  · split
    · refine Dev.tame_ite ?_ ?_
      · refine Dev.setReg_every (by decide) ?_
        assumption
      · assumption
    · assumption

theorem effectPrism_tame {ps : Nat} {B X : Dev} (hsub : setOf [.prism] ||| ps = ps)
    (hbase : Dev.Tame ps B X) (d : Dev) : Dev.Tame ps B (effectPrism d X) := by
  refine Dev.Tame.next ?_ hsub hbase
  unfold effectPrism
  refine Dev.tame_ite ?_ ?_
  · refine Dev.onPrism_tame (by decide) ?_ ..
    exact Dev.Tame.refl _ _
  · dsimp only
    refine Dev.tame_foldl ?_ (fun _ _ _ => ?_)
    · exact Dev.Tame.refl _ _
    · refine Dev.onPrism_tame (by decide) ?_ ..
      assumption

theorem effectMirror_tame {ps : Nat} {B X : Dev} (hsub : setOf [.codec] ||| ps = ps)
    (hbase : Dev.Tame ps B X) (w : FeatWrite) : Dev.Tame ps B (effectMirror w X) := by
  refine Dev.Tame.next ?_ hsub hbase
  unfold effectMirror
  refine Dev.tame_each ?_ (fun _ _ _ _ => ?_)
  · exact Dev.Tame.refl _ _
  · refine Dev.tame_ite ?_ ?_
    · assumption
    · refine Dev.onMir_tame (by decide) ?_ ..
      assumption

theorem effectPtp_tame {ps : Nat} {B X : Dev} (hsub : setOf [.eth] ||| ps = ps)
    (hbase : Dev.Tame ps B X) (d : Dev) (w : FeatWrite) : Dev.Tame ps B (effectPtp d w X) := by
  refine Dev.Tame.next ?_ hsub hbase
  unfold effectPtp
  refine Dev.tame_each ?_ (fun _ _ _ _ => ?_)
  · exact Dev.Tame.refl _ _
  · dsimp only
    refine Dev.ptpSelect_tame (by decide) ?_ ..
    refine Dev.tame_ite ?_ ?_
    · assumption
    · refine Dev.onPtp_tame (by decide) ?_ ..
      assumption

theorem Mach.effects_tame_dev {ps : Nat} {B : Dev} {X : Mach} (hsub : setOf [.free, .seq, .stats, .commands, .events, .errorLog, .msix, .flt, .intr, .twk, .bbx, .tick, .eth, .shapers, .policers, .link, .dram, .dma, .dmaEvents, .prism, .codec, .seqr, .proxy, .sent, .feat 0x19, .feat 0x1E, .feat 0x1F, .feat 0x22] ||| ps = ps)
    (hbase : Dev.Tame ps B X.dev) (d : Dev) (feat : Nat) (w : FeatWrite) : Dev.Tame ps B (Mach.effects X d feat w).dev := by
  refine Dev.Tame.next ?_ hsub hbase
  unfold Mach.effects
  dsimp only
  split
  · refine onDev_tame_dev ?_
    refine Dev.tame_ite ?_ ?_
    · refine Dev.retime_tame (by decide) ?_ ..
      exact Dev.Tame.refl _ _
    · exact Dev.Tame.refl _ _
  · refine Mach.tame_mk_dev ?_
    refine effectPrism_tame (by decide) ?_ ..
    exact Dev.Tame.refl _ _
  · refine Mach.tame_mk_dev ?_
    refine effectMirror_tame (by decide) ?_ ..
    exact Dev.Tame.refl _ _
  · refine onDev_tame_dev ?_
    refine Dev.onProxy_tame (by decide) ?_ ..
    exact Dev.Tame.refl _ _
  · refine onDev_tame_dev ?_
    refine Dev.tame_each ?_ (fun _ _ _ _ => ?_)
    · exact Dev.Tame.refl _ _
    · refine Dev.hostEvent_tame (by decide) ?_ ..
      assumption
  · refine Mach.tame_each_dev ?_ (fun _ _ _ _ => ?_)
    · refine onDev_tame_dev ?_
      refine Dev.tame_foldl ?_ (fun _ _ _ => ?_)
      · refine onDev_tame_dev ?_
        refine Dev.tame_foldl ?_ (fun _ _ _ => ?_)
        · exact Dev.Tame.refl _ _
        · refine Dev.tame_ite ?_ ?_
          · refine Dev.onDma_tame (by decide) ?_ ..
            refine Dev.tame_ite ?_ ?_
            · refine Dev.onDma_tame (by decide) ?_ ..
              assumption
            · assumption
          · refine Dev.tame_ite ?_ ?_
            · refine Dev.onDma_tame (by decide) ?_ ..
              assumption
            · assumption
      · refine Dev.setEvent_tame (by decide) ?_ ..
        assumption
    · refine Mach.dmaArm_tame_dev (by decide) ?_ ..
      assumption
  · refine onDev_tame_dev ?_
    refine effectPtp_tame (by decide) ?_ ..
    refine onDev_tame_dev ?_
    refine Dev.tame_each ?_ (fun _ _ _ _ => ?_)
    · refine onDev_tame_dev ?_
      refine Dev.tame_each ?_ (fun _ _ _ _ => ?_)
      · exact Dev.Tame.refl _ _
      · refine Dev.tame_ite ?_ ?_
        · refine Dev.gclCommit_tame (by decide) ?_ ..
          assumption
        · assumption
    · refine Dev.tame_ite ?_ ?_
      · refine Dev.resetShaper_tame (by decide) ?_ ..
        assumption
      · assumption
  · refine onDev_tame_dev ?_
    refine Dev.tame_each ?_ (fun _ _ _ _ => ?_)
    · exact Dev.Tame.refl _ _
    · refine Dev.tame_ite ?_ ?_
      · refine Dev.linkTrain_tame (by decide) ?_ ..
        assumption
      · refine Dev.tame_ite ?_ ?_
        · refine Dev.linkOff_tame (by decide) ?_ ..
          assumption
        · assumption
  · exact Dev.Tame.refl _ _

theorem Mach.effects_tame_mem {ps : Nat} {B : Mem} {X : Mach} (hsub : setOf [.hostMem, .dramMem] ||| ps = ps)
    (hbase : Mem.Tame ps B X.mem) (d : Dev) (feat : Nat) (w : FeatWrite) : Mem.Tame ps B (Mach.effects X d feat w).mem := by
  refine Mem.Tame.next ?_ hsub hbase
  unfold Mach.effects
  dsimp only
  split
  · refine onDev_tame_mem ?_
    exact Mem.Tame.refl _ _
  · refine Mach.tame_mk_mem ?_
    exact Mem.Tame.refl _ _
  · refine Mach.tame_mk_mem ?_
    exact Mem.Tame.refl _ _
  · refine onDev_tame_mem ?_
    exact Mem.Tame.refl _ _
  · refine onDev_tame_mem ?_
    exact Mem.Tame.refl _ _
  · refine Mach.tame_each_mem ?_ (fun _ _ _ _ => ?_)
    · refine onDev_tame_mem ?_
      refine onDev_tame_mem ?_
      exact Mem.Tame.refl _ _
    · refine Mach.dmaArm_tame_mem (by decide) ?_ ..
      assumption
  · refine onDev_tame_mem ?_
    refine onDev_tame_mem ?_
    refine onDev_tame_mem ?_
    exact Mem.Tame.refl _ _
  · refine onDev_tame_mem ?_
    exact Mem.Tame.refl _ _
  · exact Mem.Tame.refl _ _

theorem Mach.setFeature_tame_dev {ps : Nat} {B : Dev} {X : Mach} (hsub : (setOf [.free, .seq, .stats, .commands, .events, .errorLog, .admission, .msix, .flt, .intr, .twk, .bbx, .tick, .eth, .shapers, .policers, .link, .dram, .dma, .dmaEvents, .prism, .codec, .seqr, .proxy, .sent, .feat 0x19, .feat 0x1E, .feat 0x1F, .feat 0x22] ||| everyFeat) ||| ps = ps)
    (hbase : Dev.Tame ps B X.dev) (c : Cmd) : Dev.Tame ps B (Mach.setFeature X c).dev := by
  refine Dev.Tame.next ?_ hsub hbase
  unfold Mach.setFeature
  dsimp only
  refine Mach.tame_ite_dev ?_ ?_
  · refine Mach.refuse_tame_dev (by decide) ?_ ..
    exact Dev.Tame.refl _ _
  · refine Mach.tame_ite_dev ?_ ?_
    · refine Mach.refuse_tame_dev (by decide) ?_ ..
      exact Dev.Tame.refl _ _
    · refine Mach.tame_ite_dev ?_ ?_
      · refine Mach.refuse_tame_dev (by decide) ?_ ..
        exact Dev.Tame.refl _ _
      · refine Mach.tame_ite_dev ?_ ?_
        · refine Mach.refuse_tame_dev (by decide) ?_ ..
          exact Dev.Tame.refl _ _
        · refine Mach.tame_ite_dev ?_ ?_
          · refine Mach.refuse_tame_dev (by decide) ?_ ..
            exact Dev.Tame.refl _ _
          · split
            · refine Mach.deny_tame_dev (by decide) ?_ ..
              exact Dev.Tame.refl _ _
            · refine Mach.tame_ite_dev ?_ ?_
              · refine Mach.complete_tame_dev (by decide) ?_ ..
                exact Dev.Tame.refl _ _
              · refine Mach.tame_ite_dev ?_ ?_
                · refine Mach.tame_mk_dev ?_
                  refine Dev.keepRunning_tame (by decide) ?_ ..
                  refine Dev.tame_foldl_snd ?_ (fun _ _ _ => ?_)
                  · dsimp only
                    refine Mach.effects_tame_dev (by decide) ?_ ..
                    refine Mach.tame_mk_dev ?_
                    refine Dev.written_tame (by decide) ?_ ..
                    exact Dev.Tame.refl _ _
                  · dsimp only
                    refine Dev.relayWrite_tame (by decide) ?_ ..
                    assumption
                · refine Mach.complete_tame_dev (by decide) ?_ ..
                  refine Mach.tame_mk_dev ?_
                  refine Dev.tame_foldl_snd ?_ (fun _ _ _ => ?_)
                  · dsimp only
                    refine Mach.effects_tame_dev (by decide) ?_ ..
                    refine Mach.tame_mk_dev ?_
                    refine Dev.written_tame (by decide) ?_ ..
                    exact Dev.Tame.refl _ _
                  · dsimp only
                    refine Dev.relayWrite_tame (by decide) ?_ ..
                    assumption

theorem Mach.setFeature_tame_mem {ps : Nat} {B : Mem} {X : Mach} (hsub : setOf [.hostMem, .dramMem] ||| ps = ps)
    (hbase : Mem.Tame ps B X.mem) (c : Cmd) : Mem.Tame ps B (Mach.setFeature X c).mem := by
  refine Mem.Tame.next ?_ hsub hbase
  unfold Mach.setFeature
  dsimp only
  refine Mach.tame_ite_mem ?_ ?_
  · refine Mach.refuse_tame_mem (by decide) ?_ ..
    exact Mem.Tame.refl _ _
  · refine Mach.tame_ite_mem ?_ ?_
    · refine Mach.refuse_tame_mem (by decide) ?_ ..
      exact Mem.Tame.refl _ _
    · refine Mach.tame_ite_mem ?_ ?_
      · refine Mach.refuse_tame_mem (by decide) ?_ ..
        exact Mem.Tame.refl _ _
      · refine Mach.tame_ite_mem ?_ ?_
        · refine Mach.refuse_tame_mem (by decide) ?_ ..
          exact Mem.Tame.refl _ _
        · refine Mach.tame_ite_mem ?_ ?_
          · refine Mach.refuse_tame_mem (by decide) ?_ ..
            exact Mem.Tame.refl _ _
          · split
            · refine Mach.deny_tame_mem (by decide) ?_ ..
              exact Mem.Tame.refl _ _
            · refine Mach.tame_ite_mem ?_ ?_
              · refine Mach.complete_tame_mem (by decide) ?_ ..
                exact Mem.Tame.refl _ _
              · refine Mach.tame_ite_mem ?_ ?_
                · refine Mach.tame_mk_mem ?_
                  refine Mach.effects_tame_mem (by decide) ?_ ..
                  refine Mach.tame_mk_mem ?_
                  exact Mem.Tame.refl _ _
                · refine Mach.complete_tame_mem (by decide) ?_ ..
                  refine Mach.tame_mk_mem ?_
                  refine Mach.effects_tame_mem (by decide) ?_ ..
                  refine Mach.tame_mk_mem ?_
                  exact Mem.Tame.refl _ _

theorem Dev.readClears_tame {ps : Nat} {B X : Dev} (hsub : (setOf [] ||| everyFeat) ||| ps = ps)
    (hbase : Dev.Tame ps B X) (feat : Nat) (offs : List Nat) : Dev.Tame ps B (Dev.readClears X feat offs) := by
  refine Dev.Tame.next ?_ hsub hbase
  unfold Dev.readClears
  refine Dev.tame_foldl ?_ (fun _ _ _ => ?_)
  · exact Dev.Tame.refl _ _
  · split
    · refine Dev.tame_ite ?_ ?_
      · refine Dev.setReg_every (by decide) ?_
        assumption
      · assumption
    · assumption

theorem Mach.getFeature_tame_dev {ps : Nat} {B : Dev} {X : Mach} (hsub : (setOf [.seq, .commands, .errorLog] ||| everyFeat) ||| ps = ps)
    (hbase : Dev.Tame ps B X.dev) (c : Cmd) : Dev.Tame ps B (Mach.getFeature X c).dev := by
  refine Dev.Tame.next ?_ hsub hbase
  unfold Mach.getFeature
  dsimp only
  refine Mach.tame_ite_dev ?_ ?_
  · refine Mach.refuse_tame_dev (by decide) ?_ ..
    exact Dev.Tame.refl _ _
  · refine Mach.tame_ite_dev ?_ ?_
    · refine Mach.refuse_tame_dev (by decide) ?_ ..
      exact Dev.Tame.refl _ _
    · refine Mach.tame_ite_dev ?_ ?_
      · refine Mach.refuse_tame_dev (by decide) ?_ ..
        exact Dev.Tame.refl _ _
      · refine Mach.tame_ite_dev ?_ ?_
        · refine Mach.refuse_tame_dev (by decide) ?_ ..
          exact Dev.Tame.refl _ _
        · refine Mach.complete_tame_dev (by decide) ?_ ..
          refine Mach.tame_mk_dev ?_
          refine Dev.readClears_tame (by decide) ?_ ..
          exact Dev.Tame.refl _ _

theorem Mach.getFeature_tame_mem {ps : Nat} {B : Mem} {X : Mach} (hsub : setOf [.hostMem] ||| ps = ps)
    (hbase : Mem.Tame ps B X.mem) (c : Cmd) : Mem.Tame ps B (Mach.getFeature X c).mem := by
  refine Mem.Tame.next ?_ hsub hbase
  unfold Mach.getFeature
  dsimp only
  refine Mach.tame_ite_mem ?_ ?_
  · refine Mach.refuse_tame_mem (by decide) ?_ ..
    exact Mem.Tame.refl _ _
  · refine Mach.tame_ite_mem ?_ ?_
    · refine Mach.refuse_tame_mem (by decide) ?_ ..
      exact Mem.Tame.refl _ _
    · refine Mach.tame_ite_mem ?_ ?_
      · refine Mach.refuse_tame_mem (by decide) ?_ ..
        exact Mem.Tame.refl _ _
      · refine Mach.tame_ite_mem ?_ ?_
        · refine Mach.refuse_tame_mem (by decide) ?_ ..
          exact Mem.Tame.refl _ _
        · refine Mach.complete_tame_mem (by decide) ?_ ..
          refine Mach.tame_mk_mem ?_
          refine Mem.dataOut_tame (by decide) ?_ ..
          exact Mem.Tame.refl _ _

end Sys2Proof.Machine
end

