-- ==== Sys2Proof/Laws/FrameAdmin.lean ====
section
/-! SUPPORT. What each operation of Machine/Admin.lean may change. -/

namespace Sys2Proof.Machine
open Sys2Proof

theorem Mach.abortedData_tame_dev {ps : Nat} {B : Dev} {X : Mach} (hsub : setOf [.free] ||| ps = ps) (hbase : Dev.Tame ps B X.dev)
    (t : Cmd) : Dev.Tame ps B (Mach.abortedData X t).dev := by
  refine Dev.Tame.next ?_ hsub hbase
  unfold Mach.abortedData
  exact Mach.tame_ite_dev (Mach.tame_mk_dev (Dev.afterDraw_tame (by decide) (.refl _ _))) (.refl _ _)

theorem Mach.abortedData_tame_mem {ps : Nat} {B : Mem} {X : Mach} (hsub : setOf [.hostMem] ||| ps = ps)
    (hbase : Mem.Tame ps B X.mem) (t : Cmd) : Mem.Tame ps B (Mach.abortedData X t).mem := by
  refine Mem.Tame.next ?_ hsub hbase
  unfold Mach.abortedData
  exact Mach.tame_ite_mem (Mach.tame_mk_mem (Mem.dataOut_tame (by decide) (.refl _ _) ..)) (.refl _ _)

theorem Mach.abortTarget_tame_dev {ps : Nat} {B : Dev} {X Y : Mach} {t : Cmd}
    (hsub : setOf [.free, .seq, .stats, .commands, .events, .errorLog, .msix, .flt, .intr, .twk, .bbx, .link, .dram, .dma, .power, .caps, .sent, .feat 0x1E, .feat 0x1F] ||| ps = ps) (g : Dev.Tame ps B X.dev) (h : X.abortTarget t = some Y) : Dev.Tame ps B Y.dev := by
  refine Dev.Tame.next ?_ hsub g
  clear hsub g
  unfold Mach.abortTarget at h
  dsimp only at h
  split at h
  · obtain rfl := Option.some.inj h
    exact Dev.startReady_tame (by decide) (Dev.complete_tame (by decide) (Mach.abortedData_tame_dev (by decide) (.refl _ _) _) ..) ..
  split at h
  · obtain rfl := Option.some.inj h
    refine Dev.complete_tame (by decide) (Dev.tame_onHost ?_ (.refl _ _)) ..
    exact HostIf.Same.mk (.inr ⟨rfl, rfl⟩) (.inr rfl) (.inr rfl) (.inr ⟨rfl, rfl, rfl, rfl⟩) (.inr ⟨rfl, rfl, rfl, rfl, rfl, rfl⟩)
      (.inl (by decide)) (.inl (by decide)) (.inr rfl) (.inr ⟨rfl, rfl, rfl⟩) (.inr rfl) (.inr ⟨rfl, rfl, rfl, rfl⟩) (.inl (by decide))
  · split at h
    · obtain rfl := Option.some.inj h
      exact Dev.complete_tame (by decide) (Dev.onLink_tame (by decide) (Dev.modCap_tame (by decide) (.refl _ _) ..) ..) ..
    · exact absurd h (by simp)
  · split at h
    · obtain rfl := Option.some.inj h
      exact Dev.complete_tame (by decide) (Dev.modCap_tame (by decide) (.refl _ _) ..) ..
    · exact absurd h (by simp)
  · obtain ⟨o, _, rfl⟩ := Option.map_eq_some_iff.1 h
    exact Dev.endPower_tame (by decide) (.refl _ _) ..
  · split at h
    · obtain rfl := Option.some.inj h
      exact Mach.dmaEnd_tame_dev (by decide) (.refl _ _) ..
    · obtain ⟨o, _, rfl⟩ := Option.map_eq_some_iff.1 h
      exact Mach.dmaArm_tame_dev (by decide) (.refl _ _) ..
  · exact absurd h (by simp)

theorem Mach.abortTarget_tame_mem {ps : Nat} {B : Mem} {X Y : Mach} {t : Cmd}
    (hsub : setOf [.hostMem, .dramMem] ||| ps = ps) (g : Mem.Tame ps B X.mem) (h : X.abortTarget t = some Y) : Mem.Tame ps B Y.mem := by
  refine Mem.Tame.next ?_ hsub g
  clear hsub g
  unfold Mach.abortTarget at h
  dsimp only at h
  split at h
  · obtain rfl := Option.some.inj h
    exact Mach.abortedData_tame_mem (by decide) (.refl _ _) _
  split at h
  · obtain rfl := Option.some.inj h
    exact .refl _ _
  · split at h
    · obtain rfl := Option.some.inj h
      exact .refl _ _
    · exact absurd h (by simp)
  · split at h
    · obtain rfl := Option.some.inj h
      exact .refl _ _
    · exact absurd h (by simp)
  · obtain ⟨o, _, rfl⟩ := Option.map_eq_some_iff.1 h
    exact .refl _ _
  · split at h
    · obtain rfl := Option.some.inj h
      exact Mach.dmaEnd_tame_mem (by decide) (.refl _ _) ..
    · obtain ⟨o, _, rfl⟩ := Option.map_eq_some_iff.1 h
      exact Mach.dmaArm_tame_mem (by decide) (.refl _ _) ..
  · exact absurd h (by simp)

theorem Mach.abort_tame_dev {ps : Nat} {B : Dev} {X : Mach} (hsub : setOf [.free, .seq, .stats, .commands, .events, .errorLog, .msix, .flt, .intr, .twk, .bbx, .link, .dram, .dma, .power, .caps, .codec, .sent, .feat 0x1E, .feat 0x1F] ||| ps = ps)
    (hbase : Dev.Tame ps B X.dev) (c : Cmd) : Dev.Tame ps B (Mach.abort X c).dev := by
  refine Dev.Tame.next ?_ hsub hbase
  unfold Mach.abort
  dsimp only
  refine Mach.tame_ite_dev ?_ ?_
  · refine Mach.complete_tame_dev (by decide) ?_ ..
    exact Dev.Tame.refl _ _
  · split
    · refine Mach.complete_tame_dev (by decide) ?_ ..
      exact Dev.Tame.refl _ _
    · refine Mach.tame_ite_dev ?_ ?_
      · refine Mach.refuse_tame_dev (by decide) ?_ ..
        exact Dev.Tame.refl _ _
      · refine Mach.tame_ite_dev ?_ ?_
        · refine Mach.tame_ite_dev ?_ ?_
          · refine Mach.tame_mk_dev ?_
            refine Dev.keepRunning_tame (by decide) ?_ ..
            refine Dev.onCodec_tame (by decide) ?_ ..
            exact Dev.Tame.refl _ _
          · refine Mach.complete_tame_dev (by decide) ?_ ..
            exact Dev.Tame.refl _ _
        · split
          · refine Mach.complete_tame_dev (by decide) ?_ ..
            refine Mach.abortTarget_tame_dev (by decide) ?_ (by assumption)
            exact Dev.Tame.refl _ _
          · refine Mach.complete_tame_dev (by decide) ?_ ..
            exact Dev.Tame.refl _ _

theorem Mach.abort_tame_mem {ps : Nat} {B : Mem} {X : Mach} (hsub : setOf [.hostMem, .dramMem] ||| ps = ps)
    (hbase : Mem.Tame ps B X.mem) (c : Cmd) : Mem.Tame ps B (Mach.abort X c).mem := by
  refine Mem.Tame.next ?_ hsub hbase
  unfold Mach.abort
  dsimp only
  refine Mach.tame_ite_mem ?_ ?_
  · refine Mach.complete_tame_mem (by decide) ?_ ..
    exact Mem.Tame.refl _ _
  · split
    · refine Mach.complete_tame_mem (by decide) ?_ ..
      exact Mem.Tame.refl _ _
    · refine Mach.tame_ite_mem ?_ ?_
      · refine Mach.refuse_tame_mem (by decide) ?_ ..
        exact Mem.Tame.refl _ _
      · refine Mach.tame_ite_mem ?_ ?_
        · refine Mach.tame_ite_mem ?_ ?_
          · refine Mach.tame_mk_mem ?_
            exact Mem.Tame.refl _ _
          · refine Mach.complete_tame_mem (by decide) ?_ ..
            exact Mem.Tame.refl _ _
        · split
          · refine Mach.complete_tame_mem (by decide) ?_ ..
            refine Mach.abortTarget_tame_mem (by decide) ?_ (by assumption)
            exact Mem.Tame.refl _ _
          · refine Mach.complete_tame_mem (by decide) ?_ ..
            exact Mem.Tame.refl _ _

theorem HostIf.logRead_tame (h : HostIf) (p : Nat) :
    HostIf.Same (setOf [.events, .errorLog, .logs]) h (h.logRead p) := by
  unfold HostIf.logRead
  split <;> exact HostIf.Same.mk (.inr ⟨rfl, rfl⟩) (.inr rfl) (.inr rfl) (.inr ⟨rfl, rfl, rfl, rfl⟩)
    (.inr ⟨rfl, rfl, rfl, rfl, rfl, rfl⟩) (.inr ⟨rfl, rfl, rfl, rfl, rfl⟩) (.inl (by decide)) (.inl (by decide))
    (.inl (by decide)) (.inr rfl) (.inr ⟨rfl, rfl, rfl, rfl⟩) (.inr rfl)

theorem Mach.commit_tame_dev {ps : Nat} {B : Dev} {X : Mach} (hsub : setOf [.free, .seq, .staged, .commands, .errorLog] ||| ps = ps)
    (hbase : Dev.Tame ps B X.dev) (c : Cmd) (readback : Bool) : Dev.Tame ps B (Mach.commit X c readback).2.dev := by
  refine Dev.Tame.next ?_ hsub hbase
  unfold Mach.commit
  dsimp only
  split
  · dsimp only
    refine Mach.complete_tame_dev (by decide) ?_ ..
    exact Dev.Tame.refl _ _
  · split
    · dsimp only
      refine Mach.complete_tame_dev (by decide) ?_ ..
      exact Dev.Tame.refl _ _
    · dsimp only
      refine Mach.complete_tame_dev (by decide) ?_ ..
      exact Dev.Tame.refl _ _
    · dsimp only
      refine Mach.complete_tame_dev (by decide) ?_ ..
      exact Dev.Tame.refl _ _
    · dsimp only
      refine Mach.complete_tame_dev (by decide) ?_ ..
      refine Mach.tame_mk_dev ?_
      refine Dev.tame_staged (by decide) ?_
      refine Dev.tame_ite ?_ ?_
      · exact Dev.Tame.refl _ _
      · refine Dev.afterDraw_tame (by decide) ?_ ..
        exact Dev.Tame.refl _ _

theorem Mach.commit_tame_mem {ps : Nat} {B : Mem} {X : Mach} (hsub : setOf [.nor] ||| ps = ps)
    (hbase : Mem.Tame ps B X.mem) (c : Cmd) (readback : Bool) : Mem.Tame ps B (Mach.commit X c readback).2.mem := by
  refine Mem.Tame.next ?_ hsub hbase
  unfold Mach.commit
  dsimp only
  split
  · dsimp only
    refine Mach.complete_tame_mem (by decide) ?_ ..
    exact Mem.Tame.refl _ _
  · split
    · dsimp only
      refine Mach.complete_tame_mem (by decide) ?_ ..
      exact Mem.Tame.refl _ _
    · dsimp only
      refine Mach.complete_tame_mem (by decide) ?_ ..
      exact Mem.Tame.refl _ _
    · dsimp only
      refine Mach.complete_tame_mem (by decide) ?_ ..
      exact Mem.Tame.refl _ _
    · dsimp only
      refine Mach.complete_tame_mem (by decide) ?_ ..
      refine Mach.tame_mk_mem ?_
      refine Mem.tame_nor (by decide) (fun w => ?_) ?_
      · exact writeBytes_wf _ _ _ _ w
      · exact Mem.Tame.refl _ _

theorem commitCmd_tame_dev {ps : Nat} {B : Dev} {X : Mach} {sq cid action : Nat} {f : Cmd → Mach → Mach}
    (h : ∀ c, Dev.Tame ps B (f c X).dev) (g : Dev.Tame ps B X.dev) : Dev.Tame ps B (commitCmd sq cid action f X).dev :=
  runCmd_tame_dev (fun c => Mach.tame_ite_dev (h c) g) g

theorem commitCmd_tame_mem {ps : Nat} {B : Mem} {X : Mach} {sq cid action : Nat} {f : Cmd → Mach → Mach}
    (h : ∀ c, Mem.Tame ps B (f c X).mem) (g : Mem.Tame ps B X.mem) : Mem.Tame ps B (commitCmd sq cid action f X).mem :=
  runCmd_tame_mem (fun c => Mach.tame_ite_mem (h c) g) g

end Sys2Proof.Machine
end

