-- ==== Sys2Proof/Laws/Framed.lean ====
section
/-! SUPPORT. Frames of whole commands: what an outcome may change when it is a next state, when it is a fault, and that it is
no refusal. -/

namespace Sys2Proof.Machine
open Sys2Proof

theorem Mach.tame_onlyIf_dev {ps : Nat} {B : Dev} {X : Mach} {c : Bool} {f : Mach → Mach} (h : Dev.Tame ps B X.dev)
    (k : Dev.Tame ps B (f X).dev) : Dev.Tame ps B (onlyIf c f X).dev := by unfold onlyIf; split <;> assumption

theorem Mach.tame_withSome_dev {β : Type} {ps : Nat} {B : Dev} {X : Mach} {o : Option β} {f : β → Mach → Mach}
    (h : Dev.Tame ps B X.dev) (k : ∀ x, Dev.Tame ps B (f x X).dev) : Dev.Tame ps B (withSome o f X).dev := by
  unfold withSome
  split
  · exact k _
  · exact h

theorem Mach.tame_onlyIf_mem {ps : Nat} {B : Mem} {X : Mach} {c : Bool} {f : Mach → Mach} (h : Mem.Tame ps B X.mem)
    (k : Mem.Tame ps B (f X).mem) : Mem.Tame ps B (onlyIf c f X).mem := by unfold onlyIf; split <;> assumption

theorem Mach.tame_withSome_mem {β : Type} {ps : Nat} {B : Mem} {X : Mach} {o : Option β} {f : β → Mach → Mach}
    (h : Mem.Tame ps B X.mem) (k : ∀ x, Mem.Tame ps B (f x X).mem) : Mem.Tame ps B (withSome o f X).mem := by
  unfold withSome
  split
  · exact k _
  · exact h

/-- The outcome changes the device in the parts of `dp` and the memories in those of `mp` at most and leaves the waiting commands; it
is a fault only of R580's state, and never a refusal. -/
def Framed (dp mp : Nat) (s : State) : Host.Outcome State Fault Refusal → Prop
  | .next t => Dev.Tame dp s.m.dev t.m.dev ∧ Mem.Tame mp s.m.mem t.m.mem ∧ t.pending = s.pending
  | .fault e => e = .undefinedUntilReset ∧ s.m.dev.undef = true
  | .refused _ => False

theorem framed_next {dp mp : Nat} {s : State} {m : Mach} (h : Dev.Tame dp s.m.dev m.dev) (k : Mem.Tame mp s.m.mem m.mem) :
    Framed dp mp s (.next { m := m, pending := s.pending }) := ⟨h, k, rfl⟩

theorem framed_same (dp mp : Nat) (s : State) : Framed dp mp s (.next s) := ⟨.refl _ _, .refl _ _, rfl⟩

theorem framed_ite {dp mp : Nat} {s : State} {a b : Host.Outcome State Fault Refusal} {c : Prop} [Decidable c] (h : Framed dp mp s a)
    (k : Framed dp mp s b) : Framed dp mp s (if c then a else b) := by split <;> assumption

theorem live_framed {dp mp : Nat} {f : Mach → Mach} (hs : setOf settled ||| dp = dp) (s : State)
    (h : Dev.Tame dp s.m.dev (f s.m).dev) (k : Mem.Tame mp s.m.mem (f s.m).mem) : Framed dp mp s (live f s) := by
  unfold live
  split
  · exact ⟨rfl, by assumption⟩
  · exact framed_ite (framed_same ..) (framed_next (Dev.settle_tame hs h) k)

theorem liveDev_framed {dp mp : Nat} {f : Dev → Dev} (hs : setOf settled ||| dp = dp) (s : State)
    (h : Dev.Tame dp s.m.dev (f s.m.dev)) : Framed dp mp s (liveDev f s) :=
  live_framed hs s h (.refl _ _)

end Sys2Proof.Machine
end

