-- ==== Sys2Proof/Laws/ExecAdmin.lean ====
section
/-! SUPPORT. What each command of Machine/Admin.lean may change, and where it stops. -/

namespace Sys2Proof.Machine
open Sys2Proof

theorem execAbort_framed (sq cid : Nat) (s : State) :
    Framed (setOf [.free, .seq, .stats, .commands, .events, .errorLog, .msix, .flt, .intr, .twk, .bbx, .link, .dram, .dma, .power, .caps, .codec, .sent, .feat 0x1E, .feat 0x1F]) (setOf [.hostMem, .dramMem]) s (execAbort sq cid s) := by
  unfold execAbort
  refine live_framed (by decide) _ ?_ ?_
  · refine runCmd_tame_dev (fun _ => ?_) ?_
    · refine Mach.abort_tame_dev (by decide) ?_ ..
      exact Dev.Tame.refl _ _
    · exact Dev.Tame.refl _ _
  · refine runCmd_tame_mem (fun _ => ?_) ?_
    · refine Mach.abort_tame_mem (by decide) ?_ ..
      exact Mem.Tame.refl _ _
    · exact Mem.Tame.refl _ _

theorem execIdentify_framed (sq cid : Nat) (s : State) :
    Framed (setOf [.free, .seq, .commands, .errorLog, .msix, .intr, .twk, .sent]) (setOf [.hostMem]) s (execIdentify sq cid s) := by
  unfold execIdentify
  refine live_framed (by decide) _ ?_ ?_
  · refine runCmd_tame_dev (fun _ => ?_) ?_
    · refine Mach.tame_ite_dev ?_ ?_
      · refine Mach.refuse_tame_dev (by decide) ?_ ..
        exact Dev.Tame.refl _ _
      · refine Mach.tame_ite_dev ?_ ?_
        · refine Mach.refuse_tame_dev (by decide) ?_ ..
          exact Dev.Tame.refl _ _
        · refine Mach.complete_tame_dev (by decide) ?_ ..
          refine Mach.tame_mk_dev ?_
          exact Dev.Tame.refl _ _
    · exact Dev.Tame.refl _ _
  · refine runCmd_tame_mem (fun _ => ?_) ?_
    · refine Mach.tame_ite_mem ?_ ?_
      · refine Mach.refuse_tame_mem (by decide) ?_ ..
        exact Mem.Tame.refl _ _
      · refine Mach.tame_ite_mem ?_ ?_
        · refine Mach.refuse_tame_mem (by decide) ?_ ..
          exact Mem.Tame.refl _ _
        · refine Mach.complete_tame_mem (by decide) ?_ ..
          refine Mach.tame_mk_mem ?_
          refine Mem.dataOut_tame (by decide) ?_ ..
          exact Mem.Tame.refl _ _
    · exact Mem.Tame.refl _ _

theorem execGetLog_framed (sq cid : Nat) (s : State) :
    Framed (setOf [.free, .seq, .commands, .events, .errorLog, .logs, .msix, .intr, .twk, .sent]) (setOf [.hostMem]) s (execGetLog sq cid s) := by
  unfold execGetLog
  refine live_framed (by decide) _ ?_ ?_
  · refine runCmd_tame_dev (fun _ => ?_) ?_
    · dsimp only
      split
      · refine Mach.refuse_tame_dev (by decide) ?_ ..
        exact Dev.Tame.refl _ _
      · refine Mach.tame_ite_dev ?_ ?_
        · refine Mach.refuse_tame_dev (by decide) ?_ ..
          exact Dev.Tame.refl _ _
        · refine Mach.tame_ite_dev ?_ ?_
          · refine Mach.refuse_tame_dev (by decide) ?_ ..
            exact Dev.Tame.refl _ _
          · refine Mach.complete_tame_dev (by decide) ?_ ..
            refine Mach.tame_mk_dev ?_
            refine Dev.tame_onHost ?_ ?_
            · exact (HostIf.logRead_tame ..).mono (by decide)
            · refine Dev.stamped_tame (by decide) ?_ ..
              exact Dev.Tame.refl _ _
    · exact Dev.Tame.refl _ _
  · refine runCmd_tame_mem (fun _ => ?_) ?_
    · dsimp only
      split
      · refine Mach.refuse_tame_mem (by decide) ?_ ..
        exact Mem.Tame.refl _ _
      · refine Mach.tame_ite_mem ?_ ?_
        · refine Mach.refuse_tame_mem (by decide) ?_ ..
          exact Mem.Tame.refl _ _
        · refine Mach.tame_ite_mem ?_ ?_
          · refine Mach.refuse_tame_mem (by decide) ?_ ..
            exact Mem.Tame.refl _ _
          · refine Mach.complete_tame_mem (by decide) ?_ ..
            refine Mach.tame_mk_mem ?_
            refine Mem.dataOut_tame (by decide) ?_ ..
            exact Mem.Tame.refl _ _
    · exact Mem.Tame.refl _ _

theorem execFwLoad_framed (sq cid : Nat) (s : State) :
    Framed (setOf [.free, .seq, .staged, .commands, .errorLog, .msix, .intr, .twk, .sent]) (setOf []) s (execFwLoad sq cid s) := by
  unfold execFwLoad
  refine live_framed (by decide) _ ?_ ?_
  · refine runCmd_tame_dev (fun _ => ?_) ?_
    · dsimp only
      refine Mach.tame_ite_dev ?_ ?_
      · refine Mach.refuse_tame_dev (by decide) ?_ ..
        exact Dev.Tame.refl _ _
      · refine Mach.tame_ite_dev ?_ ?_
        · refine Mach.refuse_tame_dev (by decide) ?_ ..
          exact Dev.Tame.refl _ _
        · refine Mach.tame_ite_dev ?_ ?_
          · refine Mach.refuse_tame_dev (by decide) ?_ ..
            exact Dev.Tame.refl _ _
          · refine Mach.complete_tame_dev (by decide) ?_ ..
            refine Mach.tame_mk_dev ?_
            refine Dev.tame_staged (by decide) ?_
            exact Dev.Tame.refl _ _
    · exact Dev.Tame.refl _ _
  · refine runCmd_tame_mem (fun _ => ?_) ?_
    · dsimp only
      refine Mach.tame_ite_mem ?_ ?_
      · refine Mach.refuse_tame_mem (by decide) ?_ ..
        exact Mem.Tame.refl _ _
      · refine Mach.tame_ite_mem ?_ ?_
        · refine Mach.refuse_tame_mem (by decide) ?_ ..
          exact Mem.Tame.refl _ _
        · refine Mach.tame_ite_mem ?_ ?_
          · refine Mach.refuse_tame_mem (by decide) ?_ ..
            exact Mem.Tame.refl _ _
          · refine Mach.complete_tame_mem (by decide) ?_ ..
            refine Mach.tame_mk_mem ?_
            exact Mem.Tame.refl _ _
    · exact Mem.Tame.refl _ _

theorem execWrite_framed (sq cid : Nat) (readback : Bool) (s : State) :
    Framed (setOf [.free, .seq, .staged, .commands, .errorLog, .msix, .intr, .twk, .sent]) (setOf [.nor]) s (execWrite sq cid readback s) := by
  unfold execWrite
  refine live_framed (by decide) _ ?_ ?_
  · refine commitCmd_tame_dev (fun _ => ?_) ?_
    · refine Mach.commit_tame_dev (by decide) ?_ ..
      exact Dev.Tame.refl _ _
    · exact Dev.Tame.refl _ _
  · refine commitCmd_tame_mem (fun _ => ?_) ?_
    · refine Mach.commit_tame_mem (by decide) ?_ ..
      exact Mem.Tame.refl _ _
    · exact Mem.Tame.refl _ _

theorem execWriteAndActivate_framed (sq cid : Nat) (readback : Bool) (s : State) :
    Framed (setOf [.free, .seq, .boot, .staged, .commands, .errorLog, .admission, .msix, .intr, .twk, .sent]) (setOf [.nor]) s (execWriteAndActivate sq cid readback s) := by
  unfold execWriteAndActivate
  refine live_framed (by decide) _ ?_ ?_
  · refine commitCmd_tame_dev (fun _ => ?_) ?_
    · refine Mach.tame_ite_dev ?_ ?_
      · refine Mach.deny_tame_dev (by decide) ?_ ..
        exact Dev.Tame.refl _ _
      · dsimp only
        refine Mach.tame_ite_dev ?_ ?_
        · refine onDev_tame_dev ?_
          refine Dev.onBoot_tame (by decide) ?_ ..
          refine Mach.commit_tame_dev (by decide) ?_ ..
          exact Dev.Tame.refl _ _
        · refine Mach.commit_tame_dev (by decide) ?_ ..
          exact Dev.Tame.refl _ _
    · exact Dev.Tame.refl _ _
  · refine commitCmd_tame_mem (fun _ => ?_) ?_
    · refine Mach.tame_ite_mem ?_ ?_
      · refine Mach.deny_tame_mem (by decide) ?_ ..
        exact Mem.Tame.refl _ _
      · dsimp only
        refine Mach.tame_ite_mem ?_ ?_
        · refine onDev_tame_mem ?_
          refine Mach.commit_tame_mem (by decide) ?_ ..
          exact Mem.Tame.refl _ _
        · refine Mach.commit_tame_mem (by decide) ?_ ..
          exact Mem.Tame.refl _ _
    · exact Mem.Tame.refl _ _

theorem execRaiseFloor_framed (sq cid : Nat) (s : State) :
    Framed (setOf [.free, .seq, .otp, .staged, .commands, .errorLog, .msix, .intr, .twk, .sent]) (setOf []) s (execRaiseFloor sq cid s) := by
  unfold execRaiseFloor
  refine live_framed (by decide) _ ?_ ?_
  · refine commitCmd_tame_dev (fun _ => ?_) ?_
    · dsimp only
      refine Mach.tame_ite_dev ?_ ?_
      · refine Mach.refuse_tame_dev (by decide) ?_ ..
        exact Dev.Tame.refl _ _
      · refine Mach.complete_tame_dev (by decide) ?_ ..
        refine Mach.tame_mk_dev ?_
        refine Dev.tame_otp_staged (by decide) (by decide) ?_
        exact Dev.Tame.refl _ _
    · exact Dev.Tame.refl _ _
  · refine commitCmd_tame_mem (fun _ => ?_) ?_
    · dsimp only
      refine Mach.tame_ite_mem ?_ ?_
      · refine Mach.refuse_tame_mem (by decide) ?_ ..
        exact Mem.Tame.refl _ _
      · refine Mach.complete_tame_mem (by decide) ?_ ..
        refine Mach.tame_mk_mem ?_
        exact Mem.Tame.refl _ _
    · exact Mem.Tame.refl _ _

end Sys2Proof.Machine
end

