-- ==== Sys2Proof/Laws/ExecBar0.lean ====
section
/-! SUPPORT. What each command of Machine/Bar0.lean may change, and where it stops. -/

namespace Sys2Proof.Machine
open Sys2Proof

theorem execBadAccess_framed (s : State) :
    Framed (setOf [.free, .access, .msix, .intr, .twk, .sent]) (setOf []) s (execBadAccess s) := by
  unfold execBadAccess
  refine liveDev_framed (by decide) _ ?_
  refine Dev.tame_onlyIf ?_ ?_
  · exact Dev.Tame.refl _ _
  · refine Dev.tame_onHost ?_ ?_
    · exact HostIf.Same.mk
        (.inr ⟨rfl, rfl⟩)
        (.inr rfl)
        (.inr rfl)
        (.inr ⟨rfl, rfl, rfl, rfl⟩)
        (.inr ⟨rfl, rfl, rfl, rfl, rfl, rfl⟩)
        (.inr ⟨rfl, rfl, rfl, rfl, rfl⟩)
        (.inr ⟨rfl, rfl, rfl, rfl⟩)
        (.inr rfl)
        (.inr ⟨rfl, rfl, rfl⟩)
        (.inr rfl)
        (.inl (by decide))
        (.inl (by decide))
    · exact Dev.Tame.refl _ _

theorem execBar0RcRead_framed (off : Nat) (s : State) :
    Framed (setOf [.free, .commands, .access, .msix, .flt, .intr, .twk, .bbx, .sent]) (setOf []) s (execBar0RcRead off s) := by
  unfold execBar0RcRead
  refine live_framed (by decide) _ ?_ ?_
  · refine Mach.tame_onlyIf_dev ?_ ?_
    · exact Dev.Tame.refl _ _
    · refine Mach.bar0Read_tame_dev (by decide) ?_ ..
      exact Dev.Tame.refl _ _
  · refine Mach.tame_onlyIf_mem ?_ ?_
    · exact Mem.Tame.refl _ _
    · refine Mach.bar0Read_tame_mem (by decide) ?_ ..
      exact Mem.Tame.refl _ _

theorem execSdtNowLowRead_framed (s : State) :
    Framed (setOf [.free, .commands, .access, .msix, .flt, .intr, .twk, .bbx, .sent]) (setOf []) s (execSdtNowLowRead s) := by
  unfold execSdtNowLowRead
  refine live_framed (by decide) _ ?_ ?_
  · refine Mach.tame_onlyIf_dev ?_ ?_
    · exact Dev.Tame.refl _ _
    · refine Mach.bar0Read_tame_dev (by decide) ?_ ..
      exact Dev.Tame.refl _ _
  · refine Mach.tame_onlyIf_mem ?_ ?_
    · exact Mem.Tame.refl _ _
    · refine Mach.bar0Read_tame_mem (by decide) ?_ ..
      exact Mem.Tame.refl _ _

theorem execSqTailDoorbell_framed (q t : Nat) (s : State) :
    Framed (setOf [.free, .seq, .sqs, .commands, .events, .access, .msix, .intr, .twk, .sent]) (setOf []) s (execSqTailDoorbell q t s) := by
  unfold execSqTailDoorbell
  refine liveDev_framed (by decide) _ ?_
  refine Dev.tame_onlyIf ?_ ?_
  · exact Dev.Tame.refl _ _
  · refine Dev.sqDoorbell_tame (by decide) ?_ ..
    exact Dev.Tame.refl _ _

theorem execCqHeadDoorbell_framed (q h : Nat) (s : State) :
    Framed (setOf [.free, .seq, .cqs, .commands, .events, .access, .msix, .intr, .twk, .bbx, .sent]) (setOf [.hostMem]) s (execCqHeadDoorbell q h s) := by
  unfold execCqHeadDoorbell
  refine live_framed (by decide) _ ?_ ?_
  · refine Mach.tame_onlyIf_dev ?_ ?_
    · exact Dev.Tame.refl _ _
    · refine Mach.cqDoorbell_tame_dev (by decide) ?_ ..
      exact Dev.Tame.refl _ _
  · refine Mach.tame_onlyIf_mem ?_ ?_
    · exact Mem.Tame.refl _ _
    · refine Mach.cqDoorbell_tame_mem (by decide) ?_ ..
      exact Mem.Tame.refl _ _

theorem execAdminEnable_framed (s : State) :
    Framed (setOf [.free, .sqs, .cqs, .admin, .msix, .intr, .twk, .sent]) (setOf []) s (execAdminEnable s) := by
  unfold execAdminEnable
  refine liveDev_framed (by decide) _ ?_
  refine Dev.tame_onlyIf ?_ ?_
  · exact Dev.Tame.refl _ _
  · refine Dev.adminEnable_tame (by decide) ?_ ..
    exact Dev.Tame.refl _ _

theorem execAdminDisable_framed (s : State) :
    Framed (setOf [.free, .sqs, .cqs, .admin, .commands, .events, .msix, .intr, .twk, .sent]) (setOf []) s (execAdminDisable s) := by
  unfold execAdminDisable
  refine liveDev_framed (by decide) _ ?_
  refine Dev.tame_onlyIf ?_ ?_
  · exact Dev.Tame.refl _ _
  · refine Dev.adminDisable_tame (by decide) ?_ ..
    exact Dev.Tame.refl _ _

theorem execRegisterWrite_framed (bar2 : Bool) (off : Nat) (qword : Bool) (v : Nat) (s : State) :
    Framed (setOf [.free, .seq, .mailboxes, .sqs, .cqs, .admin, .commands, .events, .access, .msix, .flt, .intr, .twk, .bbx, .sent]) (setOf [.hostMem]) s (execRegisterWrite bar2 off qword v s) := by
  unfold execRegisterWrite
  refine live_framed (by decide) _ ?_ ?_
  · refine Mach.tame_ite_dev ?_ ?_
    · exact Dev.Tame.refl _ _
    · refine Mach.tame_ite_dev ?_ ?_
      · refine onDev_tame_dev ?_
        refine Dev.tame_ite ?_ ?_
        · refine Dev.bar2Write_tame (by decide) ?_ ..
          refine Dev.bar2Write_tame (by decide) ?_ ..
          exact Dev.Tame.refl _ _
        · refine Dev.bar2Write_tame (by decide) ?_ ..
          exact Dev.Tame.refl _ _
      · refine Mach.tame_ite_dev ?_ ?_
        · refine onDev_tame_dev ?_
          refine Dev.tame_onHost ?_ ?_
          · exact HostIf.Same.mk
              (.inl (by decide))
              (.inl (by decide))
              (.inl (by decide))
              (.inr ⟨rfl, rfl, rfl, rfl⟩)
              (.inl (by decide))
              (.inl (by decide))
              (.inl (by decide))
              (.inr rfl)
              (.inr ⟨rfl, rfl, rfl⟩)
              (.inr rfl)
              (.inl (by decide))
              (.inl (by decide))
          · exact Dev.Tame.refl _ _
        · refine Mach.tame_ite_dev ?_ ?_
          · refine Mach.bar0Write_tame_dev (by decide) ?_ ..
            refine Mach.bar0Write_tame_dev (by decide) ?_ ..
            exact Dev.Tame.refl _ _
          · refine Mach.bar0Write_tame_dev (by decide) ?_ ..
            exact Dev.Tame.refl _ _
  · refine Mach.tame_ite_mem ?_ ?_
    · exact Mem.Tame.refl _ _
    · refine Mach.tame_ite_mem ?_ ?_
      · refine onDev_tame_mem ?_
        exact Mem.Tame.refl _ _
      · refine Mach.tame_ite_mem ?_ ?_
        · refine onDev_tame_mem ?_
          exact Mem.Tame.refl _ _
        · refine Mach.tame_ite_mem ?_ ?_
          · refine Mach.bar0Write_tame_mem (by decide) ?_ ..
            refine Mach.bar0Write_tame_mem (by decide) ?_ ..
            exact Mem.Tame.refl _ _
          · refine Mach.bar0Write_tame_mem (by decide) ?_ ..
            exact Mem.Tame.refl _ _

theorem execFaultStatusClear_framed (j v : Nat) (s : State) :
    Framed (setOf [.free, .seq, .mailboxes, .sqs, .cqs, .admin, .commands, .events, .access, .msix, .flt, .intr, .twk, .bbx, .sent]) (setOf [.hostMem]) s (execFaultStatusClear j v s) := by
  unfold execFaultStatusClear
  refine live_framed (by decide) _ ?_ ?_
  · refine Mach.tame_onlyIf_dev ?_ ?_
    · exact Dev.Tame.refl _ _
    · refine Mach.bar0Write_tame_dev (by decide) ?_ ..
      exact Dev.Tame.refl _ _
  · refine Mach.tame_onlyIf_mem ?_ ?_
    · exact Mem.Tame.refl _ _
    · refine Mach.bar0Write_tame_mem (by decide) ?_ ..
      exact Mem.Tame.refl _ _

theorem execIntHostAck_framed (id : Nat) (s : State) :
    Framed (setOf [.free, .msix, .intr, .twk, .sent]) (setOf []) s (execIntHostAck id s) := by
  unfold execIntHostAck
  refine liveDev_framed (by decide) _ ?_
  refine Dev.tame_onlyIf ?_ ?_
  · exact Dev.Tame.refl _ _
  · refine Dev.hostAck_tame (by decide) ?_ ..
    exact Dev.Tame.refl _ _

theorem execHostSourceEnable_framed (id : Nat) (en : Bool) (prio : Nat) (s : State) :
    Framed (setOf [.free, .msix, .intr, .twk, .sent]) (setOf []) s (execHostSourceEnable id en prio s) := by
  unfold execHostSourceEnable
  refine liveDev_framed (by decide) _ ?_
  refine Dev.tame_onlyIf ?_ ?_
  · exact Dev.Tame.refl _ _
  · refine Dev.onIntr_tame (by decide) ?_ ..
    exact Dev.Tame.refl _ _

theorem execEcho_framed (i : Nat) (s : State) :
    Framed (setOf [.free, .mailboxes, .msix, .intr, .twk, .sent]) (setOf []) s (execEcho i s) := by
  unfold execEcho
  refine liveDev_framed (by decide) _ ?_
  refine Dev.tame_onlyIf ?_ ?_
  · exact Dev.Tame.refl _ _
  · refine Dev.answer_tame (by decide) ?_ ..
    exact Dev.Tame.refl _ _

theorem execBbxRead_framed (s : State) :
    Framed (setOf [.free, .mailboxes, .msix, .intr, .twk, .sent]) (setOf [.hostMem]) s (execBbxRead s) := by
  unfold execBbxRead
  refine live_framed (by decide) _ ?_ ?_
  · refine Mach.tame_onlyIf_dev ?_ ?_
    · exact Dev.Tame.refl _ _
    · dsimp only
      refine Mach.tame_ite_dev ?_ ?_
      · refine Mach.tame_mk_dev ?_
        refine Dev.answer_tame (by decide) ?_ ..
        exact Dev.Tame.refl _ _
      · refine Mach.tame_mk_dev ?_
        refine Dev.answer_tame (by decide) ?_ ..
        exact Dev.Tame.refl _ _
  · refine Mach.tame_onlyIf_mem ?_ ?_
    · exact Mem.Tame.refl _ _
    · dsimp only
      refine Mach.tame_ite_mem ?_ ?_
      · refine Mach.tame_mk_mem ?_
        exact Mem.Tame.refl _ _
      · refine Mach.tame_mk_mem ?_
        refine Mem.hostWrite_tame (by decide) ?_ ..
        exact Mem.Tame.refl _ _

theorem execSqFetch_framed (admin : Bool) (s : State) :
    Framed (setOf [.free, .seq, .sqs, .turns, .commands, .errorLog, .msix, .intr, .twk, .sent]) (setOf []) s (execSqFetch admin s) := by
  unfold execSqFetch
  refine live_framed (by decide) _ ?_ ?_
  · refine Mach.sqFetch_tame_dev (by decide) ?_ ..
    exact Dev.Tame.refl _ _
  · refine Mach.sqFetch_tame_mem (by decide) ?_ ..
    exact Mem.Tame.refl _ _

theorem execCompletionPost_framed (s : State) :
    Framed (setOf [.free, .seq, .sqs, .cqs, .commands, .events, .errorLog, .msix, .intr, .twk, .bbx, .sent]) (setOf [.hostMem]) s (execCompletionPost s) := by
  unfold execCompletionPost
  refine live_framed (by decide) _ ?_ ?_
  · refine Mach.postCompletion_tame_dev (by decide) ?_ ..
    exact Dev.Tame.refl _ _
  · refine Mach.postCompletion_tame_mem (by decide) ?_ ..
    exact Mem.Tame.refl _ _

theorem execCqAggTimeout_framed (q : Nat) (s : State) :
    Framed (setOf [.clk, .free, .cqs, .msix, .intr, .twk, .sid, .sent]) (setOf []) s (execCqAggTimeout q s) := by
  unfold execCqAggTimeout
  refine liveDev_framed (by decide) _ ?_
  refine Dev.aggTimeout_tame (by decide) ?_ ..
  exact Dev.Tame.refl _ _

theorem execCreateSq_framed (sq cid : Nat) (s : State) :
    Framed (setOf [.free, .seq, .sqs, .commands, .errorLog, .msix, .intr, .twk, .sent]) (setOf []) s (execCreateSq sq cid s) := by
  unfold execCreateSq
  refine live_framed (by decide) _ ?_ ?_
  · refine runCmd_tame_dev (fun _ => ?_) ?_
    · refine Mach.createSq_tame_dev (by decide) ?_ ..
      exact Dev.Tame.refl _ _
    · exact Dev.Tame.refl _ _
  · refine runCmd_tame_mem (fun _ => ?_) ?_
    · refine Mach.createSq_tame_mem (by decide) ?_ ..
      exact Mem.Tame.refl _ _
    · exact Mem.Tame.refl _ _

theorem execCreateCq_framed (sq cid : Nat) (s : State) :
    Framed (setOf [.free, .seq, .cqs, .commands, .errorLog, .msix, .intr, .twk, .sent]) (setOf []) s (execCreateCq sq cid s) := by
  unfold execCreateCq
  refine live_framed (by decide) _ ?_ ?_
  · refine runCmd_tame_dev (fun _ => ?_) ?_
    · refine Mach.createCq_tame_dev (by decide) ?_ ..
      exact Dev.Tame.refl _ _
    · exact Dev.Tame.refl _ _
  · refine runCmd_tame_mem (fun _ => ?_) ?_
    · refine Mach.createCq_tame_mem (by decide) ?_ ..
      exact Mem.Tame.refl _ _
    · exact Mem.Tame.refl _ _

theorem execDeleteSq_framed (sq cid : Nat) (s : State) :
    Framed (setOf [.free, .seq, .sqs, .commands, .errorLog, .msix, .intr, .twk, .sent]) (setOf []) s (execDeleteSq sq cid s) := by
  unfold execDeleteSq
  refine live_framed (by decide) _ ?_ ?_
  · refine runCmd_tame_dev (fun _ => ?_) ?_
    · refine Mach.deleteSq_tame_dev (by decide) ?_ ..
      exact Dev.Tame.refl _ _
    · exact Dev.Tame.refl _ _
  · refine runCmd_tame_mem (fun _ => ?_) ?_
    · refine Mach.deleteSq_tame_mem (by decide) ?_ ..
      exact Mem.Tame.refl _ _
    · exact Mem.Tame.refl _ _

theorem execDeleteCq_framed (sq cid : Nat) (s : State) :
    Framed (setOf [.free, .seq, .cqs, .commands, .errorLog, .msix, .intr, .twk, .sent]) (setOf []) s (execDeleteCq sq cid s) := by
  unfold execDeleteCq
  refine live_framed (by decide) _ ?_ ?_
  · refine runCmd_tame_dev (fun _ => ?_) ?_
    · refine Mach.deleteCq_tame_dev (by decide) ?_ ..
      exact Dev.Tame.refl _ _
    · exact Dev.Tame.refl _ _
  · refine runCmd_tame_mem (fun _ => ?_) ?_
    · refine Mach.deleteCq_tame_mem (by decide) ?_ ..
      exact Mem.Tame.refl _ _
    · exact Mem.Tame.refl _ _

theorem execAsyncEventRequest_framed (sq cid : Nat) (s : State) :
    Framed (setOf [.free, .seq, .commands, .events, .errorLog, .msix, .intr, .twk, .sent]) (setOf []) s (execAsyncEventRequest sq cid s) := by
  unfold execAsyncEventRequest
  refine live_framed (by decide) _ ?_ ?_
  · refine runCmd_tame_dev (fun _ => ?_) ?_
    · refine onDev_tame_dev ?_
      refine Dev.asyncRequest_tame (by decide) ?_ ..
      exact Dev.Tame.refl _ _
    · exact Dev.Tame.refl _ _
  · refine runCmd_tame_mem (fun _ => ?_) ?_
    · refine onDev_tame_mem ?_
      exact Mem.Tame.refl _ _
    · exact Mem.Tame.refl _ _

end Sys2Proof.Machine
end

