-- ==== Sys2Proof/Laws/ExecBoot.lean ====
section
/-! SUPPORT. What each command of Machine/Boot.lean may change, and where it stops. -/

namespace Sys2Proof.Machine
open Sys2Proof

theorem execBootRomStart_framed (train1 train2 : Bool) (gib ranks : Nat) (badA badB : Bool) (s : State) :
    Framed (setOf [.free, .seq, .boot, .mailboxes, .sqs, .cqs, .admin, .msix, .intr, .twk, .bbx, .sid, .dram, .power, .sent]) (setOf [.mram]) s (execBootRomStart train1 train2 gib ranks badA badB s) := by
  unfold execBootRomStart
  refine live_framed (by decide) _ ?_ ?_
  · refine Mach.tame_onlyIf_dev ?_ ?_
    · exact Dev.Tame.refl _ _
    · refine Mach.bootRom_tame_dev (by decide) ?_ ..
      exact Dev.Tame.refl _ _
  · refine Mach.tame_onlyIf_mem ?_ ?_
    · exact Mem.Tame.refl _ _
    · refine Mach.bootRom_tame_mem (by decide) ?_ ..
      exact Mem.Tame.refl _ _

theorem execBootWatchdogExpiry_framed (s : State) :
    Framed (setOf [.clk, .free, .boot, .msix, .intr, .twk, .sid, .sent]) (setOf []) s (execBootWatchdogExpiry s) := by
  unfold execBootWatchdogExpiry
  refine liveDev_framed (by decide) _ ?_
  split
  · exact Dev.Tame.refl _ _
  · dsimp only
    refine Dev.onBoot_tame (by decide) ?_ ..
    refine Dev.advanceTo_tame (by decide) ?_ ..
    exact Dev.Tame.refl _ _

theorem execReadyTimeout_framed (s : State) :
    Framed (setOf [.clk, .free, .boot, .msix, .intr, .twk, .sid, .sent]) (setOf []) s (execReadyTimeout s) := by
  unfold execReadyTimeout
  refine liveDev_framed (by decide) _ ?_
  split
  · exact Dev.Tame.refl _ _
  · dsimp only
    refine Dev.onBoot_tame (by decide) ?_ ..
    refine Dev.advanceTo_tame (by decide) ?_ ..
    exact Dev.Tame.refl _ _

theorem execReady_framed (s : State) :
    Framed (setOf [.free, .seq, .boot, .sqs, .cqs, .admin, .msix, .intr, .twk, .bbx, .link, .pools, .dram, .power, .sent, .feat 0x22]) (setOf [.mram]) s (execReady s) := by
  unfold execReady
  refine live_framed (by decide) _ ?_ ?_
  · refine Mach.tame_onlyIf_dev ?_ ?_
    · exact Dev.Tame.refl _ _
    · dsimp only
      refine Dev.adminActivate_tame (by decide) ?_ ..
      refine Dev.record_tame (by decide) ?_ ..
      refine Dev.enableLinks_tame (by decide) ?_ ..
      refine Dev.placePools_tame (by decide) ?_ ..
      refine Dev.tame_boot_intr_twk_dram_power (by decide) (by decide) (by decide) (by decide) (by decide) (by simp) ?_
      refine Mach.putRecord_tame_dev (by decide) ?_ ..
      exact Dev.Tame.refl _ _
  · refine Mach.tame_onlyIf_mem ?_ ?_
    · exact Mem.Tame.refl _ _
    · dsimp only
      refine Mach.putRecord_tame_mem (by decide) ?_ ..
      exact Mem.Tame.refl _ _

theorem execLoad_framed (readOk : Bool) (s : State) :
    Framed (setOf [.free, .seq, .boot, .mailboxes, .sqs, .cqs, .admin, .msix, .intr, .twk, .bbx, .power, .sent]) (setOf [.mram]) s (execLoad readOk s) := by
  unfold execLoad
  refine live_framed (by decide) _ ?_ ?_
  · refine Mach.tame_onlyIf_dev ?_ ?_
    · exact Dev.Tame.refl _ _
    · dsimp only
      refine Mach.tame_ite_dev ?_ ?_
      · refine Mach.tame_mk_dev ?_
        refine Dev.answer_tame (by decide) ?_ ..
        exact Dev.Tame.refl _ _
      · refine Mach.tame_ite_dev ?_ ?_
        · refine Mach.tame_mk_dev ?_
          refine Dev.answer_tame (by decide) ?_ ..
          exact Dev.Tame.refl _ _
        · split
          · refine Mach.tame_mk_dev ?_
            refine Dev.answer_tame (by decide) ?_ ..
            refine Mach.handOver_tame_dev (by decide) ?_ ..
            refine Mach.tame_ite_dev ?_ ?_
            · refine Mach.tame_mk_dev ?_
              refine Dev.onBoot_tame (by decide) ?_ ..
              exact Dev.Tame.refl _ _
            · exact Dev.Tame.refl _ _
          · refine Mach.tame_ite_dev ?_ ?_
            · refine Mach.tame_mk_dev ?_
              refine Dev.answer_tame (by decide) ?_ ..
              exact Dev.Tame.refl _ _
            · refine Mach.tame_ite_dev ?_ ?_
              · refine Mach.enterTwilight_tame_dev (by decide) ?_ ..
                refine Mach.tame_mk_dev ?_
                refine Dev.answer_tame (by decide) ?_ ..
                refine Mach.failAttempt_tame_dev (by decide) ?_ ..
                exact Dev.Tame.refl _ _
              · refine Mach.tame_mk_dev ?_
                refine Dev.answer_tame (by decide) ?_ ..
                refine Mach.failAttempt_tame_dev (by decide) ?_ ..
                exact Dev.Tame.refl _ _
  · refine Mach.tame_onlyIf_mem ?_ ?_
    · exact Mem.Tame.refl _ _
    · dsimp only
      refine Mach.tame_ite_mem ?_ ?_
      · refine Mach.tame_mk_mem ?_
        exact Mem.Tame.refl _ _
      · refine Mach.tame_ite_mem ?_ ?_
        · refine Mach.tame_mk_mem ?_
          exact Mem.Tame.refl _ _
        · split
          · refine Mach.tame_mk_mem ?_
            refine Mach.handOver_tame_mem (by decide) ?_ ..
            refine Mach.tame_ite_mem ?_ ?_
            · refine Mach.tame_mk_mem ?_
              exact Mem.Tame.refl _ _
            · exact Mem.Tame.refl _ _
          · refine Mach.tame_ite_mem ?_ ?_
            · refine Mach.tame_mk_mem ?_
              exact Mem.Tame.refl _ _
            · refine Mach.tame_ite_mem ?_ ?_
              · refine Mach.enterTwilight_tame_mem (by decide) ?_ ..
                refine Mach.tame_mk_mem ?_
                refine Mach.failAttempt_tame_mem (by decide) ?_ ..
                exact Mem.Tame.refl _ _
              · refine Mach.tame_mk_mem ?_
                refine Mach.failAttempt_tame_mem (by decide) ?_ ..
                exact Mem.Tame.refl _ _

theorem execReboot_framed (s : State) :
    Framed (setOf [.free, .boot, .mailboxes, .msix, .intr, .twk, .sent]) (setOf []) s (execReboot s) := by
  unfold execReboot
  refine liveDev_framed (by decide) _ ?_
  refine Dev.tame_onlyIf ?_ ?_
  · exact Dev.Tame.refl _ _
  · refine Dev.tame_ite ?_ ?_
    · refine Dev.answer_tame (by decide) ?_ ..
      exact Dev.Tame.refl _ _
    · refine Dev.onBoot_tame (by decide) ?_ ..
      refine Dev.answer_tame (by decide) ?_ ..
      exact Dev.Tame.refl _ _

theorem execTwilightEnter_framed (s : State) :
    Framed (setOf [.free, .boot, .mailboxes, .msix, .intr, .twk, .sent]) (setOf []) s (execTwilightEnter s) := by
  unfold execTwilightEnter
  refine liveDev_framed (by decide) _ ?_
  refine Dev.tame_onlyIf ?_ ?_
  · exact Dev.Tame.refl _ _
  · refine Dev.tame_ite ?_ ?_
    · refine Dev.answer_tame (by decide) ?_ ..
      exact Dev.Tame.refl _ _
    · refine Dev.onBoot_tame (by decide) ?_ ..
      refine Dev.answer_tame (by decide) ?_ ..
      exact Dev.Tame.refl _ _

end Sys2Proof.Machine
end

