-- ==== Sys2Proof/Laws/ExecCapture.lean ====
section
/-! SUPPORT. What each command of Machine/Capture.lean may change, and where it stops. -/

namespace Sys2Proof.Machine
open Sys2Proof

theorem execClipOpen_framed (sq cid : Nat) (s : State) :
    Framed (setOf [.free, .seq, .stats, .commands, .errorLog, .admission, .msix, .intr, .twk, .caps, .mags, .sent, .feat 0x00, .feat 0x1D]) (setOf [.carriers]) s (execClipOpen sq cid s) := by
  unfold execClipOpen
  refine live_framed (by decide) _ ?_ ?_
  · refine runCmd_tame_dev (fun _ => ?_) ?_
    · refine onCapture_tame_dev (by decide) (fun _ _ => ?_) ?_
      · dsimp only
        refine Mach.tame_ite_dev ?_ ?_
        · refine Mach.refuse_tame_dev (by decide) ?_ ..
          exact Dev.Tame.refl _ _
        · refine Mach.tame_ite_dev ?_ ?_
          · refine Mach.deny_tame_dev (by decide) ?_ ..
            exact Dev.Tame.refl _ _
          · refine Mach.tame_ite_dev ?_ ?_
            · refine Mach.complete_tame_dev (by decide) ?_ ..
              exact Dev.Tame.refl _ _
            · refine Mach.tame_ite_dev ?_ ?_
              · refine Mach.complete_tame_dev (by decide) ?_ ..
                exact Dev.Tame.refl _ _
              · split
                · refine Mach.complete_tame_dev (by decide) ?_ ..
                  exact Dev.Tame.refl _ _
                · refine Mach.tame_ite_dev ?_ ?_
                  · refine Mach.complete_tame_dev (by decide) ?_ ..
                    exact Dev.Tame.refl _ _
                  · split
                    · refine Mach.deny_tame_dev (by decide) ?_ ..
                      exact Dev.Tame.refl _ _
                    · refine Mach.complete_tame_dev (by decide) ?_ ..
                      refine Mach.tame_foldl_dev ?_ (fun _ _ _ => ?_)
                      · refine Mach.tame_mk_dev ?_
                        refine Dev.stamped_tame (by decide) ?_ ..
                        refine Dev.setReg_tame (by decide) ?_
                        refine Dev.setReg_tame (by decide) ?_
                        refine Dev.setReg_tame (by decide) ?_
                        refine Dev.setReg_tame (by decide) ?_
                        refine Dev.tame_foldl ?_ (fun _ _ _ => ?_)
                        · refine Dev.setCap_tame (by decide) ?_ ..
                          exact Dev.Tame.refl _ _
                        · refine Dev.onVol_tame (by decide) ?_ ..
                          assumption
                      · refine Mach.checkpoint_tame_dev (by decide) ?_ ..
                        assumption
      · exact Dev.Tame.refl _ _
    · exact Dev.Tame.refl _ _
  · refine runCmd_tame_mem (fun _ => ?_) ?_
    · refine onCapture_tame_mem (by decide) (fun _ _ => ?_) ?_
      · dsimp only
        refine Mach.tame_ite_mem ?_ ?_
        · refine Mach.refuse_tame_mem (by decide) ?_ ..
          exact Mem.Tame.refl _ _
        · refine Mach.tame_ite_mem ?_ ?_
          · refine Mach.deny_tame_mem (by decide) ?_ ..
            exact Mem.Tame.refl _ _
          · refine Mach.tame_ite_mem ?_ ?_
            · refine Mach.complete_tame_mem (by decide) ?_ ..
              exact Mem.Tame.refl _ _
            · refine Mach.tame_ite_mem ?_ ?_
              · refine Mach.complete_tame_mem (by decide) ?_ ..
                exact Mem.Tame.refl _ _
              · split
                · refine Mach.complete_tame_mem (by decide) ?_ ..
                  exact Mem.Tame.refl _ _
                · refine Mach.tame_ite_mem ?_ ?_
                  · refine Mach.complete_tame_mem (by decide) ?_ ..
                    exact Mem.Tame.refl _ _
                  · split
                    · refine Mach.deny_tame_mem (by decide) ?_ ..
                      exact Mem.Tame.refl _ _
                    · refine Mach.complete_tame_mem (by decide) ?_ ..
                      refine Mach.tame_foldl_mem ?_ (fun _ _ _ => ?_)
                      · refine Mach.tame_mk_mem ?_
                        exact Mem.Tame.refl _ _
                      · refine Mach.checkpoint_tame_mem (by decide) ?_ ..
                        assumption
      · exact Mem.Tame.refl _ _
    · exact Mem.Tame.refl _ _

theorem execClipClose_framed (sq cid : Nat) (s : State) :
    Framed (setOf [.free, .seq, .stats, .commands, .errorLog, .admission, .msix, .intr, .twk, .bbx, .caps, .mags, .sent, .feat 0x00, .feat 0x1D]) (setOf [.carriers]) s (execClipClose sq cid s) := by
  unfold execClipClose
  refine live_framed (by decide) _ ?_ ?_
  · refine runCmd_tame_dev (fun _ => ?_) ?_
    · refine onCapture_tame_dev (by decide) (fun _ _ => ?_) ?_
      · split
        · refine Mach.deny_tame_dev (by decide) ?_ ..
          exact Dev.Tame.refl _ _
        · refine Mach.tame_ite_dev ?_ ?_
          · refine Mach.deny_tame_dev (by decide) ?_ ..
            exact Dev.Tame.refl _ _
          · dsimp only
            refine Mach.complete_tame_dev (by decide) ?_ ..
            refine Mach.tame_mk_dev ?_
            refine Dev.setCmt_tame (by decide) ?_ ..
            refine Dev.modCap_tame (by decide) ?_ ..
            refine Mach.tame_foldl_dev ?_ (fun _ _ _ => ?_)
            · refine Mach.tame_mk_dev ?_
              refine Dev.stamped_tame (by decide) ?_ ..
              refine Dev.onOpenClip_tame (by decide) ?_ ..
              refine Mach.tame_foldl_dev ?_ (fun _ _ _ => ?_)
              · exact Dev.Tame.refl _ _
              · refine Mach.writeLogs_tame_dev (by decide) ?_ ..
                assumption
            · refine Mach.mirrorBlackBox_tame_dev (by decide) ?_ ..
              refine Mach.checkpoint_tame_dev (by decide) ?_ ..
              assumption
      · exact Dev.Tame.refl _ _
    · exact Dev.Tame.refl _ _
  · refine runCmd_tame_mem (fun _ => ?_) ?_
    · refine onCapture_tame_mem (by decide) (fun _ _ => ?_) ?_
      · split
        · refine Mach.deny_tame_mem (by decide) ?_ ..
          exact Mem.Tame.refl _ _
        · refine Mach.tame_ite_mem ?_ ?_
          · refine Mach.deny_tame_mem (by decide) ?_ ..
            exact Mem.Tame.refl _ _
          · dsimp only
            refine Mach.complete_tame_mem (by decide) ?_ ..
            refine Mach.tame_mk_mem ?_
            refine Mach.tame_foldl_mem ?_ (fun _ _ _ => ?_)
            · refine Mach.tame_mk_mem ?_
              refine Mach.tame_foldl_mem ?_ (fun _ _ _ => ?_)
              · exact Mem.Tame.refl _ _
              · refine Mach.writeLogs_tame_mem (by decide) ?_ ..
                assumption
            · refine Mach.mirrorBlackBox_tame_mem (by decide) ?_ ..
              refine Mach.checkpoint_tame_mem (by decide) ?_ ..
              assumption
      · exact Mem.Tame.refl _ _
    · exact Mem.Tame.refl _ _

theorem execClipDelete_framed (sq cid : Nat) (s : State) :
    Framed (setOf [.free, .seq, .stats, .commands, .errorLog, .admission, .msix, .intr, .twk, .mags, .sent, .feat 0x1D]) (setOf [.carriers]) s (execClipDelete sq cid s) := by
  unfold execClipDelete
  refine live_framed (by decide) _ ?_ ?_
  · refine runCmd_tame_dev (fun _ => ?_) ?_
    · dsimp only
      refine Mach.tame_ite_dev ?_ ?_
      · refine Mach.refuse_tame_dev (by decide) ?_ ..
        exact Dev.Tame.refl _ _
      · refine Mach.tame_ite_dev ?_ ?_
        · refine Mach.complete_tame_dev (by decide) ?_ ..
          exact Dev.Tame.refl _ _
        · split
          · refine Mach.refuse_tame_dev (by decide) ?_ ..
            exact Dev.Tame.refl _ _
          · refine Mach.tame_ite_dev ?_ ?_
            · refine Mach.complete_tame_dev (by decide) ?_ ..
              exact Dev.Tame.refl _ _
            · refine Mach.tame_ite_dev ?_ ?_
              · refine Mach.deny_tame_dev (by decide) ?_ ..
                exact Dev.Tame.refl _ _
              · refine Mach.tame_ite_dev ?_ ?_
                · refine Mach.complete_tame_dev (by decide) ?_ ..
                  exact Dev.Tame.refl _ _
                · refine Mach.complete_tame_dev (by decide) ?_ ..
                  refine Mach.checkpoint_tame_dev (by decide) ?_ ..
                  refine Mach.dropClip_tame_dev (by decide) ?_ ..
                  exact Dev.Tame.refl _ _
    · exact Dev.Tame.refl _ _
  · refine runCmd_tame_mem (fun _ => ?_) ?_
    · dsimp only
      refine Mach.tame_ite_mem ?_ ?_
      · refine Mach.refuse_tame_mem (by decide) ?_ ..
        exact Mem.Tame.refl _ _
      · refine Mach.tame_ite_mem ?_ ?_
        · refine Mach.complete_tame_mem (by decide) ?_ ..
          exact Mem.Tame.refl _ _
        · split
          · refine Mach.refuse_tame_mem (by decide) ?_ ..
            exact Mem.Tame.refl _ _
          · refine Mach.tame_ite_mem ?_ ?_
            · refine Mach.complete_tame_mem (by decide) ?_ ..
              exact Mem.Tame.refl _ _
            · refine Mach.tame_ite_mem ?_ ?_
              · refine Mach.deny_tame_mem (by decide) ?_ ..
                exact Mem.Tame.refl _ _
              · refine Mach.tame_ite_mem ?_ ?_
                · refine Mach.complete_tame_mem (by decide) ?_ ..
                  exact Mem.Tame.refl _ _
                · refine Mach.complete_tame_mem (by decide) ?_ ..
                  refine Mach.checkpoint_tame_mem (by decide) ?_ ..
                  refine Mach.dropClip_tame_mem (by decide) ?_ ..
                  exact Mem.Tame.refl _ _
    · exact Mem.Tame.refl _ _

theorem execCaptureArm_framed (sq cid : Nat) (s : State) :
    Framed (setOf [.free, .seq, .stats, .commands, .errorLog, .admission, .msix, .intr, .twk, .link, .pools, .caps, .mags, .sent]) (setOf []) s (execCaptureArm sq cid s) := by
  unfold execCaptureArm
  refine live_framed (by decide) _ ?_ ?_
  · refine runCmd_tame_dev (fun _ => ?_) ?_
    · refine onCapture_tame_dev (by decide) (fun _ _ => ?_) ?_
      · dsimp only
        refine Mach.tame_ite_dev ?_ ?_
        · exact Dev.Tame.refl _ _
        · split
          · refine Mach.deny_tame_dev (by decide) ?_ ..
            exact Dev.Tame.refl _ _
          · refine Mach.complete_tame_dev (by decide) ?_ ..
            refine Mach.tame_mk_dev ?_
            refine Dev.sendState_tame (by decide) ?_ ..
            refine Dev.modCap_tame (by decide) ?_ ..
            refine Dev.reservePools_tame (by decide) ?_ ..
            refine Dev.onOpenClip_tame (by decide) ?_ ..
            exact Dev.Tame.refl _ _
      · exact Dev.Tame.refl _ _
    · exact Dev.Tame.refl _ _
  · refine runCmd_tame_mem (fun _ => ?_) ?_
    · refine onCapture_tame_mem (by decide) (fun _ _ => ?_) ?_
      · dsimp only
        refine Mach.tame_ite_mem ?_ ?_
        · exact Mem.Tame.refl _ _
        · split
          · refine Mach.deny_tame_mem (by decide) ?_ ..
            exact Mem.Tame.refl _ _
          · refine Mach.complete_tame_mem (by decide) ?_ ..
            refine Mach.tame_mk_mem ?_
            exact Mem.Tame.refl _ _
      · exact Mem.Tame.refl _ _
    · exact Mem.Tame.refl _ _

theorem execCaptureStartAtTick_framed (sq cid : Nat) (s : State) :
    Framed (setOf [.free, .seq, .stats, .commands, .errorLog, .admission, .msix, .intr, .twk, .link, .caps, .sent]) (setOf []) s (execCaptureStartAtTick sq cid s) := by
  unfold execCaptureStartAtTick
  refine live_framed (by decide) _ ?_ ?_
  · refine runCmd_tame_dev (fun _ => ?_) ?_
    · refine onCapture_tame_dev (by decide) (fun _ _ => ?_) ?_
      · dsimp only
        refine Mach.tame_ite_dev ?_ ?_
        · refine Mach.refuse_tame_dev (by decide) ?_ ..
          exact Dev.Tame.refl _ _
        · refine Mach.tame_ite_dev ?_ ?_
          · refine Mach.deny_tame_dev (by decide) ?_ ..
            exact Dev.Tame.refl _ _
          · refine Mach.tame_ite_dev ?_ ?_
            · refine Mach.complete_tame_dev (by decide) ?_ ..
              exact Dev.Tame.refl _ _
            · refine Mach.tame_ite_dev ?_ ?_
              · refine Mach.tame_mk_dev ?_
                refine Dev.broadcast_tame (by decide) ?_ ..
                refine Dev.onLink_tame (by decide) ?_ ..
                refine Dev.keepRunning_tame (by decide) ?_ ..
                refine Dev.modCap_tame (by decide) ?_ ..
                exact Dev.Tame.refl _ _
              · refine Mach.tame_mk_dev ?_
                refine Dev.keepRunning_tame (by decide) ?_ ..
                refine Dev.modCap_tame (by decide) ?_ ..
                exact Dev.Tame.refl _ _
      · exact Dev.Tame.refl _ _
    · exact Dev.Tame.refl _ _
  · refine runCmd_tame_mem (fun _ => ?_) ?_
    · refine onCapture_tame_mem (by decide) (fun _ _ => ?_) ?_
      · dsimp only
        refine Mach.tame_ite_mem ?_ ?_
        · refine Mach.refuse_tame_mem (by decide) ?_ ..
          exact Mem.Tame.refl _ _
        · refine Mach.tame_ite_mem ?_ ?_
          · refine Mach.deny_tame_mem (by decide) ?_ ..
            exact Mem.Tame.refl _ _
          · refine Mach.tame_ite_mem ?_ ?_
            · refine Mach.complete_tame_mem (by decide) ?_ ..
              exact Mem.Tame.refl _ _
            · refine Mach.tame_ite_mem ?_ ?_
              · refine Mach.tame_mk_mem ?_
                exact Mem.Tame.refl _ _
              · refine Mach.tame_mk_mem ?_
                exact Mem.Tame.refl _ _
      · exact Mem.Tame.refl _ _
    · exact Mem.Tame.refl _ _

theorem execCaptureStopAtTick_framed (sq cid : Nat) (s : State) :
    Framed (setOf [.free, .seq, .stats, .commands, .errorLog, .admission, .msix, .intr, .twk, .link, .pools, .caps, .sent]) (setOf []) s (execCaptureStopAtTick sq cid s) := by
  unfold execCaptureStopAtTick
  refine live_framed (by decide) _ ?_ ?_
  · refine runCmd_tame_dev (fun _ => ?_) ?_
    · refine onCapture_tame_dev (by decide) (fun _ _ => ?_) ?_
      · dsimp only
        refine Mach.tame_ite_dev ?_ ?_
        · refine Mach.refuse_tame_dev (by decide) ?_ ..
          exact Dev.Tame.refl _ _
        · split
          · refine Mach.deny_tame_dev (by decide) ?_ ..
            exact Dev.Tame.refl _ _
          · refine Mach.complete_tame_dev (by decide) ?_ ..
            refine Mach.tame_mk_dev ?_
            refine Dev.disarm_tame (by decide) ?_ ..
            exact Dev.Tame.refl _ _
          · refine Mach.tame_ite_dev ?_ ?_
            · refine Mach.complete_tame_dev (by decide) ?_ ..
              refine Mach.tame_mk_dev ?_
              refine Dev.disarm_tame (by decide) ?_ ..
              refine Dev.complete_tame (by decide) ?_ ..
              exact Dev.Tame.refl _ _
            · refine Mach.tame_mk_dev ?_
              refine Dev.keepRunning_tame (by decide) ?_ ..
              refine Dev.modCap_tame (by decide) ?_ ..
              exact Dev.Tame.refl _ _
          · refine Mach.tame_ite_dev ?_ ?_
            · refine Mach.deny_tame_dev (by decide) ?_ ..
              exact Dev.Tame.refl _ _
            · refine Mach.tame_mk_dev ?_
              refine Dev.keepRunning_tame (by decide) ?_ ..
              refine Dev.modCap_tame (by decide) ?_ ..
              exact Dev.Tame.refl _ _
      · exact Dev.Tame.refl _ _
    · exact Dev.Tame.refl _ _
  · refine runCmd_tame_mem (fun _ => ?_) ?_
    · refine onCapture_tame_mem (by decide) (fun _ _ => ?_) ?_
      · dsimp only
        refine Mach.tame_ite_mem ?_ ?_
        · refine Mach.refuse_tame_mem (by decide) ?_ ..
          exact Mem.Tame.refl _ _
        · split
          · refine Mach.deny_tame_mem (by decide) ?_ ..
            exact Mem.Tame.refl _ _
          · refine Mach.complete_tame_mem (by decide) ?_ ..
            refine Mach.tame_mk_mem ?_
            exact Mem.Tame.refl _ _
          · refine Mach.tame_ite_mem ?_ ?_
            · refine Mach.complete_tame_mem (by decide) ?_ ..
              refine Mach.tame_mk_mem ?_
              exact Mem.Tame.refl _ _
            · refine Mach.tame_mk_mem ?_
              exact Mem.Tame.refl _ _
          · refine Mach.tame_ite_mem ?_ ?_
            · refine Mach.deny_tame_mem (by decide) ?_ ..
              exact Mem.Tame.refl _ _
            · refine Mach.tame_mk_mem ?_
              exact Mem.Tame.refl _ _
      · exact Mem.Tame.refl _ _
    · exact Mem.Tame.refl _ _

theorem execStart_framed (p : Nat) (s : State) :
    Framed (setOf [.free, .stats, .msix, .intr, .twk, .link, .caps, .sent]) (setOf []) s (execStart p s) := by
  unfold execStart
  refine liveDev_framed (by decide) _ ?_
  refine onMsg_tame (by decide) (fun _ _ _ => ?_) ?_
  · refine Dev.tame_ite ?_ ?_
    · assumption
    · dsimp only
      refine Dev.sendMsg_tame (by decide) ?_ ..
      refine Dev.tame_ite ?_ ?_
      · refine Dev.tame_foldl ?_ (fun _ _ _ => ?_)
        · assumption
        · refine Dev.modCap_tame (by decide) ?_ ..
          assumption
      · assumption
  · exact Dev.Tame.refl _ _

theorem execStartAck_framed (p : Nat) (s : State) :
    Framed (setOf [.free, .msix, .intr, .twk, .link, .sent]) (setOf []) s (execStartAck p s) := by
  unfold execStartAck
  refine liveDev_framed (by decide) _ ?_
  refine onMsg_tame (by decide) (fun _ _ _ => ?_) ?_
  · refine Dev.tame_ite ?_ ?_
    · assumption
    · refine Dev.onLink_tame (by decide) ?_ ..
      assumption
  · exact Dev.Tame.refl _ _

theorem execCapacityRecompute_framed (s : State) :
    Framed (setOf [.free, .seq, .commands, .events, .msix, .intr, .twk, .bbx, .caps, .sent]) (setOf []) s (execCapacityRecompute s) := by
  unfold execCapacityRecompute
  refine live_framed (by decide) _ ?_ ?_
  · refine Mach.tame_foldl_dev ?_ (fun _ _ _ => ?_)
    · exact Dev.Tame.refl _ _
    · refine Mach.tame_ite_dev ?_ ?_
      · refine Mach.tame_foldl_dev ?_ (fun _ _ _ => ?_)
        · assumption
        · refine Mach.easeLevel_tame_dev (by decide) ?_ ..
          assumption
      · assumption
  · refine Mach.tame_foldl_mem ?_ (fun _ _ _ => ?_)
    · exact Mem.Tame.refl _ _
    · refine Mach.tame_ite_mem ?_ ?_
      · refine Mach.tame_foldl_mem ?_ (fun _ _ _ => ?_)
        · assumption
        · refine Mach.easeLevel_tame_mem (by decide) ?_ ..
          assumption
      · assumption

end Sys2Proof.Machine
end

