-- ==== Sys2Proof/Laws/ExecCodecCmd.lean ====
section
/-! SUPPORT. What each command of Machine/CodecCmd.lean may change, and where it stops. -/

namespace Sys2Proof.Machine
open Sys2Proof

theorem execAttemptStart_framed (e : Nat) (s : State) :
    Framed (setOf [.free, .seq, .stats, .commands, .events, .msix, .flt, .intr, .twk, .bbx, .link, .dram, .caps, .codec, .seqr, .sent, .feat 0x14, .feat 0x16, .feat 0x1E]) (setOf []) s (execAttemptStart e s) := by
  unfold execAttemptStart
  refine live_framed (by decide) _ ?_ ?_
  · refine Mach.attemptStart_tame_dev (by decide) ?_ ..
    exact Dev.Tame.refl _ _
  · refine Mach.attemptStart_tame_mem (by decide) ?_ ..
    exact Mem.Tame.refl _ _

theorem execAttemptComplete_framed (e dt : Nat) (s : State) :
    Framed (setOf [.clk, .free, .stats, .msix, .intr, .twk, .sid, .caps, .codec, .sent, .feat 0x16]) (setOf []) s (execAttemptComplete e dt s) := by
  unfold execAttemptComplete
  refine liveDev_framed (by decide) _ ?_
  refine Dev.attemptComplete_tame (by decide) ?_ ..
  exact Dev.Tame.refl _ _

theorem execQueueFull_framed (e dt : Nat) (s : State) :
    Framed (setOf [.clk, .free, .stats, .msix, .intr, .twk, .sid, .caps, .codec, .sent, .feat 0x12, .feat 0x16]) (setOf []) s (execQueueFull e dt s) := by
  unfold execQueueFull
  refine liveDev_framed (by decide) _ ?_
  refine Dev.queueFull_tame (by decide) ?_ ..
  exact Dev.Tame.refl _ _

theorem execBqRoomResume_framed (e : Nat) (s : State) :
    Framed (setOf [.free, .msix, .intr, .twk, .codec, .sent]) (setOf []) s (execBqRoomResume e s) := by
  unfold execBqRoomResume
  refine liveDev_framed (by decide) _ ?_
  refine Dev.bqResume_tame (by decide) ?_ ..
  exact Dev.Tame.refl _ _

theorem execMeasureDone_framed (e dt ce : Nat) (s : State) :
    Framed (setOf [.clk, .free, .seq, .stats, .commands, .events, .msix, .flt, .intr, .twk, .bbx, .sid, .link, .caps, .codec, .seqr, .sent, .feat 0x12, .feat 0x13, .feat 0x14, .feat 0x16]) (setOf []) s (execMeasureDone e dt ce s) := by
  unfold execMeasureDone
  refine liveDev_framed (by decide) _ ?_
  refine Dev.measureDone_tame (by decide) ?_ ..
  exact Dev.Tame.refl _ _

theorem execCodePassDone_framed (e dt ce : Nat) (s : State) :
    Framed (setOf [.clk, .free, .seq, .stats, .commands, .events, .msix, .flt, .intr, .twk, .bbx, .sid, .link, .caps, .codec, .sent, .feat 0x12, .feat 0x16]) (setOf []) s (execCodePassDone e dt ce s) := by
  unfold execCodePassDone
  refine liveDev_framed (by decide) _ ?_
  refine Dev.codeDone_tame (by decide) ?_ ..
  exact Dev.Tame.refl _ _

theorem execEclipsePassStart_framed (e : Nat) (s : State) :
    Framed (setOf [.free, .seq, .stats, .commands, .events, .msix, .flt, .intr, .twk, .bbx, .link, .dram, .caps, .codec, .seqr, .sent, .feat 0x14, .feat 0x1E]) (setOf []) s (execEclipsePassStart e s) := by
  unfold execEclipsePassStart
  refine live_framed (by decide) _ ?_ ?_
  · refine Mach.eclipseStart_tame_dev (by decide) ?_ ..
    exact Dev.Tame.refl _ _
  · refine Mach.eclipseStart_tame_mem (by decide) ?_ ..
    exact Mem.Tame.refl _ _

theorem execEclipsePassDone_framed (e dt : Nat) (s : State) :
    Framed (setOf [.clk, .free, .msix, .intr, .twk, .sid, .caps, .codec, .sent, .feat 0x16]) (setOf []) s (execEclipsePassDone e dt s) := by
  unfold execEclipsePassDone
  refine live_framed (by decide) _ ?_ ?_
  · refine Mach.eclipseDone_tame_dev (by decide) ?_ ..
    exact Dev.Tame.refl _ _
  · refine Mach.eclipseDone_tame_mem (by decide) ?_ ..
    exact Mem.Tame.refl _ _

theorem execVerifyDone_framed (e dt segFail : Nat) (flips : List Nat) (ecc : List (Nat × Bool)) (s : State) :
    Framed (setOf [.clk, .free, .seq, .stats, .commands, .events, .logs, .msix, .flt, .intr, .twk, .bbx, .sid, .link, .pools, .dram, .caps, .codec, .seqr, .sent, .feat 0x15, .feat 0x16, .feat 0x1B, .feat 0x1E]) (setOf [.dramMem]) s (execVerifyDone e dt segFail flips ecc s) := by
  unfold execVerifyDone
  refine live_framed (by decide) _ ?_ ?_
  · refine Mach.verifyDone_tame_dev (by decide) ?_ ..
    exact Dev.Tame.refl _ _
  · refine Mach.verifyDone_tame_mem (by decide) ?_ ..
    exact Mem.Tame.refl _ _

theorem execTablesReady_framed (j dt : Nat) (s : State) :
    Framed (setOf [.clk, .free, .msix, .intr, .twk, .sid, .caps, .codec, .seqr, .sent, .feat 0x16]) (setOf []) s (execTablesReady j dt s) := by
  unfold execTablesReady
  refine liveDev_framed (by decide) _ ?_
  refine Dev.tablesReady_tame (by decide) ?_ ..
  exact Dev.Tame.refl _ _

theorem execGuardSwitch_framed (j n t : Nat) (s : State) :
    Framed (setOf [.clk, .free, .msix, .intr, .twk, .sid, .caps, .codec, .sent, .feat 0x16]) (setOf []) s (execGuardSwitch j n t s) := by
  unfold execGuardSwitch
  refine liveDev_framed (by decide) _ ?_
  refine Dev.guardSwitch_tame (by decide) ?_ ..
  exact Dev.Tame.refl _ _

theorem execDeadlineGuard_framed (n : Nat) (s : State) :
    Framed (setOf [.clk, .free, .msix, .intr, .twk, .sid, .caps, .codec, .seqr, .sent, .feat 0x16]) (setOf []) s (execDeadlineGuard n s) := by
  unfold execDeadlineGuard
  refine liveDev_framed (by decide) _ ?_
  refine Dev.tame_onlyIf ?_ ?_
  · exact Dev.Tame.refl _ _
  · refine Dev.deadlineGuard_tame (by decide) ?_ ..
    exact Dev.Tame.refl _ _

theorem execPxeParity_framed (e : Nat) (s : State) :
    Framed (setOf [.free, .seq, .stats, .commands, .events, .msix, .flt, .intr, .twk, .bbx, .link, .caps, .codec, .sent, .feat 0x11]) (setOf []) s (execPxeParity e s) := by
  unfold execPxeParity
  refine liveDev_framed (by decide) _ ?_
  refine Dev.pixFault_tame (by decide) ?_ ..
  exact Dev.Tame.refl _ _

theorem execBqUncorrectable_framed (e ce : Nat) (s : State) :
    Framed (setOf [.free, .seq, .stats, .commands, .events, .msix, .flt, .intr, .twk, .bbx, .link, .caps, .codec, .sent, .feat 0x12, .feat 0x13]) (setOf []) s (execBqUncorrectable e ce s) := by
  unfold execBqUncorrectable
  refine liveDev_framed (by decide) _ ?_
  split
  · refine Dev.tame_ite ?_ ?_
    · refine Dev.bqFault_tame (by decide) ?_ ..
      refine Dev.bqCorrected_tame (by decide) ?_ ..
      exact Dev.Tame.refl _ _
    · exact Dev.Tame.refl _ _
  · exact Dev.Tame.refl _ _

theorem execEntParity_framed (e : Nat) (s : State) :
    Framed (setOf [.free, .seq, .stats, .commands, .events, .msix, .flt, .intr, .twk, .bbx, .link, .caps, .codec, .sent, .feat 0x13]) (setOf []) s (execEntParity e s) := by
  unfold execEntParity
  refine liveDev_framed (by decide) _ ?_
  refine Dev.tame_onlyIf ?_ ?_
  · exact Dev.Tame.refl _ _
  · refine Dev.entFault_tame (by decide) ?_ ..
    exact Dev.Tame.refl _ _

theorem execEclipseFault_framed (e : Nat) (s : State) :
    Framed (setOf [.free, .seq, .stats, .commands, .events, .msix, .flt, .intr, .twk, .bbx, .link, .caps, .codec, .sent, .feat 0x13]) (setOf []) s (execEclipseFault e s) := by
  unfold execEclipseFault
  refine liveDev_framed (by decide) _ ?_
  refine Dev.tame_onlyIf ?_ ?_
  · exact Dev.Tame.refl _ _
  · refine Dev.entFault_tame (by decide) ?_ ..
    exact Dev.Tame.refl _ _

theorem execMirFault_framed (e : Nat) (s : State) :
    Framed (setOf [.free, .seq, .stats, .commands, .events, .msix, .flt, .intr, .twk, .bbx, .link, .caps, .codec, .sent, .feat 0x13]) (setOf []) s (execMirFault e s) := by
  unfold execMirFault
  refine liveDev_framed (by decide) _ ?_
  refine Dev.mirFault_tame (by decide) ?_ ..
  exact Dev.Tame.refl _ _

theorem execEngineStall_framed (unit e : Nat) (s : State) :
    Framed (setOf [.clk, .free, .seq, .stats, .commands, .events, .msix, .flt, .intr, .twk, .bbx, .sid, .link, .caps, .codec, .sent, .feat 0x11, .feat 0x13]) (setOf []) s (execEngineStall unit e s) := by
  unfold execEngineStall
  refine liveDev_framed (by decide) _ ?_
  dsimp only
  refine Dev.tame_ite ?_ ?_
  · exact Dev.Tame.refl _ _
  · split
    · refine Dev.pixFault_tame (by decide) ?_ ..
      refine Dev.advance_tame (by decide) ?_ ..
      exact Dev.Tame.refl _ _
    · refine Dev.entFault_tame (by decide) ?_ ..
      refine Dev.advance_tame (by decide) ?_ ..
      exact Dev.Tame.refl _ _
    · refine Dev.mirFault_tame (by decide) ?_ ..
      refine Dev.advance_tame (by decide) ?_ ..
      exact Dev.Tame.refl _ _

theorem execEngineResetDone_framed (unit e dt : Nat) (s : State) :
    Framed (setOf [.clk, .free, .msix, .intr, .twk, .sid, .caps, .codec, .sent, .feat 0x16]) (setOf []) s (execEngineResetDone unit e dt s) := by
  unfold execEngineResetDone
  refine liveDev_framed (by decide) _ ?_
  refine Dev.engineReset_tame (by decide) ?_ ..
  exact Dev.Tame.refl _ _

end Sys2Proof.Machine
end

