-- ==== Sys2Proof/Laws/ExecContext.lean ====
section
/-! SUPPORT. What each command of Machine/Context.lean may change, and where it stops. -/

namespace Sys2Proof.Machine
open Sys2Proof

theorem execContextCreate_framed (sq cid : Nat) (s : State) :
    Framed (setOf [.free, .seq, .cqs, .commands, .errorLog, .admission, .msix, .intr, .twk, .shapers, .policers, .fab, .ctxs, .caps, .proxy, .sent, .feat 0x15, .feat 0x17, .feat 0x1A, .feat 0x21]) (setOf []) s (execContextCreate sq cid s) := by
  unfold execContextCreate
  refine live_framed (by decide) _ ?_ ?_
  · refine runCmd_tame_dev (fun _ => ?_) ?_
    · dsimp only
      refine Mach.tame_ite_dev ?_ ?_
      · exact Dev.Tame.refl _ _
      · refine Mach.tame_ite_dev ?_ ?_
        · refine Mach.refuse_tame_dev (by decide) ?_ ..
          exact Dev.Tame.refl _ _
        · refine Mach.tame_ite_dev ?_ ?_
          · refine Mach.refuse_tame_dev (by decide) ?_ ..
            exact Dev.Tame.refl _ _
          · refine Mach.tame_ite_dev ?_ ?_
            · refine Mach.refuse_tame_dev (by decide) ?_ ..
              exact Dev.Tame.refl _ _
            · refine Mach.tame_ite_dev ?_ ?_
              · refine Mach.refuse_tame_dev (by decide) ?_ ..
                exact Dev.Tame.refl _ _
              · refine Mach.tame_ite_dev ?_ ?_
                · refine Mach.complete_tame_dev (by decide) ?_ ..
                  exact Dev.Tame.refl _ _
                · refine Mach.tame_ite_dev ?_ ?_
                  · refine Mach.deny_tame_dev (by decide) ?_ ..
                    exact Dev.Tame.refl _ _
                  · split
                    · refine Mach.deny_tame_dev (by decide) ?_ ..
                      exact Dev.Tame.refl _ _
                    · refine Mach.complete_tame_dev (by decide) ?_ ..
                      refine Mach.tame_mk_dev ?_
                      refine Dev.tame_ite ?_ ?_
                      · refine Dev.tame_foldl ?_ (fun _ _ _ => ?_)
                        · refine Dev.createKind_tame (by decide) ?_ ..
                          exact Dev.Tame.refl _ _
                        · refine Dev.tame_ite ?_ ?_
                          · refine Dev.setReg_tame (by decide) ?_
                            assumption
                          · assumption
                      · refine Dev.createKind_tame (by decide) ?_ ..
                        exact Dev.Tame.refl _ _
    · exact Dev.Tame.refl _ _
  · refine runCmd_tame_mem (fun _ => ?_) ?_
    · dsimp only
      refine Mach.tame_ite_mem ?_ ?_
      · exact Mem.Tame.refl _ _
      · refine Mach.tame_ite_mem ?_ ?_
        · refine Mach.refuse_tame_mem (by decide) ?_ ..
          exact Mem.Tame.refl _ _
        · refine Mach.tame_ite_mem ?_ ?_
          · refine Mach.refuse_tame_mem (by decide) ?_ ..
            exact Mem.Tame.refl _ _
          · refine Mach.tame_ite_mem ?_ ?_
            · refine Mach.refuse_tame_mem (by decide) ?_ ..
              exact Mem.Tame.refl _ _
            · refine Mach.tame_ite_mem ?_ ?_
              · refine Mach.refuse_tame_mem (by decide) ?_ ..
                exact Mem.Tame.refl _ _
              · refine Mach.tame_ite_mem ?_ ?_
                · refine Mach.complete_tame_mem (by decide) ?_ ..
                  exact Mem.Tame.refl _ _
                · refine Mach.tame_ite_mem ?_ ?_
                  · refine Mach.deny_tame_mem (by decide) ?_ ..
                    exact Mem.Tame.refl _ _
                  · split
                    · refine Mach.deny_tame_mem (by decide) ?_ ..
                      exact Mem.Tame.refl _ _
                    · refine Mach.complete_tame_mem (by decide) ?_ ..
                      refine Mach.tame_mk_mem ?_
                      exact Mem.Tame.refl _ _
    · exact Mem.Tame.refl _ _

theorem execContextDestroy_framed (sq cid : Nat) (s : State) :
    Framed (setOf [.free, .seq, .cqs, .commands, .errorLog, .admission, .msix, .intr, .twk, .fab, .ctxs, .caps, .codec, .proxy, .sent, .feat 0x1A]) (setOf []) s (execContextDestroy sq cid s) := by
  unfold execContextDestroy
  refine live_framed (by decide) _ ?_ ?_
  · refine runCmd_tame_dev (fun _ => ?_) ?_
    · split
      · refine Mach.refuse_tame_dev (by decide) ?_ ..
        exact Dev.Tame.refl _ _
      · split
        · refine Mach.refuse_tame_dev (by decide) ?_ ..
          exact Dev.Tame.refl _ _
        · refine Mach.refuse_tame_dev (by decide) ?_ ..
          exact Dev.Tame.refl _ _
        · split
          · refine Mach.deny_tame_dev (by decide) ?_ ..
            exact Dev.Tame.refl _ _
          · refine Mach.complete_tame_dev (by decide) ?_ ..
            refine Mach.tame_mk_dev ?_
            refine Dev.freeCtx_tame (by decide) ?_ ..
            refine Dev.dropKind_tame (by decide) ?_ ..
            exact Dev.Tame.refl _ _
    · exact Dev.Tame.refl _ _
  · refine runCmd_tame_mem (fun _ => ?_) ?_
    · split
      · refine Mach.refuse_tame_mem (by decide) ?_ ..
        exact Mem.Tame.refl _ _
      · split
        · refine Mach.refuse_tame_mem (by decide) ?_ ..
          exact Mem.Tame.refl _ _
        · refine Mach.refuse_tame_mem (by decide) ?_ ..
          exact Mem.Tame.refl _ _
        · split
          · refine Mach.deny_tame_mem (by decide) ?_ ..
            exact Mem.Tame.refl _ _
          · refine Mach.complete_tame_mem (by decide) ?_ ..
            refine Mach.tame_mk_mem ?_
            exact Mem.Tame.refl _ _
    · exact Mem.Tame.refl _ _

end Sys2Proof.Machine
end

