-- ==== Sys2Proof/Laws/ExecDma.lean ====
section
/-! SUPPORT. What each command of Machine/Dma.lean may change, and where it stops. -/

namespace Sys2Proof.Machine
open Sys2Proof

theorem execDmaMove_framed (ch : Nat) (ecc : List (Nat × Bool)) (s : State) :
    Framed (setOf [.free, .seq, .stats, .commands, .events, .errorLog, .msix, .flt, .intr, .twk, .bbx, .link, .dram, .dma, .sent, .feat 0x1E, .feat 0x1F]) (setOf [.hostMem, .dramMem]) s (execDmaMove ch ecc s) := by
  unfold execDmaMove
  refine live_framed (by decide) _ ?_ ?_
  · refine dmaStep_tame_dev (fun _ => ?_) ?_
    · refine Mach.dmaMove_tame_dev (by decide) ?_ ..
      exact Dev.Tame.refl _ _
    · exact Dev.Tame.refl _ _
  · refine dmaStep_tame_mem (fun _ => ?_) ?_
    · refine Mach.dmaMove_tame_mem (by decide) ?_ ..
      exact Mem.Tame.refl _ _
    · exact Mem.Tame.refl _ _

theorem execDmaFill_framed (ch : Nat) (s : State) :
    Framed (setOf [.free, .seq, .stats, .commands, .events, .errorLog, .msix, .flt, .intr, .twk, .bbx, .link, .dram, .dma, .sent, .feat 0x1E, .feat 0x1F]) (setOf [.hostMem, .dramMem]) s (execDmaFill ch s) := by
  unfold execDmaFill
  refine live_framed (by decide) _ ?_ ?_
  · refine dmaStep_tame_dev (fun _ => ?_) ?_
    · refine Mach.dmaFill_tame_dev (by decide) ?_ ..
      exact Dev.Tame.refl _ _
    · exact Dev.Tame.refl _ _
  · refine dmaStep_tame_mem (fun _ => ?_) ?_
    · refine Mach.dmaFill_tame_mem (by decide) ?_ ..
      exact Mem.Tame.refl _ _
    · exact Mem.Tame.refl _ _

theorem execDmaCmp_framed (ch : Nat) (ecc : List (Nat × Bool)) (s : State) :
    Framed (setOf [.free, .seq, .stats, .commands, .events, .errorLog, .msix, .flt, .intr, .twk, .bbx, .link, .dram, .dma, .sent, .feat 0x1E, .feat 0x1F]) (setOf [.hostMem, .dramMem]) s (execDmaCmp ch ecc s) := by
  unfold execDmaCmp
  refine live_framed (by decide) _ ?_ ?_
  · refine dmaStep_tame_dev (fun _ => ?_) ?_
    · refine Mach.dmaCmp_tame_dev (by decide) ?_ ..
      exact Dev.Tame.refl _ _
    · exact Dev.Tame.refl _ _
  · refine dmaStep_tame_mem (fun _ => ?_) ?_
    · refine Mach.dmaCmp_tame_mem (by decide) ?_ ..
      exact Mem.Tame.refl _ _
    · exact Mem.Tame.refl _ _

theorem execDmaLoop_framed (ch : Nat) (s : State) :
    Framed (setOf [.free, .seq, .stats, .commands, .events, .errorLog, .msix, .flt, .intr, .twk, .bbx, .link, .dram, .dma, .sent, .feat 0x1E, .feat 0x1F]) (setOf [.hostMem, .dramMem]) s (execDmaLoop ch s) := by
  unfold execDmaLoop
  refine live_framed (by decide) _ ?_ ?_
  · refine dmaStep_tame_dev (fun _ => ?_) ?_
    · refine Mach.dmaLoop_tame_dev (by decide) ?_ ..
      exact Dev.Tame.refl _ _
    · exact Dev.Tame.refl _ _
  · refine dmaStep_tame_mem (fun _ => ?_) ?_
    · refine Mach.dmaLoop_tame_mem (by decide) ?_ ..
      exact Mem.Tame.refl _ _
    · exact Mem.Tame.refl _ _

theorem execDmaWait_framed (ch : Nat) (s : State) :
    Framed (setOf [.free, .seq, .stats, .commands, .events, .errorLog, .msix, .flt, .intr, .twk, .bbx, .link, .dram, .dma, .dmaEvents, .sent, .feat 0x1E, .feat 0x1F]) (setOf [.hostMem, .dramMem]) s (execDmaWait ch s) := by
  unfold execDmaWait
  refine live_framed (by decide) _ ?_ ?_
  · refine dmaStep_tame_dev (fun _ => ?_) ?_
    · refine Mach.dmaWait_tame_dev (by decide) ?_ ..
      exact Dev.Tame.refl _ _
    · exact Dev.Tame.refl _ _
  · refine dmaStep_tame_mem (fun _ => ?_) ?_
    · refine Mach.dmaWait_tame_mem (by decide) ?_ ..
      exact Mem.Tame.refl _ _
    · exact Mem.Tame.refl _ _

theorem execDmaSignal_framed (ch : Nat) (s : State) :
    Framed (setOf [.free, .seq, .stats, .commands, .events, .errorLog, .msix, .flt, .intr, .twk, .bbx, .link, .dram, .dma, .dmaEvents, .sent, .feat 0x1E, .feat 0x1F]) (setOf [.hostMem, .dramMem]) s (execDmaSignal ch s) := by
  unfold execDmaSignal
  refine live_framed (by decide) _ ?_ ?_
  · refine dmaStep_tame_dev (fun _ => ?_) ?_
    · refine Mach.dmaSignal_tame_dev (by decide) ?_ ..
      exact Dev.Tame.refl _ _
    · exact Dev.Tame.refl _ _
  · refine dmaStep_tame_mem (fun _ => ?_) ?_
    · refine Mach.dmaSignal_tame_mem (by decide) ?_ ..
      exact Mem.Tame.refl _ _
    · exact Mem.Tame.refl _ _

theorem execDmaEnd_framed (ch : Nat) (s : State) :
    Framed (setOf [.free, .seq, .stats, .commands, .events, .errorLog, .msix, .flt, .intr, .twk, .bbx, .link, .dram, .dma, .sent, .feat 0x1E, .feat 0x1F]) (setOf [.hostMem, .dramMem]) s (execDmaEnd ch s) := by
  unfold execDmaEnd
  refine live_framed (by decide) _ ?_ ?_
  · refine dmaStep_tame_dev (fun _ => ?_) ?_
    · refine Mach.dmaEnd_tame_dev (by decide) ?_ ..
      exact Dev.Tame.refl _ _
    · exact Dev.Tame.refl _ _
  · refine dmaStep_tame_mem (fun _ => ?_) ?_
    · refine Mach.dmaEnd_tame_mem (by decide) ?_ ..
      exact Mem.Tame.refl _ _
    · exact Mem.Tame.refl _ _

theorem execDmaEventRelease_framed (v : Nat) (s : State) :
    Framed (setOf [.free, .seq, .stats, .commands, .events, .errorLog, .msix, .flt, .intr, .twk, .bbx, .link, .dram, .dma, .sent, .feat 0x1E, .feat 0x1F]) (setOf [.hostMem, .dramMem]) s (execDmaEventRelease v s) := by
  unfold execDmaEventRelease
  refine live_framed (by decide) _ ?_ ?_
  · refine Mach.tame_foldl_dev ?_ (fun _ _ _ => ?_)
    · exact Dev.Tame.refl _ _
    · dsimp only
      refine Mach.tame_ite_dev ?_ ?_
      · refine Mach.dmaGo_tame_dev (by decide) ?_ ..
        assumption
      · assumption
  · refine Mach.tame_foldl_mem ?_ (fun _ _ _ => ?_)
    · exact Mem.Tame.refl _ _
    · dsimp only
      refine Mach.tame_ite_mem ?_ ?_
      · refine Mach.dmaGo_tame_mem (by decide) ?_ ..
        assumption
      · assumption

theorem execWaitTimeout_framed (ch : Nat) (s : State) :
    Framed (setOf [.clk, .free, .seq, .stats, .commands, .events, .errorLog, .msix, .flt, .intr, .twk, .bbx, .sid, .link, .dram, .dma, .sent, .feat 0x1E, .feat 0x1F]) (setOf [.hostMem, .dramMem]) s (execWaitTimeout ch s) := by
  unfold execWaitTimeout
  refine live_framed (by decide) _ ?_ ?_
  · split
    · refine Mach.tame_ite_dev ?_ ?_
      · refine Mach.dmaEnd_tame_dev (by decide) ?_ ..
        refine Mach.tame_mk_dev ?_
        refine Dev.advanceTo_tame (by decide) ?_ ..
        exact Dev.Tame.refl _ _
      · exact Dev.Tame.refl _ _
    · exact Dev.Tame.refl _ _
  · split
    · refine Mach.tame_ite_mem ?_ ?_
      · refine Mach.dmaEnd_tame_mem (by decide) ?_ ..
        refine Mach.tame_mk_mem ?_
        exact Mem.Tame.refl _ _
      · exact Mem.Tame.refl _ _
    · exact Mem.Tame.refl _ _

theorem execDmaArm_framed (ch : Nat) (v : Bool) (s : State) :
    Framed (setOf [.free, .seq, .stats, .commands, .events, .errorLog, .msix, .flt, .intr, .twk, .bbx, .link, .dram, .dma, .sent, .feat 0x1E, .feat 0x1F]) (setOf [.hostMem, .dramMem]) s (execDmaArm ch v s) := by
  unfold execDmaArm
  refine live_framed (by decide) _ ?_ ?_
  · refine Mach.tame_onlyIf_dev ?_ ?_
    · exact Dev.Tame.refl _ _
    · refine Mach.dmaArm_tame_dev (by decide) ?_ ..
      exact Dev.Tame.refl _ _
  · refine Mach.tame_onlyIf_mem ?_ ?_
    · exact Mem.Tame.refl _ _
    · refine Mach.dmaArm_tame_mem (by decide) ?_ ..
      exact Mem.Tame.refl _ _

theorem execDmaEventSet_framed (mask : Nat) (s : State) :
    Framed (setOf [.free, .msix, .intr, .twk, .dma, .dmaEvents, .sent]) (setOf []) s (execDmaEventSet mask s) := by
  unfold execDmaEventSet
  refine liveDev_framed (by decide) _ ?_
  refine Dev.tame_foldl ?_ (fun _ _ _ => ?_)
  · exact Dev.Tame.refl _ _
  · refine Dev.tame_ite ?_ ?_
    · refine Dev.setEvent_tame (by decide) ?_ ..
      assumption
    · assumption

theorem execDmaRun_framed (sq cid : Nat) (s : State) :
    Framed (setOf [.free, .seq, .stats, .commands, .events, .errorLog, .msix, .flt, .intr, .twk, .bbx, .link, .dram, .dma, .sent, .feat 0x1E, .feat 0x1F]) (setOf [.hostMem, .dramMem]) s (execDmaRun sq cid s) := by
  unfold execDmaRun
  refine live_framed (by decide) _ ?_ ?_
  · refine runCmd_tame_dev (fun _ => ?_) ?_
    · dsimp only
      refine Mach.tame_ite_dev ?_ ?_
      · refine Mach.refuse_tame_dev (by decide) ?_ ..
        exact Dev.Tame.refl _ _
      · refine Mach.tame_ite_dev ?_ ?_
        · refine Mach.refuse_tame_dev (by decide) ?_ ..
          exact Dev.Tame.refl _ _
        · refine Mach.tame_ite_dev ?_ ?_
          · refine Mach.refuse_tame_dev (by decide) ?_ ..
            exact Dev.Tame.refl _ _
          · refine Mach.tame_ite_dev ?_ ?_
            · split
              · refine Mach.dev_of_snd (by assumption) ?_
                refine Mach.dmaBegin_tame_dev (by decide) ?_ ..
                refine Mach.tame_mk_dev ?_
                refine Dev.keepRunning_tame (by decide) ?_ ..
                exact Dev.Tame.refl _ _
              · refine Mach.dmaEnd_tame_dev (by decide) ?_ ..
                refine Mach.dev_of_snd (by assumption) ?_
                refine Mach.dmaBegin_tame_dev (by decide) ?_ ..
                refine Mach.tame_mk_dev ?_
                refine Dev.keepRunning_tame (by decide) ?_ ..
                exact Dev.Tame.refl _ _
            · refine Mach.tame_ite_dev ?_ ?_
              · refine Mach.refuse_tame_dev (by decide) ?_ ..
                exact Dev.Tame.refl _ _
              · refine Mach.tame_mk_dev ?_
                refine Dev.onDma_tame (by decide) ?_ ..
                refine Dev.setReg_tame (by decide) ?_
                refine Dev.setReg64_tame (by decide) ?_
                refine Dev.keepRunning_tame (by decide) ?_ ..
                exact Dev.Tame.refl _ _
    · exact Dev.Tame.refl _ _
  · refine runCmd_tame_mem (fun _ => ?_) ?_
    · dsimp only
      refine Mach.tame_ite_mem ?_ ?_
      · refine Mach.refuse_tame_mem (by decide) ?_ ..
        exact Mem.Tame.refl _ _
      · refine Mach.tame_ite_mem ?_ ?_
        · refine Mach.refuse_tame_mem (by decide) ?_ ..
          exact Mem.Tame.refl _ _
        · refine Mach.tame_ite_mem ?_ ?_
          · refine Mach.refuse_tame_mem (by decide) ?_ ..
            exact Mem.Tame.refl _ _
          · refine Mach.tame_ite_mem ?_ ?_
            · split
              · refine Mach.mem_of_snd (by assumption) ?_
                refine Mach.dmaBegin_tame_mem (by decide) ?_ ..
                refine Mach.tame_mk_mem ?_
                exact Mem.Tame.refl _ _
              · refine Mach.dmaEnd_tame_mem (by decide) ?_ ..
                refine Mach.mem_of_snd (by assumption) ?_
                refine Mach.dmaBegin_tame_mem (by decide) ?_ ..
                refine Mach.tame_mk_mem ?_
                exact Mem.Tame.refl _ _
            · refine Mach.tame_ite_mem ?_ ?_
              · refine Mach.refuse_tame_mem (by decide) ?_ ..
                exact Mem.Tame.refl _ _
              · refine Mach.tame_mk_mem ?_
                exact Mem.Tame.refl _ _
    · exact Mem.Tame.refl _ _

end Sys2Proof.Machine
end

