-- ==== Sys2Proof/Laws/ExecEth.lean ====
section
/-! SUPPORT. What each command of Machine/Eth.lean may change, and where it stops. -/

namespace Sys2Proof.Machine
open Sys2Proof

theorem execPortDown_framed (e : Nat) (localFault remoteFault blockLock : Bool) (s : State) :
    Framed (setOf [.free, .seq, .stats, .commands, .events, .msix, .flt, .intr, .twk, .bbx, .eth, .link, .sent, .feat 0x21]) (setOf []) s (execPortDown e localFault remoteFault blockLock s) := by
  unfold execPortDown
  refine liveDev_framed (by decide) _ ?_
  refine Dev.tame_onlyIf ?_ ?_
  · exact Dev.Tame.refl _ _
  · dsimp only
    refine Dev.tame_ite ?_ ?_
    · refine Dev.ethExpire_tame (by decide) ?_ ..
      refine Dev.raise_tame (by decide) ?_ ..
      refine Dev.onEth_tame (by decide) ?_ ..
      exact Dev.Tame.refl _ _
    · refine Dev.raise_tame (by decide) ?_ ..
      refine Dev.onEth_tame (by decide) ?_ ..
      exact Dev.Tame.refl _ _

theorem execPortUp_framed (e : Nat) (s : State) :
    Framed (setOf [.free, .seq, .stats, .commands, .events, .msix, .flt, .intr, .twk, .bbx, .eth, .shapers, .policers, .link, .sent, .feat 0x21]) (setOf []) s (execPortUp e s) := by
  unfold execPortUp
  refine liveDev_framed (by decide) _ ?_
  refine Dev.tame_onlyIf ?_ ?_
  · exact Dev.Tame.refl _ _
  · dsimp only
    refine Dev.tame_ite ?_ ?_
    · refine Dev.dropLate_tame (by decide) ?_ ..
      refine Dev.bump_tame (by decide) ?_
      refine Dev.tame_foldl ?_ (fun _ _ _ => ?_)
      · refine Dev.onEth_tame (by decide) ?_ ..
        refine Dev.tame_ite ?_ ?_
        · refine Dev.ethExpire_tame (by decide) ?_ ..
          exact Dev.Tame.refl _ _
        · exact Dev.Tame.refl _ _
      · refine Dev.resetShaper_tame (by decide) ?_ ..
        assumption
    · refine Dev.postEvent_tame (by decide) ?_ ..
      refine Dev.tame_foldl ?_ (fun _ _ _ => ?_)
      · refine Dev.onEth_tame (by decide) ?_ ..
        refine Dev.tame_ite ?_ ?_
        · refine Dev.ethExpire_tame (by decide) ?_ ..
          exact Dev.Tame.refl _ _
        · exact Dev.Tame.refl _ _
      · refine Dev.resetShaper_tame (by decide) ?_ ..
        assumption

theorem execEthHoldExpiry_framed (e : Nat) (s : State) :
    Framed (setOf [.clk, .free, .seq, .stats, .commands, .events, .msix, .flt, .intr, .twk, .bbx, .sid, .eth, .link, .sent, .feat 0x21]) (setOf []) s (execEthHoldExpiry e s) := by
  unfold execEthHoldExpiry
  refine liveDev_framed (by decide) _ ?_
  refine Dev.tame_onlyIf ?_ ?_
  · exact Dev.Tame.refl _ _
  · refine Dev.ethExpire_tame (by decide) ?_ ..
    refine Dev.advanceTo_tame (by decide) ?_ ..
    exact Dev.Tame.refl _ _

theorem execShaperRefill_framed (s : State) :
    Framed (setOf [.clk, .free, .msix, .intr, .twk, .sid, .refillAt, .shapers, .policers, .sent]) (setOf []) s (execShaperRefill s) := by
  unfold execShaperRefill
  refine liveDev_framed (by decide) _ ?_
  dsimp only
  refine Dev.tame_foldl ?_ (fun _ _ _ => ?_)
  · refine Dev.tame_foldl ?_ (fun _ _ _ => ?_)
    · refine Dev.tame_refillAt (by decide) ?_
      refine Dev.advanceTo_tame (by decide) ?_ ..
      exact Dev.Tame.refl _ _
    · refine Dev.refill_tame (by decide) ?_ ..
      assumption
  · refine Dev.refill_tame (by decide) ?_ ..
    assumption

theorem execShaperReset_framed (i : Nat) (s : State) :
    Framed (setOf [.free, .msix, .intr, .twk, .shapers, .policers, .sent]) (setOf []) s (execShaperReset i s) := by
  unfold execShaperReset
  refine liveDev_framed (by decide) _ ?_
  refine Dev.tame_onlyIf ?_ ?_
  · exact Dev.Tame.refl _ _
  · refine Dev.resetShaper_tame (by decide) ?_ ..
    exact Dev.Tame.refl _ _

theorem execGateIntervalEnd_framed (e : Nat) (s : State) :
    Framed (setOf [.clk, .free, .msix, .intr, .twk, .sid, .sent]) (setOf []) s (execGateIntervalEnd e s) := by
  unfold execGateIntervalEnd
  refine liveDev_framed (by decide) _ ?_
  refine Dev.tame_onlyIf ?_ ?_
  · exact Dev.Tame.refl _ _
  · dsimp only
    refine Dev.advanceToSid_tame (by decide) ?_ ..
    exact Dev.Tame.refl _ _

theorem execEthGclCommit_framed (e : Nat) (s : State) :
    Framed (setOf [.free, .msix, .intr, .twk, .eth, .sent]) (setOf []) s (execEthGclCommit e s) := by
  unfold execEthGclCommit
  refine liveDev_framed (by decide) _ ?_
  refine Dev.tame_onlyIf ?_ ?_
  · exact Dev.Tame.refl _ _
  · refine Dev.gclCommit_tame (by decide) ?_ ..
    exact Dev.Tame.refl _ _

theorem execGclActivate_framed (e : Nat) (s : State) :
    Framed (setOf [.clk, .free, .msix, .intr, .twk, .sid, .eth, .sent, .feat 0x21]) (setOf []) s (execGclActivate e s) := by
  unfold execGclActivate
  refine liveDev_framed (by decide) _ ?_
  split
  · exact Dev.Tame.refl _ _
  · dsimp only
    refine Dev.tame_foldl ?_ (fun _ _ _ => ?_)
    · refine Dev.onEth_tame (by decide) ?_ ..
      refine Dev.advanceToSid_tame (by decide) ?_ ..
      exact Dev.Tame.refl _ _
    · refine Dev.setReg_tame (by decide) ?_
      assumption

theorem execEthFrameTx_framed (e : Nat) (s : State) :
    Framed (setOf [.clk, .free, .stats, .msix, .intr, .twk, .sid, .eth, .shapers, .policers, .link, .ctxs, .sent]) (setOf []) s (execEthFrameTx e s) := by
  unfold execEthFrameTx
  refine liveDev_framed (by decide) _ ?_
  refine Dev.tame_onlyIf ?_ ?_
  · exact Dev.Tame.refl _ _
  · refine Dev.ethTransmit_tame (by decide) ?_ ..
    exact Dev.Tame.refl _ _

theorem execEthFrameRx_framed (e : Nat) (fcsOk : Bool) (frame : List Byte) (s : State) :
    Framed (setOf [.free, .cqs, .msix, .intr, .twk, .shapers, .policers, .sent, .feat 0x21]) (setOf [.hostMem]) s (execEthFrameRx e fcsOk frame s) := by
  unfold execEthFrameRx
  refine live_framed (by decide) _ ?_ ?_
  · refine Mach.tame_onlyIf_dev ?_ ?_
    · exact Dev.Tame.refl _ _
    · dsimp only
      refine Mach.tame_ite_dev ?_ ?_
      · refine Mach.tame_mk_dev ?_
        refine Dev.bump_tame (by decide) ?_
        exact Dev.Tame.refl _ _
      · refine Mach.tame_ite_dev ?_ ?_
        · refine Mach.tame_mk_dev ?_
          refine Dev.bump_tame (by decide) ?_
          exact Dev.Tame.refl _ _
        · refine Mach.tame_ite_dev ?_ ?_
          · exact Dev.Tame.refl _ _
          · split
            · refine Mach.tame_ite_dev ?_ ?_
              · refine Mach.ringDeliver_tame_dev (by decide) ?_ ..
                exact Dev.Tame.refl _ _
              · refine Mach.tame_ite_dev ?_ ?_
                · refine Mach.ringDeliver_tame_dev (by decide) ?_ ..
                  refine Mach.tame_mk_dev ?_
                  refine Dev.setBucket_tame (by decide) ?_ ..
                  exact Dev.Tame.refl _ _
                · refine Mach.tame_mk_dev ?_
                  refine Dev.bump_tame (by decide) ?_
                  exact Dev.Tame.refl _ _
            · refine Mach.tame_ite_dev ?_ ?_
              · refine Mach.tame_mk_dev ?_
                refine Dev.bump_tame (by decide) ?_
                exact Dev.Tame.refl _ _
              · refine Mach.ringDeliver_tame_dev (by decide) ?_ ..
                exact Dev.Tame.refl _ _
  · refine Mach.tame_onlyIf_mem ?_ ?_
    · exact Mem.Tame.refl _ _
    · dsimp only
      refine Mach.tame_ite_mem ?_ ?_
      · refine Mach.tame_mk_mem ?_
        exact Mem.Tame.refl _ _
      · refine Mach.tame_ite_mem ?_ ?_
        · refine Mach.tame_mk_mem ?_
          exact Mem.Tame.refl _ _
        · refine Mach.tame_ite_mem ?_ ?_
          · exact Mem.Tame.refl _ _
          · split
            · refine Mach.tame_ite_mem ?_ ?_
              · refine Mach.ringDeliver_tame_mem (by decide) ?_ ..
                exact Mem.Tame.refl _ _
              · refine Mach.tame_ite_mem ?_ ?_
                · refine Mach.ringDeliver_tame_mem (by decide) ?_ ..
                  refine Mach.tame_mk_mem ?_
                  exact Mem.Tame.refl _ _
                · refine Mach.tame_mk_mem ?_
                  exact Mem.Tame.refl _ _
            · refine Mach.tame_ite_mem ?_ ?_
              · refine Mach.tame_mk_mem ?_
                exact Mem.Tame.refl _ _
              · refine Mach.ringDeliver_tame_mem (by decide) ?_ ..
                exact Mem.Tame.refl _ _

end Sys2Proof.Machine
end

