-- ==== Sys2Proof/Laws/ExecFabric.lean ====
section
/-! SUPPORT. What each command of Machine/Fabric.lean may change, and where it stops. -/

namespace Sys2Proof.Machine
open Sys2Proof

theorem execCellTransfer_framed (input output cls owner addr : Nat) (write : Bool) (bytes : List Byte) (ecc : Nat) (s : State) :
    Framed (setOf [.free, .seq, .stats, .commands, .events, .msix, .flt, .intr, .twk, .bbx, .link, .fab, .pools, .dram, .wports, .caps, .prism, .sent, .feat 0x1A, .feat 0x1B, .feat 0x1E]) (setOf [.dramMem]) s (execCellTransfer input output cls owner addr write bytes ecc s) := by
  unfold execCellTransfer
  refine live_framed (by decide) _ ?_ ?_
  · refine Mach.tame_ite_dev ?_ ?_
    · split
      · refine Mach.cellTo_tame_dev (by decide) ?_ ..
        refine Mach.tame_mk_dev ?_
        refine Dev.fifoTook_tame (by decide) ?_ ..
        exact Dev.Tame.refl _ _
      · refine Mach.tame_mk_dev ?_
        refine Dev.stuckSegment_tame (by decide) ?_ ..
        exact Dev.Tame.refl _ _
    · dsimp only
      refine Mach.tame_ite_dev ?_ ?_
      · refine Mach.cellTo_tame_dev (by decide) ?_ ..
        exact Dev.Tame.refl _ _
      · exact Dev.Tame.refl _ _
  · refine Mach.tame_ite_mem ?_ ?_
    · split
      · refine Mach.cellTo_tame_mem (by decide) ?_ ..
        refine Mach.tame_mk_mem ?_
        exact Mem.Tame.refl _ _
      · refine Mach.tame_mk_mem ?_
        exact Mem.Tame.refl _ _
    · dsimp only
      refine Mach.tame_ite_mem ?_ ?_
      · refine Mach.cellTo_tame_mem (by decide) ?_ ..
        exact Mem.Tame.refl _ _
      · exact Mem.Tame.refl _ _

theorem execReseqGap_framed (input output cls : Nat) (s : State) :
    Framed (setOf [.clk, .free, .seq, .stats, .commands, .events, .msix, .flt, .intr, .twk, .bbx, .sid, .link, .fab, .pools, .dram, .caps, .sent, .feat 0x1A, .feat 0x1B, .feat 0x1E]) (setOf [.dramMem]) s (execReseqGap input output cls s) := by
  unfold execReseqGap
  refine live_framed (by decide) _ ?_ ?_
  · dsimp only
    split
    · exact Dev.Tame.refl _ _
    · refine Mach.cell_tame_dev (by decide) ?_ ..
      refine Mach.reseq_tame_dev (by decide) ?_ ..
      refine Mach.tame_mk_dev ?_
      refine Dev.raise_tame (by decide) ?_ ..
      refine Dev.bump_tame (by decide) ?_
      refine Dev.onFab_tame (by decide) ?_ ..
      refine Dev.advance_tame (by decide) ?_ ..
      exact Dev.Tame.refl _ _
  · dsimp only
    split
    · exact Mem.Tame.refl _ _
    · refine Mach.cell_tame_mem (by decide) ?_ ..
      refine Mach.reseq_tame_mem (by decide) ?_ ..
      refine Mach.tame_mk_mem ?_
      exact Mem.Tame.refl _ _

theorem execEgressGrant_framed (egr : Nat) (s : State) :
    Framed (setOf [.free, .stats, .cqs, .msix, .intr, .twk, .eth, .link, .fab, .pools, .sent, .feat 0x1A, .feat 0x21]) (setOf [.hostMem]) s (execEgressGrant egr s) := by
  unfold execEgressGrant
  refine live_framed (by decide) _ ?_ ?_
  · refine Mach.tame_ite_dev ?_ ?_
    · refine Mach.tame_mk_dev ?_
      refine Dev.ethGrant_tame (by decide) ?_ ..
      refine Dev.mirrorToEth_tame (by decide) ?_ ..
      exact Dev.Tame.refl _ _
    · refine Mach.tame_ite_dev ?_ ?_
      · refine Mach.tame_mk_dev ?_
        refine Dev.linkGrant_tame (by decide) ?_ ..
        exact Dev.Tame.refl _ _
      · refine Mach.tame_ite_dev ?_ ?_
        · refine Mach.pcieGrant_tame_dev (by decide) ?_ ..
          exact Dev.Tame.refl _ _
        · exact Dev.Tame.refl _ _
  · refine Mach.tame_ite_mem ?_ ?_
    · refine Mach.tame_mk_mem ?_
      exact Mem.Tame.refl _ _
    · refine Mach.tame_ite_mem ?_ ?_
      · refine Mach.tame_mk_mem ?_
        exact Mem.Tame.refl _ _
      · refine Mach.tame_ite_mem ?_ ?_
        · refine Mach.pcieGrant_tame_mem (by decide) ?_ ..
          exact Mem.Tame.refl _ _
        · exact Mem.Tame.refl _ _

end Sys2Proof.Machine
end

