-- ==== Sys2Proof/Laws/ExecFaults.lean ====
section
/-! SUPPORT. What each command of Machine/Faults.lean may change, and where it stops. -/

namespace Sys2Proof.Machine
open Sys2Proof

theorem execPcieAerError_framed (uncorrectable : Bool) (status : Nat) (s : State) :
    Framed (setOf [.free, .seq, .stats, .commands, .events, .msix, .flt, .intr, .twk, .bbx, .link, .sent]) (setOf []) s (execPcieAerError uncorrectable status s) := by
  unfold execPcieAerError
  refine liveDev_framed (by decide) _ ?_
  refine Dev.raise_tame (by decide) ?_ ..
  exact Dev.Tame.refl _ _

theorem execControlSramError_framed (uncorrectable : Bool) (addr : Nat) (s : State) :
    Framed (setOf [.free, .seq, .stats, .commands, .events, .msix, .flt, .intr, .twk, .bbx, .link, .sent]) (setOf []) s (execControlSramError uncorrectable addr s) := by
  unfold execControlSramError
  refine liveDev_framed (by decide) _ ?_
  refine Dev.raise_tame (by decide) ?_ ..
  exact Dev.Tame.refl _ _

theorem execTempSample_framed (celsius : Int) (s : State) :
    Framed (setOf [.free, .seq, .stats, .commands, .events, .msix, .flt, .intr, .twk, .bbx, .link, .sent]) (setOf []) s (execTempSample celsius s) := by
  unfold execTempSample
  refine liveDev_framed (by decide) _ ?_
  dsimp only
  refine Dev.tame_ite ?_ ?_
  · refine Dev.tame_ite ?_ ?_
    · refine Dev.onFlt_tame (by decide) ?_ ..
      exact Dev.Tame.refl _ _
    · exact Dev.Tame.refl _ _
  · refine Dev.tame_ite ?_ ?_
    · refine Dev.raise_tame (by decide) ?_ ..
      refine Dev.onFlt_tame (by decide) ?_ ..
      exact Dev.Tame.refl _ _
    · exact Dev.Tame.refl _ _

theorem execWdogService_framed (i : Nat) (s : State) :
    Framed (setOf [.free, .msix, .intr, .twk, .sent]) (setOf []) s (execWdogService i s) := by
  unfold execWdogService
  refine liveDev_framed (by decide) _ ?_
  refine Dev.tame_onlyIf ?_ ?_
  · exact Dev.Tame.refl _ _
  · refine Dev.onCore_tame (by decide) ?_ ..
    exact Dev.Tame.refl _ _

theorem execWdogWarning_framed (i : Nat) (s : State) :
    Framed (setOf [.clk, .free, .msix, .intr, .twk, .sid, .sent]) (setOf []) s (execWdogWarning i s) := by
  unfold execWdogWarning
  refine liveDev_framed (by decide) _ ?_
  split
  · exact Dev.Tame.refl _ _
  · refine Dev.tame_ite ?_ ?_
    · exact Dev.Tame.refl _ _
    · refine Dev.onCore_tame (by decide) ?_ ..
      refine Dev.advanceTo_tame (by decide) ?_ ..
      exact Dev.Tame.refl _ _

theorem execWdogExpiry_framed (i : Nat) (s : State) :
    Framed (setOf [.clk, .free, .seq, .stats, .commands, .events, .msix, .flt, .intr, .twk, .bbx, .sid, .link, .sent]) (setOf []) s (execWdogExpiry i s) := by
  unfold execWdogExpiry
  refine liveDev_framed (by decide) _ ?_
  split
  · exact Dev.Tame.refl _ _
  · refine Dev.tame_ite ?_ ?_
    · exact Dev.Tame.refl _ _
    · dsimp only
      refine Dev.stopTwinkle_tame (by decide) ?_ ..
      refine Dev.raise_tame (by decide) ?_ ..
      refine Dev.onCore_tame (by decide) ?_ ..
      refine Dev.advanceTo_tame (by decide) ?_ ..
      exact Dev.Tame.refl _ _

theorem execTwinkleToggle_framed (s : State) :
    Framed (setOf [.clk, .free, .msix, .intr, .twk, .sid, .sent]) (setOf []) s (execTwinkleToggle s) := by
  unfold execTwinkleToggle
  refine liveDev_framed (by decide) _ ?_
  dsimp only
  refine Dev.tame_onlyIf ?_ ?_
  · exact Dev.Tame.refl _ _
  · refine Dev.onTwk_tame (by decide) ?_ ..
    refine Dev.advanceTo_tame (by decide) ?_ ..
    exact Dev.Tame.refl _ _

theorem execTwinkleResume_framed (s : State) :
    Framed (setOf [.clk, .free, .msix, .intr, .twk, .sid, .sent]) (setOf []) s (execTwinkleResume s) := by
  unfold execTwinkleResume
  refine liveDev_framed (by decide) _ ?_
  split
  · exact Dev.Tame.refl _ _
  · refine Dev.tame_ite ?_ ?_
    · exact Dev.Tame.refl _ _
    · refine Dev.onTwk_tame (by decide) ?_ ..
      refine Dev.advanceTo_tame (by decide) ?_ ..
      exact Dev.Tame.refl _ _

theorem execIntSourceFire_framed (id : Nat) (line : Bool) (s : State) :
    Framed (setOf [.free, .msix, .intr, .twk, .sent]) (setOf []) s (execIntSourceFire id line s) := by
  unfold execIntSourceFire
  refine liveDev_framed (by decide) _ ?_
  refine Dev.tame_onlyIf ?_ ?_
  · exact Dev.Tame.refl _ _
  · refine Dev.tame_ite ?_ ?_
    · refine Dev.fireInt_tame (by decide) ?_ ..
      exact Dev.Tame.refl _ _
    · refine Dev.tame_ite ?_ ?_
      · refine Dev.onIntr_tame (by decide) ?_ ..
        exact Dev.Tame.refl _ _
      · dsimp only
        refine Dev.tame_ite ?_ ?_
        · refine Dev.fireInt_tame (by decide) ?_ ..
          refine Dev.onIntr_tame (by decide) ?_ ..
          exact Dev.Tame.refl _ _
        · refine Dev.onIntr_tame (by decide) ?_ ..
          exact Dev.Tame.refl _ _

theorem execIntClaim_framed (core : Nat) (s : State) :
    Framed (setOf [.free, .msix, .intr, .twk, .sent]) (setOf []) s (execIntClaim core s) := by
  unfold execIntClaim
  refine liveDev_framed (by decide) _ ?_
  refine Dev.tame_onlyIf ?_ ?_
  · exact Dev.Tame.refl _ _
  · dsimp only
    refine Dev.emit_tame (by decide) ?_ ..
    refine Dev.tame_intr (by decide) ?_
    exact Dev.Tame.refl _ _

theorem execIntComplete_framed (core id : Nat) (nothing : Bool) (s : State) :
    Framed (setOf [.free, .msix, .intr, .twk, .sent]) (setOf []) s (execIntComplete core id nothing s) := by
  unfold execIntComplete
  refine liveDev_framed (by decide) _ ?_
  refine Dev.tame_onlyIf ?_ ?_
  · exact Dev.Tame.refl _ _
  · refine Dev.onIntr_tame (by decide) ?_ ..
    exact Dev.Tame.refl _ _

theorem execIntSrcSetting_framed (id v : Nat) (s : State) :
    Framed (setOf [.free, .msix, .intr, .twk, .sent]) (setOf []) s (execIntSrcSetting id v s) := by
  unfold execIntSrcSetting
  refine liveDev_framed (by decide) _ ?_
  refine Dev.tame_onlyIf ?_ ?_
  · exact Dev.Tame.refl _ _
  · refine Dev.onIntr_tame (by decide) ?_ ..
    exact Dev.Tame.refl _ _

theorem execCoreSleep_framed (i : Nat) (s : State) :
    Framed (setOf [.free, .msix, .intr, .twk, .sent]) (setOf []) s (execCoreSleep i s) := by
  unfold execCoreSleep
  refine liveDev_framed (by decide) _ ?_
  refine Dev.tame_onlyIf ?_ ?_
  · exact Dev.Tame.refl _ _
  · refine Dev.onIntr_tame (by decide) ?_ ..
    refine Dev.onCore_tame (by decide) ?_ ..
    exact Dev.Tame.refl _ _

theorem execBbxEntryWrite_framed (s : State) :
    Framed (setOf [.clk, .free, .seq, .msix, .intr, .twk, .bbx, .sid, .sent]) (setOf [.mram]) s (execBbxEntryWrite s) := by
  unfold execBbxEntryWrite
  refine live_framed (by decide) _ ?_ ?_
  · split
    · exact Dev.Tame.refl _ _
    · dsimp only
      refine Mach.tame_ite_dev ?_ ?_
      · refine Mach.bbxWrite_tame_dev (by decide) ?_ ..
        refine Mach.tame_mk_dev ?_
        refine Dev.onBbx_tame (by decide) ?_ ..
        refine Dev.advanceTo_tame (by decide) ?_ ..
        exact Dev.Tame.refl _ _
      · refine Mach.tame_mk_dev ?_
        refine Dev.record_tame (by decide) ?_ ..
        refine Dev.onBbx_tame (by decide) ?_ ..
        refine Mach.bbxWrite_tame_dev (by decide) ?_ ..
        refine Mach.tame_mk_dev ?_
        refine Dev.onBbx_tame (by decide) ?_ ..
        refine Dev.advanceTo_tame (by decide) ?_ ..
        exact Dev.Tame.refl _ _
  · split
    · exact Mem.Tame.refl _ _
    · dsimp only
      refine Mach.tame_ite_mem ?_ ?_
      · refine Mach.bbxWrite_tame_mem (by decide) ?_ ..
        refine Mach.tame_mk_mem ?_
        exact Mem.Tame.refl _ _
      · refine Mach.tame_mk_mem ?_
        refine Mach.bbxWrite_tame_mem (by decide) ?_ ..
        refine Mach.tame_mk_mem ?_
        exact Mem.Tame.refl _ _

theorem execFaultClear_framed (sq cid : Nat) (s : State) :
    Framed (setOf [.free, .seq, .commands, .errorLog, .msix, .flt, .intr, .twk, .sent]) (setOf []) s (execFaultClear sq cid s) := by
  unfold execFaultClear
  refine live_framed (by decide) _ ?_ ?_
  · refine runCmd_tame_dev (fun _ => ?_) ?_
    · refine Mach.tame_ite_dev ?_ ?_
      · dsimp only
        refine Mach.complete_tame_dev (by decide) ?_ ..
        refine Mach.tame_mk_dev ?_
        refine Dev.clearFaults_tame (by decide) ?_ ..
        exact Dev.Tame.refl _ _
      · refine Mach.refuse_tame_dev (by decide) ?_ ..
        exact Dev.Tame.refl _ _
    · exact Dev.Tame.refl _ _
  · refine runCmd_tame_mem (fun _ => ?_) ?_
    · refine Mach.tame_ite_mem ?_ ?_
      · dsimp only
        refine Mach.complete_tame_mem (by decide) ?_ ..
        refine Mach.tame_mk_mem ?_
        exact Mem.Tame.refl _ _
      · refine Mach.refuse_tame_mem (by decide) ?_ ..
        exact Mem.Tame.refl _ _
    · exact Mem.Tame.refl _ _

theorem execBlackboxRead_framed (sq cid : Nat) (ecc : List (Nat × Bool)) (s : State) :
    Framed (setOf [.free, .seq, .stats, .commands, .events, .errorLog, .msix, .flt, .intr, .twk, .bbx, .link, .sent]) (setOf [.hostMem]) s (execBlackboxRead sq cid ecc s) := by
  unfold execBlackboxRead
  refine live_framed (by decide) _ ?_ ?_
  · refine runCmd_tame_dev (fun _ => ?_) ?_
    · dsimp only
      refine Mach.tame_ite_dev ?_ ?_
      · refine Mach.refuse_tame_dev (by decide) ?_ ..
        exact Dev.Tame.refl _ _
      · refine Mach.tame_ite_dev ?_ ?_
        · refine Mach.refuse_tame_dev (by decide) ?_ ..
          exact Dev.Tame.refl _ _
        · refine Mach.tame_ite_dev ?_ ?_
          · refine Mach.refuse_tame_dev (by decide) ?_ ..
            exact Dev.Tame.refl _ _
          · refine Mach.tame_ite_dev ?_ ?_
            · refine Mach.refuse_tame_dev (by decide) ?_ ..
              exact Dev.Tame.refl _ _
            · refine Mach.complete_tame_dev (by decide) ?_ ..
              refine Mach.tame_mk_dev ?_
              refine Dev.tame_foldl ?_ (fun _ _ _ => ?_)
              · exact Dev.Tame.refl _ _
              · refine Dev.tame_ite ?_ ?_
                · refine Dev.raise_tame (by decide) ?_ ..
                  assumption
                · refine Dev.raise_tame (by decide) ?_ ..
                  refine Dev.onBbx_tame (by decide) ?_ ..
                  assumption
    · exact Dev.Tame.refl _ _
  · refine runCmd_tame_mem (fun _ => ?_) ?_
    · dsimp only
      refine Mach.tame_ite_mem ?_ ?_
      · refine Mach.refuse_tame_mem (by decide) ?_ ..
        exact Mem.Tame.refl _ _
      · refine Mach.tame_ite_mem ?_ ?_
        · refine Mach.refuse_tame_mem (by decide) ?_ ..
          exact Mem.Tame.refl _ _
        · refine Mach.tame_ite_mem ?_ ?_
          · refine Mach.refuse_tame_mem (by decide) ?_ ..
            exact Mem.Tame.refl _ _
          · refine Mach.tame_ite_mem ?_ ?_
            · refine Mach.refuse_tame_mem (by decide) ?_ ..
              exact Mem.Tame.refl _ _
            · refine Mach.complete_tame_mem (by decide) ?_ ..
              refine Mach.tame_mk_mem ?_
              refine Mem.dataOut_tame (by decide) ?_ ..
              exact Mem.Tame.refl _ _
    · exact Mem.Tame.refl _ _

theorem execBlackboxClear_framed (sq cid : Nat) (s : State) :
    Framed (setOf [.free, .seq, .commands, .errorLog, .logs, .msix, .intr, .twk, .bbx, .sent]) (setOf [.mram]) s (execBlackboxClear sq cid s) := by
  unfold execBlackboxClear
  refine live_framed (by decide) _ ?_ ?_
  · refine runCmd_tame_dev (fun _ => ?_) ?_
    · dsimp only
      refine Mach.tame_ite_dev ?_ ?_
      · refine Mach.refuse_tame_dev (by decide) ?_ ..
        refine Mach.tame_mk_dev ?_
        refine Dev.tame_onHost ?_ ?_
        · exact HostIf.Same.mk
            (.inr ⟨rfl, rfl⟩)
            (.inr rfl)
            (.inr rfl)
            (.inr ⟨rfl, rfl, rfl, rfl⟩)
            (.inr ⟨rfl, rfl, rfl, rfl, rfl, rfl⟩)
            (.inl (by decide))
            (.inr ⟨rfl, rfl, rfl, rfl⟩)
            (.inl (by decide))
            (.inl (by decide))
            (.inr rfl)
            (.inr ⟨rfl, rfl, rfl, rfl⟩)
            (.inl (by decide))
        · exact Dev.Tame.refl _ _
      · refine Mach.tame_ite_dev ?_ ?_
        · refine Mach.refuse_tame_dev (by decide) ?_ ..
          refine Mach.tame_mk_dev ?_
          refine Dev.tame_onHost ?_ ?_
          · exact HostIf.Same.mk
              (.inr ⟨rfl, rfl⟩)
              (.inr rfl)
              (.inr rfl)
              (.inr ⟨rfl, rfl, rfl, rfl⟩)
              (.inr ⟨rfl, rfl, rfl, rfl, rfl, rfl⟩)
              (.inl (by decide))
              (.inr ⟨rfl, rfl, rfl, rfl⟩)
              (.inl (by decide))
              (.inl (by decide))
              (.inr rfl)
              (.inr ⟨rfl, rfl, rfl, rfl⟩)
              (.inl (by decide))
          · exact Dev.Tame.refl _ _
        · refine Mach.tame_ite_dev ?_ ?_
          · refine Mach.refuse_tame_dev (by decide) ?_ ..
            refine Mach.tame_mk_dev ?_
            refine Dev.tame_onHost ?_ ?_
            · exact HostIf.Same.mk
                (.inr ⟨rfl, rfl⟩)
                (.inr rfl)
                (.inr rfl)
                (.inr ⟨rfl, rfl, rfl, rfl⟩)
                (.inr ⟨rfl, rfl, rfl, rfl, rfl, rfl⟩)
                (.inl (by decide))
                (.inr ⟨rfl, rfl, rfl, rfl⟩)
                (.inl (by decide))
                (.inl (by decide))
                (.inr rfl)
                (.inr ⟨rfl, rfl, rfl, rfl⟩)
                (.inl (by decide))
            · exact Dev.Tame.refl _ _
          · split
            · refine Mach.complete_tame_dev (by decide) ?_ ..
              refine Mach.tame_mk_dev ?_
              refine Dev.tame_onHost ?_ ?_
              · exact HostIf.Same.mk
                  (.inr ⟨rfl, rfl⟩)
                  (.inr rfl)
                  (.inr rfl)
                  (.inr ⟨rfl, rfl, rfl, rfl⟩)
                  (.inr ⟨rfl, rfl, rfl, rfl, rfl, rfl⟩)
                  (.inl (by decide))
                  (.inr ⟨rfl, rfl, rfl, rfl⟩)
                  (.inl (by decide))
                  (.inl (by decide))
                  (.inr rfl)
                  (.inr ⟨rfl, rfl, rfl, rfl⟩)
                  (.inl (by decide))
              · exact Dev.Tame.refl _ _
            · refine Mach.tame_ite_dev ?_ ?_
              · refine Mach.complete_tame_dev (by decide) ?_ ..
                refine Mach.tame_mk_dev ?_
                refine Dev.record_tame (by decide) ?_ ..
                refine Mach.bbxClear_tame_dev (by decide) ?_ ..
                refine Mach.tame_mk_dev ?_
                refine Dev.tame_onHost ?_ ?_
                · exact HostIf.Same.mk
                    (.inr ⟨rfl, rfl⟩)
                    (.inr rfl)
                    (.inr rfl)
                    (.inr ⟨rfl, rfl, rfl, rfl⟩)
                    (.inr ⟨rfl, rfl, rfl, rfl, rfl, rfl⟩)
                    (.inl (by decide))
                    (.inr ⟨rfl, rfl, rfl, rfl⟩)
                    (.inl (by decide))
                    (.inl (by decide))
                    (.inr rfl)
                    (.inr ⟨rfl, rfl, rfl, rfl⟩)
                    (.inl (by decide))
                · exact Dev.Tame.refl _ _
              · refine Mach.complete_tame_dev (by decide) ?_ ..
                refine Mach.tame_mk_dev ?_
                refine Dev.tame_onHost ?_ ?_
                · exact HostIf.Same.mk
                    (.inr ⟨rfl, rfl⟩)
                    (.inr rfl)
                    (.inr rfl)
                    (.inr ⟨rfl, rfl, rfl, rfl⟩)
                    (.inr ⟨rfl, rfl, rfl, rfl, rfl, rfl⟩)
                    (.inl (by decide))
                    (.inr ⟨rfl, rfl, rfl, rfl⟩)
                    (.inl (by decide))
                    (.inl (by decide))
                    (.inr rfl)
                    (.inr ⟨rfl, rfl, rfl, rfl⟩)
                    (.inl (by decide))
                · exact Dev.Tame.refl _ _
    · exact Dev.Tame.refl _ _
  · refine runCmd_tame_mem (fun _ => ?_) ?_
    · dsimp only
      refine Mach.tame_ite_mem ?_ ?_
      · refine Mach.refuse_tame_mem (by decide) ?_ ..
        refine Mach.tame_mk_mem ?_
        exact Mem.Tame.refl _ _
      · refine Mach.tame_ite_mem ?_ ?_
        · refine Mach.refuse_tame_mem (by decide) ?_ ..
          refine Mach.tame_mk_mem ?_
          exact Mem.Tame.refl _ _
        · refine Mach.tame_ite_mem ?_ ?_
          · refine Mach.refuse_tame_mem (by decide) ?_ ..
            refine Mach.tame_mk_mem ?_
            exact Mem.Tame.refl _ _
          · split
            · refine Mach.complete_tame_mem (by decide) ?_ ..
              refine Mach.tame_mk_mem ?_
              exact Mem.Tame.refl _ _
            · refine Mach.tame_ite_mem ?_ ?_
              · refine Mach.complete_tame_mem (by decide) ?_ ..
                refine Mach.tame_mk_mem ?_
                refine Mach.bbxClear_tame_mem (by decide) ?_ ..
                refine Mach.tame_mk_mem ?_
                exact Mem.Tame.refl _ _
              · refine Mach.complete_tame_mem (by decide) ?_ ..
                refine Mach.tame_mk_mem ?_
                exact Mem.Tame.refl _ _
    · exact Mem.Tame.refl _ _

end Sys2Proof.Machine
end

