-- ==== Sys2Proof/Laws/ExecFeatures.lean ====
section
/-! SUPPORT. What each command of Machine/Features.lean may change, and where it stops. -/

namespace Sys2Proof.Machine
open Sys2Proof

theorem execSetFeature_framed (sq cid : Nat) (s : State) :
    Framed ((setOf [.free, .seq, .stats, .commands, .events, .errorLog, .admission, .msix, .flt, .intr, .twk, .bbx, .tick, .eth, .shapers, .policers, .link, .dram, .dma, .dmaEvents, .prism, .codec, .seqr, .proxy, .sent, .feat 0x19, .feat 0x1E, .feat 0x1F, .feat 0x22] ||| everyFeat)) (setOf [.hostMem, .dramMem]) s (execSetFeature sq cid s) := by
  unfold execSetFeature
  refine live_framed (by decide) _ ?_ ?_
  · refine runCmd_tame_dev (fun _ => ?_) ?_
    · refine Mach.setFeature_tame_dev (by decide) ?_ ..
      exact Dev.Tame.refl _ _
    · exact Dev.Tame.refl _ _
  · refine runCmd_tame_mem (fun _ => ?_) ?_
    · refine Mach.setFeature_tame_mem (by decide) ?_ ..
      exact Mem.Tame.refl _ _
    · exact Mem.Tame.refl _ _

theorem execGetFeature_framed (sq cid : Nat) (s : State) :
    Framed ((setOf [.free, .seq, .commands, .errorLog, .msix, .intr, .twk, .sent] ||| everyFeat)) (setOf [.hostMem]) s (execGetFeature sq cid s) := by
  unfold execGetFeature
  refine live_framed (by decide) _ ?_ ?_
  · refine runCmd_tame_dev (fun _ => ?_) ?_
    · refine Mach.getFeature_tame_dev (by decide) ?_ ..
      exact Dev.Tame.refl _ _
    · exact Dev.Tame.refl _ _
  · refine runCmd_tame_mem (fun _ => ?_) ?_
    · refine Mach.getFeature_tame_mem (by decide) ?_ ..
      exact Mem.Tame.refl _ _
    · exact Mem.Tame.refl _ _

end Sys2Proof.Machine
end

