-- ==== Sys2Proof/Laws/ExecFlash.lean ====
section
/-! SUPPORT. What each command of Machine/Flash.lean may change, and where it stops. -/

namespace Sys2Proof.Machine
open Sys2Proof

theorem execChunkCheck_framed (s : Nat) (bad : Bool) (st : State) :
    Framed (setOf [.free, .seq, .stats, .commands, .events, .errorLog, .logs, .msix, .flt, .intr, .twk, .bbx, .link, .pools, .caps, .mags, .sent, .feat 0x00, .feat 0x1B, .feat 0x1C, .feat 0x1D]) (setOf [.carriers]) st (execChunkCheck s bad st) := by
  unfold execChunkCheck
  refine live_framed (by decide) _ ?_ ?_
  · dsimp only
    split
    · exact Dev.Tame.refl _ _
    · split
      · refine Mach.advanceMark_tame_dev (by decide) ?_ ..
        refine Mach.tame_mk_dev ?_
        split
        · refine Dev.takeFrames_tame (by decide) ?_ ..
          exact Dev.Tame.refl _ _
        · exact Dev.Tame.refl _ _
      · refine Mach.tame_ite_dev ?_ ?_
        · refine Mach.tame_mk_dev ?_
          split
          · refine Dev.takeFrames_tame (by decide) ?_ ..
            exact Dev.Tame.refl _ _
          · exact Dev.Tame.refl _ _
        · refine Mach.tame_ite_dev ?_ ?_
          · refine Mach.tame_mk_dev ?_
            refine Dev.fireInt_tame (by decide) ?_ ..
            refine Dev.count_tame (by decide) ?_ ..
            refine Dev.bump_tame (by decide) ?_
            refine Dev.modCap_tame (by decide) ?_ ..
            split
            · refine Dev.takeFrames_tame (by decide) ?_ ..
              exact Dev.Tame.refl _ _
            · exact Dev.Tame.refl _ _
          · refine Mach.tame_ite_dev ?_ ?_
            · refine Mach.advanceMarks_tame_dev (by decide) ?_ ..
              refine Mach.tame_mk_dev ?_
              refine Dev.bump_tame (by decide) ?_
              refine Dev.count_tame (by decide) ?_ ..
              refine Dev.onMag_tame (by decide) ?_ ..
              refine Dev.modCap_tame (by decide) ?_ ..
              refine Dev.dropTaken_tame (by decide) ?_ ..
              refine Dev.fireInt_tame (by decide) ?_ ..
              refine Dev.raise_tame (by decide) ?_ ..
              refine Dev.setBit_tame (by decide) ?_
              split
              · refine Dev.takeFrames_tame (by decide) ?_ ..
                exact Dev.Tame.refl _ _
              · exact Dev.Tame.refl _ _
            · split
              · refine Mach.tame_mk_dev ?_
                refine Dev.Tame.of_snd (by assumption) ?_
                refine Dev.poolGrant_tame (by decide) ?_ ..
                split
                · refine Dev.takeFrames_tame (by decide) ?_ ..
                  exact Dev.Tame.refl _ _
                · exact Dev.Tame.refl _ _
              · split
                · refine Mach.tame_mk_dev ?_
                  refine Dev.onMag_tame (by decide) ?_ ..
                  refine Dev.setBuf_tame (by decide) ?_ ..
                  refine Dev.Tame.of_snd (by assumption) ?_
                  refine Dev.poolGrant_tame (by decide) ?_ ..
                  split
                  · refine Dev.takeFrames_tame (by decide) ?_ ..
                    exact Dev.Tame.refl _ _
                  · exact Dev.Tame.refl _ _
                · refine Mach.tame_mk_dev ?_
                  refine Dev.modCap_tame (by decide) ?_ ..
                  refine Dev.onMag_tame (by decide) ?_ ..
                  refine Dev.Tame.of_snd (by assumption) ?_
                  refine Dev.poolGrant_tame (by decide) ?_ ..
                  split
                  · refine Dev.takeFrames_tame (by decide) ?_ ..
                    exact Dev.Tame.refl _ _
                  · exact Dev.Tame.refl _ _
  · dsimp only
    split
    · exact Mem.Tame.refl _ _
    · split
      · refine Mach.advanceMark_tame_mem (by decide) ?_ ..
        exact Mem.Tame.refl _ _
      · refine Mach.tame_ite_mem ?_ ?_
        · exact Mem.Tame.refl _ _
        · refine Mach.tame_ite_mem ?_ ?_
          · exact Mem.Tame.refl _ _
          · refine Mach.tame_ite_mem ?_ ?_
            · refine Mach.advanceMarks_tame_mem (by decide) ?_ ..
              exact Mem.Tame.refl _ _
            · split
              · exact Mem.Tame.refl _ _
              · split
                · exact Mem.Tame.refl _ _
                · exact Mem.Tame.refl _ _

theorem execStripeProgram_framed (p : Nat) (s : State) :
    Framed (setOf [.free, .msix, .intr, .twk, .mags, .sent]) (setOf []) s (execStripeProgram p s) := by
  unfold execStripeProgram
  refine liveDev_framed (by decide) _ ?_
  refine Dev.tame_onlyIf ?_ ?_
  · exact Dev.Tame.refl _ _
  · refine Dev.issueStripe_tame (by decide) ?_ ..
    exact Dev.Tame.refl _ _

theorem execFlushTimeout_framed (p : Nat) (s : State) :
    Framed (setOf [.clk, .free, .stats, .msix, .intr, .twk, .sid, .mags, .sent, .feat 0x1D]) (setOf []) s (execFlushTimeout p s) := by
  unfold execFlushTimeout
  refine liveDev_framed (by decide) _ ?_
  refine Dev.tame_onlyIf ?_ ?_
  · exact Dev.Tame.refl _ _
  · split
    · exact Dev.Tame.refl _ _
    · refine Dev.tame_ite ?_ ?_
      · exact Dev.Tame.refl _ _
      · dsimp only
        refine Dev.issueStripe_tame (by decide) ?_ ..
        refine Dev.bump_tame (by decide) ?_
        refine Dev.count_tame (by decide) ?_ ..
        refine Dev.onMag_tame (by decide) ?_ ..
        refine Dev.advanceTo_tame (by decide) ?_ ..
        exact Dev.Tame.refl _ _

theorem execProgramDone_framed (p die dt : Nat) (fail : Option Nat) (s : State) :
    Framed (setOf [.clk, .free, .seq, .stats, .commands, .events, .errorLog, .logs, .msix, .flt, .intr, .twk, .bbx, .sid, .link, .pools, .caps, .codec, .mags, .sent, .feat 0x00, .feat 0x1C, .feat 0x1D]) (setOf [.carriers]) s (execProgramDone p die dt fail s) := by
  unfold execProgramDone
  refine live_framed (by decide) _ ?_ ?_
  · refine Mach.tame_onlyIf_dev ?_ ?_
    · exact Dev.Tame.refl _ _
    · dsimp only
      split
      · refine Mach.tame_mk_dev ?_
        refine Dev.advance_tame (by decide) ?_ ..
        exact Dev.Tame.refl _ _
      · split
        · refine Mach.tame_ite_dev ?_ ?_
          · refine Mach.stripeDone_tame_dev (by decide) ?_ ..
            split
            · refine Mach.noteFailure_tame_dev (by decide) ?_ ..
              refine Mach.checkpoint_tame_dev (by decide) ?_ ..
              refine Mach.tame_mk_dev ?_
              refine Dev.growBad_tame (by decide) ?_ ..
              refine Dev.onMag_tame (by decide) ?_ ..
              refine Dev.raise_tame (by decide) ?_ ..
              refine Dev.setBit_tame (by decide) ?_
              refine Dev.count_tame (by decide) ?_ ..
              refine Dev.bump_tame (by decide) ?_
              refine Dev.onMag_tame (by decide) ?_ ..
              refine Mach.programPages_tame_dev (by decide) ?_ ..
              refine Mach.tame_mk_dev ?_
              refine Dev.advance_tame (by decide) ?_ ..
              exact Dev.Tame.refl _ _
            · refine Mach.tame_mk_dev ?_
              refine Dev.onMag_tame (by decide) ?_ ..
              refine Mach.programPages_tame_dev (by decide) ?_ ..
              refine Mach.tame_mk_dev ?_
              refine Dev.advance_tame (by decide) ?_ ..
              exact Dev.Tame.refl _ _
          · split
            · refine Mach.noteFailure_tame_dev (by decide) ?_ ..
              refine Mach.checkpoint_tame_dev (by decide) ?_ ..
              refine Mach.tame_mk_dev ?_
              refine Dev.growBad_tame (by decide) ?_ ..
              refine Dev.onMag_tame (by decide) ?_ ..
              refine Dev.raise_tame (by decide) ?_ ..
              refine Dev.setBit_tame (by decide) ?_
              refine Dev.count_tame (by decide) ?_ ..
              refine Dev.bump_tame (by decide) ?_
              refine Dev.onMag_tame (by decide) ?_ ..
              refine Mach.programPages_tame_dev (by decide) ?_ ..
              refine Mach.tame_mk_dev ?_
              refine Dev.advance_tame (by decide) ?_ ..
              exact Dev.Tame.refl _ _
            · refine Mach.tame_mk_dev ?_
              refine Dev.onMag_tame (by decide) ?_ ..
              refine Mach.programPages_tame_dev (by decide) ?_ ..
              refine Mach.tame_mk_dev ?_
              refine Dev.advance_tame (by decide) ?_ ..
              exact Dev.Tame.refl _ _
        · split
          · refine Mach.noteFailure_tame_dev (by decide) ?_ ..
            refine Mach.checkpoint_tame_dev (by decide) ?_ ..
            refine Mach.tame_mk_dev ?_
            refine Dev.growBad_tame (by decide) ?_ ..
            refine Dev.onMag_tame (by decide) ?_ ..
            refine Dev.raise_tame (by decide) ?_ ..
            refine Dev.setBit_tame (by decide) ?_
            refine Dev.count_tame (by decide) ?_ ..
            refine Dev.bump_tame (by decide) ?_
            refine Dev.onMag_tame (by decide) ?_ ..
            refine Mach.programPages_tame_dev (by decide) ?_ ..
            refine Mach.tame_mk_dev ?_
            refine Dev.advance_tame (by decide) ?_ ..
            exact Dev.Tame.refl _ _
          · refine Mach.tame_mk_dev ?_
            refine Dev.onMag_tame (by decide) ?_ ..
            refine Mach.programPages_tame_dev (by decide) ?_ ..
            refine Mach.tame_mk_dev ?_
            refine Dev.advance_tame (by decide) ?_ ..
            exact Dev.Tame.refl _ _
  · refine Mach.tame_onlyIf_mem ?_ ?_
    · exact Mem.Tame.refl _ _
    · dsimp only
      split
      · exact Mem.Tame.refl _ _
      · split
        · refine Mach.tame_ite_mem ?_ ?_
          · refine Mach.stripeDone_tame_mem (by decide) ?_ ..
            split
            · refine Mach.noteFailure_tame_mem (by decide) ?_ ..
              refine Mach.checkpoint_tame_mem (by decide) ?_ ..
              refine Mach.tame_mk_mem ?_
              refine Mach.programPages_tame_mem (by decide) ?_ ..
              exact Mem.Tame.refl _ _
            · refine Mach.tame_mk_mem ?_
              refine Mach.programPages_tame_mem (by decide) ?_ ..
              exact Mem.Tame.refl _ _
          · split
            · refine Mach.noteFailure_tame_mem (by decide) ?_ ..
              refine Mach.checkpoint_tame_mem (by decide) ?_ ..
              refine Mach.tame_mk_mem ?_
              refine Mach.programPages_tame_mem (by decide) ?_ ..
              exact Mem.Tame.refl _ _
            · refine Mach.tame_mk_mem ?_
              refine Mach.programPages_tame_mem (by decide) ?_ ..
              exact Mem.Tame.refl _ _
        · split
          · refine Mach.noteFailure_tame_mem (by decide) ?_ ..
            refine Mach.checkpoint_tame_mem (by decide) ?_ ..
            refine Mach.tame_mk_mem ?_
            refine Mach.programPages_tame_mem (by decide) ?_ ..
            exact Mem.Tame.refl _ _
          · refine Mach.tame_mk_mem ?_
            refine Mach.programPages_tame_mem (by decide) ?_ ..
            exact Mem.Tame.refl _ _

theorem execEraseDone_framed (p dt : Nat) (fail : Bool) (s : State) :
    Framed (setOf [.clk, .free, .seq, .stats, .commands, .events, .msix, .flt, .intr, .twk, .bbx, .sid, .link, .mags, .sent, .feat 0x1C, .feat 0x1D]) (setOf [.carriers]) s (execEraseDone p dt fail s) := by
  unfold execEraseDone
  refine live_framed (by decide) _ ?_ ?_
  · refine Mach.tame_onlyIf_dev ?_ ?_
    · exact Dev.Tame.refl _ _
    · dsimp only
      split
      · refine Mach.tame_mk_dev ?_
        refine Dev.advance_tame (by decide) ?_ ..
        exact Dev.Tame.refl _ _
      · refine Mach.tame_ite_dev ?_ ?_
        · refine Mach.eraseBlock_tame_dev (by decide) ?_ ..
          refine Mach.tame_mk_dev ?_
          refine Dev.onMag_tame (by decide) ?_ ..
          refine Dev.advance_tame (by decide) ?_ ..
          exact Dev.Tame.refl _ _
        · refine Mach.tame_ite_dev ?_ ?_
          · refine Mach.checkpoint_tame_dev (by decide) ?_ ..
            refine Mach.tame_mk_dev ?_
            refine Dev.onMag_tame (by decide) ?_ ..
            refine Dev.growBad_tame (by decide) ?_ ..
            refine Dev.onVol_tame (by decide) ?_ ..
            refine Dev.raise_tame (by decide) ?_ ..
            refine Dev.setBit_tame (by decide) ?_
            refine Dev.bump_tame (by decide) ?_
            refine Dev.onMag_tame (by decide) ?_ ..
            refine Dev.advance_tame (by decide) ?_ ..
            exact Dev.Tame.refl _ _
          · refine Mach.checkpoint_tame_dev (by decide) ?_ ..
            refine Mach.tame_mk_dev ?_
            refine Dev.onMag_tame (by decide) ?_ ..
            refine Dev.growBad_tame (by decide) ?_ ..
            refine Dev.onVol_tame (by decide) ?_ ..
            refine Dev.raise_tame (by decide) ?_ ..
            refine Dev.setBit_tame (by decide) ?_
            refine Dev.bump_tame (by decide) ?_
            refine Dev.onMag_tame (by decide) ?_ ..
            refine Dev.advance_tame (by decide) ?_ ..
            exact Dev.Tame.refl _ _
  · refine Mach.tame_onlyIf_mem ?_ ?_
    · exact Mem.Tame.refl _ _
    · dsimp only
      split
      · exact Mem.Tame.refl _ _
      · refine Mach.tame_ite_mem ?_ ?_
        · refine Mach.eraseBlock_tame_mem (by decide) ?_ ..
          exact Mem.Tame.refl _ _
        · refine Mach.tame_ite_mem ?_ ?_
          · refine Mach.checkpoint_tame_mem (by decide) ?_ ..
            exact Mem.Tame.refl _ _
          · refine Mach.checkpoint_tame_mem (by decide) ?_ ..
            exact Mem.Tame.refl _ _

theorem execStatusTimeout_framed (p die dt : Nat) (s : State) :
    Framed (setOf [.clk, .free, .seq, .stats, .commands, .events, .errorLog, .logs, .msix, .flt, .intr, .twk, .bbx, .sid, .link, .pools, .caps, .codec, .mags, .sent, .feat 0x00, .feat 0x1C, .feat 0x1D]) (setOf [.carriers]) s (execStatusTimeout p die dt s) := by
  unfold execStatusTimeout
  refine live_framed (by decide) _ ?_ ?_
  · refine Mach.tame_onlyIf_dev ?_ ?_
    · exact Dev.Tame.refl _ _
    · dsimp only
      refine Mach.tame_ite_dev ?_ ?_
      · refine Mach.tame_mk_dev ?_
        refine Dev.advance_tame (by decide) ?_ ..
        exact Dev.Tame.refl _ _
      · refine Mach.tame_ite_dev ?_ ?_
        · refine Mach.dieFail_tame_dev (by decide) ?_ ..
          refine Mach.tame_mk_dev ?_
          refine Dev.onMag_tame (by decide) ?_ ..
          refine Dev.advance_tame (by decide) ?_ ..
          exact Dev.Tame.refl _ _
        · refine Mach.tame_mk_dev ?_
          refine Dev.onMag_tame (by decide) ?_ ..
          refine Dev.advance_tame (by decide) ?_ ..
          exact Dev.Tame.refl _ _
  · refine Mach.tame_onlyIf_mem ?_ ?_
    · exact Mem.Tame.refl _ _
    · dsimp only
      refine Mach.tame_ite_mem ?_ ?_
      · exact Mem.Tame.refl _ _
      · refine Mach.tame_ite_mem ?_ ?_
        · refine Mach.dieFail_tame_mem (by decide) ?_ ..
          exact Mem.Tame.refl _ _
        · exact Mem.Tame.refl _ _

theorem execMagPresentNChange_framed (p : Nat) (low : Bool) (carrier : Nat × List Byte × List Byte × List Nat) (s : State) :
    Framed (setOf [.free, .msix, .intr, .twk, .mags, .sent]) (setOf [.carriers]) s (execMagPresentNChange p low carrier s) := by
  unfold execMagPresentNChange
  refine live_framed (by decide) _ ?_ ?_
  · refine Mach.tame_onlyIf_dev ?_ ?_
    · exact Dev.Tame.refl _ _
    · split
      dsimp only
      refine Dev.onMag_tame (by decide) ?_ ..
      exact Dev.Tame.refl _ _
  · refine Mach.tame_onlyIf_mem ?_ ?_
    · exact Mem.Tame.refl _ _
    · split
      dsimp only
      refine Mem.tame_ite ?_ ?_
      · refine Mem.putCarrier_tame (by decide) ?_ ..
        exact Mem.Tame.refl _ _
      · exact Mem.Tame.refl _ _

theorem execMagPresent_framed (p : Nat) (s : State) :
    Framed (setOf [.clk, .free, .seq, .commands, .events, .msix, .intr, .twk, .sid, .mags, .sent]) (setOf []) s (execMagPresent p s) := by
  unfold execMagPresent
  refine liveDev_framed (by decide) _ ?_
  refine Dev.tame_onlyIf ?_ ?_
  · exact Dev.Tame.refl _ _
  · dsimp only
    refine Dev.fireInt_tame (by decide) ?_ ..
    refine Dev.postEvent_tame (by decide) ?_ ..
    refine Dev.onMag_tame (by decide) ?_ ..
    refine Dev.advanceTo_tame (by decide) ?_ ..
    exact Dev.Tame.refl _ _

theorem execMagRemoved_framed (p : Nat) (s : State) :
    Framed (setOf [.clk, .free, .seq, .stats, .commands, .events, .errorLog, .logs, .msix, .flt, .intr, .twk, .bbx, .sid, .link, .pools, .pins, .caps, .codec, .mags, .sent, .feat 0x00, .feat 0x1D]) (setOf [.carriers]) s (execMagRemoved p s) := by
  unfold execMagRemoved
  refine live_framed (by decide) _ ?_ ?_
  · refine Mach.tame_onlyIf_dev ?_ ?_
    · exact Dev.Tame.refl _ _
    · refine Mach.remove_tame_dev (by decide) ?_ ..
      refine Mach.tame_mk_dev ?_
      refine Dev.advanceTo_tame (by decide) ?_ ..
      exact Dev.Tame.refl _ _
  · refine Mach.tame_onlyIf_mem ?_ ?_
    · exact Mem.Tame.refl _ _
    · refine Mach.remove_tame_mem (by decide) ?_ ..
      exact Mem.Tame.refl _ _

theorem execCodewordRead_framed (p ppa c step bits : Nat) (s : State) :
    Framed (setOf [.free, .seq, .stats, .commands, .events, .msix, .flt, .intr, .twk, .bbx, .link, .mags, .sent, .feat 0x1C, .feat 0x1D]) (setOf []) s (execCodewordRead p ppa c step bits s) := by
  unfold execCodewordRead
  refine live_framed (by decide) _ ?_ ?_
  · refine Mach.tame_onlyIf_dev ?_ ?_
    · exact Dev.Tame.refl _ _
    · split
      refine Mach.tame_mk_dev ?_
      refine Dev.codewordEnd_tame (by decide) ?_ ..
      exact Dev.Tame.refl _ _
  · refine Mach.tame_onlyIf_mem ?_ ?_
    · exact Mem.Tame.refl _ _
    · exact Mem.Tame.refl _ _

theorem execRelocateBlock_framed (p : Nat) (s : State) :
    Framed (setOf [.free, .seq, .stats, .msix, .intr, .twk, .mags, .sent, .feat 0x1D]) (setOf [.carriers]) s (execRelocateBlock p s) := by
  unfold execRelocateBlock
  refine live_framed (by decide) _ ?_ ?_
  · refine Mach.tame_onlyIf_dev ?_ ?_
    · exact Dev.Tame.refl _ _
    · split
      · refine Mach.relocate_tame_dev (by decide) ?_ ..
        exact Dev.Tame.refl _ _
      · exact Dev.Tame.refl _ _
  · refine Mach.tame_onlyIf_mem ?_ ?_
    · exact Mem.Tame.refl _ _
    · split
      · refine Mach.relocate_tame_mem (by decide) ?_ ..
        exact Mem.Tame.refl _ _
      · exact Mem.Tame.refl _ _

theorem execRetentionScan_framed (p : Nat) (found : List (Nat × Nat × Nat × Nat)) (s : State) :
    Framed (setOf [.clk, .free, .seq, .stats, .commands, .events, .msix, .flt, .intr, .twk, .bbx, .sid, .link, .mags, .sent, .feat 0x1C, .feat 0x1D]) (setOf []) s (execRetentionScan p found s) := by
  unfold execRetentionScan
  refine live_framed (by decide) _ ?_ ?_
  · refine Mach.tame_onlyIf_dev ?_ ?_
    · exact Dev.Tame.refl _ _
    · dsimp only
      refine Mach.scanPages_tame_dev (by decide) ?_ ..
      refine Mach.tame_mk_dev ?_
      refine Dev.onMag_tame (by decide) ?_ ..
      refine Dev.advanceTo_tame (by decide) ?_ ..
      exact Dev.Tame.refl _ _
  · refine Mach.tame_onlyIf_mem ?_ ?_
    · exact Mem.Tame.refl _ _
    · dsimp only
      refine Mach.scanPages_tame_mem (by decide) ?_ ..
      exact Mem.Tame.refl _ _

theorem execCheckpoint_framed (p : Nat) (s : State) :
    Framed (setOf [.clk, .free, .seq, .stats, .msix, .intr, .twk, .sid, .mags, .sent, .feat 0x1D]) (setOf [.carriers]) s (execCheckpoint p s) := by
  unfold execCheckpoint
  refine live_framed (by decide) _ ?_ ?_
  · refine Mach.tame_onlyIf_dev ?_ ?_
    · exact Dev.Tame.refl _ _
    · refine Mach.checkpoint_tame_dev (by decide) ?_ ..
      refine Mach.tame_mk_dev ?_
      refine Dev.advanceTo_tame (by decide) ?_ ..
      exact Dev.Tame.refl _ _
  · refine Mach.tame_onlyIf_mem ?_ ?_
    · exact Mem.Tame.refl _ _
    · refine Mach.checkpoint_tame_mem (by decide) ?_ ..
      exact Mem.Tame.refl _ _

end Sys2Proof.Machine
end

