-- ==== Sys2Proof/Laws/ExecLink.lean ====
section
/-! SUPPORT. What each command of Machine/Link.lean may change, and where it stops. -/

namespace Sys2Proof.Machine
open Sys2Proof

theorem execLanesAligned_framed (p : Nat) (s : State) :
    Framed (setOf [.free, .msix, .intr, .twk, .link, .sent]) (setOf []) s (execLanesAligned p s) := by
  unfold execLanesAligned
  refine liveDev_framed (by decide) _ ?_
  refine Dev.tame_onlyIf ?_ ?_
  · exact Dev.Tame.refl _ _
  · split
    · refine Dev.onPort_tame (by decide) ?_ ..
      exact Dev.Tame.refl _ _
    · refine Dev.onPort_tame (by decide) ?_ ..
      exact Dev.Tame.refl _ _
    · exact Dev.Tame.refl _ _

theorem execLinkInitSend_framed (p : Nat) (s : State) :
    Framed (setOf [.clk, .free, .stats, .msix, .intr, .twk, .sid, .link, .sent]) (setOf []) s (execLinkInitSend p s) := by
  unfold execLinkInitSend
  refine liveDev_framed (by decide) _ ?_
  dsimp only
  refine Dev.tame_onlyIf ?_ ?_
  · exact Dev.Tame.refl _ _
  · refine Dev.wireFlit_tame (by decide) ?_ ..
    refine Dev.onPort_tame (by decide) ?_ ..
    refine Dev.advanceTo_tame (by decide) ?_ ..
    exact Dev.Tame.refl _ _

theorem execLinkInit_framed (p : Nat) (s : State) :
    Framed (setOf [.free, .seq, .stats, .commands, .events, .msix, .flt, .intr, .twk, .bbx, .link, .sent, .feat 0x01, .feat 0x22]) (setOf []) s (execLinkInit p s) := by
  unfold execLinkInit
  refine liveDev_framed (by decide) _ ?_
  refine onMsg_tame (by decide) (fun _ _ _ => ?_) ?_
  · dsimp only
    refine Dev.tame_ite ?_ ?_
    · refine Dev.linkUp_tame (by decide) ?_ ..
      refine Dev.onPort_tame (by decide) ?_ ..
      refine Dev.tame_ite ?_ ?_
      · refine Dev.linkExpire_tame (by decide) ?_ ..
        assumption
      · assumption
    · refine Dev.tame_ite ?_ ?_
      · refine Dev.tame_ite ?_ ?_
        · refine Dev.linkExpire_tame (by decide) ?_ ..
          assumption
        · assumption
      · refine Dev.tame_ite ?_ ?_
        · refine Dev.tame_ite ?_ ?_
          · refine Dev.setReg_tame (by decide) ?_
            refine Dev.linkUp_tame (by decide) ?_ ..
            refine Dev.onPort_tame (by decide) ?_ ..
            refine Dev.tame_ite ?_ ?_
            · refine Dev.linkExpire_tame (by decide) ?_ ..
              assumption
            · assumption
          · refine Dev.linkUp_tame (by decide) ?_ ..
            refine Dev.onPort_tame (by decide) ?_ ..
            refine Dev.tame_ite ?_ ?_
            · refine Dev.linkExpire_tame (by decide) ?_ ..
              assumption
            · assumption
        · refine Dev.onPort_tame (by decide) ?_ ..
          refine Dev.onPort_tame (by decide) ?_ ..
          refine Dev.tame_ite ?_ ?_
          · refine Dev.linkExpire_tame (by decide) ?_ ..
            assumption
          · assumption
  · exact Dev.Tame.refl _ _

theorem execLinkLoss_framed (p why lanes : Nat) (s : State) :
    Framed (setOf [.clk, .free, .seq, .stats, .commands, .events, .msix, .flt, .intr, .twk, .bbx, .sid, .link, .sent, .feat 0x22]) (setOf []) s (execLinkLoss p why lanes s) := by
  unfold execLinkLoss
  refine liveDev_framed (by decide) _ ?_
  dsimp only
  refine Dev.tame_onlyIf ?_ ?_
  · exact Dev.Tame.refl _ _
  · split
    · refine Dev.tame_ite ?_ ?_
      · exact Dev.Tame.refl _ _
      · refine Dev.linkHold_tame (by decide) ?_ ..
        exact Dev.Tame.refl _ _
    · refine Dev.tame_ite ?_ ?_
      · refine Dev.linkHold_tame (by decide) ?_ ..
        exact Dev.Tame.refl _ _
      · exact Dev.Tame.refl _ _
    · refine Dev.linkHold_tame (by decide) ?_ ..
      refine Dev.advanceTo_tame (by decide) ?_ ..
      exact Dev.Tame.refl _ _

theorem execLinkHoldExpiry_framed (p : Nat) (s : State) :
    Framed (setOf [.clk, .free, .seq, .stats, .commands, .events, .msix, .flt, .intr, .twk, .bbx, .sid, .link, .sent, .feat 0x22]) (setOf []) s (execLinkHoldExpiry p s) := by
  unfold execLinkHoldExpiry
  refine liveDev_framed (by decide) _ ?_
  refine Dev.tame_onlyIf ?_ ?_
  · exact Dev.Tame.refl _ _
  · refine Dev.linkExpire_tame (by decide) ?_ ..
    refine Dev.advanceTo_tame (by decide) ?_ ..
    exact Dev.Tame.refl _ _

theorem execMiswiredRetry_framed (p : Nat) (s : State) :
    Framed (setOf [.clk, .free, .msix, .intr, .twk, .sid, .link, .sent]) (setOf []) s (execMiswiredRetry p s) := by
  unfold execMiswiredRetry
  refine liveDev_framed (by decide) _ ?_
  refine Dev.tame_onlyIf ?_ ?_
  · exact Dev.Tame.refl _ _
  · refine Dev.onPort_tame (by decide) ?_ ..
    refine Dev.advanceTo_tame (by decide) ?_ ..
    exact Dev.Tame.refl _ _

theorem execFlitRx_framed (p : Nat) (raw : List Byte) (s : State) :
    Framed (setOf [.free, .stats, .msix, .intr, .twk, .eth, .link, .sent, .feat 0x22]) (setOf []) s (execFlitRx p raw s) := by
  unfold execFlitRx
  refine liveDev_framed (by decide) _ ?_
  refine Dev.tame_onlyIf ?_ ?_
  · exact Dev.Tame.refl _ _
  · dsimp only
    refine Dev.tame_ite ?_ ?_
    · refine Dev.tame_ite ?_ ?_
      · refine Dev.keepMsg_tame (by decide) ?_ ..
        exact Dev.Tame.refl _ _
      · exact Dev.Tame.refl _ _
    · refine Dev.tame_ite ?_ ?_
      · refine Dev.tame_ite ?_ ?_
        · exact Dev.Tame.refl _ _
        · refine Dev.flitUp_tame (by decide) ?_ ..
          exact Dev.Tame.refl _ _
      · exact Dev.Tame.refl _ _

theorem execReplayTimeout_framed (p : Nat) (s : State) :
    Framed (setOf [.clk, .free, .stats, .msix, .intr, .twk, .sid, .link, .sent, .feat 0x22]) (setOf []) s (execReplayTimeout p s) := by
  unfold execReplayTimeout
  refine liveDev_framed (by decide) _ ?_
  dsimp only
  refine Dev.tame_onlyIf ?_ ?_
  · exact Dev.Tame.refl _ _
  · refine Dev.replay_tame (by decide) ?_ ..
    refine Dev.advanceTo_tame (by decide) ?_ ..
    exact Dev.Tame.refl _ _

theorem execConstellationEnum_framed (sq cid : Nat) (s : State) :
    Framed (setOf [.free, .seq, .stats, .commands, .errorLog, .admission, .msix, .intr, .twk, .link, .sent]) (setOf [.hostMem]) s (execConstellationEnum sq cid s) := by
  unfold execConstellationEnum
  refine live_framed (by decide) _ ?_ ?_
  · refine runCmd_tame_dev (fun _ => ?_) ?_
    · refine Mach.tame_ite_dev ?_ ?_
      · refine Mach.deny_tame_dev (by decide) ?_ ..
        exact Dev.Tame.refl _ _
      · dsimp only
        refine Mach.enumGo_tame_dev (by decide) ?_ ..
        refine Mach.tame_mk_dev ?_
        refine Dev.tame_foldl ?_ (fun _ _ _ => ?_)
        · refine Dev.keepRunning_tame (by decide) ?_ ..
          refine Dev.onLink_tame (by decide) ?_ ..
          exact Dev.Tame.refl _ _
        · refine Dev.onPort_tame (by decide) ?_ ..
          assumption
    · exact Dev.Tame.refl _ _
  · refine runCmd_tame_mem (fun _ => ?_) ?_
    · refine Mach.tame_ite_mem ?_ ?_
      · refine Mach.deny_tame_mem (by decide) ?_ ..
        exact Mem.Tame.refl _ _
      · dsimp only
        refine Mach.enumGo_tame_mem (by decide) ?_ ..
        refine Mach.tame_mk_mem ?_
        exact Mem.Tame.refl _ _
    · exact Mem.Tame.refl _ _

theorem execEnum_framed (p : Nat) (s : State) :
    Framed (setOf [.free, .seq, .stats, .commands, .errorLog, .msix, .intr, .twk, .link, .sent]) (setOf [.hostMem]) s (execEnum p s) := by
  unfold execEnum
  refine live_framed (by decide) _ ?_ ?_
  · split
    · exact Dev.Tame.refl _ _
    · refine Mach.tame_ite_dev ?_ ?_
      · refine Mach.tame_mk_dev ?_
        refine Dev.onLink_tame (by decide) ?_ ..
        exact Dev.Tame.refl _ _
      · dsimp only
        refine Mach.enumGo_tame_dev (by decide) ?_ ..
        refine Mach.tame_mk_dev ?_
        refine Dev.sendMsg_tame (by decide) ?_ ..
        refine Dev.tame_foldl ?_ (fun _ _ _ => ?_)
        · refine Dev.onLink_tame (by decide) ?_ ..
          exact Dev.Tame.refl _ _
        · refine Dev.onPort_tame (by decide) ?_ ..
          assumption
  · split
    · exact Mem.Tame.refl _ _
    · refine Mach.tame_ite_mem ?_ ?_
      · refine Mach.tame_mk_mem ?_
        exact Mem.Tame.refl _ _
      · dsimp only
        refine Mach.enumGo_tame_mem (by decide) ?_ ..
        refine Mach.tame_mk_mem ?_
        exact Mem.Tame.refl _ _

theorem execEnumDone_framed (p : Nat) (s : State) :
    Framed (setOf [.free, .seq, .stats, .commands, .errorLog, .msix, .intr, .twk, .link, .sent]) (setOf [.hostMem]) s (execEnumDone p s) := by
  unfold execEnumDone
  refine live_framed (by decide) _ ?_ ?_
  · split
    · exact Dev.Tame.refl _ _
    · dsimp only
      refine Mach.tame_ite_dev ?_ ?_
      · refine Mach.tame_mk_dev ?_
        refine Dev.onLink_tame (by decide) ?_ ..
        exact Dev.Tame.refl _ _
      · refine Mach.enumGo_tame_dev (by decide) ?_ ..
        refine Mach.tame_mk_dev ?_
        refine Dev.onPort_tame (by decide) ?_ ..
        refine Dev.onLink_tame (by decide) ?_ ..
        refine Dev.onLink_tame (by decide) ?_ ..
        exact Dev.Tame.refl _ _
  · split
    · exact Mem.Tame.refl _ _
    · dsimp only
      refine Mach.tame_ite_mem ?_ ?_
      · refine Mach.tame_mk_mem ?_
        exact Mem.Tame.refl _ _
      · refine Mach.enumGo_tame_mem (by decide) ?_ ..
        refine Mach.tame_mk_mem ?_
        exact Mem.Tame.refl _ _

theorem execEnumEntry_framed (p : Nat) (s : State) :
    Framed (setOf [.free, .msix, .intr, .twk, .link, .sent]) (setOf []) s (execEnumEntry p s) := by
  unfold execEnumEntry
  refine liveDev_framed (by decide) _ ?_
  refine onMsg_tame (by decide) (fun _ _ _ => ?_) ?_
  · refine Dev.tame_onlyIf ?_ ?_
    · assumption
    · dsimp only
      refine Dev.onLink_tame (by decide) ?_ ..
      assumption
  · exact Dev.Tame.refl _ _

theorem execEnumTimeout_framed (p : Nat) (s : State) :
    Framed (setOf [.clk, .free, .seq, .stats, .commands, .errorLog, .msix, .intr, .twk, .sid, .link, .sent]) (setOf [.hostMem]) s (execEnumTimeout p s) := by
  unfold execEnumTimeout
  refine live_framed (by decide) _ ?_ ?_
  · refine Mach.tame_onlyIf_dev ?_ ?_
    · exact Dev.Tame.refl _ _
    · dsimp only
      refine Mach.enumGo_tame_dev (by decide) ?_ ..
      refine Mach.tame_mk_dev ?_
      refine Dev.onLink_tame (by decide) ?_ ..
      refine Dev.onPort_tame (by decide) ?_ ..
      refine Dev.advanceTo_tame (by decide) ?_ ..
      exact Dev.Tame.refl _ _
  · refine Mach.tame_onlyIf_mem ?_ ?_
    · exact Mem.Tame.refl _ _
    · dsimp only
      refine Mach.enumGo_tame_mem (by decide) ?_ ..
      refine Mach.tame_mk_mem ?_
      exact Mem.Tame.refl _ _

theorem execReassign_framed (p : Nat) (s : State) :
    Framed (setOf [.free, .stats, .msix, .intr, .twk, .link, .sent]) (setOf []) s (execReassign p s) := by
  unfold execReassign
  refine liveDev_framed (by decide) _ ?_
  refine onMsg_tame (by decide) (fun _ _ _ => ?_) ?_
  · refine Dev.tame_onlyIf ?_ ?_
    · assumption
    · dsimp only
      refine Dev.readmitted_tame (by decide) ?_ ..
      refine Dev.tame_foldl ?_ (fun _ _ _ => ?_)
      · refine Dev.onLink_tame (by decide) ?_ ..
        assumption
      · refine Dev.onPort_tame (by decide) ?_ ..
        assumption
  · exact Dev.Tame.refl _ _

theorem execState_framed (p : Nat) (s : State) :
    Framed (setOf [.free, .msix, .intr, .twk, .link, .sent]) (setOf []) s (execState p s) := by
  unfold execState
  refine liveDev_framed (by decide) _ ?_
  refine onMsg_tame (by decide) (fun _ _ _ => ?_) ?_
  · refine Dev.onLink_tame (by decide) ?_ ..
    assumption
  · exact Dev.Tame.refl _ _

theorem execConstellationSeverity_framed (sq cid : Nat) (s : State) :
    Framed (setOf [.free, .seq, .stats, .commands, .errorLog, .msix, .flt, .intr, .twk, .link, .sent]) (setOf []) s (execConstellationSeverity sq cid s) := by
  unfold execConstellationSeverity
  refine live_framed (by decide) _ ?_ ?_
  · refine runCmd_tame_dev (fun _ => ?_) ?_
    · dsimp only
      refine Mach.tame_ite_dev ?_ ?_
      · refine Mach.refuse_tame_dev (by decide) ?_ ..
        exact Dev.Tame.refl _ _
      · refine Mach.tame_ite_dev ?_ ?_
        · refine Mach.refuse_tame_dev (by decide) ?_ ..
          exact Dev.Tame.refl _ _
        · refine Mach.tame_ite_dev ?_ ?_
          · refine Mach.refuse_tame_dev (by decide) ?_ ..
            exact Dev.Tame.refl _ _
          · refine Mach.tame_ite_dev ?_ ?_
            · refine Mach.complete_tame_dev (by decide) ?_ ..
              refine Mach.tame_mk_dev ?_
              refine Dev.onFlt_tame (by decide) ?_ ..
              exact Dev.Tame.refl _ _
            · refine Mach.tame_mk_dev ?_
              refine Dev.tame_ite ?_ ?_
              · refine Dev.severityEnd_tame (by decide) ?_ ..
                refine Dev.keepRunning_tame (by decide) ?_ ..
                refine Dev.tame_ite ?_ ?_
                · refine Dev.broadcast_tame (by decide) ?_ ..
                  refine Dev.onLink_tame (by decide) ?_ ..
                  exact Dev.Tame.refl _ _
                · refine Dev.tame_ite ?_ ?_
                  · refine Dev.onLink_tame (by decide) ?_ ..
                    exact Dev.Tame.refl _ _
                  · refine Dev.sendSeverity_tame (by decide) ?_ ..
                    refine Dev.onLink_tame (by decide) ?_ ..
                    exact Dev.Tame.refl _ _
              · refine Dev.keepRunning_tame (by decide) ?_ ..
                refine Dev.tame_ite ?_ ?_
                · refine Dev.broadcast_tame (by decide) ?_ ..
                  refine Dev.onLink_tame (by decide) ?_ ..
                  exact Dev.Tame.refl _ _
                · refine Dev.tame_ite ?_ ?_
                  · refine Dev.onLink_tame (by decide) ?_ ..
                    exact Dev.Tame.refl _ _
                  · refine Dev.sendSeverity_tame (by decide) ?_ ..
                    refine Dev.onLink_tame (by decide) ?_ ..
                    exact Dev.Tame.refl _ _
    · exact Dev.Tame.refl _ _
  · refine runCmd_tame_mem (fun _ => ?_) ?_
    · dsimp only
      refine Mach.tame_ite_mem ?_ ?_
      · refine Mach.refuse_tame_mem (by decide) ?_ ..
        exact Mem.Tame.refl _ _
      · refine Mach.tame_ite_mem ?_ ?_
        · refine Mach.refuse_tame_mem (by decide) ?_ ..
          exact Mem.Tame.refl _ _
        · refine Mach.tame_ite_mem ?_ ?_
          · refine Mach.refuse_tame_mem (by decide) ?_ ..
            exact Mem.Tame.refl _ _
          · refine Mach.tame_ite_mem ?_ ?_
            · refine Mach.complete_tame_mem (by decide) ?_ ..
              refine Mach.tame_mk_mem ?_
              exact Mem.Tame.refl _ _
            · refine Mach.tame_mk_mem ?_
              exact Mem.Tame.refl _ _
    · exact Mem.Tame.refl _ _

theorem execSeverity_framed (p : Nat) (s : State) :
    Framed (setOf [.free, .stats, .msix, .flt, .intr, .twk, .link, .sent]) (setOf []) s (execSeverity p s) := by
  unfold execSeverity
  refine liveDev_framed (by decide) _ ?_
  refine onMsg_tame (by decide) (fun _ _ _ => ?_) ?_
  · dsimp only
    refine Dev.sendMsg_tame (by decide) ?_ ..
    refine Dev.onFlt_tame (by decide) ?_ ..
    assumption
  · exact Dev.Tame.refl _ _

theorem execSeverityAck_framed (p : Nat) (s : State) :
    Framed (setOf [.free, .seq, .commands, .errorLog, .msix, .intr, .twk, .link, .sent]) (setOf []) s (execSeverityAck p s) := by
  unfold execSeverityAck
  refine liveDev_framed (by decide) _ ?_
  refine onMsg_tame (by decide) (fun _ _ _ => ?_) ?_
  · refine Dev.tame_ite ?_ ?_
    · assumption
    · dsimp only
      refine Dev.tame_ite ?_ ?_
      · refine Dev.onLink_tame (by decide) ?_ ..
        assumption
      · refine Dev.severityEnd_tame (by decide) ?_ ..
        refine Dev.onLink_tame (by decide) ?_ ..
        assumption
  · exact Dev.Tame.refl _ _

theorem execSeverityTimeout_framed (s : State) :
    Framed (setOf [.clk, .free, .seq, .commands, .errorLog, .msix, .intr, .twk, .sid, .link, .sent]) (setOf []) s (execSeverityTimeout s) := by
  unfold execSeverityTimeout
  refine liveDev_framed (by decide) _ ?_
  refine Dev.tame_onlyIf ?_ ?_
  · exact Dev.Tame.refl _ _
  · refine Dev.severityEnd_tame (by decide) ?_ ..
    refine Dev.advanceTo_tame (by decide) ?_ ..
    exact Dev.Tame.refl _ _

theorem execFault_framed (p : Nat) (s : State) :
    Framed (setOf [.free, .seq, .stats, .commands, .events, .msix, .intr, .twk, .bbx, .link, .sent]) (setOf []) s (execFault p s) := by
  unfold execFault
  refine liveDev_framed (by decide) _ ?_
  refine onMsg_tame (by decide) (fun _ _ _ => ?_) ?_
  · refine Dev.tame_onlyIf ?_ ?_
    · assumption
    · dsimp only
      refine Dev.tame_ite ?_ ?_
      · refine Dev.onLink_tame (by decide) ?_ ..
        refine Dev.sendMsg_tame (by decide) ?_ ..
        refine Dev.tame_ite ?_ ?_
        · refine Dev.postEvent_tame (by decide) ?_ ..
          refine Dev.bbxPut_tame (by decide) ?_ ..
          assumption
        · refine Dev.tame_ite ?_ ?_
          · refine Dev.postEvent_tame (by decide) ?_ ..
            refine Dev.bbxPut_tame (by decide) ?_ ..
            assumption
          · refine Dev.bbxPut_tame (by decide) ?_ ..
            assumption
      · refine Dev.tame_ite ?_ ?_
        · refine Dev.postEvent_tame (by decide) ?_ ..
          refine Dev.bbxPut_tame (by decide) ?_ ..
          assumption
        · refine Dev.tame_ite ?_ ?_
          · refine Dev.postEvent_tame (by decide) ?_ ..
            refine Dev.bbxPut_tame (by decide) ?_ ..
            assumption
          · refine Dev.bbxPut_tame (by decide) ?_ ..
            assumption
  · exact Dev.Tame.refl _ _

theorem execFfRead_framed (p : Nat) (s : State) :
    Framed (setOf [.free, .stats, .msix, .intr, .twk, .link, .sent]) (setOf []) s (execFfRead p s) := by
  unfold execFfRead
  refine live_framed (by decide) _ ?_ ?_
  · split
    · exact Dev.Tame.refl _ _
    · dsimp only
      refine Dev.tame_foldl ?_ (fun _ _ _ => ?_)
      · refine Dev.onLink_tame (by decide) ?_ ..
        exact Dev.Tame.refl _ _
      · refine Dev.sendMsg_tame (by decide) ?_ ..
        assumption
  · split
    · exact Mem.Tame.refl _ _
    · dsimp only
      exact Mem.Tame.refl _ _

theorem execFfData_framed (p : Nat) (s : State) :
    Framed (setOf [.free, .msix, .intr, .twk, .bbx, .link, .sent]) (setOf []) s (execFfData p s) := by
  unfold execFfData
  refine liveDev_framed (by decide) _ ?_
  refine onMsg_tame (by decide) (fun _ _ _ => ?_) ?_
  · dsimp only
    refine Dev.tame_foldl ?_ (fun _ _ _ => ?_)
    · assumption
    · refine Dev.bbxPut_tame (by decide) ?_ ..
      assumption
  · exact Dev.Tame.refl _ _

theorem execRelayEnable_framed (e v : Nat) (s : State) :
    Framed (setOf [.free, .seq, .stats, .commands, .errorLog, .msix, .intr, .twk, .link, .sent, .feat 0x22]) (setOf []) s (execRelayEnable e v s) := by
  unfold execRelayEnable
  refine liveDev_framed (by decide) _ ?_
  refine Dev.tame_onlyIf ?_ ?_
  · exact Dev.Tame.refl _ _
  · refine Dev.relayWrite_tame (by decide) ?_ ..
    exact Dev.Tame.refl _ _

theorem execRelayAdmit_framed (p : Nat) (s : State) :
    Framed (setOf [.free, .stats, .msix, .intr, .twk, .link, .sent]) (setOf []) s (execRelayAdmit p s) := by
  unfold execRelayAdmit
  refine liveDev_framed (by decide) _ ?_
  refine onMsg_tame (by decide) (fun _ _ _ => ?_) ?_
  · refine Dev.tame_onlyIf ?_ ?_
    · assumption
    · dsimp only
      refine Dev.sendMsg_tame (by decide) ?_ ..
      refine Dev.onLink_tame (by decide) ?_ ..
      assumption
  · exact Dev.Tame.refl _ _

theorem execRelayGrant_framed (p : Nat) (s : State) :
    Framed (setOf [.free, .seq, .commands, .errorLog, .admission, .msix, .intr, .twk, .bbx, .link, .sent, .feat 0x22]) (setOf []) s (execRelayGrant p s) := by
  unfold execRelayGrant
  refine liveDev_framed (by decide) _ ?_
  refine onMsg_tame (by decide) (fun _ _ _ => ?_) ?_
  · dsimp only
    split
    · refine Dev.tame_ite ?_ ?_
      · refine Dev.tame_ite ?_ ?_
        · refine Dev.setBit_tame (by decide) ?_
          refine Dev.onLink_tame (by decide) ?_ ..
          assumption
        · refine Dev.complete_tame (by decide) ?_ ..
          refine Dev.setBit_tame (by decide) ?_
          refine Dev.onLink_tame (by decide) ?_ ..
          assumption
      · refine Dev.complete_tame (by decide) ?_ ..
        refine Dev.noteDenied_tame (by decide) ?_ ..
        refine Dev.setBit_tame (by decide) ?_
        refine Dev.onLink_tame (by decide) ?_ ..
        assumption
    · refine Dev.tame_ite ?_ ?_
      · assumption
      · refine Dev.record_tame (by decide) ?_ ..
        refine Dev.setBit_tame (by decide) ?_
        assumption
  · exact Dev.Tame.refl _ _

theorem execTimeFlitSend_framed (p : Nat) (s : State) :
    Framed (setOf [.clk, .free, .stats, .msix, .intr, .twk, .sid, .link, .sent]) (setOf []) s (execTimeFlitSend p s) := by
  unfold execTimeFlitSend
  refine liveDev_framed (by decide) _ ?_
  refine Dev.tame_onlyIf ?_ ?_
  · exact Dev.Tame.refl _ _
  · dsimp only
    refine Dev.timeFlit_tame (by decide) ?_ ..
    refine Dev.onPort_tame (by decide) ?_ ..
    refine Dev.advanceTo_tame (by decide) ?_ ..
    exact Dev.Tame.refl _ _

theorem execSync_framed (p : Nat) (s : State) :
    Framed (setOf [.free, .stats, .msix, .intr, .twk, .link, .sent]) (setOf []) s (execSync p s) := by
  unfold execSync
  refine liveDev_framed (by decide) _ ?_
  refine onMsg_tame (by decide) (fun _ _ _ => ?_) ?_
  · refine Dev.tame_onlyIf ?_ ?_
    · assumption
    · refine Dev.timeFlit_tame (by decide) ?_ ..
      refine Dev.onPort_tame (by decide) ?_ ..
      assumption
  · exact Dev.Tame.refl _ _

theorem execReq_framed (p : Nat) (s : State) :
    Framed (setOf [.free, .stats, .msix, .intr, .twk, .link, .sent]) (setOf []) s (execReq p s) := by
  unfold execReq
  refine liveDev_framed (by decide) _ ?_
  refine onMsg_tame (by decide) (fun _ _ _ => ?_) ?_
  · refine Dev.tame_onlyIf ?_ ?_
    · assumption
    · refine Dev.timeFlit_tame (by decide) ?_ ..
      assumption
  · exact Dev.Tame.refl _ _

theorem execResp_framed (p : Nat) (s : State) :
    Framed (setOf [.free, .seq, .commands, .events, .msix, .intr, .twk, .bbx, .sid, .tick, .link, .sent, .feat 0x01]) (setOf []) s (execResp p s) := by
  unfold execResp
  refine liveDev_framed (by decide) _ ?_
  refine onMsg_tame (by decide) (fun _ _ _ => ?_) ?_
  · refine Dev.tame_onlyIf ?_ ?_
    · assumption
    · dsimp only
      refine Dev.tame_ite ?_ ?_
      · refine Dev.measure_tame (by decide) ?_ ..
        refine Dev.onLink_tame (by decide) ?_ ..
        assumption
      · refine Dev.onLink_tame (by decide) ?_ ..
        assumption
  · exact Dev.Tame.refl _ _

end Sys2Proof.Machine
end

