-- ==== Sys2Proof/Laws/ExecMemory.lean ====
section
/-! SUPPORT. What each command of Machine/Memory.lean may change, and where it stops. -/

namespace Sys2Proof.Machine
open Sys2Proof

theorem execDramScrub_framed (c : Nat) (found : List (Nat × Bool)) (s : State) :
    Framed (setOf [.clk, .free, .seq, .stats, .commands, .events, .msix, .flt, .intr, .twk, .bbx, .sid, .link, .dram, .sent, .feat 0x1E]) (setOf []) s (execDramScrub c found s) := by
  unfold execDramScrub
  refine liveDev_framed (by decide) _ ?_
  refine Dev.tame_onlyIf ?_ ?_
  · exact Dev.Tame.refl _ _
  · dsimp only
    refine Dev.eccFound_tame (by decide) ?_ ..
    refine Dev.onDram_tame (by decide) ?_ ..
    refine Dev.advanceTo_tame (by decide) ?_ ..
    exact Dev.Tame.refl _ _

theorem execMr4Read_framed (c : Nat) (codes : List Nat) (s : State) :
    Framed (setOf [.clk, .free, .seq, .stats, .commands, .events, .msix, .flt, .intr, .twk, .bbx, .sid, .link, .dram, .sent]) (setOf []) s (execMr4Read c codes s) := by
  unfold execMr4Read
  refine liveDev_framed (by decide) _ ?_
  refine Dev.tame_onlyIf ?_ ?_
  · exact Dev.Tame.refl _ _
  · dsimp only
    refine Dev.tame_ite ?_ ?_
    · refine Dev.raise_tame (by decide) ?_ ..
      refine Dev.onFlt_tame (by decide) ?_ ..
      refine Dev.onDram_tame (by decide) ?_ ..
      refine Dev.advanceTo_tame (by decide) ?_ ..
      exact Dev.Tame.refl _ _
    · refine Dev.onFlt_tame (by decide) ?_ ..
      refine Dev.onDram_tame (by decide) ?_ ..
      refine Dev.advanceTo_tame (by decide) ?_ ..
      exact Dev.Tame.refl _ _

end Sys2Proof.Machine
end

