-- ==== Sys2Proof/Laws/ExecMount.lean ====
section
/-! SUPPORT. What each command of Machine/Mount.lean may change, and where it stops. -/

namespace Sys2Proof.Machine
open Sys2Proof

theorem execMagMount_framed (sq cid : Nat) (found : List (Nat × Nat × Nat × Nat)) (s : State) :
    Framed (setOf [.clk, .free, .seq, .stats, .commands, .events, .errorLog, .admission, .msix, .flt, .intr, .twk, .bbx, .sid, .link, .pools, .pins, .mags, .sent, .feat 0x1C, .feat 0x1D]) (setOf [.carriers]) s (execMagMount sq cid found s) := by
  unfold execMagMount
  refine live_framed (by decide) _ ?_ ?_
  · refine runCmd_tame_dev (fun _ => ?_) ?_
    · dsimp only
      refine Mach.tame_ite_dev ?_ ?_
      · refine Mach.refuse_tame_dev (by decide) ?_ ..
        exact Dev.Tame.refl _ _
      · refine Mach.tame_ite_dev ?_ ?_
        · refine Mach.complete_tame_dev (by decide) ?_ ..
          exact Dev.Tame.refl _ _
        · refine Mach.tame_ite_dev ?_ ?_
          · refine Mach.tame_ite_dev ?_ ?_
            · refine Mach.complete_tame_dev (by decide) ?_ ..
              exact Dev.Tame.refl _ _
            · refine Mach.deny_tame_dev (by decide) ?_ ..
              exact Dev.Tame.refl _ _
          · split
            · refine Mach.refuseMount_tame_dev (by decide) ?_ ..
              refine Mach.dev_of_snd (by assumption) ?_
              refine Mach.magIdentify_tame_dev (by decide) ?_ ..
              exact Dev.Tame.refl _ _
            · refine Mach.tame_ite_dev ?_ ?_
              · refine Mach.refuseMount_tame_dev (by decide) ?_ ..
                refine Mach.dev_of_snd (by assumption) ?_
                refine Mach.magIdentify_tame_dev (by decide) ?_ ..
                exact Dev.Tame.refl _ _
              · split
                · refine Mach.refuseMount_tame_dev (by decide) ?_ ..
                  refine Mach.dev_of_snd (by assumption) ?_
                  refine Mach.magIdentify_tame_dev (by decide) ?_ ..
                  exact Dev.Tame.refl _ _
                · refine Mach.complete_tame_dev (by decide) ?_ ..
                  refine Mach.mountVolume_tame_dev (by decide) ?_ (by assumption)
                  refine Mach.dev_of_snd (by assumption) ?_
                  refine Mach.magIdentify_tame_dev (by decide) ?_ ..
                  exact Dev.Tame.refl _ _
    · exact Dev.Tame.refl _ _
  · refine runCmd_tame_mem (fun _ => ?_) ?_
    · dsimp only
      refine Mach.tame_ite_mem ?_ ?_
      · refine Mach.refuse_tame_mem (by decide) ?_ ..
        exact Mem.Tame.refl _ _
      · refine Mach.tame_ite_mem ?_ ?_
        · refine Mach.complete_tame_mem (by decide) ?_ ..
          exact Mem.Tame.refl _ _
        · refine Mach.tame_ite_mem ?_ ?_
          · refine Mach.tame_ite_mem ?_ ?_
            · refine Mach.complete_tame_mem (by decide) ?_ ..
              exact Mem.Tame.refl _ _
            · refine Mach.deny_tame_mem (by decide) ?_ ..
              exact Mem.Tame.refl _ _
          · split
            · refine Mach.refuseMount_tame_mem (by decide) ?_ ..
              refine Mach.mem_of_snd (by assumption) ?_
              refine Mach.magIdentify_tame_mem (by decide) ?_ ..
              exact Mem.Tame.refl _ _
            · refine Mach.tame_ite_mem ?_ ?_
              · refine Mach.refuseMount_tame_mem (by decide) ?_ ..
                refine Mach.mem_of_snd (by assumption) ?_
                refine Mach.magIdentify_tame_mem (by decide) ?_ ..
                exact Mem.Tame.refl _ _
              · split
                · refine Mach.refuseMount_tame_mem (by decide) ?_ ..
                  refine Mach.mem_of_snd (by assumption) ?_
                  refine Mach.magIdentify_tame_mem (by decide) ?_ ..
                  exact Mem.Tame.refl _ _
                · refine Mach.complete_tame_mem (by decide) ?_ ..
                  refine Mach.mountVolume_tame_mem (by decide) ?_ (by assumption)
                  refine Mach.mem_of_snd (by assumption) ?_
                  refine Mach.magIdentify_tame_mem (by decide) ?_ ..
                  exact Mem.Tame.refl _ _
    · exact Mem.Tame.refl _ _

theorem execMagUnmount_framed (sq cid : Nat) (s : State) :
    Framed (setOf [.free, .seq, .stats, .commands, .errorLog, .admission, .msix, .flt, .intr, .twk, .pools, .pins, .mags, .sent, .feat 0x1D]) (setOf [.carriers]) s (execMagUnmount sq cid s) := by
  unfold execMagUnmount
  refine live_framed (by decide) _ ?_ ?_
  · refine runCmd_tame_dev (fun _ => ?_) ?_
    · dsimp only
      refine Mach.tame_ite_dev ?_ ?_
      · refine Mach.refuse_tame_dev (by decide) ?_ ..
        exact Dev.Tame.refl _ _
      · refine Mach.tame_ite_dev ?_ ?_
        · refine Mach.complete_tame_dev (by decide) ?_ ..
          exact Dev.Tame.refl _ _
        · refine Mach.tame_ite_dev ?_ ?_
          · refine Mach.deny_tame_dev (by decide) ?_ ..
            exact Dev.Tame.refl _ _
          · refine Mach.complete_tame_dev (by decide) ?_ ..
            refine Mach.tame_mk_dev ?_
            refine Dev.magOff_tame (by decide) ?_ ..
            refine Mach.checkpoint_tame_dev (by decide) ?_ ..
            exact Dev.Tame.refl _ _
    · exact Dev.Tame.refl _ _
  · refine runCmd_tame_mem (fun _ => ?_) ?_
    · dsimp only
      refine Mach.tame_ite_mem ?_ ?_
      · refine Mach.refuse_tame_mem (by decide) ?_ ..
        exact Mem.Tame.refl _ _
      · refine Mach.tame_ite_mem ?_ ?_
        · refine Mach.complete_tame_mem (by decide) ?_ ..
          exact Mem.Tame.refl _ _
        · refine Mach.tame_ite_mem ?_ ?_
          · refine Mach.deny_tame_mem (by decide) ?_ ..
            exact Mem.Tame.refl _ _
          · refine Mach.complete_tame_mem (by decide) ?_ ..
            refine Mach.tame_mk_mem ?_
            refine Mach.checkpoint_tame_mem (by decide) ?_ ..
            exact Mem.Tame.refl _ _
    · exact Mem.Tame.refl _ _

theorem execMagFormat_framed (sq cid : Nat) (s : State) :
    Framed (setOf [.clk, .free, .seq, .stats, .commands, .events, .errorLog, .admission, .msix, .flt, .intr, .twk, .bbx, .sid, .link, .pools, .pins, .mags, .sent, .feat 0x1D]) (setOf [.carriers]) s (execMagFormat sq cid s) := by
  unfold execMagFormat
  refine live_framed (by decide) _ ?_ ?_
  · refine runCmd_tame_dev (fun _ => ?_) ?_
    · dsimp only
      refine Mach.tame_ite_dev ?_ ?_
      · refine Mach.refuse_tame_dev (by decide) ?_ ..
        exact Dev.Tame.refl _ _
      · refine Mach.tame_ite_dev ?_ ?_
        · refine Mach.refuse_tame_dev (by decide) ?_ ..
          exact Dev.Tame.refl _ _
        · refine Mach.tame_ite_dev ?_ ?_
          · refine Mach.refuse_tame_dev (by decide) ?_ ..
            exact Dev.Tame.refl _ _
          · refine Mach.tame_ite_dev ?_ ?_
            · refine Mach.deny_tame_dev (by decide) ?_ ..
              exact Dev.Tame.refl _ _
            · refine Mach.tame_ite_dev ?_ ?_
              · refine Mach.complete_tame_dev (by decide) ?_ ..
                exact Dev.Tame.refl _ _
              · split
                · refine Mach.refuseMount_tame_dev (by decide) ?_ ..
                  refine Mach.dev_of_snd (by assumption) ?_
                  refine Mach.magIdentify_tame_dev (by decide) ?_ ..
                  exact Dev.Tame.refl _ _
                · refine Mach.tame_ite_dev ?_ ?_
                  · refine Mach.refuseMount_tame_dev (by decide) ?_ ..
                    refine Mach.dev_of_snd (by assumption) ?_
                    refine Mach.magIdentify_tame_dev (by decide) ?_ ..
                    exact Dev.Tame.refl _ _
                  · split
                    · refine Mach.refuseMount_tame_dev (by decide) ?_ ..
                      refine Mach.dev_of_snd (by assumption) ?_
                      refine Mach.magIdentify_tame_dev (by decide) ?_ ..
                      exact Dev.Tame.refl _ _
                    · refine Mach.tame_ite_dev ?_ ?_
                      · refine Mach.refuseMount_tame_dev (by decide) ?_ ..
                        refine Mach.dev_of_snd (by assumption) ?_
                        refine Mach.magIdentify_tame_dev (by decide) ?_ ..
                        exact Dev.Tame.refl _ _
                      · refine Mach.complete_tame_dev (by decide) ?_ ..
                        refine Mach.checkpoint_tame_dev (by decide) ?_ ..
                        refine Mach.tame_mk_dev ?_
                        refine Dev.onMag_tame (by decide) ?_ ..
                        refine Dev.stamped_tame (by decide) ?_ ..
                        refine Dev.afterDraw_tame (by decide) ?_ ..
                        refine Dev.afterDraw_tame (by decide) ?_ ..
                        refine Mach.dev_of_snd (by assumption) ?_
                        refine Mach.magIdentify_tame_dev (by decide) ?_ ..
                        exact Dev.Tame.refl _ _
    · exact Dev.Tame.refl _ _
  · refine runCmd_tame_mem (fun _ => ?_) ?_
    · dsimp only
      refine Mach.tame_ite_mem ?_ ?_
      · refine Mach.refuse_tame_mem (by decide) ?_ ..
        exact Mem.Tame.refl _ _
      · refine Mach.tame_ite_mem ?_ ?_
        · refine Mach.refuse_tame_mem (by decide) ?_ ..
          exact Mem.Tame.refl _ _
        · refine Mach.tame_ite_mem ?_ ?_
          · refine Mach.refuse_tame_mem (by decide) ?_ ..
            exact Mem.Tame.refl _ _
          · refine Mach.tame_ite_mem ?_ ?_
            · refine Mach.deny_tame_mem (by decide) ?_ ..
              exact Mem.Tame.refl _ _
            · refine Mach.tame_ite_mem ?_ ?_
              · refine Mach.complete_tame_mem (by decide) ?_ ..
                exact Mem.Tame.refl _ _
              · split
                · refine Mach.refuseMount_tame_mem (by decide) ?_ ..
                  refine Mach.mem_of_snd (by assumption) ?_
                  refine Mach.magIdentify_tame_mem (by decide) ?_ ..
                  exact Mem.Tame.refl _ _
                · refine Mach.tame_ite_mem ?_ ?_
                  · refine Mach.refuseMount_tame_mem (by decide) ?_ ..
                    refine Mach.mem_of_snd (by assumption) ?_
                    refine Mach.magIdentify_tame_mem (by decide) ?_ ..
                    exact Mem.Tame.refl _ _
                  · split
                    · refine Mach.refuseMount_tame_mem (by decide) ?_ ..
                      refine Mach.mem_of_snd (by assumption) ?_
                      refine Mach.magIdentify_tame_mem (by decide) ?_ ..
                      exact Mem.Tame.refl _ _
                    · refine Mach.tame_ite_mem ?_ ?_
                      · refine Mach.refuseMount_tame_mem (by decide) ?_ ..
                        refine Mach.mem_of_snd (by assumption) ?_
                        refine Mach.magIdentify_tame_mem (by decide) ?_ ..
                        exact Mem.Tame.refl _ _
                      · refine Mach.complete_tame_mem (by decide) ?_ ..
                        refine Mach.checkpoint_tame_mem (by decide) ?_ ..
                        refine Mach.tame_mk_mem ?_
                        refine Mem.putCarrier_tame (by decide) ?_ ..
                        refine Mach.mem_of_snd (by assumption) ?_
                        refine Mach.magIdentify_tame_mem (by decide) ?_ ..
                        exact Mem.Tame.refl _ _
    · exact Mem.Tame.refl _ _

theorem execMagScan_framed (sq cid : Nat) (found : List (Nat × Nat × Nat × Nat)) (s : State) :
    Framed (setOf [.free, .seq, .stats, .commands, .events, .errorLog, .msix, .flt, .intr, .twk, .bbx, .link, .mags, .sent, .feat 0x1C, .feat 0x1D]) (setOf [.carriers]) s (execMagScan sq cid found s) := by
  unfold execMagScan
  refine live_framed (by decide) _ ?_ ?_
  · refine runCmd_tame_dev (fun _ => ?_) ?_
    · dsimp only
      refine Mach.tame_ite_dev ?_ ?_
      · refine Mach.refuse_tame_dev (by decide) ?_ ..
        exact Dev.Tame.refl _ _
      · refine Mach.tame_ite_dev ?_ ?_
        · refine Mach.complete_tame_dev (by decide) ?_ ..
          exact Dev.Tame.refl _ _
        · refine Mach.tame_ite_dev ?_ ?_
          · refine Mach.complete_tame_dev (by decide) ?_ ..
            refine Mach.scanPages_tame_dev (by decide) ?_ ..
            exact Dev.Tame.refl _ _
          · refine Mach.complete_tame_dev (by decide) ?_ ..
            refine Mach.relocateDue_tame_dev (by decide) ?_ ..
            refine Mach.scanPages_tame_dev (by decide) ?_ ..
            exact Dev.Tame.refl _ _
    · exact Dev.Tame.refl _ _
  · refine runCmd_tame_mem (fun _ => ?_) ?_
    · dsimp only
      refine Mach.tame_ite_mem ?_ ?_
      · refine Mach.refuse_tame_mem (by decide) ?_ ..
        exact Mem.Tame.refl _ _
      · refine Mach.tame_ite_mem ?_ ?_
        · refine Mach.complete_tame_mem (by decide) ?_ ..
          exact Mem.Tame.refl _ _
        · refine Mach.tame_ite_mem ?_ ?_
          · refine Mach.complete_tame_mem (by decide) ?_ ..
            refine Mach.scanPages_tame_mem (by decide) ?_ ..
            exact Mem.Tame.refl _ _
          · refine Mach.complete_tame_mem (by decide) ?_ ..
            refine Mach.relocateDue_tame_mem (by decide) ?_ ..
            refine Mach.scanPages_tame_mem (by decide) ?_ ..
            exact Mem.Tame.refl _ _
    · exact Mem.Tame.refl _ _

theorem execReadUnits_framed (sq cid : Nat) (steps : List Nat) (s : State) :
    Framed (setOf [.free, .seq, .stats, .commands, .events, .errorLog, .msix, .flt, .intr, .twk, .bbx, .link, .mags, .sent, .feat 0x1C, .feat 0x1D]) (setOf [.hostMem]) s (execReadUnits sq cid steps s) := by
  unfold execReadUnits
  refine live_framed (by decide) _ ?_ ?_
  · refine runCmd_tame_dev (fun _ => ?_) ?_
    · dsimp only
      refine Mach.tame_ite_dev ?_ ?_
      · refine Mach.complete_tame_dev (by decide) ?_ ..
        exact Dev.Tame.refl _ _
      · refine Mach.tame_ite_dev ?_ ?_
        · refine Mach.refuse_tame_dev (by decide) ?_ ..
          exact Dev.Tame.refl _ _
        · refine Mach.tame_ite_dev ?_ ?_
          · refine Mach.refuse_tame_dev (by decide) ?_ ..
            exact Dev.Tame.refl _ _
          · refine Mach.tame_ite_dev ?_ ?_
            · refine Mach.refuse_tame_dev (by decide) ?_ ..
              exact Dev.Tame.refl _ _
            · refine Mach.complete_tame_dev (by decide) ?_ ..
              refine Mach.tame_mk_dev ?_
              refine Dev.tame_foldl ?_ (fun _ _ _ => ?_)
              · refine Dev.tame_free (by decide) ?_
                exact Dev.Tame.refl _ _
              · refine Dev.codewordEnd_tame (by decide) ?_ ..
                assumption
    · exact Dev.Tame.refl _ _
  · refine runCmd_tame_mem (fun _ => ?_) ?_
    · dsimp only
      refine Mach.tame_ite_mem ?_ ?_
      · refine Mach.complete_tame_mem (by decide) ?_ ..
        exact Mem.Tame.refl _ _
      · refine Mach.tame_ite_mem ?_ ?_
        · refine Mach.refuse_tame_mem (by decide) ?_ ..
          exact Mem.Tame.refl _ _
        · refine Mach.tame_ite_mem ?_ ?_
          · refine Mach.refuse_tame_mem (by decide) ?_ ..
            exact Mem.Tame.refl _ _
          · refine Mach.tame_ite_mem ?_ ?_
            · refine Mach.refuse_tame_mem (by decide) ?_ ..
              exact Mem.Tame.refl _ _
            · refine Mach.complete_tame_mem (by decide) ?_ ..
              refine Mach.tame_mk_mem ?_
              refine Mem.dataOut_tame (by decide) ?_ ..
              exact Mem.Tame.refl _ _
    · exact Mem.Tame.refl _ _

end Sys2Proof.Machine
end

