-- ==== Sys2Proof/Laws/ExecPlayback.lean ====
section
/-! SUPPORT. What each command of Machine/Playback.lean may change, and where it stops. -/

namespace Sys2Proof.Machine
open Sys2Proof

theorem execPlaybackDecode_framed (sq cid : Nat) (s : State) :
    Framed (setOf [.free, .seq, .cqs, .commands, .errorLog, .msix, .intr, .twk, .codec, .sent, .feat 0x16]) (setOf [.hostMem]) s (execPlaybackDecode sq cid s) := by
  unfold execPlaybackDecode
  refine live_framed (by decide) _ ?_ ?_
  · refine runCmd_tame_dev (fun _ => ?_) ?_
    · dsimp only
      refine Mach.tame_ite_dev ?_ ?_
      · exact Dev.Tame.refl _ _
      · refine Mach.tame_ite_dev ?_ ?_
        · refine Mach.refuse_tame_dev (by decide) ?_ ..
          exact Dev.Tame.refl _ _
        · refine Mach.tame_ite_dev ?_ ?_
          · refine Mach.refuse_tame_dev (by decide) ?_ ..
            exact Dev.Tame.refl _ _
          · refine Mach.tame_ite_dev ?_ ?_
            · refine Mach.refuse_tame_dev (by decide) ?_ ..
              exact Dev.Tame.refl _ _
            · refine Mach.tame_ite_dev ?_ ?_
              · refine Mach.refuse_tame_dev (by decide) ?_ ..
                exact Dev.Tame.refl _ _
              · refine Mach.tame_ite_dev ?_ ?_
                · refine onDev_tame_dev ?_
                  refine Dev.playPump_tame (by decide) ?_ ..
                  refine Mach.runPlay_tame_dev (by decide) ?_ ..
                  refine Mach.tame_mk_dev ?_
                  refine Dev.onCodec_tame (by decide) ?_ ..
                  refine Dev.keepRunning_tame (by decide) ?_ ..
                  exact Dev.Tame.refl _ _
                · refine Mach.tame_ite_dev ?_ ?_
                  · refine Mach.complete_tame_dev (by decide) ?_ ..
                    exact Dev.Tame.refl _ _
                  · split
                    · refine Mach.refuse_tame_dev (by decide) ?_ ..
                      exact Dev.Tame.refl _ _
                    · refine Mach.tame_ite_dev ?_ ?_
                      · refine Mach.refuse_tame_dev (by decide) ?_ ..
                        exact Dev.Tame.refl _ _
                      · refine Mach.tame_ite_dev ?_ ?_
                        · refine Mach.refuse_tame_dev (by decide) ?_ ..
                          exact Dev.Tame.refl _ _
                        · refine Mach.tame_ite_dev ?_ ?_
                          · refine Mach.refuse_tame_dev (by decide) ?_ ..
                            exact Dev.Tame.refl _ _
                          · refine onDev_tame_dev ?_
                            refine Dev.playPump_tame (by decide) ?_ ..
                            refine Mach.runPlay_tame_dev (by decide) ?_ ..
                            refine Mach.tame_mk_dev ?_
                            refine Dev.onCodec_tame (by decide) ?_ ..
                            refine Dev.keepRunning_tame (by decide) ?_ ..
                            exact Dev.Tame.refl _ _
    · exact Dev.Tame.refl _ _
  · refine runCmd_tame_mem (fun _ => ?_) ?_
    · dsimp only
      refine Mach.tame_ite_mem ?_ ?_
      · exact Mem.Tame.refl _ _
      · refine Mach.tame_ite_mem ?_ ?_
        · refine Mach.refuse_tame_mem (by decide) ?_ ..
          exact Mem.Tame.refl _ _
        · refine Mach.tame_ite_mem ?_ ?_
          · refine Mach.refuse_tame_mem (by decide) ?_ ..
            exact Mem.Tame.refl _ _
          · refine Mach.tame_ite_mem ?_ ?_
            · refine Mach.refuse_tame_mem (by decide) ?_ ..
              exact Mem.Tame.refl _ _
            · refine Mach.tame_ite_mem ?_ ?_
              · refine Mach.refuse_tame_mem (by decide) ?_ ..
                exact Mem.Tame.refl _ _
              · refine Mach.tame_ite_mem ?_ ?_
                · refine onDev_tame_mem ?_
                  refine Mach.runPlay_tame_mem (by decide) ?_ ..
                  refine Mach.tame_mk_mem ?_
                  exact Mem.Tame.refl _ _
                · refine Mach.tame_ite_mem ?_ ?_
                  · refine Mach.complete_tame_mem (by decide) ?_ ..
                    exact Mem.Tame.refl _ _
                  · split
                    · refine Mach.refuse_tame_mem (by decide) ?_ ..
                      exact Mem.Tame.refl _ _
                    · refine Mach.tame_ite_mem ?_ ?_
                      · refine Mach.refuse_tame_mem (by decide) ?_ ..
                        exact Mem.Tame.refl _ _
                      · refine Mach.tame_ite_mem ?_ ?_
                        · refine Mach.refuse_tame_mem (by decide) ?_ ..
                          exact Mem.Tame.refl _ _
                        · refine Mach.tame_ite_mem ?_ ?_
                          · refine Mach.refuse_tame_mem (by decide) ?_ ..
                            exact Mem.Tame.refl _ _
                          · refine onDev_tame_mem ?_
                            refine Mach.runPlay_tame_mem (by decide) ?_ ..
                            refine Mach.tame_mk_mem ?_
                            exact Mem.Tame.refl _ _
    · exact Mem.Tame.refl _ _

theorem execPlaybackBand_framed (e dt : Nat) (s : State) :
    Framed (setOf [.clk, .free, .seq, .cqs, .commands, .errorLog, .msix, .intr, .twk, .sid, .codec, .sent, .feat 0x16]) (setOf [.hostMem]) s (execPlaybackBand e dt s) := by
  unfold execPlaybackBand
  refine live_framed (by decide) _ ?_ ?_
  · refine Mach.tame_ite_dev ?_ ?_
    · exact Dev.Tame.refl _ _
    · dsimp only
      split
      · refine Mach.tame_mk_dev ?_
        refine Dev.advance_tame (by decide) ?_ ..
        exact Dev.Tame.refl _ _
      · refine onDev_tame_dev ?_
        refine Dev.playPump_tame (by decide) ?_ ..
        refine Mach.runPlay_tame_dev (by decide) ?_ ..
        refine Mach.tame_mk_dev ?_
        refine Dev.onPlay_tame (by decide) ?_ ..
        refine Dev.onMir_tame (by decide) ?_ ..
        refine Dev.bump_tame (by decide) ?_
        refine Dev.advance_tame (by decide) ?_ ..
        exact Dev.Tame.refl _ _
  · refine Mach.tame_ite_mem ?_ ?_
    · exact Mem.Tame.refl _ _
    · dsimp only
      split
      · refine Mach.tame_mk_mem ?_
        exact Mem.Tame.refl _ _
      · refine onDev_tame_mem ?_
        refine Mach.runPlay_tame_mem (by decide) ?_ ..
        refine Mach.tame_mk_mem ?_
        exact Mem.Tame.refl _ _

end Sys2Proof.Machine
end

