-- ==== Sys2Proof/Laws/ExecPools.lean ====
section
/-! SUPPORT. What each command of Machine/Pools.lean may change, and where it stops. -/

namespace Sys2Proof.Machine
open Sys2Proof

theorem execPoolRequest_framed (size cls owner port dests : Nat) (s : State) :
    Framed (setOf [.free, .seq, .stats, .commands, .events, .msix, .flt, .intr, .twk, .bbx, .link, .pools, .sent, .feat 0x1B]) (setOf []) s (execPoolRequest size cls owner port dests s) := by
  unfold execPoolRequest
  refine liveDev_framed (by decide) _ ?_
  refine Dev.tame_onlyIf ?_ ?_
  · exact Dev.Tame.refl _ _
  · split
    · exact Dev.Tame.refl _ _
    · refine Dev.poolGrant_tame (by decide) ?_ ..
      exact Dev.Tame.refl _ _

theorem execPoolFree_framed (ptr owner port : Nat) (s : State) :
    Framed (setOf [.free, .seq, .stats, .commands, .events, .msix, .flt, .intr, .twk, .bbx, .link, .pools, .sent, .feat 0x1B]) (setOf []) s (execPoolFree ptr owner port s) := by
  unfold execPoolFree
  refine liveDev_framed (by decide) _ ?_
  refine Dev.tame_onlyIf ?_ ?_
  · exact Dev.Tame.refl _ _
  · split
    · refine Dev.badPointer_tame (by decide) ?_ ..
      exact Dev.Tame.refl _ _
    · split
      · dsimp only
        refine Dev.raise_tame (by decide) ?_ ..
        refine Dev.count_tame (by decide) ?_ ..
        refine Dev.poolError_tame (by decide) ?_ ..
        exact Dev.Tame.refl _ _
      · refine Dev.tame_ite ?_ ?_
        · refine Dev.setBuf_tame (by decide) ?_ ..
          exact Dev.Tame.refl _ _
        · dsimp only
          refine Dev.raise_tame (by decide) ?_ ..
          refine Dev.count_tame (by decide) ?_ ..
          refine Dev.poolError_tame (by decide) ?_ ..
          exact Dev.Tame.refl _ _

theorem execAuditEpochEnd_framed (s : State) :
    Framed (setOf [.clk, .free, .seq, .commands, .events, .logs, .msix, .intr, .twk, .sid, .pools, .sent, .feat 0x1B]) (setOf []) s (execAuditEpochEnd s) := by
  unfold execAuditEpochEnd
  refine liveDev_framed (by decide) _ ?_
  refine Dev.tame_onlyIf ?_ ?_
  · exact Dev.Tame.refl _ _
  · dsimp only
    refine Dev.onPools_tame (by decide) ?_ ..
    refine Dev.tame_ite ?_ ?_
    · refine Dev.tame_foldl ?_ (fun _ _ _ => ?_)
      · refine Dev.tame_ite ?_ ?_
        · exact Dev.Tame.refl _ _
        · refine Dev.advanceTo_tame (by decide) ?_ ..
          exact Dev.Tame.refl _ _
      · refine Dev.auditReport_tame (by decide) ?_ ..
        assumption
    · refine Dev.postEvent_tame (by decide) ?_ ..
      refine Dev.tame_foldl ?_ (fun _ _ _ => ?_)
      · refine Dev.tame_ite ?_ ?_
        · exact Dev.Tame.refl _ _
        · refine Dev.advanceTo_tame (by decide) ?_ ..
          exact Dev.Tame.refl _ _
      · refine Dev.auditReport_tame (by decide) ?_ ..
        assumption

theorem execBufReclaim_framed (sq cid : Nat) (s : State) :
    Framed (setOf [.free, .seq, .stats, .commands, .events, .errorLog, .msix, .flt, .intr, .twk, .bbx, .link, .pools, .sent, .feat 0x1B]) (setOf []) s (execBufReclaim sq cid s) := by
  unfold execBufReclaim
  refine live_framed (by decide) _ ?_ ?_
  · refine runCmd_tame_dev (fun _ => ?_) ?_
    · dsimp only
      refine Mach.tame_ite_dev ?_ ?_
      · refine Mach.refuse_tame_dev (by decide) ?_ ..
        exact Dev.Tame.refl _ _
      · split
        · refine Mach.complete_tame_dev (by decide) ?_ ..
          refine Mach.tame_mk_dev ?_
          refine Dev.badPointer_tame (by decide) ?_ ..
          exact Dev.Tame.refl _ _
        · split
          · refine Mach.complete_tame_dev (by decide) ?_ ..
            exact Dev.Tame.refl _ _
          · refine Mach.tame_ite_dev ?_ ?_
            · refine Mach.complete_tame_dev (by decide) ?_ ..
              exact Dev.Tame.refl _ _
            · refine Mach.tame_ite_dev ?_ ?_
              · refine Mach.complete_tame_dev (by decide) ?_ ..
                exact Dev.Tame.refl _ _
              · refine Mach.complete_tame_dev (by decide) ?_ ..
                refine Mach.tame_mk_dev ?_
                refine Dev.setBuf_tame (by decide) ?_ ..
                exact Dev.Tame.refl _ _
    · exact Dev.Tame.refl _ _
  · refine runCmd_tame_mem (fun _ => ?_) ?_
    · dsimp only
      refine Mach.tame_ite_mem ?_ ?_
      · refine Mach.refuse_tame_mem (by decide) ?_ ..
        exact Mem.Tame.refl _ _
      · split
        · refine Mach.complete_tame_mem (by decide) ?_ ..
          refine Mach.tame_mk_mem ?_
          exact Mem.Tame.refl _ _
        · split
          · refine Mach.complete_tame_mem (by decide) ?_ ..
            exact Mem.Tame.refl _ _
          · refine Mach.tame_ite_mem ?_ ?_
            · refine Mach.complete_tame_mem (by decide) ?_ ..
              exact Mem.Tame.refl _ _
            · refine Mach.tame_ite_mem ?_ ?_
              · refine Mach.complete_tame_mem (by decide) ?_ ..
                exact Mem.Tame.refl _ _
              · refine Mach.complete_tame_mem (by decide) ?_ ..
                refine Mach.tame_mk_mem ?_
                exact Mem.Tame.refl _ _
    · exact Mem.Tame.refl _ _

end Sys2Proof.Machine
end

