-- ==== Sys2Proof/Laws/ExecPower.lean ====
section
/-! SUPPORT. What each command of Machine/Power.lean may change, and where it stops. -/

namespace Sys2Proof.Machine
open Sys2Proof

theorem execPowerSetOff_framed (sq cid : Nat) (s : State) :
    Framed (setOf [.free, .seq, .commands, .errorLog, .admission, .msix, .intr, .twk, .power, .sent]) (setOf []) s (execPowerSetOff sq cid s) := by
  unfold execPowerSetOff
  refine live_framed (by decide) _ ?_ ?_
  · refine powerCmd_tame_dev (by decide) (fun _ _ => ?_) ?_
    · refine Mach.tame_ite_dev ?_ ?_
      · refine Mach.complete_tame_dev (by decide) ?_ ..
        exact Dev.Tame.refl _ _
      · refine Mach.tame_ite_dev ?_ ?_
        · refine Mach.deny_tame_dev (by decide) ?_ ..
          exact Dev.Tame.refl _ _
        · dsimp only
          refine Dev.onPower_tame (by decide) ?_ ..
          refine Dev.keepRunning_tame (by decide) ?_ ..
          exact Dev.Tame.refl _ _
    · exact Dev.Tame.refl _ _
  · refine powerCmd_tame_mem (by decide) (fun _ _ => ?_) ?_
    · refine Mach.tame_ite_mem ?_ ?_
      · refine Mach.complete_tame_mem (by decide) ?_ ..
        exact Mem.Tame.refl _ _
      · refine Mach.tame_ite_mem ?_ ?_
        · refine Mach.deny_tame_mem (by decide) ?_ ..
          exact Mem.Tame.refl _ _
        · dsimp only
          exact Mem.Tame.refl _ _
    · exact Mem.Tame.refl _ _

theorem execPowerSetOn_framed (sq cid : Nat) (s : State) :
    Framed (setOf [.free, .seq, .commands, .errorLog, .admission, .msix, .intr, .twk, .power, .sent]) (setOf []) s (execPowerSetOn sq cid s) := by
  unfold execPowerSetOn
  refine live_framed (by decide) _ ?_ ?_
  · refine powerCmd_tame_dev (by decide) (fun _ _ => ?_) ?_
    · dsimp only
      refine Mach.tame_ite_dev ?_ ?_
      · refine Mach.complete_tame_dev (by decide) ?_ ..
        refine Mach.tame_mk_dev ?_
        refine Dev.switchOn_tame (by decide) ?_ ..
        exact Dev.Tame.refl _ _
      · refine Mach.tame_ite_dev ?_ ?_
        · refine Mach.complete_tame_dev (by decide) ?_ ..
          exact Dev.Tame.refl _ _
        · refine Mach.tame_ite_dev ?_ ?_
          · split
            · refine Mach.deny_tame_dev (by decide) ?_ ..
              exact Dev.Tame.refl _ _
            · refine Mach.tame_mk_dev ?_
              refine Dev.onPower_tame (by decide) ?_ ..
              refine Dev.keepRunning_tame (by decide) ?_ ..
              exact Dev.Tame.refl _ _
          · refine Mach.complete_tame_dev (by decide) ?_ ..
            refine Mach.tame_mk_dev ?_
            refine Dev.onPower_tame (by decide) ?_ ..
            exact Dev.Tame.refl _ _
    · exact Dev.Tame.refl _ _
  · refine powerCmd_tame_mem (by decide) (fun _ _ => ?_) ?_
    · dsimp only
      refine Mach.tame_ite_mem ?_ ?_
      · refine Mach.complete_tame_mem (by decide) ?_ ..
        refine Mach.tame_mk_mem ?_
        exact Mem.Tame.refl _ _
      · refine Mach.tame_ite_mem ?_ ?_
        · refine Mach.complete_tame_mem (by decide) ?_ ..
          exact Mem.Tame.refl _ _
        · refine Mach.tame_ite_mem ?_ ?_
          · split
            · refine Mach.deny_tame_mem (by decide) ?_ ..
              exact Mem.Tame.refl _ _
            · refine Mach.tame_mk_mem ?_
              exact Mem.Tame.refl _ _
          · refine Mach.complete_tame_mem (by decide) ?_ ..
            refine Mach.tame_mk_mem ?_
            exact Mem.Tame.refl _ _
    · exact Mem.Tame.refl _ _

theorem execQuiesceDone_framed (k dt : Nat) (s : State) :
    Framed ((setOf [.clk, .free, .seq, .stats, .commands, .events, .errorLog, .msix, .flt, .intr, .twk, .bbx, .sid, .eth, .link, .dma, .power, .prism, .codec, .proxy, .sent, .feat 0x10, .feat 0x22] ||| everyFeat)) (setOf []) s (execQuiesceDone k dt s) := by
  unfold execQuiesceDone
  refine liveDev_framed (by decide) _ ?_
  split
  · exact Dev.Tame.refl _ _
  · refine Dev.tame_ite ?_ ?_
    · exact Dev.Tame.refl _ _
    · refine Dev.endPower_tame (by decide) ?_ ..
      refine Dev.switchOff_tame (by decide) ?_ ..
      refine Dev.advance_tame (by decide) ?_ ..
      exact Dev.Tame.refl _ _

theorem execQuiesceTimeout_framed (k : Nat) (s : State) :
    Framed (setOf [.clk, .free, .seq, .commands, .errorLog, .msix, .intr, .twk, .sid, .power, .sent, .feat 0x20]) (setOf []) s (execQuiesceTimeout k s) := by
  unfold execQuiesceTimeout
  refine liveDev_framed (by decide) _ ?_
  split
  · exact Dev.Tame.refl _ _
  · refine Dev.tame_ite ?_ ?_
    · exact Dev.Tame.refl _ _
    · refine Dev.endPower_tame (by decide) ?_ ..
      refine Dev.bump_tame (by decide) ?_
      refine Dev.advanceTo_tame (by decide) ?_ ..
      exact Dev.Tame.refl _ _

end Sys2Proof.Machine
end

