-- ==== Sys2Proof/Laws/ExecPrism.lean ====
section
/-! SUPPORT. What each command of Machine/Prism.lean may change, and where it stops. -/

namespace Sys2Proof.Machine
open Sys2Proof

theorem execLaneBlock_framed (i slot : Nat) (block : BitVec 34) (s : State) :
    Framed (setOf [.free, .seq, .stats, .commands, .events, .msix, .flt, .intr, .twk, .bbx, .link, .prism, .sent, .feat 0x10]) (setOf []) s (execLaneBlock i slot block s) := by
  unfold execLaneBlock
  refine liveDev_framed (by decide) _ ?_
  refine Dev.tame_onlyIf ?_ ?_
  · exact Dev.Tame.refl _ _
  · refine Dev.laneBlock_tame (by decide) ?_ ..
    exact Dev.Tame.refl _ _

theorem execSof_framed (g vc counter : Nat) (s : State) :
    Framed (setOf [.free, .seq, .stats, .commands, .events, .msix, .flt, .intr, .twk, .bbx, .link, .caps, .prism, .sent, .feat 0x10]) (setOf []) s (execSof g vc counter s) := by
  unfold execSof
  refine liveDev_framed (by decide) _ ?_
  refine Dev.tame_ite ?_ ?_
  · split
    · refine Dev.sofAt_tame (by decide) ?_ ..
      refine Dev.takeGroup_tame (by decide) ?_ (by assumption)
      exact Dev.Tame.refl _ _
    · exact Dev.Tame.refl _ _
  · refine Dev.tame_ite ?_ ?_
    · refine Dev.sofAt_tame (by decide) ?_ ..
      exact Dev.Tame.refl _ _
    · exact Dev.Tame.refl _ _

theorem execSol_framed (g : Nat) (s : State) :
    Framed (setOf [.free, .seq, .stats, .commands, .events, .msix, .flt, .intr, .twk, .bbx, .link, .prism, .sent, .feat 0x10]) (setOf []) s (execSol g s) := by
  unfold execSol
  refine liveDev_framed (by decide) _ ?_
  split
  · exact Dev.Tame.refl _ _
  · dsimp only
    split
    · refine Dev.modSource_tame (by decide) ?_ ..
      refine Dev.takeGroup_tame (by decide) ?_ (by assumption)
      exact Dev.Tame.refl _ _
    · refine Dev.modSource_tame (by decide) ?_ ..
      refine Dev.takeGroup_tame (by decide) ?_ (by assumption)
      exact Dev.Tame.refl _ _
    · refine Dev.prmEvent_tame (by decide) ?_ ..
      refine Dev.modSource_tame (by decide) ?_ ..
      refine Dev.takeGroup_tame (by decide) ?_ (by assumption)
      exact Dev.Tame.refl _ _

theorem execEol_framed (g : Nat) (s : State) :
    Framed (setOf [.free, .seq, .stats, .commands, .events, .msix, .flt, .intr, .twk, .bbx, .link, .pools, .dram, .caps, .prism, .sent, .feat 0x10, .feat 0x1B]) (setOf [.dramMem]) s (execEol g s) := by
  unfold execEol
  refine live_framed (by decide) _ ?_ ?_
  · split
    · exact Dev.Tame.refl _ _
    · split
      · refine Mach.tame_mk_dev ?_
        refine Dev.takeGroup_tame (by decide) ?_ (by assumption)
        exact Dev.Tame.refl _ _
      · dsimp only
        refine Mach.tame_ite_dev ?_ ?_
        · refine Mach.placeLine_tame_dev (by decide) ?_ ..
          refine Mach.tame_mk_dev ?_
          refine Dev.prmEvent_tame (by decide) ?_ ..
          refine Dev.modSource_tame (by decide) ?_ ..
          refine Dev.takeGroup_tame (by decide) ?_ (by assumption)
          exact Dev.Tame.refl _ _
        · refine Mach.tame_ite_dev ?_ ?_
          · refine Mach.placeLine_tame_dev (by decide) ?_ ..
            refine Mach.tame_mk_dev ?_
            refine Dev.prmEvent_tame (by decide) ?_ ..
            refine Dev.modSource_tame (by decide) ?_ ..
            refine Dev.takeGroup_tame (by decide) ?_ (by assumption)
            exact Dev.Tame.refl _ _
          · refine Mach.tame_ite_dev ?_ ?_
            · refine Mach.placeLine_tame_dev (by decide) ?_ ..
              refine Mach.tame_mk_dev ?_
              refine Dev.prmEvent_tame (by decide) ?_ ..
              refine Dev.modSource_tame (by decide) ?_ ..
              refine Dev.takeGroup_tame (by decide) ?_ (by assumption)
              exact Dev.Tame.refl _ _
            · refine Mach.placeLine_tame_dev (by decide) ?_ ..
              refine Mach.tame_mk_dev ?_
              refine Dev.modSource_tame (by decide) ?_ ..
              refine Dev.takeGroup_tame (by decide) ?_ (by assumption)
              exact Dev.Tame.refl _ _
  · split
    · exact Mem.Tame.refl _ _
    · split
      · refine Mach.tame_mk_mem ?_
        exact Mem.Tame.refl _ _
      · dsimp only
        refine Mach.tame_ite_mem ?_ ?_
        · refine Mach.placeLine_tame_mem (by decide) ?_ ..
          refine Mach.tame_mk_mem ?_
          exact Mem.Tame.refl _ _
        · refine Mach.tame_ite_mem ?_ ?_
          · refine Mach.placeLine_tame_mem (by decide) ?_ ..
            refine Mach.tame_mk_mem ?_
            exact Mem.Tame.refl _ _
          · refine Mach.tame_ite_mem ?_ ?_
            · refine Mach.placeLine_tame_mem (by decide) ?_ ..
              refine Mach.tame_mk_mem ?_
              exact Mem.Tame.refl _ _
            · refine Mach.placeLine_tame_mem (by decide) ?_ ..
              refine Mach.tame_mk_mem ?_
              exact Mem.Tame.refl _ _

theorem execEof_framed (g vc : Nat) (s : State) :
    Framed (setOf [.free, .msix, .intr, .twk, .prism, .sent]) (setOf []) s (execEof g vc s) := by
  unfold execEof
  refine liveDev_framed (by decide) _ ?_
  dsimp only
  refine Dev.tame_ite ?_ ?_
  · split
    · refine Dev.modSource_tame (by decide) ?_ ..
      refine Dev.takeGroup_tame (by decide) ?_ (by assumption)
      exact Dev.Tame.refl _ _
    · exact Dev.Tame.refl _ _
  · refine Dev.tame_ite ?_ ?_
    · refine Dev.modSource_tame (by decide) ?_ ..
      exact Dev.Tame.refl _ _
    · exact Dev.Tame.refl _ _

theorem execCsi2LongPacket_framed (g vc dt ecc : Nat) (crcOk : Bool) (payload : List Byte) (s : State) :
    Framed (setOf [.free, .seq, .stats, .commands, .events, .msix, .flt, .intr, .twk, .bbx, .link, .pools, .dram, .caps, .prism, .sent, .feat 0x10, .feat 0x1B]) (setOf [.dramMem]) s (execCsi2LongPacket g vc dt ecc crcOk payload s) := by
  unfold execCsi2LongPacket
  refine live_framed (by decide) _ ?_ ?_
  · dsimp only
    refine Mach.tame_ite_dev ?_ ?_
    · exact Dev.Tame.refl _ _
    · refine Mach.tame_ite_dev ?_ ?_
      · refine Mach.tame_mk_dev ?_
        refine Dev.prmEvent_tame (by decide) ?_ ..
        refine Dev.nextRow_tame (by decide) ?_ ..
        exact Dev.Tame.refl _ _
      · refine Mach.tame_ite_dev ?_ ?_
        · refine Mach.tame_mk_dev ?_
          refine Dev.prmEvent_tame (by decide) ?_ ..
          refine Dev.tame_ite ?_ ?_
          · refine Dev.prmEvent_tame (by decide) ?_ ..
            exact Dev.Tame.refl _ _
          · exact Dev.Tame.refl _ _
        · refine Mach.tame_ite_dev ?_ ?_
          · refine Mach.tame_ite_dev ?_ ?_
            · refine Mach.tame_mk_dev ?_
              refine Dev.prmEvent_tame (by decide) ?_ ..
              refine Dev.tame_ite ?_ ?_
              · refine Dev.prmEvent_tame (by decide) ?_ ..
                exact Dev.Tame.refl _ _
              · exact Dev.Tame.refl _ _
            · refine Mach.tame_mk_dev ?_
              refine Dev.tame_foldl ?_ (fun _ _ _ => ?_)
              · refine Dev.tame_ite ?_ ?_
                · refine Dev.prmEvent_tame (by decide) ?_ ..
                  exact Dev.Tame.refl _ _
                · exact Dev.Tame.refl _ _
              · refine Dev.tame_ite ?_ ?_
                · refine Dev.modWork_tame (by decide) ?_ ..
                  assumption
                · assumption
          · split
            · refine Mach.tame_mk_dev ?_
              refine Dev.nextRow_tame (by decide) ?_ ..
              refine Dev.tame_ite ?_ ?_
              · refine Dev.prmEvent_tame (by decide) ?_ ..
                exact Dev.Tame.refl _ _
              · exact Dev.Tame.refl _ _
            · refine Mach.tame_mk_dev ?_
              refine Dev.prmEvent_tame (by decide) ?_ ..
              refine Dev.nextRow_tame (by decide) ?_ ..
              refine Dev.tame_ite ?_ ?_
              · refine Dev.prmEvent_tame (by decide) ?_ ..
                exact Dev.Tame.refl _ _
              · exact Dev.Tame.refl _ _
            · refine Mach.tame_ite_dev ?_ ?_
              · refine Mach.placeLine_tame_dev (by decide) ?_ ..
                refine Mach.tame_mk_dev ?_
                refine Dev.prmEvent_tame (by decide) ?_ ..
                refine Dev.nextRow_tame (by decide) ?_ ..
                refine Dev.tame_ite ?_ ?_
                · refine Dev.prmEvent_tame (by decide) ?_ ..
                  exact Dev.Tame.refl _ _
                · exact Dev.Tame.refl _ _
              · split
                · refine Mach.placeLine_tame_dev (by decide) ?_ ..
                  refine Mach.tame_mk_dev ?_
                  refine Dev.prmEvent_tame (by decide) ?_ ..
                  refine Dev.nextRow_tame (by decide) ?_ ..
                  refine Dev.tame_ite ?_ ?_
                  · refine Dev.prmEvent_tame (by decide) ?_ ..
                    exact Dev.Tame.refl _ _
                  · exact Dev.Tame.refl _ _
                · refine Mach.tame_ite_dev ?_ ?_
                  · refine Mach.placeLine_tame_dev (by decide) ?_ ..
                    refine Mach.tame_mk_dev ?_
                    refine Dev.prmEvent_tame (by decide) ?_ ..
                    refine Dev.nextRow_tame (by decide) ?_ ..
                    refine Dev.tame_ite ?_ ?_
                    · refine Dev.prmEvent_tame (by decide) ?_ ..
                      exact Dev.Tame.refl _ _
                    · exact Dev.Tame.refl _ _
                  · refine Mach.placeLine_tame_dev (by decide) ?_ ..
                    refine Mach.tame_mk_dev ?_
                    refine Dev.nextRow_tame (by decide) ?_ ..
                    refine Dev.tame_ite ?_ ?_
                    · refine Dev.prmEvent_tame (by decide) ?_ ..
                      exact Dev.Tame.refl _ _
                    · exact Dev.Tame.refl _ _
  · dsimp only
    refine Mach.tame_ite_mem ?_ ?_
    · exact Mem.Tame.refl _ _
    · refine Mach.tame_ite_mem ?_ ?_
      · refine Mach.tame_mk_mem ?_
        exact Mem.Tame.refl _ _
      · refine Mach.tame_ite_mem ?_ ?_
        · refine Mach.tame_mk_mem ?_
          exact Mem.Tame.refl _ _
        · refine Mach.tame_ite_mem ?_ ?_
          · refine Mach.tame_ite_mem ?_ ?_
            · refine Mach.tame_mk_mem ?_
              exact Mem.Tame.refl _ _
            · refine Mach.tame_mk_mem ?_
              exact Mem.Tame.refl _ _
          · split
            · refine Mach.tame_mk_mem ?_
              exact Mem.Tame.refl _ _
            · refine Mach.tame_mk_mem ?_
              exact Mem.Tame.refl _ _
            · refine Mach.tame_ite_mem ?_ ?_
              · refine Mach.placeLine_tame_mem (by decide) ?_ ..
                refine Mach.tame_mk_mem ?_
                exact Mem.Tame.refl _ _
              · split
                · refine Mach.placeLine_tame_mem (by decide) ?_ ..
                  refine Mach.tame_mk_mem ?_
                  exact Mem.Tame.refl _ _
                · refine Mach.tame_ite_mem ?_ ?_
                  · refine Mach.placeLine_tame_mem (by decide) ?_ ..
                    refine Mach.tame_mk_mem ?_
                    exact Mem.Tame.refl _ _
                  · refine Mach.placeLine_tame_mem (by decide) ?_ ..
                    refine Mach.tame_mk_mem ?_
                    exact Mem.Tame.refl _ _

theorem execCsi2LineStart_framed (g vc number : Nat) (s : State) :
    Framed (setOf [.free, .msix, .intr, .twk, .prism, .sent]) (setOf []) s (execCsi2LineStart g vc number s) := by
  unfold execCsi2LineStart
  refine liveDev_framed (by decide) _ ?_
  refine Dev.tame_onlyIf ?_ ?_
  · exact Dev.Tame.refl _ _
  · refine Dev.modSource_tame (by decide) ?_ ..
    exact Dev.Tame.refl _ _

theorem execStageSegment_framed (s : State) :
    Framed (setOf [.free, .seq, .stats, .commands, .events, .msix, .flt, .intr, .twk, .bbx, .link, .pools, .dram, .wports, .caps, .prism, .sent, .feat 0x10, .feat 0x1B]) (setOf [.dramMem]) s (execStageSegment s) := by
  unfold execStageSegment
  refine live_framed (by decide) _ ?_ ?_
  · split
    · exact Dev.Tame.refl _ _
    · dsimp only
      refine Mach.tame_ite_dev ?_ ?_
      · refine Mach.badRow_tame_dev (by decide) ?_ ..
        refine Mach.tame_mk_dev ?_
        refine Dev.prmEvent_tame (by decide) ?_ ..
        refine Dev.onPrism_tame (by decide) ?_ ..
        exact Dev.Tame.refl _ _
      · refine Mach.tame_mk_dev ?_
        refine Dev.stageBufs_tame (by decide) ?_ ..
        refine Dev.fifoLevel_tame (by decide) ?_ ..
        refine Dev.onPrism_tame (by decide) ?_ ..
        refine Dev.onPrism_tame (by decide) ?_ ..
        exact Dev.Tame.refl _ _
  · split
    · exact Mem.Tame.refl _ _
    · dsimp only
      refine Mach.tame_ite_mem ?_ ?_
      · refine Mach.badRow_tame_mem (by decide) ?_ ..
        refine Mach.tame_mk_mem ?_
        exact Mem.Tame.refl _ _
      · refine Mach.tame_mk_mem ?_
        exact Mem.Tame.refl _ _

end Sys2Proof.Machine
end

