-- ==== Sys2Proof/Laws/ExecProxy.lean ====
section
/-! SUPPORT. What each command of Machine/Proxy.lean may change, and where it stops. -/

namespace Sys2Proof.Machine
open Sys2Proof

theorem execDevelopBand_framed (s : State) :
    Framed (setOf [.free, .msix, .intr, .twk, .pools, .caps, .proxy, .sent]) (setOf []) s (execDevelopBand s) := by
  unfold execDevelopBand
  refine live_framed (by decide) _ ?_ ?_
  · dsimp only
    split
    · exact Dev.Tame.refl _ _
    · split
      · exact Dev.Tame.refl _ _
      · split
        · exact Dev.Tame.refl _ _
        · refine Mach.tame_ite_dev ?_ ?_
          · exact Dev.Tame.refl _ _
          · refine Mach.tame_mk_dev ?_
            refine Dev.sweepProxy_tame (by decide) ?_ ..
            refine Dev.sweep_tame (by decide) ?_ ..
            refine Dev.modBand_tame (by decide) ?_ ..
            refine Dev.onFrame_tame (by decide) ?_ ..
            exact Dev.Tame.refl _ _
  · dsimp only
    split
    · exact Mem.Tame.refl _ _
    · split
      · exact Mem.Tame.refl _ _
      · split
        · exact Mem.Tame.refl _ _
        · refine Mach.tame_ite_mem ?_ ?_
          · exact Mem.Tame.refl _ _
          · refine Mach.tame_mk_mem ?_
            exact Mem.Tame.refl _ _

theorem execHevcPicture_framed (o dt ring flow0 flow1 want : Nat) (sets timing slices : List (List Byte)) (s : State) :
    Framed (setOf [.clk, .free, .seq, .stats, .commands, .events, .msix, .flt, .intr, .twk, .bbx, .sid, .link, .pools, .proxy, .sent, .feat 0x17, .feat 0x1B]) (setOf []) s (execHevcPicture o dt ring flow0 flow1 want sets timing slices s) := by
  unfold execHevcPicture
  refine liveDev_framed (by decide) _ ?_
  refine Dev.tame_onlyIf ?_ ?_
  · exact Dev.Tame.refl _ _
  · dsimp only
    split
    · refine Dev.advance_tame (by decide) ?_ ..
      exact Dev.Tame.refl _ _
    · refine Dev.tame_ite ?_ ?_
      · refine Dev.took_tame (by decide) ?_ ..
        refine Dev.advance_tame (by decide) ?_ ..
        exact Dev.Tame.refl _ _
      · refine Dev.tame_ite ?_ ?_
        · refine Dev.advance_tame (by decide) ?_ ..
          exact Dev.Tame.refl _ _
        · refine Dev.sendOut_tame (by decide) ?_ ..
          refine Dev.onProxy_tame (by decide) ?_ ..
          refine Dev.bump_tame (by decide) ?_
          refine Dev.tame_ite ?_ ?_
          · refine Dev.bump_tame (by decide) ?_
            refine Dev.onOut_tame (by decide) ?_ ..
            refine Dev.took_tame (by decide) ?_ ..
            refine Dev.advance_tame (by decide) ?_ ..
            exact Dev.Tame.refl _ _
          · refine Dev.onOut_tame (by decide) ?_ ..
            refine Dev.took_tame (by decide) ?_ ..
            refine Dev.advance_tame (by decide) ?_ ..
            exact Dev.Tame.refl _ _

theorem execMonitorPicture_framed (flow0 flow1 : Nat) (s : State) :
    Framed (setOf [.free, .seq, .stats, .commands, .events, .msix, .flt, .intr, .twk, .bbx, .link, .pools, .proxy, .sent, .feat 0x17, .feat 0x1B]) (setOf []) s (execMonitorPicture flow0 flow1 s) := by
  unfold execMonitorPicture
  refine liveDev_framed (by decide) _ ?_
  split
  · exact Dev.Tame.refl _ _
  · refine Dev.tame_ite ?_ ?_
    · exact Dev.Tame.refl _ _
    · dsimp only
      refine Dev.tame_ite ?_ ?_
      · refine Dev.onProxy_tame (by decide) ?_ ..
        refine Dev.onOut_tame (by decide) ?_ ..
        refine Dev.took_tame (by decide) ?_ ..
        exact Dev.Tame.refl _ _
      · refine Dev.sendOut_tame (by decide) ?_ ..
        refine Dev.onProxy_tame (by decide) ?_ ..
        refine Dev.onOut_tame (by decide) ?_ ..
        refine Dev.took_tame (by decide) ?_ ..
        exact Dev.Tame.refl _ _

theorem execMulticastDeliver_framed (k : Nat) (s : State) :
    Framed (setOf [.free, .stats, .cqs, .msix, .intr, .twk, .eth, .pools, .proxy, .mags, .sent, .feat 0x17, .feat 0x1D]) (setOf [.hostMem, .carriers]) s (execMulticastDeliver k s) := by
  unfold execMulticastDeliver
  refine live_framed (by decide) _ ?_ ?_
  · dsimp only
    split
    · exact Dev.Tame.refl _ _
    · split
      · exact Dev.Tame.refl _ _
      · refine Mach.tame_ite_dev ?_ ?_
        · exact Dev.Tame.refl _ _
        · refine Mach.tame_mk_dev ?_
          refine Dev.tame_ite ?_ ?_
          · refine Dev.onProxy_tame (by decide) ?_ ..
            refine Dev.tame_foldl ?_ (fun _ _ _ => ?_)
            · refine Mach.deliver_tame_dev (by decide) ?_ ..
              exact Dev.Tame.refl _ _
            · refine Dev.copyDone_tame (by decide) ?_ ..
              assumption
          · refine Dev.outDropped_tame (by decide) ?_ ..
            refine Dev.onProxy_tame (by decide) ?_ ..
            refine Dev.tame_foldl ?_ (fun _ _ _ => ?_)
            · refine Mach.deliver_tame_dev (by decide) ?_ ..
              exact Dev.Tame.refl _ _
            · refine Dev.copyDone_tame (by decide) ?_ ..
              assumption
  · dsimp only
    split
    · exact Mem.Tame.refl _ _
    · split
      · exact Mem.Tame.refl _ _
      · refine Mach.tame_ite_mem ?_ ?_
        · exact Mem.Tame.refl _ _
        · refine Mach.tame_mk_mem ?_
          refine Mach.deliver_tame_mem (by decide) ?_ ..
          exact Mem.Tame.refl _ _

end Sys2Proof.Machine
end

