-- ==== Sys2Proof/Laws/FrameReset.lean ====
section
/-! SUPPORT. What each operation of Machine/Reset.lean may change. -/

namespace Sys2Proof.Machine
open Sys2Proof

theorem Dev.afterReset_tame {ps : Nat} {B X : Dev}
    (hsub : (setOf [.undef, .off, .seq, .stats, .snap, .boot, .staged, .mailboxes, .sqs, .cqs, .turns, .admin, .commands, .events, .errorLog, .logs, .admission, .access, .msix, .flt, .intr, .twk, .bbx, .sid, .tick, .eth, .refillAt, .shapers, .policers, .link, .fab, .pools, .dram, .wports, .dma, .dmaEvents, .power, .pins, .ctxs, .caps, .prism, .codec, .seqr, .proxy, .mags] ||| everyFeat) ||| ps = ps)
    (hbase : Dev.Tame ps B X) (cause : ResetCause) (straps : Option Straps) : Dev.Tame ps B (Dev.afterReset X cause straps) := by
  refine Dev.Tame.next (b := X) ⟨fun p hp => ?_, Nat.le_refl X.clk, fun h => ⟨(by decide : (0 : Nat) < 2 ^ 20), rfl, rfl, rfl, rfl, ?_, rfl⟩⟩ hsub hbase
  · cases p
    case feat f => exact absurd (testBit_of_sub (qs := everyFeat) (by decide) hp) (by simp only [Part.code, everyFeat_testBit]; decide)
    all_goals first | exact rfl | exact absurd hp (by decide)
  · exact (List.length_map ..).trans h.2.2.2.2.2.1

theorem Mach.reset_tame_dev {ps : Nat} {B : Dev} {X : Mach}
    (hsub : (setOf [.undef, .off, .seq, .stats, .snap, .boot, .staged, .mailboxes, .sqs, .cqs, .turns, .admin, .commands, .events, .errorLog, .logs, .admission, .access, .msix, .flt, .intr, .twk, .bbx, .sid, .tick, .eth, .refillAt, .shapers, .policers, .link, .fab, .pools, .dram, .wports, .dma, .dmaEvents, .power, .pins, .ctxs, .caps, .prism, .codec, .seqr, .proxy, .mags] ||| everyFeat) ||| ps = ps)
    (hbase : Dev.Tame ps B X.dev) (cause : ResetCause) (straps : Option Straps) : Dev.Tame ps B (Mach.reset X cause straps).dev :=
  Dev.afterReset_tame hsub hbase ..

theorem Mach.reset_tame_mem {ps : Nat} {B : Mem} {X : Mach} (hsub : setOf [.dramMem] ||| ps = ps)
    (hbase : Mem.Tame ps B X.mem) (cause : ResetCause) (straps : Option Straps) : Mem.Tame ps B (Mach.reset X cause straps).mem := by
  refine Mem.Tame.next ?_ hsub hbase
  unfold Mach.reset
  refine Mach.tame_mk_mem ?_
  exact Mem.tame_dram (by decide) (fun _ => rfl) (.refl _ _)

theorem HostIf.pcieReset_tame (h : HostIf) :
    HostIf.Same (setOf [.sqs, .cqs, .turns, .admin, .commands, .events, .access, .msix]) h h.pcieReset :=
  HostIf.Same.mk (.inr ⟨rfl, rfl⟩) (.inl (by decide)) (.inl (by decide)) (.inl (by decide)) (.inl (by decide))
    (.inl (by decide)) (.inl (by decide)) (.inr rfl) (.inr ⟨rfl, rfl, rfl⟩) (.inr rfl) (.inl (by decide)) (.inl (by decide))

end Sys2Proof.Machine
end

