-- ==== Sys2Proof/Laws/ExecReset.lean ====
section
/-! SUPPORT. What each command of Machine/Reset.lean may change, and where it stops. -/

namespace Sys2Proof.Machine
open Sys2Proof

theorem execPowerOnReset_framed (role bootSrc : Nat) (testEn : Bool) (s : State) :
    Framed ((setOf [.clk, .free, .undef, .off, .seq, .stats, .snap, .boot, .otp, .staged, .mailboxes, .sqs, .cqs, .turns, .admin, .commands, .events, .errorLog, .logs, .admission, .access, .msix, .flt, .intr, .twk, .bbx, .sid, .tick, .eth, .refillAt, .shapers, .policers, .link, .fab, .pools, .dram, .wports, .dma, .dmaEvents, .power, .pins, .ctxs, .caps, .prism, .codec, .seqr, .proxy, .mags, .sent] ||| everyFeat)) (setOf [.dramMem]) s (execPowerOnReset role bootSrc testEn s) := by
  unfold execPowerOnReset
  refine framed_next ?_ ?_
  · refine Mach.reset_tame_dev (by decide) ?_ ..
    exact Dev.Tame.refl _ _
  · refine Mach.reset_tame_mem (by decide) ?_ ..
    exact Mem.Tame.refl _ _

theorem execExternalReset_framed (low role bootSrc : Nat) (testEn : Bool) (s : State) :
    Framed ((setOf [.clk, .free, .undef, .off, .seq, .stats, .snap, .boot, .otp, .staged, .mailboxes, .sqs, .cqs, .turns, .admin, .commands, .events, .errorLog, .logs, .admission, .access, .msix, .flt, .intr, .twk, .bbx, .sid, .tick, .eth, .refillAt, .shapers, .policers, .link, .fab, .pools, .dram, .wports, .dma, .dmaEvents, .power, .pins, .ctxs, .caps, .prism, .codec, .seqr, .proxy, .mags, .sent] ||| everyFeat)) (setOf [.dramMem, .mram]) s (execExternalReset low role bootSrc testEn s) := by
  unfold execExternalReset
  refine framed_ite ?_ ?_
  · exact framed_same _ _ _
  · dsimp only
    refine framed_ite ?_ ?_
    · refine framed_next ?_ ?_
      · refine onDev_tame_dev ?_
        refine Dev.advance_tame (by decide) ?_ ..
        exact Dev.Tame.refl _ _
      · refine onDev_tame_mem ?_
        exact Mem.Tame.refl _ _
    · refine framed_next ?_ ?_
      · refine Mach.reset_tame_dev (by decide) ?_ ..
        refine Mach.bbxDrain_tame_dev (by decide) ?_ ..
        refine onDev_tame_dev ?_
        refine Dev.advance_tame (by decide) ?_ ..
        exact Dev.Tame.refl _ _
      · refine Mach.reset_tame_mem (by decide) ?_ ..
        refine Mach.bbxDrain_tame_mem (by decide) ?_ ..
        refine onDev_tame_mem ?_
        exact Mem.Tame.refl _ _

theorem execInternalReset_framed (s : State) :
    Framed ((setOf [.clk, .free, .undef, .off, .seq, .stats, .snap, .boot, .otp, .staged, .mailboxes, .sqs, .cqs, .turns, .admin, .commands, .events, .errorLog, .logs, .admission, .access, .msix, .flt, .intr, .twk, .bbx, .sid, .tick, .eth, .refillAt, .shapers, .policers, .link, .fab, .pools, .dram, .wports, .dma, .dmaEvents, .power, .pins, .ctxs, .caps, .prism, .codec, .seqr, .proxy, .mags, .sent] ||| everyFeat)) (setOf [.dramMem, .mram]) s (execInternalReset s) := by
  unfold execInternalReset
  refine live_framed (by decide) _ ?_ ?_
  · split
    · exact Dev.Tame.refl _ _
    · refine Mach.reset_tame_dev (by decide) ?_ ..
      refine Mach.bbxDrain_tame_dev (by decide) ?_ ..
      refine Mach.tame_mk_dev ?_
      refine Dev.advanceTo_tame (by decide) ?_ ..
      exact Dev.Tame.refl _ _
  · split
    · exact Mem.Tame.refl _ _
    · refine Mach.reset_tame_mem (by decide) ?_ ..
      refine Mach.bbxDrain_tame_mem (by decide) ?_ ..
      refine Mach.tame_mk_mem ?_
      exact Mem.Tame.refl _ _

theorem execPcieReset_framed (perst : Bool) (low : Nat) (s : State) :
    Framed (setOf [.clk, .free, .boot, .sqs, .cqs, .turns, .admin, .commands, .events, .access, .msix, .intr, .twk, .sid, .sent]) (setOf []) s (execPcieReset perst low s) := by
  unfold execPcieReset
  refine liveDev_framed (by decide) _ ?_
  refine Dev.tame_ite ?_ ?_
  · refine Dev.advance_tame (by decide) ?_ ..
    exact Dev.Tame.refl _ _
  · refine Dev.onBoot_tame (by decide) ?_ ..
    refine Dev.tame_onHost ?_ ?_
    · exact (HostIf.pcieReset_tame ..).mono (by decide)
    · refine Dev.tame_ite ?_ ?_
      · refine Dev.advance_tame (by decide) ?_ ..
        exact Dev.Tame.refl _ _
      · exact Dev.Tame.refl _ _

theorem execPcieLinkUp_framed (rise dt : Nat) (s : State) :
    Framed (setOf [.clk, .free, .boot, .msix, .intr, .twk, .sid, .sent]) (setOf []) s (execPcieLinkUp rise dt s) := by
  unfold execPcieLinkUp
  refine liveDev_framed (by decide) _ ?_
  refine Dev.onBoot_tame (by decide) ?_ ..
  refine Dev.advance_tame (by decide) ?_ ..
  exact Dev.Tame.refl _ _

theorem execPowerLoss_framed (port : Option Nat) (s : State) :
    Framed ((setOf [.clk, .free, .undef, .off, .seq, .stats, .snap, .boot, .otp, .staged, .mailboxes, .sqs, .cqs, .turns, .admin, .commands, .events, .errorLog, .logs, .admission, .access, .msix, .flt, .intr, .twk, .bbx, .sid, .tick, .eth, .refillAt, .shapers, .policers, .link, .fab, .pools, .dram, .wports, .dma, .dmaEvents, .power, .pins, .ctxs, .caps, .prism, .codec, .seqr, .proxy, .mags, .sent, .feat 0x00, .feat 0x1D] ||| everyFeat)) (setOf [.dramMem, .carriers]) s (execPowerLoss port s) := by
  unfold execPowerLoss
  split
  · refine framed_next ?_ ?_
    · refine onDev_tame_dev ?_
      refine Dev.tame_off (by decide) ?_
      refine Mach.reset_tame_dev (by decide) ?_ ..
      exact Dev.Tame.refl _ _
    · refine onDev_tame_mem ?_
      refine Mach.reset_tame_mem (by decide) ?_ ..
      exact Mem.Tame.refl _ _
  · refine live_framed (by decide) _ ?_ ?_
    · refine Mach.tame_onlyIf_dev ?_ ?_
      · exact Dev.Tame.refl _ _
      · dsimp only
        refine onDev_tame_dev ?_
        refine Dev.onMag_tame (by decide) ?_ ..
        refine Mach.remove_tame_dev (by decide) ?_ ..
        exact Dev.Tame.refl _ _
    · refine Mach.tame_onlyIf_mem ?_ ?_
      · exact Mem.Tame.refl _ _
      · dsimp only
        refine onDev_tame_mem ?_
        refine Mach.remove_tame_mem (by decide) ?_ ..
        exact Mem.Tame.refl _ _

theorem execSupplyOutOfRange_framed (s : State) :
    Framed (setOf [.undef]) (setOf []) s (execSupplyOutOfRange s) := by
  unfold execSupplyOutOfRange
  refine framed_next ?_ ?_
  · refine onDev_tame_dev ?_
    refine Dev.tame_undef (by decide) ?_
    exact Dev.Tame.refl _ _
  · refine onDev_tame_mem ?_
    exact Mem.Tame.refl _ _

end Sys2Proof.Machine
end

