-- ==== Sys2Proof/Laws/ExecSeq.lean ====
section
/-! SUPPORT. What each command of Machine/Seq.lean may change, and where it stops. -/

namespace Sys2Proof.Machine
open Sys2Proof

theorem execSeqDispatch_framed (t : Nat) (par : Bool) (s : State) :
    Framed (setOf [.free, .seq, .stats, .commands, .events, .msix, .flt, .intr, .twk, .bbx, .link, .dram, .caps, .codec, .seqr, .sent, .feat 0x14, .feat 0x16, .feat 0x19, .feat 0x1E]) (setOf []) s (execSeqDispatch t par s) := by
  unfold execSeqDispatch
  refine live_framed (by decide) _ ?_ ?_
  · dsimp only
    split
    · split
      · refine Mach.endHandler_tame_dev (by decide) ?_ ..
        refine Mach.tame_mk_dev ?_
        refine Dev.onThread_tame (by decide) ?_ ..
        exact Dev.Tame.refl _ _
      · refine Mach.tame_ite_dev ?_ ?_
        · refine Mach.storeParity_tame_dev (by decide) ?_ ..
          refine Mach.tame_mk_dev ?_
          refine Dev.onThread_tame (by decide) ?_ ..
          exact Dev.Tame.refl _ _
        · refine Mach.tame_mk_dev ?_
          refine Dev.onThread_tame (by decide) ?_ ..
          exact Dev.Tame.refl _ _
    · exact Dev.Tame.refl _ _
  · dsimp only
    split
    · split
      · refine Mach.endHandler_tame_mem (by decide) ?_ ..
        refine Mach.tame_mk_mem ?_
        exact Mem.Tame.refl _ _
      · refine Mach.tame_ite_mem ?_ ?_
        · refine Mach.storeParity_tame_mem (by decide) ?_ ..
          refine Mach.tame_mk_mem ?_
          exact Mem.Tame.refl _ _
        · refine Mach.tame_mk_mem ?_
          exact Mem.Tame.refl _ _
    · exact Mem.Tame.refl _ _

theorem execCont_framed (t par : Nat) (s : State) :
    Framed (setOf [.free, .seq, .stats, .commands, .events, .msix, .flt, .intr, .twk, .bbx, .link, .dram, .caps, .codec, .seqr, .sent, .feat 0x14, .feat 0x16, .feat 0x19, .feat 0x1E]) (setOf []) s (execCont t par s) := by
  unfold execCont
  refine live_framed (by decide) _ ?_ ?_
  · refine Mach.issue_tame_dev (by decide) ?_ ..
    exact Dev.Tame.refl _ _
  · refine Mach.issue_tame_mem (by decide) ?_ ..
    exact Mem.Tame.refl _ _

theorem execJump_framed (t par : Nat) (s : State) :
    Framed (setOf [.free, .seq, .stats, .commands, .events, .msix, .flt, .intr, .twk, .bbx, .link, .dram, .caps, .codec, .seqr, .sent, .feat 0x14, .feat 0x16, .feat 0x19, .feat 0x1E]) (setOf []) s (execJump t par s) := by
  unfold execJump
  refine live_framed (by decide) _ ?_ ?_
  · refine Mach.issue_tame_dev (by decide) ?_ ..
    exact Dev.Tame.refl _ _
  · refine Mach.issue_tame_mem (by decide) ?_ ..
    exact Mem.Tame.refl _ _

theorem execBrNeg_framed (t par : Nat) (s : State) :
    Framed (setOf [.free, .seq, .stats, .commands, .events, .msix, .flt, .intr, .twk, .bbx, .link, .dram, .caps, .codec, .seqr, .sent, .feat 0x14, .feat 0x16, .feat 0x19, .feat 0x1E]) (setOf []) s (execBrNeg t par s) := by
  unfold execBrNeg
  refine live_framed (by decide) _ ?_ ?_
  · refine Mach.issue_tame_dev (by decide) ?_ ..
    exact Dev.Tame.refl _ _
  · refine Mach.issue_tame_mem (by decide) ?_ ..
    exact Mem.Tame.refl _ _

theorem execBrZero_framed (t par : Nat) (s : State) :
    Framed (setOf [.free, .seq, .stats, .commands, .events, .msix, .flt, .intr, .twk, .bbx, .link, .dram, .caps, .codec, .seqr, .sent, .feat 0x14, .feat 0x16, .feat 0x19, .feat 0x1E]) (setOf []) s (execBrZero t par s) := by
  unfold execBrZero
  refine live_framed (by decide) _ ?_ ?_
  · refine Mach.issue_tame_dev (by decide) ?_ ..
    exact Dev.Tame.refl _ _
  · refine Mach.issue_tame_mem (by decide) ?_ ..
    exact Mem.Tame.refl _ _

theorem execBrCond_framed (t par : Nat) (s : State) :
    Framed (setOf [.free, .seq, .stats, .commands, .events, .msix, .flt, .intr, .twk, .bbx, .link, .dram, .caps, .codec, .seqr, .sent, .feat 0x14, .feat 0x16, .feat 0x19, .feat 0x1E]) (setOf []) s (execBrCond t par s) := by
  unfold execBrCond
  refine live_framed (by decide) _ ?_ ?_
  · refine Mach.issue_tame_dev (by decide) ?_ ..
    exact Dev.Tame.refl _ _
  · refine Mach.issue_tame_mem (by decide) ?_ ..
    exact Mem.Tame.refl _ _

theorem execCall_framed (t par : Nat) (s : State) :
    Framed (setOf [.free, .seq, .stats, .commands, .events, .msix, .flt, .intr, .twk, .bbx, .link, .dram, .caps, .codec, .seqr, .sent, .feat 0x14, .feat 0x16, .feat 0x19, .feat 0x1E]) (setOf []) s (execCall t par s) := by
  unfold execCall
  refine live_framed (by decide) _ ?_ ?_
  · refine Mach.issue_tame_dev (by decide) ?_ ..
    exact Dev.Tame.refl _ _
  · refine Mach.issue_tame_mem (by decide) ?_ ..
    exact Mem.Tame.refl _ _

theorem execRet_framed (t par : Nat) (s : State) :
    Framed (setOf [.free, .seq, .stats, .commands, .events, .msix, .flt, .intr, .twk, .bbx, .link, .dram, .caps, .codec, .seqr, .sent, .feat 0x14, .feat 0x16, .feat 0x19, .feat 0x1E]) (setOf []) s (execRet t par s) := by
  unfold execRet
  refine live_framed (by decide) _ ?_ ?_
  · refine Mach.issue_tame_dev (by decide) ?_ ..
    exact Dev.Tame.refl _ _
  · refine Mach.issue_tame_mem (by decide) ?_ ..
    exact Mem.Tame.refl _ _

theorem execSeqEnd_framed (t par : Nat) (s : State) :
    Framed (setOf [.free, .seq, .stats, .commands, .events, .msix, .flt, .intr, .twk, .bbx, .link, .dram, .caps, .codec, .seqr, .sent, .feat 0x14, .feat 0x16, .feat 0x19, .feat 0x1E]) (setOf []) s (execSeqEnd t par s) := by
  unfold execSeqEnd
  refine live_framed (by decide) _ ?_ ?_
  · refine Mach.issue_tame_dev (by decide) ?_ ..
    exact Dev.Tame.refl _ _
  · refine Mach.issue_tame_mem (by decide) ?_ ..
    exact Mem.Tame.refl _ _

theorem execWaitRelease_framed (t : Nat) (s : State) :
    Framed (setOf [.free, .seq, .stats, .commands, .events, .msix, .flt, .intr, .twk, .bbx, .link, .dram, .caps, .codec, .seqr, .sent, .feat 0x14, .feat 0x16, .feat 0x19, .feat 0x1E]) (setOf []) s (execWaitRelease t s) := by
  unfold execWaitRelease
  refine live_framed (by decide) _ ?_ ?_
  · dsimp only
    split
    · refine Mach.tame_ite_dev ?_ ?_
      · refine Mach.runWord_tame_dev (by decide) ?_ ..
        refine Mach.tame_mk_dev ?_
        refine Dev.onThread_tame (by decide) ?_ ..
        exact Dev.Tame.refl _ _
      · exact Dev.Tame.refl _ _
    · exact Dev.Tame.refl _ _
  · dsimp only
    split
    · refine Mach.tame_ite_mem ?_ ?_
      · refine Mach.runWord_tame_mem (by decide) ?_ ..
        refine Mach.tame_mk_mem ?_
        exact Mem.Tame.refl _ _
      · exact Mem.Tame.refl _ _
    · exact Mem.Tame.refl _ _

theorem execSeqTimerExpire_framed (t : Nat) (s : State) :
    Framed (setOf [.clk, .free, .msix, .intr, .twk, .sid, .seqr, .sent]) (setOf []) s (execSeqTimerExpire t s) := by
  unfold execSeqTimerExpire
  refine liveDev_framed (by decide) _ ?_
  split
  · refine Dev.onThread_tame (by decide) ?_ ..
    refine Dev.advanceTo_tame (by decide) ?_ ..
    exact Dev.Tame.refl _ _
  · exact Dev.Tame.refl _ _

theorem execHandlerForcedEnd_framed (t : Nat) (s : State) :
    Framed (setOf [.clk, .free, .seq, .stats, .commands, .events, .msix, .flt, .intr, .twk, .bbx, .sid, .link, .dram, .caps, .codec, .seqr, .sent, .feat 0x14, .feat 0x16, .feat 0x19, .feat 0x1E]) (setOf []) s (execHandlerForcedEnd t s) := by
  unfold execHandlerForcedEnd
  refine live_framed (by decide) _ ?_ ?_
  · dsimp only
    split
    · refine Mach.endHandler_tame_dev (by decide) ?_ ..
      refine Mach.tame_mk_dev ?_
      refine Dev.advanceTo_tame (by decide) ?_ ..
      exact Dev.Tame.refl _ _
    · refine Mach.tame_ite_dev ?_ ?_
      · refine Mach.endHandler_tame_dev (by decide) ?_ ..
        exact Dev.Tame.refl _ _
      · exact Dev.Tame.refl _ _
    · exact Dev.Tame.refl _ _
  · dsimp only
    split
    · refine Mach.endHandler_tame_mem (by decide) ?_ ..
      refine Mach.tame_mk_mem ?_
      exact Mem.Tame.refl _ _
    · refine Mach.tame_ite_mem ?_ ?_
      · refine Mach.endHandler_tame_mem (by decide) ?_ ..
        exact Mem.Tame.refl _ _
      · exact Mem.Tame.refl _ _
    · exact Mem.Tame.refl _ _

theorem execSeqHostEvent_framed (v : Nat) (s : State) :
    Framed (setOf [.free, .msix, .intr, .twk, .seqr, .sent, .feat 0x19]) (setOf []) s (execSeqHostEvent v s) := by
  unfold execSeqHostEvent
  refine liveDev_framed (by decide) _ ?_
  refine Dev.hostEvent_tame (by decide) ?_ ..
  exact Dev.Tame.refl _ _

theorem execUcodeLoad_framed (sq cid : Nat) (s : State) :
    Framed (setOf [.free, .seq, .commands, .errorLog, .admission, .msix, .intr, .twk, .seqr, .sent]) (setOf []) s (execUcodeLoad sq cid s) := by
  unfold execUcodeLoad
  refine live_framed (by decide) _ ?_ ?_
  · refine runCmd_tame_dev (fun _ => ?_) ?_
    · refine Mach.tame_ite_dev ?_ ?_
      · refine Mach.refuse_tame_dev (by decide) ?_ ..
        exact Dev.Tame.refl _ _
      · refine Mach.tame_ite_dev ?_ ?_
        · refine Mach.deny_tame_dev (by decide) ?_ ..
          exact Dev.Tame.refl _ _
        · dsimp only
          refine Mach.tame_ite_dev ?_ ?_
          · refine Mach.complete_tame_dev (by decide) ?_ ..
            exact Dev.Tame.refl _ _
          · refine Mach.tame_ite_dev ?_ ?_
            · refine Mach.refuse_tame_dev (by decide) ?_ ..
              exact Dev.Tame.refl _ _
            · refine Mach.complete_tame_dev (by decide) ?_ ..
              refine Mach.tame_mk_dev ?_
              refine Dev.installUcode_tame (by decide) ?_ ..
              exact Dev.Tame.refl _ _
    · exact Dev.Tame.refl _ _
  · refine runCmd_tame_mem (fun _ => ?_) ?_
    · refine Mach.tame_ite_mem ?_ ?_
      · refine Mach.refuse_tame_mem (by decide) ?_ ..
        exact Mem.Tame.refl _ _
      · refine Mach.tame_ite_mem ?_ ?_
        · refine Mach.deny_tame_mem (by decide) ?_ ..
          exact Mem.Tame.refl _ _
        · dsimp only
          refine Mach.tame_ite_mem ?_ ?_
          · refine Mach.complete_tame_mem (by decide) ?_ ..
            exact Mem.Tame.refl _ _
          · refine Mach.tame_ite_mem ?_ ?_
            · refine Mach.refuse_tame_mem (by decide) ?_ ..
              exact Mem.Tame.refl _ _
            · refine Mach.complete_tame_mem (by decide) ?_ ..
              refine Mach.tame_mk_mem ?_
              exact Mem.Tame.refl _ _
    · exact Mem.Tame.refl _ _

end Sys2Proof.Machine
end

