-- ==== Sys2Proof/Laws/ExecTick.lean ====
section
/-! SUPPORT. What each command of Machine/Tick.lean may change, and where it stops. -/

namespace Sys2Proof.Machine
open Sys2Proof

theorem execTickUnitStart_framed (s : State) :
    Framed (setOf [.free, .msix, .intr, .twk, .sid, .tick, .sent, .feat 0x01]) (setOf []) s (execTickUnitStart s) := by
  unfold execTickUnitStart
  refine liveDev_framed (by decide) _ ?_
  refine Dev.tame_onlyIf ?_ ?_
  · exact Dev.Tame.refl _ _
  · dsimp only
    refine Dev.placeTick_tame (by decide) ?_ ..
    refine Dev.onSid_tame (by decide) ?_ ..
    refine Dev.onTick_tame (by decide) ?_ ..
    refine Dev.setReg_tame (by decide) ?_
    refine Dev.setReg_tame (by decide) ?_
    exact Dev.Tame.refl _ _

theorem execTick_framed (s : State) :
    Framed (setOf [.clk, .free, .seq, .stats, .snap, .commands, .events, .errorLog, .logs, .msix, .flt, .intr, .twk, .bbx, .sid, .tick, .link, .pools, .dram, .dma, .power, .caps, .prism, .codec, .seqr, .proxy, .mags, .sent, .feat 0x00, .feat 0x10, .feat 0x16, .feat 0x17, .feat 0x1B]) (setOf [.dramMem]) s (execTick s) := by
  unfold execTick
  refine live_framed (by decide) _ ?_ ?_
  · dsimp only
    refine Mach.tame_ite_dev ?_ ?_
    · exact Dev.Tame.refl _ _
    · refine Mach.tame_ite_dev ?_ ?_
      · refine Mach.tame_mk_dev ?_
        refine Dev.tame_ite ?_ ?_
        · refine Dev.onTick_tame (by decide) ?_ ..
          refine Mach.issueTick_tame_dev (by decide) ?_ ..
          refine Mach.tame_mk_dev ?_
          refine Dev.advanceToSid_tame (by decide) ?_ ..
          exact Dev.Tame.refl _ _
        · refine Mach.issueTick_tame_dev (by decide) ?_ ..
          refine Mach.tame_mk_dev ?_
          refine Dev.advanceToSid_tame (by decide) ?_ ..
          exact Dev.Tame.refl _ _
      · split
        · refine Mach.tame_ite_dev ?_ ?_
          · refine Mach.followMsg_tame_dev (by decide) ?_ ..
            exact Dev.Tame.refl _ _
          · exact Dev.Tame.refl _ _
        · exact Dev.Tame.refl _ _
  · dsimp only
    refine Mach.tame_ite_mem ?_ ?_
    · exact Mem.Tame.refl _ _
    · refine Mach.tame_ite_mem ?_ ?_
      · refine Mach.tame_mk_mem ?_
        refine Mach.issueTick_tame_mem (by decide) ?_ ..
        refine Mach.tame_mk_mem ?_
        exact Mem.Tame.refl _ _
      · split
        · refine Mach.tame_ite_mem ?_ ?_
          · refine Mach.followMsg_tame_mem (by decide) ?_ ..
            exact Mem.Tame.refl _ _
          · exact Mem.Tame.refl _ _
        · exact Mem.Tame.refl _ _

theorem execSubstituteTick_framed (s : State) :
    Framed (setOf [.clk, .free, .seq, .stats, .snap, .commands, .events, .errorLog, .logs, .msix, .flt, .intr, .twk, .bbx, .sid, .tick, .link, .pools, .dram, .dma, .power, .caps, .prism, .codec, .seqr, .proxy, .mags, .sent, .feat 0x00, .feat 0x10, .feat 0x16, .feat 0x17, .feat 0x1B]) (setOf [.dramMem]) s (execSubstituteTick s) := by
  unfold execSubstituteTick
  refine live_framed (by decide) _ ?_ ?_
  · dsimp only
    refine Mach.tame_ite_dev ?_ ?_
    · exact Dev.Tame.refl _ _
    · split
      · refine Mach.substitute_tame_dev (by decide) ?_ ..
        exact Dev.Tame.refl _ _
      · refine Mach.substitute_tame_dev (by decide) ?_ ..
        exact Dev.Tame.refl _ _
      · refine Mach.substitute_tame_dev (by decide) ?_ ..
        exact Dev.Tame.refl _ _
      · refine Mach.substitute_tame_dev (by decide) ?_ ..
        exact Dev.Tame.refl _ _
      · exact Dev.Tame.refl _ _
      · exact Dev.Tame.refl _ _
  · dsimp only
    refine Mach.tame_ite_mem ?_ ?_
    · exact Mem.Tame.refl _ _
    · split
      · refine Mach.substitute_tame_mem (by decide) ?_ ..
        exact Mem.Tame.refl _ _
      · refine Mach.substitute_tame_mem (by decide) ?_ ..
        exact Mem.Tame.refl _ _
      · refine Mach.substitute_tame_mem (by decide) ?_ ..
        exact Mem.Tame.refl _ _
      · refine Mach.substitute_tame_mem (by decide) ?_ ..
        exact Mem.Tame.refl _ _
      · exact Mem.Tame.refl _ _
      · exact Mem.Tame.refl _ _

theorem execTickInEdge_framed (dt : Nat) (s : State) :
    Framed (setOf [.clk, .free, .seq, .stats, .snap, .commands, .events, .errorLog, .logs, .msix, .flt, .intr, .twk, .bbx, .sid, .tick, .link, .pools, .dram, .dma, .power, .caps, .prism, .codec, .seqr, .proxy, .mags, .sent, .feat 0x00, .feat 0x10, .feat 0x16, .feat 0x17, .feat 0x1B]) (setOf [.dramMem]) s (execTickInEdge dt s) := by
  unfold execTickInEdge
  refine live_framed (by decide) _ ?_ ?_
  · dsimp only
    refine Mach.tame_ite_dev ?_ ?_
    · refine Mach.tame_mk_dev ?_
      refine Dev.advance_tame (by decide) ?_ ..
      exact Dev.Tame.refl _ _
    · split
      · split
        · refine Mach.tame_mk_dev ?_
          refine Dev.count_tame (by decide) ?_ ..
          refine Dev.advance_tame (by decide) ?_ ..
          exact Dev.Tame.refl _ _
        · refine Mach.acceptEdge_tame_dev (by decide) ?_ ..
          refine Mach.tame_mk_dev ?_
          refine Dev.advance_tame (by decide) ?_ ..
          exact Dev.Tame.refl _ _
        · refine Mach.tame_mk_dev ?_
          refine Dev.advance_tame (by decide) ?_ ..
          exact Dev.Tame.refl _ _
      · split
        · refine Mach.tame_mk_dev ?_
          refine Dev.count_tame (by decide) ?_ ..
          refine Dev.advance_tame (by decide) ?_ ..
          exact Dev.Tame.refl _ _
        · refine Mach.acceptEdge_tame_dev (by decide) ?_ ..
          refine Mach.tame_mk_dev ?_
          refine Dev.advance_tame (by decide) ?_ ..
          exact Dev.Tame.refl _ _
        · refine Mach.tame_mk_dev ?_
          refine Dev.advance_tame (by decide) ?_ ..
          exact Dev.Tame.refl _ _
      · refine Mach.countEdge_tame_dev (by decide) ?_ ..
        refine Mach.tame_mk_dev ?_
        refine Dev.advance_tame (by decide) ?_ ..
        exact Dev.Tame.refl _ _
      · refine Mach.tame_ite_dev ?_ ?_
        · refine Mach.acceptEdge_tame_dev (by decide) ?_ ..
          refine Mach.tame_mk_dev ?_
          refine Dev.advance_tame (by decide) ?_ ..
          exact Dev.Tame.refl _ _
        · refine Mach.tame_mk_dev ?_
          refine Dev.advance_tame (by decide) ?_ ..
          exact Dev.Tame.refl _ _
      · refine Mach.tame_mk_dev ?_
        refine Dev.advance_tame (by decide) ?_ ..
        exact Dev.Tame.refl _ _
      · refine Mach.tame_mk_dev ?_
        refine Dev.advance_tame (by decide) ?_ ..
        exact Dev.Tame.refl _ _
  · dsimp only
    refine Mach.tame_ite_mem ?_ ?_
    · refine Mach.tame_mk_mem ?_
      exact Mem.Tame.refl _ _
    · split
      · split
        · refine Mach.tame_mk_mem ?_
          exact Mem.Tame.refl _ _
        · refine Mach.acceptEdge_tame_mem (by decide) ?_ ..
          refine Mach.tame_mk_mem ?_
          exact Mem.Tame.refl _ _
        · refine Mach.tame_mk_mem ?_
          exact Mem.Tame.refl _ _
      · split
        · refine Mach.tame_mk_mem ?_
          exact Mem.Tame.refl _ _
        · refine Mach.acceptEdge_tame_mem (by decide) ?_ ..
          refine Mach.tame_mk_mem ?_
          exact Mem.Tame.refl _ _
        · refine Mach.tame_mk_mem ?_
          exact Mem.Tame.refl _ _
      · refine Mach.countEdge_tame_mem (by decide) ?_ ..
        refine Mach.tame_mk_mem ?_
        exact Mem.Tame.refl _ _
      · refine Mach.tame_ite_mem ?_ ?_
        · refine Mach.acceptEdge_tame_mem (by decide) ?_ ..
          refine Mach.tame_mk_mem ?_
          exact Mem.Tame.refl _ _
        · refine Mach.tame_mk_mem ?_
          exact Mem.Tame.refl _ _
      · refine Mach.tame_mk_mem ?_
        exact Mem.Tame.refl _ _
      · refine Mach.tame_mk_mem ?_
        exact Mem.Tame.refl _ _

theorem execTickOutFall_framed (s : State) :
    Framed (setOf [.clk, .free, .msix, .intr, .twk, .sid, .tick, .sent]) (setOf []) s (execTickOutFall s) := by
  unfold execTickOutFall
  refine liveDev_framed (by decide) _ ?_
  refine Dev.tame_withSome ?_ (fun _ => ?_)
  · exact Dev.Tame.refl _ _
  · refine Dev.onTick_tame (by decide) ?_ ..
    refine Dev.advanceTo_tame (by decide) ?_ ..
    exact Dev.Tame.refl _ _

theorem execTickBroadcast_framed (s : State) :
    Framed (setOf [.clk, .free, .stats, .msix, .intr, .twk, .sid, .tick, .link, .sent]) (setOf []) s (execTickBroadcast s) := by
  unfold execTickBroadcast
  refine liveDev_framed (by decide) _ ?_
  dsimp only
  refine Dev.tame_ite ?_ ?_
  · exact Dev.Tame.refl _ _
  · refine Dev.tame_ite ?_ ?_
    · refine Dev.tame_ite ?_ ?_
      · refine Dev.advanceToSid_tame (by decide) ?_ ..
        exact Dev.Tame.refl _ _
      · refine Dev.broadcast_tame (by decide) ?_ ..
        refine Dev.onTick_tame (by decide) ?_ ..
        refine Dev.advanceToSid_tame (by decide) ?_ ..
        exact Dev.Tame.refl _ _
    · refine Dev.tame_ite ?_ ?_
      · refine Dev.tame_ite ?_ ?_
        · exact Dev.Tame.refl _ _
        · refine Dev.broadcast_tame (by decide) ?_ ..
          refine Dev.onTick_tame (by decide) ?_ ..
          exact Dev.Tame.refl _ _
      · exact Dev.Tame.refl _ _

theorem execTickMessage_framed (p : Nat) (s : State) :
    Framed (setOf [.free, .seq, .msix, .intr, .twk, .bbx, .tick, .link, .sent, .feat 0x22]) (setOf []) s (execTickMessage p s) := by
  unfold execTickMessage
  refine liveDev_framed (by decide) _ ?_
  refine onMsg_tame (by decide) (fun _ _ _ => ?_) ?_
  · dsimp only
    refine Dev.tame_ite ?_ ?_
    · assumption
    · refine Dev.tame_ite ?_ ?_
      · refine Dev.bump_tame (by decide) ?_
        assumption
      · refine Dev.tame_ite ?_ ?_
        · refine Dev.tame_ite ?_ ?_
          · refine Dev.onTick_tame (by decide) ?_ ..
            assumption
          · assumption
        · refine Dev.tame_ite ?_ ?_
          · refine Dev.onTick_tame (by decide) ?_ ..
            assumption
          · refine Dev.tame_ite ?_ ?_
            · refine Dev.record_tame (by decide) ?_ ..
              refine Dev.onTick_tame (by decide) ?_ ..
              assumption
            · assumption
  · exact Dev.Tame.refl _ _

theorem execWorkerSubstituteTick_framed (s : State) :
    Framed (setOf [.clk, .free, .seq, .stats, .snap, .commands, .events, .errorLog, .logs, .msix, .flt, .intr, .twk, .bbx, .sid, .tick, .link, .pools, .dram, .dma, .power, .caps, .prism, .codec, .seqr, .proxy, .mags, .sent, .feat 0x00, .feat 0x10, .feat 0x16, .feat 0x17, .feat 0x1B]) (setOf [.dramMem]) s (execWorkerSubstituteTick s) := by
  unfold execWorkerSubstituteTick
  refine live_framed (by decide) _ ?_ ?_
  · dsimp only
    refine Mach.tame_ite_dev ?_ ?_
    · exact Dev.Tame.refl _ _
    · refine Mach.tame_mk_dev ?_
      refine Dev.tame_ite ?_ ?_
      · refine Dev.postEvent_tame (by decide) ?_ ..
        refine Dev.raise_tame (by decide) ?_ ..
        refine Mach.issueTick_tame_dev (by decide) ?_ ..
        refine Mach.tame_mk_dev ?_
        refine Dev.onTick_tame (by decide) ?_ ..
        refine Dev.advanceToSid_tame (by decide) ?_ ..
        exact Dev.Tame.refl _ _
      · refine Mach.issueTick_tame_dev (by decide) ?_ ..
        refine Mach.tame_mk_dev ?_
        refine Dev.onTick_tame (by decide) ?_ ..
        refine Dev.advanceToSid_tame (by decide) ?_ ..
        exact Dev.Tame.refl _ _
  · dsimp only
    refine Mach.tame_ite_mem ?_ ?_
    · exact Mem.Tame.refl _ _
    · refine Mach.tame_mk_mem ?_
      refine Mach.issueTick_tame_mem (by decide) ?_ ..
      refine Mach.tame_mk_mem ?_
      exact Mem.Tame.refl _ _

end Sys2Proof.Machine
end

