-- ==== Sys2Proof/Laws/ExecTime.lean ====
section
/-! SUPPORT. What each command of Machine/Time.lean may change, and where it stops. -/

namespace Sys2Proof.Machine
open Sys2Proof

theorem execStep_framed (sq cid : Nat) (s : State) :
    Framed (setOf [.free, .seq, .commands, .errorLog, .admission, .msix, .intr, .twk, .bbx, .sid, .tick, .sent, .feat 0x01]) (setOf []) s (execStep sq cid s) := by
  unfold execStep
  refine live_framed (by decide) _ ?_ ?_
  · refine runCmd_tame_dev (fun _ => ?_) ?_
    · refine Mach.tame_ite_dev ?_ ?_
      · exact Dev.Tame.refl _ _
      · refine Mach.tame_ite_dev ?_ ?_
        · refine Mach.refuse_tame_dev (by decide) ?_ ..
          exact Dev.Tame.refl _ _
        · refine Mach.tame_ite_dev ?_ ?_
          · refine Mach.deny_tame_dev (by decide) ?_ ..
            exact Dev.Tame.refl _ _
          · dsimp only
            refine Mach.complete_tame_dev (by decide) ?_ ..
            refine Mach.tame_mk_dev ?_
            refine Dev.onSid_tame (by decide) ?_ ..
            refine Dev.stepBy_tame (by decide) ?_ ..
            exact Dev.Tame.refl _ _
    · exact Dev.Tame.refl _ _
  · refine runCmd_tame_mem (fun _ => ?_) ?_
    · refine Mach.tame_ite_mem ?_ ?_
      · exact Mem.Tame.refl _ _
      · refine Mach.tame_ite_mem ?_ ?_
        · refine Mach.refuse_tame_mem (by decide) ?_ ..
          exact Mem.Tame.refl _ _
        · refine Mach.tame_ite_mem ?_ ?_
          · refine Mach.deny_tame_mem (by decide) ?_ ..
            exact Mem.Tame.refl _ _
          · dsimp only
            refine Mach.complete_tame_mem (by decide) ?_ ..
            refine Mach.tame_mk_mem ?_
            exact Mem.Tame.refl _ _
    · exact Mem.Tame.refl _ _

theorem execSlew_framed (sq cid : Nat) (s : State) :
    Framed (setOf [.free, .seq, .commands, .errorLog, .msix, .intr, .twk, .bbx, .sid, .sent]) (setOf []) s (execSlew sq cid s) := by
  unfold execSlew
  refine live_framed (by decide) _ ?_ ?_
  · refine runCmd_tame_dev (fun _ => ?_) ?_
    · refine Mach.tame_ite_dev ?_ ?_
      · exact Dev.Tame.refl _ _
      · refine Mach.tame_ite_dev ?_ ?_
        · refine Mach.refuse_tame_dev (by decide) ?_ ..
          exact Dev.Tame.refl _ _
        · dsimp only
          refine Mach.complete_tame_dev (by decide) ?_ ..
          refine Mach.tame_mk_dev ?_
          refine Dev.tame_ite ?_ ?_
          · refine Dev.record_tame (by decide) ?_ ..
            refine Dev.afterDraw_tame (by decide) ?_ ..
            refine Dev.onSid_tame (by decide) ?_ ..
            exact Dev.Tame.refl _ _
          · refine Dev.afterDraw_tame (by decide) ?_ ..
            refine Dev.onSid_tame (by decide) ?_ ..
            exact Dev.Tame.refl _ _
    · exact Dev.Tame.refl _ _
  · refine runCmd_tame_mem (fun _ => ?_) ?_
    · refine Mach.tame_ite_mem ?_ ?_
      · exact Mem.Tame.refl _ _
      · refine Mach.tame_ite_mem ?_ ?_
        · refine Mach.refuse_tame_mem (by decide) ?_ ..
          exact Mem.Tame.refl _ _
        · dsimp only
          refine Mach.complete_tame_mem (by decide) ?_ ..
          refine Mach.tame_mk_mem ?_
          exact Mem.Tame.refl _ _
    · exact Mem.Tame.refl _ _

theorem execSlewEnd_framed (s : State) :
    Framed (setOf [.clk, .free, .msix, .intr, .twk, .sid, .sent]) (setOf []) s (execSlewEnd s) := by
  unfold execSlewEnd
  refine liveDev_framed (by decide) _ ?_
  split
  · exact Dev.Tame.refl _ _
  · dsimp only
    refine Dev.onSid_tame (by decide) ?_ ..
    refine Dev.advanceTo_tame (by decide) ?_ ..
    exact Dev.Tame.refl _ _

theorem execPpsInEdge_framed (dt : Nat) (s : State) :
    Framed (setOf [.clk, .free, .seq, .commands, .events, .msix, .intr, .twk, .bbx, .sid, .tick, .dma, .sent, .feat 0x01]) (setOf []) s (execPpsInEdge dt s) := by
  unfold execPpsInEdge
  refine liveDev_framed (by decide) _ ?_
  dsimp only
  refine Dev.tame_ite ?_ ?_
  · refine Dev.bump_tame (by decide) ?_
    refine Dev.advance_tame (by decide) ?_ ..
    exact Dev.Tame.refl _ _
  · refine Dev.tame_ite ?_ ?_
    · refine Dev.measure_tame (by decide) ?_ ..
      refine Dev.fireInt_tame (by decide) ?_ ..
      refine Dev.fireInt_tame (by decide) ?_ ..
      refine Dev.eventOccurs_tame (by decide) ?_ ..
      refine Dev.onSid_tame (by decide) ?_ ..
      refine Dev.advance_tame (by decide) ?_ ..
      exact Dev.Tame.refl _ _
    · refine Dev.fireInt_tame (by decide) ?_ ..
      refine Dev.fireInt_tame (by decide) ?_ ..
      refine Dev.eventOccurs_tame (by decide) ?_ ..
      refine Dev.onSid_tame (by decide) ?_ ..
      refine Dev.advance_tame (by decide) ?_ ..
      exact Dev.Tame.refl _ _

theorem execPpsOutSecond_framed (s : State) :
    Framed (setOf [.clk, .free, .msix, .intr, .twk, .sid, .sent]) (setOf []) s (execPpsOutSecond s) := by
  unfold execPpsOutSecond
  refine liveDev_framed (by decide) _ ?_
  dsimp only
  refine Dev.onSid_tame (by decide) ?_ ..
  refine Dev.advanceToSid_tame (by decide) ?_ ..
  exact Dev.Tame.refl _ _

theorem execPpsOutFall_framed (s : State) :
    Framed (setOf [.clk, .free, .msix, .intr, .twk, .sid, .sent]) (setOf []) s (execPpsOutFall s) := by
  unfold execPpsOutFall
  refine liveDev_framed (by decide) _ ?_
  split
  · exact Dev.Tame.refl _ _
  · refine Dev.onSid_tame (by decide) ?_ ..
    refine Dev.advanceTo_tame (by decide) ?_ ..
    exact Dev.Tame.refl _ _

theorem execTimeUnlockTimeout_framed (s : State) :
    Framed (setOf [.clk, .free, .seq, .commands, .events, .msix, .intr, .twk, .sid, .sent]) (setOf []) s (execTimeUnlockTimeout s) := by
  unfold execTimeUnlockTimeout
  refine liveDev_framed (by decide) _ ?_
  refine Dev.tame_onlyIf ?_ ?_
  · exact Dev.Tame.refl _ _
  · refine Dev.unlock_tame (by decide) ?_ ..
    refine Dev.advanceTo_tame (by decide) ?_ ..
    exact Dev.Tame.refl _ _

theorem execPtpSync_framed (e dt seqId t1 : Nat) (twoStep : Bool) (s : State) :
    Framed (setOf [.clk, .free, .seq, .commands, .events, .msix, .intr, .twk, .bbx, .sid, .tick, .eth, .sent, .feat 0x01]) (setOf []) s (execPtpSync e dt seqId t1 twoStep s) := by
  unfold execPtpSync
  refine liveDev_framed (by decide) _ ?_
  dsimp only
  refine Dev.tame_ite ?_ ?_
  · refine Dev.advance_tame (by decide) ?_ ..
    exact Dev.Tame.refl _ _
  · refine Dev.tame_ite ?_ ?_
    · refine Dev.onPtp_tame (by decide) ?_ ..
      refine Dev.advance_tame (by decide) ?_ ..
      exact Dev.Tame.refl _ _
    · refine Dev.ptpMeasured_tame (by decide) ?_ ..
      refine Dev.advance_tame (by decide) ?_ ..
      exact Dev.Tame.refl _ _

theorem execPtpFollowUp_framed (e dt seqId t1 : Nat) (s : State) :
    Framed (setOf [.clk, .free, .seq, .commands, .events, .msix, .intr, .twk, .bbx, .sid, .tick, .eth, .sent, .feat 0x01]) (setOf []) s (execPtpFollowUp e dt seqId t1 s) := by
  unfold execPtpFollowUp
  refine liveDev_framed (by decide) _ ?_
  dsimp only
  split
  · refine Dev.tame_ite ?_ ?_
    · refine Dev.ptpMeasured_tame (by decide) ?_ ..
      refine Dev.advance_tame (by decide) ?_ ..
      exact Dev.Tame.refl _ _
    · refine Dev.advance_tame (by decide) ?_ ..
      exact Dev.Tame.refl _ _
  · refine Dev.advance_tame (by decide) ?_ ..
    exact Dev.Tame.refl _ _

theorem execPtpDelayResp_framed (e dt seqId t4 : Nat) (s : State) :
    Framed (setOf [.clk, .free, .msix, .intr, .twk, .sid, .eth, .sent]) (setOf []) s (execPtpDelayResp e dt seqId t4 s) := by
  unfold execPtpDelayResp
  refine liveDev_framed (by decide) _ ?_
  dsimp only
  split
  · refine Dev.tame_ite ?_ ?_
    · refine Dev.onPtp_tame (by decide) ?_ ..
      refine Dev.advance_tame (by decide) ?_ ..
      exact Dev.Tame.refl _ _
    · refine Dev.advance_tame (by decide) ?_ ..
      exact Dev.Tame.refl _ _
  · refine Dev.advance_tame (by decide) ?_ ..
    exact Dev.Tame.refl _ _

theorem execPtpDelayReq_framed (e dt seqId : Nat) (s : State) :
    Framed (setOf [.clk, .free, .msix, .intr, .twk, .sid, .sent]) (setOf []) s (execPtpDelayReq e dt seqId s) := by
  unfold execPtpDelayReq
  refine liveDev_framed (by decide) _ ?_
  dsimp only
  refine Dev.tame_ite ?_ ?_
  · refine Dev.emit_tame (by decide) ?_ ..
    refine Dev.advance_tame (by decide) ?_ ..
    exact Dev.Tame.refl _ _
  · refine Dev.advance_tame (by decide) ?_ ..
    exact Dev.Tame.refl _ _

theorem execPtpAnnounce_framed (e dt : Nat) (a : List Nat) (s : State) :
    Framed (setOf [.clk, .free, .msix, .intr, .twk, .sid, .eth, .sent]) (setOf []) s (execPtpAnnounce e dt a s) := by
  unfold execPtpAnnounce
  refine liveDev_framed (by decide) _ ?_
  dsimp only
  refine Dev.tame_ite ?_ ?_
  · refine Dev.ptpSelect_tame (by decide) ?_ ..
    refine Dev.onPtp_tame (by decide) ?_ ..
    refine Dev.advance_tame (by decide) ?_ ..
    exact Dev.Tame.refl _ _
  · refine Dev.advance_tame (by decide) ?_ ..
    exact Dev.Tame.refl _ _

theorem execAnnounceTimeout_framed (e dt : Nat) (s : State) :
    Framed (setOf [.clk, .free, .msix, .intr, .twk, .sid, .eth, .sent]) (setOf []) s (execAnnounceTimeout e dt s) := by
  unfold execAnnounceTimeout
  refine liveDev_framed (by decide) _ ?_
  dsimp only
  refine Dev.tame_ite ?_ ?_
  · refine Dev.tame_ite ?_ ?_
    · refine Dev.onPtp_tame (by decide) ?_ ..
      refine Dev.onPtp_tame (by decide) ?_ ..
      refine Dev.advance_tame (by decide) ?_ ..
      exact Dev.Tame.refl _ _
    · refine Dev.ptpSelect_tame (by decide) ?_ ..
      refine Dev.onPtp_tame (by decide) ?_ ..
      refine Dev.advance_tame (by decide) ?_ ..
      exact Dev.Tame.refl _ _
  · refine Dev.advance_tame (by decide) ?_ ..
    exact Dev.Tame.refl _ _

theorem execPtpIntervalExpiry_framed (e dt kind : Nat) (s : State) :
    Framed (setOf [.clk, .free, .msix, .intr, .twk, .sid, .eth, .sent]) (setOf []) s (execPtpIntervalExpiry e dt kind s) := by
  unfold execPtpIntervalExpiry
  refine liveDev_framed (by decide) _ ?_
  dsimp only
  refine Dev.tame_ite ?_ ?_
  · refine Dev.advance_tame (by decide) ?_ ..
    exact Dev.Tame.refl _ _
  · refine Dev.tame_ite ?_ ?_
    · refine Dev.emit_tame (by decide) ?_ ..
      refine Dev.emit_tame (by decide) ?_ ..
      refine Dev.onPtp_tame (by decide) ?_ ..
      refine Dev.advance_tame (by decide) ?_ ..
      exact Dev.Tame.refl _ _
    · refine Dev.tame_ite ?_ ?_
      · refine Dev.emit_tame (by decide) ?_ ..
        refine Dev.onPtp_tame (by decide) ?_ ..
        refine Dev.advance_tame (by decide) ?_ ..
        exact Dev.Tame.refl _ _
      · refine Dev.tame_ite ?_ ?_
        · refine Dev.emit_tame (by decide) ?_ ..
          refine Dev.onPtp_tame (by decide) ?_ ..
          refine Dev.onPtp_tame (by decide) ?_ ..
          refine Dev.advance_tame (by decide) ?_ ..
          exact Dev.Tame.refl _ _
        · refine Dev.advance_tame (by decide) ?_ ..
          exact Dev.Tame.refl _ _

end Sys2Proof.Machine
end

