-- ==== Sys2Proof/Laws/Settle.lean ====
section
/-! SUPPORT. What settles after every command leaves the rest of the device as it was; how a command is shown to complete. -/

namespace Sys2Proof.Machine
open Sys2Proof

/-- An MSI-X message changes the vectors and what was sent. -/
theorem Dev.msix_shape (d : Dev) (v : Nat) :
    ∃ x e, d.msix v = { d with host := { d.host with msix := x }, sent := e } ∧ d.sent <:+ e := by
  unfold Dev.msix
  split
  · exact ⟨_, _, rfl, List.suffix_refl _⟩
  · split
    · exact ⟨_, _, rfl, List.suffix_refl _⟩
    · exact ⟨_, _, rfl, List.suffix_cons ..⟩

/-- Two control cores agree but for being awake. -/
def CtlCore.wakes (a b : CtlCore) : Prop := ∃ w, b = { a with awake := w }

/-- The interrupt controller moves its sources only: what is pending, asserted, repeated and offered, and who is awake. -/
structure Intr.Moves (n k : Intr) : Prop where
  shape : ∃ p a r o c, k = { n with pending := p, asserted := a, repeats := r, offers := o, cores := c }
  core : ∀ i, (n.core i).wakes (k.core i)

theorem Intr.Moves.refl (n : Intr) : n.Moves n := ⟨⟨_, _, _, _, _, rfl⟩, fun _ => ⟨_, rfl⟩⟩

theorem Intr.Moves.trans {a b c : Intr} (h : a.Moves b) (k : b.Moves c) : a.Moves c := by
  refine ⟨?_, fun i => ?_⟩
  · obtain ⟨p, q, r, o, x, rfl⟩ := h.shape
    obtain ⟨p, q, r, o, x, rfl⟩ := k.shape
    exact ⟨_, _, _, _, _, rfl⟩
  · obtain ⟨v, e⟩ := h.core i
    obtain ⟨w, g⟩ := k.core i
    exact ⟨w, by rw [g, e]⟩

theorem modAt_getD {α : Type} (l : List α) (i k : Nat) (f : α → α) (x : α) (hx : f x = x ∨ i < l.length ∨ i ≠ k) :
    (modAt l i f).getD k x = if i = k then f (l.getD k x) else l.getD k x := by
  induction l generalizing i k with
  | nil =>
    simp only [modAt, List.getD_nil, List.length_nil, Nat.not_lt_zero, false_or] at *
    split
    · rcases hx with h | h
      · exact h.symm
      · exact absurd (by assumption) h
    · rfl
  | cons y r ih =>
    cases i <;> cases k <;> simp only [modAt, List.getD_cons_zero, List.getD_cons_succ, if_true, Nat.succ_ne_zero, if_false,
      Nat.zero_ne_add_one, reduceCtorEq, Nat.add_right_cancel_iff]
    rw [ih]
    simpa using hx

theorem modAt_of_le {α : Type} (l : List α) : ∀ (i : Nat) (f : α → α), l.length ≤ i → modAt l i f = l := by
  induction l with
  | nil => exact fun _ _ _ => rfl
  | cons y r ih =>
    intro i f h
    cases i with
    | zero => exact absurd h (by simp)
    | succ i => exact congrArg (y :: ·) (ih i f (Nat.le_of_succ_le_succ h))

theorem Intr.arbitrateFrom_moves (l : List Nat) : ∀ n : Intr, n.Moves (n.arbitrateFrom l) := by
  induction l with
  | nil => exact fun n => .refl n
  | cons id r ih =>
    intro n
    unfold Intr.arbitrateFrom
    dsimp only
    refine Intr.Moves.trans (b := _) ?_ (ih _)
    split
    · refine ⟨⟨_, _, _, _, _, rfl⟩, fun i => ?_⟩
      by_cases h : (n.choose id).1 < n.cores.length
      · refine ⟨if (n.choose id).1 = i then true else (n.core i).awake, ?_⟩
        show (modAt n.cores _ _).getD i {} = _
        rw [modAt_getD _ _ _ _ _ (.inr (.inl h))]
        split <;> rfl
      · refine ⟨(n.core i).awake, ?_⟩
        show (modAt n.cores _ _).getD i {} = _
        rw [modAt_of_le _ _ _ (Nat.le_of_not_lt h)]
        rfl
    · exact ⟨⟨_, _, _, _, _, rfl⟩, fun _ => ⟨_, rfl⟩⟩

theorem Intr.arbitrate_moves (n : Intr) : n.Moves n.arbitrate := by
  unfold Intr.arbitrate
  exact Intr.Moves.trans (b := { n with offers := [] }) ⟨⟨_, _, _, _, _, rfl⟩, fun _ => ⟨_, rfl⟩⟩ (arbitrateFrom_moves _ _)

theorem Intr.fire_moves (n : Intr) (id : Nat) : n.Moves (n.fire id) := by
  unfold Intr.fire
  split
  · exact .refl n
  split
  · split
    · exact .refl n
    · exact ⟨⟨_, _, _, _, _, rfl⟩, fun _ => ⟨_, rfl⟩⟩
  split
  · exact .refl n
  · exact Intr.Moves.trans (b := { n with pending := insertNat id n.pending }) ⟨⟨_, _, _, _, _, rfl⟩, fun _ => ⟨_, rfl⟩⟩ (Intr.arbitrate_moves _)

theorem Intr.level_moves (n : Intr) (id : Nat) (b : Bool) : n.Moves (n.level id b) := by
  unfold Intr.level
  split
  · unfold Intr.assert
    split
    · exact .refl n
    · exact Intr.Moves.trans (b := { n with asserted := insertNat id n.asserted }) ⟨⟨_, _, _, _, _, rfl⟩, fun _ => ⟨_, rfl⟩⟩ (Intr.fire_moves _ _)
  · unfold Intr.deassert
    dsimp only
    split
    · exact Intr.Moves.trans (b := { n with asserted := n.asserted.filter (fun x => decide (x ≠ id)), pending := n.pending.filter (fun x => decide (x ≠ id)) }) ⟨⟨_, _, _, _, _, rfl⟩, fun _ => ⟨_, rfl⟩⟩ (Intr.arbitrate_moves _)
    · exact ⟨⟨_, _, _, _, _, rfl⟩, fun _ => ⟨_, rfl⟩⟩

theorem Intr.applyLevels_moves (l : List (Nat × Bool)) : ∀ n : Intr, n.Moves (n.applyLevels l) := by
  unfold Intr.applyLevels
  induction l with
  | nil => exact fun n => .refl n
  | cons e r ih => exact fun n => Intr.Moves.trans (n.level_moves e.1 e.2) (ih _)

/-- What settling changes: the sources of the interrupt controller, the vectors, TWINKLE's resumption, draws and what was sent. -/
theorem Dev.settle_shape (d : Dev) : ∃ n x e r f, d.settle = { d with
    intr := n, host := { d.host with msix := x }, sent := e, twk := { d.twk with resumeAt := r }, free := f } ∧ d.intr.Moves n ∧
    d.sent <:+ e := by
  unfold Dev.settle
  have hm := Intr.applyLevels_moves d.levels d.intr
  generalize d.intr.applyLevels d.levels = n at hm
  have key : ∀ d2 : Dev, (∃ x e, d2 = { d with intr := n, host := { d.host with msix := x }, sent := e } ∧ d.sent <:+ e) →
      ∃ m x e r f, (match d2.twk.stopAt, d2.twk.resumeAt with
        | some _, none =>
          if d2.twinkleCause then d2
          else (d2.onTwk (fun t => { t with resumeAt := some (d2.clk + d2.drawn % 1000001) })).afterDraw
        | _, _ => d2) = { d with
          intr := m, host := { d.host with msix := x }, sent := e, twk := { d.twk with resumeAt := r }, free := f } ∧ d.intr.Moves m ∧ d.sent <:+ e := by
    rintro d2 ⟨x, e, rfl, hs⟩
    split
    · split
      · exact ⟨n, _, _, _, _, rfl, hm, hs⟩
      · exact ⟨n, _, _, _, _, rfl, hm, hs⟩
    · exact ⟨n, _, _, _, _, rfl, hm, hs⟩
  refine key _ ?_
  dsimp only
  split
  · obtain ⟨x, e, k, hs⟩ := Dev.msix_shape { d with intr := n } 63
    exact ⟨x, e, k, hs⟩
  · exact ⟨_, _, rfl, List.suffix_refl _⟩

/-- What firing an interrupt source changes. -/
theorem Dev.fireInt_shape (d : Dev) (id : Nat) : ∃ n x e, d.fireInt id = { d with
    intr := n, host := { d.host with msix := x }, sent := e } ∧ d.intr.Moves n ∧ d.sent <:+ e := by
  unfold Dev.fireInt
  have hm := Intr.fire_moves d.intr id
  dsimp only [Dev.onIntr]
  generalize d.intr.fire id = n at hm
  split
  · obtain ⟨x, e, k, hs⟩ := Dev.msix_shape { d with intr := n } 63
    exact ⟨n, x, e, k, hm, hs⟩
  · exact ⟨n, _, _, rfl, hm, List.suffix_refl _⟩

@[simp] theorem Dev.fireInt_clk (d : Dev) (id : Nat) : (d.fireInt id).clk = d.clk := by
  obtain ⟨n, x, e, h, _, _⟩ := d.fireInt_shape id
  rw [h]

@[simp] theorem Dev.fireInt_undef (d : Dev) (id : Nat) : (d.fireInt id).undef = d.undef := by
  obtain ⟨n, x, e, h, _, _⟩ := d.fireInt_shape id
  rw [h]

@[simp] theorem Dev.fireInt_off (d : Dev) (id : Nat) : (d.fireInt id).off = d.off := by
  obtain ⟨n, x, e, h, _, _⟩ := d.fireInt_shape id
  rw [h]

@[simp] theorem Dev.fireInt_seq (d : Dev) (id : Nat) : (d.fireInt id).seq = d.seq := by
  obtain ⟨n, x, e, h, _, _⟩ := d.fireInt_shape id
  rw [h]

@[simp] theorem Dev.fireInt_regs (d : Dev) (id : Nat) : (d.fireInt id).regs = d.regs := by
  obtain ⟨n, x, e, h, _, _⟩ := d.fireInt_shape id
  rw [h]

@[simp] theorem Dev.fireInt_stats (d : Dev) (id : Nat) : (d.fireInt id).stats = d.stats := by
  obtain ⟨n, x, e, h, _, _⟩ := d.fireInt_shape id
  rw [h]

@[simp] theorem Dev.fireInt_snap (d : Dev) (id : Nat) : (d.fireInt id).snap = d.snap := by
  obtain ⟨n, x, e, h, _, _⟩ := d.fireInt_shape id
  rw [h]

@[simp] theorem Dev.fireInt_snapHidden (d : Dev) (id : Nat) : (d.fireInt id).snapHidden = d.snapHidden := by
  obtain ⟨n, x, e, h, _, _⟩ := d.fireInt_shape id
  rw [h]

@[simp] theorem Dev.fireInt_boot (d : Dev) (id : Nat) : (d.fireInt id).boot = d.boot := by
  obtain ⟨n, x, e, h, _, _⟩ := d.fireInt_shape id
  rw [h]

@[simp] theorem Dev.fireInt_otp (d : Dev) (id : Nat) : (d.fireInt id).otp = d.otp := by
  obtain ⟨n, x, e, h, _, _⟩ := d.fireInt_shape id
  rw [h]

@[simp] theorem Dev.fireInt_staged (d : Dev) (id : Nat) : (d.fireInt id).staged = d.staged := by
  obtain ⟨n, x, e, h, _, _⟩ := d.fireInt_shape id
  rw [h]

@[simp] theorem Dev.fireInt_flt (d : Dev) (id : Nat) : (d.fireInt id).flt = d.flt := by
  obtain ⟨n, x, e, h, _, _⟩ := d.fireInt_shape id
  rw [h]

@[simp] theorem Dev.fireInt_bbx (d : Dev) (id : Nat) : (d.fireInt id).bbx = d.bbx := by
  obtain ⟨n, x, e, h, _, _⟩ := d.fireInt_shape id
  rw [h]

@[simp] theorem Dev.fireInt_sid (d : Dev) (id : Nat) : (d.fireInt id).sid = d.sid := by
  obtain ⟨n, x, e, h, _, _⟩ := d.fireInt_shape id
  rw [h]

@[simp] theorem Dev.fireInt_tick (d : Dev) (id : Nat) : (d.fireInt id).tick = d.tick := by
  obtain ⟨n, x, e, h, _, _⟩ := d.fireInt_shape id
  rw [h]

@[simp] theorem Dev.fireInt_eth (d : Dev) (id : Nat) : (d.fireInt id).eth = d.eth := by
  obtain ⟨n, x, e, h, _, _⟩ := d.fireInt_shape id
  rw [h]

@[simp] theorem Dev.fireInt_refillAt (d : Dev) (id : Nat) : (d.fireInt id).refillAt = d.refillAt := by
  obtain ⟨n, x, e, h, _, _⟩ := d.fireInt_shape id
  rw [h]

@[simp] theorem Dev.fireInt_shapers (d : Dev) (id : Nat) : (d.fireInt id).shapers = d.shapers := by
  obtain ⟨n, x, e, h, _, _⟩ := d.fireInt_shape id
  rw [h]

@[simp] theorem Dev.fireInt_policers (d : Dev) (id : Nat) : (d.fireInt id).policers = d.policers := by
  obtain ⟨n, x, e, h, _, _⟩ := d.fireInt_shape id
  rw [h]

@[simp] theorem Dev.fireInt_link (d : Dev) (id : Nat) : (d.fireInt id).link = d.link := by
  obtain ⟨n, x, e, h, _, _⟩ := d.fireInt_shape id
  rw [h]

@[simp] theorem Dev.fireInt_fab (d : Dev) (id : Nat) : (d.fireInt id).fab = d.fab := by
  obtain ⟨n, x, e, h, _, _⟩ := d.fireInt_shape id
  rw [h]

@[simp] theorem Dev.fireInt_pools (d : Dev) (id : Nat) : (d.fireInt id).pools = d.pools := by
  obtain ⟨n, x, e, h, _, _⟩ := d.fireInt_shape id
  rw [h]

@[simp] theorem Dev.fireInt_dram (d : Dev) (id : Nat) : (d.fireInt id).dram = d.dram := by
  obtain ⟨n, x, e, h, _, _⟩ := d.fireInt_shape id
  rw [h]

@[simp] theorem Dev.fireInt_wports (d : Dev) (id : Nat) : (d.fireInt id).wports = d.wports := by
  obtain ⟨n, x, e, h, _, _⟩ := d.fireInt_shape id
  rw [h]

@[simp] theorem Dev.fireInt_dma (d : Dev) (id : Nat) : (d.fireInt id).dma = d.dma := by
  obtain ⟨n, x, e, h, _, _⟩ := d.fireInt_shape id
  rw [h]

@[simp] theorem Dev.fireInt_dmaEvents (d : Dev) (id : Nat) : (d.fireInt id).dmaEvents = d.dmaEvents := by
  obtain ⟨n, x, e, h, _, _⟩ := d.fireInt_shape id
  rw [h]

@[simp] theorem Dev.fireInt_power (d : Dev) (id : Nat) : (d.fireInt id).power = d.power := by
  obtain ⟨n, x, e, h, _, _⟩ := d.fireInt_shape id
  rw [h]

@[simp] theorem Dev.fireInt_pins (d : Dev) (id : Nat) : (d.fireInt id).pins = d.pins := by
  obtain ⟨n, x, e, h, _, _⟩ := d.fireInt_shape id
  rw [h]

@[simp] theorem Dev.fireInt_ctxs (d : Dev) (id : Nat) : (d.fireInt id).ctxs = d.ctxs := by
  obtain ⟨n, x, e, h, _, _⟩ := d.fireInt_shape id
  rw [h]

@[simp] theorem Dev.fireInt_caps (d : Dev) (id : Nat) : (d.fireInt id).caps = d.caps := by
  obtain ⟨n, x, e, h, _, _⟩ := d.fireInt_shape id
  rw [h]

@[simp] theorem Dev.fireInt_prism (d : Dev) (id : Nat) : (d.fireInt id).prism = d.prism := by
  obtain ⟨n, x, e, h, _, _⟩ := d.fireInt_shape id
  rw [h]

@[simp] theorem Dev.fireInt_codec (d : Dev) (id : Nat) : (d.fireInt id).codec = d.codec := by
  obtain ⟨n, x, e, h, _, _⟩ := d.fireInt_shape id
  rw [h]

@[simp] theorem Dev.fireInt_seqr (d : Dev) (id : Nat) : (d.fireInt id).seqr = d.seqr := by
  obtain ⟨n, x, e, h, _, _⟩ := d.fireInt_shape id
  rw [h]

@[simp] theorem Dev.fireInt_proxy (d : Dev) (id : Nat) : (d.fireInt id).proxy = d.proxy := by
  obtain ⟨n, x, e, h, _, _⟩ := d.fireInt_shape id
  rw [h]

@[simp] theorem Dev.fireInt_mags (d : Dev) (id : Nat) : (d.fireInt id).mags = d.mags := by
  obtain ⟨n, x, e, h, _, _⟩ := d.fireInt_shape id
  rw [h]

@[simp] theorem Dev.fireInt_free (d : Dev) (id : Nat) : (d.fireInt id).free = d.free := by
  obtain ⟨n, x, e, h, _, _⟩ := d.fireInt_shape id
  rw [h]

@[simp] theorem Dev.fireInt_twk (d : Dev) (id : Nat) : (d.fireInt id).twk = d.twk := by
  obtain ⟨n, x, e, h, _, _⟩ := d.fireInt_shape id
  rw [h]

@[simp] theorem Dev.fireInt_host_mbx (d : Dev) (id : Nat) : (d.fireInt id).host.mbx = d.host.mbx := by
  obtain ⟨n, x, e, h, _, _⟩ := d.fireInt_shape id
  rw [h]

@[simp] theorem Dev.fireInt_host_mbxIe (d : Dev) (id : Nat) : (d.fireInt id).host.mbxIe = d.host.mbxIe := by
  obtain ⟨n, x, e, h, _, _⟩ := d.fireInt_shape id
  rw [h]

@[simp] theorem Dev.fireInt_host_sqs (d : Dev) (id : Nat) : (d.fireInt id).host.sqs = d.host.sqs := by
  obtain ⟨n, x, e, h, _, _⟩ := d.fireInt_shape id
  rw [h]

@[simp] theorem Dev.fireInt_host_cqs (d : Dev) (id : Nat) : (d.fireInt id).host.cqs = d.host.cqs := by
  obtain ⟨n, x, e, h, _, _⟩ := d.fireInt_shape id
  rw [h]

@[simp] theorem Dev.fireInt_host_cmds (d : Dev) (id : Nat) : (d.fireInt id).host.cmds = d.host.cmds := by
  obtain ⟨n, x, e, h, _, _⟩ := d.fireInt_shape id
  rw [h]

@[simp] theorem Dev.fireInt_host_stage (d : Dev) (id : Nat) : (d.fireInt id).host.stage = d.host.stage := by
  obtain ⟨n, x, e, h, _, _⟩ := d.fireInt_shape id
  rw [h]

@[simp] theorem Dev.fireInt_host_held (d : Dev) (id : Nat) : (d.fireInt id).host.held = d.host.held := by
  obtain ⟨n, x, e, h, _, _⟩ := d.fireInt_shape id
  rw [h]

@[simp] theorem Dev.fireInt_host_heldPeak (d : Dev) (id : Nat) : (d.fireInt id).host.heldPeak = d.host.heldPeak := by
  obtain ⟨n, x, e, h, _, _⟩ := d.fireInt_shape id
  rw [h]

@[simp] theorem Dev.fireInt_host_holdStop (d : Dev) (id : Nat) : (d.fireInt id).host.holdStop = d.host.holdStop := by
  obtain ⟨n, x, e, h, _, _⟩ := d.fireInt_shape id
  rw [h]

@[simp] theorem Dev.fireInt_host_rrHigh (d : Dev) (id : Nat) : (d.fireInt id).host.rrHigh = d.host.rrHigh := by
  obtain ⟨n, x, e, h, _, _⟩ := d.fireInt_shape id
  rw [h]

@[simp] theorem Dev.fireInt_host_rrNorm (d : Dev) (id : Nat) : (d.fireInt id).host.rrNorm = d.host.rrNorm := by
  obtain ⟨n, x, e, h, _, _⟩ := d.fireInt_shape id
  rw [h]

@[simp] theorem Dev.fireInt_host_turnLeft (d : Dev) (id : Nat) : (d.fireInt id).host.turnLeft = d.host.turnLeft := by
  obtain ⟨n, x, e, h, _, _⟩ := d.fireInt_shape id
  rw [h]

@[simp] theorem Dev.fireInt_host_turnSq (d : Dev) (id : Nat) : (d.fireInt id).host.turnSq = d.host.turnSq := by
  obtain ⟨n, x, e, h, _, _⟩ := d.fireInt_shape id
  rw [h]

@[simp] theorem Dev.fireInt_host_admSqBase (d : Dev) (id : Nat) : (d.fireInt id).host.admSqBase = d.host.admSqBase := by
  obtain ⟨n, x, e, h, _, _⟩ := d.fireInt_shape id
  rw [h]

@[simp] theorem Dev.fireInt_host_admCqBase (d : Dev) (id : Nat) : (d.fireInt id).host.admCqBase = d.host.admCqBase := by
  obtain ⟨n, x, e, h, _, _⟩ := d.fireInt_shape id
  rw [h]

@[simp] theorem Dev.fireInt_host_admSize (d : Dev) (id : Nat) : (d.fireInt id).host.admSize = d.host.admSize := by
  obtain ⟨n, x, e, h, _, _⟩ := d.fireInt_shape id
  rw [h]

@[simp] theorem Dev.fireInt_host_admEn (d : Dev) (id : Nat) : (d.fireInt id).host.admEn = d.host.admEn := by
  obtain ⟨n, x, e, h, _, _⟩ := d.fireInt_shape id
  rw [h]

@[simp] theorem Dev.fireInt_host_admRdy (d : Dev) (id : Nat) : (d.fireInt id).host.admRdy = d.host.admRdy := by
  obtain ⟨n, x, e, h, _, _⟩ := d.fireInt_shape id
  rw [h]

@[simp] theorem Dev.fireInt_host_admCfgErr (d : Dev) (id : Nat) : (d.fireInt id).host.admCfgErr = d.host.admCfgErr := by
  obtain ⟨n, x, e, h, _, _⟩ := d.fireInt_shape id
  rw [h]

@[simp] theorem Dev.fireInt_host_aer (d : Dev) (id : Nat) : (d.fireInt id).host.aer = d.host.aer := by
  obtain ⟨n, x, e, h, _, _⟩ := d.fireInt_shape id
  rw [h]

@[simp] theorem Dev.fireInt_host_events (d : Dev) (id : Nat) : (d.fireInt id).host.events = d.host.events := by
  obtain ⟨n, x, e, h, _, _⟩ := d.fireInt_shape id
  rw [h]

@[simp] theorem Dev.fireInt_host_eventsLost (d : Dev) (id : Nat) : (d.fireInt id).host.eventsLost = d.host.eventsLost := by
  obtain ⟨n, x, e, h, _, _⟩ := d.fireInt_shape id
  rw [h]

@[simp] theorem Dev.fireInt_host_qwLow (d : Dev) (id : Nat) : (d.fireInt id).host.qwLow = d.host.qwLow := by
  obtain ⟨n, x, e, h, _, _⟩ := d.fireInt_shape id
  rw [h]

@[simp] theorem Dev.fireInt_host_sdtLatch (d : Dev) (id : Nat) : (d.fireInt id).host.sdtLatch = d.host.sdtLatch := by
  obtain ⟨n, x, e, h, _, _⟩ := d.fireInt_shape id
  rw [h]

@[simp] theorem Dev.fireInt_host_badAccess (d : Dev) (id : Nat) : (d.fireInt id).host.badAccess = d.host.badAccess := by
  obtain ⟨n, x, e, h, _, _⟩ := d.fireInt_shape id
  rw [h]

@[simp] theorem Dev.fireInt_host_stray (d : Dev) (id : Nat) : (d.fireInt id).host.stray = d.host.stray := by
  obtain ⟨n, x, e, h, _, _⟩ := d.fireInt_shape id
  rw [h]

@[simp] theorem Dev.fireInt_host_logError (d : Dev) (id : Nat) : (d.fireInt id).host.logError = d.host.logError := by
  obtain ⟨n, x, e, h, _, _⟩ := d.fireInt_shape id
  rw [h]

@[simp] theorem Dev.fireInt_host_logEvent (d : Dev) (id : Nat) : (d.fireInt id).host.logEvent = d.host.logEvent := by
  obtain ⟨n, x, e, h, _, _⟩ := d.fireInt_shape id
  rw [h]

@[simp] theorem Dev.fireInt_host_logAudit (d : Dev) (id : Nat) : (d.fireInt id).host.logAudit = d.host.logAudit := by
  obtain ⟨n, x, e, h, _, _⟩ := d.fireInt_shape id
  rw [h]

@[simp] theorem Dev.fireInt_host_logDropped (d : Dev) (id : Nat) : (d.fireInt id).host.logDropped = d.host.logDropped := by
  obtain ⟨n, x, e, h, _, _⟩ := d.fireInt_shape id
  rw [h]

@[simp] theorem Dev.fireInt_host_challenge (d : Dev) (id : Nat) : (d.fireInt id).host.challenge = d.host.challenge := by
  obtain ⟨n, x, e, h, _, _⟩ := d.fireInt_shape id
  rw [h]

@[simp] theorem Dev.fireInt_host_admission (d : Dev) (id : Nat) : (d.fireInt id).host.admission = d.host.admission := by
  obtain ⟨n, x, e, h, _, _⟩ := d.fireInt_shape id
  rw [h]

@[simp] theorem Dev.settle_clk (d : Dev) : d.settle.clk = d.clk := by
  obtain ⟨n, x, e, r, f, h, _, _⟩ := d.settle_shape
  rw [h]

@[simp] theorem Dev.settle_undef (d : Dev) : d.settle.undef = d.undef := by
  obtain ⟨n, x, e, r, f, h, _, _⟩ := d.settle_shape
  rw [h]

@[simp] theorem Dev.settle_off (d : Dev) : d.settle.off = d.off := by
  obtain ⟨n, x, e, r, f, h, _, _⟩ := d.settle_shape
  rw [h]

@[simp] theorem Dev.settle_seq (d : Dev) : d.settle.seq = d.seq := by
  obtain ⟨n, x, e, r, f, h, _, _⟩ := d.settle_shape
  rw [h]

@[simp] theorem Dev.settle_regs (d : Dev) : d.settle.regs = d.regs := by
  obtain ⟨n, x, e, r, f, h, _, _⟩ := d.settle_shape
  rw [h]

@[simp] theorem Dev.settle_stats (d : Dev) : d.settle.stats = d.stats := by
  obtain ⟨n, x, e, r, f, h, _, _⟩ := d.settle_shape
  rw [h]

@[simp] theorem Dev.settle_snap (d : Dev) : d.settle.snap = d.snap := by
  obtain ⟨n, x, e, r, f, h, _, _⟩ := d.settle_shape
  rw [h]

@[simp] theorem Dev.settle_snapHidden (d : Dev) : d.settle.snapHidden = d.snapHidden := by
  obtain ⟨n, x, e, r, f, h, _, _⟩ := d.settle_shape
  rw [h]

@[simp] theorem Dev.settle_boot (d : Dev) : d.settle.boot = d.boot := by
  obtain ⟨n, x, e, r, f, h, _, _⟩ := d.settle_shape
  rw [h]

@[simp] theorem Dev.settle_otp (d : Dev) : d.settle.otp = d.otp := by
  obtain ⟨n, x, e, r, f, h, _, _⟩ := d.settle_shape
  rw [h]

@[simp] theorem Dev.settle_staged (d : Dev) : d.settle.staged = d.staged := by
  obtain ⟨n, x, e, r, f, h, _, _⟩ := d.settle_shape
  rw [h]

@[simp] theorem Dev.settle_flt (d : Dev) : d.settle.flt = d.flt := by
  obtain ⟨n, x, e, r, f, h, _, _⟩ := d.settle_shape
  rw [h]

@[simp] theorem Dev.settle_bbx (d : Dev) : d.settle.bbx = d.bbx := by
  obtain ⟨n, x, e, r, f, h, _, _⟩ := d.settle_shape
  rw [h]

@[simp] theorem Dev.settle_sid (d : Dev) : d.settle.sid = d.sid := by
  obtain ⟨n, x, e, r, f, h, _, _⟩ := d.settle_shape
  rw [h]

@[simp] theorem Dev.settle_tick (d : Dev) : d.settle.tick = d.tick := by
  obtain ⟨n, x, e, r, f, h, _, _⟩ := d.settle_shape
  rw [h]

@[simp] theorem Dev.settle_eth (d : Dev) : d.settle.eth = d.eth := by
  obtain ⟨n, x, e, r, f, h, _, _⟩ := d.settle_shape
  rw [h]

@[simp] theorem Dev.settle_refillAt (d : Dev) : d.settle.refillAt = d.refillAt := by
  obtain ⟨n, x, e, r, f, h, _, _⟩ := d.settle_shape
  rw [h]

@[simp] theorem Dev.settle_shapers (d : Dev) : d.settle.shapers = d.shapers := by
  obtain ⟨n, x, e, r, f, h, _, _⟩ := d.settle_shape
  rw [h]

@[simp] theorem Dev.settle_policers (d : Dev) : d.settle.policers = d.policers := by
  obtain ⟨n, x, e, r, f, h, _, _⟩ := d.settle_shape
  rw [h]

@[simp] theorem Dev.settle_link (d : Dev) : d.settle.link = d.link := by
  obtain ⟨n, x, e, r, f, h, _, _⟩ := d.settle_shape
  rw [h]

@[simp] theorem Dev.settle_fab (d : Dev) : d.settle.fab = d.fab := by
  obtain ⟨n, x, e, r, f, h, _, _⟩ := d.settle_shape
  rw [h]

@[simp] theorem Dev.settle_pools (d : Dev) : d.settle.pools = d.pools := by
  obtain ⟨n, x, e, r, f, h, _, _⟩ := d.settle_shape
  rw [h]

@[simp] theorem Dev.settle_dram (d : Dev) : d.settle.dram = d.dram := by
  obtain ⟨n, x, e, r, f, h, _, _⟩ := d.settle_shape
  rw [h]

@[simp] theorem Dev.settle_wports (d : Dev) : d.settle.wports = d.wports := by
  obtain ⟨n, x, e, r, f, h, _, _⟩ := d.settle_shape
  rw [h]

@[simp] theorem Dev.settle_dma (d : Dev) : d.settle.dma = d.dma := by
  obtain ⟨n, x, e, r, f, h, _, _⟩ := d.settle_shape
  rw [h]

@[simp] theorem Dev.settle_dmaEvents (d : Dev) : d.settle.dmaEvents = d.dmaEvents := by
  obtain ⟨n, x, e, r, f, h, _, _⟩ := d.settle_shape
  rw [h]

@[simp] theorem Dev.settle_power (d : Dev) : d.settle.power = d.power := by
  obtain ⟨n, x, e, r, f, h, _, _⟩ := d.settle_shape
  rw [h]

@[simp] theorem Dev.settle_pins (d : Dev) : d.settle.pins = d.pins := by
  obtain ⟨n, x, e, r, f, h, _, _⟩ := d.settle_shape
  rw [h]

@[simp] theorem Dev.settle_ctxs (d : Dev) : d.settle.ctxs = d.ctxs := by
  obtain ⟨n, x, e, r, f, h, _, _⟩ := d.settle_shape
  rw [h]

@[simp] theorem Dev.settle_caps (d : Dev) : d.settle.caps = d.caps := by
  obtain ⟨n, x, e, r, f, h, _, _⟩ := d.settle_shape
  rw [h]

@[simp] theorem Dev.settle_prism (d : Dev) : d.settle.prism = d.prism := by
  obtain ⟨n, x, e, r, f, h, _, _⟩ := d.settle_shape
  rw [h]

@[simp] theorem Dev.settle_codec (d : Dev) : d.settle.codec = d.codec := by
  obtain ⟨n, x, e, r, f, h, _, _⟩ := d.settle_shape
  rw [h]

@[simp] theorem Dev.settle_seqr (d : Dev) : d.settle.seqr = d.seqr := by
  obtain ⟨n, x, e, r, f, h, _, _⟩ := d.settle_shape
  rw [h]

@[simp] theorem Dev.settle_proxy (d : Dev) : d.settle.proxy = d.proxy := by
  obtain ⟨n, x, e, r, f, h, _, _⟩ := d.settle_shape
  rw [h]

@[simp] theorem Dev.settle_mags (d : Dev) : d.settle.mags = d.mags := by
  obtain ⟨n, x, e, r, f, h, _, _⟩ := d.settle_shape
  rw [h]

@[simp] theorem Dev.settle_host_mbx (d : Dev) : d.settle.host.mbx = d.host.mbx := by
  obtain ⟨n, x, e, r, f, h, _, _⟩ := d.settle_shape
  rw [h]

@[simp] theorem Dev.settle_host_mbxIe (d : Dev) : d.settle.host.mbxIe = d.host.mbxIe := by
  obtain ⟨n, x, e, r, f, h, _, _⟩ := d.settle_shape
  rw [h]

@[simp] theorem Dev.settle_host_sqs (d : Dev) : d.settle.host.sqs = d.host.sqs := by
  obtain ⟨n, x, e, r, f, h, _, _⟩ := d.settle_shape
  rw [h]

@[simp] theorem Dev.settle_host_cqs (d : Dev) : d.settle.host.cqs = d.host.cqs := by
  obtain ⟨n, x, e, r, f, h, _, _⟩ := d.settle_shape
  rw [h]

@[simp] theorem Dev.settle_host_cmds (d : Dev) : d.settle.host.cmds = d.host.cmds := by
  obtain ⟨n, x, e, r, f, h, _, _⟩ := d.settle_shape
  rw [h]

@[simp] theorem Dev.settle_host_stage (d : Dev) : d.settle.host.stage = d.host.stage := by
  obtain ⟨n, x, e, r, f, h, _, _⟩ := d.settle_shape
  rw [h]

@[simp] theorem Dev.settle_host_held (d : Dev) : d.settle.host.held = d.host.held := by
  obtain ⟨n, x, e, r, f, h, _, _⟩ := d.settle_shape
  rw [h]

@[simp] theorem Dev.settle_host_heldPeak (d : Dev) : d.settle.host.heldPeak = d.host.heldPeak := by
  obtain ⟨n, x, e, r, f, h, _, _⟩ := d.settle_shape
  rw [h]

@[simp] theorem Dev.settle_host_holdStop (d : Dev) : d.settle.host.holdStop = d.host.holdStop := by
  obtain ⟨n, x, e, r, f, h, _, _⟩ := d.settle_shape
  rw [h]

@[simp] theorem Dev.settle_host_rrHigh (d : Dev) : d.settle.host.rrHigh = d.host.rrHigh := by
  obtain ⟨n, x, e, r, f, h, _, _⟩ := d.settle_shape
  rw [h]

@[simp] theorem Dev.settle_host_rrNorm (d : Dev) : d.settle.host.rrNorm = d.host.rrNorm := by
  obtain ⟨n, x, e, r, f, h, _, _⟩ := d.settle_shape
  rw [h]

@[simp] theorem Dev.settle_host_turnLeft (d : Dev) : d.settle.host.turnLeft = d.host.turnLeft := by
  obtain ⟨n, x, e, r, f, h, _, _⟩ := d.settle_shape
  rw [h]

@[simp] theorem Dev.settle_host_turnSq (d : Dev) : d.settle.host.turnSq = d.host.turnSq := by
  obtain ⟨n, x, e, r, f, h, _, _⟩ := d.settle_shape
  rw [h]

@[simp] theorem Dev.settle_host_admSqBase (d : Dev) : d.settle.host.admSqBase = d.host.admSqBase := by
  obtain ⟨n, x, e, r, f, h, _, _⟩ := d.settle_shape
  rw [h]

@[simp] theorem Dev.settle_host_admCqBase (d : Dev) : d.settle.host.admCqBase = d.host.admCqBase := by
  obtain ⟨n, x, e, r, f, h, _, _⟩ := d.settle_shape
  rw [h]

@[simp] theorem Dev.settle_host_admSize (d : Dev) : d.settle.host.admSize = d.host.admSize := by
  obtain ⟨n, x, e, r, f, h, _, _⟩ := d.settle_shape
  rw [h]

@[simp] theorem Dev.settle_host_admEn (d : Dev) : d.settle.host.admEn = d.host.admEn := by
  obtain ⟨n, x, e, r, f, h, _, _⟩ := d.settle_shape
  rw [h]

@[simp] theorem Dev.settle_host_admRdy (d : Dev) : d.settle.host.admRdy = d.host.admRdy := by
  obtain ⟨n, x, e, r, f, h, _, _⟩ := d.settle_shape
  rw [h]

@[simp] theorem Dev.settle_host_admCfgErr (d : Dev) : d.settle.host.admCfgErr = d.host.admCfgErr := by
  obtain ⟨n, x, e, r, f, h, _, _⟩ := d.settle_shape
  rw [h]

@[simp] theorem Dev.settle_host_aer (d : Dev) : d.settle.host.aer = d.host.aer := by
  obtain ⟨n, x, e, r, f, h, _, _⟩ := d.settle_shape
  rw [h]

@[simp] theorem Dev.settle_host_events (d : Dev) : d.settle.host.events = d.host.events := by
  obtain ⟨n, x, e, r, f, h, _, _⟩ := d.settle_shape
  rw [h]

@[simp] theorem Dev.settle_host_eventsLost (d : Dev) : d.settle.host.eventsLost = d.host.eventsLost := by
  obtain ⟨n, x, e, r, f, h, _, _⟩ := d.settle_shape
  rw [h]

@[simp] theorem Dev.settle_host_qwLow (d : Dev) : d.settle.host.qwLow = d.host.qwLow := by
  obtain ⟨n, x, e, r, f, h, _, _⟩ := d.settle_shape
  rw [h]

@[simp] theorem Dev.settle_host_sdtLatch (d : Dev) : d.settle.host.sdtLatch = d.host.sdtLatch := by
  obtain ⟨n, x, e, r, f, h, _, _⟩ := d.settle_shape
  rw [h]

@[simp] theorem Dev.settle_host_badAccess (d : Dev) : d.settle.host.badAccess = d.host.badAccess := by
  obtain ⟨n, x, e, r, f, h, _, _⟩ := d.settle_shape
  rw [h]

@[simp] theorem Dev.settle_host_stray (d : Dev) : d.settle.host.stray = d.host.stray := by
  obtain ⟨n, x, e, r, f, h, _, _⟩ := d.settle_shape
  rw [h]

@[simp] theorem Dev.settle_host_logError (d : Dev) : d.settle.host.logError = d.host.logError := by
  obtain ⟨n, x, e, r, f, h, _, _⟩ := d.settle_shape
  rw [h]

@[simp] theorem Dev.settle_host_logEvent (d : Dev) : d.settle.host.logEvent = d.host.logEvent := by
  obtain ⟨n, x, e, r, f, h, _, _⟩ := d.settle_shape
  rw [h]

@[simp] theorem Dev.settle_host_logAudit (d : Dev) : d.settle.host.logAudit = d.host.logAudit := by
  obtain ⟨n, x, e, r, f, h, _, _⟩ := d.settle_shape
  rw [h]

@[simp] theorem Dev.settle_host_logDropped (d : Dev) : d.settle.host.logDropped = d.host.logDropped := by
  obtain ⟨n, x, e, r, f, h, _, _⟩ := d.settle_shape
  rw [h]

@[simp] theorem Dev.settle_host_challenge (d : Dev) : d.settle.host.challenge = d.host.challenge := by
  obtain ⟨n, x, e, r, f, h, _, _⟩ := d.settle_shape
  rw [h]

@[simp] theorem Dev.settle_host_admission (d : Dev) : d.settle.host.admission = d.host.admission := by
  obtain ⟨n, x, e, r, f, h, _, _⟩ := d.settle_shape
  rw [h]

@[simp] theorem Dev.settle_intr_levelBits (d : Dev) : d.settle.intr.levelBits = d.intr.levelBits := by
  obtain ⟨n, x, e, r, f, h, k, _⟩ := d.settle_shape
  obtain ⟨_, _, _, _, _, rfl⟩ := k.shape
  rw [h]

@[simp] theorem Dev.settle_intr_setting (d : Dev) : d.settle.intr.setting = d.intr.setting := by
  obtain ⟨n, x, e, r, f, h, k, _⟩ := d.settle_shape
  obtain ⟨_, _, _, _, _, rfl⟩ := k.shape
  rw [h]

@[simp] theorem Dev.settle_intr_active (d : Dev) : d.settle.intr.active = d.intr.active := by
  obtain ⟨n, x, e, r, f, h, k, _⟩ := d.settle_shape
  obtain ⟨_, _, _, _, _, rfl⟩ := k.shape
  rw [h]

@[simp] theorem Dev.settle_intr_spurious (d : Dev) : d.settle.intr.spurious = d.intr.spurious := by
  obtain ⟨n, x, e, r, f, h, k, _⟩ := d.settle_shape
  obtain ⟨_, _, _, _, _, rfl⟩ := k.shape
  rw [h]

@[simp] theorem Dev.settle_intr_badComplete (d : Dev) : d.settle.intr.badComplete = d.intr.badComplete := by
  obtain ⟨n, x, e, r, f, h, k, _⟩ := d.settle_shape
  obtain ⟨_, _, _, _, _, rfl⟩ := k.shape
  rw [h]

@[simp] theorem Dev.settle_core_powered (d : Dev) (i : Nat) : (d.settle.intr.core i).powered = (d.intr.core i).powered := by
  obtain ⟨n, x, e, r, f, h, k, _⟩ := d.settle_shape
  obtain ⟨w, g⟩ := k.core i
  rw [h]
  show (n.core i).powered = _
  rw [g]

@[simp] theorem Dev.settle_core_level (d : Dev) (i : Nat) : (d.settle.intr.core i).level = (d.intr.core i).level := by
  obtain ⟨n, x, e, r, f, h, k, _⟩ := d.settle_shape
  obtain ⟨w, g⟩ := k.core i
  rw [h]
  show (n.core i).level = _
  rw [g]

@[simp] theorem Dev.settle_core_current (d : Dev) (i : Nat) : (d.settle.intr.core i).current = (d.intr.core i).current := by
  obtain ⟨n, x, e, r, f, h, k, _⟩ := d.settle_shape
  obtain ⟨w, g⟩ := k.core i
  rw [h]
  show (n.core i).current = _
  rw [g]

@[simp] theorem Dev.settle_core_lastId (d : Dev) (i : Nat) : (d.settle.intr.core i).lastId = (d.intr.core i).lastId := by
  obtain ⟨n, x, e, r, f, h, k, _⟩ := d.settle_shape
  obtain ⟨w, g⟩ := k.core i
  rw [h]
  show (n.core i).lastId = _
  rw [g]

@[simp] theorem Dev.settle_core_wdogAt (d : Dev) (i : Nat) : (d.settle.intr.core i).wdogAt = (d.intr.core i).wdogAt := by
  obtain ⟨n, x, e, r, f, h, k, _⟩ := d.settle_shape
  obtain ⟨w, g⟩ := k.core i
  rw [h]
  show (n.core i).wdogAt = _
  rw [g]

@[simp] theorem Dev.settle_core_warning (d : Dev) (i : Nat) : (d.settle.intr.core i).warning = (d.intr.core i).warning := by
  obtain ⟨n, x, e, r, f, h, k, _⟩ := d.settle_shape
  obtain ⟨w, g⟩ := k.core i
  rw [h]
  show (n.core i).warning = _
  rw [g]

@[simp] theorem Dev.settle_core_expired (d : Dev) (i : Nat) : (d.settle.intr.core i).expired = (d.intr.core i).expired := by
  obtain ⟨n, x, e, r, f, h, k, _⟩ := d.settle_shape
  obtain ⟨w, g⟩ := k.core i
  rw [h]
  show (n.core i).expired = _
  rw [g]

@[simp] theorem Dev.settle_twk_mode (d : Dev) : d.settle.twk.mode = d.twk.mode := by
  obtain ⟨n, x, e, r, f, h, _, _⟩ := d.settle_shape
  rw [h]

@[simp] theorem Dev.settle_twk_level (d : Dev) : d.settle.twk.level = d.twk.level := by
  obtain ⟨n, x, e, r, f, h, _, _⟩ := d.settle_shape
  rw [h]

@[simp] theorem Dev.settle_twk_nextEdge (d : Dev) : d.settle.twk.nextEdge = d.twk.nextEdge := by
  obtain ⟨n, x, e, r, f, h, _, _⟩ := d.settle_shape
  rw [h]

@[simp] theorem Dev.settle_twk_stopAt (d : Dev) : d.settle.twk.stopAt = d.twk.stopAt := by
  obtain ⟨n, x, e, r, f, h, _, _⟩ := d.settle_shape
  rw [h]

@[simp] theorem Dev.fireInt_mag (d : Dev) (id : Nat) (p : Nat) : (d.fireInt id).mag p = d.mag p := by
  obtain ⟨n, x, e, h, _, _⟩ := d.fireInt_shape id
  rw [h]
  rfl

@[simp] theorem Dev.settle_mag (d : Dev) (p : Nat) : d.settle.mag p = d.mag p := by
  obtain ⟨_, _, _, _, _, h, _, _⟩ := d.settle_shape
  rw [h]
  rfl

@[simp] theorem Dev.fireInt_port (d : Dev) (id : Nat) (p : Nat) : (d.fireInt id).port p = d.port p := by
  obtain ⟨n, x, e, h, _, _⟩ := d.fireInt_shape id
  rw [h]
  rfl

@[simp] theorem Dev.settle_port (d : Dev) (p : Nat) : d.settle.port p = d.port p := by
  obtain ⟨_, _, _, _, _, h, _, _⟩ := d.settle_shape
  rw [h]
  rfl

@[simp] theorem Dev.fireInt_ethPort (d : Dev) (id : Nat) (p : Nat) : (d.fireInt id).ethPort p = d.ethPort p := by
  obtain ⟨n, x, e, h, _, _⟩ := d.fireInt_shape id
  rw [h]
  rfl

@[simp] theorem Dev.settle_ethPort (d : Dev) (p : Nat) : d.settle.ethPort p = d.ethPort p := by
  obtain ⟨_, _, _, _, _, h, _, _⟩ := d.settle_shape
  rw [h]
  rfl

@[simp] theorem Dev.fireInt_poolAt (d : Dev) (id : Nat) (p : Nat) : (d.fireInt id).poolAt p = d.poolAt p := by
  obtain ⟨n, x, e, h, _, _⟩ := d.fireInt_shape id
  rw [h]
  rfl

@[simp] theorem Dev.settle_poolAt (d : Dev) (p : Nat) : d.settle.poolAt p = d.poolAt p := by
  obtain ⟨_, _, _, _, _, h, _, _⟩ := d.settle_shape
  rw [h]
  rfl

@[simp] theorem Dev.fireInt_dmaCh (d : Dev) (id : Nat) (c : Nat) : (d.fireInt id).dmaCh c = d.dmaCh c := by
  obtain ⟨n, x, e, h, _, _⟩ := d.fireInt_shape id
  rw [h]
  rfl

@[simp] theorem Dev.settle_dmaCh (d : Dev) (c : Nat) : d.settle.dmaCh c = d.dmaCh c := by
  obtain ⟨_, _, _, _, _, h, _, _⟩ := d.settle_shape
  rw [h]
  rfl

@[simp] theorem Dev.fireInt_powered (d : Dev) (id : Nat) (k : Nat) : (d.fireInt id).powered k = d.powered k := by
  obtain ⟨n, x, e, h, _, _⟩ := d.fireInt_shape id
  rw [h]
  rfl

@[simp] theorem Dev.settle_powered (d : Dev) (k : Nat) : d.settle.powered k = d.powered k := by
  obtain ⟨_, _, _, _, _, h, _, _⟩ := d.settle_shape
  rw [h]
  rfl

@[simp] theorem Dev.fireInt_quiescing (d : Dev) (id : Nat) (k : Nat) : (d.fireInt id).quiescing k = d.quiescing k := by
  obtain ⟨n, x, e, h, _, _⟩ := d.fireInt_shape id
  rw [h]
  rfl

@[simp] theorem Dev.settle_quiescing (d : Dev) (k : Nat) : d.settle.quiescing k = d.quiescing k := by
  obtain ⟨_, _, _, _, _, h, _, _⟩ := d.settle_shape
  rw [h]
  rfl

@[simp] theorem Dev.fireInt_takesWork (d : Dev) (id : Nat) (k : Nat) : (d.fireInt id).takesWork k = d.takesWork k := by
  obtain ⟨n, x, e, h, _, _⟩ := d.fireInt_shape id
  rw [h]
  rfl

@[simp] theorem Dev.settle_takesWork (d : Dev) (k : Nat) : d.settle.takesWork k = d.takesWork k := by
  obtain ⟨_, _, _, _, _, h, _, _⟩ := d.settle_shape
  rw [h]
  rfl

@[simp] theorem Dev.fireInt_reg (d : Dev) (id : Nat) (feat off : Nat) : (d.fireInt id).reg feat off = d.reg feat off := by
  obtain ⟨n, x, e, h, _, _⟩ := d.fireInt_shape id
  rw [h]
  rfl

@[simp] theorem Dev.settle_reg (d : Dev) (feat off : Nat) : d.settle.reg feat off = d.reg feat off := by
  obtain ⟨_, _, _, _, _, h, _, _⟩ := d.settle_shape
  rw [h]
  rfl

@[simp] theorem Dev.fireInt_reg64 (d : Dev) (id : Nat) (feat off : Nat) : (d.fireInt id).reg64 feat off = d.reg64 feat off := by
  obtain ⟨n, x, e, h, _, _⟩ := d.fireInt_shape id
  rw [h]
  rfl

@[simp] theorem Dev.settle_reg64 (d : Dev) (feat off : Nat) : d.settle.reg64 feat off = d.reg64 feat off := by
  obtain ⟨_, _, _, _, _, h, _, _⟩ := d.settle_shape
  rw [h]
  rfl

@[simp] theorem Dev.fireInt_stat (d : Dev) (id : Nat) (o : Nat) : (d.fireInt id).stat o = d.stat o := by
  obtain ⟨n, x, e, h, _, _⟩ := d.fireInt_shape id
  rw [h]
  rfl

@[simp] theorem Dev.settle_stat (d : Dev) (o : Nat) : d.settle.stat o = d.stat o := by
  obtain ⟨_, _, _, _, _, h, _, _⟩ := d.settle_shape
  rw [h]
  rfl

@[simp] theorem Dev.fireInt_cap (d : Dev) (id : Nat) (s : Nat) : (d.fireInt id).cap s = d.cap s := by
  obtain ⟨n, x, e, h, _, _⟩ := d.fireInt_shape id
  rw [h]
  rfl

@[simp] theorem Dev.settle_cap (d : Dev) (s : Nat) : d.settle.cap s = d.cap s := by
  obtain ⟨_, _, _, _, _, h, _, _⟩ := d.settle_shape
  rw [h]
  rfl

@[simp] theorem Dev.fireInt_streams (d : Dev) (id : Nat) : (d.fireInt id).streams = d.streams := by
  obtain ⟨n, x, e, h, _, _⟩ := d.fireInt_shape id
  rw [h]
  rfl

@[simp] theorem Dev.settle_streams (d : Dev) : d.settle.streams = d.streams := by
  obtain ⟨_, _, _, _, _, h, _, _⟩ := d.settle_shape
  rw [h]
  rfl

@[simp] theorem Dev.fireInt_cmd (d : Dev) (id : Nat) (sq cid : Nat) : (d.fireInt id).cmd sq cid = d.cmd sq cid := by
  obtain ⟨n, x, e, h, _, _⟩ := d.fireInt_shape id
  rw [h]
  rfl

@[simp] theorem Dev.settle_cmd (d : Dev) (sq cid : Nat) : d.settle.cmd sq cid = d.cmd sq cid := by
  obtain ⟨_, _, _, _, _, h, _, _⟩ := d.settle_shape
  rw [h]
  rfl

@[simp] theorem Dev.fireInt_sq (d : Dev) (id : Nat) (q : Nat) : (d.fireInt id).sq q = d.sq q := by
  obtain ⟨n, x, e, h, _, _⟩ := d.fireInt_shape id
  rw [h]
  rfl

@[simp] theorem Dev.settle_sq (d : Dev) (q : Nat) : d.settle.sq q = d.sq q := by
  obtain ⟨_, _, _, _, _, h, _, _⟩ := d.settle_shape
  rw [h]
  rfl

@[simp] theorem Dev.fireInt_cq (d : Dev) (id : Nat) (q : Nat) : (d.fireInt id).cq q = d.cq q := by
  obtain ⟨n, x, e, h, _, _⟩ := d.fireInt_shape id
  rw [h]
  rfl

@[simp] theorem Dev.settle_cq (d : Dev) (q : Nat) : d.settle.cq q = d.cq q := by
  obtain ⟨_, _, _, _, _, h, _, _⟩ := d.settle_shape
  rw [h]
  rfl

@[simp] theorem Dev.fireInt_buf (d : Dev) (id : Nat) (p i : Nat) : (d.fireInt id).buf p i = d.buf p i := by
  obtain ⟨n, x, e, h, _, _⟩ := d.fireInt_shape id
  rw [h]
  rfl

@[simp] theorem Dev.settle_buf (d : Dev) (p i : Nat) : d.settle.buf p i = d.buf p i := by
  obtain ⟨_, _, _, _, _, h, _, _⟩ := d.settle_shape
  rw [h]
  rfl

@[simp] theorem Dev.fireInt_poolFree (d : Dev) (id : Nat) (p : Nat) : (d.fireInt id).poolFree p = d.poolFree p := by
  obtain ⟨n, x, e, h, _, _⟩ := d.fireInt_shape id
  rw [h]
  rfl

@[simp] theorem Dev.settle_poolFree (d : Dev) (p : Nat) : d.settle.poolFree p = d.poolFree p := by
  obtain ⟨_, _, _, _, _, h, _, _⟩ := d.settle_shape
  rw [h]
  rfl

@[simp] theorem Dev.fireInt_sdt (d : Dev) (id : Nat) : (d.fireInt id).sdt = d.sdt := by
  obtain ⟨n, x, e, h, _, _⟩ := d.fireInt_shape id
  rw [h]
  rfl

@[simp] theorem Dev.settle_sdt (d : Dev) : d.settle.sdt = d.sdt := by
  obtain ⟨_, _, _, _, _, h, _, _⟩ := d.settle_shape
  rw [h]
  rfl

@[simp] theorem Dev.fireInt_deviceId (d : Dev) (id : Nat) : (d.fireInt id).deviceId = d.deviceId := by
  obtain ⟨n, x, e, h, _, _⟩ := d.fireInt_shape id
  rw [h]
  rfl

@[simp] theorem Dev.settle_deviceId (d : Dev) : d.settle.deviceId = d.deviceId := by
  obtain ⟨_, _, _, _, _, h, _, _⟩ := d.settle_shape
  rw [h]
  rfl

@[simp] theorem Dev.fireInt_frameNow (d : Dev) (id : Nat) : (d.fireInt id).frameNow = d.frameNow := by
  obtain ⟨n, x, e, h, _, _⟩ := d.fireInt_shape id
  rw [h]
  rfl

@[simp] theorem Dev.settle_frameNow (d : Dev) : d.settle.frameNow = d.frameNow := by
  obtain ⟨_, _, _, _, _, h, _, _⟩ := d.settle_shape
  rw [h]
  rfl

@[simp] theorem Dev.fireInt_tickSource (d : Dev) (id : Nat) : (d.fireInt id).tickSource = d.tickSource := by
  obtain ⟨n, x, e, h, _, _⟩ := d.fireInt_shape id
  rw [h]
  rfl

@[simp] theorem Dev.settle_tickSource (d : Dev) : d.settle.tickSource = d.tickSource := by
  obtain ⟨_, _, _, _, _, h, _, _⟩ := d.settle_shape
  rw [h]
  rfl

@[simp] theorem Dev.fireInt_mailbox (d : Dev) (id : Nat) (i : Nat) : (d.fireInt id).mailbox i = d.mailbox i := by
  obtain ⟨n, x, e, h, _, _⟩ := d.fireInt_shape id
  rw [h]
  rfl

@[simp] theorem Dev.settle_mailbox (d : Dev) (i : Nat) : d.settle.mailbox i = d.mailbox i := by
  obtain ⟨_, _, _, _, _, h, _, _⟩ := d.settle_shape
  rw [h]
  rfl

/-- What has left the device stays recorded. -/
theorem Dev.mem_settle_sent {d : Dev} {x : Emission} (hx : x ∈ d.sent) : x ∈ d.settle.sent := by
  obtain ⟨n, y, e, r, f, h, _, k⟩ := d.settle_shape
  rw [h]
  exact k.subset hx

/-- The part of a number. -/
def Part.ofCode (n : Nat) : Part :=
  if 64 ≤ n then .feat ⟨(n - 64) % 64, Nat.mod_lt _ (by decide)⟩
  else
    [.clk, .free, .undef, .off, .seq, .stats, .snap, .boot, .otp, .staged, .mailboxes, .sqs, .cqs, .turns, .admin,
     .commands, .events, .errorLog, .logs, .admission, .access, .msix, .flt, .intr, .twk, .bbx, .sid, .tick, .eth,
     .refillAt, .shapers, .policers, .link, .fab, .pools, .dram, .wports, .dma, .dmaEvents, .power, .pins, .ctxs,
     .caps, .prism, .codec, .seqr, .proxy, .mags, .sent, .hostMem, .dramMem, .nor, .mram, .carriers].getD n .clk

theorem Part.ofCode_code (p : Part) : Part.ofCode p.code = p := by
  cases p
  case feat f =>
    have h : 64 + f.val - 64 = f.val := by omega
    simp only [Part.code, Part.ofCode, Nat.le_add_right, if_true, h, Nat.mod_eq_of_lt f.isLt]
  all_goals rfl

/-- No two parts share a number. -/
theorem Part.code_inj {p q : Part} (h : p.code = q.code) : p = q := by
  rw [← p.ofCode_code, h, q.ofCode_code]

/-- Which command a pair of queue and CID names. -/
theorem Dev.cmd_key {d : Dev} {sq cid : Nat} {c : Cmd} (h : d.cmd sq cid = some c) : c.sq = sq ∧ c.cid = cid ∧ c.phase ≠ .completing := by
  have := List.find?_some h
  simpa [Bool.and_eq_true, and_assoc] using this

/-- A part outside a list has its bit clear. -/
theorem setOf_testBit {p : Part} : ∀ {ps : List Part}, p ∉ ps → (setOf ps).testBit p.code = false
  | [], _ => Nat.zero_testBit _
  | q :: r, h => by
    rw [List.mem_cons, not_or] at h
    show ((setOf r ||| 2 ^ q.code).testBit p.code) = false
    rw [Nat.testBit_or, setOf_testBit h.2, Bool.false_or, Nat.testBit_two_pow]
    exact decide_eq_false (fun e => h.1 (Part.code_inj e.symm))

/-- Parts outside a set stay as they are. -/
theorem Mach.only_of_tame {dp mp : Nat} {ps : List Part} {m n : Mach} (h : Dev.Tame dp m.dev n.dev) (k : Mem.Tame mp m.mem n.mem)
    (hs : (dp ||| mp) ||| setOf ps = setOf ps) : m.Only ps n := by
  intro p hp
  have hb : (setOf ps).testBit p.code = false := setOf_testBit hp
  have hx := testBit_of_sub hs hb
  rw [Nat.testBit_or, Bool.or_eq_false_iff] at hx
  have a := h.same p hx.1
  have b := k.same p hx.2
  cases p <;> first | exact a | exact b

/-- How a command of a live machine is shown to yield. -/
theorem yields_of_live {i : Instr} {s : State} {f : Mach → Mach} {ps : List Part} {P : State → Prop} {dp mp : Nat} (hl : s.Live)
    (he : exec i s = live f s) (hf : Framed dp mp s (exec i s)) (hm : (dp ||| mp) ||| setOf (ps ++ settled) = setOf (ps ++ settled))
    (hP : P { s with m := { f s.m with dev := (f s.m).dev.settle } }) : Yields i s ps P := by
  have e : exec i s = .next { s with m := { f s.m with dev := (f s.m).dev.settle } } := by
    rw [he]
    unfold live
    rw [hl.1, hl.2]
    rfl
  rw [e] at hf
  exact ⟨_, e, hP, rfl, Mach.only_of_tame hf.1 hf.2.1 hm⟩

/-- The same for a command over the device alone. -/
theorem yields_of_liveDev {i : Instr} {s : State} {f : Dev → Dev} {ps : List Part} {P : State → Prop} {dp mp : Nat} (hl : s.Live)
    (he : exec i s = liveDev f s) (hf : Framed dp mp s (exec i s)) (hm : (dp ||| mp) ||| setOf (ps ++ settled) = setOf (ps ++ settled))
    (hP : P { s with m := { s.m with dev := (f s.m.dev).settle } }) : Yields i s ps P :=
  yields_of_live hl he hf hm hP

/-- What a started command of an opcode does is its meaning. -/
theorem runCmd_eq {s : State} {sq cid op : Nat} {c : Cmd} (h : s.Runs sq cid op c) (f : Cmd → Mach → Mach) :
    runCmd sq cid op f s.m = f c s.m := by
  unfold runCmd
  rw [h.2.1]
  exact if_pos h.2.2

/-- The same for a command fetched from a queue. -/
theorem yields_of_run {i : Instr} {s : State} {sq cid op : Nat} {c : Cmd} {f : Cmd → Mach → Mach} {ps : List Part} {P : State → Prop}
    {dp mp : Nat} (hr : s.Runs sq cid op c) (he : exec i s = live (runCmd sq cid op f) s) (hf : Framed dp mp s (exec i s))
    (hm : (dp ||| mp) ||| setOf (ps ++ settled) = setOf (ps ++ settled))
    (hP : c.sq = sq → c.cid = cid → P { s with m := { f c s.m with dev := (f c s.m).dev.settle } }) : Yields i s ps P := by
  have k := Dev.cmd_key hr.2.1
  refine yields_of_live hr.1 he hf hm ?_
  rw [runCmd_eq hr]
  exact hP k.1 k.2.1

/-- A value that differs from what an unlisted key reads as is read where it was put. -/
theorem Tbl.get_set_same {α : Type} [DecidableEq α] (f : Nat → α) (t : Tbl α) (k : Nat) {v : α} (h : v ≠ f k) :
    Tbl.get f (Tbl.set f t k v) k = v := by
  unfold Tbl.set
  rw [if_neg h, Tbl.get_ins, if_pos rfl]

theorem Dev.reg_setReg {d : Dev} (h : d.Shape) (feat o : Nat) (v : Word) : (d.setReg feat o v).reg feat o = v := by
  have k := Tbl.get_set regDefault h.2.2.2.2.2.2 (regKey feat o) (regKey feat o) v
  rw [if_pos rfl] at k
  exact k

theorem Dev.reg_setReg_of_ne {d : Dev} {f g o q : Nat} {v : Word} (h : regKey f o ≠ regKey g q) :
    (d.setReg g q v).reg f o = d.reg f o := Tbl.get_set_of_ne _ _ _ h

/-- A completion enters the completion stage. -/
theorem Dev.complete_stage {d : Dev} {sq cid : Nat} {c : Cmd} (h : d.cmd sq cid = some c) (status result : Nat) (e : ErrInfo) :
    (d.complete sq cid status result e).host.stage = d.host.stage ++ [Compl.mk sq cid (d.cqOf sq) status (result % 2 ^ 32)
      (decide (status ≠ 0 ∧ status ≠ 1)) (retryOf status)] := by
  unfold Dev.complete
  rw [h]
  dsimp only
  split <;> rfl

/-- A command that completes ends with its status and result. -/
theorem ends_of_complete {s t : State} {d : Dev} {sq cid : Nat} {c : Cmd} {status result : Nat} {e : ErrInfo} (h : d.cmd sq cid = some c)
    (ht : t.m.dev.host.stage = (d.complete sq cid status result e).host.stage) : t.Ends sq cid status (result % 2 ^ 32) := by
  refine ⟨Compl.mk sq cid (d.cqOf sq) status (result % 2 ^ 32) (decide (status ≠ 0 ∧ status ≠ 1)) (retryOf status), ?_, rfl, rfl, rfl, rfl⟩
  rw [ht, Dev.complete_stage h]
  exact List.mem_append_right _ (List.mem_singleton.2 rfl)

end Sys2Proof.Machine
end

