-- ==== Sys2Proof/Tests/Slice0.lean ====
section
/-! SUPPORT. Tests: the well-formedness smoke, the worked examples of the spec, and for every clause of every statement a concrete state and
operands that meet its hypotheses together. -/

namespace Sys2Proof.Tests
open Sys2Proof Sys2Proof.Machine

set_option maxRecDepth 20000
set_option Elab.async false

/-! ### Ill-formed commands: each breaks one check, and is refused -/

theorem test_wf_bar0 :
    ([
    .bar0RcRead 65536, .sqTailDoorbell 256 0, .sqTailDoorbell 0 65536, .cqHeadDoorbell 256 0, .cqHeadDoorbell 0 65536,
    .registerWrite false 65536 false 0, .faultStatusClear 19 0, .intHostAck 1024, .hostSourceEnable 1024 false 0,
    .hostSourceEnable 0 false 256, .echo 4, .cqAggTimeout 256, .createSq 0 65536, .createCq 0 65536, .deleteSq 0 65536,
    .deleteCq 0 65536, .asyncEventRequest 0 65536] : List Instr).all (fun i => !i.wf) = true := by decide

theorem test_wf_boot :
    ([
    .bootRomStart false false 0 3 false false] : List Instr).all (fun i => !i.wf) = true := by decide

theorem test_wf_memory :
    ([
    .dramScrub 4 [], .mr4Read 4 []] : List Instr).all (fun i => !i.wf) = true := by decide

theorem test_wf_dma :
    ([
    .dmaMove 32 [], .dmaFill 32, .dmaCmp 32 [], .dmaLoop 32, .dmaWait 32, .dmaSignal 32, .dmaEnd 32,
    .dmaEventRelease 64, .waitTimeout 32, .dmaArm 32 false, .dmaRun 0 65536] : List Instr).all (fun i => !i.wf) = true := by decide

theorem test_wf_time :
    ([
    .step 0 65536, .slew 0 65536, .ptpSync 2 0 0 0 false, .ptpFollowUp 2 0 0 0, .ptpDelayResp 2 0 0 0,
    .ptpDelayReq 2 0 0, .ptpAnnounce 2 0 [], .announceTimeout 2 0, .ptpIntervalExpiry 2 0 0, .ptpIntervalExpiry 0 0 3] : List Instr).all (fun i => !i.wf) = true := by decide

theorem test_wf_eth :
    ([
    .portDown 2 false false false, .portUp 2, .ethHoldExpiry 2, .shaperReset 4096, .gateIntervalEnd 2, .ethGclCommit 2,
    .gclActivate 2, .ethFrameTx 2, .ethFrameRx 2 false []] : List Instr).all (fun i => !i.wf) = true := by decide

theorem test_wf_link :
    ([
    .lanesAligned 4, .linkInitSend 4, .linkInit 4, .linkLoss 4 0 0, .linkHoldExpiry 4, .miswiredRetry 4, .flitRx 4 [],
    .replayTimeout 4, .constellationEnum 0 65536, .enum 4, .enumDone 4, .enumEntry 4, .enumTimeout 4, .reassign 4,
    .state 4, .constellationSeverity 0 65536, .severity 4, .severityAck 4, .fault 4, .ffRead 4, .ffData 4,
    .relayEnable 2 0, .relayAdmit 4, .relayGrant 4, .timeFlitSend 4, .sync 4, .req 4, .resp 4] : List Instr).all (fun i => !i.wf) = true := by decide

theorem test_wf_faults :
    ([
    .wdogService 4, .wdogWarning 4, .wdogExpiry 4, .intSourceFire 1024 false, .intClaim 4, .intComplete 4 0 false,
    .intComplete 0 1024 false, .intSrcSetting 1024 0, .coreSleep 4, .faultClear 0 65536, .blackboxRead 0 65536 [],
    .blackboxClear 0 65536] : List Instr).all (fun i => !i.wf) = true := by decide

theorem test_wf_pools :
    ([
    .poolRequest 0 4 0 0 0, .poolRequest 0 0 0 128 0, .poolFree 0 0 128, .bufReclaim 0 65536] : List Instr).all (fun i => !i.wf) = true := by decide

theorem test_wf_fabric :
    ([
    .cellTransfer 128 0 0 0 0 false [] 0, .cellTransfer 0 128 0 0 0 false [] 0, .cellTransfer 0 0 4 0 0 false [] 0,
    .reseqGap 128 0 0, .reseqGap 0 128 0, .reseqGap 0 0 4, .egressGrant 7] : List Instr).all (fun i => !i.wf) = true := by decide

theorem test_wf_prism :
    ([
    .laneBlock 64 0 0, .sof 4 0 0, .sof 0 32 0, .sol 4, .eol 4, .eof 4 0, .eof 0 32, .csi2LongPacket 4 0 0 0 false [],
    .csi2LongPacket 0 32 0 0 false [], .csi2LineStart 4 0 0, .csi2LineStart 0 32 0] : List Instr).all (fun i => !i.wf) = true := by decide

theorem test_wf_codecCmd :
    ([
    .attemptStart 24, .attemptComplete 24 0, .queueFull 24 0, .bqRoomResume 24, .measureDone 24 0 0,
    .codePassDone 24 0 0, .eclipsePassStart 24, .eclipsePassDone 24 0, .verifyDone 24 0 0 [] [], .tablesReady 64 0,
    .guardSwitch 64 0 0, .pxeParity 24, .bqUncorrectable 24 0, .entParity 24, .eclipseFault 24, .mirFault 24,
    .engineStall 4 0, .engineStall 0 24, .engineResetDone 4 0 0, .engineResetDone 0 24 0] : List Instr).all (fun i => !i.wf) = true := by decide

theorem test_wf_seq :
    ([
    .seqDispatch 25 false, .cont 25 0, .jump 25 0, .brNeg 25 0, .brZero 25 0, .brCond 25 0, .call 25 0, .ret 25 0,
    .seqEnd 25 0, .waitRelease 25, .seqTimerExpire 25, .handlerForcedEnd 25, .ucodeLoad 0 65536] : List Instr).all (fun i => !i.wf) = true := by decide

theorem test_wf_flash :
    ([
    .chunkCheck 64 false, .stripeProgram 2, .flushTimeout 2, .programDone 2 0 0 none, .programDone 0 128 0 none,
    .eraseDone 2 0 false, .statusTimeout 2 0 0, .statusTimeout 0 128 0, .magPresentNChange 2 false (0, [], [], []),
    .magPresent 2, .magRemoved 2, .codewordRead 2 0 0 0 0, .codewordRead 0 0 4 0 0, .relocateBlock 2,
    .retentionScan 2 [], .checkpoint 2] : List Instr).all (fun i => !i.wf) = true := by decide

theorem test_wf_mount :
    ([
    .magMount 0 65536 [], .magUnmount 0 65536, .magFormat 0 65536, .magScan 0 65536 [], .readUnits 0 65536 []] : List Instr).all (fun i => !i.wf) = true := by decide

theorem test_wf_context :
    ([
    .contextCreate 0 65536, .contextDestroy 0 65536] : List Instr).all (fun i => !i.wf) = true := by decide

theorem test_wf_capture :
    ([
    .clipOpen 0 65536, .clipClose 0 65536, .clipDelete 0 65536, .captureArm 0 65536, .captureStartAtTick 0 65536,
    .captureStopAtTick 0 65536, .start 4, .startAck 4] : List Instr).all (fun i => !i.wf) = true := by decide

theorem test_wf_tick :
    ([
    .tickMessage 4] : List Instr).all (fun i => !i.wf) = true := by decide

theorem test_wf_proxy :
    ([
    .hevcPicture 2 0 0 0 0 0 [] [] [], .multicastDeliver 4] : List Instr).all (fun i => !i.wf) = true := by decide

theorem test_wf_playback :
    ([
    .playbackDecode 0 65536, .playbackBand 24 0] : List Instr).all (fun i => !i.wf) = true := by decide

theorem test_wf_power :
    ([
    .powerSetOff 0 65536, .powerSetOn 0 65536, .quiesceDone 38 0, .quiesceTimeout 38] : List Instr).all (fun i => !i.wf) = true := by decide

theorem test_wf_features :
    ([
    .setFeature 0 65536, .getFeature 0 65536] : List Instr).all (fun i => !i.wf) = true := by decide

theorem test_wf_admin :
    ([
    .abort 0 65536, .identify 0 65536, .getLog 0 65536, .fwLoad 0 65536, .write 0 65536 false,
    .writeAndActivate 0 65536 false, .raiseFloor 0 65536] : List Instr).all (fun i => !i.wf) = true := by decide

theorem test_wf_reset :
    ([
    .powerOnReset 4 0 false, .powerOnReset 0 4 false, .externalReset 0 4 0 false, .externalReset 0 0 4 false,
    .powerLoss (some 2)] : List Instr).all (fun i => !i.wf) = true := by decide

/-! ### States for the witnesses -/

/-- A state with its device changed. -/
def onD (s : State) (f : Dev → Dev) : State := { s with m := { s.m with dev := f s.m.dev } }

/-- A state with its memories changed. -/
def onM (s : State) (f : Mem → Mem) : State := { s with m := { s.m with mem := f s.m.mem } }

/-- A state with its host interface changed. -/
def onH (s : State) (f : HostIf → HostIf) : State := onD s fun d => { d with host := f d.host }

/-- A chip in state ready, the PCI Express link up and every domain on. -/
def up : State := onD State.reset fun d => { d with boot := { d.boot with linkUp := true, state := .ready }, power := { d.power with on := BitVec.allOnes 38 } }

/-- A started queue command of SQ 1 with CID 7. -/
def cmdAt (op target addr len : Nat) (cdw : List Nat) : Cmd :=
  { sq := 1, cid := 7, opcode := op, flags := 1, target := target, dataAddr := addr, dataLen := len, cdw := cdw, phase := .started }

/-- A state with one more queue command. -/
def withCmd (s : State) (c : Cmd) : State := onH s fun h => { h with cmds := h.cmds ++ [c] }

/-- A state whose host memory holds these bytes at an address. -/
def hostAt (s : State) (a : Nat) (l : List Byte) : State := onM s fun m => m.hostWrite a l

/-- A state with the four DRAM controllers trained, 8 GiB each. -/
def dramUp (s : State) : State :=
  onD s fun d => { d with dram := List.replicate 4 { trained := true, ranks := 1, capGiB := 8 }, boot := { d.boot with dramOk := true } }

/-- A state with a feature register set. -/
def regAt (s : State) (feat off : Nat) (v : Word) : State := onD s fun d => d.setReg feat off v

/-- A state with SQ 1 of 16 entries on CQ 1. -/
def queues (s : State) : State :=
  onD s fun d => (d.setSq 1 (some { base := 0x10000, size := 16, cq := 1 })).setCq 1 (some { base := 0x20000, size := 16 })

/-- A state whose mailbox is busy with a command. -/
def mbxAt (s : State) (i code : Nat) (args : List Byte) : State :=
  onD s fun d => d.onMbx i fun b => { b with busy := true, code := BitVec.ofNat 8 code, tag := 5, args := args }

/-- The bytes of a DMA instruction. -/
def dmaBytes (i : DmaInstr) : List Byte := leBytes 1 i.op ++ leBytes 1 i.mode ++ leBytes 4 i.len ++ leBytes 5 i.src ++ leBytes 5 i.dst

/-- Channel 31 runs a program in DRAM at 0x10000 that holds an instruction three times. -/
def dmaAt (i : DmaInstr) : State :=
  onM (onD (dramUp up) fun d => d.onDma 31 fun x => { x with state := .running, prog := 0x10000 })
    fun m => { m with dram := writeBytes byteZero m.dram 0x10000 ([0, 0, 0, 0x80] ++ zeros 28 ++ dmaBytes i ++ dmaBytes i ++ dmaBytes i) }

/-- Port 1 is up with a PTP clock of role 1 that disciplines time. -/
def ptp (st : Nat) (p : PtpPort) : State :=
  regAt (regAt (onD up fun d => d.onEth 1 fun q => { q with up := true, ptp := { p with portState := st } }) 0x21 0x140 0x40000000) 0x01 0x00C 2

/-- A state with a kept link message on port `p`. -/
def msgAt (s : State) (p code : Nat) (body : List Byte) : State :=
  onD s fun d => { d with link := { d.link with inbox := [{ port := p, src := 2, code := code, body := body, at_ := 100 }] } }

/-- That message. -/
def msg (p code : Nat) (body : List Byte) : LinkMsg := { port := p, src := 2, code := code, body := body, at_ := 100 }

/-- A chip with a role. -/
def roled (r : Nat) : State := onD up fun d => { d with boot := { d.boot with role := r } }

/-- A state with a link port changed. -/
def portAt (s : State) (p : Nat) (f : LinkPort → LinkPort) : State := onD s fun d => d.onPort p f

/-- A state with workers. -/
def workers (s : State) (l : List Worker) : State := onD s fun d => { d with link := { d.link with workers := l } }

/-- The flit with a header number and no payload bytes, with its CRC. -/
def flitRaw (h : Nat) : List Byte := leBytes 12 h ++ zeros 256 ++ leBytes 4 (crc32c 0 (leBytes 12 h ++ zeros 256))

/-- A state with the pools ready at their bases. -/
def pooled (s : State) : State :=
  onD s fun d => { d with pools := { d.pools with ready := true, pool := [{ base := 0 }, { base := 0x40000000 }, { base := 0x80000000 }, { base := 0x100000000 }] } }

/-- SLVS mode with one group of 64 lanes, all enabled. -/
def slvs : State := regAt (regAt (regAt up 0x10 0x000 1) 0x10 0x008 0xFFFFFFFF) 0x10 0x00C 0xFFFFFFFF

/-- CSI-2 mode with 16 lanes on each port. -/
def csi : State := regAt (regAt (regAt up 0x10 0x000 2) 0x10 0x008 0xFFFFFFFF) 0x10 0x00C 0xFFFFFFFF

/-- A state with group 0 holding one message. -/
def groupAt (s : State) (x : GroupMsg) : State := onD s fun d => d.onGroup 0 fun g => { g with inbox := [x] }

/-- A frame in work: one tile of one band of 16 rows of 64 photosites. -/
def work0 (rows : List RowState) : Work :=
  { frame := 5, stamp := zeros 16, at_ := 0, cfa := 1, depth := 12, mode := 1, budget := 100000, temporal := false, distance := 0, sof := true,
    tiles := [{ engine := 0, width := 64, bands := [{ rows := rows }] }] }

/-- A running capture of stream 0 with that frame, tick 5. -/
def cap0 (w : Work) : Cap := { ctx := 1, run := .running, works := [w] }

/-- A state with that capture running. -/
def capAt (s : State) (c : Cap) : State :=
  onD s fun d => { d with caps := [(0, some c)], ctxs := [(1, some { kind := .capture })], tick := { d.tick with running := true, begun := true, now := 5 } }

/-- A state with a magazine mounted in port 1: 16 dies of 64 blocks of 48 pages. -/
def magUp (s : State) : State :=
  onM (onD s fun d => d.onMag 1 fun q =>
    { q with seated := some 0, present := true, powered := true, mounted := true, geo := { blocks := 64, pages := 48, tProg := 500, tBers := 5, tR := 50, endurance := 3000 } })
    fun m => { m with carriers := [{ id := 0, desc0 := [], desc1 := [], param := [] }] }

/-- A state with the volume of port 1 changed. -/
def volAt (s : State) (f : MagPort → MagPort) : State := onD s fun d => d.onMag 1 f

/-- A state whose only band in work is in this condition. -/
def bandAt (s : State) (b : Band) (f : Work → Work := id) : State :=
  capAt s (cap0 (f { work0 [] with tiles := [{ engine := 0, width := 64, bands := [b] }] }))

/-- That frame. -/
def workOf (b : Band) (f : Work → Work := id) : Work := f { work0 [] with tiles := [{ engine := 0, width := 64, bands := [b] }] }

/-- The band of stream 0, frame 5, tile 0, band 0. -/
def ref0 : BandRef := { stream := 0, frame := 5, tile := 0, band := 0 }

/-- A thread of the sequencer at micro-word 7, which names nano-word 3. -/
def threadAt (w n : Nat) (f : SeqThread → SeqThread := id) : State :=
  onD up fun d => { (d.onThread 24 fun x => f { x with pc := some 7 }) with
    seqr := { (d.onThread 24 fun x => f { x with pc := some 7 }).seqr with micro := [(7, 1024 * 3 + w)], nano := [(3, n)] } }

theorem dmaCh_beyond (d : Dev) (k : Nat) (h : d.dma.length ≤ k) : (d.dmaCh k).state = .idle := by
  rw [Dev.dmaCh, List.getD_eq_default _ _ h]

theorem zero_bytes (a n : Nat) : ∀ b ∈ readBytes byteZero [] a n, b.toNat ≤ 3 := by
  induction n generalizing a with
  | zero => simp [readBytes]
  | succ k ih =>
    intro b h
    rcases List.mem_cons.mp h with h | h
    · subst h; exact (by decide : (0 : Byte).toNat ≤ 3)
    · exact ih _ b h

theorem level_full (p : Prism) (g : Segment) (n : Nat) (h : p.fifos.getD 0 [] = [g]) (hd : g.done = 0) (hl : g.bytes.length = n) : p.level 0 = n := by
  simp only [Prism.level, sumBy, h, List.foldl, hd, hl]
  omega

/-! ### Worked examples of the spec, and first steps -/

/-- The check value of the CRC-32C that R75 names (the catalogue's value for the digits 1 to 9). -/
theorem test_crc32c_check : crc32c 0 [0x31, 0x32, 0x33, 0x34, 0x35, 0x36, 0x37, 0x38, 0x39] = 0xE3069283 := by decide

/-- The check value of the CRC-16 of R46 (initial value 0xFFFF, polynomial 0x1021). -/
theorem test_crc16_check : crc16 [0x31, 0x32, 0x33, 0x34, 0x35, 0x36, 0x37, 0x38, 0x39] = 0x29B1 := by decide

/-- The worked example of 00_scope.md: the bytes of an event stamp of device 0x02A, SEQ 7, FRAME 2,881, TIME 12,140.5 s. -/
def stampDev : Dev :=
  let d := State.reset.m.dev
  { d with seq := 7, tick := { d.tick with begun := true, now := 2881 }, link := { d.link with enumerated := true, id := 0x02A },
           sid := { d.sid with und := 12140 * 2 ^ 32 + 2 ^ 31 } }

theorem test_event_stamp : stampDev.stamp = [0x07, 0x00, 0xA0, 0x02, 0x41, 0x0B, 0, 0, 0, 0, 0, 0x80, 0x6C, 0x2F, 0, 0] := by decide

theorem test_event_stamp32 : stampDev.stamp32 = 0x2F6C8000 := by decide

/-- The example after R18: 23.976 fps is N = 24,000, D = 1,001, a period of 41,708.3 microseconds. -/
theorem test_rate_23976 :
    nsOfUnits ({ State.reset.m.dev.tick with rateN := 24000, rateD := 1001 } : TickUnit).period = 41708333 := by decide

/-- The example after R91: a quad of green 1,500 and 1,510, red 1,000 and blue 800 lifts to 1,505, 10, -505 and -705. -/
theorem test_colour_lift :
    [0, 1, 2, 3].map (fun p => ({ cfa := 0, depth := 12, width := 2, rows := 2 } : BandGeo).sample #[1000, 1500, 1510, 800] true p 0 0) =
      [1505, 10, -505, -705] := by decide

theorem test_colour_unlift : [0, 1, 2, 3].map (unlift 0 1505 10 (-505) (-705)) = [1500, 1510, 1000, 800] := by decide

/-- The example after R102: the row 3, 1, -2, 4 lifts to 1, 1, 2, -6, and back. -/
theorem test_lift4 : lift4 3 1 (-2) 4 = (1, 1, 2, -6) := by decide

theorem test_unlift4 : unlift4 1 1 2 (-6) = (3, 1, -2, 4) := by decide

/-- The tiles of the fixed-budget example of 05_rate_control.md: 16 of 704 photosites, then 8 of 640, 8,640 rows. -/
def gridOf16K : List (List Nat) := gridCounts 0 8640 (List.replicate 16 704 ++ List.replicate 8 640)

theorem test_min_budget : minBudget gridOf16K 16 12 2 4096 = 72017608 := by decide +kernel

theorem test_worst_frame : worstFrame gridOf16K 16 2 4096 = 283305000 := by decide +kernel

/-- Step 6 of that example: the budgets of tiles 0 and 16. -/
theorem test_tile_budgets :
    let r := tileBudgets 140000000 6120 (List.replicate 16 3093924 ++ List.replicate 8 2813348) (List.replicate 16 5600000 ++ List.replicate 8 5000000)
    r.getD 0 0 = 6031518 ∧ r.getD 8 0 = 6031517 ∧ r.getD 16 0 = 5436200 := by decide +kernel

/-- Step 5 of band 0 of that example: X is 27 and the second attempt runs at a δ of 2. -/
theorem test_delta_search : excess 25900 22171 22528 = 27 ∧ deltaSearch 27 0 31 = 2 := by decide

/-- The parity example of 10_flash_engine.md: information bit 0 sets parity bits 0 and 2,062. -/
theorem test_ldpc_bit0 : ldpcParity 1 = 1 + 2 ^ 2062 := by decide +kernel

/-- The same example: information bit 1,031. -/
theorem test_ldpc_bit1031 :
    ldpcParity (2 ^ 1031) = ([0, 1031, 2061, 2062, 3091, 3092, 3093, 4121, 4122, 4123].map (fun k => 2 ^ k)).foldl (· + ·) 0 := by
  decide +kernel

/-- The example of 11_hiser_volume_format.md: the LUA and the PPA of the first unit of frame 1,250. -/
theorem test_lua : luaOf 2 8 100 500 = 0x10020191F4 := by decide

theorem test_ppa : ppaOf 42 9 301 = 0x5400912D := by decide

/-- That example's way from the LUA to the PPA and its codeword, on 128 healthy dies. -/
theorem test_place :
    (({} : Volume).place { dies := 128, planes := 4, cell := 3, blocks := 4096, pages := 3000 } 8 100 ((List.range 16).map (fun i => 32 + i)) 3 500).1
      = 0x5400912D := by decide +kernel

/-- The example after R557: with LEVEL_BITS 3, priority 0xB4 has level 5 and rank 0x14. -/
theorem test_priority :
    let n := { State.reset.m.dev.intr with levelBits := 3 }
    n.levelOf 0xB4 = 5 ∧ n.rankOf 0xB4 = 0x14 := by decide

/-- Whether an outcome is a next state that passes a test. -/
def nextHas (o : Host.Outcome State Fault Refusal) (p : State → Bool) : Bool :=
  match o with
  | .next t => p t
  | _ => false

/-- An empty queue lets one nanosecond pass. -/
theorem test_step_idle : nextHas (step State.reset) (fun t => decide (t.m.dev.clk = State.reset.m.dev.clk + 1) && t.pending.isEmpty) = true := by
  decide +kernel

/-- The step takes the front command and leaves the rest. -/
theorem test_step_front :
    nextHas (step { up with pending := [.badAccess, .adminDisable] })
      (fun t => decide (t.pending = [.adminDisable]) && decide (t.m.dev.host.badAccess ≠ up.m.dev.host.badAccess)) = true := by
  decide +kernel

/-- No word spells a command: the opcode table gives no row any bits. -/
theorem test_no_word (nbits w : Nat) : State.reset.withFetchWord nbits w = State.reset := rfl

/-! ### Every statement's hypotheses can be met: one conjunct for each clause -/

theorem wit_StepRunsFront :
    ∃ (c : Instr) (r : List Instr) (s : State), s.pending = c :: r :=
  ⟨(.badAccess : Instr), ([.tick] : List Instr), ({ up with pending := [.badAccess, .tick] } : State), by decide +kernel⟩

theorem wit_ResetState :
    ∃ (p : _), p < 2 :=
  ⟨(1), by decide +kernel⟩

theorem wit_UndefinedAndPowerless :
    (∃ (c : Instr) (s : State), (∀ a b d, c ≠ .powerOnReset a b d) ∧ (∀ a b d e, c ≠ .externalReset a b d e) ∧ c ≠ .powerLoss none ∧ c ≠ .supplyOutOfRange ∧ s.m.dev.undef = true) ∧
    (∃ (c : Instr) (s : State), (∀ a b d, c ≠ .powerOnReset a b d) ∧ (∀ a b d e, c ≠ .externalReset a b d e) ∧ c ≠ .powerLoss none ∧ c ≠ .supplyOutOfRange ∧ s.m.dev.undef = false ∧ s.m.dev.off = true) :=
  ⟨⟨(.badAccess : Instr), (onD up fun d => { d with undef := true } : State), fun _ _ _ => by simp, fun _ _ _ _ => by simp, by decide +kernel, by decide +kernel, by decide +kernel⟩,
    ⟨(.badAccess : Instr), (onD up fun d => { d with off := true } : State), fun _ _ _ => by simp, fun _ _ _ _ => by simp, by decide +kernel, by decide +kernel, by decide +kernel, by decide +kernel⟩⟩

theorem wit_MemoryStaysCanonical :
    ∃ (s : State) (t : State), s.MemWf ∧ step s = .next t :=
  ⟨(up : State), (_ : State), by unfold State.MemWf; decide +kernel, rfl⟩

theorem wit_ShapeStays :
    (∃ (s : State) (t : State), step s = .next t ∧ s.m.dev.Shape) ∧
    (∃ (s : State) (t : State), step s = .next t) :=
  ⟨⟨(up : State), (_ : State), rfl, by unfold Dev.Shape; decide +kernel⟩,
    ⟨(up : State), (_ : State), rfl⟩⟩

theorem wit_EclipseRoundTrip :
    (∃ (g : BandGeo) (frame : Nat) (h : BandHead) (l : List Nat) (body : List Byte), l.length = g.count ∧ (∀ v ∈ l, v < 2 ^ g.depth) ∧ h.depth ≤ g.depth ∧ body = eclipseBytes g.depth h.depth l ∧ h.dataLen = ceilDiv (g.count * (g.depth - h.depth)) 8 ∧ h.depth = 0 ∧ h.check ≠ sourceCheck frame h.tile h.band l) ∧
    (∃ (g : BandGeo) (frame : Nat) (h : BandHead) (l : List Nat) (body : List Byte), l.length = g.count ∧ (∀ v ∈ l, v < 2 ^ g.depth) ∧ h.depth ≤ g.depth ∧ body = eclipseBytes g.depth h.depth l ∧ h.dataLen = ceilDiv (g.count * (g.depth - h.depth)) 8 ∧ h.depth = 0 ∧ h.check = sourceCheck frame h.tile h.band l) ∧
    (∃ (g : BandGeo) (frame : Nat) (h : BandHead) (l : List Nat) (body : List Byte), l.length = g.count ∧ (∀ v ∈ l, v < 2 ^ g.depth) ∧ h.depth ≤ g.depth ∧ body = eclipseBytes g.depth h.depth l ∧ h.dataLen = ceilDiv (g.count * (g.depth - h.depth)) 8 ∧ 0 < h.depth) :=
  ⟨⟨({ depth := 12, width := 4, rows := 1, cfa := 1 } : BandGeo), (7 : Nat), ({ tile := 0, band := 0, depth := 0, eclipse := true, rows := 1, check := 1 + sourceCheck (7 : Nat) 0 0 (List.replicate ({ depth := 12, width := 4, rows := 1, cfa := 1 } : BandGeo).count 4095 : List Nat), dataLen := ceilDiv (({ depth := 12, width := 4, rows := 1, cfa := 1 } : BandGeo).count * ({ depth := 12, width := 4, rows := 1, cfa := 1 } : BandGeo).depth) 8 } : BandHead), (List.replicate ({ depth := 12, width := 4, rows := 1, cfa := 1 } : BandGeo).count 4095 : List Nat), (eclipseBytes ({ depth := 12, width := 4, rows := 1, cfa := 1 } : BandGeo).depth ({ tile := 0, band := 0, depth := 0, eclipse := true, rows := 1, check := 1 + sourceCheck (7 : Nat) 0 0 (List.replicate ({ depth := 12, width := 4, rows := 1, cfa := 1 } : BandGeo).count 4095 : List Nat), dataLen := ceilDiv (({ depth := 12, width := 4, rows := 1, cfa := 1 } : BandGeo).count * ({ depth := 12, width := 4, rows := 1, cfa := 1 } : BandGeo).depth) 8 } : BandHead).depth (List.replicate ({ depth := 12, width := 4, rows := 1, cfa := 1 } : BandGeo).count 4095 : List Nat) : List Byte), by decide +kernel, by decide +kernel, by decide +kernel, by decide +kernel, by decide +kernel, by decide +kernel, by decide +kernel⟩,
    ⟨({ depth := 12, width := 4, rows := 1, cfa := 1 } : BandGeo), (7 : Nat), ({ tile := 0, band := 0, depth := 0, eclipse := true, rows := 1, check := sourceCheck (7 : Nat) 0 0 (List.replicate ({ depth := 12, width := 4, rows := 1, cfa := 1 } : BandGeo).count 4095 : List Nat), dataLen := ceilDiv (({ depth := 12, width := 4, rows := 1, cfa := 1 } : BandGeo).count * ({ depth := 12, width := 4, rows := 1, cfa := 1 } : BandGeo).depth) 8 } : BandHead), (List.replicate ({ depth := 12, width := 4, rows := 1, cfa := 1 } : BandGeo).count 4095 : List Nat), (eclipseBytes ({ depth := 12, width := 4, rows := 1, cfa := 1 } : BandGeo).depth ({ tile := 0, band := 0, depth := 0, eclipse := true, rows := 1, check := sourceCheck (7 : Nat) 0 0 (List.replicate ({ depth := 12, width := 4, rows := 1, cfa := 1 } : BandGeo).count 4095 : List Nat), dataLen := ceilDiv (({ depth := 12, width := 4, rows := 1, cfa := 1 } : BandGeo).count * ({ depth := 12, width := 4, rows := 1, cfa := 1 } : BandGeo).depth) 8 } : BandHead).depth (List.replicate ({ depth := 12, width := 4, rows := 1, cfa := 1 } : BandGeo).count 4095 : List Nat) : List Byte), by decide +kernel, by decide +kernel, by decide +kernel, by decide +kernel, by decide +kernel, by decide +kernel, by decide +kernel⟩,
    ⟨({ depth := 12, width := 4, rows := 1, cfa := 1 } : BandGeo), (7 : Nat), ({ tile := 0, band := 0, depth := 1, eclipse := true, rows := 1, check := 0, dataLen := ceilDiv (({ depth := 12, width := 4, rows := 1, cfa := 1 } : BandGeo).count * (({ depth := 12, width := 4, rows := 1, cfa := 1 } : BandGeo).depth - 1)) 8 } : BandHead), (List.replicate ({ depth := 12, width := 4, rows := 1, cfa := 1 } : BandGeo).count 4095 : List Nat), (eclipseBytes ({ depth := 12, width := 4, rows := 1, cfa := 1 } : BandGeo).depth ({ tile := 0, band := 0, depth := 1, eclipse := true, rows := 1, check := 0, dataLen := ceilDiv (({ depth := 12, width := 4, rows := 1, cfa := 1 } : BandGeo).count * (({ depth := 12, width := 4, rows := 1, cfa := 1 } : BandGeo).depth - 1)) 8 } : BandHead).depth (List.replicate ({ depth := 12, width := 4, rows := 1, cfa := 1 } : BandGeo).count 4095 : List Nat) : List Byte), by decide +kernel, by decide +kernel, by decide +kernel, by decide +kernel, by decide +kernel, by decide +kernel⟩⟩

theorem wit_NearLossless :
    (∃ (δ : Nat) (r : Int), 0 < δ) ∧
    (∃ (δ : Nat) (b : Nat) (p : Int) (x : Int), 0 < δ ∧ 0 ≤ x ∧ x ≤ planeHigh b) ∧
    (∃ (δ : Nat) (g : BandGeo) (ref : Option RefPlanes) (plane : Nat) (src : Array Int) (rec_ : Array Int) (k : Nat) (m : BlockMode), 0 < δ) :=
  ⟨⟨(1 : Nat), (-5 : Int), by decide +kernel⟩,
    ⟨(1 : Nat), (12 : Nat), (4000 : Int), (planeHigh 12 : Int), by decide +kernel, by decide +kernel, by decide +kernel⟩,
    ⟨(1 : Nat), ({ depth := 12, width := 4, rows := 1, cfa := 1 } : BandGeo), (none : Option RefPlanes), (0 : Nat), ((List.replicate 4096 (7 : Int)).toArray : Array Int), ((List.replicate 4096 (0 : Int)).toArray : Array Int), (0 : Nat), ({} : BlockMode), by decide +kernel⟩⟩

theorem wit_Bar0AccessAndTail :
    (∃ (s : State), s.Live ∧ s.m.dev.barReachable = true) ∧
    (∃ (s : State) (off : _), s.Live ∧ s.m.dev.barReachable = true ∧ off % 4 = 0 ∧ off < 0x10000 ∧ off ≠ 0x5004) ∧
    (∃ (s : State), s.Live ∧ s.m.dev.barReachable = true) ∧
    (∃ (s : State) (q : Nat) (t : Nat) (x : Sq), s.Live ∧ s.m.dev.barReachable = true ∧ q < 256 ∧ t < 65536 ∧ s.m.dev.sq q = some x ∧ x.bad = false ∧ x.deleting = false ∧ t < x.size ∧ ringDiff x.tail x.head x.size ≤ ringDiff t x.head x.size) :=
  ⟨⟨(up : State), And.intro rfl rfl, by decide +kernel⟩,
    ⟨(up : State), (0xFFFC), And.intro rfl rfl, by decide +kernel, by decide +kernel, by decide +kernel, by decide +kernel⟩,
    ⟨(up : State), And.intro rfl rfl, by decide +kernel⟩,
    ⟨(queues up : State), (1 : Nat), (15 : Nat), ({ base := 0x10000, size := 16, cq := 1 } : Sq), And.intro rfl rfl, by decide +kernel, by decide +kernel, by decide +kernel, by decide +kernel, by decide +kernel, by decide +kernel, by decide +kernel, by decide +kernel⟩⟩

theorem wit_CqDoorbellAndAdmin :
    (∃ (s : State) (q : Nat) (h : Nat) (c : Cq), s.Live ∧ s.m.dev.barReachable = true ∧ q < 256 ∧ h < 65536 ∧ s.m.dev.cq q = some c ∧ c.bad = false ∧ h < c.size ∧ h ≠ c.head ∧ ringDiff h c.head c.size ≤ ringDiff c.tail c.head c.size ∧ s.m.dev.hasHeld q = false) ∧
    (∃ (s : State), s.Live ∧ s.m.dev.barReachable = true ∧ s.m.dev.queuesServed = true ∧ s.m.dev.host.admEn = false ∧ s.m.dev.host.admRdy = false ∧ s.m.dev.host.admSqBase % 4096 = 0 ∧ s.m.dev.host.admCqBase % 4096 = 0 ∧ 2 ≤ fld s.m.dev.host.admSize 0 13 ∧ fld s.m.dev.host.admSize 0 13 ≤ 4096 ∧ 2 ≤ fld s.m.dev.host.admSize 16 13 ∧ fld s.m.dev.host.admSize 16 13 ≤ 4096) ∧
    (∃ (s : State), s.Live ∧ s.m.dev.barReachable = true ∧ s.m.dev.host.admEn = true) :=
  ⟨⟨(onD (queues up) fun d => d.setCq 1 (some { base := 0x20000, size := 16, tail := 3 }) : State), (1 : Nat), (3 : Nat), ({ base := 0x20000, size := 16, tail := 3 } : Cq), And.intro rfl rfl, by decide +kernel, by decide +kernel, by decide +kernel, by decide +kernel, by decide +kernel, by decide +kernel, by decide +kernel, by decide +kernel, by decide +kernel⟩,
    ⟨(onH up fun h => { h with admSize := 0x10000002 } : State), And.intro rfl rfl, by decide +kernel, by decide +kernel, by decide +kernel, by decide +kernel, by decide +kernel, by decide +kernel, by decide +kernel, by decide +kernel, by decide +kernel, by decide +kernel⟩,
    ⟨(onH (queues up) fun h => { h with admEn := true, admRdy := true } : State), And.intro rfl rfl, by decide +kernel, by decide +kernel⟩⟩

theorem wit_RegisterWrites :
    (∃ (s : State), s.Live ∧ s.m.dev.barReachable = true) ∧
    (∃ (s : State) (j : _), s.Live ∧ s.m.dev.barReachable = true ∧ j < 19) ∧
    (∃ (s : State) (id : _), s.Live ∧ s.m.dev.barReachable = true ∧ 1008 ≤ id ∧ id ≤ 1015 ∧ id ∉ s.m.dev.intr.pending) ∧
    (∃ (s : State) (id : _), s.Live ∧ s.m.dev.barReachable = true ∧ 1008 ≤ id ∧ id ≤ 1015 ∧ id ∈ s.m.dev.intr.pending) ∧
    (∃ (s : State) (id : _), s.Live ∧ s.m.dev.barReachable = true ∧ 1008 ≤ id ∧ id ≤ 1015) :=
  ⟨⟨(up : State), And.intro rfl rfl, by decide +kernel⟩,
    ⟨(onD up fun d => { d with flt := { d.flt with status := BitVec.allOnes 600 } } : State), (18), And.intro rfl rfl, by decide +kernel, by decide +kernel⟩,
    ⟨(up : State), (1015), And.intro rfl rfl, by decide +kernel, by decide +kernel, by decide +kernel, by decide +kernel⟩,
    ⟨(onD up fun d => { d with intr := { d.intr with pending := [1012] } } : State), (1012), And.intro rfl rfl, by decide +kernel, by decide +kernel, by decide +kernel, by decide +kernel⟩,
    ⟨(up : State), (1008), And.intro rfl rfl, by decide +kernel, by decide +kernel, by decide +kernel⟩⟩

theorem wit_MailboxesAndQueues :
    (∃ (s : State) (i : _), s.Live ∧ i < 4 ∧ s.m.dev.mbxWaits i 0x20 = true) ∧
    (∃ (s : State) (first : _) (count : _) (addr : _), s.Live ∧ s.m.dev.mbxWaits 1 0x10 = true ∧ rd (s.m.dev.mailbox 1).args 0 4 = first ∧ rd (s.m.dev.mailbox 1).args 4 4 = count ∧ rd (s.m.dev.mailbox 1).args 8 8 = addr ∧ 0 < count ∧ count ≤ 4096 ∧ first + count ≤ 131072 ∧ addr % 64 = 0 ∧ hostOk addr (64 * count) = true) ∧
    (∃ (s : State) (admin : Bool) (q : Nat) (x : Sq) (c : Cmd), s.Live ∧ s.m.dev.queuesServed = true ∧ s.m.dev.inFlight admin < (if admin then 64 else 1024) ∧ (if admin then (if s.m.dev.fetchable 0 then some 0 else none) else s.m.dev.nextIo) = some q ∧ s.m.dev.sq q = some x ∧ c = parseEntry q (s.m.mem.hostRead (x.base + 64 * x.head) 64) ∧ ((∀ k ∈ s.m.dev.host.cmds, k.sq = q → k.cid ≠ c.cid))) ∧
    (∃ (s : State) (e : Compl) (c : Cq), s.Live ∧ s.m.dev.host.stage.find? (fun e => s.m.dev.canPost e) = some e ∧ s.m.dev.cq e.cq = some c ∧ c.bad = false ∧ c.full = false ∧ s.m.dev.hasHeld e.cq = false) ∧
    (∃ (s : State) (q : Nat) (c : Cq), s.Live ∧ s.m.dev.cq q = some c ∧ c.ien = true ∧ 0 < c.unsent) :=
  ⟨⟨(mbxAt up 3 0x20 [1, 2, 3] : State), (3), And.intro rfl rfl, by decide +kernel, by decide +kernel⟩,
    ⟨(mbxAt up 1 0x10 (leBytes 4 131071 ++ leBytes 4 1 ++ leBytes 8 0x40) : State), (131071), (1), (0x40), And.intro rfl rfl, by decide +kernel, by decide +kernel, by decide +kernel, by decide +kernel, by decide +kernel, by decide +kernel, by decide +kernel, by decide +kernel, by decide +kernel⟩,
    ⟨(hostAt (onD (queues up) fun d => d.setSq 1 (some { base := 0x10000, size := 16, head := 15, cq := 1 })) (0x10000 + 64 * 15) [0x05, 0, 9, 0] : State), (false : Bool), (1 : Nat), ({ base := 0x10000, size := 16, head := 15, cq := 1 } : Sq), (parseEntry (1 : Nat) ((hostAt (onD (queues up) fun d => d.setSq 1 (some { base := 0x10000, size := 16, head := 15, cq := 1 })) (0x10000 + 64 * 15) [0x05, 0, 9, 0] : State).m.mem.hostRead (({ base := 0x10000, size := 16, head := 15, cq := 1 } : Sq).base + 64 * ({ base := 0x10000, size := 16, head := 15, cq := 1 } : Sq).head) 64) : Cmd), And.intro rfl rfl, by decide +kernel, by decide +kernel, by decide +kernel, by decide +kernel, by decide +kernel, by decide +kernel⟩,
    ⟨(onH (onD (queues up) fun d => d.setCq 1 (some { base := 0x20000, size := 16, head := 1, tail := 15 })) fun h => { h with stage := [{ sq := 1, cid := 9, cq := 1, status := 0, result := 77, detail := false, retry := false }] } : State), ({ sq := 1, cid := 9, cq := 1, status := 0, result := 77, detail := false, retry := false } : Compl), ({ base := 0x20000, size := 16, head := 1, tail := 15 } : Cq), And.intro rfl rfl, by decide +kernel, by decide +kernel, by decide +kernel, by decide +kernel, by decide +kernel⟩,
    ⟨(onD up fun d => d.setCq 1 (some { base := 0x20000, size := 16, tail := 1, unsent := 1, aggTime := 4, aggFrom := 0 }) : State), (1 : Nat), ({ base := 0x20000, size := 16, tail := 1, unsent := 1, aggTime := 4, aggFrom := 0 } : Cq), And.intro rfl rfl, by decide +kernel, by decide +kernel, by decide +kernel⟩⟩

theorem wit_QueueCommands :
    (∃ (s : State) (sq : Nat) (cid : Nat) (c : Cmd), s.Runs sq cid 0x02 c ∧ 0 < c.target ∧ c.target ≤ 255 ∧ s.m.dev.cq c.target = none ∧ c.dataKind = 1 ∧ c.dataAddr % 4096 = 0 ∧ 2 ≤ c.dw 0 % 2 ^ 17 ∧ c.dw 0 % 2 ^ 17 ≤ 65536 ∧ c.dataLen = 16 * (c.dw 0 % 2 ^ 17) ∧ bits (c.dw 1) 0 6 ≠ 0 ∧ bits (c.dw 1) 0 6 ≠ 63) ∧
    (∃ (s : State) (sq : Nat) (cid : Nat) (c : Cmd), s.Runs sq cid 0x01 c ∧ 0 < c.target ∧ c.target ≤ 255 ∧ s.m.dev.sq c.target = none ∧ bits (c.dw 1) 0 8 ≠ 0 ∧ (∃ q, s.m.dev.cq (bits (c.dw 1) 0 8) = some q ∧ q.ring = none) ∧ c.dataKind = 1 ∧ c.dataAddr % 4096 = 0 ∧ 2 ≤ c.dw 0 % 2 ^ 17 ∧ c.dw 0 % 2 ^ 17 ≤ 65536 ∧ c.dataLen = 64 * (c.dw 0 % 2 ^ 17) ∧ 0 < bits (c.dw 1) 8 4 ∧ bits (c.dw 1) 8 4 ≤ 8) ∧
    (∃ (s : State) (sq : Nat) (cid : Nat) (c : Cmd), s.Runs sq cid 0x04 c ∧ c.target ≠ 0 ∧ (∃ q, s.m.dev.cq c.target = some q ∧ q.ring = none) ∧ ((∀ e ∈ s.m.dev.host.sqs, ∀ x, e.2 = some x → x.cq ≠ c.target))) ∧
    (∃ (s : State) (sq : Nat) (cid : Nat) (c : Cmd) (x : Sq), s.Runs sq cid 0x03 c ∧ c.target ≠ 0 ∧ c.target ≠ sq ∧ s.m.dev.sq c.target = some x ∧ x.deleting = false ∧ (∀ k ∈ s.m.dev.host.cmds, k.sq ≠ c.target) ∧ ((∀ k ∈ s.m.dev.host.cmds, k.opcode = 0x03 → k.phase ≠ .running))) ∧
    (∃ (s : State) (sq : Nat) (cid : Nat) (c : Cmd), s.Runs sq cid 0x08 c ∧ s.m.dev.host.aer.length < 16 ∧ s.m.dev.host.events = []) :=
  ⟨⟨(withCmd up (cmdAt 0x02 255 0x4000 (16 * 65536) [65536, 62, 0] : Cmd) : State), (1 : Nat), (7 : Nat), (cmdAt 0x02 255 0x4000 (16 * 65536) [65536, 62, 0] : Cmd), And.intro (And.intro rfl rfl) (And.intro rfl (And.intro rfl rfl)), by decide +kernel, by decide +kernel, by decide +kernel, by decide +kernel, by decide +kernel, by decide +kernel, by decide +kernel, by decide +kernel, by decide +kernel, by decide +kernel⟩,
    ⟨(withCmd (queues up) (cmdAt 0x01 255 0x4000 128 [2, 0x801] : Cmd) : State), (1 : Nat), (7 : Nat), (cmdAt 0x01 255 0x4000 128 [2, 0x801] : Cmd), And.intro (And.intro rfl rfl) (And.intro rfl (And.intro rfl rfl)), by decide +kernel, by decide +kernel, by decide +kernel, by decide +kernel, by decide +kernel, by decide +kernel, by decide +kernel, by decide +kernel, by decide +kernel, by decide +kernel, by decide +kernel, by decide +kernel⟩,
    ⟨(withCmd (onD (queues up) fun d => d.setCq 5 (some { base := 0x30000, size := 16 })) (cmdAt 0x04 5 0 0 [] : Cmd) : State), (1 : Nat), (7 : Nat), (cmdAt 0x04 5 0 0 [] : Cmd), And.intro (And.intro rfl rfl) (And.intro rfl (And.intro rfl rfl)), by decide +kernel, by decide +kernel, by decide +kernel⟩,
    ⟨(withCmd (onD (queues up) fun d => d.setSq 5 (some { base := 0x30000, size := 16, cq := 1 })) (cmdAt 0x03 5 0 0 [] : Cmd) : State), (1 : Nat), (7 : Nat), (cmdAt 0x03 5 0 0 [] : Cmd), ({ base := 0x30000, size := 16, cq := 1 } : Sq), And.intro (And.intro rfl rfl) (And.intro rfl (And.intro rfl rfl)), by decide +kernel, by decide +kernel, by decide +kernel, by decide +kernel, by decide +kernel, by decide +kernel⟩,
    ⟨(withCmd up ({ cmdAt 0x08 0 0 0 [] with sq := 0 } : Cmd) : State), (0 : Nat), (7 : Nat), ({ cmdAt 0x08 0 0 0 [] with sq := 0 } : Cmd), And.intro (And.intro rfl rfl) (And.intro rfl (And.intro rfl rfl)), by decide +kernel, by decide +kernel⟩⟩

theorem wit_BootRom :
    (∃ (s : State) (train1 : Bool) (train2 : Bool) (gib : Nat) (ranks : Nat) (badA : Bool) (badB : Bool) (r : BootRecord), s.Live ∧ s.m.dev.boot.fresh = true ∧ s.m.dev.boot.state = .romInit ∧ s.m.mem.record = some r ∧ ((train1 = true ∨ train2 = true)) ∧ gib ∈ [8, 12, 16] ∧ 1 ≤ ranks ∧ ranks ≤ 2 ∧ s.m.dev.boot.bootSrc = 0 ∧ s.m.dev.boot.role ≠ 3 ∧ s.m.dev.boot.testEn = false ∧ s.m.dev.boot.cause ≠ .twilightEnter ∧ r.inProgress = .none ∧ r.failed = 0 ∧ r.exclA = false ∧ badA = false) ∧
    (∃ (s : State) (train1 : Bool) (train2 : Bool) (gib : Nat) (ranks : Nat) (badA : Bool) (badB : Bool), s.Live ∧ s.m.dev.boot.fresh = true ∧ s.m.dev.boot.state = .romInit ∧ s.m.mem.record = none) ∧
    (∃ (s : State) (train1 : Bool) (train2 : Bool) (gib : Nat) (ranks : Nat) (badA : Bool) (badB : Bool), s.Live ∧ s.m.dev.boot.fresh = true ∧ s.m.dev.boot.state = .romInit ∧ s.m.mem.record ≠ none ∧ train1 = false ∧ train2 = false) :=
  ⟨⟨((onM (onD State.reset fun d => { d with boot := { d.boot with role := 1 } }) fun m => (m.setEntry 1 (BootRecord.bytes {})).setEntry 2 (BootRecord.bytes {})) : State), (true : Bool), (false : Bool), (8 : Nat), (1 : Nat), (false : Bool), (false : Bool), ({} : BootRecord), And.intro rfl rfl, by decide +kernel, by decide +kernel, by decide +kernel, by decide +kernel, by decide +kernel, by decide +kernel, by decide +kernel, by decide +kernel, by decide +kernel, by decide +kernel, by decide +kernel, by decide +kernel, by decide +kernel, by decide +kernel, by decide +kernel⟩,
    ⟨(onM State.reset fun m => (m.setEntry 1 (List.replicate 64 1)).setEntry 2 (List.replicate 64 1) : State), (true : Bool), (false : Bool), (8 : Nat), (1 : Nat), (false : Bool), (false : Bool), And.intro rfl rfl, by decide +kernel, by decide +kernel, by decide +kernel⟩,
    ⟨((onM (onD State.reset fun d => { d with boot := { d.boot with role := 1 } }) fun m => (m.setEntry 1 (BootRecord.bytes {})).setEntry 2 (BootRecord.bytes {})) : State), (false : Bool), (false : Bool), (8 : Nat), (1 : Nat), (false : Bool), (false : Bool), And.intro rfl rfl, by decide +kernel, by decide +kernel, by decide +kernel, by decide +kernel, by decide +kernel⟩⟩

theorem wit_BootServices :
    (∃ (s : State) (t0 : _), s.Live ∧ s.m.dev.boot.wdogAt = some t0) ∧
    (∃ (s : State) (t0 : _), s.Live ∧ s.m.dev.boot.readyTimer = some t0) ∧
    (∃ (s : State), s.Live ∧ s.m.dev.boot.state = .fwStart ∧ s.m.dev.tick.running = true ∧ s.m.dev.boot.resetDue = none) ∧
    (∃ (s : State) (addr : _) (len : _), s.Live ∧ s.m.dev.mbxWaits 0 1 = true ∧ s.m.dev.boot.state = .hostWait ∧ rd (s.m.dev.mailbox 0).args 0 8 = addr ∧ rd (s.m.dev.mailbox 0).args 8 4 = len ∧ addr % 4096 = 0 ∧ 513 ≤ len ∧ len ≤ 33554369 ∧ hostOk addr len = true) ∧
    (∃ (s : State), s.Live ∧ s.m.dev.mbxWaits 0 2 = true ∧ ((s.m.dev.boot.state = .ready → s.m.dev.anyCapture = false))) ∧
    (∃ (s : State), s.Live ∧ s.m.dev.mbxWaits 0 3 = true ∧ ((s.m.dev.boot.state = .ready → s.m.dev.anyCapture = false))) :=
  ⟨⟨(onD State.reset fun d => { d with boot := { d.boot with wdogAt := some 0 } } : State), (0), And.intro rfl rfl, by decide +kernel⟩,
    ⟨(onD State.reset fun d => { d with boot := { d.boot with readyTimer := some 0 } } : State), (0), And.intro rfl rfl, by decide +kernel⟩,
    ⟨(onD State.reset fun d => { d with boot := { d.boot with state := .fwStart }, tick := { d.tick with running := true } } : State), And.intro rfl rfl, by decide +kernel, by decide +kernel, by decide +kernel⟩,
    ⟨(mbxAt (onD State.reset fun d => { d with boot := { d.boot with state := .hostWait, linkUp := true } }) 0 1 (leBytes 8 0x4000 ++ leBytes 4 513) : State), (0x4000), (513), And.intro rfl rfl, by decide +kernel, by decide +kernel, by decide +kernel, by decide +kernel, by decide +kernel, by decide +kernel, by decide +kernel, by decide +kernel⟩,
    ⟨(mbxAt up 0 2 [] : State), And.intro rfl rfl, by decide +kernel, by decide +kernel⟩,
    ⟨(mbxAt up 0 3 [] : State), And.intro rfl rfl, by decide +kernel, by decide +kernel⟩⟩

theorem wit_Resets :
    (∃ (s : State) (low : _), s.m.dev.off = false ∧ 2000 ≤ low) ∧
    (∃ (s : State) (low : _), s.m.dev.off = false ∧ low < 2000) ∧
    (∃ (s : State) (cause : ResetCause) (at_ : _), s.Live ∧ s.m.dev.boot.resetDue = some (cause, at_)) :=
  ⟨⟨(up : State), (2000), by decide +kernel, by decide +kernel⟩,
    ⟨(up : State), (1999), by decide +kernel, by decide +kernel⟩,
    ⟨(onD up fun d => { d with boot := { d.boot with resetDue := some (.reboot, 10) } } : State), (.reboot : ResetCause), (10), And.intro rfl rfl, by decide +kernel⟩⟩

theorem wit_PcieAndPower :
    (∃ (s : State) (perst : _) (low : _), s.Live ∧ ((perst = true → 2000 ≤ low))) ∧
    (∃ (s : State), s.Live) ∧
    (∃ (s : State) (p : _), s.Live ∧ p < 2 ∧ (s.m.dev.mag p).powered = true ∧ s.m.dev.mags.length = 2) :=
  ⟨⟨(queues up : State), (true), (2000), And.intro rfl rfl, by decide +kernel⟩,
    ⟨(State.reset : State), And.intro rfl rfl⟩,
    ⟨(onD up fun d => d.onMag 1 fun p => { p with powered := true, present := true, seated := some 3 } : State), (1), And.intro rfl rfl, by decide +kernel, by decide +kernel, by decide +kernel⟩⟩

theorem wit_PowerDomains :
    (∃ (s : State) (sq : Nat) (cid : Nat) (c : Cmd), s.Runs sq cid 0x19 c ∧ (∀ o ∈ s.m.dev.power.ops, o.domain ≠ c.target) ∧ powerField c = none ∧ bit (c.dw 0) 0 = false ∧ s.m.dev.powered c.target = false) ∧
    (∃ (s : State) (sq : Nat) (cid : Nat) (c : Cmd), s.Runs sq cid 0x19 c ∧ (∀ o ∈ s.m.dev.power.ops, o.domain ≠ c.target) ∧ powerField c = none ∧ bit (c.dw 0) 0 = false ∧ s.m.dev.powered c.target = true ∧ s.m.dev.offDenied c.target = true) ∧
    (∃ (s : State) (sq : Nat) (cid : Nat) (c : Cmd), s.Runs sq cid 0x19 c ∧ (∀ o ∈ s.m.dev.power.ops, o.domain ≠ c.target) ∧ powerField c = none ∧ bit (c.dw 0) 0 = false ∧ s.m.dev.powered c.target = true ∧ s.m.dev.offDenied c.target = false) ∧
    (∃ (s : State) (sq : Nat) (cid : Nat) (c : Cmd), s.Runs sq cid 0x19 c ∧ (∀ o ∈ s.m.dev.power.ops, o.domain ≠ c.target) ∧ powerField c = none ∧ bit (c.dw 0) 0 = true ∧ s.m.dev.powered c.target = false) ∧
    (∃ (s : State) (k : Nat) (o : PowerOp) (c : Cmd) (dt : _), s.Live ∧ k < 38 ∧ s.m.dev.power.ops.find? (fun o => o.off && decide (o.domain = k)) = some o ∧ s.m.dev.cmd o.sq o.cid = some c ∧ ((o.sq ≠ 0 ∨ o.cid ∉ s.m.dev.host.aer)) ∧ s.m.dev.drained k = true ∧ s.m.dev.clk + dt ≤ o.until_) ∧
    (∃ (s : State) (k : Nat) (o : PowerOp) (c : Cmd), s.Live ∧ k < 38 ∧ s.m.dev.power.ops.find? (fun o => o.off && decide (o.domain = k)) = some o ∧ s.m.dev.cmd o.sq o.cid = some c ∧ ((o.sq ≠ 0 ∨ o.cid ∉ s.m.dev.host.aer)) ∧ s.m.dev.drained k = false) :=
  ⟨⟨(withCmd (onD up fun d => { d with power := { d.power with on := 0x3000000000 } }) (cmdAt 0x19 35 0 0 [0, 10000] : Cmd) : State), (1 : Nat), (7 : Nat), (cmdAt 0x19 35 0 0 [0, 10000] : Cmd), And.intro (And.intro rfl rfl) (And.intro rfl (And.intro rfl rfl)), by decide +kernel, by decide +kernel, by decide +kernel, by decide +kernel⟩,
    ⟨(withCmd up (cmdAt 0x19 20 0 0 [0, 0] : Cmd) : State), (1 : Nat), (7 : Nat), (cmdAt 0x19 20 0 0 [0, 0] : Cmd), And.intro (And.intro rfl rfl) (And.intro rfl (And.intro rfl rfl)), by decide +kernel, by decide +kernel, by decide +kernel, by decide +kernel, by decide +kernel⟩,
    ⟨(withCmd up (cmdAt 0x19 0 0 0 [0, 0] : Cmd) : State), (1 : Nat), (7 : Nat), (cmdAt 0x19 0 0 0 [0, 0] : Cmd), And.intro (And.intro rfl rfl) (And.intro rfl (And.intro rfl rfl)), by decide +kernel, by decide +kernel, by decide +kernel, by decide +kernel, by decide +kernel⟩,
    ⟨(withCmd (onD up fun d => { d with power := { d.power with on := 0x3000000000 } }) (cmdAt 0x19 0 0 0 [1, 0] : Cmd) : State), (1 : Nat), (7 : Nat), (cmdAt 0x19 0 0 0 [1, 0] : Cmd), And.intro (And.intro rfl rfl) (And.intro rfl (And.intro rfl rfl)), by decide +kernel, by decide +kernel, by decide +kernel, by decide +kernel⟩,
    ⟨(withCmd (onD up fun d => { d with power := { d.power with quiescing := 1, ops := [({ domain := 0, off := true, level := 0, sq := 1, cid := 7, until_ := 100000 } : PowerOp)] } }) { ({ cmdAt 0x19 0 0 0 [0, 0] with phase := .running } : Cmd) with phase := .running } : State), (0 : Nat), ({ domain := 0, off := true, level := 0, sq := 1, cid := 7, until_ := 100000 } : PowerOp), ({ cmdAt 0x19 0 0 0 [0, 0] with phase := .running } : Cmd), (100000), And.intro rfl rfl, by decide +kernel, by decide +kernel, by decide +kernel, by decide +kernel, by decide +kernel, by decide +kernel⟩,
    ⟨(withCmd (onD up fun d => { d with power := { d.power with quiescing := 1, ops := [({ domain := 0, off := true, level := 0, sq := 1, cid := 7, until_ := 100000 } : PowerOp)] }, codec := { d.codec with pxe := [{ job := some { stream := 0, frame := 0, tile := 0, band := 0 } }] } }) { ({ cmdAt 0x19 0 0 0 [0, 0] with phase := .running } : Cmd) with phase := .running } : State), (0 : Nat), ({ domain := 0, off := true, level := 0, sq := 1, cid := 7, until_ := 100000 } : PowerOp), ({ cmdAt 0x19 0 0 0 [0, 0] with phase := .running } : Cmd), And.intro rfl rfl, by decide +kernel, by decide +kernel, by decide +kernel, by decide +kernel, by decide +kernel⟩⟩

theorem wit_DramUpkeepAndFaultSources :
    (∃ (s : State) (c : Nat), s.Live ∧ s.m.dev.Shape ∧ c < 4 ∧ (s.m.dev.dram.getD c {}).trained = true ∧ s.m.dev.takesWork (20 + c) = true) ∧
    (∃ (s : State) (c : Nat), s.Live ∧ s.m.dev.Shape ∧ c < 4 ∧ (s.m.dev.dram.getD c {}).trained = true ∧ s.m.dev.takesWork (20 + c) = true) ∧
    (∃ (s : State) (unc : Bool) (src : _), s.Live ∧ src = (if unc then 498 else 497)) ∧
    (∃ (s : State) (unc : Bool) (src : _), s.Live ∧ src = (if unc then 493 else 492)) ∧
    (∃ (s : State) (celsius : Int) (top : Int), s.Live ∧ top = (if Config.industrialGrade then 105 else 95)) :=
  ⟨⟨(dramUp up : State), (3 : Nat), And.intro rfl rfl, by unfold Dev.Shape; decide +kernel, by decide +kernel, by decide +kernel, by decide +kernel⟩,
    ⟨(dramUp up : State), (3 : Nat), And.intro rfl rfl, by unfold Dev.Shape; decide +kernel, by decide +kernel, by decide +kernel, by decide +kernel⟩,
    ⟨(up : State), (true : Bool), (498), And.intro rfl rfl, by decide +kernel⟩,
    ⟨(up : State), (false : Bool), (492), And.intro rfl rfl, by decide +kernel⟩,
    ⟨(up : State), (106 : Int), (if Config.industrialGrade then 105 else 95 : Int), And.intro rfl rfl, rfl⟩⟩

theorem wit_DmaData :
    (∃ (s : State) (ch : Nat) (i : DmaInstr) (ecc : List (Nat × Bool)) (b : _) (m1 : _) (m2 : _), s.Live ∧ s.m.dev.Shape ∧ ch < 32 ∧ s.m.dmaCur ch = some i ∧ s.m.dev.powered (24 + ch / 8) = true ∧ fixedOk (bit i.mode 0) ((s.m.dev.dmaCh ch).srcOf i) i.len = true ∧ fixedOk (bit i.mode 1) ((s.m.dev.dmaCh ch).dstOf i) i.len = true ∧ i.op = 1 ∧ i.len ≠ 0 ∧ Mach.dmaSource { s.m with dev := s.m.dev.eccFound (ecc.filter (fun e => decide ((s.m.dev.dmaCh ch).srcOf i ≤ e.1 ∧ e.1 < (s.m.dev.dmaCh ch).srcOf i + i.len))) } ch ((s.m.dev.dmaCh ch).srcOf i) i.len (bit i.mode 0) = (some b, m1) ∧ m1.dmaDest ch ((s.m.dev.dmaCh ch).dstOf i) b (bit i.mode 1) = (true, m2) ∧ (m2.dmaArrive ch ((s.m.dev.dmaCh ch).index + 1)).1 = none) ∧
    (∃ (s : State) (ch : Nat) (i : DmaInstr) (m1 : _), s.Live ∧ s.m.dev.Shape ∧ ch < 32 ∧ s.m.dmaCur ch = some i ∧ s.m.dev.powered (24 + ch / 8) = true ∧ fixedOk (bit i.mode 0) ((s.m.dev.dmaCh ch).srcOf i) i.len = true ∧ fixedOk (bit i.mode 1) ((s.m.dev.dmaCh ch).dstOf i) i.len = true ∧ i.op = 2 ∧ i.len % 4 = 0 ∧ (s.m.dev.dmaCh ch).dstOf i % 4 = 0 ∧ s.m.dmaDest ch ((s.m.dev.dmaCh ch).dstOf i) ((List.range i.len).map (fun k => (leBytes 4 i.src).getD (k % 4) 0)) (bit i.mode 1) = (true, m1) ∧ (m1.dmaArrive ch ((s.m.dev.dmaCh ch).index + 1)).1 = none) ∧
    (∃ (s : State) (ch : Nat) (i : DmaInstr) (ecc : List (Nat × Bool)) (a : _) (b : _) (m1 : _) (m2 : _), s.Live ∧ s.m.dev.Shape ∧ ch < 32 ∧ s.m.dmaCur ch = some i ∧ s.m.dev.powered (24 + ch / 8) = true ∧ fixedOk (bit i.mode 0) ((s.m.dev.dmaCh ch).srcOf i) i.len = true ∧ fixedOk (bit i.mode 1) ((s.m.dev.dmaCh ch).dstOf i) i.len = true ∧ i.op = 3 ∧ Mach.dmaSource { s.m with dev := s.m.dev.eccFound (ecc.filter (fun e => decide ((s.m.dev.dmaCh ch).srcOf i ≤ e.1 ∧ e.1 < (s.m.dev.dmaCh ch).srcOf i + i.len) || decide ((s.m.dev.dmaCh ch).dstOf i ≤ e.1 ∧ e.1 < (s.m.dev.dmaCh ch).dstOf i + i.len))) } ch ((s.m.dev.dmaCh ch).srcOf i) i.len (bit i.mode 0) = (some a, m1) ∧ m1.dmaSource ch ((s.m.dev.dmaCh ch).dstOf i) i.len (bit i.mode 1) = (some b, m2) ∧ ((firstDiff a b 0 = none ∨ bit i.mode 4 = false)) ∧ (m2.dmaArrive ch ((s.m.dev.dmaCh ch).index + 1)).1 = none) :=
  ⟨⟨(dmaAt ({ op := 1, mode := 0, len := 16, src := 0x20000, dst := 0x30000 } : DmaInstr) : State), (31 : Nat), ({ op := 1, mode := 0, len := 16, src := 0x20000, dst := 0x30000 } : DmaInstr), ([] : List (Nat × Bool)), (List.replicate 16 0), ((dmaAt ({ op := 1, mode := 0, len := 16, src := 0x20000, dst := 0x30000 } : DmaInstr) : State).m), (((dmaAt ({ op := 1, mode := 0, len := 16, src := 0x20000, dst := 0x30000 } : DmaInstr) : State).m.dmaDest 31 0x30000 (List.replicate 16 0) false).2), And.intro rfl rfl, by unfold Dev.Shape; decide +kernel, by decide +kernel, by decide +kernel, by decide +kernel, by decide +kernel, by decide +kernel, by decide +kernel, by decide +kernel, by decide +kernel, by decide +kernel, by decide +kernel⟩,
    ⟨(dmaAt ({ op := 2, mode := 0, len := 4, src := 0x01020304, dst := 0x30000 } : DmaInstr) : State), (31 : Nat), ({ op := 2, mode := 0, len := 4, src := 0x01020304, dst := 0x30000 } : DmaInstr), (((dmaAt ({ op := 2, mode := 0, len := 4, src := 0x01020304, dst := 0x30000 } : DmaInstr) : State).m.dmaDest 31 0x30000 [4, 3, 2, 1] false).2), And.intro rfl rfl, by unfold Dev.Shape; decide +kernel, by decide +kernel, by decide +kernel, by decide +kernel, by decide +kernel, by decide +kernel, by decide +kernel, by decide +kernel, by decide +kernel, by decide +kernel, by decide +kernel⟩,
    ⟨(dmaAt ({ op := 3, mode := 0, len := 8, src := 0x20000, dst := 0x10020 } : DmaInstr) : State), (31 : Nat), ({ op := 3, mode := 0, len := 8, src := 0x20000, dst := 0x10020 } : DmaInstr), ([] : List (Nat × Bool)), (List.replicate 8 0), (((dmaAt ({ op := 3, mode := 0, len := 8, src := 0x20000, dst := 0x10020 } : DmaInstr) : State).m.dmaSource 31 0x10020 8 false).1.getD []), ((dmaAt ({ op := 3, mode := 0, len := 8, src := 0x20000, dst := 0x10020 } : DmaInstr) : State).m), ((dmaAt ({ op := 3, mode := 0, len := 8, src := 0x20000, dst := 0x10020 } : DmaInstr) : State).m), And.intro rfl rfl, by unfold Dev.Shape; decide +kernel, by decide +kernel, by decide +kernel, by decide +kernel, by decide +kernel, by decide +kernel, by decide +kernel, by decide +kernel, by decide +kernel, by decide +kernel, by decide +kernel⟩⟩

theorem wit_DmaControl :
    (∃ (s : State) (ch : Nat) (i : DmaInstr) (now : _), s.Live ∧ s.m.dev.Shape ∧ ch < 32 ∧ s.m.dmaCur ch = some i ∧ s.m.dev.powered (24 + ch / 8) = true ∧ i.op = 4 ∧ i.len ≠ 0 ∧ i.dst % 4096 < (s.m.dev.dmaCh ch).index ∧ now = (if (s.m.dev.dmaCh ch).counters.getD (i.mode % 4) 0 = 0 then i.len else (s.m.dev.dmaCh ch).counters.getD (i.mode % 4) 0) - 1 ∧ (s.m.dmaArrive ch (if 0 < now then i.dst % 4096 else (s.m.dev.dmaCh ch).index + 1)).1 = none) ∧
    (∃ (s : State) (ch : Nat) (i : DmaInstr), s.Live ∧ s.m.dev.Shape ∧ ch < 32 ∧ s.m.dmaCur ch = some i ∧ s.m.dev.powered (24 + ch / 8) = true ∧ i.op = 5 ∧ waitable (i.dst % 64) = true ∧ bit (s.m.dev.dmaCh ch).waitMask (i.dst % 64) = true ∧ ((8 ≤ i.dst % 64 → bit s.m.dev.dmaEvents (i.dst % 64) = false))) ∧
    (∃ (s : State) (ch : Nat) (i : DmaInstr), s.Live ∧ s.m.dev.Shape ∧ ch < 32 ∧ s.m.dmaCur ch = some i ∧ s.m.dev.powered (24 + ch / 8) = true ∧ i.op = 6 ∧ 8 ≤ i.dst % 64 ∧ bit (s.m.dev.dmaCh ch).signalMask (i.dst % 64) = true ∧ s.m.dev.waitersOn (i.dst % 64) = [] ∧ (s.m.dmaArrive ch ((s.m.dev.dmaCh ch).index + 1)).1 = none) ∧
    (∃ (s : State) (ch : Nat) (i : DmaInstr) (k : _) (c : _), s.Live ∧ s.m.dev.Shape ∧ ch < 32 ∧ s.m.dmaCur ch = some i ∧ s.m.dev.powered (24 + ch / 8) = true ∧ i.op = 7 ∧ bit (s.m.dev.reg 0x1F (0x40 * ch + 0x28)).toNat 0 = false ∧ (s.m.dev.dmaCh ch).cmd = some k ∧ s.m.dev.cmd k.1 k.2 = some c ∧ ((k.1 ≠ 0 ∨ k.2 ∉ s.m.dev.host.aer))) :=
  ⟨⟨(onD (dmaAt ({ op := 4, mode := 0, len := 2, src := 0, dst := 0 } : DmaInstr)) fun d => d.onDma 31 fun x => { x with index := 1 } : State), (31 : Nat), ({ op := 4, mode := 0, len := 2, src := 0, dst := 0 } : DmaInstr), (1), And.intro rfl rfl, by unfold Dev.Shape; decide +kernel, by decide +kernel, by decide +kernel, by decide +kernel, by decide +kernel, by decide +kernel, by decide +kernel, by decide +kernel, by decide +kernel⟩,
    ⟨(onD (dmaAt ({ op := 5, mode := 0, len := 5, src := 0, dst := 63 } : DmaInstr)) fun d => d.onDma 31 fun x => { x with waitMask := 2 ^ 63 } : State), (31 : Nat), ({ op := 5, mode := 0, len := 5, src := 0, dst := 63 } : DmaInstr), And.intro rfl rfl, by unfold Dev.Shape; decide +kernel, by decide +kernel, by decide +kernel, by decide +kernel, by decide +kernel, by decide +kernel, by decide +kernel, by decide +kernel⟩,
    ⟨(onD (dmaAt ({ op := 6, mode := 0, len := 0, src := 0, dst := 8 } : DmaInstr)) fun d => d.onDma 31 fun x => { x with signalMask := 2 ^ 8 } : State), (31 : Nat), ({ op := 6, mode := 0, len := 0, src := 0, dst := 8 } : DmaInstr), And.intro rfl rfl, by unfold Dev.Shape; decide +kernel, by decide +kernel, by decide +kernel, by decide +kernel, by decide +kernel, by decide +kernel, by decide +kernel, by decide +kernel, by decide +kernel⟩,
    ⟨(onD (withCmd (dmaAt ({ op := 7, mode := 0, len := 0, src := 0, dst := 0 } : DmaInstr)) ({ cmdAt 0x68 31 0 0 [] with phase := .running })) fun d => d.onDma 31 fun x => { x with cmd := some (1, 7) } : State), (31 : Nat), ({ op := 7, mode := 0, len := 0, src := 0, dst := 0 } : DmaInstr), ((1, 7)), ({ cmdAt 0x68 31 0 0 [] with phase := .running }), And.intro rfl rfl, by unfold Dev.Shape; decide +kernel, by decide +kernel, by decide +kernel, by decide +kernel, by decide +kernel, by decide +kernel, by decide +kernel, by decide +kernel, by decide +kernel⟩⟩

theorem wit_DmaStart :
    (∃ (s : State) (ch : Nat) (v : _), s.Live ∧ s.m.dev.Shape ∧ ch < 32 ∧ (s.m.dev.dmaCh ch).state = .waiting ∧ (s.m.dev.dmaCh ch).released = true ∧ (s.m.dev.dmaCh ch).waitEvent = v ∧ ((∀ k, k ≠ ch → (s.m.dev.dmaCh k).state ≠ .waiting)) ∧ (s.m.dmaArrive ch ((s.m.dev.dmaCh ch).index + 1)).1 = none) ∧
    (∃ (s : State) (ch : Nat) (t0 : _) (k : _) (c : _), s.Live ∧ s.m.dev.Shape ∧ ch < 32 ∧ (s.m.dev.dmaCh ch).state = .waiting ∧ (s.m.dev.dmaCh ch).released = false ∧ (s.m.dev.dmaCh ch).waitUntil = some t0 ∧ bit (s.m.dev.reg 0x1F (0x40 * ch + 0x28)).toNat 0 = false ∧ (s.m.dev.dmaCh ch).cmd = some k ∧ s.m.dev.cmd k.1 k.2 = some c ∧ ((k.1 ≠ 0 ∨ k.2 ∉ s.m.dev.host.aer))) ∧
    (∃ (s : State) (ch : Nat), s.Live ∧ s.m.dev.Shape ∧ ch < 32 ∧ s.m.dev.powered (24 + ch / 8) = true ∧ (s.m.dev.dmaCh ch).state ≠ .idle) ∧
    (∃ (s : State) (ch : Nat), s.Live ∧ s.m.dev.Shape ∧ ch < 32 ∧ s.m.dev.powered (24 + ch / 8) = true) ∧
    (∃ (s : State) (ch : Nat), s.Live ∧ s.m.dev.Shape ∧ ch < 32 ∧ (∀ k, (s.m.dev.dmaCh k).state ≠ .waiting)) ∧
    (∃ (s : State) (ch : Nat) (sq : _) (cid : _) (c : _), s.Live ∧ s.m.dev.Shape ∧ ch < 32 ∧ s.Runs sq cid 0x68 c ∧ ((sq ≠ 0 ∨ cid ∉ s.m.dev.host.aer)) ∧ c.target = ch ∧ c.dw64 0 % 32 = 0 ∧ c.dw64 0 < 2 ^ 40 ∧ s.m.dev.takesWork (24 + ch / 8) = true ∧ (s.m.dev.dmaCh ch).state = .idle ∧ (s.m.dmaBegin ch (c.dw64 0) (s.m.dev.reg64 0x1F (0x40 * ch + 0x18)) (s.m.dev.reg64 0x1F (0x40 * ch + 0x20)) (some (sq, cid))).1 = none) ∧
    (∃ (s : State) (ch : Nat) (sq : _) (cid : _) (c : _), s.Live ∧ s.m.dev.Shape ∧ ch < 32 ∧ s.Runs sq cid 0x68 c ∧ ((sq ≠ 0 ∨ cid ∉ s.m.dev.host.aer)) ∧ c.target = ch ∧ c.dw64 0 % 32 = 0 ∧ c.dw64 0 < 2 ^ 40 ∧ s.m.dev.takesWork (24 + ch / 8) = true ∧ (s.m.dev.dmaCh ch).state ≠ .idle ∧ bit (s.m.dev.reg 0x1F (0x40 * ch + 0x28)).toNat 0 = false) :=
  ⟨⟨(onD (dmaAt { op := 2, mode := 0, len := 4, src := 0, dst := 0x30000 }) fun d => d.onDma 31 fun x => { x with state := .waiting, released := true, waitEvent := 9 } : State), (31 : Nat), (9), And.intro rfl rfl, by unfold Dev.Shape; decide +kernel, by decide +kernel, by decide +kernel, by decide +kernel, by decide +kernel, fun k h => (Nat.lt_or_ge k 32).elim (fun h' => by revert h; revert k; decide +kernel) (fun h' e => DmaState.noConfusion ((dmaCh_beyond _ k (by exact h')).symm.trans e)), by decide +kernel⟩,
    ⟨(onD (withCmd (dmaAt { op := 2, mode := 0, len := 4, src := 0, dst := 0x30000 }) ({ cmdAt 0x68 31 0 0 [] with phase := .running })) fun d => d.onDma 31 fun x => { x with state := .waiting, cmd := some (1, 7), waitUntil := some 5000 } : State), (31 : Nat), (5000), ((1, 7)), ({ cmdAt 0x68 31 0 0 [] with phase := .running }), And.intro rfl rfl, by unfold Dev.Shape; decide +kernel, by decide +kernel, by decide +kernel, by decide +kernel, by decide +kernel, by decide +kernel, by decide +kernel, by decide +kernel, by decide +kernel⟩,
    ⟨(onD (dmaAt { op := 2, mode := 0, len := 4, src := 0, dst := 0x30000 }) fun d => d.onDma 31 fun x => { x with state := .waiting } : State), (31 : Nat), And.intro rfl rfl, by unfold Dev.Shape; decide +kernel, by decide +kernel, by decide +kernel, by decide +kernel⟩,
    ⟨(up : State), (31 : Nat), And.intro rfl rfl, by unfold Dev.Shape; decide +kernel, by decide +kernel, by decide +kernel⟩,
    ⟨(up : State), (0 : Nat), And.intro rfl rfl, by unfold Dev.Shape; decide +kernel, by decide +kernel, fun k => (Nat.lt_or_ge k 32).elim (fun h' => by revert k; decide +kernel) (fun h' e => DmaState.noConfusion ((dmaCh_beyond _ k (by exact h')).symm.trans e))⟩,
    ⟨(withCmd (onD (dmaAt { op := 2, mode := 0, len := 4, src := 0, dst := 0x30000 }) fun d => d.onDma 31 fun x => { x with state := .idle }) (cmdAt 0x68 31 0 0 [0x10000, 0]) : State), (31 : Nat), (1), (7), (cmdAt 0x68 31 0 0 [0x10000, 0]), And.intro rfl rfl, by unfold Dev.Shape; decide +kernel, by decide +kernel, And.intro (And.intro rfl rfl) (And.intro rfl (And.intro rfl rfl)), by decide +kernel, by decide +kernel, by decide +kernel, by decide +kernel, by decide +kernel, by decide +kernel, by decide +kernel⟩,
    ⟨(withCmd (onD (dmaAt { op := 2, mode := 0, len := 4, src := 0, dst := 0x30000 }) fun d => d.onDma 31 fun x => { x with state := .running }) (cmdAt 0x68 31 0 0 [0x10000, 0]) : State), (31 : Nat), (1), (7), (cmdAt 0x68 31 0 0 [0x10000, 0]), And.intro rfl rfl, by unfold Dev.Shape; decide +kernel, by decide +kernel, And.intro (And.intro rfl rfl) (And.intro rfl (And.intro rfl rfl)), by decide +kernel, by decide +kernel, by decide +kernel, by decide +kernel, by decide +kernel, by decide +kernel, by decide +kernel⟩⟩

theorem wit_SiderealTime :
    (∃ (s : State) (sq : _) (cid : _) (c : _), s.Runs sq cid 0x18 c ∧ c.dw 0 % 4 = 0 ∧ s.m.dev.timeSetRefused = false ∧ s.m.dev.anyCapture = false) ∧
    (∃ (s : State) (sq : _) (cid : _) (c : _), s.Runs sq cid 0x18 c ∧ c.dw 0 % 4 = 0 ∧ s.m.dev.timeSetRefused = false ∧ s.m.dev.anyCapture = true) ∧
    (∃ (s : State) (sq : _) (cid : _) (c : _), s.Runs sq cid 0x18 c ∧ c.dw 0 % 4 = 1 ∧ s.m.dev.timeSetRefused = false) ∧
    (∃ (s : State) (w : _), s.Live ∧ s.m.dev.sid.slew = some w) ∧
    (∃ (s : State), s.Live ∧ s.m.dev.discipline ≠ 3) ∧
    (∃ (s : State) (dt : _), s.Live ∧ s.m.dev.discipline = 3 ∧ 100000 < (fromSecond (s.m.dev.advance dt).sdt).natAbs ∧ s.m.dev.Shape) ∧
    (∃ (s : State), s.Live) ∧
    (∃ (s : State) (t0 : _), s.Live ∧ s.m.dev.sid.ppsOut = some t0) ∧
    (∃ (s : State), s.Live ∧ s.m.dev.sid.locked = true) :=
  ⟨⟨(withCmd up (cmdAt 0x18 0 0 0 [0, 0, 0xFFFFFFFF, 5]) : State), (1), (7), (cmdAt 0x18 0 0 0 [0, 0, 0xFFFFFFFF, 5]), And.intro (And.intro rfl rfl) (And.intro rfl (And.intro rfl rfl)), by decide +kernel, by decide +kernel, by decide +kernel⟩,
    ⟨(withCmd (onD up fun d => { d with caps := [(0, some { ctx := 1, run := .armed })] }) (cmdAt 0x18 0 0 0 [0, 0, 0, 5]) : State), (1), (7), (cmdAt 0x18 0 0 0 [0, 0, 0, 5]), And.intro (And.intro rfl rfl) (And.intro rfl (And.intro rfl rfl)), by decide +kernel, by decide +kernel, by decide +kernel⟩,
    ⟨(withCmd up (cmdAt 0x18 0 0 0 [1, 0, 5, 0x80000000]) : State), (1), (7), (cmdAt 0x18 0 0 0 [1, 0, 5, 0x80000000]), And.intro (And.intro rfl rfl) (And.intro rfl (And.intro rfl rfl)), by decide +kernel, by decide +kernel⟩,
    ⟨(onD up fun d => { d with sid := { d.sid with slew := some ({ from_ := 0, offset := 1000, ppb := 500000 }) } } : State), ({ from_ := 0, offset := 1000, ppb := 500000 }), And.intro rfl rfl, by decide +kernel⟩,
    ⟨(up : State), And.intro rfl rfl, by decide +kernel⟩,
    ⟨(regAt (onD up fun d => { d with sid := { d.sid with und := 2 ^ 31 } }) 0x01 0x00C 3 : State), (10), And.intro rfl rfl, by decide +kernel, by decide +kernel, by unfold Dev.Shape; decide +kernel⟩,
    ⟨(onD up fun d => { d with sid := { d.sid with set := true } } : State), And.intro rfl rfl⟩,
    ⟨(onD up fun d => { d with sid := { d.sid with ppsOut := some 0 } } : State), (0), And.intro rfl rfl, by decide +kernel⟩,
    ⟨(onD up fun d => { d with sid := { d.sid with locked := true } } : State), And.intro rfl rfl, by decide +kernel⟩⟩

theorem wit_PtpMessages :
    (∃ (s : State) (e : Nat) (dt : Nat) (d : Dev), s.Live ∧ s.m.dev.Shape ∧ d = s.m.dev.advance dt ∧ d.ptpSlave e = true) ∧
    (∃ (s : State) (e : Nat) (dt : Nat) (d : Dev), s.Live ∧ s.m.dev.Shape ∧ d = s.m.dev.advance dt ∧ d.ptpSlave e = true ∧ (d.ethPort e).ptp.delay = none) ∧
    (∃ (s : State) (e : Nat) (dt : Nat) (d : Dev) (seqId : _) (t2 : _), s.Live ∧ s.m.dev.Shape ∧ d = s.m.dev.advance dt ∧ d.ptpSlave e = true ∧ (d.ethPort e).ptp.syncAt = some (seqId, t2) ∧ (d.ethPort e).ptp.delay = none) ∧
    (∃ (s : State) (e : Nat) (dt : Nat) (d : Dev) (seqId : _) (t3 : _) (t21 : _), s.Live ∧ s.m.dev.Shape ∧ d = s.m.dev.advance dt ∧ d.ptpSlave e = true ∧ (d.ethPort e).ptp.reqAt = some (seqId, t3) ∧ (d.ethPort e).ptp.t21 = some t21) ∧
    (∃ (s : State) (e : Nat) (dt : Nat) (d : Dev), s.Live ∧ s.m.dev.Shape ∧ d = s.m.dev.advance dt ∧ d.ptpRuns e = true ∧ (d.ethPort e).ptp.portState = 6) ∧
    (∃ (s : State) (e : Nat) (dt : Nat) (d : Dev), s.Live ∧ s.m.dev.Shape ∧ d = s.m.dev.advance dt ∧ d.ptpRuns e = true ∧ d.ptpRole e ≠ 2 ∧ (d.ethPort e).ptp.best = none) ∧
    (∃ (s : State) (e : Nat) (dt : Nat) (d : Dev), s.Live ∧ s.m.dev.Shape ∧ d = s.m.dev.advance dt ∧ d.ptpRuns e = true ∧ d.ptpRole e ≠ 2) ∧
    (∃ (s : State) (e : Nat) (dt : Nat) (d : Dev), s.Live ∧ s.m.dev.Shape ∧ d = s.m.dev.advance dt ∧ d.ptpRuns e = true ∧ (d.ethPort e).ptp.portState = 6) :=
  ⟨⟨(ptp 8 {} : State), (1 : Nat), (100 : Nat), ((ptp 8 {} : State).m.dev.advance 100 : Dev), And.intro rfl rfl, by unfold Dev.Shape; decide +kernel, by decide +kernel, by decide +kernel⟩,
    ⟨(ptp 8 {} : State), (1 : Nat), (100 : Nat), ((ptp 8 {} : State).m.dev.advance 100 : Dev), And.intro rfl rfl, by unfold Dev.Shape; decide +kernel, by decide +kernel, by decide +kernel, by decide +kernel⟩,
    ⟨(ptp 9 { syncAt := some (3, 90) } : State), (1 : Nat), (100 : Nat), ((ptp 9 { syncAt := some (3, 90) } : State).m.dev.advance 100 : Dev), (3), (90), And.intro rfl rfl, by unfold Dev.Shape; decide +kernel, by decide +kernel, by decide +kernel, by decide +kernel, by decide +kernel⟩,
    ⟨(ptp 9 { reqAt := some (3, 90), t21 := some 5 } : State), (1 : Nat), (100 : Nat), ((ptp 9 { reqAt := some (3, 90), t21 := some 5 } : State).m.dev.advance 100 : Dev), (3), (90), (5), And.intro rfl rfl, by unfold Dev.Shape; decide +kernel, by decide +kernel, by decide +kernel, by decide +kernel, by decide +kernel⟩,
    ⟨(ptp 6 {} : State), (1 : Nat), (100 : Nat), ((ptp 6 {} : State).m.dev.advance 100 : Dev), And.intro rfl rfl, by unfold Dev.Shape; decide +kernel, by decide +kernel, by decide +kernel, by decide +kernel⟩,
    ⟨(ptp 6 {} : State), (1 : Nat), (100 : Nat), ((ptp 6 {} : State).m.dev.advance 100 : Dev), And.intro rfl rfl, by unfold Dev.Shape; decide +kernel, by decide +kernel, by decide +kernel, by decide +kernel, by decide +kernel⟩,
    ⟨(ptp 8 { best := some [1, 2] } : State), (1 : Nat), (100 : Nat), ((ptp 8 { best := some [1, 2] } : State).m.dev.advance 100 : Dev), And.intro rfl rfl, by unfold Dev.Shape; decide +kernel, by decide +kernel, by decide +kernel, by decide +kernel⟩,
    ⟨(ptp 6 { seqId := 65535 } : State), (1 : Nat), (100 : Nat), ((ptp 6 { seqId := 65535 } : State).m.dev.advance 100 : Dev), And.intro rfl rfl, by unfold Dev.Shape; decide +kernel, by decide +kernel, by decide +kernel, by decide +kernel⟩⟩

theorem wit_EthPorts :
    (∃ (s : State) (e : Nat), s.Live ∧ s.m.dev.Shape ∧ e < 2 ∧ (s.m.dev.ethPort e).up = true ∧ fld (s.m.dev.reg 0x21 (0x100 * e + 0x08)) 0 17 ≠ 0) ∧
    (∃ (s : State) (e : Nat), s.Live ∧ s.m.dev.Shape ∧ e < 2 ∧ (s.m.dev.ethPort e).up = false ∧ (s.m.dev.ethPort e).held = true ∧ s.m.dev.clk < (s.m.dev.ethPort e).holdUntil ∧ s.m.dev.takesWork (18 + e) = true ∧ bit (s.m.dev.reg 0x21 (0x100 * e)).toNat 31 = true) ∧
    (∃ (s : State) (e : Nat), s.Live ∧ s.m.dev.Shape ∧ e < 2 ∧ (s.m.dev.ethPort e).held = true) ∧
    (∃ (s : State) (e : Nat), s.Live ∧ s.m.dev.Shape ∧ e < 2) ∧
    (∃ (s : State) (e : Nat) (i : _), s.Live ∧ s.m.dev.Shape ∧ e < 2 ∧ i < 4096) ∧
    (∃ (s : State) (e : Nat), s.Live ∧ s.m.dev.Shape ∧ e < 2) ∧
    (∃ (s : State) (e : Nat), s.Live ∧ s.m.dev.Shape ∧ e < 2 ∧ s.m.dev.powered (18 + e) = true ∧ (s.m.dev.gclInactive e).ok = true) ∧
    (∃ (s : State) (e : Nat) (g : _) (at_ : _), s.Live ∧ s.m.dev.Shape ∧ e < 2 ∧ (s.m.dev.ethPort e).gclNext = some (g, at_)) :=
  ⟨⟨(onD up fun d => d.onEth 1 fun p => { p with up := true } : State), (1 : Nat), And.intro rfl rfl, by unfold Dev.Shape; decide +kernel, by decide +kernel, by decide +kernel, by decide +kernel⟩,
    ⟨(regAt (onD up fun d => d.onEth 1 fun p => { p with held := true, holdUntil := 1000, queues := List.replicate 8 { units := [{ flow := none, len := 60, at_ := 0, deadline := 0, rtp := 0, marker := false, payload := [] }] } }) 0x21 0x100 0x80000000 : State), (1 : Nat), And.intro rfl rfl, by unfold Dev.Shape; decide +kernel, by decide +kernel, by decide +kernel, by decide +kernel, by decide +kernel, by decide +kernel, by decide +kernel⟩,
    ⟨(onD up fun d => d.onEth 1 fun p => { p with held := true, holdUntil := 1000, down := false } : State), (1 : Nat), And.intro rfl rfl, by unfold Dev.Shape; decide +kernel, by decide +kernel, by decide +kernel⟩,
    ⟨(regAt (regAt up 0x21 (bucketReg false 4095) 7) 0x21 (bucketReg false 4095 + 4) 1 : State), (1 : Nat), And.intro rfl rfl, by unfold Dev.Shape; decide +kernel, by decide +kernel⟩,
    ⟨(regAt (regAt up 0x21 (bucketReg false 4095 + 4) 1500) 0x21 (bucketReg false 4095 + 0xC) 0x40000000 : State), (1 : Nat), (4095), And.intro rfl rfl, by unfold Dev.Shape; decide +kernel, by decide +kernel, by decide +kernel⟩,
    ⟨(up : State), (1 : Nat), And.intro rfl rfl, by unfold Dev.Shape; decide +kernel, by decide +kernel⟩,
    ⟨(regAt (regAt up 0x21 0x1400 0x01000001) 0x21 0x130 1 : State), (1 : Nat), And.intro rfl rfl, by unfold Dev.Shape; decide +kernel, by decide +kernel, by decide +kernel, by decide +kernel⟩,
    ⟨(onD up fun d => d.onEth 1 fun p => { p with gclNext := some (({ entries := [(0x0F, 500000)], count := 1, base := 5 }), 2 ^ 32) } : State), (1 : Nat), ({ entries := [(0x0F, 500000)], count := 1, base := 5 }), (2 ^ 32), And.intro rfl rfl, by unfold Dev.Shape; decide +kernel, by decide +kernel, by decide +kernel⟩⟩

theorem wit_EthFrames :
    (∃ (s : State) (e : Nat) (u : EthUnit), s.Live ∧ s.m.dev.Shape ∧ e < 2 ∧ (s.m.dev.ethPort e).granted = some u ∧ s.m.dev.boot.role ≠ 2 ∧ u.flow = none) ∧
    (∃ (s : State) (e : Nat) (u : EthUnit) (f : _) (c : Ctx), s.Live ∧ s.m.dev.Shape ∧ e < 2 ∧ (s.m.dev.ethPort e).granted = some u ∧ s.m.dev.boot.role ≠ 2 ∧ u.flow = some f ∧ s.m.dev.ctx f = some c ∧ u.raw = false ∧ u.ext = false) ∧
    (∃ (s : State) (e : Nat), s.Live ∧ s.m.dev.Shape ∧ e < 2 ∧ (s.m.dev.ethPort e).up = true ∧ s.m.dev.takesWork (18 + e) = true) ∧
    (∃ (s : State) (e : Nat) (frame : _) (f : _) (c : Ctx), s.Live ∧ s.m.dev.Shape ∧ e < 2 ∧ (s.m.dev.ethPort e).up = true ∧ s.m.dev.takesWork (18 + e) = true ∧ (if frameTag frame then slice frame 16 2 else slice frame 12 2) ≠ [0x88, 0x08] ∧ isPtpFrame frame = false ∧ s.m.dev.flows.find? (fun f => decide (f.2.flowDir = 1 ∧ f.2.flowPort = e) && f.2.matchesFrame frame) = some (f, c) ∧ c.flowBucket = 0xFFFF) ∧
    (∃ (s : State) (e : Nat) (frame : _) (f : _) (c : Ctx), s.Live ∧ s.m.dev.Shape ∧ e < 2 ∧ (s.m.dev.ethPort e).up = true ∧ s.m.dev.takesWork (18 + e) = true ∧ (if frameTag frame then slice frame 16 2 else slice frame 12 2) ≠ [0x88, 0x08] ∧ isPtpFrame frame = false ∧ s.m.dev.flows.find? (fun f => decide (f.2.flowDir = 1 ∧ f.2.flowPort = e) && f.2.matchesFrame frame) = some (f, c) ∧ c.flowBucket ≠ 0xFFFF ∧ (s.m.dev.bucket true c.flowBucket).mb < 8000 * (frame.length + 4)) :=
  ⟨⟨(onD up fun d => d.onEth 1 fun p => { p with granted := some ({ flow := none, len := 60, at_ := 0, deadline := 0, rtp := 0, marker := false, payload := [1, 2] } : EthUnit) } : State), (1 : Nat), ({ flow := none, len := 60, at_ := 0, deadline := 0, rtp := 0, marker := false, payload := [1, 2] } : EthUnit), And.intro rfl rfl, by unfold Dev.Shape; decide +kernel, by decide +kernel, by decide +kernel, by decide +kernel, by decide +kernel⟩,
    ⟨(onD up fun d => { (d.onEth 1 fun p => { p with granted := some ({ flow := some 9, len := 60, at_ := 0, deadline := 0, rtp := 7, marker := true, pt := 96, payload := [1, 2] } : EthUnit) }) with ctxs := [(9, some ({ kind := .flow, params := [0, 1, 2, 2, 0xFF, 0xFF] } : Ctx))] } : State), (1 : Nat), ({ flow := some 9, len := 60, at_ := 0, deadline := 0, rtp := 7, marker := true, pt := 96, payload := [1, 2] } : EthUnit), (9), ({ kind := .flow, params := [0, 1, 2, 2, 0xFF, 0xFF] } : Ctx), And.intro rfl rfl, by unfold Dev.Shape; decide +kernel, by decide +kernel, by decide +kernel, by decide +kernel, by decide +kernel, by decide +kernel, by decide +kernel, by decide +kernel⟩,
    ⟨(onD up fun d => d.onEth 1 fun p => { p with up := true } : State), (1 : Nat), And.intro rfl rfl, by unfold Dev.Shape; decide +kernel, by decide +kernel, by decide +kernel, by decide +kernel⟩,
    ⟨(onD up fun d => { (d.onEth 1 fun p => { p with up := true }) with ctxs := [(9, some ({ kind := .flow, params := [1, 1, 0, 0, 0xFF, 0xFF, 3, 0] } : Ctx))] } : State), (1 : Nat), (List.replicate 60 1), (9), ({ kind := .flow, params := [1, 1, 0, 0, 0xFF, 0xFF, 3, 0] } : Ctx), And.intro rfl rfl, by unfold Dev.Shape; decide +kernel, by decide +kernel, by decide +kernel, by decide +kernel, by decide +kernel, by decide +kernel, by decide +kernel, by decide +kernel⟩,
    ⟨(onD up fun d => { (d.onEth 1 fun p => { p with up := true }) with ctxs := [(9, some ({ kind := .flow, params := [1, 1, 0, 0, 0xFE, 0x0F, 3, 0] } : Ctx))] } : State), (1 : Nat), (List.replicate 60 1), (9), ({ kind := .flow, params := [1, 1, 0, 0, 0xFE, 0x0F, 3, 0] } : Ctx), And.intro rfl rfl, by unfold Dev.Shape; decide +kernel, by decide +kernel, by decide +kernel, by decide +kernel, by decide +kernel, by decide +kernel, by decide +kernel, by decide +kernel, by decide +kernel⟩⟩

theorem wit_LinkPorts :
    (∃ (s : State) (p : Nat), s.Live ∧ p < 4 ∧ s.m.dev.link.ports.length = 4 ∧ s.m.dev.linkOn p = true ∧ (s.m.dev.port p).state = .training) ∧
    (∃ (s : State) (p : Nat), s.Live ∧ p < 4 ∧ s.m.dev.link.ports.length = 4 ∧ (s.m.dev.port p).laneLock = 15 ∧ (s.m.dev.port p).state = .init) ∧
    (∃ (s : State) (p : Nat) (x : _) (r : List LinkMsg), s.Live ∧ p < 4 ∧ s.m.dev.link.ports.length = 4 ∧ takeMsg p 1 s.m.dev.link.inbox = some (x, r) ∧ (s.m.dev.port p).state = .init ∧ s.m.dev.pairing p (rd x.body 0 1) (rd x.body 1 1) = true) ∧
    (∃ (s : State) (p : Nat) (x : _) (r : List LinkMsg), s.Live ∧ p < 4 ∧ s.m.dev.link.ports.length = 4 ∧ takeMsg p 1 s.m.dev.link.inbox = some (x, r) ∧ (s.m.dev.port p).state = .init ∧ s.m.dev.pairing p (rd x.body 0 1) (rd x.body 1 1) = false) ∧
    (∃ (s : State) (p : Nat) (lanes : _), s.Live ∧ p < 4 ∧ s.m.dev.link.ports.length = 4 ∧ (s.m.dev.port p).state = .up ∧ lanes % 16 ≠ 15 ∧ fld (s.m.dev.reg 0x22 (0x100 * p)) 0 17 ≠ 0) ∧
    (∃ (s : State) (p : Nat), s.Live ∧ p < 4 ∧ s.m.dev.link.ports.length = 4 ∧ (s.m.dev.port p).state = .held) ∧
    (∃ (s : State) (p : Nat), s.Live ∧ p < 4 ∧ s.m.dev.link.ports.length = 4 ∧ (s.m.dev.port p).state = .miswired) :=
  ⟨⟨(regAt (portAt up 3 fun q => { q with state := .training }) 0x22 0x300 0x80000000 : State), (3 : Nat), And.intro rfl rfl, by decide +kernel, by decide +kernel, by decide +kernel, by decide +kernel⟩,
    ⟨(portAt up 3 fun q => { q with state := .init, laneLock := 15 } : State), (3 : Nat), And.intro rfl rfl, by decide +kernel, by decide +kernel, by decide +kernel, by decide +kernel⟩,
    ⟨(msgAt (portAt (roled 1) 3 fun q => { q with state := .init }) 3 1 ((msg 3 1 ([2, 0, 0, 0] ++ List.replicate 16 9 ++ [0, 0])).body) : State), (3 : Nat), (msg 3 1 ([2, 0, 0, 0] ++ List.replicate 16 9 ++ [0, 0])), ([] : List LinkMsg), And.intro rfl rfl, by decide +kernel, by decide +kernel, by decide +kernel, by decide +kernel, by decide +kernel⟩,
    ⟨(msgAt (portAt (roled 1) 3 fun q => { q with state := .init }) 3 1 ((msg 3 1 ([1, 0, 0, 0] ++ List.replicate 16 9 ++ [0, 0])).body) : State), (3 : Nat), (msg 3 1 ([1, 0, 0, 0] ++ List.replicate 16 9 ++ [0, 0])), ([] : List LinkMsg), And.intro rfl rfl, by decide +kernel, by decide +kernel, by decide +kernel, by decide +kernel, by decide +kernel⟩,
    ⟨(portAt up 3 fun q => { q with state := .up, laneLock := 15 } : State), (3 : Nat), (14), And.intro rfl rfl, by decide +kernel, by decide +kernel, by decide +kernel, by decide +kernel, by decide +kernel⟩,
    ⟨(portAt up 3 fun q => { q with state := .held, laneLock := 15, holdUntil := 500 } : State), (3 : Nat), And.intro rfl rfl, by decide +kernel, by decide +kernel, by decide +kernel⟩,
    ⟨(portAt up 3 fun q => { q with state := .miswired, laneLock := 15, retryAt := 500 } : State), (3 : Nat), And.intro rfl rfl, by decide +kernel, by decide +kernel, by decide +kernel⟩⟩

theorem wit_LinkFlits :
    (∃ (s : State) (p : Nat) (raw : _), s.Live ∧ s.m.dev.Shape ∧ p < 4 ∧ s.m.dev.link.ports.length = 4 ∧ (s.m.dev.port p).state = .up ∧ (parseFlit raw).crcGood = false) ∧
    (∃ (s : State) (p : Nat) (raw : _) (x : _), s.Live ∧ s.m.dev.Shape ∧ p < 4 ∧ s.m.dev.link.ports.length = 4 ∧ (s.m.dev.port p).state = .up ∧ parseFlit raw = x ∧ x.crcGood = true ∧ x.flit.classOk = true ∧ x.flit.numbered = true ∧ x.flit.isInit = false ∧ x.flit.seq = (s.m.dev.port p).rxNext) ∧
    (∃ (s : State) (p : Nat) (raw : _) (x : _), s.Live ∧ s.m.dev.Shape ∧ p < 4 ∧ s.m.dev.link.ports.length = 4 ∧ (s.m.dev.port p).state = .up ∧ parseFlit raw = x ∧ x.crcGood = true ∧ x.flit.type = 3 ∧ x.flit.cls = 0) ∧
    (∃ (s : State) (p : Nat), s.Live ∧ s.m.dev.Shape ∧ p < 4 ∧ s.m.dev.link.ports.length = 4 ∧ (s.m.dev.port p).state = .up ∧ (s.m.dev.port p).replay ≠ [] ∧ (s.m.dev.port p).replays < 8) :=
  ⟨⟨(portAt up 3 fun q => { q with state := .up } : State), (3 : Nat), (List.replicate 272 1), And.intro rfl rfl, by unfold Dev.Shape; decide +kernel, by decide +kernel, by decide +kernel, by decide +kernel, by decide +kernel⟩,
    ⟨(portAt up 3 fun q => { q with state := .up, rxNext := 4095 } : State), (3 : Nat), (flitRaw (2 ^ 92 + 2 ^ 90 + 4095 * 2 ^ 76)), (parseFlit (flitRaw (2 ^ 92 + 2 ^ 90 + 4095 * 2 ^ 76))), And.intro rfl rfl, by unfold Dev.Shape; decide +kernel, by decide +kernel, by decide +kernel, by decide +kernel, by decide +kernel, by decide +kernel, by decide +kernel, by decide +kernel, by decide +kernel, by decide +kernel⟩,
    ⟨(portAt up 3 fun q => { q with state := .up, rxNext := 4095 } : State), (3 : Nat), (flitRaw (3 * 2 ^ 92)), (parseFlit (flitRaw (3 * 2 ^ 92))), And.intro rfl rfl, by unfold Dev.Shape; decide +kernel, by decide +kernel, by decide +kernel, by decide +kernel, by decide +kernel, by decide +kernel, by decide +kernel, by decide +kernel⟩,
    ⟨(portAt up 3 fun q => { q with state := .up, replays := 7, replay := [{ type := 1, cls := 1, last := true, seq := 3, dest := 0, src := 0, target := 0, payload := [] }] } : State), (3 : Nat), And.intro rfl rfl, by unfold Dev.Shape; decide +kernel, by decide +kernel, by decide +kernel, by decide +kernel, by decide +kernel, by decide +kernel⟩⟩

theorem wit_Enumeration :
    (∃ (s : State) (p : Nat) (sq : _) (cid : _) (c : _), s.m.dev.link.ports.length = 4 ∧ p < 4 ∧ s.Runs sq cid 0x28 c ∧ s.m.dev.boot.role = 1 ∧ s.m.dev.anyCapture = false ∧ ((∀ w ∈ s.m.dev.link.workers, w.reachable = true → w.armed = 0)) ∧ s.m.dev.downPorts.find? (fun p => decide ((s.m.dev.port p).state = .up)) = some p) ∧
    (∃ (s : State) (p : Nat) (sq : _) (cid : _) (c : _), s.m.dev.link.ports.length = 4 ∧ p < 4 ∧ s.Runs sq cid 0x28 c ∧ s.m.dev.boot.role = 1 ∧ s.m.dev.anyCapture = false ∧ ((∀ w ∈ s.m.dev.link.workers, w.reachable = true → w.armed = 0)) ∧ (∀ q ∈ s.m.dev.downPorts, (s.m.dev.port q).state ≠ .up) ∧ s.m.mem.dataOk c 16 = true) ∧
    (∃ (s : State) (p : Nat) (x : _) (r : List LinkMsg), s.m.dev.link.ports.length = 4 ∧ p < 4 ∧ s.Live ∧ takeMsg 0 2 s.m.dev.link.inbox = some (x, r) ∧ s.m.dev.boot.role = 2) ∧
    (∃ (s : State) (p : Nat) (x : _) (r : List LinkMsg), s.m.dev.link.ports.length = 4 ∧ p < 4 ∧ s.Live ∧ takeMsg p 3 s.m.dev.link.inbox = some (x, r) ∧ s.m.dev.link.enumPort = p + 1) ∧
    (∃ (s : State) (p : Nat) (x : _) (r : List LinkMsg), s.m.dev.link.ports.length = 4 ∧ p < 4 ∧ s.Live ∧ takeMsg p 4 s.m.dev.link.inbox = some (x, r) ∧ s.m.dev.boot.role = 1) ∧
    (∃ (s : State) (p : Nat), s.m.dev.link.ports.length = 4 ∧ p < 4 ∧ s.Live ∧ s.m.dev.link.enumPort = p + 1) ∧
    (∃ (s : State) (p : Nat) (x : _) (r : List LinkMsg), s.m.dev.link.ports.length = 4 ∧ p < 4 ∧ s.Live ∧ takeMsg p 5 s.m.dev.link.inbox = some (x, r) ∧ s.m.dev.boot.role = 2 ∧ slice x.body 5 8 = slice uidBytes 0 8) :=
  ⟨⟨(withCmd (portAt (roled 1) 2 fun q => { q with state := .up }) (cmdAt 0x28 0 0x4000 16 []) : State), (2 : Nat), (1), (7), (cmdAt 0x28 0 0x4000 16 []), by decide +kernel, by decide +kernel, And.intro (And.intro rfl rfl) (And.intro rfl (And.intro rfl rfl)), by decide +kernel, by decide +kernel, by decide +kernel, by decide +kernel⟩,
    ⟨(withCmd (roled 1) (cmdAt 0x28 0 0x4000 16 []) : State), (2 : Nat), (1), (7), (cmdAt 0x28 0 0x4000 16 []), by decide +kernel, by decide +kernel, And.intro (And.intro rfl rfl) (And.intro rfl (And.intro rfl rfl)), by decide +kernel, by decide +kernel, by decide +kernel, by decide +kernel, by decide +kernel⟩,
    ⟨(msgAt (roled 2) 0 2 (msg 0 2 [4, 0, 1, 0, 2, 0, 0, 0]).body : State), (0 : Nat), (msg 0 2 [4, 0, 1, 0, 2, 0, 0, 0]), ([] : List LinkMsg), by decide +kernel, by decide +kernel, And.intro rfl rfl, by decide +kernel, by decide +kernel⟩,
    ⟨(msgAt (onD (roled 1) fun d => { d with link := { d.link with enumPort := 4, enumNext := 2 } }) 3 3 (msg 3 3 [4, 0, 0, 0]).body : State), (3 : Nat), (msg 3 3 [4, 0, 0, 0]), ([] : List LinkMsg), by decide +kernel, by decide +kernel, And.intro rfl rfl, by decide +kernel, by decide +kernel⟩,
    ⟨(msgAt (roled 1) 3 4 (msg 3 4 ([1, 0, 0, 0, 3, 1] ++ zeros 18)).body : State), (3 : Nat), (msg 3 4 ([1, 0, 0, 0, 3, 1] ++ zeros 18)), ([] : List LinkMsg), by decide +kernel, by decide +kernel, And.intro rfl rfl, by decide +kernel, by decide +kernel⟩,
    ⟨(onD (roled 1) fun d => { d with link := { d.link with enumPort := 4, enumNext := 2 } } : State), (3 : Nat), by decide +kernel, by decide +kernel, And.intro rfl rfl, by decide +kernel⟩,
    ⟨(msgAt (roled 2) 0 5 (msg 0 5 ([4, 0, 1, 6, 0] ++ uidBytes)).body : State), (0 : Nat), (msg 0 5 ([4, 0, 1, 6, 0] ++ uidBytes)), ([] : List LinkMsg), by decide +kernel, by decide +kernel, And.intro rfl rfl, rfl, by decide +kernel, rfl⟩⟩

theorem wit_Severities :
    (∃ (s : State) (p : Nat) (x : _) (r : List LinkMsg), s.Live ∧ takeMsg p 7 s.m.dev.link.inbox = some (x, r)) ∧
    (∃ (s : State) (p : Nat) (sq : _) (cid : _) (c : _), s.Runs sq cid 0x29 c ∧ c.dataLen = 600 ∧ s.m.mem.dataOk c 600 = true ∧ (∀ b ∈ s.m.mem.dataIn c 600, b.toNat ≤ 3) ∧ c.target ≤ 0xFFF ∧ c.target = 0) ∧
    (∃ (s : State) (p : Nat) (sq : _) (cid : _) (c : _), s.Runs sq cid 0x29 c ∧ c.dataLen = 600 ∧ s.m.mem.dataOk c 600 = true ∧ (∀ b ∈ s.m.mem.dataIn c 600, b.toNat ≤ 3) ∧ c.target ≤ 0xFFF ∧ c.target ≠ 0 ∧ ((∃ w ∈ s.m.dev.link.workers, (c.target = 0xFFF ∨ w.id = c.target) ∧ w.reachable = true))) ∧
    (∃ (s : State) (p : Nat) (sq : _) (cid : _) (c : _), s.Runs sq cid 0x29 c ∧ c.dataLen = 600 ∧ s.m.mem.dataOk c 600 = true ∧ (∀ b ∈ s.m.mem.dataIn c 600, b.toNat ≤ 3) ∧ c.target ≤ 0xFFF ∧ c.target ≠ 0 ∧ c.target ≠ 0xFFF ∧ ((∀ w ∈ s.m.dev.link.workers, w.id = c.target → w.reachable = false))) ∧
    (∃ (s : State) (p : Nat) (x : _) (r : List LinkMsg), s.Live ∧ takeMsg p 0x0A s.m.dev.link.inbox = some (x, r)) ∧
    (∃ (s : State) (p : Nat) (x : _) (r : List LinkMsg) (k : _) (c : _), s.Live ∧ takeMsg p 0x0B s.m.dev.link.inbox = some (x, r) ∧ s.m.dev.link.sevCmd = some k ∧ s.m.dev.cmd k.1 k.2 = some c ∧ rd x.body 0 2 ≠ 0xFFFF ∧ (rd x.body 0 2 + 1) % 0xFFFF = s.m.dev.link.sevToken ∧ s.m.dev.link.sevMissed = 0 ∧ ((∀ w ∈ s.m.dev.link.workers, w.sevWait = true → w.id = x.src))) ∧
    (∃ (s : State) (p : Nat) (k : _) (c : _) (n : _), s.Live ∧ s.m.dev.link.sevCmd = some k ∧ s.m.dev.cmd k.1 k.2 = some c ∧ n = (s.m.dev.link.workers.filter (fun w => w.sevWait)).length + s.m.dev.link.sevMissed ∧ 0 < n ∧ n < 2 ^ 32) :=
  ⟨⟨(msgAt (workers (roled 1) [{ id := 2, parent := 0, parentPort := 3, depth := 1, uid := [], last := 2 }]) 3 7 (msg 3 7 (zeros 16)).body : State), (3 : Nat), (msg 3 7 (zeros 16)), ([] : List LinkMsg), And.intro rfl rfl, by decide +kernel⟩,
    ⟨(withCmd (roled 1) (cmdAt 0x29 0 0x4000 600 []) : State), (0 : Nat), (1), (7), (cmdAt 0x29 0 0x4000 600 []), And.intro (And.intro rfl rfl) (And.intro rfl (And.intro rfl rfl)), by decide +kernel, by decide +kernel, zero_bytes 0x4000 600, by decide +kernel, by decide +kernel⟩,
    ⟨(withCmd (portAt (workers (roled 1) [{ id := 2, parent := 0, parentPort := 3, depth := 1, uid := [], last := 2 }]) 3 fun q => { q with state := .up, subId := 2, subLast := 2, subEnum := true }) (cmdAt 0x29 0xFFF 0x4000 600 []) : State), (0 : Nat), (1), (7), (cmdAt 0x29 0xFFF 0x4000 600 []), And.intro (And.intro rfl rfl) (And.intro rfl (And.intro rfl rfl)), by decide +kernel, by decide +kernel, zero_bytes 0x4000 600, by decide +kernel, by decide +kernel, by decide +kernel⟩,
    ⟨(withCmd (roled 1) (cmdAt 0x29 0xFFE 0x4000 600 []) : State), (0 : Nat), (1), (7), (cmdAt 0x29 0xFFE 0x4000 600 []), And.intro (And.intro rfl rfl) (And.intro rfl (And.intro rfl rfl)), by decide +kernel, by decide +kernel, zero_bytes 0x4000 600, by decide +kernel, by decide +kernel, by decide +kernel, by decide +kernel⟩,
    ⟨(msgAt (roled 2) 0 0x0A (msg 0 0x0A (zeros 152)).body : State), (0 : Nat), (msg 0 0x0A (zeros 152)), ([] : List LinkMsg), And.intro rfl rfl, by decide +kernel⟩,
    ⟨(withCmd (msgAt (onD (workers (roled 1) [{ id := 2, parent := 0, parentPort := 3, depth := 1, uid := [], sevWait := true }]) fun d => { d with link := { d.link with sevCmd := some (1, 7), sevToken := 1 } }) 3 0x0B (msg 3 0x0B [0, 0, 0, 0]).body) ({ cmdAt 0x29 2 0x4000 600 [] with phase := .running }) : State), (3 : Nat), (msg 3 0x0B [0, 0, 0, 0]), ([] : List LinkMsg), ((1, 7)), ({ cmdAt 0x29 2 0x4000 600 [] with phase := .running }), And.intro rfl rfl, by decide +kernel, by decide +kernel, by decide +kernel, by decide +kernel, by decide +kernel, by decide +kernel, by decide +kernel⟩,
    ⟨(withCmd (onD (workers (roled 1) [{ id := 2, parent := 0, parentPort := 3, depth := 1, uid := [], sevWait := true }]) fun d => { d with link := { d.link with sevCmd := some (1, 7), sevToken := 1 } }) ({ cmdAt 0x29 2 0x4000 600 [] with phase := .running }) : State), (3 : Nat), ((1, 7)), ({ cmdAt 0x29 2 0x4000 600 [] with phase := .running }), (1), And.intro rfl rfl, by decide +kernel, by decide +kernel, by decide +kernel, by decide +kernel, by decide +kernel⟩⟩

theorem wit_RollUpWatchdogsTwinkle :
    (∃ (s : State) (p : Nat) (x : LinkMsg) (r : List LinkMsg), s.Live ∧ takeMsg p 0x0C s.m.dev.link.inbox = some (x, r) ∧ s.m.dev.boot.role = 1 ∧ s.m.dev.bbx.queue.length < 64) ∧
    (∃ (s : State) (p : Nat) (x : LinkMsg) (r : List LinkMsg), s.Live ∧ takeMsg p 0x0D s.m.dev.link.inbox = some (x, r) ∧ s.m.dev.route 0 = some 0 ∧ (s.m.dev.port 0).state = .held ∧ 0 < s.m.dev.link.ports.length) ∧
    (∃ (s : State) (p : Nat) (x : LinkMsg) (r : List LinkMsg), s.Live ∧ takeMsg p 0x0E s.m.dev.link.inbox = some (x, r) ∧ s.m.dev.bbx.queue.length + 15 ≤ 64) ∧
    (∃ (s : State) (i : _) (t0 : _), s.Live ∧ (s.m.dev.intr.core i).wdogAt = some t0) ∧
    (∃ (s : State) (i : _) (t0 : _), s.Live ∧ (s.m.dev.intr.core i).wdogAt = some t0 ∧ (s.m.dev.intr.core i).warning = false) ∧
    (∃ (s : State) (i : _) (t0 : _), s.Live ∧ (s.m.dev.intr.core i).wdogAt = some t0 ∧ i < 4 ∧ (s.m.dev.intr.core i).expired = false) ∧
    (∃ (s : State), s.Live ∧ s.m.dev.twk.mode ≠ .low ∧ s.m.dev.twk.stopAt = none) ∧
    (∃ (s : State) (r : _), s.Live ∧ s.m.dev.twk.resumeAt = some r ∧ s.m.dev.twinkleCause = false) :=
  ⟨⟨(msgAt (roled 1) 3 0x0C (msg 3 0x0C (zeros 24) : LinkMsg).body : State), (3 : Nat), (msg 3 0x0C (zeros 24) : LinkMsg), ([] : List LinkMsg), And.intro rfl rfl, by decide +kernel, by decide +kernel, by decide +kernel⟩,
    ⟨(msgAt (portAt (roled 2) 0 fun q => { q with state := .held }) 0 0x0D (msg 0 0x0D (zeros 4) : LinkMsg).body : State), (0 : Nat), (msg 0 0x0D (zeros 4) : LinkMsg), ([] : List LinkMsg), And.intro rfl rfl, by decide +kernel, by decide +kernel, by decide +kernel, by decide +kernel⟩,
    ⟨(msgAt (roled 1) 3 0x0E (msg 3 0x0E ([2, 0, 1, 0] ++ List.replicate 120 5) : LinkMsg).body : State), (3 : Nat), (msg 3 0x0E ([2, 0, 1, 0] ++ List.replicate 120 5) : LinkMsg), ([] : List LinkMsg), And.intro rfl rfl, by decide +kernel, by decide +kernel⟩,
    ⟨(onD up fun d => d.onCore 3 fun c => { c with wdogAt := some 0 } : State), (3), (0), And.intro rfl rfl, by decide +kernel⟩,
    ⟨(onD up fun d => d.onCore 3 fun c => { c with wdogAt := some 0 } : State), (3), (0), And.intro rfl rfl, by decide +kernel, by decide +kernel⟩,
    ⟨(onD up fun d => d.onCore 3 fun c => { c with wdogAt := some 0 } : State), (3), (0), And.intro rfl rfl, by decide +kernel, by decide +kernel, by decide +kernel⟩,
    ⟨(onD up fun d => { d with twk := { d.twk with mode := .run, nextEdge := 500 } } : State), And.intro rfl rfl, by decide +kernel, by decide +kernel⟩,
    ⟨(onD up fun d => { d with twk := { d.twk with mode := .run, stopAt := some 3, resumeAt := some 700 } } : State), (700), And.intro rfl rfl, by decide +kernel, by decide +kernel⟩⟩

theorem wit_RelaysAndAlignment :
    (∃ (s : State) (p : Nat) (e : Nat) (v : _), s.Live ∧ s.m.dev.Shape ∧ e < 2 ∧ s.m.dev.boot.role = 2 ∧ v < 2 ^ 32 ∧ bit v 31 = true ∧ s.m.dev.link.enumerated = true ∧ (s.m.dev.port 0).carries = true) ∧
    (∃ (s : State) (p : Nat) (e : Nat) (v : _), s.Live ∧ s.m.dev.Shape ∧ e < 2 ∧ s.m.dev.boot.role = 2 ∧ v < 2 ^ 32 ∧ bit v 31 = false) ∧
    (∃ (s : State) (p : Nat) (e : Nat) (x : _) (r : List LinkMsg) (others : List RelayRate), s.Live ∧ s.m.dev.Shape ∧ e < 2 ∧ takeMsg p 0x0F s.m.dev.link.inbox = some (x, r) ∧ s.m.dev.boot.role = 1 ∧ e = rd x.body 0 1 ∧ others = s.m.dev.link.relays.filter (fun r => !(decide (r.dev = x.src) && decide (r.port = e)))) ∧
    (∃ (s : State) (p : Nat) (e : Nat) (x : _) (r : List LinkMsg) (sq : _) (cid : _) (c : _), s.Live ∧ s.m.dev.Shape ∧ e < 2 ∧ takeMsg p 0x10 s.m.dev.link.inbox = some (x, r) ∧ e = rd x.body 0 1 ∧ rd x.body 1 2 = 0 ∧ s.m.dev.link.relayWait = [(e, sq, cid)] ∧ s.m.dev.cmd sq cid = some c) ∧
    (∃ (s : State) (p : Nat) (e : Nat), s.Live ∧ s.m.dev.Shape ∧ e < 2 ∧ s.m.dev.downPorts.contains p = true ∧ (s.m.dev.port p).state = .up) ∧
    (∃ (s : State) (p : Nat) (e : Nat) (x : _) (r : List LinkMsg), s.Live ∧ s.m.dev.Shape ∧ e < 2 ∧ takeMsg 0 0x100 s.m.dev.link.inbox = some (x, r) ∧ s.m.dev.boot.role = 2 ∧ 0 < s.m.dev.link.ports.length) ∧
    (∃ (s : State) (p : Nat) (e : Nat) (x : _) (r : List LinkMsg), s.Live ∧ s.m.dev.Shape ∧ e < 2 ∧ takeMsg p 0x101 s.m.dev.link.inbox = some (x, r) ∧ s.m.dev.downPorts.contains p = true) ∧
    (∃ (s : State) (p : Nat) (e : Nat) (x : _) (r : List LinkMsg) (off : Int), s.Live ∧ s.m.dev.Shape ∧ e < 2 ∧ takeMsg 0 0x102 s.m.dev.link.inbox = some (x, r) ∧ s.m.dev.boot.role = 2 ∧ off = 10 ^ 9 * ((((s.m.dev.port 0).t2 : Int) - (s.m.dev.port 0).t1) - ((rd x.body 8 8 : Int) - (s.m.dev.port 0).t3)) / 2 ^ 33 - (s.m.dev.reg 0x22 0x18).toInt) :=
  ⟨⟨(portAt (onD (roled 2) fun d => { d with link := { d.link with enumerated := true, id := 3 } }) 0 fun q => { q with state := .up, peerEnum := true } : State), (0 : Nat), (1 : Nat), (0x80001000), And.intro rfl rfl, by unfold Dev.Shape; decide +kernel, by decide +kernel, by decide +kernel, by decide +kernel, by decide +kernel, by decide +kernel, by decide +kernel⟩,
    ⟨(roled 2 : State), (0 : Nat), (1 : Nat), (0x1000), And.intro rfl rfl, by unfold Dev.Shape; decide +kernel, by decide +kernel, by decide +kernel, by decide +kernel, by decide +kernel⟩,
    ⟨(msgAt (roled 1) 3 0x0F (msg 3 0x0F [1, 1, 0, 0, 0x10, 0, 0, 0]).body : State), (3 : Nat), (1 : Nat), (msg 3 0x0F [1, 1, 0, 0, 0x10, 0, 0, 0]), ([] : List LinkMsg), ([] : List RelayRate), And.intro rfl rfl, by unfold Dev.Shape; decide +kernel, by decide +kernel, by decide +kernel, by decide +kernel, by decide +kernel, by decide +kernel⟩,
    ⟨(withCmd (msgAt (onD (roled 2) fun d => { d with link := { d.link with relayWait := [(1, 1, 7)] } }) 0 0x10 (msg 0 0x10 [1, 0, 0, 0, 0x10, 0, 0, 0]).body) ({ cmdAt 0x06 0 0x4000 4 [0x22, 0x400] with phase := .running }) : State), (0 : Nat), (1 : Nat), (msg 0 0x10 [1, 0, 0, 0, 0x10, 0, 0, 0]), ([] : List LinkMsg), (1), (7), ({ cmdAt 0x06 0 0x4000 4 [0x22, 0x400] with phase := .running }), And.intro rfl rfl, by unfold Dev.Shape; decide +kernel, by decide +kernel, by decide +kernel, by decide +kernel, by decide +kernel, by decide +kernel, by decide +kernel⟩,
    ⟨(portAt (roled 1) 3 fun q => { q with state := .up } : State), (3 : Nat), (0 : Nat), And.intro rfl rfl, by unfold Dev.Shape; decide +kernel, by decide +kernel, by decide +kernel, by decide +kernel⟩,
    ⟨(msgAt (roled 2) 0 0x100 (msg 0 0x100 (zeros 8 ++ leBytes 8 50)).body : State), (0 : Nat), (0 : Nat), (msg 0 0x100 (zeros 8 ++ leBytes 8 50)), ([] : List LinkMsg), And.intro rfl rfl, by unfold Dev.Shape; decide +kernel, by decide +kernel, by decide +kernel, by decide +kernel, by decide +kernel⟩,
    ⟨(msgAt (portAt (roled 1) 3 fun q => { q with state := .up }) 3 0x101 (msg 3 0x101 (zeros 8 ++ leBytes 8 50)).body : State), (3 : Nat), (0 : Nat), (msg 3 0x101 (zeros 8 ++ leBytes 8 50)), ([] : List LinkMsg), And.intro rfl rfl, by unfold Dev.Shape; decide +kernel, by decide +kernel, by decide +kernel, by decide +kernel⟩,
    ⟨(msgAt (portAt (roled 2) 0 fun q => { q with t1 := 50, t2 := 60, t3 := 70 }) 0 0x102 (msg 0 0x102 (zeros 8 ++ leBytes 8 90)).body : State), (0 : Nat), (0 : Nat), (msg 0 0x102 (zeros 8 ++ leBytes 8 90)), ([] : List LinkMsg), (10 ^ 9 * (((((msgAt (portAt (roled 2) 0 fun q => { q with t1 := 50, t2 := 60, t3 := 70 }) 0 0x102 (msg 0 0x102 (zeros 8 ++ leBytes 8 90)).body : State).m.dev.port 0).t2 : Int) - ((msgAt (portAt (roled 2) 0 fun q => { q with t1 := 50, t2 := 60, t3 := 70 }) 0 0x102 (msg 0 0x102 (zeros 8 ++ leBytes 8 90)).body : State).m.dev.port 0).t1) - ((rd (msg 0 0x102 (zeros 8 ++ leBytes 8 90)).body 8 8 : Int) - ((msgAt (portAt (roled 2) 0 fun q => { q with t1 := 50, t2 := 60, t3 := 70 }) 0 0x102 (msg 0 0x102 (zeros 8 ++ leBytes 8 90)).body : State).m.dev.port 0).t3)) / 2 ^ 33 - ((msgAt (portAt (roled 2) 0 fun q => { q with t1 := 50, t2 := 60, t3 := 70 }) 0 0x102 (msg 0 0x102 (zeros 8 ++ leBytes 8 90)).body : State).m.dev.reg 0x22 0x18).toInt : Int), And.intro rfl rfl, by unfold Dev.Shape; decide +kernel, by decide +kernel, by decide +kernel, by decide +kernel, by decide +kernel⟩⟩

theorem wit_Interrupts :
    (∃ (s : State) (id : _), s.Live ∧ s.m.dev.intr.cores.length = 4 ∧ idAssigned id = true ∧ idEvent id = true ∧ s.m.dev.intr.en id = true) ∧
    (∃ (s : State) (id : _), s.Live ∧ s.m.dev.intr.cores.length = 4 ∧ idAssigned id = true ∧ idEvent id = false ∧ id < 604 ∧ s.m.dev.intr.sense id = 0 ∧ id ∉ s.m.dev.intr.asserted) ∧
    (∃ (s : State) (core : _) (id : _), s.Live ∧ s.m.dev.intr.cores.length = 4 ∧ core < 4 ∧ (s.m.dev.intr.core core).powered = true ∧ (s.m.dev.intr.core core).awake = true ∧ s.m.dev.intr.best core = some id) ∧
    (∃ (s : State) (core : _), s.Live ∧ s.m.dev.intr.cores.length = 4 ∧ core < 4 ∧ (s.m.dev.intr.core core).powered = true ∧ (s.m.dev.intr.core core).awake = true ∧ s.m.dev.intr.best core = none) ∧
    (∃ (s : State) (core : _), s.Live ∧ s.m.dev.intr.cores.length = 4 ∧ core < 4) ∧
    (∃ (s : State) (id : _) (v : _), s.Live ∧ s.m.dev.intr.cores.length = 4 ∧ id < 1008 ∧ idAssigned id = true ∧ v < 2 ^ 16 ∧ bit v 14 = false) ∧
    (∃ (s : State) (i : _), s.Live ∧ s.m.dev.intr.cores.length = 4 ∧ i < 4 ∧ (s.m.dev.intr.core i).powered = true ∧ s.m.dev.intr.pending = [] ∧ ((∀ e ∈ s.m.dev.levels, e.2 = true → e.1 ∈ s.m.dev.intr.asserted))) :=
  ⟨⟨(onD up fun d => { d with intr := { d.intr with setting := [(559, 0x8000)] } } : State), (559), And.intro rfl rfl, by decide +kernel, by decide +kernel, by decide +kernel, by decide +kernel⟩,
    ⟨(up : State), (560), And.intro rfl rfl, by decide +kernel, by decide +kernel, by decide +kernel, by decide +kernel, by decide +kernel, by decide +kernel⟩,
    ⟨(onD up fun d => { (d.onCore 3 fun c => { c with powered := true, awake := true }) with intr := { ((d.onCore 3 fun c => { c with powered := true, awake := true }).intr) with setting := [(16, 0x88FF)], pending := [16], offers := [(16, 3)] } } : State), (3), (16), And.intro rfl rfl, by decide +kernel, by decide +kernel, by decide +kernel, by decide +kernel, by decide +kernel⟩,
    ⟨(onD up fun d => d.onCore 3 fun c => { c with powered := true, awake := true } : State), (3), And.intro rfl rfl, by decide +kernel, by decide +kernel, by decide +kernel, by decide +kernel, by decide +kernel⟩,
    ⟨(onD up fun d => { d with intr := { d.intr with active := [(16, 3)] } } : State), (3), And.intro rfl rfl, by decide +kernel, by decide +kernel⟩,
    ⟨(up : State), (611), (0xBFFF), And.intro rfl rfl, by decide +kernel, by decide +kernel, by decide +kernel, by decide +kernel, by decide +kernel⟩,
    ⟨(onD up fun d => d.onCore 3 fun c => { c with powered := true, awake := true, wdogAt := some 0 } : State), (3), And.intro rfl rfl, by decide +kernel, by decide +kernel, by decide +kernel, by decide +kernel, by decide +kernel⟩⟩

theorem wit_Recorder :
    (∃ (s : State) (e : BbxItem) (r : List BbxItem) (x : _) (no : _), s.Live ∧ s.m.dev.bbx.queue = e :: r ∧ s.m.dev.bbx.place e.region = some (x, no) ∧ s.m.dev.bbx.lostSince = 0) ∧
    (∃ (s : State) (sq : _) (cid : _) (c : _) (srcs : _), s.Runs sq cid 0x20 c ∧ ((c.target < 600 ∧ srcs = [c.target] ∨ c.target = 0xFFFFFFFF ∧ srcs = List.range 600))) ∧
    (∃ (s : State) (sq : _) (cid : _) (c : _) (data : _), s.Runs sq cid 0x22 c ∧ c.dw 0 % 8 ≠ 0 ∧ 193 ≤ c.dataLen ∧ s.m.mem.dataOk c 193 = true ∧ s.m.mem.dataIn c 193 = data) :=
  ⟨⟨(onD up fun d => { d with bbx := { d.bbx with queue := [({ region := .first, body := List.replicate 56 3 } : BbxItem)], firstNo := 255, readyAt := 50 } } : State), ({ region := .first, body := List.replicate 56 3 } : BbxItem), ([] : List BbxItem), (319), (255), And.intro rfl rfl, by decide +kernel, by decide +kernel, by decide +kernel⟩,
    ⟨(withCmd (onD up fun d => { d with flt := { d.flt with status := BitVec.allOnes 600 } }) (cmdAt 0x20 0xFFFFFFFF 0 0 []) : State), (1), (7), (cmdAt 0x20 0xFFFFFFFF 0 0 []), (List.range 600), And.intro (And.intro rfl rfl) (And.intro rfl (And.intro rfl rfl)), by decide +kernel⟩,
    ⟨(withCmd up (cmdAt 0x22 0 0x4000 193 [7]) : State), (1), (7), (cmdAt 0x22 0 0x4000 193 [7]), ((withCmd up (cmdAt 0x22 0 0x4000 193 [7]) : State).m.mem.dataIn (cmdAt 0x22 0 0x4000 193 [7]) 193), And.intro (And.intro rfl rfl) (And.intro rfl (And.intro rfl rfl)), by decide +kernel, by decide +kernel, by decide +kernel, by decide +kernel⟩⟩

theorem wit_BufferPools :
    (∃ (s : State) (size : _) (cls : _) (dests : _) (p : _), s.Live ∧ s.m.dev.pools.ready = true ∧ s.m.dev.pools.pool.length = 4 ∧ cls < 4 ∧ dests ≤ 8 ∧ poolFor size = some p) ∧
    (∃ (s : State) (ptr : _) (p : _) (i : _), s.Live ∧ s.m.dev.pools.ready = true ∧ s.m.dev.pools.pool.length = 4 ∧ s.m.dev.bufAt ptr = some (p, i)) ∧
    (∃ (s : State), s.Live ∧ s.m.dev.pools.ready = true ∧ s.m.dev.pools.pool.length = 4) ∧
    (∃ (s : State) (sq : _) (cid : _) (c : _) (p : _) (i : _) (b : Buf), s.Live ∧ s.m.dev.pools.ready = true ∧ s.m.dev.pools.pool.length = 4 ∧ s.Runs sq cid 0x69 c ∧ ((sq ≠ 0 ∨ cid ∉ s.m.dev.host.aer)) ∧ c.target ≤ 16383 ∧ s.m.dev.bufAt (c.dw64 0) = some (p, i) ∧ s.m.dev.buf p i = some b) :=
  ⟨⟨(pooled up : State), (1048576), (3), (8), (3), And.intro rfl rfl, by decide +kernel, by decide +kernel, by decide +kernel, by decide +kernel, by decide +kernel⟩,
    ⟨(onD (pooled up) fun d => d.setBuf 2 1 (some { owner := 9, cls := 0, refs := 1 }) : State), (0x80010000), (2), (1), And.intro rfl rfl, by decide +kernel, by decide +kernel, by decide +kernel⟩,
    ⟨(pooled up : State), And.intro rfl rfl, by decide +kernel, by decide +kernel⟩,
    ⟨(withCmd (onD (pooled up) fun d => d.setBuf 2 1 (some ({ owner := 16383, cls := 0, refs := 1 } : Buf))) (cmdAt 0x69 16383 0 0 [0x80010000, 0]) : State), (1), (7), (cmdAt 0x69 16383 0 0 [0x80010000, 0]), (2), (1), ({ owner := 16383, cls := 0, refs := 1 } : Buf), And.intro rfl rfl, by decide +kernel, by decide +kernel, And.intro (And.intro rfl rfl) (And.intro rfl (And.intro rfl rfl)), by decide +kernel, by decide +kernel, by decide +kernel, by decide +kernel⟩⟩

theorem wit_FabricCells :
    (∃ (s : State) (c : FabCell) (dom : _), s.Live ∧ s.m.dev.Shape ∧ ((∀ k, k < 8 → bit (s.m.dev.mirCfg k).toNat 31 = false)) ∧ c.seg = none ∧ c.legal = true ∧ ((c.input < 32 ∨ 36 ≤ c.input)) ∧ 32 ≤ c.output ∧ portDomain c.output = some dom ∧ s.m.dev.powered dom = true ∧ s.m.dev.quiescing dom = false ∧ s.m.dev.fab.waiting = [] ∧ Tbl.get (fun _ => 0) s.m.dev.fab.seqIn c.key = Tbl.get (fun _ => 0) s.m.dev.fab.seqOut c.key) ∧
    (∃ (s : State) (c : FabCell) (dom : _), s.Live ∧ s.m.dev.Shape ∧ ((∀ k, k < 8 → bit (s.m.dev.mirCfg k).toNat 31 = false)) ∧ c.seg = none ∧ c.legal = true ∧ ((c.input < 32 ∨ 36 ≤ c.input)) ∧ 32 ≤ c.output ∧ portDomain c.output = some dom ∧ s.m.dev.powered dom = true ∧ s.m.dev.quiescing dom = false) ∧
    (∃ (s : State) (input : _) (output : _) (cls : _) (w : SeqCell), s.Live ∧ s.m.dev.Shape ∧ ((∀ k, k < 8 → bit (s.m.dev.mirCfg k).toNat 31 = false)) ∧ s.m.dev.fab.lost.find? (fun w => decide (w.cell.key = (128 * input + output) * 4 + cls) && decide (w.seq = Tbl.get (fun _ => 0) s.m.dev.fab.seqOut ((128 * input + output) * 4 + cls))) = some w ∧ w.cell.seg = none ∧ s.m.dev.fab.waiting = []) ∧
    (∃ (s : State) (q : _), s.Live ∧ s.m.dev.Shape ∧ ((∀ k, k < 8 → bit (s.m.dev.mirCfg k).toNat 31 = false)) ∧ q < 64 ∧ (q, 1) ∈ s.m.dev.fab.pcieQ) :=
  ⟨⟨(up : State), ({ input := 118, output := 36, cls := 3, owner := 9, addr := 0, write := true, bytes := List.replicate 256 7 } : FabCell), (0), And.intro rfl rfl, by unfold Dev.Shape; decide +kernel, by decide +kernel, by decide +kernel, by decide +kernel, by decide +kernel, by decide +kernel, by decide +kernel, by decide +kernel, by decide +kernel, by decide +kernel, by decide +kernel⟩,
    ⟨(up : State), ({ input := 118, output := 36, cls := 3, owner := 9, addr := 0, write := true, bytes := List.replicate 256 7 } : FabCell), (0), And.intro rfl rfl, by unfold Dev.Shape; decide +kernel, by decide +kernel, by decide +kernel, by decide +kernel, by decide +kernel, by decide +kernel, by decide +kernel, by decide +kernel, by decide +kernel⟩,
    ⟨(onD up fun d => { d with fab := { d.fab with lost := [({ cell := { input := 118, output := 36, cls := 3, owner := 9, addr := 0, write := true, bytes := [7] }, seq := 0 } : SeqCell)] } } : State), (118), (36), (3), ({ cell := { input := 118, output := 36, cls := 3, owner := 9, addr := 0, write := true, bytes := [7] }, seq := 0 } : SeqCell), And.intro rfl rfl, by unfold Dev.Shape; decide +kernel, by decide +kernel, by decide +kernel, by decide +kernel, by decide +kernel⟩,
    ⟨(onD up fun d => { d with fab := { d.fab with pcieQ := [(63, 1)] } } : State), (63), And.intro rfl rfl, by unfold Dev.Shape; decide +kernel, by decide +kernel, by decide +kernel, by decide +kernel⟩⟩

theorem wit_SlvsInput :
    (∃ (s : State) (i : _) (block : BitVec 34), s.Live ∧ s.m.dev.Shape ∧ s.m.dev.prmMode = 1 ∧ s.m.dev.prism.lanes.length = 64 ∧ s.m.dev.prism.groups.length = 4 ∧ s.m.dev.laneOn i = true ∧ (block.toNat % 4 = 0 ∨ block.toNat % 4 = 3)) ∧
    (∃ (s : State) (i : _) (block : BitVec 34), s.Live ∧ s.m.dev.Shape ∧ s.m.dev.prmMode = 1 ∧ s.m.dev.prism.lanes.length = 64 ∧ s.m.dev.prism.groups.length = 4 ∧ s.m.dev.laneOn i = true ∧ block.toNat % 4 = 1 ∧ (s.m.dev.lane i).locked = false) ∧
    (∃ (s : State) (i : _) (block : BitVec 34), s.Live ∧ s.m.dev.Shape ∧ s.m.dev.prmMode = 1 ∧ s.m.dev.prism.lanes.length = 64 ∧ s.m.dev.prism.groups.length = 4 ∧ s.m.dev.laneOn i = true ∧ block.toNat % 4 = 1 ∧ (s.m.dev.lane i).locked = true ∧ ((s.m.dev.lane i).seen.filter (fun v => !v)).length < 16) ∧
    (∃ (s : State) (g : _) (x : GroupMsg) (r : List GroupMsg), s.Live ∧ s.m.dev.Shape ∧ s.m.dev.prmMode = 1 ∧ s.m.dev.prism.lanes.length = 64 ∧ s.m.dev.prism.groups.length = 4 ∧ g < 4 ∧ (s.m.dev.group g).inbox = x :: r ∧ x.code = 0x33 ∧ (s.m.dev.source g 0).sof = false) ∧
    (∃ (s : State) (g : _) (x : GroupMsg) (r : List GroupMsg), s.Live ∧ s.m.dev.Shape ∧ s.m.dev.prmMode = 1 ∧ s.m.dev.prism.lanes.length = 64 ∧ s.m.dev.prism.groups.length = 4 ∧ g < 4 ∧ (s.m.dev.group g).inbox = x :: r ∧ x.code = 0x33 ∧ (s.m.dev.source g 0).sof = true) ∧
    (∃ (s : State) (g : _) (x : GroupMsg) (r : List GroupMsg), s.Live ∧ s.m.dev.Shape ∧ s.m.dev.prmMode = 1 ∧ s.m.dev.prism.lanes.length = 64 ∧ s.m.dev.prism.groups.length = 4 ∧ g < 4 ∧ (s.m.dev.group g).inbox = x :: r ∧ x.code = 0x4B ∧ s.m.dev.rowFate g 0 (x.args.getD 0 0 % 2 ^ 14) = .taken) ∧
    (∃ (s : State) (g : _) (x : GroupMsg) (r : List GroupMsg), s.Live ∧ s.m.dev.Shape ∧ s.m.dev.prmMode = 1 ∧ s.m.dev.prism.lanes.length = 64 ∧ s.m.dev.prism.groups.length = 4 ∧ g < 4 ∧ (s.m.dev.group g).inbox = x :: r ∧ x.code = 0x4B ∧ s.m.dev.rowFate g 0 (x.args.getD 0 0 % 2 ^ 14) = .extra) ∧
    (∃ (s : State) (g : _) (x : GroupMsg) (r : List GroupMsg) (y : _), s.Live ∧ s.m.dev.Shape ∧ s.m.dev.prmMode = 1 ∧ s.m.dev.prism.lanes.length = 64 ∧ s.m.dev.prism.groups.length = 4 ∧ g < 4 ∧ (s.m.dev.group g).inbox = x :: r ∧ x.code = 0x55 ∧ (s.m.dev.source g 0).line = some y ∧ (s.m.dev.source g 0).open_ = true ∧ (List.zipWith (fun a l => decide (a % 65536 = crc16 l)) x.args x.data).all id = false) ∧
    (∃ (s : State) (g : _) (x : GroupMsg) (r : List GroupMsg) (y : _) (n : _) (c : _) (w : _) (photos : _), s.Live ∧ s.m.dev.Shape ∧ s.m.dev.prmMode = 1 ∧ s.m.dev.prism.lanes.length = 64 ∧ s.m.dev.prism.groups.length = 4 ∧ g < 4 ∧ (s.m.dev.group g).inbox = x :: r ∧ x.code = 0x55 ∧ (s.m.dev.source g 0).line = some y ∧ (s.m.dev.source g 0).open_ = true ∧ (List.zipWith (fun a l => decide (a % 65536 = crc16 l)) x.args x.data).all id = true ∧ (∀ l ∈ x.data, l.length = (x.data.getD 0 []).length) ∧ photos = lanePhotos (s.m.dev.inFmt g).2 x.data ∧ s.m.dev.tooShort g 0 y photos.length = false ∧ s.m.dev.openOn g 0 = [(n, c, w)] ∧ c.top ≤ y ∧ y < c.top + c.height ∧ w.row 0 (y - c.top) = .absent) ∧
    (∃ (s : State) (g : _) (x : GroupMsg) (r : List GroupMsg), s.Live ∧ s.m.dev.Shape ∧ s.m.dev.prmMode = 1 ∧ s.m.dev.prism.lanes.length = 64 ∧ s.m.dev.prism.groups.length = 4 ∧ g < 4 ∧ (s.m.dev.group g).inbox = x :: r ∧ x.code = 0x66 ∧ (s.m.dev.source g 0).sof = true) :=
  ⟨⟨(slvs : State), (63), (3 : BitVec 34), And.intro rfl rfl, by unfold Dev.Shape; decide +kernel, by decide +kernel, by decide +kernel, by decide +kernel, by decide +kernel, by decide +kernel⟩,
    ⟨(slvs : State), (63), (1 : BitVec 34), And.intro rfl rfl, by unfold Dev.Shape; decide +kernel, by decide +kernel, by decide +kernel, by decide +kernel, by decide +kernel, by decide +kernel, by decide +kernel⟩,
    ⟨(onD slvs fun d => d.onLane 63 fun l => { l with locked := true, seen := List.replicate 15 false } : State), (63), (1 : BitVec 34), And.intro rfl rfl, by unfold Dev.Shape; decide +kernel, by decide +kernel, by decide +kernel, by decide +kernel, by decide +kernel, by decide +kernel, by decide +kernel, by decide +kernel⟩,
    ⟨(groupAt slvs ({ code := 0x33, args := [9], data := [] } : GroupMsg) : State), (0), ({ code := 0x33, args := [9], data := [] } : GroupMsg), ([] : List GroupMsg), And.intro rfl rfl, by unfold Dev.Shape; decide +kernel, by decide +kernel, by decide +kernel, by decide +kernel, by decide +kernel, by decide +kernel, by decide +kernel, by decide +kernel⟩,
    ⟨(onD (groupAt slvs ({ code := 0x33, args := [9], data := [] } : GroupMsg)) fun d => d.modSource 0 0 fun y => { y with sof := true } : State), (0), ({ code := 0x33, args := [9], data := [] } : GroupMsg), ([] : List GroupMsg), And.intro rfl rfl, by unfold Dev.Shape; decide +kernel, by decide +kernel, by decide +kernel, by decide +kernel, by decide +kernel, by decide +kernel, by decide +kernel, by decide +kernel⟩,
    ⟨(onD (capAt (groupAt slvs ({ code := 0x4B, args := [15], data := [] } : GroupMsg)) (cap0 (work0 (List.replicate 16 .absent)))) fun d => d.modSource 0 0 fun y => { y with sof := true, open_ := true } : State), (0), ({ code := 0x4B, args := [15], data := [] } : GroupMsg), ([] : List GroupMsg), And.intro rfl rfl, by unfold Dev.Shape; decide +kernel, by decide +kernel, by decide +kernel, by decide +kernel, by decide +kernel, by decide +kernel, by decide +kernel, by decide +kernel⟩,
    ⟨(onD (capAt (groupAt slvs ({ code := 0x4B, args := [16], data := [] } : GroupMsg)) (cap0 (work0 (List.replicate 16 .absent)))) fun d => d.modSource 0 0 fun y => { y with sof := true, open_ := true } : State), (0), ({ code := 0x4B, args := [16], data := [] } : GroupMsg), ([] : List GroupMsg), And.intro rfl rfl, by unfold Dev.Shape; decide +kernel, by decide +kernel, by decide +kernel, by decide +kernel, by decide +kernel, by decide +kernel, by decide +kernel, by decide +kernel⟩,
    ⟨(onD (pooled (capAt (groupAt slvs ({ code := 0x55, args := [1], data := [[0, 0]] } : GroupMsg)) (cap0 (work0 (List.replicate 16 .absent))))) fun d => d.modSource 0 0 fun y => { y with sof := true, open_ := true, line := some 15 } : State), (0), ({ code := 0x55, args := [1], data := [[0, 0]] } : GroupMsg), ([] : List GroupMsg), (15), And.intro rfl rfl, by unfold Dev.Shape; decide +kernel, by decide +kernel, by decide +kernel, by decide +kernel, by decide +kernel, by decide +kernel, by decide +kernel, by decide +kernel, by decide +kernel, by decide +kernel⟩,
    ⟨(onD (pooled (regAt (capAt (groupAt slvs ({ code := 0x55, args := [crc16 (List.replicate 96 0)], data := [List.replicate 96 0] } : GroupMsg)) (cap0 (work0 (List.replicate 16 .absent)))) 0x10 0x020 0x10C)) fun d => d.modSource 0 0 fun y => { y with sof := true, open_ := true, line := some 15 } : State), (0), ({ code := 0x55, args := [crc16 (List.replicate 96 0)], data := [List.replicate 96 0] } : GroupMsg), ([] : List GroupMsg), (15), (0), (cap0 (work0 (List.replicate 16 .absent))), (work0 (List.replicate 16 .absent)), (List.replicate 64 0), And.intro rfl rfl, by unfold Dev.Shape; decide +kernel, by decide +kernel, by decide +kernel, by decide +kernel, by decide +kernel, by decide +kernel, by decide +kernel, by decide +kernel, by decide +kernel, by decide +kernel, by decide +kernel, by decide +kernel, by decide +kernel, by decide +kernel, by decide +kernel, by decide +kernel, by decide +kernel⟩,
    ⟨(onD (groupAt slvs ({ code := 0x66, args := [9], data := [] } : GroupMsg)) fun d => d.modSource 0 0 fun y => { y with sof := true, open_ := true } : State), (0), ({ code := 0x66, args := [9], data := [] } : GroupMsg), ([] : List GroupMsg), And.intro rfl rfl, by unfold Dev.Shape; decide +kernel, by decide +kernel, by decide +kernel, by decide +kernel, by decide +kernel, by decide +kernel, by decide +kernel, by decide +kernel⟩⟩

theorem wit_Csi2AndStaging :
    (∃ (s : State) (g : _) (vc : _), s.Live ∧ s.m.dev.Shape ∧ s.m.dev.csiOn g vc = true ∧ (s.m.dev.source g vc).sof = false) ∧
    (∃ (s : State) (g : _) (vc : _), s.Live ∧ s.m.dev.Shape ∧ s.m.dev.csiOn g vc = true ∧ (s.m.dev.source g vc).sof = true) ∧
    (∃ (s : State) (g : _) (vc : _), s.Live ∧ s.m.dev.Shape ∧ s.m.dev.csiOn g vc = true) ∧
    (∃ (s : State) (g : _) (vc : _) (dt : _), s.Live ∧ s.m.dev.Shape ∧ s.m.dev.csiOn g vc = true ∧ csiLong dt = false) ∧
    (∃ (s : State) (g : _) (vc : _) (dt : _) (payload : List Byte) (photos : _) (n : _) (c : _) (w : _), s.Live ∧ s.m.dev.Shape ∧ s.m.dev.csiOn g vc = true ∧ csiLong dt = true ∧ dt ≠ 0x12 ∧ csiPhotos (s.m.dev.inFmt g).1 (s.m.dev.inFmt g).2 dt payload = some photos ∧ s.m.dev.rowFate g vc (s.m.dev.source g vc).rows = .taken ∧ s.m.dev.openOn g vc = [(n, c, w)] ∧ s.m.dev.tooShort g vc (s.m.dev.source g vc).rows photos.length = false ∧ c.top ≤ (s.m.dev.source g vc).rows ∧ w.row 0 ((s.m.dev.source g vc).rows - c.top) = .absent) ∧
    (∃ (s : State) (g : _) (vc : _), s.Live ∧ s.m.dev.Shape ∧ s.m.dev.csiOn g vc = true ∧ (s.m.dev.source g vc).sof = true) ∧
    (∃ (s : State) (g : Segment) (r : List Segment) (p : _), s.Live ∧ s.m.dev.Shape ∧ s.m.dev.prism.segs = g :: r ∧ s.m.dev.segPort g = p ∧ p < s.m.dev.prism.fifos.length ∧ s.m.dev.prism.level p + g.bytes.length ≤ 262144) ∧
    (∃ (s : State) (g : Segment) (r : List Segment) (p : _), s.Live ∧ s.m.dev.Shape ∧ s.m.dev.prism.segs = g :: r ∧ s.m.dev.segPort g = p ∧ p < s.m.dev.prism.fifos.length ∧ 262144 < s.m.dev.prism.level p + g.bytes.length) :=
  ⟨⟨(csi : State), (3), (31), And.intro rfl rfl, by unfold Dev.Shape; decide +kernel, by decide +kernel, by decide +kernel⟩,
    ⟨(onD csi fun d => d.modSource 3 31 fun y => { y with sof := true, open_ := true } : State), (3), (31), And.intro rfl rfl, by unfold Dev.Shape; decide +kernel, by decide +kernel, by decide +kernel⟩,
    ⟨(csi : State), (3), (31), And.intro rfl rfl, by unfold Dev.Shape; decide +kernel, by decide +kernel⟩,
    ⟨(csi : State), (3), (31), (0x10), And.intro rfl rfl, by unfold Dev.Shape; decide +kernel, by decide +kernel, by decide +kernel⟩,
    ⟨(onD (pooled (regAt (capAt csi (cap0 (work0 (List.replicate 16 .absent)))) 0x10 0x020 0x10C)) fun d => d.modSource 0 0 fun y => { y with sof := true, open_ := true, rows := 15 } : State), (0), (0), (0x2C), (zeros 96 : List Byte), (List.replicate 64 0), (0), (cap0 (work0 (List.replicate 16 .absent))), (work0 (List.replicate 16 .absent)), And.intro rfl rfl, by unfold Dev.Shape; decide +kernel, by decide +kernel, by decide +kernel, by decide +kernel, by decide +kernel, by decide +kernel, by decide +kernel, by decide +kernel, by decide +kernel, by decide +kernel⟩,
    ⟨(onD csi fun d => d.modSource 3 31 fun y => { y with sof := true, open_ := true } : State), (3), (31), And.intro rfl rfl, by unfold Dev.Shape; decide +kernel, by decide +kernel, by decide +kernel⟩,
    ⟨(onD (capAt (pooled up) (cap0 (work0 (List.replicate 16 (.coming 1))))) fun d => { d with prism := { d.prism with segs := [({ stream := 0, frame := 5, tile := 0, row := 0, bytes := zeros 128 } : Segment)] } } : State), ({ stream := 0, frame := 5, tile := 0, row := 0, bytes := zeros 128 } : Segment), ([] : List Segment), (0), And.intro rfl rfl, by unfold Dev.Shape; decide +kernel, by decide +kernel, by decide +kernel, by decide +kernel, by decide +kernel⟩,
    ⟨(onD (capAt (pooled up) (cap0 (work0 (List.replicate 16 (.coming 1))))) fun d => { d with prism := { d.prism with segs := [({ stream := 0, frame := 5, tile := 0, row := 0, bytes := zeros 1 } : Segment)], fifos := [[{ ({ stream := 0, frame := 5, tile := 0, row := 0, bytes := zeros 1 } : Segment) with bytes := zeros 262144 }], [], [], []] } } : State), ({ stream := 0, frame := 5, tile := 0, row := 0, bytes := zeros 1 } : Segment), ([] : List Segment), (0), And.intro rfl rfl, by unfold Dev.Shape; decide +kernel, by decide +kernel, by decide +kernel, by decide +kernel, by rw [level_full _ _ 262144 rfl rfl List.length_replicate]; decide⟩⟩

theorem wit_Attempts :
    (∃ (s : State) (e : Nat) (r : _) (w : _) (b : Band), s.Live ∧ s.m.dev.Shape ∧ (s.m.dev.pix e).job = none ∧ (s.m.dev.pix e).fault = none ∧ s.m.dev.takesWork (e / 4) = true ∧ s.m.dev.nextAttempt e = some r ∧ s.m.dev.bandOf r = some (w, b) ∧ (w.tile r.tile).engine = e ∧ e < s.m.dev.codec.pxe.length ∧ b.asked = false ∧ s.m.dev.policy r.stream = false) ∧
    (∃ (s : State) (e : Nat) (r : _) (w : _) (b : Band) (f : Formed), s.Live ∧ s.m.dev.Shape ∧ (s.m.dev.pix e).job = some r ∧ (s.m.dev.pix e).fault = none ∧ s.m.dev.bandOf r = some (w, b) ∧ b.formed = some f ∧ f.wordCount ≤ 16383 ∧ (s.m.dev.pix e).written = f.wordCount) ∧
    (∃ (s : State) (e : Nat) (r : _) (w : _) (b : Band) (f : Formed), s.Live ∧ s.m.dev.Shape ∧ (s.m.dev.pix e).job = some r ∧ (s.m.dev.pix e).fault = none ∧ s.m.dev.bandOf r = some (w, b) ∧ b.formed = some f ∧ 16383 < f.wordCount ∧ (s.m.dev.pix e).written = 16383) ∧
    (∃ (s : State) (e : Nat) (r : _) (w : _) (b : Band), s.Live ∧ s.m.dev.Shape ∧ (s.m.dev.pix e).job = some r ∧ s.m.dev.bandOf r = some (w, b)) ∧
    (∃ (s : State) (e : Nat) (r : _) (w : _) (b : Band) (f : Formed), s.Live ∧ s.m.dev.Shape ∧ (s.m.dev.entE e).job = some r ∧ (s.m.dev.entE e).pass = .measure ∧ (s.m.dev.entE e).fault = none ∧ s.m.dev.bandOf r = some (w, b) ∧ b.formed = some f ∧ s.m.dev.policy r.stream = false) :=
  ⟨⟨(bandAt up ({ rows := List.replicate 16 .whole } : Band) : State), (0 : Nat), (ref0), (workOf ({ rows := List.replicate 16 .whole } : Band)), ({ rows := List.replicate 16 .whole } : Band), And.intro rfl rfl, by unfold Dev.Shape; decide +kernel, by decide +kernel, by decide +kernel, by decide +kernel, by decide +kernel, by decide +kernel, by decide +kernel, by decide +kernel, by decide +kernel, by decide +kernel⟩,
    ⟨(onD (bandAt up ({ rows := List.replicate 16 .whole, phase := .forming, formed := some {} } : Band)) fun d => d.onPix 0 fun x => { x with job := some ref0, written := 1 } : State), (0 : Nat), (ref0), (workOf ({ rows := List.replicate 16 .whole, phase := .forming, formed := some {} } : Band)), ({ rows := List.replicate 16 .whole, phase := .forming, formed := some {} } : Band), ({} : Formed), And.intro rfl rfl, by unfold Dev.Shape; decide +kernel, by decide +kernel, by decide +kernel, by decide +kernel, by decide +kernel, by decide +kernel, by decide +kernel⟩,
    ⟨(onD (bandAt up ({ rows := List.replicate 16 .whole, phase := .forming, formed := some ({ syms := [{ ctx := 0, cls := 1048508, suf := 0 }] } : Formed) } : Band)) fun d => d.onPix 0 fun x => { x with job := some ref0, written := 16383 } : State), (0 : Nat), (ref0), (workOf ({ rows := List.replicate 16 .whole, phase := .forming, formed := some ({ syms := [{ ctx := 0, cls := 1048508, suf := 0 }] } : Formed) } : Band)), ({ rows := List.replicate 16 .whole, phase := .forming, formed := some ({ syms := [{ ctx := 0, cls := 1048508, suf := 0 }] } : Formed) } : Band), ({ syms := [{ ctx := 0, cls := 1048508, suf := 0 }] } : Formed), And.intro rfl rfl, by unfold Dev.Shape; decide +kernel, by decide +kernel, by decide +kernel, by decide +kernel, by decide +kernel, by decide +kernel, by decide +kernel⟩,
    ⟨(onD (bandAt up ({ rows := List.replicate 16 .whole, phase := .forming, formed := some {} } : Band)) fun d => d.onPix 0 fun x => { x with job := some ref0 } : State), (0 : Nat), (ref0), (workOf ({ rows := List.replicate 16 .whole, phase := .forming, formed := some {} } : Band)), ({ rows := List.replicate 16 .whole, phase := .forming, formed := some {} } : Band), And.intro rfl rfl, by unfold Dev.Shape; decide +kernel, by decide +kernel, by decide +kernel⟩,
    ⟨(onD (bandAt up ({ rows := List.replicate 16 .whole, phase := .measuring, formed := some {} } : Band)) fun d => d.onEnt 0 fun x => { x with job := some ref0, pass := .measure } : State), (0 : Nat), (ref0), (workOf ({ rows := List.replicate 16 .whole, phase := .measuring, formed := some {} } : Band)), ({ rows := List.replicate 16 .whole, phase := .measuring, formed := some {} } : Band), ({} : Formed), And.intro rfl rfl, by unfold Dev.Shape; decide +kernel, by decide +kernel, by decide +kernel, by decide +kernel, by decide +kernel, by decide +kernel, by decide +kernel⟩⟩

theorem wit_CodingPasses :
    (∃ (s : State) (e : Nat) (r : BandRef) (w : Work) (b : Band) (f : Formed) (sec : _) (rans : _), s.Live ∧ s.m.dev.bandOf r = some (w, b) ∧ (s.m.dev.entE e).job = some r ∧ (s.m.dev.entE e).fault = none ∧ (s.m.dev.entE e).pass = .code ∧ b.formed = some f ∧ f.sections (if b.flat then flatTables else w.tables.getD flatTables) = some sec ∧ ransBytes (if b.flat then flatTables else w.tables.getD flatTables) f.syms = some rans) ∧
    (∃ (s : State) (e : Nat) (r : BandRef) (w : Work) (b : Band), s.Live ∧ s.m.dev.bandOf r = some (w, b) ∧ (s.m.dev.entE e).job = none ∧ (s.m.dev.entE e).fault = none ∧ s.m.dev.takesWork (e / 4) = true ∧ e < s.m.dev.codec.ent.length ∧ s.m.dev.nextPass e = some r ∧ (w.tile r.tile).engine = e ∧ b.phase = .eclipseWait ∧ b.asked = false ∧ ((b.pass = 2 ∨ b.pass = 0 ∧ b.depthSet = true))) ∧
    (∃ (s : State) (e : Nat) (r : BandRef) (w : Work) (b : Band), s.Live ∧ s.m.dev.bandOf r = some (w, b) ∧ (s.m.dev.entE e).job = some r ∧ (s.m.dev.entE e).fault = none ∧ (s.m.dev.entE e).pass = .eclipse) :=
  ⟨⟨(onD (bandAt up ({ rows := List.replicate 16 .whole, phase := .coding, formed := some {}, flat := true } : Band)) fun d => d.onEnt 0 fun x => { x with job := some ref0, pass := .code } : State), (0 : Nat), (ref0 : BandRef), (workOf ({ rows := List.replicate 16 .whole, phase := .coding, formed := some {}, flat := true } : Band) : Work), ({ rows := List.replicate 16 .whole, phase := .coding, formed := some {}, flat := true } : Band), ({} : Formed), ((({} : Formed).sections flatTables).getD { side := [], data := [], suffix := [] }), ((ransBytes flatTables []).getD []), And.intro rfl rfl, by decide +kernel, by decide +kernel, by decide +kernel, by decide +kernel, by decide +kernel, by decide +kernel, by decide +kernel⟩,
    ⟨(bandAt up ({ rows := List.replicate 16 .whole, phase := .eclipseWait, depthSet := true } : Band) fun w => { w with divided := true } : State), (0 : Nat), (ref0 : BandRef), (workOf ({ rows := List.replicate 16 .whole, phase := .eclipseWait, depthSet := true } : Band) fun w => { w with divided := true } : Work), ({ rows := List.replicate 16 .whole, phase := .eclipseWait, depthSet := true } : Band), And.intro rfl rfl, by decide +kernel, by decide +kernel, by decide +kernel, by decide +kernel, by decide +kernel, by decide +kernel, by decide +kernel, by decide +kernel, by decide +kernel, by decide +kernel⟩,
    ⟨(onD (bandAt up ({ rows := List.replicate 16 .whole, phase := .eclipsing, depthSet := true } : Band)) fun d => d.onEnt 0 fun x => { x with job := some ref0, pass := .eclipse } : State), (0 : Nat), (ref0 : BandRef), (workOf ({ rows := List.replicate 16 .whole, phase := .eclipsing, depthSet := true } : Band) : Work), ({ rows := List.replicate 16 .whole, phase := .eclipsing, depthSet := true } : Band), And.intro rfl rfl, by decide +kernel, by decide +kernel, by decide +kernel, by decide +kernel⟩⟩

theorem wit_VerifyAndGuard :
    (∃ (s : State) (e : _) (r : _) (w : _) (b : Band) (c : _), s.Live ∧ s.m.dev.Shape ∧ (s.m.dev.mirE e).job = some r ∧ (s.m.dev.mirE e).fault = none ∧ s.m.dev.bandOf r = some (w, b) ∧ b.pass < 2 ∧ s.m.dev.cap r.stream = some c ∧ c.anchor ≤ 1 ∧ c.works.Pairwise (fun a b => a.frame ≠ b.frame) ∧ (w.tile r.tile).engine = e) ∧
    (∃ (s : State) (j : _) (c : _) (w : _), s.Live ∧ s.m.dev.Shape ∧ s.m.dev.cap j = some c ∧ c.works.find? (fun w => w.tables.isNone && !w.skip && !w.gone) = some w ∧ s.m.dev.policy j = false) ∧
    (∃ (s : State) (j : _) (n : _) (k : _) (w : _), s.Live ∧ s.m.dev.Shape ∧ s.m.dev.work j n = some w ∧ w.skip = false ∧ w.gone = false ∧ w.mode ≠ 3 ∧ k < w.tiles.length ∧ w.unpassed k ≠ 0) ∧
    (∃ (s : State) (n : _), s.Live ∧ s.m.dev.Shape ∧ s.m.dev.streams.any (fun x => (s.m.dev.work x.1 n).isSome) = true) :=
  ⟨⟨(onD (bandAt up ({ rows := List.replicate 16 .whole, phase := .verifying } : Band)) fun d => d.onMir 0 fun x => { x with job := some ref0 } : State), (0), (ref0), (workOf ({ rows := List.replicate 16 .whole, phase := .verifying } : Band)), ({ rows := List.replicate 16 .whole, phase := .verifying } : Band), (cap0 (workOf ({ rows := List.replicate 16 .whole, phase := .verifying } : Band))), And.intro rfl rfl, by unfold Dev.Shape; decide +kernel, by decide +kernel, by decide +kernel, by decide +kernel, by decide +kernel, by decide +kernel, by decide +kernel, by decide +kernel, by decide +kernel⟩,
    ⟨(bandAt up ({ rows := List.replicate 16 .whole } : Band) : State), (0), (cap0 (workOf ({ rows := List.replicate 16 .whole } : Band))), (workOf ({ rows := List.replicate 16 .whole } : Band)), And.intro rfl rfl, by unfold Dev.Shape; decide +kernel, by decide +kernel, by decide +kernel, by decide +kernel⟩,
    ⟨(bandAt up ({ rows := List.replicate 16 .whole } : Band) : State), (0), (5), (0), (workOf ({ rows := List.replicate 16 .whole } : Band)), And.intro rfl rfl, by unfold Dev.Shape; decide +kernel, by decide +kernel, by decide +kernel, by decide +kernel, by decide +kernel, by decide +kernel, by decide +kernel⟩,
    ⟨(bandAt up ({ rows := List.replicate 16 .whole } : Band) : State), (5), And.intro rfl rfl, by unfold Dev.Shape; decide +kernel, by decide +kernel⟩⟩

theorem wit_EngineFaults :
    (∃ (s : State) (e : Nat) (r : BandRef), s.Live ∧ s.m.dev.Shape ∧ (s.m.dev.pix e).job = some r) ∧
    (∃ (s : State) (e : Nat) (r : BandRef), s.Live ∧ s.m.dev.Shape ∧ (s.m.dev.pix e).job = some r) ∧
    (∃ (s : State) (e : Nat) (r : BandRef), s.Live ∧ s.m.dev.Shape ∧ (s.m.dev.entE e).job = some r ∧ ((s.m.dev.entE e).pass = .measure ∨ (s.m.dev.entE e).pass = .code)) ∧
    (∃ (s : State) (e : Nat) (r : BandRef), s.Live ∧ s.m.dev.Shape ∧ (s.m.dev.entE e).job = some r ∧ ((s.m.dev.entE e).pass = .measure ∨ (s.m.dev.entE e).pass = .code)) ∧
    (∃ (s : State) (e : Nat) (r : BandRef), s.Live ∧ s.m.dev.Shape ∧ (s.m.dev.entE e).job = some r ∧ (s.m.dev.entE e).pass = .eclipse) ∧
    (∃ (s : State) (e : Nat) (r : BandRef), s.Live ∧ s.m.dev.Shape ∧ (s.m.dev.mirE e).job = some r) ∧
    (∃ (s : State) (e : Nat) (r : BandRef) (t0 : _), s.Live ∧ s.m.dev.Shape ∧ (s.m.dev.pix e).fault = some t0) ∧
    (∃ (s : State) (e : Nat) (r : BandRef) (t0 : _), s.Live ∧ s.m.dev.Shape ∧ (s.m.dev.entE e).fault = some t0) :=
  ⟨⟨(onD (bandAt up ({ rows := List.replicate 16 .whole, phase := .forming, formed := some {} } : Band)) fun d => d.onPix 0 fun x => { x with job := some ref0 } : State), (0 : Nat), (ref0 : BandRef), And.intro rfl rfl, by unfold Dev.Shape; decide +kernel, by decide +kernel⟩,
    ⟨(onD (bandAt up ({ rows := List.replicate 16 .whole, phase := .forming, formed := some {} } : Band)) fun d => d.onPix 0 fun x => { x with job := some ref0 } : State), (0 : Nat), (ref0 : BandRef), And.intro rfl rfl, by unfold Dev.Shape; decide +kernel, by decide +kernel⟩,
    ⟨(onD (bandAt up ({ rows := List.replicate 16 .whole, phase := .measuring, formed := some {} } : Band)) fun d => d.onEnt 0 fun x => { x with job := some ref0, pass := .measure } : State), (0 : Nat), (ref0 : BandRef), And.intro rfl rfl, by unfold Dev.Shape; decide +kernel, by decide +kernel, by decide +kernel⟩,
    ⟨(onD (bandAt up ({ rows := List.replicate 16 .whole, phase := .measuring, formed := some {} } : Band)) fun d => d.onEnt 0 fun x => { x with job := some ref0, pass := .measure } : State), (0 : Nat), (ref0 : BandRef), And.intro rfl rfl, by unfold Dev.Shape; decide +kernel, by decide +kernel, by decide +kernel⟩,
    ⟨(onD (bandAt up ({ rows := List.replicate 16 .whole, phase := .eclipsing } : Band)) fun d => d.onEnt 0 fun x => { x with job := some ref0, pass := .eclipse } : State), (0 : Nat), (ref0 : BandRef), And.intro rfl rfl, by unfold Dev.Shape; decide +kernel, by decide +kernel, by decide +kernel⟩,
    ⟨(onD (bandAt up ({ rows := List.replicate 16 .whole, phase := .verifying } : Band)) fun d => d.onMir 0 fun x => { x with job := some ref0 } : State), (0 : Nat), (ref0 : BandRef), And.intro rfl rfl, by unfold Dev.Shape; decide +kernel, by decide +kernel⟩,
    ⟨(onD up fun d => d.onPix 23 fun x => { x with fault := some 0 } : State), (23 : Nat), (ref0 : BandRef), (0), And.intro rfl rfl, by unfold Dev.Shape; decide +kernel, by decide +kernel⟩,
    ⟨(onD up fun d => d.onEnt 23 fun x => { x with fault := some 0 } : State), (23 : Nat), (ref0 : BandRef), (0), And.intro rfl rfl, by unfold Dev.Shape; decide +kernel, by decide +kernel⟩⟩

theorem wit_MicroWords :
    (∃ (s : State) (k : Nat) (e : SeqEvent) (r : List SeqEvent) (a : _), s.Live ∧ s.m.dev.Shape ∧ (s.m.dev.thread k).pc = none ∧ (s.m.dev.thread k).events = e :: r ∧ s.m.dev.seqr.dispatch.getD (e.op - 0xF0) none = some a) ∧
    (∃ (s : State) (k : Nat) (a : _) (w : _) (n : _), s.Live ∧ s.m.dev.Shape ∧ (s.m.dev.thread k).pc = some a ∧ (s.m.dev.thread k).waitAt = none ∧ (s.m.dev.thread k).count < (s.m.dev.thread k).limit k ∧ s.m.dev.micro a = w ∧ s.m.dev.nano (microNano w) = n ∧ nanoSlot n 0 = 0 ∧ nanoSlot n 1 = 0 ∧ microNext w = 0 ∧ microWait w = 0) ∧
    (∃ (s : State) (k : Nat) (a : _) (w : _) (n : _), s.Live ∧ s.m.dev.Shape ∧ (s.m.dev.thread k).pc = some a ∧ (s.m.dev.thread k).waitAt = none ∧ (s.m.dev.thread k).count < (s.m.dev.thread k).limit k ∧ s.m.dev.micro a = w ∧ s.m.dev.nano (microNano w) = n ∧ nanoSlot n 0 = 0 ∧ nanoSlot n 1 = 0 ∧ microNext w = 1 ∧ microWait w = 0) ∧
    (∃ (s : State) (k : Nat) (a : _) (w : _) (n : _), s.Live ∧ s.m.dev.Shape ∧ (s.m.dev.thread k).pc = some a ∧ (s.m.dev.thread k).waitAt = none ∧ (s.m.dev.thread k).count < (s.m.dev.thread k).limit k ∧ s.m.dev.micro a = w ∧ s.m.dev.nano (microNano w) = n ∧ nanoSlot n 0 = 0 ∧ nanoSlot n 1 = 0 ∧ microNext w = 2 ∧ microWait w = 0) ∧
    (∃ (s : State) (k : Nat) (a : _) (w : _) (n : _), s.Live ∧ s.m.dev.Shape ∧ (s.m.dev.thread k).pc = some a ∧ (s.m.dev.thread k).waitAt = none ∧ (s.m.dev.thread k).count < (s.m.dev.thread k).limit k ∧ s.m.dev.micro a = w ∧ s.m.dev.nano (microNano w) = n ∧ nanoSlot n 0 = 0 ∧ nanoSlot n 1 = 0 ∧ microNext w = 3 ∧ microWait w = 0) ∧
    (∃ (s : State) (k : Nat) (a : _) (w : _) (n : _), s.Live ∧ s.m.dev.Shape ∧ (s.m.dev.thread k).pc = some a ∧ (s.m.dev.thread k).waitAt = none ∧ (s.m.dev.thread k).count < (s.m.dev.thread k).limit k ∧ s.m.dev.micro a = w ∧ s.m.dev.nano (microNano w) = n ∧ nanoSlot n 0 = 0 ∧ nanoSlot n 1 = 0 ∧ microNext w = 4) ∧
    (∃ (s : State) (k : Nat) (a : _) (w : _) (n : _), s.Live ∧ s.m.dev.Shape ∧ (s.m.dev.thread k).pc = some a ∧ (s.m.dev.thread k).waitAt = none ∧ (s.m.dev.thread k).count < (s.m.dev.thread k).limit k ∧ s.m.dev.micro a = w ∧ s.m.dev.nano (microNano w) = n ∧ nanoSlot n 0 = 0 ∧ nanoSlot n 1 = 0 ∧ microNext w = 5 ∧ microWait w = 0 ∧ (s.m.dev.thread k).stack.length < 4) ∧
    (∃ (s : State) (k : Nat) (a : _) (w : _) (n : _) (p : _) (r : List Nat), s.Live ∧ s.m.dev.Shape ∧ (s.m.dev.thread k).pc = some a ∧ (s.m.dev.thread k).waitAt = none ∧ (s.m.dev.thread k).count < (s.m.dev.thread k).limit k ∧ s.m.dev.micro a = w ∧ s.m.dev.nano (microNano w) = n ∧ nanoSlot n 0 = 0 ∧ nanoSlot n 1 = 0 ∧ microNext w = 6 ∧ microWait w = 0 ∧ (s.m.dev.thread k).stack = p :: r) ∧
    (∃ (s : State) (k : Nat) (a : _) (w : _) (n : _), s.Live ∧ s.m.dev.Shape ∧ (s.m.dev.thread k).pc = some a ∧ (s.m.dev.thread k).waitAt = none ∧ (s.m.dev.thread k).count < (s.m.dev.thread k).limit k ∧ s.m.dev.micro a = w ∧ s.m.dev.nano (microNano w) = n ∧ nanoSlot n 0 = 0 ∧ nanoSlot n 1 = 0 ∧ microNext w = 7 ∧ microWait w = 0) ∧
    (∃ (s : State) (k : Nat) (a : _) (w : _) (n : _) (x : SlotResult), s.Live ∧ s.m.dev.Shape ∧ (s.m.dev.thread k).pc = some a ∧ (s.m.dev.thread k).waitAt = none ∧ (s.m.dev.thread k).count < (s.m.dev.thread k).limit k ∧ s.m.dev.micro a = w ∧ s.m.dev.nano (microNano w) = n ∧ microNext w = 0 ∧ microWait w = 0 ∧ nanoSlot n 1 = 0 ∧ bit n 146 = false ∧ slotDst (nanoSlot n 0) < 16 ∧ slotRun (slotOp (nanoSlot n 0)) (s.m.dev.operand k (slotA (nanoSlot n 0)) (slotImm (nanoSlot n 0))) (s.m.dev.operand k (slotB (nanoSlot n 0)) (slotImm (nanoSlot n 0))) ((s.m.dev.thread k).regs.getD (slotImm (nanoSlot n 0) % 16) 0).toNat = some x) :=
  ⟨⟨(onD up fun d => { (d.onThread 24 fun x => { x with events := [({ op := 0xFF, arg := 3 } : SeqEvent)] }) with seqr := { (d.onThread 24 fun x => { x with events := [({ op := 0xFF, arg := 3 } : SeqEvent)] }).seqr with dispatch := List.replicate 16 (some 0x1C00) } } : State), (24 : Nat), ({ op := 0xFF, arg := 3 } : SeqEvent), ([] : List SeqEvent), (0x1C00), And.intro rfl rfl, by unfold Dev.Shape; decide +kernel, by decide +kernel, by decide +kernel, by decide +kernel⟩,
    ⟨(threadAt 0 0 : State), (24 : Nat), (7), (3072), (0), And.intro rfl rfl, by unfold Dev.Shape; decide +kernel, by decide +kernel, by decide +kernel, by decide +kernel, by decide +kernel, by decide +kernel, by decide +kernel, by decide +kernel, by decide +kernel, by decide +kernel⟩,
    ⟨(threadAt 1 0 : State), (24 : Nat), (7), (3073), (0), And.intro rfl rfl, by unfold Dev.Shape; decide +kernel, by decide +kernel, by decide +kernel, by decide +kernel, by decide +kernel, by decide +kernel, by decide +kernel, by decide +kernel, by decide +kernel, by decide +kernel⟩,
    ⟨(threadAt 2 0 fun x => { x with neg := true } : State), (24 : Nat), (7), (3074), (0), And.intro rfl rfl, by unfold Dev.Shape; decide +kernel, by decide +kernel, by decide +kernel, by decide +kernel, by decide +kernel, by decide +kernel, by decide +kernel, by decide +kernel, by decide +kernel, by decide +kernel⟩,
    ⟨(threadAt 3 0 fun x => { x with zero := true } : State), (24 : Nat), (7), (3075), (0), And.intro rfl rfl, by unfold Dev.Shape; decide +kernel, by decide +kernel, by decide +kernel, by decide +kernel, by decide +kernel, by decide +kernel, by decide +kernel, by decide +kernel, by decide +kernel, by decide +kernel⟩,
    ⟨(threadAt 4 0 : State), (24 : Nat), (7), (3076), (0), And.intro rfl rfl, by unfold Dev.Shape; decide +kernel, by decide +kernel, by decide +kernel, by decide +kernel, by decide +kernel, by decide +kernel, by decide +kernel, by decide +kernel, by decide +kernel⟩,
    ⟨(threadAt 5 0 fun x => { x with stack := [1, 2, 3] } : State), (24 : Nat), (7), (3077), (0), And.intro rfl rfl, by unfold Dev.Shape; decide +kernel, by decide +kernel, by decide +kernel, by decide +kernel, by decide +kernel, by decide +kernel, by decide +kernel, by decide +kernel, by decide +kernel, by decide +kernel, by decide +kernel⟩,
    ⟨(threadAt 6 0 fun x => { x with stack := [9] } : State), (24 : Nat), (7), (3078), (0), (9), ([] : List Nat), And.intro rfl rfl, by unfold Dev.Shape; decide +kernel, by decide +kernel, by decide +kernel, by decide +kernel, by decide +kernel, by decide +kernel, by decide +kernel, by decide +kernel, by decide +kernel, by decide +kernel, by decide +kernel⟩,
    ⟨(threadAt 7 0 fun x => { x with cur := some { op := 0xF8, arg := 3 } } : State), (24 : Nat), (7), (3079), (0), And.intro rfl rfl, by unfold Dev.Shape; decide +kernel, by decide +kernel, by decide +kernel, by decide +kernel, by decide +kernel, by decide +kernel, by decide +kernel, by decide +kernel, by decide +kernel, by decide +kernel⟩,
    ⟨(threadAt 0 (2 ^ 49 + 15 * 2 ^ 43 + 15 * 2 ^ 37 + 14 * 2 ^ 32) fun x => { x with regs := modAt x.regs 15 (fun _ => 0xFFFFFFFF) } : State), (24 : Nat), (7), (3072), (2 ^ 49 + 15 * 2 ^ 43 + 15 * 2 ^ 37 + 14 * 2 ^ 32), ({ value := 0xFFFFFFFE, carry := some true } : SlotResult), And.intro rfl rfl, by unfold Dev.Shape; decide +kernel, by decide +kernel, by decide +kernel, by decide +kernel, by decide +kernel, by decide +kernel, by decide +kernel, by decide +kernel, by decide +kernel, by decide +kernel, by decide +kernel, by decide +kernel⟩⟩

theorem wit_SequencerControl :
    (∃ (s : State) (k : Nat) (a : _) (from_ : _) (w : _) (n : _) (c : _), s.Live ∧ s.m.dev.Shape ∧ (s.m.dev.thread k).pc = some a ∧ (s.m.dev.thread k).waitAt = some from_ ∧ s.m.dev.micro a = w ∧ s.m.dev.nano (microNano w) = n ∧ nanoSlot n 0 = 0 ∧ nanoSlot n 1 = 0 ∧ microNext w = 0 ∧ s.m.dev.condition k (microWait w) = true ∧ c = (s.m.dev.thread k).count + (s.m.dev.clk - from_) ∧ c < (s.m.dev.thread k).limit k) ∧
    (∃ (s : State) (k : Nat) (at_ : _), s.Live ∧ s.m.dev.Shape ∧ (s.m.dev.thread k).timer = some at_) ∧
    (∃ (s : State) (k : Nat) (a : _) (from_ : _), s.Live ∧ s.m.dev.Shape ∧ (s.m.dev.thread k).pc = some a ∧ (s.m.dev.thread k).waitAt = some from_) ∧
    (∃ (s : State) (k : Nat) (v : _), s.Live ∧ s.m.dev.Shape ∧ bits v 8 5 ≤ 24 ∧ s.m.dev.seqr.threads.length = 25) ∧
    (∃ (s : State) (k : Nat) (sq : _) (cid : _) (c : _) (l : _), s.Live ∧ s.m.dev.Shape ∧ s.Runs sq cid 0x12 c ∧ c.dataKind ≠ 0 ∧ c.dataLen ≠ 0 ∧ s.m.mem.dataOk c c.dataLen = true ∧ s.m.dev.streams.any (fun x => s.m.dev.policy x.1 && x.2.active) = false ∧ s.m.mem.dataIn c c.dataLen = l) :=
  ⟨⟨(onD (threadAt 0 0 fun x => { x with waitAt := some 0 }) fun d => { d with clk := 4095 } : State), (24 : Nat), (7), (0), (3072), (0), (4095), And.intro rfl rfl, by unfold Dev.Shape; decide +kernel, by decide +kernel, by decide +kernel, by decide +kernel, by decide +kernel, by decide +kernel, by decide +kernel, by decide +kernel, by decide +kernel, by decide +kernel, by decide +kernel⟩,
    ⟨(onD up fun d => d.onThread 24 fun x => { x with timer := some 50 } : State), (24 : Nat), (50), And.intro rfl rfl, by unfold Dev.Shape; decide +kernel, by decide +kernel⟩,
    ⟨(threadAt 32 0 fun x => { x with waitAt := some 0 } : State), (24 : Nat), (7), (0), And.intro rfl rfl, by unfold Dev.Shape; decide +kernel, by decide +kernel, by decide +kernel⟩,
    ⟨(up : State), (0 : Nat), (24 * 256 + 7), And.intro rfl rfl, by unfold Dev.Shape; decide +kernel, by decide +kernel, by decide +kernel⟩,
    ⟨(withCmd up (cmdAt 0x12 0 0x4000 100 []) : State), (0 : Nat), (1), (7), (cmdAt 0x12 0 0x4000 100 []), ((withCmd up (cmdAt 0x12 0 0x4000 100 []) : State).m.mem.dataIn (cmdAt 0x12 0 0x4000 100 []) 100), And.intro rfl rfl, by unfold Dev.Shape; decide +kernel, And.intro (And.intro rfl rfl) (And.intro rfl (And.intro rfl rfl)), by decide +kernel, by decide +kernel, by decide +kernel, by decide +kernel, by decide +kernel⟩⟩

theorem wit_FlashWrites :
    (∃ (s : State) (p : Nat) (str : _) (c : Cap) (bytes : _), s.Live ∧ s.m.dev.Shape ∧ p < 2 ∧ (s.m.dev.mag p).mounted = true ∧ s.m.dev.cap str = some c ∧ c.outq = [] ∧ s.m.dev.chunkPort c = p ∧ c.nextChunk = some bytes ∧ (s.m.dev.mag p).readOnly = false ∧ s.m.dev.takesWork (8 + p) = true ∧ c.tries < 2) ∧
    (∃ (s : State) (p : Nat) (str : _) (c : Cap) (bytes : _) (buf : _) (d : _) (x : _), s.Live ∧ s.m.dev.Shape ∧ p < 2 ∧ (s.m.dev.mag p).mounted = true ∧ s.m.dev.cap str = some c ∧ c.outq = [] ∧ s.m.dev.chunkPort c = p ∧ c.nextChunk = some bytes ∧ (s.m.dev.mag p).readOnly = false ∧ s.m.dev.takesWork (8 + p) = true ∧ s.m.dev.poolGrant 2 0 c.ctx (64 + 4 * p + c.chunks % 4) 0 = (some buf, d) ∧ (((s.m.dev.mag p).openFill.closeFull).openFill).fill = some x) ∧
    (∃ (s : State) (p : Nat) (x : Stripe), s.Live ∧ s.m.dev.Shape ∧ p < 2 ∧ (s.m.dev.mag p).mounted = true ∧ s.m.dev.takesWork (8 + p) = true ∧ (s.m.dev.mag p).erasing = [] ∧ (s.m.dev.mag p).programs.find? (fun x => x.seq.isNone) = some x) ∧
    (∃ (s : State) (p : Nat) (x : Stripe), s.Live ∧ s.m.dev.Shape ∧ p < 2 ∧ (s.m.dev.mag p).mounted = true ∧ s.m.dev.takesWork (8 + p) = true ∧ (s.m.dev.mag p).fill = some x ∧ x.lastAt ≠ 0) ∧
    (∃ (s : State) (p : Nat) (die : _) (x : Stripe), s.Live ∧ s.m.dev.Shape ∧ p < 2 ∧ (s.m.dev.mag p).mounted = true ∧ (s.m.dev.mag p).programs.find? (fun x => x.seq.isSome && x.waiting.contains die) = some x ∧ x.waiting.filter (fun y => decide (y ≠ die)) ≠ []) ∧
    (∃ (s : State) (p : Nat) (die : _) (x : Stripe), s.Live ∧ s.m.dev.Shape ∧ p < 2 ∧ (s.m.dev.mag p).mounted = true ∧ (s.m.dev.mag p).programs.find? (fun x => x.seq.isSome && x.waiting.contains die) = some x ∧ x.waiting.filter (fun y => decide (y ≠ die)) = [] ∧ s.m.dev.caps = []) ∧
    (∃ (s : State) (p : Nat) (e : _) (r : List (Nat × Nat)), s.Live ∧ s.m.dev.Shape ∧ p < 2 ∧ (s.m.dev.mag p).mounted = true ∧ (s.m.dev.mag p).erasing = e :: r) ∧
    (∃ (s : State) (p : Nat) (die : _), s.Live ∧ s.m.dev.Shape ∧ p < 2 ∧ (s.m.dev.mag p).mounted = true ∧ (s.m.dev.mag p).programs.any (fun x => x.waiting.contains die) = true ∧ Tbl.get (fun _ => 0) (s.m.dev.mag p).timeouts die < 2) :=
  ⟨⟨(capAt (magUp (pooled up)) ({ ctx := 1, run := .running, clip := some (1, 5), draining := true, takenCnt := 1, cut := [1] } : Cap) : State), (1 : Nat), (0), ({ ctx := 1, run := .running, clip := some (1, 5), draining := true, takenCnt := 1, cut := [1] } : Cap), (padTo 65536 [1]), And.intro rfl rfl, by unfold Dev.Shape; decide +kernel, by decide +kernel, by decide +kernel, by decide +kernel, by decide +kernel, by decide +kernel, rfl, by decide +kernel, by decide +kernel, by decide +kernel⟩,
    ⟨(capAt (magUp (pooled up)) ({ ctx := 1, run := .running, clip := some (1, 5), draining := true, takenCnt := 1, cut := [1] } : Cap) : State), (1 : Nat), (0), ({ ctx := 1, run := .running, clip := some (1, 5), draining := true, takenCnt := 1, cut := [1] } : Cap), (padTo 65536 [1]), (0), (((capAt (magUp (pooled up)) ({ ctx := 1, run := .running, clip := some (1, 5), draining := true, takenCnt := 1, cut := [1] } : Cap) : State).m.dev.poolGrant 2 0 1 68 0).2), ((((((capAt (magUp (pooled up)) ({ ctx := 1, run := .running, clip := some (1, 5), draining := true, takenCnt := 1, cut := [1] } : Cap) : State).m.dev.mag 1).openFill.closeFull).openFill).fill).getD { group := 0, sb := 0, wl := 0, kind := 0, dies := [] }), And.intro rfl rfl, by unfold Dev.Shape; decide +kernel, by decide +kernel, by decide +kernel, by decide +kernel, by decide +kernel, by decide +kernel, rfl, by decide +kernel, by decide +kernel, by decide +kernel, by decide +kernel⟩,
    ⟨(volAt (magUp up) fun q => { q with programs := [({ group := 0, sb := 1, wl := 0, kind := 1, dies := [0, 1] } : Stripe)] } : State), (1 : Nat), ({ group := 0, sb := 1, wl := 0, kind := 1, dies := [0, 1] } : Stripe), And.intro rfl rfl, by unfold Dev.Shape; decide +kernel, by decide +kernel, by decide +kernel, by decide +kernel, by decide +kernel, by decide +kernel⟩,
    ⟨(volAt (magUp up) fun q => { q with fill := some ({ group := 0, sb := 1, wl := 0, kind := 1, dies := [0, 1], lastAt := 7 } : Stripe) } : State), (1 : Nat), ({ group := 0, sb := 1, wl := 0, kind := 1, dies := [0, 1], lastAt := 7 } : Stripe), And.intro rfl rfl, by unfold Dev.Shape; decide +kernel, by decide +kernel, by decide +kernel, by decide +kernel, by decide +kernel, by decide +kernel⟩,
    ⟨(volAt (magUp up) fun q => { q with programs := [({ group := 0, sb := 1, wl := 0, kind := 1, seq := some 3, dies := [0, 1], waiting := [0, 1] } : Stripe)] } : State), (1 : Nat), (1), ({ group := 0, sb := 1, wl := 0, kind := 1, seq := some 3, dies := [0, 1], waiting := [0, 1] } : Stripe), And.intro rfl rfl, by unfold Dev.Shape; decide +kernel, by decide +kernel, by decide +kernel, by decide +kernel, by decide +kernel⟩,
    ⟨(volAt (magUp up) fun q => { q with programs := [({ group := 0, sb := 1, wl := 0, kind := 1, seq := some 3, dies := [0, 1], waiting := [1] } : Stripe)] } : State), (1 : Nat), (1), ({ group := 0, sb := 1, wl := 0, kind := 1, seq := some 3, dies := [0, 1], waiting := [1] } : Stripe), And.intro rfl rfl, by unfold Dev.Shape; decide +kernel, by decide +kernel, by decide +kernel, by decide +kernel, by decide +kernel, by decide +kernel⟩,
    ⟨(volAt (magUp up) fun q => { q with erasing := [((1, 5))] } : State), (1 : Nat), ((1, 5)), ([] : List (Nat × Nat)), And.intro rfl rfl, by unfold Dev.Shape; decide +kernel, by decide +kernel, by decide +kernel, by decide +kernel⟩,
    ⟨(volAt (magUp up) fun q => { q with programs := [{ group := 0, sb := 1, wl := 0, kind := 1, seq := some 3, dies := [0, 1], waiting := [1] }], timeouts := [(1, 1)] } : State), (1 : Nat), (1), And.intro rfl rfl, by unfold Dev.Shape; decide +kernel, by decide +kernel, by decide +kernel, by decide +kernel, by decide +kernel⟩⟩

theorem wit_Magazines :
    (∃ (s : State) (p : Nat), s.Live ∧ s.m.dev.Shape ∧ p < 2) ∧
    (∃ (s : State) (p : Nat), s.Live ∧ s.m.dev.Shape ∧ p < 2) ∧
    (∃ (s : State) (p : Nat), s.Live ∧ s.m.dev.Shape ∧ p < 2 ∧ (s.m.dev.mag p).seated.isSome = true ∧ (s.m.dev.mag p).present = false) ∧
    (∃ (s : State) (p : Nat), s.Live ∧ s.m.dev.Shape ∧ p < 2 ∧ (s.m.dev.mag p).seated = none ∧ (s.m.dev.mag p).present = true) ∧
    (∃ (s : State) (p : Nat) (ppa : _) (c : _) (key : _), s.Live ∧ s.m.dev.Shape ∧ p < 2 ∧ (s.m.dev.mag p).mounted = true ∧ c < 4 ∧ s.m.dev.takesWork (8 + p) = true ∧ key = 8192 * (ppa / 2 ^ 25) + ppa / 4096 % 8192) ∧
    (∃ (s : State) (p : Nat) (die : _) (block : _) (bad : _) (r : List (Nat × Nat × Bool)), s.Live ∧ s.m.dev.Shape ∧ p < 2 ∧ (s.m.dev.mag p).mounted = true ∧ (s.m.dev.mag p).readOnly = false ∧ (s.m.dev.mag p).relocDue = (die, block, bad) :: r ∧ s.m.livePages p die block = []) ∧
    (∃ (s : State) (p : Nat), s.Live ∧ s.m.dev.Shape ∧ p < 2 ∧ (s.m.dev.mag p).mounted = true ∧ s.m.dev.takesWork (8 + p) = true) ∧
    (∃ (s : State) (p : Nat), s.Live ∧ s.m.dev.Shape ∧ p < 2 ∧ (s.m.dev.mag p).mounted = true ∧ (s.m.dev.mag p).vol.clips.any (fun c => decide (c.state = 1)) = true) :=
  ⟨⟨(up : State), (1 : Nat), And.intro rfl rfl, by unfold Dev.Shape; decide +kernel, by decide +kernel⟩,
    ⟨(magUp up : State), (1 : Nat), And.intro rfl rfl, by unfold Dev.Shape; decide +kernel, by decide +kernel⟩,
    ⟨(onD up fun d => d.onMag 1 fun q => { q with seated := some 0 } : State), (1 : Nat), And.intro rfl rfl, by unfold Dev.Shape; decide +kernel, by decide +kernel, by decide +kernel, by decide +kernel⟩,
    ⟨(volAt (magUp up) fun q => { q with seated := none } : State), (1 : Nat), And.intro rfl rfl, by unfold Dev.Shape; decide +kernel, by decide +kernel, by decide +kernel, by decide +kernel⟩,
    ⟨(magUp up : State), (1 : Nat), (2 ^ 25 + 4096 * 3 + 5), (3), (8192 * ((2 ^ 25 + 4096 * 3 + 5) / 2 ^ 25) + (2 ^ 25 + 4096 * 3 + 5) / 4096 % 8192), And.intro rfl rfl, by unfold Dev.Shape; decide +kernel, by decide +kernel, by decide +kernel, by decide +kernel, by decide +kernel, by decide +kernel⟩,
    ⟨(volAt (magUp up) fun q => { q with relocDue := [(1, 5, false)] } : State), (1 : Nat), (1), (5), (false), ([] : List (Nat × Nat × Bool)), And.intro rfl rfl, by unfold Dev.Shape; decide +kernel, by decide +kernel, by decide +kernel, by decide +kernel, by decide +kernel, by decide +kernel⟩,
    ⟨(magUp up : State), (1 : Nat), And.intro rfl rfl, by unfold Dev.Shape; decide +kernel, by decide +kernel, by decide +kernel, by decide +kernel⟩,
    ⟨(volAt (magUp up) fun q => { q with vol := { q.vol with clips := [{ id := 5 }] } } : State), (1 : Nat), And.intro rfl rfl, by unfold Dev.Shape; decide +kernel, by decide +kernel, by decide +kernel, by decide +kernel⟩⟩

theorem wit_MagazineCommands :
    (∃ (s : State) (sq : Nat) (cid : Nat) (c : Cmd) (p : Nat), s.m.dev.Shape ∧ p < 2 ∧ ((sq ≠ 0 ∨ cid ∉ s.m.dev.host.aer)) ∧ s.Runs sq cid 0x58 c ∧ c.target = p ∧ s.m.dev.boot.state ≠ .twilight ∧ (s.m.dev.mag p).mounted = false) ∧
    (∃ (s : State) (sq : Nat) (cid : Nat) (c : Cmd) (p : Nat), s.m.dev.Shape ∧ p < 2 ∧ ((sq ≠ 0 ∨ cid ∉ s.m.dev.host.aer)) ∧ s.Runs sq cid 0x59 c ∧ c.target = p ∧ (s.m.dev.mag p).mounted = true ∧ (s.m.dev.streams.any (fun e => e.2.recordsTo p ∧ (e.2.clip.isSome ∨ e.2.active)) = false)) ∧
    (∃ (s : State) (sq : Nat) (cid : Nat) (c : Cmd) (p : Nat), s.m.dev.Shape ∧ p < 2 ∧ ((sq ≠ 0 ∨ cid ∉ s.m.dev.host.aer)) ∧ s.Runs sq cid 0x5A c ∧ c.target = p ∧ c.dw 1 = 0x464D5441 ∧ c.dw 2 % 256 ≤ 50 ∧ (s.m.dev.mag p).mounted = false ∧ (s.m.dev.mag p).present = true) ∧
    (∃ (s : State) (sq : Nat) (cid : Nat) (c : Cmd) (p : Nat), s.m.dev.Shape ∧ p < 2 ∧ ((sq ≠ 0 ∨ cid ∉ s.m.dev.host.aer)) ∧ s.Runs sq cid 0x5B c ∧ c.target = p ∧ (s.m.dev.mag p).mounted = true) ∧
    (∃ (s : State) (sq : Nat) (cid : Nat) (c : Cmd) (p : Nat), s.m.dev.Shape ∧ p < 2 ∧ ((sq ≠ 0 ∨ cid ∉ s.m.dev.host.aer)) ∧ s.Runs sq cid 0x61 c ∧ c.dw 0 % 2 = p ∧ bit (c.dw 0) 8 = false ∧ c.dw 3 = 1 ∧ (s.m.dev.mag p).mounted = true ∧ (s.m.dev.mag p).vol.positionOk (s.m.dev.mag p).geo (c.dw64 1) = true ∧ s.m.mem.dataOk c 4128 = true) :=
  ⟨⟨(withCmd (onD up fun d => d.onMag 1 fun q => { q with mounted := false }) (cmdAt 0x58 1 0 0 [] : Cmd) : State), (1 : Nat), (7 : Nat), (cmdAt 0x58 1 0 0 [] : Cmd), (1 : Nat), by unfold Dev.Shape; decide +kernel, by decide +kernel, by decide +kernel, And.intro (And.intro rfl rfl) (And.intro rfl (And.intro rfl rfl)), by decide +kernel, by decide +kernel, by decide +kernel⟩,
    ⟨(withCmd (magUp up) (cmdAt 0x59 1 0 0 [] : Cmd) : State), (1 : Nat), (7 : Nat), (cmdAt 0x59 1 0 0 [] : Cmd), (1 : Nat), by unfold Dev.Shape; decide +kernel, by decide +kernel, by decide +kernel, And.intro (And.intro rfl rfl) (And.intro rfl (And.intro rfl rfl)), by decide +kernel, by decide +kernel, by decide +kernel⟩,
    ⟨(withCmd (volAt (magUp up) fun q => { q with mounted := false }) (cmdAt 0x5A 1 0 0 [0, 0x464D5441, 50] : Cmd) : State), (1 : Nat), (7 : Nat), (cmdAt 0x5A 1 0 0 [0, 0x464D5441, 50] : Cmd), (1 : Nat), by unfold Dev.Shape; decide +kernel, by decide +kernel, by decide +kernel, And.intro (And.intro rfl rfl) (And.intro rfl (And.intro rfl rfl)), by decide +kernel, by decide +kernel, by decide +kernel, by decide +kernel, by decide +kernel⟩,
    ⟨(withCmd (magUp up) (cmdAt 0x5B 1 0 0 [] : Cmd) : State), (1 : Nat), (7 : Nat), (cmdAt 0x5B 1 0 0 [] : Cmd), (1 : Nat), by unfold Dev.Shape; decide +kernel, by decide +kernel, by decide +kernel, And.intro (And.intro rfl rfl) (And.intro rfl (And.intro rfl rfl)), by decide +kernel, by decide +kernel⟩,
    ⟨(withCmd (volAt (magUp up) fun q => { q with vol := { q.vol with sbs := [(sbKey 0 1, { state := 1, kind := 1, liveMask := 0xFFFF })] } }) (cmdAt 0x61 0 0x4000 4128 [1, luaOf 0 1 0 0, 0, 1] : Cmd) : State), (1 : Nat), (7 : Nat), (cmdAt 0x61 0 0x4000 4128 [1, luaOf 0 1 0 0, 0, 1] : Cmd), (1 : Nat), by unfold Dev.Shape; decide +kernel, by decide +kernel, by decide +kernel, And.intro (And.intro rfl rfl) (And.intro rfl (And.intro rfl rfl)), by decide +kernel, by decide +kernel, by decide +kernel, by decide +kernel, by decide +kernel, by decide +kernel⟩⟩

theorem wit_Contexts :
    (∃ (s : State) (sq : Nat) (cid : Nat) (c : Cmd) (kind : Nat) (l : List Byte), s.Runs sq cid 0x40 c ∧ s.m.dev.Shape ∧ Tbl.wf (fun _ => none) s.m.dev.ctxs = true ∧ Tbl.wf (fun _ => none) s.m.dev.caps = true ∧ Tbl.wf (fun _ => none) s.m.dev.host.cqs = true ∧ kind = c.dw 0 % 8 ∧ kind ≤ 5 ∧ c.dataKind ≠ 0 ∧ paramLen kind ≤ c.dataLen ∧ s.m.mem.dataOk c (paramLen kind) = true ∧ s.m.mem.dataIn c (paramLen kind) = l ∧ s.m.dev.paramsOk kind l = true ∧ (s.m.dev.ctxNeeds kind l).1 ≤ 16384 - s.m.dev.ctxUsed ∧ (s.m.dev.ctxNeeds kind l).2.1 < (s.m.dev.ctxNeeds kind l).2.2 ∧ ((kind = 1 → s.m.dev.powerMoves = false ∧ ∃ x, s.m.dev.cap (rd l 0 1) = some x ∧ s.m.dev.checkProxy x (proxyOuts l) = none))) ∧
    (∃ (s : State) (sq : Nat) (cid : Nat) (c : Cmd) (kind : Nat) (l : List Byte), s.Runs sq cid 0x40 c ∧ s.m.dev.Shape ∧ Tbl.wf (fun _ => none) s.m.dev.ctxs = true ∧ Tbl.wf (fun _ => none) s.m.dev.caps = true ∧ Tbl.wf (fun _ => none) s.m.dev.host.cqs = true ∧ kind = c.dw 0 % 8 ∧ kind ≤ 5 ∧ c.dataKind ≠ 0 ∧ paramLen kind ≤ c.dataLen ∧ s.m.mem.dataOk c (paramLen kind) = true ∧ s.m.mem.dataIn c (paramLen kind) = l ∧ s.m.dev.paramsOk kind l = true ∧ ((kind = 1 → s.m.dev.powerMoves = false)) ∧ ((16384 - s.m.dev.ctxUsed < (s.m.dev.ctxNeeds kind l).1 ∨ (s.m.dev.ctxNeeds kind l).2.2 ≤ (s.m.dev.ctxNeeds kind l).2.1))) ∧
    (∃ (s : State) (sq : Nat) (cid : Nat) (c : Cmd) (x : Ctx), s.Runs sq cid 0x41 c ∧ Tbl.wf (fun _ => none) s.m.dev.ctxs = true ∧ Tbl.wf (fun _ => none) s.m.dev.caps = true ∧ s.m.dev.ctx c.target = some x ∧ (∀ f k, x.kind ≠ .tile f k ∧ x.kind ≠ .output f k) ∧ s.m.dev.ctxBusy c.target x = none) ∧
    (∃ (s : State) (sq : Nat) (cid : Nat) (c : Cmd) (x : Ctx) (st : _), s.Runs sq cid 0x41 c ∧ Tbl.wf (fun _ => none) s.m.dev.ctxs = true ∧ Tbl.wf (fun _ => none) s.m.dev.caps = true ∧ s.m.dev.ctx c.target = some x ∧ (∀ f k, x.kind ≠ .tile f k ∧ x.kind ≠ .output f k) ∧ s.m.dev.ctxBusy c.target x = some st) ∧
    (∃ (s : State) (sq : Nat) (cid : Nat) (c : Cmd) (x : Ctx), s.Runs sq cid 0x41 c ∧ Tbl.wf (fun _ => none) s.m.dev.ctxs = true ∧ Tbl.wf (fun _ => none) s.m.dev.caps = true ∧ s.m.dev.ctx c.target = some x ∧ ((∃ f k, x.kind = .tile f k ∨ x.kind = .output f k))) :=
  ⟨⟨(withCmd up (cmdAt 0x40 0 0x4000 64 [4] : Cmd) : State), (1 : Nat), (7 : Nat), (cmdAt 0x40 0 0x4000 64 [4] : Cmd), (4 : Nat), (zeros 64 : List Byte), And.intro (And.intro rfl rfl) (And.intro rfl (And.intro rfl rfl)), by unfold Dev.Shape; decide +kernel, by decide +kernel, by decide +kernel, by decide +kernel, by decide +kernel, by decide +kernel, by decide +kernel, by decide +kernel, by decide +kernel, by decide +kernel, by decide +kernel, by decide +kernel, by decide +kernel, by decide +kernel⟩,
    ⟨(withCmd (onD (hostAt up 0x4000 ([99] ++ zeros 63)) fun d => { d with ctxs := (List.range 24).map (fun i => (i + 1, some { kind := .playback })) ++ [(99, some { kind := .hostRing, params := zeros 64 })] }) (cmdAt 0x40 0 0x4000 64 [2] : Cmd) : State), (1 : Nat), (7 : Nat), (cmdAt 0x40 0 0x4000 64 [2] : Cmd), (2 : Nat), ((withCmd (onD (hostAt up 0x4000 ([99] ++ zeros 63)) fun d => { d with ctxs := (List.range 24).map (fun i => (i + 1, some { kind := .playback })) ++ [(99, some { kind := .hostRing, params := zeros 64 })] }) (cmdAt 0x40 0 0x4000 64 [2] : Cmd) : State).m.mem.dataIn (cmdAt 0x40 0 0x4000 64 [2] : Cmd) 64 : List Byte), And.intro (And.intro rfl rfl) (And.intro rfl (And.intro rfl rfl)), by unfold Dev.Shape; decide +kernel, by decide +kernel, by decide +kernel, by decide +kernel, by decide +kernel, by decide +kernel, by decide +kernel, by decide +kernel, by decide +kernel, by decide +kernel, by decide +kernel, by decide +kernel, by decide +kernel⟩,
    ⟨(withCmd (onD up fun d => { d with ctxs := [(5, some ({ kind := .playback } : Ctx))] }) (cmdAt 0x41 5 0 0 [] : Cmd) : State), (1 : Nat), (7 : Nat), (cmdAt 0x41 5 0 0 [] : Cmd), ({ kind := .playback } : Ctx), And.intro (And.intro rfl rfl) (And.intro rfl (And.intro rfl rfl)), by decide +kernel, by decide +kernel, by decide +kernel, fun _ _ => ⟨nofun, nofun⟩, by decide +kernel⟩,
    ⟨(withCmd (onD up fun d => { d with ctxs := [(5, some ({ kind := .capture } : Ctx))], caps := [(0, some { ctx := 5, run := .armed })] }) (cmdAt 0x41 5 0 0 [] : Cmd) : State), (1 : Nat), (7 : Nat), (cmdAt 0x41 5 0 0 [] : Cmd), ({ kind := .capture } : Ctx), (0), And.intro (And.intro rfl rfl) (And.intro rfl (And.intro rfl rfl)), by decide +kernel, by decide +kernel, by decide +kernel, fun _ _ => ⟨nofun, nofun⟩, by decide +kernel⟩,
    ⟨(withCmd (onD up fun d => { d with ctxs := [(5, some ({ kind := .tile 4 0 } : Ctx))] }) (cmdAt 0x41 5 0 0 [] : Cmd) : State), (1 : Nat), (7 : Nat), (cmdAt 0x41 5 0 0 [] : Cmd), ({ kind := .tile 4 0 } : Ctx), And.intro (And.intro rfl rfl) (And.intro rfl (And.intro rfl rfl)), by decide +kernel, by decide +kernel, by decide +kernel, ⟨4, 0, Or.inl rfl⟩⟩⟩

theorem wit_Clips :
    (∃ (s : State) (sq : Nat) (cid : Nat) (c : Cmd) (x : Ctx) (cap : Cap) (id : _), s.m.dev.Shape ∧ Tbl.wf (fun _ => none) s.m.dev.caps = true ∧ s.Runs sq cid 0x50 c ∧ s.m.dev.ctx c.target = some x ∧ x.kind = .capture ∧ s.m.dev.cap x.stream = some cap ∧ c.dw 0 % 4 ≠ 3 ∧ cap.clip = none ∧ (∀ p ∈ choicePorts (c.dw 0 % 4), (s.m.dev.mag p).mounted = true ∧ (s.m.dev.mag p).readOnly = false ∧ (s.m.dev.mag p).geo.protected_ = false ∧ s.m.dev.magLow (s.m.dev.withStream x.stream (cap.opened (c.dw 0 % 4, id))) p = false) ∧ newClipId (s.m.dev.clipIds (choicePorts (c.dw 0 % 4))) = some id ∧ s.m.admission x.stream (cap.opened (c.dw 0 % 4, id)) false true = none) ∧
    (∃ (s : State) (sq : Nat) (cid : Nat) (c : Cmd) (x : Ctx) (cap : Cap) (k : _), s.m.dev.Shape ∧ Tbl.wf (fun _ => none) s.m.dev.caps = true ∧ s.Runs sq cid 0x51 c ∧ s.m.dev.ctx c.target = some x ∧ x.kind = .capture ∧ s.m.dev.cap x.stream = some cap ∧ cap.clip = some k ∧ cap.active = false ∧ cap.draining = false) ∧
    (∃ (s : State) (sq : Nat) (cid : Nat) (c : Cmd) (p : _) (x : Clip), s.m.dev.Shape ∧ Tbl.wf (fun _ => none) s.m.dev.caps = true ∧ s.Runs sq cid 0x52 c ∧ c.target = p ∧ p < 2 ∧ (s.m.dev.mag p).mounted = true ∧ (s.m.dev.mag p).vol.clip (c.dw 0 % 65536) = some x ∧ (s.m.dev.mag p).readOnly = false ∧ (s.m.dev.mag p).geo.protected_ = false ∧ x.state = 1) ∧
    (∃ (s : State) (sq : Nat) (cid : Nat) (c : Cmd) (p : _) (x : Clip), s.m.dev.Shape ∧ Tbl.wf (fun _ => none) s.m.dev.caps = true ∧ s.Runs sq cid 0x52 c ∧ c.target = p ∧ p < 2 ∧ (s.m.dev.mag p).mounted = true ∧ (s.m.dev.mag p).vol.clip (c.dw 0 % 65536) = some x ∧ (s.m.dev.mag p).readOnly = false ∧ (s.m.dev.mag p).geo.protected_ = false ∧ x.state ≠ 1 ∧ s.m.clipInUse p x = false) :=
  ⟨⟨(withCmd (capAt (volAt (magUp (pooled (dramUp up))) fun q => { q with geo := { q.geo with blocks := 8000, pages := 3000, planes := 4 } }) ({ ctx := 1, hadRun := true } : Cap)) (cmdAt 0x50 1 0 0 [1] : Cmd) : State), (1 : Nat), (7 : Nat), (cmdAt 0x50 1 0 0 [1] : Cmd), ({ kind := .capture } : Ctx), ({ ctx := 1, hadRun := true } : Cap), (1), by unfold Dev.Shape; decide +kernel, by decide +kernel, And.intro (And.intro rfl rfl) (And.intro rfl (And.intro rfl rfl)), by decide +kernel, by decide +kernel, by decide +kernel, by decide +kernel, by decide +kernel, by decide +kernel, by decide +kernel, by decide +kernel⟩,
    ⟨(withCmd (capAt (volAt (magUp up) fun q => { q with vol := { q.vol with clips := [{ id := 5 }] } }) ({ ctx := 1, hadRun := true, clip := some ((1, 5)) } : Cap)) (cmdAt 0x51 1 0 0 [] : Cmd) : State), (1 : Nat), (7 : Nat), (cmdAt 0x51 1 0 0 [] : Cmd), ({ kind := .capture } : Ctx), ({ ctx := 1, hadRun := true, clip := some ((1, 5)) } : Cap), ((1, 5)), by unfold Dev.Shape; decide +kernel, by decide +kernel, And.intro (And.intro rfl rfl) (And.intro rfl (And.intro rfl rfl)), by decide +kernel, by decide +kernel, by decide +kernel, by decide +kernel, by decide +kernel, by decide +kernel⟩,
    ⟨(withCmd (volAt (magUp up) fun q => { q with vol := { q.vol with clips := [({ id := 5 } : Clip)] } }) (cmdAt 0x52 1 0 0 [5] : Cmd) : State), (1 : Nat), (7 : Nat), (cmdAt 0x52 1 0 0 [5] : Cmd), (1), ({ id := 5 } : Clip), by unfold Dev.Shape; decide +kernel, by decide +kernel, And.intro (And.intro rfl rfl) (And.intro rfl (And.intro rfl rfl)), by decide +kernel, by decide +kernel, by decide +kernel, by decide +kernel, by decide +kernel, by decide +kernel, by decide +kernel⟩,
    ⟨(withCmd (volAt (magUp up) fun q => { q with vol := { q.vol with clips := [({ id := 5, state := 2 } : Clip)] } }) (cmdAt 0x52 1 0 0 [5] : Cmd) : State), (1 : Nat), (7 : Nat), (cmdAt 0x52 1 0 0 [5] : Cmd), (1), ({ id := 5, state := 2 } : Clip), by unfold Dev.Shape; decide +kernel, by decide +kernel, And.intro (And.intro rfl rfl) (And.intro rfl (And.intro rfl rfl)), by decide +kernel, by decide +kernel, by decide +kernel, by decide +kernel, by decide +kernel, by decide +kernel, by decide +kernel, by decide +kernel⟩⟩

theorem wit_CaptureRunsAndCapacity :
    (∃ (s : State) (sq : Nat) (cid : Nat) (c : Cmd) (x : Ctx) (cap : Cap), Tbl.wf (fun _ => none) s.m.dev.caps = true ∧ s.m.dev.ctx c.target = some x ∧ x.kind = .capture ∧ s.m.dev.cap x.stream = some cap ∧ s.Runs sq cid 0x48 c ∧ s.m.dev.powerMoves = false) ∧
    (∃ (s : State) (sq : Nat) (cid : Nat) (c : Cmd) (x : Ctx) (cap : Cap), Tbl.wf (fun _ => none) s.m.dev.caps = true ∧ s.m.dev.ctx c.target = some x ∧ x.kind = .capture ∧ s.m.dev.cap x.stream = some cap ∧ s.Runs sq cid 0x49 c ∧ cap.run = .armed ∧ cap.start = none ∧ bit (c.dw 1) 1 = false ∧ s.m.dev.isAhead (c.dw 0) (unitsOfNs 100000) = true) ∧
    (∃ (s : State) (sq : Nat) (cid : Nat) (c : Cmd) (x : Ctx) (cap : Cap), Tbl.wf (fun _ => none) s.m.dev.caps = true ∧ s.m.dev.ctx c.target = some x ∧ x.kind = .capture ∧ s.m.dev.cap x.stream = some cap ∧ s.Runs sq cid 0x49 c ∧ cap.run = .armed ∧ cap.start = none ∧ bit (c.dw 1) 1 = false ∧ s.m.dev.isAhead (c.dw 0) (unitsOfNs 100000) = false ∧ bit (c.dw 1) 0 = false) ∧
    (∃ (s : State) (sq : Nat) (cid : Nat) (c : Cmd) (x : Ctx) (cap : Cap), Tbl.wf (fun _ => none) s.m.dev.caps = true ∧ s.m.dev.ctx c.target = some x ∧ x.kind = .capture ∧ s.m.dev.cap x.stream = some cap ∧ s.Runs sq cid 0x4A c ∧ cap.stop = none ∧ cap.run = .armed ∧ cap.start = none) ∧
    (∃ (s : State) (sq : Nat) (cid : Nat) (c : Cmd) (x : Ctx) (cap : Cap) (n : _), Tbl.wf (fun _ => none) s.m.dev.caps = true ∧ s.m.dev.ctx c.target = some x ∧ x.kind = .capture ∧ s.m.dev.cap x.stream = some cap ∧ s.Runs sq cid 0x4A c ∧ cap.stop = none ∧ cap.run = .running ∧ cap.draining = false ∧ n = (if 1 ≤ s.m.dev.ticksTo (c.dw 0) ∧ s.m.dev.ticksTo (c.dw 0) ≤ 2 ^ 31 then c.dw 0 else (s.m.dev.tick.now + 1) % 2 ^ 32)) ∧
    (∃ (s : State) (p : Nat) (x : _) (r : List LinkMsg) (n : _), s.Live ∧ Tbl.wf (fun _ => none) s.m.dev.caps = true ∧ takeMsg p 8 s.m.dev.link.inbox = some (x, r) ∧ s.m.dev.boot.role = 2 ∧ s.m.dev.link.enumerated = true ∧ n = rd x.body 0 4) ∧
    (∃ (s : State) (p : Nat) (x : _) (r : List LinkMsg), s.Live ∧ Tbl.wf (fun _ => none) s.m.dev.caps = true ∧ takeMsg p 9 s.m.dev.link.inbox = some (x, r) ∧ s.m.dev.boot.role = 1) ∧
    (∃ (s : State) (p : Nat), s.Live ∧ Tbl.wf (fun _ => none) s.m.dev.caps = true) :=
  ⟨⟨(withCmd (capAt up ({ ctx := 1 } : Cap)) (cmdAt 0x48 1 0 0 [] : Cmd) : State), (1 : Nat), (7 : Nat), (cmdAt 0x48 1 0 0 [] : Cmd), ({ kind := .capture } : Ctx), ({ ctx := 1 } : Cap), by decide +kernel, by decide +kernel, by decide +kernel, by decide +kernel, And.intro (And.intro rfl rfl) (And.intro rfl (And.intro rfl rfl)), by decide +kernel⟩,
    ⟨(withCmd (capAt up ({ ctx := 1, run := .armed } : Cap)) (cmdAt 0x49 1 0 0 [7, 0] : Cmd) : State), (1 : Nat), (7 : Nat), (cmdAt 0x49 1 0 0 [7, 0] : Cmd), ({ kind := .capture } : Ctx), ({ ctx := 1, run := .armed } : Cap), by decide +kernel, by decide +kernel, by decide +kernel, by decide +kernel, And.intro (And.intro rfl rfl) (And.intro rfl (And.intro rfl rfl)), by decide +kernel, by decide +kernel, by decide +kernel, by decide +kernel⟩,
    ⟨(withCmd (capAt up ({ ctx := 1, run := .armed } : Cap)) (cmdAt 0x49 1 0 0 [5, 0] : Cmd) : State), (1 : Nat), (7 : Nat), (cmdAt 0x49 1 0 0 [5, 0] : Cmd), ({ kind := .capture } : Ctx), ({ ctx := 1, run := .armed } : Cap), by decide +kernel, by decide +kernel, by decide +kernel, by decide +kernel, And.intro (And.intro rfl rfl) (And.intro rfl (And.intro rfl rfl)), by decide +kernel, by decide +kernel, by decide +kernel, by decide +kernel, by decide +kernel⟩,
    ⟨(withCmd (capAt up ({ ctx := 1, run := .armed } : Cap)) (cmdAt 0x4A 1 0 0 [9, 0] : Cmd) : State), (1 : Nat), (7 : Nat), (cmdAt 0x4A 1 0 0 [9, 0] : Cmd), ({ kind := .capture } : Ctx), ({ ctx := 1, run := .armed } : Cap), by decide +kernel, by decide +kernel, by decide +kernel, by decide +kernel, And.intro (And.intro rfl rfl) (And.intro rfl (And.intro rfl rfl)), by decide +kernel, by decide +kernel, by decide +kernel⟩,
    ⟨(withCmd (capAt up ({ ctx := 1, run := .running } : Cap)) (cmdAt 0x4A 1 0 0 [5, 0] : Cmd) : State), (1 : Nat), (7 : Nat), (cmdAt 0x4A 1 0 0 [5, 0] : Cmd), ({ kind := .capture } : Ctx), ({ ctx := 1, run := .running } : Cap), (6), by decide +kernel, by decide +kernel, by decide +kernel, by decide +kernel, And.intro (And.intro rfl rfl) (And.intro rfl (And.intro rfl rfl)), by decide +kernel, by decide +kernel, by decide +kernel, by decide +kernel⟩,
    ⟨(capAt (msgAt (onD (roled 2) fun d => { d with link := { d.link with enumerated := true, id := 2 } }) 0 8 (msg 0 8 [9, 0, 0, 0, 1, 0, 0, 0]).body) { ctx := 1, run := .armed } : State), (0 : Nat), (msg 0 8 [9, 0, 0, 0, 1, 0, 0, 0]), ([] : List LinkMsg), (9), And.intro rfl rfl, by decide +kernel, by decide +kernel, by decide +kernel, by decide +kernel, by decide +kernel⟩,
    ⟨(msgAt (onD (roled 1) fun d => { d with link := { d.link with bcast := [{ token := 1, n := 9, sq := 1, cid := 7 }] } }) 3 9 (msg 3 9 [1, 0, 1, 0, 0, 0, 0, 0]).body : State), (3 : Nat), (msg 3 9 [1, 0, 1, 0, 0, 0, 0, 0]), ([] : List LinkMsg), And.intro rfl rfl, by decide +kernel, by decide +kernel, by decide +kernel⟩,
    ⟨(capAt up (cap0 (work0 (List.replicate 16 .absent))) : State), (0 : Nat), And.intro rfl rfl, by decide +kernel⟩⟩

theorem wit_Ticks :
    (∃ (s : State) (k : TickUnit), s.Live ∧ s.m.dev.Shape ∧ s.m.dev.tick = k ∧ s.m.dev.boot.state = .fwStart ∧ k.running = false) ∧
    (∃ (s : State) (k : TickUnit), s.Live ∧ s.m.dev.Shape ∧ s.m.dev.tick = k ∧ k.running = true ∧ k.mode = .schedule) ∧
    (∃ (s : State) (k : TickUnit) (st : _) (cap : Cap) (sq : _) (cid : _), s.Live ∧ s.m.dev.Shape ∧ s.m.dev.tick = k ∧ k.running = true ∧ k.mode = .schedule ∧ Tbl.wf (fun _ => none) s.m.dev.caps = true ∧ s.m.dev.cap st = some cap ∧ cap.run = .armed ∧ cap.draining = false ∧ cap.start = some (k.nextNo, sq, cid) ∧ ((∀ p, p < 2 → (s.m.dev.mag p).mounted = false))) ∧
    (∃ (s : State) (k : TickUnit) (x : TickMsg) (r : List TickMsg), s.Live ∧ s.m.dev.Shape ∧ s.m.dev.tick = k ∧ k.running = true ∧ k.mode ≠ .schedule ∧ k.msgs = x :: r ∧ s.m.dev.tickSource = 3) ∧
    (∃ (s : State) (k : TickUnit) (t0 : _), s.Live ∧ s.m.dev.Shape ∧ s.m.dev.tick = k ∧ k.outAt = some t0) :=
  ⟨⟨(onD up fun d => { d with boot := { d.boot with state := .fwStart } } : State), ({} : TickUnit), And.intro rfl rfl, by unfold Dev.Shape; decide +kernel, by decide +kernel, by decide +kernel, by decide +kernel⟩,
    ⟨(onD up fun d => { d with tick := ({ running := true } : TickUnit) } : State), ({ running := true } : TickUnit), And.intro rfl rfl, by unfold Dev.Shape; decide +kernel, by decide +kernel, by decide +kernel, by decide +kernel⟩,
    ⟨(capAt (onD up fun d => { d with tick := { d.tick with now := 5 } }) ({ ctx := 1, run := .armed, start := some (6, 1, 7) } : Cap) : State), ({ running := true, begun := true, now := 5 } : TickUnit), (0), ({ ctx := 1, run := .armed, start := some (6, 1, 7) } : Cap), (1), (7), And.intro rfl rfl, by unfold Dev.Shape; decide +kernel, by decide +kernel, by decide +kernel, by decide +kernel, by decide +kernel, by decide +kernel, by decide +kernel, by decide +kernel, by decide +kernel, by decide +kernel⟩,
    ⟨(regAt (onD (roled 2) fun d => { d with tick := ({ running := true, mode := .messages, following := true, msgs := [({ n := 0, t := 2 ^ 32, rateN := 24, rateD := 1 } : TickMsg)] } : TickUnit) }) 0x01 0x100 3 : State), ({ running := true, mode := .messages, following := true, msgs := [({ n := 0, t := 2 ^ 32, rateN := 24, rateD := 1 } : TickMsg)] } : TickUnit), ({ n := 0, t := 2 ^ 32, rateN := 24, rateD := 1 } : TickMsg), ([] : List TickMsg), And.intro rfl rfl, by unfold Dev.Shape; decide +kernel, by decide +kernel, by decide +kernel, by decide +kernel, by decide +kernel, by decide +kernel⟩,
    ⟨(onD up fun d => { d with tick := ({ running := true, outAt := some 0 } : TickUnit) } : State), ({ running := true, outAt := some 0 } : TickUnit), (0), And.intro rfl rfl, by unfold Dev.Shape; decide +kernel, by decide +kernel, by decide +kernel⟩⟩

theorem wit_TickEdges :
    (∃ (s : State) (k : TickUnit) (dt : Nat) (d : Dev), s.Live ∧ s.m.dev.tick = k ∧ k.running = true ∧ k.begun = true ∧ s.m.dev.tickSource = 1 ∧ d = s.m.dev.advance dt ∧ d.bounces = false ∧ k.mode = .edges ∧ d.inWindow d.sdt 999 1001 = .eq) ∧
    (∃ (s : State) (k : TickUnit) (dt : Nat) (d : Dev), s.Live ∧ s.m.dev.tick = k ∧ k.running = true ∧ k.begun = true ∧ s.m.dev.tickSource = 1 ∧ d = s.m.dev.advance dt ∧ d.bounces = false ∧ k.mode = .edges ∧ d.inWindow d.sdt 999 1001 = .lt) ∧
    (∃ (s : State) (k : TickUnit) (dt : Nat) (d : Dev), s.Live ∧ s.m.dev.tick = k ∧ k.running = true ∧ k.begun = true ∧ s.m.dev.tickSource = 1 ∧ d = s.m.dev.advance dt ∧ d.bounces = false ∧ k.mode = .holdover ∧ k.countedAt = 0) ∧
    (∃ (s : State) (k : TickUnit) (dt : Nat) (d : Dev), s.Live ∧ s.m.dev.tick = k ∧ k.running = true ∧ k.begun = true ∧ s.m.dev.tickSource = 1 ∧ d = s.m.dev.advance dt ∧ d.bounces = true) ∧
    (∃ (s : State) (k : TickUnit) (dt : Nat) (d : Dev), s.Live ∧ s.m.dev.tick = k ∧ k.running = true ∧ k.begun = true ∧ s.m.dev.tickSource = 1 ∧ d = s.m.dev.advance dt ∧ k.mode = .edges ∧ k.holdover = false) ∧
    (∃ (s : State) (k : TickUnit) (dt : Nat) (d : Dev), s.Live ∧ s.m.dev.tick = k ∧ k.running = true ∧ k.begun = true ∧ s.m.dev.tickSource = 1 ∧ d = s.m.dev.advance dt ∧ k.mode = .holdover ∧ k.holdover = true) :=
  ⟨⟨(regAt (onD up fun d => { d with tick := ({ running := true, begun := true, mode := .edges, prev := 0 } : TickUnit) }) 0x01 0x100 1 : State), ({ running := true, begun := true, mode := .edges, prev := 0 } : TickUnit), (41666667 : Nat), ((regAt (onD up fun d => { d with tick := ({ running := true, begun := true, mode := .edges, prev := 0 } : TickUnit) }) 0x01 0x100 1 : State).m.dev.advance (41666667 : Nat) : Dev), And.intro rfl rfl, by decide +kernel, by decide +kernel, by decide +kernel, by decide +kernel, by decide +kernel, by decide +kernel, by decide +kernel, by decide +kernel⟩,
    ⟨(regAt (onD up fun d => { d with tick := ({ running := true, begun := true, mode := .edges, prev := 0 } : TickUnit) }) 0x01 0x100 1 : State), ({ running := true, begun := true, mode := .edges, prev := 0 } : TickUnit), (41624999 : Nat), ((regAt (onD up fun d => { d with tick := ({ running := true, begun := true, mode := .edges, prev := 0 } : TickUnit) }) 0x01 0x100 1 : State).m.dev.advance (41624999 : Nat) : Dev), And.intro rfl rfl, by decide +kernel, by decide +kernel, by decide +kernel, by decide +kernel, by decide +kernel, by decide +kernel, by decide +kernel, by decide +kernel⟩,
    ⟨(regAt (onD up fun d => { d with tick := ({ running := true, begun := true, mode := .holdover, holdover := true, prev := 0 } : TickUnit) }) 0x01 0x100 1 : State), ({ running := true, begun := true, mode := .holdover, holdover := true, prev := 0 } : TickUnit), (41624999 : Nat), ((regAt (onD up fun d => { d with tick := ({ running := true, begun := true, mode := .holdover, holdover := true, prev := 0 } : TickUnit) }) 0x01 0x100 1 : State).m.dev.advance (41624999 : Nat) : Dev), And.intro rfl rfl, by decide +kernel, by decide +kernel, by decide +kernel, by decide +kernel, by decide +kernel, by decide +kernel, by decide +kernel, by decide +kernel⟩,
    ⟨(regAt (onD up fun d => { d with tick := ({ running := true, begun := true, mode := .edges, acceptedAt := 1 } : TickUnit) }) 0x01 0x100 1 : State), ({ running := true, begun := true, mode := .edges, acceptedAt := 1 } : TickUnit), (100 : Nat), ((regAt (onD up fun d => { d with tick := ({ running := true, begun := true, mode := .edges, acceptedAt := 1 } : TickUnit) }) 0x01 0x100 1 : State).m.dev.advance (100 : Nat) : Dev), And.intro rfl rfl, by decide +kernel, by decide +kernel, by decide +kernel, by decide +kernel, by decide +kernel, by decide +kernel⟩,
    ⟨(regAt (onD up fun d => { d with tick := ({ running := true, begun := true, mode := .edges } : TickUnit) }) 0x01 0x100 1 : State), ({ running := true, begun := true, mode := .edges } : TickUnit), (0 : Nat), ((regAt (onD up fun d => { d with tick := ({ running := true, begun := true, mode := .edges } : TickUnit) }) 0x01 0x100 1 : State).m.dev.advance (0 : Nat) : Dev), And.intro rfl rfl, by decide +kernel, by decide +kernel, by decide +kernel, by decide +kernel, by decide +kernel, by decide +kernel, by decide +kernel⟩,
    ⟨(regAt (onD up fun d => { d with tick := ({ running := true, begun := true, mode := .holdover, holdover := true } : TickUnit) }) 0x01 0x100 1 : State), ({ running := true, begun := true, mode := .holdover, holdover := true } : TickUnit), (0 : Nat), ((regAt (onD up fun d => { d with tick := ({ running := true, begun := true, mode := .holdover, holdover := true } : TickUnit) }) 0x01 0x100 1 : State).m.dev.advance (0 : Nat) : Dev), And.intro rfl rfl, by decide +kernel, by decide +kernel, by decide +kernel, by decide +kernel, by decide +kernel, by decide +kernel, by decide +kernel⟩⟩

theorem wit_TickMessages :
    (∃ (s : State) (k : TickUnit) (p : Nat), s.Live ∧ s.m.dev.Shape ∧ s.m.dev.tick = k ∧ k.running = true ∧ s.m.dev.boot.role = 1 ∧ k.mode = .schedule ∧ k.sent ≠ k.nextNo + 1) ∧
    (∃ (s : State) (k : TickUnit) (p : Nat) (g : _) (r : List LinkMsg) (x : TickMsg), s.Live ∧ s.m.dev.Shape ∧ s.m.dev.tick = k ∧ k.running = true ∧ s.m.dev.tickSource = 3 ∧ takeMsg p 6 s.m.dev.link.inbox = some (g, r) ∧ x = { n := rd g.body 0 4, t := rd g.body 4 8, rateN := rd g.body 12 2, rateD := rd g.body 14 2 } ∧ x.t < g.at_) ∧
    (∃ (s : State) (k : TickUnit) (p : Nat) (g : _) (r : List LinkMsg) (x : TickMsg), s.Live ∧ s.m.dev.Shape ∧ s.m.dev.tick = k ∧ k.running = true ∧ s.m.dev.tickSource = 3 ∧ takeMsg p 6 s.m.dev.link.inbox = some (g, r) ∧ x = { n := rd g.body 0 4, t := rd g.body 4 8, rateN := rd g.body 12 2, rateD := rd g.body 14 2 } ∧ g.at_ ≤ x.t ∧ k.following = true ∧ k.begun = true ∧ k.msgs = [] ∧ x.n = (k.now + 1) % 2 ^ 32 ∧ x.rateN = k.rateN ∧ x.rateD = k.rateD ∧ k.prev + 2 ^ 32 * (999 * x.rateD) / (1000 * max 1 x.rateN) ≤ x.t ∧ x.t ≤ k.prev + 2 ^ 32 * (2000 * x.rateD) / (1000 * max 1 x.rateN)) ∧
    (∃ (s : State) (k : TickUnit) (p : Nat), s.Live ∧ s.m.dev.Shape ∧ s.m.dev.tick = k ∧ k.running = true ∧ k.begun = true ∧ s.m.dev.tickSource = 3 ∧ k.msgs = [] ∧ k.mode ≠ .holdover ∧ k.following = true) ∧
    (∃ (s : State) (k : TickUnit) (p : Nat), s.Live ∧ s.m.dev.Shape ∧ s.m.dev.tick = k ∧ k.running = true ∧ k.begun = true ∧ s.m.dev.tickSource = 3 ∧ k.msgs = [] ∧ k.mode = .holdover ∧ k.following = false) :=
  ⟨⟨(onD (roled 1) fun d => { d with tick := ({ running := true, begun := true } : TickUnit) } : State), ({ running := true, begun := true } : TickUnit), (0 : Nat), And.intro rfl rfl, by unfold Dev.Shape; decide +kernel, by decide +kernel, by decide +kernel, by decide +kernel, by decide +kernel, by decide +kernel⟩,
    ⟨(regAt (msgAt (onD (roled 2) fun d => { d with tick := ({ running := true } : TickUnit) }) 0 6 (msg 0 6 (leBytes 4 0 ++ leBytes 8 99 ++ leBytes 2 24 ++ leBytes 2 1)).body) 0x01 0x100 3 : State), ({ running := true } : TickUnit), (0 : Nat), (msg 0 6 (leBytes 4 0 ++ leBytes 8 99 ++ leBytes 2 24 ++ leBytes 2 1)), ([] : List LinkMsg), ({ n := 0, t := 99, rateN := 24, rateD := 1 } : TickMsg), And.intro rfl rfl, by unfold Dev.Shape; decide +kernel, by decide +kernel, by decide +kernel, by decide +kernel, by decide +kernel, by decide +kernel, by decide +kernel⟩,
    ⟨(regAt (msgAt (onD (roled 2) fun d => { d with tick := ({ running := true, begun := true, following := true, mode := .messages, now := 4 } : TickUnit) }) 0 6 (msg 0 6 (leBytes 4 5 ++ leBytes 8 178778013 ++ leBytes 2 24 ++ leBytes 2 1)).body) 0x01 0x100 3 : State), ({ running := true, begun := true, following := true, mode := .messages, now := 4 } : TickUnit), (0 : Nat), (msg 0 6 (leBytes 4 5 ++ leBytes 8 178778013 ++ leBytes 2 24 ++ leBytes 2 1)), ([] : List LinkMsg), ({ n := 5, t := 178778013, rateN := 24, rateD := 1 } : TickMsg), And.intro rfl rfl, by unfold Dev.Shape; decide +kernel, by decide +kernel, by decide +kernel, by decide +kernel, by decide +kernel, by decide +kernel, by decide +kernel, by decide +kernel, by decide +kernel, by decide +kernel, by decide +kernel, by decide +kernel, by decide +kernel, by decide +kernel, by decide +kernel⟩,
    ⟨(regAt (onD (roled 2) fun d => { d with tick := ({ running := true, begun := true, following := true, mode := .messages } : TickUnit) }) 0x01 0x100 3 : State), ({ running := true, begun := true, following := true, mode := .messages } : TickUnit), (0 : Nat), And.intro rfl rfl, by unfold Dev.Shape; decide +kernel, by decide +kernel, by decide +kernel, by decide +kernel, by decide +kernel, by decide +kernel, by decide +kernel, by decide +kernel⟩,
    ⟨(regAt (onD (roled 2) fun d => { d with tick := ({ running := true, begun := true, mode := .holdover, holdover := true } : TickUnit) }) 0x01 0x100 3 : State), ({ running := true, begun := true, mode := .holdover, holdover := true } : TickUnit), (0 : Nat), And.intro rfl rfl, by unfold Dev.Shape; decide +kernel, by decide +kernel, by decide +kernel, by decide +kernel, by decide +kernel, by decide +kernel, by decide +kernel, by decide +kernel⟩⟩

theorem wit_ProxyPictures :
    (∃ (s : State) (f : DevFrame) (w : _) (tk : _) (b : Band), s.Live ∧ s.m.dev.Shape ∧ s.m.dev.proxy.outs.length = 3 ∧ (s.m.dev.proxy.frames.Pairwise (fun a b => a.stream ≠ b.stream ∨ a.frame ≠ b.frame)) ∧ s.m.dev.proxy.frames.find? (fun f => !f.whole && !f.skipped) = some f ∧ s.m.dev.work f.stream f.frame = some w ∧ ((∀ c, s.m.dev.cap f.stream = some c → c.works.Pairwise (fun a b => a.frame ≠ b.frame))) ∧ w.readOrder.find? (fun r => !(f.read.any (fun e => decide (e.1 = 1024 * r.1 + r.2)))) = some tk ∧ s.m.dev.takesWork 7 = true ∧ (w.band tk.1 tk.2).staged = true ∧ (w.band tk.1 tk.2).hold = true) ∧
    (∃ (s : State) (o : _) (dt : _) (d : _) (f : DevFrame), s.Live ∧ s.m.dev.Shape ∧ s.m.dev.proxy.outs.length = 3 ∧ (s.m.dev.proxy.frames.Pairwise (fun a b => a.stream ≠ b.stream ∨ a.frame ≠ b.frame)) ∧ o < 2 ∧ d = s.m.dev.advance dt ∧ s.m.dev.nextFor o = some f ∧ f.skipped = false ∧ f.whole = true ∧ s.m.dev.takesWork 6 = true ∧ s.m.dev.outOn o = true ∧ s.m.dev.sourceRuns f.stream = true) ∧
    (∃ (s : State) (o : _) (f : DevFrame), s.Live ∧ s.m.dev.Shape ∧ s.m.dev.proxy.outs.length = 3 ∧ (s.m.dev.proxy.frames.Pairwise (fun a b => a.stream ≠ b.stream ∨ a.frame ≠ b.frame)) ∧ o < 2 ∧ s.m.dev.nextFor o = some f ∧ f.skipped = true) ∧
    (∃ (s : State) (f : DevFrame), s.Live ∧ s.m.dev.Shape ∧ s.m.dev.proxy.outs.length = 3 ∧ (s.m.dev.proxy.frames.Pairwise (fun a b => a.stream ≠ b.stream ∨ a.frame ≠ b.frame)) ∧ s.m.dev.nextFor 2 = some f ∧ ((f.whole = true ∨ f.skipped = true)) ∧ s.m.dev.takesWork 6 = true ∧ s.m.dev.outOn 2 = true ∧ s.m.dev.sourceRuns f.stream = true) :=
  ⟨⟨(onD (bandAt up ({ rows := List.replicate 16 .whole, hold := true } : Band)) fun d => { d with proxy := { d.proxy with frames := [({ stream := 0, frame := 5, stamp := zeros 16, at_ := 0, index := 0, settings := {}, cfa := 1, depth := 12, height := 16, tileW := [64], outs := [0] } : DevFrame)] } } : State), ({ stream := 0, frame := 5, stamp := zeros 16, at_ := 0, index := 0, settings := {}, cfa := 1, depth := 12, height := 16, tileW := [64], outs := [0] } : DevFrame), (workOf ({ rows := List.replicate 16 .whole, hold := true } : Band)), ((0, 0)), ({ rows := List.replicate 16 .whole, hold := true } : Band), And.intro rfl rfl, by unfold Dev.Shape; decide +kernel, by decide +kernel, by decide +kernel, by decide +kernel, by decide +kernel, by decide +kernel, by decide +kernel, by decide +kernel, by decide +kernel, by decide +kernel⟩,
    ⟨(onD (regAt (capAt up (cap0 (work0 []))) 0x17 0x140 0x80000000) fun d => { d with ctxs := [(1, some { kind := .capture }), (2, some { kind := .proxy, params := [0, 2] ++ zeros 62 })], proxy := { d.proxy with frames := [({ stream := 0, frame := 5, stamp := zeros 16, at_ := 0, index := 0, settings := {}, cfa := 1, depth := 12, height := 16, tileW := [64], outs := [1], whole := true, read := [(0, List.replicate 1024 9)] } : DevFrame)] } } : State), (1), (5), ((onD (regAt (capAt up (cap0 (work0 []))) 0x17 0x140 0x80000000) fun d => { d with ctxs := [(1, some { kind := .capture }), (2, some { kind := .proxy, params := [0, 2] ++ zeros 62 })], proxy := { d.proxy with frames := [({ stream := 0, frame := 5, stamp := zeros 16, at_ := 0, index := 0, settings := {}, cfa := 1, depth := 12, height := 16, tileW := [64], outs := [1], whole := true, read := [(0, List.replicate 1024 9)] } : DevFrame)] } } : State).m.dev.advance (5)), ({ stream := 0, frame := 5, stamp := zeros 16, at_ := 0, index := 0, settings := {}, cfa := 1, depth := 12, height := 16, tileW := [64], outs := [1], whole := true, read := [(0, List.replicate 1024 9)] } : DevFrame), And.intro rfl rfl, by unfold Dev.Shape; decide +kernel, by decide +kernel, by decide +kernel, by decide +kernel, by decide +kernel, by decide +kernel, by decide +kernel, by decide +kernel, by decide +kernel, by decide +kernel, by decide +kernel⟩,
    ⟨(onD up fun d => { d with proxy := { d.proxy with frames := [({ stream := 0, frame := 5, stamp := zeros 16, at_ := 0, index := 0, settings := {}, cfa := 1, depth := 12, height := 16, tileW := [64], outs := [1], skipped := true } : DevFrame)] } } : State), (1), ({ stream := 0, frame := 5, stamp := zeros 16, at_ := 0, index := 0, settings := {}, cfa := 1, depth := 12, height := 16, tileW := [64], outs := [1], skipped := true } : DevFrame), And.intro rfl rfl, by unfold Dev.Shape; decide +kernel, by decide +kernel, by decide +kernel, by decide +kernel, by decide +kernel, by decide +kernel⟩,
    ⟨(onD (regAt (capAt up (cap0 (work0 []))) 0x17 0x180 0x80000000) fun d => { d with ctxs := [(1, some { kind := .capture }), (2, some { kind := .proxy, params := [0, 4] ++ zeros 62 })], proxy := { d.proxy with frames := [({ stream := 0, frame := 5, stamp := zeros 16, at_ := 0, index := 0, settings := {}, cfa := 1, depth := 12, height := 16, tileW := [64], outs := [2], skipped := true } : DevFrame)] } } : State), ({ stream := 0, frame := 5, stamp := zeros 16, at_ := 0, index := 0, settings := {}, cfa := 1, depth := 12, height := 16, tileW := [64], outs := [2], skipped := true } : DevFrame), And.intro rfl rfl, by unfold Dev.Shape; decide +kernel, by decide +kernel, by decide +kernel, by decide +kernel, by decide +kernel, by decide +kernel, by decide +kernel, by decide +kernel⟩⟩

theorem wit_DeliveryAndPlayback :
    (∃ (s : State) (k : Nat) (v : Delivery) (x : ProxyDest), s.Live ∧ s.m.dev.Shape ∧ s.m.dev.proxy.deliveries.find? (fun v => v.dests.any (fun x => decide (x.code = k))) = some v ∧ v.dests.find? (fun x => decide (x.code = k)) = some x ∧ s.m.dev.destHeld v k = false) ∧
    (∃ (s : State) (sq : _) (cid : _) (c : _) (ctx : Ctx) (pl : Play) (bytes : List Byte) (gaps : List (Nat × Nat)), s.m.dev.Shape ∧ s.Runs sq cid 0x60 c ∧ s.m.dev.ctx c.target = some ctx ∧ ctx.kind = .playback ∧ ((∀ k ∈ s.m.dev.host.cmds, k.opcode = 0x60 → k.sq = sq ∧ k.cid = cid)) ∧ ((∀ p ∈ s.m.dev.codec.plays, p.sq ≠ sq ∨ p.cid ≠ cid)) ∧ pl = { ctx := c.target, sq := sq, cid := cid } ∧ c.dw 0 % 4 = 2 ∧ c.dw 3 % 65536 = 1 ∧ ((c.dataKind = 1 ∨ c.dataKind = 2)) ∧ s.m.playBytes pl c = some (bytes, gaps)) ∧
    (∃ (s : State) (sq : _) (cid : _) (c : _) (ctx : Ctx) (pl : Play), s.m.dev.Shape ∧ s.Runs sq cid 0x60 c ∧ s.m.dev.ctx c.target = some ctx ∧ ctx.kind = .playback ∧ ((∀ k ∈ s.m.dev.host.cmds, k.opcode = 0x60 → k.sq = sq ∧ k.cid = cid)) ∧ ((∀ p ∈ s.m.dev.codec.plays, p.sq ≠ sq ∨ p.cid ≠ cid)) ∧ pl = { ctx := c.target, sq := sq, cid := cid } ∧ c.dw 0 % 4 = 0 ∧ c.dw 3 % 65536 ≠ 0 ∧ (s.m.dev.mag (bits (c.dw 0) 8 1)).mounted = false) ∧
    (∃ (s : State) (e : _) (pl : Play) (f : PlayFrame) (r : BandRef), s.m.dev.Shape ∧ s.Live ∧ s.m.dev.mirFree e = true ∧ (s.m.dev.mirE e).play = none ∧ (∀ x ∈ s.m.dev.codec.mir, x.play = none) ∧ (s.m.dev.codec.plays.Pairwise (fun a b => a.sq ≠ b.sq ∨ a.cid ≠ b.cid)) ∧ s.m.dev.playWaiting = some (pl, r) ∧ pl.cur = some f) :=
  ⟨⟨(onD up fun d => { d with proxy := { d.proxy with deliveries := [({ out := 0, frame := 5, at_ := 0, idr := false, pool := 3, bufs := [], parts := [], dests := [.ring 9] } : Delivery)] } } : State), (2 : Nat), ({ out := 0, frame := 5, at_ := 0, idr := false, pool := 3, bufs := [], parts := [], dests := [.ring 9] } : Delivery), (.ring 9 : ProxyDest), And.intro rfl rfl, by unfold Dev.Shape; decide +kernel, by decide +kernel, by decide +kernel, by decide +kernel⟩,
    ⟨(withCmd (onD up fun d => { d with ctxs := [(5, some ({ kind := .playback } : Ctx))] }) (cmdAt 0x60 5 0x4000 4096 [2, 0, 0, 1, 0x8000, 0, 0, 0]) : State), (1), (7), (cmdAt 0x60 5 0x4000 4096 [2, 0, 0, 1, 0x8000, 0, 0, 0]), ({ kind := .playback } : Ctx), ({ ctx := 5, sq := 1, cid := 7 } : Play), (((withCmd (onD up fun d => { d with ctxs := [(5, some ({ kind := .playback } : Ctx))] }) (cmdAt 0x60 5 0x4000 4096 [2, 0, 0, 1, 0x8000, 0, 0, 0]) : State).m.playBytes { ctx := 5, sq := 1, cid := 7 } (cmdAt 0x60 5 0x4000 4096 [2, 0, 0, 1, 0x8000, 0, 0, 0])).getD ([], []) |>.1 : List Byte), ([] : List (Nat × Nat)), by unfold Dev.Shape; decide +kernel, And.intro (And.intro rfl rfl) (And.intro rfl (And.intro rfl rfl)), by decide +kernel, by decide +kernel, by decide +kernel, by decide +kernel, by decide +kernel, by decide +kernel, by decide +kernel, by decide +kernel, by decide +kernel⟩,
    ⟨(withCmd (onD up fun d => { d with ctxs := [(5, some ({ kind := .playback } : Ctx))] }) (cmdAt 0x60 5 0x4000 4096 [256, 0, 0, 1]) : State), (1), (7), (cmdAt 0x60 5 0x4000 4096 [256, 0, 0, 1]), ({ kind := .playback } : Ctx), ({ ctx := 5, sq := 1, cid := 7 } : Play), by unfold Dev.Shape; decide +kernel, And.intro (And.intro rfl rfl) (And.intro rfl (And.intro rfl rfl)), by decide +kernel, by decide +kernel, by decide +kernel, by decide +kernel, by decide +kernel, by decide +kernel, by decide +kernel, by decide +kernel⟩,
    ⟨(regAt (onD up fun d => { d with codec := { d.codec with plays := [({ ctx := 5, sq := 1, cid := 7, cur := some ({ wanted := true, bytes := [], head := ({ frame := 0, stamp := zeros 16, width := 64, height := 16, cfa := 1, depth := 12, mode := 3, tileW := [64] } : FrameHead), pos := 0, found := some { band := 0, tile := 0, eclipse := true, rows := 16, check := 0 } } : PlayFrame) } : Play)] } }) 0x16 0x00C 1 : State), (0), ({ ctx := 5, sq := 1, cid := 7, cur := some ({ wanted := true, bytes := [], head := ({ frame := 0, stamp := zeros 16, width := 64, height := 16, cfa := 1, depth := 12, mode := 3, tileW := [64] } : FrameHead), pos := 0, found := some { band := 0, tile := 0, eclipse := true, rows := 16, check := 0 } } : PlayFrame) } : Play), ({ wanted := true, bytes := [], head := ({ frame := 0, stamp := zeros 16, width := 64, height := 16, cfa := 1, depth := 12, mode := 3, tileW := [64] } : FrameHead), pos := 0, found := some { band := 0, tile := 0, eclipse := true, rows := 16, check := 0 } } : PlayFrame), ({ stream := 5, frame := 0, tile := 0, band := 0 } : BandRef), by unfold Dev.Shape; decide +kernel, And.intro rfl rfl, by decide +kernel, by decide +kernel, by decide +kernel, by decide +kernel, by decide +kernel, by decide +kernel⟩⟩

theorem wit_FeatureBlocks :
    (∃ (s : State) (sq : Nat) (cid : Nat) (c : Cmd) (feat : Nat) (off : Nat) (len : Nat) (w : FeatWrite), s.m.dev.Shape ∧ feat = c.dw 0 % 256 ∧ off = c.dw 1 ∧ len = c.dataLen ∧ blockLen feat ≠ 0 ∧ off % 4 = 0 ∧ len % 4 = 0 ∧ off + len ≤ blockLen feat ∧ s.m.mem.dataOk c len = true ∧ s.Runs sq cid 0x06 c ∧ w = { off := off, data := (wordsOf (s.m.mem.dataIn c len) (len / 4)).map (fun x => x.toNat) } ∧ s.m.dev.refuses (s.m.dev.written feat w) feat w = true) ∧
    (∃ (s : State) (sq : Nat) (cid : Nat) (c : Cmd) (feat : Nat) (off : Nat) (len : Nat) (w : FeatWrite) (st : _), s.m.dev.Shape ∧ feat = c.dw 0 % 256 ∧ off = c.dw 1 ∧ len = c.dataLen ∧ blockLen feat ≠ 0 ∧ off % 4 = 0 ∧ len % 4 = 0 ∧ off + len ≤ blockLen feat ∧ s.m.mem.dataOk c len = true ∧ s.Runs sq cid 0x06 c ∧ w = { off := off, data := (wordsOf (s.m.mem.dataIn c len) (len / 4)).map (fun x => x.toNat) } ∧ s.m.dev.refuses (s.m.dev.written feat w) feat w = false ∧ s.m.dev.deniesWrite (s.m.dev.written feat w) feat w = some st) ∧
    (∃ (s : State) (sq : Nat) (cid : Nat) (c : Cmd) (feat : Nat) (off : Nat) (len : Nat) (w : FeatWrite), s.m.dev.Shape ∧ feat = c.dw 0 % 256 ∧ off = c.dw 1 ∧ len = c.dataLen ∧ blockLen feat ≠ 0 ∧ off % 4 = 0 ∧ len % 4 = 0 ∧ off + len ≤ blockLen feat ∧ s.m.mem.dataOk c len = true ∧ s.Runs sq cid 0x06 c ∧ w = { off := off, data := (wordsOf (s.m.mem.dataIn c len) (len / 4)).map (fun x => x.toNat) } ∧ s.m.dev.refuses (s.m.dev.written feat w) feat w = false ∧ s.m.dev.deniesWrite (s.m.dev.written feat w) feat w = none ∧ feat ∉ [0x01, 0x10, 0x16, 0x18, 0x19, 0x1F, 0x21, 0x22]) ∧
    (∃ (s : State) (sq : Nat) (cid : Nat) (c : Cmd) (feat : Nat) (off : Nat) (len : Nat), s.m.dev.Shape ∧ feat = c.dw 0 % 256 ∧ off = c.dw 1 ∧ len = c.dataLen ∧ blockLen feat ≠ 0 ∧ off % 4 = 0 ∧ len % 4 = 0 ∧ off + len ≤ blockLen feat ∧ s.m.mem.dataOk c len = true ∧ s.Runs sq cid 0x07 c ∧ feat ≠ 0x18) :=
  ⟨⟨(withCmd (hostAt up 0x4000 (leBytes 4 0xFFFFFFFF)) (cmdAt 0x06 0 0x4000 4 [0x01, 0x00C] : Cmd) : State), (1 : Nat), (7 : Nat), (cmdAt 0x06 0 0x4000 4 [0x01, 0x00C] : Cmd), (0x01 : Nat), (0x00C : Nat), (4 : Nat), ({ off := (0x00C : Nat), data := [0xFFFFFFFF] } : FeatWrite), by unfold Dev.Shape; decide +kernel, by decide +kernel, by decide +kernel, by decide +kernel, by decide +kernel, by decide +kernel, by decide +kernel, by decide +kernel, by decide +kernel, And.intro (And.intro rfl rfl) (And.intro rfl (And.intro rfl rfl)), by decide +kernel, by decide +kernel⟩,
    ⟨(withCmd (capAt (hostAt up 0x4000 (leBytes 4 0x100)) (cap0 (work0 []))) (cmdAt 0x06 0 0x4000 4 [0x15, 0] : Cmd) : State), (1 : Nat), (7 : Nat), (cmdAt 0x06 0 0x4000 4 [0x15, 0] : Cmd), (0x15 : Nat), (0 : Nat), (4 : Nat), ({ off := (0 : Nat), data := [0x100] } : FeatWrite), (0), by unfold Dev.Shape; decide +kernel, by decide +kernel, by decide +kernel, by decide +kernel, by decide +kernel, by decide +kernel, by decide +kernel, by decide +kernel, by decide +kernel, And.intro (And.intro rfl rfl) (And.intro rfl (And.intro rfl rfl)), by decide +kernel, by decide +kernel, by decide +kernel⟩,
    ⟨(withCmd up (cmdAt 0x06 0 0x4000 4 [0x15, 0] : Cmd) : State), (1 : Nat), (7 : Nat), (cmdAt 0x06 0 0x4000 4 [0x15, 0] : Cmd), (0x15 : Nat), (0 : Nat), (4 : Nat), ({ off := (0 : Nat), data := [0] } : FeatWrite), by unfold Dev.Shape; decide +kernel, by decide +kernel, by decide +kernel, by decide +kernel, by decide +kernel, by decide +kernel, by decide +kernel, by decide +kernel, by decide +kernel, And.intro (And.intro rfl rfl) (And.intro rfl (And.intro rfl rfl)), by decide +kernel, by decide +kernel, by decide +kernel, by decide +kernel⟩,
    ⟨(withCmd up (cmdAt 0x07 0 0x4000 4 [0x01, 0x00C] : Cmd) : State), (1 : Nat), (7 : Nat), (cmdAt 0x07 0 0x4000 4 [0x01, 0x00C] : Cmd), (0x01 : Nat), (0x00C : Nat), (4 : Nat), by unfold Dev.Shape; decide +kernel, by decide +kernel, by decide +kernel, by decide +kernel, by decide +kernel, by decide +kernel, by decide +kernel, by decide +kernel, by decide +kernel, And.intro (And.intro rfl rfl) (And.intro rfl (And.intro rfl rfl)), by decide +kernel⟩⟩

theorem wit_AbortsAndLogs :
    (∃ (s : State) (sq : Nat) (cid : Nat) (c : Cmd) (k : _), s.Runs sq cid 0x09 c ∧ (s.m.dev.sq c.target).isSome = true ∧ s.m.dev.cmd c.target (c.dw 0 % 65536) = some k ∧ k.opcode ≠ 0x09 ∧ ((k.phase = .fetched ∨ k.phase = .started))) ∧
    (∃ (s : State) (sq : Nat) (cid : Nat) (c : Cmd) (k : _), s.Runs sq cid 0x09 c ∧ (s.m.dev.sq c.target).isSome = true ∧ s.m.dev.cmd c.target (c.dw 0 % 65536) = some k ∧ k.opcode = 0x08 ∧ k.phase = .running) ∧
    (∃ (s : State) (sq : Nat) (cid : Nat) (c : Cmd), s.Runs sq cid 0x09 c ∧ (s.m.dev.sq c.target).isSome = true ∧ s.m.dev.cmd c.target (c.dw 0 % 65536) = none) ∧
    (∃ (s : State) (sq : Nat) (cid : Nat) (c : Cmd), s.Runs sq cid 0x00 c ∧ 4096 ≤ c.dataLen ∧ s.m.mem.dataOk c 4096 = true) ∧
    (∃ (s : State) (sq : Nat) (cid : Nat) (c : Cmd) (recs : List (List Byte)) (lost : _) (disc : _), s.Runs sq cid 0x05 c ∧ s.m.logPage (c.dw 0 % 256) = some (recs, lost, disc) ∧ c.dw 1 % 64 = 0 ∧ s.m.mem.dataOk c c.dataLen = true) ∧
    (∃ (s : State) (sq : Nat) (cid : Nat) (c : Cmd), s.Runs sq cid 0x05 c ∧ s.m.logPage (c.dw 0 % 256) = none) :=
  ⟨⟨(withCmd (withCmd (queues up) (cmdAt 0x09 1 0 0 [8] : Cmd)) ({ cmdAt 0x00 0 0x4000 4096 [] with cid := 8 }) : State), (1 : Nat), (7 : Nat), (cmdAt 0x09 1 0 0 [8] : Cmd), ({ cmdAt 0x00 0 0x4000 4096 [] with cid := 8 }), And.intro (And.intro rfl rfl) (And.intro rfl (And.intro rfl rfl)), by decide +kernel, by decide +kernel, by decide +kernel, by decide +kernel⟩,
    ⟨(onH (withCmd (withCmd (queues up) (cmdAt 0x09 1 0 0 [8] : Cmd)) ({ cmdAt 0x08 0 0 0 [] with cid := 8, phase := .running })) fun h => { h with aer := [8] } : State), (1 : Nat), (7 : Nat), (cmdAt 0x09 1 0 0 [8] : Cmd), ({ cmdAt 0x08 0 0 0 [] with cid := 8, phase := .running }), And.intro (And.intro rfl rfl) (And.intro rfl (And.intro rfl rfl)), by decide +kernel, by decide +kernel, by decide +kernel, by decide +kernel⟩,
    ⟨(withCmd (queues up) (cmdAt 0x09 1 0 0 [8] : Cmd) : State), (1 : Nat), (7 : Nat), (cmdAt 0x09 1 0 0 [8] : Cmd), And.intro (And.intro rfl rfl) (And.intro rfl (And.intro rfl rfl)), by decide +kernel, by decide +kernel⟩,
    ⟨(withCmd up (cmdAt 0x00 0 0x4000 4096 [] : Cmd) : State), (1 : Nat), (7 : Nat), (cmdAt 0x00 0 0x4000 4096 [] : Cmd), And.intro (And.intro rfl rfl) (And.intro rfl (And.intro rfl rfl)), by decide +kernel, by decide +kernel⟩,
    ⟨(withCmd up (cmdAt 0x05 0 0x4000 4096 [1, 64] : Cmd) : State), (1 : Nat), (7 : Nat), (cmdAt 0x05 0 0x4000 4096 [1, 64] : Cmd), ([] : List (List Byte)), (0), (0), And.intro (And.intro rfl rfl) (And.intro rfl (And.intro rfl rfl)), by decide +kernel, by decide +kernel, by decide +kernel⟩,
    ⟨(withCmd up (cmdAt 0x05 0 0x4000 4096 [0, 0] : Cmd) : State), (1 : Nat), (7 : Nat), (cmdAt 0x05 0 0x4000 4096 [0, 0] : Cmd), And.intro (And.intro rfl rfl) (And.intro rfl (And.intro rfl rfl)), by decide +kernel⟩⟩

theorem wit_Firmware :
    (∃ (s : State) (sq : Nat) (cid : Nat) (c : Cmd), s.Runs sq cid 0x10 c ∧ 4 ≤ c.dataLen ∧ c.dataLen ≤ 4194304 ∧ c.dw 0 + c.dataLen ≤ 33554369 ∧ s.m.mem.dataOk c c.dataLen = true) ∧
    (∃ (s : State) (sq : Nat) (cid : Nat) (c : Cmd) (img : _), s.Runs sq cid 0x11 c ∧ c.dw 0 % 4 = 0 ∧ s.m.dev.stagedImage = some img) ∧
    (∃ (s : State) (sq : Nat) (cid : Nat) (c : Cmd) (img : _), s.Runs sq cid 0x11 c ∧ c.dw 0 % 4 = 1 ∧ s.m.dev.stagedImage = some img ∧ s.m.dev.anyCapture = false) ∧
    (∃ (s : State) (sq : Nat) (cid : Nat) (c : Cmd) (img : _), s.Runs sq cid 0x11 c ∧ c.dw 0 % 4 = 1 ∧ s.m.dev.stagedImage = some img ∧ s.m.dev.anyCapture = true) ∧
    (∃ (s : State) (sq : Nat) (cid : Nat) (c : Cmd), s.Runs sq cid 0x11 c ∧ c.dw 0 % 4 = 2 ∧ s.m.dev.boot.state ≠ .twilight ∧ s.m.dev.otp.floor < s.m.dev.boot.secVersion) ∧
    (∃ (s : State) (sq : Nat) (cid : Nat) (c : Cmd), s.Runs sq cid 0x11 c ∧ c.dw 0 % 4 = 2 ∧ s.m.dev.boot.state ≠ .twilight ∧ s.m.dev.boot.secVersion ≤ s.m.dev.otp.floor) :=
  ⟨⟨(withCmd up (cmdAt 0x10 0 0x4000 4 [33554365] : Cmd) : State), (1 : Nat), (7 : Nat), (cmdAt 0x10 0 0x4000 4 [33554365] : Cmd), And.intro (And.intro rfl rfl) (And.intro rfl (And.intro rfl rfl)), by decide +kernel, by decide +kernel, by decide +kernel, by decide +kernel⟩,
    ⟨(withCmd (onD up fun d => { d with staged := some [] }) (cmdAt 0x11 0 0 0 [0] : Cmd) : State), (1 : Nat), (7 : Nat), (cmdAt 0x11 0 0 0 [0] : Cmd), (zeros 449), And.intro (And.intro rfl rfl) (And.intro rfl (And.intro rfl rfl)), by decide +kernel, by decide +kernel⟩,
    ⟨(withCmd (onD up fun d => { d with staged := some [] }) (cmdAt 0x11 0 0 0 [1] : Cmd) : State), (1 : Nat), (7 : Nat), (cmdAt 0x11 0 0 0 [1] : Cmd), (zeros 449), And.intro (And.intro rfl rfl) (And.intro rfl (And.intro rfl rfl)), by decide +kernel, by decide +kernel, by decide +kernel⟩,
    ⟨(withCmd (capAt (onD up fun d => { d with staged := some [] }) (cap0 (work0 []))) (cmdAt 0x11 0 0 0 [1] : Cmd) : State), (1 : Nat), (7 : Nat), (cmdAt 0x11 0 0 0 [1] : Cmd), (zeros 449), And.intro (And.intro rfl rfl) (And.intro rfl (And.intro rfl rfl)), by decide +kernel, by decide +kernel, by decide +kernel⟩,
    ⟨(withCmd (onD up fun d => { d with boot := { d.boot with secVersion := 1 } }) (cmdAt 0x11 0 0 0 [2] : Cmd) : State), (1 : Nat), (7 : Nat), (cmdAt 0x11 0 0 0 [2] : Cmd), And.intro (And.intro rfl rfl) (And.intro rfl (And.intro rfl rfl)), by decide +kernel, by decide +kernel, by decide +kernel⟩,
    ⟨(withCmd up (cmdAt 0x11 0 0 0 [2] : Cmd) : State), (1 : Nat), (7 : Nat), (cmdAt 0x11 0 0 0 [2] : Cmd), And.intro (And.intro rfl rfl) (And.intro rfl (And.intro rfl rfl)), by decide +kernel, by decide +kernel, by decide +kernel⟩⟩

theorem wit_TickSourceByRole :
    (∃ (s : State) (sq : Nat) (cid : Nat) (c : Cmd) (v : Nat), s.Runs sq cid 0x06 c ∧ s.m.dev.Shape ∧ c.dw 0 % 256 = 0x01 ∧ c.dw 1 = 0x100 ∧ c.dataLen = 4 ∧ s.m.mem.dataOk c 4 = true ∧ v = leNat (s.m.mem.dataIn c 4) ∧ s.m.dev.boot.role = 2 ∧ v % 8 ≠ 3) ∧
    (∃ (s : State) (sq : Nat) (cid : Nat) (c : Cmd) (v : Nat), s.Runs sq cid 0x06 c ∧ s.m.dev.Shape ∧ c.dw 0 % 256 = 0x01 ∧ c.dw 1 = 0x100 ∧ c.dataLen = 4 ∧ s.m.mem.dataOk c 4 = true ∧ v = leNat (s.m.mem.dataIn c 4) ∧ s.m.dev.boot.role ≠ 2 ∧ v % 8 = 3) ∧
    (∃ (s : State) (sq : Nat) (cid : Nat) (c : Cmd) (v : Nat), s.Runs sq cid 0x06 c ∧ s.m.dev.Shape ∧ c.dw 0 % 256 = 0x01 ∧ c.dw 1 = 0x100 ∧ c.dataLen = 4 ∧ s.m.mem.dataOk c 4 = true ∧ v = leNat (s.m.mem.dataIn c 4) ∧ s.m.dev.anyCapture = false ∧ ((s.m.dev.boot.role = 1 → ∀ x ∈ s.m.dev.link.workers, x.armed = 0)) ∧ ((if s.m.dev.boot.role = 2 then v % 8 = 3 else v % 8 = 0 ∨ v % 8 = 1 ∨ v % 8 = 2 ∧ (s.m.dev.discipline = 1 ∨ s.m.dev.discipline = 2)))) :=
  ⟨⟨(withCmd (hostAt (roled 2) 0x4000 (leBytes 4 1)) (cmdAt 0x06 0 0x4000 4 [0x01, 0x100] : Cmd) : State), (1 : Nat), (7 : Nat), (cmdAt 0x06 0 0x4000 4 [0x01, 0x100] : Cmd), (1 : Nat), And.intro (And.intro rfl rfl) (And.intro rfl (And.intro rfl rfl)), by unfold Dev.Shape; decide +kernel, by decide +kernel, by decide +kernel, by decide +kernel, by decide +kernel, by decide +kernel, by decide +kernel, by decide +kernel⟩,
    ⟨(withCmd (hostAt (roled 1) 0x4000 (leBytes 4 3)) (cmdAt 0x06 0 0x4000 4 [0x01, 0x100] : Cmd) : State), (1 : Nat), (7 : Nat), (cmdAt 0x06 0 0x4000 4 [0x01, 0x100] : Cmd), (3 : Nat), And.intro (And.intro rfl rfl) (And.intro rfl (And.intro rfl rfl)), by unfold Dev.Shape; decide +kernel, by decide +kernel, by decide +kernel, by decide +kernel, by decide +kernel, by decide +kernel, by decide +kernel, by decide +kernel⟩,
    ⟨(withCmd (hostAt (roled 2) 0x4000 (leBytes 4 3)) (cmdAt 0x06 0 0x4000 4 [0x01, 0x100] : Cmd) : State), (1 : Nat), (7 : Nat), (cmdAt 0x06 0 0x4000 4 [0x01, 0x100] : Cmd), (3 : Nat), And.intro (And.intro rfl rfl) (And.intro rfl (And.intro rfl rfl)), by unfold Dev.Shape; decide +kernel, by decide +kernel, by decide +kernel, by decide +kernel, by decide +kernel, by decide +kernel, by decide +kernel, by decide +kernel, by decide +kernel⟩⟩

theorem wit_BlackboxReads :
    (∃ (s : State) (sq : Nat) (cid : Nat) (c : Cmd) (ecc : List (Nat × Bool)), s.Runs sq cid 0x21 c ∧ c.dw 0 ≤ 131071 ∧ 0 < c.dw 1 ∧ c.dw 0 + c.dw 1 ≤ 131072 ∧ 64 * c.dw 1 ≤ c.dataLen ∧ s.m.mem.dataOk c (64 * c.dw 1) = true ∧ ((ecc = [] ∨ s.m.dev.host.aer = []))) ∧
    (∃ (s : State) (sq : Nat) (cid : Nat) (c : Cmd) (ecc : List (Nat × Bool)), s.Runs sq cid 0x21 c ∧ ((131071 < c.dw 0 ∨ c.dw 1 = 0 ∨ 131072 < c.dw 0 + c.dw 1))) :=
  ⟨⟨(withCmd up (cmdAt 0x21 0 0x4000 64 [131071, 1] : Cmd) : State), (1 : Nat), (7 : Nat), (cmdAt 0x21 0 0x4000 64 [131071, 1] : Cmd), ([] : List (Nat × Bool)), And.intro (And.intro rfl rfl) (And.intro rfl (And.intro rfl rfl)), by decide +kernel, by decide +kernel, by decide +kernel, by decide +kernel, by decide +kernel, by decide +kernel⟩,
    ⟨(withCmd up (cmdAt 0x21 0 0x4000 64 [131071, 2] : Cmd) : State), (1 : Nat), (7 : Nat), (cmdAt 0x21 0 0x4000 64 [131071, 2] : Cmd), ([] : List (Nat × Bool)), And.intro (And.intro rfl rfl) (And.intro rfl (And.intro rfl rfl)), by decide +kernel⟩⟩

end Sys2Proof.Tests
end

section
/-! The scope of the model: what holds of every step, and what the reset state holds. -/

namespace Sys2Proof.Machine
open Sys2Proof

/-! ### Every step -/

/-- Every command is framed: each keeps the shape of the device, the canonical form of the memories and the waiting commands,
lets crystal time run forward only, and stops nowhere but in the state of R580. -/
theorem exec_framed (c : Instr) (s : State) : ∃ dp mp, Framed dp mp s (exec c s) :=
  match c with
  | .tick => ⟨_, _, execTick_framed s⟩
  | .tickUnitStart => ⟨_, _, execTickUnitStart_framed s⟩
  | .tickInEdge dt => ⟨_, _, execTickInEdge_framed dt s⟩
  | .substituteTick => ⟨_, _, execSubstituteTick_framed s⟩
  | .tablesReady j dt => ⟨_, _, execTablesReady_framed j dt s⟩
  | .deadlineGuard n => ⟨_, _, execDeadlineGuard_framed n s⟩
  | .laneBlock k slot block => ⟨_, _, execLaneBlock_framed k slot block s⟩
  | .sof g vc counter => ⟨_, _, execSof_framed g vc counter s⟩
  | .sol g => ⟨_, _, execSol_framed g s⟩
  | .eol g => ⟨_, _, execEol_framed g s⟩
  | .eof g vc => ⟨_, _, execEof_framed g vc s⟩
  | .csi2LongPacket g vc dt ecc crcOk payload => ⟨_, _, execCsi2LongPacket_framed g vc dt ecc crcOk payload s⟩
  | .csi2LineStart g vc number => ⟨_, _, execCsi2LineStart_framed g vc number s⟩
  | .stageSegment => ⟨_, _, execStageSegment_framed s⟩
  | .attemptStart e => ⟨_, _, execAttemptStart_framed e s⟩
  | .queueFull e dt => ⟨_, _, execQueueFull_framed e dt s⟩
  | .bqRoomResume e => ⟨_, _, execBqRoomResume_framed e s⟩
  | .measureDone e dt ce => ⟨_, _, execMeasureDone_framed e dt ce s⟩
  | .codePassDone e dt ce => ⟨_, _, execCodePassDone_framed e dt ce s⟩
  | .eclipsePassStart e => ⟨_, _, execEclipsePassStart_framed e s⟩
  | .eclipsePassDone e dt => ⟨_, _, execEclipsePassDone_framed e dt s⟩
  | .verifyDone e dt segFail flips ecc => ⟨_, _, execVerifyDone_framed e dt segFail flips ecc s⟩
  | .guardSwitch j n t => ⟨_, _, execGuardSwitch_framed j n t s⟩
  | .pxeParity e => ⟨_, _, execPxeParity_framed e s⟩
  | .bqUncorrectable e ce => ⟨_, _, execBqUncorrectable_framed e ce s⟩
  | .entParity e => ⟨_, _, execEntParity_framed e s⟩
  | .eclipseFault e => ⟨_, _, execEclipseFault_framed e s⟩
  | .mirFault e => ⟨_, _, execMirFault_framed e s⟩
  | .engineStall unit e => ⟨_, _, execEngineStall_framed unit e s⟩
  | .engineResetDone unit e dt => ⟨_, _, execEngineResetDone_framed unit e dt s⟩
  | .capacityRecompute => ⟨_, _, execCapacityRecompute_framed s⟩
  | .playbackBand e dt => ⟨_, _, execPlaybackBand_framed e dt s⟩
  | .developBand => ⟨_, _, execDevelopBand_framed s⟩
  | .hevcPicture o dt ring flow0 flow1 want sets timing slices => ⟨_, _, execHevcPicture_framed o dt ring flow0 flow1 want sets timing slices s⟩
  | .monitorPicture flow0 flow1 => ⟨_, _, execMonitorPicture_framed flow0 flow1 s⟩
  | .multicastDeliver k => ⟨_, _, execMulticastDeliver_framed k s⟩
  | .seqDispatch t par => ⟨_, _, execSeqDispatch_framed t par s⟩
  | .cont t par => ⟨_, _, execCont_framed t par s⟩
  | .jump t par => ⟨_, _, execJump_framed t par s⟩
  | .brNeg t par => ⟨_, _, execBrNeg_framed t par s⟩
  | .brZero t par => ⟨_, _, execBrZero_framed t par s⟩
  | .brCond t par => ⟨_, _, execBrCond_framed t par s⟩
  | .call t par => ⟨_, _, execCall_framed t par s⟩
  | .ret t par => ⟨_, _, execRet_framed t par s⟩
  | .seqEnd t par => ⟨_, _, execSeqEnd_framed t par s⟩
  | .waitRelease t => ⟨_, _, execWaitRelease_framed t s⟩
  | .seqTimerExpire t => ⟨_, _, execSeqTimerExpire_framed t s⟩
  | .handlerForcedEnd t => ⟨_, _, execHandlerForcedEnd_framed t s⟩
  | .seqHostEvent v => ⟨_, _, execSeqHostEvent_framed v s⟩
  | .cellTransfer input output cls owner addr write bytes ecc => ⟨_, _, execCellTransfer_framed input output cls owner addr write bytes ecc s⟩
  | .reseqGap input output cls => ⟨_, _, execReseqGap_framed input output cls s⟩
  | .egressGrant egr => ⟨_, _, execEgressGrant_framed egr s⟩
  | .poolRequest size cls owner port dests => ⟨_, _, execPoolRequest_framed size cls owner port dests s⟩
  | .poolFree ptr owner port => ⟨_, _, execPoolFree_framed ptr owner port s⟩
  | .auditEpochEnd => ⟨_, _, execAuditEpochEnd_framed s⟩
  | .magPresentNChange p low carrier => ⟨_, _, execMagPresentNChange_framed p low carrier s⟩
  | .magPresent p => ⟨_, _, execMagPresent_framed p s⟩
  | .magRemoved p => ⟨_, _, execMagRemoved_framed p s⟩
  | .chunkCheck str bad => ⟨_, _, execChunkCheck_framed str bad s⟩
  | .stripeProgram p => ⟨_, _, execStripeProgram_framed p s⟩
  | .flushTimeout p => ⟨_, _, execFlushTimeout_framed p s⟩
  | .programDone p die dt fail => ⟨_, _, execProgramDone_framed p die dt fail s⟩
  | .eraseDone p dt fail => ⟨_, _, execEraseDone_framed p dt fail s⟩
  | .statusTimeout p die dt => ⟨_, _, execStatusTimeout_framed p die dt s⟩
  | .codewordRead p ppa c step bits => ⟨_, _, execCodewordRead_framed p ppa c step bits s⟩
  | .relocateBlock p => ⟨_, _, execRelocateBlock_framed p s⟩
  | .retentionScan p found => ⟨_, _, execRetentionScan_framed p found s⟩
  | .checkpoint p => ⟨_, _, execCheckpoint_framed p s⟩
  | .powerOnReset role bootSrc testEn => ⟨_, _, execPowerOnReset_framed role bootSrc testEn s⟩
  | .externalReset low role bootSrc testEn => ⟨_, _, execExternalReset_framed low role bootSrc testEn s⟩
  | .internalReset => ⟨_, _, execInternalReset_framed s⟩
  | .pcieReset perst low => ⟨_, _, execPcieReset_framed perst low s⟩
  | .powerLoss port => ⟨_, _, execPowerLoss_framed port s⟩
  | .supplyOutOfRange => ⟨_, _, execSupplyOutOfRange_framed s⟩
  | .bootRomStart train1 train2 gib ranks badA badB => ⟨_, _, execBootRomStart_framed train1 train2 gib ranks badA badB s⟩
  | .bootWatchdogExpiry => ⟨_, _, execBootWatchdogExpiry_framed s⟩
  | .readyTimeout => ⟨_, _, execReadyTimeout_framed s⟩
  | .ready => ⟨_, _, execReady_framed s⟩
  | .load readOk => ⟨_, _, execLoad_framed readOk s⟩
  | .reboot => ⟨_, _, execReboot_framed s⟩
  | .twilightEnter => ⟨_, _, execTwilightEnter_framed s⟩
  | .bbxRead => ⟨_, _, execBbxRead_framed s⟩
  | .echo k => ⟨_, _, execEcho_framed k s⟩
  | .badAccess => ⟨_, _, execBadAccess_framed s⟩
  | .bar0RcRead off => ⟨_, _, execBar0RcRead_framed off s⟩
  | .sdtNowLowRead => ⟨_, _, execSdtNowLowRead_framed s⟩
  | .sqTailDoorbell q t => ⟨_, _, execSqTailDoorbell_framed q t s⟩
  | .cqHeadDoorbell q h => ⟨_, _, execCqHeadDoorbell_framed q h s⟩
  | .adminEnable => ⟨_, _, execAdminEnable_framed s⟩
  | .adminDisable => ⟨_, _, execAdminDisable_framed s⟩
  | .sqFetch admin => ⟨_, _, execSqFetch_framed admin s⟩
  | .completionPost => ⟨_, _, execCompletionPost_framed s⟩
  | .cqAggTimeout q => ⟨_, _, execCqAggTimeout_framed q s⟩
  | .identify sq cid => ⟨_, _, execIdentify_framed sq cid s⟩
  | .createSq sq cid => ⟨_, _, execCreateSq_framed sq cid s⟩
  | .createCq sq cid => ⟨_, _, execCreateCq_framed sq cid s⟩
  | .deleteSq sq cid => ⟨_, _, execDeleteSq_framed sq cid s⟩
  | .deleteCq sq cid => ⟨_, _, execDeleteCq_framed sq cid s⟩
  | .getLog sq cid => ⟨_, _, execGetLog_framed sq cid s⟩
  | .setFeature sq cid => ⟨_, _, execSetFeature_framed sq cid s⟩
  | .getFeature sq cid => ⟨_, _, execGetFeature_framed sq cid s⟩
  | .asyncEventRequest sq cid => ⟨_, _, execAsyncEventRequest_framed sq cid s⟩
  | .abort sq cid => ⟨_, _, execAbort_framed sq cid s⟩
  | .fwLoad sq cid => ⟨_, _, execFwLoad_framed sq cid s⟩
  | .write sq cid readback => ⟨_, _, execWrite_framed sq cid readback s⟩
  | .writeAndActivate sq cid readback => ⟨_, _, execWriteAndActivate_framed sq cid readback s⟩
  | .raiseFloor sq cid => ⟨_, _, execRaiseFloor_framed sq cid s⟩
  | .ucodeLoad sq cid => ⟨_, _, execUcodeLoad_framed sq cid s⟩
  | .step sq cid => ⟨_, _, execStep_framed sq cid s⟩
  | .slew sq cid => ⟨_, _, execSlew_framed sq cid s⟩
  | .powerSetOff sq cid => ⟨_, _, execPowerSetOff_framed sq cid s⟩
  | .powerSetOn sq cid => ⟨_, _, execPowerSetOn_framed sq cid s⟩
  | .quiesceDone k dt => ⟨_, _, execQuiesceDone_framed k dt s⟩
  | .quiesceTimeout k => ⟨_, _, execQuiesceTimeout_framed k s⟩
  | .faultClear sq cid => ⟨_, _, execFaultClear_framed sq cid s⟩
  | .blackboxRead sq cid ecc => ⟨_, _, execBlackboxRead_framed sq cid ecc s⟩
  | .blackboxClear sq cid => ⟨_, _, execBlackboxClear_framed sq cid s⟩
  | .constellationEnum sq cid => ⟨_, _, execConstellationEnum_framed sq cid s⟩
  | .constellationSeverity sq cid => ⟨_, _, execConstellationSeverity_framed sq cid s⟩
  | .contextCreate sq cid => ⟨_, _, execContextCreate_framed sq cid s⟩
  | .contextDestroy sq cid => ⟨_, _, execContextDestroy_framed sq cid s⟩
  | .captureArm sq cid => ⟨_, _, execCaptureArm_framed sq cid s⟩
  | .captureStartAtTick sq cid => ⟨_, _, execCaptureStartAtTick_framed sq cid s⟩
  | .captureStopAtTick sq cid => ⟨_, _, execCaptureStopAtTick_framed sq cid s⟩
  | .clipOpen sq cid => ⟨_, _, execClipOpen_framed sq cid s⟩
  | .clipClose sq cid => ⟨_, _, execClipClose_framed sq cid s⟩
  | .clipDelete sq cid => ⟨_, _, execClipDelete_framed sq cid s⟩
  | .magMount sq cid found => ⟨_, _, execMagMount_framed sq cid found s⟩
  | .magUnmount sq cid => ⟨_, _, execMagUnmount_framed sq cid s⟩
  | .magFormat sq cid => ⟨_, _, execMagFormat_framed sq cid s⟩
  | .magScan sq cid found => ⟨_, _, execMagScan_framed sq cid found s⟩
  | .playbackDecode sq cid => ⟨_, _, execPlaybackDecode_framed sq cid s⟩
  | .readUnits sq cid steps => ⟨_, _, execReadUnits_framed sq cid steps s⟩
  | .dmaRun sq cid => ⟨_, _, execDmaRun_framed sq cid s⟩
  | .bufReclaim sq cid => ⟨_, _, execBufReclaim_framed sq cid s⟩
  | .dmaMove ch ecc => ⟨_, _, execDmaMove_framed ch ecc s⟩
  | .dmaFill ch => ⟨_, _, execDmaFill_framed ch s⟩
  | .dmaCmp ch ecc => ⟨_, _, execDmaCmp_framed ch ecc s⟩
  | .dmaLoop ch => ⟨_, _, execDmaLoop_framed ch s⟩
  | .dmaWait ch => ⟨_, _, execDmaWait_framed ch s⟩
  | .dmaEventRelease v => ⟨_, _, execDmaEventRelease_framed v s⟩
  | .waitTimeout ch => ⟨_, _, execWaitTimeout_framed ch s⟩
  | .dmaSignal ch => ⟨_, _, execDmaSignal_framed ch s⟩
  | .dmaEnd ch => ⟨_, _, execDmaEnd_framed ch s⟩
  | .dmaArm ch v => ⟨_, _, execDmaArm_framed ch v s⟩
  | .dmaEventSet mask => ⟨_, _, execDmaEventSet_framed mask s⟩
  | .dramScrub c found => ⟨_, _, execDramScrub_framed c found s⟩
  | .mr4Read c codes => ⟨_, _, execMr4Read_framed c codes s⟩
  | .ppsInEdge dt => ⟨_, _, execPpsInEdge_framed dt s⟩
  | .ppsOutSecond => ⟨_, _, execPpsOutSecond_framed s⟩
  | .ptpSync e dt seqId t1 twoStep => ⟨_, _, execPtpSync_framed e dt seqId t1 twoStep s⟩
  | .ptpAnnounce e dt a => ⟨_, _, execPtpAnnounce_framed e dt a s⟩
  | .ptpDelayReq e dt seqId => ⟨_, _, execPtpDelayReq_framed e dt seqId s⟩
  | .ptpDelayResp e dt seqId t4 => ⟨_, _, execPtpDelayResp_framed e dt seqId t4 s⟩
  | .announceTimeout e dt => ⟨_, _, execAnnounceTimeout_framed e dt s⟩
  | .timeUnlockTimeout => ⟨_, _, execTimeUnlockTimeout_framed s⟩
  | .ethFrameRx e fcsOk frame => ⟨_, _, execEthFrameRx_framed e fcsOk frame s⟩
  | .ethFrameTx e => ⟨_, _, execEthFrameTx_framed e s⟩
  | .shaperRefill => ⟨_, _, execShaperRefill_framed s⟩
  | .gateIntervalEnd e => ⟨_, _, execGateIntervalEnd_framed e s⟩
  | .gclActivate e => ⟨_, _, execGclActivate_framed e s⟩
  | .ethGclCommit e => ⟨_, _, execEthGclCommit_framed e s⟩
  | .shaperReset k => ⟨_, _, execShaperReset_framed k s⟩
  | .portDown e localFault remoteFault blockLock => ⟨_, _, execPortDown_framed e localFault remoteFault blockLock s⟩
  | .portUp e => ⟨_, _, execPortUp_framed e s⟩
  | .ethHoldExpiry e => ⟨_, _, execEthHoldExpiry_framed e s⟩
  | .lanesAligned p => ⟨_, _, execLanesAligned_framed p s⟩
  | .linkInitSend p => ⟨_, _, execLinkInitSend_framed p s⟩
  | .linkInit p => ⟨_, _, execLinkInit_framed p s⟩
  | .linkLoss p why lanes => ⟨_, _, execLinkLoss_framed p why lanes s⟩
  | .linkHoldExpiry p => ⟨_, _, execLinkHoldExpiry_framed p s⟩
  | .miswiredRetry p => ⟨_, _, execMiswiredRetry_framed p s⟩
  | .flitRx p raw => ⟨_, _, execFlitRx_framed p raw s⟩
  | .replayTimeout p => ⟨_, _, execReplayTimeout_framed p s⟩
  | .enum p => ⟨_, _, execEnum_framed p s⟩
  | .enumDone p => ⟨_, _, execEnumDone_framed p s⟩
  | .enumEntry p => ⟨_, _, execEnumEntry_framed p s⟩
  | .enumTimeout p => ⟨_, _, execEnumTimeout_framed p s⟩
  | .reassign p => ⟨_, _, execReassign_framed p s⟩
  | .tickBroadcast => ⟨_, _, execTickBroadcast_framed s⟩
  | .tickMessage p => ⟨_, _, execTickMessage_framed p s⟩
  | .workerSubstituteTick => ⟨_, _, execWorkerSubstituteTick_framed s⟩
  | .state p => ⟨_, _, execState_framed p s⟩
  | .start p => ⟨_, _, execStart_framed p s⟩
  | .startAck p => ⟨_, _, execStartAck_framed p s⟩
  | .severity p => ⟨_, _, execSeverity_framed p s⟩
  | .severityAck p => ⟨_, _, execSeverityAck_framed p s⟩
  | .severityTimeout => ⟨_, _, execSeverityTimeout_framed s⟩
  | .fault p => ⟨_, _, execFault_framed p s⟩
  | .ffRead p => ⟨_, _, execFfRead_framed p s⟩
  | .ffData p => ⟨_, _, execFfData_framed p s⟩
  | .relayEnable e v => ⟨_, _, execRelayEnable_framed e v s⟩
  | .relayAdmit p => ⟨_, _, execRelayAdmit_framed p s⟩
  | .relayGrant p => ⟨_, _, execRelayGrant_framed p s⟩
  | .timeFlitSend p => ⟨_, _, execTimeFlitSend_framed p s⟩
  | .sync p => ⟨_, _, execSync_framed p s⟩
  | .req p => ⟨_, _, execReq_framed p s⟩
  | .resp p => ⟨_, _, execResp_framed p s⟩
  | .faultStatusClear j v => ⟨_, _, execFaultStatusClear_framed j v s⟩
  | .wdogService k => ⟨_, _, execWdogService_framed k s⟩
  | .wdogWarning k => ⟨_, _, execWdogWarning_framed k s⟩
  | .wdogExpiry k => ⟨_, _, execWdogExpiry_framed k s⟩
  | .twinkleToggle => ⟨_, _, execTwinkleToggle_framed s⟩
  | .twinkleResume => ⟨_, _, execTwinkleResume_framed s⟩
  | .intSourceFire id line => ⟨_, _, execIntSourceFire_framed id line s⟩
  | .intClaim core => ⟨_, _, execIntClaim_framed core s⟩
  | .intComplete core id nothing => ⟨_, _, execIntComplete_framed core id nothing s⟩
  | .intHostAck id => ⟨_, _, execIntHostAck_framed id s⟩
  | .hostSourceEnable id en prio => ⟨_, _, execHostSourceEnable_framed id en prio s⟩
  | .bbxEntryWrite => ⟨_, _, execBbxEntryWrite_framed s⟩
  | .tempSample celsius => ⟨_, _, execTempSample_framed celsius s⟩
  | .registerWrite bar2 off qword v => ⟨_, _, execRegisterWrite_framed bar2 off qword v s⟩
  | .attemptComplete e dt => ⟨_, _, execAttemptComplete_framed e dt s⟩
  | .pcieLinkUp rise dt => ⟨_, _, execPcieLinkUp_framed rise dt s⟩
  | .ptpFollowUp e dt seqId t1 => ⟨_, _, execPtpFollowUp_framed e dt seqId t1 s⟩
  | .ptpIntervalExpiry e dt kind => ⟨_, _, execPtpIntervalExpiry_framed e dt kind s⟩
  | .slewEnd => ⟨_, _, execSlewEnd_framed s⟩
  | .pcieAerError uncorrectable status => ⟨_, _, execPcieAerError_framed uncorrectable status s⟩
  | .controlSramError uncorrectable addr => ⟨_, _, execControlSramError_framed uncorrectable addr s⟩
  | .intSrcSetting id v => ⟨_, _, execIntSrcSetting_framed id v s⟩
  | .coreSleep k => ⟨_, _, execCoreSleep_framed k s⟩
  | .tickOutFall => ⟨_, _, execTickOutFall_framed s⟩
  | .ppsOutFall => ⟨_, _, execPpsOutFall_framed s⟩

/-- A framed command that answers a next state keeps the shape of the device. -/
theorem Framed.shape {dp mp : Nat} {s t : State} (h : Framed dp mp s (.next t)) : s.m.dev.Shape → t.m.dev.Shape := h.1.shape

/-- A framed command that answers a next state does not turn the crystal time back. -/
theorem Framed.clk_le {dp mp : Nat} {s t : State} (h : Framed dp mp s (.next t)) : s.m.dev.clk ≤ t.m.dev.clk := h.1.clk

/-- A nanosecond of idling changes no more than the crystal time, the sidereal counter and what settles. -/
theorem idle_framed (s : State) : Framed (setOf ([.clk, .sid] ++ settled)) (setOf []) s (.next (idle s)) := by
  unfold idle
  split
  · exact framed_same _ _ s
  · exact framed_next (Dev.settle_tame (by decide) (Dev.advance_tame (by decide) (.refl _ _) 1)) (.refl _ _)

/-- A step is framed, whether a command runs or the queue is empty; what waits then is the rest of the queue. -/
theorem step_framed (s : State) : ∃ dp mp, Framed dp mp { s with pending := s.pending.tail } (step s) := by
  obtain ⟨m, p⟩ := s
  cases p with
  | nil => exact ⟨_, _, idle_framed { m := m, pending := [] }⟩
  | cons c r => exact exec_framed c { m := m, pending := r }

/-- Settles O6: each command, and a nanosecond of idling, is framed, which carries both halves. -/
theorem shapeStays : Obligations.ShapeStays := by
  intro s t hst
  obtain ⟨dp, mp, h⟩ := step_framed s
  rw [hst] at h
  exact ⟨h.shape, h.clk_le⟩

/-! ### The reset state -/

/-- Settles O2, part by part: each is read off the defaults of the units. -/
theorem resetState : Obligations.ResetState := by
  have live : State.reset.Live := ⟨rfl, rfl⟩
  have shape : State.reset.m.dev.Shape := ⟨by decide, rfl, rfl, rfl, rfl, rfl, rfl⟩
  have mounted : ∀ p, p < 2 → (State.reset.m.dev.mag p).mounted = false := by decide
  exact ⟨rfl, live, rfl, shape, fun _ _ => rfl, rfl, rfl, rfl, rfl, rfl, rfl, rfl, mounted, rfl, rfl, rfl, rfl⟩

end Sys2Proof.Machine
end

section
/-! Accesses of BAR0 (R9, R390, R391, R492) and the SQ tail doorbell (R403 to R406). -/

namespace Sys2Proof.Machine
open Sys2Proof

/-! ### A read of BAR0 -/

/-- What a read of BAR0 has sent stays recorded when the read takes effect. -/
@[simp] theorem Dev.bar0ReadEffect_sent (d : Dev) (off : Nat) : (d.bar0ReadEffect off).sent = d.sent := by
  unfold Dev.bar0ReadEffect
  split <;> rfl

/-- Nothing but SDT_NOW's upper half reads the latch: every other dword leaves the device as `bar0Word` gives it. -/
theorem Mach.bar0Read_of_ne (m : Mach) {off : Nat} (h : off ≠ 0x5004) :
    m.bar0Read off = { m with dev := (m.dev.emit (.bar0 off (m.bar0Word off).toNat)).bar0ReadEffect off } := by
  unfold Mach.bar0Read
  split
  · exact absurd rfl h
  · rfl

/-- The value that a read returned has left the device once the command has settled. -/
theorem Mach.bar0Read_sent (m : Mach) {off : Nat} (h : off ≠ 0x5004) :
    Emission.bar0 off (m.bar0Word off).toNat ∈ (m.bar0Read off).dev.settle.sent := by
  rw [m.bar0Read_of_ne h]
  refine Dev.mem_settle_sent ?_
  rw [Dev.bar0ReadEffect_sent]
  exact List.mem_cons_self

/-- A counter that a read of its dword clears reads 0 once the command has settled (R9). -/
theorem Mach.bar0Read_clears (m : Mach) (off : Nat) :
    let d := (m.bar0Read off).dev.settle
    (off = 0x40 → d.host.badAccess = 0) ∧ (off = 0x2860 → d.host.stray = 0) ∧ (off = 0x3020 → d.intr.spurious = 0) ∧
    (off = 0x3024 → d.intr.badComplete = 0) ∧ (off = 0x400C → d.flt.faCnt = 0) ∧ (off = 0x4810 → d.bbx.lostCnt = 0) ∧
    (off = 0x4814 → d.bbx.mramCe = 0) := by
  refine ⟨?_, ?_, ?_, ?_, ?_, ?_, ?_⟩ <;>
  · rintro rfl
    simp only [Dev.settle_host_badAccess, Dev.settle_host_stray, Dev.settle_intr_spurious, Dev.settle_intr_badComplete,
      Dev.settle_flt, Dev.settle_bbx]
    rfl

/-- A read of SDT_NOW's lower half latches the upper half (R492). -/
theorem Mach.bar0Read_latches (m : Mach) : (m.bar0Read 0x5000).dev.settle.host.sdtLatch = some (hi32 m.dev.sdt) := by
  rw [Dev.settle_host_sdtLatch]
  rfl

/-! ### The doorbell -/

/-- A tail doorbell that moves the tail on within the ring moves it, and fires its interrupt source. -/
theorem Dev.sqDoorbell_of_ahead {d : Dev} {q t : Nat} {x : Sq} (hx : d.sq q = some x) (hb : x.bad = false) (hd : x.deleting = false)
    (ht : t < x.size) (ha : ringDiff x.tail x.head x.size ≤ ringDiff t x.head x.size) :
    d.sqDoorbell q t = (d.setSq q (some { x with tail := t })).fireInt (16 + q) := by
  unfold Dev.sqDoorbell
  rw [hx]
  simp only [hb, hd, Bool.or_self, Bool.false_eq_true, if_false, ht, ha, and_self, if_true]

/-- A submission queue that is put reads back. -/
@[simp] theorem Dev.sq_setSq_some (d : Dev) (q : Nat) (x : Sq) : (d.setSq q (some x)).sq q = some x :=
  Tbl.get_set_same (fun _ => none) d.host.sqs q (Option.some_ne_none x)

/-! ### The clauses -/

/-- What `onlyIf` guards happens when its condition holds. -/
theorem onlyIf_of_true {α : Type} {c : Bool} (h : c = true) (f : α → α) (x : α) : onlyIf c f x = f x := if_pos h

theorem badAccess_yields {s : State} (hl : s.Live) (hr : s.m.dev.barReachable = true) :
    Yields .badAccess s [.access] (fun t => t.m.dev.host.badAccess = min (s.m.dev.host.badAccess + 1) 0xFFFFFFFF) := by
  refine yields_of_liveDev hl rfl (execBadAccess_framed s) (by decide) ?_
  rw [onlyIf_of_true hr, Dev.settle_host_badAccess]
  rfl

/-- A reachable read of a dword within BAR0 is the read of the machine. -/
theorem bar0RcRead_yields {s : State} {off : Nat} {P : State → Prop} (hl : s.Live) (hr : s.m.dev.barReachable = true)
    (h4 : off % 4 = 0) (hlt : off < 0x10000)
    (hP : P { s with m := { s.m.bar0Read off with dev := (s.m.bar0Read off).dev.settle } }) :
    Yields (.bar0RcRead off) s [.access, .commands, .flt, .bbx] P := by
  refine yields_of_live hl rfl (execBar0RcRead_framed off s) (by decide) ?_
  rw [onlyIf_of_true (by simp only [hr, h4, hlt, and_self, decide_true, Bool.and_self])]
  exact hP

theorem sdtNowLowRead_yields {s : State} {P : State → Prop} (hl : s.Live) (hr : s.m.dev.barReachable = true)
    (hP : P { s with m := { s.m.bar0Read 0x5000 with dev := (s.m.bar0Read 0x5000).dev.settle } }) :
    Yields .sdtNowLowRead s [.access, .commands, .flt, .bbx] P := by
  refine yields_of_live hl rfl (execSdtNowLowRead_framed s) (by decide) ?_
  rw [onlyIf_of_true hr]
  exact hP

theorem sqTailDoorbell_yields {s : State} {q t : Nat} {P : State → Prop} (hl : s.Live) (hr : s.m.dev.barReachable = true)
    (hq : q < 256) (ht : t < 65536) (hP : P { s with m := { s.m with dev := (s.m.dev.sqDoorbell q t).settle } }) :
    Yields (.sqTailDoorbell q t) s [.sqs, .access, .commands, .events, .seq] P := by
  refine yields_of_liveDev hl rfl (execSqTailDoorbell_framed q t s) (by decide) ?_
  rw [onlyIf_of_true (by simp only [hr, hq, ht, and_self, decide_true, Bool.and_self])]
  exact hP

/-- Settles O9: the three accesses and the doorbell, each by what its operation leaves once the command has settled. -/
theorem bar0AccessAndTail : Obligations.Bar0AccessAndTail := by
  refine ⟨fun s hl hr => ⟨badAccess_yields hl hr, fun off h4 hlt hne => ?_, ?_⟩, fun s q t x hl hr hq ht hx hb hd hs ha => ?_⟩
  · exact bar0RcRead_yields hl hr h4 hlt ⟨s.m.bar0Read_sent hne, s.m.bar0Read_clears off⟩
  · exact sdtNowLowRead_yields hl hr ⟨s.m.bar0Read_sent (by decide), s.m.bar0Read_latches⟩
  · refine sqTailDoorbell_yields hl hr hq ht ?_
    simp only [Dev.sqDoorbell_of_ahead hx hb hd hs ha, Dev.settle_sq, Dev.fireInt_sq, Dev.sq_setSq_some,
      Dev.settle_host_stage, Dev.fireInt_host_stage, Dev.settle_host_events, Dev.fireInt_host_events, true_and]
    exact ⟨rfl, rfl⟩

end Sys2Proof.Machine
end

section
/-! SET_FEATURE of the features whose registers only hold what is written, and GET_FEATURE (R432, R9). -/

namespace Sys2Proof.Machine
open Sys2Proof

/-! ### Blocks -/

/-- Every block ends within the 2^20 bytes that a register's key has room for. -/
theorem blockLen_le (feat : Nat) : blockLen feat ≤ 2 ^ 20 := by
  unfold blockLen rowsOf
  split <;> decide

/-- A row of a block ends within the block. -/
theorem row_end_le_blockLen {feat : Nat} {r : RegRow} (h : r ∈ rowsOf feat) : r.off + r.stride * (r.cnt - 1) + 4 ≤ blockLen feat := by
  have key : ∀ (l : List RegRow) (n : Nat), n ≤ l.foldl (fun n r => max n (r.off + r.stride * (r.cnt - 1) + 4)) n ∧
      ∀ x ∈ l, x.off + x.stride * (x.cnt - 1) + 4 ≤ l.foldl (fun n r => max n (r.off + r.stride * (r.cnt - 1) + 4)) n := by
    intro l
    induction l with
    | nil => exact fun n => ⟨Nat.le_refl n, fun _ hx => absurd hx List.not_mem_nil⟩
    | cons y l ih =>
      intro n
      obtain ⟨hn, hl⟩ := ih (max n (y.off + y.stride * (y.cnt - 1) + 4))
      refine ⟨Nat.le_trans (Nat.le_max_left ..) hn, fun x hx => ?_⟩
      rcases List.mem_cons.1 hx with rfl | hx
      · exact Nat.le_trans (Nat.le_max_right ..) hn
      · exact hl x hx
  exact (key (rowsOf feat) 0).2 r h

/-- The dwords of a row lie within its extent. -/
theorem RegRow.le_of_has {r : RegRow} {o : Nat} (h : r.has o = true) : o ≤ r.off + r.stride * (r.cnt - 1) := by
  simp only [RegRow.has, Bool.and_eq_true, decide_eq_true_eq] at h
  obtain ⟨⟨hle, hmod⟩, hdiv⟩ := h
  have hmul : r.stride * ((o - r.off) / r.stride) = o - r.off := Nat.mul_div_cancel' (Nat.dvd_of_mod_eq_zero hmod)
  have : r.stride * ((o - r.off) / r.stride) ≤ r.stride * (r.cnt - 1) := Nat.mul_le_mul_left _ (by omega)
  omega

/-- A register stands within its block. -/
theorem lt_of_rowAt {feat o : Nat} {r : RegRow} (h : rowAt feat o = some r) : o < 2 ^ 20 := by
  unfold rowAt at h
  have hend := row_end_le_blockLen (List.mem_of_find?_eq_some h)
  have hle := RegRow.le_of_has (List.find?_some (p := fun r : RegRow => r.has o) h)
  have := blockLen_le feat
  omega

/-! ### Runs of register writes -/

/-- An operation on a register of a feature: it leaves the device, or holds a dword for that register. -/
def WritesAt (feat : Nat) (step : Dev → Nat → Dev) : Prop := ∀ n o, step n o = n ∨ ∃ v, step n o = n.setReg feat o v

section
variable {feat : Nat} {step : Dev → Nat → Dev} (hs : WritesAt feat step)
include hs

theorem WritesAt.host (n : Dev) (o : Nat) : (step n o).host = n.host := by
  rcases hs n o with h | ⟨v, h⟩ <;> simp only [h, Dev.setReg_fields]

theorem WritesAt.shape {n : Dev} (hn : n.Shape) (o : Nat) : (step n o).Shape := by
  rcases hs n o with h | ⟨v, h⟩ <;> rw [h]
  · exact hn
  · exact n.setReg_keeps feat o v hn

theorem WritesAt.reg_of_ne {a o : Nat} (ha : a < 2 ^ 20) (ho : o < 2 ^ 20) (hne : o ≠ a) (n : Dev) :
    (step n a).reg feat o = n.reg feat o := by
  rcases hs n a with h | ⟨v, h⟩ <;> rw [h]
  exact Dev.reg_setReg_of_ne (by unfold regKey; omega)

/-- A run of such operations leaves the host interface. -/
theorem WritesAt.foldl_host (l : List Nat) (d : Dev) : (l.foldl step d).host = d.host := by
  induction l generalizing d with
  | nil => rfl
  | cons a l ih => exact (ih _).trans (hs.host d a)

/-- A run leaves the registers that it does not name. -/
theorem WritesAt.foldl_reg_of_not_mem {l : List Nat} {o : Nat} (hl : ∀ a ∈ l, a < 2 ^ 20) (ho : o < 2 ^ 20) (hm : o ∉ l) (d : Dev) :
    (l.foldl step d).reg feat o = d.reg feat o := by
  induction l generalizing d with
  | nil => rfl
  | cons a l ih =>
    rw [List.forall_mem_cons] at hl
    rw [List.mem_cons, not_or] at hm
    exact (ih hl.2 hm.2 _).trans (hs.reg_of_ne hl.1 ho hm.1 d)

/-- A run gives a register that it names once what its operation there gives, on a device where the register is as before. -/
theorem WritesAt.foldl_reg_of_mem {l : List Nat} {o : Nat} (hl : ∀ a ∈ l, a < 2 ^ 20) (hnd : l.Nodup) (hm : o ∈ l) {d : Dev}
    (hd : d.Shape) : ∃ n : Dev, n.Shape ∧ n.reg feat o = d.reg feat o ∧ (l.foldl step d).reg feat o = (step n o).reg feat o := by
  induction l generalizing d with
  | nil => exact absurd hm List.not_mem_nil
  | cons a l ih =>
    rw [List.forall_mem_cons] at hl
    rw [List.nodup_cons] at hnd
    by_cases hoa : o = a
    · subst hoa
      exact ⟨d, hd, rfl, hs.foldl_reg_of_not_mem hl.2 hl.1 hnd.1 _⟩
    · have hol : o ∈ l := (List.mem_cons.1 hm).resolve_left hoa
      obtain ⟨n, hn, hreg, hfold⟩ := ih hl.2 hnd.2 hol (hs.shape hd a)
      exact ⟨n, hn, hreg.trans (hs.reg_of_ne hl.1 (hl.2 o hol) hoa d), hfold⟩

end

/-! ### What a write covers -/

theorem wordsOf_length (l : List Byte) (k : Nat) : (wordsOf l k).length = k := by
  induction k generalizing l with
  | zero => rfl
  | succ k ih => exact congrArg (· + 1) (ih _)

/-- The offsets of consecutive dwords differ. -/
theorem dwordOffs_nodup (off k : Nat) : ((List.range k).map (fun i => off + 4 * i)).Nodup :=
  List.nodup_range.map (fun i j h => by simpa using h)

/-- The dwords of an access that ends within a block lie within 2^20. -/
theorem dwordOffs_lt {feat off len : Nat} (h : off + len ≤ blockLen feat) :
    ∀ o ∈ (List.range (len / 4)).map (fun i => off + 4 * i), o < 2 ^ 20 := by
  intro o ho
  obtain ⟨i, hi, rfl⟩ := List.mem_map.1 ho
  rw [List.mem_range] at hi
  have := blockLen_le feat
  omega

/-- An aligned write covers the dwords at its offsets. -/
theorem FeatWrite.covers_iff {w : FeatWrite} (h : w.off % 4 = 0) (o : Nat) : w.covers o = true ↔ o ∈ w.offs := by
  unfold FeatWrite.covers FeatWrite.find FeatWrite.offs
  rw [List.mem_map]
  split
  next hout =>
    refine ⟨fun hf => absurd hf (by decide), ?_⟩
    rintro ⟨i, hi, rfl⟩
    omega
  next hin =>
    rw [isSome_getElem?]
    refine ⟨fun hlt => ⟨_, List.mem_range.2 hlt, by omega⟩, ?_⟩
    rintro ⟨i, hi, rfl⟩
    rw [List.mem_range] at hi
    omega

/-! ### The registers after SET_FEATURE and after GET_FEATURE -/

/-- One dword of a write, as `Dev.written` takes it. -/
def Dev.writeDword (d : Dev) (feat : Nat) (w : FeatWrite) (n : Dev) (o : Nat) : Dev :=
  match rowAt feat o with
  | some r => if (r.rw ≠ 0 ∨ r.w1c ≠ 0) ∧ !d.discards feat o (w.val o) then n.setReg feat o (r.merge (n.reg feat o) (word (w.val o))) else n
  | none => n

theorem Dev.written_eq_foldl (d : Dev) (feat : Nat) (w : FeatWrite) : d.written feat w = w.offs.foldl (d.writeDword feat w) d := rfl

theorem Dev.writeDword_writesAt (d : Dev) (feat : Nat) (w : FeatWrite) : WritesAt feat (d.writeDword feat w) := by
  intro n o
  unfold Dev.writeDword
  split
  · split
    · exact .inr ⟨_, rfl⟩
    · exact .inl rfl
  · exact .inl rfl

/-- A dword that takes the write of its register, which is not discarded. -/
theorem Dev.writeDword_of_row {d : Dev} {feat o : Nat} {r : RegRow} (w : FeatWrite) (hr : rowAt feat o = some r)
    (hw : r.rw ≠ 0 ∨ r.w1c ≠ 0) (hd : d.discards feat o (w.val o) = false) (n : Dev) :
    d.writeDword feat w n o = n.setReg feat o (r.merge (n.reg feat o) (word (w.val o))) := by
  unfold Dev.writeDword
  rw [hr]
  exact if_pos ⟨hw, by rw [hd]; rfl⟩

/-- The features on which a write acts at once. -/
def actingFeats : List Nat := [0x01, 0x10, 0x16, 0x18, 0x19, 0x1F, 0x21, 0x22]

/-- Only the tick source and the shadow set of a DMA channel discard writes (R16, R479). -/
theorem Dev.discards_of_not_acting {feat : Nat} (h : feat ∉ actingFeats) (d : Dev) (o v : Nat) : d.discards feat o v = false := by
  have h1 : feat ≠ 0x01 := fun e => h (by rw [e]; decide)
  have h2 : feat ≠ 0x1F := fun e => h (by rw [e]; decide)
  simp only [Dev.discards, h1, h2, false_and, decide_false, Bool.false_and, Bool.or_self]

theorem Dev.written_host (d : Dev) (feat : Nat) (w : FeatWrite) : (d.written feat w).host = d.host :=
  (d.writeDword_writesAt feat w).foldl_host _ d

/-- A register that a write covers takes it, bit by bit as its row says (R9, R432). -/
theorem Dev.written_reg_of_covers {d : Dev} {feat o : Nat} {w : FeatWrite} {r : RegRow} (hd : d.Shape) (ha : w.off % 4 = 0)
    (hl : ∀ a ∈ w.offs, a < 2 ^ 20) (hr : rowAt feat o = some r) (hc : w.covers o = true) (hw : r.rw ≠ 0 ∨ r.w1c ≠ 0)
    (hk : d.discards feat o (w.val o) = false) : (d.written feat w).reg feat o = r.merge (d.reg feat o) (word (w.val o)) := by
  obtain ⟨n, hn, hreg, hfold⟩ := (d.writeDword_writesAt feat w).foldl_reg_of_mem hl (dwordOffs_nodup ..) ((w.covers_iff ha o).1 hc) hd
  rw [Dev.written_eq_foldl, hfold, Dev.writeDword_of_row w hr hw hk, Dev.reg_setReg hn, hreg]

/-- A register that a write does not cover keeps its value. -/
theorem Dev.written_reg_of_not_covers {d : Dev} {feat o : Nat} {w : FeatWrite} (ha : w.off % 4 = 0) (hl : ∀ a ∈ w.offs, a < 2 ^ 20)
    (ho : o < 2 ^ 20) (hc : w.covers o = false) : (d.written feat w).reg feat o = d.reg feat o :=
  (d.writeDword_writesAt feat w).foldl_reg_of_not_mem hl ho (fun hm => Bool.false_ne_true (hc.symm.trans ((w.covers_iff ha o).2 hm))) d

/-- One dword of a read, as `Dev.readClears` takes it. -/
def readDword (feat : Nat) (d : Dev) (o : Nat) : Dev :=
  match rowAt feat o with
  | some r => if r.rc then d.setReg feat o 0 else d
  | none => d

theorem Dev.readClears_eq_foldl (d : Dev) (feat : Nat) (offs : List Nat) : d.readClears feat offs = offs.foldl (readDword feat) d := rfl

theorem readDword_writesAt (feat : Nat) : WritesAt feat (readDword feat) := by
  intro n o
  unfold readDword
  split
  · split
    · exact .inr ⟨_, rfl⟩
    · exact .inl rfl
  · exact .inl rfl

theorem readDword_of_row {feat o : Nat} {r : RegRow} (hr : rowAt feat o = some r) (d : Dev) :
    readDword feat d o = if r.rc then d.setReg feat o 0 else d := by
  unfold readDword
  rw [hr]

theorem Dev.readClears_host (d : Dev) (feat : Nat) (offs : List Nat) : (d.readClears feat offs).host = d.host :=
  (readDword_writesAt feat).foldl_host _ d

/-- A read-clear register that a read covers is 0 after it (R9). -/
theorem Dev.readClears_reg_of_rc {d : Dev} {feat o : Nat} {offs : List Nat} {r : RegRow} (hd : d.Shape) (hl : ∀ a ∈ offs, a < 2 ^ 20)
    (hnd : offs.Nodup) (ho : o ∈ offs) (hr : rowAt feat o = some r) (hc : r.rc = true) : (d.readClears feat offs).reg feat o = 0 := by
  obtain ⟨n, hn, -, hfold⟩ := (readDword_writesAt feat).foldl_reg_of_mem hl hnd ho hd
  rw [Dev.readClears_eq_foldl, hfold, readDword_of_row hr, if_pos hc, Dev.reg_setReg hn]

/-- A read leaves every register that is not read-clear. -/
theorem Dev.readClears_reg_of_not_rc {d : Dev} {feat o : Nat} {offs : List Nat} {r : RegRow} (hd : d.Shape)
    (hl : ∀ a ∈ offs, a < 2 ^ 20) (hnd : offs.Nodup) (hr : rowAt feat o = some r) (hc : r.rc = false) :
    (d.readClears feat offs).reg feat o = d.reg feat o := by
  rw [Dev.readClears_eq_foldl]
  by_cases hm : o ∈ offs
  · obtain ⟨n, -, hreg, hfold⟩ := (readDword_writesAt feat).foldl_reg_of_mem hl hnd hm hd
    rw [hfold, readDword_of_row hr, hc, if_neg (by decide), hreg]
  · exact (readDword_writesAt feat).foldl_reg_of_not_mem hl (lt_of_rowAt hr) hm d

/-! ### Completions -/

/-- A completion leaves the registers. -/
@[simp] theorem Dev.complete_regs (d : Dev) (sq cid status result : Nat) (e : ErrInfo) :
    (d.complete sq cid status result e).regs = d.regs := by
  unfold Dev.complete
  split
  · rfl
  · dsimp only
    split <;> rfl

@[simp] theorem Dev.complete_reg (d : Dev) (sq cid status result feat off : Nat) (e : ErrInfo) :
    (d.complete sq cid status result e).reg feat off = d.reg feat off := by
  unfold Dev.reg
  rw [Dev.complete_regs]

/-- A command that a meaning completes, and that is still in flight, ends so once the command has settled. -/
theorem Mach.complete_ends {m : Mach} {c k : Cmd} {status result : Nat} {e : ErrInfo} {p : List Instr} (h : m.dev.cmd c.sq c.cid = some k) :
    State.Ends { m := { m.complete c status result e with dev := (m.complete c status result e).dev.settle }, pending := p }
      c.sq c.cid status (result % 2 ^ 32) :=
  ends_of_complete (s := { m := m, pending := p }) h (Dev.settle_host_stage _)

/-- Which command is in flight depends on the list of commands alone. -/
theorem Dev.cmd_of_cmds {d e : Dev} (h : e.host.cmds = d.host.cmds) (sq cid : Nat) : e.cmd sq cid = d.cmd sq cid := by
  unfold Dev.cmd
  rw [h]

/-! ### SET_FEATURE and GET_FEATURE of a block within its bounds -/

/-- The dwords that a SET_FEATURE carries. -/
def Mach.carried (m : Mach) (c : Cmd) : FeatWrite :=
  { off := c.dw 1, data := (wordsOf (m.mem.dataIn c c.dataLen) (c.dataLen / 4)).map (fun x => x.toNat) }

/-- The feature, offset, length and buffer of a command pass the first checks of SET_FEATURE and GET_FEATURE. -/
structure Mach.BlockOk (m : Mach) (c : Cmd) : Prop where
  block : blockLen (c.dw 0 % 256) ≠ 0
  off : c.dw 1 % 4 = 0
  len : c.dataLen % 4 = 0
  fits : c.dw 1 + c.dataLen ≤ blockLen (c.dw 0 % 256)
  data : m.mem.dataOk c c.dataLen = true

/-- A write has no effect of its own on the other features. -/
theorem Mach.effects_of_not_acting {feat : Nat} (h : feat ∉ actingFeats) (m : Mach) (d : Dev) (w : FeatWrite) : m.effects d feat w = m := by
  unfold Mach.effects
  split
  iterate 8 exact absurd (by decide) h
  rfl

section
variable {m : Mach} {c : Cmd} (hb : m.BlockOk c)
include hb

theorem Mach.BlockOk.carried_lt : ∀ o ∈ (m.carried c).offs, o < 2 ^ 20 := by
  have h := dwordOffs_lt hb.fits
  simpa only [FeatWrite.offs, Mach.carried, List.length_map, wordsOf_length] using h

/-- A write of a field that takes no such value is refused, and writes nothing. -/
theorem Mach.setFeature_of_refuses
    (hr : m.dev.refuses (m.dev.written (c.dw 0 % 256) (m.carried c)) (c.dw 0 % 256) (m.carried c) = true) :
    m.setFeature c = m.refuse c 16 := by
  obtain ⟨hblock, hoff, hlen, hfits, hdata⟩ := hb
  unfold Mach.setFeature
  rw [if_neg hblock, if_neg (by omega), if_neg (by omega), if_neg (by rw [hdata]; decide)]
  exact if_pos hr

/-- A write that the state of what it configures forbids is denied, and writes nothing. -/
theorem Mach.setFeature_of_denies {st : Nat}
    (hr : m.dev.refuses (m.dev.written (c.dw 0 % 256) (m.carried c)) (c.dw 0 % 256) (m.carried c) = false)
    (hd : m.dev.deniesWrite (m.dev.written (c.dw 0 % 256) (m.carried c)) (c.dw 0 % 256) (m.carried c) = some st) :
    m.setFeature c = m.deny c 13 st := by
  obtain ⟨hblock, hoff, hlen, hfits, hdata⟩ := hb
  unfold Mach.setFeature Mach.carried at *
  rw [if_neg hblock, if_neg (by omega), if_neg (by omega), if_neg (by rw [hdata]; decide)]
  simp only [hr, hd, Bool.false_eq_true, if_false]

/-- A write to a feature whose registers only hold what is written completes with the registers written. -/
theorem Mach.setFeature_of_not_acting
    (hr : m.dev.refuses (m.dev.written (c.dw 0 % 256) (m.carried c)) (c.dw 0 % 256) (m.carried c) = false)
    (hd : m.dev.deniesWrite (m.dev.written (c.dw 0 % 256) (m.carried c)) (c.dw 0 % 256) (m.carried c) = none)
    (ha : c.dw 0 % 256 ∉ actingFeats) :
    m.setFeature c = Mach.complete { m with dev := m.dev.written (c.dw 0 % 256) (m.carried c) } c Status.ok := by
  obtain ⟨hblock, hoff, hlen, hfits, hdata⟩ := hb
  have hne : c.dw 0 % 256 ≠ 0x22 := fun h => ha (by rw [h]; decide)
  unfold Mach.setFeature Mach.carried at *
  rw [if_neg hblock, if_neg (by omega), if_neg (by omega), if_neg (by rw [hdata]; decide)]
  simp only [hr, hd, hne, Mach.effects_of_not_acting ha, Bool.false_eq_true, if_false, List.any_nil, Bool.false_and, List.foldl_nil]

/-- A read of a feature other than the LUT completes with the dwords of its registers, and clears the read-clear ones. -/
theorem Mach.getFeature_of_ne_lut (hn : c.dw 0 % 256 ≠ 0x18) :
    m.getFeature c = Mach.complete
      { dev := m.dev.readClears (c.dw 0 % 256) ((List.range (c.dataLen / 4)).map (fun i => c.dw 1 + 4 * i)),
        mem := m.mem.dataOut c ((List.range (c.dataLen / 4)).map
          (fun i => leBytes 4 (m.featWord (c.dw 0 % 256) (c.dw 1 + 4 * i)).toNat)).flatten } c Status.ok := by
  obtain ⟨hblock, hoff, hlen, hfits, hdata⟩ := hb
  unfold Mach.getFeature
  rw [if_neg hblock, if_neg (by omega), if_neg (by omega), if_neg (by rw [hdata]; decide)]
  simp only [hn, if_false, List.map_map]
  rfl

end

/-! ### The clauses -/

/-- A queue command whose meaning is one completion of it yields that it ends so, and what else holds of the machine after it. -/
theorem yields_of_completes {i : Instr} {s : State} {sq cid op : Nat} {c : Cmd} {f : Cmd → Mach → Mach} {ps : List Part}
    {P : State → Prop} {dp mp : Nat} {m : Mach} {status : Nat} {e : ErrInfo} (hr : s.Runs sq cid op c)
    (he : exec i s = live (runCmd sq cid op f) s) (hf : Framed dp mp s (exec i s))
    (hs : (dp ||| mp) ||| setOf (ps ++ settled) = setOf (ps ++ settled)) (hm : f c s.m = m.complete c status 0 e)
    (hh : m.dev.host.cmds = s.m.dev.host.cmds)
    (hP : P { s with m := { m.complete c status 0 e with dev := (m.complete c status 0 e).dev.settle } }) :
    Yields i s ps (fun t => t.Ends sq cid status 0 ∧ P t) := by
  refine yields_of_run hr he hf hs (fun hsq hcid => ?_)
  subst hsq hcid
  rw [hm]
  exact ⟨Mach.complete_ends ((Dev.cmd_of_cmds hh ..).trans hr.2.1), hP⟩

/-- The registers after a completion that has settled are those before it. -/
theorem Mach.complete_settle_regs (m : Mach) (c : Cmd) (status result : Nat) (e : ErrInfo) :
    (m.complete c status result e).dev.settle.regs = m.dev.regs := by
  rw [Dev.settle_regs]
  exact Dev.complete_regs ..

theorem Mach.complete_settle_reg (m : Mach) (c : Cmd) (status result feat o : Nat) (e : ErrInfo) :
    (m.complete c status result e).dev.settle.reg feat o = m.dev.reg feat o := by
  rw [Dev.settle_reg]
  exact Dev.complete_reg ..

/-- Settles O56: a refused and a denied write complete with the registers as they were; another write, and a read, run over their
dwords one by one, each of which touches its own register alone. -/
theorem featureBlocks : Obligations.FeatureBlocks := by
  intro s sq cid c feat off len hshape hfeat hoff hlen hblock hoff4 hlen4 hfits hdata
  subst hfeat hoff hlen
  have hb : s.m.BlockOk c := ⟨hblock, hoff4, hlen4, hfits, hdata⟩
  refine ⟨fun w hr hw => ?_, fun hr hn => ?_⟩
  · obtain rfl : w = s.m.carried c := hw
    refine ⟨fun href => ?_, fun st href hden => ?_, fun href hden hact => ?_⟩
    · exact yields_of_completes hr rfl (execSetFeature_framed sq cid s) (by decide) (Mach.setFeature_of_refuses hb href) rfl
        (Mach.complete_settle_regs ..)
    · exact yields_of_completes hr rfl (execSetFeature_framed sq cid s) (by decide) (Mach.setFeature_of_denies hb href hden) rfl
        (Mach.complete_settle_regs ..)
    · refine yields_of_completes hr rfl (execSetFeature_framed sq cid s) (by decide) (Mach.setFeature_of_not_acting hb href hden hact)
        (congrArg HostIf.cmds (Dev.written_host ..)) ⟨fun o r hrow hc hw => ?_, fun o ho hc => ?_⟩
      · rw [Mach.complete_settle_reg]
        exact Dev.written_reg_of_covers hshape hoff4 hb.carried_lt hrow hc hw (Dev.discards_of_not_acting hact ..)
      · rw [Mach.complete_settle_reg]
        exact Dev.written_reg_of_not_covers hoff4 hb.carried_lt ho hc
  · have hl := dwordOffs_lt hfits
    refine yields_of_completes hr rfl (execGetFeature_framed sq cid s) (by decide) (Mach.getFeature_of_ne_lut hb hn)
      (congrArg HostIf.cmds (Dev.readClears_host ..)) ⟨rfl, fun i r hi hrow hrc => ?_, fun o r hrow hrc => ?_⟩
    · rw [Mach.complete_settle_reg]
      exact Dev.readClears_reg_of_rc hshape hl (dwordOffs_nodup ..) (List.mem_map.2 ⟨i, List.mem_range.2 hi, rfl⟩) hrow hrc
    · rw [Mach.complete_settle_reg]
      exact Dev.readClears_reg_of_not_rc hshape hl (dwordOffs_nodup ..) hrow hrc

end Sys2Proof.Machine
end

section
/-! SET_FEATURE of TCK_SOURCE: the sources that the strapped role takes (R16, R19, R20, R494). -/

namespace Sys2Proof.Machine
open Sys2Proof

/-! ### The dword that the command carries -/

/-- The lowest byte of a number is the first of its bytes. -/
theorem leNat_mod_256 (l : List Byte) : leNat l % 256 = (l.headD 0).toNat := by
  cases l with
  | nil => rfl
  | cons b r =>
    show (b.toNat + 256 * leNat r) % 256 = b.toNat
    have := b.isLt
    omega

theorem headD_slice (l : List Byte) (k : Nat) : (slice l 0 (k + 1)).headD 0 = l.headD 0 := by
  cases l <;> rfl

/-- A dword of bytes has the lowest byte of their number. -/
theorem word_rd_mod_8 (l : List Byte) : (word (rd l 0 4)).toNat % 8 = leNat l % 8 := by
  have h : leNat (slice l 0 4) % 256 = leNat l % 256 := by rw [leNat_mod_256, leNat_mod_256, headD_slice]
  unfold word rd
  rw [BitVec.toNat_ofNat]
  omega

/-- A write of the dword of TCK_SOURCE alone. -/
def sourceWrite (x : Nat) : FeatWrite := { off := 0x100, data := [x] }

theorem sourceWrite_find (x o : Nat) : (sourceWrite x).find o = if o = 0x100 then some x else none := by
  show (if o < 0x100 ∨ o % 4 ≠ 0 then none else [x][(o - 0x100) / 4]?) = _
  split
  next hout => rw [if_neg (by omega)]
  next hin =>
    split
    next ho => rw [ho]; rfl
    next ho => exact List.getElem?_eq_none (by show 1 ≤ (o - 0x100) / 4; omega)

@[simp] theorem sourceWrite_covers (x o : Nat) : (sourceWrite x).covers o = decide (o = 0x100) := by
  unfold FeatWrite.covers
  rw [sourceWrite_find]
  split <;> simp [*]

@[simp] theorem sourceWrite_val (x : Nat) : (sourceWrite x).val 0x100 = x := by
  unfold FeatWrite.val
  rw [sourceWrite_find, if_pos rfl]
  rfl

theorem sourceWrite_offs (x : Nat) : (sourceWrite x).offs = [0x100] := rfl

theorem sourceWrite_offs_lt (x : Nat) : ∀ a ∈ (sourceWrite x).offs, a < 2 ^ 20 := by
  rw [sourceWrite_offs]
  decide

/-- What a command that writes four bytes at TCK_SOURCE carries. -/
theorem Mach.carried_source {m : Mach} {c : Cmd} (ho : c.dw 1 = 0x100) (hl : c.dataLen = 4) :
    ∃ x, m.carried c = sourceWrite x ∧ x % 8 = leNat (m.mem.dataIn c 4) % 8 := by
  refine ⟨(word (rd (m.mem.dataIn c 4) 0 4)).toNat, ?_, word_rd_mod_8 _⟩
  unfold Mach.carried
  rw [ho, hl]
  rfl

/-- TCK_SOURCE lies within the block of feature 0x01. -/
theorem Mach.blockOk_source {m : Mach} {c : Cmd} (hf : c.dw 0 % 256 = 0x01) (ho : c.dw 1 = 0x100) (hl : c.dataLen = 4)
    (hd : m.mem.dataOk c 4 = true) : m.BlockOk c := by
  have hb : blockLen 0x01 = 0x134 := by decide
  refine ⟨?_, ?_, ?_, ?_, ?_⟩ <;> simp only [hf, ho, hl, hb, hd] <;> decide

/-! ### The checks -/

/-- TCK_SOURCE takes source 3 on a worker alone, and source 2 under a discipline that gives a second (R19, R494). -/
theorem Dev.refuses_source (d n : Dev) (x : Nat) :
    d.refuses n 0x01 (sourceWrite x) =
      if d.boot.role = 2 then decide (x % 8 ≠ 3)
      else decide (x % 8 = 3) || (decide (x % 8 = 2) && decide (n.discipline ≠ 1 ∧ n.discipline ≠ 2)) := by
  have hoff : d.writesOff 0x01 (sourceWrite x) = false := by
    unfold Dev.writesOff
    rw [sourceWrite_offs, List.any_cons]
    simp [regDomain]
  unfold Dev.refuses badTime
  simp [hoff]

/-- No running capture, and no worker with one on the manager: TCK_SOURCE may change (R20, R537). -/
theorem Dev.deniesWrite_source_eq_none {d : Dev} (n : Dev) (x : Nat) (hc : d.anyCapture = false)
    (hw : d.boot.role = 1 → ∀ k ∈ d.link.workers, k.armed = 0) : d.deniesWrite n 0x01 (sourceWrite x) = none := by
  have harmed : (decide (d.boot.role = 1) && [0x100, 0x104, 0x110, 0x114].any (sourceWrite x).covers &&
      d.link.workers.any (fun k => k.reachable && decide (0 < k.armed))) = false := by
    by_cases hr : d.boot.role = 1
    · have : d.link.workers.any (fun k => k.reachable && decide (0 < k.armed)) = false := by
        rw [List.any_eq_false]
        intro k hk
        simp [hw hr k hk]
      rw [this, Bool.and_false]
    · simp only [hr, decide_false, Bool.false_and]
  unfold Dev.deniesWrite denyTime
  simp only [hc, harmed, Bool.false_and, Bool.or_false, Bool.false_eq_true, if_false]

/-! ### The write -/

/-- The low bits that a row lets a write change take what is written. -/
theorem RegRow.merge_mod_8 (r : RegRow) (old v : Word) (hrw : r.rw = 7) (hw1c : r.w1c = 0) :
    (r.merge old v).toNat % 8 = v.toNat % 8 := by
  have h : (r.merge old v).setWidth 3 = v.setWidth 3 := by
    unfold RegRow.merge word
    rw [hrw, hw1c]
    ext i hi
    have : i = 0 ∨ i = 1 ∨ i = 2 := by omega
    rcases this with rfl | rfl | rfl <;> simp
  simpa [BitVec.toNat_setWidth] using congrArg BitVec.toNat h

/-- The tick source is the lowest three bits of TCK_SOURCE. -/
theorem Dev.tickSource_eq (d : Dev) : d.tickSource = (d.reg 0x01 0x100).toNat % 8 := rfl

/-- TCK_SOURCE holds the source that is written, unless the write is discarded (R16). -/
theorem Dev.written_tickSource {d : Dev} (hd : d.Shape) {x : Nat} (hx : d.boot.role ≠ 2 → x % 8 < 4) :
    (d.written 0x01 (sourceWrite x)).tickSource = x % 8 := by
  have hk : d.discards 0x01 0x100 x = false := by
    unfold Dev.discards
    by_cases hr : d.boot.role = 2
    · simp [hr]
    · have := hx hr
      simp; omega
  have hrow : rowAt 0x01 0x100 = some { off := 0x100, rw := 7 } := by decide
  rw [Dev.tickSource_eq, Dev.written_reg_of_covers hd (by decide : 0x100 % 4 = 0) (sourceWrite_offs_lt x) hrow (sourceWrite_covers ..) (.inl (by decide)) (by rw [sourceWrite_val]; exact hk),
    RegRow.merge_mod_8 _ _ _ rfl rfl]
  rw [sourceWrite_val]
  unfold word
  rw [BitVec.toNat_ofNat]
  omega

/-- A write of TCK_SOURCE leaves the discipline. -/
theorem Dev.written_source_discipline (d : Dev) (x : Nat) : (d.written 0x01 (sourceWrite x)).discipline = d.discipline := by
  unfold Dev.discipline
  rw [Dev.written_reg_of_not_covers (by decide : 0x100 % 4 = 0) (sourceWrite_offs_lt x) (by decide) (sourceWrite_covers ..)]

/-! ### The effects -/

/-- Writes to feature 0x01 act on the tick unit alone (R494). -/
theorem Mach.effects_time_tame (m : Mach) (d : Dev) (w : FeatWrite) :
    Dev.Tame (setOf [.tick]) m.dev (m.effects d 0x01 w).dev := by
  unfold Mach.effects onDev
  dsimp only
  exact Dev.tame_ite (Dev.retime_tame (by decide) (.refl _ _) _) (.refl _ _)

/-- A write to a feature other than the links completes with its registers written and its effects done. -/
theorem Mach.setFeature_of_ne_links {m : Mach} {c : Cmd} (hb : m.BlockOk c)
    (hr : m.dev.refuses (m.dev.written (c.dw 0 % 256) (m.carried c)) (c.dw 0 % 256) (m.carried c) = false)
    (hd : m.dev.deniesWrite (m.dev.written (c.dw 0 % 256) (m.carried c)) (c.dw 0 % 256) (m.carried c) = none)
    (hne : c.dw 0 % 256 ≠ 0x22) :
    m.setFeature c = Mach.complete
      (Mach.effects { m with dev := m.dev.written (c.dw 0 % 256) (m.carried c) } m.dev (c.dw 0 % 256) (m.carried c)) c Status.ok := by
  obtain ⟨hblock, hoff, hlen, hfits, hdata⟩ := hb
  unfold Mach.setFeature Mach.carried at *
  rw [if_neg hblock, if_neg (by omega), if_neg (by omega), if_neg (by rw [hdata]; decide)]
  simp only [hr, hd, hne, Bool.false_eq_true, if_false, List.any_nil, Bool.false_and, List.foldl_nil]

/-! ### The clauses -/

@[simp] theorem Dev.complete_tickSource (d : Dev) (sq cid status result : Nat) (e : ErrInfo) :
    (d.complete sq cid status result e).tickSource = d.tickSource := by
  rw [Dev.tickSource_eq, Dev.complete_reg, Dev.tickSource_eq]

/-- Settles O59: a source that the role does not take is refused by the check of the field, which writes nothing; another is
written, and what the write does to the tick unit leaves the registers. -/
theorem tickSourceByRole : Obligations.TickSourceByRole := by
  intro s sq cid c v hr hshape hf ho hl hdata hv
  subst hv
  have hb : s.m.BlockOk c := Mach.blockOk_source hf ho hl hdata
  obtain ⟨x, hx, hmod⟩ := Mach.carried_source (m := s.m) ho hl
  rw [← hmod]
  have refused (href : s.m.dev.refuses (s.m.dev.written 0x01 (sourceWrite x)) 0x01 (sourceWrite x) = true) :=
    Mach.setFeature_of_refuses hb (by rw [hf, hx]; exact href)
  refine ⟨fun hrole hsrc => ?_, fun hrole hsrc => ?_, fun hcap hworkers hsrc => ?_⟩
  · refine yields_of_completes hr rfl (execSetFeature_framed sq cid s) (by decide) (refused ?_) rfl (Mach.complete_settle_regs ..)
    rw [Dev.refuses_source, if_pos hrole]
    exact decide_eq_true hsrc
  · refine yields_of_completes hr rfl (execSetFeature_framed sq cid s) (by decide) (refused ?_) rfl (Mach.complete_settle_regs ..)
    rw [Dev.refuses_source, if_neg hrole, decide_eq_true hsrc]
    rfl
  · have hallowed : s.m.dev.refuses (s.m.dev.written 0x01 (sourceWrite x)) 0x01 (sourceWrite x) = false := by
      rw [Dev.refuses_source, Dev.written_source_discipline]
      by_cases hrole : s.m.dev.boot.role = 2
      · rw [if_pos hrole] at hsrc ⊢
        simpa using hsrc
      · rw [if_neg hrole] at hsrc ⊢
        simp only [Bool.or_eq_false_iff, Bool.and_eq_false_iff, decide_eq_false_iff_not]
        omega
    have hdone := Mach.setFeature_of_ne_links hb (by rw [hf, hx]; exact hallowed)
      (by rw [hf, hx]; exact Dev.deniesWrite_source_eq_none _ x hcap hworkers) (by rw [hf]; decide)
    rw [hf, hx] at hdone
    have htame := Mach.effects_time_tame { s.m with dev := s.m.dev.written 0x01 (sourceWrite x) } s.m.dev (sourceWrite x)
    have hcmds := (htame.same .commands (by decide)).1
    have hregs := htame.same (.feat 0x01) (by decide) 0x100
    refine yields_of_completes hr rfl (execSetFeature_framed sq cid s) (by decide) hdone
      (hcmds.trans (congrArg HostIf.cmds (Dev.written_host ..))) ?_
    show (Mach.complete _ _ _ _ _).dev.settle.tickSource = x % 8
    rw [Dev.settle_tickSource]
    show (Dev.complete _ _ _ _ _ _).tickSource = x % 8
    rw [Dev.complete_tickSource, ← Dev.written_tickSource hshape (x := x)]
    · exact congrArg (fld · 0 3) hregs
    · intro hrole
      rw [if_neg hrole] at hsrc
      omega

end Sys2Proof.Machine
end

section
/-! The guard on a stream whose frames in work share a number: the verification that starts next takes the band just sent to the
eclipse path for the one of the other frame (R136, R138, R143). -/

namespace Sys2Proof.Machine
open Sys2Proof

/-- Frame 5 of one tile with one band, 16 rows of 64 photosites, its band in this phase. -/
def frameFive (p : BandPhase) : Work :=
  { frame := 5, stamp := [], at_ := 0, cfa := 1, depth := 12, mode := 1, budget := 0, temporal := false, distance := 0,
    tiles := [{ engine := 0, width := 64, bands := [{ rows := List.replicate 16 .whole, phase := p }] }] }

/-- The domain of mirror decoder 0 is on, and stream 0 has two frames in work that both carry number 5: the band of the first
waits, that of the second is coded. -/
def twoFramesFive : State :=
  { m := { dev := { power := { on := 1 }, caps := [(0, some { ctx := 1, works := [frameFive .waiting, frameFive .coded] })] } } }

/-- The phase of a band after a command that answers a next state. -/
def phaseAfter (i : Instr) (s : State) (r : BandRef) : Option BandPhase :=
  match exec i s with
  | .next t => (t.m.dev.bandOf r).map (fun x => x.2.phase)
  | _ => none

theorem phaseAfter_of_next {i : Instr} {s t : State} (h : exec i s = .next t) (r : BandRef) :
    phaseAfter i s r = (t.m.dev.bandOf r).map (fun x => x.2.phase) := by
  unfold phaseAfter
  rw [h]

/-- The switch sends the waiting band to the eclipse path, but mirror decoder 0 then finds the coded band of the second frame and
marks the band that the number names first. -/
theorem guardSwitch_twoFramesFive :
    phaseAfter (.guardSwitch 0 5 0) twoFramesFive { stream := 0, frame := 5, tile := 0, band := 0 } = some .verifying := by
  decide +kernel

/-- Refutes O41: its third clause, unlike the first, does not ask that the frames in work have different numbers. -/
theorem not_verifyAndGuard : ¬ Obligations.VerifyAndGuard := by
  intro h
  have hlive : twoFramesFive.Live := ⟨rfl, rfl⟩
  have hshape : twoFramesFive.m.dev.Shape := ⟨by decide, rfl, rfl, rfl, rfl, rfl, rfl⟩
  obtain ⟨-, -, hguard, -⟩ := h twoFramesFive hlive hshape
  obtain ⟨t, hnext, ⟨-, hwaiting⟩, -⟩ :=
    hguard 0 5 0 (frameFive .waiting) rfl rfl rfl (by decide) (by decide) (by decide)
  have heclipse := hwaiting 0 (by decide) rfl
  rw [← phaseAfter_of_next hnext, guardSwitch_twoFramesFive] at heclipse
  exact absurd heclipse (by decide)

end Sys2Proof.Machine
end

section
/-! A tick in its stages: the interval before it closes, the tick is taken, its frames open, its signals rise (R26, R31, R37). -/

namespace Sys2Proof.Machine
open Sys2Proof

/-! ### Reading a tame change -/

/-- A tame change leaves the registers of a feature outside its parts. -/
theorem Dev.Tame.reg_eq {ps : Nat} {d e : Dev} (h : Dev.Tame ps d e) {f : Nat} (hf : f < 64) (hp : ps.testBit (64 + f) = false)
    (o : Nat) : e.reg f o = d.reg f o := h.same (.feat ⟨f, hf⟩) hp o

/-! ### The stages -/

/-- The interval that a tick closes, once its statistics are latched: captures stop, and the window of frame `old` closes where one
was open. -/
def Mach.closeInterval (m : Mach) (was : Bool) (old n : Nat) : Mach :=
  let d := (if was then m.dev.stopFull else m.dev).stopsAt n
  let m1 := if was then Mach.closeWindow { m with dev := d } old else { m with dev := d }
  { m1 with dev := if was then m1.dev.skipUnstaged old else m1.dev }

/-- What a tick begins once it is taken: settings are latched, holds end, captures start. -/
def Dev.beginInterval (d : Dev) (n : Nat) : Dev := (d.latchProxy.endHolds (prevFrame n 2)).startsAt n

/-- The streams that take a frame. -/
def Dev.takingFrames (d : Dev) : List (Nat × Cap) := d.streams.filter (fun e => decide (e.2.run = .running) && !e.2.draining)

/-- The frames that a tick opens, what they let go and let start, and what the customer's handler is told of them. -/
def Dev.openFrames (d : Dev) (n t : Nat) : Dev :=
  let d6 := d.takingFrames.foldl (fun x e => match x.cap e.1 with
    | some c => x.openFrame n t e.1 c
    | none => x) d
  let d7 := (d6.streams.foldl (fun x e => x.sweep e.1) d6).pumpAll
  (d.takingFrames.filter (fun e => d7.policy e.1)).foldl (fun x e =>
    x.seqPost 24 { op := 0xF6, arg := n, ref := some { stream := e.1, frame := n, tile := 0, band := 0 } }) d7

/-- The epoch counter, the DMA event, TICK_OUT and the interrupts of a tick. -/
def Dev.signalTick (d : Dev) : Dev :=
  (((((d.onPools (fun p => { p with epochTicks := p.epochTicks + 1 })).eventOccurs 0).onTick (fun k =>
    { k with outAt := some (d.clk + fld (d.reg 0x01 0x108) 8 16) })).fireInt 8).fireInt 1012)

/-- A tick runs through its stages in this order. -/
theorem Mach.issueTick_eq (m : Mach) (n t : Nat) (sub late : Bool) (mode : TickMode) :
    m.issueTick n t sub late mode =
      let c := Mach.closeInterval { m with dev := m.dev.latch n t sub late } m.dev.tick.begun m.dev.tick.now n
      { c with dev := (((c.dev.takeLevels.tickTaken n t mode).beginInterval n).openFrames n t).signalTick } := rfl

/-! ### What each stage may change -/

theorem Mach.closeInterval_tame (m : Mach) (was : Bool) (old n : Nat) :
    Dev.Tame (setOf [.free, .seq, .stats, .commands, .events, .errorLog, .logs, .flt, .twk, .bbx, .link, .pools, .dram, .caps,
      .prism, .codec, .proxy, .mags, .sent, .feat 0x00, .feat 0x10, .feat 0x17, .feat 0x1B]) m.dev (m.closeInterval was old n).dev := by
  unfold Mach.closeInterval
  refine Dev.tame_ite (Dev.skipUnstaged_tame (by decide) ?_ old) ?_ <;>
  · refine Mach.tame_ite_dev (Mach.closeWindow_tame_dev (by decide) ?_ old) ?_ <;>
    exact Dev.stopsAt_tame (by decide) (Dev.tame_ite (Dev.stopFull_tame (by decide) (.refl _ _)) (.refl _ _)) n

theorem Dev.beginInterval_tame (d : Dev) (n : Nat) :
    Dev.Tame (setOf [.seq, .commands, .errorLog, .bbx, .link, .caps, .proxy, .mags, .feat 0x17]) d (d.beginInterval n) :=
  Dev.startsAt_tame (by decide) (Dev.endHolds_tame (by decide) (Dev.latchProxy_tame (by decide) (.refl _ _)) _) n

theorem Dev.openFrames_tame (d : Dev) (n t : Nat) :
    Dev.Tame (setOf [.seq, .pools, .caps, .codec, .seqr, .proxy, .feat 0x16]) d (d.openFrames n t) := by
  unfold Dev.openFrames
  refine Dev.tame_foldl (Dev.pumpAll_tame (by decide) (Dev.tame_foldl (Dev.tame_foldl (.refl _ _) fun x e hx => ?_)
    fun _ _ hx => Dev.sweep_tame (by decide) hx _)) fun _ _ hx => Dev.seqPost_tame (by decide) hx _ _
  split
  · exact Dev.openFrame_tame (by decide) hx _ _ _ _
  · exact hx

theorem Dev.signalTick_tame (d : Dev) :
    Dev.Tame (setOf [.free, .msix, .intr, .tick, .pools, .dma, .sent]) d d.signalTick :=
  Dev.fireInt_tame (by decide) (Dev.fireInt_tame (by decide) (Dev.onTick_tame (by decide)
    (Dev.eventOccurs_tame (by decide) (Dev.onPools_tame (by decide) (.refl _ _) _) 0) _) 8) 1012

/-- From the latched statistics on to the tick being taken. -/
theorem Mach.closeInterval_takeLevels_tame (m : Mach) (was : Bool) (old n : Nat) :
    Dev.Tame (setOf [.free, .seq, .stats, .commands, .events, .errorLog, .logs, .flt, .twk, .bbx, .link, .pools, .dram, .power, .caps,
      .prism, .codec, .proxy, .mags, .sent, .feat 0x00, .feat 0x10, .feat 0x17, .feat 0x1B]) m.dev (m.closeInterval was old n).dev.takeLevels :=
  Dev.takeLevels_tame (by decide) ((m.closeInterval_tame was old n).mono (by decide))

/-- From the tick being taken on to its signals. -/
theorem Dev.openInterval_tame (d : Dev) (n t : Nat) :
    Dev.Tame (setOf [.seq, .commands, .errorLog, .bbx, .link, .pools, .caps, .codec, .seqr, .proxy, .mags, .feat 0x16, .feat 0x17]) d
      ((d.beginInterval n).openFrames n t) :=
  ((d.beginInterval_tame n).mono (by decide)).trans (((d.beginInterval n).openFrames_tame n t).mono (by decide))

/-! ### The tick unit -/

/-- The tick unit when tick `n` is taken at sidereal instant `t` and crystal instant `clk`, the next tick at `x`, index `i`. -/
def TickUnit.taken (k : TickUnit) (n t clk : Nat) (mode : TickMode) (i x : Nat) : TickUnit :=
  { k with begun := true, now := n, last := t, prev := t, mode := mode, lastClk := clk, index := i, next := x }

/-- TICK_OUT rises at a crystal instant. -/
def TickUnit.rises (k : TickUnit) (clk : Nat) : TickUnit := { k with outAt := some clk }

/-- The tick unit of a device when tick `n` is taken at `t`: where the next tick comes from the schedule, it is the next index. -/
theorem Dev.tickTaken_tick (d : Dev) (n t : Nat) (mode : TickMode) :
    ∃ i x, (d.tickTaken n t mode).tick = d.tick.taken n t d.clk mode i x ∧
      (mode = .schedule → i = d.tick.index + 1 ∧ x = d.schedAt (d.tick.index + 1)) := by
  cases mode with
  | schedule => exact ⟨_, _, rfl, fun _ => ⟨rfl, rfl⟩⟩
  | messages => exact ⟨_, _, rfl, nofun⟩
  | firstEdge => exact ⟨_, _, rfl, nofun⟩
  | edges => exact ⟨_, _, rfl, nofun⟩
  | holdover => exact ⟨_, _, rfl, nofun⟩
  | retaken => exact ⟨_, _, rfl, nofun⟩

/-- TICK_OUT rises OUT_DELAY after the tick; nothing else of the tick unit changes with the signals. -/
theorem Dev.signalTick_tick (d : Dev) :
    d.signalTick.tick = d.tick.rises (d.clk + fld (d.reg 0x01 0x108) 8 16) := by
  unfold Dev.signalTick
  rw [Dev.fireInt_tick, Dev.fireInt_tick]
  have h : ((d.onPools (fun p => { p with epochTicks := p.epochTicks + 1 })).eventOccurs 0).tick = d.tick :=
    (Dev.eventOccurs_tame (ps := setOf [.pools, .dma]) (by decide) (Dev.onPools_tame (by decide) (.refl _ _) _) 0).same .tick (by decide)
  unfold Dev.onTick
  exact congrArg (TickUnit.rises · _) h

/-- The schedule reads the tick unit and TCK_ORIGIN_TIME. -/
theorem Dev.schedAt_congr {d e : Dev} (hk : e.tick = d.tick) (hr : ∀ o, e.reg 0x01 o = d.reg 0x01 o) (j : Nat) :
    e.schedAt j = d.schedAt j := by
  unfold Dev.schedAt Dev.reg64
  rw [hk, hr, hr]

section
variable (m : Mach) (n t : Nat) (sub late : Bool) (mode : TickMode)

theorem Mach.issueTick_tame :
    Dev.Tame (setOf [.free, .seq, .stats, .snap, .commands, .events, .errorLog, .logs, .msix, .flt, .intr, .twk, .bbx, .sid, .tick,
      .link, .pools, .dram, .dma, .power, .caps, .prism, .codec, .seqr, .proxy, .mags, .sent, .feat 0x00, .feat 0x10, .feat 0x16,
      .feat 0x17, .feat 0x1B]) m.dev (m.issueTick n t sub late mode).dev :=
  Mach.issueTick_tame_dev (by decide) (.refl _ _) n t sub late mode

/-- No crystal time passes at a tick. -/
@[simp] theorem Mach.issueTick_clk : (m.issueTick n t sub late mode).dev.clk = m.dev.clk :=
  (m.issueTick_tame n t sub late mode).same .clk (by decide)

/-- The tick unit after a tick. -/
theorem Mach.issueTick_tick :
    ∃ i x, (m.issueTick n t sub late mode).dev.tick =
        (m.dev.tick.taken n t m.dev.clk mode i x).rises (m.dev.clk + fld (m.dev.reg 0x01 0x108) 8 16) ∧
      (mode = .schedule → i = m.dev.tick.index + 1 ∧ x = m.dev.schedAt (m.dev.tick.index + 1)) := by
  rw [Mach.issueTick_eq]
  have hlatch := Dev.latch_tame (ps := setOf [.stats, .snap, .sid, .link, .mags]) (by decide) (.refl _ m.dev) n t sub late
  have hclose := Mach.closeInterval_takeLevels_tame { m with dev := m.dev.latch n t sub late } m.dev.tick.begun m.dev.tick.now n
  dsimp only
  generalize (Mach.closeInterval { m with dev := m.dev.latch n t sub late } m.dev.tick.begun m.dev.tick.now n).dev.takeLevels = d
    at hclose ⊢
  have htick : d.tick = m.dev.tick := (hclose.same .tick (by decide)).trans (hlatch.same .tick (by decide))
  have hclk : d.clk = m.dev.clk := (hclose.same .clk (by decide)).trans (hlatch.same .clk (by decide))
  have hreg (o : Nat) : d.reg 0x01 o = m.dev.reg 0x01 o :=
    (hclose.reg_eq (f := 0x01) (by decide) (by decide) o).trans (hlatch.reg_eq (f := 0x01) (by decide) (by decide) o)
  have htaken := Dev.tickTaken_tame (ps := setOf [.tick]) (by decide) (.refl _ d) n t mode
  have hopen := (d.tickTaken n t mode).openInterval_tame n t
  obtain ⟨i, x, hx, hmode⟩ := d.tickTaken_tick n t mode
  refine ⟨i, x, ?_, fun h => ?_⟩
  · rw [Dev.signalTick_tick, hopen.same .tick (by decide), hopen.same .clk (by decide), hopen.reg_eq (f := 0x01) (by decide) (by decide), hx,
      htaken.same .clk (by decide), htaken.reg_eq (f := 0x01) (by decide) (by decide), htick, hclk, hreg]
  · rw [← htick, ← Dev.schedAt_congr htick hreg]
    exact hmode h

/-- Each field of the tick unit after a tick, but those of the next tick. -/
@[simp] theorem Mach.issueTick_tick_fields :
    let k := (m.issueTick n t sub late mode).dev.tick
    k.begun = true ∧ k.now = n ∧ k.last = t ∧ k.prev = t ∧ k.mode = mode ∧
    k.outAt = some (m.dev.clk + fld (m.dev.reg 0x01 0x108) 8 16) ∧ k.rateN = m.dev.tick.rateN ∧ k.rateD = m.dev.tick.rateD ∧
    k.holdBase = m.dev.tick.holdBase ∧ k.holdK = m.dev.tick.holdK ∧ k.holdover = m.dev.tick.holdover ∧
    k.acceptedAt = m.dev.tick.acceptedAt ∧ k.following = m.dev.tick.following ∧ k.msgs = m.dev.tick.msgs := by
  obtain ⟨i, x, h, -⟩ := m.issueTick_tick n t sub late mode
  rw [h]
  exact ⟨rfl, rfl, rfl, rfl, rfl, rfl, rfl, rfl, rfl, rfl, rfl, rfl, rfl, rfl⟩

end

end Sys2Proof.Machine
end

section
/-! Edges of TICK_IN and substitute ticks (R22 to R24, R494). -/

namespace Sys2Proof.Machine
open Sys2Proof

/-! ### Commands whose meaning is known on the machine they run on -/

/-- What a meaning gives on the machine that a command runs on is all that the command does. -/
theorem live_congr {f g : Mach → Mach} {s : State} (h : f s.m = g s.m) : live f s = live g s := by
  unfold live
  rw [h]

/-- The parts that a tick may change. -/
abbrev tickParts : List Part :=
  [.clk, .seq, .stats, .snap, .commands, .events, .errorLog, .logs, .flt, .bbx, .sid, .tick, .link, .pools, .dram, .dma, .power,
   .caps, .prism, .codec, .seqr, .proxy, .mags, .dramMem, .feat 0x00, .feat 0x10, .feat 0x16, .feat 0x17, .feat 0x1B]

/-- The state after a command that leaves this machine, once it has settled. -/
def State.settledAt (s : State) (m : Mach) : State := { s with m := { m with dev := m.dev.settle } }

section
variable {s : State} {m : Mach} {P : State → Prop} (hl : s.Live)
include hl

theorem tickInEdge_yields {dt : Nat} (he : exec (.tickInEdge dt) s = live (fun _ => m) s) (hP : P (s.settledAt m)) :
    Yields (.tickInEdge dt) s tickParts P :=
  yields_of_live hl he (execTickInEdge_framed dt s) (by decide) hP

theorem substituteTick_yields (he : exec .substituteTick s = live (fun _ => m) s) (hP : P (s.settledAt m)) :
    Yields .substituteTick s tickParts P :=
  yields_of_live hl he (execSubstituteTick_framed s) (by decide) hP

end

/-! ### Edges -/

/-- An edge taken as a tick: it is the next tick, now; holdover ends. -/
theorem Mach.acceptEdge_tick (m : Mach) (late : Bool) :
    let k := (m.acceptEdge late).dev.tick
    k.now = m.dev.tick.nextNo ∧ k.prev = m.dev.sdt ∧ k.mode = .edges ∧ k.holdover = false ∧ k.acceptedAt = m.dev.clk + 1 := by
  unfold Mach.acceptEdge
  simp only [Mach.issueTick_tick_fields, true_and]
  exact ⟨rfl, rfl, rfl, rfl⟩

@[simp] theorem Mach.acceptEdge_clk (m : Mach) (late : Bool) : (m.acceptEdge late).dev.clk = m.dev.clk := by
  unfold Mach.acceptEdge
  rw [Mach.issueTick_clk]
  rfl

/-- The first edge in holdover is counted alone. -/
theorem Mach.countEdge_of_first {m : Mach} (h : m.dev.tick.countedAt = 0) :
    m.countEdge = { m with dev := m.dev.onTick (fun k => { k with count := 1, countedAt := m.dev.clk + 1, countedSid := m.dev.sdt }) } := by
  unfold Mach.countEdge
  simp only [h, ne_eq, not_true_eq_false, false_and, decide_false, Bool.false_eq_true, if_false]
  rfl

/-- The machine when an edge comes, `dt` ns after the command before it. -/
abbrev State.atEdge (s : State) (dt : Nat) : Mach := { s.m with dev := s.m.dev.advance dt }

/-- An edge that is part of another one does nothing. -/
theorem execTickInEdge_of_bounces {s : State} {dt : Nat} (hd : (s.m.dev.advance dt).bounces = true) :
    execTickInEdge dt s = live (fun _ => s.atEdge dt) s :=
  live_congr (by simp only [hd, Bool.or_true, if_true])

section
variable {s : State} {dt : Nat} (hr : (s.m.dev.advance dt).tick.running = true) (hb : (s.m.dev.advance dt).tick.begun = true)
  (hs : (s.m.dev.advance dt).tickSource = 1) (hd : (s.m.dev.advance dt).bounces = false)
include hr hb hs hd

/-- An edge before its window is counted as early. -/
theorem execTickInEdge_of_early (hm : (s.m.dev.advance dt).tick.mode = .edges)
    (hw : (s.m.dev.advance dt).inWindow (s.m.dev.advance dt).sdt 999 1001 = .lt) :
    execTickInEdge dt s = live (fun _ => { s.atEdge dt with dev := (s.m.dev.advance dt).count 0x7070 }) s :=
  live_congr (by simp [hr, hb, hs, hd, hm, hw])

/-- An edge in its window is taken as the tick. -/
theorem execTickInEdge_of_inWindow (hm : (s.m.dev.advance dt).tick.mode = .edges)
    (hw : (s.m.dev.advance dt).inWindow (s.m.dev.advance dt).sdt 999 1001 = .eq) :
    execTickInEdge dt s = live (fun _ => (s.atEdge dt).acceptEdge false) s :=
  live_congr (by simp [hr, hb, hs, hd, hm, hw])

/-- An edge in holdover is counted. -/
theorem execTickInEdge_of_holdover (hm : (s.m.dev.advance dt).tick.mode = .holdover) :
    execTickInEdge dt s = live (fun _ => (s.atEdge dt).countEdge) s :=
  live_congr (by simp [hr, hb, hs, hd, hm])

end

/-! ### Substitute ticks -/

/-- The machine at a substitute tick at `t` that enters holdover. -/
abbrev Mach.entersHoldover (m : Mach) (t : Nat) : Mach :=
  { m with dev := (m.dev.advanceToSid t).onTick (fun k => { k.runFree t with holdover := true, count := 0, countedAt := 0 }) }

/-- The machine at a substitute tick at `t` in holdover. -/
abbrev Mach.staysInHoldover (m : Mach) (t : Nat) : Mach :=
  { m with dev := (m.dev.advanceToSid t).onTick (fun k => { k with holdK := k.holdK + 1 }) }

/-- The fault and the event with which holdover begins. -/
def Dev.reportHoldover (d : Dev) (n : Nat) : Dev := (d.raise 480 n).postEvent 0x06 0 0

/-- The substitute tick that enters holdover raises fault 480. -/
theorem Mach.substitute_of_entering {m : Mach} (h : m.dev.tick.holdover = false) (t : Nat) :
    m.substitute t false =
      let m1 := (m.entersHoldover t).issueTick m.dev.tick.nextNo t true false .holdover
      { m1 with dev := m1.dev.reportHoldover m.dev.tick.nextNo } := by
  have htick : (m.dev.advanceToSid t).tick = m.dev.tick := rfl
  unfold Mach.substitute Dev.reportHoldover
  simp only [htick, h, Bool.not_false, Bool.true_or, if_true]

/-- A substitute tick in holdover is issued alone. -/
theorem Mach.substitute_of_holdover {m : Mach} (h : m.dev.tick.holdover = true) (t : Nat) :
    m.substitute t false = (m.staysInHoldover t).issueTick m.dev.tick.nextNo t true false .holdover := by
  have htick : (m.dev.advanceToSid t).tick = m.dev.tick := rfl
  unfold Mach.substitute
  simp only [htick, h, Bool.not_true, Bool.or_self, Bool.false_eq_true, if_false]

/-- The report of holdover leaves the time and the tick unit. -/
theorem Dev.reportHoldover_tame (d : Dev) (n : Nat) :
    Dev.Tame (setOf [.free, .seq, .stats, .commands, .events, .flt, .twk, .bbx, .link, .sent]) d (d.reportHoldover n) :=
  Dev.postEvent_tame (by decide) (Dev.raise_tame (by decide) (.refl _ _) 480 n) 0x06 0 0

/-- The entry of a fault leaves which source was raised last. -/
@[simp] theorem Dev.faultEntry_lastSrc (d : Dev) (src cls arg : Nat) : (d.faultEntry src cls arg).flt.lastSrc = d.flt.lastSrc := by
  have hmsg (x : Dev) (c : Nat) (first : Bool) (st : List Byte) : (x.faultMsg src c first st).flt = x.flt :=
    (Dev.faultMsg_tame (ps := setOf [.stats, .link, .sent]) (by decide) (.refl _ x) src c first st).same .flt (by decide)
  have hput (x : Dev) (reg : BbxRegion) (b : List Byte) : (x.bbxPut reg b).flt = x.flt :=
    (Dev.bbxPut_tame (ps := setOf [.bbx]) (by decide) (.refl _ x) reg b).same .flt (by decide)
  unfold Dev.faultEntry
  dsimp only
  split
  · rw [hmsg]
    rfl
  · simp only [Dev.stamped_fields, hmsg]
    split <;> simp only [hput] <;> rfl

/-- A source that has a class is the last one raised. -/
theorem Dev.raise_lastSrc {src : Nat} (h : fixedClass src ≠ 0) (d : Dev) (arg : Nat) : (d.raise src arg).flt.lastSrc = src := by
  have hpost (x : Dev) (a b c : Nat) : (x.postEvent a b c).flt = x.flt :=
    (Dev.postEvent_tame (ps := setOf [.seq, .commands, .events]) (by decide) (.refl _ x) a b c).same .flt (by decide)
  have hstop (x : Dev) : x.stopTwinkle.flt = x.flt :=
    (Dev.stopTwinkle_tame (ps := setOf [.free, .twk]) (by decide) (.refl _ x)).same .flt (by decide)
  unfold Dev.raise
  rw [if_neg h]
  dsimp only
  split
  · rw [hpost, Dev.faultEntry_lastSrc]
    split <;> rfl
  · rw [hstop, hpost, Dev.faultEntry_lastSrc]
    split <;> rfl
  · rw [Dev.faultEntry_lastSrc]
    split <;> rfl

theorem Dev.reportHoldover_lastSrc (d : Dev) (n : Nat) : (d.reportHoldover n).flt.lastSrc = 480 := by
  have hpost : (d.reportHoldover n).flt = (d.raise 480 n).flt :=
    (Dev.postEvent_tame (ps := setOf [.seq, .commands, .events]) (by decide) (.refl _ _) 0x06 0 0).same .flt (by decide)
  rw [hpost, Dev.raise_lastSrc (by decide)]

section
variable {s : State} (hr : s.m.dev.tick.running = true) (hb : s.m.dev.tick.begun = true) (hs : s.m.dev.tickSource = 1)
include hr hb hs

/-- Under edges a substitute tick comes at 1.001 P after the last tick (R23). -/
theorem execSubstituteTick_of_edges (hm : s.m.dev.tick.mode = .edges) :
    execSubstituteTick s = live (fun _ => s.m.substitute (s.m.dev.tick.prev + s.m.dev.tick.permille 1001) false) s :=
  live_congr (by simp [hr, hb, hs, hm])

/-- In holdover a substitute tick comes at the end of each period (R23). -/
theorem execSubstituteTick_of_holdover (hm : s.m.dev.tick.mode = .holdover) :
    execSubstituteTick s = live (fun _ => s.m.substitute s.m.dev.tick.freeNext false) s :=
  live_congr (by simp [hr, hb, hs, hm])

end

/-! ### The clauses -/

/-- Settles O52: an edge bounces, is early, is counted or is the tick; a substitute tick enters holdover or goes on in it. -/
theorem tickEdges : Obligations.TickEdges := by
  intro s k dt d hl hk hr hb hs hd
  subst hk hd
  refine ⟨fun hnb => ⟨fun hm hw => ?_, fun hm hw => ?_, fun hm hc => ?_⟩, fun hbounce => ?_, fun hm hh => ?_, fun hm hh => ?_⟩
  · refine tickInEdge_yields hl (execTickInEdge_of_inWindow hr hb hs hnb hm hw) ?_
    obtain ⟨hnow, hprev, hmode, hhold, hat⟩ := (s.atEdge dt).acceptEdge_tick false
    simp only [State.settledAt, Dev.settle_clk, Dev.settle_tick, Mach.acceptEdge_clk, hnow, hprev, hmode, hhold, hat]
    exact ⟨rfl, rfl, trivial, trivial, trivial, trivial⟩
  · refine tickInEdge_yields hl (execTickInEdge_of_early hr hb hs hnb hm hw) ?_
    simp only [State.settledAt, Dev.settle_tick, Dev.settle_stat]
    exact ⟨rfl, Tbl.get_set_same (fun _ => 0) _ 0x7070 (Nat.succ_ne_zero _)⟩
  · refine tickInEdge_yields hl (execTickInEdge_of_holdover hr hb hs hnb hm) ?_
    simp only [State.settledAt, Dev.settle_tick]
    rw [Mach.countEdge_of_first (m := s.atEdge dt) hc]
    rfl
  · refine tickInEdge_yields hl (execTickInEdge_of_bounces hbounce) ?_
    simp only [State.settledAt, Dev.settle_clk, Dev.settle_tick]
    exact ⟨rfl, rfl⟩
  · refine substituteTick_yields hl (execSubstituteTick_of_edges hr hb hs hm) ?_
    rw [Mach.substitute_of_entering hh]
    have hclk (x : Dev) : (x.reportHoldover s.m.dev.tick.nextNo).clk = x.clk :=
      (x.reportHoldover_tame _).same .clk (by decide)
    have htick (x : Dev) : (x.reportHoldover s.m.dev.tick.nextNo).tick = x.tick :=
      (x.reportHoldover_tame _).same .tick (by decide)
    simp only [State.settledAt, Dev.settle_clk, Dev.settle_tick, Dev.settle_flt, Dev.reportHoldover_lastSrc,
      hclk, htick, Mach.issueTick_clk, Mach.issueTick_tick_fields]
    exact ⟨rfl, trivial, trivial, trivial, rfl, rfl, rfl, trivial⟩
  · refine substituteTick_yields hl (execSubstituteTick_of_holdover hr hb hs hm) ?_
    rw [Mach.substitute_of_holdover hh]
    simp only [State.settledAt, Dev.settle_tick, Mach.issueTick_tick_fields]
    exact ⟨trivial, trivial, trivial, hh, rfl⟩

end Sys2Proof.Machine
end

section
/-! The snapshot that a tick latches (R31, R33). -/

namespace Sys2Proof.Machine
open Sys2Proof

/-- A value that each step of a fold keeps. -/
theorem foldl_keeps {α β γ : Type} {g : α → γ} {f : α → β → α} {l : List β} (h : ∀ x, ∀ e ∈ l, g (f x e) = g x) (a : α) :
    g (l.foldl f a) = g a := by
  induction l generalizing a with
  | nil => rfl
  | cons e r ih => exact (ih (fun x y hy => h x y (List.mem_cons_of_mem _ hy)) _).trans (h a e (List.mem_cons_self ..))

/-- The words of a snapshot that say which tick latched it, and when. -/
def Dev.snapWords (d : Dev) (n t : Nat) (sub late : Bool) : List (Nat × Word) :=
  [(0x7000, Tbl.get (fun _ => 0) d.snap 0x7000 + 1), (0x7004, word n), (0x7008, lo32 t), (0x700C, hi32 t),
   (0x7010, word (nsOfUnits (t - d.tick.prev))), (0x7014, word (flagsAt 3 [sub, late, d.sid.unlockedSeen] + d.tickSource)),
   (0x7018, word d.snpValid)]

/-- The words of a snapshot stand at offsets of their own. -/
theorem Dev.snapWords_nodup (d : Dev) (n t : Nat) (sub late : Bool) : ((d.snapWords n t sub late).map Prod.fst).Nodup :=
  (by decide : [0x7000, 0x7004, 0x7008, 0x700C, 0x7010, 0x7014, 0x7018].Nodup)

/-- The statistics that are lit, each with its snapshot offset. -/
def Dev.litStats (d : Dev) : List (Nat × Nat) :=
  (d.stats.filter (fun e => !(d.levelStats.any (fun l => decide (l.1 = e.1)))) ++ d.levelStats).filter (fun e =>
    match statDomain e.1 with
    | some k => d.powered k
    | none => true)

/-- A word put in a snapshot. -/
abbrev putWord (t : Tbl Word) (e : Nat × Word) : Tbl Word := Tbl.set (fun _ => 0) t e.1 e.2

/-- The device with the statistics and the words of a snapshot latched. -/
def Dev.latched (d : Dev) (n t : Nat) (sub late : Bool) : Dev :=
  { d with snap := (d.snapWords n t sub late).foldl putWord (d.litStats.foldl snapPut []), snapHidden := d.snap,
           sid := { d.sid with unlockedSeen := !d.sid.locked } }

/-- A tick counts what waits for credit, latches, and restarts the maxima. -/
theorem Dev.latch_eq (d : Dev) (n t : Nat) (sub late : Bool) :
    d.latch n t sub late = (d.creditTime.latched n t sub late).restartStats := rfl

/-- The statistics of a snapshot are a canonical table. -/
theorem wf_foldl_snapPut (l : List (Nat × Nat)) : Tbl.wf (fun _ => 0) (l.foldl snapPut []) = true :=
  List.foldlRecOn (motive := fun t => Tbl.wf (fun _ => 0) t = true) l snapPut rfl (fun _ h _ _ => Tbl.wf_set _ (Tbl.wf_set _ h _ _) _ _)

/-- A word that is put over a canonical table and not put again is read there. -/
theorem get_foldl_putWord {l : List (Nat × Word)} {k : Nat} {v : Word} (hm : (k, v) ∈ l) (hnd : (l.map Prod.fst).Nodup) {t : Tbl Word}
    (h : Tbl.wf (fun _ => 0) t = true) : Tbl.get (fun _ => 0) (l.foldl putWord t) k = v := by
  induction l generalizing t with
  | nil => exact absurd hm List.not_mem_nil
  | cons e r ih =>
    obtain ⟨hnot, hnd⟩ := List.nodup_cons.1 hnd
    obtain rfl | hr := List.mem_cons.1 hm
    · have hkeep : ∀ x, ∀ y ∈ r, Tbl.get (fun _ => 0) (putWord x y) k = Tbl.get (fun _ => 0) x k := fun x y hy =>
        Tbl.get_set_of_ne (fun _ => 0) x y.2 (fun hk => hnot (List.mem_map.2 ⟨y, hy, hk.symm⟩))
      rw [List.foldl_cons, foldl_keeps (g := fun x => Tbl.get (fun _ => 0) x k) hkeep, Tbl.get_set _ h, if_pos rfl]
    · exact ih hr hnd (Tbl.wf_set _ h _ _)

/-- What is latched reads the words of the snapshot. -/
theorem Dev.latched_word (d : Dev) {n t : Nat} {sub late : Bool} {k : Nat} {v : Word} (hm : (k, v) ∈ d.snapWords n t sub late) :
    Tbl.get (fun _ => 0) (d.latched n t sub late).snap k = v := by
  unfold Dev.latched
  dsimp only
  exact get_foldl_putWord hm (d.snapWords_nodup n t sub late) (wf_foldl_snapPut d.litStats)

/-- The snapshot of a tick reads its words. -/
theorem Dev.latch_snap (d : Dev) (n t : Nat) (sub late : Bool) :
    (d.latch n t sub late).snapHidden = d.snap ∧ Tbl.get (fun _ => 0) (d.latch n t sub late).snap 0x7004 = word n ∧
      Tbl.get (fun _ => 0) (d.latch n t sub late).snap 0x7000 = Tbl.get (fun _ => 0) d.snap 0x7000 + 1 := by
  have hcredit : d.creditTime.snap = d.snap ∧ d.creditTime.snapHidden = d.snapHidden :=
    (Dev.creditTime_tame (ps := setOf [.stats, .link]) (by decide) (.refl _ d)).same .snap (by decide)
  have hrestart (x : Dev) : x.restartStats.snap = x.snap ∧ x.restartStats.snapHidden = x.snapHidden :=
    (Dev.restartStats_tame (ps := setOf [.stats, .link, .mags]) (by decide) (.refl _ x)).same .snap (by decide)
  obtain ⟨hsnap, hhidden⟩ := hrestart (d.creditTime.latched n t sub late)
  rw [Dev.latch_eq, hsnap, hhidden, ← hcredit.1]
  exact ⟨rfl, d.creditTime.latched_word (List.mem_cons_of_mem _ (List.mem_cons_self ..)),
    d.creditTime.latched_word (List.mem_cons_self ..)⟩

/-- The peak of a magazine port starts from its present level. -/
def MagPort.restarted (q : MagPort) : MagPort := { q with peakShown := max q.peak q.inFlight, peak := q.inFlight }

/-- Of the magazine ports only the peaks restart. -/
theorem Dev.restartStats_mags (d : Dev) : d.restartStats.mags = d.mags.map MagPort.restarted := by
  have hmax (x : Dev) (off v : Nat) : (x.countMax off v).mags = x.mags :=
    (Dev.countMax_tame (ps := setOf [.stats]) (by decide) (.refl _ x) off v).same .mags (by decide)
  unfold Dev.restartStats
  dsimp only
  rw [foldl_keeps (g := Dev.mags) fun x p _ => hmax x _ _,
    foldl_keeps (g := Dev.mags) fun x e _ => foldl_keeps (g := Dev.mags) (fun y q _ => hmax y _ _) x,
    foldl_keeps (g := Dev.mags) fun x p _ => hmax x _ _]
  rfl

/-- Which magazines are mounted does not change as statistics are latched. -/
theorem Dev.latch_mag_mounted (d : Dev) (n t : Nat) (sub late : Bool) (p : Nat) :
    ((d.latch n t sub late).mag p).mounted = (d.mag p).mounted := by
  have hcredit : d.creditTime.mags = d.mags :=
    (Dev.creditTime_tame (ps := setOf [.stats, .link]) (by decide) (.refl _ d)).same .mags (by decide)
  have hmags : (d.latch n t sub late).mags = d.mags.map MagPort.restarted :=
    (Dev.restartStats_mags _).trans (congrArg (List.map MagPort.restarted) hcredit)
  unfold Dev.mag
  rw [hmags]
  exact (congrArg MagPort.mounted (List.getD_map d.mags {} MagPort.restarted) :)

end Sys2Proof.Machine
end

section
/-! What the stages of a tick keep of a capture run: whether it is armed or running, the start that it waits for and its first frame
(R450). Frames that open and close, rows that are filled and engines that begin work leave all three. -/

namespace Sys2Proof.Machine
open Sys2Proof

/-- The run of a capture: its state, the start that it waits for, its first frame. -/
def Cap.runOf (c : Cap) : RunState × Option (Nat × Nat × Nat) × Nat := (c.run, c.start, c.first)

/-- The run of stream `st`, where there is one. -/
def Dev.runOf (d : Dev) (st : Nat) : Option (RunState × Option (Nat × Nat × Nat) × Nat) := (d.cap st).map Cap.runOf

/-! ### Reading the captures -/

/-- A fold that keeps `I` and `J`, and turns `I` into `J` at one of its elements, ends in `J`. -/
theorem foldl_reaches {α β : Type} {I J : α → Prop} {f : α → β → α} {l : List β} {e : β} (he : e ∈ l)
    (hI : ∀ x y, I x → I (f x y)) (hJ : ∀ x y, J x → J (f x y)) (hat : ∀ x, I x → J (f x e)) {a : α} (ha : I a) :
    J (l.foldl f a) := by
  induction l generalizing a with
  | nil => exact absurd he List.not_mem_nil
  | cons y r ih =>
    obtain rfl | hr := List.mem_cons.1 he
    · exact List.foldlRecOn r f (hat a ha) (fun x hx y _ => hJ x y hx)
    · exact ih hr (hI a y ha)

/-- An entry of a table is listed. -/
theorem Tbl.mem_of_get {α : Type} {f : Nat → α} {t : Tbl α} {k : Nat} {v : α} (h : Tbl.get f t k = v) (hv : v ≠ f k) : (k, v) ∈ t := by
  induction t with
  | nil => exact absurd h.symm hv
  | cons e r ih =>
    obtain ⟨a, w⟩ := e
    unfold Tbl.get at h
    split at h
    next heq => subst heq h; exact List.mem_cons_self ..
    next => exact List.mem_cons_of_mem _ (ih h)

/-- What a table lists from a key on is what it gives. -/
theorem Tbl.get_of_mem {α : Type} [DecidableEq α] {f : Nat → α} {t : Tbl α} {lo k : Nat} {v : α} (h : Tbl.wfFrom f lo t = true)
    (hm : (k, v) ∈ t) : lo ≤ k ∧ Tbl.get f t k = v := by
  induction t generalizing lo with
  | nil => exact absurd hm List.not_mem_nil
  | cons e r ih =>
    obtain ⟨a, w⟩ := e
    simp only [Tbl.wfFrom, Bool.and_eq_true, decide_eq_true_eq] at h
    obtain ⟨⟨hlo, -⟩, hr⟩ := h
    obtain heq | hmem := List.mem_cons.1 hm
    · obtain ⟨rfl, rfl⟩ := Prod.mk.inj heq
      exact ⟨hlo, if_pos rfl⟩
    · obtain ⟨hk, hget⟩ := ih hr hmem
      exact ⟨by omega, (if_neg (by omega)).trans hget⟩

/-- A capture in use is among the streams. -/
theorem Dev.mem_streams_of_cap {d : Dev} {st : Nat} {c : Cap} (h : d.cap st = some c) : (st, c) ∈ d.streams :=
  List.mem_filterMap.2 ⟨(st, some c), Tbl.mem_of_get h nofun, rfl⟩

/-- The streams of a canonical table are its captures. -/
theorem Dev.cap_of_mem_streams {d : Dev} (hw : Tbl.wf (fun _ => none) d.caps = true) {e : Nat × Cap} (h : e ∈ d.streams) :
    d.cap e.1 = some e.2 := by
  obtain ⟨⟨k, v⟩, hmem, hv⟩ := List.mem_filterMap.1 h
  obtain ⟨c, rfl, rfl⟩ := Option.map_eq_some_iff.1 hv
  exact (Tbl.get_of_mem hw hmem).2

/-! ### Operations on the device -/

variable (d : Dev) (st : Nat)

/-- A change that leaves the captures leaves their runs. -/
theorem Dev.Tame.runOf_eq {ps : Nat} {d e : Dev} (h : Dev.Tame ps d e) (hp : ps.testBit 42 = false) (st : Nat) :
    e.runOf st = d.runOf st := by
  have hcaps : e.caps = d.caps := h.same .caps hp
  unfold Dev.runOf Dev.cap
  rw [hcaps]

/-- The capture of a run. -/
theorem Dev.cap_of_runOf {d : Dev} {st f : Nat} {r : RunState} {x : Option (Nat × Nat × Nat)} (h : d.runOf st = some (r, x, f)) :
    ∃ c, d.cap st = some c ∧ c.run = r ∧ c.start = x ∧ c.first = f := by
  obtain ⟨c, hc, hr⟩ := Option.map_eq_some_iff.1 h
  obtain ⟨hrun, hrest⟩ := Prod.mk.inj hr
  obtain ⟨hstart, hfirst⟩ := Prod.mk.inj hrest
  exact ⟨c, hc, hrun, hstart, hfirst⟩

/-- A capture that is put is there. -/
@[simp] theorem Dev.cap_setCap_some (s : Nat) (c : Cap) : (d.setCap s (some c)).cap s = some c :=
  Tbl.get_set_same (fun _ => none) d.caps s (Option.some_ne_none c)

/-- The other captures are left where one is put. -/
theorem Dev.cap_setCap_of_ne {s st : Nat} (h : s ≠ st) (c : Option Cap) : (d.setCap s c).cap st = d.cap st :=
  Tbl.get_set_of_ne (fun _ => none) d.caps c h.symm

/-- A changed capture. -/
theorem Dev.cap_modCap_same {d : Dev} {s : Nat} {c : Cap} (h : d.cap s = some c) (f : Cap → Cap) : (d.modCap s f).cap s = some (f c) := by
  simp only [Dev.modCap, h, Dev.cap_setCap_some]

/-- The other captures are left where one is changed. -/
theorem Dev.cap_modCap_of_ne {s st : Nat} (h : s ≠ st) (f : Cap → Cap) : (d.modCap s f).cap st = d.cap st := by
  unfold Dev.modCap
  split
  · exact d.cap_setCap_of_ne h _
  · rfl

theorem Dev.runOf_setCap {d : Dev} {s : Nat} {c y : Cap} (h : d.cap s = some c) (hy : y.runOf = c.runOf) (st : Nat) :
    (d.setCap s (some y)).runOf st = d.runOf st := by
  unfold Dev.runOf
  by_cases hs : s = st
  · subst hs
    rw [Dev.cap_setCap_some, h, Option.map_some, Option.map_some, hy]
  · rw [d.cap_setCap_of_ne hs]

theorem Dev.runOf_modCap_of_ne {s st : Nat} (h : s ≠ st) (f : Cap → Cap) : (d.modCap s f).runOf st = d.runOf st := by
  unfold Dev.runOf
  rw [d.cap_modCap_of_ne h]

/-- A change of a capture that leaves its run. -/
theorem Dev.runOf_modCap {f : Cap → Cap} (hf : ∀ c, (f c).runOf = c.runOf) (s : Nat) : (d.modCap s f).runOf st = d.runOf st := by
  unfold Dev.modCap
  split
  next h => exact Dev.runOf_setCap h (hf _) st
  next => rfl

@[simp] theorem Dev.modWork_runOf (s n : Nat) (f : Work → Work) : (d.modWork s n f).runOf st = d.runOf st := by
  unfold Dev.modWork
  rw [Dev.runOf_modCap]
  exact fun _ => rfl

@[simp] theorem Dev.modBand_runOf (s n t k : Nat) (f : Band → Band) : (d.modBand s n t k f).runOf st = d.runOf st :=
  d.modWork_runOf st s n _

@[simp] theorem Dev.onBand_runOf (r : BandRef) (f : Band → Band) : (d.onBand r f).runOf st = d.runOf st := d.modBand_runOf st ..

@[simp] theorem Dev.setRow_runOf (s n t y : Nat) (r : RowState) : (d.setRow s n t y r).runOf st = d.runOf st := d.modBand_runOf st ..

@[simp] theorem Dev.prmEvent_runOf (j input detail n : Nat) : (d.prmEvent j input detail n).runOf st = d.runOf st :=
  (Dev.prmEvent_tame (ps := setOf [.free, .seq, .stats, .commands, .events, .flt, .twk, .bbx, .link, .sent, .feat 0x10])
    (by decide) (.refl _ d) j input detail n).runOf_eq (by decide) st

@[simp] theorem Dev.postEvent_runOf (type sub arg : Nat) : (d.postEvent type sub arg).runOf st = d.runOf st :=
  (Dev.postEvent_tame (ps := setOf [.seq, .commands, .events]) (by decide) (.refl _ d) type sub arg).runOf_eq (by decide) st

@[simp] theorem Dev.complete_runOf (sq cid status result : Nat) (e : ErrInfo) :
    (d.complete sq cid status result e).runOf st = d.runOf st :=
  (Dev.complete_tame (ps := setOf [.seq, .commands, .errorLog]) (by decide) (.refl _ d) sq cid status result e).runOf_eq (by decide) st

@[simp] theorem Dev.setCmt_runOf (s lo len v : Nat) : (d.setCmt s lo len v).runOf st = d.runOf st :=
  (Dev.setCmt_tame (ps := setOf [.feat 0x00]) (by decide) (.refl _ d) s lo len v).runOf_eq (by decide) st

@[simp] theorem Dev.reportDrop_runOf (s n reason : Nat) : (d.reportDrop s n reason).runOf st = d.runOf st :=
  (Dev.reportDrop_tame (ps := setOf [.seq, .stats, .commands, .events, .logs, .bbx]) (by decide) (.refl _ d) s n reason).runOf_eq
    (by decide) st

@[simp] theorem Dev.skipDeveloped_runOf (s n : Nat) : (d.skipDeveloped s n).runOf st = d.runOf st :=
  (Dev.skipDeveloped_tame (ps := setOf [.proxy, .feat 0x17]) (by decide) (.refl _ d) s n).runOf_eq (by decide) st

@[simp] theorem Dev.onEnt_runOf (e : Nat) (f : EntEngine → EntEngine) : (d.onEnt e f).runOf st = d.runOf st :=
  (Dev.onEnt_tame (ps := setOf [.codec]) (by decide) (.refl _ d) e f).runOf_eq (by decide) st

@[simp] theorem Dev.onMir_runOf (e : Nat) (f : MirEngine → MirEngine) : (d.onMir e f).runOf st = d.runOf st :=
  (Dev.onMir_tame (ps := setOf [.codec]) (by decide) (.refl _ d) e f).runOf_eq (by decide) st

/-- Another stream that is disarmed leaves the run. -/
theorem Dev.disarm_runOf_of_ne {s st : Nat} (h : s ≠ st) : (d.disarm s).runOf st = d.runOf st := by
  have hsend (x : Dev) : x.reserveAgain.sendState.runOf st = x.runOf st :=
    (Dev.sendState_tame (ps := setOf [.pools, .stats, .link, .sent]) (by decide)
      (Dev.reserveAgain_tame (by decide) (.refl _ x))).runOf_eq (by decide) st
  unfold Dev.disarm
  rw [hsend, d.runOf_modCap_of_ne h]

@[simp] theorem Dev.sweep_runOf (s : Nat) : (d.sweep s).runOf st = d.runOf st := by
  have hfree (l : List Nat) : (d.freeMany l).runOf st = d.runOf st :=
    (Dev.freeMany_tame (ps := setOf [.pools]) (by decide) (.refl _ d) l).runOf_eq (by decide) st
  unfold Dev.sweep
  split
  · rfl
  · dsimp only
    rw [Dev.runOf_modCap, hfree]
    exact fun _ => rfl

/-! ### Rows that are filled -/

@[simp] theorem Dev.stageBufs_runOf (s n t k : Nat) : (d.stageBufs s n t k).runOf st = d.runOf st := by
  have hgrant (owner port j : Nat) : (d.grantMany owner port j).2.runOf st = d.runOf st :=
    (Dev.grantMany_tame (ps := setOf [.free, .seq, .stats, .commands, .events, .flt, .twk, .bbx, .link, .pools, .sent, .feat 0x1B])
      (by decide) (.refl _ d) owner port j).runOf_eq (by decide) st
  unfold Dev.stageBufs
  split
  · rfl
  · dsimp only
    split
    · rfl
    · rw [Dev.modBand_runOf, hgrant]

@[simp] theorem Mach.bufWrite_runOf (m : Mach) (bufs : List Nat) (o : Nat) (l : List Byte) (k : Nat) :
    (m.bufWrite bufs o l k).dev.runOf st = m.dev.runOf st :=
  (Mach.bufWrite_tame_dev (ps := setOf [.dram]) (by decide) (.refl _ m.dev) bufs o l k).runOf_eq (by decide) st

@[simp] theorem Mach.fillFrom_runOf (m : Mach) (s n t y k : Nat) : (m.fillFrom s n t y k).dev.runOf st = m.dev.runOf st := by
  induction k generalizing m y with
  | zero => rfl
  | succ k ih =>
    unfold Mach.fillFrom
    split
    · rfl
    · dsimp only
      split
      · rfl
      · simp only [ih, Dev.modBand_runOf, Dev.setRow_runOf, Mach.bufWrite_runOf, Dev.stageBufs_runOf]

@[simp] theorem Mach.badRow_runOf (m : Mach) (s n t y : Nat) : (m.badRow s n t y).dev.runOf st = m.dev.runOf st := by
  unfold Mach.badRow
  rw [Mach.fillFrom_runOf, Dev.setRow_runOf]

@[simp] theorem Mach.badLine_runOf (m : Mach) (s n y tiles : Nat) : (m.badLine s n y tiles).dev.runOf st = m.dev.runOf st :=
  foldl_keeps (g := fun m : Mach => m.dev.runOf st) (fun x t _ => x.badRow_runOf st s n t y) m

/-! ### Windows that close -/

/-- A frame put in the output queue leaves the run. -/
theorem Cap.putOut_putPast_runOf (c : Cap) (f : OutFrame) (p : Past) : ((c.putOut f).putPast p).runOf = c.runOf := rfl

@[simp] theorem Mach.closeFrame_runOf (m : Mach) (s n : Nat) : (m.closeFrame s n).dev.runOf st = m.dev.runOf st := by
  have hmiss (w : Work) (l : List Nat) : (l.foldl (fun m y => m.badLine s n y w.tiles.length) m).dev.runOf st = m.dev.runOf st :=
    foldl_keeps (g := fun m : Mach => m.dev.runOf st) (fun x y _ => x.badLine_runOf st s n y _) m
  unfold Mach.closeFrame
  split
  · split
    · rfl
    · dsimp only
      rw [Dev.sweep_runOf]
      split
      · rw [Dev.runOf_modCap _ _ (fun c => c.putOut_putPast_runOf _ _), Dev.reportDrop_runOf, Dev.modWork_runOf]
        split <;> simp only [Dev.prmEvent_runOf, hmiss]
      · rw [Dev.modWork_runOf]
        split <;> simp only [Dev.prmEvent_runOf, hmiss]
  · rfl

@[simp] theorem Mach.closeWindow_runOf (m : Mach) (n : Nat) : (m.closeWindow n).dev.runOf st = m.dev.runOf st := by
  unfold Mach.closeWindow
  refine (foldl_keeps (g := fun m : Mach => m.dev.runOf st) (fun x e _ => x.closeFrame_runOf st e.1 n) _).trans ?_
  exact foldl_keeps (g := fun d : Dev => d.runOf st) (fun x i _ => x.prmEvent_runOf st 12 i.1 0 1) m.dev

@[simp] theorem Dev.skipUnstaged_runOf (n : Nat) : (d.skipUnstaged n).runOf st = d.runOf st := by
  unfold Dev.skipUnstaged
  refine foldl_keeps (g := fun d : Dev => d.runOf st) (fun x e _ => ?_) d
  split
  · split
    · rfl
    · rw [Dev.modWork_runOf, Dev.skipDeveloped_runOf]
  · rfl

@[simp] theorem Dev.endHolds_runOf (n : Nat) : (d.endHolds n).runOf st = d.runOf st := by
  unfold Dev.endHolds
  refine foldl_keeps (g := fun d : Dev => d.runOf st) (fun x e _ => ?_) d
  split
  · rw [Dev.modWork_runOf, Dev.skipDeveloped_runOf]
  · rw [Dev.skipDeveloped_runOf]

/-! ### Frames that open, engines that begin -/

theorem Dev.openFrame_runOf {d : Dev} {s : Nat} {c : Cap} (h : d.cap s = some c) (n t : Nat) :
    (d.openFrame n t s c).runOf st = d.runOf st := by
  have hput (y : Cap) (hy : y.runOf = c.runOf) : (d.stamped.setCap s (some y)).runOf st = d.runOf st :=
    Dev.runOf_setCap (d := d.stamped) h hy st
  unfold Dev.openFrame
  dsimp only
  split <;> exact hput _ rfl

@[simp] theorem Dev.entPump_runOf (e : Nat) : (d.entPump e).runOf st = d.runOf st := by
  unfold Dev.entPump
  dsimp only
  split
  · rfl
  · split
    · rfl
    · split
      · rfl
      · split <;> simp only [Dev.onEnt_runOf, Dev.onBand_runOf]

@[simp] theorem Dev.mirPump_runOf (e : Nat) : (d.mirPump e).runOf st = d.runOf st := by
  unfold Dev.mirPump
  dsimp only
  split
  · rfl
  · split
    · rfl
    · rw [Dev.onMir_runOf, Dev.onBand_runOf]
      split <;> rfl

@[simp] theorem Dev.pumpAll_runOf : d.pumpAll.runOf st = d.runOf st :=
  foldl_keeps (g := fun d : Dev => d.runOf st) (fun x e _ => ((x.entPump e).mirPump_runOf st e).trans (x.entPump_runOf st e)) d

@[simp] theorem Dev.openFrames_runOf (n t : Nat) : (d.openFrames n t).runOf st = d.runOf st := by
  have hpost (x : Dev) (thread : Nat) (e : SeqEvent) : (x.seqPost thread e).runOf st = x.runOf st :=
    (Dev.seqPost_tame (ps := setOf [.seqr]) (by decide) (.refl _ x) thread e).runOf_eq (by decide) st
  unfold Dev.openFrames
  dsimp only
  rw [foldl_keeps (g := fun d : Dev => d.runOf st) (fun x e _ => hpost x _ _), Dev.pumpAll_runOf,
    foldl_keeps (g := fun d : Dev => d.runOf st) (fun x e _ => x.sweep_runOf st e.1)]
  refine foldl_keeps (g := fun d : Dev => d.runOf st) (fun x e _ => ?_) d
  split
  next h => exact Dev.openFrame_runOf st h n t
  next => rfl

@[simp] theorem Dev.signalTick_runOf : d.signalTick.runOf st = d.runOf st := d.signalTick_tame.runOf_eq (by decide) st

/-! ### A start that a tick makes -/

/-- With no magazine mounted, none is full. -/
theorem Dev.stopFull_of_unmounted {d : Dev} (h : ∀ p, p < 2 → (d.mag p).mounted = false) : d.stopFull = d := by
  simp only [Dev.stopFull, List.foldl_cons, List.foldl_nil, h 0 (by decide), h 1 (by decide), Bool.false_and, Bool.false_eq_true, if_false]

/-- A stop leaves the armed stream whose start is pending. -/
theorem Dev.stopsAt_runOf {d : Dev} {st f : Nat} {x : Nat × Nat × Nat} (hw : Tbl.wf (fun _ => none) d.caps = true)
    (h : d.runOf st = some (.armed, some x, f)) (n : Nat) : (d.stopsAt n).runOf st = d.runOf st := by
  obtain ⟨c, hc, hrun, hstart, -⟩ := Dev.cap_of_runOf h
  unfold Dev.stopsAt
  refine foldl_keeps (g := fun d : Dev => d.runOf st) (fun y e he => ?_) d
  have hcap := Dev.cap_of_mem_streams hw he
  split
  · rfl
  · split
    · rfl
    · by_cases hs : e.1 = st
      · have heq : e.2 = c := Option.some.inj ((hcap.symm.trans (congrArg d.cap hs)).trans hc)
        simp only [heq, hrun, hstart, Option.isSome_some, if_true]
      · split
        · rw [Dev.postEvent_runOf, Dev.setCmt_runOf, Dev.runOf_modCap_of_ne _ hs]
        · split
          · rfl
          · rw [Dev.complete_runOf, Dev.disarm_runOf_of_ne _ hs, Dev.runOf_modCap_of_ne _ hs]
        · rfl

/-- A capture whose run starts at tick `n`. -/
def Cap.started (n : Nat) (c : Cap) : Cap :=
  { c with run := .running, hadRun := true, start := none, first := n, forceAnchor := true, sinceAnchor := 0 }

/-- A stream whose start for queue `sq`, command `cid` is due at tick `n` starts. -/
def Dev.startStream (d : Dev) (n s sq cid : Nat) : Dev :=
  let d1 := (d.modCap s (Cap.started n)).onOpenClip s (fun _ x => { x with first := n })
  let d2 := if (d1.proxyCtx.map (fun p => p.2.stream)) = some s then
      d1.onProxy (fun p => { p with runFirst := some n, developed := 0, outs := List.replicate 3 {} }) else d1
  if d2.link.bcast.any (fun b => decide (b.sq = sq ∧ b.cid = cid ∧ b.n = n)) then d2 else d2.complete sq cid Status.ok n

/-- A stream at tick `n`: it starts if it is armed and its start is due. -/
def Dev.startIfDue (n : Nat) (d : Dev) (e : Nat × Cap) : Dev :=
  match e.2.run, e.2.start with
  | .armed, some (t, sq, cid) => if t ≠ n then d else d.startStream n e.1 sq cid
  | _, _ => d

/-- The starts of a tick, then the broadcasts that end with it. -/
theorem Dev.startsAt_eq (n : Nat) :
    d.startsAt n =
      let d1 := d.streams.foldl (Dev.startIfDue n) d
      (d1.link.bcast.filter (fun b => decide (b.n = n))).foldl (fun d b => d.bcastEnd b) d1 := rfl

/-- Beside the capture, a start changes the clip, the proxy path and the commands. -/
theorem Dev.startStream_tame (n s sq cid : Nat) :
    Dev.Tame (setOf [.seq, .commands, .errorLog, .proxy, .mags]) (d.modCap s (Cap.started n)) (d.startStream n s sq cid) := by
  unfold Dev.startStream
  dsimp only
  have hclip := Dev.onOpenClip_tame (ps := setOf [.seq, .commands, .errorLog, .proxy, .mags]) (by decide)
    (.refl _ (d.modCap s (Cap.started n))) s (fun _ x => { x with first := n })
  refine Dev.tame_ite ?_ (Dev.complete_tame (by decide) ?_ _ _ _ _ _) <;>
  exact Dev.tame_ite (Dev.onProxy_tame (by decide) hclip _) hclip

/-- Beside the capture, a start leaves every run. -/
theorem Dev.startStream_runOf (n s sq cid : Nat) :
    (d.startStream n s sq cid).runOf st = (d.modCap s (Cap.started n)).runOf st :=
  (d.startStream_tame n s sq cid).runOf_eq (by decide) st

/-- The run of a stream that starts. -/
theorem Dev.startStream_runOf_same {d : Dev} {st : Nat} (h : (d.runOf st).isSome = true) (n sq cid : Nat) :
    (d.startStream n st sq cid).runOf st = some (.running, none, n) := by
  unfold Dev.runOf at h
  rw [Option.isSome_map] at h
  obtain ⟨c, hc⟩ := Option.isSome_iff_exists.1 h
  rw [Dev.startStream_runOf]
  unfold Dev.runOf
  rw [Dev.cap_modCap_same hc]
  rfl

/-- At a tick a stream's run is as it was, or it starts. -/
theorem Dev.startIfDue_runOf (n : Nat) (e : Nat × Cap) :
    (Dev.startIfDue n d e).runOf st = d.runOf st ∨
      e.1 = st ∧ ∃ sq cid, Dev.startIfDue n d e = d.startStream n st sq cid := by
  unfold Dev.startIfDue
  split
  · split
    · exact .inl rfl
    · by_cases hs : e.1 = st
      · exact .inr ⟨hs, _, _, by rw [hs]⟩
      · exact .inl ((d.startStream_runOf st n e.1 _ _).trans (d.runOf_modCap_of_ne hs _))
  · exact .inl rfl

/-- A start that is due at the tick is made. -/
theorem Dev.startsAt_runOf {d : Dev} {st n sq cid f : Nat} (h : d.runOf st = some (.armed, some (n, sq, cid), f)) :
    (d.startsAt n).runOf st = some (.running, none, n) := by
  obtain ⟨c, hc, hrun, hstart, -⟩ := Dev.cap_of_runOf h
  have hbcast (x : Dev) (b : Broadcast) : (x.bcastEnd b).runOf st = x.runOf st :=
    (Dev.bcastEnd_tame (ps := setOf [.seq, .commands, .errorLog, .bbx, .link]) (by decide) (.refl _ x) b).runOf_eq (by decide) st
  rw [Dev.startsAt_eq]
  dsimp only
  rw [foldl_keeps (g := fun d : Dev => d.runOf st) (fun x b _ => hbcast x b)]
  refine foldl_reaches (I := fun x : Dev => (x.runOf st).isSome = true) (J := fun x : Dev => x.runOf st = some (.running, none, n))
    (Dev.mem_streams_of_cap hc) (fun x e hx => ?_) (fun x e hx => ?_) (fun x hx => ?_) ?_
  · obtain h | ⟨-, a, b, h⟩ := x.startIfDue_runOf st n e
    · rw [h, hx]
    · rw [h, Dev.startStream_runOf_same hx, Option.isSome_some]
  · obtain h | ⟨-, a, b, h⟩ := x.startIfDue_runOf st n e
    · rw [h, hx]
    · rw [h, Dev.startStream_runOf_same (hx ▸ rfl)]
  · have hdue : Dev.startIfDue n x (st, c) = x.startStream n st sq cid := by
      simp only [Dev.startIfDue, hrun, hstart, ne_eq, not_true_eq_false, if_false]
    rw [hdue, Dev.startStream_runOf_same hx]
  · rw [h, Option.isSome_some]

/-- An armed stream whose start is pending keeps it while an interval closes, where no magazine is mounted. -/
theorem Mach.closeInterval_runOf {m : Mach} {st f : Nat} {x : Nat × Nat × Nat} (hw : Tbl.wf (fun _ => none) m.dev.caps = true)
    (h : m.dev.runOf st = some (.armed, some x, f)) (hmag : ∀ p, p < 2 → (m.dev.mag p).mounted = false) (was : Bool) (old n : Nat) :
    (m.closeInterval was old n).dev.runOf st = m.dev.runOf st := by
  unfold Mach.closeInterval
  cases was <;> simp only [Bool.false_eq_true, if_false, if_true, Dev.stopFull_of_unmounted hmag, Dev.skipUnstaged_runOf,
    Mach.closeWindow_runOf, Dev.stopsAt_runOf hw h]

/-- A start that is due at a tick is made there, where no magazine is mounted. -/
theorem Mach.issueTick_runOf {m : Mach} {st n sq cid f : Nat} (hw : Tbl.wf (fun _ => none) m.dev.caps = true)
    (h : m.dev.runOf st = some (.armed, some (n, sq, cid), f)) (hmag : ∀ p, p < 2 → (m.dev.mag p).mounted = false)
    (t : Nat) (sub late : Bool) (mode : TickMode) :
    (m.issueTick n t sub late mode).dev.runOf st = some (.running, none, n) := by
  have hlatch := Dev.latch_tame (ps := setOf [.stats, .snap, .sid, .link, .mags]) (by decide) (.refl _ m.dev) n t sub late
  have hcaps : (m.dev.latch n t sub late).caps = m.dev.caps := hlatch.same .caps (by decide)
  have hrun := (hlatch.runOf_eq (by decide) st).trans h
  have hclose := Mach.closeInterval_runOf (m := { m with dev := m.dev.latch n t sub late }) ((congrArg _ hcaps).trans hw) hrun
    (fun p hp => (m.dev.latch_mag_mounted n t sub late p).trans (hmag p hp)) m.dev.tick.begun m.dev.tick.now n
  have htaken (d : Dev) : (d.takeLevels.tickTaken n t mode).latchProxy.runOf st = d.runOf st :=
    (Dev.latchProxy_tame (ps := setOf [.seq, .commands, .errorLog, .power, .tick, .proxy]) (by decide)
      (Dev.tickTaken_tame (by decide) (Dev.takeLevels_tame (by decide) (.refl _ d)) n t mode)).runOf_eq (by decide) st
  rw [Mach.issueTick_eq]
  dsimp only
  rw [Dev.signalTick_runOf, Dev.openFrames_runOf]
  unfold Dev.beginInterval
  refine Dev.startsAt_runOf (sq := sq) (cid := cid) (f := f) ?_
  rw [Dev.endHolds_runOf, htaken, hclose]
  exact hrun

end Sys2Proof.Machine
end

section
/-! The start of the tick unit, ticks of the schedule and of messages, and TICK_OUT (R18, R21, R26, R32, R493, R494, R533). -/

namespace Sys2Proof.Machine
open Sys2Proof

/-! ### What a tick leaves of its first stages -/

/-- From the closed interval on to the end of a tick. -/
theorem Dev.afterClose_tame (d : Dev) (n t : Nat) (mode : TickMode) :
    Dev.Tame (setOf [.free, .seq, .commands, .errorLog, .msix, .bbx, .intr, .tick, .link, .pools, .dma, .power, .caps, .codec, .seqr,
      .proxy, .mags, .sent, .feat 0x16, .feat 0x17]) d
      (((d.takeLevels.tickTaken n t mode).beginInterval n).openFrames n t).signalTick :=
  (((Dev.tickTaken_tame (by decide) (Dev.takeLevels_tame (by decide) (.refl _ d)) n t mode).trans
    ((Dev.openInterval_tame _ n t).mono (by decide))).trans ((Dev.signalTick_tame _).mono (by decide)))

/-- The window that a tick closes leaves no row of any source. -/
theorem Mach.closeInterval_sources (m : Mach) (old n : Nat) : (m.closeInterval true old n).dev.prism.sources = [] := by
  have hskip (x : Dev) : (x.skipUnstaged old).prism = x.prism :=
    (Dev.skipUnstaged_tame (ps := setOf [.caps, .proxy, .feat 0x17]) (by decide) (.refl _ x) old).same .prism (by decide)
  unfold Mach.closeInterval
  dsimp only
  rw [if_pos rfl, hskip]
  rfl

/-- The machine whose interval tick `n` has closed: its statistics are latched, its windows closed. -/
def Mach.closedBy (m : Mach) (n t : Nat) (sub late : Bool) : Mach :=
  Mach.closeInterval { m with dev := m.dev.latch n t sub late } m.dev.tick.begun m.dev.tick.now n

/-- The device after a tick, from the closed interval on. -/
theorem Mach.issueTick_dev (m : Mach) (n t : Nat) (sub late : Bool) (mode : TickMode) :
    (m.issueTick n t sub late mode).dev =
      ((((m.closedBy n t sub late).dev.takeLevels.tickTaken n t mode).beginInterval n).openFrames n t).signalTick := by
  unfold Mach.closedBy
  rw [Mach.issueTick_eq]

/-- A tick latches the statistics of the interval that it ends. -/
theorem Mach.issueTick_snap (m : Mach) (n t : Nat) (sub late : Bool) (mode : TickMode) :
    let e := (m.issueTick n t sub late mode).dev
    e.snapHidden = m.dev.snap ∧ Tbl.get (fun _ => 0) e.snap 0x7004 = word n ∧
      Tbl.get (fun _ => 0) e.snap 0x7000 = Tbl.get (fun _ => 0) m.dev.snap 0x7000 + 1 := by
  have hclose : (m.closedBy n t sub late).dev.snap = (m.dev.latch n t sub late).snap ∧
      (m.closedBy n t sub late).dev.snapHidden = (m.dev.latch n t sub late).snapHidden :=
    (Mach.closeInterval_tame _ _ _ n).same .snap (by decide)
  have hafter := ((m.closedBy n t sub late).dev.afterClose_tame n t mode).same .snap (by decide)
  dsimp only
  rw [Mach.issueTick_dev, hafter.1, hafter.2, hclose.1, hclose.2]
  exact m.dev.latch_snap n t sub late

/-- No row of any source is left after a tick that ends an interval. -/
theorem Mach.issueTick_sources {m : Mach} (h : m.dev.tick.begun = true) (n t : Nat) (sub late : Bool) (mode : TickMode) :
    (m.issueTick n t sub late mode).dev.prism.sources = [] := by
  have hafter : (m.issueTick n t sub late mode).dev.prism = (m.closedBy n t sub late).dev.prism :=
    ((m.closedBy n t sub late).dev.afterClose_tame n t mode).same .prism (by decide)
  unfold Mach.closedBy at hafter
  rw [hafter, h, Mach.closeInterval_sources]

/-! ### The commands -/

section
variable {s : State} {P : State → Prop} (hl : s.Live)
include hl

theorem tick_yields {m : Mach} (he : exec .tick s = live (fun _ => m) s) (hP : P (s.settledAt m)) : Yields .tick s tickParts P :=
  yields_of_live hl he (execTick_framed s) (by decide) hP

end

/-- The machine at the next tick of the schedule. -/
abbrev State.atTick (s : State) : Mach := { s.m with dev := s.m.dev.advanceToSid s.m.dev.tick.next }

/-- The machine when the next tick of the schedule is issued. -/
abbrev State.ticked (s : State) : Mach :=
  s.atTick.issueTick s.m.dev.tick.nextNo s.m.dev.tick.next false false s.atTick.dev.afterSchedule

/-- The schedule ends where the unit runs on own periods from a tick on (R494). -/
def Mach.leaveSchedule (m : Mach) (t : Nat) : Mach :=
  { m with dev := if m.dev.tick.mode = .holdover then m.dev.onTick (fun x => x.runFree t) else m.dev }

/-- A tick of the schedule is issued at its instant. -/
theorem execTick_of_schedule {s : State} (hr : s.m.dev.tick.running = true) (hm : s.m.dev.tick.mode = .schedule) :
    execTick s = live (fun _ => s.ticked.leaveSchedule s.m.dev.tick.next) s :=
  live_congr (by simp only [hr, hm, Mach.leaveSchedule, Bool.not_true, Bool.false_eq_true, if_false, if_true])

/-- A tick of a message is issued as the message says. -/
theorem execTick_of_message {s : State} {x : TickMsg} {r : List TickMsg} (hr : s.m.dev.tick.running = true)
    (hm : s.m.dev.tick.mode ≠ .schedule) (hx : s.m.dev.tick.msgs = x :: r) (hs : s.m.dev.tickSource = 3) :
    execTick s = live (fun _ => s.m.followMsg x r) s :=
  live_congr (by simp only [hr, hm, hx, hs, Bool.not_true, Bool.false_eq_true, if_false, if_true])

/-- Leaving the schedule changes the base of the own periods alone. -/
theorem Mach.leaveSchedule_dev (m : Mach) (t : Nat) :
    ∃ b j, (m.leaveSchedule t).dev = m.dev.onTick (fun k => { k with holdBase := b, holdK := j }) := by
  unfold Mach.leaveSchedule
  dsimp only
  split
  · exact ⟨t, 1, rfl⟩
  · exact ⟨m.dev.tick.holdBase, m.dev.tick.holdK, rfl⟩

/-- How ticks come after one of the schedule (R21, R494). -/
theorem Dev.afterSchedule_eq (d : Dev) :
    d.afterSchedule = if d.tickSource = 1 then .firstEdge else if d.tickSource = 3 then .holdover else .schedule := by
  unfold Dev.afterSchedule
  split
  next h => rw [if_pos h]
  next h => rw [if_neg (by omega), if_pos h]
  next h1 h3 => rw [if_neg h1, if_neg h3]

/-- The tick unit as firmware starts it. -/
def Dev.startTickUnit (d : Dev) : Dev :=
  let d1 := ((d.setReg 0x01 0x100 (if d.boot.role = 2 then 3 else 0)).setReg 0x01 0x104 0x00180001).onTick (fun _ =>
    { running := true, rateN := 24, rateD := 1, prev := d.sdt, lastClk := d.clk })
  (d1.onSid (fun t => { t with unlockedSeen := !t.locked })).placeTick d.sdt 0

/-- What a meaning gives on the device that a command runs on is all that the command does. -/
theorem liveDev_congr {f g : Dev → Dev} {s : State} (h : f s.m.dev = g s.m.dev) : liveDev f s = liveDev g s :=
  live_congr (congrArg (fun d => ({ s.m with dev := d } : Mach)) h)

/-- Firmware starts the stopped unit. -/
theorem execTickUnitStart_of_stopped {s : State} (hb : s.m.dev.boot.state = .fwStart) (hr : s.m.dev.tick.running = false) :
    execTickUnitStart s = liveDev Dev.startTickUnit s := by
  unfold execTickUnitStart
  refine liveDev_congr ((onlyIf_of_true ?_ _ _).trans rfl)
  rw [hr, Bool.not_false, Bool.and_true, decide_eq_true hb]

/-- TICK_OUT falls where it is high. -/
theorem execTickOutFall_of_high {s : State} {t0 : Nat} (h : s.m.dev.tick.outAt = some t0) :
    execTickOutFall s = liveDev (fun d =>
      (d.advanceTo (t0 + 1000 * fld (d.reg 0x01 0x108) 24 8)).onTick (fun k => { k with outAt := none })) s := by
  unfold execTickOutFall
  refine liveDev_congr ?_
  rw [h]
  rfl

/-- Time that passes until an instant leaves the tick unit, and never turns back. -/
theorem Dev.advanceTo_tick_clk (d : Dev) (t : Nat) : (d.advanceTo t).tick = d.tick ∧ (d.advanceTo t).clk = max d.clk t := by
  unfold Dev.advanceTo
  split
  next h => exact ⟨rfl, by simp only [Dev.advance]; omega⟩
  next h => exact ⟨rfl, by omega⟩

/-- The registers of the started unit: the source of its role, 24 frames per second (R21). -/
theorem Dev.startTickUnit_reg {d : Dev} (h : d.Shape) :
    d.startTickUnit.reg 0x01 0x104 = 0x00180001 ∧ d.startTickUnit.reg 0x01 0x100 = if d.boot.role = 2 then 3 else 0 := by
  have hsource := Dev.reg_setReg h 0x01 0x100 (if d.boot.role = 2 then 3 else 0)
  have hrate := Dev.reg_setReg (Dev.setReg_keeps d 0x01 0x100 (if d.boot.role = 2 then 3 else 0) h) 0x01 0x104 0x00180001
  exact ⟨hrate, (Dev.reg_setReg_of_ne (g := 0x01) (q := 0x104) (v := 0x00180001) (by decide)).trans hsource⟩

/-- The machine at the instant of a message that a worker follows. -/
abbrev Mach.atMessage (m : Mach) (x : TickMsg) (r : List TickMsg) : Mach :=
  { m with dev := (m.dev.advanceToSid x.t).onTick (fun k => { k with msgs := r, rateN := x.rateN, rateD := x.rateD }) }

/-- The tick unit that follows a message. -/
def TickUnit.follows (k : TickUnit) : TickUnit := { k with following := true, holdover := false, mismatch := false }

/-- The machine when the tick of a message is issued: late where holdover has run past the period (R535). -/
def Mach.messageTicked (m : Mach) (x : TickMsg) (r : List TickMsg) : Mach :=
  let k := (m.dev.advanceToSid x.t).tick
  (m.atMessage x r).issueTick x.n x.t false (k.holdover && decide (k.prev + k.period < x.t)) .messages

/-- A worker that follows a message takes its tick, and reports that holdover ends. -/
theorem Mach.followMsg_dev (m : Mach) (x : TickMsg) (r : List TickMsg) :
    (m.followMsg x r).dev =
      if (m.dev.advanceToSid x.t).tick.holdover then ((m.messageTicked x r).dev.onTick TickUnit.follows).postEvent 0x06 2 0
      else (m.messageTicked x r).dev.onTick TickUnit.follows := rfl

/-- The event that ends holdover leaves the time and the tick unit. -/
theorem Mach.followMsg_tick_clk (m : Mach) (x : TickMsg) (r : List TickMsg) :
    (m.followMsg x r).dev.clk = (m.messageTicked x r).dev.clk ∧ (m.followMsg x r).dev.tick = (m.messageTicked x r).dev.tick.follows := by
  have hpost (d : Dev) : (d.postEvent 0x06 2 0).clk = d.clk ∧ (d.postEvent 0x06 2 0).tick = d.tick :=
    have htame := Dev.postEvent_tame (ps := setOf [.seq, .commands, .events]) (by decide) (.refl _ d) 0x06 2 0
    ⟨htame.same .clk (by decide), htame.same .tick (by decide)⟩
  rw [Mach.followMsg_dev]
  split <;> simp only [hpost, Dev.onTick_fields, and_self]

/-! ### The clauses -/

section
variable {s : State} (hl : s.Live)
include hl

theorem tickUnitStart_yields (hsh : s.m.dev.Shape) (hb : s.m.dev.boot.state = .fwStart) (hr : s.m.dev.tick.running = false) :
    Yields .tickUnitStart s [.sid, .tick, .feat 0x01] (fun t => t.m.dev.tick.running = true ∧ t.m.dev.tick.begun = false ∧
      t.m.dev.tick.rateN = 24 ∧ t.m.dev.tick.rateD = 1 ∧ t.m.dev.tick.mode = .schedule ∧ t.m.dev.reg 0x01 0x104 = 0x00180001 ∧
      t.m.dev.reg 0x01 0x100 = (if s.m.dev.boot.role = 2 then 3 else 0)) := by
  refine yields_of_liveDev hl (execTickUnitStart_of_stopped hb hr) (execTickUnitStart_framed s) (by decide) ?_
  simp only [Dev.settle_tick, Dev.settle_reg]
  exact ⟨rfl, rfl, rfl, rfl, rfl, Dev.startTickUnit_reg hsh⟩

theorem tickOutFall_yields {t0 : Nat} (h : s.m.dev.tick.outAt = some t0) :
    Yields .tickOutFall s [.clk, .sid, .tick] (fun t => t.m.dev.tick = { s.m.dev.tick with outAt := none } ∧
      t.m.dev.clk = max s.m.dev.clk (t0 + 1000 * fld (s.m.dev.reg 0x01 0x108) 24 8)) := by
  refine yields_of_liveDev hl (execTickOutFall_of_high h) (execTickOutFall_framed s) (by decide) ?_
  obtain ⟨htick, hclk⟩ := s.m.dev.advanceTo_tick_clk (t0 + 1000 * fld (s.m.dev.reg 0x01 0x108) 24 8)
  simp only [Dev.settle_tick, Dev.settle_clk]
  exact ⟨congrArg (fun k : TickUnit => { k with outAt := none }) htick, hclk⟩

theorem tick_of_schedule_yields (hr : s.m.dev.tick.running = true) (hm : s.m.dev.tick.mode = .schedule) :
    Yields .tick s tickParts (fun t => t.m.dev.clk = (s.m.dev.advanceToSid s.m.dev.tick.next).clk ∧
      t.m.dev.tick.begun = true ∧ t.m.dev.tick.now = s.m.dev.tick.nextNo ∧ t.m.dev.tick.prev = s.m.dev.tick.next ∧
      t.m.dev.tick.last = s.m.dev.tick.next ∧
      t.m.dev.tick.mode = (if s.m.dev.tickSource = 1 then .firstEdge else if s.m.dev.tickSource = 3 then .holdover else .schedule) ∧
      (s.m.dev.tickSource ≠ 1 → s.m.dev.tickSource ≠ 3 → t.m.dev.tick.index = s.m.dev.tick.index + 1 ∧
        t.m.dev.tick.next = s.m.dev.schedAt (s.m.dev.tick.index + 1)) ∧
      t.m.dev.tick.outAt = some (t.m.dev.clk + fld (s.m.dev.reg 0x01 0x108) 8 16) ∧
      Tbl.get (fun _ => 0) t.m.dev.snap 0x7004 = word s.m.dev.tick.nextNo ∧
      Tbl.get (fun _ => 0) t.m.dev.snap 0x7000 = Tbl.get (fun _ => 0) s.m.dev.snap 0x7000 + 1 ∧
      t.m.dev.snapHidden = s.m.dev.snap ∧ (s.m.dev.tick.begun = true → t.m.dev.prism.sources = [])) := by
  refine tick_yields hl (execTick_of_schedule hr hm) ?_
  obtain ⟨b, j, hleave⟩ := s.ticked.leaveSchedule_dev s.m.dev.tick.next
  obtain ⟨i, x, htick, hnext⟩ := s.atTick.issueTick_tick s.m.dev.tick.nextNo s.m.dev.tick.next false false s.atTick.dev.afterSchedule
  obtain ⟨hhidden, hnumber, hseq⟩ :=
    s.atTick.issueTick_snap s.m.dev.tick.nextNo s.m.dev.tick.next false false s.atTick.dev.afterSchedule
  have hclk : s.ticked.dev.clk = s.atTick.dev.clk := Mach.issueTick_clk ..
  have hmode := s.atTick.dev.afterSchedule_eq
  have hsched (i : Nat) : s.atTick.dev.schedAt i = s.m.dev.schedAt i := Dev.schedAt_congr rfl (fun _ => rfl) i
  have hsnap (t : Nat) : (s.m.dev.advanceToSid t).snap = s.m.dev.snap := rfl
  simp only [State.settledAt, Dev.settle_clk, Dev.settle_tick, Dev.settle_snap, Dev.settle_snapHidden, Dev.settle_prism, hleave,
    Dev.onTick_fields, hclk, htick, hnumber, hseq, hhidden, hsnap]
  refine ⟨trivial, rfl, rfl, rfl, rfl, hmode, fun h1 h3 => ?_, rfl, trivial, trivial, trivial, fun hb => ?_⟩
  · rw [← hsched]
    exact hnext (hmode.trans ((if_neg h1).trans (if_neg h3)))
  · rw [Mach.issueTick_sources (m := s.atTick) hb]

theorem tick_starts_yields {st sq cid : Nat} {cap : Cap} (hr : s.m.dev.tick.running = true) (hm : s.m.dev.tick.mode = .schedule)
    (hw : Tbl.wf (fun _ => none) s.m.dev.caps = true) (hc : s.m.dev.cap st = some cap) (hrun : cap.run = .armed)
    (hstart : cap.start = some (s.m.dev.tick.nextNo, sq, cid)) (hmag : ∀ p, p < 2 → (s.m.dev.mag p).mounted = false) :
    Yields .tick s tickParts (fun t => ∃ y, t.m.dev.cap st = some y ∧ y.run = .running ∧ y.first = s.m.dev.tick.nextNo ∧
      y.start = none) := by
  refine tick_yields hl (execTick_of_schedule hr hm) ?_
  obtain ⟨b, j, hleave⟩ := s.ticked.leaveSchedule_dev s.m.dev.tick.next
  have harmed : s.atTick.dev.runOf st = some (.armed, some (s.m.dev.tick.nextNo, sq, cid), cap.first) := by
    have h : s.m.dev.runOf st = some cap.runOf := congrArg (Option.map Cap.runOf) hc
    rw [← hrun, ← hstart]
    exact h
  have hissue : s.ticked.dev.runOf st = some (.running, none, s.m.dev.tick.nextNo) :=
    Mach.issueTick_runOf (m := s.atTick) hw harmed hmag _ _ _ _
  have hdone : (s.ticked.leaveSchedule s.m.dev.tick.next).dev.runOf st = some (.running, none, s.m.dev.tick.nextNo) := by
    rw [hleave]
    exact ((Dev.onTick_tame (ps := setOf [.tick]) (by decide) (.refl _ _) _).runOf_eq (by decide) st).trans hissue
  obtain ⟨y, hy, hyrun, hystart, hyfirst⟩ := Dev.cap_of_runOf hdone
  simp only [State.settledAt, Dev.settle_cap]
  exact ⟨y, hy, hyrun, hyfirst, hystart⟩

theorem tick_of_message_yields {x : TickMsg} {r : List TickMsg} (hr : s.m.dev.tick.running = true)
    (hm : s.m.dev.tick.mode ≠ .schedule) (hx : s.m.dev.tick.msgs = x :: r) (hs : s.m.dev.tickSource = 3) :
    Yields .tick s tickParts (fun t => t.m.dev.clk = (s.m.dev.advanceToSid x.t).clk ∧ t.m.dev.tick.now = x.n ∧
      t.m.dev.tick.prev = x.t ∧ t.m.dev.tick.msgs = r ∧ t.m.dev.tick.rateN = x.rateN ∧ t.m.dev.tick.rateD = x.rateD ∧
      t.m.dev.tick.following = true ∧ t.m.dev.tick.holdover = false) := by
  refine tick_yields hl (execTick_of_message hr hm hx hs) ?_
  obtain ⟨hclk, htick⟩ := s.m.followMsg_tick_clk x r
  simp only [State.settledAt, Dev.settle_clk, Dev.settle_tick, hclk, htick, TickUnit.follows, Mach.messageTicked, Mach.issueTick_clk,
    Mach.issueTick_tick_fields,
    Dev.onTick_fields, and_self]

end

/-- Settles O51: firmware starts the unit, the schedule or a message gives a tick, and TICK_OUT falls. -/
theorem ticks : Obligations.Ticks := by
  intro s k hl hsh hk
  subst hk
  exact ⟨tickUnitStart_yields hl hsh, tick_of_schedule_yields hl,
    fun _ _ _ _ hr hm hw hc hrun _ hstart hmag => tick_starts_yields hl hr hm hw hc hrun hstart hmag,
    fun _ _ => tick_of_message_yields hl, fun _ => tickOutFall_yields hl⟩

end Sys2Proof.Machine
end

section
/-! Sensor-side events, and what the units of the prism read back as after their updates (R58, R68, R545). -/

namespace Sys2Proof.Machine
open Sys2Proof

/-! ### Sensor-side events -/

/-- A bit just set reads as set. -/
theorem bit_setFld_one (w : Word) {i : Nat} (hi : i < 32) : bit (setFld w i 1 1).toNat i = true := by
  unfold bit setFld word
  rw [BitVec.testBit_toNat, BitVec.getLsbD_or, BitVec.getLsbD_ofNat, Nat.testBit_shiftLeft]
  simp [hi]

/-- A fault leaves the registers of the sensor inputs. -/
theorem Dev.raise_reg_prm (d : Dev) (src arg o : Nat) : (d.raise src arg).reg 0x10 o = d.reg 0x10 o :=
  (Dev.raise_tame (ps := setOf [.free, .seq, .stats, .commands, .events, .flt, .twk, .bbx, .link, .sent]) (by decide)
    (.refl _ d) src arg).reg_eq (by decide) (by decide) o

/-- An event leaves the prism itself. -/
@[simp] theorem Dev.prmEvent_prism (d : Dev) (j input detail n : Nat) : (d.prmEvent j input detail n).prism = d.prism :=
  (Dev.prmEvent_tame (ps := setOf [.free, .seq, .stats, .commands, .events, .flt, .twk, .bbx, .link, .sent, .feat 0x10])
    (by decide) (.refl _ d) j input detail n).same .prism (by decide)

section
variable {d : Dev} {j : Nat} (hj : j < 16) (input detail : Nat)
include hj

/-- An event advances its counter (R68). -/
theorem Dev.reg_prmEvent (h : d.Shape) :
    (d.prmEvent j input detail).reg 0x10 (0x080 + 4 * j) = word (satAdd32 (d.reg 0x10 (0x080 + 4 * j)).toNat 1) := by
  unfold Dev.prmEvent Dev.setBit Dev.bump
  rw [Dev.raise_reg_prm, Dev.reg_setReg_of_ne (by unfold regKey; omega), Dev.reg_setReg h]

/-- An event leaves the counters of the others. -/
theorem Dev.reg_prmEvent_of_ne {k : Nat} (hk : k < 16) (hne : k ≠ j) :
    (d.prmEvent j input detail).reg 0x10 (0x080 + 4 * k) = d.reg 0x10 (0x080 + 4 * k) := by
  unfold Dev.prmEvent Dev.setBit Dev.bump
  rw [Dev.raise_reg_prm, Dev.reg_setReg_of_ne (by unfold regKey; omega), Dev.reg_setReg_of_ne (by unfold regKey; omega)]

/-- An event sets its bit (R68). -/
theorem Dev.bit_prmEvent (h : d.Shape) : bit ((d.prmEvent j input detail).reg 0x10 0x040).toNat j = true := by
  unfold Dev.prmEvent Dev.setBit Dev.bump
  rw [Dev.raise_reg_prm, Dev.reg_setReg (Dev.setReg_keeps _ _ _ _ h)]
  exact bit_setFld_one _ (by omega)

end

/-! ### What commands of the sensor inputs may change -/

/-- The parts that a lane block or a start of line may change. -/
abbrev laneParts : List Part := [.seq, .stats, .commands, .events, .flt, .bbx, .link, .prism, .feat 0x10]

/-- The parts that a start of frame may change. -/
abbrev sofParts : List Part := [.seq, .stats, .commands, .events, .flt, .bbx, .link, .caps, .prism, .feat 0x10]

/-- The parts that a row may change. -/
abbrev rowParts : List Part :=
  [.seq, .stats, .commands, .events, .flt, .bbx, .link, .pools, .dram, .caps, .prism, .dramMem, .feat 0x10, .feat 0x1B]

/-! ### Lanes, groups and sources -/

/-- A lane that is changed. -/
theorem Dev.lane_onLane_same {d : Dev} {i : Nat} (h : i < d.prism.lanes.length) (f : Lane → Lane) :
    (d.onLane i f).lane i = f (d.lane i) :=
  (modAt_getD d.prism.lanes i i f {} (.inr (.inl h))).trans (if_pos rfl)

/-- A group that is changed. -/
theorem Dev.group_onGroup_same {d : Dev} {g : Nat} (h : g < d.prism.groups.length) (f : Group → Group) :
    (d.onGroup g f).group g = f (d.group g) :=
  (modAt_getD d.prism.groups g g f {} (.inr (.inl h))).trans (if_pos rfl)

/-- A source that is changed to one that differs in the field `p` from a source where nothing has come. -/
theorem Dev.source_modSource {β : Type} (p : Source → β) {d : Dev} {g vc : Nat} {f : Source → Source}
    (h : p (f (d.source g vc)) ≠ p {}) : (d.modSource g vc f).source g vc = f (d.source g vc) :=
  Tbl.get_set_same _ _ _ (ne_of_apply_ne p h)

/-- A source whose start of frame has come, and is kept. -/
theorem Dev.source_modSource_of_sof {d : Dev} {g vc : Nat} {f : Source → Source} (h : (d.source g vc).sof = true)
    (hf : ∀ x, (f x).sof = x.sof) : (d.modSource g vc f).source g vc = f (d.source g vc) :=
  Dev.source_modSource Source.sof (by rw [hf, h]; exact nofun)

@[simp] theorem Dev.modSource_group (d : Dev) (g vc k : Nat) (f : Source → Source) : (d.modSource g vc f).group k = d.group k := rfl

theorem Dev.source_of_prism {d e : Dev} (h : e.prism = d.prism) (g vc : Nat) : e.source g vc = d.source g vc :=
  congrArg (fun p : Prism => Tbl.get (fun _ => ({} : Source)) p.sources (32 * g + vc)) h

theorem Dev.group_of_prism {d e : Dev} (h : e.prism = d.prism) (g : Nat) : e.group g = d.group g :=
  congrArg (fun p : Prism => p.groups.getD g {}) h

@[simp] theorem Dev.settle_source (d : Dev) (g vc : Nat) : d.settle.source g vc = d.source g vc := Dev.source_of_prism d.settle_prism g vc

@[simp] theorem Dev.settle_group (d : Dev) (g : Nat) : d.settle.group g = d.group g := Dev.group_of_prism d.settle_prism g

@[simp] theorem Dev.settle_lane (d : Dev) (i : Nat) : d.settle.lane i = d.lane i :=
  congrArg (fun p : Prism => p.lanes.getD i {}) d.settle_prism

@[simp] theorem Dev.settle_work (d : Dev) (s n : Nat) : d.settle.work s n = d.work s n := by
  unfold Dev.work
  rw [Dev.settle_cap]

/-! ### Frames in work -/

/-- The first element that has a property, after the first that has it is changed to one that has it too. -/
theorem find?_modifyFirst {α : Type} {p : α → Bool} {f : α → α} (h : ∀ x, p (f x) = p x) (l : List α) :
    (modifyFirst p f l).find? p = (l.find? p).map f := by
  induction l with
  | nil => rfl
  | cons x r ih =>
    unfold modifyFirst
    split
    next hx => simp only [List.find?_cons, h, hx, Option.map_some]
    next hx => simp only [List.find?_cons, hx, ih]

/-- A frame in work that is changed, its number kept. -/
theorem Dev.work_modWork {d : Dev} {s n : Nat} {c : Cap} (hc : d.cap s = some c) {f : Work → Work} (hf : ∀ w, (f w).frame = w.frame) :
    (d.modWork s n f).work s n = (d.work s n).map f := by
  unfold Dev.work Dev.modWork
  rw [Dev.cap_modCap_same hc, hc]
  exact find?_modifyFirst (fun w => by rw [hf]) c.works

/-- A frame whose window is open is in work. -/
theorem Dev.work_isSome_of_current {d : Dev} {s now : Nat} {c : Cap} {w : Work} (hc : d.cap s = some c) (hw : c.current now = some w) :
    (d.work s w.frame).isSome = true := by
  unfold Dev.work
  rw [hc]
  exact List.find?_isSome.2 ⟨w, List.mem_of_find?_eq_some hw, decide_eq_true rfl⟩

/-! ### Starts and ends of frame (R58) -/

/-- A source whose frame has ended. -/
def Source.closed (x : Source) : Source := { x with open_ := false, line := none }

/-- A source whose frame starts. -/
def Source.opened (counter : Nat) (x : Source) : Source :=
  { x with sof := true, open_ := true, discard := false, counter := counter, rows := 0, line := none }

/-- A source after a second start of frame. -/
def Source.spoiled (x : Source) : Source := { x with discard := true, line := none }

/-- A frame whose start of frame has come. -/
def Work.started (counter : Nat) (w : Work) : Work := { w with sof := true, counter := counter }

/-- A stream takes a start of frame for the frame whose window is open. -/
def Dev.startWork (counter : Nat) (d : Dev) (e : Nat × Cap) : Dev :=
  match e.2.current d.tick.now with
  | some w => d.modWork e.1 w.frame (Work.started counter)
  | none => d

theorem Dev.startWork_prism (counter : Nat) (d : Dev) (e : Nat × Cap) : (d.startWork counter e).prism = d.prism := by
  unfold Dev.startWork
  split
  · exact (Dev.modWork_tame (ps := setOf [.caps]) (by decide) (.refl _ d) _ _ _).same .prism (by decide)
  · rfl

section
variable {d : Dev} {g vc : Nat}

/-- The first start of frame in a window opens the source and the frames of its streams. -/
theorem Dev.sofAt_of_first (h : (d.source g vc).sof = false) (counter : Nat) :
    d.sofAt g vc counter = (d.onSource g vc).foldl (Dev.startWork counter) (d.modSource g vc (Source.opened counter)) := by
  unfold Dev.sofAt
  rw [h]
  rfl

theorem Dev.sofAt_prism_of_first (h : (d.source g vc).sof = false) (counter : Nat) :
    (d.sofAt g vc counter).prism = (d.modSource g vc (Source.opened counter)).prism := by
  rw [Dev.sofAt_of_first h]
  exact foldl_keeps (g := Dev.prism) (fun x e _ => x.startWork_prism counter e) _

theorem Dev.sofAt_source_of_first (h : (d.source g vc).sof = false) (counter : Nat) :
    (d.sofAt g vc counter).source g vc = (d.source g vc).opened counter := by
  rw [Dev.source_of_prism (Dev.sofAt_prism_of_first h counter), Dev.source_modSource Source.sof]
  exact nofun

/-- A second start of frame in a window is an event, and spoils the source. -/
theorem Dev.sofAt_of_second (h : (d.source g vc).sof = true) (counter : Nat) :
    d.sofAt g vc counter = (d.modSource g vc Source.spoiled).prmEvent 7 g 0 := by
  unfold Dev.sofAt
  rw [h]
  rfl

/-- The frame of the only stream has its start of frame. -/
theorem Dev.sofAt_work {n : Nat} {c : Cap} {w : Work} (h : (d.source g vc).sof = false) (hc : d.cap n = some c) (hg : c.input = g)
    (hv : c.vc = vc) (hs : d.streams = [(n, c)]) (hw : c.current d.tick.now = some w) (counter : Nat) :
    ∃ w', (d.sofAt g vc counter).work n w.frame = some w' ∧ w'.sof = true := by
  have hon : d.onSource g vc = [(n, c)] := by simp only [Dev.onSource, hs, hg, hv, and_self, decide_true, List.filter_cons_of_pos,
    List.filter_nil]
  have hnow : c.current (d.modSource g vc (Source.opened counter)).tick.now = some w := hw
  obtain ⟨v, hv⟩ := Option.isSome_iff_exists.1 (Dev.work_isSome_of_current hc hw)
  have hstarted : ((d.modSource g vc (Source.opened counter)).modWork n w.frame (Work.started counter)).work n w.frame =
      some (v.started counter) :=
    (Dev.work_modWork (d := d.modSource g vc (Source.opened counter)) (f := Work.started counter) hc (fun _ => rfl)).trans
      (congrArg (Option.map (Work.started counter)) hv)
  rw [Dev.sofAt_of_first h, hon]
  simp only [List.foldl_cons, List.foldl_nil, Dev.startWork, hnow]
  exact ⟨_, hstarted, rfl⟩

end

/-! ### Lines placed in windows (R57 to R59, R68) -/

/-- A row that cannot arrive whole leaves the prism itself. -/
theorem Mach.badRow_prism (m : Mach) (s n t y : Nat) : (m.badRow s n t y).dev.prism = m.dev.prism :=
  (Mach.badRow_tame_dev (ps := setOf [.free, .seq, .stats, .commands, .events, .flt, .twk, .bbx, .link, .pools, .dram, .caps, .sent,
    .feat 0x1B]) (by decide) (.refl _ m.dev) s n t y).same .prism (by decide)

theorem Mach.badLine_prism (m : Mach) (s n y tiles : Nat) : (m.badLine s n y tiles).dev.prism = m.dev.prism :=
  foldl_keeps (g := fun m : Mach => m.dev.prism) (fun x t _ => x.badRow_prism s n t y) m

/-- A line that failed a check leaves no segments. -/
theorem Mach.placeLine_none_prism (m : Mach) (g vc y : Nat) : (m.placeLine g vc y none).dev.prism = m.dev.prism := by
  refine foldl_keeps (g := fun m : Mach => m.dev.prism) (fun x e _ => ?_) m
  unfold Mach.placeRow
  dsimp only
  split
  · rfl
  · split
    · rfl
    · exact x.badLine_prism ..

/-- A line placed leaves the registers of the sensor inputs. -/
theorem Mach.placeLine_reg_prm (m : Mach) (g vc y : Nat) (line : Option (List Nat)) (o : Nat) :
    (m.placeLine g vc y line).dev.reg 0x10 o = m.dev.reg 0x10 o :=
  (Mach.placeLine_tame_dev (ps := setOf [.free, .seq, .stats, .commands, .events, .flt, .twk, .bbx, .link, .pools, .dram, .caps,
    .prism, .sent, .feat 0x1B]) (by decide) (.refl _ m.dev) g vc y line).reg_eq (by decide) (by decide) o

/-- The device with more segments that wait for staging. -/
def Dev.addSegs (d : Dev) (l : List Segment) : Dev := d.onPrism (fun p => { p with segs := p.segs ++ l })

@[simp] theorem Dev.addSegs_group (d : Dev) (l : List Segment) (g : Nat) : (d.addSegs l).group g = d.group g := rfl

@[simp] theorem Dev.addSegs_source (d : Dev) (l : List Segment) (g vc : Nat) : (d.addSegs l).source g vc = d.source g vc := rfl

/-- The segments of a line of photosites as a row of a frame. -/
def rowSegments (n : Nat) (c : Cap) (w : Work) (y : Nat) (l : List Nat) : List Segment :=
  segments n w.frame (y - c.top) (compsOf w.cfa) ((l.drop (c.left * compsOf w.cfa)).take (c.width * compsOf w.cfa)) 0 c.tileW

section
variable {n y : Nat} {c : Cap} {w : Work} (htop : c.top ≤ y) (hbottom : y < c.top + c.height)
include htop hbottom

/-- A line long enough for the window that it falls in is cut into segments; the memories are left. -/
theorem Mach.placeRow_of_window {m : Mach} {l : List Nat} (habsent : w.row 0 (y - c.top) = .absent)
    (hlen : (c.left + c.width) * compsOf w.cfa ≤ l.length) :
    (m.placeRow n c w y (some l)).mem = m.mem ∧
      (m.placeRow n c w y (some l)).dev.prism = (m.dev.addSegs (rowSegments n c w y l)).prism := by
  have hrow : ¬ ((l.drop (c.left * compsOf w.cfa)).take (c.width * compsOf w.cfa)).length < c.width * compsOf w.cfa := by
    rw [List.length_take, List.length_drop]
    rw [Nat.add_mul] at hlen
    omega
  have hset (d : Dev) (t : Nat) (r : RowState) : (d.setRow n w.frame t (y - c.top) r).prism = d.prism :=
    (Dev.setRow_tame (ps := setOf [.caps]) (by decide) (.refl _ d) ..).same .prism (by decide)
  unfold Mach.placeRow
  rw [if_neg (by omega)]
  dsimp only
  rw [if_neg (not_not.2 habsent), if_neg hrow]
  exact ⟨rfl, congrArg (fun p : Prism => { p with segs := p.segs ++ rowSegments n c w y l })
    (foldl_keeps (g := Dev.prism) (l := rowSegments n c w y l) (fun x e _ => hset x e.tile (.coming e.bytes.length)) m.dev)⟩

variable {d : Dev} {g vc : Nat} (hopen : d.openOn g vc = [(n, c, w)])
include hopen

/-- A line that is not too short reaches the right edge of the only window it falls in. -/
theorem Dev.le_length_of_not_tooShort {len : Nat} (h : d.tooShort g vc y len = false) :
    (c.left + c.width) * compsOf w.cfa ≤ len := by
  simpa [Dev.tooShort, hopen, htop, hbottom] using h

/-- A line that passed its checks leaves its segments, where one window is open and holds it. -/
theorem Mach.placeLine_of_window {m : Mach} (hm : m.dev = d) {l : List Nat} (habsent : w.row 0 (y - c.top) = .absent)
    (hshort : d.tooShort g vc y l.length = false) :
    (m.placeLine g vc y (some l)).mem = m.mem ∧
      (m.placeLine g vc y (some l)).dev.prism = (m.dev.addSegs (rowSegments n c w y l)).prism := by
  have hlen := Dev.le_length_of_not_tooShort htop hbottom hopen hshort
  unfold Mach.placeLine
  rw [hm, hopen, ← hm]
  exact Mach.placeRow_of_window htop hbottom habsent hlen

end

end Sys2Proof.Machine
end

section
/-! Lane blocks, and the messages of an SLVS group (R41 to R49, R58, R59, R68). -/

namespace Sys2Proof.Machine
open Sys2Proof

/-! ### Lane blocks (R43, R44) -/

/-- The payload of a block once it is descrambled, and the history that it leaves (R43). -/
def Dev.descrambled (d : Dev) (i block : Nat) : Nat × Nat := descramble (block / 4 % 2 ^ 32) (d.lane i).scr

/-- A lane whose scrambler history is put. -/
def Lane.withHistory (hist : Nat) (l : Lane) : Lane := { l with scr := hist }

/-- An unlocked lane on which one more valid header follows `good` others: 64 of them lock it. -/
def Lane.counted (good : Nat) (l : Lane) : Lane :=
  { l with good := good + 1, locked := decide (64 ≤ good + 1), seen := if 64 ≤ good + 1 then List.replicate 64 true else [] }

/-- A locked lane that stays locked after a valid header. -/
def Lane.stays (seen : List Bool) (l : Lane) : Lane := { l with seen := (true :: seen).take 64 }

/-- A lane that keeps the bytes of a data block. -/
def Lane.filled (bytes : List Byte) (l : Lane) : Lane := { l with data := l.data ++ bytes }

/-- The device once a lane has taken the history and the header of a block. -/
def Dev.headed (d : Dev) (i block : Nat) (valid : Bool) : Dev :=
  (d.onLane i (Lane.withHistory (d.descrambled i block).2)).laneHeader i valid

section
variable {d : Dev} {i block : Nat}

/-- An enabled lane is one of the 64. -/
theorem Dev.lt_of_laneOn (h : d.laneOn i = true) : i < 64 := by
  simp only [Dev.laneOn, Bool.and_eq_true, decide_eq_true_eq] at h
  exact h.1.1.2

@[simp] theorem Dev.onLane_lanes_length (d : Dev) (i : Nat) (f : Lane → Lane) :
    (d.onLane i f).prism.lanes.length = d.prism.lanes.length := modAt_length ..

theorem Dev.headed_tame (d : Dev) (i block : Nat) (valid : Bool) :
    Dev.Tame (setOf [.free, .seq, .stats, .commands, .events, .flt, .twk, .bbx, .link, .prism, .sent, .feat 0x10]) d
      (d.headed i block valid) :=
  Dev.laneHeader_tame (by decide) (Dev.onLane_tame (by decide) (.refl _ d) i _) i valid

/-- The header of a block leaves the counter of bad blocks: the loss of a lock has a counter of its own. -/
theorem Dev.headed_badBlocks (d : Dev) (i block : Nat) (valid : Bool) :
    (d.headed i block valid).reg 0x10 0x080 = d.reg 0x10 0x080 := by
  have hmis (x : Dev) (g : Nat) : (x.misalign g).reg 0x10 0x080 = x.reg 0x10 0x080 :=
    (Dev.misalign_tame (ps := setOf [.prism]) (by decide) (.refl _ x) g).reg_eq (by decide) (by decide) _
  have hevent (x : Dev) (g : Nat) : (x.prmEvent 1 g i).reg 0x10 0x080 = x.reg 0x10 0x080 :=
    Dev.reg_prmEvent_of_ne (j := 1) (k := 0) (by decide) g i (by decide) (by decide)
  unfold Dev.headed Dev.laneHeader
  dsimp only
  split
  · split
    · rw [hevent, hmis]
      rfl
    · rfl
  · rfl

/-- A block with an invalid header is bad. -/
theorem Dev.laneBlock_of_invalid (h : block % 4 = 0 ∨ block % 4 = 3) (slot : Nat) :
    d.laneBlock i slot block = (d.headed i block false).prmEvent 0 (d.groupOf i) i := by
  have hvalid : decide (block % 4 = 1 ∨ block % 4 = 2) = false := decide_eq_false (by omega)
  unfold Dev.laneBlock Dev.headed Dev.descrambled
  obtain ⟨p, hist⟩ := descramble (block / 4 % 2 ^ 32) (d.lane i).scr
  dsimp only
  rw [hvalid]
  rfl

/-- A data block counts as a header; a locked lane keeps its bytes. -/
theorem Dev.laneBlock_of_data (h : block % 4 = 1) (slot : Nat) :
    d.laneBlock i slot block =
      if ((d.headed i block true).lane i).locked then
        (d.headed i block true).onLane i (Lane.filled (leBytes 4 (d.descrambled i block).1))
      else d.headed i block true := by
  have hvalid : decide (block % 4 = 1 ∨ block % 4 = 2) = true := decide_eq_true (.inl h)
  have hdata : decide (block % 4 = 2) = false := decide_eq_false (by omega)
  unfold Dev.laneBlock Dev.headed Dev.descrambled
  obtain ⟨p, hist⟩ := descramble (block / 4 % 2 ^ 32) (d.lane i).scr
  dsimp only
  rw [hvalid, hdata]
  simp only [h, Bool.not_true, Bool.false_and, Bool.or_self, Bool.false_eq_true, if_false, if_true, Bool.not_eq_true',
    ← Bool.not_eq_true, ite_not]
  rfl

section
variable (hi : i < d.prism.lanes.length)
include hi

/-- A valid header on an unlocked lane. -/
theorem Dev.headed_of_unlocked (h : (d.lane i).locked = false) :
    d.headed i block true =
      (d.onLane i (Lane.withHistory (d.descrambled i block).2)).onLane i (Lane.counted (d.lane i).good) := by
  unfold Dev.headed Dev.laneHeader
  rw [Dev.lane_onLane_same hi]
  simp only [Lane.withHistory, h, Bool.false_eq_true, if_false, if_true]
  rfl

/-- A valid header on a lane that stays locked. -/
theorem Dev.headed_of_locked (h : (d.lane i).locked = true) (hseen : ((d.lane i).seen.filter (fun v => !v)).length < 16) :
    d.headed i block true =
      (d.onLane i (Lane.withHistory (d.descrambled i block).2)).onLane i (Lane.stays (d.lane i).seen) := by
  have hfew : ¬ 16 ≤ (((true :: (d.lane i).seen).take 64).filter (fun v => !v)).length := by
    have hsub := ((List.take_sublist 64 (true :: (d.lane i).seen)).filter (fun v => !v)).length_le
    rw [List.filter_cons_of_neg (by decide)] at hsub
    omega
  unfold Dev.headed Dev.laneHeader
  rw [Dev.lane_onLane_same hi]
  simp only [Lane.withHistory, h, hfew, if_true, if_false]
  rfl

end

end

section
variable {s : State} {i slot : Nat} {block : BitVec 34} (hl : s.Live) (hm : s.m.dev.prmMode = 1) (hon : s.m.dev.laneOn i = true)
include hl hm hon

/-- What a block does to an enabled lane is what LANE_BLOCK does. -/
theorem laneBlock_yields {P : State → Prop} (hP : P (s.settledAt { s.m with dev := s.m.dev.laneBlock i slot block.toNat })) :
    Yields (.laneBlock i slot block) s laneParts P := by
  refine yields_of_liveDev hl rfl (execLaneBlock_framed i slot block s) (by decide) ?_
  rw [onlyIf_of_true (by rw [hm, hon]; rfl)]
  exact hP

theorem laneBlock_invalid_yields (hsh : s.m.dev.Shape) (h : block.toNat % 4 = 0 ∨ block.toNat % 4 = 3) :
    Yields (.laneBlock i slot block) s laneParts (fun t =>
      t.m.dev.reg 0x10 0x080 = word (satAdd32 (s.m.dev.reg 0x10 0x080).toNat 1) ∧ bit (t.m.dev.reg 0x10 0x040).toNat 0 = true) := by
  refine laneBlock_yields hl hm hon ?_
  have hshape := (s.m.dev.headed_tame i block.toNat false).shape hsh
  have hcount := Dev.reg_prmEvent (j := 0) (by decide) (s.m.dev.groupOf i) i hshape
  simp only [State.settledAt, Dev.settle_reg, Dev.laneBlock_of_invalid h]
  rw [Nat.mul_zero, Nat.add_zero, Dev.headed_badBlocks] at hcount
  exact ⟨hcount, Dev.bit_prmEvent (by decide) _ _ hshape⟩

theorem laneBlock_unlocked_yields (hi : i < s.m.dev.prism.lanes.length) (h : block.toNat % 4 = 1)
    (hlock : (s.m.dev.lane i).locked = false) :
    Yields (.laneBlock i slot block) s laneParts (fun t =>
      (t.m.dev.lane i).good = (s.m.dev.lane i).good + 1 ∧
        (t.m.dev.lane i).locked = decide (64 ≤ (s.m.dev.lane i).good + 1)) := by
  refine laneBlock_yields hl hm hon ?_
  simp only [State.settledAt, Dev.settle_lane, Dev.laneBlock_of_data h, Dev.headed_of_unlocked hi hlock]
  split <;>
  · simp only [Dev.lane_onLane_same, Dev.onLane_lanes_length, hi]
    exact ⟨rfl, rfl⟩

theorem laneBlock_locked_yields (hi : i < s.m.dev.prism.lanes.length) (h : block.toNat % 4 = 1)
    (hlock : (s.m.dev.lane i).locked = true) (hseen : ((s.m.dev.lane i).seen.filter (fun v => !v)).length < 16) :
    Yields (.laneBlock i slot block) s laneParts (fun t =>
      (t.m.dev.lane i).locked = true ∧ (t.m.dev.lane i).data = (s.m.dev.lane i).data ++
        leBytes 4 (descramble (block.toNat / 4 % 2 ^ 32) (s.m.dev.lane i).scr).1) := by
  refine laneBlock_yields hl hm hon ?_
  have hlane : ((s.m.dev.headed i block.toNat true).lane i).locked = true := by
    simp only [Dev.headed_of_locked hi hlock hseen, Dev.lane_onLane_same, Dev.onLane_lanes_length, hi]
    exact hlock
  simp only [State.settledAt, Dev.settle_lane, Dev.laneBlock_of_data h, hlane, if_true]
  simp only [Dev.headed_of_locked hi hlock hseen, Dev.lane_onLane_same, Dev.onLane_lanes_length, hi]
  exact ⟨hlock, rfl⟩

end

/-! ### Messages (R48) -/

/-- A group whose oldest message is taken. -/
def Dev.withInbox (d : Dev) (g : Nat) (r : List GroupMsg) : Dev := d.onGroup g (fun y => { y with inbox := r })

section
variable {d : Dev} {g : Nat} {x : GroupMsg} {r : List GroupMsg}

/-- The oldest message of a group is taken where it carries the code. -/
theorem Dev.takeGroup_of_inbox (h : (d.group g).inbox = x :: r) {code : Nat} (hc : x.code = code) :
    d.takeGroup g code = some (x, d.withInbox g r) := by
  unfold Dev.takeGroup
  rw [h]
  exact if_pos hc

/-- An event at a message of a group, once the message is taken and a source changed. -/
theorem Dev.reg_prmEvent_of_message (h : d.Shape) {j : Nat} (hj : j < 16) (f : Source → Source) (detail : Nat) :
    (((d.withInbox g r).modSource g 0 f).prmEvent j g detail).reg 0x10 (0x080 + 4 * j) =
      word (satAdd32 (d.reg 0x10 (0x080 + 4 * j)).toNat 1) :=
  Dev.reg_prmEvent hj g detail h

theorem Dev.withInbox_inbox (hg : g < d.prism.groups.length) (r : List GroupMsg) : ((d.withInbox g r).group g).inbox = r := by
  unfold Dev.withInbox
  rw [Dev.group_onGroup_same hg]

end

/-- A source where no line is open. -/
def Source.lineless (x : Source) : Source := { x with line := none }

/-- The line of an open source ends. -/
theorem Dev.source_modSource_lineless {d : Dev} {g vc : Nat} (h : (d.source g vc).open_ = true) :
    (d.modSource g vc Source.lineless).source g vc = (d.source g vc).lineless :=
  Dev.source_modSource Source.open_ (fun hd => Bool.false_ne_true (hd.symm.trans h))

section
variable {s : State} {g vc : Nat} {x : GroupMsg} {r : List GroupMsg} {d : Dev}

theorem execSof_of_slvs (hm : s.m.dev.prmMode = 1) (h : s.m.dev.takeGroup g 0x33 = some (x, d)) (counter : Nat) :
    execSof g vc counter s = liveDev (fun _ => d.sofAt g 0 (x.args.getD 0 0)) s :=
  liveDev_congr (by simp only [hm, h, if_true])

theorem execSol_of_taken (h : s.m.dev.takeGroup g 0x4B = some (x, d)) (hf : d.rowFate g 0 (x.args.getD 0 0 % 2 ^ 14) = .taken) :
    execSol g s = liveDev (fun _ => d.modSource g 0 (fun z => { z with line := some (x.args.getD 0 0 % 2 ^ 14) })) s :=
  liveDev_congr (by simp only [h, hf])

theorem execSol_of_extra (h : s.m.dev.takeGroup g 0x4B = some (x, d)) (hf : d.rowFate g 0 (x.args.getD 0 0 % 2 ^ 14) = .extra) :
    execSol g s =
      liveDev (fun _ => (d.modSource g 0 Source.lineless).prmEvent 6 g (x.args.getD 0 0 % 2 ^ 14)) s :=
  liveDev_congr (by simp only [h, hf]; rfl)

theorem execEof_of_slvs (hm : s.m.dev.prmMode = 1) (h : s.m.dev.takeGroup g 0x66 = some (x, d)) :
    execEof g vc s = liveDev (fun _ => d.modSource g 0 Source.closed) s :=
  liveDev_congr (by simp only [hm, h, if_true]; rfl)

/-- Whether the CRC of every lane passes at the end of a line (R46). -/
def GroupMsg.crcsOk (x : GroupMsg) : Bool := (List.zipWith (fun a l => decide (a % 65536 = crc16 l)) x.args x.data).all id

variable {y : Nat} (h : s.m.dev.takeGroup g 0x55 = some (x, d)) (hy : (d.source g 0).line = some y)
include h hy

/-- A line with a bad CRC is an event, and its row is bad in the windows that hold it. -/
theorem execEol_of_badCrc (hc : x.crcsOk = false) :
    let e := d.modSource g 0 Source.lineless
    execEol g s = live (fun m => Mach.placeLine { m with dev := e.prmEvent 3 g (e.windowRow g 0 y) } g 0 y none) s :=
  live_congr (by
    unfold GroupMsg.crcsOk at hc
    simp only [h, hy, hc, Bool.not_false, if_true]
    rfl)

/-- A line that passes its checks is placed. -/
theorem execEol_of_good {photos : List Nat} (hc : x.crcsOk = true) (he : ∀ l ∈ x.data, l.length = (x.data.getD 0 []).length)
    (hp : photos = lanePhotos (d.inFmt g).2 x.data) (hs : d.tooShort g 0 y photos.length = false) :
    execEol g s = live (fun m => Mach.placeLine { m with dev := d.modSource g 0 Source.lineless } g 0 y (some photos)) s := by
  subst hp
  have heven : x.data.all (fun l => decide (l.length = (x.data.getD 0 []).length)) = true :=
    List.all_eq_true.2 (fun l hl => decide_eq_true (he l hl))
  have hshort : (d.modSource g 0 Source.lineless).tooShort g 0 y (lanePhotos (d.inFmt g).2 x.data).length = false := hs
  unfold GroupMsg.crcsOk at hc
  refine live_congr ?_
  simp only [h, hy, hc, heven, Bool.not_true, Bool.false_eq_true, if_false]
  exact if_neg (by rw [← Bool.not_eq_true] at hshort; exact hshort)

end

section
variable {s : State} {g : Nat} {x : GroupMsg} {r : List GroupMsg} (hl : s.Live) (hg : g < s.m.dev.prism.groups.length)
  (hin : (s.m.dev.group g).inbox = x :: r)
include hl hg hin

theorem sof_first_yields (hm : s.m.dev.prmMode = 1) (hc : x.code = 0x33) (hs : (s.m.dev.source g 0).sof = false) :
    Yields (.sof g 0 0) s sofParts (fun t =>
      (t.m.dev.group g).inbox = r ∧ (t.m.dev.source g 0).sof = true ∧ (t.m.dev.source g 0).open_ = true ∧
        (t.m.dev.source g 0).counter = x.args.getD 0 0 ∧
        ∀ n c w, s.m.dev.cap n = some c → c.input = g → c.vc = 0 → s.m.dev.streams = [(n, c)] →
          c.current s.m.dev.tick.now = some w → ∃ w', t.m.dev.work n w.frame = some w' ∧ w'.sof = true) := by
  refine yields_of_liveDev hl (execSof_of_slvs hm (Dev.takeGroup_of_inbox hin hc) 0) (execSof_framed g 0 0 s) (by decide) ?_
  have hfirst : ((s.m.dev.withInbox g r).source g 0).sof = false := hs
  simp only [Dev.settle_group, Dev.settle_source, Dev.settle_work, Dev.sofAt_source_of_first hfirst,
    Dev.group_of_prism (Dev.sofAt_prism_of_first hfirst _), Dev.modSource_group, Dev.withInbox_inbox hg]
  exact ⟨trivial, rfl, rfl, rfl, fun n c w hcap hinput hvc hone hw =>
    Dev.sofAt_work hfirst hcap hinput hvc hone hw _⟩

theorem sof_second_yields (hsh : s.m.dev.Shape) (hm : s.m.dev.prmMode = 1) (hc : x.code = 0x33)
    (hs : (s.m.dev.source g 0).sof = true) :
    Yields (.sof g 0 0) s sofParts (fun t =>
      (t.m.dev.group g).inbox = r ∧ (t.m.dev.source g 0).discard = true ∧
        t.m.dev.reg 0x10 0x09C = word (satAdd32 (s.m.dev.reg 0x10 0x09C).toNat 1)) := by
  refine yields_of_liveDev hl (execSof_of_slvs hm (Dev.takeGroup_of_inbox hin hc) 0) (execSof_framed g 0 0 s) (by decide) ?_
  have hsecond : ((s.m.dev.withInbox g r).source g 0).sof = true := hs
  have hsource : ((s.m.dev.withInbox g r).modSource g 0 Source.spoiled).source g 0 = (s.m.dev.source g 0).spoiled :=
    Dev.source_modSource Source.discard nofun
  rw [Dev.sofAt_of_second hsecond]
  simp only [Dev.settle_group, Dev.settle_source, Dev.settle_reg, Dev.group_of_prism (Dev.prmEvent_prism ..),
    Dev.source_of_prism (Dev.prmEvent_prism ..), hsource, Dev.modSource_group, Dev.withInbox_inbox hg]
  exact ⟨trivial, rfl, Dev.reg_prmEvent_of_message hsh (j := 7) (by decide) _ 0⟩

theorem sol_taken_yields (hc : x.code = 0x4B) (hf : s.m.dev.rowFate g 0 (x.args.getD 0 0 % 2 ^ 14) = .taken) :
    Yields (.sol g) s laneParts (fun t =>
      (t.m.dev.group g).inbox = r ∧ (t.m.dev.source g 0).line = some (x.args.getD 0 0 % 2 ^ 14)) := by
  refine yields_of_liveDev hl (execSol_of_taken (Dev.takeGroup_of_inbox hin hc) hf) (execSol_framed g s) (by decide) ?_
  simp only [Dev.settle_group, Dev.settle_source, Dev.modSource_group, Dev.withInbox_inbox hg, true_and]
  exact congrArg Source.line (Dev.source_modSource Source.line (Option.some_ne_none _))

theorem sol_extra_yields (hsh : s.m.dev.Shape) (hc : x.code = 0x4B)
    (hf : s.m.dev.rowFate g 0 (x.args.getD 0 0 % 2 ^ 14) = .extra) :
    Yields (.sol g) s laneParts (fun t =>
      (t.m.dev.group g).inbox = r ∧ t.m.dev.reg 0x10 0x098 = word (satAdd32 (s.m.dev.reg 0x10 0x098).toNat 1)) := by
  refine yields_of_liveDev hl (execSol_of_extra (Dev.takeGroup_of_inbox hin hc) hf) (execSol_framed g s) (by decide) ?_
  simp only [Dev.settle_group, Dev.settle_reg, Dev.group_of_prism (Dev.prmEvent_prism ..), Dev.modSource_group,
    Dev.withInbox_inbox hg, true_and]
  exact Dev.reg_prmEvent_of_message hsh (j := 6) (by decide) _ _

theorem eof_yields (hm : s.m.dev.prmMode = 1) (hc : x.code = 0x66) (hs : (s.m.dev.source g 0).sof = true) :
    Yields (.eof g 0) s [.prism] (fun t => (t.m.dev.group g).inbox = r ∧ (t.m.dev.source g 0).open_ = false) := by
  refine yields_of_liveDev hl (execEof_of_slvs hm (Dev.takeGroup_of_inbox hin hc)) (execEof_framed g 0 s) (by decide) ?_
  simp only [Dev.settle_group, Dev.settle_source, Dev.modSource_group, Dev.withInbox_inbox hg, true_and]
  have hsof : ((s.m.dev.withInbox g r).source g 0).sof = true := hs
  exact congrArg Source.open_ (Dev.source_modSource_of_sof (f := Source.closed) hsof fun _ => rfl)

section
variable {y : Nat} (hc : x.code = 0x55) (hy : (s.m.dev.source g 0).line = some y) (ho : (s.m.dev.source g 0).open_ = true)
include hc hy ho

theorem eol_badCrc_yields (hsh : s.m.dev.Shape) (hcrc : x.crcsOk = false) :
    Yields (.eol g) s rowParts (fun t => (t.m.dev.group g).inbox = r ∧ (t.m.dev.source g 0).line = none ∧
        t.m.dev.prism.segs = s.m.dev.prism.segs ∧
        t.m.dev.reg 0x10 0x08C = word (satAdd32 (s.m.dev.reg 0x10 0x08C).toNat 1)) := by
  refine yields_of_live hl (execEol_of_badCrc (Dev.takeGroup_of_inbox hin hc) hy hcrc) (execEol_framed g s) (by decide) ?_
  have hsource := Dev.source_modSource_lineless (d := s.m.dev.withInbox g r) ho
  simp only [Dev.settle_group, Dev.settle_source, Dev.settle_prism, Dev.settle_reg, Mach.placeLine_reg_prm,
    Mach.placeLine_none_prism, Dev.prmEvent_prism, Dev.group_of_prism (Mach.placeLine_none_prism ..),
    Dev.group_of_prism (Dev.prmEvent_prism ..), Dev.source_of_prism (Mach.placeLine_none_prism ..),
    Dev.source_of_prism (Dev.prmEvent_prism ..), hsource, Dev.modSource_group, Dev.withInbox_inbox hg]
  exact ⟨trivial, rfl, rfl, Dev.reg_prmEvent_of_message hsh (j := 3) (by decide) _ _⟩

theorem eol_good_yields {n : Nat} {c : Cap} {w : Work} {photos : List Nat} (hcrc : x.crcsOk = true)
    (he : ∀ l ∈ x.data, l.length = (x.data.getD 0 []).length) (hp : photos = lanePhotos (s.m.dev.inFmt g).2 x.data)
    (hs : s.m.dev.tooShort g 0 y photos.length = false)
    (hopen : s.m.dev.openOn g 0 = [(n, c, w)]) (htop : c.top ≤ y) (hbottom : y < c.top + c.height)
    (habsent : w.row 0 (y - c.top) = .absent) :
    Yields (.eol g) s rowParts (fun t => (t.m.dev.group g).inbox = r ∧ (t.m.dev.source g 0).line = none ∧
        t.m.dev.prism.segs = s.m.dev.prism.segs ++ rowSegments n c w y photos) := by
  refine yields_of_live hl (execEol_of_good (Dev.takeGroup_of_inbox hin hc) hy hcrc he hp hs) (execEol_framed g s) (by decide) ?_
  have hsource := Dev.source_modSource_lineless (d := s.m.dev.withInbox g r) ho
  have hnow : ((s.m.dev.withInbox g r).modSource g 0 Source.lineless).openOn g 0 = [(n, c, w)] := hopen
  obtain ⟨-, hprism⟩ := Mach.placeLine_of_window (m := ⟨(s.m.dev.withInbox g r).modSource g 0 Source.lineless, s.m.mem⟩)
    htop hbottom hnow rfl habsent hs
  rw [Dev.settle_group, Dev.settle_source, Dev.settle_prism]
  rw [Dev.group_of_prism hprism, Dev.source_of_prism hprism, hprism, Dev.addSegs_group, Dev.addSegs_source, hsource,
    Dev.modSource_group, Dev.withInbox_inbox hg]
  exact ⟨rfl, rfl, rfl⟩

end

end

/-- Settles O37: a lane block by its header and the lock of its lane, a message by its code and the state of its source. -/
theorem slvsInput : Obligations.SlvsInput := by
  intro s hl hsh hm hlanes hgroups
  refine ⟨fun i slot block hon => ?_, fun g x r hg hin => ?_⟩
  · have hi : i < s.m.dev.prism.lanes.length := hlanes ▸ Dev.lt_of_laneOn hon
    exact ⟨laneBlock_invalid_yields hl hm hon hsh, laneBlock_unlocked_yields hl hm hon hi, laneBlock_locked_yields hl hm hon hi⟩
  · rw [← hgroups] at hg
    refine ⟨sof_first_yields hl hg hin hm, sof_second_yields hl hg hin hsh hm, sol_taken_yields hl hg hin,
      sol_extra_yields hl hg hin hsh, fun y hc hy ho => ⟨eol_badCrc_yields hl hg hin hc hy ho hsh, ?_⟩, eof_yields hl hg hin hm⟩
    intro n c w photos hcrc heven hphotos hshort hopen htop hbottom habsent
    exact eol_good_yields hl hg hin hc hy ho hcrc heven hphotos hshort hopen htop hbottom habsent

end Sys2Proof.Machine
end

section
/-! The packets of a CSI-2 port, and line segments that enter a staging FIFO (R52, R53, R58, R65, R66). -/

namespace Sys2Proof.Machine
open Sys2Proof

/-! ### Frames and rows of a CSI-2 port (R52, R53, R58) -/

/-- A port that can carry a packet is in CSI-2 mode. -/
theorem Dev.prmMode_of_csiOn {d : Dev} {g vc : Nat} (h : d.csiOn g vc = true) : d.prmMode = 2 := by
  simp only [Dev.csiOn, Bool.and_eq_true, decide_eq_true_eq] at h
  exact h.1.1.1

/-- A row of a port advances its count of rows. -/
theorem Dev.nextRow_source (d : Dev) (g vc : Nat) :
    (d.nextRow g vc).source g vc = { d.source g vc with rows := (d.source g vc).rows + 1 } :=
  Dev.source_modSource Source.rows (Nat.succ_ne_zero _)

/-- A source whose line start came with this number, checked against its count of rows. -/
def Source.lineStarted (number : Nat) (x : Source) : Source :=
  { x with lineNo := number % 65536, lineOff := decide (number % 65536 ≠ (x.rows + 1) % 65536) }

/-- A row that is taken lies above the bottom of the only open window. -/
theorem Dev.lt_bottom_of_taken {d : Dev} {g vc y n : Nat} {c : Cap} {w : Work} (hopen : d.openOn g vc = [(n, c, w)])
    (h : d.rowFate g vc y = .taken) : y < c.top + c.height := by
  by_contra hge
  have hall : [(n, c, w)].all (fun e => decide (e.2.1.top + e.2.1.height ≤ y)) = true := by
    simpa using hge
  unfold Dev.rowFate at h
  rw [hopen] at h
  dsimp only at h
  rw [hall, if_pos rfl] at h
  split_ifs at h

section
variable {s : State} {g vc : Nat} (hon : s.m.dev.csiOn g vc = true)
include hon

theorem execSof_of_csi (counter : Nat) : execSof g vc counter s = liveDev (fun d => d.sofAt g vc (counter % 65536)) s :=
  liveDev_congr (by simp only [Dev.prmMode_of_csiOn hon, hon, if_true, Nat.reduceEqDiff, if_false])

theorem execEof_of_csi :
    execEof g vc s = liveDev (fun d => d.modSource g vc Source.closed) s :=
  liveDev_congr (by simp only [Dev.prmMode_of_csiOn hon, hon, if_true, Nat.reduceEqDiff, if_false]; rfl)

theorem execCsi2LineStart_of_csi (number : Nat) :
    execCsi2LineStart g vc number s = liveDev (fun d => d.modSource g vc (Source.lineStarted number)) s :=
  liveDev_congr (onlyIf_of_true hon _ _)

/-- An uncorrectable header takes a row's place, and is an event. -/
theorem execCsi2LongPacket_of_uncorrectable (dt : Nat) (ok : Bool) (payload : List Byte) :
    execCsi2LongPacket g vc dt 2 ok payload s = live (fun m => { m with dev := (m.dev.nextRow g vc).prmEvent 9 g 0 }) s :=
  live_congr (by simp only [hon, Bool.not_true, Bool.false_eq_true, if_false, if_true])

/-- A packet of a type that is not accepted is an event alone. -/
theorem execCsi2LongPacket_of_badType {dt : Nat} (h : csiLong dt = false) (ok : Bool) (payload : List Byte) :
    execCsi2LongPacket g vc dt 0 ok payload s = live (fun m => { m with dev := m.dev.prmEvent 10 g dt }) s :=
  live_congr (by simp [hon, h])

/-- A row that passes its checks is placed. -/
theorem execCsi2LongPacket_of_row {dt : Nat} {payload : List Byte} {photos : List Nat} (hlong : csiLong dt = true) (hdt : dt ≠ 0x12)
    (hphotos : csiPhotos (s.m.dev.inFmt g).1 (s.m.dev.inFmt g).2 dt payload = some photos)
    (hfate : s.m.dev.rowFate g vc (s.m.dev.source g vc).rows = .taken)
    (hshort : s.m.dev.tooShort g vc (s.m.dev.source g vc).rows photos.length = false) :
    execCsi2LongPacket g vc dt 0 true payload s =
      live (fun m => Mach.placeLine { m with dev := m.dev.nextRow g vc } g vc (m.dev.source g vc).rows (some photos)) s := by
  have hnextPhotos : csiPhotos ((s.m.dev.nextRow g vc).inFmt g).1 ((s.m.dev.nextRow g vc).inFmt g).2 dt payload = some photos := hphotos
  have hnextShort : (s.m.dev.nextRow g vc).tooShort g vc (s.m.dev.source g vc).rows photos.length = false := hshort
  refine live_congr ?_
  simp only [hon, hlong, hdt, hfate, hnextPhotos, hnextShort, Bool.not_true, Bool.false_eq_true, if_false, Nat.reduceEqDiff,
    OfNat.zero_ne_ofNat]

end

section
variable {s : State} {g vc : Nat} (hl : s.Live) (hon : s.m.dev.csiOn g vc = true)
include hl hon

theorem csiSof_yields (counter : Nat) (hs : (s.m.dev.source g vc).sof = false) :
    Yields (.sof g vc counter) s sofParts (fun t => (t.m.dev.source g vc).sof = true ∧ (t.m.dev.source g vc).open_ = true ∧
      (t.m.dev.source g vc).counter = counter % 65536 ∧ (t.m.dev.source g vc).rows = 0) := by
  refine yields_of_liveDev hl (execSof_of_csi hon counter) (execSof_framed g vc counter s) (by decide) ?_
  rw [Dev.settle_source, Dev.sofAt_source_of_first hs]
  exact ⟨rfl, rfl, rfl, rfl⟩

theorem csiEof_yields (hs : (s.m.dev.source g vc).sof = true) :
    Yields (.eof g vc) s [.prism] (fun t => (t.m.dev.source g vc).open_ = false) := by
  refine yields_of_liveDev hl (execEof_of_csi hon) (execEof_framed g vc s) (by decide) ?_
  rw [Dev.settle_source, Dev.source_modSource_of_sof (f := Source.closed) hs fun _ => rfl]
  rfl

theorem csiLineStart_yields (number : Nat) (hs : (s.m.dev.source g vc).sof = true) :
    Yields (.csi2LineStart g vc number) s [.prism] (fun t =>
      (t.m.dev.source g vc).lineNo = number % 65536 ∧ (t.m.dev.source g vc).rows = (s.m.dev.source g vc).rows) := by
  refine yields_of_liveDev hl (execCsi2LineStart_of_csi hon number) (execCsi2LineStart_framed g vc number s) (by decide) ?_
  rw [Dev.settle_source, Dev.source_modSource_of_sof (f := Source.lineStarted number) hs fun _ => rfl]
  exact ⟨rfl, rfl⟩

theorem csiUncorrectable_yields (hsh : s.m.dev.Shape) (dt : Nat) (ok : Bool) (payload : List Byte) :
    Yields (.csi2LongPacket g vc dt 2 ok payload) s rowParts (fun t =>
      (t.m.dev.source g vc).rows = (s.m.dev.source g vc).rows + 1 ∧ t.m.mem = s.m.mem ∧
      t.m.dev.reg 0x10 0x0A4 = word (satAdd32 (s.m.dev.reg 0x10 0x0A4).toNat 1)) := by
  refine yields_of_live hl (execCsi2LongPacket_of_uncorrectable hon dt ok payload) (execCsi2LongPacket_framed g vc dt 2 ok payload s)
    (by decide) ?_
  simp only [Dev.settle_source, Dev.settle_reg, Dev.source_of_prism (Dev.prmEvent_prism ..), Dev.nextRow_source, true_and]
  exact Dev.reg_prmEvent (j := 9) (by decide) g 0 hsh

theorem csiBadType_yields (hsh : s.m.dev.Shape) (dt : Nat) (ok : Bool) (payload : List Byte) (h : csiLong dt = false) :
    Yields (.csi2LongPacket g vc dt 0 ok payload) s rowParts (fun t =>
      t.m.dev.prism = s.m.dev.prism ∧ t.m.dev.reg 0x10 0x0A8 = word (satAdd32 (s.m.dev.reg 0x10 0x0A8).toNat 1)) := by
  refine yields_of_live hl (execCsi2LongPacket_of_badType hon h ok payload) (execCsi2LongPacket_framed g vc dt 0 ok payload s)
    (by decide) ?_
  simp only [Dev.settle_prism, Dev.settle_reg, Dev.prmEvent_prism, true_and]
  exact Dev.reg_prmEvent (j := 10) (by decide) g dt hsh

theorem csiRow_yields {dt n : Nat} {payload : List Byte} {photos : List Nat} {c : Cap} {w : Work} (hlong : csiLong dt = true)
    (hdt : dt ≠ 0x12) (hphotos : csiPhotos (s.m.dev.inFmt g).1 (s.m.dev.inFmt g).2 dt payload = some photos)
    (hfate : s.m.dev.rowFate g vc (s.m.dev.source g vc).rows = .taken) (hopen : s.m.dev.openOn g vc = [(n, c, w)])
    (hshort : s.m.dev.tooShort g vc (s.m.dev.source g vc).rows photos.length = false) (htop : c.top ≤ (s.m.dev.source g vc).rows)
    (habsent : w.row 0 ((s.m.dev.source g vc).rows - c.top) = .absent) :
    Yields (.csi2LongPacket g vc dt 0 true payload) s rowParts (fun t =>
      (t.m.dev.source g vc).rows = (s.m.dev.source g vc).rows + 1 ∧ t.m.mem = s.m.mem ∧
        t.m.dev.prism.segs = s.m.dev.prism.segs ++ rowSegments n c w (s.m.dev.source g vc).rows photos) := by
  refine yields_of_live hl (execCsi2LongPacket_of_row hon hlong hdt hphotos hfate hshort)
    (execCsi2LongPacket_framed g vc dt 0 true payload s) (by decide) ?_
  have hnext : (s.m.dev.nextRow g vc).openOn g vc = [(n, c, w)] := hopen
  obtain ⟨hmem, hprism⟩ := Mach.placeLine_of_window (m := ⟨s.m.dev.nextRow g vc, s.m.mem⟩) htop
    (Dev.lt_bottom_of_taken hopen hfate) hnext rfl habsent hshort
  rw [Dev.settle_source, Dev.settle_prism]
  rw [Dev.source_of_prism hprism, hprism, hmem, Dev.addSegs_source, Dev.nextRow_source]
  exact ⟨rfl, rfl, rfl⟩

end

/-! ### Staging (R65, R66) -/

/-- The device whose waiting segments are put. -/
def Dev.withSegs (d : Dev) (r : List Segment) : Dev := d.onPrism (fun q => { q with segs := r })

/-- The device once a segment has entered the FIFO of port `p`. -/
def Dev.toFifo (d : Dev) (p : Nat) (x : Segment) : Dev :=
  d.onPrism (fun q => { q with fifos := modAt q.fifos p (fun l => l ++ [x]) })

/-- The input of a segment's stream. -/
def Dev.segInput (d : Dev) (x : Segment) : Nat :=
  match d.cap x.stream with
  | some c => c.input
  | none => 0

section
variable {s : State} {x : Segment} {r : List Segment} (hsegs : s.m.dev.prism.segs = x :: r)
include hsegs

/-- A segment that fits enters the FIFO of its write port, and its band is given buffers. -/
theorem execStageSegment_of_room (h : s.m.dev.prism.level (s.m.dev.segPort x) + x.bytes.length ≤ 262144) :
    execStageSegment s = live (fun m =>
      { m with dev := (((m.dev.withSegs r).toFifo (m.dev.segPort x) x).fifoLevel (m.dev.segPort x)).stageBufs
                        x.stream x.frame x.tile (x.row / 32) }) s :=
  live_congr (by
    rw [hsegs]
    exact if_neg (Nat.not_lt.2 h))

/-- A segment that overflows the FIFO of its write port is an event, and its row is bad. -/
theorem execStageSegment_of_overflow (h : 262144 < s.m.dev.prism.level (s.m.dev.segPort x) + x.bytes.length) :
    execStageSegment s = live (fun m =>
      Mach.badRow { m with dev := (m.dev.withSegs r).prmEvent 11 (m.dev.segInput x) (m.dev.segPort x) }
        x.stream x.frame x.tile x.row) s :=
  live_congr (by
    rw [hsegs]
    exact if_pos h)

end

/-- Neither a FIFO's level shown nor buffers given to a band changes the prism itself. -/
theorem Dev.fifoLevel_stageBufs_prism (d : Dev) (p s n t k : Nat) : ((d.fifoLevel p).stageBufs s n t k).prism = d.prism :=
  (Dev.stageBufs_tame (ps := setOf [.free, .seq, .stats, .commands, .events, .flt, .twk, .bbx, .link, .pools, .wports, .caps, .sent,
    .feat 0x1B]) (by decide) (Dev.fifoLevel_tame (by decide) (.refl _ d) p) s n t k).same .prism (by decide)

/-- A row that cannot arrive whole leaves the registers of the sensor inputs. -/
theorem Mach.badRow_reg_prm (m : Mach) (s n t y o : Nat) : (m.badRow s n t y).dev.reg 0x10 o = m.dev.reg 0x10 o :=
  (Mach.badRow_tame_dev (ps := setOf [.free, .seq, .stats, .commands, .events, .flt, .twk, .bbx, .link, .pools, .dram, .caps, .sent,
    .feat 0x1B]) (by decide) (.refl _ m.dev) s n t y).reg_eq (by decide) (by decide) o

/-- The parts that a segment may change. -/
abbrev segmentParts : List Part :=
  [.seq, .stats, .commands, .events, .flt, .bbx, .link, .pools, .dram, .wports, .caps, .prism, .dramMem, .feat 0x10, .feat 0x1B]

section
variable {s : State} {x : Segment} {r : List Segment} (hl : s.Live) (hsegs : s.m.dev.prism.segs = x :: r)
include hl hsegs

theorem stageSegment_room_yields (h : s.m.dev.prism.level (s.m.dev.segPort x) + x.bytes.length ≤ 262144) :
    Yields .stageSegment s segmentParts (fun t => t.m.dev.prism.segs = r ∧ t.m.mem = s.m.mem ∧
      t.m.dev.prism.fifos = modAt s.m.dev.prism.fifos (s.m.dev.segPort x) (fun l => l ++ [x])) := by
  refine yields_of_live hl (execStageSegment_of_room hsegs h) (execStageSegment_framed s) (by decide) ?_
  rw [Dev.settle_prism, Dev.fifoLevel_stageBufs_prism]
  exact ⟨rfl, rfl, rfl⟩

theorem stageSegment_overflow_yields (hsh : s.m.dev.Shape)
    (h : 262144 < s.m.dev.prism.level (s.m.dev.segPort x) + x.bytes.length) :
    Yields .stageSegment s segmentParts (fun t => t.m.dev.prism.segs = r ∧ t.m.dev.prism.fifos = s.m.dev.prism.fifos ∧
      t.m.dev.reg 0x10 0x0AC = word (satAdd32 (s.m.dev.reg 0x10 0x0AC).toNat 1)) := by
  refine yields_of_live hl (execStageSegment_of_overflow hsegs h) (execStageSegment_framed s) (by decide) ?_
  simp only [Dev.settle_prism, Dev.settle_reg, Mach.badRow_prism, Mach.badRow_reg_prm, Dev.prmEvent_prism]
  exact ⟨rfl, rfl, Dev.reg_prmEvent (j := 11) (by decide) _ _ hsh⟩

end

/-- Settles O38: a packet by its kind and its checks, a segment by the room in the FIFO of its write port. -/
theorem csi2AndStaging : Obligations.Csi2AndStaging := by
  intro s hl hsh
  refine ⟨fun g vc hon => ⟨csiSof_yields hl hon, csiEof_yields hl hon, csiUncorrectable_yields hl hon hsh,
    csiBadType_yields hl hon hsh, ?_, csiLineStart_yields hl hon⟩, ?_⟩
  · intro dt payload photos n c w hlong hdt hphotos hfate hopen hshort htop habsent
    exact csiRow_yields hl hon hlong hdt hphotos hfate hopen hshort htop habsent
  · intro x r p hsegs hp _
    subst hp
    exact ⟨stageSegment_room_yields hl hsegs, stageSegment_overflow_yields hl hsegs hsh⟩

end Sys2Proof.Machine
end

section
/-! Packed fields and eclipse bands: what the bytes of equally wide fields give back, field by field (R7, R111, R112). -/

namespace Sys2Proof.Machine
open Sys2Proof

/-! ### Bytes of a number and fields of equal width -/

theorem leBytes_length (k n : Nat) : (leBytes k n).length = k := by
  induction k generalizing n with
  | zero => rfl
  | succ k ih => rw [leBytes, List.length_cons, ih]

/-- The little-endian bytes of a number give it back modulo their range (R7). -/
theorem leNat_leBytes (k n : Nat) : leNat (leBytes k n) = n % 256 ^ k := by
  induction k generalizing n with
  | zero => rw [pow_zero, Nat.mod_one]; rfl
  | succ k ih =>
    show (BitVec.ofNat 8 n).toNat + 256 * leNat (leBytes k (n / 256)) = n % 256 ^ (k + 1)
    rw [ih, BitVec.toNat_ofNat, pow_succ' 256 k, Nat.mod_mul]

/-- Packed fields spell a number within their bits. -/
theorem packFields_fst_lt (l : List (Nat × Nat)) : (packFields l).1 < 2 ^ (packFields l).2 := by
  induction l with
  | nil => exact Nat.one_pos
  | cons x r ih =>
    obtain ⟨v, w⟩ := x
    have hlow : v % 2 ^ w < 2 ^ w := Nat.mod_lt _ (Nat.two_pow_pos w)
    calc v % 2 ^ w + 2 ^ w * (packFields r).1 < 2 ^ w * ((packFields r).1 + 1) := by rw [Nat.mul_add, Nat.mul_one]; omega
      _ ≤ 2 ^ w * 2 ^ (packFields r).2 := Nat.mul_le_mul_left _ ih
      _ = 2 ^ (w + (packFields r).2) := (pow_add _ _ _).symm

theorem le_eight_mul_ceilDiv (n : Nat) : n ≤ 8 * ceilDiv n 8 := by
  unfold ceilDiv
  rw [if_neg (by decide)]
  omega

/-- The bytes of packed fields spell the number of the fields. -/
theorem leNat_packBytes (l : List (Nat × Nat)) : leNat (packBytes l) = (packFields l).1 := by
  unfold packBytes
  rw [leNat_leBytes, show (256 : Nat) = 2 ^ 8 from rfl, ← pow_mul]
  exact Nat.mod_eq_of_lt ((packFields_fst_lt l).trans_le (Nat.pow_le_pow_right Nat.two_pos (le_eight_mul_ceilDiv _)))

section
variable {α : Type} (f : α → Nat) (w : Nat)

theorem packFields_snd (l : List α) : (packFields (l.map (fun v => (f v, w)))).2 = l.length * w := by
  induction l with
  | nil => exact (Nat.zero_mul w).symm
  | cons v r ih =>
    show w + (packFields (r.map (fun v => (f v, w)))).2 = (r.length + 1) * w
    rw [ih, Nat.succ_mul, Nat.add_comm]

/-- Field `i` of packed fields that are all `w` bits wide. -/
theorem bits_packFields (l : List α) (i : Nat) (hi : i < l.length) :
    bits (packFields (l.map (fun v => (f v, w)))).1 (w * i) w = f l[i] % 2 ^ w := by
  unfold bits
  induction l generalizing i with
  | nil => exact absurd hi (Nat.not_lt_zero i)
  | cons v r ih =>
    rw [List.map_cons, packFields]
    cases i with
    | zero =>
      show ((f v % 2 ^ w + 2 ^ w * _) >>> 0) % 2 ^ w = f v % 2 ^ w
      rw [Nat.shiftRight_zero, Nat.add_mul_mod_self_left, Nat.mod_mod]
    | succ j =>
      have hlow : f v % 2 ^ w < 2 ^ w := Nat.mod_lt _ (Nat.two_pow_pos w)
      dsimp only
      rw [Nat.mul_succ, Nat.add_comm (w * j), Nat.shiftRight_add, Nat.shiftRight_eq_div_pow _ w,
        Nat.add_mul_div_left _ _ (Nat.two_pow_pos w), Nat.div_eq_of_lt hlow, Nat.zero_add,
        ih j (Nat.lt_of_succ_lt_succ hi), List.getElem_cons_succ]

end

/-! ### Eclipse bands -/

theorem eclipseBytes_length (b e : Nat) (l : List Nat) : (eclipseBytes b e l).length = ceilDiv (l.length * (b - e)) 8 := by
  unfold eclipseBytes packBytes
  rw [leBytes_length, packFields_snd]

/-- The high bits of a photosite fit the field that the depth leaves. -/
theorem shiftRight_lt_of_depth {v b e : Nat} (hv : v < 2 ^ b) (he : e ≤ b) : v >>> e < 2 ^ (b - e) := by
  rw [Nat.shiftRight_eq_div_pow, Nat.div_lt_iff_lt_mul (Nat.two_pow_pos e), ← pow_add, Nat.sub_add_cancel he]
  exact hv

/-- The values that a decoder reads from the bytes of an eclipse band are the photosites without their low bits. -/
theorem map_bits_eclipseBytes {b e : Nat} {l : List Nat} (hl : ∀ v ∈ l, v < 2 ^ b) (he : e ≤ b) (f : Nat → Nat) :
    (List.range l.length).map (fun i => f (bits (leNat (eclipseBytes b e l)) ((b - e) * i) (b - e))) = l.map (fun v => f (v >>> e)) := by
  unfold eclipseBytes
  rw [leNat_packBytes]
  refine List.ext_getElem (by simp) fun i _ hi => ?_
  rw [List.length_map] at hi
  simp only [List.getElem_map, List.getElem_range]
  rw [bits_packFields _ _ _ _ hi, Nat.mod_eq_of_lt (shiftRight_lt_of_depth (hl _ (List.getElem_mem hi)) he)]

/-- What a decoder makes of the body that the encoder packs, before and after the check of depth 0 (R112). -/
theorem decodeEclipse_eclipseBytes {g : BandGeo} {h : BandHead} {l : List Nat} (hn : l.length = g.count)
    (hl : ∀ v ∈ l, v < 2 ^ g.depth) (he : h.depth ≤ g.depth) (hlen : h.dataLen = ceilDiv (g.count * (g.depth - h.depth)) 8)
    (frame : Nat) :
    decodeEclipse g frame h (eclipseBytes g.depth h.depth l) =
      if h.depth = 0 ∧ sourceCheck frame h.tile h.band (l.map (fun v => unEclipse h.depth (v >>> h.depth))) ≠ h.check then
        .error Cond.sourceCheck
      else .ok (l.map (fun v => unEclipse h.depth (v >>> h.depth))) := by
  have hbody : (eclipseBytes g.depth h.depth l).length = h.dataLen := by rw [eclipseBytes_length, hn, hlen]
  unfold decodeEclipse
  dsimp only
  rw [if_neg (by rw [hbody]; exact not_or.2 ⟨not_not.2 hlen, not_not.2 rfl⟩), ← hn, map_bits_eclipseBytes hl he]

/-- At depth 0 a photosite is itself. -/
theorem map_unEclipse_zero (l : List Nat) : l.map (fun v => unEclipse 0 (v >>> 0)) = l := List.map_id l

/-- Above depth 0 a photosite is the midpoint of those that share its high bits. -/
theorem unEclipse_shiftRight {e : Nat} (he : 0 < e) (v : Nat) : unEclipse e (v >>> e) = (v >>> e) <<< e + 2 ^ (e - 1) := by
  unfold unEclipse
  rw [if_neg he.ne', Nat.shiftLeft_eq]

/-- The midpoint lies within half a step of the photosite. -/
theorem midpoint_error_le {e : Nat} (he : 0 < e) (v : Nat) :
    ((((v >>> e) <<< e + 2 ^ (e - 1) : Nat) : Int) - (v : Int)).natAbs ≤ 2 ^ (e - 1) := by
  have hstep : 2 ^ e = 2 * 2 ^ (e - 1) := by rw [← pow_succ', Nat.sub_add_cancel he]
  have hlow : v % 2 ^ e < 2 ^ e := Nat.mod_lt _ (Nat.two_pow_pos e)
  have hsplit : (v >>> e) <<< e + v % 2 ^ e = v := by
    rw [Nat.shiftLeft_eq, Nat.shiftRight_eq_div_pow, Nat.mul_comm, Nat.div_add_mod]
  omega

/-- Settles O7: the decoder reads the fields that the encoder packs, and rebuilds each photosite from its high bits. -/
theorem eclipseRoundTrip : Obligations.EclipseRoundTrip := by
  intro g frame h l body hn hl he hbody hlen
  subst hbody
  rw [decodeEclipse_eclipseBytes hn hl he hlen]
  refine ⟨fun h0 hcheck => ?_, fun h0 hcheck => ?_, fun hpos => ?_⟩
  · rw [h0, map_unEclipse_zero, if_pos ⟨rfl, hcheck.symm⟩]
  · rw [h0, map_unEclipse_zero, if_neg fun hbad => hbad.2 hcheck.symm]
  · refine ⟨_, if_neg fun hbad => hpos.ne' hbad.1, List.length_map _, fun i hi => ?_⟩
    have hout : (l.map (fun v => unEclipse h.depth (v >>> h.depth))).getD i 0 =
        (l.getD i 0 >>> h.depth) <<< h.depth + 2 ^ (h.depth - 1) := by
      rw [List.getD_eq_getElem _ _ (by rwa [List.length_map]), List.getD_eq_getElem _ _ hi, List.getElem_map,
        unEclipse_shiftRight hpos]
    rw [hout]
    exact ⟨rfl, midpoint_error_le hpos _⟩

end Sys2Proof.Machine
end

section
/-! The quantiser of a positive δ, and the block that the decoder rebuilds from its values (R103). -/

namespace Sys2Proof.Machine
open Sys2Proof

/-! ### The quantiser -/

/-- The quantiser as R103 writes it. -/
theorem quantise_eq_sign_mul (δ : Nat) (r : Int) : quantise δ r = r.sign * (((r.natAbs + δ) / (2 * δ + 1) : Nat) : Int) := by
  unfold quantise
  rcases lt_trichotomy r 0 with hr | rfl | hr
  · rw [if_pos hr, Int.sign_eq_neg_one_of_neg hr, neg_one_mul]
  · rw [if_neg (lt_irrefl 0), Int.natAbs_zero, Nat.div_eq_of_lt (by omega), Int.sign_zero, zero_mul, Nat.cast_zero]
  · rw [if_neg hr.not_gt, Int.sign_eq_one_of_pos hr, one_mul]

/-- A quantised magnitude, times its step, lies within δ of the magnitude. -/
theorem quantise_error_le (δ : Nat) (r : Int) : (quantise δ r * (2 * δ + 1) - r).natAbs ≤ δ := by
  have hsplit : (2 * δ + 1) * ((r.natAbs + δ) / (2 * δ + 1)) + (r.natAbs + δ) % (2 * δ + 1) = r.natAbs + δ := Nat.div_add_mod _ _
  have hlow : (r.natAbs + δ) % (2 * δ + 1) < 2 * δ + 1 := Nat.mod_lt _ (by omega)
  have hcast : (((r.natAbs + δ) / (2 * δ + 1) : Nat) : Int) * (2 * δ + 1) = (((2 * δ + 1) * ((r.natAbs + δ) / (2 * δ + 1)) : Nat) : Int) := by
    push_cast; ring
  unfold quantise
  dsimp only
  split
  · rw [neg_mul, hcast]; omega
  · rw [hcast]; omega

/-- Clamping to a range brings a value no further from one in the range. -/
theorem clampInt_error_le {lo hi x : Int} (hlo : lo ≤ x) (hhi : x ≤ hi) (y : Int) :
    (clampInt lo hi y - x).natAbs ≤ (y - x).natAbs := by
  unfold clampInt
  split
  · omega
  · split <;> omega

/-- The reconstruction of a sample differs from it by at most δ (R103). -/
theorem reconstruction_error_le (δ : Nat) {lo hi x : Int} (hlo : lo ≤ x) (hhi : x ≤ hi) (p : Int) :
    (clampInt lo hi (p + quantise δ (x - p) * (2 * δ + 1)) - x).natAbs ≤ δ := by
  have hval := quantise_error_le δ (x - p)
  have hclamp := clampInt_error_le hlo hhi (p + quantise δ (x - p) * (2 * δ + 1))
  omega

/-! ### A block -/

/-- Place of a position of a block among its values, 16 to a row. -/
def valueIndex (q : Nat × Nat) : Nat := 16 * q.1 + q.2

/-- The positions of a block in raster order stand at successive places. -/
theorem map_valueIndex_rasterOf (h : Nat) : (rasterOf h).map valueIndex = List.range (16 * h) := by
  unfold rasterOf valueIndex
  rw [List.map_map]
  exact (List.map_congr_left fun i _ => Nat.div_add_mod i 16).trans (List.map_id _)

section
variable (g : BandGeo) (δ : Nat) (ref : Option RefPlanes) (plane : Nat) (m : BlockMode)

/-- The value that the encoder forms at position `q` of a block that begins at (`oy`, `ox`), from the samples in `rec_`. -/
def formedValue (src : Array Int) (oy ox : Nat) (rec_ : Array Int) (q : Nat × Nat) : Int :=
  quantise δ (src.getD ((oy + q.1) * g.pw + (ox + q.2)) 0 - predictMode g false ref plane rec_ m (oy + q.1) (ox + q.2))

/-- The samples after the one at position `q` is rebuilt from a value. -/
def withSample (oy ox : Nat) (rec_ : Array Int) (q : Nat × Nat) (v : Int) : Array Int :=
  rec_.setIfInBounds ((oy + q.1) * g.pw + (ox + q.2))
    (clampInt 0 (planeHigh g.depth) (predictMode g false ref plane rec_ m (oy + q.1) (ox + q.2) + v * (2 * δ + 1)))

/-- The encoder's step at position `q`: its value, and the sample rebuilt from it. -/
def formStep (src : Array Int) (oy ox : Nat) (st : Array Int × Array Int) (q : Nat × Nat) : Array Int × Array Int :=
  (st.1.setIfInBounds (valueIndex q) (formedValue g δ ref plane m src oy ox st.2 q),
    withSample g δ ref plane m oy ox st.2 q (formedValue g δ ref plane m src oy ox st.2 q))

variable {δ} (hδ : 0 < δ)
include hδ

/-- Above δ = 0 the encoder forms a block step by step in raster order. -/
theorem formBlock_of_pos (src rec_ : Array Int) (k : Nat) :
    formBlock g δ ref plane src rec_ k m =
      (rasterOf (g.blockAt k).2.2).foldl (formStep g δ ref plane m src (g.blockAt k).1 (g.blockAt k).2.1)
        (zeroVals (g.blockAt k).2.2, rec_) := by
  unfold formBlock
  simp only [hδ.ne', decide_false, if_false]
  rfl

/-- Above δ = 0 the decoder rebuilds one sample after the other, none of them refused. -/
theorem rebuild_cons_of_pos (oy ox : Nat) (vals : Array Int) (q : Nat × Nat) (l : List (Nat × Nat)) (rec_ : Array Int) :
    rebuild g δ ref plane m oy ox vals (q :: l) rec_ =
      rebuild g δ ref plane m oy ox vals l (withSample g δ ref plane m oy ox rec_ q (vals.getD (valueIndex q) 0)) := by
  simp only [rebuild, hδ.ne', decide_false, if_false, false_and]
  rfl

omit hδ

/-- The places of a block's values are as many after its steps. -/
theorem foldl_formStep_size (src : Array Int) (oy ox : Nat) (l : List (Nat × Nat)) (st : Array Int × Array Int) :
    (l.foldl (formStep g δ ref plane m src oy ox) st).1.size = st.1.size := by
  induction l generalizing st with
  | nil => rfl
  | cons q r ih => rw [List.foldl_cons, ih]; exact Array.size_setIfInBounds

/-- A value stays as it was formed where no later position has its place. -/
theorem foldl_formStep_getD (src : Array Int) (oy ox i : Nat) (l : List (Nat × Nat)) (hi : i ∉ l.map valueIndex)
    (st : Array Int × Array Int) :
    (l.foldl (formStep g δ ref plane m src oy ox) st).1.getD i 0 = st.1.getD i 0 := by
  induction l generalizing st with
  | nil => rfl
  | cons q r ih =>
    rw [List.map_cons, List.mem_cons, not_or] at hi
    rw [List.foldl_cons, ih hi.2]
    simp [formStep, Array.getD_eq_getD_getElem?, Ne.symm hi.1]

include hδ

/-- The decoder rebuilds from the encoder's values what the encoder has reconstructed, over any positions with places of their
own. -/
theorem rebuild_foldl_formStep (src : Array Int) (oy ox : Nat) (l : List (Nat × Nat)) (hnd : (l.map valueIndex).Nodup)
    (st : Array Int × Array Int) (hsize : ∀ q ∈ l, valueIndex q < st.1.size) :
    rebuild g δ ref plane m oy ox (l.foldl (formStep g δ ref plane m src oy ox) st).1 l st.2 =
      .ok (l.foldl (formStep g δ ref plane m src oy ox) st).2 := by
  induction l generalizing st with
  | nil => rfl
  | cons q r ih =>
    rw [List.map_cons, List.nodup_cons] at hnd
    rw [rebuild_cons_of_pos g ref plane m hδ, List.foldl_cons, foldl_formStep_getD g ref plane m src oy ox _ r hnd.1]
    have hq : (formStep g δ ref plane m src oy ox st q).1.getD (valueIndex q) 0 = formedValue g δ ref plane m src oy ox st.2 q := by
      simp [formStep, Array.getD_eq_getD_getElem?, hsize q List.mem_cons_self]
    rw [hq]
    exact ih hnd.2 _ fun p hp => by
      rw [formStep, Array.size_setIfInBounds]
      exact hsize p (List.mem_cons_of_mem _ hp)

/-- The decoder rebuilds a block as the encoder has reconstructed it. -/
theorem rebuild_formBlock (src rec_ : Array Int) (k : Nat) :
    rebuild g δ ref plane m (g.blockAt k).1 (g.blockAt k).2.1 (formBlock g δ ref plane src rec_ k m).1
      (rasterOf (g.blockAt k).2.2) rec_ = .ok (formBlock g δ ref plane src rec_ k m).2 := by
  rw [formBlock_of_pos g ref plane m hδ]
  refine rebuild_foldl_formStep g ref plane m hδ src _ _ _ ?_ (_, rec_) fun q hq => ?_
  · rw [map_valueIndex_rasterOf]
    exact List.nodup_range
  · have hmem := List.mem_map_of_mem (f := valueIndex) hq
    rw [map_valueIndex_rasterOf, List.mem_range] at hmem
    simpa [zeroVals] using hmem

end

/-- Settles O8: the quantiser as R103 writes it, its error, and the block that both sides rebuild. -/
theorem nearLossless : Obligations.NearLossless := by
  intro δ hδ
  refine ⟨quantise_eq_sign_mul δ, fun b p x hx hhigh => reconstruction_error_le δ hx hhigh p, ?_⟩
  intro g ref plane src rec_ k m
  exact rebuild_formBlock g ref plane m hδ src rec_ k

end Sys2Proof.Machine
end

section
/-! Bands of the frames in work: what a change of one of them leaves of every band (R118 to R123). -/

namespace Sys2Proof.Machine
open Sys2Proof

/-! ### Frames in work -/

/-- The first element that has a property, after a change of one that has it neither before nor after. -/
theorem find?_modifyFirst_of_not {α : Type} {p q : α → Bool} {f : α → α} (h : ∀ x, p x = true → q x = false ∧ q (f x) = false)
    (l : List α) : (modifyFirst p f l).find? q = l.find? q := by
  induction l with
  | nil => rfl
  | cons x r ih =>
    unfold modifyFirst
    split
    next hx => simp only [List.find?_cons, h x hx]
    next hx => simp only [List.find?_cons, ih]

/-- The frames in work after a change of one, its number kept. -/
theorem Dev.work_modWork_eq (d : Dev) (s n s' n' : Nat) {f : Work → Work} (hf : ∀ w, (f w).frame = w.frame) :
    (d.modWork s n f).work s' n' = if s = s' ∧ n = n' then (d.work s' n').map f else d.work s' n' := by
  by_cases hs : s = s'
  · subst hs
    cases hc : d.cap s with
    | none => simp [Dev.modWork, Dev.modCap, Dev.work, hc]
    | some c =>
      by_cases hn : n = n'
      · subst hn
        rw [if_pos ⟨rfl, rfl⟩, Dev.work_modWork hc hf]
      · rw [if_neg fun h => hn h.2]
        unfold Dev.work Dev.modWork
        rw [Dev.cap_modCap_same hc, hc]
        refine find?_modifyFirst_of_not (fun w hw => ?_) c.works
        rw [hf, of_decide_eq_true hw]
        exact ⟨decide_eq_false hn, decide_eq_false hn⟩
  · rw [if_neg fun h => hs h.1]
    unfold Dev.work Dev.modWork
    rw [d.cap_modCap_of_ne hs]

/-! ### Bands of a frame -/

/-- An element of a list of which one is changed. -/
theorem modAt_getElem? {α : Type} (l : List α) (i k : Nat) (f : α → α) :
    (modAt l i f)[k]? = if i = k then l[k]?.map f else l[k]? := by
  induction l generalizing i k with
  | nil => simp [modAt]
  | cons x r ih => cases i <;> cases k <;> simp [modAt, ih]

/-- Band `k` of tile `t`, where there is one. -/
def Work.band? (w : Work) (t k : Nat) : Option Band := (w.tiles[t]?).bind (fun x => x.bands[k]?)

theorem Work.band?_modBand (w : Work) (t k t' k' : Nat) (f : Band → Band) :
    (w.modBand t k f).band? t' k' = if t = t' ∧ k = k' then (w.band? t' k').map f else w.band? t' k' := by
  unfold Work.band? Work.modBand
  dsimp only
  rw [modAt_getElem?]
  by_cases ht : t = t'
  · subst ht
    cases w.tiles[t]? with
    | none => simp
    | some x => simp [modAt_getElem?]
  · simp [ht]

/-- The band that a reference names, without its frame. -/
def Dev.band? (d : Dev) (r : BandRef) : Option Band := (d.bandOf r).map Prod.snd

theorem Dev.band?_of_bandOf {d : Dev} {r : BandRef} {w : Work} {b : Band} (h : d.bandOf r = some (w, b)) : d.band? r = some b := by
  rw [Dev.band?, h, Option.map_some]

theorem Dev.map_phase_bandOf (d : Dev) (r : BandRef) :
    (d.bandOf r).map (fun x => x.2.phase) = (d.band? r).map Band.phase := (Option.map_map Band.phase Prod.snd _).symm

theorem Dev.band?_eq_bind (d : Dev) (r : BandRef) :
    d.band? r = (d.work r.stream r.frame).bind (fun w => w.band? r.tile r.band) := by
  unfold Dev.band? Dev.bandOf
  cases d.work r.stream r.frame with
  | none => rfl
  | some w =>
    dsimp only [Option.bind_some, Work.band?, Work.band, Work.tile]
    by_cases ht : r.tile < w.tiles.length
    · simp only [List.getD_eq_getElem?_getD, List.getElem?_eq_getElem ht, ht, true_and, Option.getD_some, Option.bind_some]
      split
      next hk => rw [List.getElem?_eq_getElem hk]; rfl
      next hk => rw [List.getElem?_eq_none (Nat.not_lt.1 hk)]; rfl
    · simp [ht]

/-- The bands lie in the captures. -/
theorem Dev.band?_of_caps {d d' : Dev} (h : d'.caps = d.caps) (r : BandRef) : d'.band? r = d.band? r := by
  unfold Dev.band? Dev.bandOf Dev.work Dev.cap
  rw [h]

@[simp] theorem Dev.settle_band? (d : Dev) (r : BandRef) : d.settle.band? r = d.band? r := Dev.band?_of_caps d.settle_caps r

/-- The bands after a change of one of them. -/
theorem Dev.band?_onBand (d : Dev) (q r : BandRef) (f : Band → Band) :
    (d.onBand q f).band? r = if q = r then (d.band? r).map f else d.band? r := by
  rw [Dev.band?_eq_bind, Dev.band?_eq_bind]
  unfold Dev.onBand Dev.modBand
  rw [Dev.work_modWork_eq (f := fun w => w.modBand q.tile q.band f) d _ _ _ _ fun _ => rfl]
  by_cases hq : q = r
  · subst hq
    rw [if_pos ⟨rfl, rfl⟩, if_pos rfl]
    cases d.work q.stream q.frame with
    | none => rfl
    | some w => exact (Work.band?_modBand w ..).trans (if_pos ⟨rfl, rfl⟩)
  · rw [if_neg hq]
    split
    next hf =>
      cases d.work r.stream r.frame with
      | none => rfl
      | some w =>
        refine (Work.band?_modBand w ..).trans (if_neg fun hb => hq ?_)
        cases q; cases r
        simp_all
    next => rfl

/-- A change of a frame that leaves its number and its bands. -/
theorem Dev.band?_modWork {f : Work → Work} (hf : ∀ w, (f w).frame = w.frame) (hb : ∀ w t k, (f w).band? t k = w.band? t k)
    (d : Dev) (s n : Nat) (r : BandRef) : (d.modWork s n f).band? r = d.band? r := by
  rw [Dev.band?_eq_bind, Dev.band?_eq_bind, Dev.work_modWork_eq d _ _ _ _ hf]
  split
  · cases d.work r.stream r.frame with
    | none => rfl
    | some w => exact hb w _ _
  · rfl

/-- A change of a tile that leaves its bands. -/
theorem Dev.band?_modTile {f : Tile → Tile} (hf : ∀ x, (f x).bands = x.bands) (d : Dev) (s n t : Nat) (r : BandRef) :
    (d.modTile s n t f).band? r = d.band? r := by
  refine Dev.band?_modWork (f := fun w => { w with tiles := modAt w.tiles t f }) (fun _ => rfl) (fun w t' k => ?_) d s n r
  unfold Work.band?
  dsimp only
  rw [modAt_getElem?]
  split
  · cases w.tiles[t']? with
    | none => rfl
    | some x => simp only [Option.map_some, Option.bind_some, hf]
  · rfl

/-! ### Coded bands -/

/-- A band is coded, or already being verified, with these bytes. -/
def Dev.Coded (d : Dev) (r : BandRef) (bytes : List Byte) : Prop :=
  ∃ b, d.band? r = some b ∧ b.phase ∈ [.coded, .verifying] ∧ b.bytes = bytes

theorem Dev.Coded.of_caps {d d' : Dev} {r : BandRef} {bytes : List Byte} (h : d.Coded r bytes) (hc : d'.caps = d.caps) :
    d'.Coded r bytes := by
  unfold Dev.Coded
  rwa [Dev.band?_of_caps hc]

theorem Dev.Coded.bandOf {d : Dev} {r : BandRef} {bytes : List Byte} (h : d.Coded r bytes) :
    ∃ x, d.bandOf r = some x ∧ x.2.phase ∈ [.coded, .verifying] ∧ x.2.bytes = bytes := by
  obtain ⟨b, hb, hphase, hbytes⟩ := h
  obtain ⟨x, hx, rfl⟩ := Option.map_eq_some_iff.1 hb
  exact ⟨x, hx, hphase, hbytes⟩

/-- A change of a band that is not coded leaves the coded ones. -/
theorem Dev.Coded.onBand_of_uncoded {d : Dev} {r q : BandRef} {bytes : List Byte} (h : d.Coded r bytes) {w : Work} {b : Band}
    (hq : d.bandOf q = some (w, b)) (hb : b.phase ∉ [.coded, .verifying]) (f : Band → Band) : (d.onBand q f).Coded r bytes := by
  obtain ⟨c, hc, hphase, hbytes⟩ := h
  have hne : q ≠ r := by
    rintro rfl
    rw [Dev.band?_of_bandOf hq] at hc
    exact hb (Option.some.inj hc ▸ hphase)
  exact ⟨c, by rw [Dev.band?_onBand, if_neg hne, hc], hphase, hbytes⟩

/-- The verification of a band that starts leaves the coded ones coded, with their bytes. -/
theorem Dev.Coded.onBand_verifying {d : Dev} {r : BandRef} {bytes : List Byte} (h : d.Coded r bytes) (q : BandRef) :
    (d.onBand q (fun b => { b with phase := .verifying })).Coded r bytes := by
  obtain ⟨c, hc, hphase, hbytes⟩ := h
  unfold Dev.Coded
  rw [Dev.band?_onBand, hc]
  split
  · exact ⟨_, rfl, by simp, hbytes⟩
  · exact ⟨c, rfl, hphase, hbytes⟩

/-- An idle entropy engine takes bands that are not coded. -/
theorem Dev.Coded.entPump {d : Dev} {r : BandRef} {bytes : List Byte} (h : d.Coded r bytes) (e : Nat) : (d.entPump e).Coded r bytes := by
  unfold Dev.entPump
  dsimp only
  split
  · exact h
  · split
    · exact h
    · split
      · exact h
      next hq =>
        split
        next hp => exact (h.onBand_of_uncoded hq (by simp [hp]) _).of_caps rfl
        next hp => exact (h.onBand_of_uncoded hq (by simp [hp]) _).of_caps rfl
        next => exact h

/-- An idle mirror decoder takes a coded band as it is. -/
theorem Dev.Coded.mirPump {d : Dev} {r : BandRef} {bytes : List Byte} (h : d.Coded r bytes) (e : Nat) : (d.mirPump e).Coded r bytes := by
  unfold Dev.mirPump
  dsimp only
  split
  · exact h
  · split
    · exact h
    · refine (Dev.Coded.onBand_verifying ?_ _).of_caps rfl
      split <;> exact h.of_caps rfl

theorem Dev.Coded.pump {d : Dev} {r : BandRef} {bytes : List Byte} (h : d.Coded r bytes) (e : Nat) : (d.pump e).Coded r bytes :=
  (h.entPump e).mirPump e

/-- A band that is stored is coded. -/
theorem Dev.stored_coded {d : Dev} {r : BandRef} {b : Band} (h : d.band? r = some b) (bytes : List Byte) (flags k : Nat) :
    (d.stored r bytes flags k).Coded r bytes := by
  obtain ⟨x, hx, rfl⟩ := Option.map_eq_some_iff.1 h
  unfold Dev.stored Dev.Coded
  rw [hx]
  dsimp only
  split
  next hp =>
    rw [Dev.band?_modTile, Dev.band?_onBand, if_pos rfl, h]
    · exact ⟨_, rfl, by simp [hp], by simp [hp]⟩
    · exact fun _ => rfl
  next hp =>
    rw [Dev.band?_onBand, if_pos rfl, h]
    exact ⟨_, rfl, by simp [hp], by simp [hp]⟩

end Sys2Proof.Machine
end

section
/-! Code and eclipse passes of the entropy engines (R111, R120, R135, R167). -/

namespace Sys2Proof.Machine
open Sys2Proof

/-! ### How a pass ends -/

@[simp] theorem Dev.workEnds_clk (d : Dev) (start dt bound : Nat) :
    (d.workEnds start dt bound).clk = max d.clk (start + min dt bound) := (d.advanceTo_tick_clk _).2

theorem Dev.workEnds_caps (d : Dev) (start dt bound : Nat) : (d.workEnds start dt bound).caps = d.caps :=
  (Dev.advanceTo_tame (ps := setOf [.clk, .sid]) (by decide) (.refl _ d) _).same .caps (by decide)

/-- The words that a finished coding gives up, corrected or not. -/
def Dev.passWords (d : Dev) (e ce : Nat) (r : BandRef) : Dev := (d.bqCorrected e ce r).bqDrop r

theorem Dev.passWords_tame (d : Dev) (e ce : Nat) (r : BandRef) :
    Dev.Tame (setOf [.free, .seq, .stats, .commands, .events, .flt, .twk, .bbx, .link, .codec, .sent, .feat 0x12]) d
      (d.passWords e ce r) :=
  Dev.bqDrop_tame (by decide) (Dev.bqCorrected_tame (by decide) (.refl _ d) e ce r) r

theorem Dev.passWords_clk (d : Dev) (e ce : Nat) (r : BandRef) : (d.passWords e ce r).clk = d.clk :=
  (d.passWords_tame e ce r).same .clk (by decide)

theorem Dev.passWords_caps (d : Dev) (e ce : Nat) (r : BandRef) : (d.passWords e ce r).caps = d.caps :=
  (d.passWords_tame e ce r).same .caps (by decide)

theorem Dev.onBand_clk (d : Dev) (r : BandRef) (f : Band → Band) : (d.onBand r f).clk = d.clk :=
  (Dev.onBand_tame (ps := setOf [.caps]) (by decide) (.refl _ d) r f).same .clk (by decide)

/-- A pass ends: its band is stored, and the engines of the index take what is next. -/
def Dev.endPass (d : Dev) (e : Nat) (r : BandRef) (bytes : List Byte) (flags k last : Nat) : Dev :=
  ((d.stored r bytes flags k).onEnt e (fun x => { x with job := none, pass := .idle, last := last })).pump e

section
variable (d : Dev) (e : Nat) (r : BandRef) (bytes : List Byte) (flags k last : Nat)

@[simp] theorem Dev.endPass_clk : (d.endPass e r bytes flags k last).clk = d.clk :=
  (Dev.pump_tame (ps := setOf [.caps, .codec, .feat 0x16]) (by decide) (Dev.onEnt_tame (by decide)
    (Dev.stored_tame (by decide) (.refl _ d) r bytes flags k) e _) e).same .clk (by decide)

variable {d r} in
theorem Dev.endPass_coded {b : Band} (h : d.band? r = some b) : (d.endPass e r bytes flags k last).Coded r bytes :=
  Dev.Coded.pump (d := (d.stored r bytes flags k).onEnt e _) ((Dev.stored_coded h bytes flags k).of_caps rfl) e

end

/-- The band of an eclipse pass that begins, its source read. -/
def Dev.beginEclipse (d : Dev) (r : BandRef) (check : Nat) (off : Bool) : Dev :=
  (d.onBand r (fun b => { b with phase := .eclipsing, check := some check, mismatch := off, asked := false, depthSet := true,
                                 depth := if 2 ≤ b.pass then 0 else b.depth })).modWork r.stream r.frame (fun w => { w with begun := true })

theorem Dev.beginEclipse_tame (d : Dev) (r : BandRef) (check : Nat) (off : Bool) :
    Dev.Tame (setOf [.caps]) d (d.beginEclipse r check off) :=
  Dev.modWork_tame (by decide) (Dev.onBand_tame (by decide) (.refl _ d) ..) ..

/-- The band of the pass is in the eclipse phase. -/
theorem Dev.beginEclipse_phase {d : Dev} {r : BandRef} {b : Band} (h : d.band? r = some b) (check : Nat) (off : Bool) :
    ((d.beginEclipse r check off).band? r).map Band.phase = some .eclipsing := by
  unfold Dev.beginEclipse
  rw [Dev.band?_modWork, Dev.band?_onBand, if_pos rfl, h]
  · rfl
  · exact fun _ => rfl
  · exact fun _ _ _ => rfl

/-- The tables of a band's code pass. -/
def codeTables (w : Work) (b : Band) : List Freqs := if b.flat then flatTables else w.tables.getD flatTables

/-- The longest that the code pass of a band with these rANS bytes takes (R120). -/
def Dev.codeBound (d : Dev) (e : Nat) (w : Work) (r : BandRef) (rans : List Byte) : Nat :=
  nsOfClocks (max (ceilDiv (w.photos r.tile r.band) 2) (ceilDiv (8 * rans.length) 16) + 80) (2 * d.fPe e)

/-- The longest that the eclipse pass of a band takes (R135). -/
def Dev.eclipseBound (d : Dev) (e : Nat) (w : Work) (r : BandRef) : Nat :=
  nsOfClocks (ceilDiv (w.photos r.tile r.band) 8 + 64) (2 * d.fPe e)

/-- The segment of a band's final predictive coding (R87, R120). -/
def codedSegment (w : Work) (b : Band) (r : BandRef) (sec : Sections) : List Byte :=
  bandSegment { band := r.band, tile := r.tile, eclipse := false, flat := b.flat, delta := b.delta, rows := b.rows.length,
                flags := Band.wantFlags { b with cause := if 2 ≤ b.attempts then 1 else 0, depth := 0 } w.mode,
                check := b.check.getD 0 } sec

/-- The code pass ends with the segment of its sections (R120). -/
theorem Dev.codeDone_of_code {d : Dev} {e : Nat} {r : BandRef} {w : Work} {b : Band} {f : Formed} {sec : Sections} {rans : List Byte}
    (hb : d.bandOf r = some (w, b)) (hjob : (d.entE e).job = some r) (hfault : (d.entE e).fault = none)
    (hpass : (d.entE e).pass = .code) (hf : b.formed = some f) (hsec : f.sections (codeTables w b) = some sec)
    (hrans : ransBytes (codeTables w b) f.syms = some rans) (dt ce : Nat) :
    ∃ g flags k last, d.codeDone e dt ce =
      (((d.workEnds (d.entE e).startAt dt (d.codeBound e w r rans)).passWords e ce r).onBand r g).endPass
        e r (codedSegment w b r sec) flags k last := by
  unfold codeTables at hsec hrans
  unfold Dev.codeDone
  simp only [hjob, hb, hf, hpass, hfault, hsec, hrans]
  unfold Dev.endPass Dev.passWords codedSegment Dev.codeBound
  exact ⟨_, _, _, _, rfl⟩

section
variable {m : Mach} {e : Nat} {r : BandRef} {w : Work} {b : Band} (hb : m.dev.bandOf r = some (w, b))
include hb

/-- The eclipse pass ends with the packed photosites of the band (R111). -/
theorem Mach.eclipseDone_of_eclipse (hjob : (m.dev.entE e).job = some r) (hfault : (m.dev.entE e).fault = none)
    (hpass : (m.dev.entE e).pass = .eclipse) (dt : Nat) :
    ∃ (head : BandHead) (flags last : Nat), m.eclipseDone e dt =
      ⟨(m.dev.workEnds (m.dev.entE e).startAt dt (m.dev.eclipseBound e w r)).endPass
        e r (marker 3 ++ head.bytes ++ eclipseBytes w.depth b.depth (m.bandPhotos w r.tile r.band)) flags 0 last, m.mem⟩ := by
  unfold Mach.eclipseDone
  simp only [hjob, hb, hpass, hfault]
  exact ⟨_, _, _, rfl⟩

/-! ### How an eclipse pass starts -/

/-- An eclipse pass whose depth is fixed, and a fallback, starts without a decision (R167, R184). -/
theorem Mach.eclipseStart_of_fixed (hjob : (m.dev.entE e).job = none) (hfault : (m.dev.entE e).fault = none)
    (hwork : m.dev.takesWork (e / 4) = true) (hnext : m.dev.nextPass e = some r) (hphase : b.phase = .eclipseWait)
    (hasked : b.asked = false) (hpass : b.pass = 2 ∨ b.pass = 0 ∧ b.depthSet = true) : m.eclipseStart e = m.startEclipse r := by
  unfold Mach.eclipseStart
  dsimp only
  rw [if_neg (by simp [hjob, hfault, hwork])]
  simp only [hnext, hb]
  rw [if_neg (by simp [hphase, hasked]), if_neg (by omega), if_pos]
  rcases hpass with hpass | ⟨-, hset⟩
  · exact .inl (by omega)
  · exact .inr (.inl hset)

/-- The pass begins now, in the engine of the band's tile. -/
theorem Mach.startEclipse_eq {check : Nat} {off : Bool} {d : Dev}
    (hread : m.readSource r w b (m.bandPhotos w r.tile r.band) = (check, off, d)) : m.startEclipse r =
    ⟨(d.beginEclipse r check off).onEnt (w.tile r.tile).engine
      (fun x => { x with job := some r, pass := .eclipse, startAt := (d.beginEclipse r check off).clk }), m.mem⟩ := by
  unfold Mach.startEclipse
  split
  next h => exact nomatch h.symm.trans hb
  next w' b' h =>
    obtain ⟨rfl, rfl⟩ := Prod.mk.inj (Option.some.inj (h.symm.trans hb))
    rw [hread]
    rfl

end

/-- An entropy engine that is changed. -/
theorem Dev.entE_onEnt_same {d : Dev} {e : Nat} (h : e < d.codec.ent.length) (f : EntEngine → EntEngine) :
    (d.onEnt e f).entE e = f (d.entE e) :=
  (modAt_getD d.codec.ent e e f {} (.inr (.inl h))).trans (if_pos rfl)

theorem Dev.entE_of_codec {d d' : Dev} (h : d'.codec = d.codec) (e : Nat) : d'.entE e = d.entE e :=
  congrArg (fun c : Codec => c.ent.getD e {}) h

/-- The 24 bytes of a band header (R87). -/
theorem BandHead.bytes_length (h : BandHead) : h.bytes.length = 24 := by
  simp only [BandHead.bytes, List.length_append, leBytes_length]

/-! ### The commands -/

section
variable {s : State} {e : Nat} {r : BandRef} {w : Work} {b : Band} (hl : s.Live) (hb : s.m.dev.bandOf r = some (w, b))
include hl hb

/-- CODE_PASS_DONE: the time that has passed, and the coded band (R120). -/
theorem codePassDone_yields {f : Formed} {sec : Sections} {rans : List Byte} (hjob : (s.m.dev.entE e).job = some r)
    (hfault : (s.m.dev.entE e).fault = none) (hpass : (s.m.dev.entE e).pass = .code) (hf : b.formed = some f)
    (hsec : f.sections (codeTables w b) = some sec) (hrans : ransBytes (codeTables w b) f.syms = some rans) (dt ce : Nat) :
    Yields (.codePassDone e dt ce) s [.clk, .seq, .stats, .commands, .events, .flt, .bbx, .sid, .link, .caps, .codec, .feat 0x12,
        .feat 0x16] (fun t =>
      t.m.dev.clk = max s.m.dev.clk ((s.m.dev.entE e).startAt + min dt (s.m.dev.codeBound e w r rans)) ∧
      ∃ x, t.m.dev.bandOf r = some x ∧ x.2.phase ∈ [.coded, .verifying] ∧ x.2.bytes = codedSegment w b r sec) := by
  obtain ⟨g, flags, k, last, hdone⟩ := Dev.codeDone_of_code hb hjob hfault hpass hf hsec hrans dt ce
  refine yields_of_liveDev hl (f := fun d => d.codeDone e dt ce) rfl (execCodePassDone_framed e dt ce s) (by decide) ?_
  dsimp only
  rw [hdone, Dev.settle_clk, Dev.endPass_clk]
  refine ⟨?_, Dev.Coded.bandOf ((Dev.endPass_coded e _ flags k last (b := g b) ?_).of_caps (Dev.settle_caps _))⟩
  · rw [Dev.onBand_clk, Dev.passWords_clk, Dev.workEnds_clk]
  · rw [Dev.band?_onBand, if_pos rfl, Dev.band?_of_caps (Dev.passWords_caps ..), Dev.band?_of_caps (Dev.workEnds_caps ..),
      Dev.band?_of_bandOf hb]
    rfl

/-- ECLIPSE_PASS_START, where it takes the band to its pass at once: the engine and the band have begun (R167). -/
theorem eclipsePassStart_yields (hstart : s.m.eclipseStart e = s.m.startEclipse r) (hlen : e < s.m.dev.codec.ent.length)
    (hengine : (w.tile r.tile).engine = e) :
    Yields (.eclipsePassStart e) s [.seq, .stats, .commands, .events, .flt, .bbx, .link, .dram, .caps, .codec, .seqr, .feat 0x14,
        .feat 0x1E] (fun t => (t.m.dev.entE e).job = some r ∧ (t.m.dev.entE e).pass = .eclipse ∧
      (t.m.dev.entE e).startAt = s.m.dev.clk ∧ (t.m.dev.bandOf r).map (fun x => x.2.phase) = some .eclipsing ∧ t.m.mem = s.m.mem) := by
  rcases hread : s.m.readSource r w b (s.m.bandPhotos w r.tile r.band) with ⟨check, off, d⟩
  have hsource : Dev.Tame (setOf [.free, .seq, .stats, .commands, .events, .flt, .twk, .bbx, .link, .dram, .sent, .feat 0x1E])
      s.m.dev d := Dev.Tame.of_snd_snd hread (Mach.readSource_tame (by decide) (.refl _ s.m.dev) ..)
  have hband : d.band? r = some b := (Dev.band?_of_caps (hsource.same .caps (by decide)) r).trans (Dev.band?_of_bandOf hb)
  have hbegun := (d.beginEclipse_tame r check off).next (ps := setOf [.free, .seq, .stats, .commands, .events, .flt, .twk, .bbx, .link,
    .dram, .caps, .sent, .feat 0x1E]) (by decide) (hsource.mono (by decide))
  have hcodec : (d.beginEclipse r check off).codec = s.m.dev.codec := hbegun.same .codec (by decide)
  refine yields_of_live hl (f := fun m => m.eclipseStart e) rfl (execEclipsePassStart_framed e s) (by decide) ?_
  dsimp only
  rw [hstart, Mach.startEclipse_eq hb hread, hengine, Dev.entE_of_codec (Dev.settle_codec _), Dev.entE_onEnt_same (hcodec ▸ hlen),
    Dev.map_phase_bandOf, Dev.settle_band?]
  exact ⟨rfl, rfl, hbegun.same .clk (by decide), Dev.beginEclipse_phase hband check off, rfl⟩

/-- ECLIPSE_PASS_DONE: the time that has passed, and the coded band (R111, R135). -/
theorem eclipsePassDone_yields (hjob : (s.m.dev.entE e).job = some r) (hfault : (s.m.dev.entE e).fault = none)
    (hpass : (s.m.dev.entE e).pass = .eclipse) (dt : Nat) :
    Yields (.eclipsePassDone e dt) s [.clk, .sid, .caps, .codec, .feat 0x16] (fun t =>
      t.m.dev.clk = max s.m.dev.clk ((s.m.dev.entE e).startAt + min dt (s.m.dev.eclipseBound e w r)) ∧
      ∃ x, t.m.dev.bandOf r = some x ∧ x.2.phase ∈ [.coded, .verifying] ∧ x.2.bytes.take 4 = marker 3 ∧
        x.2.bytes.drop 28 = eclipseBytes w.depth b.depth (s.m.bandPhotos w r.tile r.band)) := by
  obtain ⟨head, flags, last, hdone⟩ := Mach.eclipseDone_of_eclipse hb hjob hfault hpass dt
  refine yields_of_live hl (f := fun m => m.eclipseDone e dt) rfl (execEclipsePassDone_framed e dt s) (by decide) ?_
  dsimp only
  rw [hdone, Dev.settle_clk, Dev.endPass_clk, Dev.workEnds_clk]
  refine ⟨rfl, ?_⟩
  have hband : (s.m.dev.workEnds (s.m.dev.entE e).startAt dt (s.m.dev.eclipseBound e w r)).band? r = some b :=
    (Dev.band?_of_caps (Dev.workEnds_caps ..) r).trans (Dev.band?_of_bandOf hb)
  obtain ⟨x, hx, hphase, hbytes⟩ := Dev.Coded.bandOf ((Dev.endPass_coded e (marker 3 ++ head.bytes ++
    eclipseBytes w.depth b.depth (s.m.bandPhotos w r.tile r.band)) flags 0 last hband).of_caps (Dev.settle_caps _))
  refine ⟨x, hx, hphase, ?_, ?_⟩
  · rw [hbytes, List.append_assoc]
    rfl
  · rw [hbytes]
    exact List.drop_left' (by rw [List.length_append, BandHead.bytes_length]; rfl)

end

/-- Settles O40: a code pass and an eclipse pass end with their bands stored, and an eclipse pass starts at its fixed depth. -/
theorem codingPasses : Obligations.CodingPasses := by
  intro s e r w b hl hb
  refine ⟨?_, ?_, ?_⟩
  · intro dt ce f sec rans hjob hfault hpass hf hsec hrans
    exact codePassDone_yields hl hb hjob hfault hpass hf hsec hrans dt ce
  · intro hjob hfault hwork hlen hnext hengine hphase hasked hpass
    have hstart := Mach.eclipseStart_of_fixed hb hjob hfault hwork hnext hphase hasked hpass
    exact eclipsePassStart_yields hl hb hstart hlen hengine
  · intro dt hjob hfault hpass
    exact eclipsePassDone_yields hl hb hjob hfault hpass dt

end Sys2Proof.Machine
end

section
/-! Faults of the engines, and their resets (R140, R141). -/

namespace Sys2Proof.Machine
open Sys2Proof

/-! ### The engines -/

/-- What a change of one element leaves of each, it leaves of the element read. -/
theorem modAt_getD_congr {α β : Type} {g : α → β} {f : α → α} (h : ∀ x, g (f x) = g x) (l : List α) (i k : Nat) (x : α) :
    g ((modAt l i f).getD k x) = g (l.getD k x) := by
  rw [List.getD_eq_getElem?_getD, List.getD_eq_getElem?_getD, modAt_getElem?]
  split
  · cases l[k]? with
    | none => rfl
    | some y => exact h y
  · rfl

/-- Where a list does not read as its default, it has an element. -/
theorem lt_length_of_getD_ne {α : Type} {l : List α} {k : Nat} {x : α} (h : l.getD k x ≠ x) : k < l.length :=
  Nat.not_le.1 fun hle => h (List.getD_eq_default _ _ hle)

section
variable {d d' : Dev} {e : Nat}

theorem Dev.pix_of_codec (h : d'.codec = d.codec) (e : Nat) : d'.pix e = d.pix e := congrArg (fun c : Codec => c.pxe.getD e {}) h

theorem Dev.mirE_of_codec (h : d'.codec = d.codec) (e : Nat) : d'.mirE e = d.mirE e := congrArg (fun c : Codec => c.mir.getD e {}) h

@[simp] theorem Dev.settle_pix (d : Dev) (e : Nat) : d.settle.pix e = d.pix e := Dev.pix_of_codec d.settle_codec e

@[simp] theorem Dev.settle_entE (d : Dev) (e : Nat) : d.settle.entE e = d.entE e := Dev.entE_of_codec d.settle_codec e

@[simp] theorem Dev.settle_mirE (d : Dev) (e : Nat) : d.settle.mirE e = d.mirE e := Dev.mirE_of_codec d.settle_codec e

theorem Dev.lt_of_pix_job {r : BandRef} (h : (d.pix e).job = some r) : e < d.codec.pxe.length :=
  lt_length_of_getD_ne fun hx => nomatch (congrArg PixEngine.job hx).symm.trans h

theorem Dev.lt_of_entE_job {r : BandRef} (h : (d.entE e).job = some r) : e < d.codec.ent.length :=
  lt_length_of_getD_ne fun hx => nomatch (congrArg EntEngine.job hx).symm.trans h

theorem Dev.lt_of_mirE_job {r : BandRef} (h : (d.mirE e).job = some r) : e < d.codec.mir.length :=
  lt_length_of_getD_ne fun hx => nomatch (congrArg MirEngine.job hx).symm.trans h

/-- A pixel engine after a change of one of them; a change that leaves the default may also name an absent one. -/
theorem Dev.pix_onPix {k : Nat} {f : PixEngine → PixEngine} (h : f {} = {} ∨ k < d.codec.pxe.length ∨ k ≠ e) :
    (d.onPix k f).pix e = if k = e then f (d.pix e) else d.pix e := modAt_getD d.codec.pxe k e f {} h

theorem Dev.entE_onEnt {k : Nat} {f : EntEngine → EntEngine} (h : f {} = {} ∨ k < d.codec.ent.length ∨ k ≠ e) :
    (d.onEnt k f).entE e = if k = e then f (d.entE e) else d.entE e := modAt_getD d.codec.ent k e f {} h

theorem Dev.mirE_onMir_same (h : e < d.codec.mir.length) (f : MirEngine → MirEngine) : (d.onMir e f).mirE e = f (d.mirE e) :=
  (modAt_getD d.codec.mir e e f {} (.inr (.inl h))).trans (if_pos rfl)

end

/-! ### Engines that stop -/

/-- No engine takes work from one device to the other: each pixel and each entropy engine is as it was, or is stopped, and the
mirror decoders are as they were. -/
structure Dev.Eases (d d' : Dev) : Prop where
  pix : ∀ e, d'.pix e = d.pix e ∨ d'.pix e = { d.pix e with job := none, written := 0 }
  ent : ∀ e, d'.entE e = d.entE e ∨ d'.entE e = { d.entE e with job := none, pass := .idle }
  mir : ∀ e, d'.mirE e = d.mirE e
  entLength : d'.codec.ent.length = d.codec.ent.length

namespace Dev.Eases

theorem of_codec {d d' : Dev} (h : d'.codec = d.codec) : d.Eases d' :=
  ⟨fun e => .inl (Dev.pix_of_codec h e), fun e => .inl (Dev.entE_of_codec h e), Dev.mirE_of_codec h, by rw [h]⟩

theorem refl (d : Dev) : d.Eases d := .of_codec rfl

variable {a b c : Dev} {e : Nat}

theorem trans (h : a.Eases b) (k : b.Eases c) : a.Eases c where
  pix e := by rcases k.pix e with k | k <;> rcases h.pix e with h | h <;> simp [k, h]
  ent e := by rcases k.ent e with k | k <;> rcases h.ent e with h | h <;> simp [k, h]
  mir e := (k.mir e).trans (h.mir e)
  entLength := k.entLength.trans h.entLength

theorem ite {p : Prop} [Decidable p] (h : a.Eases b) (k : a.Eases c) : a.Eases (if p then b else c) := by
  split <;> assumption

theorem foldl {β : Type} {f : Dev → β → Dev} (hf : ∀ x y, Dev.Eases x (f x y)) (l : List β) (d : Dev) : d.Eases (l.foldl f d) := by
  induction l generalizing d with
  | nil => exact .refl d
  | cons y r ih => exact (hf d y).trans (ih (f d y))

/-- A pixel engine without work stays so, and its recovery goes on. -/
theorem pix_rests (h : a.Eases b) (hjob : (a.pix e).job = none) : (b.pix e).job = none ∧ (b.pix e).fault = (a.pix e).fault := by
  rcases h.pix e with h | h <;> simp [h, hjob]

/-- An entropy engine without work stays so, and its recovery goes on. -/
theorem ent_rests (h : a.Eases b) (hjob : (a.entE e).job = none) (hpass : (a.entE e).pass = .idle) :
    (b.entE e).job = none ∧ (b.entE e).pass = .idle ∧ (b.entE e).fault = (a.entE e).fault := by
  rcases h.ent e with h | h <;> simp [h, hjob, hpass]

end Dev.Eases

@[simp] theorem Dev.onBand_codec (d : Dev) (r : BandRef) (f : Band → Band) : (d.onBand r f).codec = d.codec :=
  (Dev.onBand_tame (ps := setOf [.caps]) (by decide) (.refl _ d) r f).same .codec (by decide)

theorem Dev.onBand_eases (d : Dev) (r : BandRef) (f : Band → Band) : d.Eases (d.onBand r f) := .of_codec (d.onBand_codec r f)

theorem Dev.raise_eases (d : Dev) (src arg : Nat) : d.Eases (d.raise src arg) :=
  .of_codec ((Dev.raise_tame (ps := setOf [.free, .seq, .stats, .commands, .events, .flt, .twk, .bbx, .link, .sent]) (by decide)
    (.refl _ d) src arg).same .codec (by decide))

theorem Dev.onBq_eases (d : Dev) (e : Nat) (f : List BqEntry → List BqEntry) : d.Eases (d.onBq e f) :=
  ⟨fun _ => .inl rfl, fun _ => .inl rfl, fun _ => rfl, rfl⟩

theorem Dev.bqRewind_eases (d : Dev) (r : BandRef) : d.Eases (d.bqRewind r) := d.onBq_eases _ _

theorem Dev.bump_eases (d : Dev) (feat o n : Nat) : d.Eases (d.bump feat o n) := .of_codec rfl

theorem Dev.onPix_stop_eases (d : Dev) (e : Nat) : d.Eases (d.onPix e (fun p => { p with job := none, written := 0 })) where
  pix k := by
    rw [Dev.pix_onPix (.inl rfl)]
    split
    · exact .inr rfl
    · exact .inl rfl
  ent _ := .inl rfl
  mir _ := rfl
  entLength := rfl

theorem Dev.onEnt_stop_eases (d : Dev) (e : Nat) : d.Eases (d.onEnt e (fun p => { p with job := none, pass := .idle })) where
  pix _ := .inl rfl
  ent k := by
    rw [Dev.entE_onEnt (.inl rfl)]
    split
    · exact .inr rfl
    · exact .inl rfl
  mir _ := rfl
  entLength := modAt_length ..

theorem Dev.stopBand_eases (d : Dev) (r : BandRef) : d.Eases (d.stopBand r) := by
  have hpix : d.Eases (if (d.pix (d.engineOf r)).job = some r then
      d.onPix (d.engineOf r) (fun p => { p with job := none, written := 0 }) else d) := .ite (d.onPix_stop_eases _) (.refl d)
  exact .ite (hpix.trans (Dev.onEnt_stop_eases _ _)) hpix

theorem Dev.toEclipse_eases (d : Dev) (r : BandRef) (cause : Nat) : d.Eases (d.toEclipse r cause) :=
  ((d.stopBand_eases r).trans (Dev.onBq_eases _ _ _)).trans (Dev.onBand_eases _ _ _)

theorem Dev.divert_eases (d : Dev) (s n t from_ cause : Nat) (p : BandPhase → Bool) : d.Eases (d.divert s n t from_ cause p) := by
  unfold Dev.divert
  split
  · exact .refl d
  · exact .foldl (fun x _ => .ite (x.toEclipse_eases _ _) (.refl x)) _ d

/-- Formed bands that are formed again stop the engines that work on them (R121). -/
theorem Dev.rewindAfter_eases (d : Dev) (r : BandRef) (uncounted : Bool) : d.Eases (d.rewindAfter r uncounted) := by
  unfold Dev.rewindAfter
  split
  · exact .refl d
  · exact (Dev.Eases.foldl (fun x _ => (x.stopBand_eases _).trans (Dev.onBand_eases _ _ _)) _ d).trans (Dev.onBq_eases _ _ _)

/-- A fault's sources, and the bands that a second one sends to the eclipse path, start no engine (R142). -/
theorem Dev.engineFault_eases (d : Dev) (e k : Nat) (r : BandRef) (second : Bool) : d.Eases (d.engineFault e k r second) := by
  unfold Dev.engineFault
  refine .ite (((d.raise_eases _ _).trans (Dev.raise_eases _ _ _)).trans (.foldl (fun x _ => ?_) _ _)) (d.raise_eases _ _)
  exact .ite (.refl x) (x.divert_eases ..)

/-! ### Counters -/

/-- A saturating counter that counts (R9). -/
theorem Dev.reg_bump {d : Dev} (h : d.Shape) (feat o n : Nat) :
    (d.bump feat o n).reg feat o = word (satAdd32 (d.reg feat o).toNat n) := Dev.reg_setReg h feat o _

/-- The sources of a fault leave the registers of every feature. -/
theorem Dev.engineFault_reg {f : Nat} (hf : f < 64) (d : Dev) (e k : Nat) (r : BandRef) (second : Bool) (o : Nat) :
    (d.engineFault e k r second).reg f o = d.reg f o :=
  (Dev.engineFault_tame (ps := setOf [.free, .seq, .stats, .commands, .events, .flt, .twk, .bbx, .link, .caps, .codec, .sent])
    (by decide) (.refl _ d) e k r second).reg_eq hf
      (Nat.testBit_eq_false_of_lt (Nat.lt_of_lt_of_le (by decide) (Nat.pow_le_pow_right (n := 2) (by decide) (Nat.le_add_right 64 f)))) o

/-! ### Faults -/

/-- The attempt of pixel engine `e` is dropped and its band formed again; the engine is in reset since now (R140, R141). -/
def Dev.resetPix (d : Dev) (e : Nat) (r : BandRef) : Dev :=
  ((d.bqDrop r).onBand r (fun b => { b with phase := .waiting, due := .again })).onPix e
    (fun x => { x with job := none, written := 0, fault := some d.clk, lastFault := d.clk + 1 })

/-- Entropy engine `e` is in reset since instant `t` (R140, R141). -/
def Dev.resetEnt (d : Dev) (e t : Nat) : Dev :=
  d.onEnt e (fun x => { x with job := none, pass := .idle, fault := some t, lastFault := t + 1 })

/-- Mirror decoder `e` is in reset since now (R140, R141). -/
def Dev.resetMir (d : Dev) (e : Nat) : Dev :=
  d.onMir e (fun x => { x with job := none, play := none, fault := some d.clk, lastFault := d.clk + 1 })

section
variable {d : Dev} {e : Nat} {r : BandRef}

theorem Dev.pixFault_of_job (h : (d.pix e).job = some r) (k : Nat) :
    d.pixFault e k = ((d.resetPix e r).bump 0x11 (0x40 * e + 0x10)).engineFault e k r (secondFault (d.pix e).lastFault d.clk) := by
  unfold Dev.pixFault
  rw [h]
  rfl

theorem Dev.resetPix_tame (d : Dev) (e : Nat) (r : BandRef) : Dev.Tame (setOf [.caps, .codec]) d (d.resetPix e r) :=
  Dev.onPix_tame (by decide) (Dev.onBand_tame (by decide) (Dev.bqDrop_tame (by decide) (.refl _ d) r) ..) ..

theorem Dev.resetPix_rests (h : e < d.codec.pxe.length) :
    ((d.resetPix e r).pix e).job = none ∧ ((d.resetPix e r).pix e).fault = some d.clk := by
  unfold Dev.resetPix
  rw [Dev.pix_onPix (.inr (.inl (by rwa [Dev.onBand_codec]))), if_pos rfl]
  exact ⟨rfl, rfl⟩

/-- A fault of a pixel engine takes its work and begins its reset, and is counted. -/
theorem Dev.pixFault_resets (hs : d.Shape) (h : (d.pix e).job = some r) (k : Nat) :
    ((d.pixFault e k).pix e).job = none ∧ ((d.pixFault e k).pix e).fault = some d.clk ∧
      (d.pixFault e k).reg 0x11 (0x40 * e + 0x10) = word (satAdd32 (d.reg 0x11 (0x40 * e + 0x10)).toNat 1) := by
  rw [Dev.pixFault_of_job h]
  have htame := d.resetPix_tame e r
  obtain ⟨hnone, hreset⟩ := Dev.resetPix_rests (r := r) (Dev.lt_of_pix_job h)
  obtain ⟨hjob, hfault⟩ := (Dev.engineFault_eases ((d.resetPix e r).bump 0x11 (0x40 * e + 0x10)) e k r
    (secondFault (d.pix e).lastFault d.clk)).pix_rests hnone
  refine ⟨hjob, hfault.trans hreset, ?_⟩
  rw [Dev.engineFault_reg (by decide), Dev.reg_bump (htame.shape hs), htame.reg_eq (by decide) (by decide)]

@[simp] theorem Dev.pixFault_clk (d : Dev) (e k : Nat) : (d.pixFault e k).clk = d.clk :=
  (Dev.pixFault_tame (ps := setOf [.free, .seq, .stats, .commands, .events, .flt, .twk, .bbx, .link, .caps, .codec, .sent, .feat 0x11])
    (by decide) (.refl _ d) e k).same .clk (by decide)

/-- What follows the reset of an entropy engine leaves it idle and in reset. -/
theorem Dev.Eases.ent_resets {d' : Dev} {t : Nat} (h : (d.resetEnt e t).Eases d') (hlt : e < d.codec.ent.length) :
    (d'.entE e).job = none ∧ (d'.entE e).pass = .idle ∧ (d'.entE e).fault = some t := by
  have hreset := Dev.entE_onEnt_same hlt (fun x => { x with job := none, pass := .idle, fault := some t, lastFault := t + 1 })
  obtain ⟨hjob, hpass, hfault⟩ := h.ent_rests (e := e) (congrArg EntEngine.job hreset) (congrArg EntEngine.pass hreset)
  exact ⟨hjob, hpass, hfault.trans (congrArg EntEngine.fault hreset)⟩

theorem Dev.entFault_of_job (h : (d.entE e).job = some r) (k : Nat) :
    ∃ g, d.entFault e k = (((d.onBand r g).resetEnt e d.clk).bump 0x13 (0x40 * e + 0x10)).engineFault e k r
      (secondFault (d.entE e).lastFault d.clk) := by
  unfold Dev.entFault
  rw [h]
  exact ⟨_, rfl⟩

/-- A fault of an entropy engine takes its work and begins its reset, and is counted. -/
theorem Dev.entFault_resets (hs : d.Shape) (h : (d.entE e).job = some r) (k : Nat) :
    ((d.entFault e k).entE e).job = none ∧ ((d.entFault e k).entE e).pass = .idle ∧ ((d.entFault e k).entE e).fault = some d.clk ∧
      (d.entFault e k).reg 0x13 (0x40 * e + 0x10) = word (satAdd32 (d.reg 0x13 (0x40 * e + 0x10)).toNat 1) := by
  obtain ⟨g, heq⟩ := Dev.entFault_of_job h k
  rw [heq]
  have htame : Dev.Tame (setOf [.caps, .codec]) d ((d.onBand r g).resetEnt e d.clk) :=
    Dev.onEnt_tame (by decide) (Dev.onBand_tame (by decide) (.refl _ d) r g) ..
  have heases : ((d.onBand r g).resetEnt e d.clk).Eases ((((d.onBand r g).resetEnt e d.clk).bump 0x13 (0x40 * e + 0x10)).engineFault e k r
      (secondFault (d.entE e).lastFault d.clk)) := (Dev.bump_eases ..).trans (Dev.engineFault_eases ..)
  obtain ⟨hjob, hpass, hfault⟩ := heases.ent_resets (by rw [Dev.onBand_codec]; exact Dev.lt_of_entE_job h)
  refine ⟨hjob, hpass, hfault, ?_⟩
  rw [Dev.engineFault_reg (by decide), Dev.reg_bump (htame.shape hs), htame.reg_eq (by decide) (by decide)]

/-- The band whose words entropy engine `e` cannot read, and those after it, are formed again; the engine is in reset (R129, R140). -/
def Dev.rewindFrom (d : Dev) (e : Nat) (r : BandRef) : Dev :=
  (((d.rewindAfter r true).onBand r (fun b => { b with phase := .waiting, due := .again })).resetEnt e d.clk).bqRewind r

theorem Dev.rewindFrom_tame (d : Dev) (e : Nat) (r : BandRef) : Dev.Tame (setOf [.caps, .codec]) d (d.rewindFrom e r) :=
  Dev.bqRewind_tame (by decide) (Dev.onEnt_tame (by decide) (Dev.onBand_tame (by decide)
    (Dev.rewindAfter_tame (by decide) (.refl _ d) r true) ..) ..) r

theorem Dev.bqFault_of_job (h : (d.entE e).job = some r) (hpass : (d.entE e).pass = .measure ∨ (d.entE e).pass = .code) :
    d.bqFault e = (((d.rewindFrom e r).bump 0x12 (0x20 * e + 0x08)).bump 0x13 (0x40 * e + 0x10)).engineFault e 2 r
      (secondFault (d.entE e).lastFault d.clk) := by
  unfold Dev.bqFault
  rw [h]
  exact if_neg fun hne => hpass.elim hne.1 hne.2

/-- An uncorrectable word takes the work of the entropy engine and begins its reset, and is counted. -/
theorem Dev.bqFault_resets (hs : d.Shape) (h : (d.entE e).job = some r)
    (hpass : (d.entE e).pass = .measure ∨ (d.entE e).pass = .code) :
    ((d.bqFault e).entE e).job = none ∧ ((d.bqFault e).entE e).pass = .idle ∧ ((d.bqFault e).entE e).fault = some d.clk ∧
      (d.bqFault e).reg 0x12 (0x20 * e + 0x08) = word (satAdd32 (d.reg 0x12 (0x20 * e + 0x08)).toNat 1) := by
  rw [Dev.bqFault_of_job h hpass]
  have htame := d.rewindFrom_tame e r
  have hbefore : d.Eases ((d.rewindAfter r true).onBand r (fun b => { b with phase := .waiting, due := .again })) :=
    (d.rewindAfter_eases r true).trans (Dev.onBand_eases ..)
  have hafter : Dev.Eases (((d.rewindAfter r true).onBand r (fun b => { b with phase := .waiting, due := .again })).resetEnt e d.clk)
      ((((d.rewindFrom e r).bump 0x12 (0x20 * e + 0x08)).bump 0x13 (0x40 * e + 0x10)).engineFault e 2 r
        (secondFault (d.entE e).lastFault d.clk)) :=
    (Dev.bqRewind_eases _ r).trans ((Dev.bump_eases ..).trans ((Dev.bump_eases ..).trans (Dev.engineFault_eases ..)))
  obtain ⟨hjob, hidle, hfault⟩ := hafter.ent_resets (hbefore.entLength ▸ Dev.lt_of_entE_job h)
  refine ⟨hjob, hidle, hfault, ?_⟩
  rw [Dev.engineFault_reg (by decide), Dev.bump, Dev.reg_setReg_of_ne (regKey_ne (by decide)), Dev.reg_bump (htame.shape hs),
    htame.reg_eq (by decide) (by decide)]

theorem Dev.mirFault_of_job (h : (d.mirE e).job = some r) (k : Nat) :
    ∃ g, d.mirFault e k = (((d.onBand r g).resetMir e).bump 0x13 (0x40 * e + 0x10)).engineFault e k r
      (secondFault (d.mirE e).lastFault d.clk) := by
  unfold Dev.mirFault
  simp only [h]
  exact ⟨_, rfl⟩

/-- A fault of a mirror decoder takes its work and begins its reset. -/
theorem Dev.mirFault_resets (h : (d.mirE e).job = some r) (k : Nat) :
    ((d.mirFault e k).mirE e).job = none ∧ ((d.mirFault e k).mirE e).play = none ∧ ((d.mirFault e k).mirE e).fault = some d.clk := by
  obtain ⟨g, heq⟩ := Dev.mirFault_of_job h k
  rw [heq, (Dev.engineFault_eases ..).mir e, (Dev.bump_eases ..).mir e]
  unfold Dev.resetMir
  rw [Dev.mirE_onMir_same (by rw [Dev.onBand_codec]; exact Dev.lt_of_mirE_job h), Dev.onBand_clk]
  exact ⟨rfl, rfl, rfl⟩

end

/-! ### Resets that complete -/

/-- An idle entropy engine that is let go on changes no other engine, and no recovery. -/
theorem Dev.entPump_codec (d : Dev) (e : Nat) : (d.entPump e).codec = d.codec ∨
    ∃ f : EntEngine → EntEngine, (∀ x, (f x).fault = x.fault) ∧
      (d.entPump e).codec = { d.codec with ent := modAt d.codec.ent e f } := by
  have hstart (q : BandRef) (g : Band → Band) (f : EntEngine → EntEngine) :
      ((d.onBand q g).onEnt e f).codec = { d.codec with ent := modAt d.codec.ent e f } :=
    congrArg (fun c : Codec => { c with ent := modAt c.ent e f }) (d.onBand_codec q g)
  unfold Dev.entPump
  dsimp only
  split
  · exact .inl rfl
  · split
    · exact .inl rfl
    · split
      · exact .inl rfl
      · split
        · exact .inr ⟨_, fun x => by rfl, hstart ..⟩
        · exact .inr ⟨_, fun x => by rfl, hstart ..⟩
        · exact .inl rfl

/-- A mirror decoder that is let go on changes no other engine. -/
theorem Dev.mirPump_codec (d : Dev) (e : Nat) : ∃ l, (d.mirPump e).codec = { d.codec with mir := l } := by
  have hstart (d : Dev) (q : BandRef) (g : Band → Band) (f : MirEngine → MirEngine) :
      ((d.onBand q g).onMir e f).codec = { d.codec with mir := modAt d.codec.mir e f } :=
    congrArg (fun c : Codec => { c with mir := modAt c.mir e f }) (d.onBand_codec q g)
  unfold Dev.mirPump
  dsimp only
  split
  · exact ⟨_, rfl⟩
  · split
    · exact ⟨_, rfl⟩
    · split
      · exact ⟨_, hstart ..⟩
      · exact ⟨_, hstart ..⟩

section
variable (d : Dev) (e k : Nat)

/-- What the entropy engine and the mirror decoder of an index take next leaves the pixel engines. -/
theorem Dev.pump_pix : (d.pump e).pix k = d.pix k := by
  obtain ⟨l, hmir⟩ := (d.entPump e).mirPump_codec e
  unfold Dev.pump Dev.pix
  rw [hmir]
  rcases d.entPump_codec e with hent | ⟨f, -, hent⟩ <;> rw [hent]

/-- What the engines of an index take next leaves each entropy engine's recovery. -/
theorem Dev.pump_entE_fault : ((d.pump e).entE k).fault = (d.entE k).fault := by
  obtain ⟨l, hmir⟩ := (d.entPump e).mirPump_codec e
  unfold Dev.pump Dev.entE
  rw [hmir]
  rcases d.entPump_codec e with hent | ⟨f, hf, hent⟩ <;> rw [hent]
  exact modAt_getD_congr hf ..

@[simp] theorem Dev.pump_clk : (d.pump e).clk = d.clk :=
  (Dev.pump_tame (ps := setOf [.caps, .codec, .feat 0x16]) (by decide) (.refl _ d) e).same .clk (by decide)

end

section
variable {d : Dev} {e t : Nat}

/-- The reset of a pixel engine ends (R141). -/
theorem Dev.engineReset_pix (h : (d.pix e).fault = some t) (dt : Nat) :
    ((d.engineReset 0 e dt).pix e).fault = none ∧ (d.engineReset 0 e dt).clk = max d.clk (t + min dt 40000) := by
  unfold Dev.engineReset
  simp only [h]
  rw [Dev.pump_pix, Dev.pump_clk, Dev.pix_onPix (.inl rfl), if_pos rfl]
  exact ⟨rfl, (d.advanceTo_tick_clk _).2⟩

/-- The reset of an entropy engine ends (R141). -/
theorem Dev.engineReset_ent (h : (d.entE e).fault = some t) (dt : Nat) :
    ((d.engineReset 1 e dt).entE e).fault = none ∧ (d.engineReset 1 e dt).clk = max d.clk (t + min dt 40000) := by
  unfold Dev.engineReset
  simp only [h]
  rw [Dev.pump_entE_fault, Dev.pump_clk, Dev.entE_onEnt (.inl rfl), if_pos rfl]
  exact ⟨rfl, (d.advanceTo_tick_clk _).2⟩

end

/-! ### The commands -/

/-- The words corrected before an uncorrectable one leave the counter of those. -/
theorem Dev.bqCorrected_reg (d : Dev) (e ce : Nat) (r : BandRef) :
    (d.bqCorrected e ce r).reg 0x12 (0x20 * e + 0x08) = d.reg 0x12 (0x20 * e + 0x08) := by
  unfold Dev.bqCorrected
  split
  · rfl
  · rw [(Dev.raise_tame (ps := setOf [.free, .seq, .stats, .commands, .events, .flt, .twk, .bbx, .link, .sent]) (by decide)
      (.refl _ _) _ _).reg_eq (by decide) (by decide)]
    exact Dev.reg_setReg_of_ne (by unfold regKey; omega)

section
variable {s : State} {e : Nat} {r : BandRef}

/-- A pixel engine with work that stalls meets its fault 8 µs later (R140). -/
theorem execEngineStall_of_pix (h : (s.m.dev.pix e).job = some r) :
    execEngineStall 0 e s = liveDev (fun d => (d.advance 8000).pixFault e 6) s := by
  unfold execEngineStall
  exact liveDev_congr (by simp [h])

theorem execBqUncorrectable_of_pass (h : (s.m.dev.entE e).job = some r)
    (hpass : (s.m.dev.entE e).pass = .measure ∨ (s.m.dev.entE e).pass = .code) (ce : Nat) :
    execBqUncorrectable e ce s = liveDev (fun d => (d.bqCorrected e ce r).bqFault e) s := by
  unfold execBqUncorrectable
  exact liveDev_congr (by simp only [h, hpass, if_true])

theorem execEntParity_of_pass (hpass : (s.m.dev.entE e).pass = .measure ∨ (s.m.dev.entE e).pass = .code) :
    execEntParity e s = liveDev (fun d => d.entFault e 3) s := by
  unfold execEntParity
  exact liveDev_congr (onlyIf_of_true (decide_eq_true hpass) ..)

theorem execEclipseFault_of_pass (hpass : (s.m.dev.entE e).pass = .eclipse) :
    execEclipseFault e s = liveDev (fun d => d.entFault e 4) s := by
  unfold execEclipseFault
  exact liveDev_congr (onlyIf_of_true (decide_eq_true hpass) ..)

variable (hl : s.Live)
include hl

theorem pxeParity_yields (hs : s.m.dev.Shape) (h : (s.m.dev.pix e).job = some r) :
    Yields (.pxeParity e) s [.seq, .stats, .commands, .events, .flt, .bbx, .link, .caps, .codec, .feat 0x11] (fun t =>
      (t.m.dev.pix e).job = none ∧ (t.m.dev.pix e).fault = some s.m.dev.clk ∧
      t.m.dev.reg 0x11 (0x40 * e + 0x10) = word (satAdd32 (s.m.dev.reg 0x11 (0x40 * e + 0x10)).toNat 1)) := by
  refine yields_of_liveDev hl (f := fun d => d.pixFault e 0) rfl (execPxeParity_framed e s) (by decide) ?_
  simp only [Dev.settle_pix, Dev.settle_reg]
  exact Dev.pixFault_resets hs h 0

theorem pixStall_yields (hs : s.m.dev.Shape) (h : (s.m.dev.pix e).job = some r) :
    Yields (.engineStall 0 e) s [.clk, .seq, .stats, .commands, .events, .flt, .bbx, .sid, .link, .caps, .codec, .feat 0x11,
        .feat 0x13] (fun t =>
      (t.m.dev.pix e).job = none ∧ t.m.dev.clk = s.m.dev.clk + 8000 ∧ (t.m.dev.pix e).fault = some (s.m.dev.clk + 8000) ∧
      t.m.dev.reg 0x11 (0x40 * e + 0x10) = word (satAdd32 (s.m.dev.reg 0x11 (0x40 * e + 0x10)).toNat 1)) := by
  refine yields_of_liveDev hl (execEngineStall_of_pix h) (execEngineStall_framed 0 e s) (by decide) ?_
  simp only [Dev.settle_pix, Dev.settle_reg, Dev.settle_clk]
  obtain ⟨hjob, hfault, hreg⟩ := Dev.pixFault_resets (d := s.m.dev.advance 8000) hs h 6
  exact ⟨hjob, Dev.pixFault_clk .., hfault, hreg⟩

theorem bqUncorrectable_yields (hs : s.m.dev.Shape) (h : (s.m.dev.entE e).job = some r)
    (hpass : (s.m.dev.entE e).pass = .measure ∨ (s.m.dev.entE e).pass = .code) (ce : Nat) :
    Yields (.bqUncorrectable e ce) s [.seq, .stats, .commands, .events, .flt, .bbx, .link, .caps, .codec, .feat 0x12, .feat 0x13]
      (fun t => (t.m.dev.entE e).job = none ∧ (t.m.dev.entE e).pass = .idle ∧ (t.m.dev.entE e).fault = some s.m.dev.clk ∧
        t.m.dev.reg 0x12 (0x20 * e + 0x08) = word (satAdd32 (s.m.dev.reg 0x12 (0x20 * e + 0x08)).toNat 1)) := by
  have htame := Dev.bqCorrected_tame (ps := setOf [.free, .seq, .stats, .commands, .events, .flt, .twk, .bbx, .link, .sent, .feat 0x12])
    (by decide) (.refl _ s.m.dev) e ce r
  have hent := Dev.entE_of_codec (htame.same .codec (by decide)) e
  refine yields_of_liveDev hl (execBqUncorrectable_of_pass h hpass ce) (execBqUncorrectable_framed e ce s) (by decide) ?_
  simp only [Dev.settle_entE, Dev.settle_reg]
  rw [← htame.same .clk (by decide), ← Dev.bqCorrected_reg s.m.dev e ce r]
  exact Dev.bqFault_resets (htame.shape hs) (by rw [hent]; exact h) (by rw [hent]; exact hpass)

theorem entParity_yields (hs : s.m.dev.Shape) (h : (s.m.dev.entE e).job = some r)
    (hpass : (s.m.dev.entE e).pass = .measure ∨ (s.m.dev.entE e).pass = .code) :
    Yields (.entParity e) s [.seq, .stats, .commands, .events, .flt, .bbx, .link, .caps, .codec, .feat 0x13] (fun t =>
      (t.m.dev.entE e).job = none ∧ (t.m.dev.entE e).pass = .idle ∧ (t.m.dev.entE e).fault = some s.m.dev.clk ∧
      t.m.dev.reg 0x13 (0x40 * e + 0x10) = word (satAdd32 (s.m.dev.reg 0x13 (0x40 * e + 0x10)).toNat 1)) := by
  refine yields_of_liveDev hl (execEntParity_of_pass hpass) (execEntParity_framed e s) (by decide) ?_
  simp only [Dev.settle_entE, Dev.settle_reg]
  exact Dev.entFault_resets hs h 3

theorem eclipseFault_yields (hs : s.m.dev.Shape) (h : (s.m.dev.entE e).job = some r) (hpass : (s.m.dev.entE e).pass = .eclipse) :
    Yields (.eclipseFault e) s [.seq, .stats, .commands, .events, .flt, .bbx, .link, .caps, .codec, .feat 0x13] (fun t =>
      (t.m.dev.entE e).job = none ∧ (t.m.dev.entE e).pass = .idle ∧ (t.m.dev.entE e).fault = some s.m.dev.clk) := by
  refine yields_of_liveDev hl (execEclipseFault_of_pass hpass) (execEclipseFault_framed e s) (by decide) ?_
  simp only [Dev.settle_entE]
  obtain ⟨hjob, hidle, hfault, -⟩ := Dev.entFault_resets hs h 4
  exact ⟨hjob, hidle, hfault⟩

theorem mirFault_yields (h : (s.m.dev.mirE e).job = some r) :
    Yields (.mirFault e) s [.seq, .stats, .commands, .events, .flt, .bbx, .link, .caps, .codec, .feat 0x13] (fun t =>
      (t.m.dev.mirE e).job = none ∧ (t.m.dev.mirE e).play = none ∧ (t.m.dev.mirE e).fault = some s.m.dev.clk) := by
  refine yields_of_liveDev hl (f := fun d => d.mirFault e 5) rfl (execMirFault_framed e s) (by decide) ?_
  simp only [Dev.settle_mirE]
  exact Dev.mirFault_resets h 5

theorem pixResetDone_yields {t0 : Nat} (h : (s.m.dev.pix e).fault = some t0) (dt : Nat) :
    Yields (.engineResetDone 0 e dt) s [.clk, .sid, .caps, .codec, .feat 0x16] (fun t =>
      (t.m.dev.pix e).fault = none ∧ t.m.dev.clk = max s.m.dev.clk (t0 + min dt 40000)) := by
  refine yields_of_liveDev hl (f := fun d => d.engineReset 0 e dt) rfl (execEngineResetDone_framed 0 e dt s) (by decide) ?_
  simp only [Dev.settle_pix, Dev.settle_clk]
  exact Dev.engineReset_pix h dt

theorem entResetDone_yields {t0 : Nat} (h : (s.m.dev.entE e).fault = some t0) (dt : Nat) :
    Yields (.engineResetDone 1 e dt) s [.clk, .sid, .caps, .codec, .feat 0x16] (fun t =>
      (t.m.dev.entE e).fault = none ∧ t.m.dev.clk = max s.m.dev.clk (t0 + min dt 40000)) := by
  refine yields_of_liveDev hl (f := fun d => d.engineReset 1 e dt) rfl (execEngineResetDone_framed 1 e dt s) (by decide) ?_
  simp only [Dev.settle_entE, Dev.settle_clk]
  exact Dev.engineReset_ent h dt

end

/-- Settles O42: a fault takes the work of its engine, begins its reset and is counted; the end of the reset takes the fault away. -/
theorem engineFaults : Obligations.EngineFaults := by
  intro s e r hl hs
  refine ⟨fun hjob => ⟨pxeParity_yields hl hs hjob, pixStall_yields hl hs hjob⟩, fun hjob => ⟨fun ce hpass => ?_, ?_⟩,
    mirFault_yields hl, fun dt t0 => ⟨?_, ?_⟩⟩
  · exact ⟨bqUncorrectable_yields hl hs hjob hpass ce, entParity_yields hl hs hjob hpass⟩
  · exact eclipseFault_yields hl hs hjob
  · exact fun hfault => pixResetDone_yields hl hfault dt
  · exact fun hfault => entResetDone_yields hl hfault dt

end Sys2Proof.Machine
end

section
/-! An attempt on a stream whose frames in work share a number: the band that the forecast sends to the eclipse path is taken for the
coded one of the other frame (R137, R138, R143). -/

namespace Sys2Proof.Machine
open Sys2Proof

/-- The two frames of `twoFramesFive`, when the switch instant of their tiles has passed: no forecast holds any more. -/
def lateFramesFive : State :=
  { m := { dev := { twoFramesFive.m.dev with sid := { und := 2 ^ 40 } } } }

/-- The start of the attempt sends the waiting band to the eclipse path, but mirror decoder 0 then finds the coded band of the second
frame and marks the band that the number names first. -/
theorem attemptStart_lateFramesFive :
    phaseAfter (.attemptStart 0) lateFramesFive { stream := 0, frame := 5, tile := 0, band := 0 } = some .verifying := by
  decide +kernel

/-- Refutes O39: its first clause does not ask that the frames in work have different numbers, and without a forecast the band need
not stay on the eclipse path. -/
theorem not_attempts : ¬ Obligations.Attempts := by
  intro h
  have hlive : lateFramesFive.Live := ⟨rfl, rfl⟩
  have hshape : lateFramesFive.m.dev.Shape := ⟨by decide, rfl, rfl, rfl, rfl, rfl, rfl⟩
  have hnext : lateFramesFive.m.dev.nextAttempt 0 = some { stream := 0, frame := 5, tile := 0, band := 0 } := by decide +kernel
  have hforecast : lateFramesFive.m.dev.forecast (frameFive .waiting) 0 0 = false := by decide +kernel
  obtain ⟨hstart, -⟩ := h lateFramesFive 0 hlive hshape
  obtain ⟨t, ht, hphase, -⟩ := hstart _ (frameFive .waiting) _ rfl rfl (by decide) hnext rfl rfl (by decide) rfl (by decide)
  rw [hforecast, if_neg Bool.false_ne_true, ← phaseAfter_of_next ht, attemptStart_lateFramesFive] at hphase
  exact absurd hphase.2 (by decide)

end Sys2Proof.Machine
end

section
/-! CAPTURE_ARM, CAPTURE_START_AT_TICK and CAPTURE_STOP_AT_TICK (R449 to R451). -/

namespace Sys2Proof.Machine
open Sys2Proof

/-! ### What a change outside a part leaves -/

/-- A change that leaves the captures leaves each of them. -/
theorem Dev.Tame.cap_eq {ps : Nat} {d e : Dev} (h : Dev.Tame ps d e) (hp : ps.testBit 42 = false) (st : Nat) : e.cap st = d.cap st := by
  have hcaps : e.caps = d.caps := h.same .caps hp
  unfold Dev.cap
  rw [hcaps]

/-- A change that leaves the commands leaves the list of those in flight. -/
theorem Dev.Tame.cmds_eq {ps : Nat} {d e : Dev} (h : Dev.Tame ps d e) (hp : ps.testBit 15 = false) : e.host.cmds = d.host.cmds :=
  have hcommands : Part.same .commands { dev := d } { dev := e } := h.same .commands hp
  hcommands.1

/-- A completion leaves the captures. -/
@[simp] theorem Mach.complete_cap (m : Mach) (c : Cmd) (status result : Nat) (e : ErrInfo) (st : Nat) :
    (m.complete c status result e).dev.cap st = m.dev.cap st :=
  (Mach.complete_tame_dev (ps := setOf [.seq, .commands, .errorLog]) (by decide) (.refl _ m.dev) c status result e).cap_eq (by decide) st

/-- A command that is left running leaves the captures. -/
@[simp] theorem Dev.keepRunning_cap (d : Dev) (c : Cmd) (st : Nat) : (d.keepRunning c).cap st = d.cap st :=
  (Dev.keepRunning_tame (ps := setOf [.commands]) (by decide) (.refl _ d) c).cap_eq (by decide) st

/-- The report of the count of active contexts leaves the captures. -/
@[simp] theorem Dev.sendState_cap (d : Dev) (st : Nat) : d.sendState.cap st = d.cap st :=
  (Dev.sendState_tame (ps := setOf [.stats, .link, .sent]) (by decide) (.refl _ d)).cap_eq (by decide) st

/-- Reserves that are made anew leave the captures. -/
@[simp] theorem Dev.reservePools_cap (d : Dev) (l : List (Nat × Cap)) (st : Nat) : (d.reservePools l).cap st = d.cap st :=
  (Dev.reservePools_tame (ps := setOf [.pools]) (by decide) (.refl _ d) l).cap_eq (by decide) st

/-- A change of the directory entry of an open clip leaves the captures. -/
@[simp] theorem Dev.onOpenClip_cap (d : Dev) (s : Nat) (f : Nat → Clip → Clip) (st : Nat) : (d.onOpenClip s f).cap st = d.cap st :=
  (Dev.onOpenClip_tame (ps := setOf [.mags]) (by decide) (.refl _ d) s f).cap_eq (by decide) st

/-- A change of a capture leaves the commands. -/
@[simp] theorem Dev.modCap_cmds (d : Dev) (s : Nat) (f : Cap → Cap) : (d.modCap s f).host.cmds = d.host.cmds :=
  (Dev.modCap_tame (ps := setOf [.caps]) (by decide) (.refl _ d) s f).cmds_eq (by decide)

/-! ### A command that goes on -/

/-- The first element that has a property, after it is changed to one that has it too. -/
theorem find?_modifyFirst_of_imp {α : Type} {p : α → Bool} {f : α → α} (h : ∀ x, p x = true → p (f x) = true) (l : List α) :
    (modifyFirst p f l).find? p = (l.find? p).map f := by
  induction l with
  | nil => rfl
  | cons x r ih =>
    unfold modifyFirst
    split
    next hx => simp only [List.find?_cons, h x hx, hx, Option.map_some]
    next hx => simp only [List.find?_cons, hx, ih]

/-- A command in flight that is left running is in flight still, past its start. -/
theorem Dev.cmd_keepRunning {d : Dev} {c k : Cmd} (h : d.cmd c.sq c.cid = some k) :
    (d.keepRunning c).cmd c.sq c.cid = some { k with phase := .running } := by
  have hfind := find?_modifyFirst_of_imp (f := fun x : Cmd => { x with phase := .running })
    (p := fun x => decide (x.sq = c.sq) && decide (x.cid = c.cid) && decide (x.phase ≠ .completing)) (by simp +contextual) d.host.cmds
  exact hfind.trans (congrArg _ h)

/-! ### Commands on a capture -/

/-- TARGET of a command names the frame context of a capture. -/
structure Mach.Captures (m : Mach) (c : Cmd) (x : Ctx) (cap : Cap) : Prop where
  ctx : m.dev.ctx c.target = some x
  kind : x.kind = .capture
  cap : m.dev.cap x.stream = some cap

/-- Such a command runs its meaning on the capture. -/
theorem onCapture_eq {m : Mach} {c : Cmd} {x : Ctx} {cap : Cap} (h : m.Captures c x cap) (f : Nat → Cap → Mach) :
    onCapture c m f = f x.stream cap := by
  unfold onCapture
  simp only [h.ctx, h.kind, h.cap]

section
variable {i : Instr} {s : State} {sq cid op : Nat} {c : Cmd} {x : Ctx} {cap : Cap} {f : Cmd → Mach → Nat → Cap → Mach} {ps : List Part}
  {P : State → Prop} {dp mp : Nat} (hr : s.Runs sq cid op c) (hx : s.m.Captures c x cap)
  (he : exec i s = live (runCmd sq cid op (fun c m => onCapture c m (f c m))) s) (hf : Framed dp mp s (exec i s))
  (hs : (dp ||| mp) ||| setOf (ps ++ settled) = setOf (ps ++ settled))
include hr hx he hf hs

/-- A command whose meaning on its capture is one completion of it ends so. -/
theorem yields_of_captureCompletes {m : Mach} {status result : Nat} {e : ErrInfo}
    (hm : f c s.m x.stream cap = m.complete c status result e) (hh : m.dev.host.cmds = s.m.dev.host.cmds)
    (hP : P (s.settledAt (m.complete c status result e))) :
    Yields i s ps (fun t => t.Ends sq cid status (result % 2 ^ 32) ∧ P t) := by
  refine yields_of_run hr he hf hs (fun hsq hcid => ?_)
  subst hsq hcid
  obtain ⟨-, hcmd, -⟩ := hr
  rw [onCapture_eq hx, hm]
  exact ⟨Mach.complete_ends ((Dev.cmd_of_cmds hh ..).trans hcmd), hP⟩

/-- A command whose meaning on its capture leaves it running goes on. -/
theorem yields_of_captureGoesOn {d : Dev} (hm : f c s.m x.stream cap = { s.m with dev := d.keepRunning c })
    (hh : d.host.cmds = s.m.dev.host.cmds) (hP : P (s.settledAt { s.m with dev := d.keepRunning c })) :
    Yields i s ps (fun t => t.GoesOn sq cid ∧ P t) := by
  refine yields_of_run hr he hf hs (fun hsq hcid => ?_)
  subst hsq hcid
  obtain ⟨-, hcmd, -⟩ := hr
  rw [onCapture_eq hx, hm]
  have hrun := Dev.cmd_keepRunning ((Dev.cmd_of_cmds hh ..).trans hcmd)
  exact ⟨⟨_, (Dev.settle_cmd ..).trans hrun, rfl⟩, hP⟩

end

/-! ### What the commands make of a capture -/

/-- Whether a capture is in the state that CAPTURE_ARM asks for (R449). -/
def Dev.armable (d : Dev) (cap : Cap) : Bool := cap.clip.isSome && !cap.hadRun && !cap.active && !cap.draining && d.portReady cap

/-- The device with a capture armed: its clip, what its admission reserves, and what the manager is told (R449, R537). -/
def Dev.arm (d : Dev) (st : Nat) (cap : Cap) : Dev :=
  (((d.onOpenClip st (fun _ x => d.clipFormat st cap x)).reservePools (d.withStream st cap)).modCap st
    (fun c => { c with run := .armed })).sendState

theorem Dev.arm_cap {d : Dev} {st : Nat} {cap : Cap} (h : d.cap st = some cap) : (d.arm st cap).cap st = some { cap with run := .armed } := by
  unfold Dev.arm
  rw [Dev.sendState_cap]
  exact Dev.cap_modCap_same (by simpa using h) _

theorem Dev.arm_cmds (d : Dev) (st : Nat) (cap : Cap) : (d.arm st cap).host.cmds = d.host.cmds := by
  refine Dev.Tame.cmds_eq (ps := setOf [.stats, .link, .pools, .caps, .mags, .sent]) ?_ (by decide)
  exact Dev.sendState_tame (by decide) (Dev.modCap_tame (by decide) (Dev.reservePools_tame (by decide)
    (Dev.onOpenClip_tame (by decide) (.refl _ d) ..) ..) ..)

theorem Dev.disarm_cap {d : Dev} {st : Nat} {cap : Cap} (h : d.cap st = some cap) :
    (d.disarm st).cap st = some { cap with run := .idle, start := none } := by
  unfold Dev.disarm Dev.reserveAgain
  rw [Dev.sendState_cap, Dev.reservePools_cap]
  exact Dev.cap_modCap_same h _

/-- The tick that CAPTURE_STOP_AT_TICK takes for tick `n`: itself where it is ahead, else the next (R451). -/
def Dev.stopTick (d : Dev) (n : Nat) : Nat := if 1 ≤ d.ticksTo n ∧ d.ticksTo n ≤ 2 ^ 31 then n else (d.tick.now + 1) % 2 ^ 32

section
variable {s : State} {sq cid : Nat} {c : Cmd} {x : Ctx} {cap : Cap} (hx : s.m.Captures c x cap)
include hx

/-! ### CAPTURE_ARM -/

theorem captureArm_admitted_yields (hr : s.Runs sq cid 0x48 c) (hp : s.m.dev.powerMoves = false)
    (ha : s.m.admission x.stream cap true (s.m.dev.armable cap) = none) :
    Yields (.captureArm sq cid) s [.seq, .stats, .commands, .errorLog, .admission, .link, .pools, .caps, .mags] (fun t =>
      t.Ends sq cid Status.ok 0 ∧ t.m.dev.cap x.stream = some { cap with run := .armed }) := by
  unfold Dev.armable at ha
  refine yields_of_captureCompletes hr hx rfl (execCaptureArm_framed sq cid s) (by decide)
    (m := { s.m with dev := s.m.dev.arm x.stream cap }) (result := 0) (e := {}) ?_ (s.m.dev.arm_cmds ..) ?_
  · simp only [hp, ha, Bool.false_eq_true, if_false]
    rfl
  · simp only [State.settledAt, Dev.settle_cap, Mach.complete_cap]
    exact Dev.arm_cap hx.cap

theorem captureArm_denied_yields {k n a : Nat} (hr : s.Runs sq cid 0x48 c) (hp : s.m.dev.powerMoves = false)
    (ha : s.m.admission x.stream cap true (s.m.dev.armable cap) = some (k, n, a)) :
    Yields (.captureArm sq cid) s [.seq, .stats, .commands, .errorLog, .admission, .link, .pools, .caps, .mags] (fun t =>
      t.Ends sq cid Status.admissionDenied 0 ∧ t.m.dev.caps = s.m.dev.caps ∧ t.m.dev.pools = s.m.dev.pools) := by
  unfold Dev.armable at ha
  refine yields_of_captureCompletes hr hx rfl (execCaptureArm_framed sq cid s) (by decide)
    (m := { s.m with dev := s.m.dev.noteDenied k x.stream n a }) (result := 0) (e := { needed := n, available := a }) ?_ rfl ?_
  · simp only [hp, ha, Bool.false_eq_true, if_false]
    rfl
  · have htame := Mach.deny_tame_dev (ps := setOf [.seq, .commands, .errorLog, .admission]) (by decide) (.refl _ s.m.dev) c k x.stream n a
    simp only [State.settledAt, Dev.settle_caps, Dev.settle_pools]
    exact ⟨htame.same .caps (by decide), htame.same .pools (by decide)⟩

/-! ### CAPTURE_START_AT_TICK -/

theorem captureStart_ahead_yields (hr : s.Runs sq cid 0x49 c) (hrun : cap.run = .armed) (hstart : cap.start = none)
    (hb : bit (c.dw 1) 1 = false) (ha : s.m.dev.isAhead (c.dw 0) (unitsOfNs 100000) = true) :
    Yields (.captureStartAtTick sq cid) s [.seq, .stats, .commands, .errorLog, .admission, .link, .caps] (fun t =>
      t.GoesOn sq cid ∧ t.m.dev.cap x.stream = some { cap with start := some (c.dw 0, sq, cid) }) := by
  refine yields_of_captureGoesOn hr hx rfl (execCaptureStartAtTick_framed sq cid s) (by decide)
    (d := s.m.dev.modCap x.stream (fun y => { y with start := some (c.dw 0, sq, cid) })) ?_ (Dev.modCap_cmds ..) ?_
  · simp [hrun, hstart, hb, ha]
  · simp only [State.settledAt, Dev.settle_cap, Dev.keepRunning_cap]
    exact Dev.cap_modCap_same hx.cap _

theorem captureStart_late_yields (hr : s.Runs sq cid 0x49 c) (hrun : cap.run = .armed) (hstart : cap.start = none)
    (hb : bit (c.dw 1) 1 = false) (ha : s.m.dev.isAhead (c.dw 0) (unitsOfNs 100000) = false) (hl : bit (c.dw 1) 0 = false) :
    Yields (.captureStartAtTick sq cid) s [.seq, .stats, .commands, .errorLog, .admission, .link, .caps] (fun t =>
      t.Ends sq cid Status.invalidField (s.m.dev.tick.now % 2 ^ 32) ∧ t.m.dev.caps = s.m.dev.caps) := by
  refine yields_of_captureCompletes hr hx rfl (execCaptureStartAtTick_framed sq cid s) (by decide)
    (m := s.m) (e := { field := 32 }) ?_ rfl ?_
  · simp [hrun, hstart, hb, ha, hl]
  · have htame := Mach.complete_tame_dev (ps := setOf [.seq, .commands, .errorLog]) (by decide) (.refl _ s.m.dev) c
      Status.invalidField s.m.dev.tick.now { field := 32 }
    simp only [State.settledAt, Dev.settle_caps]
    exact htame.same .caps (by decide)

/-! ### CAPTURE_STOP_AT_TICK -/

theorem captureStop_armed_yields (hr : s.Runs sq cid 0x4A c) (hstop : cap.stop = none) (hrun : cap.run = .armed)
    (hstart : cap.start = none) :
    Yields (.captureStopAtTick sq cid) s [.seq, .stats, .commands, .errorLog, .admission, .link, .pools, .caps] (fun t =>
      t.Ends sq cid Status.ok 0xFFFFFFFF ∧ t.m.dev.cap x.stream = some { cap with run := .idle, start := none }) := by
  refine yields_of_captureCompletes hr hx rfl (execCaptureStopAtTick_framed sq cid s) (by decide)
    (m := { s.m with dev := s.m.dev.disarm x.stream }) (result := 0xFFFFFFFF) (e := {}) ?_ ?_ ?_
  · simp only [hstop, hrun, hstart, Option.isSome_none, Bool.false_eq_true, if_false]
  · exact (Dev.disarm_tame (ps := setOf [.stats, .link, .pools, .caps, .sent]) (by decide) (.refl _ s.m.dev) x.stream).cmds_eq (by decide)
  · simp only [State.settledAt, Dev.settle_cap, Mach.complete_cap]
    exact Dev.disarm_cap hx.cap

theorem captureStop_running_yields (hr : s.Runs sq cid 0x4A c) (hstop : cap.stop = none) (hrun : cap.run = .running)
    (hd : cap.draining = false) :
    Yields (.captureStopAtTick sq cid) s [.seq, .stats, .commands, .errorLog, .admission, .link, .pools, .caps] (fun t =>
      t.GoesOn sq cid ∧ t.m.dev.cap x.stream = some { cap with stop := some (s.m.dev.stopTick (c.dw 0), sq, cid) }) := by
  refine yields_of_captureGoesOn hr hx rfl (execCaptureStopAtTick_framed sq cid s) (by decide)
    (d := s.m.dev.modCap x.stream (fun y => { y with stop := some (s.m.dev.stopTick (c.dw 0), sq, cid) })) ?_ (Dev.modCap_cmds ..) ?_
  · simp only [hstop, hrun, hd, Option.isSome_none, Bool.false_eq_true, if_false]
    rfl
  · simp only [State.settledAt, Dev.settle_cap, Dev.keepRunning_cap]
    exact Dev.cap_modCap_same hx.cap _

end

end Sys2Proof.Machine
end

section
/-! START and START_ACK (R538): a worker takes a broadcast start on its armed contexts, and the manager keeps the answers. -/

namespace Sys2Proof.Machine
open Sys2Proof

/-! ### Messages that are sent leave those that have come -/

@[simp] theorem Dev.onPort_inbox (d : Dev) (p : Nat) (f : LinkPort → LinkPort) : (d.onPort p f).link.inbox = d.link.inbox := rfl

@[simp] theorem Dev.countMax_inbox (d : Dev) (off v : Nat) : (d.countMax off v).link.inbox = d.link.inbox := by
  unfold Dev.countMax
  split <;> rfl

@[simp] theorem Dev.sendFlit_inbox (d : Dev) (p : Nat) (f : Flit) : (d.sendFlit p f).link.inbox = d.link.inbox := by
  unfold Dev.sendFlit
  rw [Dev.countMax_inbox]
  split
  · rfl
  · split <;> rfl

@[simp] theorem Dev.noteCredit_inbox (d : Dev) (p : Nat) : (d.noteCredit p).link.inbox = d.link.inbox := by
  unfold Dev.noteCredit
  dsimp only
  split <;> split <;> rfl

@[simp] theorem Dev.pumpLink_inbox (d : Dev) (p k : Nat) : (d.pumpLink p k).link.inbox = d.link.inbox := by
  induction k generalizing d with
  | zero => exact d.noteCredit_inbox p
  | succ k ih =>
    unfold Dev.pumpLink
    split
    · split
      · rw [ih, Dev.sendFlit_inbox, Dev.onPort_inbox]
      · exact d.noteCredit_inbox p
    · exact d.noteCredit_inbox p

@[simp] theorem Dev.sendMsg_inbox (d : Dev) (dest code : Nat) (body : List Byte) :
    (d.sendMsg dest code body).link.inbox = d.link.inbox := by
  unfold Dev.sendMsg Dev.queueMsg
  split
  · split
    · rfl
    · rw [Dev.pumpLink_inbox, Dev.onPort_inbox]
  · rfl

@[simp] theorem Dev.sendMsg_cap (d : Dev) (dest code : Nat) (body : List Byte) (st : Nat) :
    (d.sendMsg dest code body).cap st = d.cap st :=
  (Dev.sendMsg_tame (ps := setOf [.stats, .link, .sent]) (by decide) (.refl _ d) dest code body).cap_eq (by decide) st

/-! ### A message that is taken -/

/-- The device without a message that it has taken from its inbox. -/
def Dev.withMail (d : Dev) (r : List LinkMsg) : Dev := d.onLink (fun l => { l with inbox := r })

/-- A message that waits is acted on. -/
theorem onMsg_eq {p code : Nat} {d : Dev} {g : LinkMsg} {r : List LinkMsg} (h : takeMsg p code d.link.inbox = some (g, r))
    (f : LinkMsg → Dev → Dev) : onMsg p code f d = f g (d.withMail r) := by
  unfold onMsg
  rw [h]
  rfl

/-! ### Captures that a list names -/

/-- A change made to each capture that a list names, which made twice is made once. -/
theorem Dev.cap_foldl_modCap {f : Cap → Cap} (hf : ∀ c, f (f c) = f c) {l : List Nat} {d : Dev} {st : Nat} {c : Cap}
    (h : d.cap st = some c) : (l.foldl (fun d s => d.modCap s f) d).cap st = some (if st ∈ l then f c else c) := by
  induction l generalizing d c with
  | nil => simpa using h
  | cons s r ih =>
    rw [List.foldl_cons]
    by_cases hs : s = st
    · subst hs
      rw [ih (Dev.cap_modCap_same h f)]
      simp [hf]
    · rw [ih ((d.cap_modCap_of_ne hs f).trans h)]
      simp [Ne.symm hs]

/-! ### START -/

/-- The streams that wait, armed, for a start. -/
def Dev.waiting (d : Dev) : List Nat :=
  (d.streams.filter (fun e => decide (e.2.run = .armed) && e.2.start.isNone)).map Prod.fst

/-- A capture waits so when it is armed and has no start. -/
theorem Dev.mem_waiting {d : Dev} (hw : Tbl.wf (fun _ => none) d.caps = true) {st : Nat} {c : Cap} (h : d.cap st = some c) :
    st ∈ d.waiting ↔ c.run = .armed ∧ c.start = none := by
  simp only [Dev.waiting, List.mem_map, List.mem_filter, Bool.and_eq_true, decide_eq_true_eq, Option.isNone_iff_eq_none]
  constructor
  · rintro ⟨e, ⟨hmem, harmed⟩, rfl⟩
    obtain rfl : e.2 = c := Option.some.inj ((Dev.cap_of_mem_streams hw hmem).symm.trans h)
    exact harmed
  · exact fun harmed => ⟨(st, c), ⟨Dev.mem_streams_of_cap h, harmed⟩, rfl⟩

/-- A broadcast start at tick `n` is taken on the streams that wait, if its tick is far enough ahead (R538). -/
def Dev.startWaiting (d : Dev) (n : Nat) : Dev :=
  if d.isAhead n (unitsOfNs 100000) then
    d.waiting.foldl (fun d s => d.modCap s (fun c => { c with start := some (n, noQueue, 0) })) d
  else d

theorem Dev.startWaiting_cap {d : Dev} (hw : Tbl.wf (fun _ => none) d.caps = true) {st : Nat} {c : Cap} (h : d.cap st = some c)
    (n : Nat) : (d.startWaiting n).cap st = some (if d.isAhead n (unitsOfNs 100000) = true ∧ c.run = .armed ∧ c.start = none
      then { c with start := some (n, noQueue, 0) } else c) := by
  unfold Dev.startWaiting
  split
  next ha =>
    rw [Dev.cap_foldl_modCap (f := fun c => { c with start := some (n, noQueue, 0) }) (fun _ => rfl) h]
    simp only [Dev.mem_waiting hw h, ha, true_and]
  next ha => simp only [h, ha, Bool.false_eq_true, false_and, if_false]

theorem Dev.startWaiting_link (d : Dev) (n : Nat) : (d.startWaiting n).link = d.link := by
  refine Dev.Tame.same (ps := setOf [.caps]) ?_ .link (by decide)
  exact Dev.tame_ite (Dev.tame_foldl (.refl _ d) (fun _ _ h => Dev.modCap_tame (by decide) h ..)) (.refl _ d)

section
variable {s : State} {p : Nat} {g : LinkMsg} {r : List LinkMsg} (hl : s.Live)

/-- A worker takes the start, and answers the manager. -/
theorem execStart_of_worker (hg : takeMsg p 8 s.m.dev.link.inbox = some (g, r)) (hrole : s.m.dev.boot.role = 2)
    (he : s.m.dev.link.enumerated = true) :
    ∃ body, execStart p s = liveDev (fun d => ((d.withMail r).startWaiting (rd g.body 0 4)).sendMsg 0 9 body) s := by
  unfold execStart liveDev
  refine ⟨?body, live_congr (congrArg (Mach.mk · s.m.mem) ?sent)⟩
  case sent =>
    rw [onMsg_eq hg, if_neg (by simp [Dev.withMail, hrole, he])]
    dsimp only [Dev.startWaiting, Dev.waiting]
    rw [List.foldl_map]

include hl

theorem start_yields (hw : Tbl.wf (fun _ => none) s.m.dev.caps = true) (hg : takeMsg p 8 s.m.dev.link.inbox = some (g, r))
    (hrole : s.m.dev.boot.role = 2) (he : s.m.dev.link.enumerated = true) {n : Nat}
    (hn : n = rd g.body 0 4) :
    Yields (.start p) s [.stats, .link, .caps] (fun t => t.m.dev.link.inbox = r ∧ ∀ st cap, s.m.dev.cap st = some cap →
      t.m.dev.cap st = some (if s.m.dev.isAhead n (unitsOfNs 100000) = true ∧ cap.run = .armed ∧ cap.start = none
        then { cap with start := some (n, noQueue, 0) } else cap)) := by
  subst hn
  obtain ⟨body, hexec⟩ := execStart_of_worker hg hrole he
  refine yields_of_liveDev hl hexec (execStart_framed p s) (by decide) ?_
  simp only [Dev.settle_link, Dev.settle_cap, Dev.sendMsg_inbox, Dev.sendMsg_cap, Dev.startWaiting_link]
  exact ⟨rfl, fun st cap hc => Dev.startWaiting_cap (d := s.m.dev.withMail r) hw hc _⟩

/-! ### START_ACK -/

theorem startAck_yields (hg : takeMsg p 9 s.m.dev.link.inbox = some (g, r)) (hrole : s.m.dev.boot.role = 1) :
    Yields (.startAck p) s [.link] (fun t => t.m.dev.link.inbox = r ∧ t.m.dev.link.bcast = s.m.dev.link.bcast.map (fun b =>
      if b.token = rd g.body 0 2 ∧ g.at_ + unitsOfNs 100000 ≤ s.m.dev.tickInstant (s.m.dev.ticksTo b.n)
      then { b with acks := b.acks ++ [(g.src, rd g.body 3 2)] } else b)) := by
  refine yields_of_liveDev hl rfl (execStartAck_framed p s) (by decide) ?_
  rw [onMsg_eq hg, if_neg (by simp [Dev.withMail, hrole])]
  simp only [Dev.settle_link]
  exact ⟨rfl, rfl⟩

end

end Sys2Proof.Machine
end

section
/-! CAPACITY_RECOMPUTE (R174, R175, R267, R268): where demand exceeds the rate of a magazine, streams move to their fallback budget and
drop frames. -/

namespace Sys2Proof.Machine
open Sys2Proof

/-! ### What a loss of capacity does to a capture -/

/-- A capture drops no fewer frames than before, and has moved as before or moves now, for the first time and to a budget that it
has (R175, R268). -/
def Dev.CapSheds (d : Dev) (st : Nat) (c y : Cap) : Prop :=
  c.dropJ ≤ y.dropJ ∧ (y.moved = c.moved ∨ c.moved = none ∧ d.fallbackBudget st ≠ 0 ∧ y.moved = some d.nextTick)

/-- Every capture of one device sheds load in the other; the budgets and the next tick are as they were. -/
structure Dev.Sheds (d e : Dev) : Prop where
  tame : Dev.Tame (setOf [.seq, .commands, .events, .bbx, .caps]) d e
  cap : ∀ st c, d.cap st = some c → ∃ y, e.cap st = some y ∧ d.CapSheds st c y

namespace Dev.Sheds

variable {a b c d : Dev}

theorem fallbackBudget_eq (h : a.Sheds b) (st : Nat) : b.fallbackBudget st = a.fallbackBudget st :=
  congrArg BitVec.toNat (h.tame.same (.feat 0x15) (by decide) _)

theorem nextTick_eq (h : a.Sheds b) : b.nextTick = a.nextTick := by
  have htick : b.tick = a.tick := h.tame.same .tick (by decide)
  unfold Dev.nextTick
  rw [htick]

theorem refl (d : Dev) : d.Sheds d := ⟨.refl _ d, fun _ c hc => ⟨c, hc, Nat.le_refl _, .inl rfl⟩⟩

theorem trans (h : a.Sheds b) (k : b.Sheds c) : a.Sheds c := by
  refine ⟨h.tame.trans k.tame, fun st x hx => ?_⟩
  obtain ⟨y, hy, hdrop, hmove⟩ := h.cap st x hx
  obtain ⟨z, hz, hdrop', hmove'⟩ := k.cap st y hy
  rw [h.fallbackBudget_eq, h.nextTick_eq] at hmove'
  refine ⟨z, hz, Nat.le_trans hdrop hdrop', ?_⟩
  rcases hmove' with hsame | ⟨hnone, hnow⟩
  · rwa [hsame]
  · rcases hmove with hsame | ⟨-, -, hmoved⟩
    · exact .inr ⟨hsame ▸ hnone, hnow⟩
    · exact absurd (hmoved.symm.trans hnone) (Option.some_ne_none _)

/-- A run of steps each of which sheds. -/
theorem foldl {β : Type} {f : Dev → β → Dev} (hf : ∀ x y, Dev.Sheds x (f x y)) (l : List β) (d : Dev) : d.Sheds (l.foldl f d) := by
  induction l generalizing d with
  | nil => exact .refl d
  | cons y r ih => exact (hf d y).trans (ih (f d y))

end Dev.Sheds

/-! ### The steps of R174 -/

/-- A stream that has not moved and has a fallback budget moves from the next tick on. -/
theorem Dev.moveStream_sheds (d : Dev) (s : Nat) : d.Sheds (d.moveStream s) := by
  refine ⟨Dev.moveStream_tame (by decide) (.refl _ d) s, fun st c hc => ?_⟩
  unfold Dev.moveStream
  split
  next => exact (Dev.Sheds.refl d).cap st c hc
  next x hx =>
    split
    next => exact (Dev.Sheds.refl d).cap st c hc
    next hmay =>
      obtain ⟨hmoved, hbudget⟩ : x.moved = none ∧ d.fallbackBudget s ≠ 0 := by simpa using hmay
      have hcap (e : Dev) (n : Nat) (data : List Byte) : ((e.postEvent 0x04 1 s).record .main 8 0xFF s n data).cap st = e.cap st :=
        (Dev.record_tame (ps := setOf [.seq, .commands, .events, .bbx]) (by decide)
          (Dev.postEvent_tame (by decide) (.refl _ e) 0x04 1 s) .main 8 0xFF s n data).cap_eq (by decide) st
      rw [hcap]
      by_cases hs : s = st
      · subst hs
        obtain rfl : x = c := Option.some.inj (hx.symm.trans hc)
        exact ⟨_, Dev.cap_setCap_some .., Nat.le_refl _, .inr ⟨hmoved, hbudget, rfl⟩⟩
      · exact ⟨c, (d.cap_setCap_of_ne hs _).trans hc, Nat.le_refl _, .inl rfl⟩

/-- Frames to drop are only added. -/
theorem Dev.dropStreams_sheds (d : Dev) (l : List Nat) (j : Nat) : d.Sheds (d.dropStreams l j) := by
  refine ⟨Dev.dropStreams_tame (by decide) (.refl _ d) l j, fun st c hc => ?_⟩
  refine ⟨_, Dev.cap_foldl_modCap (f := fun c => { c with dropJ := max c.dropJ j }) (fun c => by simp) hc, ?_⟩
  split
  · exact ⟨Nat.le_max_left .., .inl rfl⟩
  · exact ⟨Nat.le_refl _, .inl rfl⟩

/-- The level of a magazine on which demand fits is left. -/
theorem Mach.easeLevel_of_fits {m : Mach} {p : Nat} (h : m.fits p = true) (level : Nat) : m.easeLevel p level = m := if_pos (.inl h)

theorem Mach.easeLevel_sheds (m : Mach) (p level : Nat) : m.dev.Sheds (m.easeLevel p level).dev := by
  unfold Mach.easeLevel
  dsimp only
  split
  · exact .refl m.dev
  · have hmove := Dev.Sheds.foldl Dev.moveStream_sheds (m.dev.levelStreams p level) m.dev
    split
    · exact hmove
    · split <;> exact hmove.trans (Dev.dropStreams_sheds ..)

/-! ### The recomputation -/

/-- R174 applied to one magazine, level by level. -/
def Mach.easePort (m : Mach) (p : Nat) : Mach :=
  if (m.dev.mag p).mounted then (List.range 16).foldl (fun m level => m.easeLevel p level) m else m

theorem Mach.easePort_sheds (m : Mach) (p : Nat) : m.dev.Sheds (m.easePort p).dev := by
  unfold Mach.easePort
  split
  · refine List.foldlRecOn (motive := fun n : Mach => m.dev.Sheds n.dev) _ _ (.refl m.dev) (fun n hn level _ => ?_)
    exact hn.trans (n.easeLevel_sheds p level)
  · exact .refl m.dev

/-- A magazine on which demand fits is left. -/
theorem Mach.easePort_of_fits {m : Mach} {p : Nat} (h : (m.dev.mag p).mounted = true → m.fits p = true) : m.easePort p = m := by
  unfold Mach.easePort
  split
  next hm => exact List.foldl_fixed' (m.easeLevel_of_fits (h hm)) _
  next => rfl

theorem execCapacityRecompute_eq (s : State) :
    execCapacityRecompute s = live (fun m => (m.easePort 0).easePort 1) s := rfl

theorem capacityRecompute_yields {s : State} (hl : s.Live) :
    Yields .capacityRecompute s [.seq, .commands, .events, .bbx, .caps] (fun t =>
      (∀ st cap, s.m.dev.cap st = some cap → ∃ y, t.m.dev.cap st = some y ∧ s.m.dev.CapSheds st cap y) ∧
      ((∀ q, q < 2 → (s.m.dev.mag q).mounted = true → s.m.fits q = true) → t.m.dev.caps = s.m.dev.caps)) := by
  refine yields_of_live hl (execCapacityRecompute_eq s) (execCapacityRecompute_framed s) (by decide) ?_
  simp only [Dev.settle_cap, Dev.settle_caps]
  refine ⟨((s.m.easePort_sheds 0).trans (Mach.easePort_sheds _ 1)).cap, fun hfits => ?_⟩
  rw [Mach.easePort_of_fits (hfits 0 (by decide)), Mach.easePort_of_fits (hfits 1 (by decide))]

/-- Settles O50: a capture command by what it makes of its capture, a message of a broadcast start by what the device takes from
it, and the recomputation as a run of steps that only shed load. -/
theorem captureRunsAndCapacity : Obligations.CaptureRunsAndCapacity := by
  refine ⟨fun s sq cid c x cap _ hctx hkind hcap => ?_, fun s p hl hw => ⟨fun g r n => ?_, fun g r => ?_, ?_⟩⟩
  · have hx : s.m.Captures c x cap := ⟨hctx, hkind, hcap⟩
    refine ⟨fun hr hp => ?_, fun hr hrun hstart hb => ⟨?_, ?_⟩, fun hr hstop => ⟨?_, ?_⟩⟩
    · cases ha : s.m.admission x.stream cap true
          (cap.clip.isSome && !cap.hadRun && !cap.active && !cap.draining && s.m.dev.portReady cap) with
      | none => exact captureArm_admitted_yields hx hr hp ha
      | some short => exact captureArm_denied_yields hx hr hp ha
    · exact captureStart_ahead_yields hx hr hrun hstart hb
    · exact captureStart_late_yields hx hr hrun hstart hb
    · exact captureStop_armed_yields hx hr hstop
    · rintro n hrun hd rfl
      exact captureStop_running_yields hx hr hstop hrun hd
  · exact fun hg hrole he hn => start_yields hl hw hg hrole he hn
  · exact startAck_yields hl
  · exact capacityRecompute_yields hl

end Sys2Proof.Machine
end

section
/-! MULTICAST_DELIVER (R279 to R281): one destination of the oldest unit that waits for it takes or drops its copy. -/

namespace Sys2Proof.Machine
open Sys2Proof

/-- Whether a unit waits for destination `k`. -/
def Delivery.waitsFor (k : Nat) (v : Delivery) : Bool := v.dests.any (fun x => decide (x.code = k))

/-- The units in delivery once destination `x` has ended for `v`, the first of those that wait for destination `k`. -/
def endCopy (k : Nat) (v : Delivery) (x : ProxyDest) (l : List Delivery) : List Delivery :=
  (modifyFirst (Delivery.waitsFor k) (fun _ => { v with dests := v.dests.erase x }) l).filter (fun v => !v.dests.isEmpty)

/-- The device once destination `x` needs its copy of unit `v` no more: the buffers count one reader less, and the unit goes with its
last destination (R279). -/
def Dev.copyEnded (d : Dev) (k : Nat) (v : Delivery) (x : ProxyDest) : Dev :=
  (v.bufs.foldl (fun d i => d.copyDone v.pool i) d).onProxy (fun p => { p with deliveries := endCopy k v x p.deliveries })

/-- The device after a destination took its copy, or dropped it for `reason` (R281). -/
def Dev.copyCounted (d : Dev) (reason out : Nat) : Dev := if reason = 0 then d else d.outDropped out

/-- The machine after destination `x` took or dropped its copy of unit `v`. -/
def Mach.copyDelivered (m : Mach) (k : Nat) (v : Delivery) (x : ProxyDest) : Mach :=
  { (m.deliver v x).2 with dev := ((m.deliver v x).2.dev.copyEnded k v x).copyCounted (m.deliver v x).1 v.out }

@[simp] theorem Dev.outDropped_deliveries (d : Dev) (o : Nat) : (d.outDropped o).proxy.deliveries = d.proxy.deliveries := by
  unfold Dev.outDropped
  split <;> rfl

/-- PRX_DROP_CNT of an HEVC output counts the copies dropped (R220, R281). -/
theorem Dev.outDropped_reg {d : Dev} (h : d.Shape) {o : Nat} (ho : o < 2) :
    (d.outDropped o).reg 0x17 (outBase o + 0x28) = word (satAdd32 (d.reg 0x17 (outBase o + 0x28)).toNat 1) := by
  unfold Dev.outDropped
  rw [if_pos ho]
  exact Dev.reg_bump (Dev.Tame.shape (Dev.onOut_tame (ps := setOf [.proxy]) (by decide) (.refl _ d) ..) h) ..

@[simp] theorem Dev.copyCounted_deliveries (d : Dev) (reason o : Nat) :
    (d.copyCounted reason o).proxy.deliveries = d.proxy.deliveries := by
  unfold Dev.copyCounted
  split
  · rfl
  · exact d.outDropped_deliveries o

theorem Dev.copyCounted_reg {d : Dev} (h : d.Shape) (reason : Nat) {o : Nat} (ho : o < 2) :
    (d.copyCounted reason o).reg 0x17 (outBase o + 0x28) = if reason = 0 then d.reg 0x17 (outBase o + 0x28)
      else word (satAdd32 (d.reg 0x17 (outBase o + 0x28)).toNat 1) := by
  unfold Dev.copyCounted
  split
  · rfl
  · exact Dev.outDropped_reg h ho

theorem Dev.foldl_copyDone_tame {ps : Nat} {B d : Dev} (hsub : setOf [.pools] ||| ps = ps) (h : Dev.Tame ps B d) (p : Nat) (l : List Nat) :
    Dev.Tame ps B (l.foldl (fun d i => d.copyDone p i) d) :=
  Dev.tame_foldl h (fun _ _ g => Dev.copyDone_tame hsub g ..)

section
variable {m : Mach} {k : Nat} {v : Delivery} {x : ProxyDest}

/-- A delivery that ends touches the destination, the buffers and the proxy path alone. -/
theorem Mach.copyEnded_tame :
    Dev.Tame (setOf [.stats, .cqs, .msix, .eth, .pools, .proxy, .mags, .sent, .feat 0x1D]) m.dev ((m.deliver v x).2.dev.copyEnded k v x) :=
  Dev.onProxy_tame (by decide) (Dev.foldl_copyDone_tame (by decide) (Mach.deliver_tame_dev (by decide) (.refl _ _) ..) ..) _

theorem Mach.copyEnded_deliveries : ((m.deliver v x).2.dev.copyEnded k v x).proxy.deliveries = endCopy k v x m.dev.proxy.deliveries := by
  have htame : Dev.Tame (setOf [.stats, .cqs, .msix, .eth, .pools, .mags, .sent, .feat 0x1D]) m.dev
      (v.bufs.foldl (fun d i => d.copyDone v.pool i) (m.deliver v x).2.dev) :=
    Dev.foldl_copyDone_tame (by decide) (Mach.deliver_tame_dev (by decide) (.refl _ _) ..) ..
  have hproxy : (v.bufs.foldl (fun d i => d.copyDone v.pool i) (m.deliver v x).2.dev).proxy = m.dev.proxy :=
    htame.same .proxy (by decide)
  unfold Dev.copyEnded
  rw [(Dev.onProxy_fields _ _).1, hproxy]

theorem execMulticastDeliver_of_waiting {s : State} (hv : s.m.dev.proxy.deliveries.find? (Delivery.waitsFor k) = some v)
    (hx : v.dests.find? (fun x => decide (x.code = k)) = some x) (hheld : s.m.dev.destHeld v k = false) :
    execMulticastDeliver k s = live (fun m => m.copyDelivered k v x) s := by
  unfold Delivery.waitsFor at hv
  refine live_congr ?_
  simp only [hv, hx, hheld, Bool.false_eq_true, if_false]
  rfl

theorem multicastDeliver_yields {s : State} (hl : s.Live) (hs : s.m.dev.Shape)
    (hv : s.m.dev.proxy.deliveries.find? (Delivery.waitsFor k) = some v) (hx : v.dests.find? (fun x => decide (x.code = k)) = some x)
    (hheld : s.m.dev.destHeld v k = false) :
    Yields (.multicastDeliver k) s [.stats, .cqs, .eth, .pools, .proxy, .mags, .hostMem, .carriers, .feat 0x17, .feat 0x1D] (fun t =>
      t.m.mem = (s.m.deliver v x).2.mem ∧
      t.m.dev.proxy.deliveries = endCopy k v x s.m.dev.proxy.deliveries ∧
      (v.out < 2 → t.m.dev.reg 0x17 (outBase v.out + 0x28) = (if (s.m.deliver v x).1 = 0 then s.m.dev.reg 0x17 (outBase v.out + 0x28)
        else word (satAdd32 (s.m.dev.reg 0x17 (outBase v.out + 0x28)).toNat 1)))) := by
  refine yields_of_live hl (execMulticastDeliver_of_waiting hv hx hheld) (execMulticastDeliver_framed k s) (by decide)
    ⟨rfl, ?_, fun ho => ?_⟩
  · rw [Dev.settle_proxy]
    exact (Dev.copyCounted_deliveries ..).trans Mach.copyEnded_deliveries
  · have htame := Mach.copyEnded_tame (m := s.m) (k := k) (v := v) (x := x)
    rw [Dev.settle_reg]
    exact (Dev.copyCounted_reg (htame.shape hs) _ ho).trans (by rw [htame.reg_eq (by decide) (by decide)])

end

end Sys2Proof.Machine
end

section
/-! PLAYBACK_DECODE and PLAYBACK_BAND (R186 to R203, R457): a playback begins, and goes on band by band. -/

namespace Sys2Proof.Machine
open Sys2Proof

/-! ### The playback of a command -/

/-- The last element is the one changed where it alone has the property. -/
theorem modifyFirst_append_singleton {α : Type} {p : α → Bool} {l : List α} {x : α} (hl : ∀ y ∈ l, p y = false) (hx : p x = true)
    (f : α → α) : modifyFirst p f (l ++ [x]) = l ++ [f x] := by
  induction l with
  | nil => simp [modifyFirst, hx]
  | cons y r ih =>
    have hy : p y = false := hl y (List.mem_cons_self ..)
    simp [modifyFirst, hy, ih (fun z hz => hl z (List.mem_cons_of_mem _ hz))]

/-- Whether a playback is the one of the command that `sq` and `cid` name. -/
def Play.isOf (sq cid : Nat) (p : Play) : Bool := decide (p.sq = sq ∧ p.cid = cid)

theorem Play.isOf_self (p : Play) : Play.isOf p.sq p.cid p = true := decide_eq_true ⟨rfl, rfl⟩

theorem Play.isOf_eq_false {p : Play} {sq cid : Nat} (h : p.sq ≠ sq ∨ p.cid ≠ cid) : Play.isOf sq cid p = false :=
  decide_eq_false (fun ⟨hsq, hcid⟩ => h.elim (absurd hsq) (absurd hcid))

/-- Playbacks of different commands are told apart by their commands. -/
theorem find?_isOf_of_mem {l : List Play} {pl : Play} (hl : l.Pairwise (fun a b => a.sq ≠ b.sq ∨ a.cid ≠ b.cid)) (h : pl ∈ l) :
    l.find? (Play.isOf pl.sq pl.cid) = some pl := by
  induction l with
  | nil => exact absurd h List.not_mem_nil
  | cons y r ih =>
    obtain ⟨hy, hr⟩ := List.pairwise_cons.1 hl
    rcases List.mem_cons.1 h with rfl | hmem
    · exact List.find?_cons_of_pos pl.isOf_self
    · rw [List.find?_cons_of_neg (by simp [Play.isOf_eq_false (hy pl hmem)])]
      exact ih hr hmem

/-- The queue and the CID that a command runs under are its own. -/
theorem State.Runs.key {s : State} {sq cid op : Nat} {c : Cmd} (h : s.Runs sq cid op c) : c.sq = sq ∧ c.cid = cid := by
  obtain ⟨-, hcmd, -⟩ := h
  obtain ⟨hsq, hcid, -⟩ := Dev.cmd_key hcmd
  exact ⟨hsq, hcid⟩

/-! ### What the steps of a playback leave -/

/-- Decoders that take playback bands keep what does not speak of a decoder. -/
theorem Dev.playPump_keeps {γ : Type} {g : Dev → γ} (h : ∀ d e f, g (Dev.onMir d e f) = g d) (d : Dev) : g d.playPump = g d := by
  refine foldl_keeps (fun x e _ => ?_) d
  split
  · split
    · exact h ..
    · rfl
  · rfl

@[simp] theorem Dev.playPump_plays (d : Dev) : d.playPump.codec.plays = d.codec.plays :=
  Dev.playPump_keeps (g := fun d => d.codec.plays) (fun _ _ _ => rfl) d

@[simp] theorem Dev.playPump_host (d : Dev) : d.playPump.host = d.host :=
  Dev.playPump_keeps (g := fun d => d.host) (fun _ _ _ => rfl) d

@[simp] theorem Dev.playPump_clk (d : Dev) : d.playPump.clk = d.clk :=
  Dev.playPump_keeps (g := fun d => d.clk) (fun _ _ _ => rfl) d

@[simp] theorem Dev.playPump_reg (d : Dev) (feat o : Nat) : d.playPump.reg feat o = d.reg feat o :=
  Dev.playPump_keeps (g := fun d => d.reg feat o) (fun _ _ _ => rfl) d

/-- The end of a frame adds its concealed bands to MIR_CONCEAL_CNT of its decoder, and changes no other register. -/
theorem Mach.endFrame_bumps (m : Mach) (e : Nat) (pl : Play) (c : Cmd) (f : PlayFrame) :
    ∃ n, Dev.Tame (setOf [.seq, .cqs, .msix, .codec, .sent]) (m.dev.bump 0x16 (0x40 * e + 0x20) n) (m.endFrame e pl c f).dev := by
  apply Exists.intro
  unfold Mach.endFrame
  dsimp only
  refine Dev.onPlay_tame (by decide) ?_ ..
  refine Mach.tame_ite_dev ?_ ?_
  · exact Mach.sendStatus_tame_dev (by decide) (Mach.putFrame_tame_dev (by decide) (Dev.onPlay_tame (by decide) (.refl _ _) ..) ..) ..
  · exact Dev.onPlay_tame (by decide) (.refl _ _) ..

section
variable {e o : Nat}

/-- A register that reads the same in both outcomes of a choice. -/
theorem Mach.ite_reg {p : Prop} [Decidable p] {a b : Mach} {v : Word} (ha : a.dev.reg 0x16 o = v) (hb : b.dev.reg 0x16 o = v) :
    (if p then a else b).dev.reg 0x16 o = v := by
  split <;> assumption

theorem Mach.endFrame_reg (h : regKey 0x16 o ≠ regKey 0x16 (0x40 * e + 0x20)) (m : Mach) (pl : Play) (c : Cmd) (f : PlayFrame) :
    (m.endFrame e pl c f).dev.reg 0x16 o = m.dev.reg 0x16 o := by
  obtain ⟨n, htame⟩ := m.endFrame_bumps e pl c f
  exact (htame.reg_eq (by decide) (by decide) o).trans (Dev.reg_setReg_of_ne h)

theorem Mach.skipFrame_reg (m : Mach) (pl : Play) (c : Cmd) (cond : Option Nat) :
    (m.skipFrame pl c cond).dev.reg 0x16 o = m.dev.reg 0x16 o :=
  (Mach.skipFrame_tame_dev (ps := setOf [.free, .seq, .cqs, .msix, .codec, .sent]) (by decide) (.refl _ m.dev) pl c cond).reg_eq
    (by decide) (by decide) o

theorem Mach.endPlay_reg (m : Mach) (pl : Play) (c : Cmd) (status : Nat) : (m.endPlay pl c status).dev.reg 0x16 o = m.dev.reg 0x16 o :=
  (Mach.endPlay_tame_dev (ps := setOf [.seq, .commands, .errorLog, .codec]) (by decide) (.refl _ m.dev) pl c status).reg_eq
    (by decide) (by decide) o

/-- A playback that goes on changes no register of the codec but MIR_CONCEAL_CNT of its decoder. -/
theorem Mach.runPlay_reg (h : regKey 0x16 o ≠ regKey 0x16 (0x40 * e + 0x20)) (sq cid k : Nat) (m : Mach) :
    (m.runPlay sq cid e k).dev.reg 0x16 o = m.dev.reg 0x16 o := by
  induction k generalizing m with
  | zero => rfl
  | succ k ih =>
    unfold Mach.runPlay
    split
    next c pl _ _ =>
      split
      next f _ =>
        split
        · rfl
        · exact (ih _).trans (m.endFrame_reg h pl c f)
      next =>
        have hend (status : Nat) := m.endPlay_reg (o := o) pl c status
        have hskip (cond : Option Nat) := (ih _).trans (m.skipFrame_reg (o := o) pl c cond)
        dsimp only
        refine Mach.ite_reg (hend _) (Mach.ite_reg (hend _) (Mach.ite_reg (hend _) ?_))
        split
        · exact hskip _
        · split
          · exact Mach.ite_reg (hend _) (hskip _)
          · exact Mach.ite_reg (hend _) (ih _)
    next => rfl

end

/-- A playback with a band to decode waits for a decoder. -/
theorem Mach.runPlay_of_found {m : Mach} {sq cid : Nat} {pl : Play} {f : PlayFrame}
    (hpl : m.dev.codec.plays.find? (Play.isOf sq cid) = some pl) (hcur : pl.cur = some f) (hf : f.found.isSome = true) (e k : Nat) :
    m.runPlay sq cid e k = m := by
  cases k with
  | zero => rfl
  | succ k =>
    unfold Play.isOf at hpl
    unfold Mach.runPlay
    simp only [hpl]
    split
    next c pl' _ h =>
      obtain rfl : pl = pl' := Option.some.inj h
      simp only [hcur, hf, if_true]
    next => rfl

/-! ### The newest playback -/

/-- Playback `pl`, whose command `c` is in flight, is the newest of the device, after the playbacks `l` of other commands. -/
structure Mach.Newest (m : Mach) (c : Cmd) (l : List Play) (pl : Play) : Prop where
  cmd : m.dev.cmd pl.sq pl.cid = some c
  plays : m.dev.codec.plays = l ++ [pl]
  others : ∀ p ∈ l, Play.isOf pl.sq pl.cid p = false

/-- A playback that has passed over a damaged frame. -/
def Play.passed (pl : Play) : Play := { pl with marred := true, done := pl.done + 1, cur := none }

/-- The device without playback `pl`. -/
def Dev.dropPlay (d : Dev) (pl : Play) : Dev :=
  d.onCodec (fun x => { x with plays := x.plays.filter (fun p => !Play.isOf pl.sq pl.cid p) })

theorem Dev.dropPlay_append_singleton {d : Dev} {l : List Play} {pl : Play} (h : d.codec.plays = l ++ [pl])
    (hl : ∀ p ∈ l, Play.isOf pl.sq pl.cid p = false) : (d.dropPlay pl).codec.plays = l := by
  have hkeep : l.filter (fun p => !Play.isOf pl.sq pl.cid p) = l := List.filter_eq_self.2 (fun p hp => by simp [hl p hp])
  simp [Dev.dropPlay, h, pl.isOf_self, hkeep]

theorem Mach.endPlay_of_unaborted {pl : Play} (h : pl.abortBy = none) (m : Mach) (c : Cmd) (status : Nat) :
    m.endPlay pl c status = Mach.complete { m with dev := m.dev.dropPlay pl } c status pl.outs := by
  unfold Mach.endPlay
  rw [h]
  rfl

theorem Play.frameDone_key (pl : Play) : pl.frameDone.sq = pl.sq ∧ pl.frameDone.cid = pl.cid := by
  unfold Play.frameDone
  split <;> exact ⟨rfl, rfl⟩

/-- The first frame requested, its header damaged, gives a status record alone where no reconstruction is kept (R196, R203). -/
theorem Mach.skipFrame_of_first (m : Mach) {c : Cmd} {pl : Play} (hsrc : c.dw 0 % 4 ≠ 0) (hpre : pl.pre = 0) (hkept : pl.kept = none)
    (cond : Nat) : ∃ bytes, m.skipFrame pl c (some cond) = onDev (fun d => d.onPlay pl.sq pl.cid Play.frameDone)
      (Mach.sendStatus { m with dev := m.dev.afterDraw.onPlay pl.sq pl.cid (fun x => { x with marred := true }) } pl.ctx bytes) := by
  apply Exists.intro
  unfold Mach.skipFrame
  simp only [hsrc, hpre, hkept, decide_true, decide_false, Option.isSome_some, Bool.and_self, Bool.or_true, Bool.not_true,
    Bool.false_eq_true, if_false]
  rfl

namespace Mach.Newest

variable {m n : Mach} {c : Cmd} {l : List Play} {pl : Play}

theorem find (h : m.Newest c l pl) : m.dev.codec.plays.find? (fun x => decide (x.sq = pl.sq ∧ x.cid = pl.cid)) = some pl := by
  have hnone : l.find? (Play.isOf pl.sq pl.cid) = none := List.find?_eq_none.2 (fun p hp => by simp [h.others p hp])
  have hfind : (l ++ [pl]).find? (Play.isOf pl.sq pl.cid) = some pl := by simp [hnone, pl.isOf_self]
  rwa [← h.plays] at hfind

/-- A change that leaves the codec and the commands leaves it the newest. -/
theorem of_tame {ps : Nat} (h : m.Newest c l pl) (ht : Dev.Tame ps m.dev n.dev) (hcommands : ps.testBit 15 = false)
    (hcodec : ps.testBit 44 = false) : n.Newest c l pl where
  cmd := (Dev.cmd_of_cmds (ht.cmds_eq hcommands) ..).trans h.cmd
  plays := (congrArg Codec.plays (ht.same .codec hcodec)).trans h.plays
  others := h.others

/-- It is the one that a change of the playback of its command changes. -/
theorem onPlay (h : m.Newest c l pl) {f : Play → Play} (hsq : (f pl).sq = pl.sq) (hcid : (f pl).cid = pl.cid) (x : Mem) :
    Mach.Newest { dev := m.dev.onPlay pl.sq pl.cid f, mem := x } c l (f pl) where
  cmd := by rw [hsq, hcid]; exact h.cmd
  plays := (congrArg (modifyFirst (Play.isOf pl.sq pl.cid) f) h.plays).trans (modifyFirst_append_singleton h.others pl.isOf_self f)
  others := by rw [hsq, hcid]; exact h.others

/-- The first frame requested, its header damaged, is dealt with and marred (R196). -/
theorem skipFrame (h : m.Newest c l pl) (hsrc : c.dw 0 % 4 ≠ 0) (hpre : pl.pre = 0) (hkept : pl.kept = none) (cond : Nat) :
    (m.skipFrame pl c (some cond)).Newest c l pl.passed := by
  obtain ⟨bytes, hskip⟩ := m.skipFrame_of_first hsrc hpre hkept cond
  have hdraw : Mach.Newest { m with dev := m.dev.afterDraw } c l pl :=
    h.of_tame (Dev.afterDraw_tame (ps := setOf [.free]) (by decide) (.refl _ m.dev)) (by decide) (by decide)
  have hmarred := hdraw.onPlay (f := fun x => { x with marred := true }) rfl rfl m.mem
  have hsent := hmarred.of_tame (Mach.sendStatus_tame_dev (ps := setOf [.seq, .cqs, .msix, .sent]) (by decide) (.refl _ _) pl.ctx bytes)
    (by decide) (by decide)
  have hframe : Play.frameDone { pl with marred := true } = pl.passed := if_pos hpre
  rw [hskip, ← hframe]
  obtain ⟨hsq, hcid⟩ := Play.frameDone_key { pl with marred := true }
  exact hsent.onPlay hsq hcid _

/-- The end of a playback that no ABORT names and that has output no frame is its completion, with RESULT 0 (R457). -/
theorem endPlay (h : m.Newest c l pl) (habort : pl.abortBy = none) (houts : pl.outs = 0) (status : Nat) (s : State) :
    (s.settledAt (onDev Dev.playPump (m.endPlay pl c status))).Ends pl.sq pl.cid status 0 ∧
      (s.settledAt (onDev Dev.playPump (m.endPlay pl c status))).m.dev.codec.plays = l := by
  obtain ⟨hsq, hcid, -⟩ := Dev.cmd_key h.cmd
  have hcmd : (m.dev.dropPlay pl).cmd c.sq c.cid = some c := by rw [hsq, hcid]; exact h.cmd
  have hend := Mach.endPlay_of_unaborted habort m c status
  rw [houts] at hend
  refine ⟨?_, ?_⟩
  · rw [hend, ← hsq, ← hcid]
    refine ends_of_complete (s := s) (result := 0) (e := {}) hcmd ?_
    simp only [State.settledAt, onDev, Dev.settle_host_stage, Dev.playPump_host]
    rfl
  · have htame := Mach.complete_tame_dev (ps := setOf [.seq, .commands, .errorLog]) (by decide) (.refl _ (m.dev.dropPlay pl))
      (X := { m with dev := m.dev.dropPlay pl }) c status 0 {}
    have hcodec : (Mach.complete { m with dev := m.dev.dropPlay pl } c status 0).dev.codec = (m.dev.dropPlay pl).codec :=
      htame.same .codec (by decide)
    rw [hend]
    simp only [State.settledAt, onDev, Dev.settle_codec, Dev.playPump_plays, hcodec]
    exact Dev.dropPlay_append_singleton h.plays h.others

end Mach.Newest

/-! ### The frame that a playback from memory takes next -/

/-- A playback from memory stands before a frame, whose coded bytes are `bytes` (R191, R192). -/
structure Mach.Reads (m : Mach) (c : Cmd) (l : List Play) (pl : Play) (bytes : List Byte) (gaps : List (Nat × Nat)) : Prop where
  newest : m.Newest c l pl
  cur : pl.cur = none
  abortBy : pl.abortBy = none
  more : pl.done ≠ c.dw 3 % 65536
  src : c.dw 0 % 4 ≠ 0
  bytes : m.playBytes pl c = some (bytes, gaps)

/-- The machine in which the frame with this header is the one that the playback decodes. -/
def Mach.beginsFrame (m : Mach) (pl : Play) (bytes : List Byte) (gaps : List (Nat × Nat)) (x : FrameHead) : Mach :=
  let f := beginFrame pl.kept (decide (pl.pre = 0)) bytes gaps x
  { m with dev := m.dev.onPlay pl.sq pl.cid (fun y => { y with cur := some f }) }

namespace Mach.Reads

variable {m : Mach} {c : Cmd} {l : List Play} {pl : Play} {bytes : List Byte} {gaps : List (Nat × Nat)}

/-- A frame with a damaged header is passed over where what stands for it fits the buffer (R196). -/
theorem runPlay_of_badHead (h : m.Reads c l pl bytes gaps) {cond : Nat} (hhead : playHead bytes gaps = .error cond)
    (hkept : pl.kept = none) (hfits : pl.fits c 0 = true) (e k : Nat) :
    m.runPlay pl.sq pl.cid e (k + 1) = (m.skipFrame pl c (some cond)).runPlay pl.sq pl.cid e k := by
  obtain ⟨hnew, hcur, habort, hmore, hsrc, hbytes⟩ := h
  rw [Mach.runPlay]
  simp only [hnew.cmd, hnew.find, hcur, habort, hmore, hsrc, hbytes, hhead, hkept, hfits, Option.isSome_none, Bool.false_eq_true, if_false,
    decide_false, Bool.false_and, Bool.not_true]

/-- A frame that does not fit the buffer ends the playback (R457). -/
theorem runPlay_of_tooLong (h : m.Reads c l pl bytes gaps) {x : FrameHead} (hhead : playHead bytes gaps = .ok x)
    (hfits : pl.fits c x.outBytes = false) (e k : Nat) : m.runPlay pl.sq pl.cid e (k + 1) = m.endPlay pl c Status.invalidField := by
  obtain ⟨hnew, hcur, habort, hmore, hsrc, hbytes⟩ := h
  rw [Mach.runPlay]
  simp only [hnew.cmd, hnew.find, hcur, habort, hmore, hsrc, hbytes, hhead, hfits, Option.isSome_none, Bool.false_eq_true, if_false,
    decide_false, Bool.false_and, Bool.not_false, if_true]

/-- A frame that fits begins. -/
theorem runPlay_of_fits (h : m.Reads c l pl bytes gaps) {x : FrameHead} (hhead : playHead bytes gaps = .ok x)
    (hfits : pl.fits c x.outBytes = true) (e k : Nat) :
    m.runPlay pl.sq pl.cid e (k + 1) = (m.beginsFrame pl bytes gaps x).runPlay pl.sq pl.cid e k := by
  obtain ⟨hnew, hcur, habort, hmore, hsrc, hbytes⟩ := h
  rw [Mach.runPlay]
  simp only [hnew.cmd, hnew.find, hcur, habort, hmore, hsrc, hbytes, hhead, hfits, Option.isSome_none, Bool.false_eq_true, if_false,
    decide_false, Bool.false_and, Bool.not_true]
  rfl

end Mach.Reads

/-- A playback whose frames are all dealt with ends with the status of R202. -/
theorem Mach.Newest.runPlay_of_done {m : Mach} {c : Cmd} {l : List Play} {pl : Play} (h : m.Newest c l pl) (hcur : pl.cur = none)
    (habort : pl.abortBy = none) (hdone : pl.done = c.dw 3 % 65536) (e k : Nat) :
    m.runPlay pl.sq pl.cid e (k + 1) = m.endPlay pl c pl.status := by
  rw [Mach.runPlay]
  simp only [h.cmd, h.find, hcur, habort, hdone, Option.isSome_none, Bool.false_eq_true, if_false, if_true]

/-! ### PLAYBACK_DECODE -/

/-- The playback of a command, before its first frame. -/
def Cmd.play (c : Cmd) : Play := { ctx := c.target, sq := c.sq, cid := c.cid }

/-- A command that is left running. -/
def Cmd.running (c : Cmd) : Cmd := { c with phase := .running }

@[simp] theorem Cmd.running_dw (c : Cmd) (i : Nat) : c.running.dw i = c.dw i := rfl

@[simp] theorem Cmd.running_dataLen (c : Cmd) : c.running.dataLen = c.dataLen := rfl

@[simp] theorem Cmd.running_dataKind (c : Cmd) : c.running.dataKind = c.dataKind := rfl

@[simp] theorem Cmd.play_done (c : Cmd) : c.play.done = 0 := rfl

theorem Cmd.play_fits {c : Cmd} (hsrc : c.dw 0 % 4 ≠ 0) (hkind : c.dataKind = 1 ∨ c.dataKind = 2) (n : Nat) :
    c.play.fits c.running n = decide (n ≤ c.dataLen) := by
  simp [Play.fits, Cmd.play, hsrc, hkind]

/-- The machine with the playback of a command begun. -/
def Mach.begun (m : Mach) (c : Cmd) : Mach :=
  { m with dev := (m.dev.keepRunning c).onCodec (fun x => { x with plays := x.plays ++ [c.play] }) }

/-- The machine with that playback run to its first band, or to its end. -/
def Mach.played (m : Mach) (c : Cmd) : Mach :=
  onDev Dev.playPump ((m.begun c).runPlay c.sq c.cid 0 (2 * (c.dw 3 % 65536 + 8) + 2))

/-- Frames from memory need none before them (R190). -/
theorem Mach.preRoll_of_list {m : Mach} {c : Cmd} (h : c.dw 0 % 4 ≠ 0) : m.preRoll c = 0 := by
  unfold Mach.preRoll
  split
  · exact if_pos (.inl h)
  · rfl

/-- The bytes of a frame in memory depend on the memories and on the dwords of the command alone. -/
theorem Mach.playBytes_of_list {m n : Mach} {c k : Cmd} {pl : Play} (h : c.dw 0 % 4 ≠ 0) (hmem : n.mem = m.mem) (hcdw : k.cdw = c.cdw) :
    n.playBytes pl k = m.playBytes pl c := by
  have hdw (i : Nat) : k.dw i = c.dw i := congrArg (fun l => l.getD i 0) hcdw
  unfold Mach.playBytes Cmd.dw64
  rw [hmem, hdw, hdw, hdw]
  split
  next h0 => exact absurd h0 h
  next => rfl

/-- A PLAYBACK_DECODE that no other one is in flight with waits for none. -/
theorem any_earlier_eq_false {d : Dev} {sq cid target : Nat} (h : ∀ k ∈ d.host.cmds, k.opcode = 0x60 → k.sq = sq ∧ k.cid = cid) :
    (d.host.cmds.takeWhile (fun x => !decide (x.sq = sq ∧ x.cid = cid))).any
      (fun x => decide (x.opcode = 0x60 ∧ x.target = target ∧ x.phase ≠ .completing)) = false := by
  refine List.any_eq_false.2 (fun x hx hop => ?_)
  obtain ⟨hop, -, -⟩ := of_decide_eq_true hop
  have hkey := h x (List.takeWhile_subset _ hx) hop
  have hother := List.mem_takeWhile_imp hx
  simp [hkey] at hother

/-- The parts that PLAYBACK_DECODE may change. -/
abbrev playParts : List Part := [.seq, .cqs, .commands, .errorLog, .codec, .hostMem, .feat 0x16]

section
variable {s : State} {sq cid : Nat} {c : Cmd} {x : Ctx} (hr : s.Runs sq cid 0x60 c) (hctx : s.m.dev.ctx c.target = some x)
  (hkind : x.kind = .playback) (hsole : ∀ k ∈ s.m.dev.host.cmds, k.opcode = 0x60 → k.sq = sq ∧ k.cid = cid)
include hr hctx hkind hsole

theorem playbackDecode_list_yields {P : State → Prop} (hsrc : c.dw 0 % 4 = 2) (hn : c.dw 3 % 65536 ≠ 0)
    (hP : P (s.settledAt (s.m.played c))) : Yields (.playbackDecode sq cid) s playParts P := by
  refine yields_of_run hr rfl (execPlaybackDecode_framed sq cid s) (by decide) (fun hsq hcid => ?_)
  subst hsq hcid
  have hpre : s.m.preRoll c = 0 := Mach.preRoll_of_list (by omega)
  simp only [any_earlier_eq_false hsole, hctx, hkind, hsrc, hn, hpre, decide_true, Bool.false_eq_true, if_false, Bool.not_true]
  exact hP

theorem playbackDecode_unmounted_yields (hsrc : c.dw 0 % 4 = 0) (hn : c.dw 3 % 65536 ≠ 0)
    (hmag : (s.m.dev.mag (bits (c.dw 0) 8 1)).mounted = false) :
    Yields (.playbackDecode sq cid) s playParts (fun t => t.Ends sq cid Status.magNotMounted 0 ∧ t.m.mem = s.m.mem) := by
  refine yields_of_completes hr rfl (execPlaybackDecode_framed sq cid s) (by decide) (m := s.m) (e := {}) ?_ rfl rfl
  simp only [any_earlier_eq_false hsole, hctx, hkind, hsrc, hn, hmag, decide_true, Bool.false_eq_true, if_false, Bool.not_true]
  rfl

end

/-! ### A playback of one frame in memory -/

section
variable {s : State} {sq cid : Nat} {c : Cmd} {bytes : List Byte} {gaps : List (Nat × Nat)} (hr : s.Runs sq cid 0x60 c)
  (hothers : ∀ p ∈ s.m.dev.codec.plays, p.sq ≠ sq ∨ p.cid ≠ cid) (hsrc : c.dw 0 % 4 ≠ 0) (hone : c.dw 3 % 65536 = 1)
  (hkind : c.dataKind = 1 ∨ c.dataKind = 2) (hbytes : s.m.playBytes c.play c = some (bytes, gaps))
include hr hothers hsrc hone hbytes

/-- The playback that begins stands before its frame, as the newest one. -/
theorem begun_reads : (s.m.begun c).Reads c.running s.m.dev.codec.plays c.play bytes gaps where
  newest := by
    obtain ⟨-, hcmd, -⟩ := hr
    obtain ⟨rfl, rfl, -⟩ := Dev.cmd_key hcmd
    refine ⟨(Dev.cmd_of_cmds (d := s.m.dev.keepRunning c) rfl ..).trans (Dev.cmd_keepRunning hcmd), rfl, ?_⟩
    exact fun p hp => Play.isOf_eq_false (hothers p hp)
  cur := rfl
  abortBy := rfl
  more := by rw [Cmd.running_dw, Cmd.play_done, hone]; decide
  src := by rwa [Cmd.running_dw]
  bytes := (Mach.playBytes_of_list (m := s.m) (n := s.m.begun c) (c := c) (k := c.running) hsrc rfl rfl).trans hbytes

include hkind

/-- A damaged header ends it with STREAM_DAMAGED (R196, R202). -/
theorem played_of_badHead {cond : Nat} (hhead : playHead bytes gaps = .error cond) :
    (s.settledAt (s.m.played c)).Ends sq cid Status.streamDamaged 0 ∧
      (s.settledAt (s.m.played c)).m.dev.codec.plays = s.m.dev.codec.plays := by
  have hreads := begun_reads hr hothers hsrc hone hbytes
  obtain ⟨hsq, hcid⟩ := hr.key
  have hfits : c.play.fits c.running 0 = true := (Cmd.play_fits hsrc hkind 0).trans (decide_eq_true (Nat.zero_le _))
  have hnew := hreads.newest.skipFrame hsrc rfl rfl cond
  have hend := hnew.endPlay rfl rfl Status.streamDamaged s
  have hrun : s.m.played c = onDev Dev.playPump (((s.m.begun c).skipFrame c.play c.running (some cond)).endPlay
      c.play.passed c.running Status.streamDamaged) :=
    congrArg (onDev Dev.playPump) ((hreads.runPlay_of_badHead hhead rfl hfits 0 _).trans
      (hnew.runPlay_of_done rfl rfl hone.symm 0 _))
  rw [hrun, ← hsq, ← hcid]
  exact hend

/-- A frame beyond the buffer ends it with INVALID_FIELD (R457). -/
theorem played_of_tooLong {x : FrameHead} (hhead : playHead bytes gaps = .ok x) (hlen : c.dataLen < x.outBytes) :
    (s.settledAt (s.m.played c)).Ends sq cid Status.invalidField 0 := by
  have hreads := begun_reads hr hothers hsrc hone hbytes
  obtain ⟨hsq, hcid⟩ := hr.key
  have hfits : c.play.fits c.running x.outBytes = false := (Cmd.play_fits hsrc hkind _).trans (decide_eq_false (Nat.not_le.2 hlen))
  have hrun : s.m.played c = onDev Dev.playPump ((s.m.begun c).endPlay c.play c.running Status.invalidField) :=
    congrArg (onDev Dev.playPump) (hreads.runPlay_of_tooLong hhead hfits 0 _)
  rw [hrun, ← hsq, ← hcid]
  exact (hreads.newest.endPlay rfl rfl Status.invalidField s).1

/-- A frame that fits, with a band to decode, goes on (R187, R457). -/
theorem played_of_fits {x : FrameHead} (hhead : playHead bytes gaps = .ok x) (hlen : x.outBytes ≤ c.dataLen)
    (hfound : (beginFrame none true bytes gaps x).found.isSome = true) :
    (s.settledAt (s.m.played c)).GoesOn sq cid ∧ (s.settledAt (s.m.played c)).m.dev.codec.plays =
      s.m.dev.codec.plays ++ [{ c.play with cur := some (beginFrame none true bytes gaps x) }] := by
  have hreads := begun_reads hr hothers hsrc hone hbytes
  obtain ⟨hsq, hcid⟩ := hr.key
  have hfits : c.play.fits c.running x.outBytes = true := (Cmd.play_fits hsrc hkind _).trans (decide_eq_true hlen)
  have hnew := hreads.newest.onPlay (f := fun y => { y with cur := some (beginFrame none true bytes gaps x) }) rfl rfl s.m.mem
  have hrun : s.m.played c = onDev Dev.playPump ((s.m.begun c).beginsFrame c.play bytes gaps x) :=
    congrArg (onDev Dev.playPump) ((hreads.runPlay_of_fits hhead hfits 0 _).trans (Mach.runPlay_of_found hnew.find rfl hfound 0 _))
  rw [hrun, ← hsq, ← hcid]
  simp only [State.settledAt, State.GoesOn, onDev, Dev.settle_codec, Dev.playPump_plays, Dev.settle_cmd]
  exact ⟨⟨_, (Dev.cmd_of_cmds (congrArg HostIf.cmds (Dev.playPump_host _)) ..).trans hnew.cmd, rfl⟩, hnew.plays⟩

end

/-! ### PLAYBACK_BAND -/

theorem Dev.playWaiting_mem {d : Dev} {pl : Play} {r : BandRef} (h : d.playWaiting = some (pl, r)) : pl ∈ d.codec.plays := by
  obtain ⟨p, hp, hband⟩ := List.mem_filterMap.1 (List.mem_of_find?_eq_some h)
  obtain ⟨r', -, hpair⟩ := Option.map_eq_some_iff.1 hband
  exact (Prod.mk.inj hpair).1 ▸ hp

/-- Which playback waits depends on the codec alone. -/
theorem Dev.playWaiting_of_codec {d d' : Dev} (h : d'.codec = d.codec) : d'.playWaiting = d.playWaiting := by
  unfold Dev.playWaiting
  rw [h]

/-- A playback whose band is decoded goes on in its frame. -/
def Play.bandDone (p : Play) : Play := { p with cur := p.cur.map (fun f => f.decodeFound p.kept) }

/-- The device once mirror decoder `e` has decoded the band of playback `pl`, `dt` ns later. -/
def Dev.bandDecoded (d : Dev) (e dt : Nat) (pl : Play) : Dev :=
  (((d.advance dt).bump 0x16 (0x40 * e + 0x1C)).onMir e (fun x => { x with play := none })).onPlay pl.sq pl.cid Play.bandDone

/-- The machine in which that playback has gone on to its next band, or to its end, over at most `k` steps. -/
def Mach.bandPlayed (m : Mach) (e dt : Nat) (pl : Play) (k : Nat) : Mach :=
  onDev Dev.playPump (Mach.runPlay { m with dev := m.dev.bandDecoded e dt pl } pl.sq pl.cid e k)

section
variable {s : State} {e : Nat} {pl : Play} {r : BandRef}

/-- A decoder without a playback band takes the one that waits (R187). -/
theorem execPlaybackBand_of_waiting (hfree : s.m.dev.mirFree e = true) (hplay : (s.m.dev.mirE e).play = none)
    (hwait : s.m.dev.playWaiting = some (pl, r)) (dt : Nat) :
    execPlaybackBand e dt s = live (fun m => m.bandPlayed e dt pl (2 * (65536 + 8) + 2)) s := by
  have hmir : ((s.m.dev.advance dt).mirE e).play = none := hplay
  have hnext : (s.m.dev.advance dt).playWaiting = some (pl, r) := (Dev.playWaiting_of_codec rfl).trans hwait
  refine live_congr ?_
  simp only [hfree, hmir, hnext, Bool.not_true, Bool.false_eq_true, if_false, Option.bind_none, Option.map_some]
  rfl

@[simp] theorem Dev.bandDecoded_clk (d : Dev) (e dt : Nat) (pl : Play) : (d.bandDecoded e dt pl).clk = d.clk + dt := rfl

theorem Dev.bandDecoded_reg {d : Dev} (hs : d.Shape) (e dt : Nat) (pl : Play) :
    (d.bandDecoded e dt pl).reg 0x16 (0x40 * e + 0x1C) = word (satAdd32 (d.reg 0x16 (0x40 * e + 0x1C)).toNat 1) :=
  Dev.reg_bump (d := d.advance dt) hs 0x16 (0x40 * e + 0x1C) 1

theorem Mach.bandPlayed_clk (m : Mach) (dt k : Nat) : (m.bandPlayed e dt pl k).dev.clk = m.dev.clk + dt := by
  have htame := Mach.runPlay_tame_dev (ps := setOf [.free, .seq, .cqs, .commands, .errorLog, .msix, .codec, .sent, .feat 0x16])
    (by decide) (.refl _ (m.dev.bandDecoded e dt pl)) (X := { m with dev := m.dev.bandDecoded e dt pl }) pl.sq pl.cid e k
  have hclk : (Mach.runPlay { m with dev := m.dev.bandDecoded e dt pl } pl.sq pl.cid e k).dev.clk = (m.dev.bandDecoded e dt pl).clk :=
    htame.same .clk (by decide)
  unfold Mach.bandPlayed onDev
  simp only [Dev.playPump_clk, hclk, Dev.bandDecoded_clk]

/-- MIR_PLAY_CNT of the decoder counts the band. -/
theorem Mach.bandPlayed_reg {m : Mach} (hs : m.dev.Shape) (dt k : Nat) : (m.bandPlayed e dt pl k).dev.reg 0x16 (0x40 * e + 0x1C) =
    word (satAdd32 (m.dev.reg 0x16 (0x40 * e + 0x1C)).toNat 1) := by
  have hkey : regKey 0x16 (0x40 * e + 0x1C) ≠ regKey 0x16 (0x40 * e + 0x20) := by unfold regKey; omega
  unfold Mach.bandPlayed onDev
  rw [Dev.playPump_reg, Mach.runPlay_reg hkey]
  exact Dev.bandDecoded_reg hs e dt pl

/-- A playback that has found its next band keeps it. -/
theorem Mach.bandPlayed_plays {m : Mach} {f : PlayFrame} (hplays : m.dev.codec.plays.find? (Play.isOf pl.sq pl.cid) = some pl)
    (hcur : pl.cur = some f) (hfound : (f.decodeFound pl.kept).found.isSome = true) (dt k : Nat) :
    ∃ p ∈ (m.bandPlayed e dt pl k).dev.codec.plays, p.sq = pl.sq ∧ p.cid = pl.cid ∧ p.cur = some (f.decodeFound pl.kept) := by
  have hfind : (m.dev.bandDecoded e dt pl).codec.plays.find? (Play.isOf pl.sq pl.cid) = some pl.bandDone :=
    (find?_modifyFirst (f := Play.bandDone) (fun _ => rfl) _).trans (congrArg (Option.map Play.bandDone) hplays)
  have hband : pl.bandDone.cur = some (f.decodeFound pl.kept) := congrArg (Option.map _) hcur
  have hrun : m.bandPlayed e dt pl k = onDev Dev.playPump { m with dev := m.dev.bandDecoded e dt pl } :=
    congrArg (onDev Dev.playPump) (Mach.runPlay_of_found hfind hband hfound ..)
  rw [hrun]
  simp only [onDev, Dev.playPump_plays]
  exact ⟨_, List.mem_of_find?_eq_some hfind, rfl, rfl, hband⟩

theorem playbackBand_yields (hl : s.Live) (hs : s.m.dev.Shape) (hfree : s.m.dev.mirFree e = true) (hplay : (s.m.dev.mirE e).play = none)
    (hplays : s.m.dev.codec.plays.Pairwise (fun a b => a.sq ≠ b.sq ∨ a.cid ≠ b.cid)) (hwait : s.m.dev.playWaiting = some (pl, r))
    {f : PlayFrame} (hcur : pl.cur = some f) (dt : Nat) :
    Yields (.playbackBand e dt) s [.clk, .seq, .cqs, .commands, .errorLog, .sid, .codec, .hostMem, .feat 0x16] (fun t =>
      t.m.dev.clk = s.m.dev.clk + dt ∧
      t.m.dev.reg 0x16 (0x40 * e + 0x1C) = word (satAdd32 (s.m.dev.reg 0x16 (0x40 * e + 0x1C)).toNat 1) ∧
      ((f.decodeFound pl.kept).found.isSome = true → ∃ p ∈ t.m.dev.codec.plays, p.sq = pl.sq ∧ p.cid = pl.cid ∧
        p.cur = some (f.decodeFound pl.kept))) := by
  refine yields_of_live hl (execPlaybackBand_of_waiting hfree hplay hwait dt) (execPlaybackBand_framed e dt s) (by decide) ?_
  simp only [Dev.settle_clk, Dev.settle_reg, Dev.settle_codec]
  exact ⟨s.m.bandPlayed_clk dt _, Mach.bandPlayed_reg hs dt _,
    fun hfound => Mach.bandPlayed_plays (find?_isOf_of_mem hplays (Dev.playWaiting_mem hwait)) hcur hfound dt _⟩

end

/-- Settles O55: a delivery by what its destination answers, a playback of one frame by its header, and a band by the playback that
waits for a decoder. -/
theorem deliveryAndPlayback : Obligations.DeliveryAndPlayback := by
  refine ⟨fun s k v x hl hs hv hx hheld => multicastDeliver_yields hl hs hv hx hheld, fun s hs => ⟨?_, ?_⟩⟩
  · rintro sq cid c ctx pl hr hctx hkind hsole hothers rfl
    refine ⟨fun bytes gaps hsrc hone hdata hbytes => ?_, fun hsrc hn hmag => ?_⟩
    · obtain ⟨rfl, rfl⟩ := hr.key
      have hlist : c.dw 0 % 4 ≠ 0 := by rw [hsrc]; decide
      refine playbackDecode_list_yields hr hctx hkind hsole hsrc (by rw [hone]; decide) ?_
      cases hhead : playHead bytes gaps with
      | error cond => exact played_of_badHead hr hothers hlist hone hdata hbytes hhead
      | ok h =>
        rcases Nat.lt_or_ge c.dataLen h.outBytes with hlong | hfits
        · exact .inl ⟨hlong, played_of_tooLong hr hothers hlist hone hdata hbytes hhead hlong⟩
        · exact .inr ⟨hfits, played_of_fits hr hothers hlist hone hdata hbytes hhead hfits⟩
    · exact playbackDecode_unmounted_yields hr hctx hkind hsole hsrc hn hmag
  · exact fun e dt pl f r hl hfree hplay _ hplays hwait hcur => playbackBand_yields hl hs hfree hplay hplays hwait hcur dt

end Sys2Proof.Machine
end

section
/-! Developed frames and the units of delivery: what the outputs take, and what is put into buffers (R208, R209, R220, R229). -/

namespace Sys2Proof.Machine
open Sys2Proof

/-! ### The element that is changed -/

section
variable {α : Type} {p : α → Bool} {f : α → α} {l : List α} (hl : l.Pairwise (fun a b => p a = true → p b = false))
include hl

/-- The one element that has a property is the one changed. -/
theorem mem_modifyFirst_of_unique {x : α} (hx : x ∈ l) (hp : p x = true) : f x ∈ modifyFirst p f l := by
  induction l with
  | nil => exact absurd hx List.not_mem_nil
  | cons y r ih =>
    obtain ⟨hy, hr⟩ := List.pairwise_cons.1 hl
    unfold modifyFirst
    rcases List.mem_cons.1 hx with rfl | hmem
    · rw [if_pos hp]
      exact List.mem_cons_self ..
    · have hhead : ¬p y = true := fun h => Bool.false_ne_true ((hy x hmem h).symm.trans hp)
      rw [if_neg hhead]
      exact List.mem_cons_of_mem _ (ih hr hmem)

/-- Where one element at most has a property, the one that has it after the change is the one changed. -/
theorem eq_of_mem_modifyFirst_of_unique {y : α} (hy : y ∈ modifyFirst p f l) (hp : p y = true) : ∃ x, y = f x := by
  induction l with
  | nil => exact absurd hy List.not_mem_nil
  | cons z r ih =>
    obtain ⟨hz, hr⟩ := List.pairwise_cons.1 hl
    unfold modifyFirst at hy
    split at hy
    next hhead =>
      rcases List.mem_cons.1 hy with rfl | hmem
      · exact ⟨z, rfl⟩
      · exact absurd hp (by simp [hz y hmem hhead])
    next hhead =>
      rcases List.mem_cons.1 hy with rfl | hmem
      · exact absurd hp hhead
      · exact ih hr hmem

end

/-! ### Developed frames -/

/-- No two developed frames are of one stream and number. -/
def Dev.FramesDiffer (d : Dev) : Prop := d.proxy.frames.Pairwise (fun a b => a.stream ≠ b.stream ∨ a.frame ≠ b.frame)

/-- One developed frame at most has a stream and a number. -/
theorem Dev.FramesDiffer.unique {d : Dev} (h : d.FramesDiffer) (s n : Nat) :
    d.proxy.frames.Pairwise (fun a b =>
      decide (a.stream = s ∧ a.frame = n) = true → decide (b.stream = s ∧ b.frame = n) = false) := by
  refine h.imp fun {a b} hab ha => decide_eq_false ?_
  obtain ⟨rfl, rfl⟩ := of_decide_eq_true ha
  rintro ⟨hs, hn⟩
  exact hab.elim (absurd hs.symm) (absurd hn.symm)

/-- An output that has taken a frame is not among those that have still to take it. -/
theorem Dev.not_mem_outs_took {d : Dev} (h : d.FramesDiffer) {o : Nat} {f g : DevFrame} (hg : g ∈ (d.took o f).proxy.frames)
    (hs : g.stream = f.stream) (hn : g.frame = f.frame) : o ∉ g.outs := by
  obtain ⟨x, rfl⟩ := eq_of_mem_modifyFirst_of_unique (h.unique f.stream f.frame) (List.mem_of_mem_filter hg)
    (decide_eq_true ⟨hs, hn⟩)
  simp

/-- A frame that an output has still to take stays. -/
theorem Dev.mem_frames_sweepProxy {d : Dev} {g : DevFrame} (hg : g ∈ d.proxy.frames) (ho : g.outs ≠ []) :
    g ∈ d.sweepProxy.proxy.frames := by
  refine List.mem_filter.2 ⟨hg, ?_⟩
  simp [ho]

/-! ### Units of delivery -/

theorem Dev.outDropped_proxy (d : Dev) (o : Nat) :
    (d.outDropped o).proxy = (d.onOut o (fun x => { x with dropped := true })).proxy := by
  unfold Dev.outDropped
  split <;> rfl

/-- A copy that is dropped counts in PRX_DROP_CNT alone. -/
theorem Dev.outDropped_reg_of_ne {d : Dev} {o off : Nat} (h : regKey 0x17 off ≠ regKey 0x17 (outBase o + 0x28)) :
    (d.outDropped o).reg 0x17 off = d.reg 0x17 off := by
  unfold Dev.outDropped
  split
  · exact Dev.reg_setReg_of_ne h
  · rfl

/-- What the buffers of a unit may change. -/
abbrev grantParts : List Part := [.free, .seq, .stats, .commands, .events, .flt, .twk, .bbx, .link, .pools, .sent, .feat 0x1B]

/-- A unit with a destination is dropped, or put into buffers of one pool, with no other change but what the pool makes (R276, R279). -/
theorem Dev.sendOut_cases (d : Dev) (v : Delivery) : d.sendOut v = d ∨ ∃ x, Dev.Tame (setOf grantParts) d x ∧
    (d.sendOut v = x.outDropped v.out ∨
      ∃ p l, d.sendOut v = x.onProxy (fun q => { q with deliveries := q.deliveries ++ [{ v with pool := p, bufs := l }] })) := by
  unfold Dev.sendOut
  split
  · exact .inl rfl
  · obtain ⟨p, n⟩ := bufsFor (sumBy List.length v.parts)
    have htame := Dev.grantAll_tame (ps := setOf grantParts) (by decide) (.refl _ d) p (d.outCtx v.out)
      (if v.out = 2 then 63 else 62) v.dests.length n
    refine .inr ⟨_, htame, ?_⟩
    dsimp only
    split
    next h => exact .inl (by rw [h])
    next h => exact .inr ⟨_, _, by rw [h]⟩

/-- The proxy path after that: as it was, the drop noted at its output, or the unit waiting last. -/
theorem Dev.sendOut_proxy (d : Dev) (v : Delivery) : (d.sendOut v).proxy = d.proxy ∨
    (d.sendOut v).proxy = { d.proxy with outs := modAt d.proxy.outs v.out (fun x => { x with dropped := true }) } ∨
    ∃ p l, (d.sendOut v).proxy = { d.proxy with deliveries := d.proxy.deliveries ++ [{ v with pool := p, bufs := l }] } := by
  rcases d.sendOut_cases v with h | ⟨x, htame, h | ⟨p, l, h⟩⟩
  · exact .inl (by rw [h])
  all_goals have hproxy : x.proxy = d.proxy := htame.same .proxy (by decide)
  · refine .inr (.inl ?_)
    rw [h, Dev.outDropped_proxy, ← hproxy]
    rfl
  · refine .inr (.inr ⟨p, l, ?_⟩)
    rw [h, ← hproxy]
    rfl

@[simp] theorem Dev.sendOut_frames (d : Dev) (v : Delivery) : (d.sendOut v).proxy.frames = d.proxy.frames := by
  rcases d.sendOut_proxy v with h | h | ⟨p, l, h⟩ <;> rw [h]

/-- An output keeps all but whether a destination has dropped. -/
theorem Dev.sendOut_out {β : Type} {g : ProxyOut → β} (hg : ∀ x : ProxyOut, g { x with dropped := true } = g x) (d : Dev)
    (v : Delivery) (k : Nat) : g ((d.sendOut v).proxy.outs.getD k {}) = g (d.proxy.outs.getD k {}) := by
  rcases d.sendOut_proxy v with h | h | ⟨p, l, h⟩ <;> rw [h]
  exact modAt_getD_congr hg ..

theorem Dev.sendOut_deliveries (d : Dev) (v : Delivery) : (d.sendOut v).proxy.deliveries = d.proxy.deliveries ∨
    ∃ p l, (d.sendOut v).proxy.deliveries = d.proxy.deliveries ++ [{ v with pool := p, bufs := l }] := by
  rcases d.sendOut_proxy v with h | h | ⟨p, l, h⟩ <;> rw [h]
  · exact .inl rfl
  · exact .inl rfl
  · exact .inr ⟨p, l, rfl⟩

theorem Dev.sendOut_reg {d : Dev} {v : Delivery} {off : Nat} (h : regKey 0x17 off ≠ regKey 0x17 (outBase v.out + 0x28)) :
    (d.sendOut v).reg 0x17 off = d.reg 0x17 off := by
  rcases d.sendOut_cases v with hv | ⟨x, htame, hv | ⟨p, l, hv⟩⟩ <;> rw [hv]
  · rw [Dev.outDropped_reg_of_ne h, htame.reg_eq (by decide) (by decide)]
  · exact htame.reg_eq (by decide) (by decide) off

@[simp] theorem Dev.sendOut_clk (d : Dev) (v : Delivery) : (d.sendOut v).clk = d.clk :=
  (Dev.sendOut_tame (ps := setOf (grantParts ++ [.proxy, .feat 0x17])) (by decide) (.refl _ d) v).same .clk (by decide)

end Sys2Proof.Machine
end

section
/-! DEVELOP_BAND (R208, R211): the developer reads a staged band, whose hold ends. -/

namespace Sys2Proof.Machine
open Sys2Proof

/-! ### Holds of the bands -/

/-- A band reads as the default where there is none. -/
theorem Work.band_eq_getD (w : Work) (t k : Nat) : w.band t k = (w.band? t k).getD {} := by
  unfold Work.band Work.tile Work.band?
  rw [List.getD_eq_getElem?_getD, List.getD_eq_getElem?_getD]
  cases w.tiles[t]? <;> rfl

/-- A band whose hold ends, or that is not there, is not held. -/
theorem Work.hold_modBand (w : Work) (t k : Nat) : ((w.modBand t k (fun b => { b with hold := false })).band t k).hold = false := by
  rw [Work.band_eq_getD, Work.band?_modBand, if_pos ⟨rfl, rfl⟩]
  cases w.band? t k <;> rfl

/-- A frame of capture `c` whose bands give up the buffers that may be released. -/
def Cap.swept (c : Cap) (now : Nat) (w : Work) : Work :=
  { w with tiles := (List.range w.tiles.length).map (fun t =>
      let x := w.tile t
      { x with bands := (List.range x.bands.length).map (fun k =>
          let b := w.band t k
          if c.releasable now w t k then { b with released := true, bufs := [], refBufs := [] } else b) }) }

@[simp] theorem Cap.swept_frame (c : Cap) (now : Nat) (w : Work) : (c.swept now w).frame = w.frame := rfl

theorem Cap.band?_swept (c : Cap) (now : Nat) (w : Work) (t k : Nat) : (c.swept now w).band? t k = (w.band? t k).map (fun b =>
    if c.releasable now w t k then { b with released := true, bufs := [], refBufs := [] } else b) := by
  unfold Work.band? Cap.swept Work.band Work.tile
  dsimp only
  by_cases ht : t < w.tiles.length
  · by_cases hk : k < w.tiles[t].bands.length <;> simp [ht, hk]
  · simp [ht]

/-- Buffers that are released leave the holds. -/
theorem Cap.hold_swept (c : Cap) (now : Nat) (w : Work) (t k : Nat) : ((c.swept now w).band t k).hold = (w.band t k).hold := by
  rw [Work.band_eq_getD, Work.band_eq_getD, Cap.band?_swept]
  cases w.band? t k with
  | none => rfl
  | some b => rw [Option.map_some, Option.getD_some, Option.getD_some]; split <;> rfl

/-- The frames in work that stay are those that still hold something, their buffers released. -/
theorem Dev.cap_sweep {d : Dev} {s : Nat} {c : Cap} (hc : d.cap s = some c) :
    ∃ q, (d.sweep s).cap s = some { c with works := (c.works.map (c.swept d.tick.now)).filter q } := by
  have hfree (l : List Nat) : (d.freeMany l).cap s = some c :=
    ((Dev.freeMany_tame (ps := setOf [.pools]) (by decide) (.refl _ d) l).cap_eq (by decide) s).trans hc
  unfold Dev.sweep
  rw [hc]
  exact ⟨_, Dev.cap_modCap_same (hfree _) _⟩

/-- The frames in work of a stream have different numbers. -/
def Cap.WorksDiffer (c : Cap) : Prop := c.works.Pairwise (fun a b => a.frame ≠ b.frame)

theorem Dev.mem_works_of_work {d : Dev} {s n : Nat} {x : Work} {c : Cap} (hx : d.work s n = some x) (hc : d.cap s = some c) :
    x ∈ c.works ∧ x.frame = n := by
  unfold Dev.work at hx
  rw [hc] at hx
  exact ⟨List.mem_of_find?_eq_some hx, of_decide_eq_true (List.find?_some hx :)⟩

/-- The hold of a band that ends stays ended when its stream is swept. -/
theorem Dev.hold_work_sweep {d : Dev} {s n t k : Nat} {c : Cap} {x : Work} (hc : d.cap s = some c) (hworks : c.WorksDiffer)
    (hx : ((d.modBand s n t k (fun b => { b with hold := false })).sweep s).work s n = some x) : (x.band t k).hold = false := by
  obtain ⟨q, hsweep⟩ := Dev.cap_sweep (d := d.modBand s n t k (fun b => { b with hold := false })) (Dev.cap_modCap_same hc _)
  obtain ⟨hmem, hframe⟩ := Dev.mem_works_of_work hx hsweep
  obtain ⟨w, hw, rfl⟩ := List.mem_map.1 (List.mem_of_mem_filter hmem)
  have hunique : c.works.Pairwise (fun a b => decide (a.frame = n) = true → decide (b.frame = n) = false) :=
    hworks.imp fun hab ha => decide_eq_false fun hb => hab ((of_decide_eq_true ha).trans hb.symm)
  obtain ⟨y, rfl⟩ := eq_of_mem_modifyFirst_of_unique hunique hw (decide_eq_true hframe)
  rw [Cap.hold_swept, Work.hold_modBand]

/-! ### The command -/

/-- The frame once the developer has read photosites `px` of band `k` of tile `t`, the last of its bands or not. -/
def DevFrame.reads (f : DevFrame) (t k : Nat) (px : List Nat) (last : Bool) : DevFrame :=
  { f with read := Tbl.ins f.read (1024 * t + k) px, whole := last }

/-- The device once the developer has read that band of frame `f`. -/
def Dev.bandRead (d : Dev) (f : DevFrame) (t k : Nat) (px : List Nat) (last : Bool) : Dev :=
  (((d.onFrame f.stream f.frame (fun f => f.reads t k px last)).modBand f.stream f.frame t k (fun b => { b with hold := false })).sweep
    f.stream).sweepProxy

section
variable {d : Dev} {f : DevFrame} {t k : Nat} {px : List Nat} {last : Bool}

theorem Dev.hold_work_bandRead {c : Cap} {x : Work} (hc : d.cap f.stream = some c) (hworks : c.WorksDiffer)
    (hx : (d.bandRead f t k px last).work f.stream f.frame = some x) : (x.band t k).hold = false :=
  Dev.hold_work_sweep (d := d.onFrame f.stream f.frame (fun f => f.reads t k px last)) hc hworks hx

theorem Dev.mem_frames_bandRead (h : d.FramesDiffer) (hf : f ∈ d.proxy.frames) (ho : f.outs ≠ []) :
    f.reads t k px last ∈ (d.bandRead f t k px last).proxy.frames := by
  have htame := Dev.sweep_tame (ps := setOf [.pools, .caps]) (by decide) (Dev.modBand_tame (by decide)
    (.refl _ (d.onFrame f.stream f.frame (fun f => f.reads t k px last))) f.stream f.frame t k (fun b => { b with hold := false })) f.stream
  refine Dev.mem_frames_sweepProxy ?_ ho
  rw [htame.same .proxy (by decide)]
  exact mem_modifyFirst_of_unique (h.unique f.stream f.frame) hf (decide_eq_true ⟨rfl, rfl⟩)

end

section
variable {s : State} {f : DevFrame} {w : Work} {t k : Nat}
  (hf : s.m.dev.proxy.frames.find? (fun f => !f.whole && !f.skipped) = some f) (hw : s.m.dev.work f.stream f.frame = some w)
  (hnext : w.readOrder.find? (fun r => !(f.read.any (fun e => decide (e.1 = 1024 * r.1 + r.2)))) = some (t, k))
  (hon : s.m.dev.takesWork 7 = true) (hstaged : (w.band t k).staged = true) (hhold : (w.band t k).hold = true)
include hf hw hnext hon hstaged hhold

/-- The developer reads the band that is next, when it is staged and held. -/
theorem execDevelopBand_of_staged : execDevelopBand s = live (fun m =>
    { m with dev := m.dev.bandRead f t k (m.bandPhotos w t k) (decide (f.read.length + 1 = w.readOrder.length)) }) s := by
  refine live_congr ?_
  simp only [hf, hw, hnext, hon, hstaged, hhold, Bool.not_true, Bool.or_false, Bool.false_eq_true, if_false]
  rfl

theorem developBand_yields (hl : s.Live) (hframes : s.m.dev.FramesDiffer)
    (hworks : ∀ c, s.m.dev.cap f.stream = some c → c.WorksDiffer) : Yields .developBand s [.pools, .caps, .proxy] (fun u =>
      (∀ x, u.m.dev.work f.stream f.frame = some x → (x.band t k).hold = false) ∧
      (f.outs ≠ [] → ∃ g ∈ u.m.dev.proxy.frames, g.stream = f.stream ∧ g.frame = f.frame ∧
        Tbl.get (fun _ => []) g.read (1024 * t + k) = s.m.bandPhotos w t k ∧
        g.whole = decide (f.read.length + 1 = w.readOrder.length))) := by
  refine yields_of_live hl (execDevelopBand_of_staged hf hw hnext hon hstaged hhold) (execDevelopBand_framed s) (by decide) ?_
  simp only [Dev.settle_work, Dev.settle_proxy]
  refine ⟨fun x hx => ?_, fun ho => ⟨_, Dev.mem_frames_bandRead hframes (List.mem_of_find?_eq_some hf) ho, rfl, rfl, ?_, rfl⟩⟩
  · cases hc : s.m.dev.cap f.stream with
    | none => simp [Dev.work, hc] at hw
    | some c => exact Dev.hold_work_bandRead hc (hworks c hc) hx
  · exact (Tbl.get_ins ..).trans (if_pos rfl)

end

end Sys2Proof.Machine
end

section
/-! HEVC_PICTURE (R209, R218 to R220, R223, R229): an HEVC output makes the picture of its next frame. -/

namespace Sys2Proof.Machine
open Sys2Proof

/-- The NAL units of the picture of frame `f`: parameter sets before an IDR one alone (R218 to R220). -/
def Dev.hevcNals (d : Dev) (o : Nat) (f : DevFrame) (sets timing slices : List (List Byte)) : List (List Byte) :=
  (if d.nextIdr o then sets else []) ++ timing ++ [seiNal f.frame f.stamp] ++ slices

/-- The access unit of these NAL units, for the destinations that the output names. -/
def Dev.hevcUnit (d : Dev) (o ring flow0 flow1 : Nat) (f : DevFrame) (nals : List (List Byte)) : Delivery :=
  { out := o, frame := f.frame, at_ := f.at_, idr := d.nextIdr o, pool := 0, bufs := [], parts := nals,
    dests := hevcDests (fld (d.reg 0x17 (outBase o)) 16 4) ring flow0 flow1 }

/-- Output `o` has taken frame `f` and counts its picture: its CPB gives up the access unit (R223). -/
def Dev.hevcTaken (d : Dev) (o : Nat) (f : DevFrame) (nals : List (List Byte)) : Dev :=
  (d.took o f).onOut o (fun x => { x with
    pictures := x.pictures + 1, dropped := if d.nextIdr o then false else x.dropped,
    cpb := d.cpbAt o f - 8 * (annexB nals).length, cpbAt := f.at_ })

/-- The counters of the output count the picture, and one that wanted more bits than the CPB held. -/
def Dev.hevcCounted (d : Dev) (o : Nat) (short : Bool) : Dev :=
  (if short then d.bump 0x17 (outBase o + 0x20) else d).bump 0x17 (outBase o + 0x24)

/-- The device before the access unit is put into buffers. -/
def Dev.hevcMade (d : Dev) (o ring flow0 flow1 want : Nat) (f : DevFrame) (nals : List (List Byte)) : Dev :=
  ((d.hevcTaken o f nals).hevcCounted o (decide (d.cpbAt o f < want))).onProxy (fun p =>
    { p with lat := d.sinceNextTick f, named := Tbl.set (fun _ => []) p.named o [ring, flow0, flow1] })

@[simp] theorem Dev.hevcCounted_proxy (d : Dev) (o : Nat) (short : Bool) : (d.hevcCounted o short).proxy = d.proxy := by
  unfold Dev.hevcCounted
  split <;> rfl

@[simp] theorem Dev.hevcCounted_clk (d : Dev) (o : Nat) (short : Bool) : (d.hevcCounted o short).clk = d.clk := by
  unfold Dev.hevcCounted
  split <;> rfl

/-- Registers of an HEVC output have keys of their own. -/
theorem regKey_out_ne {o a b : Nat} (ho : o < 2) (ha : a < 0x40) (hb : b < 0x40) (hab : a ≠ b) :
    regKey 0x17 (outBase o + a) ≠ regKey 0x17 (outBase o + b) := by
  unfold regKey outBase
  split <;> omega

theorem Dev.hevcCounted_reg {d : Dev} (h : d.Shape) {o : Nat} (ho : o < 2) (short : Bool) :
    (d.hevcCounted o short).reg 0x17 (outBase o + 0x24) = word (satAdd32 (d.reg 0x17 (outBase o + 0x24)).toNat 1) := by
  have hkey : regKey 0x17 (outBase o + 0x24) ≠ regKey 0x17 (outBase o + 0x20) :=
    regKey_out_ne ho (by decide) (by decide) (by decide)
  unfold Dev.hevcCounted
  split
  · have hbump := Dev.bump_tame (ps := setOf [.feat 0x17]) (by decide) (.refl _ d) (feat := 0x17) (o := outBase o + 0x20) (n := 1)
    rw [Dev.reg_bump (hbump.shape h)]
    exact congrArg (fun v : Word => word (satAdd32 v.toNat 1)) (Dev.reg_setReg_of_ne hkey)
  · exact Dev.reg_bump h ..

section
variable (d : Dev) (o ring flow0 flow1 want : Nat) (f : DevFrame) (nals : List (List Byte))

theorem Dev.hevcTaken_tame : Dev.Tame (setOf [.proxy]) d (d.hevcTaken o f nals) :=
  Dev.onOut_tame (by decide) (Dev.took_tame (by decide) (.refl _ d) o f) ..

theorem Dev.hevcMade_proxy : (d.hevcMade o ring flow0 flow1 want f nals).proxy = { (d.hevcTaken o f nals).proxy with
    lat := d.sinceNextTick f, named := Tbl.set (fun _ => []) d.proxy.named o [ring, flow0, flow1] } := by
  unfold Dev.hevcMade
  rw [(Dev.onProxy_fields _ _).1, Dev.hevcCounted_proxy]
  rfl

@[simp] theorem Dev.hevcMade_frames : (d.hevcMade o ring flow0 flow1 want f nals).proxy.frames = (d.took o f).proxy.frames := by
  rw [Dev.hevcMade_proxy]
  rfl

@[simp] theorem Dev.hevcMade_deliveries : (d.hevcMade o ring flow0 flow1 want f nals).proxy.deliveries = d.proxy.deliveries := by
  rw [Dev.hevcMade_proxy]
  rfl

@[simp] theorem Dev.hevcMade_clk : (d.hevcMade o ring flow0 flow1 want f nals).clk = d.clk :=
  (Dev.hevcCounted_clk (d.hevcTaken o f nals) ..).trans ((d.hevcTaken_tame o f nals).same .clk (by decide))

variable {d o} in
/-- A picture more is counted. -/
theorem Dev.hevcMade_pictures (ho : o < d.proxy.outs.length) :
    ((d.hevcMade o ring flow0 flow1 want f nals).proxy.outs.getD o {}).pictures = (d.proxy.outs.getD o {}).pictures + 1 := by
  rw [Dev.hevcMade_proxy]
  exact congrArg ProxyOut.pictures ((modAt_getD _ _ _ _ _ (.inr (.inl ho))).trans (if_pos rfl))

variable {d o} in
theorem Dev.hevcMade_reg (h : d.Shape) (ho : o < 2) : (d.hevcMade o ring flow0 flow1 want f nals).reg 0x17 (outBase o + 0x24) =
    word (satAdd32 (d.reg 0x17 (outBase o + 0x24)).toNat 1) := by
  have htame := d.hevcTaken_tame o f nals
  rw [← htame.reg_eq (by decide) (by decide)]
  exact Dev.hevcCounted_reg (htame.shape h) ho _

end

/-! ### The command -/

/-- The parts that HEVC_PICTURE may change. -/
abbrev hevcParts : List Part :=
  [.clk, .seq, .stats, .commands, .events, .flt, .bbx, .sid, .link, .pools, .proxy, .feat 0x17, .feat 0x1B]

section
variable {s : State} {o : Nat} {f : DevFrame} (ho : o < 2) (hf : s.m.dev.nextFor o = some f)
include ho hf

/-- A skipped frame is taken, and no more (R209). -/
theorem execHevcPicture_of_skipped (hskip : f.skipped = true) (dt ring flow0 flow1 want : Nat) (sets timing slices : List (List Byte)) :
    execHevcPicture o dt ring flow0 flow1 want sets timing slices s = liveDev (fun d => (d.advance dt).took o f) s := by
  have hnext : (s.m.dev.advance dt).nextFor o = some f := hf
  refine liveDev_congr ((onlyIf_of_true (decide_eq_true ho) _ _).trans ?_)
  simp only [hnext, hskip, if_true]

theorem hevcPicture_skipped_yields (hskip : f.skipped = true) (hl : s.Live) (hframes : s.m.dev.FramesDiffer)
    (dt ring flow0 flow1 want : Nat) (sets timing slices : List (List Byte)) :
    Yields (.hevcPicture o dt ring flow0 flow1 want sets timing slices) s hevcParts (fun t =>
      t.m.dev.proxy.deliveries = s.m.dev.proxy.deliveries ∧ t.m.dev.proxy.outs = s.m.dev.proxy.outs ∧
      ∀ g ∈ t.m.dev.proxy.frames, g.stream = f.stream → g.frame = f.frame → o ∉ g.outs) := by
  refine yields_of_liveDev hl (execHevcPicture_of_skipped ho hf hskip ..) (execHevcPicture_framed ..) (by decide) ?_
  simp only [Dev.settle_proxy]
  exact ⟨rfl, rfl, fun g => Dev.not_mem_outs_took (d := s.m.dev.advance dt) hframes⟩

section
variable (hskip : f.skipped = false) (hwhole : f.whole = true) (hpower : s.m.dev.takesWork 6 = true) (hon : s.m.dev.outOn o = true)
  (hruns : s.m.dev.sourceRuns f.stream = true)
include hskip hwhole hpower hon hruns

/-- A whole frame of a running source gives an access unit. -/
theorem execHevcPicture_of_whole (dt ring flow0 flow1 want : Nat) (sets timing slices : List (List Byte)) :
    execHevcPicture o dt ring flow0 flow1 want sets timing slices s = liveDev (fun d0 =>
      let d := d0.advance dt
      let nals := d.hevcNals o f sets timing slices
      (d.hevcMade o ring flow0 flow1 want f nals).sendOut (d.hevcUnit o ring flow0 flow1 f nals)) s := by
  have hnext : (s.m.dev.advance dt).nextFor o = some f := hf
  have hpower' : (s.m.dev.advance dt).takesWork 6 = true := hpower
  have hon' : (s.m.dev.advance dt).outOn o = true := hon
  have hruns' : (s.m.dev.advance dt).sourceRuns f.stream = true := hruns
  refine liveDev_congr ((onlyIf_of_true (decide_eq_true ho) _ _).trans ?_)
  unfold Dev.hevcMade Dev.hevcCounted
  simp only [hnext, hskip, hwhole, hpower', hon', hruns', Bool.not_true, Bool.or_false, Bool.false_eq_true, if_false, decide_eq_true_eq]
  rfl

theorem hevcPicture_yields (hl : s.Live) (hs : s.m.dev.Shape) (houts : s.m.dev.proxy.outs.length = 3) (hframes : s.m.dev.FramesDiffer)
    (dt ring flow0 flow1 want : Nat) (sets timing slices : List (List Byte)) :
    Yields (.hevcPicture o dt ring flow0 flow1 want sets timing slices) s hevcParts (fun t => t.m.dev.clk = s.m.dev.clk + dt ∧
      (t.m.dev.proxy.outs.getD o {}).pictures = (s.m.dev.proxy.outs.getD o {}).pictures + 1 ∧
      t.m.dev.reg 0x17 (outBase o + 0x24) = word (satAdd32 (s.m.dev.reg 0x17 (outBase o + 0x24)).toNat 1) ∧
      (∀ g ∈ t.m.dev.proxy.frames, g.stream = f.stream → g.frame = f.frame → o ∉ g.outs) ∧
      (t.m.dev.proxy.deliveries = s.m.dev.proxy.deliveries ∨ ∃ v, t.m.dev.proxy.deliveries = s.m.dev.proxy.deliveries ++ [v] ∧
        v.out = o ∧ v.frame = f.frame ∧ v.at_ = f.at_ ∧ v.idr = (s.m.dev.advance dt).nextIdr o ∧
        v.parts = (if (s.m.dev.advance dt).nextIdr o then sets else []) ++ timing ++ [seiNal f.frame f.stamp] ++ slices ∧
        v.dests = hevcDests (fld (s.m.dev.reg 0x17 (outBase o)) 16 4) ring flow0 flow1)) := by
  refine yields_of_liveDev hl (execHevcPicture_of_whole ho hf hskip hwhole hpower hon hruns ..) (execHevcPicture_framed ..) (by decide) ?_
  have hshape : (s.m.dev.advance dt).Shape := hs
  have hlen : o < (s.m.dev.advance dt).proxy.outs.length := lt_of_lt_of_eq (by omega) houts.symm
  have hkey : regKey 0x17 (outBase o + 0x24) ≠ regKey 0x17 (outBase o + 0x28) := regKey_out_ne ho (by decide) (by decide) (by decide)
  simp only [Dev.settle_clk, Dev.settle_proxy, Dev.settle_reg, Dev.sendOut_clk, Dev.sendOut_frames, Dev.hevcMade_clk, Dev.hevcMade_frames]
  refine ⟨rfl, ?_, ?_, fun g => Dev.not_mem_outs_took (d := s.m.dev.advance dt) hframes, ?_⟩
  · exact (Dev.sendOut_out (g := ProxyOut.pictures) (fun _ => rfl) ..).trans (Dev.hevcMade_pictures _ _ _ _ _ _ hlen)
  · exact (Dev.sendOut_reg hkey).trans (Dev.hevcMade_reg _ _ _ _ _ _ hshape ho)
  · refine (Dev.sendOut_deliveries _ _).imp (fun h => h.trans (Dev.hevcMade_deliveries ..)) ?_
    rintro ⟨p, l, h⟩
    exact ⟨_, h.trans (by rw [Dev.hevcMade_deliveries]; rfl), rfl, rfl, rfl, rfl, rfl, rfl⟩

end

end

end Sys2Proof.Machine
end

section
/-! MONITOR_PICTURE (R209, R227 to R229): the monitor sends the picture of its next frame, or repeats the one before. -/

namespace Sys2Proof.Machine
open Sys2Proof

/-- The destinations that the monitor output names. -/
def Dev.monitorDests (d : Dev) (flow0 flow1 : Nat) : List ProxyDest := hevcDests (fld (d.reg 0x17 0x180) 14 2) 0 flow0 flow1

/-- The rows of the picture that the monitor shows of a frame: for a skipped one, those of the picture before (R209, R227). -/
def Dev.monitorRows (d : Dev) (flow0 flow1 : Nat) (f : DevFrame) : List (List Byte) :=
  if f.skipped then (d.proxy.outs.getD 2 {}).last
  else
    let (ow, oh) := d.outSize 2
    let (x, y, w, h) := d.outCrop f.width f.height 2
    let planes := f.picture (d.proxy.luts.getD f.settings.bank none) (bit (d.reg 0x17 0x004).toNat 13)
    let out := Config.scaled [1, x, y, w, h, ow, oh] f.width planes
    srdsOf ow oh (d.srdMost (d.monitorDests flow0 flow1)) ((List.range (2 * ow * oh)).map (fun i => out.getD i 0))

/-- The device once the monitor has taken frame `f` and shows these rows. -/
def Dev.monitorMade (d : Dev) (flow0 flow1 : Nat) (f : DevFrame) (rows : List (List Byte)) : Dev :=
  ((d.took 2 f).onOut 2 (fun x => { x with pictures := x.pictures + 1, last := rows })).onProxy (fun p =>
    { p with named := Tbl.set (fun _ => []) p.named 2 [0, flow0, flow1] })

/-- The unit of these rows. -/
def Dev.monitorUnit (d : Dev) (flow0 flow1 : Nat) (f : DevFrame) (rows : List (List Byte)) : Delivery :=
  { out := 2, frame := f.frame, at_ := f.at_, idr := false, pool := 0, bufs := [], parts := rows, dests := d.monitorDests flow0 flow1 }

/-- Those rows are sent, if there are any. -/
def Dev.monitorSent (d : Dev) (flow0 flow1 : Nat) (f : DevFrame) (rows : List (List Byte)) : Dev :=
  if rows.isEmpty then d.monitorMade flow0 flow1 f rows
  else (d.monitorMade flow0 flow1 f rows).sendOut (d.monitorUnit flow0 flow1 f rows)

section
variable {d : Dev} {flow0 flow1 : Nat} {f : DevFrame} {rows : List (List Byte)}

/-- The monitor keeps all but whether a destination has dropped. -/
theorem Dev.monitorSent_out {β : Type} {g : ProxyOut → β} (hg : ∀ x : ProxyOut, g { x with dropped := true } = g x) :
    g ((d.monitorSent flow0 flow1 f rows).proxy.outs.getD 2 {}) = g ((d.monitorMade flow0 flow1 f rows).proxy.outs.getD 2 {}) := by
  unfold Dev.monitorSent
  split
  · rfl
  · exact Dev.sendOut_out hg ..

theorem Dev.monitorMade_out (h : 2 < d.proxy.outs.length) : (d.monitorMade flow0 flow1 f rows).proxy.outs.getD 2 {} =
    { d.proxy.outs.getD 2 {} with pictures := (d.proxy.outs.getD 2 {}).pictures + 1, last := rows } :=
  (modAt_getD _ _ _ _ _ (.inr (.inl h))).trans (if_pos rfl)

theorem Dev.monitorSent_deliveries : (d.monitorSent flow0 flow1 f rows).proxy.deliveries = d.proxy.deliveries ∨
    ∃ p l, (d.monitorSent flow0 flow1 f rows).proxy.deliveries =
      d.proxy.deliveries ++ [{ d.monitorUnit flow0 flow1 f rows with pool := p, bufs := l }] := by
  unfold Dev.monitorSent
  split
  · exact .inl rfl
  · exact Dev.sendOut_deliveries ..

end

/-- The parts that MONITOR_PICTURE may change. -/
abbrev monitorParts : List Part :=
  [.seq, .stats, .commands, .events, .flt, .bbx, .link, .pools, .proxy, .feat 0x17, .feat 0x1B]

section
variable {s : State} {f : DevFrame} (hf : s.m.dev.nextFor 2 = some f) (hready : f.whole = true ∨ f.skipped = true)
  (hpower : s.m.dev.takesWork 6 = true) (hon : s.m.dev.outOn 2 = true) (hruns : s.m.dev.sourceRuns f.stream = true)
include hf hready hpower hon hruns

/-- The monitor makes the picture of a whole or skipped frame of a running source. -/
theorem execMonitorPicture_of_ready (flow0 flow1 : Nat) : execMonitorPicture flow0 flow1 s =
    liveDev (fun d => d.monitorSent flow0 flow1 f (d.monitorRows flow0 flow1 f)) s := by
  have hshow : (f.whole || f.skipped) = true := Bool.or_eq_true_iff.2 hready
  refine liveDev_congr ?_
  simp only [hf, hshow, hpower, hon, hruns, Bool.not_true, Bool.or_false, Bool.false_eq_true, if_false]
  rfl

theorem monitorPicture_yields (hl : s.Live) (houts : s.m.dev.proxy.outs.length = 3) (flow0 flow1 : Nat) :
    Yields (.monitorPicture flow0 flow1) s monitorParts (fun t =>
      (t.m.dev.proxy.outs.getD 2 {}).pictures = (s.m.dev.proxy.outs.getD 2 {}).pictures + 1 ∧
      (f.skipped = true → (t.m.dev.proxy.outs.getD 2 {}).last = (s.m.dev.proxy.outs.getD 2 {}).last) ∧
      (t.m.dev.proxy.deliveries = s.m.dev.proxy.deliveries ∨ ∃ v, t.m.dev.proxy.deliveries = s.m.dev.proxy.deliveries ++ [v] ∧
        v.out = 2 ∧ v.frame = f.frame ∧ v.at_ = f.at_ ∧ v.parts = (t.m.dev.proxy.outs.getD 2 {}).last ∧
        v.dests = hevcDests (fld (s.m.dev.reg 0x17 0x180) 14 2) 0 flow0 flow1)) := by
  refine yields_of_liveDev hl (execMonitorPicture_of_ready hf hready hpower hon hruns flow0 flow1) (execMonitorPicture_framed ..)
    (by decide) ?_
  have hlen : 2 < s.m.dev.proxy.outs.length := by omega
  simp only [Dev.settle_proxy, Dev.monitorSent_out (g := ProxyOut.pictures) (fun _ => rfl),
    Dev.monitorSent_out (g := ProxyOut.last) (fun _ => rfl), Dev.monitorMade_out hlen]
  refine ⟨trivial, fun hskip => if_pos hskip, Dev.monitorSent_deliveries.imp_right ?_⟩
  rintro ⟨p, l, h⟩
  exact ⟨_, h, rfl, rfl, rfl, rfl, rfl⟩

end

/-- Settles O54: a band by the frame that is read next, a picture by what its output makes of the frame that it takes. -/
theorem proxyPictures : Obligations.ProxyPictures := by
  intro s hl hs houts hframes
  refine ⟨?_, ?_, ?_, ?_⟩
  · exact fun f w tk hf hw hworks hnext hon hstaged hhold => developBand_yields hf hw hnext hon hstaged hhold hl hframes hworks
  · rintro o dt ring flow0 flow1 want sets timing slices d f ho rfl hf hskip hwhole hpower hon hruns
    exact hevcPicture_yields ho hf hskip hwhole hpower hon hruns hl hs houts hframes ..
  · exact fun o dt ring flow0 flow1 want sets timing slices f ho hf hskip => hevcPicture_skipped_yields ho hf hskip hl hframes ..
  · exact fun flow0 flow1 f hf hready hpower hon hruns => monitorPicture_yields hf hready hpower hon hruns hl houts flow0 flow1

end Sys2Proof.Machine
end

section
/-! Words, handlers, waits and events of the codec sequencer (R236 to R245, R251), and UCODE_LOAD (R247, R249, R250, R437). -/

namespace Sys2Proof.Machine
open Sys2Proof

/-! ### Threads -/

/-- A thread is read from the sequencer alone. -/
theorem Dev.thread_of_seqr {d d' : Dev} (h : d'.seqr = d.seqr) (k : Nat) : d'.thread k = d.thread k :=
  congrArg (fun q : Sequencer => q.threads.getD k {}) h

@[simp] theorem Dev.settle_thread (d : Dev) (k : Nat) : d.settle.thread k = d.thread k := Dev.thread_of_seqr d.settle_seqr k

@[simp] theorem Dev.onThread_threads_length (d : Dev) (t : Nat) (f : SeqThread → SeqThread) :
    (d.onThread t f).seqr.threads.length = d.seqr.threads.length := modAt_length ..

section
variable {d : Dev} {k : Nat}

/-- A thread that does not read as an absent one is one that the sequencer has. -/
theorem Dev.lt_of_thread {β : Type} (g : SeqThread → β) {x : β} (h : g (d.thread k) = x) (hx : g {} ≠ x) :
    k < d.seqr.threads.length :=
  lt_length_of_getD_ne fun he => hx ((congrArg g he).symm.trans h)

theorem Dev.lt_of_thread_pc {a : Nat} (h : (d.thread k).pc = some a) : k < d.seqr.threads.length :=
  Dev.lt_of_thread SeqThread.pc h nofun

/-- A thread that is changed. -/
theorem Dev.thread_onThread_same (h : k < d.seqr.threads.length) (f : SeqThread → SeqThread) :
    (d.onThread k f).thread k = f (d.thread k) :=
  (modAt_getD d.seqr.threads k k f {} (.inr (.inl h))).trans (if_pos rfl)

end

theorem modAt_id {α : Type} (l : List α) (i : Nat) : modAt l i (fun x => x) = l := by
  induction l generalizing i with
  | nil => rfl
  | cons x r ih =>
    cases i with
    | zero => rfl
    | succ i => exact congrArg (x :: ·) (ih i)

/-- A change that changes nothing. -/
theorem Dev.onThread_id (d : Dev) (t : Nat) : d.onThread t (fun x => x) = d :=
  congrArg (fun l => { d with seqr := { d.seqr with threads := l } }) (modAt_id d.seqr.threads t)

/-! ### What decisions do to handlers (R243, R244) -/

/-- All of a thread but the events that wait for it. -/
def SeqThread.handler (x : SeqThread) : SeqThread := { x with events := [] }

/-- From one device to the other the sequencer is only told of events: no handler starts, moves on or ends. -/
structure Dev.OnlyPosts (d d' : Dev) : Prop where
  handler : ∀ k, (d'.thread k).handler = (d.thread k).handler

namespace Dev.OnlyPosts

variable {a b c : Dev}

theorem of_seqr (h : b.seqr = a.seqr) : a.OnlyPosts b := ⟨fun k => congrArg SeqThread.handler (Dev.thread_of_seqr h k)⟩

theorem of_tame {ps : Nat} (h : Dev.Tame ps a b) (hp : ps.testBit 45 = false) : a.OnlyPosts b :=
  .of_seqr (h.same .seqr hp)

theorem refl (d : Dev) : d.OnlyPosts d := .of_seqr rfl

theorem trans (h : a.OnlyPosts b) (g : b.OnlyPosts c) : a.OnlyPosts c :=
  ⟨fun k => (g.handler k).trans (h.handler k)⟩

theorem ite {p : Prop} [Decidable p] (h : a.OnlyPosts b) (g : a.OnlyPosts c) : a.OnlyPosts (if p then b else c) := by
  split <;> assumption

theorem ite_mach {p : Prop} [Decidable p] {m n : Mach} (h : a.OnlyPosts m.dev) (g : a.OnlyPosts n.dev) :
    a.OnlyPosts (if p then m else n).dev := by
  split <;> assumption

/-- What a thread does is the same in both. -/
theorem thread (h : a.OnlyPosts b) (k : Nat) : (b.thread k).pc = (a.thread k).pc ∧ (b.thread k).cur = (a.thread k).cur ∧
    (b.thread k).stack = (a.thread k).stack ∧ (b.thread k).waitAt = (a.thread k).waitAt :=
  have hk := h.handler k
  ⟨(congrArg SeqThread.pc hk :), (congrArg SeqThread.cur hk :), (congrArg SeqThread.stack hk :), (congrArg SeqThread.waitAt hk :)⟩

end Dev.OnlyPosts

theorem Dev.bump_onlyPosts (d : Dev) (feat o n : Nat) : d.OnlyPosts (d.bump feat o n) := .of_seqr rfl

theorem Dev.seqPost_onlyPosts (d : Dev) (t : Nat) (e : SeqEvent) : d.OnlyPosts (d.seqPost t e) :=
  ⟨fun k => modAt_getD_congr (g := SeqThread.handler) (f := fun x => { x with events := x.events ++ [e] }) (fun _ => rfl)
    d.seqr.threads t k {}⟩

theorem Dev.onBand_onlyPosts (d : Dev) (r : BandRef) (f : Band → Band) : d.OnlyPosts (d.onBand r f) :=
  .of_tame (Dev.onBand_tame (ps := setOf [.caps]) (by decide) (.refl _ d) r f) (by decide)

theorem Dev.askBand_onlyPosts (d : Dev) (r : BandRef) (op arg : Nat) (dec : Decision) : d.OnlyPosts (d.askBand r op arg dec) :=
  (d.onBand_onlyPosts r _).trans (Dev.seqPost_onlyPosts _ _ _)

theorem Dev.pump_onlyPosts (d : Dev) (e : Nat) : d.OnlyPosts (d.pump e) :=
  .of_tame (Dev.pump_tame (ps := setOf [.caps, .codec, .feat 0x16]) (by decide) (.refl _ d) e) (by decide)

theorem Dev.toEclipse_onlyPosts (d : Dev) (r : BandRef) (cause : Nat) : d.OnlyPosts (d.toEclipse r cause) :=
  .of_tame (Dev.toEclipse_tame (ps := setOf [.caps, .codec]) (by decide) (.refl _ d) r cause) (by decide)

theorem Dev.secondAttempt_onlyPosts (d : Dev) (r : BandRef) (x : Nat) (req : Option Nat) : d.OnlyPosts (d.secondAttempt r x req) :=
  .of_tame (Dev.secondAttempt_tame (ps := setOf [.caps, .codec, .feat 0x14, .feat 0x16]) (by decide) (.refl _ d) r x req)
    (by decide)

/-- An attempt that starts may ask the handler of its band for δ. -/
theorem Mach.attemptStart_onlyPosts (m : Mach) (e : Nat) : m.dev.OnlyPosts (m.attemptStart e).dev := by
  unfold Mach.attemptStart
  dsimp only
  refine .ite_mach (.refl _) ?_
  split
  next => exact .refl _
  next r _ =>
    split
    next => exact .refl _
    next w b _ =>
      refine .ite_mach (.refl _) (.ite_mach ?_ (.ite_mach (Dev.askBand_onlyPosts ..) ?_))
      · exact (Dev.toEclipse_onlyPosts ..).trans (Dev.pump_onlyPosts ..)
      · exact .of_tame (Mach.startAttempt_tame_dev (ps := setOf [.free, .seq, .stats, .commands, .events, .flt, .twk, .bbx, .link,
          .dram, .caps, .codec, .sent, .feat 0x14, .feat 0x1E]) (by decide) (.refl _ m.dev) ..) (by decide)

/-- A measured band may need the handler's word on its second attempt. -/
theorem Dev.measureDecided_onlyPosts (d : Dev) (r : BandRef) (size : Nat) (req : Option Nat) :
    d.OnlyPosts (d.measureDecided r size req) := by
  have hset (x : Dev) : x.OnlyPosts (x.allowSet r req) :=
    .of_tame (Dev.allowSet_tame (ps := setOf [.caps, .codec, .feat 0x14]) (by decide) (.refl _ x) r req) (by decide)
  have heclipse (x : Dev) (cause e : Nat) : x.OnlyPosts ((x.toEclipse r cause).pump e) :=
    (x.toEclipse_onlyPosts r cause).trans (Dev.pump_onlyPosts ..)
  unfold Dev.measureDecided
  refine ((d.onBand_onlyPosts r (fun b => { b with asked := false })).trans (hset _)).trans ?_
  dsimp only
  split
  next => exact .refl _
  next w b _ =>
    split
    next => exact (Dev.onBand_onlyPosts ..).trans (Dev.pump_onlyPosts ..)
    next => exact .ite (Dev.askBand_onlyPosts ..) (Dev.secondAttempt_onlyPosts ..)
    next => exact heclipse ..
    next => exact heclipse ..

/-- A decision starts no handler: what it asks of one waits as an event (R243). -/
theorem Mach.decided_onlyPosts (m : Mach) (dec : Decision) (q : Requests) : m.dev.OnlyPosts (m.decided dec q).dev := by
  unfold Mach.decided
  dsimp only
  cases dec with
  | bandStart r =>
    refine .ite_mach (.trans ?_ (Mach.attemptStart_onlyPosts ..)) (.refl _)
    exact Dev.onBand_onlyPosts ..
  | measure r size => exact .ite_mach ((Dev.measureDecided_onlyPosts ..).trans (Dev.pump_onlyPosts ..)) (.refl _)
  | overshoot r size x => exact .ite_mach (Dev.secondAttempt_onlyPosts ..) (.refl _)
  | eclipse r fresh =>
    refine .ite_mach (.trans ?_ (Dev.pump_onlyPosts ..)) (.refl _)
    exact .of_tame (Mach.eclipseDecided_tame_dev (ps := setOf [.free, .seq, .stats, .commands, .events, .flt, .twk, .bbx, .link,
      .dram, .caps, .codec, .sent, .feat 0x14, .feat 0x1E]) (by decide) (.refl _ m.dev) ..) (by decide)
  | statistics st n =>
    dsimp only
    split
    next => exact .refl _
    next w _ =>
      refine .ite_mach (.refl _) ?_
      dsimp only
      refine .of_tame (Dev.pumpAll_tame (ps := setOf [.caps, .codec, .feat 0x14, .feat 0x16]) (by decide)
        (Dev.divide_tame (by decide) ?_ ..)) (by decide)
      exact Dev.tame_foldl (.refl _ _) fun _ _ h => Dev.countClamp_tame (by decide) h ..

/-! ### A handler that ends (R244, R245) -/

/-- Thread `t` without its handler, before the decision of the handler is taken. -/
def Dev.handlerLeft (d : Dev) (t : Nat) (forced : Bool) (left : Requests) : Dev :=
  let d1 := d.onThread t (fun x => { x with pc := none, cur := none, count := 0, waitAt := none, stack := [], req := left })
  if forced then (d1.bump 0x19 0x44).raise 403 t else d1

/-- Past that the end of a handler is at most its decision. -/
theorem Mach.endHandler_eq (m : Mach) (t : Nat) (forced : Bool) : ∃ left,
    m.endHandler t forced = { m with dev := m.dev.handlerLeft t forced left } ∨
    ∃ dec q, m.endHandler t forced = Mach.decided { m with dev := m.dev.handlerLeft t forced left } dec q := by
  unfold Mach.endHandler Dev.handlerLeft
  dsimp only
  cases (m.dev.thread t).cur.bind (fun e => e.dec) with
  | none => exact ⟨_, .inl rfl⟩
  | some dec => exact ⟨_, .inr ⟨dec, _, rfl⟩⟩

/-- The decision posts events and leaves the registers of the sequencer. -/
theorem Mach.endHandler_of_handlerLeft (m : Mach) (t : Nat) (forced : Bool) : ∃ left,
    (m.dev.handlerLeft t forced left).OnlyPosts (m.endHandler t forced).dev ∧
    Dev.Tame (setOf [.free, .seq, .stats, .commands, .events, .flt, .twk, .bbx, .link, .dram, .caps, .codec, .seqr, .sent,
      .feat 0x14, .feat 0x16, .feat 0x1E]) (m.dev.handlerLeft t forced left) (m.endHandler t forced).dev := by
  obtain ⟨left, h | ⟨dec, q, h⟩⟩ := m.endHandler_eq t forced <;> rw [h]
  · exact ⟨left, .refl _, .refl _ _⟩
  · exact ⟨left, Mach.decided_onlyPosts { m with dev := m.dev.handlerLeft t forced left } dec q,
      Mach.decided_tame_dev (X := { m with dev := m.dev.handlerLeft t forced left }) (by decide) (.refl _ _) dec q⟩

theorem Dev.raise_tame_self (d : Dev) (src arg : Nat) :
    Dev.Tame (setOf [.free, .seq, .stats, .commands, .events, .flt, .twk, .bbx, .link, .sent]) d (d.raise src arg) :=
  Dev.raise_tame (by decide) (.refl _ d) src arg

/-- The sources of a fault leave the sequencer. -/
theorem Dev.raise_onlyPosts (d : Dev) (src arg : Nat) : d.OnlyPosts (d.raise src arg) :=
  .of_tame (d.raise_tame_self src arg) (by decide)

/-- A handler that has ended leaves its thread idle (R244, R245). -/
theorem Mach.endHandler_thread {m : Mach} {t : Nat} (h : t < m.dev.seqr.threads.length) (forced : Bool) :
    ((m.endHandler t forced).dev.thread t).pc = none ∧ ((m.endHandler t forced).dev.thread t).cur = none ∧
    ((m.endHandler t forced).dev.thread t).stack = [] ∧ ((m.endHandler t forced).dev.thread t).waitAt = none := by
  obtain ⟨left, hposts, -⟩ := m.endHandler_of_handlerLeft t forced
  have hleft : Dev.OnlyPosts (m.dev.onThread t (fun x =>
      { x with pc := none, cur := none, count := 0, waitAt := none, stack := [], req := left })) (m.dev.handlerLeft t forced left) :=
    .ite ((Dev.bump_onlyPosts ..).trans (Dev.raise_onlyPosts ..)) (.refl _)
  obtain ⟨hpc, hcur, hstack, hwait⟩ := (hleft.trans hposts).thread t
  rw [hpc, hcur, hstack, hwait, Dev.thread_onThread_same h]
  exact ⟨rfl, rfl, rfl, rfl⟩

/-- A forced end is counted (R245). -/
theorem Mach.endHandler_forced_reg {m : Mach} (hs : m.dev.Shape) (t : Nat) :
    (m.endHandler t true).dev.reg 0x19 0x44 = word (satAdd32 (m.dev.reg 0x19 0x44).toNat 1) := by
  obtain ⟨left, -, htame⟩ := m.endHandler_of_handlerLeft t true
  rw [htame.reg_eq (by decide) (by decide)]
  unfold Dev.handlerLeft
  rw [if_pos rfl, (Dev.raise_tame_self ..).reg_eq (by decide) (by decide), Dev.reg_bump (d := m.dev.onThread t _) hs]
  rfl

/-! ### Nano-words (R238 to R240) -/

/-- A nano-word with slot 1 empty, and slot 0 empty or writing a register, appends to no metadata item (R240, R241). -/
theorem nanoMeta_of_dst {n : Nat} (h0 : nanoSlot n 0 = 0 ∨ slotDst (nanoSlot n 0) < 16) (h1 : nanoSlot n 1 = 0) :
    nanoMeta n = false := by
  have hop : slotOp 0 = 0 := rfl
  unfold nanoMeta
  rcases h0 with h0 | h0
  · simp [h0, h1, hop]
  · have hdst : slotDst (nanoSlot n 0) ≠ 22 := by omega
    simp [h1, hop, hdst]

section
variable {d : Dev} {n : Nat} (h1 : nanoSlot n 1 = 0)
include h1

/-- Empty slots do nothing. -/
theorem Dev.runNano_of_empty (h0 : nanoSlot n 0 = 0) (k : Nat) : d.runNano k n = d := by
  have hop (a b dv : Nat) : slotRun (slotOp 0) a b dv = none := rfl
  unfold Dev.runNano Dev.slotResults
  simp only [h0, h1, hop, ite_self, Option.map_none, List.foldl_nil]

/-- Slot 0 alone writes its register, and the flags of its result (R238, R240). -/
theorem Dev.runNano_of_slot0 {k : Nat} {x : SlotResult} (hflags : bit n 146 = false) (hdst : slotDst (nanoSlot n 0) < 16)
    (hx : slotRun (slotOp (nanoSlot n 0)) (d.operand k (slotA (nanoSlot n 0)) (slotImm (nanoSlot n 0)))
      (d.operand k (slotB (nanoSlot n 0)) (slotImm (nanoSlot n 0)))
      ((d.thread k).regs.getD (slotImm (nanoSlot n 0) % 16) 0).toNat = some x) :
    d.runNano k n = (d.onThread k (fun y => { y with regs := modAt y.regs (slotDst (nanoSlot n 0)) (fun _ => word x.value) })).onThread k
      (fun y => y.setFlags x) := by
  have hop (a b dv : Nat) : slotRun (slotOp 0) a b dv = none := rfl
  unfold Dev.runNano Dev.slotResults Dev.writeDst
  simp only [hflags, h1, hop, hx, Bool.false_eq_true, if_false, Option.map_none, Option.map_some, List.foldl_cons, List.foldl_nil, hdst,
    if_true]

end

/-! ### Micro-words (R236, R237) -/

/-- The nano-word of the micro-word at an address. -/
abbrev Dev.nanoOf (d : Dev) (a : Nat) : Nat := d.nano (microNano (d.micro a))

/-- The part of a word before the next address: what ends of a wait, the nano-word, and the count. -/
def Dev.wordDone (d : Dev) (t a : Nat) : Dev :=
  ((d.waitEnds t (d.micro a)).runNano t (d.nanoOf a)).onThread t
    (fun x => { x with count := x.count + 1, waitAt := none })

/-- Whether a word whose NEXT is `c`, at most 4, goes to its TARGET, its nano-word leaving the thread as `x` (R236). -/
def Dev.branches (d : Dev) (t w c : Nat) (x : SeqThread) : Bool :=
  match c with
  | 1 => true
  | 2 => x.neg
  | 3 => x.zero
  | 4 => d.condition t (microWait w)
  | _ => false

/-- The address that follows a word that neither calls nor ends (R236). -/
def Dev.nextAddr (d : Dev) (t a : Nat) (x : SeqThread) : Nat :=
  if d.branches t (d.micro a) (microNext (d.micro a)) x then nanoTarget (d.nanoOf a) else (a + 1) % 2 ^ 13

theorem nanoTarget_mod (n : Nat) : nanoTarget n % 2 ^ 13 = nanoTarget n := Nat.mod_mod ..

section
variable {m : Mach} {t a : Nat}

theorem Mach.runWord_of_le_four (h : microNext (m.dev.micro a) ≤ 4) : m.runWord t a =
    { m with dev := (m.dev.wordDone t a).onThread t (fun x => { x with
      pc := some (m.dev.nextAddr t a ((m.dev.wordDone t a).thread t)) }) } := by
  have hmod (p : Prop) [Decidable p] (x y : Nat) : (if p then x else y) % 2 ^ 13 = if p then x % 2 ^ 13 else y % 2 ^ 13 :=
    apply_ite (· % 2 ^ 13) ..
  unfold Mach.runWord Dev.nextAddr Dev.branches
  obtain h | h | h | h | h : microNext (m.dev.micro a) = 0 ∨ microNext (m.dev.micro a) = 1 ∨ microNext (m.dev.micro a) = 2 ∨
      microNext (m.dev.micro a) = 3 ∨ microNext (m.dev.micro a) = 4 := by omega
  all_goals
    simp only [h, hmod, nanoTarget_mod, if_true, Bool.false_eq_true, if_false]
    rfl

theorem Mach.runWord_of_call (h : microNext (m.dev.micro a) = 5) (hs : ((m.dev.wordDone t a).thread t).stack.length < 4) :
    m.runWord t a = { m with dev := (m.dev.wordDone t a).onThread t (fun x => { x with
      stack := (a + 1) :: x.stack, pc := some (nanoTarget (m.dev.nanoOf a)) }) } := by
  unfold Mach.runWord
  simp only [h]
  exact if_neg (Nat.not_le.2 hs)

theorem Mach.runWord_of_ret {p : Nat} {r : List Nat} (h : microNext (m.dev.micro a) = 6)
    (hs : ((m.dev.wordDone t a).thread t).stack = p :: r) :
    m.runWord t a = { m with dev := (m.dev.wordDone t a).onThread t (fun x => { x with stack := r, pc := some p }) } := by
  unfold Mach.runWord Dev.wordDone at *
  simp only [h, hs]

theorem Mach.runWord_of_end (h : microNext (m.dev.micro a) = 7) :
    m.runWord t a = Mach.endHandler { m with dev := m.dev.wordDone t a } t false := by
  unfold Mach.runWord
  simp only [h]
  rfl

/-- A thread that does not wait, with micro-words left, issues its word at once (R236, R237). -/
theorem Mach.issue_of_ready (hpc : (m.dev.thread t).pc = some a) (hwait : (m.dev.thread t).waitAt = none)
    (hcount : (m.dev.thread t).count < (m.dev.thread t).limit t)
    (hcond : microWait (m.dev.micro a) = 0 ∨ microNext (m.dev.micro a) = 4)
    (hmeta : nanoMeta (m.dev.nanoOf a) = false) :
    m.issue t (microNext (m.dev.micro a)) 0 = m.runWord t a := by
  have hready : m.dev.wordReady t (m.dev.micro a) = true := by
    unfold Dev.wordReady
    rcases hcond with h | h <;> simp [h, hmeta, Dev.condition]
  unfold Mach.issue
  simp only [hpc, hwait]
  rw [if_neg (by simp [hcount]), if_neg (by decide), if_neg (by decide), if_neg (by omega), if_pos hready]

end

/-- A word that waits on nothing ends no wait. -/
theorem Dev.waitEnds_of_none (d : Dev) (t : Nat) {w : Nat} (h : microWait w = 0 ∨ microNext w = 4) : d.waitEnds t w = d := by
  unfold Dev.waitEnds
  dsimp only
  split
  next => rfl
  next hne =>
    rw [h.resolve_right hne]
    exact d.onThread_id t

/-- A word whose slots are empty only ends its wait and is counted. -/
theorem Dev.wordDone_of_empty {d : Dev} {a : Nat} (h0 : nanoSlot (d.nanoOf a) 0 = 0)
    (h1 : nanoSlot (d.nanoOf a) 1 = 0) (t : Nat) : d.wordDone t a =
    (d.waitEnds t (d.micro a)).onThread t (fun x => { x with count := x.count + 1, waitAt := none }) := by
  unfold Dev.wordDone
  rw [Dev.runNano_of_empty h1 h0]

section
variable {d : Dev} {k a : Nat} (hcond : microWait (d.micro a) = 0 ∨ microNext (d.micro a) = 4)
  (h0 : nanoSlot (d.nanoOf a) 0 = 0) (h1 : nanoSlot (d.nanoOf a) 1 = 0)
include hcond h0 h1

theorem Dev.wordDone_threads_length_of_empty : (d.wordDone k a).seqr.threads.length = d.seqr.threads.length := by
  rw [Dev.wordDone_of_empty h0 h1, Dev.waitEnds_of_none _ _ hcond, Dev.onThread_threads_length]

/-- The thread after an empty word that waited on nothing, before its next address. -/
theorem Dev.wordDone_thread_of_empty (h : k < d.seqr.threads.length) :
    (d.wordDone k a).thread k = { d.thread k with count := (d.thread k).count + 1, waitAt := none } := by
  rw [Dev.wordDone_of_empty h0 h1, Dev.waitEnds_of_none _ _ hcond, Dev.thread_onThread_same h]

/-- What a change of the thread then leaves of it. -/
theorem Dev.wordDone_onThread_of_empty (h : k < d.seqr.threads.length) (f : SeqThread → SeqThread) :
    ((d.wordDone k a).onThread k f).thread k = f { d.thread k with count := (d.thread k).count + 1, waitAt := none } := by
  rw [Dev.thread_onThread_same (by rw [Dev.wordDone_threads_length_of_empty hcond h0 h1]; exact h),
    Dev.wordDone_thread_of_empty hcond h0 h1 h]

end

/-! ### The words -/

/-- What a command of the sequencer may change. -/
abbrev seqrParts : List Part :=
  [.seq, .stats, .commands, .events, .flt, .bbx, .link, .dram, .caps, .codec, .seqr, .feat 0x14, .feat 0x16, .feat 0x19, .feat 0x1E]

/-- The same as a set, with what settles. -/
abbrev seqrSet : Nat :=
  setOf [.free, .seq, .stats, .commands, .events, .msix, .flt, .intr, .twk, .bbx, .link, .dram, .caps, .codec, .seqr, .sent,
    .feat 0x14, .feat 0x16, .feat 0x19, .feat 0x1E]

theorem Yields.mono {i : Instr} {s : State} {ps : List Part} {P Q : State → Prop} (h : Yields i s ps P) (hPQ : ∀ t, P t → Q t) :
    Yields i s ps Q := by
  obtain ⟨t, hexec, hP, hrest⟩ := h
  exact ⟨t, hexec, hPQ t hP, hrest⟩

section
variable {s : State} {k a : Nat} (hl : s.Live) (hpc : (s.m.dev.thread k).pc = some a)
  (hwait : (s.m.dev.thread k).waitAt = none) (hcount : (s.m.dev.thread k).count < (s.m.dev.thread k).limit k)
  (hcond : microWait (s.m.dev.micro a) = 0 ∨ microNext (s.m.dev.micro a) = 4)
include hl hpc hwait hcount hcond

/-- A command that issues a word runs the word, where its thread stands before it and it is ready. -/
theorem issue_yields {i : Instr} {c : Nat} {P : State → Prop} (hexec : exec i s = live (fun m => m.issue k c 0) s)
    (hf : Framed seqrSet (setOf []) s (exec i s)) (hnext : microNext (s.m.dev.micro a) = c)
    (hmeta : nanoMeta (s.m.dev.nanoOf a) = false)
    (hP : P { s with m := { s.m.runWord k a with dev := (s.m.runWord k a).dev.settle } }) : Yields i s seqrParts P := by
  subst hnext
  refine yields_of_live hl hexec hf (by decide) ?_
  dsimp only
  rw [Mach.issue_of_ready hpc hwait hcount hcond hmeta]
  exact hP

section
variable (h0 : nanoSlot (s.m.dev.nanoOf a) 0 = 0) (h1 : nanoSlot (s.m.dev.nanoOf a) 1 = 0)
include h0 h1

/-- CONT, JUMP and the branches (R236). -/
theorem branch_yields {i : Instr} {c : Nat} (hexec : exec i s = live (fun m => m.issue k c 0) s)
    (hf : Framed seqrSet (setOf []) s (exec i s)) (hnext : microNext (s.m.dev.micro a) = c) (hc : c ≤ 4) :
    Yields i s seqrParts (fun t =>
      (t.m.dev.thread k).pc = some (if s.m.dev.branches k (s.m.dev.micro a) c (s.m.dev.thread k)
        then nanoTarget (s.m.dev.nanoOf a) else (a + 1) % 2 ^ 13) ∧
      (t.m.dev.thread k).count = (s.m.dev.thread k).count + 1 ∧ (t.m.dev.thread k).regs = (s.m.dev.thread k).regs) := by
  have hlt := Dev.lt_of_thread_pc hpc
  refine issue_yields hl hpc hwait hcount hcond hexec hf hnext (nanoMeta_of_dst (.inl h0) h1) ?_
  subst hnext
  dsimp only
  rw [Mach.runWord_of_le_four hc, Dev.settle_thread, Dev.wordDone_onThread_of_empty hcond h0 h1 hlt,
    Dev.wordDone_thread_of_empty hcond h0 h1 hlt]
  exact ⟨rfl, rfl, rfl⟩

/-- CALL, the call stack not full (R236). -/
theorem call_yields (hnext : microNext (s.m.dev.micro a) = 5) (hstack : (s.m.dev.thread k).stack.length < 4) :
    Yields (.call k 0) s seqrParts (fun t =>
      (t.m.dev.thread k).pc = some (nanoTarget (s.m.dev.nanoOf a)) ∧
      (t.m.dev.thread k).stack = (a + 1) :: (s.m.dev.thread k).stack) := by
  have hlt := Dev.lt_of_thread_pc hpc
  refine issue_yields hl hpc hwait hcount hcond rfl (execCall_framed ..) hnext (nanoMeta_of_dst (.inl h0) h1) ?_
  dsimp only
  rw [Mach.runWord_of_call hnext (by rw [Dev.wordDone_thread_of_empty hcond h0 h1 hlt]; exact hstack), Dev.settle_thread,
    Dev.wordDone_onThread_of_empty hcond h0 h1 hlt]
  exact ⟨rfl, rfl⟩

/-- RET, the call stack not empty (R236). -/
theorem ret_yields {p : Nat} {r : List Nat} (hnext : microNext (s.m.dev.micro a) = 6)
    (hstack : (s.m.dev.thread k).stack = p :: r) :
    Yields (.ret k 0) s seqrParts (fun t => (t.m.dev.thread k).pc = some p ∧ (t.m.dev.thread k).stack = r) := by
  have hlt := Dev.lt_of_thread_pc hpc
  refine issue_yields hl hpc hwait hcount hcond rfl (execRet_framed ..) hnext (nanoMeta_of_dst (.inl h0) h1) ?_
  dsimp only
  rw [Mach.runWord_of_ret hnext (by rw [Dev.wordDone_thread_of_empty hcond h0 h1 hlt]; exact hstack), Dev.settle_thread,
    Dev.wordDone_onThread_of_empty hcond h0 h1 hlt]
  exact ⟨rfl, rfl⟩

/-- END: the thread is idle, whatever decision its handler takes (R236, R244). R236 does not say that END empties the call stack: the
model takes that from the forced ends of R245. -/
theorem seqEnd_yields (hnext : microNext (s.m.dev.micro a) = 7) : Yields (.seqEnd k 0) s seqrParts (fun t =>
    (t.m.dev.thread k).pc = none ∧ (t.m.dev.thread k).cur = none ∧ (t.m.dev.thread k).stack = []) := by
  refine issue_yields hl hpc hwait hcount hcond rfl (execSeqEnd_framed ..) hnext (nanoMeta_of_dst (.inl h0) h1) ?_
  dsimp only
  rw [Mach.runWord_of_end hnext, Dev.settle_thread]
  obtain ⟨hpc', hcur, hstack, -⟩ := Mach.endHandler_thread (m := { s.m with dev := s.m.dev.wordDone k a })
    (by rw [Dev.wordDone_threads_length_of_empty hcond h0 h1]; exact Dev.lt_of_thread_pc hpc) false
  exact ⟨hpc', hcur, hstack⟩

end

/-- CONT of a nano-word whose slot 0 writes a register: the register, and the flags that its operation names (R238 to R240). That
the other flags stay is the model's choice. -/
theorem cont_yields_of_slot0 {n : Nat} {x : SlotResult} (hnext : microNext (s.m.dev.micro a) = 0) (hn : s.m.dev.nanoOf a = n)
    (h1 : nanoSlot n 1 = 0) (hflags : bit n 146 = false) (hdst : slotDst (nanoSlot n 0) < 16)
    (hx : slotRun (slotOp (nanoSlot n 0)) (s.m.dev.operand k (slotA (nanoSlot n 0)) (slotImm (nanoSlot n 0)))
      (s.m.dev.operand k (slotB (nanoSlot n 0)) (slotImm (nanoSlot n 0)))
      ((s.m.dev.thread k).regs.getD (slotImm (nanoSlot n 0) % 16) 0).toNat = some x) :
    Yields (.cont k 0) s seqrParts (fun t => (t.m.dev.thread k).pc = some ((a + 1) % 2 ^ 13) ∧
      (t.m.dev.thread k).regs = modAt (s.m.dev.thread k).regs (slotDst (nanoSlot n 0)) (fun _ => word x.value) ∧
      (t.m.dev.thread k).zero = decide (x.value = 0) ∧ (t.m.dev.thread k).carry = x.carry.getD (s.m.dev.thread k).carry ∧
      (t.m.dev.thread k).neg = x.neg.getD (s.m.dev.thread k).neg ∧
      (t.m.dev.thread k).divz = x.divz.getD (s.m.dev.thread k).divz) := by
  subst hn
  have hlt := Dev.lt_of_thread_pc hpc
  refine issue_yields hl hpc hwait hcount hcond rfl (execCont_framed ..) hnext (nanoMeta_of_dst (.inr hdst) h1) ?_
  dsimp only
  rw [Mach.runWord_of_le_four (by omega), Dev.settle_thread]
  unfold Dev.wordDone
  rw [Dev.waitEnds_of_none _ _ hcond, Dev.runNano_of_slot0 h1 hflags hdst hx]
  simp only [Dev.thread_onThread_same, Dev.onThread_threads_length, hlt]
  unfold Dev.nextAddr
  rw [hnext]
  exact ⟨rfl, rfl, rfl, rfl, rfl, rfl⟩

end

/-- SEQ_DISPATCH of an event whose entry a loaded image names (R243). -/
theorem seqDispatch_yields {s : State} {k a : Nat} {e : SeqEvent} {r : List SeqEvent} (hl : s.Live)
    (hpc : (s.m.dev.thread k).pc = none) (hevents : (s.m.dev.thread k).events = e :: r)
    (hentry : s.m.dev.seqr.dispatch.getD (e.op - 0xF0) none = some a) :
    Yields (.seqDispatch k false) s seqrParts (fun t => (t.m.dev.thread k).pc = some a ∧ (t.m.dev.thread k).cur = some e ∧
      (t.m.dev.thread k).events = r ∧ (t.m.dev.thread k).count = 0 ∧ (t.m.dev.thread k).regs = (s.m.dev.thread k).regs) := by
  refine yields_of_live hl (show exec _ s = execSeqDispatch k false s from rfl) (execSeqDispatch_framed k false s) (by decide) ?_
  simp only [hpc, hevents, hentry, Bool.false_eq_true, if_false, Dev.settle_thread]
  rw [Dev.thread_onThread_same (Dev.lt_of_thread SeqThread.events hevents nofun)]
  exact ⟨rfl, rfl, rfl, rfl, rfl⟩

/-- Settles O43: each word by its NEXT, over what its nano-word leaves of the thread. -/
theorem microWords : Obligations.MicroWords := by
  intro s k hl _
  refine ⟨fun e r a hpc hevents hentry => seqDispatch_yields hl hpc hevents hentry, ?_⟩
  rintro a _ _ hpc hwait hcount rfl rfl
  refine ⟨fun h0 h1 => ⟨fun hnext hw => ?_, fun hnext hw => ?_, fun hnext hw => ?_, fun hnext hw => ?_, fun hnext => ?_,
    fun hnext hw hstack => ?_, fun p r hnext hw hstack => ?_, fun hnext hw => ?_⟩, fun x hnext hw h1 hflags hdst hx => ?_⟩
  · exact branch_yields hl hpc hwait hcount (.inl hw) h0 h1 rfl (execCont_framed ..) hnext (by decide)
  · exact (branch_yields hl hpc hwait hcount (.inl hw) h0 h1 rfl (execJump_framed ..) hnext (by decide)).mono fun _ h => h.1
  · exact (branch_yields hl hpc hwait hcount (.inl hw) h0 h1 rfl (execBrNeg_framed ..) hnext (by decide)).mono fun _ h => h.1
  · exact (branch_yields hl hpc hwait hcount (.inl hw) h0 h1 rfl (execBrZero_framed ..) hnext (by decide)).mono fun _ h => h.1
  · exact (branch_yields hl hpc hwait hcount (.inr hnext) h0 h1 rfl (execBrCond_framed ..) hnext (by decide)).mono fun _ h => h.1
  · exact call_yields hl hpc hwait hcount (.inl hw) h0 h1 hnext hstack
  · exact ret_yields hl hpc hwait hcount (.inl hw) h0 h1 hnext hstack
  · exact seqEnd_yields hl hpc hwait hcount (.inl hw) h0 h1 hnext
  · exact cont_yields_of_slot0 hl hpc hwait hcount (.inl hw) hnext rfl h1 hflags hdst hx

end Sys2Proof.Machine
end

section
/-! Waits, the timer, forced ends and host events of the codec sequencer (R237, R242, R245, R251), and UCODE_LOAD (R247, R249, R250,
R437). -/

namespace Sys2Proof.Machine
open Sys2Proof

/-! ### Waits (R237) -/

/-- What a word that waited on condition `c` leaves of its thread's flags and timer (R237). -/
def SeqThread.waited (x : SeqThread) (c : Nat) : SeqThread :=
  { x with flags := if 28 ≤ c then modAt x.flags (c - 28) (fun _ => false) else x.flags,
           expired := if c = 5 then false else x.expired, timer := if c = 5 then none else x.timer }

theorem Dev.waitEnds_of_ne_four (d : Dev) (t : Nat) {w : Nat} (h : microNext w ≠ 4) :
    d.waitEnds t w = d.onThread t (fun x => x.waited (microWait w)) := if_neg h

@[simp] theorem Dev.onThread_micro (d : Dev) (t a : Nat) (f : SeqThread → SeqThread) : (d.onThread t f).micro a = d.micro a := rfl

@[simp] theorem Dev.onThread_nano (d : Dev) (t a : Nat) (f : SeqThread → SeqThread) : (d.onThread t f).nano a = d.nano a := rfl

/-- The thread that waited, after a CONT with an empty nano-word (R236, R237). -/
theorem Mach.runWord_thread_of_cont {m : Mach} {k a : Nat} (hlt : k < m.dev.seqr.threads.length)
    (h0 : nanoSlot (m.dev.nanoOf a) 0 = 0) (h1 : nanoSlot (m.dev.nanoOf a) 1 = 0)
    (hnext : microNext (m.dev.micro a) = 0) : (m.runWord k a).dev.thread k =
      { (m.dev.thread k).waited (microWait (m.dev.micro a)) with
        count := (m.dev.thread k).count + 1, waitAt := none, pc := some ((a + 1) % 2 ^ 13) } := by
  rw [Mach.runWord_of_le_four (by omega), Dev.wordDone_of_empty h0 h1, Dev.waitEnds_of_ne_four _ _ (by omega)]
  unfold Dev.nextAddr Dev.branches
  simp only [hnext, Bool.false_eq_true, if_false, Dev.thread_onThread_same, Dev.onThread_threads_length, hlt]
  rfl

/-! ### Forced ends (R245) -/

theorem Mach.endHandler_tame (m : Mach) (t : Nat) (forced : Bool) :
    Dev.Tame (setOf [.free, .seq, .stats, .commands, .events, .flt, .twk, .bbx, .link, .dram, .caps, .codec, .seqr, .sent,
      .feat 0x14, .feat 0x16, .feat 0x19, .feat 0x1E]) m.dev (m.endHandler t forced).dev :=
  Mach.endHandler_tame_dev (by decide) (.refl _ m.dev) t forced

/-! ### Host events (R242, R251) -/

theorem Dev.hostEvent_of_room {d : Dev} {v : Nat} (hv : bits v 8 5 ≤ 24) (hroom : (d.thread (bits v 8 5)).posted < 8) :
    d.hostEvent v = d.seqPost (bits v 8 5) { op := 0xF8 + v % 8, arg := (d.reg 0x19 0x3C).toNat, posted := true } := by
  unfold Dev.hostEvent Dev.postCustomer
  rw [if_neg (by omega), if_neg (by omega), Nat.mod_eq_of_lt (d.reg 0x19 0x3C).isLt]

theorem Dev.hostEvent_of_full {d : Dev} {v : Nat} (hv : bits v 8 5 ≤ 24) (hfull : ¬ (d.thread (bits v 8 5)).posted < 8) :
    d.hostEvent v = d.bump 0x19 0x48 := by
  unfold Dev.hostEvent Dev.postCustomer
  rw [if_neg (by omega), if_pos (by omega)]

theorem Dev.thread_seqPost_same {d : Dev} {k : Nat} (h : k < d.seqr.threads.length) (e : SeqEvent) :
    (d.seqPost k e).thread k = { d.thread k with events := (d.thread k).events ++ [e] } :=
  Dev.thread_onThread_same h (fun x => { x with events := x.events ++ [e] })

/-! ### The commands -/

section
variable {s : State} {k : Nat} (hl : s.Live)
include hl

/-- WAIT_RELEASE of a CONT with an empty nano-word, the condition true and the handler within its limit (R237, R245). -/
theorem waitRelease_yields {a from_ c : Nat} (hpc : (s.m.dev.thread k).pc = some a) (hwait : (s.m.dev.thread k).waitAt = some from_)
    (h0 : nanoSlot (s.m.dev.nanoOf a) 0 = 0) (h1 : nanoSlot (s.m.dev.nanoOf a) 1 = 0) (hnext : microNext (s.m.dev.micro a) = 0)
    (hcond : s.m.dev.condition k (microWait (s.m.dev.micro a)) = true)
    (hc : c = (s.m.dev.thread k).count + (s.m.dev.clk - from_)) (hlimit : c < (s.m.dev.thread k).limit k) :
    Yields (.waitRelease k) s seqrParts (fun t => (t.m.dev.thread k).pc = some ((a + 1) % 2 ^ 13) ∧
      (t.m.dev.thread k).waitAt = none ∧ (t.m.dev.thread k).count = c + 1 ∧
      (28 ≤ microWait (s.m.dev.micro a) →
        (t.m.dev.thread k).flags = modAt (s.m.dev.thread k).flags (microWait (s.m.dev.micro a) - 28) (fun _ => false))) := by
  have hlt := Dev.lt_of_thread_pc hpc
  have hready : s.m.dev.wordReady k (s.m.dev.micro a) = true := by
    unfold Dev.wordReady
    rw [hcond, nanoMeta_of_dst (.inl h0) h1, Bool.or_true]
    rfl
  refine yields_of_live hl (show exec _ s = execWaitRelease k s from rfl) (execWaitRelease_framed k s) (by decide) ?_
  simp only [hpc, hwait]
  rw [if_pos ⟨hready, hc ▸ hlimit⟩, ← hc, Dev.settle_thread, Mach.runWord_thread_of_cont
    (m := { s.m with dev := s.m.dev.onThread k (fun x => { x with count := c }) })]
  · dsimp only
    rw [Dev.thread_onThread_same hlt, Dev.onThread_micro]
    exact ⟨rfl, rfl, rfl, fun hflag => if_pos hflag⟩
  · simpa only [Dev.onThread_threads_length] using hlt
  · simpa only [Dev.onThread_micro, Dev.onThread_nano] using h0
  · simpa only [Dev.onThread_micro, Dev.onThread_nano] using h1
  · simpa only [Dev.onThread_micro] using hnext

/-- SEQ_TIMER_EXPIRE at the instant that the timer was set for, or later (R237). -/
theorem seqTimerExpire_yields {at_ : Nat} (htimer : (s.m.dev.thread k).timer = some at_) :
    Yields (.seqTimerExpire k) s [.clk, .sid, .seqr] (fun t => t.m.dev.clk = max s.m.dev.clk at_ ∧
      (t.m.dev.thread k).timer = none ∧ (t.m.dev.thread k).expired = true) := by
  refine yields_of_liveDev hl (show exec _ s = execSeqTimerExpire k s from rfl) (execSeqTimerExpire_framed k s) (by decide) ?_
  have hseqr : (s.m.dev.advanceTo at_).seqr = s.m.dev.seqr :=
    (Dev.advanceTo_tame (ps := setOf [.clk, .sid]) (by decide) (.refl _ s.m.dev) at_).same .seqr (by decide)
  simp only [htimer, Dev.settle_clk, Dev.settle_thread]
  rw [Dev.thread_onThread_same (hseqr ▸ Dev.lt_of_thread SeqThread.timer htimer nofun)]
  exact ⟨(s.m.dev.advanceTo_tick_clk at_).2, rfl, rfl⟩

/-- HANDLER_FORCED_END of a handler that waits: the limit passes, and the end is counted (R245). -/
theorem handlerForcedEnd_yields {a from_ : Nat} (hs : s.m.dev.Shape) (hpc : (s.m.dev.thread k).pc = some a)
    (hwait : (s.m.dev.thread k).waitAt = some from_) :
    Yields (.handlerForcedEnd k) s [.clk, .seq, .stats, .commands, .events, .flt, .bbx, .sid, .link, .dram, .caps, .codec, .seqr,
        .feat 0x14, .feat 0x16, .feat 0x19, .feat 0x1E] (fun t =>
      (t.m.dev.thread k).pc = none ∧ (t.m.dev.thread k).waitAt = none ∧
      t.m.dev.reg 0x19 0x44 = word (satAdd32 (s.m.dev.reg 0x19 0x44).toNat 1) ∧
      t.m.dev.clk = max s.m.dev.clk (from_ + ((s.m.dev.thread k).limit k - (s.m.dev.thread k).count))) := by
  refine yields_of_live hl (show exec _ s = execHandlerForcedEnd k s from rfl) (execHandlerForcedEnd_framed k s) (by decide) ?_
  simp only [hpc, hwait, Dev.settle_clk, Dev.settle_thread, Dev.settle_reg]
  generalize from_ + ((s.m.dev.thread k).limit k - (s.m.dev.thread k).count) = at_
  have htime : Dev.Tame (setOf [.clk, .sid]) s.m.dev (s.m.dev.advanceTo at_) := Dev.advanceTo_tame (by decide) (.refl _ s.m.dev) at_
  have hseqr : (s.m.dev.advanceTo at_).seqr = s.m.dev.seqr := htime.same .seqr (by decide)
  obtain ⟨hpc', -, -, hwait'⟩ := Mach.endHandler_thread (m := { s.m with dev := s.m.dev.advanceTo at_ }) (t := k)
    (hseqr ▸ Dev.lt_of_thread_pc hpc) true
  refine ⟨hpc', hwait', ?_, ?_⟩
  · rw [Mach.endHandler_forced_reg (m := { s.m with dev := s.m.dev.advanceTo at_ }) (htime.shape hs)]
    dsimp only
    rw [htime.reg_eq (by decide) (by decide)]
  · rw [(Mach.endHandler_tame { s.m with dev := s.m.dev.advanceTo at_ } k true).same .clk (by decide)]
    exact (s.m.dev.advanceTo_tick_clk at_).2

/-- SEQ_HOST_EVENT posts its event, or counts it where the post queue of its thread is full (R242, R251). -/
theorem seqHostEvent_yields {v : Nat} (hs : s.m.dev.Shape) (hv : bits v 8 5 ≤ 24) (hlen : s.m.dev.seqr.threads.length = 25) :
    Yields (.seqHostEvent v) s [.seqr, .feat 0x19] (fun t =>
      if (s.m.dev.thread (bits v 8 5)).posted < 8 then
        (t.m.dev.thread (bits v 8 5)).events = (s.m.dev.thread (bits v 8 5)).events ++
          [{ op := 0xF8 + v % 8, arg := (s.m.dev.reg 0x19 0x3C).toNat, posted := true }] ∧
        t.m.dev.reg 0x19 0x48 = s.m.dev.reg 0x19 0x48
      else t.m.dev.seqr = s.m.dev.seqr ∧ t.m.dev.reg 0x19 0x48 = word (satAdd32 (s.m.dev.reg 0x19 0x48).toNat 1)) := by
  refine yields_of_liveDev hl (show exec _ s = execSeqHostEvent v s from rfl) (execSeqHostEvent_framed v s) (by decide) ?_
  dsimp only
  rw [Dev.settle_thread, Dev.settle_reg, Dev.settle_seqr]
  split
  next hroom =>
    rw [Dev.hostEvent_of_room hv hroom, Dev.thread_seqPost_same (by omega)]
    exact ⟨rfl, rfl⟩
  next hfull =>
    rw [Dev.hostEvent_of_full hv hfull]
    exact ⟨rfl, Dev.reg_bump hs ..⟩

end

/-! ### UCODE_LOAD (R247, R249, R250, R437) -/

/-- A completion that has settled leaves the sequencer. -/
theorem Mach.complete_settle_seqr (m : Mach) (c : Cmd) (status result : Nat) (e : ErrInfo) :
    (m.complete c status result e).dev.settle.seqr = m.dev.seqr :=
  (Dev.settle_seqr _).trans
    ((Mach.complete_tame_dev (ps := setOf [.seq, .commands, .errorLog]) (by decide) (.refl _ m.dev) ..).same .seqr (by decide))

/-- UCODE_LOAD of an image in a readable buffer, no stream under the customer's policy active: a bad signature and a bad layout leave
the window as it was, a good image is the window (R247, R249, R250, R437). -/
theorem ucodeLoad_yields {s : State} {sq cid : Nat} {c : Cmd} {l : List Byte} (hr : s.Runs sq cid 0x12 c) (hkind : c.dataKind ≠ 0)
    (hlen : c.dataLen ≠ 0) (hdata : s.m.mem.dataOk c c.dataLen = true)
    (hidle : s.m.dev.streams.any (fun x => s.m.dev.policy x.1 && x.2.active) = false) (hl : s.m.mem.dataIn c c.dataLen = l) :
    Yields (.ucodeLoad sq cid) s [.seq, .commands, .errorLog, .admission, .seqr] (fun t =>
      if (parseUcode l).signatureOk s.m.dev.otp.customerKey l = false then
        t.Ends sq cid Status.signatureBad 0 ∧ t.m.dev.seqr = s.m.dev.seqr
      else if (parseUcode l).ok l = false then t.Ends sq cid Status.invalidField 0 ∧ t.m.dev.seqr = s.m.dev.seqr
      else t.Ends sq cid Status.ok 0 ∧ t.m.dev.seqr.loaded = true ∧ t.m.dev.seqr.version = (parseUcode l).version ∧
        t.m.dev.seqr.micro = (List.range (parseUcode l).microCount).map
          (fun i => ((parseUcode l).microBase + i, (parseUcode l).micro.getD i 0))) := by
  have hexec : exec (.ucodeLoad sq cid) s = execUcodeLoad sq cid s := rfl
  have hframed := execUcodeLoad_framed sq cid s
  cases hsig : (parseUcode l).signatureOk s.m.dev.otp.customerKey l with
  | false =>
    simp only [if_true]
    refine yields_of_completes hr hexec hframed (by decide) (m := s.m) (e := {}) ?_ rfl (Mach.complete_settle_seqr ..)
    simp [hkind, hlen, hdata, hidle, hl, hsig]
  | true =>
    cases hok : (parseUcode l).ok l with
    | false =>
      simp only [Bool.true_eq_false, if_false, if_true]
      refine yields_of_completes hr hexec hframed (by decide) (m := s.m) (e := { field := 24 }) ?_ rfl (Mach.complete_settle_seqr ..)
      simp [hkind, hlen, hdata, hidle, hl, hsig, hok, Mach.refuse]
    | true =>
      simp only [Bool.true_eq_false, if_false]
      refine yields_of_completes hr hexec hframed (by decide) (m := { s.m with dev := s.m.dev.installUcode (parseUcode l) }) (e := {})
        ?_ rfl ?_
      · simp [hkind, hlen, hdata, hidle, hl, hsig, hok]
      · rw [Mach.complete_settle_seqr]
        exact ⟨rfl, rfl, rfl⟩

/-- Settles O44: a wait that ends, a timer, a forced end, a host event and an image, each by what its operation leaves. -/
theorem sequencerControl : Obligations.SequencerControl := by
  intro s k hl hs
  refine ⟨?_, fun at_ htimer => seqTimerExpire_yields hl htimer, fun a from_ hpc hwait => handlerForcedEnd_yields hl hs hpc hwait,
    fun v hv hlen => seqHostEvent_yields hl hs hv hlen, fun sq cid c l hr hkind hlen hdata hidle hin =>
      ucodeLoad_yields hr hkind hlen hdata hidle hin⟩
  rintro a from_ _ _ c hpc hwait rfl rfl h0 h1 hnext hcond hc hlimit
  exact waitRelease_yields hl hpc hwait h0 h1 hnext hcond hc hlimit

end Sys2Proof.Machine
end

section
/-! Requests and frees of buffers, the end of an audit epoch, and BUF_RECLAIM (R275 to R284, R460). -/

namespace Sys2Proof.Machine
open Sys2Proof

/-! ### Pools and their buffers -/

/-- A size that a pool serves names one of the four (R275). -/
theorem poolFor_lt {size p : Nat} (h : poolFor size = some p) : p < 4 := by
  unfold poolFor at h
  split_ifs at h <;> cases h <;> decide

/-- A pointer that names a buffer names one of the four pools (R278). -/
theorem Dev.bufAt_lt {d : Dev} {a p i : Nat} (h : d.bufAt a = some (p, i)) : p < 4 := by
  obtain ⟨q, hq, hpool⟩ := List.exists_of_findSome?_eq_some h
  dsimp only at hpool
  split at hpool
  · cases hpool
    exact List.mem_range.1 hq
  · exact absurd hpool (by simp)

theorem Dev.poolAt_of_pools {d e : Dev} (h : e.pools = d.pools) (p : Nat) : e.poolAt p = d.poolAt p := by
  unfold Dev.poolAt
  rw [h]

theorem Dev.buf_of_pools {d e : Dev} (h : e.pools = d.pools) (p i : Nat) : e.buf p i = d.buf p i := by
  unfold Dev.buf
  rw [Dev.poolAt_of_pools h]

/-- A pool that the device does not have lists no buffer. -/
theorem Dev.lt_of_buf {d : Dev} {p i : Nat} {b : Buf} (h : d.buf p i = some b) : p < d.pools.pool.length := by
  by_contra hle
  unfold Dev.buf Dev.poolAt at h
  rw [List.getD_eq_default _ _ (Nat.le_of_not_lt hle)] at h
  exact absurd h (by simp [Tbl.get])

@[simp] theorem Dev.onPool_length (d : Dev) (p : Nat) (f : Pool → Pool) : (d.onPool p f).pools.pool.length = d.pools.pool.length :=
  modAt_length ..

theorem Dev.poolAt_onPool_same {d : Dev} {p : Nat} (hp : p < d.pools.pool.length) (f : Pool → Pool) :
    (d.onPool p f).poolAt p = f (d.poolAt p) :=
  (modAt_getD _ _ _ _ _ (.inr (.inl hp))).trans (if_pos rfl)

theorem Dev.poolAt_onPool_of_ne {d : Dev} {p q : Nat} (h : p ≠ q) (f : Pool → Pool) : (d.onPool p f).poolAt q = d.poolAt q :=
  (modAt_getD _ _ _ _ _ (.inr (.inr h))).trans (if_neg h)

theorem Dev.alloc_setBuf {d : Dev} {p : Nat} (hp : p < d.pools.pool.length) (i : Nat) (b : Option Buf) :
    ((d.setBuf p i b).poolAt p).alloc = Tbl.set (fun _ => none) (d.poolAt p).alloc i b :=
  congrArg Pool.alloc (Dev.poolAt_onPool_same hp _)

theorem Dev.buf_setBuf_same {d : Dev} {p : Nat} (hp : p < d.pools.pool.length) (i : Nat) (b : Buf) :
    (d.setBuf p i (some b)).buf p i = some b := by
  unfold Dev.buf
  rw [Dev.alloc_setBuf hp]
  exact Tbl.get_set_same _ _ _ (Option.some_ne_none b)

theorem Dev.buf_setBuf_of_ne {d : Dev} {p i q j : Nat} (hp : p < d.pools.pool.length) (h : ¬(p = q ∧ i = j)) (b : Option Buf) :
    (d.setBuf p i b).buf q j = d.buf q j := by
  unfold Dev.buf
  by_cases hpq : p = q
  · subst hpq
    have hij : j ≠ i := fun e => h ⟨rfl, e.symm⟩
    rw [Dev.alloc_setBuf hp, Tbl.get_set_of_ne _ _ _ hij]
  · rw [Dev.setBuf, Dev.poolAt_onPool_of_ne hpq]

/-! ### Errors of a pool -/

theorem Dev.afterDraw_pools (d : Dev) : d.afterDraw.pools = d.pools := rfl

theorem Dev.count_pools (d : Dev) (o n : Nat) : (d.count o n).pools = d.pools := rfl

/-- A fault leaves the pools. -/
@[simp] theorem Dev.raise_pools (d : Dev) (src arg : Nat) : (d.raise src arg).pools = d.pools :=
  (d.raise_tame_self src arg).same .pools (by decide)

/-- The two sources of a pool have a class (R545). -/
theorem fixedClass_pool {p : Nat} (hp : p < 4) : fixedClass (417 + p) ≠ 0 ∧ fixedClass (421 + p) ≠ 0 := by
  have hall : ∀ q, q < 4 → fixedClass (417 + q) ≠ 0 ∧ fixedClass (421 + q) ≠ 0 := by decide
  exact hall p hp

/-- An error of a pool is recorded there and leaves its buffers (R278, R285). -/
theorem Dev.poolError_poolAt {d : Dev} {p : Nat} (hp : p < d.pools.pool.length) (code port owner idx : Nat) :
    ((d.poolError p code port owner idx).poolAt p).alloc = (d.poolAt p).alloc ∧
    ((d.poolError p code port owner idx).poolAt p).lastCode = code := by
  unfold Dev.poolError
  dsimp only
  rw [Dev.poolAt_onPool_same (by simpa using hp)]
  exact ⟨rfl, rfl⟩

/-- The same once its fault is raised, whatever was counted in between. -/
theorem Dev.raise_of_poolError {d e : Dev} {p code port owner idx src : Nat} (hp : p < d.pools.pool.length)
    (he : e.pools = (d.poolError p code port owner idx).pools) (hsrc : fixedClass src ≠ 0) (arg : Nat) :
    ((e.raise src arg).poolAt p).alloc = (d.poolAt p).alloc ∧ ((e.raise src arg).poolAt p).lastCode = code ∧
    (e.raise src arg).flt.lastSrc = src := by
  rw [Dev.poolAt_of_pools ((Dev.raise_pools ..).trans he)]
  exact ⟨(Dev.poolError_poolAt hp ..).1, (Dev.poolError_poolAt hp ..).2, Dev.raise_lastSrc hsrc ..⟩

/-! ### Requests (R275 to R277) -/

@[simp] theorem Dev.countMax_pools (d : Dev) (off v : Nat) : (d.countMax off v).pools = d.pools := by
  unfold Dev.countMax
  split <;> rfl

/-- What a request of a class must leave free in a pool: nothing for C0, the reserve for the others (R276). -/
def Dev.keptFree (d : Dev) (p cls : Nat) : Nat := if cls = 0 then 0 else (d.poolAt p).reserve

/-- The buffer that a request allocates. -/
def Dev.newBuf (d : Dev) (cls owner refs : Nat) : Buf :=
  { owner := owner % 16384, cls := cls, refs := refs, touched := d.pools.epoch }

section
variable {d : Dev} {p cls : Nat} (owner port refs : Nat)

/-- A request that leaves enough free takes the first free buffer; its port moves the pointer. -/
theorem Dev.poolGrant_pools_of_free (h : d.keptFree p cls < d.poolFree p) :
    (d.poolGrant p cls owner port refs).2.pools =
      ((d.setBuf p (firstFree (d.poolAt p).alloc 0) (some (d.newBuf cls owner refs))).onPools
        (fun q => { q with ptr := modAt q.ptr p (fun _ => (port + 1) % 128) })).pools := by
  unfold Dev.keptFree at h
  unfold Dev.poolGrant
  by_cases hc : cls = 0
  · rw [if_pos hc] at h
    rw [if_pos hc, if_pos h, Dev.countMax_pools]
    split <;> rfl
  · rw [if_neg hc] at h
    rw [if_neg hc, if_pos (Nat.succ_le_of_lt h), Dev.countMax_pools]
    split <;> rfl

/-- C0 finds a pool empty only without a free buffer: POOL_EMPTY (R277). -/
theorem Dev.poolGrant_of_empty (h : d.poolFree p = 0) :
    d.poolGrant p 0 owner port refs =
      (none, ((d.poolError p 3 port owner (d.drawn % 2 ^ 21)).afterDraw).raise (421 + p) port) := by
  unfold Dev.poolGrant
  rw [if_pos rfl, if_neg (by omega)]

/-- Another class is denied at the reserve, which is counted alone (R276). -/
theorem Dev.poolGrant_of_reserved (hc : cls ≠ 0) (h : d.poolFree p ≤ (d.poolAt p).reserve) :
    d.poolGrant p cls owner port refs = (none, d.count (poolStat p 0x18)) := by
  unfold Dev.poolGrant
  rw [if_neg hc, if_neg (by omega)]

theorem Dev.poolGrant_buf_of_free (hp : p < d.pools.pool.length) (h : d.keptFree p cls < d.poolFree p) :
    (d.poolGrant p cls owner port refs).2.buf p (firstFree (d.poolAt p).alloc 0) = some (d.newBuf cls owner refs) :=
  (Dev.buf_of_pools (Dev.poolGrant_pools_of_free owner port refs h) ..).trans (Dev.buf_setBuf_same hp ..)

/-- A denied request leaves the buffers; C0 records POOL_EMPTY and raises its source. -/
theorem Dev.poolGrant_of_denied (hlen : d.pools.pool.length = 4) (hp : p < 4) (h : d.poolFree p ≤ d.keptFree p cls) :
    ((d.poolGrant p cls owner port refs).2.poolAt p).alloc = (d.poolAt p).alloc ∧
    (cls = 0 → ((d.poolGrant p cls owner port refs).2.poolAt p).lastCode = 3 ∧
      (d.poolGrant p cls owner port refs).2.flt.lastSrc = 421 + p) := by
  unfold Dev.keptFree at h
  by_cases hc : cls = 0
  · subst hc
    rw [Dev.poolGrant_of_empty owner port refs (by simpa using h)]
    obtain ⟨halloc, hcode, hsrc⟩ := Dev.raise_of_poolError (hlen.symm ▸ hp) (Dev.afterDraw_pools _) (fixedClass_pool hp).2 port
    exact ⟨halloc, fun _ => ⟨hcode, hsrc⟩⟩
  · rw [Dev.poolGrant_of_reserved owner port refs hc (by simpa [hc] using h)]
    exact ⟨rfl, fun h0 => absurd h0 hc⟩

end

/-- The parts that a request or a free may change. -/
abbrev poolParts : List Part := [.seq, .stats, .commands, .events, .flt, .bbx, .link, .pools, .feat 0x1B]

section
variable {s : State} (hl : s.Live) (hready : s.m.dev.pools.ready = true) (hlen : s.m.dev.pools.pool.length = 4)
include hl hready hlen

/-- A request is granted above what its class must leave free, and denied below (R275 to R277). -/
theorem poolRequest_yields {size cls dests p : Nat} (owner port : Nat) (hcls : cls < 4) (hdests : dests ≤ 8)
    (hpool : poolFor size = some p) :
    Yields (.poolRequest size cls owner port dests) s poolParts (fun t =>
      (s.m.dev.keptFree p cls < s.m.dev.poolFree p →
        t.m.dev.buf p (firstFree (s.m.dev.poolAt p).alloc 0) = some (s.m.dev.newBuf cls owner dests)) ∧
      (s.m.dev.poolFree p ≤ s.m.dev.keptFree p cls → (t.m.dev.poolAt p).alloc = (s.m.dev.poolAt p).alloc ∧
        (cls = 0 → (t.m.dev.poolAt p).lastCode = 3 ∧ t.m.dev.flt.lastSrc = 421 + p))) := by
  have hp : p < 4 := poolFor_lt hpool
  refine yields_of_liveDev hl rfl (execPoolRequest_framed ..) (by decide) ?_
  rw [onlyIf_of_true (by simp [hready, hcls, hdests])]
  simp only [hpool, Dev.settle_buf, Dev.settle_poolAt, Dev.settle_flt]
  exact ⟨Dev.poolGrant_buf_of_free owner port dests (hlen.symm ▸ hp), Dev.poolGrant_of_denied owner port dests hlen hp⟩

/-! ### Frees (R278) -/

/-- A free by the owner frees the buffer; one by another, or of a free buffer, is refused, recorded and raised (R278, R285). -/
theorem poolFree_yields {ptr p i : Nat} (owner port : Nat) (hat : s.m.dev.bufAt ptr = some (p, i)) :
    Yields (.poolFree ptr owner port) s poolParts (fun t =>
      (∀ b, s.m.dev.buf p i = some b → b.owner = owner →
        (t.m.dev.poolAt p).alloc = Tbl.set (fun _ => none) (s.m.dev.poolAt p).alloc i none) ∧
      (∀ b, s.m.dev.buf p i = some b → b.owner ≠ owner → (t.m.dev.poolAt p).alloc = (s.m.dev.poolAt p).alloc ∧
        (t.m.dev.poolAt p).lastCode = 1 ∧ t.m.dev.flt.lastSrc = 417 + p) ∧
      (s.m.dev.buf p i = none → (t.m.dev.poolAt p).alloc = (s.m.dev.poolAt p).alloc ∧ (t.m.dev.poolAt p).lastCode = 0 ∧
        t.m.dev.flt.lastSrc = 417 + p)) := by
  have hp : p < s.m.dev.pools.pool.length := hlen.symm ▸ Dev.bufAt_lt hat
  have hrefused (code o arg : Nat) := Dev.raise_of_poolError (e := (s.m.dev.poolError p code port owner i).count o) (src := 417 + p)
    hp (Dev.count_pools ..) (fixedClass_pool (Dev.bufAt_lt hat)).1 arg
  refine yields_of_liveDev hl rfl (execPoolFree_framed ..) (by decide) ?_
  rw [onlyIf_of_true hready]
  simp only [hat, Dev.settle_poolAt, Dev.settle_flt]
  refine ⟨fun b hb howner => ?_, fun b hb howner => ?_, fun hb => ?_⟩
  · simp only [hb, howner, if_true]
    exact Dev.alloc_setBuf hp i none
  · simp only [hb, howner, if_false]
    exact hrefused ..
  · simp only [hb]
    exact hrefused ..

end

/-! ### The end of an epoch (R282, R283) -/

/-- The buffers touched neither in this epoch nor in the one before, and not reported yet (R282): pool, index and buffer. -/
def Dev.staleBufs (d : Dev) : List (Nat × Nat × Buf) :=
  ((List.range 4).map (fun p => (d.poolAt p).alloc.filterMap (fun e => match e.2 with
    | some b => if b.touched + 1 < d.pools.epoch ∧ !b.reported then some (p, e.1, b) else none
    | none => none))).flatten

/-- The device once the stale buffers are reported. -/
def Dev.reportStale (d : Dev) : Dev := d.staleBufs.foldl (fun d x => d.auditReport x.1 x.2.1 x.2.2) d

/-- The device at the end of an epoch: at its last tick, or 10 s after its begin. -/
def Dev.atEpochEnd (d : Dev) : Dev := if 4096 ≤ d.pools.epochTicks then d else d.advanceTo (10000000000 + d.pools.epochFrom)

/-- The host is told where a buffer was reported. -/
def Dev.tellStale (d : Dev) (l : List (Nat × Nat × Buf)) : Dev := if l.isEmpty then d else d.postEvent 0x05 0 d.pools.epoch

/-- The next epoch begins now. -/
def Dev.nextEpoch (d : Dev) : Dev :=
  d.onPools (fun q => { q with epoch := (q.epoch + 1) % 2 ^ 32, epochTicks := 0, epochFrom := d.clk })

theorem execAuditEpochEnd_eq (s : State) : execAuditEpochEnd s = liveDev (fun d => onlyIf d.pools.ready (fun d =>
    (d.atEpochEnd.reportStale.tellStale d.atEpochEnd.staleBufs).nextEpoch) d) s := rfl

theorem Dev.mem_staleBufs {d : Dev} {p i : Nat} {b : Buf} (hp : p < 4) (hb : d.buf p i = some b)
    (ht : b.touched + 1 < d.pools.epoch) (hr : b.reported = false) : (p, i, b) ∈ d.staleBufs := by
  refine List.mem_flatten.2 ⟨_, List.mem_map.2 ⟨p, List.mem_range.2 hp, rfl⟩, List.mem_filterMap.2 ⟨(i, some b), ?_, ?_⟩⟩
  · exact Tbl.mem_of_get hb (Option.some_ne_none b)
  · exact if_pos ⟨ht, by rw [hr]; rfl⟩

theorem Dev.lt_of_mem_staleBufs {d : Dev} {x : Nat × Nat × Buf} (hx : x ∈ d.staleBufs) : x.1 < 4 := by
  obtain ⟨l, hl, hxl⟩ := List.mem_flatten.1 hx
  obtain ⟨p, hp, rfl⟩ := List.mem_map.1 hl
  obtain ⟨e, -, he⟩ := List.mem_filterMap.1 hxl
  split at he
  · split at he
    · cases he
      exact List.mem_range.1 hp
    · exact absurd he (by simp)
  · exact absurd he (by simp)

/-- A report marks its buffer and leaves the rest of the pools. -/
theorem Dev.auditReport_pools (d : Dev) (p i : Nat) (b : Buf) :
    (d.auditReport p i b).pools = (d.setBuf p i (some { b with reported := true })).pools := rfl

/-- After a run of reports a buffer is as before and was not named, or is marked as reported. -/
theorem Dev.buf_foldl_auditReport (p i : Nat) : ∀ (l : List (Nat × Nat × Buf)) (d : Dev), (∀ x ∈ l, x.1 < d.pools.pool.length) →
    ((l.foldl (fun d x => d.auditReport x.1 x.2.1 x.2.2) d).buf p i = d.buf p i ∧ ∀ x ∈ l, ¬(x.1 = p ∧ x.2.1 = i)) ∨
    ∃ b, (l.foldl (fun d x => d.auditReport x.1 x.2.1 x.2.2) d).buf p i = some b ∧ b.reported = true := by
  intro l
  induction l with
  | nil => exact fun d _ => .inl ⟨rfl, fun x hx => absurd hx List.not_mem_nil⟩
  | cons x r ih =>
    intro d hl
    obtain ⟨hx, hr⟩ := List.forall_mem_cons.1 hl
    have hlength : (d.auditReport x.1 x.2.1 x.2.2).pools.pool.length = d.pools.pool.length := Dev.onPool_length ..
    have hbuf := Dev.buf_of_pools (d.auditReport_pools x.1 x.2.1 x.2.2) p i
    rcases ih _ (by rw [hlength]; exact hr) with ⟨hsame, hnot⟩ | hreported
    · by_cases hkey : x.1 = p ∧ x.2.1 = i
      · obtain ⟨rfl, rfl⟩ := hkey
        exact .inr ⟨_, (hsame.trans hbuf).trans (Dev.buf_setBuf_same hx ..), rfl⟩
      · exact .inl ⟨(hsame.trans hbuf).trans (Dev.buf_setBuf_of_ne hx hkey _), List.forall_mem_cons.2 ⟨hkey, hnot⟩⟩
    · exact .inr hreported

/-- Reports change the buffers of the pools alone. -/
theorem Dev.reportStale_epoch_length (d : Dev) :
    d.reportStale.pools.epoch = d.pools.epoch ∧ d.reportStale.pools.pool.length = d.pools.pool.length :=
  List.foldlRecOn (motive := fun e : Dev => e.pools.epoch = d.pools.epoch ∧ e.pools.pool.length = d.pools.pool.length) d.staleBufs _
    ⟨rfl, rfl⟩ (fun _ he _ _ => ⟨he.1, (Dev.onPool_length ..).trans he.2⟩)

/-- No buffer is stale and unreported once the reports are made. -/
theorem Dev.reported_of_reportStale {d : Dev} (hlen : d.pools.pool.length = 4) {p i : Nat} {b : Buf}
    (hb : d.reportStale.buf p i = some b) (ht : b.touched + 1 < d.pools.epoch) : b.reported = true := by
  have hp : p < 4 := hlen ▸ d.reportStale_epoch_length.2 ▸ Dev.lt_of_buf hb
  rcases Dev.buf_foldl_auditReport p i d.staleBufs d (fun x hx => hlen.symm ▸ Dev.lt_of_mem_staleBufs hx) with
    ⟨hsame, hnot⟩ | ⟨c, hc, hreported⟩
  · by_contra hr
    have hold : d.buf p i = some b := hsame.symm.trans hb
    exact hnot _ (Dev.mem_staleBufs hp hold ht (Bool.eq_false_iff.2 hr)) ⟨rfl, rfl⟩
  · cases hc.symm.trans hb
    exact hreported

@[simp] theorem Dev.tellStale_pools (d : Dev) (l : List (Nat × Nat × Buf)) : (d.tellStale l).pools = d.pools := by
  unfold Dev.tellStale
  split
  · rfl
  · exact (Dev.postEvent_tame (ps := setOf [.seq, .commands, .events]) (by decide) (.refl _ d) ..).same .pools (by decide)

@[simp] theorem Dev.atEpochEnd_pools (d : Dev) : d.atEpochEnd.pools = d.pools := by
  unfold Dev.atEpochEnd Dev.advanceTo
  split
  · rfl
  · split <;> rfl

/-- The end of an epoch: the next one begins, and what was stale is reported (R282, R283). -/
theorem auditEpochEnd_yields {s : State} (hl : s.Live) (hready : s.m.dev.pools.ready = true)
    (hlen : s.m.dev.pools.pool.length = 4) :
    Yields .auditEpochEnd s [.clk, .seq, .commands, .events, .logs, .sid, .pools, .feat 0x1B] (fun t =>
      t.m.dev.pools.epoch = (s.m.dev.pools.epoch + 1) % 2 ^ 32 ∧ t.m.dev.pools.epochTicks = 0 ∧
      t.m.dev.pools.epochFrom = t.m.dev.clk ∧
      ∀ p i b, t.m.dev.buf p i = some b → b.touched + 1 < s.m.dev.pools.epoch → b.reported = true) := by
  refine yields_of_liveDev hl (execAuditEpochEnd_eq s) (execAuditEpochEnd_framed s) (by decide) ?_
  rw [onlyIf_of_true hready]
  have hend : s.m.dev.atEpochEnd.pools = s.m.dev.pools := Dev.atEpochEnd_pools _
  generalize s.m.dev.atEpochEnd = d at hend
  simp only [Dev.settle_pools, Dev.settle_clk, Dev.settle_buf]
  refine ⟨?_, rfl, rfl, fun p i b hb ht => ?_⟩
  · show (((d.reportStale.tellStale _).pools.epoch + 1) % 2 ^ 32) = _
    rw [Dev.tellStale_pools, d.reportStale_epoch_length.1, hend]
  · have hbuf : d.reportStale.buf p i = some b := (Dev.buf_of_pools (Dev.tellStale_pools ..) p i).symm.trans hb
    exact Dev.reported_of_reportStale (by rw [hend, hlen]) hbuf (by rw [hend]; exact ht)

/-! ### BUF_RECLAIM (R284, R460) -/

@[simp] theorem Mach.complete_pools (m : Mach) (c : Cmd) (status result : Nat) (e : ErrInfo) :
    (m.complete c status result e).dev.pools = m.dev.pools :=
  (Mach.complete_tame_dev (ps := setOf [.seq, .commands, .errorLog]) (by decide) (.refl _ m.dev) ..).same .pools (by decide)

/-- A reclaim in the name of the owner takes a reported buffer; an unreported one, or one of another owner, stays (R284, R460). -/
theorem bufReclaim_yields {s : State} {sq cid : Nat} {c : Cmd} {p i : Nat} {b : Buf} (hlen : s.m.dev.pools.pool.length = 4)
    (hr : s.Runs sq cid 0x69 c) (htarget : c.target ≤ 16383) (hat : s.m.dev.bufAt (c.dw64 0) = some (p, i))
    (hb : s.m.dev.buf p i = some b) :
    Yields (.bufReclaim sq cid) s [.seq, .stats, .commands, .events, .errorLog, .flt, .bbx, .link, .pools, .feat 0x1B] (fun t =>
      (b.owner = c.target → b.reported = true → t.Ends sq cid Status.ok 0 ∧
        (t.m.dev.poolAt p).alloc = Tbl.set (fun _ => none) (s.m.dev.poolAt p).alloc i none) ∧
      (b.owner = c.target → b.reported = false → t.Ends sq cid Status.busyQuiesce 0 ∧ t.m.dev.pools = s.m.dev.pools) ∧
      (b.owner ≠ c.target → t.Ends sq cid Status.poolNotOwner 0 ∧ t.m.dev.pools = s.m.dev.pools)) := by
  have hp : p < s.m.dev.pools.pool.length := hlen.symm ▸ Dev.bufAt_lt hat
  have htag : ¬16383 < c.target := Nat.not_lt.2 htarget
  have hexec : exec (.bufReclaim sq cid) s = execBufReclaim sq cid s := rfl
  have hframed := execBufReclaim_framed sq cid s
  by_cases howner : b.owner = c.target
  · cases hreported : b.reported with
    | true =>
      refine (yields_of_completes hr hexec hframed (by decide) (m := { s.m with dev := s.m.dev.setBuf p i none }) (e := {})
        (P := fun t => (t.m.dev.poolAt p).alloc = Tbl.set (fun _ => none) (s.m.dev.poolAt p).alloc i none)
        (status := Status.ok) ?_ rfl ?_).mono
        fun t ht => ⟨fun _ _ => ht, fun _ h => absurd h (by decide), fun h => absurd howner h⟩
      · simp [htag, hat, hb, howner, hreported]
      · rw [Dev.poolAt_of_pools ((Dev.settle_pools _).trans (Mach.complete_pools ..))]
        exact Dev.alloc_setBuf hp i none
    | false =>
      refine (yields_of_completes hr hexec hframed (by decide) (m := s.m) (e := {})
        (P := fun t => t.m.dev.pools = s.m.dev.pools) (status := Status.busyQuiesce) ?_ rfl ?_).mono
        fun t ht => ⟨fun _ h => absurd h (by decide), fun _ _ => ht, fun h => absurd howner h⟩
      · simp [htag, hat, hb, howner, hreported]
      · exact (Dev.settle_pools _).trans (Mach.complete_pools ..)
  · refine (yields_of_completes hr hexec hframed (by decide) (m := s.m) (e := {})
      (P := fun t => t.m.dev.pools = s.m.dev.pools) (status := Status.poolNotOwner) ?_ rfl ?_).mono
      fun t ht => ⟨fun h => absurd h howner, fun h => absurd h howner, fun _ => ht⟩
    · simp [htag, hat, hb, howner]
    · exact (Dev.settle_pools _).trans (Mach.complete_pools ..)

/-- Settles O35: a request by what its class must leave free, a free and a reclaim by the owner of the buffer, the end of an epoch by
its reports. -/
theorem bufferPools : Obligations.BufferPools := by
  intro s hl hready hlen
  refine ⟨fun size cls owner port dests p hcls hdests hpool => poolRequest_yields hl hready hlen owner port hcls hdests hpool,
    fun ptr owner port p i hat => poolFree_yields hl hready hlen owner port hat, auditEpochEnd_yields hl hready hlen, ?_⟩
  intro sq cid c p i b hr _ htarget hat hb
  exact bufReclaim_yields hlen hr htarget hat hb

end Sys2Proof.Machine
end

section
/-! Cells that cross the fabric, the gap that a lost cell leaves, and grants of PCI Express (R253 to R256, R258). That a unit for
PCI Express waits in an egress queue, and that a cell acts when it leaves its resequencer, are the model's reading (log 172); which
of the 64 queues it joins, the rest of its address by 64, is the model's choice. -/

namespace Sys2Proof.Machine
open Sys2Proof

/-! ### Without mirror sessions (R270) -/

/-- No analysis session is enabled. -/
def Dev.Unmirrored (d : Dev) : Prop := ∀ k, k < 8 → bit (d.mirCfg k).toNat 31 = false

/-- Sessions are set in the registers of the fabric alone. -/
theorem Dev.Unmirrored.of_reg {d e : Dev} (h : d.Unmirrored) (hreg : ∀ k, k < 8 → e.mirCfg k = d.mirCfg k) : e.Unmirrored :=
  fun k hk => by rw [hreg k hk]; exact h k hk

/-- Then no cell is copied. -/
theorem Dev.Unmirrored.mirror {d : Dev} (h : d.Unmirrored) (c : FabCell) (port dir : Nat) : d.mirror c port dir = d := by
  refine List.foldlRecOn (motive := fun e => e = d) (List.range 8) _ rfl (fun e he k hk => ?_)
  subst he
  have hoff : e.mirrors k c port dir = false := by
    unfold Dev.mirrors
    dsimp only
    rw [h k (List.mem_range.1 hk)]
    rfl
  rw [hoff]
  rfl

/-! ### A cell that leaves its resequencer (R252, R258) -/

/-- The egress queue of PCI Express that a cell joins, with its class; none for a cell to another output. -/
def FabCell.pcieUnits (c : FabCell) : List (Nat × Nat) := if 78 ≤ c.output ∧ c.output < 82 then [(c.addr % 64, c.cls)] else []

/-- The fabric once a cell has left its resequencer. -/
def Fabric.delivered (c : FabCell) (f : Fabric) : Fabric := { f with pcieQ := f.pcieQ ++ c.pcieUnits }

theorem Fabric.delivered_of_dram {c : FabCell} (h : c.output < 32) (f : Fabric) : f.delivered c = f := by
  unfold Fabric.delivered FabCell.pcieUnits
  rw [if_neg (by omega), List.append_nil]

section
variable {m : Mach} {c : FabCell} (hmir : m.dev.Unmirrored)
include hmir

/-- A cell to no DRAM port joins its egress queue, or leaves the machine as it is. -/
theorem Mach.cellOut_of_not_dram (h : 32 ≤ c.output) : m.cellOut c = { m with dev := m.dev.onFab (Fabric.delivered c) } := by
  unfold Mach.cellOut
  rw [hmir.mirror]
  dsimp only
  rw [if_neg (Nat.not_lt.2 h)]
  by_cases hpcie : 78 ≤ c.output ∧ c.output < 82
  · simp only [Dev.onFab, Fabric.delivered, FabCell.pcieUnits, if_pos hpcie]
  · simp only [Dev.onFab, Fabric.delivered, FabCell.pcieUnits, if_neg hpcie, List.append_nil]

/-- A cell to a DRAM port that carries no staged row changes the memory and its controller, not the fabric. -/
theorem Mach.cellOut_tame_of_dram (hseg : c.seg = none) (h : c.output < 32) :
    Dev.Tame (setOf [.free, .seq, .stats, .commands, .events, .flt, .twk, .bbx, .link, .pools, .dram, .sent, .feat 0x1E])
      m.dev (m.cellOut c).dev := by
  unfold Mach.cellOut
  rw [hmir.mirror, hseg]
  dsimp only
  have htouch : Dev.Tame (setOf [.pools]) m.dev (m.dev.touch c.addr) := Dev.touch_tame (by decide) (.refl _ _) _
  rw [if_pos h]
  refine Mach.tame_ite_dev (Mach.dramWrite_tame_dev (by decide) ?_ ..) (Mach.dramRead_tame_dev (by decide) ?_ ..)
  all_goals exact htouch.mono (by decide)

/-- A cell that carries no staged row leaves of the fabric and its registers all but the egress queue that it joins. -/
theorem Mach.cellOut_fab_reg (hseg : c.seg = none) :
    (m.cellOut c).dev.fab = m.dev.fab.delivered c ∧ ∀ o, (m.cellOut c).dev.reg 0x1A o = m.dev.reg 0x1A o := by
  by_cases h : c.output < 32
  · have htame := Mach.cellOut_tame_of_dram hmir hseg h
    rw [Fabric.delivered_of_dram h]
    exact ⟨htame.same .fab (by decide), htame.reg_eq (by decide) (by decide)⟩
  · rw [Mach.cellOut_of_not_dram hmir (Nat.not_lt.1 h)]
    exact ⟨rfl, fun _ => rfl⟩

end

/-! ### A cell that crosses (R255, R256) -/

/-- The number that the next cell of a key takes at its input. -/
def Fabric.nextIn (f : Fabric) (key : Nat) : Nat := Tbl.get (fun _ => 0) f.seqIn key

/-- The number that a resequencer releases next. -/
def Fabric.nextOut (f : Fabric) (key : Nat) : Nat := Tbl.get (fun _ => 0) f.seqOut key

/-- The fabric once a cell has taken its number. -/
def Fabric.numbered (key : Nat) (f : Fabric) : Fabric := { f with seqIn := Tbl.set (fun _ => 0) f.seqIn key ((f.nextIn key + 1) % 1024) }

/-- The fabric once a resequencer has released the number that was due, or has skipped it. -/
def Fabric.released (key : Nat) (f : Fabric) : Fabric := { f with seqOut := Tbl.set (fun _ => 0) f.seqOut key ((f.nextOut key + 1) % 1024) }

/-- The fabric where a cell is lost. -/
def Fabric.loses (w : SeqCell) (f : Fabric) : Fabric := { f with lost := f.lost ++ [w] }

/-- The fabric where one cell alone waits. -/
def Fabric.holds (w : SeqCell) (f : Fabric) : Fabric := { f with waiting := [w] }

/-- A resequencer in which one cell alone waits releases it where its number is due. -/
theorem Mach.reseq_of_one {m : Mach} {w : SeqCell} (hw : m.dev.fab.waiting = [w]) :
    m.reseq w.cell.key 1 = if w.seq = m.dev.fab.nextOut w.cell.key then
      Mach.cellOut { m with dev := m.dev.onFab (fun f => ({ f with waiting := [] } : Fabric).released w.cell.key) } w.cell else m := by
  unfold Mach.reseq
  rw [hw]
  dsimp only
  by_cases hdue : w.seq = m.dev.fab.nextOut w.cell.key
  · rw [List.find?_cons_of_pos (by simpa [Fabric.nextOut] using hdue), if_pos hdue]
    simp only [Dev.onFab, hw, List.erase_cons_head]
    rfl
  · rw [List.find?_cons_of_neg (by simpa [Fabric.nextOut] using hdue), if_neg hdue]
    rfl

section
variable {m : Mach} {c : FabCell} (hmir : m.dev.Unmirrored)
include hmir

/-- A cell with an uncorrectable error takes its number and is lost (R256). -/
theorem Mach.cell_of_lost : m.cell c 2 =
    { m with dev := m.dev.onFab (fun f => (f.numbered c.key).loses { cell := c, seq := f.nextIn c.key }) } := by
  unfold Mach.cell
  rw [hmir.mirror]
  rfl

/-- A cell without an error, where none waits: it is released where its number is due, and waits where not (R255). -/
theorem Mach.cell_of_good (hwait : m.dev.fab.waiting = []) : m.cell c 0 =
    if m.dev.fab.nextIn c.key = m.dev.fab.nextOut c.key then
      Mach.cellOut { m with dev := m.dev.onFab (fun f => (f.numbered c.key).released c.key) } c
    else { m with dev := m.dev.onFab (fun f => (f.numbered c.key).holds { cell := c, seq := f.nextIn c.key }) } := by
  have hcell : m.cell c 0 = Mach.reseq
      { m with dev := m.dev.onFab (fun f => (f.numbered c.key).holds { cell := c, seq := f.nextIn c.key }) } c.key 1 := by
    unfold Mach.cell
    rw [hmir.mirror]
    simp only [Dev.onFab, hwait]
    rfl
  rw [hcell, Mach.reseq_of_one (w := { cell := c, seq := m.dev.fab.nextIn c.key }) rfl]
  simp only [Dev.onFab, Fabric.holds, Fabric.numbered, Fabric.released, Fabric.nextOut, hwait]

end

/-! ### CELL_TRANSFER (R253 to R256) -/

/-- The parts that a cell may change. -/
abbrev cellParts : List Part :=
  [.seq, .stats, .commands, .events, .flt, .bbx, .link, .fab, .pools, .dram, .wports, .caps, .prism, .dramMem, .feat 0x1A,
   .feat 0x1B, .feat 0x1E]

/-- A cell that may be sent to an output whose block is on and not quiescing. -/
structure Dev.Accepts (d : Dev) (c : FabCell) (dom : Nat) : Prop where
  legal : c.legal = true
  output : 32 ≤ c.output
  domain : portDomain c.output = some dom
  on : d.powered dom = true
  stays : d.quiescing dom = false

/-- A cell that carries no staged row is given by its other fields. -/
theorem FabCell.mk_of_unstaged {c : FabCell} (h : c.seg = none) :
    FabCell.mk c.input c.output c.cls c.owner c.addr c.write c.bytes none = c := by
  rw [← h]

theorem Mach.cellTo_of_accepts {m : Mach} {c : FabCell} {dom : Nat} (h : m.dev.Accepts c dom) (ecc : Nat) :
    m.cellTo c ecc = m.cell c ecc := by
  unfold Mach.cellTo
  simp only [h.domain, h.on, h.stays, Bool.not_true, Bool.false_eq_true, if_false]

section
variable {s : State} {c : FabCell} {dom : Nat} (hl : s.Live) (hseg : c.seg = none) (hin : c.input < 32 ∨ 36 ≤ c.input)
  (hacc : s.m.dev.Accepts c dom)
include hl hseg hin hacc

/-- A cell of a unit other than a real-time write port crosses the fabric. -/
theorem cellTransfer_yields {ecc : Nat} {P : State → Prop} (hP : P (s.settledAt (s.m.cell c ecc))) :
    Yields (.cellTransfer c.input c.output c.cls c.owner c.addr c.write c.bytes ecc) s cellParts P := by
  have hexec : exec (.cellTransfer c.input c.output c.cls c.owner c.addr c.write c.bytes ecc) s =
    execCellTransfer c.input c.output c.cls c.owner c.addr c.write c.bytes ecc s := rfl
  refine yields_of_live hl hexec (execCellTransfer_framed ..) (by decide) ?_
  dsimp only
  rw [if_neg (by omega), FabCell.mk_of_unstaged hseg, if_pos hacc.legal, Mach.cellTo_of_accepts hacc]
  exact hP

/-- A cell in sequence is released at once (R255). -/
theorem cellTransfer_good_yields (hmir : s.m.dev.Unmirrored) (hwait : s.m.dev.fab.waiting = [])
    (hdue : s.m.dev.fab.nextIn c.key = s.m.dev.fab.nextOut c.key) :
    Yields (.cellTransfer c.input c.output c.cls c.owner c.addr c.write c.bytes 0) s cellParts (fun t =>
      t.m.dev.fab.seqIn = Tbl.set (fun _ => 0) s.m.dev.fab.seqIn c.key ((s.m.dev.fab.nextIn c.key + 1) % 1024) ∧
      t.m.dev.fab.seqOut = Tbl.set (fun _ => 0) s.m.dev.fab.seqOut c.key ((s.m.dev.fab.nextIn c.key + 1) % 1024) ∧
      t.m.dev.fab.waiting = [] ∧ t.m.dev.fab.pcieQ = s.m.dev.fab.pcieQ ++ c.pcieUnits ∧ t.m.mem = s.m.mem) := by
  refine cellTransfer_yields hl hseg hin hacc ?_
  have hcross : s.m.cell c 0 = { s.m with dev := s.m.dev.onFab (fun f => ((f.numbered c.key).released c.key).delivered c) } := by
    rw [Mach.cell_of_good hmir hwait, if_pos hdue]
    exact Mach.cellOut_of_not_dram (m := { s.m with dev := s.m.dev.onFab (fun f => (f.numbered c.key).released c.key) })
      (hmir.of_reg fun _ _ => rfl) hacc.output
  rw [hcross]
  simp only [State.settledAt, Dev.settle_fab, and_true]
  refine ⟨rfl, ?_, hwait, rfl⟩
  rw [hdue]
  rfl

/-- A cell with an uncorrectable error is lost, and its resequencer waits for its number (R256). -/
theorem cellTransfer_lost_yields (hmir : s.m.dev.Unmirrored) :
    Yields (.cellTransfer c.input c.output c.cls c.owner c.addr c.write c.bytes 2) s cellParts (fun t =>
      t.m.dev.fab.lost = s.m.dev.fab.lost ++ [{ cell := c, seq := s.m.dev.fab.nextIn c.key }] ∧
      t.m.dev.fab.seqOut = s.m.dev.fab.seqOut ∧ t.m.mem = s.m.mem) := by
  refine cellTransfer_yields hl hseg hin hacc ?_
  rw [Mach.cell_of_lost hmir]
  simp only [State.settledAt, Dev.settle_fab, and_true]
  exact ⟨rfl, rfl⟩

end

/-! ### RESEQ_GAP (R256) -/

/-- Whether a lost cell is the one whose number a resequencer waits for. -/
def Fabric.isGap (f : Fabric) (key : Nat) (w : SeqCell) : Bool := decide (w.cell.key = key) && decide (w.seq = f.nextOut key)

/-- The fabric once a lost cell's number is skipped. -/
def Fabric.skips (key : Nat) (w : SeqCell) (f : Fabric) : Fabric :=
  { f.released key with lost := f.lost.erase w, repeats := f.repeats + 1 }

/-- The device once a gap is skipped, counted and reported. -/
def Dev.gapSkipped (d : Dev) (key output : Nat) (w : SeqCell) : Dev :=
  (((d.advance 1024).onFab (Fabric.skips key w)).bump 0x1A 0x004).raise 416 output

@[simp] theorem Dev.raise_fab (d : Dev) (src arg : Nat) : (d.raise src arg).fab = d.fab :=
  (d.raise_tame_self src arg).same .fab (by decide)

theorem Dev.raise_reg_fab (d : Dev) (src arg o : Nat) : (d.raise src arg).reg 0x1A o = d.reg 0x1A o :=
  (d.raise_tame_self src arg).reg_eq (by decide) (by decide) o

section
variable {d : Dev} (key output : Nat) (w : SeqCell)

theorem Dev.gapSkipped_fab : (d.gapSkipped key output w).fab = d.fab.skips key w := by
  unfold Dev.gapSkipped
  rw [Dev.raise_fab]
  rfl

theorem Dev.gapSkipped_waiting (h : d.fab.waiting = []) : (d.gapSkipped key output w).fab.waiting = [] := by
  rw [Dev.gapSkipped_fab]
  exact h

/-- The gap counts in its register. -/
theorem Dev.gapSkipped_count (h : d.Shape) : (d.gapSkipped key output w).reg 0x1A 4 = word (satAdd32 (d.reg 0x1A 4).toNat 1) := by
  unfold Dev.gapSkipped
  have hshape : ((d.advance 1024).onFab (Fabric.skips key w)).Shape := h
  rw [Dev.raise_reg_fab, Dev.reg_bump hshape]
  rfl

/-- The count of gaps is no register of a session. -/
theorem Dev.gapSkipped_unmirrored (h : d.Unmirrored) : (d.gapSkipped key output w).Unmirrored := by
  refine h.of_reg fun k hk => ?_
  unfold Dev.mirCfg Dev.gapSkipped
  rw [Dev.raise_reg_fab]
  exact Dev.reg_setReg_of_ne (by unfold regKey; omega)

end

/-- A good cell keeps the lost cells, the count of repeats and the registers of the fabric. -/
theorem Mach.cell_keeps {m : Mach} {c : FabCell} (hmir : m.dev.Unmirrored) (hseg : c.seg = none) (hwait : m.dev.fab.waiting = []) :
    (m.cell c 0).dev.fab.repeats = m.dev.fab.repeats ∧ (m.cell c 0).dev.fab.lost = m.dev.fab.lost ∧
    (m.cell c 0).dev.reg 0x1A 4 = m.dev.reg 0x1A 4 := by
  rw [Mach.cell_of_good hmir hwait]
  split
  · obtain ⟨hfab, hreg⟩ := Mach.cellOut_fab_reg (c := c)
      (m := { m with dev := m.dev.onFab (fun f => (f.numbered c.key).released c.key) }) (hmir.of_reg fun _ _ => rfl) hseg
    rw [hfab, hreg]
    exact ⟨rfl, rfl, rfl⟩
  · exact ⟨rfl, rfl, rfl⟩

/-- A gap that a lost cell left, where no cell waits: its number is skipped, and its source sends it again. -/
theorem execReseqGap_of_gap {s : State} {input output cls key : Nat} {w : SeqCell} (hkey : (128 * input + output) * 4 + cls = key)
    (hlost : s.m.dev.fab.lost.find? (s.m.dev.fab.isGap key) = some w) (hwait : s.m.dev.fab.waiting = []) :
    execReseqGap input output cls s =
      live (fun _ => Mach.cell { s.m with dev := s.m.dev.gapSkipped key output w } w.cell 0) s := by
  subst hkey
  unfold execReseqGap
  refine live_congr ?_
  dsimp only
  split
  next hnone => exact absurd (hnone.symm.trans hlost) (Option.some_ne_none w).symm
  next x hsome =>
    obtain rfl : x = w := Option.some.inj (hsome.symm.trans hlost)
    change (Mach.reseq { s.m with dev := s.m.dev.gapSkipped _ output x } _
      (s.m.dev.gapSkipped ((128 * input + output) * 4 + cls) output x).fab.waiting.length).cell x.cell 0 = _
    rw [Dev.gapSkipped_waiting _ _ _ hwait]
    rfl

/-- The skipped number is counted, and the source repeats the transfer, which takes a number of its own (R256). -/
theorem reseqGap_yields {s : State} {input output cls : Nat} {w : SeqCell} (hl : s.Live) (hshape : s.m.dev.Shape)
    (hmir : s.m.dev.Unmirrored) (hlost : s.m.dev.fab.lost.find? (s.m.dev.fab.isGap ((128 * input + output) * 4 + cls)) = some w)
    (hseg : w.cell.seg = none) (hwait : s.m.dev.fab.waiting = []) :
    Yields (.reseqGap input output cls) s [.clk, .seq, .stats, .commands, .events, .flt, .bbx, .sid, .link, .fab, .pools, .dram,
        .caps, .dramMem, .feat 0x1A, .feat 0x1B, .feat 0x1E] (fun t =>
      t.m.dev.fab.repeats = s.m.dev.fab.repeats + 1 ∧ t.m.dev.fab.lost = s.m.dev.fab.lost.erase w ∧
      t.m.dev.reg 0x1A 4 = word (satAdd32 (s.m.dev.reg 0x1A 4).toNat 1)) := by
  refine yields_of_live hl (execReseqGap_of_gap rfl hlost hwait) (execReseqGap_framed ..) (by decide) ?_
  generalize (128 * input + output) * 4 + cls = key
  obtain ⟨hrepeats, hkept, hreg⟩ := Mach.cell_keeps (m := { s.m with dev := s.m.dev.gapSkipped key output w })
    (Dev.gapSkipped_unmirrored key output w hmir) hseg (Dev.gapSkipped_waiting key output w hwait)
  simp only [Dev.settle_fab, Dev.settle_reg, hrepeats, hkept, hreg, Dev.gapSkipped_fab]
  exact ⟨rfl, rfl, Dev.gapSkipped_count key output w hshape⟩

/-! ### EGRESS_GRANT of PCI Express (R258) -/

/-- The turn finds every queue that waits, whatever the pointer. -/
theorem rrFind_isSome {p : Nat → Bool} {q : Nat} (ptr : Nat) (hq : q < 64) (hp : p q = true) : (rrFind ptr p).isSome = true := by
  refine List.find?_isSome.2 ⟨q, List.mem_map.2 ⟨(q + (64 - ptr % 64)) % 64, List.mem_range.2 (Nat.mod_lt _ (by decide)), ?_⟩, hp⟩
  omega

theorem rrFind_some {ptr r : Nat} {p : Nat → Bool} (h : rrFind ptr p = some r) : p r = true := List.find?_some h

/-- Whether a unit of C1 waits at queue `q` of PCI Express. -/
def Dev.waitsFirst (d : Dev) (q : Nat) : Bool := d.fab.pcieQ.contains (q, 1)

theorem Dev.waitsFirst_iff {d : Dev} {q : Nat} : d.waitsFirst q = true ↔ (q, 1) ∈ d.fab.pcieQ := List.contains_iff_mem

/-- C1 goes first: where a unit of it waits, the grant takes the one whose turn it is. -/
theorem Mach.pcieGrant_of_first {m : Mach} {r : Nat} (h : rrFind (m.dev.egrPtr 6 1) m.dev.waitsFirst = some r) :
    m.pcieGrant = { m with dev := (m.dev.onFab (fun f => { f with pcieQ := f.pcieQ.erase (r, 1) })).egrServed 6 1 r } := by
  unfold Dev.waitsFirst at h
  unfold Mach.pcieGrant
  simp only [List.filterMap_cons, h, Option.map_some]

/-- A grant of PCI Express takes the unit of C1 that the class pointer gives (R258). -/
theorem egressGrant_pcie_yields {s : State} {r : Nat} (hl : s.Live) (hr : rrFind (s.m.dev.egrPtr 6 1) s.m.dev.waitsFirst = some r) :
    Yields (.egressGrant 6) s [.stats, .cqs, .eth, .link, .fab, .pools, .hostMem, .feat 0x1A, .feat 0x21] (fun t =>
      t.m.dev.fab.pcieQ = s.m.dev.fab.pcieQ.erase (r, 1)) := by
  have hexec : exec (.egressGrant 6) s = live Mach.pcieGrant s := rfl
  refine yields_of_live hl hexec (execEgressGrant_framed 6 s) (by decide) ?_
  simp only [Dev.settle_fab]
  rw [Mach.pcieGrant_of_first hr]
  rfl

/-- Settles O36: a cell in sequence, a lost cell and the gap that it leaves, each by what becomes of its number; a grant by the turn
of the queues of C1. -/
theorem fabricCells : Obligations.FabricCells := by
  intro s hl hshape hmir
  refine ⟨fun c dom hseg hlegal hin hout hdom hon hstays => ?_, fun input output cls w hlost hseg hwait =>
    reseqGap_yields hl hshape hmir hlost hseg hwait, fun q hq hmem => ?_⟩
  · have hacc : s.m.dev.Accepts c dom := ⟨hlegal, hout, hdom, hon, hstays⟩
    exact ⟨fun hwait hdue => cellTransfer_good_yields hl hseg hin hacc hmir hwait hdue,
      cellTransfer_lost_yields hl hseg hin hacc hmir⟩
  · obtain ⟨r, hr⟩ := Option.isSome_iff_exists.1 (rrFind_isSome (s.m.dev.egrPtr 6 1) hq (Dev.waitsFirst_iff.2 hmem))
    exact (egressGrant_pcie_yields hl hr).mono fun t ht => ⟨r, Dev.waitsFirst_iff.1 (rrFind_some hr), ht⟩

end Sys2Proof.Machine
end

section
/-! Magazine ports: what reads back after a change of one, and what the writing of pages leaves of every port (R304 to R307, R336
to R350). -/

namespace Sys2Proof.Machine
open Sys2Proof

/-! ### A port after a change -/

theorem Dev.mag_of_mags {d e : Dev} (h : e.mags = d.mags) (p : Nat) : e.mag p = d.mag p := by
  unfold Dev.mag
  rw [h]

/-- A change outside the magazine ports leaves each of them. -/
theorem Dev.Tame.mag_eq {ps : Nat} {d e : Dev} (h : Dev.Tame ps d e) (hp : ps.testBit 47 = false) (p : Nat) : e.mag p = d.mag p :=
  Dev.mag_of_mags (h.same .mags hp) p

/-- A device of the right shape has both ports. -/
theorem Dev.Shape.lt_mags {d : Dev} (h : d.Shape) {p : Nat} (hp : p < 2) : p < d.mags.length := by
  obtain ⟨-, -, -, -, -, hmags, -⟩ := h
  omega

/-- A tame change keeps both ports. -/
theorem Dev.Tame.lt_mags {ps : Nat} {d e : Dev} (h : Dev.Tame ps d e) (hs : d.Shape) {p : Nat} (hp : p < 2) : p < e.mags.length :=
  (h.shape hs).lt_mags hp

@[simp] theorem Dev.onMag_length (d : Dev) (p : Nat) (f : MagPort → MagPort) : (d.onMag p f).mags.length = d.mags.length := modAt_length ..

@[simp] theorem Dev.onVol_length (d : Dev) (p : Nat) (f : Volume → Volume) : (d.onVol p f).mags.length = d.mags.length := modAt_length ..

theorem Dev.mag_onMag_same {d : Dev} {p : Nat} (hp : p < d.mags.length) (f : MagPort → MagPort) : (d.onMag p f).mag p = f (d.mag p) :=
  (modAt_getD _ _ _ _ _ (.inr (.inl hp))).trans (if_pos rfl)

theorem Dev.mag_onVol_same {d : Dev} {p : Nat} (hp : p < d.mags.length) (f : Volume → Volume) :
    (d.onVol p f).mag p = { d.mag p with vol := f (d.mag p).vol } := Dev.mag_onMag_same hp _

theorem Dev.mag_onMag_of_ne {d : Dev} {p i : Nat} (h : p ≠ i) (f : MagPort → MagPort) : (d.onMag p f).mag i = d.mag i :=
  (modAt_getD _ _ _ _ _ (.inr (.inr h))).trans (if_neg h)

/-- A port that the device does not have is not changed. -/
theorem Dev.onMag_of_le {d : Dev} {p : Nat} (h : d.mags.length ≤ p) (f : MagPort → MagPort) : d.onMag p f = d := by
  unfold Dev.onMag
  rw [modAt_of_le _ _ _ h]

/-- What a change of one port keeps of that port it keeps of every port. -/
theorem Dev.keeps_onMag {β : Type} (g : MagPort → β) {d : Dev} {p : Nat} {f : MagPort → MagPort} (h : g (f (d.mag p)) = g (d.mag p)) (i : Nat) :
    g ((d.onMag p f).mag i) = g (d.mag i) := by
  by_cases hi : p = i
  · subst hi
    by_cases hp : p < d.mags.length
    · rw [Dev.mag_onMag_same hp, h]
    · rw [Dev.onMag_of_le (Nat.le_of_not_lt hp)]
  · rw [Dev.mag_onMag_of_ne hi]

/-! ### What the writing of pages leaves -/

/-- A volume without what the writing of pages changes: its superblocks, bad blocks, headers, tables and counts. -/
def Volume.kept (v : Volume) : Volume := { v with seq := 0, sbs := [], bads := [], headers := [], erases := [], reads := [], tables := [] }

/-- A port without what the writing of pages changes. -/
def MagPort.kept (q : MagPort) : MagPort := { q with vol := q.vol.kept, ckptAt := 0 }

/-- A volume put in place of one that keeps the same. -/
theorem MagPort.kept_congr (q : MagPort) {v w : Volume} (h : v.kept = w.kept) :
    MagPort.kept { q with vol := v } = MagPort.kept { q with vol := w } :=
  congrArg (fun k : Volume => ({ q with vol := k, ckptAt := 0 } : MagPort)) h

/-- From `d` to `e` pages of port `p` are written at most: every port keeps what it holds beside them, and of the registers the
count of padding units alone changes (R335). -/
structure Dev.Writes (p : Nat) (d e : Dev) : Prop where
  kept : ∀ i, (e.mag i).kept = (d.mag i).kept
  reg : ∀ f o, regKey f o ≠ regKey 0x1D (0x100 * p + 0x30) → e.reg f o = d.reg f o
  length : e.mags.length = d.mags.length

namespace Dev.Writes
variable {p : Nat} {a b c : Dev}

theorem refl (p : Nat) (d : Dev) : Dev.Writes p d d := ⟨fun _ => rfl, fun _ _ _ => rfl, rfl⟩

theorem trans (h : Dev.Writes p a b) (k : Dev.Writes p b c) : Dev.Writes p a c :=
  ⟨fun i => (k.kept i).trans (h.kept i), fun f o hne => (k.reg f o hne).trans (h.reg f o hne), k.length.trans h.length⟩

/-- A change outside the ports and the registers writes no page. -/
theorem of_eq (hm : b.mags = a.mags) (hr : b.regs = a.regs) : Dev.Writes p a b :=
  ⟨fun i => by rw [Dev.mag_of_mags hm], fun f o _ => by unfold Dev.reg; rw [hr], by rw [hm]⟩

theorem ofOnMag {f : MagPort → MagPort} (h : (f (a.mag p)).kept = (a.mag p).kept) : Dev.Writes p a (a.onMag p f) :=
  ⟨Dev.keeps_onMag MagPort.kept h, fun _ _ _ => rfl, Dev.onMag_length ..⟩

theorem ofOnVol {f : Volume → Volume} (h : ∀ v, (f v).kept = v.kept) : Dev.Writes p a (a.onVol p f) :=
  ofOnMag ((a.mag p).kept_congr (h _))

theorem bump (d : Dev) (n : Nat) : Dev.Writes p d (d.bump 0x1D (0x100 * p + 0x30) n) :=
  ⟨fun _ => rfl, fun _ _ hne => Dev.reg_setReg_of_ne hne, rfl⟩

theorem count (d : Dev) (off n : Nat) : Dev.Writes p d (d.count off n) := of_eq rfl rfl

theorem stamped (d : Dev) : Dev.Writes p d d.stamped := of_eq rfl rfl

/-- A run of steps that write pages. -/
theorem foldl {β : Type} {f : Mach → β → Mach} (h : ∀ (m : Mach) x, Dev.Writes p m.dev (f m x).dev) (l : List β) (m : Mach) :
    Dev.Writes p m.dev (l.foldl f m).dev := by
  induction l generalizing m with
  | nil => exact .refl p _
  | cons x r ih => exact (h m x).trans (ih _)

/-- What a port keeps, field by field. -/
theorem fields (h : Dev.Writes p a b) (i : Nat) :
    (b.mag i).present = (a.mag i).present ∧ (b.mag i).mounted = (a.mag i).mounted ∧ (b.mag i).readOnly = (a.mag i).readOnly ∧
    (b.mag i).vol.id = (a.mag i).vol.id ∧ (b.mag i).vol.gen = (a.mag i).vol.gen ∧ (b.mag i).vol.proxyPct = (a.mag i).vol.proxyPct ∧
    (b.mag i).vol.clips = (a.mag i).vol.clips := by
  have hk := h.kept i
  exact ⟨(congrArg MagPort.present hk :), (congrArg MagPort.mounted hk :), (congrArg MagPort.readOnly hk :),
    (congrArg (fun q => q.vol.id) hk :), (congrArg (fun q => q.vol.gen) hk :), (congrArg (fun q => q.vol.proxyPct) hk :),
    (congrArg (fun q => q.vol.clips) hk :)⟩

end Dev.Writes

/-! ### Superblocks and blocks that are written -/

theorem Volume.kept_setSb (v : Volume) (key : Nat) (e : SbEntry) : (v.setSb key e).kept = v.kept := rfl

theorem Volume.kept_setSb_tables (v : Volume) (key : Nat) (e : SbEntry) (l : List (Nat × Nat × Nat)) :
    Volume.kept { v.setSb key e with tables := l } = v.kept := rfl

theorem Volume.kept_retire (v : Volume) (g : Geo) (die block flags : Nat) (give : Bool) : (v.retire g die block flags give).1.kept = v.kept := by
  unfold Volume.retire
  split <;> rfl

/-- A superblock that is mended changes the bad-block table alone (R337). -/
theorem MagPort.kept_mend (q : MagPort) (l : List (Nat × Nat × Nat)) {v w : Volume} (h : q.mend l v = some w) : w.kept = v.kept := by
  induction l generalizing v with
  | nil => cases h; rfl
  | cons x r ih =>
    unfold MagPort.mend at h
    have hretire := v.kept_retire q.geo x.1 x.2.1 x.2.2 true
    split at h
    next v1 heq => rw [heq] at hretire; exact (ih h).trans hretire
    next => cases h

/-- A superblock that is allocated leaves the rest of the port (R324). -/
theorem MagPort.kept_allocSb (grp kind k : Nat) (q : MagPort) : (q.allocSb grp kind k).2.kept = q.kept := by
  induction k generalizing q with
  | zero => rfl
  | succ k ih =>
    unfold MagPort.allocSb
    split
    · rfl
    next b _ =>
      dsimp only
      split
      · exact ih _
      next v hmend =>
        exact q.kept_congr ((Volume.kept_setSb ..).trans (q.kept_mend _ hmend))

@[simp] theorem Mach.onCarrier_dev (m : Mach) (p : Nat) (f : Carrier → Carrier) : (m.onCarrier p f).dev = m.dev := by
  unfold Mach.onCarrier
  split <;> rfl

@[simp] theorem Mach.programPages_dev (m : Mach) (p : Nat) (l : List (Nat × List Byte)) : (m.programPages p l).dev = m.dev :=
  m.onCarrier_dev p _

theorem Mach.eraseBlock_writes (m : Mach) (p die block : Nat) : Dev.Writes p m.dev (m.eraseBlock p die block).dev := by
  unfold Mach.eraseBlock
  dsimp only
  rw [Mach.onCarrier_dev]
  refine Dev.Writes.trans ?_ (.count ..)
  exact .ofOnVol fun _ => rfl

theorem Mach.putStripe_writes (m : Mach) (p grp b w kind : Nat) (units : List StripeUnit) :
    Dev.Writes p m.dev (m.putStripe p grp b w kind units).dev := by
  unfold Mach.putStripe
  dsimp only
  rw [Mach.programPages_dev]
  refine Dev.Writes.trans ?_ (.bump ..)
  refine Dev.Writes.trans ?_ (.count ..)
  refine Dev.Writes.trans ?_ (.count ..)
  refine Dev.Writes.trans ?_ (.count ..)
  exact .ofOnVol fun _ => rfl

theorem Mach.putStripes_writes (p grp b kind k : Nat) (m : Mach) (w : Nat) (units : List StripeUnit) :
    Dev.Writes p m.dev (m.putStripes p grp b w kind units k).dev := by
  induction k generalizing m w units with
  | zero => exact .refl p _
  | succ k ih =>
    unfold Mach.putStripes
    split
    · exact .refl p _
    · exact (m.putStripe_writes p grp b w kind _).trans (ih ..)

/-- A superblock that is allocated and erased. -/
theorem Mach.allocErased_writes (m : Mach) (p : Nat) {q : MagPort} (h : q.kept = (m.dev.mag p).kept) (l : List (Nat × Nat)) :
    Dev.Writes p m.dev (l.foldl (fun (m : Mach) e => m.eraseBlock p e.1 e.2) { m with dev := m.dev.onMag p (fun _ => q) }).dev := by
  refine Dev.Writes.trans (b := m.dev.onMag p (fun _ => q)) ?_ ?_
  · exact Dev.Writes.ofOnMag (f := fun _ => q) h
  · refine Dev.Writes.foldl (fun m e => ?_) l { m with dev := m.dev.onMag p (fun _ => q) }
    exact m.eraseBlock_writes ..

theorem Mach.reserve_writes (m : Mach) (p kind grp n : Nat) : Dev.Writes p m.dev (m.reserve p kind grp n).2.dev := by
  have halloc {q q2 : MagPort} {o : Option Nat} (h : q.allocSb grp kind 8192 = (o, q2)) (hq : q.kept = (m.dev.mag p).kept) :
      q2.kept = (m.dev.mag p).kept := by
    have hkept := MagPort.kept_allocSb grp kind 8192 q
    rw [h] at hkept
    exact hkept.trans hq
  unfold Mach.reserve
  dsimp only
  split
  · split
    · exact .refl p _
    · split
      next h => exact .ofOnMag (halloc h rfl)
      next h => exact m.allocErased_writes p (halloc h rfl) _
  · split
    next h => exact .ofOnMag (halloc h rfl)
    next h => exact m.allocErased_writes p (halloc h rfl) _

theorem Mach.reserveIn_writes (p kind n : Nat) (l : List Nat) (m : Mach) : Dev.Writes p m.dev (m.reserveIn p kind n l).2.dev := by
  induction l generalizing m with
  | nil => exact .refl p _
  | cons grp r ih =>
    have hone := m.reserve_writes p kind grp n
    unfold Mach.reserveIn
    split
    next h => rw [h] at hone; exact hone
    next h => rw [h] at hone; exact hone.trans (ih _)

theorem Mach.writes_of_reserveIn {m m1 : Mach} {p kind n : Nat} {l : List Nat} {o : Option (Nat × Nat × Nat)}
    (h : m.reserveIn p kind n l = (o, m1)) : Dev.Writes p m.dev m1.dev := by
  have hwrites := Mach.reserveIn_writes p kind n l m
  rwa [h] at hwrites

/-! ### Checkpoints -/

theorem Mach.putHeader_writes (m : Mach) (p : Nat) (hdr : List Byte) (c : Nat) : Dev.Writes p m.dev (m.putHeader p hdr c).dev := by
  unfold Mach.putHeader
  dsimp only
  rw [Mach.programPages_dev]
  refine Dev.Writes.trans ?_ (.ofOnVol fun _ => rfl)
  split
  · exact m.eraseBlock_writes ..
  · exact .refl p _

/-- The superblocks and tables that a checkpoint frees leave the rest of the volume. -/
theorem Volume.kept_freeUnused (v : Volume) : v.freeUnused.kept = v.kept := by
  unfold Volume.freeUnused
  dsimp only
  refine (foldl_keeps (g := Volume.kept) ?_ _).trans (foldl_keeps (g := Volume.kept) ?_ v)
  · exact fun _ _ _ => rfl
  · exact fun _ _ _ => rfl

/-- The device with the volume of port `p` in its next generation. -/
def Dev.nextGen (d : Dev) (p : Nat) : Dev := d.onVol p (fun v => { v with gen := v.gen + 1 })

/-- The port that a checkpoint starts from writes no page beside the next generation. -/
theorem Dev.nextGen_writes (d : Dev) (p : Nat) : Dev.Writes p (d.nextGen p)
    (d.onMag p (fun _ => { d.mag p with vol := { (d.mag p).vol.freeUnused with gen := (d.mag p).vol.gen + 1 } })) := by
  have hvol : Volume.kept { (d.mag p).vol.freeUnused with gen := (d.mag p).vol.gen + 1 } =
      Volume.kept { (d.mag p).vol with gen := (d.mag p).vol.gen + 1 } :=
    congrArg (fun v : Volume => { v with gen := (d.mag p).vol.gen + 1 }) (d.mag p).vol.kept_freeUnused
  refine ⟨fun i => ?_, fun _ _ _ => rfl, by rw [Dev.nextGen, Dev.onVol_length, Dev.onMag_length]⟩
  by_cases hi : p = i
  · subst hi
    by_cases hp : p < d.mags.length
    · rw [Dev.nextGen, Dev.mag_onVol_same hp, Dev.mag_onMag_same hp]
      exact (d.mag p).kept_congr hvol
    · rw [Dev.nextGen, Dev.onVol, Dev.onMag_of_le (Nat.le_of_not_lt hp), Dev.onMag_of_le (Nat.le_of_not_lt hp)]
  · rw [Dev.nextGen, Dev.onVol, Dev.mag_onMag_of_ne hi, Dev.mag_onMag_of_ne hi]

/-- The entries of two superblocks, and the instant of a checkpoint, are no part of what a port keeps. -/
theorem MagPort.kept_checkpointed (q : MagPort) (key1 key2 now : Nat) (e1 e2 : SbEntry) :
    MagPort.kept { q with vol := (q.vol.setSb key1 e1).setSb key2 e2, ckptAt := now } = q.kept := rfl

/-- A checkpoint either finds no room and changes nothing, or writes pages in the next generation (R346). -/
theorem Mach.checkpoint_cases (m : Mach) (p : Nat) : m.checkpoint p = m ∨ Dev.Writes p (m.dev.nextGen p) (m.checkpoint p).dev := by
  generalize hn : m.checkpoint p = n
  unfold Mach.checkpoint onDev at hn
  extract_lets at hn
  split at hn
  · exact .inl hn.symm
  split at hn
  · exact .inl hn.symm
  next hmain =>
    have h1 := (m.dev.nextGen_writes p).trans (Mach.writes_of_reserveIn hmain)
    extract_lets _ _ m1a full at hn
    split at hn
    · exact .inl hn.symm
    next hcopy =>
      have ha : Dev.Writes p (m.dev.nextGen p) m1a.dev := by
        dsimp only [m1a]
        exact h1.trans (.ofOnVol fun _ => rfl)
      have hfull : Dev.Writes p (m.dev.nextGen p) full.dev := by
        dsimp only [full]
        exact ha.trans (.ofOnVol fun _ => rfl)
      extract_lets _ _ d3 _ _ _ _ _ _ _ _ _ m3 m4 m5 d5 at hn
      have h3 : Dev.Writes p (m.dev.nextGen p) d3 := by
        dsimp only [d3]
        refine Dev.Writes.trans ?_ (.ofOnVol fun v => (Volume.kept_setSb ..).trans ((Volume.kept_setSb ..).trans
          ((Volume.kept_setSb_tables ..).trans (Volume.kept_setSb_tables ..))))
        split at hcopy
        · exact hfull.trans (Mach.writes_of_reserveIn hcopy)
        · exact ha.trans (Mach.writes_of_reserveIn hcopy)
      have h5 : Dev.Writes p d3 m5.dev := (Mach.putStripes_writes _ _ _ _ _ m3 _ _).trans (Mach.putStripes_writes _ _ _ _ _ m4 _ _)
      have hd : Dev.Writes p m5.dev d5 := by
        dsimp only [d5]
        exact .ofOnMag (MagPort.kept_checkpointed ..)
      right
      rw [← hn]
      refine Dev.Writes.trans ?_ (Dev.Writes.foldl (fun m c => ?_) _ _)
      · exact ((h3.trans h5).trans hd).trans (.stamped d5)
      · exact m.putHeader_writes ..

end Sys2Proof.Machine
end

section
/-! What stays of the magazine ports while watermarks advance (R319, R353), and the removal of a carrier (R289, R330). -/

namespace Sys2Proof.Machine
open Sys2Proof

/-! ### Ports whose volumes alone change -/

/-- A port without its volume. -/
def MagPort.station (q : MagPort) : MagPort := { q with vol := {}, ckptAt := 0 }

/-- From `d` to `e` no magazine port changes but in its volume. -/
structure Dev.Stays (d e : Dev) : Prop where
  station : ∀ i, (e.mag i).station = (d.mag i).station
  length : e.mags.length = d.mags.length

namespace Dev.Stays
variable {a b c : Dev}

theorem refl (d : Dev) : d.Stays d := ⟨fun _ => rfl, rfl⟩

theorem trans (h : a.Stays b) (k : b.Stays c) : a.Stays c := ⟨fun i => (k.station i).trans (h.station i), k.length.trans h.length⟩

theorem of_mags (h : b.mags = a.mags) : a.Stays b := ⟨fun i => by rw [Dev.mag_of_mags h], by rw [h]⟩

theorem of_tame {ps : Nat} (h : Dev.Tame ps a b) (hp : ps.testBit 47 = false) : a.Stays b := of_mags (h.same .mags hp)

/-- What the writing of pages keeps of a port holds its station. -/
theorem of_writes {p : Nat} (h : Dev.Writes p a b) : a.Stays b :=
  ⟨fun i => (congrArg MagPort.station (h.kept i) :), h.length⟩

theorem onVol (d : Dev) (p : Nat) (f : Volume → Volume) : d.Stays (d.onVol p f) :=
  ⟨Dev.keeps_onMag MagPort.station rfl, Dev.onVol_length ..⟩

theorem stamped (d : Dev) : d.Stays d.stamped := of_mags rfl

/-- A run of steps after which no port has changed but in its volume. -/
theorem foldl {β : Type} {f : Mach → β → Mach} (h : ∀ (m : Mach) x, m.dev.Stays (f m x).dev) (l : List β) (m : Mach) :
    m.dev.Stays (l.foldl f m).dev := by
  induction l generalizing m with
  | nil => exact .refl _
  | cons x r ih => exact (h m x).trans (ih _)

/-- What stays of a port, field by field. -/
theorem fields (h : a.Stays b) (i : Nat) : (b.mag i).seated = (a.mag i).seated ∧ (b.mag i).present = (a.mag i).present ∧
    (b.mag i).mounted = (a.mag i).mounted := by
  have hs := h.station i
  exact ⟨(congrArg MagPort.seated hs :), (congrArg MagPort.present hs :), (congrArg MagPort.mounted hs :)⟩

end Dev.Stays

/-! ### Watermarks -/

theorem Mach.writeLogs_stays (m : Mach) (p id : Nat) (all : Bool) : m.dev.Stays (m.writeLogs p id all).dev := by
  unfold Mach.writeLogs
  split
  · exact .refl _
  · dsimp only
    split
    · exact .refl _
    · split
      next hres => exact .of_writes (Mach.writes_of_reserveIn hres)
      next hres =>
        refine Dev.Stays.trans ?_ (.stamped _)
        refine Dev.Stays.trans ?_ (.onVol ..)
        refine Dev.Stays.trans ?_ (.of_writes (Mach.putStripes_writes ..))
        exact .of_writes (Mach.writes_of_reserveIn hres)

theorem Mach.passFrame_stays (m : Mach) (s : Nat) (c : Cap) (t : Taken) (rest : List Taken) :
    m.dev.Stays (m.passFrame s c t rest).dev := by
  generalize hn : m.passFrame s c t rest = n
  unfold Mach.passFrame at hn
  extract_lets d1 d2 d3 due d4 id m1 at hn
  have h3 : m.dev.Stays d3 := .of_mags (by dsimp only [d3]; split <;> rfl)
  have h4 : d3.Stays d4 := by
    dsimp only [d4]
    split
    · exact .of_tame (Dev.record_tame (ps := setOf [.seq, .bbx]) (by decide) (.refl _ d3) ..) (by decide)
    · exact .refl _
  have h1 : m.dev.Stays m1.dev := by
    refine (h3.trans h4).trans (Dev.Stays.foldl (fun m p => ?_) _ { m with dev := d4 })
    split
    · refine Dev.Stays.trans ?_ (Mach.writeLogs_stays ..)
      dsimp only
      exact .onVol ..
    · exact .refl _
  have hend (d : Dev) : d.Stays (d.modCap s (fun c => { c with run := .idle, draining := false, stop := none })).reserveAgain :=
    .of_tame (Dev.reserveAgain_tame (ps := setOf [.pools, .caps]) (by decide) (Dev.modCap_tame (by decide) (.refl _ d) ..)) (by decide)
  have hstate (d : Dev) : d.Stays d.sendState :=
    .of_tame (Dev.sendState_tame (ps := setOf [.stats, .link, .sent]) (by decide) (.refl _ d)) (by decide)
  split at hn
  · split at hn <;> subst hn
    · refine (h1.trans (hend _)).trans (Dev.Stays.trans ?_ (hstate _))
      exact .of_tame (Dev.complete_tame (ps := setOf [.seq, .commands, .errorLog]) (by decide) (.refl _ _) ..) (by decide)
    · exact (h1.trans (hend _)).trans (hstate _)
  · subst hn
    exact h1

theorem Mach.advanceMark_stays (s k : Nat) (m : Mach) : m.dev.Stays (m.advanceMark s k).dev := by
  induction k generalizing m with
  | zero => exact .refl _
  | succ k ih =>
    unfold Mach.advanceMark
    split
    · exact .refl _
    · split
      · split
        · exact (m.passFrame_stays ..).trans (ih _)
        · exact .refl _
      · exact .refl _

theorem Mach.advanceMarks_stays (m : Mach) : m.dev.Stays m.advanceMarks.dev := by
  unfold Mach.advanceMarks
  exact Dev.Stays.foldl (fun m e => m.advanceMark_stays ..) _ m

/-! ### A port that is left by its carrier -/

/-- A port that loses power forgets all but its line, its presence and its last error (R289, R330). -/
def MagPort.unpowered (q : MagPort) : MagPort :=
  { seated := q.seated, lineAt := q.lineAt, present := q.present, mountErr := q.mountErr, peak := q.peak, peakShown := q.peakShown }

theorem Dev.magOff_mags (d : Dev) (p : Nat) : (d.magOff p).mags = (d.onMag p (fun _ => (d.mag p).unpowered)).mags := by
  have hfree := foldl_keeps (g := Dev.mags) (f := fun (d : Dev) (ch : Chunk) => d.setBuf 2 ch.buf none) (fun _ _ _ => rfl) (l := (d.mag p).chunks) d
  exact congrArg (fun l => modAt l p (fun _ => (d.mag p).unpowered)) hfree

@[simp] theorem Dev.magOff_length (d : Dev) (p : Nat) : (d.magOff p).mags.length = d.mags.length := by
  rw [Dev.magOff_mags, Dev.onMag_length]

theorem Dev.magOff_mag_same {d : Dev} {p : Nat} (hp : p < d.mags.length) : (d.magOff p).mag p = (d.mag p).unpowered := by
  rw [Dev.mag_of_mags (d.magOff_mags p), Dev.mag_onMag_same hp]

/-- MAG_PWR_EN of a port that is switched off is low. -/
theorem Dev.magOff_magPwrEn (d : Dev) (p : Nat) : (d.magOff p).pins.magPwrEn.getD p false = false := by
  unfold Dev.magOff
  dsimp only
  rw [modAt_getD _ _ _ _ _ (.inl rfl), if_pos rfl]

/-- What a removal does before the watermarks advance: captures stop, the port is switched off, frames are dropped, and the event is
posted. -/
def Dev.removed (d : Dev) (p : Nat) : Dev :=
  let gone := (d.mag p).chunks
  let off := ((d.stopOn p 2 Status.magRemoved true).magOff p).onMag p (fun q => { q with present := false, seated := none })
  let drops := off.streams.foldl (fun d e =>
    if e.2.choice = some 2 then
      d.dropTaken e.1 7 (fun t => gone.any (fun ch => decide (ch.stream = e.1 ∧ t.offset < 65536 * (ch.no + 1) ∧ 65536 * ch.no < t.offset + t.len)))
    else d) off
  (drops.postEvent 0x03 1 p).fireInt (587 + p)

theorem Mach.remove_eq (m : Mach) (p : Nat) : m.remove p = Mach.advanceMarks { m with dev := m.dev.removed p } := rfl

/-- Past the switched-off port itself a removal drops frames and posts events alone. -/
theorem Dev.removed_tame (d : Dev) (p : Nat) : Dev.Tame (setOf [.seq, .stats, .commands, .events, .logs, .msix, .intr, .bbx, .caps, .sent])
    (((d.stopOn p 2 Status.magRemoved true).magOff p).onMag p (fun q => { q with present := false, seated := none })) (d.removed p) := by
  unfold Dev.removed
  refine Dev.fireInt_tame (by decide) (Dev.postEvent_tame (by decide) (Dev.tame_foldl (.refl _ _) fun e x h => ?_) ..) _
  exact Dev.tame_ite (Dev.dropTaken_tame (by decide) h ..) h

/-- The stop of captures leaves the ports. -/
theorem Dev.stopOn_mags (d : Dev) (p reason status : Nat) (lose : Bool) : (d.stopOn p reason status lose).mags = d.mags :=
  (Dev.stopOn_tame (ps := setOf [.seq, .stats, .commands, .events, .errorLog, .link, .pools, .caps, .codec, .sent, .feat 0x00])
    (by decide) (.refl _ d) p reason status lose).same .mags (by decide)

/-- The ports of a removal are those of the switched-off port. -/
theorem Dev.removed_mags (d : Dev) (p : Nat) : (d.removed p).mags =
    (((d.stopOn p 2 Status.magRemoved true).magOff p).onMag p (fun q => { q with present := false, seated := none })).mags :=
  (d.removed_tame p).same .mags (by decide)

theorem Mach.remove_stays (m : Mach) (p : Nat) : (m.dev.removed p).Stays (m.remove p).dev :=
  Mach.advanceMarks_stays { m with dev := m.dev.removed p }

theorem Mach.remove_length (m : Mach) (p : Nat) : (m.remove p).dev.mags.length = m.dev.mags.length :=
  calc (m.remove p).dev.mags.length
      = (m.dev.removed p).mags.length := (m.remove_stays p).length
    _ = ((m.dev.stopOn p 2 Status.magRemoved true).magOff p).mags.length := by rw [Dev.removed_mags, Dev.onMag_length]
    _ = m.dev.mags.length := by rw [Dev.magOff_length, Dev.stopOn_mags]

/-- A removal leaves its port empty, and nothing mounted there (R289, R330). -/
theorem Mach.remove_mag {m : Mach} {p : Nat} (hp : p < m.dev.mags.length) :
    ((m.remove p).dev.mag p).seated = none ∧ ((m.remove p).dev.mag p).present = false ∧ ((m.remove p).dev.mag p).mounted = false := by
  have hstop : p < (m.dev.stopOn p 2 Status.magRemoved true).mags.length := by rwa [Dev.stopOn_mags]
  have hoff : p < ((m.dev.stopOn p 2 Status.magRemoved true).magOff p).mags.length := by rwa [Dev.magOff_length]
  have hmag := Dev.mag_of_mags (m.dev.removed_mags p) p
  rw [Dev.mag_onMag_same hoff, Dev.magOff_mag_same hstop] at hmag
  obtain ⟨hseated, hpresent, hmounted⟩ := (m.remove_stays p).fields p
  rw [hseated, hpresent, hmounted, hmag]
  exact ⟨rfl, rfl, rfl⟩

theorem Mach.advanceMarks_pins (m : Mach) : m.advanceMarks.dev.pins = m.dev.pins :=
  (Mach.advanceMarks_tame_dev (ps := setOf [.seq, .stats, .commands, .errorLog, .bbx, .link, .pools, .caps, .mags, .sent, .feat 0x00,
    .feat 0x1D]) (B := m.dev) (X := m) (by decide) (.refl _ _)).same .pins (by decide)

theorem Dev.removed_pins (d : Dev) (p : Nat) : (d.removed p).pins = ((d.stopOn p 2 Status.magRemoved true).magOff p).pins :=
  (d.removed_tame p).same .pins (by decide)

theorem Mach.remove_pins (m : Mach) (p : Nat) : (m.remove p).dev.pins = ((m.dev.stopOn p 2 Status.magRemoved true).magOff p).pins :=
  (congrArg (fun n : Mach => n.dev.pins) (m.remove_eq p)).trans ((Mach.advanceMarks_pins _).trans (m.dev.removed_pins p))

/-- A removal leaves MAG_PWR_EN of its port low. -/
theorem Mach.remove_magPwrEn (m : Mach) (p : Nat) : (m.remove p).dev.pins.magPwrEn.getD p false = false := by
  rw [Mach.remove_pins, Dev.magOff_magPwrEn]

end Sys2Proof.Machine
end

section
/-! The PCI Express reset and link, power lost, and a supply out of its range (R331, R366, R368, R580). -/

namespace Sys2Proof.Machine
open Sys2Proof

/-- Only the host rings stay of the completion queues. -/
theorem HostIf.pcieReset_cqs {h : HostIf} {q : Nat} {c : Cq} (hmem : (q, some c) ∈ h.pcieReset.cqs) : c.ring ≠ none := by
  obtain ⟨-, hring⟩ := List.mem_filter.mp hmem
  exact Option.isSome_iff_ne_none.mp hring

/-- A PCI Express reset leaves no submission queue, no admin queue and of the completion queues the host rings, with the link down
(R364, R366, R401). -/
theorem pcieReset_yields {s : State} {perst : Bool} {low : Nat} (hl : s.Live) (hlow : perst = true → 2000 ≤ low) :
    Yields (.pcieReset perst low) s [.clk, .boot, .sqs, .cqs, .turns, .admin, .commands, .events, .access, .sid] (fun t =>
      t.m.dev.host.sqs = [] ∧ t.m.dev.host.admEn = false ∧ t.m.dev.host.admRdy = false ∧ t.m.dev.boot.linkUp = false ∧
      (∀ q c, (q, some c) ∈ t.m.dev.host.cqs → c.ring ≠ none) ∧ t.m.dev.boot.state = s.m.dev.boot.state) := by
  refine yields_of_liveDev hl (show exec _ s = execPcieReset perst low s from rfl) (execPcieReset_framed perst low s) (by decide) ?_
  have hnot : ¬ (perst = true ∧ low < 2000) := fun h => absurd (hlow h.1) (Nat.not_le_of_lt h.2)
  have hboot : (if perst = true then s.m.dev.advance low else s.m.dev).boot = s.m.dev.boot := by split <;> rfl
  dsimp only
  rw [if_neg hnot, Dev.settle_host_sqs, Dev.settle_host_admEn, Dev.settle_host_admRdy, Dev.settle_host_cqs, Dev.settle_boot]
  exact ⟨rfl, rfl, rfl, rfl, fun _ _ hmem => HostIf.pcieReset_cqs hmem, (congrArg Boot.state hboot :)⟩

theorem pcieLinkUp_yields {s : State} (hl : s.Live) (rise dt : Nat) : Yields (.pcieLinkUp rise dt) s [.clk, .boot, .sid] (fun t =>
    t.m.dev.boot.linkUp = true ∧ t.m.dev.clk = s.m.dev.clk + (rise + min dt 20000000)) := by
  refine yields_of_liveDev hl (show exec _ s = execPcieLinkUp rise dt s from rfl) (execPcieLinkUp_framed rise dt s) (by decide) ?_
  dsimp only
  rw [Dev.settle_boot, Dev.settle_clk]
  exact ⟨rfl, rfl⟩

theorem Dev.onMag_pins (d : Dev) (p : Nat) (f : MagPort → MagPort) : (d.onMag p f).pins = d.pins := rfl

/-- What the loss of power of a magazine does to its port: a removal whose carrier stays. -/
def Mach.losePower (m : Mach) (p : Nat) : Mach :=
  onDev (fun d => d.onMag p (fun x => { x with seated := (m.dev.mag p).seated, present := (m.dev.mag p).present })) (m.remove p)

theorem Mach.losePower_dev (m : Mach) (p : Nat) : (m.losePower p).dev =
    (m.remove p).dev.onMag p (fun x => { x with seated := (m.dev.mag p).seated, present := (m.dev.mag p).present }) := rfl

theorem execPowerLoss_of_powered {s : State} {p : Nat} (hp : p < 2) (hpow : (s.m.dev.mag p).powered = true) :
    exec (.powerLoss (some p)) s = live (fun m => m.losePower p) s :=
  live_congr (onlyIf_of_true (by rw [hpow, decide_eq_true hp]; rfl) (fun m => m.losePower p) s.m)

/-- The magazine that loses its power ends its work as at a removal, but stays seated and present (R331). -/
theorem powerLossOf_yields {s : State} {p : Nat} (hl : s.Live) (hp : p < 2) (hpow : (s.m.dev.mag p).powered = true)
    (hmags : s.m.dev.mags.length = 2) :
    Yields (.powerLoss (some p)) s (List.append [.clk, .undef, .off, .seq, .stats, .snap, .boot, .otp, .staged, .mailboxes, .sqs, .cqs, .turns, .admin, .commands, .events, .errorLog, .logs, .admission, .access, .flt, .bbx, .sid, .tick, .eth, .refillAt, .shapers, .policers, .link, .fab, .pools, .dram, .wports, .dma, .dmaEvents, .power, .pins, .ctxs, .caps, .prism, .codec, .seqr, .proxy, .mags, .dramMem, .carriers] ((List.finRange 64).map Part.feat)) (fun t =>
      (t.m.dev.mag p).seated = (s.m.dev.mag p).seated ∧ (t.m.dev.mag p).present = (s.m.dev.mag p).present ∧
      t.m.dev.pins.magPwrEn.getD p false = false) := by
  have hport : p < (s.m.remove p).dev.mags.length := by rwa [Mach.remove_length, hmags]
  refine yields_of_live hl (execPowerLoss_of_powered hp hpow) (execPowerLoss_framed (some p) s) (by decide) ?_
  rw [Mach.losePower_dev, Dev.settle_mag, Dev.settle_pins, Dev.mag_onMag_same hport, Dev.onMag_pins]
  exact ⟨rfl, rfl, s.m.remove_magPwrEn p⟩

/-- A supply out of its range leaves the device undefined, and nothing else changes. -/
theorem supplyOutOfRange_only (s : State) : s.m.Only [.undef] (onDev (fun d => { d with undef := true }) s.m) := by
  obtain ⟨hdev, hmem, -⟩ := execSupplyOutOfRange_framed s
  exact Mach.only_of_tame hdev hmem (by decide)

/-- Settles O17: a reset or a link by what its operation leaves, the loss of power as a reset of the device or as the removal of a
magazine that stays seated. -/
theorem pcieAndPower : Obligations.PcieAndPower := by
  intro s
  refine ⟨fun _ _ => pcieReset_yields, fun rise dt hl => pcieLinkUp_yields hl rise dt, ⟨_, rfl, rfl, rfl, rfl, rfl, rfl, fun _ _ => rfl⟩,
    fun _ => powerLossOf_yields, ⟨_, rfl, rfl, rfl, supplyOutOfRange_only s⟩⟩

end Sys2Proof.Machine
end

section
/-! Chunks, program stripes and erases (R308 to R310, R316 to R319, R321, R324, R329). -/

namespace Sys2Proof.Machine
open Sys2Proof

/-! ### Small facts -/

theorem Dev.advanceTo_clk (d : Dev) (t : Nat) : (d.advanceTo t).clk = max d.clk t := (d.advanceTo_tick_clk t).2

/-- The passing of time leaves all but the two clocks. -/
theorem Dev.advanceTo_tame_self (d : Dev) (t : Nat) : Dev.Tame (setOf [.clk, .sid]) d (d.advanceTo t) :=
  Dev.advanceTo_tame (by decide) (.refl _ d) t

/-- A constant that replaces the first element of a kind is in the list. -/
theorem mem_modifyFirst_const {α : Type} {p : α → Bool} {l : List α} {x : α} (hx : x ∈ l) (hp : p x = true) (v : α) :
    v ∈ modifyFirst p (fun _ => v) l := by
  induction l with
  | nil => exact absurd hx List.not_mem_nil
  | cons y r ih =>
    unfold modifyFirst
    split
    · exact List.mem_cons_self
    next hy =>
      obtain rfl | hr := List.mem_cons.mp hx
      · exact absurd hp hy
      · exact List.mem_cons_of_mem _ (ih hr)

/-- One more of a count is read where it was put. -/
theorem Tbl.get_set_succ (t : Tbl Nat) (k n : Nat) : Tbl.get (fun _ => 0) (Tbl.set (fun _ => 0) t k (n + 1)) k = n + 1 :=
  Tbl.get_set_same _ _ _ (Nat.succ_ne_zero n)

/-! ### Chunks (R308 to R310) -/

theorem MagPort.chunks_of_allocSb {grp kind k : Nat} {q q2 : MagPort} {o : Option Nat} (h : q.allocSb grp kind k = (o, q2)) :
    q2.chunks = q.chunks := by
  have hkept := MagPort.kept_allocSb grp kind k q
  rw [h] at hkept
  exact (congrArg MagPort.chunks hkept :)

/-- A stripe that is opened holds no chunk of its own. -/
theorem MagPort.chunks_openFill (q : MagPort) : q.openFill.chunks = q.chunks := by
  generalize hn : q.openFill = n
  unfold MagPort.openFill at hn
  split at hn
  · rw [← hn]
  · split at hn
    · rw [← hn]
    · extract_lets at hn
      split at hn
      next opened q1 hopened =>
        have hq1 : q1.chunks = q.chunks := by
          split at hopened
          · obtain ⟨-, rfl⟩ := Prod.mk.inj hopened
            rfl
          · split at hopened
            next halloc =>
              obtain ⟨-, rfl⟩ := Prod.mk.inj hopened
              exact (MagPort.chunks_of_allocSb halloc :)
            next halloc =>
              obtain ⟨-, rfl⟩ := Prod.mk.inj hopened
              exact (MagPort.chunks_of_allocSb halloc :)
        split at hn <;> rw [← hn] <;> exact hq1

theorem MagPort.chunks_closeFull (q : MagPort) : q.closeFull.chunks = q.chunks := by
  unfold MagPort.closeFull
  split
  · split <;> rfl
  · rfl

/-- What a check that fails leaves of the device: the try is counted, and the chunk waits to be sent again. -/
def Dev.resend (d : Dev) (str p : Nat) : Dev :=
  (((d.modCap str (fun c => { c with tries := c.tries + 1 })).bump 0x1C 0x20).count 0x7058).fireInt (587 + p)

section
variable {s : State} {p str : Nat} {c : Cap} {bytes : List Byte} (hcap : s.m.dev.cap str = some c) (hout : c.outq = [])
  (hport : s.m.dev.chunkPort c = p) (hnext : c.nextChunk = some bytes) (hmount : (s.m.dev.mag p).mounted = true)
  (hro : (s.m.dev.mag p).readOnly = false) (hwork : s.m.dev.takesWork (8 + p) = true)
include hcap hout hport hnext hmount hro hwork

/-- A chunk whose check fails is sent again, twice at most (R310). -/
theorem execChunkCheck_of_bad (htries : c.tries < 2) :
    exec (.chunkCheck str true) s = live (fun m => { m with dev := m.dev.resend str p }) s := by
  show execChunkCheck str true s = _
  unfold execChunkCheck
  refine live_congr ?_
  simp [hcap, hout, hport, hnext, hmount, hro, hwork, htries, Dev.takeFrames, Dev.resend]

theorem chunkCheck_bad_yields (hl : s.Live) (hs : s.m.dev.Shape) (htries : c.tries < 2) :
    Yields (.chunkCheck str true) s [.seq, .stats, .commands, .events, .errorLog, .logs, .flt, .bbx, .link, .pools, .caps, .mags, .carriers, .feat 0x00, .feat 0x1B, .feat 0x1C, .feat 0x1D] (fun t =>
      (t.m.dev.cap str).map (fun x => (x.tries, x.chunks)) = some (c.tries + 1, c.chunks) ∧
      (t.m.dev.mag p).chunks = (s.m.dev.mag p).chunks ∧
      t.m.dev.reg 0x1C 0x20 = word (satAdd32 (s.m.dev.reg 0x1C 0x20).toNat 1)) := by
  refine yields_of_live hl (execChunkCheck_of_bad hcap hout hport hnext hmount hro hwork htries) (execChunkCheck_framed ..)
    (by decide) ?_
  have htame := Dev.modCap_tame (ps := setOf [.caps]) (by decide) (.refl _ s.m.dev) str (fun c => { c with tries := c.tries + 1 })
  have hmod := Dev.cap_modCap_same hcap (fun c => { c with tries := c.tries + 1 })
  have hreg := (Dev.reg_bump (htame.shape hs) 0x1C 0x20 1).trans (by rw [htame.reg_eq (f := 0x1C) (by decide) (by decide)])
  dsimp only [Dev.resend]
  rw [Dev.settle_cap, Dev.settle_mag, Dev.settle_reg, Dev.fireInt_cap, Dev.fireInt_mag, Dev.fireInt_reg]
  exact ⟨congrArg (Option.map (fun x : Cap => (x.tries, x.chunks))) hmod, congrArg MagPort.chunks (htame.mag_eq (by decide) p), hreg⟩

/-- A chunk whose check holds is taken into a buffer, and its units are placed (R308, R309). -/
theorem execChunkCheck_of_good {buf : Nat} {d : Dev} {x : Stripe}
    (hgrant : s.m.dev.poolGrant 2 0 c.ctx (64 + 4 * p + c.chunks % 4) 0 = (some buf, d)) (hmag : d.mag p = s.m.dev.mag p)
    (hfill : (((s.m.dev.mag p).openFill.closeFull).openFill).fill = some x) :
    ∃ q : MagPort, q.chunks = (s.m.dev.mag p).chunks ++ [{ stream := str, no := c.chunks, buf := buf }] ∧
      exec (.chunkCheck str false) s = live (fun m => { m with dev := (d.onMag p (fun _ => q)).modCap str Cap.chunkGone }) s := by
  refine ⟨?port, ?chunks, ?run⟩
  case run =>
    show execChunkCheck str false s = _
    unfold execChunkCheck
    refine live_congr ?_
    simp only [hcap, hout, hport, hnext, hmount, hro, hwork, Dev.takeFrames, hgrant, hmag, hfill, List.length_nil, Bool.not_true,
      Bool.false_eq_true, or_self, if_false, false_and]
    rfl
  case chunks =>
    dsimp only
    rw [MagPort.chunks_openFill, MagPort.chunks_closeFull, MagPort.chunks_openFill]

theorem chunkCheck_good_yields (hl : s.Live) (hs : s.m.dev.Shape) (hp : p < 2) {buf : Nat} {d : Dev} {x : Stripe}
    (hgrant : s.m.dev.poolGrant 2 0 c.ctx (64 + 4 * p + c.chunks % 4) 0 = (some buf, d))
    (hfill : (((s.m.dev.mag p).openFill.closeFull).openFill).fill = some x) :
    Yields (.chunkCheck str false) s [.seq, .stats, .commands, .events, .errorLog, .logs, .flt, .bbx, .link, .pools, .caps, .mags, .carriers, .feat 0x00, .feat 0x1B, .feat 0x1C, .feat 0x1D] (fun t =>
      (t.m.dev.cap str).map (fun x => (x.tries, x.chunks, x.cut)) = some (0, c.chunks + 1, c.cut.drop 65536) ∧
      (t.m.dev.mag p).chunks = (s.m.dev.mag p).chunks ++ [{ stream := str, no := c.chunks, buf := buf }]) := by
  have hpool := Dev.poolGrant_tame (ps := setOf [.free, .seq, .stats, .commands, .events, .flt, .twk, .bbx, .link, .pools, .sent, .feat 0x1B])
    (by decide) (.refl _ s.m.dev) 2 0 c.ctx (64 + 4 * p + c.chunks % 4) 0
  rw [hgrant] at hpool
  obtain ⟨q, hchunks, he⟩ := execChunkCheck_of_good hcap hout hport hnext hmount hro hwork hgrant (hpool.mag_eq (by decide) p) hfill
  have hcapd : (d.onMag p (fun _ => q)).cap str = some c := (hpool.cap_eq (by decide) str).trans hcap
  have hcapt := Dev.cap_modCap_same hcapd Cap.chunkGone
  have hmod := Dev.modCap_tame (ps := setOf [.caps]) (by decide) (.refl _ (d.onMag p (fun _ => q))) str Cap.chunkGone
  refine yields_of_live hl he (execChunkCheck_framed ..) (by decide) ?_
  dsimp only
  rw [Dev.settle_cap, Dev.settle_mag, hcapt, hmod.mag_eq (by decide), Dev.mag_onMag_same (hpool.lt_mags hs hp)]
  exact ⟨rfl, hchunks⟩

end

end Sys2Proof.Machine
end

section
/-! Program stripes, their statuses and erases (R316 to R319, R321, R324, R329). -/

namespace Sys2Proof.Machine
open Sys2Proof

theorem Dev.mag_bump (d : Dev) (feat o n p : Nat) : (d.bump feat o n).mag p = d.mag p := rfl

theorem Dev.mag_count (d : Dev) (o n p : Nat) : (d.count o n).mag p = d.mag p := rfl

/-! ### Stripes that are issued and padded (R317) -/

theorem Dev.issueStripe_tame_self (d : Dev) (p : Nat) : Dev.Tame (setOf [.mags]) d (d.issueStripe p) :=
  Dev.issueStripe_tame (by decide) (.refl _ d) p

/-- The stripe under fill is none of those that wait for their program. -/
theorem Dev.issueStripe_fill (d : Dev) (p i : Nat) : ((d.issueStripe p).mag i).fill = (d.mag i).fill := by
  unfold Dev.issueStripe
  dsimp only
  split
  · rfl
  · exact Dev.keeps_onMag MagPort.fill rfl i

/-- A stripe that is issued takes the next WRITE_SEQ, and waits for each of its dies. -/
theorem Dev.issueStripe_issued {d : Dev} {p : Nat} {x : Stripe} (hp : p < d.mags.length) (herase : (d.mag p).erasing = [])
    (hx : (d.mag p).programs.find? (fun x => x.seq.isNone) = some x) :
    ((d.issueStripe p).mag p).vol.seq = ((d.mag p).vol.seq + 1) % 2 ^ 32 ∧
    ∃ y ∈ ((d.issueStripe p).mag p).programs, y.seq = some (((d.mag p).vol.seq + 1) % 2 ^ 32) ∧ y.waiting = x.dies ∧ y.units = x.units := by
  have hmem := List.mem_of_find?_eq_some hx
  have hnone (l : List (Nat × Nat)) : (l.any fun e => ([] : List (Nat × Nat)).contains e) = false :=
    List.any_eq_false.mpr (fun _ _ => Bool.false_ne_true)
  unfold Dev.issueStripe
  simp only [herase, hnone, Bool.not_false, Bool.and_true, hx]
  rw [Dev.mag_onMag_same hp]
  exact ⟨rfl, _, mem_modifyFirst_const hmem (decide_eq_true rfl) _, rfl, rfl, rfl⟩

theorem stripeProgram_yields {s : State} {p : Nat} {x : Stripe} (hl : s.Live) (hs : s.m.dev.Shape) (hp : p < 2)
    (hmount : (s.m.dev.mag p).mounted = true) (hwork : s.m.dev.takesWork (8 + p) = true) (herase : (s.m.dev.mag p).erasing = [])
    (hx : (s.m.dev.mag p).programs.find? (fun x => x.seq.isNone) = some x) :
    Yields (.stripeProgram p) s [.mags] (fun t => (t.m.dev.mag p).vol.seq = ((s.m.dev.mag p).vol.seq + 1) % 2 ^ 32 ∧
      ∃ y ∈ (t.m.dev.mag p).programs, y.seq = some (((s.m.dev.mag p).vol.seq + 1) % 2 ^ 32) ∧ y.waiting = x.dies ∧ y.units = x.units) := by
  refine yields_of_liveDev hl (show exec _ s = execStripeProgram p s from rfl) (execStripeProgram_framed p s) (by decide) ?_
  rw [onlyIf_of_true (by simp only [hp, hmount, hwork, decide_true, Bool.and_self])]
  simp only [Dev.settle_mag]
  exact Dev.issueStripe_issued (hs.lt_mags hp) herase hx

/-- A stripe of as many units as its line has leaves the fill. -/
theorem MagPort.closeFull_fill {q : MagPort} {x : Stripe} (hx : q.fill = some x) (hfull : q.perLine x.group x.sb ≤ x.units.length) :
    q.closeFull.fill = none := by
  unfold MagPort.closeFull
  rw [hx]
  simp only [hfull, if_true]

/-- A stripe with its padding. -/
def Stripe.padded (x : Stripe) (n : Nat) : Stripe := { x with units := x.units ++ List.replicate n padUnit }

theorem Stripe.padded_length (x : Stripe) (n : Nat) : (x.padded n).units.length = x.units.length + n := by
  simp only [Stripe.padded, List.length_append, List.length_replicate]

/-- A port whose stripe under fill is padded and closed. -/
def MagPort.flushed (q : MagPort) (x : Stripe) (n : Nat) : MagPort := ({ q with fill := some (x.padded n) }).closeFull

theorem MagPort.flushed_fill {q : MagPort} {x : Stripe} {n : Nat} (hn : q.perLine x.group x.sb ≤ x.units.length + n) :
    (q.flushed x n).fill = none := by
  refine MagPort.closeFull_fill rfl ?_
  rw [Stripe.padded_length]
  exact hn

/-- What the timeout of the fill `x` of port `p` does: time passes, the stripe is padded and closed, and the oldest is issued. -/
def Dev.flush (d : Dev) (p : Nat) (x : Stripe) : Dev :=
  let n := (d.mag p).perLine x.group x.sb - x.units.length
  let d2 := (d.advanceTo (x.lastAt - 1 + 1000 * fld (d.reg 0x1C 0) 0 10)).onMag p (fun q => q.flushed x n)
  ((d2.count (magStat p 0x18) n).bump 0x1D (0x100 * p + 0x30) n).issueStripe p

theorem Dev.flush_fill {d : Dev} {p : Nat} (x : Stripe) (hp : p < d.mags.length) : ((d.flush p x).mag p).fill = none := by
  have htime := d.advanceTo_tame_self (x.lastAt - 1 + 1000 * fld (d.reg 0x1C 0) 0 10)
  have hport : p < (d.advanceTo (x.lastAt - 1 + 1000 * fld (d.reg 0x1C 0) 0 10)).mags.length :=
    Nat.lt_of_lt_of_eq hp (congrArg List.length (htime.same .mags (by decide) : _ = d.mags)).symm
  unfold Dev.flush
  rw [Dev.issueStripe_fill, Dev.mag_bump, Dev.mag_count, Dev.mag_onMag_same hport, htime.mag_eq (by decide)]
  exact MagPort.flushed_fill (by omega)

theorem Dev.flush_clk (d : Dev) (p : Nat) (x : Stripe) :
    (d.flush p x).clk = max d.clk (x.lastAt - 1 + 1000 * fld (d.reg 0x1C 0) 0 10) :=
  ((Dev.issueStripe_tame_self _ p).same .clk (by decide)).trans (d.advanceTo_clk _)

/-- The padding is counted in its register (R335). -/
theorem Dev.flush_reg {d : Dev} (hs : d.Shape) (p : Nat) (x : Stripe) : (d.flush p x).reg 0x1D (0x100 * p + 0x30) =
    word (satAdd32 (d.reg 0x1D (0x100 * p + 0x30)).toNat ((d.mag p).perLine x.group x.sb - x.units.length)) := by
  generalize hn : (d.mag p).perLine x.group x.sb - x.units.length = n
  have hpad : Dev.Tame (setOf [.clk, .stats, .sid, .mags]) d
      (((d.advanceTo (x.lastAt - 1 + 1000 * fld (d.reg 0x1C 0) 0 10)).onMag p (fun q => q.flushed x n)).count (magStat p 0x18) n) :=
    Dev.count_tame (by decide) (Dev.onMag_tame (by decide) (Dev.advanceTo_tame (by decide) (.refl _ d) _) ..) ..
  unfold Dev.flush
  rw [(Dev.issueStripe_tame_self _ p).reg_eq (f := 0x1D) (by decide) (by decide), hn, Dev.reg_bump (hpad.shape hs),
    hpad.reg_eq (f := 0x1D) (by decide) (by decide)]

theorem flushTimeout_yields {s : State} {p : Nat} {x : Stripe} (hl : s.Live) (hs : s.m.dev.Shape) (hp : p < 2)
    (hmount : (s.m.dev.mag p).mounted = true) (hwork : s.m.dev.takesWork (8 + p) = true) (hx : (s.m.dev.mag p).fill = some x)
    (hlast : x.lastAt ≠ 0) :
    Yields (.flushTimeout p) s [.clk, .stats, .sid, .mags, .feat 0x1D] (fun t => (t.m.dev.mag p).fill = none ∧
      t.m.dev.clk = max s.m.dev.clk (x.lastAt - 1 + 1000 * fld (s.m.dev.reg 0x1C 0) 0 10) ∧
      t.m.dev.reg 0x1D (0x100 * p + 0x30) = word (satAdd32 (s.m.dev.reg 0x1D (0x100 * p + 0x30)).toNat
        ((s.m.dev.mag p).perLine x.group x.sb - x.units.length))) := by
  have he : exec (.flushTimeout p) s = liveDev (fun d => d.flush p x) s := by
    show execFlushTimeout p s = _
    unfold execFlushTimeout
    refine live_congr ?_
    simp only [onlyIf, hp, hmount, hwork, hx, hlast, decide_true, Bool.and_self, if_true, if_false]
    rfl
  refine yields_of_liveDev hl he (execFlushTimeout_framed p s) (by decide) ?_
  dsimp only
  rw [Dev.settle_mag, Dev.settle_clk, Dev.settle_reg]
  exact ⟨Dev.flush_fill x (hs.lt_mags hp), Dev.flush_clk .., Dev.flush_reg hs p x⟩

end Sys2Proof.Machine
end

section
/-! Statuses of programs and erases, and their timeout (R316, R319, R321, R324, R329). -/

namespace Sys2Proof.Machine
open Sys2Proof

/-! ### A stripe whose statuses are all read (R319) -/

/-- A stripe that is done leaves the programs of its port. -/
theorem Mach.stripeDone_programs {m : Mach} {p : Nat} (hp : p < m.dev.mags.length) (x : Stripe) :
    ((m.stripeDone p x).dev.mag p).programs = (m.dev.mag p).programs.filter (fun y => decide (y.seq ≠ x.seq)) := by
  generalize hn : m.stripeDone p x = n
  unfold Mach.stripeDone at hn
  extract_lets _ _ _ _ _ _ _ _ _ rest _ freed d1 d2 d3 at hn
  have hmags : (d3.fireInt (587 + p)).mags = d1.mags := by
    rw [Dev.fireInt_mags]
    exact foldl_keeps (g := Dev.mags) (f := fun (d : Dev) (ch : Chunk) => d.setBuf 2 ch.buf none) (fun _ _ _ => rfl) d1
  have hstays := Mach.advanceMarks_stays { m with dev := d3.fireInt (587 + p) }
  rw [hn] at hstays
  have hport : d1.mag p = _ := Dev.mag_onMag_same hp _
  calc (n.dev.mag p).programs
      = ((d3.fireInt (587 + p)).mag p).programs := (congrArg MagPort.programs (hstays.station p) :)
    _ = rest := by rw [Dev.mag_of_mags hmags, hport]

theorem Mach.stripeDone_clk (m : Mach) (p : Nat) (x : Stripe) : (m.stripeDone p x).dev.clk = m.dev.clk :=
  (Mach.stripeDone_tame_dev (ps := setOf [.seq, .stats, .commands, .errorLog, .msix, .intr, .bbx, .link, .pools, .caps, .mags, .sent,
    .feat 0x00, .feat 0x1D]) (by decide) (.refl _ m.dev) p x).same .clk (by decide)

/-! ### A status that is read (R321) -/

/-- A stripe that no longer waits for a die. -/
def Stripe.without (x : Stripe) (die : Nat) : Stripe := { x with waiting := x.waiting.filter (fun y => decide (y ≠ die)) }

/-- The programs of a port with `x` in place of the first of its number. -/
def MagPort.putStripe (q : MagPort) (x : Stripe) : MagPort :=
  { q with programs := modifyFirst (fun y => decide (y.seq = x.seq)) (fun _ => x) q.programs }

/-- What a status that is a pass leaves of the device. -/
def Dev.passed (d : Dev) (p dt : Nat) (x : Stripe) : Dev := (d.advance dt).onMag p (fun q => q.putStripe x)

theorem Dev.passed_clk (d : Dev) (p dt : Nat) (x : Stripe) : (d.passed p dt x).clk = d.clk + dt := rfl

theorem Dev.passed_length (d : Dev) (p dt : Nat) (x : Stripe) : (d.passed p dt x).mags.length = d.mags.length := Dev.onMag_length ..

theorem Dev.passed_mag {d : Dev} {p : Nat} (hp : p < d.mags.length) (dt : Nat) (x : Stripe) :
    (d.passed p dt x).mag p = (d.mag p).putStripe x := Dev.mag_onMag_same (d := d.advance dt) hp _

section
variable {s : State} {p die : Nat} {x : Stripe} (hp : p < 2) (hport : p < s.m.dev.mags.length) (hmount : (s.m.dev.mag p).mounted = true)
  (hx : (s.m.dev.mag p).programs.find? (fun x => x.seq.isSome && x.waiting.contains die) = some x)
include hx

theorem MagPort.find_putStripe : (MagPort.putStripe (s.m.dev.mag p) (x.without die)).programs.find?
    (fun y => decide (y.seq = x.seq)) = some (x.without die) := by
  have hmem := List.mem_of_find?_eq_some hx
  have hsome : ((s.m.dev.mag p).programs.find? (fun y => decide (y.seq = x.seq))).isSome = true :=
    List.find?_isSome.mpr ⟨x, hmem, decide_eq_true rfl⟩
  obtain ⟨y, hy⟩ := Option.isSome_iff_exists.mp hsome
  have hput := find?_modifyFirst_of_imp (p := fun y : Stripe => decide (y.seq = x.seq)) (f := fun _ => x.without die)
    (fun _ _ => decide_eq_true rfl) (s.m.dev.mag p).programs
  rw [hy] at hput
  exact hput

include hp hport hmount in
/-- A program that passes on a die: the stripe no longer waits for it, and is done when it waits for none. -/
theorem execProgramDone_of_pass (dt : Nat) : ∃ mem : Mem, exec (.programDone p die dt none) s = live (fun m =>
    if (x.without die).waiting.isEmpty then ({ dev := m.dev.passed p dt (x.without die), mem := mem } : Mach).stripeDone p (x.without die)
    else { dev := m.dev.passed p dt (x.without die), mem := mem }) s := by
  refine ⟨?mem, ?run⟩
  case run =>
    show execProgramDone p die dt none s = _
    unfold execProgramDone
    refine live_congr ?_
    have hfind : ((s.m.dev.passed p dt (x.without die)).mag p).programs.find? (fun y => decide (y.seq = x.seq)) =
        some (x.without die) := by
      rw [Dev.passed_mag hport]
      exact MagPort.find_putStripe hx
    have hx' : ((s.m.dev.advance dt).mag p).programs.find? (fun x => x.seq.isSome && x.waiting.contains die) = some x := hx
    rw [onlyIf_of_true (by rw [hmount, decide_eq_true hp]; rfl)]
    simp only [hx', Option.map_none, Mach.programPages_dev]
    split
    next y hy =>
      obtain rfl : x.without die = y := Option.some.inj (hfind.symm.trans hy)
      rfl
    next hnone => exact absurd (hfind.symm.trans hnone) (Option.some_ne_none _)

end

/-! ### Erases, and statuses that do not come (R316, R324) -/

/-- An erase is counted for its block (R324). -/
theorem Mach.eraseBlock_erases {m : Mach} {p : Nat} (hp : p < m.dev.mags.length) (die block : Nat) :
    Tbl.get (fun _ => 0) ((m.eraseBlock p die block).dev.mag p).vol.erases (8192 * die + block) =
      Tbl.get (fun _ => 0) (m.dev.mag p).vol.erases (8192 * die + block) + 1 := by
  unfold Mach.eraseBlock
  dsimp only
  rw [Mach.onCarrier_dev, Dev.mag_count, Dev.mag_onVol_same hp]
  exact Tbl.get_set_succ ..

theorem eraseDone_yields {s : State} {p : Nat} {e : Nat × Nat} {r : List (Nat × Nat)} (hl : s.Live) (hs : s.m.dev.Shape) (hp : p < 2)
    (hmount : (s.m.dev.mag p).mounted = true) (herase : (s.m.dev.mag p).erasing = e :: r) (dt : Nat) :
    Yields (.eraseDone p dt false) s [.clk, .seq, .stats, .commands, .events, .flt, .bbx, .sid, .link, .mags, .carriers, .feat 0x1C, .feat 0x1D] (fun t => (t.m.dev.mag p).erasing = r ∧ t.m.dev.clk = s.m.dev.clk + dt ∧
      Tbl.get (fun _ => 0) (t.m.dev.mag p).vol.erases (8192 * e.1 + e.2) =
        Tbl.get (fun _ => 0) (s.m.dev.mag p).vol.erases (8192 * e.1 + e.2) + 1) := by
  have hport : p < (s.m.dev.advance dt).mags.length := hs.lt_mags hp
  have he : exec (.eraseDone p dt false) s = live (fun m =>
      Mach.eraseBlock { m with dev := (m.dev.advance dt).onMag p (fun q => { q with erasing := r }) } p e.1 e.2) s := by
    show execEraseDone p dt false s = _
    unfold execEraseDone
    refine live_congr ?_
    rw [onlyIf_of_true (by rw [hmount, decide_eq_true hp]; rfl)]
    have herase' : ((s.m.dev.advance dt).mag p).erasing = e :: r := herase
    simp only [herase', Bool.not_false, if_true]
  refine yields_of_live hl he (execEraseDone_framed p dt false s) (by decide) ?_
  dsimp only
  generalize hm : ({ dev := (s.m.dev.advance dt).onMag p (fun q => { q with erasing := r }), mem := s.m.mem } : Mach) = m
  have hmag : m.dev.mag p = { s.m.dev.mag p with erasing := r } := by
    rw [← hm]
    exact Dev.mag_onMag_same hport _
  have hlen : p < m.dev.mags.length := by rwa [← hm, Dev.onMag_length]
  have hkept := (m.eraseBlock_writes p e.1 e.2).kept p
  have hclk : (m.eraseBlock p e.1 e.2).dev.clk = m.dev.clk :=
    (Mach.eraseBlock_tame_dev (ps := setOf [.stats, .mags]) (by decide) (.refl _ m.dev) ..).same .clk (by decide)
  have herasing : ((m.eraseBlock p e.1 e.2).dev.mag p).erasing = (m.dev.mag p).erasing := (congrArg MagPort.erasing hkept :)
  rw [Dev.settle_mag, Dev.settle_clk, Mach.eraseBlock_erases hlen, herasing, hmag, hclk, ← hm]
  exact ⟨rfl, rfl, rfl⟩

/-- A status that does not come is counted for its die, and fails it at the third (R316). -/
theorem statusTimeout_yields {s : State} {p die : Nat} (hl : s.Live) (hs : s.m.dev.Shape) (hp : p < 2)
    (hmount : (s.m.dev.mag p).mounted = true) (hbusy : (s.m.dev.mag p).programs.any (fun x => x.waiting.contains die) = true)
    (hn : Tbl.get (fun _ => 0) (s.m.dev.mag p).timeouts die < 2) (dt : Nat) :
    Yields (.statusTimeout p die dt) s [.clk, .seq, .stats, .commands, .events, .errorLog, .logs, .flt, .bbx, .sid, .link, .pools, .caps, .codec, .mags, .carriers, .feat 0x00, .feat 0x1C, .feat 0x1D] (fun t => t.m.dev.clk = s.m.dev.clk + dt ∧
      Tbl.get (fun _ => 0) (t.m.dev.mag p).timeouts die = Tbl.get (fun _ => 0) (s.m.dev.mag p).timeouts die + 1) := by
  have hport : p < (s.m.dev.advance dt).mags.length := hs.lt_mags hp
  have hfew : ¬ 3 ≤ Tbl.get (fun _ => 0) (s.m.dev.mag p).timeouts die + 1 := by omega
  have he : exec (.statusTimeout p die dt) s = live (fun m => { m with dev := (m.dev.advance dt).onMag p (fun q =>
      { q with timeouts := Tbl.set (fun _ => 0) q.timeouts die (Tbl.get (fun _ => 0) (m.dev.mag p).timeouts die + 1) }) }) s := by
    show execStatusTimeout p die dt s = _
    unfold execStatusTimeout
    refine live_congr ?_
    rw [onlyIf_of_true (by rw [hmount, decide_eq_true hp]; rfl)]
    have hmag : (s.m.dev.advance dt).mag p = s.m.dev.mag p := rfl
    simp only [hmag, hbusy, Bool.true_or, Bool.not_true, Bool.false_eq_true, hfew, if_false]
  refine yields_of_live hl he (execStatusTimeout_framed p die dt s) (by decide) ?_
  dsimp only
  rw [Dev.settle_mag, Dev.settle_clk, Dev.mag_onMag_same hport]
  exact ⟨rfl, Tbl.get_set_succ ..⟩

/-! ### The clauses -/

section
variable {s : State} {p die : Nat} {x : Stripe} (hl : s.Live) (hs : s.m.dev.Shape) (hp : p < 2)
  (hmount : (s.m.dev.mag p).mounted = true)
  (hx : (s.m.dev.mag p).programs.find? (fun x => x.seq.isSome && x.waiting.contains die) = some x)
include hl hs hp hmount hx

theorem programDone_waiting_yields (dt : Nat) (hwait : x.waiting.filter (fun y => decide (y ≠ die)) ≠ []) :
    Yields (.programDone p die dt none) s [.clk, .seq, .stats, .commands, .events, .errorLog, .logs, .flt, .bbx, .sid, .link, .pools, .caps, .codec, .mags, .carriers, .feat 0x00, .feat 0x1C, .feat 0x1D] (fun t => t.m.dev.clk = s.m.dev.clk + dt ∧
        ∃ y ∈ (t.m.dev.mag p).programs, y.seq = x.seq ∧ y.waiting = x.waiting.filter (fun y => decide (y ≠ die))) := by
  obtain ⟨mem, he⟩ := execProgramDone_of_pass hp (hs.lt_mags hp) hmount hx dt
  have hmore : (x.without die).waiting.isEmpty = false := List.isEmpty_eq_false_iff.mpr hwait
  simp only [hmore, Bool.false_eq_true, if_false] at he
  refine yields_of_live hl he (execProgramDone_framed p die dt none s) (by decide) ?_
  dsimp only
  rw [Dev.settle_mag, Dev.settle_clk, Dev.passed_clk, Dev.passed_mag (hs.lt_mags hp)]
  exact ⟨rfl, _, List.mem_of_find?_eq_some (MagPort.find_putStripe hx), rfl, rfl⟩

theorem programDone_last_yields (dt : Nat) (hwait : x.waiting.filter (fun y => decide (y ≠ die)) = []) :
    Yields (.programDone p die dt none) s [.clk, .seq, .stats, .commands, .events, .errorLog, .logs, .flt, .bbx, .sid, .link, .pools, .caps, .codec, .mags, .carriers, .feat 0x00, .feat 0x1C, .feat 0x1D] (fun t => t.m.dev.clk = s.m.dev.clk + dt ∧
        ∀ y ∈ (t.m.dev.mag p).programs, y.seq ≠ x.seq) := by
  have hport : p < (s.m.dev.passed p dt (x.without die)).mags.length := by
    rw [Dev.passed_length]
    exact hs.lt_mags hp
  obtain ⟨mem, he⟩ := execProgramDone_of_pass hp (hs.lt_mags hp) hmount hx dt
  have hnone : (x.without die).waiting.isEmpty = true := List.isEmpty_iff.mpr hwait
  simp only [hnone, if_true] at he
  refine yields_of_live hl he (execProgramDone_framed p die dt none s) (by decide) ?_
  dsimp only
  rw [Dev.settle_mag, Dev.settle_clk, Mach.stripeDone_clk, Mach.stripeDone_programs hport]
  exact ⟨rfl, fun y hy => of_decide_eq_true (List.mem_filter.mp hy).2⟩

end

/-- Settles O45: a chunk by what its check answers, a stripe by the program that it becomes, and a status by what still waits for it. -/
theorem flashWrites : Obligations.FlashWrites := by
  intro s p hl hs hp hmount
  refine ⟨fun str c bytes hcap hout hport hnext hro hwork => ⟨fun htries => ?_, fun buf d x hgrant hfill => ?_⟩,
    fun x hwork herase hx => stripeProgram_yields hl hs hp hmount hwork herase hx,
    fun x hwork hx hlast => flushTimeout_yields hl hs hp hmount hwork hx hlast,
    fun die dt x hx => ⟨programDone_waiting_yields hl hs hp hmount hx dt, fun hwait _ => programDone_last_yields hl hs hp hmount hx dt hwait⟩,
    fun dt e r herase => eraseDone_yields hl hs hp hmount herase dt,
    fun die dt hbusy hn => statusTimeout_yields hl hs hp hmount hbusy hn dt⟩
  · exact chunkCheck_bad_yields hcap hout hport hnext hmount hro hwork hl hs htries
  · exact chunkCheck_good_yields hcap hout hport hnext hmount hro hwork hl hs hp hgrant hfill

end Sys2Proof.Machine
end

section
/-! Carriers that come and go, reads, relocation, the retention scan and checkpoints (R288, R289, R302, R326, R328, R330, R346). -/

namespace Sys2Proof.Machine
open Sys2Proof

/-! ### Carriers that come and go (R288, R289, R330) -/

theorem magSeated_yields {s : State} {p : Nat} (hl : s.Live) (hs : s.m.dev.Shape) (hp : p < 2) (id : Nat) (desc0 desc1 : List Byte)
    (env : List Nat) :
    Yields (.magPresentNChange p true (id, desc0, desc1, env)) s [.mags, .carriers] (fun t =>
      (t.m.dev.mag p).seated = some id ∧ (t.m.dev.mag p).lineAt = s.m.dev.clk ∧ (t.m.dev.mag p).present = (s.m.dev.mag p).present) := by
  refine yields_of_live hl (show exec _ s = execMagPresentNChange p true (id, desc0, desc1, env) s from rfl)
    (execMagPresentNChange_framed p true (id, desc0, desc1, env) s) (by decide) ?_
  rw [onlyIf_of_true (decide_eq_true hp)]
  dsimp only
  rw [Dev.settle_mag, Dev.mag_onMag_same (hs.lt_mags hp)]
  exact ⟨rfl, rfl, rfl⟩

theorem magUnseated_yields {s : State} {p : Nat} (hl : s.Live) (hs : s.m.dev.Shape) (hp : p < 2)
    (e : Nat × List Byte × List Byte × List Nat) :
    Yields (.magPresentNChange p false e) s [.mags, .carriers] (fun t => (t.m.dev.mag p).seated = none ∧
      (t.m.dev.mag p).lineAt = s.m.dev.clk ∧ t.m.mem = s.m.mem) := by
  refine yields_of_live hl (show exec _ s = execMagPresentNChange p false e s from rfl)
    (execMagPresentNChange_framed p false e s) (by decide) ?_
  rw [onlyIf_of_true (decide_eq_true hp)]
  dsimp only
  rw [Dev.settle_mag, Dev.mag_onMag_same (hs.lt_mags hp)]
  exact ⟨rfl, rfl, rfl⟩

theorem magPresent_yields {s : State} {p : Nat} (hl : s.Live) (hs : s.m.dev.Shape) (hp : p < 2)
    (hseated : (s.m.dev.mag p).seated.isSome = true) (hpresent : (s.m.dev.mag p).present = false) :
    Yields (.magPresent p) s [.clk, .seq, .commands, .events, .sid, .mags] (fun t => (t.m.dev.mag p).present = true ∧
      t.m.dev.clk = max s.m.dev.clk (100000000 + (s.m.dev.mag p).lineAt)) := by
  refine yields_of_liveDev hl (show exec _ s = execMagPresent p s from rfl) (execMagPresent_framed p s) (by decide) ?_
  rw [onlyIf_of_true (by rw [hseated, hpresent, decide_eq_true hp]; rfl)]
  have htime := s.m.dev.advanceTo_tame_self (100000000 + (s.m.dev.mag p).lineAt)
  have hpost := Dev.postEvent_tame (ps := setOf [.seq, .commands, .events]) (by decide)
    (.refl _ ((s.m.dev.advanceTo (100000000 + (s.m.dev.mag p).lineAt)).onMag p (fun q => { q with present := true }))) 0x03 0 p
  dsimp only
  rw [Dev.settle_mag, Dev.settle_clk, Dev.fireInt_mag, Dev.fireInt_clk, hpost.mag_eq (by decide), hpost.same .clk (by decide),
    Dev.mag_onMag_same (htime.lt_mags hs hp)]
  exact ⟨rfl, Dev.advanceTo_clk ..⟩

/-- A change outside the crystal clock leaves it. -/
theorem Dev.Tame.clk_eq {ps : Nat} {d e : Dev} (h : Dev.Tame ps d e) (hp : ps.testBit 0 = false) : e.clk = d.clk := h.same .clk hp

theorem Mach.remove_clk (m : Mach) (p : Nat) : (m.remove p).dev.clk = m.dev.clk := by
  have htame : Dev.Tame (setOf [.seq, .stats, .commands, .events, .errorLog, .logs, .msix, .flt, .intr, .bbx, .link, .pools, .pins, .caps,
      .codec, .mags, .sent, .feat 0x00, .feat 0x1D]) m.dev (m.remove p).dev := Mach.remove_tame_dev (by decide) (.refl _ m.dev) p
  exact htame.clk_eq (by decide)

theorem magRemoved_yields {s : State} {p : Nat} (hl : s.Live) (hs : s.m.dev.Shape) (hp : p < 2)
    (hseated : (s.m.dev.mag p).seated = none) (hpresent : (s.m.dev.mag p).present = true) :
    Yields (.magRemoved p) s [.clk, .seq, .stats, .commands, .events, .errorLog, .logs, .flt, .bbx, .sid, .link, .pools, .pins, .caps, .codec, .mags, .carriers, .feat 0x00, .feat 0x1D] (fun t => (t.m.dev.mag p).present = false ∧ (t.m.dev.mag p).mounted = false ∧
      t.m.dev.clk = max s.m.dev.clk (10000 + (s.m.dev.mag p).lineAt)) := by
  have he : exec (.magRemoved p) s = live (fun m => Mach.remove { m with dev := m.dev.advanceTo (10000 + (m.dev.mag p).lineAt) } p) s := by
    show execMagRemoved p s = _
    unfold execMagRemoved
    refine live_congr ?_
    rw [onlyIf_of_true (by rw [hseated, hpresent, decide_eq_true hp]; rfl)]
  refine yields_of_live hl he (execMagRemoved_framed p s) (by decide) ?_
  have hport := (s.m.dev.advanceTo_tame_self (10000 + (s.m.dev.mag p).lineAt)).lt_mags hs hp
  obtain ⟨-, hgone, hunmounted⟩ :=
    Mach.remove_mag (m := { s.m with dev := s.m.dev.advanceTo (10000 + (s.m.dev.mag p).lineAt) }) hport
  dsimp only
  rw [Dev.settle_mag, Dev.settle_clk, Mach.remove_clk]
  exact ⟨hgone, hunmounted, Dev.advanceTo_clk ..⟩

/-! ### Reads (R302, R326) -/

/-- The block of a PPA, as reads are counted. -/
def readKey (ppa : Nat) : Nat := 8192 * (ppa / 2 ^ 25) + ppa / 4096 % 8192

/-- The volume with one more read of a block. -/
def Volume.countRead (v : Volume) (key n : Nat) : Volume := { v with reads := Tbl.set (fun _ => 0) v.reads key n }

/-- A codeword read counts for its block, and at most lists it for relocation: it does when the read took step 2 or beyond. -/
theorem Dev.codewordEnd_cases (d : Dev) (p ppa step bits : Nat) : ∃ e : Dev,
    e.mags = (d.onVol p (fun v => v.countRead (readKey ppa) (Tbl.get (fun _ => 0) (d.mag p).vol.reads (readKey ppa) + 1))).mags ∧
    ((d.codewordEnd p ppa step bits = e ∧
        (2 ≤ step → (d.mag p).relocDue.any (fun x => decide (x.1 = ppa / 2 ^ 25) && decide (x.2.1 = ppa / 4096 % 8192)) = true)) ∨
      d.codewordEnd p ppa step bits =
        e.onMag p (fun q => { q with relocDue := q.relocDue ++ [(ppa / 2 ^ 25, ppa / 4096 % 8192, decide (3 ≤ step))] })) := by
  generalize hn : d.codewordEnd p ppa step bits = n
  unfold Dev.codewordEnd at hn
  extract_lets q die blk key reads d1 d2 pct due at hn
  refine ⟨d2, ?mags, ?read⟩
  case mags =>
    dsimp only [d2]
    split
    · rfl
    · rfl
    · rfl
    · rfl
    · exact (Dev.raise_tame_self _ _ _).same .mags (by decide)
  case read =>
    split at hn
    · exact .inr hn.symm
    next hdue =>
      refine .inl ⟨hn.symm, fun hstep => ?_⟩
      have hyes : due = true := by simp only [due, decide_eq_true hstep, Bool.or_true, Bool.true_or]
      by_contra hlisted
      exact hdue ⟨hyes, by rw [Bool.not_eq_true', ← Bool.not_eq_true]; exact hlisted⟩

section
variable {d : Dev} {p : Nat} (hp : p < d.mags.length)
include hp

theorem Dev.codewordEnd_reads (ppa step bits : Nat) :
    Tbl.get (fun _ => 0) ((d.codewordEnd p ppa step bits).mag p).vol.reads (readKey ppa) =
      Tbl.get (fun _ => 0) (d.mag p).vol.reads (readKey ppa) + 1 := by
  obtain ⟨e, hmags, hread⟩ := d.codewordEnd_cases p ppa step bits
  have hlen : p < e.mags.length := by rwa [hmags, Dev.onVol_length]
  have hmag := (Dev.mag_of_mags hmags p).trans (Dev.mag_onVol_same hp _)
  obtain ⟨heq, -⟩ | heq := hread
  · rw [heq, hmag]
    exact Tbl.get_set_succ ..
  · rw [heq, Dev.mag_onMag_same hlen, hmag]
    exact Tbl.get_set_succ ..

theorem Dev.codewordEnd_relocDue (ppa bits : Nat) {step : Nat} (hstep : 2 ≤ step) :
    ∃ x ∈ ((d.codewordEnd p ppa step bits).mag p).relocDue, x.1 = ppa / 2 ^ 25 ∧ x.2.1 = ppa / 4096 % 8192 := by
  obtain ⟨e, hmags, hread⟩ := d.codewordEnd_cases p ppa step bits
  have hlen : p < e.mags.length := by rwa [hmags, Dev.onVol_length]
  have hmag := (Dev.mag_of_mags hmags p).trans (Dev.mag_onVol_same hp _)
  obtain ⟨heq, hlisted⟩ | heq := hread
  · rw [heq, hmag]
    obtain ⟨x, hx, hblock⟩ := List.any_eq_true.mp (hlisted hstep)
    simp only [Bool.and_eq_true, decide_eq_true_eq] at hblock
    exact ⟨x, hx, hblock⟩
  · rw [heq, Dev.mag_onMag_same hlen]
    exact ⟨_, List.mem_append_right _ (List.mem_singleton.mpr rfl), rfl, rfl⟩

end

/-- A read leaves the instant of the last retention scan. -/
theorem Dev.codewordEnd_scanAt (d : Dev) (p ppa step bits i : Nat) : ((d.codewordEnd p ppa step bits).mag i).scanAt = (d.mag i).scanAt := by
  obtain ⟨e, hmags, hread⟩ := d.codewordEnd_cases p ppa step bits
  have he : (e.mag i).scanAt = (d.mag i).scanAt := by
    rw [Dev.mag_of_mags hmags]
    exact Dev.keeps_onMag MagPort.scanAt rfl i
  obtain ⟨heq, -⟩ | heq := hread
  · rw [heq, he]
  · rw [heq]
    exact (Dev.keeps_onMag MagPort.scanAt rfl i).trans he

end Sys2Proof.Machine
end

section
/-! Relocation, the retention scan and checkpoints of a mounted port (R302, R326, R328, R346). -/

namespace Sys2Proof.Machine
open Sys2Proof

/-! ### What a checkpoint leaves -/

theorem Mach.checkpoint_clk (m : Mach) (p : Nat) : (m.checkpoint p).dev.clk = m.dev.clk := by
  have htame : Dev.Tame (setOf [.seq, .stats, .mags, .feat 0x1D]) m.dev (m.checkpoint p).dev :=
    Mach.checkpoint_tame_dev (by decide) (.refl _ m.dev) p
  exact htame.clk_eq (by decide)

theorem Mach.checkpoint_length (m : Mach) (p : Nat) : (m.checkpoint p).dev.mags.length = m.dev.mags.length := by
  obtain heq | hwrites := m.checkpoint_cases p
  · rw [heq]
  · rw [hwrites.length, Dev.nextGen, Dev.onVol_length]

/-- Of the registers a checkpoint counts padding alone (R335). -/
theorem Mach.checkpoint_reg {p f o : Nat} (h : regKey f o ≠ regKey 0x1D (0x100 * p + 0x30)) (m : Mach) :
    (m.checkpoint p).dev.reg f o = m.dev.reg f o := by
  obtain heq | hwrites := m.checkpoint_cases p
  · rw [heq]
  · exact hwrites.reg f o h

/-- A checkpoint that writes puts its volume in the next generation (R346). -/
theorem Mach.checkpoint_gen {m : Mach} {p : Nat} (hp : p < m.dev.mags.length) :
    m.checkpoint p = m ∨ ((m.checkpoint p).dev.mag p).vol.gen = (m.dev.mag p).vol.gen + 1 := by
  refine (m.checkpoint_cases p).imp_right fun hwrites => ?_
  obtain ⟨-, -, -, -, hgen, -, -⟩ := hwrites.fields p
  rw [hgen, Dev.nextGen, Dev.mag_onVol_same hp]

theorem checkpoint_yields {s : State} {p : Nat} (hl : s.Live) (hs : s.m.dev.Shape) (hp : p < 2)
    (hmount : (s.m.dev.mag p).mounted = true) (hopen : (s.m.dev.mag p).vol.clips.any (fun c => decide (c.state = 1)) = true) :
    Yields (.checkpoint p) s [.clk, .seq, .stats, .sid, .mags, .carriers, .feat 0x1D] (fun t =>
      t.m.dev.clk = max s.m.dev.clk (10 ^ 9 + (s.m.dev.mag p).ckptAt) ∧
      (t.m.dev.mag p = s.m.dev.mag p ∨ (t.m.dev.mag p).vol.gen = (s.m.dev.mag p).vol.gen + 1)) := by
  have he : exec (.checkpoint p) s =
      live (fun m => Mach.checkpoint { m with dev := m.dev.advanceTo (10 ^ 9 + (m.dev.mag p).ckptAt) } p) s := by
    show execCheckpoint p s = _
    unfold execCheckpoint
    refine live_congr ?_
    rw [onlyIf_of_true (by rw [hmount, hopen, decide_eq_true hp]; rfl)]
  have htime := s.m.dev.advanceTo_tame_self (10 ^ 9 + (s.m.dev.mag p).ckptAt)
  refine yields_of_live hl he (execCheckpoint_framed p s) (by decide) ?_
  generalize hm : ({ dev := s.m.dev.advanceTo (10 ^ 9 + (s.m.dev.mag p).ckptAt), mem := s.m.mem } : Mach) = m
  have hdev : m.dev = s.m.dev.advanceTo (10 ^ 9 + (s.m.dev.mag p).ckptAt) := by rw [← hm]
  have hmag : m.dev.mag p = s.m.dev.mag p := by rw [hdev, htime.mag_eq (by decide)]
  have hport : p < m.dev.mags.length := by
    rw [hdev]
    exact htime.lt_mags hs hp
  dsimp only
  rw [Dev.settle_mag, Dev.settle_clk, Mach.checkpoint_clk, hdev, Dev.advanceTo_clk]
  refine ⟨rfl, (Mach.checkpoint_gen hport).imp (fun heq => ?_) (fun hgen => ?_)⟩
  · rw [heq, hmag]
  · rw [hgen, hmag]

/-! ### Relocation (R326, R350) -/

theorem Dev.reg_onMag (d : Dev) (p : Nat) (f : MagPort → MagPort) (feat o : Nat) : (d.onMag p f).reg feat o = d.reg feat o := rfl

/-- The blocks that are due, without one. -/
def MagPort.relocated (q : MagPort) (die block : Nat) : MagPort :=
  { q with relocDue := q.relocDue.filter (fun x => !(decide (x.1 = die) && decide (x.2.1 = block))) }

/-- A block without live pages moves no unit: its superblock is booked, a block that went bad is listed, and a checkpoint follows. -/
theorem Mach.relocate_of_no_pages {m : Mach} {p die block : Nat} (h : m.livePages p die block = []) (bad : Bool) :
    ∃ d : Dev, Dev.Tame (setOf [.mags]) m.dev d ∧ m.relocate p die block bad =
      onDev (fun e => e.onMag p (fun q => q.relocated die block))
        (Mach.checkpoint { m with dev := d.bump 0x1D (0x100 * p + 0x2C) } p) := by
  generalize hn : m.relocate p die block bad = n
  unfold Mach.relocate at hn
  extract_lets q pages units at hn
  have hnone : units.isEmpty = true := by
    dsimp only [units, pages]
    rw [h]
    rfl
  rw [if_pos hnone] at hn
  dsimp -zeta only at hn
  extract_lets _ _ _ _ _ d1 d2 _ at hn
  refine ⟨d2, ?_, hn.symm⟩
  have hbooked : Dev.Tame (setOf [.mags]) m.dev d1 := Dev.onVol_tame (by decide) (.refl _ m.dev) ..
  dsimp only [d2]
  split
  · exact Dev.growBad_tame (by decide) hbooked ..
  · exact hbooked

theorem relocateBlock_yields {s : State} {p die block : Nat} {bad : Bool} {r : List (Nat × Nat × Bool)} (hl : s.Live)
    (hs : s.m.dev.Shape) (hp : p < 2) (hmount : (s.m.dev.mag p).mounted = true) (hro : (s.m.dev.mag p).readOnly = false)
    (hdue : (s.m.dev.mag p).relocDue = (die, block, bad) :: r) (hpages : s.m.livePages p die block = []) :
    Yields (.relocateBlock p) s [.seq, .stats, .mags, .carriers, .feat 0x1D] (fun t =>
      (∀ x ∈ (t.m.dev.mag p).relocDue, x.1 ≠ die ∨ x.2.1 ≠ block) ∧
      t.m.dev.reg 0x1D (0x100 * p + 0x2C) = word (satAdd32 (s.m.dev.reg 0x1D (0x100 * p + 0x2C)).toNat 1)) := by
  have he : exec (.relocateBlock p) s = live (fun m => m.relocate p die block bad) s := by
    show execRelocateBlock p s = _
    unfold execRelocateBlock
    refine live_congr ?_
    rw [onlyIf_of_true (by rw [hmount, hro, decide_eq_true hp]; rfl), hdue]
  obtain ⟨d, htame, heq⟩ := Mach.relocate_of_no_pages hpages bad
  have hkey : regKey 0x1D (0x100 * p + 0x2C) ≠ regKey 0x1D (0x100 * p + 0x30) := by
    simp only [regKey]
    omega
  generalize hm : ({ dev := d.bump 0x1D (0x100 * p + 0x2C), mem := s.m.mem } : Mach) = m at heq
  have hport : p < (m.checkpoint p).dev.mags.length := by
    rw [Mach.checkpoint_length, ← hm]
    exact htame.lt_mags hs hp
  have hreg : (m.checkpoint p).dev.reg 0x1D (0x100 * p + 0x2C) = (d.bump 0x1D (0x100 * p + 0x2C)).reg 0x1D (0x100 * p + 0x2C) := by
    rw [Mach.checkpoint_reg hkey, ← hm]
  refine yields_of_live hl he (execRelocateBlock_framed p s) (by decide) ?_
  dsimp only
  rw [heq, Dev.settle_mag, Dev.settle_reg]
  dsimp only [onDev]
  rw [Dev.mag_onMag_same hport, Dev.reg_onMag, hreg, Dev.reg_bump (htame.shape hs), htame.reg_eq (f := 0x1D) (by decide) (by decide)]
  refine ⟨fun x hx => ?_, rfl⟩
  have hkeep := (List.mem_filter.mp hx).2
  simpa [Decidable.imp_iff_not_or] using hkeep

/-! ### Reads and the retention scan (R302, R326, R328) -/

theorem codewordRead_yields {s : State} {p ppa c step bits key : Nat} (hl : s.Live) (hs : s.m.dev.Shape) (hp : p < 2)
    (hmount : (s.m.dev.mag p).mounted = true) (hc : c < 4) (hwork : s.m.dev.takesWork (8 + p) = true)
    (hkey : key = 8192 * (ppa / 2 ^ 25) + ppa / 4096 % 8192) :
    Yields (.codewordRead p ppa c step bits) s [.seq, .stats, .commands, .events, .flt, .bbx, .link, .mags, .feat 0x1C, .feat 0x1D] (fun t =>
      Tbl.get (fun _ => 0) (t.m.dev.mag p).vol.reads key = Tbl.get (fun _ => 0) (s.m.dev.mag p).vol.reads key + 1 ∧
      (2 ≤ (s.m.readCw p ppa c step).2 → ∃ x ∈ (t.m.dev.mag p).relocDue, x.1 = ppa / 2 ^ 25 ∧ x.2.1 = ppa / 4096 % 8192)) := by
  have he : exec (.codewordRead p ppa c step bits) s =
      live (fun m => { m with dev := m.dev.codewordEnd p ppa (m.readCw p ppa c step).2 bits }) s := by
    show execCodewordRead p ppa c step bits s = _
    unfold execCodewordRead
    refine live_congr ?_
    rw [onlyIf_of_true (by rw [hmount, hwork, decide_eq_true ⟨hp, hc⟩]; rfl)]
  subst hkey
  refine yields_of_live hl he (execCodewordRead_framed p ppa c step bits s) (by decide) ?_
  dsimp only
  rw [Dev.settle_mag]
  exact ⟨Dev.codewordEnd_reads (hs.lt_mags hp) .., fun hstep => Dev.codewordEnd_relocDue (hs.lt_mags hp) _ _ hstep⟩

theorem Mach.scanPages_clk (m : Mach) (p : Nat) (found : List (Nat × Nat × Nat × Nat)) (ppas : List Nat) :
    (m.scanPages p found ppas).dev.clk = m.dev.clk := by
  have htame : Dev.Tame (setOf [.free, .seq, .stats, .commands, .events, .flt, .twk, .bbx, .link, .mags, .sent, .feat 0x1C, .feat 0x1D])
      m.dev (m.scanPages p found ppas).dev := Mach.scanPages_tame_dev (by decide) (.refl _ m.dev) p found ppas
  exact htame.clk_eq (by decide)

/-- Pages that are scanned leave the instant of the last retention scan. -/
theorem Mach.scanPages_scanAt (m : Mach) (p : Nat) (found : List (Nat × Nat × Nat × Nat)) (ppas : List Nat) (i : Nat) :
    ((m.scanPages p found ppas).dev.mag i).scanAt = (m.dev.mag i).scanAt := by
  refine foldl_keeps (g := fun m : Mach => (m.dev.mag i).scanAt) (fun m ppa _ => ?_) m
  refine foldl_keeps (g := fun m : Mach => (m.dev.mag i).scanAt) (fun m c _ => ?_) m
  exact Dev.codewordEnd_scanAt ..

/-- A port at the start of a retention scan. -/
def MagPort.scanned (q : MagPort) (at_ : Nat) (visit : Tbl Nat) : MagPort :=
  { q with scanAt := at_, vol := { q.vol with visit := visit } }

/-- The instant at which the next retention scan of a port is due. -/
def MagPort.nextScan (q : MagPort) : Nat := q.scanAt + 10 ^ 9 * (3600 * q.geo.retention)

theorem execRetentionScan_eq {s : State} {p : Nat} (hp : p < 2) (hmount : (s.m.dev.mag p).mounted = true)
    (hwork : s.m.dev.takesWork (8 + p) = true) (found : List (Nat × Nat × Nat × Nat)) :
    ∃ (visit : Tbl Nat) (ppas : List Nat), exec (.retentionScan p found) s = live (fun m =>
      Mach.scanPages { m with dev := (m.dev.advanceTo (m.dev.mag p).nextScan).onMag p (fun q =>
        q.scanned (m.dev.advanceTo (m.dev.mag p).nextScan).clk visit) } p found ppas) s := by
  refine ⟨?visit, ?ppas, ?run⟩
  case run =>
    show execRetentionScan p found s = _
    unfold execRetentionScan
    refine live_congr ?_
    rw [onlyIf_of_true (by rw [hmount, hwork, decide_eq_true hp]; rfl)]
    rfl

theorem retentionScan_yields {s : State} {p : Nat} (hl : s.Live) (hs : s.m.dev.Shape) (hp : p < 2)
    (hmount : (s.m.dev.mag p).mounted = true) (hwork : s.m.dev.takesWork (8 + p) = true) (found : List (Nat × Nat × Nat × Nat)) :
    Yields (.retentionScan p found) s [.clk, .seq, .stats, .commands, .events, .flt, .bbx, .sid, .link, .mags, .feat 0x1C, .feat 0x1D] (fun t =>
      t.m.dev.clk = max s.m.dev.clk ((s.m.dev.mag p).scanAt + 10 ^ 9 * (3600 * (s.m.dev.mag p).geo.retention)) ∧
      (t.m.dev.mag p).scanAt = t.m.dev.clk) := by
  obtain ⟨visit, ppas, he⟩ := execRetentionScan_eq hp hmount hwork found
  have htime := s.m.dev.advanceTo_tame_self (s.m.dev.mag p).nextScan
  refine yields_of_live hl he (execRetentionScan_framed p found s) (by decide) ?_
  dsimp only
  rw [Dev.settle_clk, Dev.settle_mag, Mach.scanPages_clk, Mach.scanPages_scanAt]
  dsimp only
  rw [Dev.mag_onMag_same (htime.lt_mags hs hp)]
  exact ⟨Dev.advanceTo_clk .., rfl⟩

/-- Settles O46: a carrier by its line, a read by what it counts and lists, a block without live pages by the checkpoint that frees
it, and a scan or a checkpoint at its instant. -/
theorem magazines : Obligations.Magazines := by
  intro s p hl hs hp
  refine ⟨magSeated_yields hl hs hp, magUnseated_yields hl hs hp, magPresent_yields hl hs hp, magRemoved_yields hl hs hp,
    fun hmount => ⟨fun ppa c step bits key hc hwork hkey => codewordRead_yields hl hs hp hmount hc hwork hkey,
      fun die block bad r hro hdue hpages => relocateBlock_yields hl hs hp hmount hro hdue hpages,
      fun found hwork => retentionScan_yields hl hs hp hmount hwork found, checkpoint_yields hl hs hp hmount⟩⟩

end Sys2Proof.Machine
end

section
/-! Commands that stay answerable while faults and events are raised (R424), through identification, reads and scans of a port. -/

namespace Sys2Proof.Machine
open Sys2Proof

/-- A command that is in flight and is none of the requests that an event ends: its completion is its own. -/
structure Dev.Answers (d : Dev) (sq cid : Nat) : Prop where
  live : ∃ c, d.cmd sq cid = some c
  kept : sq ≠ 0 ∨ cid ∉ d.host.aer

namespace Dev.Answers
variable {d e : Dev} {sq cid : Nat}

theorem of_runs {s : State} {op : Nat} {c : Cmd} (hr : s.Runs sq cid op c) (h : sq ≠ 0 ∨ cid ∉ s.m.dev.host.aer) : s.m.dev.Answers sq cid :=
  ⟨⟨c, hr.2.1⟩, h⟩

/-- What leaves the commands and the waiting requests leaves a command answerable. -/
theorem of_host (h : d.Answers sq cid) (hcmds : e.host.cmds = d.host.cmds) (haer : e.host.aer = d.host.aer) : e.Answers sq cid :=
  ⟨by rw [Dev.cmd_of_cmds hcmds]; exact h.live, by rw [haer]; exact h.kept⟩

theorem of_tame {ps : Nat} (h : d.Answers sq cid) (ht : Dev.Tame ps d e) (hcmds : ps.testBit 15 = false) (haer : ps.testBit 16 = false) :
    e.Answers sq cid := by
  have hevents : Part.same .events { dev := d } { dev := e } := ht.same .events haer
  obtain ⟨hrequests, -⟩ := hevents
  exact h.of_host (ht.cmds_eq hcmds) hrequests

/-- An event ends its own request alone. -/
theorem completeEvent (h : d.Answers sq cid) {k : Nat} (hk : sq ≠ 0 ∨ cid ≠ k) (result : Nat) : (d.completeEvent k result).Answers sq cid := by
  refine ⟨?_, h.kept⟩
  have hcmd : (d.completeEvent k result).cmd sq cid = d.cmd sq cid := by
    refine find?_modifyFirst_of_not (fun x hx => ?_) _
    simp only [Bool.and_eq_true, decide_eq_true_eq] at hx
    obtain ⟨⟨hsq, hcid⟩, -⟩ := hx
    have hother : ¬ (x.sq = sq ∧ x.cid = cid) := fun hboth => hk.elim (fun hne => hne (hboth.1 ▸ hsq)) (fun hne => hne (hboth.2 ▸ hcid))
    have hmiss (b : Bool) : (decide (x.sq = sq) && decide (x.cid = cid) && b) = false := by
      rw [← Bool.decide_and, decide_eq_false hother, Bool.false_and]
    exact ⟨hmiss _, hmiss _⟩
  rw [hcmd]
  exact h.live

theorem postEvent (h : d.Answers sq cid) (type sub arg : Nat) : (d.postEvent type sub arg).Answers sq cid := by
  unfold Dev.postEvent
  dsimp only
  split
  next k rest haer =>
    have haer' : d.host.aer = k :: rest := haer
    have hrest : sq ≠ 0 ∨ (cid ≠ k ∧ cid ∉ rest) := by
      have hkept := h.kept
      rwa [haer', List.mem_cons, not_or] at hkept
    refine completeEvent ?_ (hrest.imp_right And.left) _
    exact ⟨h.live, hrest.imp_right And.right⟩
  next =>
    split
    · exact h.of_host rfl rfl
    · split <;> exact h.of_host rfl rfl

theorem raise (h : d.Answers sq cid) (src arg : Nat) : (d.raise src arg).Answers sq cid := by
  have hentry (d : Dev) (h : d.Answers sq cid) (cls arg : Nat) : (d.faultEntry src cls arg).Answers sq cid :=
    h.of_tame (Dev.faultEntry_tame (ps := setOf [.seq, .stats, .flt, .bbx, .link, .sent]) (by decide) (.refl _ d) src cls arg)
      (by decide) (by decide)
  unfold Dev.raise
  split
  · exact h
  · extract_lets cls d1 d2 d3
    clear_value cls
    have h3 : d3.Answers sq cid := by
      refine hentry d2 ?_ _ _
      dsimp only [d2]
      split <;> exact h.of_host rfl rfl
    split
    · exact h3.postEvent ..
    · exact (h3.postEvent ..).of_tame (Dev.stopTwinkle_tame (ps := setOf [.free, .twk]) (by decide) (.refl _ _)) (by decide) (by decide)
    · exact h3

theorem codewordEnd (h : d.Answers sq cid) (p ppa step bits : Nat) : (d.codewordEnd p ppa step bits).Answers sq cid := by
  generalize hn : d.codewordEnd p ppa step bits = n
  unfold Dev.codewordEnd at hn
  extract_lets q die blk key reads d1 d2 pct due at hn
  have h2 : d2.Answers sq cid := by
    dsimp only [d2]
    split
    · exact h.of_host rfl rfl
    · exact h.of_host rfl rfl
    · exact h.of_host rfl rfl
    · exact h.of_host rfl rfl
    · refine raise ?_ _ _
      exact h.of_host rfl rfl
  split at hn <;> rw [← hn] <;> exact h2.of_host rfl rfl

/-- A run of steps that leave the command answerable. -/
theorem foldl {β : Type} {f : Mach → β → Mach} (hf : ∀ (m : Mach) x, m.dev.Answers sq cid → (f m x).dev.Answers sq cid) (l : List β)
    {m : Mach} (h : m.dev.Answers sq cid) : (l.foldl f m).dev.Answers sq cid :=
  List.foldlRecOn (motive := fun m : Mach => m.dev.Answers sq cid) l f h (fun m hm x _ => hf m x hm)

theorem scanPages {m : Mach} (h : m.dev.Answers sq cid) (p : Nat) (found : List (Nat × Nat × Nat × Nat)) (ppas : List Nat) :
    (m.scanPages p found ppas).dev.Answers sq cid :=
  foldl (fun _ _ hm => foldl (fun _ _ hn => hn.codewordEnd ..) _ hm) _ h

theorem relocateDue {m : Mach} (h : m.dev.Answers sq cid) (p k : Nat) : (m.relocateDue p k).2.dev.Answers sq cid :=
  h.of_tame (Mach.relocateDue_tame_dev (ps := setOf [.seq, .stats, .mags, .feat 0x1D]) (by decide) (.refl _ m.dev) p k) (by decide) (by decide)

theorem checkpoint {m : Mach} (h : m.dev.Answers sq cid) (p : Nat) : (m.checkpoint p).dev.Answers sq cid :=
  h.of_tame (Mach.checkpoint_tame_dev (ps := setOf [.seq, .stats, .mags, .feat 0x1D]) (by decide) (.refl _ m.dev) p) (by decide) (by decide)

theorem magOff (h : d.Answers sq cid) (p : Nat) : (d.magOff p).Answers sq cid :=
  h.of_tame (Dev.magOff_tame (ps := setOf [.flt, .pools, .pins, .mags]) (by decide) (.refl _ d) p) (by decide) (by decide)

/-- An answerable command that is completed ends so. -/
theorem ends {m : Mach} {c : Cmd} (h : m.dev.Answers c.sq c.cid) (status result : Nat) (p : List Instr) :
    State.Ends { m := { m.complete c status result with dev := (m.complete c status result).dev.settle }, pending := p }
      c.sq c.cid status (result % 2 ^ 32) := by
  obtain ⟨k, hk⟩ := h.live
  exact Mach.complete_ends hk

end Dev.Answers

/-! ### Identification (R290 to R295) -/

/-- The identification of a carrier powers the port, and at most raises the fault of a descriptor copy. -/
theorem Dev.Answers.magIdentify {m : Mach} {sq cid p : Nat} (h : m.dev.Answers sq cid) : (m.magIdentify p).2.dev.Answers sq cid := by
  generalize hn : m.magIdentify p = n
  unfold Mach.magIdentify at hn
  extract_lets d0 d1 m1 at hn
  have h1 : d1.Answers sq cid := h.of_host rfl rfl
  split at hn
  · rw [← hn]
    exact h1
  · extract_lets good0 good1 l g m2 at hn
    have h2 : m2.dev.Answers sq cid := by
      dsimp only [m2]
      split
      · exact h1
      · exact h1.raise ..
    rw [← hn]
    split_ifs
    · exact h1
    all_goals exact h2

/-- A refused identification names a MOUNT_ERR of R290. -/
theorem Mach.magIdentify_error_le {m n : Mach} {p err : Nat} (h : m.magIdentify p = (.error err, n)) : err ≤ 6 := by
  have hfst : (m.magIdentify p).1 = .error err := congrArg Prod.fst h
  have hle : ∀ e, (m.magIdentify p).1 = .error e → e ≤ 6 := by
    unfold Mach.magIdentify
    dsimp only
    split
    · intro e he
      cases he
      split_ifs <;> omega
    · intro e he
      split_ifs at he <;> cases he <;> omega
  exact hle err hfst

theorem Mach.magIdentify_tame (m : Mach) (p : Nat) : Dev.Tame (setOf [.clk, .free, .seq, .stats, .commands, .events, .flt, .twk, .bbx,
    .sid, .link, .pins, .mags, .sent]) m.dev (m.magIdentify p).2.dev := Mach.magIdentify_tame_dev (by decide) (.refl _ m.dev) p

/-! ### Refusals (R290, R454) -/

/-- A refused mount or format ends with its MOUNT_ERR, and leaves the port unmounted. -/
theorem Mach.refuseMount_ends {m : Mach} {c : Cmd} {p : Nat} (h : m.dev.Answers c.sq c.cid) (hp : p < m.dev.mags.length) (err status : Nat)
    (l : List Instr) :
    State.Ends { m := { m.refuseMount c p err status with dev := (m.refuseMount c p err status).dev.settle }, pending := l }
        c.sq c.cid status (err % 2 ^ 32) ∧
      ((m.refuseMount c p err status).dev.settle.mag p).mounted = false := by
  generalize hn : ({ m with dev := (m.dev.magOff p).onMag p (fun q => { q with mountErr := err }) } : Mach) = n
  have hrefuse : m.refuseMount c p err status = n.complete c status err := by rw [← hn]; rfl
  have hoff : n.dev.Answers c.sq c.cid := by
    rw [← hn]
    exact (h.magOff p).of_host rfl rfl
  have hlen : p < (m.dev.magOff p).mags.length := by rwa [Dev.magOff_length]
  have hdone : Dev.Tame (setOf [.seq, .commands, .errorLog]) n.dev (n.complete c status err).dev :=
    Mach.complete_tame_dev (by decide) (.refl _ n.dev) ..
  rw [hrefuse]
  refine ⟨hoff.ends status err l, ?_⟩
  rw [Dev.settle_mag, hdone.mag_eq (by decide), ← hn]
  dsimp only
  rw [Dev.mag_onMag_same hlen, Dev.magOff_mag_same hp]
  rfl

end Sys2Proof.Machine
end

section
/-! The magazine commands of a port (R290, R332, R342, R454 to R456, R458). -/

namespace Sys2Proof.Machine
open Sys2Proof

/-- A started command that is run on a live machine is its meaning. -/
theorem live_runCmd {s : State} {sq cid op : Nat} {c : Cmd} (hr : s.Runs sq cid op c) {f : Cmd → Mach → Mach} {n : Mach} (h : f c s.m = n) :
    live (runCmd sq cid op f) s = live (fun _ => n) s := by
  refine live_congr ?_
  rw [runCmd_eq hr, h]

/-! ### MAG_MOUNT (R290, R454) -/

section
variable {s : State} {sq cid p : Nat} {c : Cmd} (hr : s.Runs sq cid 0x58 c) (htarget : c.target = p) (hp : p < 2)
  (hboot : s.m.dev.boot.state ≠ .twilight) (hmount : (s.m.dev.mag p).mounted = false) (found : List (Nat × Nat × Nat × Nat))
include hr htarget hp hboot hmount

/-- A mount whose identification fails is refused with its MOUNT_ERR. -/
theorem execMagMount_of_error {err : Nat} {m1 : Mach} (h : s.m.magIdentify p = (.error err, m1)) :
    exec (.magMount sq cid found) s = live (fun _ => m1.refuseMount c p err (mountStatus err)) s := by
  show execMagMount sq cid found s = _
  unfold execMagMount
  refine live_runCmd hr ?_
  have hone : ¬ 1 < p := by omega
  simp [Cmd.port, htarget, hone, hboot, hmount, h]

/-- A write-protected magazine is not mounted for writing. -/
theorem execMagMount_of_protected {g : Geo} {m1 : Mach} (h : s.m.magIdentify p = (.ok g, m1))
    (hprot : g.protected_ = true ∧ bit (c.dw 0) 0 = false) :
    exec (.magMount sq cid found) s = live (fun _ => m1.refuseMount c p 0 Status.magWriteProtected) s := by
  show execMagMount sq cid found s = _
  unfold execMagMount
  refine live_runCmd hr ?_
  have hone : ¬ 1 < p := by omega
  simp [Cmd.port, htarget, hone, hboot, hmount, h, hprot]

/-- A carrier without a usable volume is refused with MOUNT_ERR 7. -/
theorem execMagMount_of_unusable {g : Geo} {m1 : Mach} (h : s.m.magIdentify p = (.ok g, m1))
    (hprot : ¬ (g.protected_ = true ∧ bit (c.dw 0) 0 = false)) (hvol : m1.mountVolume p g (bit (c.dw 0) 0) found = none) :
    exec (.magMount sq cid found) s = live (fun _ => m1.refuseMount c p 7 Status.magNotMounted) s := by
  show execMagMount sq cid found s = _
  unfold execMagMount
  refine live_runCmd hr ?_
  have hone : ¬ 1 < p := by omega
  have hprot' : ¬ (g.protected_ = true ∧ (!bit (c.dw 0) 0) = true) := by rwa [Bool.not_eq_true']
  simp only [Cmd.port, htarget, hone, hboot, hmount, h, hprot', hvol, if_false, decide_false, Bool.false_eq_true, false_and]

/-- A usable volume is mounted. -/
theorem execMagMount_of_usable {g : Geo} {m1 m2 : Mach} (h : s.m.magIdentify p = (.ok g, m1))
    (hprot : ¬ (g.protected_ = true ∧ bit (c.dw 0) 0 = false)) (hvol : m1.mountVolume p g (bit (c.dw 0) 0) found = some m2) :
    exec (.magMount sq cid found) s = live (fun _ => m2.complete c Status.ok ((m2.dev.mag p).vol.id % 2 ^ 32)) s := by
  show execMagMount sq cid found s = _
  unfold execMagMount
  refine live_runCmd hr ?_
  have hone : ¬ 1 < p := by omega
  have hprot' : ¬ (g.protected_ = true ∧ (!bit (c.dw 0) 0) = true) := by rwa [Bool.not_eq_true']
  simp only [Cmd.port, htarget, hone, hboot, hmount, h, hprot', hvol, if_false, decide_false, Bool.false_eq_true, false_and]

end

/-- A refused mount or format of a started command yields its status and MOUNT_ERR, and a port without a volume. -/
theorem refuseMount_yields {i : Instr} {s : State} {sq cid op p err status result : Nat} {c : Cmd} {m1 : Mach} {ps : List Part} {dp mp : Nat}
    (hr : s.Runs sq cid op c) (h : m1.dev.Answers sq cid) (hp : p < m1.dev.mags.length)
    (he : exec i s = live (fun _ => m1.refuseMount c p err status) s) (hf : Framed dp mp s (exec i s))
    (hm : (dp ||| mp) ||| setOf (ps ++ settled) = setOf (ps ++ settled)) (hresult : err % 2 ^ 32 = result) :
    Yields i s ps (fun t => t.Ends sq cid status result ∧ (t.m.dev.mag p).mounted = false) := by
  obtain ⟨hsq, hcid, -⟩ := Dev.cmd_key hr.2.1
  subst hsq hcid hresult
  exact yields_of_live hr.1 he hf hm (Mach.refuseMount_ends h hp err status _)

theorem magMount_yields {s : State} {sq cid p : Nat} {c : Cmd} (hs : s.m.dev.Shape) (hp : p < 2) (haer : sq ≠ 0 ∨ cid ∉ s.m.dev.host.aer)
    (found : List (Nat × Nat × Nat × Nat)) (hr : s.Runs sq cid 0x58 c) (htarget : c.target = p)
    (hboot : s.m.dev.boot.state ≠ .twilight) (hmount : (s.m.dev.mag p).mounted = false) :
    Yields (.magMount sq cid found) s [.clk, .seq, .stats, .commands, .events, .errorLog, .admission, .flt, .bbx, .sid, .link, .pools, .pins, .mags, .carriers, .feat 0x1C, .feat 0x1D] (fun t =>
      match s.m.magIdentify p with
      | (.error err, _) => t.Ends sq cid (if err = 6 then Status.magRemoved else Status.magNotMounted) err ∧ (t.m.dev.mag p).mounted = false
      | (.ok g, m) =>
        if g.protected_ = true ∧ bit (c.dw 0) 0 = false then t.Ends sq cid Status.magWriteProtected 0 ∧ (t.m.dev.mag p).mounted = false
        else match m.mountVolume p g (bit (c.dw 0) 0) found with
          | none => t.Ends sq cid Status.magNotMounted 7 ∧ (t.m.dev.mag p).mounted = false
          | some n => t.m.mem = n.mem ∧ (t.m.dev.mag p) = n.dev.mag p) := by
  have hans : (s.m.magIdentify p).2.dev.Answers sq cid := (Dev.Answers.of_runs hr haer).magIdentify
  have hport : p < (s.m.magIdentify p).2.dev.mags.length := (s.m.magIdentify_tame p).lt_mags hs hp
  have hf := execMagMount_framed sq cid found s
  split
  next err m1 h =>
    rw [h] at hans hport
    have herr := Mach.magIdentify_error_le h
    exact refuseMount_yields hr hans hport (execMagMount_of_error hr htarget hp hboot hmount found h) hf (by decide) (by omega)
  next g m1 h =>
    rw [h] at hans hport
    split
    next hprot =>
      exact refuseMount_yields hr hans hport (execMagMount_of_protected hr htarget hp hboot hmount found h hprot) hf (by decide) rfl
    next hprot =>
      split
      next hvol =>
        exact refuseMount_yields hr hans hport (execMagMount_of_unusable hr htarget hp hboot hmount found h hprot hvol) hf (by decide) rfl
      next m2 hvol =>
        refine yields_of_live hr.1 (execMagMount_of_usable hr htarget hp hboot hmount found h hprot hvol) hf (by decide) ?_
        have hdone : Dev.Tame (setOf [.seq, .commands, .errorLog]) m2.dev (m2.complete c Status.ok ((m2.dev.mag p).vol.id % 2 ^ 32)).dev :=
          Mach.complete_tame_dev (by decide) (.refl _ m2.dev) ..
        dsimp only
        rw [Dev.settle_mag, hdone.mag_eq (by decide)]
        exact ⟨rfl, rfl⟩

end Sys2Proof.Machine
end

section
/-! MAG_UNMOUNT and MAG_FORMAT (R332, R342, R454, R455). -/

namespace Sys2Proof.Machine
open Sys2Proof

/-- What a completion leaves of the device. -/
theorem Mach.complete_tame (m : Mach) (c : Cmd) (status result : Nat) (e : ErrInfo) :
    Dev.Tame (setOf [.seq, .commands, .errorLog]) m.dev (m.complete c status result e).dev :=
  Mach.complete_tame_dev (by decide) (.refl _ m.dev) ..

theorem Mach.complete_mag (m : Mach) (c : Cmd) (status result : Nat) (e : ErrInfo) (p : Nat) :
    (m.complete c status result e).dev.mag p = m.dev.mag p := (m.complete_tame c status result e).mag_eq (by decide) p

/-- What a checkpoint leaves of its port's state (R346). -/
theorem Mach.checkpoint_fields {m : Mach} {p : Nat} (hp : p < m.dev.mags.length) :
    ((m.checkpoint p).dev.mag p).present = (m.dev.mag p).present ∧ ((m.checkpoint p).dev.mag p).readOnly = (m.dev.mag p).readOnly ∧
    ((m.checkpoint p).dev.mag p).vol.id = (m.dev.mag p).vol.id ∧ ((m.checkpoint p).dev.mag p).vol.proxyPct = (m.dev.mag p).vol.proxyPct ∧
    ((m.checkpoint p).dev.mag p).vol.clips = (m.dev.mag p).vol.clips := by
  obtain heq | hwrites := m.checkpoint_cases p
  · rw [heq]
    exact ⟨rfl, rfl, rfl, rfl, rfl⟩
  · obtain ⟨hpresent, -, hro, hid, -, hpct, hclips⟩ := hwrites.fields p
    rw [hpresent, hro, hid, hpct, hclips, Dev.nextGen, Dev.mag_onVol_same hp]
    exact ⟨rfl, rfl, rfl, rfl, rfl⟩

/-! ### MAG_UNMOUNT (R329, R332, R454) -/

theorem magUnmount_yields {s : State} {sq cid p : Nat} {c : Cmd} (hs : s.m.dev.Shape) (hp : p < 2) (haer : sq ≠ 0 ∨ cid ∉ s.m.dev.host.aer)
    (hr : s.Runs sq cid 0x59 c) (htarget : c.target = p) (hmount : (s.m.dev.mag p).mounted = true)
    (hidle : s.m.dev.streams.any (fun e => e.2.recordsTo p ∧ (e.2.clip.isSome ∨ e.2.active)) = false) :
    Yields (.magUnmount sq cid) s [.seq, .stats, .commands, .errorLog, .admission, .flt, .pools, .pins, .mags, .carriers, .feat 0x1D] (fun t => t.Ends sq cid Status.ok 0 ∧ (t.m.dev.mag p).mounted = false ∧
      (t.m.dev.mag p).present = (s.m.dev.mag p).present ∧ t.m.dev.pins.magPwrEn.getD p false = false) := by
  obtain ⟨hsq, hcid, -⟩ := Dev.cmd_key hr.2.1
  have hans := Dev.Answers.of_runs hr haer
  subst hsq hcid
  generalize hm : ({ s.m.checkpoint p with dev := (s.m.checkpoint p).dev.magOff p } : Mach) = m
  have he : exec (.magUnmount c.sq c.cid) s = live (fun _ => m.complete c Status.ok) s := by
    show execMagUnmount c.sq c.cid s = _
    unfold execMagUnmount
    refine live_runCmd hr ?_
    have hone : ¬ 1 < p := by omega
    simp only [Cmd.port, htarget, hone, hmount, hidle, if_false, Bool.not_true, Bool.false_eq_true]
    rw [hm]
  have hdev : m.dev = (s.m.checkpoint p).dev.magOff p := by rw [← hm]
  have hlen : p < (s.m.checkpoint p).dev.mags.length := by
    rw [Mach.checkpoint_length]
    exact hs.lt_mags hp
  obtain ⟨hpresent, -⟩ := Mach.checkpoint_fields (hs.lt_mags hp)
  have hend : m.dev.Answers c.sq c.cid := by
    rw [hdev]
    exact (hans.checkpoint p).magOff p
  have hpins : (m.complete c Status.ok).dev.pins = m.dev.pins := (m.complete_tame c Status.ok 0 {}).same .pins (by decide)
  refine yields_of_live hr.1 he (execMagUnmount_framed c.sq c.cid s) (by decide) ⟨hend.ends Status.ok 0 _, ?_⟩
  dsimp only
  rw [Dev.settle_mag, Dev.settle_pins, hpins, Mach.complete_mag, hdev, Dev.magOff_mag_same hlen, Dev.magOff_magPwrEn]
  exact ⟨rfl, hpresent, rfl⟩

/-! ### MAG_FORMAT (R323, R342, R455) -/

/-- From `m` to `n` a new volume, which keeps what `v` keeps, is put on port `p`, mounted for writing. -/
def Mach.Formats (m : Mach) (p : Nat) (v : Volume) (n : Mach) : Prop :=
  ∃ (d : Dev) (f : MagPort → MagPort), n.dev = d.onMag p f ∧ d.host = m.dev.host ∧ d.mags = m.dev.mags ∧
    (∀ q, (f q).readOnly = false) ∧ ∀ q, (f q).vol.kept = v.kept

section
variable {s : State} {sq cid p : Nat} {c : Cmd} (hr : s.Runs sq cid 0x5A c) (htarget : c.target = p) (hp : p < 2)
  (hkey : c.dw 1 = 0x464D5441) (hpct : c.dw 2 % 256 ≤ 50) (hmount : (s.m.dev.mag p).mounted = false)
  (hpresent : (s.m.dev.mag p).present = true)
include hr htarget hp hkey hpct hmount hpresent

theorem execMagFormat_of_error {err : Nat} {m1 : Mach} (h : s.m.magIdentify p = (.error err, m1)) :
    exec (.magFormat sq cid) s = live (fun _ => m1.refuseMount c p err (mountStatus err)) s := by
  show execMagFormat sq cid s = _
  unfold execMagFormat
  refine live_runCmd hr ?_
  have hone : ¬ 1 < p := by omega
  have hfits : ¬ 50 < c.dw 2 % 256 := by omega
  simp [Cmd.port, htarget, hone, hkey, hfits, hmount, hpresent, h]

theorem execMagFormat_of_protected {g : Geo} {m1 : Mach} (h : s.m.magIdentify p = (.ok g, m1)) (hprot : g.protected_ = true) :
    exec (.magFormat sq cid) s = live (fun _ => m1.refuseMount c p 0 Status.magWriteProtected) s := by
  show execMagFormat sq cid s = _
  unfold execMagFormat
  refine live_runCmd hr ?_
  have hone : ¬ 1 < p := by omega
  have hfits : ¬ 50 < c.dw 2 % 256 := by omega
  simp [Cmd.port, htarget, hone, hkey, hfits, hmount, hpresent, h, hprot]

/-- The format of a magazine that takes it either is refused, or makes an empty volume, mounted for writing, and checkpoints it. -/
theorem execMagFormat_of_writable {g : Geo} {m1 : Mach} (h : s.m.magIdentify p = (.ok g, m1)) (hprot : ¬ g.protected_ = true) :
    ∃ n : Mach, exec (.magFormat sq cid) s = live (fun _ => n) s ∧
      ((∃ err status, n = m1.refuseMount c p err status) ∨ ∃ v m2, n = (m2.checkpoint p).complete c Status.ok (v.id % 2 ^ 32) ∧
        m1.Formats p v m2 ∧ v.proxyPct = c.dw 2 % 256 ∧ v.clips = []) := by
  have hone : ¬ 1 < p := by omega
  have hfits : ¬ 50 < c.dw 2 % 256 := by omega
  refine ⟨_, (show exec (.magFormat sq cid) s = execMagFormat sq cid s from rfl).trans (live_runCmd hr rfl), ?_⟩
  simp only [Cmd.port, htarget, hone, hkey, hfits, hmount, hpresent, h, hprot, if_false, Bool.not_true, Bool.false_eq_true, ne_eq, not_true]
  split
  · exact .inl ⟨_, _, rfl⟩
  · split
    · exact .inl ⟨_, _, rfl⟩
    · refine .inr ⟨{ id := _, formatStamp := m1.dev.afterDraw.afterDraw.stamp, descFlags := g.flags, proxyPct := c.dw 2 % 256 }, _, rfl,
        ⟨_, _, rfl, rfl, rfl, fun q => rfl, fun q => ?_⟩, rfl, rfl⟩
      refine (foldl_keeps (g := Volume.kept) (fun v e _ => ?listed) _).trans (foldl_keeps (g := Volume.kept) (fun v k _ => ?system) _)
      case listed => split <;> rfl
      case system => rfl

end

/-- A format that is not refused ends with the volume's new number, and leaves the empty volume mounted for writing (R455). -/
theorem Mach.Formats.ends {m m2 : Mach} {c : Cmd} {p : Nat} {v : Volume} (h : m.Formats p v m2) (hans : m.dev.Answers c.sq c.cid)
    (hp : p < m.dev.mags.length) (l : List Instr) :
    State.Ends { m := { (m2.checkpoint p).complete c Status.ok (v.id % 2 ^ 32) with
        dev := ((m2.checkpoint p).complete c Status.ok (v.id % 2 ^ 32)).dev.settle }, pending := l } c.sq c.cid Status.ok (v.id % 2 ^ 32) ∧
      ((m2.checkpoint p).dev.mag p).readOnly = false ∧ ((m2.checkpoint p).dev.mag p).vol.id = v.id ∧
      ((m2.checkpoint p).dev.mag p).vol.proxyPct = v.proxyPct ∧ ((m2.checkpoint p).dev.mag p).vol.clips = v.clips := by
  obtain ⟨d, f, hdev, hhost, hmags, hro, hkept⟩ := h
  have hlen : p < d.mags.length := by rwa [hmags]
  have hlen2 : p < m2.dev.mags.length := by rwa [hdev, Dev.onMag_length]
  have hmag : m2.dev.mag p = f (d.mag p) := by rw [hdev, Dev.mag_onMag_same hlen]
  have hans2 : m2.dev.Answers c.sq c.cid := by
    rw [hdev]
    exact hans.of_host (congrArg HostIf.cmds hhost) (congrArg HostIf.aer hhost)
  have hend := (hans2.checkpoint p).ends Status.ok (v.id % 2 ^ 32) l
  rw [Nat.mod_mod] at hend
  obtain ⟨-, hroC, hidC, hpctC, hclipsC⟩ := Mach.checkpoint_fields hlen2
  have hk := hkept (d.mag p)
  rw [hroC, hidC, hpctC, hclipsC, hmag]
  exact ⟨hend, hro _, (congrArg Volume.id hk :), (congrArg Volume.proxyPct hk :), (congrArg Volume.clips hk :)⟩

theorem magFormat_yields {s : State} {sq cid p : Nat} {c : Cmd} (hs : s.m.dev.Shape) (hp : p < 2) (haer : sq ≠ 0 ∨ cid ∉ s.m.dev.host.aer)
    (hr : s.Runs sq cid 0x5A c) (htarget : c.target = p) (hkey : c.dw 1 = 0x464D5441) (hpct : c.dw 2 % 256 ≤ 50)
    (hmount : (s.m.dev.mag p).mounted = false) (hpresent : (s.m.dev.mag p).present = true) :
    Yields (.magFormat sq cid) s [.clk, .seq, .stats, .commands, .events, .errorLog, .admission, .flt, .bbx, .sid, .link, .pools, .pins, .mags, .carriers, .feat 0x1D] (fun t =>
      match s.m.magIdentify p with
      | (.error err, _) => t.Ends sq cid (if err = 6 then Status.magRemoved else Status.magNotMounted) err ∧ (t.m.dev.mag p).mounted = false
      | (.ok g, _) =>
        if g.protected_ = true then t.Ends sq cid Status.magWriteProtected 0 ∧ (t.m.dev.mag p).mounted = false
        else (t.m.dev.mag p).mounted = true → t.Ends sq cid Status.ok ((t.m.dev.mag p).vol.id % 2 ^ 32) ∧
          (t.m.dev.mag p).readOnly = false ∧ (t.m.dev.mag p).vol.proxyPct = c.dw 2 % 256 ∧ (t.m.dev.mag p).vol.clips = []) := by
  obtain ⟨hsq, hcid, -⟩ := Dev.cmd_key hr.2.1
  subst hsq hcid
  have hans : (s.m.magIdentify p).2.dev.Answers c.sq c.cid := (Dev.Answers.of_runs hr haer).magIdentify
  have hport : p < (s.m.magIdentify p).2.dev.mags.length := (s.m.magIdentify_tame p).lt_mags hs hp
  have hf := execMagFormat_framed c.sq c.cid s
  split
  next err m1 h =>
    rw [h] at hans hport
    have herr := Mach.magIdentify_error_le h
    exact refuseMount_yields hr hans hport (execMagFormat_of_error hr htarget hp hkey hpct hmount hpresent h) hf (by decide) (by omega)
  next g m1 h =>
    rw [h] at hans hport
    split
    next hprot =>
      exact refuseMount_yields hr hans hport (execMagFormat_of_protected hr htarget hp hkey hpct hmount hpresent h hprot) hf (by decide) rfl
    next hprot =>
      obtain ⟨n, he, hn⟩ := execMagFormat_of_writable hr htarget hp hkey hpct hmount hpresent h hprot
      refine yields_of_live hr.1 he hf (by decide) ?_
      obtain ⟨err, status, rfl⟩ | ⟨v, m2, rfl, hformat, hvpct, hvclips⟩ := hn
      · have hunmounted := (Mach.refuseMount_ends hans hport err status s.pending).2
        intro hmounted
        exact absurd (hunmounted.symm.trans hmounted) Bool.false_ne_true
      · obtain ⟨hend, hro, hid, hp2, hc2⟩ := hformat.ends hans hport s.pending
        intro _
        dsimp only
        rw [Dev.settle_mag, Mach.complete_mag, hro, hid, hp2, hc2]
        exact ⟨hend, rfl, hvpct, hvclips⟩

end Sys2Proof.Machine
end

section
/-! MAG_SCAN and READ_UNITS, and the magazine commands together (R290, R332, R342, R454 to R456, R458). -/

namespace Sys2Proof.Machine
open Sys2Proof

/-! ### MAG_SCAN (R456) -/

/-- Status of a scan: that a read of it was uncorrectable, by the count of its port. -/
def scanStatus (m n : Mach) (p : Nat) : Nat :=
  if m.dev.stat (magStat p 0x60) < n.dev.stat (magStat p 0x60) then Status.magUncorrectable else Status.ok

theorem scanStatus_cases (m n : Mach) (p : Nat) : scanStatus m n p = Status.ok ∨ scanStatus m n p = Status.magUncorrectable := by
  unfold scanStatus
  split
  · exact .inr rfl
  · exact .inl rfl

theorem scanStatus_self (m : Mach) (p : Nat) : scanStatus m m p = Status.ok := if_neg (Nat.lt_irrefl _)

/-- What follows the reads of a scan: a read-only port counts the blocks that are due, another relocates them. -/
def Mach.scanned (m n : Mach) (p : Nat) : Nat × Mach :=
  if (m.dev.mag p).readOnly then ((n.dev.mag p).relocDue.length, n) else n.relocateDue p (n.dev.mag p).relocDue.length

theorem Mach.scanned_of_none {m : Mach} {p : Nat} (h : (m.dev.mag p).relocDue = []) : m.scanned m p = (0, m) := by
  unfold Mach.scanned
  rw [h]
  split <;> rfl

theorem Dev.Answers.scanned {m n : Mach} {sq cid : Nat} (h : n.dev.Answers sq cid) (p : Nat) : (m.scanned n p).2.dev.Answers sq cid := by
  unfold Mach.scanned
  split
  · exact h
  · exact h.relocateDue ..

section
variable {s : State} {sq cid p : Nat} {c : Cmd} (hr : s.Runs sq cid 0x5B c) (htarget : c.target = p) (hp : p < 2)
  (hmount : (s.m.dev.mag p).mounted = true) (found : List (Nat × Nat × Nat × Nat))
include hr htarget hp hmount

/-- A scan reads pages, none where nothing is written, and completes with what it relocated. -/
theorem execMagScan_eq : ∃ ppas, ((s.m.dev.mag p).vol.written = [] → ppas = []) ∧
    exec (.magScan sq cid found) s = live (fun _ => (s.m.scanned (s.m.scanPages p found ppas) p).2.complete c
      (scanStatus s.m (s.m.scanPages p found ppas) p) (s.m.scanned (s.m.scanPages p found ppas) p).1) s := by
  have hone : ¬ 1 < p := by omega
  refine ⟨?ppas, ?none, (show exec (.magScan sq cid found) s = execMagScan sq cid found s from rfl).trans (live_runCmd hr ?run)⟩
  case run =>
    simp only [Cmd.port, htarget, hone, hmount, if_false, Bool.not_true, Bool.false_eq_true]
    unfold Mach.scanned
    split <;> rfl
  case none =>
    intro hwritten
    rw [hwritten]
    split <;> rfl

end

theorem magScan_yields {s : State} {sq cid p : Nat} {c : Cmd} (hp : p < 2) (haer : sq ≠ 0 ∨ cid ∉ s.m.dev.host.aer)
    (found : List (Nat × Nat × Nat × Nat)) (hr : s.Runs sq cid 0x5B c) (htarget : c.target = p) (hmount : (s.m.dev.mag p).mounted = true) :
    Yields (.magScan sq cid found) s [.seq, .stats, .commands, .events, .errorLog, .flt, .bbx, .link, .mags, .carriers, .feat 0x1C, .feat 0x1D] (fun t =>
      (∃ n, t.Ends sq cid Status.ok n ∨ t.Ends sq cid Status.magUncorrectable n) ∧
      ((s.m.dev.mag p).vol.written = [] → (s.m.dev.mag p).relocDue = [] → t.Ends sq cid Status.ok 0)) := by
  obtain ⟨hsq, hcid, -⟩ := Dev.cmd_key hr.2.1
  subst hsq hcid
  obtain ⟨ppas, hnone, he⟩ := execMagScan_eq hr htarget hp hmount found
  generalize hscan : s.m.scanPages p found ppas = n at he
  have hans : (s.m.scanned n p).2.dev.Answers c.sq c.cid := by
    rw [← hscan]
    exact ((Dev.Answers.of_runs hr haer).scanPages ..).scanned p
  have hend := hans.ends (scanStatus s.m n p) (s.m.scanned n p).1 s.pending
  refine yields_of_live hr.1 he (execMagScan_framed c.sq c.cid found s) (by decide)
    ⟨⟨(s.m.scanned n p).1 % 2 ^ 32, ?_⟩, fun hwritten hdue => ?_⟩
  · refine (scanStatus_cases s.m n p).imp (fun hstatus => ?_) (fun hstatus => ?_)
    · rw [hstatus] at hend ⊢
      exact hend
    · rw [hstatus] at hend ⊢
      exact hend
  · obtain rfl : s.m = n := by rw [← hscan, hnone hwritten]; rfl
    rw [scanStatus_self, Mach.scanned_of_none hdue] at hend ⊢
    exact hend

/-! ### READ_UNITS (R458) -/

/-- The code of a read's step in the status word of R458. -/
def stepCode : Nat → Nat
  | 1 => 0
  | 2 | 3 => 1
  | 4 => 2
  | _ => 3

theorem stepCode_eq (step : Nat) : stepCode step = if step = 1 then 0 else if step = 2 ∨ step = 3 then 1 else if step = 4 then 2 else 3 := by
  unfold stepCode
  split
  · rfl
  · rfl
  · rfl
  · rfl
  next h1 h2 h3 h4 => rw [if_neg h1, if_neg (not_or.mpr ⟨h2, h3⟩), if_neg h4]

/-- A unit as it goes out, with its status word; the header of an uncorrectable unit is free. -/
def unitOut (r : Option (List Byte) × Nat) (free : Nat) : List Byte :=
  (match r.1 with
    | some u => u
    | none => zeros 4096 ++ leBytes 28 (Config.free free)) ++ leBytes 4 (stepCode r.2)

/-- Status of a command that reads one unit. -/
def unitStatus (r : Option (List Byte) × Nat) : Nat := if r.1.isNone then Status.magUncorrectable else Status.ok

/-- The machine after the reads of a command of one unit, before it completes. -/
def Mach.readOne (m : Mach) (c : Cmd) (p : Nat) (r : Option (List Byte) × Nat) : Mach :=
  { dev := Dev.codewordEnd { m.dev with free := m.dev.free + 1 } p ((m.dev.mag p).vol.ppaOfLua (m.dev.mag p).geo (c.dw64 1)).1 r.2 0,
    mem := m.mem.dataOut c (unitOut r m.dev.free) }

theorem Dev.Answers.readOne {m : Mach} {sq cid : Nat} (h : m.dev.Answers sq cid) (c : Cmd) (p : Nat) (r : Option (List Byte) × Nat) :
    (m.readOne c p r).dev.Answers sq cid := by
  refine Dev.Answers.codewordEnd ?_ _ _ _ _
  exact h.of_host rfl rfl

section
variable {s : State} {sq cid p : Nat} {c : Cmd} (hr : s.Runs sq cid 0x61 c) (hport : c.dw 0 % 2 = p) (hphys : bit (c.dw 0) 8 = false)
  (hone : c.dw 3 = 1) (hmount : (s.m.dev.mag p).mounted = true)
  (hpos : (s.m.dev.mag p).vol.positionOk (s.m.dev.mag p).geo (c.dw64 1) = true) (hdata : s.m.mem.dataOk c 4128 = true) (steps : List Nat)
include hr hport hphys hone hmount hpos hdata

/-- The read of one unit at a position of its port: the codeword is counted, and the unit goes out with its status word. -/
theorem execReadUnits_of_one : exec (.readUnits sq cid steps) s = live (fun _ =>
    (s.m.readOne c p (s.m.readUnit p (c.dw64 1) (steps.getD 0 1))).complete c
      (unitStatus (s.m.readUnit p (c.dw64 1) (steps.getD 0 1)))) s := by
  refine (show exec (.readUnits sq cid steps) s = execReadUnits sq cid steps s from rfl).trans (live_runCmd hr ?_)
  simp only [hport, hone, hmount, hphys, if_false, Bool.not_true, Bool.false_eq_true]
  simp [hpos, hdata, Mach.readOne, unitOut, unitStatus] <;> rfl

end

theorem readUnits_yields {s : State} {sq cid p : Nat} {c : Cmd} (haer : sq ≠ 0 ∨ cid ∉ s.m.dev.host.aer) (steps : List Nat)
    (hr : s.Runs sq cid 0x61 c) (hport : c.dw 0 % 2 = p) (hphys : bit (c.dw 0) 8 = false) (hone : c.dw 3 = 1)
    (hmount : (s.m.dev.mag p).mounted = true) (hpos : (s.m.dev.mag p).vol.positionOk (s.m.dev.mag p).geo (c.dw64 1) = true)
    (hdata : s.m.mem.dataOk c 4128 = true) :
    Yields (.readUnits sq cid steps) s [.seq, .stats, .commands, .events, .errorLog, .flt, .bbx, .link, .mags, .hostMem, .feat 0x1C, .feat 0x1D] (fun t =>
      match s.m.readUnit p (c.dw64 1) (steps.getD 0 1) with
      | (some u, at_) => t.Ends sq cid Status.ok 0 ∧
          t.m.mem = s.m.mem.dataOut c (u ++ leBytes 4 (if at_ = 1 then 0 else if at_ = 2 ∨ at_ = 3 then 1 else if at_ = 4 then 2 else 3))
      | (none, _) => t.Ends sq cid Status.magUncorrectable 0) := by
  obtain ⟨hsq, hcid, -⟩ := Dev.cmd_key hr.2.1
  subst hsq hcid
  have he := execReadUnits_of_one hr hport hphys hone hmount hpos hdata steps
  refine yields_of_live hr.1 he (execReadUnits_framed c.sq c.cid steps s) (by decide) ?_
  generalize s.m.readUnit p (c.dw64 1) (steps.getD 0 1) = r
  have hend := ((Dev.Answers.of_runs hr haer).readOne c p r).ends (unitStatus r) 0 s.pending
  obtain ⟨unit, step⟩ := r
  cases unit with
  | none => exact hend
  | some u =>
    refine ⟨hend, ?_⟩
    rw [← stepCode_eq]
    rfl

/-- Settles O47: a mount and a format by their identification, an unmount by its checkpoint and the port that it switches off, a scan
and a read by what they read. -/
theorem magazineCommands : Obligations.MagazineCommands := by
  intro s sq cid c p hs hp haer
  exact ⟨fun found hr htarget hboot hmount => magMount_yields hs hp haer found hr htarget hboot hmount,
    fun hr htarget hmount hidle => magUnmount_yields hs hp haer hr htarget hmount hidle,
    fun hr htarget hkey hpct hmount hpresent => magFormat_yields hs hp haer hr htarget hkey hpct hmount hpresent,
    fun found hr htarget hmount => magScan_yields hp haer found hr htarget hmount,
    fun steps hr hport hphys hone hmount hpos hdata => readUnits_yields haer steps hr hport hphys hone hmount hpos hdata⟩

end Sys2Proof.Machine
end

section
/-! Commands at the front of the queue, the stop of undefined behaviour, and the canonical form of the memories (R409, R580). -/

namespace Sys2Proof.Machine
open Sys2Proof

/-! ### Commands at the front of the queue -/

/-- Settles O1: it is how a step takes its command. -/
theorem stepRunsFront : Obligations.StepRunsFront := by
  intro c r s h
  unfold step
  rw [h]

/-! ### Next states and stops -/

/-- A framed outcome is a next state with the waiting commands as they were, or the stop of undefined behaviour. -/
theorem Framed.next_or_fault {dp mp : Nat} {s : State} {o : Host.Outcome State Fault Refusal} (h : Framed dp mp s o) :
    (∃ t, o = .next t ∧ t.pending = s.pending) ∨ o = .fault .undefinedUntilReset ∧ s.m.dev.undef = true := by
  cases o with
  | next t =>
    obtain ⟨-, -, hpending⟩ := h
    exact .inl ⟨t, rfl, hpending⟩
  | fault e =>
    obtain ⟨he, hundef⟩ := h
    exact .inr ⟨congrArg _ he, hundef⟩
  | refused e => exact h.elim

/-- Settles O3: every command is framed, and a framed command is never refused. -/
theorem stopsOnlyUndefined : Obligations.StopsOnlyUndefined := by
  intro c s
  obtain ⟨dp, mp, h⟩ := exec_framed c s
  exact h.next_or_fault

/-- Settles O5: every step is framed, and a frame keeps the canonical form of the memories. -/
theorem memoryStaysCanonical : Obligations.MemoryStaysCanonical := by
  intro s t hs hst
  obtain ⟨dp, mp, h⟩ := step_framed s
  rw [hst] at h
  exact h.2.1.wf hs

/-! ### Undefined behaviour, and a block without power -/

/-- The state with its two gates written out, which every command but four looks at before its meaning. -/
def State.gate (s : State) (undef off : Bool) : State :=
  { s with m := { s.m with dev := { s.m.dev with undef := undef, off := off } } }

theorem State.gate_self {s : State} {undef off : Bool} (hu : s.m.dev.undef = undef) (ho : s.m.dev.off = off) :
    s.gate undef off = s := by
  subst hu ho
  rfl

/-- A command that runs whatever the gates are: the two resets by power and by pin, the loss of power, a supply out of range. -/
def Ungated : Instr → Prop
  | .powerOnReset .. | .externalReset .. | .powerLoss none | .supplyOutOfRange => True
  | _ => False

/-- Every other command answers by its gates. -/
theorem exec_gate {c : Instr} (h : ¬ Ungated c) (s : State) :
    (∀ off, exec c (s.gate true off) = .fault .undefinedUntilReset) ∧ exec c (s.gate false true) = .next (s.gate false true) := by
  cases c
  case powerOnReset => exact absurd trivial h
  case externalReset => exact absurd trivial h
  case supplyOutOfRange => exact absurd trivial h
  case powerLoss port =>
    cases port with
    | none => exact absurd trivial h
    | some p => exact ⟨fun _ => rfl, rfl⟩
  all_goals exact ⟨fun _ => rfl, rfl⟩

theorem not_ungated {c : Instr} (hon : ∀ a b d, c ≠ .powerOnReset a b d) (hext : ∀ a b d e, c ≠ .externalReset a b d e)
    (hloss : c ≠ .powerLoss none) (hsupply : c ≠ .supplyOutOfRange) : ¬ Ungated c := by
  intro h
  unfold Ungated at h
  split at h
  · exact hon _ _ _ rfl
  · exact hext _ _ _ _ rfl
  · exact hloss rfl
  · exact hsupply rfl
  · exact h

/-- Settles O4: a command that looks at the gates answers by them before its meaning. -/
theorem undefinedAndPowerless : Obligations.UndefinedAndPowerless := by
  intro c s hon hext hloss hsupply
  obtain ⟨hundef, hoff⟩ := exec_gate (not_ungated hon hext hloss hsupply) s
  refine ⟨fun hu => ?_, fun hu ho => ?_⟩
  · have h := hundef s.m.dev.off
    rwa [State.gate_self hu rfl] at h
  · rwa [State.gate_self hu ho] at hoff

end Sys2Proof.Machine
end

section
/-! CLIP_OPEN, CLIP_CLOSE and CLIP_DELETE (R351, R363, R448, R452, R453). -/

namespace Sys2Proof.Machine
open Sys2Proof

/-! ### Commands that complete -/

/-- A queue command whose meaning ends in one completion of it, while it is still in flight, ends so. -/
theorem yields_of_completion {i : Instr} {s : State} {sq cid op : Nat} {c k : Cmd} {f : Cmd → Mach → Mach} {ps : List Part}
    {P : State → Prop} {dp mp : Nat} {m : Mach} {status result : Nat} {e : ErrInfo} (hr : s.Runs sq cid op c)
    (he : exec i s = live (runCmd sq cid op f) s) (hf : Framed dp mp s (exec i s))
    (hs : (dp ||| mp) ||| setOf (ps ++ settled) = setOf (ps ++ settled)) (hm : f c s.m = m.complete c status result e)
    (hk : m.dev.cmd sq cid = some k) (hP : P (s.settledAt (m.complete c status result e))) :
    Yields i s ps (fun t => t.Ends sq cid status (result % 2 ^ 32) ∧ P t) := by
  refine yields_of_run hr he hf hs (fun hsq hcid => ?_)
  subst hsq hcid
  rw [hm]
  exact ⟨Mach.complete_ends hk, hP⟩

/-- A command that runs is in flight on every device with the same commands. -/
theorem State.Runs.cmd_of_cmds {s : State} {sq cid op : Nat} {c : Cmd} {d : Dev} (hr : s.Runs sq cid op c)
    (h : d.host.cmds = s.m.dev.host.cmds) : d.cmd sq cid = some c := by
  obtain ⟨-, hcmd, -⟩ := hr
  rw [Dev.cmd_of_cmds h, hcmd]

/-! ### Clips of a directory -/

theorem Dev.nextGen_clips (d : Dev) (p i : Nat) : ((d.nextGen p).mag i).vol.clips = (d.mag i).vol.clips :=
  Dev.keeps_onMag (fun q => q.vol.clips) rfl i

/-- A checkpoint leaves the directory of every port (R346). -/
@[simp] theorem Mach.checkpoint_clips (m : Mach) (p i : Nat) : ((m.checkpoint p).dev.mag i).vol.clips = (m.dev.mag i).vol.clips := by
  obtain heq | hwrites := m.checkpoint_cases p
  · rw [heq]
  · obtain ⟨-, -, -, -, -, -, hclips⟩ := hwrites.fields i
    rw [hclips, Dev.nextGen_clips]

theorem Mach.checkpoint_tame (m : Mach) (p : Nat) : Dev.Tame (setOf [.seq, .stats, .mags, .feat 0x1D]) m.dev (m.checkpoint p).dev :=
  Mach.checkpoint_tame_dev (by decide) (.refl _ m.dev) p

/-- Checkpoints of several ports leave the directory of every port. -/
theorem Mach.checkpoints_clips (ports : List Nat) (m : Mach) (i : Nat) :
    ((ports.foldl (fun m p => m.checkpoint p) m).dev.mag i).vol.clips = (m.dev.mag i).vol.clips :=
  foldl_keeps (g := fun m : Mach => (m.dev.mag i).vol.clips) (fun m p _ => m.checkpoint_clips p i) m

theorem mem_addClip (x : Clip) (l : List Clip) : x ∈ addClip x l := by
  induction l with
  | nil => exact List.mem_cons_self
  | cons c r ih =>
    unfold addClip
    split
    · exact List.mem_cons_self
    · exact List.mem_cons_of_mem _ ih

theorem mem_addClip_of_mem {x y : Clip} {l : List Clip} (h : y ∈ l) : y ∈ addClip x l := by
  induction l with
  | nil => cases h
  | cons c r ih =>
    unfold addClip
    split
    · exact List.mem_cons_of_mem _ h
    · rcases List.mem_cons.1 h with rfl | h
      · exact List.mem_cons_self
      · exact List.mem_cons_of_mem _ (ih h)

/-- Ports that each take a clip into their directory hold it then. -/
theorem Dev.mem_clips_foldl_addClip (entry : Nat → Clip) {p : Nat} : ∀ {ports : List Nat} {d : Dev}, p ∈ ports → p < d.mags.length →
    entry p ∈ ((ports.foldl (fun d p => d.onVol p (fun v => { v with clips := addClip (entry p) v.clips })) d).mag p).vol.clips := by
  have keeps : ∀ (ports : List Nat) (d : Dev), entry p ∈ (d.mag p).vol.clips →
      entry p ∈ ((ports.foldl (fun d p => d.onVol p (fun v => { v with clips := addClip (entry p) v.clips })) d).mag p).vol.clips := by
    intro ports
    induction ports with
    | nil => exact fun _ h => h
    | cons q r ih =>
      intro d h
      refine ih _ ?_
      by_cases hq : q = p
      · subst hq
        by_cases hlen : q < d.mags.length
        · rw [Dev.mag_onVol_same hlen]
          exact mem_addClip _ _
        · simpa only [Dev.onVol, Dev.onMag_of_le (Nat.le_of_not_lt hlen)] using h
      · simpa only [Dev.onVol, Dev.mag_onMag_of_ne hq] using h
  intro ports
  induction ports with
  | nil => exact fun h => absurd h List.not_mem_nil
  | cons q r ih =>
    intro d hp hlen
    rcases List.mem_cons.1 hp with rfl | hp
    · refine keeps r _ ?_
      rw [Dev.mag_onVol_same hlen]
      exact mem_addClip _ _
    · exact ih hp (by rwa [Dev.onVol_length])

/-- A choice of magazines other than 3 names ports that there are. -/
theorem lt_two_of_choicePorts {ch p : Nat} (hch : ch % 4 ≠ 3) (hp : p ∈ choicePorts (ch % 4)) : p < 2 := by
  unfold choicePorts at hp
  split at hp
  · simp only [List.mem_cons, List.not_mem_nil, or_false] at hp
    omega
  · have := List.mem_singleton.1 hp
    omega

/-! ### CLIP_OPEN (R448) -/

/-- The directory entry of a clip that is opened, on port `p` (R351). -/
def Dev.clipEntry (d : Dev) (c : Cmd) (st : Nat) (cap : Cap) (id p : Nat) : Clip :=
  d.clipFormat st (cap.opened (c.dw 0 % 4, id))
    { id := id, stream := st, openStamp := d.stamp, label := (List.range 4).flatMap (fun i => leBytes 4 (c.dw (2 + i))),
      flags := if c.dw 0 % 4 = 2 then 1 + 2 * p else 0, peer := if c.dw 0 % 4 = 2 then (d.mag (1 - p)).vol.id else 0 }

/-- The directories with the entry of a clip that is opened, and its stream under it. -/
def Dev.clipEntered (d : Dev) (c : Cmd) (st : Nat) (cap : Cap) (id : Nat) : Dev :=
  (choicePorts (c.dw 0 % 4)).foldl (fun e p => e.onVol p (fun v => { v with clips := addClip (d.clipEntry c st cap id p) v.clips }))
    (d.setCap st (some (cap.opened (c.dw 0 % 4, id))))

/-- The commit registers of a stream whose clip is opened. -/
def Dev.cmtReset (d : Dev) (c : Cmd) (st : Nat) : Dev :=
  let cmt := if c.dw 0 % 4 = 2 then 2 ^ 30 + 2 ^ 29 else 2 ^ 30 + 2 ^ 28 * (c.dw 0 % 4)
  let o := 0x6000 + 16 * st
  (((d.setReg 0 o 0).setReg 0 (o + 4) 0).setReg 0 (o + 8) 0).setReg 0 (o + 12) (word cmt)

/-- The machine with a clip opened and the magazines' checkpoints made. -/
def Mach.clipOpened (m : Mach) (c : Cmd) (st : Nat) (cap : Cap) (id : Nat) : Mach :=
  (choicePorts (c.dw 0 % 4)).foldl (fun m p => m.checkpoint p) { m with dev := ((m.dev.clipEntered c st cap id).cmtReset c st).stamped }

theorem Dev.clipEntered_tame (d : Dev) (c : Cmd) (st : Nat) (cap : Cap) (id : Nat) :
    Dev.Tame (setOf [.mags]) (d.setCap st (some (cap.opened (c.dw 0 % 4, id)))) (d.clipEntered c st cap id) :=
  Dev.tame_foldl (.refl _ _) (fun _ _ h => Dev.onVol_tame (by decide) h ..)

theorem Dev.cmtReset_stamped_tame (d : Dev) (c : Cmd) (st : Nat) : Dev.Tame (setOf [.seq, .feat 0x00]) d (d.cmtReset c st).stamped :=
  Dev.stamped_tame (by decide) (Dev.setReg_tame (by decide) (Dev.setReg_tame (by decide) (Dev.setReg_tame (by decide)
    (Dev.setReg_tame (by decide) (.refl _ _)))))

/-- What the commit registers, the stamp and the checkpoints of a clip that is opened change. -/
theorem Mach.clipOpened_tame (m : Mach) (c : Cmd) (st : Nat) (cap : Cap) (id : Nat) :
    Dev.Tame (setOf [.seq, .stats, .mags, .feat 0x00, .feat 0x1D]) (m.dev.clipEntered c st cap id) (m.clipOpened c st cap id).dev := by
  refine Mach.tame_foldl_dev ?_ (fun _ _ h => Mach.checkpoint_tame_dev (by decide) h _)
  exact (Dev.cmtReset_stamped_tame ..).mono (by decide)

theorem Mach.clipOpened_cap (m : Mach) (c : Cmd) (st : Nat) (cap : Cap) (id : Nat) :
    (m.clipOpened c st cap id).dev.cap st = some (cap.opened (c.dw 0 % 4, id)) := by
  rw [(m.clipOpened_tame c st cap id).cap_eq (by decide), (m.dev.clipEntered_tame c st cap id).cap_eq (by decide), Dev.cap_setCap_some]

theorem Mach.clipOpened_cmds (m : Mach) (c : Cmd) (st : Nat) (cap : Cap) (id : Nat) :
    (m.clipOpened c st cap id).dev.host.cmds = m.dev.host.cmds :=
  ((m.clipOpened_tame c st cap id).cmds_eq (by decide)).trans (((m.dev.clipEntered_tame c st cap id).cmds_eq (by decide)).trans
    ((Dev.setCap_tame (ps := setOf [.caps]) (by decide) (.refl _ m.dev) st _).cmds_eq (by decide)))

theorem Mach.mem_clips_clipOpened {m : Mach} (c : Cmd) (st : Nat) (cap : Cap) (id : Nat) {p : Nat} (hp : p ∈ choicePorts (c.dw 0 % 4))
    (hlen : p < m.dev.mags.length) : m.dev.clipEntry c st cap id p ∈ ((m.clipOpened c st cap id).dev.mag p).vol.clips := by
  have hentered : m.dev.clipEntry c st cap id p ∈ ((m.dev.clipEntered c st cap id).mag p).vol.clips :=
    Dev.mem_clips_foldl_addClip (d := m.dev.setCap st _) (m.dev.clipEntry c st cap id) hp hlen
  unfold Mach.clipOpened
  rw [Mach.checkpoints_clips, (Dev.cmtReset_stamped_tame _ c st).mag_eq (by decide)]
  exact hentered

section
variable {s : State} {sq cid : Nat} {c : Cmd} {x : Ctx} {cap : Cap} (hx : s.m.Captures c x cap)
include hx

theorem clipOpen_yields {id : Nat} (hs : s.m.dev.Shape) (hr : s.Runs sq cid 0x50 c) (hch : c.dw 0 % 4 ≠ 3) (hclip : cap.clip = none)
    (hports : ∀ p ∈ choicePorts (c.dw 0 % 4), (s.m.dev.mag p).mounted = true ∧ (s.m.dev.mag p).readOnly = false ∧
      (s.m.dev.mag p).geo.protected_ = false ∧ s.m.dev.magLow (s.m.dev.withStream x.stream (cap.opened (c.dw 0 % 4, id))) p = false)
    (hid : newClipId (s.m.dev.clipIds (choicePorts (c.dw 0 % 4))) = some id)
    (hadm : s.m.admission x.stream (cap.opened (c.dw 0 % 4, id)) false true = none) :
    Yields (.clipOpen sq cid) s [.seq, .stats, .commands, .errorLog, .admission, .caps, .mags, .carriers, .feat 0x00, .feat 0x1D] (fun t =>
      t.Ends sq cid Status.ok (id % 2 ^ 32) ∧ t.m.dev.cap x.stream = some (cap.opened (c.dw 0 % 4, id)) ∧
      ∀ p ∈ choicePorts (c.dw 0 % 4), ∃ y ∈ (t.m.dev.mag p).vol.clips, y.id = id ∧ y.stream = x.stream) := by
  refine yields_of_captureCompletes hr hx rfl (execClipOpen_framed sq cid s) (by decide) (m := s.m.clipOpened c x.stream cap id) (e := {})
    ?_ (Mach.clipOpened_cmds ..) ⟨?_, fun p hp => ?_⟩
  · have hmount : (choicePorts (c.dw 0 % 4)).all (fun p => (s.m.dev.mag p).mounted) = true :=
      List.all_eq_true.2 fun p hp => (hports p hp).1
    have hprot : (choicePorts (c.dw 0 % 4)).any (fun p => (s.m.dev.mag p).readOnly || (s.m.dev.mag p).geo.protected_) = false :=
      List.any_eq_false.2 fun p hp => by simp [hports p hp]
    have hlow : (choicePorts (c.dw 0 % 4)).any (s.m.dev.magLow (s.m.dev.withStream x.stream (cap.opened (c.dw 0 % 4, id)))) = false :=
      List.any_eq_false.2 fun p hp => by simp [hports p hp]
    simp only [hch, hclip, hmount, hprot, hid, hlow, hadm, if_false, Option.isSome_none, Bool.not_true, Bool.false_eq_true]
    rfl
  · simp only [State.settledAt, Dev.settle_cap, Mach.complete_cap]
    exact s.m.clipOpened_cap ..
  · refine ⟨s.m.dev.clipEntry c x.stream cap id p, ?_, rfl, rfl⟩
    simp only [State.settledAt, Dev.settle_mag, Mach.complete_mag]
    exact Mach.mem_clips_clipOpened c x.stream cap id hp (hs.lt_mags (lt_two_of_choicePorts hch hp))

/-! ### CLIP_CLOSE (R452) -/

/-- The machine with the logs of a clip written, its entry closed and the black box mirrored on the mounted ports of its choice. -/
def Mach.clipClosed (m : Mach) (st ch id : Nat) : Mach :=
  let ports := (choicePorts ch).filter (fun p => (m.dev.mag p).mounted)
  let m1 := ports.foldl (fun m p => m.writeLogs p id true) m
  let stamp := m1.dev.stamp
  ports.foldl (fun m p => (m.checkpoint p).mirrorBlackBox p)
    { m1 with dev := (m1.dev.onOpenClip st (fun _ x => { x with state := 2, closeStamp := stamp })).stamped }

omit hx in
theorem Mach.clipClosed_tame (m : Mach) (st ch id : Nat) :
    Dev.Tame (setOf [.seq, .stats, .bbx, .mags, .feat 0x1D]) m.dev (m.clipClosed st ch id).dev := by
  refine Mach.tame_foldl_dev ?_ (fun _ _ h => ?_)
  · exact Dev.stamped_tame (by decide) (Dev.onOpenClip_tame (by decide)
      (Mach.tame_foldl_dev (.refl _ _) fun _ _ h => Mach.writeLogs_tame_dev (by decide) h ..) ..)
  · exact Mach.mirrorBlackBox_tame_dev (by decide) (Mach.checkpoint_tame_dev (by decide) h _) _

theorem clipClose_yields {k : Nat × Nat} (hr : s.Runs sq cid 0x51 c) (hclip : cap.clip = some k) (hact : cap.active = false)
    (hdrain : cap.draining = false) :
    Yields (.clipClose sq cid) s [.seq, .stats, .commands, .errorLog, .admission, .bbx, .caps, .mags, .carriers, .feat 0x00, .feat 0x1D] (fun t =>
      t.Ends sq cid Status.ok (cap.passed % 2 ^ 32) ∧ (t.m.dev.cap x.stream).map (fun y => y.clip) = some none) := by
  obtain ⟨ch, id⟩ := k
  have htame := s.m.clipClosed_tame x.stream ch id
  have hcap : (s.m.clipClosed x.stream ch id).dev.cap x.stream = some cap := (htame.cap_eq (by decide) _).trans hx.cap
  generalize hn : s.m.clipClosed x.stream ch id = n at htame hcap
  refine yields_of_captureCompletes hr hx rfl (execClipClose_framed sq cid s) (by decide) (e := {})
    (m := { n with dev := (n.dev.modCap x.stream (fun y => { y with clip := none, moved := none, dropJ := 0, past := [] })).setCmt x.stream 30 1 0 })
    ?_ ?_ ?_
  · simp only [hclip, hact, hdrain, Bool.or_self, Bool.false_eq_true, if_false]
    rw [← hn]
    rfl
  · exact (Dev.modCap_cmds ..).trans (htame.cmds_eq (by decide))
  · have hfree := Dev.setCmt_tame (ps := setOf [.feat 0x00]) (by decide) (.refl _ (n.dev.modCap x.stream
      (fun y => { y with clip := none, moved := none, dropJ := 0, past := [] }))) x.stream 30 1 0
    simp only [State.settledAt, Dev.settle_cap, Mach.complete_cap]
    rw [hfree.cap_eq (by decide), Dev.cap_modCap_same hcap]
    rfl

end

/-! ### CLIP_DELETE (R363, R453) -/

section
variable {s : State} {sq cid p : Nat} {c : Cmd} {x : Clip} (hr : s.Runs sq cid 0x52 c) (htarget : c.target = p) (hp : p < 2)
  (hmount : (s.m.dev.mag p).mounted = true) (hx : (s.m.dev.mag p).vol.clip (c.dw 0 % 65536) = some x)
  (hro : (s.m.dev.mag p).readOnly = false) (hprot : (s.m.dev.mag p).geo.protected_ = false)
include hr htarget hp hmount hx hro hprot

theorem clipDelete_open_yields (hst : x.state = 1) :
    Yields (.clipDelete sq cid) s [.seq, .stats, .commands, .errorLog, .admission, .mags, .carriers, .feat 0x1D] (fun t =>
      t.Ends sq cid Status.admissionDenied 0 ∧ (t.m.dev.mag p).vol.clips = (s.m.dev.mag p).vol.clips) := by
  subst htarget
  refine yields_of_completion hr rfl (execClipDelete_framed sq cid s) (by decide) (m := { s.m with dev := s.m.dev.noteDenied 13 noStream 0 0 })
    (result := 0) (e := {}) ?_ (hr.cmd_of_cmds rfl) ?_
  · simp only [hmount, hx, hro, hprot, hst, Nat.not_lt.2 (Nat.le_of_lt_succ hp), if_false, if_true, Bool.not_true, Bool.or_self,
      Bool.false_eq_true]
    rfl
  · simp only [State.settledAt, Dev.settle_mag, Mach.complete_mag]
    rfl

theorem clipDelete_closed_yields (hs : s.m.dev.Shape) (hst : x.state ≠ 1) (huse : s.m.clipInUse p x = false) :
    Yields (.clipDelete sq cid) s [.seq, .stats, .commands, .errorLog, .admission, .mags, .carriers, .feat 0x1D] (fun t =>
      t.Ends sq cid Status.ok 0 ∧ ∀ y ∈ (t.m.dev.mag p).vol.clips, y.id ≠ x.id) := by
  subst htarget
  have hdrop := Mach.dropClip_tame_dev (ps := setOf [.mags]) (by decide) (.refl _ s.m.dev) c.target x
  refine yields_of_completion hr rfl (execClipDelete_framed sq cid s) (by decide) (m := (s.m.dropClip c.target x).checkpoint c.target)
    (result := 0) (e := {}) ?_ (hr.cmd_of_cmds ?_) (fun y hy => ?_)
  · simp only [hmount, hx, hro, hprot, hst, huse, Nat.not_lt.2 (Nat.le_of_lt_succ hp), if_false, Bool.not_true, Bool.or_self,
      Bool.false_eq_true]
  · rw [(Mach.checkpoint_tame _ _).cmds_eq (by decide), hdrop.cmds_eq (by decide)]
  · simp only [State.settledAt, Dev.settle_mag, Mach.complete_mag, Mach.checkpoint_clips] at hy
    simp only [Mach.dropClip, onDev, Dev.mag_onVol_same (hs.lt_mags hp), List.mem_filter, decide_eq_true_eq] at hy
    exact hy.2

end

/-- Settles O49: a clip that is opened stands in the directory of each port of its choice, one that is closed leaves its stream, and
one that is deleted leaves its directory. -/
theorem clips : Obligations.Clips := by
  intro s sq cid c hs _
  refine ⟨fun x cap id hr hctx hkind hcap hch hclip hports hid hadm => ?_, fun x cap k hr hctx hkind hcap hclip hact hdrain => ?_,
    fun p x hr htarget hp hmount hx hro hprot => ⟨fun hst => ?_, fun hst huse => ?_⟩⟩
  · exact clipOpen_yields ⟨hctx, hkind, hcap⟩ hs hr hch hclip hports hid hadm
  · exact clipClose_yields ⟨hctx, hkind, hcap⟩ hr hclip hact hdrain
  · exact clipDelete_open_yields hr htarget hp hmount hx hro hprot hst
  · exact clipDelete_closed_yields hr htarget hp hmount hx hro hprot hs hst huse

end Sys2Proof.Machine
end

section
/-! Power-on, external and internal resets (R364, R365, R583, R599). -/

namespace Sys2Proof.Machine
open Sys2Proof

/-- A power-on, external or internal reset leaves the registers at their reset values. -/
theorem Dev.afterReset_reg (d : Dev) (cause : ResetCause) (straps : Option Straps) (f o : Nat) :
    (d.afterReset cause straps).reg f o = regDefault (regKey f o) := rfl

/-- The device whose recorder writes out its queue before a reset. -/
theorem Mach.bbxDrain_tame (m : Mach) : Dev.Tame (setOf [.bbx]) m.dev m.bbxDrain.dev := Mach.bbxDrain_tame_dev (by decide) (.refl _ _)

theorem Mach.bbxDrain_mem_tame (m : Mach) : Mem.Tame (setOf [.mram]) m.mem m.bbxDrain.mem := Mach.bbxDrain_tame_mem (by decide) (.refl _ _)

theorem Mach.bbxDrain_boot (m : Mach) : m.bbxDrain.dev.boot = m.dev.boot := m.bbxDrain_tame.same .boot (by decide)

theorem Mach.bbxDrain_otp (m : Mach) : m.bbxDrain.dev.otp = m.dev.otp := m.bbxDrain_tame.same .otp (by decide)

theorem Dev.advanceTo_boot_otp (d : Dev) (t : Nat) : (d.advanceTo t).boot = d.boot ∧ (d.advanceTo t).otp = d.otp :=
  ⟨(d.advanceTo_tame_self t).same .boot (by decide), (d.advanceTo_tame_self t).same .otp (by decide)⟩

/-- The state with a machine in place of its own. -/
def State.atMach (s : State) (m : Mach) : State := { s with m := m }

/-- A long enough low level of RESET_N resets the device once the recorder has written out its queue (R364, R599). -/
theorem execExternalReset_of_long {s : State} {low : Nat} (role bootSrc : Nat) (testEn : Bool) (hoff : s.m.dev.off = false) (hlow : 2000 ≤ low) :
    exec (.externalReset low role bootSrc testEn) s = .next (s.atMach
      ((onDev (fun d => d.advance low) s.m).bbxDrain.reset .external (some { role := role, bootSrc := bootSrc, testEn := testEn }))) := by
  show execExternalReset low role bootSrc testEn s = _
  unfold execExternalReset
  rw [if_neg (by simp [hoff])]
  exact if_neg (Nat.not_lt.2 hlow)

/-- A shorter one is ignored. -/
theorem execExternalReset_of_short {s : State} {low : Nat} (role bootSrc : Nat) (testEn : Bool) (hoff : s.m.dev.off = false) (hlow : low < 2000) :
    exec (.externalReset low role bootSrc testEn) s = .next (s.atMach (onDev (fun d => d.advance low) s.m)) := by
  show execExternalReset low role bootSrc testEn s = _
  unfold execExternalReset
  rw [if_neg (by simp [hoff])]
  exact if_pos hlow

/-- The machine at the reset that firmware, a timer or a watchdog has called for. -/
def Mach.dueReset (m : Mach) (cause : ResetCause) (t : Nat) : Mach :=
  (Mach.bbxDrain { m with dev := m.dev.advanceTo t }).reset cause none

theorem execInternalReset_of_due {s : State} {cause : ResetCause} {t : Nat} (hl : s.Live) (h : s.m.dev.boot.resetDue = some (cause, t)) :
    exec .internalReset s = .next (s.settledAt (s.m.dueReset cause t)) := by
  obtain ⟨hundef, hoff⟩ := hl
  have hlive : exec .internalReset s = live (fun m => m.dueReset cause t) s := by
    show execInternalReset s = _
    unfold execInternalReset
    refine live_congr ?_
    simp only [h]
    rfl
  rw [hlive]
  unfold live
  rw [hundef, hoff]
  rfl

/-- A reset that takes no new straps keeps those of the device (R365, R583). -/
theorem Mach.dueReset_boot (m : Mach) (cause : ResetCause) (t : Nat) :
    let b := (m.dueReset cause t).dev.boot
    b.state = .romInit ∧ b.cause = cause ∧ b.role = m.dev.boot.role % 4 ∧ b.bootSrc = m.dev.boot.bootSrc % 4 := by
  have hboot := (Mach.bbxDrain_boot { m with dev := m.dev.advanceTo t }).trans (m.dev.advanceTo_boot_otp t).1
  refine ⟨rfl, rfl, ?_, ?_⟩
  · exact congrArg (fun b : Boot => b.role % 4) hboot
  · exact congrArg (fun b : Boot => b.bootSrc % 4) hboot

theorem Mach.dueReset_otp (m : Mach) (cause : ResetCause) (t : Nat) : (m.dueReset cause t).dev.otp = m.dev.otp :=
  (Mach.bbxDrain_otp { m with dev := m.dev.advanceTo t }).trans (m.dev.advanceTo_boot_otp t).2

/-- Settles O16: the device after a reset is a fresh one but for what the reset carries over. -/
theorem resets : Obligations.Resets := by
  intro s
  refine ⟨fun role bootSrc testEn => ?_, fun low role bootSrc testEn hoff hlow => ?_, fun low role bootSrc testEn hoff hlow => ?_,
    fun cause at_ hl hdue => ?_⟩
  · exact ⟨_, rfl, rfl, fun _ _ => rfl, rfl, rfl, rfl, rfl, rfl, ⟨rfl, rfl⟩, rfl, rfl, rfl, rfl, rfl⟩
  · have hmem := Mach.bbxDrain_mem_tame (onDev (fun d => d.advance low) s.m)
    exact ⟨_, execExternalReset_of_long role bootSrc testEn hoff hlow, rfl, fun _ _ => rfl, rfl, rfl, rfl, ⟨rfl, rfl⟩, rfl, rfl,
      Mach.bbxDrain_otp _, rfl, hmem.same .hostMem (by decide), hmem.same .nor (by decide), hmem.same .carriers (by decide)⟩
  · exact ⟨_, execExternalReset_of_short role bootSrc testEn hoff hlow, rfl,
      Mach.only_of_tame (Dev.advance_tame (ps := setOf [.clk, .sid]) (by decide) (.refl _ _) low) (Mem.Tame.refl (setOf []) _) (by decide)⟩
  · obtain ⟨hstate, hcause, hrole, hsrc⟩ := s.m.dueReset_boot cause at_
    refine ⟨_, execInternalReset_of_due hl hdue, rfl, ?_⟩
    simp only [State.settledAt, Dev.settle_reg, Dev.settle_boot, Dev.settle_caps, Dev.settle_otp]
    exact ⟨fun _ _ => rfl, hstate, hcause, hrole, hsrc, rfl, s.m.dueReset_otp cause at_, rfl⟩

end Sys2Proof.Machine
end

section
/-! FW_LOAD and the three actions of FW_COMMIT (R374, R435, R436). -/

namespace Sys2Proof.Machine
open Sys2Proof

/-! ### What a completion leaves -/

section
variable (m : Mach) (c : Cmd) (status result : Nat) (e : ErrInfo)

@[simp] theorem Mach.complete_staged : (m.complete c status result e).dev.staged = m.dev.staged :=
  (m.complete_tame c status result e).same .staged (by decide)

@[simp] theorem Mach.complete_otp : (m.complete c status result e).dev.otp = m.dev.otp :=
  (m.complete_tame c status result e).same .otp (by decide)

@[simp] theorem Mach.complete_boot : (m.complete c status result e).dev.boot = m.dev.boot :=
  (m.complete_tame c status result e).same .boot (by decide)

@[simp] theorem Mach.complete_clk : (m.complete c status result e).dev.clk = m.dev.clk :=
  (m.complete_tame c status result e).same .clk (by decide)

@[simp] theorem Mach.complete_mem : (m.complete c status result e).mem = m.mem := rfl

end

section
variable {s : State} {sq cid : Nat} {c : Cmd}

/-! ### FW_LOAD (R435) -/

theorem fwLoad_yields (hr : s.Runs sq cid 0x10 c) (hmin : 4 ≤ c.dataLen) (hmax : c.dataLen ≤ 4194304) (hfits : c.dw 0 + c.dataLen ≤ 33554369)
    (hdata : s.m.mem.dataOk c c.dataLen = true) :
    Yields (.fwLoad sq cid) s [.seq, .staged, .commands, .errorLog] (fun t => t.Ends sq cid Status.ok 0 ∧ t.m.dev.staged = some (writeBytes byteZero
      (if bit (c.dw 1) 0 then [] else s.m.dev.staged.getD []) (c.dw 0) (s.m.mem.dataIn c c.dataLen))) := by
  refine yields_of_completion hr rfl (execFwLoad_framed sq cid s) (by decide) (result := 0) (e := {})
    (m := { s.m with dev := { s.m.dev with staged := some (writeBytes byteZero (if bit (c.dw 1) 0 then [] else s.m.dev.staged.getD []) (c.dw 0)
      (s.m.mem.dataIn c c.dataLen)) } }) ?_ (hr.cmd_of_cmds rfl) ?_
  · have hlen : ¬ (c.dataLen < 4 ∨ 4194304 < c.dataLen) := by omega
    simp only [hlen, Nat.not_lt.2 hfits, hdata, if_false, Bool.not_true, Bool.false_eq_true]
  · simp only [State.settledAt, Dev.settle_staged, Mach.complete_staged]

/-! ### FW_COMMIT (R436) -/

/-- The slot that FW_COMMIT writes. -/
def commitSlot (c : Cmd) : Nat := if bit (c.dw 0) 8 then Image.b.norBase else Image.a.norBase

/-- What a slot holds after a write whose read-back agrees or does not. -/
def Dev.committedBytes (d : Dev) (img : List Byte) (readback : Bool) : List Byte := if readback then img else leBytes img.length d.drawn

/-- The machine with a staged image written to its slot. -/
def Mach.slotWritten (m : Mach) (c : Cmd) (img : List Byte) (readback : Bool) : Mach :=
  { dev := { (if readback then m.dev else m.dev.afterDraw) with staged := none },
    mem := { m.mem with nor := writeBytes byteOnes m.mem.nor (commitSlot c) (m.dev.committedBytes img readback) } }

/-- The status of FW_COMMIT for an image that fails its checks. -/
def imageStatus (cause : Nat) : Nat :=
  if cause = 2 then Status.signatureBad else if cause = 3 then Status.rollbackRefused else Status.invalidField

theorem Mach.commit_of_good {m : Mach} {img : List Byte} {ver sec : Nat} (himg : m.dev.stagedImage = some img)
    (h : checkImage m.dev.otp m.dev.boot.role img = .good ver sec) (c : Cmd) (readback : Bool) :
    m.commit c readback = (readback, (m.slotWritten c img readback).complete c (if readback then Status.ok else Status.invalidField)) := by
  unfold Mach.commit
  simp only [himg, h]
  rfl

theorem Mach.commit_of_bad {m : Mach} {img : List Byte} {cause : Nat} (himg : m.dev.stagedImage = some img)
    (h : checkImage m.dev.otp m.dev.boot.role img = .bad cause) (c : Cmd) (readback : Bool) :
    ∃ e, m.commit c readback = (false, m.complete c (imageStatus cause) 0 e) := by
  unfold Mach.commit
  simp only [himg, h]
  split
  next h2 =>
    cases h2
    exact ⟨{}, rfl⟩
  next h3 =>
    cases h3
    exact ⟨{}, rfl⟩
  next h2 h3 heq =>
    cases heq
    refine ⟨{}, ?_⟩
    rw [imageStatus, if_neg h2, if_neg h3]
  next heq => cases heq

theorem Mach.slotWritten_cmds (m : Mach) (c : Cmd) (img : List Byte) (readback : Bool) :
    (m.slotWritten c img readback).dev.host.cmds = m.dev.host.cmds := by
  cases readback <;> rfl

theorem write_yields {img : List Byte} (rb : Bool) (hr : s.Runs sq cid 0x11 c) (hact : c.dw 0 % 4 = 0) (himg : s.m.dev.stagedImage = some img) :
    Yields (.write sq cid rb) s [.seq, .staged, .commands, .errorLog, .nor] (fun t =>
      match checkImage s.m.dev.otp s.m.dev.boot.role img with
      | .good _ _ => t.m.dev.staged = none ∧ (rb = true → t.Ends sq cid Status.ok 0 ∧
          t.m.mem.nor = writeBytes byteOnes s.m.mem.nor (if bit (c.dw 0) 8 then Image.b.norBase else Image.a.norBase) img)
      | .bad cause => t.m.mem = s.m.mem ∧ t.m.dev.staged = s.m.dev.staged ∧
          t.Ends sq cid (if cause = 2 then Status.signatureBad else if cause = 3 then Status.rollbackRefused else Status.invalidField) 0) := by
  have he : exec (.write sq cid rb) s = live (fun m => (m.commit c rb).2) s := by
    show execWrite sq cid rb s = _
    unfold execWrite commitCmd
    exact (live_runCmd hr (if_pos hact)).trans (live_congr rfl)
  refine yields_of_live hr.1 he (execWrite_framed sq cid rb s) (by decide) ?_
  obtain ⟨hsq, hcid, -⟩ := Dev.cmd_key hr.2.1
  subst hsq hcid
  cases hcheck : checkImage s.m.dev.otp s.m.dev.boot.role img with
  | good ver sec =>
    simp only [Mach.commit_of_good himg hcheck]
    refine ⟨?_, ?_⟩
    · rw [Dev.settle_staged, Mach.complete_staged]
      rfl
    · rintro rfl
      exact ⟨Mach.complete_ends (hr.cmd_of_cmds (s.m.slotWritten_cmds c img true)), rfl⟩
  | bad cause =>
    obtain ⟨e, hcommit⟩ := Mach.commit_of_bad himg hcheck c rb
    simp only [hcommit]
    refine ⟨rfl, ?_, Mach.complete_ends hr.2.1⟩
    rw [Dev.settle_staged, Mach.complete_staged]

/-! ### Action 1 (R376, R396, R436) -/

/-- A reset that activates the committed image is due 10 ms from now. -/
def Dev.activates (d : Dev) : Dev := d.onBoot (fun b => { b with resetDue := some (.activate, 10000000 + d.clk) })

theorem writeAndActivate_yields {img : List Byte} (hr : s.Runs sq cid 0x11 c) (hact : c.dw 0 % 4 = 1) (himg : s.m.dev.stagedImage = some img)
    (hcap : s.m.dev.anyCapture = false) :
    Yields (.writeAndActivate sq cid true) s [.seq, .boot, .staged, .commands, .errorLog, .admission, .nor] (fun t =>
      match checkImage s.m.dev.otp s.m.dev.boot.role img with
      | .good _ _ => t.Ends sq cid Status.ok 0 ∧ t.m.dev.boot.resetDue = some (.activate, 10000000 + s.m.dev.clk)
      | .bad _ => t.m.dev.boot = s.m.dev.boot ∧ t.m.mem = s.m.mem) := by
  have he : exec (.writeAndActivate sq cid true) s =
      live (fun m => if (m.commit c true).1 then onDev Dev.activates (m.commit c true).2 else (m.commit c true).2) s := by
    show execWriteAndActivate sq cid true s = _
    unfold execWriteAndActivate commitCmd
    refine (live_runCmd hr (if_pos hact)).trans (live_congr ?_)
    simp only [hcap, Bool.false_eq_true, if_false]
    rfl
  refine yields_of_live hr.1 he (execWriteAndActivate_framed sq cid true s) (by decide) ?_
  obtain ⟨hsq, hcid, -⟩ := Dev.cmd_key hr.2.1
  subst hsq hcid
  cases hcheck : checkImage s.m.dev.otp s.m.dev.boot.role img with
  | good ver sec =>
    have hcmd : (s.m.slotWritten c img true).dev.cmd c.sq c.cid = some c := hr.cmd_of_cmds (s.m.slotWritten_cmds c img true)
    simp only [Mach.commit_of_good himg hcheck, if_true]
    refine ⟨ends_of_complete (s := s) (result := 0) (e := {}) hcmd (Dev.settle_host_stage _), ?_⟩
    rw [Dev.settle_boot]
    simp only [onDev, Dev.activates, Dev.onBoot_fields, Mach.complete_clk]
    rfl
  | bad cause =>
    obtain ⟨e, hcommit⟩ := Mach.commit_of_bad himg hcheck c true
    simp only [hcommit, Bool.false_eq_true, if_false]
    refine ⟨?_, rfl⟩
    rw [Dev.settle_boot, Mach.complete_boot]

theorem writeAndActivate_denied_yields (hr : s.Runs sq cid 0x11 c) (hact : c.dw 0 % 4 = 1) (hcap : s.m.dev.anyCapture = true) :
    Yields (.writeAndActivate sq cid true) s [.seq, .boot, .staged, .commands, .errorLog, .admission, .nor] (fun t =>
      t.Ends sq cid Status.admissionDenied 0 ∧ t.m.mem = s.m.mem ∧ t.m.dev.staged = s.m.dev.staged) := by
  refine yields_of_completion hr (show exec (.writeAndActivate sq cid true) s = execWriteAndActivate sq cid true s from rfl)
    (execWriteAndActivate_framed sq cid true s) (by decide) (result := 0) (e := {})
    (m := { s.m with dev := s.m.dev.noteDenied 13 noStream 0 0 }) ?_ (hr.cmd_of_cmds rfl) ⟨rfl, ?_⟩
  · simp only [hact, hcap, if_true]
    rfl
  · simp only [State.settledAt, Dev.settle_staged, Mach.complete_staged]
    rfl

/-! ### Action 2 (R374, R436) -/

theorem raiseFloor_yields (hr : s.Runs sq cid 0x11 c) (hact : c.dw 0 % 4 = 2) (hstate : s.m.dev.boot.state ≠ .twilight)
    (hfloor : s.m.dev.otp.floor < s.m.dev.boot.secVersion) :
    Yields (.raiseFloor sq cid) s [.seq, .otp, .staged, .commands, .errorLog] (fun t => t.Ends sq cid Status.ok 0 ∧
      t.m.dev.otp = { s.m.dev.otp with floor := s.m.dev.boot.secVersion } ∧ t.m.dev.staged = none) := by
  refine yields_of_completion hr (show exec (.raiseFloor sq cid) s = execRaiseFloor sq cid s from rfl)
    (execRaiseFloor_framed sq cid s) (by decide) (result := 0) (e := {})
    (m := { s.m with dev := { s.m.dev with otp := { s.m.dev.otp with floor := s.m.dev.boot.secVersion }, staged := none } })
    ?_ (hr.cmd_of_cmds rfl) ?_
  · simp only [hact, hstate, Nat.not_le.2 hfloor, or_self, if_true, if_false]
  · simp only [State.settledAt, Dev.settle_staged, Mach.complete_staged, Dev.settle_otp, Mach.complete_otp, true_and]

theorem raiseFloor_refused_yields (hr : s.Runs sq cid 0x11 c) (hact : c.dw 0 % 4 = 2) (hfloor : s.m.dev.boot.secVersion ≤ s.m.dev.otp.floor) :
    Yields (.raiseFloor sq cid) s [.seq, .otp, .staged, .commands, .errorLog] (fun t => t.Ends sq cid Status.invalidField 0 ∧
      t.m.dev.otp = s.m.dev.otp) := by
  refine yields_of_completion hr (show exec (.raiseFloor sq cid) s = execRaiseFloor sq cid s from rfl)
    (execRaiseFloor_framed sq cid s) (by decide) (result := 0) (e := { field := 32 }) (m := s.m) ?_ hr.2.1 ?_
  · simp only [hact, hfloor, or_true, if_true]
    rfl
  · simp only [State.settledAt, Dev.settle_otp, Mach.complete_otp]

end

/-- Settles O58: FW_LOAD stages its bytes, FW_COMMIT writes or refuses an image by its checks, and raises the floor by the version that
runs. -/
theorem firmware : Obligations.Firmware := by
  intro s sq cid c
  refine ⟨fwLoad_yields, fun rb img hr hact himg => write_yields rb hr hact himg, fun img hr hact himg => ⟨fun hcap => ?_, fun hcap => ?_⟩,
    fun hr hact hstate => ⟨fun hfloor => ?_, fun hfloor => ?_⟩⟩
  · exact writeAndActivate_yields hr hact himg hcap
  · exact writeAndActivate_denied_yields hr hact hcap
  · exact raiseFloor_yields hr hact hstate hfloor
  · exact raiseFloor_refused_yields hr hact hfloor

end Sys2Proof.Machine
end

section
/-! A CQ head doorbell with no completion held for its queue (R404, R405), and EN of the admin queue (R400, R401). -/

namespace Sys2Proof.Machine
open Sys2Proof

section
variable (d : Dev) (q : Nat)

/-! ### Completion queues -/

/-- A completion queue that is put reads back. -/
@[simp] theorem Dev.cq_setCq_some (c : Cq) : (d.setCq q (some c)).cq q = some c :=
  Tbl.get_set_same (fun _ => none) d.host.cqs q (Option.some_ne_none c)

@[simp] theorem Dev.sq_setCq (k : Nat) (c : Option Cq) : (d.setCq k c).sq q = d.sq q := rfl

@[simp] theorem Dev.cq_setSq (k : Nat) (x : Option Sq) : (d.setSq k x).cq q = d.cq q := rfl

theorem Dev.sq_onHost {d : Dev} {f : HostIf → HostIf} (h : (f d.host).sqs = d.host.sqs) (q : Nat) : (d.onHost f).sq q = d.sq q :=
  congrArg (Tbl.get (fun _ => none) · q) h

theorem Dev.cq_onHost {d : Dev} {f : HostIf → HostIf} (h : (f d.host).cqs = d.host.cqs) (q : Nat) : (d.onHost f).cq q = d.cq q :=
  congrArg (Tbl.get (fun _ => none) · q) h

@[simp] theorem Dev.msix_cq (v k : Nat) : (d.msix v).cq k = d.cq k := by
  have h : (d.msix v).host.cqs = d.host.cqs := (Dev.msix_tame (ps := setOf [.msix, .sent]) (by decide) (.refl _ d) v).same .cqs (by decide)
  simp only [Dev.cq, h]

@[simp] theorem Dev.holdResume_cq (k : Nat) : d.holdResume.cq k = d.cq k := by
  have h : d.holdResume.host.cqs = d.host.cqs := (Dev.holdResume_tame (ps := setOf [.commands]) (by decide) (.refl _ d)).same .cqs (by decide)
  simp only [Dev.cq, h]

/-- A new aggregation interval changes only what the queue has not signalled (R398). -/
theorem Dev.reaggregate_cq {d : Dev} {q : Nat} {c : Cq} (h : d.cq q = some c) :
    ∃ n k, (d.reaggregate q).cq q = some { c with unsent := n, aggFrom := k } := by
  unfold Dev.reaggregate
  rw [h]
  dsimp only
  split
  · exact ⟨0, c.aggFrom, d.cq_setCq_some q _⟩
  · split
    · exact ⟨0, c.aggFrom, by rw [Dev.msix_cq, Dev.cq_setCq_some]⟩
    · exact ⟨_, d.clk, d.cq_setCq_some q _⟩

theorem Dev.reaggregate_held : (d.reaggregate q).host.held = d.host.held :=
  ((Dev.reaggregate_tame (ps := setOf [.cqs, .msix, .sent]) (by decide) (.refl _ d) q).same .commands (by decide)).2.2.1

end

/-- A queue for which no completion is held takes none from the holding store. -/
theorem Mach.drainHeld_of_none {m : Mach} {q : Nat} (h : m.dev.hasHeld q = false) (k : Nat) : m.drainHeld q k = m := by
  have hfind : m.dev.host.held.find? (fun e => decide (e.cq = q)) = none :=
    List.find?_eq_none.2 (fun e he => by simpa using List.any_eq_false.1 h e he)
  cases k with
  | zero => rfl
  | succ k =>
    rw [Mach.drainHeld, hfind]
    split
    next h2 => exact absurd h2 (by simp)
    · rfl

/-! ### The doorbell -/

/-- The device with a head moved on, its aggregation begun anew and the doorbell's source fired. -/
def Dev.headMoved (d : Dev) (q h : Nat) (c : Cq) : Dev := ((d.setCq q (some { c with head := h })).reaggregate q).fireInt (272 + q)

theorem Dev.headMoved_hasHeld (d : Dev) (q h : Nat) (c : Cq) : (d.headMoved q h c).hasHeld q = d.hasHeld q := by
  unfold Dev.hasHeld Dev.headMoved
  rw [Dev.fireInt_host_held, Dev.reaggregate_held]
  rfl

theorem Mach.cqDoorbell_of_ahead {m : Mach} {q h : Nat} {c : Cq} (hc : m.dev.cq q = some c) (hb : c.bad = false) (hs : h < c.size) (hne : h ≠ c.head)
    (ha : ringDiff h c.head c.size ≤ ringDiff c.tail c.head c.size) (hh : m.dev.hasHeld q = false) :
    m.cqDoorbell q h = { m with dev := (m.dev.headMoved q h c).holdResume } := by
  have hdrain := Mach.drainHeld_of_none (m := { m with dev := m.dev.headMoved q h c }) ((m.dev.headMoved_hasHeld q h c).trans hh) 4096
  unfold Mach.cqDoorbell
  rw [hc]
  dsimp only
  rw [if_neg (by rw [hb]; decide), if_pos ⟨hs, ha⟩, if_neg hne]
  rw [Dev.headMoved] at hdrain ⊢
  rw [hdrain]

theorem cqHeadDoorbell_yields {s : State} {q h : Nat} {c : Cq} (hl : s.Live) (hr : s.m.dev.barReachable = true) (hq : q < 256) (hh : h < 65536)
    (hc : s.m.dev.cq q = some c) (hb : c.bad = false) (hs : h < c.size) (hne : h ≠ c.head)
    (ha : ringDiff h c.head c.size ≤ ringDiff c.tail c.head c.size) (hheld : s.m.dev.hasHeld q = false) :
    Yields (.cqHeadDoorbell q h) s [.cqs, .commands, .events, .access, .seq, .bbx, .hostMem] (fun t =>
      (∃ c', t.m.dev.cq q = some c' ∧ c'.head = h ∧ c'.tail = c.tail ∧ c'.base = c.base ∧ c'.size = c.size ∧ c'.bad = false) ∧
      t.m.mem = s.m.mem) := by
  refine yields_of_live hl rfl (execCqHeadDoorbell_framed q h s) (by decide) ?_
  rw [onlyIf_of_true (by simp only [hr, hq, hh, and_self, decide_true, Bool.and_self]), Mach.cqDoorbell_of_ahead hc hb hs hne ha hheld]
  obtain ⟨n, k, hcq⟩ := Dev.reaggregate_cq (s.m.dev.cq_setCq_some q { c with head := h })
  refine ⟨⟨{ c with head := h, unsent := n, aggFrom := k }, ?_, rfl, rfl, rfl, rfl, hb⟩, rfl⟩
  simp only [Dev.settle_cq, Dev.holdResume_cq, Dev.headMoved, Dev.fireInt_cq, hcq]

/-! ### EN of the admin queue -/

section
variable {d : Dev}

/-- The device once EN of the admin queue has been written with 1, before it takes effect. -/
def Dev.enWritten (d : Dev) : Dev := (d.onHost (fun h => { h with admEn := true })).fireInt 10

/-- EN = 1 with bases and sizes that are right sets up the admin queue (R400). -/
theorem Dev.adminEnable_of_legal (hserved : d.queuesServed = true) (hen : d.host.admEn = false) (hrdy : d.host.admRdy = false)
    (hsb : d.host.admSqBase % 4096 = 0) (hcb : d.host.admCqBase % 4096 = 0)
    (hs2 : 2 ≤ fld d.host.admSize 0 13) (hs4 : fld d.host.admSize 0 13 ≤ 4096)
    (hc2 : 2 ≤ fld d.host.admSize 16 13) (hc4 : fld d.host.admSize 16 13 ≤ 4096) :
    d.adminEnable = ((d.enWritten.setSq 0 (some { base := d.host.admSqBase, size := fld d.host.admSize 0 13, cq := 0 })).setCq 0
      (some { base := d.host.admCqBase, size := fld d.host.admSize 16 13 })).onHost (fun h => { h with admRdy := true, admCfgErr := false }) := by
  have hserved' : d.enWritten.queuesServed = true := by
    rw [← hserved]
    simp only [Dev.queuesServed, Dev.enWritten, Dev.fireInt_boot]
    rfl
  have hen' : d.enWritten.host.admEn = true := Dev.fireInt_host_admEn _ 10
  have hrdy' : d.enWritten.host.admRdy = false := (Dev.fireInt_host_admRdy _ 10).trans hrdy
  have hsq : d.enWritten.host.admSqBase = d.host.admSqBase := Dev.fireInt_host_admSqBase _ 10
  have hcq : d.enWritten.host.admCqBase = d.host.admCqBase := Dev.fireInt_host_admCqBase _ 10
  have hsize : d.enWritten.host.admSize = d.host.admSize := Dev.fireInt_host_admSize _ 10
  have hact : d.adminEnable = d.enWritten.adminActivate := by
    rw [Dev.adminEnable, hen, if_neg Bool.false_ne_true]
    rfl
  rw [hact, Dev.adminActivate]
  simp only [hserved', hen', hrdy', hsq, hcq, hsize, hsb, hcb, hs2, hs4, hc2, hc4, and_self, decide_true, Bool.not_true, Bool.or_self,
    Bool.false_eq_true, if_true, if_false]

end

theorem adminEnable_yields {s : State} (hl : s.Live) (hr : s.m.dev.barReachable = true) (hserved : s.m.dev.queuesServed = true)
    (hen : s.m.dev.host.admEn = false) (hrdy : s.m.dev.host.admRdy = false)
    (hsb : s.m.dev.host.admSqBase % 4096 = 0) (hcb : s.m.dev.host.admCqBase % 4096 = 0)
    (hs2 : 2 ≤ fld s.m.dev.host.admSize 0 13) (hs4 : fld s.m.dev.host.admSize 0 13 ≤ 4096)
    (hc2 : 2 ≤ fld s.m.dev.host.admSize 16 13) (hc4 : fld s.m.dev.host.admSize 16 13 ≤ 4096) :
    Yields .adminEnable s [.admin, .sqs, .cqs] (fun t =>
      t.m.dev.host.admEn = true ∧ t.m.dev.host.admRdy = true ∧ t.m.dev.host.admCfgErr = false ∧
      t.m.dev.sq 0 = some { base := s.m.dev.host.admSqBase, size := fld s.m.dev.host.admSize 0 13, cq := 0 } ∧
      t.m.dev.cq 0 = some { base := s.m.dev.host.admCqBase, size := fld s.m.dev.host.admSize 16 13 }) := by
  refine yields_of_liveDev hl rfl (execAdminEnable_framed s) (by decide) ?_
  rw [onlyIf_of_true hr, Dev.adminEnable_of_legal hserved hen hrdy hsb hcb hs2 hs4 hc2 hc4]
  simp only [Dev.settle_host_admEn, Dev.settle_host_admRdy, Dev.settle_host_admCfgErr, Dev.settle_sq, Dev.settle_cq]
  have hset : s.m.dev.enWritten.host.admEn = true := Dev.fireInt_host_admEn _ 10
  refine ⟨hset, rfl, rfl, ?_, ?_⟩
  · rw [Dev.sq_onHost rfl, Dev.sq_setCq, Dev.sq_setSq_some]
  · rw [Dev.cq_onHost rfl, Dev.cq_setCq_some]

/-- The host interface with the admin queue gone: its commands run on without a queue (R401, R418). -/
def Dev.adminGone (d : Dev) : Dev :=
  (((d.onHost (fun h => h.orphan (fun q => decide (q = 0)))).setSq 0 none).setCq 0 none).onHost
    (fun h => { h with admEn := false, admRdy := false, admCfgErr := false })

theorem Dev.adminDisable_of_enabled {d : Dev} (h : d.host.admEn = true) : d.adminDisable = (d.adminGone.fireInt 10).holdResume := by
  rw [Dev.adminDisable, h, Bool.not_true, if_neg Bool.false_ne_true]
  rfl

theorem adminDisable_yields {s : State} (hl : s.Live) (hr : s.m.dev.barReachable = true) (hen : s.m.dev.host.admEn = true) :
    Yields .adminDisable s [.admin, .sqs, .cqs, .commands, .events] (fun t =>
      t.m.dev.host.admEn = false ∧ t.m.dev.host.admRdy = false ∧ t.m.dev.host.admCfgErr = false ∧
      t.m.dev.host.sqs = Tbl.set (fun _ => none) s.m.dev.host.sqs 0 none ∧
      t.m.dev.host.cqs = Tbl.set (fun _ => none) s.m.dev.host.cqs 0 none ∧ t.m.dev.host.aer = [] ∧
      ∀ e ∈ t.m.dev.host.stage, e.sq ≠ 0) := by
  refine yields_of_liveDev hl rfl (execAdminDisable_framed s) (by decide) ?_
  rw [onlyIf_of_true hr, Dev.adminDisable_of_enabled hen]
  have hhost (d : Dev) : ∃ b, d.holdResume.host = { d.host with holdStop := b } := by
    unfold Dev.holdResume
    split
    · exact ⟨false, rfl⟩
    · exact ⟨_, rfl⟩
  obtain ⟨b, hb⟩ := hhost (s.m.dev.adminGone.fireInt 10)
  simp only [Dev.settle_host_admEn, Dev.settle_host_admRdy, Dev.settle_host_admCfgErr, Dev.settle_host_sqs, Dev.settle_host_cqs,
    Dev.settle_host_aer, Dev.settle_host_stage, hb, Dev.fireInt_host_admEn, Dev.fireInt_host_admRdy, Dev.fireInt_host_admCfgErr,
    Dev.fireInt_host_sqs, Dev.fireInt_host_cqs, Dev.fireInt_host_aer, Dev.fireInt_host_stage]
  refine ⟨rfl, rfl, rfl, rfl, rfl, rfl, fun e he => ?_⟩
  have hkept : (!decide (e.sq = 0)) = true := (List.mem_filter.1 he).2
  simpa using hkept

/-- Settles O10: the doorbell moves the head of its queue; EN sets up the admin queue, or takes it away. -/
theorem cqDoorbellAndAdmin : Obligations.CqDoorbellAndAdmin := by
  intro s hl hr
  exact ⟨fun q h c hq hh hc hb hs hne ha hheld => cqHeadDoorbell_yields hl hr hq hh hc hb hs hne ha hheld,
    fun hserved hen hrdy hsb hcb hs2 hs4 hc2 hc4 => adminEnable_yields hl hr hserved hen hrdy hsb hcb hs2 hs4 hc2 hc4,
    fun hen => adminDisable_yields hl hr hen⟩

end Sys2Proof.Machine
end

section
/-! The mailbox commands ECHO and BBX_READ (R393 to R396), fetching an entry (R409 to R412), posting a completion (R413, R402), and
the timeout of aggregation (R398). -/

namespace Sys2Proof.Machine
open Sys2Proof

/-! ### Answers of mailboxes -/

/-- A mailbox that has been answered (R394). -/
def Mailbox.answered (b : Mailbox) (status : Nat) (data : List Byte) : Mailbox :=
  { b with status := status, tagEcho := b.tag, data := padTo 28 data, busy := false, done := true }

section
variable (d : Dev) (i status : Nat) (data : List Byte)

@[simp] theorem Dev.msix_mailbox (v k : Nat) : (d.msix v).mailbox k = d.mailbox k := by
  have h : (d.msix v).host.mbx = d.host.mbx :=
    ((Dev.msix_tame (ps := setOf [.msix, .sent]) (by decide) (.refl _ d) v).same .mailboxes (by decide)).1
  simp only [Dev.mailbox, h]

/-- An answer is in the mailbox, with BUSY and DONE, whether or not a vector goes out (R394). -/
theorem Dev.answer_mailbox (k : Nat) :
    (d.answer i status data).mailbox k = (d.onMbx i (fun b => b.answered status data)).mailbox k := by
  unfold Dev.answer
  dsimp only
  split
  · rw [Dev.msix_mailbox]
    rfl
  · rfl

/-- A mailbox that exists is the one that a change of it leaves. -/
theorem Dev.mailbox_onMbx_same {d : Dev} {i : Nat} (h : i < d.host.mbx.length) (f : Mailbox → Mailbox) :
    (d.onMbx i f).mailbox i = f (d.mailbox i) :=
  (modAt_getD d.host.mbx i i f {} (.inr (.inl h))).trans (if_pos rfl)

theorem Dev.mailbox_onMbx_of_ne {k : Nat} (h : k ≠ i) (f : Mailbox → Mailbox) : (d.onMbx i f).mailbox k = d.mailbox k :=
  (modAt_getD d.host.mbx i k f {} (.inr (.inr h.symm))).trans (if_neg h.symm)

theorem Dev.answer_mailbox_of_ne {k : Nat} (h : k ≠ i) : (d.answer i status data).mailbox k = d.mailbox k := by
  rw [Dev.answer_mailbox, Dev.mailbox_onMbx_of_ne d i h]

/-- A mailbox that waits for an answer is one of the device's. -/
theorem Dev.lt_mbx_of_waits {d : Dev} {i code : Nat} (h : d.mbxWaits i code = true) : i < d.host.mbx.length := by
  by_contra hge
  have hnone : d.mailbox i = {} := List.getD_eq_default _ _ (by omega)
  simp [Dev.mbxWaits, hnone] at h

theorem Dev.answer_mailbox_same {d : Dev} {i code : Nat} (h : d.mbxWaits i code = true) (status : Nat) (data : List Byte) :
    (d.answer i status data).mailbox i = (d.mailbox i).answered status data := by
  rw [Dev.answer_mailbox, Dev.mailbox_onMbx_same (Dev.lt_mbx_of_waits h)]

end

theorem echo_yields {s : State} {i : Nat} (hl : s.Live) (hi : i < 4) (hw : s.m.dev.mbxWaits i 0x20 = true) :
    Yields (.echo i) s [.mailboxes] (fun t =>
      (t.m.dev.mailbox i).status = 0 ∧ (t.m.dev.mailbox i).data = padTo 28 (s.m.dev.mailbox i).args ∧
      (t.m.dev.mailbox i).tagEcho = (s.m.dev.mailbox i).tag ∧ (t.m.dev.mailbox i).busy = false ∧ (t.m.dev.mailbox i).done = true ∧
      ∀ k, k ≠ i → t.m.dev.mailbox k = s.m.dev.mailbox k) := by
  refine yields_of_liveDev hl rfl (execEcho_framed i s) (by decide) ?_
  rw [onlyIf_of_true (by simp only [hi, hw, decide_true, Bool.and_self])]
  simp only [Dev.settle_mailbox, Dev.answer_mailbox_same hw]
  exact ⟨rfl, rfl, rfl, rfl, rfl, fun k hk => Dev.answer_mailbox_of_ne _ _ _ _ hk⟩

theorem bbxRead_yields {s : State} {first count addr : Nat} (hl : s.Live) (hw : s.m.dev.mbxWaits 1 0x10 = true)
    (hf : rd (s.m.dev.mailbox 1).args 0 4 = first) (hc : rd (s.m.dev.mailbox 1).args 4 4 = count) (ha : rd (s.m.dev.mailbox 1).args 8 8 = addr)
    (hpos : 0 < count) (hmax : count ≤ 4096) (hfits : first + count ≤ 131072) (halign : addr % 64 = 0) (hok : hostOk addr (64 * count) = true) :
    Yields .bbxRead s [.mailboxes, .hostMem] (fun t =>
      t.m.mem = s.m.mem.hostWrite addr (s.m.mem.entries first count) ∧ (t.m.dev.mailbox 1).status = 0 ∧
      (t.m.dev.mailbox 1).busy = false ∧ (t.m.dev.mailbox 1).done = true) := by
  refine yields_of_live hl rfl (execBbxRead_framed s) (by decide) ?_
  have hlegal : ¬ (count = 0 ∨ 4096 < count ∨ 131072 < first + count ∨ addr % 64 ≠ 0 ∨ (!hostOk addr (64 * count)) = true) := by
    rw [hok]
    simp only [Bool.not_true, Bool.false_eq_true, or_false]
    omega
  rw [onlyIf_of_true hw]
  simp only [hf, hc, ha, if_neg hlegal, Dev.settle_mailbox, Dev.answer_mailbox_same hw]
  exact ⟨trivial, rfl, rfl, rfl⟩

/-! ### Fetching (R409 to R412) -/

/-- A command as it was when it was fetched. -/
def Cmd.unphased (k : Cmd) : Cmd := { k with phase := .fetched }

/-- The commands in flight, whether they have started or not. -/
def Dev.fetched (d : Dev) : List Cmd := d.host.cmds.map Cmd.unphased

/-- Changing one element of a list keeps the images that the change keeps. -/
theorem map_modifyFirst {α β : Type} {p : α → Bool} {f : α → α} {g : α → β} (h : ∀ x, g (f x) = g x) (l : List α) :
    (modifyFirst p f l).map g = l.map g := by
  induction l with
  | nil => rfl
  | cons x r ih =>
    rw [modifyFirst]
    split
    · rw [List.map_cons, List.map_cons, h]
    · rw [List.map_cons, List.map_cons, ih]

theorem Dev.modCmd_phase_fetched (d : Dev) (sq cid : Nat) (p : CmdPhase) :
    (d.modCmd sq cid (fun c => { c with phase := p })).fetched = d.fetched := by
  unfold Dev.fetched Dev.modCmd
  refine map_modifyFirst ?_ d.host.cmds
  exact fun _ => rfl

theorem Dev.complete_fetched (d : Dev) (sq cid status result : Nat) (e : ErrInfo) :
    (d.complete sq cid status result e).fetched = d.fetched := by
  unfold Dev.complete
  split
  · rfl
  · dsimp only
    split <;> exact d.modCmd_phase_fetched sq cid .completing

/-- Starting what may start of a queue changes phases alone (R411). -/
theorem Dev.startList_fetched (sq : Nat) (l : List Cmd) :
    ∀ (d : Dev) (before : Bool), (d.startList sq before l).fetched = d.fetched := by
  induction l with
  | nil => exact fun _ _ => rfl
  | cons c r ih =>
    intro d before
    have hstart := d.modCmd_phase_fetched sq c.cid .started
    rw [Dev.startList]
    split
    · exact ih d before
    · split
      · split
        · rfl
        · dsimp only
          split
          · rw [ih, Dev.complete_fetched, hstart]
          · rw [ih, hstart]
      · exact ih d true

theorem Dev.startReady_fetched (d : Dev) (sq : Nat) : (d.startReady sq).fetched = d.fetched := Dev.startList_fetched sq _ d false

theorem Dev.startReady_sq (d : Dev) (k q : Nat) : (d.startReady k).sq q = d.sq q := by
  have h : (d.startReady k).host.sqs = d.host.sqs :=
    (Dev.startReady_tame (ps := setOf [.seq, .commands, .errorLog]) (by decide) (.refl _ d) k).same .sqs (by decide)
  simp only [Dev.sq, h]

/-- The device with the next entry of a queue, this command, fetched. -/
def Dev.withFetched (d : Dev) (q : Nat) (x : Sq) (c : Cmd) : Dev :=
  ((d.setSq q (some { x with head := (x.head + 1) % x.size })).onHost (fun h => { h with cmds := h.cmds ++ [c] })).startReady q

/-- An entry whose CID no command of its queue has joins the commands in flight. -/
theorem Mach.fetch_of_new {m : Mach} {q : Nat} {x : Sq} {c : Cmd} (hc : c = parseEntry q (m.mem.hostRead (x.base + 64 * x.head) 64))
    (hnew : ∀ k ∈ m.dev.host.cmds, k.sq = q → k.cid ≠ c.cid) : m.fetch q x = { m with dev := m.dev.withFetched q x c } := by
  have hdup : m.dev.host.cmds.any (fun k => decide (k.sq = q) && decide (k.cid = c.cid)) = false :=
    List.any_eq_false.2 (fun k hk => by simpa using hnew k hk)
  subst hc
  exact if_neg (by rw [show ∀ v, (m.dev.setSq q v).host.cmds = m.dev.host.cmds from fun _ => rfl, hdup]; decide)

theorem Dev.withFetched_sq (d : Dev) (q : Nat) (x : Sq) (c : Cmd) :
    (d.withFetched q x c).sq q = some { x with head := (x.head + 1) % x.size } := by
  rw [Dev.withFetched, Dev.startReady_sq]
  exact d.sq_setSq_some q _

theorem Dev.withFetched_fetched (d : Dev) (q : Nat) (x : Sq) (c : Cmd) :
    (d.withFetched q x c).fetched = (d.host.cmds ++ [c]).map Cmd.unphased := by
  rw [Dev.withFetched, Dev.startReady_fetched]
  rfl

/-- The queue that SQ_FETCH serves. -/
def Dev.fetchQueue (d : Dev) (admin : Bool) : Option Nat := if admin then (if d.fetchable 0 then some 0 else none) else d.nextIo

/-- The device once its turns of service note the queue, which the admin queue is not part of. -/
def Dev.turned (d : Dev) (admin : Bool) (q : Nat) (x : Sq) : Dev := if admin then d else d.served q x

theorem Mach.sqFetch_of_queue {m : Mach} {admin : Bool} {q : Nat} {x : Sq} (hserved : m.dev.queuesServed = true)
    (hroom : m.dev.inFlight admin < (if admin then 64 else 1024)) (hq : m.dev.fetchQueue admin = some q) (hx : m.dev.sq q = some x) :
    m.sqFetch admin = { m with dev := m.dev.turned admin q x }.fetch q x := by
  rw [Dev.fetchQueue] at hq
  rw [Mach.sqFetch]
  simp only [hserved, hroom, decide_true, Bool.and_self, if_true, hq, hx]
  cases admin <;> rfl

theorem sqFetch_yields {s : State} {admin : Bool} {q : Nat} {x : Sq} {c : Cmd} (hl : s.Live) (hserved : s.m.dev.queuesServed = true)
    (hroom : s.m.dev.inFlight admin < (if admin then 64 else 1024)) (hq : s.m.dev.fetchQueue admin = some q) (hx : s.m.dev.sq q = some x)
    (hc : c = parseEntry q (s.m.mem.hostRead (x.base + 64 * x.head) 64)) (hnew : ∀ k ∈ s.m.dev.host.cmds, k.sq = q → k.cid ≠ c.cid) :
    Yields (.sqFetch admin) s [.sqs, .turns, .commands, .errorLog, .seq] (fun t =>
      t.m.dev.sq q = some { x with head := (x.head + 1) % x.size } ∧
      t.m.dev.host.cmds.map (fun k => { k with phase := .fetched }) =
        (s.m.dev.host.cmds ++ [c]).map (fun k => { k with phase := .fetched })) := by
  refine yields_of_live (f := fun m => m.sqFetch admin) hl rfl (execSqFetch_framed admin s) (by decide) ?_
  have hcmds : (s.m.dev.turned admin q x).host.cmds = s.m.dev.host.cmds := by cases admin <;> rfl
  have hfetch := Mach.fetch_of_new (m := { s.m with dev := s.m.dev.turned admin q x }) hc (by simpa only [hcmds] using hnew)
  rw [Mach.sqFetch_of_queue hserved hroom hq hx, hfetch]
  refine ⟨?_, ?_⟩
  · simp only [Dev.settle_sq, Dev.withFetched_sq]
  · rw [Dev.settle_host_cmds]
    exact (Dev.withFetched_fetched (s.m.dev.turned admin q x) q x c).trans (by rw [hcmds]; rfl)

/-! ### Posting (R413, R402) -/

section
variable (d : Dev) (q : Nat)

theorem Dev.retire_cq (sq cid : Nat) : (d.retire sq cid).cq q = d.cq q := by
  have h : (d.retire sq cid).host.cqs = d.host.cqs :=
    (Dev.retire_tame (ps := setOf [.seq, .commands, .errorLog]) (by decide) (.refl _ d) sq cid).same .cqs (by decide)
  simp only [Dev.cq, h]

theorem Dev.endDelete_cq (sq : Nat) : (d.endDelete sq).cq q = d.cq q := by
  have h : (d.endDelete sq).host.cqs = d.host.cqs :=
    (Dev.endDelete_tame (ps := setOf [.seq, .sqs, .commands, .errorLog]) (by decide) (.refl _ d) sq).same .cqs (by decide)
  simp only [Dev.cq, h]

/-- The entry posted to a queue is counted there, and no more (R398). -/
theorem Dev.cqPosted_cq (c : Cq) : ∃ n k, (d.cqPosted q c).cq q = some { c with unsent := n, aggFrom := k } := by
  unfold Dev.cqPosted
  split
  · exact ⟨_, c.aggFrom, d.cq_setCq_some q _⟩
  · split
    · exact ⟨0, c.aggFrom, by rw [Dev.msix_cq, Dev.cq_setCq_some]⟩
    · exact ⟨_, _, d.cq_setCq_some q _⟩

end

/-- A queue with one more entry posted to it (R402). -/
def Cq.posted (c : Cq) : Cq := { c with tail := (c.tail + 1) % c.size, phase := if (c.tail + 1) % c.size = 0 then !c.phase else c.phase }

/-- The machine with a completion off its stage. -/
def Mach.unstaged (m : Mach) (e : Compl) : Mach := { m with dev := m.dev.onHost (fun h => { h with stage := h.stage.erase e }) }

theorem Mach.postCompletion_of_room {m : Mach} {e : Compl} {c : Cq} (he : m.dev.host.stage.find? (fun e => m.dev.canPost e) = some e)
    (hc : m.dev.cq e.cq = some c) (hb : c.bad = false) (hf : c.full = false) (hh : m.dev.hasHeld e.cq = false) :
    m.postCompletion = { (m.unstaged e).writeCqe c e false with
      dev := ((((m.unstaged e).writeCqe c e false).dev.retire e.sq e.cid).endDelete e.sq) } := by
  have hc' : (m.unstaged e).dev.cq e.cq = some c := hc
  have hh' : (m.unstaged e).dev.hasHeld e.cq = false := hh
  rw [Mach.unstaged] at hc' hh' ⊢
  unfold Mach.postCompletion
  rw [he]
  simp only [hc', hb, hf, hh', Bool.not_false, Bool.and_self, Bool.false_eq_true, if_true, if_false]

theorem completionPost_yields {s : State} {e : Compl} {c : Cq} (hl : s.Live)
    (he : s.m.dev.host.stage.find? (fun e => s.m.dev.canPost e) = some e)
    (hc : s.m.dev.cq e.cq = some c) (hb : c.bad = false) (hf : c.full = false) (hh : s.m.dev.hasHeld e.cq = false) :
    Yields .completionPost s [.sqs, .cqs, .commands, .errorLog, .events, .bbx, .seq, .hostMem] (fun t =>
      (∃ c', t.m.dev.cq e.cq = some c' ∧ c'.tail = (c.tail + 1) % c.size ∧ c'.head = c.head ∧
        c'.phase = (if (c.tail + 1) % c.size = 0 then !c.phase else c.phase)) ∧
      t.m.mem = s.m.mem.hostWrite (c.base + 16 * c.tail) (cqEntry e.result s.m.dev.stamp32 e.cid
        (match s.m.dev.sq e.sq with
          | some x => x.head
          | none => 0) e.status e.detail e.retry false c.phase e.sq)) := by
  refine yields_of_live hl rfl (execCompletionPost_framed s) (by decide) ?_
  rw [Mach.postCompletion_of_room he hc hb hf hh]
  obtain ⟨n, k, hcq⟩ := (s.m.unstaged e).dev.cqPosted_cq e.cq c.posted
  refine ⟨⟨{ c.posted with unsent := n, aggFrom := k }, ?_, rfl, rfl, rfl⟩, rfl⟩
  simp only [Dev.settle_cq, Dev.endDelete_cq, Dev.retire_cq]
  exact hcq

/-! ### Aggregation (R398) -/

theorem cqAggTimeout_yields {s : State} {q : Nat} {c : Cq} (hl : s.Live) (hc : s.m.dev.cq q = some c) (hi : c.ien = true) (hu : 0 < c.unsent) :
    Yields (.cqAggTimeout q) s [.clk, .sid, .cqs] (fun t =>
      t.m.dev.cq q = some { c with unsent := 0 } ∧ t.m.dev.clk = max s.m.dev.clk (c.aggFrom + 1000 * c.aggTime)) := by
  refine yields_of_liveDev (f := fun d => d.aggTimeout q) hl rfl (execCqAggTimeout_framed q s) (by decide) ?_
  have hmsix (d : Dev) (v : Nat) : (d.msix v).clk = d.clk :=
    (Dev.msix_tame (ps := setOf [.msix, .sent]) (by decide) (.refl _ d) v).clk_eq (by decide)
  have hout : s.m.dev.aggTimeout q =
      (((s.m.dev.advanceTo (c.aggFrom + 1000 * c.aggTime)).setCq q (some { c with unsent := 0 })).msix c.vector) := by
    unfold Dev.aggTimeout
    rw [hc]
    simp only [hi, hu, decide_true, Bool.and_self, if_true]
  simp only [hout, Dev.settle_cq, Dev.settle_clk, Dev.msix_cq, Dev.cq_setCq_some, hmsix, true_and]
  exact (Dev.advanceTo_tick_clk s.m.dev _).2

/-- Settles O12: an answer is in its mailbox; a fetched entry joins the commands in flight; a posted completion is the entry at the
tail of its queue; the timeout of aggregation signals what waited. -/
theorem mailboxesAndQueues : Obligations.MailboxesAndQueues := by
  refine ⟨fun s hl => ⟨fun i hi hw => echo_yields hl hi hw, fun hw first count addr hf hc ha hpos hmax hfits halign hok =>
    bbxRead_yields hl hw hf hc ha hpos hmax hfits halign hok⟩, fun s hl => ⟨fun admin q x c hserved hroom hq hx hc hnew =>
    sqFetch_yields hl hserved hroom hq hx hc hnew, fun e c he hc hb hf hh => completionPost_yields hl he hc hb hf hh,
    fun q c hc hi hu => cqAggTimeout_yields hl hc hi hu⟩⟩

end Sys2Proof.Machine
end

section
/-! The queue commands (R414 to R417, R423, R424). -/

namespace Sys2Proof.Machine
open Sys2Proof

/-- A queue command whose meaning leaves it running goes on. -/
theorem yields_of_goesOn {i : Instr} {s : State} {sq cid op : Nat} {c k : Cmd} {f : Cmd → Mach → Mach} {ps : List Part}
    {P : State → Prop} {dp mp : Nat} {m : Mach} (hr : s.Runs sq cid op c)
    (he : exec i s = live (runCmd sq cid op f) s) (hf : Framed dp mp s (exec i s))
    (hs : (dp ||| mp) ||| setOf (ps ++ settled) = setOf (ps ++ settled)) (hm : f c s.m = m)
    (hk : m.dev.cmd sq cid = some k) (hp : k.phase = .running) (hP : P (s.settledAt m)) :
    Yields i s ps (fun t => t.GoesOn sq cid ∧ P t) := by
  refine yields_of_run hr he hf hs (fun _ _ => ?_)
  rw [hm]
  exact ⟨⟨k, (Dev.settle_cmd ..).trans hk, hp⟩, hP⟩

section
variable (m : Mach) (c : Cmd) (status result : Nat) (e : ErrInfo)

@[simp] theorem Mach.complete_sqs : (m.complete c status result e).dev.host.sqs = m.dev.host.sqs :=
  (m.complete_tame c status result e).same .sqs (by decide)

@[simp] theorem Mach.complete_cqs : (m.complete c status result e).dev.host.cqs = m.dev.host.cqs :=
  (m.complete_tame c status result e).same .cqs (by decide)

@[simp] theorem Mach.complete_sq (q : Nat) : (m.complete c status result e).dev.sq q = m.dev.sq q := by
  simp only [Dev.sq, Mach.complete_sqs]

@[simp] theorem Mach.complete_cq (q : Nat) : (m.complete c status result e).dev.cq q = m.dev.cq q := by
  simp only [Dev.cq, Mach.complete_cqs]

@[simp] theorem Mach.complete_held : (m.complete c status result e).dev.host.held = m.dev.host.held := by
  rw [Mach.complete, Dev.complete]
  split
  · rfl
  · dsimp only
    split <;> rfl

end

section
variable {s : State} {sq cid : Nat} {c : Cmd}

/-! ### Queues made (R414, R415, R447) -/

/-- The completion queue that CREATE_CQ makes. -/
def Cmd.newCq (c : Cmd) : Cq where
  base := c.dataAddr
  size := c.dw 0 % 2 ^ 17
  ien := bit (c.dw 1) 8
  vector := bits (c.dw 1) 0 6
  aggTime := bits (c.dw 2) 8 8
  aggCount := bits (c.dw 2) 0 8

/-- The submission queue that CREATE_SQ makes. -/
def Cmd.newSq (c : Cmd) : Sq where
  base := c.dataAddr
  size := c.dw 0 % 2 ^ 17
  high := bit (c.dw 1) 12
  burst := bits (c.dw 1) 8 4
  cq := bits (c.dw 1) 0 8

/-- A ring that a queue command may name: in one piece, aligned, of a legal size. -/
structure Cmd.RingOk (c : Cmd) (entry : Nat) : Prop where
  kind : c.dataKind = 1
  aligned : c.dataAddr % 4096 = 0
  two : 2 ≤ c.dw 0 % 2 ^ 17
  max : c.dw 0 % 2 ^ 17 ≤ 65536
  len : c.dataLen = entry * (c.dw 0 % 2 ^ 17)

theorem Mach.createCq_of_legal {m : Mach} (hpos : 0 < c.target) (hmax : c.target ≤ 255) (hnew : m.dev.cq c.target = none) (hring : c.RingOk 16)
    (hv0 : bits (c.dw 1) 0 6 ≠ 0) (hv63 : bits (c.dw 1) 0 6 ≠ 63) :
    m.createCq c = Mach.complete { m with dev := m.dev.setCq c.target (some c.newCq) } c Status.ok := by
  obtain ⟨hkind, halign, h2, hsize, hlen⟩ := hring
  unfold Mach.createCq
  rw [hnew]
  simp only [Option.isSome_none, Bool.false_eq_true, or_false]
  rw [if_neg (by omega), if_neg (not_not_intro hkind), if_neg (not_not_intro halign), if_neg (by omega), if_neg (not_not_intro hlen),
    if_neg (not_or.2 ⟨hv0, hv63⟩)]
  rfl

theorem createCq_yields (hr : s.Runs sq cid 0x02 c) (hpos : 0 < c.target) (hmax : c.target ≤ 255) (hnew : s.m.dev.cq c.target = none)
    (hring : c.RingOk 16) (hv0 : bits (c.dw 1) 0 6 ≠ 0) (hv63 : bits (c.dw 1) 0 6 ≠ 63) :
    Yields (.createCq sq cid) s [.cqs, .commands, .errorLog, .seq] (fun t => t.Ends sq cid Status.ok 0 ∧
      ∃ q, t.m.dev.cq c.target = some q ∧ q.base = c.dataAddr ∧ q.size = c.dw 0 % 2 ^ 17 ∧ q.head = 0 ∧ q.tail = 0 ∧
        q.phase = true ∧ q.vector = bits (c.dw 1) 0 6 ∧ q.ien = bit (c.dw 1) 8 ∧ q.aggTime = bits (c.dw 2) 8 8 ∧
        q.aggCount = bits (c.dw 2) 0 8) := by
  refine yields_of_completion hr rfl (execCreateCq_framed sq cid s) (by decide) (result := 0) (e := {})
    (Mach.createCq_of_legal hpos hmax hnew hring hv0 hv63) (hr.cmd_of_cmds rfl) ?_
  refine ⟨c.newCq, ?_, rfl, rfl, rfl, rfl, rfl, rfl, rfl, rfl, rfl⟩
  simp only [State.settledAt, Dev.settle_cq, Mach.complete_cq, Dev.cq_setCq_some]

theorem Mach.createSq_of_legal {m : Mach} {q : Cq} (hpos : 0 < c.target) (hmax : c.target ≤ 255) (hnew : m.dev.sq c.target = none)
    (hcq0 : bits (c.dw 1) 0 8 ≠ 0) (hcq : m.dev.cq (bits (c.dw 1) 0 8) = some q) (hq : q.ring = none) (hring : c.RingOk 64)
    (hb0 : 0 < bits (c.dw 1) 8 4) (hb8 : bits (c.dw 1) 8 4 ≤ 8) :
    m.createSq c = Mach.complete { m with dev := m.dev.setSq c.target (some c.newSq) } c Status.ok := by
  obtain ⟨hkind, halign, h2, hsize, hlen⟩ := hring
  unfold Mach.createSq
  rw [hnew]
  simp only [hcq, hq, hcq0, Option.isSome_none, Option.isNone_none, Bool.false_eq_true, or_false, ne_eq, not_false_eq_true, decide_true,
    Bool.and_self, Bool.not_true, if_false]
  rw [if_neg (by omega), if_neg (not_not_intro hkind), if_neg (not_not_intro halign), if_neg (by omega), if_neg (not_not_intro hlen),
    if_neg (by omega)]
  rfl

theorem createSq_yields {q : Cq} (hr : s.Runs sq cid 0x01 c) (hpos : 0 < c.target) (hmax : c.target ≤ 255) (hnew : s.m.dev.sq c.target = none)
    (hcq0 : bits (c.dw 1) 0 8 ≠ 0) (hcq : s.m.dev.cq (bits (c.dw 1) 0 8) = some q) (hq : q.ring = none) (hring : c.RingOk 64)
    (hb0 : 0 < bits (c.dw 1) 8 4) (hb8 : bits (c.dw 1) 8 4 ≤ 8) :
    Yields (.createSq sq cid) s [.sqs, .commands, .errorLog, .seq] (fun t => t.Ends sq cid Status.ok 0 ∧ t.m.dev.sq c.target = some c.newSq) := by
  refine yields_of_completion hr rfl (execCreateSq_framed sq cid s) (by decide) (result := 0) (e := {})
    (Mach.createSq_of_legal hpos hmax hnew hcq0 hcq hq hring hb0 hb8) (hr.cmd_of_cmds rfl) ?_
  simp only [State.settledAt, Dev.settle_sq, Mach.complete_sq, Dev.sq_setSq_some]

/-! ### Queues deleted (R416, R417) -/

/-- The device without a completion queue and without what was held for it. -/
def Dev.cqGone (d : Dev) (q : Nat) : Dev :=
  ((d.setCq q none).onHost (fun h => { h with held := h.held.filter (fun e => decide (e.cq ≠ q)) })).holdResume

theorem Dev.holdResume_host (d : Dev) : ∃ b, d.holdResume.host = { d.host with holdStop := b } := by
  unfold Dev.holdResume
  split
  · exact ⟨false, rfl⟩
  · exact ⟨_, rfl⟩

theorem Mach.deleteCq_of_unbound {m : Mach} {q : Cq} (h0 : c.target ≠ 0) (hcq : m.dev.cq c.target = some q) (hq : q.ring = none)
    (hfree : ∀ e ∈ m.dev.host.sqs, ∀ x, e.2 = some x → x.cq ≠ c.target) :
    m.deleteCq c = Mach.complete { m with dev := m.dev.cqGone c.target } c Status.ok := by
  unfold Mach.deleteCq
  rw [hcq]
  refine if_neg ?_
  rintro (h | h | h)
  · exact h0 h
  · rw [hq] at h
    exact Bool.false_ne_true h
  · obtain ⟨e, he, hbound⟩ := List.any_eq_true.1 h
    split at hbound
    next x hx => exact hfree e he x hx (of_decide_eq_true hbound)
    next => exact Bool.false_ne_true hbound

theorem deleteCq_yields {q : Cq} (hr : s.Runs sq cid 0x04 c) (h0 : c.target ≠ 0) (hcq : s.m.dev.cq c.target = some q) (hq : q.ring = none)
    (hfree : ∀ e ∈ s.m.dev.host.sqs, ∀ x, e.2 = some x → x.cq ≠ c.target) :
    Yields (.deleteCq sq cid) s [.cqs, .commands, .errorLog, .seq] (fun t => t.Ends sq cid Status.ok 0 ∧
      t.m.dev.host.cqs = Tbl.set (fun _ => none) s.m.dev.host.cqs c.target none ∧ ∀ e ∈ t.m.dev.host.held, e.cq ≠ c.target) := by
  obtain ⟨b, hb⟩ := ((s.m.dev.setCq c.target none).onHost
    (fun h => { h with held := h.held.filter (fun e => decide (e.cq ≠ c.target)) })).holdResume_host
  refine yields_of_completion hr rfl (execDeleteCq_framed sq cid s) (by decide) (result := 0) (e := {})
    (Mach.deleteCq_of_unbound h0 hcq hq hfree) (hr.cmd_of_cmds ((congrArg HostIf.cmds hb).trans rfl)) ?_
  simp only [State.settledAt, Dev.settle_host_cqs, Dev.settle_host_held, Mach.complete_cqs, Mach.complete_held, Dev.cqGone, hb]
  exact ⟨rfl, fun e he => of_decide_eq_true (List.mem_filter.1 he).2⟩

/-- A queue whose commands have all gone has none to abort. -/
theorem Dev.abortFetched_of_none {q : Nat} {l : List Cmd} (h : ∀ k ∈ l, k.sq ≠ q) (d : Dev) : d.abortFetched q l = d := by
  induction l with
  | nil => rfl
  | cons k r ih =>
    rw [Dev.abortFetched, if_neg (fun hk => h k List.mem_cons_self hk.1)]
    exact ih (fun k hk => h k (List.mem_cons_of_mem _ hk))

/-- The commands of a changed list are commands of it before, or the first that the change is for. -/
theorem mem_modifyFirst_cases {α : Type} {p : α → Bool} {f : α → α} {l : List α} {y : α} (h : y ∈ modifyFirst p f l) :
    y ∈ l ∨ (l.find? p).map f = some y := by
  induction l with
  | nil => exact .inl h
  | cons x r ih =>
    rw [modifyFirst] at h
    split at h
    next hx =>
      rcases List.mem_cons.1 h with rfl | hr
      · exact .inr (by rw [List.find?_cons_of_pos hx, Option.map_some])
      · exact .inl (List.mem_cons_of_mem _ hr)
    next hx =>
      rcases List.mem_cons.1 h with rfl | hr
      · exact .inl List.mem_cons_self
      · rcases ih hr with hmem | hfind
        · exact .inl (List.mem_cons_of_mem _ hmem)
        · exact .inr (by rw [List.find?_cons_of_neg hx, hfind])

/-- A command that is set running is the one that it names, or was in flight before. -/
theorem Dev.mem_keepRunning {d : Dev} {k y : Cmd} (hk : d.cmd k.sq k.cid = some k) (h : y ∈ (d.keepRunning k).host.cmds) :
    y ∈ d.host.cmds ∨ y = { k with phase := .running } := by
  rcases mem_modifyFirst_cases h with hmem | hfind
  · exact .inl hmem
  · refine .inr (Option.some.inj ?_)
    exact hfind.symm.trans (congrArg (Option.map (fun x : Cmd => { x with phase := .running })) hk)

/-- The device while a queue is being deleted by this command. -/
def Dev.deleting (d : Dev) (x : Sq) (c : Cmd) : Dev := (d.setSq c.target (some { x with deleting := true })).keepRunning c

section
variable {m : Mach} {x : Sq} (hcmd : m.dev.cmd c.sq c.cid = some c)
include hcmd

theorem Dev.deleting_free (hown : c.target ≠ c.sq) (hfree : ∀ k ∈ m.dev.host.cmds, k.sq ≠ c.target) :
    (m.dev.deleting x c).host.cmds.any (fun k => decide (k.sq = c.target)) = false := by
  refine List.any_eq_false.2 (fun k hk => ?_)
  rcases Dev.mem_keepRunning (d := m.dev.setSq c.target (some { x with deleting := true })) hcmd hk with hmem | rfl
  · simpa using hfree k hmem
  · simpa using hown.symm

variable (hop : c.opcode = 0x03) (halone : ∀ k ∈ m.dev.host.cmds, k.opcode = 0x03 → k.phase ≠ .running)
include hop halone

/-- The one deletion that runs is this command's. -/
theorem Dev.deleting_command : (m.dev.deleting x c).host.cmds.find? (fun k => decide (k.opcode = 0x03 ∧ k.target = c.target ∧ k.phase = .running)) =
    some { c with phase := .running } := by
  have hrun : (m.dev.deleting x c).cmd c.sq c.cid = some { c with phase := .running } :=
    Dev.cmd_keepRunning (d := m.dev.setSq c.target (some { x with deleting := true })) hcmd
  cases hfind : (m.dev.deleting x c).host.cmds.find? (fun k => decide (k.opcode = 0x03 ∧ k.target = c.target ∧ k.phase = .running)) with
  | none => exact absurd (List.find?_eq_none.1 hfind _ (List.mem_of_find?_eq_some hrun)) (by simp [hop])
  | some k =>
    have hk := List.find?_some hfind
    obtain ⟨hk3, -, hkrun⟩ := of_decide_eq_true hk
    rcases Dev.mem_keepRunning (d := m.dev.setSq c.target (some { x with deleting := true })) hcmd (List.mem_of_find?_eq_some hfind) with hmem | rfl
    · exact absurd hkrun (halone k hmem hk3)
    · rfl

theorem Mach.deleteSq_of_empty (hown : c.target ≠ c.sq) (hfree : ∀ k ∈ m.dev.host.cmds, k.sq ≠ c.target) (h0 : c.target ≠ 0) (hx : m.dev.sq c.target = some x) (hdel : x.deleting = false) :
    m.deleteSq c = Mach.complete { m with dev := (m.dev.deleting x c).setSq c.target none } c Status.ok := by
  have habort : (m.dev.setSq c.target (some { x with deleting := true })).abortFetched c.target m.dev.host.cmds =
      m.dev.setSq c.target (some { x with deleting := true }) := Dev.abortFetched_of_none hfree _
  have hsq : (m.dev.deleting x c).sq c.target = some { x with deleting := true } := Dev.sq_setSq_some ..
  have hfind : ((m.dev.deleting x c).setSq c.target none).host.cmds.find?
      (fun k => decide (k.opcode = 0x03 ∧ k.target = c.target ∧ k.phase = .running)) = some { c with phase := .running } :=
    Dev.deleting_command hcmd hop halone
  unfold Mach.deleteSq
  rw [hx]
  simp only [h0, hdel, habort, Bool.false_eq_true, or_self, if_false]
  rw [← Dev.deleting, Dev.endDelete, hsq]
  simp only [Dev.deleting_free hcmd hown hfree, Bool.not_false, Bool.and_self, if_true, hfind]
  rfl

end

theorem deleteSq_yields {x : Sq} (hr : s.Runs sq cid 0x03 c) (h0 : c.target ≠ 0) (hown : c.target ≠ sq) (hx : s.m.dev.sq c.target = some x)
    (hdel : x.deleting = false) (hfree : ∀ k ∈ s.m.dev.host.cmds, k.sq ≠ c.target)
    (halone : ∀ k ∈ s.m.dev.host.cmds, k.opcode = 0x03 → k.phase ≠ .running) :
    Yields (.deleteSq sq cid) s [.sqs, .commands, .errorLog, .seq] (fun t => t.Ends sq cid Status.ok 0 ∧
      t.m.dev.host.sqs = ((s.m.dev.setSq c.target (some { x with deleting := true })).setSq c.target none).host.sqs) := by
  obtain ⟨-, hcmd, -, hop⟩ := id hr
  obtain ⟨rfl, rfl, -⟩ := Dev.cmd_key hcmd
  refine yields_of_completion hr rfl (execDeleteSq_framed _ _ s) (by decide) (result := 0) (e := {})
    (Mach.deleteSq_of_empty hcmd hop halone hown hfree h0 hx hdel)
    (Dev.cmd_keepRunning (d := s.m.dev.setSq c.target (some { x with deleting := true })) hcmd) ?_
  simp only [State.settledAt, Dev.settle_host_sqs, Mach.complete_sqs]
  rfl

/-! ### Requests for events (R423, R424) -/

theorem asyncEventRequest_yields (hr : s.Runs sq cid 0x08 c) (hroom : s.m.dev.host.aer.length < 16) (hnone : s.m.dev.host.events = []) :
    Yields (.asyncEventRequest sq cid) s [.events, .commands, .errorLog, .seq] (fun t => t.GoesOn sq cid ∧
      t.m.dev.host.aer = s.m.dev.host.aer ++ [c.cid]) := by
  obtain ⟨-, hcmd, -⟩ := id hr
  obtain ⟨rfl, rfl, -⟩ := Dev.cmd_key hcmd
  have hwaits : s.m.dev.asyncRequest c = (s.m.dev.keepRunning c).onHost (fun h => { h with aer := h.aer ++ [c.cid] }) := by
    unfold Dev.asyncRequest
    rw [if_neg (by omega), hnone]
  refine yields_of_goesOn hr rfl (execAsyncEventRequest_framed _ _ s) (by decide) (congrArg (fun d => { s.m with dev := d }) hwaits)
    (Dev.cmd_keepRunning hcmd) rfl ?_
  simp only [State.settledAt, Dev.settle_host_aer]
  rfl

end

/-- Settles O13: each command of a queue that is legal makes the queue, takes it away, or waits for an event. -/
theorem queueCommands : Obligations.QueueCommands := by
  intro s sq cid c
  exact ⟨fun hr hpos hmax hnew hkind halign h2 hsize hlen hv0 hv63 =>
      createCq_yields hr hpos hmax hnew ⟨hkind, halign, h2, hsize, hlen⟩ hv0 hv63,
    fun hr hpos hmax hnew hcq0 ⟨_, hcq, hq⟩ hkind halign h2 hsize hlen hb0 hb8 =>
      createSq_yields hr hpos hmax hnew hcq0 hcq hq ⟨hkind, halign, h2, hsize, hlen⟩ hb0 hb8,
    fun hr h0 ⟨_, hcq, hq⟩ hfree => deleteCq_yields hr h0 hcq hq hfree,
    fun x hr h0 hown hx hdel hfree halone => deleteSq_yields hr h0 hown hx hdel hfree halone,
    fun hr hroom hnone => asyncEventRequest_yields hr hroom hnone⟩

end Sys2Proof.Machine
end

section
/-! POWER_SET (R439, R481 to R486), the end of quiescing and its timeout (R484, R485). -/

namespace Sys2Proof.Machine
open Sys2Proof

/-! ### POWER_SET -/

/-- Which domains are on, as a completion leaves them. -/
@[simp] theorem Mach.complete_power (m : Mach) (c : Cmd) (status result : Nat) (e : ErrInfo) :
    (m.complete c status result e).dev.power = m.dev.power :=
  (m.complete_tame c status result e).same .power (by decide)

@[simp] theorem Mach.complete_admission (m : Mach) (c : Cmd) (status result : Nat) (e : ErrInfo) :
    (m.complete c status result e).dev.host.admission = m.dev.host.admission :=
  (m.complete_tame c status result e).same .admission (by decide)

/-- Only domains that exist pass the checks of POWER_SET. -/
theorem target_lt_of_powerField {c : Cmd} (h : powerField c = none) : c.target < 38 := by
  unfold powerField at h
  by_contra hge
  rw [if_pos (.inl (by omega))] at h
  exact absurd h (Option.some_ne_none 4)

section
variable {s : State} {sq cid : Nat} {c : Cmd}

/-- A POWER_SET whose fields are legal, with no other one on its domain, runs its meaning. -/
theorem live_powerCmd {on : Bool} (hr : s.Runs sq cid 0x19 c) (hfree : ∀ o ∈ s.m.dev.power.ops, o.domain ≠ c.target)
    (hfield : powerField c = none) (hon : bit (c.dw 0) 0 = on) (f : Cmd → Nat → Mach → Mach) :
    live (powerCmd sq cid on f) s = live (runCmd sq cid 0x19 (fun c m => f c c.target m)) s := by
  have hnone : s.m.dev.power.ops.any (fun o => decide (o.domain = c.target)) = false :=
    List.any_eq_false.2 (fun o ho => by simpa using hfree o ho)
  refine live_congr ?_
  unfold powerCmd
  rw [runCmd_eq hr, runCmd_eq hr, hon, hnone]
  simp only [ne_eq, not_true_eq_false, Bool.false_eq_true, or_self, if_false, hfield]

variable (hr : s.Runs sq cid 0x19 c) (hfree : ∀ o ∈ s.m.dev.power.ops, o.domain ≠ c.target) (hfield : powerField c = none)
include hr hfree hfield

theorem powerSetOff_idle_yields (hoff : bit (c.dw 0) 0 = false) (hp : s.m.dev.powered c.target = false) :
    Yields (.powerSetOff sq cid) s [.seq, .commands, .errorLog, .admission, .power] (fun t => t.Ends sq cid Status.ok 0 ∧
      t.m.dev.power = s.m.dev.power) := by
  refine yields_of_completion hr (live_powerCmd hr hfree hfield hoff _) (execPowerSetOff_framed sq cid s) (by decide)
    (m := s.m) (result := 0) (e := {}) (if_pos (by rw [hp]; rfl)) (hr.cmd_of_cmds rfl) ?_
  simp only [State.settledAt, Dev.settle_power, Mach.complete_power]

theorem powerSetOff_denied_yields (hoff : bit (c.dw 0) 0 = false) (hp : s.m.dev.powered c.target = true) (hd : s.m.dev.offDenied c.target = true) :
    Yields (.powerSetOff sq cid) s [.seq, .commands, .errorLog, .admission, .power] (fun t => t.Ends sq cid Status.admissionDenied 0 ∧
      t.m.dev.power = s.m.dev.power ∧ t.m.dev.host.admission ≠ none) := by
  refine yields_of_completion hr (live_powerCmd hr hfree hfield hoff _) (execPowerSetOff_framed sq cid s) (by decide)
    (m := { s.m with dev := s.m.dev.noteDenied 13 noStream 0 0 }) (result := 0)
    ((if_neg (by rw [hp]; decide)).trans (if_pos hd)) (hr.cmd_of_cmds rfl) ?_
  simp only [State.settledAt, Dev.settle_power, Mach.complete_power, Dev.settle_host_admission, Mach.complete_admission]
  exact ⟨rfl, Option.some_ne_none _⟩

theorem powerSetOff_starts_yields (hoff : bit (c.dw 0) 0 = false) (hp : s.m.dev.powered c.target = true) (hd : s.m.dev.offDenied c.target = false) :
    Yields (.powerSetOff sq cid) s [.seq, .commands, .errorLog, .admission, .power] (fun t => t.GoesOn sq cid ∧ t.m.dev.powered c.target = true ∧
      t.m.dev.quiescing c.target = true ∧
      t.m.dev.power.ops = s.m.dev.power.ops ++
        [{ domain := c.target, off := true, level := 0, sq := sq, cid := cid,
           until_ := s.m.dev.clk + 1000 * (if c.dw 1 = 0 then 100 else c.dw 1) }]) := by
  have hlt := target_lt_of_powerField hfield
  obtain ⟨-, hcmd, -⟩ := id hr
  obtain ⟨hsq, hcid, -⟩ := Dev.cmd_key hcmd
  have hrun := Dev.cmd_keepRunning (c := c) (by rw [hsq, hcid]; exact hcmd)
  rw [hsq, hcid] at hrun
  refine yields_of_goesOn hr (live_powerCmd hr hfree hfield hoff _) (execPowerSetOff_framed sq cid s) (by decide)
    ((if_neg (by rw [hp]; decide)).trans (if_neg (by rw [hd]; decide))) hrun rfl ?_
  simp only [State.settledAt, Dev.powered, Dev.quiescing, Dev.settle_power]
  refine ⟨hp, ?_, rfl⟩
  show (s.m.dev.power.quiescing ||| BitVec.twoPow 38 c.target).getLsbD c.target = true
  simp [hlt]

theorem powerSetOn_yields (hon : bit (c.dw 0) 0 = true) (hp : s.m.dev.powered c.target = false) :
    Yields (.powerSetOn sq cid) s [.seq, .commands, .errorLog, .admission, .power] (fun t => t.Ends sq cid Status.ok 0 ∧
      t.m.dev.powered c.target = true ∧ ∀ j, j ≠ c.target → t.m.dev.powered j = s.m.dev.powered j) := by
  have hlt := target_lt_of_powerField hfield
  have hset (level j : Nat) : (s.m.dev.switchOn c.target level).powered j = (s.m.dev.powered j || decide (j = c.target)) := by
    have hor : (s.m.dev.power.on ||| BitVec.twoPow 38 c.target).getLsbD j = (s.m.dev.power.on.getLsbD j || decide (j = c.target)) := by
      simp only [BitVec.getLsbD_or, BitVec.getLsbD_twoPow, hlt, decide_true, Bool.true_and, eq_comm]
    unfold Dev.switchOn
    dsimp only
    split <;> exact hor
  refine yields_of_completion hr (live_powerCmd hr hfree hfield hon _) (execPowerSetOn_framed sq cid s) (by decide)
    (m := { s.m with dev := s.m.dev.switchOn c.target (bits (c.dw 0) 4 4) }) (result := 0) (e := {}) (if_pos (by rw [hp]; rfl))
    (hr.cmd_of_cmds ((Dev.switchOn_tame (ps := setOf [.intr, .power]) (by decide) (.refl _ s.m.dev) _ _).cmds_eq (by decide))) ?_
  have hpowered (j : Nat) : Dev.powered (Mach.complete { s.m with dev := s.m.dev.switchOn c.target (bits (c.dw 0) 4 4) } c Status.ok 0 {}).dev.settle j =
      (s.m.dev.powered j || decide (j = c.target)) := by
    rw [← hset (bits (c.dw 0) 4 4) j, Dev.powered, Dev.powered, Dev.settle_power, Mach.complete_power]
  refine ⟨(hpowered c.target).trans (by simp), fun j hj => (hpowered j).trans (by simp [hj])⟩

end

/-! ### The end of quiescing -/

theorem Dev.Answers.linkOff {d : Dev} {sq cid : Nat} (h : d.Answers sq cid) (p : Nat) : (d.linkOff p).Answers sq cid := by
  have hexpire : (d.linkExpire p).Answers sq cid := by
    unfold Dev.linkExpire
    refine Dev.Answers.postEvent (Dev.Answers.raise ?_ _ _) _ _ _
    exact h.of_host rfl rfl
  unfold Dev.linkOff
  dsimp only
  split
  · exact hexpire.of_host rfl rfl
  · exact h.of_host rfl rfl

theorem Dev.Answers.resetUnits {d : Dev} {sq cid : Nat} (h : d.Answers sq cid) (k : Nat) : (d.resetUnits k).Answers sq cid := by
  unfold Dev.resetUnits
  split
  · exact h.of_host rfl rfl
  · split
    · exact h.of_host rfl rfl
    · split
      · exact h.of_host rfl rfl
      · split
        · exact h.linkOff _
        · split
          · exact h.of_host rfl rfl
          · split
            · exact h.of_host rfl rfl
            · split
              · exact h.of_host rfl rfl
              · split
                · exact h.of_host rfl rfl
                · exact h

theorem Dev.Answers.switchOff {d : Dev} {sq cid : Nat} (h : d.Answers sq cid) (k : Nat) : (d.switchOff k).Answers sq cid :=
  (h.resetUnits k).of_host rfl rfl

section
variable (d : Dev) {k : Nat}

/-- A domain whose bit is cleared is not among those listed. -/
theorem getLsbD_and_not_twoPow (w : BitVec 38) (j : Nat) : (w &&& ~~~(BitVec.twoPow 38 k)).getLsbD j = (w.getLsbD j && decide (j ≠ k)) := by
  by_cases hj : j < 38
  · simp [hj, eq_comm]
  · rw [BitVec.getLsbD_of_ge _ _ (by omega), BitVec.getLsbD_of_ge _ _ (by omega), Bool.false_and]

theorem Dev.switchOff_powered : (d.switchOff k).powered k = false :=
  (getLsbD_and_not_twoPow _ k).trans (by simp)

/-- A POWER_SET that ends is no longer in progress, and its domain quiesces no longer. -/
theorem Dev.endPower_power (o : PowerOp) (status : Nat) : (d.endPower o status).power =
    { d.power with ops := d.power.ops.erase o, quiescing := d.power.quiescing &&& ~~~(BitVec.twoPow 38 o.domain) } :=
  (Dev.complete_tame (ps := setOf [.seq, .commands, .errorLog]) (by decide) (.refl _ _) o.sq o.cid status 0 {}).same .power (by decide)

theorem Dev.endPower_powered (o : PowerOp) (status j : Nat) : (d.endPower o status).powered j = d.powered j := by
  simp only [Dev.powered, Dev.endPower_power]

theorem Dev.endPower_quiescing (o : PowerOp) (status : Nat) : (d.endPower o status).quiescing o.domain = false := by
  rw [Dev.quiescing, Dev.endPower_power, getLsbD_and_not_twoPow]
  simp

theorem Dev.endPower_clk (o : PowerOp) (status : Nat) : (d.endPower o status).clk = d.clk :=
  (Dev.endPower_tame (ps := setOf [.seq, .commands, .errorLog, .power]) (by decide) (.refl _ d) o status).clk_eq (by decide)

end

/-- The command of a POWER_SET that ends is completed. -/
theorem Dev.endPower_ends {d : Dev} {o : PowerOp} {status : Nat} (h : d.Answers o.sq o.cid) (s : State) :
    State.Ends { s with m := { s.m with dev := (d.endPower o status).settle } } o.sq o.cid status 0 := by
  obtain ⟨k, hk⟩ := h.live
  exact ends_of_complete (s := s) (result := 0) (e := {})
    (d := d.onPower (fun p => { p with ops := p.ops.erase o, quiescing := p.quiescing &&& ~~~(BitVec.twoPow 38 o.domain) })) hk
    (Dev.settle_host_stage _)

section
variable {s : State} {k : Nat} {o : PowerOp} {c : Cmd} (hl : s.Live)
  (ho : s.m.dev.power.ops.find? (fun o => o.off && decide (o.domain = k)) = some o) (hcmd : s.m.dev.cmd o.sq o.cid = some c)
  (hkept : o.sq ≠ 0 ∨ o.cid ∉ s.m.dev.host.aer)
include hl ho hcmd hkept

theorem quiesceDone_yields {dt : Nat} (hd : s.m.dev.drained k = true) (ht : s.m.dev.clk + dt ≤ o.until_) :
    Yields (.quiesceDone k dt) s (List.append [.clk, .seq, .stats, .commands, .events, .errorLog, .flt, .bbx, .sid, .eth, .link, .dma, .power,
        .prism, .codec, .proxy] ((List.finRange 64).map Part.feat)) (fun t => t.Ends o.sq o.cid Status.ok 0 ∧ t.m.dev.powered k = false ∧
      t.m.dev.quiescing k = false ∧ t.m.dev.clk = s.m.dev.clk + dt) := by
  have he : exec (.quiesceDone k dt) s = liveDev (fun d => ((d.advance dt).switchOff k).endPower o Status.ok) s := by
    show execQuiesceDone k dt s = _
    unfold execQuiesceDone
    refine liveDev_congr ?_
    rw [ho]
    exact if_neg (by rw [hd]; simp; omega)
  refine yields_of_liveDev hl he (execQuiesceDone_framed k dt s) (by decide) ?_
  have hdom : o.domain = k := by simpa using And.right (by simpa using List.find?_some ho)
  refine ⟨Dev.endPower_ends ?_ s, ?_, ?_, ?_⟩
  · have hans : s.m.dev.Answers o.sq o.cid := ⟨⟨c, hcmd⟩, hkept⟩
    refine Dev.Answers.switchOff ?_ k
    exact hans.of_host rfl rfl
  · rw [Dev.powered, Dev.settle_power]
    exact (Dev.endPower_powered ..).trans (Dev.switchOff_powered ..)
  · rw [Dev.quiescing, Dev.settle_power]
    exact hdom ▸ Dev.endPower_quiescing ..
  · rw [Dev.settle_clk, Dev.endPower_clk]
    exact (Dev.switchOff_tame (ps := setOf [.free, .seq, .stats, .commands, .events, .flt, .intr, .twk, .bbx, .eth, .link, .dma, .power, .prism,
      .codec, .proxy, .sent] ||| everyFeat) (by decide) (.refl _ (s.m.dev.advance dt)) k).clk_eq (by decide)

theorem quiesceTimeout_yields (hd : s.m.dev.drained k = false) :
    Yields (.quiesceTimeout k) s [.clk, .seq, .commands, .errorLog, .sid, .power, .feat 0x20] (fun t => t.Ends o.sq o.cid Status.busyQuiesce 0 ∧
      t.m.dev.powered k = s.m.dev.powered k ∧ t.m.dev.quiescing k = false ∧ t.m.dev.clk = max s.m.dev.clk o.until_) := by
  have he : exec (.quiesceTimeout k) s = liveDev (fun d => ((d.advanceTo o.until_).bump 0x20 0x24).endPower o Status.busyQuiesce) s := by
    show execQuiesceTimeout k s = _
    unfold execQuiesceTimeout
    refine liveDev_congr ?_
    rw [ho]
    exact if_neg (by rw [hd]; exact Bool.false_ne_true)
  refine yields_of_liveDev hl he (execQuiesceTimeout_framed k s) (by decide) ?_
  have hdom : o.domain = k := by simpa using And.right (by simpa using List.find?_some ho)
  have hself := s.m.dev.advanceTo_tame_self o.until_
  refine ⟨Dev.endPower_ends ?_ s, ?_, ?_, ?_⟩
  · have hans : s.m.dev.Answers o.sq o.cid := ⟨⟨c, hcmd⟩, hkept⟩
    exact (hans.of_tame hself (by decide) (by decide)).of_host rfl rfl
  · rw [Dev.powered, Dev.settle_power]
    refine (Dev.endPower_powered ..).trans ?_
    exact congrArg (fun p : Power => p.on.getLsbD k) (hself.same .power (by decide))
  · rw [Dev.quiescing, Dev.settle_power]
    exact hdom ▸ Dev.endPower_quiescing ..
  · rw [Dev.settle_clk, Dev.endPower_clk]
    exact (Dev.advanceTo_tick_clk s.m.dev o.until_).2

end

/-- Settles O18: POWER_SET of a domain that is off, refused, on or to be quiesced; a drained domain is switched off, and one that does not
drain in time stays on. -/
theorem powerDomains : Obligations.PowerDomains := by
  refine ⟨fun s sq cid c hr hfree hfield => ⟨fun hoff => ⟨fun hp => ?_, fun hp hd => ?_, fun hp hd => ?_⟩, fun hon hp => ?_⟩,
    fun s k o c hl _ ho hcmd hkept => ⟨fun dt hd ht => ?_, fun hd => ?_⟩⟩
  · exact powerSetOff_idle_yields hr hfree hfield hoff hp
  · exact powerSetOff_denied_yields hr hfree hfield hoff hp hd
  · exact powerSetOff_starts_yields hr hfree hfield hoff hp hd
  · exact powerSetOn_yields hr hfree hfield hon hp
  · exact quiesceDone_yields hl ho hcmd hkept hd ht
  · exact quiesceTimeout_yields hl ho hcmd hkept hd

end Sys2Proof.Machine
end

section
/-! Scrubbing and the reading of MR4 (R466, R467), and the reports of PCI Express, the control SRAM and the temperature sensor (R545 to
R550, R595). -/

namespace Sys2Proof.Machine
open Sys2Proof

/-! ### What raising a source leaves of the fault state (R546) -/

section
variable (d : Dev)

theorem Dev.postEvent_flt (type sub arg : Nat) : (d.postEvent type sub arg).flt = d.flt :=
  (Dev.postEvent_tame (ps := setOf [.seq, .commands, .events]) (by decide) (.refl _ d) type sub arg).same .flt (by decide)

theorem Dev.stopTwinkle_flt : d.stopTwinkle.flt = d.flt :=
  (Dev.stopTwinkle_tame (ps := setOf [.free, .twk]) (by decide) (.refl _ d)).same .flt (by decide)

theorem Dev.faultMsg_flt (src cls : Nat) (first : Bool) (stamp : List Byte) : (d.faultMsg src cls first stamp).flt = d.flt :=
  (Dev.faultMsg_tame (ps := setOf [.stats, .link, .sent]) (by decide) (.refl _ d) src cls first stamp).same .flt (by decide)

theorem Dev.bbxPut_flt (r : BbxRegion) (b : List Byte) : (d.bbxPut r b).flt = d.flt :=
  (Dev.bbxPut_tame (ps := setOf [.bbx]) (by decide) (.refl _ d) r b).same .flt (by decide)

/-- The entries of an occurrence count alone in the fault state (R550). -/
theorem Dev.faultEntry_flt (src cls arg : Nat) :
    ∃ at_ supp, (d.faultEntry src cls arg).flt = { d.flt with entryAt := at_, suppressed := supp } := by
  unfold Dev.faultEntry
  dsimp only
  split
  · exact ⟨_, _, (Dev.faultMsg_flt ..).trans rfl⟩
  · refine ⟨Tbl.set (fun _ => 0) d.flt.entryAt src (d.clk + 1), Tbl.set (fun _ => 0) d.flt.suppressed src 0, (Dev.faultMsg_flt ..).trans ?_⟩
    split
    · rw [Dev.bbxPut_flt, Dev.bbxPut_flt]
      rfl
    · rw [Dev.bbxPut_flt]
      rfl

/-- The fault state with an occurrence of a source, before its entries. -/
def Flt.noted (f : Flt) (src arg time : Nat) : Flt :=
  { f with lastClass := f.classOf src, lastSrc := src, lastArg := arg % 2 ^ 32, lastTime := time,
           status := if f.classOf src = 0 then f.status else f.status ||| BitVec.twoPow 600 src }

/-- Raising a source that has a class notes it, and counts. -/
theorem Dev.raise_flt {src : Nat} (h : fixedClass src ≠ 0) (arg : Nat) :
    ∃ n at_ supp, (d.raise src arg).flt = { d.flt.noted src arg d.sdt with faCnt := n, entryAt := at_, suppressed := supp } := by
  unfold Dev.raise
  rw [if_neg h]
  extract_lets cls d1 d2 d3
  have hcls : d.flt.classOf src = cls := rfl
  clear_value cls
  have h2 : ∃ n, d2.flt = { d1.flt with faCnt := n } := by
    dsimp only [d2]
    split
    · exact ⟨_, rfl⟩
    · exact ⟨_, rfl⟩
    · exact ⟨_, rfl⟩
    · exact ⟨_, rfl⟩
  obtain ⟨n, hn⟩ := h2
  obtain ⟨at_, supp, hentry⟩ := d2.faultEntry_flt src cls (arg % 2 ^ 32)
  refine ⟨n, at_, supp, ?_⟩
  have h3 : d3.flt = { d.flt.noted src arg d.sdt with faCnt := n, entryAt := at_, suppressed := supp } := by
    rw [hentry, hn, Flt.noted, hcls]
    rfl
  split
  · rw [Dev.postEvent_flt, h3]
  · rw [Dev.stopTwinkle_flt, Dev.postEvent_flt, h3]
  · exact h3

/-- Raising any source leaves the causes that persist. -/
theorem Dev.raise_causes (src arg : Nat) : (d.raise src arg).flt.causes = d.flt.causes := by
  by_cases h : fixedClass src = 0
  · rw [Dev.raise, if_pos h]
  · obtain ⟨_, _, _, hflt⟩ := d.raise_flt h arg
    rw [hflt]
    rfl

end

/-- The status bits once a source is noted. -/
theorem Flt.noted_status (f : Flt) (src arg time : Nat) {k : Nat} (hk : k < 600) :
    (f.noted src arg time).status.getLsbD k = (f.status.getLsbD k || (decide (k = src) && decide (f.classOf src ≠ 0))) := by
  unfold Flt.noted
  dsimp only
  split
  next h => simp [h]
  next h =>
    by_cases hs : k = src
    · subst hs
      simp [hk, h]
    · simp [hs, Ne.symm hs]

/-- What a raise of a source with a class shows of it. -/
theorem Dev.raise_shows {d : Dev} {src : Nat} (h : fixedClass src ≠ 0) (arg : Nat) :
    let f := (d.raise src arg).flt
    f.lastSrc = src ∧ f.lastArg = arg % 2 ^ 32 ∧ f.lastClass = d.flt.classOf src ∧ f.lastTime = d.sdt ∧
      ∀ k, k < 600 → f.status.getLsbD k = (d.flt.status.getLsbD k || (decide (k = src) && decide (d.flt.classOf src ≠ 0))) := by
  obtain ⟨n, at_, supp, hflt⟩ := d.raise_flt h arg
  rw [hflt]
  exact ⟨rfl, rfl, rfl, rfl, fun k hk => d.flt.noted_status src arg d.sdt hk⟩

/-! ### Reports -/

section
variable {s : State} (hl : s.Live)
include hl

theorem pcieAerError_yields (unc : Bool) (status : Nat) {src : Nat} (hsrc : src = if unc then 498 else 497) :
    Yields (.pcieAerError unc status) s [.seq, .stats, .commands, .events, .flt, .bbx, .link] (fun t => t.m.dev.flt.lastSrc = src ∧
      t.m.dev.flt.lastArg = status % 2 ^ 32 ∧ t.m.dev.flt.lastClass = s.m.dev.flt.classOf src ∧ t.m.dev.flt.lastTime = s.m.dev.sdt ∧
      ∀ k, k < 600 → t.m.dev.flt.status.getLsbD k = (s.m.dev.flt.status.getLsbD k ||
        (decide (k = src) && decide (s.m.dev.flt.classOf src ≠ 0)))) := by
  refine yields_of_liveDev (f := fun d => d.raise (if unc then 498 else 497) status) hl rfl (execPcieAerError_framed unc status s) (by decide) ?_
  have hclass : fixedClass src ≠ 0 := by cases unc <;> subst hsrc <;> decide
  simp only [← hsrc, Dev.settle_flt]
  exact Dev.raise_shows hclass status

theorem controlSramError_yields (unc : Bool) (addr : Nat) {src : Nat} (hsrc : src = if unc then 493 else 492) :
    Yields (.controlSramError unc addr) s [.seq, .stats, .commands, .events, .flt, .bbx, .link] (fun t => t.m.dev.flt.lastSrc = src ∧
      t.m.dev.flt.lastArg = addr % 2 ^ 32 ∧ t.m.dev.flt.lastClass = s.m.dev.flt.classOf src ∧
      ∀ k, k < 600 → t.m.dev.flt.status.getLsbD k = (s.m.dev.flt.status.getLsbD k ||
        (decide (k = src) && decide (s.m.dev.flt.classOf src ≠ 0)))) := by
  refine yields_of_liveDev (f := fun d => d.raise (if unc then 493 else 492) addr) hl rfl (execControlSramError_framed unc addr s) (by decide) ?_
  have hclass : fixedClass src ≠ 0 := by cases unc <;> subst hsrc <;> decide
  simp only [← hsrc, Dev.settle_flt]
  obtain ⟨hlast, harg, hcls, -, hstatus⟩ := Dev.raise_shows (d := s.m.dev) hclass addr
  exact ⟨hlast, harg, hcls, hstatus⟩

end

theorem mem_insertNat_self (n : Nat) (l : List Nat) : n ∈ insertNat n l := by
  induction l with
  | nil => exact List.mem_cons_self
  | cons x r ih =>
    rw [insertNat]
    split
    · exact List.mem_cons_self
    · split
      next h => exact h ▸ List.mem_cons_self
      next => exact List.mem_cons_of_mem _ ih

/-- The highest junction temperature of the grade (R595). -/
def topCelsius : Int := if Config.industrialGrade then 105 else 95

/-- What a temperature sample does to the device (R595). -/
def Dev.sampled (d : Dev) (celsius : Int) : Dev :=
  if d.flt.causes.contains 496 then
    if celsius ≤ topCelsius - 3 then d.onFlt (fun f => { f with causes := f.causes.filter (fun x => decide (x ≠ 496)) }) else d
  else if topCelsius < celsius then
    (d.onFlt (fun f => { f with causes := insertNat 496 f.causes })).raise 496 (celsius % (2 ^ 32 : Int)).toNat
  else d

theorem tempSample_yields {s : State} {celsius : Int} {P : State → Prop} (hl : s.Live) (hP : P (s.settledAt { s.m with dev := s.m.dev.sampled celsius })) :
    Yields (.tempSample celsius) s [.seq, .stats, .commands, .events, .flt, .bbx, .link] P :=
  yields_of_liveDev (f := fun d => d.sampled celsius) hl rfl (execTempSample_framed celsius s) (by decide) hP

/-- A sample above the highest temperature raises source 496 once. -/
theorem Dev.sampled_of_hot {d : Dev} {celsius : Int} (hc : 496 ∉ d.flt.causes) (ht : topCelsius < celsius) :
    496 ∈ (d.sampled celsius).flt.causes ∧ (d.sampled celsius).flt.lastSrc = 496 ∧
      (d.sampled celsius).flt.lastArg = (celsius % (2 ^ 32 : Int)).toNat := by
  have hout : d.sampled celsius = (d.onFlt (fun f => { f with causes := insertNat 496 f.causes })).raise 496 (celsius % (2 ^ 32 : Int)).toNat := by
    rw [Dev.sampled, if_neg (by simpa using hc), if_pos ht]
  obtain ⟨hlast, harg, -⟩ := Dev.raise_shows (d := d.onFlt (fun f => { f with causes := insertNat 496 f.causes })) (src := 496) (by decide)
    (celsius % (2 ^ 32 : Int)).toNat
  rw [hout, Dev.raise_causes, hlast, harg]
  refine ⟨mem_insertNat_self 496 _, rfl, Nat.mod_eq_of_lt ?_⟩
  omega

theorem Dev.sampled_of_cool {d : Dev} {celsius : Int} (hc : 496 ∉ d.flt.causes) (ht : celsius ≤ topCelsius) : d.sampled celsius = d := by
  rw [Dev.sampled, if_neg (by simpa using hc), if_neg (by omega)]

theorem Dev.sampled_of_cooled {d : Dev} {celsius : Int} (hc : 496 ∈ d.flt.causes) (ht : celsius ≤ topCelsius - 3) :
    496 ∉ (d.sampled celsius).flt.causes := by
  rw [Dev.sampled, if_pos (by simpa using hc), if_pos ht]
  exact fun h => of_decide_eq_true (List.mem_filter.1 h).2 rfl

theorem Dev.sampled_of_warm {d : Dev} {celsius : Int} (hc : 496 ∈ d.flt.causes) (ht : topCelsius - 3 < celsius) : d.sampled celsius = d := by
  rw [Dev.sampled, if_pos (by simpa using hc), if_neg (by omega)]

/-! ### DRAM -/

/-- What a scrub keeps of a controller: when it scrubbed last. -/
def Dev.scrubbedAt (d : Dev) (c : Nat) : Nat := (d.dram.getD c {}).scrubAt

theorem Dev.raise_dram (d : Dev) (src arg : Nat) : (d.raise src arg).dram = d.dram :=
  (d.raise_tame_self src arg).same .dram (by decide)

theorem Dev.dramCorrected_scrubbedAt (d : Dev) (a c : Nat) : (d.dramCorrected a).scrubbedAt c = d.scrubbedAt c := by
  rw [Dev.scrubbedAt, Dev.dramCorrected, Dev.raise_dram]
  rfl

theorem Dev.dramUncorrectable_scrubbedAt (d : Dev) (a c : Nat) : (d.dramUncorrectable a).scrubbedAt c = d.scrubbedAt c := by
  rw [Dev.scrubbedAt, Dev.dramUncorrectable, Dev.raise_dram]
  refine modAt_getD_congr (g := DramCtl.scrubAt) ?_ d.dram (dramCtlOf a) c {}
  exact fun _ => rfl

/-- The errors that a read finds leave when a controller scrubbed. -/
theorem Dev.eccFound_scrubbedAt (d : Dev) (l : List (Nat × Bool)) (c : Nat) : (d.eccFound l).scrubbedAt c = d.scrubbedAt c := by
  refine foldl_keeps (g := fun d : Dev => d.scrubbedAt c) (fun d e _ => ?_) d
  split
  · exact d.dramUncorrectable_scrubbedAt e.1 c
  · exact d.dramCorrected_scrubbedAt e.1 c

theorem Dev.eccFound_clk (d : Dev) (l : List (Nat × Bool)) : (d.eccFound l).clk = d.clk :=
  (Dev.eccFound_tame (ps := setOf [.free, .seq, .stats, .commands, .events, .flt, .twk, .bbx, .link, .dram, .sent, .feat 0x1E])
    (by decide) (.refl _ d) l).clk_eq (by decide)

/-- A controller that exists is the one that a change of it leaves. -/
theorem Dev.dram_onDram_same {d : Dev} {c : Nat} (h : c < d.dram.length) (f : DramCtl → DramCtl) :
    (d.onDram c f).dram.getD c {} = f (d.dram.getD c {}) :=
  (modAt_getD d.dram c c f {} (.inr (.inl h))).trans (if_pos rfl)

/-- The device with a report of MR4 taken by a controller (R467). -/
def Dev.mr4Taken (d : Dev) (c : Nat) (codes : List Nat) : Dev :=
  let d1 := d.advanceTo (4000000 + (d.dram.getD c {}).mr4At)
  let cool := if codes.any Config.mr4Above85 then 0 else (d.dram.getD c {}).cool + 1
  d1.onDram c (fun y => { y with mr4At := d1.clk, mr4 := codes.foldl max 0 % 256, cool := cool, beyond := codes.any Config.mr4Beyond,
                                 refresh2x := codes.any Config.mr4Above85 || (y.refresh2x && decide (cool < 2)) })

/-- The device once the report has raised its source, or ended its cause. -/
def Dev.mr4Reported (d : Dev) (c : Nat) (codes : List Nat) : Dev :=
  if codes.any Config.mr4Beyond then
    ((d.mr4Taken c codes).onFlt (fun f => { f with causes := insertNat (466 + 4 * c) f.causes })).raise (466 + 4 * c) (codes.foldl max 0)
  else (d.mr4Taken c codes).onFlt (fun f => { f with causes := f.causes.filter (fun z => decide (z ≠ 466 + 4 * c)) })

theorem Dev.mr4Reported_clk_dram (d : Dev) (c : Nat) (codes : List Nat) :
    (d.mr4Reported c codes).clk = (d.mr4Taken c codes).clk ∧ (d.mr4Reported c codes).dram = (d.mr4Taken c codes).dram := by
  unfold Dev.mr4Reported
  split
  · exact ⟨(Dev.raise_tame_self ..).clk_eq (by decide), Dev.raise_dram ..⟩
  · exact ⟨rfl, rfl⟩

/-- The cause of a controller's source is what the last report says. -/
theorem Dev.mr4Reported_causes (d : Dev) (c : Nat) (codes : List Nat) :
    (codes.any Config.mr4Beyond = true → 466 + 4 * c ∈ (d.mr4Reported c codes).flt.causes) ∧
    (codes.any Config.mr4Beyond = false → 466 + 4 * c ∉ (d.mr4Reported c codes).flt.causes) := by
  refine ⟨fun h => ?_, fun h => ?_⟩
  · rw [Dev.mr4Reported, if_pos h, Dev.raise_causes]
    exact mem_insertNat_self _ _
  · rw [Dev.mr4Reported, if_neg (by rw [h]; exact Bool.false_ne_true)]
    exact fun hm => of_decide_eq_true (List.mem_filter.1 hm).2 rfl

section
variable {s : State} {c : Nat}

/-- A controller of the device after time has passed is one of its four. -/
theorem lt_dram_of_advanceTo (hc : c < 4) (hs : s.m.dev.Shape) (t : Nat) : c < (s.m.dev.advanceTo t).dram.length := by
  obtain ⟨-, -, hlen, -⟩ := hs
  have hsame : (s.m.dev.advanceTo t).dram = s.m.dev.dram := (s.m.dev.advanceTo_tame_self t).same .dram (by decide)
  rw [hsame, hlen]
  exact hc

variable (hc : c < 4) (ht : (s.m.dev.dram.getD c {}).trained = true) (hw : s.m.dev.takesWork (20 + c) = true)
include hc ht hw

/-- A controller that may work does what is asked of it. -/
theorem dramWorks : (decide (c < 4) && (s.m.dev.dram.getD c {}).trained && s.m.dev.takesWork (20 + c)) = true := by
  rw [ht, hw, decide_eq_true hc]
  rfl

variable (hl : s.Live) (hs : s.m.dev.Shape)
include hl hs

theorem dramScrub_yields (found : List (Nat × Bool)) :
    Yields (.dramScrub c found) s [.clk, .seq, .stats, .commands, .events, .flt, .bbx, .sid, .link, .dram, .feat 0x1E] (fun t =>
      t.m.dev.clk = max s.m.dev.clk ((s.m.dev.dram.getD c {}).scrubAt + 10 ^ 9 * (3600 * fld (s.m.dev.reg 0x1E (0x40 * c + 0x04)) 0 8)) ∧
      (t.m.dev.dram.getD c {}).scrubAt = t.m.dev.clk) := by
  refine yields_of_liveDev (f := onlyIf _ _) hl rfl (execDramScrub_framed c found s) (by decide) ?_
  rw [onlyIf_of_true (dramWorks hc ht hw)]
  simp only [Dev.settle_clk, Dev.settle_dram, Dev.eccFound_clk]
  refine ⟨Dev.advanceTo_clk .., (Dev.eccFound_scrubbedAt _ _ c).trans ?_⟩
  rw [Dev.scrubbedAt, Dev.dram_onDram_same (lt_dram_of_advanceTo hc hs _)]
  rfl

theorem mr4Read_yields (codes : List Nat) :
    Yields (.mr4Read c codes) s [.clk, .seq, .stats, .commands, .events, .flt, .bbx, .sid, .link, .dram] (fun t =>
      t.m.dev.clk = max s.m.dev.clk (4000000 + (s.m.dev.dram.getD c {}).mr4At) ∧ (t.m.dev.dram.getD c {}).mr4At = t.m.dev.clk ∧
      (t.m.dev.dram.getD c {}).mr4 = codes.foldl max 0 % 256 ∧
      (codes.any Config.mr4Above85 = true → (t.m.dev.dram.getD c {}).refresh2x = true) ∧
      (codes.any Config.mr4Beyond = true → 466 + 4 * c ∈ t.m.dev.flt.causes) ∧
      (codes.any Config.mr4Beyond = false → 466 + 4 * c ∉ t.m.dev.flt.causes)) := by
  refine yields_of_liveDev (f := onlyIf _ (fun d => d.mr4Reported c codes)) hl rfl (execMr4Read_framed c codes s) (by decide) ?_
  rw [onlyIf_of_true (dramWorks hc ht hw)]
  obtain ⟨hclk, hdram⟩ := s.m.dev.mr4Reported_clk_dram c codes
  obtain ⟨hhot, hcold⟩ := s.m.dev.mr4Reported_causes c codes
  simp only [Dev.settle_clk, Dev.settle_dram, Dev.settle_flt, hclk, hdram, Dev.mr4Taken,
    Dev.dram_onDram_same (lt_dram_of_advanceTo hc hs _)]
  exact ⟨Dev.advanceTo_clk .., rfl, trivial, fun h => by rw [h, Bool.true_or], hhot, hcold⟩

end

/-- Settles O19: a scrub and a read of MR4 note when they ran; MR4 gives the refresh rate and the cause of its source; each report raises its
source, and the temperature keeps the cause of source 496. -/
theorem dramUpkeepAndFaultSources : Obligations.DramUpkeepAndFaultSources := by
  refine ⟨fun s c hl hs hc ht hw => ⟨fun found => dramScrub_yields hc ht hw hl hs found, fun codes => mr4Read_yields hc ht hw hl hs codes⟩,
    fun s hl => ⟨fun unc status src hsrc => pcieAerError_yields hl unc status hsrc,
      fun unc addr src hsrc => controlSramError_yields hl unc addr hsrc, fun celsius top htop => ?_⟩⟩
  subst htop
  refine tempSample_yields hl ?_
  simp only [State.settledAt, Dev.settle_flt]
  exact ⟨fun hc ht => Dev.sampled_of_hot hc ht, fun hc ht => congrArg Dev.flt (Dev.sampled_of_cool hc ht),
    fun hc ht => Dev.sampled_of_cooled hc ht, fun hc ht => congrArg Dev.flt (Dev.sampled_of_warm hc ht)⟩

end Sys2Proof.Machine
end

section
/-! Channels of the DMA: what a read and an arrival at an instruction depend on and leave (R471 to R473), and MOVE, FILL and CMP. -/

namespace Sys2Proof.Machine
open Sys2Proof

/-! ### Reads -/

/-- Memories that differ in no part are the same. -/
theorem Mem.Tame.eq {a b : Mem} (h : Mem.Tame (setOf []) a b) : b = a := by
  have hhost : b.host = a.host := h.same .hostMem (by decide)
  have hdram : b.dram = a.dram := h.same .dramMem (by decide)
  have hnor : b.nor = a.nor := h.same .nor (by decide)
  have hmram : b.mram = a.mram := h.same .mram (by decide)
  have hcarriers : b.carriers = a.carriers := h.same .carriers (by decide)
  cases a
  cases b
  simp_all only

/-- What a channel reads is the same on two machines: memories, DRAM controllers and registers. -/
structure Mach.ReadsAlike (m n : Mach) : Prop where
  dram : n.dev.dram = m.dev.dram
  regs : n.dev.regs = m.dev.regs
  mem : n.mem = m.mem

/-- Where a range lies depends on the sizes of the DRAM and on the registers. -/
theorem Dev.dmaTarget_congr {d e : Dev} (hdram : e.dram = d.dram) (hregs : e.regs = d.regs) (ch a len : Nat) :
    e.dmaHost ch a = d.dmaHost ch a ∧ e.dmaTarget ch a len = d.dmaTarget ch a len := by
  have hhost : e.dmaHost ch a = d.dmaHost ch a := by simp only [Dev.dmaHost, Dev.reg64, Dev.reg, hregs]
  have husable : e.dramUsable = d.dramUsable := by rw [Dev.dramUsable, hdram, Dev.dramUsable]
  exact ⟨hhost, by rw [Dev.dmaTarget, husable, hhost, Dev.dmaTarget]⟩

theorem Mach.dramBytes_congr {m n : Mach} (h : m.ReadsAlike n) (k : Nat) : ∀ a, n.dramBytes a k = m.dramBytes a k := by
  obtain ⟨hdram, -, hmem⟩ := h
  induction k with
  | zero => exact fun _ => rfl
  | succ k ih =>
    intro a
    rw [Mach.dramBytes, Mach.dramBytes, Mach.dramByte, Mach.dramByte, hdram, hmem, ih]

section
variable {m n : Mach} (ch a len : Nat)

theorem Mach.dmaRead_fst_congr (h : m.ReadsAlike n) : (n.dmaRead ch a len).1 = (m.dmaRead ch a len).1 := by
  obtain ⟨hdram, hregs, hmem⟩ := h
  obtain ⟨hhost, htarget⟩ := Dev.dmaTarget_congr hdram hregs ch a len
  have hbytes : n.dramBytes a len = m.dramBytes a len := Mach.dramBytes_congr ⟨hdram, hregs, hmem⟩ len a
  unfold Mach.dmaRead
  rw [htarget]
  split
  · have hbad (bs : List Nat) : n.dev.badBlock bs = m.dev.badBlock bs := by simp only [Dev.badBlock, hdram]
    unfold Mach.dramRead
    simp only [hbad, hbytes]
    split <;> rfl
  · rw [hhost, hmem]
  · rfl

variable (m)

/-- What a read may change of the device: counters, and what it reports. -/
theorem Mach.dmaRead_tame : Dev.Tame (setOf [.free, .seq, .stats, .commands, .events, .flt, .twk, .bbx, .link, .dram, .sent, .feat 0x1E]) m.dev
    (m.dmaRead ch a len).2.dev := Mach.dmaRead_tame_dev (by decide) (.refl _ _) ch a len

@[simp] theorem Mach.dmaRead_mem : (m.dmaRead ch a len).2.mem = m.mem :=
  Mem.Tame.eq (Mach.dmaRead_tame_mem (by decide) (.refl _ _) ch a len)

@[simp] theorem Mach.dmaRead_dma : (m.dmaRead ch a len).2.dev.dma = m.dev.dma := (m.dmaRead_tame ch a len).same .dma (by decide)

end

/-! ### Arrivals -/

/-- A channel that has arrived at an instruction. -/
def DmaCh.arrived (x : DmaCh) (idx : Nat) : DmaCh := { x with state := .running, index := idx, waitUntil := none, released := false }

/-- A channel of the device is the one that a change of it leaves. -/
theorem Dev.dmaCh_onDma_same {d : Dev} {ch : Nat} (h : ch < d.dma.length) (f : DmaCh → DmaCh) : (d.onDma ch f).dmaCh ch = f (d.dmaCh ch) :=
  (modAt_getD d.dma ch ch f {} (.inr (.inl h))).trans (if_pos rfl)

theorem Dev.dmaCh_onDma_of_ne (d : Dev) {ch k : Nat} (h : ch ≠ k) (f : DmaCh → DmaCh) : (d.onDma ch f).dmaCh k = d.dmaCh k :=
  (modAt_getD d.dma ch k f {} (.inr (.inr h))).trans (if_neg h)

/-- What follows an arrival, as far as the channel can go on. -/
def dmaNext : Option (List Byte) × Mach → Option Nat × Mach
  | (none, m) => (some 4, m)
  | (some b, m) => if (parseDma b).op = 0 ∨ 7 < (parseDma b).op ∨ bit (parseDma b).mode 7 then (some 3, m) else (none, m)

theorem dmaNext_snd (x : Option (List Byte) × Mach) : (dmaNext x).2 = x.2 := by
  obtain ⟨_ | b, m⟩ := x
  · rfl
  · rw [dmaNext]
    split <;> rfl

theorem dmaNext_fst_congr {x y : Option (List Byte) × Mach} (h : x.1 = y.1) : (dmaNext x).1 = (dmaNext y).1 := by
  obtain ⟨_ | b, m⟩ := x
  · obtain ⟨b', n⟩ := y
    subst h
    rfl
  · obtain ⟨b', n⟩ := y
    subst h
    simp only [dmaNext]
    split <;> rfl

/-- The machine with a channel at its instruction, before the instruction is read. -/
def Mach.dmaAt (m : Mach) (ch idx : Nat) : Mach := { m with dev := m.dev.onDma ch (fun x => x.arrived idx) }

theorem Mach.dmaArrive_eq (m : Mach) (ch idx : Nat) : m.dmaArrive ch idx =
    if 4096 ≤ idx then (some 3, m.dmaAt ch idx)
    else dmaNext ((m.dmaAt ch idx).dmaRead ch (((m.dmaAt ch idx).dev.dmaCh ch).prog + 32 + 16 * idx) 16) := by
  unfold Mach.dmaArrive
  dsimp only
  split
  · rfl
  · show (match (m.dmaAt ch idx).dmaRead ch (((m.dmaAt ch idx).dev.dmaCh ch).prog + 32 + 16 * idx) 16 with
      | (none, m2) => (some 4, m2)
      | (some b, m2) => _) = _
    generalize (m.dmaAt ch idx).dmaRead ch (((m.dmaAt ch idx).dev.dmaCh ch).prog + 32 + 16 * idx) 16 = x
    obtain ⟨_ | b, m2⟩ := x <;> rfl

section
variable {m n : Mach} {ch idx : Nat}

/-- An arrival changes its channel as far as the DMA goes, and no memory. -/
theorem Mach.dmaArrive_leaves (m : Mach) (ch idx : Nat) :
    (m.dmaArrive ch idx).2.dev.dma = (m.dmaAt ch idx).dev.dma ∧ (m.dmaArrive ch idx).2.mem = m.mem := by
  rw [Mach.dmaArrive_eq]
  split
  · exact ⟨rfl, rfl⟩
  · rw [dmaNext_snd, Mach.dmaRead_dma, Mach.dmaRead_mem]
    exact ⟨rfl, rfl⟩

/-- Whether the program goes on at an instruction depends on what is read there. -/
theorem Mach.dmaArrive_fst_congr (h : m.ReadsAlike n) (hm : ch < m.dev.dma.length) (hn : ch < n.dev.dma.length)
    (hp : (n.dev.dmaCh ch).prog = (m.dev.dmaCh ch).prog) : (n.dmaArrive ch idx).1 = (m.dmaArrive ch idx).1 := by
  have hprog : ((n.dmaAt ch idx).dev.dmaCh ch).prog = ((m.dmaAt ch idx).dev.dmaCh ch).prog := by
    rw [Mach.dmaAt, Mach.dmaAt, Dev.dmaCh_onDma_same hn, Dev.dmaCh_onDma_same hm]
    exact hp
  rw [Mach.dmaArrive_eq, Mach.dmaArrive_eq, hprog]
  split
  · rfl
  · obtain ⟨hdram, hregs, hmem⟩ := h
    exact dmaNext_fst_congr (Mach.dmaRead_fst_congr ch _ 16 ⟨hdram, hregs, hmem⟩)

theorem Mach.dmaGo_of_goes (h : (m.dmaArrive ch idx).1 = none) : m.dmaGo ch idx = (m.dmaArrive ch idx).2 := by
  unfold Mach.dmaGo
  generalize m.dmaArrive ch idx = x at h
  obtain ⟨_ | code, m1⟩ := x
  · rfl
  · exact absurd h (Option.some_ne_none code)

/-- A program that goes on stands at its instruction. -/
theorem Mach.dmaGo_leaves (hch : ch < m.dev.dma.length) (h : (m.dmaArrive ch idx).1 = none) :
    (m.dmaGo ch idx).dev.dmaCh ch = (m.dev.dmaCh ch).arrived idx ∧ (m.dmaGo ch idx).mem = m.mem ∧
      ∀ k, k ≠ ch → (m.dmaGo ch idx).dev.dmaCh k = m.dev.dmaCh k := by
  obtain ⟨hdma, hmem⟩ := m.dmaArrive_leaves ch idx
  have hall (k : Nat) : (m.dmaGo ch idx).dev.dmaCh k = (m.dmaAt ch idx).dev.dmaCh k := by
    rw [Mach.dmaGo_of_goes h, Dev.dmaCh, hdma]
    rfl
  refine ⟨?_, ?_, fun k hk => ?_⟩
  · rw [hall, Mach.dmaAt, Dev.dmaCh_onDma_same hch]
  · rw [Mach.dmaGo_of_goes h, hmem]
  · rw [hall, Mach.dmaAt, Dev.dmaCh_onDma_of_ne _ hk.symm]

end

/-! ### Steps of a channel -/

/-- The current instruction of a channel whose domain works is what runs. -/
theorem live_dmaStep {s : State} {ch op : Nat} {i : DmaInstr} (hch : ch < 32) (hi : s.m.dmaCur ch = some i)
    (hp : s.m.dev.powered (24 + ch / 8) = true) (hop : i.op = op) (f : DmaInstr → Mach → Mach) :
    live (dmaStep ch op f) s = live (f i) s := by
  refine live_congr ?_
  unfold dmaStep
  rw [hi]
  exact if_pos ⟨hch, hop, hp⟩

/-- A channel changed in what its program has done, at the same program. -/
def Mach.dmaDid (m : Mach) (ch : Nat) (f : DmaCh → DmaCh) : Mach := { m with dev := m.dev.onDma ch f }

/-- What a step that goes on leaves of its channel and of the memories. -/
theorem Mach.dmaDid_go {m : Mach} {ch idx : Nat} {f : DmaCh → DmaCh} (hf : ∀ x, (f x).prog = x.prog) (hch : ch < m.dev.dma.length)
    (h : (m.dmaArrive ch idx).1 = none) :
    ((m.dmaDid ch f).dmaGo ch idx).dev.dmaCh ch = (f (m.dev.dmaCh ch)).arrived idx ∧ ((m.dmaDid ch f).dmaGo ch idx).mem = m.mem := by
  have hdid : (m.dmaDid ch f).dev.dmaCh ch = f (m.dev.dmaCh ch) := Dev.dmaCh_onDma_same hch f
  have hlen : ch < (m.dmaDid ch f).dev.dma.length := by
    rw [Mach.dmaDid, Dev.onDma, modAt_length]
    exact hch
  have hgoes : ((m.dmaDid ch f).dmaArrive ch idx).1 = none := by
    rw [Mach.dmaArrive_fst_congr (m := m) (n := m.dmaDid ch f) ⟨rfl, rfl, rfl⟩ hch hlen (by rw [hdid, hf])]
    exact h
  obtain ⟨hchan, hmem, -⟩ := Mach.dmaGo_leaves hlen hgoes
  exact ⟨by rw [hchan, hdid], hmem⟩

section
variable {m m1 : Mach} {ch a len : Nat} {fixed : Bool}

/-- What a source that is read leaves: the channels and the memories. -/
theorem Mach.dmaSource_leaves {o : Option (List Byte)} (h : m.dmaSource ch a len fixed = (o, m1)) :
    m1.dev.dma = m.dev.dma ∧ m1.mem = m.mem := by
  have hdev := Mach.dmaSource_tame_dev (ps := setOf [.free, .seq, .stats, .commands, .events, .flt, .twk, .bbx, .link, .dram, .sent, .feat 0x1E])
    (by decide) (.refl _ m.dev) ch a len fixed
  have hmem := Mach.dmaSource_tame_mem (ps := setOf []) (by decide) (.refl _ m.mem) ch a len fixed
  rw [h] at hdev hmem
  exact ⟨hdev.same .dma (by decide), hmem.eq⟩

theorem Mach.dmaDest_dma {l : List Byte} {b : Bool} (h : m.dmaDest ch a l fixed = (b, m1)) : m1.dev.dma = m.dev.dma := by
  have hdev := Mach.dmaDest_tame_dev (ps := setOf [.dram]) (by decide) (.refl _ m.dev) ch a l fixed
  rw [h] at hdev
  exact hdev.same .dma (by decide)

theorem Dev.eccFound_dma (d : Dev) (l : List (Nat × Bool)) : (d.eccFound l).dma = d.dma :=
  (Dev.eccFound_tame (ps := setOf [.free, .seq, .stats, .commands, .events, .flt, .twk, .bbx, .link, .dram, .sent, .feat 0x1E])
    (by decide) (.refl _ d) l).same .dma (by decide)

end

/-! ### MOVE, FILL and CMP (R473) -/

/-- What a channel has done after an instruction that moved bytes. -/
def DmaCh.moved (x : DmaCh) (i : DmaInstr) (src dst : Nat) : DmaCh :=
  { x with bytes := (x.bytes + i.len) % 2 ^ 64, srcCont := afterRange src i.len (bit i.mode 0), dstCont := afterRange dst i.len (bit i.mode 1) }

/-- What a channel has done after an instruction that filled a range. -/
def DmaCh.filled (x : DmaCh) (i : DmaInstr) (dst : Nat) : DmaCh :=
  { x with bytes := (x.bytes + i.len) % 2 ^ 64, dstCont := afterRange dst i.len (bit i.mode 1) }

/-- What a channel has done after a comparison. -/
def DmaCh.compared (x : DmaCh) (i : DmaInstr) (src dst : Nat) (diff : Option Nat) (first : Bool) (index : Nat) : DmaCh :=
  { x.moved i src dst with
    miscompare := x.miscompare || diff.isSome, cmpOffset := if first then diff.getD 0 else x.cmpOffset,
    cmpIndex := if first then index else x.cmpIndex }

/-- The errors found in the source of an instruction. -/
def DmaCh.eccOf (c : DmaCh) (i : DmaInstr) (ecc : List (Nat × Bool)) : List (Nat × Bool) :=
  ecc.filter (fun e => decide (c.srcOf i ≤ e.1 ∧ e.1 < c.srcOf i + i.len))

/-- The errors found in either range of a comparison. -/
def DmaCh.eccOfBoth (c : DmaCh) (i : DmaInstr) (ecc : List (Nat × Bool)) : List (Nat × Bool) :=
  ecc.filter (fun e => decide (c.srcOf i ≤ e.1 ∧ e.1 < c.srcOf i + i.len) || decide (c.dstOf i ≤ e.1 ∧ e.1 < c.dstOf i + i.len))

section
variable {m : Mach} {ch : Nat} {i : DmaInstr} {ecc : List (Nat × Bool)}

theorem Mach.dmaMove_of_done {b : List Byte} {m1 m2 : Mach} (hlen : i.len ≠ 0)
    (hs : fixedOk (bit i.mode 0) ((m.dev.dmaCh ch).srcOf i) i.len = true) (hd : fixedOk (bit i.mode 1) ((m.dev.dmaCh ch).dstOf i) i.len = true)
    (hsrc : Mach.dmaSource { m with dev := m.dev.eccFound ((m.dev.dmaCh ch).eccOf i ecc) } ch ((m.dev.dmaCh ch).srcOf i) i.len (bit i.mode 0) =
      (some b, m1))
    (hdst : m1.dmaDest ch ((m.dev.dmaCh ch).dstOf i) b (bit i.mode 1) = (true, m2)) :
    m.dmaMove ch i ecc = (m2.dmaDid ch (fun x => x.moved i ((m.dev.dmaCh ch).srcOf i) ((m.dev.dmaCh ch).dstOf i))).dmaGo ch
      ((m.dev.dmaCh ch).index + 1) := by
  rw [DmaCh.eccOf] at hsrc
  unfold Mach.dmaMove
  simp only [hlen, hs, hd, hsrc, hdst, Bool.not_true, Bool.false_eq_true, or_self, if_false]
  rfl

theorem Mach.dmaFill_of_done {m1 : Mach} (hlen : i.len % 4 = 0) (halign : (m.dev.dmaCh ch).dstOf i % 4 = 0)
    (hd : fixedOk (bit i.mode 1) ((m.dev.dmaCh ch).dstOf i) i.len = true)
    (hdst : m.dmaDest ch ((m.dev.dmaCh ch).dstOf i) ((List.range i.len).map (fun k => (leBytes 4 i.src).getD (k % 4) 0)) (bit i.mode 1) =
      (true, m1)) :
    m.dmaFill ch i = (m1.dmaDid ch (fun x => x.filled i ((m.dev.dmaCh ch).dstOf i))).dmaGo ch ((m.dev.dmaCh ch).index + 1) := by
  unfold Mach.dmaFill
  simp only [hlen, halign, hd, hdst, Bool.not_true, Bool.false_eq_true, ne_eq, not_true_eq_false, or_self, if_false]
  rfl

theorem Mach.dmaCmp_of_done {a b : List Byte} {m1 m2 : Mach}
    (hs : fixedOk (bit i.mode 0) ((m.dev.dmaCh ch).srcOf i) i.len = true) (hd : fixedOk (bit i.mode 1) ((m.dev.dmaCh ch).dstOf i) i.len = true)
    (hsrc : Mach.dmaSource { m with dev := m.dev.eccFound ((m.dev.dmaCh ch).eccOfBoth i ecc) } ch ((m.dev.dmaCh ch).srcOf i) i.len
      (bit i.mode 0) = (some a, m1))
    (hdst : m1.dmaSource ch ((m.dev.dmaCh ch).dstOf i) i.len (bit i.mode 1) = (some b, m2))
    (hgo : firstDiff a b 0 = none ∨ bit i.mode 4 = false) :
    m.dmaCmp ch i ecc = (m2.dmaDid ch (fun x => x.compared i ((m.dev.dmaCh ch).srcOf i) ((m.dev.dmaCh ch).dstOf i) (firstDiff a b 0)
      ((firstDiff a b 0).isSome && decide ((m.dev.dmaCh ch).cmpIndex = 0xFFFF)) (m.dev.dmaCh ch).index)).dmaGo ch
      ((m.dev.dmaCh ch).index + 1) := by
  have hstays : ((firstDiff a b 0).isSome && bit i.mode 4) = false := by
    rcases hgo with h | h
    · rw [h]
      rfl
    · rw [h, Bool.and_false]
  rw [DmaCh.eccOfBoth] at hsrc
  unfold Mach.dmaCmp
  simp only [hs, hd, hsrc, hdst, hstays, Bool.not_true, Bool.false_eq_true, or_self, if_false]
  rfl

end

section
variable {s : State} {ch : Nat} {i : DmaInstr} (hl : s.Live) (hshape : s.m.dev.Shape) (hch : ch < 32) (hi : s.m.dmaCur ch = some i)
  (hp : s.m.dev.powered (24 + ch / 8) = true)
  (hd : fixedOk (bit i.mode 1) ((s.m.dev.dmaCh ch).dstOf i) i.len = true)
include hl hshape hch hi hp hd

theorem dmaFill_yields {m1 : Mach} (hop : i.op = 2) (hlen : i.len % 4 = 0) (halign : (s.m.dev.dmaCh ch).dstOf i % 4 = 0)
    (hdst : s.m.dmaDest ch ((s.m.dev.dmaCh ch).dstOf i) ((List.range i.len).map (fun k => (leBytes 4 i.src).getD (k % 4) 0)) (bit i.mode 1) =
      (true, m1))
    (hgo : (m1.dmaArrive ch ((s.m.dev.dmaCh ch).index + 1)).1 = none) :
    Yields (.dmaFill ch) s [.seq, .stats, .commands, .events, .errorLog, .flt, .bbx, .link, .dram, .dma, .hostMem, .dramMem, .feat 0x1E,
        .feat 0x1F] (fun t => t.m.mem = m1.mem ∧ (t.m.dev.dmaCh ch).state = .running ∧
      (t.m.dev.dmaCh ch).index = (s.m.dev.dmaCh ch).index + 1 ∧
      (t.m.dev.dmaCh ch).bytes = ((s.m.dev.dmaCh ch).bytes + i.len) % 2 ^ 64) := by
  refine yields_of_live hl (live_dmaStep hch hi hp hop _) (execDmaFill_framed ch s) (by decide) ?_
  have hdma := Mach.dmaDest_dma hdst
  have hlt : ch < m1.dev.dma.length := by
    obtain ⟨-, -, -, -, hlen, -⟩ := hshape
    rw [hdma, hlen]
    exact hch
  rw [Mach.dmaFill_of_done hlen halign hd hdst]
  obtain ⟨hchan, hmem⟩ := Mach.dmaDid_go (f := fun x => x.filled i ((s.m.dev.dmaCh ch).dstOf i)) (fun _ => rfl) hlt hgo
  have hsame : m1.dev.dmaCh ch = s.m.dev.dmaCh ch := by simp only [Dev.dmaCh, hdma]
  simp only [Dev.settle_dmaCh, hchan, hmem, hsame]
  exact ⟨trivial, rfl, rfl, rfl⟩

variable (hs : fixedOk (bit i.mode 0) ((s.m.dev.dmaCh ch).srcOf i) i.len = true)
include hs

theorem dmaMove_yields {ecc : List (Nat × Bool)} {b : List Byte} {m1 m2 : Mach} (hop : i.op = 1) (hlen : i.len ≠ 0)
    (hsrc : Mach.dmaSource { s.m with dev := s.m.dev.eccFound ((s.m.dev.dmaCh ch).eccOf i ecc) } ch ((s.m.dev.dmaCh ch).srcOf i) i.len
      (bit i.mode 0) = (some b, m1))
    (hdst : m1.dmaDest ch ((s.m.dev.dmaCh ch).dstOf i) b (bit i.mode 1) = (true, m2))
    (hgo : (m2.dmaArrive ch ((s.m.dev.dmaCh ch).index + 1)).1 = none) :
    Yields (.dmaMove ch ecc) s [.seq, .stats, .commands, .events, .errorLog, .flt, .bbx, .link, .dram, .dma, .hostMem, .dramMem, .feat 0x1E,
        .feat 0x1F] (fun t => t.m.mem = m2.mem ∧ (t.m.dev.dmaCh ch).state = .running ∧
      (t.m.dev.dmaCh ch).index = (s.m.dev.dmaCh ch).index + 1 ∧
      (t.m.dev.dmaCh ch).bytes = ((s.m.dev.dmaCh ch).bytes + i.len) % 2 ^ 64) := by
  refine yields_of_live hl (live_dmaStep hch hi hp hop _) (execDmaMove_framed ch ecc s) (by decide) ?_
  have hdma : m2.dev.dma = s.m.dev.dma :=
    (Mach.dmaDest_dma hdst).trans ((Mach.dmaSource_leaves hsrc).1.trans (Dev.eccFound_dma ..))
  have hlt : ch < m2.dev.dma.length := by
    obtain ⟨-, -, -, -, hlen, -⟩ := hshape
    rw [hdma, hlen]
    exact hch
  rw [Mach.dmaMove_of_done hlen hs hd hsrc hdst]
  obtain ⟨hchan, hmem⟩ := Mach.dmaDid_go (f := fun x => x.moved i ((s.m.dev.dmaCh ch).srcOf i) ((s.m.dev.dmaCh ch).dstOf i)) (fun _ => rfl)
    hlt hgo
  have hsame : m2.dev.dmaCh ch = s.m.dev.dmaCh ch := by simp only [Dev.dmaCh, hdma]
  simp only [Dev.settle_dmaCh, hchan, hmem, hsame]
  exact ⟨trivial, rfl, rfl, rfl⟩

theorem dmaCmp_yields {ecc : List (Nat × Bool)} {a b : List Byte} {m1 m2 : Mach} (hop : i.op = 3)
    (hsrc : Mach.dmaSource { s.m with dev := s.m.dev.eccFound ((s.m.dev.dmaCh ch).eccOfBoth i ecc) } ch ((s.m.dev.dmaCh ch).srcOf i) i.len
      (bit i.mode 0) = (some a, m1))
    (hdst : m1.dmaSource ch ((s.m.dev.dmaCh ch).dstOf i) i.len (bit i.mode 1) = (some b, m2))
    (hdiff : firstDiff a b 0 = none ∨ bit i.mode 4 = false)
    (hgo : (m2.dmaArrive ch ((s.m.dev.dmaCh ch).index + 1)).1 = none) :
    Yields (.dmaCmp ch ecc) s [.seq, .stats, .commands, .events, .errorLog, .flt, .bbx, .link, .dram, .dma, .hostMem, .dramMem, .feat 0x1E,
        .feat 0x1F] (fun t => t.m.mem = s.m.mem ∧ (t.m.dev.dmaCh ch).state = .running ∧
      (t.m.dev.dmaCh ch).index = (s.m.dev.dmaCh ch).index + 1 ∧
      (t.m.dev.dmaCh ch).miscompare = ((s.m.dev.dmaCh ch).miscompare || (firstDiff a b 0).isSome)) := by
  refine yields_of_live hl (live_dmaStep hch hi hp hop _) (execDmaCmp_framed ch ecc s) (by decide) ?_
  obtain ⟨hdma1, hmem1⟩ := Mach.dmaSource_leaves hsrc
  obtain ⟨hdma2, hmem2⟩ := Mach.dmaSource_leaves hdst
  have hdma : m2.dev.dma = s.m.dev.dma := hdma2.trans (hdma1.trans (Dev.eccFound_dma ..))
  have hlt : ch < m2.dev.dma.length := by
    obtain ⟨-, -, -, -, hlen, -⟩ := hshape
    rw [hdma, hlen]
    exact hch
  rw [Mach.dmaCmp_of_done hs hd hsrc hdst hdiff]
  obtain ⟨hchan, hmem⟩ := Mach.dmaDid_go (f := fun x => x.compared i ((s.m.dev.dmaCh ch).srcOf i) ((s.m.dev.dmaCh ch).dstOf i) (firstDiff a b 0)
    ((firstDiff a b 0).isSome && decide ((s.m.dev.dmaCh ch).cmpIndex = 0xFFFF)) (s.m.dev.dmaCh ch).index) (fun _ => rfl) hlt hgo
  have hsame : m2.dev.dmaCh ch = s.m.dev.dmaCh ch := by simp only [Dev.dmaCh, hdma]
  simp only [Dev.settle_dmaCh, hchan, hmem, hsame]
  exact ⟨hmem2.trans hmem1, rfl, rfl, rfl⟩

end

/-- Settles O20: an instruction on accessible ranges leaves what it wrote, and its channel at the next instruction. -/
theorem dmaData : Obligations.DmaData := by
  intro s ch i hl hshape hch hi hp hs hd
  exact ⟨fun ecc b m1 m2 hop hlen hsrc hdst hgo => dmaMove_yields hl hshape hch hi hp hd hs hop hlen hsrc hdst hgo,
    fun m1 hop hlen halign hdst hgo => dmaFill_yields hl hshape hch hi hp hd hop hlen halign hdst hgo,
    fun ecc a b m1 m2 hop hsrc hdst hdiff hgo => dmaCmp_yields hl hshape hch hi hp hd hs hop hsrc hdst hdiff hgo⟩

end Sys2Proof.Machine
end

section
/-! LOOP, WAIT, SIGNAL and END (R473 to R475, R477). -/

namespace Sys2Proof.Machine
open Sys2Proof

theorem Dev.lt_dma_of_shape {d : Dev} {ch : Nat} (h : d.Shape) (hch : ch < 32) : ch < d.dma.length := by
  obtain ⟨-, -, -, -, hlen, -⟩ := h
  rw [hlen]
  exact hch

section
variable {m : Mach} {ch : Nat} {i : DmaInstr}

/-! ### LOOP and WAIT -/

theorem Mach.dmaLoop_of_legal (hlen : i.len ≠ 0) (hback : i.dst % 4096 < (m.dev.dmaCh ch).index) {now : Nat}
    (hnow : now = (if (m.dev.dmaCh ch).counters.getD (i.mode % 4) 0 = 0 then i.len else (m.dev.dmaCh ch).counters.getD (i.mode % 4) 0) - 1) :
    m.dmaLoop ch i = (m.dmaDid ch (fun x => { x with counters := modAt x.counters (i.mode % 4) (fun _ => now) })).dmaGo ch
      (if 0 < now then i.dst % 4096 else (m.dev.dmaCh ch).index + 1) := by
  subst hnow
  exact if_neg (by omega)

/-- A channel that waits for an event. -/
def DmaCh.waits (x : DmaCh) (i : DmaInstr) (clk : Nat) : DmaCh :=
  { x with state := .waiting, waitEvent := i.dst % 64, waitPeek := bit i.mode 5, released := false,
           waitUntil := if i.len = 0 then none else some (clk + 1000 * i.len) }

theorem Mach.dmaWait_of_unset (hw : waitable (i.dst % 64) = true) (hmask : bit (m.dev.dmaCh ch).waitMask (i.dst % 64) = true)
    (hunset : 8 ≤ i.dst % 64 → bit m.dev.dmaEvents (i.dst % 64) = false) :
    m.dmaWait ch i = m.dmaDid ch (fun x => x.waits i m.dev.clk) := by
  have hlegal : ¬((!waitable (i.dst % 64)) = true ∨ (!bit (m.dev.dmaCh ch).waitMask (i.dst % 64)) = true) := by
    rw [hw, hmask]
    decide
  have hblocks : ¬(8 ≤ i.dst % 64 ∧ bit m.dev.dmaEvents (i.dst % 64) = true) := fun h => by
    rw [hunset h.1] at h
    exact Bool.false_ne_true h.2
  exact (if_neg hlegal).trans (if_neg hblocks)

/-! ### SIGNAL -/

/-- The event flags once a SIGNAL that finds no waiting channel has set its flag. -/
def Dev.signalled (d : Dev) (i : DmaInstr) : Dev :=
  { d with dmaEvents := if bit d.dmaEvents (i.dst % 64) then d.dmaEvents else putBit d.dmaEvents (i.dst % 64) true }

/-- The machine after such a SIGNAL, its interrupt sent if its MODE asks. -/
def Mach.dmaSignalled (m : Mach) (ch : Nat) (i : DmaInstr) : Mach :=
  { m with dev := if bit i.mode 6 then (m.dev.signalled i).fireInt (528 + ch) else m.dev.signalled i }

theorem Dev.setEvent_of_none {d : Dev} {v : Nat} (h : d.waitersOn v = []) : d.setEvent v = { d with dmaEvents := putBit d.dmaEvents v true } := by
  unfold Dev.setEvent
  rw [h]

theorem Mach.dmaSignal_of_none (hv : 8 ≤ i.dst % 64) (hmask : bit (m.dev.dmaCh ch).signalMask (i.dst % 64) = true)
    (hnone : m.dev.waitersOn (i.dst % 64) = []) :
    m.dmaSignal ch i = (m.dmaSignalled ch i).dmaGo ch ((m.dev.dmaCh ch).index + 1) := by
  have hlegal : ¬(i.dst % 64 < 8 ∨ (!bit (m.dev.dmaCh ch).signalMask (i.dst % 64)) = true) := by
    rw [hmask]
    simp
    omega
  have hset : (if bit m.dev.dmaEvents (i.dst % 64) then m.dev else m.dev.setEvent (i.dst % 64)) = m.dev.signalled i := by
    rw [Dev.signalled, Dev.setEvent_of_none hnone]
    split <;> rfl
  unfold Mach.dmaSignal
  dsimp only
  rw [if_neg hlegal, hset]
  rfl

/-- A SIGNAL leaves what the channels read, and the channels. -/
theorem Mach.dmaSignalled_leaves (m : Mach) (ch : Nat) (i : DmaInstr) :
    m.ReadsAlike (m.dmaSignalled ch i) ∧ (m.dmaSignalled ch i).dev.dma = m.dev.dma ∧
      (m.dmaSignalled ch i).dev.dmaEvents = (m.dev.signalled i).dmaEvents := by
  unfold Mach.dmaSignalled
  split
  · exact ⟨⟨Dev.fireInt_dram .., Dev.fireInt_regs .., rfl⟩, Dev.fireInt_dma .., Dev.fireInt_dmaEvents ..⟩
  · exact ⟨⟨rfl, rfl, rfl⟩, rfl, rfl⟩

theorem Mach.dmaGo_dmaEvents {idx : Nat} (h : (m.dmaArrive ch idx).1 = none) : (m.dmaGo ch idx).dev.dmaEvents = m.dev.dmaEvents := by
  rw [Mach.dmaGo_of_goes h]
  exact (Mach.dmaArrive_tame_dev (ps := setOf [.free, .seq, .stats, .commands, .events, .flt, .twk, .bbx, .link, .dram, .dma, .sent, .feat 0x1E])
    (by decide) (.refl _ m.dev) ch idx).same .dmaEvents (by decide)

/-! ### The end of a program (R475, R477, R478) -/

/-- A channel that runs no program. -/
def DmaCh.idled (x : DmaCh) : DmaCh := { x with state := .idle, cmd := none, waitUntil := none, released := false }

/-- The device at the end of a program, its command not yet completed. -/
def Mach.dmaIdled (m : Mach) (ch code : Nat) : Dev :=
  (((m.dmaWriteBack ch code).dev.onDma ch DmaCh.idled).bump 0x1F (0x40 * ch + 0x38)).fireInt (528 + ch)

theorem Mach.dmaFinish_of_cmd {k : Nat × Nat} (h : (m.dev.dmaCh ch).cmd = some k) (code : Nat) : m.dmaFinish ch code =
    { m.dmaWriteBack ch code with
      dev := (m.dmaIdled ch code).complete k.1 k.2 (dmaStatus code) ((m.dev.dmaCh ch).statusWord code) } := by
  unfold Mach.dmaFinish
  simp only [h]
  rfl

theorem Mach.dmaWriteBack_tame (m : Mach) (ch code : Nat) : Dev.Tame (setOf [.dram]) m.dev (m.dmaWriteBack ch code).dev :=
  Mach.dmaWriteBack_tame_dev (by decide) (.refl _ m.dev) ch code

theorem Mach.dmaIdled_tame (m : Mach) (ch code : Nat) : Dev.Tame (setOf [.msix, .intr, .dram, .dma, .sent, .feat 0x1F]) m.dev (m.dmaIdled ch code) := by
  refine Dev.fireInt_tame (by decide) ?_ (528 + ch)
  refine Dev.bump_tame (by decide) ?_
  refine Dev.onDma_tame (by decide) ?_ ch DmaCh.idled
  exact (m.dmaWriteBack_tame ch code).mono (by decide)

theorem Mach.dmaIdled_dmaCh (hch : ch < m.dev.dma.length) (code : Nat) : (m.dmaIdled ch code).dmaCh ch = (m.dev.dmaCh ch).idled := by
  have hdma : (m.dmaWriteBack ch code).dev.dma = m.dev.dma := (m.dmaWriteBack_tame ch code).same .dma (by decide)
  have hlt : ch < (m.dmaWriteBack ch code).dev.dma.length := hdma ▸ hch
  have hsame : (m.dmaWriteBack ch code).dev.dmaCh ch = m.dev.dmaCh ch := by simp only [Dev.dmaCh, hdma]
  rw [Mach.dmaIdled, Dev.fireInt_dmaCh, ← hsame]
  exact Dev.dmaCh_onDma_same hlt DmaCh.idled

/-- The counter of programs is not the register of ARM. -/
theorem Mach.dmaIdled_arm (m : Mach) (ch code : Nat) :
    (m.dmaIdled ch code).reg 0x1F (0x40 * ch + 0x28) = m.dev.reg 0x1F (0x40 * ch + 0x28) := by
  have hkey : regKey 0x1F (0x40 * ch + 0x28) ≠ regKey 0x1F (0x40 * ch + 0x38) := by
    simp only [regKey]
    omega
  rw [Mach.dmaIdled, Dev.fireInt_reg, Dev.bump, Dev.reg_setReg_of_ne hkey]
  exact (m.dmaWriteBack_tame ch code).reg_eq (f := 0x1F) (by decide) (by decide) (0x40 * ch + 0x28)

/-- An unarmed channel hands nothing over. -/
theorem Mach.dmaHandOver_of_unarmed (h : bit (m.dev.reg 0x1F (0x40 * ch + 0x28)).toNat 0 = false) (k : Nat) : m.dmaHandOver ch k = m := by
  cases k with
  | zero => rfl
  | succ k =>
    rw [Mach.dmaHandOver]
    exact if_neg (by simp [h])

/-- The end of an unarmed program that a DMA_RUN started, but for one that is aborted. -/
theorem Mach.dmaEnd_of_unarmed {k : Nat × Nat} {code : Nat} (hcmd : (m.dev.dmaCh ch).cmd = some k) (hcode : code ≠ 1)
    (harm : bit (m.dev.reg 0x1F (0x40 * ch + 0x28)).toNat 0 = false) : m.dmaEnd ch code =
    { m.dmaWriteBack ch code with
      dev := (m.dmaIdled ch code).complete k.1 k.2 (dmaStatus code) ((m.dev.dmaCh ch).statusWord code) } := by
  unfold Mach.dmaEnd
  dsimp only
  rw [if_neg hcode, Mach.dmaFinish_of_cmd hcmd]
  refine Mach.dmaHandOver_of_unarmed ?_ 2
  rw [Dev.complete_reg, Mach.dmaIdled_arm]
  exact harm

end

/-- What the end of a program leaves, once it has settled: the channel is idle and the DMA_RUN is completed. -/
theorem dmaEnd_leaves {s : State} {n : Mach} {ch code : Nat} {k : Nat × Nat} {c : Cmd} (hch : ch < n.dev.dma.length)
    (hk : n.dev.cmd k.1 k.2 = some c) (hcmd : (n.dev.dmaCh ch).cmd = some k) (hcode : code ≠ 1)
    (harm : bit (n.dev.reg 0x1F (0x40 * ch + 0x28)).toNat 0 = false) :
    ((s.settledAt (n.dmaEnd ch code)).m.dev.dmaCh ch).state = .idle ∧
      (s.settledAt (n.dmaEnd ch code)).Ends k.1 k.2 (dmaStatus code) ((n.dev.dmaCh ch).statusWord code % 2 ^ 32) ∧
      (n.dmaEnd ch code).mem = (n.dmaWriteBack ch code).mem := by
  have htame := n.dmaIdled_tame ch code
  have hcomplete (d : Dev) (st r : Nat) : (d.complete k.1 k.2 st r).dma = d.dma :=
    (Dev.complete_tame (ps := setOf [.seq, .commands, .errorLog]) (by decide) (.refl _ d) k.1 k.2 st r {}).same .dma (by decide)
  rw [Mach.dmaEnd_of_unarmed hcmd hcode harm]
  refine ⟨?_, ?_, rfl⟩
  · rw [State.settledAt, Dev.settle_dmaCh, Dev.dmaCh, hcomplete, ← Dev.dmaCh, Mach.dmaIdled_dmaCh hch]
    rfl
  · refine ends_of_complete (s := s) (d := n.dmaIdled ch code) (c := c) (e := {}) ?_ (Dev.settle_host_stage _)
    rw [Dev.cmd_of_cmds (htame.cmds_eq (by decide))]
    exact hk

section
variable {s : State} {ch : Nat} {i : DmaInstr} (hl : s.Live) (hshape : s.m.dev.Shape) (hch : ch < 32) (hi : s.m.dmaCur ch = some i)
  (hp : s.m.dev.powered (24 + ch / 8) = true)
include hl hshape hch hi hp

theorem dmaLoop_yields {now : Nat} (hop : i.op = 4) (hlen : i.len ≠ 0) (hback : i.dst % 4096 < (s.m.dev.dmaCh ch).index)
    (hnow : now = (if (s.m.dev.dmaCh ch).counters.getD (i.mode % 4) 0 = 0 then i.len else (s.m.dev.dmaCh ch).counters.getD (i.mode % 4) 0) - 1)
    (hgo : (s.m.dmaArrive ch (if 0 < now then i.dst % 4096 else (s.m.dev.dmaCh ch).index + 1)).1 = none) :
    Yields (.dmaLoop ch) s [.seq, .stats, .commands, .events, .errorLog, .flt, .bbx, .link, .dram, .dma, .hostMem, .dramMem, .feat 0x1E,
        .feat 0x1F] (fun t =>
      (t.m.dev.dmaCh ch).index = (if 0 < now then i.dst % 4096 else (s.m.dev.dmaCh ch).index + 1) ∧
      (t.m.dev.dmaCh ch).counters = modAt (s.m.dev.dmaCh ch).counters (i.mode % 4) (fun _ => now) ∧ t.m.mem = s.m.mem) := by
  refine yields_of_live hl (live_dmaStep hch hi hp hop _) (execDmaLoop_framed ch s) (by decide) ?_
  rw [Mach.dmaLoop_of_legal hlen hback hnow]
  obtain ⟨hchan, hmem⟩ := Mach.dmaDid_go (f := fun x => { x with counters := modAt x.counters (i.mode % 4) (fun _ => now) }) (fun _ => rfl)
    (Dev.lt_dma_of_shape hshape hch) hgo
  simp only [Dev.settle_dmaCh, hchan, hmem]
  exact ⟨rfl, rfl, trivial⟩

theorem dmaWait_yields (hop : i.op = 5) (hw : waitable (i.dst % 64) = true) (hmask : bit (s.m.dev.dmaCh ch).waitMask (i.dst % 64) = true)
    (hunset : 8 ≤ i.dst % 64 → bit s.m.dev.dmaEvents (i.dst % 64) = false) :
    Yields (.dmaWait ch) s [.seq, .stats, .commands, .events, .errorLog, .flt, .bbx, .link, .dram, .dma, .dmaEvents, .hostMem, .dramMem,
        .feat 0x1E, .feat 0x1F] (fun t => (t.m.dev.dmaCh ch).state = .waiting ∧ (t.m.dev.dmaCh ch).waitEvent = i.dst % 64 ∧
      (t.m.dev.dmaCh ch).index = (s.m.dev.dmaCh ch).index ∧
      (t.m.dev.dmaCh ch).waitUntil = (if i.len = 0 then none else some (s.m.dev.clk + 1000 * i.len)) ∧
      t.m.dev.dmaEvents = s.m.dev.dmaEvents) := by
  refine yields_of_live hl (live_dmaStep hch hi hp hop _) (execDmaWait_framed ch s) (by decide) ?_
  rw [Mach.dmaWait_of_unset hw hmask hunset]
  simp only [Dev.settle_dmaCh, Dev.settle_dmaEvents, Mach.dmaDid, Dev.dmaCh_onDma_same (Dev.lt_dma_of_shape hshape hch)]
  exact ⟨rfl, rfl, rfl, rfl, rfl⟩

theorem dmaSignal_yields (hop : i.op = 6) (hv : 8 ≤ i.dst % 64) (hmask : bit (s.m.dev.dmaCh ch).signalMask (i.dst % 64) = true)
    (hnone : s.m.dev.waitersOn (i.dst % 64) = []) (hgo : (s.m.dmaArrive ch ((s.m.dev.dmaCh ch).index + 1)).1 = none) :
    Yields (.dmaSignal ch) s [.seq, .stats, .commands, .events, .errorLog, .flt, .bbx, .link, .dram, .dma, .dmaEvents, .hostMem, .dramMem,
        .feat 0x1E, .feat 0x1F] (fun t => t.m.dev.dmaEvents = (if bit s.m.dev.dmaEvents (i.dst % 64) then s.m.dev.dmaEvents
        else putBit s.m.dev.dmaEvents (i.dst % 64) true) ∧
      (t.m.dev.dmaCh ch).index = (s.m.dev.dmaCh ch).index + 1) := by
  refine yields_of_live hl (live_dmaStep hch hi hp hop _) (execDmaSignal_framed ch s) (by decide) ?_
  rw [Mach.dmaSignal_of_none hv hmask hnone]
  have hlt := Dev.lt_dma_of_shape hshape hch
  obtain ⟨hlike, hdma, hevents⟩ := s.m.dmaSignalled_leaves ch i
  have hlt' : ch < (s.m.dmaSignalled ch i).dev.dma.length := by rwa [hdma]
  have hgo' : ((s.m.dmaSignalled ch i).dmaArrive ch ((s.m.dev.dmaCh ch).index + 1)).1 = none := by
    rw [Mach.dmaArrive_fst_congr hlike hlt hlt' (by simp only [Dev.dmaCh, hdma])]
    exact hgo
  obtain ⟨hchan, -⟩ := Mach.dmaGo_leaves hlt' hgo'
  simp only [Dev.settle_dmaCh, Dev.settle_dmaEvents, hchan, Mach.dmaGo_dmaEvents hgo', hevents]
  exact ⟨rfl, rfl⟩

theorem dmaEnd_yields {k : Nat × Nat} {c : Cmd} (hop : i.op = 7) (harm : bit (s.m.dev.reg 0x1F (0x40 * ch + 0x28)).toNat 0 = false)
    (hcmd : (s.m.dev.dmaCh ch).cmd = some k) (hk : s.m.dev.cmd k.1 k.2 = some c) :
    Yields (.dmaEnd ch) s [.seq, .stats, .commands, .events, .errorLog, .flt, .bbx, .link, .dram, .dma, .hostMem, .dramMem, .feat 0x1E,
        .feat 0x1F] (fun t => (t.m.dev.dmaCh ch).state = .idle ∧
      t.Ends k.1 k.2 Status.ok ((s.m.dev.dmaCh ch).statusWord 0 % 2 ^ 32) ∧ t.m.mem = (s.m.dmaWriteBack ch 0).mem) :=
  yields_of_live hl (live_dmaStep hch hi hp hop _) (execDmaEnd_framed ch s) (by decide)
    (dmaEnd_leaves (Dev.lt_dma_of_shape hshape hch) hk hcmd (by decide) harm)

end

/-- Settles O21: a LOOP goes back or on, a WAIT waits, a SIGNAL sets its flag, and END ends the program with OK. -/
theorem dmaControl : Obligations.DmaControl := by
  intro s ch i hl hshape hch hi hp
  exact ⟨fun now hop hlen hback hnow hgo => dmaLoop_yields hl hshape hch hi hp hop hlen hback hnow hgo,
    fun hop hw hmask hunset => dmaWait_yields hl hshape hch hi hp hop hw hmask hunset,
    fun hop hv hmask hnone hgo => dmaSignal_yields hl hshape hch hi hp hop hv hmask hnone hgo,
    fun k c hop harm hcmd hk _ => dmaEnd_yields hl hshape hch hi hp hop harm hcmd hk⟩

end Sys2Proof.Machine
end

section
/-! Events, the end of a WAIT, arming, and DMA_RUN (R459, R473, R474, R478, R479). -/

namespace Sys2Proof.Machine
open Sys2Proof

/-! ### The release of a channel (R474) -/

/-- What DMA_EVENT_RELEASE does with one channel. -/
def releaseStep (v : Nat) (m : Mach) (c : Nat) : Mach :=
  if (m.dev.dmaCh c).state = .waiting ∧ (m.dev.dmaCh c).released ∧ (m.dev.dmaCh c).waitEvent = v then m.dmaGo c ((m.dev.dmaCh c).index + 1) else m

/-- Channels that do not wait are not released. -/
theorem foldl_releaseStep_of_none {v : Nat} {l : List Nat} {m : Mach} (h : ∀ k ∈ l, (m.dev.dmaCh k).state ≠ .waiting) :
    l.foldl (releaseStep v) m = m :=
  List.foldlRecOn (motive := fun n => n = m) l (releaseStep v) rfl (fun n hn k hk => by
    subst hn
    exact if_neg (fun hw => h k hk hw.1))

/-- The one channel that waits is the one that is released. -/
theorem foldl_releaseStep {v ch : Nat} {m : Mach} (hch : ch < 32) (hlt : ch < m.dev.dma.length) (hw : (m.dev.dmaCh ch).state = .waiting)
    (hr : (m.dev.dmaCh ch).released = true) (hv : (m.dev.dmaCh ch).waitEvent = v) (hothers : ∀ k, k ≠ ch → (m.dev.dmaCh k).state ≠ .waiting)
    (hgo : (m.dmaArrive ch ((m.dev.dmaCh ch).index + 1)).1 = none) :
    (List.range 32).foldl (releaseStep v) m = m.dmaGo ch ((m.dev.dmaCh ch).index + 1) := by
  obtain ⟨pre, post, hsplit⟩ := List.append_of_mem (List.mem_range.2 hch)
  have hnodup : (pre ++ ch :: post).Nodup := hsplit ▸ List.nodup_range
  have hpre : ∀ k ∈ pre, k ≠ ch := fun k hk => (List.nodup_append.1 hnodup).2.2 k hk ch List.mem_cons_self
  have hpost : ∀ k ∈ post, k ≠ ch := by
    rintro k hk rfl
    exact (List.nodup_cons.1 (List.nodup_append.1 hnodup).2.1).1 hk
  obtain ⟨-, -, hsame⟩ := Mach.dmaGo_leaves hlt hgo
  rw [hsplit, List.foldl_append, foldl_releaseStep_of_none (fun k hk => hothers k (hpre k hk)), List.foldl_cons, releaseStep,
    if_pos ⟨hw, hr, hv⟩]
  refine foldl_releaseStep_of_none (fun k hk => ?_)
  rw [hsame k (hpost k hk)]
  exact hothers k (hpost k hk)

/-! ### Events that are set by a register write (R474) -/

theorem bit_putBit_true (n i v : Nat) : bit (putBit n i true) v = (bit n v || decide (v = i)) := by
  unfold bit putBit
  split
  next h =>
    by_cases hv : v = i
    · subst hv
      rw [h, Bool.true_or]
    · simp [hv]
  next h =>
    rw [Nat.testBit_xor, Nat.testBit_two_pow]
    by_cases hv : v = i
    · subst hv
      simp [h]
    · simp [hv, Ne.symm hv]

/-- What DMA_EVENT_SET does with one flag. -/
def setFlagStep (mask : Nat) (d : Dev) (v : Nat) : Dev := if 8 ≤ v ∧ bit mask v ∧ !bit d.dmaEvents v then d.setEvent v else d

theorem Dev.waitersOn_of_none {d : Dev} (h : ∀ k, (d.dmaCh k).state ≠ .waiting) (v : Nat) : d.waitersOn v = [] :=
  List.filter_eq_nil_iff.2 (fun k _ => by simp [h k])

/-- One flag set where no channel waits. -/
theorem setFlagStep_events {mask : Nat} {d : Dev} (h : ∀ k, (d.dmaCh k).state ≠ .waiting) (v : Nat) :
    (∀ k, (setFlagStep mask d v).dmaCh k = d.dmaCh k) ∧
    ∀ u, bit (setFlagStep mask d v).dmaEvents u = (bit d.dmaEvents u || (decide (u = v) && (decide (8 ≤ v) && bit mask v))) := by
  unfold setFlagStep
  split
  next hset =>
    obtain ⟨h8, hmask, -⟩ := hset
    rw [Dev.setEvent_of_none (Dev.waitersOn_of_none h v)]
    exact ⟨fun _ => rfl, fun u => by simp only [bit_putBit_true, h8, hmask, decide_true, Bool.and_self, Bool.and_true]⟩
  next hset =>
    refine ⟨fun _ => rfl, fun u => ?_⟩
    by_cases hu : u = v
    · subst hu
      simp only [decide_true, Bool.true_and]
      by_cases hb : bit d.dmaEvents u = true
      · rw [hb, Bool.true_or]
      · simp_all
    · simp [hu]

/-- The flags of a mask set one by one, where no channel waits. -/
theorem foldl_setFlagStep (mask : Nat) (l : List Nat) : ∀ d : Dev, (∀ k, (d.dmaCh k).state ≠ .waiting) → ∀ u,
    bit (l.foldl (setFlagStep mask) d).dmaEvents u = (bit d.dmaEvents u || (decide (u ∈ l) && (decide (8 ≤ u) && bit mask u))) := by
  induction l with
  | nil =>
    intro d _ u
    simp
  | cons v r ih =>
    intro d h u
    obtain ⟨hch, hbit⟩ := setFlagStep_events (mask := mask) h v
    rw [List.foldl_cons, ih _ (fun k => by rw [hch]; exact h k), hbit]
    by_cases hu : u = v
    · subst hu
      cases bit d.dmaEvents u <;> simp
    · simp [hu]

/-! ### The start of a program (R475) -/

/-- Reads that count what was forwarded leave devices alike. -/
theorem Dev.countForward_alike (bs : List Nat) : ∀ d e : Dev, e.dram = d.dram → e.regs = d.regs →
    (e.countForward bs).dram = (d.countForward bs).dram ∧ (e.countForward bs).regs = (d.countForward bs).regs := by
  induction bs with
  | nil => exact fun _ _ hdram hregs => ⟨hdram, hregs⟩
  | cons b r ih =>
    intro d e hdram hregs
    rw [Dev.countForward, Dev.countForward]
    rw [hdram]
    split
    · exact ih _ _ hdram (by simp only [Dev.bump, Dev.setReg, Dev.reg, hregs])
    · exact ih _ _ hdram hregs

theorem Dev.countForward_host (bs : List Nat) : ∀ d : Dev, (d.countForward bs).host = d.host := by
  induction bs with
  | nil => exact fun _ => rfl
  | cons b r ih =>
    intro d
    rw [Dev.countForward]
    split
    · exact ih _
    · exact ih d

section
variable {m n : Mach} {ch : Nat}

/-- A read that gives bytes counts what was forwarded, and no more. -/
theorem Mach.dmaRead_of_some {a len : Nat} {b : List Byte} (h : (m.dmaRead ch a len).1 = some b) :
    (m.dmaRead ch a len).2 = { m with dev := m.dev.countForward (if m.dev.dmaTarget ch a len = some true then blocksOf a len else []) } := by
  unfold Mach.dmaRead at h ⊢
  split at h
  next htarget =>
    rw [htarget]
    unfold Mach.dramRead at h ⊢
    dsimp only at h ⊢
    split at h
    · exact absurd h (Option.some_ne_none b).symm
    · rfl
  next htarget =>
    rw [htarget]
    rfl
  next => exact absurd h (Option.some_ne_none b).symm

theorem Mach.dmaRead_host_of_some {a len : Nat} {b : List Byte} (h : (m.dmaRead ch a len).1 = some b) :
    (m.dmaRead ch a len).2.dev.host = m.dev.host := by
  rw [Mach.dmaRead_of_some h]
  exact Dev.countForward_host _ _

theorem dmaNext_some {x : Option (List Byte) × Mach} (h : (dmaNext x).1 = none) : ∃ b, x.1 = some b := by
  obtain ⟨_ | b, m⟩ := x
  · exact absurd h (Option.some_ne_none 4)
  · exact ⟨b, rfl⟩

/-- A program that goes on has had no effect on the host interface. -/
theorem Mach.dmaArrive_host {idx : Nat} (h : (m.dmaArrive ch idx).1 = none) : (m.dmaArrive ch idx).2.dev.host = m.dev.host := by
  rw [Mach.dmaArrive_eq] at h ⊢
  split at h
  · exact absurd h (Option.some_ne_none 3)
  next hidx =>
    obtain ⟨b, hb⟩ := dmaNext_some h
    rw [if_neg hidx, dmaNext_snd, Mach.dmaRead_host_of_some hb]
    rfl

/-- A channel that begins a program. -/
def DmaCh.begun (x : DmaCh) (prog wmask smask : Nat) (cmd : Option (Nat × Nat)) : DmaCh :=
  { state := .running, prog := prog, waitMask := wmask, signalMask := smask, cmd := cmd, shadowLate := x.shadowLate, armCmd := x.armCmd }

/-- The machine with a channel that begins a program, before its header is read. -/
def Mach.dmaBegun (m : Mach) (ch prog wmask smask : Nat) (cmd : Option (Nat × Nat)) : Mach :=
  m.dmaDid ch (fun x => x.begun prog wmask smask cmd)

variable {prog wmask smask : Nat} {cmd : Option (Nat × Nat)}

theorem Mach.dmaBegin_eq : m.dmaBegin ch prog wmask smask cmd =
    match (m.dmaBegun ch prog wmask smask cmd).dmaRead ch prog 4 with
    | (none, m2) => (some 4, m2)
    | (some b, m2) => if bit (leNat b) 31 then m2.dmaArrive ch 0 else (some 6, m2) := rfl

/-- A program that starts has a header that is read and says that the device owns it. -/
theorem Mach.dmaBegin_of_goes (h : (m.dmaBegin ch prog wmask smask cmd).1 = none) :
    ∃ b, ((m.dmaBegun ch prog wmask smask cmd).dmaRead ch prog 4).1 = some b ∧ bit (leNat b) 31 = true ∧
      m.dmaBegin ch prog wmask smask cmd = ((m.dmaBegun ch prog wmask smask cmd).dmaRead ch prog 4).2.dmaArrive ch 0 := by
  rw [Mach.dmaBegin_eq] at h ⊢
  generalize (m.dmaBegun ch prog wmask smask cmd).dmaRead ch prog 4 = x at h ⊢
  obtain ⟨_ | b, m2⟩ := x
  · exact absurd h (Option.some_ne_none 4)
  · dsimp only at h ⊢
    split at h
    next hb => exact ⟨b, rfl, hb, if_pos hb⟩
    next => exact absurd h (Option.some_ne_none 6)

/-- What a program that starts leaves: its channel, and the host interface. -/
theorem Mach.dmaBegin_leaves (hch : ch < m.dev.dma.length) (h : (m.dmaBegin ch prog wmask smask cmd).1 = none) :
    (m.dmaBegin ch prog wmask smask cmd).2.dev.dmaCh ch = ((m.dev.dmaCh ch).begun prog wmask smask cmd).arrived 0 ∧
      (m.dmaBegin ch prog wmask smask cmd).2.dev.host = m.dev.host := by
  obtain ⟨b, hread, -, heq⟩ := Mach.dmaBegin_of_goes h
  rw [heq] at h ⊢
  have hlen : ch < ((m.dmaBegun ch prog wmask smask cmd).dmaRead ch prog 4).2.dev.dma.length := by
    rw [Mach.dmaRead_dma, Mach.dmaBegun, Mach.dmaDid, Dev.onDma, modAt_length]
    exact hch
  obtain ⟨hchan, -⟩ := Mach.dmaGo_leaves hlen h
  rw [Mach.dmaGo_of_goes h] at hchan
  refine ⟨?_, (Mach.dmaArrive_host h).trans (Mach.dmaRead_host_of_some hread)⟩
  rw [hchan, Dev.dmaCh, Mach.dmaRead_dma]
  exact congrArg (DmaCh.arrived · 0) (Dev.dmaCh_onDma_same hch _)

/-- Whether a program starts depends on what is read of it. -/
theorem Mach.dmaBegin_goes_congr (hlike : m.ReadsAlike n) (hm : ch < m.dev.dma.length) (hn : ch < n.dev.dma.length)
    (h : (m.dmaBegin ch prog wmask smask cmd).1 = none) : (n.dmaBegin ch prog wmask smask cmd).1 = none := by
  obtain ⟨b, hread, hown, heq⟩ := Mach.dmaBegin_of_goes h
  obtain ⟨hdram, hregs, hmem⟩ := hlike
  have hbegun : (m.dmaBegun ch prog wmask smask cmd).ReadsAlike (n.dmaBegun ch prog wmask smask cmd) := ⟨hdram, hregs, hmem⟩
  have hread' := (Mach.dmaRead_fst_congr ch prog 4 hbegun).trans hread
  have hprog (x : Mach) (hx : ch < x.dev.dma.length) : (((x.dmaBegun ch prog wmask smask cmd).dmaRead ch prog 4).2.dev.dmaCh ch).prog = prog ∧
      ch < ((x.dmaBegun ch prog wmask smask cmd).dmaRead ch prog 4).2.dev.dma.length := by
    refine ⟨?_, ?_⟩
    · rw [Dev.dmaCh, Mach.dmaRead_dma]
      exact congrArg DmaCh.prog (Dev.dmaCh_onDma_same hx _)
    · rw [Mach.dmaRead_dma, Mach.dmaBegun, Mach.dmaDid, Dev.onDma, modAt_length]
      exact hx
  have hafter : ((m.dmaBegun ch prog wmask smask cmd).dmaRead ch prog 4).2.ReadsAlike
      ((n.dmaBegun ch prog wmask smask cmd).dmaRead ch prog 4).2 := by
    have htarget : (n.dmaBegun ch prog wmask smask cmd).dev.dmaTarget ch prog 4 = (m.dmaBegun ch prog wmask smask cmd).dev.dmaTarget ch prog 4 :=
      (Dev.dmaTarget_congr (d := (m.dmaBegun ch prog wmask smask cmd).dev) hdram hregs ch prog 4).2
    rw [Mach.dmaRead_of_some hread, Mach.dmaRead_of_some hread', htarget]
    obtain ⟨hd, hr⟩ := Dev.countForward_alike _ (m.dmaBegun ch prog wmask smask cmd).dev (n.dmaBegun ch prog wmask smask cmd).dev hdram hregs
    exact ⟨hd, hr, hmem⟩
  have harrive := Mach.dmaArrive_fst_congr (idx := 0) hafter (hprog m hm).2 (hprog n hn).2 ((hprog n hn).1.trans (hprog m hm).1.symm)
  rw [heq] at h
  rw [Mach.dmaBegin_eq]
  generalize (n.dmaBegun ch prog wmask smask cmd).dmaRead ch prog 4 = x at hread' harrive
  obtain ⟨_ | b', m2⟩ := x
  · exact absurd hread' (Option.some_ne_none b).symm
  · obtain rfl : b' = b := Option.some.inj hread'
    dsimp only
    rw [if_pos hown, harrive]
    exact h

end

/-! ### DMA_RUN (R459, R478) -/

/-- A 64-bit register that is held reads back. -/
theorem Dev.reg64_setReg64 {d : Dev} (h : d.Shape) (feat o v : Nat) (hv : v < 2 ^ 64) : (d.setReg64 feat o v).reg64 feat o = v := by
  have hshape : (d.setReg feat o (lo32 v)).Shape :=
    (Dev.setReg_tame (ps := everyFeat ||| 2 ^ (64 + feat)) (by simp [Nat.testBit_or]) (.refl _ d)).shape h
  have hkey : regKey feat o ≠ regKey feat (o + 4) := by
    simp only [regKey]
    omega
  have hlow : (d.setReg64 feat o v).reg feat o = lo32 v := by
    rw [Dev.setReg64, Dev.reg_setReg_of_ne hkey, Dev.reg_setReg h]
  have hhigh : (d.setReg64 feat o v).reg feat (o + 4) = hi32 v := Dev.reg_setReg hshape feat (o + 4) _
  rw [Dev.reg64, hlow, hhigh]
  simp only [lo32, hi32, word, BitVec.toNat_ofNat, Nat.shiftRight_eq_div_pow]
  omega

section
variable {m : Mach} {c : Cmd} {sq cid : Nat}

/-- The program that a DMA_RUN starts. -/
def Mach.dmaRunBegin (m : Mach) (c : Cmd) (sq cid : Nat) : Option Nat × Mach :=
  Mach.dmaBegin { m with dev := m.dev.keepRunning c } c.target (c.dw64 0) (m.dev.reg64 0x1F (0x40 * c.target + 0x18))
    (m.dev.reg64 0x1F (0x40 * c.target + 0x20)) (some (sq, cid))

/-- The shadow set that a DMA_RUN arms. -/
def Dev.dmaRunArmed (d : Dev) (c : Cmd) (sq cid : Nat) : Dev :=
  (((d.keepRunning c).setReg64 0x1F (0x40 * c.target + 0x10) (c.dw64 0)).setReg 0x1F (0x40 * c.target + 0x28) 1).onDma c.target
    (fun x => { x with armCmd := some (sq, cid) })

/-- What DMA_RUN does. -/
def Mach.dmaRun (m : Mach) (c : Cmd) (sq cid : Nat) : Mach :=
  if 32 ≤ c.target then m.refuse c 4
  else if c.dw64 0 % 32 ≠ 0 ∨ 2 ^ 40 ≤ c.dw64 0 then m.refuse c 32
  else if !m.dev.takesWork (24 + c.target / 8) then m.refuse c 4
  else if (m.dev.dmaCh c.target).state = .idle then
    match m.dmaRunBegin c sq cid with
    | (none, m1) => m1
    | (some code, m1) => m1.dmaEnd c.target code
  else if bit (m.dev.reg 0x1F (0x40 * c.target + 0x28)).toNat 0 then m.refuse c 4
  else { m with dev := m.dev.dmaRunArmed c sq cid }

variable (hch : c.target < 32) (halign : c.dw64 0 % 32 = 0) (hmax : c.dw64 0 < 2 ^ 40) (hw : m.dev.takesWork (24 + c.target / 8) = true)
include hch halign hmax hw

theorem Mach.dmaRun_of_idle (hidle : (m.dev.dmaCh c.target).state = .idle) (hgo : (m.dmaRunBegin c sq cid).1 = none) :
    m.dmaRun c sq cid = (m.dmaRunBegin c sq cid).2 := by
  unfold Mach.dmaRun
  rw [if_neg (by omega), if_neg (by omega), if_neg (by rw [hw]; decide), if_pos hidle]
  generalize m.dmaRunBegin c sq cid = x at hgo
  obtain ⟨_ | code, m1⟩ := x
  · rfl
  · exact absurd hgo (Option.some_ne_none code)

theorem Mach.dmaRun_of_busy (hbusy : (m.dev.dmaCh c.target).state ≠ .idle)
    (harm : bit (m.dev.reg 0x1F (0x40 * c.target + 0x28)).toNat 0 = false) :
    m.dmaRun c sq cid = { m with dev := m.dev.dmaRunArmed c sq cid } := by
  unfold Mach.dmaRun
  rw [if_neg (by omega), if_neg (by omega), if_neg (by rw [hw]; decide), if_neg hbusy, if_neg (by rw [harm]; decide)]

end

/-- The shadow registers and ARM as a DMA_RUN leaves them. -/
theorem Dev.dmaRunArmed_reg {d : Dev} {c : Cmd} (h : d.Shape) (hmax : c.dw64 0 < 2 ^ 40) (sq cid : Nat) :
    (d.dmaRunArmed c sq cid).reg 0x1F (0x40 * c.target + 0x28) = 1 ∧
    (d.dmaRunArmed c sq cid).reg64 0x1F (0x40 * c.target + 0x10) = c.dw64 0 := by
  have hrun : (d.keepRunning c).Shape := (Dev.keepRunning_tame (ps := setOf [.commands]) (by decide) (.refl _ d) c).shape h
  have hset : ((d.keepRunning c).setReg64 0x1F (0x40 * c.target + 0x10) (c.dw64 0)).Shape :=
    (Dev.setReg64_tame (ps := setOf [.feat 0x1F]) (by decide) (.refl _ _)).shape hrun
  have hkey (o : Nat) (ho : o ≠ 0x28) (hlt : o < 0x40) : regKey 0x1F (0x40 * c.target + o) ≠ regKey 0x1F (0x40 * c.target + 0x28) := by
    simp only [regKey]
    omega
  refine ⟨Dev.reg_setReg hset 0x1F _ 1, ?_⟩
  have hread (o : Nat) (ho : o ≠ 0x28) (hlt : o < 0x40) : (d.dmaRunArmed c sq cid).reg 0x1F (0x40 * c.target + o) =
      ((d.keepRunning c).setReg64 0x1F (0x40 * c.target + 0x10) (c.dw64 0)).reg 0x1F (0x40 * c.target + o) :=
    Dev.reg_setReg_of_ne (hkey o ho hlt)
  rw [Dev.reg64, hread 0x10 (by decide) (by decide), hread 0x14 (by decide) (by decide)]
  exact Dev.reg64_setReg64 hrun 0x1F (0x40 * c.target + 0x10) (c.dw64 0) (by omega)

/-- What arming leaves: the commands as the DMA_RUN set them, and the channel's armed command. -/
theorem Dev.dmaRunArmed_tame (d : Dev) (c : Cmd) (sq cid : Nat) : Dev.Tame (setOf [.dma, .feat 0x1F]) (d.keepRunning c) (d.dmaRunArmed c sq cid) := by
  refine Dev.onDma_tame (by decide) ?_ c.target _
  exact Dev.setReg_tame (by decide) (Dev.setReg64_tame (by decide) (.refl _ _))

theorem Dev.dmaRunArmed_armCmd {d : Dev} {c : Cmd} (hch : c.target < d.dma.length) (sq cid : Nat) :
    ((d.dmaRunArmed c sq cid).dmaCh c.target).armCmd = some (sq, cid) :=
  congrArg DmaCh.armCmd (Dev.dmaCh_onDma_same (d := ((d.keepRunning c).setReg64 0x1F (0x40 * c.target + 0x10) (c.dw64 0)).setReg 0x1F
    (0x40 * c.target + 0x28) 1) hch (fun x => { x with armCmd := some (sq, cid) }))

/-! ### The clauses -/

/-- The parts that a channel's program may change. -/
abbrev dmaParts : List Part :=
  [.seq, .stats, .commands, .events, .errorLog, .flt, .bbx, .link, .dram, .dma, .hostMem, .dramMem, .feat 0x1E, .feat 0x1F]

section
variable {s : State} {ch : Nat} (hl : s.Live) (hshape : s.m.dev.Shape) (hch : ch < 32)
include hl hshape hch

theorem dmaEventRelease_yields {v : Nat} (hw : (s.m.dev.dmaCh ch).state = .waiting) (hr : (s.m.dev.dmaCh ch).released = true)
    (hv : (s.m.dev.dmaCh ch).waitEvent = v) (hothers : ∀ k, k ≠ ch → (s.m.dev.dmaCh k).state ≠ .waiting)
    (hgo : (s.m.dmaArrive ch ((s.m.dev.dmaCh ch).index + 1)).1 = none) :
    Yields (.dmaEventRelease v) s dmaParts (fun t => (t.m.dev.dmaCh ch).state = .running ∧
      (t.m.dev.dmaCh ch).index = (s.m.dev.dmaCh ch).index + 1 ∧ t.m.mem = s.m.mem) := by
  refine yields_of_live (f := fun m => (List.range 32).foldl (releaseStep v) m) hl rfl (execDmaEventRelease_framed v s) (by decide) ?_
  have hlt := Dev.lt_dma_of_shape hshape hch
  obtain ⟨hchan, hmem, -⟩ := Mach.dmaGo_leaves hlt hgo
  simp only [foldl_releaseStep hch hlt hw hr hv hothers hgo, Dev.settle_dmaCh, hchan, hmem]
  exact ⟨rfl, rfl, trivial⟩

theorem waitTimeout_yields {t0 : Nat} {k : Nat × Nat} {c : Cmd} (hw : (s.m.dev.dmaCh ch).state = .waiting)
    (hr : (s.m.dev.dmaCh ch).released = false) (ht : (s.m.dev.dmaCh ch).waitUntil = some t0)
    (harm : bit (s.m.dev.reg 0x1F (0x40 * ch + 0x28)).toNat 0 = false) (hcmd : (s.m.dev.dmaCh ch).cmd = some k)
    (hk : s.m.dev.cmd k.1 k.2 = some c) :
    Yields (.waitTimeout ch) s [.clk, .seq, .stats, .commands, .events, .errorLog, .flt, .bbx, .sid, .link, .dram, .dma, .hostMem, .dramMem,
        .feat 0x1E, .feat 0x1F] (fun t => (t.m.dev.dmaCh ch).state = .idle ∧ t.m.dev.clk = max s.m.dev.clk t0 ∧
      t.Ends k.1 k.2 Status.ok ((s.m.dev.dmaCh ch).statusWord 2 % 2 ^ 32)) := by
  have he : exec (.waitTimeout ch) s = live (fun m => Mach.dmaEnd { m with dev := m.dev.advanceTo t0 } ch 2) s := by
    show execWaitTimeout ch s = _
    unfold execWaitTimeout
    refine live_congr ?_
    rw [ht]
    exact if_pos ⟨hw, by rw [hr]; rfl⟩
  have htame := s.m.dev.advanceTo_tame_self t0
  have hdma : (s.m.dev.advanceTo t0).dma = s.m.dev.dma := htame.same .dma (by decide)
  have hchan : (s.m.dev.advanceTo t0).dmaCh ch = s.m.dev.dmaCh ch := by simp only [Dev.dmaCh, hdma]
  obtain ⟨hidle, hends, -⟩ := dmaEnd_leaves (s := s) (n := { s.m with dev := s.m.dev.advanceTo t0 }) (ch := ch) (code := 2) (k := k) (c := c)
    (by rw [hdma]; exact Dev.lt_dma_of_shape hshape hch) ((Dev.cmd_of_cmds (htame.cmds_eq (by decide)) ..).trans hk) (by rw [hchan, hcmd])
    (by decide) (by rw [htame.reg_eq (f := 0x1F) (by decide) (by decide)]; exact harm)
  refine yields_of_live hl he (execWaitTimeout_framed ch s) (by decide) ⟨hidle, ?_, ?_⟩
  · rw [Dev.settle_clk]
    refine Eq.trans ?_ (Dev.advanceTo_clk s.m.dev t0)
    exact (Mach.dmaEnd_tame_dev (ps := setOf [.free, .seq, .stats, .commands, .events, .errorLog, .msix, .flt, .intr, .twk, .bbx, .link, .dram,
      .dma, .sent, .feat 0x1E, .feat 0x1F]) (by decide) (.refl _ (s.m.dev.advanceTo t0)) ch 2).clk_eq (by decide)
  · rw [hchan] at hends
    exact hends

end

/-- The device with a channel's shadow set withdrawn. -/
def Dev.disarmed (d : Dev) (ch : Nat) : Dev := (d.setReg 0x1F (0x40 * ch + 0x28) 0).onDma ch (fun x => { x with armCmd := none })

theorem Dev.disarmed_armCmd {d : Dev} {ch : Nat} (h : d.Shape) (hch : ch < 32) : ((d.disarmed ch).dmaCh ch).armCmd = none := by
  have hshape : (d.setReg 0x1F (0x40 * ch + 0x28) 0).Shape := (Dev.setReg_tame (ps := setOf [.feat 0x1F]) (by decide) (.refl _ d)).shape h
  rw [Dev.disarmed, Dev.dmaCh_onDma_same (Dev.lt_dma_of_shape hshape hch)]

section
variable {s : State} {ch : Nat} (hl : s.Live) (hch : ch < 32) (hp : s.m.dev.powered (24 + ch / 8) = true)
include hl hch hp

/-- ARM of a channel whose domain works is written. -/
theorem dmaArm_yields {v : Bool} {P : State → Prop} (hP : P (s.settledAt (s.m.dmaArm ch v))) : Yields (.dmaArm ch v) s dmaParts P := by
  refine yields_of_live (f := fun m => onlyIf (decide (ch < 32) && m.dev.powered (24 + ch / 8)) (fun m => m.dmaArm ch v) m) hl rfl
    (execDmaArm_framed ch v s) (by decide) ?_
  rw [onlyIf_of_true (by rw [hp, decide_eq_true hch]; rfl)]
  exact hP

variable (hshape : s.m.dev.Shape)
include hshape

theorem dmaArm_set_yields (hbusy : (s.m.dev.dmaCh ch).state ≠ .idle) :
    Yields (.dmaArm ch true) s dmaParts (fun t => t.m.dev.reg 0x1F (0x40 * ch + 0x28) = 1 ∧ t.m.mem = s.m.mem) := by
  have hstays : s.m.dmaArm ch true = { s.m with dev := s.m.dev.setReg 0x1F (0x40 * ch + 0x28) 1 } := by
    rw [Mach.dmaArm, if_pos rfl, Mach.dmaHandOver]
    refine if_neg ?_
    rw [Bool.and_eq_true, decide_eq_true_eq]
    exact fun h => hbusy h.2
  refine dmaArm_yields hl hch hp ?_
  rw [hstays, State.settledAt, Dev.settle_reg]
  exact ⟨Dev.reg_setReg hshape .., rfl⟩

theorem dmaArm_clear_yields :
    Yields (.dmaArm ch false) s dmaParts (fun t => t.m.dev.reg 0x1F (0x40 * ch + 0x28) = 0 ∧ (t.m.dev.dmaCh ch).armCmd = none ∧
      t.m.mem = s.m.mem) := by
  refine dmaArm_yields hl hch hp ?_
  have hcomplete (d : Dev) (sq cid : Nat) : (d.complete sq cid Status.aborted 0).dma = d.dma :=
    (Dev.complete_tame (ps := setOf [.seq, .commands, .errorLog]) (by decide) (.refl _ d) sq cid Status.aborted 0 {}).same .dma (by decide)
  have hout : ∃ d, s.m.dmaArm ch false = { s.m with dev := d } ∧ d.dma = (s.m.dev.disarmed ch).dma ∧ d.regs = (s.m.dev.disarmed ch).regs := by
    rw [Mach.dmaArm, if_neg Bool.false_ne_true]
    dsimp only
    split
    · exact ⟨_, rfl, hcomplete .., Dev.complete_regs ..⟩
    · exact ⟨_, rfl, rfl, rfl⟩
  obtain ⟨d, heq, hdma, hregs⟩ := hout
  have hchan : d.dmaCh ch = (s.m.dev.disarmed ch).dmaCh ch := by simp only [Dev.dmaCh, hdma]
  have hreg : d.reg 0x1F (0x40 * ch + 0x28) = (s.m.dev.disarmed ch).reg 0x1F (0x40 * ch + 0x28) := by simp only [Dev.reg, hregs]
  rw [heq, State.settledAt]
  simp only [Dev.settle_reg, Dev.settle_dmaCh, hchan, hreg]
  exact ⟨Dev.reg_setReg hshape .., Dev.disarmed_armCmd hshape hch, trivial⟩

end

theorem dmaEventSet_yields {s : State} (hl : s.Live) (mask : Nat) (hnone : ∀ k, (s.m.dev.dmaCh k).state ≠ .waiting) :
    Yields (.dmaEventSet mask) s [.dma, .dmaEvents] (fun t => ∀ v, v < 64 →
      bit t.m.dev.dmaEvents v = (bit s.m.dev.dmaEvents v || (decide (8 ≤ v) && bit mask v))) := by
  refine yields_of_liveDev (f := fun d => (List.range 64).foldl (setFlagStep mask) d) hl rfl (execDmaEventSet_framed mask s) (by decide) ?_
  intro v hv
  rw [Dev.settle_dmaEvents, foldl_setFlagStep mask _ _ hnone, decide_eq_true (List.mem_range.2 hv), Bool.true_and]

section
variable {s : State} {sq cid : Nat} {c : Cmd}

/-- A DMA_RUN that has started is set running, at the program's start and when it is armed. -/
theorem State.Runs.keptRunning {op : Nat} (hr : s.Runs sq cid op c) : ∃ k, (s.m.dev.keepRunning c).cmd sq cid = some k ∧ k.phase = .running := by
  obtain ⟨-, hcmd, -⟩ := hr
  obtain ⟨rfl, rfl, -⟩ := Dev.cmd_key hcmd
  exact ⟨_, Dev.cmd_keepRunning hcmd, rfl⟩

variable (hr : s.Runs sq cid 0x68 c) (hshape : s.m.dev.Shape) (hch : c.target < 32) (halign : c.dw64 0 % 32 = 0) (hmax : c.dw64 0 < 2 ^ 40)
  (hw : s.m.dev.takesWork (24 + c.target / 8) = true)
include hr hshape hch halign hmax hw

theorem dmaRun_start_yields (hidle : (s.m.dev.dmaCh c.target).state = .idle)
    (hgo : (s.m.dmaBegin c.target (c.dw64 0) (s.m.dev.reg64 0x1F (0x40 * c.target + 0x18)) (s.m.dev.reg64 0x1F (0x40 * c.target + 0x20))
      (some (sq, cid))).1 = none) :
    Yields (.dmaRun sq cid) s dmaParts (fun t => t.GoesOn sq cid ∧ (t.m.dev.dmaCh c.target).state = .running ∧
      (t.m.dev.dmaCh c.target).prog = c.dw64 0 ∧ (t.m.dev.dmaCh c.target).index = 0 ∧ (t.m.dev.dmaCh c.target).cmd = some (sq, cid)) := by
  have hlt := Dev.lt_dma_of_shape hshape hch
  have hbegin : (s.m.dmaRunBegin c sq cid).1 = none :=
    Mach.dmaBegin_goes_congr (m := s.m) (n := { s.m with dev := s.m.dev.keepRunning c }) ⟨rfl, rfl, rfl⟩ hlt hlt hgo
  obtain ⟨hchan, hhost⟩ := Mach.dmaBegin_leaves (m := { s.m with dev := s.m.dev.keepRunning c }) hlt hbegin
  obtain ⟨k, hk, hphase⟩ := hr.keptRunning
  refine yields_of_goesOn (f := fun c m => m.dmaRun c sq cid) hr rfl (execDmaRun_framed sq cid s) (by decide)
    (Mach.dmaRun_of_idle hch halign hmax hw hidle hbegin) (k := k) ?_ hphase ?_
  · exact (Dev.cmd_of_cmds (congrArg HostIf.cmds hhost) ..).trans hk
  · have hstarted : ((s.m.dmaRunBegin c sq cid).2.dev.dmaCh c.target) =
        ((s.m.dev.dmaCh c.target).begun (c.dw64 0) (s.m.dev.reg64 0x1F (0x40 * c.target + 0x18)) (s.m.dev.reg64 0x1F (0x40 * c.target + 0x20))
          (some (sq, cid))).arrived 0 := hchan
    simp only [State.settledAt, Dev.settle_dmaCh, hstarted]
    exact ⟨rfl, rfl, rfl, rfl⟩

theorem dmaRun_arm_yields (hbusy : (s.m.dev.dmaCh c.target).state ≠ .idle)
    (harm : bit (s.m.dev.reg 0x1F (0x40 * c.target + 0x28)).toNat 0 = false) :
    Yields (.dmaRun sq cid) s dmaParts (fun t => t.GoesOn sq cid ∧ t.m.dev.reg 0x1F (0x40 * c.target + 0x28) = 1 ∧
      t.m.dev.reg64 0x1F (0x40 * c.target + 0x10) = c.dw64 0 ∧ (t.m.dev.dmaCh c.target).armCmd = some (sq, cid)) := by
  obtain ⟨k, hk, hphase⟩ := hr.keptRunning
  obtain ⟨hset, hprog⟩ := Dev.dmaRunArmed_reg (c := c) hshape hmax sq cid
  refine yields_of_goesOn (f := fun c m => m.dmaRun c sq cid) hr rfl (execDmaRun_framed sq cid s) (by decide)
    (Mach.dmaRun_of_busy hch halign hmax hw hbusy harm) (k := k) ?_ hphase ?_
  · exact (Dev.cmd_of_cmds ((s.m.dev.dmaRunArmed_tame c sq cid).cmds_eq (by decide)) ..).trans hk
  · simp only [State.settledAt, Dev.settle_reg, Dev.settle_reg64, Dev.settle_dmaCh]
    exact ⟨hset, hprog, Dev.dmaRunArmed_armCmd (Dev.lt_dma_of_shape hshape hch) sq cid⟩

end

/-- Settles O22: the channel that waits goes on or ends; ARM is written and withdrawn; the flags of a mask are set; DMA_RUN starts its program
or arms it. -/
theorem dmaStart : Obligations.DmaStart := by
  intro s ch hl hshape hch
  refine ⟨fun v hw hr hv hothers hgo => dmaEventRelease_yields hl hshape hch hw hr hv hothers hgo,
    fun t0 k c hw hr ht harm hcmd hk _ => waitTimeout_yields hl hshape hch hw hr ht harm hcmd hk,
    fun hp hbusy => dmaArm_set_yields hl hch hp hshape hbusy, fun hp => dmaArm_clear_yields hl hch hp hshape,
    fun mask hnone => dmaEventSet_yields hl mask hnone, ?_⟩
  rintro sq cid c hr - rfl halign hmax hw
  exact ⟨fun hidle hgo => dmaRun_start_yields hr hshape hch halign hmax hw hidle hgo,
    fun hbusy harm => dmaRun_arm_yields hr hshape hch halign hmax hw hbusy harm⟩

end Sys2Proof.Machine
end

section
/-! Sidereal time: TIME_SET, the end of a slew, the PPS pins and the loss of lock (R438, R488 to R492). -/

namespace Sys2Proof.Machine
open Sys2Proof

@[simp] theorem Mach.complete_sid (m : Mach) (c : Cmd) (status result : Nat) (e : ErrInfo) :
    (m.complete c status result e).dev.sid = m.dev.sid :=
  (m.complete_tame c status result e).same .sid (by decide)

theorem Dev.record_sid (d : Dev) (r : BbxRegion) (kind cls code arg : Nat) (data : List Byte) : (d.record r kind cls code arg data).sid = d.sid :=
  (Dev.record_tame (ps := setOf [.seq, .bbx]) (by decide) (.refl _ d) r kind cls code arg data).same .sid (by decide)

/-- The counter is what the sidereal state and the crystal say. -/
theorem Dev.sdt_congr {d e : Dev} (hsid : e.sid = d.sid) (hclk : e.clk = d.clk) : e.sdt = d.sdt := by
  simp only [Dev.sdt, hsid, hclk]

section
variable {s : State} {sq cid : Nat} {c : Cmd} (hr : s.Runs sq cid 0x18 c)

/-! ### STEP (R438, R490) -/

/-- The instant that a TIME_SET names. -/
def Cmd.instant (c : Cmd) : Nat := 2 ^ 32 * c.dw 3 + c.dw 2

/-- The device after a STEP to an instant. -/
def Dev.stepped (d : Dev) (target : Nat) : Dev := (d.stepBy ((target : Int) - d.sdt)).onSid (fun t => { t with set := true })

theorem Dev.stepped_sid (d : Dev) (target : Nat) : (d.stepped target).sid = { d.sid with und := target, slew := none, set := true } := by
  have hshift : shift d.sdt ((target : Int) - d.sdt) = target := by
    unfold shift
    omega
  have hstep : (d.stepBy ((target : Int) - d.sdt)).sid = { d.sid with und := target, slew := none } := by
    rw [Dev.stepBy, Dev.record_sid, hshift]
    rfl
  rw [Dev.stepped]
  exact congrArg (fun t : Sidereal => { t with set := true }) hstep

theorem Dev.stepped_tame (d : Dev) (target : Nat) : Dev.Tame (setOf [.seq, .bbx, .sid, .tick, .feat 0x01]) d (d.stepped target) := by
  refine Dev.onSid_tame (by decide) ?_ _
  exact Dev.stepBy_tame (by decide) (.refl _ d) _

include hr

theorem step_yields (hop : c.dw 0 % 4 = 0) (href : s.m.dev.timeSetRefused = false) (hcap : s.m.dev.anyCapture = false) :
    Yields (.step sq cid) s [.seq, .commands, .errorLog, .admission, .bbx, .sid, .tick, .feat 0x01] (fun t => t.Ends sq cid Status.ok 0 ∧
      t.m.dev.sdt = c.instant ∧ t.m.dev.sid.set = true ∧ t.m.dev.sid.slew = none) := by
  refine yields_of_completion (m := { s.m with dev := s.m.dev.stepped c.instant }) (result := 0) (e := {}) hr rfl (execStep_framed sq cid s)
    (by decide) ?_ (hr.cmd_of_cmds ((s.m.dev.stepped_tame _).cmds_eq (by decide))) ?_
  · rw [if_neg (not_not_intro hop), href, hcap]
    rfl
  · have hsid : (Mach.complete { s.m with dev := s.m.dev.stepped c.instant } c Status.ok 0).dev.sid =
        { s.m.dev.sid with und := c.instant, slew := none, set := true } := (Mach.complete_sid ..).trans (Dev.stepped_sid ..)
    simp only [State.settledAt, Dev.settle_sid, Dev.sdt, hsid, and_self]

theorem step_denied_yields (hop : c.dw 0 % 4 = 0) (href : s.m.dev.timeSetRefused = false) (hcap : s.m.dev.anyCapture = true) :
    Yields (.step sq cid) s [.seq, .commands, .errorLog, .admission, .bbx, .sid, .tick, .feat 0x01] (fun t =>
      t.Ends sq cid Status.admissionDenied 0 ∧ t.m.dev.sid = s.m.dev.sid) := by
  refine yields_of_completion (m := { s.m with dev := s.m.dev.noteDenied 13 noStream 0 0 }) (result := 0) (e := { needed := 0, available := 0 }) hr rfl (execStep_framed sq cid s)
    (by decide) ?_ (hr.cmd_of_cmds rfl) ?_
  · rw [if_neg (not_not_intro hop), href, hcap]
    rfl
  · simp only [State.settledAt, Dev.settle_sid, Mach.complete_sid]
    rfl

end

/-! ### SLEW (R438) -/

/-- The signed offset that a TIME_SET SLEW names. -/
def Cmd.slewOffset (c : Cmd) : Int := if c.instant < 2 ^ 63 then (c.instant : Int) else (c.instant : Int) - 2 ^ 64

/-- The slew that a TIME_SET begins. -/
def Dev.newSlew (d : Dev) (c : Cmd) : Slew := { from_ := d.clk, offset := c.slewOffset, ppb := 1 + Config.slewPpb d.free % 500000 }

/-- The device with a slew begun, its first setting of the counter recorded. -/
def Dev.slewed (d : Dev) (c : Cmd) : Dev :=
  let e := (d.onSid (fun t => { t with und := d.sdt, set := true, slew := some (d.newSlew c) })).afterDraw
  if !d.sid.set then e.record .main 9 0xFF 0 0 (leBytes 8 d.sdt ++ leBytes 8 d.sdt) else e

/-- A slew has added nothing when it begins. -/
theorem Slew.added_from (w : Slew) : w.added w.from_ = 0 := by
  unfold Slew.added
  simp only [Nat.sub_self, Nat.zero_mul, Nat.mul_zero, Nat.zero_div]
  split
  next h => exact Int.natAbs_eq_zero.1 (Nat.le_zero.1 h)
  next => split <;> rfl

theorem Dev.slewed_sid_clk (d : Dev) (c : Cmd) :
    (d.slewed c).sid = { d.sid with und := d.sdt, set := true, slew := some (d.newSlew c) } ∧ (d.slewed c).clk = d.clk := by
  unfold Dev.slewed
  dsimp only
  split
  · exact ⟨Dev.record_sid .., (Dev.record_tame (ps := setOf [.seq, .bbx]) (by decide) (.refl _ _) ..).clk_eq (by decide)⟩
  · exact ⟨rfl, rfl⟩

theorem Dev.slewed_tame (d : Dev) (c : Cmd) : Dev.Tame (setOf [.free, .seq, .bbx, .sid]) d (d.slewed c) := by
  unfold Dev.slewed
  dsimp only
  have hslew : Dev.Tame (setOf [.free, .seq, .bbx, .sid]) d
      (d.onSid (fun t => { t with und := d.sdt, set := true, slew := some (d.newSlew c) })).afterDraw :=
    Dev.afterDraw_tame (by decide) (Dev.onSid_tame (by decide) (.refl _ d) _)
  split
  · exact Dev.record_tame (by decide) hslew ..
  · exact hslew

theorem slew_yields {s : State} {sq cid : Nat} {c : Cmd} (hr : s.Runs sq cid 0x18 c) (hop : c.dw 0 % 4 = 1)
    (href : s.m.dev.timeSetRefused = false) :
    Yields (.slew sq cid) s [.seq, .commands, .errorLog, .bbx, .sid] (fun t => t.Ends sq cid Status.ok 0 ∧ t.m.dev.sdt = s.m.dev.sdt ∧
      t.m.dev.sid.set = true ∧ ∃ w, t.m.dev.sid.slew = some w ∧ w.from_ = s.m.dev.clk ∧ 0 < w.ppb ∧ w.ppb ≤ 500000 ∧
        w.offset = c.slewOffset) := by
  refine yields_of_completion (m := { s.m with dev := s.m.dev.slewed c }) (result := 0) (e := {}) hr rfl (execSlew_framed sq cid s)
    (by decide) ?_ (hr.cmd_of_cmds ((s.m.dev.slewed_tame c).cmds_eq (by decide))) ?_
  · rw [if_neg (not_not_intro hop), href]
    rfl
  · obtain ⟨hslewed, hclk⟩ := s.m.dev.slewed_sid_clk c
    have hsid : (Mach.complete { s.m with dev := s.m.dev.slewed c } c Status.ok 0).dev.sid =
        { s.m.dev.sid with und := s.m.dev.sdt, set := true, slew := some (s.m.dev.newSlew c) } := (Mach.complete_sid ..).trans hslewed
    have hnow : (Mach.complete { s.m with dev := s.m.dev.slewed c } c Status.ok 0).dev.clk = (s.m.dev.newSlew c).from_ :=
      (Mach.complete_clk ..).trans hclk
    have hadded := (s.m.dev.newSlew c).added_from
    have hsdt : (Mach.complete { s.m with dev := s.m.dev.slewed c } c Status.ok 0).dev.sdt = s.m.dev.sdt := by
      rw [Dev.sdt, hsid, hnow]
      dsimp only
      rw [hadded, add_zero, Int.toNat_natCast]
    rw [State.settledAt, Dev.settle_sdt, Dev.settle_sid, hsid, hsdt]
    refine ⟨rfl, rfl, s.m.dev.newSlew c, rfl, rfl, ?_, ?_, rfl⟩
    · exact Nat.add_pos_left Nat.one_pos _
    · have := Nat.mod_lt (Config.slewPpb s.m.dev.free) (show 0 < 500000 by decide)
      show 1 + Config.slewPpb s.m.dev.free % 500000 ≤ 500000
      omega

section
variable {s : State} (hl : s.Live)
include hl

theorem slewEnd_yields {w : Slew} (hw : s.m.dev.sid.slew = some w) :
    Yields .slewEnd s [.clk, .sid] (fun t => t.m.dev.sid.slew = none ∧ t.m.dev.clk = max s.m.dev.clk (w.from_ + w.duration) ∧
      t.m.dev.sid.und = shift (s.m.dev.advanceTo (w.from_ + w.duration)).sid.und w.offset) := by
  have he : exec .slewEnd s = liveDev (fun d => (d.advanceTo (w.from_ + w.duration)).onSid (fun t =>
      { t with und := shift t.und w.offset, slew := none })) s := by
    show execSlewEnd s = _
    unfold execSlewEnd
    refine liveDev_congr ?_
    rw [hw]
  refine yields_of_liveDev hl he (execSlewEnd_framed s) (by decide) ?_
  simp only [Dev.settle_sid, Dev.settle_clk]
  exact ⟨rfl, Dev.advanceTo_clk .., rfl⟩

/-! ### The PPS pins (R491) -/

/-- What an edge of PPS_IN that does not steer the counter leaves. -/
def Dev.ppsTaken (d : Dev) : Dev := (((d.onSid (fun t => { t with ppsIn := d.sdt })).eventOccurs 1).fireInt 9).fireInt 1013

omit hl in
theorem Dev.ppsTaken_sid_clk (d : Dev) : d.ppsTaken.sid.ppsIn = d.sdt ∧ d.ppsTaken.clk = d.clk := by
  have hdma (e : Dev) : (e.eventOccurs 1).sid = e.sid ∧ (e.eventOccurs 1).clk = e.clk := by
    have htame := Dev.eventOccurs_tame (ps := setOf [.dma]) (by decide) (.refl _ e) 1
    exact ⟨htame.same .sid (by decide), htame.clk_eq (by decide)⟩
  rw [Dev.ppsTaken, Dev.fireInt_sid, Dev.fireInt_sid, Dev.fireInt_clk, Dev.fireInt_clk, (hdma _).1, (hdma _).2]
  exact ⟨rfl, rfl⟩

/-- What PPS_IN does with an edge now. -/
def Dev.ppsEdge (d : Dev) : Dev :=
  if decide (d.discipline = 3) && decide (100000 < (fromSecond d.sdt).natAbs) then d.bump 0x01 0x020
  else if decide (d.discipline = 3) then d.ppsTaken.measure (fromSecond d.sdt) else d.ppsTaken

/-- PPS_OUT rises for second `n`, when the counter reaches the instant `t`; it is held low while SET is 0. -/
def Dev.ppsRisen (d : Dev) (n t : Nat) : Dev :=
  (d.advanceToSid t).onSid (fun x => { x with ppsSecond := n, ppsOut := if x.set then some (d.advanceToSid t).clk else none })

theorem ppsInEdge_yields {dt : Nat} {P : State → Prop} (hP : P (s.settledAt { s.m with dev := (s.m.dev.advance dt).ppsEdge })) :
    Yields (.ppsInEdge dt) s [.clk, .seq, .commands, .events, .bbx, .sid, .tick, .dma, .feat 0x01] P :=
  yields_of_liveDev (f := fun d => (d.advance dt).ppsEdge) hl rfl (execPpsInEdge_framed dt s) (by decide) hP

theorem ppsInEdge_noted_yields {dt : Nat} (hd : s.m.dev.discipline ≠ 3) :
    Yields (.ppsInEdge dt) s [.clk, .seq, .commands, .events, .bbx, .sid, .tick, .dma, .feat 0x01] (fun t =>
      t.m.dev.sid.ppsIn = (s.m.dev.advance dt).sdt ∧ t.m.dev.clk = s.m.dev.clk + dt) := by
  have hd' : (s.m.dev.advance dt).discipline ≠ 3 := hd
  refine ppsInEdge_yields hl ?_
  obtain ⟨hin, hclk⟩ := (s.m.dev.advance dt).ppsTaken_sid_clk
  rw [Dev.ppsEdge, decide_eq_false hd', Bool.false_and, if_neg Bool.false_ne_true, if_neg Bool.false_ne_true, State.settledAt, Dev.settle_sid,
    Dev.settle_clk, hin, hclk]
  exact ⟨rfl, rfl⟩

theorem ppsInEdge_far_yields {dt : Nat} (hd : s.m.dev.discipline = 3) (hfar : 100000 < (fromSecond (s.m.dev.advance dt).sdt).natAbs)
    (hshape : s.m.dev.Shape) :
    Yields (.ppsInEdge dt) s [.clk, .seq, .commands, .events, .bbx, .sid, .tick, .dma, .feat 0x01] (fun t =>
      t.m.dev.sid.ppsIn = s.m.dev.sid.ppsIn ∧ t.m.dev.reg 0x01 0x020 = word (satAdd32 (s.m.dev.reg 0x01 0x020).toNat 1)) := by
  have hd' : (s.m.dev.advance dt).discipline = 3 := hd
  have hshape' : (s.m.dev.advance dt).Shape := hshape
  refine ppsInEdge_yields hl ?_
  rw [Dev.ppsEdge, decide_eq_true hd', decide_eq_true hfar, Bool.and_self, if_pos rfl, State.settledAt, Dev.settle_sid, Dev.settle_reg]
  exact ⟨rfl, Dev.reg_bump hshape' 0x01 0x020 1⟩

omit hl in
/-- PPS_OUT at a second that the counter reaches at an instant. -/
theorem Dev.ppsRisen_sid_clk (d : Dev) (n t : Nat) :
    (d.ppsRisen n t).sid.ppsSecond = n ∧ (d.ppsRisen n t).sid.ppsOut = (if d.sid.set then some (d.ppsRisen n t).clk else none) ∧
      (d.ppsRisen n t).clk = d.clk + d.nsUntil t := ⟨rfl, rfl, rfl⟩

theorem ppsOutSecond_yields :
    Yields .ppsOutSecond s [.clk, .sid] (fun t => t.m.dev.sid.ppsSecond = s.m.dev.nextSecond ∧
      t.m.dev.sid.ppsOut = (if s.m.dev.sid.set then some t.m.dev.clk else none) ∧
      t.m.dev.clk = s.m.dev.clk + s.m.dev.nsUntil (2 ^ 32 * s.m.dev.nextSecond)) := by
  refine yields_of_liveDev (f := fun d => d.ppsRisen d.nextSecond (2 ^ 32 * d.nextSecond)) hl rfl (execPpsOutSecond_framed s) (by decide) ?_
  obtain ⟨hsecond, hout, hclk⟩ := s.m.dev.ppsRisen_sid_clk s.m.dev.nextSecond (2 ^ 32 * s.m.dev.nextSecond)
  rw [Dev.settle_sid, Dev.settle_clk]
  exact ⟨hsecond, hout, hclk⟩

theorem ppsOutFall_yields {t0 : Nat} (ht : s.m.dev.sid.ppsOut = some t0) :
    Yields .ppsOutFall s [.clk, .sid] (fun t => t.m.dev.sid.ppsOut = none ∧
      t.m.dev.clk = max s.m.dev.clk (t0 + 1000000 * fld (s.m.dev.reg 0x01 0x00C) 16 9)) := by
  have he : exec .ppsOutFall s = liveDev (fun d => (d.advanceTo (t0 + 1000000 * fld (d.reg 0x01 0x00C) 16 9)).onSid (fun t =>
      { t with ppsOut := none })) s := by
    show execPpsOutFall s = _
    unfold execPpsOutFall
    refine liveDev_congr ?_
    rw [ht]
  refine yields_of_liveDev hl he (execPpsOutFall_framed s) (by decide) ?_
  simp only [Dev.settle_sid, Dev.settle_clk]
  exact ⟨rfl, Dev.advanceTo_clk ..⟩

/-! ### The loss of lock (R489) -/

theorem timeUnlockTimeout_yields (hlock : s.m.dev.sid.locked = true) :
    Yields .timeUnlockTimeout s [.clk, .seq, .commands, .events, .sid] (fun t => t.m.dev.sid.locked = false ∧
      t.m.dev.clk = max s.m.dev.clk (3000000000 + s.m.dev.sid.measuredAt)) := by
  refine yields_of_liveDev (f := onlyIf s.m.dev.sid.locked (fun d => (d.advanceTo (3000000000 + d.sid.measuredAt)).unlock)) hl ?_
    (execTimeUnlockTimeout_framed s) (by decide) ?_
  · exact liveDev_congr rfl
  · have hlocked : (s.m.dev.advanceTo (3000000000 + s.m.dev.sid.measuredAt)).sid.locked = true := by
      rw [Dev.advanceTo]
      split
      · exact hlock
      · exact hlock
    have hpost (e : Dev) : (e.postEvent 0x06 1 0).sid = e.sid ∧ (e.postEvent 0x06 1 0).clk = e.clk := by
      have htame := Dev.postEvent_tame (ps := setOf [.seq, .commands, .events]) (by decide) (.refl _ e) 0x06 1 0
      exact ⟨htame.same .sid (by decide), htame.clk_eq (by decide)⟩
    rw [onlyIf_of_true hlock, Dev.unlock, if_pos hlocked, Dev.settle_sid, Dev.settle_clk, (hpost _).1, (hpost _).2]
    exact ⟨rfl, Dev.advanceTo_clk ..⟩

end

/-- Settles O23: a STEP and a SLEW leave the counter where they say; the PPS pins, and the loss of lock. -/
theorem siderealTime : Obligations.SiderealTime := by
  refine ⟨fun s => ⟨fun sq cid c hr hop href hcap => step_yields hr hop href hcap,
      fun sq cid c hr hop href hcap => step_denied_yields hr hop href hcap, fun sq cid c hr hop href => slew_yields hr hop href,
      fun w hl hw => slewEnd_yields hl hw⟩,
    fun s hl => ⟨fun dt hd => ppsInEdge_noted_yields hl hd, fun dt hd hfar hshape => ppsInEdge_far_yields hl hd hfar hshape,
      ppsOutSecond_yields hl, fun t0 ht => ppsOutFall_yields hl ht, fun hlock => timeUnlockTimeout_yields hl hlock⟩⟩

end Sys2Proof.Machine
end

section
/-! What each PTP message does on a port that is a slave, or that selects its master (R489, R495 to R497). -/

namespace Sys2Proof.Machine
open Sys2Proof

/-- What an Announce leaves of the PTP state of its port: the better one of it and the best one so far (R495). -/
def PtpPort.heard (a : Announce) (p : PtpPort) : PtpPort :=
  match p.best with
  | some b => if announceBetter b a then p else { p with best := some a }
  | none => { p with best := some a }

/-- What the announce receipt timeout leaves of the PTP state of its port. -/
def PtpPort.forsaken (p : PtpPort) : PtpPort := { p with best := none, syncAt := none, reqAt := none }

section
variable {d : Dev} {e : Nat}

/-- An Ethernet port of the device is the one that a change of it leaves. -/
theorem Dev.ethPort_onEth_same (h : e < d.eth.length) (f : EthPort → EthPort) : (d.onEth e f).ethPort e = f (d.ethPort e) :=
  (modAt_getD d.eth e e f {} (.inr (.inl h))).trans (if_pos rfl)

theorem Dev.ptp_onPtp_same (h : e < d.eth.length) (f : PtpPort → PtpPort) : ((d.onPtp e f).ethPort e).ptp = f (d.ethPort e).ptp :=
  congrArg EthPort.ptp (Dev.ethPort_onEth_same h _)

theorem Dev.onPtp_eth_length (f : PtpPort → PtpPort) : (d.onPtp e f).eth.length = d.eth.length := modAt_length ..

theorem Dev.lt_eth_of_shape (h : d.Shape) (he : e < 2) : e < d.eth.length := by
  obtain ⟨-, hlen, -⟩ := h
  rw [hlen]
  exact he

theorem Dev.lt_two_of_ptpRuns (h : d.ptpRuns e = true) : e < 2 := by
  simp only [Dev.ptpRuns, Bool.and_eq_true, decide_eq_true_eq] at h
  exact h.1.1.1

theorem Dev.ptpRuns_of_ptpSlave (h : d.ptpSlave e = true) : d.ptpRuns e = true := by
  simp only [Dev.ptpSlave, Bool.and_eq_true] at h
  exact h.1.1

/-- A Sync measured while the path delay is unknown leaves its offset (R497). -/
theorem Dev.ptpMeasured_of_no_delay (h : (d.ethPort e).ptp.delay = none) (t1 t2 : Nat) : d.ptpMeasured e t1 t2 =
    d.onPtp e (fun p => { p with t21 := some ((nsOfUnits t2 : Int) - nsOfUnits t1), syncAt := none }) := by
  unfold Dev.ptpMeasured
  rw [h]

/-- Best master selection changes the state of its port alone. -/
theorem Dev.ptpSelect_ptp (h : e < d.eth.length) : ∃ st, ((d.ptpSelect e).ethPort e).ptp = { (d.ethPort e).ptp with portState := st } :=
  ⟨_, Dev.ptp_onPtp_same h _⟩

end

/-! ### The clauses -/

section
variable {s : State} {e dt : Nat} (hl : s.Live) (hshape : s.m.dev.Shape)
include hl hshape

section
variable (hs : (s.m.dev.advance dt).ptpSlave e = true)
include hs

omit hl in
/-- The port of a slave is one of the device's two. -/
theorem lt_eth_of_ptpSlave : e < (s.m.dev.advance dt).eth.length :=
  Dev.lt_eth_of_shape (d := s.m.dev.advance dt) hshape (Dev.lt_two_of_ptpRuns (Dev.ptpRuns_of_ptpSlave hs))

theorem ptpSync_twoStep_yields (seqId t1 : Nat) :
    Yields (.ptpSync e dt seqId t1 true) s [.clk, .seq, .commands, .events, .bbx, .sid, .tick, .eth, .feat 0x01] (fun t =>
      (t.m.dev.ethPort e).ptp.syncAt = some (seqId, (s.m.dev.advance dt).sdt) ∧ t.m.dev.clk = s.m.dev.clk + dt) := by
  have he : exec (.ptpSync e dt seqId t1 true) s = liveDev (fun d => (d.advance dt).onPtp e (fun p =>
      { p with syncAt := some (seqId, (d.advance dt).sdt) })) s := by
    show execPtpSync e dt seqId t1 true s = _
    unfold execPtpSync
    refine liveDev_congr ?_
    dsimp only
    rw [hs]
    rfl
  refine yields_of_liveDev hl he (execPtpSync_framed e dt seqId t1 true s) (by decide) ?_
  simp only [Dev.ethPort, Dev.settle_eth, Dev.settle_clk]
  exact ⟨congrArg PtpPort.syncAt (Dev.ptp_onPtp_same (lt_eth_of_ptpSlave hshape hs) _), rfl⟩

/-- What a measurement without a path delay leaves of its port. -/
theorem ptpMeasured_leaves {i : Instr} {dp mp : Nat} (hd : ((s.m.dev.advance dt).ethPort e).ptp.delay = none) (t1 t2 : Nat)
    (he : exec i s = liveDev (fun d => (d.advance dt).ptpMeasured e t1 t2) s) (hf : Framed dp mp s (exec i s)) {ps : List Part}
    (hps : (dp ||| mp) ||| setOf (ps ++ settled) = setOf (ps ++ settled)) :
    Yields i s ps (fun t => (t.m.dev.ethPort e).ptp.t21 = some ((nsOfUnits t2 : Int) - nsOfUnits t1) ∧ (t.m.dev.ethPort e).ptp.syncAt = none) := by
  refine yields_of_liveDev hl he hf hps ?_
  have hptp : (((s.m.dev.advance dt).ptpMeasured e t1 t2).ethPort e).ptp =
      { ((s.m.dev.advance dt).ethPort e).ptp with t21 := some ((nsOfUnits t2 : Int) - nsOfUnits t1), syncAt := none } := by
    rw [Dev.ptpMeasured_of_no_delay hd, Dev.ptp_onPtp_same (lt_eth_of_ptpSlave hshape hs)]
  simp only [Dev.ethPort, Dev.settle_eth] at hptp ⊢
  rw [hptp]
  exact ⟨rfl, rfl⟩

theorem ptpSync_oneStep_yields (seqId t1 : Nat) (hd : ((s.m.dev.advance dt).ethPort e).ptp.delay = none) :
    Yields (.ptpSync e dt seqId t1 false) s [.clk, .seq, .commands, .events, .bbx, .sid, .tick, .eth, .feat 0x01] (fun t =>
      (t.m.dev.ethPort e).ptp.t21 = some ((nsOfUnits (s.m.dev.advance dt).sdt : Int) - nsOfUnits t1) ∧
      (t.m.dev.ethPort e).ptp.syncAt = none) := by
  refine ptpMeasured_leaves hl hshape hs hd t1 (s.m.dev.advance dt).sdt ?_ (execPtpSync_framed e dt seqId t1 false s) (by decide)
  show execPtpSync e dt seqId t1 false s = _
  unfold execPtpSync
  refine liveDev_congr ?_
  dsimp only
  rw [hs]
  rfl

theorem ptpFollowUp_yields (seqId t1 : Nat) {t2 : Nat} (hsync : ((s.m.dev.advance dt).ethPort e).ptp.syncAt = some (seqId, t2))
    (hd : ((s.m.dev.advance dt).ethPort e).ptp.delay = none) :
    Yields (.ptpFollowUp e dt seqId t1) s [.clk, .seq, .commands, .events, .bbx, .sid, .tick, .eth, .feat 0x01] (fun t =>
      (t.m.dev.ethPort e).ptp.t21 = some ((nsOfUnits t2 : Int) - nsOfUnits t1) ∧ (t.m.dev.ethPort e).ptp.syncAt = none) := by
  refine ptpMeasured_leaves hl hshape hs hd t1 t2 ?_ (execPtpFollowUp_framed e dt seqId t1 s) (by decide)
  show execPtpFollowUp e dt seqId t1 s = _
  unfold execPtpFollowUp
  refine liveDev_congr ?_
  dsimp only
  rw [hsync]
  exact if_pos ⟨hs, rfl⟩

theorem ptpDelayResp_yields (seqId t4 : Nat) {t3 : Nat} {t21 : Int} (hreq : ((s.m.dev.advance dt).ethPort e).ptp.reqAt = some (seqId, t3))
    (ht : ((s.m.dev.advance dt).ethPort e).ptp.t21 = some t21) :
    Yields (.ptpDelayResp e dt seqId t4) s [.clk, .sid, .eth] (fun t =>
      (t.m.dev.ethPort e).ptp.delay = some ((t21 + ((nsOfUnits t4 : Int) - nsOfUnits t3)) / 2 + (s.m.dev.advance dt).ptpAsym e) ∧
      (t.m.dev.ethPort e).ptp.reqAt = none) := by
  have he : exec (.ptpDelayResp e dt seqId t4) s = liveDev (fun d => (d.advance dt).onPtp e (fun p =>
      { p with delay := some ((t21 + ((nsOfUnits t4 : Int) - nsOfUnits t3)) / 2 + (d.advance dt).ptpAsym e), reqAt := none })) s := by
    show execPtpDelayResp e dt seqId t4 s = _
    unfold execPtpDelayResp
    refine liveDev_congr ?_
    dsimp only
    rw [hreq, ht]
    exact if_pos ⟨hs, rfl⟩
  refine yields_of_liveDev hl he (execPtpDelayResp_framed e dt seqId t4 s) (by decide) ?_
  have hptp := Dev.ptp_onPtp_same (lt_eth_of_ptpSlave hshape hs) (fun p =>
    { p with delay := some ((t21 + ((nsOfUnits t4 : Int) - nsOfUnits t3)) / 2 + (s.m.dev.advance dt).ptpAsym e), reqAt := none })
  simp only [Dev.ethPort, Dev.settle_eth] at hptp ⊢
  rw [hptp]
  exact ⟨rfl, rfl⟩

end

section
variable (hr : (s.m.dev.advance dt).ptpRuns e = true)
include hr

omit hshape in
theorem ptpDelayReq_yields (seqId : Nat) (hm : ((s.m.dev.advance dt).ethPort e).ptp.portState = 6) :
    Yields (.ptpDelayReq e dt seqId) s [.clk, .sid] (fun t => Emission.ptp e 9 seqId (s.m.dev.advance dt).sdt ∈ t.m.dev.sent) := by
  have he : exec (.ptpDelayReq e dt seqId) s = liveDev (fun d => (d.advance dt).emit (.ptp e 9 seqId (d.advance dt).sdt)) s := by
    show execPtpDelayReq e dt seqId s = _
    unfold execPtpDelayReq
    refine liveDev_congr ?_
    dsimp only
    rw [hr, decide_eq_true hm]
    rfl
  refine yields_of_liveDev hl he (execPtpDelayReq_framed e dt seqId s) (by decide) ?_
  exact Dev.mem_settle_sent List.mem_cons_self

omit hl in
theorem lt_eth_of_ptpRuns : e < (s.m.dev.advance dt).eth.length :=
  Dev.lt_eth_of_shape (d := s.m.dev.advance dt) hshape (Dev.lt_two_of_ptpRuns hr)

/-- An Announce is the best one of a port that has none. -/
theorem ptpAnnounce_yields (a : Announce) (hrole : (s.m.dev.advance dt).ptpRole e ≠ 2) (hb : ((s.m.dev.advance dt).ethPort e).ptp.best = none) :
    Yields (.ptpAnnounce e dt a) s [.clk, .sid, .eth] (fun t => (t.m.dev.ethPort e).ptp.best = some a) := by
  have he : exec (.ptpAnnounce e dt a) s = liveDev (fun d => ((d.advance dt).onPtp e (PtpPort.heard a)).ptpSelect e) s := by
    show execPtpAnnounce e dt a s = _
    unfold execPtpAnnounce
    refine liveDev_congr ?_
    dsimp only
    rw [hr, decide_eq_true hrole]
    rfl
  refine yields_of_liveDev hl he (execPtpAnnounce_framed e dt a s) (by decide) ?_
  have hlt := lt_eth_of_ptpRuns hshape hr
  have hlt' : e < ((s.m.dev.advance dt).onPtp e (PtpPort.heard a)).eth.length := by
    rw [Dev.onPtp_eth_length]
    exact hlt
  obtain ⟨st, hst⟩ := Dev.ptpSelect_ptp hlt'
  have hbest : (((s.m.dev.advance dt).onPtp e (PtpPort.heard a)).ethPort e).ptp.best = some a := by
    rw [Dev.ptp_onPtp_same hlt, PtpPort.heard, hb]
  simp only [Dev.ethPort, Dev.settle_eth] at hst hbest ⊢
  rw [hst]
  exact hbest

/-- The timeout of the Announces makes a port forget its master; a port of either role then becomes a master. -/
theorem announceTimeout_yields (hrole : (s.m.dev.advance dt).ptpRole e ≠ 2) :
    Yields (.announceTimeout e dt) s [.clk, .sid, .eth] (fun t =>
      (t.m.dev.ethPort e).ptp.best = none ∧ (t.m.dev.ethPort e).ptp.syncAt = none ∧ (t.m.dev.ethPort e).ptp.reqAt = none ∧
      ((s.m.dev.advance dt).ptpRole e = 1 → (t.m.dev.ethPort e).ptp.portState = 6)) := by
  have he : exec (.announceTimeout e dt) s = liveDev (fun d => if (d.advance dt).ptpRole e = 1 then
      ((d.advance dt).onPtp e PtpPort.forsaken).onPtp e (fun p => { p with portState := 6 })
      else ((d.advance dt).onPtp e PtpPort.forsaken).ptpSelect e) s := by
    show execAnnounceTimeout e dt s = _
    unfold execAnnounceTimeout
    refine liveDev_congr ?_
    dsimp only
    rw [hr, decide_eq_true hrole]
    rfl
  have hlt := lt_eth_of_ptpRuns hshape hr
  have hlt' : e < ((s.m.dev.advance dt).onPtp e PtpPort.forsaken).eth.length := by
    rw [Dev.onPtp_eth_length]
    exact hlt
  refine yields_of_liveDev hl he (execAnnounceTimeout_framed e dt s) (by decide) ?_
  dsimp only
  have hptp := Dev.ptp_onPtp_same hlt PtpPort.forsaken
  split
  case isTrue hone =>
    have hst := Dev.ptp_onPtp_same hlt' (fun p => { p with portState := 6 })
    rw [hptp] at hst
    simp only [Dev.ethPort, Dev.settle_eth] at hst ⊢
    rw [hst]
    exact ⟨rfl, rfl, rfl, fun _ => rfl⟩
  case isFalse hone =>
    obtain ⟨st, hst⟩ := Dev.ptpSelect_ptp hlt'
    rw [hptp] at hst
    simp only [Dev.ethPort, Dev.settle_eth] at hst ⊢
    rw [hst]
    exact ⟨rfl, rfl, rfl, fun h => absurd h hone⟩

/-- A master sends a Sync and its Follow_Up with one sequence number, and goes on to the next. -/
theorem ptpIntervalExpiry_sync_yields (hm : ((s.m.dev.advance dt).ethPort e).ptp.portState = 6) :
    Yields (.ptpIntervalExpiry e dt 0) s [.clk, .sid, .eth] (fun t =>
      Emission.ptp e 0 ((s.m.dev.advance dt).ethPort e).ptp.seqId 0 ∈ t.m.dev.sent ∧
      Emission.ptp e 8 ((s.m.dev.advance dt).ethPort e).ptp.seqId (s.m.dev.advance dt).sdt ∈ t.m.dev.sent ∧
      (t.m.dev.ethPort e).ptp.seqId = (((s.m.dev.advance dt).ethPort e).ptp.seqId + 1) % 65536) := by
  have he : exec (.ptpIntervalExpiry e dt 0) s = liveDev (fun d =>
      (((d.advance dt).onPtp e (fun p => { p with seqId := (p.seqId + 1) % 65536 })).emit
        (.ptp e 0 ((d.advance dt).ethPort e).ptp.seqId 0)).emit
        (.ptp e 8 ((d.advance dt).ethPort e).ptp.seqId (d.advance dt).sdt)) s := by
    show execPtpIntervalExpiry e dt 0 s = _
    unfold execPtpIntervalExpiry
    refine liveDev_congr ?_
    dsimp only
    rw [hr]
    exact if_pos (c := 0 = 0 ∧ _) ⟨rfl, hm⟩
  refine yields_of_liveDev hl he (execPtpIntervalExpiry_framed e dt 0 s) (by decide) ?_
  refine ⟨Dev.mem_settle_sent (List.mem_cons_of_mem _ List.mem_cons_self), Dev.mem_settle_sent List.mem_cons_self, ?_⟩
  have hptp := congrArg PtpPort.seqId (Dev.ptp_onPtp_same (lt_eth_of_ptpRuns hshape hr) (fun p => { p with seqId := (p.seqId + 1) % 65536 }))
  simp only [Dev.ethPort, Dev.settle_eth] at hptp ⊢
  exact hptp

end

end

/-- Settles O24: a message acts on the PTP state of its port alone; where a measurement is complete, from the timestamps kept there
before. -/
theorem ptpMessages : Obligations.PtpMessages := by
  unfold Obligations.PtpMessages
  rintro s e dt d hl hshape rfl
  refine ⟨fun hs => ?_, fun seqId hr hm => ptpDelayReq_yields hl hr seqId hm, fun a hr hrole hb => ptpAnnounce_yields hl hshape hr a hrole hb,
    fun hr hrole => announceTimeout_yields hl hshape hr hrole, fun hr hm => ptpIntervalExpiry_sync_yields hl hshape hr hm⟩
  exact ⟨fun seqId t1 => ptpSync_twoStep_yields hl hshape hs seqId t1, fun seqId t1 hd => ptpSync_oneStep_yields hl hshape hs seqId t1 hd,
    fun seqId t1 _ hsync hd => ptpFollowUp_yields hl hshape hs seqId t1 hsync hd,
    fun seqId t4 _ _ hreq ht => ptpDelayResp_yields hl hshape hs seqId t4 hreq ht⟩

end Sys2Proof.Machine
end

section
/-! An Ethernet port that loses its link or gets it back, the end of its hold, its gates, and the buckets of its shapers (R499, R502 to
R505, R510). -/

namespace Sys2Proof.Machine
open Sys2Proof

/-- A fold whose steps leave what a key reads as, but for the step at the key itself, changes it once where it goes through the key. -/
theorem foldl_at {α κ β : Type} [DecidableEq κ] {I : α → Prop} {read : α → β} {g : β → β} {f : α → κ → α} {j : κ}
    (hI : ∀ a k, I a → I (f a k)) (hsame : ∀ a, I a → read (f a j) = g (read a)) (hne : ∀ a k, I a → k ≠ j → read (f a k) = read a)
    {l : List κ} (hl : l.Nodup) {a : α} (ha : I a) : read (l.foldl f a) = if j ∈ l then g (read a) else read a := by
  induction l generalizing a with
  | nil => exact (if_neg List.not_mem_nil).symm
  | cons k r ih =>
    obtain ⟨hk, hr⟩ := List.nodup_cons.1 hl
    rw [List.foldl_cons, ih hr (hI a k ha)]
    by_cases hj : k = j
    · subst hj
      rw [hsame a ha, if_pos List.mem_cons_self, if_neg hk]
    · rw [hne a k ha hj]
      exact if_congr (by simp [Ne.symm hj]) rfl rfl

/-- What the loss of its link leaves of an Ethernet port. -/
def EthPort.lost (until_ : Nat) (localFault remoteFault blockLock : Bool) (p : EthPort) : EthPort :=
  { p with up := false, held := true, holdUntil := until_, localFault := localFault, remoteFault := remoteFault, blockLock := blockLock }

/-- What the return of its link leaves of an Ethernet port. -/
def EthPort.risen (p : EthPort) : EthPort :=
  { p with up := true, held := false, down := false, blockLock := true, localFault := false, remoteFault := false }

/-- Whether the DEADLINE of a waiting frame has passed at an instant (R510). -/
def EthUnit.late (now : Nat) (u : EthUnit) : Bool := decide (u.deadline ≠ 0) && decide (u.at_ + 1000 * u.deadline < now)

/-- The frames of a queue whose DEADLINE has not passed. -/
def EthQueue.prompt (now : Nat) (x : EthQueue) : EthQueue := { x with units := x.units.filter (fun u => !u.late now) }

/-- A queue without its frames. -/
def EthQueue.cleared (x : EthQueue) : EthQueue := { x with units := [] }

/-! ### The operations of a port -/

section
variable {d : Dev} {e : Nat}

theorem Dev.raise_eth (src arg : Nat) : (d.raise src arg).eth = d.eth := (d.raise_tame_self src arg).same .eth (by decide)

theorem Dev.postEvent_eth (type sub arg : Nat) : (d.postEvent type sub arg).eth = d.eth :=
  (Dev.postEvent_tame (ps := setOf [.seq, .commands, .events]) (by decide) (.refl _ d) type sub arg).same .eth (by decide)

theorem Dev.onEth_eth_length (f : EthPort → EthPort) : (d.onEth e f).eth.length = d.eth.length := modAt_length ..

/-- A queue of the port is the one that a change of it leaves, where the change keeps a queue that is not there. -/
theorem Dev.queue_onQueue (h : e < d.eth.length) {q : Nat} (j : Nat) {f : EthQueue → EthQueue} (hf : d.queue e q = {} → f {} = {}) :
    (d.onQueue e q f).queue e j = if j = q then f (d.queue e q) else d.queue e j := by
  have hdef : f {} = {} ∨ q < (d.ethPort e).queues.length ∨ q ≠ j := by
    by_cases hlen : q < (d.ethPort e).queues.length
    · exact .inr (.inl hlen)
    · exact .inl (hf (List.getD_eq_default _ _ (Nat.le_of_not_lt hlen)))
  unfold Dev.queue Dev.onQueue
  rw [Dev.ethPort_onEth_same h]
  refine (modAt_getD _ q j f {} hdef).trans ?_
  by_cases hj : j = q
  · subst hj
    exact (if_pos rfl).trans (if_pos rfl).symm
  · rw [if_neg hj, if_neg (Ne.symm hj)]

/-- What a queue of a port is depends on the ports alone. -/
theorem Dev.queue_congr {x y : Dev} (h : x.eth = y.eth) (q : Nat) : x.queue e q = y.queue e q := by
  unfold Dev.queue Dev.ethPort
  rw [h]

/-- A change of a port's queue leaves all else of the port. -/
theorem Dev.onQueue_keeps {β : Type} {g : EthPort → β} (hg : ∀ p l, g { p with queues := l } = g p) (q : Nat) (f : EthQueue → EthQueue) :
    g ((d.onQueue e q f).ethPort e) = g (d.ethPort e) := modAt_getD_congr (fun p => hg p _) d.eth e e {}

/-- The late frames of one queue of a port are discarded. -/
def Dev.dropLateAt (e : Nat) (d : Dev) (q : Nat) : Dev :=
  ((d.onQueue e q (fun x => { x with units := (d.queue e q).units.filter (fun u => !u.late d.clk) })).bump 0x21 (0x100 * e + 0x6C)
    ((d.queue e q).units.filter (EthUnit.late d.clk)).length).count (ethStat e q 0x08)
    ((d.queue e q).units.filter (EthUnit.late d.clk)).length

theorem Dev.dropLate_eq : d.dropLate e = (List.range 8).foldl (Dev.dropLateAt e) d := rfl

theorem Dev.dropLateAt_clk (q : Nat) : (d.dropLateAt e q).clk = d.clk := rfl

theorem Dev.dropLateAt_eth (q : Nat) : (d.dropLateAt e q).eth =
    (d.onQueue e q (fun x => { x with units := (d.queue e q).units.filter (fun u => !u.late d.clk) })).eth := rfl

theorem Dev.dropLateAt_queue (h : e < d.eth.length) (q j : Nat) :
    (d.dropLateAt e q).queue e j = if j = q then (d.queue e q).prompt d.clk else d.queue e j := by
  rw [Dev.queue_congr (Dev.dropLateAt_eth q) j, Dev.queue_onQueue h j]
  · rfl
  · intro hq
    rw [hq]
    rfl

/-- Discarding the late frames of a port leaves the others in their queues (R510). -/
theorem Dev.dropLate_queue (h : e < d.eth.length) {q : Nat} (hq : q < 8) : (d.dropLate e).queue e q = (d.queue e q).prompt d.clk := by
  rw [Dev.dropLate_eq]
  refine (foldl_at (I := fun x : Dev => x.clk = d.clk ∧ e < x.eth.length) (read := fun x => x.queue e q)
    (g := EthQueue.prompt d.clk) ?_ ?_ ?_ List.nodup_range ⟨rfl, h⟩).trans (if_pos (List.mem_range.2 hq))
  · intro x k hx
    obtain ⟨hclk, hlen⟩ := hx
    rw [Dev.dropLateAt_clk, Dev.dropLateAt_eth, Dev.onQueue, Dev.onEth_eth_length]
    exact ⟨hclk, hlen⟩
  · intro x hx
    obtain ⟨hclk, hlen⟩ := hx
    rw [← hclk]
    exact (Dev.dropLateAt_queue hlen q q).trans (if_pos rfl)
  · intro x k hx hk
    exact (Dev.dropLateAt_queue hx.2 k q).trans (if_neg (Ne.symm hk))

/-- Discarding the late frames of a port leaves all else of the port. -/
theorem Dev.dropLate_keeps {β : Type} {g : EthPort → β} (hg : ∀ p l, g { p with queues := l } = g p) :
    g ((d.dropLate e).ethPort e) = g (d.ethPort e) := by
  rw [Dev.dropLate_eq]
  refine foldl_keeps (g := fun x : Dev => g (x.ethPort e)) (fun x q _ => ?_) d
  rw [Dev.ethPort, Dev.dropLateAt_eth]
  exact Dev.onQueue_keeps (d := x) hg q _

/-- The frames of one queue of a port are discarded. -/
def Dev.clearAt (e : Nat) (d : Dev) (q : Nat) : Dev := (d.count (ethStat e q 0x08) (d.queue e q).units.length).onQueue e q EthQueue.cleared

/-- The frames of all queues of a port are discarded. -/
def Dev.clearQueues (d : Dev) (e : Nat) : Dev := (List.range 8).foldl (Dev.clearAt e) d

theorem Dev.clearAt_queue (h : e < d.eth.length) (q j : Nat) :
    (d.clearAt e q).queue e j = if j = q then (d.queue e q).cleared else d.queue e j :=
  Dev.queue_onQueue (d := d.count (ethStat e q 0x08) (d.queue e q).units.length) h j (fun _ => rfl)

theorem Dev.clearAt_eth_length (q : Nat) : (d.clearAt e q).eth.length = d.eth.length := Dev.onEth_eth_length ..

theorem Dev.clearQueues_eth_length : (d.clearQueues e).eth.length = d.eth.length :=
  foldl_keeps (g := fun x : Dev => x.eth.length) (fun x q _ => Dev.clearAt_eth_length (d := x) q) d

theorem Dev.clearQueues_queue (h : e < d.eth.length) {q : Nat} (hq : q < 8) : (d.clearQueues e).queue e q = (d.queue e q).cleared := by
  refine (foldl_at (I := fun x : Dev => e < x.eth.length) (read := fun x => x.queue e q) (g := EthQueue.cleared)
    ?_ ?_ ?_ List.nodup_range h).trans (if_pos (List.mem_range.2 hq))
  · intro x k hx
    rw [Dev.clearAt_eth_length]
    exact hx
  · exact fun x hx => (Dev.clearAt_queue hx q q).trans (if_pos rfl)
  · exact fun x k hx hk => (Dev.clearAt_queue hx k q).trans (if_neg (Ne.symm hk))

/-- What the end of its hold leaves of an Ethernet port. -/
def EthPort.expired (p : EthPort) : EthPort := { p with held := false, down := true }

theorem Dev.ethExpire_eth : (d.ethExpire e).eth = ((d.clearQueues e).onEth e EthPort.expired).eth :=
  (Dev.postEvent_eth ..).trans (Dev.raise_eth ..)

/-- The end of its hold takes a port down and discards its frames (R510). -/
theorem Dev.ethExpire_leaves (h : e < d.eth.length) : ((d.ethExpire e).ethPort e).held = false ∧ ((d.ethExpire e).ethPort e).down = true ∧
    ∀ q, q < 8 → ((d.ethExpire e).queue e q).units = [] := by
  have hlen : e < (d.clearQueues e).eth.length := by
    rw [Dev.clearQueues_eth_length]
    exact h
  have hport := Dev.ethPort_onEth_same hlen EthPort.expired
  have hq (q : Nat) (hq : q < 8) := Dev.clearQueues_queue h hq
  simp only [Dev.queue, Dev.ethPort, Dev.ethExpire_eth] at hport hq ⊢
  rw [hport]
  refine ⟨rfl, rfl, fun q hlt => ?_⟩
  show ((((d.clearQueues e).eth.getD e {}).queues).getD q {}).units = []
  rw [hq q hlt]
  rfl

/-- Resetting a shaper changes the shapers alone. -/
theorem Dev.resetShapers_tame (l : List Nat) : Dev.Tame (setOf [.shapers, .policers]) d (l.foldl Dev.resetShaper d) :=
  List.foldlRecOn l Dev.resetShaper (.refl _ d) (fun _ h i _ => Dev.resetShaper_tame (by decide) h i)

end

/-! ### Buckets -/

section
variable {d : Dev}

/-- What one refill leaves of a bucket (R503). -/
def Bucket.refilled (rate burst : Nat) (b : Bucket) : Bucket := { mb := min (b.mb + rate) (8000 * burst) }

theorem Dev.refill_of_ne (policer : Bool) {i k : Nat} (h : k ≠ i) : (d.refill policer k).bucket false i = d.bucket false i := by
  cases policer with
  | false => exact Tbl.get_set_of_ne _ d.shapers _ (Ne.symm h)
  | true => rfl

theorem Dev.refill_policer_shapers (i : Nat) : (d.refill true i).shapers = d.shapers := rfl

theorem Dev.refill_regs (policer : Bool) (i : Nat) : (d.refill policer i).regs = d.regs := by
  cases policer <;> rfl

/-- The refill of a shaper with a rate and a burst. -/
theorem Dev.refill_same {i rate burst : Nat} (hrate : (d.reg 0x21 (bucketReg false i)).toNat = rate)
    (hburst : (d.reg 0x21 (bucketReg false i + 4)).toNat = burst) (h0 : 0 < rate) (h1 : 0 < burst) :
    (d.refill false i).bucket false i = (d.bucket false i).refilled rate burst := by
  subst hrate hburst
  refine Tbl.get_set_same _ d.shapers i (fun h => ?_)
  have hmb := congrArg Bucket.mb h
  dsimp only at hmb
  omega

/-- No register of the Ethernet block from 0x10000 on has a reset value but 0. -/
theorem rowsEth_reset : ∀ r ∈ rowsEth, r.reset = 0 ∨ (0 < r.stride ∧ r.off + r.stride * r.cnt ≤ 0x10000) := by decide

theorem regDefault_bucketReg {i : Nat} (h : i < 4096) : regDefault (regKey 0x21 (bucketReg false i)) = 0 := by
  have hkey : regKey 0x21 (bucketReg false i) / 2 ^ 20 = 0x21 ∧ 0x10000 ≤ regKey 0x21 (bucketReg false i) % 2 ^ 20 := by
    simp only [regKey, bucketReg]
    constructor <;> norm_num <;> omega
  obtain ⟨hfeat, hoff⟩ := hkey
  unfold regDefault
  rw [hfeat]
  generalize regKey 0x21 (bucketReg false i) % 2 ^ 20 = off at hoff
  split
  case h_2 => rfl
  case h_1 r hr =>
    have hfind : rowsEth.find? (fun r : RegRow => r.has off) = some r := hr
    have hmem : r ∈ rowsEth := List.mem_of_find?_eq_some hfind
    have hhas : r.has off = true := List.find?_some (p := fun r : RegRow => r.has off) hfind
    simp only [RegRow.has, Bool.and_eq_true, decide_eq_true_eq] at hhas
    obtain ⟨⟨hle, hmod⟩, hcnt⟩ := hhas
    obtain hreset | ⟨hstride, hend⟩ := rowsEth_reset r hmem
    · rw [hreset]
      rfl
    · have hlt := (Nat.div_lt_iff_lt_mul hstride).1 hcnt
      rw [Nat.mul_comm] at hlt
      omega

/-- The keys of a canonical table rise. -/
theorem Tbl.pairwise_of_wfFrom {α : Type} [DecidableEq α] {f : Nat → α} {t : Tbl α} {lo : Nat} (h : Tbl.wfFrom f lo t = true) :
    t.Pairwise (fun x y => x.1 < y.1) := by
  induction t generalizing lo with
  | nil => exact .nil
  | cons x r ih =>
    obtain ⟨a, v⟩ := x
    simp only [Tbl.wfFrom, Bool.and_eq_true, decide_eq_true_eq] at h
    obtain ⟨-, hr⟩ := h
    exact .cons (fun y hy => (Tbl.get_of_mem (k := y.1) (v := y.2) hr hy).1) (ih hr)

theorem Dev.ratedBuckets_nodup (h : Tbl.wf regDefault d.regs = true) (policer : Bool) : (d.ratedBuckets policer).Nodup := by
  have hlt : (d.ratedBuckets policer).Pairwise (· < ·) := by
    refine List.pairwise_map.2 (List.Pairwise.imp_of_mem ?_ ((Tbl.pairwise_of_wfFrom h).filter _))
    intro x y hx hy hxy
    have hx' := (List.mem_filter.1 hx).2
    have hy' := (List.mem_filter.1 hy).2
    simp only [decide_eq_true_eq] at hx' hy'
    omega
  exact hlt.imp Nat.ne_of_lt

/-- A shaper whose rate is not at reset is rated. -/
theorem Dev.mem_ratedBuckets {i : Nat} (hi : i < 4096) (h : d.reg 0x21 (bucketReg false i) ≠ 0) : i ∈ d.ratedBuckets false := by
  have hmem : (regKey 0x21 (bucketReg false i), d.reg 0x21 (bucketReg false i)) ∈ d.regs :=
    Tbl.mem_of_get rfl (by rw [regDefault_bucketReg hi]; exact h)
  have hkey (j : Nat) (hj : j < 4096) : regKey 0x21 (bucketReg false j) = 2 ^ 20 * 0x21 + 0x10000 + 16 * j := by
    simp only [regKey, bucketReg]
    norm_num
    omega
  rw [hkey i hi] at hmem
  unfold Dev.ratedBuckets
  rw [hkey 0 (by decide)]
  refine List.mem_map.2 ⟨_, List.mem_filter.2 ⟨hmem, ?_⟩, ?_⟩
  · simp only [decide_eq_true_eq]
    omega
  · dsimp only
    omega

theorem Dev.advanceTo_regs (t : Nat) : (d.advanceTo t).regs = d.regs := by
  unfold Dev.advanceTo
  split <;> rfl

/-- The refill of the shapers refills each rated shaper once. -/
theorem Dev.refillShapers_bucket (hwf : Tbl.wf regDefault d.regs = true) {i : Nat} (hi : i < 4096)
    (hrate : d.reg 0x21 (bucketReg false i) ≠ 0) (hburst : 0 < (d.reg 0x21 (bucketReg false i + 4)).toNat) :
    ((d.ratedBuckets false).foldl (fun d i => d.refill false i) d).bucket false i =
      (d.bucket false i).refilled (d.reg 0x21 (bucketReg false i)).toNat (d.reg 0x21 (bucketReg false i + 4)).toNat := by
  have hreg {x : Dev} (hx : x.regs = d.regs) (o : Nat) : (x.reg 0x21 o).toNat = (d.reg 0x21 o).toNat := by
    unfold Dev.reg
    rw [hx]
  have hpos : 0 < (d.reg 0x21 (bucketReg false i)).toNat := Nat.pos_of_ne_zero (fun h => hrate (BitVec.eq_of_toNat_eq h))
  refine (foldl_at (I := fun x : Dev => x.regs = d.regs) (read := fun x => x.bucket false i)
    (g := Bucket.refilled (d.reg 0x21 (bucketReg false i)).toNat (d.reg 0x21 (bucketReg false i + 4)).toNat) ?_ ?_ ?_
    (Dev.ratedBuckets_nodup hwf false) rfl).trans (if_pos (Dev.mem_ratedBuckets hi hrate))
  · exact fun x k hx => (Dev.refill_regs false k).trans hx
  · exact fun x hx => Dev.refill_same (hreg hx _) (hreg hx _) hpos hburst
  · exact fun x k _ hk => Dev.refill_of_ne false hk

end

/-- A committed list becomes active at the soonest (R502). -/
theorem soonest_le_activation {cycle soonest base : Nat} (hc : 0 < cycle) :
    soonest ≤ base + ceilDiv (2 ^ 32 * ((if soonest ≤ base then 0 else ceilDiv (10 ^ 9 * (soonest - base)) (2 ^ 32 * cycle)) * cycle)) (10 ^ 9) := by
  have hdiv (a : Nat) {b : Nat} (hb : 0 < b) : a ≤ b * ceilDiv a b := by
    unfold ceilDiv
    rw [if_neg hb.ne']
    have hmod := Nat.div_add_mod (a + b - 1) b
    have hlt := Nat.mod_lt (a + b - 1) hb
    omega
  split
  · omega
  · have h1 := hdiv (10 ^ 9 * (soonest - base)) (Nat.mul_pos (n := 2 ^ 32) (by norm_num) hc)
    generalize ceilDiv (10 ^ 9 * (soonest - base)) (2 ^ 32 * cycle) = k at h1 ⊢
    have h2 := hdiv (2 ^ 32 * (k * cycle)) (b := 10 ^ 9) (by norm_num)
    rw [Nat.mul_assoc, Nat.mul_comm cycle k] at h1
    generalize ceilDiv (2 ^ 32 * (k * cycle)) (10 ^ 9) = n at h2 ⊢
    omega

/-- The sidereal instant at which the gate interval in effect on a port ends (R502). -/
def Dev.intervalEnd (d : Dev) (e : Nat) : Nat :=
  d.sdt + ceilDiv (2 ^ 32 * (gateAt (d.ethPort e).gcl.list ((d.ethPort e).gcl.phase d.sdt)).2) (10 ^ 9)

theorem Dev.advanceToSid_eth {d : Dev} (t : Nat) : (d.advanceToSid t).eth = d.eth :=
  (Dev.advanceToSid_tame (ps := setOf [.clk, .sid]) (by decide) (.refl _ d) t).same .eth (by decide)

theorem execGateIntervalEnd_eq {s : State} {e : Nat} (he : e < 2) :
    exec (.gateIntervalEnd e) s = liveDev (fun d => d.advanceToSid (d.intervalEnd e)) s := by
  show execGateIntervalEnd e s = _
  unfold execGateIntervalEnd
  refine liveDev_congr ?_
  rw [onlyIf_of_true (decide_eq_true he)]
  unfold Dev.intervalEnd
  dsimp only

/-- What a commit leaves of an Ethernet port. -/
def EthPort.committed (g : GateList) (at_ : Nat) (p : EthPort) : EthPort := { p with gclNext := some (g, at_) }

/-- What the activation of a committed list leaves of an Ethernet port. -/
def EthPort.activated (g : GateList) (p : EthPort) : EthPort := { p with gcl := g, gclNext := none }

/-- One entry of a gate list is put into its dword of a port's inactive bank (R502). -/
def Dev.storeGate (e : Nat) (old : GateList) (d : Dev) (i : Nat) : Dev :=
  d.setReg 0x21 (0x1000 + 0x400 * e + 4 * i) (word (2 ^ 24 * (old.entries.getD i (0, 0)).1 + (old.entries.getD i (0, 0)).2))

/-- A gate list is put into the dwords of a port's inactive bank. -/
def Dev.storeBank (d : Dev) (e : Nat) (old : GateList) : Dev := (List.range 256).foldl (Dev.storeGate e old) d

theorem Dev.storeBank_eth {d : Dev} {e : Nat} (old : GateList) : (d.storeBank e old).eth = d.eth := by
  unfold Dev.storeBank
  exact foldl_keeps (g := Dev.eth) (f := Dev.storeGate e old) (fun _ _ _ => rfl) d

theorem Dev.storeBank_clk {d : Dev} {e : Nat} (old : GateList) : (d.storeBank e old).clk = d.clk := by
  unfold Dev.storeBank
  exact foldl_keeps (g := Dev.clk) (f := Dev.storeGate e old) (fun _ _ _ => rfl) d

/-- A commit makes the inactive bank the next list of its port, at least 100 µs later (R502). -/
theorem Dev.gclCommit_of_ok {d : Dev} {e : Nat} (hok : (d.gclInactive e).ok = true) :
    ∃ at_, d.gclCommit e = d.onEth e (EthPort.committed (d.gclInactive e) at_) ∧ d.sdt + ceilDiv (100000 * 2 ^ 32) (10 ^ 9) ≤ at_ := by
  have hcycle : 0 < (d.gclInactive e).cycle := by
    simp only [GateList.ok, Bool.and_eq_true, decide_eq_true_eq] at hok
    exact hok.2.1
  exact ⟨_, if_pos hok, soonest_le_activation hcycle⟩

/-! ### The clauses -/

section
variable {s : State} {e : Nat} (hl : s.Live)
include hl

section
variable (hshape : s.m.dev.Shape) (he : e < 2)
include hshape he

theorem portDown_yields (lf rf bl : Bool) (hup : (s.m.dev.ethPort e).up = true)
    (hhold : fld (s.m.dev.reg 0x21 (0x100 * e + 0x08)) 0 17 ≠ 0) :
    Yields (.portDown e lf rf bl) s [.seq, .stats, .commands, .events, .flt, .bbx, .eth, .link, .feat 0x21] (fun t =>
      (t.m.dev.ethPort e).up = false ∧ (t.m.dev.ethPort e).held = true ∧
      (t.m.dev.ethPort e).holdUntil = s.m.dev.clk + 1000 * fld (s.m.dev.reg 0x21 (0x100 * e + 0x08)) 0 17 ∧
      (t.m.dev.ethPort e).queues = (s.m.dev.ethPort e).queues ∧ t.m.dev.flt.lastSrc = 512 + 2 * e) := by
  have hexec : exec (.portDown e lf rf bl) s = liveDev (fun d => (d.onEth e
      (EthPort.lost (d.clk + 1000 * fld (d.reg 0x21 (0x100 * e + 0x08)) 0 17) lf rf bl)).raise (512 + 2 * e) e) s := by
    show execPortDown e lf rf bl s = _
    unfold execPortDown
    refine liveDev_congr ?_
    rw [onlyIf_of_true (by rw [hup, decide_eq_true he]; rfl)]
    exact if_neg hhold
  refine yields_of_liveDev hl hexec (execPortDown_framed e lf rf bl s) (by decide) ?_
  have hport := Dev.ethPort_onEth_same (Dev.lt_eth_of_shape hshape he)
    (EthPort.lost (s.m.dev.clk + 1000 * fld (s.m.dev.reg 0x21 (0x100 * e + 0x08)) 0 17) lf rf bl)
  have hcls : fixedClass (512 + 2 * e) ≠ 0 := by
    obtain rfl | rfl : e = 0 ∨ e = 1 := by omega
    · decide
    · decide
  simp only [Dev.settle_flt, Dev.raise_lastSrc hcls, and_true]
  simp only [Dev.ethPort, Dev.settle_eth, Dev.raise_eth] at hport ⊢
  rw [hport]
  exact ⟨rfl, rfl, rfl, rfl⟩

/-- The return of its link resets the shapers of a port and, within its hold, discards the late frames. -/
theorem portUp_yields (hup : (s.m.dev.ethPort e).up = false) (hheld : (s.m.dev.ethPort e).held = true)
    (hin : s.m.dev.clk < (s.m.dev.ethPort e).holdUntil) (hwork : s.m.dev.takesWork (18 + e) = true)
    (hen : bit (s.m.dev.reg 0x21 (0x100 * e)).toNat 31 = true) :
    Yields (.portUp e) s [.seq, .stats, .commands, .events, .flt, .bbx, .eth, .shapers, .policers, .link, .feat 0x21] (fun t =>
      (t.m.dev.ethPort e).up = true ∧ (t.m.dev.ethPort e).held = false ∧ (t.m.dev.ethPort e).down = false ∧
      ∀ q, q < 8 → ∀ u ∈ (t.m.dev.queue e q).units,
        u ∈ (s.m.dev.queue e q).units ∧ (u.deadline = 0 ∨ s.m.dev.clk ≤ u.at_ + 1000 * u.deadline)) := by
  have hexec : exec (.portUp e) s = liveDev (fun d => ((((d.onEth e EthPort.risen).portShapers e).foldl Dev.resetShaper
      (d.onEth e EthPort.risen)).bump 0x21 (0x100 * e + 0x64)).dropLate e) s := by
    show execPortUp e s = _
    unfold execPortUp
    refine liveDev_congr ?_
    rw [onlyIf_of_true (by rw [hup, hwork, hen, decide_eq_true he]; rfl)]
    have hnot : ¬((s.m.dev.ethPort e).held = true ∧ (s.m.dev.ethPort e).holdUntil ≤ s.m.dev.clk) :=
      fun h => absurd h.2 (Nat.not_le_of_lt hin)
    simp only [if_neg hnot, if_pos hheld]
    rfl
  refine yields_of_liveDev hl hexec (execPortUp_framed e s) (by decide) ?_
  have hlen := Dev.lt_eth_of_shape hshape he
  have hrisen := Dev.ethPort_onEth_same hlen EthPort.risen
  have htame := Dev.bump_tame (ps := setOf [.shapers, .policers, .feat 0x21]) (feat := 0x21) (o := 0x100 * e + 0x64) (n := 1) (by decide)
    (Dev.Tame.next (Dev.resetShapers_tame (d := s.m.dev.onEth e EthPort.risen) ((s.m.dev.onEth e EthPort.risen).portShapers e)) (by decide) (.refl _ _))
  have heth := htame.same .eth (by decide)
  have hclk := htame.clk_eq (by decide)
  simp only [Dev.queue, Dev.settle_ethPort]
  generalize (((s.m.dev.onEth e EthPort.risen).portShapers e).foldl Dev.resetShaper (s.m.dev.onEth e EthPort.risen)).bump 0x21
    (0x100 * e + 0x64) = x at heth hclk ⊢
  have hport : x.ethPort e = (s.m.dev.ethPort e).risen := (congrArg (fun l => l.getD e {}) heth).trans hrisen
  have hxlen : e < x.eth.length := by
    rw [heth, Dev.onEth_eth_length]
    exact hlen
  refine ⟨?_, ?_, ?_, fun q hq u hu => ?_⟩
  · rw [Dev.dropLate_keeps (g := EthPort.up) (fun _ _ => rfl), hport]
    rfl
  · rw [Dev.dropLate_keeps (g := EthPort.held) (fun _ _ => rfl), hport]
    rfl
  · rw [Dev.dropLate_keeps (g := EthPort.down) (fun _ _ => rfl), hport]
    rfl
  · have hu' : u ∈ ((x.queue e q).prompt x.clk).units := (congrArg EthQueue.units (Dev.dropLate_queue hxlen hq)) ▸ hu
    obtain ⟨hmem, hlate⟩ := List.mem_filter.1 hu'
    rw [Dev.queue, hport] at hmem
    refine ⟨hmem, ?_⟩
    rw [hclk] at hlate
    have hclk' : (s.m.dev.onEth e EthPort.risen).clk = s.m.dev.clk := rfl
    simp only [EthUnit.late, hclk', Bool.not_eq_true', Bool.and_eq_false_iff, decide_eq_false_iff_not] at hlate
    omega

theorem ethHoldExpiry_yields (hheld : (s.m.dev.ethPort e).held = true) :
    Yields (.ethHoldExpiry e) s [.clk, .seq, .stats, .commands, .events, .flt, .bbx, .sid, .eth, .link, .feat 0x21] (fun t =>
      t.m.dev.clk = max s.m.dev.clk (s.m.dev.ethPort e).holdUntil ∧ (t.m.dev.ethPort e).held = false ∧ (t.m.dev.ethPort e).down = true ∧
      ∀ q, q < 8 → (t.m.dev.queue e q).units = []) := by
  have hexec : exec (.ethHoldExpiry e) s = liveDev (fun d => (d.advanceTo (d.ethPort e).holdUntil).ethExpire e) s :=
    liveDev_congr (onlyIf_of_true (by rw [hheld, decide_eq_true he]; rfl) _ _)
  refine yields_of_liveDev hl hexec (execEthHoldExpiry_framed e s) (by decide) ?_
  have hlen : e < (s.m.dev.advanceTo (s.m.dev.ethPort e).holdUntil).eth.length := by
    rw [(s.m.dev.advanceTo_tame_self _).same .eth (by decide)]
    exact Dev.lt_eth_of_shape hshape he
  have hclk := (Dev.ethExpire_tame (ps := setOf [.free, .seq, .stats, .commands, .events, .flt, .twk, .bbx, .eth, .link, .sent, .feat 0x21])
    (by decide) (.refl _ (s.m.dev.advanceTo (s.m.dev.ethPort e).holdUntil)) e).clk_eq (by decide)
  simp only [Dev.queue, Dev.settle_ethPort, Dev.settle_clk]
  exact ⟨hclk.trans (Dev.advanceTo_clk ..), Dev.ethExpire_leaves hlen⟩

omit hshape in
theorem gateIntervalEnd_yields : Yields (.gateIntervalEnd e) s [.clk, .sid] (fun t =>
    (t.m.dev.ethPort e).gcl = (s.m.dev.ethPort e).gcl ∧ t.m.dev.clk = (s.m.dev.advanceToSid (s.m.dev.intervalEnd e)).clk) := by
  refine yields_of_liveDev hl (execGateIntervalEnd_eq he) (execGateIntervalEnd_framed e s) (by decide) ?_
  rw [Dev.settle_ethPort, Dev.settle_clk]
  exact ⟨(congrArg (fun l => (l.getD e {}).gcl) (Dev.advanceToSid_eth _)), rfl⟩

theorem ethGclCommit_yields (hpow : s.m.dev.powered (18 + e) = true) (hok : (s.m.dev.gclInactive e).ok = true) :
    Yields (.ethGclCommit e) s [.eth] (fun t => (t.m.dev.ethPort e).gcl = (s.m.dev.ethPort e).gcl ∧
      ∃ at_, (t.m.dev.ethPort e).gclNext = some (s.m.dev.gclInactive e, at_) ∧ s.m.dev.sdt + ceilDiv (100000 * 2 ^ 32) (10 ^ 9) ≤ at_) := by
  have hexec : exec (.ethGclCommit e) s = liveDev (fun d => d.gclCommit e) s :=
    liveDev_congr (onlyIf_of_true (by rw [hpow, decide_eq_true he]; rfl) _ _)
  obtain ⟨at_, hcommit, hsoon⟩ := Dev.gclCommit_of_ok hok
  refine yields_of_liveDev hl hexec (execEthGclCommit_framed e s) (by decide) ?_
  rw [Dev.settle_ethPort, hcommit, Dev.ethPort_onEth_same (Dev.lt_eth_of_shape hshape he)]
  exact ⟨rfl, at_, rfl, hsoon⟩

theorem gclActivate_yields {g : GateList} {at_ : Nat} (hnext : (s.m.dev.ethPort e).gclNext = some (g, at_)) :
    Yields (.gclActivate e) s [.clk, .sid, .eth, .feat 0x21] (fun t => (t.m.dev.ethPort e).gcl = g ∧ (t.m.dev.ethPort e).gclNext = none ∧
      t.m.dev.clk = (s.m.dev.advanceToSid at_).clk) := by
  have hexec : exec (.gclActivate e) s = liveDev (fun d =>
      ((d.advanceToSid at_).onEth e (EthPort.activated g)).storeBank e (d.ethPort e).gcl) s := by
    show execGclActivate e s = _
    unfold execGclActivate
    refine liveDev_congr ?_
    rw [hnext]
    rfl
  refine yields_of_liveDev hl hexec (execGclActivate_framed e s) (by decide) ?_
  have hlen : e < (s.m.dev.advanceToSid at_).eth.length := Dev.lt_eth_of_shape (d := s.m.dev) hshape he
  have hport := Dev.ethPort_onEth_same hlen (EthPort.activated g)
  rw [Dev.settle_ethPort, Dev.settle_clk, Dev.ethPort, Dev.storeBank_eth, Dev.storeBank_clk]
  exact ⟨congrArg EthPort.gcl hport, congrArg EthPort.gclNext hport, rfl⟩

end

theorem shaperReset_yields {i : Nat} (hi : i < 4096) : Yields (.shaperReset i) s [.shapers, .policers] (fun t =>
    t.m.dev.shapers = Tbl.set (fun _ => {}) s.m.dev.shapers i
      { mb := if bit (s.m.dev.reg 0x21 (bucketReg false i + 0xC)).toNat 30
          then 8000 * (s.m.dev.reg 0x21 (bucketReg false i + 4)).toNat else 0 }) := by
  have hexec : exec (.shaperReset i) s = liveDev (fun d => d.resetShaper i) s := liveDev_congr (onlyIf_of_true (decide_eq_true hi) _ _)
  refine yields_of_liveDev hl hexec (execShaperReset_framed i s) (by decide) ?_
  exact Dev.settle_shapers _

end

/-- The device of a refill, before its buckets. -/
def Dev.refilling (d : Dev) : Dev := { d.advanceTo (1000 + d.refillAt) with refillAt := (d.advanceTo (1000 + d.refillAt)).clk }

/-- The device with its shapers refilled. -/
def Dev.refillShapers (d : Dev) : Dev := (d.ratedBuckets false).foldl (fun d i => d.refill false i) d

/-- The device with its policers refilled. -/
def Dev.refillPolicers (d : Dev) : Dev := (d.ratedBuckets true).foldl (fun d i => d.refill true i) d

theorem Dev.refillPolicers_shapers (d : Dev) : d.refillPolicers.shapers = d.shapers :=
  foldl_keeps (g := Dev.shapers) (fun x i _ => Dev.refill_policer_shapers (d := x) i) d

theorem Dev.refillBuckets_tame (d : Dev) : Dev.Tame (setOf [.shapers, .policers]) d d.refillShapers.refillPolicers :=
  List.foldlRecOn _ _ (List.foldlRecOn _ _ (.refl _ d) (fun _ h i _ => Dev.refill_tame (by decide) h false i))
    (fun _ h i _ => Dev.refill_tame (by decide) h true i)

theorem shaperRefill_yields {s : State} (hl : s.Live) (hshape : s.m.dev.Shape) :
    Yields .shaperRefill s [.clk, .sid, .refillAt, .shapers, .policers] (fun t => t.m.dev.clk = max s.m.dev.clk (s.m.dev.refillAt + 1000) ∧
      t.m.dev.refillAt = t.m.dev.clk ∧ ∀ i, i < 4096 → s.m.dev.reg 0x21 (bucketReg false i) ≠ 0 →
        0 < (s.m.dev.reg 0x21 (bucketReg false i + 4)).toNat →
        (t.m.dev.bucket false i).mb = min ((s.m.dev.bucket false i).mb + (s.m.dev.reg 0x21 (bucketReg false i)).toNat)
          (8000 * (s.m.dev.reg 0x21 (bucketReg false i + 4)).toNat)) := by
  have hexec : exec .shaperRefill s = liveDev (fun d => d.refilling.refillShapers.refillPolicers) s := rfl
  refine yields_of_liveDev hl hexec (execShaperRefill_framed s) (by decide) ?_
  have htame := s.m.dev.refilling.refillBuckets_tame
  have hclk : s.m.dev.refilling.clk = max s.m.dev.clk (s.m.dev.refillAt + 1000) := by
    rw [Nat.add_comm]
    exact Dev.advanceTo_clk ..
  have hregs : s.m.dev.refilling.regs = s.m.dev.regs := Dev.advanceTo_regs _
  have hreg (o : Nat) : s.m.dev.refilling.reg 0x21 o = s.m.dev.reg 0x21 o := by
    unfold Dev.reg
    rw [hregs]
  have hshapers : s.m.dev.refilling.shapers = s.m.dev.shapers := (s.m.dev.advanceTo_tame_self _).same .shapers (by decide)
  obtain ⟨-, -, -, -, -, -, hwf⟩ := hshape
  rw [← hregs] at hwf
  simp only [Dev.settle_clk, Dev.settle_refillAt]
  refine ⟨(htame.clk_eq (by decide)).trans hclk, (htame.same .refillAt (by decide)).trans (htame.clk_eq (by decide)).symm, ?_⟩
  intro i hi hrate hburst
  rw [← hreg] at hrate hburst
  have hbucket := congrArg Bucket.mb (Dev.refillShapers_bucket hwf hi hrate hburst)
  simp only [hreg] at hbucket
  simp only [Dev.bucket, Dev.settle_shapers, Dev.refillPolicers_shapers] at hbucket ⊢
  rw [hshapers] at hbucket
  exact hbucket

/-- Settles O25: a port keeps its frames while it is held, a fold over its queues reaches each queue once, and a refill each rated bucket
once. -/
theorem ethPorts : Obligations.EthPorts := by
  unfold Obligations.EthPorts
  intro s e hl hshape he
  exact ⟨fun lf rf bl hup hhold => portDown_yields hl hshape he lf rf bl hup hhold,
    fun hup hheld hin hwork hen => portUp_yields hl hshape he hup hheld hin hwork hen,
    fun hheld => ethHoldExpiry_yields hl hshape he hheld, shaperRefill_yields hl hshape, fun i hi => shaperReset_yields hl hi,
    gateIntervalEnd_yields hl he, fun hpow hok => ethGclCommit_yields hl hshape he hpow hok,
    fun g at_ hnext => gclActivate_yields hl hshape he hnext⟩

end Sys2Proof.Machine
end

section
/-! The granted frame of a port of a chip that does not relay it, and a received frame (R498, R501, R505, R507, R508, R527). -/

namespace Sys2Proof.Machine
open Sys2Proof

/-- The port without its granted frame. -/
def EthPort.ungranted (p : EthPort) : EthPort := { p with granted := none }

/-- The context of a flow once it has sent a packet (R507). -/
def Ctx.counted (c : Ctx) : Ctx := { c with packets := (c.packets + 1) % 2 ^ 32 }

/-- What the shaper of a flow pays for a frame (R503). -/
def Dev.payShaper (d : Dev) (bucket len : Nat) : Dev :=
  if bucket = 0xFFFF then d else d.setBucket false bucket { mb := (d.bucket false bucket).mb - 8000 * len }

/-- A frame that is ready goes to the PHY in its line time (R498, R501). -/
def Dev.toPhy (d : Dev) (e len : Nat) (frame : List Byte) : Dev := (d.advance (d.lineTime e len)).emit (.eth e frame)

section
variable {d : Dev} {e : Nat} {u : EthUnit}

theorem Dev.payShaper_shapers (bucket len : Nat) : (bucket = 0xFFFF → (d.payShaper bucket len).shapers = d.shapers) ∧
    (bucket ≠ 0xFFFF → (d.payShaper bucket len).shapers = Tbl.set (fun _ => {}) d.shapers bucket
      { mb := (d.bucket false bucket).mb - 8000 * len }) := by
  unfold Dev.payShaper
  exact ⟨fun h => by rw [if_pos h], fun h => by rw [if_neg h]; rfl⟩

theorem Dev.payShaper_tame (bucket len : Nat) : Dev.Tame (setOf [.shapers, .policers]) d (d.payShaper bucket len) :=
  Dev.tame_ite (.refl _ d) (Dev.setBucket_tame (by decide) (.refl _ d) ..)

theorem Dev.ethTransmit_of_no_flow (hg : (d.ethPort e).granted = some u) (hrole : d.boot.role ≠ 2) (hf : u.flow = none) :
    d.ethTransmit e = (d.onEth e EthPort.ungranted).toPhy e u.len u.payload := by
  unfold Dev.ethTransmit
  rw [hg]
  dsimp only
  rw [hf]
  have hrelay : decide ((d.onEth e EthPort.ungranted).boot.role = 2) = false := decide_eq_false hrole
  dsimp only
  rw [show (fun p : EthPort => { p with granted := none }) = EthPort.ungranted from rfl, hrelay]
  rfl

theorem Dev.ethTransmit_of_flow {f : Nat} {c : Ctx} (hg : (d.ethPort e).granted = some u) (hrole : d.boot.role ≠ 2) (hf : u.flow = some f)
    (hc : d.ctx f = some c) (hraw : u.raw = false) (hext : u.ext = false) :
    d.ethTransmit e = (((d.onEth e EthPort.ungranted).setCtx f (some c.counted)).payShaper c.flowBucket u.len).toPhy e u.len
      (c.buildFrame u.rtp u.marker u.pt u.payload) := by
  have hboot : (((d.onEth e EthPort.ungranted).setCtx f (some c.counted)).payShaper c.flowBucket u.len).boot = d.boot :=
    (Dev.payShaper_tame _ _).same .boot (by decide)
  have hctx : (d.onEth e (fun p => { p with granted := none })).ctx f = some c := hc
  unfold Dev.ethTransmit
  simp only [hg, hf, hctx, hraw, hext]
  refine if_neg (fun hrelay => hrole ?_)
  have h : (((d.onEth e EthPort.ungranted).setCtx f (some c.counted)).payShaper c.flowBucket u.len).boot.role = 2 :=
    of_decide_eq_true (Bool.and_eq_true_iff.1 hrelay).1
  rw [hboot] at h
  exact h

theorem Dev.toPhy_sent (len : Nat) (frame : List Byte) : Emission.eth e frame ∈ (d.toPhy e len frame).sent := List.mem_cons_self

theorem Dev.toPhy_clk (len : Nat) (frame : List Byte) : (d.toPhy e len frame).clk = d.clk + d.lineTime e len := rfl

theorem Dev.toPhy_leaves (len : Nat) (frame : List Byte) : (d.toPhy e len frame).eth = d.eth ∧
    (d.toPhy e len frame).shapers = d.shapers ∧ (d.toPhy e len frame).ctxs = d.ctxs := ⟨rfl, rfl, rfl⟩

theorem Dev.lineTime_congr {x : Dev} (h : x.regs = d.regs) (len : Nat) : x.lineTime e len = d.lineTime e len := by
  unfold Dev.lineTime Dev.reg
  rw [h]

end

/-! ### The clauses -/

section
variable {s : State} {e : Nat} (hl : s.Live) (hshape : s.m.dev.Shape) (he : e < 2)
include hl hshape he

section
variable {u : EthUnit} (hg : (s.m.dev.ethPort e).granted = some u) (hrole : s.m.dev.boot.role ≠ 2)
include hg hrole

theorem ethFrameTx_relayed_yields (hf : u.flow = none) :
    Yields (.ethFrameTx e) s [.clk, .stats, .sid, .eth, .shapers, .policers, .link, .ctxs] (fun t => (t.m.dev.ethPort e).granted = none ∧
      t.m.dev.clk = s.m.dev.clk + s.m.dev.lineTime e u.len ∧ Emission.eth e u.payload ∈ t.m.dev.sent) := by
  have hexec : exec (.ethFrameTx e) s = liveDev (fun d => (d.onEth e EthPort.ungranted).toPhy e u.len u.payload) s :=
    liveDev_congr ((onlyIf_of_true (decide_eq_true he) _ _).trans (Dev.ethTransmit_of_no_flow hg hrole hf))
  refine yields_of_liveDev hl hexec (execEthFrameTx_framed e s) (by decide) ?_
  have hport := Dev.ethPort_onEth_same (Dev.lt_eth_of_shape hshape he) EthPort.ungranted
  refine ⟨?_, ?_, Dev.mem_settle_sent (Dev.toPhy_sent ..)⟩
  · rw [Dev.settle_ethPort]
    exact congrArg EthPort.granted hport
  · rw [Dev.settle_clk]
    rfl

theorem ethFrameTx_flow_yields {f : Nat} {c : Ctx} (hf : u.flow = some f) (hc : s.m.dev.ctx f = some c) (hraw : u.raw = false)
    (hext : u.ext = false) :
    Yields (.ethFrameTx e) s [.clk, .stats, .sid, .eth, .shapers, .policers, .link, .ctxs] (fun t => (t.m.dev.ethPort e).granted = none ∧
      t.m.dev.clk = s.m.dev.clk + s.m.dev.lineTime e u.len ∧
      Emission.eth e (c.buildFrame u.rtp u.marker u.pt u.payload) ∈ t.m.dev.sent ∧
      (c.flowBucket = 0xFFFF → t.m.dev.shapers = s.m.dev.shapers) ∧
      t.m.dev.ctx f = some { c with packets := (c.packets + 1) % 2 ^ 32 } ∧
      (c.flowBucket ≠ 0xFFFF → t.m.dev.shapers = Tbl.set (fun _ => {}) s.m.dev.shapers c.flowBucket
        { mb := (s.m.dev.bucket false c.flowBucket).mb - 8000 * u.len })) := by
  have hexec : exec (.ethFrameTx e) s = liveDev (fun d => (((d.onEth e EthPort.ungranted).setCtx f (some c.counted)).payShaper
      c.flowBucket u.len).toPhy e u.len (c.buildFrame u.rtp u.marker u.pt u.payload)) s :=
    liveDev_congr ((onlyIf_of_true (decide_eq_true he) _ _).trans (Dev.ethTransmit_of_flow hg hrole hf hc hraw hext))
  refine yields_of_liveDev hl hexec (execEthFrameTx_framed e s) (by decide) ?_
  have hport := Dev.ethPort_onEth_same (Dev.lt_eth_of_shape hshape he) EthPort.ungranted
  have hpaid := (s.m.dev.onEth e EthPort.ungranted |>.setCtx f (some c.counted)).payShaper_shapers c.flowBucket u.len
  have htame := (s.m.dev.onEth e EthPort.ungranted |>.setCtx f (some c.counted)).payShaper_tame c.flowBucket u.len
  have hregs : ((s.m.dev.onEth e EthPort.ungranted |>.setCtx f (some c.counted)).payShaper c.flowBucket u.len).regs = s.m.dev.regs := by
    unfold Dev.payShaper
    split <;> rfl
  obtain ⟨hfree, hcost⟩ := hpaid
  have heth := htame.same .eth (by decide)
  have hctxs := htame.same .ctxs (by decide)
  have hclk := htame.clk_eq (by decide)
  generalize ((s.m.dev.onEth e EthPort.ungranted).setCtx f (some c.counted)).payShaper c.flowBucket u.len = x at *
  obtain ⟨hteth, htshapers, htctxs⟩ := x.toPhy_leaves (e := e) u.len (c.buildFrame u.rtp u.marker u.pt u.payload)
  simp only [Dev.settle_ethPort, Dev.settle_clk, Dev.settle_shapers, Dev.ctx, Dev.settle_ctxs]
  refine ⟨?_, ?_, Dev.mem_settle_sent (Dev.toPhy_sent ..), fun h => htshapers.trans (hfree h), ?_, fun h => htshapers.trans (hcost h)⟩
  · rw [Dev.ethPort, hteth, heth]
    exact congrArg EthPort.granted hport
  · rw [Dev.toPhy_clk, Dev.lineTime_congr hregs, hclk]
    rfl
  · rw [htctxs, hctxs]
    exact Tbl.get_set_same (fun _ => none) _ f (Option.some_ne_none _)

end

section
variable (hup : (s.m.dev.ethPort e).up = true) (hwork : s.m.dev.takesWork (18 + e) = true) (frame : List Byte)
include hup hwork

/-- A frame with a bad FCS is counted (R498). -/
theorem ethFrameRx_bad_yields : Yields (.ethFrameRx e false frame) s [.cqs, .shapers, .policers, .hostMem, .feat 0x21] (fun t =>
    t.m.mem = s.m.mem ∧ t.m.dev.reg 0x21 (0x100 * e + 0x70) = word (satAdd32 (s.m.dev.reg 0x21 (0x100 * e + 0x70)).toNat 1)) := by
  have hexec : exec (.ethFrameRx e false frame) s = live (fun m => { m with dev := m.dev.bump 0x21 (0x100 * e + 0x70) }) s :=
    live_congr (onlyIf_of_true (by rw [hup, hwork, decide_eq_true he]; rfl) _ _)
  refine yields_of_live hl hexec (execEthFrameRx_framed e false frame s) (by decide) ⟨rfl, ?_⟩
  rw [Dev.settle_reg]
  exact Dev.reg_bump hshape ..

section
variable (htyp : (if frameTag frame then slice frame 16 2 else slice frame 12 2) ≠ [0x88, 0x08]) (hptp : isPtpFrame frame = false)
  {f : Nat} {c : Ctx}
  (hfind : s.m.dev.flows.find? (fun f => decide (f.2.flowDir = 1 ∧ f.2.flowPort = e) && f.2.matchesFrame frame) = some (f, c))
include htyp hptp hfind

omit hshape in
/-- The frame of a flow without a policer goes to the ring of the flow. -/
theorem ethFrameRx_flow_yields (hb : c.flowBucket = 0xFFFF) :
    Yields (.ethFrameRx e true frame) s [.cqs, .shapers, .policers, .hostMem, .feat 0x21] (fun t =>
      t.m.mem = (s.m.ringDeliver (rd c.params 6 1) 4 frame).2.mem ∧
      t.m.dev.host.cqs = (s.m.ringDeliver (rd c.params 6 1) 4 frame).2.dev.host.cqs) := by
  have hexec : exec (.ethFrameRx e true frame) s = live (fun m => (m.ringDeliver (rd c.params 6 1) 4 frame).2) s := by
    show execEthFrameRx e true frame s = _
    unfold execEthFrameRx
    refine live_congr ?_
    rw [onlyIf_of_true (by rw [hup, hwork, decide_eq_true he]; rfl)]
    dsimp only
    rw [hfind, if_neg htyp, hptp]
    exact if_pos hb
  refine yields_of_live hl hexec (execEthFrameRx_framed e true frame s) (by decide) ⟨rfl, ?_⟩
  exact Dev.settle_host_cqs _

/-- A frame beyond the tokens of its policer is counted (R505). -/
theorem ethFrameRx_policed_yields (hb : c.flowBucket ≠ 0xFFFF) (hmb : (s.m.dev.bucket true c.flowBucket).mb < 8000 * (frame.length + 4)) :
    Yields (.ethFrameRx e true frame) s [.cqs, .shapers, .policers, .hostMem, .feat 0x21] (fun t => t.m.mem = s.m.mem ∧
      t.m.dev.reg 0x21 (bucketReg true c.flowBucket + 0xC) =
        word (satAdd32 (s.m.dev.reg 0x21 (bucketReg true c.flowBucket + 0xC)).toNat 1)) := by
  have hexec : exec (.ethFrameRx e true frame) s =
      live (fun m => { m with dev := m.dev.bump 0x21 (bucketReg true c.flowBucket + 0xC) }) s := by
    show execEthFrameRx e true frame s = _
    unfold execEthFrameRx
    refine live_congr ?_
    rw [onlyIf_of_true (by rw [hup, hwork, decide_eq_true he]; rfl)]
    dsimp only
    rw [hfind, if_neg htyp, hptp]
    exact (if_neg hb).trans (if_neg (Nat.not_le_of_lt hmb))
  refine yields_of_live hl hexec (execEthFrameRx_framed e true frame s) (by decide) ⟨rfl, ?_⟩
  rw [Dev.settle_reg]
  exact Dev.reg_bump hshape ..

end

end

end

/-- Settles O26: a granted frame that is not relayed goes to the PHY, and the first ingress flow that matches decides on a received
frame. -/
theorem ethFrames : Obligations.EthFrames := by
  unfold Obligations.EthFrames
  intro s e hl hshape he
  refine ⟨fun u hg hrole => ⟨fun hf => ethFrameTx_relayed_yields hl hshape he hg hrole hf,
    fun f c hf hc hraw hext => ethFrameTx_flow_yields hl hshape he hg hrole hf hc hraw hext⟩, fun hup hwork frame =>
    ⟨ethFrameRx_bad_yields hl hshape he hup hwork frame, fun htyp hptp => ⟨fun f c hfind hb => ?_, fun f c hfind hb hmb => ?_⟩⟩⟩
  · exact ethFrameRx_flow_yields hl he hup hwork frame htyp hptp hfind hb
  · exact ethFrameRx_policed_yields hl hshape he hup hwork frame htyp hptp hfind hb hmb

end Sys2Proof.Machine
end

section
/-! What the sending of flits and messages leaves of the Rudun links (R517 to R520, R526, R540, R542): all that says who is linked to whom,
and the queues of a port that carries nothing. -/

namespace Sys2Proof.Machine
open Sys2Proof

/-- A link port without what sending changes. -/
def LinkPort.still (q : LinkPort) : LinkPort :=
  { q with txSeq := 0, txAck := 0, nakSent := false, nakDue := false, replay := [], replays := 0, ackAt := 0, credit := [], creditAt := 0,
           owed := [], owedTurn := 0, tickQ := [], ctrlQ := [], cellQ := [], parts := [] }

/-- The flits that a port holds. -/
def LinkPort.load (q : LinkPort) : List Flit × List Flit × List Flit × List Flit := (q.tickQ, q.ctrlQ, q.cellQ, q.replay)

/-- The links without their ports and without what FAULT messages keep. -/
def Links.rest (l : Links) : Links := { l with ports := [], faultAt := [], faultHeld := [] }

/-- The second device is the first one after it has sent and forwarded flits. -/
structure Dev.Forwards (d e : Dev) : Prop where
  length : e.link.ports.length = d.link.ports.length
  still : ∀ j, (e.port j).still = (d.port j).still
  load : ∀ j, (d.port j).carries = false → (e.port j).load = (d.port j).load
  sent : d.sent ⊆ e.sent

/-- The second device is the first one after it has sent messages. -/
structure Dev.Sends (d e : Dev) : Prop extends Dev.Forwards d e where
  rest : e.link.rest = d.link.rest

/-- Whether a port carries anything is no matter of sending. -/
theorem LinkPort.carries_of_still {p q : LinkPort} (h : p.still = q.still) : p.carries = q.carries := by
  have hstate : p.still.state = q.still.state := congrArg LinkPort.state h
  change p.state = q.state at hstate
  rw [LinkPort.carries, hstate, LinkPort.carries]

namespace Dev.Forwards
variable {d e f : Dev}

theorem refl (d : Dev) : d.Forwards d := ⟨rfl, fun _ => rfl, fun _ _ => rfl, List.Subset.refl _⟩

theorem trans (h : d.Forwards e) (k : e.Forwards f) : d.Forwards f :=
  ⟨k.length.trans h.length, fun j => (k.still j).trans (h.still j),
    fun j hj => (k.load j ((LinkPort.carries_of_still (h.still j)).trans hj)).trans (h.load j hj), fun _ hx => k.sent (h.sent hx)⟩

theorem of_ports (hl : e.link.ports = d.link.ports) (hs : e.sent = d.sent) : d.Forwards e := by
  have hport (j : Nat) : e.port j = d.port j := congrArg (fun l => l.getD j {}) hl
  exact ⟨congrArg List.length hl, fun j => congrArg LinkPort.still (hport j), fun j _ => congrArg LinkPort.load (hport j),
    fun x hx => hs ▸ hx⟩

end Dev.Forwards

namespace Dev.Sends
variable {d e f : Dev}

theorem refl (d : Dev) : d.Sends d := ⟨.refl d, rfl⟩

theorem trans (h : d.Sends e) (k : e.Sends f) : d.Sends f := ⟨h.toForwards.trans k.toForwards, k.rest.trans h.rest⟩

theorem of_link (hl : e.link = d.link) (hs : e.sent = d.sent) : d.Sends e :=
  ⟨.of_ports (congrArg Links.ports hl) hs, congrArg Links.rest hl⟩

theorem inbox (h : d.Sends e) : e.link.inbox = d.link.inbox := (congrArg Links.inbox h.rest :)

theorem workers (h : d.Sends e) : e.link.workers = d.link.workers := (congrArg Links.workers h.rest :)

end Dev.Sends

/-! ### Ports -/

section
variable {d : Dev}

/-- What a port is after a change of one. -/
theorem Dev.port_onPort (p : Nat) (f : LinkPort → LinkPort) (j : Nat) :
    (d.onPort p f).port j = if j = p ∧ p < d.link.ports.length then f (d.port p) else d.port j := by
  by_cases hp : p < d.link.ports.length
  · refine (modAt_getD d.link.ports p j f {} (.inr (.inl hp))).trans ?_
    by_cases hj : j = p
    · subst hj
      exact (if_pos rfl).trans (if_pos ⟨rfl, hp⟩).symm
    · exact (if_neg (Ne.symm hj)).trans (if_neg (fun h => hj h.1)).symm
  · rw [if_neg (fun h => hp h.2)]
    exact congrArg (fun l : List LinkPort => l.getD j {}) (modAt_of_le _ p f (Nat.le_of_not_lt hp))

theorem Dev.port_onPort_same {p : Nat} (hp : p < d.link.ports.length) (f : LinkPort → LinkPort) : (d.onPort p f).port p = f (d.port p) :=
  (Dev.port_onPort p f p).trans (if_pos ⟨rfl, hp⟩)

theorem Dev.port_onPort_of_ne {p j : Nat} (h : j ≠ p) (f : LinkPort → LinkPort) : (d.onPort p f).port j = d.port j :=
  (Dev.port_onPort p f j).trans (if_neg (fun k => h k.1))

theorem Dev.onPort_ports_length (p : Nat) (f : LinkPort → LinkPort) : (d.onPort p f).link.ports.length = d.link.ports.length :=
  modAt_length ..

/-- A port's change is one of sending where it keeps what sending keeps. -/
theorem Dev.onPort_sends {p : Nat} {f : LinkPort → LinkPort} (hs : (f (d.port p)).still = (d.port p).still)
    (hq : (d.port p).carries = false → (f (d.port p)).load = (d.port p).load) : d.Sends (d.onPort p f) := by
  refine ⟨⟨Dev.onPort_ports_length p f, fun j => ?_, fun j hj => ?_, List.Subset.refl _⟩, rfl⟩
  · rw [Dev.port_onPort]
    split
    next h => rw [hs, h.1]
    next => rfl
  · rw [Dev.port_onPort]
    split
    next h => rw [hq (h.1 ▸ hj), h.1]
    next => rfl

theorem Dev.count_sends (off n : Nat) : d.Sends (d.count off n) := .of_link rfl rfl

theorem Dev.bump_sends (feat off n : Nat) : d.Sends (d.bump feat off n) := .of_link rfl rfl

theorem Dev.countMax_sends (off v : Nat) : d.Sends (d.countMax off v) := by
  unfold Dev.countMax
  split
  · exact .of_link rfl rfl
  · exact .refl d

theorem Dev.emit_sends (x : Emission) : d.Sends (d.emit x) :=
  ⟨⟨rfl, fun _ => rfl, fun _ _ => rfl, fun _ hx => List.mem_cons_of_mem _ hx⟩, rfl⟩

theorem Dev.wireFlit_sends (p : Nat) (f : Flit) : d.Sends (d.wireFlit p f) := by
  unfold Dev.wireFlit
  dsimp only
  refine .trans (.trans (Dev.onPort_sends ?_ ?_) (Dev.count_sends ..)) (Dev.emit_sends _)
  · rfl
  · exact fun _ => rfl

/-- A flit on the wire is emitted. -/
theorem Dev.wireFlit_sent (p : Nat) (f : Flit) : ∃ ack nak pool n, Emission.flit p f ack nak pool n ∈ (d.wireFlit p f).sent :=
  ⟨_, _, _, _, List.mem_cons_self⟩

theorem Dev.sendFlit_sends {p : Nat} (hup : (d.port p).state = .up) (f : Flit) : d.Sends (d.sendFlit p f) := by
  have hcarries : (d.port p).carries = true := by
    rw [LinkPort.carries, hup]
    rfl
  unfold Dev.sendFlit
  extract_lets port f1 start port1 d1 d2
  have h1 : d.Sends d1 := .trans (Dev.onPort_sends rfl (fun h => absurd (h.symm.trans hcarries) Bool.false_ne_true)) (Dev.wireFlit_sends ..)
  have h2 : d1.Sends d2 := by
    dsimp only [d2]
    split
    · exact Dev.count_sends ..
    · split
      · exact Dev.count_sends ..
      · exact .refl _
  exact (h1.trans h2).trans (Dev.countMax_sends ..)

theorem Dev.noteCredit_sends (p : Nat) : d.Sends (d.noteCredit p) := by
  unfold Dev.noteCredit
  dsimp only
  split
  · split
    · exact Dev.onPort_sends rfl (fun _ => rfl)
    · exact .refl d
  · split
    · exact .refl d
    · exact .trans (Dev.count_sends ..) (Dev.onPort_sends rfl (fun _ => rfl))

/-- A control flit that is taken from its queue leaves all but the queue. -/
theorem LinkPort.nextCtrl_still {q r : LinkPort} {f : Flit} (h : q.nextCtrl = some (f, r)) : r.still = q.still := by
  unfold LinkPort.nextCtrl at h
  split at h
  · exact absurd h (Option.some_ne_none _).symm
  · split at h
    · split at h
      · obtain ⟨-, rfl⟩ := Prod.mk.inj (Option.some.inj h)
        rfl
      · exact absurd h (Option.some_ne_none _).symm
    · split at h
      · split at h
        · obtain ⟨-, rfl⟩ := Prod.mk.inj (Option.some.inj h)
          rfl
        · exact absurd h (Option.some_ne_none _).symm
      · exact absurd h (Option.some_ne_none _).symm

theorem Dev.pumpLink_sends (p k : Nat) : d.Sends (d.pumpLink p k) := by
  induction k generalizing d with
  | zero => exact Dev.noteCredit_sends p
  | succ k ih =>
    unfold Dev.pumpLink
    split
    next hup =>
      split
      next f r hnext =>
        have hstill := LinkPort.nextCtrl_still hnext
        have hcarries : (d.port p).carries = true := by
          rw [LinkPort.carries, hup]
          rfl
        have h1 : d.Sends (d.onPort p (fun _ => r)) :=
          Dev.onPort_sends hstill (fun h => absurd (h.symm.trans hcarries) Bool.false_ne_true)
        have hup1 : ((d.onPort p (fun _ => r)).port p).state = .up := (congrArg LinkPort.state (h1.still p) :).trans hup
        exact (h1.trans (Dev.sendFlit_sends hup1 f)).trans ih
      next => exact Dev.noteCredit_sends p
    next => exact Dev.noteCredit_sends p

theorem Dev.queueMsg_sends (p dest src code : Nat) (body : List Byte) : d.Sends (d.queueMsg p dest src code body) := by
  unfold Dev.queueMsg
  split
  next => exact .refl d
  next hc =>
    have hcarries : (d.port p).carries = true := by
      cases h : (d.port p).carries with
      | true => rfl
      | false => exact absurd (by rw [h]; rfl) hc
    refine .trans (Dev.onPort_sends ?_ (fun h => absurd (h.symm.trans hcarries) Bool.false_ne_true)) (Dev.pumpLink_sends ..)
    split <;> rfl

theorem Dev.sendMsg_sends (dest code : Nat) (body : List Byte) : d.Sends (d.sendMsg dest code body) := by
  unfold Dev.sendMsg
  split
  · exact Dev.queueMsg_sends ..
  · exact .refl d

theorem Dev.broadcastOn_sends (src code : Nat) (body : List Byte) (l : List Nat) : d.Sends (d.broadcastOn src code body l) := by
  induction l generalizing d with
  | nil => exact .refl d
  | cons p r ih =>
    unfold Dev.broadcastOn
    dsimp only
    split
    · exact .trans (Dev.queueMsg_sends ..) ih
    · exact ih

theorem Dev.broadcast_sends (code : Nat) (body : List Byte) : d.Sends (d.broadcast code body) := Dev.broadcastOn_sends ..

/-! ### Events and faults -/

theorem Dev.postEvent_sends (type sub arg : Nat) : d.Sends (d.postEvent type sub arg) := by
  have htame := Dev.postEvent_tame (ps := setOf [.seq, .commands, .events]) (by decide) (.refl _ d) type sub arg
  exact .of_link (htame.same .link (by decide)) (htame.same .sent (by decide))

theorem Dev.bbxPut_sends (r : BbxRegion) (b : List Byte) : d.Sends (d.bbxPut r b) := by
  have htame := Dev.bbxPut_tame (ps := setOf [.bbx]) (by decide) (.refl _ d) r b
  exact .of_link (htame.same .link (by decide)) (htame.same .sent (by decide))

theorem Dev.stopTwinkle_sends : d.Sends d.stopTwinkle := by
  have htame := Dev.stopTwinkle_tame (ps := setOf [.free, .twk]) (by decide) (.refl _ d)
  exact .of_link (htame.same .link (by decide)) (htame.same .sent (by decide))

theorem Dev.faultMsg_sends (src cls : Nat) (first : Bool) (stamp : List Byte) : d.Sends (d.faultMsg src cls first stamp) := by
  unfold Dev.faultMsg
  split
  · dsimp only
    split
    · exact ⟨.of_ports rfl rfl, rfl⟩
    · refine .trans ?_ (Dev.sendMsg_sends ..)
      exact ⟨.of_ports rfl rfl, rfl⟩
  · exact .refl d

theorem Dev.faultEntry_sends (src cls arg : Nat) : d.Sends (d.faultEntry src cls arg) := by
  unfold Dev.faultEntry
  extract_lets last supp body taken toFirst isFirst d1 d2 d3
  split
  · refine .trans ?_ (Dev.faultMsg_sends ..)
    exact .of_link rfl rfl
  · have h1 : d.Sends d1 := .of_link rfl rfl
    have h2 : d.Sends d2 := h1.trans (Dev.bbxPut_sends ..)
    have h3 : d2.Sends d3 := by
      dsimp only [d3]
      split
      · exact Dev.bbxPut_sends ..
      · exact .refl _
    have h4 : d.Sends (d3.faultMsg src cls isFirst d.stamp) := (h2.trans h3).trans (Dev.faultMsg_sends ..)
    clear_value d3
    exact h4.trans (.of_link rfl rfl)

/-- Raising a source sends no more than a message (R540). -/
theorem Dev.raise_sends (src arg : Nat) : d.Sends (d.raise src arg) := by
  unfold Dev.raise
  split
  · exact .refl d
  · extract_lets cls d1 d2 d3
    clear_value cls
    have h2 : d.Sends d2 := by
      dsimp only [d2]
      split <;> exact .of_link rfl rfl
    have h3 : d.Sends d3 := h2.trans (Dev.faultEntry_sends ..)
    split
    · exact h3.trans (Dev.postEvent_sends ..)
    · exact (h3.trans (Dev.postEvent_sends ..)).trans Dev.stopTwinkle_sends
    · exact h3

end

end Sys2Proof.Machine
end

section
/-! The states of a link port (R514, R521, R522). -/

namespace Sys2Proof.Machine
open Sys2Proof

/-- What LINK_INIT of the peer leaves of its port (R514). -/
def LinkPort.introduced (x : LinkMsg) (former : List Word) (q : LinkPort) : LinkPort :=
  { q with peerDev := rd x.body 2 2 % 4096, peerEnum := bit (rd x.body 2 2) 15, peerUid := wordsOf (slice x.body 4 16) 4,
           peerPort := rd x.body 1 1, peerRole := rd x.body 0 1, gotInit := true,
           subEnum := q.subEnum && decide (wordsOf (slice x.body 4 16) 4 = former) }

/-- A port that comes up anew. -/
def LinkPort.renewed (clk : Nat) (q : LinkPort) : LinkPort := { q.fresh clk with downPosted := false }

/-- What the loss of its lanes leaves of a port. -/
def LinkPort.lost (lanes until_ : Nat) (q : LinkPort) : LinkPort :=
  { q with state := .held, laneLock := lanes, holdUntil := until_, formerUid := q.peerUid, gotInit := false }

/-- What the end of its hold leaves of a port. -/
def LinkPort.flushed (q : LinkPort) : LinkPort :=
  { q with state := if q.laneLock = 15 then .init else .training, tickQ := [], ctrlQ := [], cellQ := [], replay := [], replays := 0,
           parts := [], gotInit := false, downPosted := true }

/-- A port whose peer makes no valid link with it. -/
def LinkPort.misfit (retryAt : Nat) (q : LinkPort) : LinkPort := { q with state := .miswired, retryAt := retryAt }

/-- The port comes up anew; the first peer of a worker's up port sets its clock discipline (R529). -/
def Dev.meet (d : Dev) (p rxNext : Nat) (first : Bool) : Dev :=
  if first then (d.linkUp p false rxNext).setReg 0x01 0x00C (setFld ((d.linkUp p false rxNext).reg 0x01 0x00C) 0 3 4)
  else d.linkUp p false rxNext

theorem Dev.meet_link (d : Dev) (p rxNext : Nat) (first : Bool) : (d.meet p rxNext first).link = (d.linkUp p false rxNext).link := by
  unfold Dev.meet
  split <;> rfl

section
variable {d : Dev} {p : Nat}

/-- Readmission changes what the manager keeps of the workers, and sends messages. -/
theorem Dev.readmit_sends : ∃ ws, (d.onLink (fun l => { l with workers := ws })).Sends (d.readmit p) := by
  unfold Dev.readmit
  refine ⟨_, List.foldlRecOn _ _ (.refl _) (fun x hx w _ => ?_)⟩
  dsimp only
  split
  · exact (hx.trans (Dev.sendMsg_sends ..)).trans (Dev.sendMsg_sends ..)
  · exact hx.trans (Dev.sendMsg_sends ..)

/-- What a port is once it is up anew. -/
theorem Dev.linkUp_new (hp : p < d.link.ports.length) (rxNext : Nat) :
    ((d.linkUp p false rxNext).port p).still = ((d.port p).renewed d.clk).still ∧ (d.linkUp p false rxNext).link.inbox = d.link.inbox := by
  unfold Dev.linkUp
  rw [if_neg Bool.false_ne_true]
  extract_lets posted d1 d2
  have hport : d1.port p = (d.port p).renewed d.clk := Dev.port_onPort_same hp (LinkPort.renewed d.clk)
  have h2 : d1.Sends d2 := by
    dsimp only [d2]
    split
    · exact Dev.postEvent_sends ..
    · exact .refl d1
  have hstill : (d2.port p).still = ((d.port p).renewed d.clk).still := (h2.still p).trans (congrArg LinkPort.still hport)
  have hinbox : d2.link.inbox = d.link.inbox := h2.inbox
  split
  · obtain ⟨ws, hws⟩ := d2.readmit_sends (p := p)
    exact ⟨(hws.still p).trans hstill, hws.inbox.trans hinbox⟩
  · exact ⟨hstill, hinbox⟩

/-- The end of a hold flushes the port. -/
theorem Dev.linkExpire_port (hp : p < d.link.ports.length) : ((d.linkExpire p).port p).still = (d.port p).flushed.still ∧
    ((d.linkExpire p).port p).load = ([], [], [], []) := by
  unfold Dev.linkExpire
  extract_lets q n lost gone d1 d2 d3
  have hport : d3.port p = (d.port p).flushed := Dev.port_onPort_same (d := d1) hp LinkPort.flushed
  have hsends : d3.Sends ((d3.raise (505 + 2 * p) p).postEvent 0x07 2 p) := (Dev.raise_sends ..).trans (Dev.postEvent_sends ..)
  have hcarries : (d3.port p).carries = false := by
    rw [hport, LinkPort.carries, LinkPort.flushed]
    dsimp only
    split <;> rfl
  refine ⟨(hsends.still p).trans (congrArg LinkPort.still hport), (hsends.load p hcarries).trans ?_⟩
  rw [hport]
  rfl

/-- LINK_INIT of a port, on its way (R542). -/
def Dev.initFlit (d : Dev) (p src : Nat) : Flit :=
  { type := 2, cls := 2, last := true, seq := 0, dest := 0, src := src, target := 0,
    payload := leBytes 1 1 ++ [0] ++ leBytes 2 24 ++ d.initBody p }

theorem Dev.initFlit_isInit (src : Nat) : (d.initFlit p src).isInit = true := by
  have hcode : rd (d.initFlit p src).payload 0 1 = 1 := by
    simp [rd, slice, Dev.initFlit, leBytes, leNat]
  rw [Flit.isInit, hcode]
  rfl

/-- The body of LINK_INIT depends on the role, on the enumeration and on the SEQ that the port expects. -/
theorem Dev.initBody_congr {e : Dev} (hrole : e.boot.role = d.boot.role) (hen : e.link.enumerated = d.link.enumerated) (hid : e.link.id = d.link.id)
    (hrx : (e.port p).rxNext = (d.port p).rxNext) : e.initBody p = d.initBody p := by
  unfold Dev.initBody
  rw [hrole, hen, hid, hrx]

end

/-! ### The clauses -/

section
variable {s : State} {p : Nat} (hl : s.Live) (hp : p < 4)
include hl hp

theorem lanesAligned_yields (hlen : s.m.dev.link.ports.length = 4) (hon : s.m.dev.linkOn p = true) (hst : (s.m.dev.port p).state = .training) :
    Yields (.lanesAligned p) s [.link] (fun t => (t.m.dev.port p).state = .init ∧ (t.m.dev.port p).laneLock = 15 ∧
      (t.m.dev.port p).initAt = s.m.dev.clk) := by
  have hexec : exec (.lanesAligned p) s = liveDev (fun d => d.onPort p (fun q =>
      { q with state := .init, laneLock := 15, gotInit := false, initAt := d.clk })) s := by
    show execLanesAligned p s = _
    unfold execLanesAligned
    refine liveDev_congr ?_
    rw [onlyIf_of_true (by rw [hon, decide_eq_true hp]; rfl)]
    rw [hst]
  refine yields_of_liveDev hl hexec (execLanesAligned_framed p s) (by decide) ?_
  rw [Dev.settle_port, Dev.port_onPort_same (hlen ▸ hp)]
  exact ⟨rfl, rfl, rfl⟩

theorem linkInitSend_yields (hlen : s.m.dev.link.ports.length = 4) (hlock : (s.m.dev.port p).laneLock = 15)
    (hst : (s.m.dev.port p).state = .init) :
    Yields (.linkInitSend p) s [.clk, .stats, .sid, .link] (fun t => t.m.dev.clk = max s.m.dev.clk (s.m.dev.port p).initAt ∧
      (t.m.dev.port p).initAt = t.m.dev.clk + 10000 ∧ ∃ f ack nak pool n, Emission.flit p f ack nak pool n ∈ t.m.dev.sent ∧
        f.isInit = true ∧ f.payload.drop 4 = s.m.dev.initBody p) := by
  have hexec : exec (.linkInitSend p) s = liveDev (fun d => ((d.advanceTo (d.port p).initAt).onPort p (fun q =>
      { q with initAt := 10000 + max q.initAt d.clk })).wireFlit p (((d.advanceTo (d.port p).initAt).onPort p (fun q =>
      { q with initAt := 10000 + max q.initAt d.clk })).initFlit p d.deviceId)) s := by
    show execLinkInitSend p s = _
    unfold execLinkInitSend
    refine liveDev_congr ?_
    rw [onlyIf_of_true (by rw [hlock, hst, decide_eq_true hp]; rfl)]
    rfl
  refine yields_of_liveDev hl hexec (execLinkInitSend_framed p s) (by decide) ?_
  have htame := s.m.dev.advanceTo_tame_self (s.m.dev.port p).initAt
  have hlink : (s.m.dev.advanceTo (s.m.dev.port p).initAt).link = s.m.dev.link := htame.same .link (by decide)
  have hport : ((s.m.dev.advanceTo (s.m.dev.port p).initAt).onPort p (fun q => { q with initAt := 10000 + max q.initAt s.m.dev.clk })).port p =
      { s.m.dev.port p with initAt := 10000 + max (s.m.dev.port p).initAt s.m.dev.clk } := by
    rw [Dev.port_onPort_same (by rw [hlink, hlen]; exact hp), Dev.port, hlink]
    rfl
  have hbody : ((s.m.dev.advanceTo (s.m.dev.port p).initAt).onPort p (fun q => { q with initAt := 10000 + max q.initAt s.m.dev.clk })).initBody p =
      s.m.dev.initBody p := by
    refine Dev.initBody_congr (congrArg Boot.role (htame.same .boot (by decide))) (congrArg Links.enumerated hlink :) (congrArg Links.id hlink :) ?_
    rw [hport]
  have hclk : ((s.m.dev.advanceTo (s.m.dev.port p).initAt).onPort p (fun q => { q with initAt := 10000 + max q.initAt s.m.dev.clk })).clk =
      max s.m.dev.clk (s.m.dev.port p).initAt := Dev.advanceTo_clk ..
  generalize (s.m.dev.advanceTo (s.m.dev.port p).initAt).onPort p (fun q => { q with initAt := 10000 + max q.initAt s.m.dev.clk }) = x at *
  have hat : ((x.wireFlit p (x.initFlit p s.m.dev.deviceId)).port p).initAt = (x.port p).initAt :=
    (congrArg LinkPort.initAt ((Dev.wireFlit_sends (d := x) p (x.initFlit p s.m.dev.deviceId)).still p) :)
  rw [Dev.settle_port, Dev.settle_clk]
  refine ⟨hclk, ?_, ?_⟩
  · rw [hat, hport]
    show _ = x.clk + 10000
    rw [hclk]
    dsimp only
    omega
  · obtain ⟨ack, nak, pool, n, hsent⟩ := Dev.wireFlit_sent (d := x) p (x.initFlit p s.m.dev.deviceId)
    exact ⟨_, ack, nak, pool, n, Dev.mem_settle_sent hsent, Dev.initFlit_isInit _, hbody⟩

section
variable {x : LinkMsg} {r : List LinkMsg} (htake : takeMsg p 1 s.m.dev.link.inbox = some (x, r)) (hst : (s.m.dev.port p).state = .init)
include htake hst

omit hl hp in
/-- LINK_INIT on a port in INIT brings it up or shows that it is miswired. -/
theorem execLinkInit_of_init : exec (.linkInit p) s = liveDev (fun d =>
    if (d.withMail r).pairing p (rd x.body 0 1) (rd x.body 1 1) then
      ((d.withMail r).onPort p (LinkPort.introduced x (d.port p).formerUid)).meet p (rd x.body 20 2 % 4096)
        (decide ((d.port p).peerUid = [0, 0, 0, 0]) && decide (d.boot.role = 2 ∧ p = 0))
    else ((d.withMail r).onPort p (LinkPort.introduced x (d.port p).formerUid)).onPort p (LinkPort.misfit (100000000 + d.clk))) s := by
  show execLinkInit p s = _
  unfold execLinkInit
  refine liveDev_congr ?_
  have hheld : ((s.m.dev.withMail r).port p).state ≠ .held := by
    show (s.m.dev.port p).state ≠ .held
    rw [hst]
    exact LinkState.noConfusion
  have hinit : ¬((s.m.dev.withMail r).port p).state ≠ .init := fun h => h hst
  rw [onMsg_eq htake]
  dsimp only
  rw [decide_eq_false hheld]
  simp only [Bool.false_and, Bool.false_eq_true, if_false, if_neg hinit]
  rfl

theorem linkInit_paired_yields (hlen : s.m.dev.link.ports.length = 4) (hpair : s.m.dev.pairing p (rd x.body 0 1) (rd x.body 1 1) = true) :
    Yields (.linkInit p) s [.seq, .stats, .commands, .events, .flt, .bbx, .link, .feat 0x01, .feat 0x22] (fun t =>
      (t.m.dev.port p).state = .up ∧ (t.m.dev.port p).rxNext = 0 ∧ (t.m.dev.port p).peerUid = wordsOf (slice x.body 4 16) 4 ∧
      (t.m.dev.port p).peerRole = rd x.body 0 1 ∧ (t.m.dev.port p).peerPort = rd x.body 1 1 ∧ t.m.dev.link.inbox = r) := by
  refine yields_of_liveDev hl (execLinkInit_of_init htake hst) (execLinkInit_framed p s) (by decide) ?_
  have hplen : p < (s.m.dev.withMail r).link.ports.length := hlen ▸ hp
  have hport := Dev.port_onPort_same hplen (LinkPort.introduced x (s.m.dev.port p).formerUid)
  obtain ⟨hstill, hinbox⟩ := Dev.linkUp_new (d := (s.m.dev.withMail r).onPort p (LinkPort.introduced x (s.m.dev.port p).formerUid)) (p := p)
    (by rw [Dev.onPort_ports_length]; exact hplen) (rd x.body 20 2 % 4096)
  rw [hport] at hstill
  have hpair' : (s.m.dev.withMail r).pairing p (rd x.body 0 1) (rd x.body 1 1) = true := hpair
  dsimp only
  rw [if_pos hpair', Dev.settle_port, Dev.settle_link, Dev.port, Dev.meet_link]
  exact ⟨(congrArg LinkPort.state hstill :), (congrArg LinkPort.rxNext hstill :), (congrArg LinkPort.peerUid hstill :),
    (congrArg LinkPort.peerRole hstill :), (congrArg LinkPort.peerPort hstill :), hinbox⟩

theorem linkInit_miswired_yields (hlen : s.m.dev.link.ports.length = 4) (hpair : s.m.dev.pairing p (rd x.body 0 1) (rd x.body 1 1) = false) :
    Yields (.linkInit p) s [.seq, .stats, .commands, .events, .flt, .bbx, .link, .feat 0x01, .feat 0x22] (fun t =>
      (t.m.dev.port p).state = .miswired ∧ (t.m.dev.port p).retryAt = s.m.dev.clk + 100000000 ∧ t.m.dev.link.inbox = r) := by
  refine yields_of_liveDev hl (execLinkInit_of_init htake hst) (execLinkInit_framed p s) (by decide) ?_
  have hpair' : ¬(s.m.dev.withMail r).pairing p (rd x.body 0 1) (rd x.body 1 1) = true := fun h => Bool.false_ne_true (hpair.symm.trans h)
  dsimp only
  rw [if_neg hpair', Dev.settle_port, Dev.settle_link,
    Dev.port_onPort_same (by rw [Dev.onPort_ports_length]; exact hlen ▸ hp)]
  exact ⟨rfl, Nat.add_comm .., rfl⟩

end

theorem linkLoss_yields (hlen : s.m.dev.link.ports.length = 4) {lanes : Nat} (hup : (s.m.dev.port p).state = .up) (hlanes : lanes % 16 ≠ 15)
    (hhold : fld (s.m.dev.reg 0x22 (0x100 * p)) 0 17 ≠ 0) :
    Yields (.linkLoss p 0 lanes) s [.clk, .seq, .stats, .commands, .events, .flt, .bbx, .sid, .link, .feat 0x22] (fun t =>
      (t.m.dev.port p).state = .held ∧ (t.m.dev.port p).laneLock = lanes % 16 ∧
      (t.m.dev.port p).holdUntil = s.m.dev.clk + 1000 * fld (s.m.dev.reg 0x22 (0x100 * p)) 0 17 ∧
      (t.m.dev.port p).formerUid = (s.m.dev.port p).peerUid) := by
  have hexec : exec (.linkLoss p 0 lanes) s = liveDev (fun d => (d.onPort p (LinkPort.lost (lanes % 16)
      (d.clk + 1000 * fld (d.reg 0x22 (0x100 * p)) 0 17))).raise (504 + 2 * p) p) s := by
    show execLinkLoss p 0 lanes s = _
    unfold execLinkLoss
    refine liveDev_congr ?_
    rw [onlyIf_of_true (by rw [hup, decide_eq_true hp]; rfl)]
    exact (if_neg hlanes).trans (if_neg hhold)
  refine yields_of_liveDev hl hexec (execLinkLoss_framed p 0 lanes s) (by decide) ?_
  have hport := Dev.port_onPort_same (d := s.m.dev) (hlen ▸ hp) (LinkPort.lost (lanes % 16)
    (s.m.dev.clk + 1000 * fld (s.m.dev.reg 0x22 (0x100 * p)) 0 17))
  have hstill := (Dev.raise_sends (d := s.m.dev.onPort p (LinkPort.lost (lanes % 16)
    (s.m.dev.clk + 1000 * fld (s.m.dev.reg 0x22 (0x100 * p)) 0 17))) (504 + 2 * p) p).still p
  rw [hport] at hstill
  rw [Dev.settle_port]
  exact ⟨(congrArg LinkPort.state hstill :), (congrArg LinkPort.laneLock hstill :), (congrArg LinkPort.holdUntil hstill :),
    (congrArg LinkPort.formerUid hstill :)⟩

theorem linkHoldExpiry_yields (hlen : s.m.dev.link.ports.length = 4) (hst : (s.m.dev.port p).state = .held) :
    Yields (.linkHoldExpiry p) s [.clk, .seq, .stats, .commands, .events, .flt, .bbx, .sid, .link, .feat 0x22] (fun t =>
      t.m.dev.clk = max s.m.dev.clk (s.m.dev.port p).holdUntil ∧
      (t.m.dev.port p).state = (if (s.m.dev.port p).laneLock = 15 then .init else .training) ∧
      (t.m.dev.port p).replay = [] ∧ (t.m.dev.port p).cellQ = [] ∧ (t.m.dev.port p).ctrlQ = [] ∧ (t.m.dev.port p).tickQ = []) := by
  have hexec : exec (.linkHoldExpiry p) s = liveDev (fun d => (d.advanceTo (d.port p).holdUntil).linkExpire p) s :=
    liveDev_congr (onlyIf_of_true (by rw [hst, decide_eq_true hp]; rfl) _ _)
  refine yields_of_liveDev hl hexec (execLinkHoldExpiry_framed p s) (by decide) ?_
  have hlink : (s.m.dev.advanceTo (s.m.dev.port p).holdUntil).link = s.m.dev.link :=
    (s.m.dev.advanceTo_tame_self _).same .link (by decide)
  obtain ⟨hstill, hload⟩ := Dev.linkExpire_port (d := s.m.dev.advanceTo (s.m.dev.port p).holdUntil) (p := p) (by rw [hlink, hlen]; exact hp)
  have hclk := (Dev.linkExpire_tame (ps := setOf [.free, .seq, .stats, .commands, .events, .flt, .twk, .bbx, .link, .sent, .feat 0x22])
    (by decide) (.refl _ (s.m.dev.advanceTo (s.m.dev.port p).holdUntil)) p).clk_eq (by decide)
  have hport : (s.m.dev.advanceTo (s.m.dev.port p).holdUntil).port p = s.m.dev.port p := by
    rw [Dev.port, hlink]
    rfl
  rw [hport] at hstill
  simp only [LinkPort.load, Prod.mk.injEq] at hload
  obtain ⟨htick, hctrl, hcell, hreplay⟩ := hload
  rw [Dev.settle_port, Dev.settle_clk]
  exact ⟨hclk.trans (Dev.advanceTo_clk ..), (congrArg LinkPort.state hstill :), hreplay, hcell, hctrl, htick⟩

theorem miswiredRetry_yields (hlen : s.m.dev.link.ports.length = 4) (hst : (s.m.dev.port p).state = .miswired) :
    Yields (.miswiredRetry p) s [.clk, .sid, .link] (fun t => t.m.dev.clk = max s.m.dev.clk (s.m.dev.port p).retryAt ∧
      (t.m.dev.port p).state = .training ∧ (t.m.dev.port p).laneLock = 0) := by
  have hexec : exec (.miswiredRetry p) s = liveDev (fun d => (d.advanceTo (d.port p).retryAt).onPort p (fun q =>
      { q with state := .training, laneLock := 0 })) s := liveDev_congr (onlyIf_of_true (by rw [hst, decide_eq_true hp]; rfl) _ _)
  refine yields_of_liveDev hl hexec (execMiswiredRetry_framed p s) (by decide) ?_
  have hlink : (s.m.dev.advanceTo (s.m.dev.port p).retryAt).link = s.m.dev.link :=
    (s.m.dev.advanceTo_tame_self _).same .link (by decide)
  rw [Dev.settle_port, Dev.settle_clk, Dev.port_onPort_same (by rw [hlink, hlen]; exact hp)]
  exact ⟨Dev.advanceTo_clk .., rfl, rfl⟩

end

/-- Settles O27: what is sent on the way leaves the state of the port, and the end of a hold leaves a port that takes nothing to send. -/
theorem linkPorts : Obligations.LinkPorts := by
  unfold Obligations.LinkPorts
  intro s p hl hp hlen
  exact ⟨fun hon hst => lanesAligned_yields hl hp hlen hon hst, fun hlock hst => linkInitSend_yields hl hp hlen hlock hst,
    fun x r htake hst => ⟨fun hpair => linkInit_paired_yields hl hp htake hst hlen hpair,
      fun hpair => linkInit_miswired_yields hl hp htake hst hlen hpair⟩,
    fun lanes hup hlanes hhold => linkLoss_yields hl hp hlen hup hlanes hhold, fun hst => linkHoldExpiry_yields hl hp hlen hst,
    fun hst => miswiredRetry_yields hl hp hlen hst⟩

end Sys2Proof.Machine
end

section
/-! A flit that is discarded, one that is accepted, and a replay (R517 to R520, R529). -/

namespace Sys2Proof.Machine
open Sys2Proof

/-- What an accepted flit leaves of its port before its sequence number counts (R519, R520). -/
def LinkPort.heard (x : RxFlit) (clk : Nat) (q : LinkPort) : LinkPort :=
  { q.acked x.ack clk with lastFlitAt := clk, credit := modAt (q.acked x.ack clk).credit x.crdPool (· + x.crdCount) }

/-- What the sequence number of an accepted flit leaves of its port (R518). -/
def LinkPort.advanced (q : LinkPort) : LinkPort := { q with rxNext := (q.rxNext + 1) % 4096, nakSent := false, nakDue := false }

/-- A port that begins a replay (R519). -/
def LinkPort.replaying (clk : Nat) (q : LinkPort) : LinkPort := { q with replays := q.replays + 1, ackAt := clk }

/-- The message that a TIME flit is kept as (R529). -/
def RxFlit.timeMsg (x : RxFlit) (p now : Nat) : LinkMsg :=
  { port := p, src := x.flit.src, code := 0x100 + rd x.flit.payload 0 1, body := x.flit.payload, at_ := now }

section
variable {d : Dev} {p : Nat}

/-- An acknowledgement leaves all but what sending changes. -/
theorem LinkPort.acked_still (q : LinkPort) (ack clk : Nat) : (q.acked ack clk).still = q.still := by
  unfold LinkPort.acked
  dsimp only
  split <;> rfl

theorem Dev.onPort_forwards {f : LinkPort → LinkPort} (hs : (f (d.port p)).still = (d.port p).still)
    (hq : (d.port p).carries = false → (f (d.port p)).load = (d.port p).load) : d.Forwards (d.onPort p f) :=
  (Dev.onPort_sends hs hq).toForwards

theorem Dev.wireFlits_sends (p : Nat) (l : List Flit) : d.Sends (l.foldl (fun d f => d.wireFlit p f) d) :=
  List.foldlRecOn l _ (.refl d) (fun _ hx f _ => hx.trans (Dev.wireFlit_sends p f))

theorem Dev.replay_sends : d.Sends (d.replay p) := by
  unfold Dev.replay
  extract_lets q d1 d2
  split
  · exact .refl d
  · have h1 : d.Sends d1 := (Dev.onPort_sends (f := LinkPort.replaying d.clk) rfl (fun _ => rfl)).trans (Dev.bump_sends ..)
    exact (h1.trans (Dev.count_sends ..)).trans (Dev.wireFlits_sends p _)

theorem Dev.idleFlit_sends : d.Sends (d.idleFlit p) := Dev.wireFlit_sends ..

theorem Dev.badFlit_sends : d.Sends (d.badFlit p) := by
  unfold Dev.badFlit
  extract_lets d1
  have h1 : d.Sends d1 := by
    refine .trans (.trans (Dev.bump_sends ..) (Dev.count_sends ..)) (Dev.onPort_sends ?_ (fun _ => ?_))
    · split <;> rfl
    · split <;> rfl
  split
  · exact h1.trans Dev.idleFlit_sends
  · exact h1

/-- What a discarded flit leaves of the registers (R518). -/
theorem Dev.badFlit_reg (o : Nat) : (d.badFlit p).reg 0x22 o = (d.bump 0x22 (0x100 * p + 0x24)).reg 0x22 o := by
  have htame : Dev.Tame (setOf [.stats, .link, .sent]) (d.bump 0x22 (0x100 * p + 0x24)) (d.badFlit p) := by
    unfold Dev.badFlit
    refine Dev.tame_ite (Dev.idleFlit_tame (by decide) ?_ p) ?_
    · exact Dev.onPort_tame (by decide) (Dev.count_tame (by decide) (.refl _ _) ..) ..
    · exact Dev.onPort_tame (by decide) (Dev.count_tame (by decide) (.refl _ _) ..) ..
  exact htame.reg_eq (by decide) (by decide) o

/-! ### Flits that are delivered or forwarded -/

theorem Dev.keepMsg_forwards (src : Nat) (l : List Byte) : d.Forwards (d.keepMsg p src l) := by
  unfold Dev.keepMsg
  dsimp only
  split <;> exact .of_ports rfl rfl

theorem Dev.keepCtrl_forwards (f : Flit) : d.Forwards (d.keepCtrl p f) := by
  unfold Dev.keepCtrl
  extract_lets part set
  have hset (l : List Byte) : d.Forwards (set l) := Dev.onPort_forwards rfl (fun _ => rfl)
  split
  · exact Dev.keepMsg_forwards ..
  · split
    · exact (hset _).trans (Dev.keepMsg_forwards ..)
    · exact hset _

theorem Dev.ethEnqueue_link (e q : Nat) (u : EthUnit) : (d.ethEnqueue e q u).2.link = d.link ∧ (d.ethEnqueue e q u).2.sent = d.sent := by
  have htame := Dev.ethEnqueue_tame (ps := setOf [.stats, .eth]) (by decide) (.refl _ d) e q u
  exact ⟨htame.same .link (by decide), htame.same .sent (by decide)⟩

theorem Dev.keepCell_forwards (f : Flit) : d.Forwards (d.keepCell f) := by
  unfold Dev.keepCell
  split
  · extract_lets key part put
    have hput (l : List Byte) : d.Forwards (put l) := .of_ports rfl rfl
    split
    · obtain ⟨hlink, hsent⟩ := Dev.ethEnqueue_link (d := put []) f.target (fld (d.reg 0x22 (0x828 + 4 * f.target)) 0 3)
        { flow := none, len := part.length + 4, at_ := d.clk, deadline := 0, rtp := 0, marker := false, payload := part }
      exact (hput []).trans (.of_ports (congrArg Links.ports hlink) hsent)
    · exact hput part
  · exact .refl d

theorem Dev.forwardOn_forwards (q : Nat) (f : Flit) : d.Forwards (d.forwardOn q f) := by
  unfold Dev.forwardOn
  split
  next => exact .refl d
  next hc =>
    have hcarries : (d.port q).carries = true := by
      cases h : (d.port q).carries with
      | true => rfl
      | false => exact absurd (by rw [h]; rfl) hc
    have hnot (h : (d.port q).carries = false) : False := Bool.false_ne_true (h.symm.trans hcarries)
    split
    · exact .trans (Dev.onPort_forwards rfl (fun h => (hnot h).elim)) (Dev.noteCredit_sends q).toForwards
    · refine .trans (Dev.onPort_forwards ?_ (fun h => (hnot h).elim)) (Dev.pumpLink_sends q 32).toForwards
      split <;> rfl

theorem Dev.copyDown_forwards (f : Flit) : d.Forwards (d.copyDown f) := by
  unfold Dev.copyDown
  refine List.foldlRecOn d.downPorts _ (.refl d) (fun x hx q _ => ?_)
  split
  · exact hx.trans (Dev.forwardOn_forwards q f)
  · exact hx

theorem Dev.deliver_forwards (f : Flit) : d.Forwards (d.deliver p f) := by
  unfold Dev.deliver
  extract_lets ctrl mine
  split
  · exact Dev.keepCtrl_forwards f
  · split
    · exact (Dev.keepCtrl_forwards f).trans (Dev.copyDown_forwards f)
    · split
      · exact Dev.keepCell_forwards f
      · split
        · exact Dev.forwardOn_forwards _ f
        · exact (Dev.bump_sends ..).toForwards

/-! ### Flits on a port that is up -/

/-- A flit is accepted where its check is good, its class is the one of its type, and its sequence number is the next (R517, R518). -/
theorem Dev.flitUp_accepts {x : RxFlit} (hcrc : x.crcGood = true) (hcls : x.flit.classOk = true)
    (hseq : x.flit.numbered = true → x.flit.seq = (d.port p).rxNext) :
    (!x.crcGood || !x.flit.classOk || (x.flit.numbered && decide (x.flit.seq ≠ (d.port p).rxNext))) = false := by
  rw [hcrc, hcls]
  cases hnum : x.flit.numbered with
  | false => rfl
  | true =>
    rw [hseq hnum]
    simp

/-- What a flit that is accepted leaves of the device before it is delivered. -/
def Dev.hearFlit (d : Dev) (p : Nat) (x : RxFlit) : Dev :=
  if x.nak then ((d.onPort p (LinkPort.heard x d.clk)).count (linkStat p 0x08)).replay p
  else (d.onPort p (LinkPort.heard x d.clk)).count (linkStat p 0x08)

/-- The next flit of the sequence, delivered or forwarded and answered (R518, R520, R526). -/
def Dev.takeFlit (d : Dev) (p : Nat) (f : Flit) : Dev :=
  let d5 := d.onPort p LinkPort.advanced
  (((if f.type = 1 then d5.count (linkStat p 0x28) else d5).oweCredit p f.pool).deliver p f).idleFlit p

theorem Dev.hearFlit_sends (x : RxFlit) : (d.onPort p (LinkPort.heard x d.clk)).Sends (d.hearFlit p x) := by
  unfold Dev.hearFlit
  split
  · exact .trans (Dev.count_sends ..) Dev.replay_sends
  · exact Dev.count_sends ..

theorem Dev.hearFlit_port (hp : p < d.link.ports.length) (x : RxFlit) :
    ((d.hearFlit p x).port p).still = { d.port p with lastFlitAt := d.clk }.still := by
  rw [(Dev.hearFlit_sends x).still p, Dev.port_onPort_same hp]
  exact congrArg (fun q : LinkPort => { q with lastFlitAt := d.clk }) ((d.port p).acked_still x.ack d.clk)

theorem Dev.takeFlit_forwards (f : Flit) : (d.onPort p LinkPort.advanced).Forwards (d.takeFlit p f) := by
  unfold Dev.takeFlit
  extract_lets d5
  have h1 : d5.Sends (if f.type = 1 then d5.count (linkStat p 0x28) else d5) := by
    split
    · exact Dev.count_sends ..
    · exact .refl d5
  refine ((h1.toForwards.trans ?_).trans (Dev.deliver_forwards f)).trans Dev.idleFlit_sends.toForwards
  exact Dev.onPort_forwards rfl (fun _ => rfl)

theorem Dev.flitUp_of_numbered {x : RxFlit} (hcrc : x.crcGood = true) (hcls : x.flit.classOk = true) (hnum : x.flit.numbered = true)
    (hseq : x.flit.seq = (d.port p).rxNext) : d.flitUp p x = ((d.hearFlit p x).takeFlit p x.flit).pumpLink p 32 := by
  unfold Dev.flitUp
  dsimp only
  rw [Dev.flitUp_accepts hcrc hcls (fun _ => hseq), hnum]
  rfl

/-- The next flit of the sequence counts (R518). -/
theorem Dev.flitUp_port (hp : p < d.link.ports.length) {x : RxFlit} (hcrc : x.crcGood = true) (hcls : x.flit.classOk = true)
    (hnum : x.flit.numbered = true) (hseq : x.flit.seq = (d.port p).rxNext) :
    ((d.flitUp p x).port p).still = { d.port p with lastFlitAt := d.clk, rxNext := ((d.port p).rxNext + 1) % 4096 }.still := by
  have hplen : p < (d.hearFlit p x).link.ports.length := by
    rw [(Dev.hearFlit_sends x).length, Dev.onPort_ports_length]
    exact hp
  rw [Dev.flitUp_of_numbered hcrc hcls hnum hseq, (Dev.pumpLink_sends p 32).still p, (Dev.takeFlit_forwards x.flit).still p,
    Dev.port_onPort_same hplen]
  exact congrArg (fun q : LinkPort => { q with rxNext := (q.rxNext + 1) % 4096 }) (Dev.hearFlit_port hp x)

/-- A TIME flit is kept for its row, and takes no sequence number (R529). -/
theorem Dev.flitUp_of_time {x : RxFlit} (hcrc : x.crcGood = true) (htype : x.flit.type = 3) (hcls : x.flit.cls = 0) :
    d.flitUp p x = ((d.hearFlit p x).withMail ((d.hearFlit p x).link.inbox ++ [x.timeMsg p d.sdt])).pumpLink p 32 := by
  have hnum : x.flit.numbered = false := by
    rw [Flit.numbered, htype]
    rfl
  have hok : x.flit.classOk = true := by
    rw [Flit.classOk, htype]
    exact decide_eq_true hcls
  unfold Dev.flitUp
  dsimp only
  rw [Dev.flitUp_accepts hcrc hok (fun h => absurd (hnum.symm.trans h) Bool.false_ne_true), hnum, htype]
  rfl

/-! ### Replays -/

/-- A link port without what a flit on the wire changes. -/
def LinkPort.offWire (q : LinkPort) : LinkPort := { q with owed := [], owedTurn := 0, nakDue := false, nakSent := false }

theorem Dev.wireFlit_offWire (f : Flit) (j : Nat) : ((d.wireFlit p f).port j).offWire = (d.port j).offWire := by
  refine (congrArg LinkPort.offWire (Dev.port_onPort (d := d) p (fun _ => _) j)).trans ?_
  split
  next h => rw [h.1]; rfl
  next => rfl

theorem Dev.wireFlits_offWire (l : List Flit) (j : Nat) :
    ((l.foldl (fun d f => d.wireFlit p f) d).port j).offWire = (d.port j).offWire :=
  foldl_keeps (g := fun x : Dev => (x.port j).offWire) (fun x f _ => Dev.wireFlit_offWire (d := x) f j) d

theorem Dev.wireFlits_sent {l : List Flit} {f : Flit} (hf : f ∈ l) :
    ∃ ack nak pool n, Emission.flit p f ack nak pool n ∈ (l.foldl (fun d f => d.wireFlit p f) d).sent := by
  induction l generalizing d with
  | nil => exact absurd hf List.not_mem_nil
  | cons g r ih =>
    obtain rfl | hr := List.mem_cons.1 hf
    · obtain ⟨ack, nak, pool, n, hsent⟩ := Dev.wireFlit_sent (d := d) p f
      exact ⟨ack, nak, pool, n, (Dev.wireFlits_sends p r).sent hsent⟩
    · exact ih hr

/-- The device that begins a replay. -/
def Dev.replaying (d : Dev) (p : Nat) : Dev := (d.onPort p (LinkPort.replaying d.clk)).bump 0x22 (0x100 * p + 0x20)

theorem Dev.replay_eq (h : (d.port p).replay ≠ []) : d.replay p = (d.port p).replay.foldl (fun d f => d.wireFlit p f)
    ((d.replaying p).count (linkStat p 0x40) (d.port p).replay.length) := by
  have hne : ¬(d.port p).replay.isEmpty = true := fun k => h (List.isEmpty_iff.1 k)
  exact if_neg hne

end

/-! ### The clauses -/

section
variable {s : State} {p : Nat} (hl : s.Live) (hp : p < 4) (hlen : s.m.dev.link.ports.length = 4) (hup : (s.m.dev.port p).state = .up)
include hp hup

omit hl in
/-- A flit that is no LINK_INIT acts as one on a port that is up. -/
theorem execFlitRx_of_up {raw : List Byte} (h : ((parseFlit raw).crcGood && (parseFlit raw).flit.isInit) = false) :
    exec (.flitRx p raw) s = liveDev (fun d => d.flitUp p (parseFlit raw)) s := by
  show execFlitRx p raw s = _
  unfold execFlitRx
  refine liveDev_congr ?_
  rw [onlyIf_of_true (decide_eq_true hp)]
  dsimp only
  rw [hup, h]
  rfl

include hl

/-- A flit with a bad check is discarded and counted (R518). -/
theorem flitRx_bad_yields (hshape : s.m.dev.Shape) {raw : List Byte} (hcrc : (parseFlit raw).crcGood = false) :
    Yields (.flitRx p raw) s [.stats, .eth, .link, .feat 0x22] (fun t => (t.m.dev.port p).rxNext = (s.m.dev.port p).rxNext ∧
      t.m.dev.link.inbox = s.m.dev.link.inbox ∧
      t.m.dev.reg 0x22 (0x100 * p + 0x24) = word (satAdd32 (s.m.dev.reg 0x22 (0x100 * p + 0x24)).toNat 1)) := by
  have hexec : exec (.flitRx p raw) s = liveDev (fun d => d.badFlit p) s := by
    refine (execFlitRx_of_up hp hup (by rw [hcrc]; rfl)).trans (liveDev_congr ?_)
    unfold Dev.flitUp
    dsimp only
    rw [hcrc]
    rfl
  refine yields_of_liveDev hl hexec (execFlitRx_framed p raw s) (by decide) ?_
  rw [Dev.settle_port, Dev.settle_link, Dev.settle_reg]
  have hsends := Dev.badFlit_sends (d := s.m.dev) (p := p)
  refine ⟨(congrArg LinkPort.rxNext (hsends.still p) :), hsends.inbox, ?_⟩
  rw [Dev.badFlit_reg]
  exact Dev.reg_bump hshape ..

include hlen

theorem flitRx_numbered_yields {raw : List Byte} (hcrc : (parseFlit raw).crcGood = true) (hcls : (parseFlit raw).flit.classOk = true)
    (hnum : (parseFlit raw).flit.numbered = true) (hinit : (parseFlit raw).flit.isInit = false)
    (hseq : (parseFlit raw).flit.seq = (s.m.dev.port p).rxNext) :
    Yields (.flitRx p raw) s [.stats, .eth, .link, .feat 0x22] (fun t =>
      (t.m.dev.port p).rxNext = ((s.m.dev.port p).rxNext + 1) % 4096 ∧ (t.m.dev.port p).lastFlitAt = s.m.dev.clk ∧
      (t.m.dev.port p).state = .up) := by
  refine yields_of_liveDev hl (execFlitRx_of_up hp hup (by rw [hinit, Bool.and_false])) (execFlitRx_framed p raw s) (by decide) ?_
  rw [Dev.settle_port]
  have hstill := Dev.flitUp_port (hlen ▸ hp) hcrc hcls hnum hseq
  exact ⟨(congrArg LinkPort.rxNext hstill :), (congrArg LinkPort.lastFlitAt hstill :), (congrArg LinkPort.state hstill :).trans hup⟩

theorem flitRx_time_yields {raw : List Byte} (hcrc : (parseFlit raw).crcGood = true) (htype : (parseFlit raw).flit.type = 3)
    (hcls : (parseFlit raw).flit.cls = 0) :
    Yields (.flitRx p raw) s [.stats, .eth, .link, .feat 0x22] (fun t => (t.m.dev.port p).rxNext = (s.m.dev.port p).rxNext ∧
      t.m.dev.link.inbox = s.m.dev.link.inbox ++ [(parseFlit raw).timeMsg p s.m.dev.sdt]) := by
  have hinit : (parseFlit raw).flit.isInit = false := by
    rw [Flit.isInit, htype]
    rfl
  have hexec : exec (.flitRx p raw) s = liveDev (fun d => ((d.hearFlit p (parseFlit raw)).withMail
      ((d.hearFlit p (parseFlit raw)).link.inbox ++ [(parseFlit raw).timeMsg p d.sdt])).pumpLink p 32) s :=
    (execFlitRx_of_up hp hup (by rw [hinit, Bool.and_false])).trans (liveDev_congr (Dev.flitUp_of_time hcrc htype hcls))
  refine yields_of_liveDev hl hexec (execFlitRx_framed p raw s) (by decide) ?_
  have hstill := Dev.hearFlit_port (d := s.m.dev) (hlen ▸ hp) (parseFlit raw)
  have hinbox := (Dev.hearFlit_sends (d := s.m.dev) (p := p) (parseFlit raw)).inbox
  generalize s.m.dev.hearFlit p (parseFlit raw) = x at *
  have hsends := Dev.pumpLink_sends (d := x.withMail (x.link.inbox ++ [(parseFlit raw).timeMsg p s.m.dev.sdt])) p 32
  rw [Dev.settle_port, Dev.settle_link]
  refine ⟨(congrArg LinkPort.rxNext ((hsends.still p).trans hstill) :), hsends.inbox.trans ?_⟩
  show x.link.inbox ++ _ = _
  rw [hinbox]
  rfl

theorem replayTimeout_yields (hshape : s.m.dev.Shape) (hne : (s.m.dev.port p).replay ≠ []) (hfew : (s.m.dev.port p).replays < 8) :
    Yields (.replayTimeout p) s [.clk, .stats, .sid, .link, .feat 0x22] (fun t =>
      t.m.dev.clk = max s.m.dev.clk ((s.m.dev.port p).ackAt + 4000) ∧ (t.m.dev.port p).replays = (s.m.dev.port p).replays + 1 ∧
      (t.m.dev.port p).replay = (s.m.dev.port p).replay ∧
      t.m.dev.reg 0x22 (0x100 * p + 0x20) = word (satAdd32 (s.m.dev.reg 0x22 (0x100 * p + 0x20)).toNat 1) ∧
      ∀ f ∈ (s.m.dev.port p).replay, ∃ ack nak pool n, Emission.flit p f ack nak pool n ∈ t.m.dev.sent) := by
  have hempty : (s.m.dev.port p).replay.isEmpty = false := by
    cases h : (s.m.dev.port p).replay with
    | nil => exact absurd h hne
    | cons _ _ => rfl
  have hexec : exec (.replayTimeout p) s = liveDev (fun d => (d.advanceTo (4000 + (d.port p).ackAt)).replay p) s :=
    liveDev_congr (onlyIf_of_true (by rw [hempty, hup, decide_eq_true hfew, decide_eq_true hp]; rfl) _ _)
  refine yields_of_liveDev hl hexec (execReplayTimeout_framed p s) (by decide) ?_
  have hclk := Dev.advanceTo_clk s.m.dev (4000 + (s.m.dev.port p).ackAt)
  have htame := Dev.advanceTo_tame_self s.m.dev (4000 + (s.m.dev.port p).ackAt)
  have hlink := htame.same .link (by decide)
  have hreg := htame.reg_eq (f := 0x22) (by decide) (by decide) (0x100 * p + 0x20)
  have hshape1 := htame.shape hshape
  dsimp only
  generalize s.m.dev.advanceTo (4000 + (s.m.dev.port p).ackAt) = x at *
  have hport : x.port p = s.m.dev.port p := congrArg (fun l : Links => l.ports.getD p {}) hlink
  have hplen : p < x.link.ports.length := by
    rw [hlink, hlen]
    exact hp
  have hdone : x.replay p = _ := Dev.replay_eq (by rw [hport]; exact hne)
  have hwire := Dev.wireFlits_offWire (d := (x.replaying p).count (linkStat p 0x40) (x.port p).replay.length) (p := p) (x.port p).replay p
  have hrep : ((x.replaying p).count (linkStat p 0x40) (x.port p).replay.length).port p = (x.port p).replaying x.clk :=
    Dev.port_onPort_same hplen (LinkPort.replaying x.clk)
  have hwtame : Dev.Tame (setOf [.stats, .link, .sent]) (x.replaying p) (x.replay p) := by
    rw [hdone]
    exact List.foldlRecOn _ _ (Dev.count_tame (by decide) (.refl _ _) ..) (fun _ h f _ => Dev.wireFlit_tame (by decide) h p f)
  rw [hrep, ← hdone, hport] at hwire
  rw [Dev.settle_port, Dev.settle_clk, Dev.settle_reg, Nat.add_comm]
  refine ⟨(hwtame.clk_eq (by decide)).trans hclk, (congrArg LinkPort.replays hwire :), (congrArg LinkPort.replay hwire :), ?_, fun f hf => ?_⟩
  · rw [hwtame.reg_eq (by decide) (by decide), ← hreg]
    exact Dev.reg_bump (d := x.onPort p (LinkPort.replaying x.clk)) hshape1 ..
  · rw [← hport] at hf
    obtain ⟨ack, nak, pool, n, hsent⟩ := Dev.wireFlits_sent (p := p)
      (d := (x.replaying p).count (linkStat p 0x40) (x.port p).replay.length) hf
    rw [← hdone] at hsent
    exact ⟨ack, nak, pool, n, Dev.mem_settle_sent hsent⟩

end

/-- Settles O28: what delivery and answers leave of the port, and a replay that puts each flit on the wire again. -/
theorem linkFlits : Obligations.LinkFlits := by
  unfold Obligations.LinkFlits
  intro s p hl hshape hp hlen hup
  refine ⟨fun raw hcrc => flitRx_bad_yields hl hp hup hshape hcrc, fun raw x hx hcrc hcls hnum hinit hseq => ?_,
    fun raw x hx hcrc htype hcls => ?_, fun hne hfew => replayTimeout_yields hl hp hlen hup hshape hne hfew⟩
  · subst hx
    exact flitRx_numbered_yields hl hp hlen hup hcrc hcls hnum hinit hseq
  · subst hx
    exact flitRx_time_yields hl hp hlen hup hcrc htype hcls

end Sys2Proof.Machine
end

section
/-! Enumeration, and the readmission of a worker (R443, R523 to R525). -/

namespace Sys2Proof.Machine
open Sys2Proof

/-- A down port before an enumeration. -/
def LinkPort.unasked (q : LinkPort) : LinkPort := { q with subEnum := false, enumAt := 0 }

/-- A port through which ENUM has gone (R523). -/
def LinkPort.asked (base at_ : Nat) (q : LinkPort) : LinkPort := { q with enumAt := at_, subId := base, subLast := base, subEnum := true }

/-- The device with its down ports ready for an enumeration. -/
def Dev.unasked (d : Dev) : Dev := d.downPorts.foldl (fun d p => d.onPort p LinkPort.unasked) d

/-- The device that is about to send ENUM through a down port. -/
def Dev.asking (d : Dev) (p : Nat) : Dev :=
  (d.onPort p (LinkPort.asked d.link.enumNext (d.clk + 1))).onLink (fun l => { l with enumPort := p + 1 })

/-- The device that has sent ENUM through a down port (R523). -/
def Dev.enumThrough (d : Dev) (p : Nat) : Dev :=
  (d.asking p).queueMsg p d.link.enumNext d.deviceId 2 (leBytes 2 d.link.enumNext ++ leBytes 1 (d.link.depth + 1))

/-- What an enumeration that goes on from a port leaves of the links. -/
structure Links.Explored (from_ : Nat) (l e : Links) : Prop where
  enumNext : e.enumNext = l.enumNext
  inbox : e.inbox = l.inbox
  enumerated : e.enumerated = l.enumerated
  id : e.id = l.id
  depth : e.depth = l.depth
  ports : ∀ j, j < from_ → (e.ports.getD j {}).still = (l.ports.getD j {}).still
  workers : ∀ w ∈ e.workers, ∃ v ∈ l.workers, v.id = w.id

/-- Sending leaves what an enumeration leaves. -/
theorem Dev.Sends.explored {d e : Dev} (h : d.Sends e) (k : Nat) : d.link.Explored k e.link :=
  ⟨(congrArg Links.enumNext h.rest :), h.inbox, (congrArg Links.enumerated h.rest :), (congrArg Links.id h.rest :),
    (congrArg Links.depth h.rest :), fun j _ => h.still j, fun w hw => ⟨w, h.workers ▸ hw, rfl⟩⟩

theorem Links.Explored.trans {k : Nat} {a b c : Links} (h : a.Explored k b) (g : b.Explored k c) : a.Explored k c := by
  refine ⟨g.enumNext.trans h.enumNext, g.inbox.trans h.inbox, g.enumerated.trans h.enumerated, g.id.trans h.id, g.depth.trans h.depth,
    fun j hj => (g.ports j hj).trans (h.ports j hj), fun w hw => ?_⟩
  obtain ⟨v, hv, hvw⟩ := g.workers w hw
  obtain ⟨u, hu, huv⟩ := h.workers v hv
  exact ⟨u, hu, huv.trans hvw⟩

section
variable {d : Dev} {from_ : Nat}

theorem Dev.enumThrough_sends (p : Nat) : (d.asking p).Sends (d.enumThrough p) := Dev.queueMsg_sends ..

theorem Dev.enumThrough_enumPort (p : Nat) : (d.enumThrough p).link.enumPort = p + 1 :=
  (congrArg Links.enumPort (Dev.enumThrough_sends (d := d) p).rest :)

theorem Dev.enumThrough_workers (p : Nat) : (d.enumThrough p).link.workers = d.link.workers := (Dev.enumThrough_sends (d := d) p).workers

theorem Dev.enumThrough_port {p : Nat} (hp : p < d.link.ports.length) : ((d.enumThrough p).port p).subEnum = true ∧
    ((d.enumThrough p).port p).subId = d.link.enumNext := by
  have hport : (d.asking p).port p = (d.port p).asked d.link.enumNext (d.clk + 1) := Dev.port_onPort_same hp _
  have hstill := ((Dev.enumThrough_sends (d := d) p).still p).trans (congrArg LinkPort.still hport)
  exact ⟨(congrArg LinkPort.subEnum hstill :), (congrArg LinkPort.subId hstill :)⟩

/-- Asking a port is a change of ports from the one on. -/
theorem Dev.enumThrough_explored {p : Nat} (h : from_ ≤ p) : d.link.Explored from_ (d.enumThrough p).link := by
  have hask : d.link.Explored from_ (d.asking p).link := by
    refine ⟨rfl, rfl, rfl, rfl, rfl, fun j hj => ?_, fun w hw => ⟨w, hw, rfl⟩⟩
    exact congrArg LinkPort.still (Dev.port_onPort_of_ne (d := d) (Nat.ne_of_lt (Nat.lt_of_lt_of_le hj h)) _)
  exact hask.trans ((Dev.enumThrough_sends p).explored from_)

theorem Dev.enumNextPort_eq : d.enumNextPort from_ = if 0xFFF < d.link.enumNext ∨ 8 ≤ d.link.depth then none
    else (d.downPorts.find? (fun p => decide (from_ ≤ p) && d.enumerable p)).map d.enumThrough := rfl

theorem Dev.enumNextPort_explored {e : Dev} (h : d.enumNextPort from_ = some e) : d.link.Explored from_ e.link := by
  rw [Dev.enumNextPort_eq] at h
  split at h
  · exact absurd h (Option.some_ne_none _).symm
  · obtain ⟨p, hp, rfl⟩ := Option.map_eq_some_iff.1 h
    have hfrom := List.find?_some (p := fun p => decide (from_ ≤ p) && d.enumerable p) hp
    exact Dev.enumThrough_explored (of_decide_eq_true (Bool.and_eq_true_iff.1 hfrom).1)

theorem Dev.complete_link (sq cid status result : Nat) (e : ErrInfo) : (d.complete sq cid status result e).link = d.link :=
  (Dev.complete_tame (ps := setOf [.seq, .commands, .errorLog]) (by decide) (.refl _ d) sq cid status result e).same .link (by decide)

end

/-- The links of a device whose enumeration is complete. -/
def Links.ended (l : Links) : Links := { l with enumPort := 0, last := l.enumNext - 1 }

/-- The links of a manager whose enumeration is complete (R443, R523). -/
def Links.surveyed (left : Nat) (l : Links) : Links :=
  { l with unassigned := left, enumCmd := none, workers := l.workers.map (fun w => { w with last := lastOf l.workers w l.enumNext }) }

theorem Mach.enumFinish_explored (m : Mach) (k : Nat) : m.dev.link.Explored k m.enumFinish.dev.link := by
  have hended : m.dev.link.Explored k (m.dev.onLink Links.ended).link :=
    ⟨rfl, rfl, rfl, rfl, rfl, fun _ _ => rfl, fun w hw => ⟨w, hw, rfl⟩⟩
  have hsurveyed (n : Nat) : m.dev.link.Explored k (((m.dev.onLink Links.ended).onLink (Links.surveyed n)).link) := by
    refine hended.trans ⟨rfl, rfl, rfl, rfl, rfl, fun _ _ => rfl, fun w hw => ?_⟩
    obtain ⟨v, hv, rfl⟩ := List.mem_map.1 hw
    exact ⟨v, hv, rfl⟩
  unfold Mach.enumFinish
  extract_lets next d left d1
  split
  · exact hended.trans ((Dev.queueMsg_sends ..).explored k)
  · split
    · exact hsurveyed _
    · split
      · exact hsurveyed _
      · dsimp only
        split
        · rw [Dev.complete_link]
          exact hsurveyed _
        · rw [Dev.complete_link]
          exact hsurveyed _

theorem Mach.enumGo_explored (m : Mach) (from_ : Nat) : m.dev.link.Explored from_ (m.enumGo from_).dev.link := by
  unfold Mach.enumGo
  split
  next e h => exact Dev.enumNextPort_explored h
  next => exact m.enumFinish_explored from_

/-! ### The clauses -/

theorem enumEntry_length (id parent port depth : Nat) (uid : List Byte) : (enumEntry id parent port depth uid).length = 16 := by
  simp [enumEntry, padTo, slice, leBytes]

section
variable {d : Dev}

theorem Dev.unasked_keeps {β : Type} {g : LinkPort → β} (hg : ∀ q, g q.unasked = g q) (j : Nat) : g (d.unasked.port j) = g (d.port j) := by
  unfold Dev.unasked
  exact foldl_keeps (g := fun x : Dev => g (x.port j)) (f := fun d p => d.onPort p LinkPort.unasked)
    (fun x p _ => modAt_getD_congr hg x.link.ports p j {}) d

theorem Dev.unasked_rest : d.unasked.link.rest = d.link.rest := by
  unfold Dev.unasked
  exact foldl_keeps (g := fun x : Dev => x.link.rest) (f := fun d p => d.onPort p LinkPort.unasked) (fun _ _ _ => rfl) d

theorem Dev.unasked_ports_length : d.unasked.link.ports.length = d.link.ports.length := by
  unfold Dev.unasked
  exact foldl_keeps (g := fun x : Dev => x.link.ports.length) (f := fun d p => d.onPort p LinkPort.unasked)
    (fun x p _ => Dev.onPort_ports_length (d := x) p _) d

theorem Dev.unasked_tame : Dev.Tame (setOf [.link]) d d.unasked := by
  unfold Dev.unasked
  exact List.foldlRecOn _ _ (.refl _ d) (fun _ h p _ => Dev.onPort_tame (by decide) h ..)

theorem Dev.downPorts_congr {e : Dev} (h : e.boot = d.boot) : e.downPorts = d.downPorts := by
  unfold Dev.downPorts
  rw [h]

end

section
variable {s : State} {sq cid p : Nat} {c : Cmd} (hr : s.Runs sq cid 0x28 c) (hrole : s.m.dev.boot.role = 1)
  (hcap : s.m.dev.anyCapture = false) (hidle : ∀ w ∈ s.m.dev.link.workers, w.reachable = true → w.armed = 0)

/-- The links of a manager that begins an enumeration. -/
def Links.begun (sq cid : Nat) (l : Links) : Links :=
  { l with enumerated := true, id := 0, depth := 0, enumNext := 1, workers := [], relays := [], enumCmd := some (sq, cid) }

/-- The manager that begins an enumeration (R443). -/
def Dev.surveying (d : Dev) (c : Cmd) (sq cid : Nat) : Dev := ((d.onLink (Links.begun sq cid)).keepRunning c).unasked

theorem Dev.surveying_rest (d : Dev) (c : Cmd) : (d.surveying c sq cid).link.rest = (d.link.begun sq cid).rest := Dev.unasked_rest

theorem Dev.surveying_ports_length (d : Dev) (c : Cmd) : (d.surveying c sq cid).link.ports.length = d.link.ports.length :=
  Dev.unasked_ports_length

theorem Dev.surveying_downPorts (d : Dev) (c : Cmd) : (d.surveying c sq cid).downPorts = d.downPorts :=
  Dev.downPorts_congr (e := d.surveying c sq cid) (Dev.unasked_tame.same .boot (by decide))

theorem Dev.surveying_state (d : Dev) (c : Cmd) (j : Nat) : ((d.surveying c sq cid).port j).state = (d.port j).state :=
  Dev.unasked_keeps (g := LinkPort.state) (fun _ => rfl) j

/-- The port that an enumeration asks first. -/
theorem Dev.surveying_enumNextPort (d : Dev) (c : Cmd) : (d.surveying c sq cid).enumNextPort 0 =
    (d.downPorts.find? (fun p => decide ((d.port p).state = .up))).map (d.surveying c sq cid).enumThrough := by
  have hpred : (fun q => decide (0 ≤ q) && (d.surveying c sq cid).enumerable q) = fun q => decide ((d.port q).state = .up) := by
    funext q
    rw [Dev.enumerable, Dev.surveying_state]
    rfl
  have hnext : (d.surveying c sq cid).link.enumNext = 1 := (congrArg Links.enumNext (d.surveying_rest c) :)
  have hdepth : (d.surveying c sq cid).link.depth = 0 := (congrArg Links.depth (d.surveying_rest c) :)
  rw [Dev.enumNextPort_eq, hpred, Dev.surveying_downPorts, hnext, hdepth]
  rfl

section
include hr

/-- The command of an enumeration goes on while it asks. -/
theorem surveying_cmd : (s.m.dev.surveying c sq cid).cmd sq cid = some { c with phase := .running } := by
  obtain ⟨-, hcmd, -⟩ := hr
  obtain ⟨rfl, rfl, -⟩ := Dev.cmd_key hcmd
  rw [Dev.surveying, Dev.cmd_of_cmds (Dev.unasked_tame.cmds_eq (by decide))]
  exact Dev.cmd_keepRunning (d := s.m.dev.onLink (Links.begun c.sq c.cid)) hcmd

end

include hcap hidle

/-- With nothing armed an enumeration begins (R443). -/
theorem constellationEnum_begins : ¬(s.m.dev.anyCapture || s.m.dev.link.workers.any (fun w => w.reachable && decide (0 < w.armed))) = true := by
  rw [hcap, Bool.false_or, List.any_eq_true]
  rintro ⟨w, hw, h⟩
  obtain ⟨hreach, harmed⟩ := Bool.and_eq_true_iff.1 h
  have hzero := hidle w hw hreach
  have hpos := of_decide_eq_true harmed
  omega

include hr

theorem constellationEnum_yields (hp : p < s.m.dev.link.ports.length)
    (hup : s.m.dev.downPorts.find? (fun p => decide ((s.m.dev.port p).state = .up)) = some p) :
    Yields (.constellationEnum sq cid) s [.seq, .stats, .commands, .errorLog, .admission, .link, .hostMem] (fun t => t.GoesOn sq cid ∧
      t.m.dev.link.enumPort = p + 1 ∧ t.m.dev.link.enumerated = true ∧ t.m.dev.link.id = 0 ∧ (t.m.dev.port p).subEnum = true ∧
      (t.m.dev.port p).subId = 1 ∧ t.m.dev.link.workers = []) := by
  have hgo : Mach.enumGo { s.m with dev := s.m.dev.surveying c sq cid } 0 = { s.m with dev := (s.m.dev.surveying c sq cid).enumThrough p } := by
    unfold Mach.enumGo
    rw [Dev.surveying_enumNextPort, hup]
    rfl
  have hcmd := surveying_cmd hr
  refine yields_of_goesOn (k := { c with phase := .running }) hr rfl (execConstellationEnum_framed sq cid s) (by decide)
    ((if_neg (constellationEnum_begins hcap hidle)).trans hgo) ?_ rfl ?_
  · rw [← hcmd]
    refine Dev.cmd_of_cmds ?_ ..
    exact (Dev.queueMsg_tame (ps := setOf [.stats, .link, .sent]) (by decide) (.refl _ _) ..).cmds_eq (by decide)
  · have hrest := s.m.dev.surveying_rest (sq := sq) (cid := cid) c
    have hlen : p < (s.m.dev.surveying c sq cid).link.ports.length := by
      rw [Dev.surveying_ports_length]
      exact hp
    have hnext : (s.m.dev.surveying c sq cid).link.enumNext = 1 := (congrArg Links.enumNext hrest :)
    have hen : (s.m.dev.surveying c sq cid).link.enumerated = true := (congrArg Links.enumerated hrest :)
    have hid : (s.m.dev.surveying c sq cid).link.id = 0 := (congrArg Links.id hrest :)
    have hworkers : (s.m.dev.surveying c sq cid).link.workers = [] := (congrArg Links.workers hrest :)
    simp only [State.settledAt, Dev.settle_port, Dev.settle_link]
    generalize s.m.dev.surveying c sq cid = x at *
    have hexpl := Dev.enumThrough_explored (d := x) (Nat.zero_le p)
    obtain ⟨hsub, hsubId⟩ := Dev.enumThrough_port hlen
    exact ⟨Dev.enumThrough_enumPort p, hexpl.enumerated.trans hen, hexpl.id.trans hid, hsub, hsubId.trans hnext,
      (Dev.enumThrough_workers p).trans hworkers⟩

end

section
variable {m : Mach} {sq cid : Nat} {k : Cmd}

/-- A manager that has found no worker completes its command with its own entry (R443, R524). -/
theorem Mach.enumFinish_alone (hrole : m.dev.boot.role ≠ 2) (hcmd : m.dev.link.enumCmd = some (sq, cid)) (hk : m.dev.cmd sq cid = some k)
    (hleft : m.dev.leftOut = 0) (hworkers : m.dev.link.workers = []) (hnext : m.dev.link.enumNext = 1) (hok : m.mem.dataOk k 16 = true) :
    m.enumFinish = { dev := ((m.dev.onLink Links.ended).onLink (Links.surveyed 0)).complete sq cid Status.ok 1,
                     mem := m.mem.dataOut k (enumEntry 0 0xFFF 0xFF 0 (slice uidBytes 0 8)) } := by
  have hcmd1 : (m.dev.onLink Links.ended).link.enumCmd = some (sq, cid) := hcmd
  have hk1 : ((m.dev.onLink Links.ended).onLink (Links.surveyed 0)).cmd sq cid = some k := hk
  have hleft1 : (m.dev.onLink Links.ended).leftOut = 0 := hleft
  have hout : ((m.dev.onLink Links.ended).onLink (Links.surveyed 0)).link.entries (m.dev.link.enumNext - 1) =
      enumEntry 0 0xFFF 0xFF 0 (slice uidBytes 0 8) := by
    rw [hnext]
    exact List.append_nil _
  have hnone : ((m.dev.onLink Links.ended).onLink (Links.surveyed 0)).link.workers = [] :=
    (congrArg (List.map (fun w : Worker => { w with last := lastOf m.dev.link.workers w m.dev.link.enumNext })) hworkers :)
  unfold Mach.enumFinish
  extract_lets next d left d1 out
  have hd : d = m.dev.onLink Links.ended := rfl
  have hl : left = 0 := hleft1
  have hd1 : d1 = (m.dev.onLink Links.ended).onLink (Links.surveyed 0) := by
    show (m.dev.onLink Links.ended).onLink (Links.surveyed left) = _
    rw [hl]
  have hentry : out = enumEntry 0 0xFFF 0xFF 0 (slice uidBytes 0 8) := by
    show d1.link.entries (m.dev.link.enumNext - 1) = _
    rw [hd1]
    exact hout
  clear_value out d1 left
  subst hd1 hl hentry
  rw [if_neg (show ¬d.boot.role = 2 from hrole), hd, hcmd1]
  dsimp only
  rw [hk1]
  dsimp only
  rw [enumEntry_length, hok, hnone]
  rfl

end

section
variable {s : State} {p : Nat} {x : LinkMsg} {r : List LinkMsg} (hl : s.Live)

/-- The links of a worker that has taken an ID (R523). -/
def Links.named (x : LinkMsg) (r : List LinkMsg) (l : Links) : Links :=
  { l with inbox := r, enumerated := true, id := rd x.body 0 2, last := rd x.body 0 2, depth := rd x.body 2 1, enumFrom := x.src,
           enumNext := rd x.body 0 2 + 1 }

/-- The worker that has sent its entry to the manager. -/
def Dev.announcing (d : Dev) (x : LinkMsg) (r : List LinkMsg) : Dev :=
  (d.onLink (Links.named x r)).unasked.sendMsg 0 4
    (enumEntry (rd x.body 0 2) x.src (((d.onLink (Links.named x r)).unasked).port 0).peerPort (rd x.body 2 1) (slice uidBytes 0 8))

theorem Dev.announcing_rest (d : Dev) : (d.announcing x r).link.rest = (d.link.named x r).rest :=
  (Dev.sendMsg_sends ..).rest.trans Dev.unasked_rest

section
include hl

theorem enum_yields (htake : takeMsg 0 2 s.m.dev.link.inbox = some (x, r)) (hrole : s.m.dev.boot.role = 2) :
    Yields (.enum 0) s [.seq, .stats, .commands, .errorLog, .link, .hostMem] (fun t => t.m.dev.link.enumerated = true ∧
      t.m.dev.link.id = rd x.body 0 2 ∧ t.m.dev.link.depth = rd x.body 2 1 ∧ t.m.dev.link.inbox = r) := by
  have hnot : ¬(s.m.dev.boot.role ≠ 2 ∨ (0 : Nat) ≠ 0) := by simp [hrole]
  have hexec : exec (.enum 0) s = live (fun m => Mach.enumGo { m with dev := m.dev.announcing x r } 1) s := by
    show execEnum 0 s = _
    unfold execEnum
    refine live_congr ?_
    rw [htake]
    exact if_neg hnot
  refine yields_of_live hl hexec (execEnum_framed 0 s) (by decide) ?_
  have hexpl := Mach.enumGo_explored { s.m with dev := s.m.dev.announcing x r } 1
  have hrest := s.m.dev.announcing_rest (x := x) (r := r)
  rw [Dev.settle_link]
  exact ⟨hexpl.enumerated.trans (congrArg Links.enumerated hrest :), hexpl.id.trans (congrArg Links.id hrest :),
    hexpl.depth.trans (congrArg Links.depth hrest :), hexpl.inbox.trans (congrArg Links.inbox hrest :)⟩

/-- A down port whose subtree has its IDs (R523). -/
def LinkPort.settledDown (base next : Nat) (q : LinkPort) : LinkPort :=
  { q with enumAt := 0, subId := base, subLast := next - 1, subEnum := decide (base < next), peerDev := base, peerEnum := true }

/-- The device whose port `p` has answered ENUM_DONE (R523). -/
def Dev.answered (d : Dev) (p : Nat) (x : LinkMsg) (r : List LinkMsg) : Dev :=
  ((d.withMail r).onLink (fun l => { l with enumNext := rd x.body 0 2 })).onPort p (LinkPort.settledDown d.link.enumNext (rd x.body 0 2))

theorem enumDone_yields (hp : p < s.m.dev.link.ports.length) (htake : takeMsg p 3 s.m.dev.link.inbox = some (x, r))
    (hport : s.m.dev.link.enumPort = p + 1) :
    Yields (.enumDone p) s [.seq, .stats, .commands, .errorLog, .link, .hostMem] (fun t => t.m.dev.link.enumNext = rd x.body 0 2 ∧
      t.m.dev.link.inbox = r ∧ (t.m.dev.port p).subId = s.m.dev.link.enumNext ∧ (t.m.dev.port p).subLast = rd x.body 0 2 - 1 ∧
      (t.m.dev.port p).subEnum = decide (s.m.dev.link.enumNext < rd x.body 0 2)) := by
  have hnot : ¬(s.m.dev.withMail r).link.enumPort ≠ p + 1 := fun h => h hport
  have hexec : exec (.enumDone p) s = live (fun m => Mach.enumGo { m with dev := m.dev.answered p x r } (p + 1)) s := by
    show execEnumDone p s = _
    unfold execEnumDone
    refine live_congr ?_
    rw [htake]
    exact if_neg hnot
  refine yields_of_live hl hexec (execEnumDone_framed p s) (by decide) ?_
  have hexpl := Mach.enumGo_explored { s.m with dev := s.m.dev.answered p x r } (p + 1)
  have hq : (s.m.dev.answered p x r).port p = (s.m.dev.port p).settledDown s.m.dev.link.enumNext (rd x.body 0 2) :=
    Dev.port_onPort_same (d := (s.m.dev.withMail r).onLink (fun l => { l with enumNext := rd x.body 0 2 })) hp _
  have hstill := (hexpl.ports p (Nat.lt_succ_self p)).trans (congrArg LinkPort.still hq)
  rw [Dev.settle_link, Dev.settle_port]
  exact ⟨hexpl.enumNext, hexpl.inbox, (congrArg LinkPort.subId hstill :), (congrArg LinkPort.subLast hstill :),
    (congrArg LinkPort.subEnum hstill :)⟩

theorem enumEntry_yields (htake : takeMsg p 4 s.m.dev.link.inbox = some (x, r)) (hrole : s.m.dev.boot.role = 1) :
    Yields (.enumEntry p) s [.link] (fun t => t.m.dev.link.inbox = r ∧ t.m.dev.link.workers =
      s.m.dev.link.workers.filter (fun v => decide (v.id ≠ rd x.body 0 2)) ++
        [{ id := rd x.body 0 2, parent := rd x.body 2 2, parentPort := rd x.body 4 1, depth := rd x.body 5 1, uid := slice x.body 8 8 }]) := by
  refine yields_of_liveDev hl rfl (execEnumEntry_framed p s) (by decide) ?_
  have hrole' : (s.m.dev.withMail r).boot.role = 1 := hrole
  rw [onMsg_eq htake, onlyIf_of_true (decide_eq_true hrole'), Dev.settle_link]
  exact ⟨rfl, rfl⟩

/-- The device that has waited 100 ms for ENUM_DONE (R523). -/
def Dev.unanswered (d : Dev) (p : Nat) : Dev :=
  ((d.advanceTo (100000000 + ((d.port p).enumAt - 1))).onPort p LinkPort.unasked).onLink (fun l =>
    { l with workers := l.workers.filter (fun w => decide (w.id < d.link.enumNext)) })

theorem enumTimeout_yields (hp : p < s.m.dev.link.ports.length) (hport : s.m.dev.link.enumPort = p + 1) :
    Yields (.enumTimeout p) s [.clk, .seq, .stats, .commands, .errorLog, .sid, .link, .hostMem] (fun t =>
      (t.m.dev.port p).subEnum = false ∧ t.m.dev.clk = max s.m.dev.clk (100000000 + ((s.m.dev.port p).enumAt - 1)) ∧
      ∀ w ∈ t.m.dev.link.workers, w.id < s.m.dev.link.enumNext) := by
  have hexec : exec (.enumTimeout p) s = live (fun m => Mach.enumGo { m with dev := m.dev.unanswered p } (p + 1)) s := by
    show execEnumTimeout p s = _
    unfold execEnumTimeout
    exact live_congr (onlyIf_of_true (decide_eq_true hport) _ _)
  refine yields_of_live hl hexec (execEnumTimeout_framed p s) (by decide) ?_
  have hexpl := Mach.enumGo_explored { s.m with dev := s.m.dev.unanswered p } (p + 1)
  have htame := Mach.enumGo_tame_dev (X := { s.m with dev := s.m.dev.unanswered p })
    (ps := setOf [.seq, .stats, .commands, .errorLog, .link, .sent]) (by decide) (.refl _ _) (p + 1)
  have hlink : (s.m.dev.advanceTo (100000000 + ((s.m.dev.port p).enumAt - 1))).link = s.m.dev.link :=
    (s.m.dev.advanceTo_tame_self _).same .link (by decide)
  have hq : (s.m.dev.unanswered p).port p = ((s.m.dev.advanceTo (100000000 + ((s.m.dev.port p).enumAt - 1))).port p).unasked :=
    Dev.port_onPort_same (by rw [hlink]; exact hp) _
  have hstill := (hexpl.ports p (Nat.lt_succ_self p)).trans (congrArg LinkPort.still hq)
  rw [Dev.settle_link, Dev.settle_port, Dev.settle_clk]
  refine ⟨(congrArg LinkPort.subEnum hstill :), (htame.clk_eq (by decide)).trans (Dev.advanceTo_clk ..), fun w hw => ?_⟩
  obtain ⟨v, hv, hvw⟩ := hexpl.workers w hw
  rw [← hvw]
  exact of_decide_eq_true (List.mem_filter.1 hv).2

/-- The links with a FIRST that is to be sent again, or none. -/
def Links.owing (lost : Option (List Byte)) (l : Links) : Links := { l with firstLost := lost }

omit hl in
/-- What a readmission sends leaves the links, but for a FIRST that was lost (R525, R541). -/
theorem Dev.readmitted_rest (d : Dev) : ∃ lost, d.readmitted.link.rest = d.link.rest.owing lost := by
  have hsends : d.Sends ([0, 1].foldl (fun d e => if d.relayOn e then d.askRelay e true (d.relayRate e) else d) d.sendState) := by
    refine List.foldlRecOn _ _ ?_ (fun y hy e _ => ?_)
    · unfold Dev.sendState
      split
      · exact Dev.sendMsg_sends ..
      · exact .refl d
    · split
      · exact hy.trans (Dev.sendMsg_sends ..)
      · exact hy
  unfold Dev.readmitted
  extract_lets d1 d2
  have hd2 : d2.link.rest = d.link.rest := hsends.rest
  clear_value d2
  split
  · exact ⟨none, congrArg (Links.owing none) ((Dev.sendMsg_sends (d := d2) ..).rest.trans hd2)⟩
  · exact ⟨d2.link.firstLost, congrArg (Links.owing d2.link.firstLost) hd2⟩

/-- The links of a worker that has its former ID again (R525). -/
def Links.readopted (x : LinkMsg) (r : List LinkMsg) (l : Links) : Links :=
  { l with inbox := r, enumerated := true, id := rd x.body 0 2, last := rd x.body 2 2, depth := rd x.body 4 1 }

/-- A down port whose worker falls into the IDs of the device again (R525). -/
def LinkPort.readopted (id last : Nat) (q : LinkPort) : LinkPort :=
  if q.peerEnum && !q.subEnum && decide (id < q.peerDev) && decide (q.peerDev ≤ last) then
    { q with subEnum := true, subId := q.peerDev, subLast := q.peerDev }
  else q

/-- The worker that has its former ID again, before what it sends. -/
def Dev.readopted (d : Dev) (x : LinkMsg) (r : List LinkMsg) : Dev :=
  (d.onLink (Links.readopted x r)).downPorts.foldl (fun d p => d.onPort p (LinkPort.readopted (rd x.body 0 2) (rd x.body 2 2)))
    (d.onLink (Links.readopted x r))

omit hl in
theorem Dev.readopted_rest (d : Dev) : (d.readopted x r).link.rest = (d.link.readopted x r).rest := by
  unfold Dev.readopted
  exact foldl_keeps (g := fun x : Dev => x.link.rest) (f := fun d p => d.onPort p (LinkPort.readopted (rd x.body 0 2) (rd x.body 2 2)))
    (fun _ _ _ => rfl) (d.onLink (Links.readopted x r))

theorem reassign_yields (htake : takeMsg p 5 s.m.dev.link.inbox = some (x, r)) (hrole : s.m.dev.boot.role = 2)
    (huid : slice x.body 5 8 = slice uidBytes 0 8) :
    Yields (.reassign p) s [.stats, .link] (fun t => t.m.dev.link.enumerated = true ∧ t.m.dev.link.id = rd x.body 0 2 ∧
      t.m.dev.link.last = rd x.body 2 2 ∧ t.m.dev.link.depth = rd x.body 4 1 ∧ t.m.dev.link.inbox = r) := by
  have hexec : exec (.reassign p) s = liveDev (fun d => (d.readopted x r).readmitted) s := by
    show execReassign p s = _
    unfold execReassign
    refine liveDev_congr ?_
    rw [onMsg_eq htake]
    refine (if_pos ?_).trans rfl
    rw [decide_eq_true huid, Bool.and_true]
    exact decide_eq_true hrole
  refine yields_of_liveDev hl hexec (execReassign_framed p s) (by decide) ?_
  obtain ⟨lost, hrest⟩ := (s.m.dev.readopted x r).readmitted_rest
  rw [Dev.readopted_rest] at hrest
  rw [Dev.settle_link]
  exact ⟨(congrArg Links.enumerated hrest :), (congrArg Links.id hrest :), (congrArg Links.last hrest :), (congrArg Links.depth hrest :),
    (congrArg Links.inbox hrest :)⟩

end

end

section
variable {s : State} {sq cid : Nat} {c : Cmd} (hr : s.Runs sq cid 0x28 c)
include hr

/-- A manager without a worker answers with its own entry (R443, R524). -/
theorem constellationEnum_alone_yields (hrole : s.m.dev.boot.role = 1) (hcap : s.m.dev.anyCapture = false)
    (hidle : ∀ w ∈ s.m.dev.link.workers, w.reachable = true → w.armed = 0)
    (hdown : ∀ q ∈ s.m.dev.downPorts, (s.m.dev.port q).state ≠ .up) (hok : s.m.mem.dataOk c 16 = true) :
    Yields (.constellationEnum sq cid) s [.seq, .stats, .commands, .errorLog, .admission, .link, .hostMem] (fun t => t.Ends sq cid Status.ok 1 ∧
      t.m.mem = s.m.mem.dataOut c (enumEntry 0 0xFFF 0xFF 0 (slice uidBytes 0 8))) := by
  have hrest := s.m.dev.surveying_rest (sq := sq) (cid := cid) c
  have hcmd := surveying_cmd hr
  have hnone : (s.m.dev.surveying c sq cid).enumNextPort 0 = none := by
    rw [Dev.surveying_enumNextPort, List.find?_eq_none.2 (fun q hq => ?_)]
    · rfl
    · rw [decide_eq_true_eq]
      exact hdown q hq
  have hboot : (s.m.dev.surveying c sq cid).boot = s.m.dev.boot := Dev.unasked_tame.same .boot (by decide)
  have hleft : (s.m.dev.surveying c sq cid).leftOut = 0 := by
    rw [Dev.leftOut, Dev.surveying_downPorts, List.length_eq_zero_iff, List.filter_eq_nil_iff]
    intro q hq
    rw [Dev.surveying_state, decide_eq_false (hdown q hq), Bool.false_and]
    exact Bool.false_ne_true
  have hend := Mach.enumFinish_alone (m := { s.m with dev := s.m.dev.surveying c sq cid }) (k := { c with phase := .running })
    (by rw [hboot, hrole]; decide) (congrArg Links.enumCmd hrest :) hcmd hleft (congrArg Links.workers hrest :) (congrArg Links.enumNext hrest :) hok
  have hgo : Mach.enumGo { s.m with dev := s.m.dev.surveying c sq cid } 0 = Mach.enumFinish { s.m with dev := s.m.dev.surveying c sq cid } := by
    unfold Mach.enumGo
    rw [hnone]
  obtain ⟨hlive, hc, -⟩ := id hr
  obtain ⟨hsq, hcid, -⟩ := Dev.cmd_key hc
  subst hsq hcid
  refine yields_of_completion (m := { dev := (((s.m.dev.surveying c c.sq c.cid).onLink Links.ended).onLink (Links.surveyed 0)),
                                      mem := s.m.mem.dataOut c (enumEntry 0 0xFFF 0xFF 0 (slice uidBytes 0 8)) }) (result := 1) (e := {})
    (k := { c with phase := .running }) hr rfl (execConstellationEnum_framed c.sq c.cid s) (by decide)
    ((if_neg (constellationEnum_begins hcap hidle)).trans (hgo.trans hend)) hcmd rfl

end

/-- Settles O29: an enumeration that goes on from a port leaves the ports before it, and what it says of the device itself. -/
theorem enumeration : Obligations.Enumeration := by
  unfold Obligations.Enumeration
  intro s p hlen hp
  have hp' : p < s.m.dev.link.ports.length := hlen ▸ hp
  exact ⟨fun sq cid c hr hrole hcap hidle => ⟨fun hup => constellationEnum_yields hr hcap hidle hp' hup,
      fun hdown hok => constellationEnum_alone_yields hr hrole hcap hidle hdown hok⟩,
    fun x r hl htake hrole => enum_yields hl htake hrole, fun x r hl htake hport => enumDone_yields hl hp' htake hport,
    fun x r hl htake hrole => enumEntry_yields hl htake hrole, fun hl hport => enumTimeout_yields hl hp' hport,
    fun x r hl htake hrole huid => reassign_yields hl htake hrole huid⟩

end Sys2Proof.Machine
end

section
/-! A worker's state, and the exchange of severities (R443, R537, R539). -/

namespace Sys2Proof.Machine
open Sys2Proof

/-- The links once the exchange of severities is over. -/
def Links.hushed (l : Links) : Links :=
  { l with sevCmd := none, sevMissed := 0, workers := l.workers.map (fun w => { w with sevWait := false }) }

/-- The number of workers that an exchange of severities does not reach (R443, R539). -/
def Dev.sevUnreached (d : Dev) : Nat := (d.link.workers.filter (fun w => w.sevWait)).length + d.link.sevMissed

/-- The status that an exchange of severities completes with. -/
def sevStatus (target n : Nat) : Nat :=
  if n = 0 then Status.ok else if target = 0xFFF then Status.okPartial else Status.linkDown

/-- The result that an exchange of severities completes with. -/
def sevResult (target n : Nat) : Nat := if target = 0xFFF then n else 0

section
variable {d : Dev} {sq cid : Nat}

theorem Dev.severityEnd_eq (h : d.link.sevCmd = some (sq, cid)) : d.severityEnd = (d.onLink Links.hushed).complete sq cid
    (sevStatus d.link.sevTarget d.sevUnreached) (sevResult d.link.sevTarget d.sevUnreached) := by
  have hn : (d.link.workers.filter (fun w => w.sevWait)).length + d.link.sevMissed = d.sevUnreached := rfl
  unfold Dev.severityEnd
  rw [h]
  dsimp only
  rw [hn]
  unfold sevStatus sevResult
  split <;> rfl

/-- The end of an exchange completes its command. -/
theorem Dev.severityEnd_ends {c : Cmd} {s : State} (h : d.link.sevCmd = some (sq, cid)) (hc : d.cmd sq cid = some c) :
    State.Ends { s with m := { s.m with dev := d.severityEnd.settle } } sq cid (sevStatus d.link.sevTarget d.sevUnreached)
      (sevResult d.link.sevTarget d.sevUnreached % 2 ^ 32) := by
  have hc' : (d.onLink Links.hushed).cmd sq cid = some c := hc
  refine ends_of_complete (s := s) (e := {}) hc' ?_
  rw [← Dev.severityEnd_eq h]
  exact Dev.settle_host_stage _

theorem Dev.severityEnd_link (h : d.link.sevCmd = some (sq, cid)) : d.severityEnd.link = d.link.hushed := by
  rw [Dev.severityEnd_eq h]
  exact Dev.complete_link ..

theorem Dev.severityEnd_clk : d.severityEnd.clk = d.clk :=
  (Dev.severityEnd_tame (ps := setOf [.seq, .commands, .errorLog, .link]) (by decide) (.refl _ d)).clk_eq (by decide)

end

/-! ### The clauses -/

section
variable {s : State} {p : Nat} (hl : s.Live)
include hl

section
variable {x : LinkMsg} {r : List LinkMsg}

theorem state_yields (htake : takeMsg p 7 s.m.dev.link.inbox = some (x, r)) :
    Yields (.state p) s [.link] (fun t => t.m.dev.link.inbox = r ∧ t.m.dev.link.workers = s.m.dev.link.workers.map (fun w =>
      if w.id = x.src then { w with armed := rd x.body 0 1, tickStatus := rd x.body 1 1 } else w)) := by
  refine yields_of_liveDev hl rfl (execState_framed p s) (by decide) ?_
  rw [onMsg_eq htake, Dev.settle_link]
  exact ⟨rfl, rfl⟩

theorem severity_yields (htake : takeMsg p 0x0A s.m.dev.link.inbox = some (x, r)) :
    Yields (.severity p) s [.stats, .flt, .link] (fun t => t.m.dev.link.inbox = r ∧
      t.m.dev.flt.severity = some ((slice x.body 2 600).map (fun b => b.toNat % 4))) := by
  refine yields_of_liveDev hl rfl (execSeverity_framed p s) (by decide) ?_
  rw [onMsg_eq htake, Dev.settle_link, Dev.settle_flt]
  dsimp only
  refine ⟨(Dev.sendMsg_inbox ..), ?_⟩
  rw [(Dev.sendMsg_tame (ps := setOf [.stats, .link, .sent]) (by decide) (.refl _ _) 0 0x0B (slice x.body 0 2)).same .flt (by decide)]
  rfl

/-- The links once a worker has answered (R539). -/
def Links.acked (src : Nat) (l : Links) : Links :=
  { l with workers := l.workers.map (fun w => if w.id = src then { w with sevWait := false } else w) }

theorem severityAck_yields {k : Nat × Nat} {c : Cmd} (htake : takeMsg p 0x0B s.m.dev.link.inbox = some (x, r))
    (hsev : s.m.dev.link.sevCmd = some k) (hc : s.m.dev.cmd k.1 k.2 = some c) (hnew : rd x.body 0 2 ≠ 0xFFFF)
    (htoken : (rd x.body 0 2 + 1) % 0xFFFF = s.m.dev.link.sevToken) (hmissed : s.m.dev.link.sevMissed = 0)
    (hlast : ∀ w ∈ s.m.dev.link.workers, w.sevWait = true → w.id = x.src) :
    Yields (.severityAck p) s [.seq, .commands, .errorLog, .link] (fun t => t.Ends k.1 k.2 Status.ok 0 ∧ t.m.dev.link.sevCmd = none ∧
      t.m.dev.link.inbox = r) := by
  have hquiet : ∀ w ∈ ((s.m.dev.withMail r).onLink (Links.acked x.src)).link.workers, w.sevWait = false := by
    intro w hw
    obtain ⟨v, hv, rfl⟩ := List.mem_map.1 hw
    split
    next => rfl
    next hne =>
      cases hwait : v.sevWait with
      | false => rfl
      | true => exact absurd (hlast v hv hwait) hne
  have hexec : exec (.severityAck p) s = liveDev (fun d => ((d.withMail r).onLink (Links.acked x.src)).severityEnd) s := by
    have hcond : ¬((s.m.dev.withMail r).link.sevCmd.isNone = true ∨ rd x.body 0 2 = 0xFFFF ∨
        (rd x.body 0 2 + 1) % 0xFFFF ≠ (s.m.dev.withMail r).link.sevToken) := by
      rintro (h | h | h)
      · rw [show (s.m.dev.withMail r).link.sevCmd = some k from hsev] at h
        exact Bool.false_ne_true h
      · exact hnew h
      · exact h htoken
    have hany : ¬((s.m.dev.withMail r).onLink (Links.acked x.src)).link.workers.any (fun w => w.sevWait) = true := by
      rw [List.any_eq_true]
      rintro ⟨w, hw, h⟩
      exact Bool.false_ne_true ((hquiet w hw).symm.trans h)
    show execSeverityAck p s = _
    unfold execSeverityAck
    refine liveDev_congr ?_
    rw [onMsg_eq htake, if_neg hcond]
    exact if_neg hany
  refine yields_of_liveDev hl hexec (execSeverityAck_framed p s) (by decide) ?_
  have hsev' : ((s.m.dev.withMail r).onLink (Links.acked x.src)).link.sevCmd = some (k.1, k.2) := hsev
  have hn : ((s.m.dev.withMail r).onLink (Links.acked x.src)).sevUnreached = 0 := by
    rw [Dev.sevUnreached, List.filter_eq_nil_iff.2 (fun w hw h => Bool.false_ne_true ((hquiet w hw).symm.trans h))]
    exact (Nat.zero_add _).trans hmissed
  have hends := Dev.severityEnd_ends (s := s) (c := c) hsev' hc
  rw [hn] at hends
  refine ⟨?_, ?_⟩
  · have hresult : sevResult ((s.m.dev.withMail r).onLink (Links.acked x.src)).link.sevTarget 0 % 2 ^ 32 = 0 := by
      unfold sevResult
      split <;> rfl
    rw [hresult] at hends
    exact hends
  · rw [Dev.settle_link, Dev.severityEnd_link hsev']
    exact ⟨rfl, rfl⟩

end

theorem severityTimeout_yields {k : Nat × Nat} {c : Cmd} {n : Nat} (hsev : s.m.dev.link.sevCmd = some k) (hc : s.m.dev.cmd k.1 k.2 = some c)
    (hn : n = (s.m.dev.link.workers.filter (fun w => w.sevWait)).length + s.m.dev.link.sevMissed) (hpos : 0 < n) (hlt : n < 2 ^ 32) :
    Yields .severityTimeout s [.clk, .seq, .commands, .errorLog, .sid, .link] (fun t =>
      t.m.dev.clk = max s.m.dev.clk (10000000 + s.m.dev.link.sevAt) ∧
      t.m.dev.link.sevCmd = none ∧ (if s.m.dev.link.sevTarget = 0xFFF then t.Ends k.1 k.2 Status.okPartial n
        else t.Ends k.1 k.2 Status.linkDown 0)) := by
  have hexec : exec .severityTimeout s = liveDev (fun d => (d.advanceTo (10000000 + d.link.sevAt)).severityEnd) s :=
    liveDev_congr (onlyIf_of_true (by rw [hsev]; rfl) _ _)
  refine yields_of_liveDev hl hexec (execSeverityTimeout_framed s) (by decide) ?_
  have htame := s.m.dev.advanceTo_tame_self (10000000 + s.m.dev.link.sevAt)
  have hlink := htame.same .link (by decide)
  have hclk := Dev.advanceTo_clk s.m.dev (10000000 + s.m.dev.link.sevAt)
  have hcmds := htame.cmds_eq (by decide)
  dsimp only
  generalize s.m.dev.advanceTo (10000000 + s.m.dev.link.sevAt) = y at *
  have hsev' : y.link.sevCmd = some (k.1, k.2) := by
    rw [hlink]
    exact hsev
  have hc' : y.cmd k.1 k.2 = some c := (Dev.cmd_of_cmds hcmds ..).trans hc
  have hn' : y.sevUnreached = n := by
    rw [Dev.sevUnreached, hlink]
    exact hn.symm
  have hends := Dev.severityEnd_ends (s := s) hsev' hc'
  rw [hn', show y.link.sevTarget = s.m.dev.link.sevTarget from congrArg Links.sevTarget hlink, sevStatus, if_neg hpos.ne', sevResult] at hends
  rw [Dev.settle_clk, Dev.settle_link, Dev.severityEnd_link hsev', Dev.severityEnd_clk]
  refine ⟨hclk, rfl, ?_⟩
  split
  next h =>
    rw [if_pos h, if_pos h, Nat.mod_eq_of_lt hlt] at hends
    exact hends
  next h =>
    rw [if_neg h, if_neg h] at hends
    exact hends

end

/-! ### CONSTELLATION_SEVERITY (R443, R539) -/

/-- The workers that a severity table is for. -/
def Dev.sevDests (d : Dev) (target : Nat) : List Worker :=
  d.link.workers.filter (fun w => decide (target = 0xFFF) || decide (w.id = target))

/-- The workers among them that are in reach. -/
def Dev.sevNear (d : Dev) (target : Nat) : List Worker := (d.sevDests target).filter (fun w => w.reachable)

/-- The number of workers that a severity table does not reach at once. -/
def Dev.sevMissing (d : Dev) (target : Nat) : Nat :=
  (d.sevDests target).length - (d.sevNear target).length + (if target ≠ 0xFFF ∧ (d.sevDests target).isEmpty then 1 else 0)

/-- A worker that a severity table is for. -/
def Worker.addressed (dests : List Worker) (table : List Nat) (w : Worker) : Worker :=
  if dests.any (fun t => decide (t.id = w.id)) then { w with sev := some table, sevWait := w.reachable } else w

/-- The manager that begins an exchange of severities. -/
def Dev.severing (d : Dev) (target sq cid : Nat) (table : List Nat) : Dev :=
  d.onLink (fun l => { l with sevCmd := some (sq, cid), sevAt := d.clk, sevTarget := target, sevToken := (d.link.sevToken + 1) % 0xFFFF,
                              sevMissed := d.sevMissing target, workers := l.workers.map (Worker.addressed (d.sevDests target) table) })

/-- What an exchange of severities sends. -/
def Dev.sevSend (d : Dev) (target token : Nat) (data : List Byte) (table : List Nat) (none_ : Bool) : Dev :=
  if target = 0xFFF then d.broadcast 0x0A (leBytes 2 token ++ data) else if none_ then d else d.sendSeverity target token table

section
variable {d : Dev} {target : Nat}

theorem Dev.sevSend_sends (token : Nat) (data : List Byte) (table : List Nat) (none_ : Bool) : d.Sends (d.sevSend target token data table none_) := by
  unfold Dev.sevSend
  split
  · exact Dev.broadcast_sends ..
  · split
    · exact .refl d
    · exact Dev.sendMsg_sends ..

theorem Dev.sevSend_tame (token : Nat) (data : List Byte) (table : List Nat) (none_ : Bool) :
    Dev.Tame (setOf [.stats, .link, .sent]) d (d.sevSend target token data table none_) :=
  Dev.tame_ite (Dev.broadcast_tame (by decide) (.refl _ d) ..) (Dev.tame_ite (.refl _ d) (Dev.sendMsg_tame (by decide) (.refl _ d) ..))

/-- A named worker that is out of reach is missed. -/
theorem Dev.sevMissing_pos (hbc : target ≠ 0xFFF) (hnear : d.sevNear target = []) : 0 < d.sevMissing target := by
  unfold Dev.sevMissing
  rw [hnear]
  cases h : d.sevDests target with
  | nil => rw [if_pos ⟨hbc, rfl⟩]; exact Nat.succ_pos _
  | cons w r => exact Nat.lt_of_lt_of_le (Nat.succ_pos r.length) (Nat.le_add_right _ _)

end

section
variable {s : State} {sq cid : Nat} {c : Cmd} (hr : s.Runs sq cid 0x29 c) (hlen : c.dataLen = 600) (hok : s.m.mem.dataOk c 600 = true)
  (hdata : ∀ b ∈ s.m.mem.dataIn c 600, b.toNat ≤ 3) (htarget : c.target ≤ 0xFFF)

/-- The severity table that a command carries. -/
def Mach.sevTable (m : Mach) (c : Cmd) : List Nat := (m.mem.dataIn c 600).map (fun b => b.toNat)

/-- The manager that has sent a severity table to workers, while its command waits. -/
def Mach.exchanging (m : Mach) (c : Cmd) : Dev :=
  ((m.dev.severing c.target c.sq c.cid (m.sevTable c)).sevSend c.target m.dev.link.sevToken (m.mem.dataIn c 600) (m.sevTable c)
    (m.dev.sevNear c.target).isEmpty).keepRunning c

include hdata in
theorem sevTable_ok : ¬((s.m.mem.dataIn c 600).map (fun b => b.toNat)).any (fun v => decide (3 < v)) = true := by
  rw [List.any_eq_true]
  rintro ⟨v, hv, hbig⟩
  obtain ⟨b, hb, rfl⟩ := List.mem_map.1 hv
  exact Nat.not_le_of_lt (of_decide_eq_true hbig) (hdata b hb)

include hlen hok in
theorem sevData_ok : ¬(c.dataLen ≠ 600 ∨ (!s.m.mem.dataOk c 600) = true) := by
  rw [hok]
  simp [hlen]

include hr hlen hok hdata htarget

theorem constellationSeverity_own_yields (hown : c.target = 0) :
    Yields (.constellationSeverity sq cid) s [.seq, .stats, .commands, .errorLog, .flt, .link] (fun t => t.Ends sq cid Status.ok 0 ∧
      t.m.dev.flt.severity = some ((s.m.mem.dataIn c 600).map (fun b => b.toNat))) := by
  obtain ⟨hlive, hcmd, -⟩ := id hr
  refine yields_of_completion (m := { s.m with dev := s.m.dev.onFlt (fun f => { f with severity := some (s.m.sevTable c) }) }) (result := 0)
    (e := {}) hr rfl (execConstellationSeverity_framed sq cid s) (by decide) ?_ hcmd ?_
  · exact (if_neg (sevData_ok hlen hok)).trans ((if_neg (sevTable_ok hdata)).trans ((if_neg (Nat.not_lt_of_le htarget)).trans (if_pos hown)))
  · simp only [State.settledAt, Dev.settle_flt]
    exact congrArg Flt.severity ((Mach.complete_tame _ c Status.ok 0 {}).same .flt (by decide))

section
variable (hother : c.target ≠ 0)
include hother

theorem constellationSeverity_waits_yields (hsome : ∃ w ∈ s.m.dev.link.workers, (c.target = 0xFFF ∨ w.id = c.target) ∧ w.reachable = true) :
    Yields (.constellationSeverity sq cid) s [.seq, .stats, .commands, .errorLog, .flt, .link] (fun t => t.GoesOn sq cid ∧
      t.m.dev.link.sevCmd = some (sq, cid) ∧ t.m.dev.link.sevAt = s.m.dev.clk ∧ t.m.dev.flt.severity = s.m.dev.flt.severity) := by
  have hnear : ¬(s.m.dev.sevNear c.target).isEmpty = true := by
    obtain ⟨w, hw, hnamed, hreach⟩ := hsome
    have hmem : w ∈ s.m.dev.sevNear c.target :=
      List.mem_filter.2 ⟨List.mem_filter.2 ⟨hw, by rw [← Bool.decide_or]; exact decide_eq_true hnamed⟩, hreach⟩
    exact fun h => List.not_mem_nil (List.isEmpty_iff.1 h ▸ hmem)
  obtain ⟨hlive, hcmd, -⟩ := id hr
  obtain ⟨hsq, hcid, -⟩ := Dev.cmd_key hcmd
  subst hsq hcid
  have htame := (s.m.dev.severing c.target c.sq c.cid (s.m.sevTable c)).sevSend_tame (target := c.target) s.m.dev.link.sevToken
    (s.m.mem.dataIn c 600) (s.m.sevTable c) (s.m.dev.sevNear c.target).isEmpty
  have hsends := (s.m.dev.severing c.target c.sq c.cid (s.m.sevTable c)).sevSend_sends (target := c.target) s.m.dev.link.sevToken
    (s.m.mem.dataIn c 600) (s.m.sevTable c) (s.m.dev.sevNear c.target).isEmpty
  refine yields_of_goesOn (m := { s.m with dev := s.m.exchanging c }) (k := { c with phase := .running }) hr rfl
    (execConstellationSeverity_framed c.sq c.cid s) (by decide) ?_ ?_ rfl ?_
  · refine (if_neg (sevData_ok hlen hok)).trans ((if_neg (sevTable_ok hdata)).trans ((if_neg (Nat.not_lt_of_le htarget)).trans
      ((if_neg hother).trans ?_)))
    exact congrArg (fun d : Dev => ({ s.m with dev := d } : Mach)) (if_neg hnear)
  · exact Dev.cmd_keepRunning ((Dev.cmd_of_cmds (htame.cmds_eq (by decide)) ..).trans hcmd)
  · simp only [State.settledAt, Dev.settle_link, Dev.settle_flt]
    exact ⟨(congrArg Links.sevCmd hsends.rest :), (congrArg Links.sevAt hsends.rest :),
      congrArg Flt.severity (htame.same .flt (by decide))⟩

theorem constellationSeverity_linkDown_yields (hnamed : c.target ≠ 0xFFF)
    (hgone : ∀ w ∈ s.m.dev.link.workers, w.id = c.target → w.reachable = false) :
    Yields (.constellationSeverity sq cid) s [.seq, .stats, .commands, .errorLog, .flt, .link] (fun t => t.Ends sq cid Status.linkDown 0 ∧
      t.m.dev.link.sevCmd = none) := by
  have hnear : s.m.dev.sevNear c.target = [] := by
    refine List.filter_eq_nil_iff.2 (fun w hw hreach => ?_)
    obtain ⟨hmem, hsel⟩ := List.mem_filter.1 hw
    rw [decide_eq_false hnamed, Bool.false_or] at hsel
    exact Bool.false_ne_true ((hgone w hmem (of_decide_eq_true hsel)).symm.trans hreach)
  obtain ⟨hlive, hcmd, -⟩ := id hr
  obtain ⟨hsq, hcid, -⟩ := Dev.cmd_key hcmd
  subst hsq hcid
  have hquiet : s.m.exchanging c = (s.m.dev.severing c.target c.sq c.cid (s.m.sevTable c)).keepRunning c := by
    rw [Mach.exchanging, Dev.sevSend, if_neg hnamed, hnear]
    rfl
  have hsev : (s.m.exchanging c).link.sevCmd = some (c.sq, c.cid) := by
    rw [hquiet]
    rfl
  have hc : (s.m.exchanging c).cmd c.sq c.cid = some { c with phase := .running } := by
    rw [hquiet]
    exact Dev.cmd_keepRunning (d := s.m.dev.severing c.target c.sq c.cid (s.m.sevTable c)) hcmd
  have htgt : (s.m.exchanging c).link.sevTarget = c.target := by
    rw [hquiet]
    rfl
  have hpos : (s.m.exchanging c).sevUnreached ≠ 0 := by
    have hmiss : (s.m.exchanging c).link.sevMissed = s.m.dev.sevMissing c.target := by
      rw [hquiet]
      rfl
    have hgt := Dev.sevMissing_pos hnamed hnear
    rw [Dev.sevUnreached, hmiss]
    omega
  have hdone : exec (.constellationSeverity c.sq c.cid) s = live (fun m => { m with dev := (m.exchanging c).severityEnd }) s := by
    refine (live_runCmd hr (n := { s.m with dev := (s.m.exchanging c).severityEnd }) ?_).trans (live_congr rfl)
    refine (if_neg (sevData_ok hlen hok)).trans ((if_neg (sevTable_ok hdata)).trans ((if_neg (Nat.not_lt_of_le htarget)).trans
      ((if_neg hother).trans ?_)))
    exact congrArg (fun d : Dev => ({ s.m with dev := d } : Mach)) (if_pos (List.isEmpty_iff.2 hnear))
  refine yields_of_live hlive hdone (execConstellationSeverity_framed c.sq c.cid s) (by decide) ⟨?_, ?_⟩
  · have hends := Dev.severityEnd_ends (s := s) hsev hc
    rw [htgt, sevStatus, if_neg hpos, if_neg hnamed, sevResult, if_neg hnamed] at hends
    exact hends
  · rw [Dev.settle_link, Dev.severityEnd_link hsev]
    rfl

end

end

/-- Settles O30: the end of an exchange completes its command with the number of workers that it has not reached. -/
theorem severities : Obligations.Severities := by
  unfold Obligations.Severities
  intro s p
  refine ⟨fun x r hl htake => state_yields hl htake, fun sq cid c hr hlen hok hdata htarget => ⟨fun hown => ?_, fun hother hsome => ?_,
      fun hother hnamed hgone => ?_⟩,
    fun x r hl htake => severity_yields hl htake,
    fun x r k c hl htake hsev hc hnew htoken hmissed hlast => severityAck_yields hl htake hsev hc hnew htoken hmissed hlast,
    fun k c n hl hsev hc hn hpos hlt => severityTimeout_yields hl hsev hc hn hpos hlt⟩
  · exact constellationSeverity_own_yields hr hlen hok hdata htarget hown
  · exact constellationSeverity_waits_yields hr hlen hok hdata htarget hother hsome
  · exact constellationSeverity_linkDown_yields hr hlen hok hdata htarget hother hnamed hgone

end Sys2Proof.Machine
end

section
/-! The faults of workers, and their first-fault entries (R540, R541); the runtime watchdogs, and TWINKLE (R553, R554). -/

namespace Sys2Proof.Machine
open Sys2Proof

/-! ### Entries by their stamps (R13, R541) -/

theorem insertByStamp_perm (e : List Byte) (l : List (List Byte)) : (insertByStamp e l).Perm (e :: l) := by
  induction l with
  | nil => exact .refl _
  | cons x r ih =>
    unfold insertByStamp
    split
    · exact .refl _
    · exact (ih.cons x).trans (.swap e x r)

theorem insertByStamp_pairwise {e : List Byte} {l : List (List Byte)} (h : l.Pairwise (fun a b => rd a 0 16 ≤ rd b 0 16)) :
    (insertByStamp e l).Pairwise (fun a b => rd a 0 16 ≤ rd b 0 16) := by
  induction l with
  | nil => exact List.pairwise_singleton _ _
  | cons x r ih =>
    obtain ⟨hx, hr⟩ := List.pairwise_cons.1 h
    unfold insertByStamp
    split
    next hlt =>
      refine List.pairwise_cons.2 ⟨fun y hy => ?_, h⟩
      obtain rfl | hy := List.mem_cons.1 hy
      · exact Nat.le_of_lt hlt
      · exact Nat.le_trans (Nat.le_of_lt hlt) (hx y hy)
    next hge =>
      refine List.pairwise_cons.2 ⟨fun y hy => ?_, ih hr⟩
      obtain rfl | hy := List.mem_cons.1 ((insertByStamp_perm e r).subset hy)
      · exact Nat.le_of_not_lt hge
      · exact hx y hy

/-- Entries in the order of their stamps, earlier ones first. -/
def sortByStamp (l : List (List Byte)) : List (List Byte) := l.foldl (fun l e => insertByStamp e l) []

theorem sortByStamp_perm (l : List (List Byte)) : (sortByStamp l).Perm l := by
  suffices h : ∀ a : List (List Byte), (l.foldl (fun l e => insertByStamp e l) a).Perm (a ++ l) from h []
  induction l with
  | nil => exact fun a => by rw [List.append_nil]; exact .refl _
  | cons x r ih =>
    exact fun a => (ih _).trans (((insertByStamp_perm x a).append_right r).trans List.perm_middle.symm)

theorem sortByStamp_pairwise (l : List (List Byte)) : (sortByStamp l).Pairwise (fun a b => rd a 0 16 ≤ rd b 0 16) :=
  List.foldlRecOn l _ .nil (fun _ h _ _ => insertByStamp_pairwise h)

section
variable {d : Dev}

/-- An entry is queued while the queue has room (R550). -/
theorem Dev.bbxPut_queue (h : d.bbx.queue.length < 64) (r : BbxRegion) (b : List Byte) :
    (d.bbxPut r b).bbx.queue = d.bbx.queue ++ [{ region := r, body := b }] := by
  unfold Dev.bbxPut
  rw [if_pos h]

/-- Entries are queued in their order while the queue has room for all. -/
theorem Dev.bbxPuts_queue (l : List (List Byte)) (h : d.bbx.queue.length + l.length ≤ 64) :
    (l.foldl (fun d e => d.bbxPut .main (e.take 56)) d).bbx.queue = d.bbx.queue ++ l.map (fun e => { region := .main, body := e.take 56 }) := by
  induction l generalizing d with
  | nil => exact (List.append_nil _).symm
  | cons e r ih =>
    rw [List.length_cons] at h
    have hput := Dev.bbxPut_queue (d := d) (by omega) .main (e.take 56)
    rw [List.foldl_cons, ih (by rw [hput, List.length_append, List.length_singleton]; omega), hput, List.append_assoc]
    rfl

theorem Dev.bbxPuts_sends (l : List (List Byte)) : d.Sends (l.foldl (fun d e => d.bbxPut .main (e.take 56)) d) :=
  List.foldlRecOn l _ (.refl d) (fun _ h _ _ => h.trans (Dev.bbxPut_sends ..))

/-! ### Messages on a held port -/

theorem Dev.pumpLink_of_not_up {p : Nat} (h : (d.port p).state ≠ .up) (k : Nat) : d.pumpLink p k = d.noteCredit p := by
  cases k with
  | zero => rfl
  | succ k => exact if_neg h

/-- A change of a port leaves what it leaves of every port. -/
theorem Dev.onPort_keeps {β : Type} {g : LinkPort → β} {f : LinkPort → LinkPort} {p : Nat} (hg : ∀ q, g (f q) = g q) (j : Nat) :
    g ((d.onPort p f).port j) = g (d.port j) := modAt_getD_congr hg d.link.ports p j {}

theorem Dev.noteCredit_ctrlQ (p j : Nat) : ((d.noteCredit p).port j).ctrlQ = (d.port j).ctrlQ := by
  unfold Dev.noteCredit
  dsimp only
  split
  · split
    · exact Dev.onPort_keeps (g := LinkPort.ctrlQ) (f := fun q => { q with creditAt := d.clk + 1 }) (fun _ => rfl) j
    · rfl
  · split
    · rfl
    · exact Dev.onPort_keeps (d := d.count _ _) (g := LinkPort.ctrlQ) (f := fun q => { q with creditAt := 0 }) (fun _ => rfl) j

/-- On a held port what is to be sent waits. -/
theorem Dev.sendMsg_held {p dest code : Nat} (hp : p < d.link.ports.length) (hroute : d.route dest = some p) (hst : (d.port p).state = .held)
    (hcode : code ≠ 6) (body : List Byte) :
    ((d.sendMsg dest code body).port p).ctrlQ = (d.port p).ctrlQ ++ ctrlFlits dest d.deviceId code body := by
  have hcarries : ¬(!(d.port p).carries) = true := by
    rw [LinkPort.carries, hst]
    exact Bool.false_ne_true
  have hport := Dev.port_onPort_same (d := d) hp (fun q => if code = 6 then { q with tickQ := q.tickQ ++ ctrlFlits dest d.deviceId code body }
    else { q with ctrlQ := q.ctrlQ ++ ctrlFlits dest d.deviceId code body })
  rw [if_neg hcode] at hport
  unfold Dev.sendMsg
  rw [hroute]
  dsimp only
  rw [Dev.queueMsg, if_neg hcarries]
  dsimp only
  rw [Dev.pumpLink_of_not_up, Dev.noteCredit_ctrlQ, hport]
  rw [hport]
  exact fun h => LinkState.noConfusion (hst.symm.trans h)

/-- Sending leaves the ways to the devices, and the ID. -/
theorem Dev.Sends.route {e : Dev} (h : d.Sends e) (hboot : e.boot = d.boot) (dest : Nat) : e.route dest = d.route dest := by
  have hlead (j : Nat) : (e.port j).leadsTo dest = (d.port j).leadsTo dest := (congrArg (fun q => q.leadsTo dest) (h.still j) :)
  unfold Dev.route
  rw [Dev.downPorts_congr hboot, hboot]
  simp only [hlead]

theorem Dev.Sends.deviceId {e : Dev} (h : d.Sends e) : e.deviceId = d.deviceId := by
  have hen : e.link.enumerated = d.link.enumerated := (congrArg Links.enumerated h.rest :)
  have hid : e.link.id = d.link.id := (congrArg Links.id h.rest :)
  rw [Dev.deviceId, hen, hid, Dev.deviceId]

/-- On a held port messages wait in their order. -/
theorem Dev.sendMsgs_held {dest code p : Nat} (hcode : code ≠ 6) (l : List (List Byte)) (hp : p < d.link.ports.length)
    (hroute : d.route dest = some p) (hst : (d.port p).state = .held) :
    ((l.foldl (fun d b => d.sendMsg dest code b) d).port p).ctrlQ = (d.port p).ctrlQ ++ l.flatMap (fun b => ctrlFlits dest d.deviceId code b) := by
  induction l generalizing d with
  | nil => exact (List.append_nil _).symm
  | cons b r ih =>
    have hsends := Dev.sendMsg_sends (d := d) dest code b
    have hboot : (d.sendMsg dest code b).boot = d.boot :=
      (Dev.sendMsg_tame (ps := setOf [.stats, .link, .sent]) (by decide) (.refl _ d) dest code b).same .boot (by decide)
    have hid := hsends.deviceId
    rw [List.foldl_cons, ih (by rw [hsends.length]; exact hp) (by rw [hsends.route hboot]; exact hroute)
      ((congrArg LinkPort.state (hsends.still p) :).trans hst), Dev.sendMsg_held hp hroute hst hcode, hid, List.append_assoc]
    rfl

end

/-! ### TWINKLE -/

section
variable {d : Dev}

/-- A cause stops TWINKLE within 10 µs, once (R554). -/
theorem Dev.stopTwinkle_stopAt (hmode : d.twk.mode ≠ .low) : (d.stopTwinkle).twk.mode ≠ .low ∧
    (∀ x, d.twk.stopAt = some x → d.stopTwinkle.twk.stopAt = some x) ∧
    (d.twk.stopAt = none → ∃ x, d.stopTwinkle.twk.stopAt = some x ∧ d.clk ≤ x ∧ x ≤ d.clk + 10000) := by
  unfold Dev.stopTwinkle
  rw [if_neg hmode]
  split
  next y hy => exact ⟨hmode, fun x hx => hx, fun hx => absurd (hy.symm.trans hx) (Option.some_ne_none _)⟩
  next hy =>
    refine ⟨hmode, fun x hx => absurd (hx.symm.trans hy) (Option.some_ne_none _), fun _ => ⟨d.clk + d.drawn % 10001, rfl, ?_, ?_⟩⟩
    · omega
    · have hlt := Nat.mod_lt d.drawn (y := 10001) (by decide)
      omega

/-- What raising a source does to TWINKLE that runs: nothing, or it stops it (R554). -/
theorem Dev.raise_stopAt (hmode : d.twk.mode ≠ .low) (hrun : d.twk.stopAt = none) (src arg : Nat) : (d.raise src arg).twk.mode ≠ .low ∧
    ((d.raise src arg).twk.stopAt = none ∨ ∃ x, (d.raise src arg).twk.stopAt = some x ∧ d.clk ≤ x ∧ x ≤ d.clk + 10000) := by
  have hpost (y : Dev) (a b c : Nat) : (y.postEvent a b c).twk = y.twk ∧ (y.postEvent a b c).clk = y.clk := by
    have htame := Dev.postEvent_tame (ps := setOf [.seq, .commands, .events]) (by decide) (.refl _ y) a b c
    exact ⟨htame.same .twk (by decide), htame.clk_eq (by decide)⟩
  unfold Dev.raise
  split
  · exact ⟨hmode, .inl hrun⟩
  · extract_lets cls d1 d2 d3
    clear_value cls
    have h3 : d3.twk = d.twk ∧ d3.clk = d.clk := by
      have htame := Dev.faultEntry_tame (ps := setOf [.seq, .stats, .flt, .bbx, .link, .sent]) (by decide) (.refl _ d2) src cls (arg % 2 ^ 32)
      have h2 : d2.twk = d.twk ∧ d2.clk = d.clk := by
        dsimp only [d2]
        split <;> exact ⟨rfl, rfl⟩
      exact ⟨(htame.same .twk (by decide)).trans h2.1, (htame.clk_eq (by decide)).trans h2.2⟩
    obtain ⟨htwk, hclk⟩ := h3
    split
    · rw [(hpost ..).1, htwk]
      exact ⟨hmode, .inl hrun⟩
    · obtain ⟨hptwk, hpclk⟩ := hpost d3 0x02 2 src
      have hstop := Dev.stopTwinkle_stopAt (d := d3.postEvent 0x02 2 src) (by rw [hptwk, htwk]; exact hmode)
      rw [hptwk, hpclk, htwk, hclk] at hstop
      exact ⟨hstop.1, .inr (hstop.2.2 hrun)⟩
    · rw [htwk]
      exact ⟨hmode, .inl hrun⟩

theorem Dev.core_onCore_same {i : Nat} (h : i < d.intr.cores.length) (f : CtlCore → CtlCore) : (d.onCore i f).intr.core i = f (d.intr.core i) :=
  (modAt_getD d.intr.cores i i f {} (.inr (.inl h))).trans (if_pos rfl)

/-- A core with a watchdog that runs is one of the device's. -/
theorem Dev.lt_cores_of_wdog {i t0 : Nat} (h : (d.intr.core i).wdogAt = some t0) : i < d.intr.cores.length := by
  refine Nat.lt_of_not_le (fun hle => ?_)
  have hdef : d.intr.core i = {} := List.getD_eq_default _ _ hle
  rw [hdef] at h
  exact absurd h.symm (Option.some_ne_none _)

end

/-! ### The clauses -/

section
variable {s : State} (hl : s.Live)
include hl

section
variable {p : Nat} {x : LinkMsg} {r : List LinkMsg}

/-- The entry of the fault that a FAULT message reports (R540). -/
def LinkMsg.faultBody (x : LinkMsg) : List Byte :=
  bbxBody (slice x.body 0 16) 1 (rd x.body 18 1) (rd x.body 16 2) 0
    (leBytes 4 (min 15 (rd x.body 20 2)) ++ leBytes 1 (fixedClass (rd x.body 16 2)))

/-- The manager that has recorded a worker's fault and posted its event (R540). -/
def Dev.reported (d : Dev) (x : LinkMsg) : Dev :=
  if rd x.body 18 1 = 2 then (d.bbxPut .main x.faultBody).postEvent 0x02 1 (rd x.body 16 2)
  else if rd x.body 18 1 = 3 then (d.bbxPut .main x.faultBody).postEvent 0x02 2 (rd x.body 16 2) else d.bbxPut .main x.faultBody

omit hl in
theorem Dev.reported_sends (d : Dev) : d.Sends (d.reported x) := by
  unfold Dev.reported
  split
  · exact (Dev.bbxPut_sends ..).trans (Dev.postEvent_sends ..)
  · split
    · exact (Dev.bbxPut_sends ..).trans (Dev.postEvent_sends ..)
    · exact Dev.bbxPut_sends ..

omit hl in
theorem Dev.reported_bbx (d : Dev) : (d.reported x).bbx = (d.bbxPut .main x.faultBody).bbx := by
  have hpost (y : Dev) (a b c : Nat) : (y.postEvent a b c).bbx = y.bbx :=
    (Dev.postEvent_tame (ps := setOf [.seq, .commands, .events]) (by decide) (.refl _ y) a b c).same .bbx (by decide)
  unfold Dev.reported
  split
  · exact hpost ..
  · split
    · exact hpost ..
    · rfl

/-- The manager that asks a worker for its first-fault entries (R541). -/
def Dev.askFirst (d : Dev) (x : LinkMsg) : Dev :=
  (d.sendMsg x.src 0x0D (leBytes 2 d.link.token)).onLink (fun l => { l with token := (l.token + 1) % 65536 })

theorem fault_yields (htake : takeMsg p 0x0C s.m.dev.link.inbox = some (x, r)) (hrole : s.m.dev.boot.role = 1)
    (hroom : s.m.dev.bbx.queue.length < 64) :
    Yields (.fault p) s [.seq, .stats, .commands, .events, .bbx, .link] (fun t => t.m.dev.link.inbox = r ∧
      t.m.dev.bbx.queue = s.m.dev.bbx.queue ++ [{ region := .main, body := x.faultBody }] ∧
      t.m.dev.link.token = (if rd x.body 19 1 % 2 = 1 then (s.m.dev.link.token + 1) % 65536 else s.m.dev.link.token)) := by
  have hexec : exec (.fault p) s = liveDev (fun d => if rd x.body 19 1 % 2 = 1 then ((d.withMail r).reported x).askFirst x
      else (d.withMail r).reported x) s := by
    have hrole' : (s.m.dev.withMail r).boot.role = 1 := hrole
    show execFault p s = _
    unfold execFault
    refine liveDev_congr ?_
    rw [onMsg_eq htake, onlyIf_of_true (decide_eq_true hrole')]
    rfl
  refine yields_of_liveDev hl hexec (execFault_framed p s) (by decide) ?_
  have hsends := (s.m.dev.withMail r).reported_sends (x := x)
  have hqueue : ((s.m.dev.withMail r).reported x).bbx.queue = s.m.dev.bbx.queue ++ [{ region := .main, body := x.faultBody }] := by
    rw [Dev.reported_bbx, Dev.bbxPut_queue (d := s.m.dev.withMail r) hroom]
    rfl
  have htoken : ((s.m.dev.withMail r).reported x).link.token = s.m.dev.link.token := (congrArg Links.token hsends.rest :)
  have hinbox : ((s.m.dev.withMail r).reported x).link.inbox = r := hsends.inbox
  dsimp only
  generalize (s.m.dev.withMail r).reported x = y at *
  have hmsg := Dev.sendMsg_sends (d := y) x.src 0x0D (leBytes 2 y.link.token)
  rw [Dev.settle_link, Dev.settle_bbx]
  split
  · refine ⟨hmsg.inbox.trans hinbox, ?_, ?_⟩
    · rw [← hqueue]
      exact congrArg Bbx.queue ((Dev.sendMsg_tame (ps := setOf [.stats, .link, .sent]) (by decide) (.refl _ y) ..).same .bbx (by decide))
    · have hsame : (y.sendMsg x.src 0x0D (leBytes 2 y.link.token)).link.token = y.link.token := (congrArg Links.token hmsg.rest :)
      show ((y.sendMsg x.src 0x0D (leBytes 2 y.link.token)).link.token + 1) % 65536 = _
      rw [hsame, htoken]
  · exact ⟨hinbox, hqueue, htoken⟩

/-- The bodies of the FF_DATA messages that answer an FF_READ (R541). -/
def Mach.firstBodies (m : Mach) (x : LinkMsg) : List (List Byte) :=
  ffBodies (slice x.body 0 2) 18 ((List.range (min 256 m.dev.bbx.firstNo)).map (fun i => m.mem.entry (64 + i)))

/-- The worker that answers an FF_READ. -/
def Mach.answerFirst (m : Mach) (x : LinkMsg) (r : List LinkMsg) : Mach :=
  { m with dev := (m.firstBodies x).foldl (fun d b => d.sendMsg 0 0x0E b) (m.dev.withMail r) }

theorem ffRead_yields (htake : takeMsg p 0x0D s.m.dev.link.inbox = some (x, r)) (hroute : s.m.dev.route 0 = some 0)
    (hst : (s.m.dev.port 0).state = .held) (hlen : 0 < s.m.dev.link.ports.length) :
    Yields (.ffRead p) s [.stats, .link] (fun t => t.m.dev.link.inbox = r ∧ (t.m.dev.port 0).ctrlQ = (s.m.dev.port 0).ctrlQ ++
      (ffBodies (slice x.body 0 2) 18 ((List.range (min 256 s.m.dev.bbx.firstNo)).map (fun i => s.m.mem.entry (64 + i)))).flatMap
        (fun b => ctrlFlits 0 s.m.dev.deviceId 0x0E b)) := by
  have hexec : exec (.ffRead p) s = live (fun m => m.answerFirst x r) s := by
    show execFfRead p s = _
    unfold execFfRead
    refine live_congr ?_
    rw [htake]
    rfl
  refine yields_of_live hl hexec (execFfRead_framed p s) (by decide) ?_
  have hsends : (s.m.dev.withMail r).Sends (s.m.answerFirst x r).dev :=
    List.foldlRecOn (s.m.firstBodies x) _ (.refl _) (fun _ h b _ => h.trans (Dev.sendMsg_sends ..))
  rw [Dev.settle_link, Dev.settle_port]
  exact ⟨hsends.inbox, Dev.sendMsgs_held (d := s.m.dev.withMail r) (by decide) (s.m.firstBodies x) hlen hroute hst⟩

theorem ffData_yields (htake : takeMsg p 0x0E s.m.dev.link.inbox = some (x, r)) (hroom : s.m.dev.bbx.queue.length + 15 ≤ 64) :
    Yields (.ffData p) s [.bbx, .link] (fun t => t.m.dev.link.inbox = r ∧ ∃ es : List (List Byte),
      es.Perm ((List.range (min 15 (rd x.body 2 1))).map (fun i => slice x.body (3 + 64 * i) 64)) ∧
      es.Pairwise (fun a b => rd a 0 16 ≤ rd b 0 16) ∧
      t.m.dev.bbx.queue = s.m.dev.bbx.queue ++ es.map (fun e => { region := .main, body := e.take 56 })) := by
  have hexec : exec (.ffData p) s = liveDev (fun d => (sortByStamp ((List.range (min 15 (rd x.body 2 1))).map
      (fun i => slice x.body (3 + 64 * i) 64))).foldl (fun d e => d.bbxPut .main (e.take 56)) (d.withMail r)) s := by
    show execFfData p s = _
    unfold execFfData
    refine liveDev_congr ?_
    rw [onMsg_eq htake, sortByStamp, List.foldl_map]
  refine yields_of_liveDev hl hexec (execFfData_framed p s) (by decide) ?_
  have hperm := sortByStamp_perm ((List.range (min 15 (rd x.body 2 1))).map (fun i => slice x.body (3 + 64 * i) 64))
  have hsorted := sortByStamp_pairwise ((List.range (min 15 (rd x.body 2 1))).map (fun i => slice x.body (3 + 64 * i) 64))
  have hlen := hperm.length_eq
  rw [List.length_map, List.length_range] at hlen
  generalize sortByStamp ((List.range (min 15 (rd x.body 2 1))).map (fun i => slice x.body (3 + 64 * i) 64)) = es at *
  rw [Dev.settle_link, Dev.settle_bbx]
  refine ⟨(Dev.bbxPuts_sends es).inbox, es, hperm, hsorted, ?_⟩
  refine Dev.bbxPuts_queue (d := s.m.dev.withMail r) es ?_
  have hle : (s.m.dev.withMail r).bbx.queue.length + 15 ≤ 64 := hroom
  omega

end

section
variable {i t0 : Nat} (hw : (s.m.dev.intr.core i).wdogAt = some t0)
include hw

theorem wdogService_yields : Yields (.wdogService i) s [] (fun t => (t.m.dev.intr.core i).wdogAt = some s.m.dev.clk ∧
    (t.m.dev.intr.core i).warning = false ∧ (t.m.dev.intr.core i).expired = false) := by
  have hexec : exec (.wdogService i) s = liveDev (fun d => d.onCore i (fun c => { c with wdogAt := some d.clk, warning := false, expired := false })) s :=
    liveDev_congr (onlyIf_of_true (by rw [hw]; rfl) _ _)
  refine yields_of_liveDev hl hexec (execWdogService_framed i s) (by decide) ?_
  rw [Dev.settle_core_wdogAt, Dev.settle_core_warning, Dev.settle_core_expired, Dev.core_onCore_same (Dev.lt_cores_of_wdog hw)]
  exact ⟨rfl, rfl, rfl⟩

theorem wdogWarning_yields (hwarn : (s.m.dev.intr.core i).warning = false) : Yields (.wdogWarning i) s [.clk, .sid] (fun t =>
    t.m.dev.clk = max s.m.dev.clk (5000000 + t0) ∧ (t.m.dev.intr.core i).warning = true ∧ (t.m.dev.intr.core i).wdogAt = some t0) := by
  have hexec : exec (.wdogWarning i) s = liveDev (fun d => (d.advanceTo (5000000 + t0)).onCore i (fun c => { c with warning := true })) s := by
    show execWdogWarning i s = _
    unfold execWdogWarning
    refine liveDev_congr ?_
    rw [hw, hwarn]
    rfl
  refine yields_of_liveDev hl hexec (execWdogWarning_framed i s) (by decide) ?_
  have hintr : (s.m.dev.advanceTo (5000000 + t0)).intr = s.m.dev.intr := (s.m.dev.advanceTo_tame_self _).same .intr (by decide)
  rw [Dev.settle_core_wdogAt, Dev.settle_core_warning, Dev.settle_clk, Dev.core_onCore_same (by rw [hintr]; exact Dev.lt_cores_of_wdog hw), hintr]
  exact ⟨Dev.advanceTo_clk .., rfl, hw⟩

theorem wdogExpiry_yields (hi : i < 4) (hexp : (s.m.dev.intr.core i).expired = false) :
    Yields (.wdogExpiry i) s [.clk, .seq, .stats, .commands, .events, .flt, .bbx, .sid, .link] (fun t =>
      t.m.dev.clk = max s.m.dev.clk (10000000 + t0) ∧ (t.m.dev.intr.core i).expired = true ∧ t.m.dev.flt.lastSrc = 488 + i ∧
      (s.m.dev.twk.mode ≠ .low → s.m.dev.twk.stopAt = none →
        ∃ x, t.m.dev.twk.stopAt = some x ∧ t.m.dev.clk ≤ x ∧ x ≤ t.m.dev.clk + 10000)) := by
  have hexec : exec (.wdogExpiry i) s = liveDev (fun d => (((d.advanceTo (10000000 + t0)).onCore i (fun c =>
      { c with warning := true, expired := true })).raise (488 + i) i).stopTwinkle) s := by
    show execWdogExpiry i s = _
    unfold execWdogExpiry
    refine liveDev_congr ?_
    rw [hw, hexp]
    rfl
  refine yields_of_liveDev hl hexec (execWdogExpiry_framed i s) (by decide) ?_
  have htame := s.m.dev.advanceTo_tame_self (10000000 + t0)
  have hintr : (s.m.dev.advanceTo (10000000 + t0)).intr = s.m.dev.intr := htame.same .intr (by decide)
  have htwk : (s.m.dev.advanceTo (10000000 + t0)).twk = s.m.dev.twk := htame.same .twk (by decide)
  have hclk := Dev.advanceTo_clk s.m.dev (10000000 + t0)
  have hcore := Dev.core_onCore_same (d := s.m.dev.advanceTo (10000000 + t0)) (by rw [hintr]; exact Dev.lt_cores_of_wdog hw)
    (fun c => { c with warning := true, expired := true })
  have hytwk : ((s.m.dev.advanceTo (10000000 + t0)).onCore i (fun c => { c with warning := true, expired := true })).twk = s.m.dev.twk := htwk
  have hyclk : ((s.m.dev.advanceTo (10000000 + t0)).onCore i (fun c => { c with warning := true, expired := true })).clk =
    max s.m.dev.clk (10000000 + t0) := hclk
  dsimp only
  generalize (s.m.dev.advanceTo (10000000 + t0)).onCore i (fun c => { c with warning := true, expired := true }) = y at *
  have hraise := y.raise_tame_self (488 + i) i
  have hstop := Dev.stopTwinkle_tame (ps := setOf [.free, .twk]) (by decide) (.refl _ (y.raise (488 + i) i))
  have hcls : fixedClass (488 + i) ≠ 0 := by
    have : i = 0 ∨ i = 1 ∨ i = 2 ∨ i = 3 := by omega
    obtain rfl | rfl | rfl | rfl := this <;> decide
  have hzclk : (y.raise (488 + i) i).clk = max s.m.dev.clk (10000000 + t0) := (hraise.clk_eq (by decide)).trans hyclk
  have hstopintr : (y.raise (488 + i) i).stopTwinkle.intr = y.intr := (hstop.same .intr (by decide)).trans (hraise.same .intr (by decide))
  rw [Dev.settle_clk, Dev.settle_core_expired, Dev.settle_flt, Dev.settle_twk_stopAt, Dev.stopTwinkle_flt, hstopintr, hcore]
  refine ⟨(hstop.clk_eq (by decide)).trans hzclk, rfl, Dev.raise_lastSrc hcls y i, fun hmode hrun => ?_⟩
  rw [hstop.clk_eq (by decide), hzclk]
  rw [← hytwk] at hmode hrun
  obtain ⟨hzmode, hz⟩ := Dev.raise_stopAt hmode hrun (488 + i) i
  obtain ⟨-, hkept, hnew⟩ := Dev.stopTwinkle_stopAt hzmode
  rw [hyclk] at hz
  rw [hzclk] at hnew
  obtain hz | ⟨x, hx, hlo, hhi⟩ := hz
  · exact hnew hz
  · exact ⟨x, hkept x hx, hlo, hhi⟩

end

theorem twinkleToggle_yields (hmode : s.m.dev.twk.mode ≠ .low) (hstop : s.m.dev.twk.stopAt = none) :
    Yields .twinkleToggle s [.clk, .sid] (fun t => t.m.dev.clk = max s.m.dev.clk s.m.dev.twk.nextEdge ∧
      t.m.dev.twk.level = !s.m.dev.twk.level ∧
      t.m.dev.twk.nextEdge = s.m.dev.twk.nextEdge + (if s.m.dev.twk.mode = .twilight then 50000000 else 500000)) := by
  have hhalf : s.m.dev.twk.mode.half = if s.m.dev.twk.mode = .twilight then 50000000 else 500000 := by
    cases s.m.dev.twk.mode <;> rfl
  have hexec : exec .twinkleToggle s = liveDev (fun d => (d.advanceTo d.twk.nextEdge).onTwk (fun t =>
      { t with level := !t.level, nextEdge := d.twk.nextEdge + t.mode.half })) s := by
    show execTwinkleToggle s = _
    unfold execTwinkleToggle
    refine liveDev_congr ?_
    dsimp only
    rw [hstop]
    exact onlyIf_of_true (by rw [decide_eq_true hmode]; rfl) _ _
  refine yields_of_liveDev hl hexec (execTwinkleToggle_framed s) (by decide) ?_
  have htwk : (s.m.dev.advanceTo s.m.dev.twk.nextEdge).twk = s.m.dev.twk := (s.m.dev.advanceTo_tame_self _).same .twk (by decide)
  rw [Dev.settle_clk, Dev.settle_twk_level, Dev.settle_twk_nextEdge, ← hhalf]
  refine ⟨Dev.advanceTo_clk .., congrArg (fun t : Twinkle => !t.level) htwk, ?_⟩
  exact congrArg (fun t : Twinkle => s.m.dev.twk.nextEdge + t.mode.half) htwk

theorem twinkleResume_yields {r : Nat} (hr : s.m.dev.twk.resumeAt = some r) (hc : s.m.dev.twinkleCause = false) :
    Yields .twinkleResume s [.clk, .sid] (fun t => t.m.dev.clk = max s.m.dev.clk r ∧ t.m.dev.twk.stopAt = none ∧
      t.m.dev.twk.level = !s.m.dev.twk.level) := by
  have hexec : exec .twinkleResume s = liveDev (fun d => (d.advanceTo r).onTwk (fun t =>
      { t with level := !t.level, nextEdge := max r d.clk + t.mode.half, stopAt := none, resumeAt := none })) s := by
    show execTwinkleResume s = _
    unfold execTwinkleResume
    refine liveDev_congr ?_
    rw [hr, hc]
    rfl
  refine yields_of_liveDev hl hexec (execTwinkleResume_framed s) (by decide) ?_
  have htwk : (s.m.dev.advanceTo r).twk = s.m.dev.twk := (s.m.dev.advanceTo_tame_self _).same .twk (by decide)
  rw [Dev.settle_clk, Dev.settle_twk_level, Dev.settle_twk_stopAt]
  exact ⟨Dev.advanceTo_clk .., rfl, congrArg (fun t : Twinkle => !t.level) htwk⟩

end

/-- Settles O31: an entry of the recorder for each fault that a worker reports, and TWINKLE stopped within 10 µs of an expiry. -/
theorem rollUpWatchdogsTwinkle : Obligations.RollUpWatchdogsTwinkle := by
  unfold Obligations.RollUpWatchdogsTwinkle
  refine ⟨fun s p x r hl => ⟨fun htake hrole hroom => fault_yields hl htake hrole hroom,
      fun htake hroute hst hlen => ffRead_yields hl htake hroute hst hlen, fun htake hroom => ffData_yields hl htake hroom⟩, fun s hl =>
    ⟨fun i t0 hw => ⟨wdogService_yields hl hw, fun hwarn => wdogWarning_yields hl hw hwarn, fun hi hexp => wdogExpiry_yields hl hw hi hexp⟩,
      fun hmode hstop => twinkleToggle_yields hl hmode hstop, fun r hr hc => twinkleResume_yields hl hr hc⟩⟩

end Sys2Proof.Machine
end

section
/-! Relays, and the time alignment of a link (R527 to R530). -/

namespace Sys2Proof.Machine
open Sys2Proof

/-- The port that a relay request leaves waiting for the manager's answer (R528). -/
def Links.relayAsked (e : Nat) (l : Links) : Links :=
  { l with relayWait := l.relayWait.filter (fun y => decide (y.1 ≠ e)) ++ [(e, 0, 2 ^ 32)] }

/-- Whether a relay fits, with the relays that the manager would then have (R528). -/
def Dev.relayFits (d : Dev) (l : Links) (src e : Nat) : Bool :=
  (l.path src).all (fun w => decide (l.rateAbove w ≤ 80000000)) &&
    decide (10 * sumBy (fun r => r.rate) (l.relays.filter (fun r => decide (r.port = e))) ≤
      8 * (if bit (d.reg 0x21 (0x100 * e)).toNat 29 then 25000000 else 10000000)) && decide (e < 2)

/-- The relays of the links without the one that a message speaks of. -/
def Links.otherRelays (l : Links) (x : LinkMsg) : List RelayRate :=
  l.relays.filter (fun r => !(decide (r.dev = x.src) && decide (r.port = rd x.body 0 1)))

/-- The links with the relay that a message asks for. -/
def Links.withRelay (l : Links) (x : LinkMsg) : Links :=
  { l with relays := l.otherRelays x ++ [{ dev := x.src, port := rd x.body 0 1, rate := rd x.body 2 4 }] }

/-- The relays after a message that asks for one or gives it up (R528). -/
def Dev.relaysAfter (d : Dev) (x : LinkMsg) : List RelayRate :=
  if decide (rd x.body 1 1 = 1) && d.relayFits (d.link.withRelay x) x.src (rd x.body 0 1) then (d.link.withRelay x).relays
  else d.link.otherRelays x

/-- The answer to a message that asks for a relay. -/
def Dev.relayAnswer (d : Dev) (x : LinkMsg) : List Byte :=
  leBytes 1 (rd x.body 0 1) ++ leBytes 2 (if !decide (rd x.body 1 1 = 1) || d.relayFits (d.link.withRelay x) x.src (rd x.body 0 1) then Status.ok
    else Status.admissionDenied)

/-- The manager that has decided on a relay, and answers (R528). -/
def Dev.answerRelay (d : Dev) (x : LinkMsg) : Dev :=
  (d.onLink (fun l => { l with relays := d.relaysAfter x })).sendMsg x.src 0x10 (d.relayAnswer x)

/-- The times that the lower end of a link keeps of a SYNC (R529). -/
def LinkPort.synced (x : LinkMsg) (now : Nat) (q : LinkPort) : LinkPort := { q with t1 := rd x.body 8 8, t2 := x.at_, t3 := now }

section
variable {d : Dev}

/-- A port in a state other than the one of an absent port is one of the device's. -/
theorem Dev.lt_ports_of_up {p : Nat} (h : (d.port p).state = .up) : p < d.link.ports.length := by
  refine Nat.lt_of_not_le (fun hle => ?_)
  have hdef : d.port p = {} := List.getD_eq_default _ _ hle
  rw [hdef] at h
  exact LinkState.noConfusion h

theorem Dev.askRelay_sends (e rate : Nat) (en : Bool) : d.Sends (d.askRelay e en rate) := Dev.sendMsg_sends ..

theorem Dev.askRelay_reg (e rate f o : Nat) (en : Bool) (hf : f = 0x22) : (d.askRelay e en rate).reg f o = d.reg f o :=
  (Dev.sendMsg_tame (ps := setOf [.stats, .link, .sent]) (by decide) (.refl _ d) ..).reg_eq (by subst hf; decide) (by subst hf; decide) o

theorem Dev.answerRelay_link {x : LinkMsg} : (d.answerRelay x).link.inbox = d.link.inbox ∧ (d.answerRelay x).link.workers = d.link.workers ∧
    (d.answerRelay x).link.relays = d.relaysAfter x := by
  have hsends := Dev.sendMsg_sends (d := d.onLink (fun l => { l with relays := d.relaysAfter x })) x.src 0x10 (d.relayAnswer x)
  exact ⟨hsends.inbox, hsends.workers, (congrArg Links.relays hsends.rest :)⟩

/-- What crosses a link depends on the workers and the relays alone. -/
theorem Links.rateAbove_congr {k l : Links} (hw : k.workers = l.workers) (hr : k.relays = l.relays) (id : Nat) :
    k.rateAbove id = l.rateAbove id := by
  simp only [Links.rateAbove, Links.path, hw, hr]

theorem Links.path_congr {k l : Links} (hw : k.workers = l.workers) (id : Nat) : k.path id = l.path id := by
  simp only [Links.path, hw]

/-- A TIME flit goes on the wire (R529). -/
theorem Dev.timeFlit_sent (p kind t : Nat) : ∃ f ack nak pool n, Emission.flit p f ack nak pool n ∈ (d.timeFlit p kind t).sent ∧ f.type = 3 ∧
    f.payload = leBytes 8 kind ++ leBytes 8 t := by
  obtain ⟨ack, nak, pool, n, hsent⟩ := Dev.wireFlit_sent (d := d) p
    { type := 3, cls := 0, last := true, seq := (4095 + (d.port p).txSeq) % 4096, dest := 0, src := d.deviceId, target := 0,
      payload := leBytes 8 kind ++ leBytes 8 t }
  exact ⟨_, ack, nak, pool, n, hsent, rfl, rfl⟩

theorem Dev.timeFlit_sends (p kind t : Nat) : d.Sends (d.timeFlit p kind t) := Dev.wireFlit_sends ..

theorem Dev.measure_link (off : Int) : (d.measure off).link = d.link :=
  (Dev.measure_tame (ps := setOf [.free, .seq, .commands, .events, .bbx, .sid, .tick, .feat 0x01]) (by decide) (.refl _ d) off).same .link (by decide)

end

/-! ### The clauses -/

section
variable {s : State} (hl : s.Live)
include hl

section
variable {e v : Nat} (hshape : s.m.dev.Shape) (he : e < 2) (hrole : s.m.dev.boot.role = 2) (hv : v < 2 ^ 32)
include hshape he hrole hv

theorem relayEnable_on_yields (hen : bit v 31 = true) (henum : s.m.dev.link.enumerated = true) (hcarries : (s.m.dev.port 0).carries = true) :
    Yields (.relayEnable e v) s [.seq, .stats, .commands, .errorLog, .link, .feat 0x22] (fun t =>
      t.m.dev.reg 0x22 (0x820 + 4 * e) = word (v % 2 ^ 25) ∧
      t.m.dev.link.relayWait = s.m.dev.link.relayWait.filter (fun y => decide (y.1 ≠ e)) ++ [(e, 0, 2 ^ 32)]) := by
  have hexec : exec (.relayEnable e v) s = liveDev (fun d =>
      ((d.setReg 0x22 (0x820 + 4 * e) (word (v % 2 ^ 25))).askRelay e true (v % 2 ^ 25)).onLink (Links.relayAsked e)) s := by
    refine liveDev_congr ?_
    rw [onlyIf_of_true (by rw [decide_eq_true he, decide_eq_true hrole]; rfl), Nat.mod_eq_of_lt hv]
    unfold Dev.relayWrite
    rw [henum, hcarries, hen]
    rfl
  refine yields_of_liveDev hl hexec (execRelayEnable_framed e v s) (by decide) ?_
  rw [Dev.settle_reg, Dev.settle_link]
  refine ⟨(Dev.askRelay_reg _ _ 0x22 _ _ rfl).trans (Dev.reg_setReg hshape ..), ?_⟩
  have hwait := congrArg Links.relayWait
    (Dev.askRelay_sends (d := s.m.dev.setReg 0x22 (0x820 + 4 * e) (word (v % 2 ^ 25))) e (v % 2 ^ 25) true).rest
  exact congrArg (fun l : List (Nat × Nat × Nat) => l.filter (fun y => decide (y.1 ≠ e)) ++ [(e, 0, 2 ^ 32)]) hwait

theorem relayEnable_off_yields (hen : bit v 31 = false) :
    Yields (.relayEnable e v) s [.seq, .stats, .commands, .errorLog, .link, .feat 0x22] (fun t =>
      t.m.dev.reg 0x22 (0x820 + 4 * e) = word (v % 2 ^ 25) ∧ t.m.dev.link.relayWait = s.m.dev.link.relayWait) := by
  have hexec : exec (.relayEnable e v) s = liveDev (fun d =>
      (d.setReg 0x22 (0x820 + 4 * e) (word (v % 2 ^ 25))).askRelay e false (v % 2 ^ 25)) s := by
    refine liveDev_congr ?_
    rw [onlyIf_of_true (by rw [decide_eq_true he, decide_eq_true hrole]; rfl), Nat.mod_eq_of_lt hv]
    unfold Dev.relayWrite
    rw [hen]
    rfl
  refine yields_of_liveDev hl hexec (execRelayEnable_framed e v s) (by decide) ?_
  rw [Dev.settle_reg, Dev.settle_link]
  exact ⟨(Dev.askRelay_reg _ _ 0x22 _ _ rfl).trans (Dev.reg_setReg hshape ..), (congrArg Links.relayWait (Dev.askRelay_sends ..).rest :)⟩

end

section
variable {p : Nat} {x : LinkMsg} {r : List LinkMsg}

theorem relayAdmit_yields (htake : takeMsg p 0x0F s.m.dev.link.inbox = some (x, r)) (hrole : s.m.dev.boot.role = 1) :
    Yields (.relayAdmit p) s [.stats, .link] (fun t => t.m.dev.link.inbox = r ∧
      (rd x.body 1 1 ≠ 1 → t.m.dev.link.relays = s.m.dev.link.otherRelays x) ∧
      (rd x.body 1 1 = 1 → (t.m.dev.link.relays = s.m.dev.link.otherRelays x ∨
        (t.m.dev.link.relays = s.m.dev.link.otherRelays x ++ [{ dev := x.src, port := rd x.body 0 1, rate := rd x.body 2 4 }] ∧
          (∀ w ∈ t.m.dev.link.path x.src, t.m.dev.link.rateAbove w ≤ 80000000) ∧
          10 * sumBy (fun r => r.rate) (t.m.dev.link.relays.filter (fun r => decide (r.port = rd x.body 0 1))) ≤
            8 * (if bit (s.m.dev.reg 0x21 (0x100 * rd x.body 0 1)).toNat 29 then 25000000 else 10000000))))) := by
  have hexec : exec (.relayAdmit p) s = liveDev (fun d => (d.withMail r).answerRelay x) s := by
    have hrole' : (s.m.dev.withMail r).boot.role = 1 := hrole
    refine liveDev_congr ?_
    rw [onMsg_eq htake, onlyIf_of_true (decide_eq_true hrole')]
    rfl
  refine yields_of_liveDev hl hexec (execRelayAdmit_framed p s) (by decide) ?_
  obtain ⟨hinbox, hworkers, hrelays⟩ := (s.m.dev.withMail r).answerRelay_link (x := x)
  rw [Dev.settle_link]
  generalize (s.m.dev.withMail r).answerRelay x = y at *
  refine ⟨hinbox, fun hoff => ?_, fun hon => ?_⟩
  · rw [hrelays, Dev.relaysAfter, decide_eq_false hoff]
    rfl
  · rw [Dev.relaysAfter, decide_eq_true hon, Bool.true_and] at hrelays
    split at hrelays
    next hfits =>
      rw [Dev.relayFits, Bool.and_eq_true, Bool.and_eq_true, decide_eq_true_eq, List.all_eq_true] at hfits
      obtain ⟨⟨hpath, hspeed⟩, -⟩ := hfits
      refine .inr ⟨hrelays, fun w hw => ?_, ?_⟩
      · rw [Links.path_congr hworkers] at hw
        rw [Links.rateAbove_congr (l := s.m.dev.link.withRelay x) hworkers hrelays]
        exact of_decide_eq_true (hpath w hw)
      · rw [hrelays]
        exact hspeed
    next => exact .inl hrelays

/-- The device whose relay is enabled, and waits for nothing (R528). -/
def Dev.relayed (d : Dev) (e : Nat) : Dev :=
  (d.onLink (fun l => { l with relayWait := l.relayWait.filter (fun w => decide (w.1 ≠ e)) })).setBit 0x22 (0x820 + 4 * e) 31 true

theorem relayGrant_yields (hshape : s.m.dev.Shape) {sq cid : Nat} {c : Cmd} (htake : takeMsg p 0x10 s.m.dev.link.inbox = some (x, r))
    (hok : rd x.body 1 2 = 0) (hwait : s.m.dev.link.relayWait = [(rd x.body 0 1, sq, cid)]) (hcmd : s.m.dev.cmd sq cid = some c) :
    Yields (.relayGrant p) s [.seq, .commands, .errorLog, .admission, .bbx, .link, .feat 0x22] (fun t => t.Ends sq cid Status.ok 0 ∧
      t.m.dev.relayOn (rd x.body 0 1) = true ∧ t.m.dev.link.relayWait = [] ∧ t.m.dev.link.inbox = r) := by
  have hnone : ((s.m.dev.withMail r).relayed (rd x.body 0 1)).link.relayWait = [] := by
    show s.m.dev.link.relayWait.filter _ = []
    rw [hwait]
    simp
  have hexec : exec (.relayGrant p) s = liveDev (fun d => ((d.withMail r).relayed (rd x.body 0 1)).complete sq cid Status.ok) s := by
    have hfind : (s.m.dev.withMail r).link.relayWait.find? (fun w => decide (w.1 = rd x.body 0 1)) = some (rd x.body 0 1, sq, cid) := by
      show s.m.dev.link.relayWait.find? _ = _
      rw [hwait]
      simp
    refine liveDev_congr ?_
    rw [onMsg_eq htake]
    dsimp only
    rw [hfind, decide_eq_true hok]
    have hmore : ((s.m.dev.withMail r).relayed (rd x.body 0 1)).link.relayWait.any (fun w => decide (w.2 = (sq, cid))) = false := by
      rw [hnone]
      rfl
    exact if_neg (fun h => Bool.false_ne_true (hmore.symm.trans h))
  refine yields_of_liveDev hl hexec (execRelayGrant_framed p s) (by decide) ?_
  have hcmd' : ((s.m.dev.withMail r).relayed (rd x.body 0 1)).cmd sq cid = some c := hcmd
  have hbit : ((s.m.dev.withMail r).relayed (rd x.body 0 1)).relayOn (rd x.body 0 1) = true := by
    have hshape' : ((s.m.dev.withMail r).onLink (fun l =>
      { l with relayWait := l.relayWait.filter (fun w => decide (w.1 ≠ rd x.body 0 1)) })).Shape := hshape
    rw [Dev.relayOn, Dev.relayed, Dev.setBit, Dev.reg_setReg hshape']
    exact bit_setFld_one _ (by decide)
  have hinbox : ((s.m.dev.withMail r).relayed (rd x.body 0 1)).link.inbox = r := rfl
  dsimp only
  generalize (s.m.dev.withMail r).relayed (rd x.body 0 1) = y at *
  rw [Dev.relayOn] at hbit
  rw [Dev.settle_link, Dev.relayOn, Dev.settle_reg, Dev.complete_reg, Dev.complete_link]
  exact ⟨ends_of_complete (s := s) (result := 0) (e := {}) hcmd' (Dev.settle_host_stage _), hbit, hnone, hinbox⟩

theorem timeFlitSend_yields (hdown : s.m.dev.downPorts.contains p = true) (hup : (s.m.dev.port p).state = .up) :
    Yields (.timeFlitSend p) s [.clk, .stats, .sid, .link] (fun t => t.m.dev.clk = max s.m.dev.clk (1000000 + (s.m.dev.port p).timeAt) ∧
      (t.m.dev.port p).timeAt = t.m.dev.clk ∧ ∃ f ack nak pool n, Emission.flit p f ack nak pool n ∈ t.m.dev.sent ∧ f.type = 3 ∧
        f.payload = leBytes 8 0 ++ leBytes 8 t.m.dev.sdt) := by
  have hexec : exec (.timeFlitSend p) s = liveDev (fun d => ((d.advanceTo (1000000 + (d.port p).timeAt)).onPort p (fun q =>
      { q with timeAt := (d.advanceTo (1000000 + (d.port p).timeAt)).clk })).timeFlit p 0 (d.advanceTo (1000000 + (d.port p).timeAt)).sdt) s :=
    liveDev_congr (onlyIf_of_true (by rw [hdown, decide_eq_true hup]; rfl) _ _)
  refine yields_of_liveDev hl hexec (execTimeFlitSend_framed p s) (by decide) ?_
  have hlink := (s.m.dev.advanceTo_tame_self (1000000 + (s.m.dev.port p).timeAt)).same .link (by decide)
  have hclk := Dev.advanceTo_clk s.m.dev (1000000 + (s.m.dev.port p).timeAt)
  dsimp only
  generalize s.m.dev.advanceTo (1000000 + (s.m.dev.port p).timeAt) = y at *
  have hplen : p < y.link.ports.length := by
    rw [hlink]
    exact Dev.lt_ports_of_up hup
  have hport := Dev.port_onPort_same hplen (fun q => { q with timeAt := y.clk })
  have hsdt : (y.onPort p (fun q => { q with timeAt := y.clk })).sdt = y.sdt := Dev.sdt_congr rfl rfl
  have hyclk : (y.onPort p (fun q => { q with timeAt := y.clk })).clk = y.clk := rfl
  generalize y.onPort p (fun q => { q with timeAt := y.clk }) = z at *
  have hwire := Dev.wireFlit_tame (ps := setOf [.stats, .link, .sent]) (by decide) (.refl _ z) p
    { type := 3, cls := 0, last := true, seq := (4095 + (z.port p).txSeq) % 4096, dest := 0, src := z.deviceId, target := 0,
      payload := leBytes 8 0 ++ leBytes 8 y.sdt }
  change Dev.Tame _ z (z.timeFlit p 0 y.sdt) at hwire
  have hzclk := hwire.clk_eq (by decide)
  have hzsdt : (z.timeFlit p 0 y.sdt).sdt = y.sdt := (Dev.sdt_congr (hwire.same .sid (by decide)) hzclk).trans hsdt
  have hat : ((z.timeFlit p 0 y.sdt).port p).timeAt = (z.port p).timeAt :=
    (congrArg LinkPort.timeAt ((Dev.timeFlit_sends p 0 y.sdt).still p) :)
  rw [Dev.settle_clk, Dev.settle_port, Dev.sdt_congr (Dev.settle_sid _) (Dev.settle_clk _)]
  refine ⟨(hzclk.trans hyclk).trans hclk, ?_, ?_⟩
  · rw [hat, hport, hzclk, hyclk]
  · obtain ⟨f, ack, nak, pool, n, hsent, htype, hload⟩ := Dev.timeFlit_sent (d := z) p 0 y.sdt
    rw [hzsdt]
    exact ⟨f, ack, nak, pool, n, Dev.mem_settle_sent hsent, htype, hload⟩

theorem sync_yields (htake : takeMsg 0 0x100 s.m.dev.link.inbox = some (x, r)) (hrole : s.m.dev.boot.role = 2)
    (hlen : 0 < s.m.dev.link.ports.length) :
    Yields (.sync 0) s [.stats, .link] (fun t => (t.m.dev.port 0).t1 = rd x.body 8 8 ∧ (t.m.dev.port 0).t2 = x.at_ ∧
      (t.m.dev.port 0).t3 = s.m.dev.sdt ∧ ∃ f ack nak pool n, Emission.flit 0 f ack nak pool n ∈ t.m.dev.sent ∧ f.type = 3 ∧
        f.payload = leBytes 8 1 ++ leBytes 8 s.m.dev.sdt) := by
  have hexec : exec (.sync 0) s = liveDev (fun d => ((d.withMail r).onPort 0 (LinkPort.synced x d.sdt)).timeFlit 0 1 d.sdt) s := by
    have hrole' : (s.m.dev.withMail r).boot.role = 2 := hrole
    refine liveDev_congr ?_
    rw [onMsg_eq htake, onlyIf_of_true (decide_eq_true ⟨hrole', rfl⟩)]
    rfl
  refine yields_of_liveDev hl hexec (execSync_framed 0 s) (by decide) ?_
  have hport := Dev.port_onPort_same (d := s.m.dev.withMail r) hlen (LinkPort.synced x s.m.dev.sdt)
  dsimp only
  generalize (s.m.dev.withMail r).onPort 0 (LinkPort.synced x s.m.dev.sdt) = y at *
  have hstill := (Dev.timeFlit_sends (d := y) 0 1 s.m.dev.sdt).still 0
  rw [hport] at hstill
  rw [Dev.settle_port]
  refine ⟨(congrArg LinkPort.t1 hstill :), (congrArg LinkPort.t2 hstill :), (congrArg LinkPort.t3 hstill :), ?_⟩
  obtain ⟨f, ack, nak, pool, n, hsent, htype, hload⟩ := Dev.timeFlit_sent (d := y) 0 1 s.m.dev.sdt
  exact ⟨f, ack, nak, pool, n, Dev.mem_settle_sent hsent, htype, hload⟩

theorem req_yields (htake : takeMsg p 0x101 s.m.dev.link.inbox = some (x, r)) (hdown : s.m.dev.downPorts.contains p = true) :
    Yields (.req p) s [.stats, .link] (fun t => ∃ f ack nak pool n, Emission.flit p f ack nak pool n ∈ t.m.dev.sent ∧ f.type = 3 ∧
      f.payload = leBytes 8 2 ++ leBytes 8 x.at_) := by
  have hexec : exec (.req p) s = liveDev (fun d => (d.withMail r).timeFlit p 2 x.at_) s := by
    have hdown' : (s.m.dev.withMail r).downPorts.contains p = true := hdown
    refine liveDev_congr ?_
    rw [onMsg_eq htake, onlyIf_of_true hdown']
  refine yields_of_liveDev hl hexec (execReq_framed p s) (by decide) ?_
  obtain ⟨f, ack, nak, pool, n, hsent, htype, hload⟩ := Dev.timeFlit_sent (d := s.m.dev.withMail r) p 2 x.at_
  exact ⟨f, ack, nak, pool, n, Dev.mem_settle_sent hsent, htype, hload⟩

/-- The offset that a RESP gives the lower end of a link (R529). -/
def Dev.respOffset (d : Dev) (x : LinkMsg) : Int :=
  10 ^ 9 * ((((d.port 0).t2 : Int) - (d.port 0).t1) - ((rd x.body 8 8 : Int) - (d.port 0).t3)) / 2 ^ 33 - (d.reg 0x22 0x18).toInt

/-- The links that have taken an offset. -/
def Links.offsetBy (off : Int) (l : Links) : Links := { l with offset := off, offsetMax := max l.offsetMax off.natAbs }

theorem resp_yields (htake : takeMsg 0 0x102 s.m.dev.link.inbox = some (x, r)) (hrole : s.m.dev.boot.role = 2) :
    Yields (.resp 0) s [.seq, .commands, .events, .bbx, .sid, .tick, .link, .feat 0x01] (fun t =>
      t.m.dev.link.offset = s.m.dev.respOffset x ∧ t.m.dev.link.inbox = r) := by
  have hexec : exec (.resp 0) s = liveDev (fun d => if d.discipline = 4
      then ((d.withMail r).onLink (Links.offsetBy (d.respOffset x))).measure (d.respOffset x)
      else (d.withMail r).onLink (Links.offsetBy (d.respOffset x))) s := by
    have hrole' : (s.m.dev.withMail r).boot.role = 2 := hrole
    refine liveDev_congr ?_
    rw [onMsg_eq htake, onlyIf_of_true (decide_eq_true ⟨hrole', rfl⟩)]
    rfl
  refine yields_of_liveDev hl hexec (execResp_framed 0 s) (by decide) ?_
  rw [Dev.settle_link]
  split
  · rw [Dev.measure_link]
    exact ⟨rfl, rfl⟩
  · exact ⟨rfl, rfl⟩

end

end

/-- Settles O32: a relay is admitted only where it fits, and each TIME flit carries the time of its end of the link. -/
theorem relaysAndAlignment : Obligations.RelaysAndAlignment := by
  unfold Obligations.RelaysAndAlignment
  intro s p e hl hshape he
  refine ⟨fun v hrole hv hen henum hcarries => relayEnable_on_yields hl hshape he hrole hv hen henum hcarries,
    fun v hrole hv hen => relayEnable_off_yields hl hshape he hrole hv hen, fun x r others htake hrole hport hothers => ?_,
    fun x r sq cid c htake hport hok hwait hcmd => ?_, fun hdown hup => timeFlitSend_yields hl hdown hup,
    fun x r htake hrole hlen => sync_yields hl htake hrole hlen, fun x r htake hdown => req_yields hl htake hdown,
    fun x r off htake hrole hoff => ?_⟩
  · subst hport hothers
    exact relayAdmit_yields hl htake hrole
  · subst hport
    exact relayGrant_yields hl hshape htake hok hwait hcmd
  · subst hoff
    exact resp_yields hl htake hrole

end Sys2Proof.Machine
end

section
/-! The interrupt controller: what arbitration, levels and settling leave of a source and of a core (R555, R556, R558 to R560). -/

namespace Sys2Proof.Machine
open Sys2Proof

/-- Whether a source is pending, is asserted, and has a repeat mark. -/
def Intr.seen (n : Intr) (id : Nat) : Bool × Bool × Bool := (decide (id ∈ n.pending), decide (id ∈ n.asserted), decide (id ∈ n.repeats))

/-- The level sources of which settling speaks. -/
def levelIds : List Nat := [604, 605, 606, 607, 608, 609, 610, 1008, 1009, 1010, 1011, 1014, 1015]

theorem Dev.levels_ids (d : Dev) : d.levels.map (fun e => e.1) = levelIds := rfl

theorem mem_insertNat {k n : Nat} {l : List Nat} : k ∈ insertNat n l ↔ k = n ∨ k ∈ l := by
  induction l with
  | nil => exact List.mem_cons
  | cons x r ih =>
    unfold insertNat
    split
    · exact List.mem_cons
    · split
      next hx => simp [hx]
      next =>
        rw [List.mem_cons, ih, List.mem_cons]
        tauto

section
variable {n : Intr} {id k : Nat}

theorem Intr.pending_of_seen {m : Intr} (h : n.seen id = m.seen id) : id ∈ n.pending ↔ id ∈ m.pending :=
  decide_eq_decide.1 (congrArg Prod.fst h)

theorem Intr.asserted_of_seen {m : Intr} (h : n.seen id = m.seen id) : id ∈ n.asserted ↔ id ∈ m.asserted :=
  decide_eq_decide.1 (congrArg (fun x => x.2.1) h)

theorem Intr.repeats_of_seen {m : Intr} (h : n.seen id = m.seen id) : id ∈ n.repeats ↔ id ∈ m.repeats :=
  decide_eq_decide.1 (congrArg (fun x => x.2.2) h)

theorem Intr.seen_congr {m : Intr} (hp : id ∈ n.pending ↔ id ∈ m.pending) (ha : id ∈ n.asserted ↔ id ∈ m.asserted)
    (hr : id ∈ n.repeats ↔ id ∈ m.repeats) : n.seen id = m.seen id := by
  rw [Intr.seen, Intr.seen, decide_eq_decide.2 hp, decide_eq_decide.2 ha, decide_eq_decide.2 hr]

/-- The controller without what an arbitration changes: the offers, and the cores. -/
def Intr.unoffered (n : Intr) : Intr := { n with offers := [], cores := [] }

theorem Intr.arbitrateFrom_unoffered (l : List Nat) : (n.arbitrateFrom l).unoffered = n.unoffered := by
  induction l generalizing n with
  | nil => rfl
  | cons id r ih =>
    unfold Intr.arbitrateFrom
    dsimp only
    rw [ih]
    split <;> rfl

/-- An arbitration changes offers and cores only. -/
theorem Intr.arbitrate_unoffered : n.arbitrate.unoffered = n.unoffered := Intr.arbitrateFrom_unoffered _

theorem Intr.arbitrate_pending : n.arbitrate.pending = n.pending := (congrArg Intr.pending Intr.arbitrate_unoffered :)

theorem Intr.arbitrate_asserted : n.arbitrate.asserted = n.asserted := (congrArg Intr.asserted Intr.arbitrate_unoffered :)

theorem Intr.arbitrate_active : n.arbitrate.active = n.active := (congrArg Intr.active Intr.arbitrate_unoffered :)

theorem Intr.arbitrate_setting : n.arbitrate.setting = n.setting := (congrArg Intr.setting Intr.arbitrate_unoffered :)

theorem Intr.arbitrate_spurious : n.arbitrate.spurious = n.spurious := (congrArg Intr.spurious Intr.arbitrate_unoffered :)

theorem Intr.arbitrate_badComplete : n.arbitrate.badComplete = n.badComplete := (congrArg Intr.badComplete Intr.arbitrate_unoffered :)

theorem Intr.arbitrate_seen : n.arbitrate.seen id = n.seen id := (congrArg (fun m => Intr.seen m id) Intr.arbitrate_unoffered :)

/-- The controller without its offers. -/
def Intr.quiet (n : Intr) : Intr := { n with offers := [] }

/-- An arbitration with nothing pending wakes no core. -/
theorem Intr.arbitrate_idle (h : n.pending = []) : n.arbitrate = n.quiet := by
  show Intr.arbitrateFrom n.quiet (n.pending.filter _) = _
  rw [h]
  rfl

theorem Intr.fire_seen (h : id ≠ k) : (n.fire k).seen id = n.seen id := by
  unfold Intr.fire
  split
  · rfl
  · split
    · split
      · rfl
      · exact Intr.seen_congr .rfl .rfl (by rw [mem_insertNat, or_iff_right h])
    · split
      · rfl
      · rw [Intr.arbitrate_seen]
        exact Intr.seen_congr (by rw [mem_insertNat, or_iff_right h]) .rfl .rfl

theorem mem_filter_ne {l : List Nat} (h : id ≠ k) : id ∈ l.filter (fun x => decide (x ≠ k)) ↔ id ∈ l := by
  rw [List.mem_filter, decide_eq_true_eq]
  exact and_iff_left h

/-- A level of one source leaves the others as they were. -/
theorem Intr.level_seen (h : id ≠ k) (b : Bool) : (n.level k b).seen id = n.seen id := by
  unfold Intr.level
  split
  · unfold Intr.assert
    split
    · rfl
    · rw [Intr.fire_seen h]
      exact Intr.seen_congr .rfl (by rw [mem_insertNat, or_iff_right h]) .rfl
  · unfold Intr.deassert
    dsimp only
    split
    · rw [Intr.arbitrate_seen]
      exact Intr.seen_congr (mem_filter_ne h) (mem_filter_ne h) .rfl
    · exact Intr.seen_congr .rfl (mem_filter_ne h) .rfl

theorem Intr.applyLevels_seen {l : List (Nat × Bool)} (h : id ∉ l.map (fun e => e.1)) : (n.applyLevels l).seen id = n.seen id := by
  refine List.foldlRecOn l _ (motive := fun m : Intr => m.seen id = n.seen id) rfl (fun m hm e he => ?_)
  exact (Intr.level_seen (fun hid => h (List.mem_map.2 ⟨e, he, hid.symm⟩)) e.2).trans hm

/-- A source that is enabled and that is active on no core is pending once it has fired (R559). -/
theorem Intr.fire_pending (hen : n.en id = true) (hact : n.isActive id = false) : id ∈ (n.fire id).pending := by
  unfold Intr.fire
  rw [hen, hact]
  simp only [Bool.not_true, Bool.false_eq_true, if_false]
  split
  next h => exact List.contains_iff_mem.1 h
  next =>
    rw [Intr.arbitrate_pending]
    exact mem_insertNat_self ..

/-- A source that fires while it is active has a repeat mark (R559). -/
theorem Intr.fire_repeats (hen : n.en id = true) (hact : n.isActive id = true) (hnot : id ∉ n.asserted) : id ∈ (n.fire id).repeats := by
  have hcontains : n.asserted.contains id = false := by
    rw [List.contains_eq_mem]
    exact decide_eq_false hnot
  unfold Intr.fire
  rw [hen, hact, hcontains]
  exact mem_insertNat_self ..

theorem Intr.fire_asserted : (n.fire id).asserted = n.asserted := by
  unfold Intr.fire
  split
  · rfl
  · split
    · split <;> rfl
    · split
      · rfl
      · exact Intr.arbitrate_asserted

end

/-! ### Claims, completions and settings -/

section
variable {n : Intr} {id core : Nat}

/-- The controller that has given a source to a core (R559). -/
def Intr.claimed (core id : Nat) (n : Intr) : Intr :=
  (Intr.relevel { n with pending := n.pending.filter (fun x => decide (x ≠ id)), active := n.active ++ [(id, core)],
                         cores := modAt n.cores core (fun c => { c with lastId := id }) } core).arbitrate

theorem Intr.claimed_active : (n.claimed core id).active = n.active ++ [(id, core)] := Intr.arbitrate_active

theorem Intr.claimed_pending : (n.claimed core id).pending = n.pending.filter (fun x => decide (x ≠ id)) := Intr.arbitrate_pending

theorem Intr.relevel_lastId (i : Nat) : ((n.relevel core).core i).lastId = (n.core i).lastId := by
  refine modAt_getD_congr (g := CtlCore.lastId) (fun c => ?_) n.cores core i {}
  split <;> rfl

theorem Intr.arbitrate_lastId (i : Nat) : (n.arbitrate.core i).lastId = (n.core i).lastId := by
  obtain ⟨w, hw⟩ := (Intr.arbitrate_moves n).core i
  rw [hw]

theorem Intr.claimed_lastId (hc : core < n.cores.length) : ((n.claimed core id).core core).lastId = id := by
  unfold Intr.claimed
  rw [Intr.arbitrate_lastId, Intr.relevel_lastId]
  refine (congrArg CtlCore.lastId (modAt_getD n.cores core core (fun c => { c with lastId := id }) {} (.inr (.inl hc)))).trans ?_
  rw [if_pos rfl]

/-- A completion of a source that is active on the core (R559). -/
theorem Intr.finish_of_active {nothing : Bool} (h : (id, core) ∈ n.active) : (id, core) ∉ (n.finish core id nothing).active ∧
    (n.finish core id nothing).badComplete = n.badComplete ∧
    (n.finish core id nothing).spurious = if nothing then satAdd32 n.spurious 1 else n.spurious := by
  unfold Intr.finish
  rw [if_pos (List.contains_iff_mem.2 h)]
  extract_lets n0 n1 again n2 n3
  have h0 : n0.active = n.active ∧ n0.badComplete = n.badComplete ∧ n0.spurious = if nothing then satAdd32 n.spurious 1 else n.spurious := by
    cases nothing <;> exact ⟨rfl, rfl, rfl⟩
  have h3 : n3.active = n1.active ∧ n3.badComplete = n1.badComplete ∧ n3.spurious = n1.spurious := by
    dsimp only [n3]
    split <;> exact ⟨rfl, rfl, rfl⟩
  obtain ⟨-, hbad, hspurious⟩ := h0
  obtain ⟨hactive3, hbad3, hspurious3⟩ := h3
  rw [Intr.arbitrate_active, Intr.arbitrate_badComplete, Intr.arbitrate_spurious]
  refine ⟨fun hin => ?_, hbad3.trans hbad, hspurious3.trans hspurious⟩
  have hin1 : (id, core) ∈ n1.active := hactive3 ▸ hin
  rw [List.mem_filter, decide_eq_true_eq] at hin1
  exact hin1.2 rfl

/-- A halfword without its bit 14 (R555). -/
theorem halfword_of_bit14 {v : Nat} (hv : v < 2 ^ 16) (hbit : bit v 14 = false) : v % 2 ^ 14 + (if bit v 15 then 2 ^ 15 else 0) = v := by
  unfold bit at *
  rw [Nat.testBit_eq_decide_div_mod_eq] at *
  have hlow := of_decide_eq_false hbit
  split
  next h =>
    have hhigh := of_decide_eq_true h
    omega
  next h =>
    have hhigh := of_decide_eq_false (eq_false_of_ne_true h)
    omega

/-- What firmware's setting of a source leaves of the controller: an enabled level source that is asserted pends (R560). -/
def Intr.firmwareSet (id v : Nat) (n : Intr) : Intr :=
  let n1 := n.configure id v
  if n1.en id && decide (n1.sense id = 0) && n1.asserted.contains id && !n1.isActive id && !n1.pending.contains id then
    Intr.arbitrate { n1 with pending := insertNat id n1.pending }
  else n1

theorem Intr.configure_keeps {v : Nat} (hv : v < 2 ^ 16) : (n.configure id v).setting = Tbl.set intrDefault n.setting id v ∧
    (n.configure id v).active = n.active := by
  unfold Intr.configure
  dsimp only
  rw [Intr.arbitrate_setting, Intr.arbitrate_active, Nat.mod_eq_of_lt hv]
  split <;> exact ⟨rfl, rfl⟩

theorem Intr.firmwareSet_keeps {v : Nat} (hv : v < 2 ^ 16) : (n.firmwareSet id v).setting = Tbl.set intrDefault n.setting id v ∧
    (n.firmwareSet id v).active = n.active := by
  obtain ⟨hsetting, hactive⟩ := Intr.configure_keeps (n := n) (id := id) hv
  unfold Intr.firmwareSet
  dsimp only
  split
  · rw [Intr.arbitrate_setting, Intr.arbitrate_active]
    exact ⟨hsetting, hactive⟩
  · exact ⟨hsetting, hactive⟩

end

section
variable {d : Dev}

theorem Dev.msix_intr (v : Nat) : (d.msix v).intr = d.intr := by
  obtain ⟨x, e, h, -⟩ := d.msix_shape v
  rw [h]

theorem Dev.fireInt_intr (id : Nat) : (d.fireInt id).intr = d.intr.fire id := by
  unfold Dev.fireInt
  dsimp only
  split
  · exact Dev.msix_intr 63
  · rfl

/-- Settling puts the level sources at their levels. -/
theorem Dev.settle_intr : d.settle.intr = d.intr.applyLevels d.levels := by
  unfold Dev.settle
  extract_lets n d1 d2
  have h2 : d2.intr = n := by
    dsimp only [d2]
    split
    · exact Dev.msix_intr 63
    · rfl
  clear_value d2
  split
  · split
    · exact h2
    · exact h2
  · exact h2

/-- The levels of the level sources depend on the warnings of the watchdogs, the faults, TWINKLE and the recorder. -/
theorem Dev.levels_congr {e : Dev} (hwarn : ∀ k, (e.intr.core k).warning = (d.intr.core k).warning) (hflt : e.flt = d.flt) (htwk : e.twk = d.twk)
    (hclk : e.clk = d.clk) (hbbx : e.bbx = d.bbx) : e.levels = d.levels := by
  unfold Dev.levels
  simp only [hwarn, hflt, htwk, hclk, hbbx]

theorem Dev.settle_seen {id : Nat} (h : id ∉ levelIds) : d.settle.intr.seen id = d.intr.seen id := by
  rw [Dev.settle_intr]
  exact Intr.applyLevels_seen (by rw [Dev.levels_ids]; exact h)

/-- The sources of the event kind are no level sources (R555). -/
theorem not_mem_levelIds_of_event {id : Nat} (h : idEvent id = true) : id ∉ levelIds := by
  have hall : ∀ k ∈ levelIds, idEvent k = false := by decide
  exact fun hid => Bool.false_ne_true ((hall id hid).symm.trans h)

theorem not_mem_levelIds_of_lt {id : Nat} (h : id < 604) : id ∉ levelIds := by
  have hall : ∀ k ∈ levelIds, 604 ≤ k := by decide
  exact fun hid => Nat.not_le_of_lt h (hall id hid)

end

/-! ### A core that sleeps -/

/-- No source is pending, core `i` is asleep, and each source whose level of a list is high is asserted. -/
structure Intr.Asleep (n : Intr) (i : Nat) (l : List (Nat × Bool)) : Prop where
  pending : n.pending = []
  awake : (n.core i).awake = false
  asserted : ∀ e ∈ l, e.2 = true → e.1 ∈ n.asserted

/-- Levels that are asserted already wake no core. -/
theorem Intr.Asleep.applyLevels {n : Intr} {i : Nat} {l : List (Nat × Bool)} (h : n.Asleep i l) (hl : (l.map (fun e => e.1)).Nodup) :
    (n.applyLevels l).Asleep i [] := by
  induction l generalizing n with
  | nil => exact h
  | cons e r ih =>
    obtain ⟨hnew, hr⟩ := List.nodup_cons.1 hl
    refine ih ?_ hr
    obtain ⟨k, b⟩ := e
    have hkept (x : Nat × Bool) (hx : x ∈ r) : x.1 ≠ k := fun hk => hnew (List.mem_map.2 ⟨x, hx, hk⟩)
    cases b with
    | true =>
      have hhigh : n.level k true = n := if_pos (List.contains_iff_mem.2 (h.asserted _ List.mem_cons_self rfl))
      show (n.level k true).Asleep i r
      rw [hhigh]
      exact ⟨h.pending, h.awake, fun x hx => h.asserted x (List.mem_cons_of_mem _ hx)⟩
    | false =>
      show (n.deassert k).Asleep i r
      have hasserted (x : Nat × Bool) (hx : x ∈ r) (hb : x.2 = true) : x.1 ∈ n.asserted.filter (fun y => decide (y ≠ k)) :=
        (mem_filter_ne (hkept x hx)).2 (h.asserted x (List.mem_cons_of_mem _ hx) hb)
      have hnone : n.pending.filter (fun y => decide (y ≠ k)) = [] := by
        rw [h.pending]
        rfl
      unfold Intr.deassert
      dsimp only
      split
      · rw [Intr.arbitrate_idle hnone]
        exact ⟨hnone, h.awake, hasserted⟩
      · exact ⟨h.pending, h.awake, hasserted⟩

/-! ### The clauses -/

section
variable {s : State} (hl : s.Live)
include hl

theorem intSourceFire_event_yields {id : Nat} {line : Bool} (hid : idAssigned id = true) (hev : idEvent id = true)
    (hen : s.m.dev.intr.en id = true) :
    Yields (.intSourceFire id line) s [] (fun t => (s.m.dev.intr.isActive id = false → id ∈ t.m.dev.intr.pending) ∧
      (s.m.dev.intr.isActive id = true → id ∉ s.m.dev.intr.asserted → id ∈ t.m.dev.intr.repeats)) := by
  have hexec : exec (.intSourceFire id line) s = liveDev (fun d => d.fireInt id) s := by
    refine liveDev_congr ?_
    rw [onlyIf_of_true hid]
    exact if_pos hev
  refine yields_of_liveDev hl hexec (execIntSourceFire_framed id line s) (by decide) ?_
  have hseen := Dev.settle_seen (d := s.m.dev.fireInt id) (not_mem_levelIds_of_event hev)
  rw [Dev.fireInt_intr] at hseen
  exact ⟨fun hact => (Intr.pending_of_seen hseen).2 (Intr.fire_pending hen hact),
    fun hact hnot => (Intr.repeats_of_seen hseen).2 (Intr.fire_repeats hen hact hnot)⟩

theorem intSourceFire_level_yields {id : Nat} (hid : idAssigned id = true) (hev : idEvent id = false) (hlt : id < 604)
    (hsense : s.m.dev.intr.sense id = 0) (hnot : id ∉ s.m.dev.intr.asserted) :
    Yields (.intSourceFire id true) s [] (fun t => id ∈ t.m.dev.intr.asserted ∧
      (s.m.dev.intr.en id = true → s.m.dev.intr.isActive id = false → id ∈ t.m.dev.intr.pending)) := by
  have hassert : s.m.dev.intr.level id true = Intr.fire { s.m.dev.intr with asserted := insertNat id s.m.dev.intr.asserted } id :=
    if_neg (fun h => hnot (List.contains_iff_mem.1 h))
  have hexec : exec (.intSourceFire id true) s = liveDev (fun d => d.onIntr (fun n => n.level id true)) s := by
    refine liveDev_congr ?_
    rw [onlyIf_of_true hid, hev]
    exact if_pos hsense
  refine yields_of_liveDev hl hexec (execIntSourceFire_framed id true s) (by decide) ?_
  have hseen := Dev.settle_seen (d := s.m.dev.onIntr (fun n => n.level id true)) (not_mem_levelIds_of_lt hlt)
  change _ = (s.m.dev.intr.level id true).seen id at hseen
  rw [hassert] at hseen
  refine ⟨(Intr.asserted_of_seen hseen).2 ?_, fun hen hact => (Intr.pending_of_seen hseen).2 (Intr.fire_pending hen hact)⟩
  rw [Intr.fire_asserted]
  exact mem_insertNat_self ..

section
variable {core : Nat} (hc : core < 4) (hpow : (s.m.dev.intr.core core).powered = true) (hawake : (s.m.dev.intr.core core).awake = true)
include hc hpow hawake

theorem intClaim_yields {id : Nat} (hbest : s.m.dev.intr.best core = some id) (hlen : s.m.dev.intr.cores.length = 4) :
    Yields (.intClaim core) s [] (fun t => Emission.claim core (2 ^ 31 + id) ∈ t.m.dev.sent ∧ (id, core) ∈ t.m.dev.intr.active ∧
      (t.m.dev.intr.core core).lastId = id ∧ (id < 604 → id ∉ t.m.dev.intr.pending)) := by
  have hexec : exec (.intClaim core) s = liveDev (fun d => (d.onIntr (Intr.claimed core id)).emit (.claim core (2 ^ 31 + id))) s := by
    refine liveDev_congr ?_
    rw [onlyIf_of_true (by rw [hpow, hawake, decide_eq_true hc]; rfl)]
    unfold Intr.claim
    rw [hbest]
    rfl
  refine yields_of_liveDev hl hexec (execIntClaim_framed core s) (by decide) ?_
  rw [Dev.settle_intr_active, Dev.settle_core_lastId]
  refine ⟨Dev.mem_settle_sent List.mem_cons_self, ?_, Intr.claimed_lastId (hlen ▸ hc), fun hlt hpend => ?_⟩
  · show (id, core) ∈ (s.m.dev.intr.claimed core id).active
    rw [Intr.claimed_active]
    exact List.mem_append_right _ (List.mem_singleton.2 rfl)
  · have hseen := Dev.settle_seen (d := (s.m.dev.onIntr (Intr.claimed core id)).emit (.claim core (2 ^ 31 + id))) (not_mem_levelIds_of_lt hlt)
    have hin : id ∈ (s.m.dev.intr.claimed core id).pending := (Intr.pending_of_seen hseen).1 hpend
    rw [Intr.claimed_pending, List.mem_filter, decide_eq_true_eq] at hin
    exact hin.2 rfl

theorem intClaim_none_yields (hbest : s.m.dev.intr.best core = none) :
    Yields (.intClaim core) s [] (fun t => Emission.claim core 0 ∈ t.m.dev.sent ∧ t.m.dev.intr.active = s.m.dev.intr.active ∧
      t.m.dev.intr.spurious = satAdd32 s.m.dev.intr.spurious 1) := by
  have hexec : exec (.intClaim core) s = liveDev (fun d => (d.onIntr (fun n => { n with spurious := satAdd32 n.spurious 1 })).emit
      (.claim core 0)) s := by
    refine liveDev_congr ?_
    rw [onlyIf_of_true (by rw [hpow, hawake, decide_eq_true hc]; rfl)]
    unfold Intr.claim
    rw [hbest]
    rfl
  refine yields_of_liveDev hl hexec (execIntClaim_framed core s) (by decide) ?_
  rw [Dev.settle_intr_active, Dev.settle_intr_spurious]
  exact ⟨Dev.mem_settle_sent List.mem_cons_self, rfl, rfl⟩

end

theorem intComplete_yields {core id : Nat} {nothing : Bool} (hc : core < 4) :
    Yields (.intComplete core id nothing) s [] (fun t =>
      ((id, core) ∈ s.m.dev.intr.active → (id, core) ∉ t.m.dev.intr.active ∧ t.m.dev.intr.badComplete = s.m.dev.intr.badComplete ∧
        t.m.dev.intr.spurious = (if nothing then satAdd32 s.m.dev.intr.spurious 1 else s.m.dev.intr.spurious)) ∧
      ((id, core) ∉ s.m.dev.intr.active → t.m.dev.intr.active = s.m.dev.intr.active ∧
        t.m.dev.intr.badComplete = satAdd32 s.m.dev.intr.badComplete 1)) := by
  have hexec : exec (.intComplete core id nothing) s = liveDev (fun d => d.onIntr (fun n => n.finish core id nothing)) s :=
    liveDev_congr (onlyIf_of_true (decide_eq_true hc) _ _)
  refine yields_of_liveDev hl hexec (execIntComplete_framed core id nothing s) (by decide) ?_
  rw [Dev.settle_intr_active, Dev.settle_intr_spurious, Dev.settle_intr_badComplete]
  refine ⟨fun hin => ?_, fun hnot => ?_⟩
  · obtain ⟨hactive, hbad, hspurious⟩ := Intr.finish_of_active (n := s.m.dev.intr) (nothing := nothing) hin
    exact ⟨fun h => hactive h, hbad, hspurious⟩
  · have hfinish : s.m.dev.intr.finish core id nothing = { s.m.dev.intr with badComplete := satAdd32 s.m.dev.intr.badComplete 1 } :=
      if_neg (fun h => hnot (List.contains_iff_mem.1 h))
    dsimp only [Dev.onIntr]
    rw [hfinish]
    exact ⟨rfl, rfl⟩

theorem intSrcSetting_yields {id v : Nat} (hlt : id < 1008) (hid : idAssigned id = true) (hv : v < 2 ^ 16) (hbit : bit v 14 = false) :
    Yields (.intSrcSetting id v) s [] (fun t => t.m.dev.intr.setting = Tbl.set intrDefault s.m.dev.intr.setting id v ∧
      t.m.dev.intr.active = s.m.dev.intr.active) := by
  have hexec : exec (.intSrcSetting id v) s = liveDev (fun d => d.onIntr (Intr.firmwareSet id v)) s := by
    refine liveDev_congr ?_
    rw [onlyIf_of_true (by rw [decide_eq_true hlt, hid]; rfl)]
    exact congrArg (fun w => s.m.dev.onIntr (Intr.firmwareSet id w)) (halfword_of_bit14 hv hbit)
  refine yields_of_liveDev hl hexec (execIntSrcSetting_framed id v s) (by decide) ?_
  rw [Dev.settle_intr_active, Dev.settle_intr_setting]
  obtain ⟨hsetting, hactive⟩ := Intr.firmwareSet_keeps (n := s.m.dev.intr) (id := id) hv
  exact ⟨hsetting, hactive⟩

theorem coreSleep_yields {i : Nat} (hi : i < 4) (hlen : s.m.dev.intr.cores.length = 4) (hpow : (s.m.dev.intr.core i).powered = true)
    (hpend : s.m.dev.intr.pending = []) (hlevels : ∀ e ∈ s.m.dev.levels, e.2 = true → e.1 ∈ s.m.dev.intr.asserted) :
    Yields (.coreSleep i) s [] (fun t => (t.m.dev.intr.core i).awake = false ∧
      (t.m.dev.intr.core i).wdogAt = (s.m.dev.intr.core i).wdogAt ∧ t.m.dev.intr.pending = []) := by
  have hexec : exec (.coreSleep i) s = liveDev (fun d => (d.onCore i (fun c => { c with awake := false })).onIntr Intr.arbitrate) s :=
    liveDev_congr (onlyIf_of_true (by rw [decide_eq_true hi, hpow]; rfl) _ _)
  refine yields_of_liveDev hl hexec (execCoreSleep_framed i s) (by decide) ?_
  have hcore := Dev.core_onCore_same (d := s.m.dev) (hlen ▸ hi) (fun c => { c with awake := false })
  have hwarn (k : Nat) : ((s.m.dev.onCore i (fun c => { c with awake := false })).intr.core k).warning = (s.m.dev.intr.core k).warning :=
    modAt_getD_congr (g := CtlCore.warning) (f := fun c => { c with awake := false }) (fun _ => rfl) s.m.dev.intr.cores i k {}
  have hlev : ((s.m.dev.onCore i (fun c => { c with awake := false })).onIntr Intr.quiet).levels = s.m.dev.levels :=
    Dev.levels_congr hwarn rfl rfl rfl rfl
  have hidle : (s.m.dev.onCore i (fun c => { c with awake := false })).onIntr Intr.arbitrate =
      (s.m.dev.onCore i (fun c => { c with awake := false })).onIntr Intr.quiet :=
    congrArg (fun n => (s.m.dev.onCore i (fun c => { c with awake := false })).onIntr (fun _ => n)) (Intr.arbitrate_idle hpend)
  have hsleep : Intr.Asleep ((s.m.dev.onCore i (fun c => { c with awake := false })).onIntr Intr.quiet).intr i s.m.dev.levels :=
    ⟨hpend, congrArg CtlCore.awake hcore, hlevels⟩
  have hdone := hsleep.applyLevels (by rw [Dev.levels_ids]; decide)
  rw [← hlev, ← Dev.settle_intr] at hdone
  dsimp only
  rw [hidle, Dev.settle_core_wdogAt]
  exact ⟨hdone.awake, (congrArg CtlCore.wdogAt hcore :), hdone.pending⟩

end

/-- Settles O33: settling moves the level sources alone, so that a claimed source stays claimed and a sleeping core asleep. -/
theorem interrupts : Obligations.Interrupts := by
  unfold Obligations.Interrupts
  intro s hl hlen
  refine ⟨fun id line hid hev hen => intSourceFire_event_yields hl hid hev hen,
    fun id hid hev hlt hsense hnot => intSourceFire_level_yields hl hid hev hlt hsense hnot, fun core hc hpow hawake => ⟨?_, ?_⟩,
    fun core id nothing hc => intComplete_yields hl hc, fun id v hlt hid hv hbit => intSrcSetting_yields hl hlt hid hv hbit,
    fun i hi hpow hpend hlevels => coreSleep_yields hl hi hlen hpow hpend hlevels⟩
  · exact fun id hbest => intClaim_yields hl hc hpow hawake hbest hlen
  · exact fun hbest => intClaim_none_yields hl hc hpow hawake hbest

end Sys2Proof.Machine
end

section
/-! The event recorder, and FAULT_CLEAR and BLACKBOX_CLEAR (R440, R442, R549, R563 to R568). -/

namespace Sys2Proof.Machine
open Sys2Proof

/-! ### Tables -/

/-- A read of a table with keys removed, whatever the table. -/
theorem Tbl.get_drop {α : Type} (d : Nat → α) (p : Nat → Bool) (t : Tbl α) (k : Nat) :
    Tbl.get d (Tbl.drop p t) k = if p k then d k else Tbl.get d t k := by
  induction t with
  | nil => exact (ite_self _).symm
  | cons e r ih =>
    obtain ⟨a, v⟩ := e
    rw [Tbl.drop, List.filter_cons]
    by_cases hk : a = k
    · subst hk
      cases hp : p a with
      | true =>
        rw [hp] at ih
        exact ih
      | false =>
        simp [Tbl.get]
    · have hget : Tbl.get d ((a, v) :: r) k = Tbl.get d r k := if_neg hk
      rw [hget, ← ih]
      split
      · exact if_neg hk
      · rfl

/-! ### Faults that are cleared -/

/-- The fault status with the bits of a list of sources cleared. -/
def clearedStatus (srcs : List Nat) (w : BitVec 600) : BitVec 600 := srcs.foldl (fun st s => st &&& ~~~(BitVec.twoPow 600 s)) w

theorem clearedStatus_getLsbD (srcs : List Nat) (w : BitVec 600) {k : Nat} (hk : k < 600) :
    (clearedStatus srcs w).getLsbD k = (w.getLsbD k && !decide (k ∈ srcs)) := by
  induction srcs generalizing w with
  | nil => simp [clearedStatus]
  | cons a r ih =>
    refine (ih (w &&& ~~~(BitVec.twoPow 600 a))).trans ?_
    have hbit : (w &&& ~~~(BitVec.twoPow 600 a)).getLsbD k = (w.getLsbD k && !decide (k = a)) := by
      simp [hk]
    rw [hbit, Bool.and_assoc]
    simp [List.mem_cons]

theorem Dev.clearFaults_status (d : Dev) (srcs : List Nat) :
    (d.clearFaults srcs).flt.status = clearedStatus (srcs.filter (fun s => !d.persists s)) d.flt.status := rfl

/-- A fault's status bit clears where it is named and its cause persists no longer (R549). -/
theorem Dev.clearFaults_getLsbD (d : Dev) (srcs : List Nat) {k : Nat} (hk : k < 600) :
    (d.clearFaults srcs).flt.status.getLsbD k = (d.flt.status.getLsbD k && !(decide (k ∈ srcs) && !d.persists k)) := by
  rw [Dev.clearFaults_status, clearedStatus_getLsbD _ _ hk]
  simp [List.mem_filter]

/-! ### Regions that are cleared -/

theorem Mem.setEntry_get (m : Mem) (x : Nat) (l : List Byte) {i : Nat} (h : i ≠ x) :
    Tbl.get entryDflt (m.setEntry x l).mram i = Tbl.get entryDflt m.mram i := Tbl.get_set_of_ne _ _ _ h

/-- A clear empties the entries of its regions, and leaves the others but the header (R568). -/
theorem Mach.bbxClear_get (m : Mach) (mask : Nat) {i : Nat} (h : 0 < i) :
    Tbl.get entryDflt (m.bbxClear mask).mem.mram i = if inRegion mask i then entryDflt i else Tbl.get entryDflt m.mem.mram i :=
  (Mem.setEntry_get _ 0 _ (Nat.ne_of_gt h)).trans (Tbl.get_drop ..)

/-! ### The clauses -/

/-- The queue of the recorder after its oldest entry has left it (R567). -/
def Bbx.taken (r : List BbxItem) (now : Nat) (b : Bbx) : Bbx := { b with queue := r, readyAt := 2000 + now }

theorem Bbx.wrote_fields (b : Bbx) (r : BbxRegion) : (b.wrote r).queue = b.queue ∧ (b.wrote r).readyAt = b.readyAt ∧
    (b.wrote r).lostSince = b.lostSince ∧ (b.wrote r).firstNo = b.firstNo + (if r = .first then 1 else 0) := by
  cases r <;> exact ⟨rfl, rfl, rfl, rfl⟩

/-- The machine whose recorder gives up its oldest entry. -/
def Mach.bbxTaken (m : Mach) (r : List BbxItem) : Mach :=
  { m with dev := (m.dev.advanceTo m.dev.bbx.readyAt).onBbx (Bbx.taken r (m.dev.advanceTo m.dev.bbx.readyAt).clk) }

/-- The machine whose MRAM takes an entry. -/
def Mach.entryWritten (m : Mach) (e : BbxItem) (r : List BbxItem) (x no : Nat) : Mach :=
  { dev := (m.bbxTaken r).dev.onBbx (fun b => b.wrote e.region),
    mem := m.mem.setEntry x (withCrc (padTo 56 e.body ++ leBytes 4 no)) }

theorem bbxEntryWrite_yields {s : State} {e : BbxItem} {r : List BbxItem} {x no : Nat} (hl : s.Live) (hq : s.m.dev.bbx.queue = e :: r)
    (hplace : s.m.dev.bbx.place e.region = some (x, no)) (hlost : s.m.dev.bbx.lostSince = 0) :
    Yields .bbxEntryWrite s [.clk, .seq, .bbx, .sid, .mram] (fun t => t.m.dev.clk = max s.m.dev.clk s.m.dev.bbx.readyAt ∧
      t.m.dev.bbx.readyAt = t.m.dev.clk + 2000 ∧ t.m.dev.bbx.queue = r ∧
      t.m.mem = s.m.mem.setEntry x (withCrc (padTo 56 e.body ++ leBytes 4 no)) ∧
      t.m.dev.bbx.firstNo = s.m.dev.bbx.firstNo + (if e.region = .first then 1 else 0)) := by
  have hbbx : (s.m.dev.advanceTo s.m.dev.bbx.readyAt).bbx = s.m.dev.bbx := (s.m.dev.advanceTo_tame_self _).same .bbx (by decide)
  obtain ⟨hqueue, hready, hlostw, hfirst⟩ := Bbx.wrote_fields (s.m.dev.bbx.taken r (s.m.dev.advanceTo s.m.dev.bbx.readyAt).clk) e.region
  have hwritten : (s.m.entryWritten e r x no).dev.bbx = ((s.m.dev.bbx.taken r (s.m.dev.advanceTo s.m.dev.bbx.readyAt).clk).wrote e.region) :=
    congrArg (fun b : Bbx => (b.taken r (s.m.dev.advanceTo s.m.dev.bbx.readyAt).clk).wrote e.region) hbbx
  have hexec : exec .bbxEntryWrite s = live (fun m => m.entryWritten e r x no) s := by
    show execBbxEntryWrite s = _
    unfold execBbxEntryWrite
    refine live_congr ?_
    have hp : ((s.m.dev.advanceTo s.m.dev.bbx.readyAt).bbx.taken r (s.m.dev.advanceTo s.m.dev.bbx.readyAt).clk).place e.region = some (x, no) := by
      rw [hbbx, ← hplace]
      cases e.region <;> rfl
    have hp' : (s.m.bbxTaken r).dev.bbx.place e.region = some (x, no) := hp
    have hwrite : (s.m.bbxTaken r).bbxWrite e = s.m.entryWritten e r x no := by
      unfold Mach.bbxWrite
      rw [hp']
      rfl
    have hnone : (s.m.entryWritten e r x no).dev.bbx.lostSince = 0 := by
      rw [hwritten]
      exact hlostw.trans hlost
    rw [hq]
    dsimp only
    refine Eq.trans ?_ hwrite
    rw [← hwrite] at hnone
    exact if_pos hnone
  refine yields_of_live hl hexec (execBbxEntryWrite_framed s) (by decide) ?_
  rw [Dev.settle_clk, Dev.settle_bbx]
  rw [hwritten]
  exact ⟨Dev.advanceTo_clk .., hready.trans (Nat.add_comm ..), hqueue, rfl, hfirst⟩

section
variable {s : State} {sq cid : Nat} {c : Cmd}

theorem faultClear_yields {srcs : List Nat} (hr : s.Runs sq cid 0x20 c)
    (hsrcs : c.target < 600 ∧ srcs = [c.target] ∨ c.target = 0xFFFFFFFF ∧ srcs = List.range 600) :
    Yields (.faultClear sq cid) s [.seq, .commands, .errorLog, .flt] (fun t =>
      t.Ends sq cid Status.ok ((srcs.filter (fun k => t.m.dev.flt.status.getLsbD k)).length) ∧
      ∀ k, k < 600 → t.m.dev.flt.status.getLsbD k =
        (s.m.dev.flt.status.getLsbD k && !(decide (k ∈ srcs) && !s.m.dev.persists k))) := by
  have hnamed : (c.target = 0xFFFFFFFF ∨ c.target < 600) ∧ (if c.target = 0xFFFFFFFF then List.range 600 else [c.target]) = srcs := by
    obtain ⟨hlt, hone⟩ | ⟨hall, hrange⟩ := hsrcs
    · exact ⟨.inr hlt, (if_neg (by omega)).trans hone.symm⟩
    · exact ⟨.inl hall, (if_pos hall).trans hrange.symm⟩
  obtain ⟨htarget, hsel⟩ := hnamed
  have hlen : srcs.length ≤ 600 := by
    obtain ⟨-, hone⟩ | ⟨-, hrange⟩ := hsrcs
    · simp [hone]
    · rw [hrange, List.length_range]
  have hcount : ((s.m.dev.clearFaults srcs).flt.stillSet srcs) % 2 ^ 32 = (srcs.filter (fun k => (s.m.dev.clearFaults srcs).flt.status.getLsbD k)).length :=
    Nat.mod_eq_of_lt (Nat.lt_of_le_of_lt (List.length_filter_le ..) (by omega))
  have hm : (if c.target = 0xFFFFFFFF ∨ c.target < 600 then
      Mach.complete { s.m with dev := s.m.dev.clearFaults (if c.target = 0xFFFFFFFF then List.range 600 else [c.target]) } c Status.ok
        ((s.m.dev.clearFaults (if c.target = 0xFFFFFFFF then List.range 600 else [c.target])).flt.stillSet
          (if c.target = 0xFFFFFFFF then List.range 600 else [c.target])) else s.m.refuse c 4) =
      Mach.complete { s.m with dev := s.m.dev.clearFaults srcs } c Status.ok ((s.m.dev.clearFaults srcs).flt.stillSet srcs) := by
    rw [if_pos htarget, hsel]
  have hflt : (s.settledAt (Mach.complete { s.m with dev := s.m.dev.clearFaults srcs } c Status.ok
      ((s.m.dev.clearFaults srcs).flt.stillSet srcs))).m.dev.flt = (s.m.dev.clearFaults srcs).flt :=
    (Dev.settle_flt _).trans ((Mach.complete_tame ..).same .flt (by decide))
  refine (yields_of_completion (m := { s.m with dev := s.m.dev.clearFaults srcs }) (P := fun t => t.m.dev.flt = (s.m.dev.clearFaults srcs).flt)
    (e := {}) hr rfl (execFaultClear_framed sq cid s) (by decide) hm (hr.cmd_of_cmds rfl) hflt).mono (fun t ht => ?_)
  obtain ⟨hends, ht⟩ := ht
  rw [hcount] at hends
  rw [ht]
  exact ⟨hends, fun k hk => Dev.clearFaults_getLsbD _ _ hk⟩

theorem Mach.complete_challenge (m : Mach) (c : Cmd) (status result : Nat) (e : ErrInfo) :
    (m.complete c status result e).dev.host.challenge = m.dev.host.challenge := by
  unfold Mach.complete Dev.complete
  dsimp only
  split
  · rfl
  · split <;> rfl

theorem Dev.record_host (d : Dev) (r : BbxRegion) (kind cls code arg : Nat) (data : List Byte) :
    (d.record r kind cls code arg data).host = d.host := by
  unfold Dev.record Dev.bbxPut
  split <;> rfl

/-- The device that has used its challenge (R442). -/
def Mach.challenged (m : Mach) : Mach := { m with dev := m.dev.onHost (fun h => { h with challenge := m.dev.host.challenge + 1 }) }

/-- The machine whose regions a signed clear has emptied (R568). -/
def Mach.cleared (m : Mach) (mask k : Nat) : Mach :=
  { m.challenged.bbxClear mask with dev := (m.challenged.bbxClear mask).dev.record .main 12 0xFF mask k }

theorem Mach.cleared_host (m : Mach) (mask k : Nat) : (m.cleared mask k).dev.host = m.challenged.dev.host :=
  Dev.record_host ..

theorem Mach.cleared_get (m : Mach) (mask k : Nat) {i : Nat} (h : 0 < i) :
    Tbl.get entryDflt (m.cleared mask k).mem.mram i = if inRegion mask i then entryDflt i else Tbl.get entryDflt m.mem.mram i :=
  m.challenged.bbxClear_get mask h

theorem blackboxClear_yields {data : List Byte} (hr : s.Runs sq cid 0x22 c) (hmask : c.dw 0 % 8 ≠ 0) (hlen : 193 ≤ c.dataLen)
    (hok : s.m.mem.dataOk c 193 = true) (hdata : s.m.mem.dataIn c 193 = data) :
    Yields (.blackboxClear sq cid) s [.seq, .commands, .errorLog, .logs, .bbx, .mram] (fun t =>
      t.m.dev.host.challenge = s.m.dev.host.challenge + 1 ∧
      (if (s.m.dev.otp.clearKey (data.take 97)).isSome = true ∧ Config.ecdsaVerify (data.take 97) (data.drop 97)
          (Config.sha384 (uidBytes ++ padTo 32 (Config.challenge s.m.dev.host.challenge) ++ leBytes 4 (c.dw 0))) = true then
        t.Ends sq cid Status.ok 0 ∧ (∀ i, 0 < i → inRegion (c.dw 0 % 8) i = true → Tbl.get entryDflt t.m.mem.mram i = entryDflt i) ∧
        (∀ i, 0 < i → inRegion (c.dw 0 % 8) i = false → Tbl.get entryDflt t.m.mem.mram i = Tbl.get entryDflt s.m.mem.mram i)
      else t.Ends sq cid Status.signatureBad 0 ∧ t.m.mem = s.m.mem)) := by
  subst hdata
  have hshort : ¬c.dataLen < 193 := Nat.not_lt.2 hlen
  have hreach : ¬(!s.m.mem.dataOk c 193) = true := by
    rw [hok]
    exact Bool.false_ne_true
  split
  next hsigned =>
    obtain ⟨hkey, hverify⟩ := hsigned
    obtain ⟨k, hk⟩ := Option.isSome_iff_exists.1 hkey
    refine (yields_of_completion (m := s.m.cleared (c.dw 0 % 8) k) (result := 0) (e := {}) (status := Status.ok)
      (P := fun t => t.m.dev.host.challenge = s.m.dev.host.challenge + 1 ∧ t.m.mem.mram = (s.m.cleared (c.dw 0 % 8) k).mem.mram)
      hr rfl (execBlackboxClear_framed sq cid s) (by decide)
      ((if_neg hmask).trans ((if_neg hshort).trans ((if_neg hreach).trans ?_))) (hr.cmd_of_cmds ?_) ⟨?_, rfl⟩).mono (fun t ht => ?_)
    · dsimp only
      rw [hk]
      exact if_pos hverify
    · rw [Mach.cleared_host]
      rfl
    · refine (Dev.settle_host_challenge _).trans ((Mach.complete_challenge ..).trans ?_)
      rw [Mach.cleared_host]
      rfl
    · obtain ⟨hends, hchallenge, hmram⟩ := ht
      rw [hmram]
      refine ⟨hchallenge, hends, fun i hi hin => ?_, fun i hi hout => ?_⟩
      · rw [Mach.cleared_get _ _ _ hi, hin]
        rfl
      · rw [Mach.cleared_get _ _ _ hi, hout]
        rfl
  next hunsigned =>
    refine (yields_of_completion (m := s.m.challenged) (result := 0) (e := {}) (status := Status.signatureBad)
      (P := fun t => t.m.dev.host.challenge = s.m.dev.host.challenge + 1 ∧ t.m.mem = s.m.mem)
      hr rfl (execBlackboxClear_framed sq cid s) (by decide)
      ((if_neg hmask).trans ((if_neg hshort).trans ((if_neg hreach).trans ?_))) (hr.cmd_of_cmds rfl) ⟨?_, rfl⟩).mono (fun t ht => ?_)
    · dsimp only
      cases hk : s.m.dev.otp.clearKey ((s.m.mem.dataIn c 193).take 97) with
      | none => rfl
      | some k => exact if_neg (fun hverify => hunsigned ⟨by rw [hk]; rfl, hverify⟩)
    · exact (Dev.settle_host_challenge _).trans (Mach.complete_challenge ..)
    · obtain ⟨hends, hchallenge, hmem⟩ := ht
      exact ⟨hchallenge, hends, hmem⟩

end

/-- Settles O34: what MRAM takes of the queue, and the bits and the regions that clear. -/
theorem recorder : Obligations.Recorder := by
  unfold Obligations.Recorder
  intro s
  exact ⟨fun e r x no hl hq hplace hlost => bbxEntryWrite_yields hl hq hplace hlost, fun sq cid c srcs hr hsrcs => faultClear_yields hr hsrcs,
    fun sq cid c data hr hmask hlen hok hdata => blackboxClear_yields hr hmask hlen hok hdata⟩

end Sys2Proof.Machine
end

section
/-! BLACKBOX_READ (R441). -/

namespace Sys2Proof.Machine
open Sys2Proof

section
variable {d : Dev}

/-- Neither the commands in flight nor the event requests change. -/
def Dev.Unasked (d e : Dev) : Prop := e.host.cmds = d.host.cmds ∧ e.host.aer = d.host.aer

theorem Dev.Unasked.of_tame {ps : Nat} {e : Dev} (h : Dev.Tame ps d e) (hc : ps.testBit 15 = false) (he : ps.testBit 16 = false) :
    d.Unasked e := by
  have hevents : Part.same .events { dev := d } { dev := e } := h.same .events he
  exact ⟨h.cmds_eq hc, hevents.1⟩

theorem Dev.Unasked.trans {e f : Dev} (h : d.Unasked e) (k : e.Unasked f) : d.Unasked f := ⟨k.1.trans h.1, k.2.trans h.2⟩

/-- With no event request outstanding, an event completes no command (R423). -/
theorem Dev.postEvent_unasked (h : d.host.aer = []) (type sub arg : Nat) : d.Unasked (d.postEvent type sub arg) := by
  unfold Dev.postEvent Dev.stamped
  dsimp only
  rw [h]
  dsimp only
  split
  · exact ⟨rfl, h.symm⟩
  · split <;> exact ⟨rfl, h.symm⟩

/-- With no event request outstanding, a fault completes no command. -/
theorem Dev.raise_unasked (h : d.host.aer = []) (src arg : Nat) : d.Unasked (d.raise src arg) := by
  unfold Dev.raise
  split
  · exact ⟨rfl, rfl⟩
  · extract_lets cls d1 d2 d3
    clear_value cls
    have h2 : d.Unasked d2 := by
      dsimp only [d2]
      split <;> exact ⟨rfl, rfl⟩
    have h3 : d.Unasked d3 :=
      h2.trans (.of_tame (Dev.faultEntry_tame (ps := setOf [.seq, .stats, .flt, .bbx, .link, .sent]) (by decide) (.refl _ d2) ..)
        (by decide) (by decide))
    have hpost (type sub : Nat) : d.Unasked (d3.postEvent type sub src) := h3.trans (Dev.postEvent_unasked (h3.2.trans h) ..)
    split
    · exact hpost ..
    · exact (hpost ..).trans (.of_tame (Dev.stopTwinkle_tame (ps := setOf [.free, .twk]) (by decide) (.refl _ _)) (by decide) (by decide))
    · exact h3

/-- What an MRAM word found in error does (sources 494 and 495). -/
def Dev.mramError (d : Dev) (e : Nat × Bool) : Dev :=
  if e.2 then d.raise 495 e.1 else (d.onBbx (fun b => { b with mramCe := satAdd32 b.mramCe 1 })).raise 494 e.1

theorem Dev.mramErrors_unasked (h : d.host.aer = []) (l : List (Nat × Bool)) : d.Unasked (l.foldl Dev.mramError d) := by
  refine List.foldlRecOn l _ ⟨rfl, rfl⟩ (fun x hx e _ => ?_)
  have hnone : x.host.aer = [] := hx.2.trans h
  unfold Dev.mramError
  split
  · exact hx.trans (Dev.raise_unasked hnone ..)
  · exact hx.trans (Dev.raise_unasked (d := x.onBbx (fun b => { b with mramCe := satAdd32 b.mramCe 1 })) hnone ..)

end

/-! ### The clauses -/

section
variable {s : State} {sq cid : Nat} {c : Cmd} {ecc : List (Nat × Bool)} (hr : s.Runs sq cid 0x21 c)
include hr

/-- The entries that a list of errors names within the range of a read. -/
def Cmd.eccInRange (c : Cmd) (ecc : List (Nat × Bool)) : List (Nat × Bool) :=
  ecc.filter (fun e => decide (c.dw 0 ≤ e.1) && decide (e.1 < c.dw 0 + c.dw 1))

/-- The machine that has read entries, with their errors, to the host. -/
def Mach.entriesRead (m : Mach) (c : Cmd) (ecc : List (Nat × Bool)) : Mach :=
  { dev := (c.eccInRange ecc).foldl Dev.mramError m.dev, mem := m.mem.dataOut c (m.mem.entries (c.dw 0) (c.dw 1)) }

theorem blackboxRead_yields (hfirst : c.dw 0 ≤ 131071) (hcount : 0 < c.dw 1) (hend : c.dw 0 + c.dw 1 ≤ 131072)
    (hlen : 64 * c.dw 1 ≤ c.dataLen) (hok : s.m.mem.dataOk c (64 * c.dw 1) = true) (hecc : ecc = [] ∨ s.m.dev.host.aer = []) :
    Yields (.blackboxRead sq cid ecc) s [.seq, .stats, .commands, .events, .errorLog, .flt, .bbx, .link, .hostMem] (fun t =>
      t.Ends sq cid Status.ok 0 ∧ t.m.mem = s.m.mem.dataOut c (s.m.mem.entries (c.dw 0) (c.dw 1))) := by
  have hcmds : ((c.eccInRange ecc).foldl Dev.mramError s.m.dev).host.cmds = s.m.dev.host.cmds := by
    obtain rfl | hnone := hecc
    · rfl
    · exact (Dev.mramErrors_unasked hnone _).1
  have hreach : ¬(!s.m.mem.dataOk c (64 * c.dw 1)) = true := by
    rw [hok]
    exact Bool.false_ne_true
  exact yields_of_completion (m := s.m.entriesRead c ecc) (result := 0) (e := {}) (status := Status.ok) hr rfl
    (execBlackboxRead_framed sq cid ecc s) (by decide)
    ((if_neg (Nat.not_lt.2 hfirst)).trans ((if_neg (by omega)).trans ((if_neg (Nat.not_lt.2 hlen)).trans ((if_neg hreach).trans rfl))))
    (hr.cmd_of_cmds hcmds) rfl

theorem blackboxRead_refused_yields (hbad : 131071 < c.dw 0 ∨ c.dw 1 = 0 ∨ 131072 < c.dw 0 + c.dw 1) :
    Yields (.blackboxRead sq cid ecc) s [.seq, .stats, .commands, .events, .errorLog, .flt, .bbx, .link, .hostMem] (fun t =>
      t.Ends sq cid Status.invalidField 0 ∧ t.m.mem = s.m.mem) := by
  by_cases hfirst : 131071 < c.dw 0
  · exact yields_of_completion (m := s.m) (result := 0) (e := { field := 32 }) (status := Status.invalidField) hr rfl
      (execBlackboxRead_framed sq cid ecc s) (by decide) (if_pos hfirst) (hr.cmd_of_cmds rfl) rfl
  · exact yields_of_completion (m := s.m) (result := 0) (e := { field := 36 }) (status := Status.invalidField) hr rfl
      (execBlackboxRead_framed sq cid ecc s) (by decide) ((if_neg hfirst).trans (if_pos (hbad.resolve_left hfirst))) (hr.cmd_of_cmds rfl) rfl

end

/-- Settles O60: the entries of a range go to the host whatever words are in error; a range past the last entry is refused. -/
theorem blackboxReads : Obligations.BlackboxReads := by
  unfold Obligations.BlackboxReads
  intro s sq cid c ecc hr
  exact ⟨fun hfirst hcount hend hlen hok hecc => blackboxRead_yields hr hfirst hcount hend hlen hok hecc,
    fun hbad => blackboxRead_refused_yields hr hbad⟩

end Sys2Proof.Machine
end

section
/-! ABORT, IDENTIFY and GET_LOG (R431, R433, R461). -/

namespace Sys2Proof.Machine
open Sys2Proof

/-! ### Commands in flight under one identifier -/

/-- Whether an entry is in flight under an identifier. -/
def Cmd.isLive (sq cid : Nat) (c : Cmd) : Bool := decide (c.sq = sq) && decide (c.cid = cid) && decide (c.phase ≠ .completing)

/-- Whether an entry under an identifier is fetched. -/
def Cmd.isFetched (sq cid : Nat) (c : Cmd) : Bool := decide (c.sq = sq) && decide (c.cid = cid) && decide (c.phase = .fetched)

/-- How many entries are in flight under an identifier. -/
def Dev.liveCount (d : Dev) (sq cid : Nat) : Nat := d.host.cmds.countP (Cmd.isLive sq cid)

theorem Dev.cmd_isSome_of_liveCount {d : Dev} {sq cid : Nat} (h : 0 < d.liveCount sq cid) : ∃ k, d.cmd sq cid = some k := by
  obtain ⟨c, hc, hlive⟩ := List.countP_pos_iff.1 h
  exact Option.isSome_iff_exists.1 (List.find?_isSome.2 ⟨c, hc, hlive⟩)

/-- A change of the first entry that a predicate holds of, which keeps another predicate of that entry, keeps its count. -/
theorem countP_modifyFirst {α : Type} {p q : α → Bool} {f : α → α} (h : ∀ x, p x = true → q (f x) = q x) (l : List α) :
    (modifyFirst p f l).countP q = l.countP q := by
  induction l with
  | nil => rfl
  | cons x r ih =>
    unfold modifyFirst
    split
    next hx => rw [List.countP_cons, List.countP_cons, h x hx]
    next => rw [List.countP_cons, List.countP_cons, ih]

/-- A change of the first entry that a predicate holds of takes at most one from a count. -/
theorem countP_le_modifyFirst {α : Type} {p q : α → Bool} {f : α → α} (l : List α) : l.countP q ≤ (modifyFirst p f l).countP q + 1 := by
  induction l with
  | nil => exact Nat.zero_le _
  | cons x r ih =>
    unfold modifyFirst
    split
    · rw [List.countP_cons, List.countP_cons]
      split <;> omega
    · rw [List.countP_cons, List.countP_cons]
      omega

theorem modifyFirst_of_find?_none {α : Type} {p : α → Bool} {l : List α} (h : l.find? p = none) (f : α → α) : modifyFirst p f l = l := by
  induction l with
  | nil => rfl
  | cons x r ih =>
    rw [List.find?_eq_none] at h
    unfold modifyFirst
    rw [if_neg (h x List.mem_cons_self), ih (List.find?_eq_none.2 (fun y hy => h y (List.mem_cons_of_mem _ hy)))]

section
variable {d : Dev} {sq cid : Nat}

theorem Dev.liveCount_started (q i : Nat) : (d.modCmd q i (fun x => { x with phase := .started })).liveCount sq cid = d.liveCount sq cid := by
  refine countP_modifyFirst (fun x hx => ?_) d.host.cmds
  simp only [Bool.and_eq_true, decide_eq_true_eq] at hx
  obtain ⟨-, hlive⟩ := hx
  rw [Cmd.isLive, Cmd.isLive, decide_eq_true hlive]
  rfl

theorem Dev.complete_cmds (q i status result : Nat) (e : ErrInfo) : (d.complete q i status result e).host.cmds =
    modifyFirst (Cmd.isLive q i) (fun c => { c with phase := .completing }) d.host.cmds := by
  unfold Dev.complete
  split
  next h => exact (modifyFirst_of_find?_none h _).symm
  next =>
    dsimp only
    split <;> rfl

/-- A completion takes one entry of its own identifier out of flight at most. -/
theorem Dev.liveCount_complete_le (q i status result : Nat) (e : ErrInfo) :
    d.liveCount sq cid ≤ (d.complete q i status result e).liveCount sq cid + 1 := by
  rw [Dev.liveCount, Dev.liveCount, Dev.complete_cmds]
  exact countP_le_modifyFirst d.host.cmds

theorem Dev.liveCount_complete_of_ne {q i : Nat} (h : q ≠ sq ∨ i ≠ cid) (status result : Nat) (e : ErrInfo) :
    (d.complete q i status result e).liveCount sq cid = d.liveCount sq cid := by
  rw [Dev.liveCount, Dev.liveCount, Dev.complete_cmds]
  refine countP_modifyFirst (fun x hx => ?_) d.host.cmds
  simp only [Cmd.isLive, Bool.and_eq_true, decide_eq_true_eq] at hx
  obtain ⟨⟨rfl, rfl⟩, -⟩ := hx
  have hkey : (decide (x.sq = sq) && decide (x.cid = cid)) = false := by
    obtain h | h := h <;> simp [h]
  rw [Cmd.isLive, Cmd.isLive, hkey, Bool.false_and, Bool.false_and]

/-- What starting fetched commands completes are other entries than one that is in flight and not fetched. -/
theorem Dev.startList_live (q : Nat) (before : Bool) (l : List Cmd) (h : l.countP (Cmd.isFetched sq cid) < d.liveCount sq cid) :
    0 < (d.startList q before l).liveCount sq cid := by
  induction l generalizing d before with
  | nil => exact h
  | cons c r ih =>
    rw [List.countP_cons] at h
    unfold Dev.startList
    split
    · exact ih before (by omega)
    next hq =>
      split
      next hphase =>
        split
        · omega
        · dsimp only
          split
          next e _ =>
            refine ih true ?_
            by_cases hkey : c.sq = sq ∧ c.cid = cid
            · have hfetched : Cmd.isFetched sq cid c = true := by
                rw [Cmd.isFetched, decide_eq_true hkey.1, decide_eq_true hkey.2, decide_eq_true hphase]
                rfl
              rw [if_pos hfetched] at h
              have hle := Dev.liveCount_complete_le (d := d.modCmd q c.cid (fun x => { x with phase := .started })) (sq := sq) (cid := cid) q c.cid e.1 0 e.2
              rw [Dev.liveCount_started] at hle
              omega
            · rw [Dev.liveCount_complete_of_ne (by omega), Dev.liveCount_started]
              omega
          next => exact ih true (by rw [Dev.liveCount_started]; omega)
      · exact ih true (by omega)

theorem Dev.startReady_live {c : Cmd} (hc : d.cmd sq cid = some c) (hphase : c.phase ≠ .fetched) (q : Nat) :
    ∃ k, (d.startReady q).cmd sq cid = some k := by
  have hmem : c ∈ d.host.cmds.filter (Cmd.isLive sq cid) := List.mem_filter.2 ⟨List.mem_of_find?_eq_some hc, List.find?_some hc⟩
  refine Dev.cmd_isSome_of_liveCount (Dev.startList_live q false d.host.cmds ?_)
  have hfetched : d.host.cmds.countP (Cmd.isFetched sq cid) = (d.host.cmds.filter (Cmd.isLive sq cid)).countP (fun x => decide (x.phase = .fetched)) := by
    rw [List.countP_filter]
    refine List.countP_congr (fun x _ => ?_)
    simp only [Cmd.isFetched, Cmd.isLive, Bool.and_eq_true, decide_eq_true_eq]
    exact ⟨fun ⟨hkey, hx⟩ => ⟨hx, hkey, fun hdone => CmdPhase.noConfusion (hx.symm.trans hdone)⟩, fun ⟨hx, hkey, _⟩ => ⟨hkey, hx⟩⟩
  rw [hfetched, Dev.liveCount, List.countP_eq_length_filter (p := Cmd.isLive sq cid)]
  refine Nat.lt_of_le_of_ne List.countP_le_length (fun hall => ?_)
  exact hphase (of_decide_eq_true (List.countP_eq_length.1 hall c hmem))

/-- A completion that waits stays. -/
theorem Dev.complete_stage_subset (q i status result : Nat) (e : ErrInfo) : d.host.stage ⊆ (d.complete q i status result e).host.stage := by
  cases h : d.cmd q i with
  | none =>
    unfold Dev.complete
    rw [h]
    exact List.Subset.refl _
  | some c =>
    rw [Dev.complete_stage h]
    exact List.subset_append_left ..

theorem Dev.startList_stage_subset (q : Nat) (before : Bool) (l : List Cmd) : d.host.stage ⊆ (d.startList q before l).host.stage := by
  induction l generalizing d before with
  | nil => exact List.Subset.refl _
  | cons c r ih =>
    unfold Dev.startList
    split
    · exact ih before
    · split
      · split
        · exact List.Subset.refl _
        · dsimp only
          split
          · exact List.Subset.trans (Dev.complete_stage_subset (d := d.modCmd q c.cid (fun x => { x with phase := .started })) ..) (ih true)
          · exact ih (d := d.modCmd q c.cid (fun x => { x with phase := .started })) true
      · exact ih true

end

/-! ### ABORT (R461) -/

/-- The output of a command that is aborted leaves the commands in flight. -/
theorem Mach.abortedData_cmds (m : Mach) (k : Cmd) : (m.abortedData k).dev.host = m.dev.host := by
  unfold Mach.abortedData
  split <;> rfl

/-- The machine that has ended a command which had not begun (R461). -/
def Mach.abortedEarly (m : Mach) (k : Cmd) : Mach :=
  { m.abortedData k with dev := ((m.abortedData k).dev.complete k.sq k.cid Status.aborted).startReady k.sq }

/-- The machine that has ended an event request (R461). -/
def Mach.abortedEvent (m : Mach) (k : Cmd) : Mach :=
  { m with dev := (m.dev.onHost (fun h => { h with aer := h.aer.filter (fun x => decide (x ≠ k.cid)) })).complete k.sq k.cid Status.aborted }

theorem Dev.complete_aer {d : Dev} (q i status result : Nat) (e : ErrInfo) : (d.complete q i status result e).host.aer = d.host.aer := by
  unfold Dev.complete
  split
  next => rfl
  next =>
    dsimp only
    split <;> rfl

/-- A completion of one command leaves which command another identifier names. -/
theorem Dev.cmd_complete_of_ne {d : Dev} {sq cid q i : Nat} (h : q ≠ sq ∨ i ≠ cid) (status result : Nat) (e : ErrInfo) :
    (d.complete q i status result e).cmd sq cid = d.cmd sq cid := by
  rw [Dev.cmd, Dev.complete_cmds]
  refine find?_modifyFirst_of_not (fun x hx => ?_) d.host.cmds
  simp only [Cmd.isLive, Bool.and_eq_true, decide_eq_true_eq] at hx
  obtain ⟨⟨rfl, rfl⟩, -⟩ := hx
  have hkey : (decide (x.sq = sq) && decide (x.cid = cid)) = false := by
    obtain h | h := h <;> simp [h]
  exact ⟨by rw [hkey]; rfl, by rw [hkey]; rfl⟩

section
variable {s : State} {sq cid : Nat} {c k : Cmd} (hr : s.Runs sq cid 0x09 c)
include hr

theorem abort_missing_yields (hsq : (s.m.dev.sq c.target).isSome = true) (hnone : s.m.dev.cmd c.target (c.dw 0 % 65536) = none) :
    Yields (.abort sq cid) s [.seq, .stats, .commands, .events, .errorLog, .flt, .bbx, .link, .dram, .dma, .power, .caps, .codec, .hostMem,
      .dramMem, .feat 0x1E, .feat 0x1F] (fun t => t.Ends sq cid Status.alreadyComplete 0) := by
  have hm : s.m.abort c = s.m.complete c Status.alreadyComplete := by
    unfold Mach.abort
    dsimp only
    rw [Option.isNone_eq_false_iff.2 hsq, hnone]
    rfl
  exact (yields_of_completion (m := s.m) (result := 0) (e := {}) (P := fun _ => True) hr rfl (execAbort_framed sq cid s) (by decide) hm
    (hr.cmd_of_cmds rfl) trivial).mono (fun t ht => ht.1)

/-- A command that another ABORT ends is not the ABORT itself. -/
theorem abort_key_ne (hk : s.m.dev.cmd c.target (c.dw 0 % 65536) = some k) (hop : k.opcode ≠ 0x09) : k.sq ≠ sq ∨ k.cid ≠ cid := by
  obtain ⟨-, hcmd, -, hopc⟩ := hr
  obtain ⟨hksq, hkcid, -⟩ := Dev.cmd_key hk
  rw [← hksq, ← hkcid] at hk
  by_contra hsame
  push Not at hsame
  obtain ⟨rfl, rfl⟩ := hsame
  rw [hcmd] at hk
  exact hop (Option.some.inj hk ▸ hopc)

omit hr in
/-- What ABORT does where it ends its target. -/
theorem Mach.abort_of_target {m m1 : Mach} (hsq : (m.dev.sq c.target).isSome = true) (hk : m.dev.cmd c.target (c.dw 0 % 65536) = some k)
    (hop : k.opcode ≠ 0x09) (hplay : ¬(k.opcode = 0x60 ∧ k.phase = .running)) (hend : m.abortTarget k = some m1) :
    m.abort c = m1.complete c Status.ok := by
  unfold Mach.abort
  dsimp only
  rw [Option.isNone_eq_false_iff.2 hsq, hk]
  dsimp only
  rw [if_neg Bool.false_ne_true, if_neg hop, if_neg hplay, hend]

omit hr in
/-- A completion that waits, waits once the command has settled, whatever completes beside it. -/
theorem ends_of_mem_stage {m : Mach} {x : Compl} (hx : x ∈ m.dev.host.stage) (status result : Nat) (e : ErrInfo) :
    (s.settledAt (m.complete c status result e)).Ends x.sq x.cid x.status x.result := by
  refine ⟨x, ?_, rfl, rfl, rfl, rfl⟩
  show x ∈ (m.complete c status result e).dev.settle.host.stage
  rw [Dev.settle_host_stage]
  exact Dev.complete_stage_subset _ _ _ _ _ hx

omit hr in
/-- The completion of a command in flight waits at the completion stage. -/
theorem Dev.complete_mem_stage {d : Dev} {q i : Nat} (hk : d.cmd q i = some k) (status : Nat) :
    ∃ x ∈ (d.complete q i status).host.stage, x.sq = q ∧ x.cid = i ∧ x.status = status ∧ x.result = 0 := by
  rw [Dev.complete_stage hk]
  exact ⟨_, List.mem_append_right _ (List.mem_singleton.2 rfl), rfl, rfl, rfl, rfl⟩

theorem abort_early_yields (hsq : (s.m.dev.sq c.target).isSome = true) (hk : s.m.dev.cmd c.target (c.dw 0 % 65536) = some k)
    (hop : k.opcode ≠ 0x09) (hphase : k.phase = .fetched ∨ k.phase = .started) :
    Yields (.abort sq cid) s [.seq, .stats, .commands, .events, .errorLog, .flt, .bbx, .link, .dram, .dma, .power, .caps, .codec, .hostMem,
      .dramMem, .feat 0x1E, .feat 0x1F] (fun t => t.Ends sq cid Status.ok 0 ∧ t.Ends c.target (c.dw 0 % 65536) Status.aborted 0) := by
  have hne := abort_key_ne hr hk hop
  obtain ⟨hlive, hcmd, hstarted, hopc⟩ := id hr
  obtain ⟨hksq, hkcid, -⟩ := Dev.cmd_key hk
  have hplay : ¬(k.opcode = 0x60 ∧ k.phase = .running) := by
    rintro ⟨-, hrun⟩
    rw [hrun] at hphase
    obtain h | h := hphase <;> exact CmdPhase.noConfusion h
  have hm := Mach.abort_of_target (m1 := s.m.abortedEarly k) hsq hk hop hplay (if_pos hphase)
  have hc : ((s.m.abortedData k).dev.complete k.sq k.cid Status.aborted).cmd sq cid = some c := by
    rw [Dev.cmd_complete_of_ne hne, Dev.cmd_of_cmds (congrArg HostIf.cmds (s.m.abortedData_cmds k)), hcmd]
  obtain ⟨k', hk'⟩ := Dev.startReady_live hc (by rw [hstarted]; exact CmdPhase.noConfusion) k.sq
  have hkd : (s.m.abortedData k).dev.cmd k.sq k.cid = some k := by
    rw [Dev.cmd_of_cmds (congrArg HostIf.cmds (s.m.abortedData_cmds k)), hksq, hkcid, hk]
  obtain ⟨x, hx, hxsq, hxcid, hxstatus, hxresult⟩ := Dev.complete_mem_stage hkd Status.aborted
  have hxs : x ∈ (s.m.abortedEarly k).dev.host.stage := Dev.startList_stage_subset _ _ _ hx
  have hends := ends_of_mem_stage (s := s) (c := c) hxs Status.ok 0 {}
  rw [hxsq, hxcid, hxstatus, hxresult, hksq, hkcid] at hends
  exact yields_of_completion (m := s.m.abortedEarly k) (result := 0) (e := {}) (status := Status.ok)
    (P := fun t => t.Ends c.target (c.dw 0 % 65536) Status.aborted 0) hr rfl (execAbort_framed sq cid s) (by decide) hm hk' hends

theorem abort_event_yields (hsq : (s.m.dev.sq c.target).isSome = true) (hk : s.m.dev.cmd c.target (c.dw 0 % 65536) = some k)
    (hop : k.opcode = 0x08) (hphase : k.phase = .running) :
    Yields (.abort sq cid) s [.seq, .stats, .commands, .events, .errorLog, .flt, .bbx, .link, .dram, .dma, .power, .caps, .codec, .hostMem,
      .dramMem, .feat 0x1E, .feat 0x1F] (fun t => t.Ends sq cid Status.ok 0 ∧ t.Ends c.target (c.dw 0 % 65536) Status.aborted 0 ∧
      t.m.dev.host.aer = s.m.dev.host.aer.filter (fun x => decide (x ≠ c.dw 0 % 65536))) := by
  have hop9 : k.opcode ≠ 0x09 := by
    rw [hop]
    decide
  have hne := abort_key_ne hr hk hop9
  obtain ⟨hlive, hcmd, -, -⟩ := id hr
  obtain ⟨hksq, hkcid, -⟩ := Dev.cmd_key hk
  have hplay : ¬(k.opcode = 0x60 ∧ k.phase = .running) := fun h => absurd (hop.symm.trans h.1) (by decide)
  have hend : s.m.abortTarget k = some (s.m.abortedEvent k) := by
    unfold Mach.abortTarget
    dsimp only
    rw [if_neg (by rw [hphase]; rintro (h | h) <;> exact CmdPhase.noConfusion h), hop]
    rfl
  have hm := Mach.abort_of_target hsq hk hop9 hplay hend
  have hc : (s.m.abortedEvent k).dev.cmd sq cid = some c := by
    refine (Dev.cmd_complete_of_ne hne ..).trans ?_
    exact hcmd
  have hkd : (s.m.dev.onHost (fun h => { h with aer := h.aer.filter (fun x => decide (x ≠ k.cid)) })).cmd k.sq k.cid = some k := by
    rw [hksq, hkcid]
    exact hk
  obtain ⟨x, hx, hxsq, hxcid, hxstatus, hxresult⟩ := Dev.complete_mem_stage hkd Status.aborted
  have hends := ends_of_mem_stage (s := s) (c := c) (m := s.m.abortedEvent k) hx Status.ok 0 {}
  rw [hxsq, hxcid, hxstatus, hxresult, hksq, hkcid] at hends
  refine yields_of_completion (m := s.m.abortedEvent k) (result := 0) (e := {}) (status := Status.ok)
    (P := fun t => t.Ends c.target (c.dw 0 % 65536) Status.aborted 0 ∧
      t.m.dev.host.aer = s.m.dev.host.aer.filter (fun x => decide (x ≠ c.dw 0 % 65536))) hr rfl (execAbort_framed sq cid s) (by decide) hm hc
    ⟨hends, ?_⟩
  rw [← hkcid]
  refine (Dev.settle_host_aer _).trans ((Dev.complete_aer ..).trans ?_)
  exact Dev.complete_aer (d := s.m.dev.onHost (fun h => { h with aer := h.aer.filter (fun x => decide (x ≠ k.cid)) })) ..

end

/-! ### IDENTIFY and GET_LOG (R431, R433, R434) -/

section
variable {s : State} {sq cid : Nat} {c : Cmd}

theorem identify_yields (hr : s.Runs sq cid 0x00 c) (hlen : 4096 ≤ c.dataLen) (hok : s.m.mem.dataOk c 4096 = true) :
    Yields (.identify sq cid) s [.seq, .commands, .errorLog, .hostMem] (fun t => t.Ends sq cid Status.ok 0 ∧
      t.m.mem = s.m.mem.dataOut c s.m.identity) := by
  have hreach : ¬(!s.m.mem.dataOk c 4096) = true := by
    rw [hok]
    exact Bool.false_ne_true
  exact yields_of_completion (m := { s.m with mem := s.m.mem.dataOut c s.m.identity }) (result := 0) (e := {}) (status := Status.ok) hr rfl
    (execIdentify_framed sq cid s) (by decide) ((if_neg (Nat.not_lt.2 hlen)).trans (if_neg hreach)) (hr.cmd_of_cmds rfl) rfl

/-- The bytes of a log page from an offset on (R433). -/
def Dev.logBytes (d : Dev) (recs : List (List Byte)) (lost disc off len : Nat) : List Byte :=
  slice (leBytes 4 recs.length ++ leBytes 4 (min lost 0xFFFFFFFF) ++ leBytes 4 (min disc 0xFFFFFFFF) ++ zeros 4 ++ d.stamp ++ zeros 32 ++
    recs.flatten) off len

/-- The machine that has given a log page to the host. -/
def Mach.logGiven (m : Mach) (c : Cmd) (recs : List (List Byte)) (lost disc : Nat) : Mach :=
  { dev := m.dev.stamped.onHost (fun h => h.logRead (c.dw 0 % 256)),
    mem := m.mem.dataOut c (m.dev.logBytes recs lost disc (c.dw 1) c.dataLen) }

/-- The command in flight is no matter of the log that was read. -/
theorem HostIf.logRead_cmds (h : HostIf) (page : Nat) : (h.logRead page).cmds = h.cmds := by
  unfold HostIf.logRead
  split <;> rfl

theorem getLog_yields {recs : List (List Byte)} {lost disc : Nat} (hr : s.Runs sq cid 0x05 c)
    (hpage : s.m.logPage (c.dw 0 % 256) = some (recs, lost, disc)) (hoff : c.dw 1 % 64 = 0) (hok : s.m.mem.dataOk c c.dataLen = true) :
    Yields (.getLog sq cid) s [.seq, .commands, .events, .errorLog, .logs, .hostMem] (fun t => t.Ends sq cid Status.ok 0 ∧
      t.m.mem = s.m.mem.dataOut c (s.m.dev.logBytes recs lost disc (c.dw 1) c.dataLen)) := by
  refine yields_of_completion (m := s.m.logGiven c recs lost disc) (result := 0) (e := {}) (status := Status.ok) hr rfl
    (execGetLog_framed sq cid s) (by decide) ?_ (hr.cmd_of_cmds (HostIf.logRead_cmds ..)) rfl
  dsimp only
  rw [hpage]
  dsimp only
  rw [if_neg (not_not.2 hoff), hok]
  rfl

theorem getLog_reserved_yields (hr : s.Runs sq cid 0x05 c) (hpage : s.m.logPage (c.dw 0 % 256) = none) :
    Yields (.getLog sq cid) s [.seq, .commands, .events, .errorLog, .logs, .hostMem] (fun t => t.Ends sq cid Status.invalidField 0 ∧
      t.m.mem = s.m.mem) := by
  refine yields_of_completion (m := s.m) (result := 0) (e := { field := 32 }) (status := Status.invalidField) hr rfl
    (execGetLog_framed sq cid s) (by decide) ?_ (hr.cmd_of_cmds rfl) rfl
  dsimp only
  rw [hpage]
  rfl

end

/-- Settles O57: starting what waited behind an aborted command takes only fetched entries, so that the ABORT itself still ends. -/
theorem abortsAndLogs : Obligations.AbortsAndLogs := by
  unfold Obligations.AbortsAndLogs
  refine ⟨fun s sq cid c hr hsq => ⟨fun k hk hop hphase => abort_early_yields hr hsq hk hop hphase,
      fun k hk hop hphase => abort_event_yields hr hsq hk hop hphase, fun hnone => abort_missing_yields hr hsq hnone⟩,
    fun s sq cid c => ⟨fun hr hlen hok => identify_yields hr hlen hok, fun recs lost disc hr hpage hoff hok => getLog_yields hr hpage hoff hok,
      fun hr hpage => getLog_reserved_yields hr hpage⟩⟩

end Sys2Proof.Machine
end

section
/-! Tick messages of the manager, and how a worker follows them or ticks on its own (R531, R533 to R535). -/

namespace Sys2Proof.Machine
open Sys2Proof

/-! ### What is sent is no matter of the tick unit -/

/-- A port that sends a numbered flit: the flit waits in the replay buffer (R519, R520). -/
def LinkPort.sends (x : Flit) (now : Nat) (q : LinkPort) : LinkPort :=
  { q with txSeq := (q.txSeq + 1) % 4096, replay := q.replay ++ [{ x with seq := q.txSeq }],
           ackAt := if q.replay.isEmpty then now else q.ackAt, credit := modAt q.credit x.pool (fun c => c - 1) }

/-- A numbered flit goes on the wire. -/
def Dev.flitWired (d : Dev) (p : Nat) (x : Flit) : Dev :=
  (d.onPort p (fun _ => (d.port p).sends x d.clk)).wireFlit p { x with seq := (d.port p).txSeq }

/-- A numbered flit, and the fill of the replay buffer, are counted. -/
def Dev.flitCounted (d : Dev) (p : Nat) (x : Flit) (n : Nat) : Dev :=
  (if x.type = 1 then d.count (linkStat p (0x08 + 8 * x.cls)) else if x.last then d.count (linkStat p 0x30) else d).countMax (linkStat p 0x78) n

theorem Dev.sendFlit_eq (d : Dev) (p : Nat) (x : Flit) :
    d.sendFlit p x = (d.flitWired p x).flitCounted p x ((d.port p).sends x d.clk).replay.length := rfl

/-- A statistics counter put at a value. -/
def Dev.statPut (d : Dev) (o v : Nat) : Dev := { d with stats := Tbl.set (fun _ => 0) d.stats o v }

theorem Dev.countMax_eq (d : Dev) (o v : Nat) : d.countMax o v = if d.stat o < v then d.statPut o v else d := rfl

/-- A port begins to wait for credit (R544). -/
def Dev.starves (d : Dev) (p : Nat) : Dev := d.onPort p (fun q => { q with creditAt := d.clk + 1 })

/-- A port's wait for credit ends, and is counted (R544). -/
def Dev.credited (d : Dev) (p : Nat) : Dev :=
  (d.count (linkStat p 0x58) (d.clk + 1 - (d.port p).creditAt)).onPort p (fun q => { q with creditAt := 0 })

theorem Dev.noteCredit_eq (d : Dev) (p : Nat) : d.noteCredit p =
    if (d.port p).starved then (if (d.port p).creditAt = 0 then d.starves p else d)
    else if (d.port p).creditAt = 0 then d else d.credited p := rfl

section
variable {d : Dev} {f : TickUnit → TickUnit}

theorem Dev.wireFlit_onTick (p : Nat) (x : Flit) : (d.onTick f).wireFlit p x = (d.wireFlit p x).onTick f := rfl

theorem Dev.count_onTick (o n : Nat) : (d.onTick f).count o n = (d.count o n).onTick f := rfl

theorem Dev.onPort_onTick (p : Nat) (g : LinkPort → LinkPort) : (d.onTick f).onPort p g = (d.onPort p g).onTick f := rfl

theorem Dev.onTick_port (p : Nat) : (d.onTick f).port p = d.port p := rfl

theorem Dev.onTick_ite (c : Prop) [Decidable c] (a b : Dev) : (if c then a else b).onTick f = if c then a.onTick f else b.onTick f :=
  apply_ite (fun x : Dev => x.onTick f) c a b

theorem Dev.statPut_onTick (o v : Nat) : (d.onTick f).statPut o v = (d.statPut o v).onTick f := rfl

theorem Dev.countMax_onTick (o v : Nat) : (d.onTick f).countMax o v = (d.countMax o v).onTick f := by
  have hstat : (d.onTick f).stat o = d.stat o := rfl
  rw [Dev.countMax_eq, Dev.countMax_eq, hstat, Dev.statPut_onTick, Dev.onTick_ite]

theorem Dev.flitCounted_onTick (p : Nat) (x : Flit) (n : Nat) : (d.onTick f).flitCounted p x n = (d.flitCounted p x n).onTick f := by
  unfold Dev.flitCounted
  rw [Dev.count_onTick, Dev.count_onTick, ← Dev.onTick_ite, ← Dev.onTick_ite, Dev.countMax_onTick]

theorem Dev.flitWired_onTick (p : Nat) (x : Flit) : (d.onTick f).flitWired p x = (d.flitWired p x).onTick f := rfl

theorem Dev.sendFlit_onTick (p : Nat) (x : Flit) : (d.onTick f).sendFlit p x = (d.sendFlit p x).onTick f := by
  rw [Dev.sendFlit_eq, Dev.sendFlit_eq, Dev.flitWired_onTick, Dev.flitCounted_onTick]
  rfl

theorem Dev.starves_onTick (p : Nat) : (d.onTick f).starves p = (d.starves p).onTick f := rfl

theorem Dev.credited_onTick (p : Nat) : (d.onTick f).credited p = (d.credited p).onTick f := rfl

theorem Dev.noteCredit_onTick (p : Nat) : (d.onTick f).noteCredit p = (d.noteCredit p).onTick f := by
  rw [Dev.noteCredit_eq, Dev.noteCredit_eq, Dev.onTick_port, Dev.starves_onTick, Dev.credited_onTick, Dev.onTick_ite, Dev.onTick_ite, Dev.onTick_ite]

theorem Dev.pumpLink_onTick (p k : Nat) : (d.onTick f).pumpLink p k = (d.pumpLink p k).onTick f := by
  induction k generalizing d with
  | zero => exact Dev.noteCredit_onTick p
  | succ k ih =>
    unfold Dev.pumpLink
    show (if (d.port p).state = .up then _ else _) = _
    split
    · show (match (d.port p).nextCtrl with
        | some (x, q) => (((d.onTick f).onPort p (fun _ => q)).sendFlit p x).pumpLink p k
        | none => (d.onTick f).noteCredit p) = _
      cases (d.port p).nextCtrl with
      | none => exact Dev.noteCredit_onTick p
      | some y =>
        dsimp only
        rw [Dev.onPort_onTick, Dev.sendFlit_onTick, ih]
    · exact Dev.noteCredit_onTick p

theorem Dev.queueMsg_onTick (p dest src code : Nat) (body : List Byte) :
    (d.onTick f).queueMsg p dest src code body = (d.queueMsg p dest src code body).onTick f := by
  unfold Dev.queueMsg
  dsimp only
  rw [Dev.onTick_port]
  split
  · rfl
  · rw [Dev.onPort_onTick, Dev.pumpLink_onTick]

theorem Dev.broadcastOn_onTick (src code : Nat) (body : List Byte) (l : List Nat) :
    (d.onTick f).broadcastOn src code body l = (d.broadcastOn src code body l).onTick f := by
  induction l generalizing d with
  | nil => rfl
  | cons p r ih =>
    unfold Dev.broadcastOn
    dsimp only
    rw [Dev.onTick_port]
    split
    · rw [Dev.queueMsg_onTick, ih]
    · exact ih

/-- A broadcast leaves the tick unit, and does not depend on it. -/
theorem Dev.broadcast_onTick (code : Nat) (body : List Byte) : (d.onTick f).broadcast code body = (d.broadcast code body).onTick f :=
  Dev.broadcastOn_onTick ..

end

/-- What a change of the tick unit leaves is known from the unit as it was. -/
theorem Dev.onTick_congr {d : Dev} {f g : TickUnit → TickUnit} (h : f d.tick = g d.tick) : d.onTick f = d.onTick g :=
  congrArg (fun k => ({ d with tick := k } : Dev)) h

/-! ### The clauses -/

section
variable {s : State} (hl : s.Live) (hrun : s.m.dev.tick.running = true)
include hl hrun

/-- The message of tick `n` at an instant (R531). -/
def TickUnit.message (k : TickUnit) (n t : Nat) : List Byte := leBytes 4 n ++ leBytes 8 t ++ leBytes 2 k.rateN ++ leBytes 2 k.rateD

theorem tickBroadcast_yields (hrole : s.m.dev.boot.role = 1) (hmode : s.m.dev.tick.mode = .schedule)
    (hnew : s.m.dev.tick.sent ≠ s.m.dev.tick.nextNo + 1) :
    Yields .tickBroadcast s [.clk, .stats, .sid, .tick, .link] (fun t =>
      t.m.dev.tick = { s.m.dev.tick with sent := s.m.dev.tick.nextNo + 1 } ∧
      t.m.dev.clk = (s.m.dev.advanceToSid (s.m.dev.tick.next - s.m.dev.tickLead)).clk ∧
      t.m.dev.link = ((s.m.dev.advanceToSid (s.m.dev.tick.next - s.m.dev.tickLead)).broadcast 6
        (s.m.dev.tick.message s.m.dev.tick.nextNo s.m.dev.tick.next)).link) := by
  have hexec : exec .tickBroadcast s = liveDev (fun d => ((d.advanceToSid (d.tick.next - d.tickLead)).broadcast 6
      (d.tick.message d.tick.nextNo d.tick.next)).onTick (fun k => { k with sent := d.tick.nextNo + 1 })) s := by
    show execTickBroadcast s = _
    unfold execTickBroadcast
    refine liveDev_congr ?_
    dsimp only
    rw [if_neg (by rw [hrun]; rintro (h | h); exacts [h hrole, Bool.false_ne_true h]), if_pos hmode, if_neg hnew]
    exact Dev.broadcast_onTick ..
  refine yields_of_liveDev hl hexec (execTickBroadcast_framed s) (by decide) ?_
  have htame := Dev.broadcast_tame (ps := setOf [.stats, .link, .sent]) (by decide)
    (.refl _ (s.m.dev.advanceToSid (s.m.dev.tick.next - s.m.dev.tickLead))) 6 (s.m.dev.tick.message s.m.dev.tick.nextNo s.m.dev.tick.next)
  rw [Dev.settle_tick, Dev.settle_clk, Dev.settle_link]
  exact ⟨congrArg (fun k : TickUnit => { k with sent := s.m.dev.tick.nextNo + 1 }) (htame.same .tick (by decide)), htame.clk_eq (by decide), rfl⟩

section
variable {p : Nat} {g : LinkMsg} {r : List LinkMsg} (hsrc : s.m.dev.tickSource = 3) (htake : takeMsg p 6 s.m.dev.link.inbox = some (g, r))
include hsrc htake

/-- The tick message that a link message carries (R531). -/
def LinkMsg.tickMsg (g : LinkMsg) : TickMsg := { n := rd g.body 0 4, t := rd g.body 4 8, rateN := rd g.body 12 2, rateD := rd g.body 14 2 }

/-- A tick unit that keeps a message for its tick (R533). -/
def TickUnit.heard (x : TickMsg) (k : TickUnit) : TickUnit :=
  { k with msgs := k.msgs ++ [x], next := if k.msgs.isEmpty then x.t else k.next }

theorem tickMessage_late_yields (hshape : s.m.dev.Shape) (hlate : g.tickMsg.t < g.at_) :
    Yields (.tickMessage p) s [.seq, .bbx, .tick, .link, .feat 0x22] (fun t => t.m.dev.link.inbox = r ∧ t.m.dev.tick = s.m.dev.tick ∧
      t.m.dev.reg 0x22 0x80C = word (satAdd32 (s.m.dev.reg 0x22 0x80C).toNat 1)) := by
  have hexec : exec (.tickMessage p) s = liveDev (fun d => (d.withMail r).bump 0x22 0x80C) s := by
    have hgo : ¬((s.m.dev.withMail r).tickSource ≠ 3 ∨ (!(s.m.dev.withMail r).tick.running) = true) := by
      rintro (h | h)
      · exact h hsrc
      · exact Bool.false_ne_true ((congrArg (!·) hrun).symm.trans h)
    refine liveDev_congr ?_
    rw [onMsg_eq htake]
    exact (if_neg hgo).trans (if_pos hlate)
  refine yields_of_liveDev hl hexec (execTickMessage_framed p s) (by decide) ?_
  rw [Dev.settle_link, Dev.settle_tick, Dev.settle_reg]
  exact ⟨rfl, rfl, Dev.reg_bump (d := s.m.dev.withMail r) hshape ..⟩

theorem tickMessage_follows_yields (hontime : g.at_ ≤ g.tickMsg.t) (hfollow : s.m.dev.tick.following = true)
    (hbegun : s.m.dev.tick.begun = true) (hmsgs : s.m.dev.tick.msgs = []) (hn : g.tickMsg.n = (s.m.dev.tick.now + 1) % 2 ^ 32)
    (hrateN : g.tickMsg.rateN = s.m.dev.tick.rateN) (hrateD : g.tickMsg.rateD = s.m.dev.tick.rateD)
    (hlo : s.m.dev.tick.prev + 2 ^ 32 * (999 * g.tickMsg.rateD) / (1000 * max 1 g.tickMsg.rateN) ≤ g.tickMsg.t)
    (hhi : g.tickMsg.t ≤ s.m.dev.tick.prev + 2 ^ 32 * (2000 * g.tickMsg.rateD) / (1000 * max 1 g.tickMsg.rateN)) :
    Yields (.tickMessage p) s [.seq, .bbx, .tick, .link, .feat 0x22] (fun t => t.m.dev.link.inbox = r ∧
      t.m.dev.tick = { s.m.dev.tick with msgs := [g.tickMsg], next := g.tickMsg.t }) := by
  have hbefore : s.m.dev.tick.before = (s.m.dev.tick.now, s.m.dev.tick.prev, s.m.dev.tick.rateN, s.m.dev.tick.rateD) := by
    unfold TickUnit.before
    rw [hmsgs]
    exact if_pos hbegun
  have hexec : exec (.tickMessage p) s = liveDev (fun d => (d.withMail r).onTick (TickUnit.heard g.tickMsg)) s := by
    have hgo : ¬((s.m.dev.withMail r).tickSource ≠ 3 ∨ (!(s.m.dev.withMail r).tick.running) = true) := by
      rintro (h | h)
      · exact h hsrc
      · exact Bool.false_ne_true ((congrArg (!·) hrun).symm.trans h)
    have hbefore' : (s.m.dev.withMail r).tick.before = _ := hbefore
    have hfollow' : (s.m.dev.withMail r).tick.following = true := hfollow
    refine liveDev_congr ?_
    rw [onMsg_eq htake]
    refine (if_neg hgo).trans ((if_neg (Nat.not_lt.2 hontime)).trans ?_)
    rw [hbefore', hfollow']
    exact (if_pos (by rw [decide_eq_true ⟨hn, hrateN, hrateD⟩]; rfl)).trans (if_pos ⟨hlo, hhi⟩)
  refine yields_of_liveDev hl hexec (execTickMessage_framed p s) (by decide) ?_
  rw [Dev.settle_link, Dev.settle_tick]
  refine ⟨rfl, ?_⟩
  show s.m.dev.tick.heard g.tickMsg = _
  unfold TickUnit.heard
  rw [hmsgs]
  rfl

end

section
variable (hbegun : s.m.dev.tick.begun = true) (hsrc : s.m.dev.tickSource = 3) (hmsgs : s.m.dev.tick.msgs = [])
include hbegun hsrc hmsgs

/-- A tick unit that enters a worker's holdover at an instant (R534). -/
def TickUnit.entersOwn (t : Nat) (k : TickUnit) : TickUnit := { k.runFree t with holdover := true, following := false }

/-- A tick unit that stays in its own periods (R21, R534). -/
def TickUnit.staysOwn (k : TickUnit) : TickUnit := { k with holdK := k.holdK + 1, following := false }

/-- The worker at the tick with which it begins to tick on its own. -/
def Dev.entersOwn (d : Dev) : Dev :=
  (d.advanceToSid (d.tick.prev + d.tick.period)).onTick (TickUnit.entersOwn (d.tick.prev + d.tick.period))

/-- The worker at a later tick of its own. -/
def Dev.staysOwn (d : Dev) : Dev := (d.advanceToSid d.tick.freeNext).onTick TickUnit.staysOwn

/-- The tick that a worker issues on its own at an instant, on a device that has come to it. -/
def Mach.ownTick (m : Mach) (t : Nat) (d : Dev) : Mach :=
  Mach.issueTick { m with dev := d } m.dev.tick.nextNo t d.tick.holdover false .holdover

omit hl hrun hbegun hsrc hmsgs in
theorem Mach.ownTick_tick (m : Mach) (t : Nat) (d : Dev) : (m.ownTick t d).dev.clk = d.clk ∧ (m.ownTick t d).dev.tick.now = m.dev.tick.nextNo ∧
    (m.ownTick t d).dev.tick.prev = t ∧ (m.ownTick t d).dev.tick.mode = .holdover ∧ (m.ownTick t d).dev.tick.holdK = d.tick.holdK ∧
    (m.ownTick t d).dev.tick.holdover = d.tick.holdover ∧ (m.ownTick t d).dev.tick.following = d.tick.following := by
  simp only [Mach.ownTick, Mach.issueTick_clk, Mach.issueTick_tick_fields, and_self]

/-- A worker's own tick, with the fault and the event of one that followed (R534). -/
def Mach.reportsOwn (m : Mach) (t : Nat) (d : Dev) : Mach :=
  { m.ownTick t d with
    dev := if m.dev.tick.following then ((m.ownTick t d).dev.raise 481 m.dev.tick.nextNo).postEvent 0x06 0 0 else (m.ownTick t d).dev }

omit hl in
/-- No message keeps the worker from its own tick. -/
theorem substitutes : ¬(!s.m.dev.tick.running || !s.m.dev.tick.begun || decide (s.m.dev.tickSource ≠ 3) || !s.m.dev.tick.msgs.isEmpty) = true := by
  rw [hrun, hbegun, hmsgs, decide_eq_false (not_not.2 hsrc)]
  exact Bool.false_ne_true

/-- The instant of a worker's own next tick. -/
def TickUnit.ownNext (k : TickUnit) : Nat := if k.mode = .holdover then k.freeNext else k.prev + k.period

/-- The tick unit of a worker at its own tick. -/
def TickUnit.owns (t : Nat) (entering : Bool) (k : TickUnit) : TickUnit :=
  { (if k.mode = .holdover then { k with holdK := k.holdK + 1 } else k.runFree t) with holdover := k.holdover || entering, following := false }

/-- The worker that has come to its own tick. -/
def Dev.ownAt (d : Dev) (t : Nat) : Dev := (d.advanceToSid t).onTick (TickUnit.owns t d.tick.following)

omit hl in
theorem execWorkerSubstituteTick_of_own :
    exec .workerSubstituteTick s = live (fun m => m.reportsOwn m.dev.tick.ownNext (m.dev.ownAt m.dev.tick.ownNext)) s := by
  show execWorkerSubstituteTick s = _
  unfold execWorkerSubstituteTick
  exact live_congr (if_neg (substitutes hrun hbegun hsrc hmsgs))

theorem workerSubstituteTick_enters_yields (hmode : s.m.dev.tick.mode ≠ .holdover) (hfollow : s.m.dev.tick.following = true) :
    Yields .workerSubstituteTick s tickParts (fun t =>
      t.m.dev.clk = (s.m.dev.advanceToSid (s.m.dev.tick.prev + s.m.dev.tick.period)).clk ∧
      t.m.dev.tick.now = s.m.dev.tick.nextNo ∧ t.m.dev.tick.prev = s.m.dev.tick.prev + s.m.dev.tick.period ∧ t.m.dev.tick.mode = .holdover ∧
      t.m.dev.tick.holdover = true ∧ t.m.dev.tick.following = false ∧ t.m.dev.flt.lastSrc = 481) := by
  have hexec : exec .workerSubstituteTick s = live (fun m => m.reportsOwn (m.dev.tick.prev + m.dev.tick.period) m.dev.entersOwn) s := by
    rw [execWorkerSubstituteTick_of_own hrun hbegun hsrc hmsgs]
    refine live_congr ?_
    have hown : s.m.dev.ownAt (s.m.dev.tick.prev + s.m.dev.tick.period) = s.m.dev.entersOwn := by
      refine Dev.onTick_congr ?_
      show s.m.dev.tick.owns _ s.m.dev.tick.following = _
      unfold TickUnit.owns
      rw [if_neg hmode, hfollow, Bool.or_true]
      rfl
    have hat : s.m.dev.tick.ownNext = s.m.dev.tick.prev + s.m.dev.tick.period := if_neg hmode
    rw [hat, hown]
  refine yields_of_live hl hexec (execWorkerSubstituteTick_framed s) (by decide) ?_
  have hreport : (s.m.reportsOwn (s.m.dev.tick.prev + s.m.dev.tick.period) s.m.dev.entersOwn).dev = _ := if_pos hfollow
  obtain ⟨hclk, hnow, hprev, hm, -, hold, hfoll⟩ := s.m.ownTick_tick (s.m.dev.tick.prev + s.m.dev.tick.period) s.m.dev.entersOwn
  rw [hreport]
  generalize (s.m.ownTick (s.m.dev.tick.prev + s.m.dev.tick.period) s.m.dev.entersOwn).dev = x at *
  have hraise := x.raise_tame_self 481 s.m.dev.tick.nextNo
  have hpost := Dev.postEvent_tame (ps := setOf [.seq, .commands, .events]) (by decide) (.refl _ (x.raise 481 s.m.dev.tick.nextNo)) 0x06 0 0
  have htick := (hpost.same .tick (by decide)).trans (hraise.same .tick (by decide))
  have hxclk := (hpost.clk_eq (by decide)).trans (hraise.clk_eq (by decide))
  rw [Dev.settle_clk, Dev.settle_tick, Dev.settle_flt, htick, hxclk, Dev.postEvent_flt]
  exact ⟨hclk, hnow, hprev, hm, hold, hfoll, Dev.raise_lastSrc (by decide) ..⟩

theorem workerSubstituteTick_stays_yields (hmode : s.m.dev.tick.mode = .holdover) (hfollow : s.m.dev.tick.following = false) :
    Yields .workerSubstituteTick s tickParts (fun t => t.m.dev.tick.now = s.m.dev.tick.nextNo ∧
      t.m.dev.tick.prev = s.m.dev.tick.freeNext ∧ t.m.dev.tick.holdK = s.m.dev.tick.holdK + 1 ∧
      t.m.dev.tick.holdover = s.m.dev.tick.holdover) := by
  have hexec : exec .workerSubstituteTick s = live (fun m => m.reportsOwn m.dev.tick.freeNext m.dev.staysOwn) s := by
    rw [execWorkerSubstituteTick_of_own hrun hbegun hsrc hmsgs]
    refine live_congr ?_
    have hown : s.m.dev.ownAt s.m.dev.tick.freeNext = s.m.dev.staysOwn := by
      refine Dev.onTick_congr ?_
      show s.m.dev.tick.owns _ s.m.dev.tick.following = _
      unfold TickUnit.owns
      rw [if_pos hmode, hfollow, Bool.or_false]
      rfl
    have hat : s.m.dev.tick.ownNext = s.m.dev.tick.freeNext := if_pos hmode
    rw [hat, hown]
  refine yields_of_live hl hexec (execWorkerSubstituteTick_framed s) (by decide) ?_
  have hreport : (s.m.reportsOwn s.m.dev.tick.freeNext s.m.dev.staysOwn).dev = (s.m.ownTick s.m.dev.tick.freeNext s.m.dev.staysOwn).dev :=
    if_neg (fun h => Bool.false_ne_true (hfollow.symm.trans h))
  obtain ⟨-, hnow, hprev, -, hk, hold, -⟩ := s.m.ownTick_tick s.m.dev.tick.freeNext s.m.dev.staysOwn
  rw [hreport, Dev.settle_tick]
  exact ⟨hnow, hprev, hk, hold⟩

end

end

/-- Settles O53: a broadcast does not depend on the tick unit, and a worker without a message ticks by its own periods. -/
theorem tickMessages : Obligations.TickMessages := by
  unfold Obligations.TickMessages
  intro s k p hl hshape hk hrun
  subst hk
  refine ⟨fun hrole hmode hnew => tickBroadcast_yields hl hrun hrole hmode hnew, fun g r x hsrc htake hx => ?_, fun hbegun hsrc hmsgs =>
    ⟨fun hmode hfollow => workerSubstituteTick_enters_yields hl hrun hbegun hsrc hmsgs hmode hfollow,
      fun hmode hfollow => workerSubstituteTick_stays_yields hl hrun hbegun hsrc hmsgs hmode hfollow⟩⟩
  subst hx
  exact ⟨fun hlate => tickMessage_late_yields hl hrun hsrc htake hshape hlate,
    fun hontime hfollow hbegun hmsgs hn hrateN hrateD hlo hhi =>
      tickMessage_follows_yields hl hrun hsrc htake hontime hfollow hbegun hmsgs hn hrateN hrateD hlo hhi⟩

end Sys2Proof.Machine
end

section
/-! The creation of a context (R444 to R447, R506). -/

namespace Sys2Proof.Machine
open Sys2Proof

/-! ### The lowest free index of a table -/

/-- The smallest index from `k` on that a canonical table does not list: it is free, and all before it are taken. -/
theorem firstFree_spec {α : Type} [DecidableEq α] {t : Tbl (Option α)} {k : Nat} (h : Tbl.wfFrom (fun _ => none) k t = true) :
    k ≤ firstFree t k ∧ Tbl.get (fun _ => none) t (firstFree t k) = none ∧
    ∀ j, k ≤ j → j < firstFree t k → Tbl.get (fun _ => none) t j ≠ none := by
  induction t generalizing k with
  | nil => exact ⟨Nat.le_refl k, rfl, fun j hk hj => absurd hk (Nat.not_le_of_lt hj)⟩
  | cons e r ih =>
    obtain ⟨a, v⟩ := e
    simp only [Tbl.wfFrom, Bool.and_eq_true, decide_eq_true_eq] at h
    obtain ⟨⟨hle, hv⟩, hr⟩ := h
    unfold firstFree
    split
    next ha =>
      subst ha
      obtain ⟨hlt, hfree, htaken⟩ := ih hr
      refine ⟨Nat.le_of_succ_le hlt, (if_neg (Nat.ne_of_lt hlt)).trans hfree, fun j hj hfirst => ?_⟩
      by_cases hja : a = j
      · exact fun hnone => hv ((if_pos hja).symm.trans hnone)
      · exact fun hnone => htaken j (by omega) hfirst ((if_neg hja).symm.trans hnone)
    next ha =>
      exact ⟨Nat.le_refl k, (if_neg ha).trans (Tbl.get_of_below _ hr (by omega)), fun j hk hj => absurd hk (Nat.not_le_of_lt hj)⟩

/-! ### Contexts that are added -/

/-- Every context of the first device is one of the second, whose table is canonical. -/
structure Dev.CtxGrows (d e : Dev) : Prop where
  wf : Tbl.wf (fun _ => none) e.ctxs = true
  kept : ∀ j x, d.ctx j = some x → e.ctx j = some x

section
variable {d : Dev}

theorem Dev.CtxGrows.trans {e f : Dev} (h : d.CtxGrows e) (k : e.CtxGrows f) : d.CtxGrows f := ⟨k.wf, fun j x hx => k.kept j x (h.kept j x hx)⟩

/-- The context that a create puts, with the time of its creation. -/
def Ctx.stamped (c : Ctx) (stamp : Nat) : Ctx := { c with stamp := stamp }

theorem Dev.setCtx_ctxs (i : Nat) (c : Option Ctx) : (d.setCtx i c).ctxs = Tbl.set (fun _ => none) d.ctxs i c := rfl

theorem Dev.ctx_setCtx_of_ne {i j : Nat} (h : j ≠ i) (c : Option Ctx) : (d.setCtx i c).ctx j = d.ctx j := Tbl.get_set_of_ne _ _ _ h

theorem Dev.ctx_setCtx_some (i : Nat) (c : Ctx) : (d.setCtx i (some c)).ctx i = some c :=
  Tbl.get_set_same (fun _ => none) d.ctxs i (Option.some_ne_none c)

theorem Dev.newCtx_snd (c : Ctx) : (d.newCtx c).2 = d.setCtx (d.newCtx c).1 (some (c.stamped d.stamp32)) := rfl

section
variable (hw : Tbl.wf (fun _ => none) d.ctxs = true)
include hw

theorem Dev.newCtx_free (c : Ctx) : d.ctx (d.newCtx c).1 = none ∧ ∀ j, j < (d.newCtx c).1 → d.ctx j ≠ none := by
  obtain ⟨-, hfree, htaken⟩ := firstFree_spec hw
  exact ⟨hfree, fun j hj => htaken j (Nat.zero_le j) hj⟩

omit hw in
theorem Dev.newCtx_ctx (c : Ctx) : (d.newCtx c).2.ctx (d.newCtx c).1 = some (c.stamped d.stamp32) := by
  rw [Dev.newCtx_snd]
  exact Dev.ctx_setCtx_some ..

theorem Dev.newCtx_grows (c : Ctx) : d.CtxGrows (d.newCtx c).2 := by
  obtain ⟨hfree, -⟩ := Dev.newCtx_free hw c
  rw [Dev.newCtx_snd]
  refine ⟨by rw [Dev.setCtx_ctxs]; exact Tbl.wf_set _ hw _ _, fun j x hx => ?_⟩
  have hj : j ≠ (d.newCtx c).1 := by
    rintro rfl
    exact Option.some_ne_none x (hx.symm.trans hfree)
  exact (Dev.ctx_setCtx_of_ne hj _).trans hx

theorem Dev.newCtxs_grows {β : Type} (f : β → Ctx) (l : List β) : d.CtxGrows (l.foldl (fun d b => (d.newCtx (f b)).2) d) :=
  List.foldlRecOn l _ ⟨hw, fun _ _ hx => hx⟩ (fun _ hx b _ => hx.trans (Dev.newCtx_grows hx.wf (f b)))

end

theorem Dev.CtxGrows.of_ctxs {e f : Dev} (h : d.CtxGrows e) (hc : f.ctxs = e.ctxs) : d.CtxGrows f :=
  ⟨by rw [hc]; exact h.wf, fun j x hx => by rw [Dev.ctx, hc]; exact h.kept j x hx⟩

/-! ### What a create makes -/

/-- The context of a kind, with its stream and its parameters. -/
def ctxOfKind (kind stream : Nat) (l : List Byte) : Ctx :=
  { kind := [CtxKind.capture, .proxy, .playback, .flow, .mirror, .hostRing].getD kind .capture, stream := stream, params := l }

/-- The device with a capture's frame context and tile contexts. -/
def Dev.withTiles (d : Dev) (l : List Byte) : Dev :=
  (List.range (rd l 2 1)).foldl (fun x t => (x.newCtx { kind := .tile (d.newCtx (ctxOfKind 0 d.freeStream l)).1 t, stream := d.freeStream }).2)
    (d.newCtx (ctxOfKind 0 d.freeStream l)).2

/-- The configuration that a capture takes from its parameters (R445). -/
def Dev.acbTaken (d : Dev) (s : Nat) (l : List Byte) : Dev :=
  (((d.setReg 0x15 (0x40 * s) ((word (rd l 16 4)) &&& 0xF0FFC007)).setReg 0x15 (0x40 * s + 4) (word (rd l 20 4))).setReg 0x15 (0x40 * s + 8)
    (word (rd l 24 4))).setReg 0x15 (0x40 * s + 0xC) (word (rd l 28 4 % 2 ^ 23))

theorem Dev.acbTaken_tame (s : Nat) (l : List Byte) : Dev.Tame (setOf [.feat 0x15]) d (d.acbTaken s l) := by
  unfold Dev.acbTaken
  have hstep {x : Dev} (h : Dev.Tame (setOf [.feat 0x15]) d x) (o : Nat) (v : Word) : Dev.Tame (setOf [.feat 0x15]) d (x.setReg 0x15 o v) :=
    Dev.setReg_tame (by decide) h ..
  exact hstep (hstep (hstep (hstep (.refl _ d) _ _) _ _) _ _) _ _

theorem Dev.createKind_capture (l : List Byte) : d.createKind 0 l = ((d.newCtx (ctxOfKind 0 d.freeStream l)).1, d.freeStream,
    ((d.withTiles l).setCap d.freeStream (some (capOf (d.newCtx (ctxOfKind 0 d.freeStream l)).1 l))).acbTaken d.freeStream l) := rfl

/-- The device with a proxy context and the contexts of its outputs. -/
def Dev.withOutputs (d : Dev) (l : List Byte) : Dev :=
  (proxyOuts l).foldl (fun x o => (x.newCtx { kind := .output (d.newCtx (ctxOfKind 1 (rd l 0 1) l)).1 o, stream := rd l 0 1 }).2)
    (d.newCtx (ctxOfKind 1 (rd l 0 1) l)).2

/-- A proxy path that has nothing developed. -/
def Proxy.fresh (p : Proxy) : Proxy :=
  { p with stopping := false, runFirst := none, developed := 0, frames := [], named := [], outs := List.replicate 3 {} }

theorem Dev.createKind_proxy (l : List Byte) : d.createKind 1 l = ((d.newCtx (ctxOfKind 1 (rd l 0 1) l)).1, 0,
    (d.withOutputs l).onProxy Proxy.fresh) := rfl

theorem Dev.createKind_playback (l : List Byte) : d.createKind 2 l = ((d.newCtx (ctxOfKind 2 0 l)).1, 0, (d.newCtx (ctxOfKind 2 0 l)).2) := rfl

/-- A flow's bucket takes its rate and burst, and a shaper's is reset (R504, R506). -/
def Dev.bucketTaken (d : Dev) (l : List Byte) : Dev :=
  let off := bucketReg (decide (rd l 0 1 = 1)) (rd l 4 2)
  let d2 := (d.setReg 0x21 off (word (rd l 8 4))).setReg 0x21 (off + 4) (word (rd l 12 4))
  if decide (rd l 0 1 = 1) then d2.setBucket true (rd l 4 2) {}
  else (d2.setReg 0x21 (off + 0xC) (word (2 ^ 30 * bits (rd l 3 1) 0 1))).resetShaper (rd l 4 2)

theorem Dev.createKind_flow_of_none {l : List Byte} (h : rd l 4 2 = 0xFFFF) :
    d.createKind 3 l = ((d.newCtx (ctxOfKind 3 0 l)).1, 0, (d.newCtx (ctxOfKind 3 0 l)).2) := by
  have hflow : d.createFlow l = ((d.newCtx (ctxOfKind 3 0 l)).1, (d.newCtx (ctxOfKind 3 0 l)).2) := if_pos h
  show ((d.createFlow l).1, 0, (d.createFlow l).2) = _
  rw [hflow]

theorem Dev.createKind_flow_of_bucket {l : List Byte} (h : rd l 4 2 ≠ 0xFFFF) :
    d.createKind 3 l = ((d.newCtx (ctxOfKind 3 0 l)).1, 0, (d.newCtx (ctxOfKind 3 0 l)).2.bucketTaken l) := by
  have hflow : d.createFlow l = ((d.newCtx (ctxOfKind 3 0 l)).1, (d.newCtx (ctxOfKind 3 0 l)).2.bucketTaken l) := by
    unfold Dev.createFlow Dev.bucketTaken
    dsimp only
    rw [if_neg h]
    split <;> rfl
  show ((d.createFlow l).1, 0, (d.createFlow l).2) = _
  rw [hflow]

/-- A mirror session takes its context (R444). -/
def Dev.sessionTaken (d : Dev) (k i : Nat) : Dev :=
  (d.setBit 0x1A (0x100 + 16 * k) 31 true).onFab (fun f => { f with mirCtx := modAt f.mirCtx k (fun _ => i) })

theorem Dev.createKind_mirror (l : List Byte) : d.createKind 4 l = ((d.newCtx (ctxOfKind 4 0 l)).1, 0,
    (d.newCtx (ctxOfKind 4 0 l)).2.sessionTaken (rd l 0 1) (d.newCtx (ctxOfKind 4 0 l)).1) := rfl

/-- The completion queue that a host ring is (R447). -/
def ringCq (l : List Byte) (i : Nat) : Cq where
  base := rd l 0 8
  size := rd l 12 4
  ien := bit (rd l 10 1) 0
  vector := rd l 11 1
  aggTime := rd l 16 1
  aggCount := rd l 17 1
  ring := some i
  slotLog2 := rd l 9 1

theorem Dev.createKind_ring (l : List Byte) : d.createKind 5 l = ((d.newCtx (ctxOfKind 5 0 l)).1, 0,
    (d.newCtx (ctxOfKind 5 0 l)).2.setCq (rd l 8 1) (some (ringCq l (d.newCtx (ctxOfKind 5 0 l)).1))) := rfl

theorem Dev.bucketTaken_ctxs (l : List Byte) : (d.bucketTaken l).ctxs = d.ctxs := by
  unfold Dev.bucketTaken
  dsimp only
  split <;> rfl

/-- A create takes the lowest free ID for its context, puts the context there, and leaves the others (R444). -/
structure Dev.Creates (d : Dev) (kind : Nat) (l : List Byte) (r : Nat × Nat × Dev) (st : Nat) : Prop where
  id : r.1 = (d.newCtx (ctxOfKind kind st l)).1
  stream : r.2.1 = if kind = 0 then d.freeStream else 0
  grows : (d.newCtx (ctxOfKind kind st l)).2.CtxGrows r.2.2
  capture : kind = 0 → st = d.freeStream

theorem Dev.createKind_creates (hw : Tbl.wf (fun _ => none) d.ctxs = true) {kind : Nat} (hk : kind ≤ 5) (l : List Byte) :
    ∃ st, d.Creates kind l (d.createKind kind l) st := by
  have hwf (c : Ctx) : Tbl.wf (fun _ => none) (d.newCtx c).2.ctxs = true := (Dev.newCtx_grows hw c).wf
  have hself (c : Ctx) : (d.newCtx c).2.CtxGrows (d.newCtx c).2 := ⟨hwf c, fun _ _ hx => hx⟩
  have hcases : kind = 0 ∨ kind = 1 ∨ kind = 2 ∨ kind = 3 ∨ kind = 4 ∨ kind = 5 := by omega
  obtain rfl | rfl | rfl | rfl | rfl | rfl := hcases
  · have htiles : (d.newCtx (ctxOfKind 0 d.freeStream l)).2.CtxGrows (d.withTiles l) := Dev.newCtxs_grows (hwf _) _ _
    rw [Dev.createKind_capture]
    have hctxs := (Dev.acbTaken_tame (d := (d.withTiles l).setCap d.freeStream (some (capOf (d.newCtx (ctxOfKind 0 d.freeStream l)).1 l)))
      d.freeStream l).same .ctxs (by decide)
    exact ⟨d.freeStream, rfl, rfl, htiles.of_ctxs (hctxs.trans rfl), fun _ => rfl⟩
  · have houts : (d.newCtx (ctxOfKind 1 (rd l 0 1) l)).2.CtxGrows (d.withOutputs l) := Dev.newCtxs_grows (hwf _) _ _
    rw [Dev.createKind_proxy]
    exact ⟨rd l 0 1, rfl, rfl, houts.of_ctxs rfl, fun h => absurd h (by decide)⟩
  · rw [Dev.createKind_playback]
    exact ⟨0, rfl, rfl, hself _, fun h => absurd h (by decide)⟩
  · by_cases hb : rd l 4 2 = 0xFFFF
    · rw [Dev.createKind_flow_of_none hb]
      exact ⟨0, rfl, rfl, hself _, fun h => absurd h (by decide)⟩
    · rw [Dev.createKind_flow_of_bucket hb]
      exact ⟨0, rfl, rfl, (hself _).of_ctxs (Dev.bucketTaken_ctxs l), fun h => absurd h (by decide)⟩
  · rw [Dev.createKind_mirror]
    exact ⟨0, rfl, rfl, (hself _).of_ctxs rfl, fun h => absurd h (by decide)⟩
  · rw [Dev.createKind_ring]
    exact ⟨0, rfl, rfl, (hself _).of_ctxs rfl, fun h => absurd h (by decide)⟩

/-- A capture's stream (R445). -/
theorem Dev.createKind_cap (l : List Byte) :
    (d.createKind 0 l).2.2.cap d.freeStream = some (capOf (d.createKind 0 l).1 l) := by
  rw [Dev.createKind_capture]
  exact ((Dev.acbTaken_tame ..).cap_eq (by decide) _).trans (Dev.cap_setCap_some (d := d.withTiles l) ..)

/-- A host ring's queue (R447). -/
theorem Dev.createKind_cq (l : List Byte) : (d.createKind 5 l).2.2.cq (rd l 8 1) = some (ringCq l (d.createKind 5 l).1) := by
  rw [Dev.createKind_ring]
  exact Dev.cq_setCq_some ..

theorem regKey_bucket_ne (policer : Bool) {b i j : Nat} (hb : b < 4096) (hi : i < 16) (hj : j < 16) (h : i ≠ j) :
    regKey 0x21 (bucketReg policer b + i) ≠ regKey 0x21 (bucketReg policer b + j) := by
  unfold regKey bucketReg
  split <;> omega

/-- The registers of a flow's bucket take its rate and its burst (R506). -/
theorem Dev.createKind_bucket (hshape : d.Shape) {l : List Byte} (hb : rd l 4 2 ≠ 0xFFFF) (hlt : rd l 4 2 < 4096) :
    (d.createKind 3 l).2.2.reg 0x21 (bucketReg (decide (rd l 0 1 = 1)) (rd l 4 2)) = word (rd l 8 4) ∧
    (d.createKind 3 l).2.2.reg 0x21 (bucketReg (decide (rd l 0 1 = 1)) (rd l 4 2) + 4) = word (rd l 12 4) := by
  rw [Dev.createKind_flow_of_bucket hb]
  have hshape' : (d.newCtx (ctxOfKind 3 0 l)).2.Shape := hshape
  dsimp only
  generalize (d.newCtx (ctxOfKind 3 0 l)).2 = y at *
  unfold Dev.bucketTaken
  dsimp only
  have h04 := regKey_bucket_ne (decide (rd l 0 1 = 1)) (i := 0) (j := 4) hlt (by decide) (by decide) (by decide)
  have h0C := regKey_bucket_ne (decide (rd l 0 1 = 1)) (i := 0) (j := 12) hlt (by decide) (by decide) (by decide)
  have h4C := regKey_bucket_ne (decide (rd l 0 1 = 1)) (i := 4) (j := 12) hlt (by decide) (by decide) (by decide)
  generalize bucketReg (decide (rd l 0 1 = 1)) (rd l 4 2) = off at *
  have hrate := Dev.reg_setReg hshape' 0x21 off (word (rd l 8 4))
  have hburst := Dev.reg_setReg (Dev.setReg_keeps y 0x21 off (word (rd l 8 4)) hshape') 0x21 (off + 4) (word (rd l 12 4))
  have hrate2 := (Dev.reg_setReg_of_ne (d := y.setReg 0x21 off (word (rd l 8 4))) (v := word (rd l 12 4)) h04).trans hrate
  split
  · exact ⟨hrate2, hburst⟩
  · exact ⟨(Dev.reg_setReg_of_ne h0C).trans hrate2, (Dev.reg_setReg_of_ne h4C).trans hburst⟩

end

end Sys2Proof.Machine
end

section
/-! CONTEXT_CREATE (R444 to R447, R506). -/

namespace Sys2Proof.Machine
open Sys2Proof

section
variable {d : Dev}

/-- The levels of a proxy's streams, as PRX_ENC_LEVEL shows them (R224). -/
def Dev.levelsShown (d : Dev) (l : List Byte) : Dev :=
  (proxyOuts l).foldl (fun d o => if o < 2 then d.setReg 0x17 (outBase o + 0x1C) (word (d.hevcLevel o)) else d) d

/-- The device with a new context of a kind. -/
def Dev.contextMade (d : Dev) (kind : Nat) (l : List Byte) : Dev :=
  if kind = 1 then (d.createKind kind l).2.2.levelsShown l else (d.createKind kind l).2.2

theorem Dev.levelsShown_tame (l : List Byte) : Dev.Tame (setOf [.feat 0x17]) d (d.levelsShown l) :=
  Dev.tame_foldl (.refl _ d) (fun _ _ h => Dev.tame_ite (Dev.setReg_tame (by decide) h) h)

theorem Dev.contextMade_tame (kind : Nat) (l : List Byte) : Dev.Tame (setOf [.cqs, .shapers, .policers, .fab, .ctxs, .caps, .proxy, .feat 0x15,
    .feat 0x17, .feat 0x1A, .feat 0x21]) d (d.contextMade kind l) := by
  have hmade := Dev.createKind_tame (ps := setOf [.cqs, .shapers, .policers, .fab, .ctxs, .caps, .proxy, .feat 0x15, .feat 0x17, .feat 0x1A,
    .feat 0x21]) (by decide) (.refl _ d) kind l
  exact Dev.tame_ite (hmade.trans ((Dev.levelsShown_tame l).mono (by decide))) hmade

theorem Dev.contextMade_ctxs (kind : Nat) (l : List Byte) : (d.contextMade kind l).ctxs = (d.createKind kind l).2.2.ctxs := by
  unfold Dev.contextMade
  split
  · exact (Dev.levelsShown_tame l).same .ctxs (by decide)
  · rfl

theorem Dev.contextMade_of_ne {kind : Nat} (h : kind ≠ 1) (l : List Byte) : d.contextMade kind l = (d.createKind kind l).2.2 := if_neg h

/-- A host ring's parameters name a queue of the device (R447); a flow's bucket is one of 4,096, or none (R506). -/
theorem Dev.bucket_lt_of_flowOk {l : List Byte} (h : d.paramsOk 3 l = true) (hb : rd l 4 2 ≠ 0xFFFF) : rd l 4 2 < 4096 := by
  change d.flowOk l = true at h
  unfold Dev.flowOk at h
  simp only [Bool.and_eq_true, decide_eq_true_eq] at h
  obtain ⟨⟨⟨⟨-, -, hbucket, -⟩, -⟩, -⟩, -⟩ := h
  exact hbucket.resolve_right hb

end

/-! ### The clauses -/

section
variable {s : State} {sq cid kind : Nat} {c : Cmd} {l : List Byte} (hr : s.Runs sq cid 0x40 c) (hkind : kind = c.dw 0 % 8) (hle : kind ≤ 5)
  (hdata : c.dataKind ≠ 0) (hlen : paramLen kind ≤ c.dataLen) (hok : s.m.mem.dataOk c (paramLen kind) = true)
  (hin : s.m.mem.dataIn c (paramLen kind) = l) (hparams : s.m.dev.paramsOk kind l = true)
include hr hkind hle hdata hlen hok hin hparams

omit hr hkind hin hparams hle in
/-- No operand keeps a create from looking at its parameters. -/
theorem createGuards (hpow : kind = 1 → s.m.dev.powerMoves = false) : ¬(kind = 1 ∧ s.m.dev.powerMoves = true) ∧
    ¬(c.dataKind = 0 ∨ c.dataLen < paramLen kind) ∧ ¬(!s.m.mem.dataOk c (paramLen kind)) = true := by
  refine ⟨fun h => Bool.false_ne_true ((hpow h.1).symm.trans h.2), ?_, ?_⟩
  · rintro (h | h)
    · exact hdata h
    · exact Nat.not_le_of_lt h hlen
  · rw [hok]
    exact Bool.false_ne_true

theorem contextCreate_exhausted_yields (hpow : kind = 1 → s.m.dev.powerMoves = false)
    (hfull : 16384 - s.m.dev.ctxUsed < (s.m.dev.ctxNeeds kind l).1 ∨ (s.m.dev.ctxNeeds kind l).2.2 ≤ (s.m.dev.ctxNeeds kind l).2.1) :
    Yields (.contextCreate sq cid) s [.seq, .cqs, .commands, .errorLog, .admission, .shapers, .policers, .fab, .ctxs, .caps, .proxy, .feat 0x15,
      .feat 0x17, .feat 0x1A, .feat 0x21] (fun t => t.m.dev.ctxs = s.m.dev.ctxs ∧
      t.Ends sq cid Status.ctxExhausted ((16384 - s.m.dev.ctxUsed) % 2 ^ 32)) := by
  obtain ⟨hmoves, hblock, hreach⟩ := createGuards hdata hlen hok hpow
  refine (yields_of_completion (m := s.m) (result := 16384 - s.m.dev.ctxUsed) (e := {}) (status := Status.ctxExhausted)
    (P := fun t => t.m.dev.ctxs = s.m.dev.ctxs) hr rfl (execContextCreate_framed sq cid s) (by decide) ?_ (hr.cmd_of_cmds rfl) ?_).mono
    (fun t ht => ⟨ht.2, ht.1⟩)
  · dsimp only
    rw [← hkind]
    refine (if_neg hmoves).trans ((if_neg (Nat.not_lt.2 hle)).trans ((if_neg hblock).trans ((if_neg hreach).trans ?_)))
    rw [hin, hparams]
    exact (if_neg Bool.false_ne_true).trans (if_pos (hfull.imp id Nat.lt_succ_of_le))
  · exact (Dev.settle_ctxs _).trans ((Mach.complete_tame ..).same .ctxs (by decide))

theorem contextCreate_yields (hshape : s.m.dev.Shape) (hctxs : Tbl.wf (fun _ => none) s.m.dev.ctxs = true)
    (hcaps : Tbl.wf (fun _ => none) s.m.dev.caps = true) (hroom : (s.m.dev.ctxNeeds kind l).1 ≤ 16384 - s.m.dev.ctxUsed)
    (hlimit : (s.m.dev.ctxNeeds kind l).2.1 < (s.m.dev.ctxNeeds kind l).2.2)
    (hproxy : kind = 1 → s.m.dev.powerMoves = false ∧ ∃ x, s.m.dev.cap (rd l 0 1) = some x ∧ s.m.dev.checkProxy x (proxyOuts l) = none) :
    Yields (.contextCreate sq cid) s [.seq, .cqs, .commands, .errorLog, .admission, .shapers, .policers, .fab, .ctxs, .caps, .proxy, .feat 0x15,
      .feat 0x17, .feat 0x1A, .feat 0x21] (fun t => ∃ i o, (∀ j, j < i → s.m.dev.ctx j ≠ none) ∧ s.m.dev.ctx i = none ∧
      t.Ends sq cid Status.ok (((if kind = 0 then s.m.dev.freeStream else 0) * 2 ^ 16 + i) % 2 ^ 32) ∧ t.m.dev.ctx i = some o ∧
      o.kind = [CtxKind.capture, .proxy, .playback, .flow, .mirror, .hostRing].getD kind .capture ∧ o.params = l ∧
      o.stamp = s.m.dev.stamp32 ∧ (∀ j x, s.m.dev.ctx j = some x → t.m.dev.ctx j = some x) ∧
      (kind = 0 → o.stream = s.m.dev.freeStream ∧ s.m.dev.cap s.m.dev.freeStream = none ∧
        t.m.dev.cap s.m.dev.freeStream = some (capOf i l)) ∧
      (kind = 3 → rd l 4 2 ≠ 0xFFFF →
        t.m.dev.reg 0x21 (bucketReg (decide (rd l 0 1 = 1)) (rd l 4 2)) = word (rd l 8 4) ∧
        t.m.dev.reg 0x21 (bucketReg (decide (rd l 0 1 = 1)) (rd l 4 2) + 4) = word (rd l 12 4)) ∧
      (kind = 5 → ∃ q, t.m.dev.cq (rd l 8 1) = some q ∧ q.base = rd l 0 8 ∧ q.size = rd l 12 4 ∧ q.ring = some i ∧
        q.slotLog2 = rd l 9 1 ∧ q.vector = rd l 11 1)) := by
  obtain ⟨hmoves, hblock, hreach⟩ := createGuards hdata hlen hok (fun h => (hproxy h).1)
  obtain ⟨st, hid, hstream, hgrows, hcapture⟩ := s.m.dev.createKind_creates hctxs hle l
  have hfits : ¬(ctxTotal - s.m.dev.ctxUsed < (s.m.dev.ctxNeeds kind l).1 ∨ (s.m.dev.ctxNeeds kind l).2.2 < (s.m.dev.ctxNeeds kind l).2.1 + 1) := by
    rintro (h | h)
    · exact Nat.not_le_of_lt h hroom
    · exact Nat.not_le_of_lt h hlimit
  have hsource : ¬(kind = 1 ∧ (s.m.dev.cap (rd l 0 1)).isNone = true) := by
    rintro ⟨h, hnone⟩
    obtain ⟨-, x, hx, -⟩ := hproxy h
    rw [hx] at hnone
    exact Bool.false_ne_true hnone
  have hshort : (if kind = 1 then (s.m.dev.cap (rd l 0 1)).bind (fun x => s.m.dev.checkProxy x (proxyOuts l)) else none) = none := by
    split
    next h =>
      obtain ⟨-, x, hx, hcheck⟩ := hproxy h
      rw [hx]
      exact hcheck
    next => rfl
  refine (yields_of_completion (m := { s.m with dev := s.m.dev.contextMade kind l }) (e := {}) (status := Status.ok)
    (result := (if kind = 0 then s.m.dev.freeStream else 0) * 2 ^ 16 + (s.m.dev.createKind kind l).1)
    (P := fun t => t.m.dev.ctxs = (s.m.dev.contextMade kind l).ctxs ∧ t.m.dev.caps = (s.m.dev.contextMade kind l).caps ∧
      (∀ o, t.m.dev.reg 0x21 o = (s.m.dev.contextMade kind l).reg 0x21 o) ∧ ∀ q, t.m.dev.cq q = (s.m.dev.contextMade kind l).cq q)
    hr rfl (execContextCreate_framed sq cid s) (by decide) ?_ (hr.cmd_of_cmds ((Dev.contextMade_tame kind l).cmds_eq (by decide))) ?_).mono
    (fun t ht => ?_)
  · dsimp only
    rw [← hkind]
    refine (if_neg hmoves).trans ((if_neg (Nat.not_lt.2 hle)).trans ((if_neg hblock).trans ((if_neg hreach).trans ?_)))
    rw [hin, hparams]
    refine (if_neg Bool.false_ne_true).trans ((if_neg hfits).trans ((if_neg hsource).trans ?_))
    rw [hshort, ← hstream]
    rfl
  · have htame := Mach.complete_tame { s.m with dev := s.m.dev.contextMade kind l } c Status.ok
      ((if kind = 0 then s.m.dev.freeStream else 0) * 2 ^ 16 + (s.m.dev.createKind kind l).1) {}
    exact ⟨(Dev.settle_ctxs _).trans (htame.same .ctxs (by decide)), (Dev.settle_caps _).trans (htame.same .caps (by decide)),
      fun o => (Dev.settle_reg ..).trans (htame.reg_eq (by decide) (by decide) o), fun q => (Dev.settle_cq ..).trans (Mach.complete_cq ..)⟩
  · obtain ⟨hends, htctxs, htcaps, htreg, htcq⟩ := ht
    obtain ⟨hfree, htaken⟩ := Dev.newCtx_free hctxs (ctxOfKind kind st l)
    have hctx (j : Nat) : t.m.dev.ctx j = (s.m.dev.createKind kind l).2.2.ctx j := by
      rw [Dev.ctx, htctxs, Dev.contextMade_ctxs]
      rfl
    have hnew := hgrows.kept _ _ (Dev.newCtx_ctx (d := s.m.dev) (ctxOfKind kind st l))
    have hold := (Dev.newCtx_grows hctxs (ctxOfKind kind st l)).trans hgrows
    rw [← hid] at hfree htaken hnew
    refine ⟨(s.m.dev.createKind kind l).1, _, htaken, hfree, hends, (hctx _).trans hnew, rfl, rfl, rfl,
      fun j x hx => (hctx j).trans (hold.kept j x hx), fun h0 => ?_, fun h3 hb => ?_, fun h5 => ?_⟩
    · obtain ⟨-, hnone, -⟩ := firstFree_spec hcaps
      have hcap : t.m.dev.cap s.m.dev.freeStream = (s.m.dev.contextMade kind l).cap s.m.dev.freeStream := by
        rw [Dev.cap, htcaps]
        rfl
      refine ⟨hcapture h0, hnone, hcap.trans ?_⟩
      rw [h0, Dev.contextMade_of_ne (by decide)]
      exact Dev.createKind_cap l
    · rw [h3] at hparams
      rw [htreg, htreg, h3, Dev.contextMade_of_ne (by decide)]
      exact Dev.createKind_bucket hshape hb (Dev.bucket_lt_of_flowOk hparams hb)
    · rw [htcq, h5, Dev.contextMade_of_ne (by decide)]
      exact ⟨_, Dev.createKind_cq l, rfl, rfl, rfl, rfl, rfl⟩

end

end Sys2Proof.Machine
end

section
/-! CONTEXT_DESTROY (R446). -/

namespace Sys2Proof.Machine
open Sys2Proof

/-! ### Tables with entries removed -/

section
variable {α : Type} [DecidableEq α] {t : Tbl (Option α)} {lo j : Nat} {x : α} {p : Nat × Option α → Bool}

theorem Tbl.get_filter_of_kept (h : Tbl.wfFrom (fun _ => none) lo t = true) (hx : Tbl.get (fun _ => none) t j = some x)
    (hp : p (j, some x) = true) : Tbl.get (fun _ => none) (t.filter p) j = some x := by
  induction t generalizing lo with
  | nil => exact absurd hx (Option.some_ne_none x).symm
  | cons e r ih =>
    obtain ⟨a, v⟩ := e
    simp only [Tbl.wfFrom, Bool.and_eq_true, decide_eq_true_eq] at h
    obtain ⟨-, hr⟩ := h
    by_cases ha : a = j
    · subst ha
      have hv : v = some x := (if_pos rfl).symm.trans hx
      rw [List.filter_cons_of_pos (hv ▸ hp)]
      exact (if_pos rfl).trans hv
    · have hrest : Tbl.get (fun _ => none) r j = some x := (if_neg ha).symm.trans hx
      rw [List.filter_cons]
      split
      · exact (if_neg ha).trans (ih hr hrest)
      · exact ih hr hrest

theorem Tbl.get_filter_of_removed (h : Tbl.wfFrom (fun _ => none) lo t = true) (hx : Tbl.get (fun _ => none) t j = some x)
    (hp : p (j, some x) = false) : Tbl.get (fun _ => none) (t.filter p) j = none := by
  induction t generalizing lo with
  | nil => rfl
  | cons e r ih =>
    obtain ⟨a, v⟩ := e
    simp only [Tbl.wfFrom, Bool.and_eq_true, decide_eq_true_eq] at h
    obtain ⟨-, hr⟩ := h
    by_cases ha : a = j
    · subst ha
      have hv : v = some x := (if_pos rfl).symm.trans hx
      rw [List.filter_cons_of_neg (by rw [hv, hp]; exact Bool.false_ne_true)]
      exact Tbl.get_of_below _ (Tbl.wfFrom_filter _ p hr) (Nat.lt_succ_self a)
    · have hrest : Tbl.get (fun _ => none) r j = some x := (if_neg ha).symm.trans hx
      rw [List.filter_cons]
      split
      · exact (if_neg ha).trans (ih hr hrest)
      · exact ih hr hrest

end

/-! ### What a destroy frees -/

/-- Whether a context belongs to another one. -/
def Ctx.partOf (x : Ctx) (id : Nat) : Prop := ∃ k, x.kind = .tile id k ∨ x.kind = .output id k

/-- Whether a destroy keeps a context. -/
def Ctx.outlives (id j : Nat) (x : Ctx) : Bool :=
  decide (j ≠ id) && (match x.kind with
    | .tile f _ => decide (f ≠ id)
    | .output f _ => decide (f ≠ id)
    | _ => true)

theorem Ctx.outlives_of_partOf {x : Ctx} {id j : Nat} (h : x.partOf id) : Ctx.outlives id j x = false := by
  obtain ⟨k, hk | hk⟩ := h <;> simp [Ctx.outlives, hk]

theorem Ctx.outlives_of_not {x : Ctx} {id j : Nat} (hj : j ≠ id) (h : ∀ k, x.kind ≠ .tile id k ∧ x.kind ≠ .output id k) :
    Ctx.outlives id j x = true := by
  unfold Ctx.outlives
  rw [decide_eq_true hj, Bool.true_and]
  split
  next f k hk =>
    refine decide_eq_true (fun hf => ?_)
    subst hf
    exact (h k).1 hk
  next f k hk =>
    refine decide_eq_true (fun hf => ?_)
    subst hf
    exact (h k).2 hk
  next => rfl

section
variable {d : Dev} {id j : Nat} {x : Ctx} (hw : Tbl.wf (fun _ => none) d.ctxs = true) (hx : d.ctx j = some x)
include hw hx

theorem Dev.freeCtx_kept (h : Ctx.outlives id j x = true) : (d.freeCtx id).ctx j = some x := Tbl.get_filter_of_kept hw hx h

theorem Dev.freeCtx_freed (h : Ctx.outlives id j x = false) : (d.freeCtx id).ctx j = none := Tbl.get_filter_of_removed hw hx h

end

/-! ### The command that destroys -/

/-- A predicate that holds of fewer entries counts fewer. -/
theorem countP_lt_of_mem {α : Type} {p q : α → Bool} {l : List α} {c : α} (h : ∀ x ∈ l, p x = true → q x = true) (hc : c ∈ l)
    (hq : q c = true) (hp : p c = false) : l.countP p < l.countP q := by
  induction l with
  | nil => exact absurd hc List.not_mem_nil
  | cons x r ih =>
    rw [List.countP_cons, List.countP_cons]
    obtain rfl | hr := List.mem_cons.1 hc
    · rw [hq, hp]
      have hle := List.countP_mono_left (fun y hy => h y (List.mem_cons_of_mem _ hy))
      simp only [Bool.false_eq_true, if_false, if_true]
      omega
    · have hlt := ih (fun y hy => h y (List.mem_cons_of_mem _ hy)) hr
      have hx := h x List.mem_cons_self
      cases hpx : p x with
      | false =>
        simp only [Bool.false_eq_true, if_false]
        split <;> omega
      | true =>
        rw [hx hpx]
        simp only [if_true]
        omega

/-- Whether an entry is a playback of a context, in flight under an identifier. -/
def Cmd.playsFor (sq cid id : Nat) (c : Cmd) : Bool := c.isLive sq cid && decide (c.opcode = 0x60 ∧ c.target = id)

/-- A playback of a context that is in flight completes with ABORTED (R446). -/
def Dev.abortPlay (id : Nat) (d : Dev) (c : Cmd) : Dev :=
  if c.opcode = 0x60 ∧ c.target = id ∧ c.phase ≠ .completing then d.complete c.sq c.cid Status.aborted else d

theorem Dev.abortPlays_live {d : Dev} {sq cid id : Nat} (l : List Cmd) (h : l.countP (Cmd.playsFor sq cid id) < d.liveCount sq cid) :
    0 < (l.foldl (Dev.abortPlay id) d).liveCount sq cid := by
  induction l generalizing d with
  | nil => exact h
  | cons c r ih =>
    rw [List.countP_cons] at h
    refine ih ?_
    unfold Dev.abortPlay
    split
    next hplay =>
      obtain ⟨hop, htarget, hphase⟩ := hplay
      by_cases hkey : c.sq = sq ∧ c.cid = cid
      · have hcount : Cmd.playsFor sq cid id c = true := by
          rw [Cmd.playsFor, Cmd.isLive, decide_eq_true hkey.1, decide_eq_true hkey.2, decide_eq_true hphase, decide_eq_true ⟨hop, htarget⟩]
          rfl
        rw [if_pos hcount] at h
        have hle := Dev.liveCount_complete_le (d := d) (sq := sq) (cid := cid) c.sq c.cid Status.aborted 0 {}
        omega
      · rw [Dev.liveCount_complete_of_ne (by omega)]
        omega
    next => omega

/-- What a destroyed context leaves completes no command but playbacks. -/
theorem Dev.dropKind_cmd {d : Dev} {sq cid id : Nat} {c : Cmd} (hc : d.cmd sq cid = some c) (hop : c.opcode ≠ 0x60) (x : Ctx) :
    ∃ k, (d.dropKind id x).cmd sq cid = some k := by
  have hplays : ∃ k, (d.abortPlayback id).cmd sq cid = some k := by
    refine Dev.cmd_isSome_of_liveCount (Dev.abortPlays_live d.host.cmds ?_)
    refine countP_lt_of_mem (fun y _ hy => (Bool.and_eq_true_iff.1 hy).1) (List.mem_of_find?_eq_some hc) (List.find?_some hc) ?_
    rw [Cmd.playsFor, decide_eq_false (fun h => hop h.1), Bool.and_false]
  unfold Dev.dropKind
  split
  · exact ⟨c, hc⟩
  · exact ⟨c, hc⟩
  · exact hplays
  · exact ⟨c, hc⟩
  · exact ⟨c, hc⟩
  · exact ⟨c, hc⟩

/-! ### The clauses -/

section
variable {s : State} {sq cid : Nat} {c : Cmd} {x : Ctx} (hr : s.Runs sq cid 0x41 c) (hx : s.m.dev.ctx c.target = some x)
include hr hx

section
variable (hown : ∀ f k, x.kind ≠ .tile f k ∧ x.kind ≠ .output f k)
include hown

theorem contextDestroy_yields (hctxs : Tbl.wf (fun _ => none) s.m.dev.ctxs = true) (hcaps : Tbl.wf (fun _ => none) s.m.dev.caps = true)
    (hfree : s.m.dev.ctxBusy c.target x = none) :
    Yields (.contextDestroy sq cid) s [.seq, .cqs, .commands, .errorLog, .admission, .fab, .ctxs, .caps, .codec, .proxy, .feat 0x1A] (fun t =>
      t.Ends sq cid Status.ok 0 ∧ t.m.dev.ctx c.target = none ∧
      (∀ j o, s.m.dev.ctx j = some o → (∃ k, o.kind = .tile c.target k ∨ o.kind = .output c.target k) → t.m.dev.ctx j = none) ∧
      (∀ j o, j ≠ c.target → s.m.dev.ctx j = some o → (∀ k, o.kind ≠ .tile c.target k ∧ o.kind ≠ .output c.target k) →
        t.m.dev.ctx j = some o) ∧
      (x.kind = .capture → t.m.dev.cap x.stream = none)) := by
  obtain ⟨-, hcmd, -, hop⟩ := id hr
  obtain ⟨k, hk⟩ := Dev.dropKind_cmd (id := c.target) hcmd (by rw [hop]; decide) x
  have hdrop := Dev.dropKind_tame (ps := setOf [.seq, .cqs, .commands, .errorLog, .fab, .caps, .codec, .proxy, .feat 0x1A]) (by decide)
    (.refl _ s.m.dev) c.target x
  have hsame : (s.m.dev.dropKind c.target x).ctxs = s.m.dev.ctxs := hdrop.same .ctxs (by decide)
  refine (yields_of_completion (m := { s.m with dev := (s.m.dev.dropKind c.target x).freeCtx c.target }) (result := 0) (e := {})
    (status := Status.ok) (P := fun t => t.m.dev.ctxs = ((s.m.dev.dropKind c.target x).freeCtx c.target).ctxs ∧
      t.m.dev.caps = (s.m.dev.dropKind c.target x).caps) hr rfl (execContextDestroy_framed sq cid s) (by decide) ?_ hk ?_).mono (fun t ht => ?_)
  · dsimp only
    rw [hx]
    dsimp only
    split
    next f k hkind => exact absurd hkind (hown f k).1
    next f k hkind => exact absurd hkind (hown f k).2
    next =>
      rw [hfree]
  · have htame := Mach.complete_tame { s.m with dev := (s.m.dev.dropKind c.target x).freeCtx c.target } c Status.ok 0 {}
    exact ⟨(Dev.settle_ctxs _).trans (htame.same .ctxs (by decide)), (Dev.settle_caps _).trans (htame.same .caps (by decide))⟩
  · obtain ⟨hends, htctxs, htcaps⟩ := ht
    have hctx (j : Nat) : t.m.dev.ctx j = ((s.m.dev.dropKind c.target x).freeCtx c.target).ctx j := by
      rw [Dev.ctx, htctxs]
      rfl
    have hw : Tbl.wf (fun _ => none) (s.m.dev.dropKind c.target x).ctxs = true := by
      rw [hsame]
      exact hctxs
    have hold {j : Nat} {o : Ctx} (ho : s.m.dev.ctx j = some o) : (s.m.dev.dropKind c.target x).ctx j = some o := by
      rw [Dev.ctx, hsame]
      exact ho
    refine ⟨hends, ?_, fun j o ho hpart => ?_, fun j o hj ho hnot => ?_, fun hcap => ?_⟩
    · rw [hctx]
      refine Dev.freeCtx_freed hw (hold hx) ?_
      rw [Ctx.outlives, decide_eq_false (not_not.2 rfl)]
      rfl
    · rw [hctx]
      exact Dev.freeCtx_freed hw (hold ho) (Ctx.outlives_of_partOf hpart)
    · rw [hctx]
      exact Dev.freeCtx_kept hw (hold ho) (Ctx.outlives_of_not hj hnot)
    · have hdropped : (s.m.dev.dropKind c.target x).caps = (s.m.dev.setCap x.stream none).caps := by
        unfold Dev.dropKind
        rw [hcap]
      rw [Dev.cap, htcaps, hdropped]
      exact (Tbl.get_set _ hcaps x.stream x.stream none).trans (if_pos rfl)

theorem contextDestroy_busy_yields {st : Nat} (hbusy : s.m.dev.ctxBusy c.target x = some st) :
    Yields (.contextDestroy sq cid) s [.seq, .cqs, .commands, .errorLog, .admission, .fab, .ctxs, .caps, .codec, .proxy, .feat 0x1A] (fun t =>
      t.Ends sq cid Status.admissionDenied 0 ∧ t.m.dev.ctxs = s.m.dev.ctxs ∧ t.m.dev.caps = s.m.dev.caps) := by
  refine yields_of_completion (m := { s.m with dev := s.m.dev.noteDenied 13 st 0 0 }) (result := 0) (e := { needed := 0, available := 0 })
    (status := Status.admissionDenied) hr rfl (execContextDestroy_framed sq cid s) (by decide) ?_ (hr.cmd_of_cmds rfl) ?_
  · dsimp only
    rw [hx]
    dsimp only
    split
    next f k hkind => exact absurd hkind (hown f k).1
    next f k hkind => exact absurd hkind (hown f k).2
    next =>
      rw [hbusy]
      rfl
  · have htame := Mach.complete_tame { s.m with dev := s.m.dev.noteDenied 13 st 0 0 } c Status.admissionDenied 0 { needed := 0, available := 0 }
    exact ⟨(Dev.settle_ctxs _).trans (htame.same .ctxs (by decide)), (Dev.settle_caps _).trans (htame.same .caps (by decide))⟩

end

theorem contextDestroy_part_yields (hpart : ∃ f k, x.kind = .tile f k ∨ x.kind = .output f k) :
    Yields (.contextDestroy sq cid) s [.seq, .cqs, .commands, .errorLog, .admission, .fab, .ctxs, .caps, .codec, .proxy, .feat 0x1A] (fun t =>
      t.Ends sq cid Status.invalidField 0 ∧ t.m.dev.ctxs = s.m.dev.ctxs) := by
  refine yields_of_completion (m := s.m) (result := 0) (e := { field := 4 }) (status := Status.invalidField) hr rfl
    (execContextDestroy_framed sq cid s) (by decide) ?_ (hr.cmd_of_cmds rfl)
    ((Dev.settle_ctxs _).trans ((Mach.complete_tame ..).same .ctxs (by decide)))
  rw [hx]
  dsimp only
  obtain ⟨f, k, hk | hk⟩ := hpart
  · rw [hk]
    rfl
  · rw [hk]
    rfl

end

/-- Settles O48: a create takes the lowest free IDs, and a destroy frees a context with those that belong to it. -/
theorem contexts : Obligations.Contexts := by
  unfold Obligations.Contexts
  refine ⟨fun s sq cid c kind l hr hshape hctxs hcaps hcqs hkind hle hdata hlen hok hin hparams =>
    ⟨fun hroom hlimit hproxy => contextCreate_yields hr hkind hle hdata hlen hok hin hparams hshape hctxs hcaps hroom hlimit hproxy,
      fun hpow hfull => contextCreate_exhausted_yields hr hkind hle hdata hlen hok hin hparams hpow hfull⟩,
    fun s sq cid c x hr hctxs hcaps hx => ⟨fun hown => ⟨fun hfree => contextDestroy_yields hr hx hown hctxs hcaps hfree,
      fun st hbusy => contextDestroy_busy_yields hr hx hown hbusy⟩, fun hpart => contextDestroy_part_yields hr hx hpart⟩⟩

end Sys2Proof.Machine
end
